-- ==== Sys2Proof/Word.lean ====
section
/-! DEFINITION. The word types of the machine (02 R27, 03 R45). -/

namespace Sys2Proof

/-- A byte. -/
abbrev Byte := BitVec 8

/-- A scalar register value (01 R15). -/
abbrev Word := BitVec 64

/-- One instruction word (03 R45). -/
abbrev IWord := BitVec 32

/-- A vector register value (01 R15). -/
abbrev VWord := BitVec 512

end Sys2Proof
end

