-- ==== Sys2Proof/Config.lean ====
section
/-! DEFINITION. What the part fixes (00 R1) and the values the spec leaves open, as constants without a body. -/

namespace Sys2Proof.Config

/-- Cells of the module (00 R1). -/
def cells : Nat := 512

/-- Dies of the module (00 R1). -/
def dies : Nat := 4

/-- Slots that run programs (01 R7). -/
def slots : Nat := 15

/-- First address of the scratchpad views (01 R21). -/
def viewBase : Nat := 0x0100_0000

/-- Bytes of one view (01 R21). -/
def viewSize : Nat := 0x10_0000

/-- First address of partition memory (01 R21). -/
def memBase : Nat := 0x1_0000_0000

/-- First address above partition memory (01 R21). -/
def memTop : Nat := 0x1_0000_0000_0000

/-- GVT value of a quiescent group, and the contribution of a slot between events (13 R262, R276). -/
def vtMax : Nat := 0xFFFF_FFFF_FFFF

/-- The `n`-th value that an agent outside the module supplies and that no rule gives: what a host address
or a peer holds (21 R373, 14 R287). Log 5. -/
opaque freeWord : Nat → Word

/-- The external port behind which a fabric peer lies (14 R288, 21 R367). The spec gives no assignment. Log 16. -/
opaque peerPort : Nat → Nat

/-- The SM3 digest (21 R368). The spec names the function and does not give it. Log 6. -/
opaque sm3 : List Byte → BitVec 256

/-- Does the signature verify over the digest with the fused Yelxia key (21 R368)? The key is not given. Log 6. -/
opaque sm2Verifies : BitVec 256 → BitVec 512 → Bool

/-- An SM2 signature under the identity key in D0's fuses (21 R369). Log 6. -/
opaque sm2Sign : BitVec 256 → BitVec 512

/-- The SM3 digest of the device identity certificate (21 R369). Log 6. -/
opaque identityDigest : BitVec 256

/-- The `tvec2` value that an accepted image loads (21 R368). Log 6. -/
opaque imageTvec2 : List Byte → Word

/-- The `qpol` value that an accepted image loads for a partition on a die (21 R368). Log 6. -/
opaque imageQpol : List Byte → Nat → Nat → Word

/-- The rings and rows that an accepted image's retirement tables map (20 R366, 21 R368). Log 6. -/
opaque imageRetiredRings : List Byte → Nat → List Nat
opaque imageRetiredRows : List Byte → Nat → List (Nat × Nat × Nat)

/-- What a 128-byte line that AES-256-XTS wrote under one key reads as under another, the tweak being the line's physical address
(18 R346); none: in the clear. The spec names the cipher and does not give it. Log 89. -/
opaque recrypt : Option (BitVec 512) → Option (BitVec 512) → Nat → BitVec 1024 → BitVec 1024

end Sys2Proof.Config
end

