-- ==== Sys2Proof/Syntax.lean ====
section
/-! DEFINITION. The steps of the machine: one constructor for each row of the opcode table.
The first 192 carry the fields of a 32-bit instruction word, each at the width of its field (03 R46).
The others are the steps of the machine's other units (homes, engines, fabric, Prompters, host, boot);
they have no word, and carry the identity of what moves. -/

namespace Sys2Proof

/-- A port through which firmware or the host writes a register (17 R332, 21 R374). -/
inductive RegPort where
  | function (n : Nat)     -- BAR 2 of function n; partition p is function p + 1 (18 R349)
  | management (die : Nat) -- the management space of a die (21 R374)
  deriving DecidableEq, Repr

/-- An event that targets the state of a context that is not in a slot (16 R323). -/
inductive SavedEvent where
  | flags (f : BitVec 5)    -- flag merge under R31
  | memFlags (f : BitVec 5) -- flag merge of a `.nf` atomic under R103
  | ack (cls : BitVec 2)    -- acknowledgement of a posted operation of class 0-2; 3: own domain
  | setBp (b : Bool)
  | setRbp
  | gvt (v : BitVec 48)
  | bud (v : Word)
  | dl (v : Word)
  deriving DecidableEq, Repr

/-- What the host or a fabric peer asks of partition memory (10 R218; 14 R293); a take or give comes from a peer alone. -/
inductive OutsideOp where
  | load (n : Nat)
  | store (data : List Byte)
  | amo (op : BitVec 3) (ty : BitVec 2) (v exp : Word)
  | take
  | give (v : Word)
  deriving DecidableEq, Repr

/-- A request that a fabric peer sends through an external port (14 R291-R293). -/
structure PeerFrame where
  ctxnum : Nat
  seq : Nat
  retransmit : Bool
  part : Nat
  va : Word
  op : OutsideOp
  deriving DecidableEq, Repr

/-- Where a soft error strikes (20 R359, R365). -/
inductive ErrPlace where
  | scratchpad (cell off : Nat)
  | l2 (die pa : Nat)
  | dram (die pa : Nat)
  | latch (cell : Nat) (back : Bool)
  | registers (ctx : Nat) (reg : Nat)
  | image (ctx word : Nat)
  | tile (cell idx : Nat)
  | queue (cell idx word : Nat)
  | l1 (cell place off : Nat)
  | version (key : Nat) (num : Word)
  deriving DecidableEq, Repr

/-- The steps of the machine, in the order of the opcode table. -/
inductive Instr where
  /-- ADD, R65: Writes xa + xb, wrapping, into xd. -/
  | add (d : BitVec 5) (a : BitVec 5) (b : BitVec 5)
  /-- SUB, R65: Writes xa - xb, wrapping, into xd. -/
  | sub (d : BitVec 5) (a : BitVec 5) (b : BitVec 5)
  /-- AND, R65: Writes the bitwise AND of xa and xb into xd. -/
  | and (d : BitVec 5) (a : BitVec 5) (b : BitVec 5)
  /-- OR, R65: Writes the bitwise OR of xa and xb into xd. -/
  | or (d : BitVec 5) (a : BitVec 5) (b : BitVec 5)
  /-- XOR, R65: Writes the bitwise XOR of xa and xb into xd. -/
  | xor (d : BitVec 5) (a : BitVec 5) (b : BitVec 5)
  /-- SHL, R66: Shifts xa left by xb[5:0] into xd. -/
  | shl (d : BitVec 5) (a : BitVec 5) (b : BitVec 5)
  /-- SHR, R66: Shifts xa right by xb[5:0] with zero fill into xd. -/
  | shr (d : BitVec 5) (a : BitVec 5) (b : BitVec 5)
  /-- SRA, R66: Shifts xa right by xb[5:0] with sign fill into xd. -/
  | sra (d : BitVec 5) (a : BitVec 5) (b : BitVec 5)
  /-- SLT, R65: Writes 1 into xd if xa < xb signed, else 0. -/
  | slt (d : BitVec 5) (a : BitVec 5) (b : BitVec 5)
  /-- SLTU, R65: Writes 1 into xd if xa < xb unsigned, else 0. -/
  | sltu (d : BitVec 5) (a : BitVec 5) (b : BitVec 5)
  /-- MIN, R65: Writes the signed minimum of xa and xb into xd. -/
  | min (d : BitVec 5) (a : BitVec 5) (b : BitVec 5)
  /-- MAX, R65: Writes the signed maximum of xa and xb into xd. -/
  | max (d : BitVec 5) (a : BitVec 5) (b : BitVec 5)
  /-- MINU, R65: Writes the unsigned minimum of xa and xb into xd. -/
  | minu (d : BitVec 5) (a : BitVec 5) (b : BitVec 5)
  /-- MAXU, R65: Writes the unsigned maximum of xa and xb into xd. -/
  | maxu (d : BitVec 5) (a : BitVec 5) (b : BitVec 5)
  /-- MUL, R65: Writes the low 64 bits of xa times xb into xd. -/
  | mul (d : BitVec 5) (a : BitVec 5) (b : BitVec 5)
  /-- MULH, R65: Writes the high 64 bits of the signed product into xd. -/
  | mulh (d : BitVec 5) (a : BitVec 5) (b : BitVec 5)
  /-- MULHU, R65: Writes the high 64 bits of the unsigned product into xd. -/
  | mulhu (d : BitVec 5) (a : BitVec 5) (b : BitVec 5)
  /-- DIV, R67: Writes the signed quotient rounded toward zero, with fixed results for the borderline cases. -/
  | div (d : BitVec 5) (a : BitVec 5) (b : BitVec 5)
  /-- DIVU, R67: Writes the unsigned quotient into xd. -/
  | divu (d : BitVec 5) (a : BitVec 5) (b : BitVec 5)
  /-- REM, R67: Writes the signed remainder, with the sign of the dividend. -/
  | rem (d : BitVec 5) (a : BitVec 5) (b : BitVec 5)
  /-- REMU, R67: Writes the unsigned remainder into xd. -/
  | remu (d : BitVec 5) (a : BitVec 5) (b : BitVec 5)
  /-- CLZ, R65: Writes the count of leading zero bits of xa into xd. -/
  | clz (d : BitVec 5) (a : BitVec 5)
  /-- CTZ, R65: Writes the count of trailing zero bits of xa into xd. -/
  | ctz (d : BitVec 5) (a : BitVec 5)
  /-- POPC, R65: Writes the count of one bits of xa into xd. -/
  | popc (d : BitVec 5) (a : BitVec 5)
  /-- BFX, R68: Extracts a zero-extended bit field of xa into xd. -/
  | bfx (d : BitVec 5) (a : BitVec 5) (b : BitVec 5)
  /-- BFI, R68: Inserts the low bits of xa into a bit field of xd. -/
  | bfi (d : BitVec 5) (a : BitVec 5) (b : BitVec 5)
  /-- SEXT, R69: Sign-extends xa from width 8, 16 or 32 into xd. -/
  | sext (d : BitVec 5) (a : BitVec 5) (w : BitVec 2)
  /-- ZEXT, R69: Zero-extends xa from width 8, 16 or 32 into xd. -/
  | zext (d : BitVec 5) (a : BitVec 5) (w : BitVec 2)
  /-- ADDI, R70: Writes xa plus the sign-extended immediate into xd. -/
  | addi (d : BitVec 5) (a : BitVec 5) (i : BitVec 16)
  /-- ANDI, R70: Writes xa AND the sign-extended immediate into xd. -/
  | andi (d : BitVec 5) (a : BitVec 5) (i : BitVec 16)
  /-- ORI, R70: Writes xa OR the sign-extended immediate into xd. -/
  | ori (d : BitVec 5) (a : BitVec 5) (i : BitVec 16)
  /-- XORI, R70: Writes xa XOR the sign-extended immediate into xd. -/
  | xori (d : BitVec 5) (a : BitVec 5) (i : BitVec 16)
  /-- SLTI, R70: Writes 1 into xd if xa is below the immediate, signed. -/
  | slti (d : BitVec 5) (a : BitVec 5) (i : BitVec 16)
  /-- SHLI, R71: Shifts xa left by an immediate count into xd. -/
  | shli (d : BitVec 5) (a : BitVec 5) (n : BitVec 6)
  /-- SHRI, R71: Shifts xa right logically by an immediate count into xd. -/
  | shri (d : BitVec 5) (a : BitVec 5) (n : BitVec 6)
  /-- SRAI, R71: Shifts xa right arithmetically by an immediate count into xd. -/
  | srai (d : BitVec 5) (a : BitVec 5) (n : BitVec 6)
  /-- LUI, R72: Writes the sign-extended immediate shifted left 16 into xd. -/
  | lui (d : BitVec 5) (i : BitVec 16)
  /-- ADDPC, R72: Writes pc plus four times the immediate into xd. -/
  | addpc (d : BitVec 5) (i : BitVec 16)
  /-- BEQ, R73: Branches when xa equals xb. -/
  | beq (a : BitVec 5) (b : BitVec 5) (o : BitVec 16)
  /-- BNE, R73: Branches when xa differs from xb. -/
  | bne (a : BitVec 5) (b : BitVec 5) (o : BitVec 16)
  /-- BLT, R73: Branches when xa is below xb, signed. -/
  | blt (a : BitVec 5) (b : BitVec 5) (o : BitVec 16)
  /-- BGE, R73: Branches when xa is at least xb, signed. -/
  | bge (a : BitVec 5) (b : BitVec 5) (o : BitVec 16)
  /-- BLTU, R73: Branches when xa is below xb, unsigned. -/
  | bltu (a : BitVec 5) (b : BitVec 5) (o : BitVec 16)
  /-- BGEU, R73: Branches when xa is at least xb, unsigned. -/
  | bgeu (a : BitVec 5) (b : BitVec 5) (o : BitVec 16)
  /-- JAL, R74: Writes pc + 4 into xd and jumps by the word offset. -/
  | jal (d : BitVec 5) (o : BitVec 21)
  /-- JALR, R75: Checks target alignment, links pc + 4 and jumps to xa plus the byte offset. -/
  | jalr (d : BitVec 5) (a : BitVec 5) (i : BitVec 16)
  /-- LD_B, R93: Loads a sign-extended byte under the ord and wc of the word. -/
  | ldB (d : BitVec 5) (a : BitVec 5) (o : BitVec 2) (w : BitVec 2) (i : BitVec 12)
  /-- LD_H, R93: Loads a sign-extended halfword. -/
  | ldH (d : BitVec 5) (a : BitVec 5) (o : BitVec 2) (w : BitVec 2) (i : BitVec 12)
  /-- LD_W, R93: Loads a sign-extended word. -/
  | ldW (d : BitVec 5) (a : BitVec 5) (o : BitVec 2) (w : BitVec 2) (i : BitVec 12)
  /-- LD_D, R93: Loads a doubleword under weak, acquire or strong order. -/
  | ldD (d : BitVec 5) (a : BitVec 5) (o : BitVec 2) (w : BitVec 2) (i : BitVec 12)
  /-- LD_D_TAKE, R97: Parks until the doubleword is full, reads it and sets it empty. -/
  | ldDTake (d : BitVec 5) (a : BitVec 5) (w : BitVec 2) (i : BitVec 12)
  /-- LD_BU, R93: Loads a zero-extended byte. -/
  | ldBu (d : BitVec 5) (a : BitVec 5) (o : BitVec 2) (w : BitVec 2) (i : BitVec 12)
  /-- LD_HU, R93: Loads a zero-extended halfword. -/
  | ldHu (d : BitVec 5) (a : BitVec 5) (o : BitVec 2) (w : BitVec 2) (i : BitVec 12)
  /-- LD_WU, R93: Loads a zero-extended word. -/
  | ldWu (d : BitVec 5) (a : BitVec 5) (o : BitVec 2) (w : BitVec 2) (i : BitVec 12)
  /-- ST_B, R93: Stores the low byte of xs under the ord and wc of the word. -/
  | stB (s : BitVec 5) (a : BitVec 5) (o : BitVec 2) (w : BitVec 2) (i : BitVec 12)
  /-- ST_H, R93: Stores the low halfword of xs. -/
  | stH (s : BitVec 5) (a : BitVec 5) (o : BitVec 2) (w : BitVec 2) (i : BitVec 12)
  /-- ST_W, R93: Stores the low word of xs. -/
  | stW (s : BitVec 5) (a : BitVec 5) (o : BitVec 2) (w : BitVec 2) (i : BitVec 12)
  /-- ST_D, R93: Stores the doubleword xs under weak, release or strong order. -/
  | stD (s : BitVec 5) (a : BitVec 5) (o : BitVec 2) (w : BitVec 2) (i : BitVec 12)
  /-- ST_D_GIVE, R97: Parks until the doubleword is empty, writes it and sets it full. -/
  | stDGive (s : BitVec 5) (a : BitVec 5) (w : BitVec 2) (i : BitVec 12)
  /-- LDV_EQ, R99: Reads version xb of a versioned word, parking until it is live, or reads by stamp in optimistic mode. -/
  | ldvEq (d : BitVec 5) (a : BitVec 5) (b : BitVec 5)
  /-- LDV_LE, R99: Reads the largest live version at or below xb, parking until one exists. -/
  | ldvLe (d : BitVec 5) (a : BitVec 5) (b : BitVec 5)
  /-- STV, R99: Writes or replaces a version of a versioned word and retires versions 8 older. -/
  | stv (s : BitVec 5) (a : BitVec 5) (b : BitVec 5)
  /-- AMO_ADD, R102: Atomically adds xb to the word at its home, fetching or no-fetch. -/
  | amoAdd (d : BitVec 5) (a : BitVec 5) (b : BitVec 5) (o : BitVec 2) (n : BitVec 1) (t : BitVec 2)
  /-- AMO_MIN, R102: Atomically takes the minimum of the word and xb. -/
  | amoMin (d : BitVec 5) (a : BitVec 5) (b : BitVec 5) (o : BitVec 2) (n : BitVec 1) (t : BitVec 2)
  /-- AMO_MAX, R102: Atomically takes the maximum of the word and xb. -/
  | amoMax (d : BitVec 5) (a : BitVec 5) (b : BitVec 5) (o : BitVec 2) (n : BitVec 1) (t : BitVec 2)
  /-- AMO_AND, R102: Atomically ANDs xb into the word. -/
  | amoAnd (d : BitVec 5) (a : BitVec 5) (b : BitVec 5) (o : BitVec 2) (n : BitVec 1) (t : BitVec 2)
  /-- AMO_OR, R102: Atomically ORs xb into the word. -/
  | amoOr (d : BitVec 5) (a : BitVec 5) (b : BitVec 5) (o : BitVec 2) (n : BitVec 1) (t : BitVec 2)
  /-- AMO_XOR, R102: Atomically XORs xb into the word. -/
  | amoXor (d : BitVec 5) (a : BitVec 5) (b : BitVec 5) (o : BitVec 2) (n : BitVec 1) (t : BitVec 2)
  /-- AMO_SWP, R102: Atomically swaps xb into the word and returns the old value. -/
  | amoSwp (d : BitVec 5) (a : BitVec 5) (b : BitVec 5) (o : BitVec 2) (t : BitVec 2)
  /-- AMO_CAS, R102: Atomically compares the word with xd and writes xb on equality. -/
  | amoCas (d : BitVec 5) (a : BitVec 5) (b : BitVec 5) (o : BitVec 2) (t : BitVec 2)
  /-- FENCE_CELL, R106: Waits until earlier accesses are performed for every slot of the cell. -/
  | fenceCell
  /-- FENCE_DOM, R106: Waits until earlier accesses are performed for every cell of the domain. -/
  | fenceDom
  /-- FENCE_DIE, R106: Waits for die-wide performance and pst0 = 0. -/
  | fenceDie
  /-- FENCE_MOD, R106: Waits for module-wide performance and pst0 = pst1 = 0. -/
  | fenceMod
  /-- FENCE_SYS, R106: Waits for performance at every agent and all three posted counts at zero. -/
  | fenceSys
  /-- FENCE_X, R107: Writes dirty L1 bytes back so that later Stagehand copy reads see earlier stores. -/
  | fenceX
  /-- FLAGF, R108: Fences against every agent and then posts a release add of xa to the word at cN's cursor. -/
  | flagf (c : BitVec 3) (a : BitVec 5)
  /-- BAR_ARV, R111: Arrives at a barrier after release waits and returns the phase. -/
  | barArv (d : BitVec 5) (a : BitVec 5)
  /-- BAR_WT, R112: Parks until the barrier phase differs from xb. -/
  | barWt (a : BitVec 5) (b : BitVec 5)
  /-- BAR_AW, R112: Arrives once, recording tsw.ap, and parks until the phase moves on. -/
  | barAw (d : BitVec 5) (a : BitVec 5)
  /-- BAR_EXP, R111: Declares xb bytes expected at a barrier. -/
  | barExp (a : BitVec 5) (b : BitVec 5)
  /-- INV, R114: Discards the range's lines from L1, or L1 and L2, counting dirty discards. -/
  | inv (a : BitVec 5) (b : BitVec 5) (s : BitVec 1)
  /-- WB, R113: Writes the range's dirty lines to L2, or through to DRAM. -/
  | wb (a : BitVec 5) (b : BitVec 5) (s : BitVec 1)
  /-- WBINV, R113: Writes back and then invalidates each line of the range. -/
  | wbinv (a : BitVec 5) (b : BitVec 5) (s : BitVec 1)
  /-- PF, R114: Requests the range's lines into L1 or L2 without faulting or waiting. -/
  | pf (a : BitVec 5) (b : BitVec 5) (s : BitVec 1)
  /-- VADD, R138: Adds lanes, wrapping, saturating or rounding. -/
  | vadd (d : BitVec 4) (a : BitVec 4) (b : BitVec 4) (p : BitVec 3) (w : BitVec 2) (r : BitVec 1) (t : BitVec 3)
  /-- VSUB, R138: Subtracts lanes. -/
  | vsub (d : BitVec 4) (a : BitVec 4) (b : BitVec 4) (p : BitVec 3) (w : BitVec 2) (r : BitVec 1) (t : BitVec 3)
  /-- VMUL, R138: Multiplies lanes, low or high half for integers. -/
  | vmul (d : BitVec 4) (a : BitVec 4) (b : BitVec 4) (p : BitVec 3) (w : BitVec 2) (r : BitVec 1) (t : BitVec 3)
  /-- VFMA, R138: Computes vd + va x vb per lane, rounding once. -/
  | vfma (d : BitVec 4) (a : BitVec 4) (b : BitVec 4) (p : BitVec 3) (r : BitVec 1) (t : BitVec 3)
  /-- VMIN, R138: Takes the lane minimum. -/
  | vmin (d : BitVec 4) (a : BitVec 4) (b : BitVec 4) (p : BitVec 3) (w : BitVec 2) (t : BitVec 3)
  /-- VMAX, R138: Takes the lane maximum. -/
  | vmax (d : BitVec 4) (a : BitVec 4) (b : BitVec 4) (p : BitVec 3) (w : BitVec 2) (t : BitVec 3)
  /-- VAND, R138: Bitwise AND over 64-bit lanes. -/
  | vand (d : BitVec 4) (a : BitVec 4) (b : BitVec 4) (p : BitVec 3)
  /-- VOR, R138: Bitwise OR over 64-bit lanes. -/
  | vor (d : BitVec 4) (a : BitVec 4) (b : BitVec 4) (p : BitVec 3)
  /-- VXOR, R138: Bitwise XOR over 64-bit lanes. -/
  | vxor (d : BitVec 4) (a : BitVec 4) (b : BitVec 4) (p : BitVec 3)
  /-- VSHL, R138: Shifts integer lanes left. -/
  | vshl (d : BitVec 4) (a : BitVec 4) (b : BitVec 4) (p : BitVec 3) (t : BitVec 3)
  /-- VSHR, R138: Shifts integer lanes right with zero fill. -/
  | vshr (d : BitVec 4) (a : BitVec 4) (b : BitVec 4) (p : BitVec 3) (t : BitVec 3)
  /-- VSRA, R138: Shifts integer lanes right with sign fill. -/
  | vsra (d : BitVec 4) (a : BitVec 4) (b : BitVec 4) (p : BitVec 3) (t : BitVec 3)
  /-- VCMP, R141: Compares lanes and writes a predicate register. -/
  | vcmp (d : BitVec 4) (a : BitVec 4) (b : BitVec 4) (p : BitVec 3) (c : BitVec 3) (t : BitVec 3)
  /-- VSEL, R138: Selects each lane from va or vb by the predicate. -/
  | vsel (d : BitVec 4) (a : BitVec 4) (b : BitVec 4) (p : BitVec 3) (t : BitVec 3)
  /-- VABS, R138: Takes the lane absolute value. -/
  | vabs (d : BitVec 4) (a : BitVec 4) (p : BitVec 3) (w : BitVec 2) (t : BitVec 3)
  /-- VNEG, R138: Negates lanes. -/
  | vneg (d : BitVec 4) (a : BitVec 4) (p : BitVec 3) (w : BitVec 2) (t : BitVec 3)
  /-- VCVT, R142: Converts lanes between types, rounding RNE. -/
  | vcvt (d : BitVec 4) (a : BitVec 4) (p : BitVec 3) (e : BitVec 3) (s : BitVec 3)
  /-- VCVT_RTZ, R142: Converts lanes between types, rounding RTZ. -/
  | vcvtRtz (d : BitVec 4) (a : BitVec 4) (p : BitVec 3) (e : BitVec 3) (s : BitVec 3)
  /-- VRCP, R140: Computes the correctly rounded reciprocal per lane. -/
  | vrcp (d : BitVec 4) (a : BitVec 4) (p : BitVec 3) (r : BitVec 1) (t : BitVec 3)
  /-- VRSQ, R140: Computes the correctly rounded reciprocal square root per lane. -/
  | vrsq (d : BitVec 4) (a : BitVec 4) (p : BitVec 3) (r : BitVec 1) (t : BitVec 3)
  /-- VEXP, R140: Computes the correctly rounded 2^x per lane. -/
  | vexp (d : BitVec 4) (a : BitVec 4) (p : BitVec 3) (r : BitVec 1) (t : BitVec 3)
  /-- VLOG, R140: Computes the correctly rounded log2 per lane. -/
  | vlog (d : BitVec 4) (a : BitVec 4) (p : BitVec 3) (r : BitVec 1) (t : BitVec 3)
  /-- VBCAST, R143: Broadcasts the low bits of an x register to the active lanes. -/
  | vbcast (d : BitVec 4) (a : BitVec 4) (p : BitVec 3) (t : BitVec 3)
  /-- VEXT, R143: Extracts lane k of va into an x register. -/
  | vext (d : BitVec 4) (a : BitVec 4) (b : BitVec 4) (t : BitVec 3)
  /-- VINS, R143: Inserts the low bits of an x register into lane k. -/
  | vins (d : BitVec 4) (a : BitVec 4) (b : BitVec 4) (t : BitVec 3)
  /-- VPERM, R143: Permutes the lanes of va by the indices in vb. -/
  | vperm (d : BitVec 4) (a : BitVec 4) (b : BitVec 4) (p : BitVec 3) (t : BitVec 3)
  /-- VRED, R145: Reduces the lanes to a scalar by a fixed pairwise tree. -/
  | vred (d : BitVec 4) (a : BitVec 4) (p : BitVec 3) (r : BitVec 1) (s : BitVec 3) (t : BitVec 3)
  /-- VLD, R146: Loads 64 bytes into a v register. -/
  | vld (d : BitVec 4) (a : BitVec 5) (o : BitVec 2) (w : BitVec 2) (i : BitVec 12)
  /-- VST, R146: Stores 64 bytes from a v register. -/
  | vst (d : BitVec 4) (a : BitVec 5) (o : BitVec 2) (w : BitVec 2) (i : BitVec 12)
  /-- VGTH, R151: Gathers active lanes from base plus scaled offsets. -/
  | vgth (d : BitVec 4) (a : BitVec 4) (b : BitVec 4) (p : BitVec 3) (o : BitVec 2) (s : BitVec 2)
  /-- VSCT, R152: Scatters active lanes to base plus scaled offsets. -/
  | vsct (d : BitVec 4) (a : BitVec 4) (b : BitVec 4) (p : BitVec 3) (o : BitVec 2) (s : BitVec 2)
  /-- PAND, R153: ANDs two predicate registers. -/
  | pand (d : BitVec 4) (a : BitVec 4) (b : BitVec 4)
  /-- POR, R153: ORs two predicate registers. -/
  | por (d : BitVec 4) (a : BitVec 4) (b : BitVec 4)
  /-- PXOR, R153: XORs two predicate registers. -/
  | pxor (d : BitVec 4) (a : BitVec 4) (b : BitVec 4)
  /-- PNOT, R153: Complements a predicate register. -/
  | pnot (d : BitVec 4) (a : BitVec 4)
  /-- PSET, R153: Sets the low n bits of a predicate register. -/
  | pset (d : BitVec 4) (n : BitVec 7)
  /-- PSET_X, R153: Copies an x register into a predicate register. -/
  | psetX (d : BitVec 4) (a : BitVec 4)
  /-- PCNT, R153: Counts the one bits among the low k bits of a predicate. -/
  | pcnt (d : BitVec 4) (a : BitVec 4) (k : BitVec 7)
  /-- MMA, R161: Checks and queues a nested-integer matrix multiply-accumulate of A with latch F into a tile. -/
  | mma (a : BitVec 5) (b : BitVec 5) (d : BitVec 2)
  /-- MZERO, R163: Queues the clearing of an accumulator tile. -/
  | mzero (d : BitVec 2)
  /-- MLDB, R166: Loads a B tile into latch K and queues its swap. -/
  | mldb (a : BitVec 5) (b : BitVec 5)
  /-- MROT, R167: Queues sending F to the successor's K and the swap that follows. -/
  | mrot
  /-- MLDA, R163: Queues loading an accumulator tile from the scratchpad. -/
  | mlda (a : BitVec 5) (d : BitVec 2)
  /-- MSTA, R163: Queues storing an accumulator tile to the scratchpad. -/
  | msta (a : BitVec 5) (d : BitVec 2)
  /-- MSET, R157: Writes an engine register. -/
  | mset (a : BitVec 5) (e : BitVec 5)
  /-- MGET, R157: Reads an engine register. -/
  | mget (e : BitVec 5) (d : BitVec 5)
  /-- QCVT, R171: Queues quantisation of binary32 data to nested form with a trailer. -/
  | qcvt (a : BitVec 5) (b : BitVec 5) (d : BitVec 5)
  /-- QCHK, R172: Checks a tensor against its trailer and returns a mismatch mask. -/
  | qchk (a : BitVec 5) (b : BitVec 5) (d : BitVec 5)
  /-- QCHK_W, R172: Queues a rewrite of a tensor's trailer. -/
  | qchkW (a : BitVec 5) (b : BitVec 5)
  /-- QSTAT, R173: Waits for the context's converter work and returns a trailer's first doubleword. -/
  | qstat (a : BitVec 5) (d : BitVec 5)
  /-- CPY, R176: Checks a strided copy descriptor and posts it into a Stagehand mailbox. -/
  | cpy (m : BitVec 3) (a : BitVec 5) (b : BitVec 5) (d : BitVec 5)
  /-- CPG, R176: Posts a gather copy into a mailbox. -/
  | cpg (m : BitVec 3) (a : BitVec 5) (b : BitVec 5) (d : BitVec 5)
  /-- CPS, R176: Posts a scatter copy into a mailbox. -/
  | cps (m : BitVec 3) (a : BitVec 5) (b : BitVec 5) (d : BitVec 5)
  /-- CPR, R176: Posts a reduction copy into a mailbox. -/
  | cpr (m : BitVec 3) (a : BitVec 5) (b : BitVec 5) (d : BitVec 5)
  /-- CPQ, R179: Returns mailbox and copy status. -/
  | cpq (d : BitVec 5)
  /-- SND, R182: Sends a message or matrix command from four registers. -/
  | snd (a : BitVec 5)
  /-- RCV, R183: Removes the chosen queued message into four registers, checkpointing in optimistic mode. -/
  | rcv (d : BitVec 5) (b : BitVec 5)
  /-- WMSG, R183: Parks until a selected bound class is non-empty. -/
  | wmsg (d : BitVec 5) (a : BitVec 5)
  /-- PKMSG, R183: Copies the chosen queued message without removing it. -/
  | pkmsg (d : BitVec 5) (b : BitVec 5)
  /-- LACQ_SP, R120: Requests a scratchpad range lease. -/
  | lacqSp (d : BitVec 5) (a : BitVec 5) (b : BitVec 5)
  /-- LACQ_ACC, R120: Requests an accumulator tile lease. -/
  | lacqAcc (d : BitVec 5) (a : BitVec 5) (b : BitVec 5)
  /-- LACQ_CLS, R120: Requests or moves a message-class binding. -/
  | lacqCls (d : BitVec 5) (a : BitVec 5) (b : BitVec 5)
  /-- LACQ_L2, R219: Requests an L2 residency lease. -/
  | lacqL2 (d : BitVec 5) (a : BitVec 5) (b : BitVec 5)
  /-- LACQ_PAGE, R120: Requests a memory page lease, homing its region if needed. -/
  | lacqPage (d : BitVec 5) (a : BitVec 5) (b : BitVec 5)
  /-- LACQ_PATH, R339: Requests a fabric path lease with a bandwidth reservation. -/
  | lacqPath (d : BitVec 5) (a : BitVec 5) (b : BitVec 5)
  /-- LACQ_GRP, R261: Requests an optimistic group lease. -/
  | lacqGrp (d : BitVec 5) (a : BitVec 5) (b : BitVec 5)
  /-- RENEW, R121: Sends a lease renewal to its home. -/
  | renew (a : BitVec 5) (b : BitVec 5)
  /-- LIFE, R122: Reads a lease's guarded remaining life. -/
  | life (d : BitVec 5) (a : BitVec 5)
  /-- LLK, R125: Reads a lock descriptor and requests a lock lease, parking with a wait bound. -/
  | llk (d : BitVec 5) (a : BitVec 5) (b : BitVec 5)
  /-- LGEN, R123: Reads an object's current generation and held state. -/
  | lgen (d : BitVec 5) (a : BitVec 5)
  /-- LPAR, R124: Makes one held lease the parent of another. -/
  | lpar (d : BitVec 5) (a : BitVec 5) (b : BitVec 5)
  /-- OPT_ON, R186: Joins an optimistic group after draining, entering optimistic mode. -/
  | optOn (d : BitVec 5) (a : BitVec 5)
  /-- OPT_OFF, R189: Waits until GVT passes the slot's stamps and leaves optimistic mode. -/
  | optOff (d : BitVec 5)
  /-- CKPT, R187: Copies a scratchpad range into the current event's record. -/
  | ckpt (d : BitVec 5) (a : BitVec 5) (n : BitVec 6)
  /-- RBRET, R188: Reloads the first undone event's registers and reissues its rcv. -/
  | rbret
  /-- CAPLD, R128: Loads a tagged capability from a 16-byte granule. -/
  | capld (c : BitVec 3) (a : BitVec 5)
  /-- CAPST, R128: Stores a capability and its tag as a strong store. -/
  | capst (c : BitVec 3) (a : BitVec 5)
  /-- CAPNAR, R286: Narrows a capability's bounds to a length at its cursor. -/
  | capnar (c : BitVec 3) (e : BitVec 3) (b : BitVec 5)
  /-- CAPSET_CUR, R128: Sets a capability's cursor, clearing the tag outside its window. -/
  | capsetCur (c : BitVec 3) (e : BitVec 3) (b : BitVec 5)
  /-- CAPSET_PERM, R128: Masks a capability's permissions. -/
  | capsetPerm (c : BitVec 3) (e : BitVec 3) (b : BitVec 5)
  /-- CAPSET_MINT, R128: Writes a tagged capability from two registers at privilege 1 or 2. -/
  | capsetMint (c : BitVec 3) (a : BitVec 5) (b : BitVec 5)
  /-- CAPGET, R128: Returns a decoded capability field. -/
  | capget (d : BitVec 5) (c : BitVec 3) (k : BitVec 3)
  /-- GO, R131: Migrates the thread's scalar state to a pantry core guest slot. -/
  | go (d : BitVec 5) (a : BitVec 5)
  /-- HOME, R132: Returns a migrated thread to its cell's slot. -/
  | home
  /-- RLD, R129: Loads through a capability after cell and egress checks. -/
  | rld (d : BitVec 5) (c : BitVec 3) (z : BitVec 2) (o : BitVec 2) (w : BitVec 2) (i : BitVec 12)
  /-- RST, R129: Stores through a capability, posted when weak or release. -/
  | rst (s : BitVec 5) (c : BitVec 3) (z : BitVec 2) (o : BitVec 2) (w : BitVec 2) (i : BitVec 12)
  /-- RAMO_ADD, R130: Atomic add through a capability. -/
  | ramoAdd (d : BitVec 5) (c : BitVec 3) (b : BitVec 5) (o : BitVec 2) (n : BitVec 1) (t : BitVec 2)
  /-- RAMO_MIN, R130: Atomic minimum through a capability. -/
  | ramoMin (d : BitVec 5) (c : BitVec 3) (b : BitVec 5) (o : BitVec 2) (n : BitVec 1) (t : BitVec 2)
  /-- RAMO_MAX, R130: Atomic maximum through a capability. -/
  | ramoMax (d : BitVec 5) (c : BitVec 3) (b : BitVec 5) (o : BitVec 2) (n : BitVec 1) (t : BitVec 2)
  /-- RAMO_AND, R130: Atomic AND through a capability. -/
  | ramoAnd (d : BitVec 5) (c : BitVec 3) (b : BitVec 5) (o : BitVec 2) (n : BitVec 1) (t : BitVec 2)
  /-- RAMO_OR, R130: Atomic OR through a capability. -/
  | ramoOr (d : BitVec 5) (c : BitVec 3) (b : BitVec 5) (o : BitVec 2) (n : BitVec 1) (t : BitVec 2)
  /-- RAMO_XOR, R130: Atomic XOR through a capability. -/
  | ramoXor (d : BitVec 5) (c : BitVec 3) (b : BitVec 5) (o : BitVec 2) (n : BitVec 1) (t : BitVec 2)
  /-- RAMO_SWP, R130: Atomic swap through a capability. -/
  | ramoSwp (d : BitVec 5) (c : BitVec 3) (b : BitVec 5) (o : BitVec 2) (t : BitVec 2)
  /-- RAMO_CAS, R130: Atomic compare-and-swap through a capability. -/
  | ramoCas (d : BitVec 5) (c : BitVec 3) (b : BitVec 5) (o : BitVec 2) (t : BitVec 2)
  /-- CSRR, R79: Reads a CSR. -/
  | csrr (d : BitVec 5) (c : BitVec 12)
  /-- CSRW, R79: Writes the writable fields of a CSR and returns the old value. -/
  | csrw (d : BitVec 5) (a : BitVec 5) (c : BitVec 12)
  /-- CSRS, R79: Sets bits of a CSR. -/
  | csrs (d : BitVec 5) (a : BitVec 5) (c : BitVec 12)
  /-- CSRC, R79: Clears bits of a CSR. -/
  | csrc (d : BitVec 5) (a : BitVec 5) (c : BitVec 12)
  /-- TRAP, R80: Raises a precise software trap with code n. -/
  | trap (n : BitVec 12)
  /-- ERET, R81: Returns from a trap level to the saved pc and privilege. -/
  | eret
  /-- HALT, R82: Waits for posted counts and engine work, then ends the thread. -/
  | halt
  /-- YIELD, R83: Delays the slot's next eligibility to 16 cy in SHARED rotation. -/
  | yield
  /-- IDLE, R84: Waits until the die's ref reaches xa. -/
  | idle (d : BitVec 5) (a : BitVec 5)
  /-- SPAWN, R85: Places a sibling thread in the lowest empty slot, or returns a status. -/
  | spawn (d : BitVec 5) (a : BitVec 5) (b : BitVec 5)
  /-- BRK, R87: Halts the slot for debug and reports BRK. -/
  | brk (n : BitVec 12)
  /-- BUDX, R90: Asks the admitting Prompter for more budget units. -/
  | budx (d : BitVec 5) (a : BitVec 5)
  /-- BGET, R91: Reads one budget figure of the thread's entry at the Prompter. -/
  | bget (d : BitVec 5) (k : BitVec 2)
  /-- ROTATION_CHANGE_WRITE, R13: A write of cctl.rot sets a pending rotation mode or cancels one. -/
  | rotationChangeWrite (cell : Nat) (rot : Bool)
  /-- ROTATION_BOUNDARY, R13: At the first 16-aligned cycle after the write, the pending rotation mode takes effect. -/
  | rotationBoundary (cell : Nat)
  /-- SPLIT_CHANGE_WRITE, R25: A write of cctl.spsz is refused or starts a scratchpad/L1 split change. -/
  | splitChangeWrite (cell : Nat) (spsz : BitVec 2)
  /-- SPLIT_CHANGE_DONE, R25: After clearing and write-backs, spx returns to 0 and stalled accesses resume. -/
  | splitChangeDone (cell : Nat)
  /-- SPRF_CLEAR, R24: A 1 written to cctl.sprf clears the refusal flag. -/
  | sprfClear (cell : Nat)
  /-- REGISTER_WRITE, R3: A write to a register without its own behaviour updates its fields by their access codes. -/
  | registerWrite (port : RegPort) (off : Nat) (v : Word)
  /-- HOME_TICK_STEP, R191: In the last cycle of each tick the home applies renewals, lapses, notices and held requests in order. -/
  | homeTickStep (die : Nat)
  /-- LEASE_EXPIRY, R191: A lease whose expiry tick has come passes to LAPSING, with its local children. -/
  | leaseExpiry (lease : Nat)
  /-- LAPSE_NOTICE, R197: A lapse notice for a child homed elsewhere arrives and passes the child to LAPSING in the tick step. -/
  | lapseNotice (notice : Nat)
  /-- LEASE_REQUEST_ARRIVAL, R120: A lacq, life, lgen or lpar request arrives at its home and is answered or held over. -/
  | leaseRequestArrival (req : Nat)
  /-- GRANT_REPLY_DELIVERY, R194: Delivery of a grant reply passes the lease from GRANTED to HELD and completes the instruction. -/
  | grantReplyDelivery (req : Nat)
  /-- LLK_TIMEOUT, R125: A parked llk whose wait bound ends is answered LS_TIMEOUT after stage 5. -/
  | llkTimeout (req : Nat)
  /-- LOCK_DRAIN, R126: The last holder's cell writes back its dirty lines in the guarded ranges. -/
  | lockDrain (lease : Nat)
  /-- LOCK_GRANT, R126: After the drain, the home invalidates the new holder's lines and grants the lock. -/
  | lockGrant (lease : Nat)
  /-- GUARD_NOTICE, R217: The lock-lapse notice reaches the holder's cell, which invalidates clean guarded lines. -/
  | guardNotice (notice : Nat)
  /-- LAPSING_END, R199: When every accepted item has finished, the lease passes to SCRUBBING or LAPSED with its per-kind effects. -/
  | lapsingEnd (lease : Nat)
  /-- SCRUB_JOB_COMPLETE, R351: A scrub job clears its object and the lease passes to LAPSED. -/
  | scrubJobComplete (job : Nat)
  /-- CACHE_SWEEP, R353: A die's sweep invalidates lines under a zeroised key and the key slot copy reaches LAPSED. -/
  | cacheSweep (die : Nat) (lease : Nat)
  /-- HOME_ACCESS_ARRIVAL, R195: An access arrives at its home, is judged against the lease and performed or refused. -/
  | homeAccessArrival (pkt : Nat)
  /-- ACCESS_REPLY, R95: A load or strong access reply arrives and completes the waiting instruction. -/
  | accessReply (pkt : Nat)
  /-- POSTED_ACK, R104: A home acknowledges a posted operation and its count falls. -/
  | postedAck (pkt : Nat)
  /-- POSTED_REFUSAL_REPORT, R343: A refused posted operation is reported, then its count falls. -/
  | postedRefusalReport (pkt : Nat)
  /-- FE_BACKOFF_RETRY, R97: A take, give or ldv that found its wait list full retries after its back-off. -/
  | feBackoffRetry (ctx : Nat)
  /-- PARKED_WAKE, R206: A home's release reaches the cell and the parked slot becomes READY. -/
  | parkedWake (ctx : Nat)
  /-- IDLE_WAKE, R84: The die's ref reaches the idle tick and idle completes. -/
  | idleWake (ctx : Nat)
  /-- BARRIER_ARRIVAL, R111: An arrival at the barrier home decrements rem and runs the completion check. -/
  | barrierArrival (pkt : Nat)
  /-- BARRIER_DECLARATION, R111: A bar.exp adds declared bytes at the barrier home. -/
  | barrierDeclaration (pkt : Nat)
  /-- BARRIER_BYTE_REPORT, R111: A copy step's byte report lowers bytes and may complete the phase. -/
  | barrierByteReport (pkt : Nat)
  /-- L1_READ_LEASE_END, R214: An L1 line's read lease ends 4,096 cy after its fill; it is written back if dirty and invalidated. -/
  | l1ReadLeaseEnd (cell : Nat) (line : Nat)
  /-- DIRTY_LINE_TIMEOUT, R215: 4,096 cy after a line became dirty its non-guarded bytes are written to L2. -/
  | dirtyLineTimeout (cell : Nat) (line : Nat)
  /-- L1_EVICTION, R215: An evicted L1 line writes its dirty bytes to its home slice. -/
  | l1Eviction (cell : Nat) (line : Nat)
  /-- L1_WRITEBACK, R215: Dirty bytes reach the home L2 slice; a refusal is reported to the contexts in the slot mask. -/
  | l1Writeback (cell : Nat) (line : Nat)
  /-- L2_EVICTION, R218: An L2 line is evicted and written back to DRAM. -/
  | l2Eviction (die : Nat) (pa : Nat)
  /-- L2_FILL, R336: An L2 miss is translated and filled, resolving synonyms through the Sieve. -/
  | l2Fill (sid : BitVec 16) (va : Word)
  /-- DRAM_WRITEBACK, R352: A line written to DRAM merges into a zero line or is discarded for a keyless group. -/
  | dramWriteback (die : Nat) (pa : Nat)
  /-- STAGEHAND_TAKE_REQUEST, R177: The Stagehand takes a request from a full mailbox in round-robin order. -/
  | stagehandTakeRequest (cell : Nat)
  /-- COPY_STEP, R12: A Stagehand issue starts one copy step of up to 1 KiB through the copy port. -/
  | copyStep (cell : Nat) (copy : Nat)
  /-- COPY_STEP_LANDED, R177: A copy step's bytes are performed at their home and reported to the barrier once. -/
  | copyStepLanded (cell : Nat) (copy : Nat) (idx : Nat)
  /-- COPY_STEP_REFUSAL, R223: A refused or failed step stops new steps of the pass and writes a fault queue entry. -/
  | copyStepRefusal (cell : Nat) (copy : Nat) (idx : Nat) (code : Byte) (addr : Word)
  /-- COPY_PASS_END, R223: A failed pass ends when its in-flight steps settle and the replay delay starts. -/
  | copyPassEnd (cell : Nat) (copy : Nat)
  /-- COPY_REPLAY_TIMER, R223: The replay delay expires and the copy is replayed whole from row 0. -/
  | copyReplayTimer (cell : Nat) (copy : Nat)
  /-- COPY_RETIRE, R177: A copy retires, clearing its scoreboard entries and sending its completion message. -/
  | copyRetire (cell : Nat) (copy : Nat)
  /-- CPR_CHUNK_READ, R224: A cpr chunk's source is read into the staging buffer. -/
  | cprChunkRead (cell : Nat) (copy : Nat)
  /-- CPR_ELEMENT_ACK, R224: A cpr element is acknowledged at its destination home. -/
  | cprElementAck (cell : Nat) (copy : Nat) (elt : Nat)
  /-- ENGINE_OP_START, R158: The matrix engine or converter starts its next accepted operation in order. -/
  | engineOpStart (cell : Nat) (conv : Bool)
  /-- ENGINE_OP_RETIRE, R158: An engine operation finishes, unlocks its tile, clears its ranges and merges flags. -/
  | engineOpRetire (cell : Nat) (conv : Bool)
  /-- MATRIX_COMMAND, R169: A matrix command from another cell is checked and accepted or refused with a report. -/
  | matrixCommand (msg : Nat)
  /-- MROT_SEND_BEGIN, R256: A latch send to the successor's K begins when the transfer and K allow. -/
  | mrotSendBegin (cell : Nat)
  /-- LATCH_TRANSFER_END, R256: A send or load ends and K becomes LOADED. -/
  | latchTransferEnd (cell : Nat)
  /-- LATCH_SWAP, R256: Once its conditions hold, F takes K's tile and K is FREE. -/
  | latchSwap (cell : Nat)
  /-- MESSAGE_ARRIVAL, R206: A message reaches the cell and is queued, held, refused or matched, waking wmsg. -/
  | messageArrival (msg : Nat)
  /-- ANTI_MESSAGE_ARRIVAL, R273: An anti-message annihilates, triggers rollback, is held, dropped or refused. -/
  | antiMessageArrival (msg : Nat)
  /-- FABRIC_HELD_MESSAGE_ACCEPT, R207: A message held in the fabric is accepted when a queue entry frees or its context is restored. -/
  | fabricHeldMessageAccept (msg : Nat)
  /-- ROLLBACK_SEQUENCE, R269: At the next issue a slot with rbp undoes events item by item and enters its handler. -/
  | rollbackSequence (ctx : Nat)
  /-- ROLLBACK_REQUEUE_RESUME, R270: A paused rollback resumes when a queue entry frees for a requeued message. -/
  | rollbackRequeueResume (ctx : Nat)
  /-- GVT_ROUND_START, R275: The controller starts a round, 64 rt after the last or at a first join, sending CUT. -/
  | gvtRoundStart (grp : Nat)
  /-- GVT_CUT, R275: A member cell receiving CUT switches colour and resets its red minimum. -/
  | gvtCut (grp : Nat) (cell : Nat)
  /-- GVT_REPORT, R275: A member cell answers REPORT with one snapshot of D, L and M. -/
  | gvtReport (grp : Nat) (cell : Nat)
  /-- GVT_REPORT_RESULT, R275: The combined report reaches the controller, which publishes or schedules a retry. -/
  | gvtReportResult (grp : Nat)
  /-- GVT_REPORT_RETRY, R275: 16 rt after a nonzero sum the controller sends another REPORT. -/
  | gvtReportRetry (grp : Nat)
  /-- GVT_PUBLICATION, R276: A member cell receiving PUB performs deferred entries, commits versions, lapses records and writes gvt. -/
  | gvtPublication (grp : Nat) (cell : Nat)
  /-- DEFERRED_ENTRY_PERFORM, R277: The next deferred entry is performed after the previous is acknowledged. -/
  | deferredEntryPerform (grp : Nat) (cell : Nat)
  /-- GROUP_LAPSE_TRAP, R278: After a group lapse each member takes a precise LAPSED trap at its next issue. -/
  | groupLapseTrap (ctx : Nat)
  /-- BUDGET_TRAP, R316: A slot with tsw.bp takes the BUDGET trap in place of its next issue. -/
  | budgetTrap (ctx : Nat)
  /-- CHARGE_BATCH_SEND, R312: A cell or pantry core sends its unsent count at 256 units or 256 cy. -/
  | chargeBatchSend (cell : Nat) (entry : Nat)
  /-- CHARGE_APPLY, R312: The Prompter applies arriving charges, possibly entering OVERRUN. -/
  | chargeApply (die : Nat)
  /-- GRACE_COUNT_EXHAUSTED, R317: The grace count reaches 65,536 and the entry passes to SPENT with a report. -/
  | graceCountExhausted (entry : Nat)
  /-- BUD_REFRESH, R313: A remainder or deadline refresh reaches a cell and updates bud or dl. -/
  | budRefresh (cell : Nat) (entry : Nat)
  /-- BUDX_REQUEST, R90: The Prompter tests a budx once per sequence number and grants or refuses. -/
  | budxRequest (req : Nat)
  /-- BGET_REQUEST, R91: The Prompter answers a bget with the requested figure. -/
  | bgetRequest (req : Nat)
  /-- QTAIL_WRITE, R296: A qtail write advances the tail or is ignored and sets ovf. -/
  | qtailWrite (part : Nat) (die : Nat) (v : Word)
  /-- QBASE_WRITE, R296: A qbase write sets the ring base unless entries are pending. -/
  | qbaseWrite (part : Nat) (die : Nat) (v : Word)
  /-- QUEUE_ENTRY_TEST, R302: The Prompter reads an entry, tests it, grants its context lease or refuses, and writes the answer. -/
  | queueEntryTest (part : Nat) (die : Nat)
  /-- SLOT_ASSIGNMENT, R306: Free slots go to the first entry in dispatch order that can proceed, pre-empting later entries if needed. -/
  | slotAssignment (cell : Nat)
  /-- CELL_PLACEMENT, R307: The Prompter requests a cell's leases, writes its data and contexts, or holds it back with PLACE. -/
  | cellPlacement (entry : Nat) (cell : Nat)
  /-- PREEMPTION_REQUEST, R320: A pre-emption request stops the victim slot's issue and waits for its instruction. -/
  | preemptionRequest (ctx : Nat)
  /-- VACATE_POINT, R320: The slot passes to SWITCHING and its image is saved to the Understudy cache. -/
  | vacatePoint (ctx : Nat)
  /-- CONTEXT_RESTORE, R320: A saved image is written into the lowest empty slot and becomes READY or HALTED. -/
  | contextRestore (ctx : Nat)
  /-- SAVED_CONTEXT_EVENT, R323: A flag, count, bp, gvt, refresh or reply for a saved context is applied to its image. -/
  | savedContextEvent (ctx : Nat) (ev : SavedEvent)
  /-- SABASE_WRITE, R319: A sabase write sets the save area unless images remain. -/
  | sabaseWrite (part : Nat) (die : Nat) (v : Word)
  /-- FAULT_REPORT, R332: A report reaches the fault writer and is written, or counted lost, with the vector signalled. -/
  | faultReport (report : Nat)
  /-- FQBASE_WRITE, R332: A fqbase write sets the ring unless entries are unread. -/
  | fqbaseWrite (part : Nat) (v : Word)
  /-- FQLOST_READ, R332: A read of fqlost returns and clears the lost count. -/
  | fqlostRead (part : Nat)
  /-- STATISTICS_BLOCK_READ, R228: A read returns the cell's three counts and clears them in one cycle. -/
  | statisticsBlockRead (part : Nat) (n : Nat)
  /-- ERRCNT_READ, R365: A read returns the four error counts and clears them in one cycle. -/
  | errcntRead (die : Nat)
  /-- PMOVE_WRITE, R338: A pmove write queues a region move or sets full. -/
  | pmoveWrite (part : Nat) (v : Word)
  /-- QUIESCE_POINT, R337: Once the partition is quiet the Prompter holds traffic, moves regions and releases. -/
  | quiescePoint (part : Nat)
  /-- FABRIC_REQUEST_AT_SWITCH, R282: A request enters a switch output queue and may combine with a queued partner. -/
  | fabricRequestAtSwitch (pkt : Nat)
  /-- COMBINED_REPLY_SPLIT, R283: A reply to a combined request is split into replies for both constituents. -/
  | combinedReplySplit (pkt : Nat)
  /-- REMOTE_UPDATE_THREAD, R290: A .nf atomic runs as a remote-update thread for one issue at the pantry core. -/
  | remoteUpdateThread (pkt : Nat)
  /-- MIGRATION_RETURN, R132: A migrated thread's packed state is written back into its slot and go completes. -/
  | migrationReturn (ctx : Nat)
  /-- DELIVERY_FRAME_ARRIVAL, R293: A packet at the receiving end is applied once in order, re-answered, kept, dropped or answered STALE. -/
  | deliveryFrameArrival (peer : Nat) (frame : PeerFrame)
  /-- DELIVERY_REPLY_ARRIVAL, R294: A reply or STALE reply reaches the sender end and completes or faults the request. -/
  | deliveryReplyArrival (ctxnum : Nat) (seq : Nat) (stale : Bool) (v : Word)
  /-- RETRANSMIT_TIMER, R292: An unanswered request is retransmitted after its doubling delay. -/
  | retransmitTimer (ctxnum : Nat) (seq : Nat)
  /-- RETRANSMIT_EXHAUSTED, R292: A request unanswered 8,192 rt after the eighth retransmission ends STALE. -/
  | retransmitExhausted (ctxnum : Nat) (seq : Nat)
  /-- DELIVERY_CONTEXT_QUIET, R291: An end quiet for 4,096 rt lapses and its reply cache is discarded. -/
  | deliveryContextQuiet (endId : Nat)
  /-- PTCMD_ROOT, R345: Grants or renews a partition root lease at all four Prompters. -/
  | ptcmdRoot (die : Nat) (part : Nat)
  /-- PTCMD_RING, R345: Grants or renews a ring member. -/
  | ptcmdRing (die : Nat) (part : Nat) (res : Nat)
  /-- PTCMD_SLICE, R345: Grants or renews an L2 slice member. -/
  | ptcmdSlice (die : Nat) (part : Nat) (res : Nat)
  /-- PTCMD_CHANNEL_GROUP, R345: Grants or renews a channel group member with its key slot and encryption. -/
  | ptcmdChannelGroup (die : Nat) (part : Nat) (res : Nat)
  /-- PTCMD_SHARE, R345: Grants or renews a fabric share member. -/
  | ptcmdShare (die : Nat) (part : Nat) (res : Nat)
  /-- PTCMD_KEY_SLOT, R345: Grants or renews a key slot with its XTS key. -/
  | ptcmdKeySlot (die : Nat) (part : Nat) (res : Nat)
  /-- PTCMD_RESERVED_OP, R345: A reserved op code completes with status LS_BADOBJ. -/
  | ptcmdReservedOp (die : Nat) (op : BitVec 4)
  /-- PTCMD_APPLIED, R345: All four Prompters have applied the command and ptst.busy clears. -/
  | ptcmdApplied (die : Nat)
  /-- MQPOL_WRITE, R374: Firmware writes qpol of a partition on a die, keeping out-of-range fields. -/
  | mqpolWrite (die : Nat) (part : Nat) (v : Word)
  /-- DEBUG_RESUME, R374: dbgcmd op 0 makes a HALTED slot READY. -/
  | debugResume (die : Nat) (cell : Nat) (slot : Nat)
  /-- DEBUG_COMMAND_IGNORED, R374: dbgcmd ops 1-7 are ignored. -/
  | debugCommandIgnored (die : Nat) (op : BitVec 3)
  /-- RETIRE_DRAM_ROW, R366: Holds a row's accesses and copies it to a spare row. -/
  | retireDramRow (die : Nat) (chan : Nat) (bank : Nat) (row : Nat)
  /-- RETIRE_RING, R366: Maps a ring to its domain's scrubbed spare ring. -/
  | retireRing (die : Nat) (ring : Nat)
  /-- RETIREMENT_DONE, R366: A retirement command ends, releasing held accesses and clearing busy. -/
  | retirementDone (die : Nat)
  /-- FUNCTION_LEVEL_RESET, R356: An FLR is accepted and holds the function while its partition's scrubs run. -/
  | functionLevelReset (part : Nat)
  /-- FLR_HOLD_END, R356: When the scrubs counted at the FLR complete, the function's registers reset. -/
  | flrHoldEnd (part : Nat)
  /-- MODULE_RESET, R357: Ends every lease, context and job, clears SRAM and keys and restarts bring-up. -/
  | moduleReset
  /-- POWER_ON, R367: Power-on starts the bring-up sequence with every frame scrubbed before grant. -/
  | powerOn
  /-- IMAGE_CHECK, R368: The boot ROM verifies a flash image slot and loads firmware settings. -/
  | imageCheck
  /-- DRAM_CALIBRATION, R367: DRAM channels are calibrated and the rescrub jobs are queued. -/
  | dramCalibration (failed : List Nat)
  /-- DIE_LINK_TRAINING, R367: The four die-to-die links are trained. -/
  | dieLinkTraining (pass : Bool)
  /-- PCIE_TRAINING, R367: PCIe training runs, retrying every 2^20 rt on failure. -/
  | pcieTraining (up : Bool) (width : BitVec 5) (rate : BitVec 3)
  /-- CXL_NEGOTIATION, R372: CXL 3.1 is negotiated or refused by the partner. -/
  | cxlNegotiation (accepted : Bool)
  /-- ETHERNET_AUTONEG, R367: Each fabric port comes up or times out, then rdy is set. -/
  | ethernetAutoneg (up : BitVec 8)
  /-- HOST_CONFIG_REQUEST, R367: A configuration request is answered or completed with retry status by stage. -/
  | hostConfigRequest (fn : Nat)
  /-- HOST_MEMORY_ACCESS, R218: A host or peer access to partition memory is served at its home slice. -/
  | hostMemoryAccess (part : Nat) (va : Word) (op : OutsideOp)
  /-- SMBUS_READ_BSTAT, R371: SMBus command 0x10 returns bstat. -/
  | smbusReadBstat
  /-- SMBUS_READ_RESET_COUNT, R371: SMBus command 0x11 returns the count of module resets. -/
  | smbusReadResetCount
  /-- SMBUS_OTHER_COMMAND, R371: Any other SMBus command is NACKed. -/
  | smbusOtherCommand (cmd : Byte)
  /-- ATTESTATION_REQUEST, R369: Firmware returns a signed report of the image, identity, nonce and bstat. -/
  | attestationRequest (nonce : BitVec 256)
  /-- ILLEGAL_INSTRUCTION_WORD, R52: A slot issues a fetched word that names no instruction, or uses an illegal field, and takes a precise ILL trap. -/
  | illegalInstructionWord (w : IWord)
  /-- INSTRUCTION_FETCH_FAULT, R330: A slot's fetch at its pc meets an untranslated or poisoned word, takes the issue, is charged one unit and traps. -/
  | instructionFetchFault (code : Byte)
  /-- LLK_REQUEST_ARRIVAL, R125: An llk request arrives at the lock word's home and is refused, granted with a drain, or parked in arrival order. -/
  | llkRequestArrival (req : Nat)
  /-- LEASE_REPLY_ARRIVAL, R121: A non-grant reply to lacq, renew, life, lgen or lpar reaches the issuing cell and completes or faults the stalled instruction. -/
  | leaseReplyArrival (req : Nat)
  /-- BUDGET_REPLY_ARRIVAL, R90: The Prompter's reply to budx or bget reaches the cell and completes the stalled instruction. -/
  | budgetReplyArrival (req : Nat)
  /-- SOFT_ERROR, R360: A stored unit suffers a bit error that a later read corrects or turns into poison. -/
  | softError (at_ : ErrPlace) (double : Bool)
  /-- POWER_LOSS, R357: Loss of supply ends all state, including DRAM contents and the owned and zero marks. -/
  | powerLoss
  /-- PORT_LINK_DOWN, R367: An external fabric port loses its link after bring-up, clearing its bit in bstat.pup and losing frames in flight. -/
  | portLinkDown (port : Nat)
  /-- PORT_LINK_UP, R367: An external fabric port regains its link, setting its bit in bstat.pup so that retransmissions pass again. -/
  | portLinkUp (port : Nat)
  /-- FRAME_SECOND_MAPPING, R336: House firmware maps a frame into a second space id or address by a management command, creating a synonym for the Sieve. -/
  | frameSecondMapping (die : Nat) (frame : Nat) (sid : BitVec 16) (va : Word)
  deriving DecidableEq, Repr

end Sys2Proof
end

