-- ==== Sys2Proof/WellFormed.lean ====
section
/-! DEFINITION. Which field values of an instruction are legal: the register limits of 03 R47, the ord values
of R49, and the values that each sub-map assigns (03 R52). A step of another unit has no word and no limit. -/

namespace Sys2Proof

/-- Lane types: 0-3 integer, 4-5 floating point (06 R133). -/
def laneInt (t : BitVec 3) : Bool := decide (t.toNat < 4)
def laneFloat (t : BitVec 3) : Bool := decide (t.toNat = 4 ∨ t.toNat = 5)
def laneAny (t : BitVec 3) : Bool := decide (t.toNat < 6)

/-- The CSR numbers of 04 R77; every other number is unassigned. -/
def csrAssigned (n : BitVec 12) : Bool :=
  [0x000, 0x001, 0x002, 0x010, 0x011, 0x020, 0x021, 0x022, 0x030, 0x031, 0x032, 0x040, 0x041,
   0x100, 0x101, 0x102, 0x103, 0x104, 0x108, 0x200, 0x201, 0x202, 0x203, 0x204, 0x208].contains n.toNat

/-- `.w`, `.d` or `.f32`, and an ord other than 0b11 (05 R101). -/
def amoFields (o t : BitVec 2) : Bool := decide (o.toNat ≠ 3 ∧ t.toNat ≠ 3)

/-- The no-fetch form takes no `.sc` and names no xd (05 R101). -/
def nfFields (d : BitVec 5) (o : BitVec 2) (n : BitVec 1) : Bool :=
  decide (n.toNat = 0 ∨ (o.toNat ≠ 2 ∧ d.toNat = 0))

/-- add, min and max take every type; the others take the integer types (05 R101). -/
def amoArith (d : BitVec 5) (o : BitVec 2) (n : BitVec 1) (t : BitVec 2) : Bool := amoFields o t && nfFields d o n
def amoLogic (d : BitVec 5) (o : BitVec 2) (n : BitVec 1) (t : BitVec 2) : Bool :=
  amoFields o t && nfFields d o n && decide (t.toNat ≠ 2)
def amoSwap (o t : BitVec 2) : Bool := amoFields o t && decide (t.toNat ≠ 2)

/-- var and rm of vadd, vsub and vmul (06 R138). -/
def vArith (w : BitVec 2) (r : BitVec 1) (t : BitVec 3) : Bool :=
  (laneInt t && decide (w.toNat < 3 ∧ r.toNat = 0)) || (laneFloat t && decide (w.toNat = 0))

/-- var of vmin, vmax, vabs and vneg (06 R138). -/
def vVar (w : BitVec 2) (t : BitVec 3) : Bool :=
  (laneInt t && decide (w.toNat < 2)) || (laneFloat t && decide (w.toNat = 0))

/-- An integer type takes no rounding mode (06 R138). -/
def vRound (r : BitVec 1) (t : BitVec 3) : Bool := laneFloat t || (laneInt t && decide (r.toNat = 0))

/-- The conditions of vcmp (06 R141). -/
def cmpFields (c t : BitVec 3) : Bool :=
  (laneInt t && decide (c.toNat < 6)) || (laneFloat t && decide (c.toNat < 4 ∨ c.toNat = 6))

/-- sub and rm of vred (06 R143, R145). -/
def redFields (r : BitVec 1) (s t : BitVec 3) : Bool :=
  (laneInt t && decide (r.toNat = 0)) ||
  (laneFloat t && decide (s.toNat < 3 ∧ (r.toNat = 0 ∨ s.toNat = 0)))

/-- A p register in a 4-bit field (06 R135). -/
def pReg (r : BitVec 4) : Bool := decide (r.toNat < 8)

/-- A group of four registers lies within x0-x31 (03 R47). -/
def group4 (r : BitVec 5) : Bool := decide (r.toNat ≤ 28)

/-- Legal field values (03 R47, R49, R52 and the sub-maps of the instruction reference). -/
def Instr.wf : Instr → Bool
  | .sext _ _ w | .zext _ _ w => decide (w.toNat ≠ 3)
  | .ldB _ _ o _ _ | .ldH _ _ o _ _ | .ldW _ _ o _ _ | .ldD _ _ o _ _
  | .ldBu _ _ o _ _ | .ldHu _ _ o _ _ | .ldWu _ _ o _ _
  | .stB _ _ o _ _ | .stH _ _ o _ _ | .stW _ _ o _ _ | .stD _ _ o _ _
  | .vld _ _ o _ _ | .vst _ _ o _ _ => decide (o.toNat ≠ 3)
  | .amoAdd d _ _ o n t | .amoMin d _ _ o n t | .amoMax d _ _ o n t => amoArith d o n t
  | .amoAnd d _ _ o n t | .amoOr d _ _ o n t | .amoXor d _ _ o n t => amoLogic d o n t
  | .amoSwp _ _ _ o t | .amoCas _ _ _ o t => amoSwap o t
  | .ramoAdd d _ _ o n t | .ramoMin d _ _ o n t | .ramoMax d _ _ o n t => amoArith d o n t
  | .ramoAnd d _ _ o n t | .ramoOr d _ _ o n t | .ramoXor d _ _ o n t => amoLogic d o n t
  | .ramoSwp _ _ _ o t | .ramoCas _ _ _ o t => amoSwap o t
  | .barAw d _ => decide (d.toNat ≠ 0)
  | .vadd _ _ _ _ w r t | .vsub _ _ _ _ w r t | .vmul _ _ _ _ w r t => vArith w r t
  | .vfma _ _ _ _ r t => vRound r t
  | .vmin _ _ _ _ w t | .vmax _ _ _ _ w t => vVar w t
  | .vabs _ _ _ w t | .vneg _ _ _ w t => vVar w t
  | .vshl _ _ _ _ t | .vshr _ _ _ _ t | .vsra _ _ _ _ t => laneInt t
  | .vcmp d _ _ _ c t => pReg d && cmpFields c t
  | .vsel _ _ _ _ t => laneAny t
  | .vcvt _ _ _ e s => laneAny e && laneAny s && decide (e ≠ s)
  | .vcvtRtz _ _ _ e s => laneAny e && laneAny s && decide (e ≠ s) && (laneFloat e || laneFloat s)
  | .vrcp _ _ _ _ t | .vrsq _ _ _ _ t | .vexp _ _ _ _ t | .vlog _ _ _ _ t => laneFloat t
  | .vbcast _ _ _ t | .vext _ _ _ t | .vins _ _ _ t | .vperm _ _ _ _ t => laneAny t
  | .vred _ _ _ r s t => redFields r s t
  | .vgth _ _ _ _ o s | .vsct _ _ _ _ o s => decide (o.toNat ≠ 3 ∧ 2 ≤ s.toNat)
  | .pand d a b | .por d a b | .pxor d a b => pReg d && pReg a && pReg b
  | .pnot d a => pReg d && pReg a
  | .pset d n => pReg d && decide (n.toNat ≤ 64)
  | .psetX d _ => pReg d
  | .pcnt _ a k => pReg a && decide (1 ≤ k.toNat ∧ k.toNat ≤ 64)
  | .mset _ e | .mget e _ => decide (e.toNat < 8)
  | .snd a => group4 a
  | .rcv d _ | .pkmsg d _ => group4 d
  | .rld _ _ z o _ _ | .rst _ _ z o _ _ => decide (o.toNat = 3 → z.toNat = 3)
  | .csrr _ c | .csrw _ _ c | .csrs _ _ c | .csrc _ _ c => csrAssigned c
  | _ => true

end Sys2Proof
end

