-- ==== Sys2Proof/Decode.lean ====
section
/-! DEFINITION. Instruction words: the decoder (03 R45-R52) and the encoder. Both are written from the formats of
R46 and the sub-maps of the instruction reference. -/

namespace Sys2Proof

/-- Why a word is no instruction (03 R52). -/
inductive DecodeError where
  | short                       -- fewer than four bytes
  | unassigned (w : IWord)      -- a major or a sub-map value that names nothing
  | unusedField (w : IWord)     -- a field that the instruction does not use is nonzero
  | illegalField (w : IWord)    -- a register, ord or kind value outside its limits
  deriving DecidableEq, Repr

/-- The field of `n` bits from bit `lo`. -/
def fld (w : IWord) (lo n : Nat) : BitVec n := w.extractLsb' lo n

/-- The low `n` bits, sign-extended (04 R63: sx). -/
def sx {n : Nat} (v : BitVec n) : Word := v.signExtend 64

/-- The instructions of major 0x01, by their sub-map. -/
def raw01 (w : IWord) : Option Instr :=
  match (fld w 0 5).toNat with
  | 0 => some (.add (fld w 21 5) (fld w 16 5) (fld w 11 5))
  | 1 => some (.sub (fld w 21 5) (fld w 16 5) (fld w 11 5))
  | 2 => some (.and (fld w 21 5) (fld w 16 5) (fld w 11 5))
  | 3 => some (.or (fld w 21 5) (fld w 16 5) (fld w 11 5))
  | 4 => some (.xor (fld w 21 5) (fld w 16 5) (fld w 11 5))
  | 5 => some (.shl (fld w 21 5) (fld w 16 5) (fld w 11 5))
  | 6 => some (.shr (fld w 21 5) (fld w 16 5) (fld w 11 5))
  | 7 => some (.sra (fld w 21 5) (fld w 16 5) (fld w 11 5))
  | 8 => some (.slt (fld w 21 5) (fld w 16 5) (fld w 11 5))
  | 9 => some (.sltu (fld w 21 5) (fld w 16 5) (fld w 11 5))
  | 10 => some (.min (fld w 21 5) (fld w 16 5) (fld w 11 5))
  | 11 => some (.max (fld w 21 5) (fld w 16 5) (fld w 11 5))
  | 12 => some (.minu (fld w 21 5) (fld w 16 5) (fld w 11 5))
  | 13 => some (.maxu (fld w 21 5) (fld w 16 5) (fld w 11 5))
  | 14 => some (.mul (fld w 21 5) (fld w 16 5) (fld w 11 5))
  | 15 => some (.mulh (fld w 21 5) (fld w 16 5) (fld w 11 5))
  | 16 => some (.mulhu (fld w 21 5) (fld w 16 5) (fld w 11 5))
  | 17 => some (.div (fld w 21 5) (fld w 16 5) (fld w 11 5))
  | 18 => some (.divu (fld w 21 5) (fld w 16 5) (fld w 11 5))
  | 19 => some (.rem (fld w 21 5) (fld w 16 5) (fld w 11 5))
  | 20 => some (.remu (fld w 21 5) (fld w 16 5) (fld w 11 5))
  | 21 => some (.clz (fld w 21 5) (fld w 16 5))
  | 22 => some (.ctz (fld w 21 5) (fld w 16 5))
  | 23 => some (.popc (fld w 21 5) (fld w 16 5))
  | 24 => some (.bfx (fld w 21 5) (fld w 16 5) (fld w 11 5))
  | 25 => some (.bfi (fld w 21 5) (fld w 16 5) (fld w 11 5))
  | 26 => some (.sext (fld w 21 5) (fld w 16 5) (fld w 5 2))
  | 27 => some (.zext (fld w 21 5) (fld w 16 5) (fld w 5 2))
  | _ => none

/-- The instructions of major 0x07, by their sub-map. -/
def raw07 (w : IWord) : Option Instr :=
  match (fld w 14 2).toNat with
  | 0 => some (.shli (fld w 21 5) (fld w 16 5) (fld w 0 6))
  | 1 => some (.shri (fld w 21 5) (fld w 16 5) (fld w 0 6))
  | 2 => some (.srai (fld w 21 5) (fld w 16 5) (fld w 0 6))
  | _ => none

/-- The instructions of major 0x1D, by their sub-map. -/
def raw1D (w : IWord) : Option Instr :=
  match (fld w 0 1).toNat with
  | 0 => some (.ldvEq (fld w 21 5) (fld w 16 5) (fld w 11 5))
  | 1 => some (.ldvLe (fld w 21 5) (fld w 16 5) (fld w 11 5))
  | _ => none

/-- The instructions of major 0x1F, by their sub-map. -/
def raw1F (w : IWord) : Option Instr :=
  match (fld w 0 3).toNat with
  | 0 => some (.amoAdd (fld w 21 5) (fld w 16 5) (fld w 11 5) (fld w 6 2) (fld w 5 1) (fld w 3 2))
  | 1 => some (.amoMin (fld w 21 5) (fld w 16 5) (fld w 11 5) (fld w 6 2) (fld w 5 1) (fld w 3 2))
  | 2 => some (.amoMax (fld w 21 5) (fld w 16 5) (fld w 11 5) (fld w 6 2) (fld w 5 1) (fld w 3 2))
  | 3 => some (.amoAnd (fld w 21 5) (fld w 16 5) (fld w 11 5) (fld w 6 2) (fld w 5 1) (fld w 3 2))
  | 4 => some (.amoOr (fld w 21 5) (fld w 16 5) (fld w 11 5) (fld w 6 2) (fld w 5 1) (fld w 3 2))
  | 5 => some (.amoXor (fld w 21 5) (fld w 16 5) (fld w 11 5) (fld w 6 2) (fld w 5 1) (fld w 3 2))
  | 6 => some (.amoSwp (fld w 21 5) (fld w 16 5) (fld w 11 5) (fld w 6 2) (fld w 3 2))
  | 7 => some (.amoCas (fld w 21 5) (fld w 16 5) (fld w 11 5) (fld w 6 2) (fld w 3 2))
  | _ => none

/-- The instructions of major 0x20, by their sub-map. -/
def raw20 (w : IWord) : Option Instr :=
  match (fld w 0 6).toNat with
  | 0 => some (.fenceCell)
  | 1 => some (.fenceDom)
  | 2 => some (.fenceDie)
  | 3 => some (.fenceMod)
  | 4 => some (.fenceSys)
  | 16 => some (.fenceX)
  | 32 => some (.flagf (fld w 21 3) (fld w 16 5))
  | _ => none

/-- The instructions of major 0x21, by their sub-map. -/
def raw21 (w : IWord) : Option Instr :=
  match (fld w 0 2).toNat with
  | 0 => some (.barArv (fld w 21 5) (fld w 16 5))
  | 1 => some (.barWt (fld w 16 5) (fld w 11 5))
  | 2 => some (.barAw (fld w 21 5) (fld w 16 5))
  | 3 => some (.barExp (fld w 16 5) (fld w 11 5))
  | _ => none

/-- The instructions of major 0x22, by their sub-map. -/
def raw22 (w : IWord) : Option Instr :=
  match (fld w 0 2).toNat with
  | 0 => some (.inv (fld w 16 5) (fld w 11 5) (fld w 2 1))
  | 1 => some (.wb (fld w 16 5) (fld w 11 5) (fld w 2 1))
  | 2 => some (.wbinv (fld w 16 5) (fld w 11 5) (fld w 2 1))
  | 3 => some (.pf (fld w 16 5) (fld w 11 5) (fld w 2 1))
  | _ => none

/-- The instructions of major 0x23, by their sub-map. -/
def raw23 (w : IWord) : Option Instr :=
  match (fld w 0 5).toNat with
  | 0 => some (.vadd (fld w 22 4) (fld w 18 4) (fld w 14 4) (fld w 11 3) (fld w 9 2) (fld w 8 1) (fld w 5 3))
  | 1 => some (.vsub (fld w 22 4) (fld w 18 4) (fld w 14 4) (fld w 11 3) (fld w 9 2) (fld w 8 1) (fld w 5 3))
  | 2 => some (.vmul (fld w 22 4) (fld w 18 4) (fld w 14 4) (fld w 11 3) (fld w 9 2) (fld w 8 1) (fld w 5 3))
  | 3 => some (.vfma (fld w 22 4) (fld w 18 4) (fld w 14 4) (fld w 11 3) (fld w 8 1) (fld w 5 3))
  | 4 => some (.vmin (fld w 22 4) (fld w 18 4) (fld w 14 4) (fld w 11 3) (fld w 9 2) (fld w 5 3))
  | 5 => some (.vmax (fld w 22 4) (fld w 18 4) (fld w 14 4) (fld w 11 3) (fld w 9 2) (fld w 5 3))
  | 6 => some (.vand (fld w 22 4) (fld w 18 4) (fld w 14 4) (fld w 11 3))
  | 7 => some (.vor (fld w 22 4) (fld w 18 4) (fld w 14 4) (fld w 11 3))
  | 8 => some (.vxor (fld w 22 4) (fld w 18 4) (fld w 14 4) (fld w 11 3))
  | 9 => some (.vshl (fld w 22 4) (fld w 18 4) (fld w 14 4) (fld w 11 3) (fld w 5 3))
  | 10 => some (.vshr (fld w 22 4) (fld w 18 4) (fld w 14 4) (fld w 11 3) (fld w 5 3))
  | 11 => some (.vsra (fld w 22 4) (fld w 18 4) (fld w 14 4) (fld w 11 3) (fld w 5 3))
  | 12 => some (.vcmp (fld w 22 4) (fld w 18 4) (fld w 14 4) (fld w 11 3) (fld w 8 3) (fld w 5 3))
  | 13 => some (.vsel (fld w 22 4) (fld w 18 4) (fld w 14 4) (fld w 11 3) (fld w 5 3))
  | 14 => some (.vabs (fld w 22 4) (fld w 18 4) (fld w 11 3) (fld w 9 2) (fld w 5 3))
  | 15 => some (.vneg (fld w 22 4) (fld w 18 4) (fld w 11 3) (fld w 9 2) (fld w 5 3))
  | 16 => some (.vcvt (fld w 22 4) (fld w 18 4) (fld w 11 3) (fld w 8 3) (fld w 5 3))
  | 17 => some (.vrcp (fld w 22 4) (fld w 18 4) (fld w 11 3) (fld w 8 1) (fld w 5 3))
  | 18 => some (.vrsq (fld w 22 4) (fld w 18 4) (fld w 11 3) (fld w 8 1) (fld w 5 3))
  | 19 => some (.vexp (fld w 22 4) (fld w 18 4) (fld w 11 3) (fld w 8 1) (fld w 5 3))
  | 20 => some (.vlog (fld w 22 4) (fld w 18 4) (fld w 11 3) (fld w 8 1) (fld w 5 3))
  | 21 => some (.vcvtRtz (fld w 22 4) (fld w 18 4) (fld w 11 3) (fld w 8 3) (fld w 5 3))
  | _ => none

/-- The instructions of major 0x24, by their sub-map. -/
def raw24 (w : IWord) : Option Instr :=
  match (fld w 0 3).toNat with
  | 0 => some (.vbcast (fld w 22 4) (fld w 18 4) (fld w 11 3) (fld w 3 3))
  | 1 => some (.vext (fld w 22 4) (fld w 18 4) (fld w 14 4) (fld w 3 3))
  | 2 => some (.vins (fld w 22 4) (fld w 18 4) (fld w 14 4) (fld w 3 3))
  | 3 => some (.vperm (fld w 22 4) (fld w 18 4) (fld w 14 4) (fld w 11 3) (fld w 3 3))
  | 4 => some (.vred (fld w 22 4) (fld w 18 4) (fld w 11 3) (fld w 9 1) (fld w 6 3) (fld w 3 3))
  | _ => none

/-- The instructions of major 0x27, by their sub-map. -/
def raw27 (w : IWord) : Option Instr :=
  match (fld w 0 1).toNat with
  | 0 => some (.vgth (fld w 22 4) (fld w 18 4) (fld w 14 4) (fld w 11 3) (fld w 3 2) (fld w 1 2))
  | 1 => some (.vsct (fld w 22 4) (fld w 18 4) (fld w 14 4) (fld w 11 3) (fld w 3 2) (fld w 1 2))
  | _ => none

/-- The instructions of major 0x28, by their sub-map. -/
def raw28 (w : IWord) : Option Instr :=
  match (fld w 0 3).toNat with
  | 0 => some (.pand (fld w 22 4) (fld w 18 4) (fld w 14 4))
  | 1 => some (.por (fld w 22 4) (fld w 18 4) (fld w 14 4))
  | 2 => some (.pxor (fld w 22 4) (fld w 18 4) (fld w 14 4))
  | 3 => some (.pnot (fld w 22 4) (fld w 18 4))
  | 4 => if fld w 10 1 = 1#1 then some (.psetX (fld w 22 4) (fld w 18 4)) else some (.pset (fld w 22 4) (fld w 3 7))
  | 5 => some (.pcnt (fld w 22 4) (fld w 18 4) (fld w 3 7))
  | _ => none

/-- The instructions of major 0x29, by their sub-map. -/
def raw29 (w : IWord) : Option Instr :=
  match (fld w 0 3).toNat with
  | 0 => some (.mma (fld w 18 5) (fld w 13 5) (fld w 8 2))
  | 1 => some (.mzero (fld w 8 2))
  | 2 => some (.mldb (fld w 18 5) (fld w 13 5))
  | 3 => some (.mrot)
  | 4 => some (.mlda (fld w 18 5) (fld w 8 2))
  | 5 => some (.msta (fld w 18 5) (fld w 8 2))
  | 6 => some (.mset (fld w 18 5) (fld w 8 5))
  | 7 => some (.mget (fld w 13 5) (fld w 8 5))
  | _ => none

/-- The instructions of major 0x2A, by their sub-map. -/
def raw2A (w : IWord) : Option Instr :=
  match (fld w 0 2).toNat with
  | 0 => some (.qcvt (fld w 18 5) (fld w 13 5) (fld w 8 5))
  | 1 => some (.qchk (fld w 18 5) (fld w 13 5) (fld w 8 5))
  | 2 => some (.qchkW (fld w 18 5) (fld w 13 5))
  | 3 => some (.qstat (fld w 18 5) (fld w 8 5))
  | _ => none

/-- The instructions of major 0x2B, by their sub-map. -/
def raw2B (w : IWord) : Option Instr :=
  match (fld w 0 3).toNat with
  | 0 => some (.cpy (fld w 23 3) (fld w 18 5) (fld w 13 5) (fld w 8 5))
  | 1 => some (.cpg (fld w 23 3) (fld w 18 5) (fld w 13 5) (fld w 8 5))
  | 2 => some (.cps (fld w 23 3) (fld w 18 5) (fld w 13 5) (fld w 8 5))
  | 3 => some (.cpr (fld w 23 3) (fld w 18 5) (fld w 13 5) (fld w 8 5))
  | 4 => some (.cpq (fld w 8 5))
  | _ => none

/-- The instructions of major 0x2C, by their sub-map. -/
def raw2C (w : IWord) : Option Instr :=
  match (fld w 0 2).toNat with
  | 0 => some (.snd (fld w 16 5))
  | 1 => some (.rcv (fld w 21 5) (fld w 11 5))
  | 2 => some (.wmsg (fld w 21 5) (fld w 16 5))
  | 3 => some (.pkmsg (fld w 21 5) (fld w 11 5))
  | _ => none

/-- The instructions of major 0x2D, by their sub-map. -/
def raw2D (w : IWord) : Option Instr :=
  match (fld w 0 8).toNat with
  | 1 => some (.renew (fld w 16 5) (fld w 11 5))
  | 2 => some (.life (fld w 21 5) (fld w 16 5))
  | 3 => some (.llk (fld w 21 5) (fld w 16 5) (fld w 11 5))
  | 4 => some (.lgen (fld w 21 5) (fld w 16 5))
  | 5 => some (.lpar (fld w 21 5) (fld w 16 5) (fld w 11 5))
  | 32 => some (.lacqSp (fld w 21 5) (fld w 16 5) (fld w 11 5))
  | 48 => some (.lacqAcc (fld w 21 5) (fld w 16 5) (fld w 11 5))
  | 64 => some (.lacqCls (fld w 21 5) (fld w 16 5) (fld w 11 5))
  | 80 => some (.lacqL2 (fld w 21 5) (fld w 16 5) (fld w 11 5))
  | 96 => some (.lacqPage (fld w 21 5) (fld w 16 5) (fld w 11 5))
  | 128 => some (.lacqPath (fld w 21 5) (fld w 16 5) (fld w 11 5))
  | 144 => some (.lacqGrp (fld w 21 5) (fld w 16 5) (fld w 11 5))
  | _ => none

/-- The instructions of major 0x2E, by their sub-map. -/
def raw2E (w : IWord) : Option Instr :=
  match (fld w 12 2).toNat with
  | 0 => some (.optOn (fld w 21 5) (fld w 16 5))
  | 1 => some (.optOff (fld w 21 5))
  | 2 => some (.ckpt (fld w 21 5) (fld w 16 5) (fld w 0 6))
  | 3 => some (.rbret)
  | _ => none

/-- The instructions of major 0x2F, by their sub-map. -/
def raw2F (w : IWord) : Option Instr :=
  match (fld w 0 7).toNat with
  | 0 => some (.capld (fld w 21 3) (fld w 16 5))
  | 1 => some (.capst (fld w 21 3) (fld w 16 5))
  | 2 => some (.capnar (fld w 21 3) (fld w 16 3) (fld w 11 5))
  | 3 => some (.capsetCur (fld w 21 3) (fld w 16 3) (fld w 11 5))
  | 5 => some (.go (fld w 21 5) (fld w 16 5))
  | 6 => some (.home)
  | 19 => some (.capsetPerm (fld w 21 3) (fld w 16 3) (fld w 11 5))
  | 35 => some (.capsetMint (fld w 21 3) (fld w 16 5) (fld w 11 5))
  | _ => if fld w 0 4 = 4#4 then some (.capget (fld w 21 5) (fld w 16 3) (fld w 4 3)) else none

/-- The instructions of major 0x32, by their sub-map. -/
def raw32 (w : IWord) : Option Instr :=
  match (fld w 0 3).toNat with
  | 0 => some (.ramoAdd (fld w 21 5) (fld w 16 3) (fld w 11 5) (fld w 6 2) (fld w 5 1) (fld w 3 2))
  | 1 => some (.ramoMin (fld w 21 5) (fld w 16 3) (fld w 11 5) (fld w 6 2) (fld w 5 1) (fld w 3 2))
  | 2 => some (.ramoMax (fld w 21 5) (fld w 16 3) (fld w 11 5) (fld w 6 2) (fld w 5 1) (fld w 3 2))
  | 3 => some (.ramoAnd (fld w 21 5) (fld w 16 3) (fld w 11 5) (fld w 6 2) (fld w 5 1) (fld w 3 2))
  | 4 => some (.ramoOr (fld w 21 5) (fld w 16 3) (fld w 11 5) (fld w 6 2) (fld w 5 1) (fld w 3 2))
  | 5 => some (.ramoXor (fld w 21 5) (fld w 16 3) (fld w 11 5) (fld w 6 2) (fld w 5 1) (fld w 3 2))
  | 6 => some (.ramoSwp (fld w 21 5) (fld w 16 3) (fld w 11 5) (fld w 6 2) (fld w 3 2))
  | 7 => some (.ramoCas (fld w 21 5) (fld w 16 3) (fld w 11 5) (fld w 6 2) (fld w 3 2))
  | _ => none

/-- The instructions of major 0x38, by their sub-map. -/
def raw38 (w : IWord) : Option Instr :=
  match (fld w 12 4).toNat with
  | 0 => some (.csrr (fld w 21 5) (fld w 0 12))
  | 1 => some (.csrw (fld w 21 5) (fld w 16 5) (fld w 0 12))
  | 2 => some (.csrs (fld w 21 5) (fld w 16 5) (fld w 0 12))
  | 3 => some (.csrc (fld w 21 5) (fld w 16 5) (fld w 0 12))
  | 4 => some (.trap (fld w 0 12))
  | 5 => some (.eret)
  | 6 => some (.halt)
  | 7 => some (.yield)
  | 8 => some (.idle (fld w 21 5) (fld w 16 5))
  | 9 => some (.spawn (fld w 21 5) (fld w 16 5) (fld w 0 5))
  | 10 => some (.brk (fld w 0 12))
  | _ => none

/-- The instructions of major 0x39, by their sub-map. -/
def raw39 (w : IWord) : Option Instr :=
  match (fld w 12 1).toNat with
  | 0 => some (.budx (fld w 21 5) (fld w 16 5))
  | 1 => some (.bget (fld w 21 5) (fld w 0 2))
  | _ => none

/-- The fields of a word cut by its major (03 R46, R51), before any check of unused fields and limits. -/
def rawDecode (w : IWord) : Option Instr :=
  match (fld w 26 6).toNat with
  | 1 => raw01 w
  | 2 => some (.addi (fld w 21 5) (fld w 16 5) (fld w 0 16))
  | 3 => some (.andi (fld w 21 5) (fld w 16 5) (fld w 0 16))
  | 4 => some (.ori (fld w 21 5) (fld w 16 5) (fld w 0 16))
  | 5 => some (.xori (fld w 21 5) (fld w 16 5) (fld w 0 16))
  | 6 => some (.slti (fld w 21 5) (fld w 16 5) (fld w 0 16))
  | 7 => raw07 w
  | 8 => some (.lui (fld w 21 5) (fld w 0 16))
  | 9 => some (.addpc (fld w 21 5) (fld w 0 16))
  | 10 => some (.beq (fld w 21 5) (fld w 16 5) (fld w 0 16))
  | 11 => some (.bne (fld w 21 5) (fld w 16 5) (fld w 0 16))
  | 12 => some (.blt (fld w 21 5) (fld w 16 5) (fld w 0 16))
  | 13 => some (.bge (fld w 21 5) (fld w 16 5) (fld w 0 16))
  | 14 => some (.bltu (fld w 21 5) (fld w 16 5) (fld w 0 16))
  | 15 => some (.bgeu (fld w 21 5) (fld w 16 5) (fld w 0 16))
  | 16 => some (.jal (fld w 21 5) (fld w 0 21))
  | 17 => some (.jalr (fld w 21 5) (fld w 16 5) (fld w 0 16))
  | 18 => some (.ldB (fld w 21 5) (fld w 16 5) (fld w 14 2) (fld w 12 2) (fld w 0 12))
  | 19 => some (.ldH (fld w 21 5) (fld w 16 5) (fld w 14 2) (fld w 12 2) (fld w 0 12))
  | 20 => some (.ldW (fld w 21 5) (fld w 16 5) (fld w 14 2) (fld w 12 2) (fld w 0 12))
  | 21 => if fld w 14 2 = 3#2 then some (.ldDTake (fld w 21 5) (fld w 16 5) (fld w 12 2) (fld w 0 12)) else some (.ldD (fld w 21 5) (fld w 16 5) (fld w 14 2) (fld w 12 2) (fld w 0 12))
  | 22 => some (.ldBu (fld w 21 5) (fld w 16 5) (fld w 14 2) (fld w 12 2) (fld w 0 12))
  | 23 => some (.ldHu (fld w 21 5) (fld w 16 5) (fld w 14 2) (fld w 12 2) (fld w 0 12))
  | 24 => some (.ldWu (fld w 21 5) (fld w 16 5) (fld w 14 2) (fld w 12 2) (fld w 0 12))
  | 25 => some (.stB (fld w 21 5) (fld w 16 5) (fld w 14 2) (fld w 12 2) (fld w 0 12))
  | 26 => some (.stH (fld w 21 5) (fld w 16 5) (fld w 14 2) (fld w 12 2) (fld w 0 12))
  | 27 => some (.stW (fld w 21 5) (fld w 16 5) (fld w 14 2) (fld w 12 2) (fld w 0 12))
  | 28 => if fld w 14 2 = 3#2 then some (.stDGive (fld w 21 5) (fld w 16 5) (fld w 12 2) (fld w 0 12)) else some (.stD (fld w 21 5) (fld w 16 5) (fld w 14 2) (fld w 12 2) (fld w 0 12))
  | 29 => raw1D w
  | 30 => some (.stv (fld w 21 5) (fld w 16 5) (fld w 11 5))
  | 31 => raw1F w
  | 32 => raw20 w
  | 33 => raw21 w
  | 34 => raw22 w
  | 35 => raw23 w
  | 36 => raw24 w
  | 37 => some (.vld (fld w 21 4) (fld w 16 5) (fld w 14 2) (fld w 12 2) (fld w 0 12))
  | 38 => some (.vst (fld w 21 4) (fld w 16 5) (fld w 14 2) (fld w 12 2) (fld w 0 12))
  | 39 => raw27 w
  | 40 => raw28 w
  | 41 => raw29 w
  | 42 => raw2A w
  | 43 => raw2B w
  | 44 => raw2C w
  | 45 => raw2D w
  | 46 => raw2E w
  | 47 => raw2F w
  | 48 => some (.rld (fld w 21 5) (fld w 18 3) (fld w 16 2) (fld w 14 2) (fld w 12 2) (fld w 0 12))
  | 49 => some (.rst (fld w 21 5) (fld w 18 3) (fld w 16 2) (fld w 14 2) (fld w 12 2) (fld w 0 12))
  | 50 => raw32 w
  | 56 => raw38 w
  | 57 => raw39 w
  | _ => none

/-- The word of an instruction (03 R46). A step of another unit has none. -/
def encode : Instr → Option IWord
  | .add d a b => some (0x01#6 ++ d ++ a ++ b ++ 0x0#11)
  | .sub d a b => some (0x01#6 ++ d ++ a ++ b ++ 0x1#11)
  | .and d a b => some (0x01#6 ++ d ++ a ++ b ++ 0x2#11)
  | .or d a b => some (0x01#6 ++ d ++ a ++ b ++ 0x3#11)
  | .xor d a b => some (0x01#6 ++ d ++ a ++ b ++ 0x4#11)
  | .shl d a b => some (0x01#6 ++ d ++ a ++ b ++ 0x5#11)
  | .shr d a b => some (0x01#6 ++ d ++ a ++ b ++ 0x6#11)
  | .sra d a b => some (0x01#6 ++ d ++ a ++ b ++ 0x7#11)
  | .slt d a b => some (0x01#6 ++ d ++ a ++ b ++ 0x8#11)
  | .sltu d a b => some (0x01#6 ++ d ++ a ++ b ++ 0x9#11)
  | .min d a b => some (0x01#6 ++ d ++ a ++ b ++ 0xA#11)
  | .max d a b => some (0x01#6 ++ d ++ a ++ b ++ 0xB#11)
  | .minu d a b => some (0x01#6 ++ d ++ a ++ b ++ 0xC#11)
  | .maxu d a b => some (0x01#6 ++ d ++ a ++ b ++ 0xD#11)
  | .mul d a b => some (0x01#6 ++ d ++ a ++ b ++ 0xE#11)
  | .mulh d a b => some (0x01#6 ++ d ++ a ++ b ++ 0xF#11)
  | .mulhu d a b => some (0x01#6 ++ d ++ a ++ b ++ 0x10#11)
  | .div d a b => some (0x01#6 ++ d ++ a ++ b ++ 0x11#11)
  | .divu d a b => some (0x01#6 ++ d ++ a ++ b ++ 0x12#11)
  | .rem d a b => some (0x01#6 ++ d ++ a ++ b ++ 0x13#11)
  | .remu d a b => some (0x01#6 ++ d ++ a ++ b ++ 0x14#11)
  | .clz d a => some (0x01#6 ++ d ++ a ++ 0x15#16)
  | .ctz d a => some (0x01#6 ++ d ++ a ++ 0x16#16)
  | .popc d a => some (0x01#6 ++ d ++ a ++ 0x17#16)
  | .bfx d a b => some (0x01#6 ++ d ++ a ++ b ++ 0x18#11)
  | .bfi d a b => some (0x01#6 ++ d ++ a ++ b ++ 0x19#11)
  | .sext d a w => some (0x01#6 ++ d ++ a ++ 0x0#9 ++ w ++ 0x1A#5)
  | .zext d a w => some (0x01#6 ++ d ++ a ++ 0x0#9 ++ w ++ 0x1B#5)
  | .addi d a i => some (0x02#6 ++ d ++ a ++ i)
  | .andi d a i => some (0x03#6 ++ d ++ a ++ i)
  | .ori d a i => some (0x04#6 ++ d ++ a ++ i)
  | .xori d a i => some (0x05#6 ++ d ++ a ++ i)
  | .slti d a i => some (0x06#6 ++ d ++ a ++ i)
  | .shli d a n => some (0x07#6 ++ d ++ a ++ 0x0#10 ++ n)
  | .shri d a n => some (0x07#6 ++ d ++ a ++ 0x100#10 ++ n)
  | .srai d a n => some (0x07#6 ++ d ++ a ++ 0x200#10 ++ n)
  | .lui d i => some (0x08#6 ++ d ++ 0x0#5 ++ i)
  | .addpc d i => some (0x09#6 ++ d ++ 0x0#5 ++ i)
  | .beq a b o => some (0x0A#6 ++ a ++ b ++ o)
  | .bne a b o => some (0x0B#6 ++ a ++ b ++ o)
  | .blt a b o => some (0x0C#6 ++ a ++ b ++ o)
  | .bge a b o => some (0x0D#6 ++ a ++ b ++ o)
  | .bltu a b o => some (0x0E#6 ++ a ++ b ++ o)
  | .bgeu a b o => some (0x0F#6 ++ a ++ b ++ o)
  | .jal d o => some (0x10#6 ++ d ++ o)
  | .jalr d a i => some (0x11#6 ++ d ++ a ++ i)
  | .ldB d a o w i => some (0x12#6 ++ d ++ a ++ o ++ w ++ i)
  | .ldH d a o w i => some (0x13#6 ++ d ++ a ++ o ++ w ++ i)
  | .ldW d a o w i => some (0x14#6 ++ d ++ a ++ o ++ w ++ i)
  | .ldD d a o w i => some (0x15#6 ++ d ++ a ++ o ++ w ++ i)
  | .ldDTake d a w i => some (0x15#6 ++ d ++ a ++ 0x3#2 ++ w ++ i)
  | .ldBu d a o w i => some (0x16#6 ++ d ++ a ++ o ++ w ++ i)
  | .ldHu d a o w i => some (0x17#6 ++ d ++ a ++ o ++ w ++ i)
  | .ldWu d a o w i => some (0x18#6 ++ d ++ a ++ o ++ w ++ i)
  | .stB s a o w i => some (0x19#6 ++ s ++ a ++ o ++ w ++ i)
  | .stH s a o w i => some (0x1A#6 ++ s ++ a ++ o ++ w ++ i)
  | .stW s a o w i => some (0x1B#6 ++ s ++ a ++ o ++ w ++ i)
  | .stD s a o w i => some (0x1C#6 ++ s ++ a ++ o ++ w ++ i)
  | .stDGive s a w i => some (0x1C#6 ++ s ++ a ++ 0x3#2 ++ w ++ i)
  | .ldvEq d a b => some (0x1D#6 ++ d ++ a ++ b ++ 0x0#11)
  | .ldvLe d a b => some (0x1D#6 ++ d ++ a ++ b ++ 0x1#11)
  | .stv s a b => some (0x1E#6 ++ s ++ a ++ b ++ 0x0#11)
  | .amoAdd d a b o n t => some (0x1F#6 ++ d ++ a ++ b ++ 0x0#3 ++ o ++ n ++ t ++ 0x0#3)
  | .amoMin d a b o n t => some (0x1F#6 ++ d ++ a ++ b ++ 0x0#3 ++ o ++ n ++ t ++ 0x1#3)
  | .amoMax d a b o n t => some (0x1F#6 ++ d ++ a ++ b ++ 0x0#3 ++ o ++ n ++ t ++ 0x2#3)
  | .amoAnd d a b o n t => some (0x1F#6 ++ d ++ a ++ b ++ 0x0#3 ++ o ++ n ++ t ++ 0x3#3)
  | .amoOr d a b o n t => some (0x1F#6 ++ d ++ a ++ b ++ 0x0#3 ++ o ++ n ++ t ++ 0x4#3)
  | .amoXor d a b o n t => some (0x1F#6 ++ d ++ a ++ b ++ 0x0#3 ++ o ++ n ++ t ++ 0x5#3)
  | .amoSwp d a b o t => some (0x1F#6 ++ d ++ a ++ b ++ 0x0#3 ++ o ++ 0x0#1 ++ t ++ 0x6#3)
  | .amoCas d a b o t => some (0x1F#6 ++ d ++ a ++ b ++ 0x0#3 ++ o ++ 0x0#1 ++ t ++ 0x7#3)
  | .fenceCell => some (0x20#6 ++ 0x0#26)
  | .fenceDom => some (0x20#6 ++ 0x1#26)
  | .fenceDie => some (0x20#6 ++ 0x2#26)
  | .fenceMod => some (0x20#6 ++ 0x3#26)
  | .fenceSys => some (0x20#6 ++ 0x4#26)
  | .fenceX => some (0x20#6 ++ 0x10#26)
  | .flagf c a => some (0x20#6 ++ 0x0#2 ++ c ++ a ++ 0x20#16)
  | .barArv d a => some (0x21#6 ++ d ++ a ++ 0x0#16)
  | .barWt a b => some (0x21#6 ++ 0x0#5 ++ a ++ b ++ 0x1#11)
  | .barAw d a => some (0x21#6 ++ d ++ a ++ 0x2#16)
  | .barExp a b => some (0x21#6 ++ 0x0#5 ++ a ++ b ++ 0x3#11)
  | .inv a b s => some (0x22#6 ++ 0x0#5 ++ a ++ b ++ 0x0#8 ++ s ++ 0x0#2)
  | .wb a b s => some (0x22#6 ++ 0x0#5 ++ a ++ b ++ 0x0#8 ++ s ++ 0x1#2)
  | .wbinv a b s => some (0x22#6 ++ 0x0#5 ++ a ++ b ++ 0x0#8 ++ s ++ 0x2#2)
  | .pf a b s => some (0x22#6 ++ 0x0#5 ++ a ++ b ++ 0x0#8 ++ s ++ 0x3#2)
  | .vadd d a b p w r t => some (0x23#6 ++ d ++ a ++ b ++ p ++ w ++ r ++ t ++ 0x0#5)
  | .vsub d a b p w r t => some (0x23#6 ++ d ++ a ++ b ++ p ++ w ++ r ++ t ++ 0x1#5)
  | .vmul d a b p w r t => some (0x23#6 ++ d ++ a ++ b ++ p ++ w ++ r ++ t ++ 0x2#5)
  | .vfma d a b p r t => some (0x23#6 ++ d ++ a ++ b ++ p ++ 0x0#2 ++ r ++ t ++ 0x3#5)
  | .vmin d a b p w t => some (0x23#6 ++ d ++ a ++ b ++ p ++ w ++ 0x0#1 ++ t ++ 0x4#5)
  | .vmax d a b p w t => some (0x23#6 ++ d ++ a ++ b ++ p ++ w ++ 0x0#1 ++ t ++ 0x5#5)
  | .vand d a b p => some (0x23#6 ++ d ++ a ++ b ++ p ++ 0x66#11)
  | .vor d a b p => some (0x23#6 ++ d ++ a ++ b ++ p ++ 0x67#11)
  | .vxor d a b p => some (0x23#6 ++ d ++ a ++ b ++ p ++ 0x68#11)
  | .vshl d a b p t => some (0x23#6 ++ d ++ a ++ b ++ p ++ 0x0#3 ++ t ++ 0x9#5)
  | .vshr d a b p t => some (0x23#6 ++ d ++ a ++ b ++ p ++ 0x0#3 ++ t ++ 0xA#5)
  | .vsra d a b p t => some (0x23#6 ++ d ++ a ++ b ++ p ++ 0x0#3 ++ t ++ 0xB#5)
  | .vcmp d a b p c t => some (0x23#6 ++ d ++ a ++ b ++ p ++ c ++ t ++ 0xC#5)
  | .vsel d a b p t => some (0x23#6 ++ d ++ a ++ b ++ p ++ 0x0#3 ++ t ++ 0xD#5)
  | .vabs d a p w t => some (0x23#6 ++ d ++ a ++ 0x0#4 ++ p ++ w ++ 0x0#1 ++ t ++ 0xE#5)
  | .vneg d a p w t => some (0x23#6 ++ d ++ a ++ 0x0#4 ++ p ++ w ++ 0x0#1 ++ t ++ 0xF#5)
  | .vcvt d a p e s => some (0x23#6 ++ d ++ a ++ 0x0#4 ++ p ++ e ++ s ++ 0x10#5)
  | .vcvtRtz d a p e s => some (0x23#6 ++ d ++ a ++ 0x0#4 ++ p ++ e ++ s ++ 0x15#5)
  | .vrcp d a p r t => some (0x23#6 ++ d ++ a ++ 0x0#4 ++ p ++ 0x0#2 ++ r ++ t ++ 0x11#5)
  | .vrsq d a p r t => some (0x23#6 ++ d ++ a ++ 0x0#4 ++ p ++ 0x0#2 ++ r ++ t ++ 0x12#5)
  | .vexp d a p r t => some (0x23#6 ++ d ++ a ++ 0x0#4 ++ p ++ 0x0#2 ++ r ++ t ++ 0x13#5)
  | .vlog d a p r t => some (0x23#6 ++ d ++ a ++ 0x0#4 ++ p ++ 0x0#2 ++ r ++ t ++ 0x14#5)
  | .vbcast d a p t => some (0x24#6 ++ d ++ a ++ 0x0#4 ++ p ++ 0x0#5 ++ t ++ 0x0#3)
  | .vext d a b t => some (0x24#6 ++ d ++ a ++ b ++ 0x0#8 ++ t ++ 0x1#3)
  | .vins d a b t => some (0x24#6 ++ d ++ a ++ b ++ 0x0#8 ++ t ++ 0x2#3)
  | .vperm d a b p t => some (0x24#6 ++ d ++ a ++ b ++ p ++ 0x0#5 ++ t ++ 0x3#3)
  | .vred d a p r s t => some (0x24#6 ++ d ++ a ++ 0x0#4 ++ p ++ 0x0#1 ++ r ++ s ++ t ++ 0x4#3)
  | .vld d a o w i => some (0x25#6 ++ 0x0#1 ++ d ++ a ++ o ++ w ++ i)
  | .vst d a o w i => some (0x26#6 ++ 0x0#1 ++ d ++ a ++ o ++ w ++ i)
  | .vgth d a b p o s => some (0x27#6 ++ d ++ a ++ b ++ p ++ 0x0#6 ++ o ++ s ++ 0x0#1)
  | .vsct d a b p o s => some (0x27#6 ++ d ++ a ++ b ++ p ++ 0x0#6 ++ o ++ s ++ 0x1#1)
  | .pand d a b => some (0x28#6 ++ d ++ a ++ b ++ 0x0#14)
  | .por d a b => some (0x28#6 ++ d ++ a ++ b ++ 0x1#14)
  | .pxor d a b => some (0x28#6 ++ d ++ a ++ b ++ 0x2#14)
  | .pnot d a => some (0x28#6 ++ d ++ a ++ 0x3#18)
  | .pset d n => some (0x28#6 ++ d ++ 0x0#12 ++ n ++ 0x4#3)
  | .psetX d a => some (0x28#6 ++ d ++ a ++ 0x404#18)
  | .pcnt d a k => some (0x28#6 ++ d ++ a ++ 0x0#8 ++ k ++ 0x5#3)
  | .mma a b d => some (0x29#6 ++ 0x0#3 ++ a ++ b ++ 0x0#3 ++ d ++ 0x0#8)
  | .mzero d => some (0x29#6 ++ 0x0#16 ++ d ++ 0x1#8)
  | .mldb a b => some (0x29#6 ++ 0x0#3 ++ a ++ b ++ 0x2#13)
  | .mrot => some (0x29#6 ++ 0x3#26)
  | .mlda a d => some (0x29#6 ++ 0x0#3 ++ a ++ 0x0#8 ++ d ++ 0x4#8)
  | .msta a d => some (0x29#6 ++ 0x0#3 ++ a ++ 0x0#8 ++ d ++ 0x5#8)
  | .mset a e => some (0x29#6 ++ 0x0#3 ++ a ++ 0x0#5 ++ e ++ 0x6#8)
  | .mget e d => some (0x29#6 ++ 0x0#8 ++ e ++ d ++ 0x7#8)
  | .qcvt a b d => some (0x2A#6 ++ 0x0#3 ++ a ++ b ++ d ++ 0x0#8)
  | .qchk a b d => some (0x2A#6 ++ 0x0#3 ++ a ++ b ++ d ++ 0x1#8)
  | .qchkW a b => some (0x2A#6 ++ 0x0#3 ++ a ++ b ++ 0x2#13)
  | .qstat a d => some (0x2A#6 ++ 0x0#3 ++ a ++ 0x0#5 ++ d ++ 0x3#8)
  | .cpy m a b d => some (0x2B#6 ++ m ++ a ++ b ++ d ++ 0x0#8)
  | .cpg m a b d => some (0x2B#6 ++ m ++ a ++ b ++ d ++ 0x1#8)
  | .cps m a b d => some (0x2B#6 ++ m ++ a ++ b ++ d ++ 0x2#8)
  | .cpr m a b d => some (0x2B#6 ++ m ++ a ++ b ++ d ++ 0x3#8)
  | .cpq d => some (0x2B#6 ++ 0x0#13 ++ d ++ 0x4#8)
  | .snd a => some (0x2C#6 ++ 0x0#5 ++ a ++ 0x0#16)
  | .rcv d b => some (0x2C#6 ++ d ++ 0x0#5 ++ b ++ 0x1#11)
  | .wmsg d a => some (0x2C#6 ++ d ++ a ++ 0x2#16)
  | .pkmsg d b => some (0x2C#6 ++ d ++ 0x0#5 ++ b ++ 0x3#11)
  | .lacqSp d a b => some (0x2D#6 ++ d ++ a ++ b ++ 0x20#11)
  | .lacqAcc d a b => some (0x2D#6 ++ d ++ a ++ b ++ 0x30#11)
  | .lacqCls d a b => some (0x2D#6 ++ d ++ a ++ b ++ 0x40#11)
  | .lacqL2 d a b => some (0x2D#6 ++ d ++ a ++ b ++ 0x50#11)
  | .lacqPage d a b => some (0x2D#6 ++ d ++ a ++ b ++ 0x60#11)
  | .lacqPath d a b => some (0x2D#6 ++ d ++ a ++ b ++ 0x80#11)
  | .lacqGrp d a b => some (0x2D#6 ++ d ++ a ++ b ++ 0x90#11)
  | .renew a b => some (0x2D#6 ++ 0x0#5 ++ a ++ b ++ 0x1#11)
  | .life d a => some (0x2D#6 ++ d ++ a ++ 0x2#16)
  | .llk d a b => some (0x2D#6 ++ d ++ a ++ b ++ 0x3#11)
  | .lgen d a => some (0x2D#6 ++ d ++ a ++ 0x4#16)
  | .lpar d a b => some (0x2D#6 ++ d ++ a ++ b ++ 0x5#11)
  | .optOn d a => some (0x2E#6 ++ d ++ a ++ 0x0#16)
  | .optOff d => some (0x2E#6 ++ d ++ 0x1000#21)
  | .ckpt d a n => some (0x2E#6 ++ d ++ a ++ 0x80#10 ++ n)
  | .rbret => some (0x2E#6 ++ 0x3000#26)
  | .capld c a => some (0x2F#6 ++ 0x0#2 ++ c ++ a ++ 0x0#16)
  | .capst c a => some (0x2F#6 ++ 0x0#2 ++ c ++ a ++ 0x1#16)
  | .capnar c e b => some (0x2F#6 ++ 0x0#2 ++ c ++ 0x0#2 ++ e ++ b ++ 0x2#11)
  | .capsetCur c e b => some (0x2F#6 ++ 0x0#2 ++ c ++ 0x0#2 ++ e ++ b ++ 0x3#11)
  | .capsetPerm c e b => some (0x2F#6 ++ 0x0#2 ++ c ++ 0x0#2 ++ e ++ b ++ 0x13#11)
  | .capsetMint c a b => some (0x2F#6 ++ 0x0#2 ++ c ++ a ++ b ++ 0x23#11)
  | .capget d c k => some (0x2F#6 ++ d ++ 0x0#2 ++ c ++ 0x0#9 ++ k ++ 0x4#4)
  | .go d a => some (0x2F#6 ++ d ++ a ++ 0x5#16)
  | .home => some (0x2F#6 ++ 0x6#26)
  | .rld d c z o w i => some (0x30#6 ++ d ++ c ++ z ++ o ++ w ++ i)
  | .rst s c z o w i => some (0x31#6 ++ s ++ c ++ z ++ o ++ w ++ i)
  | .ramoAdd d c b o n t => some (0x32#6 ++ d ++ 0x0#2 ++ c ++ b ++ 0x0#3 ++ o ++ n ++ t ++ 0x0#3)
  | .ramoMin d c b o n t => some (0x32#6 ++ d ++ 0x0#2 ++ c ++ b ++ 0x0#3 ++ o ++ n ++ t ++ 0x1#3)
  | .ramoMax d c b o n t => some (0x32#6 ++ d ++ 0x0#2 ++ c ++ b ++ 0x0#3 ++ o ++ n ++ t ++ 0x2#3)
  | .ramoAnd d c b o n t => some (0x32#6 ++ d ++ 0x0#2 ++ c ++ b ++ 0x0#3 ++ o ++ n ++ t ++ 0x3#3)
  | .ramoOr d c b o n t => some (0x32#6 ++ d ++ 0x0#2 ++ c ++ b ++ 0x0#3 ++ o ++ n ++ t ++ 0x4#3)
  | .ramoXor d c b o n t => some (0x32#6 ++ d ++ 0x0#2 ++ c ++ b ++ 0x0#3 ++ o ++ n ++ t ++ 0x5#3)
  | .ramoSwp d c b o t => some (0x32#6 ++ d ++ 0x0#2 ++ c ++ b ++ 0x0#3 ++ o ++ 0x0#1 ++ t ++ 0x6#3)
  | .ramoCas d c b o t => some (0x32#6 ++ d ++ 0x0#2 ++ c ++ b ++ 0x0#3 ++ o ++ 0x0#1 ++ t ++ 0x7#3)
  | .csrr d c => some (0x38#6 ++ d ++ 0x0#9 ++ c)
  | .csrw d a c => some (0x38#6 ++ d ++ a ++ 0x1#4 ++ c)
  | .csrs d a c => some (0x38#6 ++ d ++ a ++ 0x2#4 ++ c)
  | .csrc d a c => some (0x38#6 ++ d ++ a ++ 0x3#4 ++ c)
  | .trap n => some (0x38#6 ++ 0x4#14 ++ n)
  | .eret => some (0x38#6 ++ 0x5000#26)
  | .halt => some (0x38#6 ++ 0x6000#26)
  | .yield => some (0x38#6 ++ 0x7000#26)
  | .idle d a => some (0x38#6 ++ d ++ a ++ 0x8000#16)
  | .spawn d a b => some (0x38#6 ++ d ++ a ++ 0x480#11 ++ b)
  | .brk n => some (0x38#6 ++ 0xA#14 ++ n)
  | .budx d a => some (0x39#6 ++ d ++ a ++ 0x0#16)
  | .bget d k => some (0x39#6 ++ d ++ 0x400#19 ++ k)
  | .rotationChangeWrite _ _ => none
  | .rotationBoundary _ => none
  | .splitChangeWrite _ _ => none
  | .splitChangeDone _ => none
  | .sprfClear _ => none
  | .registerWrite _ _ _ => none
  | .homeTickStep _ => none
  | .leaseExpiry _ => none
  | .lapseNotice _ => none
  | .leaseRequestArrival _ => none
  | .grantReplyDelivery _ => none
  | .llkTimeout _ => none
  | .lockDrain _ => none
  | .lockGrant _ => none
  | .guardNotice _ => none
  | .lapsingEnd _ => none
  | .scrubJobComplete _ => none
  | .cacheSweep _ _ => none
  | .homeAccessArrival _ => none
  | .accessReply _ => none
  | .postedAck _ => none
  | .postedRefusalReport _ => none
  | .feBackoffRetry _ => none
  | .parkedWake _ => none
  | .idleWake _ => none
  | .barrierArrival _ => none
  | .barrierDeclaration _ => none
  | .barrierByteReport _ => none
  | .l1ReadLeaseEnd _ _ => none
  | .dirtyLineTimeout _ _ => none
  | .l1Eviction _ _ => none
  | .l1Writeback _ _ => none
  | .l2Eviction _ _ => none
  | .l2Fill _ _ => none
  | .dramWriteback _ _ => none
  | .stagehandTakeRequest _ => none
  | .copyStep _ _ => none
  | .copyStepLanded _ _ _ => none
  | .copyStepRefusal _ _ _ _ _ => none
  | .copyPassEnd _ _ => none
  | .copyReplayTimer _ _ => none
  | .copyRetire _ _ => none
  | .cprChunkRead _ _ => none
  | .cprElementAck _ _ _ => none
  | .engineOpStart _ _ => none
  | .engineOpRetire _ _ => none
  | .matrixCommand _ => none
  | .mrotSendBegin _ => none
  | .latchTransferEnd _ => none
  | .latchSwap _ => none
  | .messageArrival _ => none
  | .antiMessageArrival _ => none
  | .fabricHeldMessageAccept _ => none
  | .rollbackSequence _ => none
  | .rollbackRequeueResume _ => none
  | .gvtRoundStart _ => none
  | .gvtCut _ _ => none
  | .gvtReport _ _ => none
  | .gvtReportResult _ => none
  | .gvtReportRetry _ => none
  | .gvtPublication _ _ => none
  | .deferredEntryPerform _ _ => none
  | .groupLapseTrap _ => none
  | .budgetTrap _ => none
  | .chargeBatchSend _ _ => none
  | .chargeApply _ => none
  | .graceCountExhausted _ => none
  | .budRefresh _ _ => none
  | .budxRequest _ => none
  | .bgetRequest _ => none
  | .qtailWrite _ _ _ => none
  | .qbaseWrite _ _ _ => none
  | .queueEntryTest _ _ => none
  | .slotAssignment _ => none
  | .cellPlacement _ _ => none
  | .preemptionRequest _ => none
  | .vacatePoint _ => none
  | .contextRestore _ => none
  | .savedContextEvent _ _ => none
  | .sabaseWrite _ _ _ => none
  | .faultReport _ => none
  | .fqbaseWrite _ _ => none
  | .fqlostRead _ => none
  | .statisticsBlockRead _ _ => none
  | .errcntRead _ => none
  | .pmoveWrite _ _ => none
  | .quiescePoint _ => none
  | .fabricRequestAtSwitch _ => none
  | .combinedReplySplit _ => none
  | .remoteUpdateThread _ => none
  | .migrationReturn _ => none
  | .deliveryFrameArrival _ _ => none
  | .deliveryReplyArrival _ _ _ _ => none
  | .retransmitTimer _ _ => none
  | .retransmitExhausted _ _ => none
  | .deliveryContextQuiet _ => none
  | .ptcmdRoot _ _ => none
  | .ptcmdRing _ _ _ => none
  | .ptcmdSlice _ _ _ => none
  | .ptcmdChannelGroup _ _ _ => none
  | .ptcmdShare _ _ _ => none
  | .ptcmdKeySlot _ _ _ => none
  | .ptcmdReservedOp _ _ => none
  | .ptcmdApplied _ => none
  | .mqpolWrite _ _ _ => none
  | .debugResume _ _ _ => none
  | .debugCommandIgnored _ _ => none
  | .retireDramRow _ _ _ _ => none
  | .retireRing _ _ => none
  | .retirementDone _ => none
  | .functionLevelReset _ => none
  | .flrHoldEnd _ => none
  | .moduleReset => none
  | .powerOn => none
  | .imageCheck => none
  | .dramCalibration _ => none
  | .dieLinkTraining _ => none
  | .pcieTraining _ _ _ => none
  | .cxlNegotiation _ => none
  | .ethernetAutoneg _ => none
  | .hostConfigRequest _ => none
  | .hostMemoryAccess _ _ _ => none
  | .smbusReadBstat => none
  | .smbusReadResetCount => none
  | .smbusOtherCommand _ => none
  | .attestationRequest _ => none
  | .illegalInstructionWord _ => none
  | .instructionFetchFault _ => none
  | .llkRequestArrival _ => none
  | .leaseReplyArrival _ => none
  | .budgetReplyArrival _ => none
  | .softError _ _ => none
  | .powerLoss => none
  | .portLinkDown _ => none
  | .portLinkUp _ => none
  | .frameSecondMapping _ _ _ _ => none

/-- The instruction that a word names (03 R52): the word must be exactly the instruction's word, so every unused
field is zero, and its fields must lie within their limits. -/
def decodeWord (w : IWord) : Except DecodeError Instr :=
  match rawDecode w with
  | none => .error (.unassigned w)
  | some i =>
    if encode i ≠ some w then .error (.unusedField w)
    else if i.wf then .ok i else .error (.illegalField w)

/-- A word from four bytes, little-endian (03 R45). -/
def wordOfBytes (b0 b1 b2 b3 : Byte) : IWord := b3 ++ b2 ++ b1 ++ b0

/-- The bytes of a word, little-endian (03 R45). -/
def bytesOfWord (w : IWord) : List Byte := [fld w 0 8, fld w 8 8, fld w 16 8, fld w 24 8]

/-- Decode the instruction at the head of a byte list, and give the bytes after it. -/
def decode : List Byte → Except DecodeError (Instr × List Byte)
  | b0 :: b1 :: b2 :: b3 :: rest =>
    match decodeWord (wordOfBytes b0 b1 b2 b3) with
    | .ok i => .ok (i, rest)
    | .error e => .error e
  | _ => .error .short

/-- The bytes of an instruction. -/
def encodeBytes (i : Instr) : List Byte :=
  match encode i with
  | some w => bytesOfWord w
  | none => []

/-- The instruction that the decoder reads from a row of the opcode table, its bits numbered from the least
significant bit of the one word. -/
def decodeTableWord (_nbits w : Nat) : Option Instr :=
  match decode (bytesOfWord (BitVec.ofNat 32 w)) with
  | .ok (i, _) => some i
  | .error _ => none

end Sys2Proof
end

