-- ==== Sys2Proof/Machine/Flags.lean ====
section
/-! DEFINITION. Floating point: values, exact arithmetic, the one rounding, and every flag (02 R28-R32, R42; 05 R103;
06 R139-R142). A value is a sign, a natural mantissa and an exponent; an operation computes it exactly and rounds
once at the end. Flags are in `fflags` layout: nx 0, uf 1, of 2, dz 3, nv 4 (02 R30). -/

namespace Sys2Proof.Machine

/-- Flags in `fflags` layout (02 R30). -/
abbrev FFlags := BitVec 5
def flagNX : FFlags := 1
def flagUF : FFlags := 2
def flagOF : FFlags := 4
def flagDZ : FFlags := 8
def flagNV : FFlags := 16

/-- A floating-point format with 8 exponent bits and `p` significant bits: binary32 or bfloat16 (02 R32). -/
inductive Fmt where
  | b32
  | b16
  deriving DecidableEq, Repr

def Fmt.p : Fmt → Nat
  | .b32 => 24
  | .b16 => 8

/-- The bits below the sign. -/
def Fmt.signBit (f : Fmt) : Nat := 2 ^ (f.p + 7)

/-- The exponent field of infinities, in place. -/
def Fmt.inf (f : Fmt) : Nat := 255 * 2 ^ (f.p - 1)

/-- The canonical quiet NaN: 0x7FC0_0000 or 0x7FC0 (02 R29). -/
def Fmt.qnan (f : Fmt) : Nat := 0x1FF * 2 ^ (f.p - 2)

/-- A floating-point value. The finite value is `m * 2 ^ e`, negative when `neg`. -/
inductive FVal where
  | nan (signalling : Bool)
  | inf (neg : Bool)
  | fin (neg : Bool) (m : Nat) (e : Int)
  deriving DecidableEq, Repr

/-- The value of a bit pattern. -/
def unpack (f : Fmt) (bits : Nat) : FVal :=
  let neg := decide (f.signBit ≤ bits % (2 * f.signBit))
  let mag := bits % f.signBit
  let ex := mag / 2 ^ (f.p - 1)
  let fr := mag % 2 ^ (f.p - 1)
  if ex = 255 then
    if fr = 0 then .inf neg else .nan (decide (fr < 2 ^ (f.p - 2)))
  else if ex = 0 then .fin neg fr (2 - 127 - (f.p : Int))
  else .fin neg (fr + 2 ^ (f.p - 1)) ((ex : Int) - 126 - (f.p : Int))

def withSign (f : Fmt) (neg : Bool) (mag : Nat) : Nat := if neg then mag + f.signBit else mag

/-- Number of bits of a natural. -/
def bitLen (m : Nat) : Nat := if m = 0 then 0 else Nat.log2 m + 1

/-- Drop the low `k` bits of a mantissa (or shift left when `k` is negative): the quotient, the remainder doubled and
compared with the unit (`lt`, `eq`, `gt` half), and whether anything was lost. -/
def splitAt (m : Nat) (k : Int) (sticky : Bool) : Nat × Ordering × Bool :=
  match k with
  | .ofNat s =>
    if s = 0 then (m, .lt, sticky)
    else
      let q := m / 2 ^ s
      let r := m % 2 ^ s
      let half := 2 ^ (s - 1)
      (q, if r < half then .lt else if half < r then .gt else if sticky then .gt else .eq,
        decide (r ≠ 0) || sticky)
  | .negSucc s => (m * 2 ^ (s + 1), .lt, sticky)

/-- Round the exact value `(m + θ) * 2 ^ e`, 0 < θ < 1 when `sticky` and θ = 0 otherwise, to the format (02 R28).
Underflow is judged on the delivered result (02 R30). -/
def roundPack (f : Fmt) (rtz neg : Bool) (m : Nat) (e : Int) (sticky : Bool) : Nat × FFlags :=
  if m = 0 ∧ sticky = false then (withSign f neg 0, 0)
  else
    let q := max (e + (bitLen m : Int) - (f.p : Int)) (2 - 127 - (f.p : Int))
    let (t, half, inexact) := splitAt m (q - e) sticky
    let up := !rtz && (half == .gt || (half == .eq && t % 2 = 1))
    let t' := if up then t + 1 else t
    let mag := (q + (f.p : Int) + 125).toNat * 2 ^ (f.p - 1) + t'
    if f.inf ≤ mag then
      (withSign f neg (if rtz then f.inf - 1 else f.inf), flagOF ||| flagNX)
    else
      (withSign f neg mag,
        if inexact then (if mag < 2 ^ (f.p - 1) then flagUF ||| flagNX else flagNX) else 0)

/-- NV for a signalling NaN (02 R29). -/
def nanFlags (sig : Bool) : FFlags := if sig then flagNV else 0

def FVal.isSnan : FVal → Bool
  | .nan s => s
  | _ => false

def FVal.isNan : FVal → Bool
  | .nan _ => true
  | _ => false

/-- A signed mantissa as an integer. -/
def signedM (neg : Bool) (m : Nat) : Int := if neg then -(m : Int) else (m : Int)

/-- The exact sum of two finite values: sign, mantissa, exponent. An exact zero sum of unlike signs is +0. -/
def sumExact (n1 : Bool) (m1 : Nat) (e1 : Int) (n2 : Bool) (m2 : Nat) (e2 : Int) : Bool × Nat × Int :=
  let e := min e1 e2
  let s := signedM n1 (m1 * 2 ^ (e1 - e).toNat) + signedM n2 (m2 * 2 ^ (e2 - e).toNat)
  if s = 0 then (n1 && n2, 0, e) else (decide (s < 0), s.natAbs, e)

/-- Deliver a value, rounding if it is finite. -/
def deliver (f : Fmt) (rtz : Bool) : FVal → Nat × FFlags
  | .nan s => (f.qnan, nanFlags s)
  | .inf n => (withSign f n f.inf, 0)
  | .fin n m e => roundPack f rtz n m e false

/-- Sum, rounded once (02 R28, R29). -/
def fAdd (f : Fmt) (rtz : Bool) (a b : FVal) : Nat × FFlags :=
  match a, b with
  | .nan s, y => (f.qnan, nanFlags (s || y.isSnan))
  | x, .nan s => (f.qnan, nanFlags (s || x.isSnan))
  | .inf n, .inf k => if n = k then (withSign f n f.inf, 0) else (f.qnan, flagNV)
  | .inf n, .fin _ _ _ => (withSign f n f.inf, 0)
  | .fin _ _ _, .inf n => (withSign f n f.inf, 0)
  | .fin n1 m1 e1, .fin n2 m2 e2 =>
    let (n, m, e) := sumExact n1 m1 e1 n2 m2 e2
    roundPack f rtz n m e false

def FVal.neg : FVal → FVal
  | .nan s => .nan s
  | .inf n => .inf (!n)
  | .fin n m e => .fin (!n) m e

/-- Product, rounded once. -/
def fMul (f : Fmt) (rtz : Bool) (a b : FVal) : Nat × FFlags :=
  match a, b with
  | .nan s, y => (f.qnan, nanFlags (s || y.isSnan))
  | x, .nan s => (f.qnan, nanFlags (s || x.isSnan))
  | .inf n, .inf k => (withSign f (n != k) f.inf, 0)
  | .inf n, .fin k m _ => if m = 0 then (f.qnan, flagNV) else (withSign f (n != k) f.inf, 0)
  | .fin n m _, .inf k => if m = 0 then (f.qnan, flagNV) else (withSign f (n != k) f.inf, 0)
  | .fin n1 m1 e1, .fin n2 m2 e2 => roundPack f rtz (n1 != n2) (m1 * m2) (e1 + e2) false

/-- 0 times infinity. -/
def zeroTimesInf (a b : FVal) : Bool :=
  match a, b with
  | .inf _, .fin _ m _ => decide (m = 0)
  | .fin _ m _, .inf _ => decide (m = 0)
  | _, _ => false

/-- `d + a * b`, rounded once; 0 times infinity raises NV even when `d` is a quiet NaN (06 R139). -/
def fFma (f : Fmt) (rtz : Bool) (d a b : FVal) : Nat × FFlags :=
  if zeroTimesInf a b then (f.qnan, flagNV)
  else
    match a, b with
    | .fin n1 m1 e1, .fin n2 m2 e2 => fAdd f rtz d (.fin (n1 != n2) (m1 * m2) (e1 + e2))
    | .nan s, y => (f.qnan, nanFlags (s || y.isSnan || d.isSnan))
    | x, .nan s => (f.qnan, nanFlags (s || x.isSnan || d.isSnan))
    | .inf n, .inf k => fAdd f rtz d (.inf (n != k))
    | .inf n, .fin k _ _ => fAdd f rtz d (.inf (n != k))
    | .fin n _ _, .inf k => fAdd f rtz d (.inf (n != k))

/-- Signed magnitude order of bit patterns that are not NaN, -0 below +0 (05 R103, 06 R139). -/
def orderKey (f : Fmt) (bits : Nat) : Int :=
  let mag := bits % f.signBit
  if f.signBit ≤ bits % (2 * f.signBit) then -(mag : Int) - 1 else (mag : Int)

/-- The smaller or larger of two bit patterns (05 R103, 06 R139). -/
def fMinMax (f : Fmt) (larger : Bool) (a b : Nat) : Nat × FFlags :=
  let x := unpack f a
  let y := unpack f b
  if x.isNan || y.isNan then (f.qnan, nanFlags (x.isSnan || y.isSnan))
  else if (decide (orderKey f a ≤ orderKey f b)) = !larger then (a, 0) else (b, 0)

/-- The numeric order of two values that are not NaN: -0 = +0. -/
def fCompare (f : Fmt) (a b : Nat) : Ordering :=
  let ka := if a % f.signBit = 0 then 0 else orderKey f a
  let kb := if b % f.signBit = 0 then 0 else orderKey f b
  compare ka kb

/-- Integer square root by bits, highest first. -/
def isqrtBits (n : Nat) : Nat → Nat → Nat
  | 0, r => r
  | b + 1, r => if (r + 2 ^ b) * (r + 2 ^ b) ≤ n then isqrtBits n b (r + 2 ^ b) else isqrtBits n b r

/-- 1 / a, correctly rounded (06 R140). -/
def fRcp (f : Fmt) (rtz : Bool) (a : FVal) : Nat × FFlags :=
  match a with
  | .nan s => (f.qnan, nanFlags s)
  | .inf n => (withSign f n 0, 0)
  | .fin n m e =>
    if m = 0 then (withSign f n f.inf, flagDZ)
    else
      let k := bitLen m + 40
      roundPack f rtz n (2 ^ k / m) (-(k : Int) - e) (decide (2 ^ k % m ≠ 0))

/-- 1 / sqrt a, correctly rounded (06 R140). -/
def fRsq (f : Fmt) (rtz : Bool) (a : FVal) : Nat × FFlags :=
  match a with
  | .nan s => (f.qnan, nanFlags s)
  | .inf n => if n then (f.qnan, flagNV) else (0, 0)
  | .fin n m e =>
    if m = 0 then (withSign f n f.inf, flagDZ)
    else if n then (f.qnan, flagNV)
    else
      let odd := e % 2 ≠ 0
      let m' := if odd then 2 * m else m
      let e' := if odd then e - 1 else e
      let r := isqrtBits (2 ^ 128 / m') 65 0
      roundPack f rtz false r (-64 - e' / 2) (decide (r * r * m' ≠ 2 ^ 128))

/-- Fraction bits of the fixed-point arithmetic behind vexp and vlog (log 7). -/
def fixBits : Nat := 320

/-- ln 2 in units of 2 ^ -320, rounded down. -/
def ln2Fix : Nat :=
  0xb17217f7d1cf79abc9e3b39803f2f6af40f343267298b62d8a0d175b8baafa2be7b876206debac98

/-- Partial sum of the exponential series from term number `k`. -/
def expSeries (y : Nat) : Nat → Nat → Nat → Nat
  | 0, _, _ => 0
  | n + 1, k, term => term + expSeries y n (k + 1) (term * y / 2 ^ fixBits / (k + 1))

/-- 2 ^ a, correctly rounded (06 R140). A result with a fractional exponent is irrational, so it is inexact. -/
def fExp (f : Fmt) (rtz : Bool) (a : FVal) : Nat × FFlags :=
  match a with
  | .nan s => (f.qnan, nanFlags s)
  | .inf n => if n then (0, 0) else (f.inf, 0)
  | .fin n m e =>
    if 9 < e + (bitLen m : Int) then
      -- |a| ≥ 512: beyond the range on either side
      roundPack f rtz false 1 (if n then -512 else 512) true
    else
      let fixed := signedM n (if 0 ≤ e then m * 2 ^ (e.toNat + fixBits) else m * 2 ^ (fixBits - (-e).toNat))
      let whole := fixed / (2 ^ fixBits : Int)
      let frac := (fixed % (2 ^ fixBits : Int)).toNat
      if frac = 0 then roundPack f rtz false 1 whole false
      else roundPack f rtz false (expSeries (frac * ln2Fix / 2 ^ fixBits) 90 0 (2 ^ fixBits))
        (whole - (fixBits : Int)) true

/-- Bits of log2 of `y / 2 ^ 320`, 1 ≤ that < 2, by repeated squaring. -/
def log2Bits : Nat → Nat → Nat → Nat
  | 0, _, acc => acc
  | n + 1, y, acc =>
    let y2 := y * y / 2 ^ fixBits
    if 2 ^ (fixBits + 1) ≤ y2 then log2Bits n (y2 / 2) (2 * acc + 1) else log2Bits n y2 (2 * acc)

/-- log2 a, correctly rounded (06 R140). The logarithm of a value that is no power of two is irrational. -/
def fLog (f : Fmt) (rtz : Bool) (a : FVal) : Nat × FFlags :=
  match a with
  | .nan s => (f.qnan, nanFlags s)
  | .inf n => if n then (f.qnan, flagNV) else (f.inf, 0)
  | .fin n m e =>
    if m = 0 then (withSign f true f.inf, flagDZ)
    else if n then (f.qnan, flagNV)
    else
      let l := Nat.log2 m
      let whole := e + (l : Int)
      if m = 2 ^ l then roundPack f rtz (decide (whole < 0)) whole.natAbs 0 false
      else
        let t := whole * (2 ^ 200 : Int) + (log2Bits 200 (m * 2 ^ (fixBits - l)) 0 : Int)
        if 0 ≤ t then roundPack f rtz false t.toNat (-200) true
        else roundPack f rtz true (t.natAbs - 1) (-200) true

/-- An integer as a value. -/
def FVal.ofInt (v : Int) : FVal := .fin (decide (v < 0)) v.natAbs 0

/-- A value rounded to an integer of `w` bits in the mode, clamped to its signed range (06 R142). -/
def toIntClamp (rtz : Bool) (w : Nat) (a : FVal) : Int × FFlags :=
  let hi : Int := 2 ^ (w - 1) - 1
  let lo : Int := -(2 ^ (w - 1))
  match a with
  | .nan _ => (0, flagNV)
  | .inf n => (if n then lo else hi, flagNV)
  | .fin n m e =>
    let (t, half, inexact) := splitAt m (-e) false
    let t' := if !rtz && (half == .gt || (half == .eq && t % 2 = 1)) then t + 1 else t
    let v := signedM n t'
    if v < lo then (lo, flagNV) else if hi < v then (hi, flagNV) else (v, if inexact then flagNX else 0)

/-- The value `m * 2 ^ e` for a signed integer `m`. -/
def FVal.scaled (m : Int) (e : Int) : FVal := .fin (decide (m < 0)) m.natAbs e

/-! ## binary32 on bit patterns -/

def add32 (a b : Nat) : Nat × FFlags := fAdd .b32 false (unpack .b32 a) (unpack .b32 b)

/-- Round an exact scaled integer to binary32, RNE; an integer 0 gives +0 (02 R42). -/
def rne32 (m : Int) (e : Int) : Nat × FFlags :=
  if m = 0 then (0, 0) else roundPack .b32 false (decide (m < 0)) m.natAbs e false

end Sys2Proof.Machine
end

