-- ==== Sys2Proof/Machine/Table.lean ====
section
/-! DEFINITION. Sparse tables: what the machine holds by number (registers, bytes, cells, contexts).
A table lists (key, value) pairs with keys strictly rising; a key it does not list holds the default that
the reader names. `Memory` is the same for bytes, in the canonical form of Host.Cell lists: no listed byte
equals what an unlisted address reads as. -/

namespace Sys2Proof.Machine

/-- A table from numbers to values, keys strictly rising. -/
abbrev Table (α : Type) := List (Nat × α)

/-- The value listed at `k`, if any. -/
def tfind {α : Type} : Table α → Nat → Option α
  | [], _ => none
  | (j, v) :: t, k => if j = k then some v else tfind t k

/-- The value at `k`, or the default. -/
def tget {α : Type} (d : α) (t : Table α) (k : Nat) : α := (tfind t k).getD d

/-- List `v` at `k`, keeping the keys rising. -/
def tset {α : Type} : Table α → Nat → α → Table α
  | [], k, v => [(k, v)]
  | (j, w) :: t, k, v =>
    if k < j then (k, v) :: (j, w) :: t
    else if k = j then (k, v) :: t
    else (j, w) :: tset t k v

/-- Remove the entry at `k`. -/
def tdel {α : Type} : Table α → Nat → Table α
  | [], _ => []
  | (j, w) :: t, k => if j = k then t else (j, w) :: tdel t k

/-- Change the value at `k`. -/
def tmod {α : Type} (d : α) (t : Table α) (k : Nat) (f : α → α) : Table α := tset t k (f (tget d t k))

/-- The first key not below any listed key: a fresh number. -/
def tnext {α : Type} (t : Table α) : Nat := t.foldl (fun m p => max m (p.1 + 1)) 0

/-- Keys strictly rise, and each is at least `lo`. -/
def risesFrom {α : Type} (lo : Nat) : Table α → Bool
  | [] => true
  | (j, _) :: t => decide (lo ≤ j) && risesFrom (j + 1) t

/-- Bytes by address: sorted, no repeats, no listed zero (what an unlisted byte reads as, log 2). -/
abbrev Memory := List Host.Cell

/-- What an unlisted byte of memory reads as (19 R352, R357: cleared memory; log 2). -/
def unlistedByte : Byte := 0

/-- One byte of memory. -/
def mget (m : Memory) (a : Nat) : Byte := tget unlistedByte m a

/-- Write one byte, keeping the canonical form. -/
def mset (m : Memory) (a : Nat) (b : Byte) : Memory :=
  if b = unlistedByte then tdel m a else tset m a b

/-- Write bytes at consecutive addresses. -/
def msetBytes (m : Memory) (a : Nat) : List Byte → Memory
  | [] => m
  | b :: bs => msetBytes (mset m a b) (a + 1) bs

/-- Read `n` bytes at consecutive addresses. -/
def mgetBytes (m : Memory) (a : Nat) : Nat → List Byte
  | 0 => []
  | n + 1 => mget m a :: mgetBytes m (a + 1) n

/-- The canonical form of memory. -/
def Memory.wf (m : Memory) : Bool := risesFrom 0 m && m.all (fun p => decide (p.2 ≠ unlistedByte))

/-- Little-endian value of bytes. -/
def leNat : List Byte → Nat
  | [] => 0
  | b :: bs => b.toNat + 256 * leNat bs

/-- The low `n` bytes of a number, little-endian. -/
def leBytes (v : Nat) : Nat → List Byte
  | 0 => []
  | n + 1 => BitVec.ofNat 8 v :: leBytes (v / 256) n

/-- Sets of numbers: rising lists. -/
abbrev NSet := List Nat

def nins : NSet → Nat → NSet
  | [], k => [k]
  | j :: t, k => if k < j then k :: j :: t else if k = j then j :: t else j :: nins t k

def ndel : NSet → Nat → NSet
  | [], _ => []
  | j :: t, k => if j = k then t else j :: ndel t k

/-- Put `k` into the set or take it out. -/
def nput (s : NSet) (k : Nat) (b : Bool) : NSet := if b then nins s k else ndel s k

end Sys2Proof.Machine
end

