-- ==== Sys2Proof/Machine/State.lean ====
section
/-! DEFINITION. The state of the module: every piece of state the spec names, as plain data.
Structures follow the units that hold the state: thread contexts, cells, leases at their homes, dies,
partitions, queue entries, the fabric, the module. Tables are sparse: a unit that a table does not list is
in its reset state. INVENTORY.md names the rule and the reset value of each field. -/

namespace Sys2Proof.Machine

/-- Why the machine stops. -/
inductive Fault where
  /-- Raised by `step` alone: the supply is off and nothing arrives from outside, so no unit holds any
  state and nothing moves (19 R357). Safe: the model stops where the hardware does nothing. -/
  | noSupply
  deriving DecidableEq, Repr

/-- Why the model gives a step no meaning. -/
inductive Refusal where
  /-- Raised by `exec` for a row of the opcode table that has no meaning yet. Safe: the run stops. -/
  | notModelled (mnemonic : String)
  deriving DecidableEq, Repr

/-! ## Storage -/

/-- Bytes with the marks that live beside them: full/empty bits by doubleword number (05 R97), capability
tags by 16-byte granule number (05 R127), poison marks by doubleword number (20 R359). -/
structure Bank where
  bytes  : Memory := []
  full   : NSet := []
  tags   : NSet := []
  poison : NSet := []
  deriving DecidableEq, Repr

/-- A capability register: 128 bits and the hidden tag (01 R15). -/
structure Capa where
  bits : BitVec 128 := 0
  tag  : Bool := false
  deriving DecidableEq, Repr

/-- Who made a request: the context, and what a fault queue entry about it carries (17 R331). -/
structure Issuer where
  ctx  : Nat := 0
  part : Nat := 0
  cell : Nat := 0
  slot : Nat := 0
  tag  : BitVec 16 := 0
  word : IWord := 0                     -- the instruction word
  deriving DecidableEq, Repr

/-- One line of a cell's L1 (10 R212-R215, R217). Masks have one bit for each of the 128 bytes. -/
structure L1Line where
  sid        : BitVec 16 := 0
  part       : Nat := 0
  va         : Nat := 0
  data       : Bank := {}
  valid      : BitVec 128 := 0
  dirty      : BitVec 128 := 0
  stores     : List (Issuer × Word) := [] -- the contexts the slot mask names, each with the address of its first store
  guarded    : Bool := false
  leaseEnd   : Nat := 0          -- cycle at which the read lease ends
  dirtySince : Nat := 0
  fill       : Nat := 0          -- number of the fill request, for R233
  deriving DecidableEq, Repr

/-- One line present in a die's L2 (10 R218), under the one name the Sieve keeps (17 R336). -/
structure L2Line where
  sid   : BitVec 16 := 0
  va    : Nat := 0
  part  : Nat := 0
  slice : Nat := 0
  dirty : Bool := false
  data  : Bank := {}
  deriving DecidableEq, Repr

/-- A location at its home: a cell's scratchpad offset, or an address of a space id: partition · 1024 + space
number (17 R333). -/
inductive Loc where
  | spad (cell off : Nat)
  | mem (space va : Nat)
  deriving DecidableEq, Repr

/-- Where a request goes: a home on the module, a fabric peer or the host (14 R287). -/
inductive Target where
  | home (l : Loc)
  | peer (id addr : Nat)
  | host (addr : Nat)
  deriving DecidableEq, Repr

/-! ## Messages, requests and engine work -/

/-- A 32-byte message: header and payload (07 R180). -/
structure Msg where
  hdr : Word := 0
  d1  : Word := 0
  d2  : Word := 0
  d3  : Word := 0
  deriving DecidableEq, Repr

/-- A message on its way: where it goes, what its frame carries (13 R264), and the capability that a matrix
command carries. `held` marks one that waits for its context or for a queue entry (09 R207, R209). -/
structure Flight where
  msg    : Msg := {}
  cell   : Nat := 0
  from_  : Nat := 0            -- source cell
  ctx    : Nat := 0            -- source context
  group  : Option Nat := none
  colour : Bool := false
  counted : Bool := false      -- a member message of a GVT round (13 R274)
  held   : Bool := false
  arrived : Nat := 0           -- order in which held messages reached the cell
  cap    : Option Capa := none
  by_    : Issuer := {}        -- the sender, for the reports of a matrix command (07 R169)
  entry  : Option Nat := none  -- the queue entry that the sender is charged to
  pkt    : Option Nat := none  -- a stored report: the refused posted operation whose count waits for it (18 R343)
  deriving DecidableEq, Repr

/-- A message in a cell's queue. `reserved` says which entry it takes (09 R207). -/
structure Queued where
  msg      : Msg := {}
  cls      : Nat := 0
  reserved : Bool := true
  group    : Option Nat := none
  poison   : NSet := []                 -- its poisoned doublewords, 0-3 (20 R359)
  sender   : Option Issuer := none      -- the context that sent it (09 R208)
  deriving DecidableEq, Repr

/-- What a request packet asks of its home. -/
inductive PktOp where
  | load (n : Nat) (signed : Bool)
  | store (data : List Byte)
  | capst (c : Capa)
  | amo (op : BitVec 3) (ty : BitVec 2) (v exp : Word)
  | arrive (aw : Bool)
  | declare (n : Nat)
  | bytes (n : Nat)
  | take
  | give (v : Word)
  deriving DecidableEq, Repr

/-- The fate of a packet at its home. -/
inductive PktState where
  | travelling
  | queued                       -- a .nf atomic waiting for a pantry guest slot (14 R290)
  | combined                     -- part of another packet until its reply splits (14 R283)
  | performed (v : Word) (flags : BitVec 5)
  | refused (code : Byte)
  | reported                     -- a refused posted operation whose report waits in the store of generated messages (18 R343)
  deriving DecidableEq, Repr

/-- A request's place in a switch output queue (14 R279, R280): stage 1-3, die and output of the switch, and the input port,
cycle and order of its arrival there. -/
structure SwitchPlace where
  stage : Nat := 1
  die   : Nat := 0
  out   : Nat := 0
  input : Nat := 0
  cyc   : Nat := 0
  order : Nat := 0
  deriving DecidableEq, Repr

/-- A wait buffer entry of a switch output (14 R283, R284): the later request, the value that the earlier one then carried, the
output, and the input port and cycle of its arrival there. -/
structure Mate where
  pkt   : Nat
  v     : Word
  stage : Nat
  die   : Nat
  out   : Nat
  input : Nat := 0
  cyc   : Nat := 0
  deriving DecidableEq, Repr

/-- A request on its way to a home, or its reply on the way back (05 R95, R104-R105; 14 R279-R284).
`cls` is the destination class of R104 (0-2; 3 for the own domain); `port` is the endpoint port where it enters the fabric:
a domain, or 8 + die for the die's pantry group. -/
structure Packet where
  ctx    : Nat := 0
  part   : Nat := 0
  tag    : BitVec 16 := 0
  cell   : Nat := 0
  slot   : Nat := 0
  word   : IWord := 0             -- the instruction word, for a fault record
  entry  : Option Nat := none     -- the queue entry that the issuer is charged to (16 R311)
  target : Target := .host 0
  op     : PktOp := .load 1 false
  posted : Bool := true
  cls    : Nat := 3
  gen    : Option (BitVec 16) := none
  capKind : Byte := 0
  capId  : Nat := 0               -- id of the capability (14 R287), when `gen` is present
  ea     : Word := 0              -- the address that a fault record carries
  xd     : BitVec 5 := 0
  sc     : Bool := false
  acq    : Bool := false          -- completion is an acquire (11 R233)
  st     : PktState := .travelling
  port   : Nat := 0
  sent   : Bool := false          -- its frame has left through an external port (14 R291)
  place  : Option SwitchPlace := none -- the switch queue it waits in
  mates  : List Mate := []        -- the requests combined into this one
  stamp  : Option Word := none    -- of a deferred entry: counted in no register, covered by no fence (13 R265)
  copy   : Option Word := none    -- of a Stagehand's byte report or step: the copy's tag, or a deferred copy's stamp
  mailbox : Nat := 0              -- and its mailbox
  deriving DecidableEq, Repr

/-- What a lease request asks (05 R118-R125). -/
inductive LeaseOp where
  | lacq (kind : Nat)
  | renew
  | life
  | lgen
  | lpar
  | llk
  deriving DecidableEq, Repr

/-- A lease request on its way, held at its home, or answered (05 R119-R125, 08 R191-R193). -/
structure LeaseReq where
  ctx     : Nat := 0
  op      : LeaseOp := .life
  xa      : Word := 0
  xb      : Word := 0
  num     : Nat := 0
  xd      : BitVec 5 := 0
  capId   : Option (BitVec 16) := none  -- the id of cN for lacq.path (18 R339); none: tag clear
  arrived : Option Nat := none          -- home tick of arrival
  order   : Nat := 0                    -- order of arrival (08 R191)
  held    : Bool := false               -- held over to stage 5 (08 R192)
  parked  : Bool := false               -- llk waiting for the lock
  lock    : Nat := 0                    -- lease number of the lock
  ranges  : List (Nat × Nat) := []      -- guarded ranges of the descriptor
  bad     : Bool := false               -- the descriptor is malformed
  answer  : Option Word := none         -- handle, status or figure
  fault   : Option Byte := none         -- refusal of renew
  granted : Option Nat := none          -- lease granted by the answer
  deriving DecidableEq, Repr

/-- A budx or bget on its way to its Prompter (04 R90-R91). -/
structure BudgetReq where
  ctx    : Nat := 0
  budx   : Bool := true
  k      : BitVec 2 := 0
  units  : Word := 0
  num    : Nat := 0
  xd     : BitVec 5 := 0
  answer : Option Word := none
  deriving DecidableEq, Repr

/-- What an accepted engine operation does (07 R161-R172). Scratchpad places are raw offsets. -/
inductive EngKind where
  | mma (tile aoff soff ka kb : Nat)
  | mzero (tile : Nat)
  | mlda (tile off : Nat)
  | msta (tile off : Nat)
  | swapLoad                              -- the swap that mldb owns
  | swapRot                               -- the swap that mrot owns
  | qcvt (src dst scl elems k : Nat) (rtz : Bool) (shape : Nat)
  | qchkw (pl scl elems shape : Nat)
  deriving DecidableEq, Repr

/-- An accepted engine operation in a queue (07 R158-R160). -/
structure EngOp where
  kind    : EngKind
  ctx     : Nat := 0                    -- issuing context; for a matrix command the sender
  entry   : Option Nat := none          -- the queue entry charged
  part    : Nat := 0
  num     : Nat := 0                    -- acceptance order in the cell
  reads   : List (Nat × Nat) := []      -- (offset, length)
  writes  : List (Nat × Nat) := []
  cycles  : Nat := 0
  endAt   : Option Nat := none          -- set when it starts
  sent    : Bool := false               -- swapRot: its send has ended
  command : Option Msg := none          -- matrix command with ntf
  local_  : Bool := true                -- flags go to the context
  poisonF : Bool := false
  deriving DecidableEq, Repr

/-- A copy request as its mailbox holds it (07 R175-R176). -/
structure CopyReq where
  id    : Nat := 0
  ctx   : Nat := 0
  entry : Option Nat := none
  part  : Nat := 0
  sid   : BitVec 16 := 0
  kind  : Nat := 0                      -- 0 cpy, 1 cpg, 2 cps, 3 cpr
  tag   : Word := 0
  src   : Word := 0
  dst   : Word := 0
  len   : Nat := 0
  rows  : Nat := 0
  sstr  : Word := 0
  dstr  : Word := 0
  bar   : Word := 0
  ctl   : Word := 0
  scap  : Option Capa := none
  dcap  : Option Capa := none
  num   : Nat := 0                      -- acceptance order in the cell, shared with engine work
  stamp : Option Word := none           -- of a deferred copy (13 R277)
  deriving DecidableEq, Repr

/-- A running copy (07 R177, 10 R222-R224). Steps are numbered row by row; a `cpr` numbers the elements of step k
from 256 · k, and reads the steps of a chunk before it applies any of them. -/
structure CopyRun where
  req      : CopyReq
  mailbox  : Nat := 0
  idx      : List Nat := []             -- index array, read at the start
  started  : Bool := false
  pass     : Nat := 1
  next     : Nat := 0                   -- next step of the pass
  flying   : Table (List Byte) := []    -- steps that left the copy port and have not landed or failed
  left     : Table Nat := []            -- those steps' places in the order in which requests left their cells (08 R199)
  sent     : Table Nat := []            -- steps whose bytes are asked of, or sent to, a peer, or elements sent to one: the packet (14 R291)
  arrived  : NSet := []                 -- steps of the pass that have reached their home
  held     : List (Nat × Nat × List Byte) := [] -- step, address and bytes of a granule that other steps are still to complete (10 R223, R225)
  reported : NSet := []                 -- steps that have reported bytes
  landed   : Nat := 0                   -- bytes landed in this pass
  streamed : Nat := 0                   -- bytes streamed in this pass
  failed   : Option (Byte × Word) := none
  resumeAt : Option Nat := none         -- when the replay begins
  done     : Bool := false              -- the fourth pass has failed and ended, or the start check failed
  staged   : Table (List Byte) := []    -- cpr: the bytes of the chunk's steps that have been read
  applying : Bool := false              -- cpr: the chunk has been read, and its elements are applied
  chunk    : Nat := 0                   -- cpr: first step of the chunk
  acked    : NSet := []                 -- cpr: elements acknowledged
  turned   : NSet := []                 -- cpr: elements refused in this pass
  flags    : BitVec 5 := 0
  deriving DecidableEq, Repr

/-! ## Optimistic state -/

/-- A message key (13 R264). -/
structure Key where
  vrt   : Nat := 0
  scell : Nat := 0
  seq   : BitVec 32 := 0
  deriving DecidableEq, Repr

/-- A deferred action (13 R265-R266): the ord it was issued with, and the view of a store to the scratchpad. -/
inductive Deferred where
  | op (ord : BitVec 2) (view : Nat) (p : Packet)
  | vsct (ord : BitVec 2) (lanes : List (Nat × Packet))
  | snd (cell : Nat) (msg : Msg) (cap : Option Capa)
  | copy (mailbox : Nat) (req : CopyReq)
  deriving DecidableEq, Repr

/-- An entry of a prompt book record (13 R266). -/
inductive BookEntry where
  | ckpt (off : Nat) (saved : Bank) (n : Nat)
  | sent (cell : Nat) (msg : Msg)
  | deferred (d : Deferred)
  | performed (n : Nat)                 -- a deferred entry of n bytes that has been performed
  deriving DecidableEq, Repr

/-- A record of the prompt book: an event's (13 R266) or a between-events record (13 R380, `event` false). -/
structure Record where
  event   : Bool := true
  pos     : Nat := 0                    -- ring offset of its first byte
  stamp   : Word := 0
  pc      : Word := 0
  xs      : Table Word := []
  ps      : Table Word := []
  olvt    : BitVec 48 := 0
  key     : Key := {}
  q       : Queued := {}
  ord     : Nat := 0
  entries : List BookEntry := []
  units   : Nat := 0                    -- issues charged since its rcv (13 R271)
  undone  : Bool := false
  deriving DecidableEq, Repr

/-- A context's optimistic state while it is a member (13 R261-R270). -/
structure Member where
  group   : Nat := 0
  inEvent : Bool := false
  pbase   : Nat := 0                    -- raw scratchpad offset of the prompt book
  size    : Nat := 0                    -- bytes
  tail    : Nat := 0                    -- ring offset of the next record
  rbh     : Word := 0
  records : List Record := []           -- oldest first
  lastKey : Option Key := none
  lapsedKey : Option Key := none        -- key of the latest event whose record has lapsed
  target  : Option Key := none          -- key of the first event to undo
  antiHit : List Key := []              -- events whose anti-message caused the rollback
  handler : Bool := false
  handlerVrt : Nat := 0
  rolling : Bool := false               -- a rollback sequence has begun; what it still has to do (13 R269, R270):
  undoAreas : List BookEntry := []      -- saved areas to write back
  undoFrom : Word := 0                  -- stamp of the first event undone
  unversion : List Nat := []            -- words whose versions from that stamp on are to be discarded
  requeue : List Queued := []           -- messages to requeue
  pendAnti : List (Nat × Msg) := []     -- anti-messages to send
  nEvents : Nat := 0
  nAnti   : Nat := 0
  deriving DecidableEq, Repr

/-! ## Thread contexts -/

/-- Slot states that a context can be in (01 R9); a slot without a context is EMPTY. -/
inductive SlotSt where
  | ready
  | stalled
  | parked
  | halted
  | switching
  deriving DecidableEq, Repr

/-- Where a context is (16 R318, 05 R131). -/
inductive Place where
  | slot
  | understudy
  | saveArea
  | pantry (core : Nat)
  deriving DecidableEq, Repr

/-- What a stalled or parked slot waits for. -/
inductive Wait where
  | none
  | again                                 -- a condition the instruction itself tests again each cycle
  | tile (t : Nat)                        -- a load in a locked tile: it reissues once the lock clears (01 R23)
  | tick (t : Nat)                        -- idle (04 R84)
  | fe (l : Loc) (full : Bool)            -- take and give (05 R97)
  | version (l : Loc) (eq : Bool) (v : Word) -- ldv (05 R99)
  | phase (l : Loc) (ph : Nat)            -- barrier waits (05 R112)
  | msg (mask : Word)                     -- wmsg (07 R183)
  | backoff (at_ : Nat) (gap : Nat)       -- a full wait list (05 R97)
  | access (pkt : Nat)
  | lease (req : Nat)
  | budget (req : Nat)
  | load (endAt : Nat)                    -- the 80-cycle load of mldb (07 R166)
  | guest                                 -- go: the thread is at a pantry core (05 R131)
  deriving DecidableEq, Repr

/-- The trap CSRs of one level (17 R327). -/
structure TrapRegs where
  epc   : Word := 0
  pl    : BitVec 2 := 0
  cause : BitVec 13 := 0
  word  : IWord := 0
  addr  : Word := 0
  tvec  : Word := 0
  deriving DecidableEq, Repr

/-- The engine registers of a context (07 R156). -/
structure EngineRegs where
  kpa : BitVec 3 := 0
  kpb : BitVec 3 := 0
  chk : BitVec 2 := 0
  vsb : BitVec 20 := 0
  qcf : BitVec 6 := 0
  qsc : BitVec 20 := 0
  qn  : BitVec 10 := 0
  deriving DecidableEq, Repr

/-- A dropped store or posted operation that a later instruction may cover (05 R96, R377).
`cls` is its posted class 0-3, or 4 for a store that is not posted. -/
structure Drop where
  code : Byte
  addr : Word
  cls  : Nat
  deriving DecidableEq, Repr

/-- A thread context: its registers (01 R15-R17, 04 R77, 07 R155) and its hidden state (16 R318). -/
structure Ctx where
  cell    : Nat := 0
  slot    : Nat := 0
  place   : Place := .slot
  sst     : SlotSt := .ready
  wait    : Wait := .none
  charged : Bool := false               -- the instruction in flight has been charged
  word    : IWord := 0                  -- the word issued last, for trap records
  lastIssue : Option Nat := none
  readySince : Nat := 0
  shown   : SlotSt := .ready           -- the slot's state until `readySince`, where that lies ahead (01 R9)
  lastTry : Nat := 0
  gap     : Nat := 8                    -- cycles to the next issue: 8, or 16 after yield (04 R83)
  vacating : Option Nat := none         -- a pre-emption request for this entry stopped the slot (16 R320)
  switchEnd : Option Nat := none        -- cycle at which SWITCHING ends (16 R320)
  restoring : Bool := false             -- SWITCHING for a restore (16 R320, R324)
  savedHalted : Bool := false
  poisoned : NSet := []                 -- poisoned doublewords of its image, 0-255: a trap at its first issue (20 R359, R361)
  badRegs : NSet := []                  -- poisoned doublewords of registers: x 0-31, p 48-55, engine 64-70, v 128 + 8r + k, c 256 + 2r + k (20 R359, R361)
  entry   : Option Nat := none
  part    : Nat := 0
  sid     : BitVec 16 := 0
  tix     : Nat := 0
  tag     : BitVec 16 := 0
  x       : Table Word := []
  v       : Table VWord := []
  p       : Table Word := []
  c       : Table Capa := []
  pc      : Word := 0
  pl      : BitVec 2 := 0
  opt     : Bool := false
  ap      : Bool := false
  rbp     : Bool := false
  bp      : Bool := false
  fflags  : BitVec 5 := 0
  mfl     : BitVec 5 := 0
  pst0    : BitVec 32 := 0
  pst1    : BitVec 32 := 0
  pst2    : BitVec 32 := 0
  ownPosted : Nat := 0
  lvt     : BitVec 48 := 0
  gvt     : BitVec 48 := 0
  svt     : BitVec 48 := 0
  dl      : Word := 0
  bud     : Word := 0
  t1      : TrapRegs := {}
  t2      : TrapRegs := {}
  me      : EngineRegs := {}
  leaseNum : Nat := 0
  budxNum : Nat := 0
  budxKept : Option (Nat × Word) := none
  vsctDone : Table Nat := []            -- lanes that a strong vsct has performed, by its address (06 R152)
  acqMark : Nat := 0
  drops   : List Drop := []
  member  : Option Member := none
  grpLapsed : Bool := false             -- takes the LAPSED trap of R278 at its next issue
  copies  : Nat := 0                    -- copies requested and not retired (07 R179)
  deriving DecidableEq, Repr

/-! ## Cells -/

/-- A send between latches under way (12 R256). -/
structure Send where
  dest  : Nat := 0
  endAt : Nat := 0
  deriving DecidableEq, Repr

/-- The back buffer of the ring latch (07 R156). -/
inductive KSt where
  | free
  | filling
  | loaded
  deriving DecidableEq, Repr

/-- The ring operand latch: 5,120 bytes of planes and scales in each buffer (07 R164-R167). -/
structure Latch where
  f     : Memory := []
  fBad  : Bool := false
  k     : Memory := []
  kBad  : Bool := false
  kst   : KSt := .free
  send  : Option Send := none
  busyUntil : Nat := 0
  loadBy : Option Nat := none           -- the context whose mldb load is under way
  deriving DecidableEq, Repr

/-- A cell's part in one optimistic group (13 R274). -/
structure GCell where
  inMask : Bool := false
  colour : Bool := false
  cnt0   : BitVec 32 := 0
  cnt1   : BitVec 32 := 0
  redMin : Nat := 0xFFFFFFFFFFFF
  gvt    : Nat := 0
  pub    : Option Nat := none           -- a publication being applied (13 R276-R277)
  busy   : Option Nat := none           -- the packet of a deferred entry whose acknowledgement is outstanding
  deriving DecidableEq, Repr

/-- A range of the guard table (10 R217). -/
structure Guard where
  sid   : BitVec 16 := 0
  part  : Nat := 0
  base  : Nat := 0
  len   : Nat := 0
  lease : Nat := 0
  held  : Bool := true
  deriving DecidableEq, Repr

/-- A cell's unsent charge count for one entry (16 R312). -/
structure Unsent where
  units : Nat := 0
  rolled : Nat := 0                     -- units that count as rolled back (13 R271)
  since : Nat := 0
  deriving DecidableEq, Repr

/-- A cell (01). -/
structure Cell where
  rot     : Bool := true                -- cctl.rot: true SHARED
  mode    : Bool := true                -- the mode in use
  rotp    : Bool := false
  rotAt   : Nat := 0                    -- first cycle at which the change may take effect
  spsz    : BitVec 2 := 0
  spx     : Bool := false
  sprf    : Bool := false
  spxEnd  : Nat := 0
  lastIssuer : Nat := 15
  issued  : Table Nat := []             -- cycle of each slot's last issue (R8)
  emptying : Table (Nat × Nat) := []    -- slots that have lost their context: the first cycle as EMPTY, the code before it (R9)
  spad    : Bank := {}
  tiles   : Table (BitVec 32) := []     -- element (i, j) of aN at N·8192 + i·128 + j
  tilePoison : NSet := []               -- poisoned element pairs (20 R359)
  latch   : Latch := {}
  mq      : List EngOp := []            -- oldest first; the head is the one that runs
  cq      : List EngOp := []
  accNum  : Nat := 0                    -- acceptance counter
  mboxes  : Table CopyReq := []
  runs    : List CopyRun := []
  rr      : Nat := 0                    -- next mailbox in round-robin order
  stageIssue : Nat := 0                 -- the Stagehand's next eligible cycle
  stageLast : Nat := 7                  -- the mailbox of the copy that took the last step
  stageReady : Nat := 0                 -- cycle at which copy work came to an idle Stagehand
  l1      : Table L1Line := []
  guards  : List Guard := []
  queue   : List Queued := []           -- in arrival order
  gstore  : List Flight := []           -- generated-message store (09 R378)
  taken   : List (Nat × BitVec 32) := [] -- source cell and sequence number of member messages that slots outside the group took (13 R273)
  seq     : BitVec 32 := 0
  groups  : Table GCell := []
  unsent  : Table Unsent := []
  disc    : BitVec 32 := 0
  aband   : BitVec 16 := 0
  cfail   : BitVec 16 := 0
  understudy : List Nat := []           -- contexts, oldest image first
  deriving DecidableEq, Repr

/-! ## Leases -/

/-- Lease states (08 R194). -/
inductive LeaseSt where
  | granted
  | held
  | lapsing
  | scrubbing
  | lapsed
  deriving DecidableEq, Repr

/-- The object of a lease, by kind (05 R115, 18 R344). Memory objects name their space id (17 R333). -/
inductive LeaseObj where
  | context (entry : Nat)
  | sp (cell base count : Nat)          -- granules of 4 KiB
  | acc (cell tile : Nat)
  | cls (cell k slot ctx : Nat)         -- class k, the slot it names and the context bound there
  | l2 (space va units prio : Nat)
  | page (space va : Nat) (big ver : Bool)
  | lock (space va : Nat)
  | path (dom id bw : Nat)
  | group (n : Nat)
  | root (part : Nat)
  | ring (part r : Nat)
  | slice (part s : Nat)
  | chan (part g kslot : Nat) (enc : Bool)
  | share (part dom gbps : Nat)
  | key (part k : Nat)
  | delivery (endId : Nat)
  deriving DecidableEq, Repr

/-- The last holder of a lock (08 R201). -/
structure Holder where
  ctx    : Nat := 0
  cell   : Nat := 0
  sid    : BitVec 16 := 0
  ranges : List (Nat × Nat) := []
  deriving DecidableEq, Repr

/-- A lease entry at its home. Kinds 0x0A and 0x0B have one entry for each of the four copies (08 R198). -/
structure Lease where
  home    : Nat := 0
  index   : Nat := 0
  obj     : LeaseObj := .root 0
  gen     : BitVec 24 := 0
  count   : Nat := 0                    -- grants of the object so far; gen is this modulo 2^24 (08 R196)
  st      : LeaseSt := .lapsed
  expiry  : Nat := 0
  parent  : Option Nat := none
  pop     : Option Nat := none          -- holding population (queue entry)
  part    : Nat := 0
  order   : Nat := 0                    -- order of grants (10 R219)
  pinned  : Bool := true                -- residency not demoted (10 R219); slice or group member: in S or G since a quiesce point (17 R334)
  holder  : Option Holder := none       -- the context that holds it; lock: with its guarded ranges
  last    : Option Holder := none       -- lock: last holder
  draining : Option Nat := none         -- lock: the request that a grant under way serves
  drained : Bool := false               -- lock: the drain of that grant has finished (05 R126)
  since   : Nat := 0                    -- path: the first packet number that LAPSING does not finish (08 R199)
  deriving DecidableEq, Repr

/-- A lapse notice on its way (08 R196-R197). -/
structure Notice where
  lease   : Nat := 0
  gen     : BitVec 24 := 0
  arrived : Bool := false
  order   : Nat := 0                    -- order of arrival
  guard   : Option (Nat × Nat) := none  -- a guard notice: the cell, and the lock lease (10 R217)
  deriving DecidableEq, Repr

/-- A renewal on its way to one copy of a replicated lease, or arrived and not yet applied (08 R198). -/
structure Extension where
  lease : Nat := 0
  gen   : BitVec 24 := 0
  life  : Nat := 0
  order : Nat := 0                      -- order of arrival
  port  : Option Nat := none            -- the Prompter whose command port asked (18 R345)
  deriving DecidableEq, Repr

/-- A scrub job (19 R350): what it clears, on which die, for whom, and when it completes. -/
structure Job where
  lease  : Option Nat := none
  die    : Nat := 0
  part   : Option Nat := none
  frames : List Nat := []               -- 64 KiB frames of the die
  cell   : Option Nat := none
  book   : Option (Nat × Nat × Nat) := none -- a prompt book: cell, raw offset, bytes
  areas  : List Nat := []                -- partition addresses of save-area images
  group  : Option Nat := none           -- a channel group of the die whose every frame is cleared (19 R357)
  bytes  : Nat := 0
  row    : Nat := 0                     -- the shared resource: a cell, a slice (1024 + number), the DRAM unit (4096), the cache sweep (4097), a cell's tiles (8192 + cell), a ring member's cell (16384 + cell)
  since  : Nat := 0                     -- the cycle in which it was taken, when `endAt` is set
  endAt  : Option Nat := none           -- the first cycle that finds it complete (19 R351); none: not yet taken
  deriving DecidableEq, Repr

/-! ## Translation, dies, partitions, entries -/

/-- A translation entry (17 R335). -/
structure Page where
  part  : Nat := 0
  sid   : BitVec 16 := 0
  va    : Nat := 0
  big   : Bool := false
  ver   : Bool := false
  dom   : Nat := 0
  cg    : Nat := 0
  die   : Nat := 0
  frame : Nat := 0
  lease : Nat := 0
  second : Bool := false                -- a second mapping made by firmware (17 R336)
  deriving DecidableEq, Repr

/-- A live version of a word (05 R99, 13 R268). -/
structure Version where
  num    : Word := 0
  val    : Word := 0
  writer : Option Nat := none
  bad    : Bool := false                -- poison mark (20 R359)
  deriving DecidableEq, Repr

/-- A charge on its way or arrived (16 R312): units, and units that count as rolled back (13 R271). -/
structure Charge where
  entry  : Nat := 0
  units  : Nat := 0
  rolled : Nat := 0
  cell   : Nat := 0
  deriving DecidableEq, Repr

/-- A die. -/
structure Die where
  cyc     : Nat := 0
  dram    : Bank := {}                  -- by physical address
  written : NSet := []                  -- 128-byte lines whose zero mark is clear (19 R352)
  cipher  : Table (BitVec 512) := []    -- the XTS key bits under which a line lies in DRAM; unlisted: in the clear (18 R346)
  owned   : NSet := []                  -- frames whose owned mark is set
  clean   : NSet := []                  -- channel groups whose every frame has been scrubbed since power-on (19 R357)
  l2      : Table L2Line := []          -- by physical line address
  tvec2   : Word := 0
  ptarg   : Word := 0
  ptkey   : Table Word := []
  ptcode  : Byte := 0
  ptbusy  : Bool := false
  rtbusy  : Bool := false
  rtcode  : BitVec 3 := 0
  rtEnd   : Nat := 0
  rowMap  : List (Nat × Nat × Nat) := []  -- retired rows: channel, bank, row
  ringMap : List Nat := []              -- rings mapped to their domain's spare
  sce     : BitVec 16 := 0
  sue     : BitVec 16 := 0
  dce     : BitVec 16 := 0
  due     : BitVec 16 := 0
  errloc  : Word := 0
  charges : List Charge := []           -- arrived and not yet applied
  guests  : List (Nat × Nat) := []      -- pantry guest slots: core, context or packet
  coreIssued : Table Nat := []          -- cycle of each pantry core's last issue (14 R289)
  stepped : Option Nat := none          -- the tick whose tick step has run (08 R191)
  admitted : Nat := 0                   -- admission sequence
  tested  : Option Nat := none          -- cycle of the Prompter's last test (16 R312)
  deriving DecidableEq, Repr

/-- Budget states of an entry (16 R314). -/
inductive BudgetSt where
  | funded
  | overrun
  | spent
  deriving DecidableEq, Repr

/-- An admitted queue entry (15 R297-R309, 16 R311-R317). -/
structure Entry where
  part    : Nat := 0
  die     : Nat := 0
  q       : Nat := 0
  pl      : BitVec 2 := 0
  bg      : Bool := false
  tag     : BitVec 16 := 0
  pc      : Word := 0
  cells   : List Nat := []
  seeds   : List (Nat × Word) := []
  lla     : Nat := 0
  llc     : Nat := 0
  dlc     : Nat := 0
  dline   : Nat := 0
  life    : Nat := 0
  remain  : Int := 0
  total   : Nat := 0
  rolled  : Nat := 0
  bst     : BudgetSt := .funded
  grace   : Nat := 0
  demoted : Bool := false
  order   : Nat := 0                    -- admission sequence
  lease   : Nat := 0
  placed  : List Nat := []
  heldBack : List (Nat × Bool) := []    -- cells held back; true: for scratchpad data (15 R307)
  refreshed : Table Nat := []           -- cycle of the last refresh of each cell (16 R313)
  ended   : Bool := false
  deriving DecidableEq, Repr

/-- A partition's registers of one die (15 R296, 16 R319). -/
structure PartDie where
  qbase  : Nat := 0
  qtail  : BitVec 9 := 0
  qhead  : BitVec 9 := 0
  ovf    : Bool := false
  share  : Nat := 0
  lf     : Nat := 0
  slotcap : Nat := 0
  sabase : Nat := 0
  sasize : Nat := 0
  safl   : Bool := false
  saved  : List (Nat × Nat) := []       -- contexts whose images lie in the save area and their places, oldest first
  saStop : Bool := false                -- no eviction until sabase is written
  deriving DecidableEq, Repr

/-- A partition: its BAR 2 registers and its keys (15-19). -/
structure Part where
  dies   : Table PartDie := []
  fqbase : Nat := 0
  fqlg   : Nat := 0
  fqtail : Nat := 0
  fqhead : Nat := 0
  fqlost : BitVec 32 := 0
  ptvec  : Word := 0
  hwbase : Nat := 0
  hwlen  : Nat := 0
  moves  : List (Nat × Nat) := []       -- region, target domain
  quiescing : Bool := false             -- between steps 2 and 5 of a quiesce point (17 R337)
  heldHost : List (Word × OutsideOp) := [] -- host accesses held there, oldest first
  moveFull : Bool := false
  moveRefd : Bool := false
  keys   : Table (BitVec 512) := []     -- key bits by die · 16 + slot (18 R344; 19 R353)
  regions : Table Nat := []             -- region map: home domain by region number (17 R334)
  flr    : Option (List Nat) := none    -- held in reset until these jobs complete (19 R356)
  vectors : List Nat := []              -- MSI-X vectors signalled, latest first
  deriving DecidableEq, Repr

/-- A report on its way to the fault writer (17 R331). -/
structure Report where
  part : Nat := 0
  d0   : Word := 0
  addr : Word := 0
  info : Word := 0
  payload : Option Msg := none
  deriving DecidableEq, Repr

/-- Phases of a GVT controller (13 R275). -/
inductive GPhase where
  | idle
  | cutting                             -- CUT sent; cells answer as they receive it
  | reporting                           -- REPORT sent
  | retry (at_ : Nat)
  | wait (at_ : Nat)
  deriving DecidableEq, Repr

/-- A cell's answer to REPORT. -/
structure GAnswer where
  cell : Nat
  d    : BitVec 32
  l    : Nat
  m    : Nat
  deriving DecidableEq, Repr

/-- An optimistic group's controller (13 R261, R275). -/
structure Group where
  lease   : Nat := 0
  die     : Nat := 0
  round   : Nat := 0
  phase   : GPhase := .idle
  cut     : List Nat := []              -- cells still to be cut
  answers : List GAnswer := []
  gvt     : Nat := 0
  pubTo   : List Nat := []              -- cells still to receive the publication
  deriving DecidableEq, Repr

/-- What the module last answered to the host, firmware or the sideband. -/
inductive HostOut where
  | none
  | value (v : Word)
  | byte (b : Byte)
  | bytes (l : List Byte)
  | retryStatus                          -- Configuration Request Retry Status
  | noLink
  | config (fn : Nat)
  | nack
  | refused (code : Byte)
  | attestation (dig : BitVec 256) (svn : BitVec 32) (ident : BitVec 256) (nonce : BitVec 256) (bstat : List Word) (sig : BitVec 512)
  deriving DecidableEq, Repr

/-- One end of a delivery context, at its port's egress switch (14 R291-R293). -/
structure DEnd where
  sender  : Bool := true
  peer    : Nat := 0
  num     : Nat := 0
  seq     : Nat := 0                    -- next sequence number
  die     : Nat := 0
  lastAt  : Nat := 0                    -- tick of the last packet
  unanswered : Table (Nat × Nat × Nat) := []  -- sequence: packet, tries, tick of the last sending
  cache   : Table HostOut := []         -- replies by sequence number
  kept    : List PeerFrame := []        -- frames kept until the gap fills
  deriving DecidableEq, Repr

/-- A flash image slot (21 R368). -/
structure FlashSlot where
  magic : BitVec 32 := 0
  len   : Nat := 0
  svn   : BitVec 32 := 0
  dig   : BitVec 256 := 0
  sig   : BitVec 512 := 0
  image : List Byte := []
  deriving DecidableEq, Repr

/-- Who moves next, when it is not the machine's own order: an event, or the issue of a context. -/
inductive Move where
  | event (i : Instr)
  | issue (ctx : Nat)
  deriving DecidableEq, Repr

/-- The module. -/
structure State where
  powered : Bool := true
  cur     : Nat := 0                    -- the context that acts
  sched   : List Move := []             -- who moves next; empty: the machine's own order
  holds   : List Bool := []             -- true: the next request stays in flight
  stamp   : Nat := 1                    -- numbers of fills and acquires (11 R233)
  free    : Nat := 0                    -- the next free value
  ctxs    : Table Ctx := []
  cells   : Table Cell := []
  dies    : Table Die := []
  parts   : Table Part := []
  leases  : Table Lease := []
  entries : Table Entry := []
  groups  : Table Group := []
  pages   : List Page := []
  versions : Table (List Version) := []  -- by space id · 2^48 + address of the word
  waiters : List (Nat × Loc) := []      -- parked requests in order of arrival: context, word
  lreqs   : Table LeaseReq := []
  kept    : List (Nat × Nat × Word × Option Nat) := [] -- lease answers kept: context, number, answer, lease
  breqs   : Table BudgetReq := []
  notices : Table Notice := []
  extensions : List Extension := []
  jobs    : Table Job := []
  packets : Table Packet := []
  flights : Table Flight := []
  reports : Table Report := []
  refreshes : List (Nat × Nat × Word × Word) := [] -- cell, entry, bud, dl on their way
  ends    : Table DEnd := []
  grants  : Nat := 0                    -- counts grants
  fresh   : Nat := 1                    -- next identity of a context, packet, request or copy
  stage   : BitVec 3 := 0
  fail    : BitVec 3 := 7
  img     : Bool := false
  pcw     : BitVec 5 := 0
  pcr     : BitVec 3 := 0
  cxl     : Bool := false
  pup     : BitVec 8 := 0
  rdy     : Bool := false
  resets  : Byte := 0
  slotA   : FlashSlot := {}
  slotB   : FlashSlot := {}
  rollback : BitVec 32 := 0             -- fused rollback count
  failedGroups : List Nat := []         -- channel groups that failed calibration
  retryAt : Nat := 0                    -- tick of D0 at which PCIe training runs again, or ports that are down time out (21 R367)
  house   : Byte := 0                   -- house cores that run, two bits for each die (00 R1; 21 R367)
  hostOut : HostOut := .none
  deriving DecidableEq, Repr

/-- The module right after reset: every unit in its reset state, boot stage 0 (21 R367), nothing on its
way. Fields the spec gives no reset value are named in notes/assumptions. -/
def State.reset : State := {}

end Sys2Proof.Machine
end

