-- ==== Sys2Proof/Machine/Ops.lean ====
section
/-! DEFINITION. The named operations over registers and units that every meaning uses: reading and writing the
registers of the acting context, completing or suspending an instruction, charging, reporting, taking a trap and
returning from one. -/

namespace Sys2Proof.Machine

/-! ## Units by number -/

def State.ctx (s : State) (i : Nat) : Ctx := tget {} s.ctxs i
def State.setCtx (s : State) (i : Nat) (c : Ctx) : State := { s with ctxs := tset s.ctxs i c }
def State.modCtx (s : State) (i : Nat) (f : Ctx → Ctx) : State := s.setCtx i (f (s.ctx i))

/-- The acting context. -/
def State.self (s : State) : Ctx := s.ctx s.cur

/-- The word that the acting context issued. -/
def State.word (s : State) : IWord := s.self.word

/-- Change the acting context. -/
def State.mod (s : State) (f : Ctx → Ctx) : State := s.modCtx s.cur f

def State.cell (s : State) (n : Nat) : Cell := tget {} s.cells n
def State.modCell (s : State) (n : Nat) (f : Cell → Cell) : State := { s with cells := tset s.cells n (f (s.cell n)) }
def State.die (s : State) (n : Nat) : Die := tget {} s.dies n
def State.modDie (s : State) (n : Nat) (f : Die → Die) : State := { s with dies := tset s.dies n (f (s.die n)) }
def State.part (s : State) (n : Nat) : Part := tget {} s.parts n
def State.modPart (s : State) (n : Nat) (f : Part → Part) : State := { s with parts := tset s.parts n (f (s.part n)) }
def State.pdie (s : State) (p d : Nat) : PartDie := tget {} (s.part p).dies d
def State.modPdie (s : State) (p d : Nat) (f : PartDie → PartDie) : State :=
  s.modPart p fun q => { q with dies := tset q.dies d (f (tget {} q.dies d)) }
def State.modLease (s : State) (n : Nat) (f : Lease → Lease) : State :=
  match tfind s.leases n with
  | some l => { s with leases := tset s.leases n (f l) }
  | none => s
def State.modEntry (s : State) (n : Nat) (f : Entry → Entry) : State :=
  match tfind s.entries n with
  | some e => { s with entries := tset s.entries n (f e) }
  | none => s
def State.modGroup (s : State) (n : Nat) (f : Group → Group) : State :=
  match tfind s.groups n with
  | some g => { s with groups := tset s.groups n (f g) }
  | none => s

/-- A fresh identity for a context, request, packet or copy. -/
def State.takeFresh (s : State) : Nat × State := (s.fresh, { s with fresh := s.fresh + 1 })

/-! ## Places and time (00 R1, R2; 01 R19) -/

/-- The die of a cell. Numbers from 512 on stand for the pantry cores in a charge (16 R312): 512 + die · 16 + group. -/
def dieOfCell (cell : Nat) : Nat := if cell < 512 then cell / 128 else (cell - 512) / 16
def domOfCell (cell : Nat) : Nat := cell / 64
def dieOfDom (dom : Nat) : Nat := dom / 2
def ringOfCell (cell : Nat) : Nat := cell / 8
def State.cyc (s : State) (die : Nat) : Nat := (s.die die).cyc
/-- `ref` of a die: cyc >> 5 (R19). -/
def State.ref (s : State) (die : Nat) : Nat := s.cyc die / 32
/-- The cycle of the acting context's die. -/
def State.now (s : State) : Nat := s.cyc (dieOfCell s.self.cell)
def State.tick (s : State) : Nat := s.ref (dieOfCell s.self.cell)

/-! ## Registers of the acting context (01 R15) -/

/-- The doublewords of a register, as numbers in `Ctx.badRegs`: the registers are numbered x 0-31, v 32-47, p 48-55, c 56-63, engine
64-70; a v register has eight and a c register two (20 R359). -/
def regWords (r : Nat) : List Nat :=
  if 32 ≤ r ∧ r < 48 then (List.range 8).map fun k => 128 + 8 * (r - 32) + k
  else if 56 ≤ r ∧ r < 64 then [256 + 2 * (r - 56), 257 + 2 * (r - 56)]
  else [r]

/-- A whole write of a register clears the marks of its doublewords (20 R361). -/
def Ctx.clean (c : Ctx) (r : Nat) : NSet := (regWords r).foldl ndel c.badRegs

def Ctx.x? (c : Ctx) (r : Nat) : Word := if r = 0 then 0 else tget 0 c.x r
def Ctx.setX (c : Ctx) (r : Nat) (v : Word) : Ctx :=
  if r = 0 then c else { c with x := tset c.x r v, badRegs := ndel c.badRegs r }
def Ctx.v? (c : Ctx) (r : Nat) : VWord := tget 0 c.v r
def Ctx.setV (c : Ctx) (r : Nat) (v : VWord) : Ctx := { c with v := tset c.v r v, badRegs := c.clean (32 + r) }
/-- p0 reads as all ones (R15). -/
def Ctx.p? (c : Ctx) (r : Nat) : Word := if r = 0 then BitVec.allOnes 64 else tget 0 c.p r
def Ctx.setP (c : Ctx) (r : Nat) (v : Word) : Ctx :=
  if r = 0 then c else { c with p := tset c.p r v, badRegs := ndel c.badRegs (48 + r) }
def Ctx.c? (c : Ctx) (r : Nat) : Capa := tget {} c.c r
def Ctx.setC (c : Ctx) (r : Nat) (v : Capa) : Ctx := { c with c := tset c.c r v, badRegs := c.clean (56 + r) }

def State.rx {n : Nat} (s : State) (r : BitVec n) : Word := s.self.x? r.toNat
/-- Write an x register: x0 discards it (R15). -/
def State.wx {n : Nat} (s : State) (r : BitVec n) (v : Word) : State := s.mod fun c => c.setX r.toNat v
def State.rv {n : Nat} (s : State) (r : BitVec n) : VWord := s.self.v? r.toNat
def State.wv {n : Nat} (s : State) (r : BitVec n) (v : VWord) : State := s.mod fun c => c.setV r.toNat v
def State.rp {n : Nat} (s : State) (r : BitVec n) : Word := s.self.p? r.toNat
/-- Write a p register: p0 discards it (R15). -/
def State.wp {n : Nat} (s : State) (r : BitVec n) (v : Word) : State := s.mod fun c => c.setP r.toNat v
def State.rc {n : Nat} (s : State) (r : BitVec n) : Capa := s.self.c? r.toNat
def State.wc {n : Nat} (s : State) (r : BitVec n) (v : Capa) : State := s.mod fun c => c.setC r.toNat v

/-- OR flags into `fflags` (02 R30, R31). -/
def State.orFlags (s : State) (f : FFlags) : State := s.mod fun c => { c with fflags := c.fflags ||| f }

/-! ## Completing and suspending -/

/-- The slot's instruction is no longer in flight (01 R8, R9). A parked slot is READY in the next cycle (09 R206); a stalled one
is READY in the cycle in which its stall ends (log 95: DESIGN CHOICE, R9 and R10 name no cycle). -/
def Ctx.settle (c : Ctx) (now : Nat) : Ctx :=
  { c with
    charged := false
    wait := .none
    shown := if c.sst = .parked then .parked else c.shown
    sst := if c.sst = .stalled ∨ c.sst = .parked then .ready else c.sst
    readySince := if c.sst = .stalled then now else if c.sst = .parked then now + 1 else c.readySince }

/-- Complete the instruction at the next word. -/
def State.finish (s : State) : State := s.mod fun c => { c.settle s.now with pc := c.pc + 4 }

/-- Complete the instruction at `t`. -/
def State.finishAt (s : State) (t : Word) : State := s.mod fun c => { c.settle s.now with pc := t }

/-- Leave the slot STALLED with its instruction in flight; it is tried again under `w` (04 R63, 05 R92). -/
def State.stall (s : State) (w : Wait) : State :=
  s.mod fun c => { c with sst := .stalled, wait := w, charged := true, lastTry := s.now }

/-- Leave the slot PARKED at a home (01 R9). -/
def State.park (s : State) (w : Wait) : State :=
  s.mod fun c => { c with sst := .parked, wait := w, charged := true, lastTry := s.now }

/-- Does the next request stay in flight? The tape of `holds` says so; an empty tape answers no (log 10). -/
def State.takeHold (s : State) : Bool × State :=
  match s.holds with
  | [] => (false, s)
  | b :: t => (b, { s with holds := t })

/-! ## Charges (16 R311-R312) -/

/-- Add units, and units that count as rolled back, to a cell's unsent count for an entry. -/
def State.chargeRolled (s : State) (cell : Nat) (entry : Option Nat) (units rolled : Nat) : State :=
  match entry with
  | none => s
  | some e =>
    let now := s.cyc (dieOfCell cell)
    s.modCell cell fun c =>
      let u := tget {} c.unsent e
      { c with
        unsent := tset c.unsent e
          { units := u.units + units, rolled := u.rolled + rolled, since := if u.units = 0 then now else u.since } }

/-- Add units to a cell's unsent count for an entry. -/
def State.chargeCell (s : State) (cell : Nat) (entry : Option Nat) (units : Nat) : State := s.chargeRolled cell entry units 0

/-- Count an issue of a slot in the record of its latest event (13 R271). -/
def countInLast (n : Nat) : List Record → List Record
  | [] => []
  | r :: t => if r.event && !r.undone then { r with units := r.units + n } :: t else r :: countInLast n t

def Ctx.countIssue (c : Ctx) (n : Nat) : Ctx :=
  match c.member with
  | some m => if m.handler then c else { c with member := some { m with records := (countInLast n m.records.reverse).reverse } }
  | none => c

/-- Send an entry's unsent count to its Prompter, where it arrives as a charge (R312). -/
def State.sendCharges (s : State) (cell entry : Nat) : State :=
  match tfind (s.cell cell).unsent entry, tfind s.entries entry with
  | some u, some e =>
    let s := s.modCell cell fun c => { c with unsent := tdel c.unsent entry }
    s.modDie e.die fun d => { d with charges := d.charges ++ [{ entry := entry, units := u.units, rolled := u.rolled, cell := cell }] }
  | _, _ => s

/-- Send units at once to the Prompter of an entry (16 R311: engine operations and copy passes). -/
def State.chargeNow (s : State) (cell : Nat) (entry : Option Nat) (units rolled : Nat) : State :=
  match entry with
  | none => s
  | some n =>
    match tfind s.entries n with
    | some e => s.modDie e.die fun d => { d with charges := d.charges ++ [⟨n, units, rolled, cell⟩] }
    | none => s

/-! ## Reports (17 R331, R343; 05 R96) -/

/-- The status word `1<<63 | code` (05 R92). -/
def status (code : Nat) : Word := (1#64 <<< 63) ||| BitVec.ofNat 64 code

/-- dword 0 of a fault queue entry (R331). -/
def reportHead (code : Byte) (prec : Bool) (src cell slot die : Nat) (cont : Bool) (tag : BitVec 16) : Word :=
  BitVec.ofNat 64 (code.toNat + (if prec then 0x100 else 0) + src * 0x200 + cell * 0x1000 + slot * 0x20_0000
    + die * 0x200_0000 + (if cont then 0x800_0000 else 0) + tag.toNat * 2 ^ 48)

/-- Send a report to the partition's fault writer (R332). -/
def State.report (s : State) (part : Nat) (d0 addr info : Word) (_die : Nat) (payload : Option Msg := none) : State :=
  let (n, s) := s.takeFresh
  let r : Report := { part := part, d0 := d0, addr := addr, info := info, payload := payload }
  { s with reports := tset s.reports n r }

/-- Report a context's fault (R331). -/
def State.reportCtx (s : State) (i : Nat) (code : Byte) (prec : Bool) (src : Nat) (addr info : Word) : State :=
  let c := s.ctx i
  let die := dieOfCell c.cell
  s.report c.part (reportHead code prec src c.cell c.slot die false c.tag) addr info die

/-! ## Generated messages and dropped stores (09 R205-R210, R378; 10 R215) -/

/-- Fault codes (17 R328). -/
def cILL : Byte := 0x01
def cPRIV : Byte := 0x02
def cALIGN : Byte := 0x03
def cXLATE : Byte := 0x04
def cCAPTAG : Byte := 0x05
def cCAPBND : Byte := 0x06
def cCAPPERM : Byte := 0x07
def cLAPSED : Byte := 0x08
def cGENMIS : Byte := 0x09
def cTRAILER : Byte := 0x0A
def cVFULL : Byte := 0x0B
def cBUDGET : Byte := 0x0C
def cPOISON : Byte := 0x0D
def cSTALE : Byte := 0x0E
def cBAROVER : Byte := 0x0F
def cQFULL : Byte := 0x10
def cBRK : Byte := 0x11
def cSWTRAP : Byte := 0x12
def cPLACE : Byte := 0x13

def Lease.alive (l : Lease) : Bool := l.st == .granted || l.st == .held

/-- A report of kind 3 or 4 made from a fault queue entry, in the context's cell (17 R331). -/
def reportMsg (c : Ctx) (cls kind : Nat) (seq : BitVec 32) (d0 addr info : Word) : Msg :=
  { hdr := BitVec.ofNat 64 (cls + kind * 16 + c.cell * 256 + c.cell * 0x2_0000 + c.slot * 0x400_0000 + seq.toNat * 2 ^ 32)
    d1 := addr, d2 := info, d3 := d0 }

/-- The binding of a class in a cell: the live lease and the bound context (09 R205). -/
def State.binding (s : State) (cell cls : Nat) : Option (Nat × Nat) :=
  s.leases.findSome? fun p =>
    match p.2.obj with
    | .cls c k _ x => if c = cell ∧ k = cls ∧ p.2.alive then some (p.1, x) else none
    | _ => none

/-- Queue entries in use: (reserved entry of the class taken, shared entries) (09 R207). -/
def Cell.reservedUsed (c : Cell) (cls : Nat) : Nat := (c.queue.filter fun q => q.cls = cls && q.reserved).length
def Cell.sharedUsed (c : Cell) : Nat := (c.queue.filter fun q => !q.reserved).length

/-- Which kind of entry a message of the class takes, if one is free (09 R207). -/
def Cell.room (c : Cell) (cls : Nat) : Option Bool :=
  if c.reservedUsed cls < 8 then some true else if c.sharedUsed < 384 then some false else none

/-- Wake a slot parked in a wmsg that selects the class (09 R206). -/
def State.wakeMsg (s : State) (ctx cls : Nat) : State :=
  let c := s.ctx ctx
  match c.wait with
  | .msg mask =>
    if mask.getLsbD cls then s.setCtx ctx { c with sst := .ready, shown := .parked, readySince := s.cyc (dieOfCell c.cell) + 1 } else s
  | _ => s

/-- Write a message that is not delivered into the partition's fault queue with its 32 bytes (09 R207). The entry names the
slot and tag of the context that the class is bound to, if there is one (17 R331). -/
def State.reportQFull (s : State) (part cell cls : Nat) (m : Msg) : State :=
  let (slot, tag) : Nat × BitVec 16 := match (s.binding cell cls).bind fun b => tfind s.ctxs b.2 with
    | some c => (c.slot, c.tag)
    | none => (0, 0)
  s.report part (reportHead cQFULL false 0 cell slot (dieOfCell cell) true tag) 0 m.hdr (dieOfCell cell) (some m)

/-- Does the context wait at its cell, so that its messages are delivered (09 R209)? -/
def Ctx.resident (c : Ctx) : Bool :=
  match c.place with
  | .slot => c.sst != .switching
  | _ => false

/-- Is a bound context resident (09 R209)? One that has ended is not. -/
def State.residentCtx (s : State) (x : Nat) : Bool :=
  match tfind s.ctxs x with
  | some c => c.resident
  | none => false

/-- Put a generated message into the queue of a class, or, for want of room, into the fault queue (09 R207). -/
def State.enqueueGen (s : State) (cell cls part : Nat) (m : Msg) : State :=
  match (s.cell cell).room cls with
  | some r => s.modCell cell fun c => { c with queue := c.queue ++ [{ msg := m, cls := cls, reserved := r }] }
  | none => s.reportQFull part cell cls m

/-- Deliver a message of kinds 2, 3, 4 or 6 that the cell generates, or that arrives from another cell's engine: into the
queue, into the generated-message store for a context that is not resident, or into the fault queue (09 R206-R208, R378). -/
def State.deliverGen (s : State) (cell cls part : Nat) (m : Msg) (pkt : Option Nat := none) : State :=
  match s.binding cell cls with
  | none => s.reportQFull part cell cls m
  | some (_, x) =>
    if s.residentCtx x then (s.enqueueGen cell cls part m).wakeMsg x cls
    else if (s.cell cell).gstore.length < 64 then
      s.modCell cell fun c => { c with gstore := c.gstore ++ [{ msg := m, cell := cell, from_ := cell, ctx := x, pkt := pkt }] }
    else s.reportQFull part cell cls m

/-- The stored messages of a context that is back at its cell enter the queue, in the order in which they were stored
(09 R210, R378). Those of a class that has meanwhile moved to another context stay in the store until that context next comes back, or
the binding lapses (log 96: DESIGN CHOICE, R205 and R378 do not say). -/
def State.deliverStore (s : State) (cell part x : Nat) : State :=
  let mine (f : Flight) : Bool := (s.binding cell (f.msg.hdr.toNat % 16)).map (·.2) = some x
  let l := (s.cell cell).gstore.filter mine
  if l.isEmpty then s
  else
    l.foldl (fun s f => s.enqueueGen cell (f.msg.hdr.toNat % 16) part f.msg)
      (s.modCell cell fun k => { k with gstore := k.gstore.filter fun f => !mine f })

/-- The identity that a context's requests carry. -/
def Ctx.issuer (c : Ctx) (x : Nat) : Issuer :=
  { ctx := x, part := c.part, cell := c.cell, slot := c.slot, tag := c.tag, word := c.word }

/-- Report the drop of a store or posted operation: a fault queue entry; for a lapsed or stale lease, or where the rule gives
one for every code, a class 14 report; and a mark for the next release or fence that covers it (05 R96, R377; 08 R195;
10 R215). A context that has ended gets the entry alone (08 R195). A deferred action leaves no mark (13 R265). -/
def State.reportDrop (s : State) (o : Issuer) (code : Byte) (src : Nat) (mark : Option Nat) (always : Bool) (addr info : Word)
    (pkt : Option Nat := none) : State :=
  match tfind s.ctxs o.ctx with
  | none => s.report o.part (reportHead code false src o.cell o.slot (dieOfCell o.cell) false o.tag) addr info (dieOfCell o.cell)
  | some c =>
    let d0 := reportHead code false src c.cell c.slot (dieOfCell c.cell) false c.tag
    let s := s.report c.part d0 addr info (dieOfCell c.cell)
    let s := match mark with
      | some cls => s.modCtx o.ctx fun c => { c with drops := c.drops ++ [⟨code, addr, cls⟩] }
      | none => s
    if always || code = cLAPSED || code = cGENMIS then
      let seq := (s.cell c.cell).seq
      let s := s.modCell c.cell fun k => { k with seq := k.seq + 1 }
      s.deliverGen c.cell 14 c.part (reportMsg c 14 3 seq d0 addr info) pkt
    else s

/-! ## Traps (17 R325) and return (04 R81) -/

/-- What a trap records. -/
structure TrapCause where
  cause : BitVec 13               -- 17 R327: [11:0] code or n, [12] software
  code  : Byte                    -- the R328 code of a halting report
  epc   : Word
  word  : IWord
  addr  : Word
  info  : Word                    -- info of a halting report
  deriving DecidableEq, Repr

/-- The level that takes a trap (R325). -/
def trapLevel (pl : BitVec 2) : BitVec 2 := if pl = 2 then 2 else 1

def Ctx.trapRegs (c : Ctx) (p : BitVec 2) : TrapRegs := if p = 2 then c.t2 else c.t1
def Ctx.setTrapRegs (c : Ctx) (p : BitVec 2) (t : TrapRegs) : Ctx := if p = 2 then { c with t2 := t } else { c with t1 := t }

/-- Trap entry into a handler: the trap CSRs of the level, `tsw.pl` and the pc (R325). -/
def Ctx.enterTrap (c : Ctx) (t : TrapCause) : Ctx :=
  let p := trapLevel c.pl
  let r := c.trapRegs p
  let c' := c.setTrapRegs p { r with epc := t.epc, pl := c.pl, cause := t.cause, word := t.word, addr := t.addr }
  { c' with pl := p, pc := r.tvec, bp := if t.code = cBUDGET then false else c'.bp }

/-- The context leaves the guest slot of a pantry core (05 R132). -/
def State.leaveGuest (s : State) (x : Nat) : State :=
  { s with dies := s.dies.map fun (d : Nat × Die) => (d.1, { d.2 with guests := d.2.guests.filter fun g => g.2 ≠ x }) }

/-- Does the thread run at a pantry core (05 R131)? -/
def Ctx.migrated (c : Ctx) : Bool :=
  match c.place with
  | .pantry _ => true
  | _ => false

/-- A migrated context is back in its slot (05 R132). -/
def Ctx.toSlot (c : Ctx) : Ctx := { c with place := if c.migrated then .slot else c.place }

/-- A context leaves its wait list and its guest slot. -/
def State.leaveUnits (s : State) (x : Nat) : State := { s.leaveGuest x with waiters := s.waiters.filter fun w => w.1 ≠ x }

/-- A migrated thread is back at its cell, where the messages stored for it enter the queue (05 R132; 09 R378). -/
def State.backHome (s : State) (x : Nat) : State :=
  let c := s.ctx x
  if c.migrated then s.deliverStore c.cell c.part x else s

/-- Take a trap in context `i`: enter the handler, or halt the slot and report when there is none (R325).
A migrated thread returns to its slot first (05 R132). A context that is SWITCHING, or saved, halts in its image (16 R322,
R323). -/
def State.takeTrap (s : State) (i : Nat) (t : TrapCause) : State :=
  let c := s.ctx i
  let now := s.cyc (dieOfCell c.cell)
  let s := (s.leaveUnits i).backHome i
  if (c.trapRegs (trapLevel c.pl)).tvec = 0 then
    let away : Bool := c.sst == .switching || !(c.place == .slot || c.migrated)
    let s := s.setCtx i { (c.settle now).toSlot with sst := if away then c.sst else .halted, savedHalted := away }
    s.reportCtx i t.code true 0 t.addr t.info
  else s.setCtx i ((c.settle now).enterTrap t).toSlot

/-- The lanes that a strong `vsct` at `pc` has performed are forgotten: its instruction ends in a trap (06 R152). A trap taken in its
place leaves them, so each `vsct` has its own count by its address until it completes or faults (log 91: DESIGN CHOICE). -/
def Ctx.dropLanes (c : Ctx) (pc : Word) : Ctx := { c with vsctDone := tdel c.vsctDone pc.toNat }

/-- A trap that the acting context's instruction ends in. -/
def State.endInTrap (s : State) (t : TrapCause) : State := (s.takeTrap s.cur t).mod fun c => c.dropLanes s.self.pc

/-- A precise fault that the trap alone reports, or the halt where there is no handler (R325, R328): nothing of the instruction has
taken effect. -/
def State.trapAlone (s : State) (code : Byte) (addr : Word) : State :=
  s.endInTrap
    { cause := code.zeroExtend 13, code := code, epc := s.self.pc, word := s.word, addr := addr, info := s.word.zeroExtend 64 }

/-- A precise fault of the acting context's instruction. The POISON trap of an access is also reported (20 R361). -/
def State.trap (s : State) (code : Byte) (addr : Word) : State :=
  let c := s.self
  let s := if code = cPOISON ∧ (c.trapRegs (trapLevel c.pl)).tvec ≠ 0
    then s.reportCtx s.cur code true 0 addr (s.word.zeroExtend 64) else s
  s.trapAlone code addr

/-- The outcome of a precise fault. -/
def faultOut (s : State) (code : Byte) (addr : Word) : Host.Outcome State Fault Refusal := .next (s.trap code addr)

/-- Return from the trap level `tsw.pl` (04 R81). -/
def State.eret (s : State) : State :=
  let c := s.self
  let p := c.pl
  if p = 0 then s.trap cPRIV 0
  else
    let t := c.trapRegs p
    if p < t.pl ∨ t.pl = 3 then s.trap cPRIV 0
    else if t.epc &&& 3 ≠ 0 then s.trap cALIGN t.epc
    else s.mod fun c => { c.settle s.now with pl := t.pl, pc := t.epc }

/-- The slot of a context, or the pantry core where it runs, takes its turn in this cycle: an issue, or a trap or sequence in
place of one, after which the next 8 cycles belong to its siblings (01 R8, R11; 14 R289). A trap or sequence counts so although
it issues nothing; the last issuer of the tie rule is left as it was (log 83: DESIGN CHOICE, R11 and R316 do not say). -/
def State.noteTurn (s : State) (x : Nat) : State :=
  let c := s.ctx x
  let now := s.cyc (dieOfCell c.cell)
  let s := s.modCtx x fun k => { k with lastIssue := some now, gap := 8 }
  match c.place with
  | .pantry core => s.modDie (core / 16) fun d => { d with coreIssued := tset d.coreIssued core (s.cyc (core / 16)) }
  | _ => s.modCell c.cell fun k => { k with issued := tset k.issued c.slot now }

/-! ## tsw (01 R17) -/

def bit (b : Bool) (k : Nat) : Word := if b then 1#64 <<< k else 0

def Ctx.tsw (c : Ctx) : Word :=
  c.pl.zeroExtend 64 ||| bit c.opt 2 ||| bit c.ap 3 ||| bit c.rbp 4 ||| bit c.bp 5
    ||| BitVec.ofNat 64 (c.slot % 16 * 256) ||| BitVec.ofNat 64 (c.cell % 512 * 4096)

/-! ## The contexts of a cell -/

/-- State code of a slot state (01 R9). -/
def SlotSt.code : SlotSt → Nat
  | .ready => 1
  | .stalled => 2
  | .parked => 3
  | .halted => 4
  | .switching => 5

/-- Contexts in slots of a cell, with their numbers. -/
def State.inCell (s : State) (cell : Nat) : List (Nat × Ctx) :=
  s.ctxs.filter fun p => p.2.cell = cell && (match p.2.place with | .slot | .pantry _ => true | _ => false)

/-- The context in a slot. -/
def State.inSlot (s : State) (cell slot : Nat) : Option Nat :=
  ((s.inCell cell).find? fun p => p.2.slot = slot).map (·.1)

/-- Can the slot receive a new context: has it been EMPTY since an earlier cycle (01 R9)? -/
def State.slotFree (s : State) (cell slot : Nat) : Bool :=
  (s.inSlot cell slot).isNone &&
    match tfind (s.cell cell).emptying slot with
    | some (t, _) => decide (t < s.cyc (dieOfCell cell))
    | none => true

/-- The lowest-numbered slot of 0-14 that can receive a new context (04 R85). -/
def State.freeSlot (s : State) (cell : Nat) : Option Nat := (List.range Config.slots).find? (s.slotFree cell)

/-- Threads of a population that belong to a cell, in any state (04 R85). -/
def State.threadsOf (s : State) (entry : Option Nat) (cell : Nat) : Nat :=
  (s.ctxs.filter fun p => p.2.entry = entry && p.2.cell = cell).length

end Sys2Proof.Machine
end

