-- ==== Sys2Proof/Machine/Memory.lean ====
section
/-! DEFINITION. Storage: banks with their marks, DRAM, L2, translation, the homes of locations, and the cell's L1
(05 R94-R97; 10 R212-R218; 11 R233; 17 R334-R336; 19 R352; 20 R359-R362). -/

namespace Sys2Proof.Machine

/-! ## Banks -/

/-- Units of `g` bytes that `[a, a + n)` touches. -/
def unitsOf (g a n : Nat) : List Nat :=
  if n = 0 then [] else (List.range ((a + n - 1) / g - a / g + 1)).map (· + a / g)

/-- Does `[a, a + n)` cover the whole of doubleword `d`? -/
def wholeDword (a n d : Nat) : Bool := decide (a ≤ 8 * d ∧ 8 * d + 8 ≤ a + n)

def Bank.read (b : Bank) (a n : Nat) : List Byte := mgetBytes b.bytes a n

/-- Is a byte of the range poisoned? -/
def Bank.bad (b : Bank) (a n : Nat) : Bool := (unitsOf 8 a n).any (b.poison.contains ·)

/-- A store of bytes: each word it touches becomes full (05 R97), each granule loses its tag (05 R127), and a whole
write clears a poison mark (20 R361). -/
def Bank.write (b : Bank) (a : Nat) (bs : List Byte) : Bank :=
  let n := bs.length
  { bytes := msetBytes b.bytes a bs
    full := (unitsOf 8 a n).foldl nins b.full
    tags := (unitsOf 16 a n).foldl ndel b.tags
    poison := (unitsOf 8 a n).foldl (fun p d => if wholeDword a n d then ndel p d else p) b.poison }

/-- The 16-byte granule at `a` with its tag (05 R128). -/
def Bank.readCap (b : Bank) (a : Nat) : Capa :=
  { bits := BitVec.ofNat 128 (leNat (b.read a 16)), tag := b.tags.contains (a / 16) }

def Bank.writeCap (b : Bank) (a : Nat) (c : Capa) : Bank :=
  let b' := b.write a (leBytes c.bits.toNat 16)
  { b' with tags := nput b'.tags (a / 16) c.tag }

/-- Clear a range: zero, empty, untagged, unpoisoned (08 R199). -/
def Bank.clear (b : Bank) (a n : Nat) : Bank :=
  { bytes := b.bytes.filter fun p => !(decide (a ≤ p.1 ∧ p.1 < a + n))
    full := b.full.filter fun d => !(decide (a ≤ 8 * d ∧ 8 * d < a + n))
    tags := b.tags.filter fun g => !(decide (a ≤ 16 * g ∧ 16 * g < a + n))
    poison := b.poison.filter fun d => !(decide (a ≤ 8 * d ∧ 8 * d < a + n)) }

/-- The 128-byte line at `a`, its marks counted from its own start. -/
def Bank.line (b : Bank) (a : Nat) : Bank :=
  { bytes := (b.bytes.filter fun p => decide (a ≤ p.1 ∧ p.1 < a + 128)).map fun p => (p.1 - a, p.2)
    full := (b.full.filter fun d => decide (a / 8 ≤ d ∧ d < a / 8 + 16)).map (· - a / 8)
    tags := (b.tags.filter fun g => decide (a / 16 ≤ g ∧ g < a / 16 + 8)).map (· - a / 16)
    poison := (b.poison.filter fun d => decide (a / 8 ≤ d ∧ d < a / 8 + 16)).map (· - a / 8) }

/-- Put a line back at `a`, with its marks. -/
def Bank.setLine (b : Bank) (a : Nat) (l : Bank) : Bank :=
  let c := b.clear a 128
  { bytes := l.bytes.foldl (fun m p => mset m (p.1 + a) p.2) c.bytes
    full := l.full.foldl (fun t d => nins t (d + a / 8)) c.full
    tags := l.tags.foldl (fun t g => nins t (g + a / 16)) c.tags
    poison := l.poison.foldl (fun t d => nins t (d + a / 8)) c.poison }

/-- Copy the bytes that a mask names from one line onto another; a word they reach takes the full/empty bit of the
source, loses its tag, and keeps a poison mark it had unless the whole word is copied (20 R361). -/
def Bank.merge (dst src : Bank) (mask : BitVec 128) : Bank :=
  let bytes := (List.range 128).filter fun k => mask.getLsbD k
  let words := (List.range 16).filter fun d => bytes.any fun k => k / 8 = d
  let whole (d : Nat) : Bool := (List.range 8).all fun k => mask.getLsbD (8 * d + k)
  { bytes := bytes.foldl (fun m k => mset m k (mget src.bytes k)) dst.bytes
    full := words.foldl (fun t d => nput t d (src.full.contains d)) dst.full
    tags := words.foldl (fun t d => ndel t (d / 2)) dst.tags
    poison := words.foldl
      (fun t d => if src.poison.contains d then nins t d else if whole d then ndel t d else t) dst.poison }

/-! ## Translation (17 R333-R336) -/

/-- Bytes of a page. -/
def Page.size (p : Page) : Nat := if p.big then 0x20_0000 else 0x1_0000

/-- The space id of a partition's own addresses: space number 0 (R333). -/
def spaceOf (part : Nat) : Nat := part * 1024

/-- The partition of a space id (R333). -/
def partOf (space : Nat) : Nat := space / 1024

/-- The space id of a context, as a number. -/
def Ctx.space (c : Ctx) : Nat := c.sid.toNat

/-- The page that backs an address of a space id (R333, R335). -/
def State.page (s : State) (space va : Nat) : Option Page :=
  s.pages.find? fun p => p.sid.toNat = space && decide (p.va ≤ va ∧ va < p.va + p.size)

/-- The physical address on the page's die. -/
def Page.phys (p : Page) (va : Nat) : Nat := p.frame * 0x1_0000 + (va - p.va)

/-- Is a slice or channel group member in use: from a quiesce point after its grant to one after its lapse (17 R334; 18 R347)? -/
def Lease.inUse (l : Lease) : Bool := (l.alive || l.st == .lapsing) && l.pinned

/-- Does the save area of the partition on some die cover the address (16 R319)? -/
def State.inSaveArea (s : State) (space va : Nat) : Bool :=
  (s.part (partOf space)).dies.any fun d => d.2.sasize ≠ 0 && decide (d.2.sabase ≤ va ∧ va < d.2.sabase + d.2.sasize * 0x1_0000)

/-- Does the fault queue's ring cover part of the range (17 R332)? -/
def State.inFaultRing (s : State) (space va n : Nat) : Bool :=
  let p := s.part (partOf space)
  p.fqbase ≠ 0 && decide (p.fqbase < va + n ∧ va < p.fqbase + 32 * 2 ^ (p.fqlg + 6))

/-- The page that backs an address, under a lease in force: its translation entry, then its lease (17 R334, 08 R195).
A page whose translation is gone is refused XLATE. -/
def State.backed (s : State) (space va : Nat) : Except Byte Page :=
  match s.page space va with
  | none => .error cXLATE
  | some p =>
    match tfind s.leases p.lease with
    | some l => if l.alive then .ok p else .error cLAPSED
    | none => .ok p

/-- Judge an access to partition memory at its home: a save area is refused XLATE (16 R319). -/
def State.judge (s : State) (space va : Nat) : Except Byte Page :=
  if s.inSaveArea space va then .error cXLATE else s.backed space va

/-! ## DRAM and L2 -/

/-- Is a channel group of a die encrypted under a key slot that is not held (18 R346, 20 R362)? -/
def State.keyless (s : State) (die cg : Nat) : Bool :=
  s.leases.any fun p =>
    match p.2.obj with
    | .chan part g kslot enc =>
      enc && p.2.inUse && g = die * 16 + cg && p.2.home = die &&
        !(s.leases.any fun q => q.2.obj = .key part kslot && q.2.home = die && q.2.alive)
    | _ => false

/-- The channel group of a frame's page on a die, if any page lies on it. -/
def State.groupOfFrame (s : State) (die frame : Nat) : Option Page :=
  s.pages.find? fun p => p.die = die && decide (p.frame ≤ frame ∧ frame * 0x1_0000 < p.frame * 0x1_0000 + p.size)

/-- The key bits under which a channel group of a die writes and reads its lines now: none when its member does not encrypt (18 R346). -/
def State.keyOf (s : State) (die cg : Nat) : Option (BitVec 512) :=
  s.leases.findSome? fun p =>
    match p.2.obj with
    | .chan part g kslot true =>
      if p.2.inUse && g = die * 16 + cg && p.2.home = die then tfind (s.part part).keys (die * 16 + kslot) else none
    | _ => none

/-- A line of DRAM as a key, or none, reads it: its own bytes under the key that wrote it (18 R346; log 89). -/
def State.decipher (s : State) (die pa : Nat) (key : Option (BitVec 512)) (l : Bank) : Bank :=
  let k := tfind (s.die die).cipher (pa / 128)
  if k = key then l
  else { l with bytes := msetBytes [] 0 (leBytes (Config.recrypt k key pa (BitVec.ofNat 1024 (leNat (l.read 0 128)))).toNat 128) }

/-- Read a line of DRAM: a line with its zero mark set is zero and never decrypted; a line of a keyless group is poisoned
(19 R352, 20 R362). -/
def State.dramLine (s : State) (die pa : Nat) : Bank :=
  let d := s.die die
  if !(d.written.contains (pa / 128)) then {}
  else
    let l := d.dram.line pa
    match s.groupOfFrame die (pa / 0x1_0000) with
    | some p => if s.keyless die p.cg then { l with poison := List.range 16 } else s.decipher die pa (s.keyOf die p.cg) l
    | none => l

/-- Saturating add to a 16-bit count (20 R365). -/
def satInc16 (c : BitVec 16) : BitVec 16 := if c = BitVec.allOnes 16 then c else c + 1

/-- Write a line back to DRAM, under its group's key (18 R346). In a keyless group the bytes are discarded, a written line is marked poisoned, one POISON
entry with src 6 is reported and `due` counts one (19 R352, 20 R362). -/
def State.dramWrite (s : State) (die pa : Nat) (l : L2Line) : State :=
  let page := s.groupOfFrame die (pa / 0x1_0000)
  if page.any fun p => s.keyless die p.cg then
    let s := s.modDie die fun d =>
      { d with
        due := satInc16 d.due
        dram := if d.written.contains (pa / 128)
          then { d.dram with poison := (List.range 16).foldl (fun t k => nins t (k + pa / 8)) d.dram.poison } else d.dram }
    s.report l.part (reportHead cPOISON false 6 0 0 die false 0) (BitVec.ofNat 64 l.va) 0 die
  else
    let key := page.bind fun p => s.keyOf die p.cg
    s.modDie die fun d =>
      { d with
        dram := d.dram.setLine pa l.data, written := nins d.written (pa / 128)
        cipher := match key with | some k => tset d.cipher (pa / 128) k | none => tdel d.cipher (pa / 128) }

/-- Remove a line from L2, writing it back first when it is dirty (10 R218). -/
def State.l2Evict (s : State) (die pa : Nat) : State :=
  match tfind (s.die die).l2 pa with
  | none => s
  | some l =>
    let s := if l.dirty then s.dramWrite die pa l else s
    s.modDie die fun d => { d with l2 := tdel d.l2 pa }

/-- The partition's slices in a domain, ascending (17 R334). -/
def State.slicesOf (s : State) (part dom : Nat) : List Nat :=
  ((List.range 32).map (fun k => dom / 2 * 64 + (dom % 2) * 32 + k)).filter fun n =>
    s.leases.any fun p => p.2.obj = .slice part n && p.2.home = dom / 2 && p.2.inUse

/-- The home slice of a line: S[(VA >> 7) mod k] (17 R334). -/
def State.homeSlice (s : State) (part dom va : Nat) : Nat :=
  let sl := s.slicesOf part dom
  if sl.length = 0 then dom / 2 * 64 + (dom % 2) * 32 else sl.getD (va / 128 % sl.length) 0

/-- The slice that homes an address: its domain and slice. -/
def State.sliceOf (s : State) (space va : Nat) : Option (Nat × Nat) :=
  (s.page space va).map fun p => (p.dom, s.homeSlice p.part p.dom va)

/-- Is the line in a resident range that has not been demoted (10 R219)? -/
def State.residentLine (s : State) (l : L2Line) : Bool :=
  s.leases.any fun p =>
    match p.2.obj with
    | .l2 q v u _ => p.2.alive && p.2.pinned && q = l.sid.toNat && decide (v ≤ l.va ∧ l.va < v + u * 0x1_0000)
    | _ => false

/-- Lines of a slice's 1.5 MiB (00 R1). -/
def sliceLines : Nat := 12288

/-- Live versions of the words that a slice homes. -/
def State.versionsIn (s : State) (slice : Nat) : Nat :=
  ((s.versions.filter fun p => (s.sliceOf (p.1 / 2 ^ 48) (p.1 % 2 ^ 48)).map (·.2) = some slice).map fun p => p.2.length).sum

/-- Lines of a slice that the version store takes: 16 bytes for each live version (10 R218, 13 R268). -/
def State.versionLines (s : State) (slice : Nat) : Nat := (s.versionsIn slice + 7) / 8

/-- The lines of a slice, those that no residency holds first: the order in which it evicts them. Which line goes is the slice's
own choice: the model takes the lowest physical address, and a resident line only when no other is left (10 R218, R219; log 12). -/
def State.l2Victims (s : State) (die slice : Nat) : List (Nat × L2Line) :=
  let l := (s.die die).l2.filter fun p => p.2.slice = slice
  (l.filter fun p => !s.residentLine p.2) ++ l.filter fun p => s.residentLine p.2

/-- Lines that must go before a slice of 1.5 MiB has room for `k` more (00 R1, 10 R218). -/
def State.l2Over (s : State) (die slice k : Nat) : Nat :=
  (s.l2Victims die slice).length - (sliceLines - (s.versionLines slice + k))

/-- Make room in a slice for `k` more lines: as many lines as need be are evicted (00 R1; 10 R218, R219). -/
def State.l2MakeRoom (s : State) (die slice k : Nat) : State :=
  ((s.l2Victims die slice).take (s.l2Over die slice k)).foldl (fun s p => s.l2Evict die p.1) s

/-- Bring a line into L2 under the name (space id, address) and give it. A line present under another name is written
back and filled again (17 R336). -/
def State.l2Fill (s : State) (p : Page) (va : Nat) : State × L2Line :=
  let lva := va / 128 * 128
  let pa := p.phys lva
  let slice := s.homeSlice p.part p.dom lva
  let fresh (s : State) : State × L2Line :=
    let l : L2Line := { sid := p.sid, va := lva, part := p.part, slice := slice, data := s.dramLine p.die pa }
    let s := s.l2MakeRoom p.die slice 1
    (s.modDie p.die fun d => { d with l2 := tset d.l2 pa l }, l)
  match tfind (s.die p.die).l2 pa with
  | some l => if l.sid = p.sid ∧ l.va = lva then (s, l) else fresh (s.l2Evict p.die pa)
  | none => fresh s

/-- Replace the data of a line present in L2. -/
def State.l2Put (s : State) (p : Page) (va : Nat) (b : Bank) : State :=
  let pa := p.phys (va / 128 * 128)
  s.modDie p.die fun d => { d with l2 := tmod {} d.l2 pa fun l => { l with data := b, dirty := true } }

/-! ## Homes -/

/-- The line of a partition memory address as its home holds it. -/
def State.homeLine (s : State) (space va : Nat) : Except Byte (State × Page × Bank) :=
  match s.judge space va with
  | .error e => .error e
  | .ok p =>
    let (s, l) := s.l2Fill p va
    .ok (s, p, l.data)

/-- Write bytes of one line as the device itself does: past the protection of the fault queue's ring and of save areas. -/
def State.deviceWrite (s : State) (space va : Nat) (bs : List Byte) : Except Byte State :=
  match s.backed space va with
  | .error e => .error e
  | .ok p =>
    let (s, l) := s.l2Fill p va
    .ok (s.l2Put p va (l.data.write (va % 128) bs))

/-- Read `n` bytes of one location at its home. A poisoned unit refuses with POISON (20 R361). -/
def State.homeRead (s : State) (l : Loc) (n : Nat) : Except Byte (State × List Byte) :=
  match l with
  | .spad cell off =>
    let b := (s.cell cell).spad
    if b.bad off n then .error cPOISON else .ok (s, b.read off n)
  | .mem space va =>
    match s.homeLine space va with
    | .error e => .error e
    | .ok (s, _, b) => if b.bad (va % 128) n then .error cPOISON else .ok (s, b.read (va % 128) n)

/-- The marks and bytes of the 16-byte granule at a home. -/
def State.homeCap (s : State) (l : Loc) : Except Byte (State × Capa) :=
  match l with
  | .spad cell off =>
    let b := (s.cell cell).spad
    if b.bad off 16 then .error cPOISON else .ok (s, b.readCap off)
  | .mem space va =>
    match s.homeLine space va with
    | .error e => .error e
    | .ok (s, _, b) => if b.bad (va % 128) 16 then .error cPOISON else .ok (s, b.readCap (va % 128))

/-- Apply a change to a line of partition memory at its home, the offset counted within the line. -/
def State.lineModify (s : State) (space va : Nat) (f : Bank → Nat → Bank) : Except Byte State :=
  match s.homeLine space va with
  | .error e => .error e
  | .ok (s, p, b) => .ok (s.l2Put p va (f b (va % 128)))

/-- Apply a change to the bank that holds a location, the offset counted within it. Stores of threads, atomics and copies to
the fault queue's ring are refused XLATE (17 R332). -/
def State.homeModify (s : State) (l : Loc) (n : Nat) (f : Bank → Nat → Bank) : Except Byte State :=
  match l with
  | .spad cell off => .ok (s.modCell cell fun c => { c with spad := f c.spad off })
  | .mem space va => if s.inFaultRing space va n then .error cXLATE else s.lineModify space va f

/-- Store bytes at a home (they lie in one line). -/
def State.homeWrite (s : State) (l : Loc) (bs : List Byte) : Except Byte State :=
  s.homeModify l bs.length fun b o => b.write o bs

/-- Is the word at a home full (05 R97)? -/
def State.homeFull (s : State) (l : Loc) : Except Byte (State × Bool) :=
  match l with
  | .spad cell off => .ok (s, (s.cell cell).spad.full.contains (off / 8))
  | .mem space va =>
    match s.homeLine space va with
    | .error e => .error e
    | .ok (s, _, b) => .ok (s, b.full.contains (va % 128 / 8))

/-- Set or clear the full/empty bit of the word at a home. -/
def State.homeSetFull (s : State) (l : Loc) (full : Bool) : Except Byte State :=
  s.homeModify l 8 fun b o => { b with full := nput b.full (o / 8) full }

/-! ## The cell's L1 (10 R212-R217, 11 R233) -/

/-- The line of a cell's L1 for a space id and address. -/
def Cell.l1Line (c : Cell) (sid : BitVec 16) (va : Nat) : Option (Nat × L1Line) :=
  c.l1.find? fun p => p.2.sid = sid && p.2.va = va / 128 * 128

/-- Mask of `n` bytes from offset `o` of a line. -/
def lineMask (o n : Nat) : BitVec 128 := BitVec.ofNat 128 ((2 ^ n - 1) * 2 ^ o)

/-- Is the address in a held guard range of the space id (10 R217)? -/
def Cell.guarded (c : Cell) (sid : BitVec 16) (part va : Nat) : Bool :=
  c.guards.any fun g => g.held && g.sid = sid && g.part = part && decide (g.base ≤ va ∧ va < g.base + g.len)

/-- Drop a line from L1 without writing it back. -/
def State.l1Drop (s : State) (cell id : Nat) : State := s.modCell cell fun c => { c with l1 := tdel c.l1 id }

/-- The state of an L1 line whose dirty bytes have been written to its home: shared, with the home's bytes and a fresh read
lease (10 R213, R216); guarded only while a held range guards it (R217). -/
def L1Line.renewed (l : L1Line) (b : Bank) (guarded : Bool) (now fill : Nat) : L1Line :=
  { l with data := b, valid := BitVec.allOnes 128, dirty := 0, stores := [], guarded := guarded, leaseEnd := now + 4096, fill := fill }

/-- Write the dirty bytes of an L1 line to its home slice; the line stays shared. A refused write-back drops the bytes and the
line with them (11 R229, R242), and is reported to every context that the slot mask names (10 R215) with the address of its
first store in the line (log 69). -/
def State.l1WriteBack (s : State) (cell id : Nat) : State :=
  match tfind (s.cell cell).l1 id with
  | none => s
  | some l =>
    if l.dirty = 0 then s
    else
      match s.homeModify (.mem l.sid.toNat l.va) 128 fun b _ => b.merge l.data l.dirty with
      | .ok t =>
        match t.homeLine l.sid.toNat l.va with
        | .ok (t, _, b) =>
          let l' := l.renewed b ((t.cell cell).guarded l.sid l.part l.va) (t.cyc (dieOfCell cell)) t.stamp
          { t with stamp := t.stamp + 1 }.modCell cell fun c => { c with l1 := tset c.l1 id l' }
        | .error _ => t.l1Drop cell id
      | .error code =>
        l.stores.foldl (fun s o => s.reportDrop o.1 code 0 (some 4) true o.2 (o.1.word.zeroExtend 64)) (s.l1Drop cell id)

/-- Write a line back and drop it. -/
def State.l1Flush (s : State) (cell id : Nat) : State := (s.l1WriteBack cell id).l1Drop cell id

/-- Evict the dirty lines of a cell that satisfy a condition, guarded ones too (10 R213, R217). -/
def State.l1EvictAll (s : State) (cell : Nat) (f : L1Line → Bool) : State :=
  ((s.cell cell).l1.filter fun p => p.2.dirty ≠ 0 && f p.2).foldl (fun s p => s.l1Flush cell p.1) s

/-- Write back the dirty lines of a cell that satisfy a condition. -/
def State.l1WriteBackAll (s : State) (cell : Nat) (f : L1Line → Bool) : State :=
  ((s.cell cell).l1.filter fun p => f p.2).foldl (fun s p => s.l1WriteBack cell p.1) s

/-- Does the line's slot mask name the context (10 R213, R215)? -/
def L1Line.names (l : L1Line) (i : Nat) : Bool := l.stores.any fun o => o.1.ctx = i

/-- The write-backs of a release, a fence of domain scope or wider, and halt: the non-guarded dirty lines whose slot mask
names the context (10 R215). -/
def State.releaseLines (s : State) (i : Nat) : State :=
  s.l1WriteBackAll (s.ctx i).cell fun l => !l.guarded && l.names i

/-- Configured scratchpad size in bytes (01 R24). -/
def Cell.spadSize (c : Cell) : Nat := (c.spsz.toNat + 1) * 0x4_0000

/-- Lines that the L1 part of the 2,304 KiB array holds (01 R24). -/
def Cell.l1Places (c : Cell) : Nat := (0x24_0000 - c.spadSize) / 128

/-- The lowest place of L1 without a line. -/
def freePlace : Nat → Table L1Line → Nat
  | k, [] => k
  | k, (j, _) :: t => if j = k then freePlace (k + 1) t else k

/-- The place a new line takes: a free one, or place 0 after its line is evicted (10 R215; the choice of the line is the
cell's own, log 12). -/
def State.l1Place (s : State) (cell : Nat) : State × Nat :=
  let k := freePlace 0 (s.cell cell).l1
  if k < (s.cell cell).l1Places then (s, k) else (s.l1Flush cell 0, 0)

/-- Fill a line into L1: the bytes that are not dirty come from the home, and the line takes a read lease unless it is
guarded (R214, R217). -/
def State.l1Fill (s : State) (cell : Nat) (c : Ctx) (va : Nat) : Except Byte (State × Nat × L1Line) :=
  match s.homeLine c.space va with
  | .error e => .error e
  | .ok (s, p, b) =>
    let lva := va / 128 * 128
    let now := s.cyc (dieOfCell cell)
    let g := (s.cell cell).guarded p.sid c.part lva
    let old := (s.cell cell).l1Line c.sid va
    let keep : L1Line := match old with | some (_, l) => l | none => {}
    let (s, id) := match old with | some (k, _) => (s, k) | none => s.l1Place cell
    let l : L1Line :=
      { keep with
        sid := c.sid, part := c.part, va := lva, data := b.merge keep.data keep.dirty, valid := BitVec.allOnes 128
        guarded := g || (keep.guarded && keep.dirty ≠ 0), leaseEnd := now + 4096, fill := s.stamp }
    .ok ({ s with stamp := s.stamp + 1 }.modCell cell fun k => { k with l1 := tset k.l1 id l }, id, l)

/-- Does an L1 line serve a load of the context? A line filled before the context's last acquire is treated as a miss
unless it is guarded (11 R233); bytes the cell itself dirtied always count. -/
def L1Line.hits (l : L1Line) (c : Ctx) (o n : Nat) : Bool :=
  let m := lineMask o n
  (l.valid &&& m == m) && (l.guarded || decide (c.acqMark ≤ l.fill) || (l.dirty &&& m == m))

/-- Has the read lease of a line ended (R214)? -/
def State.readLeaseOver (s : State) (cell : Nat) (l : L1Line) : Bool := !l.guarded && decide (l.leaseEnd ≤ s.cyc (dieOfCell cell))

/-- A line whose read lease has ended serves nothing: its dirty bytes go back and it is invalid (R214). -/
def State.l1Live (s : State) (cell : Nat) (sid : BitVec 16) (va : Nat) : State :=
  match (s.cell cell).l1Line sid va with
  | some (id, l) => if s.readLeaseOver cell l then s.l1Flush cell id else s
  | none => s

/-- Read through L1 (R212, R214): the line's data, filled on a miss. A save area is refused (16 R319). -/
def State.l1Read (s : State) (cell : Nat) (c : Ctx) (va n : Nat) : Except Byte (State × Bank) :=
  let s := s.l1Live cell c.sid va
  let filled : Except Byte (State × Bank) := (s.l1Fill cell c va).map fun r => (r.1, r.2.2.data)
  if s.inSaveArea c.space va then .error cXLATE
  else
    match (s.cell cell).l1Line c.sid va with
    | some (_, l) => if l.hits c (va % 128) n then .ok (s, l.data) else filled
    | none => filled

/-- A store of the context joins those that a line's slot mask names: its first one since the line was clean is kept. -/
def L1Line.mark (l : L1Line) (o : Issuer) (ea : Word) : List (Issuer × Word) :=
  if l.names o.ctx then l.stores else l.stores ++ [(o, ea)]

/-- Accept a weak store into L1 (R213-R215): a store that does not write the whole line fills it first. -/
def State.l1Write (s : State) (i cell : Nat) (c : Ctx) (va : Nat) (bs : List Byte) : Except Byte State :=
  let s := s.l1Live cell c.sid va
  let o := va % 128
  let now := s.cyc (dieOfCell cell)
  let put (s : State) (id : Nat) (l : L1Line) : State :=
    let l' : L1Line :=
      { l with
        data := l.data.write o bs
        valid := l.valid ||| lineMask o bs.length
        dirty := l.dirty ||| lineMask o bs.length
        stores := l.mark (c.issuer i) (BitVec.ofNat 64 va)
        guarded := l.guarded || (s.cell cell).guarded c.sid c.part va
        dirtySince := if l.dirty = 0 then now else l.dirtySince }
    s.modCell cell fun k => { k with l1 := tset k.l1 id l' }
  if s.inFaultRing c.space va bs.length || s.inSaveArea c.space va then .error cXLATE
  else
    match (s.cell cell).l1Line c.sid va with
    | some (id, l) => .ok (put s id l)
    | none =>
      match s.l1Fill cell c va with
      | .error e => .error e
      | .ok (s, id, l) => .ok (put s id l)

/-- Before an access that is performed at the home: the cell's own line of the address goes back to L2 and is dropped, so
that the cell's threads see one order (11 R234). -/
def State.l1Sync (s : State) (cell : Nat) (sid : BitVec 16) (va : Nat) : State :=
  match (s.cell cell).l1Line sid va with
  | some (id, l) => if l.guarded && l.dirty = 0 then s.l1Drop cell id else s.l1Flush cell id
  | none => s

/-- An acquire completes: lines filled before it no longer serve the context (11 R233). -/
def State.acquire (s : State) (i : Nat) : State :=
  { s with stamp := s.stamp + 1 }.modCtx i fun c => { c with acqMark := s.stamp + 1 }

end Sys2Proof.Machine
end

