-- ==== Sys2Proof/Machine/Operands.lean ====
section
/-! DEFINITION. Operand forms: the local address map and its checks (01 R21, R22; 05 R94), the scratchpad views
(02 R33-R41), the range scoreboard (07 R159, 10 R220, R221), effective addresses and extensions (03 R48), the waits of
ord and wc (03 R50, 05 R95, R96, R377), and the registers that an instruction reads. -/

namespace Sys2Proof.Machine

/-! ## Ending an instruction early -/

/-- A computation that goes on with a value, or ends the instruction in a next state: a trap taken, or a wait. -/
abbrev Attempt (α : Type) := Except State α

/-- A precise fault (17 R325). -/
def State.raise {α : Type} (s : State) (code : Byte) (addr : Word) : Attempt α := .error (s.trap code addr)

/-- The POISON fault of a register or an element pair: a trap with no entry beside it (20 R361). -/
def State.raiseRegister {α : Type} (s : State) : Attempt α := .error (s.trapAlone cPOISON 0)

/-- The slot waits and tries the instruction again. -/
def State.again {α : Type} (s : State) : Attempt α := .error (s.stall .again)

/-- The outcome of an instruction that ends in a next state either way. -/
def conclude (r : Attempt State) : Host.Outcome State Fault Refusal :=
  match r with
  | .ok s => .next s
  | .error s => .next s

/-- Go on only if the condition holds; otherwise trap. -/
def State.require (s : State) (ok : Bool) (code : Byte) (addr : Word) : Attempt Unit :=
  if ok then .ok () else s.raise code addr

/-- An access to a home: its refusal is precise. -/
def State.precise {α : Type} (s : State) (addr : Word) (r : Except Byte α) : Attempt α :=
  match r with
  | .ok v => .ok v
  | .error code => s.raise code addr

/-! ## Effective addresses and extension (03 R48) -/

/-- xa + sext(off12) · size. -/
def effAddr (base : Word) (off : BitVec 12) (size : Nat) : Word :=
  base + off.signExtend 64 * BitVec.ofNat 64 size

/-- The low `n` bytes of a value, sign- or zero-extended. -/
def extend (signed : Bool) (n : Nat) (bs : List Byte) : Word :=
  let v := leNat bs
  if signed && decide (2 ^ (8 * n - 1) ≤ v) then BitVec.ofNat 64 (v + 2 ^ 64 - 2 ^ (8 * n)) else BitVec.ofNat 64 v

/-! ## Regions (R21) -/

/-- What an address names in the local address map. -/
inductive Region where
  | unused
  | view (w off : Nat)
  | acc (tile off : Nat)
  | page (off : Nat)
  | mem
  deriving DecidableEq, Repr

/-- The region that holds an address (R21). An address of 2^48 or more lies in none (log 8). -/
def region (a : Word) : Region :=
  let n := a.toNat
  if n < 0x0100_0000 then .unused
  else if n < 0x0200_0000 then .view ((n - 0x0100_0000) / 0x10_0000) (n % 0x10_0000)
  else if n < 0x0202_0000 then .acc ((n - 0x0200_0000) / 0x8000) (n % 0x8000)
  else if n < 0x0300_0000 then .unused
  else if n < 0x0300_1000 then .page (n - 0x0300_0000)
  else if n < 0x1_0000_0000 then .unused
  else if n < 0x1_0000_0000_0000 then .mem
  else .unused

/-- Does the population of a queue entry hold a live lease of the object? -/
def State.popHolds (s : State) (entry : Option Nat) (f : LeaseObj → Bool) : Bool :=
  s.leases.any fun p => p.2.alive && p.2.pop = entry && f p.2.obj

/-- Is the scratchpad granule held by the population (R22)? -/
def State.holdsGranule (s : State) (entry : Option Nat) (cell g : Nat) : Bool :=
  s.popHolds entry fun o =>
    match o with
    | .sp c b n => c = cell && decide (b ≤ g ∧ g < b + n)
    | _ => false

/-- Does the population hold every byte of a scratchpad range? -/
def State.holdsRange (s : State) (entry : Option Nat) (cell off n : Nat) : Bool :=
  (unitsOf 4096 off n).all fun g => s.holdsGranule entry cell g

/-- Does the population hold the tile (R22)? -/
def State.holdsTile (s : State) (entry : Option Nat) (cell tile : Nat) : Bool :=
  s.popHolds entry fun o => o = .acc cell tile

def overlaps (a n b m : Nat) : Bool := decide (a < b + m ∧ b < a + n)

/-- Does a scratchpad range meet the prompt book of a member slot of the cell (13 R267)? -/
def State.inBook (s : State) (cell off n : Nat) : Bool :=
  s.ctxs.any fun p =>
    p.2.cell = cell &&
      match p.2.member with
      | some m => overlaps off n m.pbase m.size
      | none => false

/-- The elements of view 9 that `n` bytes at a view offset cover. -/
def view9Elems (off n : Nat) : Nat × Nat := (off / 4, (off + n - 1) / 4)

/-- Raw scratchpad offset and length that a view access covers (02 R40, R41). -/
def viewSpan (w off n : Nat) : Nat × Nat :=
  if w = 9 then
    let (lo, hi) := view9Elems off n
    (64 * (lo / 64), 64 * (hi / 64) + 64 - 64 * (lo / 64))
  else if w = 0 then (off, n)
  else (64 * (off / 64), 64 * ((off + n - 1) / 64) + 64 - 64 * (off / 64))

/-- The checks of R21 and R22, then alignment, for `n` bytes at `ea`: the fault, or none (R94 items 1 and 2).
`store` covers stores and atomics. A load of view 9 is checked for the leases of the plane bytes it covers; its scale bytes
need no lease of their own and are not in the scoreboard (log 34: DESIGN CHOICE, R41 does not say). -/
def State.checkAddr (s : State) (ea : Word) (n : Nat) (store : Bool) : Option Byte :=
  let c := s.self
  let k := s.cell c.cell
  let aligned := decide (ea.toNat % n = 0)
  match region ea with
  | .unused => some cXLATE
  | .view w off =>
    if w = 1 ∨ 10 ≤ w then some cXLATE
    else if w = 9 ∧ store then some cXLATE
    else
      let (lo, len) := viewSpan w off n
      if 0x10_0000 < off + n ∨ k.spadSize < lo + len then some cXLATE
      else if w = 9 ∧ k.spadSize ≤ c.me.vsb.toNat + (view9Elems off n).2 / 4 then some cXLATE
      else if !s.holdsRange c.entry c.cell lo len then some cLAPSED
      else if store ∧ s.inBook c.cell lo len then some cXLATE
      else if (w = 0 ∨ w = 9) ∧ !aligned then some cALIGN
      else none
  | .acc tile _ =>
    if store then some cXLATE
    else if !s.holdsTile c.entry c.cell tile then some cLAPSED
    else if !aligned then some cALIGN
    else none
  | .page off =>
    if c.pl = 0 then some cPRIV
    else if n ≠ 8 ∨ off % 8 ≠ 0 then some cALIGN
    else none
  | .mem => if aligned then none else some cALIGN

/-- Does a versioned page back the address (05 R94, R98)? -/
def State.versioned (s : State) (space : Nat) (va : Nat) : Bool :=
  match s.page space va with
  | some p => p.ver
  | none => false

/-- The whole of R94 for a load or store of `n` bytes: `fe` is ord 0b11. -/
def State.checkAccess (s : State) (ea : Word) (n : Nat) (store fe : Bool) : Attempt Unit :=
  match s.checkAddr ea n store with
  | some code => s.raise code ea
  | none =>
    match region ea with
    | .mem => s.require (!s.versioned s.self.space ea.toNat) cXLATE ea
    | .view w _ => s.require (!fe || decide (w = 0)) cXLATE ea
    | _ => s.require (!fe) cXLATE ea

/-- The check of an access that must lie in view 0 or partition memory (05 R102, R110, R128): alignment to `al` first
where the rule says so, then the region. -/
def State.checkHome (s : State) (ea : Word) (n : Nat) (store : Bool) : Attempt Unit :=
  match region ea with
  | .mem => .ok ()
  | .view 0 off =>
    let c := s.self
    if (s.cell c.cell).spadSize < off + n then s.raise cXLATE ea
    else if !s.holdsRange c.entry c.cell off n then s.raise cLAPSED ea
    else if store ∧ s.inBook c.cell off n then s.raise cXLATE ea
    else .ok ()
  | _ => s.raise cXLATE ea

/-- The location at its home that a checked address of view 0 or partition memory names. -/
def State.locOf (s : State) (ea : Word) : Loc :=
  match region ea with
  | .view _ off => .spad s.self.cell off
  | _ => .mem s.self.space ea.toNat

/-! ## Nested views (02 R33-R35, R40, R41) -/

/-- The mantissa m_w of element `e` of the nested array at raw offset `base`. -/
def nestedGet (b : Memory) (base e w : Nat) : Int :=
  let bitAt (p : Nat) : Nat := (mget b (base + 64 * (e / 64) + 8 * p + e % 64 / 8)).toNat / 2 ^ (e % 8) % 2
  let mag := (List.range w).foldl (fun v p => if p = 0 then v else v * 2 + bitAt p) 0
  (mag : Int) - (bitAt 0 : Int) * 2 ^ (w - 1)

/-- Write the mantissa into planes 0 to w-1 of an element, zero into the others. -/
def nestedPut (b : Memory) (base e w : Nat) (v : Int) : Memory :=
  let u := (v % (2 ^ w : Int)).toNat
  (List.range 8).foldl
    (fun m p =>
      let a := base + 64 * (e / 64) + 8 * p + e % 64 / 8
      let old := (mget m a).toNat
      let on := if p < w then u / 2 ^ (w - 1 - p) % 2 else 0
      let was := old / 2 ^ (e % 8) % 2
      mset m a (BitVec.ofNat 8 (old + on * 2 ^ (e % 8) - was * 2 ^ (e % 8)))) b

/-- A two's-complement byte as an integer. -/
def byteInt (b : Byte) : Int := b.toInt

/-- The binary32 word of an element of view 9 (R41). -/
def view9Word (b : Memory) (vsb e : Nat) : Nat :=
  let ex := (mget b (vsb + e / 4)).toNat
  if ex = 0 then 0
  else if ex = 255 then Fmt.b32.qnan
  else (deliver .b32 false (FVal.scaled (nestedGet b 0 e 8) ((ex : Int) - 134))).1

/-- The bytes that a load of a view returns. -/
def viewLoad (b : Memory) (vsb w off n : Nat) : List Byte :=
  if w = 0 then mgetBytes b off n
  else if w = 9 then
    (List.range n).map fun k =>
      let a := off + k
      BitVec.ofNat 8 (view9Word b vsb (a / 4) / 256 ^ (a % 4))
  else (List.range n).map fun k => BitVec.ofInt 8 (nestedGet b 0 (off + k) w)

/-- Clamp to the range of m_w (R34, R40). -/
def clampNested (w : Nat) (v : Int) : Int := max (-(2 ^ (w - 1))) (min (2 ^ (w - 1) - 1) v)

/-- A store through views 0 and 2-8: the words it reaches become full and their granules lose their tags. A word that it covers
whole, with every element of its group, loses its poison mark (20 R361). -/
def Bank.viewStore (b : Bank) (w off : Nat) (bs : List Byte) : Bank :=
  if w = 0 then b.write off bs
  else
    let groups := unitsOf 64 off bs.length
    let words := groups.flatMap fun g => (List.range 8).map fun p => 8 * g + p
    { b with
      bytes := (bs.foldl (fun (t : Memory × Nat) v => (nestedPut t.1 0 (off + t.2) w (clampNested w (byteInt v)), t.2 + 1)) (b.bytes, 0)).1
      full := words.foldl nins b.full
      tags := words.foldl (fun t d => ndel t (d / 2)) b.tags
      poison := (words.filter fun d => decide (off ≤ d / 8 * 64 ∧ d / 8 * 64 + 64 ≤ off + bs.length)).foldl ndel b.poison }

/-- Is a stored unit that the view access reads poisoned (20 R361)? -/
def Bank.viewBad (b : Bank) (vsb w off n : Nat) : Bool :=
  let (lo, len) := viewSpan w off n
  if w = 0 then b.bad off n
  else b.bad lo len || (decide (w = 9) && b.bad (vsb + (view9Elems off n).1 / 4) ((view9Elems off n).2 / 4 - (view9Elems off n).1 / 4 + 1))

/-! ## The accumulator window (R21) -/

def tileWord (t : Table (BitVec 32)) (tile e : Nat) : BitVec 32 := tget 0 t (tile * 8192 + e)

/-- Bytes at an offset of a tile's window. -/
def accLoad (t : Table (BitVec 32)) (tile off n : Nat) : List Byte :=
  (List.range n).map fun k => BitVec.ofNat 8 ((tileWord t tile ((off + k) / 4)).toNat / 256 ^ ((off + k) % 4))

/-- Is an element pair that the bytes touch poisoned (20 R359)? -/
def Cell.accBad (c : Cell) (tile off n : Nat) : Bool :=
  (unitsOf 8 (tile * 0x8000 + off) n).any (c.tilePoison.contains ·)

/-! ## Locks and the range scoreboard -/

/-- The tile that an engine operation locks (R23). -/
def EngKind.tile : EngKind → Option Nat
  | .mma t _ _ _ _ => some t
  | .mzero t => some t
  | .mlda t _ => some t
  | .msta t _ => some t
  | _ => none

/-- Is the tile locked by an accepted operation (R23)? -/
def Cell.tileLocked (c : Cell) (tile : Nat) : Bool := c.mq.any fun o => o.kind.tile = some tile

/-- A recorded span of addresses, views folded onto view 0: space id, whether it is written, start, end. -/
structure Span where
  sid   : BitVec 16
  write : Bool
  lo    : Nat
  hi    : Nat
  deriving DecidableEq, Repr

/-- The address of a raw scratchpad offset in view 0. -/
def view0 (off : Nat) : Nat := Config.viewBase + off

/-- The hull of `rows` rows of `len` bytes from `a` at a signed stride. -/
def rowHull (a : Word) (stride : Word) (rows len : Nat) : Nat × Nat :=
  let first : Int := a.toNat
  let last : Int := first + stride.toInt * ((rows : Int) - 1)
  ((min first last).toNat, (max first last).toNat + len)

/-- The hull of indexed rows: the whole span until the index array has been read (10 R220). -/
def indexHull (a : Word) (len : Nat) (idx : Option (List Nat)) : Nat × Nat :=
  match idx with
  | none => (a.toNat, min (a.toNat + len * 2 ^ 32) (2 ^ 48))
  | some l =>
    (l.foldl (fun m i => min m (a.toNat + i * len)) (2 ^ 48), l.foldl (fun m i => max m (a.toNat + i * len + len)) 0)

/-- The scoreboard entries of a copy (10 R220): sides named by capability are not recorded. -/
def CopyReq.spans (r : CopyReq) (idx : Option (List Nat)) : List Span :=
  let src := if r.kind = 1 then indexHull r.src r.len idx
    else if r.kind = 2 then rowHull r.src (BitVec.ofNat 64 r.len) r.rows r.len else rowHull r.src r.sstr r.rows r.len
  let dst := if r.kind = 2 then indexHull r.dst r.len idx
    else if r.kind = 1 then rowHull r.dst (BitVec.ofNat 64 r.len) r.rows r.len else rowHull r.dst r.dstr r.rows r.len
  (if r.scap.isSome then [] else [⟨r.sid, false, src.1, src.2⟩]) ++
  (if r.dcap.isSome then [] else [⟨r.sid, true, dst.1, dst.2⟩])

/-- The scoreboard entries of a cell's copies, with each copy's acceptance number. -/
def Cell.copySpans (c : Cell) : List (Nat × Span) :=
  (c.mboxes.flatMap fun p => (p.2.spans none).map fun x => (p.2.num, x)) ++
  (c.runs.flatMap fun r => (r.req.spans (if r.started then some r.idx else none)).map fun x => (r.req.num, x))

/-- The scoreboard entries of engine operations: scratchpad ranges, which are the cell's own whatever space id an entry carries
(10 R220; 12 R254; log 88: DESIGN CHOICE, the sender's, or number 0 of the partition once the sender has ended). -/
def State.engineSpans (s : State) (cell : Nat) : List (Nat × Span) :=
  let k := s.cell cell
  (k.mq ++ k.cq).flatMap fun o =>
    let sid : BitVec 16 := match tfind s.ctxs o.ctx with
      | some c => c.sid
      | none => BitVec.ofNat 16 (o.part * 1024)
    (o.reads.map fun r => (o.num, ⟨sid, false, view0 r.1, view0 (r.1 + r.2)⟩)) ++
    (o.writes.map fun r => (o.num, ⟨sid, true, view0 r.1, view0 (r.1 + r.2)⟩))

/-- Entries of the scoreboard in use, of 64 (10 R220): one for each side of a copy that no capability names, and by
operation 2, 2, 1 or 3. A `qchk.w` takes 3, as `qcvt` does (log 70: DESIGN CHOICE, R220 does not list it). -/
def EngKind.entries : EngKind → Nat
  | .mma .. => 2
  | .swapLoad => 2
  | .swapRot => 0
  | .mzero _ => 1
  | .mlda .. => 1
  | .msta .. => 1
  | .qcvt .. => 3
  | .qchkw .. => 3

def Cell.boardUsed (c : Cell) : Nat :=
  c.copySpans.length + ((c.mq ++ c.cq).map fun o => o.kind.entries).sum

/-- Do `[lo, hi)` and a recorded span overlap? -/
def Span.meets (p : Span) (lo hi : Nat) : Bool := decide (lo < p.hi ∧ p.lo < hi)

/-- Do two recorded spans name a byte in common: in one space id, or in the scratchpad, which every space id shares (R159)? -/
def Span.clash (p q : Span) : Bool := (p.sid = q.sid || decide (Config.viewBase < min p.hi q.hi)) && p.meets q.lo q.hi

/-- Does a local access of `[lo, hi)` with the space id stall on the scoreboard: on a copy's entries of its space id (R221), on
those of engine operations whichever slot made them (R159; 12 R254)? -/
def State.boardStalls (s : State) (cell : Nat) (sid : BitVec 16) (lo hi : Nat) (store : Bool) : Bool :=
  ((s.cell cell).copySpans.any fun p => p.2.sid = sid && (p.2.write || store) && p.2.meets lo hi) ||
    (s.engineSpans cell).any fun p => (p.2.write || store) && p.2.meets lo hi

/-- Is a prompt book of the cell being cleared over the bytes (08 R199, kind 0x09)? -/
def State.bookClearing (s : State) (cell off n : Nat) : Bool :=
  s.jobs.any fun p =>
    match p.2.book with
    | some (c, b, m) => c = cell && overlaps off n b m
    | none => false

/-- Bytes that a request reaches at its home. -/
def PktOp.reach : PktOp → Nat
  | .store d => d.length
  | .load n _ => n
  | .capst _ => 16
  | .amo .. | .take | .give _ => 8
  | _ => 16

/-- Does a posted operation of the context on bytes of the location's line still travel? A later access of the context to the
location waits for it (11 R241, Coherence; log 17). -/
def State.postedOn (s : State) (l : Loc) (n : Nat) : Bool :=
  s.packets.any fun p =>
    p.2.ctx = s.cur && p.2.posted && p.2.stamp.isNone &&
      match p.2.target, l with
      | .home (.mem q a), .mem space va => q = space && a / 128 = va / 128
      | .home (.spad c a), .spad cell off => c = cell && overlaps a p.2.op.reach off n
      | _, _ => false

/-- The waits that a local access meets after its checks: a split change, the scoreboard, an earlier posted operation of its
own; and a locked tile, whose load reissues once the lock clears (R23, R25, R159, R221). A migrated thread's accesses to
partition memory do not pass through the cell. -/
def State.localWaits (s : State) (ea : Word) (n : Nat) (store : Bool) : Attempt Unit :=
  let c := s.self
  let k := s.cell c.cell
  match region ea with
  | .view w off =>
    let (lo, len) := viewSpan w off n
    if k.spx || s.bookClearing c.cell lo len || s.boardStalls c.cell c.sid (view0 lo) (view0 (lo + len)) store ||
        s.postedOn (.spad c.cell lo) len
    then s.again else .ok ()
  | .acc tile _ => if k.tileLocked tile then .error (s.stall (.tile tile)) else .ok ()
  | .mem =>
    if s.postedOn (.mem c.space ea.toNat) n ||
        (!c.migrated && (k.spx || s.boardStalls c.cell c.sid ea.toNat (ea.toNat + n) store))
    then s.again else .ok ()
  | _ => .ok ()

/-! ## Posted counts and ordering waits (03 R50, 05 R95, R96, R104, R377) -/

/-- A posted count by its wc value: 1-3 for pst0-pst2. -/
def Ctx.pst (c : Ctx) (k : Nat) : BitVec 32 := if k = 0 then c.pst0 else if k = 1 then c.pst1 else c.pst2

/-- Add to or take from the count of a destination class: 0-2, or 3 for the own domain (R104). -/
def Ctx.bumpPst (c : Ctx) (cls : Nat) (up : Bool) : Ctx :=
  let f (v : BitVec 32) : BitVec 32 := if up then v + 1 else v - 1
  match cls with
  | 0 => { c with pst0 := f c.pst0 }
  | 1 => { c with pst1 := f c.pst1 }
  | 2 => { c with pst2 := f c.pst2 }
  | _ => { c with ownPosted := if up then c.ownPosted + 1 else c.ownPosted - 1 }

/-- The wait of the wc field (03 R50). -/
def State.waitWc (s : State) (w : BitVec 2) : Attempt Unit :=
  if w.toNat ≠ 0 ∧ s.self.pst (w.toNat - 1) ≠ 0 then s.again else .ok ()

/-- What an instruction waits for and covers (R106, R377): `posted k` for the posted operations of class k (3: own
domain), `plain` for stores that are not posted. -/
structure Cover where
  posted : Nat → Bool
  plain  : Bool

def coverAll : Cover := ⟨fun _ => true, true⟩
def coverMod : Cover := ⟨fun k => k ≠ 2, true⟩
def coverDie : Cover := ⟨fun k => k = 3 || k = 0, true⟩
def coverDom : Cover := ⟨fun k => k = 3, true⟩
def coverX : Cover := ⟨fun _ => false, true⟩

def Cover.covers (v : Cover) (d : Drop) : Bool := if d.cls = 4 then v.plain else v.posted d.cls

/-- Are posted operations of a covered class outstanding? -/
def Cover.pending (v : Cover) (c : Ctx) : Bool :=
  (v.posted 0 && c.pst0 ≠ 0) || (v.posted 1 && c.pst1 ≠ 0) || (v.posted 2 && c.pst2 ≠ 0) || (v.posted 3 && c.ownPosted ≠ 0)

/-- Trap for the first covered drop; every covered drop is then spent (R96). -/
def State.takeDrop (s : State) (v : Cover) : Attempt State :=
  match s.self.drops.find? v.covers with
  | none => .ok s
  | some d =>
    let s := s.mod fun c => { c with drops := c.drops.filter fun e => !v.covers e }
    s.raise d.code d.addr

/-- The wait of a release-class write, strong access, fence or barrier arrival: earlier stores reach their homes,
covered posted operations are acknowledged, and a covered drop traps (R95, R96, R106, R377). -/
def State.waitCovered (s : State) (v : Cover) : Attempt State :=
  let s := s.releaseLines s.cur
  if v.pending s.self then s.again else s.takeDrop v

/-! ## Optimistic restrictions (13 R265) -/

/-- Is the context in its rollback handler? -/
def Ctx.inHandler (c : Ctx) : Bool :=
  match c.member with
  | some m => m.handler
  | none => false

/-- ILL in optimistic mode. -/
def State.illInOpt (s : State) : Attempt Unit := s.require (!s.self.opt) cILL 0

/-- ILL in the rollback handler. -/
def State.illInHandler (s : State) : Attempt Unit := s.require (!s.self.inHandler) cILL 0

/-! ## Registers that an instruction reads (20 R361) -/

def xk {n : Nat} (r : BitVec n) : Nat := r.toNat
def vk {n : Nat} (r : BitVec n) : Nat := 32 + r.toNat
def pk {n : Nat} (r : BitVec n) : Nat := 48 + r.toNat
def ck {n : Nat} (r : BitVec n) : Nat := 56 + r.toNat
/-- An engine register, by its index (07 R156). -/
def ek (e : Nat) : Nat := 64 + e

/-- Read a capability register that a value names: a poisoned one faults (20 R361). -/
def State.capRead (s : State) (r : BitVec 3) : Attempt Unit :=
  if (regWords (ck r)).any s.self.badRegs.contains then s.raiseRegister else .ok ()

/-- The registers an instruction reads, by number (`regWords`). Those that it names by a value are checked where they are read. -/
def sourceRegs : Instr → List Nat
  | .add _ a b | .sub _ a b | .and _ a b | .or _ a b | .xor _ a b | .shl _ a b | .shr _ a b | .sra _ a b
  | .slt _ a b | .sltu _ a b | .min _ a b | .max _ a b | .minu _ a b | .maxu _ a b | .mul _ a b | .mulh _ a b
  | .mulhu _ a b | .div _ a b | .divu _ a b | .rem _ a b | .remu _ a b | .bfx _ a b => [xk a, xk b]
  | .bfi d a b => [xk d, xk a, xk b]
  | .clz _ a | .ctz _ a | .popc _ a | .sext _ a _ | .zext _ a _ | .addi _ a _ | .andi _ a _ | .ori _ a _
  | .xori _ a _ | .slti _ a _ | .shli _ a _ | .shri _ a _ | .srai _ a _ | .jalr _ a _ => [xk a]
  | .beq a b _ | .bne a b _ | .blt a b _ | .bge a b _ | .bltu a b _ | .bgeu a b _ => [xk a, xk b]
  | .ldB _ a _ _ _ | .ldH _ a _ _ _ | .ldW _ a _ _ _ | .ldD _ a _ _ _ | .ldBu _ a _ _ _ | .ldHu _ a _ _ _
  | .ldWu _ a _ _ _ | .vld _ a _ _ _ => [xk a]
  | .ldDTake _ a _ _ => [xk a]
  | .stB t a _ _ _ | .stH t a _ _ _ | .stW t a _ _ _ | .stD t a _ _ _ => [xk t, xk a]
  | .stDGive t a _ _ => [xk t, xk a]
  | .vst t a _ _ _ => [vk t, xk a]
  | .ldvEq _ a b | .ldvLe _ a b => [xk a, xk b]
  | .stv t a b => [xk t, xk a, xk b]
  | .amoAdd _ a b _ _ _ | .amoMin _ a b _ _ _ | .amoMax _ a b _ _ _ | .amoAnd _ a b _ _ _ | .amoOr _ a b _ _ _
  | .amoXor _ a b _ _ _ => [xk a, xk b]
  | .amoSwp _ a b _ _ => [xk a, xk b]
  | .amoCas d a b _ _ => [xk d, xk a, xk b]
  | .flagf c a => [ck c, xk a]
  | .barArv _ a | .barAw _ a => [xk a]
  | .barWt a b | .barExp a b | .inv a b _ | .wb a b _ | .wbinv a b _ | .pf a b _ => [xk a, xk b]
  | .vadd _ a b p _ _ _ | .vsub _ a b p _ _ _ | .vmul _ a b p _ _ _ => [vk a, vk b, pk p]
  | .vfma d a b p _ _ => [vk d, vk a, vk b, pk p]
  | .vmin _ a b p _ _ | .vmax _ a b p _ _ => [vk a, vk b, pk p]
  | .vand _ a b p | .vor _ a b p | .vxor _ a b p => [vk a, vk b, pk p]
  | .vshl _ a b p _ | .vshr _ a b p _ | .vsra _ a b p _ => [vk a, vk b, pk p]
  | .vcmp _ a b p _ _ => [vk a, vk b, pk p]
  | .vsel _ a b p _ | .vperm _ a b p _ => [vk a, vk b, pk p]
  | .vabs _ a p _ _ | .vneg _ a p _ _ => [vk a, pk p]
  | .vcvt _ a p _ _ | .vcvtRtz _ a p _ _ => [vk a, pk p]
  | .vrcp _ a p _ _ | .vrsq _ a p _ _ | .vexp _ a p _ _ | .vlog _ a p _ _ => [vk a, pk p]
  | .vbcast _ a p _ => [xk a, pk p]
  | .vext _ a b _ => [vk a, xk b]
  | .vins d a b _ => [vk d, xk a, xk b]
  | .vred _ a p _ _ _ => [vk a, pk p]
  | .vgth _ a b p _ _ => [xk a, vk b, pk p]
  | .vsct d a b p _ _ => [vk d, xk a, vk b, pk p]
  | .pand _ a b | .por _ a b | .pxor _ a b => [pk a, pk b]
  | .pnot _ a | .pcnt _ a _ => [pk a]
  | .psetX _ a => [xk a]
  | .mma a b _ => [xk a, xk b, ek 0, ek 1, ek 2]
  | .mldb a b => [xk a, xk b, ek 1, ek 2]
  | .mlda a _ | .msta a _ | .mset a _ => [xk a]
  | .mget e _ => [ek e.toNat]
  | .qcvt a b _ => [xk a, xk b, ek 4, ek 5, ek 6]
  | .qchk a b _ | .qchkW a b => [xk a, xk b, ek 4, ek 6]
  | .qstat a _ => [xk a]
  | .cpy _ a b _ | .cpg _ a b _ | .cps _ a b _ | .cpr _ a b _ => [xk a, xk b]
  | .snd a => [xk a, xk a + 1, xk a + 2, xk a + 3]
  | .rcv _ b | .pkmsg _ b => [xk b]
  | .wmsg _ a => [xk a]
  | .lacqSp _ a b | .lacqAcc _ a b | .lacqCls _ a b | .lacqL2 _ a b | .lacqPage _ a b | .lacqPath _ a b
  | .lacqGrp _ a b | .llk _ a b | .lpar _ a b => [xk a, xk b]
  | .renew a b => [xk a, xk b]
  | .life _ a | .lgen _ a | .optOn _ a | .ckpt _ a _ => [xk a]
  | .capld _ a => [xk a]
  | .capst c a => [ck c, xk a]
  | .capnar _ e b | .capsetCur _ e b | .capsetPerm _ e b => [ck e, xk b]
  | .capsetMint _ a b => [xk a, xk b]
  | .capget _ c _ => [ck c]
  | .go _ a => [xk a]
  | .rld _ c _ _ _ _ => [ck c]
  | .rst t c _ _ _ _ => [xk t, ck c]
  | .ramoAdd _ c b _ _ _ | .ramoMin _ c b _ _ _ | .ramoMax _ c b _ _ _ | .ramoAnd _ c b _ _ _ | .ramoOr _ c b _ _ _
  | .ramoXor _ c b _ _ _ => [ck c, xk b]
  | .ramoSwp _ c b _ _ => [ck c, xk b]
  | .ramoCas d c b _ _ => [xk d, ck c, xk b]
  | .csrw _ a _ | .csrs _ a _ | .csrc _ a _ => [xk a]
  | .idle _ a => [xk a]
  | .spawn _ a b => [xk a, xk b]
  | .budx _ a => [xk a]
  | _ => []

end Sys2Proof.Machine
end

