-- ==== Sys2Proof/Machine/Budget.lean ====
section
/-! DEFINITION. Budgets at the Prompter: charges, the budget states, the demand test, budx and bget
(04 R89-R91; 15 R303, R309; 16 R311-R317). -/

namespace Sys2Proof.Machine

/-- Change every context of an entry, wherever it is (16 R315, R323). -/
def State.eachThread (s : State) (entry : Nat) (f : Ctx → Ctx) : State :=
  { s with ctxs := s.ctxs.map fun p => if p.2.entry = some entry then (p.1, f p.2) else p }

/-- An entry's deadline figure as `dl` and `bget` give it (16 R313, 15 R309). -/
def Entry.deadline (e : Entry) : Word :=
  if e.bg || e.demoted then BitVec.allOnes 64 else BitVec.ofNat 64 e.dline

/-- The remainder as a 64-bit signed value. -/
def Entry.figure (e : Entry) : Word := BitVec.ofInt 64 e.remain

/-- Send the remainder and deadline to a cell that holds a thread of the entry (16 R313). -/
def State.sendRefresh (s : State) (n cell : Nat) : State :=
  match tfind s.entries n with
  | none => s
  | some e =>
    let now := s.cyc e.die
    { s with
      refreshes := s.refreshes ++ [(cell, n, e.figure, e.deadline)]
      entries := tset s.entries n { e with refreshed := tset e.refreshed cell now } }

/-- The cells that hold a thread of an entry. -/
def State.cellsOf (s : State) (entry : Nat) : NSet :=
  (s.ctxs.filter fun p => p.2.entry = some entry).foldl (fun l p => nins l p.2.cell) []

/-- Send a refresh to every cell that holds a thread of the entry, on a change of state (16 R313). -/
def State.refreshAll (s : State) (n : Nat) : State := (s.cellsOf n).foldl (fun s c => s.sendRefresh n c) s

/-- Set or clear `tsw.bp` in every thread of the entry (16 R315). -/
def State.setBp (s : State) (n : Nat) (b : Bool) : State := s.eachThread n fun c => { c with bp := b }

/-- Demotion to background (15 R309). -/
def State.demote (s : State) (n : Nat) : State := (s.modEntry n fun e => { e with demoted := true }).refreshAll n

/-- Signal a vector of a partition's function (18 R349). -/
def State.signal (s : State) (part v : Nat) : State := s.modPart part fun p => { p with vectors := v :: p.vectors }

/-- Passage to SPENT (16 R317): demotion of a deadline entry, one BUDGET entry in the fault queue, and the vector. -/
def State.spend (s : State) (n : Nat) (code : Byte) : State :=
  match tfind s.entries n with
  | none => s
  | some e =>
    let s := s.modEntry n fun e => { e with bst := .spent }
    let s := if e.bg ∨ e.demoted then s.refreshAll n else s.demote n
    (s.report e.part (reportHead cBUDGET false 3 0 0 e.die false e.tag) (code.zeroExtend 64) e.figure e.die).signal e.part 0

/-- Reaching 65,536 of the grace count passes the entry to SPENT (16 R317). -/
def State.exhaust (s : State) (n : Nat) : State :=
  match tfind s.entries n with
  | some e => if e.bst = .overrun ∧ 65536 ≤ e.grace ∧ !e.ended then s.spend n 0 else s
  | none => s

/-- Send the entry's figures to the cell that a charge came from, at most once in 1,024 cycles (16 R313). -/
def State.answerCharge (s : State) (e : Entry) (ch : Charge) : State :=
  if 512 ≤ ch.cell then s
  else
    match tfind e.refreshed ch.cell with
    | some t => if t + 1024 ≤ s.cyc e.die then s.sendRefresh ch.entry ch.cell else s
    | none => s.sendRefresh ch.entry ch.cell

/-- Apply one charge (16 R312, R314, R317). -/
def State.applyCharge (s : State) (ch : Charge) : State :=
  match tfind s.entries ch.entry with
  | none => s
  | some e =>
    let e' : Entry :=
      { e with
        remain := e.remain - ch.units, total := e.total + ch.units, rolled := e.rolled + ch.rolled
        grace := if e.bst = .overrun then e.grace + ch.units else e.grace }
    let s := { s with entries := tset s.entries ch.entry e' }
    if e.ended then s
    else if e.bst = .funded ∧ e'.remain ≤ 0 then
      ((s.modEntry ch.entry fun e => { e with bst := .overrun, grace := 0 }).setBp ch.entry true).refreshAll ch.entry
    else (s.answerCharge e ch).exhaust ch.entry

/-- Apply every charge that has arrived at a die's Prompter, in arrival order (16 R312). -/
def State.applyCharges (s : State) (die : Nat) : State :=
  let l := (s.die die).charges
  l.foldl (fun s c => s.applyCharge c) (s.modDie die fun d => { d with charges := [] })

/-! ## The demand test (15 R303) -/

/-- Cells of a partition's rings on a die (R303, C). -/
def State.ringCells (s : State) (part die : Nat) : Nat :=
  8 * (s.leases.filter fun p =>
    match p.2.obj with
    | .ring q r => q = part && p.2.home = die && p.2.alive && r / 16 = die
    | _ => false).length

/-- The partition's unended, undemoted deadline entries on a die: (D, order, remainder, number). -/
def State.demandSet (s : State) (part die : Nat) : List (Nat × Nat × Nat × Nat) :=
  (s.entries.filter fun p => p.2.part = part && p.2.die = die && !p.2.ended && !p.2.demoted && !p.2.bg).map fun p =>
    (p.2.dline, p.2.order, p.2.remain.toNat, p.1)

/-- Insert by (D, order). -/
def insertDemand (x : Nat × Nat × Nat × Nat) : List (Nat × Nat × Nat × Nat) → List (Nat × Nat × Nat × Nat)
  | [] => [x]
  | y :: t => if x.1 < y.1 ∨ (x.1 = y.1 ∧ x.2.1 < y.2.1) then x :: y :: t else y :: insertDemand x t

/-- The loop of R303 from the candidate on: `acc` is the sum of the entries ahead. -/
def demandLoop (cap : Nat) (now : Nat) (who : Nat) (on : Bool) (acc : Int) : List (Nat × Nat × Nat × Nat) → Bool
  | [] => true
  | (d, _, r, k) :: t =>
    let on := on || decide (k = who)
    let acc := acc + r
    if on && decide ((cap : Int) * ((d : Int) - now) < acc * 4096) then false
    else demandLoop cap now who on acc t

/-- Does the demand test accept candidate `who` with deadline `d` and demand `r`? -/
def State.demandOk (s : State) (part die who d order r : Nat) : Bool :=
  let pd := s.pdie part die
  let cap := 32 * s.ringCells part die * pd.share * pd.lf
  let set := (s.demandSet part die).filter fun x => x.2.2.2 ≠ who
  let sorted := (insertDemand (d, order, r, who) set.reverse).foldr insertDemand []
  demandLoop cap (s.ref die) who false 0 sorted

/-! ## budx and bget at the Prompter (04 R90, R91) -/

/-- The code that a budx is answered with, without its effect (R90). -/
def State.budxCode (s : State) (n : Nat) (e : Entry) (xa : Word) : Nat :=
  let lease := match tfind s.leases e.lease with
    | some l => l.alive
    | none => false
  let dead := !e.bg && !e.demoted
  if !lease then 7
  else if xa = 0 then 3
  else if 2 ^ 48 ≤ xa.toNat then 1
  else if dead && decide (e.dline ≤ s.ref e.die) then 2
  else if (s.pdie e.part e.die).share = 0 then 5
  else if dead && !s.demandOk e.part e.die n e.dline e.order (e.remain + xa.toNat).toNat then 1
  else 0

/-- Test a budx once per sequence number and keep the code for the context (R90; 16 R314, R317). -/
def State.performBudx (s : State) (n ctx num : Nat) (xa : Word) : State × Word :=
  match tfind s.entries n with
  | none => (s, status 7)
  | some e =>
    match (s.ctx ctx).budxKept with
    | some (q, v) => if q = num then (s, v) else test s e
    | none => test s e
where
  test (s : State) (e : Entry) : State × Word :=
    let code := s.budxCode n e xa
    let v : Word := if code = 0 then 0 else status code
    let s := s.modCtx ctx fun c => { c with budxKept := some (num, v) }
    if code = 0 then
      let s := s.modEntry n fun e => { e with remain := e.remain + xa.toNat }
      if e.bst ≠ .funded ∧ 0 < e.remain + xa.toNat then
        (((s.modEntry n fun e => { e with bst := .funded }).setBp n false).refreshAll n, v)
      else (s, v)
    else if e.bst = .overrun then (s.spend n (BitVec.ofNat 8 code), v)
    else (s, v)

/-- One figure of an entry (R91). -/
def Entry.bget (e : Entry) (k : BitVec 2) : Word :=
  match k.toNat with
  | 0 => e.figure
  | 1 => BitVec.ofNat 64 e.total
  | 2 => BitVec.ofNat 64 e.rolled
  | _ => e.deadline

/-- Does engine or copy work of the context that a budget reading waits for run on (R90, R91)? -/
def State.engineWork (s : State) (x : Nat) : Bool :=
  (s.ctx x).copies ≠ 0 || s.cells.any fun p => (p.2.mq ++ p.2.cq).any fun o => o.ctx = x

/-- A posted atomic on partition memory: it becomes a remote-update thread (R290). -/
def Packet.isUpdate (p : Packet) : Bool :=
  match p.op, p.target with
  | .amo .., .home (.mem ..) => p.posted
  | _, _ => false

/-- Remote-update threads of a context whose issue is still to come, and matrix commands of it still on their way (04 R91). -/
def State.updatesOf (s : State) (x : Nat) : Bool :=
  (s.packets.any fun p => p.2.ctx = x && p.2.isUpdate && (p.2.st = .travelling || p.2.st = .queued || p.2.st = .combined)) ||
    s.flights.any fun f => f.2.ctx = x && f.2.cap.isSome

end Sys2Proof.Machine
end

