-- ==== Sys2Proof/Machine/Threads.lean ====
section
/-! DEFINITION. The life of a thread context: creation and end, and the end of a queue entry
(01 R16; 04 R82, R85; 09 R203, R210; 15 R308; 17 R326). -/

namespace Sys2Proof.Machine

/-- A thread that takes a slot inherits the bindings of its population that name the slot and whose context has ended
(09 R210). -/
def State.inheritBindings (s : State) (x : Nat) : State :=
  let c := s.ctx x
  { s with leases := s.leases.map fun p =>
      match p.2.obj with
      | .cls cell k slot y =>
        if cell = c.cell ∧ slot = c.slot ∧ p.2.pop = c.entry ∧ (tfind s.ctxs y).isNone
        then (p.1, { p.2 with obj := .cls cell k slot x }) else p
      | _ => p }

/-- Write a new context into the machine and give its number. It takes the messages that its cell stored for the ended thread
whose bindings it inherits (09 R210). -/
def State.newCtx (s : State) (c : Ctx) : State × Nat :=
  let (x, s) := s.takeFresh
  (((s.setCtx x c).inheritBindings x).deliverStore c.cell c.part x, x)

/-- Per-cell quota of an entry (15 R297). -/
def State.quota (s : State) (entry : Option Nat) : Nat :=
  match entry with
  | none => Config.slots
  | some n =>
    match tfind s.entries n with
    | some e => e.q
    | none => 0

/-- The sibling that `spawn` writes (04 R85, 01 R16, 17 R326, R333). -/
def Ctx.sibling (c : Ctx) (slot : Nat) (pc arg : Word) (bud dl : Word) (now : Nat) : Ctx :=
  { cell := c.cell, slot := slot, entry := c.entry, part := c.part, sid := c.sid, tag := c.tag
    x := tset [] 10 arg, pc := pc, pl := c.pl, bud := bud, dl := dl
    t1 := { tvec := c.t1.tvec }, t2 := { tvec := c.t2.tvec }, readySince := now + 1 }

/-- An entry ends when every named cell has been placed and no thread of it is left (15 R308). -/
def State.checkEnd (s : State) (entry : Option Nat) : State :=
  match entry with
  | none => s
  | some n =>
    match tfind s.entries n with
    | none => s
    | some e =>
      if !e.ended && e.cells.all (e.placed.contains ·) && !(s.ctxs.any fun p => p.2.entry = some n)
      then s.modEntry n fun e => { e with ended := true } else s

/-- The `mldb` load that a context has under way is abandoned: K is FREE again (07 R166). -/
def State.abandonLoad (s : State) (x : Nat) : State :=
  { s with cells := s.cells.map fun c =>
      if c.2.latch.loadBy = some x then (c.1, { c.2 with latch := { c.2.latch with kst := .free, loadBy := none } }) else c }

/-- Remove a context from guest slots and wait lists, and abandon its load of the latch. -/
def State.forget (s : State) (x : Nat) : State :=
  let s := s.abandonLoad x
  { s with
    waiters := s.waiters.filter fun w => w.1 ≠ x
    dies := s.dies.map fun d => (d.1, { d.2 with guests := d.2.guests.filter fun g => g.2 ≠ x })
    parts := s.parts.map fun p => (p.1, { p.2 with dies := p.2.dies.map fun d => (d.1, { d.2 with saved := d.2.saved.filter fun a => a.1 ≠ x }) })
    cells := s.cells.map fun c => if c.2.understudy.contains x then (c.1, { c.2 with understudy := c.2.understudy.filter (· ≠ x) }) else c }

/-- The slot of a context that ends: EMPTY from cycle `t` on, and its state code until then (01 R9). Only a context in a slot
leaves one. -/
def State.emptySlot (s : State) (x t : Nat) : State :=
  let c := s.ctx x
  match c.place with
  | .slot | .pantry _ => s.modCell c.cell fun k => { k with emptying := tset k.emptying c.slot (t, c.sst.code) }
  | _ => s

/-- The context ends, and its slot is EMPTY from cycle `t` on (01 R9; 04 R82; 08 R199, kind 0x01). -/
def State.endCtxAt (s : State) (x t : Nat) : State :=
  let e := (s.ctx x).entry
  let s := (s.emptySlot x t).forget x
  { s with ctxs := tdel s.ctxs x }.checkEnd e

/-- The context ends at once. -/
def State.endCtx (s : State) (x : Nat) : State := s.endCtxAt x (s.cyc (dieOfCell (s.ctx x).cell))

end Sys2Proof.Machine
end

