-- ==== Sys2Proof/Machine/Transact.lean ====
section
/-! DEFINITION. Requests at their homes: atomics, barriers, the judgement of capabilities, and the packets that carry a
request there and its reply back (05 R102-R105, R109-R112, R129; 08 R195; 14 R287, R290; 20 R361). -/

namespace Sys2Proof.Machine

/-! ## Atomics (05 R102, R103) -/

/-- Bytes of an atomic's type: 0 `.w`, 1 `.d`, 2 `.f32`. -/
def amoSize (ty : BitVec 2) : Nat := if ty = 1 then 8 else 4

/-- Integer operation of `w` bits. -/
def amoInt (op : BitVec 3) (w : Nat) (old v exp : Nat) : Nat :=
  let a := BitVec.ofNat w old
  let b := BitVec.ofNat w v
  match op.toNat with
  | 0 => (a + b).toNat
  | 1 => if a.slt b then a.toNat else b.toNat
  | 2 => if a.slt b then b.toNat else a.toNat
  | 3 => (a &&& b).toNat
  | 4 => (a ||| b).toNat
  | 5 => (a ^^^ b).toNat
  | 6 => b.toNat
  | _ => if a = BitVec.ofNat w exp then b.toNat else a.toNat

/-- The new word and the flags (R102, R103). -/
def amoNew (op : BitVec 3) (ty : BitVec 2) (old v exp : Nat) : Nat × FFlags :=
  if ty = 2 then
    let b := v % 2 ^ 32
    match op.toNat with
    | 0 => add32 old b
    | 1 => fMinMax .b32 false old b
    | _ => fMinMax .b32 true old b
  else (amoInt op (8 * amoSize ty) old v exp, 0)

/-- The old word as xd receives it: `.w` sign-extended, `.f32` zero-extended (R102). -/
def amoOld (ty : BitVec 2) (old : Nat) : Word :=
  if ty = 0 then (BitVec.ofNat 32 old).signExtend 64 else BitVec.ofNat 64 old

/-- Perform an atomic at its home (R102): the old word as a raw value and the flags. -/
def State.homeAmo (s : State) (l : Loc) (op : BitVec 3) (ty : BitVec 2) (v exp : Word) :
    Except Byte (State × Nat × FFlags) := do
  let n := amoSize ty
  let (s, bs) ← s.homeRead l n
  let old := leNat bs
  let (new, fl) := amoNew op ty old v.toNat exp.toNat
  let s ← s.homeWrite l (leBytes new n)
  return (s, old, fl)

/-! ## Barriers (05 R109-R111) -/

/-- A barrier block. -/
structure Barrier where
  rem   : Nat
  exp   : Nat
  phase : Nat
  ovr  : Bool
  bytes : Nat
  deriving DecidableEq, Repr

def Barrier.ofDwords (a b : Nat) : Barrier :=
  { rem := a % 2 ^ 32, exp := a / 2 ^ 32 % 2 ^ 16, phase := a / 2 ^ 48 % 2 ^ 15, ovr := decide (2 ^ 63 ≤ a), bytes := b % 2 ^ 32 }

def Barrier.dword0 (b : Barrier) : Nat :=
  b.rem + b.exp * 2 ^ 32 + b.phase * 2 ^ 48 + if b.ovr then 2 ^ 63 else 0

/-- An event at a barrier (R111). -/
inductive BarEvent where
  | arrive
  | declare (n : Nat)
  | bytes (n : Nat)
  deriving DecidableEq, Repr

/-- The block after the event and the completion check, and whether BAROVER is reported. -/
def Barrier.event (b : Barrier) (e : BarEvent) : Barrier × Bool :=
  let (b', ovr) : Barrier × Bool := match e with
    | .arrive => if b.rem = 0 then ({ b with ovr := true }, true) else ({ b with rem := b.rem - 1 }, false)
    | .declare n =>
      if 0xFFFF_FFFF < b.bytes + n then ({ b with bytes := 0xFFFF_FFFF, ovr := true }, true)
      else ({ b with bytes := b.bytes + n }, false)
    | .bytes n => if b.bytes < n then ({ b with bytes := 0, ovr := true }, true) else ({ b with bytes := b.bytes - n }, false)
  if b'.rem = 0 ∧ b'.bytes = 0 ∧ (b.rem ≠ 0 ∨ b.bytes ≠ 0) then
    ({ b' with phase := (b'.phase + 1) % 2 ^ 15, rem := b'.exp }, ovr)
  else (b', ovr)

/-- The location `k` bytes on. -/
def Loc.plus (l : Loc) (k : Nat) : Loc :=
  match l with
  | .spad c o => .spad c (o + k)
  | .mem p v => .mem p (v + k)

/-- The address of a location, for a report. -/
def Loc.addr (l : Loc) : Nat :=
  match l with
  | .spad _ o => view0 o
  | .mem _ v => v

/-- One indivisible event at a barrier's home: the block before it, and whether BAROVER is reported. A doubleword that
the event does not change is not written (log 13). -/
def State.homeBarrier (s : State) (l : Loc) (e : BarEvent) : Except Byte (State × Barrier × Bool) := do
  let (s, a) ← s.homeRead l 8
  let (s, b) ← s.homeRead (l.plus 8) 8
  let old := Barrier.ofDwords (leNat a) (leNat b)
  let (new, ovr) := old.event e
  let s ← if new.dword0 = leNat a then .ok s else s.homeWrite l (leBytes new.dword0 8)
  let s ← if new.bytes = old.bytes then .ok s
    else s.homeWrite (l.plus 8) (leBytes (new.bytes + leNat b / 2 ^ 32 * 2 ^ 32) 8)
  return (s, old, ovr)

/-- The phase of a barrier as its home holds it. -/
def State.phaseAt (s : State) (l : Loc) : Except Byte (State × Nat) := do
  let (s, a) ← s.homeRead l 8
  return (s, (Barrier.ofDwords (leNat a) 0).phase)

/-! ## Judging a capability at its home (05 R129 item 6, 08 R195, 14 R287) -/

/-- The lease in force over a location for a capability kind: the latest grant that covers it. -/
def State.leaseOver (s : State) (kind : Nat) (l : Loc) (die : Nat) : Option Lease :=
  let hit (o : LeaseObj) : Bool :=
    match o, l with
    | .sp c b n, .spad cell off => kind = 2 && c = cell && decide (b ≤ off / 4096 ∧ off / 4096 < b + n)
    | .page q v big _, .mem space va => kind = 6 && q = space && decide (v ≤ va ∧ va < v + if big then 0x20_0000 else 0x1_0000)
    | .root p, .mem space _ => kind = 10 && p = partOf space
    | _, _ => false
  (s.leases.filter fun p => hit p.2.obj && (kind ≠ 10 || p.2.home = die)).foldl
    (fun (m : Option Lease) p => match m with
      | some x => if x.order ≤ p.2.order then some p.2 else m
      | none => some p.2) none

/-- Judge generation bits: another generation is GENMIS, the current one of a lapsed lease LAPSED (R195). -/
def judgeGen (g : BitVec 16) (l : Option Lease) : Option Byte :=
  match l with
  | none => some (if g = 0 then cLAPSED else cGENMIS)
  | some x => if x.gen.truncate 16 ≠ g then some cGENMIS else if x.alive then none else some cLAPSED

/-- The checks of a request that carries a capability, at its home; a line homed in another domain is refused XLATE
(14 R288). -/
def State.judgePacket (s : State) (p : Packet) (l : Loc) : Option Byte :=
  match p.gen with
  | none => none
  | some g =>
    match judgeGen g (s.leaseOver p.capKind.toNat l (p.capId / 2)) with
    | some e => some e
    | none =>
      match l with
      | .spad _ _ => none
      | .mem space va =>
        match s.page space va with
        | some q => if q.dom = p.capId then none else some cXLATE
        | none => some cXLATE

/-! ## Performing a packet -/

/-- The issuer of a request. -/
def Packet.issuer (p : Packet) : Issuer :=
  { ctx := p.ctx, part := p.part, cell := p.cell, slot := p.slot, tag := p.tag, word := p.word }

/-- Report BAROVER to the fault queue of the issuer's partition (R111). -/
def State.reportOver (s : State) (p : Packet) (l : Loc) : State :=
  match p.copy with
  | some tag =>
    s.report p.part (reportHead cBAROVER false 1 p.cell p.mailbox (dieOfCell p.cell) false p.tag) (BitVec.ofNat 64 l.addr)
      tag (dieOfCell p.cell)
  | none =>
    s.report p.part (reportHead cBAROVER false 0 p.cell p.slot (dieOfCell p.cell) false p.tag) (BitVec.ofNat 64 l.addr)
      (p.word.zeroExtend 64) (dieOfCell p.cell)

/-- What the request does at a home of the module: the value it returns and its flags. -/
def State.doOp (s : State) (p : Packet) (l : Loc) : Except Byte (State × Word × FFlags) :=
  match p.op with
  | .load n sg => do
    let (s, bs) ← s.homeRead l n
    return (s, extend sg n bs, 0)
  | .store data => do
    let s ← s.homeWrite l data
    return (s, 0, 0)
  | .capst c => do
    let s ← s.homeModify l 16 fun b o => b.writeCap o c
    return (s, 0, 0)
  | .amo op ty v exp => do
    let (s, old, fl) ← s.homeAmo l op ty v exp
    return (s, BitVec.ofNat 64 old, fl)
  | .arrive _ => do
    let (s, b, ovr) ← s.homeBarrier l .arrive
    return (if ovr then s.reportOver p l else s, BitVec.ofNat 64 b.phase, 0)
  | .declare n => do
    let (s, _, ovr) ← s.homeBarrier l (.declare n)
    return (if ovr then s.reportOver p l else s, 0, 0)
  | .bytes n => do
    let (s, _, ovr) ← s.homeBarrier l (.bytes n)
    return (if ovr then s.reportOver p l else s, 0, 0)
  | .take => do
    let (s, bs) ← s.homeRead l 8
    let s ← s.homeSetFull l false
    return (s, extend false 8 bs, 0)
  | .give v => do
    let s ← s.homeWrite l (leBytes v.toNat 8)
    return (s, 0, 0)

/-- The flags of an atomic that found the old word `v` (R103). -/
def PktOp.flagsOn (op : PktOp) (v : Word) : FFlags :=
  match op with
  | .amo op ty x exp => (amoNew op ty (v.toNat % 2 ^ (8 * amoSize ty)) x.toNat exp.toNat).2
  | _ => 0

/-- Perform a request at its home, or refuse it (08 R195). What a host holds is a free value (log 5). -/
def State.perform (s : State) (p : Packet) : State × PktState :=
  match p.target with
  | .home l =>
    match s.judgePacket p l with
    | some e => (s, .refused e)
    | none =>
      match s.doOp p l with
      | .ok (s, v, fl) => (s, .performed v fl)
      | .error e => (s, .refused e)
  | .host _ =>
    let v := Config.freeWord s.free
    ({ s with free := s.free + 1 }, .performed v (p.op.flagsOn v))
  | .peer _ _ => (s, .travelling)

/-! ## The reply to a waiting instruction -/

/-- The result register of a performed request: the bytes of the size, extended; the old word; the phase. -/
def PktOp.resultOf (op : PktOp) (v : Word) : Option Word :=
  match op with
  | .load n sg => some (extend sg n (leBytes v.toNat n))
  | .take => some v
  | .amo _ ty _ _ => some (amoOld ty (v.toNat % 2 ^ (8 * amoSize ty)))
  | .arrive _ => some v
  | _ => none

/-- The cell's own line of a request's location goes back to L2 and is dropped, so that the context's later accesses see
the request (11 R241, Coherence). -/
def State.syncTarget (s : State) (p : Packet) : State :=
  match p.target, tfind s.ctxs p.ctx with
  | .home (.mem space va), some c => if space = c.space then s.l1Sync p.cell c.sid va else s
  | _, _ => s

/-- A reply reaches the instruction that waits for it (R95, R102, R112): the result and flags, or a precise fault. The
reply to `bar.aw` writes xd and `tsw.ap` together and parks the slot past the phase. -/
def State.replyTo (s : State) (p : Packet) (st : PktState) : State :=
  let s := { s.syncTarget p with cur := p.ctx }
  match st with
  | .performed v fl =>
    let s := match p.op.resultOf v with
      | some r => s.wx p.xd r
      | none => s
    let s := s.orFlags fl
    let s := if p.acq then s.acquire s.cur else s
    match p.op, p.target with
    | .arrive true, .home l => (s.mod fun c => { c with ap := true }).park (.phase l v.toNat)
    | _, _ => s.finish
  | .refused code => s.trap code p.ea
  | _ => s

/-- Is the target the requesting cell's own scratchpad, named without a capability? Such a request never leaves the cell. -/
def Packet.inCell (p : Packet) : Bool :=
  match p.target with
  | .home (.spad c _) => c = p.cell && p.gen.isNone
  | _ => false

def Packet.toPeer (p : Packet) : Bool :=
  match p.target with
  | .peer _ _ => true
  | _ => false

/-- Perform a request and give the reply to its instruction in the same step. -/
def State.answer (s : State) (p : Packet) : State :=
  let (s, st) := s.perform p
  s.replyTo p st

/-! ## Routes through the fabric (14 R279, R280)

Endpoints are numbered: domains 0-7, the pantry group of die n 8 + n, external port n 16 + n. The pantry group's output carries the
packed state of threads that migrate (05 R131); requests, those of remote-update threads too, go to their home's domain, beside which
the pantry core lies. -/

/-- The endpoint port where a context's requests enter the fabric: its domain, or the pantry group of the die where it runs. -/
def Ctx.port (c : Ctx) : Nat :=
  match c.place with
  | .pantry core => 8 + core / 16
  | _ => domOfCell c.cell

/-- The domain that homes a request, on the module. -/
def State.domOfTarget (s : State) (t : Target) : Option Nat :=
  match t with
  | .home (.spad c _) => some (domOfCell c)
  | .home (.mem space va) => (s.page space va).map (·.dom)
  | _ => none

/-- The endpoint where a request leaves the fabric: its home's domain, or the external port of a peer. -/
def State.exitOf (s : State) (t : Target) : Option Nat :=
  match t with
  | .peer id _ => some (16 + Config.peerPort id % 8)
  | _ => s.domOfTarget t

/-- The middle switch between an ingress and an egress switch (R280). -/
def middleOf (a b : Nat) : Nat := if b = (a + 2) % 4 then (a + 1) % 4 else b

/-- The die of an endpoint. -/
def dieOfPort (port : Nat) : Nat := if port < 8 then port / 2 else if port < 16 then port - 8 else (port - 16) / 2

/-- The switch outputs on the way from an endpoint to another: stage, die, output. Traffic within a domain enters no switch. -/
def route (port exit_ : Nat) : List (Nat × Nat × Nat) :=
  let a := dieOfPort port
  let b := dieOfPort exit_
  let m := middleOf a b
  if port = exit_ then [] else [(1, a, m), (2, m, b), (3, b, exit_)]

/-- The way of traffic from an endpoint to a target. -/
def State.wayTo (s : State) (port : Nat) (t : Target) : List (Nat × Nat × Nat) :=
  match s.exitOf t with
  | some d => route port d
  | none => []

def State.routeOf (s : State) (p : Packet) : List (Nat × Nat × Nat) := s.wayTo p.port p.target

/-- Does a request wait in a switch queue on a way? Traffic on that way cannot pass it (R280). -/
def State.wayBlocked (s : State) (port : Nat) (t : Target) : Bool :=
  let way := s.wayTo port t
  s.packets.any fun q => q.2.st = .travelling &&
    match q.2.place with
    | some w => way.contains (w.stage, w.die, w.out)
    | none => false

/-- The same for a request. -/
def State.queuedAhead (s : State) (p : Packet) : Bool := s.wayBlocked p.port p.target

/-- Is the context's request at a home already, waiting there (05 R97, R99, R112)? -/
def Ctx.atHome (c : Ctx) : Bool := match c.wait with | .fe .. | .version .. | .phase .. => true | _ => false

/-- Does an access of the acting context to partition memory leave its cell: performed at the home, or missing in L1 (10 R212, R214)? -/
def State.leavesCell (s : State) (va n : Nat) (store home : Bool) : Bool :=
  let c := s.self
  home || c.migrated ||
    match (s.cell c.cell).l1Line c.sid va with
    | some (_, l) => s.readLeaseOver c.cell l || !(store || l.hits c (va % 128) n)
    | none => true

/-- An access that leaves the cell cannot pass a request that waits in a switch on its way: it stays with its slot until the way is
free (R280; log 79: DESIGN CHOICE). -/
def State.fabricWaits (s : State) (ea : Word) (n : Nat) (store home : Bool) : Attempt Unit :=
  let c := s.self
  if region ea == .mem && !c.atHome && s.leavesCell ea.toNat n store home && s.wayBlocked c.port (.home (.mem c.space ea.toNat)) then s.again
  else .ok ()

/-! ## Delivery contexts: the sender end (14 R291) -/

/-- The die of the external port behind which a peer lies (14 R279, R288; log 16). -/
def dieOfPeer (id : Nat) : Nat := Config.peerPort id % 8 / 2

/-- The home number of the egress switch of a die's external ports. -/
def homePort (die : Nat) : Nat := 4092 + die

/-- Is the lease of an end in force? -/
def State.endHeld (s : State) (k : Nat) : Bool := s.leases.any fun p => p.2.obj = .delivery k && p.2.alive

/-- A packet passes an end: its lease runs 4,096 ticks of its own die from now. -/
def State.touchEnd (s : State) (k : Nat) (e : DEnd) : State :=
  { s with
    ends := tset s.ends k { e with lastAt := s.ref e.die }
    leases := s.leases.map fun p =>
      if p.2.obj = .delivery k && p.2.alive then (p.1, { p.2 with expiry := s.ref e.die + 4096 }) else p }

/-- A new end with its lease. -/
def State.addEnd (s : State) (sender : Bool) (peer : Nat) (num : Option Nat) (part : Nat) : State × Nat × DEnd :=
  let (k, s) := s.takeFresh
  let die := dieOfPeer peer
  let e : DEnd := { sender := sender, peer := peer, num := num.getD (k % 2 ^ 24), die := die, lastAt := s.ref die }
  let l : Lease := { home := homePort die, index := k, obj := .delivery k, gen := 1, st := .held, part := part, expiry := s.ref die + 4096 }
  ({ s with ends := tset s.ends k e, leases := tset s.leases (tnext s.leases) l }, k, e)

/-- The sender end for a peer: the one in force, or a new one. -/
def State.senderFor (s : State) (peer part : Nat) : State × Nat × DEnd :=
  match s.ends.find? fun (e : Nat × DEnd) => e.2.sender && e.2.peer = peer && s.endHeld e.1 with
  | some (k, e) => (s, k, e)
  | none => s.addEnd true peer none part

/-- A request to a peer leaves through its external port, with the next sequence number of its delivery context. -/
def State.sendPeer (s : State) (n : Nat) (p : Packet) : State :=
  match p.target with
  | .peer id _ =>
    let (s, k, e) := s.senderFor id p.part
    ({ s with packets := tset s.packets n { p with place := none, sent := true } }.touchEnd k
      { e with seq := e.seq + 1, unanswered := tset e.unanswered e.seq (n, 0, s.ref e.die) })
  | _ => s

/-- A request leaves its cell. One to a peer goes on through its external port at once, unless it is held or another waits on its way
(R279, R280). -/
def State.launch (s : State) (p : Packet) (held : Bool) : State × Nat :=
  let (n, s) := s.takeFresh
  let s := { s with packets := tset s.packets n p }
  (if p.toPeer && !held && !s.queuedAhead p then s.sendPeer n p else s, n)

/-- Send a request whose reply the instruction waits for: performed at once, or left in flight (log 10). A request to
a peer is always in flight, and so is one that another waits ahead of. -/
def State.submit (s : State) (p : Packet) : State :=
  if p.inCell then s.answer p
  else
    let (held, s) := s.takeHold
    if held || p.toPeer || s.queuedAhead p then
      let (s, n) := s.launch p held
      s.stall (.access n)
    else s.answer p

/-! ## Posted operations (R104, R105) -/

/-- Destination class of a domain from a cell: 3 own, 0 the die's other domain, 1 another die (R104). -/
def classOfDom (cell dom : Nat) : Nat :=
  if dom = domOfCell cell then 3 else if dieOfDom dom = dieOfCell cell then 0 else 1

/-- Destination class of partition memory: the page's home domain; the own domain for a region without a home
(17 R334). -/
def State.classOfMem (s : State) (cell space va : Nat) : Nat :=
  match s.page space va with
  | some p => classOfDom cell p.dom
  | none => 3

/-- Destination class of a capability's id (14 R287). -/
def classOfId (cell id : Nat) : Nat := if id < 8 then classOfDom cell id else 2

/-- Post an operation: its count rises and it leaves the cell. -/
def State.post (s : State) (p : Packet) : State :=
  (s.launch { p with posted := true } false).1.modCtx p.ctx fun c => c.bumpPst p.cls true

/-- The pantry core beside a page (14 R289). -/
def Page.core (p : Page) : Nat := p.die * 16 + p.cg

/-- May another remote-update thread leave the cell: has the core's queue of 64 a place for it and for those on their way
(14 R290)? -/
def State.coreRoom (s : State) (core : Nat) : Bool :=
  decide ((s.packets.filter fun p =>
    match p.2.op, p.2.target with
    | .amo .., .home (.mem space va) =>
      p.2.posted && (p.2.st = .travelling || p.2.st = .queued) && (s.page space va).map (·.core) = some core
    | _, _ => false).length < 64)

/-- A posted operation is acknowledged: flags go to `mfl` and the count falls (R103, R104). A deferred one was not counted
(13 R265). -/
def State.ackPosted (s : State) (n : Nat) (p : Packet) (fl : FFlags) : State :=
  let s := { s.syncTarget p with packets := tdel s.packets n }
  match tfind s.ctxs p.ctx with
  | some _ =>
    s.modCtx p.ctx fun c =>
      let c := if p.stamp.isSome then c else c.bumpPst p.cls false
      { c with mfl := c.mfl ||| fl }
  | none => s

/-- Does the report of a refused posted operation wait in a store of generated messages (R343; 09 R378)? -/
def State.reportStored (s : State) (n : Nat) : Bool := s.cells.any fun c => c.2.gstore.any fun f => f.pkt = some n

/-- The count of a refused posted operation falls (R343). A deferred one was not counted. -/
def State.endRefused (s : State) (n : Nat) (p : Packet) : State :=
  let s := { s with packets := tdel s.packets n }
  match tfind s.ctxs p.ctx with
  | some _ => if p.stamp.isSome then s else s.modCtx p.ctx fun c => c.bumpPst p.cls false
  | none => s

/-- A refused posted operation is reported (18 R343; 05 R96; 20 R361). The report of a deferred one carries its stamp (13 R277). -/
def State.refusePosted (s : State) (n : Nat) (p : Packet) (code : Byte) : State :=
  let mark := if p.stamp.isSome then none else some p.cls
  { s with packets := tset s.packets n { p with st := .reported } }.reportDrop p.issuer code 0 mark false p.ea
    (p.stamp.getD (p.word.zeroExtend 64)) (some n)

end Sys2Proof.Machine
end

