-- ==== Sys2Proof/Machine/Book.lean ====
section
/-! DEFINITION. The prompt book: its records and entries as the scratchpad holds them, its room, and what happens to an
instruction's writes in optimistic mode (07 R184, R187; 13 R265-R268, R380). -/

namespace Sys2Proof.Machine

/-! ## Keys and stamps (13 R264) -/

/-- Order of two sequence numbers (07 R180). -/
def seqBelow (a b : BitVec 32) : Bool := decide (1 ≤ (b - a).toNat ∧ (b - a).toNat < 2 ^ 31)

/-- Order of keys: VRT, then source cell, then sequence number (13 R264). -/
def Key.below (a b : Key) : Bool :=
  decide (a.vrt < b.vrt) ||
    (a.vrt == b.vrt && (decide (a.scell < b.scell) || (a.scell == b.scell && seqBelow a.seq b.seq)))

/-- The key of a message: its VRT, source cell and sequence number. -/
def Msg.key (m : Msg) : Key :=
  { vrt := m.d1.toNat % 2 ^ 48, scell := m.hdr.toNat / 2 ^ 17 % 512, seq := (m.hdr >>> 32).truncate 32 }

/-- A stamp (05, Versioned memory). -/
def stampOf (vrt ord : Nat) : Word := BitVec.ofNat 64 (vrt * 2 ^ 16 + ord)

/-- The GVT of a quiescent group (13 R276). -/
def quiescentGvt : Nat := 0xFFFF_FFFF_FFFF

/-- Does a stamp lie below a virtual time (13 R264)? Every stamp lies below the quiescent value (13 R276). -/
def stampBelow (s : Word) (g : Nat) : Bool := g == quiescentGvt || decide (s.toNat / 2 ^ 16 < g)

/-! ## Sizes (13 R266, R380) -/

def Packet.bookSize (p : Packet) : Nat :=
  match p.op with
  | .store d => if d.length = 64 then 96 else 32
  | _ => 32

def Deferred.size : Deferred → Nat
  | .op _ _ p => p.bookSize
  | .vsct _ l => 32 * l.length
  | .snd _ _ _ => 64
  | .copy _ _ => 128

def BookEntry.size : BookEntry → Nat
  | .ckpt _ _ n => 64 + n
  | .sent _ _ => 32
  | .deferred d => d.size
  | .performed n => n

/-- The fixed part of a record. -/
def Record.fixed (r : Record) : Nat := if r.event then 384 else 64

def Record.size (r : Record) : Nat := r.fixed + (r.entries.map BookEntry.size).sum

/-- Bytes of the ring in use. -/
def Member.used (m : Member) : Nat := (m.records.map Record.size).sum

/-! ## The bytes of the ring -/

/-- Write bytes at a ring offset, wrapping at the end of the ring (13 R266). -/
def State.bookWrite (s : State) (cell : Nat) (m : Member) (pos : Nat) (bs : List Byte) : State :=
  let p := if m.size = 0 then 0 else pos % m.size
  let n := min bs.length (m.size - p)
  s.modCell cell fun c =>
    { c with spad := (c.spad.write (m.pbase + p) (bs.take n)).write m.pbase (bs.drop n) }

def word8 (w : Word) : List Byte := leBytes w.toNat 8

def Msg.bytes (m : Msg) : List Byte := word8 m.hdr ++ word8 m.d1 ++ word8 m.d2 ++ word8 m.d3

/-- Counts of a record: ckpt bytes, logged sends, deferred entries. -/
def Record.ckptBytes (r : Record) : Nat :=
  (r.entries.map fun e => match e with | .ckpt _ _ n => n | _ => 0).sum
def Record.logged (r : Record) : Nat := (r.entries.filter fun e => match e with | .sent _ _ => true | _ => false).length
def Record.deferredCount (r : Record) : Nat :=
  (r.entries.filter fun e => match e with | .deferred _ => true | .performed _ => true | _ => false).length

/-- The fixed part of a record as bytes (13 R266, R380). -/
def Record.head (r : Record) : List Byte :=
  if r.event then
    word8 r.pc ++ ((List.range 31).flatMap fun k => word8 (tget 0 r.xs (k + 1)))
      ++ ((List.range 7).flatMap fun k => word8 (tget 0 r.ps (k + 1)))
      ++ leBytes r.olvt.toNat 8 ++ r.q.msg.bytes
      ++ leBytes r.ord 2 ++ leBytes r.ckptBytes 2 ++ leBytes r.logged 2 ++ leBytes r.deferredCount 2 ++ leBytes 0 24
  else word8 r.stamp ++ leBytes r.deferredCount 2 ++ leBytes 0 54

/-- `n` doublewords that the spec gives no layout for: free values (log 14). -/
def State.freeBytes (s : State) (n : Nat) : State × List Byte :=
  ({ s with free := s.free + n }, (List.range n).flatMap fun k => word8 (Config.freeWord (s.free + k)))

/-- The bytes of an entry: a ckpt area and a logged send have a layout; a deferred entry's is not given. -/
def State.entryBytes (s : State) (e : BookEntry) : State × List Byte :=
  match e with
  | .ckpt off b n => (s, word8 (BitVec.ofNat 64 (view0 off)) ++ word8 (BitVec.ofNat 64 n) ++ leBytes 0 48 ++ mgetBytes b.bytes off n)
  | .sent _ m => (s, m.bytes)
  | .deferred d => s.freeBytes (d.size / 8)
  | .performed _ => (s, [])

/-! ## Adding to the book -/

/-- The room rule (13 R267): wait for GVT, or fault VFULL when the slot itself holds it back. -/
def State.noRoom {α : Type} (s : State) : Attempt α :=
  if s.self.lvt = s.self.gvt then s.raise cVFULL 0 else s.again

/-- Is there room for `n` more bytes? -/
def Member.room (m : Member) (n : Nat) : Bool := decide (m.used + n ≤ m.size)

/-- Start a record at the tail (13 R266). -/
def State.addRecord (s : State) (m : Member) (r : Record) : State :=
  let c := s.self
  let r := { r with pos := m.tail }
  let m' : Member :=
    { m with records := m.records ++ [r], tail := if m.size = 0 then 0 else (m.tail + r.fixed) % m.size }
  (s.bookWrite c.cell m r.pos r.head).mod fun c => { c with member := some m' }

/-- Add an entry to the last record and bring its head up to date. -/
def State.addEntry (s : State) (m : Member) (e : BookEntry) : State :=
  match m.records.reverse with
  | [] => s
  | r :: rs =>
    let c := s.self
    let (s, bs) := s.entryBytes e
    let r' : Record := { r with entries := r.entries ++ [e] }
    let m' : Member :=
      { m with records := (r' :: rs).reverse, tail := if m.size = 0 then 0 else (m.tail + e.size) % m.size }
    let s := s.bookWrite c.cell m m.tail bs
    (s.bookWrite c.cell m r'.pos r'.head).mod fun c => { c with member := some m' }

/-- Add an entry to the current event's record, under the room rule. -/
def State.logEntry (s : State) (e : BookEntry) : Attempt State :=
  match s.self.member with
  | none => .ok s
  | some m => if m.room e.size then .ok (s.addEntry m e) else s.noRoom

/-- Write a deferred action into the book: into the event's record, or into a between-events record (13 R265, R380). -/
def State.deferAction (s : State) (d : Deferred) : Attempt State :=
  match s.self.member with
  | none => .ok s
  | some m =>
    if m.inEvent then s.logEntry (.deferred d)
    else
      let st := stampOf s.self.lvt.toNat 0xFFFF
      let shared := match m.records.getLast? with
        | some r => !r.event && r.stamp == st
        | none => false
      if shared then s.logEntry (.deferred d)
      else if m.room (64 + d.size) then
        (s.addRecord m { event := false, stamp := st }).logEntry (.deferred d)
      else s.noRoom

/-! ## What happens to a write (13 R265; 07 R187) -/

/-- The ckpt areas of the current event. -/
def Member.areas (m : Member) : List (Nat × Nat) :=
  if m.inEvent then
    match m.records.getLast? with
    | some r => r.entries.filterMap fun e => match e with | .ckpt off _ n => some (off, n) | _ => none
    | none => []
  else []

/-- Does a ckpt range of the current event hold every byte of the raw range? -/
def Member.checkpointed (m : Member) (off n : Nat) : Bool :=
  (unitsOf 64 off n).all fun g => m.areas.any fun a => decide (a.1 ≤ 64 * g ∧ 64 * g + 64 ≤ a.1 + a.2)

/-- Is a write of `n` bytes at `ea` performed now? Outside optimistic mode it is; in it, a store to the scratchpad is
performed inside a ckpt range or in the rollback handler, and a store to partition memory is deferred, or ILL in the
handler. Stores to the control page, like `inv`, `wb`, `wbinv` and `pf`, stand in no row of 13 R265 and are performed at once
(log 94: DESIGN CHOICE). -/
def State.writeNow (s : State) (ea : Word) (n : Nat) : Attempt Bool :=
  match s.self.member with
  | none => .ok true
  | some m =>
    match region ea with
    | .view w off =>
      let (lo, len) := viewSpan w off n
      .ok (m.handler || m.checkpointed lo len)
    | .mem => if m.handler then s.raise cILL 0 else .ok false
    | _ => .ok true

/-- The view of a scratchpad address, 0 elsewhere. -/
def viewOf (ea : Word) : Nat :=
  match region ea with
  | .view w _ => w
  | _ => 0

/-- A request of the acting context for a local address. -/
def State.localPacket (s : State) (ea : Word) (op : PktOp) : Packet :=
  let c := s.self
  { ctx := s.cur, part := c.part, tag := c.tag, cell := c.cell, slot := c.slot, word := c.word, entry := c.entry, port := c.port
    target := .home (s.locOf ea), op := op, posted := false, ea := ea }

end Sys2Proof.Machine
end

