-- ==== Sys2Proof/Machine/CellPage.lean ====
section
/-! DEFINITION. The cell control page: rotation, split and slot status (01 R13, R24-R26). -/

namespace Sys2Proof.Machine

/-- The value of `cctl` (R24). -/
def Cell.cctl (c : Cell) : Word :=
  bit c.rot 0 ||| BitVec.ofNat 64 (c.spsz.toNat * 2) ||| bit c.spx 3 ||| bit c.sprf 4 ||| bit c.rotp 5

/-- Is copy work present in the cell (R12, R26)? -/
def Cell.copyWork (c : Cell) : Bool := !c.mboxes.isEmpty || !c.runs.isEmpty

/-- The state of a context in its slot: one that will be READY in a later cycle keeps its state until then (R9). -/
def Ctx.slotState (c : Ctx) (now : Nat) : SlotSt := if c.sst = .ready ∧ now < c.readySince then c.shown else c.sst

/-- The state code of a slot (R9, R26): a migrated thread's slot stays STALLED (05 R131); a slot whose thread ended by `halt` in
this cycle is EMPTY from the next one (R9). -/
def State.slotCode (s : State) (cell slot : Nat) : Nat :=
  if slot = 15 then (if (s.cell cell).copyWork then 1 else 0)
  else match s.inSlot cell slot with
    | none =>
      match tfind (s.cell cell).emptying slot with
      | some (t, k) => if s.cyc (dieOfCell cell) < t then k else 0
      | none => 0
    | some x =>
      match (s.ctx x).place with
      | .pantry _ => 2
      | _ => ((s.ctx x).slotState (s.cyc (dieOfCell cell))).code

/-- The value of `cslst` (R26). -/
def State.cslst (s : State) (cell : Nat) : Word :=
  BitVec.ofNat 64 (((List.range 16).map fun k => s.slotCode cell k * 8 ^ k).sum)

/-- A write of `cctl.rot` (R13). -/
def State.writeRot (s : State) (cell : Nat) (rot : Bool) : State :=
  let now := s.cyc (dieOfCell cell)
  s.modCell cell fun c =>
    if rot = c.mode then { c with rot := rot, rotp := false }
    else if c.rotp then { c with rot := rot }
    else { c with rot := rot, rotp := true, rotAt := (now + 16) / 16 * 16 }

/-- The pending rotation mode takes effect at its boundary (R13). -/
def State.rotBoundary (s : State) (cell : Nat) : State :=
  let now := s.cyc (dieOfCell cell)
  s.modCell cell fun c =>
    if c.rotp && decide (c.rotAt ≤ now) then { c with mode := c.rot, rotp := false } else c

/-- Does a scratchpad range lease cover bytes at or beyond the size (R25 item 2)? -/
def State.spBeyond (s : State) (cell size : Nat) : Bool :=
  s.leases.any fun p =>
    match p.2.obj with
    | .sp c b n => c = cell && p.2.st ≠ .lapsed && decide (size < (b + n) * 4096)
    | _ => false

/-- Entries held back for scratchpad data try the cell again when its split changes (15 R307). -/
def State.retryData (s : State) (cell : Nat) : State :=
  { s with entries := s.entries.map fun p => (p.1, { p.2 with heldBack := p.2.heldBack.filter fun h => h ≠ (cell, true) }) }

/-- A write of `cctl.spsz` (R25). The L1 line at place k lies at array bytes from the top down (log 12). -/
def State.writeSplit (s : State) (cell : Nat) (spsz : BitVec 2) : State :=
  let c := s.cell cell
  let old := c.spadSize
  let new := (spsz.toNat + 1) * 0x4_0000
  if c.spx then s.modCell cell fun c => { c with sprf := true }
  else if spsz = c.spsz then s
  else if s.spBeyond cell new then s.modCell cell fun c => { c with sprf := true }
  else
    let passing := c.l1.filter fun p => decide ((0x24_0000 - new) / 128 ≤ p.1)
    let dirty := (passing.filter fun p => p.2.dirty ≠ 0).length
    let s := passing.foldl (fun s p => s.l1Flush cell p.1) s
    let moved := if old < new then new - old else old - new
    let now := s.cyc (dieOfCell cell)
    (s.modCell cell fun c =>
      { c with
        spsz := spsz, spx := true, spxEnd := now + (moved + 63) / 64 + 2 * dirty
        spad := c.spad.clear (min old new) moved }).retryData cell

/-- The end of a split change (R25 item 5). -/
def State.splitDone (s : State) (cell : Nat) : State :=
  let now := s.cyc (dieOfCell cell)
  s.modCell cell fun c => if c.spx && decide (c.spxEnd ≤ now) then { c with spx := false } else c

/-- A write of `cctl.sprf`: a 1 clears the flag (R24). -/
def State.clearSprf (s : State) (cell : Nat) : State := s.modCell cell fun c => { c with sprf := false }

/-- Read a register of the page; other offsets are reserved (R26). -/
def State.readPage (s : State) (cell off : Nat) : Word :=
  if off = 0 then (s.cell cell).cctl else if off = 8 then s.cslst cell else 0

/-- Write a register of the page. -/
def State.writePage (s : State) (cell off : Nat) (v : Word) : State :=
  if off = 0 then
    let s := if v.getLsbD 4 then s.clearSprf cell else s
    let s := if v.getLsbD 0 ≠ (s.cell cell).rot then s.writeRot cell (v.getLsbD 0) else s
    s.writeSplit cell ((v >>> 1).truncate 2)
  else s

end Sys2Proof.Machine
end

