-- ==== Sys2Proof/Machine/Scalar.lean ====
section
/-! DEFINITION. Integer operations, immediates, branches and jumps (04 R64-R75). -/

namespace Sys2Proof.Machine

/-! ## The values -/

/-- 1 or 0. -/
def flag64 (b : Bool) : Word := if b then 1 else 0

/-- The shift count: bits [5:0] (R66). -/
def shiftCount (b : Word) : Nat := b.toNat % 64

/-- High 64 bits of the exact signed product (R65). -/
def mulHigh (a b : Word) : Word := BitVec.ofInt 64 (a.toInt * b.toInt / 2 ^ 64)

/-- High 64 bits of the exact unsigned product (R65). -/
def mulHighU (a b : Word) : Word := BitVec.ofNat 64 (a.toNat * b.toNat / 2 ^ 64)

/-- Signed quotient toward zero; -1 for a zero divisor (R67). -/
def divS (a b : Word) : Word := if b = 0 then BitVec.allOnes 64 else BitVec.ofInt 64 (a.toInt.tdiv b.toInt)

/-- Unsigned quotient; all ones for a zero divisor (R67). -/
def divU (a b : Word) : Word := if b = 0 then BitVec.allOnes 64 else a / b

/-- Signed remainder with the sign of the dividend; the dividend for a zero divisor (R67). -/
def remS (a b : Word) : Word := if b = 0 then a else BitVec.ofInt 64 (a.toInt.tmod b.toInt)

/-- Unsigned remainder; the dividend for a zero divisor (R67). -/
def remU (a b : Word) : Word := if b = 0 then a else a % b

/-- Leading zero bits, 64 for zero (R65). -/
def countLead (a : Word) : Nat := 64 - bitLen a.toNat

/-- Trailing zero bits among the low `n`. -/
def trailFrom (a : Word) : Nat → Nat → Nat
  | 0, k => k
  | n + 1, k => if a.getLsbD k then k else trailFrom a n (k + 1)

/-- Trailing zero bits, 64 for zero (R65). -/
def countTrail (a : Word) : Nat := trailFrom a 64 0

/-- One bits among the low `n` (R65; 06 R153). -/
def countOnes (a : Word) : Nat → Nat
  | 0 => 0
  | n + 1 => countOnes a n + (a.getLsbD n).toNat

/-- Position and length of a bit field (R68). -/
def fieldPos (b : Word) : Nat := b.toNat % 64
def fieldLen (b : Word) : Nat := min (min (b.toNat / 256 % 128) 64) (64 - fieldPos b)
def fieldMask (b : Word) : Word := BitVec.ofNat 64 (2 ^ fieldLen b - 1)

/-- Extract a field (R68). -/
def bfxVal (a b : Word) : Word := (a >>> fieldPos b) &&& fieldMask b

/-- Insert a field (R68). -/
def bfiVal (d a b : Word) : Word :=
  (d &&& ~~~(fieldMask b <<< fieldPos b)) ||| ((a &&& fieldMask b) <<< fieldPos b)

/-- Width of sext and zext by its code (R69). -/
def extWidth (w : BitVec 2) : Nat := if w = 0 then 8 else if w = 1 then 16 else 32

/-- Sign extension from a width (R69). -/
def sextVal (a : Word) (w : Nat) : Word := BitVec.ofInt 64 ((BitVec.ofNat w a.toNat).toInt)

/-- Zero extension from a width (R69). -/
def zextVal (a : Word) (w : Nat) : Word := BitVec.ofNat 64 (a.toNat % 2 ^ w)

/-- A sign-extended 16-bit immediate (03 R48). -/
def imm64 (i : BitVec 16) : Word := i.signExtend 64

/-- A word offset from the instruction's own address (03 R48). -/
def pcOffset {n : Nat} (pc : Word) (o : BitVec n) : Word := pc + 4 * o.signExtend 64

/-! ## The common shape: write xd and go on (R63) -/

/-- Complete with a result in xd. -/
def State.result {n : Nat} (s : State) (d : BitVec n) (v : Word) : Host.Outcome State Fault Refusal :=
  .next (s.wx d v).finish

/-- Branch or go on (R73). -/
def State.branchIf (s : State) (c : Bool) (o : BitVec 16) : Host.Outcome State Fault Refusal :=
  .next (s.finishAt (if c then pcOffset s.self.pc o else s.self.pc + 4))

/-! ## Register operations (R65-R69) -/

/-- Writes xa + xb, wrapping (R65). -/
def execAdd (d a b : BitVec 5) (s : State) : Host.Outcome State Fault Refusal :=
  s.result d ((s.rx a) + (s.rx b))

/-- Writes xa - xb, wrapping (R65). -/
def execSub (d a b : BitVec 5) (s : State) : Host.Outcome State Fault Refusal :=
  s.result d ((s.rx a) - (s.rx b))

/-- Bitwise AND (R65). -/
def execAnd (d a b : BitVec 5) (s : State) : Host.Outcome State Fault Refusal :=
  s.result d ((s.rx a) &&& (s.rx b))

/-- Bitwise OR (R65). -/
def execOr (d a b : BitVec 5) (s : State) : Host.Outcome State Fault Refusal :=
  s.result d ((s.rx a) ||| (s.rx b))

/-- Bitwise XOR (R65). -/
def execXor (d a b : BitVec 5) (s : State) : Host.Outcome State Fault Refusal :=
  s.result d ((s.rx a) ^^^ (s.rx b))

/-- Shift left (R66). -/
def execShl (d a b : BitVec 5) (s : State) : Host.Outcome State Fault Refusal :=
  s.result d ((s.rx a) <<< shiftCount (s.rx b))

/-- Shift right, zero fill (R66). -/
def execShr (d a b : BitVec 5) (s : State) : Host.Outcome State Fault Refusal :=
  s.result d ((s.rx a) >>> shiftCount (s.rx b))

/-- Shift right, sign fill (R66). -/
def execSra (d a b : BitVec 5) (s : State) : Host.Outcome State Fault Refusal :=
  s.result d ((s.rx a).sshiftRight (shiftCount (s.rx b)))

/-- Signed below (R65). -/
def execSlt (d a b : BitVec 5) (s : State) : Host.Outcome State Fault Refusal :=
  s.result d (flag64 ((s.rx a).slt (s.rx b)))

/-- Unsigned below (R65). -/
def execSltu (d a b : BitVec 5) (s : State) : Host.Outcome State Fault Refusal :=
  s.result d (flag64 ((s.rx a).ult (s.rx b)))

/-- Signed minimum (R65). -/
def execMin (d a b : BitVec 5) (s : State) : Host.Outcome State Fault Refusal :=
  s.result d (if (s.rx a).slt (s.rx b) then (s.rx a) else (s.rx b))

/-- Signed maximum (R65). -/
def execMax (d a b : BitVec 5) (s : State) : Host.Outcome State Fault Refusal :=
  s.result d (if (s.rx a).slt (s.rx b) then (s.rx b) else (s.rx a))

/-- Unsigned minimum (R65). -/
def execMinu (d a b : BitVec 5) (s : State) : Host.Outcome State Fault Refusal :=
  s.result d (if (s.rx a).ult (s.rx b) then (s.rx a) else (s.rx b))

/-- Unsigned maximum (R65). -/
def execMaxu (d a b : BitVec 5) (s : State) : Host.Outcome State Fault Refusal :=
  s.result d (if (s.rx a).ult (s.rx b) then (s.rx b) else (s.rx a))

/-- Low 64 bits of the product (R65). -/
def execMul (d a b : BitVec 5) (s : State) : Host.Outcome State Fault Refusal :=
  s.result d ((s.rx a) * (s.rx b))

/-- High half, signed (R65). -/
def execMulh (d a b : BitVec 5) (s : State) : Host.Outcome State Fault Refusal :=
  s.result d (mulHigh (s.rx a) (s.rx b))

/-- High half, unsigned (R65). -/
def execMulhu (d a b : BitVec 5) (s : State) : Host.Outcome State Fault Refusal :=
  s.result d (mulHighU (s.rx a) (s.rx b))

/-- Signed quotient (R67). -/
def execDiv (d a b : BitVec 5) (s : State) : Host.Outcome State Fault Refusal :=
  s.result d (divS (s.rx a) (s.rx b))

/-- Unsigned quotient (R67). -/
def execDivu (d a b : BitVec 5) (s : State) : Host.Outcome State Fault Refusal :=
  s.result d (divU (s.rx a) (s.rx b))

/-- Signed remainder (R67). -/
def execRem (d a b : BitVec 5) (s : State) : Host.Outcome State Fault Refusal :=
  s.result d (remS (s.rx a) (s.rx b))

/-- Unsigned remainder (R67). -/
def execRemu (d a b : BitVec 5) (s : State) : Host.Outcome State Fault Refusal :=
  s.result d (remU (s.rx a) (s.rx b))

/-- Bit field extract (R68). -/
def execBfx (d a b : BitVec 5) (s : State) : Host.Outcome State Fault Refusal :=
  s.result d (bfxVal (s.rx a) (s.rx b))

/-- Bit field insert (R68). -/
def execBfi (d a b : BitVec 5) (s : State) : Host.Outcome State Fault Refusal :=
  s.result d (bfiVal (s.rx d) (s.rx a) (s.rx b))

/-- Leading zeros (R65). -/
def execClz (d a : BitVec 5) (s : State) : Host.Outcome State Fault Refusal :=
  s.result d (BitVec.ofNat 64 (countLead (s.rx a)))

/-- Trailing zeros (R65). -/
def execCtz (d a : BitVec 5) (s : State) : Host.Outcome State Fault Refusal :=
  s.result d (BitVec.ofNat 64 (countTrail (s.rx a)))

/-- One bits (R65). -/
def execPopc (d a : BitVec 5) (s : State) : Host.Outcome State Fault Refusal :=
  s.result d (BitVec.ofNat 64 (countOnes (s.rx a) 64))

/-- Sign extension from 8, 16 or 32 bits (R69). -/
def execSext (d a : BitVec 5) (w : BitVec 2) (s : State) : Host.Outcome State Fault Refusal :=
  s.result d (sextVal (s.rx a) (extWidth w))

/-- Zero extension from 8, 16 or 32 bits (R69). -/
def execZext (d a : BitVec 5) (w : BitVec 2) (s : State) : Host.Outcome State Fault Refusal :=
  s.result d (zextVal (s.rx a) (extWidth w))

/-! ## Immediate operations (R70-R72) -/

/-- Add immediate (R70). -/
def execAddi (d a : BitVec 5) (i : BitVec 16) (s : State) : Host.Outcome State Fault Refusal :=
  s.result d (s.rx a + imm64 i)

/-- AND immediate (R70). -/
def execAndi (d a : BitVec 5) (i : BitVec 16) (s : State) : Host.Outcome State Fault Refusal :=
  s.result d (s.rx a &&& imm64 i)

/-- OR immediate (R70). -/
def execOri (d a : BitVec 5) (i : BitVec 16) (s : State) : Host.Outcome State Fault Refusal :=
  s.result d (s.rx a ||| imm64 i)

/-- XOR immediate (R70). -/
def execXori (d a : BitVec 5) (i : BitVec 16) (s : State) : Host.Outcome State Fault Refusal :=
  s.result d (s.rx a ^^^ imm64 i)

/-- Signed below an immediate (R70). -/
def execSlti (d a : BitVec 5) (i : BitVec 16) (s : State) : Host.Outcome State Fault Refusal :=
  s.result d (flag64 ((s.rx a).slt (imm64 i)))

/-- Shift left by an immediate (R71). -/
def execShli (d a : BitVec 5) (n : BitVec 6) (s : State) : Host.Outcome State Fault Refusal :=
  s.result d (s.rx a <<< n.toNat)

/-- Shift right, zero fill, by an immediate (R71). -/
def execShri (d a : BitVec 5) (n : BitVec 6) (s : State) : Host.Outcome State Fault Refusal :=
  s.result d (s.rx a >>> n.toNat)

/-- Shift right, sign fill, by an immediate (R71). -/
def execSrai (d a : BitVec 5) (n : BitVec 6) (s : State) : Host.Outcome State Fault Refusal :=
  s.result d ((s.rx a).sshiftRight n.toNat)

/-- Load upper immediate (R72). -/
def execLui (d : BitVec 5) (i : BitVec 16) (s : State) : Host.Outcome State Fault Refusal :=
  s.result d (imm64 i <<< 16)

/-- pc plus four times the immediate (R72). -/
def execAddpc (d : BitVec 5) (i : BitVec 16) (s : State) : Host.Outcome State Fault Refusal :=
  s.result d (pcOffset s.self.pc i)

/-! ## Branches and jumps (R73-R75) -/

/-- Branch when equal (R73). -/
def execBeq (a b : BitVec 5) (o : BitVec 16) (s : State) : Host.Outcome State Fault Refusal :=
  s.branchIf (s.rx a == s.rx b) o

/-- Branch when different (R73). -/
def execBne (a b : BitVec 5) (o : BitVec 16) (s : State) : Host.Outcome State Fault Refusal :=
  s.branchIf (s.rx a != s.rx b) o

/-- Branch when below, signed (R73). -/
def execBlt (a b : BitVec 5) (o : BitVec 16) (s : State) : Host.Outcome State Fault Refusal :=
  s.branchIf ((s.rx a).slt (s.rx b)) o

/-- Branch when not below, signed (R73). -/
def execBge (a b : BitVec 5) (o : BitVec 16) (s : State) : Host.Outcome State Fault Refusal :=
  s.branchIf (!(s.rx a).slt (s.rx b)) o

/-- Branch when below, unsigned (R73). -/
def execBltu (a b : BitVec 5) (o : BitVec 16) (s : State) : Host.Outcome State Fault Refusal :=
  s.branchIf ((s.rx a).ult (s.rx b)) o

/-- Branch when not below, unsigned (R73). -/
def execBgeu (a b : BitVec 5) (o : BitVec 16) (s : State) : Host.Outcome State Fault Refusal :=
  s.branchIf (!(s.rx a).ult (s.rx b)) o

/-- Jump by a word offset and link (R74). -/
def execJal (d : BitVec 5) (o : BitVec 21) (s : State) : Host.Outcome State Fault Refusal :=
  .next ((s.wx d (s.self.pc + 4)).finishAt (pcOffset s.self.pc o))

/-- Jump to xa plus a byte offset and link; a misaligned target traps with nothing written (R75). -/
def execJalr (d a : BitVec 5) (i : BitVec 16) (s : State) : Host.Outcome State Fault Refusal :=
  let t := s.rx a + imm64 i
  if t &&& 3 ≠ 0 then faultOut s cALIGN t
  else .next ((s.wx d (s.self.pc + 4)).finishAt t)

end Sys2Proof.Machine
end

