-- ==== Sys2Proof/Machine/Vector.lean ====
section
/-! DEFINITION. Vector and predicate instructions that work on registers alone (06 R133-R145, R153). -/

namespace Sys2Proof.Machine

/-! ## Lanes (R133, R134) -/

/-- Lane width of an element type (R133). -/
def laneW (t : BitVec 3) : Nat :=
  match t.toNat with
  | 0 => 8
  | 1 => 16
  | 2 => 32
  | 3 => 64
  | 4 => 32
  | 5 => 16
  | _ => 64

/-- Lanes of an element type. -/
def laneN (t : BitVec 3) : Nat := 512 / laneW t

/-- Is the type a floating-point one? -/
def isFloat (t : BitVec 3) : Bool := decide (4 ≤ t.toNat)

/-- The format of a floating-point type. -/
def laneFmt (t : BitVec 3) : Fmt := if t = 5 then .b16 else .b32

/-- Lane `i` of width `w`, unsigned. -/
def laneGet (v : VWord) (w i : Nat) : Nat := v.toNat / 2 ^ (w * i) % 2 ^ w

/-- A register from its lanes, lowest first. -/
def ofLanes (w : Nat) (l : List Nat) : VWord := BitVec.ofNat 512 (l.foldr (fun x acc => x % 2 ^ w + 2 ^ w * acc) 0)

/-- A lane as a signed number. -/
def signedLane (w x : Nat) : Int := if 2 ^ (w - 1) ≤ x % 2 ^ w then (x % 2 ^ w : Int) - 2 ^ w else (x % 2 ^ w : Int)

/-- An integer reduced to a lane. -/
def wrapLane (w : Nat) (v : Int) : Nat := (v % (2 ^ w : Int)).toNat

/-- Clamp to the signed range of a lane. -/
def satLane (w : Nat) (v : Int) : Nat := wrapLane w (max (-(2 ^ (w - 1))) (min (2 ^ (w - 1) - 1) v))

/-- Clamp to the unsigned range of a lane. -/
def usatLane (w : Nat) (v : Int) : Nat := wrapLane w (max 0 (min (2 ^ w - 1) v))

/-- Is lane `i` active (R134)? -/
def active (pm : Word) (i : Nat) : Bool := pm.getLsbD i

/-- Are all lanes of a doubleword written: n lanes of w bits under a mask, those above without? -/
def wholeWord (w n : Nat) (pm : Word) (k : Nat) : Bool :=
  (List.range (64 / w)).all fun j => decide (n ≤ 64 / w * k + j) || active pm (64 / w * k + j)

/-- Write a v register. A doubleword with a poison mark keeps it unless it is written whole (20 R361). -/
def State.writeV {n : Nat} (s : State) (d : BitVec n) (v : VWord) (whole : Nat → Bool) : State :=
  let kept := (List.range 8).filter fun k => !whole k && s.self.badRegs.contains (128 + 8 * d.toNat + k)
  let s := s.wv d v
  s.mod fun c => { c with badRegs := kept.foldl (fun b k => nins b (128 + 8 * d.toNat + k)) c.badRegs }

/-- The lanes of a result under a predicate: inactive lanes keep the old value and raise nothing (R134). -/
def maskLanes (w n : Nat) (pm : Word) (old : VWord) (f : Nat → Nat × FFlags) : List (Nat × FFlags) :=
  (List.range n).map fun i => if active pm i then f i else (laneGet old w i, 0)

/-- The common course: compute the active lanes, write vd, OR the flags into `fflags` (R134, R136). -/
def State.lanes (s : State) (d : BitVec 4) (p : BitVec 3) (t : BitVec 3) (f : Nat → Nat × FFlags) :
    Host.Outcome State Fault Refusal :=
  let pm := s.rp p
  let rs := maskLanes (laneW t) (laneN t) pm (s.rv d) f
  let s := s.orFlags (rs.foldl (fun g r => g ||| r.2) 0)
  .next (s.writeV d (ofLanes (laneW t) (rs.map (·.1))) (wholeWord (laneW t) (laneN t) pm)).finish

/-- Lane operation on va and vb. -/
def State.lanes2 (s : State) (d a b : BitVec 4) (p : BitVec 3) (t : BitVec 3) (f : Nat → Nat → Nat × FFlags) :
    Host.Outcome State Fault Refusal :=
  let x := s.rv a
  let y := s.rv b
  s.lanes d p t fun i => f (laneGet x (laneW t) i) (laneGet y (laneW t) i)

/-- Lane operation on va. -/
def State.lanes1 (s : State) (d a : BitVec 4) (p : BitVec 3) (t : BitVec 3) (f : Nat → Nat × FFlags) :
    Host.Outcome State Fault Refusal :=
  let x := s.rv a
  s.lanes d p t fun i => f (laneGet x (laneW t) i)

/-! ## The lane results (R138-R140) -/

/-- Saturating or wrapping integer result by `var` (R138): `f` on signed or unsigned operands. -/
def intLane (w : Nat) (var : BitVec 2) (f : Int → Int → Int) (x y : Nat) : Nat :=
  if var = 2 then usatLane w (f x y)
  else if var = 1 then satLane w (f (signedLane w x) (signedLane w y))
  else wrapLane w (f x y)

/-- vadd and vsub on one lane. -/
def addLane (t : BitVec 3) (var : BitVec 2) (rtz sub : Bool) (x y : Nat) : Nat × FFlags :=
  if isFloat t then
    let b := unpack (laneFmt t) y
    fAdd (laneFmt t) rtz (unpack (laneFmt t) x) (if sub then b.neg else b)
  else (intLane (laneW t) var (fun a b => if sub then a - b else a + b) x y, 0)

/-- vmul on one lane. -/
def mulLane (t : BitVec 3) (var : BitVec 2) (rtz : Bool) (x y : Nat) : Nat × FFlags :=
  let w := laneW t
  if isFloat t then fMul (laneFmt t) rtz (unpack (laneFmt t) x) (unpack (laneFmt t) y)
  else if var = 1 then (wrapLane w (signedLane w x * signedLane w y / 2 ^ w), 0)
  else if var = 2 then (x * y / 2 ^ w % 2 ^ w, 0)
  else (x * y % 2 ^ w, 0)

/-- vfma on one lane: vd + va · vb. -/
def fmaLane (t : BitVec 3) (rtz : Bool) (d x y : Nat) : Nat × FFlags :=
  if isFloat t then fFma (laneFmt t) rtz (unpack (laneFmt t) d) (unpack (laneFmt t) x) (unpack (laneFmt t) y)
  else ((d + x * y) % 2 ^ laneW t, 0)

/-- vmin and vmax on one lane. -/
def minMaxLane (t : BitVec 3) (uns larger : Bool) (x y : Nat) : Nat × FFlags :=
  if isFloat t then fMinMax (laneFmt t) larger x y
  else
    let below := if uns then decide (x < y) else decide (signedLane (laneW t) x < signedLane (laneW t) y)
    (if below != larger then x else y, 0)

/-- Shift count of a lane: its low log2 w bits (R138). -/
def laneShift (w y : Nat) : Nat := y % w

/-- vabs and vneg on one lane: bit operations on floating-point types (R139). -/
def negLane (t : BitVec 3) (sat abs : Bool) (x : Nat) : Nat × FFlags :=
  let w := laneW t
  if isFloat t then
    let mag := x % 2 ^ (w - 1)
    (if abs then mag else if x = mag then mag + 2 ^ (w - 1) else mag, 0)
  else
    let v := signedLane w x
    let r := if abs then (v.natAbs : Int) else -v
    (if sat then satLane w r else wrapLane w r, 0)

/-- The condition of vcmp and its NV flag (R141). -/
def cmpLane (t c : BitVec 3) (x y : Nat) : Bool × FFlags :=
  if isFloat t then
    let f := laneFmt t
    let a := unpack f x
    let b := unpack f y
    let un := a.isNan || b.isNan
    let snan := nanFlags (a.isSnan || b.isSnan)
    match c.toNat with
    | 0 => (!un && fCompare f x y == .eq, snan)
    | 1 => (un || fCompare f x y != .eq, snan)
    | 2 => (!un && fCompare f x y == .lt, nanFlags un)
    | 3 => (!un && fCompare f x y != .gt, nanFlags un)
    | _ => (un, snan)
  else
    let w := laneW t
    match c.toNat with
    | 0 => (decide (x = y), 0)
    | 1 => (decide (x ≠ y), 0)
    | 2 => (decide (signedLane w x < signedLane w y), 0)
    | 3 => (decide (signedLane w x ≤ signedLane w y), 0)
    | 4 => (decide (x < y), 0)
    | _ => (decide (x ≤ y), 0)

/-- One converted lane (R142): from type `s` to type `d`. -/
def cvtLane (d s : BitVec 3) (rtz : Bool) (x : Nat) : Nat × FFlags :=
  if isFloat s then
    if isFloat d then deliver (laneFmt d) rtz (unpack (laneFmt s) x)
    else
      let (v, fl) := toIntClamp rtz (laneW d) (unpack (laneFmt s) x)
      (wrapLane (laneW d) v, fl)
  else
    let v := signedLane (laneW s) x
    if isFloat d then deliver (laneFmt d) rtz (FVal.ofInt v) else (satLane (laneW d) v, 0)

/-- A lane as an x register receives it (R143): integer types sign-extended, float types zero-extended. -/
def laneToX (t : BitVec 3) (x : Nat) : Word :=
  if isFloat t then BitVec.ofNat 64 x else BitVec.ofInt 64 (signedLane (laneW t) x)

/-! ## Major 0x23 -/

/-- Lane sum (R138, R139). -/
def execVadd (d a b : BitVec 4) (p : BitVec 3) (w : BitVec 2) (r : BitVec 1) (t : BitVec 3) (s : State) :
    Host.Outcome State Fault Refusal :=
  s.lanes2 d a b p t (addLane t w (r == 1) false)

/-- Lane difference (R138, R139). -/
def execVsub (d a b : BitVec 4) (p : BitVec 3) (w : BitVec 2) (r : BitVec 1) (t : BitVec 3) (s : State) :
    Host.Outcome State Fault Refusal :=
  s.lanes2 d a b p t (addLane t w (r == 1) true)

/-- Lane product (R138, R139). -/
def execVmul (d a b : BitVec 4) (p : BitVec 3) (w : BitVec 2) (r : BitVec 1) (t : BitVec 3) (s : State) :
    Host.Outcome State Fault Refusal :=
  s.lanes2 d a b p t (mulLane t w (r == 1))

/-- vd + va · vb, rounded once (R138, R139). -/
def execVfma (d a b : BitVec 4) (p : BitVec 3) (r : BitVec 1) (t : BitVec 3) (s : State) :
    Host.Outcome State Fault Refusal :=
  let x := s.rv a
  let y := s.rv b
  let z := s.rv d
  s.lanes d p t fun i => fmaLane t (r == 1) (laneGet z (laneW t) i) (laneGet x (laneW t) i) (laneGet y (laneW t) i)

/-- Lane minimum (R138, R139). -/
def execVmin (d a b : BitVec 4) (p : BitVec 3) (w : BitVec 2) (t : BitVec 3) (s : State) :
    Host.Outcome State Fault Refusal :=
  s.lanes2 d a b p t (minMaxLane t (w == 1) false)

/-- Lane maximum (R138, R139). -/
def execVmax (d a b : BitVec 4) (p : BitVec 3) (w : BitVec 2) (t : BitVec 3) (s : State) :
    Host.Outcome State Fault Refusal :=
  s.lanes2 d a b p t (minMaxLane t (w == 1) true)

/-- Bitwise AND over 64-bit lanes (R138). -/
def execVand (d a b : BitVec 4) (p : BitVec 3) (s : State) : Host.Outcome State Fault Refusal :=
  s.lanes2 d a b p 3 fun x y => (x &&& y, 0)

/-- Bitwise OR over 64-bit lanes (R138). -/
def execVor (d a b : BitVec 4) (p : BitVec 3) (s : State) : Host.Outcome State Fault Refusal :=
  s.lanes2 d a b p 3 fun x y => (x ||| y, 0)

/-- Bitwise XOR over 64-bit lanes (R138). -/
def execVxor (d a b : BitVec 4) (p : BitVec 3) (s : State) : Host.Outcome State Fault Refusal :=
  s.lanes2 d a b p 3 fun x y => (x ^^^ y, 0)

/-- Lane shift left (R138). -/
def execVshl (d a b : BitVec 4) (p : BitVec 3) (t : BitVec 3) (s : State) : Host.Outcome State Fault Refusal :=
  s.lanes2 d a b p t fun x y => (x * 2 ^ laneShift (laneW t) y % 2 ^ laneW t, 0)

/-- Lane shift right, zero fill (R138). -/
def execVshr (d a b : BitVec 4) (p : BitVec 3) (t : BitVec 3) (s : State) : Host.Outcome State Fault Refusal :=
  s.lanes2 d a b p t fun x y => (x / 2 ^ laneShift (laneW t) y, 0)

/-- Lane shift right, sign fill (R138). -/
def execVsra (d a b : BitVec 4) (p : BitVec 3) (t : BitVec 3) (s : State) : Host.Outcome State Fault Refusal :=
  s.lanes2 d a b p t fun x y => (wrapLane (laneW t) (signedLane (laneW t) x / 2 ^ laneShift (laneW t) y), 0)

/-- Compare into a predicate: bits of inactive lanes and of lanes that do not exist are 0 (R141). -/
def execVcmp (d a b : BitVec 4) (p : BitVec 3) (c : BitVec 3) (t : BitVec 3) (s : State) :
    Host.Outcome State Fault Refusal :=
  let pm := s.rp p
  let x := s.rv a
  let y := s.rv b
  let rs := (List.range (laneN t)).map fun i =>
    if active pm i then cmpLane t c (laneGet x (laneW t) i) (laneGet y (laneW t) i) else (false, 0)
  let v := rs.foldr (fun r acc => r.1.toNat + 2 * acc) 0
  .next ((s.orFlags (rs.foldl (fun g r => g ||| r.2) 0)).wp d (BitVec.ofNat 64 v)).finish

/-- Select each lane by the predicate; every lane is written (R134, R138). -/
def execVsel (d a b : BitVec 4) (p : BitVec 3) (t : BitVec 3) (s : State) : Host.Outcome State Fault Refusal :=
  let pm := s.rp p
  let x := s.rv a
  let y := s.rv b
  s.lanes d 0 t fun i => (laneGet (if active pm i then x else y) (laneW t) i, 0)

/-- Lane absolute value (R138, R139). -/
def execVabs (d a : BitVec 4) (p : BitVec 3) (w : BitVec 2) (t : BitVec 3) (s : State) :
    Host.Outcome State Fault Refusal :=
  s.lanes1 d a p t (negLane t (w == 1) true)

/-- Lane negation (R138, R139). -/
def execVneg (d a : BitVec 4) (p : BitVec 3) (w : BitVec 2) (t : BitVec 3) (s : State) :
    Host.Outcome State Fault Refusal :=
  s.lanes1 d a p t (negLane t (w == 1) false)

/-- Convert lanes of type `src` into lanes of type `dst`; lanes of vd above the result are zero when the type narrows
(R142). -/
def State.convert (s : State) (d a : BitVec 4) (p : BitVec 3) (dst src : BitVec 3) (rtz : Bool) :
    Host.Outcome State Fault Refusal :=
  let n := min (laneN src) (laneN dst)
  let pm := s.rp p
  let x := s.rv a
  let rs := maskLanes (laneW dst) n pm (s.rv d) fun i => cvtLane dst src rtz (laneGet x (laneW src) i)
  let s := s.orFlags (rs.foldl (fun g r => g ||| r.2) 0)
  .next (s.writeV d (ofLanes (laneW dst) (rs.map (·.1))) (wholeWord (laneW dst) n pm)).finish

/-- Conversion, RNE (R142). -/
def execVcvt (d a : BitVec 4) (p : BitVec 3) (e f : BitVec 3) (s : State) : Host.Outcome State Fault Refusal :=
  s.convert d a p e f false

/-- Conversion, RTZ (R142). -/
def execVcvtRtz (d a : BitVec 4) (p : BitVec 3) (e f : BitVec 3) (s : State) : Host.Outcome State Fault Refusal :=
  s.convert d a p e f true

/-- Correctly rounded reciprocal (R140). -/
def execVrcp (d a : BitVec 4) (p : BitVec 3) (r : BitVec 1) (t : BitVec 3) (s : State) : Host.Outcome State Fault Refusal :=
  s.lanes1 d a p t fun x => fRcp (laneFmt t) (r == 1) (unpack (laneFmt t) x)

/-- Correctly rounded reciprocal square root (R140). -/
def execVrsq (d a : BitVec 4) (p : BitVec 3) (r : BitVec 1) (t : BitVec 3) (s : State) : Host.Outcome State Fault Refusal :=
  s.lanes1 d a p t fun x => fRsq (laneFmt t) (r == 1) (unpack (laneFmt t) x)

/-- Correctly rounded 2 ^ va (R140). -/
def execVexp (d a : BitVec 4) (p : BitVec 3) (r : BitVec 1) (t : BitVec 3) (s : State) : Host.Outcome State Fault Refusal :=
  s.lanes1 d a p t fun x => fExp (laneFmt t) (r == 1) (unpack (laneFmt t) x)

/-- Correctly rounded log2 va (R140). -/
def execVlog (d a : BitVec 4) (p : BitVec 3) (r : BitVec 1) (t : BitVec 3) (s : State) : Host.Outcome State Fault Refusal :=
  s.lanes1 d a p t fun x => fLog (laneFmt t) (r == 1) (unpack (laneFmt t) x)

/-! ## Major 0x24 -/

/-- Broadcast the low bits of xa to the active lanes (R143). -/
def execVbcast (d a : BitVec 4) (p : BitVec 3) (t : BitVec 3) (s : State) : Host.Outcome State Fault Refusal :=
  let v := (s.rx a).toNat
  s.lanes d p t fun _ => (v % 2 ^ laneW t, 0)

/-- Lane k of va into xd (R143). -/
def execVext (d a b : BitVec 4) (t : BitVec 3) (s : State) : Host.Outcome State Fault Refusal :=
  s.result d (laneToX t (laneGet (s.rv a) (laneW t) ((s.rx b).toNat % laneN t)))

/-- The low bits of xa into lane k of vd (R143). -/
def execVins (d a b : BitVec 4) (t : BitVec 3) (s : State) : Host.Outcome State Fault Refusal :=
  let k := (s.rx b).toNat % laneN t
  let old := s.rv d
  let v := (s.rx a).toNat
  s.lanes d 0 t fun i => (if i = k then v % 2 ^ laneW t else laneGet old (laneW t) i, 0)

/-- Permute the lanes of va by the indices in vb (R143). -/
def execVperm (d a b : BitVec 4) (p : BitVec 3) (t : BitVec 3) (s : State) : Host.Outcome State Fault Refusal :=
  let x := s.rv a
  s.lanes2 d b b p t fun k _ => (laneGet x (laneW t) (k % laneN t), 0)

/-- The identity of a reduction, as a lane extended to 64 bits (R145). -/
def redIdentity (t sub : BitVec 3) : Nat :=
  let w := laneW t
  if isFloat t then
    if sub = 0 then (laneFmt t).signBit else if sub = 1 then (laneFmt t).inf else withSign (laneFmt t) true (laneFmt t).inf
  else
    match sub.toNat with
    | 1 => 2 ^ (w - 1) - 1
    | 2 => (BitVec.ofInt 64 (-(2 ^ (w - 1)))).toNat
    | 3 => 2 ^ 64 - 1
    | 6 => 2 ^ w - 1
    | _ => 0

/-- One operation of the tree (R145). -/
def redOp (t sub : BitVec 3) (rtz : Bool) (x y : Nat) : Nat × FFlags :=
  if isFloat t then
    if sub = 0 then addLane t 0 rtz false x y else minMaxLane t false (sub == 2) x y
  else
    match sub.toNat with
    | 0 => ((x + y) % 2 ^ 64, 0)
    | 1 => (if signedLane 64 x ≤ signedLane 64 y then x else y, 0)
    | 2 => (if signedLane 64 x ≤ signedLane 64 y then y else x, 0)
    | 3 => (x &&& y, 0)
    | 4 => (x ||| y, 0)
    | 5 => (x ^^^ y, 0)
    | 6 => (min x y, 0)
    | _ => (max x y, 0)

/-- One level of the pairwise tree. -/
def redLevel (f : Nat → Nat → Nat × FFlags) : List Nat → List Nat × FFlags
  | x :: y :: t =>
    let (r, fl) := f x y
    let (l, g) := redLevel f t
    (r :: l, fl ||| g)
  | l => (l, 0)

/-- The fixed pairwise tree over up to 2 ^ fuel lanes. -/
def redTree (f : Nat → Nat → Nat × FFlags) : Nat → List Nat → FFlags → Nat × FFlags
  | 0, l, g => (l.headD 0, g)
  | n + 1, l, g =>
    let (l', h) := redLevel f l
    redTree f n l' (g ||| h)

/-- A lane as the reduction reads it: extended to 64 bits, signed, or unsigned for minu and maxu (R145). -/
def redLane (t sub : BitVec 3) (x : Nat) : Nat :=
  if isFloat t || decide (6 ≤ sub.toNat) then x else (laneToX t x).toNat

/-- Reduce the lanes of va to a scalar (R145). -/
def execVred (d a : BitVec 4) (p : BitVec 3) (r : BitVec 1) (sub t : BitVec 3) (s : State) :
    Host.Outcome State Fault Refusal :=
  let pm := s.rp p
  let x := s.rv a
  let l := (List.range (laneN t)).map fun i =>
    if active pm i then redLane t sub (laneGet x (laneW t) i) else redIdentity t sub
  let (v, fl) := redTree (redOp t sub (r == 1)) 6 l 0
  (s.orFlags fl).result d (BitVec.ofNat 64 v)

/-! ## Major 0x28 (R153) -/

/-- AND of predicates (R153). -/
def execPand (d a b : BitVec 4) (s : State) : Host.Outcome State Fault Refusal := .next (s.wp d (s.rp a &&& s.rp b)).finish

/-- OR of predicates (R153). -/
def execPor (d a b : BitVec 4) (s : State) : Host.Outcome State Fault Refusal := .next (s.wp d (s.rp a ||| s.rp b)).finish

/-- XOR of predicates (R153). -/
def execPxor (d a b : BitVec 4) (s : State) : Host.Outcome State Fault Refusal := .next (s.wp d (s.rp a ^^^ s.rp b)).finish

/-- Complement of a predicate (R153). -/
def execPnot (d a : BitVec 4) (s : State) : Host.Outcome State Fault Refusal := .next (s.wp d (~~~(s.rp a))).finish

/-- The low n bits set (R153). -/
def execPset (d : BitVec 4) (n : BitVec 7) (s : State) : Host.Outcome State Fault Refusal :=
  .next (s.wp d (BitVec.ofNat 64 (2 ^ n.toNat - 1))).finish

/-- A predicate from an x register (R153). -/
def execPsetX (d a : BitVec 4) (s : State) : Host.Outcome State Fault Refusal := .next (s.wp d (s.rx a)).finish

/-- One bits among the low k bits of a predicate (R153). -/
def execPcnt (d a : BitVec 4) (k : BitVec 7) (s : State) : Host.Outcome State Fault Refusal :=
  s.result d (BitVec.ofNat 64 (countOnes (s.rp a) k.toNat))

end Sys2Proof.Machine
end

