-- ==== Sys2Proof/Machine/LoadStore.lean ====
section
/-! DEFINITION. Loads and stores, full/empty words, versioned words, vector loads and stores, gathers and scatters
(05 R93-R100; 06 R146-R152). -/

namespace Sys2Proof.Machine

/-! ## Reading -/

/-- The line of partition memory that a load reads: through L1, or at its home for a strong access and a migrated
thread (R95, R131). -/
def State.lineFor (s : State) (ea : Word) (n : Nat) (atHome : Bool) : Attempt (State × Bank) :=
  let c := s.self
  let va := ea.toNat
  if atHome || c.migrated then
    (s.precise ea ((s.l1Sync c.cell c.sid va).homeLine c.space va)).map fun r => (r.1, r.2.2)
  else s.precise ea (s.l1Read c.cell c va n)

/-- That line, unless a unit of it that the load needs is poisoned: a precise fault (R96). -/
def State.memBank (s : State) (ea : Word) (n : Nat) (atHome : Bool) : Attempt (State × Bank) := do
  let (s, b) ← s.lineFor ea n atHome
  if b.bad (ea.toNat % 128) n then s.raise cPOISON ea else return (s, b)

/-- The bytes that a load returns, its address checked and its waits over. -/
def State.readBytes (s : State) (ea : Word) (n : Nat) (strong : Bool) : Attempt (State × List Byte) :=
  let c := s.self
  let k := s.cell c.cell
  match region ea with
  | .view w off =>
    if w = 9 ∧ c.badRegs.contains (ek 3) then s.raiseRegister
    else if k.spad.viewBad c.me.vsb.toNat w off n then s.raise cPOISON ea
    else .ok (s, viewLoad k.spad.bytes c.me.vsb.toNat w off n)
  | .acc tile off => if k.accBad tile off n then s.raiseRegister else .ok (s, accLoad k.tiles tile off n)
  | .page off => .ok (s, leBytes (s.readPage c.cell off).toNat n)
  | _ => do
    let (s, b) ← s.memBank ea n strong
    return (s, b.read (ea.toNat % 128) n)

/-- Is the address in partition memory or the scratchpad, where ord sets the point of completion (R95)? -/
def ordered (ea : Word) : Bool :=
  match region ea with
  | .view _ _ | .mem => true
  | _ => false

/-- A load of `n` bytes (R94-R96): checks, the wait of wc, the retry of a locked tile, the wait of ord, the value, and
the acquire. -/
def State.load (s : State) (ea : Word) (n : Nat) (o w : BitVec 2) : Attempt (State × List Byte) := do
  s.checkAccess ea n false false
  s.waitWc w
  s.localWaits ea n false
  s.fabricWaits ea n false (o == 2)
  let s ← if o = 2 ∧ ordered ea then s.waitCovered coverAll else .ok s
  let (s, bs) ← s.readBytes ea n (o == 2)
  return (if o ≠ 0 ∧ ordered ea then s.acquire s.cur else s, bs)

/-- A scalar load into xd. -/
def State.loadX (s : State) (d a : BitVec 5) (o w : BitVec 2) (i : BitVec 12) (n : Nat) (signed : Bool) :
    Host.Outcome State Fault Refusal :=
  conclude do
    let (s, bs) ← s.load (effAddr (s.rx a) i n) n o w
    return (s.wx d (extend signed n bs)).finish

/-- Byte, sign-extended (R93). -/
def execLdB (d a : BitVec 5) (o w : BitVec 2) (i : BitVec 12) (s : State) : Host.Outcome State Fault Refusal :=
  s.loadX d a o w i 1 true

/-- Halfword, sign-extended (R93). -/
def execLdH (d a : BitVec 5) (o w : BitVec 2) (i : BitVec 12) (s : State) : Host.Outcome State Fault Refusal :=
  s.loadX d a o w i 2 true

/-- Word, sign-extended (R93). -/
def execLdW (d a : BitVec 5) (o w : BitVec 2) (i : BitVec 12) (s : State) : Host.Outcome State Fault Refusal :=
  s.loadX d a o w i 4 true

/-- Doubleword (R93). -/
def execLdD (d a : BitVec 5) (o w : BitVec 2) (i : BitVec 12) (s : State) : Host.Outcome State Fault Refusal :=
  s.loadX d a o w i 8 false

/-- Byte, zero-extended (R93). -/
def execLdBu (d a : BitVec 5) (o w : BitVec 2) (i : BitVec 12) (s : State) : Host.Outcome State Fault Refusal :=
  s.loadX d a o w i 1 false

/-- Halfword, zero-extended (R93). -/
def execLdHu (d a : BitVec 5) (o w : BitVec 2) (i : BitVec 12) (s : State) : Host.Outcome State Fault Refusal :=
  s.loadX d a o w i 2 false

/-- Word, zero-extended (R93). -/
def execLdWu (d a : BitVec 5) (o w : BitVec 2) (i : BitVec 12) (s : State) : Host.Outcome State Fault Refusal :=
  s.loadX d a o w i 4 false

/-! ## Writing -/

/-- A store to partition memory (R95, R96): weak through L1; release and strong at the home. A fault of a weak or release
store drops it with a report; a fault of a strong store is precise. -/
def State.writeMem (s : State) (ea : Word) (bs : List Byte) (o : BitVec 2) : Attempt State :=
  let c := s.self
  let va := ea.toNat
  let drop (s : State) (code : Byte) : State := s.reportDrop (c.issuer s.cur) code 0 (some 4) false ea (c.word.zeroExtend 64)
  if o = 0 ∧ !c.migrated then
    match s.l1Write s.cur c.cell c va bs with
    | .ok s => .ok s
    | .error code => .ok (drop s code)
  else
    let s := s.l1Sync c.cell c.sid va
    match s.homeWrite (.mem c.space va) bs with
    | .ok s => .ok s
    | .error code => if o = 2 then s.raise code ea else .ok (drop s code)

/-- Write bytes at a checked address whose waits are over. -/
def State.writeBytes (s : State) (ea : Word) (bs : List Byte) (o : BitVec 2) : Attempt State :=
  match region ea with
  | .view w off => .ok (s.modCell s.self.cell fun c => { c with spad := c.spad.viewStore w off bs })
  | .page off => .ok (s.writePage s.self.cell off (BitVec.ofNat 64 (leNat bs)))
  | _ => s.writeMem ea bs o

/-- A store of bytes (R94-R96), deferred where optimistic mode says so (13 R265). -/
def State.store (s : State) (ea : Word) (bs : List Byte) (o w : BitVec 2) : Attempt State := do
  let n := bs.length
  let now ← s.writeNow ea n
  s.checkAccess ea n true false
  if now then
    s.waitWc w
    s.localWaits ea n true
    s.fabricWaits ea n true (o != 0)
    let s ← if o ≠ 0 ∧ ordered ea then s.waitCovered coverAll else .ok s
    let s ← s.writeBytes ea bs o
    return if o = 2 ∧ ordered ea then s.acquire s.cur else s
  else s.deferAction (.op o (viewOf ea) (s.localPacket ea (.store bs)))

/-- A scalar store of the low `n` bytes of xs. -/
def State.storeX (s : State) (t a : BitVec 5) (o w : BitVec 2) (i : BitVec 12) (n : Nat) :
    Host.Outcome State Fault Refusal :=
  conclude do
    let s ← s.store (effAddr (s.rx a) i n) (leBytes (s.rx t).toNat n) o w
    return s.finish

/-- Store a byte (R93). -/
def execStB (t a : BitVec 5) (o w : BitVec 2) (i : BitVec 12) (s : State) : Host.Outcome State Fault Refusal :=
  s.storeX t a o w i 1

/-- Store a halfword (R93). -/
def execStH (t a : BitVec 5) (o w : BitVec 2) (i : BitVec 12) (s : State) : Host.Outcome State Fault Refusal :=
  s.storeX t a o w i 2

/-- Store a word (R93). -/
def execStW (t a : BitVec 5) (o w : BitVec 2) (i : BitVec 12) (s : State) : Host.Outcome State Fault Refusal :=
  s.storeX t a o w i 4

/-- Store a doubleword (R93). -/
def execStD (t a : BitVec 5) (o w : BitVec 2) (i : BitVec 12) (s : State) : Host.Outcome State Fault Refusal :=
  s.storeX t a o w i 8

/-! ## Full/empty words (R97) -/

/-- Do two waits contend for the same turn: takes with takes, gives with gives? -/
def sameKind : Wait → Wait → Bool
  | .fe _ f, .fe _ g => f == g
  | _, _ => false

/-- Is an earlier parked request on the word waiting for the same turn (R97)? -/
def State.ahead (s : State) (l : Loc) (w : Wait) : Bool :=
  (s.waiters.takeWhile fun p => p.1 ≠ s.cur).any fun p => p.2 = l && sameKind (s.ctx p.1).wait w

/-- The request leaves the wait list. -/
def State.leaveList (s : State) : State := { s with waiters := s.waiters.filter fun p => p.1 ≠ s.cur }

/-- Is the wait list of the word's home full: 1,024 waiters for a slice; for a cell one for each of its slots, whichever cells
the waiters are of (R97; log 68: DESIGN CHOICE)? -/
def State.listFull (s : State) (l : Loc) : Bool :=
  match l with
  | .spad cell _ =>
    decide (Config.slots ≤ (s.waiters.filter fun p =>
      match p.2 with
      | .spad c _ => c = cell
      | _ => false).length)
  | .mem space va =>
    let h := s.sliceOf space va
    decide (1024 ≤ (s.waiters.filter fun p =>
      match p.2 with
      | .mem q a => s.sliceOf q a = h
      | _ => false).length)

/-- The delay before the next try of a request that finds the list full: 64 cycles, doubling up to 4,096 (R97). -/
def nextGap : Wait → Nat
  | .backoff _ g => min (2 * g) 4096
  | _ => 64

/-- Park at the word's home, keeping a place the request already has; or back off (R97). -/
def State.parkAt (s : State) (l : Loc) (w : Wait) : State :=
  if s.waiters.any fun p => p.1 = s.cur then s.park w
  else if s.listFull l then
    let g := nextGap s.self.wait
    s.stall (.backoff (s.now + g) g)
  else { s with waiters := s.waiters ++ [(s.cur, l)] }.park w

/-- Before an action at a location's home, the cell's own line of it goes back to L2. -/
def State.syncLoc (s : State) (l : Loc) : State :=
  match l with
  | .mem space va => if space = s.self.space then s.l1Sync s.self.cell s.self.sid va else s
  | .spad _ _ => s

/-- A take at the word's home: one indivisible action, or a place in the wait list (R97). -/
def State.take (s : State) (l : Loc) (ea : Word) (d : BitVec 5) : Attempt State := do
  let s := s.syncLoc l
  let (s, full) ← s.precise ea (s.homeFull l)
  if full && !s.ahead l (.fe l true) then
    let (s, bs) ← s.precise ea (s.homeRead l 8)
    let s ← s.precise ea (s.homeSetFull l false)
    return ((s.leaveList.acquire s.cur).wx d (extend false 8 bs)).finish
  else .error (s.parkAt l (.fe l true))

/-- A give at the word's home (R97). -/
def State.give (s : State) (l : Loc) (ea : Word) (v : Word) : Attempt State := do
  let s := s.syncLoc l
  let (s, full) ← s.precise ea (s.homeFull l)
  if !full && !s.ahead l (.fe l false) then
    let s ← s.precise ea (s.homeWrite l (leBytes v.toNat 8))
    return s.leaveList.finish
  else .error (s.parkAt l (.fe l false))

/-- Park until full, read, set empty (R97). -/
def execLdDTake (d a : BitVec 5) (w : BitVec 2) (i : BitVec 12) (s : State) : Host.Outcome State Fault Refusal :=
  let ea := effAddr (s.rx a) i 8
  conclude do
    s.illInOpt
    s.checkAccess ea 8 false true
    s.waitWc w
    s.localWaits ea 8 false
    s.fabricWaits ea 8 false true
    s.take (s.locOf ea) ea d

/-- Park until empty, write, set full; a release-class write (R97; 11 R231). -/
def execStDGive (t a : BitVec 5) (w : BitVec 2) (i : BitVec 12) (s : State) : Host.Outcome State Fault Refusal :=
  let ea := effAddr (s.rx a) i 8
  conclude do
    s.illInOpt
    s.checkAccess ea 8 true true
    s.waitWc w
    s.localWaits ea 8 true
    s.fabricWaits ea 8 true true
    let v := s.rx t
    let s ← s.waitCovered coverAll
    s.give (s.locOf ea) ea v

/-! ## Versioned words (R98-R100; 13 R268) -/

/-- The live versions of a word. -/
def State.liveVersions (s : State) (space va : Nat) : List Version := tget [] s.versions (space * 2 ^ 48 + va)

/-- Replace the live versions of a word. What they take of the slice's 1.5 MiB, ordinary lines lose (10 R218). -/
def State.setVersions (s : State) (space va : Nat) (l : List Version) : State :=
  let k := space * 2 ^ 48 + va
  let s := { s with versions := if l.isEmpty then tdel s.versions k else tset s.versions k l }
  match s.sliceOf space va with
  | some (dom, slice) => s.l2MakeRoom (dom / 2) slice 0
  | none => s

/-- The version with the largest number among those that satisfy a condition. -/
def newest (f : Version → Bool) : List Version → Option Version
  | [] => none
  | v :: t =>
    match newest f t with
    | some x => if f v && decide (x.num.toNat < v.num.toNat) then some v else some x
    | none => if f v then some v else none

/-- The stamp of a context: of its current event, or (lvt << 16) | 0xFFFF between events (13 R262). -/
def Ctx.stamp (c : Ctx) : Word :=
  match c.member with
  | some m =>
    match (if m.inEvent then m.records.getLast? else none) with
    | some r => r.stamp
    | none => stampOf c.lvt.toNat 0xFFFF
  | none => 0

/-- Does the version store of the word's domain hold its 16 MiB of versions (13 R268), or the word's slice nothing else (00 R1;
log 12: DEDUCED)? -/
def State.storeFull (s : State) (space va : Nat) : Bool :=
  let dom := (s.page space va).map (·.dom)
  decide (2 ^ 20 ≤ ((s.versions.filter fun p => (s.page (p.1 / 2 ^ 48) (p.1 % 2 ^ 48)).map (·.dom) = dom).map fun p => p.2.length).sum) ||
    match s.sliceOf space va with
    | some (_, slice) => decide (8 * sliceLines ≤ s.versionsIn slice)
    | none => false

/-- The checks of `ldv` and `stv` (R98), and of the page at its home. -/
def State.checkVersion (s : State) (ea : Word) : Attempt Unit := do
  s.require (decide (ea.toNat % 8 = 0)) cALIGN ea
  s.require (region ea == .mem && s.versioned s.self.space ea.toNat) cXLATE ea
  let _ ← s.precise ea (s.judge s.self.space ea.toNat)
  return ()

/-- The version an optimistic `ldv` reads: the live version with the largest stamp at or below the event's, or the
committed version (R100). A word with neither holds a value the spec does not state: a free value (log 15). -/
def State.ldvOpt (s : State) (space va : Nat) : State × Version :=
  let l := s.liveVersions space va
  match newest (fun v => decide (v.num.toNat ≤ s.self.stamp.toNat)) l with
  | some v => (s, v)
  | none =>
    match newest (fun v => stampBelow v.num s.self.gvt.toNat) l with
    | some v => (s, v)
    | none => ({ s with free := s.free + 1 }, { val := Config.freeWord s.free })

/-- Both forms of `ldv`. -/
def State.ldv (s : State) (d a b : BitVec 5) (eq : Bool) : Attempt State := do
  let ea := s.rx a
  let x := s.rx b
  s.checkVersion ea
  s.fabricWaits ea 8 false true
  let space := s.self.space
  let va := ea.toNat
  if s.self.opt then
    let (s, v) := s.ldvOpt space va
    if v.bad then s.raise cPOISON ea else return (s.wx d v.val).finish
  else
    match newest (fun v => if eq then v.num == x else decide (v.num.toNat ≤ x.toNat)) (s.liveVersions space va) with
    | some v => if v.bad then s.leaveList.raise cPOISON ea else return ((s.leaveList.acquire s.cur).wx d v.val).finish
    | none => .error (s.parkAt (.mem space va) (.version (.mem space va) eq x))

/-- Read version xb, parking until it is live (R99, R100). -/
def execLdvEq (d a b : BitVec 5) (s : State) : Host.Outcome State Fault Refusal := conclude (s.ldv d a b true)

/-- Read the largest live version at or below xb (R99, R100). -/
def execLdvLe (d a b : BitVec 5) (s : State) : Host.Outcome State Fault Refusal := conclude (s.ldv d a b false)

/-- Write or replace the version `n` in a list of live versions. -/
def putVersion (l : List Version) (n v : Word) (w : Option Nat) : List Version :=
  (l.filter fun x => x.num ≠ n) ++ [{ num := n, val := v, writer := w }]

/-- Write a version (R99, R100). -/
def execStv (t a b : BitVec 5) (s : State) : Host.Outcome State Fault Refusal :=
  let ea := s.rx a
  let x := s.rx b
  let v := s.rx t
  conclude do
    s.illInHandler
    s.checkVersion ea
    s.fabricWaits ea 8 true true
    let space := s.self.space
    let va := ea.toNat
    let l := s.liveVersions space va
    if s.self.opt then
      let n := s.self.stamp
      if !(l.any fun y => y.num = n) && (decide (8 ≤ l.length) || s.storeFull space va) then s.noRoom
      else return (s.setVersions space va (putVersion l n v (some s.cur))).finish
    else
      let s ← s.waitCovered coverAll
      if l.any fun y => decide (x.toNat + 8 ≤ y.num.toNat) then s.raise cVFULL ea
      else if !(l.any fun y => y.num = x) && s.storeFull space va then s.again
      else
        let l' := (putVersion l x v none).filter fun y => !(decide (y.num.toNat + 8 ≤ x.toNat))
        return (s.setVersions space va l').finish

/-! ## Vector loads and stores (06 R146-R148) -/

/-- 64 bytes as a register (06 R133). -/
def bytesToV (bs : List Byte) : VWord := BitVec.ofNat 512 (leNat bs)

/-- Load 64 bytes (R146, R147), all at one instant: R148 leaves open which of its doublewords come before a concurrent store
(log 72: DESIGN CHOICE). -/
def execVld (d : BitVec 4) (a : BitVec 5) (o w : BitVec 2) (i : BitVec 12) (s : State) :
    Host.Outcome State Fault Refusal :=
  conclude do
    let (s, bs) ← s.load (effAddr (s.rx a) i 64) 64 o w
    return (s.wv d (bytesToV bs)).finish

/-- Store 64 bytes (R146, R147), all at one instant (log 72: DESIGN CHOICE). -/
def execVst (t : BitVec 4) (a : BitVec 5) (o w : BitVec 2) (i : BitVec 12) (s : State) :
    Host.Outcome State Fault Refusal :=
  conclude do
    let s ← s.store (effAddr (s.rx a) i 64) (leBytes (s.rv t).toNat 64) o w
    return s.finish

/-! ## Gathers and scatters (06 R149-R152) -/

/-- Bytes of an element: size 2 is `.w`, 3 is `.d` (R149). -/
def gsBytes (z : BitVec 2) : Nat := if z = 3 then 8 else 4

/-- Address of lane `i` (R149). -/
def gsAddr (base : Word) (idx : VWord) (n i : Nat) : Word :=
  base + BitVec.ofInt 64 (signedLane (8 * n) (laneGet idx (8 * n) i)) * BitVec.ofNat 64 n

/-- Active lanes, ascending. -/
def gsLanes (pm : Word) (n : Nat) : List Nat := (List.range (64 / n)).filter (active pm)

/-- Check lanes in ascending order: the first failure is the one reported (R150). -/
def State.checkLanes (s : State) (base : Word) (idx : VWord) (n : Nat) (store : Bool) : List Nat → Attempt Unit
  | [] => .ok ()
  | i :: t => do
    s.checkAccess (gsAddr base idx n i) n store false
    s.checkLanes base idx n store t

/-- The local waits of every lane. -/
def State.waitLanes (s : State) (base : Word) (idx : VWord) (n : Nat) (store home : Bool) : List Nat → Attempt Unit
  | [] => .ok ()
  | i :: t => do
    s.localWaits (gsAddr base idx n i) n store
    s.fabricWaits (gsAddr base idx n i) n store home
    s.waitLanes base idx n store home t

/-- Read lanes in ascending order. -/
def State.readLanes (s : State) (base : Word) (idx : VWord) (n : Nat) (strong : Bool) :
    List Nat → Attempt (State × List (Nat × Nat))
  | [] => .ok (s, [])
  | i :: t => do
    let (s, bs) ← s.readBytes (gsAddr base idx n i) n strong
    let (s, l) ← s.readLanes base idx n strong t
    return (s, (i, leNat bs) :: l)

/-- Gather the active lanes (R150, R151). -/
def execVgth (d a b : BitVec 4) (p : BitVec 3) (o z : BitVec 2) (s : State) : Host.Outcome State Fault Refusal :=
  let n := gsBytes z
  let base := s.rx a
  let idx := s.rv b
  let lanes := gsLanes (s.rp p) n
  let old := s.rv d
  conclude do
    s.checkLanes base idx n false lanes
    s.waitLanes base idx n false (o == 2) lanes
    let s ← if o = 2 then s.waitCovered coverAll else .ok s
    let (s, vals) ← s.readLanes base idx n (o == 2) lanes
    let s := if o ≠ 0 then s.acquire s.cur else s
    let v := ofLanes (8 * n) ((List.range (64 / n)).map fun i => (tfind vals i).getD (laneGet old (8 * n) i))
    return (s.writeV d v (wholeWord (8 * n) (64 / n) (s.rp p))).finish

/-- Write lanes in ascending order; a weak or release fault drops its lane alone (R152). -/
def State.writeLanes (s : State) (base : Word) (idx data : VWord) (n : Nat) (o : BitVec 2) : List Nat → Attempt State
  | [] => .ok s
  | i :: t => do
    let s ← s.writeBytes (gsAddr base idx n i) (leBytes (laneGet data (8 * n) i) n) o
    s.writeLanes base idx data n o t

/-- Which lanes are written now and which are deferred (13 R265). -/
def State.splitLanes (s : State) (base : Word) (idx : VWord) (n : Nat) : List Nat → Attempt (List Nat × List Nat)
  | [] => .ok ([], [])
  | i :: t => do
    let now ← s.writeNow (gsAddr base idx n i) n
    let (x, y) ← s.splitLanes base idx n t
    return if now then (i :: x, y) else (x, i :: y)

/-- The deferred lanes of a scatter. -/
def State.lanePackets (s : State) (base : Word) (idx data : VWord) (n : Nat) (l : List Nat) : List (Nat × Packet) :=
  l.map fun i =>
    let ea := gsAddr base idx n i
    (viewOf ea, s.localPacket ea (.store (leBytes (laneGet data (8 * n) i) n)))

/-- A scatter completes, and its count of performed lanes is cleared (R152). -/
def State.endScatter (s : State) : State :=
  ((s.acquire s.cur).mod fun c => { c with vsctDone := tdel c.vsctDone c.pc.toNat }).finish

/-- Scatter the active lanes (R150, R152). A strong scatter performs one lane at a time and keeps the number of lanes
already performed; once lanes have been performed, the next one is checked alone, as the strong store it is. -/
def execVsct (d a b : BitVec 4) (p : BitVec 3) (o z : BitVec 2) (s : State) : Host.Outcome State Fault Refusal :=
  let n := gsBytes z
  let base := s.rx a
  let idx := s.rv b
  let data := s.rv d
  let pc := s.self.pc.toNat
  let done := tget 0 s.self.vsctDone pc
  let lanes := (gsLanes (s.rp p) n).drop done
  conclude do
    let (now, later) ← s.splitLanes base idx n lanes
    s.checkLanes base idx n true (if done = 0 then lanes else lanes.take 1)
    if o = 2 ∧ later.isEmpty then
      s.waitLanes base idx n true true (now.take 1)
      let s ← s.waitCovered coverAll
      match now with
      | [] => return s.endScatter
      | i :: t =>
        let s ← s.writeLanes base idx data n 2 [i]
        if t.isEmpty then return s.endScatter
        else (s.mod fun c => { c with vsctDone := tset c.vsctDone pc (done + 1) }).again
    else
      s.waitLanes base idx n true (o != 0) now
      let s ← if o ≠ 0 ∧ (!now.isEmpty || later.isEmpty) then s.waitCovered coverAll else .ok s
      let s ← if later.isEmpty then .ok s else s.deferAction (.vsct o (s.lanePackets base idx data n later))
      let s ← s.writeLanes base idx data n o now
      return s.finish

/-! ## Fetch (03 R55; 17 R330) -/

/-- The word at a context's pc, through L1, or at its home for a thread at a pantry core (05 R131). A fetch goes on while the cell's
split changes (log 29: DESIGN CHOICE, 01 R25 speaks of local accesses and names no fetch). -/
def State.fetchWord (s : State) (x : Nat) : Except Byte (State × IWord) :=
  let c := s.ctx x
  let va := c.pc.toNat
  if region c.pc ≠ .mem then .error cXLATE
  else
    let line : Except Byte (State × Bank) :=
      if c.migrated then (match s.homeLine c.space va with | .ok (s, _, b) => .ok (s, b) | .error e => .error e)
      else s.l1Read c.cell c va 4
    match line with
    | .error e => .error e
    | .ok (s, b) =>
      if b.bad (va % 128) 4 then .error cPOISON
      else .ok (s, BitVec.ofNat 32 (leNat (b.read (va % 128) 4)))

/-- The word at a context's pc that a trap in place of its issue records (17 R325): 0 where it cannot be fetched. -/
def State.wordAt (s : State) (x : Nat) : State × IWord :=
  match s.fetchWord x with
  | .ok p => p
  | .error _ => (s, 0)

end Sys2Proof.Machine
end

