-- ==== Sys2Proof/Machine/Remote.lean ====
section
/-! DEFINITION. Capabilities, remote access and thread migration (05 R127-R132; 14 R285-R288). -/

namespace Sys2Proof.Machine

/-! ## Fields (05, Capabilities) -/

def Capa.cursor (c : Capa) : Nat := c.bits.toNat % 2 ^ 48
def Capa.id (c : Capa) : Nat := c.bits.toNat / 2 ^ 48 % 2 ^ 16
def Capa.gen (c : Capa) : BitVec 16 := (c.bits >>> 96).truncate 16
def Capa.perm (c : Capa) : BitVec 8 := (c.bits >>> 112).truncate 8
def Capa.kind (c : Capa) : Byte := (c.bits >>> 120).truncate 8

/-- Permission bits. -/
def permR : Nat := 0
def permW : Nat := 1
def permA : Nat := 3
def permM : Nat := 6
def permP : Nat := 7

/-- Replace bits [hi:lo] of a capability. -/
def setField (b : BitVec 128) (lo n v : Nat) : BitVec 128 :=
  BitVec.ofNat 128 (b.toNat % 2 ^ lo + v % 2 ^ n * 2 ^ lo + b.toNat / 2 ^ (lo + n) * 2 ^ (lo + n))

/-! ## Bounds (14 R285, R286) -/

/-- The exponent, base mantissa, length mantissa and spare bit. -/
def Capa.ex (c : Capa) : Nat := c.bits.toNat / 2 ^ 64 % 32
def Capa.bm (c : Capa) : Nat := c.bits.toNat / 2 ^ 69 % 2 ^ 13
def Capa.lm (c : Capa) : Nat := c.bits.toNat / 2 ^ 82 % 2 ^ 13
def Capa.spare (c : Capa) : Nat := c.bits.toNat / 2 ^ 95 % 2

/-- The window of a cursor. -/
def window (cursor ex : Nat) : Nat := cursor / 2 ^ (ex + 13) * 2 ^ (ex + 13)

/-- Decoded base (R285). -/
def Capa.base (c : Capa) : Nat := window c.cursor c.ex + c.bm * 2 ^ c.ex

/-- Decoded length: 0 for a capability that is not representable (R285). -/
def Capa.len (c : Capa) : Nat := if c.bm + c.lm ≤ 8192 ∧ c.spare = 0 then c.lm * 2 ^ c.ex else 0

/-- Are `n` bytes at `ea` inside the bounds? -/
def Capa.holds (c : Capa) (ea : Word) (n : Nat) : Bool := decide (c.base ≤ ea.toNat ∧ ea.toNat + n ≤ c.base + c.len)

/-- Do the bounds of exponent `ex` around `[a, a + n)` satisfy R286? -/
def fits (a n ex : Nat) : Bool :=
  let u := 2 ^ ex
  let w := window a ex
  let bm := a / u - w / u
  let top := (a + n + u - 1) / u
  let lm := top - a / u
  decide (top ≤ w / u + 8192 ∧ lm ≤ 8191 ∧ bm + lm ≤ 8192)

/-- The smallest exponent that fits, among the first `n`. -/
def smallestEx (a len : Nat) : Option Nat := (List.range 32).find? (fits a len)

/-- The narrowed capability and its bounds (R286). -/
def Capa.narrow (c : Capa) (n : Nat) : Option Capa :=
  let a := c.cursor
  match smallestEx a n with
  | none => none
  | some ex =>
    let u := 2 ^ ex
    let bm := a / u - window a ex / u
    let lm := (a + n + u - 1) / u - a / u
    some { c with bits := setField c.bits 64 32 (ex + bm * 2 ^ 5 + lm * 2 ^ 18) }

/-! ## The checks of R129 and R288 -/

/-- Is a peer reachable: is the port it lies behind up (14 R288; 21 R367)? -/
def State.peerUp (s : State) (id : Nat) : Bool := s.pup.getLsbD (Config.peerPort id % 8)

/-- The id classes of R287. -/
def isPeer (id : Nat) : Bool := decide (0x100 ≤ id ∧ id ≤ 0x1FF)
def isHost (id : Nat) : Bool := id == 0xFFFF

/-- The population's path lease from a domain to an id (18 R339). -/
def State.path (s : State) (entry : Option Nat) (dom id : Nat) : Option Lease :=
  (s.leases.find? fun p =>
    p.2.pop = entry && p.2.alive && match p.2.obj with | .path d i _ => d = dom && i = id | _ => false).map (·.2)

/-- The partition's root lease as a die's Prompter holds it (18 R344). -/
def State.rootLease (s : State) (part die : Nat) : Option Lease :=
  (s.leases.find? fun p => p.2.obj = .root part && p.2.home = die).map (·.2)

/-- The egress checks of R288, in order, for `n` bytes at `ea`: a request of a partition's population from a cell, through a
capability with this id, kind and generation. -/
def State.egressOf (s : State) (part : Nat) (entry : Option Nat) (cell id kind : Nat) (gen : BitVec 16) (ea : Word) (n : Nat) : Option Byte :=
  let top := (s.part part).hwlen * 0x10_0000
  if !(decide (id < 8) || (isPeer id && s.peerUp id) || (isHost id && decide (0 < top ∧ ea.toNat + n ≤ top))) then some cXLATE
  else if !((decide (id < 8) && (kind == 2 || kind == 6 || kind == 10)) || (isPeer id && kind == 8) || (isHost id && kind == 10))
  then some cCAPPERM
  else if kind = 2 then
    let target := ea.toNat / 2 ^ 32 % 512
    let a := ea.toNat % 2 ^ 32
    if domOfCell target = id ∧ ea.toNat / 2 ^ 41 = 0 ∧ Config.viewBase ≤ a ∧ a + n ≤ Config.viewBase + Config.viewSize then none
    else some cXLATE
  else if kind = 8 then
    match s.path entry (domOfCell cell) id with
    | none => some cLAPSED
    | some l => if l.gen.truncate 16 = gen then none else some cGENMIS
  else if isHost id then
    match s.rootLease part (dieOfCell cell) with
    | some l => if l.gen.truncate 16 = gen then none else some cGENMIS
    | none => some cGENMIS
  else none

/-- The same for a capability. -/
def State.egress (s : State) (part : Nat) (entry : Option Nat) (cell : Nat) (c : Capa) (ea : Word) (n : Nat) : Option Byte :=
  s.egressOf part entry cell c.id c.kind.toNat c.gen ea n

/-- The egress checks of the acting context's request. -/
def State.checkEgress (s : State) (c : Capa) (ea : Word) (n : Nat) : Option Byte :=
  s.egress s.self.part s.self.entry s.self.cell c ea n

/-- Steps 1 to 5 of R129 for `n` bytes at `ea` with a permission. -/
def State.checkCap (s : State) (c : Capa) (perm : Nat) (ea : Word) (n : Nat) : Option Byte :=
  if !c.tag then some cCAPTAG
  else if !c.perm.getLsbD perm then some cCAPPERM
  else if !c.holds ea n then some cCAPBND
  else if ea.toNat % n ≠ 0 then some cALIGN
  else s.checkEgress c ea n

/-- The same as a precise fault. -/
def State.needCap (s : State) (c : Capa) (perm : Nat) (ea : Word) (n : Nat) : Attempt Unit :=
  match s.checkCap c perm ea n with
  | some code => s.raise code ea
  | none => .ok ()

/-- What a checked capability names (R287). A capability for partition memory reaches the issuer's own partition. -/
def State.capTarget (s : State) (c : Capa) (ea : Word) : Target :=
  let a := ea.toNat
  if isPeer c.id then .peer c.id a
  else if isHost c.id then .host ((s.part s.self.part).hwbase + a)
  else if c.kind = 2 then .home (.spad (a / 2 ^ 32 % 512) (a % 2 ^ 32 - Config.viewBase))
  else .home (.mem s.self.space a)

/-- A request of the acting context through a capability. -/
def State.capPacket (s : State) (c : Capa) (ea : Word) (op : PktOp) : Packet :=
  let t := s.self
  { ctx := s.cur, part := t.part, tag := t.tag, cell := t.cell, slot := t.slot, word := t.word, port := t.port, entry := t.entry
    target := s.capTarget c ea, op := op, posted := false, cls := classOfId t.cell c.id, gen := some c.gen, capKind := c.kind, capId := c.id, ea := ea }

/-! ## Capability registers (05 R128) -/

/-- Load a capability from an aligned granule, as a weak load of 16 bytes (R128). -/
def execCapld (c : BitVec 3) (a : BitVec 5) (s : State) : Host.Outcome State Fault Refusal :=
  let ea := s.rx a
  conclude do
    s.require (decide (ea.toNat % 16 = 0)) cALIGN ea
    s.checkHome ea 16 false
    s.require (!(region ea == .mem && s.versioned s.self.space ea.toNat)) cXLATE ea
    s.localWaits ea 16 false
    s.fabricWaits ea 16 false false
    match region ea with
    | .mem =>
      let (s, b) ← s.memBank ea 16 false
      return (s.wc c (b.readCap (ea.toNat % 128))).finish
    | _ =>
      let (s, v) ← s.precise ea (s.homeCap (s.locOf ea))
      return (s.wc c v).finish

/-- Store a capability and its tag: a strong store of 16 bytes (R128). -/
def execCapst (c : BitVec 3) (a : BitVec 5) (s : State) : Host.Outcome State Fault Refusal :=
  let ea := s.rx a
  let v := s.rc c
  conclude do
    let now ← s.writeNow ea 16
    s.require (decide (ea.toNat % 16 = 0)) cALIGN ea
    s.checkHome ea 16 true
    s.require (!(region ea == .mem && s.versioned s.self.space ea.toNat)) cXLATE ea
    if now then
      s.localWaits ea 16 true
      s.fabricWaits ea 16 true true
      let s ← s.waitCovered coverAll
      let s := s.syncLoc (s.locOf ea)
      let s ← s.precise ea (s.homeModify (s.locOf ea) 16 fun b o => b.writeCap o v)
      return (s.acquire s.cur).finish
    else
      let s ← s.deferAction (.op 2 0 (s.localPacket ea (.capst v)))
      return s.finish

/-- Narrow the bounds to [cursor, cursor + xb) (R128; 14 R286). -/
def execCapnar (c e : BitVec 3) (b : BitVec 5) (s : State) : Host.Outcome State Fault Refusal :=
  let v := s.rc e
  let n := (s.rx b).toNat
  conclude do
    s.require v.tag cCAPTAG 0
    match v.narrow n with
    | none => s.raise cCAPBND 0
    | some r =>
      s.require (decide (v.base ≤ r.base ∧ r.base + r.len ≤ v.base + v.len)) cCAPBND 0
      return (s.wc c r).finish

/-- Set the cursor; outside the window the tag is cleared (R128). -/
def execCapsetCur (c e : BitVec 3) (b : BitVec 5) (s : State) : Host.Outcome State Fault Refusal :=
  let v := s.rc e
  let n := (s.rx b).toNat % 2 ^ 48
  let r : Capa := { bits := setField v.bits 0 48 n, tag := v.tag && window n v.ex == window v.cursor v.ex }
  .next (s.wc c r).finish

/-- Mask the permissions (R128). -/
def execCapsetPerm (c e : BitVec 3) (b : BitVec 5) (s : State) : Host.Outcome State Fault Refusal :=
  let v := s.rc e
  let r : Capa := { v with bits := setField v.bits 112 8 (v.perm &&& (s.rx b).truncate 8).toNat }
  .next (s.wc c r).finish

/-- Write a tagged capability at privilege 1 or 2 (R128). -/
def execCapsetMint (c : BitVec 3) (a b : BitVec 5) (s : State) : Host.Outcome State Fault Refusal :=
  let r : Capa := { bits := s.rx b ++ s.rx a, tag := true }
  if s.self.pl = 0 then faultOut s cPRIV 0 else .next (s.wc c r).finish

/-- One decoded field (R128). -/
def Capa.field (c : Capa) (k : BitVec 3) : Nat :=
  match k.toNat with
  | 0 => c.cursor
  | 1 => c.base
  | 2 => c.len
  | 3 => c.perm.toNat
  | 4 => c.kind.toNat
  | 5 => c.gen.toNat
  | 6 => c.id
  | _ => c.tag.toNat

/-- Read a decoded field (R128). -/
def execCapget (d : BitVec 5) (c k : BitVec 3) (s : State) : Host.Outcome State Fault Refusal :=
  s.result d (BitVec.ofNat 64 ((s.rc c).field k))

/-! ## Remote loads and stores (05 R129) -/

/-- The waits of a request through a capability whose reply the instruction waits for: an earlier posted operation of its own on
the location is performed first (11 R241, Coherence), and one that waits in a switch on the way is not passed (14 R280). -/
def State.waitPosted (s : State) (p : Packet) : Attempt State :=
  match p.target with
  | .home l => if s.postedOn l p.op.reach then s.again else .ok (s.syncTarget p)
  | _ => .ok s

/-- The wait list action of a `.take` or `.give` through a capability, judged at its home each time it is tried. -/
def State.remoteFe (s : State) (p : Packet) (k : Loc → Attempt State) (op : PktOp) : Attempt State :=
  match p.target with
  | .home l =>
    match s.judgePacket p l with
    | some code => s.raise code p.ea
    | none => k l
  | _ => .ok (s.submit { p with op := op })

/-- Load through a capability (R129). -/
def execRld (d : BitVec 5) (c : BitVec 3) (z o w : BitVec 2) (i : BitVec 12) (s : State) :
    Host.Outcome State Fault Refusal :=
  let n := 2 ^ z.toNat
  let v := s.rc c
  let ea := effAddr (BitVec.ofNat 64 v.cursor) i n
  conclude do
    if o = 3 then s.illInOpt
    s.needCap v permR ea n
    s.waitWc w
    let s ← if o = 2 then s.waitCovered coverAll else .ok s
    let p := s.capPacket v ea (.load n true)
    let s ← s.waitPosted p
    if o = 3 then s.remoteFe { p with xd := d, acq := true } (fun l => s.take l ea d) .take
    else return s.submit { p with xd := d, acq := o != 0 }

/-- Store through a capability: posted when weak or release, waiting when strong or a give (R129, R105). -/
def execRst (t : BitVec 5) (c : BitVec 3) (z o w : BitVec 2) (i : BitVec 12) (s : State) :
    Host.Outcome State Fault Refusal :=
  let n := 2 ^ z.toNat
  let v := s.rc c
  let ea := effAddr (BitVec.ofNat 64 v.cursor) i n
  conclude do
    s.illInHandler
    if o = 3 then s.illInOpt
    s.needCap v permW ea n
    let x := s.rx t
    let p := s.capPacket v ea (.store (leBytes x.toNat n))
    if s.self.opt then
      let s ← s.deferAction (.op o 0 p)
      return s.finish
    else
      s.waitWc w
      let s ← if o ≠ 0 then s.waitCovered coverAll else .ok s
      if o = 3 then s.remoteFe p (fun l => s.give l ea x) (.give x)
      else if o = 2 then return (s.syncTarget p).submit { p with acq := true }
      else return ((s.syncTarget p).post p).finish

/-! ## Migration (05 R131, R132) -/

/-- Guest slots of a pantry core in use. -/
def State.guestsOf (s : State) (core : Nat) : Nat :=
  ((s.die (core / 16)).guests.filter fun g => g.1 = core).length

/-- Move the scalar state to the pantry core beside the address (R131). A region that no lease has homed has no pantry
core: its page is untranslated, XLATE. -/
def execGo (d a : BitVec 5) (s : State) : Host.Outcome State Fault Refusal :=
  let ea := s.rx a
  if s.self.opt then s.result d (status 2)
  else if region ea ≠ .mem then faultOut s cXLATE ea
  else
    match s.page s.self.space ea.toNat with
    | none => faultOut s cXLATE ea
    | some q =>
      let core := q.core
      if s.self.migrated then
        -- a guest that names another core moves there when it has room
        if 32 ≤ s.guestsOf core then s.result d (status 1)
        else
          let s := s.forget s.cur
          let s := s.modDie (core / 16) fun x => { x with guests := x.guests ++ [(core, s.cur)] }
          let s := s.mod fun c => { c with place := .pantry core }
          .next (s.wx d 0).finish
      else if 32 ≤ s.guestsOf core then s.result d (status 1)
      else
        let s := s.modDie (core / 16) fun x => { x with guests := x.guests ++ [(core, s.cur)] }
        let s := s.mod fun c => { c with place := .pantry core }
        .next (s.wx d 0).finish

/-- A migrated thread leaves its guest slot, and takes the messages stored for it (R132; 09 R378). -/
def State.comeHome (s : State) (x : Nat) : State :=
  ((s.leaveGuest x).backHome x).modCtx x fun c => { c with place := .slot, readySince := s.cyc (dieOfCell c.cell) }

/-- Return to the cell; at the cell it has no effect (R132). -/
def execHome (s : State) : Host.Outcome State Fault Refusal :=
  .next (if s.self.migrated then (s.comeHome s.cur).finish else s.finish)

end Sys2Proof.Machine
end

