-- ==== Sys2Proof/Machine/Sync.lean ====
section
/-! DEFINITION. Atomics, fences, barriers and range operations (05 R101-R114, R130, R377; 10 R215, R222, R227). -/

namespace Sys2Proof.Machine

/-! ## Atomics (R102, R103) -/

/-- Add a posted request, or wait while the pantry core's queue is full (R105; 14 R290). -/
def State.postAmo (s : State) (p : Packet) : Attempt State :=
  let room := match p.target with
    | .home (.mem space va) =>
      match s.page space va with
      | some q => s.coreRoom q.core
      | none => true
    | _ => true
  if room then .ok ((s.syncTarget p).post p).finish else s.again

/-- The common course of `amo`. -/
def State.amo (s : State) (op : BitVec 3) (d a b : BitVec 5) (o : BitVec 2) (nf : Bool) (ty : BitVec 2) :
    Host.Outcome State Fault Refusal :=
  let ea := s.rx a
  let n := amoSize ty
  let v := s.rx b
  let exp := s.rx d
  conclude do
    if nf then s.illInHandler else s.illInOpt
    s.require (decide (ea.toNat % n = 0)) cALIGN ea
    s.checkHome ea n true
    s.require (!(region ea == .mem && s.versioned s.self.space ea.toNat)) cXLATE ea
    let p := s.localPacket ea (.amo op ty v exp)
    if s.self.opt then
      let s ← s.deferAction (.op o 0 p)
      return s.finish
    else
      s.localWaits ea n true
      let s ← if o ≠ 0 then s.waitCovered coverAll else .ok s
      match region ea with
      | .mem =>
        if nf then s.postAmo { p with cls := s.classOfMem s.self.cell s.self.space ea.toNat }
        else return (s.syncTarget p).submit { p with xd := d, acq := o != 0, sc := o == 2 }
      | _ =>
        let (s, old, fl) ← s.precise ea (s.homeAmo (s.locOf ea) op ty v exp)
        if nf then return (s.mod fun c => { c with mfl := c.mfl ||| fl }).finish
        else
          let s := (s.orFlags fl).wx d (amoOld ty old)
          return (if o ≠ 0 then s.acquire s.cur else s).finish

/-- Add (R102). -/
def execAmoAdd (d a b : BitVec 5) (o : BitVec 2) (n : BitVec 1) (t : BitVec 2) (s : State) :
    Host.Outcome State Fault Refusal := s.amo 0 d a b o (n == 1) t

/-- Minimum (R102). -/
def execAmoMin (d a b : BitVec 5) (o : BitVec 2) (n : BitVec 1) (t : BitVec 2) (s : State) :
    Host.Outcome State Fault Refusal := s.amo 1 d a b o (n == 1) t

/-- Maximum (R102). -/
def execAmoMax (d a b : BitVec 5) (o : BitVec 2) (n : BitVec 1) (t : BitVec 2) (s : State) :
    Host.Outcome State Fault Refusal := s.amo 2 d a b o (n == 1) t

/-- Bitwise AND (R102). -/
def execAmoAnd (d a b : BitVec 5) (o : BitVec 2) (n : BitVec 1) (t : BitVec 2) (s : State) :
    Host.Outcome State Fault Refusal := s.amo 3 d a b o (n == 1) t

/-- Bitwise OR (R102). -/
def execAmoOr (d a b : BitVec 5) (o : BitVec 2) (n : BitVec 1) (t : BitVec 2) (s : State) :
    Host.Outcome State Fault Refusal := s.amo 4 d a b o (n == 1) t

/-- Bitwise XOR (R102). -/
def execAmoXor (d a b : BitVec 5) (o : BitVec 2) (n : BitVec 1) (t : BitVec 2) (s : State) :
    Host.Outcome State Fault Refusal := s.amo 5 d a b o (n == 1) t

/-- Swap (R102). -/
def execAmoSwp (d a b : BitVec 5) (o t : BitVec 2) (s : State) : Host.Outcome State Fault Refusal :=
  s.amo 6 d a b o false t

/-- Compare and swap (R102). -/
def execAmoCas (d a b : BitVec 5) (o t : BitVec 2) (s : State) : Host.Outcome State Fault Refusal :=
  s.amo 7 d a b o false t

/-- The common course of `ramo` (R130). -/
def State.ramo (s : State) (op : BitVec 3) (d : BitVec 5) (c : BitVec 3) (b : BitVec 5) (o : BitVec 2) (nf : Bool)
    (ty : BitVec 2) : Host.Outcome State Fault Refusal :=
  let v := s.rc c
  let ea := BitVec.ofNat 64 v.cursor
  let x := s.rx b
  let exp := s.rx d
  conclude do
    if nf then s.illInHandler else s.illInOpt
    s.needCap v permA ea (amoSize ty)
    let p := s.capPacket v ea (.amo op ty x exp)
    if s.self.opt then
      let s ← s.deferAction (.op o 0 p)
      return s.finish
    else
      let s ← if o ≠ 0 then s.waitCovered coverAll else .ok s
      if nf then s.postAmo p
      else
        let s ← s.waitPosted p
        return s.submit { p with xd := d, acq := o != 0, sc := o == 2 }

/-- Add through a capability (R130). -/
def execRamoAdd (d : BitVec 5) (c : BitVec 3) (b : BitVec 5) (o : BitVec 2) (n : BitVec 1) (t : BitVec 2) (s : State) :
    Host.Outcome State Fault Refusal := s.ramo 0 d c b o (n == 1) t

/-- Minimum through a capability (R130). -/
def execRamoMin (d : BitVec 5) (c : BitVec 3) (b : BitVec 5) (o : BitVec 2) (n : BitVec 1) (t : BitVec 2) (s : State) :
    Host.Outcome State Fault Refusal := s.ramo 1 d c b o (n == 1) t

/-- Maximum through a capability (R130). -/
def execRamoMax (d : BitVec 5) (c : BitVec 3) (b : BitVec 5) (o : BitVec 2) (n : BitVec 1) (t : BitVec 2) (s : State) :
    Host.Outcome State Fault Refusal := s.ramo 2 d c b o (n == 1) t

/-- Bitwise AND through a capability (R130). -/
def execRamoAnd (d : BitVec 5) (c : BitVec 3) (b : BitVec 5) (o : BitVec 2) (n : BitVec 1) (t : BitVec 2) (s : State) :
    Host.Outcome State Fault Refusal := s.ramo 3 d c b o (n == 1) t

/-- Bitwise OR through a capability (R130). -/
def execRamoOr (d : BitVec 5) (c : BitVec 3) (b : BitVec 5) (o : BitVec 2) (n : BitVec 1) (t : BitVec 2) (s : State) :
    Host.Outcome State Fault Refusal := s.ramo 4 d c b o (n == 1) t

/-- Bitwise XOR through a capability (R130). -/
def execRamoXor (d : BitVec 5) (c : BitVec 3) (b : BitVec 5) (o : BitVec 2) (n : BitVec 1) (t : BitVec 2) (s : State) :
    Host.Outcome State Fault Refusal := s.ramo 5 d c b o (n == 1) t

/-- Swap through a capability (R130). -/
def execRamoSwp (d : BitVec 5) (c : BitVec 3) (b : BitVec 5) (o t : BitVec 2) (s : State) :
    Host.Outcome State Fault Refusal := s.ramo 6 d c b o false t

/-- Compare and swap through a capability (R130). -/
def execRamoCas (d : BitVec 5) (c : BitVec 3) (b : BitVec 5) (o t : BitVec 2) (s : State) :
    Host.Outcome State Fault Refusal := s.ramo 7 d c b o false t

/-! ## Fences (R106-R108) -/

/-- A fence of domain scope or wider: its waits, then later loads see the homes (R106, R377; 11 R233). -/
def State.fence (s : State) (v : Cover) : Host.Outcome State Fault Refusal :=
  conclude do
    let s ← s.waitCovered v
    return (s.acquire s.cur).finish

/-- Orders within the cell, which the cell already keeps; no wait and no cover (R106, R377; 11 R234). The cell evicts the dirty
lines of the context's space id, guarded ones too, as it may at any time (10 R213, R217), so that an `inv` after the fence
discards no store that a fetch is to see (03 R55; log 73: DEDUCED). -/
def execFenceCell (s : State) : Host.Outcome State Fault Refusal :=
  .next (s.l1EvictAll s.self.cell fun l => l.sid = s.self.sid).finish

/-- Domain fence (R106). -/
def execFenceDom (s : State) : Host.Outcome State Fault Refusal := s.fence coverDom

/-- Die fence (R106). -/
def execFenceDie (s : State) : Host.Outcome State Fault Refusal := s.fence coverDie

/-- Module fence (R106). -/
def execFenceMod (s : State) : Host.Outcome State Fault Refusal := s.fence coverMod

/-- System fence (R106). -/
def execFenceSys (s : State) : Host.Outcome State Fault Refusal := s.fence coverAll

/-- Write the cell's dirty bytes to L2, guarded ones included, for later copies (R107; 10 R215, R222). -/
def execFenceX (s : State) : Host.Outcome State Fault Refusal :=
  conclude do
    let s := s.l1WriteBackAll s.self.cell fun _ => true
    let s ← s.takeDrop coverX
    return s.finish

/-- Fence against every agent, then post a release add (R108). -/
def execFlagf (c : BitVec 3) (a : BitVec 5) (s : State) : Host.Outcome State Fault Refusal :=
  let v := s.rc c
  let ea := BitVec.ofNat 64 v.cursor
  let x := s.rx a
  conclude do
    s.illInHandler
    s.needCap v permA ea 8
    let p := s.capPacket v ea (.amo 0 1 x 0)
    if s.self.opt then
      let s ← s.deferAction (.op 1 0 p)
      return s.finish
    else
      let s ← s.waitCovered coverAll
      (s.acquire s.cur).postAmo p

/-! ## Barriers (R110-R112) -/

/-- The checks of R110. Words of a versioned page are reached by `ldv` and `stv` alone (R94, R98). -/
def State.checkBarrier (s : State) (ea : Word) (store : Bool) : Attempt Unit := do
  s.require (decide (ea.toNat % 16 = 0)) cALIGN ea
  s.checkHome ea 16 store
  s.require (!(region ea == .mem && s.versioned s.self.space ea.toNat)) cXLATE ea

/-- Arrive after a release wait (R111). -/
def execBarArv (d a : BitVec 5) (s : State) : Host.Outcome State Fault Refusal :=
  let ea := s.rx a
  conclude do
    s.illInOpt
    s.checkBarrier ea true
    s.localWaits ea 16 true
    let s ← s.waitCovered coverAll
    let p := { s.localPacket ea (.arrive false) with xd := d }
    return (s.syncTarget p).submit p

/-- Declare bytes (R111): a release-class write (11 R231). -/
def execBarExp (a b : BitVec 5) (s : State) : Host.Outcome State Fault Refusal :=
  let ea := s.rx a
  let n := (s.rx b).toNat
  conclude do
    s.illInOpt
    s.checkBarrier ea true
    s.localWaits ea 16 true
    let s ← s.waitCovered coverAll
    let p := s.localPacket ea (.declare n)
    return (s.syncTarget p).submit p

/-- Wait at a home until the phase differs; then the wait ends with acquire order (R111, R112). -/
def State.waitPhase (s : State) (l : Loc) (ea : Word) (ph : Nat) : Attempt State := do
  s.fabricWaits ea 16 false true
  let s := s.syncLoc l
  let (s, now) ← s.precise ea (s.phaseAt l)
  if now = ph then .error (s.park (.phase l ph)) else return s.acquire s.cur

/-- Park until the phase differs from xb (R112). -/
def execBarWt (a b : BitVec 5) (s : State) : Host.Outcome State Fault Refusal :=
  let ea := s.rx a
  let ph := (s.rx b).toNat % 2 ^ 15
  conclude do
    s.illInOpt
    s.checkBarrier ea false
    s.localWaits ea 16 false
    let s ← s.waitPhase (s.locOf ea) ea ph
    return s.finish

/-- The wait of `bar.aw` past the phase in xd, and its end (R112). -/
def State.endAw (s : State) (l : Loc) (ea : Word) (ph : Nat) : Attempt State := do
  let s ← s.waitPhase l ea ph
  return (s.mod fun c => { c with ap := false }).finish

/-- Arrive once and wait for the phase to move on (R112). A parked wait keeps the barrier it arrived at. -/
def execBarAw (d a : BitVec 5) (s : State) : Host.Outcome State Fault Refusal :=
  let ea := s.rx a
  conclude do
    s.illInOpt
    match s.self.ap, s.self.wait with
    | true, .phase l ph => s.endAw l ea ph
    | true, _ =>
      s.checkBarrier ea true
      s.localWaits ea 16 false
      s.endAw (s.locOf ea) ea ((s.rx d).toNat % 2 ^ 15)
    | false, _ =>
      s.checkBarrier ea true
      s.localWaits ea 16 true
      let s ← s.waitCovered coverAll
      let p := { s.localPacket ea (.arrive true) with xd := d }
      return (s.syncTarget p).submit p

/-! ## Range operations (R113, R114) -/

/-- First and last line addresses of the range, if it names any (R113). -/
def rangeOf (a n : Word) : Option (Nat × Nat) :=
  if n = 0 then none else some (a.toNat / 128 * 128, (a.toNat + n.toNat - 1) / 128 * 128)

/-- Is the line in a guarded range of a lock that another context holds (R114)? -/
def State.guardedByOther (s : State) (space va : Nat) : Bool :=
  s.leases.any fun p =>
    match p.2.obj, p.2.holder with
    | .lock q _, some h =>
      q = space && p.2.alive && h.ctx ≠ s.cur && h.ranges.any fun r => decide (r.1 ≤ va ∧ va < r.1 + r.2)
    | _, _ => false

/-- The lines of the cell's L1 in the range, of the context's space id. -/
def State.l1InRange (s : State) (lo hi : Nat) : List (Nat × L1Line) :=
  (s.cell s.self.cell).l1.filter fun p => p.2.sid = s.self.sid && decide (lo ≤ p.2.va ∧ p.2.va ≤ hi)

/-- The lines of the module's L2 in the range: die, physical address, line. -/
def State.l2InRange (s : State) (lo hi : Nat) : List (Nat × Nat × L2Line) :=
  s.dies.flatMap fun (d : Nat × Die) =>
    (d.2.l2.filter fun (p : Nat × L2Line) => p.2.sid = s.self.sid && decide (lo ≤ p.2.va ∧ p.2.va ≤ hi)).map fun p => (d.1, p)

/-- Count a discarded dirty line in the issuing cell (10 R227, R228). -/
def State.countDiscard (s : State) (cell : Nat) : State :=
  s.modCell cell fun c => { c with disc := if c.disc = BitVec.allOnes 32 then c.disc else c.disc + 1 }

/-- Discard L1 lines (R114; 10 R227). -/
def State.invL1 (s : State) (lo hi : Nat) : State :=
  (s.l1InRange lo hi).foldl
    (fun s p =>
      if s.guardedByOther p.2.sid.toNat p.2.va then s
      else
        let s := if p.2.dirty ≠ 0 then s.countDiscard s.self.cell else s
        s.l1Drop s.self.cell p.1) s

/-- Discard L2 lines. -/
def State.invL2 (s : State) (lo hi : Nat) : State :=
  (s.l2InRange lo hi).foldl
    (fun s p =>
      if s.guardedByOther p.2.2.sid.toNat p.2.2.va then s
      else
        let s := if p.2.2.dirty then s.countDiscard s.self.cell else s
        s.modDie p.1 fun d => { d with l2 := tdel d.l2 p.2.1 }) s

/-- Write dirty L1 lines to L2. -/
def State.wbL1 (s : State) (lo hi : Nat) : State :=
  (s.l1InRange lo hi).foldl (fun s p => s.l1WriteBack s.self.cell p.1) s

/-- Write dirty L2 lines to DRAM. -/
def State.wbL2 (s : State) (lo hi : Nat) : State :=
  (s.l2InRange lo hi).foldl
    (fun s p =>
      if p.2.2.dirty then
        (s.dramWrite p.1 p.2.1 p.2.2).modDie p.1 fun d => { d with l2 := tmod {} d.l2 p.2.1 fun l => { l with dirty := false } }
      else s) s

/-- The common course of inv, wb and wbinv (R114): they wait while the split of the array changes (01 R25). -/
def State.rangeOp (s : State) (a b : BitVec 5) (f : State → Nat → Nat → State) : Host.Outcome State Fault Refusal :=
  match rangeOf (s.rx a) (s.rx b) with
  | none => .next s.finish
  | some (lo, hi) =>
    if lo < Config.memBase then faultOut s cXLATE (s.rx a)
    else if (s.cell s.self.cell).spx then .next (s.stall .again)
    else .next (f s lo hi).finish

/-- Discard the lines of the range (R113, R114). -/
def execInv (a b : BitVec 5) (l : BitVec 1) (s : State) : Host.Outcome State Fault Refusal :=
  s.rangeOp a b fun s lo hi => if l = 1 then (s.invL1 lo hi).invL2 lo hi else s.invL1 lo hi

/-- Write the dirty lines of the range back (R113, R114). -/
def execWb (a b : BitVec 5) (l : BitVec 1) (s : State) : Host.Outcome State Fault Refusal :=
  s.rangeOp a b fun s lo hi => if l = 1 then (s.wbL1 lo hi).wbL2 lo hi else s.wbL1 lo hi

/-- Write back, then discard (R113, R114). -/
def execWbinv (a b : BitVec 5) (l : BitVec 1) (s : State) : Host.Outcome State Fault Refusal :=
  s.rangeOp a b fun s lo hi =>
    if l = 1 then (((s.wbL1 lo hi).wbL2 lo hi).invL1 lo hi).invL2 lo hi else (s.wbL1 lo hi).invL1 lo hi

/-- Line addresses of a page that lie in the range. -/
def Page.linesIn (p : Page) (lo hi : Nat) : List Nat :=
  ((List.range (p.size / 128)).map fun k => p.va + 128 * k).filter fun a => decide (lo ≤ a ∧ a ≤ hi)

/-- Request the range's lines into L1 or L2: a request that meets a fault is dropped (R113, R114), and so is one into L1 while the
split of the array changes, since `pf` never waits (01 R25; log 29). -/
def execPf (a b : BitVec 5) (l : BitVec 1) (s : State) : Host.Outcome State Fault Refusal :=
  match rangeOf (s.rx a) (s.rx b) with
  | none => .next s.finish
  | some (lo, hi) =>
    let c := s.self
    let lines := (s.pages.filter fun p => p.sid = c.sid && !p.second).flatMap fun p => p.linesIn lo hi
    let one (s : State) (va : Nat) : State :=
      if l = 1 then
        match s.homeLine c.space va with
        | .ok (s, _, _) => s
        | .error _ => s
      else if (s.cell c.cell).spx || ((s.cell c.cell).l1Line c.sid va).isSome then s
      else
        match s.l1Fill c.cell c va with
        | .ok (s, _, _) => s
        | .error _ => s
    .next (lines.foldl one s).finish

end Sys2Proof.Machine
end

