-- ==== Sys2Proof/Machine/Engine.lean ====
section
/-! DEFINITION. Matrix engine, converter and ring latch: engine registers, the instructions and their checks
(07 R155-R173; 12 R254-R260). The operations themselves run in EngineRun. -/

namespace Sys2Proof.Machine

/-! ## Engine registers (R155-R157) -/

/-- Planes of a plane code (R156). -/
def planesOf (pc : BitVec 3) : Nat := 8 - pc.toNat

def EngineRegs.ka (m : EngineRegs) : Nat := planesOf m.kpa
def EngineRegs.kb (m : EngineRegs) : Nat := planesOf m.kpb
def EngineRegs.chkb (m : EngineRegs) : Bool := m.chk.getLsbD 0
def EngineRegs.chka (m : EngineRegs) : Bool := m.chk.getLsbD 1
def EngineRegs.qk (m : EngineRegs) : Nat := planesOf (m.qcf.truncate 3)
def EngineRegs.qrm (m : EngineRegs) : Bool := m.qcf.getLsbD 3
def EngineRegs.qshape (m : EngineRegs) : Nat := m.qcf.toNat / 16

/-- Elements of the tensor that the converter registers describe (R170). -/
def EngineRegs.elements (m : EngineRegs) : Nat :=
  if m.qshape = 1 then 2048 else if m.qshape = 2 then 4096 else 64 * (m.qn.toNat + 1)

/-- The ring latch as `me.lat` reads it (R156). -/
def Cell.lat (c : Cell) : Word :=
  BitVec.ofNat 64 ((match c.latch.kst with | .free => 0 | .filling => 1 | .loaded => 2)
    + (if c.latch.send.isSome then 4 else 0) + c.mq.length * 8)

/-- Read an engine register (R157). -/
def State.engineReg (s : State) (e : Nat) : Word :=
  let m := s.self.me
  match e with
  | 0 => m.kpa.zeroExtend 64
  | 1 => m.kpb.zeroExtend 64
  | 2 => m.chk.zeroExtend 64
  | 3 => m.vsb.zeroExtend 64
  | 4 => m.qcf.zeroExtend 64
  | 5 => m.qsc.zeroExtend 64
  | 6 => m.qn.zeroExtend 64
  | 7 => (s.cell s.self.cell).lat
  | _ => 0

/-- Write an engine register: a reserved encoding keeps its field (R157). -/
def EngineRegs.write (m : EngineRegs) (e : Nat) (v : Word) : EngineRegs :=
  let pc (old : BitVec 3) : BitVec 3 := if v &&& 7 = 7 then old else v.truncate 3
  match e with
  | 0 => { m with kpa := pc m.kpa }
  | 1 => { m with kpb := pc m.kpb }
  | 2 => { m with chk := v.truncate 2 }
  | 3 => { m with vsb := v.truncate 20 }
  | 4 =>
    let shape : BitVec 2 := if (v >>> 4) &&& 3 = 3 then (m.qcf >>> 4).truncate 2 else (v >>> 4).truncate 2
    let rm : BitVec 1 := (v >>> 3).truncate 1
    { m with qcf := shape ++ rm ++ pc (m.qcf.truncate 3) }
  | 5 => { m with qsc := v.truncate 20 }
  | 6 => { m with qn := v.truncate 10 }
  | _ => m

/-- Write an engine register (R157). -/
def execMset (a e : BitVec 5) (s : State) : Host.Outcome State Fault Refusal :=
  let v := s.rx a
  .next (s.mod fun c => { c with me := c.me.write e.toNat v, badRegs := ndel c.badRegs (ek e.toNat) }).finish

/-- Read an engine register (R157). -/
def execMget (e d : BitVec 5) (s : State) : Host.Outcome State Fault Refusal := s.result d (s.engineReg e.toNat)

/-! ## Checks (R161) -/

/-- Is the address in view 0? -/
def inView0 (a : Word) : Bool :=
  match region a with
  | .view 0 _ => true
  | _ => false

/-- The raw offset of a view-0 address. -/
def rawOff (a : Word) : Nat := a.toNat - Config.viewBase

/-- An operand range: its address, bytes, alignment, and whether the operation writes it. -/
structure Operand where
  a     : Word
  n     : Nat
  align : Nat
  write : Bool := false

/-- The first operand that fails a test. -/
def State.eachOperand (s : State) (l : List Operand) (bad : Operand → Bool) (code : Byte) : Attempt Unit :=
  match l.find? bad with
  | some o => s.raise code o.a
  | none => .ok ()

/-- The checks of R161 on scratchpad operands, in order: view 0, alignment, the configured size, the leases, and a
prompt book for a destination (13 R267). -/
def State.checkOperands (s : State) (l : List Operand) : Attempt Unit := do
  let c := s.self
  let size := (s.cell c.cell).spadSize
  s.eachOperand l (fun o => !inView0 o.a) cXLATE
  s.eachOperand l (fun o => !decide (o.a.toNat % o.align = 0)) cALIGN
  s.eachOperand l (fun o => decide (size < rawOff o.a + o.n)) cXLATE
  s.eachOperand l (fun o => !s.holdsRange c.entry c.cell (rawOff o.a) o.n) cLAPSED
  s.eachOperand l (fun o => o.write && s.inBook c.cell (rawOff o.a) o.n) cXLATE

/-- The population must hold the tile (R161). -/
def State.needTile (s : State) (tile : Nat) : Attempt Unit :=
  s.require (s.holdsTile s.self.entry s.self.cell tile) cLAPSED 0

/-- The population must hold some tile of the cell (R164). -/
def State.needAnyTile (s : State) : Attempt Unit :=
  s.require ((List.range 4).any fun t => s.holdsTile s.self.entry s.self.cell t) cLAPSED 0

/-! ## Trailers (02 R38) -/

/-- One bit of the reflected CRC-32C. -/
def crcBits : Nat → BitVec 32 → BitVec 32
  | 0, c => c
  | n + 1, c => crcBits n (if c.getLsbD 0 then (c >>> 1) ^^^ 0x82F63B78#32 else c >>> 1)

/-- CRC-32C of bytes: polynomial 0x1EDC_6F41 reflected, all ones before and after (R38). -/
def crc32c (bs : List Byte) : BitVec 32 :=
  ~~~(bs.foldl (fun c b => crcBits 8 (c ^^^ b.zeroExtend 32)) (BitVec.allOnes 32))

/-- The CRC of a tensor: planes, then scales. -/
def tensorCrc (b : Memory) (pl scl elems : Nat) : BitVec 32 :=
  crc32c (mgetBytes b pl elems ++ mgetBytes b scl (elems / 4))

/-- Does the trailer after the scales pass the three comparisons of R38? -/
def trailerOk (b : Memory) (pl scl elems shape k : Nat) : Bool :=
  let t := scl + elems / 4
  leNat (mgetBytes b (t + 4) 4) == (tensorCrc b pl scl elems).toNat && (mget b (t + 8)).toNat == shape
    && decide (k ≤ (mget b (t + 1)).toNat)

/-! ## Acceptance (R158, R159; 10 R220) -/

/-- Is the operation one of the converter's? -/
def EngKind.converter : EngKind → Bool
  | .qcvt .. => true
  | .qchkw .. => true
  | _ => false

/-- Room in the operation's queue and on the scoreboard. -/
def Cell.canAccept (c : Cell) (k : EngKind) : Bool :=
  (if k.converter then decide (c.cq.length < 2) else decide (c.mq.length < 8)) && decide (c.boardUsed + k.entries ≤ 64)

/-- Put an operation into its queue. The swap of an `mldb` comes in the next cycle at the earliest (12 R256). -/
def State.enqueue (s : State) (cell : Nat) (op : EngOp) : State :=
  let next := s.cyc (dieOfCell cell) + 1
  s.modCell cell fun c =>
    let op := { op with num := c.accNum, endAt := if op.kind = .swapLoad then some next else none }
    let c := { c with accNum := c.accNum + 1 }
    if op.kind.converter then { c with cq := c.cq ++ [op] } else { c with mq := c.mq ++ [op] }

/-- The queue of an instruction whose operation takes its place in the order of issue: true for the converter's. An `mldb`
takes its place when its load ends (12 R256), and while its load runs no matrix operation is accepted ahead of it. -/
def engineQueue : Instr → Option Bool
  | .mma .. | .mzero .. | .mlda .. | .msta .. | .mrot => some false
  | .qcvt .. | .qchkW .. => some true
  | _ => none

/-- Does a slot of the cell wait for the acceptance of an operation that it issued before the acting context's (12 R255;
log 74: DEDUCED)? One slot of a cell issues in a cycle, so the cycles of issue give the order. -/
def State.askedBefore (s : State) (conv : Bool) : Bool :=
  let c := s.self
  s.ctxs.any fun p =>
    p.1 ≠ s.cur && p.2.cell = c.cell && p.2.place = .slot && p.2.charged && p.2.vacating.isNone &&
      decide (p.2.lastIssue.getD 0 < c.lastIssue.getD 0) &&
      (match p.2.wait with | .again | .load _ => true | _ => false) &&
      (match decodeWord p.2.word with | .ok i => engineQueue i == some conv | .error _ => false)

/-- Does another slot's `mldb` load run in the cell? -/
def State.loadAhead (s : State) : Bool :=
  match (s.cell s.self.cell).latch.loadBy with
  | some y => y ≠ s.cur
  | none => false

/-- May the acting context's operation be accepted now? -/
def State.accepts (s : State) (kind : EngKind) : Bool :=
  let k := s.cell s.self.cell
  !k.spx && k.canAccept kind &&
    (kind = .swapLoad || (!s.askedBefore kind.converter && (kind.converter || !s.loadAhead)))

/-- Accept an operation of the acting context, or wait with the load or check it has made kept. -/
def State.acceptOp (s : State) (kind : EngKind) (reads writes : List (Nat × Nat)) (cycles : Nat) : Attempt State :=
  let c := s.self
  if s.accepts kind then
    .ok (s.enqueue c.cell { kind := kind, ctx := s.cur, entry := c.entry, part := c.part, reads := reads, writes := writes, cycles := cycles })
  else
    match c.wait with
    | .load t => .error (s.stall (.load t))
    | _ => s.again

/-- The waiting time of a check or load made in the slot: begun now, or over. -/
def State.timed (s : State) (n : Nat) : Attempt Unit :=
  match s.self.wait with
  | .load t => if t ≤ s.now then .ok () else .error (s.stall (.load t))
  | _ => .error (s.stall (.load (s.now + n)))

/-! ## Matrix instructions -/

/-- Engine cycles of an mma (R162). -/
def mmaCycles (ka kb : Nat) : Nat :=
  if ka ≤ 2 ∧ kb ≤ 2 then 16 else 32 * ((ka + 3) / 4) * ((kb + 3) / 4)

/-- Multiply-accumulate (R161). The trailer check reads the tile as it stands: it does not wait for an earlier accepted
conversion or copy that still writes it (log 75: DESIGN CHOICE; 02 R38 gives no such wait, as R172 does for `qchk`). -/
def execMma (a b : BitVec 5) (d : BitVec 2) (s : State) : Host.Outcome State Fault Refusal :=
  let xa := s.rx a
  let xb := s.rx b
  let m := s.self.me
  let n := if m.chka then 528 else 512
  conclude do
    s.needTile d.toNat
    s.checkOperands [{ a := xa, n := 2048, align := 64 }, { a := xb, n := n, align := 16 }]
    if m.chka then
      s.timed 41
      s.require (trailerOk (s.cell s.self.cell).spad.bytes (rawOff xa) (rawOff xb) 2048 1 m.ka) cTRAILER xb
    let s ← s.acceptOp (.mma d.toNat (rawOff xa) (rawOff xb) m.ka m.kb) [(rawOff xa, 2048), (rawOff xb, 512)] []
      (mmaCycles m.ka m.kb)
    return s.finish

/-- Clear a tile (R163). -/
def execMzero (d : BitVec 2) (s : State) : Host.Outcome State Fault Refusal :=
  conclude do
    s.needTile d.toNat
    let s ← s.acceptOp (.mzero d.toNat) [] [] 8
    return s.finish

/-- Load a tile from the scratchpad (R163). -/
def execMlda (a : BitVec 5) (d : BitVec 2) (s : State) : Host.Outcome State Fault Refusal :=
  let xa := s.rx a
  conclude do
    s.needTile d.toNat
    s.checkOperands [{ a := xa, n := 0x8000, align := 64 }]
    let s ← s.acceptOp (.mlda d.toNat (rawOff xa)) [(rawOff xa, 0x8000)] [] 512
    return s.finish

/-- Store a tile to the scratchpad (R163). -/
def execMsta (a : BitVec 5) (d : BitVec 2) (s : State) : Host.Outcome State Fault Refusal :=
  let xa := s.rx a
  conclude do
    s.needTile d.toNat
    s.checkOperands [{ a := xa, n := 0x8000, align := 64, write := true }]
    let s ← s.acceptOp (.msta d.toNat (rawOff xa)) [] [(rawOff xa, 0x8000)] 512
    return s.finish

/-- A piece of a bank as bytes numbered from a new offset. -/
def rebase (b : Memory) (off n at_ : Nat) : Memory :=
  (b.filter fun p => decide (off ≤ p.1 ∧ p.1 < off + n)).map fun p => (p.1 - off + at_, p.2)

/-- Is the cell's K reserved by an `mrot` whose swap is still to be made (12 R257)? -/
def Cell.reserved (c : Cell) : Bool := c.mq.any fun o => o.kind = .swapRot

/-- The previous and next position of the ring (12 R253). -/
def succCell (cell : Nat) : Nat := cell / 8 * 8 + (cell + 1) % 8
def predCell (cell : Nat) : Nat := cell / 8 * 8 + (cell + 7) % 8

/-- The `mrot` whose send is next: the first in the queue not yet sent, with no swap ahead of it. -/
def firstUnsent : List EngOp → Option EngOp
  | [] => none
  | o :: t =>
    if o.kind = .swapRot then (if o.sent then none else some o)
    else if o.kind = .swapLoad then none
    else firstUnsent t

/-- Has the cell a send that can begin once its successor's K is FREE (12 R256)? -/
def Cell.sendWaits (c : Cell) : Bool := (firstUnsent c.mq).isSome && c.latch.send.isNone && c.latch.loadBy.isNone

/-- May an `mldb` load begin: no transfer under way, K FREE and not reserved, no send of the predecessor that takes K in this
cycle, and no operation issued before it still to be accepted (R165; 12 R255, R257)? -/
def State.canLoad (s : State) (cell : Nat) : Bool :=
  let c := s.cell cell
  c.latch.kst == .free && !c.reserved && c.latch.send.isNone && c.latch.loadBy.isNone && !(s.cell (predCell cell)).sendWaits &&
    !s.askedBefore false

/-- The latch after the load of an `mldb` is given up. -/
def State.freeLatch (s : State) (cell : Nat) : State :=
  s.modCell cell fun k => { k with latch := { k.latch with kst := .free, loadBy := none } }

/-- Load a B tile into K and queue its swap (R166; 12 R256, R259). The load takes 80 or 81 cycles in the slot; a fault gives K
back. A poisoned source marks the tile (12 R260; 20 R361). -/
def execMldb (a b : BitVec 5) (s : State) : Host.Outcome State Fault Refusal :=
  let xa := s.rx a
  let xb := s.rx b
  let c := s.self
  let m := c.me
  let n := if m.chkb then 1040 else 1024
  let cycles := if m.chkb then 81 else 80
  let mine : Bool := (s.cell c.cell).latch.loadBy = some s.cur
  let given := if mine then s.freeLatch c.cell else s
  conclude do
    given.needAnyTile
    given.checkOperands [{ a := xa, n := 4096, align := 64 }, { a := xb, n := n, align := 16 }]
    let p := rawOff xa
    let q := rawOff xb
    let k := s.cell c.cell
    if mine then
      s.timed cycles
      if m.chkb && !trailerOk k.spad.bytes p q 4096 2 m.kb then given.raise cTRAILER xb
      else
        let s ← s.acceptOp .swapLoad [(p, 4096), (q, 1024)] [] cycles
        let bad := k.spad.bad p 4096 || k.spad.bad q 1024
        let s := s.modCell c.cell fun k =>
          { k with latch := { k.latch with
              k := rebase k.spad.bytes p 4096 0 ++ rebase k.spad.bytes q 1024 4096
              kBad := bad, kst := .loaded, loadBy := none } }
        let s := if bad then s.reportCtx s.cur cPOISON false 2 xa 0 else s
        return s.finish
    else if !k.spx && s.canLoad c.cell && !(s.boardStalls c.cell c.sid (view0 p) (view0 (p + 4096)) false)
        && !(s.boardStalls c.cell c.sid (view0 q) (view0 (q + 1024)) false) then
      let s := s.modCell c.cell fun k => { k with latch := { k.latch with kst := .filling, loadBy := some s.cur } }
      .error (s.stall (.load (s.now + cycles)))
    else s.again

/-- Queue sending F to the successor and the swap that follows (R167). -/
def execMrot (s : State) : Host.Outcome State Fault Refusal :=
  conclude do
    s.needAnyTile
    let s ← s.acceptOp .swapRot [] [] 80
    return s.finish

/-! ## Converter instructions (R170-R173) -/

/-- Queue a quantisation, or answer OVERLAP (R171). -/
def execQcvt (a b d : BitVec 5) (s : State) : Host.Outcome State Fault Refusal :=
  let xa := s.rx a
  let xb := s.rx b
  let m := s.self.me
  let e := m.elements
  let scl := m.qsc.toNat
  conclude do
    s.checkOperands
      [{ a := xa, n := 4 * e, align := 64 }, { a := xb, n := e, align := 64, write := true },
       { a := BitVec.ofNat 64 (view0 scl), n := e / 4 + 16, align := 16, write := true }]
    if overlaps (rawOff xa) (4 * e) (rawOff xb) e || overlaps (rawOff xa) (4 * e) scl (e / 4 + 16) then
      return (s.wx d (status 1)).finish
    else
      let s ← s.acceptOp (.qcvt (rawOff xa) (rawOff xb) scl e m.qk m.qrm m.qshape) [(rawOff xa, 4 * e)]
        [(rawOff xb, e), (scl, e / 4 + 16)] (e / 16)
      return (s.wx d 0).finish

/-- The mismatch mask of a tensor against its trailer (R172). -/
def checkMask (b : Memory) (pl scl elems shape : Nat) : Nat :=
  let t := scl + elems / 4
  let planes := (mget b (t + 1)).toNat
  (if leNat (mgetBytes b (t + 4) 4) = (tensorCrc b pl scl elems).toNat then 0 else 1)
    + (if (mget b (t + 8)).toNat = shape then 0 else 2)
    + (if 2 ≤ planes ∧ planes ≤ 8 then 0 else 4)

/-- Check a tensor against its trailer, in the slot (R172). A poisoned unit is a precise fault, as for a load (log 18). -/
def execQchk (a b d : BitVec 5) (s : State) : Host.Outcome State Fault Refusal :=
  let xa := s.rx a
  let xb := s.rx b
  let c := s.self
  let e := c.me.elements
  let n := e + e / 4 + 16
  conclude do
    s.checkOperands [{ a := xa, n := e, align := 64 }, { a := xb, n := e / 4 + 16, align := 16 }]
    let k := s.cell c.cell
    if k.spx || s.boardStalls c.cell c.sid xa.toNat (xa.toNat + e) false
        || s.boardStalls c.cell c.sid xb.toNat (xb.toNat + e / 4 + 16) false then s.again
    s.timed ((n + 63) / 64)
    if k.spad.bad (rawOff xa) e || k.spad.bad (rawOff xb) (e / 4 + 16) then s.raise cPOISON xa
    let s := s.chargeNow c.cell c.entry ((n + 63) / 64) 0
    return (s.wx d (BitVec.ofNat 64 (checkMask k.spad.bytes (rawOff xa) (rawOff xb) e c.me.qshape))).finish

/-- Queue a rewrite of a tensor's trailer (R172). -/
def execQchkW (a b : BitVec 5) (s : State) : Host.Outcome State Fault Refusal :=
  let xa := s.rx a
  let xb := s.rx b
  let m := s.self.me
  let e := m.elements
  conclude do
    s.checkOperands [{ a := xa, n := e, align := 64 }, { a := xb, n := e / 4 + 16, align := 16, write := true }]
    let s ← s.acceptOp (.qchkw (rawOff xa) (rawOff xb) e m.qshape) [(rawOff xa, e)] [(rawOff xb, e / 4 + 16)]
      ((e + e / 4 + 16 + 63) / 64)
    return s.finish

/-- Wait for the context's converter work, then read a trailer's first doubleword (R173). -/
def execQstat (a d : BitVec 5) (s : State) : Host.Outcome State Fault Refusal :=
  let xa := s.rx a
  let c := s.self
  conclude do
    s.checkOperands [{ a := xa, n := 16, align := 16 }]
    let k := s.cell c.cell
    if s.cells.any fun p => p.2.cq.any fun o => o.ctx = s.cur then s.again
    if k.spx || s.boardStalls c.cell c.sid xa.toNat (xa.toNat + 16) false then s.again
    if k.spad.bad (rawOff xa) 8 then s.raise cPOISON xa
    return (s.wx d (extend false 8 (k.spad.read (rawOff xa) 8))).finish

end Sys2Proof.Machine
end

