-- ==== Sys2Proof/Machine/EngineRun.lean ====
section
/-! DEFINITION. Engine operations as they run and retire, matrix commands, and the ring latch
(02 R35, R38, R39, R42; 07 R158-R173; 12 R253-R260; 20 R361). -/

namespace Sys2Proof.Machine

/-! ## mma (02 R42) -/

/-- One block term b[t] of element (i, j): the A tile at raw offsets, the B tile in the latch. -/
def mmaBlock (a : Memory) (aoff soff ka : Nat) (f : Memory) (kb i j t : Nat) : Nat × FFlags :=
  let ea := (mget a (soff + i * 8 + t)).toNat
  let eb := (mget f (4096 + j * 8 + t)).toNat
  if ea = 255 ∨ eb = 255 then (Fmt.b32.qnan, 0)
  else if ea = 0 ∨ eb = 0 then (0, 0)
  else
    let term (q : Nat) : Int := nestedGet a aoff (i * 32 + 4 * t + q) ka * nestedGet f 0 (j * 32 + 4 * t + q) kb
    rne32 (term 0 + term 1 + term 2 + term 3) ((ea : Int) + eb - 252 - ka - kb)

/-- Sum with the flags of both operands' histories. -/
def addFl (x y : Nat × FFlags) : Nat × FFlags :=
  let (v, fl) := add32 x.1 y.1
  (v, fl ||| x.2 ||| y.2)

/-- The new value of element (i, j) and its flags (R42). -/
def mmaElement (a : Memory) (aoff soff ka : Nat) (f : Memory) (kb i j : Nat) (acc : Nat) : Nat × FFlags :=
  let b (t : Nat) := mmaBlock a aoff soff ka f kb i j t
  addFl (acc, 0) (addFl (addFl (addFl (b 0) (b 1)) (addFl (b 2) (b 3))) (addFl (addFl (b 4) (b 5)) (addFl (b 6) (b 7))))

/-- Replace every element of a tile. -/
def setTile (t : Table (BitVec 32)) (tile : Nat) (f : Nat → BitVec 32) : Table (BitVec 32) :=
  let rest := t.filter fun p => !(decide (p.1 / 8192 = tile))
  (List.range 8192).foldl (fun m e => if f e = 0 then m else tset m (tile * 8192 + e) (f e)) rest

/-- Poison marks of a tile's element pairs: 4,096 for each tile. -/
def Cell.tileBad (c : Cell) (tile : Nat) : Bool := c.tilePoison.any fun p => p / 4096 = tile

def Cell.clearTilePoison (c : Cell) (tile : Nat) : Cell :=
  { c with tilePoison := c.tilePoison.filter fun p => !(decide (p / 4096 = tile)) }

/-- Run an mma on a cell: the flags, and whether poison was met (R42; 12 R260; 20 R361). -/
def Cell.runMma (c : Cell) (tile aoff soff ka kb : Nat) : Cell × FFlags × Bool :=
  let bad := c.latch.fBad || c.spad.bad aoff 2048 || c.spad.bad soff 512 || c.tileBad tile
  if bad then ({ c.clearTilePoison tile with tiles := setTile c.tiles tile fun _ => BitVec.ofNat 32 Fmt.b32.qnan }, 0, true)
  else
    let el (e : Nat) := mmaElement c.spad.bytes aoff soff ka c.latch.f kb (e / 128) (e % 128) (tileWord c.tiles tile e).toNat
    let fl := (List.range 8192).foldl (fun g e => g ||| (el e).2) 0
    ({ c with tiles := setTile c.tiles tile fun e => BitVec.ofNat 32 (el e).1 }, fl, false)

/-! ## The converter (02 R39) -/

/-- The magnitude of a finite value, for the block maximum. -/
def fvalMag : FVal → Option (Nat × Int)
  | .fin _ m e => if m = 0 then none else some (m, e)
  | _ => none

/-- floor (log2 M) over the finite nonzero values. -/
def blockLog (l : List FVal) : Option Int :=
  l.foldl (fun r x =>
    match fvalMag x with
    | none => r
    | some (m, e) =>
      let v := e + (Nat.log2 m : Int)
      match r with
      | none => some v
      | some w => some (max v w)) none

/-- One quantised element: m8 and whether it was clamped. -/
def quantOne (rtz : Bool) (ex : Int) : FVal → Int × Bool
  | .nan _ => (0, false)
  | .inf n => (if n then -128 else 127, true)
  | .fin n m e =>
    let (t, half, _) := splitAt m (ex - 134 - e) false
    let t' := if !rtz && (half == .gt || (half == .eq && t % 2 = 1)) then t + 1 else t
    let v := signedM n t'
    if 127 < v then (127, true) else if v < -128 then (-128, true) else (v, false)

/-- Quantise a block of four: the scale byte, the four m8 values at `k` planes, and the elements clamped (R39). -/
def quantBlock (rtz : Bool) (k : Nat) (l : List FVal) : Nat × List Int × Nat :=
  let keep (v : Int) : Int := v / 2 ^ (8 - k) * 2 ^ (8 - k)
  if l.any FVal.isNan then (255, l.map fun _ => 0, 0)
  else
    let infs := l.any fun x => match x with | .inf _ => true | _ => false
    match blockLog l with
    | none =>
      if !infs then (0, l.map fun _ => 0, 0)
      else
        let q := l.map (quantOne rtz 254)
        (254, q.map fun r => keep r.1, (q.filter (·.2)).length)
    | some e =>
      let ex := min 254 (max 1 (e + 128))
      let q := l.map (quantOne rtz ex)
      (ex.toNat, q.map fun r => keep r.1, (q.filter (·.2)).length)

/-- The running result of a conversion: scratchpad, largest |m8|, clamped count, poison met. -/
structure Quant where
  b    : Bank
  maxm : Nat := 0
  satc : Nat := 0
  bad  : Bool := false

/-- Convert one block. A poisoned source is stored as a NaN block (20 R361). -/
def Quant.block (q : Quant) (src dst scl k : Nat) (rtz : Bool) (blk : Nat) : Quant :=
  let bad := q.b.bad (src + 16 * blk) 16
  let xs := (List.range 4).map fun i => unpack .b32 (leNat (q.b.read (src + 16 * blk + 4 * i) 4))
  let (ex, m8, sat) := if bad then (255, [0, 0, 0, 0], 0) else quantBlock rtz k xs
  let bytes := ((List.range 4).zip m8).foldl (fun m p => nestedPut m dst (4 * blk + p.1) 8 p.2) q.b.bytes
  { b := ({ q.b with bytes := bytes }).write (scl + blk) [BitVec.ofNat 8 ex]
    maxm := m8.foldl (fun m v => max m v.natAbs) q.maxm, satc := q.satc + sat, bad := q.bad || bad }

/-- The 16 bytes of a trailer (R38). -/
def trailerBytes (maxm planes satc : Nat) (crc : BitVec 32) (shape : Nat) : List Byte :=
  leBytes maxm 1 ++ leBytes planes 1 ++ leBytes (min satc 0xFFFF) 2 ++ leBytes crc.toNat 4 ++ leBytes shape 1 ++ leBytes 0 7

/-- Run a conversion (07 R171). The planes are written whole: their words become full and unpoisoned. -/
def Cell.runQcvt (c : Cell) (src dst scl elems k : Nat) (rtz : Bool) (shape : Nat) : Cell × Bool :=
  let q := (List.range (elems / 4)).foldl (fun q i => q.block src dst scl k rtz i) ({ b := c.spad } : Quant)
  let b := q.b.write dst (q.b.read dst elems)
  let b := b.write (scl + elems / 4) (trailerBytes q.maxm k q.satc (tensorCrc b.bytes dst scl elems) shape)
  ({ c with spad := b }, q.bad)

/-- Rewrite a trailer (07 R172): `planes` and `satc` stay. -/
def Cell.runQchkw (c : Cell) (pl scl elems shape : Nat) : Cell × Bool :=
  let b := c.spad
  let t := scl + elems / 4
  let maxm := (List.range elems).foldl (fun m e => max m (nestedGet b.bytes pl e 8).natAbs) 0
  let bytes := trailerBytes maxm (mget b.bytes (t + 1)).toNat (leNat (mgetBytes b.bytes (t + 2) 2))
    (tensorCrc b.bytes pl scl elems) shape
  ({ c with spad := b.write t bytes }, b.bad pl elems || b.bad scl (elems / 4 + 16))

/-! ## The effect of an operation on its cell -/

/-- Load a tile from the scratchpad (07 R163; 20 R361). -/
def Cell.runMlda (c : Cell) (tile off : Nat) : Cell × Bool :=
  if c.spad.bad off 0x8000 then
    ({ c.clearTilePoison tile with tiles := setTile c.tiles tile fun _ => BitVec.ofNat 32 Fmt.b32.qnan }, true)
  else
    ({ c.clearTilePoison tile with
        tiles := setTile c.tiles tile fun e => BitVec.ofNat 32 (leNat (c.spad.read (off + 4 * e) 4)) }, false)

/-- Store a tile to the scratchpad; poison marks go with their pairs (07 R163; log 19). -/
def Cell.runMsta (c : Cell) (tile off : Nat) : Cell × Bool :=
  let b := c.spad.write off ((List.range 8192).flatMap fun e => leBytes (tileWord c.tiles tile e).toNat 4)
  let marks := (c.tilePoison.filter fun p => p / 4096 = tile).map fun p => p % 4096 + off / 8
  ({ c with spad := { b with poison := marks.foldl nins b.poison } }, !marks.isEmpty)

/-- The cell after the operation, its flags, and whether it met poison. -/
def Cell.runOp (c : Cell) (k : EngKind) : Cell × FFlags × Bool :=
  match k with
  | .mma t a sc ka kb => c.runMma t a sc ka kb
  | .mzero t => ({ c.clearTilePoison t with tiles := setTile c.tiles t fun _ => 0 }, 0, false)
  | .mlda t off => let (c, b) := c.runMlda t off; (c, 0, b)
  | .msta t off => let (c, b) := c.runMsta t off; (c, 0, b)
  | .qcvt src dst scl e k rtz sh => let (c, b) := c.runQcvt src dst scl e k rtz sh; (c, 0, b)
  | .qchkw pl scl e sh => let (c, b) := c.runQchkw pl scl e sh; (c, 0, b)
  | .swapLoad => (c, 0, false)
  | .swapRot => (c, 0, false)

/-! ## Start and retirement (07 R158, R159) -/

/-- Does an earlier-accepted operation or copy write a range that this one reads or writes (07 R159)? -/
def State.mustWait (s : State) (cell : Nat) (num : Nat) (spans : List (Nat × Nat)) : Bool :=
  ((s.cell cell).copySpans ++ s.engineSpans cell).any fun p =>
    decide (p.1 < num) && p.2.write && spans.any fun r => p.2.meets (view0 r.1) (view0 (r.1 + r.2))

/-- The head of a queue. -/
def Cell.head (c : Cell) (conv : Bool) : Option EngOp := if conv then c.cq.head? else c.mq.head?

/-- Replace the head of a queue, or remove it. -/
def Cell.setHead (c : Cell) (conv : Bool) (o : Option EngOp) : Cell :=
  let put (l : List EngOp) : List EngOp := match o with | some x => x :: l.tail | none => l.tail
  if conv then { c with cq := put c.cq } else { c with mq := put c.mq }

/-- May the head of the queue start? -/
def State.opCanStart (s : State) (cell : Nat) (conv : Bool) : Bool :=
  match (s.cell cell).head conv with
  | some o =>
    o.endAt.isNone && o.kind != .swapLoad && o.kind != .swapRot && !s.mustWait cell o.num (o.reads ++ o.writes)
  | none => false

/-- The engine starts its next operation in order (R158). -/
def execEngineOpStart (cell : Nat) (conv : Bool) (s : State) : Host.Outcome State Fault Refusal :=
  if s.opCanStart cell conv then
    let now := s.cyc (dieOfCell cell)
    .next (s.modCell cell fun c =>
      match c.head conv with
      | some o => c.setHead conv (some { o with endAt := some (now + o.cycles) })
      | none => c)
  else .next s

/-- The header of a message made in a cell (07 R180). -/
def genHeader (cls kind dest scell sslot : Nat) (seq : BitVec 32) : Word :=
  BitVec.ofNat 64 (cls + kind * 16 + dest * 2 ^ 8 + scell * 2 ^ 17 + sslot * 2 ^ 26 + seq.toNat * 2 ^ 32)

/-- The next sequence number of a cell (07 R180). -/
def State.takeSeq (s : State) (cell : Nat) : BitVec 32 × State :=
  ((s.cell cell).seq, s.modCell cell fun c => { c with seq := c.seq + 1 })

/-- The tag of the entry charged. -/
def State.tagOf (s : State) (entry : Option Nat) : BitVec 16 :=
  match entry.bind (tfind s.entries) with
  | some e => e.tag
  | none => 0

/-- Report a fault of an engine operation: the tag is its context's, or that of the entry charged (17 R331; 20 R363). -/
def State.reportOp (s : State) (cell : Nat) (o : EngOp) (code : Byte) (src : Nat) (info : Word) : State :=
  let (slot, tag) := match tfind s.ctxs o.ctx with
    | some c => (if o.local_ then c.slot else 0, c.tag)
    | none => (0, s.tagOf o.entry)
  s.report o.part (reportHead code false src cell slot (dieOfCell cell) false tag) 0 info (dieOfCell cell)

/-- OR flags into a context's `fflags`, wherever it is (07 R158). -/
def State.mergeFlags (s : State) (x : Nat) (f : FFlags) : State :=
  match tfind s.ctxs x with
  | some _ => s.modCtx x fun c => { c with fflags := c.fflags ||| f }
  | none => s

/-- The completion message of a matrix command (07 R178): to class 12 of the sender's cell. -/
def State.matrixDone (s : State) (cell : Nat) (o : EngOp) (fl : FFlags) : State :=
  match o.command with
  | none => s
  | some m =>
    let dest := m.hdr.toNat / 2 ^ 17 % 512
    let (seq, s) := s.takeSeq cell
    s.deliverGen dest 12 o.part
      { hdr := genHeader 12 6 dest cell 15 seq, d1 := m.d1, d2 := fl.zeroExtend 64, d3 := 0 }

/-- A load that met a locked tile may reissue once the lock bit is clear: its slot joins the rotation again (01 R23). -/
def State.wakeTile (s : State) (cell : Nat) : State :=
  let now := s.cyc (dieOfCell cell)
  let k := s.cell cell
  { s with ctxs := s.ctxs.map fun p =>
      match p.2.wait with
      | .tile t => if p.2.cell = cell && p.2.sst == .stalled && !k.tileLocked t
          then (p.1, { p.2 with sst := .ready, readySince := now }) else p
      | _ => p }

/-- The operation at the head of a queue finishes: its effect, its flags, its charge, its reports (R158, R160, R169, R178;
16 R311; 20 R361). A POISON entry names the tile in info (12 R260; log 93: DESIGN CHOICE). -/
def execEngineOpRetire (cell : Nat) (conv : Bool) (s : State) : Host.Outcome State Fault Refusal :=
  match (s.cell cell).head conv with
  | none => .next s
  | some o =>
    match o.endAt with
    | none => .next s
    | some t =>
      if s.cyc (dieOfCell cell) < t ∨ o.kind = .swapLoad ∨ o.kind = .swapRot then .next s
      else
        let (c, fl, bad) := (s.cell cell).runOp o.kind
        let s := s.modCell cell fun _ => c.setHead conv none
        let s := if o.local_ then s.mergeFlags o.ctx fl else s
        let s := if bad then s.reportOp cell o cPOISON 2 (BitVec.ofNat 64 (o.kind.tile.getD 0)) else s
        let s := s.chargeNow cell o.entry o.cycles 0
        .next ((s.matrixDone cell o fl).wakeTile cell)

/-! ## Matrix commands (07 R168, R169) -/

/-- A command word. -/
structure Command where
  op   : Nat
  tile : Nat
  ka   : Nat
  kb   : Nat
  aoff : Nat
  soff : Nat
  ntf  : Bool

/-- Decode a command word; none when it is malformed (R168). -/
def commandOf (w : Word) : Option Command :=
  let n := w.toNat
  let pca := n / 2 ^ 4 % 8
  let pcb := n / 2 ^ 7 % 8
  let aoff := n / 2 ^ 10 % 2 ^ 20
  let soff := n / 2 ^ 30 % 2 ^ 20
  if 2 ≤ n % 4 ∨ pca = 7 ∨ pcb = 7 ∨ n / 2 ^ 50 % 2 ^ 13 ≠ 0 ∨ aoff % 64 ≠ 0 ∨ soff % 16 ≠ 0 then none
  else some { op := n % 4, tile := n / 4 % 4, ka := 8 - pca, kb := 8 - pcb, aoff := aoff, soff := soff, ntf := w.getLsbD 63 }

/-- The location that a capability's cursor names, for its generation. -/
def Capa.place (c : Capa) (part : Nat) : Loc :=
  if c.kind = 2 then .spad (c.cursor / 2 ^ 32 % 512) (c.cursor % 2 ^ 32 - Config.viewBase) else .mem (spaceOf part) c.cursor

/-- The checks of R169 in order: a fault code, or the command and the population that holds the range. -/
def State.checkCommand (s : State) (cell part : Nat) (w : Word) (cap : Capa) : Except Byte (Command × Option Nat) :=
  match commandOf w with
  | none => .error cILL
  | some k =>
    match s.leaseOver cap.kind.toNat (cap.place part) (cap.id / 2) with
    | none => .error (if cap.kind = 2 ∨ cap.kind = 6 ∨ cap.kind = 10 then cGENMIS else cCAPPERM)
    | some l =>
      if l.gen.truncate 16 ≠ cap.gen then .error cGENMIS
      else if cap.kind ≠ 2 ∨ cap.cursor / 2 ^ 32 % 512 ≠ cell ∨ cap.id ≠ domOfCell cell then .error cCAPPERM
      else
        let at_ (off : Nat) : Word := BitVec.ofNat 64 (cell * 2 ^ 32 + view0 off)
        if !(cap.holds (at_ k.aoff) 2048) || !(cap.holds (at_ k.soff) 512) then .error cCAPBND
        else if l.alive && s.holdsTile l.pop cell k.tile then .ok (k, l.pop) else .error cLAPSED

/-- A class 14 or 15 report made from a fault queue entry, to the context's own cell (17 R331). -/
def State.classReport (s : State) (c : Ctx) (cls kind : Nat) (d0 addr info : Word) : State :=
  let (seq, s) := s.takeSeq c.cell
  s.deliverGen c.cell cls c.part (reportMsg c cls kind seq d0 addr info)

/-- Refuse a command: an entry in the sender's fault queue and a class 15 report; to a sender that has ended, the entry alone in
its partition's fault queue (R169; 08 R195). -/
def State.refuseCommand (s : State) (f : Flight) (code : Byte) : State :=
  let d0 := reportHead code false 2 f.cell 0 (dieOfCell f.cell) false f.by_.tag
  let s := s.report f.by_.part d0 0 f.msg.d1 (dieOfCell f.cell)
  match tfind s.ctxs f.ctx with
  | none => s
  | some c => s.classReport c 15 4 d0 0 f.msg.d1

/-! ### The order of messages from one slot (07 R182; 11 R238) -/

/-- Fields of a message (07 R180). -/
def Msg.cls (m : Msg) : Nat := m.hdr.toNat % 16
def Msg.kind (m : Msg) : Nat := m.hdr.toNat / 16 % 16
def Msg.dest (m : Msg) : Nat := m.hdr.toNat / 2 ^ 8 % 512
def Msg.scell (m : Msg) : Nat := m.hdr.toNat / 2 ^ 17 % 512
def Msg.sslot (m : Msg) : Nat := m.hdr.toNat / 2 ^ 26 % 16
def Msg.seq (m : Msg) : BitVec 32 := (m.hdr >>> 32).truncate 32
def Msg.vrt (m : Msg) : Nat := m.d1.toNat % 2 ^ 48

/-- Is it a program message with this source cell and sequence number? -/
def Msg.isTwin (m : Msg) (scell : Nat) (seq : BitVec 32) : Bool := m.kind = 0 && m.scell = scell && m.seq = seq

/-- The context that a class of a cell is bound to. -/
def State.bound (s : State) (cell cls : Nat) : Option Nat := (s.binding cell cls).map (·.2)

/-- Does a message held at its cell wait for a queue entry, its context being resident (09 R207)? -/
def State.waitsForEntry (s : State) (f : Flight) : Bool :=
  f.held && match s.bound f.cell f.msg.cls with
    | some x => s.residentCtx x
    | none => false

/-- Does a held message stop another one of its context's channel (09 R209)? Anti-messages have a lane of their own: one that waits
for a queue entry stops no message of another kind, nor does such a message stop them (13 R272). -/
def State.stops (s : State) (p f : Flight) : Bool :=
  p.held && p.cap.isNone && f.cap.isNone && p.cell = f.cell && s.bound p.cell p.msg.cls = s.bound f.cell f.msg.cls &&
    (p.msg.kind = f.msg.kind || !s.waitsForEntry p)

/-- Does an earlier message of the same slot to the same cell go first (R182)? A held one stops those of its own channel alone
(09 R209); an anti-message passes its own twin only where that waits for a queue entry (13 R272). -/
def State.overtakes (s : State) (n : Nat) (f : Flight) : Bool :=
  s.flights.any fun p =>
    decide (p.1 < n) && p.2.ctx = f.ctx && p.2.cell = f.cell &&
      (!p.2.held || s.stops p.2 f || (p.2.cap.isSome && f.cap.isSome) ||
        (f.msg.kind = 1 && p.2.msg.isTwin f.msg.scell f.msg.seq && !s.waitsForEntry p.2))

/-- A matrix command reaches its cell, after the earlier messages of its slot: checked, then accepted into the engine's queue; while
that is full it waits, and is checked again (R158, R169, R182). It is charged to its sender's queue entry. -/
def State.commandAt (s : State) (n : Nat) (f : Flight) (cap : Capa) : State :=
  let gone : State := { s with flights := tdel s.flights n }
  match s.checkCommand f.cell f.by_.part f.msg.d1 cap with
  | .error code => gone.refuseCommand f code
  | .ok (k, _) =>
    let kind : EngKind := if k.op = 0 then .mma k.tile k.aoff k.soff k.ka k.kb else .mzero k.tile
    if !((s.cell f.cell).canAccept kind) then { s with flights := tset s.flights n { f with held := true } }
    else
      gone.enqueue f.cell
        { kind := kind, ctx := f.ctx, entry := f.entry, part := f.by_.part
          reads := if k.op = 0 then [(k.aoff, 2048), (k.soff, 512)] else [], cycles := if k.op = 0 then mmaCycles k.ka k.kb else 8
          command := if k.ntf then some f.msg else none, local_ := false }

/-- A matrix command arrives, or tries again (R169). -/
def execMatrixCommand (msg : Nat) (s : State) : Host.Outcome State Fault Refusal :=
  match tfind s.flights msg with
  | none => .next s
  | some f =>
    match f.cap with
    | none => .next s
    | some cap => if s.overtakes msg f then .next s else .next (s.commandAt msg f cap)

/-! ## The ring latch (07 R164-R167; 12 R253-R258) -/

/-- Does any population hold an accumulator tile lease in the cell (12 R258)? -/
def State.anyTile (s : State) (cell : Nat) : Bool :=
  s.leases.any fun p =>
    match p.2.obj with
    | .acc c _ => c = cell && p.2.st != .lapsed
    | _ => false

/-- Mark the operation with the number as sent. -/
def markSent (num : Nat) (l : List EngOp) : List EngOp := l.map fun o => if o.num = num then { o with sent := true } else o

/-- The entry that a send without a receiver, or an abandoned one, writes: it names both cells, the sender in its cell field and the
successor in info (12 R258; log 93: DESIGN CHOICE, 17 R331 has one cell field). -/
def State.reportSend (s : State) (cell : Nat) (o : EngOp) : State :=
  s.reportOp cell o cLAPSED 5 (BitVec.ofNat 64 (succCell cell))

/-- A latch send begins when no transfer of the cell is under way and the successor's K is FREE; it lands nothing in a
cell that holds no tile lease (12 R256, R258). -/
def execMrotSendBegin (cell : Nat) (s : State) : Host.Outcome State Fault Refusal :=
  let c := s.cell cell
  let now := s.cyc (dieOfCell cell)
  let nx := succCell cell
  match firstUnsent c.mq with
  | none => .next s
  | some o =>
    if !c.sendWaits then .next s
    else if !s.anyTile nx then
      .next ((s.modCell cell fun c => { c with mq := markSent o.num c.mq }).reportSend cell o)
    else if (s.cell nx).latch.kst ≠ .free then .next s
    else
      let s := s.modCell cell fun c => { c with latch := { c.latch with send := some { dest := nx, endAt := now + 80 } } }
      .next (s.modCell nx fun d => { d with latch := { d.latch with kst := .filling, k := c.latch.f, kBad := c.latch.fBad } })

/-- A send ends: the successor's K is LOADED (12 R256). The end of an `mldb` load completes in its instruction. -/
def execLatchTransferEnd (cell : Nat) (s : State) : Host.Outcome State Fault Refusal :=
  let c := s.cell cell
  match c.latch.send with
  | none => .next s
  | some t =>
    if s.cyc (dieOfCell cell) < t.endAt then .next s
    else
      let s := s.modCell cell fun c =>
        { c with
          latch := { c.latch with send := none }
          mq := match firstUnsent c.mq with | some o => markSent o.num c.mq | none => c.mq }
      .next (s.modCell t.dest fun d =>
        if d.latch.kst = .filling then { d with latch := { d.latch with kst := .loaded } } else d)

/-- May the swap at the head of the queue be made (R165-R167; 12 R256)? -/
def State.swapReady (s : State) (cell : Nat) : Bool :=
  let c := s.cell cell
  match c.mq.head? with
  | some o =>
    c.latch.kst == .loaded &&
      (match o.kind with
       | .swapLoad => (match o.endAt with | some t => decide (t ≤ s.cyc (dieOfCell cell)) | none => true)
       | .swapRot => o.sent
       | _ => false)
  | none => false

/-- F takes K's tile and K is FREE; the operation that owns the swap retires (R165). -/
def execLatchSwap (cell : Nat) (s : State) : Host.Outcome State Fault Refusal :=
  if s.swapReady cell then
    match (s.cell cell).mq.head? with
    | some o =>
      let s := s.modCell cell fun c =>
        { c with mq := c.mq.tail, latch := { c.latch with f := c.latch.k, fBad := c.latch.kBad, k := [], kBad := false, kst := .free } }
      .next (s.chargeNow cell o.entry o.cycles 0)
    | none => .next s
  else .next s

/-- The latch is reset when the last tile lease of its cell passes to LAPSED (12 R258). -/
def State.latchReset (s : State) (cell : Nat) : State :=
  let c := s.cell cell
  let nx := succCell cell
  let pr := predCell cell
  let sends := c.mq.filter fun o => o.kind = .swapRot && !o.sent
  let swaps := c.mq.filter fun o => o.kind = .swapRot || o.kind = .swapLoad
  let s := swaps.foldl (fun s o => s.chargeNow cell o.entry o.cycles 0) s
  let s := if c.latch.send.isSome then
      s.modCell nx fun d => { d with latch := { d.latch with kst := .free, k := [], kBad := false } }
    else s
  let s := s.modCell cell fun c =>
    { c with mq := c.mq.filter fun o => o.kind ≠ .swapRot && o.kind ≠ .swapLoad, latch := {} }
  let s := if c.latch.send.isSome then
      match sends.head? with
      | some o => s.reportSend cell o
      | none => s
    else s
  let p := s.cell pr
  match p.latch.send, firstUnsent p.mq with
  | some _, some o =>
    (s.modCell pr fun c => { c with latch := { c.latch with send := none }, mq := markSent o.num c.mq }).reportSend pr o
  | _, _ => s

end Sys2Proof.Machine
end

