-- ==== Sys2Proof/Machine/Copy.lean ====
section
/-! DEFINITION. Stagehand copies: the request, the steps, failure and replay, retirement
(07 R174-R179; 10 R220-R226; 20 R361). -/

namespace Sys2Proof.Machine

/-! ## Descriptor (07 R175) -/

def dwordAt (b : List Byte) (k : Nat) : Word := BitVec.ofNat 64 (leNat ((b.drop (8 * k)).take 8))

/-- The request that 64 descriptor bytes describe. -/
def copyOf (kind : Nat) (tag : Word) (b : List Byte) : CopyReq :=
  { kind := kind, tag := tag, src := dwordAt b 0, dst := dwordAt b 1
    len := (dwordAt b 2).toNat % 2 ^ 32, rows := (dwordAt b 2).toNat / 2 ^ 32
    sstr := dwordAt b 3, dstr := dwordAt b 4, bar := dwordAt b 5, ctl := dwordAt b 6 }

def CopyReq.sce (r : CopyReq) : Bool := r.ctl.getLsbD 3
def CopyReq.dce (r : CopyReq) : Bool := r.ctl.getLsbD 7
def CopyReq.rop (r : CopyReq) : Nat := r.ctl.toNat / 2 ^ 8 % 4
def CopyReq.rty (r : CopyReq) : Nat := r.ctl.toNat / 2 ^ 10 % 4
def CopyReq.wantsMsg (r : CopyReq) : Bool := r.ctl.getLsbD 12

/-- Bytes of an element of a `cpr`. -/
def CopyReq.elem (r : CopyReq) : Nat := amoSize (BitVec.ofNat 2 r.rty)

/-- The address of the index array of `cpg` or `cps`. -/
def CopyReq.array (r : CopyReq) : Option Word := if r.kind = 1 then some r.sstr else if r.kind = 2 then some r.dstr else none

/-- Is the descriptor malformed (R176)? `last` is its reserved doubleword. -/
def CopyReq.malformed (r : CopyReq) (last : Word) : Bool :=
  last != 0 || decide (2 ^ 13 ≤ r.ctl.toNat) || r.len == 0 || r.rows == 0 || decide (2 ^ 20 < r.rows)
    || decide (2 ^ 32 < r.len * r.rows) || r.rop == 3 || r.rty == 3
    || (r.kind == 3 && [r.src.toNat, r.dst.toNat, r.len, r.sstr.toNat, r.dstr.toNat].any fun v => v % r.elem != 0)

/-- Source and destination address of row `k` (R175). -/
def CopyReq.srcRow (r : CopyReq) (idx : List Nat) (k : Nat) : Word :=
  if r.kind = 1 then r.src + BitVec.ofNat 64 (idx.getD k 0 * r.len)
  else if r.kind = 2 then r.src + BitVec.ofNat 64 (k * r.len)
  else r.src + BitVec.ofNat 64 k * r.sstr
def CopyReq.dstRow (r : CopyReq) (idx : List Nat) (k : Nat) : Word :=
  if r.kind = 2 then r.dst + BitVec.ofNat 64 (idx.getD k 0 * r.len)
  else if r.kind = 1 then r.dst + BitVec.ofNat 64 (k * r.len)
  else r.dst + BitVec.ofNat 64 k * r.dstr

/-! ## The request (07 R176) -/

/-- Does the index array lie wholly in view 0? -/
def arrayInView (a : Word) (rows : Nat) : Bool :=
  decide (Config.viewBase ≤ a.toNat ∧ a.toNat + 4 * rows ≤ Config.viewBase + Config.viewSize)

/-- Has the copy an index array, and does it lie outside view 0? -/
def CopyReq.badArray (r : CopyReq) : Bool :=
  match r.array with
  | some a => !arrayInView a r.rows
  | none => false

/-- The index array as the scratchpad holds it. -/
def Cell.indices (c : Cell) (r : CopyReq) : List Nat :=
  match r.array with
  | some a => (List.range r.rows).map fun k => leNat (c.spad.read (rawOff a + 4 * k) 4)
  | none => []

/-- The first row of a side that fails a test is named by the fault. -/
def State.eachRow (s : State) (rows : List Word) (bad : Word → Option Byte) : Attempt Unit :=
  match rows.findSome? fun a => (bad a).map fun e => (e, a) with
  | some (e, a) => s.raise e a
  | none => .ok ()

/-- The checks of a side named by a capability, in order: the tag, the permission, the bounds of every row, the egress
(R176; 14 R288). -/
def State.checkCapRows (s : State) (cap : Option Capa) (perm : Nat) (first : Word) (rows : List Word) (len : Nat) : Attempt Unit :=
  match cap with
  | none => .ok ()
  | some c => do
    s.require c.tag cCAPTAG first
    s.require (c.perm.getLsbD perm) cCAPPERM first
    s.eachRow rows fun a => if c.holds a len then none else some cCAPBND
    s.eachRow rows fun a => s.checkEgress c a len

/-- Does a row lie in partition memory, or in view 0? -/
def rowInMem (a : Word) (len : Nat) : Bool := decide (Config.memBase ≤ a.toNat ∧ a.toNat + len ≤ Config.memTop)
def rowInView (a : Word) (len : Nat) : Bool :=
  decide (Config.viewBase ≤ a.toNat ∧ a.toNat + len ≤ Config.viewBase + Config.viewSize)

/-- The raw offset of a destination row in the cell's own scratchpad, named by a capability or not. -/
def ownOffset (cell : Nat) (cap : Option Capa) (a : Word) : Option Nat :=
  match cap with
  | some c => if c.kind = 2 ∧ c.id = domOfCell cell ∧ a.toNat / 2 ^ 32 % 512 = cell then some (a.toNat % 2 ^ 32 - Config.viewBase) else none
  | none => if a.toNat < Config.memBase then some (rawOff a) else none

/-- The addresses that the rows start from: an offset is added to a capability's cursor. -/
def State.rebaseCopy (s : State) (r : CopyReq) : CopyReq :=
  let sc := s.rc ((r.ctl.truncate 3 : BitVec 3))
  let dc := s.rc (((r.ctl >>> 4).truncate 3 : BitVec 3))
  let r := if r.sce then { r with src := BitVec.ofNat 64 sc.cursor + r.src, scap := some sc } else r
  if r.dce then { r with dst := BitVec.ofNat 64 dc.cursor + r.dst, dcap := some dc } else r

/-- The checks of R176 after the descriptor has been found well formed, in its order: the capabilities, the regions of rows and
of the index array, the size of the scratchpad, the leases; then the prompt books (13 R267). The rows of an indexed side are
known only with the array in view 0. -/
def State.checkCopy (s : State) (r : CopyReq) : Attempt Unit := do
  let c := s.self
  let k := s.cell c.cell
  let idx := if r.badArray then [] else k.indices r
  let src := if r.kind = 1 && r.badArray then [] else (List.range r.rows).map (r.srcRow idx)
  let dst := if r.kind = 2 && r.badArray then [] else (List.range r.rows).map (r.dstRow idx)
  if r.sce then s.capRead (r.ctl.truncate 3 : BitVec 3)
  s.checkCapRows r.scap permR r.src src r.len
  if r.dce then s.capRead ((r.ctl >>> 4).truncate 3 : BitVec 3)
  s.checkCapRows r.dcap (if r.kind = 3 then permA else permW) r.dst dst r.len
  let rows := (if r.scap.isNone then src else []) ++ (if r.dcap.isNone then dst else [])
  s.eachRow rows fun a => if rowInMem a r.len || rowInView a r.len then none else some cXLATE
  s.require (!r.badArray) cXLATE (r.array.getD 0)
  let here := rows.filter fun a => !rowInMem a r.len
  s.eachRow here fun a => if rawOff a + r.len ≤ k.spadSize then none else some cXLATE
  match r.array with
  | some a => s.require (decide (rawOff a + 4 * r.rows ≤ k.spadSize)) cXLATE a
  | none => .ok ()
  s.eachRow here fun a => if s.holdsRange c.entry c.cell (rawOff a) r.len then none else some cLAPSED
  s.eachRow dst fun a =>
    match ownOffset c.cell r.dcap a with
    | some o => if s.inBook c.cell o r.len then some cXLATE else none
    | none => none

/-- Is there space in the mailbox and on the scoreboard (R176; 10 R220)? -/
def State.mailboxFree (s : State) (cell m : Nat) (r : CopyReq) : Bool :=
  let c := s.cell cell
  (tfind c.mboxes m).isNone && decide (c.boardUsed + (r.spans none).length ≤ 64)

/-- Write a request into its mailbox. -/
def State.fillMailbox (s : State) (cell m : Nat) (r : CopyReq) : State :=
  let (id, s) := s.takeFresh
  let s := s.modCell cell fun c =>
    { c with
      mboxes := tset c.mboxes m { r with id := id, num := c.accNum }, accNum := c.accNum + 1
      stageReady := if c.mboxes.isEmpty && c.runs.isEmpty then s.cyc (dieOfCell cell) else c.stageReady }
  match tfind s.ctxs r.ctx with
  | some _ => s.modCtx r.ctx fun c => { c with copies := c.copies + 1 }
  | none => s

/-- A copy instruction (R176). -/
def State.copyReq (s : State) (kind : Nat) (m : BitVec 3) (a b d : BitVec 5) : Host.Outcome State Fault Refusal :=
  let ea := s.rx a
  let c := s.self
  let off := rawOff ea
  conclude do
    s.illInHandler
    s.require (inView0 ea) cXLATE ea
    s.require (decide (ea.toNat % 64 = 0)) cALIGN ea
    s.require (decide (off + 64 ≤ (s.cell c.cell).spadSize)) cXLATE ea
    s.require (s.holdsRange c.entry c.cell off 64) cLAPSED ea
    s.localWaits ea 64 false
    let spad := (s.cell c.cell).spad
    s.require (!spad.bad off 64) cPOISON ea
    let bytes := spad.read off 64
    let r := copyOf kind (s.rx b) bytes
    match r.array with
    | some p => s.require (!(arrayInView p r.rows) || s.holdsRange c.entry c.cell (rawOff p) (4 * r.rows)) cLAPSED p
    | none => .ok ()
    if r.malformed (dwordAt bytes 7) then return (s.wx d (status 1)).finish
    let r := s.rebaseCopy { r with ctx := s.cur, entry := c.entry, part := c.part, sid := c.sid }
    s.checkCopy r
    if c.opt then
      let s ← s.deferAction (.copy m.toNat { r with stamp := some c.stamp })
      return (s.wx d 0).finish
    else
      if !s.mailboxFree c.cell m.toNat r then s.again
      return ((s.fillMailbox c.cell m.toNat r).wx d 0).finish

/-- Copy rows (R174). -/
def execCpy (m : BitVec 3) (a b d : BitVec 5) (s : State) : Host.Outcome State Fault Refusal := s.copyReq 0 m a b d

/-- Gather rows by index (R174). -/
def execCpg (m : BitVec 3) (a b d : BitVec 5) (s : State) : Host.Outcome State Fault Refusal := s.copyReq 1 m a b d

/-- Scatter rows by index (R174). -/
def execCps (m : BitVec 3) (a b d : BitVec 5) (s : State) : Host.Outcome State Fault Refusal := s.copyReq 2 m a b d

/-- Reduce rows into the destination (R174). -/
def execCpr (m : BitVec 3) (a b d : BitVec 5) (s : State) : Host.Outcome State Fault Refusal := s.copyReq 3 m a b d

/-- The state of the mailboxes (R179). -/
def execCpq (d : BitVec 5) (s : State) : Host.Outcome State Fault Refusal :=
  let c := s.cell s.self.cell
  let full := ((List.range 8).map fun m => if (tfind c.mboxes m).isSome then 2 ^ m else 0).sum
  let run := ((List.range 8).map fun m => if c.runs.any fun r => r.mailbox = m then 2 ^ m else 0).sum
  s.result d (BitVec.ofNat 64 (full + run * 2 ^ 8 + s.self.copies % 2 ^ 32 * 2 ^ 16))

/-! ## Running copies -/

/-- Is every row of the destination made of whole granules, each written by one row? The elements of a `cpr` are performed one
by one. -/
def CopyReq.whole (r : CopyReq) : Bool :=
  r.kind == 3 || (r.dst.toNat % 64 == 0 && r.len % 64 == 0 && (r.kind != 0 || r.dstr.toNat % 64 == 0))

/-- Pieces of up to 1 KiB in a row (R177; 01 R12). The first piece of a row ends where a granule of the destination does, so that
no step cuts a granule of its row (10 R223, R225). -/
def CopyReq.pieces (r : CopyReq) : Nat := if r.whole then (r.len + 1023) / 1024 else (r.len + 63 + 1023) / 1024

/-- Steps of a pass. -/
def CopyReq.steps (r : CopyReq) : Nat := r.rows * r.pieces

/-- Step `k`: source address, destination address, bytes. -/
def CopyRun.step (c : CopyRun) (k : Nat) : Word × Word × Nat :=
  let r := c.req
  let row := k / r.pieces
  let lead := if r.whole then 0 else (r.dstRow c.idx row).toNat % 64
  let off := k % r.pieces * 1024 - lead
  let stop := min r.len (k % r.pieces * 1024 + 1024 - lead)
  (r.srcRow c.idx row + BitVec.ofNat 64 off, r.dstRow c.idx row + BitVec.ofNat 64 off, stop - off)

/-- The step after step `k`: the last piece of a row may be empty. -/
def CopyRun.after (c : CopyRun) (k : Nat) : Nat := if (c.step (k + 1)).2.2 = 0 then k + 2 else k + 1

/-- The run of a copy by its number. -/
def Cell.run (c : Cell) (id : Nat) : Option CopyRun := c.runs.find? fun r => r.req.id = id

def State.modRun (s : State) (cell id : Nat) (f : CopyRun → CopyRun) : State :=
  s.modCell cell fun c => { c with runs := c.runs.map fun r => if r.req.id = id then f r else r }

/-- The pieces of a range that lie in one line each: (address, bytes). -/
def linePieces (a n : Nat) : List (Nat × Nat) :=
  (unitsOf 128 a n).map fun u => (max a (128 * u), min (a + n) (128 * u + 128) - max a (128 * u))

/-- What a side of a copy names at an address. -/
def State.sideTarget (s : State) (cell : Nat) (r : CopyReq) (cap : Option Capa) (a : Nat) : Target :=
  match cap with
  | some c =>
    if isPeer c.id then .peer c.id a
    else if isHost c.id then .host ((s.part r.part).hwbase + a)
    else if c.kind = 2 then .home (.spad (a / 2 ^ 32 % 512) (a % 2 ^ 32 - Config.viewBase))
    else .home (.mem r.sid.toNat a)
  | none => if a < Config.memBase then .home (.spad cell (a - Config.viewBase)) else .home (.mem r.sid.toNat a)

/-- The judgement of a copy's access: the capability's bounds, and the region, for an index that has changed since the request was
checked (R176; 10 R223); the capability's generation at its home (05 R129); the egress, for a peer or the host (14 R288; 18 R341). -/
def State.judgeSide (s : State) (cell : Nat) (r : CopyReq) (cap : Option Capa) (a n : Nat) : Option Byte :=
  match cap with
  | some c =>
    if !c.holds (BitVec.ofNat 64 a) n then some cCAPBND
    else
      match s.sideTarget cell r cap a with
      | .home l => s.judgePacket { gen := some c.gen, capKind := c.kind, capId := c.id } l
      | _ => s.egress r.part r.entry cell c (BitVec.ofNat 64 a) n
  | none =>
    if Config.memBase ≤ a then none
    else if Config.viewBase ≤ a ∧ a + n ≤ Config.viewBase + (s.cell cell).spadSize then none else some cXLATE

/-- Read bytes of a side at their homes (10 R222); what a host or a peer holds is free (log 5). -/
def State.readSide (s : State) (cell : Nat) (r : CopyReq) : List (Nat × Nat) → Except Byte (State × List Byte)
  | [] => .ok (s, [])
  | (a, n) :: t =>
    match s.judgeSide cell r r.scap a n with
    | some e => .error e
    | none =>
      match s.sideTarget cell r r.scap a with
      | .home l => do
        let (s, bs) ← s.homeRead l n
        let (s, rest) ← s.readSide cell r t
        return (s, bs ++ rest)
      | _ => do
        let (s, bs) := s.freeBytes ((n + 7) / 8)
        let (s, rest) ← s.readSide cell r t
        return (s, bs.take n ++ rest)

/-- The issuing cell gives up its own line of an address that a copy overwrites (10 R222); bytes dirty in it go back
first. -/
def State.dropOwn (s : State) (cell : Nat) (r : CopyReq) (l : Loc) : State :=
  match l with
  | .mem space va => if space = r.sid.toNat then s.l1Sync cell r.sid va else s
  | .spad _ _ => s

/-- Write pieces, each within a granule, at their homes. What a peer or the host receives is its own matter; the egress judged it when
it left (18 R341, R342). -/
def State.writePieces (s : State) (cell : Nat) (r : CopyReq) : List (Nat × List Byte) → Except Byte State
  | [] => .ok s
  | (a, bs) :: t =>
    match s.sideTarget cell r r.dcap a with
    | .home l =>
      match s.judgeSide cell r r.dcap a bs.length with
      | some e => .error e
      | none => do
        let s ← (s.dropOwn cell r l).homeWrite l bs
        s.writePieces cell r t
    | _ => s.writePieces cell r t

/-- A byte report reaches its barrier. A refused one is dropped with a fault queue entry (R177; 10 R226). -/
def State.landReport (s : State) (p : Packet) : State :=
  match s.perform p with
  | (s, .refused e) =>
    s.report p.part (reportHead e false 1 p.cell p.mailbox (dieOfCell p.cell) false p.tag) p.ea (p.copy.getD 0) (dieOfCell p.cell)
  | (s, _) => s

/-- Report bytes to the copy's barrier, once for a step. A refused report is dropped with a fault queue entry
(R177; 10 R223, R226). -/
def State.reportBytes (s : State) (cell : Nat) (c : CopyRun) (n : Nat) : State :=
  if c.req.bar = 0 then s
  else
    let l : Loc := if c.req.bar.toNat < Config.memBase then .spad cell (rawOff c.req.bar) else .mem c.req.sid.toNat c.req.bar.toNat
    let s := s.dropOwn cell c.req l
    let p : Packet :=
      { ctx := c.req.ctx, part := c.req.part, tag := s.tagOf c.req.entry, cell := cell, port := domOfCell cell, target := .home l, op := .bytes n
        ea := c.req.bar, copy := some (c.req.stamp.getD c.req.tag), mailbox := c.mailbox }
    let (held, s) := s.takeHold
    if held || s.queuedAhead p then
      let (k, s) := s.takeFresh
      { s with packets := tset s.packets k p }
    else s.landReport p

/-- A step fails: no further step of the pass starts; one entry with src 1 (10 R223), which carries the copy's tag, or the stamp of
a deferred copy (R176; 13 R277). -/
def State.failStep (s : State) (cell id : Nat) (code : Byte) (addr : Word) : State :=
  match (s.cell cell).run id with
  | none => s
  | some c =>
    if c.failed.isSome then s
    else
      let s := s.modRun cell id fun c => { c with failed := some (code, addr) }
      let s := s.modCell cell fun k => { k with aband := satInc16 k.aband }
      s.report c.req.part (reportHead code false 1 cell c.mailbox (dieOfCell cell) false (s.tagOf c.req.entry)) addr
        (c.req.stamp.getD c.req.tag) (dieOfCell cell)

/-! ## Taking a request (R177; 10 R226) -/

/-- The next full mailbox in round-robin order without a running copy. -/
def Cell.nextMailbox (c : Cell) : Option Nat :=
  ((List.range 8).map fun k => (c.rr + k) % 8).find? fun m =>
    (tfind c.mboxes m).isSome && !(c.runs.any fun r => r.mailbox = m)

/-- The code of a bad barrier address. -/
def Cell.barFault (c : Cell) (a : Word) : Option Byte :=
  let n := a.toNat
  if n = 0 then none
  else if n % 16 ≠ 0 then some cALIGN
  else if (Config.viewBase ≤ n ∧ n + 16 ≤ Config.viewBase + c.spadSize) ∨ (Config.memBase ≤ n ∧ n < Config.memTop) then none
  else some cXLATE

/-- The Stagehand takes a request and empties its mailbox. -/
def execStagehandTakeRequest (cell : Nat) (s : State) : Host.Outcome State Fault Refusal :=
  let c := s.cell cell
  match c.nextMailbox with
  | none => .next s
  | some m =>
    match tfind c.mboxes m with
    | none => .next s
    | some r =>
      let bad := (c.barFault r.bar).map fun e => (e, r.bar)
      let run : CopyRun := { req := r, mailbox := m, failed := bad, done := bad.isSome }
      .next (s.modCell cell fun c => { c with mboxes := tdel c.mboxes m, rr := (m + 1) % 8, runs := c.runs ++ [run] })

/-! ## Steps (01 R12; R177; 10 R223, R224) -/

/-- Must the copy wait for an earlier-accepted operation or copy (07 R159; 10 R225)? -/
def State.copyWaits (s : State) (cell : Nat) (c : CopyRun) : Bool :=
  let mine := c.req.spans (if c.started then some c.idx else none) ++
    (match c.req.array with
     | some a => if c.started then [] else [⟨c.req.sid, false, a.toNat, a.toNat + 4 * c.req.rows⟩]
     | none => [])
  ((s.cell cell).copySpans ++ s.engineSpans cell).any fun p =>
    decide (p.1 < c.req.num) && p.2.write &&
      mine.any fun x => x.clash p.2

/-- Does a side name a peer? -/
def peerOf (cap : Option Capa) : Bool :=
  match cap with
  | some d => isPeer d.id
  | none => false

/-- Steps of the chunk of a `cpr` that starts at step `k`: up to 64 KiB of source. -/
def CopyReq.chunkEnd (r : CopyReq) (k : Nat) : Nat := min (k + 64) r.steps

/-- Is a step of the pass left to start: to read it, or to apply one of a chunk that has been read (R224)? -/
def CopyRun.more (c : CopyRun) : Bool := decide (c.next < if c.req.kind = 3 then c.req.chunkEnd c.chunk else c.req.steps)

/-- Would the source of the next step be read past a request that waits in a switch on the way (14 R280)? -/
def State.sourceBlocked (s : State) (cell : Nat) (c : CopyRun) : Bool :=
  c.started && c.more && !c.applying && !peerOf c.req.scap &&
    s.wayBlocked (domOfCell cell) (s.sideTarget cell c.req c.req.scap (c.step c.next).1.toNat)

/-- May the copy start work now? -/
def State.copyReady (s : State) (cell : Nat) (c : CopyRun) : Bool :=
  !c.done && c.failed.isNone && c.resumeAt.isNone && !(s.cell cell).spx && !s.copyWaits cell c && !s.sourceBlocked cell c

/-- May the Stagehand issue now (01 R10, R12)? -/
def State.stageTurn (s : State) (cell : Nat) : Bool :=
  let c := s.cell cell
  let now := s.cyc (dieOfCell cell)
  decide (c.stageIssue ≤ now) && (c.mode || decide (now % 16 = 15))

/-- The index array is read as the copy starts (10 R220): a poisoned array fails the pass. -/
def State.startCopy (s : State) (cell : Nat) (c : CopyRun) : State :=
  let k := s.cell cell
  match c.req.array with
  | some a =>
    if c.started then s
    else if k.spad.bad (rawOff a) (4 * c.req.rows) then s.failStep cell c.req.id cPOISON a
    else s.modRun cell c.req.id fun c => { c with started := true, idx := k.indices c.req }
  | none => s.modRun cell c.req.id fun c => { c with started := true }

/-- The elements of step `k` of a `cpr`. -/
def CopyRun.elements (c : CopyRun) (k : Nat) : List Nat :=
  (List.range ((c.step k).2.2 / c.req.elem)).map fun j => 256 * k + j

/-- Does the step go outside the module, to a peer or the host? -/
def CopyRun.outside (c : CopyRun) : Bool :=
  match c.req.dcap with
  | some d => isPeer d.id || isHost d.id
  | none => false

/-- A packet of a step, or of an element of a `cpr`, leaves for a peer, through its delivery context (14 R291). -/
def State.stepPacket (s : State) (cell : Nat) (c : CopyRun) (k : Nat) (cap : Option Capa) (a : Nat) (op : PktOp) : State :=
  let p : Packet :=
    { ctx := c.req.ctx, part := c.req.part, tag := s.tagOf c.req.entry, cell := cell, port := domOfCell cell
      target := s.sideTarget cell c.req cap a, op := op, posted := false, cls := 2, ea := BitVec.ofNat 64 a
      copy := some (c.req.stamp.getD c.req.tag)
      mailbox := c.mailbox }
  let (s, n) := s.launch p false
  s.modRun cell c.req.id fun c => { c with sent := tset c.sent k n }

/-- The bytes of a step leave the copy port. -/
def State.takeOff (s : State) (cell : Nat) (c : CopyRun) (k : Nat) (bs : List Byte) : State :=
  let (n, s) := s.takeFresh
  s.modRun cell c.req.id fun c => { c with flying := tset c.flying k bs, left := tset c.left k n }

/-- The bytes of a step are on their way to their home, or to a peer or the host, where the egress judges them (18 R341). -/
def State.flyStep (s : State) (cell : Nat) (c : CopyRun) (k : Nat) (bs : List Byte) : State :=
  let (_, dst, n) := c.step k
  let judged := if c.outside then s.judgeSide cell c.req c.req.dcap dst.toNat n else none
  match judged with
  | some e => s.failStep cell c.req.id e dst
  | none =>
    let s := if peerOf c.req.dcap then s.stepPacket cell c k c.req.dcap dst.toNat (.store bs) else s
    s.takeOff cell c k bs

/-- The bytes of a step's source have been read: they go on to their destination, or, of a `cpr`, into the staging buffer (R224). -/
def State.sourceRead (s : State) (cell : Nat) (c : CopyRun) (k : Nat) (bs : List Byte) : State :=
  if c.req.kind = 3 then s.modRun cell c.req.id fun c => { c with staged := tset c.staged k bs } else s.flyStep cell c k bs

/-- The value of an element in the bytes of its step. -/
def CopyRun.valueOf (c : CopyRun) (bs : List Byte) (e : Nat) : Nat := leNat ((bs.drop (e % 256 * c.req.elem)).take c.req.elem)

/-- The destination of an element. -/
def CopyRun.elementAt (c : CopyRun) (e : Nat) : Nat := (c.step (e / 256)).2.1.toNat + e % 256 * c.req.elem

/-- An element is refused in this pass (R224). -/
def State.turnElement (s : State) (cell : Nat) (c : CopyRun) (e : Nat) (code : Byte) : State :=
  (s.modRun cell c.req.id fun c => { c with turned := nins c.turned e }).failStep cell c.req.id code (BitVec.ofNat 64 (c.elementAt e))

/-- An element leaves for a peer, whose egress judges it (14 R291). -/
def State.sendElement (s : State) (cell : Nat) (c : CopyRun) (bs : List Byte) (e : Nat) : State :=
  match s.judgeSide cell c.req c.req.dcap (c.elementAt e) c.req.elem with
  | some code => s.turnElement cell c e code
  | none =>
    s.stepPacket cell c e c.req.dcap (c.elementAt e)
      (.amo (BitVec.ofNat 3 c.req.rop) (BitVec.ofNat 2 c.req.rty) (BitVec.ofNat 64 (c.valueOf bs e)) 0)

/-- One copy step starts: its source is read, at a peer by a packet; or, of a `cpr` whose chunk has been read, the elements of a
staged step that no pass has had acknowledged are sent (10 R224). -/
def State.stepOut (s : State) (cell : Nat) (c : CopyRun) : State :=
  let k := c.next
  let (src, _, n) := c.step k
  let s := s.modRun cell c.req.id fun c => { c with next := c.after k }
  if c.applying then
    let l := (c.elements k).filter fun e => !c.acked.contains e
    if l.isEmpty then s
    else
      let bs := tget [] c.staged k
      let s := s.takeOff cell c k bs
      if peerOf c.req.dcap then l.foldl (fun s e => s.sendElement cell c bs e) s else s
  else
    let s := s.modRun cell c.req.id fun c => { c with streamed := c.streamed + n }
    if peerOf c.req.scap then
      match s.judgeSide cell c.req c.req.scap src.toNat n with
      | some e => s.failStep cell c.req.id e src
      | none => s.stepPacket cell c k c.req.scap src.toNat (.load 8 false)
    else
      match s.readSide cell c.req (linePieces src.toNat n) with
      | .error e => s.failStep cell c.req.id e src
      | .ok (s, bs) => s.sourceRead cell c k bs

/-- A Stagehand issue (01 R12). -/
def execCopyStep (cell copy : Nat) (s : State) : Host.Outcome State Fault Refusal :=
  match (s.cell cell).run copy with
  | none => .next s
  | some c =>
    if s.stageTurn cell && s.copyReady cell c && (c.more || !c.started) then
      let now := s.cyc (dieOfCell cell)
      let s := s.modCell cell fun k => { k with stageIssue := now + 16, stageLast := c.mailbox, lastIssuer := 15 }
      let s := if c.started then s else s.startCopy cell c
      match (s.cell cell).run copy with
      | some c => if c.started && c.failed.isNone && c.more then .next (s.stepOut cell c) else .next s
      | none => .next s
    else .next s

/-- Are all steps of the chunk in the staging buffer? -/
def CopyRun.chunkRead (c : CopyRun) : Bool :=
  c.req.kind = 3 && c.started && c.failed.isNone && !c.applying && decide (c.chunk < c.req.steps) &&
    (List.range (c.req.chunkEnd c.chunk - c.chunk)).all fun k => (tfind c.staged (c.chunk + k)).isSome

/-- The read phase of a chunk ends with its last step, and its elements are applied (10 R224). -/
def execCprChunkRead (cell copy : Nat) (s : State) : Host.Outcome State Fault Refusal :=
  match (s.cell cell).run copy with
  | none => .next s
  | some c => if c.chunkRead then .next (s.modRun cell copy fun c => { c with applying := true, next := c.chunk }) else .next s

/-- A step has landed: its bytes count, and are reported once (R177; 10 R223). -/
def State.landStep (s : State) (cell : Nat) (c : CopyRun) (k n : Nat) : State :=
  let s := if c.reported.contains k then s else s.reportBytes cell c n
  s.modRun cell c.req.id fun c => { c with flying := tdel c.flying k, reported := nins c.reported k }

/-- The pieces of a range that lie in one 64-byte granule each, with their bytes. -/
def granulePieces (a : Nat) (bs : List Byte) : List (Nat × List Byte) :=
  (unitsOf 64 a bs.length).map fun u =>
    let lo := max a (64 * u)
    (lo, (bs.drop (lo - a)).take (min (a + bs.length) (64 * u + 64) - lo))

/-- Is another step of the pass still to write part of the granule? -/
def CopyRun.shared (c : CopyRun) (k g : Nat) : Bool :=
  !c.req.whole && (List.range c.req.steps).any fun j =>
    j ≠ k && !c.arrived.contains j && (c.step j).2.2 ≠ 0 && overlaps (c.step j).2.1.toNat (c.step j).2.2 (64 * g) 64

/-- What is performed when a step arrives: the granules that it completes, with the pieces of other steps that waited for it. -/
def CopyRun.arrivals (c : CopyRun) (k : Nat) (bs : List Byte) : List (Nat × List Byte) :=
  let now := (granulePieces (c.step k).2.1.toNat bs).filter fun p => !c.shared k (p.1 / 64)
  ((c.held.filter fun h => now.any fun p => p.1 / 64 = h.2.1 / 64).map (·.2)) ++ now

/-- The run after a step's arrival: the pieces of granules that other steps are still to complete are held (10 R223, R225). -/
def CopyRun.arrive (c : CopyRun) (k : Nat) (bs : List Byte) : CopyRun :=
  let now := c.arrivals k bs
  let later := (granulePieces (c.step k).2.1.toNat bs).filter fun p => c.shared k (p.1 / 64)
  { c with
    flying := tdel c.flying k, arrived := nins c.arrived k, landed := c.landed + (now.map fun p => p.2.length).sum
    held := (c.held.filter fun h => !(now.any fun p => p.1 / 64 = h.2.1 / 64)) ++ later.map fun p => (k, p) }

/-- The steps whose last bytes an arrival performs: the step itself and those that waited, with nothing held any more. -/
def CopyRun.completed (c : CopyRun) (k : Nat) (after : CopyRun) : List Nat :=
  (k :: (c.held.map (·.1)).foldl nins []).filter fun j => !(after.held.any fun h => h.1 = j)

/-- A step in flight reaches its home: it lands, granule by granule, or fails there. -/
def State.settleStep (s : State) (cell : Nat) (c : CopyRun) (k : Nat) (bs : List Byte) : State :=
  match s.writePieces cell c.req (c.arrivals k bs) with
  | .error e => (s.modRun cell c.req.id fun c => { c with flying := tdel c.flying k }).failStep cell c.req.id e (c.step k).2.1
  | .ok s =>
    (c.completed k (c.arrive k bs)).foldl (fun s j =>
        match (s.cell cell).run c.req.id with
        | some r => s.landStep cell r j (c.step j).2.2
        | none => s)
      (s.modRun cell c.req.id fun c => c.arrive k bs)

/-- The request of a step to a peer is forgotten with its packet. -/
def State.dropStepPacket (s : State) (cell : Nat) (c : CopyRun) (k n : Nat) : State :=
  { s with
    packets := tdel s.packets n
    ends := s.ends.map fun (e : Nat × DEnd) => (e.1, { e.2 with unanswered := e.2.unanswered.filter fun u => u.2.1 ≠ n }) }.modRun cell
      c.req.id fun c => { c with sent := tdel c.sent k }

/-- A peer has answered a step: bytes it read go on to their destination; bytes it was sent have landed; or the step fails. -/
def State.peerStep (s : State) (cell : Nat) (c : CopyRun) (k n : Nat) : State :=
  let gone := s.dropStepPacket cell c k n
  match (tfind s.packets n).map Packet.st, tfind c.flying k with
  | some (.performed ..), some bs => gone.settleStep cell c k bs
  | some (.performed ..), none =>
    let (s, bs) := gone.freeBytes (((c.step k).2.2 + 7) / 8)
    s.sourceRead cell c k (bs.take (c.step k).2.2)
  | some (.refused e), _ =>
    (gone.modRun cell c.req.id fun c => { c with flying := tdel c.flying k }).failStep cell c.req.id e (c.step k).2.1
  | _, _ => s

/-- Does a request wait in a switch on the way of bytes to their destination (14 R280)? -/
def State.landingBlocked (s : State) (cell : Nat) (c : CopyRun) (a : Nat) : Bool :=
  !peerOf c.req.dcap && s.wayBlocked (domOfCell cell) (s.sideTarget cell c.req c.req.dcap a)

/-- A step's bytes are performed at their home (R177; 10 R222, R225), or a peer answers it (14 R291). -/
def execCopyStepLanded (cell copy idx : Nat) (s : State) : Host.Outcome State Fault Refusal :=
  match (s.cell cell).run copy with
  | none => .next s
  | some c =>
    if c.applying then .next s
    else
      match tfind c.sent idx, tfind c.flying idx with
      | some n, _ => .next (s.peerStep cell c idx n)
      | none, some bs => if s.landingBlocked cell c (c.step idx).2.1.toNat then .next s else .next (s.settleStep cell c idx bs)
      | none, none => .next s

/-- A step in flight is refused (10 R223): by its home, or outside the module with a code that a pass fails on. -/
def execCopyStepRefusal (cell copy idx : Nat) (code : Byte) (addr : Word) (s : State) : Host.Outcome State Fault Refusal :=
  match (s.cell cell).run copy with
  | none => .next s
  | some c =>
    match tfind c.flying idx with
    | none => .next s
    | some bs =>
      if c.req.kind = 3 then .next s
      else if c.outside then
        if [cXLATE, cPOISON, cLAPSED, cGENMIS, cCAPBND, cSTALE].contains code then
          let s := match tfind c.sent idx with
            | some n => s.dropStepPacket cell c idx n
            | none => s
          .next ((s.modRun cell copy fun c => { c with flying := tdel c.flying idx }).failStep cell copy code addr)
        else .next s
      else
        match s.writePieces cell c.req (c.arrivals idx bs) with
        | .ok _ => .next s
        | .error _ => .next (s.settleStep cell c idx bs)

/-- The atomic of one element at its home (05 R102, R103). An address that is not a multiple of the element's size, because the
capability's cursor is not, fails with ALIGN, as an atomic there would (log 76: DESIGN CHOICE, the spec gives no code). -/
def State.doElement (s : State) (cell : Nat) (r : CopyReq) (a : Nat) (v : Nat) : Except Byte (State × FFlags) :=
  if a % r.elem ≠ 0 then .error cALIGN
  else
    match s.judgeSide cell r r.dcap a r.elem with
    | some e => .error e
    | none =>
      match s.sideTarget cell r r.dcap a with
      | .home l => do
        let (s, _, fl) ← (s.dropOwn cell r l).homeAmo l (BitVec.ofNat 3 r.rop) (BitVec.ofNat 2 r.rty) (BitVec.ofNat 64 v) 0
        return (s, fl)
      | _ => .ok (s, 0)

/-- The step of an element is settled when each of its elements is acknowledged or refused in this pass. -/
def State.settleElements (s : State) (cell copy k : Nat) : State :=
  match (s.cell cell).run copy with
  | none => s
  | some c =>
    if (c.elements k).all (c.acked.contains ·) then s.landStep cell c k (c.step k).2.2
    else if (c.elements k).all fun e => c.acked.contains e || c.turned.contains e then
      s.modRun cell copy fun c => { c with flying := tdel c.flying k }
    else s

/-- An element is acknowledged with its flags, or refused. -/
def State.endElement (s : State) (cell : Nat) (c : CopyRun) (e : Nat) (r : Except Byte FFlags) : State :=
  let s := match r with
    | .ok fl => s.modRun cell c.req.id fun c =>
        { c with acked := nins c.acked e, flags := c.flags ||| fl, landed := c.landed + c.req.elem }
    | .error code => s.turnElement cell c e code
  s.settleElements cell c.req.id (e / 256)

/-- A peer has answered an element (14 R291). -/
def State.peerElement (s : State) (cell : Nat) (c : CopyRun) (e n : Nat) : State :=
  match (tfind s.packets n).map Packet.st with
  | some (.performed _ fl) => (s.dropStepPacket cell c e n).endElement cell c e (.ok fl)
  | some (.refused code) => (s.dropStepPacket cell c e n).endElement cell c e (.error code)
  | _ => s

/-- An element reaches its destination and is acknowledged, once, or refused (10 R224). -/
def execCprElementAck (cell copy elt : Nat) (s : State) : Host.Outcome State Fault Refusal :=
  match (s.cell cell).run copy with
  | none => .next s
  | some c =>
    match tfind c.flying (elt / 256) with
    | none => .next s
    | some bs =>
      if c.applying && (c.elements (elt / 256)).contains elt && !c.acked.contains elt && !c.turned.contains elt then
        match tfind c.sent elt with
        | some n => .next (s.peerElement cell c elt n)
        | none =>
          if peerOf c.req.dcap || s.landingBlocked cell c (c.elementAt elt) then .next s
          else
            match s.doElement cell c.req (c.elementAt elt) (c.valueOf bs elt) with
            | .ok (s, fl) => .next (s.endElement cell c elt (.ok fl))
            | .error e => .next (s.endElement cell c elt (.error e))
      else .next s

/-! ## Passes and retirement -/

/-- Delay before the pass after one that failed (10 R223). -/
def replayDelay (pass : Nat) : Nat := if pass = 1 then 1024 else if pass = 2 then 4096 else 16384

/-- The charge of a pass (16 R311). -/
def State.chargePass (s : State) (cell : Nat) (c : CopyRun) : State :=
  (s.chargeNow cell c.req.entry ((c.streamed + 63) / 64) 0).modRun cell c.req.id fun c => { c with streamed := 0 }

/-- A failed pass ends once its steps in flight have settled; the fourth ends the copy (10 R223). -/
def execCopyPassEnd (cell copy : Nat) (s : State) : Host.Outcome State Fault Refusal :=
  match (s.cell cell).run copy with
  | none => .next s
  | some c =>
    if c.failed.isSome && c.flying.isEmpty && c.sent.isEmpty && c.resumeAt.isNone && !c.done then
      let s := s.chargePass cell c
      let now := s.cyc (dieOfCell cell)
      .next (s.modRun cell copy fun c =>
        let c := { c with arrived := [], held := [] }
        if 4 ≤ c.pass then { c with done := true } else { c with resumeAt := some (now + replayDelay c.pass) })
    else .next s

/-- The replay begins: from row 0, or for a `cpr` at its chunk (10 R223, R224). -/
def execCopyReplayTimer (cell copy : Nat) (s : State) : Host.Outcome State Fault Refusal :=
  match (s.cell cell).run copy with
  | none => .next s
  | some c =>
    match c.resumeAt with
    | none => .next s
    | some t =>
      if s.cyc (dieOfCell cell) < t then .next s
      else .next (s.modRun cell copy fun c =>
        { c with
          pass := c.pass + 1, failed := none, resumeAt := none, landed := 0, turned := [], staged := if c.applying then c.staged else []
          next := if c.req.kind = 3 then c.chunk else 0 })

/-- Has every byte been performed? A `cpr` goes on to its next chunk. -/
def CopyRun.finished (c : CopyRun) : Bool :=
  c.started && c.failed.isNone && c.flying.isEmpty && c.sent.isEmpty &&
    (if c.req.kind = 3 then decide (c.req.steps ≤ c.chunk) else decide (c.req.steps ≤ c.next))

/-- The completion message (R178). -/
def State.copyMessage (s : State) (cell : Nat) (c : CopyRun) : State :=
  if c.req.wantsMsg || c.failed.isSome then
    let (seq, s) := s.takeSeq cell
    let moved := if c.failed.isSome then c.landed else c.req.len * c.req.rows
    let d3 := match c.failed with
      | some (e, a) => e.toNat + c.flags.toNat * 2 ^ 8 + a.toNat % 2 ^ 48 * 2 ^ 16
      | none => c.flags.toNat * 2 ^ 8
    s.deliverGen cell 12 c.req.part
      { hdr := genHeader 12 2 cell cell 15 seq, d1 := c.req.tag, d2 := BitVec.ofNat 64 moved, d3 := BitVec.ofNat 64 d3 }
  else s

/-- Remove a copy: its scoreboard entries clear and its context counts it no longer. -/
def State.endCopy (s : State) (cell : Nat) (c : CopyRun) : State :=
  let s := s.modCell cell fun k => { k with runs := k.runs.filter fun r => r.req.id ≠ c.req.id }
  match tfind s.ctxs c.req.ctx with
  | some _ => s.modCtx c.req.ctx fun x => { x with copies := x.copies - 1, mfl := x.mfl ||| c.flags }
  | none => s

/-- A `cpr` whose chunk has been applied goes on to the next. Its pass count runs on: the fourth failure ends the copy, whichever
chunks failed (log 77: DESIGN CHOICE, R224 does not say that the count starts again). -/
def State.nextChunk (s : State) (cell : Nat) (c : CopyRun) : State :=
  if c.applying && c.failed.isNone && c.flying.isEmpty && decide (c.req.chunkEnd c.chunk ≤ c.next) then
    s.modRun cell c.req.id fun c => { c with chunk := c.req.chunkEnd c.chunk, staged := [], applying := false }
  else s

/-- A copy retires (R177, R178; 10 R223, R228). -/
def execCopyRetire (cell copy : Nat) (s : State) : Host.Outcome State Fault Refusal :=
  match (s.cell cell).run copy with
  | none => .next s
  | some c0 =>
    let s := s.nextChunk cell c0
    match (s.cell cell).run copy with
    | none => .next s
    | some c =>
      if c.done then
        let s := s.modCell cell fun k => { k with cfail := satInc16 k.cfail }
        .next ((s.endCopy cell c).copyMessage cell c)
      else if c.finished then .next (((s.chargePass cell c).endCopy cell c).copyMessage cell c)
      else .next s

end Sys2Proof.Machine
end

