-- ==== Sys2Proof/Machine/Lease.lean ====
section
/-! DEFINITION. Leases at their homes: numbers of homes, handles, the grants of each kind, and the lease instructions
(05 R115-R126; 08 R190-R202; 10 R217, R219; 13 R261; 17 R334-R335; 18 R339, R340, R354). -/

namespace Sys2Proof.Machine

/-! ## Homes, kinds, handles (05 R115, R116; log 3) -/

/-- Lease kind of an object (R115). -/
def LeaseObj.kind : LeaseObj → Nat
  | .context _ => 1
  | .sp .. => 2
  | .acc .. => 3
  | .cls .. => 4
  | .l2 .. => 5
  | .page .. => 6
  | .lock .. => 7
  | .path .. => 8
  | .group _ => 9
  | .root _ => 10
  | .ring .. => 10
  | .slice .. => 10
  | .chan .. => 10
  | .share .. => 10
  | .key .. => 11
  | .delivery _ => 12

/-- Numbers of homes: 0-3 the copies of a replicated lease, then Prompters, egresses, cells, slices, controllers. -/
def homePrompter (die : Nat) : Nat := 4 + die
def homeEgress (dom : Nat) : Nat := 8 + dom
def homeCell (cell : Nat) : Nat := 16 + cell
def homeOfSlice (s : Nat) : Nat := 1024 + s
def homeCtl (g : Nat) : Nat := 2048 + g

/-- The die whose ticks a home counts in; 4092-4095 are the egress switches of the dies' external ports. -/
def dieOfHome (h : Nat) : Nat :=
  if h < 4 then h else if h < 8 then h - 4 else if h < 16 then (h - 8) / 2 else if h < 528 then (h - 16) / 128
  else if h < 1280 then (h - 1024) / 64 else if h < 2112 then (h - 2048) / 16 else h - 4092

/-- Does a number in a handle name a home? 0 stands for every Prompter. -/
def homeExists (h : Nat) : Bool :=
  h == 0 || decide (4 ≤ h ∧ h < 528) || decide (1024 ≤ h ∧ h < 1280) || decide (2048 ≤ h ∧ h < 2112) || decide (4092 ≤ h ∧ h < 4096)

/-- The handle of a lease (R116). -/
def Lease.handle (l : Lease) : Word :=
  BitVec.ofNat 64 (l.gen.toNat + l.obj.kind * 2 ^ 24 + l.index % 2 ^ 15 * 2 ^ 32 + (if l.home < 4 then 0 else l.home) * 2 ^ 47)

def handleGen (h : Word) : BitVec 24 := h.truncate 24
def handleKind (h : Word) : Nat := h.toNat / 2 ^ 24 % 256
def handleIndex (h : Word) : Nat := h.toNat / 2 ^ 32 % 2 ^ 15
def handleHome (h : Word) : Nat := h.toNat / 2 ^ 47 % 2 ^ 16

/-- Malformed: bit 63 set, a kind not in R115, or a home number that names no home. -/
def badHandle (h : Word) : Bool :=
  h.getLsbD 63 || handleKind h == 0 || decide (12 < handleKind h) || !homeExists (handleHome h)

/-- The entry that a handle names at its home, whatever its generation; a replicated lease at the copy of `die`. -/
def State.entryOf (s : State) (h : Word) (die : Nat) : Option (Nat × Lease) :=
  s.leases.find? fun p =>
    let l := p.2
    l.obj.kind = handleKind h && l.index % 2 ^ 15 = handleIndex h &&
      (if handleHome h = 0 then l.home = die else l.home = handleHome h)

/-- The lease that a handle names, of its generation. -/
def State.leaseOf (s : State) (h : Word) (die : Nat) : Option (Nat × Lease) :=
  match s.entryOf h die with
  | some (n, l) => if l.gen = handleGen h then some (n, l) else none
  | none => none

/-- Not LAPSED: the entry occupies its place (08 R200). -/
def Lease.occupied (l : Lease) : Bool := l.st != .lapsed

/-- Current tick of a home. -/
def State.tickOf (s : State) (home : Nat) : Nat := s.ref (dieOfHome home)

/-! ## Objects -/

/-- Who asks for a lease: a context, or the Prompter for a population (15 R307). -/
structure Asker where
  pop   : Option Nat
  part  : Nat
  cell  : Nat
  slot  : Nat
  ctx   : Nat
  sid   : BitVec 16                     -- space id (17 R333)
  capId : Option (BitVec 16) := none

def Ctx.asker (c : Ctx) (x : Nat) : Asker :=
  { pop := c.entry, part := c.part, cell := c.cell, slot := c.slot, ctx := x, sid := c.sid }

/-- The space id as a number. -/
def Asker.space (w : Asker) : Nat := w.sid.toNat

/-- The partition's population's thread-context lease, the parent of a grant (R120). -/
def State.contextLease (s : State) (pop : Option Nat) : Option Nat :=
  (pop.bind (tfind s.entries)).map (·.lease)

/-- Is the cell one of the partition's (18 R344)? -/
def State.ownsCell (s : State) (part cell : Nat) : Bool :=
  decide (cell < Config.cells) && s.leases.any fun p => p.2.obj = .ring part (ringOfCell cell) && p.2.alive

/-- Do two objects share storage, so that one lease excludes the other? -/
def LeaseObj.meets : LeaseObj → LeaseObj → Bool
  | .sp c b n, .sp d e m => c = d && overlaps b n e m
  | .acc c t, .acc d u => c = d && t = u
  | .cls c k _ _, .cls d j _ _ => c = d && k = j
  | .l2 p v u _, .l2 q w t _ => p = q && overlaps v (u * 0x1_0000) w (t * 0x1_0000)
  | .page p v b _, .page q w d _ =>
    p = q && overlaps v (if b then 0x20_0000 else 0x1_0000) w (if d then 0x20_0000 else 0x1_0000)
  | .lock p v, .lock q w => p = q && v = w
  | .path d i _, .path e j _ => d = e && i = j
  | .root p, .root q => p = q
  | .ring _ r, .ring _ q => r = q
  | .slice _ r, .slice _ q => r = q
  | .chan _ g _ _, .chan _ h _ _ => g = h
  | .share p d _, .share q e _ => p = q && d = e
  | .key p k, .key q j => p = q && k = j
  | _, _ => false

/-- Leases over an object at a home, in any state. -/
def State.over (s : State) (home : Nat) (o : LeaseObj) : List (Nat × Lease) :=
  s.leases.filter fun p => p.2.home = home && p.2.obj.meets o

/-- Grants of an object so far: the most of the leases over it, at whatever home; a resize moves no counter back
(08 R196; log 9). -/
def State.grantsOf (s : State) (o : LeaseObj) : Nat :=
  s.leases.foldl (fun m p => if p.2.obj.meets o then max m p.2.count else m) 0

/-- The entry that a grant uses: the object's own from an earlier grant that has left its place (08 R194, R200), or that the
population still holds; or a new one. -/
def State.slotFor (s : State) (home : Nat) (o : LeaseObj) (pop : Option Nat) : Nat × Nat :=
  let same := s.leases.find? fun p =>
    p.2.home = home && p.2.obj.meets o &&
      (match p.2.obj, o with
       | .sp _ b n, .sp _ e m => b = e && n = m
       | .page _ v b _, .page _ w d _ => v = w && b = d
       | .l2 _ v u _, .l2 _ w t _ => v = w && u = t
       | .path .., .path .. => p.2.pop = pop
       | _, _ => true) && (!p.2.occupied || (p.2.alive && p.2.pop = pop))
  match same with
  | some (n, l) => (n, l.index)
  | none =>
    let kind := o.kind
    let idx := s.leases.foldl (fun m p => if p.2.home = home ∧ p.2.obj.kind = kind then max m (p.2.index + 1) else m) 0
    (tnext s.leases, idx)

/-- Write the grant (R120): generation, expiry, parent. The parent is the population's context lease even where `lpar` has
made that the fourth of its chain, and the chain is then of five (log 81: DESIGN CHOICE, R120 and R126 name no refusal). -/
def State.grant (s : State) (home : Nat) (o : LeaseObj) (w : Asker) (life : Nat) : State × Nat :=
  let (n, idx) := s.slotFor home o w.pop
  let k := s.grantsOf o + 1
  let l : Lease :=
    { home := home, index := idx, obj := o, gen := BitVec.ofNat 24 k, count := k, st := .granted, expiry := s.tickOf home + life
      parent := s.contextLease w.pop, pop := w.pop, part := w.part, order := s.grants
      holder := some { ctx := w.ctx, cell := w.cell } }
  ({ s with leases := tset s.leases n l, grants := s.grants + 1 }, n)

/-- LS codes (R117). -/
def lsBusy : Nat := 1
def lsNoRes : Nat := 2
def lsBadObj : Nat := 3
def lsLife : Nat := 4
def lsDepth : Nat := 5
def lsScrub : Nat := 6
def lsTimeout : Nat := 7
def lsStale : Nat := 8

/-- Entries in use at a home among kinds (08 R200). -/
def State.used (s : State) (home : Nat) (f : Nat → Bool) : Nat :=
  (s.leases.filter fun p => p.2.home = home && p.2.occupied && f p.2.obj.kind).length

/-- The part of R120 after the object has been formed: scrub, busy, capacity, grant. `busy` says which present leases
hold the object against the asker. -/
def State.settleLacq (s : State) (home : Nat) (o : LeaseObj) (w : Asker) (life : Nat) (busy : Lease → Bool) (full : Bool) :
    State × Except Nat Nat :=
  let l := s.over home o
  if l.any fun p => p.2.st = .lapsing || p.2.st = .scrubbing then (s, .error lsScrub)
  else if l.any fun p => p.2.alive && busy p.2 then (s, .error lsBusy)
  else if full then (s, .error lsNoRes)
  else
    let (s, n) := s.grant home o w life
    (s, .ok n)

def State.cellFull (s : State) (cell : Nat) : Bool :=
  decide (64 ≤ s.used (homeCell cell) fun k => k = 2 || k = 3 || k = 4)

/-- Does the population already hold the same object in its own entry, so that a new grant takes no new place? -/
def State.reuses (s : State) (home : Nat) (o : LeaseObj) (pop : Option Nat) : Bool :=
  match tfind s.leases (s.slotFor home o pop).1 with
  | some l => l.alive
  | none => false

/-! ### Pages (17 R334, R335) -/

/-- Frames of a channel group: 36 GiB of a die in 16 groups, each a run of frame numbers (log 20). -/
def groupFrames : Nat := 36864

/-- The first number below `n` more that satisfies a test. -/
def firstFrom (p : Nat → Bool) (step : Nat) : Nat → Nat → Option Nat
  | _, 0 => none
  | k, n + 1 => if p k then some k else firstFrom p step (k + step) n

/-- Is a frame free: no page lies on it and its owned mark is clear (19 R352)? -/
def State.frameFree (s : State) (die f : Nat) : Bool :=
  !(s.die die).owned.contains f && (s.groupOfFrame die f).isNone

/-- The partition's channel groups on a die, ascending. -/
def State.groupsOf (s : State) (part die : Nat) : List Nat :=
  (List.range 16).filter fun g =>
    s.leases.any fun p =>
      match p.2.obj with
      | .chan q h _ _ => q = part && h = die * 16 + g && p.2.home = die && p.2.inUse
      | _ => false

/-- The home domain of a region (R334). -/
def State.regionHome (s : State) (part region : Nat) : Option Nat := tfind (s.part part).regions region

/-- Where a page of the region goes: channel group and first frame. -/
def State.placeFrame (s : State) (part dom region : Nat) (big : Bool) : Option (Nat × Nat) :=
  let die := dieOfDom dom
  let gs := s.groupsOf part die
  if gs.length = 0 ∨ (s.slicesOf part dom).length = 0 then none
  else
    let g := gs.getD (region % gs.length) 0
    let ok (f : Nat) : Bool :=
      if big then (List.range 32).all fun k => s.frameFree die (f + k) else s.frameFree die f
    (firstFrom ok (if big then 32 else 1) (g * groupFrames) (if big then groupFrames / 32 else groupFrames)).map fun f => (g, f)

/-- The translation entry of a granted page, its region's home and its frames' owned marks (R334, R335; 19 R352). -/
def State.mapPage (s : State) (w : Asker) (sid : BitVec 16) (va : Nat) (big ver : Bool) (dom g f lease : Nat) : State :=
  let die := dieOfDom dom
  let p : Page := { part := w.part, sid := sid, va := va, big := big, ver := ver, dom := dom, cg := g, die := die, frame := f, lease := lease }
  let s := { s with pages := s.pages ++ [p] }
  let s := s.modDie die fun d =>
    { d with owned := (List.range (if big then 32 else 1)).foldl (fun o k => nins o (f + k)) d.owned }
  s.modPart w.part fun q =>
    { q with regions := if (tfind q.regions (va / 0x20_0000)).isSome then q.regions else tset q.regions (va / 0x20_0000) dom }

/-- `lacq.page` (R120, R334). -/
def State.lacqPage (s : State) (w : Asker) (xa : Word) (life : Nat) : State × Except Nat Nat :=
  let big := xa.getLsbD 0
  let ver := xa.getLsbD 1
  let size := if big then 0x20_0000 else 0x1_0000
  let va := xa.toNat / size * size
  if xa.toNat % size / 4 ≠ 0 ∨ va < Config.memBase ∨ Config.memTop < va + size then (s, .error lsBadObj)
  else
    let o : LeaseObj := .page w.space va big ver
    let there := s.leases.filter fun p => p.2.obj.meets o
    if there.any fun p => p.2.st = .lapsing || p.2.st = .scrubbing then (s, .error lsScrub)
    else if there.any fun p => p.2.alive then (s, .error lsBusy)
    else
      let dom := (s.regionHome w.part (va / 0x20_0000)).getD (domOfCell w.cell)
      match s.placeFrame w.part dom (va / 0x20_0000) big with
      | none => (s, .error lsNoRes)
      | some (g, f) =>
        let (s, n) := s.grant (homeCtl (dieOfDom dom * 16 + g)) o w life
        (s.mapPage w w.sid va big ver dom g f n, .ok n)

/-! ### The other kinds -/

/-- `lacq.sp` (R115, R120). -/
def State.lacqSp (s : State) (w : Asker) (xa : Word) (life : Nat) : State × Except Nat Nat :=
  let base := xa.toNat / 4096 * 4096
  let count := xa.toNat % 256 + 1
  if xa.toNat % 4096 / 256 ≠ 0 ∨ base < Config.viewBase ∨
      Config.viewBase + (s.cell w.cell).spadSize < base + count * 4096 then (s, .error lsBadObj)
  else
    let o : LeaseObj := .sp w.cell ((base - Config.viewBase) / 4096) count
    let home := homeCell w.cell
    s.settleLacq home o w life (fun l => l.pop ≠ w.pop) (s.cellFull w.cell && !s.reuses home o w.pop)

/-- `lacq.acc`. -/
def State.lacqAcc (s : State) (w : Asker) (xa : Word) (life : Nat) : State × Except Nat Nat :=
  if 4 ≤ xa.toNat then (s, .error lsBadObj)
  else
    let o : LeaseObj := .acc w.cell xa.toNat
    let home := homeCell w.cell
    s.settleLacq home o w life (fun l => l.pop ≠ w.pop) (s.cellFull w.cell && !s.reuses home o w.pop)

/-- `lacq.cls`: a class of the issuer's own population moves to the issuing slot (09 R205). -/
def State.lacqCls (s : State) (w : Asker) (xa : Word) (life : Nat) : State × Except Nat Nat :=
  if 16 ≤ xa.toNat then (s, .error lsBadObj)
  else
    let o : LeaseObj := .cls w.cell xa.toNat w.slot w.ctx
    let home := homeCell w.cell
    s.settleLacq home o w life (fun l => l.pop ≠ w.pop) (s.cellFull w.cell && !s.reuses home o w.pop)

/-- The partition's resident 64 KiB units on a die, and its allowance: half of 24 units for each of its slices (10 R219). -/
def State.residentUnits (s : State) (part die : Nat) : Nat :=
  (s.leases.map fun p =>
    match p.2.obj with
    | .l2 q _ u _ => if partOf q = part ∧ dieOfHome p.2.home = die ∧ p.2.alive ∧ p.2.pinned then u else 0
    | _ => 0).sum

def State.slicesOnDie (s : State) (part die : Nat) : Nat :=
  (s.slicesOf part (2 * die)).length + (s.slicesOf part (2 * die + 1)).length

/-- Units that the partition's live versions occupy on a die, at 16 bytes each (10 R218, R219; 13 R268). -/
def State.versionUnits (s : State) (part die : Nat) : Nat :=
  (((s.versions.filter fun (p : Nat × List Version) =>
    partOf (p.1 / 2 ^ 48) = part && (s.page (p.1 / 2 ^ 48) (p.1 % 2 ^ 48)).any fun q => q.die = die).map fun (p : Nat × List Version) => p.2.length).sum + 4095) / 4096

def State.residentLimit (s : State) (part die : Nat) : Nat := (24 * s.slicesOnDie part die - s.versionUnits part die) / 2

/-- The home slice of an address: in its region's domain, or the asker's. -/
def State.sliceFor (s : State) (part cell va : Nat) : Nat :=
  s.homeSlice part ((s.regionHome part (va / 0x20_0000)).getD (domOfCell cell)) va

/-- `lacq.l2` (10 R219). -/
def State.lacqL2 (s : State) (w : Asker) (xa : Word) (life : Nat) : State × Except Nat Nat :=
  let base := xa.toNat / 0x1_0000 * 0x1_0000
  let prio := xa.toNat / 2 ^ 13 % 8
  let units := xa.toNat % 2 ^ 13 + 1
  if base < Config.memBase ∨ Config.memTop < base + units * 0x1_0000 then (s, .error lsBadObj)
  else
    let o : LeaseObj := .l2 w.space base units prio
    let home := homeOfSlice (s.sliceFor w.part w.cell base)
    let die := dieOfHome home
    let there := s.leases.filter fun p => p.2.obj.meets o
    if there.any fun p => p.2.alive && p.2.pop ≠ w.pop then (s, .error lsBusy)
    else s.settleLacq home o w life (fun _ => false)
      (decide (s.residentLimit w.part die < s.residentUnits w.part die + units) ||
        (decide (32 ≤ s.used home fun k => k = 5) && !s.reuses home o w.pop))

/-- Reserved bandwidth: of a partition from a domain, of an egress, of an external port (18 R339). -/
def State.reserved (s : State) (f : Lease → Nat → Nat → Bool) : Nat :=
  (s.leases.map fun p =>
    match p.2.obj with
    | .path d i bw => if p.2.occupied && f p.2 d i then bw else 0
    | _ => 0).sum

/-- The partition's fabric share in a domain; none without a share member (18 R346). -/
def State.shareIn (s : State) (part dom : Nat) : Nat :=
  (s.leases.findSome? fun p =>
    match p.2.obj with
    | .share q d g => if q = part ∧ d = dom ∧ p.2.home = dieOfDom dom ∧ p.2.alive then some g else none
    | _ => none).getD 0

/-- `lacq.path` (18 R339). A domain without a share member grants no path (18 R346). While the population's own path to the
id is LAPSING, its packets not yet through, the answer is LS_SCRUB (08 R194; log 82). -/
def State.lacqPath (s : State) (w : Asker) (xa : Word) (life : Nat) : State × Except Nat Nat :=
  let bw := xa.toNat / 2 ^ 16 % 2 ^ 16
  let dom := domOfCell w.cell
  let home := homeEgress dom
  match w.capId with
  | none => (s, .error lsBadObj)
  | some idw =>
    let id := idw.toNat
    if xa.toNat / 2 ^ 32 ≠ 0 ∨ xa.toNat % 2 ^ 16 / 8 ≠ 0 ∨ bw = 0 ∨ 3000 < bw then (s, .error lsBadObj)
    else if id = dom ∨ !(decide (id < 8) || (isPeer id && s.peerUp id)) then (s, .error lsBadObj)
    else
      let o : LeaseObj := .path dom id bw
      let mine (st : Lease → Bool) : Bool := s.leases.any fun p =>
        p.2.pop = w.pop && st p.2 && match p.2.obj with | .path d i _ => d = dom && i = id | _ => false
      if mine fun l => l.st = .lapsing then (s, .error lsScrub)
      else if mine Lease.alive then (s, .error lsBusy)
      else if s.shareIn w.part dom < s.reserved (fun l d _ => l.part = w.part && d = dom) + bw then (s, .error lsNoRes)
      else if 64 ≤ s.used home (fun k => k = 8) ∨ 3000 < s.reserved (fun _ d _ => d = dom) + bw ∨
          (isPeer id ∧ 100 < s.reserved (fun _ _ i => isPeer i && Config.peerPort i % 8 = Config.peerPort id % 8) + bw)
      then (s, .error lsNoRes)
      else
        let (s, n) := s.grant home o w life
        (s, .ok n)

/-- `lacq.grp` (13 R261): a group takes a lapsed group's entry of the Prompter, or a new one. -/
def State.lacqGrp (s : State) (w : Asker) (xa : Word) (life : Nat) : State × Except Nat Nat :=
  let die := dieOfCell w.cell
  let home := homePrompter die
  if xa ≠ 0 then (s, .error lsBadObj)
  else if 64 ≤ s.used home fun k => k = 9 then (s, .error lsNoRes)
  else
    let old := s.leases.find? fun p => p.2.home = home && p.2.obj.kind = 9 && p.2.st = .lapsed
    let idx := s.leases.foldl (fun m p => if p.2.home = home ∧ p.2.obj.kind = 9 then max m (p.2.index + 1) else m) 0
    let (n, i, k) : Nat × Nat × Nat := match old with
      | some (n, l) => (n, l.index, l.count + 1)
      | none => (tnext s.leases, idx, 1)
    let (gn, s) := s.takeFresh
    let l : Lease :=
      { home := home, index := i, obj := .group gn, gen := BitVec.ofNat 24 k, count := k, st := .granted, expiry := s.tickOf home + life
        parent := s.contextLease w.pop, pop := w.pop, part := w.part, order := s.grants }
    ({ s with
        leases := tset s.leases n l, grants := s.grants + 1, groups := tset s.groups gn { lease := n, die := die } }, .ok n)

/-- The home of a request for a new lease. -/
def State.homeOfLacq (s : State) (w : Asker) (kind : Nat) (xa : Word) : Nat :=
  match kind with
  | 2 => homeCell w.cell
  | 3 => homeCell w.cell
  | 4 => homeCell w.cell
  | 5 => homeOfSlice (s.sliceFor w.part w.cell xa.toNat)
  | 6 => homeCtl (dieOfDom ((s.regionHome w.part (xa.toNat / 0x20_0000)).getD (domOfCell w.cell)) * 16)
  | 8 => homeEgress (domOfCell w.cell)
  | _ => homePrompter (dieOfCell w.cell)

/-- The tests and the grant of R120 at the home, in order. -/
def State.lacqAt (s : State) (w : Asker) (kind : Nat) (xa xb : Word) : State × Except Nat Nat :=
  let life := xb.toNat
  if life = 0 ∨ 2 ^ 32 ≤ life then (s, .error lsLife)
  else
    match kind with
    | 2 => s.lacqSp w xa life
    | 3 => s.lacqAcc w xa life
    | 4 => s.lacqCls w xa life
    | 5 => s.lacqL2 w xa life
    | 6 => s.lacqPage w xa life
    | 8 => s.lacqPath w xa life
    | 9 => s.lacqGrp w xa life
    | _ => (s, .error lsBadObj)

/-- Is the request for an object whose lease has come to its expiry tick, so that it is held over to stage 5 (08 R192)? -/
def State.heldOver (s : State) (w : Asker) (kind : Nat) (xa : Word) : Bool :=
  s.leases.any fun p =>
    p.2.alive && decide (p.2.expiry ≤ s.tickOf p.2.home) &&
      (match kind, p.2.obj with
       | 2, .sp c b n => c = w.cell && overlaps b n ((xa.toNat / 4096 * 4096 - Config.viewBase) / 4096) (xa.toNat % 256 + 1)
       | 3, .acc c t => c = w.cell && t = xa.toNat
       | 4, .cls c k _ _ => c = w.cell && k = xa.toNat
       | 5, .l2 q v u _ => q = w.space && overlaps v (u * 0x1_0000) (xa.toNat / 0x1_0000 * 0x1_0000) ((xa.toNat % 2 ^ 13 + 1) * 0x1_0000)
       | 6, .page q v b _ =>
         q = w.space && overlaps v (if b then 0x20_0000 else 0x1_0000) (xa.toNat / 0x1_0000 * 0x1_0000)
           (if xa.getLsbD 0 then 0x20_0000 else 0x1_0000)
       | 8, .path d i _ => d = domOfCell w.cell && p.2.pop = w.pop && some (BitVec.ofNat 16 i) = w.capId
       | _, _ => false)

/-! ## The answer kept for a context (R119) -/

/-- The home's last answer for the number, unless its lease has lapsed since. -/
def State.keptAnswer (s : State) (ctx num : Nat) : Option (Word × Option Nat) :=
  s.kept.findSome? fun k =>
    if k.1 = ctx ∧ k.2.1 = num then
      match k.2.2.2 with
      | none => some (k.2.2.1, none)
      | some n =>
        match tfind s.leases n with
        | some l => if l.alive && l.handle == k.2.2.1 then some (k.2.2.1, some n) else none
        | none => none
    else none

def State.keepAnswer (s : State) (ctx num : Nat) (v : Word) (n : Option Nat) : State :=
  { s with kept := (ctx, num, v, n) :: s.kept.filter fun k => k.1 ≠ ctx }

/-! ## lpar (R124; 18 R354) -/

/-- Leases from the root to a lease, itself included. -/
def State.depthOf (s : State) : Nat → Nat → Nat
  | 0, _ => 0
  | k + 1, n =>
    match tfind s.leases n with
    | none => 0
    | some l =>
      match l.parent with
      | none => 1
      | some p => 1 + s.depthOf k p

/-- Is `n` the lease `a`, or below it? -/
def State.isUnder (s : State) (a : Nat) : Nat → Nat → Bool
  | 0, _ => false
  | k + 1, n =>
    n = a || match (tfind s.leases n).bind (·.parent) with
      | some p => s.isUnder a k p
      | none => false

/-- Leases from a lease to its deepest descendant, itself included. -/
def State.heightOf (s : State) : Nat → Nat → Nat
  | 0, _ => 0
  | k + 1, n =>
    1 + (s.leases.filter fun p => p.2.parent = some n && p.2.occupied).foldl (fun m p => max m (s.heightOf k p.1)) 0

/-- Set the parent of a lease, and of the other copies of a replicated one. -/
def State.setParent (s : State) (n p : Nat) : State :=
  match tfind s.leases n, tfind s.leases p with
  | some l, some q =>
    if l.home < 4 then
      { s with leases := s.leases.map fun e =>
          if e.2.home < 4 ∧ e.2.obj = l.obj then
            (e.1, { e.2 with parent :=
              if q.home < 4 then (s.leases.find? fun f => f.2.obj = q.obj && f.2.home = e.2.home).map (·.1) else some p })
          else e }
    else s.modLease n fun l => { l with parent := some p }
  | _, _ => s

/-- The answer of `lpar`. -/
def State.lparAt (s : State) (c : Ctx) (xa xb : Word) : State × Word :=
  let die := dieOfCell c.cell
  let sealed (h : Word) : Bool := handleKind h = 10 || handleKind h = 11
  if badHandle xa || badHandle xb then (s, status lsBadObj)
  else if c.pl = 0 ∧ (sealed xa ∨ sealed xb) then (s, status lsBadObj)
  else
    match s.leaseOf xa die, s.leaseOf xb die with
    | some (n, l), some (p, q) =>
      if !l.alive || !q.alive then (s, status lsStale)
      else if l.part ≠ c.part ∨ q.part ≠ c.part then (s, status lsBadObj)
      else if s.isUnder n 8 p || decide (4 < s.depthOf 8 p + s.heightOf 8 n) then (s, status lsDepth)
      else (s.setParent n p, 0)
    | _, _ => (s, status lsStale)

/-! ## life and lgen (R122, R123) -/

/-- The bound of R193 for a holder and a home. -/
def guardTicks (cell home : Nat) : Nat :=
  if home < 4 then 16 else if home = homeCell cell then 0 else if dieOfHome home = dieOfCell cell then 16 else 48

def State.lifeAt (s : State) (c : Ctx) (xa : Word) : Word :=
  if badHandle xa then status lsBadObj
  else
    match s.leaseOf xa (dieOfCell c.cell) with
    | none => 0
    | some (_, l) =>
      if l.alive then BitVec.ofNat 64 (l.expiry - s.tickOf l.home - guardTicks c.cell l.home) else 0

def State.lgenAt (s : State) (c : Ctx) (xa : Word) : Word :=
  if badHandle xa then status lsBadObj
  else
    match s.entryOf xa (dieOfCell c.cell) with
    | none => 0
    | some (_, l) => l.gen.zeroExtend 64 ||| bit l.alive 24

/-! ## Locks (R125, R126; 10 R217) -/

/-- Ranges of a descriptor: base and length, a multiple of 128; length 0 is unused. -/
def lockRanges (b : List Byte) : List (Nat × Nat) :=
  ((List.range 3).map fun k =>
    (leNat ((b.drop (8 + 16 * k)).take 8), leNat ((b.drop (16 + 16 * k)).take 8))).filter fun r => r.2 ≠ 0

/-- A range that is malformed or outside partition memory. A lock word that is not a multiple of 8 or lies outside partition
memory, and reserved bytes that are not zero, count as malformed too (log 80: DESIGN CHOICE, R125 names the ranges alone). -/
def badLock (b : List Byte) : Bool :=
  let w := leNat (b.take 8)
  w % 8 != 0 || !(decide (Config.memBase ≤ w ∧ w + 8 ≤ Config.memTop)) || leNat (b.drop 56) != 0 ||
    (lockRanges b).any fun r => r.1 % 128 != 0 || r.2 % 128 != 0 || !(decide (Config.memBase ≤ r.1 ∧ r.1 + r.2 ≤ Config.memTop))

/-- The lines of a cell's L1 that lie in a holder's ranges. -/
def State.linesOf (s : State) (h : Holder) : List Nat :=
  ((s.cell h.cell).l1.filter fun p =>
    p.2.sid = h.sid && h.ranges.any fun r => decide (r.1 ≤ p.2.va ∧ p.2.va < r.1 + r.2)).map (·.1)

/-- The drain of R126: the last holder's dirty lines go to L2, its guarded lines and table entries end (10 R217). -/
def State.drainHolder (s : State) (n : Nat) (h : Holder) : State :=
  let s := (s.linesOf h).foldl
    (fun s k =>
      match tfind (s.cell h.cell).l1 k with
      | some l => if l.guarded then s.l1Flush h.cell k else s.l1WriteBack h.cell k
      | none => s) s
  s.modCell h.cell fun c => { c with guards := c.guards.filter fun g => g.lease ≠ n }

/-- Steps 3 and 4 of a grant: the new holder's lines in its ranges end, and the lease is granted. -/
def State.grantLock (s : State) (n req : Nat) : State :=
  match tfind s.leases n, tfind s.lreqs req with
  | some l, some r =>
    match tfind s.ctxs r.ctx with
    | none => s.modLease n fun l => { l with draining := none, drained := false }
    | some c =>
      let h : Holder := { ctx := r.ctx, cell := c.cell, sid := c.sid, ranges := r.ranges }
      let s := (s.linesOf h).foldl (fun s k => s.l1Flush h.cell k) s
      let l' : Lease :=
        { l with
          gen := BitVec.ofNat 24 (l.count + 1), count := l.count + 1, st := .granted, expiry := s.tickOf l.home + r.xb.toNat % 2 ^ 32
          parent := s.contextLease c.entry, pop := c.entry, part := c.part, order := s.grants, holder := some h
          last := none, draining := none, drained := false }
      let s := { s with leases := tset s.leases n l', grants := s.grants + 1 }
      let s := { s with lreqs := tset s.lreqs req { r with parked := false, answer := some l'.handle, granted := some n } }
      s.keepAnswer r.ctx r.num l'.handle (some n)
  | _, _ => s.modLease n fun l => { l with draining := none, drained := false }

/-- Answer an `llk` with a status. -/
def State.answerLock (s : State) (req : Nat) (r : LeaseReq) (code : Nat) : State :=
  ({ s with lreqs := tset s.lreqs req { r with parked := false, answer := some (status code) } }).keepAnswer r.ctx r.num (status code) none

/-- Has the home of a lock no free lock entry (08 R200)? A grant under way has one. -/
def State.locksFull (s : State) (home : Nat) : Bool :=
  decide (256 ≤ (s.leases.filter fun p => p.2.home = home && p.2.obj.kind = 7 && (p.2.occupied || p.2.draining.isSome)).length)

/-- Serve a free lock: the request begins its drain, or is granted at once when no last holder is recorded. -/
def State.serveLock (s : State) (n req : Nat) : State :=
  match tfind s.leases n, tfind s.lreqs req with
  | some l, some r =>
    if s.locksFull l.home then s.answerLock req r lsNoRes
    else if l.last.isSome then s.modLease n fun l => { l with draining := some req, drained := false } else s.grantLock n req
  | _, _ => s

/-- The earlier of two arrivals. -/
def earlier (m : Option (Nat × LeaseReq)) (p : Nat × LeaseReq) : Option (Nat × LeaseReq) :=
  match m with
  | some q => if q.2.order ≤ p.2.order then some q else some p
  | none => some p

/-- The first parked request for a lock, in arrival order. -/
def State.firstParked (s : State) (n : Nat) : Option Nat :=
  ((s.lreqs.filter fun p => p.2.parked && p.2.answer.isNone && p.2.lock = n).foldl earlier none).map (·.1)

/-- The lock's record at its home: its own, or a new one that no one has held. -/
def State.lockEntry (s : State) (c : Ctx) (va : Nat) : State × Nat :=
  match s.leases.find? fun p => p.2.obj = .lock c.space va with
  | some (n, _) => (s, n)
  | none =>
    let home := homeOfSlice (s.sliceFor c.part c.cell va)
    let n := tnext s.leases
    let idx := s.leases.foldl (fun m p => if p.2.home = home ∧ p.2.obj.kind = 7 then max m (p.2.index + 1) else m) 0
    ({ s with leases := tset s.leases n { home := home, index := idx, obj := .lock c.space va, part := c.part } }, n)

/-- An `llk` at its home (R125). -/
def State.llkAt (s : State) (req : Nat) (r : LeaseReq) (c : Ctx) (bad : Bool) : State :=
  if r.xb.toNat % 2 ^ 32 = 0 then s.answerLock req r lsLife
  else if bad then s.answerLock req r lsBadObj
  else
    let (s, n) := s.lockEntry c r.lock
    match tfind s.leases n with
    | none => s
    | some l =>
      if l.st = .lapsing then s.answerLock req r lsScrub
      else
        let s := { s with lreqs := tset s.lreqs req { r with parked := true, lock := n, arrived := some (s.tickOf l.home) } }
        if l.st = .lapsed ∧ l.draining.isNone then s.serveLock n req else s

/-! ## Requests and replies -/

/-- A renewal goes to the other copies of a replicated lease, and is applied at each in its own tick step (08 R198). -/
def State.spreadRenewal (s : State) (l : Lease) (life order : Nat) (port : Option Nat) : State :=
  let others := s.leases.filter fun p => decide (p.2.home < 4) && p.2.home ≠ l.home && p.2.obj = l.obj
  { s with extensions := s.extensions ++ others.map fun p => { lease := p.1, gen := p.2.gen, life := life, order := order, port := port } }

/-- A request reaches its home and is answered, held over, parked, or waits for the tick step (R120-R125; 08 R191, R192). -/
def State.leaseArrives (s : State) (req : Nat) : State :=
  match tfind s.lreqs req with
  | none => s
  | some r =>
    match tfind s.ctxs r.ctx with
    | none => { s with lreqs := tdel s.lreqs req }
    | some c =>
      let (k, s) := s.takeFresh
      let r := { r with order := k }
      let put (s : State) (v : Word) (n : Option Nat) : State :=
        { s with lreqs := tset s.lreqs req { r with answer := some v, granted := n, held := false } }
      match r.op with
      | .lacq kind =>
        match s.keptAnswer r.ctx r.num with
        | some (v, n) => put s v n
        | none =>
          let w := { c.asker r.ctx with capId := r.capId }
          if !r.held && s.heldOver w kind r.xa then
            { s with lreqs := tset s.lreqs req { r with held := true, arrived := some (s.tickOf (s.homeOfLacq w kind r.xa)) } }
          else
            match s.lacqAt w kind r.xa r.xb with
            | (s, .ok n) =>
              match tfind s.leases n with
              | some l => (put s l.handle (some n)).keepAnswer r.ctx r.num l.handle (some n)
              | none => s
            | (s, .error code) => (put s (status code) none).keepAnswer r.ctx r.num (status code) none
      | .llk =>
        match s.keptAnswer r.ctx r.num with
        | some (v, n) => put s v n
        | none => s.llkAt req r c r.bad
      | .renew =>
        let die := dieOfCell c.cell
        let home := if handleHome r.xa = 0 then die else handleHome r.xa
        let s := match s.leaseOf r.xa die with
          | some (_, l) => if l.home < 4 then s.spreadRenewal l r.xb.toNat k none else s
          | none => s
        { s with lreqs := tset s.lreqs req { r with arrived := some (s.tickOf home) } }
      | .life => put s (s.lifeAt c r.xa) none
      | .lgen => put s (s.lgenAt c r.xa) none
      | .lpar => let (s, v) := s.lparAt c r.xa r.xb; put s v none

/-- The guard table entries of the grant of handle `v` (10 R217). A reply that comes after the drain of that grant enters none,
and one that comes after its guard notice enters ranges that are no longer HELD. -/
def State.enterGuards (s : State) (n : Nat) (v : Word) : State :=
  match tfind s.leases n with
  | some l =>
    match l.obj, (if l.holder.isSome then l.holder else l.last) with
    | .lock space _, some h =>
      if l.handle ≠ v ∨ l.drained then s
      else
        let held := l.alive || s.notices.any fun p => p.2.guard = some (h.cell, n)
        s.modCell h.cell fun c =>
          let room := 48 - c.guards.length
          { c with guards := c.guards ++ (h.ranges.take room).map fun r =>
              { sid := h.sid, part := partOf space, base := r.1, len := r.2, lease := n, held := held } }
    | _, _ => s
  | none => s

/-- A grant of a path to a peer rewrites the capability register (18 R340). -/
def State.rewritePath (s : State) (r : LeaseReq) (n : Nat) : State :=
  match tfind s.leases n with
  | some l =>
    match l.obj with
    | .path _ id _ =>
      if isPeer id then
        let k := r.xa.toNat % 8
        s.modCtx r.ctx fun c =>
          let v := c.c? k
          c.setC k { v with bits := setField (setField v.bits 120 8 8) 96 16 (l.gen.toNat % 2 ^ 16) }
      else s
    | _ => s
  | none => s

/-- The reply reaches the cell and completes the instruction; a grant is then HELD (08 R194), and that of a lock is an acquire
(11 R231, R233, R235). A reply to an instruction that no longer waits for it is dropped. -/
def State.leaseReply (s : State) (req : Nat) : State :=
  match tfind s.lreqs req with
  | none => s
  | some r =>
    match r.answer, r.fault with
    | none, none => s
    | _, _ =>
      let s := { s with lreqs := tdel s.lreqs req }
      if (s.ctx r.ctx).wait ≠ .lease req then s
      else
        let s := { s with cur := r.ctx }
        match r.answer with
        | none => s.trap (r.fault.getD cGENMIS) 0
        | some v =>
          let s := match r.granted with
            | some n =>
              let s := s.modLease n fun (l : Lease) => { l with st := if l.st = LeaseSt.granted then LeaseSt.held else l.st }
              let s := (s.enterGuards n v).rewritePath r n
              if r.op = LeaseOp.llk then s.acquire r.ctx else s
            | none => s
          let s := match r.op with
            | .lacq _ | .llk => s.mod fun c => { c with leaseNum := c.leaseNum + 1 }
            | _ => s
          (s.wx r.xd v).finish

/-- Send a request: it arrives and is answered at once, or stays in flight (log 10); one to the own cell arrives in the
cycle of issue (08 R193). -/
def State.sendLease (s : State) (r : LeaseReq) (own parked : Bool) : State :=
  let (held, s) := if own then (false, s) else s.takeHold
  let (n, s) := s.takeFresh
  let s := { s with lreqs := tset s.lreqs n r }
  let s := if parked then s.park (.lease n) else s.stall (.lease n)
  if held then s else (s.leaseArrives n).leaseReply n

/-! ## The instructions (R118) -/

/-- `lacq.kind` (R120). -/
def State.lacq (s : State) (kind : Nat) (d a b : BitVec 5) : Host.Outcome State Fault Refusal :=
  let c := s.self
  let xa := s.rx a
  if kind = 4 ∧ 12 ≤ xa.toNat ∧ c.pl = 0 then faultOut s cPRIV 0
  else
    let cap := s.rc (xa.truncate 3 : BitVec 3)
    .next (s.sendLease
      { ctx := s.cur, op := .lacq kind, xa := xa, xb := s.rx b, num := c.leaseNum, xd := d
        capId := if kind = 8 ∧ cap.tag then some (BitVec.ofNat 16 cap.id) else none }
      (decide (kind = 2 ∨ kind = 3 ∨ kind = 4)) false)

/-- Acquire a scratchpad range. -/
def execLacqSp (d a b : BitVec 5) (s : State) : Host.Outcome State Fault Refusal := s.lacq 2 d a b

/-- Acquire an accumulator tile. -/
def execLacqAcc (d a b : BitVec 5) (s : State) : Host.Outcome State Fault Refusal := s.lacq 3 d a b

/-- Bind a message class to the issuing slot. -/
def execLacqCls (d a b : BitVec 5) (s : State) : Host.Outcome State Fault Refusal := s.lacq 4 d a b

/-- Acquire L2 residency. -/
def execLacqL2 (d a b : BitVec 5) (s : State) : Host.Outcome State Fault Refusal := s.lacq 5 d a b

/-- Acquire a memory page. -/
def execLacqPage (d a b : BitVec 5) (s : State) : Host.Outcome State Fault Refusal := s.lacq 6 d a b

/-- Acquire a fabric path. -/
def execLacqPath (d a b : BitVec 5) (s : State) : Host.Outcome State Fault Refusal := s.lacq 8 d a b

/-- Create an optimistic group. -/
def execLacqGrp (d a b : BitVec 5) (s : State) : Host.Outcome State Fault Refusal := s.lacq 9 d a b

/-- A handle of the issuing cell's own home. -/
def State.ownHandle (s : State) (h : Word) : Bool := handleHome h == homeCell s.self.cell

/-- Extend a lease (R121). -/
def execRenew (a b : BitVec 5) (s : State) : Host.Outcome State Fault Refusal :=
  let xa := s.rx a
  let xb := s.rx b
  let k := handleKind xa
  if badHandle xa then faultOut s cGENMIS 0
  else if (k = 10 ∨ k = 11) ∧ s.self.pl.toNat < 2 then faultOut s cPRIV 0
  else if xb = 0 ∨ 2 ^ 32 ≤ xb.toNat then .next s.finish
  else .next (s.sendLease { ctx := s.cur, op := .renew, xa := xa, xb := xb } (s.ownHandle xa) false)

/-- Guarded remaining life (R122). -/
def execLife (d a : BitVec 5) (s : State) : Host.Outcome State Fault Refusal :=
  let xa := s.rx a
  .next (s.sendLease { ctx := s.cur, op := .life, xa := xa, xd := d } (s.ownHandle xa || badHandle xa) false)

/-- Acquire a lock (R125). The descriptor is read as a load of partition memory before anything is sent. -/
def execLlk (d a b : BitVec 5) (s : State) : Host.Outcome State Fault Refusal :=
  let ea := s.rx a
  conclude do
    s.illInOpt
    s.require (decide (ea.toNat % 64 = 0)) cALIGN ea
    s.require (region ea == .mem) cXLATE ea
    s.checkAccess ea 64 false false
    s.localWaits ea 64 false
    s.fabricWaits ea 64 false false
    let (s, bs) ← s.readBytes ea 64 false
    return s.sendLease
      { ctx := s.cur, op := .llk, xa := ea, xb := s.rx b, num := s.self.leaseNum, xd := d, lock := leNat (bs.take 8)
        ranges := lockRanges bs, bad := badLock bs } false true

/-- Generation report (R123). -/
def execLgen (d a : BitVec 5) (s : State) : Host.Outcome State Fault Refusal :=
  let xa := s.rx a
  .next (s.sendLease { ctx := s.cur, op := .lgen, xa := xa, xd := d } (s.ownHandle xa || badHandle xa) false)

/-- Change a lease's parent (R124). -/
def execLpar (d a b : BitVec 5) (s : State) : Host.Outcome State Fault Refusal :=
  let xa := s.rx a
  .next (s.sendLease { ctx := s.cur, op := .lpar, xa := xa, xb := s.rx b, xd := d } (s.ownHandle xa || badHandle xa) false)

end Sys2Proof.Machine
end

