-- ==== Sys2Proof/Machine/Messages.lean ====
section
/-! DEFINITION. Messages: sending, arrival, the queue, receiving (07 R180-R184; 09 R203-R211, R378; 13 R262-R264,
R272-R274; 20 R361). -/

namespace Sys2Proof.Machine

/-! ## Groups as cells keep them (13 R261, R274) -/

def Cell.group (c : Cell) (g : Nat) : GCell := tget {} c.groups g

def State.modGCell (s : State) (cell g : Nat) (f : GCell → GCell) : State :=
  s.modCell cell fun c => { c with groups := tset c.groups g (f (c.group g)) }

/-- One more message sent, or received, of a colour. -/
def GCell.count (g : GCell) (colour : Bool) (n : BitVec 32) : GCell :=
  if colour then { g with cnt1 := g.cnt1 + n } else { g with cnt0 := g.cnt0 + n }

/-- A member message is received: accepted, removed on arrival, or refused (R274). -/
def State.received (s : State) (f : Flight) : State :=
  match f.group with
  | some g => if f.counted then s.modGCell f.cell g fun c => c.count f.colour (-1) else s
  | none => s

/-- Is a message from one cell to another, of a member of the group, a member message: a program message between member cells,
or an anti-message (R274)? -/
def State.memberMessage (s : State) (g cell dest : Nat) (m : Msg) : Bool :=
  m.kind = 1 || (m.kind = 0 && ((s.cell cell).group g).inMask && ((s.cell dest).group g).inMask)

/-! ## Sending (R182; 09 R209; 13 R262, R265) -/

/-- Program messages of a source cell in flight on the channel of a context (R209). -/
def State.inFlight (s : State) (cell x : Nat) : Nat :=
  (s.flights.filter fun p =>
    p.2.from_ = cell && p.2.msg.kind = 0 && p.2.cap.isNone && s.bound p.2.cell p.2.msg.cls = some x).length

/-- Does the egress accept a program message: does its channel carry fewer than 4? -/
def State.egressRoom (s : State) (cell dest cls : Nat) : Bool :=
  match s.bound dest cls with
  | some x => decide (s.inFlight cell x < 4)
  | none => true

/-- A message leaves the cell. Its frame carries the sender's group and colour (13 R264); a member message is counted, and
lowers `svt` and the red minimum (13 R263, R274). -/
def State.sendFlight (s : State) (x dest : Nat) (m : Msg) (grp : Option Nat) (cap : Option Capa) : State :=
  let c := s.ctx x
  let (n, s) := s.takeFresh
  let f : Flight :=
    { msg := m, cell := dest, from_ := c.cell, ctx := x, group := grp, cap := cap, by_ := c.issuer x, entry := c.entry
      colour := match grp with | some g => ((s.cell c.cell).group g).colour | none => false
      counted := match grp with | some g => s.memberMessage g c.cell dest m | none => false }
  let s := { s with flights := tset s.flights n f }
  match grp with
  | none => s
  | some g =>
    if f.counted then
      let s := s.modGCell c.cell g fun k => { k.count f.colour 1 with redMin := min k.redMin m.vrt }
      s.modCtx x fun c => { c with svt := BitVec.ofNat 48 (min c.svt.toNat m.vrt) }
    else s

/-- The message of a thread: header, dword 1 and the payload, with the cell's next sequence number. -/
def State.buildMsg (s : State) (x : Nat) (cls kind dest : Nat) (d1 d2 d3 : Word) : Msg × State :=
  let c := s.ctx x
  let (seq, s) := s.takeSeq c.cell
  ({ hdr := genHeader cls kind dest c.cell c.slot seq, d1 := d1, d2 := d2, d3 := d3 }, s)

/-- The checks of `snd` (R182; 14 R288 item 6). -/
def State.checkSnd (s : State) (w : Word) : Attempt Unit := do
  let c := s.self
  let cap := s.rc ((w >>> 5).truncate 3 : BitVec 3)
  s.require (s.ownsCell c.part (w.toNat / 2 ^ 8 % 512)) cXLATE 0
  if w.getLsbD 4 then
    s.capRead ((w >>> 5).truncate 3 : BitVec 3)
    s.require cap.tag cCAPTAG 0
    s.require (cap.perm.getLsbD permM && cap.perm.getLsbD permP) cCAPPERM 0
  else s.require (decide (w.toNat % 16 < 12) || c.pl ≠ 0) cPRIV 0

/-- Send a message (R182). -/
def execSnd (a : BitVec 5) (s : State) : Host.Outcome State Fault Refusal :=
  let w := s.rx a
  let x1 := s.rx (a + 1)
  let c := s.self
  let dest := w.toNat / 2 ^ 8 % 512
  let cls := w.toNat % 16
  let mc := w.getLsbD 4
  let cap := s.rc ((w >>> 5).truncate 3 : BitVec 3)
  let vrt := if c.opt then max (x1.toNat % 2 ^ 48) c.lvt.toNat else x1.toNat % 2 ^ 48
  let d1 : Word := if mc then x1 else BitVec.ofNat 64 vrt
  let d2 : Word := if mc then cap.bits.truncate 64 else s.rx (a + 2)
  let d3 : Word := if mc then (cap.bits >>> 64).truncate 64 else s.rx (a + 3)
  let kind := if mc then 5 else 0
  conclude do
    s.illInHandler
    s.checkSnd w
    match c.member with
    | some m =>
      if !mc && ((s.cell c.cell).group m.group).inMask && ((s.cell dest).group m.group).inMask then
        if !s.egressRoom c.cell dest cls then s.again
        if m.inEvent && !m.room 32 then s.noRoom
        let (msg, s) := s.buildMsg s.cur cls kind dest d1 d2 d3
        let s ← if m.inEvent then s.logEntry (.sent dest msg) else .ok s
        return (s.sendFlight s.cur dest msg (some m.group) none).finish
      else
        let msg : Msg := { hdr := BitVec.ofNat 64 (cls + kind * 16 + dest * 256), d1 := d1, d2 := d2, d3 := d3 }
        let s ← s.deferAction (.snd dest msg (if mc then some cap else none))
        return s.finish
    | none =>
      if !mc && !s.egressRoom c.cell dest cls then s.again
      let (msg, s) := s.buildMsg s.cur cls kind dest d1 d2 d3
      return (s.sendFlight s.cur dest msg none (if mc then some cap else none)).finish

/-! ## Refusal (09 R208) -/

/-- A refused message: kinds 0 and 1 are dropped with a class 14 report and an entry for the sender, or the entry alone for one
that has ended; the others go into the partition's fault queue. The entry has src 4, and names the sender's cell and slot and the
tag of its queue entry (log 93: DESIGN CHOICE, 17 R331 does not say which cell and slot such a refusal concerns). -/
def State.refuseMsg (s : State) (cell part : Nat) (o : Option Issuer) (m : Msg) : State :=
  if m.kind = 0 ∨ m.kind = 1 then
    match (o.map (·.ctx)).bind (tfind s.ctxs) with
    | some c =>
      let d0 := reportHead cLAPSED false 4 c.cell c.slot (dieOfCell c.cell) false c.tag
      (s.report c.part d0 0 m.hdr (dieOfCell c.cell)).classReport c 14 3 d0 0 m.hdr
    | none =>
      s.report ((o.map (·.part)).getD part) (reportHead cLAPSED false 4 m.scell m.sslot (dieOfCell cell) false ((o.map (·.tag)).getD 0)) 0
        m.hdr (dieOfCell cell)
  else s.reportQFull part cell m.cls m

/-- The partition that holds a cell. -/
def State.partOfCell (s : State) (cell : Nat) : Nat :=
  (s.leases.findSome? fun p =>
    match p.2.obj with
    | .ring q r => if r = ringOfCell cell ∧ p.2.occupied then some q else none
    | _ => none).getD 0

/-! ## Arrival (09 R206-R209; 13 R264, R273) -/

/-- The record of an event that is not undone, by its message. -/
def Member.eventOf (m : Member) (scell : Nat) (seq : BitVec 32) : Option Record :=
  m.records.find? fun r => r.event && !r.undone && r.key.scell = scell && r.key.seq = seq

/-- Does the wait end when the slot's rollback is set: a parked `wmsg` (07 R184), or a stall that restarts, whose instruction does
not come before the sequence (13 R269)? -/
def Wait.endsAtRollback : Wait → Bool
  | .msg _ => true
  | .again => true
  | .tile _ => true
  | _ => false

/-- Aim a slot's rollback at an event: the earlier of two targets is kept (R264). A wait that ends leaves the slot READY, a candidate
for its next issue like any other (01 R10, R11). -/
def State.aimRollback (s : State) (x : Nat) (k : Key) : State :=
  s.modCtx x fun c =>
    match c.member with
    | none => c
    | some m =>
      let t := match m.target with
        | some t => if t.below k then t else k
        | none => k
      let c := if c.wait.endsAtRollback then c.settle (s.cyc (dieOfCell c.cell)) else c
      { c with rbp := true, member := some { m with target := some t } }

/-- A straggler sets `tsw.rbp`: its key lies below the slot's last processed key (R264). -/
def State.straggler (s : State) (x : Nat) (k : Key) : State :=
  match (s.ctx x).member with
  | some m =>
    match m.lastKey with
    | some l =>
      if k.below l then
        match m.records.find? fun r => r.event && !r.undone && k.below r.key with
        | some r => s.aimRollback x r.key
        | none => s
      else s
    | none => s
  | none => s

/-- A message of classes 0-11 from outside the group is raised to the cell's published gvt (R264). -/
def State.raised (s : State) (f : Flight) (x : Nat) : Msg :=
  match (s.ctx x).member with
  | some m =>
    let g := ((s.cell f.cell).group m.group).gvt
    if f.msg.cls < 12 ∧ f.group ≠ some m.group ∧ f.msg.vrt < g then { f.msg with d1 := BitVec.ofNat 64 g } else f.msg
  | none => f.msg

/-- The message that a rollback of a context in its slot requeues next (13 R270). -/
def Ctx.requeues (c : Ctx) : Option Queued :=
  match c.member with
  | some m => if c.resident && m.rolling && m.undoAreas.isEmpty && m.unversion.isEmpty then m.requeue.head? else none
  | none => none

/-- Would a change of the cell's queue take the entry that a requeue of the cell goes before it to (13 R270)? -/
def State.takesRequeue (s : State) (cell : Nat) (k : Cell) : Bool :=
  s.ctxs.any fun p =>
    p.2.cell = cell && match p.2.requeues with
      | some q => ((s.cell cell).room q.cls).isSome && (k.room q.cls).isNone
      | none => false

/-- The cell with a message of a class in its queue: in an entry of its own, and leaving a waiting requeue the one it needs
(09 R207; 13 R270). -/
def State.entered (s : State) (cell : Nat) (q : Queued) : Option Cell :=
  let k := s.cell cell
  match k.room q.cls with
  | none => none
  | some r =>
    let t := { k with queue := k.queue ++ [{ q with reserved := r }] }
    if s.takesRequeue cell t then none else some t

/-- Does a held anti-message match? -/
def Cell.antiFor (c : Cell) (m : Msg) : Option Queued :=
  c.queue.find? fun q => q.msg.kind = 1 && q.msg.scell = m.scell && q.msg.seq = m.seq

/-- Remove the first queued message equal to one. -/
def Cell.unqueue (c : Cell) (q : Queued) : Cell := { c with queue := c.queue.erase q }

/-- Hold a flight at the cell. -/
def State.holdFlight (s : State) (n : Nat) (f : Flight) : State :=
  if f.held then s
  else
    let (k, s) := s.takeFresh
    { s with flights := tset s.flights n { f with held := true, arrived := k } }

/-- Accept a program message whose class is bound to a resident context: matched, queued, or held for want of room. -/
def State.acceptMsg (s : State) (n : Nat) (f : Flight) (x : Nat) : State :=
  let gone : State := { s with flights := tdel s.flights n }
  let m := s.raised f x
  match (s.cell f.cell).antiFor m with
  | some q => (gone.modCell f.cell fun c => c.unqueue q).received f
  | none =>
    match s.entered f.cell { msg := m, cls := m.cls, group := f.group, sender := some f.by_ } with
    | none => s.holdFlight n f
    | some k =>
      let s := (gone.modCell f.cell fun _ => k).received f
      let s := if m.cls < 12 then s.straggler x m.key else s
      s.wakeMsg x m.cls

/-- Is a message stopped by one held for the same context that reached the cell before it (09 R209)? Without a number of arrival:
by any. -/
def State.stopped (s : State) (n : Nat) (f : Flight) (arrived : Option Nat) : Bool :=
  s.flights.any fun p =>
    p.1 ≠ n && s.stops p.2 f && match arrived with | some a => decide (p.2.arrived < a) | none => true

/-- A program message reaches its cell (09 R206). It waits behind those held for its context; one whose anti-message is held there
is removed on arrival (13 R273). -/
def execMessageArrival (msg : Nat) (s : State) : Host.Outcome State Fault Refusal :=
  match tfind s.flights msg with
  | none => .next s
  | some f =>
    if f.cap.isSome ∨ f.msg.kind ≠ 0 ∨ f.held ∨ s.overtakes msg f then .next s
    else
      match s.bound f.cell f.msg.cls with
      | none =>
        .next (({ s with flights := tdel s.flights msg }.received f).refuseMsg f.cell (s.partOfCell f.cell) (some f.by_) f.msg)
      | some x =>
        if !s.residentCtx x || (s.stopped msg f none && ((s.cell f.cell).antiFor f.msg).isNone) then .next (s.holdFlight msg f)
        else .next (s.acceptMsg msg f x)

/-! ### Anti-messages (13 R272, R273) -/

/-- Does a rollback of the cell still have to requeue the twin (R269)? -/
def State.twinPending (s : State) (cell : Nat) (m : Msg) : Bool :=
  s.ctxs.any fun p =>
    p.2.cell = cell && match p.2.member with
      | some k => k.requeue.any fun q => q.msg.isTwin m.scell m.seq
      | none => false

/-- The member slot of the group, in the cell, that has processed the twin. -/
def State.processedBy (s : State) (f : Flight) : Option (Nat × Record) :=
  s.ctxs.findSome? fun p =>
    if p.2.cell = f.cell then
      match p.2.member with
      | some k => if some k.group = f.group then (k.eventOf f.msg.scell f.msg.seq).map fun r => (p.1, r) else none
      | none => none
    else none

/-- An anti-message without its twin is held in a class 13 entry, or refused where the class is unbound (R273). -/
def State.holdAnti (s : State) (n : Nat) (f : Flight) : State :=
  let gone : State := ({ s with flights := tdel s.flights n }).received f
  match s.bound f.cell 13 with
  | none => gone.refuseMsg f.cell (s.partOfCell f.cell) (some f.by_) f.msg
  | some _ =>
    match s.entered f.cell { msg := f.msg, cls := 13, group := f.group, sender := some f.by_ } with
    | none => s.holdFlight n f
    | some k => gone.modCell f.cell fun _ => k

/-- Handle an anti-message at its cell (R273): its twin is queued; or a member slot of the group has processed it; or a slot
outside the group has; or there is no twin. -/
def State.antiAt (s : State) (n : Nat) (f : Flight) : State :=
  let m := f.msg
  let gone : State := ({ s with flights := tdel s.flights n }).received f
  match (s.cell f.cell).queue.find? fun q => q.msg.isTwin m.scell m.seq with
  | some q => gone.modCell f.cell fun c => c.unqueue q
  | none =>
    match s.processedBy f with
    | some (x, r) =>
      (gone.aimRollback x r.key).modCtx x fun c =>
        { c with member := c.member.map fun k => { k with antiHit := r.key :: k.antiHit } }
    | none =>
      if (s.cell f.cell).taken.contains (m.scell, m.seq) then
        (gone.modCell f.cell fun c => { c with taken := c.taken.filter fun t => t ≠ (m.scell, m.seq) }).report (s.partOfCell f.cell)
          (reportHead cSTALE false 0 f.cell 0 (dieOfCell f.cell) false 0) 0 m.hdr (dieOfCell f.cell)
      else s.holdAnti n f

/-- An anti-message reaches its cell. It waits while class 13 is bound to a context that is not resident (09 R209), and
while a rollback still has to requeue its twin (R269). -/
def State.antiWaits (s : State) (f : Flight) : Bool :=
  s.twinPending f.cell f.msg ||
    match s.bound f.cell 13 with
    | some x => !s.residentCtx x
    | none => false

def execAntiMessageArrival (msg : Nat) (s : State) : Host.Outcome State Fault Refusal :=
  match tfind s.flights msg with
  | none => .next s
  | some f =>
    if f.cap.isSome ∨ f.msg.kind ≠ 1 ∨ f.held ∨ s.overtakes msg f then .next s
    else if s.antiWaits f || s.stopped msg f none then .next (s.holdFlight msg f)
    else .next (s.antiAt msg f)

/-- A held message is accepted when an entry frees or its context is restored, each context's in the order in which they reached the
cell, or is refused when its class has become unbound (09 R207-R209). A program message whose class has moved to another slot's
context goes with the binding (log 96: DESIGN CHOICE, R205 speaks of queued messages alone). -/
def execFabricHeldMessageAccept (msg : Nat) (s : State) : Host.Outcome State Fault Refusal :=
  match tfind s.flights msg with
  | none => .next s
  | some f =>
    if !f.held ∨ f.cap.isSome then .next s
    else if f.msg.kind = 1 then (if s.antiWaits f || s.stopped msg f (some f.arrived) then .next s else .next (s.antiAt msg f))
    else
      match s.bound f.cell f.msg.cls with
      | none =>
        .next (({ s with flights := tdel s.flights msg }.received f).refuseMsg f.cell (s.partOfCell f.cell) (some f.by_) f.msg)
      | some x =>
        if s.residentCtx x && (!s.stopped msg f (some f.arrived) || ((s.cell f.cell).antiFor f.msg).isSome) then .next (s.acceptMsg msg f x)
        else .next s

/-! ## Receiving (R183, R184) -/

/-- The selected classes that are bound to the acting context: a mask of 0 selects all; in optimistic mode only 0-11. -/
def State.selected (s : State) (mask : Word) : List Nat :=
  (List.range 16).filter fun k =>
    s.bound s.self.cell k = some s.cur && (mask.toNat % 2 ^ 16 = 0 || mask.getLsbD k) && (!s.self.opt || decide (k < 12))

/-- The message that the instruction chooses: first in the queue, or lowest in key order in optimistic mode. Held
anti-messages are never chosen. -/
def State.choose (s : State) (sel : List Nat) : Option Queued :=
  let l := (s.cell s.self.cell).queue.filter fun q => sel.contains q.cls && !(q.msg.kind = 1)
  if s.self.opt then
    l.foldl (fun (b : Option Queued) q => match b with
      | some c => if q.msg.key.below c.msg.key then some q else b
      | none => some q) none
  else l.head?

/-- Write a message into four registers. -/
def State.wx4 (s : State) (d : BitVec 5) (m : Msg) : State :=
  (((s.wx d m.hdr).wx (d + 1) m.d1).wx (d + 2) m.d2).wx (d + 3) m.d3

/-- A poisoned entry: the trap's report holds the header, or 0 where the header's doubleword is poisoned (20 R361). -/
def State.poisonEntry (s : State) (q : Queued) : State :=
  let c := s.self
  let info : Word := if q.poison.contains 0 then 0 else q.msg.hdr
  let s := if (c.trapRegs (trapLevel c.pl)).tvec ≠ 0 then s.reportCtx s.cur cPOISON true 0 0 info else s
  s.takeTrap s.cur
    { cause := cPOISON.zeroExtend 13, code := cPOISON, epc := c.pc, word := s.word, addr := 0, info := info }

/-- The number of earlier events of the slot with the same VRT (R184). -/
def Member.ordinal (m : Member) (vrt : Nat) : Nat :=
  (m.records.filter fun r => r.event && !r.undone && r.key.vrt = vrt).length

/-- The issue of a `rcv` that delivers belongs to its own event, not to the one before (13 R271). -/
def uncountLast : List Record → List Record
  | [] => []
  | r :: t => if r.event && !r.undone then { r with units := r.units - 1 } :: t else r :: uncountLast t

/-- A message that a member sent and that a slot outside its group takes: its anti-message finds it so (13 R273). -/
def State.noteTaken (s : State) (q : Queued) : State :=
  match q.group with
  | some g =>
    if s.self.member.any fun m => m.group = g then s
    else s.modCell s.self.cell fun k => { k with taken := k.taken ++ [(q.msg.scell, q.msg.seq)] }
  | none => s

/-- `rcv` in optimistic mode: the record, the removal, `lvt`, the vector registers (R184; 13 R266). -/
def State.rcvOpt (s : State) (m : Member) (q : Queued) : Attempt State := do
  let c := s.self
  if !m.room 384 then s.noRoom
  let ord := m.ordinal q.msg.vrt
  let m := { m with records := (uncountLast m.records.reverse).reverse }
  s.require (decide (ord < 65536)) cVFULL 0
  let r : Record :=
    { event := true, stamp := stampOf q.msg.vrt ord, pc := c.pc, xs := c.x, ps := c.p, olvt := c.lvt, key := q.msg.key
      q := q, ord := ord, units := 1 }
  let s := s.addRecord { m with inEvent := true, lastKey := some q.msg.key } r
  return (s.modCell c.cell fun k => k.unqueue q).mod fun c => { c with lvt := BitVec.ofNat 48 q.msg.vrt, v := [], badRegs := c.badRegs.filter fun r => !decide (128 ≤ r ∧ r < 256) }

/-- Receive a message (R183, R184). A `rcv` is an acquire (11 R231). -/
def execRcv (d b : BitVec 5) (s : State) : Host.Outcome State Fault Refusal :=
  conclude do
    s.illInHandler
    match s.choose (s.selected (s.rx b)) with
    | none =>
      let s := s.mod fun c => { c with member := c.member.map fun m => { m with inEvent := false } }
      return (s.wx d (status 1)).finish
    | some q =>
      if !q.poison.isEmpty then return (s.modCell s.self.cell fun k => k.unqueue q).poisonEntry q
      let s ← match s.self.member with
        | some m => s.rcvOpt m q
        | none => .ok (s.modCell s.self.cell fun k => k.unqueue q)
      return (((s.noteTaken q).acquire s.cur).wx4 d q.msg).finish

/-- Look at the message that `rcv` would take (R183, R184). -/
def execPkmsg (d b : BitVec 5) (s : State) : Host.Outcome State Fault Refusal :=
  conclude do
    s.illInHandler
    match s.choose (s.selected (s.rx b)) with
    | none => return (s.wx d (status 1)).finish
    | some q =>
      if !q.poison.isEmpty then return s.poisonEntry q
      return (s.wx4 d q.msg).finish

/-- Wait for a message (R183, R184). An anti-message that waits in an entry of class 13 does not make the class non-empty, and wakes
no slot (log 92: DESIGN CHOICE, 09 R206 excludes it from `rcv` and `pkmsg`). -/
def execWmsg (d a : BitVec 5) (s : State) : Host.Outcome State Fault Refusal :=
  conclude do
    s.illInHandler
    let sel := s.selected (s.rx a)
    let mask (l : List Nat) : Word := BitVec.ofNat 64 ((l.map fun k => 2 ^ k).sum)
    let ready := sel.filter fun k => (s.cell s.self.cell).queue.any fun q => q.cls = k && !(q.msg.kind = 1)
    if sel.isEmpty || !ready.isEmpty then return (s.wx d (mask ready)).finish
    let s := s.mod fun c => { c with member := c.member.map fun m => { m with inEvent := false } }
    return s.park (.msg (mask sel))

end Sys2Proof.Machine
end

