-- ==== Sys2Proof/Machine/Optimistic.lean ====
section
/-! DEFINITION. Optimistic execution: joining and leaving a group, checkpoints, rollback, GVT rounds, publication and the
lapse of optimistic state (07 R185-R189; 13 R261-R278, R380). -/

namespace Sys2Proof.Machine

/-! ## Members of a group (R261) -/

/-- The member contexts of a group. -/
def State.membersOf (s : State) (g : Nat) : List (Nat × Ctx) :=
  s.ctxs.filter fun p => match p.2.member with | some m => m.group = g | none => false

/-- Those that belong to a cell. -/
def State.membersIn (s : State) (g cell : Nat) : List (Nat × Ctx) := (s.membersOf g).filter fun p => p.2.cell = cell

/-- The member cells of a group. -/
def State.maskOf (s : State) (g : Nat) : List Nat :=
  (s.cells.filter fun p => (p.2.group g).inMask).map (·.1)

/-- A context leaves its group; its cell leaves the mask with its last member (R261). -/
def State.leaveGroup (s : State) (x : Nat) : State :=
  match (s.ctx x).member with
  | none => s
  | some m =>
    let cell := (s.ctx x).cell
    let s := s.modCtx x fun c => { c with member := none, opt := false, rbp := false }
    if (s.membersIn m.group cell).isEmpty then s.modGCell cell m.group fun g => { g with inMask := false } else s

/-! ## opt.on (07 R186) -/

/-- The group that a descriptor's handle names, or a status. A handle of another kind answers STALE, as one whose lease is gone
does (log 84: DESIGN CHOICE, R186 lists it under neither status). -/
def State.groupFor (s : State) (c : Ctx) (b : List Byte) : Except Nat Nat :=
  let h := dwordAt b 0
  let pbase := leNat ((b.drop 8).take 4)
  let gran := leNat ((b.drop 12).take 2)
  let rbh := leNat ((b.drop 16).take 8)
  match s.leaseOf h (dieOfCell c.cell) with
  | none => .error 2
  | some (_, l) =>
    match l.obj with
    | .group g =>
      if badHandle h || !l.alive then .error 2
      else if leNat ((b.drop 14).take 2) ≠ 0 ∨ leNat (b.drop 24) ≠ 0 ∨ pbase % 4096 ≠ 0 ∨ pbase < Config.viewBase ∨ gran = 0 ∨
          64 < gran ∨ rbh % 4 ≠ 0 ∨ Config.viewBase + (s.cell c.cell).spadSize < pbase + gran * 4096 ∨ l.pop ≠ c.entry then .error 3
      else if !s.holdsRange c.entry c.cell (pbase - Config.viewBase) (gran * 4096) then .error 3
      else if 1024 ≤ (s.membersOf g).length then .error 4
      else .ok g
    | _ => .error 2

/-- The value last published at a cell for a group (R263). A cell that enters the mask, with no publication to it under way, starts from
the group's own (R261). -/
def State.publishedAt (s : State) (g cell : Nat) : Nat :=
  let k := (s.cell cell).group g
  let grp := tget {} s.groups g
  if k.inMask || k.pub.isSome || grp.pubTo.contains cell then k.gvt else grp.gvt

/-- Join the group: the first member of a cell puts it into the mask with the colour of the present round; the first
member of the group starts a round (R261, R275). `lvt` starts from the group's gvt (07 R186), `gvt` from the value last published at
the cell (R263). -/
def State.joinGroup (s : State) (g : Nat) (b : List Byte) : State :=
  let c := s.self
  let grp := tget {} s.groups g
  let gvt := s.publishedAt g c.cell
  let first := (s.membersOf g).isEmpty
  let m : Member :=
    { group := g, pbase := leNat ((b.drop 8).take 4) - Config.viewBase, size := leNat ((b.drop 12).take 2) * 4096, rbh := dwordAt b 2 }
  let s := s.mod fun c =>
    { c with
      member := some m, opt := true, lvt := BitVec.ofNat 48 grp.gvt, gvt := BitVec.ofNat 48 gvt
      svt := BitVec.ofNat 48 Config.vtMax }
  let s := s.modGCell c.cell g fun k =>
    if k.inMask then k
    else { k with inMask := true, colour := decide (grp.round % 2 = 1), redMin := Config.vtMax, gvt := gvt }
  s.modGroup g fun q =>
    if first then { q with phase := match q.phase with | .idle => .wait (s.cyc q.die) | .wait _ => .wait (s.cyc q.die) | p => p } else q

/-- Enter optimistic mode (07 R186). -/
def execOptOn (d a : BitVec 5) (s : State) : Host.Outcome State Fault Refusal :=
  let ea := s.rx a
  if s.self.opt then s.result d (status 1)
  else conclude do
    let c := s.self
    s.require (inView0 ea) cXLATE ea
    s.require (decide (ea.toNat % 32 = 0)) cALIGN ea
    s.checkHome ea 32 false
    if c.pst0 ≠ 0 || c.pst1 ≠ 0 || c.pst2 ≠ 0 || s.engineWork s.cur then s.again
    s.localWaits ea 32 false
    let spad := (s.cell c.cell).spad
    s.require (!spad.bad (rawOff ea) 32) cPOISON ea
    let b := spad.read (rawOff ea) 32
    match s.groupFor c b with
    | .error k => return (s.wx d (status k)).finish
    | .ok g => return ((s.joinGroup g b).wx d 0).finish

/-! ## opt.off (07 R189) -/

/-- Has GVT passed every stamp of the slot, those of its versions among them, with every deferred action performed? -/
def State.allPassed (s : State) (m : Member) : Bool :=
  m.records.isEmpty && ((s.cell s.self.cell).group m.group).busy.isNone &&
    !(s.versions.any fun p => p.2.any fun v => v.writer = some s.cur && !stampBelow v.num s.self.gvt.toNat)

/-- Leave optimistic mode (07 R189). -/
def execOptOff (d : BitVec 5) (s : State) : Host.Outcome State Fault Refusal :=
  conclude do
    s.illInHandler
    match s.self.member with
    | none => return (s.wx d 0).finish
    | some m =>
      if s.allPassed m then return ((s.leaveGroup s.cur).wx d 0).finish
      let s := s.mod fun c => { c with member := some { m with inEvent := false } }
      s.again

/-! ## ckpt and rbret (07 R187, R188) -/

/-- The part of a bank in a range, at the same offsets. -/
def Bank.part (b : Bank) (a n : Nat) : Bank :=
  { bytes := b.bytes.filter fun p => decide (a ≤ p.1 ∧ p.1 < a + n)
    full := b.full.filter fun d => decide (a ≤ 8 * d ∧ 8 * d < a + n)
    tags := b.tags.filter fun g => decide (a ≤ 16 * g ∧ 16 * g < a + n)
    poison := b.poison.filter fun d => decide (a ≤ 8 * d ∧ 8 * d < a + n) }

/-- Save bytes in the current event's record (07 R187). -/
def execCkpt (d a : BitVec 5) (n : BitVec 6) (s : State) : Host.Outcome State Fault Refusal :=
  let ea := s.rx a
  let len := (n.toNat + 1) * 64
  conclude do
    s.illInHandler
    match s.self.member with
    | none => s.raise cILL 0
    | some m =>
      let c := s.self
      if !m.inEvent then return (s.wx d (status 2)).finish
      s.require (decide (ea.toNat % 64 = 0)) cALIGN ea
      s.require (inView0 ea) cXLATE ea
      s.checkHome ea len false
      s.localWaits ea len false
      let used := (m.records.getLast?.map Record.ckptBytes).getD 0
      if 4096 < used + len then return (s.wx d (status 1)).finish
      let s ← s.logEntry (.ckpt (rawOff ea) ((s.cell c.cell).spad.part (rawOff ea) len) len)
      return (s.wx d 0).finish

/-- The position of the first undone event in a book. -/
def Member.firstUndone (m : Member) : Option Nat := m.records.findIdx? fun r => r.event && r.undone

/-- Leave the rollback handler: the registers of the first undone event's record, the vector registers zero, the records
of the undone events freed (07 R188). -/
def execRbret (s : State) : Host.Outcome State Fault Refusal :=
  conclude do
    match s.self.member with
    | none => s.raise cILL 0
    | some m =>
      s.require m.handler cILL 0
      match m.firstUndone with
      | none => s.raise cILL 0
      | some i =>
        match m.records[i]? with
        | none => s.raise cILL 0
        | some r =>
          let m' : Member := { m with handler := false, records := m.records.take i, tail := r.pos, antiHit := [] }
          return (s.mod fun c => { c with x := r.xs, p := r.ps, v := [], badRegs := c.badRegs.filter fun r => decide ((64 ≤ r ∧ r < 128) ∨ 256 ≤ r), member := some m' }).finishAt r.pc

/-! ## Versions (R268) -/

/-- Keep the versions that satisfy a test. -/
def State.filterVersions (s : State) (f : Version → Bool) : State :=
  { s with versions := (s.versions.map fun (p : Nat × List Version) => (p.1, p.2.filter f)).filter fun p => !p.2.isEmpty }

/-- Is it a version of the slot's from a stamp on? -/
def Version.undoneBy (v : Version) (x : Nat) (from_ : Word) : Bool := v.writer = some x && decide (from_.toNat ≤ v.num.toNat)

/-- The words that hold versions of a slot from a stamp on. -/
def State.versionedBy (s : State) (x : Nat) (from_ : Word) : List Nat :=
  (s.versions.filter fun p => p.2.any fun v => v.undoneBy x from_).map (·.1)

/-- Discard a slot's versions of one word from a stamp on. -/
def State.discardVersions (s : State) (x w : Nat) (from_ : Word) : State :=
  { s with versions := (s.versions.map fun (p : Nat × List Version) =>
      (p.1, if p.1 = w then p.2.filter fun v => !v.undoneBy x from_ else p.2)).filter fun p => !p.2.isEmpty }

/-! ## Rollback (R269-R271) -/

/-- Write a saved area back as the bytes stood. -/
def State.restoreArea (s : State) (cell : Nat) (e : BookEntry) : State :=
  match e with
  | .ckpt off b n =>
    s.modCell cell fun c =>
      let w := c.spad.write off (mgetBytes b.bytes off n)
      { c with spad := { w with poison := b.poison.foldl nins w.poison } }
  | _ => s

/-- The anti-message of a logged send (R272). -/
def antiOf (m : Msg) : Msg :=
  { hdr := BitVec.ofNat 64 (13 + 16 + m.dest * 2 ^ 8 + m.scell * 2 ^ 17 + m.sslot * 2 ^ 26 + m.seq.toNat * 2 ^ 32)
    d1 := BitVec.ofNat 64 m.vrt, d2 := BitVec.ofNat 64 m.cls, d3 := 0 }

/-- Step 6: registers, the handler's figures, `lvt`, the last processed key (R269). -/
def State.enterHandler (s : State) (x : Nat) : State :=
  match (s.ctx x).member with
  | none => s
  | some m =>
    match m.firstUndone.bind fun i => (m.records[i]?).map fun r => (i, r) with
    | none => s
    | some (i, e) =>
      let before := ((m.records.take i).filter (·.event)).getLast?
      let m' : Member :=
        { m with
          handler := true, handlerVrt := e.key.vrt, inEvent := false, rolling := false
          lastKey := match before with | some r => some r.key | none => m.lapsedKey }
      s.modCtx x fun c =>
        let c : Ctx := { c with x := e.xs, p := e.ps, badRegs := c.badRegs.filter (64 ≤ ·) }
        let c := ((c.setX 10 (BitVec.ofNat 64 e.key.vrt)).setX 11 (BitVec.ofNat 64 m.nEvents)).setX 12 (BitVec.ofNat 64 m.nAnti)
        { c with lvt := e.olvt, rbp := m.target.isSome, pc := m.rbh, member := some m' }

/-- One item of the sequence: an area, a word's versions, a requeue or an anti-message; with none left, step 6. A requeue
without a free entry leaves everything as it is: the sequence pauses at it (R270). A requeued message wakes a slot that waits for its
class in a `wmsg`, like any that makes the class non-empty (09 R206, R211). -/
def State.rollItem (s : State) (x : Nat) : State :=
  let c := s.ctx x
  match c.member with
  | none => s
  | some m =>
    let put (s : State) (m : Member) : State := s.modCtx x fun c => { c with member := some m }
    match m.undoAreas, m.unversion, m.requeue, m.pendAnti with
    | e :: t, _, _, _ => put (s.restoreArea c.cell e) { m with undoAreas := t }
    | [], w :: t, _, _ => put (s.discardVersions x w m.undoFrom) { m with unversion := t }
    | [], [], q :: t, _ =>
      match (s.cell c.cell).room q.cls with
      | some r =>
        let s := put (s.modCell c.cell fun k => { k with queue := k.queue ++ [{ q with reserved := r }] }) { m with requeue := t }
        match s.bound c.cell q.cls with
        | some y => s.wakeMsg y q.cls
        | none => s
      | none => s
    | [], [], [], p :: t => put (s.sendFlight x p.1 p.2 (some m.group) none) { m with pendAnti := t }
    | [], [], [], [] => s.enterHandler x

/-- The sequence begins: what steps 1, 2, 4 and 5 have to do, and step 3 (R269). It is charged a unit for each event of U, those
that an earlier run undid among them, and for each anti-message (R271). -/
def State.startRollback (s : State) (x : Nat) (m : Member) (t : Key) : State :=
  let c := s.ctx x
  let aimed := m.records.findIdx? fun r => r.event && r.key = t
  let i := match aimed, m.firstUndone with
    | some i, some j => min i j
    | some i, none => i
    | none, some j => j
    | none, none => m.records.length
  let u := m.records.drop i
  let fresh := u.filter fun r => r.event && !r.undone
  let areas := (fresh.reverse.flatMap fun r => r.entries.reverse).filter fun e => match e with | .ckpt .. => true | _ => false
  let stamp := match u.head? with
    | some e => e.stamp
    | none => BitVec.allOnes 64
  let back := (fresh.filter fun r => !m.antiHit.contains r.key).map (·.q)
  let antis := fresh.flatMap fun r => r.entries.filterMap fun e =>
    match e with
    | .sent dest msg => some (dest, antiOf msg)
    | _ => none
  let u' := (u.filter (·.event)).map fun r => { r with undone := true }
  let units := (fresh.map (·.units)).sum
  let own := u'.length + antis.length
  let s := s.chargeRolled c.cell c.entry own (units + own)
  s.modCtx x fun c =>
    { c with
      wait := .none, charged := false, vsctDone := []
      sst := if c.sst = .stalled ∨ c.sst = .parked then .ready else c.sst
      member := some { m with
        records := m.records.take i ++ u', target := none, rolling := true, undoAreas := areas, undoFrom := stamp
        unversion := if u.isEmpty then [] else s.versionedBy x stamp, requeue := back, pendAnti := antis
        nEvents := u'.length, nAnti := antis.length } }

/-- May the slot take a trap or a sequence in place of an issue: it is not being vacated, and nothing is in flight but a wait
that starts again (01 R18; 16 R320, R324)? -/
def Ctx.takesTurn (c : Ctx) : Bool :=
  c.resident && c.vacating.isNone && c.sst != .halted &&
    (!c.charged || match c.wait with | .again => true | .tile _ => true | _ => false)

/-- A slot with `tsw.rbp` runs the rollback sequence in place of an issue, one item at a time (R269, R270). -/
def execRollbackSequence (ctx : Nat) (s : State) : Host.Outcome State Fault Refusal :=
  match tfind s.ctxs ctx with
  | none => .next s
  | some c =>
    match c.member with
    | none => .next s
    | some m =>
      if !c.rbp || !c.takesTurn then .next s
      else
        let s := s.noteTurn ctx
        if m.rolling then .next (s.rollItem ctx)
        else
          match m.target with
          | none => .next s
          | some t => .next (s.startRollback ctx m t)

/-- A rollback paused at a requeue goes on when an entry frees (R270). -/
def execRollbackRequeueResume (ctx : Nat) (s : State) : Host.Outcome State Fault Refusal :=
  match (s.ctx ctx).member with
  | none => .next s
  | some m =>
    if !m.rolling || !m.undoAreas.isEmpty || !m.unversion.isEmpty || m.requeue.isEmpty || !(s.ctx ctx).takesTurn then .next s
    else .next (s.rollItem ctx)

/-! ## GVT rounds (R274, R275) -/

/-- What a member slot contributes (R262). -/
def Ctx.contribution (c : Ctx) : Nat :=
  match c.member with
  | none => Config.vtMax
  | some m =>
    let h := if m.handler then m.handlerVrt else Config.vtMax
    if c.rbp then
      let t := match m.target with
        | some k => k.vrt
        | none => match m.firstUndone.bind fun i => m.records[i]? with | some r => r.key.vrt | none => Config.vtMax
      min h (min c.lvt.toNat t)
    else if m.inEvent then min h c.lvt.toNat else h

/-- A cell's snapshot for the old colour. -/
def State.snapshot (s : State) (g cell round : Nat) : GAnswer :=
  let k := s.cell cell
  let gc := k.group g
  let mine := s.membersIn g cell
  let l := mine.foldl (fun m p => min m p.2.contribution) Config.vtMax
  let l := k.queue.foldl
    (fun m q =>
      let member := decide (q.cls < 12) && match s.bound cell q.cls with | some x => mine.any fun p => p.1 = x | none => false
      if member || (q.msg.kind = 1 && q.group = some g) then min m q.msg.vrt else m) l
  let l := mine.foldl
    (fun m p => match p.2.member with | some b => b.requeue.foldl (fun m q => min m q.msg.vrt) m | none => m) l
  { cell := cell, d := if round % 2 = 1 then gc.cnt0 else gc.cnt1, l := l, m := gc.redMin }

/-- Is the group's lease held? -/
def State.groupAlive (s : State) (q : Group) : Bool :=
  match tfind s.leases q.lease with
  | some l => l.alive
  | none => false

/-- A round begins: CUT to every member cell (R275 steps 1, 6). -/
def execGvtRoundStart (grp : Nat) (s : State) : Host.Outcome State Fault Refusal :=
  match tfind s.groups grp with
  | none => .next s
  | some q =>
    let due := match q.phase with
      | .idle => true
      | .wait t => decide (t ≤ s.cyc q.die)
      | _ => false
    if due && s.groupAlive q && !(s.membersOf grp).isEmpty then
      .next (s.modGroup grp fun q => { q with round := q.round + 1, phase := .cutting, cut := s.maskOf grp, answers := [] })
    else .next s

/-- A member cell receives CUT (R275 step 2; `svt` R263). -/
def execGvtCut (grp cell : Nat) (s : State) : Host.Outcome State Fault Refusal :=
  match tfind s.groups grp with
  | none => .next s
  | some q =>
    if !q.cut.contains cell then .next s
    else
      let s := s.modGroup grp fun q => { q with cut := q.cut.filter (· ≠ cell) }
      let s := s.modGCell cell grp fun g => { g with colour := decide (q.round % 2 = 1), redMin := Config.vtMax }
      .next ((s.membersIn grp cell).foldl (fun s p => s.modCtx p.1 fun c => { c with svt := BitVec.ofNat 48 Config.vtMax }) s)

/-- A member cell answers REPORT with one snapshot (R275 step 3). -/
def execGvtReport (grp cell : Nat) (s : State) : Host.Outcome State Fault Refusal :=
  match tfind s.groups grp with
  | none => .next s
  | some q =>
    let open_ := q.phase = .cutting ∨ q.phase = .reporting
    if open_ ∧ !q.cut.contains cell ∧ ((s.cell cell).group grp).inMask ∧ !(q.answers.any fun a => a.cell = cell) then
      .next (s.modGroup grp fun q => { q with phase := .reporting, answers := q.answers ++ [s.snapshot grp cell q.round] })
    else .next s

/-- Has every member cell been cut and answered? -/
def State.allAnswered (s : State) (grp : Nat) (q : Group) : Bool :=
  (q.phase == .reporting || q.phase == .cutting) &&
    (q.cut.all fun c => !((s.cell c).group grp).inMask) &&
    (s.maskOf grp).all fun c => q.answers.any fun a => a.cell = c

/-- The sum of the old colour's counts. The counts of a cell whose last member has left stay in it (log 11). -/
def State.oldSum (s : State) (grp : Nat) (q : Group) : BitVec 32 :=
  let gone := (s.cells.filter fun p => (tfind p.2.groups grp).isSome && !(q.answers.any fun a => a.cell = p.1)).map fun p =>
    let g := p.2.group grp
    if q.round % 2 = 1 then g.cnt0 else g.cnt1
  ((q.answers.map (·.d)) ++ gone).foldl (· + ·) 0

/-- The combined report reaches the controller (R275 steps 4-6). -/
def execGvtReportResult (grp : Nat) (s : State) : Host.Outcome State Fault Refusal :=
  match tfind s.groups grp with
  | none => .next s
  | some q =>
    if !s.allAnswered grp q then .next s
    else if s.oldSum grp q ≠ 0 then
      .next (s.modGroup grp fun q => { q with phase := .retry (s.cyc q.die + 16 * 32), answers := [] })
    else
      let g := q.answers.foldl (fun m a => min m (min a.l a.m)) Config.vtMax
      let next : GPhase := if (s.membersOf grp).isEmpty then .idle else .wait (s.cyc q.die + 64 * 32)
      .next (s.modGroup grp fun q =>
        if q.gvt < g then { q with gvt := g, pubTo := s.maskOf grp, phase := next, answers := [] }
        else { q with phase := next, answers := [] })

/-- Another REPORT, 16 rt later (R275 step 4). -/
def execGvtReportRetry (grp : Nat) (s : State) : Host.Outcome State Fault Refusal :=
  match tfind s.groups grp with
  | none => .next s
  | some q =>
    match q.phase with
    | .retry t => if t ≤ s.cyc q.die then .next (s.modGroup grp fun q => { q with phase := .reporting }) else .next s
    | _ => .next s

/-! ## Publication (R276, R277) -/

/-- A deferred entry that waits to be performed: stamp, slot, context, positions of record and entry. -/
structure Due where
  stamp : Nat
  slot  : Nat
  ctx   : Nat
  rec_  : Nat
  ent   : Nat
  act   : Deferred

/-- Does `a` come before `b` (R277)? Entries of one slot come in program order. -/
def Due.before (a b : Due) : Bool :=
  decide (a.stamp < b.stamp) || (a.stamp == b.stamp && (decide (a.slot < b.slot) ||
    (a.slot == b.slot && (decide (a.rec_ < b.rec_) || (a.rec_ == b.rec_ && decide (a.ent < b.ent))))))

/-- The deferred entries of a member below a virtual time. -/
def dueOf (x : Nat) (c : Ctx) (m : Member) (g : Nat) : List Due :=
  m.records.zipIdx.flatMap fun r =>
    if !r.1.undone && stampBelow r.1.stamp g then
      r.1.entries.zipIdx.filterMap fun e =>
        match e.1 with
        | .deferred d => some { stamp := r.1.stamp.toNat, slot := c.slot, ctx := x, rec_ := r.2, ent := e.2, act := d }
        | _ => none
    else []

/-- The next deferred entry of a cell's members of a group. -/
def State.nextDue (s : State) (grp cell g : Nat) : Option Due :=
  ((s.membersIn grp cell).flatMap fun p =>
    match p.2.member with
    | some m => dueOf p.1 p.2 m g
    | none => []).foldl
    (fun (b : Option Due) d => match b with
      | some e => if d.before e then some d else b
      | none => some d) none

/-- An entry has been performed: its room stays in use until its record lapses. -/
def State.markDone (s : State) (d : Due) : State :=
  s.modCtx d.ctx fun c =>
    { c with member := c.member.map fun m =>
        { m with records := m.records.zipIdx.map fun r =>
            if r.2 = d.rec_ then
              { r.1 with entries := r.1.entries.zipIdx.map fun e => if e.2 = d.ent then .performed d.act.size else e.1 }
            else r.1 } }

/-- Perform one packet of a deferred entry with its ord: a release is preceded by the write-back of the context's earlier
stores (05 R95). Traffic to a peer or the host passes the egress now (18 R341). A refusal drops it and is reported with the entry's stamp
(R277). One to a peer, and an atomic on partition memory, which becomes a remote-update thread (14 R290), leaves without being counted,
and the next entry waits for its acknowledgement (R265). -/
def State.performDeferred (s : State) (grp : Nat) (d : Due) (ord : BitVec 2) (view : Nat) (p : Packet) : State :=
  let c := s.ctx d.ctx
  let stamp := BitVec.ofNat 64 d.stamp
  let p := { p with ctx := d.ctx, posted := true, stamp := some stamp }
  let s := if ord = 0 then s else s.releaseLines d.ctx
  let judged : Option Byte := match p.target with
    | .home _ => none
    | _ => s.egressOf p.part p.entry p.cell p.capId p.capKind.toNat (p.gen.getD 0) p.ea p.op.reach
  match judged with
  | some e => s.reportDrop p.issuer e 0 none false p.ea stamp
  | none =>
  if p.toPeer || p.isUpdate then
    let (s, n) := s.launch p false
    s.modGCell c.cell grp fun g => { g with busy := some n }
  else
    let s := s.syncTarget p
    match p.op, view with
    | .store data, w + 1 =>
      s.modCell c.cell fun k =>
        { k with spad := k.spad.viewStore (w + 1) ((p.ea.toNat - Config.viewBase) % Config.viewSize) data }
    | _, _ =>
      match s.perform p with
      | (s, .performed _ fl) =>
        match p.op with
        | .amo .. => s.modCtx d.ctx fun c => { c with mfl := c.mfl ||| fl }
        | _ => s
      | (s, .refused e) => s.reportDrop p.issuer e 0 none false p.ea stamp
      | (s, _) => s

/-- Perform an entry, or none when it has to wait for its egress or its mailbox. -/
def State.performDue (s : State) (grp cell : Nat) (d : Due) : Option State :=
  match d.act with
  | .op ord view p => some (s.performDeferred grp d ord view p)
  | .vsct ord lanes => some (lanes.foldl (fun s p => s.performDeferred grp d ord p.1 p.2) s)
  | .snd dest msg cap =>
    if cap.isNone && !s.egressRoom cell dest msg.cls then none
    else
      let (m, s) := s.buildMsg d.ctx msg.cls msg.kind dest msg.d1 msg.d2 msg.d3
      some (s.sendFlight d.ctx dest m (some grp) cap)
  | .copy m r => if s.mailboxFree cell m r then some (s.fillMailbox cell m r) else none

/-- For each word, the newest version below g stays and older ones retire (R276 step 2). -/
def commitWord (slots : List Nat) (g : Nat) (l : List Version) : List Version :=
  if l.any fun v => match v.writer with | some x => slots.contains x | none => false then
    match newest (fun v => stampBelow v.num g) l with
    | some k => l.filter fun v => !(stampBelow v.num g && decide (v.num.toNat < k.num.toNat))
    | none => l
  else l

/-- Step 3 for one book: the records below g lapse, and their room is free (R276). -/
def Member.lapseBelow (m : Member) (g : Nat) : Member :=
  let gone (r : Record) : Bool := !r.undone && stampBelow r.stamp g
  { m with
    records := m.records.filter fun r => !gone r
    lapsedKey := match (m.records.filter fun r => gone r && r.event).getLast? with | some r => some r.key | none => m.lapsedKey
    inEvent := m.inEvent && match m.records.getLast? with | some r => !gone r | none => false }

/-- Steps 2 to 5 of a publication, when no entry below g is left (R276). -/
def State.finishPub (s : State) (grp cell g : Nat) : State :=
  let slots := (s.membersIn grp cell).map (·.1)
  let s := { s with versions := s.versions.map fun (p : Nat × List Version) => (p.1, commitWord slots g p.2) }
  let s := slots.foldl
    (fun s x => s.modCtx x fun c =>
      match c.member with
      | some m =>
        { c with
          member := some (m.lapseBelow g)
          lvt := if m.inEvent || m.handler || c.rbp then c.lvt else BitVec.ofNat 48 (max c.lvt.toNat g)
          gvt := BitVec.ofNat 48 g }
      | none => c) s
  s.modGCell cell grp fun k => { k with gvt := max k.gvt g, pub := none }

/-- Is the packet of the last entry still on its way? -/
def State.entryBusy (s : State) (k : GCell) : Bool :=
  match k.busy with
  | some n => (tfind s.packets n).isSome
  | none => false

/-- Finish the publication under way when nothing is left to perform. -/
def State.settlePub (s : State) (grp cell : Nat) : State :=
  let k := (s.cell cell).group grp
  match k.pub with
  | none => s
  | some g =>
    if s.entryBusy k then s
    else
      let s := s.modGCell cell grp fun k => { k with busy := none }
      if (s.nextDue grp cell g).isNone then s.finishPub grp cell g else s

/-- A member cell receives PUB(g) (R276). -/
def execGvtPublication (grp cell : Nat) (s : State) : Host.Outcome State Fault Refusal :=
  match tfind s.groups grp with
  | none => .next s
  | some q =>
    if q.pubTo.contains cell && ((s.cell cell).group grp).pub.isNone then
      let s := s.modGroup grp fun q => { q with pubTo := q.pubTo.filter (· ≠ cell) }
      .next ((s.modGCell cell grp fun k => { k with pub := some q.gvt }).settlePub grp cell)
    else .next s

/-- The next deferred entry is performed (R277), and charged one unit (R271). -/
def execDeferredEntryPerform (grp cell : Nat) (s : State) : Host.Outcome State Fault Refusal :=
  let k := (s.cell cell).group grp
  match k.pub with
  | none => .next s
  | some g =>
    if s.entryBusy k then .next s
    else
      match s.nextDue grp cell g with
      | none => .next (s.settlePub grp cell)
      | some d =>
        match s.performDue grp cell d with
        | none => .next s
        | some s =>
          let s := (s.markDone d).chargeCell cell (s.ctx d.ctx).entry 1
          .next (s.settlePub grp cell)

/-! ## Lapses (R278) -/

/-- A wait that the lapse of the group ends: every one but those that end by themselves, at a time or with a reply that is
on its way. -/
def Wait.endsAtLapse : Wait → Bool
  | .access _ => false
  | .lease _ => false
  | .budget _ => false
  | .guest => false
  | .none => false
  | .tick _ => false
  | .load _ => false
  | _ => true

/-- A member slot loses its optimistic state: its entries are dropped with one LAPSED entry, its records lapse, its
uncommitted versions go, and it leaves the group. The trap is taken at its next issue. -/
def State.lapseMember (s : State) (x : Nat) : State :=
  let c := s.ctx x
  match c.member with
  | none => s
  | some _ =>
    let s := s.filterVersions fun v => !(v.writer = some x && !stampBelow v.num c.gvt.toNat)
    let s := s.reportCtx x cLAPSED false 0 0 0
    let s := { s with waiters := s.waiters.filter fun w => w.1 ≠ x }
    (s.leaveGroup x).modCtx x fun c =>
      let ends := c.wait.endsAtLapse
      { c with
        grpLapsed := true
        shown := if ends && (c.sst == .stalled || c.sst == .parked) then c.sst else c.shown
        sst := if ends && (c.sst == .stalled || c.sst == .parked) then .ready else c.sst
        wait := if ends then .none else c.wait
        charged := if ends then false else c.charged
        readySince := if ends then s.cyc (dieOfCell c.cell) + 1 else c.readySince }

/-- The LAPSED trap of a group lapse, in place of the slot's next issue (R278). It records the word at the slot's pc (17 R325). -/
def execGroupLapseTrap (ctx : Nat) (s : State) : Host.Outcome State Fault Refusal :=
  match tfind s.ctxs ctx with
  | none => .next s
  | some c =>
    if c.grpLapsed && c.takesTurn then
      let (s, w) := s.wordAt ctx
      .next (((s.noteTurn ctx).modCtx ctx fun c => { c with grpLapsed := false }).takeTrap ctx
        { cause := cLAPSED.zeroExtend 13, code := cLAPSED, epc := c.pc, word := w, addr := 0, info := w.zeroExtend 64 })
    else .next s

end Sys2Proof.Machine
end

