-- ==== Sys2Proof/Machine/Lapse.lean ====
section
/-! DEFINITION. The end of leases: the tick step, lapses and notices, what each kind does in LAPSING, scrub jobs, cache
sweeps, lock drains and grants (08 R191-R201; 10 R217, R219; 18 R347; 19 R350-R354). -/

namespace Sys2Proof.Machine

/-! ## Scrub jobs (19 R350) -/

/-- Bytes of an L2 slice (00 R1). -/
def sliceBytes : Nat := 0x18_0000

/-- Rows of a die's work: a cell's copy port is the row of the cell's number; a slice, the DRAM unit, the cache sweep, a cell's tiles,
a ring member's cell have rows of their own. -/
def rowOfSlice (s : Nat) : Nat := 1024 + s
def rowDram : Nat := 4096
def rowSweep : Nat := 4097
def rowOfTiles (cell : Nat) : Nat := 8192 + cell
def rowOfRing (cell : Nat) : Nat := 16384 + cell

/-- When a row of a die is free of the jobs it has taken, those that come after a new one apart. -/
def State.rowFree (s : State) (die row : Nat) (after : Job → Bool) : Nat :=
  s.jobs.foldl
    (fun m p =>
      if p.2.die = die ∧ p.2.row = row ∧ after p.2 = false then match p.2.endAt with | some t => max m t | none => m else m) (s.cyc die)

/-- The place of a DRAM job among those of one tick: its lease's index; one of no lease comes last. -/
def State.jobIndex (s : State) (j : Job) : Nat :=
  match j.lease.bind (tfind s.leases) with
  | some l => l.index
  | none => 2 ^ 15

/-- Does a job that the DRAM unit has not begun come after a new one: taken in the same tick, with the higher lease index (R350)? -/
def State.jobAfter (s : State) (j x : Job) : Bool :=
  j.row = rowDram && x.row = rowDram && x.die = j.die && x.since / 32 = s.ref j.die && decide (s.jobIndex j < s.jobIndex x) &&
    match x.endAt with
    | some t => decide (s.cyc j.die + (x.bytes + 1023) / 1024 ≤ t)
    | none => false

/-- A job enters its row's queue, in its order (R350). -/
def State.startJob (s : State) (j : Job) (cycles : Nat) : State :=
  let (n, s) := s.takeFresh
  let moved : Table Job := s.jobs.map fun p => if s.jobAfter j p.2 then (p.1, { p.2 with endAt := p.2.endAt.map (· + cycles) }) else p
  { s with jobs := tset moved n { j with since := s.cyc j.die, endAt := some (s.rowFree j.die j.row (s.jobAfter j) + cycles) } }

/-- The partition's vector 5, when the last job that its dies have taken has ended (19 R355). -/
def State.jobsOver (s : State) (part : Option Nat) : State :=
  match part with
  | some p => if s.jobs.any fun j => j.2.part = some p && j.2.endAt.isSome then s else s.signal p 5
  | none => s

/-! ## LAPSED -/

/-- Entries refused in a cell try it again when a lease of the cell passes to LAPSED (15 R307). -/
def State.retryCell (s : State) (cell : Nat) : State :=
  { s with entries := s.entries.map fun p => (p.1, { p.2 with heldBack := p.2.heldBack.filter fun h => h.1 ≠ cell }) }

/-- A region loses its home with its last page lease (17 R334). -/
def State.regionEnds (s : State) (part region : Nat) : State :=
  let left := s.leases.any fun p =>
    match p.2.obj with
    | .page q va _ _ => partOf q = part && va / 0x20_0000 = region && p.2.occupied
    | _ => false
  if left then s else s.modPart part fun q => { q with regions := tdel q.regions region }

/-- A lease passes to LAPSED: its object is free (08 R194, R199; 12 R258). -/
def State.toLapsed (s : State) (n : Nat) : State :=
  match tfind s.leases n with
  | none => s
  | some l =>
    let s := s.modLease n fun l => { l with st := .lapsed }
    let s := match l.obj with
      | .acc cell _ => if s.anyTile cell then s else s.latchReset cell
      | .page space va _ _ => s.regionEnds (partOf space) (va / 0x20_0000)
      | _ => s
    if 16 ≤ l.home ∧ l.home < 528 then s.retryCell (l.home - 16) else s

/-! ## Passage to LAPSING (08 R197-R199) -/

/-- Prompter copies of replicated leases and leases of that Prompter have one home. -/
def homeUnit (h : Nat) : Nat := if h < 4 then homePrompter h else h

/-- The present children of a lease. -/
def State.childrenOf (s : State) (n : Nat) : List Nat :=
  (s.leases.filter fun p => p.2.parent = some n && p.2.alive).map (·.1)

/-- The other copies of a replicated lease (R198). -/
def State.copiesOf (s : State) (n : Nat) (l : Lease) : List Nat :=
  if l.home < 4 then (s.leases.filter fun p => p.1 ≠ n && decide (p.2.home < 4) && p.2.obj = l.obj && p.2.alive).map (·.1) else []

/-- The die on which a ring, slice or channel group member's resource lies; its copy there does the work. -/
def LeaseObj.ownDie : LeaseObj → Option Nat
  | .ring _ r => some (r / 16)
  | .slice _ s => some (s / 64)
  | .chan _ g _ _ => some (g / 16)
  | _ => none

/-- The clearing of a member's prompt book (R199, kind 0x09), for a lease that waits for it or for none. -/
def State.clearBook (s : State) (n : Option Nat) (cell part : Nat) (m : Member) : State :=
  s.startJob { lease := n, die := dieOfCell cell, part := some part, cell := some cell
               book := some (cell, m.pbase, m.size), bytes := m.size, row := cell } ((m.size + 63) / 64)

/-- A member leaves its group as for a group lapse, and its book is cleared (13 R278). -/
def State.lapseBook (s : State) (n : Option Nat) (x : Nat) (c : Ctx) : State :=
  let s := s.lapseMember x
  match c.member with
  | some m => s.clearBook n c.cell c.part m
  | none => s

/-- Every context that a condition names ends at once, its slot EMPTY from the next cycle; images in a save area leave a scrub job
behind (R199), and a member's book is cleared (13 R278). -/
def State.endThreads (s : State) (n : Nat) (f : Ctx → Bool) : State :=
  let l := s.ctxs.filter fun p => f p.2
  let saved (d : Nat) : List Nat := l.filterMap fun p =>
    if p.2.place = .saveArea && dieOfCell p.2.cell = d then
      let q := s.pdie p.2.part d
      (q.saved.find? fun a => a.1 = p.1).map fun a => q.sabase + 2048 * a.2
    else none
  let parts := match l.head? with | some p => some p.2.part | none => none
  let s := (List.range Config.dies).foldl
    (fun s d =>
      if (saved d).isEmpty then s
      else
        let (k, s) := s.takeFresh
        let j : Job := { lease := some n, die := d, part := parts, areas := saved d, bytes := 2048 * (saved d).length, row := rowDram }
        { s with jobs := tset s.jobs k j }) s
  l.foldl (fun s p => (s.lapseBook none p.1 p.2).endCtxAt p.1 (s.cyc (dieOfCell p.2.cell) + 1)) s

/-- A class binding lapses: its queued and stored messages are refused (09 R208, R378). -/
def State.unbindClass (s : State) (cell k part : Nat) : State :=
  let c := s.cell cell
  let gone := c.queue.filter fun q => q.cls = k
  let held := c.gstore.filter fun f => f.msg.cls = k
  let s := s.modCell cell fun c =>
    { c with queue := c.queue.filter fun q => q.cls ≠ k, gstore := c.gstore.filter fun f => f.msg.cls ≠ k }
  let s := gone.foldl (fun s q => s.refuseMsg cell part q.sender q.msg) s
  held.foldl (fun s f => s.refuseMsg cell part none f.msg) s

/-- Every member of a group loses its optimistic state, and its book is cleared. -/
def State.lapseGroup (s : State) (n g : Nat) : State := (s.membersOf g).foldl (fun s p => s.lapseBook (some n) p.1 p.2) s

/-- Members whose book lies in a scratchpad range that lapses: they leave the group, and the book is cleared (13 R278). -/
def State.lapseBooksIn (s : State) (cell base count : Nat) : State :=
  (s.ctxs.filter fun p =>
    p.2.cell = cell && match p.2.member with
      | some m => overlaps m.pbase m.size (base * 4096) (count * 4096)
      | none => false).foldl (fun s p => s.lapseBook none p.1 p.2) s

/-- A key slot copy is zeroised, and its die's sweep begins (19 R353). -/
def State.zeroise (s : State) (n die part k : Nat) : State :=
  let s := s.modPart part fun q => { q with keys := tdel q.keys (die * 16 + k) }
  s.startJob { lease := some n, die := die, part := some part, row := rowSweep } 4096

/-- A lock lapses: its holder becomes the last holder, whose cell learns of it by a guard notice (R199, R201). -/
def State.lapseLock (s : State) (n : Nat) : State :=
  match tfind s.leases n with
  | none => s
  | some l =>
    let s := s.modLease n fun l => { l with st := .lapsed, last := l.holder, holder := none }
    match l.holder with
    | none => s
    | some h =>
      let (k, s) := s.takeFresh
      { s with notices := tset s.notices k { lease := n, gen := l.gen, guard := some (h.cell, n) } }

/-- Ring member: contexts in its cells end, each latch is reset, and a cell that no thread of an entry can use any more
counts as placed (18 R347). -/
def State.lapseRing (s : State) (n part r : Nat) : State :=
  let cells := (List.range 8).map (· + 8 * r)
  let s := s.endThreads n fun c => c.part = part && cells.contains c.cell
  let s := cells.foldl (fun s c => s.latchReset c) s
  let s := { s with entries := s.entries.map fun (p : Nat × Entry) =>
    if p.2.part = part then (p.1, { p.2 with placed := p.2.placed ++ p.2.cells.filter fun c => cells.contains c && !p.2.placed.contains c })
    else p }
  s.entries.foldl (fun s (p : Nat × Entry) => if p.2.part = part then s.checkEnd (some p.1) else s) s

/-- A partition's queue at a die ends with the partition lease there: its registers are as after reset, and no entry is pending
(15 R295). -/
def State.endQueue (s : State) (part die : Nat) : State :=
  s.modPdie part die fun p => { p with qbase := 0, qtail := 0, qhead := 0, ovf := false }

/-- Does recorded engine or copy work touch the bytes? -/
def State.workOn (s : State) (cell lo hi : Nat) (f : Span → Bool) : Bool :=
  ((s.cell cell).copySpans ++ s.engineSpans cell).any fun p => p.2.meets lo hi && f p.2

/-- Does work of an entry that counts as accepted run on: engine operations, copies, posted operations that have left? -/
def State.entryWork (s : State) (e : Nat) (part : Nat) : Bool :=
  (s.cells.any fun p => ((p.2.mq ++ p.2.cq).any fun o => o.entry = some e) || (p.2.mboxes.any fun m => m.2.entry = some e) ||
    p.2.runs.any fun r => r.req.entry = some e) ||
  s.packets.any fun p => p.2.part = part && p.2.tag = s.tagOf (some e) && (tfind s.ctxs p.2.ctx).isNone

/-- Does a target lie at the end of a path: a domain, or a peer? -/
def State.leadsTo (s : State) (t : Target) (id : Nat) : Bool :=
  match t with
  | .peer i _ => i = id
  | t => s.domOfTarget t = some id

/-- Does a packet lie under a path: of its population, from its domain to its id, accepted before the lapse (R199; 18 R341)? -/
def State.underPath (s : State) (l : Lease) (dom id n : Nat) (p : Packet) : Bool :=
  decide (n < l.since) && p.st = .travelling && p.part = l.part && p.tag = s.tagOf l.pop && domOfCell p.cell = dom && s.leadsTo p.target id

/-- Do steps of a copy that left their cell before the lapse travel under a path? Those to a peer are packets (R199; 18 R341, R342). -/
def State.copyUnder (s : State) (l : Lease) (dom id cell : Nat) (r : CopyRun) : Bool :=
  r.req.part = l.part && s.tagOf r.req.entry = s.tagOf l.pop && domOfCell cell = dom && !peerOf r.req.dcap &&
    r.left.any fun f =>
      decide (f.2 < l.since) && (tfind r.flying f.1).isSome && s.leadsTo (s.sideTarget cell r.req r.req.dcap (r.step f.1).2.1.toNat) id

/-- Has every item that the lease accepted finished? -/
def State.itemsDone (s : State) (l : Lease) : Bool :=
  match l.obj with
  | .context e => !s.entryWork e l.part
  | .sp cell b k => !s.workOn cell (view0 (b * 4096)) (view0 ((b + k) * 4096)) fun _ => true
  | .acc cell t => !(s.cell cell).tileLocked t
  | .page space va big _ =>
    let hi := va + if big then 0x20_0000 else 0x1_0000
    !(s.cells.any fun p => s.workOn p.1 va hi fun x => x.sid.toNat = space)
  | .path dom id _ =>
    !(s.packets.any fun p => s.underPath l dom id p.1 p.2) && !(s.cells.any fun c => c.2.runs.any fun r => s.copyUnder l dom id c.1 r)
  | .ring _ r => (List.range 8).all fun k => !(s.cell (8 * r + k)).copyWork && (s.cell (8 * r + k)).mq.isEmpty && (s.cell (8 * r + k)).cq.isEmpty
  | .slice .. => !l.pinned
  | .chan _ g _ _ => !l.pinned && !(s.pages.any fun p => p.die = g / 16 && p.frame / groupFrames = g % 16)
  | _ => true

/-- What a lease's passage to LAPSING does at once, by kind (R199; 18 R347; 19 R353). -/
def State.atPassage (s : State) (n : Nat) (l : Lease) : State :=
  let own := l.obj.ownDie = some l.home
  match l.obj with
  | .context e =>
    let s := s.modEntry e fun x => { x with ended := true }
    s.endThreads n fun c => c.entry = some e
  | .sp cell b k => s.lapseBooksIn cell b k
  | .cls cell k _ _ => (s.unbindClass cell k l.part).toLapsed n
  | .l2 .. => s.toLapsed n
  | .lock .. => s.lapseLock n
  | .group g => s.lapseGroup n g
  | .root p => (s.endQueue p l.home).toLapsed n
  | .share .. => s.toLapsed n
  | .path .. => if s.itemsDone l then s.toLapsed n else s
  | .ring part r => if own then s.lapseRing n part r else s.toLapsed n
  | .slice .. => if own then s else s.toLapsed n
  | .chan .. => if own then s else s.toLapsed n
  | .key part k => (s.zeroise n l.home part k).modLease n fun l => { l with st := .scrubbing }
  | _ => s

/-- A lapse notice leaves for a lease that is homed elsewhere (R196, R197). -/
def State.notify (s : State) (n : Nat) : State :=
  match tfind s.leases n with
  | none => s
  | some l =>
    if s.notices.any fun p => p.2.lease = n && p.2.gen = l.gen && p.2.guard.isNone then s
    else
      let (k, s) := s.takeFresh
      { s with notices := tset s.notices k { lease := n, gen := l.gen } }

/-- A member of a partition passes to LAPSING at its first copy: vector 6 (18 R347, R349). -/
def State.memberLapses (s : State) (n : Nat) (l : Lease) : State :=
  match l.obj with
  | .ring .. | .slice .. | .chan .. | .share .. | .key .. => if (s.copiesOf n l).length = 3 then s.signal l.part 6 else s
  | _ => s

/-- Leases homed in the cells of a ring (18 R347). -/
def State.homedInRing (s : State) (o : LeaseObj) : List Nat :=
  match o with
  | .ring _ r => (s.leases.filter fun p => p.2.alive && decide (homeCell (8 * r) ≤ p.2.home ∧ p.2.home < homeCell (8 * r + 8))).map (·.1)
  | _ => []

/-- A lease passes to LAPSING, with its children of the same home; the others and the other copies are notified
(R191 stages 2-4, R197, R198). Chains are at most 4 leases deep. -/
def State.lapse : Nat → Nat → State → State
  | 0, _, s => s
  | k + 1, n, s =>
    match tfind s.leases n with
    | none => s
    | some l =>
      if !l.alive then s
      else
        let kids := s.childrenOf n
        let l := { l with since := s.fresh }
        let s := (s.memberLapses n l).modLease n fun l => { l with st := .lapsing, since := s.fresh }
        let inside := s.homedInRing l.obj
        let s := s.atPassage n l
        let s := inside.foldl (fun s c => State.lapse k c s) s
        let s := kids.foldl
          (fun s c =>
            match tfind s.leases c with
            | some q => if homeUnit q.home = homeUnit l.home then State.lapse k c s else s.notify c
            | none => s) s
        (s.copiesOf n l).foldl (fun s c => s.notify c) s

/-! ## The end of LAPSING (R199) -/

/-- Does a page back the address of a space id? -/
def Page.backs (p : Page) (space va : Nat) : Bool := p.sid.toNat = space && decide (p.va ≤ va ∧ va < p.va + p.size)

/-- A page's translation ends: every cached line of it goes, dirty ones discarded uncounted, and its versions with it (R199). -/
def State.endPage (s : State) (n : Nat) : State :=
  let mine := s.pages.filter fun p => p.lease = n
  let s := mine.foldl
    (fun s p => s.modDie p.die fun d =>
      { d with l2 := d.l2.filter fun x => !decide (p.frame * 0x1_0000 ≤ x.1 ∧ x.1 < p.frame * 0x1_0000 + p.size) }) s
  { s with
    pages := s.pages.filter fun p => p.lease ≠ n
    cells := s.cells.map fun (c : Nat × Cell) =>
      (c.1, { c.2 with l1 := c.2.l1.filter fun l => !(mine.any fun p => p.backs l.2.sid.toNat l.2.va) })
    versions := s.versions.filter fun v => !(mine.any fun p => p.backs (v.1 / 2 ^ 48) (v.1 % 2 ^ 48)) }

/-- The save-area jobs of a context or ring lease are taken. -/
def State.startImages (s : State) (n : Nat) : State :=
  let l := s.jobs.filter fun p => p.2.lease = some n && p.2.endAt.isNone
  l.foldl (fun s p => { s with jobs := tdel s.jobs p.1 }.startJob p.2 ((p.2.bytes + 1023) / 1024)) s

/-- The lease passes to SCRUBBING with its jobs, or to LAPSED when it has none. -/
def State.endLapsing (s : State) (n : Nat) (l : Lease) : State :=
  let s := s.startImages n
  let s := match l.obj with
    | .sp cell _ k =>
      s.startJob { lease := some n, die := dieOfCell cell, part := some l.part, cell := some cell, bytes := k * 4096, row := cell } (k * 64)
    | .acc cell _ =>
      s.startJob { lease := some n, die := dieOfCell cell, part := some l.part, cell := some cell, bytes := 0x8000, row := rowOfTiles cell } 8
    | .page _ _ big _ =>
      match s.pages.find? fun (p : Page) => p.lease = n && !p.second with
      | some p =>
        let size := if big then 0x20_0000 else 0x1_0000
        (s.endPage n).startJob
          { lease := some n, die := p.die, part := some l.part, bytes := size, row := rowDram
            frames := (List.range (size / 0x1_0000)).map (· + p.frame) } (size / 1024)
      | none => s
    | .ring part r =>
      (List.range 8).foldl
        (fun s k => s.startJob
          { lease := some n, die := l.home, part := some part, cell := some (8 * r + k), bytes := 0x24_0000, row := rowOfRing (8 * r + k) } 36864) s
    | .slice part k =>
      s.startJob { lease := some n, die := l.home, part := some part, bytes := sliceBytes, row := rowOfSlice k } (sliceBytes / 128)
    | .chan part g _ _ =>
      let fs := (s.die l.home).owned.filter fun f => f / groupFrames = g % 16
      if fs.isEmpty then s
      else s.startJob
        { lease := some n, die := l.home, part := some part, frames := fs, bytes := 0x1_0000 * fs.length, row := rowDram } (64 * fs.length)
    | .delivery k => { s with ends := tdel s.ends k }
    | _ => s
  if s.jobs.any fun p => p.2.lease = some n then s.modLease n fun l => { l with st := .scrubbing } else s.toLapsed n

/-- Every accepted item has finished (R194, R199). -/
def execLapsingEnd (lease : Nat) (s : State) : Host.Outcome State Fault Refusal :=
  match tfind s.leases lease with
  | none => .next s
  | some l => if l.st = .lapsing && s.itemsDone l then .next (s.endLapsing lease l) else .next s

/-! ## The end of a job (19 R350-R353) -/

/-- Clear frames of a die: zero, empty, untagged, fresh ECC, zero marks set, owned marks clear (R352). -/
def State.clearFrames (s : State) (die : Nat) (fs : List Nat) : State :=
  s.modDie die fun d =>
    { d with
      dram := fs.foldl (fun b f => b.clear (f * 0x1_0000) 0x1_0000) d.dram
      written := d.written.filter fun k => !(fs.contains (k / 512))
      cipher := d.cipher.filter fun p => !(fs.contains (p.1 / 512))
      owned := d.owned.filter fun f => !(fs.contains f) }

/-- Clear a save-area image's lines as a page scrub does: in DRAM, with their zero marks set, and in L2 (R350, R352). -/
def State.clearImage (s : State) (part a : Nat) : State :=
  match s.backed (spaceOf part) a with
  | .error _ => s
  | .ok p =>
    let lo := p.phys a
    let hit (pa : Nat) : Bool := decide (lo ≤ pa ∧ pa < lo + 2048)
    s.modDie p.die fun d =>
      { d with
        dram := d.dram.clear lo 2048, written := d.written.filter fun w => !hit (128 * w)
        cipher := d.cipher.filter fun w => !hit (128 * w.1), l2 := d.l2.filter fun l => !hit l.1 }

/-- A cell's storage as a ring scrub leaves it (18 R347). -/
def Cell.scrubbed (c : Cell) : Cell :=
  { c with spad := {}, l1 := [], latch := {}, understudy := [], tiles := [], tilePoison := [], disc := 0, aband := 0, cfail := 0, guards := [] }

/-- What a job clears. -/
def State.clearJob (s : State) (j : Job) : State :=
  match j.book with
  | some (cell, b, n) => s.modCell cell fun c => { c with spad := c.spad.clear b n }
  | none =>
    let s := (s.clearFrames j.die j.frames)
    let s := j.areas.foldl (fun s a => s.clearImage (j.part.getD 0) a) s
    match ((j.lease.bind (tfind s.leases)).map Lease.obj : Option LeaseObj) with
    | some (.sp cell b k) => s.modCell cell fun c => { c with spad := c.spad.clear (b * 4096) (k * 4096) }
    | some (.acc cell t) =>
      s.modCell cell fun c => { c with tiles := c.tiles.filter fun p => p.1 / 8192 ≠ t, tilePoison := c.tilePoison.filter fun p => p / 4096 ≠ t }
    | some (.ring _ _) =>
      match j.cell with
      | some c => s.modCell c Cell.scrubbed
      | none => s
    | some (.slice _ k) => s.modDie j.die fun d => { d with l2 := d.l2.filter fun l => l.2.slice ≠ k }
    | some _ => s
    | none =>
      let s := match j.cell with
        | some c => s.modCell c Cell.scrubbed
        | none => s
      match j.group with
      | some g =>
        s.modDie j.die fun d =>
          { d with
            dram := d.dram.clear (g * groupFrames * 0x1_0000) (groupFrames * 0x1_0000)
            written := d.written.filter fun k => k / 512 / groupFrames ≠ g
            cipher := d.cipher.filter fun p => p.1 / 512 / groupFrames ≠ g
            owned := d.owned.filter fun f => f / groupFrames ≠ g
            clean := nins d.clean g }
      | none => s

/-- A job has ended: its lease passes to LAPSED with its last job (R351). -/
def State.jobDone (s : State) (n : Nat) (j : Job) : State :=
  let s := { s.clearJob j with jobs := tdel s.jobs n }
  let s := match j.lease with
    | some k => if s.jobs.any fun p => p.2.lease = some k then s else s.toLapsed k
    | none => s
  s.jobsOver j.part

/-- Is a job over: its die has come to the first cycle after it? -/
def State.jobOver (s : State) (j : Job) : Bool :=
  match j.endAt with
  | some t => decide (t ≤ s.cyc j.die)
  | none => false

/-- A scrub job completes (R351). -/
def execScrubJobComplete (job : Nat) (s : State) : Host.Outcome State Fault Refusal :=
  match tfind s.jobs job with
  | none => .next s
  | some j => if j.row ≠ rowSweep && s.jobOver j then .next (s.jobDone job j) else .next s

/-- Is a page's channel group encrypted under a key slot of a partition? -/
def State.underKey (s : State) (part k : Nat) (p : Page) : Bool :=
  s.leases.any fun l =>
    match l.2.obj with
    | .chan q h j enc => enc && q = part && j = k && h = p.die * 16 + p.cg && l.2.home = p.die && l.2.inUse
    | _ => false

/-- The lines of the die's cells and slices whose frames lie under the key go, dirty ones uncounted; lines left in the die's DRAM
can no longer be decrypted (R353). -/
def State.sweep (s : State) (die part k : Nat) : State :=
  let mine := s.pages.filter fun p => s.underKey part k p
  let inFrames (pa : Nat) : Bool :=
    mine.any fun p => p.die = die && decide (p.frame * 0x1_0000 ≤ pa ∧ pa < p.frame * 0x1_0000 + p.size)
  let s := { s with
    cells := s.cells.map fun (c : Nat × Cell) =>
      (c.1, if dieOfCell c.1 = die then
          { c.2 with l1 := c.2.l1.filter fun l => !(mine.any fun p => p.backs l.2.sid.toNat l.2.va) }
        else c.2) }
  s.modDie die fun d =>
    let lines := d.written.filter fun w => inFrames (128 * w)
    let marks := lines.foldl (fun t w => (List.range 16).foldl (fun t k => nins t (16 * w + k)) t) d.dram.poison
    { d with l2 := d.l2.filter fun l => !(inFrames l.1), dram := { d.dram with poison := marks } }

/-- A die's cache sweep ends, and its copy of the key slot lease reaches LAPSED (R353). -/
def execCacheSweep (die lease : Nat) (s : State) : Host.Outcome State Fault Refusal :=
  match s.jobs.find? fun p => p.2.lease = some lease && p.2.row = rowSweep && p.2.die = die, tfind s.leases lease with
  | some (n, j), some l =>
    match l.obj with
    | .key part k => if s.jobOver j then .next ((s.sweep die part k).jobDone n j) else .next s
    | _ => .next s
  | _, _ => .next s

/-- A job of either kind ends. -/
def State.endJob (s : State) (n : Nat) (j : Job) : State :=
  let s := if j.row ≠ rowSweep then s
    else match (j.lease.bind (tfind s.leases)).map Lease.obj with
      | some (.key part k) => s.sweep j.die part k
      | _ => s
  s.jobDone n j

/-- The jobs that end with the cycle that has passed: their objects are LAPSED before any event of the next one (R351). -/
def State.endJobs (s : State) : State := (s.jobs.filter fun p => s.jobOver p.2).foldl (fun s p => s.endJob p.1 p.2) s

/-! ## Renewals (05 R121; 08 R190, R198) -/

/-- Resident ranges of the partition on a die are pinned again while the allowance holds (10 R219). -/
def State.repin (s : State) (n : Nat) : State :=
  match tfind s.leases n with
  | some l =>
    match l.obj with
    | .l2 space _ u _ =>
      let die := dieOfHome l.home
      if !l.pinned ∧ s.residentUnits (partOf space) die + u ≤ s.residentLimit (partOf space) die then s.modLease n fun l => { l with pinned := true } else s
    | _ => s
  | none => s

/-- Extend a lease at its home. -/
def State.extend (s : State) (n life : Nat) : State :=
  (s.modLease n fun l => { l with expiry := max l.expiry (s.tickOf l.home + life) }).repin n

/-- Has the copy of a replicated lease received a lapse notice before the renewal that arrived at `order` (R198)? -/
def State.noticed (s : State) (n : Nat) (l : Lease) (order : Nat) : Bool :=
  decide (l.home < 4) && s.notices.any fun p => p.2.arrived && p.2.guard.isNone && p.2.lease = n && p.2.gen = l.gen && decide (p.2.order < order)

/-- Is a renewal of the lease refused LAPSED (R121, R198)? -/
def State.renewalLate (s : State) (n : Nat) (l : Lease) (order : Nat) : Bool :=
  !l.alive || decide (l.expiry < s.tickOf l.home) || s.noticed n l order

/-- A renewal at its home (R121). -/
def State.applyRenewal (s : State) (req : Nat) (r : LeaseReq) : State :=
  let put (s : State) (a : Option Word) (f : Option Byte) : State :=
    { s with lreqs := tset s.lreqs req { r with arrived := none, answer := a, fault := f } }
  let die := dieOfCell (s.ctx r.ctx).cell
  match s.entryOf r.xa die with
  | none => put s none (some cGENMIS)
  | some (n, l) =>
    if l.gen ≠ handleGen r.xa then put s none (some cGENMIS)
    else if s.renewalLate n l r.order then put s none (some cLAPSED)
    else put (s.extend n r.xb.toNat) (some 0) none

/-- A renewal at another copy of its lease. One refused there leaves LS_STALE in the port that asked (R198; 18 R345). -/
def State.applyExtension (s : State) (e : Extension) : State :=
  match tfind s.leases e.lease with
  | none => s
  | some l =>
    if l.gen = e.gen ∧ !s.renewalLate e.lease l e.order then s.extend e.lease e.life
    else
      match e.port with
      | some d => s.modDie d fun d => { d with ptcode := BitVec.ofNat 8 lsStale }
      | none => s

/-- The die at whose tick step a request waits. -/
def State.dieOfReq (s : State) (r : LeaseReq) : Nat :=
  let c := s.ctx r.ctx
  match r.op with
  | .renew => if handleHome r.xa = 0 then dieOfCell c.cell else dieOfHome (handleHome r.xa)
  | .lacq kind => dieOfHome (s.homeOfLacq { c.asker r.ctx with capId := r.capId } kind r.xa)
  | .llk => match tfind s.leases r.lock with | some l => dieOfHome l.home | none => dieOfCell c.cell
  | _ => dieOfCell c.cell

/-- Put a request where its order of arrival belongs. -/
def insertReq (p : Nat × LeaseReq) : List (Nat × LeaseReq) → List (Nat × LeaseReq)
  | [] => [p]
  | q :: t => if p.2.order < q.2.order then p :: q :: t else q :: insertReq p t

/-- Renewals that have arrived at a die's homes, in order of arrival. -/
def State.renewalsAt (s : State) (die : Nat) : List (Nat × LeaseReq) :=
  (s.lreqs.filter fun p => p.2.op = .renew && p.2.arrived.isSome && s.dieOfReq p.2 = die).foldl (fun l p => insertReq p l) []

/-- Renewals that wait at a die for its copies of replicated leases. -/
def State.extensionsAt (s : State) (die : Nat) : List Extension :=
  s.extensions.filter fun e => match tfind s.leases e.lease with | some l => l.home = die | none => true

/-- Apply the renewals that have arrived at a die's copies (R198). -/
def State.applyExtensions (s : State) (die : Nat) : State :=
  let l := s.extensionsAt die
  l.foldl State.applyExtension { s with extensions := s.extensions.filter fun e => !l.contains e }

/-! ## The stages of the tick step (R191) -/

/-- Does a sender end wait for an answer, so that its lease does not count (14 R291)? -/
def State.endWaits (s : State) (o : LeaseObj) : Bool :=
  match o with
  | .delivery k => match tfind s.ends k with | some e => e.sender && !e.unanswered.isEmpty | none => false
  | _ => false

/-- Leases at a die's homes that have come to their expiry tick. -/
def State.expired (s : State) (die : Nat) : List Nat :=
  (s.leases.filter fun p =>
    dieOfHome p.2.home = die && p.2.alive && decide (p.2.expiry ≤ s.ref die) && !s.endWaits p.2.obj).map (·.1)

/-- Notices that have arrived at a die's homes. -/
def State.noticesAt (s : State) (die : Nat) : List (Nat × Notice) :=
  s.notices.filter fun p =>
    p.2.arrived && p.2.guard.isNone && match tfind s.leases p.2.lease with | some l => dieOfHome l.home = die | none => true

/-- Apply a notice: it reaches the lease of its generation alone (R196). -/
def State.applyNotice (s : State) (n : Nat) (k : Notice) : State :=
  let s := { s with notices := tdel s.notices n }
  match tfind s.leases k.lease with
  | some l => if l.gen = k.gen then s.lapse 8 k.lease else s
  | none => s

/-- Requests held over to stage 5 (R192), in the order of their numbers, which is that of their issue (log 90: DESIGN CHOICE). -/
def State.heldAt (s : State) (die : Nat) : List Nat :=
  (s.lreqs.filter fun p => p.2.held && p.2.answer.isNone && s.dieOfReq p.2 = die).map (·.1)

/-- Locks of a die that are free and have a parked request. -/
def State.locksToServe (s : State) (die : Nat) : List (Nat × Nat) :=
  s.leases.filterMap fun p =>
    match p.2.obj with
    | .lock _ _ =>
      if dieOfHome p.2.home = die && p.2.st == .lapsed && p.2.draining.isNone then (s.firstParked p.1).map fun r => (p.1, r) else none
    | _ => none

/-- Parked requests whose wait bound has ended and that no grant under way serves (05 R125). -/
def State.waitOver (s : State) (p : Nat × LeaseReq) : Bool :=
  p.2.parked && p.2.answer.isNone &&
    match p.2.arrived, tfind s.leases p.2.lock with
    | some a, some l => decide (a + p.2.xb.toNat / 2 ^ 32 ≤ s.tickOf l.home) && l.draining ≠ some p.1
    | _, _ => false

/-- Answer LS_TIMEOUT (R125). -/
def State.timeOut (s : State) (n : Nat) (r : LeaseReq) : State := s.answerLock n r lsTimeout

def State.timeouts (s : State) (die : Nat) : List (Nat × LeaseReq) :=
  s.lreqs.filter fun p => s.waitOver p && s.dieOfReq p.2 = die

/-- Demote resident ranges of a partition on a die until the allowance holds (10 R219): lowest priority first, then the
most recent grant; a class 14 report goes to the holder. -/
def State.demoteOne (s : State) (part die : Nat) : State :=
  let l := s.leases.filter fun p =>
    match p.2.obj with
    | .l2 q _ _ _ => partOf q = part && dieOfHome p.2.home = die && p.2.alive && p.2.pinned
    | _ => false
  let prio (o : LeaseObj) : Nat := match o with | .l2 _ _ _ p => p | _ => 0
  let worst := l.foldl
    (fun (b : Option (Nat × Lease)) p => match b with
      | some q => if prio p.2.obj < prio q.2.obj ∨ (prio p.2.obj = prio q.2.obj ∧ q.2.order < p.2.order) then some p else b
      | none => some p) none
  match worst with
  | none => s
  | some (n, l) =>
    let s := s.modLease n fun l => { l with pinned := false }
    match l.holder.bind fun h => (tfind s.ctxs h.ctx) with
    | some c =>
      let d0 := reportHead (BitVec.ofNat 8 lsNoRes) false 0 c.cell c.slot (dieOfCell c.cell) false c.tag
      let va := match l.obj with | .l2 _ v _ _ => v | _ => 0
      s.classReport c 14 3 d0 (BitVec.ofNat 64 va) 0
    | none => s

def State.tooResident (s : State) (part die : Nat) : Bool := decide (s.residentLimit part die < s.residentUnits part die)

def State.demoteAll (s : State) (part die : Nat) : Nat → State
  | 0 => s
  | k + 1 => if s.tooResident part die then (s.demoteOne part die).demoteAll part die k else s

/-- Partitions over their allowance on a die. -/
def State.overAllowance (s : State) (die : Nat) : List Nat :=
  (List.range 64).filter fun p => s.tooResident p die

/-- Is it the last cycle of a tick? -/
def State.tickEnds (s : State) (die : Nat) : Bool := s.cyc die % 32 == 31

/-- Has the die's tick step of this tick run? -/
def State.ticked (s : State) (die : Nat) : Bool := (s.die die).stepped == some (s.ref die)

/-- The tick step of a die's homes, once in a tick (R191). -/
def execHomeTickStep (die : Nat) (s : State) : Host.Outcome State Fault Refusal :=
  if !s.tickEnds die || s.ticked die || decide (Config.dies ≤ die) then .next s
  else
    let s := s.modDie die fun d => { d with stepped := some (s.ref die) }
    let s := ((s.renewalsAt die).foldl (fun s p => s.applyRenewal p.1 p.2) s).applyExtensions die
    let s := (s.expired die).foldl (fun s n => s.lapse 8 n) s
    let s := (s.noticesAt die).foldl (fun s p => s.applyNotice p.1 p.2) s
    let s := (s.heldAt die).foldl (fun s n => s.leaseArrives n) s
    let s := (s.locksToServe die).foldl (fun s p => s.serveLock p.1 p.2) s
    let s := (s.timeouts die).foldl (fun s p => s.timeOut p.1 p.2) s
    .next ((s.overAllowance die).foldl (fun s p => s.demoteAll p die 64) s)

/-- One lease's expiry in the tick step (R191 stages 2 and 3); renewals of its home come first (stage 1). -/
def execLeaseExpiry (lease : Nat) (s : State) : Host.Outcome State Fault Refusal :=
  match tfind s.leases lease with
  | none => .next s
  | some l =>
    let die := dieOfHome l.home
    if s.tickEnds die && (s.renewalsAt die).isEmpty && (s.extensionsAt die).isEmpty && l.alive && decide (l.expiry ≤ s.ref die) &&
        !s.endWaits l.obj then .next (s.lapse 8 lease) else .next s

/-- A lapse notice arrives; the tick step applies it (R197). -/
def execLapseNotice (notice : Nat) (s : State) : Host.Outcome State Fault Refusal :=
  match tfind s.notices notice with
  | none => .next s
  | some k =>
    if k.guard.isSome || k.arrived then .next s
    else
      let (o, s) := s.takeFresh
      .next { s with notices := tset s.notices notice { k with arrived := true, order := o } }

/-! ## Requests and replies as steps -/

/-- A `lacq`, `life`, `lgen`, `lpar` or `renew` reaches its home (05 R120-R124). -/
def execLeaseRequestArrival (req : Nat) (s : State) : Host.Outcome State Fault Refusal :=
  match tfind s.lreqs req with
  | none => .next s
  | some r =>
    if r.op = .llk ∨ r.arrived.isSome ∨ r.answer.isSome ∨ r.fault.isSome then .next s else .next (s.leaseArrives req)

/-- An `llk` reaches the lock word's home (05 R125). -/
def execLlkRequestArrival (req : Nat) (s : State) : Host.Outcome State Fault Refusal :=
  match tfind s.lreqs req with
  | none => .next s
  | some r => if r.op ≠ .llk ∨ r.arrived.isSome ∨ r.answer.isSome then .next s else .next (s.leaseArrives req)

/-- A grant reply is delivered (08 R194). -/
def execGrantReplyDelivery (req : Nat) (s : State) : Host.Outcome State Fault Refusal :=
  match tfind s.lreqs req with
  | none => .next s
  | some r => if r.granted.isSome && r.answer.isSome then .next (s.leaseReply req) else .next s

/-- Any other lease reply reaches the issuing cell (05 R120-R124). -/
def execLeaseReplyArrival (req : Nat) (s : State) : Host.Outcome State Fault Refusal :=
  match tfind s.lreqs req with
  | none => .next s
  | some r => if r.granted.isNone && (r.answer.isSome || r.fault.isSome) then .next (s.leaseReply req) else .next s

/-- A parked `llk` comes to the end of its wait bound, after stage 5 has served the lock (05 R125). -/
def execLlkTimeout (req : Nat) (s : State) : Host.Outcome State Fault Refusal :=
  match tfind s.lreqs req with
  | none => .next s
  | some r =>
    let die := s.dieOfReq r
    if s.tickEnds die && (s.locksToServe die).isEmpty && s.waitOver (req, r) then .next (s.timeOut req r) else .next s

/-! ## Locks (05 R126; 10 R217) -/

/-- The drain of the last holder (R126 step 2), who stays recorded until the grant (08 R201). -/
def execLockDrain (lease : Nat) (s : State) : Host.Outcome State Fault Refusal :=
  match tfind s.leases lease with
  | none => .next s
  | some l =>
    match l.draining, l.last with
    | some _, some h => if l.drained then .next s else .next ((s.drainHolder lease h).modLease lease fun l => { l with drained := true })
    | _, _ => .next s

/-- The grant after the drain (R126 steps 3 and 4). -/
def execLockGrant (lease : Nat) (s : State) : Host.Outcome State Fault Refusal :=
  match tfind s.leases lease with
  | none => .next s
  | some l =>
    match l.draining with
    | some req => if l.drained || l.last.isNone then .next (s.grantLock lease req) else .next s
    | none => .next s

/-- The cell learns of a lock's lapse: the clean guarded lines of its ranges go, the dirty ones stay (10 R217). -/
def execGuardNotice (notice : Nat) (s : State) : Host.Outcome State Fault Refusal :=
  match tfind s.notices notice with
  | none => .next s
  | some k =>
    match k.guard with
    | none => .next s
    | some (cell, lease) =>
      let s := { s with notices := tdel s.notices notice }
      let now := match tfind s.leases lease with
        | some l => l.gen = k.gen && !l.alive
        | none => false
      if !now then .next s
      else .next (s.modCell cell fun c =>
        let mine := c.guards.filter fun g => g.lease = lease && g.held
        { c with
          guards := c.guards.map fun g => if g.lease = lease then { g with held := false } else g
          l1 := c.l1.filter fun l =>
            !(l.2.guarded && l.2.dirty = 0 && mine.any fun g => g.sid = l.2.sid && decide (g.base ≤ l.2.va ∧ l.2.va < g.base + g.len)) })

end Sys2Proof.Machine
end

