-- ==== Sys2Proof/Machine/Faults.lean ====
section
/-! DEFINITION. The fault queue: its writer and its registers (17 R331, R332). -/

namespace Sys2Proof.Machine

/-- Entries that a partition's ring holds. -/
def Part.ringSize (p : Part) : Nat := 2 ^ (p.fqlg + 6)

/-- Entries written and not read. -/
def Part.unread (p : Part) : Nat := (p.fqtail + 2 * p.ringSize - p.fqhead % (2 * p.ringSize)) % (2 * p.ringSize)

/-- Count entries that are not written; the count stops at its top (R332). -/
def Part.lose (p : Part) (n : Nat) : Part := { p with fqlost := BitVec.ofNat 32 (min (p.fqlost.toNat + n) 0xFFFF_FFFF) }

/-- The bytes of an entry. `ref` is the writing die's, when the entry is written (R331). -/
def State.reportBytesOf (s : State) (r : Report) : List Byte :=
  word8 r.d0 ++ word8 r.addr ++ word8 r.info ++ word8 (BitVec.ofNat 64 (s.ref (r.d0.toNat / 2 ^ 25 % 4)))

/-- Write 32-byte pieces at entries of the ring from index `i` on. -/
def State.ringWrite (s : State) (part base size : Nat) : Nat → List (List Byte) → Except Byte State
  | _, [] => .ok s
  | i, bs :: t => do
    let s ← s.deviceWrite (spaceOf part) (base + 32 * (i % size)) bs
    s.ringWrite part base size (i + 1) t

/-- The fault writer takes a report: it is written and signalled, or lost (R332). -/
def State.writeReport (s : State) (n : Nat) : State :=
  match tfind s.reports n with
  | none => s
  | some r =>
    let s := { s with reports := tdel s.reports n }
    let p := s.part r.part
    let pieces := s.reportBytesOf r :: (match r.payload with | some m => [m.bytes] | none => [])
    let lost (s : State) : State := s.modPart r.part fun p => p.lose pieces.length
    if p.fqbase = 0 ∨ p.ringSize < p.unread + pieces.length then lost s
    else
      match s.ringWrite r.part p.fqbase p.ringSize (p.fqtail % p.ringSize) pieces with
      | .error _ => lost s
      | .ok s =>
        (s.modPart r.part fun p => { p with fqtail := (p.fqtail + pieces.length) % (2 * p.ringSize) }).signal r.part 0

/-- The unit that makes a report: die and cell. -/
def Report.source (r : Report) : Nat × Nat := (r.d0.toNat / 2 ^ 25 % 4, r.d0.toNat / 2 ^ 12 % 512)

/-- A report reaches the fault writer; reports of one source keep their order (R332). -/
def execFaultReport (report : Nat) (s : State) : Host.Outcome State Fault Refusal :=
  match tfind s.reports report with
  | none => .next s
  | some r =>
    if s.reports.any fun p => decide (p.1 < report) && p.2.part = r.part && p.2.source = r.source then .next s
    else .next (s.writeReport report)

/-- Every report of a partition that is on its way reaches the writer (18 R343). -/
def State.flushReports (s : State) (part : Nat) : State :=
  (s.reports.filter fun p => p.2.part = part).foldl (fun s p => s.writeReport p.1) s

/-- A write of `fqbase` (R332): ignored while head and tail differ; a reserved `lg` keeps its field. -/
def execFqbaseWrite (part : Nat) (v : Word) (s : State) : Host.Outcome State Fault Refusal :=
  let p := s.part part
  let lg := v.toNat / 2 ^ 48 % 16
  if p.fqtail ≠ p.fqhead ∨ p.flr.isSome then .next s
  else .next (s.modPart part fun p =>
    { p with fqbase := v.toNat / 2 ^ 16 % 2 ^ 32 * 2 ^ 16, fqlg := if lg ≤ 10 then lg else p.fqlg })

/-- A read of `fqlost` returns the count and clears it (R332). -/
def execFqlostRead (part : Nat) (s : State) : Host.Outcome State Fault Refusal :=
  let v := (s.part part).fqlost
  .next { s.modPart part fun p => { p with fqlost := 0 } with hostOut := .value (v.zeroExtend 64) }

end Sys2Proof.Machine
end

