-- ==== Sys2Proof/Machine/Packets.lean ====
section
/-! DEFINITION. Requests in flight and the caches as steps: arrival at a home, combining, remote-update threads, replies,
acknowledgements, parked waits, L1, L2 and DRAM (05 R95-R99, R104, R111, R112; 08 R195; 09 R206; 10 R213-R218;
14 R282-R284, R290; 17 R336; 18 R343; 19 R352). -/

namespace Sys2Proof.Machine

def State.setPkt (s : State) (n : Nat) (p : Packet) : State := { s with packets := tset s.packets n p }

/-! ## Order to one home (11 R238) -/

/-- Do two requests go to one home? -/
def State.sameHome (s : State) (a b : Target) : Bool :=
  match a, b with
  | .home (.spad c _), .home (.spad d _) => c = d
  | .home (.mem p v), .home (.mem q w) => s.sliceOf p v = s.sliceOf q w
  | .host _, .host _ => true
  | .peer i _, .peer j _ => i = j
  | _, _ => false

/-- A request and those combined into it. -/
def State.carried (s : State) : Nat → Nat → List Nat
  | 0, _ => []
  | k + 1, n =>
    match tfind s.packets n with
    | some p => n :: p.mates.flatMap fun m => s.carried k m.pkt
    | none => []

/-- Must an earlier posted operation be performed before the request: one of the context of the request, or of one combined into it,
to the same home (R238)? -/
def State.behind (s : State) (n : Nat) : Bool :=
  let all := s.carried 16 n
  all.any fun r =>
    match tfind s.packets r with
    | some b =>
      b.posted && s.packets.any fun (q : Nat × Packet) =>
        decide (q.1 < r) && q.2.posted && q.2.ctx = b.ctx && (q.2.st = .travelling || q.2.st = .queued || q.2.st = .combined) &&
          s.sameHome q.2.target b.target && !all.contains q.1
    | none => false

/-! ## The way through the fabric (14 R279, R280) -/

/-- Does a request stand first in its switch output queue? -/
def State.headOf (s : State) (n : Nat) (w : SwitchPlace) : Bool :=
  !(s.packets.any fun q => q.1 ≠ n && q.2.st = .travelling &&
    match q.2.place with
    | some x => x.stage = w.stage && x.die = w.die && x.out = w.out && decide (x.order < w.order)
    | none => false)

/-- The switch output that a request goes to next; none when its home or the port's link is next. -/
def State.nextHop (s : State) (p : Packet) : Option (Nat × Nat × Nat) :=
  let way := s.routeOf p
  match p.place with
  | none => if p.sent then none else way.head?
  | some w => (way.dropWhile fun h => h ≠ (w.stage, w.die, w.out)).tail.head?

/-- May a request move on from where it is: first in its queue, or, before the fabric, behind no earlier one of its context on the
same way? -/
def State.mayMove (s : State) (n : Nat) (p : Packet) : Bool :=
  match p.place with
  | some w => s.headOf n w
  | none =>
    !(s.packets.any fun q => decide (q.1 < n) && q.2.ctx = p.ctx && q.2.st = .travelling && q.2.place.isNone && !q.2.sent &&
      q.2.port = p.port && !(s.routeOf q.2).isEmpty && s.routeOf q.2 = s.routeOf p)

/-- Has a request reached its home: first at the last switch output of its way, or on its domain's own network? -/
def State.atHome (s : State) (n : Nat) (p : Packet) : Bool := !p.toPeer && (s.nextHop p).isNone && s.mayMove n p

/-! ## Arrival at a home (08 R195) -/

/-- A barrier event. -/
def PktOp.isBarrier : PktOp → Bool
  | .arrive _ => true
  | .declare _ => true
  | .bytes _ => true
  | _ => false

/-- Perform a packet at its home and keep its answer. -/
def State.performPkt (s : State) (n : Nat) (p : Packet) : State :=
  let (s, st) := s.perform p
  s.setPkt n { p with st := st }

/-- The pantry core of a request's page (14 R289). -/
def State.coreOfTarget (s : State) (t : Target) : Option Nat :=
  match t with
  | .home (.mem space va) => (s.page space va).map (·.core)
  | _ => none

/-- A request arrives at its home: it is judged and performed or refused; a remote update joins the pantry core's queue. -/
def execHomeAccessArrival (pkt : Nat) (s : State) : Host.Outcome State Fault Refusal :=
  match tfind s.packets pkt with
  | none => .next s
  | some p =>
    if p.st ≠ .travelling || p.op.isBarrier || !s.atHome pkt p || s.behind pkt then .next s
    else if p.isUpdate then .next (s.setPkt pkt { p with st := .queued, place := none })
    else .next (s.performPkt pkt p)

/-- The common course of a barrier event at its home (05 R111). -/
def State.barrierPkt (s : State) (pkt : Nat) (is : PktOp → Bool) : State :=
  match tfind s.packets pkt with
  | none => s
  | some p =>
    if p.st ≠ .travelling || !is p.op || !s.atHome pkt p || s.behind pkt then s
    else if p.copy.isSome then { s with packets := tdel s.packets pkt }.landReport p
    else s.performPkt pkt p

/-- An arrival at the barrier's home. -/
def execBarrierArrival (pkt : Nat) (s : State) : Host.Outcome State Fault Refusal :=
  .next (s.barrierPkt pkt fun o => match o with | .arrive _ => true | _ => false)

/-- A `bar.exp` at the barrier's home. -/
def execBarrierDeclaration (pkt : Nat) (s : State) : Host.Outcome State Fault Refusal :=
  .next (s.barrierPkt pkt fun o => match o with | .declare _ => true | _ => false)

/-- A copy step's byte report at the barrier's home. -/
def execBarrierByteReport (pkt : Nat) (s : State) : Host.Outcome State Fault Refusal :=
  .next (s.barrierPkt pkt fun o => match o with | .bytes _ => true | _ => false)

/-- Has a pantry core issued in this cycle (14 R289)? -/
def State.coreBusy (s : State) (core : Nat) : Bool := tfind (s.die (core / 16)).coreIssued core == some (s.cyc (core / 16))

/-- A remote-update thread: one issue in a guest slot performs the atomic, and is charged to the issuer's entry (14 R289, R290;
16 R311). -/
def execRemoteUpdateThread (pkt : Nat) (s : State) : Host.Outcome State Fault Refusal :=
  match tfind s.packets pkt with
  | none => .next s
  | some p =>
    if p.st ≠ .queued || s.behind pkt then .next s
    else
      match s.coreOfTarget p.target with
      | none => .next (s.performPkt pkt p)
      | some core =>
        if 32 ≤ s.guestsOf core || s.coreBusy core then .next s
        else
          let s := s.modDie (core / 16) fun d => { d with coreIssued := tset d.coreIssued core (s.cyc (core / 16)) }
          .next ((s.performPkt pkt p).chargeNow (512 + core) p.entry 1 0)

/-! ## Combining (14 R282-R284) -/

/-- May two requests combine (R282)? -/
def combines (a b : Packet) : Bool :=
  match a.op, b.op with
  | .amo f t _ _, .amo g u _ _ =>
    f = g && t = u && t ≠ 2 && (f = 0 || f = 1) && a.target = b.target && !a.sc && !b.sc && a.gen = b.gen && !a.toPeer &&
      (match a.target with | .home _ => true | _ => false)
  | _, _ => false

/-- The value of the request that goes on, or of the second reply: a sum or the smaller one (R283). -/
def combineVal (op : BitVec 3) (ty : BitVec 2) (x y : Word) : Word :=
  BitVec.ofNat 64 (amoInt op (8 * amoSize ty) (x.toNat % 2 ^ (8 * amoSize ty)) (y.toNat % 2 ^ (8 * amoSize ty)) 0)

/-- Wait buffer entries in use at a switch output (R284). -/
def State.waitBuffers (s : State) (hop : Nat × Nat × Nat) : Nat :=
  (s.packets.map fun p => (p.2.mates.filter fun m => (m.stage, m.die, m.out) = hop).length).sum

/-- Would a request that joins the place of `a` in a queue pass a posted operation of one of its contexts to the same home, alone or
combined into another request (11 R238)? -/
def State.wouldPass (s : State) (n : Nat) (b : Packet) (a : SwitchPlace) : Bool :=
  let xs := (s.carried 16 n).filterMap fun r => (tfind s.packets r).map (·.ctx)
  s.packets.any fun q => q.1 ≠ n && q.2.st = .travelling && s.sameHome q.2.target b.target &&
    (match q.2.place with
     | some w => w.stage = a.stage && w.die = a.die && w.out = a.out && decide (a.order < w.order)
     | none => false) &&
    (s.carried 16 q.1).any fun r => match tfind s.packets r with | some p => p.posted && xs.contains p.ctx | none => false

/-- The partner at a switch output that is queued first (R282, R283). -/
def State.partnerOf (s : State) (n : Nat) (b : Packet) (hop : Nat × Nat × Nat) : Option (Nat × Packet × SwitchPlace) :=
  let l := s.packets.filterMap fun p =>
    match p.2.place with
    | some w =>
      if p.1 ≠ n && p.2.st = .travelling && (w.stage, w.die, w.out) = hop && combines p.2 b && !s.wouldPass n b w
      then some (p.1, p.2, w) else none
    | none => none
  l.foldl (fun (m : Option (Nat × Packet × SwitchPlace)) p => match m with
    | some q => if p.2.2.order < q.2.2.order then some p else m
    | none => some p) none

/-- Does a request that arrives at a switch output come before one that joined there: in the same cycle, from a lower input port
(R283)? -/
def Mate.follows (m : Mate) (at_ : SwitchPlace) : Bool :=
  (m.stage, m.die, m.out) = (at_.stage, at_.die, at_.out) && m.cyc = at_.cyc && decide (at_.input < m.input)

/-- The request that goes on when `b`, at its place, joins `a`: one of their sum or their smaller value. `b` comes after `a`, and before
those that joined in the same cycle from higher input ports, which then find `b`'s value in what precedes them. -/
def joined (a b : Packet) (n : Nat) (at_ : SwitchPlace) : Packet :=
  match a.op, b.op with
  | .amo op ty x e, .amo _ _ y _ =>
    let before := a.mates.takeWhile fun m => !m.follows at_
    let after := a.mates.dropWhile fun m => !m.follows at_
    let v := match after.head? with | some m => m.v | none => x
    let here : Mate := { pkt := n, v := v, stage := at_.stage, die := at_.die, out := at_.out, input := at_.input, cyc := at_.cyc }
    { a with
      op := .amo op ty (combineVal op ty x y) e
      mates := before ++ here :: after.map fun m => { m with v := combineVal op ty m.v y } }
  | _, _ => a

/-- The input port of a switch where a request arrives: its endpoint port at an ingress switch, else the die of the switch it comes
from (log 78). -/
def inputOf (p : Packet) : Nat :=
  match p.place with
  | some w => w.die
  | none => p.port

/-- A request enters the next switch output queue of its way, last; or it combines with a partner that waits there, if a wait buffer
entry is free: the one queued first is `a`, and of two that arrive in one cycle the one from the lower input port (R279-R284). From
the output of its external port a request to a peer leaves the module (R291). -/
def execFabricRequestAtSwitch (pkt : Nat) (s : State) : Host.Outcome State Fault Refusal :=
  match tfind s.packets pkt with
  | none => .next s
  | some b =>
    match s.nextHop b with
    | none => if b.st = .travelling && b.toPeer && !b.sent && s.mayMove pkt b then .next (s.sendPeer pkt b) else .next s
    | some hop =>
      if b.st ≠ .travelling ∨ !s.mayMove pkt b then .next s
      else
        let now := s.cyc hop.2.1
        let (k, t) := s.takeFresh
        let here : SwitchPlace := { stage := hop.1, die := hop.2.1, out := hop.2.2, input := inputOf b, cyc := now, order := k }
        let queued := t.setPkt pkt { b with place := some here }
        match s.partnerOf pkt b hop with
        | none => .next queued
        | some (n, a, w) =>
          if 256 ≤ s.waitBuffers hop then .next queued
          else if w.cyc = now ∧ here.input < w.input then
            .next ((s.setPkt pkt { joined b a n w with place := some { w with input := here.input } }).setPkt n
              { a with st := .combined, place := none })
          else .next ((s.setPkt n (joined a b pkt here)).setPkt pkt { b with st := .combined, place := none })

/-- The answer of one constituent (R283, R284). -/
def State.splitOne (s : State) (a : Packet) (m : Mate) : State :=
  match tfind s.packets m.pkt, a.st, a.op with
  | some b, .performed v _, .amo op ty _ _ => s.setPkt m.pkt { b with st := .performed (combineVal op ty v m.v) 0 }
  | some b, .refused e, _ => s.setPkt m.pkt { b with st := .refused e }
  | _, _, _ => s

/-- A reply to a combined request is split for its constituents. -/
def execCombinedReplySplit (pkt : Nat) (s : State) : Host.Outcome State Fault Refusal :=
  match tfind s.packets pkt with
  | none => .next s
  | some a =>
    match a.st with
    | .performed .. | .refused _ => .next ((a.mates.foldl (fun s m => s.splitOne a m) s).setPkt pkt { a with mates := [] })
    | _ => .next s

/-! ## Replies and acknowledgements (05 R95, R104; 18 R343) -/

/-- A reply reaches the instruction that waits for it, wherever its context is (16 R322, R323). The answers of copy steps go to the
Stagehand instead. -/
def execAccessReply (pkt : Nat) (s : State) : Host.Outcome State Fault Refusal :=
  match tfind s.packets pkt with
  | none => .next s
  | some p =>
    if p.posted ∨ p.copy.isSome ∨ !p.mates.isEmpty then .next s
    else
      match p.st with
      | .performed .. | .refused _ =>
        let s := { s with packets := tdel s.packets pkt }
        match tfind s.ctxs p.ctx with
        | some c => if c.wait = .access pkt then .next (s.replyTo p p.st) else .next s
        | none => .next s
      | _ => .next s

/-- A home acknowledges a posted operation. -/
def execPostedAck (pkt : Nat) (s : State) : Host.Outcome State Fault Refusal :=
  match tfind s.packets pkt with
  | none => .next s
  | some p =>
    match p.st with
    | .performed _ fl => if p.posted && p.mates.isEmpty then .next (s.ackPosted pkt p fl) else .next s
    | _ => .next s

/-- Once the report of a refused posted operation is in its cell's queue, or written in the fault queue, its count falls; while it
waits in the store of generated messages the count stands (18 R343). -/
def State.settleRefused (s : State) (n : Nat) (p : Packet) : State :=
  if s.reportStored n then s else (s.flushReports p.part).endRefused n p

/-- A refused posted operation is reported, and its count falls once the report is delivered (18 R343). -/
def execPostedRefusalReport (pkt : Nat) (s : State) : Host.Outcome State Fault Refusal :=
  match tfind s.packets pkt with
  | none => .next s
  | some p =>
    match p.st with
    | .refused code => if p.posted && p.mates.isEmpty then .next ((s.refusePosted pkt p code).settleRefused pkt p) else .next s
    | .reported => .next (s.settleRefused pkt p)
    | _ => .next s

/-! ## Parked and stalled waits -/

/-- The instruction of a slot is tried again at once, ahead of the rotation. -/
def State.retry (s : State) (x : Nat) : State := { s with sched := .issue x :: s.sched }

/-- Is the condition of a parked take, give, `ldv` or barrier wait met at its home, or does the home refuse it by now
(05 R97, R99, R112)? -/
def State.released (s : State) (x : Nat) : Bool :=
  match (s.ctx x).wait with
  | .fe l full =>
    match s.homeFull l with
    | .ok (_, f) => f = full && !({ s with cur := x }).ahead l (.fe l full)
    | .error _ => true
  | .version (.mem space va) eq v =>
    (s.liveVersions space va).any (fun k => if eq then k.num = v else decide (k.num.toNat ≤ v.toNat)) ||
      (match s.judge space va with | .ok _ => false | .error _ => true)
  | .phase l ph =>
    match s.phaseAt l with
    | .ok (_, n) => n ≠ ph
    | .error _ => true
  | _ => false

/-- Does the context run in its cell's slot or as a guest of a pantry core? -/
def Ctx.running (c : Ctx) : Bool := c.resident || c.migrated

/-- A home's release reaches a parked slot or guest, which runs on (05 R131; 09 R206). -/
def execParkedWake (ctx : Nat) (s : State) : Host.Outcome State Fault Refusal :=
  if (s.ctx ctx).running && s.released ctx then .next (s.retry ctx) else .next s

/-- A request that found its wait list full retries after its back-off (05 R97). -/
def execFeBackoffRetry (ctx : Nat) (s : State) : Host.Outcome State Fault Refusal :=
  let c := s.ctx ctx
  match c.wait with
  | .backoff t _ => if c.running && decide (t ≤ s.cyc (dieOfCell c.cell)) then .next (s.retry ctx) else .next s
  | _ => .next s

/-- The reference tick of an `idle` comes, and it completes (04 R84). -/
def execIdleWake (ctx : Nat) (s : State) : Host.Outcome State Fault Refusal :=
  let c := s.ctx ctx
  match c.wait with
  | .tick t => if c.resident && decide (t ≤ s.ref (dieOfCell c.cell)) then .next (s.retry ctx) else .next s
  | _ => .next s

/-! ## L1 (10 R213-R215) -/

/-- The read lease of a line ends: dirty bytes go back, and the line goes (R214). -/
def execL1ReadLeaseEnd (cell line : Nat) (s : State) : Host.Outcome State Fault Refusal :=
  match tfind (s.cell cell).l1 line with
  | some l => if s.readLeaseOver cell l then .next (s.l1Flush cell line) else .next s
  | none => .next s

/-- Has a line been dirty for 4,096 cycles (R215)? -/
def State.dirtyOver (s : State) (cell : Nat) (l : L1Line) : Bool :=
  !l.guarded && l.dirty ≠ 0 && decide (l.dirtySince + 4096 ≤ s.cyc (dieOfCell cell))

/-- Its bytes go to L2, and it stays shared with a fresh read lease (R213, R215). -/
def execDirtyLineTimeout (cell line : Nat) (s : State) : Host.Outcome State Fault Refusal :=
  match tfind (s.cell cell).l1 line with
  | some l => if s.dirtyOver cell l then .next (s.l1WriteBack cell line) else .next s
  | none => .next s

/-- The cell evicts a line of its own choice (R215). -/
def execL1Eviction (cell line : Nat) (s : State) : Host.Outcome State Fault Refusal := .next (s.l1Flush cell line)

/-- The dirty bytes of a line reach its home slice, and it is shared with a fresh read lease (R213, R215). -/
def execL1Writeback (cell line : Nat) (s : State) : Host.Outcome State Fault Refusal := .next (s.l1WriteBack cell line)

/-! ## L2 and DRAM (10 R218, R219; 17 R336; 19 R352) -/

/-- L2 evicts a line that no residency holds. -/
def execL2Eviction (die pa : Nat) (s : State) : Host.Outcome State Fault Refusal :=
  match tfind (s.die die).l2 pa with
  | some l => if s.residentLine l then .next s else .next (s.l2Evict die pa)
  | none => .next s

/-- An L2 miss is translated and filled under its name, through the Sieve (17 R335, R336). -/
def execL2Fill (sid : BitVec 16) (va : Word) (s : State) : Host.Outcome State Fault Refusal :=
  match s.page sid.toNat va.toNat with
  | some p => .next (s.l2Fill p va.toNat).1
  | none => .next s

/-- A dirty line is written to DRAM and stays clean (19 R352). -/
def execDramWriteback (die pa : Nat) (s : State) : Host.Outcome State Fault Refusal :=
  match tfind (s.die die).l2 pa with
  | some l =>
    if l.dirty then
      .next ((s.dramWrite die pa l).modDie die fun d => { d with l2 := tset d.l2 pa { l with dirty := false } })
    else .next s
  | none => .next s

end Sys2Proof.Machine
end

