-- ==== Sys2Proof/Machine/Peers.lean ====
section
/-! DEFINITION. Delivery contexts: both ends, retransmission and the reply cache; external ports (14 R291-R294; 21 R367). -/

namespace Sys2Proof.Machine

/-! ## The sender end (R291, R292, R294) -/

/-- The sender end of a context number. -/
def State.senderEnd (s : State) (num : Nat) : Option (Nat × DEnd) := s.ends.find? fun p => p.2.sender && p.2.num = num

def State.setEnd (s : State) (k : Nat) (e : DEnd) : State := { s with ends := tset s.ends k e }

/-- A request ends with an answer, or in STALE (R294). -/
def State.answerPeer (s : State) (k : Nat) (e : DEnd) (seq : Nat) (v : Option Word) : State :=
  match tfind e.unanswered seq with
  | none => s
  | some (n, _, _) =>
    let s := s.touchEnd k { e with unanswered := tdel e.unanswered seq }
    match tfind s.packets n, v with
    | some p, some w => s.setPkt n { p with st := .performed w (p.op.flagsOn w) }
    | some p, none => s.setPkt n { p with st := .refused cSTALE }
    | none, _ => s

/-- A reply, or a STALE reply, reaches the sender end. -/
def execDeliveryReplyArrival (ctxnum seq : Nat) (stale : Bool) (v : Word) (s : State) : Host.Outcome State Fault Refusal :=
  match s.senderEnd ctxnum with
  | none => .next s
  | some (k, e) => .next (s.answerPeer k e seq (if stale then none else some v))

/-- Ticks before the next sending, after `tries` retransmissions: 64, doubling, up to 8,192 (R292). -/
def retryDelay (tries : Nat) : Nat := min (64 * 2 ^ tries) 8192

/-- An unanswered request is sent again. -/
def execRetransmitTimer (ctxnum seq : Nat) (s : State) : Host.Outcome State Fault Refusal :=
  match s.senderEnd ctxnum with
  | none => .next s
  | some (k, e) =>
    match tfind e.unanswered seq with
    | none => .next s
    | some (n, tries, at_) =>
      if tries < 8 ∧ at_ + retryDelay tries ≤ s.ref e.die then
        .next (s.touchEnd k { e with unanswered := tset e.unanswered seq (n, tries + 1, s.ref e.die) })
      else .next s

/-- A request unanswered after the eighth retransmission ends in STALE. -/
def execRetransmitExhausted (ctxnum seq : Nat) (s : State) : Host.Outcome State Fault Refusal :=
  match s.senderEnd ctxnum with
  | none => .next s
  | some (k, e) =>
    match tfind e.unanswered seq with
    | none => .next s
    | some (_, tries, at_) =>
      if 8 ≤ tries ∧ at_ + 8192 ≤ s.ref e.die then .next (s.answerPeer k e seq none) else .next s

/-! ## The receiving end (R293) -/

/-- Bytes that a request from outside reaches. -/
def outsideSize : OutsideOp → Nat
  | .load n => n
  | .store data => data.length
  | .amo _ ty _ _ => amoSize ty
  | .take | .give _ => 8

/-- Is it a request that partition memory can serve: up to the 1,024 bytes of a copy step, a word of an atomic or of a take or give
aligned (log 62)? -/
def outsideFits (op : OutsideOp) (va : Word) : Bool :=
  decide (0 < outsideSize op ∧ Config.memBase ≤ va.toNat ∧ va.toNat + outsideSize op ≤ Config.memTop) &&
    match op with
    | .load _ | .store _ => decide (outsideSize op ≤ 1024)
    | _ => decide (va.toNat % outsideSize op = 0)

/-- Read pieces, each of one line, at their home slices. -/
def State.readOutside (s : State) (part : Nat) : List (Nat × Nat) → Except Byte (State × List Byte)
  | [] => .ok (s, [])
  | (a, n) :: t => do
    let (s, bs) ← s.homeRead (.mem (spaceOf part) a) n
    let (s, rest) ← s.readOutside part t
    return (s, bs ++ rest)

/-- Write pieces, each of one line, at their home slices. -/
def State.writeOutside (s : State) (part va : Nat) (data : List Byte) : List (Nat × Nat) → Except Byte State
  | [] => .ok s
  | (a, n) :: t => do
    let s ← s.lineModify (spaceOf part) a fun b o => b.write o ((data.drop (a - va)).take n)
    s.writeOutside part va data t

/-- What the host or a peer does to partition memory at its home slice (10 R218). The protection of the fault queue's ring is
against threads alone (17 R332). -/
def State.serveOutside (s : State) (part va : Nat) (op : OutsideOp) : Except Byte (State × HostOut) := do
  let l := Loc.mem (spaceOf part) va
  match op with
  | .load n =>
    let (s, bs) ← s.readOutside part (linePieces va n)
    return (s, if n ≤ 8 then .value (BitVec.ofNat 64 (leNat bs)) else .bytes bs)
  | .store data =>
    let s ← s.writeOutside part va data (linePieces va data.length)
    return (s, .none)
  | .take =>
    let (s, bs) ← s.homeRead l 8
    let s ← s.lineModify (spaceOf part) va fun b o => { b with full := ndel b.full (o / 8) }
    return (s, .value (BitVec.ofNat 64 (leNat bs)))
  | .give v =>
    let s ← s.lineModify (spaceOf part) va fun b o => b.write o (leBytes v.toNat 8)
    return (s, .none)
  | .amo op ty v exp =>
    let (s, bs) ← s.homeRead l (amoSize ty)
    let new := (amoNew op ty (leNat bs) v.toNat exp.toNat).1
    let s ← s.lineModify (spaceOf part) va fun b o => b.write o (leBytes new (amoSize ty))
    return (s, .value (BitVec.ofNat 64 (leNat bs)))

/-- Serve a request, or refuse it. -/
def State.serve (s : State) (part : Nat) (va : Word) (op : OutsideOp) : State × HostOut :=
  if outsideFits op va then
    match s.serveOutside part va.toNat op with
    | .ok r => r
    | .error e => (s, .refused e)
  else (s, .refused cXLATE)

/-- Does a take wait for a full word, or a give for an empty one (05 R97)? -/
def State.outsideWaits (s : State) (part : Nat) (va : Word) (op : OutsideOp) : Bool :=
  let full : Option Bool := match s.homeFull (.mem (spaceOf part) va.toNat) with | .ok r => some r.2 | .error _ => none
  outsideFits op va &&
    match op with
    | .take => full == some false
    | .give _ => full == some true
    | _ => false

/-- Apply a request at an end: once, with its reply kept. -/
def State.applyFrame (s : State) (k : Nat) (e : DEnd) (f : PeerFrame) : State × DEnd :=
  let (s, r) := s.serve f.part f.va f.op
  let e' : DEnd := { e with seq := f.seq + 1, cache := tset e.cache f.seq r, kept := e.kept.filter fun g => g.seq ≠ f.seq }
  ({ s.touchEnd k e' with hostOut := r }, { e' with lastAt := s.ref e.die })

/-- Is a request at an end held back: by a quiesce point of its partition (17 R337), or by the state of its word? Those after it
wait with it, so that they are applied in order (log 62: DESIGN CHOICE). -/
def State.heldBack (s : State) (f : PeerFrame) : Bool := (s.part f.part).quiescing || s.outsideWaits f.part f.va f.op

/-- The kept request that an end applies next: it fills the gap, and nothing holds it back. -/
def State.nextKept (s : State) (e : DEnd) : Option PeerFrame := e.kept.find? fun f => f.seq = e.seq && !s.heldBack f

/-- Apply the kept requests that nothing holds back any more. -/
def State.applyKept (s : State) (k : Nat) (e : DEnd) : Nat → State
  | 0 => s
  | n + 1 =>
    match s.nextKept e with
    | some f => let (s, e) := s.applyFrame k e f; s.applyKept k e n
    | none => s

/-- Keep a request at its end. -/
def DEnd.keep (e : DEnd) (f : PeerFrame) : DEnd :=
  if e.kept.any fun g => g.seq = f.seq then e else { e with kept := e.kept ++ [f] }

/-- The receiving end in force for a context number of a peer. -/
def State.receiverEnd (s : State) (peer num : Nat) : Option (Nat × DEnd) :=
  s.ends.find? fun p => !p.2.sender && p.2.peer = peer && p.2.num = num && s.endHeld p.1

/-- A receiving end applies the requests that it has kept and that nothing holds back any more. -/
def State.endGoesOn (k : Nat) (s : State) : Host.Outcome State Fault Refusal :=
  match tfind s.ends k with
  | some e => if e.sender then .next s else .next (s.applyKept k e 64)
  | none => .next s

/-- A packet at the receiving end: applied once in order, answered again, kept, dropped, or answered STALE. One that is held back is
kept. -/
def execDeliveryFrameArrival (peer : Nat) (frame : PeerFrame) (s : State) : Host.Outcome State Fault Refusal :=
  if !isPeer peer || !s.peerUp peer then .next s
  else
    let apply (s : State) (k : Nat) (e : DEnd) : State :=
      if s.heldBack frame then s.touchEnd k (e.keep frame)
      else
        let (s, e) := s.applyFrame k e frame
        s.applyKept k e 64
    match s.receiverEnd peer frame.ctxnum with
    | none =>
      if frame.retransmit then .next { s with hostOut := .refused cSTALE }
      else
        let (s, k, e) := s.addEnd false peer (some frame.ctxnum) frame.part
        .next (apply s k e)
    | some (k, e) =>
      if frame.seq < e.seq then .next { s.touchEnd k e with hostOut := (tfind e.cache frame.seq).getD .none }
      else if frame.seq = e.seq then .next (apply s k e)
      else if frame.seq < e.seq + 64 then .next (s.touchEnd k (e.keep frame))
      else .next (s.touchEnd k e)

/-- Is an end quiet for 4,096 ticks? A sender end does not count while a packet is unanswered (R291). -/
def State.endQuiet (s : State) (e : DEnd) : Bool :=
  decide (e.lastAt + 4096 ≤ s.ref e.die) && (!e.sender || e.unanswered.isEmpty)

/-- The lease of an end. -/
def State.leaseOfEnd (s : State) (k : Nat) : Option (Nat × Lease) := s.leases.find? fun p => p.2.obj = .delivery k && p.2.alive

/-- A quiet end lapses: it passes to LAPSING, at whose end its reply cache is discarded (R291). -/
def execDeliveryContextQuiet (endId : Nat) (s : State) : Host.Outcome State Fault Refusal :=
  match tfind s.ends endId, s.leaseOfEnd endId with
  | some e, some (n, _) => if s.endQuiet e then .next (s.lapse 8 n) else .next s
  | _, _ => .next s

/-! ## Ports (21 R367) -/

/-- A port loses its link. Frames in flight on it are lost; their senders time out. -/
def execPortLinkDown (port : Nat) (s : State) : Host.Outcome State Fault Refusal :=
  if port < 8 ∧ s.rdy then .next { s with pup := s.pup &&& ~~~(1#8 <<< port) } else .next s

/-- A port regains its link. -/
def execPortLinkUp (port : Nat) (s : State) : Host.Outcome State Fault Refusal :=
  if port < 8 ∧ s.rdy then .next { s with pup := s.pup ||| (1#8 <<< port) } else .next s

/-- Does a request come from a peer alone? -/
def peerOnly : OutsideOp → Bool
  | .take | .give _ => true
  | _ => false

/-- A host access to partition memory, served at its home slice (10 R218), or held while the partition is at a quiesce point
(17 R337). -/
def execHostMemoryAccess (part : Nat) (va : Word) (op : OutsideOp) (s : State) : Host.Outcome State Fault Refusal :=
  if peerOnly op then .next s
  else if (s.part part).quiescing then .next (s.modPart part fun p => { p with heldHost := p.heldHost ++ [(va, op)] })
  else
    let (s, r) := s.serve part va op
    .next { s with hostOut := r }

/-- A quiesce point ends: what it held is performed, in order per source (17 R337). -/
def State.releaseHeld (s : State) (part : Nat) : State :=
  let l := (s.part part).heldHost
  let s := s.modPart part fun p => { p with quiescing := false, heldHost := [] }
  let s := l.foldl (fun s a => let (s, r) := s.serve part a.1 a.2; { s with hostOut := r }) s
  s.ends.foldl (fun s e => if e.2.sender then s else s.applyKept e.1 e.2 64) s

end Sys2Proof.Machine
end

