-- ==== Sys2Proof/Machine/System.lean ====
section
/-! DEFINITION. System and budget instructions (04 R76-R91). -/

namespace Sys2Proof.Machine

/-! ## Control and status registers (R77-R79) -/

/-- The value of a CSR of the acting context in the cycle of issue (R77; 13 R263: lvt, gvt and svt read zero outside
optimistic mode). -/
def State.csr (s : State) (n : BitVec 12) : Word :=
  let c := s.self
  let vt (v : BitVec 48) : Word := if c.opt then v.zeroExtend 64 else 0
  let trap (t : TrapRegs) (k : Nat) : Word :=
    match k with
    | 0 => t.epc
    | 1 => t.pl.zeroExtend 64
    | 2 => t.cause.zeroExtend 64
    | 3 => t.word.zeroExtend 64
    | 4 => t.addr
    | _ => t.tvec
  match n.toNat with
  | 0x000 => c.tsw
  | 0x001 => c.fflags.zeroExtend 64
  | 0x002 => c.mfl.zeroExtend 64
  | 0x010 => BitVec.ofNat 64 s.tick
  | 0x011 => BitVec.ofNat 64 s.now
  | 0x020 => c.pst0.zeroExtend 64
  | 0x021 => c.pst1.zeroExtend 64
  | 0x022 => c.pst2.zeroExtend 64
  | 0x030 => vt c.lvt
  | 0x031 => vt c.gvt
  | 0x032 => vt c.svt
  | 0x040 => c.dl
  | 0x041 => c.bud
  | 0x100 => trap c.t1 0
  | 0x101 => trap c.t1 1
  | 0x102 => trap c.t1 2
  | 0x103 => trap c.t1 3
  | 0x104 => trap c.t1 4
  | 0x108 => trap c.t1 8
  | 0x200 => trap c.t2 0
  | 0x201 => trap c.t2 1
  | 0x202 => trap c.t2 2
  | 0x203 => trap c.t2 3
  | 0x204 => trap c.t2 4
  | 0x208 => trap c.t2 8
  | _ => 0

/-- Write the writable fields of a trap CSR (17 R327; 0b11 in etsw.pl keeps the field, 00 R4). -/
def TrapRegs.write (t : TrapRegs) (k : Nat) (v : Word) : TrapRegs :=
  match k with
  | 0 => { t with epc := v }
  | 1 => if v &&& 3 = 3 then t else { t with pl := v.truncate 2 }
  | 8 => { t with tvec := v &&& ~~~3 }
  | _ => t

/-- Write the writable fields of a CSR; the others keep their value (R77, R79). -/
def Ctx.writeCsr (c : Ctx) (n : BitVec 12) (v : Word) : Ctx :=
  match n.toNat with
  | 0x001 => { c with fflags := v.truncate 5 }
  | 0x002 => { c with mfl := v.truncate 5 }
  | 0x100 => { c with t1 := c.t1.write 0 v }
  | 0x101 => { c with t1 := c.t1.write 1 v }
  | 0x108 => { c with t1 := c.t1.write 8 v }
  | 0x200 => { c with t2 := c.t2.write 0 v }
  | 0x201 => { c with t2 := c.t2.write 1 v }
  | 0x208 => { c with t2 := c.t2.write 8 v }
  | _ => c

/-- Do engine operations of the context still owe flags to `fflags` (02 R31)? -/
def State.flagsOwed (s : State) (x : Nat) : Bool :=
  s.cells.any fun p => (p.2.mq ++ p.2.cq).any fun o => o.ctx = x && o.local_

/-- The common course of the four operations: privilege, the wait for flags, the indivisible read and write (R78, R79).
A read of `gvt` is an acquire (11 R231). -/
def State.csrOp (s : State) (d : BitVec 5) (n : BitVec 12) (f : Word → Option Word) : Host.Outcome State Fault Refusal :=
  conclude do
    s.require (decide (n.toNat / 256 % 4 ≤ s.self.pl.toNat)) cPRIV 0
    if n.toNat = 1 ∧ s.flagsOwed s.cur then s.again
    let old := s.csr n
    let s := match f old with
      | some v => s.mod fun c => c.writeCsr n v
      | none => s
    let s := if n.toNat = 0x031 then s.acquire s.cur else s
    return (s.wx d old).finish

/-- Read a CSR (R79). -/
def execCsrr (d : BitVec 5) (n : BitVec 12) (s : State) : Host.Outcome State Fault Refusal :=
  s.csrOp d n fun _ => none

/-- Write a CSR (R79). -/
def execCsrw (d a : BitVec 5) (n : BitVec 12) (s : State) : Host.Outcome State Fault Refusal :=
  s.csrOp d n fun _ => some (s.rx a)

/-- Set bits of a CSR (R79). -/
def execCsrs (d a : BitVec 5) (n : BitVec 12) (s : State) : Host.Outcome State Fault Refusal :=
  s.csrOp d n fun old => some (old ||| s.rx a)

/-- Clear bits of a CSR (R79). -/
def execCsrc (d a : BitVec 5) (n : BitVec 12) (s : State) : Host.Outcome State Fault Refusal :=
  s.csrOp d n fun old => some (old &&& ~~~(s.rx a))

/-! ## Traps, return, halting -/

/-- A software trap with code n; the saved pc is pc + 4 (R80, 17 R325). -/
def execTrap (n : BitVec 12) (s : State) : Host.Outcome State Fault Refusal :=
  let c := s.self
  .next (s.endInTrap
    { cause := n.zeroExtend 13 ||| 0x1000, code := cSWTRAP, epc := c.pc + 4, word := s.word, addr := 0
      info := s.word.zeroExtend 64 })

/-- Return from the trap level (R81). -/
def execEret (s : State) : Host.Outcome State Fault Refusal := .next s.eret

/-- End the thread once its posted operations and engine work are done; its slot is EMPTY from the next cycle (R82; its dirty
lines are written back, 10 R215). -/
def execHalt (s : State) : Host.Outcome State Fault Refusal :=
  conclude do
    s.illInOpt
    let s := s.releaseLines s.cur
    if coverAll.pending s.self || s.engineWork s.cur then s.again
    return s.endCtxAt s.cur (s.now + 1)

/-- The slot's next issue comes 16 cycles after this one in SHARED rotation; in FIXED rotation there is no effect beyond the
issue (R83). The mode in use at the `yield` decides, also when it changes before the next issue (log 71: DESIGN CHOICE). -/
def execYield (s : State) : Host.Outcome State Fault Refusal :=
  .next (s.mod fun c => { c with gap := if (s.cell c.cell).mode then 16 else c.gap }).finish

/-- Wait for a reference tick (R84). -/
def execIdle (d a : BitVec 5) (s : State) : Host.Outcome State Fault Refusal :=
  let t := (s.rx a).toNat
  if s.tick < t then .next (s.stall (.tick t))
  else .next (s.wx d (BitVec.ofNat 64 s.tick)).finish

/-- Place a sibling thread, or answer a status (R85). -/
def execSpawn (d a b : BitVec 5) (s : State) : Host.Outcome State Fault Refusal :=
  let c := s.self
  if c.opt then s.result d (status 4)
  else if s.rx a &&& 3 ≠ 0 then s.result d (status 3)
  else if s.quota c.entry ≤ s.threadsOf c.entry c.cell then s.result d (status 2)
  else
    match s.freeSlot c.cell with
    | none => s.result d (status 1)
    | some k =>
      let (bud, dl) := match c.entry.bind (tfind s.entries) with
        | some e => (e.figure, e.deadline)
        | none => (c.bud, c.dl)
      let (s', _) := s.newCtx (c.sibling k (s.rx a) (s.rx b) bud dl s.now)
      .next (s'.wx d (BitVec.ofNat 64 k)).finish

/-- Halt the slot for debug and report it (R87). -/
def execBrk (_n : BitVec 12) (s : State) : Host.Outcome State Fault Refusal :=
  let pc := s.self.pc
  let s := s.finish.mod fun c => { c with sst := .halted }
  .next (s.reportCtx s.cur cBRK false 0 pc (s.word.zeroExtend 64))

/-! ## Budget instructions (R88-R91) -/

/-- The charges of the context's cell, and of the pantry cores where it may have run (numbers from 512 on), reach the admitting
Prompter and are applied (R90, R91; 16 R312). -/
def State.bringCharges (s : State) : State :=
  match s.self.entry with
  | none => s
  | some n =>
    match tfind s.entries n with
    | none => s
    | some e =>
      let from_ := s.self.cell :: (s.cells.map (·.1)).filter fun k => decide (512 ≤ k)
      (from_.foldl (fun s k => s.sendCharges k n) s).applyCharges e.die

/-- The answer to a budget request. -/
def State.budgetAnswer (s : State) (r : BudgetReq) : State × Word :=
  match (s.ctx r.ctx).entry with
  | none => (s, status 7)
  | some n =>
    if r.budx then s.performBudx n r.ctx r.num r.units
    else match tfind s.entries n with
      | some e => (s, e.bget r.k)
      | none => (s, 0)

/-- The answer reaches the cell and completes the instruction (R90, R91). -/
def State.budgetDone (s : State) (r : BudgetReq) (v : Word) : State :=
  let s := { s with cur := r.ctx }
  let s := if r.budx then s.mod fun c => { c with budxNum := c.budxNum + 1 } else s
  (s.wx r.xd v).finish

/-- Has the Prompter of a die made its test of this cycle (16 R312)? -/
def State.hasTested (s : State) (die : Nat) : Bool := (s.die die).tested = some (s.cyc die)

/-- It makes it now. -/
def State.noteTest (s : State) (die : Nat) : State := s.modDie die fun d => { d with tested := some d.cyc }

/-- The Prompter that a context's budget requests go to. -/
def State.prompterOf (s : State) (x : Nat) : Option Nat := (((s.ctx x).entry).bind (tfind s.entries)).map (·.die)

/-- Is the request a test that its Prompter cannot make in this cycle (16 R312)? A `bget` is none. -/
def State.testWaits (s : State) (r : BudgetReq) : Bool :=
  r.budx && match s.prompterOf r.ctx with | some d => s.hasTested d | none => false

/-- The Prompter answers a request; a `budx` is its test of the cycle (16 R312). -/
def State.answerBudget (s : State) (r : BudgetReq) : State × Word :=
  let s := match s.prompterOf r.ctx with
    | some d => if r.budx then s.noteTest d else s
    | none => s
  s.budgetAnswer r

/-- Send a budget request: performed at once, or left in flight (log 10), as one that meets a Prompter which has made its test of the
cycle is. -/
def State.sendBudget (s : State) (r : BudgetReq) : State :=
  let (held, s) := s.takeHold
  if held || s.testWaits r then
    let (n, s) := s.takeFresh
    { s with breqs := tset s.breqs n r }.stall (.budget n)
  else
    let (s, v) := s.answerBudget r
    s.budgetDone r v

/-- Ask for more budget (R90). -/
def execBudx (d a : BitVec 5) (s : State) : Host.Outcome State Fault Refusal :=
  conclude do
    let u := s.rx a
    let s := s.bringCharges
    if s.engineWork s.cur then s.again
    return s.sendBudget { ctx := s.cur, budx := true, units := u, num := s.self.budxNum, xd := d }

/-- Read a budget figure (R91): the context's own engine work, copies, remote updates and matrix commands come first. -/
def execBget (d : BitVec 5) (k : BitVec 2) (s : State) : Host.Outcome State Fault Refusal :=
  conclude do
    let s := s.bringCharges
    if s.engineWork s.cur || s.updatesOf s.cur then s.again
    return s.sendBudget { ctx := s.cur, budx := false, k := k, num := s.self.budxNum, xd := d }

end Sys2Proof.Machine
end

