-- ==== Sys2Proof/Machine/Prompter.lean ====
section
/-! DEFINITION. The Prompter: queues and admission, dispatch, placement, pre-emption and restores, charges and refreshes
(04 R90, R91; 09 R203, R204; 15 R295-R310, R379; 16 R311-R324; 17 R326; 21 R374). -/

namespace Sys2Proof.Machine

/-! ## Charges, budgets and refreshes (16 R312, R313, R316, R317) -/

/-- A cell or pantry core sends its unsent count at 256 units, or 256 cycles after its first unit. -/
def State.batchDue (s : State) (cell entry : Nat) : Bool :=
  match tfind (s.cell cell).unsent entry with
  | some u => decide (256 ≤ u.units) || decide (u.since + 256 ≤ s.cyc (dieOfCell cell))
  | none => false

def execChargeBatchSend (cell entry : Nat) (s : State) : Host.Outcome State Fault Refusal :=
  if s.batchDue cell entry then .next (s.sendCharges cell entry) else .next s

/-- The Prompter applies every charge that has arrived. -/
def execChargeApply (die : Nat) (s : State) : Host.Outcome State Fault Refusal := .next (s.applyCharges die)

/-- The grace count reaches its limit, and the entry passes to SPENT. -/
def execGraceCountExhausted (entry : Nat) (s : State) : Host.Outcome State Fault Refusal :=
  match tfind s.entries entry with
  | some _ => .next (s.exhaust entry)
  | none => .next s

/-- A refresh reaches a cell: the oldest one on its way for the entry. -/
def execBudRefresh (cell entry : Nat) (s : State) : Host.Outcome State Fault Refusal :=
  match s.refreshes.find? fun r => r.1 = cell && r.2.1 = entry with
  | none => .next s
  | some r =>
    let s := { s with refreshes := s.refreshes.erase r }
    .next { s with ctxs := s.ctxs.map fun (p : Nat × Ctx) =>
      if p.2.entry = some entry ∧ p.2.cell = cell then (p.1, { p.2 with bud := r.2.2.1, dl := r.2.2.2 }) else p }

/-- The Prompter answers a budget request, after the charges that have arrived (R312). -/
def State.serveBudget (s : State) (req : Nat) (budx : Bool) : State :=
  match tfind s.breqs req with
  | none => s
  | some r =>
    if r.budx ≠ budx ∨ r.answer.isSome ∨ s.testWaits r then s
    else
      let s := match ((s.ctx r.ctx).entry).bind (tfind s.entries) with
        | some e => s.applyCharges e.die
        | none => s
      let (s, v) := s.answerBudget r
      { s with breqs := tset s.breqs req { r with answer := some v } }

/-- A `budx` at its Prompter (04 R90). -/
def execBudxRequest (req : Nat) (s : State) : Host.Outcome State Fault Refusal := .next (s.serveBudget req true)

/-- A `bget` at its Prompter (04 R91). -/
def execBgetRequest (req : Nat) (s : State) : Host.Outcome State Fault Refusal := .next (s.serveBudget req false)

/-- The reply reaches the cell and completes the instruction (04 R90, R91). -/
def execBudgetReplyArrival (req : Nat) (s : State) : Host.Outcome State Fault Refusal :=
  match tfind s.breqs req with
  | none => .next s
  | some r =>
    match r.answer with
    | none => .next s
    | some v =>
      let s := { s with breqs := tdel s.breqs req }
      if (s.ctx r.ctx).wait = .budget req then .next (s.budgetDone r v) else .next s

/-- Does the slot, or the guest slot of a migrated thread, take the BUDGET trap at its next issue: nothing is in flight, and no
rollback or other trap comes first (01 R18; 16 R316, R324)? -/
def Ctx.budgetTurn (c : Ctx) : Bool :=
  c.bp && !c.rbp && !c.grpLapsed && c.poisoned.isEmpty && c.running && c.vacating.isNone && c.sst == .ready && !c.charged

/-- The BUDGET trap, in place of an issue (R316). -/
def execBudgetTrap (ctx : Nat) (s : State) : Host.Outcome State Fault Refusal :=
  match tfind s.ctxs ctx with
  | none => .next s
  | some c =>
    if c.budgetTurn then
      .next ((s.noteTurn ctx).takeTrap ctx
        { cause := cBUDGET.zeroExtend 13, code := cBUDGET, epc := c.pc, word := 0, addr := c.bud, info := c.bud })
    else .next s

/-! ## Queue registers (15 R296) -/

/-- Entries pending: (tail - head) mod 512. -/
def pendingOf (tail head : BitVec 9) : Nat := (tail - head).toNat

/-- A write of `qtail`. -/
def execQtailWrite (part die : Nat) (v : Word) (s : State) : Host.Outcome State Fault Refusal :=
  if (s.part part).flr.isSome then .next s
  else .next (s.modPdie part die fun p =>
    let t : BitVec 9 := v.truncate 9
    if 256 < pendingOf t p.qhead then { p with ovf := true } else { p with qtail := t })

/-- A write of `qbase`. -/
def execQbaseWrite (part die : Nat) (v : Word) (s : State) : Host.Outcome State Fault Refusal :=
  if (s.part part).flr.isSome then .next s
  else .next (s.modPdie part die fun p =>
    if p.qtail ≠ p.qhead then p else { p with qbase := v.toNat / 2 ^ 16 % 2 ^ 32 * 2 ^ 16 })

/-- A die's policy registers after a write of `qpol`: a field above its range keeps its value (15 R296). -/
def PartDie.setPolicy (p : PartDie) (v : Word) : PartDie :=
  let share := v.toNat % 512
  let lf := v.toNat / 2 ^ 9 % 32
  let cap := v.toNat / 2 ^ 16 % 2048
  { p with
    share := if share ≤ 256 then share else p.share
    lf := if lf ≤ 16 then lf else p.lf
    slotcap := if cap ≤ 1920 then cap else p.slotcap }

/-- Does firmware reach a die's management space: only the house cores do, while they run (21 R367, R374)? -/
def State.firmware (s : State) (die : Nat) : Bool := s.house != 0 && decide (die < Config.dies)

/-- A write of `mqpol` by firmware (21 R374). -/
def execMqpolWrite (die part : Nat) (v : Word) (s : State) : Host.Outcome State Fault Refusal :=
  if s.firmware die && decide (part < 64) then .next (s.modPdie part die fun p => p.setPolicy v) else .next s

/-! ## Queue entries (15 R297, R298, R379) -/

/-- A field of a little-endian record. -/
def fieldOf (bs : List Byte) (lo n : Nat) : Nat := leNat bs / 2 ^ lo % 2 ^ n

/-- A queue entry as it is read. -/
structure QEntry where
  q      : Nat
  pl     : BitVec 2
  bg     : Bool
  seeds  : List (Nat × Word)
  tag    : BitVec 16
  pc     : Word
  cells  : List Nat
  dlrel  : Nat
  life   : Nat
  budget : Nat
  parent : Word
  lla    : Nat
  llc    : Nat
  dlc    : Nat

/-- The seed values: the eight lowest-numbered registers whose bits are set (R297). -/
def seedsOf (bs : List Byte) : List (Nat × Word) :=
  let regs := ((List.range 31).filter fun k => fieldOf bs (8 + k) 1 = 1).take 8
  regs.zipIdx.map fun p => (p.1 + 1, BitVec.ofNat 64 (fieldOf bs (512 + 64 * p.2) 64))

def QEntry.ofBytes (die : Nat) (bs : List Byte) : QEntry :=
  { q := fieldOf bs 0 4, pl := BitVec.ofNat 2 (fieldOf bs 4 1), bg := fieldOf bs 5 1 == 1, seeds := seedsOf bs
    tag := BitVec.ofNat 16 (fieldOf bs 48 16), pc := BitVec.ofNat 64 (fieldOf bs 64 48 / 4 * 4)
    cells := ((List.range 128).filter fun k => fieldOf bs (128 + k) 1 = 1).map (· + 128 * die)
    dlrel := fieldOf bs 256 32, life := fieldOf bs 288 32, budget := fieldOf bs 320 48
    parent := BitVec.ofNat 64 (fieldOf bs 384 64), lla := fieldOf bs 448 48, llc := fieldOf bs 496 4, dlc := fieldOf bs 500 12 }

/-- A lease list entry (R298). -/
structure LEntry where
  kind : Nat
  cix  : Nat
  tix  : Nat
  life : Nat
  obj  : Word

def LEntry.ofBytes (bs : List Byte) : LEntry :=
  { kind := fieldOf bs 0 8, cix := fieldOf bs 8 8, tix := fieldOf bs 16 4, life := fieldOf bs 32 32, obj := BitVec.ofNat 64 (fieldOf bs 64 64) }

/-- A scratchpad data entry (R379). -/
structure DEntry where
  src : Nat
  off : Nat
  len : Nat
  cix : Nat

def DEntry.ofBytes (bs : List Byte) : DEntry :=
  { src := fieldOf bs 0 48, off := fieldOf bs 64 20, len := fieldOf bs 84 21, cix := fieldOf bs 105 8 }

/-- Read 16-byte records at a partition address. -/
def State.readRecords (s : State) (part a : Nat) : Nat → Except Byte (List (List Byte))
  | 0 => .ok []
  | n + 1 => do
    let (_, bs) ← s.homeRead (.mem (spaceOf part) a) 16
    let t ← s.readRecords part (a + 16) n
    return bs :: t

/-- The lists of an entry: they lie in partition memory, and their records can be read (log 22). -/
def State.listsOf (s : State) (part lla llc dlc : Nat) : Except Byte (List LEntry × List DEntry) := do
  let l ← s.readRecords part lla llc
  let d ← s.readRecords part (lla + 16 * llc) dlc
  return (l.map LEntry.ofBytes, d.map DEntry.ofBytes)

/-- An object that R115 calls malformed. A class is any of 0-15. -/
def LEntry.badObj (e : LEntry) : Bool :=
  if e.kind = 2 then
    let base := e.obj.toNat / 4096 * 4096
    e.obj.toNat % 4096 / 256 ≠ 0 || base < Config.viewBase || Config.viewBase + Config.viewSize < base + (e.obj.toNat % 256 + 1) * 4096
  else if e.kind = 3 then decide (4 ≤ e.obj.toNat)
  else decide (16 ≤ e.obj.toNat)

def LEntry.bad (e : LEntry) (q ncells : Nat) : Bool :=
  !(e.kind == 2 || e.kind == 3 || e.kind == 4) || (e.cix ≠ 0xFF && decide (ncells ≤ e.cix)) ||
    decide (q ≤ e.tix) || e.life = 0 || e.badObj

def DEntry.bad (e : DEntry) (ncells : Nat) : Bool :=
  e.len = 0 || decide (0x10_0000 < e.off + e.len) || decide (e.src < Config.memBase) || decide (Config.memTop < e.src + e.len) ||
    (e.cix ≠ 0xFF && decide (ncells ≤ e.cix))

/-! ## The tests of admission (15 R302, R303) -/

/-- The parent that an entry names: the partition lease for 0. -/
def State.parentOf (s : State) (part die : Nat) (h : Word) : Option (Nat × Lease) :=
  if h = 0 then s.leases.find? fun p => p.2.obj = .root part && p.2.home = die
  else if badHandle h then none else s.leaseOf h die

/-- Are the lists ill-placed, or one of their records ill-formed (condition 3)? -/
def State.badLists (s : State) (part : Nat) (e : QEntry) : Bool :=
  if e.llc = 0 ∧ e.dlc = 0 then false
  else
    e.lla % 16 ≠ 0 || decide (e.lla < Config.memBase) || decide (Config.memTop < e.lla + 16 * (e.llc + e.dlc)) ||
      match s.listsOf part e.lla e.llc e.dlc with
      | .error _ => true
      | .ok (l, d) => l.any (fun x => x.bad e.q e.cells.length) || d.any fun x => x.bad e.cells.length

/-- Unended entries of a partition on a die. -/
def State.unended (s : State) (part die : Nat) : List (Nat × Entry) :=
  s.entries.filter fun p => p.2.part = part && p.2.die = die && !p.2.ended

def State.ringEnding (s : State) (die cell : Nat) : Bool :=
  s.leases.any fun p =>
    match p.2.obj with
    | .ring _ r => r = ringOfCell cell && p.2.home = die && (p.2.st = .lapsing || p.2.st = .scrubbing)
    | _ => false

def State.holdsRing (s : State) (part die cell : Nat) : Bool :=
  s.leases.any fun p => p.2.obj = .ring part (ringOfCell cell) && p.2.home = die && p.2.alive

/-- The code an entry is refused with (R89), or 0. -/
def State.admitCode (s : State) (part die : Nat) (e : QEntry) : Nat :=
  let pd := s.pdie part die
  let root := match s.rootLease part die with | some l => l.alive | none => false
  let parent := s.parentOf part die e.parent
  let parentAlive := match parent with | some (_, l) => l.alive | none => false
  let badParent : Bool := match parent with
    | some (n, l) => l.part != part || decide (4 < s.depthOf 8 n + 1)
    | none => true
  let claimed := ((s.unended part die).map fun p => p.2.q * p.2.cells.length).sum
  if !root || !parentAlive then 7
  else if e.cells.any (s.ringEnding die) then 8
  else if e.q = 0 ∨ e.cells.isEmpty ∨ !(e.cells.all (s.holdsRing part die)) ∨ s.badLists part e ∨
      badParent then 6
  else if pd.share = 0 ∨ pd.slotcap < claimed + e.q * e.cells.length then 5
  else if 256 ≤ (s.unended part die).length ∨ 2 ^ 15 ≤ s.used (homePrompter die) (fun k => k = 1) then 4
  else if e.budget = 0 ∨ e.life = 0 then 3
  else if e.bg then 0
  else if e.dlrel = 0 then 2
  else if !(s.demandOk part die s.fresh (s.ref die + e.dlrel) (s.die die).admitted e.budget) then 1
  else 0

/-- Grant the context lease (R307): in a free entry of the Prompter, or a new one. -/
def State.grantContext (s : State) (part die n : Nat) (e : QEntry) : State × Nat :=
  let home := homePrompter die
  let old := s.leases.find? fun p =>
    p.2.home = home && p.2.obj.kind = 1 && p.2.st = .lapsed && !(s.leases.any fun q => q.2.parent = some p.1 && q.2.occupied)
  let idx := s.leases.foldl (fun m p => if p.2.home = home ∧ p.2.obj.kind = 1 then max m (p.2.index + 1) else m) 0
  let (k, i, g) : Nat × Nat × Nat := match old with
    | some (k, l) => (k, l.index, l.count)
    | none => (tnext s.leases, idx, 0)
  let l : Lease :=
    { home := home, index := i, obj := .context n, gen := BitVec.ofNat 24 (g + 1), count := g + 1, st := .held, expiry := s.ref die + e.life
      parent := (s.parentOf part die e.parent).map (·.1), pop := some n, part := part, order := s.grants }
  ({ s with leases := tset s.leases k l, grants := s.grants + 1 }, k)

/-- Admit an entry (R301, R307; 16 R314). -/
def State.enterEntry (s : State) (part die : Nat) (e : QEntry) : State × Word × Word :=
  let (n, s) := s.takeFresh
  let (s, k) := s.grantContext part die n e
  let d := s.ref die + e.dlrel
  let x : Entry :=
    { part := part, die := die, q := e.q, pl := e.pl, bg := e.bg, tag := e.tag, pc := e.pc, cells := e.cells, seeds := e.seeds
      lla := e.lla, llc := e.llc, dlc := e.dlc, dline := d, life := e.life, remain := e.budget
      order := (s.die die).admitted, lease := k }
  let s := s.modDie die fun q => { q with admitted := q.admitted + 1 }
  let h := match tfind s.leases k with | some l => l.handle | none => 0
  ({ s with entries := tset s.entries n x }, h, if e.bg then BitVec.allOnes 64 else BitVec.ofNat 64 d)

/-- The Prompter reads the next entry, tests it, one in a cycle (16 R312), and writes its answer (R299-R302). An entry that cannot be
read waits (log 22). -/
def execQueueEntryTest (part die : Nat) (s : State) : Host.Outcome State Fault Refusal :=
  let pd := s.pdie part die
  if !s.rdy ∨ Config.dies ≤ die ∨ pd.qtail = pd.qhead ∨ s.hasTested die then .next s
  else
    let s := s.applyCharges die
    let i := pd.qhead.toNat % 256
    match s.homeRead (.mem (spaceOf part) (pd.qbase + 128 * i)) 128 with
    | .error _ => .next s
    | .ok (s, bs) =>
      let s := s.noteTest die
      let e := QEntry.ofBytes die bs
      let now := s.ref die
      let code := s.admitCode part die e
      let (s, h, d) := if code = 0 then s.enterEntry part die e else (s, 0, 0)
      let answer := word8 (BitVec.ofNat 64 (code + e.tag.toNat * 2 ^ 48)) ++ word8 h ++ word8 d ++ word8 (BitVec.ofNat 64 now)
      let s := match s.deviceWrite (spaceOf part) (pd.qbase + 0x8000 + 32 * i) answer with
        | .ok s => s
        | .error _ => s
      .next ((s.modPdie part die fun p => { p with qhead := p.qhead + 1 }).signal part (1 + die))

/-! ## Dispatch order (15 R305) -/

/-- Does `a` come before `b`? -/
def Entry.ahead (a b : Entry) : Bool :=
  let da := !a.bg && !a.demoted
  let db := !b.bg && !b.demoted
  if da != db then da
  else if da then decide (a.dline < b.dline) || (a.dline == b.dline && decide (a.order < b.order))
  else decide (a.order < b.order)

def insertEntry (x : Nat × Entry) : List (Nat × Entry) → List (Nat × Entry)
  | [] => [x]
  | y :: t => if x.2.ahead y.2 then x :: y :: t else y :: insertEntry x t

/-- The entries of a die in dispatch order. -/
def State.dispatchOrder (s : State) (die : Nat) : List (Nat × Entry) :=
  (s.entries.filter fun p => p.2.die = die && !p.2.ended).foldr insertEntry []

/-! ## Slots of a cell (15 R306; 16 R319, R320) -/

/-- EMPTY slots of 0-14 that can receive a context, ascending (01 R9). -/
def State.emptySlots (s : State) (cell : Nat) : List Nat := (List.range Config.slots).filter (s.slotFree cell)

/-- Slots vacated for an entry whose image has been saved. -/
def State.handedSlots (s : State) (cell n : Nat) : List (Nat × Ctx) :=
  (s.inCell cell).filter fun p => p.2.vacating = some n && p.2.sst = .switching && p.2.switchEnd.isNone

/-- Slots being vacated for an entry, or vacated. -/
def State.vacatingFor (s : State) (cell n : Nat) : Nat := ((s.inCell cell).filter fun p => p.2.vacating = some n).length

/-- The slots that an entry may take now, ascending. -/
def State.slotsFor (s : State) (cell n : Nat) : List Nat :=
  (List.range Config.slots).filter fun k =>
    (s.emptySlots cell).contains k || (s.handedSlots cell n).any fun p => p.2.slot = k

/-- The entry's oldest saved context of the cell. Numbers of contexts do not follow the order of saving: the Understudy
and the save area list their images oldest first. -/
def State.oldestSaved (s : State) (cell n : Nat) : Option Nat :=
  let mine (x : Nat) : Bool := match tfind s.ctxs x with | some c => c.entry = some n && c.cell = cell | none => false
  match ((s.parts.flatMap fun p => p.2.dies.flatMap fun d => d.2.saved).map (·.1)).find? mine with
  | some x => some x
  | none => (s.cell cell).understudy.find? fun x => mine x && (match tfind s.ctxs x with | some c => c.place = .understudy | none => false)

/-- Does the entry have the cell still to place? -/
def Entry.unplaced (e : Entry) (cell : Nat) : Bool :=
  e.cells.contains cell && !e.placed.contains cell && !(e.heldBack.any fun h => h.1 = cell)

/-- What a cell's free slots are used for. -/
inductive Assign where
  | none
  | restore (ctx : Nat)
  | place (entry : Nat)
  | preempt (entry : Nat) (victims : List Nat)
  deriving DecidableEq, Repr

/-- Places for further images: free Understudy entries of the cell, and evictions into the save area (16 R319). -/
def State.imagePlaces (s : State) (cell : Nat) : Nat :=
  let part := s.partOfCell cell
  let pd := s.pdie part (dieOfCell cell)
  let busy := ((s.inCell cell).filter fun p => p.2.vacating.isSome && !((s.cell cell).understudy.contains p.1)).length
  (48 - (s.cell cell).understudy.length + (if pd.saStop then 0 else pd.sasize * 32 - pd.saved.length)) - busy

/-- Threads of a cell that an entry may pre-empt, latest entry first and highest slot first (R306). A slot that is being restored
is no victim; one whose fresh context is being written is (R324). -/
def State.victimsFor (s : State) (cell : Nat) (later : List Nat) : List Nat :=
  later.reverse.flatMap fun n =>
    (((s.inCell cell).filter fun p => p.2.entry = some n && p.2.vacating.isNone && !p.2.restoring).foldr
      (fun p l => (l.takeWhile fun q => p.2.slot < q.2.slot) ++ p :: (l.dropWhile fun q => p.2.slot < q.2.slot)) []).map (·.1)

/-- What the entries of the dispatch order ask for in a cell, the first that can proceed or pre-empt (R306). -/
def State.assignIn (s : State) (cell : Nat) : List (Nat × Entry) → Assign
  | [] => .none
  | (n, e) :: t =>
    let have_ := (s.slotsFor cell n).length
    let saved := s.oldestSaved cell n
    let need := if saved.isSome then 1 else if e.unplaced cell then e.q else 0
    if need = 0 then s.assignIn cell t
    else if need ≤ have_ then (match saved with | some x => .restore x | none => .place n)
    else
      let coming := s.vacatingFor cell n - (s.handedSlots cell n).length
      let l := s.victimsFor cell (t.map (·.1))
      if !e.bg ∧ !e.demoted ∧ have_ + coming < need ∧ need ≤ have_ + coming + l.length ∧
          need - (have_ + coming) ≤ s.imagePlaces cell
      then .preempt n (l.take (need - (have_ + coming)))
      else s.assignIn cell t

/-- What the free slots of a cell are used for now. A partition at a quiesce point places and restores nothing (17 R337). -/
def State.assign (s : State) (cell : Nat) : Assign :=
  s.assignIn cell ((s.dispatchOrder (dieOfCell cell)).filter fun p => !(s.part p.2.part).quiescing)

/-! ## Pre-emption (16 R319-R321) -/

/-- The request stops the slot's issue (R320 step 1). -/
def State.stopSlot (s : State) (n x : Nat) : State := s.modCtx x fun c => { c with vacating := some n }

/-- A pre-emption request reaches a victim of the present choice. -/
def execPreemptionRequest (ctx : Nat) (s : State) : Host.Outcome State Fault Refusal :=
  match tfind s.ctxs ctx with
  | none => .next s
  | some c =>
    match s.assign c.cell with
    | .preempt n l => if l.contains ctx then .next (s.stopSlot n ctx) else .next s
    | _ => .next s

/-- Is the reply of the instruction in flight one that the slot waits for (R321): a fetching atomic or a barrier event
to a home of the module? A request that has been performed or refused is not withdrawn either: its reply is on the way
(log 85). -/
def State.mustFinish (s : State) (c : Ctx) : Bool :=
  match c.wait with
  | .access n =>
    match tfind s.packets n with
    | some p =>
      match p.target, p.op, p.st with
      | .home _, .amo .., _ => true
      | .home _, .arrive _, _ => true
      | .home _, .declare _, _ => true
      | _, _, .performed .. => true
      | _, _, .refused _ => true
      | _, _, _ => false
    | none => false
  | _ => false

/-- Is the reply one that the image goes on waiting for: of a fetching `ramo` to a peer or the host (R322)? -/
def State.keepsReply (s : State) (c : Ctx) : Bool :=
  match c.wait with
  | .access n =>
    match tfind s.packets n with
    | some p =>
      match p.target, p.op with
      | .home _, _ => false
      | _, .amo .. => true
      | _, _ => false
    | none => false
  | _ => false

/-- Withdraw the waiter or request of the instruction in flight, so that it starts again (R321); a load of the latch leaves it
FREE (07 R166). -/
def State.withdraw (s : State) (x : Nat) : State :=
  let c := s.ctx x
  let s := { s.abandonLoad x with waiters := s.waiters.filter fun w => w.1 ≠ x }
  let s := match c.wait with
    | .access n => { s with packets := tdel s.packets n }
    | .lease n => { s with
        lreqs := tdel s.lreqs n
        leases := s.leases.map fun (p : Nat × Lease) => if p.2.draining = some n then (p.1, { p.2 with draining := none, drained := false }) else p }
    | .budget n => { s with breqs := tdel s.breqs n }
    | _ => s
  s.modCtx x fun c =>
    { c with wait := .none, charged := false, sst := if c.sst = SlotSt.halted then SlotSt.halted else SlotSt.ready }

/-- The first place of a save area that holds no image. -/
def PartDie.freeArea (p : PartDie) : Option Nat :=
  (List.range (p.sasize * 32)).find? fun k => !(p.saved.any fun a => a.2 = k)

/-- Write an image into the save area: the format is the device's own (log 14). -/
def State.writeImage (s : State) (part a : Nat) : Nat → Except Byte State
  | 0 => .ok s
  | n + 1 => do
    let (s, bs) := s.freeBytes 16
    let s ← s.deviceWrite (spaceOf part) a bs
    s.writeImage part (a + 128) n

/-- Evict the oldest image of a cell's Understudy to the save area (R319): true when the entry is free. A refusal is reported as
XLATE, whatever refused it. -/
def State.evictImage (s : State) (cell : Nat) : State × Bool :=
  let part := s.partOfCell cell
  let die := dieOfCell cell
  let pd := s.pdie part die
  match (s.cell cell).understudy.find? fun x => (s.ctx x).place = .understudy, pd.freeArea with
  | some x, some k =>
    if pd.saStop then (s, false)
    else
      match s.writeImage part (pd.sabase + 2048 * k) 16 with
      | .ok s =>
        let s := s.modCell cell fun c => { c with understudy := c.understudy.filter (· ≠ x) }
        let s := s.modCtx x fun c => { c with place := .saveArea }
        (s.modPdie part die fun p => { p with saved := p.saved ++ [(x, k)] }, true)
      | .error _ =>
        let s := s.modPdie part die fun p => { p with safl := true, saStop := true }
        (s.report part (reportHead cXLATE false 3 cell 0 die false 0) (BitVec.ofNat 64 (pd.sabase + 2048 * k)) 0 die, false)
  | _, _ => (s, false)

/-- The vacate point (R320 steps 3 and 4): the slot passes to SWITCHING, and its image to the Understudy cache. -/
def State.vacate (s : State) (x : Nat) (c : Ctx) : State :=
  let now := s.cyc (dieOfCell c.cell)
  let full := decide (48 ≤ (s.cell c.cell).understudy.length)
  let (s, room) := if full then s.evictImage c.cell else (s, true)
  if !room then s.modCtx x fun c => { c with vacating := none }
  else
    let s := if s.keepsReply c then s else s.withdraw x
    let s := s.leaveGuest x
    let s := s.modCell c.cell fun k => { k with understudy := k.understudy ++ [x] }
    s.modCtx x fun k =>
      { k with
        place := .slot, savedHalted := k.sst = .halted, sst := .switching
        switchEnd := some (now + if full then 64 else 32) }

/-- The slot reaches its vacate point. -/
def execVacatePoint (ctx : Nat) (s : State) : Host.Outcome State Fault Refusal :=
  match tfind s.ctxs ctx with
  | none => .next s
  | some c =>
    let inSlot : Bool := match c.place with | .slot | .pantry _ => true | _ => false
    if c.vacating.isSome && inSlot && c.sst ≠ .switching && !s.mustFinish c then .next (s.vacate ctx c) else .next s

/-- The slot state that a context has when its switch has ended (R320). -/
def Ctx.afterSwitch (c : Ctx) : SlotSt :=
  if c.savedHalted then .halted else match c.wait with | .access _ => .stalled | _ => .ready

/-- A vacated slot passes on: its context is an image from now on. -/
def State.releaseSlot (s : State) (x : Nat) : State :=
  s.modCtx x fun c => { c with place := .understudy, vacating := none, sst := .ready, switchEnd := none }

/-- The saved image whose slot is taken, if a vacated context still lies in it. -/
def State.clearSlot (s : State) (cell k : Nat) : State :=
  match s.inSlot cell k with
  | some y => s.releaseSlot y
  | none => s

/-! ## Restores (16 R320) -/

/-- A class binding follows its context to its slot (09 R209). -/
def State.moveBindings (s : State) (x slot : Nat) : State :=
  { s with leases := s.leases.map fun (p : Nat × Lease) =>
      match p.2.obj with
      | .cls cell k _ y => if y = x then (p.1, { p.2 with obj := .cls cell k slot x }) else p
      | _ => p }

/-- The poisoned doublewords of an image in the save area, by its 16 lines there (20 R361). -/
def State.areaPoison (s : State) (part a : Nat) : NSet :=
  (List.range 16).foldl
    (fun t i =>
      match s.backed (spaceOf part) (a + 128 * i) with
      | .ok p => (s.l2Fill p (a + 128 * i)).2.data.poison.foldl (fun t d => nins t (16 * i + d)) t
      | .error _ => t) []

/-- An image that is read from the save area brings the poison of its lines (20 R361). -/
def State.readArea (s : State) (x : Nat) (c : Ctx) : State :=
  let q := s.pdie c.part (dieOfCell c.cell)
  match (if c.place = .saveArea then q.saved.find? fun a => a.1 = x else none) with
  | some a => s.modCtx x fun c => { c with poisoned := (s.areaPoison c.part (q.sabase + 2048 * a.2)).foldl nins c.poisoned }
  | none => s

/-- Write an image into the lowest slot that its entry may take. -/
def State.restoreInto (s : State) (x : Nat) (c : Ctx) (k : Nat) : State :=
  let now := s.cyc (dieOfCell c.cell)
  let s := s.readArea x c
  let s := (s.clearSlot c.cell k).forget x
  (s.modCtx x fun c => { c with place := .slot, slot := k, sst := .switching, restoring := true, vacating := none, switchEnd := some (now + 32) }).moveBindings
    x k

/-- A saved image is restored, when the order of dispatch gives it a slot. -/
def execContextRestore (ctx : Nat) (s : State) : Host.Outcome State Fault Refusal :=
  match tfind s.ctxs ctx with
  | none => .next s
  | some c =>
    match s.assign c.cell, c.entry with
    | .restore x, some n =>
      if x = ctx then
        match (s.slotsFor c.cell n).head? with
        | some k => .next (s.restoreInto ctx c k)
        | none => .next s
      else .next s
    | _, _ => .next s

/-- Has the image of a context been taken, so that its slot only waits to be passed on? -/
def State.vacated (s : State) (x : Nat) : Bool := (s.cell (s.ctx x).cell).understudy.contains x

/-- The end of SWITCHING: a vacated context waits to be replaced, any other becomes READY or HALTED (R320), and takes the messages
stored for it (09 R378). -/
def State.endSwitch (s : State) (x : Nat) : State :=
  let c := s.ctx x
  if s.vacated x then s.modCtx x fun c => { c with switchEnd := none }
  else
    let now := s.cyc (dieOfCell c.cell)
    (s.modCtx x fun c =>
      { c with switchEnd := none, restoring := false, sst := c.afterSwitch, savedHalted := false, readySince := now }).deliverStore
      c.cell c.part x

/-- A vacated slot whose entry has ended or no longer needs it becomes EMPTY. -/
def State.unneeded (s : State) (c : Ctx) : Bool :=
  match c.vacating with
  | some n =>
    match tfind s.entries n with
    | some e => e.ended || ((s.oldestSaved c.cell n).isNone && !e.unplaced c.cell)
    | none => true
  | none => false

/-! ## Placement (09 R203, R204; 15 R307, R379) -/

/-- The placement word (09 R204). -/
def placementWord (cell slot pcell tix ncells q : Nat) : Word :=
  BitVec.ofNat 64 (cell + slot * 2 ^ 9 + pcell * 2 ^ 13 + tix * 2 ^ 22 + (ncells - 1) * 2 ^ 26 + (q - 1) * 2 ^ 35)

/-- The space number of a context that is created at a privilege (17 R333). -/
def spaceNumber (pl : BitVec 2) : Nat := if pl = 2 then 1 else 0

/-- The space id of an entry's contexts. -/
def Entry.sid (e : Entry) : BitVec 16 := BitVec.ofNat 16 (e.part * 1024 + spaceNumber e.pl)

/-- A new context of an entry (01 R16; 09 R204; 17 R326). -/
def State.freshCtx (s : State) (n : Nat) (e : Entry) (cell slot tix : Nat) : Ctx :=
  let pcell := (e.cells.findIdx? fun c => c = cell).getD 0
  let x := e.seeds.foldl (fun t r => tset t r.1 r.2) (tset [] 31 (placementWord cell slot pcell tix e.cells.length e.q))
  { cell := cell, slot := slot, entry := some n, part := e.part, sid := e.sid, tix := tix, tag := e.tag
    x := x, pc := e.pc, pl := e.pl, bud := e.figure, dl := e.deadline
    t1 := { tvec := (s.part e.part).ptvec }, t2 := { tvec := (s.die e.die).tvec2 }
    sst := .switching, switchEnd := some (s.cyc e.die + 32) }

/-- One cell of an entry is held back: PLACE in the fault queue (R307). -/
def State.holdBack (s : State) (n : Nat) (e : Entry) (cell code : Nat) (data : Bool) : State :=
  let s := s.report e.part (reportHead cPLACE false 3 cell 0 e.die false e.tag) 0 (BitVec.ofNat 64 code) e.die
  s.modEntry n fun e => { e with heldBack := e.heldBack ++ [(cell, data)] }

/-- The leases of the list for one cell, in list order: the state, or the code of the first refusal. -/
def State.placeLeases (s : State) (n : Nat) (e : Entry) (cell : Nat) (slots : List Nat) (ids : List Nat) :
    List LEntry → State × Nat
  | [] => (s, 0)
  | r :: t =>
    let k := if r.kind = 4 then r.tix else 0
    let w : Asker := { pop := some n, part := e.part, cell := cell, slot := slots.getD k 0, ctx := ids.getD k 0, sid := e.sid }
    match s.lacqAt w r.kind r.obj (BitVec.ofNat 64 r.life) with
    | (s, .error code) => (s, code)
    | (s, .ok m) => (s.modLease m fun l => { l with st := .held }).placeLeases n e cell slots ids t

/-- The classes 12-15 that are free go to the thread with index 0 (09 R205). -/
def State.placeClasses (s : State) (n : Nat) (e : Entry) (cell slot x : Nat) : List Nat → State
  | [] => s
  | k :: t =>
    let w : Asker := { pop := some n, part := e.part, cell := cell, slot := slot, ctx := x, sid := e.sid }
    let left := match tfind s.leases e.lease with | some l => l.expiry - s.ref e.die | none => 0
    if s.leases.any fun p => p.2.home = homeCell cell && p.2.occupied && p.2.obj.meets (.cls cell k 0 0) then s.placeClasses n e cell slot x t
    else
      match s.lacqAt w 4 (BitVec.ofNat 64 k) (BitVec.ofNat 64 left) with
      | (s, .ok m) => (s.modLease m fun l => { l with st := .held }).placeClasses n e cell slot x t
      | (s, .error _) => s.placeClasses n e cell slot x t

/-- Read bytes of partition memory line by line. -/
def State.readPieces (s : State) (part : Nat) : List (Nat × Nat) → Except Byte (State × List Byte)
  | [] => .ok (s, [])
  | (a, k) :: t => do
    let (s, bs) ← s.homeRead (.mem (spaceOf part) a) k
    let (s, rest) ← s.readPieces part t
    return (s, bs ++ rest)

/-- Write the scratchpad data of one cell, in list order (R379). -/
def State.placeData (s : State) (part cell : Nat) : List DEntry → Except Byte State
  | [] => .ok s
  | d :: t => do
    let (s, bs) ← s.readPieces part (linePieces d.src d.len)
    (s.modCell cell fun c => { c with spad := c.spad.write d.off bs }).placeData part cell t

/-- Before a population's data are written, the bytes of the scratchpad under no lease of another population are zero: those that no
data section covers start so (03 R62; 15 R379; log 86). -/
def State.clearUncovered (s : State) (n cell : Nat) : State :=
  let other (g : Nat) : Bool := s.leases.any fun p =>
    match p.2.obj with
    | .sp c b k => c = cell && p.2.occupied && p.2.pop ≠ some n && decide (b ≤ g ∧ g < b + k)
    | _ => false
  let free := (List.range ((s.cell cell).spadSize / 4096)).filter fun g => !other g
  s.modCell cell fun c => { c with spad := free.foldl (fun b g => b.clear (g * 4096) 4096) c.spad }

/-- Must the placement of a cell wait for stage 5 of a tick step, since a lease of its list meets one that has come to its expiry
tick (08 R192)? -/
def State.leasesWait (s : State) (n : Nat) (e : Entry) (cell : Nat) (l : List LEntry) : Bool :=
  let w : Asker := { pop := some n, part := e.part, cell := cell, slot := 0, ctx := 0, sid := e.sid }
  l.any fun r => s.heldOver w r.kind r.obj

/-- Place one cell of an entry in the slots it may take. -/
def State.placeCell (s : State) (n : Nat) (e : Entry) (cell : Nat) : State :=
  let pcell := (e.cells.findIdx? fun c => c = cell).getD 0
  let here (cix : Nat) : Bool := cix = 0xFF || cix = pcell
  let slots := (s.slotsFor cell n).take e.q
  let ids := (List.range e.q).map (· + s.fresh)
  match s.listsOf e.part e.lla e.llc e.dlc with
  | .error _ => s.holdBack n e cell 0 true
  | .ok (l, d) =>
    if s.leasesWait n e cell (l.filter fun r => here r.cix) then s
    else
      let t := { s with fresh := s.fresh + e.q }
      match t.placeLeases n e cell slots ids (l.filter fun r => here r.cix) with
      | (t, 0) =>
        let mine := d.filter fun r => here r.cix
        if mine.any fun r => (t.cell cell).spadSize < r.off + r.len then t.holdBack n e cell 0 true
        else
          match (t.clearUncovered n cell).placeData e.part cell mine with
          | .error _ => t.holdBack n e cell 0 true
          | .ok t =>
            let t := slots.foldl (fun t k => t.clearSlot cell k) t
            let t := (slots.zip ids).zipIdx.foldl
              (fun (t : State) p => t.setCtx p.1.2 (t.freshCtx n e cell p.1.1 p.2)) t
            let t := t.placeClasses n e cell (slots.getD 0 0) (ids.getD 0 0) [12, 13, 14, 15]
            t.modEntry n fun e => { e with placed := e.placed ++ [cell] }
      | (t, code) => t.holdBack n e cell code false

/-- A cell of an entry is placed, when the order of dispatch gives it its slots (R307). -/
def execCellPlacement (entry cell : Nat) (s : State) : Host.Outcome State Fault Refusal :=
  match s.assign cell, tfind s.entries entry with
  | .place n, some e => if n = entry then .next (s.placeCell n e cell) else .next s
  | _, _ => .next s

/-- Vacated slots that their entry does not take after all return to EMPTY (R307), and can receive a context from the next cycle on
(01 R9). -/
def State.returnSlots (s : State) (cell : Nat) : State :=
  ((s.inCell cell).filter fun p => p.2.sst = .switching && p.2.switchEnd.isNone && s.unneeded p.2).foldl
    (fun s p => (s.emptySlot p.1 (s.cyc (dieOfCell cell))).releaseSlot p.1) s

/-- Free slots of a cell go to the first entry in dispatch order that can proceed, or are vacated for it (R306). -/
def execSlotAssignment (cell : Nat) (s : State) : Host.Outcome State Fault Refusal :=
  let s := s.returnSlots cell
  match s.assign cell with
  | .none => .next s
  | .restore x =>
    match tfind s.ctxs x with
    | some c =>
      match (s.slotsFor cell (c.entry.getD 0)).head? with
      | some k => .next (s.restoreInto x c k)
      | none => .next s
    | none => .next s
  | .place n =>
    match tfind s.entries n with
    | some e => .next (s.placeCell n e cell)
    | none => .next s
  | .preempt n l => .next (l.foldl (fun s x => s.stopSlot n x) s)

/-! ## Events of saved contexts (16 R323) -/

/-- The steps that can bring an event of a kind to a context. -/
def State.bringers (s : State) (x : Nat) (c : Ctx) (ev : SavedEvent) : List (State → Host.Outcome State Fault Refusal) :=
  let posted := s.packets.flatMap fun (p : Nat × Packet) =>
    if p.2.ctx = x && p.2.posted then [execPostedAck p.1, execPostedRefusalReport p.1] else []
  match ev with
  | .flags _ => [execEngineOpRetire c.cell false, execEngineOpRetire c.cell true]
  | .memFlags _ => posted
  | .ack _ => posted
  | .setBp _ =>
    (match c.entry.bind (tfind s.entries) with | some e => [execChargeApply e.die] | none => []) ++
      s.breqs.map fun (p : Nat × BudgetReq) => execBudxRequest p.1
  | .setRbp => s.flights.flatMap fun (p : Nat × Flight) => [execMessageArrival p.1, execAntiMessageArrival p.1]
  | .gvt _ => match c.member with | some m => [execGvtPublication m.group c.cell, execDeferredEntryPerform m.group c.cell] | none => []
  | .bud _ => match c.entry with | some n => [execBudRefresh c.cell n] | none => []
  | .dl _ => match c.entry with | some n => [execBudRefresh c.cell n] | none => []

/-- The change that an event makes in an image or packed state. -/
def Ctx.shows (c : Ctx) (ev : SavedEvent) (t : Ctx) : Bool :=
  match ev with
  | .flags f => t.fflags == c.fflags ||| f
  | .memFlags f => t.mfl == c.mfl ||| f
  | .ack k =>
    let d := c.bumpPst k.toNat false
    t.pst0 == d.pst0 && t.pst1 == d.pst1 && t.pst2 == d.pst2 && t.ownPosted == d.ownPosted
  | .setBp b => t.bp == b
  | .setRbp => t.rbp
  | .gvt v => t.gvt == v
  | .bud v => t.bud == v
  | .dl v => t.dl == v

/-- The first of some steps that changes the state and brings the event. -/
def State.brought (s : State) (x : Nat) (ev : SavedEvent) : List (State → Host.Outcome State Fault Refusal) → Option State
  | [] => none
  | f :: l =>
    match f s with
    | .next t => if t ≠ s && (tfind t.ctxs x).isSome && (s.ctx x).shows ev (t.ctx x) then some t else s.brought x ev l
    | _ => s.brought x ev l

/-- An event that targets a context which is SWITCHING, saved or migrated is applied to its image or packed state: by the step of
the unit that it comes from, and only where it is on its way (11 R237, R239). -/
def execSavedContextEvent (ctx : Nat) (ev : SavedEvent) (s : State) : Host.Outcome State Fault Refusal :=
  match tfind s.ctxs ctx with
  | none => .next s
  | some c =>
    if c.resident then .next s
    else .next ((s.brought ctx ev (s.bringers ctx c ev)).getD s)

/-- A write of `sabase` (R319): ignored while images remain. -/
def execSabaseWrite (part die : Nat) (v : Word) (s : State) : Host.Outcome State Fault Refusal :=
  if (s.part part).flr.isSome then .next s
  else .next (s.modPdie part die fun p =>
    if p.saved.isEmpty then
      { p with sabase := v.toNat / 2 ^ 16 % 2 ^ 32 * 2 ^ 16, sasize := v.toNat / 2 ^ 48 % 2 ^ 12, saStop := false }
    else p)

/-- A resume makes a HALTED slot READY (04 R87; 21 R374). -/
def State.resumeSlot (s : State) (cell slot : Nat) : State :=
  match s.inSlot cell slot with
  | none => s
  | some x =>
    if (s.ctx x).sst = .halted then
      s.modCtx x fun c => { c with sst := .ready, shown := .halted, readySince := s.cyc (dieOfCell c.cell) + 1 }
    else s

/-- A write of `dbgcmd`: [8:0] cell, [12:9] slot, [15:13] op; ops 1-7 are ignored (21 R374). -/
def State.debugCommand (s : State) (v : Word) : State :=
  if v.toNat / 2 ^ 13 % 8 = 0 then s.resumeSlot (v.toNat % 512) (v.toNat / 2 ^ 9 % 16) else s

/-- The word that asks for a resume. -/
def resumeWord (cell slot : Nat) : Word := BitVec.ofNat 64 (cell % 512 + slot % 16 * 2 ^ 9)

/-- A resume of a slot through a die's `dbgcmd` (04 R87; 21 R374). -/
def execDebugResume (die cell slot : Nat) (s : State) : Host.Outcome State Fault Refusal :=
  if s.firmware die then .next (s.debugCommand (resumeWord cell slot)) else .next s

/-- Ops 1-7 of `dbgcmd` are ignored (21 R374). -/
def execDebugCommandIgnored (die : Nat) (op : BitVec 3) (s : State) : Host.Outcome State Fault Refusal :=
  if s.firmware die && op != 0 then .next (s.debugCommand (op.zeroExtend 64 <<< 13)) else .next s

end Sys2Proof.Machine
end

