-- ==== Sys2Proof/Machine/Partition.lean ====
section
/-! DEFINITION. Partitions: host and firmware registers, page moves and quiesce points, the partition command port,
retirement (00 R3, R4; 10 R228; 16 R319; 17 R326, R332, R334-R338; 18 R344-R349; 20 R365, R366; 21 R373, R374). -/

namespace Sys2Proof.Machine

/-! ## Reading registers (00 R3, R4) -/

/-- The cells of a partition, ascending. -/
def State.cellsOfPart (s : State) (part : Nat) : List Nat := (List.range Config.cells).filter fun c => s.ownsCell part c

/-- The counts of a cell's statistics block (10 R228). -/
def Cell.statistics (c : Cell) : Word := BitVec.ofNat 64 (c.disc.toNat + c.aband.toNat * 2 ^ 32 + c.cfail.toNat * 2 ^ 48)

/-- The counts of `errcnt` (20 R365). -/
def Die.errcnt (d : Die) : Word := BitVec.ofNat 64 (d.sce.toNat + d.sue.toNat * 2 ^ 16 + d.dce.toNat * 2 ^ 32 + d.due.toNat * 2 ^ 48)

/-- A die's queue registers of a partition (15 R296). -/
def PartDie.readQueue (p : PartDie) (off : Nat) : Word :=
  match off with
  | 0x00 => BitVec.ofNat 64 p.qbase
  | 0x08 => p.qtail.zeroExtend 64
  | 0x10 => p.qhead.zeroExtend 64 ||| bit p.ovf 9
  | 0x18 => BitVec.ofNat 64 (p.share + p.lf * 2 ^ 9 + p.slotcap * 2 ^ 16)
  | _ => 0

/-- A die's save-area registers of a partition (16 R319). -/
def PartDie.readSave (p : PartDie) (off : Nat) : Word :=
  match off with
  | 0 => BitVec.ofNat 64 (p.sabase + p.sasize * 2 ^ 48)
  | 8 => BitVec.ofNat 64 p.saved.length ||| bit p.safl 16
  | _ => 0

/-- The members of a partition that are in force, as D0 holds them (18 R349; log 87). -/
def State.members (s : State) (part : Nat) : List LeaseObj :=
  (s.leases.filter fun p => p.2.home = 0 && p.2.alive && p.2.part = part).map (·.2.obj)

/-- `prings` (18 R349). -/
def State.ringBits (s : State) (part : Nat) : Word :=
  (s.members part).foldl (fun w o => match o with | .ring _ r => w ||| bit true r | _ => w) 0

/-- `pshare` (18 R349). -/
def State.shareBits (s : State) (part : Nat) : Word :=
  (s.members part).foldl (fun w o => match o with | .share _ d _ => w ||| bit true d | _ => w) 0

/-- `pres` (18 R349). -/
def State.resBits (s : State) (part : Nat) : Word :=
  let l := s.members part
  let slices := (l.filter fun o => match o with | .slice .. => true | _ => false).length
  let groups := (l.filter fun o => match o with | .chan .. => true | _ => false).length
  BitVec.ofNat 64 (part + slices * 2 ^ 8 + groups * 2 ^ 17) |||
    l.foldl (fun w o => match o with | .key _ k => w ||| bit true (24 + k) | .root _ => w ||| bit true 40 | _ => w) 0

/-- `pkeyh` of a key slot (19 R354). -/
def State.keyHandle (s : State) (part k : Nat) : Word :=
  match s.leases.find? fun p => p.2.home = 0 && p.2.obj = .key part k && p.2.alive with
  | some p => p.2.handle
  | none => 0

/-- Bytes that a job clears in a cycle (19 R350); a sweep counts none (R355). -/
def Job.rate (j : Job) : Nat :=
  if j.row = rowSweep then 0
  else if j.row = rowDram then 1024
  else if 1024 ≤ j.row ∧ j.row < rowDram then 128
  else if 8192 ≤ j.row ∧ j.row < 16384 then 4096
  else 64

/-- `scrst` of a die: jobs, and 64 KiB units still to clear in them (19 R355). -/
def State.scrst (s : State) (die : Nat) (mine : Job → Bool) : Word :=
  let l := (s.jobs.filter fun p => p.2.die = die && p.2.endAt.isSome && mine p.2).map (·.2)
  let left (j : Job) : Nat := min (if j.rate = 0 then 0 else j.bytes) (j.rate * (j.endAt.getD 0 - s.cyc die))
  BitVec.ofNat 64 (l.length % 2 ^ 16 + ((l.map left).sum + 0xFFFF) / 0x1_0000 % 2 ^ 32 * 2 ^ 16)

/-- A register of a virtual function's BAR 2 as a read returns it. WO registers and reserved offsets read as zero (00 R3, R4); what
a read of an RC register clears, its own step does. -/
def State.readFunction (s : State) (part off : Nat) : Word :=
  let p := s.part part
  if off < 0x400 then (s.pdie part (off / 0x100)).readQueue (off % 0x100)
  else if off < 0x480 then (s.pdie part ((off - 0x400) / 0x20)).readSave ((off - 0x400) % 0x20)
  else if off = 0x480 then BitVec.ofNat 64 (p.fqbase + p.fqlg * 2 ^ 48)
  else if off = 0x488 then BitVec.ofNat 64 p.fqtail
  else if off = 0x490 then BitVec.ofNat 64 p.fqhead
  else if off = 0x498 then p.fqlost.zeroExtend 64
  else if off = 0x4A8 then BitVec.ofNat 64 p.moves.length ||| bit p.moveFull 7 ||| bit p.moveRefd 8
  else if off = 0x4B0 then p.ptvec
  else if off = 0x500 then s.ringBits part
  else if off = 0x508 then s.resBits part
  else if off = 0x510 then s.shareBits part
  else if 0x600 ≤ off ∧ off < 0x680 ∧ off % 8 = 0 then s.keyHandle part ((off - 0x600) / 8)
  else if 0x700 ≤ off ∧ off < 0x740 ∧ off % 0x10 = 0 then s.scrst ((off - 0x700) / 0x10) fun j => j.part = some part
  else if off = 0x900 then BitVec.ofNat 64 (p.hwbase + p.hwlen * 2 ^ 48)
  else if 0x10_0000 ≤ off ∧ off % 8 = 0 then
    match (s.cellsOfPart part)[(off - 0x10_0000) / 8]? with
    | some c => (s.cell c).statistics
    | none => 0
  else 0

/-- The value of `bstat` (21 R370). -/
def State.bstat (s : State) : Word :=
  BitVec.ofNat 64 (s.stage.toNat + s.fail.toNat * 2 ^ 3 + (if s.img then 2 ^ 6 else 0) + s.pcw.toNat * 2 ^ 7 + s.pcr.toNat * 2 ^ 12
    + (if s.cxl then 2 ^ 15 else 0) + s.pup.toNat * 2 ^ 16 + (if s.rdy then 2 ^ 24 else 0))

/-- A register of the physical function: BAR 0 (21 R370) or BAR 2 (19 R355; 20 R365). -/
def State.readPhysical (s : State) (bar0 : Bool) (off : Nat) : Word :=
  if bar0 then (if off = 0 then s.bstat else 0)
  else if 0x700 ≤ off ∧ off < 0x740 ∧ off % 0x10 = 0 then s.scrst ((off - 0x700) / 0x10) fun _ => true
  else if 0x800 ≤ off ∧ off < 0x840 ∧ off % 0x10 = 0 then (s.die ((off - 0x800) / 0x10)).errcnt
  else if 0x800 ≤ off ∧ off < 0x840 ∧ off % 0x10 = 8 then (s.die ((off - 0x800) / 0x10)).errloc
  else 0

/-- A register of a die's management space (18 R345; 20 R366; 21 R374). `ptcmd`, `ptkey0`-`ptkey7`, `rtcmd`, `mqpol` and `dbgcmd` are
WO and read as zero. -/
def State.readManagement (s : State) (die off : Nat) : Word :=
  let d := s.die die
  if off = 0x108 then d.ptarg
  else if off = 0x150 then d.ptcode.zeroExtend 64 ||| bit d.ptbusy 8
  else if off = 0x208 then bit d.rtbusy 0 ||| d.rtcode.zeroExtend 64 <<< 1
  else 0

/-! ## Writing registers (00 R3, R4) -/

/-- A die's `sacnt`: a 1 clears `safl` (16 R319). -/
def PartDie.clearFlags (p : PartDie) (ovf safl : Bool) : PartDie :=
  { p with ovf := p.ovf && !ovf, safl := p.safl && !safl }

/-- Write a register of a virtual function's BAR 2 that has no behaviour of its own. -/
def State.writeFunction (s : State) (part off : Nat) (v : Word) : State :=
  if off < 0x400 ∧ off % 0x100 = 0x10 then s.modPdie part (off / 0x100) fun p => p.clearFlags (v.getLsbD 9) false
  else if 0x400 ≤ off ∧ off < 0x480 ∧ off % 0x20 = 8 then
    s.modPdie part ((off - 0x400) / 0x20) fun p => p.clearFlags false (v.getLsbD 16)
  else if off = 0x490 then s.modPart part fun p => { p with fqhead := v.toNat % 2 ^ 17 }
  else if off = 0x4A8 then
    s.modPart part fun p => { p with moveFull := p.moveFull && !v.getLsbD 7, moveRefd := p.moveRefd && !v.getLsbD 8 }
  else if off = 0x4B0 then s.modPart part fun p => { p with ptvec := BitVec.ofNat 64 (v.toNat % 2 ^ 48 / 4 * 4) }
  else if off = 0x900 then
    s.modPart part fun p => { p with hwbase := v.toNat % 2 ^ 48 / 2 ^ 12 * 2 ^ 12, hwlen := v.toNat / 2 ^ 48 % 2 ^ 12 }
  else s

/-- A read of a cell's statistics block returns the three counts and clears them (10 R228). -/
def execStatisticsBlockRead (part n : Nat) (s : State) : Host.Outcome State Fault Refusal :=
  match (s.cellsOfPart part)[n]? with
  | none => .next { s with hostOut := .value 0 }
  | some c =>
    .next { s.modCell c fun k => { k with disc := 0, aband := 0, cfail := 0 } with hostOut := .value (s.cell c).statistics }

/-- A read of `errcnt` returns the four counts and clears them (20 R365). -/
def execErrcntRead (die : Nat) (s : State) : Host.Outcome State Fault Refusal :=
  if Config.dies ≤ die then .next s
  else
    .next { s.modDie die fun d => { d with sce := 0, sue := 0, dce := 0, due := 0 } with hostOut := .value (s.die die).errcnt }

/-- A write of `pmove` (17 R338): at most 64 requests wait. -/
def execPmoveWrite (part : Nat) (v : Word) (s : State) : Host.Outcome State Fault Refusal :=
  if 64 ≤ part ∨ (s.part part).flr.isSome then .next s
  else .next (s.modPart part fun p =>
    if 64 ≤ p.moves.length then { p with moveFull := true }
    else { p with moves := p.moves ++ [(v.toNat / 2 ^ 21 % 2 ^ 27, v.toNat / 2 ^ 48 % 8)] })

/-! ## Quiesce points (17 R334, R337; 18 R347) -/

/-- Does a thread of the partition hold a slot or a guest slot? A vacated slot whose image is saved is not one. -/
def State.partResident (s : State) (part : Nat) : Bool :=
  s.ctxs.any fun p =>
    p.2.part = part &&
      match p.2.place with
      | .slot => !s.vacated p.1
      | .pantry _ => true
      | _ => false

/-- Do engine operations, copies, posted operations or deferred actions of the partition run on? -/
def State.partWork (s : State) (part : Nat) : Bool :=
  (s.cells.any fun p =>
    ((p.2.mq ++ p.2.cq).any fun o => o.part = part) || (p.2.mboxes.any fun m => m.2.part = part) ||
      (p.2.runs.any fun r => r.req.part = part) || (s.partOfCell p.1 = part && p.2.groups.any fun g => g.2.busy.isSome || g.2.pub.isSome)) ||
    s.packets.any fun p => p.2.part = part

/-- Is the partition quiet? -/
def State.quiet (s : State) (part : Nat) : Bool := !s.partResident part && !s.partWork part

/-- Members that wait for a quiesce point: slices and channel groups granted or lapsing since the last. -/
def State.waitingMembers (s : State) (part : Nat) (f : Lease → Bool) : List (Nat × Lease) :=
  s.leases.filter fun p =>
    (match p.2.obj with
     | .slice q _ => q = part
     | .chan q _ _ _ => q = part
     | _ => false) && f p.2

/-- Is there anything for the partition's next quiesce point to do? -/
def State.quiesceDue (s : State) (part : Nat) : Bool :=
  !(s.part part).moves.isEmpty ||
    !(s.waitingMembers part fun l => (l.alive && !l.pinned) || (l.st = .lapsing && l.pinned && l.obj.ownDie = some l.home)).isEmpty

/-- Every line of the partition in a set of pages goes back to DRAM and leaves L1 and L2. -/
def State.flushPages (s : State) (part : Nat) (ps : List Page) : State :=
  let l := s.cells.flatMap fun (c : Nat × Cell) =>
    (c.2.l1.filter fun l => l.2.part = part && ps.any fun p => p.backs l.2.sid.toNat l.2.va).map fun l => (c.1, l.1)
  let s := l.foldl (fun s x => s.l1Flush x.1 x.2) s
  ps.foldl
    (fun s p =>
      ((s.die p.die).l2.filter fun l => decide (p.frame * 0x1_0000 ≤ l.1 ∧ l.1 < p.frame * 0x1_0000 + p.size)).foldl
        (fun s l => s.l2Evict p.die l.1) s) s

/-- The written lines of a page's frames, as they read where they lie (20 R362), by their offset in the page. -/
def State.readFrames (s : State) (p : Page) : List (Nat × Bank) :=
  let lines := (s.die p.die).written.filter fun w => decide (p.frame * 512 ≤ w ∧ w < p.frame * 512 + p.size / 128)
  lines.map fun w => (128 * (w - p.frame * 512), s.dramLine p.die (128 * w))

/-- Write lines of a page to frames of a die, under the key of their group there. -/
def State.writeFrames (s : State) (p : Page) (die frame : Nat) (l : List (Nat × Bank)) : State :=
  l.foldl (fun s x => s.dramWrite die (frame * 0x1_0000 + x.1) { sid := p.sid, va := p.va + x.1, part := p.part, data := x.2 }) s

/-- Move one page to frames of a domain's channel group; its old frames are scrubbed. -/
def State.movePage (s : State) (p : Page) (dom g f : Nat) : State :=
  let die := dieOfDom dom
  let k := p.size / 0x1_0000
  let hit (q : Page) : Bool := q.die = p.die && decide (p.frame ≤ q.frame ∧ q.frame < p.frame + k)
  let go (q : Page) : Page := if hit q then { q with dom := dom, cg := g, die := die, frame := f + (q.frame - p.frame) } else q
  let old := s.readFrames p
  let s := { s with pages := s.pages.map go }
  let s := s.modDie die fun d => { d with owned := (List.range k).foldl (fun o i => nins o (f + i)) d.owned }
  let s := s.writeFrames p die f old
  s.startJob { die := p.die, part := some p.part, frames := (List.range k).map (· + p.frame), bytes := p.size, row := rowDram } (p.size / 1024)

/-- Move pages one by one; a page that finds no frame ends the walk, and the answer is false. -/
def State.movePages (s : State) (dom : Nat) : List Page → State × Bool
  | [] => (s, true)
  | p :: t =>
    match s.placeFrame p.part dom (p.va / 0x20_0000) p.big with
    | none => (s, false)
    | some (g, f) => (s.movePage p dom g f).movePages dom t

/-- The pages of a region under their first names. -/
def State.pagesOf (s : State) (part region : Nat) : List Page :=
  s.pages.filter fun p => p.part = part && p.va / 0x20_0000 = region && !p.second

/-- Perform one move request (R337, R338): all of it, or none. -/
def State.moveRegion (s : State) (part region dom : Nat) : State :=
  let refuse : State := s.modPart part fun q => { q with moveRefd := true }
  match s.regionHome part region with
  | none => refuse
  | some h =>
    if h = dom then s
    else
      match (s.flushPages part (s.pagesOf part region)).movePages dom (s.pagesOf part region) with
      | (t, true) =>
        if (s.groupsOf part (dieOfDom dom)).isEmpty || (s.slicesOf part dom).isEmpty then refuse
        else t.modPart part fun q => { q with regions := tset q.regions region dom }
      | (_, false) => refuse

/-- A slice leaves S: its lines go back, and residency and lock leases homed in it lapse (18 R347). -/
def State.leaveSlice (s : State) (n k : Nat) : State :=
  let s := s.modLease n fun l => { l with pinned := false }
  let homed := (s.leases.filter fun p => p.2.home = homeOfSlice k && p.2.alive && (p.2.obj.kind = 5 || p.2.obj.kind = 7)).map (·.1)
  homed.foldl (fun s m => s.lapse 8 m) s

/-- A channel group leaves G: frames move to the die's remaining groups; pages without a frame there lapse (18 R347). -/
def State.leaveChan (s : State) (n part g : Nat) : State :=
  let s := s.modLease n fun l => { l with pinned := false }
  let mine := s.pages.filter fun p => p.die = g / 16 && p.cg = g % 16 && p.part = part && !p.second
  mine.foldl
    (fun s p =>
      match s.placeFrame part p.dom (p.va / 0x20_0000) p.big with
      | some (h, f) => (s.flushPages part [p]).movePage p p.dom h f
      | none => s.lapse 8 p.lease) s

/-- The partition's lines in L2 go back to DRAM: the slices that home them change. -/
def State.flushSlices (s : State) (part : Nat) : State :=
  (List.range Config.dies).foldl
    (fun s d => ((s.die d).l2.filter fun l => l.2.part = part).foldl (fun s l => s.l2Evict d l.1) s) s

/-- The quiesce point (R337): moves in the order written, then the members that join and leave S and G. -/
def State.quiesce (s : State) (part : Nat) : State :=
  let joins := s.waitingMembers part fun l => l.alive && !l.pinned
  let leaves := s.waitingMembers part fun l => l.st = .lapsing && l.pinned && l.obj.ownDie = some l.home
  let s := if joins.isEmpty && leaves.isEmpty then s else s.flushSlices part
  let s := joins.foldl (fun s p => s.modLease p.1 fun l => { l with pinned := true }) s
  let s := leaves.foldl
    (fun s p =>
      match p.2.obj with
      | .slice _ k => s.leaveSlice p.1 k
      | .chan _ g _ _ => s.leaveChan p.1 part g
      | _ => s) s
  let moves := (s.part part).moves
  let s := s.modPart part fun q => { q with moves := [] }
  moves.foldl (fun s m => s.moveRegion part m.1 m.2) s

/-- A quiesce point of a partition that has something to do there: once no thread of it is resident, placement, restores and
outside accesses are held; once its work has retired too, the moves are made and what was held goes on (R337). -/
def execQuiescePoint (part : Nat) (s : State) : Host.Outcome State Fault Refusal :=
  if s.partResident part || !(s.quiesceDue part || (s.part part).quiescing) then .next s
  else if s.partWork part then .next (s.modPart part fun p => { p with quiescing := true })
  else .next ((s.quiesce part).releaseHeld part)

/-! ## The partition command port (18 R344, R345) -/

/-- The entry index of a replicated lease (log 23). -/
def LeaseObj.treeIndex : LeaseObj → Nat
  | .root p => p
  | .ring _ r => 64 + r
  | .slice _ k => 128 + k
  | .chan _ g _ _ => 384 + g
  | .share p d _ => 448 + 8 * p + d
  | .key p k => 16 * p + k
  | _ => 0

/-- The life that `ptarg` holds. -/
def Die.life (d : Die) : Nat := d.ptarg.toNat % 2 ^ 32

/-- The number of the lease on an object at one copy, and its state. -/
def State.copyOf (s : State) (die : Nat) (o : LeaseObj) : Option (Nat × Lease) :=
  s.leases.find? fun p => p.2.home = die && p.2.obj.kind = o.kind && p.2.index = o.treeIndex

/-- Write one copy of a grant. -/
def State.putCopy (s : State) (part : Nat) (o : LeaseObj) (life : Nat) (die : Nat) : State :=
  let (n, g) : Nat × Nat := match s.copyOf die o with
    | some (n, l) => (n, l.count)
    | none => (tnext s.leases, 0)
  let up : Option Nat := match o with
    | .root _ => none
    | _ => (s.copyOf die (.root part)).map (·.1)
  let pinned : Bool := match o with
    | .slice .. => s.quiet part
    | .chan .. => s.quiet part
    | _ => true
  let l : Lease :=
    { home := die, index := o.treeIndex, obj := o, gen := BitVec.ofNat 24 (g + 1), count := g + 1, st := .held, expiry := s.ref die + life
      parent := up, part := part, order := s.grants, pinned := pinned }
  { s with leases := tset s.leases n l, grants := s.grants + 1 }

/-- Is the resource still being scrubbed: a copy of a lease on it is ending, or a job clears it (R345; 19 R357)? -/
def State.beingScrubbed (s : State) (o : LeaseObj) : Bool :=
  (s.leases.any fun p =>
    decide (p.2.home < 4) && p.2.obj.kind = o.kind && p.2.index = o.treeIndex && (p.2.st = .lapsing || p.2.st = .scrubbing)) ||
    s.jobs.any fun p =>
      match o with
      | .ring _ r => (match p.2.cell with | some c => c / 8 = r && p.2.lease.isNone | none => false)
      | .chan _ g _ _ =>
        p.2.die = g / 16 && p.2.lease.isNone &&
          (p.2.group = some (g % 16) || p.2.frames.any fun f => f / groupFrames = g % 16)
      | _ => false

/-- Copies of a lease on the object that are still held (R198). -/
def State.copiesHeld (s : State) (o : LeaseObj) : List (Nat × Lease) :=
  s.leases.filter fun p => decide (p.2.home < 4) && p.2.obj.kind = o.kind && p.2.index = o.treeIndex && p.2.alive

/-- The code of a partition command, and whether it renews (R345). A copy that is LAPSED while others of its lease are still held, a
notice not yet applied there, counts as being scrubbed (R198, R347); a key slot does while any copy is ending (19 R353). -/
def State.ptcode (s : State) (die part : Nat) (o : LeaseObj) (bad badArg : Bool) : Nat × Bool :=
  let mine := s.copyOf die o
  let root : Bool := match o with
    | .root _ => true
    | _ => match s.rootLease part die with | some l => l.alive | none => false
  let renews : Bool := match mine with | some (_, l) => l.alive && l.part = part | none => false
  if (s.die die).life = 0 then (lsLife, false)
  else if bad ∨ 64 ≤ part ∨ !root ∨ (badArg ∧ !renews) then (lsBadObj, false)
  else if (!renews || o.kind = 11) && s.beingScrubbed o then (lsScrub, false)
  else if renews then (0, true)
  else if (s.copiesHeld o).any fun p => p.2.part = part then (lsScrub, false)
  else if !(s.copiesHeld o).isEmpty then (lsBusy, false)
  else if (match o with | .chan _ g _ _ => s.failedGroups.contains g | _ => false) then (lsNoRes, false)
  else (0, false)

/-- A renewal goes to the four copies, where their tick steps apply it; one that finds its copy past its lapse leaves LS_STALE in
the port (R345, 08 R191, R198). -/
def State.renewCopies (s : State) (die : Nat) (o : LeaseObj) (life : Nat) : State :=
  match s.copyOf die o with
  | some (n, l) =>
    let (k, s) := s.takeFresh
    let s := s.spreadRenewal l life k (some die)
    { s with extensions := s.extensions ++ [{ lease := n, gen := l.gen, life := life, order := k, port := some die }] }
  | none => s

/-- A command written to a die's port: it is applied at all four Prompters. -/
def State.ptcmd (s : State) (die part : Nat) (o : LeaseObj) (bad badArg : Bool) : State × Bool :=
  if !s.rdy ∨ !s.firmware die ∨ (s.die die).ptbusy then (s, false)
  else
    let life := (s.die die).life
    let (code, renews) := s.ptcode die part o bad badArg
    let done (s : State) (code : Nat) : State := s.modDie die fun d => { d with ptbusy := true, ptcode := BitVec.ofNat 8 code }
    if code ≠ 0 then (done s code, false)
    else if renews then (done (s.renewCopies die o life) 0, false)
    else (done ((List.range Config.dies).foldl (fun s d => s.putCopy part o life d) s) 0, true)

/-- A command by its op, as `ptcmd` and `ptarg` give it (R345): a root has member number 0, a share is 1 to 3,000 GB/s, a key slot
takes the XTS key pair, and ops 6-15 are reserved and end with LS_BADOBJ. -/
def State.portCommand (s : State) (die op part res : Nat) : State :=
  let a := (s.die die).ptarg
  match op with
  | 0 => (s.ptcmd die part (.root part) (res != 0) false).1
  | 1 => (s.ptcmd die part (.ring part res) (decide (64 ≤ res)) false).1
  | 2 => (s.ptcmd die part (.slice part res) (decide (256 ≤ res)) false).1
  | 3 => (s.ptcmd die part (.chan part res (a.toNat / 2 ^ 44 % 16) (a.getLsbD 48)) (decide (64 ≤ res)) false).1
  | 4 =>
    let gbps := a.toNat / 2 ^ 32 % 2 ^ 12
    (s.ptcmd die part (.share part res gbps) (decide (8 ≤ res)) (decide (gbps = 0 ∨ 3000 < gbps))).1
  | 5 =>
    let key : BitVec 512 := BitVec.ofNat 512 (((List.range 8).map fun k => (tget (0 : Word) (s.die die).ptkey k).toNat * 2 ^ (64 * k)).sum)
    let (s, granted) := s.ptcmd die part (.key part res) (decide (16 ≤ res)) false
    if granted then
      s.modPart part fun q => { q with keys := (List.range Config.dies).foldl (fun t d => tset t (d * 16 + res) key) q.keys }
    else s
  | _ =>
    if !s.rdy ∨ !s.firmware die ∨ (s.die die).ptbusy then s
    else s.modDie die fun d => { d with ptbusy := true, ptcode := BitVec.ofNat 8 lsBadObj }

/-- Root of a partition (R345, op 0), with member number 0; a write of `ptcmd` gives any other (`State.writeManagement`). -/
def execPtcmdRoot (die part : Nat) (s : State) : Host.Outcome State Fault Refusal := .next (s.portCommand die 0 part 0)

/-- Ring member (op 1). -/
def execPtcmdRing (die part res : Nat) (s : State) : Host.Outcome State Fault Refusal := .next (s.portCommand die 1 part res)

/-- Slice member (op 2). -/
def execPtcmdSlice (die part res : Nat) (s : State) : Host.Outcome State Fault Refusal := .next (s.portCommand die 2 part res)

/-- Channel group member, with its key slot and encryption (op 3). -/
def execPtcmdChannelGroup (die part res : Nat) (s : State) : Host.Outcome State Fault Refusal := .next (s.portCommand die 3 part res)

/-- Share member (op 4). -/
def execPtcmdShare (die part res : Nat) (s : State) : Host.Outcome State Fault Refusal := .next (s.portCommand die 4 part res)

/-- Key slot, with its XTS key pair (op 5). -/
def execPtcmdKeySlot (die part res : Nat) (s : State) : Host.Outcome State Fault Refusal := .next (s.portCommand die 5 part res)

/-- A reserved op code (op 6-15). -/
def execPtcmdReservedOp (die : Nat) (op : BitVec 4) (s : State) : Host.Outcome State Fault Refusal :=
  if op.toNat < 6 then .next s else .next (s.portCommand die op.toNat 0 0)

/-- All four Prompters have applied the command. -/
def execPtcmdApplied (die : Nat) (s : State) : Host.Outcome State Fault Refusal :=
  if (s.die die).ptbusy && !(s.extensions.any fun e => e.port = some die) then .next (s.modDie die fun d => { d with ptbusy := false })
  else .next s

/-! ## Retirement (20 R366) -/

/-- End a retirement command at once with a code. -/
def State.rtRefuse (s : State) (die : Nat) (code : BitVec 3) : State := s.modDie die fun d => { d with rtcode := code }

/-- Retire a DRAM row: its contents go to a spare row of its channel. -/
def State.retireRow (s : State) (die chan bank row : Nat) : State :=
  let d := s.die die
  if !s.firmware die ∨ d.rtbusy then s
  else if 64 ≤ chan ∨ 16 ≤ bank ∨ 2 ^ 17 ≤ row then s.rtRefuse die 3
  else if 64 ≤ (d.rowMap.filter fun r => r.1 = chan).length then s.rtRefuse die 1
  else s.modDie die fun d =>
    { d with rtbusy := true, rtcode := 0, rtEnd := d.cyc + 1024, rowMap := (chan, bank, row) :: d.rowMap }

/-- Does a ring member hold the ring, or is it being scrubbed? -/
def State.ringTaken (s : State) (r : Nat) : Bool :=
  (s.leases.any fun p => match p.2.obj with | .ring _ q => q = r && p.2.alive | _ => false) || s.beingScrubbed (.ring 0 r)

/-- Retire a ring: its number names its domain's spare ring, which is scrubbed first. -/
def State.retireRing (s : State) (die ring : Nat) : State :=
  let d := s.die die
  if !s.firmware die ∨ d.rtbusy then s
  else if 64 ≤ ring ∨ ring / 16 ≠ die then s.rtRefuse die 3
  else if s.ringTaken ring then s.rtRefuse die 2
  else if d.ringMap.any fun r => r / 8 = ring / 8 then s.rtRefuse die 1
  else
    let s := s.modDie die fun d =>
      { d with rtbusy := true, rtcode := 0, rtEnd := d.cyc + 36864, ringMap := ring :: d.ringMap }
    (List.range 8).foldl
      (fun s k => s.startJob { die := die, cell := some (8 * ring + k), bytes := 0x24_0000, row := rowOfRing (8 * ring + k) } 36864) s

/-- Op 0 of `rtcmd`. -/
def execRetireDramRow (die chan bank row : Nat) (s : State) : Host.Outcome State Fault Refusal := .next (s.retireRow die chan bank row)

/-- Op 1 of `rtcmd`. -/
def execRetireRing (die ring : Nat) (s : State) : Host.Outcome State Fault Refusal := .next (s.retireRing die ring)

/-- The command ends: accesses held for a row go on, and `rtst.busy` clears. -/
def execRetirementDone (die : Nat) (s : State) : Host.Outcome State Fault Refusal :=
  let d := s.die die
  if d.rtbusy && decide (d.rtEnd ≤ d.cyc) then .next (s.modDie die fun d => { d with rtbusy := false }) else .next s

/-! ## Register writes (18 R345; 20 R366; 21 R374) -/

/-- Write a register of a die's management space: `ptcmd` and `rtcmd` give the commands of their fields. -/
def State.writeManagement (s : State) (die off : Nat) (v : Word) : State :=
  let f (lo w : Nat) : Nat := v.toNat / 2 ^ lo % 2 ^ w
  if off = 0x100 then s.portCommand die (f 0 4) (f 4 6) (f 10 8)
  else if off = 0x108 then s.modDie die fun d => { d with ptarg := v &&& 0x0001_FFFF_FFFF_FFFF }
  else if 0x110 ≤ off ∧ off ≤ 0x148 ∧ off % 8 = 0 then
    s.modDie die fun d => { d with ptkey := tset d.ptkey ((off - 0x110) / 8) v }
  else if off = 0x200 then if f 0 1 = 0 then s.retireRow die (f 1 6) (f 7 4) (f 11 17) else s.retireRing die (f 28 6)
  else if 0x300 ≤ off ∧ off < 0x500 ∧ off % 8 = 0 then s.modPdie ((off - 0x300) / 8) die fun p => p.setPolicy v
  else if off = 0x600 then s.debugCommand v
  else s

/-- A register write by the host or by firmware. -/
def execRegisterWrite (port : RegPort) (off : Nat) (v : Word) (s : State) : Host.Outcome State Fault Refusal :=
  match port with
  | .function n =>
    if n = 0 ∨ 64 < n ∨ (s.part (n - 1)).flr.isSome then .next s else .next (s.writeFunction (n - 1) off v)
  | .management die => if s.firmware die then .next (s.writeManagement die off v) else .next s

end Sys2Proof.Machine
end

