-- ==== Sys2Proof/Machine/Boot.lean ====
section
/-! DEFINITION. The cell control page as steps; resets, power, bring-up, the host's and the sideband's requests, soft
errors and second mappings (01 R13, R24, R25; 17 R336; 19 R356, R357; 20 R359-R365; 21 R367-R372). -/

namespace Sys2Proof.Machine

/-! ## The cell control page (01 R13, R24, R25) -/

/-- `cctl.rot` is written. -/
def execRotationChangeWrite (cell : Nat) (rot : Bool) (s : State) : Host.Outcome State Fault Refusal :=
  if cell < Config.cells then .next (s.writeRot cell rot) else .next s

/-- The pending rotation mode takes effect at its boundary. -/
def execRotationBoundary (cell : Nat) (s : State) : Host.Outcome State Fault Refusal :=
  if cell < Config.cells then .next (s.rotBoundary cell) else .next s

/-- `cctl.spsz` is written. -/
def execSplitChangeWrite (cell : Nat) (spsz : BitVec 2) (s : State) : Host.Outcome State Fault Refusal :=
  if cell < Config.cells then .next (s.writeSplit cell spsz) else .next s

/-- A split change ends. -/
def execSplitChangeDone (cell : Nat) (s : State) : Host.Outcome State Fault Refusal :=
  if cell < Config.cells then .next (s.splitDone cell) else .next s

/-- A 1 is written to `cctl.sprf`. -/
def execSprfClear (cell : Nat) (s : State) : Host.Outcome State Fault Refusal :=
  if cell < Config.cells then .next (s.clearSprf cell) else .next s

/-! ## Function-level reset (19 R356) -/

/-- Jobs of a partition that wait or run, from before this cycle (19 R358); one that completes in it counts as complete. -/
def State.jobsOf (s : State) (part : Nat) : List Nat :=
  (s.jobs.filter fun p =>
    p.2.part = some part && match p.2.endAt with
      | some t => decide (p.2.since < s.cyc p.2.die ∧ s.cyc p.2.die + 1 < t)
      | none => false).map (·.1)

/-- An FLR is accepted and holds the function. It comes as a configuration request, which is not accepted before stage 5 has ended
(21 R367) or while the function is held. -/
def execFunctionLevelReset (part : Nat) (s : State) : Host.Outcome State Fault Refusal :=
  if 64 ≤ part ∨ !s.rdy ∨ (s.part part).flr.isSome then .next s
  else
    let l := s.jobsOf part
    .next (s.modPart part fun p => { p with flr := some l })

/-- The registers that an FLR returns to their reset values; pending queue entries and unread reports are dropped. -/
def PartDie.flr (p : PartDie) : PartDie :=
  { p with qbase := 0, qtail := 0, qhead := 0, ovf := false, sabase := 0, sasize := 0, safl := false, saStop := false }

def Part.afterFlr (p : Part) : Part :=
  { p with
    flr := none, dies := p.dies.map fun d => (d.1, d.2.flr)
    fqbase := 0, fqlg := 0, fqtail := 0, fqhead := 0, ptvec := 0, hwbase := 0, hwlen := 0, moveFull := false, moveRefd := false }

/-- Have the jobs that an FLR counted completed? -/
def State.flrOver (s : State) (part : Nat) : Bool :=
  match (s.part part).flr with
  | some l => !(l.any fun n => (tfind s.jobs n).isSome)
  | none => false

/-- The hold ends, and the function's registers are reset. -/
def execFlrHoldEnd (part : Nat) (s : State) : Host.Outcome State Fault Refusal :=
  if s.flrOver part then .next (s.modPart part Part.afterFlr) else .next s

/-! ## Module reset and power (19 R357; 21 R367) -/

/-- What a die keeps through a module reset: DRAM contents and marks. -/
def Die.kept (d : Die) : Die := { dram := d.dram, written := d.written, cipher := d.cipher, owned := d.owned, clean := d.clean }

/-- What the module keeps through loss of power: the flash and the fuses. Free values and the tape run on. -/
def State.cold (s : State) (on : Bool) : State :=
  { powered := on, slotA := s.slotA, slotB := s.slotB, rollback := s.rollback, free := s.free, sched := s.sched, holds := s.holds }

/-- A module reset ends everything but DRAM with its marks, and bring-up starts again. -/
def execModuleReset (s : State) : Host.Outcome State Fault Refusal :=
  if !s.powered then .next s
  else
    let n : Byte := if s.resets = 255 then 255 else s.resets + 1
    .next { s.cold true with dies := s.dies.map (fun (d : Nat × Die) => (d.1, d.2.kept)), resets := n }

/-- Power-on: bring-up starts, with no frame scrubbed yet. -/
def execPowerOn (s : State) : Host.Outcome State Fault Refusal := if s.powered then .next s else .next (s.cold true)

/-- Loss of supply ends all state. -/
def execPowerLoss (s : State) : Host.Outcome State Fault Refusal := .next (s.cold false)

/-! ## Bring-up (21 R367, R368, R370, R372) -/

/-- The header bytes that the digest covers. -/
def FlashSlot.head (f : FlashSlot) : List Byte :=
  leBytes f.magic.toNat 4 ++ leBytes f.len 4 ++ leBytes f.svn.toNat 4 ++ leBytes 0 4

/-- Is a slot's image accepted (R368)? -/
def FlashSlot.passes (f : FlashSlot) (rollback : BitVec 32) : Bool :=
  f.magic == 0x58475833 && decide (f.len ≤ 0x80_0000 - 128 ∧ f.len ≤ f.image.length) &&
    Config.sm3 (f.head ++ f.image.take f.len) == f.dig && Config.sm2Verifies f.dig f.sig && decide (rollback.toNat ≤ f.svn.toNat)

/-- What the ROM loads from an accepted image: `tvec2`, `qpol` and the retirement tables. -/
def State.loadImage (s : State) (img : List Byte) : State :=
  let s := (List.range Config.dies).foldl
    (fun (s : State) d => s.modDie d fun x =>
      { x with tvec2 := Config.imageTvec2 img &&& ~~~3, rowMap := Config.imageRetiredRows img d, ringMap := Config.imageRetiredRings img d }) s
  (List.range 64).foldl
    (fun s p => (List.range Config.dies).foldl
      (fun s d => s.modPdie p d fun q => q.setPolicy (Config.imageQpol img d p)) s) s

/-- The house cores start the image of an accepted slot, whose `len` bytes alone are its (R367, R368). -/
def State.boot (s : State) (b : Bool) : State :=
  let f := if b then s.slotB else s.slotA
  { s.loadImage (f.image.take f.len) with img := b, stage := 1, house := 0xFF }

/-- Stage 0: slot A, then slot B; none passes: failure 0, and the house cores stop. -/
def execImageCheck (s : State) : Host.Outcome State Fault Refusal :=
  if !s.powered ∨ s.stage ≠ 0 ∨ s.fail ≠ 7 then .next s
  else if s.slotA.passes s.rollback then .next (s.boot false)
  else if s.slotB.passes s.rollback then .next (s.boot true)
  else .next { s with fail := 0, house := 0 }

/-- The rescrub jobs of a die (19 R357): every frame whose owned mark is set, and every group not scrubbed since
power-on as one job (log 24). -/
def State.rescrub (s : State) (die : Nat) : State :=
  let d := s.die die
  let groups := (List.range 16).filter fun g => !d.clean.contains g
  let s := groups.foldl
    (fun s g => s.startJob { die := die, group := some g, bytes := groupFrames * 0x1_0000, row := rowDram } (groupFrames * 64)) s
  (d.owned.filter fun f => d.clean.contains (f / groupFrames)).foldl
    (fun s f => s.startJob { die := die, frames := [f], bytes := 0x1_0000, row := rowDram } 64) s

/-- Stage 1: DRAM calibration; the groups of channels that fail are never granted. -/
def execDramCalibration (failed : List Nat) (s : State) : Host.Outcome State Fault Refusal :=
  if s.stage ≠ 1 then .next s
  else .next { (List.range Config.dies).foldl (fun s d => s.rescrub d) s with failedGroups := failed, stage := 2 }

/-- Stage 2: the die-to-die links. A failure stops the sequence. -/
def execDieLinkTraining (pass : Bool) (s : State) : Host.Outcome State Fault Refusal :=
  if s.stage ≠ 2 ∨ s.fail ≠ 7 then .next s
  else if pass then .next { s with stage := 3 } else .next { s with fail := 2 }

/-- Stage 3: PCIe training at a width of 1, 2, 4, 8 or 16 lanes and a rate of 1 to 6. A failure is retried after 2^20 rt. -/
def execPcieTraining (up : Bool) (width : BitVec 5) (rate : BitVec 3) (s : State) : Host.Outcome State Fault Refusal :=
  if s.stage ≠ 3 ∨ s.ref 0 < s.retryAt then .next s
  else if up ∧ [1, 2, 4, 8, 16].contains width.toNat ∧ 1 ≤ rate.toNat ∧ rate.toNat ≤ 6 then
    .next { s with stage := 4, fail := 7, pcw := width, pcr := rate }
  else .next { s with fail := 3, retryAt := s.ref 0 + 2 ^ 20 }

/-- Stage 4: CXL is accepted or refused by the partner. Stage 5 begins, whose ports time out after 2^24 rt. -/
def execCxlNegotiation (accepted : Bool) (s : State) : Host.Outcome State Fault Refusal :=
  if s.stage = 4 then .next { s with cxl := accepted, stage := 5, retryAt := s.ref 0 + 2 ^ 24 } else .next s

/-- Stage 5 ends with these ports up, once every other one has timed out; the module is ready. -/
def execEthernetAutoneg (up : BitVec 8) (s : State) : Host.Outcome State Fault Refusal :=
  if s.stage = 5 ∧ (up = 0xFF ∨ s.retryAt ≤ s.ref 0) then .next { s with pup := up, stage := 7, rdy := true } else .next s

/-! ## The host and the sideband (21 R367, R369-R371) -/

/-- What a configuration request of a function is answered with (19 R356). Before stage 3 has ended there is no link. -/
def State.configAnswer (s : State) (fn : Nat) : HostOut :=
  if s.stage.toNat < 4 then .noLink
  else if fn = 0 then .config 0
  else if 64 < fn then .none
  else if !s.rdy ∨ (s.part (fn - 1)).flr.isSome then .retryStatus
  else .config fn

/-- A configuration request. -/
def execHostConfigRequest (fn : Nat) (s : State) : Host.Outcome State Fault Refusal :=
  .next { s with hostOut := s.configAnswer fn }

/-- SMBus command 0x10. -/
def execSmbusReadBstat (s : State) : Host.Outcome State Fault Refusal := .next { s with hostOut := .value s.bstat }

/-- SMBus command 0x11. -/
def execSmbusReadResetCount (s : State) : Host.Outcome State Fault Refusal := .next { s with hostOut := .byte s.resets }

/-- Any other SMBus command is NACKed. -/
def execSmbusOtherCommand (cmd : Byte) (s : State) : Host.Outcome State Fault Refusal :=
  if cmd = 0x10 ∨ cmd = 0x11 then .next s else .next { s with hostOut := .nack }

/-- The accepted image's slot. -/
def State.bootSlot (s : State) : FlashSlot := if s.img then s.slotB else s.slotA

/-- The bytes that an attestation is signed over: its fields in the order of R369 (log 6). -/
def attestBytes (f : FlashSlot) (nonce : BitVec 256) (bstat : List Word) : List Byte :=
  leBytes f.dig.toNat 32 ++ leBytes f.svn.toNat 4 ++ leBytes Config.identityDigest.toNat 32 ++ leBytes nonce.toNat 32 ++
    bstat.flatMap fun w => leBytes w.toNat 8

/-- House firmware answers an attestation request, once the physical function answers (R369). -/
def execAttestationRequest (nonce : BitVec 256) (s : State) : Host.Outcome State Fault Refusal :=
  if s.stage.toNat < 4 then .next { s with hostOut := .noLink }
  else
    let f := s.bootSlot
    let each := List.replicate Config.dies s.bstat
    let sig := Config.sm2Sign (Config.sm3 (attestBytes f nonce each))
    .next { s with hostOut := .attestation f.dig f.svn Config.identityDigest nonce each sig }

/-! ## Soft errors (20 R359, R360, R365; 12 R260) -/

/-- Where an error lies: die, DRAM or not, and the fields of `errloc`; no offset: the spec gives none (log 5). -/
structure ErrSite where
  die  : Nat
  dram : Bool := false
  kind : Nat
  unit : Nat := 0
  off  : Option Nat := none

def State.errSite (s : State) (e : ErrPlace) : ErrSite :=
  let inCell (c : Nat) (kind : Nat) (off : Option Nat) : ErrSite := { die := dieOfCell c, kind := kind, unit := c, off := off }
  match e with
  | .scratchpad c off => inCell c 1 (some (off / 8 * 8))
  | .l2 die pa => { die := die, kind := 2, unit := (match tfind (s.die die).l2 (pa / 128 * 128) with | some l => l.slice % 64 | none => 0) }
  | .dram die pa => { die := die, dram := true, kind := 3, off := some (pa / 8 * 8) }
  | .latch c _ => inCell c 4 none
  | .registers x _ => inCell (s.ctx x).cell 5 none
  | .image x _ => inCell (s.ctx x).cell 5 none
  | .tile c i => inCell c 7 (some (8 * i))
  | .queue c _ _ => inCell c 6 none
  | .l1 c _ _ => inCell c 1 none
  | .version k _ =>
    let va := k % 2 ^ 48
    { die := (match s.page (k / 2 ^ 48) va with | some p => p.die | none => 0), kind := 2
      unit := (match s.sliceOf (k / 2 ^ 48) va with | some p => p.2 % 64 | none => 0) }

/-- A doubleword of a register that holds a value: x1-x31, p1-p7, the engine registers, the v and c registers (20 R359). -/
def registerWord (r : Nat) : Bool :=
  decide ((1 ≤ r ∧ r < 32) ∨ (49 ≤ r ∧ r < 56) ∨ (64 ≤ r ∧ r < 71) ∨ (128 ≤ r ∧ r < 256) ∨ (256 ≤ r ∧ r < 272))

/-- Is there a protected unit at the place: a line that is present, a context, a queue entry, a live version? A DRAM line with its zero
mark set is never checked. -/
def State.errExists (s : State) (e : ErrPlace) : Bool :=
  match e with
  | .scratchpad c off => decide (c < Config.cells ∧ off < (s.cell c).spadSize)
  | .l2 die pa => decide (die < Config.dies) && (tfind (s.die die).l2 (pa / 128 * 128)).isSome
  | .dram die pa => decide (die < Config.dies) && (s.die die).written.contains (pa / 128)
  | .latch c _ => decide (c < Config.cells)
  | .registers x r => (tfind s.ctxs x).isSome && registerWord r
  | .image x k => decide (k < 256) && match tfind s.ctxs x with | some c => c.place = .understudy || c.place = .saveArea | none => false
  | .tile c i => decide (c < Config.cells ∧ i < 16384)
  | .queue c i k => decide (k < 4 ∧ i < (s.cell c).queue.length)
  | .l1 c p off => decide (off < 128) && (tfind (s.cell c).l1 p).isSome
  | .version k n => (s.page (k / 2 ^ 48) (k % 2 ^ 48)).isSome && (tget [] s.versions k).any fun v => v.num = n

/-- Set the poison mark of a unit. -/
def State.poisonAt (s : State) (e : ErrPlace) : State :=
  match e with
  | .scratchpad c off => s.modCell c fun k => { k with spad := { k.spad with poison := nins k.spad.poison (off / 8) } }
  | .l2 die pa =>
    s.modDie die fun d =>
      { d with l2 := tmod {} d.l2 (pa / 128 * 128) fun l => { l with data := { l.data with poison := nins l.data.poison (pa % 128 / 8) } } }
  | .dram die pa => s.modDie die fun d => { d with dram := { d.dram with poison := nins d.dram.poison (pa / 8) } }
  | .latch c back =>
    s.modCell c fun k => { k with latch := if back then { k.latch with kBad := true } else { k.latch with fBad := true } }
  | .registers x r => s.modCtx x fun c => { c with badRegs := nins c.badRegs r }
  | .image x k => s.modCtx x fun c => { c with poisoned := nins c.poisoned k }
  | .tile c i => s.modCell c fun k => { k with tilePoison := nins k.tilePoison i }
  | .queue c i d =>
    s.modCell c fun k =>
      { k with queue := k.queue.zipIdx.map fun q => if q.2 = i then { q.1 with poison := nins q.1.poison d } else q.1 }
  | .l1 c p off =>
    s.modCell c fun k =>
      { k with l1 := tmod {} k.l1 p fun l => { l with data := { l.data with poison := nins l.data.poison (off / 8) } } }
  | .version k n =>
    { s with versions := tmod [] s.versions k fun l => l.map fun v => if v.num = n then { v with bad := true } else v }

/-- A correctable error is counted; an uncorrectable one marks the unit, is counted and is named in `errloc`. The step
stands for the error and the read that finds it (log 25). -/
def execSoftError (at_ : ErrPlace) (double : Bool) (s : State) : Host.Outcome State Fault Refusal :=
  if !s.errExists at_ then .next s
  else
    let e := s.errSite at_
    if double then
      let (off, s) : Nat × State := match e.off with
        | some n => (n, s)
        | none => ((Config.freeWord s.free).toNat, { s with free := s.free + 1 })
      let loc := BitVec.ofNat 64 (e.kind + e.unit % 512 * 2 ^ 3 + off % 2 ^ 36 * 2 ^ 12)
      .next ((s.poisonAt at_).modDie e.die fun d =>
        { d with
          errloc := loc
          sue := if e.dram then d.sue else satInc16 d.sue
          due := if e.dram then satInc16 d.due else d.due })
    else
      .next (s.modDie e.die fun d =>
        { d with sce := if e.dram then d.sce else satInc16 d.sce, dce := if e.dram then satInc16 d.dce else d.dce })

/-! ## Second mappings (17 R336) -/

/-- House firmware, which the house cores run, maps a frame that holds a page under a second name: one 64 KiB frame, aligned. -/
def execFrameSecondMapping (die frame : Nat) (sid : BitVec 16) (va : Word) (s : State) : Host.Outcome State Fault Refusal :=
  let va := va.toNat / 0x1_0000 * 0x1_0000
  match s.groupOfFrame die frame with
  | none => .next s
  | some p =>
    if !s.firmware die ∨ va < Config.memBase ∨ Config.memTop ≤ va then .next s
    else
      let q : Page := { p with part := sid.toNat / 1024, sid := sid, va := va, big := false, frame := frame, second := true }
      .next { s with pages := s.pages ++ [q] }

end Sys2Proof.Machine
end

