-- ==== Sys2Proof/Machine/Issue.lean ====
section
/-! DEFINITION. Issue of a slot: fetch, the traps taken in place of a decoded instruction, and the automatic return of a
migrated thread (01 R8, R18; 03 R52-R54; 05 R131, R132; 16 R311; 17 R330; 20 R361). -/

namespace Sys2Proof.Machine

/-! ## Automatic return (05 R132) -/

/-- The local address that an instruction accesses, if any (the first of a range; the first lane of a gather is judged
by its major). -/
def accessOf (c : Ctx) : Instr → Option Word
  | .ldB _ a _ _ i | .ldBu _ a _ _ i | .stB _ a _ _ i => some (effAddr (c.x? a.toNat) i 1)
  | .ldH _ a _ _ i | .ldHu _ a _ _ i | .stH _ a _ _ i => some (effAddr (c.x? a.toNat) i 2)
  | .ldW _ a _ _ i | .ldWu _ a _ _ i | .stW _ a _ _ i => some (effAddr (c.x? a.toNat) i 4)
  | .ldD _ a _ _ i | .stD _ a _ _ i => some (effAddr (c.x? a.toNat) i 8)
  | .ldDTake _ a _ i | .stDGive _ a _ i => some (effAddr (c.x? a.toNat) i 8)
  | .ldvEq _ a _ | .ldvLe _ a _ | .stv _ a _ => some (c.x? a.toNat)
  | .amoAdd _ a _ _ _ _ | .amoMin _ a _ _ _ _ | .amoMax _ a _ _ _ _ | .amoAnd _ a _ _ _ _ | .amoOr _ a _ _ _ _
  | .amoXor _ a _ _ _ _ => some (c.x? a.toNat)
  | .amoSwp _ a _ _ _ | .amoCas _ a _ _ _ => some (c.x? a.toNat)
  | .barArv _ a | .barAw _ a | .barWt a _ | .barExp a _ => some (c.x? a.toNat)
  | .inv a _ _ | .wb a _ _ | .wbinv a _ _ | .pf a _ _ => some (c.x? a.toNat)
  | .capld _ a | .capst _ a | .llk _ a _ => some (c.x? a.toNat)
  | _ => none

/-- Must a migrated thread return before the instruction executes? -/
def mustReturn (c : Ctx) (w : IWord) (i : Instr) : Bool :=
  let major := (fld w 26 6).toNat
  decide (0x22 ≤ major ∧ major ≤ 0x2C) || major == 0x2E ||
    (match i with | .spawn .. | .idle .. | .halt => true | _ => false) ||
    (match accessOf c i with | some a => decide (a.toNat < Config.memBase) | none => false)

/-- Is the instruction at a migrated thread's pc one that it returns for? -/
def State.returns (s : State) (x : Nat) : Bool :=
  match s.fetchWord x with
  | .error _ => false
  | .ok (_, w) =>
    match decodeWord w with
    | .ok i => mustReturn (s.ctx x) w i
    | .error _ => false

/-- The packed state is written back into the slot, which becomes READY at the instruction that caused the return. -/
def execMigrationReturn (ctx : Nat) (s : State) : Host.Outcome State Fault Refusal :=
  match tfind s.ctxs ctx with
  | none => .next s
  | some c => if c.migrated && s.returns ctx then .next (s.comeHome ctx) else .next s

/-! ## What an issue does before the instruction's own meaning -/

/-- Charge one issue: the cell's batch or the pantry core's, and the latest event's units; in a rollback handler it counts
as rolled back (13 R271; 16 R311). -/
def State.chargeIssue (s : State) (x : Nat) : State :=
  let c := s.ctx x
  let place := match c.place with | .pantry core => 512 + core | _ => c.cell
  let s := s.chargeRolled place c.entry 1 (if c.inHandler then 1 else 0)
  s.modCtx x fun c => c.countIssue 1

/-- The slot issues in this cycle (01 R8, R11). -/
def State.noteIssue (s : State) (x : Nat) : State :=
  let c := s.ctx x
  let s := s.noteTurn x
  if c.migrated then s else s.modCell c.cell fun k => { k with lastIssuer := c.slot }

/-- Does a privilege check come before the poison of a source register (03 R53)? -/
def privFirst (c : Ctx) : Instr → Bool
  | .csrr _ n | .csrw _ _ n | .csrs _ _ n | .csrc _ _ n => decide (c.pl.toNat < n.toNat / 256 % 4)
  | .capsetMint _ _ _ => c.pl = 0
  | _ => false

/-- Does the instruction read a poisoned register (20 R361)? -/
def Ctx.readsBad (c : Ctx) (i : Instr) : Bool := !privFirst c i && (sourceRegs i).any fun r => (regWords r).any c.badRegs.contains

/-- What a slot's issue turns into. -/
inductive Issue where
  | rollback                   -- the rollback sequence (01 R18)
  | groupLapse                 -- the LAPSED trap of a group lapse (13 R278)
  | poisonImage                -- the first issue after a restore of a poisoned image (20 R361)
  | budget                     -- the BUDGET trap (16 R316)
  | fetchFault (code : Byte)
  | illegal (w : IWord)
  | comeBack                   -- a migrated thread returns before the instruction (05 R132)
  | run (i : Instr)
  deriving DecidableEq, Repr

/-- The traps and sequences that take the issue, in order (01 R18). -/
def Ctx.taken (c : Ctx) : Option Issue :=
  if c.rbp then some .rollback
  else if c.grpLapsed then some .groupLapse
  else if !c.poisoned.isEmpty then some .poisonImage
  else if c.bp then some .budget
  else none

/-- An issue of a word is noted and charged. -/
def State.issueWord (s : State) (x : Nat) (w : IWord) : State := ((s.chargeIssue x).noteIssue x).modCtx x fun c => { c with word := w }

/-- Does the context fetch at its next issue: nothing is in flight, and no trap or sequence comes first? -/
def Ctx.fetches (c : Ctx) : Bool :=
  c.running && c.sst == .ready && !c.charged && c.vacating.isNone && c.switchEnd.isNone && c.taken.isNone

/-- A word that names no instruction, or uses an illegal field, is issued and charged: ILL, with the word itself (03 R52, R54). The
step is the acting context's issue, where it fetches that word. -/
def execIllegalInstructionWord (w : IWord) (s : State) : Host.Outcome State Fault Refusal :=
  match tfind s.ctxs s.cur, s.fetchWord s.cur, decodeWord w with
  | some c, .ok (t, v), .error _ => if c.fetches && v == w then .next ((t.issueWord s.cur w).trap cILL 0) else .next s
  | _, _, _ => .next s

/-- A fetch that faults takes the issue and is charged: eaddr = pc, eword = 0 (17 R330). The step is the acting context's issue,
where its fetch has that fault. -/
def execInstructionFetchFault (code : Byte) (s : State) : Host.Outcome State Fault Refusal :=
  match tfind s.ctxs s.cur, s.fetchWord s.cur with
  | some c, .error e => if c.fetches && e == code then .next ((s.issueWord s.cur 0).trap code c.pc) else .next s
  | _, _ => .next s

/-- A fresh issue: fetch and decode, and charge the instruction. -/
def State.freshIssue (s : State) (x : Nat) : State × Issue :=
  let s := { s with cur := x }
  match s.fetchWord x with
  | .error e => (s, .fetchFault e)
  | .ok (t, w) =>
    match decodeWord w with
    | .error _ => (s, .illegal w)
    | .ok i =>
      let t := t.issueWord x w
      if (t.ctx x).migrated && mustReturn (t.ctx x) w i then (t, .comeBack) else (t, .run i)

/-- The trap of a restored image that was poisoned (20 R361). It records the word that the slot would have issued (17 R325). -/
def State.poisonImage (s : State) (x : Nat) : State :=
  let (s, w) := { s with cur := x }.wordAt x
  let s := s.modCtx x fun c => { c with poisoned := [], word := w }
  (s.noteIssue x).trapAlone cPOISON 0

/-- Does the slot wait for a tile's lock: it reissues its load, uncharged (01 R23)? -/
def Ctx.reissues (c : Ctx) : Bool := match c.wait with | .tile _ => true | _ => false

/-- What the slot of a context does now: an issue, or another try of the instruction in flight. -/
def State.issueOf (s : State) (x : Nat) : State × Issue :=
  let c := s.ctx x
  if c.charged then
    let s := { s with cur := x }
    let s := if c.reissues then s.noteIssue x else s
    match decodeWord c.word with
    | .ok i => (s, .run i)
    | .error _ => (s, .illegal c.word)
  else
    match c.taken with
    | some i => ({ s with cur := x }, i)
    | none => s.freshIssue x

/-! ## The rotation (01 R8-R12; 14 R289) -/

/-- Have the cycles passed that follow the last issue of a context, and of its slot (R8; 04 R83)? -/
def State.rested (s : State) (c : Ctx) : Bool :=
  let now := s.cyc (dieOfCell c.cell)
  (match c.lastIssue with
   | some t => decide (t + c.gap ≤ now)
   | none => true) &&
    (match c.place, tfind (s.cell c.cell).issued c.slot with
     | .slot, some t => decide (t + 8 ≤ now)
     | _, _ => true)

/-- May the slot of a context issue in this cycle? A load that waited for a tile's lock reissues like any other (R23). -/
def State.canIssue (s : State) (c : Ctx) : Bool :=
  c.sst == .ready && (!c.charged || c.reissues) && c.vacating.isNone && c.switchEnd.isNone &&
    decide (c.readySince ≤ s.cyc (dieOfCell c.cell)) && s.rested c

/-- Waiting age (R11). -/
def State.ageOf (s : State) (c : Ctx) : Nat :=
  s.cyc (dieOfCell c.cell) - max c.readySince (c.lastIssue.getD 0)

/-- Has the cell issued in this cycle (R8)? The Stagehand's issue counts. -/
def State.cellIssued (s : State) (cell : Nat) : Bool :=
  let now := s.cyc (dieOfCell cell)
  ((s.cell cell).issued.any fun p => p.2 = now) || decide ((s.cell cell).stageIssue = now + 16)

/-- Who issues: a context, or the Stagehand of a cell for a copy. -/
inductive Turn where
  | ctx (x : Nat)
  | copy (cell id : Nat)
  deriving DecidableEq, Repr

/-- The copy whose step the Stagehand starts: mailboxes in round-robin order after that of the last step (07 R177). -/
def State.stageWork (s : State) (cell : Nat) : Option Turn :=
  let k := s.cell cell
  if !s.stageTurn cell then none
  else
    ((List.range 8).findSome? fun j =>
      k.runs.find? fun r => r.mailbox = (k.stageLast + 1 + j) % 8 && s.copyReady cell r && (r.more || !r.started)).map fun r =>
        .copy cell r.req.id

/-- Does a candidate (age, slot) come before another (R11)? Among equal ages, the first after the last issuer wins. -/
def comesFirst (last : Nat) (a b : Nat × Nat) : Bool :=
  decide (b.1 < a.1) || (a.1 == b.1 && decide ((a.2 + 15 - last) % 16 < (b.2 + 15 - last) % 16))

/-- The candidate that issues in a cell: its age, slot and what it does. -/
def State.chooseSlot (s : State) (cell : Nat) : Option Turn :=
  let k := s.cell cell
  let now := s.cyc (dieOfCell cell)
  if s.cellIssued cell then none
  else
    let slots : List (Nat × Nat × Turn) :=
      ((s.ctxs.filter fun p => p.2.cell = cell && (p.2.place = .slot) && s.canIssue p.2).map fun (p : Nat × Ctx) =>
        (s.ageOf p.2, p.2.slot, Turn.ctx p.1))
    let stage : List (Nat × Nat × Turn) := match s.stageWork cell with
      | some i => [(now - max k.stageReady (k.stageIssue - 16), 15, i)]
      | none => []
    let all := slots ++ stage
    if k.mode then
      (all.foldl
        (fun (b : Option (Nat × Nat × Turn)) p => match b with
          | some q => if comesFirst k.lastIssuer (p.1, p.2.1) (q.1, q.2.1) then some p else b
          | none => some p) none).map (·.2.2)
    else (all.find? fun p => p.2.1 = now % 16).map (·.2.2)

/-- The guest that issues at a pantry core, which issues once in a cycle (14 R289): the one that has waited longest. -/
def State.chooseGuest (s : State) (core : Nat) : Option Turn :=
  let l := s.ctxs.filter fun p => p.2.place = .pantry core
  if s.coreBusy core then none
  else
    ((l.filter fun p => s.canIssue p.2).foldl
      (fun (b : Option (Nat × Ctx)) p => match b with
        | some q => if s.ageOf q.2 < s.ageOf p.2 then some p else b
        | none => some p) none).map fun p => Turn.ctx p.1

/-- Cells that hold a context or copy work. -/
def State.activeCells (s : State) : NSet :=
  s.cells.foldl (fun l p => if p.2.runs.isEmpty then l else nins l p.1) (s.ctxs.foldl (fun l p => nins l p.2.cell) [])

/-- Pantry cores with a guest thread. -/
def State.activeCores (s : State) : NSet :=
  s.ctxs.foldl (fun l p => match p.2.place with | .pantry c => nins l c | _ => l) []

/-- May a die's cells and cores still issue in this cycle? The tick step of its last one closes it (log 4). -/
def State.open_ (s : State) (die : Nat) : Bool := !(s.tickEnds die && s.ticked die)

/-- Is the word an `mldb`? -/
def isMldb (w : IWord) : Bool := match decodeWord w with | .ok (.mldb ..) => true | _ => false

/-- Does a turn issue an `mldb`? -/
def State.fillsLatch (s : State) : Turn → Bool
  | .ctx x => match s.fetchWord x with | .ok (_, w) => isMldb w | .error _ => false
  | .copy .. => false

/-- The next issue of this cycle, cell by cell, then core by core; an `mldb` comes last, since a send that begins in the same cycle
takes K before it (12 R257). -/
def State.nextIssue (s : State) : Option Turn :=
  let cells := s.activeCells.filter fun c => s.open_ (dieOfCell c)
  match cells.findSome? fun c => (s.chooseSlot c).filter fun t => !s.fillsLatch t with
  | some m => some m
  | none =>
    match cells.findSome? s.chooseSlot with
    | some m => some m
    | none => (s.activeCores.filter fun k => s.open_ (k / 16)).findSome? s.chooseGuest

/-- Does the context wait to begin the load of an `mldb`? -/
def Ctx.waitsLatch (c : Ctx) : Bool := c.wait == .again && isMldb c.word

/-- A charged instruction that is tried again in this cycle: a condition it tests itself, the end of the load of `mldb`, a
woken `wmsg` (log 26). `late` asks for an `mldb` that waits for K, which is tried after the issues of the cycle (12 R257). -/
def State.nextRetry (s : State) (late : Bool) : Option Nat :=
  (s.ctxs.find? fun p =>
    let c := p.2
    let now := s.cyc (dieOfCell c.cell)
    c.charged && c.vacating.isNone && c.switchEnd.isNone && (c.place = .slot || c.migrated) && c.waitsLatch == late &&
      match c.wait with
      | .again => c.sst != .halted && decide (c.lastTry < now)
      | .load t => c.sst != .halted && decide (t ≤ now ∧ c.lastTry < now)
      | .msg _ => c.sst == .ready
      | _ => false).map (·.1)

/-! ## Time -/

/-- One cycle passes on every die; scrub jobs end with it (19 R351), and slots whose switch ends leave SWITCHING (01 R19; 16 R320;
log 4). -/
def State.passCycle (s : State) : State :=
  let s := ((List.range Config.dies).foldl (fun (s : State) d => s.modDie d fun x => { x with cyc := x.cyc + 1 }) s).endJobs
  (s.ctxs.filter fun p =>
    match p.2.switchEnd with
    | some t => decide (t ≤ s.cyc (dieOfCell p.2.cell))
    | none => false).foldl (fun s p => s.endSwitch p.1) s

end Sys2Proof.Machine
end

