-- ==== Sys2Proof/Machine/Dispatch.lean ====
section
/-! DEFINITION. One arm for each constructor of Instr: a direct call of its meaning. -/

namespace Sys2Proof.Machine

def exec (i : Instr) (s : State) : Host.Outcome State Fault Refusal :=
  match i with
  | .add d a b => Sys2Proof.Machine.execAdd d a b s
  | .sub d a b => Sys2Proof.Machine.execSub d a b s
  | .and d a b => Sys2Proof.Machine.execAnd d a b s
  | .or d a b => Sys2Proof.Machine.execOr d a b s
  | .xor d a b => Sys2Proof.Machine.execXor d a b s
  | .shl d a b => Sys2Proof.Machine.execShl d a b s
  | .shr d a b => Sys2Proof.Machine.execShr d a b s
  | .sra d a b => Sys2Proof.Machine.execSra d a b s
  | .slt d a b => Sys2Proof.Machine.execSlt d a b s
  | .sltu d a b => Sys2Proof.Machine.execSltu d a b s
  | .min d a b => Sys2Proof.Machine.execMin d a b s
  | .max d a b => Sys2Proof.Machine.execMax d a b s
  | .minu d a b => Sys2Proof.Machine.execMinu d a b s
  | .maxu d a b => Sys2Proof.Machine.execMaxu d a b s
  | .mul d a b => Sys2Proof.Machine.execMul d a b s
  | .mulh d a b => Sys2Proof.Machine.execMulh d a b s
  | .mulhu d a b => Sys2Proof.Machine.execMulhu d a b s
  | .div d a b => Sys2Proof.Machine.execDiv d a b s
  | .divu d a b => Sys2Proof.Machine.execDivu d a b s
  | .rem d a b => Sys2Proof.Machine.execRem d a b s
  | .remu d a b => Sys2Proof.Machine.execRemu d a b s
  | .clz d a => Sys2Proof.Machine.execClz d a s
  | .ctz d a => Sys2Proof.Machine.execCtz d a s
  | .popc d a => Sys2Proof.Machine.execPopc d a s
  | .bfx d a b => Sys2Proof.Machine.execBfx d a b s
  | .bfi d a b => Sys2Proof.Machine.execBfi d a b s
  | .sext d a w => Sys2Proof.Machine.execSext d a w s
  | .zext d a w => Sys2Proof.Machine.execZext d a w s
  | .addi d a imm => Sys2Proof.Machine.execAddi d a imm s
  | .andi d a imm => Sys2Proof.Machine.execAndi d a imm s
  | .ori d a imm => Sys2Proof.Machine.execOri d a imm s
  | .xori d a imm => Sys2Proof.Machine.execXori d a imm s
  | .slti d a imm => Sys2Proof.Machine.execSlti d a imm s
  | .shli d a n => Sys2Proof.Machine.execShli d a n s
  | .shri d a n => Sys2Proof.Machine.execShri d a n s
  | .srai d a n => Sys2Proof.Machine.execSrai d a n s
  | .lui d imm => Sys2Proof.Machine.execLui d imm s
  | .addpc d imm => Sys2Proof.Machine.execAddpc d imm s
  | .beq a b o => Sys2Proof.Machine.execBeq a b o s
  | .bne a b o => Sys2Proof.Machine.execBne a b o s
  | .blt a b o => Sys2Proof.Machine.execBlt a b o s
  | .bge a b o => Sys2Proof.Machine.execBge a b o s
  | .bltu a b o => Sys2Proof.Machine.execBltu a b o s
  | .bgeu a b o => Sys2Proof.Machine.execBgeu a b o s
  | .jal d o => Sys2Proof.Machine.execJal d o s
  | .jalr d a imm => Sys2Proof.Machine.execJalr d a imm s
  | .ldB d a o w imm => Sys2Proof.Machine.execLdB d a o w imm s
  | .ldH d a o w imm => Sys2Proof.Machine.execLdH d a o w imm s
  | .ldW d a o w imm => Sys2Proof.Machine.execLdW d a o w imm s
  | .ldD d a o w imm => Sys2Proof.Machine.execLdD d a o w imm s
  | .ldDTake d a w imm => Sys2Proof.Machine.execLdDTake d a w imm s
  | .ldBu d a o w imm => Sys2Proof.Machine.execLdBu d a o w imm s
  | .ldHu d a o w imm => Sys2Proof.Machine.execLdHu d a o w imm s
  | .ldWu d a o w imm => Sys2Proof.Machine.execLdWu d a o w imm s
  | .stB f a o w imm => Sys2Proof.Machine.execStB f a o w imm s
  | .stH f a o w imm => Sys2Proof.Machine.execStH f a o w imm s
  | .stW f a o w imm => Sys2Proof.Machine.execStW f a o w imm s
  | .stD f a o w imm => Sys2Proof.Machine.execStD f a o w imm s
  | .stDGive f a w imm => Sys2Proof.Machine.execStDGive f a w imm s
  | .ldvEq d a b => Sys2Proof.Machine.execLdvEq d a b s
  | .ldvLe d a b => Sys2Proof.Machine.execLdvLe d a b s
  | .stv f a b => Sys2Proof.Machine.execStv f a b s
  | .amoAdd d a b o n t => Sys2Proof.Machine.execAmoAdd d a b o n t s
  | .amoMin d a b o n t => Sys2Proof.Machine.execAmoMin d a b o n t s
  | .amoMax d a b o n t => Sys2Proof.Machine.execAmoMax d a b o n t s
  | .amoAnd d a b o n t => Sys2Proof.Machine.execAmoAnd d a b o n t s
  | .amoOr d a b o n t => Sys2Proof.Machine.execAmoOr d a b o n t s
  | .amoXor d a b o n t => Sys2Proof.Machine.execAmoXor d a b o n t s
  | .amoSwp d a b o t => Sys2Proof.Machine.execAmoSwp d a b o t s
  | .amoCas d a b o t => Sys2Proof.Machine.execAmoCas d a b o t s
  | .fenceCell => Sys2Proof.Machine.execFenceCell s
  | .fenceDom => Sys2Proof.Machine.execFenceDom s
  | .fenceDie => Sys2Proof.Machine.execFenceDie s
  | .fenceMod => Sys2Proof.Machine.execFenceMod s
  | .fenceSys => Sys2Proof.Machine.execFenceSys s
  | .fenceX => Sys2Proof.Machine.execFenceX s
  | .flagf c a => Sys2Proof.Machine.execFlagf c a s
  | .barArv d a => Sys2Proof.Machine.execBarArv d a s
  | .barWt a b => Sys2Proof.Machine.execBarWt a b s
  | .barAw d a => Sys2Proof.Machine.execBarAw d a s
  | .barExp a b => Sys2Proof.Machine.execBarExp a b s
  | .inv a b f => Sys2Proof.Machine.execInv a b f s
  | .wb a b f => Sys2Proof.Machine.execWb a b f s
  | .wbinv a b f => Sys2Proof.Machine.execWbinv a b f s
  | .pf a b f => Sys2Proof.Machine.execPf a b f s
  | .vadd d a b p w r t => Sys2Proof.Machine.execVadd d a b p w r t s
  | .vsub d a b p w r t => Sys2Proof.Machine.execVsub d a b p w r t s
  | .vmul d a b p w r t => Sys2Proof.Machine.execVmul d a b p w r t s
  | .vfma d a b p r t => Sys2Proof.Machine.execVfma d a b p r t s
  | .vmin d a b p w t => Sys2Proof.Machine.execVmin d a b p w t s
  | .vmax d a b p w t => Sys2Proof.Machine.execVmax d a b p w t s
  | .vand d a b p => Sys2Proof.Machine.execVand d a b p s
  | .vor d a b p => Sys2Proof.Machine.execVor d a b p s
  | .vxor d a b p => Sys2Proof.Machine.execVxor d a b p s
  | .vshl d a b p t => Sys2Proof.Machine.execVshl d a b p t s
  | .vshr d a b p t => Sys2Proof.Machine.execVshr d a b p t s
  | .vsra d a b p t => Sys2Proof.Machine.execVsra d a b p t s
  | .vcmp d a b p c t => Sys2Proof.Machine.execVcmp d a b p c t s
  | .vsel d a b p t => Sys2Proof.Machine.execVsel d a b p t s
  | .vabs d a p w t => Sys2Proof.Machine.execVabs d a p w t s
  | .vneg d a p w t => Sys2Proof.Machine.execVneg d a p w t s
  | .vcvt d a p e f => Sys2Proof.Machine.execVcvt d a p e f s
  | .vcvtRtz d a p e f => Sys2Proof.Machine.execVcvtRtz d a p e f s
  | .vrcp d a p r t => Sys2Proof.Machine.execVrcp d a p r t s
  | .vrsq d a p r t => Sys2Proof.Machine.execVrsq d a p r t s
  | .vexp d a p r t => Sys2Proof.Machine.execVexp d a p r t s
  | .vlog d a p r t => Sys2Proof.Machine.execVlog d a p r t s
  | .vbcast d a p t => Sys2Proof.Machine.execVbcast d a p t s
  | .vext d a b t => Sys2Proof.Machine.execVext d a b t s
  | .vins d a b t => Sys2Proof.Machine.execVins d a b t s
  | .vperm d a b p t => Sys2Proof.Machine.execVperm d a b p t s
  | .vred d a p r f t => Sys2Proof.Machine.execVred d a p r f t s
  | .vld d a o w imm => Sys2Proof.Machine.execVld d a o w imm s
  | .vst d a o w imm => Sys2Proof.Machine.execVst d a o w imm s
  | .vgth d a b p o f => Sys2Proof.Machine.execVgth d a b p o f s
  | .vsct d a b p o f => Sys2Proof.Machine.execVsct d a b p o f s
  | .pand d a b => Sys2Proof.Machine.execPand d a b s
  | .por d a b => Sys2Proof.Machine.execPor d a b s
  | .pxor d a b => Sys2Proof.Machine.execPxor d a b s
  | .pnot d a => Sys2Proof.Machine.execPnot d a s
  | .pset d n => Sys2Proof.Machine.execPset d n s
  | .psetX d a => Sys2Proof.Machine.execPsetX d a s
  | .pcnt d a k => Sys2Proof.Machine.execPcnt d a k s
  | .mma a b d => Sys2Proof.Machine.execMma a b d s
  | .mzero d => Sys2Proof.Machine.execMzero d s
  | .mldb a b => Sys2Proof.Machine.execMldb a b s
  | .mrot => Sys2Proof.Machine.execMrot s
  | .mlda a d => Sys2Proof.Machine.execMlda a d s
  | .msta a d => Sys2Proof.Machine.execMsta a d s
  | .mset a e => Sys2Proof.Machine.execMset a e s
  | .mget e d => Sys2Proof.Machine.execMget e d s
  | .qcvt a b d => Sys2Proof.Machine.execQcvt a b d s
  | .qchk a b d => Sys2Proof.Machine.execQchk a b d s
  | .qchkW a b => Sys2Proof.Machine.execQchkW a b s
  | .qstat a d => Sys2Proof.Machine.execQstat a d s
  | .cpy m a b d => Sys2Proof.Machine.execCpy m a b d s
  | .cpg m a b d => Sys2Proof.Machine.execCpg m a b d s
  | .cps m a b d => Sys2Proof.Machine.execCps m a b d s
  | .cpr m a b d => Sys2Proof.Machine.execCpr m a b d s
  | .cpq d => Sys2Proof.Machine.execCpq d s
  | .snd a => Sys2Proof.Machine.execSnd a s
  | .rcv d b => Sys2Proof.Machine.execRcv d b s
  | .wmsg d a => Sys2Proof.Machine.execWmsg d a s
  | .pkmsg d b => Sys2Proof.Machine.execPkmsg d b s
  | .lacqSp d a b => Sys2Proof.Machine.execLacqSp d a b s
  | .lacqAcc d a b => Sys2Proof.Machine.execLacqAcc d a b s
  | .lacqCls d a b => Sys2Proof.Machine.execLacqCls d a b s
  | .lacqL2 d a b => Sys2Proof.Machine.execLacqL2 d a b s
  | .lacqPage d a b => Sys2Proof.Machine.execLacqPage d a b s
  | .lacqPath d a b => Sys2Proof.Machine.execLacqPath d a b s
  | .lacqGrp d a b => Sys2Proof.Machine.execLacqGrp d a b s
  | .renew a b => Sys2Proof.Machine.execRenew a b s
  | .life d a => Sys2Proof.Machine.execLife d a s
  | .llk d a b => Sys2Proof.Machine.execLlk d a b s
  | .lgen d a => Sys2Proof.Machine.execLgen d a s
  | .lpar d a b => Sys2Proof.Machine.execLpar d a b s
  | .optOn d a => Sys2Proof.Machine.execOptOn d a s
  | .optOff d => Sys2Proof.Machine.execOptOff d s
  | .ckpt d a n => Sys2Proof.Machine.execCkpt d a n s
  | .rbret => Sys2Proof.Machine.execRbret s
  | .capld c a => Sys2Proof.Machine.execCapld c a s
  | .capst c a => Sys2Proof.Machine.execCapst c a s
  | .capnar c e b => Sys2Proof.Machine.execCapnar c e b s
  | .capsetCur c e b => Sys2Proof.Machine.execCapsetCur c e b s
  | .capsetPerm c e b => Sys2Proof.Machine.execCapsetPerm c e b s
  | .capsetMint c a b => Sys2Proof.Machine.execCapsetMint c a b s
  | .capget d c k => Sys2Proof.Machine.execCapget d c k s
  | .go d a => Sys2Proof.Machine.execGo d a s
  | .home => Sys2Proof.Machine.execHome s
  | .rld d c z o w imm => Sys2Proof.Machine.execRld d c z o w imm s
  | .rst f c z o w imm => Sys2Proof.Machine.execRst f c z o w imm s
  | .ramoAdd d c b o n t => Sys2Proof.Machine.execRamoAdd d c b o n t s
  | .ramoMin d c b o n t => Sys2Proof.Machine.execRamoMin d c b o n t s
  | .ramoMax d c b o n t => Sys2Proof.Machine.execRamoMax d c b o n t s
  | .ramoAnd d c b o n t => Sys2Proof.Machine.execRamoAnd d c b o n t s
  | .ramoOr d c b o n t => Sys2Proof.Machine.execRamoOr d c b o n t s
  | .ramoXor d c b o n t => Sys2Proof.Machine.execRamoXor d c b o n t s
  | .ramoSwp d c b o t => Sys2Proof.Machine.execRamoSwp d c b o t s
  | .ramoCas d c b o t => Sys2Proof.Machine.execRamoCas d c b o t s
  | .csrr d c => Sys2Proof.Machine.execCsrr d c s
  | .csrw d a c => Sys2Proof.Machine.execCsrw d a c s
  | .csrs d a c => Sys2Proof.Machine.execCsrs d a c s
  | .csrc d a c => Sys2Proof.Machine.execCsrc d a c s
  | .trap n => Sys2Proof.Machine.execTrap n s
  | .eret => Sys2Proof.Machine.execEret s
  | .halt => Sys2Proof.Machine.execHalt s
  | .yield => Sys2Proof.Machine.execYield s
  | .idle d a => Sys2Proof.Machine.execIdle d a s
  | .spawn d a b => Sys2Proof.Machine.execSpawn d a b s
  | .brk n => Sys2Proof.Machine.execBrk n s
  | .budx d a => Sys2Proof.Machine.execBudx d a s
  | .bget d k => Sys2Proof.Machine.execBget d k s
  | .rotationChangeWrite cell rot => Sys2Proof.Machine.execRotationChangeWrite cell rot s
  | .rotationBoundary cell => Sys2Proof.Machine.execRotationBoundary cell s
  | .splitChangeWrite cell spsz => Sys2Proof.Machine.execSplitChangeWrite cell spsz s
  | .splitChangeDone cell => Sys2Proof.Machine.execSplitChangeDone cell s
  | .sprfClear cell => Sys2Proof.Machine.execSprfClear cell s
  | .registerWrite port off v => Sys2Proof.Machine.execRegisterWrite port off v s
  | .homeTickStep die => Sys2Proof.Machine.execHomeTickStep die s
  | .leaseExpiry lease => Sys2Proof.Machine.execLeaseExpiry lease s
  | .lapseNotice notice => Sys2Proof.Machine.execLapseNotice notice s
  | .leaseRequestArrival req => Sys2Proof.Machine.execLeaseRequestArrival req s
  | .grantReplyDelivery req => Sys2Proof.Machine.execGrantReplyDelivery req s
  | .llkTimeout req => Sys2Proof.Machine.execLlkTimeout req s
  | .lockDrain lease => Sys2Proof.Machine.execLockDrain lease s
  | .lockGrant lease => Sys2Proof.Machine.execLockGrant lease s
  | .guardNotice notice => Sys2Proof.Machine.execGuardNotice notice s
  | .lapsingEnd lease => Sys2Proof.Machine.execLapsingEnd lease s
  | .scrubJobComplete job => Sys2Proof.Machine.execScrubJobComplete job s
  | .cacheSweep die lease => Sys2Proof.Machine.execCacheSweep die lease s
  | .homeAccessArrival pkt => Sys2Proof.Machine.execHomeAccessArrival pkt s
  | .accessReply pkt => Sys2Proof.Machine.execAccessReply pkt s
  | .postedAck pkt => Sys2Proof.Machine.execPostedAck pkt s
  | .postedRefusalReport pkt => Sys2Proof.Machine.execPostedRefusalReport pkt s
  | .feBackoffRetry ctx => Sys2Proof.Machine.execFeBackoffRetry ctx s
  | .parkedWake ctx => Sys2Proof.Machine.execParkedWake ctx s
  | .idleWake ctx => Sys2Proof.Machine.execIdleWake ctx s
  | .barrierArrival pkt => Sys2Proof.Machine.execBarrierArrival pkt s
  | .barrierDeclaration pkt => Sys2Proof.Machine.execBarrierDeclaration pkt s
  | .barrierByteReport pkt => Sys2Proof.Machine.execBarrierByteReport pkt s
  | .l1ReadLeaseEnd cell line => Sys2Proof.Machine.execL1ReadLeaseEnd cell line s
  | .dirtyLineTimeout cell line => Sys2Proof.Machine.execDirtyLineTimeout cell line s
  | .l1Eviction cell line => Sys2Proof.Machine.execL1Eviction cell line s
  | .l1Writeback cell line => Sys2Proof.Machine.execL1Writeback cell line s
  | .l2Eviction die pa => Sys2Proof.Machine.execL2Eviction die pa s
  | .l2Fill sid va => Sys2Proof.Machine.execL2Fill sid va s
  | .dramWriteback die pa => Sys2Proof.Machine.execDramWriteback die pa s
  | .stagehandTakeRequest cell => Sys2Proof.Machine.execStagehandTakeRequest cell s
  | .copyStep cell copy => Sys2Proof.Machine.execCopyStep cell copy s
  | .copyStepLanded cell copy idx => Sys2Proof.Machine.execCopyStepLanded cell copy idx s
  | .copyStepRefusal cell copy idx code addr => Sys2Proof.Machine.execCopyStepRefusal cell copy idx code addr s
  | .copyPassEnd cell copy => Sys2Proof.Machine.execCopyPassEnd cell copy s
  | .copyReplayTimer cell copy => Sys2Proof.Machine.execCopyReplayTimer cell copy s
  | .copyRetire cell copy => Sys2Proof.Machine.execCopyRetire cell copy s
  | .cprChunkRead cell copy => Sys2Proof.Machine.execCprChunkRead cell copy s
  | .cprElementAck cell copy elt => Sys2Proof.Machine.execCprElementAck cell copy elt s
  | .engineOpStart cell conv => Sys2Proof.Machine.execEngineOpStart cell conv s
  | .engineOpRetire cell conv => Sys2Proof.Machine.execEngineOpRetire cell conv s
  | .matrixCommand msg => Sys2Proof.Machine.execMatrixCommand msg s
  | .mrotSendBegin cell => Sys2Proof.Machine.execMrotSendBegin cell s
  | .latchTransferEnd cell => Sys2Proof.Machine.execLatchTransferEnd cell s
  | .latchSwap cell => Sys2Proof.Machine.execLatchSwap cell s
  | .messageArrival msg => Sys2Proof.Machine.execMessageArrival msg s
  | .antiMessageArrival msg => Sys2Proof.Machine.execAntiMessageArrival msg s
  | .fabricHeldMessageAccept msg => Sys2Proof.Machine.execFabricHeldMessageAccept msg s
  | .rollbackSequence ctx => Sys2Proof.Machine.execRollbackSequence ctx s
  | .rollbackRequeueResume ctx => Sys2Proof.Machine.execRollbackRequeueResume ctx s
  | .gvtRoundStart grp => Sys2Proof.Machine.execGvtRoundStart grp s
  | .gvtCut grp cell => Sys2Proof.Machine.execGvtCut grp cell s
  | .gvtReport grp cell => Sys2Proof.Machine.execGvtReport grp cell s
  | .gvtReportResult grp => Sys2Proof.Machine.execGvtReportResult grp s
  | .gvtReportRetry grp => Sys2Proof.Machine.execGvtReportRetry grp s
  | .gvtPublication grp cell => Sys2Proof.Machine.execGvtPublication grp cell s
  | .deferredEntryPerform grp cell => Sys2Proof.Machine.execDeferredEntryPerform grp cell s
  | .groupLapseTrap ctx => Sys2Proof.Machine.execGroupLapseTrap ctx s
  | .budgetTrap ctx => Sys2Proof.Machine.execBudgetTrap ctx s
  | .chargeBatchSend cell entry => Sys2Proof.Machine.execChargeBatchSend cell entry s
  | .chargeApply die => Sys2Proof.Machine.execChargeApply die s
  | .graceCountExhausted entry => Sys2Proof.Machine.execGraceCountExhausted entry s
  | .budRefresh cell entry => Sys2Proof.Machine.execBudRefresh cell entry s
  | .budxRequest req => Sys2Proof.Machine.execBudxRequest req s
  | .bgetRequest req => Sys2Proof.Machine.execBgetRequest req s
  | .qtailWrite part die v => Sys2Proof.Machine.execQtailWrite part die v s
  | .qbaseWrite part die v => Sys2Proof.Machine.execQbaseWrite part die v s
  | .queueEntryTest part die => Sys2Proof.Machine.execQueueEntryTest part die s
  | .slotAssignment cell => Sys2Proof.Machine.execSlotAssignment cell s
  | .cellPlacement entry cell => Sys2Proof.Machine.execCellPlacement entry cell s
  | .preemptionRequest ctx => Sys2Proof.Machine.execPreemptionRequest ctx s
  | .vacatePoint ctx => Sys2Proof.Machine.execVacatePoint ctx s
  | .contextRestore ctx => Sys2Proof.Machine.execContextRestore ctx s
  | .savedContextEvent ctx ev => Sys2Proof.Machine.execSavedContextEvent ctx ev s
  | .sabaseWrite part die v => Sys2Proof.Machine.execSabaseWrite part die v s
  | .faultReport report => Sys2Proof.Machine.execFaultReport report s
  | .fqbaseWrite part v => Sys2Proof.Machine.execFqbaseWrite part v s
  | .fqlostRead part => Sys2Proof.Machine.execFqlostRead part s
  | .statisticsBlockRead part n => Sys2Proof.Machine.execStatisticsBlockRead part n s
  | .errcntRead die => Sys2Proof.Machine.execErrcntRead die s
  | .pmoveWrite part v => Sys2Proof.Machine.execPmoveWrite part v s
  | .quiescePoint part => Sys2Proof.Machine.execQuiescePoint part s
  | .fabricRequestAtSwitch pkt => Sys2Proof.Machine.execFabricRequestAtSwitch pkt s
  | .combinedReplySplit pkt => Sys2Proof.Machine.execCombinedReplySplit pkt s
  | .remoteUpdateThread pkt => Sys2Proof.Machine.execRemoteUpdateThread pkt s
  | .migrationReturn ctx => Sys2Proof.Machine.execMigrationReturn ctx s
  | .deliveryFrameArrival peer frame => Sys2Proof.Machine.execDeliveryFrameArrival peer frame s
  | .deliveryReplyArrival ctxnum seq stale v => Sys2Proof.Machine.execDeliveryReplyArrival ctxnum seq stale v s
  | .retransmitTimer ctxnum seq => Sys2Proof.Machine.execRetransmitTimer ctxnum seq s
  | .retransmitExhausted ctxnum seq => Sys2Proof.Machine.execRetransmitExhausted ctxnum seq s
  | .deliveryContextQuiet endId => Sys2Proof.Machine.execDeliveryContextQuiet endId s
  | .ptcmdRoot die part => Sys2Proof.Machine.execPtcmdRoot die part s
  | .ptcmdRing die part res => Sys2Proof.Machine.execPtcmdRing die part res s
  | .ptcmdSlice die part res => Sys2Proof.Machine.execPtcmdSlice die part res s
  | .ptcmdChannelGroup die part res => Sys2Proof.Machine.execPtcmdChannelGroup die part res s
  | .ptcmdShare die part res => Sys2Proof.Machine.execPtcmdShare die part res s
  | .ptcmdKeySlot die part res => Sys2Proof.Machine.execPtcmdKeySlot die part res s
  | .ptcmdReservedOp die op => Sys2Proof.Machine.execPtcmdReservedOp die op s
  | .ptcmdApplied die => Sys2Proof.Machine.execPtcmdApplied die s
  | .mqpolWrite die part v => Sys2Proof.Machine.execMqpolWrite die part v s
  | .debugResume die cell slot => Sys2Proof.Machine.execDebugResume die cell slot s
  | .debugCommandIgnored die op => Sys2Proof.Machine.execDebugCommandIgnored die op s
  | .retireDramRow die chan bank row => Sys2Proof.Machine.execRetireDramRow die chan bank row s
  | .retireRing die ring => Sys2Proof.Machine.execRetireRing die ring s
  | .retirementDone die => Sys2Proof.Machine.execRetirementDone die s
  | .functionLevelReset part => Sys2Proof.Machine.execFunctionLevelReset part s
  | .flrHoldEnd part => Sys2Proof.Machine.execFlrHoldEnd part s
  | .moduleReset => Sys2Proof.Machine.execModuleReset s
  | .powerOn => Sys2Proof.Machine.execPowerOn s
  | .imageCheck => Sys2Proof.Machine.execImageCheck s
  | .dramCalibration failed => Sys2Proof.Machine.execDramCalibration failed s
  | .dieLinkTraining pass => Sys2Proof.Machine.execDieLinkTraining pass s
  | .pcieTraining up width rate => Sys2Proof.Machine.execPcieTraining up width rate s
  | .cxlNegotiation accepted => Sys2Proof.Machine.execCxlNegotiation accepted s
  | .ethernetAutoneg up => Sys2Proof.Machine.execEthernetAutoneg up s
  | .hostConfigRequest fn => Sys2Proof.Machine.execHostConfigRequest fn s
  | .hostMemoryAccess part va op => Sys2Proof.Machine.execHostMemoryAccess part va op s
  | .smbusReadBstat => Sys2Proof.Machine.execSmbusReadBstat s
  | .smbusReadResetCount => Sys2Proof.Machine.execSmbusReadResetCount s
  | .smbusOtherCommand cmd => Sys2Proof.Machine.execSmbusOtherCommand cmd s
  | .attestationRequest nonce => Sys2Proof.Machine.execAttestationRequest nonce s
  | .illegalInstructionWord w => Sys2Proof.Machine.execIllegalInstructionWord w s
  | .instructionFetchFault code => Sys2Proof.Machine.execInstructionFetchFault code s
  | .llkRequestArrival req => Sys2Proof.Machine.execLlkRequestArrival req s
  | .leaseReplyArrival req => Sys2Proof.Machine.execLeaseReplyArrival req s
  | .budgetReplyArrival req => Sys2Proof.Machine.execBudgetReplyArrival req s
  | .softError at_ double => Sys2Proof.Machine.execSoftError at_ double s
  | .powerLoss => Sys2Proof.Machine.execPowerLoss s
  | .portLinkDown port => Sys2Proof.Machine.execPortLinkDown port s
  | .portLinkUp port => Sys2Proof.Machine.execPortLinkUp port s
  | .frameSecondMapping die frame sid va => Sys2Proof.Machine.execFrameSecondMapping die frame sid va s

end Sys2Proof.Machine
end

