-- ==== Sys2Proof/Machine/Due.lean ====
section
/-! DEFINITION. The machine's own order: the steps of its units that are due in the present cycle, and which of them comes
first. The spec gives each unit its rules and leaves their order within a cycle, and the time that packets take, open: the
order here is the model's (log 4). An event that is not enabled leaves the state as it is, so a step is due when its
meaning changes the state. -/

namespace Sys2Proof.Machine

/-- A step of a unit. -/
abbrev Event := State → Host.Outcome State Fault Refusal

/-- The steps of requests on their way, and of their replies. -/
def State.packetEvents (s : State) : List Event :=
  s.packets.flatMap fun (p : Nat × Packet) =>
    let n := p.1
    match p.2.st with
    | .travelling => [execFabricRequestAtSwitch n, execHomeAccessArrival n, execBarrierArrival n, execBarrierDeclaration n, execBarrierByteReport n]
    | .queued => [execRemoteUpdateThread n]
    | .combined => []
    | .performed .. =>
      if p.2.mates.isEmpty then [execPostedAck n, execAccessReply n] else [execCombinedReplySplit n]
    | .refused _ =>
      if p.2.mates.isEmpty then [execPostedRefusalReport n, execAccessReply n] else [execCombinedReplySplit n]
    | .reported => [execPostedRefusalReport n]

/-- The steps of lease requests, budget requests, notices and reports on their way. -/
def State.requestEvents (s : State) : List Event :=
  (s.lreqs.flatMap fun (p : Nat × LeaseReq) =>
    [execLeaseRequestArrival p.1, execLlkRequestArrival p.1, execGrantReplyDelivery p.1, execLeaseReplyArrival p.1]) ++
  (s.breqs.flatMap fun (p : Nat × BudgetReq) => [execBudxRequest p.1, execBgetRequest p.1, execBudgetReplyArrival p.1]) ++
  (s.notices.flatMap fun (p : Nat × Notice) => [execLapseNotice p.1, execGuardNotice p.1]) ++
  s.reports.map fun (p : Nat × Report) => execFaultReport p.1

/-- The tick steps: the last of a tick's last cycle (08 R191). -/
def tickEvents : List Event := (List.range Config.dies).map fun d => execHomeTickStep d

/-- What follows from the end of leases. -/
def State.leaseEvents (s : State) : List Event :=
  s.leases.flatMap fun (p : Nat × Lease) =>
    if p.2.st = .lapsing then [execLapsingEnd p.1] else if p.2.draining.isSome then [execLockDrain p.1, execLockGrant p.1] else []

/-- The steps of messages on their way. -/
def State.messageEvents (s : State) : List Event :=
  s.flights.flatMap fun (p : Nat × Flight) =>
    if p.2.held then [execFabricHeldMessageAccept p.1, execMatrixCommand p.1]
    else [execMessageArrival p.1, execAntiMessageArrival p.1, execMatrixCommand p.1]

/-- The steps of a cell's engines, latch, copies, control page and L1. A copy step is an issue of slot 15. -/
def State.cellEvents (s : State) : List Event :=
  s.cells.flatMap fun (p : Nat × Cell) =>
    let c := p.1
    [execEngineOpRetire c false, execEngineOpRetire c true, execLatchTransferEnd c, execLatchSwap c, execMrotSendBegin c,
      execEngineOpStart c false, execEngineOpStart c true, execStagehandTakeRequest c, execRotationBoundary c, execSplitChangeDone c] ++
    (p.2.runs.flatMap fun r =>
      let id := r.req.id
      (r.sent.map fun (f : Nat × Nat) => execCopyStepLanded c id f.1) ++
      (r.flying.map fun (f : Nat × List Byte) => execCopyStepLanded c id f.1) ++
      (r.flying.flatMap fun (f : Nat × List Byte) =>
        if r.req.kind = 3 then (r.elements f.1).map fun e => execCprElementAck c id e else []) ++
      [execCopyPassEnd c id, execCopyReplayTimer c id, execCprChunkRead c id, execCopyRetire c id]) ++
    (p.2.l1.flatMap fun (l : Nat × L1Line) => [execL1ReadLeaseEnd c l.1, execDirtyLineTimeout c l.1]) ++
    p.2.unsent.map fun (u : Nat × Unsent) => execChargeBatchSend c u.1

/-- The steps of the Prompters. -/
def State.prompterEvents (s : State) : List Event :=
  (s.dies.filterMap fun (d : Nat × Die) => if d.2.charges.isEmpty then none else some (execChargeApply d.1)) ++
  (s.entries.flatMap fun (e : Nat × Entry) => if e.2.ended then [] else [execGraceCountExhausted e.1]) ++
  (s.refreshes.map fun r => execBudRefresh r.1 r.2.1) ++
  (s.parts.flatMap fun (p : Nat × Part) =>
    (p.2.dies.filterMap fun (d : Nat × PartDie) => if d.2.qtail = d.2.qhead then none else some (execQueueEntryTest p.1 d.1)) ++
    [execQuiescePoint p.1, execFlrHoldEnd p.1]) ++
  (s.ctxs.filterMap fun (p : Nat × Ctx) => if p.2.vacating.isSome then some (execVacatePoint p.1) else none) ++
  (((s.entries.flatMap fun (e : Nat × Entry) => if e.2.ended then [] else e.2.cells) ++
    (s.ctxs.filterMap fun (p : Nat × Ctx) => if p.2.vacating.isSome then some p.2.cell else none)).foldl nins []).map execSlotAssignment

/-- The steps of optimistic groups. -/
def State.groupEvents (s : State) : List Event :=
  (s.groups.flatMap fun (g : Nat × Group) =>
    [execGvtRoundStart g.1, execGvtReportResult g.1, execGvtReportRetry g.1] ++
    (g.2.cut.map fun c => execGvtCut g.1 c) ++
    (s.cells.flatMap fun (c : Nat × Cell) =>
      if (tfind c.2.groups g.1).isSome then [execGvtReport g.1 c.1, execGvtPublication g.1 c.1, execDeferredEntryPerform g.1 c.1] else [])) ++
  s.ctxs.filterMap fun (p : Nat × Ctx) => if p.2.member.isSome then some (execRollbackRequeueResume p.1) else none

/-- The steps of delivery contexts and of firmware's ports. -/
def State.portEvents (s : State) : List Event :=
  (s.ends.flatMap fun (e : Nat × DEnd) =>
    (e.2.unanswered.flatMap fun (u : Nat × Nat × Nat × Nat) =>
      if e.2.sender then [execRetransmitTimer e.2.num u.1, execRetransmitExhausted e.2.num u.1] else []) ++
    [State.endGoesOn e.1, execDeliveryContextQuiet e.1]) ++
  s.dies.flatMap fun (d : Nat × Die) => [execPtcmdApplied d.1, execRetirementDone d.1]

/-- Slots that wait at a home, for a back-off or for a tick, tried at most once in a cycle. -/
def State.wakeEvents (s : State) : List Event :=
  s.ctxs.flatMap fun (p : Nat × Ctx) =>
    if p.2.charged ∧ p.2.lastTry < s.cyc (dieOfCell p.2.cell) then
      match p.2.wait with
      | .fe .. | .version .. | .phase .. => [execParkedWake p.1]
      | .backoff .. => [execFeBackoffRetry p.1]
      | .tick _ => [execIdleWake p.1]
      | _ => []
    else []

/-- The ends of scrub jobs, which requests of the next cycle find done (19 R351). -/
def State.jobEvents (s : State) : List Event :=
  s.jobs.flatMap fun (p : Nat × Job) =>
    match p.2.lease with
    | some l => [execScrubJobComplete p.1, execCacheSweep p.2.die l]
    | none => [execScrubJobComplete p.1]

/-- Every step that may be due, in the model's order. -/
def State.events (s : State) : List Event :=
  s.jobEvents ++ s.requestEvents ++ s.packetEvents ++ s.messageEvents ++ s.cellEvents ++ s.leaseEvents ++ s.prompterEvents ++ s.groupEvents ++
    s.portEvents ++ s.wakeEvents

/-- The state after an event, when it changes anything. -/
def moved (s : State) (f : Event) : Option State :=
  match f s with
  | .next t => if t = s then none else some t
  | _ => none

/-- The state after the first step that is due. -/
def State.due (s : State) : Option State := s.events.findSome? (moved s)

/-- The state after the first tick step that is due. -/
def State.tickDue (s : State) : Option State := tickEvents.findSome? (moved s)

end Sys2Proof.Machine
end

