-- ==== Sys2Proof/Machine/Run.lean ====
section
/-! DEFINITION. What one step does: an event from outside, the issue of a context, or the machine's own next move
(01 R8-R12; log 4). -/

namespace Sys2Proof.Machine

/-- Can the context do anything now: it lies in a slot or a guest slot that is not SWITCHING, HALTED or being vacated? -/
def State.mayRun (s : State) (x : Nat) : Bool :=
  match tfind s.ctxs x with
  | none => false
  | some c =>
    (c.place = .slot || c.migrated) && c.sst != .switching && c.sst != .halted && c.vacating.isNone && c.switchEnd.isNone

/-- Run the decoded instruction, unless it reads a poisoned register (20 R361). -/
def State.runInstr (s : State) (x : Nat) (i : Instr) : Host.Outcome State Fault Refusal :=
  if (s.ctx x).readsBad i then .next (s.trapAlone cPOISON 0) else exec i s

/-- The context issues, or tries its instruction in flight again. -/
def State.doIssue (s : State) (x : Nat) : Host.Outcome State Fault Refusal :=
  if !s.mayRun x then .next s
  else
    match s.issueOf x with
    | (s, .run i) => s.runInstr x i
    | (s, .rollback) => execRollbackSequence x s
    | (s, .groupLapse) => execGroupLapseTrap x s
    | (s, .poisonImage) => .next (s.poisonImage x)
    | (s, .budget) => execBudgetTrap x s
    | (s, .fetchFault e) => execInstructionFetchFault e s
    | (s, .illegal w) => execIllegalInstructionWord w s
    | (s, .comeBack) => execMigrationReturn x s

/-- The machine's own next move: a step that is due, a try of an instruction in flight, an issue, a tick step, or the next cycle. -/
def State.ownMove (s : State) : Host.Outcome State Fault Refusal :=
  match s.due with
  | some t => .next t
  | none =>
    match s.nextRetry false with
    | some x => s.doIssue x
    | none =>
      match s.nextIssue with
      | some (.ctx x) => s.doIssue x
      | some (.copy c id) => execCopyStep c id s
      | none =>
        match s.nextRetry true with
        | some x => s.doIssue x
        | none =>
          match s.tickDue with
          | some t => .next t
          | none => .next s.passCycle

/-- An event from outside, or the machine's order made explicit. Without supply only power-on happens (19 R357). -/
def State.runEvent (s : State) (i : Instr) : Host.Outcome State Fault Refusal :=
  if s.powered || i == Instr.powerOn then exec i s else .fault .noSupply

/-- One move: the one that `sched` names, or the machine's own. -/
def State.move (s : State) : Host.Outcome State Fault Refusal :=
  match s.sched with
  | .event i :: t => { s with sched := t }.runEvent i
  | .issue x :: t => if s.powered then { s with sched := t }.doIssue x else .fault .noSupply
  | [] => if s.powered then s.ownMove else .fault .noSupply

/-! ## Placing a word for the next fetch (log 21) -/

/-- Where the placed word lies: the first address of partition memory, in the first frame of D0. -/
def placedAt : Nat := Config.memBase

/-- The page of the placed word. -/
def placedPage (part : Nat) (sid : BitVec 16) : Page := { part := part, sid := sid, va := placedAt }

/-- A context as it fetches the placed word: in its slot, READY, with nothing pending. -/
def Ctx.placed (c : Ctx) : Ctx :=
  { c with
    pc := BitVec.ofNat 64 placedAt, place := .slot, sst := .ready, wait := .none, charged := false, rbp := false, bp := false
    grpLapsed := false, poisoned := [], vacating := none, switchEnd := none, restoring := false }

/-- The machine with bytes stored where the acting context fetches next, and with that context next to issue. -/
def State.placeBytes (s : State) (bs : List Byte) : State :=
  let x := s.cur
  let c := s.ctx x
  let s := s.setCtx x c.placed
  let pg := placedPage c.part c.sid
  let s := { s with
    powered := true
    sched := .issue x :: s.sched
    pages := pg :: s.pages.filter fun p => !(p.sid = c.sid && decide (p.va < placedAt + 0x1_0000 ∧ placedAt < p.va + p.size)) }
  let s := s.modCell c.cell fun k => { k with l1 := k.l1.filter fun l => l.2.va ≠ placedAt }
  s.modDie 0 fun d =>
    { d with
      dram := d.dram.write 0 bs, written := nins d.written 0, cipher := tdel d.cipher 0, l2 := d.l2.filter fun (l : Nat × L2Line) => l.1 ≠ 0 }

end Sys2Proof.Machine
end

