-- ==== Sys2Proof/Machine/Step.lean ====
section
/-! DEFINITION. One step of the machine, and the placing of an instruction where the next step fetches. -/

namespace Sys2Proof.Machine

/-- One step. -/
def step (s : State) : Host.Outcome State Fault Refusal := s.move

/-- The instruction whose bits are `w` stored where the next step fetches: instructions are one little-endian word (03 R45). -/
def State.withFetchWord (s : State) (_nbits w : Nat) : State := s.placeBytes (bytesOfWord (BitVec.ofNat 32 w))

end Sys2Proof.Machine
end

