-- ==== Sys2Proof/Safety.lean ====
section
/-! DEFINITION. What a sound state is: the canonical form of every memory, legal privilege levels, hard-wired registers,
and the parts of the module that no step may change. Statements are made in these terms. -/

namespace Sys2Proof.Machine

/-! ## Memories in their canonical form -/

/-- A set of numbers is in canonical form: strictly rising. -/
def risesSet (lo : Nat) : NSet → Bool
  | [] => true
  | k :: t => decide (lo ≤ k) && risesSet (k + 1) t

/-- The bytes and marks of a bank are in canonical form. -/
def Bank.wf (b : Bank) : Bool :=
  Memory.wf b.bytes && risesSet 0 b.full && risesSet 0 b.tags && risesSet 0 b.poison

def L1Line.wf (l : L1Line) : Bool := l.data.wf
def L2Line.wf (l : L2Line) : Bool := l.data.wf

/-- The memories of a cell: scratchpad, latch and L1. -/
def Cell.wf (c : Cell) : Bool :=
  c.spad.wf && Memory.wf c.latch.f && Memory.wf c.latch.k && c.l1.all fun p => p.2.wf

/-- The memories of a die: DRAM and L2. -/
def Die.wf (d : Die) : Bool := d.dram.wf && d.l2.all fun p => p.2.wf

/-- Every memory of the module is in canonical form. -/
def State.memWf (s : State) : Bool := (s.cells.all fun p => p.2.wf) && s.dies.all fun p => p.2.wf

/-! ## Registers -/

/-- No privilege level of a context is 0b11 (01 R17, 17 R327). -/
def Ctx.plOk (c : Ctx) : Bool := c.pl != 3 && c.t1.pl != 3 && c.t2.pl != 3

/-- x0 and p0 hold nothing of their own (01 R15). -/
def Ctx.hardWired (c : Ctx) : Bool := (tfind c.x 0).isNone && (tfind c.p 0).isNone

/-! ## What a step leaves alone -/

/-- Nothing of the module differs but the acting context. -/
def SlotOnly (s t : State) : Prop :=
  t = { s with ctxs := t.ctxs } ∧ ∀ x, x ≠ s.cur → tfind t.ctxs x = tfind s.ctxs x

/-- The instruction in flight is over and the context goes on at `pc`: a STALLED slot is READY now, a PARKED one in the next
cycle (01 R9, 09 R206). -/
def Ctx.doneAt (c : Ctx) (pc : Word) (now : Nat) : Ctx :=
  let c := { c with pc := pc, charged := false, wait := .none }
  match c.sst with
  | .stalled => { c with sst := .ready, readySince := now }
  | .parked => { c with sst := .ready, shown := .parked, readySince := now + 1 }
  | _ => c

/-- The acting context goes on at the next word with `v` in xd (x0 discards it), and nothing else differs (01 R15). -/
structure WroteX (s t : State) (d : BitVec 5) (v : Word) : Prop where
  slot  : SlotOnly s t
  keeps : t.self = { s.self.doneAt (s.self.pc + 4) s.now with x := t.self.x, badRegs := t.self.badRegs }
  xs    : ∀ r : BitVec 5, t.rx r = if r = d ∧ r ≠ 0 then v else s.rx r

/-- The instruction `i` completes with `v` in xd and no other effect. -/
def GivesX (i : Instr) (s : State) (d : BitVec 5) (v : Word) : Prop := ∃ t, exec i s = .next t ∧ WroteX s t d v

/-- The acting context goes on at `pc` and nothing else differs. -/
def GoesOn (s t : State) (pc : Word) : Prop := SlotOnly s t ∧ t.self = s.self.doneAt pc s.now

/-- The value of a register read as a number modulo 2^64 (02 R27). -/
def wrap (n : Int) : Word := BitVec.ofInt 64 n

/-! ## Traps and control registers -/

/-- The acting context enters its handler (17 R325): the trap CSRs of the level hold the return address, the old level, the
cause, the trapping word and the address; the level and the pc change; a migrated thread is back in its slot, where the
messages stored for it enter its queue; every other register keeps its value, and nothing else of the module differs. -/
structure Trapped (s t : State) (cause : BitVec 13) (epc addr : Word) : Prop where
  rest  : t = { (s.leaveUnits s.cur).backHome s.cur with ctxs := t.ctxs }
  other : ∀ x, x ≠ s.cur → tfind t.ctxs x = tfind s.ctxs x
  entry : let p := trapLevel s.self.pl
    let v := (s.self.trapRegs p).tvec
    t.self = { (s.self.doneAt v s.now).setTrapRegs p ⟨epc, s.self.pl, cause, s.word, addr, v⟩ with
      pl := p, vsctDone := (s.self.dropLanes s.self.pc).vsctDone, place := if s.self.migrated then .slot else s.self.place }

/-- The instruction takes a precise trap: nothing of it has taken effect. -/
def Traps (i : Instr) (s : State) (code : Byte) (addr : Word) : Prop :=
  ∃ t, exec i s = .next t ∧ Trapped s t (code.zeroExtend 13) s.self.pc addr

/-- The level that takes the context's traps has a handler. -/
def State.hasHandler (s : State) : Prop := (s.self.trapRegs (trapLevel s.self.pl)).tvec ≠ 0

/-- The value of a CSR after a write: the writable fields change, the others keep their value (04 R77, R79; 17 R327). -/
def csrAfter (n : BitVec 12) (old new : Word) : Word :=
  if n = 0x001 ∨ n = 0x002 then new &&& 0x1F
  else if n = 0x100 ∨ n = 0x200 then new
  else if n = 0x101 ∨ n = 0x201 then (if new &&& 3 = 3 then old else new &&& 3)
  else if n = 0x108 ∨ n = 0x208 then new &&& ~~~3
  else old

/-- A CSR operation completes: xd receives the old value, the CSR the final one, and no other CSR or register differs. -/
structure CsrDone (s t : State) (d : BitVec 5) (n : BitVec 12) (final : Word) : Prop where
  xs     : ∀ r : BitVec 5, t.rx r = if r = d ∧ r ≠ 0 then s.csr n else s.rx r
  csr    : t.csr n = final
  others : ∀ m : BitVec 12, m ≠ n → t.csr m = s.csr m
  rest   : t = { s with ctxs := t.ctxs, stamp := t.stamp }
  ctxs   : ∀ x, x ≠ s.cur → tfind t.ctxs x = tfind s.ctxs x
  keeps  : t.self = { s.self.doneAt (s.self.pc + 4) s.now with
    x := t.self.x, badRegs := t.self.badRegs, fflags := t.self.fflags, mfl := t.self.mfl, t1 := t.self.t1, t2 := t.self.t2
    acqMark := t.self.acqMark }

/-- The instruction waits: nothing of it has taken effect, and the stalled slot tries it again (04 R63, 05 R92). -/
def Retries (i : Instr) (s : State) : Prop := ∃ t, exec i s = .next t ∧ SlotOnly s t ∧
  t.self = { s.self with sst := .stalled, wait := .again, charged := true, lastTry := s.now }

/-! ## Vector and predicate results (06 R133, R134) -/

/-- Lane `i` of width `w` of a vector register (06 R133). -/
def lane (v : VWord) (w i : Nat) : BitVec w := v.extractLsb' (w * i) w

/-- A vector instruction completes: the active lanes of vd hold their results, the others their old values, and the bits
above lane n are zero; the flags of the active lanes are ORed into `fflags`; nothing else differs (06 R134, R136). -/
structure LanesDone (s t : State) (d : BitVec 4) (w n : Nat) (on : Nat → Bool) (res : Nat → BitVec w) (fl : Nat → FFlags) :
    Prop where
  slot   : SlotOnly s t
  keeps  : t.self = { s.self.doneAt (s.self.pc + 4) s.now with v := t.self.v, badRegs := t.self.badRegs, fflags := t.self.fflags }
  others : ∀ r : BitVec 4, r ≠ d → t.rv r = s.rv r
  lanes  : ∀ i, i < n → lane (t.rv d) w i = if on i then res i else lane (s.rv d) w i
  above  : ∀ k, w * n ≤ k → (t.rv d).getLsbD k = false
  flags  : ∀ k : Nat, t.self.fflags.getLsbD k
    = (s.self.fflags.getLsbD k || (List.range n).any fun i => on i && (fl i).getLsbD k)

/-- The instruction gives its lanes without a flag under the predicate p. -/
def GivesLanes (i : Instr) (s : State) (d : BitVec 4) (p : BitVec 3) (w : Nat) (res : Nat → BitVec w) : Prop :=
  ∃ t, exec i s = .next t ∧ LanesDone s t d w (512 / w) (fun k => (s.rp p).getLsbD k) res fun _ => 0

/-- The instruction gives its floating-point lanes and their flags under the predicate p. -/
def GivesFloats (i : Instr) (s : State) (d : BitVec 4) (p : BitVec 3) (f : Fmt) (res : Nat → Nat × FFlags) : Prop :=
  ∃ t, exec i s = .next t ∧ LanesDone s t d (f.p + 8) (512 / (f.p + 8)) (fun k => (s.rp p).getLsbD k)
    (fun k => BitVec.ofNat _ (res k).1) fun k => (res k).2

/-- A predicate instruction completes: bit k of pd is `on k` (p0 discards it), and nothing else but flags differs. -/
structure PredDone (s t : State) (d : BitVec 4) (on : Nat → Bool) : Prop where
  slot  : SlotOnly s t
  keeps : t.self = { s.self.doneAt (s.self.pc + 4) s.now with p := t.self.p, badRegs := t.self.badRegs, fflags := t.self.fflags }
  ps    : ∀ r : BitVec 4, r ≠ d ∨ r = 0 → t.rp r = s.rp r
  bits  : d ≠ 0 → ∀ k, k < 64 → (t.rp d).getLsbD k = on k

/-- The instruction gives a predicate and raises no flag. -/
def GivesP (i : Instr) (s : State) (d : BitVec 4) (on : Nat → Bool) : Prop :=
  ∃ t, exec i s = .next t ∧ PredDone s t d on ∧ t.self.fflags = s.self.fflags

/-- The pairwise tree over 2 ^ k values from number i (06 R145): the result and the flags of every operation. -/
def pairTree (op : Nat → Nat → Nat × FFlags) (l : Nat → Nat) : Nat → Nat → Nat × FFlags
  | 0, i => (l i, 0)
  | k + 1, i =>
    let a := pairTree op l k i
    let b := pairTree op l k (i + 2 ^ k)
    let r := op a.1 b.1
    (r.1, a.2 ||| b.2 ||| r.2)

/-- The format of a floating-point lane type: 4 binary32, 5 bfloat16. -/
def fmtOf (t : BitVec 3) : Fmt := if t = 5 then .b16 else .b32

/-! ## Memory, read one byte at a time -/

/-- One byte of partition memory as its home holds it; none where the home refuses the address or the byte is poisoned. -/
def State.homeByte (s : State) (space va : Nat) : Option Byte :=
  match s.homeRead (.mem space va) 1 with
  | .ok (_, bs) => bs.head?
  | .error _ => none

/-- One byte as a weak load of the acting context finds it (05 R94-R96; 10 R212-R214). -/
def State.byteSeen (s : State) (ea : Word) : Option Byte :=
  match s.readBytes ea 1 false with
  | .ok (_, bs) => bs.head?
  | .error _ => none

/-- What a load or store of `n` bytes at `ea` needs so as to go ahead at once: the checks of R94 pass, the count that wc
names is zero, no copy, engine operation, split change or posted operation of the thread holds it up, the read lease of the
L1 line has not ended (10 R214), no request waits in a switch on the way of one that leaves the cell (14 R280; log 79), a strong
access or a release finds nothing to wait for (05 R95, R96), and a store is not one of a member of an optimistic group
(13 R265). -/
structure State.Open (s : State) (ea : Word) (n : Nat) (store : Bool) (o w : BitVec 2) : Prop where
  addr    : s.checkAddr ea n store = none
  plain   : region ea = .mem → s.versioned s.self.space ea.toNat = false
  live    : region ea = .mem → ∀ id k, (s.cell s.self.cell).l1Line s.self.sid ea.toNat = some (id, k) →
    s.readLeaseOver s.self.cell k = false
  count   : w = 0 ∨ s.self.pst (w.toNat - 1) = 0
  free    : s.localWaits ea n store = .ok ()
  way     : s.fabricWaits ea n store (o == 2 || (store && o != 0)) = .ok ()
  covered : o = 2 ∨ (store = true ∧ o = 1) →
    s.releaseLines s.cur = s ∧ coverAll.pending s.self = false ∧ s.self.drops = []
  now     : store = true → s.self.member = none

/-- A slice has room for a line and one more (00 R1, 10 R218). -/
def State.L2Room (s : State) (die slice : Nat) : Prop :=
  ((s.die die).l2.filter fun p => p.2.slice = slice).length + s.versionLines slice + 2 ≤ sliceLines

/-- No request waits in a switch of the fabric, so none is ahead of another (14 R280). -/
def State.SwitchesEmpty (s : State) : Prop := ∀ p ∈ s.packets, p.2.place = none

/-- The home of a line takes it and moves no other: its page is backed, its L2 holds it under no other name (17 R336), and
where it holds it under none, the home slice has room. -/
def State.HomeTakes (s : State) (space va : Nat) : Prop :=
  ∃ p, s.judge space va = .ok p ∧
    match tfind (s.die p.die).l2 (p.phys (va / 128 * 128)) with
    | some l => l.sid = p.sid ∧ l.va = va / 128 * 128
    | none => s.L2Room p.die (s.homeSlice p.part p.dom (va / 128 * 128))

/-- The cell has a place for one more L1 line. -/
def Cell.l1Room (c : Cell) : Prop := risesFrom 0 c.l1 = true ∧ freePlace 0 c.l1 < c.l1Places

/-- Nothing but the acting context, the cell's L1 and the dies' L2 differs, and every byte of memory reads as before:
at its home, and, for a weak load, as the context sees it. -/
structure ReadOnly (s t : State) (o : BitVec 2) : Prop where
  rest  : t = { s with ctxs := t.ctxs, cells := t.cells, dies := t.dies, stamp := t.stamp }
  other : ∀ x, x ≠ s.cur → tfind t.ctxs x = tfind s.ctxs x
  keeps : t.self = { s.self.doneAt (s.self.pc + 4) s.now with
    x := t.self.x, v := t.self.v, badRegs := t.self.badRegs, acqMark := t.self.acqMark }
  cells : ∀ n, t.cell n = { s.cell n with l1 := (t.cell n).l1 }
  dies  : ∀ n, t.die n = { s.die n with l2 := (t.die n).l2 }
  homes : ∀ space va, t.homeByte space va = s.homeByte space va
  sees  : o = 0 → ∀ ea, (∀ off, region ea ≠ .page off) → t.byteSeen ea = s.byteSeen ea
  mark  : o = 0 → t.self.acqMark = s.self.acqMark

/-- A scalar load completes with `v` in xd. -/
def GivesLoad (i : Instr) (s : State) (o : BitVec 2) (d : BitVec 5) (v : Word) : Prop :=
  ∃ t, exec i s = .next t ∧ ReadOnly s t o ∧ (∀ r : BitVec 5, t.rx r = if r = d ∧ r ≠ 0 then v else s.rx r) ∧
    ∀ r : BitVec 4, t.rv r = s.rv r

/-- A vector load completes with `v` in vd. -/
def GivesLoadV (i : Instr) (s : State) (o : BitVec 2) (d : BitVec 4) (v : VWord) : Prop :=
  ∃ t, exec i s = .next t ∧ ReadOnly s t o ∧ (∀ r : BitVec 5, t.rx r = s.rx r) ∧
    ∀ r : BitVec 4, t.rv r = if r = d then v else s.rv r

/-- The acting context goes on after a store: no register differs, and of the other units only memories do. -/
structure Stored (s t : State) (o : BitVec 2) : Prop where
  rest  : t = { s with ctxs := t.ctxs, cells := t.cells, dies := t.dies, stamp := t.stamp }
  other : ∀ x, x ≠ s.cur → tfind t.ctxs x = tfind s.ctxs x
  keeps : t.self = { s.self.doneAt (s.self.pc + 4) s.now with acqMark := t.self.acqMark }
  mark  : o ≠ 2 → t.self.acqMark = s.self.acqMark

/-! ## Homes, seen through the model's reads -/

/-- `n` bytes at a home as a little-endian number; none where the home refuses them. -/
def State.numAt (s : State) (l : Loc) (n : Nat) : Option Nat :=
  match s.homeRead l n with
  | .ok (_, bs) => some (leNat bs)
  | .error _ => none

/-- The full/empty bit of the word at a home. -/
def State.fullAt (s : State) (l : Loc) : Option Bool :=
  match s.homeFull l with
  | .ok (_, f) => some f
  | .error _ => none

/-- The capability at a home, with its tag. -/
def State.capAt (s : State) (l : Loc) : Option Capa :=
  match s.homeCap l with
  | .ok (_, c) => some c
  | .error _ => none

/-- The location's home takes an access of the acting context at once: a scratchpad always; partition memory where its line's
home takes it, no fault ring covers it, and the cell's L1 holds none of its bytes dirty. -/
def State.HomeReady (s : State) (l : Loc) (n : Nat) : Prop :=
  match l with
  | .spad _ _ => True
  | .mem space va => s.HomeTakes space va ∧ s.inFaultRing space va n = false ∧
      ∀ p ∈ (s.cell s.self.cell).l1, p.2.sid = s.self.sid → p.2.va = va / 128 * 128 → p.2.dirty = 0

/-- Of all memory, only the `n` bytes at the location may differ: every other byte of every scratchpad, and every other byte
of partition memory (of another line, or of the line under its own name), reads at its home as before. -/
structure OnlyAt (s t : State) (l : Loc) (n : Nat) : Prop where
  cells : ∀ m, t.cell m = { s.cell m with l1 := (t.cell m).l1, spad := (t.cell m).spad }
  dies  : ∀ m, t.die m = { s.die m with l2 := (t.die m).l2 }
  spads : ∀ m k, (∀ off, l = .spad m off → k < off ∨ off + n ≤ k) →
    mget (t.cell m).spad.bytes k = mget (s.cell m).spad.bytes k
  homes : ∀ r u, (∀ space va p q, l = .mem space va → s.judge space va = .ok p → s.page r u = some q →
      (q.die, q.phys (u / 128 * 128)) ≠ (p.die, p.phys (va / 128 * 128)) ∨
        (q.sid = p.sid ∧ u / 128 = va / 128 ∧ (u < va ∨ va + n ≤ u))) →
    t.homeByte r u = s.homeByte r u

/-- Nothing an access of the given class waits for is outstanding: no dirty line of the context, no posted operation or
drop that the instruction covers (05 R95, R96, R106, R377). -/
def State.Clear (s : State) (v : Cover) : Prop :=
  s.releaseLines s.cur = s ∧ v.pending s.self = false ∧ s.self.drops.find? v.covers = none

/-- The instruction's access to view 0 or partition memory passes its checks and meets no wait (05 R94, R102, R110). -/
def State.Plain (s : State) (ea : Word) (n : Nat) (store : Bool) : Prop :=
  s.checkHome ea n store = .ok () ∧ (region ea = .mem → s.versioned s.self.space ea.toNat = false) ∧
    s.localWaits ea n store = .ok () ∧ s.self.opt = false ∧ s.self.member = none

/-- The acting context goes on at the next word; xd holds `v` when `wr` says so; the other named fields are the ones an
atomic or barrier may change. -/
structure AccessDone (s t : State) (d : BitVec 5) (wr : Bool) (v : Word) : Prop where
  rest  : t = { s with ctxs := t.ctxs, cells := t.cells, dies := t.dies, stamp := t.stamp, waiters := t.waiters, reports := t.reports
                       fresh := t.fresh }
  other : ∀ x, x ≠ s.cur → tfind t.ctxs x = tfind s.ctxs x
  keeps : t.self = { s.self.doneAt (s.self.pc + 4) s.now with
    x := t.self.x, badRegs := t.self.badRegs, acqMark := t.self.acqMark, fflags := t.self.fflags, mfl := t.self.mfl }
  xs    : ∀ r : BitVec 5, t.rx r = if wr = true ∧ r = d ∧ r ≠ 0 then v else s.rx r

/-! ## What no step changes -/

/-- The flash and the fuses (21 R367-R369). -/
def State.fixed (s : State) : FlashSlot × FlashSlot × BitVec 32 := (s.slotA, s.slotB, s.rollback)

/-- A safe run makes moves only: no fault and no refusal. -/
def Safe (r : Host.Outcome State Fault Refusal) : Prop := ∃ t, r = .next t

end Sys2Proof.Machine
end

