-- ==== Sys2Proof/Certificates/Slice0/Obligations.lean ====
section
/-! DEFINITION. The statements for the provers. Each says in Lean what a numbered rule, or a group of rules, of the spec says. -/

open Sys2Proof Sys2Proof.Machine

/-- 04 R65, R66, R67: what each register operation writes into xd, for every operand and every state. Nothing else differs but the pc,
which goes on to the next word. -/
def Obligations.RegisterOperations : Prop :=
  ∀ (d a b : BitVec 5) (s : State),
    let x := s.rx a
    let y := s.rx b
    let n := y.toNat % 64
    GivesX (.add d a b) s d (wrap (x.toInt + y.toInt)) ∧
    GivesX (.sub d a b) s d (wrap (x.toInt - y.toInt)) ∧
    GivesX (.and d a b) s d (x &&& y) ∧
    GivesX (.or d a b) s d (x ||| y) ∧
    GivesX (.xor d a b) s d (x ^^^ y) ∧
    GivesX (.shl d a b) s d (BitVec.ofNat 64 (x.toNat * 2 ^ n)) ∧
    GivesX (.shr d a b) s d (BitVec.ofNat 64 (x.toNat / 2 ^ n)) ∧
    GivesX (.sra d a b) s d (wrap (x.toInt / 2 ^ n)) ∧
    GivesX (.slt d a b) s d (if x.toInt < y.toInt then 1 else 0) ∧
    GivesX (.sltu d a b) s d (if x.toNat < y.toNat then 1 else 0) ∧
    GivesX (.min d a b) s d (wrap (min x.toInt y.toInt)) ∧
    GivesX (.max d a b) s d (wrap (max x.toInt y.toInt)) ∧
    GivesX (.minu d a b) s d (BitVec.ofNat 64 (min x.toNat y.toNat)) ∧
    GivesX (.maxu d a b) s d (BitVec.ofNat 64 (max x.toNat y.toNat)) ∧
    GivesX (.mul d a b) s d (wrap (x.toInt * y.toInt)) ∧
    GivesX (.mulh d a b) s d (wrap (x.toInt * y.toInt / 2 ^ 64)) ∧
    GivesX (.mulhu d a b) s d (BitVec.ofNat 64 (x.toNat * y.toNat / 2 ^ 64)) ∧
    GivesX (.div d a b) s d (if y = 0 then wrap (-1) else wrap (x.toInt.tdiv y.toInt)) ∧
    GivesX (.divu d a b) s d (if y = 0 then wrap (-1) else BitVec.ofNat 64 (x.toNat / y.toNat)) ∧
    GivesX (.rem d a b) s d (if y = 0 then x else wrap (x.toInt.tmod y.toInt)) ∧
    GivesX (.remu d a b) s d (if y = 0 then x else BitVec.ofNat 64 (x.toNat % y.toNat))

/-- 04 R65, R68, R69: counting, bit fields and extensions. `clz` and `ctz` are said by the bits they pass over; a field is said bit by
bit. -/
def Obligations.BitOperations : Prop :=
  ∀ (d a b : BitVec 5) (s : State),
    let x := s.rx a
    let pos := (s.rx b).toNat % 64
    let len := min (min ((s.rx b).toNat / 256 % 128) 64) (64 - pos)
    (∃ n, n ≤ 64 ∧ GivesX (.clz d a) s d (BitVec.ofNat 64 n) ∧ (∀ k, k < n → x.getLsbD (63 - k) = false) ∧
      (n < 64 → x.getLsbD (63 - n) = true)) ∧
    (∃ n, n ≤ 64 ∧ GivesX (.ctz d a) s d (BitVec.ofNat 64 n) ∧ (∀ k, k < n → x.getLsbD k = false) ∧
      (n < 64 → x.getLsbD n = true)) ∧
    GivesX (.popc d a) s d (BitVec.ofNat 64 ((List.range 64).countP fun k => x.getLsbD k)) ∧
    (∃ v, GivesX (.bfx d a b) s d v ∧ ∀ k, k < 64 → v.getLsbD k = (decide (k < len) && x.getLsbD (pos + k))) ∧
    (∃ v, GivesX (.bfi d a b) s d v ∧ ∀ k, k < 64 →
      v.getLsbD k = if pos ≤ k ∧ k < pos + len then x.getLsbD (k - pos) else (s.rx d).getLsbD k) ∧
    GivesX (.sext d a 0) s d ((x.truncate 8).signExtend 64) ∧
    GivesX (.sext d a 1) s d ((x.truncate 16).signExtend 64) ∧
    GivesX (.sext d a 2) s d ((x.truncate 32).signExtend 64) ∧
    GivesX (.zext d a 0) s d ((x.truncate 8).zeroExtend 64) ∧
    GivesX (.zext d a 1) s d ((x.truncate 16).zeroExtend 64) ∧
    GivesX (.zext d a 2) s d ((x.truncate 32).zeroExtend 64)

/-- 04 R70, R71, R72: what each immediate operation writes into xd. -/
def Obligations.ImmediateOperations : Prop :=
  ∀ (d a : BitVec 5) (i : BitVec 16) (n : BitVec 6) (s : State),
    let x := s.rx a
    let m := i.signExtend 64
    GivesX (.addi d a i) s d (wrap (x.toInt + i.toInt)) ∧
    GivesX (.andi d a i) s d (x &&& m) ∧
    GivesX (.ori d a i) s d (x ||| m) ∧
    GivesX (.xori d a i) s d (x ^^^ m) ∧
    GivesX (.slti d a i) s d (if x.toInt < i.toInt then 1 else 0) ∧
    GivesX (.shli d a n) s d (BitVec.ofNat 64 (x.toNat * 2 ^ n.toNat)) ∧
    GivesX (.shri d a n) s d (BitVec.ofNat 64 (x.toNat / 2 ^ n.toNat)) ∧
    GivesX (.srai d a n) s d (wrap (x.toInt / 2 ^ n.toNat)) ∧
    GivesX (.lui d i) s d (wrap (i.toInt * 65536)) ∧
    GivesX (.addpc d i) s d (wrap (s.self.pc.toInt + 4 * i.toInt))

/-- 04 R73, R74, R75: where branches and jumps go on, and what they link. A branch writes no register; `jalr` reads xa before it
links, and a misaligned target traps with nothing written. -/
def Obligations.BranchesAndJumps : Prop :=
  ∀ (d a b : BitVec 5) (o i : BitVec 16) (j : BitVec 21) (s : State),
    let x := s.rx a
    let y := s.rx b
    let pc := s.self.pc
    let goes (c : Prop) [Decidable c] : Word := if c then wrap (pc.toInt + 4 * o.toInt) else pc + 4
    let links (i : Instr) (u : Word) : Prop := ∃ t, exec i s = .next t ∧ SlotOnly s t ∧
      (∀ r : BitVec 5, t.rx r = if r = d ∧ r ≠ 0 then pc + 4 else s.rx r) ∧
      t.self = { s.self.doneAt u s.now with x := t.self.x, badRegs := t.self.badRegs }
    let target := wrap (x.toInt + i.toInt)
    (∃ t, exec (.beq a b o) s = .next t ∧ GoesOn s t (goes (x = y))) ∧
    (∃ t, exec (.bne a b o) s = .next t ∧ GoesOn s t (goes (x ≠ y))) ∧
    (∃ t, exec (.blt a b o) s = .next t ∧ GoesOn s t (goes (x.toInt < y.toInt))) ∧
    (∃ t, exec (.bge a b o) s = .next t ∧ GoesOn s t (goes (y.toInt ≤ x.toInt))) ∧
    (∃ t, exec (.bltu a b o) s = .next t ∧ GoesOn s t (goes (x.toNat < y.toNat))) ∧
    (∃ t, exec (.bgeu a b o) s = .next t ∧ GoesOn s t (goes (y.toNat ≤ x.toNat))) ∧
    links (.jal d j) (wrap (pc.toInt + 4 * j.toInt)) ∧
    (target.toNat % 4 = 0 → links (.jalr d a i) target) ∧
    (target.toNat % 4 ≠ 0 → s.hasHandler → Traps (.jalr d a i) s 0x03 target)

/-- 04 R77, R79: a CSR operation whose number the level may reach gives xd the old value and the CSR the new one in its writable
fields; no other CSR differs. `fflags` waits while engine work of the context still owes flags (02 R31). And 04 R78: an assigned
CSR whose level exceeds `tsw.pl` raises PRIV, precisely, with the CSR and xd unchanged. -/
def Obligations.CsrOperations : Prop :=
  (∀ (d a : BitVec 5) (n : BitVec 12) (s : State),
    n.toNat / 256 % 4 ≤ s.self.pl.toNat → (n = 0x001 → s.flagsOwed s.cur = false) →
    (∃ t, exec (.csrr d n) s = .next t ∧ CsrDone s t d n (s.csr n)) ∧
    (∃ t, exec (.csrw d a n) s = .next t ∧ CsrDone s t d n (csrAfter n (s.csr n) (s.rx a))) ∧
    (∃ t, exec (.csrs d a n) s = .next t ∧ CsrDone s t d n (csrAfter n (s.csr n) (s.csr n ||| s.rx a))) ∧
    (∃ t, exec (.csrc d a n) s = .next t ∧ CsrDone s t d n (csrAfter n (s.csr n) (s.csr n &&& ~~~(s.rx a))))) ∧
  (∀ (d a : BitVec 5) (n : BitVec 12) (s : State),
    s.self.pl.toNat < n.toNat / 256 % 4 → s.hasHandler →
    Traps (.csrr d n) s 0x02 0 ∧ Traps (.csrw d a n) s 0x02 0 ∧ Traps (.csrs d a n) s 0x02 0 ∧ Traps (.csrc d a n) s 0x02 0)

/-- 04 R80; 17 R325, R327: `trap n` enters the handler of the level with n as its cause, marked as a software trap, and the address
after it as the return address. And 17 R325: a trap for which the level has no handler halts the slot, keeps its registers, and
sends one report with the cause, prec 1 and the trapping word. And 04 R87: `brk n` leaves the pc at the next word, passes the slot
to HALTED with its context kept, and reports BRK with prec 0, the address of the `brk` and its word. -/
def Obligations.TrapsAndBreaks : Prop :=
  (∀ (n : BitVec 12) (s : State), s.hasHandler →
    ∃ t, exec (.trap n) s = .next t ∧ Trapped s t (n.zeroExtend 13 ||| 0x1000) (s.self.pc + 4) 0) ∧
  (∀ (n : BitVec 12) (s : State), ¬ s.hasHandler → s.self.sst ≠ .switching → s.self.place = .slot ∨ s.self.migrated = true →
    let h := (s.leaveUnits s.cur).backHome s.cur
    ∃ t, exec (.trap n) s = .next t ∧ t.self.sst = .halted ∧ t.self.pc = s.self.pc ∧ t.self.pl = s.self.pl ∧
      (∀ r : BitVec 5, t.rx r = s.rx r) ∧ t.self.t1 = s.self.t1 ∧ t.self.t2 = s.self.t2 ∧
      t.cells = h.cells ∧ t.parts = s.parts ∧
      t.reports = tset h.reports h.fresh
        { part := s.self.part, d0 := reportHead 0x12 true 0 s.self.cell s.self.slot (dieOfCell s.self.cell) false s.self.tag
          addr := 0, info := s.word.zeroExtend 64 }) ∧
  (∀ (n : BitVec 12) (s : State),
    ∃ t, exec (.brk n) s = .next t ∧
      t.self = { s.self.doneAt (s.self.pc + 4) s.now with sst := .halted } ∧
      t = { s with ctxs := t.ctxs, reports := t.reports, fresh := s.fresh + 1 } ∧
      t.reports = tset s.reports s.fresh
        { part := s.self.part, d0 := reportHead 0x11 false 0 s.self.cell s.self.slot (dieOfCell s.self.cell) false s.self.tag
          addr := s.self.pc, info := s.word.zeroExtend 64 })

/-- 04 R81: `eret` at level 1 or 2 restores the level and the pc that the level's trap CSRs hold, and changes no other register; at
level 0, for a saved level above the present one or 0b11, it raises PRIV; for a misaligned return address, ALIGN. -/
def Obligations.ReturnFromTrap : Prop :=
  ∀ s : State,
    let p := s.self.pl
    let r := s.self.trapRegs p
    (p ≠ 0 → r.pl ≤ p → r.pl ≠ 3 → r.epc.toNat % 4 = 0 →
      ∃ t, exec .eret s = .next t ∧ SlotOnly s t ∧ t.self = { s.self.doneAt r.epc s.now with pl := r.pl }) ∧
    (p = 0 ∨ p < r.pl ∨ r.pl = 3 → s.hasHandler → Traps .eret s 0x02 0) ∧
    (p ≠ 0 → r.pl ≤ p → r.pl ≠ 3 → r.epc.toNat % 4 ≠ 0 → s.hasHandler → Traps .eret s 0x03 r.epc)

/-- 04 R83, R84: `yield` changes the slot's next issue alone, and in FIXED rotation not that; `idle` writes the tick once it has come,
and until then leaves the slot STALLED. And 04 R82: `halt` ends the context and leaves its slot EMPTY from the next cycle, once
its posted operations and its engine work are done and its lines are written back; in optimistic mode it raises ILL. -/
def Obligations.YieldIdleAndHalt : Prop :=
  (∀ (d a : BitVec 5) (s : State),
    (∃ t, exec .yield s = .next t ∧ SlotOnly s t ∧ t.self = { s.self.doneAt (s.self.pc + 4) s.now with
      gap := if (s.cell s.self.cell).mode = true then 16 else s.self.gap }) ∧
    ((s.rx a).toNat ≤ s.tick → GivesX (.idle d a) s d (BitVec.ofNat 64 s.tick)) ∧
    (s.tick < (s.rx a).toNat → ∃ t, exec (.idle d a) s = .next t ∧ SlotOnly s t ∧
      t.self = { s.self with sst := .stalled, wait := .tick (s.rx a).toNat, charged := true, lastTry := s.now })) ∧
  (∀ s : State,
    (s.self.opt = false → s.releaseLines s.cur = s → s.self.pst0 = 0 → s.self.pst1 = 0 → s.self.pst2 = 0 →
      s.self.ownPosted = 0 → s.engineWork s.cur = false → risesFrom 0 s.ctxs = true →
      ∃ t, exec .halt s = .next t ∧ tfind t.ctxs s.cur = none ∧ (∀ x, x ≠ s.cur → tfind t.ctxs x = tfind s.ctxs x) ∧
        (s.self.place = .slot →
          tfind (t.cell s.self.cell).emptying s.self.slot = some (s.now + 1, s.self.sst.code)) ∧
        t.leases = s.leases ∧ t.pages = s.pages ∧ t.packets = s.packets) ∧
    (s.self.opt = true → s.hasHandler → Traps .halt s 0x01 0))

/-- 04 R85; 01 R16: `spawn` answers a status with no other effect, or writes a sibling into the lowest EMPTY slot: its pc, its
argument in x10, its spawner's level, population and entry, and every other register zero. -/
def Obligations.SpawnPlacesASibling : Prop :=
  ∀ (d a b : BitVec 5) (s : State),
    let c := s.self
    let st (n : Nat) : Word := BitVec.ofNat 64 (2 ^ 63 + n)
    (c.opt = true → GivesX (.spawn d a b) s d (st 4)) ∧
    (c.opt = false → (s.rx a).toNat % 4 ≠ 0 → GivesX (.spawn d a b) s d (st 3)) ∧
    (c.opt = false → (s.rx a).toNat % 4 = 0 → s.quota c.entry ≤ s.threadsOf c.entry c.cell → GivesX (.spawn d a b) s d (st 2)) ∧
    (c.opt = false → (s.rx a).toNat % 4 = 0 → s.threadsOf c.entry c.cell < s.quota c.entry → s.freeSlot c.cell = none →
      GivesX (.spawn d a b) s d (st 1)) ∧
    ∀ k, c.opt = false → (s.rx a).toNat % 4 = 0 → s.threadsOf c.entry c.cell < s.quota c.entry →
      s.freeSlot c.cell = some k → s.fresh ≠ s.cur →
      ∃ t n, exec (.spawn d a b) s = .next t ∧ tfind t.ctxs s.fresh = some n ∧
        n.pc = s.rx a ∧ (∀ r, n.x? r = if r = 10 then s.rx b else 0) ∧ (∀ r, n.v? r = 0) ∧ (∀ r, n.c? r = {}) ∧
        n.pl = c.pl ∧ n.cell = c.cell ∧ n.slot = k ∧ n.entry = c.entry ∧ n.part = c.part ∧ n.sid = c.sid ∧ n.sst = .ready ∧
        (∀ r : BitVec 5, t.rx r = if r = d ∧ r ≠ 0 then BitVec.ofNat 64 k else s.rx r) ∧ t.self.pc = c.pc + 4 ∧
        ((s.cell c.cell).gstore = [] → t.cells = s.cells) ∧ t.dies = s.dies

/-- 04 R90, R91; 16 R312: with no charge of the entry on its way, `bget` gives the figure that k names, and a `budx` that passes the
tests adds its units to the remainder, answers 0, and leaves an entry with units left FUNDED; a refused one answers its code and
leaves the remainder. Both wait, the slot STALLED, for engine and copy work of the context, a `bget` also for its remote updates
and matrix commands on their way. -/
def Obligations.BudgetInstructions : Prop :=
  ∀ (d a : BitVec 5) (k : BitVec 2) (n : Nat) (e : Entry) (s : State),
    s.self.entry = some n → tfind s.entries n = some e → s.bringCharges = s → s.holds = [] →
    let u := s.rx a
    let code := s.budxCode n e u
    (s.engineWork s.cur = true → Retries (.budx d a) s ∧ Retries (.bget d k) s) ∧
    (s.updatesOf s.cur = true → Retries (.bget d k) s) ∧
    (s.engineWork s.cur = false → s.updatesOf s.cur = false → GivesX (.bget d k) s d
      (if k = 0 then wrap e.remain else if k = 1 then BitVec.ofNat 64 e.total else if k = 2 then BitVec.ofNat 64 e.rolled
        else if e.bg ∨ e.demoted then wrap (-1) else BitVec.ofNat 64 e.dline)) ∧
    (s.engineWork s.cur = false → (∀ q v, s.self.budxKept = some (q, v) → q ≠ s.self.budxNum) → s.hasTested e.die = false →
    (code = 0 → ∃ t f, exec (.budx d a) s = .next t ∧ tfind t.entries n = some f ∧ f.remain = e.remain + u.toNat ∧
      (0 < f.remain → f.bst = .funded) ∧ (∀ r : BitVec 5, t.rx r = if r = d ∧ r ≠ 0 then 0 else s.rx r) ∧
      t.self.pc = s.self.pc + 4) ∧
    (code ≠ 0 → ∃ t f, exec (.budx d a) s = .next t ∧ tfind t.entries n = some f ∧ f.remain = e.remain ∧
      (∀ r : BitVec 5, t.rx r = if r = d ∧ r ≠ 0 then BitVec.ofNat 64 (2 ^ 63 + code) else s.rx r) ∧
      t.self.pc = s.self.pc + 4))

/-- 06 R133, R134, R138: what the integer vector operations give in each active lane, for the four integer types and every variant.
Lanes that are not active keep their value, and no flag is raised. -/
def Obligations.VectorIntegerOperations : Prop :=
  ∀ (d a b : BitVec 4) (p : BitVec 3) (t : BitVec 3) (s : State), t.toNat < 4 →
    let w := 8 * 2 ^ t.toNat
    let x (i : Nat) : BitVec w := lane (s.rv a) w i
    let y (i : Nat) : BitVec w := lane (s.rv b) w i
    let z (i : Nat) : BitVec w := lane (s.rv d) w i
    let sat (v : Int) : BitVec w := BitVec.ofInt w (max (-(2 ^ (w - 1))) (min (2 ^ (w - 1) - 1) v))
    let usat (v : Int) : BitVec w := BitVec.ofInt w (max 0 (min (2 ^ w - 1) v))
    GivesLanes (.vadd d a b p 0 0 t) s d p w (fun i => x i + y i) ∧
    GivesLanes (.vadd d a b p 1 0 t) s d p w (fun i => sat ((x i).toInt + (y i).toInt)) ∧
    GivesLanes (.vadd d a b p 2 0 t) s d p w (fun i => usat ((x i).toNat + (y i).toNat)) ∧
    GivesLanes (.vsub d a b p 0 0 t) s d p w (fun i => x i - y i) ∧
    GivesLanes (.vsub d a b p 1 0 t) s d p w (fun i => sat ((x i).toInt - (y i).toInt)) ∧
    GivesLanes (.vsub d a b p 2 0 t) s d p w (fun i => usat ((x i).toNat - (y i).toNat)) ∧
    GivesLanes (.vmul d a b p 0 0 t) s d p w (fun i => x i * y i) ∧
    GivesLanes (.vmul d a b p 1 0 t) s d p w (fun i => BitVec.ofInt w ((x i).toInt * (y i).toInt / 2 ^ w)) ∧
    GivesLanes (.vmul d a b p 2 0 t) s d p w (fun i => BitVec.ofNat w ((x i).toNat * (y i).toNat / 2 ^ w)) ∧
    GivesLanes (.vfma d a b p 0 t) s d p w (fun i => z i + x i * y i) ∧
    GivesLanes (.vmin d a b p 0 t) s d p w (fun i => BitVec.ofInt w (min (x i).toInt (y i).toInt)) ∧
    GivesLanes (.vmin d a b p 1 t) s d p w (fun i => BitVec.ofNat w (min (x i).toNat (y i).toNat)) ∧
    GivesLanes (.vmax d a b p 0 t) s d p w (fun i => BitVec.ofInt w (max (x i).toInt (y i).toInt)) ∧
    GivesLanes (.vmax d a b p 1 t) s d p w (fun i => BitVec.ofNat w (max (x i).toNat (y i).toNat)) ∧
    GivesLanes (.vshl d a b p t) s d p w (fun i => x i <<< ((y i).toNat % w)) ∧
    GivesLanes (.vshr d a b p t) s d p w (fun i => x i >>> ((y i).toNat % w)) ∧
    GivesLanes (.vsra d a b p t) s d p w (fun i => (x i).sshiftRight ((y i).toNat % w)) ∧
    GivesLanes (.vabs d a p 0 t) s d p w (fun i => BitVec.ofInt w (x i).toInt.natAbs) ∧
    GivesLanes (.vabs d a p 1 t) s d p w (fun i => sat (x i).toInt.natAbs) ∧
    GivesLanes (.vneg d a p 0 t) s d p w (fun i => - x i) ∧
    GivesLanes (.vneg d a p 1 t) s d p w (fun i => sat (-(x i).toInt)) ∧
    GivesLanes (.vand d a b p) s d p 64 (fun i => lane (s.rv a) 64 i &&& lane (s.rv b) 64 i) ∧
    GivesLanes (.vor d a b p) s d p 64 (fun i => lane (s.rv a) 64 i ||| lane (s.rv b) 64 i) ∧
    GivesLanes (.vxor d a b p) s d p 64 (fun i => lane (s.rv a) 64 i ^^^ lane (s.rv b) 64 i)

/-- 06 R138, R139, R140: the floating-point vector operations, in both formats and both rounding modes. Each lane is the operation on
the values of its operands: the exact real result rounded once, with its flags, as RoundingAndSpecialInputs says in numbers;
`vabs` and `vneg` are bit operations. -/
def Obligations.VectorFloatOperations : Prop :=
  ∀ (d a b : BitVec 4) (p : BitVec 3) (r : BitVec 1) (t : BitVec 3) (s : State), t = 4 ∨ t = 5 →
    let f := fmtOf t
    let w := f.p + 8
    let x (i : Nat) : Nat := (lane (s.rv a) w i).toNat
    let y (i : Nat) : Nat := (lane (s.rv b) w i).toNat
    let z (i : Nat) : Nat := (lane (s.rv d) w i).toNat
    let rtz := r == 1
    GivesFloats (.vadd d a b p 0 r t) s d p f (fun i => fAdd f rtz (unpack f (x i)) (unpack f (y i))) ∧
    GivesFloats (.vsub d a b p 0 r t) s d p f (fun i => fAdd f rtz (unpack f (x i)) (unpack f (y i)).neg) ∧
    GivesFloats (.vmul d a b p 0 r t) s d p f (fun i => fMul f rtz (unpack f (x i)) (unpack f (y i))) ∧
    GivesFloats (.vfma d a b p r t) s d p f (fun i => fFma f rtz (unpack f (z i)) (unpack f (x i)) (unpack f (y i))) ∧
    GivesFloats (.vmin d a b p 0 t) s d p f (fun i => fMinMax f false (x i) (y i)) ∧
    GivesFloats (.vmax d a b p 0 t) s d p f (fun i => fMinMax f true (x i) (y i)) ∧
    GivesFloats (.vrcp d a p r t) s d p f (fun i => fRcp f rtz (unpack f (x i))) ∧
    GivesFloats (.vrsq d a p r t) s d p f (fun i => fRsq f rtz (unpack f (x i))) ∧
    GivesFloats (.vexp d a p r t) s d p f (fun i => fExp f rtz (unpack f (x i))) ∧
    GivesFloats (.vlog d a p r t) s d p f (fun i => fLog f rtz (unpack f (x i))) ∧
    GivesLanes (.vabs d a p 0 t) s d p w (fun i => lane (s.rv a) w i &&& ~~~((1 : BitVec w) <<< (w - 1))) ∧
    GivesLanes (.vneg d a p 0 t) s d p w (fun i => lane (s.rv a) w i ^^^ ((1 : BitVec w) <<< (w - 1)))

/-- 02 R28-R30; 06 R139: the one rounding and its flags. A finite delivered value is the nearest of the format's values to the exact
one under RNE, with an even last bit in a tie, and the largest not above it in magnitude under RTZ; overflow is delivered when the
rounded magnitude leaves the format. An overflow raises OF and NX, any other inexact result NX, with UF when the delivered value
is below the smallest normal one. Sums, products, `vfma`, `vrcp` and `vrsq` are the exact real number, rounded once; their NaNs,
infinities and zeros are as stated. And 06 R140: the special inputs of `vrcp`, `vrsq`, `vexp` and `vlog`, in both formats and both
rounding modes. -/
def Obligations.RoundingAndSpecialInputs : Prop :=
  (let value (f : Fmt) (k : Nat) : ℝ := match unpack f k with | .fin _ n q => (n : ℝ) * (2 : ℝ) ^ q | _ => 0
  let rounds (f : Fmt) (rtz : Bool) (neg : Prop) (x : ℝ) (o : Nat × FFlags) : Prop :=
    let k := o.1 % f.signBit
    let top : ℝ := if rtz then (2 : ℝ) ^ (128 : Int) else (2 : ℝ) ^ (128 : Int) - (2 : ℝ) ^ (127 - (f.p : Int))
    o.1 < 2 * f.signBit ∧ (f.signBit ≤ o.1 ↔ neg) ∧
      (rtz = false → (k = f.inf ↔ top ≤ x) ∧ k ≤ f.inf ∧ (k < f.inf → ∀ j, j < f.inf →
        |value f k - x| ≤ |value f j - x| ∧ (j ≠ k → |value f k - x| = |value f j - x| → k % 2 = 0))) ∧
      (rtz = true → k < f.inf ∧ value f k ≤ x ∧ ∀ j, j < f.inf → value f j ≤ x → value f j ≤ value f k) ∧
      (top ≤ x → o.2 = flagOF ||| flagNX) ∧ (x < top → value f k = x → o.2 = 0) ∧
      (x < top → value f k ≠ x → o.2 = if k < 2 ^ (f.p - 1) then flagUF ||| flagNX else flagNX)
  let real (n : Bool) (m : Nat) (e : Int) : ℝ := (if n then -1 else 1) * (m : ℝ) * (2 : ℝ) ^ e
  let zero (f : Fmt) (neg : Bool) : Nat := if neg then f.signBit else 0
  (∀ (f : Fmt) (rtz neg : Bool) (m : Nat) (e : Int), m ≠ 0 →
    rounds f rtz (neg = true) ((m : ℝ) * (2 : ℝ) ^ e) (roundPack f rtz neg m e false)) ∧
  -- finite operands
  (∀ (f : Fmt) (rtz n k c : Bool) (m l j : Nat) (e g h : Int),
    let x := real n m e
    let y := real k l g
    let z := real c j h
    let sum := fAdd f rtz (.fin n m e) (.fin k l g)
    let fma := fFma f rtz (.fin c j h) (.fin n m e) (.fin k l g)
    (x + y ≠ 0 → rounds f rtz (x + y < 0) |x + y| sum) ∧ (x + y = 0 → sum = (zero f (n && k), 0)) ∧
    (x * y ≠ 0 → rounds f rtz (n ≠ k) |x * y| (fMul f rtz (.fin n m e) (.fin k l g))) ∧
    (x * y = 0 → fMul f rtz (.fin n m e) (.fin k l g) = (zero f (n != k), 0)) ∧
    (z + x * y ≠ 0 → rounds f rtz (z + x * y < 0) |z + x * y| fma) ∧ (z + x * y = 0 → fma = (zero f (c && (n != k)), 0)) ∧
    (m ≠ 0 → rounds f rtz (n = true) |x⁻¹| (fRcp f rtz (.fin n m e)))) ∧
  (∀ (f : Fmt) (rtz : Bool) (b m : Nat) (e : Int), unpack f b = .fin false m e → m ≠ 0 →
    rounds f rtz False (Real.sqrt (real false m e))⁻¹ (fRsq f rtz (unpack f b))) ∧
  -- NaNs and infinities
  (∀ (f : Fmt) (rtz n k : Bool) (m : Nat) (e : Int) (a b d : FVal),
    let nan (v : FVal) : Prop := ∃ s, v = .nan s
    let nv (l : List FVal) : FFlags := if FVal.nan true ∈ l then flagNV else 0
    let inf (neg : Bool) : Nat × FFlags := (f.inf + zero f neg, 0)
    let x : FVal := .fin k m e
    (nan a ∨ nan b → fAdd f rtz a b = (f.qnan, nv [a, b]) ∧ fMul f rtz a b = (f.qnan, nv [a, b])) ∧
    (fAdd f rtz (.inf n) (.inf k) = if n = k then inf n else (f.qnan, flagNV)) ∧
    fAdd f rtz (.inf n) x = inf n ∧ fAdd f rtz x (.inf n) = inf n ∧ fMul f rtz (.inf n) (.inf k) = inf (n != k) ∧
    (fMul f rtz (.inf n) x = if m = 0 then (f.qnan, flagNV) else inf (n != k)) ∧
    (fMul f rtz x (.inf n) = if m = 0 then (f.qnan, flagNV) else inf (n != k)) ∧
    (m = 0 → fFma f rtz d (.inf n) x = (f.qnan, flagNV) ∧ fFma f rtz d x (.inf n) = (f.qnan, flagNV)) ∧
    (m ≠ 0 → fFma f rtz d (.inf n) x = fAdd f rtz d (.inf (n != k)) ∧ fFma f rtz d x (.inf n) = fAdd f rtz d (.inf (n != k))) ∧
    fFma f rtz d (.inf n) (.inf k) = fAdd f rtz d (.inf (n != k)) ∧
    (∀ c l g, fFma f rtz (.inf c) x (.fin n l g) = inf c ∧ (nan d → fFma f rtz d x (.fin n l g) = (f.qnan, nv [d]))) ∧
    (nan a ∨ nan b → fFma f rtz d a b = (f.qnan, nv [d, a, b])))) ∧
  (∀ (f : Fmt) (rtz : Bool),
    let q (o : FVal → Nat × FFlags) (n : Nat) := o (unpack f n)
    let pinf := f.inf
    let ninf := f.signBit + f.inf
    let one := 127 * 2 ^ (f.p - 1)
    (q (fRcp f rtz) 0 = (pinf, flagDZ) ∧ q (fRsq f rtz) 0 = (pinf, flagDZ) ∧ q (fExp f rtz) 0 = (one, 0) ∧
      q (fLog f rtz) 0 = (ninf, flagDZ)) ∧
    (q (fRcp f rtz) f.signBit = (ninf, flagDZ) ∧ q (fRsq f rtz) f.signBit = (ninf, flagDZ) ∧
      q (fExp f rtz) f.signBit = (one, 0) ∧ q (fLog f rtz) f.signBit = (ninf, flagDZ)) ∧
    (q (fRcp f rtz) pinf = (0, 0) ∧ q (fRsq f rtz) pinf = (0, 0) ∧ q (fExp f rtz) pinf = (pinf, 0) ∧
      q (fLog f rtz) pinf = (pinf, 0)) ∧
    (q (fRcp f rtz) ninf = (f.signBit, 0) ∧ q (fRsq f rtz) ninf = (f.qnan, flagNV) ∧ q (fExp f rtz) ninf = (0, 0) ∧
      q (fLog f rtz) ninf = (f.qnan, flagNV)) ∧
    (∀ k, f.signBit < k → k < ninf → q (fRsq f rtz) k = (f.qnan, flagNV) ∧ q (fLog f rtz) k = (f.qnan, flagNV)) ∧
    (∀ k, k < 2 * f.signBit → pinf < k % f.signBit →
      let fl := if k % 2 ^ (f.p - 1) < 2 ^ (f.p - 2) then flagNV else 0
      q (fRcp f rtz) k = (f.qnan, fl) ∧ q (fRsq f rtz) k = (f.qnan, fl) ∧ q (fExp f rtz) k = (f.qnan, fl) ∧
        q (fLog f rtz) k = (f.qnan, fl)))

/-- 06 R141: `vcmp` writes bit i of pd for an active lane i, and 0 elsewhere; p0 discards it. Integer lanes raise no flag; `.lt` and
`.le` raise NV for any NaN of an active lane, the others for a signalling one. -/
def Obligations.VectorCompare : Prop :=
  ∀ (d a b : BitVec 4) (p c t : BitVec 3) (s : State),
    (t.toNat < 4 → c.toNat < 6 →
      let w := 8 * 2 ^ t.toNat
      GivesP (.vcmp d a b p c t) s d fun i =>
        let x := lane (s.rv a) w i
        let y := lane (s.rv b) w i
        decide (i < 512 / w) && (s.rp p).getLsbD i &&
          (match c.toNat with
            | 0 => decide (x = y)
            | 1 => decide (x ≠ y)
            | 2 => decide (x.toInt < y.toInt)
            | 3 => decide (x.toInt ≤ y.toInt)
            | 4 => decide (x.toNat < y.toNat)
            | _ => decide (x.toNat ≤ y.toNat))) ∧
    (t = 4 ∨ t = 5 → c.toNat < 4 ∨ c = 6 →
      let f := fmtOf t
      let w := f.p + 8
      let on (i : Nat) : Bool := decide (i < 512 / w) && (s.rp p).getLsbD i
      let x (i : Nat) : Nat := (lane (s.rv a) w i).toNat
      let y (i : Nat) : Nat := (lane (s.rv b) w i).toNat
      let un (i : Nat) : Bool := (unpack f (x i)).isNan || (unpack f (y i)).isNan
      let sn (i : Nat) : Bool := (unpack f (x i)).isSnan || (unpack f (y i)).isSnan
      ∃ u, exec (.vcmp d a b p c t) s = .next u ∧
        PredDone s u d (fun i => on i &&
          (match c.toNat with
            | 0 => !(un i) && fCompare f (x i) (y i) == .eq
            | 1 => un i || fCompare f (x i) (y i) != .eq
            | 2 => !(un i) && fCompare f (x i) (y i) == .lt
            | 3 => !(un i) && fCompare f (x i) (y i) != .gt
            | _ => un i)) ∧
        (u.self.fflags = s.self.fflags ∨ u.self.fflags = (s.self.fflags ||| flagNV)) ∧
        u.self.fflags.getLsbD 4 = (s.self.fflags.getLsbD 4 ||
          (List.range (512 / w)).any fun i => on i && (if c = 2 ∨ c = 3 then un i else sn i)))

/-- 06 R134, R138, R143: the vector moves. `vsel` writes every lane; `vext` gives a lane, sign-extended for integer types; `vins`
keeps every lane but one; `vperm` reads all of va before it writes. -/
def Obligations.VectorMoves : Prop :=
  ∀ (d a b : BitVec 4) (p t : BitVec 3) (s : State), t.toNat < 6 →
    let w := if t = 4 then 32 else if t = 5 then 16 else 8 * 2 ^ t.toNat
    let n := 512 / w
    GivesLanes (.vsel d a b p t) s d 0 w
      (fun i => if (s.rp p).getLsbD i then lane (s.rv a) w i else lane (s.rv b) w i) ∧
    GivesLanes (.vbcast d a p t) s d p w (fun _ => (s.rx a).truncate w) ∧
    GivesLanes (.vins d a b t) s d 0 w
      (fun i => if i = (s.rx b).toNat % n then (s.rx a).truncate w else lane (s.rv d) w i) ∧
    GivesLanes (.vperm d a b p t) s d p w (fun i => lane (s.rv a) w ((lane (s.rv b) w i).toNat % n)) ∧
    GivesX (.vext d a b t) s (d.zeroExtend 5)
      (let l := lane (s.rv a) w ((s.rx b).toNat % n)
       if t.toNat < 4 then l.signExtend 64 else l.zeroExtend 64)

/-- 06 R142: `vcvt` and `vcvt.rtz` convert the lanes of the wider type's count; the bits of vd above them are zero. Between integer
types the value is clamped without a flag; the others round once in their mode. -/
def Obligations.VectorConversions : Prop :=
  ∀ (d a : BitVec 4) (p e g : BitVec 3) (s : State), e.toNat < 6 → g.toNat < 6 → e ≠ g →
    let we := if e = 4 then 32 else if e = 5 then 16 else 8 * 2 ^ e.toNat
    let wg := if g = 4 then 32 else if g = 5 then 16 else 8 * 2 ^ g.toNat
    let n := min (512 / we) (512 / wg)
    let x (i : Nat) : BitVec wg := lane (s.rv a) wg i
    let on (i : Nat) : Bool := (s.rp p).getLsbD i
    let does (i : Instr) (res : Nat → BitVec we × FFlags) : Prop :=
      ∃ u, exec i s = .next u ∧ LanesDone s u d we n on (fun k => (res k).1) fun k => (res k).2
    let conv (rtz : Bool) (k : Nat) : BitVec we × FFlags :=
      if e.toNat < 4 then
        if g.toNat < 4 then (BitVec.ofInt we (max (-(2 ^ (we - 1))) (min (2 ^ (we - 1) - 1) (x k).toInt)), 0)
        else
          let r := toIntClamp rtz we (unpack (fmtOf g) (x k).toNat)
          (BitVec.ofInt we r.1, r.2)
      else
        let r := deliver (fmtOf e) rtz (if g.toNat < 4 then FVal.ofInt (x k).toInt else unpack (fmtOf g) (x k).toNat)
        (BitVec.ofNat we r.1, r.2)
    does (.vcvt d a p e g) (conv false) ∧
    (4 ≤ e.toNat ∨ 4 ≤ g.toNat → does (.vcvtRtz d a p e g) (conv true))

/-- 06 R145: `vred` reduces the active lanes of va, an inactive lane counting as the identity. On integer types the result is the fold
of the operation; on floating-point types it is the fixed pairwise tree, with the flags of every operation. -/
def Obligations.VectorReductions : Prop :=
  ∀ (d a : BitVec 4) (p : BitVec 3) (s : State),
    (∀ t : BitVec 3, t.toNat < 4 →
      let w := 8 * 2 ^ t.toNat
      let act := (List.range (512 / w)).filter fun i => (s.rp p).getLsbD i
      let x (i : Nat) : BitVec w := lane (s.rv a) w i
      let gives (g : BitVec 3) (v : Word) : Prop := GivesX (.vred d a p 0 g t) s (d.zeroExtend 5) v
      gives 0 (wrap (act.foldl (fun m i => m + (x i).toInt) 0)) ∧
      gives 1 (wrap (act.foldl (fun m i => min m (x i).toInt) (2 ^ (w - 1) - 1))) ∧
      gives 2 (wrap (act.foldl (fun m i => max m (x i).toInt) (-(2 ^ (w - 1))))) ∧
      gives 3 (act.foldl (fun m i => m &&& (x i).signExtend 64) (BitVec.allOnes 64)) ∧
      gives 4 (act.foldl (fun m i => m ||| (x i).signExtend 64) 0) ∧
      gives 5 (act.foldl (fun m i => m ^^^ (x i).signExtend 64) 0) ∧
      gives 6 (BitVec.ofNat 64 (act.foldl (fun m i => min m (x i).toNat) (2 ^ w - 1))) ∧
      gives 7 (BitVec.ofNat 64 (act.foldl (fun m i => max m (x i).toNat) 0))) ∧
    (∀ (t g : BitVec 3) (r : BitVec 1), t = 4 ∨ t = 5 → g.toNat < 3 → r = 0 ∨ g = 0 →
      let f := fmtOf t
      let w := f.p + 8
      let e := if g = 0 then f.signBit else if g = 1 then f.inf else f.signBit + f.inf
      let l (i : Nat) : Nat := if (s.rp p).getLsbD i then (lane (s.rv a) w i).toNat else e
      let op (x y : Nat) : Nat × FFlags :=
        if g = 0 then fAdd f (r == 1) (unpack f x) (unpack f y) else fMinMax f (g == 2) x y
      let v := pairTree op l (if t = 4 then 4 else 5) 0
      ∃ u, exec (.vred d a p r g t) s = .next u ∧ SlotOnly s u ∧
        u.self = { s.self.doneAt (s.self.pc + 4) s.now with
          x := u.self.x, badRegs := u.self.badRegs, fflags := s.self.fflags ||| v.2 } ∧
        ∀ q : BitVec 5, u.rx q = if q = d.zeroExtend 5 ∧ q ≠ 0 then BitVec.ofNat 64 v.1 else s.rx q)

/-- 06 R153; 01 R15: the predicate operations. p0 reads as all ones and discards what is written. -/
def Obligations.PredicateOperations : Prop :=
  ∀ (d a b : BitVec 4) (n k : BitVec 7) (s : State), n.toNat ≤ 64 → k.toNat ≤ 64 →
    let x := s.rp a
    let y := s.rp b
    s.rp (0 : BitVec 4) = BitVec.allOnes 64 ∧
    GivesP (.pand d a b) s d (fun i => x.getLsbD i && y.getLsbD i) ∧
    GivesP (.por d a b) s d (fun i => x.getLsbD i || y.getLsbD i) ∧
    GivesP (.pxor d a b) s d (fun i => x.getLsbD i ^^ y.getLsbD i) ∧
    GivesP (.pnot d a) s d (fun i => !(x.getLsbD i)) ∧
    GivesP (.pset d n) s d (fun i => decide (i < n.toNat)) ∧
    GivesP (.psetX d a) s d (fun i => (s.rx a).getLsbD i) ∧
    GivesX (.pcnt d a k) s (d.zeroExtend 5) (BitVec.ofNat 64 ((List.range k.toNat).countP fun i => x.getLsbD i))

/-- 05 R93, R95; 06 R146, R147: loads from view 0 of the scratchpad, at every size and ord: the little-endian value of the bytes,
extended as the mnemonic says. 01 R21, R24, R26; 02 R37: loads from the accumulator window give the bytes of the tiles' binary32
elements, and a doubleword of the cell control page gives `cctl` or `cslst`. -/
def Obligations.LoadsFromTheScratchpad : Prop :=
  ∀ (d a : BitVec 5) (vd : BitVec 4) (o w : BitVec 2) (i : BitVec 12) (off : Nat) (s : State), o ≠ 3 → off < 0x10_0000 →
    let ea (n : Nat) : Word := s.rx a + i.signExtend 64 * BitVec.ofNat 64 n
    let b := (s.cell s.self.cell).spad
    let num (n : Nat) : Nat := leNat (mgetBytes b.bytes off n)
    let may (n : Nat) : Prop :=
      (ea n).toNat = 0x0100_0000 + off ∧ s.Open (ea n) n false o w ∧ b.bad off n = false
    (may 1 → GivesLoad (.ldB d a o w i) s o d ((BitVec.ofNat 8 (num 1)).signExtend 64)) ∧
    (may 2 → GivesLoad (.ldH d a o w i) s o d ((BitVec.ofNat 16 (num 2)).signExtend 64)) ∧
    (may 4 → GivesLoad (.ldW d a o w i) s o d ((BitVec.ofNat 32 (num 4)).signExtend 64)) ∧
    (may 8 → GivesLoad (.ldD d a o w i) s o d (BitVec.ofNat 64 (num 8))) ∧
    (may 1 → GivesLoad (.ldBu d a o w i) s o d (BitVec.ofNat 64 (num 1))) ∧
    (may 2 → GivesLoad (.ldHu d a o w i) s o d (BitVec.ofNat 64 (num 2))) ∧
    (may 4 → GivesLoad (.ldWu d a o w i) s o d (BitVec.ofNat 64 (num 4))) ∧
    (may 64 → GivesLoadV (.vld vd a o w i) s o vd (BitVec.ofNat 512 (num 64))) ∧
    (let k := s.cell s.self.cell
     let el (j : Nat) : Nat := (tileWord k.tiles (j / 8192) (j % 8192)).toNat
     let word (j : Nat) : Nat := el (off / 4) / 256 ^ (off % 4) % 256 ^ j
     let in_ (n : Nat) : Prop := (ea n).toNat = 0x0200_0000 + off ∧ off < 0x2_0000 ∧ s.Open (ea n) n false o w ∧
       k.accBad (off / 0x8000) (off % 0x8000) n = false
     (in_ 1 → GivesLoad (.ldB d a o w i) s o d ((BitVec.ofNat 8 (word 1)).signExtend 64)) ∧
     (in_ 2 → GivesLoad (.ldH d a o w i) s o d ((BitVec.ofNat 16 (word 2)).signExtend 64)) ∧
     (in_ 4 → GivesLoad (.ldW d a o w i) s o d ((BitVec.ofNat 32 (word 4)).signExtend 64)) ∧
     (in_ 8 → GivesLoad (.ldD d a o w i) s o d (BitVec.ofNat 64 (el (off / 4) + el (off / 4 + 1) * 2 ^ 32))) ∧
     (in_ 1 → GivesLoad (.ldBu d a o w i) s o d (BitVec.ofNat 64 (word 1))) ∧
     (in_ 2 → GivesLoad (.ldHu d a o w i) s o d (BitVec.ofNat 64 (word 2))) ∧
     (in_ 4 → GivesLoad (.ldWu d a o w i) s o d (BitVec.ofNat 64 (word 4))) ∧
     (in_ 64 → GivesLoadV (.vld vd a o w i) s o vd
       (BitVec.ofNat 512 ((List.range 16).map fun j => el (off / 4 + j) * 2 ^ (32 * j)).sum)) ∧
     (s.Open (ea 8) 8 false o w →
       ((ea 8).toNat = 0x0300_0000 → GivesLoad (.ldD d a o w i) s o d (BitVec.ofNat 64
         ((if k.rot then 1 else 0) + k.spsz.toNat * 2 + (if k.spx then 8 else 0) + (if k.sprf then 16 else 0) +
           (if k.rotp then 32 else 0)))) ∧
       ((ea 8).toNat = 0x0300_0008 → GivesLoad (.ldD d a o w i) s o d
         (BitVec.ofNat 64 ((List.range 16).map fun j => s.slotCode s.self.cell j * 8 ^ j).sum))))

/-- 05 R93, R95; 10 R212-R214; 11 R233: loads from partition memory. A weak or acquire load takes its bytes from a line of L1 that
serves it, and otherwise from their home; a strong load takes them from their home. No byte of memory changes. -/
def Obligations.LoadsFromPartitionMemory : Prop :=
  ∀ (d a : BitVec 5) (vd : BitVec 4) (o w : BitVec 2) (i : BitVec 12) (b : Nat → Byte) (s : State), o ≠ 3 →
    let ea (n : Nat) : Word := s.rx a + i.signExtend 64 * BitVec.ofNat 64 n
    let c := s.self
    let k := s.cell c.cell
    let num (n : Nat) : Nat := leNat ((List.range n).map b)
    let may (n : Nat) : Prop :=
      let va := (ea n).toNat
      0x1_0000_0000 ≤ va ∧ va < 2 ^ 48 ∧ s.Open (ea n) n false o w ∧ risesFrom 0 k.l1 = true ∧
      ((o ≠ 2 ∧ c.migrated = false ∧ s.inSaveArea c.space va = false ∧
          ∃ id l, k.l1Line c.sid va = some (id, l) ∧ l.hits c (va % 128) n = true ∧ l.data.bad (va % 128) n = false ∧
            ∀ j, j < n → mget l.data.bytes (va % 128 + j) = b j) ∨
       ((∀ j, j < n → s.homeByte c.space (va + j) = some (b j)) ∧ s.HomeTakes c.space va ∧
        ((k.l1Line c.sid va = none ∧ freePlace 0 k.l1 < k.l1Places) ∨
          ∃ id l, k.l1Line c.sid va = some (id, l) ∧ l.dirty = 0 ∧ l.guarded = false ∧ l.fill < c.acqMark)))
    (may 1 → GivesLoad (.ldB d a o w i) s o d ((BitVec.ofNat 8 (num 1)).signExtend 64)) ∧
    (may 2 → GivesLoad (.ldH d a o w i) s o d ((BitVec.ofNat 16 (num 2)).signExtend 64)) ∧
    (may 4 → GivesLoad (.ldW d a o w i) s o d ((BitVec.ofNat 32 (num 4)).signExtend 64)) ∧
    (may 8 → GivesLoad (.ldD d a o w i) s o d (BitVec.ofNat 64 (num 8))) ∧
    (may 1 → GivesLoad (.ldBu d a o w i) s o d (BitVec.ofNat 64 (num 1))) ∧
    (may 2 → GivesLoad (.ldHu d a o w i) s o d (BitVec.ofNat 64 (num 2))) ∧
    (may 4 → GivesLoad (.ldWu d a o w i) s o d (BitVec.ofNat 64 (num 4))) ∧
    (may 64 → GivesLoadV (.vld vd a o w i) s o vd (BitVec.ofNat 512 (num 64)))

/-- 05 R93, R95, R97, R127; 06 R147: stores to view 0 of the scratchpad, at every size and ord. The stored bytes read as the low bytes
of the register, their words become full, their granules lose their tags, a word stored whole loses a poison mark; every other
byte and mark of the scratchpad, and every other unit, is as before. -/
def Obligations.StoresToTheScratchpad : Prop :=
  ∀ (x a : BitVec 5) (vs : BitVec 4) (o w : BitVec 2) (i : BitVec 12) (off : Nat) (s : State), o ≠ 3 → off < 0x10_0000 →
    let ea (n : Nat) : Word := s.rx a + i.signExtend 64 * BitVec.ofNat 64 n
    let b := (s.cell s.self.cell).spad
    let writes (n : Nat) (v : Nat) (ins : Instr) : Prop :=
      (ea n).toNat = 0x0100_0000 + off → s.Open (ea n) n true o w → s.memWf = true →
      ∃ t, exec ins s = .next t ∧ Stored s t o ∧ t.dies = s.dies ∧
        (∀ m, t.cell m = if m = s.self.cell then { s.cell m with spad := (t.cell m).spad } else s.cell m) ∧
        let b' := (t.cell s.self.cell).spad
        (∀ k, mget b'.bytes k = if off ≤ k ∧ k < off + n then BitVec.ofNat 8 (v / 256 ^ (k - off)) else mget b.bytes k) ∧
        (∀ q, b'.full.contains q = (b.full.contains q || decide (off / 8 ≤ q ∧ q ≤ (off + n - 1) / 8))) ∧
        (∀ q, b'.tags.contains q = (b.tags.contains q && decide (q < off / 16 ∨ (off + n - 1) / 16 < q))) ∧
        (∀ q, b'.poison.contains q = (b.poison.contains q && !decide (off ≤ 8 * q ∧ 8 * q + 8 ≤ off + n)))
    writes 1 (s.rx x).toNat (.stB x a o w i) ∧ writes 2 (s.rx x).toNat (.stH x a o w i) ∧
    writes 4 (s.rx x).toNat (.stW x a o w i) ∧ writes 8 (s.rx x).toNat (.stD x a o w i) ∧
    writes 64 (s.rv vs).toNat (.vst vs a o w i)

/-- 05 R93, R95; 10 R213, R215: stores to partition memory. A weak store is accepted by the cell's L1: no home changes, and the acting
context sees the stored bytes there and every other byte as before (for a line that L1 takes new or that still serves the
context). A release or strong store, and a store of a migrated thread, is performed at the home: the stored bytes read so there,
and every byte of another line, and every other byte of the line under its own name, reads as before. A byte of a poisoned word
that the store does not cover whole stays poisoned. -/
def Obligations.StoresToPartitionMemory : Prop :=
  ∀ (x a : BitVec 5) (vs : BitVec 4) (o w : BitVec 2) (i : BitVec 12) (s : State), o ≠ 3 →
    let ea (n : Nat) : Word := s.rx a + i.signExtend 64 * BitVec.ofNat 64 n
    let c := s.self
    let k := s.cell c.cell
    let writes (n : Nat) (v : Nat) (ins : Instr) : Prop :=
      let e := ea n
      let va := e.toNat
      let byte (j : Nat) : Byte := BitVec.ofNat 8 (v / 256 ^ j)
      0x1_0000_0000 ≤ va → va < 2 ^ 48 → s.Open e n true o w → s.inFaultRing c.space va n = false →
      s.HomeTakes c.space va → s.memWf = true → risesFrom 0 k.l1 = true →
      (o = 0 → c.migrated = false →
        ((k.l1Line c.sid va = none ∧ freePlace 0 k.l1 < k.l1Places) ∨
          ∃ id l, k.l1Line c.sid va = some (id, l) ∧ l.valid = BitVec.allOnes 128 ∧ (l.guarded = true ∨ c.acqMark ≤ l.fill)) →
        ∃ t, exec ins s = .next t ∧ Stored s t o ∧ (∀ m, t.cell m = { s.cell m with l1 := (t.cell m).l1 }) ∧
          (∀ m, t.die m = { s.die m with l2 := (t.die m).l2 }) ∧ (∀ q u, t.homeByte q u = s.homeByte q u) ∧
          (∀ j, j < n → n % 8 = 0 ∨ s.byteSeen (e + BitVec.ofNat 64 j) ≠ none →
            t.byteSeen (e + BitVec.ofNat 64 j) = some (byte j)) ∧
          (∀ u : Word, (u.toNat < va ∨ va + n ≤ u.toNat) → (∀ p, region u ≠ .page p) → t.byteSeen u = s.byteSeen u)) ∧
      (o ≠ 0 ∨ c.migrated = true → (∀ id l, k.l1Line c.sid va = some (id, l) → l.dirty = 0) →
        ∃ t, exec ins s = .next t ∧ Stored s t o ∧ (∀ m, t.cell m = { s.cell m with l1 := (t.cell m).l1 }) ∧
          (∀ m, t.die m = { s.die m with l2 := (t.die m).l2 }) ∧
          (∀ j, j < n → n % 8 = 0 ∨ s.homeByte c.space (va + j) ≠ none → t.homeByte c.space (va + j) = some (byte j)) ∧
          ∀ p q r u, s.judge c.space va = .ok p → s.page r u = some q →
            ((q.die, q.phys (u / 128 * 128)) ≠ (p.die, p.phys (va / 128 * 128)) ∨
              (q.sid = p.sid ∧ u / 128 = va / 128 ∧ (u < va ∨ va + n ≤ u))) →
            t.homeByte r u = s.homeByte r u)
    writes 1 (s.rx x).toNat (.stB x a o w i) ∧ writes 2 (s.rx x).toNat (.stH x a o w i) ∧
    writes 4 (s.rx x).toNat (.stW x a o w i) ∧ writes 8 (s.rx x).toNat (.stD x a o w i) ∧
    writes 64 (s.rv vs).toNat (.vst vs a o w i)

/-- 01 R21, R22; 05 R94; 06 R147: the checks of a load or store, in their order: the null and unused regions, the views, the
accumulator window and the cell control page, then alignment, then a versioned page. Each fault is a precise trap, so nothing of
the access has taken effect. Addresses of 2^48 and more are the model's reading (log 8). -/
def Obligations.AddressChecks : Prop :=
  ∀ (x a : BitVec 5) (vs : BitVec 4) (o w : BitVec 2) (i : BitVec 12) (s : State), s.hasHandler →
    let ea (n : Nat) : Word := s.rx a + i.signExtend 64 * BitVec.ofNat 64 n
    let c := s.self
    let k := s.cell c.cell
    let held (off n : Nat) : Prop := ∀ g, off / 4096 ≤ g → g ≤ (off + n - 1) / 4096 → s.holdsGranule c.entry c.cell g = true
    let refused (n : Nat) (store : Bool) (ins : Instr) : Prop :=
      let e := (ea n).toNat
      (e < 0x0100_0000 ∨ (0x0202_0000 ≤ e ∧ e < 0x0300_0000) ∨ (0x0300_1000 ≤ e ∧ e < 0x1_0000_0000) ∨ 2 ^ 48 ≤ e →
        Traps ins s 0x04 (ea n)) ∧
      (∀ v off, e = 0x0100_0000 + v * 0x10_0000 + off → off < 0x10_0000 → v < 16 →
        (v = 1 ∨ 10 ≤ v ∨ (v = 9 ∧ store = true) → Traps ins s 0x04 (ea n)) ∧
        (v = 0 → k.spadSize < off + n → Traps ins s 0x04 (ea n)) ∧
        (v = 0 → off + n ≤ k.spadSize → ¬ held off n → Traps ins s 0x08 (ea n)) ∧
        (v = 0 → off + n ≤ k.spadSize → held off n → (store = true → s.inBook c.cell off n = false) → off % n ≠ 0 →
          Traps ins s 0x03 (ea n)) ∧
        (v = 0 → off + n ≤ k.spadSize → held off n → store = true → s.inBook c.cell off n = true → Traps ins s 0x04 (ea n))) ∧
      (∀ tile off, e = 0x0200_0000 + tile * 0x8000 + off → off < 0x8000 → tile < 4 →
        (store = true → Traps ins s 0x04 (ea n)) ∧
        (store = false → s.holdsTile c.entry c.cell tile = false → Traps ins s 0x08 (ea n)) ∧
        (store = false → s.holdsTile c.entry c.cell tile = true → e % n ≠ 0 → Traps ins s 0x03 (ea n))) ∧
      (0x0300_0000 ≤ e → e < 0x0300_1000 →
        (c.pl = 0 → Traps ins s 0x02 (ea n)) ∧ (c.pl ≠ 0 → n ≠ 8 ∨ e % 8 ≠ 0 → Traps ins s 0x03 (ea n))) ∧
      (0x1_0000_0000 ≤ e → e < 2 ^ 48 →
        (e % n ≠ 0 → Traps ins s 0x03 (ea n)) ∧
        (e % n = 0 → s.versioned c.space e = true → Traps ins s 0x04 (ea n)))
    (refused 1 false (.ldB x a o w i) ∧ refused 2 false (.ldH x a o w i) ∧ refused 4 false (.ldW x a o w i) ∧
      refused 8 false (.ldD x a o w i) ∧ refused 1 false (.ldBu x a o w i) ∧ refused 2 false (.ldHu x a o w i) ∧
      refused 4 false (.ldWu x a o w i) ∧ refused 64 false (.vld vs a o w i)) ∧
    (c.member = none → refused 1 true (.stB x a o w i) ∧ refused 2 true (.stH x a o w i) ∧ refused 4 true (.stW x a o w i) ∧
      refused 8 true (.stD x a o w i) ∧ refused 64 true (.vst vs a o w i))

/-- 02 R33, R34, R40, R41: view v of the scratchpad, 2 to 8. A byte load gives the mantissa of the element: the first v planes, plane
0 the sign. A byte store clamps the value to the range of v planes, writes them, clears the planes above, and changes no other bit
of the scratchpad. A word of view 9 is the binary32 number m8 * 2^(E - 134) of its element; 0 for E = 0, the NaN for E = 255. -/
def Obligations.NestedViews : Prop :=
  ∀ (x a : BitVec 5) (o w : BitVec 2) (i : BitVec 12) (v e : Nat) (s : State), o ≠ 3 → 2 ≤ v → v ≤ 8 → e < 0x10_0000 →
    let ea : Word := s.rx a + i.signExtend 64 * 1
    let b := (s.cell s.self.cell).spad
    let at_ (p : Nat) (f : Nat) : Nat := 64 * (f / 64) + 8 * p + f % 64 / 8
    let plane (m : Memory) (p f : Nat) : Bool := (mget m (at_ p f)).getLsbD (f % 8)
    let value (v : Nat) (m : Memory) (f : Nat) : Int :=
      ((List.range v).map fun p => if plane m p f then (if p = 0 then -1 else 1) * (2 : Int) ^ (v - 1 - p) else 0).sum
    (ea.toNat = 0x0100_0000 + v * 0x10_0000 + e →
     (s.Open ea 1 false o w → b.viewBad 0 v e 1 = false → GivesLoad (.ldB x a o w i) s o x (wrap (value v b.bytes e))) ∧
    (s.Open ea 1 true o w → s.memWf = true →
      ∃ t, exec (.stB x a o w i) s = .next t ∧ Stored s t o ∧
        let m := (t.cell s.self.cell).spad.bytes
        let r := max (-(2 ^ (v - 1))) (min (2 ^ (v - 1) - 1) ((s.rx x).truncate 8).toInt)
        value v m e = r ∧ (∀ p, v ≤ p → p < 8 → plane m p e = false) ∧
        (∀ f p, f ≠ e → p < 8 → plane m p f = plane b.bytes p f))) ∧
    (let ea : Word := s.rx a + i.signExtend 64 * 4
     let scale := s.self.me.vsb.toNat + e / 4
     let E := (mget b.bytes scale).toNat
     ea.toNat = 0x0190_0000 + 4 * e → e < 0x4_0000 → s.Open ea 4 false o w → b.bad (scale) 1 = false →
     b.viewBad 0 8 e 1 = false → s.self.badRegs.contains 67 = false →
     ∃ u : BitVec 32, GivesLoad (.ldW x a o w i) s o x (u.signExtend 64) ∧ (E = 0 → u = 0) ∧ (E = 255 → u = 0x7FC0_0000) ∧
       (0 < E → E < 255 →
         let ex := u.toNat / 2 ^ 23 % 256
         let fr : Nat := u.toNat % 2 ^ 23
         ex < 255 ∧ (if 2 ^ 31 ≤ u.toNat then (-1 : Int) else 1) * (if ex = 0 then (fr : Int) else ((2 ^ 23 + fr : Nat) : Int) * 2 ^ (ex - 1)) =
           value 8 b.bytes e * 2 ^ (E + 15) ∧ (value 8 b.bytes e = 0 → u = 0)))

/-- 05 R101-R105: the eight atomics at their homes, for every type and ord. A fetching form gives xd the old word (`.w` sign-extended,
`.f32` zero-extended) and writes the new one there, ORing its flags into `fflags`; a no-fetch form in the scratchpad does the same
to `mfl`; a no-fetch form in partition memory leaves as a posted request and counts in its class. -/
def Obligations.AtomicOperations : Prop :=
  ∀ (d a b : BitVec 5) (o t : BitVec 2) (nf : BitVec 1) (s : State), o ≠ 3 → t ≠ 3 → s.memWf = true →
    let n := if t = 1 then 8 else 4
    let ea := s.rx a
    let l := s.locOf ea
    let v := s.rx b
    let W (k : Nat) : BitVec (8 * n) := BitVec.ofNat _ k
    let does (op : BitVec 3) (ins : Instr) (posts : Bool) (new : Nat → Nat × FFlags) : Prop :=
      ea.toNat % n = 0 → s.Plain ea n true → (o ≠ 0 → s.Clear coverAll) → s.HomeReady l n → s.holds = [] → s.SwitchesEmpty →
      (posts = false ∨ region ea ≠ .mem → ∀ old, s.numAt l n = some old →
        ∃ u, exec ins s = .next u ∧
          AccessDone s u d (!posts) (if t = 0 then (BitVec.ofNat 32 old).signExtend 64 else BitVec.ofNat 64 old) ∧
          OnlyAt s u l n ∧ u.numAt l n = some (new old).1 ∧ u.fullAt l = some true ∧
          u.self.fflags = (if posts then s.self.fflags else s.self.fflags ||| (new old).2) ∧
          u.self.mfl = (if posts then s.self.mfl ||| (new old).2 else s.self.mfl)) ∧
      (posts = true → region ea = .mem → (∀ q, s.page s.self.space ea.toNat = some q → s.coreRoom q.core = true) →
        ∃ u p, exec ins s = .next u ∧ u.packets = tset s.packets s.fresh p ∧ u.fresh = s.fresh + 1 ∧
          p.target = .home l ∧ p.op = .amo op t v (s.rx d) ∧ p.posted = true ∧ p.st = .travelling ∧ p.ctx = s.cur ∧
          p.cls = s.classOfMem s.self.cell s.self.space ea.toNat ∧ (∀ r w, u.homeByte r w = s.homeByte r w) ∧
          u.self = (s.self.doneAt (s.self.pc + 4) s.now).bumpPst p.cls true)
    let int (f : BitVec (8 * n) → BitVec (8 * n) → BitVec (8 * n)) (old : Nat) : Nat × FFlags := ((f (W old) (W v.toNat)).toNat, 0)
    does 0 (.amoAdd d a b o nf t) (nf == 1) (if t = 2 then fun k => add32 k (v.toNat % 2 ^ 32) else int fun x y => x + y) ∧
    does 1 (.amoMin d a b o nf t) (nf == 1) (if t = 2 then fun k => fMinMax .b32 false k (v.toNat % 2 ^ 32)
      else int fun x y => if x.toInt ≤ y.toInt then x else y) ∧
    does 2 (.amoMax d a b o nf t) (nf == 1) (if t = 2 then fun k => fMinMax .b32 true k (v.toNat % 2 ^ 32)
      else int fun x y => if x.toInt ≤ y.toInt then y else x) ∧
    (t ≠ 2 →
      does 3 (.amoAnd d a b o nf t) (nf == 1) (int fun x y => x &&& y) ∧
      does 4 (.amoOr d a b o nf t) (nf == 1) (int fun x y => x ||| y) ∧
      does 5 (.amoXor d a b o nf t) (nf == 1) (int fun x y => x ^^^ y) ∧
      does 6 (.amoSwp d a b o t) false (int fun _ y => y) ∧
      does 7 (.amoCas d a b o t) false (int fun x y => if x = W (s.rx d).toNat then y else x))

/-- 05 R97: `ld.d.take` on a full word that no earlier waiter is ahead for reads it and leaves it empty; on an empty one it parks at
the end of the word's wait list. `st.d.give` on an empty word writes it and leaves it full; on a full one it parks. -/
def Obligations.FullEmptyWords : Prop :=
  ∀ (d a : BitVec 5) (w : BitVec 2) (i : BitVec 12) (s : State), s.memWf = true →
    let ea : Word := s.rx a + i.signExtend 64 * 8
    let l := s.locOf ea
    let waits (ins : Instr) (f : Bool) : Prop :=
      (s.waiters.all fun p => p.1 ≠ s.cur) → s.listFull l = false →
      ∃ t, exec ins s = .next t ∧ t.waiters = s.waiters ++ [(s.cur, l)] ∧
        t.self = { s.self with sst := .parked, wait := .fe l f, charged := true, lastTry := s.now } ∧
        (∀ r u, t.homeByte r u = s.homeByte r u) ∧ ∀ m, (t.cell m).spad = (s.cell m).spad
    ea.toNat % 8 = 0 → region ea = .mem ∨ (∃ off, region ea = .view 0 off) → s.HomeReady l 8 →
    (s.self.opt = false → s.Open ea 8 false 0 w → s.fabricWaits ea 8 false true = .ok () →
      (∀ v, s.fullAt l = some true → s.numAt l 8 = some v → s.ahead l (.fe l true) = false →
        ∃ t, exec (.ldDTake d a w i) s = .next t ∧ AccessDone s t d true (BitVec.ofNat 64 v) ∧ OnlyAt s t l 0 ∧
          t.fullAt l = some false ∧ t.numAt l 8 = some v ∧ t.waiters = s.waiters.filter fun p => p.1 ≠ s.cur) ∧
      (s.fullAt l = some false → waits (.ldDTake d a w i) true)) ∧
    (s.self.opt = false → s.Open ea 8 true 1 w →
      (s.fullAt l = some false → s.ahead l (.fe l false) = false →
        ∃ t, exec (.stDGive d a w i) s = .next t ∧ AccessDone s t d false 0 ∧ OnlyAt s t l 8 ∧
          t.fullAt l = some true ∧ t.numAt l 8 = some (s.rx d).toNat ∧ t.waiters = s.waiters.filter fun p => p.1 ≠ s.cur) ∧
      (s.fullAt l = some true → waits (.stDGive d a w i) false))

/-- 05 R98, R99: versioned words outside optimistic mode. `ldv.eq` gives the live version xb and `ldv.le` the largest at or below it,
and traps where that version is poisoned; with none live the slot parks. `stv` replaces or creates version xb and retires those 8
or more older, and faults VFULL when one 8 or more newer is live. -/
def Obligations.VersionedWords : Prop :=
  ∀ (d a b : BitVec 5) (s : State),
    let ea := s.rx a
    let va := ea.toNat
    let c := s.self
    let x := s.rx b
    let live := s.liveVersions c.space va
    let reads (ins : Instr) (f : Version → Prop) (eq : Bool) : Prop :=
      (∀ y, y ∈ live → f y → (∀ z, z ∈ live → f z → z.num.toNat < y.num.toNat ∨ z = y) →
        (y.bad = false → ∃ t, exec ins s = .next t ∧ AccessDone s t d true y.val ∧ t.cells = s.cells ∧ t.dies = s.dies) ∧
        (y.bad = true → s.hasHandler → (s.waiters.all fun p => p.1 ≠ s.cur) → ∃ t, exec ins s = .next t ∧
          t.self.pc = (c.trapRegs (trapLevel c.pl)).tvec ∧ (t.self.trapRegs (trapLevel c.pl)).cause = 0x0D ∧
          ∀ r : BitVec 5, t.rx r = s.rx r)) ∧
      ((∀ y, y ∈ live → ¬ f y) → (s.waiters.all fun p => p.1 ≠ s.cur) → s.listFull (.mem c.space va) = false →
        ∃ t, exec ins s = .next t ∧ t.waiters = s.waiters ++ [(s.cur, .mem c.space va)] ∧ t.versions = s.versions ∧
          t.self = { c with sst := .parked, wait := .version (.mem c.space va) eq x, charged := true, lastTry := s.now })
    c.opt = false → c.member = none → va % 8 = 0 → 0x1_0000_0000 ≤ va → va < 2 ^ 48 → s.versioned c.space va = true →
    s.fabricWaits ea 8 false true = .ok () → (∃ p, s.judge c.space va = .ok p) →
    reads (.ldvEq d a b) (fun y => y.num = x) true ∧
    reads (.ldvLe d a b) (fun y => y.num.toNat ≤ x.toNat) false ∧
    (s.Clear coverAll →
      ((∀ y, y ∈ live → y.num.toNat < x.toNat + 8) → s.storeFull c.space va = false →
        ∃ t, exec (.stv d a b) s = .next t ∧ t.self = c.doneAt (c.pc + 4) s.now ∧
          ((∀ dom sl, s.sliceOf c.space va = some (dom, sl) → s.L2Room (dom / 2) sl) →
            t = { s with ctxs := t.ctxs, versions := t.versions }) ∧ t.cells = s.cells ∧
          (∀ y, y ∈ t.liveVersions c.space va ↔ y = { num := x, val := s.rx d, writer := none } ∨
            (y ∈ live ∧ y.num ≠ x ∧ x.toNat < y.num.toNat + 8)) ∧
          ∀ q u, (q, u) ≠ (c.space, va) → q < 2 ^ 16 → u < 2 ^ 48 → t.liveVersions q u = s.liveVersions q u) ∧
      ((∃ y, y ∈ live ∧ x.toNat + 8 ≤ y.num.toNat) → s.hasHandler → Traps (.stv d a b) s 0x0B ea))

/-- 06 R149-R152: gathers and scatters outside optimistic mode. A gather whose active lanes can all be read where they are gives each
its element and keeps the others, and, but for a weak one, is an acquire; a lane that fails its check traps with its address, the
lowest first. A weak or release scatter leaves at each byte the value of the highest-numbered active lane that covers it, in view
0 or in partition memory, a weak one there in the cell's L1 (for lines that serve the context) with no home changed, a release one
at the homes (for lines that L2 holds); a strong one performs one lane a step, in ascending order, at its home, and the last
completes the acquire. That a scatter waits, the slot STALLED, until no request stands in a switch on its way is the model's
choice (log 79). -/
def Obligations.GathersAndScatters : Prop :=
  ∀ (d a b : BitVec 4) (p : BitVec 3) (o z : BitVec 2) (s : State), o ≠ 3 → 2 ≤ z.toNat →
    let n := if z = 3 then 8 else 4
    let ea (i : Nat) : Word := s.rx a + (lane (s.rv b) (8 * n) i).signExtend 64 * BitVec.ofNat 64 n
    let on (i : Nat) : Bool := decide (i < 64 / n) && (s.rp p).getLsbD i
    let elt (i : Nat) : Nat := (lane (s.rv d) (8 * n) i).toNat
    let B := (s.cell s.self.cell).spad
    ((∀ i, on i = true → s.Open (ea i) n false 0 0) →
      (o = 2 → s.Clear coverAll ∧ ∀ i, on i = true → s.fabricWaits (ea i) n false true = .ok ()) →
      ∀ bs : Nat → List Byte, (∀ i, on i = true → s.readBytes (ea i) n (o == 2) = .ok (s, bs i)) →
        ∃ t, exec (.vgth d a b p o z) s = .next t ∧
          t = { s with ctxs := t.ctxs, stamp := t.stamp } ∧ (∀ x, x ≠ s.cur → tfind t.ctxs x = tfind s.ctxs x) ∧
          t.self = { s.self.doneAt (s.self.pc + 4) s.now with
            v := t.self.v, badRegs := t.self.badRegs, acqMark := if o = 0 then s.self.acqMark else s.stamp + 1 } ∧
          t.stamp = (if o = 0 then s.stamp else s.stamp + 1) ∧ (∀ r : BitVec 4, r ≠ d → t.rv r = s.rv r) ∧
          ∀ i, i < 64 / n → lane (t.rv d) (8 * n) i =
            if on i then BitVec.ofNat (8 * n) (leNat (bs i)) else lane (s.rv d) (8 * n) i) ∧
    (∀ i code, on i = true → (∀ j, j < i → on j = true → s.Open (ea j) n false 0 0) → s.checkAddr (ea i) n false = some code →
      code ≠ 0x0D → s.hasHandler → Traps (.vgth d a b p o z) s code (ea i)) ∧
    (s.self.member = none → s.memWf = true → tget 0 s.self.vsctDone s.self.pc.toNat = 0 →
      (∀ i, on i = true → s.Open (ea i) n true 0 0 ∧ ∃ off, region (ea i) = .view 0 off) →
      (∀ i, on i = true → 0x0100_0000 ≤ (ea i).toNat) → (o ≠ 0 → s.Clear coverAll) →
      let covers (i k : Nat) : Prop := on i = true ∧ (ea i).toNat - 0x0100_0000 ≤ k ∧ k < (ea i).toNat - 0x0100_0000 + n
      let val (i k : Nat) : Byte := BitVec.ofNat 8 (elt i / 256 ^ (k + 0x0100_0000 - (ea i).toNat))
      (o ≠ 2 → ∃ t, exec (.vsct d a b p o z) s = .next t ∧ SlotOnly { s with cells := t.cells } t ∧
        t.self = s.self.doneAt (s.self.pc + 4) s.now ∧
        (∀ m, t.cell m = if m = s.self.cell then { s.cell m with spad := (t.cell m).spad } else s.cell m) ∧
        ∀ k, let m := (t.cell s.self.cell).spad.bytes
          ((∀ i, ¬ covers i k) → mget m k = mget B.bytes k) ∧
          (∀ i, covers i k → (∀ j, i < j → ¬ covers j k) → mget m k = val i k)) ∧
      (o = 2 → ∀ i, on i = true → (∀ j, j < i → on j = false) →
        ∃ t, exec (.vsct d a b p o z) s = .next t ∧
          (∀ k, mget (t.cell s.self.cell).spad.bytes k =
            if (ea i).toNat - 0x0100_0000 ≤ k ∧ k < (ea i).toNat - 0x0100_0000 + n then val i k else mget B.bytes k) ∧
          ((∃ j, i < j ∧ on j = true) → t.self = { s.self with sst := .stalled, wait := .again, charged := true, lastTry := s.now
                                                               vsctDone := tset s.self.vsctDone s.self.pc.toNat 1 }) ∧
          ((∀ j, i < j → on j = false) → t.stamp = s.stamp + 1 ∧ t.self = { s.self.doneAt (s.self.pc + 4) s.now with
            acqMark := s.stamp + 1, vsctDone := (s.self.dropLanes s.self.pc).vsctDone }))) ∧
    -- into partition memory
    (let c := s.self
     let k := s.cell c.cell
     let va (i : Nat) : Nat := (ea i).toNat
     s.self.member = none → s.memWf = true → tget 0 c.vsctDone c.pc.toNat = 0 → risesFrom 0 k.l1 = true →
     (∀ i, on i = true → s.Open (ea i) n true 0 0 ∧ 0x1_0000_0000 ≤ va i ∧ va i < 2 ^ 48 ∧ s.inFaultRing c.space (va i) n = false ∧
       ∃ p l, s.judge c.space (va i) = .ok p ∧ tfind (s.die p.die).l2 (p.phys (va i / 128 * 128)) = some l ∧ l.sid = p.sid ∧
         l.va = va i / 128 * 128) →
     (o ≠ 0 → s.Clear coverAll ∧ ∀ i, on i = true → s.fabricWaits (ea i) n true true = .ok ()) →
     let covers (i u : Nat) : Prop := on i = true ∧ va i ≤ u ∧ u < va i + n
     let last (i u : Nat) : Prop := covers i u ∧ ∀ j, i < j → ¬ covers j u
     let val (i u : Nat) : Byte := BitVec.ofNat 8 (elt i / 256 ^ (u - va i))
     let clean : Prop := ∀ i, on i = true → ∀ p, p ∈ k.l1 → p.2.sid = c.sid → p.2.va = va i / 128 * 128 → p.2.dirty = 0
     let lineOf (i u : Nat) : Prop := on i = true ∧ u / 128 = va i / 128
     (o = 0 → c.migrated = false → (∀ i, on i = true → ∃ id l, k.l1Line c.sid (va i) = some (id, l) ∧
         l.valid = BitVec.allOnes 128 ∧ (l.guarded = true ∨ c.acqMark ≤ l.fill)) →
       ∃ t, exec (.vsct d a b p o z) s = .next t ∧ t.self = c.doneAt (c.pc + 4) s.now ∧ t.dies = s.dies ∧
         (∀ m, t.cell m = if m = c.cell then { k with l1 := (t.cell m).l1 } else s.cell m) ∧
         (∀ i u, last i u → n = 8 ∨ s.byteSeen (BitVec.ofNat 64 u) ≠ none → t.byteSeen (BitVec.ofNat 64 u) = some (val i u)) ∧
         ∀ w : Word, (∀ i, ¬ covers i w.toNat) → (∀ q, region w ≠ .page q) → t.byteSeen w = s.byteSeen w) ∧
     (o = 1 ∨ (o = 0 ∧ c.migrated = true) → clean → ∃ t, exec (.vsct d a b p o z) s = .next t ∧ t.self = c.doneAt (c.pc + 4) s.now ∧
       (∀ m, t.cell m = { s.cell m with l1 := (t.cell m).l1 }) ∧ (∀ m, t.die m = { s.die m with l2 := (t.die m).l2 }) ∧
       (∀ i u, last i u → n = 8 ∨ s.homeByte c.space u ≠ none → t.homeByte c.space u = some (val i u)) ∧
       (∀ i u, lineOf i u → (∀ j, ¬ covers j u) → t.homeByte c.space u = s.homeByte c.space u) ∧
       ∀ r u q, s.page r u = some q → (∀ i p, on i = true → s.judge c.space (va i) = .ok p →
         (q.die, q.phys (u / 128 * 128)) ≠ (p.die, p.phys (va i / 128 * 128))) → t.homeByte r u = s.homeByte r u) ∧
     (o = 2 → clean → ∀ i, on i = true → (∀ j, j < i → on j = false) → ∃ t, exec (.vsct d a b p o z) s = .next t ∧
       (∀ m, t.cell m = { s.cell m with l1 := (t.cell m).l1 }) ∧
       (∀ u, covers i u → n = 8 ∨ s.homeByte c.space u ≠ none → t.homeByte c.space u = some (val i u)) ∧
       (∀ j u, lineOf j u → ¬ covers i u → t.homeByte c.space u = s.homeByte c.space u) ∧
       ((∃ j, i < j ∧ on j = true) → t.self = { c with sst := .stalled, wait := .again, charged := true, lastTry := s.now
                                                       vsctDone := tset c.vsctDone c.pc.toNat 1 }) ∧
       ((∀ j, i < j → on j = false) → t.stamp = s.stamp + 1 ∧ t.self = { c.doneAt (c.pc + 4) s.now with
         acqMark := s.stamp + 1, vsctDone := (c.dropLanes c.pc).vsctDone })))

/-- 05 R106, R107, R96, R377: the fences. Each waits, the slot STALLED, while posted operations of its classes are outstanding; traps
with the code and address of the first dropped store it covers, spending every drop it covers (log 35: the model's choice); and
otherwise completes, changing no register. `fence.cell` waits for nothing, and leaves no line of its space dirty (log 73: the
model's choice); `fence.x` leaves no dirty line in the cell's L1. And 05 R108, R104, R129: `flagf` with nothing outstanding posts
one release add of xa to the doubleword at the capability's cursor and counts it in its class; a capability that fails its checks
traps before any wait. -/
def Obligations.Fences : Prop :=
  (∀ s : State,
    let fence (ins : Instr) (v : Cover) : Prop :=
      let r := s.releaseLines s.cur
      (v.pending r.self = true → ∃ t, exec ins s = .next t ∧ t = r.stall .again) ∧
      (v.pending r.self = false → r.self.drops.find? v.covers = none →
        ∃ t, exec ins s = .next t ∧ t = { r with ctxs := t.ctxs, stamp := r.stamp + 1 } ∧
          t.self = { r.self.doneAt (r.self.pc + 4) r.now with acqMark := r.stamp + 1 }) ∧
      (∀ d, v.pending r.self = false → r.self.drops.find? v.covers = some d → r.hasHandler →
        ∃ t, exec ins s = .next t ∧ t.self.pc = (r.self.trapRegs (trapLevel r.self.pl)).tvec ∧
          (t.self.trapRegs (trapLevel r.self.pl)).cause = d.code.zeroExtend 13 ∧
          (t.self.trapRegs (trapLevel r.self.pl)).addr = d.addr ∧
          (t.self.trapRegs (trapLevel r.self.pl)).epc = r.self.pc ∧
          t.self.drops = r.self.drops.filter fun e => !v.covers e)
    fence .fenceDom ⟨fun k => k = 3, true⟩ ∧ fence .fenceDie ⟨fun k => k = 3 || k = 0, true⟩ ∧
    fence .fenceMod ⟨fun k => k ≠ 2, true⟩ ∧ fence .fenceSys ⟨fun _ => true, true⟩ ∧
    (∃ t, exec .fenceCell s = .next t ∧ (∀ r : BitVec 5, t.rx r = s.rx r) ∧ t.self.pc = s.self.pc + 4 ∧ t.packets = s.packets ∧
      (∀ m, (t.cell m).spad = (s.cell m).spad) ∧ (risesFrom 0 (s.cell s.self.cell).l1 = true →
        ∀ p, p ∈ (t.cell s.self.cell).l1 → p.2.sid = s.self.sid → p.2.dirty = 0)) ∧
    (risesFrom 0 (s.cell s.self.cell).l1 = true → (∀ r : State, r = s.l1WriteBackAll s.self.cell (fun _ => true) →
        r.self.drops.find? coverX.covers = none →
        ∃ t, exec .fenceX s = .next t ∧ t.self = r.self.doneAt (r.self.pc + 4) r.now ∧
          ∀ p, p ∈ (t.cell s.self.cell).l1 → p.2.dirty = 0))) ∧
  (∀ (c : BitVec 3) (a : BitVec 5) (s : State),
    let v := s.rc c
    let ea := BitVec.ofNat 64 v.cursor
    s.self.inHandler = false →
    (s.checkCap v 3 ea 8 = none → s.self.opt = false → s.Clear coverAll →
      (∀ r va q, s.capTarget v ea = .home (.mem r va) → s.page r va = some q → s.coreRoom q.core = true) →
      (∀ r va id k, s.capTarget v ea = .home (.mem r va) → (s.cell s.self.cell).l1Line s.self.sid va = some (id, k) →
        k.dirty = 0) →
      ∃ t p, exec (.flagf c a) s = .next t ∧ t.packets = tset s.packets s.fresh p ∧ p.op = .amo 0 1 (s.rx a) 0 ∧
        p.target = s.capTarget v ea ∧ p.posted = true ∧ p.gen = some v.gen ∧ p.cls = classOfId s.self.cell v.id ∧
        t.self = { (s.self.doneAt (s.self.pc + 4) s.now).bumpPst p.cls true with acqMark := t.self.acqMark } ∧
        (∀ r u, t.homeByte r u = s.homeByte r u) ∧ ∀ m, (t.cell m).spad = (s.cell m).spad) ∧
    (∀ code, s.checkCap v 3 ea 8 = some code → s.hasHandler → Traps (.flagf c a) s code ea))

/-- 05 R109-R112: barriers. `bar.arv` gives the phase before it and counts one arrival down; the arrival that leaves rem and bytes at
zero moves the phase on and sets rem to exp; one beyond those expected sets over and is reported. `bar.exp` adds bytes. `bar.wt`
completes past the phase and parks in it; `bar.aw` arrives, sets ap and parks, and a later try with ap set only waits. -/
def Obligations.Barriers : Prop :=
  ∀ (d a b : BitVec 5) (s : State), s.memWf = true →
    let ea := s.rx a
    let l := s.locOf ea
    let ready (store : Bool) : Prop :=
      ea.toNat % 16 = 0 ∧ s.Plain ea 16 store ∧ s.HomeReady l 16 ∧ s.holds = [] ∧ s.SwitchesEmpty
    ∀ rem exp phase ov bytes rest : Nat,
      rem < 2 ^ 32 → exp < 2 ^ 16 → phase < 2 ^ 15 → ov < 2 → bytes < 2 ^ 32 → rest < 2 ^ 32 →
      s.numAt l 8 = some (rem + exp * 2 ^ 32 + phase * 2 ^ 48 + ov * 2 ^ 63) →
      s.numAt (l.plus 8) 8 = some (bytes + rest * 2 ^ 32) →
      let block (t : State) (rem' phase' ov' bytes' : Nat) : Prop :=
        OnlyAt s t l 16 ∧ t.numAt l 8 = some (rem' + exp * 2 ^ 32 + phase' * 2 ^ 48 + ov' * 2 ^ 63) ∧
          t.numAt (l.plus 8) 8 = some (bytes' + rest * 2 ^ 32)
      let arrives (t : State) : Prop :=
        (rem = 0 → bytes = 0 → block t 0 phase 1 0) ∧
        (rem = 0 → bytes ≠ 0 → block t 0 phase 1 bytes) ∧
        (rem = 1 → bytes = 0 → block t exp ((phase + 1) % 2 ^ 15) ov 0) ∧
        (1 ≤ rem → rem ≠ 1 ∨ bytes ≠ 0 → block t (rem - 1) phase ov bytes) ∧
        t.reports = if rem ≠ 0 then s.reports else tset s.reports s.fresh
          { part := s.self.part, d0 := reportHead 0x0F false 0 s.self.cell s.self.slot (dieOfCell s.self.cell) false s.self.tag
            addr := BitVec.ofNat 64 l.addr, info := s.word.zeroExtend 64 }
      (ready true → s.Clear coverAll →
        (∃ t, exec (.barArv d a) s = .next t ∧ AccessDone s t d true (BitVec.ofNat 64 phase) ∧ arrives t) ∧
        (∃ t, exec (.barExp a b) s = .next t ∧ AccessDone s t 0 false 0 ∧
          let sum := bytes + (s.rx b).toNat
          (sum ≤ 0xFFFF_FFFF → block t rem phase ov sum) ∧
          (0xFFFF_FFFF < sum → block t rem phase 1 0xFFFF_FFFF)) ∧
        (s.self.ap = false → d ≠ 0 → ∃ t, exec (.barAw d a) s = .next t ∧ arrives t ∧
          (∀ r : BitVec 5, t.rx r = if r = d then BitVec.ofNat 64 phase else s.rx r) ∧ t.self.ap = true ∧
          t.self.pc = s.self.pc ∧ t.self.sst = .parked ∧ t.self.wait = .phase l phase)) ∧
      (ready false →
        ((s.rx b).toNat % 2 ^ 15 ≠ phase → ∃ t, exec (.barWt a b) s = .next t ∧ AccessDone s t 0 false 0 ∧ OnlyAt s t l 0) ∧
        ((s.rx b).toNat % 2 ^ 15 = phase → ∃ t, exec (.barWt a b) s = .next t ∧
          t.self = { s.self with sst := .parked, wait := .phase l phase, charged := true, lastTry := s.now })) ∧
      (s.self.opt = false → s.HomeReady l 16 → ∀ ph, s.self.ap = true → s.self.wait = .phase l ph →
        (ph ≠ phase → ∃ t, exec (.barAw d a) s = .next t ∧ OnlyAt s t l 0 ∧ t.self.ap = false ∧ t.self.pc = s.self.pc + 4 ∧
          ∀ r : BitVec 5, t.rx r = s.rx r) ∧
        (ph = phase → ∃ t, exec (.barAw d a) s = .next t ∧ OnlyAt s t l 0 ∧ t.self.ap = true ∧ t.self.pc = s.self.pc ∧
          t.self.sst = .parked))

/-- 05 R113, R114; 10 R213, R215, R227: the range operations on the lines of the range [xa, xa + xb), widened to whole lines, of the
context's space id. `wb` leaves the cell's lines of the range clean; `inv` and `wbinv` leave none but those of a range that
another context's lock guards, `inv` counting each dirty one; scope 1 does the same in L2. An empty range has no effect, and one
that begins below partition memory faults XLATE; while the split of the cell's array changes the three wait (log 29: the model's
choice, 01 R25 speaks of local accesses). `pf` completes always, and a line it may fill is filled (log 43: the model's choice). No
register and no scratchpad byte changes. -/
def Obligations.RangeOperations : Prop :=
  ∀ (a b : BitVec 5) (sc : BitVec 1) (s : State),
    let x := (s.rx a).toNat
    let n := (s.rx b).toNat
    let c := s.self.cell
    let within (va : Nat) : Prop := x / 128 * 128 ≤ va ∧ va ≤ (x + n - 1) / 128 * 128
    let keeps (t : State) : Prop := t.self.pc = s.self.pc + 4 ∧ (∀ r : BitVec 5, t.rx r = s.rx r) ∧
      (∀ r : BitVec 4, t.rv r = s.rv r) ∧ (∀ m, (t.cell m).spad = (s.cell m).spad)
    let runs : Prop := n = 0 ∨ (0x1_0000_0000 ≤ x / 128 * 128 ∧ (s.cell c).spx = false)
    let tables : Prop := risesFrom 0 (s.cell c).l1 = true ∧ risesFrom 0 s.dies = true ∧ ∀ d, d ∈ s.dies → risesFrom 0 d.2.l2 = true
    (∃ t, exec (.pf a b sc) s = .next t ∧ keeps t) ∧
    (∀ p, n ≠ 0 → x % 128 + n ≤ 128 → s.page s.self.space (x / 128 * 128) = some p → p.second = false → p.va % 128 = 0 →
      s.HomeTakes s.self.space (x / 128 * 128) →
      (sc = 0 → (s.cell c).spx = false → (s.cell c).l1Room → ∃ t, exec (.pf a b sc) s = .next t ∧
        ((t.cell c).l1Line s.self.sid x).isSome = true) ∧
      (sc = 1 → ∃ t l, exec (.pf a b sc) s = .next t ∧ tfind (t.die p.die).l2 (p.phys (x / 128 * 128)) = some l ∧ l.sid = p.sid ∧
        l.va = x / 128 * 128)) ∧
    (runs → ∃ t, exec (.wb a b sc) s = .next t ∧ keeps t ∧ (n ≠ 0 → tables →
      (∀ p, p ∈ (t.cell c).l1 → p.2.sid = s.self.sid → within p.2.va → p.2.dirty = 0) ∧
      (sc = 1 → ∀ d, d ∈ t.dies → ∀ p, p ∈ d.2.l2 → p.2.sid = s.self.sid → within p.2.va → p.2.dirty = false))) ∧
    (runs → ∃ t, exec (.wbinv a b sc) s = .next t ∧ keeps t ∧ (n ≠ 0 → tables →
      (∀ p, p ∈ (t.cell c).l1 → p.2.sid = s.self.sid → within p.2.va → s.guardedByOther p.2.sid.toNat p.2.va = true) ∧
      (sc = 1 → ∀ d, d ∈ t.dies → ∀ p, p ∈ d.2.l2 → p.2.sid = s.self.sid → within p.2.va →
        s.guardedByOther p.2.sid.toNat p.2.va = true))) ∧
    (runs → ∃ t, exec (.inv a b sc) s = .next t ∧ keeps t ∧ (n ≠ 0 → tables →
      (∀ p, p ∈ (t.cell c).l1 ↔ p ∈ (s.cell c).l1 ∧
        ¬ (p.2.sid = s.self.sid ∧ within p.2.va ∧ s.guardedByOther p.2.sid.toNat p.2.va = false)) ∧
      (sc = 1 → ∀ d, d ∈ t.dies → ∀ p, p ∈ d.2.l2 → p.2.sid = s.self.sid → within p.2.va →
        s.guardedByOther p.2.sid.toNat p.2.va = true) ∧
      (sc = 0 → t.dies = s.dies ∧ ((t.cell c).disc.toNat = min (2 ^ 32 - 1) ((s.cell c).disc.toNat +
        ((s.cell c).l1.filter fun p => p.2.sid = s.self.sid && decide (x / 128 * 128 ≤ p.2.va ∧ p.2.va ≤ (x + n - 1) / 128 * 128)
          && !s.guardedByOther p.2.sid.toNat p.2.va && p.2.dirty != 0).length))))) ∧
    (n = 0 → ∀ ins, ins ∈ [Instr.inv a b sc, .wb a b sc, .wbinv a b sc, .pf a b sc] → ∃ t, exec ins s = .next t ∧
      GoesOn s t (s.self.pc + 4)) ∧
    (n ≠ 0 → 0x1_0000_0000 ≤ x / 128 * 128 → (s.cell c).spx = true →
      Retries (.inv a b sc) s ∧ Retries (.wb a b sc) s ∧ Retries (.wbinv a b sc) s) ∧
    (n ≠ 0 → x / 128 * 128 < 0x1_0000_0000 → s.hasHandler →
      Traps (.inv a b sc) s 0x04 (s.rx a) ∧ Traps (.wb a b sc) s 0x04 (s.rx a) ∧ Traps (.wbinv a b sc) s 0x04 (s.rx a))

/-- 05 R127, R128; 14 R285, R286: the capability registers. `capnar` takes the smallest exponent whose bounds contain the object, and
faults CAPTAG or CAPBND; `capset.cur` clears the tag outside the window; `capset.perm` adds no permission; `capset.mint` needs
level 1 or 2; `capget` gives the decoded fields; `capld` and `capst` move 16 bytes and the tag. -/
def Obligations.CapabilityRegisters : Prop :=
  ∀ (c e : BitVec 3) (d a b : BitVec 5) (s : State),
    let v := s.rc e
    let x := s.rx b
    let gives (ins : Instr) (r : Capa) : Prop := ∃ t, exec ins s = .next t ∧ SlotOnly s t ∧
      t.self = { s.self.doneAt (s.self.pc + 4) s.now with c := t.self.c, badRegs := t.self.badRegs } ∧
      ∀ k : BitVec 3, t.rc k = if k = c then r else s.rc k
    let cur := v.bits.toNat % 2 ^ 48
    let ok (k : Nat) : Prop := -- R286 for exponent k
      let u := 2 ^ k
      let w := cur / 2 ^ (k + 13) * 2 ^ (k + 13)
      let top := (cur + x.toNat + u - 1) / u
      top ≤ w / u + 8192 ∧ top - cur / u ≤ 8191 ∧ cur / u - w / u + (top - cur / u) ≤ 8192
    let bounds (k : Nat) : Nat × Nat := (cur / 2 ^ k * 2 ^ k, (cur + x.toNat + 2 ^ k - 1) / 2 ^ k * 2 ^ k)
    (v.tag = false → s.hasHandler → Traps (.capnar c e b) s 0x05 0) ∧
    (v.tag = true → (∀ k, k < 32 → ¬ ok k) → s.hasHandler → Traps (.capnar c e b) s 0x06 0) ∧
    (∀ k, v.tag = true → k < 32 → ok k → (∀ j, j < k → ¬ ok j) →
      (v.base ≤ (bounds k).1 ∧ (bounds k).2 ≤ v.base + v.len →
        ∃ r : Capa, gives (.capnar c e b) r ∧ r.tag = true ∧ r.base = (bounds k).1 ∧ r.base + r.len = (bounds k).2 ∧ r.ex = k ∧
          r.cursor = v.cursor ∧ r.id = v.id ∧ r.gen = v.gen ∧ r.perm = v.perm ∧ r.kind = v.kind) ∧
      (¬ (v.base ≤ (bounds k).1 ∧ (bounds k).2 ≤ v.base + v.len) → s.hasHandler → Traps (.capnar c e b) s 0x06 0)) ∧
    (∃ r : Capa, gives (.capsetCur c e b) r ∧ r.cursor = x.toNat % 2 ^ 48 ∧ r.bits >>> 48 = v.bits >>> 48 ∧
      (r.tag = true ↔ v.tag = true ∧ window (x.toNat % 2 ^ 48) v.ex = window cur v.ex)) ∧
    (∃ r : Capa, gives (.capsetPerm c e b) r ∧ r.tag = v.tag ∧ r.perm = v.perm &&& x.truncate 8 ∧ r.kind = v.kind ∧
      r.bits.truncate 112 = v.bits.truncate 112) ∧
    (s.self.pl ≠ 0 → gives (.capsetMint c a b) { bits := x ++ s.rx a, tag := true }) ∧
    (s.self.pl = 0 → s.hasHandler → Traps (.capsetMint c a b) s 0x02 0) ∧
    (let f (k : BitVec 3) (n : Nat) : Prop := GivesX (.capget d e k) s d (BitVec.ofNat 64 n)
     f 0 cur ∧ f 1 v.base ∧ f 2 v.len ∧ f 3 v.perm.toNat ∧ f 4 v.kind.toNat ∧ f 5 v.gen.toNat ∧ f 6 v.id ∧ f 7 v.tag.toNat) ∧
    (let ea := s.rx a
     let l := s.locOf ea
     ea.toNat % 16 = 0 → s.memWf = true → s.HomeReady l 16 → s.fabricWaits ea 16 false true = .ok () →
      (s.Plain ea 16 false → (region ea = .mem → s.self.migrated = true ∨ ((s.cell s.self.cell).l1Line s.self.sid ea.toNat = none ∧
          (s.cell s.self.cell).l1Room)) →
        ∀ r, s.capAt l = some r → ∃ t, exec (.capld c a) s = .next t ∧ (∀ k : BitVec 3, t.rc k = if k = c then r else s.rc k) ∧
          t.self.pc = s.self.pc + 4 ∧ OnlyAt s t l 0 ∧ ∀ k : BitVec 5, t.rx k = s.rx k) ∧
      (s.Plain ea 16 true → s.Clear coverAll → ∃ t, exec (.capst e a) s = .next t ∧ AccessDone s t 0 false 0 ∧ OnlyAt s t l 16 ∧
        t.capAt l = some v ∧ ∀ k : BitVec 3, t.rc k = s.rc k))

/-- 05 R129, R130; 14 R287, R288: accesses through a capability, outside optimistic mode. The checks trap in their order: tag,
permission, bounds, alignment, egress. A checked request to a home of the module is judged there: `rld` gives the sign-extended
value, a strong `rst` writes it, `ramo` updates the word as `amo` does, a take or give acts on a full or empty word or parks; weak
and release `rst` and the no-fetch `ramo` leave as posted requests, counted by the capability's id. -/
def Obligations.RemoteAccesses : Prop :=
  ∀ (d b : BitVec 5) (c : BitVec 3) (z o w t : BitVec 2) (nf : BitVec 1) (i : BitVec 12) (s : State),
    o ≠ 3 → t ≠ 3 → s.self.opt = false → s.self.member = none → s.memWf = true →
    let v := s.rc c
    let n := 2 ^ z.toNat
    let m := if t = 1 then 8 else 4
    let ea : Word := BitVec.ofNat 64 v.cursor + i.signExtend 64 * BitVec.ofNat 64 n
    let ca : Word := BitVec.ofNat 64 v.cursor
    let quiet (l : Loc) (k : Nat) : Prop := s.HomeReady l k ∧ s.holds = [] ∧ (w = 0 ∨ s.self.pst (w.toNat - 1) = 0) ∧
      s.postedOn l 8 = false ∧ s.SwitchesEmpty ∧ s.Clear coverAll
    let judged (l : Loc) : Prop := s.judgePacket { gen := some v.gen, capKind := v.kind, capId := v.id } l = none
    let fails (ins : Instr) (perm : Nat) (e : Word) (k : Nat) : Prop := s.hasHandler →
      (v.tag = false → Traps ins s 0x05 e) ∧
      (v.tag = true → v.perm.getLsbD perm = false → Traps ins s 0x07 e) ∧
      (v.tag = true → v.perm.getLsbD perm = true → ¬ (v.base ≤ e.toNat ∧ e.toNat + k ≤ v.base + v.len) → Traps ins s 0x06 e) ∧
      (v.tag = true → v.perm.getLsbD perm = true → v.base ≤ e.toNat → e.toNat + k ≤ v.base + v.len → e.toNat % k ≠ 0 →
        Traps ins s 0x03 e) ∧
      (v.tag = true → v.perm.getLsbD perm = true → v.base ≤ e.toNat → e.toNat + k ≤ v.base + v.len → e.toNat % k = 0 →
        ∀ code, s.checkEgress v e k = some code → Traps ins s code e)
    let posts (ins : Instr) (e : Word) (op : PktOp) : Prop :=
      (∀ r va q, s.capTarget v e = .home (.mem r va) → s.page r va = some q → s.coreRoom q.core = true) →
      (∀ r va id k, s.capTarget v e = .home (.mem r va) → (s.cell s.self.cell).l1Line s.self.sid va = some (id, k) →
        k.dirty = 0) →
      (w = 0 ∨ s.self.pst (w.toNat - 1) = 0) → (o ≠ 0 → s.Clear coverAll) →
      ∃ u p, exec ins s = .next u ∧ u.packets = tset s.packets s.fresh p ∧ p.op = op ∧ p.target = s.capTarget v e ∧
        p.posted = true ∧ p.gen = some v.gen ∧ p.cls = classOfId s.self.cell v.id ∧
        u.self = (s.self.doneAt (s.self.pc + 4) s.now).bumpPst p.cls true
    (fails (.rld d c z o w i) 0 ea n ∧ fails (.rst d c z o w i) 1 ea n ∧ fails (.ramoAdd d c b o nf t) 3 ca m ∧
      fails (.ramoMin d c b o nf t) 3 ca m ∧ fails (.ramoMax d c b o nf t) 3 ca m ∧ fails (.ramoAnd d c b o nf t) 3 ca m ∧
      fails (.ramoOr d c b o nf t) 3 ca m ∧ fails (.ramoXor d c b o nf t) 3 ca m ∧ fails (.ramoSwp d c b o t) 3 ca m ∧
      fails (.ramoCas d c b o t) 3 ca m) ∧
    (s.checkCap v 0 ea n = none → ∀ l x, s.capTarget v ea = .home l → quiet l n → judged l → s.numAt l n = some x →
      ∃ u, exec (.rld d c z o w i) s = .next u ∧ AccessDone s u d true ((BitVec.ofNat (8 * n) x).signExtend 64) ∧ OnlyAt s u l 0) ∧
    (z = 3 → ∀ l, s.capTarget v ea = .home l → quiet l 8 → judged l →
      let parks (ins : Instr) (f : Bool) : Prop := (s.waiters.all fun p => p.1 ≠ s.cur) → s.listFull l = false →
        ∃ u, exec ins s = .next u ∧ u.waiters = s.waiters ++ [(s.cur, l)] ∧ OnlyAt s u l 0 ∧
          u.self = { s.self with sst := .parked, wait := .fe l f, charged := true, lastTry := s.now }
      (s.checkCap v 0 ea n = none →
        (∀ x, s.fullAt l = some true → s.numAt l 8 = some x → s.ahead l (.fe l true) = false →
          ∃ u, exec (.rld d c z 3 w i) s = .next u ∧ AccessDone s u d true (BitVec.ofNat 64 x) ∧ OnlyAt s u l 0 ∧
            u.fullAt l = some false) ∧
        (s.fullAt l = some false → parks (.rld d c z 3 w i) true)) ∧
      (s.checkCap v 1 ea n = none →
        (s.fullAt l = some false → s.ahead l (.fe l false) = false →
          ∃ u, exec (.rst d c z 3 w i) s = .next u ∧ AccessDone s u d false 0 ∧ OnlyAt s u l 8 ∧ u.fullAt l = some true ∧
            u.numAt l 8 = some (s.rx d).toNat) ∧
        (s.fullAt l = some true → parks (.rst d c z 3 w i) false))) ∧
    (s.checkCap v 1 ea n = none →
      (o ≠ 2 → posts (.rst d c z o w i) ea (.store (leBytes (s.rx d).toNat n))) ∧
      (o = 2 → ∀ l, s.capTarget v ea = .home l → quiet l n → judged l → s.numAt l n ≠ none →
        ∃ u, exec (.rst d c z o w i) s = .next u ∧ AccessDone s u 0 false 0 ∧ OnlyAt s u l n ∧
          u.numAt l n = some ((s.rx d).toNat % 2 ^ (8 * n)))) ∧
    (s.checkCap v 3 ca m = none →
      let x := s.rx b
      let fetch (op : BitVec 3) (ins : Instr) : Prop := ∀ l old, w = 0 → s.capTarget v ca = .home l → quiet l m → judged l →
        s.numAt l m = some old → ∃ u, exec ins s = .next u ∧
          AccessDone s u d true (if t = 0 then (BitVec.ofNat 32 old).signExtend 64 else BitVec.ofNat 64 old) ∧ OnlyAt s u l m ∧
          u.numAt l m = some (amoNew op t old x.toNat (s.rx d).toNat).1 ∧
          u.self.fflags = s.self.fflags ||| (amoNew op t old x.toNat (s.rx d).toNat).2
      let both (op : BitVec 3) (ins : BitVec 1 → Instr) : Prop :=
        fetch op (ins 0) ∧ (w = 0 → posts (ins 1) ca (.amo op t x (s.rx d)))
      both 0 (fun k => .ramoAdd d c b o k t) ∧ both 1 (fun k => .ramoMin d c b o k t) ∧ both 2 (fun k => .ramoMax d c b o k t) ∧
      (t ≠ 2 → both 3 (fun k => .ramoAnd d c b o k t) ∧ both 4 (fun k => .ramoOr d c b o k t) ∧
        both 5 (fun k => .ramoXor d c b o k t) ∧ fetch 6 (.ramoSwp d c b o t) ∧ fetch 7 (.ramoCas d c b o t)))

/-- 05 R131, R132: `go` answers 2 in optimistic mode and 1 where no guest slot is free, faults XLATE outside partition memory, and
otherwise moves the thread to the pantry core beside the address with 0 in xd. `home`, and the return at an instruction that needs
the cell, give up the guest slot; the registers and the pc are kept. R131 is silent on a `go` to an address that no page backs,
which faults XLATE, on a guest's `go`, which moves it on (log 67), and on addresses from 2^48 on, which lie outside partition
memory (log 8): the model's choices. -/
def Obligations.ThreadMigration : Prop :=
  ∀ (d a : BitVec 5) (x : Nat) (s : State),
    let ea := s.rx a
    let c := s.self
    let gone (t : State) (y : Nat) : Prop := ∀ p, p ∈ t.dies → ∀ g, g ∈ p.2.guests → g.2 ≠ y
    (c.opt = true → GivesX (.go d a) s d (BitVec.ofNat 64 (2 ^ 63 + 2))) ∧
    (c.opt = false → ea.toNat < 0x1_0000_0000 ∨ 2 ^ 48 ≤ ea.toNat → s.hasHandler → Traps (.go d a) s 0x04 ea) ∧
    (∀ q, c.opt = false → 0x1_0000_0000 ≤ ea.toNat → ea.toNat < 2 ^ 48 → s.page c.space ea.toNat = some q →
      (32 ≤ s.guestsOf q.core → GivesX (.go d a) s d (BitVec.ofNat 64 (2 ^ 63 + 1))) ∧
      (s.guestsOf q.core < 32 → c.migrated = false →
        ∃ t, exec (.go d a) s = .next t ∧ t = { s with ctxs := t.ctxs, dies := t.dies } ∧
          t.self = { c.doneAt (c.pc + 4) s.now with x := t.self.x, badRegs := t.self.badRegs, place := .pantry q.core } ∧
          (∀ r : BitVec 5, t.rx r = if r = d ∧ r ≠ 0 then 0 else s.rx r) ∧
          ∀ m, t.die m = if m = q.core / 16 then { s.die m with guests := (s.die m).guests ++ [(q.core, s.cur)] } else s.die m) ∧
      (s.guestsOf q.core < 32 → c.migrated = true →
        ∃ t, exec (.go d a) s = .next t ∧ t.self.place = .pantry q.core ∧ t.self.pc = c.pc + 4 ∧
          (∀ r : BitVec 5, t.rx r = if r = d ∧ r ≠ 0 then 0 else s.rx r) ∧
          ∀ p, p ∈ t.dies → ∀ g, g ∈ p.2.guests → g.2 = s.cur → g = (q.core, s.cur))) ∧
    (c.opt = false → 0x1_0000_0000 ≤ ea.toNat → ea.toNat < 2 ^ 48 → s.page c.space ea.toNat = none → s.hasHandler →
      Traps (.go d a) s 0x04 ea) ∧
    (c.migrated = false → ∃ t, exec .home s = .next t ∧ GoesOn s t (c.pc + 4)) ∧
    (c.migrated = true → ∃ t, exec .home s = .next t ∧ gone t s.cur ∧ t.self.place = .slot ∧ t.self.pc = c.pc + 4 ∧
      ((s.cell c.cell).gstore = [] → t.cells = s.cells) ∧ ∀ r : BitVec 5, t.rx r = s.rx r) ∧
    (∀ k, tfind s.ctxs x = some k → k.migrated = true → s.returns x = true →
      ∃ t, exec (.migrationReturn x) s = .next t ∧ gone t x ∧ ((s.cell k.cell).gstore = [] → t.cells = s.cells) ∧
        tfind t.ctxs x = some { k with place := .slot, readySince := s.cyc (dieOfCell k.cell) })

/-- 07 R155-R173: the matrix, converter and engine register instructions as their checks are met and the queue has room. Each queues
its operation behind those of the cell, with the values of the engine registers as they stand, and goes on; checks in the slot
wait their cycles first; a queue without room, or an operation that another slot issued earlier and that still waits, leaves the
slot STALLED; a missing tile lease traps LAPSED, and a load of a B tile that fails its trailer check gives K back. That the cycles
of `qchk.w` count the trailer (log 66), that `mma` checks its trailer on the bytes as they stand at the end of the check (log 75),
and the wait behind another slot's earlier operation (log 74) are the model's choices. -/
def Obligations.EngineInstructions : Prop :=
  ∀ (a b d e : BitVec 5) (tile : BitVec 2) (s : State),
    let c := s.self
    let k := s.cell c.cell
    let m := c.me
    let v := s.rx a
    let off (x : Word) : Nat := x.toNat - 0x0100_0000
    let range (x : Word) (n al : Nat) (w : Bool) : Prop :=
      0x0100_0000 ≤ x.toNat ∧ off x < 0x10_0000 ∧ x.toNat % al = 0 ∧ off x + n ≤ k.spadSize ∧
        s.holdsRange c.entry c.cell (off x) n = true ∧ (w = true → s.inBook c.cell (off x) n = false)
    let pa := off v
    let pb := off (s.rx b)
    let tl : Prop := s.holdsTile c.entry c.cell tile.toNat = true
    let some_tile : Prop := ∃ j, j < 4 ∧ s.holdsTile c.entry c.cell j = true
    let queues (ins : Instr) (P : Prop) (conv : Bool) (op : EngOp) (res : Option Word) : Prop :=
      (P → k.spx = false → k.canAccept op.kind = true → s.askedBefore conv = false → conv = true ∨ s.loadAhead = false →
        ∃ t, exec ins s = .next t ∧ t = { s with ctxs := t.ctxs, cells := t.cells } ∧
          (∀ x, x ≠ s.cur → tfind t.ctxs x = tfind s.ctxs x) ∧
          t.self = { c.doneAt (c.pc + 4) s.now with x := t.self.x, badRegs := t.self.badRegs } ∧
          (∀ r : BitVec 5, t.rx r = if r = d ∧ r ≠ 0 then res.getD (s.rx r) else s.rx r) ∧
          (let o := { op with ctx := s.cur, entry := c.entry, part := c.part, num := k.accNum }
           ∀ i, t.cell i = if i = c.cell then { k with accNum := k.accNum + 1, mq := if conv then k.mq else k.mq ++ [o]
                                                       cq := if conv then k.cq ++ [o] else k.cq } else s.cell i)) ∧
      (P → s.accepts op.kind = false → ∃ t, exec ins s = .next t ∧
        t = s.stall (match c.wait with | .load n => .load n | _ => .again))
    -- engine registers
    (e.toNat < 8 → ∃ t, exec (.mset a e) s = .next t ∧ SlotOnly s t ∧
      t.self = { c.doneAt (c.pc + 4) s.now with me := t.self.me, badRegs := t.self.badRegs } ∧
      (∀ r, r ∈ t.self.badRegs ↔ r ∈ c.badRegs ∧ r ≠ 64 + e.toNat) ∧
      ∀ i, i < 8 → t.engineReg i =
        if i ≠ e.toNat ∨ i = 7 then s.engineReg i
        else
          let n := v.toNat
          let old := (s.engineReg i).toNat
          let pc := if n % 8 = 7 then old % 8 else n % 8
          BitVec.ofNat 64 (if i ≤ 1 then pc else if i = 2 then n % 4 else if i = 3 ∨ i = 5 then n % 2 ^ 20 else if i = 6 then n % 2 ^ 10
            else pc + n / 8 % 2 * 8 + (if n / 16 % 4 = 3 then old / 16 % 4 else n / 16 % 4) * 16)) ∧
    (e.toNat < 7 → GivesX (.mget e d) s d (s.engineReg e.toNat)) ∧
    (GivesX (.mget 7 d) s d (BitVec.ofNat 64 ((match k.latch.kst with | .free => 0 | .filling => 1 | .loaded => 2)
      + (if k.latch.send.isSome then 4 else 0) + k.mq.length * 8))) ∧
    -- the matrix engine
    queues (.mma a b tile)
      (tl ∧ range v 2048 64 false ∧ range (s.rx b) (if m.chk.getLsbD 1 then 528 else 512) 16 false ∧
        (m.chk.getLsbD 1 = true → (∃ n, c.wait = .load n ∧ n ≤ s.now) ∧
          trailerOk k.spad.bytes pa pb 2048 1 (8 - m.kpa.toNat) = true)) false
      { kind := .mma tile.toNat pa pb (8 - m.kpa.toNat) (8 - m.kpb.toNat), reads := [(pa, 2048), (pb, 512)]
        cycles := if 6 ≤ m.kpa.toNat ∧ 6 ≤ m.kpb.toNat then 16 else 32 * ((8 - m.kpa.toNat + 3) / 4) * ((8 - m.kpb.toNat + 3) / 4) } none ∧
    (tl → range v 2048 64 false → range (s.rx b) 528 16 false → m.chk.getLsbD 1 = true →
      ((∀ n, c.wait ≠ .load n) → ∃ t, exec (.mma a b tile) s = .next t ∧ t = s.stall (.load (s.now + 41))) ∧
      (∀ n, c.wait = .load n → n ≤ s.now → trailerOk k.spad.bytes pa pb 2048 1 (8 - m.kpa.toNat) = false → s.hasHandler →
        Traps (.mma a b tile) s 0x0A (s.rx b))) ∧
    queues (.mzero tile) tl false { kind := .mzero tile.toNat, cycles := 8 } none ∧
    queues (.mlda a tile) (tl ∧ range v 0x8000 64 false) false
      { kind := .mlda tile.toNat pa, reads := [(pa, 0x8000)], cycles := 512 } none ∧
    queues (.msta a tile) (tl ∧ range v 0x8000 64 true) false
      { kind := .msta tile.toNat pa, writes := [(pa, 0x8000)], cycles := 512 } none ∧
    (¬ tl → s.hasHandler → ∀ ins, ins ∈ [Instr.mma a b tile, .mzero tile, .mlda a tile, .msta a tile] → Traps ins s 0x08 0) ∧
    queues .mrot some_tile false { kind := .swapRot, cycles := 80 } none ∧
    -- the load of a B tile: begun, then over
    (some_tile → range v 4096 64 false → range (s.rx b) (if m.chk.getLsbD 0 then 1040 else 1024) 16 false →
      let cyc := if m.chk.getLsbD 0 then 81 else 80
      (k.spx = false → s.canLoad c.cell = true → s.boardStalls c.cell c.sid v.toNat (v.toNat + 4096) false = false →
        s.boardStalls c.cell c.sid (s.rx b).toNat ((s.rx b).toNat + 1024) false = false →
        ∃ t, exec (.mldb a b) s = .next t ∧ t.self = { c with sst := .stalled, wait := .load (s.now + cyc), charged := true, lastTry := s.now } ∧
          ∀ i, t.cell i = if i = c.cell then { k with latch := { k.latch with kst := .filling, loadBy := some s.cur } } else s.cell i) ∧
      (∀ n, k.latch.loadBy = some s.cur → c.wait = .load n → n ≤ s.now → k.spx = false → k.canAccept .swapLoad = true →
        (m.chk.getLsbD 0 = true → trailerOk k.spad.bytes pa pb 4096 2 (8 - m.kpb.toNat) = true) → s.memWf = true →
        k.spad.bad pa 4096 = false → k.spad.bad pb 1024 = false →
        ∃ t, exec (.mldb a b) s = .next t ∧ t.self = c.doneAt (c.pc + 4) s.now ∧
          let l := (t.cell c.cell).latch
          l.kst = .loaded ∧ l.loadBy = none ∧ l.f = k.latch.f ∧
          (∀ i, mget l.k i = if i < 4096 then mget k.spad.bytes (pa + i) else if i < 5120 then mget k.spad.bytes (pb + (i - 4096)) else 0) ∧
          (t.cell c.cell).mq = k.mq ++ [{ kind := .swapLoad, ctx := s.cur, entry := c.entry, part := c.part, num := k.accNum
                                          reads := [(pa, 4096), (pb, 1024)], cycles := cyc, endAt := some (s.now + 1) }]) ∧
      (∀ n, k.latch.loadBy = some s.cur → c.wait = .load n → n ≤ s.now → m.chk.getLsbD 0 = true →
        trailerOk k.spad.bytes pa pb 4096 2 (8 - m.kpb.toNat) = false → s.hasHandler →
        ∃ t, exec (.mldb a b) s = .next t ∧ Trapped (s.freeLatch c.cell) t 0x0A c.pc (s.rx b) ∧
          (t.cell c.cell).latch.kst = .free)) ∧
    -- the converter
    (let n := m.elements
     let q := m.qsc.toNat
     (range v (4 * n) 64 false → range (s.rx b) n 64 true → range (BitVec.ofNat 64 (0x0100_0000 + q)) (n / 4 + 16) 16 true →
      (overlaps pa (4 * n) pb n = true ∨ overlaps pa (4 * n) q (n / 4 + 16) = true → GivesX (.qcvt a b d) s d (BitVec.ofNat 64 (2 ^ 63 + 1))) ∧
      queues (.qcvt a b d) (overlaps pa (4 * n) pb n = false ∧ overlaps pa (4 * n) q (n / 4 + 16) = false) true
        { kind := .qcvt pa pb q n (8 - m.qcf.toNat % 8) (m.qcf.getLsbD 3) (m.qcf.toNat / 16), reads := [(pa, 4 * n)]
          writes := [(pb, n), (q, n / 4 + 16)], cycles := n / 16 } (some 0)) ∧
     queues (.qchkW a b) (range v n 64 false ∧ range (s.rx b) (n / 4 + 16) 16 true) true
      { kind := .qchkw pa pb n (m.qcf.toNat / 16), reads := [(pa, n)], writes := [(pb, n / 4 + 16)], cycles := (n + n / 4 + 79) / 64 } none ∧
     (∀ g, range v n 64 false → range (s.rx b) (n / 4 + 16) 16 false → k.spx = false →
      s.boardStalls c.cell c.sid v.toNat (v.toNat + n) false = false →
      s.boardStalls c.cell c.sid (s.rx b).toNat ((s.rx b).toNat + n / 4 + 16) false = false →
      c.wait = .load g → g ≤ s.now → k.spad.bad pa n = false → k.spad.bad pb (n / 4 + 16) = false →
      ∃ t, exec (.qchk a b d) s = .next t ∧ t.cells = s.cells ∧ t.self.pc = c.pc + 4 ∧
        let tr := pb + n / 4
        let M := k.spad.bytes
        ∀ r : BitVec 5, t.rx r = if r = d ∧ r ≠ 0 then BitVec.ofNat 64
          ((if leNat (mgetBytes M (tr + 4) 4) = (tensorCrc M pa pb n).toNat then 0 else 1)
            + (if (mget M (tr + 8)).toNat = m.qcf.toNat / 16 then 0 else 2)
            + (if 2 ≤ (mget M (tr + 1)).toNat ∧ (mget M (tr + 1)).toNat ≤ 8 then 0 else 4)) else s.rx r) ∧
     (range v 16 16 false → (∀ p, p ∈ s.cells → ∀ o, o ∈ p.2.cq → o.ctx ≠ s.cur) → k.spx = false →
      s.boardStalls c.cell c.sid v.toNat (v.toNat + 16) false = false → k.spad.bad pa 8 = false →
      GivesX (.qstat a d) s d (BitVec.ofNat 64 (leNat (mgetBytes k.spad.bytes pa 8)))))

/-- 07 R158, R159, R163, R167-R169, R178; 02 R42; 12 R256: engine operations as they run. The head of a queue starts when nothing
earlier writes its ranges and ends after its cycles: an `mma` adds to each element, in the fixed order, the eight block terms of
the A tile and F; `mzero`, `mlda` and `msta` clear, load and store the tile. A matrix command joins the queue, waits while it is
full, or is refused with a report; a send fills the successor's K, its end leaves K LOADED, and a swap moves K's tile into F. That
an operation computes from the scratchpad, the tile and F as they stand at its end is the model's choice (log 51; R5 and R254
leave it open for each doubleword). -/
def Obligations.EngineOperations : Prop :=
  ∀ (n msg : Nat) (conv : Bool) (s : State),
    let k := s.cell n
    let now := s.cyc (dieOfCell n)
    let frame (t : State) : Prop := t = { s with ctxs := t.ctxs, cells := t.cells, dies := t.dies }
    -- start
    (∀ o, (if conv then k.cq.head? else k.mq.head?) = some o → o.endAt = none → o.kind ≠ .swapLoad → o.kind ≠ .swapRot →
      s.mustWait n o.num (o.reads ++ o.writes) = false →
      ∃ t, exec (.engineOpStart n conv) s = .next t ∧ frame t ∧ t.ctxs = s.ctxs ∧
        ∀ i, t.cell i = if i ≠ n then s.cell i else
          if conv then { k with cq := { o with endAt := some (now + o.cycles) } :: k.cq.tail }
          else { k with mq := { o with endAt := some (now + o.cycles) } :: k.mq.tail }) ∧
    -- the end of a matrix operation
    (∀ o q z, conv = false → k.mq = o :: q → o.endAt = some z → z ≤ now → o.command = none →
      let el (c : Cell) (tl i j : Nat) : Nat := (tileWord c.tiles tl (i * 128 + j)).toNat
      let done (P : Cell → Prop) : Prop := ∃ t, exec (.engineOpRetire n conv) s = .next t ∧ frame t ∧ (t.cell n).mq = q ∧
        (t.cell n).latch = k.latch ∧ (∀ i, i ≠ n → t.cell i = s.cell i) ∧ P (t.cell n)
      let others (c : Cell) (tl : Nat) : Prop := ∀ u i j, u ≠ tl → i < 64 → j < 128 → el c u i j = el k u i j
      (∀ tl A S ka kb, o.kind = .mma tl A S ka kb → tl < 4 → risesFrom 0 k.tiles = true → k.latch.fBad = false → k.spad.bad A 2048 = false →
        k.spad.bad S 512 = false → k.tileBad tl = false →
        let E (i t : Nat) : Nat := (mget k.spad.bytes (S + i * 8 + t)).toNat
        let F (j t : Nat) : Nat := (mget k.latch.f (4096 + j * 8 + t)).toNat
        let dot (i j t : Nat) : Int := ((List.range 4).map fun r =>
          nestedGet k.spad.bytes A (i * 32 + 4 * t + r) ka * nestedGet k.latch.f 0 (j * 32 + 4 * t + r) kb).sum
        let blk (i j t : Nat) : Nat := if E i t = 255 ∨ F j t = 255 then 0x7FC0_0000 else if E i t = 0 ∨ F j t = 0 then 0
          else (rne32 (dot i j t) ((E i t : Int) + F j t - 252 - ka - kb)).1
        let add (x y : Nat) : Nat := (add32 x y).1
        done fun c => c.spad = k.spad ∧ others c tl ∧ ∀ i j, i < 64 → j < 128 → el c tl i j =
          add (el k tl i j) (add (add (add (blk i j 0) (blk i j 1)) (add (blk i j 2) (blk i j 3)))
            (add (add (blk i j 4) (blk i j 5)) (add (blk i j 6) (blk i j 7))))) ∧
      (∀ tl, o.kind = .mzero tl → risesFrom 0 k.tiles = true → done fun c => c.spad = k.spad ∧ others c tl ∧
        ∀ i j, i < 64 → j < 128 → el c tl i j = 0) ∧
      (∀ tl A, o.kind = .mlda tl A → risesFrom 0 k.tiles = true → k.spad.bad A 0x8000 = false →
        done fun c => c.spad = k.spad ∧ others c tl ∧ ∀ i j, i < 64 → j < 128 →
          el c tl i j = leNat (mgetBytes k.spad.bytes (A + (i * 128 + j) * 4) 4)) ∧
      (∀ tl A, o.kind = .msta tl A → s.memWf = true →
        done fun c => c.tiles = k.tiles ∧
          (∀ i j, i < 64 → j < 128 → leNat (mgetBytes c.spad.bytes (A + (i * 128 + j) * 4) 4) = el k tl i j) ∧
          ∀ b, b < A ∨ A + 0x8000 ≤ b → mget c.spad.bytes b = mget k.spad.bytes b)) ∧
    -- a matrix command
    (∀ f cap cmd pop, tfind s.flights msg = some f → f.cap = some cap →
      s.overtakes msg f = false → s.checkCommand f.cell f.by_.part f.msg.d1 cap = .ok (cmd, pop) →
      let kind : EngKind := if cmd.op = 0 then .mma cmd.tile cmd.aoff cmd.soff cmd.ka cmd.kb else .mzero cmd.tile
      ((s.cell f.cell).canAccept kind = true → ∃ t o, exec (.matrixCommand msg) s = .next t ∧ t.flights = tdel s.flights msg ∧
        (t.cell f.cell).mq = (s.cell f.cell).mq ++ [o] ∧ o.kind = kind ∧ o.ctx = f.ctx ∧ o.entry = f.entry ∧ o.part = f.by_.part ∧
        o.local_ = false ∧ o.num = (s.cell f.cell).accNum ∧ t.ctxs = s.ctxs) ∧
      ((s.cell f.cell).canAccept kind = false → ∃ t, exec (.matrixCommand msg) s = .next t ∧ t.cells = s.cells ∧
        tfind t.flights msg = some { f with held := true })) ∧
    (∀ f cap code, tfind s.flights msg = some f → f.cap = some cap → s.overtakes msg f = false →
      s.checkCommand f.cell f.by_.part f.msg.d1 cap = .error code →
      ∃ t, exec (.matrixCommand msg) s = .next t ∧ t.flights = tdel s.flights msg ∧ (∀ i, (t.cell i).mq = (s.cell i).mq) ∧
        tfind t.reports s.fresh = some
          { part := f.by_.part, d0 := reportHead code false 2 f.cell 0 (dieOfCell f.cell) false f.by_.tag, addr := 0, info := f.msg.d1 }) ∧
    -- the ring latch
    (let nx := n / 8 * 8 + (n + 1) % 8
     (∀ o, firstUnsent k.mq = some o → k.latch.send = none → k.latch.loadBy = none → s.anyTile nx = true →
        (s.cell nx).latch.kst = .free →
      ∃ t, exec (.mrotSendBegin n) s = .next t ∧ frame t ∧ (t.cell n).latch.send = some { dest := nx, endAt := now + 80 } ∧
        (t.cell nx).latch.kst = .filling ∧ (t.cell nx).latch.k = k.latch.f ∧ (t.cell nx).latch.kBad = k.latch.fBad ∧
        (t.cell n).latch.f = k.latch.f ∧ (t.cell n).mq = k.mq) ∧
     (∀ d z, k.latch.send = some { dest := d, endAt := z } → z ≤ now → (s.cell d).latch.kst = .filling → d ≠ n →
      ∃ t, exec (.latchTransferEnd n) s = .next t ∧ frame t ∧ (t.cell n).latch.send = none ∧ (t.cell d).latch.kst = .loaded ∧
        (t.cell d).latch.k = (s.cell d).latch.k) ∧
     (∀ o q, k.mq = o :: q → k.latch.kst = .loaded →
        (o.kind = .swapLoad ∧ (∀ z, o.endAt = some z → z ≤ now)) ∨ (o.kind = .swapRot ∧ o.sent = true) →
      ∃ t, exec (.latchSwap n) s = .next t ∧ frame t ∧ t.ctxs = s.ctxs ∧
        t.cell n = { k with mq := q, latch := { k.latch with f := k.latch.k, fBad := k.latch.kBad, k := [], kBad := false, kst := .free } }))

/-- 07 R175, R176, R179: the copy instructions. A descriptor outside view 0 faults XLATE and a misaligned one ALIGN; a malformed
descriptor answers status 1 and leaves the mailbox alone; a good one waits while the mailbox is full, and then fills it, with 0 in
xd. For a `cpy` named by no capability the rows of both sides must lie in partition memory, or in the leased scratchpad and
(destination) outside every prompt book; otherwise the fault is XLATE or LAPSED. `cpq` gives the full bits, the running bits and
the context's count of copies. -/
def Obligations.CopyRequests : Prop :=
  ∀ (m : BitVec 3) (a b d : BitVec 5) (s : State),
    let ea := s.rx a
    let c := s.self
    let k := s.cell c.cell
    let bytes := k.spad.read (rawOff ea) 64
    let q (n : Nat) : Nat := leNat ((bytes.drop (8 * n)).take 8)
    let len := q 2 % 2 ^ 32
    let rows := q 2 / 2 ^ 32
    let elem := if q 6 / 2 ^ 10 % 4 = 1 then 8 else 4
    let kinds : List (Nat × Instr) := [(0, .cpy m a b d), (1, .cpg m a b d), (2, .cps m a b d), (3, .cpr m a b d)]
    let bad (kind : Nat) : Prop := q 7 ≠ 0 ∨ 2 ^ 13 ≤ q 6 ∨ len = 0 ∨ rows = 0 ∨ 2 ^ 20 < rows ∨ 2 ^ 32 < len * rows ∨
      q 6 / 2 ^ 8 % 4 = 3 ∨ q 6 / 2 ^ 10 % 4 = 3 ∨ (kind = 3 ∧ ∃ v, v ∈ [q 0, q 1, len, q 3, q 4] ∧ v % elem ≠ 0)
    let leased (kind : Nat) : Prop := ∀ p : Word, (kind = 1 ∧ p.toNat = q 3) ∨ (kind = 2 ∧ p.toNat = q 4) → arrayInView p rows = true →
      s.holdsRange c.entry c.cell (rawOff p) (4 * rows) = true
    let placed : Prop := inView0 ea = true ∧ ea.toNat % 64 = 0 ∧ rawOff ea + 64 ≤ k.spadSize ∧
      s.holdsRange c.entry c.cell (rawOff ea) 64 = true ∧ s.localWaits ea 64 false = .ok () ∧ k.spad.bad (rawOff ea) 64 = false
    let asked (kind : Nat) : CopyReq :=
      s.rebaseCopy { copyOf kind (s.rx b) bytes with ctx := s.cur, entry := c.entry, part := c.part, sid := c.sid }
    let rowOk (x : Word) (dest : Bool) : Prop := (2 ^ 32 ≤ x.toNat ∧ x.toNat + len ≤ 2 ^ 48) ∨
      (Config.viewBase ≤ x.toNat ∧ x.toNat + len ≤ Config.viewBase + Config.viewSize ∧ rawOff x + len ≤ k.spadSize ∧
        s.holdsRange c.entry c.cell (rawOff x) len = true ∧ (dest = true → s.inBook c.cell (rawOff x) len = false))
    let row (n st r : Nat) : Word := BitVec.ofNat 64 n + BitVec.ofNat 64 r * BitVec.ofNat 64 st
    (c.inHandler = false → ∀ j, j ∈ kinds →
      (inView0 ea = false → s.hasHandler → Traps j.2 s 0x04 ea) ∧
      (inView0 ea = true → ea.toNat % 64 ≠ 0 → s.hasHandler → Traps j.2 s 0x03 ea) ∧
      (placed → leased j.1 → bad j.1 → GivesX j.2 s d (BitVec.ofNat 64 (2 ^ 63 + 1))) ∧
      (placed → leased j.1 → ¬ bad j.1 → c.opt = false → s.checkCopy (asked j.1) = .ok () →
        (s.mailboxFree c.cell m.toNat (asked j.1) = false → Retries j.2 s) ∧
        (s.mailboxFree c.cell m.toNat (asked j.1) = true → (tfind s.ctxs s.cur).isSome → ∃ t, exec j.2 s = .next t ∧
          t = { s with ctxs := t.ctxs, cells := t.cells, fresh := s.fresh + 1 } ∧
          (∀ x, x ≠ s.cur → tfind t.ctxs x = tfind s.ctxs x) ∧ (∀ n, n ≠ c.cell → t.cell n = s.cell n) ∧
          (∀ r : BitVec 5, t.rx r = if r = d ∧ r ≠ 0 then 0 else s.rx r) ∧
          t.self = { c.doneAt (c.pc + 4) s.now with x := t.self.x, badRegs := t.self.badRegs, copies := c.copies + 1 } ∧
          tfind (t.cell c.cell).mboxes m.toNat = some { asked j.1 with id := s.fresh, num := k.accNum } ∧
          (∀ i, i ≠ m.toNat → tfind (t.cell c.cell).mboxes i = tfind k.mboxes i) ∧
          t.cell c.cell = { k with
            mboxes := (t.cell c.cell).mboxes, accNum := k.accNum + 1, stageReady := (t.cell c.cell).stageReady })) ∧
      (placed → ¬ bad 0 → j.1 = 0 → q 6 / 8 % 2 = 0 → q 6 / 128 % 2 = 0 →
        ((∀ r, r < rows → rowOk (row (q 0) (q 3) r) false ∧ rowOk (row (q 1) (q 4) r) true) → s.checkCopy (asked 0) = .ok ()) ∧
        ((∃ r, r < rows ∧ ¬ (rowOk (row (q 0) (q 3) r) false ∧ rowOk (row (q 1) (q 4) r) true)) → s.hasHandler →
          ∃ code addr, (code = 0x04 ∨ code = 0x08) ∧ Traps j.2 s code addr))) ∧
    (∃ v : Word, GivesX (.cpq d) s d v ∧ v.toNat / 2 ^ 16 = c.copies % 2 ^ 32 ∧
      ∀ i, i < 8 → v.getLsbD i = (tfind k.mboxes i).isSome ∧ v.getLsbD (8 + i) = k.runs.any fun r => r.mailbox = i)

/-- 07 R177, R178; 10 R223, R224, R226: the Stagehand. It takes requests from the full mailboxes in round-robin order; a bad barrier
address ends the copy without a byte. A step, one issue of the Stagehand, reads its source and lands when it is performed; a `cpr`
reads a chunk of 64 steps first and then applies its elements; each step's bytes are reported once. A refused step ends the pass
and is reported with src 1; the pass ends when no step is in flight, and the copy is replayed whole after 1,024, 4,096 and 16,384
cycles (a `cpr` from its chunk, without the elements already acknowledged), and retires with the fault after the fourth. -/
def Obligations.StagehandCopies : Prop :=
  ∀ (cell copy i elt : Nat) (code : Byte) (addr : Word) (s : State),
    let k := s.cell cell
    let now := s.cyc (dieOfCell cell)
    let waiting (m : Nat) : Prop := (tfind k.mboxes m).isSome ∧ ∀ r, r ∈ k.runs → r.mailbox ≠ m
    (∀ j r, j < 8 → (∀ n, n < j → ¬ waiting ((k.rr + n) % 8)) → waiting ((k.rr + j) % 8) →
      tfind k.mboxes ((k.rr + j) % 8) = some r → ∃ t run, exec (.stagehandTakeRequest cell) s = .next t ∧
        t = { s with cells := t.cells } ∧ (∀ n, n ≠ cell → t.cell n = s.cell n) ∧
        t.cell cell = { k with mboxes := tdel k.mboxes ((k.rr + j) % 8), rr := ((k.rr + j) % 8 + 1) % 8, runs := k.runs ++ [run] } ∧
        run = { req := r, mailbox := (k.rr + j) % 8, failed := run.failed, done := run.failed.isSome } ∧
        (run.failed = none ↔ r.bar = 0 ∨ (r.bar.toNat % 16 = 0 ∧
          ((Config.viewBase ≤ r.bar.toNat ∧ r.bar.toNat + 16 ≤ Config.viewBase + k.spadSize) ∨
            (2 ^ 32 ≤ r.bar.toNat ∧ r.bar.toNat < 2 ^ 48)))) ∧
        ∀ e x, run.failed = some (e, x) → x = r.bar ∧ e = if r.bar.toNat % 16 ≠ 0 then 0x03 else 0x04) ∧
    (∀ c, s.memWf = true → k.run copy = some c →
      let src := (c.step c.next).1
      let n := (c.step c.next).2.2
      let bar0 := c.req.bar = 0 ∨ c.reported.contains i = true
      let head (e : Byte) : Word := reportHead e false 1 cell c.mailbox (dieOfCell cell) false (s.tagOf c.req.entry)
      let failing (u : State) (old : CopyRun) (e : Byte) (x : Word) : Prop := -- the pass of the run has failed
        (u.cell cell).run copy = some { old with failed := some (e, x) } ∧
        u.reports = tset s.reports s.fresh { part := c.req.part, d0 := head e, addr := x, info := c.req.stamp.getD c.req.tag } ∧
        (u.cell cell).aband = satInc16 k.aband
      (c.req.kind ≠ 3 → c.started = true → c.next < c.req.steps → s.copyReady cell c = true → k.stageIssue ≤ now →
        (k.mode = true ∨ now % 16 = 15) → c.req.scap = none → c.outside = false → c.applying = false → src.toNat < 2 ^ 32 →
        Config.viewBase ≤ src.toNat → src.toNat + n ≤ Config.viewBase + k.spadSize → k.spad.bad (rawOff src) n = false →
        ∃ t, exec (.copyStep cell copy) s = .next t ∧ t = { s with cells := t.cells, fresh := s.fresh + 1 } ∧
          (t.cell cell).stageIssue = now + 16 ∧ (t.cell cell).spad = k.spad ∧
          (t.cell cell).run copy = some { c with
            next := c.after c.next, streamed := c.streamed + n, flying := tset c.flying c.next (k.spad.read (rawOff src) n)
            left := tset c.left c.next s.fresh }) ∧
      -- the issues of a `cpr`: the source steps of a chunk, then its elements
      (c.req.kind = 3 → c.started = true → c.next < min (c.chunk + 64) c.req.steps → s.copyReady cell c = true →
        k.stageIssue ≤ now → (k.mode = true ∨ now % 16 = 15) →
        (c.applying = false → c.req.scap = none → src.toNat < 2 ^ 32 → Config.viewBase ≤ src.toNat →
          src.toNat + n ≤ Config.viewBase + k.spadSize → k.spad.bad (rawOff src) n = false →
          ∃ t, exec (.copyStep cell copy) s = .next t ∧ t = { s with cells := t.cells } ∧
            (t.cell cell).stageIssue = now + 16 ∧ (t.cell cell).spad = k.spad ∧ (t.cell cell).run copy = some { c with
              next := c.after c.next, streamed := c.streamed + n, staged := tset c.staged c.next (k.spad.read (rawOff src) n) }) ∧
        (c.applying = true → peerOf c.req.dcap = false → (∃ e, e < n / c.req.elem ∧ c.acked.contains (256 * c.next + e) = false) →
          ∃ t, exec (.copyStep cell copy) s = .next t ∧ t = { s with cells := t.cells, fresh := s.fresh + 1 } ∧
            (t.cell cell).stageIssue = now + 16 ∧ (t.cell cell).spad = k.spad ∧ (t.cell cell).run copy = some { c with
              next := c.after c.next, flying := tset c.flying c.next (tget [] c.staged c.next)
              left := tset c.left c.next s.fresh })) ∧
      (∀ bs, tfind c.flying i = some bs → c.req.kind ≠ 3 →
        let dst := (c.step i).2.1
        let n := (c.step i).2.2
        (c.applying = false → c.req.dcap = none → tfind c.sent i = none → c.held = [] → (∀ g, c.shared i g = false) → dst.toNat + n ≤ Config.viewBase + k.spadSize → Config.viewBase ≤ dst.toNat → dst.toNat < 2 ^ 32 → bar0 →
          bs.length = n → ∃ t, exec (.copyStepLanded cell copy i) s = .next t ∧ t = { s with cells := t.cells } ∧
            (∀ j, mget (t.cell cell).spad.bytes j =
              if rawOff dst ≤ j ∧ j < rawOff dst + n then bs.getD (j - rawOff dst) 0 else mget k.spad.bytes j) ∧
            ∃ r, (t.cell cell).run copy = some r ∧ (risesFrom 0 c.flying = true → r.flying = tdel c.flying i) ∧
              r = { c with flying := r.flying, arrived := nins c.arrived i, reported := nins c.reported i, landed := c.landed + n }) ∧
        (c.outside = true → code ∈ [0x04, 0x0D, 0x08, 0x09, 0x06, 0x0E] → c.failed = none →
          ∃ t, exec (.copyStepRefusal cell copy i code addr) s = .next t ∧
            failing t { c with
              flying := tdel c.flying i, sent := if (tfind c.sent i).isSome then tdel c.sent i else c.sent } code addr)) ∧
      (c.failed.isSome → c.flying = [] → c.sent = [] → c.resumeAt = none → c.done = false →
        ∃ t, exec (.copyPassEnd cell copy) s = .next t ∧
          (t.cell cell).run copy = some (if 4 ≤ c.pass then { c with streamed := 0, arrived := [], held := [], done := true }
            else { c with streamed := 0, arrived := [], held := [], resumeAt := some (now + (if c.pass = 1 then 1024 else if c.pass = 2 then 4096 else 16384)) }) ∧
          ∀ x e, c.req.entry = some x → tfind s.entries x = some e →
            (t.die e.die).charges = (s.die e.die).charges ++ [⟨x, (c.streamed + 63) / 64, 0, cell⟩]) ∧
      (∀ at_, c.resumeAt = some at_ → at_ ≤ now → ∃ t, exec (.copyReplayTimer cell copy) s = .next t ∧
        (t.cell cell).run copy = some { c with
          pass := c.pass + 1, failed := none, resumeAt := none, landed := 0, turned := []
          staged := if c.applying then c.staged else []
          next := if c.req.kind = 3 then c.chunk else 0 }) ∧
      (c.done = true → ∃ t, exec (.copyRetire cell copy) s = .next t ∧ (t.cell cell).run copy = none ∧
        (t.cell cell).cfail = satInc16 k.cfail) ∧
      (c.done = false → c.failed = none → c.started = true → c.flying = [] → c.sent = [] → c.req.kind ≠ 3 → c.req.steps ≤ c.next →
        ∃ t, exec (.copyRetire cell copy) s = .next t ∧ (t.cell cell).run copy = none ∧
          ∀ x, tfind s.ctxs c.req.ctx = some x → ∃ y, tfind t.ctxs c.req.ctx = some y ∧ y.copies = x.copies - 1 ∧
            y.mfl = x.mfl ||| c.flags) ∧
      (c.req.kind = 3 → c.started = true → c.failed = none → c.applying = false → c.chunk < c.req.steps →
        (∀ j, c.chunk ≤ j → j < min (c.chunk + 64) c.req.steps → (tfind c.staged j).isSome) →
        ∃ t, exec (.cprChunkRead cell copy) s = .next t ∧ t = { s with cells := t.cells } ∧
          (t.cell cell).run copy = some { c with applying := true, next := c.chunk }) ∧
      (c.req.kind = 3 → c.applying = true → tfind c.sent elt = none → c.req.dcap = none → elt % 256 < (c.step (elt / 256)).2.2 / c.req.elem → c.acked.contains elt = false →
        c.turned.contains elt = false →
        ∀ bs, tfind c.flying (elt / 256) = some bs →
        let x := (c.step (elt / 256)).2.1.toNat + elt % 256 * c.req.elem
        let v := leNat ((bs.drop (elt % 256 * c.req.elem)).take c.req.elem)
        let l := Loc.spad cell (x - Config.viewBase)
        x % c.req.elem = 0 → Config.viewBase ≤ x → x + c.req.elem ≤ Config.viewBase + k.spadSize → x < 2 ^ 32 →
        c.req.bar = 0 → ∀ old, s.numAt l c.req.elem = some old → ∃ t c', exec (.cprElementAck cell copy elt) s = .next t ∧
          t.numAt l c.req.elem = some (amoNew (BitVec.ofNat 3 c.req.rop) (BitVec.ofNat 2 c.req.rty) old v 0).1 ∧
          (t.cell cell).run copy = some c' ∧ c'.acked = nins c.acked elt ∧ c'.landed = c.landed + c.req.elem ∧
          c'.flags = c.flags ||| (amoNew (BitVec.ofNat 3 c.req.rop) (BitVec.ofNat 2 c.req.rty) old v 0).2))

/-- 07 R180-R183; 09 R206, R209: the message instructions, outside optimistic mode. `snd` checks the destination, the class and the
capability, waits while its channel carries four program messages of the cell, and sends the message with the header that R180
lays out. `rcv` takes the first queued message of a selected bound class into four registers, `pkmsg` leaves it queued; with none,
both answer EMPTY. `wmsg` gives the mask of the selected bound classes with a message, or parks. -/
def Obligations.MessageInstructions : Prop :=
  ∀ (a d b : BitVec 5) (s : State), s.self.opt = false → s.self.member = none →
    let w := s.rx a
    let c := s.self
    let k := s.cell c.cell
    let cls := w.toNat % 16
    let mc := w.getLsbD 4
    let dest := w.toNat / 2 ^ 8 % 512
    let cap := s.rc ((w >>> 5).truncate 3 : BitVec 3)
    let kind := if mc then 5 else 0
    let sel (mask : Word) (j : Nat) : Prop := j < 16 ∧ s.bound c.cell j = some s.cur ∧ (mask.toNat % 2 ^ 16 = 0 ∨ mask.getLsbD j = true)
    let wanted (mask : Word) (q : Queued) : Prop := sel mask q.cls ∧ q.msg.kind ≠ 1
    let four (t : State) (m : Msg) : Prop := ∀ r : BitVec 5, t.rx r = if r = 0 then 0 else if r = d + 3 then m.d3 else if r = d + 2
      then m.d2 else if r = d + 1 then m.d1 else if r = d then m.hdr else s.rx r
    (s.ownsCell c.part dest = false → s.hasHandler → Traps (.snd a) s 0x04 0) ∧
    (s.ownsCell c.part dest = true → mc = true → cap.tag = false → s.hasHandler → Traps (.snd a) s 0x05 0) ∧
    (s.ownsCell c.part dest = true → mc = true → cap.tag = true → cap.perm.getLsbD permM = false → s.hasHandler →
      Traps (.snd a) s 0x07 0) ∧
    (s.ownsCell c.part dest = true → mc = false → 12 ≤ cls → c.pl = 0 → s.hasHandler → Traps (.snd a) s 0x02 0) ∧
    (s.ownsCell c.part dest = true → (mc = true → cap.tag = true ∧ cap.perm.getLsbD permM = true ∧ cap.perm.getLsbD permP = true) →
      (mc = false → cls < 12 ∨ c.pl ≠ 0) →
      let full : Prop := mc = false ∧ ∃ x, s.bound dest cls = some x ∧ 4 ≤ s.inFlight c.cell x
      (full → Retries (.snd a) s) ∧
      (¬ full → c.cell < 512 → c.slot < 16 → ∃ t m, exec (.snd a) s = .next t ∧
        t = { s with ctxs := t.ctxs, cells := t.cells, flights := t.flights, fresh := s.fresh + 1 } ∧
        (∀ x, x ≠ s.cur → tfind t.ctxs x = tfind s.ctxs x) ∧ t.self = c.doneAt (c.pc + 4) s.now ∧
        (∀ n, t.cell n = if n = c.cell then { k with seq := k.seq + 1 } else s.cell n) ∧
        t.flights = tset s.flights s.fresh { msg := m, cell := dest, from_ := c.cell, ctx := s.cur, cap := if mc then some cap else none,
                                                by_ := c.issuer s.cur, entry := c.entry } ∧
        m.hdr.toNat = cls + kind * 2 ^ 4 + dest * 2 ^ 8 + c.cell * 2 ^ 17 + c.slot * 2 ^ 26 + k.seq.toNat * 2 ^ 32 ∧
        m.d1 = (if mc then s.rx (a + 1) else BitVec.ofNat 64 ((s.rx (a + 1)).toNat % 2 ^ 48)) ∧
        m.d2 = (if mc then cap.bits.truncate 64 else s.rx (a + 2)) ∧
        m.d3 = (if mc then (cap.bits >>> 64).truncate 64 else s.rx (a + 3)))) ∧
    ((∀ q, q ∈ k.queue → ¬ wanted (s.rx b) q) → GivesX (.rcv d b) s d (BitVec.ofNat 64 (2 ^ 63 + 1)) ∧
      GivesX (.pkmsg d b) s d (BitVec.ofNat 64 (2 ^ 63 + 1))) ∧
    (∀ l q r, k.queue = l ++ q :: r → (∀ p, p ∈ l → ¬ wanted (s.rx b) p) → wanted (s.rx b) q → q.poison = [] →
      (∃ t, exec (.rcv d b) s = .next t ∧ four t q.msg ∧ t.self.pc = c.pc + 4 ∧
        t = { s with ctxs := t.ctxs, cells := t.cells, stamp := t.stamp } ∧
        ∀ n, t.cell n = if n = c.cell then { k with
          queue := l ++ r, taken := if q.group.isSome then k.taken ++ [(q.msg.scell, q.msg.seq)] else k.taken } else s.cell n) ∧
      ∃ t, exec (.pkmsg d b) s = .next t ∧ four t q.msg ∧ SlotOnly s t ∧
        t.self = { c.doneAt (c.pc + 4) s.now with x := t.self.x, badRegs := t.self.badRegs }) ∧
    (let has (j : Nat) : Prop := sel (s.rx a) j ∧ ∃ q, q ∈ k.queue ∧ q.cls = j ∧ q.msg.kind ≠ 1
     ((∀ j, ¬ sel (s.rx a) j) ∨ (∃ j, has j) → ∃ v : Word, GivesX (.wmsg d a) s d v ∧ ∀ j, v.getLsbD j = true ↔ has j) ∧
     ((∃ j, sel (s.rx a) j) → (∀ j, ¬ has j) → ∃ t mask, exec (.wmsg d a) s = .next t ∧ SlotOnly s t ∧
       t.self = { c with sst := .parked, wait := .msg mask, charged := true, lastTry := s.now } ∧
       ∀ j, mask.getLsbD j = true ↔ sel (s.rx a) j))

/-- 09 R206-R209; 13 R264, R273: messages at their cells. A program message whose class is bound to a resident context enters the
queue, in a reserved entry of its class or else a shared one, and wakes a slot parked in a `wmsg` that selects the class; with no
entry free, for a context that is not resident, or behind one held for the same context, it waits in the fabric; unbound, it is
dropped with LAPSED reports. An anti-message removes its queued twin, or aims the rollback of the member slot that has processed
it at the earlier of its event and the target already set; a twin that a slot outside the group has taken gives a STALE report,
and without any twin the anti-message is held in a reserved entry of class 13. -/
def Obligations.MessageArrivals : Prop :=
  ∀ (n : Nat) (f : Flight) (s : State), tfind s.flights n = some f → f.cap = none →
    let c := s.cell f.cell
    let cls := f.msg.cls
    let used (p : Queued → Bool) : Nat := c.queue.countP p
    let resv := used fun q => q.cls = cls && q.reserved
    let shared := used fun q => !q.reserved
    let kept (t : State) : Prop := t = { s with flights := tset s.flights n { f with held := true, arrived := s.fresh }, fresh := s.fresh + 1 }
    let asks (e : Nat) : Prop := -- no requeue of a rollback of the cell waits for the entry that the message takes
      ∀ p q, p ∈ s.ctxs → p.2.cell = f.cell → p.2.requeues = some q → q.cls ≠ e ∧ (used fun u => u.cls = q.cls && u.reserved) < 8
    let before (p : Flight) : Prop := p.held = true ∧ p.cap = none ∧ p.cell = f.cell ∧ s.bound f.cell p.msg.cls = s.bound f.cell cls
    let first : Prop := ∀ p, p ∈ s.flights → p.1 ≠ n → before p.2 →
      (f.held = true ∧ f.arrived ≤ p.2.arrived) ∨ (p.2.msg.kind ≠ f.msg.kind ∧ s.waitsForEntry p.2 = true)
    let enters (i : Instr) : Prop := ∀ x y, s.bound f.cell cls = some x → tfind s.ctxs x = some y → y.resident = true → y.member = none →
      first → asks cls → (∀ q, q ∈ c.queue → q.msg.kind ≠ 1) → (resv < 8 ∨ shared < 384) → ∃ t, exec i s = .next t ∧
        t.flights = tdel s.flights n ∧
        (t.cell f.cell).queue = c.queue ++ [{ msg := f.msg, cls := cls, reserved := decide (resv < 8), group := f.group, sender := some f.by_ }] ∧
        (∀ mask, y.wait = .msg mask → mask.getLsbD cls = true → ∃ z, tfind t.ctxs x = some z ∧ z.sst = .ready ∧
          z.readySince = s.cyc (dieOfCell y.cell) + 1) ∧
        ((∀ mask, y.wait ≠ .msg mask) → t.ctxs = s.ctxs)
    let refused (i : Instr) : Prop := s.bound f.cell cls = none → ∃ t, exec i s = .next t ∧
      t.flights = tdel s.flights n ∧ (∃ e r, tfind t.reports e = some r ∧ r.d0.toNat % 2 ^ 9 = 0x08 ∧ r.info = f.msg.hdr) ∧
      (t.cell f.cell).queue = if (tfind s.ctxs f.ctx).isSome then (t.cell f.cell).queue else c.queue
    (f.msg.kind = 0 → f.held = false → s.overtakes n f = false →
      enters (.messageArrival n) ∧ refused (.messageArrival n) ∧
      (∀ x, s.bound f.cell cls = some x → s.residentCtx x = false → ∃ t, exec (.messageArrival n) s = .next t ∧ kept t) ∧
      (∀ x y, s.bound f.cell cls = some x → tfind s.ctxs x = some y → y.resident = true → y.member = none →
        (∀ q, q ∈ c.queue → q.msg.kind ≠ 1) → 8 ≤ resv → 384 ≤ shared → ∃ t, exec (.messageArrival n) s = .next t ∧ kept t) ∧
      (∀ x, s.bound f.cell cls = some x → (∀ q, q ∈ c.queue → q.msg.kind ≠ 1) →
        (∃ p, p ∈ s.flights ∧ p.1 ≠ n ∧ before p.2 ∧ p.2.msg.kind = 0) → ∃ t, exec (.messageArrival n) s = .next t ∧ kept t)) ∧
    (f.msg.kind = 0 → f.held = true →
      enters (.fabricHeldMessageAccept n) ∧ refused (.fabricHeldMessageAccept n)) ∧
    (f.msg.kind = 1 → (f.held = false → s.overtakes n f = false) → s.twinPending f.cell f.msg = false →
      (∀ x, s.bound f.cell 13 = some x → s.residentCtx x = true) → first →
      let i : Instr := if f.held then .fabricHeldMessageAccept n else .antiMessageArrival n
      let twin (m : Msg) : Bool := m.isTwin f.msg.scell f.msg.seq
      (∀ l q r, c.queue = l ++ q :: r → (∀ p, p ∈ l → twin p.msg = false) → twin q.msg = true → ∃ t, exec i s = .next t ∧
        t.flights = tdel s.flights n ∧ (t.cell f.cell).queue = l ++ r ∧ t.ctxs = s.ctxs) ∧
      ((∀ q, q ∈ c.queue → twin q.msg = false) → ∀ x r, s.processedBy f = some (x, r) → risesFrom 0 s.ctxs = true →
        ∃ t y m z o, exec i s = .next t ∧ t.flights = tdel s.flights n ∧ (t.cell f.cell).queue = c.queue ∧
          tfind s.ctxs x = some z ∧ z.member = some o ∧ tfind t.ctxs x = some y ∧ y.rbp = true ∧ y.member = some m ∧
          m.target = some (match o.target with | some k => if k.below r.key then k else r.key | none => r.key) ∧
          r.key ∈ m.antiHit) ∧
      ((∀ q, q ∈ c.queue → twin q.msg = false) → s.processedBy f = none →
        ((f.msg.scell, f.msg.seq) ∈ c.taken → ∃ t e r, exec i s = .next t ∧ t.flights = tdel s.flights n ∧ t.ctxs = s.ctxs ∧
          (t.cell f.cell).queue = c.queue ∧ (f.msg.scell, f.msg.seq) ∉ (t.cell f.cell).taken ∧
          tfind t.reports e = some r ∧ r.d0.toNat % 2 ^ 9 = 0x0E ∧ r.info = f.msg.hdr) ∧
        ((f.msg.scell, f.msg.seq) ∉ c.taken → (∃ x, s.bound f.cell 13 = some x) → asks 13 →
          c.queue.countP (fun q => q.cls = 13 && q.reserved) < 8 → ∃ t, exec i s = .next t ∧ t.flights = tdel s.flights n ∧
          t.ctxs = s.ctxs ∧ (t.cell f.cell).queue = c.queue ++ [{ msg := f.msg, cls := 13, group := f.group, sender := some f.by_ }])))

/-- 05 R115-R120; 08 R194, R200; 09 R205; 10 R219; 13 R261; 18 R339: `lacq`. The home answers the tests of R120 in their order, and
otherwise grants: a generation one on from the object's grants so far, modulo 2^24; an expiry of the home's tick plus the
lifetime; the population's context lease as parent; the reply makes the lease HELD and xd its handle. Each answer advances the
request number. The request is not held up on its way, and is a new one for no lease at its expiry tick, or one whose answer the
home has kept, which is given again with no new grant. A path while the population's own one still lapses gets LS_SCRUB (log 82:
the model's reading), and a path to a peer writes kind and generation into its capability register (18 R340). -/
def Obligations.LeaseAcquisition : Prop :=
  ∀ (d a b : BitVec 5) (s : State),
    let c := s.self
    let xa := s.rx a
    let life := (s.rx b).toNat
    let cap := s.rc (xa.truncate 3 : BitVec 3)
    let who (kind : Nat) : Asker := { c.asker s.cur with capId := if kind = 8 ∧ cap.tag then some (BitVec.ofNat 16 cap.id) else none }
    let sent (kind : Nat) : Prop := s.keptAnswer s.cur c.leaseNum = none ∧ s.heldOver (who kind) kind xa = false ∧
      (kind = 2 ∨ kind = 3 ∨ kind = 4 ∨ s.holds = [])
    let done (t : State) (v : Word) : Prop := (∀ r : BitVec 5, t.rx r = if r = d ∧ r ≠ 0 then v else s.rx r) ∧
      t.self = { c with
        pc := c.pc + 4, charged := false, wait := .none, sst := .ready, readySince := s.now, lastTry := s.now
        leaseNum := c.leaseNum + 1, x := t.self.x, badRegs := t.self.badRegs, c := t.self.c }
    let answers (i : Instr) (code : Nat) : Prop := ∃ t, exec i s = .next t ∧ done t (BitVec.ofNat 64 (2 ^ 63 + code)) ∧
      t = { s with ctxs := t.ctxs, lreqs := t.lreqs, kept := t.kept, fresh := s.fresh + 2 } ∧ t.self.c = c.c
    let grants (i : Instr) (o : LeaseObj) (home : Nat) (gen : BitVec 24) (also : State → Nat → Prop) : Prop :=
      ∃ t n l, exec i s = .next t ∧ done t l.handle ∧ tfind t.leases n = some l ∧
        (∀ m, m ≠ n → tfind t.leases m = tfind s.leases m) ∧ l.obj = o ∧ l.home = home ∧ l.st = .held ∧ l.gen = gen ∧
        l.expiry = s.tickOf home + life ∧ l.parent = s.contextLease c.entry ∧ l.pop = c.entry ∧ t.cells = s.cells ∧ also t n
    let plain : State → Nat → Prop := fun t _ =>
      t = { s with ctxs := t.ctxs, leases := t.leases, grants := t.grants, lreqs := t.lreqs, kept := t.kept, fresh := s.fresh + 2 }
    let next (o : LeaseObj) : BitVec 24 := BitVec.ofNat 24 (s.grantsOf o + 1)
    let settles (i : Instr) (o : LeaseObj) (home : Nat) (busy : Lease → Prop) (full : Prop) : Prop :=
      let scrub : Prop := ∃ p, p ∈ s.over home o ∧ (p.2.st = .lapsing ∨ p.2.st = .scrubbing)
      let held : Prop := ∃ p, p ∈ s.over home o ∧ p.2.alive = true ∧ busy p.2
      (scrub → answers i 6) ∧ (¬ scrub → held → answers i 1) ∧ (¬ scrub → ¬ held → full → answers i 2) ∧
        (¬ scrub → ¬ held → ¬ full → grants i o home (next o) plain)
    let inCell (i : Instr) (o : LeaseObj) : Prop := settles i o (homeCell c.cell) (fun l => l.pop ≠ c.entry)
      (64 ≤ s.used (homeCell c.cell) (fun k => k = 2 || k = 3 || k = 4) ∧ s.reuses (homeCell c.cell) o c.entry = false)
    let lives : Prop := 0 < life ∧ life < 2 ^ 32
    let dom := domOfCell c.cell
    (∀ j, j ∈ [(2, Instr.lacqSp d a b), (3, .lacqAcc d a b), (4, .lacqCls d a b), (5, .lacqL2 d a b), (6, .lacqPage d a b),
        (8, .lacqPath d a b), (9, .lacqGrp d a b)] →
      sent j.1 → ¬ lives → ¬ (j.1 = 4 ∧ 12 ≤ xa.toNat ∧ c.pl = 0) → answers j.2 4) ∧
    (12 ≤ xa.toNat → c.pl = 0 → s.hasHandler → Traps (.lacqCls d a b) s 0x02 0) ∧
    (∀ v n, s.keptAnswer s.cur c.leaseNum = some (v, n) → s.holds = [] → ∀ i, i ∈ [Instr.lacqSp d a b, .lacqAcc d a b, .lacqL2 d a b,
      .lacqPage d a b, .lacqPath d a b, .lacqGrp d a b] → ∃ t, exec i s = .next t ∧ done t v ∧ t.grants = s.grants ∧
        t.pages = s.pages ∧ t.groups = s.groups ∧ ∀ m, n ≠ some m → tfind t.leases m = tfind s.leases m) ∧
    (lives →
      (sent 2 →
        let base := xa.toNat / 4096 * 4096
        let n := xa.toNat % 256 + 1
        let good : Prop := xa.toNat / 256 % 16 = 0 ∧ Config.viewBase ≤ base ∧ base + n * 4096 ≤ Config.viewBase + (s.cell c.cell).spadSize
        (¬ good → answers (.lacqSp d a b) 3) ∧ (good → inCell (.lacqSp d a b) (.sp c.cell ((base - Config.viewBase) / 4096) n))) ∧
      (sent 3 → (4 ≤ xa.toNat → answers (.lacqAcc d a b) 3) ∧ (xa.toNat < 4 → inCell (.lacqAcc d a b) (.acc c.cell xa.toNat))) ∧
      (sent 4 → (12 ≤ xa.toNat → c.pl ≠ 0) → (16 ≤ xa.toNat → answers (.lacqCls d a b) 3) ∧
        (xa.toNat < 16 → inCell (.lacqCls d a b) (.cls c.cell xa.toNat c.slot s.cur))) ∧
      (sent 5 →
        let base := xa.toNat / 2 ^ 16 * 2 ^ 16
        let n := xa.toNat % 2 ^ 13 + 1
        let o := LeaseObj.l2 c.space base n (xa.toNat / 2 ^ 13 % 8)
        let home := homeOfSlice (s.sliceFor c.part c.cell base)
        let die := dieOfHome home
        let good : Prop := 2 ^ 32 ≤ base ∧ base + n * 2 ^ 16 ≤ 2 ^ 48
        let others : Prop := ∃ p, p ∈ s.leases ∧ p.2.obj.meets o = true ∧ p.2.alive = true ∧ p.2.pop ≠ c.entry
        (¬ good → answers (.lacqL2 d a b) 3) ∧ (good → others → answers (.lacqL2 d a b) 1) ∧
        (good → ¬ others → settles (.lacqL2 d a b) o home (fun _ => False)
          (s.residentLimit c.part die < s.residentUnits c.part die + n ∨
            (32 ≤ s.used home (fun k => k = 5) ∧ s.reuses home o c.entry = false)))) ∧
      (sent 6 →
        let size := if xa.getLsbD 0 then 0x20_0000 else 0x1_0000
        let va := xa.toNat / size * size
        let o := LeaseObj.page c.space va (xa.getLsbD 0) (xa.getLsbD 1)
        let home := (s.regionHome c.part (va / 0x20_0000)).getD dom
        let good : Prop := xa.toNat % size / 4 = 0 ∧ 2 ^ 32 ≤ va ∧ va + size ≤ 2 ^ 48
        let on (f : Lease → Prop) : Prop := ∃ p, p ∈ s.leases ∧ p.2.obj.meets o = true ∧ f p.2
        let scrub : Prop := on fun l => l.st = .lapsing ∨ l.st = .scrubbing
        let backed : Prop := on fun l => l.alive = true
        (¬ good → answers (.lacqPage d a b) 3) ∧ (good → scrub → answers (.lacqPage d a b) 6) ∧
        (good → ¬ scrub → backed → answers (.lacqPage d a b) 1) ∧
        (good → ¬ scrub → ¬ backed → s.placeFrame c.part home (va / 0x20_0000) (xa.getLsbD 0) = none → answers (.lacqPage d a b) 2) ∧
        (good → ¬ scrub → ¬ backed → ∀ g f, s.placeFrame c.part home (va / 0x20_0000) (xa.getLsbD 0) = some (g, f) →
          let ctl := homeCtl (dieOfDom home * 16 + g)
          grants (.lacqPage d a b) o ctl (next o) fun t n => t.pages = s.pages ++
            [{ part := c.part, sid := c.sid, va := va, big := xa.getLsbD 0, ver := xa.getLsbD 1, dom := home, cg := g
               die := dieOfDom home, frame := f, lease := n }])) ∧
      (sent 8 →
        let bw := xa.toNat / 2 ^ 16 % 2 ^ 16
        let id := cap.id
        let total (f : Lease → Nat → Nat → Bool) : Nat := s.reserved f + bw
        let peer : Prop := 0x100 ≤ id ∧ id ≤ 0x1FF
        let good : Prop := cap.tag = true ∧ xa.toNat / 2 ^ 32 = 0 ∧ xa.toNat % 2 ^ 16 / 8 = 0 ∧ 1 ≤ bw ∧ bw ≤ 3000 ∧ id ≠ dom ∧
          (id < 8 ∨ (peer ∧ s.peerUp id = true))
        let own (f : Lease → Prop) : Prop := ∃ p, p ∈ s.leases ∧ p.2.pop = c.entry ∧ f p.2 ∧ ∃ n, p.2.obj = .path dom id n
        let ending : Prop := own fun l => l.st = .lapsing
        let mine : Prop := ¬ ending ∧ own fun l => l.alive = true
        let full : Prop := s.shareIn c.part dom < total (fun l e _ => l.part = c.part && e = dom) ∨
          64 ≤ s.used (homeEgress dom) (fun k => k = 8) ∨ 3000 < total (fun _ e _ => e = dom) ∨
          (peer ∧ 100 < total fun _ _ e => isPeer e && Config.peerPort e % 8 = Config.peerPort id % 8)
        (¬ good → answers (.lacqPath d a b) 3) ∧
        (good → ending → answers (.lacqPath d a b) 6) ∧ (good → mine → answers (.lacqPath d a b) 1) ∧
        (good → ¬ ending → ¬ mine → full → answers (.lacqPath d a b) 2) ∧
        (good → ¬ ending → ¬ mine → ¬ full → grants (.lacqPath d a b) (.path dom id bw) (homeEgress dom)
          (next (.path dom id bw)) fun t n => plain t n ∧ ∀ k : BitVec 3,
            (peer ∧ k = xa.truncate 3 → let z := t.rc k
              z.tag = cap.tag ∧ z.bits.toNat % 2 ^ 96 = cap.bits.toNat % 2 ^ 96 ∧ z.perm = cap.perm ∧ z.kind = 8 ∧
                z.gen = (next (.path dom id bw)).truncate 16) ∧
            (¬ (peer ∧ k = xa.truncate 3) → t.rc k = s.rc k))) ∧
      (sent 9 →
        let home := homePrompter (dieOfCell c.cell)
        (xa ≠ 0 → answers (.lacqGrp d a b) 3) ∧ (xa = 0 → 64 ≤ s.used home (fun k => k = 9) → answers (.lacqGrp d a b) 2) ∧
        (xa = 0 → s.used home (fun k => k = 9) < 64 → ∃ k, grants (.lacqGrp d a b) (.group (s.fresh + 2)) home (BitVec.ofNat 24 (k + 1)) fun t n =>
          tfind t.groups (s.fresh + 2) = some { lease := n, die := dieOfCell c.cell } ∧
          (k = 0 ∧ tfind s.leases n = none ∨ ∃ p, p ∈ s.leases ∧ p.1 = n ∧ p.2.home = home ∧ p.2.obj.kind = 9 ∧ p.2.st = .lapsed ∧
            p.2.count = k))))

/-- 05 R116, R121-R126; 08 R193, R195; 10 R217: the other lease instructions, with nothing held up on its way. A malformed handle
gives GENMIS to `renew` and status 3 to `life`, `lgen` and `lpar`. `renew` waits for the tick step of its home; `life` gives the
remaining ticks less the guard, `lgen` the last generation and bit 24 while it is held; `lpar` checks both leases and the depth,
and links them. `llk` reads its descriptor, and is refused; or granted a free lock that no one has held since its last drain, with
its ranges in the guard table, as an acquire; or parks, behind a holder or while the last holder drains. A descriptor whose lock
word is misplaced or whose reserved bytes are not zero counts as malformed by the model's choice (log 80); R125 names the ranges
alone. At privilege 0 `lpar` with a child or parent of kind 0x0A or 0x0B answers status 3, and with ordinary kinds as at the
others. A renewal of a replicated lease also goes to its other copies. -/
def Obligations.LeaseInstructions : Prop :=
  ∀ (d a b : BitVec 5) (s : State), s.holds = [] →
    let c := s.self
    let xa := s.rx a
    let xb := s.rx b
    let die := dieOfCell c.cell
    let answers (i : Instr) (v : Word) : Prop := ∃ t, exec i s = .next t ∧
      t = { s with ctxs := t.ctxs, lreqs := t.lreqs, fresh := s.fresh + 2 } ∧
      (∀ r : BitVec 5, t.rx r = if r = d ∧ r ≠ 0 then v else s.rx r) ∧
      t.self = { c with
        pc := c.pc + 4, charged := false, wait := .none, sst := .ready, readySince := s.now, lastTry := s.now
        x := t.self.x, badRegs := t.self.badRegs }
    let fails (n : Nat) : Word := BitVec.ofNat 64 (2 ^ 63 + n)
    (badHandle xa = true → (s.hasHandler → Traps (.renew a b) s 0x09 0) ∧ answers (.life d a) (fails 3) ∧ answers (.lgen d a) (fails 3)) ∧
    (badHandle xa = true ∨ badHandle xb = true → answers (.lpar d a b) (fails 3)) ∧
    (badHandle xa = false →
      let kept : Prop := handleKind xa = 10 ∨ handleKind xa = 11
      (kept → c.pl.toNat < 2 → s.hasHandler → Traps (.renew a b) s 0x02 0) ∧
      (¬ (kept ∧ c.pl.toNat < 2) → xb = 0 ∨ 2 ^ 32 ≤ xb.toNat → ∃ t, exec (.renew a b) s = .next t ∧ GoesOn s t (c.pc + 4)) ∧
      (¬ (kept ∧ c.pl.toNat < 2) → xb ≠ 0 → xb.toNat < 2 ^ 32 → ∃ t, exec (.renew a b) s = .next t ∧
        t = { s with ctxs := t.ctxs, lreqs := t.lreqs, extensions := t.extensions, fresh := s.fresh + 2 } ∧
        t.self = { c with sst := .stalled, wait := .lease s.fresh, charged := true, lastTry := s.now } ∧
        tfind t.lreqs s.fresh = some { ctx := s.cur, op := .renew, xa := xa, xb := xb, order := s.fresh + 1
                                       arrived := some (s.tickOf (if handleHome xa = 0 then die else handleHome xa)) } ∧
        (∀ n l, s.leaseOf xa die = some (n, l) → (4 ≤ l.home → t.extensions = s.extensions) ∧
          (l.home < 4 → ∀ m q, (m, q) ∈ s.leases → q.home < 4 → q.home ≠ l.home → q.obj = l.obj →
            { lease := m, gen := q.gen, life := xb.toNat, order := s.fresh + 1 } ∈ t.extensions))) ∧
      (s.leaseOf xa die = none → answers (.life d a) 0) ∧
      (∀ n l, s.leaseOf xa die = some (n, l) →
        answers (.life d a) (if l.alive then BitVec.ofNat 64 (l.expiry - s.tickOf l.home -
          (if 4 ≤ l.home ∧ l.home = homeCell c.cell then 0 else if l.home < 4 ∨ dieOfHome l.home = die then 16 else 48)) else 0)) ∧
      (s.entryOf xa die = none → answers (.lgen d a) 0) ∧
      (∀ n l, s.entryOf xa die = some (n, l) →
        answers (.lgen d a) (BitVec.ofNat 64 (l.gen.toNat + if l.alive then 2 ^ 24 else 0)))) ∧
    let sealed (h : Word) : Prop := handleKind h = 10 ∨ handleKind h = 11
    (badHandle xa = false → badHandle xb = false → c.pl = 0 → sealed xa ∨ sealed xb → answers (.lpar d a b) (fails 3)) ∧
    (badHandle xa = false → badHandle xb = false → c.pl ≠ 0 ∨ (¬ sealed xa ∧ ¬ sealed xb) →
      (s.leaseOf xa die = none ∨ s.leaseOf xb die = none → answers (.lpar d a b) (fails 8)) ∧
      (∀ n l p q, s.leaseOf xa die = some (n, l) → s.leaseOf xb die = some (p, q) →
        (l.alive = false ∨ q.alive = false → answers (.lpar d a b) (fails 8)) ∧
        (l.alive = true → q.alive = true → l.part ≠ c.part ∨ q.part ≠ c.part → answers (.lpar d a b) (fails 3)) ∧
        (l.alive = true → q.alive = true → l.part = c.part → q.part = c.part →
          (s.isUnder n 8 p = true ∨ 4 < s.depthOf 8 p + s.heightOf 8 n → answers (.lpar d a b) (fails 5)) ∧
          (s.isUnder n 8 p = false → s.depthOf 8 p + s.heightOf 8 n ≤ 4 → 4 ≤ l.home → tfind s.leases n = some l →
            (tfind s.leases p).isSome → ∃ t,
            exec (.lpar d a b) s = .next t ∧ (∀ r : BitVec 5, t.rx r = if r = d ∧ r ≠ 0 then 0 else s.rx r) ∧ t.self.pc = c.pc + 4 ∧
            ∀ m, tfind t.leases m = if m = n then some { l with parent := some p } else tfind s.leases m) ∧
          (s.isUnder n 8 p = false → s.depthOf 8 p + s.heightOf 8 n ≤ 4 → l.home < 4 → tfind s.leases n = some l →
            tfind s.leases p = some q → ∃ t,
            exec (.lpar d a b) s = .next t ∧ (∀ r : BitVec 5, t.rx r = if r = d ∧ r ≠ 0 then 0 else s.rx r) ∧ t.self.pc = c.pc + 4 ∧
            ∃ o, tfind t.leases n = some { l with parent := o } ∧ (4 ≤ q.home → o = some p) ∧
              ∀ k, q.home < 4 → o = some k → ∃ u, (k, u) ∈ s.leases ∧ u.obj = q.obj ∧ u.home = l.home)))) ∧
    (c.opt = false →
      (xa.toNat % 64 ≠ 0 → s.hasHandler → Traps (.llk d a b) s 0x03 xa) ∧
      (xa.toNat % 64 = 0 → region xa ≠ .mem → s.hasHandler → Traps (.llk d a b) s 0x04 xa) ∧
      (∀ u bs, xa.toNat % 64 = 0 → region xa = .mem → s.checkAccess xa 64 false false = .ok () → s.localWaits xa 64 false = .ok () →
        s.fabricWaits xa 64 false false = .ok () → s.readBytes xa 64 false = .ok (u, bs) → u.keptAnswer u.cur u.self.leaseNum = none → u.holds = [] →
        let k := u.self
        let w := leNat (bs.take 8)
        let t32 := xb.toNat % 2 ^ 32
        let fin (t : State) (v : Word) : Prop := exec (.llk d a b) s = .next t ∧
          (∀ r : BitVec 5, t.rx r = if r = d ∧ r ≠ 0 then v else u.rx r) ∧ t.self.pc = k.pc + 4 ∧ t.self.leaseNum = k.leaseNum + 1
        (t32 = 0 → ∃ t, fin t (fails 4)) ∧ (t32 ≠ 0 → badLock bs = true → ∃ t, fin t (fails 3)) ∧
        let given (n home count : Nat) : Prop := ∃ t m, fin t m.handle ∧ tfind t.leases n = some m ∧ m.obj = .lock k.space w ∧
          m.home = home ∧ m.st = .held ∧ m.gen = BitVec.ofNat 24 (count + 1) ∧ m.expiry = u.tickOf home + t32 ∧
          m.parent = u.contextLease k.entry ∧ m.holder = some { ctx := u.cur, cell := k.cell, sid := k.sid, ranges := lockRanges bs } ∧
          (t.cell k.cell).guards = (u.cell k.cell).guards ++ ((lockRanges bs).take (48 - (u.cell k.cell).guards.length)).map (fun r =>
            { sid := k.sid, part := partOf k.space, base := r.1, len := r.2, lease := n }) ∧
          t.self.acqMark = t.stamp ∧ u.stamp < t.stamp
        let waits (n home : Nat) (also : State → Prop) : Prop := ∃ t r, exec (.llk d a b) s = .next t ∧ t.self.sst = .parked ∧
          t.self.wait = .lease u.fresh ∧ tfind t.lreqs u.fresh = some r ∧ r.parked = true ∧ r.lock = n ∧ r.order = u.fresh + 1 ∧
          r.arrived = some (u.tickOf home) ∧ also t
        (t32 ≠ 0 → badLock bs = false → (∀ p, p ∈ u.leases → p.2.obj ≠ .lock k.space w) →
          let home := homeOfSlice (u.sliceFor k.part k.cell w)
          (u.locksFull home = true → ∃ t, fin t (fails 2)) ∧ (u.locksFull home = false → given (tnext u.leases) home 0)) ∧
        (t32 ≠ 0 → badLock bs = false → ∀ n l, (u.leases.find? fun p => p.2.obj = .lock k.space w) = some (n, l) →
          tfind u.leases n = some l →
          (l.st = .lapsing → ∃ t, fin t (fails 6)) ∧
          (l.st = .lapsed → l.draining = none → u.locksFull l.home = true → ∃ t, fin t (fails 2)) ∧
          (l.st = .lapsed → l.draining = none → u.locksFull l.home = false →
            (l.last = none → given n l.home l.count) ∧
            (l.last ≠ none → waits n l.home fun t => tfind t.leases n = some { l with draining := some u.fresh, drained := false })) ∧
          (l.st = .granted ∨ l.st = .held ∨ l.st = .lapsed ∧ l.draining ≠ none → waits n l.home fun t => t.leases = u.leases))))

/-- 05 R121, R125, R126; 08 R191-R201; 10 R217; 19 R350-R353: what happens to leases between instructions. The tick step applies the
renewals that arrived in the tick before it lapses what has expired, once in a tick, at the homes of a lease and at each copy of a
replicated one; a lapse takes the children of the same home with it and sends a notice to the others; LAPSING ends in the scrub of
the object, and its completion frees it. Requests reach their homes and replies their cells, where a lock's grant is an acquire
and a refused renewal traps; a lock is drained of its last holder's dirty lines before it is granted. -/
def Obligations.LeaseEvents : Prop :=
  ∀ (n q e die cell : Nat) (s : State),
    let dead (t : State) (m : Nat) : Prop := ∃ l, tfind t.leases m = some l ∧ l.alive = false
    -- the tick step, with one renewal that has arrived, at its home or at another copy, and no other lease at its end
    let quiet : Prop := s.tickEnds die = true ∧ s.ticked die = false ∧ die < 4 ∧ s.notices = [] ∧ (∀ o, s.overAllowance o = []) ∧
      (∀ p, p ∈ s.leases → p.1 ≠ n → p.2.alive = true → s.tickOf p.2.home < p.2.expiry) ∧
      (∀ p, p ∈ s.leases → ∀ x y, p.2.obj ≠ .lock x y) ∧ risesFrom 0 s.leases = true
    (∀ r l, quiet → s.extensions = [] → s.lreqs = [(q, r)] → r.op = .renew → r.arrived.isSome → r.held = false → r.parked = false →
      s.dieOfReq r = die →
      s.entryOf r.xa (dieOfCell (s.ctx r.ctx).cell) = some (n, l) → tfind s.leases n = some l → dieOfHome l.home = die →
      0 < r.xb.toNat → ∃ t, exec (.homeTickStep die) s = .next t ∧ (t.die die).stepped = some (s.ref die) ∧
        (l.gen = handleGen r.xa → l.alive = true → s.tickOf l.home ≤ l.expiry → ∃ m, tfind t.leases n = some m ∧ m.alive = true ∧
          m.expiry = max l.expiry (s.tickOf l.home + r.xb.toNat) ∧
          tfind t.lreqs q = some { r with arrived := none, answer := some 0, fault := none }) ∧
        (l.gen ≠ handleGen r.xa → tfind t.lreqs q = some { r with arrived := none, answer := none, fault := some 0x09 }) ∧
        (l.gen = handleGen r.xa → (l.alive = false ∨ l.expiry < s.tickOf l.home) →
          tfind t.lreqs q = some { r with arrived := none, answer := none, fault := some 0x08 })) ∧
    (∀ x l, quiet → s.lreqs = [] → s.extensions = [x] → x.lease = n → tfind s.leases n = some l → l.home = die → x.gen = l.gen →
      l.alive = true → s.tickOf l.home ≤ l.expiry → 0 < x.life → ∃ t m, exec (.homeTickStep die) s = .next t ∧ t.extensions = [] ∧
        tfind t.leases n = some m ∧ m.alive = true ∧ m.expiry = max l.expiry (s.tickOf l.home + x.life)) ∧
    (s.tickEnds die = false ∨ s.ticked die = true ∨ 4 ≤ die → exec (.homeTickStep die) s = .next s) ∧
    -- a lease at its expiry tick, and its children
    (∀ l, tfind s.leases n = some l → s.tickEnds (dieOfHome l.home) = true → s.renewalsAt (dieOfHome l.home) = [] → l.alive = true →
      s.extensionsAt (dieOfHome l.home) = [] → s.endWaits l.obj = false →
      risesFrom 0 s.notices = true → (∀ z, z ∈ s.notices → z.1 < s.fresh) →
      (l.expiry ≤ s.ref (dieOfHome l.home) → ∃ t, exec (.leaseExpiry n) s = .next t ∧ dead t n ∧
        ∀ m k, tfind s.leases m = some k → k.parent = some n → k.alive = true →
          (homeUnit k.home = homeUnit l.home → dead t m) ∧
          (homeUnit k.home ≠ homeUnit l.home → ∃ i z, tfind t.notices i = some z ∧ z.lease = m ∧ z.gen = k.gen)) ∧
      (s.ref (dieOfHome l.home) < l.expiry → exec (.leaseExpiry n) s = .next s)) ∧
    (∀ z, tfind s.notices e = some z → z.guard = none → exec (.lapseNotice e) s = .next (if z.arrived then s else
      { s with notices := tset s.notices e { z with arrived := true, order := s.fresh }, fresh := s.fresh + 1 })) ∧
    -- the end of LAPSING and of a scrub
    (∀ l, tfind s.leases n = some l → l.st = .lapsing → s.itemsDone l = false → exec (.lapsingEnd n) s = .next s) ∧
    (∀ l, tfind s.leases n = some l → l.st = .lapsing → s.itemsDone l = true → ∃ t m, exec (.lapsingEnd n) s = .next t ∧
      tfind t.leases n = some m ∧ (m.st = .scrubbing ∨ m.st = .lapsed) ∧
      (∀ c b k, l.obj = .sp c b k → m.st = .scrubbing ∧ ∃ j w, tfind t.jobs j = some w ∧ w.lease = some n ∧ w.bytes = k * 4096) ∧
      (∀ c k, l.obj = .acc c k → m.st = .scrubbing ∧ ∃ j w, tfind t.jobs j = some w ∧ w.lease = some n ∧ w.bytes = 0x8000) ∧
      (∀ p va big ver, l.obj = .page p va big ver → (∃ g, g ∈ s.pages ∧ g.lease = n ∧ g.second = false) →
        m.st = .scrubbing ∧ ∀ g, g ∈ t.pages → g.lease ≠ n)) ∧
    (∀ j c b k l, tfind s.jobs e = some j → j.lease = some n → tfind s.leases n = some l → l.obj = .sp c b k → j.book = none →
      j.frames = [] → j.areas = [] → j.row ≠ rowSweep → (∃ at_, j.endAt = some at_ ∧ at_ ≤ s.cyc j.die) → j.part = none →
      risesFrom 0 s.jobs = true → s.memWf = true → ∃ t, exec (.scrubJobComplete e) s = .next t ∧ tfind t.jobs e = none ∧
        (∀ i, mget (t.cell c).spad.bytes i = if b * 4096 ≤ i ∧ i < (b + k) * 4096 then 0 else mget (s.cell c).spad.bytes i) ∧
        (∀ i, b * 4096 ≤ 8 * i → 8 * i < (b + k) * 4096 → i ∉ (t.cell c).spad.full) ∧
        (∀ i, b * 4096 ≤ 16 * i → 16 * i < (b + k) * 4096 → i ∉ (t.cell c).spad.tags) ∧
        ((∀ p, p ∈ s.jobs → p.1 ≠ e → p.2.lease ≠ some n) → ∃ m, tfind t.leases n = some m ∧ m.st = .lapsed)) ∧
    (∀ i j l p k, (s.jobs.find? fun p => p.2.lease = some n && p.2.row = rowSweep && p.2.die = die) = some (i, j) →
      tfind s.leases n = some l → l.obj = .key p k → (∃ at_, j.endAt = some at_ ∧ at_ ≤ s.cyc die) → j.book = none → j.frames = [] →
      j.areas = [] → j.part = none → (s.jobs.filter fun p => p.2.lease = some n).length = 1 → risesFrom 0 s.jobs = true →
      ∃ t m, exec (.cacheSweep die n) s = .next t ∧ tfind t.leases n = some m ∧ m.st = .lapsed ∧
        ∀ g, g ∈ s.pages → s.underKey p k g = true →
          (g.die = die → ∀ x, x ∈ (t.die die).l2 → ¬ (g.frame * 0x1_0000 ≤ x.1 ∧ x.1 < g.frame * 0x1_0000 + g.size)) ∧
          (∀ c, dieOfCell c = die → ∀ x, x ∈ (t.cell c).l1 → g.backs x.2.sid.toNat x.2.va = false)) ∧
    -- requests at their homes
    (∀ r c, tfind s.lreqs q = some r → tfind s.ctxs r.ctx = some c → r.arrived = none → r.answer = none → r.fault = none →
      (r.op = .life → ∃ t, exec (.leaseRequestArrival q) s = .next t ∧
        tfind t.lreqs q = some { r with order := s.fresh, answer := some (s.lifeAt c r.xa), granted := none, held := false }) ∧
      (r.op = .renew → ∃ t, exec (.leaseRequestArrival q) s = .next t ∧ t = { s with
        lreqs := tset s.lreqs q { r with
          order := s.fresh, arrived := some (s.tickOf (if handleHome r.xa = 0 then dieOfCell c.cell else handleHome r.xa)) }
        extensions := t.extensions, fresh := s.fresh + 1 }) ∧
      (∀ k v g, r.op = .lacq k → s.keptAnswer r.ctx r.num = some (v, g) → exec (.leaseRequestArrival q) s =
        .next { s with
          lreqs := tset s.lreqs q { r with order := s.fresh, answer := some v, granted := g, held := false }, fresh := s.fresh + 1 }) ∧
      (r.op = .llk → s.keptAnswer r.ctx r.num = none → r.xb.toNat % 2 ^ 32 ≠ 0 → r.bad = false → ∀ l,
        (s.leases.find? fun p => p.2.obj = .lock c.space r.lock) = some (n, l) → tfind s.leases n = some l → l.alive = true →
        exec (.llkRequestArrival q) s = .next { s with fresh := s.fresh + 1, lreqs := tset s.lreqs q { r with
          order := s.fresh, parked := true, lock := n, arrived := some (s.tickOf l.home) } }) ∧
      (r.op = .llk → s.keptAnswer r.ctx r.num = none → r.xb.toNat % 2 ^ 32 ≠ 0 → r.bad = false → ∀ l,
        (s.leases.find? fun p => p.2.obj = .lock c.space r.lock) = some (n, l) → tfind s.leases n = some l → l.st = .lapsed →
        l.draining = none → l.last = none → s.locksFull l.home = false → ∃ t m z, exec (.llkRequestArrival q) s = .next t ∧
          tfind t.leases n = some m ∧ m.st = .granted ∧ m.obj = l.obj ∧ m.gen = BitVec.ofNat 24 (l.count + 1) ∧
          m.expiry = s.tickOf l.home + r.xb.toNat % 2 ^ 32 ∧ m.pop = c.entry ∧ tfind t.lreqs q = some z ∧
          z.answer = some m.handle ∧ z.granted = some n)) ∧
    -- replies
    (∀ r c v, tfind s.lreqs q = some r → tfind s.ctxs r.ctx = some c → r.answer = some v → c.wait = .lease q →
      let done (t : State) : Prop := ∃ x, tfind t.ctxs r.ctx = some x ∧ x.pc = c.pc + 4 ∧ x.wait = .none ∧
        ∀ k : BitVec 5, x.x? k.toNat = if k = r.xd ∧ k ≠ 0 then v else c.x? k.toNat
      (∀ l, r.granted = some n → r.op = .llk ∨ (∃ k, r.op = .lacq k) → tfind s.leases n = some l →
        ∃ t m x, exec (.grantReplyDelivery q) s = .next t ∧ done t ∧ tfind t.ctxs r.ctx = some x ∧ x.leaseNum = c.leaseNum + 1 ∧
          tfind t.leases n = some m ∧ m.st = (if l.st = .granted then .held else l.st) ∧
          x.acqMark = (if r.op = .llk then s.stamp + 1 else c.acqMark)) ∧
      (r.granted = none → ∃ t, exec (.leaseReplyArrival q) s = .next t ∧ done t ∧ t.leases = s.leases)) ∧
    (∀ r c code, tfind s.lreqs q = some r → tfind s.ctxs r.ctx = some c → r.answer = none → r.granted = none → r.fault = some code →
      c.wait = .lease q → (c.trapRegs (trapLevel c.pl)).tvec ≠ 0 → code ≠ 0x0C → code ≠ 0x0D → ∃ t, exec (.leaseReplyArrival q) s = .next t ∧
        Trapped { s with cur := r.ctx, lreqs := tdel s.lreqs q } t (code.zeroExtend 13) c.pc 0) ∧
    (∀ r, tfind s.lreqs q = some r → s.tickEnds (s.dieOfReq r) = true → s.locksToServe (s.dieOfReq r) = [] → s.waitOver (q, r) = true →
      ∃ t, exec (.llkTimeout q) s = .next t ∧
        tfind t.lreqs q = some { r with parked := false, answer := some (BitVec.ofNat 64 (2 ^ 63 + 7)) } ∧ t.leases = s.leases) ∧
    -- locks
    (∀ l r h, tfind s.leases n = some l → l.draining = some r → l.last = some h → l.drained = false →
      risesFrom 0 (s.cell h.cell).l1 = true → ∃ t, exec (.lockDrain n) s = .next t ∧ tfind t.leases n = some { l with drained := true } ∧
      (∀ g, g ∈ (t.cell h.cell).guards → g.lease ≠ n) ∧
      ∀ x, x ∈ (t.cell h.cell).l1 → x.2.sid = h.sid → (∃ g, g ∈ h.ranges ∧ g.1 ≤ x.2.va ∧ x.2.va < g.1 + g.2) → x.2.dirty = 0) ∧
    (∀ l r c, tfind s.leases n = some l → l.draining = some q → l.drained = true ∨ l.last = none → tfind s.lreqs q = some r →
      tfind s.ctxs r.ctx = some c → ∃ t m, exec (.lockGrant n) s = .next t ∧ tfind t.leases n = some m ∧ m.st = .granted ∧
        m.gen = BitVec.ofNat 24 (l.count + 1) ∧ m.expiry = s.tickOf l.home + r.xb.toNat % 2 ^ 32 ∧ m.draining = none ∧ m.last = none ∧
        tfind t.lreqs q = some { r with parked := false, answer := some m.handle, granted := some n }) ∧
    (∀ z l, tfind s.notices e = some z → z.guard = some (cell, n) → tfind s.leases n = some l → l.gen = z.gen → l.alive = false →
      ∃ t, exec (.guardNotice e) s = .next t ∧ (∀ g, g ∈ (t.cell cell).guards → g.lease = n → g.held = false) ∧
        ∀ x, x ∈ (t.cell cell).l1 ↔ x ∈ (s.cell cell).l1 ∧ ¬ (x.2.guarded = true ∧ x.2.dirty = 0 ∧ ∃ g, g ∈ (s.cell cell).guards ∧
          g.lease = n ∧ g.held = true ∧ g.sid = x.2.sid ∧ g.base ≤ x.2.va ∧ x.2.va < g.base + g.len))

/-- 07 R184, R186-R189; 13 R261-R270, R272, R278: optimistic mode. `opt.on` checks its descriptor, waits for posted operations and
engine work, and joins the group at its published gvt; `opt.off` leaves it when no record and no version of the slot above GVT is
left. `ckpt` saves bytes in the current event's record. A `rcv` in optimistic mode takes the message with the lowest key, writes a
record of the registers and clears the vector registers. The rollback of a slot's last event marks it undone and then goes item by
item: it writes each area back, discards each word's versions, requeues the message, pausing without a free entry, sends one
anti-message for each logged send, and enters the handler; `rbret` reloads the registers and reissues the `rcv`. Three clauses are
the model's choice: a live handle of another kind gives `opt.on` status 2 (log 84), an item of the sequence takes a turn of the
slot (log 65), which sets its issue gap to 8 (log 83). -/
def Obligations.OptimisticMode : Prop :=
  ∀ (d a b : BitVec 5) (n : BitVec 6) (x : Nat) (s : State),
    let c := s.self
    let k := s.cell c.cell
    let ea := s.rx a
    let fails (v : Nat) : Word := BitVec.ofNat 64 (2 ^ 63 + v)
    -- opt.on
    (c.opt = true → GivesX (.optOn d a) s d (fails 1)) ∧
    (c.opt = false →
      (inView0 ea = false → s.hasHandler → Traps (.optOn d a) s 0x04 ea) ∧
      (inView0 ea = true → ea.toNat % 32 ≠ 0 → s.hasHandler → Traps (.optOn d a) s 0x03 ea) ∧
      (inView0 ea = true → ea.toNat % 32 = 0 → s.checkHome ea 32 false = .ok () →
        let quiet : Prop := c.pst0 = 0 ∧ c.pst1 = 0 ∧ c.pst2 = 0 ∧ s.engineWork s.cur = false
        (¬ quiet → Retries (.optOn d a) s) ∧
        (quiet → s.localWaits ea 32 false = .ok () → k.spad.bad (rawOff ea) 32 = false →
          let bytes := k.spad.read (rawOff ea) 32
          let at_ (o w : Nat) : Nat := leNat ((bytes.drop o).take w)
          let h : Word := BitVec.ofNat 64 (at_ 0 8)
          let size := at_ 12 2 * 4096
          let named (n : Nat) (l : Lease) (g : Nat) : Prop := s.leaseOf h (dieOfCell c.cell) = some (n, l) ∧ l.obj = .group g ∧
            badHandle h = false ∧ l.alive = true
          let good (l : Lease) : Prop := at_ 14 2 = 0 ∧ leNat (bytes.drop 24) = 0 ∧ at_ 8 4 % 4096 = 0 ∧ Config.viewBase ≤ at_ 8 4 ∧
            1 ≤ at_ 12 2 ∧ at_ 12 2 ≤ 64 ∧ at_ 16 8 % 4 = 0 ∧ at_ 8 4 + size ≤ Config.viewBase + k.spadSize ∧ l.pop = c.entry ∧
            s.holdsRange c.entry c.cell (at_ 8 4 - Config.viewBase) size = true
          ((∀ n l g, ¬ named n l g) → GivesX (.optOn d a) s d (fails 2)) ∧
          (∀ n l g, named n l g → (¬ good l → GivesX (.optOn d a) s d (fails 3)) ∧
            (good l → 1024 ≤ (s.membersOf g).length → GivesX (.optOn d a) s d (fails 4)) ∧
            (good l → (s.membersOf g).length < 1024 → ∀ q, tfind s.groups g = some q → ∃ t, exec (.optOn d a) s = .next t ∧
              (∀ r : BitVec 5, t.rx r = if r = d ∧ r ≠ 0 then 0 else s.rx r) ∧ ((t.cell c.cell).group g).inMask = true ∧
              t.self = { c.doneAt (c.pc + 4) s.now with
                x := t.self.x, badRegs := t.self.badRegs, opt := true, lvt := BitVec.ofNat 48 q.gvt
                gvt := BitVec.ofNat 48 (let gc := k.group g
                  if gc.inMask = true ∨ gc.pub.isSome ∨ q.pubTo.contains c.cell = true then gc.gvt else q.gvt)
                svt := BitVec.allOnes 48
                member := some { group := g, pbase := at_ 8 4 - Config.viewBase, size := size, rbh := BitVec.ofNat 64 (at_ 16 8) } }))))) ∧
    -- opt.off, ckpt, rbret
    (c.member = none → GivesX (.optOff d) s d 0 ∧ (s.hasHandler → Traps (.ckpt d a n) s 0x01 0 ∧ Traps .rbret s 0x01 0)) ∧
    (∀ m, c.member = some m →
      (m.handler = true → s.hasHandler → Traps (.optOff d) s 0x01 0 ∧ Traps (.ckpt d a n) s 0x01 0) ∧
      (m.handler = false → s.hasHandler → Traps .rbret s 0x01 0) ∧
      let passed : Prop := m.records = [] ∧ (k.group m.group).busy = none ∧
        ∀ p v, p ∈ s.versions → v ∈ p.2 → v.writer = some s.cur → stampBelow v.num c.gvt.toNat = true
      (m.handler = false → passed → ∃ t, exec (.optOff d) s = .next t ∧
        (∀ r : BitVec 5, t.rx r = if r = d ∧ r ≠ 0 then 0 else s.rx r) ∧
        t.self = { c.doneAt (c.pc + 4) s.now with x := t.self.x, badRegs := t.self.badRegs, opt := false, rbp := false, member := none }) ∧
      (m.handler = false → ¬ passed → ∃ t, exec (.optOff d) s = .next t ∧ SlotOnly s t ∧ t.self = { c with
        sst := .stalled, wait := .again, charged := true, lastTry := s.now, member := some { m with inEvent := false } }) ∧
      (let len := (n.toNat + 1) * 64
       m.handler = false → (m.inEvent = false → GivesX (.ckpt d a n) s d (fails 2)) ∧
        (m.inEvent = true →
          (ea.toNat % 64 ≠ 0 → s.hasHandler → Traps (.ckpt d a n) s 0x03 ea) ∧
          (ea.toNat % 64 = 0 → inView0 ea = false → s.hasHandler → Traps (.ckpt d a n) s 0x04 ea) ∧
          (ea.toNat % 64 = 0 → inView0 ea = true → s.checkHome ea len false = .ok () → s.localWaits ea len false = .ok () →
            ∀ l r, m.records = l ++ [r] →
            (4096 < r.ckptBytes + len → GivesX (.ckpt d a n) s d (fails 1)) ∧
            (r.ckptBytes + len ≤ 4096 → m.used + 64 + len ≤ m.size → ∃ t m', exec (.ckpt d a n) s = .next t ∧
              (∀ r : BitVec 5, t.rx r = if r = d ∧ r ≠ 0 then 0 else s.rx r) ∧ t.self.pc = c.pc + 4 ∧ t.self.member = some m' ∧
              ∃ saved, m'.records = l ++ [{ r with entries := r.entries ++ [.ckpt (rawOff ea) saved len] }] ∧
                ∀ i, i < len → mget saved.bytes (rawOff ea + i) = mget k.spad.bytes (rawOff ea + i))))) ∧
      (∀ l r u, m.handler = true → m.records = l ++ r :: u → (∀ p, p ∈ l → (p.event && p.undone) = false) → r.event = true →
        r.undone = true → ∃ t, exec .rbret s = .next t ∧ SlotOnly s t ∧ t.self = { c.doneAt r.pc s.now with
          x := r.xs, p := r.ps, v := [], badRegs := c.badRegs.filter fun r => decide ((64 ≤ r ∧ r < 128) ∨ 256 ≤ r), member := some { m with handler := false, records := l, tail := r.pos, antiHit := [] } }) ∧
      -- rcv: the lowest key, the record, lvt and the vector registers
      (let fits (q : Queued) : Prop := q ∈ k.queue ∧ q.cls < 12 ∧ s.bound c.cell q.cls = some s.cur ∧
         ((s.rx b).toNat % 2 ^ 16 = 0 ∨ (s.rx b).getLsbD q.cls = true) ∧ q.msg.kind ≠ 1
       let live (r : Record) : Bool := r.event && !r.undone
       let ord (q : Queued) : Nat := m.records.countP fun r => live r && r.key.vrt = q.msg.vrt
       c.opt = true → m.handler = false → m.used + 384 ≤ m.size → ∀ q, fits q → q.poison = [] →
        (∀ p, fits p → p = q ∨ q.msg.key.below p.msg.key = true) → (∀ p, fits p → p.msg.key.below q.msg.key = false) →
        (65536 ≤ ord q → s.hasHandler → Traps (.rcv d b) s 0x0B 0) ∧
        (ord q < 65536 → ∃ t m' l r, exec (.rcv d b) s = .next t ∧ t.self.pc = c.pc + 4 ∧ t.self.lvt = BitVec.ofNat 48 q.msg.vrt ∧
          (∀ j : BitVec 4, t.rv j = 0) ∧ (t.cell c.cell).queue = k.queue.erase q ∧ t.self.member = some m' ∧ m'.inEvent = true ∧
          m'.lastKey = some q.msg.key ∧ m'.records = l ++ [r] ∧ r.pc = c.pc ∧ r.xs = c.x ∧ r.ps = c.p ∧ r.olvt = c.lvt ∧ r.q = q ∧
          r.stamp = BitVec.ofNat 64 (q.msg.vrt * 2 ^ 16 + ord q) ∧ r.units = 1 ∧
          -- the issue counts in the new event, not in the last one before it
          ((∀ p, p ∈ m.records → live p = false) → l = m.records) ∧
          ∀ u p v, m.records = u ++ p :: v → live p = true → (∀ z, z ∈ v → live z = false) → l = u ++ { p with units := p.units - 1 } :: v))) ∧
    -- a rollback of the last event begins
    (∀ y m l r t, tfind s.ctxs x = some y → y.member = some m → y.rbp = true → y.takesTurn = true → m.rolling = false → m.target = some t →
      m.records = l ++ [r] → (∀ p, p ∈ l → (p.event && (p.key == t || p.undone)) = false) → r.event = true → r.key = t → r.undone = false →
      m.antiHit.contains t = false →
      ∃ u z m' w, exec (.rollbackSequence x) s = .next u ∧ tfind u.ctxs x = some z ∧ z.member = some m' ∧ m'.rolling = true ∧
        m'.target = none ∧ z.rbp = true ∧ z.pc = y.pc ∧ z.x = y.x ∧ z.lvt = y.lvt ∧ m'.records = l ++ [w] ∧ w.undone = true ∧
        m'.undoAreas = (r.entries.filter fun e => match e with | .ckpt .. => true | _ => false).reverse ∧ m'.undoFrom = r.stamp ∧
        (∀ a k v, (a, k) ∈ s.versions → v ∈ k → v.writer = some x → r.stamp.toNat ≤ v.num.toNat → a ∈ m'.unversion) ∧
        m'.requeue = [r.q] ∧ m'.nEvents = 1 ∧
        (let sent := r.entries.filterMap fun e => match e with | .sent dest m => some (dest, m) | _ => none
         m'.nAnti = sent.length ∧ m'.pendAnti.length = sent.length ∧
         ∀ (i : Nat) (p : Nat × Msg), sent[i]? = some p → ∃ a : Msg, m'.pendAnti[i]? = some (p.1, a) ∧ a.cls = 13 ∧ a.kind = 1 ∧ a.scell = p.2.scell ∧
           a.seq = p.2.seq ∧ a.d1 = BitVec.ofNat 64 p.2.vrt ∧ a.d2 = BitVec.ofNat 64 p.2.cls ∧ a.d3 = 0)) ∧
    -- its items, and the entry of the handler
    (∀ y m, tfind s.ctxs x = some y → y.member = some m → y.rbp = true → y.takesTurn = true → m.rolling = true →
      let goes (svt : BitVec 48) (k : Member) (p : State → Prop) : Prop := ∃ u, exec (.rollbackSequence x) s = .next u ∧
        tfind u.ctxs x = some { y with lastIssue := some (s.cyc (dieOfCell y.cell)), gap := 8, svt := svt, member := some k } ∧ p u
      (∀ off b n rest, m.undoAreas = .ckpt off b n :: rest → s.memWf = true → goes y.svt { m with undoAreas := rest } fun u =>
        ∀ i, mget (u.cell y.cell).spad.bytes i = if off ≤ i ∧ i < off + n then mget b.bytes i else mget (s.cell y.cell).spad.bytes i) ∧
      (∀ w rest, m.undoAreas = [] → m.unversion = w :: rest → goes y.svt { m with unversion := rest } fun u =>
        ∀ a v, (∃ k, (a, k) ∈ u.versions ∧ v ∈ k) ↔ (∃ k, (a, k) ∈ s.versions ∧ v ∈ k) ∧
          ¬ (a = w ∧ v.writer = some x ∧ m.undoFrom.toNat ≤ v.num.toNat)) ∧
      (∀ q rest, m.undoAreas = [] → m.unversion = [] → m.requeue = q :: rest → (∀ k, y.wait ≠ .msg k) →
        (((s.cell y.cell).room q.cls).isSome → goes y.svt { m with requeue := rest } fun u =>
          (∃ r, (u.cell y.cell).queue = (s.cell y.cell).queue ++ [{ q with reserved := r }]) ∧
          ∀ z w mask, s.bound y.cell q.cls = some z → tfind s.ctxs z = some w → w.wait = .msg mask → mask.getLsbD q.cls = true →
            ∃ v, tfind u.ctxs z = some v ∧ v.sst = .ready ∧ v.readySince = s.cyc (dieOfCell w.cell) + 1) ∧
        ((s.cell y.cell).room q.cls = none → goes y.svt m fun u => (u.cell y.cell).queue = (s.cell y.cell).queue ∧ u.flights = s.flights)) ∧
      (∀ a rest, m.undoAreas = [] → m.unversion = [] → m.requeue = [] → m.pendAnti = a :: rest → a.2.kind = 1 →
        goes (BitVec.ofNat 48 (min y.svt.toNat a.2.vrt)) { m with pendAnti := rest } fun u =>
          ∃ i f, tfind u.flights i = some f ∧ f.cell = a.1 ∧ f.msg = a.2 ∧ f.group = some m.group) ∧
      (∀ i r, m.undoAreas = [] → m.unversion = [] → m.requeue = [] → m.pendAnti = [] → m.firstUndone = some i → m.records[i]? = some r →
        ∃ u z m', exec (.rollbackSequence x) s = .next u ∧ tfind u.ctxs x = some z ∧ z.member = some m' ∧ m'.handler = true ∧
          m'.rolling = false ∧ m'.records = m.records ∧ z.rbp = m.target.isSome ∧ z.pc = m.rbh ∧ z.lvt = r.olvt ∧ z.p = r.ps ∧
          ∀ j, z.x? j = if j = 0 then 0 else if j = 10 then BitVec.ofNat 64 r.key.vrt else if j = 11 then BitVec.ofNat 64 m.nEvents
            else if j = 12 then BitVec.ofNat 64 m.nAnti else tget 0 r.xs j)) ∧
    (∀ y m q rest, tfind s.ctxs x = some y → y.member = some m → y.takesTurn = true → m.rolling = true → m.undoAreas = [] →
      m.unversion = [] → m.requeue = q :: rest → (∀ k, y.wait ≠ .msg k) → ((s.cell y.cell).room q.cls).isSome → ∃ u,
        exec (.rollbackRequeueResume x) s = .next u ∧ tfind u.ctxs x = some { y with member := some { m with requeue := rest } } ∧
        ∃ r, (u.cell y.cell).queue = (s.cell y.cell).queue ++ [{ q with reserved := r }]) ∧
    -- the lapse of the group
    (∀ y, tfind s.ctxs x = some y → y.grpLapsed = true → y.takesTurn = true → (y.trapRegs (trapLevel y.pl)).tvec ≠ 0 →
      ∃ u z, exec (.groupLapseTrap x) s = .next u ∧ tfind u.ctxs x = some z ∧ z.grpLapsed = false ∧ z.pl = trapLevel y.pl ∧
        z.pc = (y.trapRegs (trapLevel y.pl)).tvec ∧ (z.trapRegs z.pl).epc = y.pc ∧ (z.trapRegs z.pl).cause = 0x08 ∧
        (z.trapRegs z.pl).pl = y.pl ∧ (z.trapRegs z.pl).word = (s.wordAt x).2)

/-- 13 R262, R271, R274-R277: GVT. A round cuts every member cell to the new colour, takes one snapshot from each, asks again after 16
ticks while messages of the old colour are on their way, and otherwise publishes the minimum, which never lowers the published
value. A cell performs the deferred entries below it in stamp order, one at a time and one unit each, and then lapses the records,
raises `lvt` of the slots between events and writes `gvt`. -/
def Obligations.GvtRounds : Prop :=
  ∀ (g cell : Nat) (q : Group) (s : State), tfind s.groups g = some q →
    let k := (s.cell cell).group g
    let now := s.cyc q.die
    let group (t : State) (w : Group) : Prop := t = { s with groups := t.groups } ∧ tfind t.groups g = some w
    let mine := s.membersIn g cell
    ((q.phase = .idle ∨ ∃ u, q.phase = .wait u ∧ u ≤ now) → s.groupAlive q = true → s.membersOf g ≠ [] →
      ∃ t, exec (.gvtRoundStart g) s = .next t ∧ group t { q with round := q.round + 1, phase := .cutting, cut := s.maskOf g, answers := [] }) ∧
    (q.cut.contains cell = true → ∃ t, exec (.gvtCut g cell) s = .next t ∧
      tfind t.groups g = some { q with cut := q.cut.filter fun c => c ≠ cell } ∧
      (t.cell cell).group g = { k with colour := decide (q.round % 2 = 1), redMin := 2 ^ 48 - 1 } ∧
      ∀ p, p ∈ mine → ∃ y, tfind t.ctxs p.1 = some y ∧ y.svt = BitVec.allOnes 48) ∧
    ((q.phase = .cutting ∨ q.phase = .reporting) → q.cut.contains cell = false → k.inMask = true → (∀ a, a ∈ q.answers → a.cell ≠ cell) →
      ∃ t a, exec (.gvtReport g cell) s = .next t ∧ group t { q with phase := .reporting, answers := q.answers ++ [a] } ∧ a.cell = cell ∧
        a.m = k.redMin ∧ a.d = (if q.round % 2 = 1 then k.cnt0 else k.cnt1) ∧ (∀ p, p ∈ mine → a.l ≤ p.2.contribution) ∧
        ∀ m, m ∈ (s.cell cell).queue → (m.msg.kind = 1 ∧ m.group = some g) ∨ (m.cls < 12 ∧ ∃ y p, s.bound cell m.cls = some y ∧ p ∈ mine ∧ p.1 = y) → a.l ≤ m.msg.vrt) ∧
    (s.allAnswered g q = true →
      (s.oldSum g q ≠ 0 → ∃ t, exec (.gvtReportResult g) s = .next t ∧ group t { q with phase := .retry (now + 512), answers := [] }) ∧
      (s.oldSum g q = 0 → ∃ t w, exec (.gvtReportResult g) s = .next t ∧ group t w ∧ w.answers = [] ∧ q.gvt ≤ w.gvt ∧
        (q.gvt < w.gvt → w.pubTo = s.maskOf g ∧ ∀ a, a ∈ q.answers → w.gvt ≤ a.l ∧ w.gvt ≤ a.m) ∧
        (∀ v, v ≤ 2 ^ 48 - 1 → (∀ a, a ∈ q.answers → v ≤ a.l ∧ v ≤ a.m) → v ≤ w.gvt) ∧
        (s.membersOf g ≠ [] → w.phase = .wait (now + 2048)))) ∧
    (∀ u, q.phase = .retry u → u ≤ now → ∃ t, exec (.gvtReportRetry g) s = .next t ∧ group t { q with phase := .reporting }) ∧
    (q.pubTo.contains cell = true → k.pub = none → k.busy = none → s.nextDue g cell q.gvt = none → risesFrom 0 s.ctxs = true →
      ∃ t, exec (.gvtPublication g cell) s = .next t ∧ tfind t.groups g = some { q with pubTo := q.pubTo.filter fun c => c ≠ cell } ∧
        ((t.cell cell).group g).gvt = max k.gvt q.gvt ∧
        ∀ p m, p ∈ mine → p.2.member = some m → ∃ y m', tfind t.ctxs p.1 = some y ∧ y.member = some m' ∧ y.gvt = BitVec.ofNat 48 q.gvt ∧
          m'.records = m.records.filter (fun r => r.undone || !stampBelow r.stamp q.gvt) ∧
          (m.inEvent = false → m.handler = false → p.2.rbp = false → y.lvt = BitVec.ofNat 48 (max p.2.lvt.toNat q.gvt))) ∧
    (∀ v e o p c off bs, k.pub = some v → s.entryBusy k = false → s.nextDue g cell v = some e → e.act = .op o 0 p → p.op = .store bs →
      p.target = .home (.spad c off) → p.gen = none → risesFrom 0 s.ctxs = true → s.memWf = true →
      ∃ t, exec (.deferredEntryPerform g cell) s = .next t ∧
        (∀ i, i < bs.length → mget (t.cell c).spad.bytes (off + i) = bs.getD i 0) ∧
        ∀ n, (s.ctx e.ctx).entry = some n → (tget {} (t.cell cell).unsent n).units = (tget {} (s.cell cell).unsent n).units + 1)

/-- 16 R312-R317; 04 R90, R91: budgets at the Prompter. A cell sends its unsent count at 256 units or 256 cycles after the first;
every charge that has arrived is applied to the remainder and the total. A charge that takes the remainder to zero or below makes
a FUNDED entry OVERRUN and sets `tsw.bp` in each of its threads; the charge that takes the grace count to 65,536 makes the entry
SPENT, demoted and reported. A Prompter makes at most one test in a cycle. A refresh sets `bud` and `dl`; a budget request is
answered once, and its reply completes the instruction. The BUDGET trap takes the place of an issue, and uses the cell's cycle
(log 83: the model's choice). -/
def Obligations.BudgetEvents : Prop :=
  ∀ (cell die n q x : Nat) (s : State),
    (∀ u e, tfind (s.cell cell).unsent n = some u → tfind s.entries n = some e → risesFrom 0 (s.cell cell).unsent = true →
      let now := s.cyc (dieOfCell cell)
      (256 ≤ u.units ∨ u.since + 256 ≤ now → ∃ t, exec (.chargeBatchSend cell n) s = .next t ∧ tfind (t.cell cell).unsent n = none ∧
        (t.die e.die).charges = (s.die e.die).charges ++ [{ entry := n, units := u.units, rolled := u.rolled, cell := cell }]) ∧
      (u.units < 256 → now < u.since + 256 → exec (.chargeBatchSend cell n) s = .next s)) ∧
    (∃ t, exec (.chargeApply die) s = .next t ∧ (t.die die).charges = [] ∧
      ∀ e, tfind s.entries n = some e →
        let mine := (s.die die).charges.filter fun c => c.entry = n
        let sum := (mine.map fun c => c.units).sum
        ∃ f, tfind t.entries n = some f ∧ f.remain = e.remain - sum ∧ f.total = e.total + sum ∧
          f.rolled = e.rolled + (mine.map fun c => c.rolled).sum ∧
          (e.bst = .funded → e.ended = false → ∀ c, (s.die die).charges = [c] → c.entry = n →
            (0 < e.remain - c.units → f.bst = .funded) ∧
            (e.remain - c.units ≤ 0 → f.bst = .overrun ∧ f.grace = 0 ∧ ∀ i y, tfind s.ctxs i = some y → y.entry = some n →
              ∃ z, tfind t.ctxs i = some z ∧ z.bp = true)) ∧
          (e.bst = .overrun → e.ended = false → ∀ c, (s.die die).charges = [c] → c.entry = n → f.grace = e.grace + c.units ∧
            f.bst = if 65536 ≤ e.grace + c.units then .spent else .overrun)) ∧
    (∀ e, tfind s.entries n = some e → e.bst = .overrun → e.ended = false →
      (e.grace < 65536 → exec (.graceCountExhausted n) s = .next s) ∧
      (65536 ≤ e.grace → ∃ t f, exec (.graceCountExhausted n) s = .next t ∧ tfind t.entries n = some f ∧ f.bst = .spent ∧
        (e.bg = false → f.demoted = true) ∧ f.remain = e.remain ∧ (t.part e.part).vectors.head? = some 0 ∧
        t.reports = tset s.reports s.fresh
          { part := e.part, d0 := reportHead 0x0C false 3 0 0 e.die false e.tag, addr := 0, info := wrap e.remain })) ∧
    (∀ r, (s.refreshes.find? fun r => r.1 = cell && r.2.1 = n) = some r → ∃ t, exec (.budRefresh cell n) s = .next t ∧
      t.refreshes = s.refreshes.erase r ∧ ∀ i y, tfind s.ctxs i = some y → ∃ z, tfind t.ctxs i = some z ∧
        z = if y.entry = some n ∧ y.cell = cell then { y with bud := r.2.2.1, dl := r.2.2.2 } else y) ∧
    (∀ r y e, tfind s.breqs q = some r → r.answer = none → tfind s.ctxs r.ctx = some y → y.entry = some n → tfind s.entries n = some e →
      (s.die e.die).charges = [] →
      (r.budx = false →
        let figure : Word := if r.k = 0 then wrap e.remain else if r.k = 1 then BitVec.ofNat 64 e.total
          else if r.k = 2 then BitVec.ofNat 64 e.rolled else if e.bg ∨ e.demoted then wrap (-1) else BitVec.ofNat 64 e.dline
        ∃ t, exec (.bgetRequest q) s = .next t ∧ tfind t.breqs q = some { r with answer := some figure } ∧ t.entries = s.entries) ∧
      (r.budx = true → s.hasTested e.die = true → exec (.budxRequest q) s = .next s) ∧
      (r.budx = true → s.hasTested e.die = false → (∀ v, y.budxKept ≠ some (r.num, v)) →
        let code := s.budxCode n e r.units
        ∃ t f, exec (.budxRequest q) s = .next t ∧ tfind t.entries n = some f ∧
          tfind t.breqs q = some { r with answer := some (if code = 0 then 0 else BitVec.ofNat 64 (2 ^ 63 + code)) } ∧
          f.remain = e.remain + (if code = 0 then r.units.toNat else 0) ∧
          (code ≠ 0 → f.bst = if e.bst = .overrun then .spent else e.bst)) ∧
      (r.budx = true → s.hasTested e.die = false → ∀ v, y.budxKept = some (r.num, v) → ∃ t, exec (.budxRequest q) s = .next t ∧
        tfind t.breqs q = some { r with answer := some v } ∧ t.entries = s.entries)) ∧
    (∀ r v y, tfind s.breqs q = some r → r.answer = some v → tfind s.ctxs r.ctx = some y → y.wait = .budget q → ∃ t z,
      exec (.budgetReplyArrival q) s = .next t ∧ tfind t.ctxs r.ctx = some z ∧ z.pc = y.pc + 4 ∧ z.wait = .none ∧
        z.budxNum = (if r.budx then y.budxNum + 1 else y.budxNum) ∧
        ∀ k : BitVec 5, z.x? k.toNat = if k = r.xd ∧ k ≠ 0 then v else y.x? k.toNat) ∧
    (∀ y, tfind s.ctxs x = some y → (y.budgetTurn = false → exec (.budgetTrap x) s = .next s) ∧
      (y.budgetTurn = true → (y.trapRegs (trapLevel y.pl)).tvec ≠ 0 → ∃ t z, exec (.budgetTrap x) s = .next t ∧ tfind t.ctxs x = some z ∧
        z.bp = false ∧ z.pl = trapLevel y.pl ∧ z.pc = (y.trapRegs (trapLevel y.pl)).tvec ∧ z.place = .slot ∧ z.vsctDone = y.vsctDone ∧
        z.trapRegs z.pl = { epc := y.pc, pl := y.pl, cause := 0x0C, word := 0, addr := y.bud, tvec := z.pc } ∧
        (∀ k, z.x? k = y.x? k) ∧ t.entries = s.entries ∧ (y.place = .slot → ∀ c, t.cell c = if c = y.cell then
          { s.cell c with issued := tset (s.cell c).issued y.slot (s.cyc (dieOfCell c)) } else s.cell c)))

/-- 09 R203, R204; 15 R296-R307; 16 R319-R323; 21 R374: queues, placement and slots. Writes of the queue registers follow R296, and
R319 for the save area; the Prompter tests one entry in a cycle, writes its answer, 0 or the code of the first condition of R302
that holds, and advances the head; a list record that cannot be read counts as malformed (log 22: the model's choice). The first
entry in dispatch order that wants slots of a cell and can proceed has its threads placed, with their placement words, or its
oldest image restored, or pre-empts as many threads of later entries as it lacks slots, the latest entry's and then the highest
slot's first; a vacated slot leaves its image in the Understudy cache. An event reaches a context that is not resident in its
image, by a step of the unit that it comes from, and only where it is on its way. -/
def Obligations.QueuesAndSlots : Prop :=
  ∀ (part die cell n x slot : Nat) (v : Word) (op : BitVec 3) (ev : SavedEvent) (s : State),
    let p := s.pdie part die
    let now := s.cyc (dieOfCell cell)
    let sets (i : Instr) (r : PartDie) : Prop := ∃ t, exec i s = .next t ∧ t = { s with parts := t.parts } ∧
      ∀ a b, t.pdie a b = if a = part ∧ b = die then r else s.pdie a b
    ((s.part part).flr = none →
      sets (.qtailWrite part die v) (if 256 < (v.toNat % 512 + 512 - p.qhead.toNat) % 512 then { p with ovf := true }
        else { p with qtail := BitVec.ofNat 9 (v.toNat % 512) }) ∧
      sets (.qbaseWrite part die v) (if p.qtail = p.qhead then { p with qbase := v.toNat / 2 ^ 16 % 2 ^ 32 * 2 ^ 16 } else p) ∧
      sets (.sabaseWrite part die v) (if p.saved = [] then
        { p with sabase := v.toNat / 2 ^ 16 % 2 ^ 32 * 2 ^ 16, sasize := v.toNat / 2 ^ 48 % 2 ^ 12, saStop := false } else p)) ∧
    (s.house ≠ 0 → die < 4 → part < 64 → sets (.mqpolWrite die part v)
      (let a := v.toNat % 2 ^ 9
       let b := v.toNat / 2 ^ 9 % 2 ^ 5
       let c := v.toNat / 2 ^ 16 % 2 ^ 11
       { p with share := if a ≤ 256 then a else p.share, lf := if b ≤ 16 then b else p.lf, slotcap := if c ≤ 1920 then c else p.slotcap })) ∧
    -- the tests of an admission, for the entry whose 128 bytes are the number r (15 R302, R303)
    (let sound (u : State) : Prop := risesFrom 0 u.leases = true ∧ risesFrom 0 u.entries = true ∧ (∀ e, e ∈ u.entries → e.1 < u.fresh ∧
       (e.2.die = die → e.2.order < (u.die die).admitted)) ∧
       (∀ e f, e ∈ u.entries → f ∈ u.entries → e.2.die = f.2.die → e.2.order = f.2.order → e = f) ∧
       ∀ e, e ∈ u.leases → e.2.obj = .root part → e.2.home = die → e.2.part = part ∧ e.2.parent = none ∧
         ∀ f, f ∈ u.leases → f.2.obj = .root part → f.2.home = die → e = f
     let refuses (u : State) (r k : Nat) : Prop :=
       let f (lo w : Nat) : Nat := r / 2 ^ lo % 2 ^ w
       let named (c : Nat) : Prop := 128 * die ≤ c ∧ c < 128 * die + 128 ∧ r.testBit (128 + c % 128) = true
       let cells := (List.range 128).countP fun c => r.testBit (128 + c)
       let pd := u.pdie part die
       let lla := f 448 48
       let llc := f 496 4
       let dlc := f 500 12
       let handle : Word := BitVec.ofNat 64 (f 384 64)
       let ring (c : Nat) (P : Nat → Lease → Prop) : Prop := ∃ g o, g ∈ u.leases ∧ g.2.obj = .ring o (c / 8) ∧ g.2.home = die ∧ P o g.2
       let record (i : Nat) (P : (Nat → Nat → Nat) → Prop) : Prop :=
         ∃ v bs, u.homeRead (.mem (spaceOf part) (lla + 16 * i)) 16 = .ok (v, bs) ∧ P fun lo w => leNat bs / 2 ^ lo % 2 ^ w
       let leaseOk (g : Nat → Nat → Nat) : Prop :=
         let o := g 64 64
         let base := o / 4096 * 4096
         g 32 32 ≠ 0 ∧ g 16 4 < f 0 4 ∧ (g 8 8 = 0xFF ∨ g 8 8 < cells) ∧
           ((g 0 8 = 2 ∧ o % 4096 / 256 = 0 ∧ Config.viewBase ≤ base ∧ base + (o % 256 + 1) * 4096 ≤ Config.viewBase + Config.viewSize) ∨
             (g 0 8 = 3 ∧ o < 4) ∨ (g 0 8 = 4 ∧ o < 16))
       let dataOk (g : Nat → Nat → Nat) : Prop := g 84 21 ≠ 0 ∧ g 64 20 + g 84 21 ≤ 0x10_0000 ∧ 2 ^ 32 ≤ g 0 48 ∧
         g 0 48 + g 84 21 ≤ 2 ^ 48 ∧ (g 105 8 = 0xFF ∨ g 105 8 < cells)
       let t0 := u.ref die
       let D := t0 + f 256 32
       let deadlines := u.entries.filter fun e => e.2.part = part && e.2.die = die && !e.2.ended && !e.2.demoted && !e.2.bg
       let upTo (d o : Nat) : Int := (deadlines.map fun e =>
         if e.2.dline < d ∨ (e.2.dline = d ∧ e.2.order ≤ o) then max 0 e.2.remain else 0).sum
       let beyond (sum : Int) (d : Nat) : Prop := 32 * (u.ringCells part die : Int) * pd.share * pd.lf * ((d : Int) - t0) < sum * 4096
       (k = 1 ∧ ((∀ g, g ∈ u.leases → g.2.obj = .root part → g.2.home = die → g.2.alive = false) ∨
         (handle ≠ 0 ∧ (badHandle handle = true ∨ ∀ n l, u.leaseOf handle die = some (n, l) → l.alive = false)))) ∨
       (k = 2 ∧ ∃ c, named c ∧ ring c fun _ l => l.st = .lapsing ∨ l.st = .scrubbing) ∨
       (k = 3 ∧ (f 0 4 = 0 ∨ cells = 0 ∨ (∃ c, named c ∧ ¬ ring c fun o l => o = part ∧ l.alive = true) ∨
         (0 < llc + dlc ∧ (lla % 16 ≠ 0 ∨ lla < 2 ^ 32 ∨ 2 ^ 48 < lla + 16 * (llc + dlc) ∨ (∃ i, i < llc ∧ ¬ record i leaseOk) ∨
           ∃ i, i < dlc ∧ ¬ record (llc + i) dataOk)) ∨
         (handle ≠ 0 ∧ ∃ n l, u.leaseOf handle die = some (n, l) ∧ (l.part ≠ part ∨ 4 < u.depthOf 8 n + 1)))) ∨
       (k = 4 ∧ (pd.share = 0 ∨ pd.slotcap < ((u.unended part die).map fun e => e.2.q * e.2.cells.length).sum + f 0 4 * cells)) ∨
       (k = 5 ∧ (256 ≤ (u.unended part die).length ∨ 2 ^ 15 ≤ u.used (homePrompter die) fun j => j = 1)) ∨
       (k = 6 ∧ (f 320 48 = 0 ∨ f 288 32 = 0)) ∨ (k = 7 ∧ f 256 32 = 0) ∨
       (k = 8 ∧ (beyond (upTo D (u.die die).admitted + f 320 48) D ∨
         ∃ e, e ∈ deadlines ∧ D < e.2.dline ∧ beyond (upTo e.2.dline e.2.order + f 320 48) e.2.dline))
    -- one entry is tested, in a cycle
     (s.hasTested die = true → exec (.queueEntryTest part die) s = .next s) ∧
     (s.rdy = true → die < 4 → s.hasTested die = false → p.qtail ≠ p.qhead → s.memWf = true → ∀ u bs,
      let i := p.qhead.toNat % 256
      (s.applyCharges die).homeRead (.mem (spaceOf part) (p.qbase + 128 * i)) 128 = .ok (u, bs) → sound u →
      let bits (lo w : Nat) : Nat := leNat bs / 2 ^ lo % 2 ^ w
      let tests := if bits 5 1 = 1 then 6 else 8
      ∃ t code, (∀ k, 1 ≤ k → k ≤ tests → refuses u (leNat bs) k → (∀ j, 1 ≤ j → j < k → ¬ refuses u (leNat bs) j) →
          code = [7, 8, 6, 5, 4, 3, 2, 1].getD (k - 1) 0) ∧
        ((∀ k, 1 ≤ k → k ≤ tests → ¬ refuses u (leNat bs) k) → code = 0) ∧ exec (.queueEntryTest part die) s = .next t ∧ (t.pdie part die).qhead = p.qhead + 1 ∧
        (t.part part).vectors.head? = some (1 + die) ∧
        ((∃ g, u.backed (spaceOf part) (p.qbase + 0x8000 + 32 * i) = .ok g) →
          ∀ w, t.numAt (.mem (spaceOf part) (p.qbase + 0x8000 + 32 * i)) 8 = some w →
          w = (code + bits 48 16 * 2 ^ 48) % 2 ^ 64) ∧
        (code ≠ 0 → t.entries = u.entries) ∧
        (code = 0 → ∃ e, tfind t.entries u.fresh = some e ∧ e.part = part ∧ e.die = die ∧ e.q = bits 0 4 ∧ e.pl.toNat = bits 4 1 ∧
          e.tag.toNat = bits 48 16 ∧ e.pc.toNat = bits 64 48 / 4 * 4 ∧ e.remain = bits 320 48 ∧ e.life = bits 288 32 ∧ e.bst = .funded ∧
          (∀ c, c ∈ e.cells ↔ 128 * die ≤ c ∧ c < 128 * die + 128 ∧ (leNat bs).testBit (128 + c % 128) = true) ∧
          ∃ l, tfind t.leases e.lease = some l ∧ l.obj = .context u.fresh ∧ l.expiry = u.ref die + e.life ∧ l.alive = true))) ∧
    -- a cell's slots are assigned, in the dispatch order (15 R305, R306)
    (let dl (e : Entry) : Bool := !e.bg && !e.demoted
     let ahead (e f : Entry) : Bool := if dl e ≠ dl f then dl e else
       if dl e then decide (e.dline < f.dline ∨ (e.dline = f.dline ∧ e.order < f.order)) else decide (e.order < f.order)
     let runs (u : State) (e : Nat × Entry) : Bool := u.entries.contains e && e.2.die = dieOfCell cell && !e.2.ended &&
       !(u.part e.2.part).quiescing
     let saved (u : State) (e : Nat × Entry) : Option Nat := u.oldestSaved cell e.1
     let need (u : State) (e : Nat × Entry) : Nat := if (saved u e).isSome then 1 else
       if e.2.cells.contains cell && !e.2.placed.contains cell && !(e.2.heldBack.any fun h => h.1 = cell) then e.2.q else 0
     let has (u : State) (e : Nat × Entry) : Nat := (u.slotsFor cell e.1).length
     let lacks (u : State) (e : Nat × Entry) : Nat := need u e - (has u e + (u.vacatingFor cell e.1 - (u.handedSlots cell e.1).length))
     let victims (u : State) (e : Nat × Entry) : List (Nat × Ctx) := (u.inCell cell).filter fun y =>
       y.2.vacating.isNone && !y.2.restoring && u.entries.any fun f => runs u f && ahead e.2 f.2 && y.2.entry = some f.1
     let taken (u : State) (z y : Nat × Ctx) : Bool := (z.2.entry = y.2.entry && decide (y.2.slot < z.2.slot)) ||
       u.entries.any fun f => u.entries.any fun g => z.2.entry = some f.1 && y.2.entry = some g.1 && ahead g.2 f.2
     let preempts (u : State) (e : Nat × Entry) : Bool := dl e.2 && decide (0 < lacks u e) && decide (lacks u e ≤ (victims u e).length) &&
       decide (lacks u e ≤ u.imagePlaces cell)
     let first (u : State) (e : Nat × Entry) : Prop := runs u e = true ∧ need u e ≠ 0 ∧
       ∀ f, runs u f = true → ahead f.2 e.2 = true → need u f = 0 ∨ (has u f < need u f ∧ preempts u f = false)
     let ordered (u : State) : Prop := risesFrom 0 u.entries = true ∧
       (∀ e f, e ∈ u.entries → f ∈ u.entries → e.2.die = f.2.die → e.2.order = f.2.order → e = f) ∧
       ∀ y z, y ∈ u.inCell cell → z ∈ u.inCell cell → y.2.slot = z.2.slot → y = z
     let freed := s.returnSlots cell
     let placing (i : Instr) (u : State) : Prop := ∀ e, ordered u → first u (n, e) → saved u (n, e) = none → need u (n, e) ≤ has u (n, e) →
       e.llc = 0 → e.dlc = 0 → e.seeds = [] →
       ∃ t, exec i s = .next t ∧ (∃ f, tfind t.entries n = some f ∧ f.placed = e.placed ++ [cell]) ∧
         ∀ k sl, k < e.q → (u.slotsFor cell n)[k]? = some sl → ∃ c, tfind t.ctxs (u.fresh + k) = some c ∧ c.cell = cell ∧ c.slot = sl ∧
           c.entry = some n ∧ c.part = e.part ∧ c.sid.toNat = (e.part * 1024 + if e.pl = 2 then 1 else 0) % 2 ^ 16 ∧ c.pc = e.pc ∧ c.pl = e.pl ∧ c.tag = e.tag ∧
           (∀ r, c.x? r = if r = 31 then placementWord cell sl ((e.cells.findIdx? fun m => m = cell).getD 0) k e.cells.length e.q else 0) ∧
           (∀ r, c.v? r = 0) ∧ (∀ r, c.c? r = {}) ∧ c.t1.tvec = (u.part e.part).ptvec ∧ c.t2.tvec = (u.die e.die).tvec2
     let back (i : Instr) (u : State) : Prop := ∀ e c k, tfind u.ctxs x = some c → c.entry = some n → c.cell = cell → ordered u →
       first u (n, e) → saved u (n, e) = some x → (u.slotsFor cell n).head? = some k → u.inSlot cell k = none → ∃ t d, exec i s = .next t ∧ tfind t.ctxs x = some d ∧
         d = { c with
           place := .slot, slot := k, sst := .switching, restoring := true, vacating := none, switchEnd := some (now + 32)
           poisoned := d.poisoned } ∧ (c.place ≠ .saveArea → d.poisoned = c.poisoned) ∧
         x ∉ (t.cell cell).understudy
     let asked (i : Instr) (u : State) : Prop := ∀ e c, tfind u.ctxs x = some c → c.cell = cell → ordered u → first u (n, e) →
       has u (n, e) < need u (n, e) → preempts u (n, e) = true → (x, c) ∈ victims u (n, e) →
       ((victims u (n, e)).filter fun z => taken u z (x, c)).length < lacks u (n, e) →
       ∃ t, exec i s = .next t ∧ tfind t.ctxs x = some { c with vacating := some n }
     placing (.cellPlacement n cell) s ∧ placing (.slotAssignment cell) freed ∧ back (.contextRestore x) s ∧
       back (.slotAssignment cell) freed ∧ asked (.preemptionRequest x) s ∧ asked (.slotAssignment cell) freed ∧
       (ordered freed → (∀ e, runs freed e = true → need freed e = 0 ∨ (has freed e < need freed e ∧ preempts freed e = false)) →
         exec (.slotAssignment cell) s = .next freed)) ∧
    (∀ c, tfind s.ctxs x = some c → c.cell = cell → c.vacating = some n → c.place = .slot → c.sst ≠ .switching → s.mustFinish c = false →
      (s.cell cell).understudy.length < 48 → ∃ t d, exec (.vacatePoint x) s = .next t ∧ tfind t.ctxs x = some d ∧ d.sst = .switching ∧
        d.switchEnd = some (now + 32) ∧ d.savedHalted = decide (c.sst = .halted) ∧ (∀ r, d.x? r = c.x? r) ∧ d.pc = c.pc ∧
        (t.cell cell).understudy = (s.cell cell).understudy ++ [x]) ∧
    (∀ c, tfind s.ctxs x = some c →
      (c.resident = true → exec (.savedContextEvent x ev) s = .next s) ∧
      (c.resident = false →
        let brings (f : State → Host.Outcome State Fault Refusal) (t : State) : Prop := f ∈ s.bringers x c ev ∧ f s = .next t ∧ t ≠ s ∧
          ∃ y, tfind t.ctxs x = some y ∧ c.shows ev y = true
        ((∃ f t, brings f t) → ∃ f t, exec (.savedContextEvent x ev) s = .next t ∧ brings f t) ∧
        ((∀ f t, ¬ brings f t) → exec (.savedContextEvent x ev) s = .next s)) ∧
      (c.resident = false → c.entry = some n → ∀ r, (s.refreshes.find? fun r => r.1 = c.cell && r.2.1 = n) = some r →
        let seen (i : Instr) : Prop := ∃ t, exec i s = .next t ∧ t.refreshes = s.refreshes.erase r ∧
          tfind t.ctxs x = some { c with bud := r.2.2.1, dl := r.2.2.2 }
        seen (.savedContextEvent x (.bud r.2.2.1)) ∧ seen (.savedContextEvent x (.dl r.2.2.2)))) ∧
    (∀ c, s.house ≠ 0 → die < 4 → cell < 512 → slot < 16 → s.inSlot cell slot = some x → tfind s.ctxs x = some c → c.cell = cell →
      c.sst = .halted → ∃ t, exec (.debugResume die cell slot) s = .next t ∧
        tfind t.ctxs x = some { c with sst := .ready, shown := .halted, readySince := now + 1 }) ∧
    exec (.debugCommandIgnored die op) s = .next s

/-- 05 R95, R104, R111; 08 R195; 14 R279-R284, R289, R290; 18 R343: requests on their way. A request goes through the switch queues of
its way, each at the head of its queue; at its home it is judged and performed or refused once. A posted atomic on partition
memory runs as a remote-update thread in a guest slot, one issue of a core in a cycle, and is charged. Two adds, or two minimums,
of one word combine in a switch: the first gets the old value, the second what the first left; of those that arrive in one cycle
the one from the lower input port is first. A reply completes the waiting instruction, or traps; an acknowledgement lowers the
count; a refused posted operation is reported and lowers it when its report is in the fault queue and no class 14 report of it
waits in the store. -/
def Obligations.PacketEvents : Prop :=
  ∀ (n m : Nat) (p b : Packet) (s : State), tfind s.packets n = some p → s.memWf = true → risesFrom 0 s.packets = true →
    let goes (i : Instr) (q : Packet) (P : State → Prop) : Prop := ∃ t, exec i s = .next t ∧ t.packets = tset s.packets n q ∧ P t
    let takes (l : Loc) (k : Nat) : Prop := ∀ space va, l = .mem space va →
      s.HomeTakes space va ∧ s.inFaultRing space va k = false ∧ va % 128 + k ≤ 128
    let memOnly (t : State) : Prop := t = { s with dies := t.dies, cells := t.cells, packets := t.packets }
    -- at a home
    (p.st = .travelling → s.atHome n p = true → s.behind n = false →
      (∀ l, p.target = .home l → p.op.isBarrier = false → p.isUpdate = false →
        (∀ e, s.judgePacket p l = some e → exec (.homeAccessArrival n) s =
          .next { s with packets := tset s.packets n { p with st := .refused e } }) ∧
        (s.judgePacket p l = none →
          (∀ k sg x, p.op = .load k sg → k ≤ 8 → 0 < k → takes l k → s.numAt l k = some x → goes (.homeAccessArrival n)
            { p with st := .performed (if sg then (BitVec.ofNat (8 * k) x).signExtend 64 else BitVec.ofNat 64 x) 0 }
            fun t => memOnly t ∧ OnlyAt s t l 0) ∧
          (∀ bs, p.op = .store bs → takes l bs.length → s.numAt l bs.length ≠ none → goes (.homeAccessArrival n)
            { p with st := .performed 0 0 } fun t => memOnly t ∧ OnlyAt s t l bs.length ∧ t.numAt l bs.length = some (leNat bs)) ∧
          (∀ x, p.op = .take → takes l 8 → s.numAt l 8 = some x → goes (.homeAccessArrival n)
            { p with st := .performed (BitVec.ofNat 64 x) 0 } fun t => memOnly t ∧ OnlyAt s t l 0 ∧ t.fullAt l = some false) ∧
          (∀ v, p.op = .give v → takes l 8 → s.numAt l 8 ≠ none → goes (.homeAccessArrival n) { p with st := .performed 0 0 }
            fun t => memOnly t ∧ OnlyAt s t l 8 ∧ t.fullAt l = some true ∧ t.numAt l 8 = some v.toNat) ∧
          (∀ f ty x e old, p.op = .amo f ty x e → let k := if ty = 1 then 8 else 4; takes l k → s.numAt l k = some old →
            goes (.homeAccessArrival n) { p with st := .performed (BitVec.ofNat 64 old) (amoNew f ty old x.toNat e.toNat).2 }
              fun t => memOnly t ∧ OnlyAt s t l k ∧ t.numAt l k = some (amoNew f ty old x.toNat e.toNat).1))) ∧
      (p.isUpdate = true → exec (.homeAccessArrival n) s =
        .next { s with packets := tset s.packets n { p with st := .queued, place := none } })) ∧
    (p.st ≠ .travelling ∨ s.atHome n p = false ∨ s.behind n = true → exec (.homeAccessArrival n) s = .next s) ∧
    -- a remote-update thread
    (∀ space va f ty x e pg, p.st = .queued → s.behind n = false → p.target = .home (.mem space va) → p.op = .amo f ty x e →
      s.page space va = some pg →
      (32 ≤ s.guestsOf pg.core ∨ s.coreBusy pg.core = true → exec (.remoteUpdateThread n) s = .next s) ∧
      (s.guestsOf pg.core < 32 → s.coreBusy pg.core = false → s.judgePacket p (.mem space va) = none → ∀ old,
        let k := if ty = 1 then 8 else 4
        takes (.mem space va) k → s.numAt (.mem space va) k = some old →
        goes (.remoteUpdateThread n) { p with st := .performed (BitVec.ofNat 64 old) (amoNew f ty old x.toNat e.toNat).2 } fun t =>
          t.numAt (.mem space va) k = some (amoNew f ty old x.toNat e.toNat).1 ∧ t.cells = s.cells ∧ t.coreBusy pg.core = true ∧
          ∀ y w, p.entry = some y → tfind s.entries y = some w →
            (t.die w.die).charges = (s.die w.die).charges ++ [{ entry := y, units := 1, cell := 512 + pg.core }])) ∧
    -- barrier events
    (∀ rem exp phase ov bytes rest : Nat, ∀ h : Loc, p.st = .travelling → s.atHome n p = true → s.behind n = false →
      p.target = .home h → s.judgePacket p h = none →
      (∀ space va, h = .mem space va → va % 16 = 0 ∧ s.judge space (va + 8) = s.judge space va) → takes h 16 →
      rem < 2 ^ 32 → exp < 2 ^ 16 → phase < 2 ^ 15 → ov < 2 → bytes < 2 ^ 32 → rest < 2 ^ 32 →
      s.numAt h 8 = some (rem + exp * 2 ^ 32 + phase * 2 ^ 48 + ov * 2 ^ 63) → s.numAt (h.plus 8) 8 = some (bytes + rest * 2 ^ 32) →
      let block (t : State) (rem' phase' ov' bytes' : Nat) : Prop := OnlyAt s t h 16 ∧
        t.numAt h 8 = some (rem' + exp * 2 ^ 32 + phase' * 2 ^ 48 + ov' * 2 ^ 63) ∧ t.numAt (h.plus 8) 8 = some (bytes' + rest * 2 ^ 32)
      let ovr (t : State) (o : Bool) : Prop := if o then ∃ r, t.reports = tset s.reports s.fresh r ∧ r.d0.toNat % 2 ^ 8 = 0x0F
        else t.reports = s.reports
      (∀ aw, p.op = .arrive aw → p.copy = none →
        goes (.barrierArrival n) { p with st := .performed (BitVec.ofNat 64 phase) 0 } fun t => ovr t (rem = 0) ∧
          (rem = 0 → block t 0 phase 1 bytes) ∧ (rem = 1 → bytes = 0 → block t exp ((phase + 1) % 2 ^ 15) ov 0) ∧
          (rem ≠ 0 → rem ≠ 1 ∨ bytes ≠ 0 → block t (rem - 1) phase ov bytes)) ∧
      (∀ k, p.op = .declare k → p.copy = none →
        goes (.barrierDeclaration n) { p with st := .performed 0 0 } fun t => ovr t (0xFFFF_FFFF < bytes + k) ∧
          if 0xFFFF_FFFF < bytes + k then block t rem phase 1 0xFFFF_FFFF else block t rem phase ov (bytes + k)) ∧
      (∀ k tag, p.op = .bytes k → p.copy = some tag → ∃ t, exec (.barrierByteReport n) s = .next t ∧
        t.packets = tdel s.packets n ∧ ovr t (bytes < k) ∧
          let o := if bytes < k then 1 else ov
          if rem = 0 ∧ bytes ≤ k ∧ bytes ≠ 0 then block t exp ((phase + 1) % 2 ^ 15) o 0 else block t rem phase o (bytes - k))) ∧
    -- a switch of the way
    (∀ hop w, tfind s.packets m = some b → b.st = .travelling → b.toPeer = false → s.mayMove m b = true → s.nextHop b = some hop →
      let here (o : Nat) : SwitchPlace :=
        { stage := hop.1, die := hop.2.1, out := hop.2.2, input := inputOf b, cyc := s.cyc hop.2.1, order := o }
      (s.partnerOf m b hop = none ∨ 256 ≤ s.waitBuffers hop → exec (.fabricRequestAtSwitch m) s =
        .next { s with fresh := s.fresh + 1, packets := tset s.packets m { b with place := some (here s.fresh) } }) ∧
      (∀ f ty x y e g, s.partnerOf m b hop = some (n, p, w) → s.waitBuffers hop < 256 → p.op = .amo f ty x e → b.op = .amo f ty y g →
        let k := if ty = 1 then 64 else 32
        let sum := BitVec.ofNat k (x.toNat + y.toNat)
        let small := if (BitVec.ofNat k x.toNat).slt (BitVec.ofNat k y.toNat) then BitVec.ofNat k x.toNat else BitVec.ofNat k y.toNat
        let v := BitVec.ofNat 64 (if f = 0 then sum else small).toNat
        let mate (i j c : Nat) (z : Word) : Mate :=
          { pkt := i, v := z, stage := hop.1, die := hop.2.1, out := hop.2.2, input := j, cyc := c }
        let first : Prop := w.cyc = s.cyc hop.2.1 ∧ inputOf b < w.input
        let later (d : Mate) : Prop := (d.stage, d.die, d.out) = hop ∧ d.cyc = s.cyc hop.2.1 ∧ inputOf b < d.input
        let joins (a : Packet) (i : Nat) (q : Packet) (j : Nat) : Prop := ∃ t, exec (.fabricRequestAtSwitch m) s = .next t ∧
          t = { s with packets := t.packets } ∧ tfind t.packets i = some a ∧ tfind t.packets j = some { q with st := .combined, place := none }
        let here := mate m (inputOf b) (s.cyc hop.2.1)
        (¬ first → (∀ d, d ∈ p.mates → ¬ later d) →
          joins { p with op := .amo f ty v e, mates := p.mates ++ [here x] } n b m) ∧
        (¬ first → ∀ l d q, p.mates = l ++ d :: q → (∀ k, k ∈ l → ¬ later k) → later d →
          let with_ (k : Mate) : Mate := { k with v := combineVal f ty k.v y }
          joins { p with op := .amo f ty v e, mates := l ++ here d.v :: with_ d :: q.map with_ } n b m) ∧
        (first → (∀ d, d ∈ b.mates → (d.stage, d.die, d.out) ≠ hop) →
          joins { b with
            op := .amo f ty v g, mates := b.mates ++ [mate n w.input w.cyc y], place := some { w with input := inputOf b } } m p n))) ∧
    (∀ f ty z e v x fl d, p.op = .amo f ty z e → tfind s.packets m = some b → n ≠ m → p.mates = [d] → d.pkt = m → d.v = x →
      (p.st = .performed v fl → f = 0 ∨ f = 1 → ty ≠ 2 → ∃ t, exec (.combinedReplySplit n) s = .next t ∧
        tfind t.packets n = some { p with mates := [] } ∧
        let w := if ty = 1 then 64 else 32
        let sum := BitVec.ofNat w (v.toNat + x.toNat)
        let small := if (BitVec.ofNat w v.toNat).slt (BitVec.ofNat w x.toNat) then BitVec.ofNat w v.toNat else BitVec.ofNat w x.toNat
        tfind t.packets m = some { b with st := .performed (BitVec.ofNat 64 (if f = 0 then sum else small).toNat) 0 }) ∧
      (∀ e, p.st = .refused e → ∃ t, exec (.combinedReplySplit n) s = .next t ∧ tfind t.packets n = some { p with mates := [] } ∧
        tfind t.packets m = some { b with st := .refused e })) ∧
    -- replies
    (∀ c, tfind s.ctxs p.ctx = some c → p.mates = [] →
      (p.posted = false → p.copy = none → c.wait = .access n →
        (∀ v fl, p.st = .performed v fl → p.op ≠ .arrive true → ∃ t z, exec (.accessReply n) s = .next t ∧ tfind t.packets n = none ∧
          tfind t.ctxs p.ctx = some z ∧ z.pc = c.pc + 4 ∧ z.wait = .none ∧ z.fflags = c.fflags ||| fl ∧ (∀ k, z.v? k = c.v? k) ∧
          ∀ k : BitVec 5, z.x? k.toNat = match p.op.resultOf v with
            | some r => if k = p.xd ∧ k ≠ 0 then r else c.x? k.toNat
            | none => c.x? k.toNat) ∧
        (∀ e, p.st = .refused e → (c.trapRegs (trapLevel c.pl)).tvec ≠ 0 → ∃ t z, exec (.accessReply n) s = .next t ∧
          tfind t.packets n = none ∧ tfind t.ctxs p.ctx = some z ∧ z.pl = trapLevel c.pl ∧ (∀ k, z.x? k = c.x? k) ∧
          z.pc = (c.trapRegs z.pl).tvec ∧ (z.trapRegs z.pl).cause = e.zeroExtend 13 ∧ (z.trapRegs z.pl).addr = p.ea ∧
          (z.trapRegs z.pl).epc = c.pc)) ∧
      (p.posted = true →
        let counted := if p.stamp.isSome then c else c.bumpPst p.cls false
        (∀ v fl, p.st = .performed v fl → ∃ t z, exec (.postedAck n) s = .next t ∧ tfind t.packets n = none ∧
          tfind t.ctxs p.ctx = some z ∧ z = { counted with
            mfl := c.mfl ||| fl, drops := z.drops, sst := z.sst, shown := z.shown, readySince := z.readySince }) ∧
        let counts (z y : Ctx) : Prop := z.pst0 = y.pst0 ∧ z.pst1 = y.pst1 ∧ z.pst2 = y.pst2 ∧ z.ownPosted = y.ownPosted
        let marks (z : Ctx) (e : Byte) : Prop := z.drops = if p.stamp.isSome then c.drops else c.drops ++ [⟨e, p.ea, p.cls⟩]
        (∀ e, p.st = .refused e →
          let stored : Prop := (e = 0x08 ∨ e = 0x09) ∧ (∃ l y, s.binding c.cell 14 = some (l, y) ∧ s.residentCtx y = false) ∧
            (s.cell c.cell).gstore.length < 64
          (stored → ∃ t z f, exec (.postedRefusalReport n) s = .next t ∧ tfind t.packets n = some { p with st := .reported } ∧
            tfind t.ctxs p.ctx = some z ∧ marks z e ∧ counts z c ∧ (t.cell c.cell).gstore = (s.cell c.cell).gstore ++ [f] ∧ f.pkt = some n) ∧
          (¬ stored → s.reportStored n = false → ∃ t z, exec (.postedRefusalReport n) s = .next t ∧ tfind t.packets n = none ∧
            tfind t.ctxs p.ctx = some z ∧ marks z e ∧ counts z counted ∧
            (c.part = p.part → risesFrom 0 s.reports = true → (∀ r, r ∈ s.reports → r.1 < s.fresh) →
              tfind t.reports s.fresh = none))) ∧
        (p.st = .reported → (s.reportStored n = true → exec (.postedRefusalReport n) s = .next s) ∧
          (s.reportStored n = false → ∃ t z, exec (.postedRefusalReport n) s = .next t ∧ tfind t.packets n = none ∧
            tfind t.ctxs p.ctx = some z ∧ counts z counted ∧ z.drops = c.drops))))

/-- 10 R213-R215, R218, R219; 17 R336; 19 R352: the caches between instructions. The end of a read lease and an eviction send a line's
dirty bytes home and drop it; 4,096 cycles dirty send them home and leave the line shared with a fresh read lease. L2 does not
choose to evict a line of a resident range, writes back a dirty one, and fills a line under its one name. A full slice of 1.5 MiB
first evicts as many lines as the new one and the versions need: which ones is the slice's own choice, and the model takes the
lowest addresses first, and lines of resident ranges only when no other is left (log 12: the model's choice). A refused write-back
drops the line and is reported, with the address of the store (log 69). And 04 R84; 05 R97, R99, R112; 09 R206: the release of a
parked slot, the retry after a back-off, the tick of an `idle`: the instruction is tried again at once. -/
def Obligations.CacheEventsAndReleases : Prop :=
  ∀ (cell id die pa x : Nat) (sid : BitVec 16) (va : Word) (s : State), s.memWf = true →
    let now := s.cyc (dieOfCell cell)
    -- L1
    (∀ l, tfind (s.cell cell).l1 id = some l → risesFrom 0 (s.cell cell).l1 = true → l.va % 128 = 0 → l.data.poison = [] →
      let space := l.sid.toNat
      s.HomeTakes space l.va → s.inFaultRing space l.va 128 = false → (∀ k, k < 128 → s.judge space (l.va + k) = s.judge space l.va) →
      (∀ k, k < 128 → s.homeByte space (l.va + k) ≠ none) →
      let home (t : State) : Prop := t = { s with cells := t.cells, dies := t.dies, stamp := t.stamp } ∧
        (∀ n, t.cell n = { s.cell n with l1 := (t.cell n).l1 }) ∧ ∀ k, k < 128 → t.homeByte space (l.va + k) =
          if l.dirty.getLsbD k then some (mget l.data.bytes k) else s.homeByte space (l.va + k)
      let gone (i : Instr) : Prop := ∃ t, exec i s = .next t ∧ home t ∧
        ∀ c k, tfind (t.cell c).l1 k = if c = cell ∧ k = id then none else tfind (s.cell c).l1 k
      let stays (i : Instr) : Prop := ∃ t m, exec i s = .next t ∧ home t ∧ (∀ c k, tfind (t.cell c).l1 k =
          if c = cell ∧ k = id then some m else tfind (s.cell c).l1 k) ∧
        m = { l with data := m.data, valid := BitVec.allOnes 128, dirty := 0, stores := [], leaseEnd := now + 4096, fill := m.fill
                     guarded := (s.cell cell).guarded l.sid l.part l.va } ∧
        ∀ k, k < 128 → some (mget m.data.bytes k) = t.homeByte space (l.va + k)
      (l.guarded = false → l.leaseEnd ≤ now → gone (.l1ReadLeaseEnd cell id)) ∧
      (l.guarded = true ∨ now < l.leaseEnd → exec (.l1ReadLeaseEnd cell id) s = .next s) ∧
      (l.guarded = false → l.dirty ≠ 0 → l.dirtySince + 4096 ≤ now → stays (.dirtyLineTimeout cell id)) ∧
      (l.guarded = true ∨ l.dirty = 0 ∨ now < l.dirtySince + 4096 → exec (.dirtyLineTimeout cell id) s = .next s) ∧
      gone (.l1Eviction cell id) ∧
      (l.dirty ≠ 0 → stays (.l1Writeback cell id)) ∧ (l.dirty = 0 → exec (.l1Writeback cell id) s = .next s)) ∧
    (∀ l code o c, tfind (s.cell cell).l1 id = some l → risesFrom 0 (s.cell cell).l1 = true → l.dirty ≠ 0 →
      s.inFaultRing l.sid.toNat l.va 128 = false → s.judge l.sid.toNat l.va = .error code → l.stores = [o] →
      tfind s.ctxs o.1.ctx = some c → ∃ t r z, exec (.l1Writeback cell id) s = .next t ∧ tfind (t.cell cell).l1 id = none ∧
        tfind t.reports s.fresh = some r ∧ r.part = c.part ∧ r.d0.toNat % 2 ^ 8 = code.toNat ∧ r.addr = o.2 ∧
        r.info = o.1.word.zeroExtend 64 ∧ tfind t.ctxs o.1.ctx = some z ∧ z.drops = c.drops ++ [⟨code, o.2, 4⟩]) ∧
    -- L2 and DRAM
    (∀ l, tfind (s.die die).l2 pa = some l → risesFrom 0 (s.die die).l2 = true → pa % 128 = 0 →
      let keyed : Prop := ∀ p, s.groupOfFrame die (pa / 0x1_0000) = some p → s.keyless die p.cg = false
      let same (t : State) : Prop := ∀ k, k < 128 → mget (t.dramLine die pa).bytes k = mget l.data.bytes k
      (s.residentLine l = true → exec (.l2Eviction die pa) s = .next s) ∧
      (s.residentLine l = false → ∃ t, exec (.l2Eviction die pa) s = .next t ∧ (∀ k, tfind (t.die die).l2 k =
        if k = pa then none else tfind (s.die die).l2 k) ∧ (l.dirty = true → keyed → same t) ∧
        (l.dirty = false → (t.die die).dram = (s.die die).dram)) ∧
      (l.dirty = true → ∃ t, exec (.dramWriteback die pa) s = .next t ∧ (keyed → same t) ∧ ∀ k, tfind (t.die die).l2 k =
        if k = pa then some { l with dirty := false } else tfind (s.die die).l2 k) ∧
      (l.dirty = false → exec (.dramWriteback die pa) s = .next s)) ∧
    (∀ p, s.page sid.toNat va.toNat = some p →
      let line := va.toNat / 128 * 128
      let at_ := p.phys line
      let kept (l : L2Line) : Prop := l.sid = p.sid ∧ l.va = line
      (∀ l, tfind (s.die p.die).l2 at_ = some l → kept l → exec (.l2Fill sid va) s = .next s) ∧
      ((∀ l, tfind (s.die p.die).l2 at_ = some l → ¬ kept l) → ∃ t l, exec (.l2Fill sid va) s = .next t ∧
        tfind (t.die p.die).l2 at_ = some l ∧ kept l ∧ l.dirty = false ∧ l.slice = s.homeSlice p.part p.dom line ∧
        l.data = (s.l2Evict p.die at_).dramLine p.die at_) ∧
      (tfind (s.die p.die).l2 at_ = none → risesFrom 0 (s.die p.die).l2 = true →
        let slice := s.homeSlice p.part p.dom line
        let mine := (s.die p.die).l2.filter fun y => y.2.slice = slice
        let order := (mine.filter fun y => !s.residentLine y.2) ++ mine.filter fun y => s.residentLine y.2
        let goes := order.take (mine.length - (12288 - (s.versionLines slice + 1)))
        ∃ t, exec (.l2Fill sid va) s = .next t ∧ (tfind (t.die p.die).l2 at_).isSome = true ∧
          ∀ k, k ≠ at_ → tfind (t.die p.die).l2 k = if k ∈ goes.map (·.1) then none else tfind (s.die p.die).l2 k)) ∧
    -- parked and stalled slots
    (let again := exec (.parkedWake x) s = .next { s with sched := .issue x :: s.sched }
     let stays := exec (.parkedWake x) s = .next s
     ((s.ctx x).running = false → stays) ∧
     ((s.ctx x).running = true →
      (∀ l full f, (s.ctx x).wait = .fe l full → s.fullAt l = some f →
        let first : Prop := ∀ w, w ∈ s.waiters.takeWhile (fun w => w.1 ≠ x) → w.2 = l → ∀ h, (s.ctx w.1).wait ≠ .fe h full
        (f = full → first → again) ∧ (f ≠ full ∨ ¬ first → stays)) ∧
      (∀ l ph w, (s.ctx x).wait = .phase l ph → s.numAt l 8 = some w → (w / 2 ^ 48 % 2 ^ 15 ≠ ph → again) ∧
        (w / 2 ^ 48 % 2 ^ 15 = ph → stays)) ∧
      (∀ part u eq v pg, (s.ctx x).wait = .version (.mem part u) eq v → s.judge part u = .ok pg →
        let there : Prop := ∃ k, k ∈ s.liveVersions part u ∧ if eq then k.num = v else k.num.toNat ≤ v.toNat
        (there → again) ∧ (¬ there → stays)))) ∧
    (∀ t g, (s.ctx x).wait = .backoff t g → exec (.feBackoffRetry x) s = .next
      (if (s.ctx x).running = true ∧ t ≤ s.cyc (dieOfCell (s.ctx x).cell) then { s with sched := .issue x :: s.sched } else s)) ∧
    (∀ t, (s.ctx x).wait = .tick t → exec (.idleWake x) s = .next
      (if (s.ctx x).resident = true ∧ t ≤ s.ref (dieOfCell (s.ctx x).cell) then { s with sched := .issue x :: s.sched } else s))

/-- 01 R13, R24, R25; 10 R228; 17 R331, R332; 20 R365: registers of a cell's control page and of the fault queue, and the counts. A
changed rotation waits for a cycle that is a multiple of 16; a split change in progress, or one that cuts a range lease, sets
`sprf`, and another one moves the boundary, clears what changes sides and drops the L1 lines there: which L1 places pass to the
scratchpad (log 12) and that the bytes are cleared at the write (log 29) are the model's choices. A report is written at the tail
with the writing die's `ref`, or counted as lost; the ring's index and the count of what waits in it are the model's reading (log
42). A read of `fqlost`, of a statistics block or of `errcnt` returns the counts and clears them. -/
def Obligations.CellControlAndFaultQueue : Prop :=
  ∀ (cell part n die : Nat) (rot : Bool) (z : BitVec 2) (v : Word) (s : State),
    let c := s.cell cell
    let now := s.cyc (dieOfCell cell)
    let sets (i : Instr) (k : Cell) : Prop := ∃ t, exec i s = .next t ∧ t = { s with cells := t.cells } ∧
      ∀ m, t.cell m = if m = cell then k else s.cell m
    let p := s.part part
    let partSet (i : Instr) (q : Part) : Prop := ∃ t, exec i s = .next t ∧ t = { s with parts := t.parts, hostOut := t.hostOut } ∧
      ∀ m, t.part m = if m = part then q else s.part m
    (cell < 512 →
      sets (.rotationChangeWrite cell rot) (if rot = c.mode then { c with rot := rot, rotp := false }
        else if c.rotp then { c with rot := rot } else { c with rot := rot, rotp := true, rotAt := (now / 16 + 1) * 16 }) ∧
      sets (.rotationBoundary cell) (if c.rotp = true ∧ c.rotAt ≤ now then { c with mode := c.rot, rotp := false } else c) ∧
      sets (.splitChangeDone cell) (if c.spx = true ∧ c.spxEnd ≤ now then { c with spx := false } else c) ∧
      sets (.sprfClear cell) { c with sprf := false } ∧
      (let old := (c.spsz.toNat + 1) * 0x4_0000
       let new := (z.toNat + 1) * 0x4_0000
       let cut : Prop := ∃ l, l ∈ s.leases ∧ l.2.st ≠ .lapsed ∧ ∃ b k, l.2.obj = .sp cell b k ∧ new < (b + k) * 4096
       let passes (k : Nat) : Prop := (0x24_0000 - new) / 128 ≤ k
       (c.spx = true → sets (.splitChangeWrite cell z) { c with sprf := true }) ∧
       (c.spx = false → z = c.spsz → exec (.splitChangeWrite cell z) s = .next s) ∧
       (c.spx = false → z ≠ c.spsz → cut → sets (.splitChangeWrite cell z) { c with sprf := true }) ∧
       (c.spx = false → z ≠ c.spsz → ¬ cut → risesFrom 0 c.l1 = true → ∃ t, exec (.splitChangeWrite cell z) s = .next t ∧
         (t.cell cell).spsz = z ∧ (t.cell cell).spx = true ∧ (t.cell cell).sprf = c.sprf ∧
         (t.cell cell).spxEnd = now + (max old new - min old new + 63) / 64 +
           2 * ((c.l1.filter fun l => decide ((0x24_0000 - new) / 128 ≤ l.1)).filter fun l => l.2.dirty ≠ 0).length ∧
         (∀ k, (passes k → tfind (t.cell cell).l1 k = none) ∧ (¬ passes k → tfind (t.cell cell).l1 k = tfind c.l1 k)) ∧
         ∀ k, mget (t.cell cell).spad.bytes k = if min old new ≤ k ∧ k < max old new then 0 else mget c.spad.bytes k))) ∧
    -- the fault queue
    (∀ r, tfind s.reports n = some r → r.part = part → s.memWf = true →
      let size := 2 ^ (p.fqlg + 6)
      let space := spaceOf part
      let behind : Prop := ∃ q, q ∈ s.reports ∧ q.1 < n ∧ q.2.part = r.part ∧ q.2.source = r.source
      let waiting := (p.fqtail + 2 * size - p.fqhead % (2 * size)) % (2 * size)
      let k := if r.payload.isSome then 2 else 1
      let a := p.fqbase + 32 * (p.fqtail % size)
      (behind → exec (.faultReport n) s = .next s) ∧
      (¬ behind → p.fqbase = 0 ∨ size < waiting + k → ∃ t, exec (.faultReport n) s = .next t ∧ t.reports = tdel s.reports n ∧
        t.part part = { p with fqlost := BitVec.ofNat 32 (min (p.fqlost.toNat + k) 0xFFFF_FFFF) } ∧ t.dies = s.dies) ∧
      (¬ behind → p.fqbase ≠ 0 → waiting < size → r.payload = none → (∀ e, s.backed (spaceOf part) a = .error e →
        ∃ t, exec (.faultReport n) s = .next t ∧ t.part part = { p with fqlost := BitVec.ofNat 32 (min (p.fqlost.toNat + 1) 0xFFFF_FFFF) } ∧
          t.dies = s.dies)) ∧
      (¬ behind → p.fqbase ≠ 0 → waiting < size → r.payload = none → a % 32 = 0 → s.HomeTakes space a →
        (∀ j, j < 32 → s.judge space (a + j) = s.judge space a) →
        ∃ t, exec (.faultReport n) s = .next t ∧ t.reports = tdel s.reports n ∧
          t.part part = { p with fqtail := (p.fqtail + 1) % (2 * size), vectors := 0 :: p.vectors } ∧
          t.numAt (.mem space a) 8 = some r.d0.toNat ∧ t.numAt (.mem space (a + 8)) 8 = some r.addr.toNat ∧
          t.numAt (.mem space (a + 16)) 8 = some r.info.toNat ∧
          t.numAt (.mem space (a + 24)) 8 = some (s.ref (r.d0.toNat / 2 ^ 25 % 4) % 2 ^ 64) ∧
          ∀ u, u < a ∨ a + 32 ≤ u → s.judge space u = s.judge space a → u / 128 = a / 128 → t.homeByte space u = s.homeByte space u)) ∧
    (let lg := v.toNat / 2 ^ 48 % 16
     (p.fqtail ≠ p.fqhead ∨ p.flr ≠ none → exec (.fqbaseWrite part v) s = .next s) ∧
     (p.fqtail = p.fqhead → p.flr = none → partSet (.fqbaseWrite part v)
       { p with fqbase := v.toNat % 2 ^ 48 / 2 ^ 16 * 2 ^ 16, fqlg := if lg ≤ 10 then lg else p.fqlg })) ∧
    partSet (.fqlostRead part) { p with fqlost := 0 } ∧
    (∃ t, exec (.fqlostRead part) s = .next t ∧ t.hostOut = .value (p.fqlost.zeroExtend 64)) ∧
    -- the counts
    (∀ m, (s.cellsOfPart part)[n]? = some m → ∃ t, exec (.statisticsBlockRead part n) s = .next t ∧
      t = { s with cells := t.cells, hostOut := .value ((s.cell m).cfail ++ (s.cell m).aband ++ (s.cell m).disc) } ∧
      ∀ k, t.cell k = if k = m then { s.cell m with disc := 0, aband := 0, cfail := 0 } else s.cell k) ∧
    ((s.cellsOfPart part)[n]? = none → exec (.statisticsBlockRead part n) s = .next { s with hostOut := .value 0 }) ∧
    (die < 4 → let d := s.die die; ∃ t, exec (.errcntRead die) s = .next t ∧
      t = { s with dies := t.dies, hostOut := .value (d.due ++ d.dce ++ d.sue ++ d.sce) } ∧
      ∀ k, t.die k = if k = die then { d with sce := 0, sue := 0, dce := 0, due := 0 } else s.die k)

/-- 10 R218; 14 R291-R294; 21 R367: delivery contexts, ports and the host. The sender sends an unanswered request again after 64
ticks, doubling up to 8,192, eight times, and then ends it in STALE; an answer ends it. The receiver applies each request once and
in order, answers an earlier one again, keeps one of the next 63, drops one beyond, and answers a retransmission to a context it
does not hold with STALE. Each packet makes the lease of its end run 4,096 ticks of its die; a context quiet for as long passes to
LAPSING. A host access of up to 1,024 bytes is served at its home, and a quiesce point holds it back; a peer's take or give waits
at its end until the word allows it, and later requests with it (log 62: outside accesses, the model's choice). -/
def Obligations.PeersAndPorts : Prop :=
  ∀ (num seq k n tries at_ peer part port : Nat) (e : DEnd) (f : PeerFrame) (va v : Word) (s : State),
    let now := s.ref e.die
    let setEnd (x : DEnd) (t : State) : Prop := t.ends = tset s.ends k { x with lastAt := now } ∧ t.leases = s.leases.map fun l =>
      if l.2.obj = .delivery k ∧ l.2.alive = true then (l.1, { l.2 with expiry := now + 4096 }) else l
    -- the sender
    (s.senderEnd num = some (k, e) → tfind e.unanswered seq = some (n, tries, at_) →
      let wait := if tries < 7 then 64 * 2 ^ tries else 8192
      (tries < 8 → at_ + wait ≤ now → ∃ t, exec (.retransmitTimer num seq) s = .next t ∧
        t = { s with ends := t.ends, leases := t.leases } ∧ setEnd { e with unanswered := tset e.unanswered seq (n, tries + 1, now) } t) ∧
      (8 ≤ tries ∨ now < at_ + wait → exec (.retransmitTimer num seq) s = .next s) ∧
      (tries < 8 ∨ now < at_ + 8192 → exec (.retransmitExhausted num seq) s = .next s) ∧
      (∀ q, tfind s.packets n = some q →
        let stale (i : Instr) : Prop := ∃ t, exec i s = .next t ∧ tfind t.packets n = some { q with st := .refused 0x0E } ∧
          setEnd { e with unanswered := tdel e.unanswered seq } t
        (8 ≤ tries → at_ + 8192 ≤ now → stale (.retransmitExhausted num seq)) ∧
        stale (.deliveryReplyArrival num seq true v) ∧
        ∃ t, exec (.deliveryReplyArrival num seq false v) s = .next t ∧
          tfind t.packets n = some { q with st := .performed v (q.op.flagsOn v) } ∧
          setEnd { e with unanswered := tdel e.unanswered seq } t)) ∧
    (s.senderEnd num = some (k, e) → tfind e.unanswered seq = none → exec (.deliveryReplyArrival num seq true v) s = .next s) ∧
    -- the receiver
    (0x100 ≤ peer → peer ≤ 0x1FF → s.peerUp peer = true →
      let mine := s.receiverEnd peer f.ctxnum
      let word : Loc := .mem (spaceOf f.part) f.va.toNat
      let inside : Prop := f.va.toNat % 8 = 0 ∧ 0x1_0000_0000 ≤ f.va.toNat ∧ f.va.toNat + 8 ≤ 2 ^ 48
      let held : Prop := (s.part f.part).quiescing = true ∨ (inside ∧ ((f.op = .take ∧ s.fullAt word = some false) ∨
        ∃ v, f.op = .give v ∧ s.fullAt word = some true))
      let served (u t : State) : Prop := t.hostOut = (u.serve f.part f.va f.op).2 ∧ t.dies = (u.serve f.part f.va f.op).1.dies
      (mine = none → f.retransmit = true → exec (.deliveryFrameArrival peer f) s = .next { s with hostOut := .refused 0x0E }) ∧
      (mine = none → f.retransmit = false → ∃ t x, exec (.deliveryFrameArrival peer f) s = .next t ∧
        tfind t.ends s.fresh = some x ∧ x.sender = false ∧ x.peer = peer ∧ x.num = f.ctxnum ∧
        (held → x.seq = 0 ∧ x.cache = [] ∧ x.kept = [f] ∧ t.dies = s.dies) ∧
        (¬ held → served (s.addEnd false peer (some f.ctxnum) f.part).1 t ∧ x.seq = f.seq + 1 ∧ x.cache = [(f.seq, t.hostOut)]) ∧
        ∃ l, l ∈ t.leases ∧ l.2.obj = .delivery s.fresh ∧ l.2.alive = true ∧ l.2.expiry = x.lastAt + 4096) ∧
      (mine = some (k, e) →
        (f.seq < e.seq → ∃ t, exec (.deliveryFrameArrival peer f) s = .next t ∧ t.dies = s.dies ∧ setEnd e t ∧
          t.hostOut = (tfind e.cache f.seq).getD .none) ∧
        (f.seq = e.seq → ¬ held → (∀ g, g ∈ e.kept → g.seq ≤ e.seq) → ∃ t x, exec (.deliveryFrameArrival peer f) s = .next t ∧
          served s t ∧ tfind t.ends k = some x ∧ x.seq = e.seq + 1 ∧ tfind x.cache f.seq = some t.hostOut) ∧
        (f.seq = e.seq ∧ held ∨ e.seq < f.seq → f.seq < e.seq + 64 → ∃ t, exec (.deliveryFrameArrival peer f) s = .next t ∧ t.dies = s.dies ∧
          ∃ x, setEnd x t ∧ x.seq = e.seq ∧ (∃ g, g ∈ x.kept ∧ g.seq = f.seq) ∧ ∀ g, g ∈ e.kept → g ∈ x.kept) ∧
        (e.seq + 64 ≤ f.seq → ∃ t, exec (.deliveryFrameArrival peer f) s = .next t ∧ t.dies = s.dies ∧ setEnd e t))) ∧
    (peer < 0x100 ∨ 0x1FF < peer ∨ s.peerUp peer = false → exec (.deliveryFrameArrival peer f) s = .next s) ∧
    -- a quiet end
    (tfind s.ends k = some e →
      (∀ l, s.leaseOfEnd k = some (n, l) → tfind s.leases n = some l → s.childrenOf n = [] → s.copiesOf n l = [] →
        e.lastAt + 4096 ≤ now → e.sender = false ∨ e.unanswered = [] → ∃ t x, exec (.deliveryContextQuiet k) s = .next t ∧
          t = { s with leases := t.leases } ∧ tfind t.leases n = some x ∧ x.st = .lapsing ∧ x.obj = l.obj ∧ x.gen = l.gen ∧
          ∀ m, m ≠ n → tfind t.leases m = tfind s.leases m) ∧
      (now < e.lastAt + 4096 ∨ (e.sender = true ∧ e.unanswered ≠ []) → exec (.deliveryContextQuiet k) s = .next s)) ∧
    -- ports
    (port < 8 → s.rdy = true →
      (∃ t, exec (.portLinkDown port) s = .next t ∧ t = { s with pup := t.pup } ∧
        ∀ i, i < 8 → t.pup.getLsbD i = (s.pup.getLsbD i && i ≠ port)) ∧
      ∃ t, exec (.portLinkUp port) s = .next t ∧ t = { s with pup := t.pup } ∧
        ∀ i, i < 8 → t.pup.getLsbD i = (s.pup.getLsbD i || i = port)) ∧
    -- the host
    (let a := va.toNat
     let l : Loc := .mem (spaceOf part) a
     let access (o : OutsideOp) : Instr := .hostMemoryAccess part va o
     let size (o : OutsideOp) : Nat := match o with
       | .load m => m
       | .store bs => bs.length
       | .amo _ ty _ _ => if ty.toNat = 1 then 8 else 4
       | .take => 8
       | .give _ => 8
     let fits (o : OutsideOp) : Prop := 0 < size o ∧ size o ≤ 1024 ∧ 0x1_0000_0000 ≤ a ∧ a + size o ≤ 2 ^ 48 ∧
       ∀ b ty x y, o = .amo b ty x y → a % size o = 0
     let hosts (o : OutsideOp) : Prop := o ≠ .take ∧ ∀ x, o ≠ .give x
     (∀ o, ¬ hosts o → exec (access o) s = .next s) ∧
     ((s.part part).quiescing = true → ∀ o, hosts o → ∃ t, exec (access o) s = .next t ∧ t = { s with parts := t.parts } ∧
       ∀ m, t.part m = if m = part then { s.part part with heldHost := (s.part part).heldHost ++ [(va, o)] } else s.part m) ∧
     ((s.part part).quiescing = false →
       (∀ o, hosts o → ¬ fits o → exec (access o) s = .next { s with hostOut := .refused 0x04 }) ∧
       -- several lines, which L2 holds
       (∀ m, s.memWf = true → (∀ k, k < m → ∃ p x, s.judge (spaceOf part) (a + k) = .ok p ∧
           s.judge (spaceOf part) (max a ((a + k) / 128 * 128)) = .ok p ∧ tfind (s.die p.die).l2 (p.phys ((a + k) / 128 * 128)) = some x ∧
           x.sid = p.sid ∧ x.va = (a + k) / 128 * 128) → (∀ k, k < m → s.homeByte (spaceOf part) (a + k) ≠ none) →
         (fits (.load m) → let bs := (List.range m).map fun k => (s.homeByte (spaceOf part) (a + k)).getD 0
           exec (access (.load m)) s = .next { s with hostOut := if m ≤ 8 then .value (BitVec.ofNat 64 (leNat bs)) else .bytes bs }) ∧
         (∀ bs, bs.length = m → fits (.store bs) → ∃ t, exec (access (.store bs)) s = .next t ∧
           t = { s with dies := t.dies, hostOut := .none } ∧ (∀ k, k < m → t.homeByte (spaceOf part) (a + k) = bs[k]?) ∧
           ∀ u, u < a ∨ a + m ≤ u → (∃ k, k < m ∧ u / 128 = (a + k) / 128 ∧ s.judge (spaceOf part) u = s.judge (spaceOf part) (a + k)) →
             t.homeByte (spaceOf part) u = s.homeByte (spaceOf part) u)) ∧
       -- one line
       (s.memWf = true → s.HomeTakes (spaceOf part) a →
         (∀ m x, fits (.load m) → m ≤ 8 → a % 128 + m ≤ 128 → s.numAt l m = some x →
           ∃ t, exec (access (.load m)) s = .next t ∧ t.hostOut = .value (BitVec.ofNat 64 x) ∧ OnlyAt s t l 0) ∧
         (∀ bs, fits (.store bs) → a % 128 + bs.length ≤ 128 →
           ∃ t, exec (access (.store bs)) s = .next t ∧ t.hostOut = .none ∧ OnlyAt s t l bs.length ∧
             (s.numAt l bs.length ≠ none → t.numAt l bs.length = some (leNat bs))) ∧
         (∀ op ty x y old, let o := OutsideOp.amo op ty x y
           fits o → s.numAt l (size o) = some old → ∃ t, exec (access o) s = .next t ∧ t.hostOut = .value (BitVec.ofNat 64 old) ∧
             OnlyAt s t l (size o) ∧ t.numAt l (size o) = some (amoNew op ty old x.toNat y.toNat).1))))

/-- 00 R3, R4; 16 R319; 17 R332, R334, R337, R338; 18 R344, R345; 19 R353; 20 R366; 21 R373, R374: registers of functions and of the
management space, page moves, the partition command port and retirement. What a register holds, a read returns; a WO register
reads as zero. A quiesce point with something to do holds the outside's accesses until the partition's work has retired. A command
refuses a life of zero, a malformed field, a member without a held root, an object another partition holds or that is being
scrubbed; it grants one copy to each Prompter, or asks the four copies to extend and stays busy until they have. A copy still held
elsewhere after this die's has lapsed counts as being scrubbed. One while `busy`, or with no house core, is ignored; a write of
`ptcmd` or `rtcmd` gives the command of its fields. Each channel has 64 spare rows, each domain one spare ring. -/
def Obligations.PartitionCommands : Prop :=
  ∀ (die part res off chan bank row : Nat) (op : BitVec 4) (v : Word) (s : State),
    let d := s.die die
    let p := s.part part
    let nat (k : Nat) : Word := BitVec.ofNat 64 k
    let dieSet (i : Instr) (k : Die) : Prop := ∃ t, exec i s = .next t ∧ t = { s with dies := t.dies } ∧
      ∀ m, t.die m = if m = die then k else s.die m
    let partSet (i : Instr) (q : Part) : Prop := ∃ t, exec i s = .next t ∧ t = { s with parts := t.parts } ∧
      ∀ m, t.part m = if m = part then q else s.part m
    -- registers
    (part < 64 → p.flr = none →
      let w (k : Nat) : Instr := .registerWrite (.function (part + 1)) k v
      let w1 (k : Nat) (r : Nat) (g : PartDie → PartDie) : Prop := ∃ t, exec (w k) s = .next t ∧ t = { s with parts := t.parts } ∧
        ∀ a b, t.pdie a b = if a = part ∧ b = r then g (s.pdie part r) else s.pdie a b
      (∀ r, r < 4 → w1 (0x100 * r + 0x10) r (fun q => { q with ovf := q.ovf && !v.getLsbD 9 }) ∧
        w1 (0x408 + 0x20 * r) r (fun q => { q with safl := q.safl && !v.getLsbD 16 })) ∧
      partSet (w 0x490) { p with fqhead := v.toNat % 2 ^ 17 } ∧
      partSet (w 0x4A8) { p with moveFull := p.moveFull && !v.getLsbD 7, moveRefd := p.moveRefd && !v.getLsbD 8 } ∧
      partSet (w 0x4B0) { p with ptvec := v &&& 0xFFFFFFFFFFFC } ∧
      partSet (w 0x900) { p with hwbase := v.toNat % 2 ^ 48 / 4096 * 4096, hwlen := v.toNat / 2 ^ 48 % 2 ^ 12 } ∧
      s.readFunction part 0x4A0 = 0 ∧ s.readFunction part 0x490 = nat p.fqhead ∧ s.readFunction part 0x4B0 = p.ptvec ∧
      s.readFunction part 0x480 = nat (p.fqbase + p.fqlg * 2 ^ 48) ∧ s.readFunction part 0x488 = nat p.fqtail ∧
      s.readFunction part 0x4A8 = nat p.moves.length ||| bit p.moveFull 7 ||| bit p.moveRefd 8 ∧
      s.readFunction part 0x900 = nat (p.hwbase + p.hwlen * 2 ^ 48) ∧
      (∀ r, r < 4 → let q := s.pdie part r
        s.readFunction part (0x100 * r) = nat q.qbase ∧ s.readFunction part (0x100 * r + 0x08) = q.qtail.zeroExtend 64 ∧
        s.readFunction part (0x100 * r + 0x10) = (q.qhead.zeroExtend 64 ||| bit q.ovf 9) ∧
        s.readFunction part (0x100 * r + 0x18) = nat (q.share + q.lf * 2 ^ 9 + q.slotcap * 2 ^ 16) ∧
        s.readFunction part (0x400 + 0x20 * r) = nat (q.sabase + q.sasize * 2 ^ 48) ∧
        s.readFunction part (0x408 + 0x20 * r) = (nat q.saved.length ||| bit q.safl 16)) ∧
      partSet (.pmoveWrite part v) (if p.moves.length < 64 then
        { p with moves := p.moves ++ [(v.toNat / 2 ^ 21 % 2 ^ 27, v.toNat / 2 ^ 48 % 8)] } else { p with moveFull := true })) ∧
    (p.flr ≠ none → exec (.registerWrite (.function (part + 1)) off v) s = .next s ∧ exec (.pmoveWrite part v) s = .next s) ∧
    (s.house = 0 → exec (.registerWrite (.management die) off v) s = .next s) ∧
    (die < 4 →
      (s.house ≠ 0 →
        dieSet (.registerWrite (.management die) 0x108 v) { d with ptarg := v &&& 0x0001_FFFF_FFFF_FFFF } ∧
        (∀ k, k < 8 → dieSet (.registerWrite (.management die) (0x110 + 8 * k) v) { d with ptkey := tset d.ptkey k v }) ∧
        (part < 64 → exec (.registerWrite (.management die) (0x300 + 8 * part) v) s = exec (.mqpolWrite die part v) s) ∧
        exec (.registerWrite (.management die) 0x600 v) s = if v.toNat / 2 ^ 13 % 8 = 0 then
          exec (.debugResume die (v.toNat % 2 ^ 9) (v.toNat / 2 ^ 9 % 2 ^ 4)) s else .next s) ∧
      (∀ k, k < 8 → s.readManagement die (0x110 + 8 * k) = 0) ∧
      s.readManagement die 0x108 = d.ptarg ∧ s.readManagement die 0x150 = (d.ptcode.zeroExtend 64 ||| bit d.ptbusy 8) ∧
      s.readManagement die 0x208 = bit d.rtbusy 0 ||| d.rtcode.zeroExtend 64 <<< 1 ∧
      s.readPhysical false (0x800 + 0x10 * die) = d.errcnt ∧ s.readPhysical false (0x808 + 0x10 * die) = d.errloc) ∧
    -- a quiesce point
    (s.partResident part = true ∨ s.quiesceDue part = false ∧ p.quiescing = false → exec (.quiescePoint part) s = .next s) ∧
    (s.partResident part = false → s.quiesceDue part = true ∨ p.quiescing = true → s.partWork part = true →
      partSet (.quiescePoint part) { p with quiescing := true }) ∧
    (s.partResident part = false → s.partWork part = false → (∀ e, e ∈ s.ends → e.2.kept = []) →
      (∀ x o, p.quiescing = true → s.quiesceDue part = false → p.heldHost = [(x, o)] →
        let u := s.modPart part fun q => { q with quiescing := false, heldHost := [] }
        ∃ t, exec (.quiescePoint part) s = .next t ∧ t.hostOut = (u.serve part x o).2 ∧ t.dies = (u.serve part x o).1.dies ∧
          (t.part part).quiescing = false ∧ (t.part part).heldHost = []) ∧
      (p.heldHost = [] → (∀ l, l ∈ s.leases → l.2.st ≠ .lapsing ∧ (l.2.alive = true → l.2.pinned = true)) →
        (∀ r dom, p.moves = [(r, dom)] →
          let u := s.modPart part fun q => { q with moves := [] }
          let w := u.flushPages part (u.pagesOf part r)
          let after := { p with moves := [], quiescing := false }
          (s.regionHome part r = none → partSet (.quiescePoint part) { after with moveRefd := true }) ∧
          (s.regionHome part r = some dom → partSet (.quiescePoint part) after) ∧
          (∀ h, s.regionHome part r = some h → h ≠ dom → s.groupsOf part (dieOfDom dom) = [] ∨ s.slicesOf part dom = [] ∨
            (w.movePages dom (u.pagesOf part r)).2 = false → partSet (.quiescePoint part) { after with moveRefd := true }) ∧
          (∀ h, s.regionHome part r = some h → h ≠ dom → s.groupsOf part (dieOfDom dom) ≠ [] → s.slicesOf part dom ≠ [] →
            (s.pagesOf part r = [] → ∃ t, exec (.quiescePoint part) s = .next t ∧ t.regionHome part r = some dom ∧
              (t.part part).moves = [] ∧ (t.part part).moveRefd = p.moveRefd ∧ t.pages = s.pages) ∧
            (∀ a g f, s.pagesOf part r = [a] → w.placeFrame part dom (a.va / 0x20_0000) a.big = some (g, f) →
              ∃ t, exec (.quiescePoint part) s = .next t ∧ (t.part part).moves = [] ∧ (t.part part).moveRefd = p.moveRefd ∧
                tfind (t.part part).regions r = some dom ∧
                { a with dom := dom, cg := g, die := dieOfDom dom, frame := f } ∈ t.pages)))) ∧
      (p.moves = [] → p.heldHost = [] → ∀ n l k, tfind s.leases n = some l → l.obj = .slice part k → l.alive = true → l.pinned = false →
        (∀ m, m ∈ s.leases → m.2.st ≠ .lapsing ∧ (m.1 ≠ n → m.2.pinned = true)) →
        (∀ e, e < 4 → risesFrom 0 (s.die e).l2 = true) → ∃ t, exec (.quiescePoint part) s = .next t ∧
          tfind t.leases n = some { l with pinned := true } ∧ ∀ e, e < 4 → ∀ x, x ∈ (t.die e).l2 → x.2.part ≠ part)) ∧
    -- the command port
    (let a := d.ptarg.toNat
     let cmds : List (Instr × LeaseObj × Prop × Prop) := [(.ptcmdRoot die part, .root part, False, False),
       (.ptcmdRing die part res, .ring part res, 64 ≤ res, False), (.ptcmdSlice die part res, .slice part res, 256 ≤ res, False),
       (.ptcmdChannelGroup die part res, .chan part res (a / 2 ^ 44 % 16) (d.ptarg.getLsbD 48), 64 ≤ res, False),
       (.ptcmdShare die part res, .share part res (a / 2 ^ 32 % 2 ^ 12), 8 ≤ res, a / 2 ^ 32 % 2 ^ 12 = 0 ∨ 3000 < a / 2 ^ 32 % 2 ^ 12),
       (.ptcmdKeySlot die part res, .key part res, 16 ≤ res, False)]
     let free : Prop := s.rdy = true ∧ s.house ≠ 0 ∧ die < 4 ∧ d.ptbusy = false
     let code (i : Instr) (k : Byte) : Prop := dieSet i { d with ptbusy := true, ptcode := k }
     ∀ c, c ∈ cmds →
       let o := c.2.1
       let rooted : Prop := (∃ r, o = .root r) ∨ ∃ l, s.rootLease part die = some l ∧ l.alive = true
       let mine := s.copyOf die o
       let copies (P : Lease → Prop) : Prop := ∃ l, l ∈ s.leases ∧ l.2.home < 4 ∧ l.2.obj.kind = o.kind ∧ l.2.index = o.treeIndex ∧
         l.2.alive = true ∧ P l.2
       let held : Prop := copies fun _ => True
       let ours : Prop := ∃ n l, mine = some (n, l) ∧ l.alive = true ∧ l.part = part
       let failed : Prop := ∃ g k e, o = .chan part g k e ∧ s.failedGroups.contains g = true
       (¬ free → exec c.1 s = .next s) ∧
       (free → a % 2 ^ 32 = 0 → code c.1 0x04) ∧
       (free → a % 2 ^ 32 ≠ 0 → c.2.2.1 ∨ 64 ≤ part ∨ ¬ rooted ∨ (c.2.2.2 ∧ ¬ ours) → code c.1 0x03) ∧
       (free → a % 2 ^ 32 ≠ 0 → ¬ c.2.2.1 → part < 64 → rooted →
         (¬ c.2.2.2 → ¬ ours ∨ o.kind = 0x0B → s.beingScrubbed o = true → code c.1 0x06) ∧
         (¬ c.2.2.2 → ¬ ours → s.beingScrubbed o = false → copies (fun l => l.part = part) → code c.1 0x06) ∧
         (¬ c.2.2.2 → ¬ ours → s.beingScrubbed o = false → held → ¬ copies (fun l => l.part = part) → code c.1 0x01) ∧
         (¬ c.2.2.2 → ¬ held → s.beingScrubbed o = false → failed → code c.1 0x02) ∧
         (¬ c.2.2.2 → ¬ held → s.beingScrubbed o = false → ¬ failed → risesFrom 0 s.leases = true → ∃ t, exec c.1 s = .next t ∧
           (t.die die).ptbusy = true ∧ (t.die die).ptcode = 0 ∧ (∀ e, e < 4 → ∃ n l, tfind t.leases n = some l ∧ l.home = e ∧ l.obj = o ∧
             l.alive = true ∧ l.expiry = s.ref e + a % 2 ^ 32 ∧ l.part = part ∧ l.gen = BitVec.ofNat 24 l.count ∧
             (s.copyOf e o = none → l.count = 1) ∧ (∀ m k, s.copyOf e o = some (m, k) → n = m ∧ l.count = k.count + 1)) ∧
           (∀ k, o = .key part k → ∀ e b, e < 4 → b < 8 → ((tget (0 : BitVec 512) (t.part part).keys (e * 16 + k)) >>> (64 * b)).truncate 64
             = tget (0 : Word) d.ptkey b)) ∧
         (∀ n l, mine = some (n, l) → l.alive = true → l.part = part → o.kind ≠ 0x0B ∨ s.beingScrubbed o = false →
           ∃ t, exec c.1 s = .next t ∧ (t.die die).ptbusy = true ∧
           (t.die die).ptcode = 0 ∧ t.leases = s.leases ∧ ∀ e m k, e < 4 → s.copyOf e o = some (m, k) → k.obj = l.obj →
             ∃ x, x ∈ t.extensions ∧ x.lease = m ∧ x.gen = k.gen ∧ x.life = a % 2 ^ 32 ∧ x.port = some die))) ∧
    -- the words of `ptcmd` and `rtcmd`
    (let f (lo w : Nat) : Nat := v.toNat / 2 ^ lo % 2 ^ w
     let q := f 4 6
     let r := f 10 8
     let writes (k : Nat) (i : Instr) : Prop := exec (.registerWrite (.management die) k v) s = exec i s
     (f 0 4 = 0 → r = 0 → writes 0x100 (.ptcmdRoot die q)) ∧
     (f 0 4 = 0 → r ≠ 0 → s.rdy = true → s.house ≠ 0 → die < 4 → d.ptbusy = false → dieSet (.registerWrite (.management die) 0x100 v)
       { d with ptbusy := true, ptcode := if d.ptarg.toNat % 2 ^ 32 = 0 then 0x04 else 0x03 }) ∧
     (∀ k i, (k, i) ∈ [(1, Instr.ptcmdRing die q r), (2, .ptcmdSlice die q r), (3, .ptcmdChannelGroup die q r), (4, .ptcmdShare die q r),
       (5, .ptcmdKeySlot die q r)] → f 0 4 = k → writes 0x100 i) ∧
     (6 ≤ f 0 4 → writes 0x100 (.ptcmdReservedOp die (BitVec.ofNat 4 (f 0 4)))) ∧
     writes 0x200 (if f 0 1 = 0 then .retireDramRow die (f 1 6) (f 7 4) (f 11 17) else .retireRing die (f 28 6))) ∧
    (6 ≤ op.toNat → s.rdy = true → s.house ≠ 0 → die < 4 → d.ptbusy = false → dieSet (.ptcmdReservedOp die op) { d with ptbusy := true, ptcode := 0x03 }) ∧
    (s.rdy = false ∨ s.house = 0 ∨ d.ptbusy = true → exec (.ptcmdReservedOp die op) s = .next s) ∧
    (d.ptbusy = true → (∀ x, x ∈ s.extensions → x.port ≠ some die) → dieSet (.ptcmdApplied die) { d with ptbusy := false }) ∧
    (d.ptbusy = false ∨ (∃ x, x ∈ s.extensions ∧ x.port = some die) → exec (.ptcmdApplied die) s = .next s) ∧
    -- retirement
    (die < 4 →
      let taken : Prop := (∃ l, l ∈ s.leases ∧ l.2.alive = true ∧ ∃ q, l.2.obj = .ring q row) ∨ s.beingScrubbed (.ring 0 row) = true
      (s.house = 0 ∨ d.rtbusy = true →
        exec (.retireDramRow die chan bank row) s = .next s ∧ exec (.retireRing die row) s = .next s) ∧
      (s.house ≠ 0 → d.rtbusy = false →
        (64 ≤ chan ∨ 16 ≤ bank ∨ 2 ^ 17 ≤ row → dieSet (.retireDramRow die chan bank row) { d with rtcode := 3 }) ∧
        (chan < 64 → bank < 16 → row < 2 ^ 17 → let used := (d.rowMap.filter fun r => r.1 = chan).length
          (64 ≤ used → dieSet (.retireDramRow die chan bank row) { d with rtcode := 1 }) ∧
          (used < 64 → dieSet (.retireDramRow die chan bank row)
            { d with rtbusy := true, rtcode := 0, rtEnd := d.cyc + 1024, rowMap := (chan, bank, row) :: d.rowMap })) ∧
        (row / 16 ≠ die → dieSet (.retireRing die row) { d with rtcode := 3 }) ∧
        (row / 16 = die →
          (taken → dieSet (.retireRing die row) { d with rtcode := 2 }) ∧
          (¬ taken → (∃ r, r ∈ d.ringMap ∧ r / 8 = row / 8) → dieSet (.retireRing die row) { d with rtcode := 1 }) ∧
          (¬ taken → (∀ r, r ∈ d.ringMap → r / 8 ≠ row / 8) → ∃ t, exec (.retireRing die row) s = .next t ∧
            t = { s with dies := t.dies, jobs := t.jobs, fresh := s.fresh + 8 } ∧ (t.die die) =
              { d with rtbusy := true, rtcode := 0, rtEnd := d.cyc + 36864, ringMap := row :: d.ringMap } ∧
            ∀ k, k < 8 → ∃ j, tfind t.jobs (s.fresh + k) = some j ∧ j.cell = some (8 * row + k) ∧ j.bytes = 0x24_0000))) ∧
      dieSet (.retirementDone die) (if d.rtbusy = true ∧ d.rtEnd ≤ d.cyc then { d with rtbusy := false } else d))

/-- 19 R356, R357; 21 R367-R372: resets, power, bring-up, the host and the sideband. A function-level reset holds the function until
the scrub jobs of its partition have completed, and then resets its registers. A module reset ends everything but DRAM with its
marks, and counts itself; loss of power ends that too. Bring-up checks the image of slot A, then of B, whose first `len` bytes
alone are the image, queues the rescrub jobs after DRAM calibration, each with the cycle of its end, and goes on stage by stage.
Configuration requests, SMBus commands and attestation requests are answered. That a group not scrubbed since power-on is one job
(log 24) with its frame count (log 20), and the order of the bytes under an attestation's signature (log 6), are the model's
choices. -/
def Obligations.ResetsAndBringUp : Prop :=
  ∀ (part fn : Nat) (failed : List Nat) (up accepted : Bool) (width : BitVec 5) (rate : BitVec 3) (ports cmd : Byte) (nonce : BitVec 256)
    (s : State),
    let p := s.part part
    let kept : State := { slotA := s.slotA, slotB := s.slotB, rollback := s.rollback, free := s.free, sched := s.sched, holds := s.holds }
    -- function-level reset
    (part < 64 → s.rdy = true → p.flr = none → ∃ t l, exec (.functionLevelReset part) s = .next t ∧ t = { s with parts := t.parts } ∧
      (∀ m, t.part m = if m = part then { p with flr := some l } else s.part m) ∧
      ∀ n, n ∈ l ↔ ∃ j e, (n, j) ∈ s.jobs ∧ j.part = some part ∧ j.endAt = some e ∧ j.since < s.cyc j.die ∧ s.cyc j.die + 1 < e) ∧
    (64 ≤ part ∨ s.rdy = false ∨ p.flr ≠ none → exec (.functionLevelReset part) s = .next s) ∧
    (∀ l, p.flr = some l →
      ((∃ n, n ∈ l ∧ (tfind s.jobs n).isSome) → exec (.flrHoldEnd part) s = .next s) ∧
      ((∀ n, n ∈ l → tfind s.jobs n = none) → ∃ t, exec (.flrHoldEnd part) s = .next t ∧ t = { s with parts := t.parts } ∧
        t.part part = { p with
          flr := none, dies := (t.part part).dies, fqbase := 0, fqlg := 0, fqtail := 0, fqhead := 0, ptvec := 0, hwbase := 0, hwlen := 0
          moveFull := false, moveRefd := false } ∧
        (∀ m, m ≠ part → t.part m = s.part m) ∧ ∀ b, t.pdie part b = { s.pdie part b with
          qbase := 0, qtail := 0, qhead := 0, ovf := false, sabase := 0, sasize := 0, safl := false, saStop := false })) ∧
    (p.flr = none → exec (.flrHoldEnd part) s = .next s) ∧
    -- module reset and power
    (s.powered = true → ∃ t, exec .moduleReset s = .next t ∧
      t = { kept with dies := t.dies, resets := BitVec.ofNat 8 (min 255 (s.resets.toNat + 1)) } ∧
      ∀ n, t.die n = { dram := (s.die n).dram, written := (s.die n).written, cipher := (s.die n).cipher, owned := (s.die n).owned
                       clean := (s.die n).clean }) ∧
    (s.powered = true → exec .powerOn s = .next s) ∧
    (s.powered = false → exec .powerOn s = .next kept) ∧
    exec .powerLoss s = .next { kept with powered := false } ∧
    -- bring-up
    (s.powered = true → s.stage = 0 → s.fail = 7 →
      let good (f : FlashSlot) : Prop := f.magic = 0x58475833 ∧ f.len ≤ 0x80_0000 - 128 ∧ f.len ≤ f.image.length ∧
        Config.sm3 (leBytes f.magic.toNat 4 ++ leBytes f.len 4 ++ leBytes f.svn.toNat 4 ++ [0, 0, 0, 0] ++ f.image.take f.len) = f.dig ∧
        Config.sm2Verifies f.dig f.sig = true ∧ s.rollback.toNat ≤ f.svn.toNat
      let loads (f : FlashSlot) (b : Bool) : Prop := ∃ t, exec .imageCheck s = .next t ∧
        t = { s with img := b, stage := 1, house := 0xFF, dies := t.dies, parts := t.parts } ∧
        let bytes := f.image.take f.len
        ∀ d, d < 4 → t.die d = { s.die d with
            tvec2 := Config.imageTvec2 bytes &&& ~~~3, rowMap := Config.imageRetiredRows bytes d
            ringMap := Config.imageRetiredRings bytes d } ∧
          ∀ q, q < 64 → let v := (Config.imageQpol bytes d q).toNat
            t.pdie q d = { s.pdie q d with
              share := if v % 512 ≤ 256 then v % 512 else (s.pdie q d).share
              lf := if v / 2 ^ 9 % 32 ≤ 16 then v / 2 ^ 9 % 32 else (s.pdie q d).lf
              slotcap := if v / 2 ^ 16 % 2048 ≤ 1920 then v / 2 ^ 16 % 2048 else (s.pdie q d).slotcap }
      (good s.slotA → loads s.slotA false) ∧ (¬ good s.slotA → good s.slotB → loads s.slotB true) ∧
      (¬ good s.slotA → ¬ good s.slotB → exec .imageCheck s = .next { s with fail := 0, house := 0 })) ∧
    (s.stage ≠ 0 ∨ s.fail ≠ 7 → exec .imageCheck s = .next s) ∧
    (s.stage = 1 → ∃ t, exec (.dramCalibration failed) s = .next t ∧
      t = { s with stage := 2, failedGroups := failed, jobs := t.jobs, fresh := t.fresh } ∧ ∀ d, d < 4 →
        (∀ g, g < 16 → g ∉ (s.die d).clean → ∃ n j, tfind t.jobs n = some j ∧ j.die = d ∧ j.group = some g ∧ j.part = none ∧ j.endAt.isSome = true) ∧
        ∀ f, f ∈ (s.die d).owned → f / 36864 ∈ (s.die d).clean →
          ∃ n j, tfind t.jobs n = some j ∧ j.die = d ∧ j.frames = [f] ∧ j.part = none ∧ j.endAt.isSome = true) ∧
    (s.stage ≠ 1 → exec (.dramCalibration failed) s = .next s) ∧
    (s.stage = 2 → s.fail = 7 → exec (.dieLinkTraining up) s = .next (if up then { s with stage := 3 } else { s with fail := 2 })) ∧
    (s.stage ≠ 2 ∨ s.fail ≠ 7 → exec (.dieLinkTraining up) s = .next s) ∧
    (s.stage = 3 → s.retryAt ≤ s.ref 0 → exec (.pcieTraining up width rate) s = .next
      (if up = true ∧ width.toNat ∈ [1, 2, 4, 8, 16] ∧ 1 ≤ rate.toNat ∧ rate.toNat ≤ 6
        then { s with stage := 4, fail := 7, pcw := width, pcr := rate } else { s with fail := 3, retryAt := s.ref 0 + 2 ^ 20 })) ∧
    (s.stage ≠ 3 ∨ s.ref 0 < s.retryAt → exec (.pcieTraining up width rate) s = .next s) ∧
    exec (.cxlNegotiation accepted) s = .next (if s.stage = 4 then
      { s with cxl := accepted, stage := 5, retryAt := s.ref 0 + 2 ^ 24 } else s) ∧
    exec (.ethernetAutoneg ports) s = .next (if s.stage = 5 ∧ (ports = 0xFF ∨ s.retryAt ≤ s.ref 0) then { s with pup := ports, stage := 7, rdy := true } else s) ∧
    -- answers
    (let bstat : Word := BitVec.ofNat 64 (s.stage.toNat + 8 * (s.fail.toNat + 8 * (s.img.toNat + 2 * (s.pcw.toNat + 32 * (s.pcr.toNat +
       8 * (s.cxl.toNat + 2 * (s.pup.toNat + 256 * s.rdy.toNat)))))))
     let answer (i : Instr) (h : HostOut) : Prop := exec i s = .next { s with hostOut := h }
     (s.stage.toNat < 4 → answer (.hostConfigRequest fn) .noLink) ∧
     (4 ≤ s.stage.toNat → answer (.hostConfigRequest 0) (.config 0) ∧
       (1 ≤ fn → fn ≤ 64 → s.rdy = false ∨ (s.part (fn - 1)).flr ≠ none → answer (.hostConfigRequest fn) .retryStatus) ∧
       (1 ≤ fn → fn ≤ 64 → s.rdy = true → (s.part (fn - 1)).flr = none → answer (.hostConfigRequest fn) (.config fn))) ∧
     answer .smbusReadBstat (.value bstat) ∧ answer .smbusReadResetCount (.byte s.resets) ∧
     (cmd ≠ 0x10 → cmd ≠ 0x11 → answer (.smbusOtherCommand cmd) .nack) ∧
     (s.stage.toNat < 4 → answer (.attestationRequest nonce) .noLink) ∧
     (4 ≤ s.stage.toNat → let f := if s.img then s.slotB else s.slotA
       let four := leBytes bstat.toNat 8 ++ leBytes bstat.toNat 8 ++ leBytes bstat.toNat 8 ++ leBytes bstat.toNat 8
       answer (.attestationRequest nonce) (.attestation f.dig f.svn Config.identityDigest nonce [bstat, bstat, bstat, bstat] (Config.sm2Sign (Config.sm3
         (leBytes f.dig.toNat 32 ++ leBytes f.svn.toNat 4 ++ leBytes Config.identityDigest.toNat 32 ++ leBytes nonce.toNat 32 ++ four))))))

/-- 17 R336; 20 R359, R360, R365: soft errors and second names. An error that is corrected counts in the die's `sce`, or `dce` for
DRAM, and changes nothing else. One that is not sets the poison mark of its unit, counts in `sue` or `due`, and is named in
`errloc` by kind, unit and offset. A line whose zero mark is set is never poisoned. That an error and its discovery are one event
(log 25) and that a context's protected doublewords have numbers (log 63) are the model's choices. House firmware gives a frame
that holds a page a second name, 64 KiB at an aligned address, and the page keeps its first. -/
def Obligations.SoftErrorsAndSecondNames : Prop :=
  ∀ (cell off die pa x r i frame key : Nat) (num : Word) (back : Bool) (sid : BitVec 16) (va : Word) (s : State),
    let up (c : BitVec 16) : BitVec 16 := BitVec.ofNat 16 (min 0xFFFF (c.toNat + 1))
    let corrected (e : ErrPlace) (d : Nat) (dram : Bool) : Prop := ∃ t, exec (.softError e false) s = .next t ∧
      t = { s with dies := t.dies } ∧ ∀ n, t.die n = if n = d then
        (if dram then { s.die d with dce := up (s.die d).dce } else { s.die d with sce := up (s.die d).sce }) else s.die n
    let poisons (e : ErrPlace) (d : Nat) (dram : Bool) (kind unit : Nat) (o : Option Nat) (P : State → Prop) : Prop :=
      ∃ t, exec (.softError e true) s = .next t ∧ P t ∧
        (t.die d).due = (if dram then up (s.die d).due else (s.die d).due) ∧
        (t.die d).sue = (if dram then (s.die d).sue else up (s.die d).sue) ∧
        (t.die d).errloc.toNat % 8 = kind ∧ (t.die d).errloc.toNat / 8 % 512 = unit % 512 ∧ (t.die d).errloc.toNat / 2 ^ 48 = 0 ∧
        (∀ n, o = some n → (t.die d).errloc.toNat / 2 ^ 12 = n % 2 ^ 36) ∧
        t.leases = s.leases ∧ t.reports = s.reports ∧ t.pages = s.pages ∧ (∀ n, n ≠ d → t.die n = s.die n)
    let at_ := dieOfCell cell
    (cell < 512 → off < (s.cell cell).spadSize → corrected (.scratchpad cell off) at_ false ∧
      poisons (.scratchpad cell off) at_ false 1 cell (some (off / 8 * 8)) fun t => t.ctxs = s.ctxs ∧
        (∀ n, n ≠ cell → t.cell n = s.cell n) ∧ (t.cell cell).spad.bytes = (s.cell cell).spad.bytes ∧
        ∀ k, k ∈ (t.cell cell).spad.poison ↔ k = off / 8 ∨ k ∈ (s.cell cell).spad.poison) ∧
    (∀ l, die < 4 → tfind (s.die die).l2 (pa / 128 * 128) = some l → corrected (.l2 die pa) die false ∧
      poisons (.l2 die pa) die false 2 (l.slice % 64) none fun t => t.ctxs = s.ctxs ∧ t.cells = s.cells ∧
        ∃ m, tfind (t.die die).l2 (pa / 128 * 128) = some m ∧ m.data.bytes = l.data.bytes ∧
          ∀ k, k ∈ m.data.poison ↔ k = pa % 128 / 8 ∨ k ∈ l.data.poison) ∧
    (die < 4 → pa / 128 ∈ (s.die die).written → corrected (.dram die pa) die true ∧
      poisons (.dram die pa) die true 3 0 (some (pa / 8 * 8)) fun t => t.ctxs = s.ctxs ∧ t.cells = s.cells ∧
        (t.die die).l2 = (s.die die).l2 ∧ ∀ k, k ∈ (t.die die).dram.poison ↔ k = pa / 8 ∨ k ∈ (s.die die).dram.poison) ∧
    (pa / 128 ∉ (s.die die).written → exec (.softError (.dram die pa) back) s = .next s) ∧
    (cell < 512 → corrected (.latch cell back) at_ false ∧ poisons (.latch cell back) at_ false 4 cell none fun t => t.ctxs = s.ctxs ∧
      (t.cell cell).latch.fBad = ((s.cell cell).latch.fBad || !back) ∧ (t.cell cell).latch.kBad = ((s.cell cell).latch.kBad || back)) ∧
    (∀ c, tfind s.ctxs x = some c → (1 ≤ r ∧ r < 32) ∨ (49 ≤ r ∧ r < 56) ∨ (64 ≤ r ∧ r < 71) ∨ (128 ≤ r ∧ r < 272) → corrected (.registers x r) (dieOfCell c.cell) false ∧
      poisons (.registers x r) (dieOfCell c.cell) false 5 c.cell none fun t => t.cells = s.cells ∧ ∃ d, tfind t.ctxs x = some d ∧
        d = { c with badRegs := d.badRegs } ∧ ∀ k, k ∈ d.badRegs ↔ k = r ∨ k ∈ c.badRegs) ∧
    (∀ c j, tfind s.ctxs x = some c → c.place = .understudy ∨ c.place = .saveArea → j < 256 →
      corrected (.image x j) (dieOfCell c.cell) false ∧ poisons (.image x j) (dieOfCell c.cell) false 5 c.cell none fun t =>
        t.cells = s.cells ∧ ∃ d, tfind t.ctxs x = some d ∧ d = { c with poisoned := d.poisoned } ∧
          ∀ k, k ∈ d.poisoned ↔ k = j ∨ k ∈ c.poisoned) ∧
    (cell < 512 → i < 16384 → corrected (.tile cell i) at_ false ∧ poisons (.tile cell i) at_ false 7 cell (some (8 * i)) fun t =>
      t.ctxs = s.ctxs ∧ (t.cell cell).tiles = (s.cell cell).tiles ∧
        ∀ k, k ∈ (t.cell cell).tilePoison ↔ k = i ∨ k ∈ (s.cell cell).tilePoison) ∧
    (∀ j, j < 4 → i < (s.cell cell).queue.length → corrected (.queue cell i j) at_ false ∧
      poisons (.queue cell i j) at_ false 6 cell none fun t => t.ctxs = s.ctxs ∧
        (t.cell cell).queue.length = (s.cell cell).queue.length ∧ ∀ (n : Nat) (q : Queued), (s.cell cell).queue[n]? = some q →
          ∃ m, (t.cell cell).queue[n]? = some { q with poison := m } ∧ ∀ k, k ∈ m ↔ (n = i ∧ k = j) ∨ k ∈ q.poison) ∧
    (∀ l, tfind (s.cell cell).l1 i = some l → off < 128 → corrected (.l1 cell i off) at_ false ∧
      poisons (.l1 cell i off) at_ false 1 cell none fun t => t.ctxs = s.ctxs ∧ (∀ n, n ≠ cell → t.cell n = s.cell n) ∧
        ∃ m, tfind (t.cell cell).l1 i = some m ∧ m.data.bytes = l.data.bytes ∧ m.valid = l.valid ∧ m.dirty = l.dirty ∧
          ∀ k, k ∈ m.data.poison ↔ k = off / 8 ∨ k ∈ l.data.poison) ∧
    (∀ p h y, s.page (key / 2 ^ 48) (key % 2 ^ 48) = some p → s.sliceOf (key / 2 ^ 48) (key % 2 ^ 48) = some (p.die, h) →
      y ∈ s.liveVersions (key / 2 ^ 48) (key % 2 ^ 48) → y.num = num → corrected (.version key num) p.die false ∧
      poisons (.version key num) p.die false 2 (h % 64) none fun t => t.ctxs = s.ctxs ∧ t.cells = s.cells ∧
        { y with bad := true } ∈ t.liveVersions (key / 2 ^ 48) (key % 2 ^ 48)) ∧
    (let u := va.toNat / 0x1_0000 * 0x1_0000
     (s.house = 0 → exec (.frameSecondMapping die frame sid va) s = .next s) ∧
     (∀ p, s.house ≠ 0 → die < 4 → s.groupOfFrame die frame = some p → 0x1_0000_0000 ≤ u → u < 2 ^ 48 → ∃ q, exec (.frameSecondMapping die frame sid va) s =
         .next { s with pages := s.pages ++ [q] } ∧ q = { p with
           part := sid.toNat / 1024, sid := sid, va := u, big := false, frame := frame, second := true }) ∧
     (s.groupOfFrame die frame = none → exec (.frameSecondMapping die frame sid va) s = .next s))

/-- 03 R45-R48: the decoder reads the word of every well-formed instruction as that instruction, with every operand at every value its
field admits, from its four little-endian bytes and whatever follows them; and a word that decodes is exactly the word of a
well-formed instruction. -/
def Obligations.DecodeOfEncode : Prop :=
  (∀ (i : Instr) (w : IWord) (rest : List Byte), encode i = some w → i.wf = true →
    decodeWord w = .ok i ∧ decode (encodeBytes i ++ rest) = .ok (i, rest)) ∧
  ∀ (i : Instr) (bytes rest : List Byte), decode bytes = .ok (i, rest) →
    i.wf = true ∧ (encode i).isSome = true ∧ bytes = encodeBytes i ++ rest

/-- 03 R51, R52 and the words that the chapters write out: they decode to the instructions they stand for. No word of the majors 0x00,
0x33-0x37 and 0x3A-0x3F names an instruction, and of two words that differ each names another instruction. -/
def Obligations.WordsOfTheSpec : Prop :=
  (decodeWord 0x08E7FFFC#32 = .ok (.addi 7 7 0xFFFC) ∧ decodeWord 0x04642800#32 = .ok (.add 3 4 5) ∧
    decodeWord 0x2CC0FFFD#32 = .ok (.bne 6 0 0xFFFD) ∧ decodeWord 0x40200010#32 = .ok (.jal 1 0x10) ∧
    decodeWord 0x54A64003#32 = .ok (.ldD 5 6 1 0 3) ∧ decodeWord 0x71226FFF#32 = .ok (.stD 9 2 1 2 0xFFF) ∧
    decodeWord 0x5488C000#32 = .ok (.ldDTake 4 8 0 0) ∧ decodeWord 0xC0AE0003#32 = .ok (.rld 5 3 2 0 0 3) ∧
    decodeWord 0x946A0002#32 = .ok (.vld 3 10 0 0 2) ∧ decodeWord 0xA431A200#32 = .ok (.mma 2 12 13) ∧
    decodeWord 0x966A0002#32 = .error (.unusedField 0x966A0002#32) ∧ decodeWord 0#32 = .error (.unassigned 0#32) ∧
    decodeWord 0xB4806890#32 = .ok (.lacqGrp 4 0 13) ∧ decodeWord 0xB8E50000#32 = .ok (.optOn 7 5) ∧
    decodeWord 0xBC042823#32 = .ok (.capsetMint 0 4 5) ∧ decodeWord 0xCA013808#32 = .ok (.ramoAdd 16 1 7 0 0 1) ∧
    decodeWord 0x80490020#32 = .ok (.flagf 2 9) ∧ decodeWord 0xE0021108#32 = .ok (.csrw 0 2 0x108) ∧
    decodeWord 0xE78D0000#32 = .ok (.budx 28 13) ∧ decodeWord 0x84AB0002#32 = .ok (.barAw 5 11)) ∧
  ∀ (w v : IWord) (i : Instr),
    (let major := w.toNat / 2 ^ 26
     major = 0 ∨ (0x33 ≤ major ∧ major ≤ 0x37) ∨ 0x3A ≤ major → decodeWord w = .error (.unassigned w)) ∧
    (decodeWord w = .ok i → decodeWord v = .ok i → w = v)

/-- 01 R8, R18; 03 R45, R53, R54; 05 R132; 16 R311; 17 R330; 20 R361: one step. A slot that issues is charged one unit and fetches the
word at its pc: four little-endian bytes of its partition's memory. A word that decodes runs, and the step is `exec` of it; a word
that does not takes the ILL trap with itself as the trap word, and a fetch that faults the trap of its code with the pc as the
address. An instruction in flight is tried again without a fetch. An event from outside is `exec` of that event. -/
def Obligations.StepRunsTheDecodedInstruction : Prop :=
  ∀ (s : State) (x : Nat) (later : List Move), s.powered = true →
    let c := s.ctx x
    let u : State := { s with sched := later, cur := x }
    (s.sched = .issue x :: later → s.mayRun x = true → c.charged = false → c.taken = none →
      (∀ e, u.fetchWord x = .error e → step s = exec (.instructionFetchFault e) u) ∧
      (∀ v w, u.fetchWord x = .ok (v, w) →
        let r := v.issueWord x w
        (∀ e, decodeWord w = .error e → step s = exec (.illegalInstructionWord w) u) ∧
        (∀ i, decodeWord w = .ok i →
          ((r.ctx x).migrated = true → mustReturn (r.ctx x) w i = true → step s = exec (.migrationReturn x) r) ∧
          ((r.ctx x).migrated = false ∨ mustReturn (r.ctx x) w i = false →
            ((r.ctx x).readsBad i = false → step s = exec i r) ∧
            ((r.ctx x).readsBad i = true → ∃ t, step s = .next t ∧ (r.hasHandler → Trapped r t 0x0D r.self.pc 0)))))) ∧
    -- what is fetched, and what the issue changes
    (0x1_0000_0000 ≤ c.pc.toNat → c.pc.toNat < 2 ^ 48 → c.pc.toNat % 4 = 0 → s.HomeTakes c.space c.pc.toNat →
      (c.migrated = false → (s.cell c.cell).l1Line c.sid c.pc.toNat = none ∧ (s.cell c.cell).l1Room) →
      ∀ n, s.numAt (.mem c.space c.pc.toNat) 4 = some n →
      ∃ v, u.fetchWord x = .ok (v, BitVec.ofNat 32 n) ∧ v.ctxs = s.ctxs) ∧
    (tfind s.ctxs x = some c → ∀ w, let r := s.issueWord x w
      (∃ d, tfind r.ctxs x = some d ∧ d = { c with word := w, lastIssue := some (s.cyc (dieOfCell c.cell)), gap := 8
                                                   member := d.member }) ∧
      ∀ e, c.entry = some e → c.migrated = false →
        (tget {} (r.cell c.cell).unsent e).units = (tget {} (s.cell c.cell).unsent e).units + 1) ∧
    (s.sched = .issue x :: later → s.mayRun x = true → c.charged = true →
      ∀ i, decodeWord c.word = .ok i → c.readsBad i = false → step s = exec i (if c.reissues then u.noteIssue x else u)) ∧
    (∀ i, s.sched = .event i :: later → step s = exec i { s with sched := later }) ∧
    -- words and fetches that trap
    ((tfind s.ctxs s.cur).isSome = true → s.self.fetches = true →
      (∀ v w e, s.fetchWord s.cur = .ok (v, w) → decodeWord w = .error e → let r := v.issueWord s.cur w
        r.hasHandler → ∃ t, exec (.illegalInstructionWord w) s = .next t ∧ Trapped r t 0x01 r.self.pc 0) ∧
      (∀ code, s.fetchWord s.cur = .error code → s.hasHandler → let r := s.issueWord s.cur 0
        ∃ t, exec (.instructionFetchFault code) s = .next t ∧ (t.self.pc = (s.self.trapRegs (trapLevel s.self.pl)).tvec) ∧
          (code ≠ 0x0D → Trapped r t (code.zeroExtend 13) s.self.pc s.self.pc) ∧
          (code = 0x0D → Trapped (r.reportCtx s.cur code true 0 s.self.pc 0) t 0x0D s.self.pc s.self.pc)))

/-- 05 R97, R127; 20 R359: from any state whose memories are in their canonical form, whatever the step is, its memories are in that
form after it; and no step writes the flash or the fuses (21 R368, R369). -/
def Obligations.StepKeepsMemoryCanonical : Prop :=
  ∀ s t : State, step s = .next t → t.fixed = s.fixed ∧ (s.memWf = true → t.memWf = true)

/-- 01 R17; 04 R81; 17 R325-R327: from any state in which no privilege level, of a context, of its trap registers or of a queue entry,
is 0b11, every step leads to such a state. -/
def Obligations.StepKeepsPrivilegeLegal : Prop :=
  ∀ s t : State, (∀ p, p ∈ s.ctxs → p.2.plOk = true) → (∀ p, p ∈ s.entries → p.2.pl ≠ 3) → step s = .next t →
    (∀ p, p ∈ t.ctxs → p.2.plOk = true) ∧ ∀ p, p ∈ t.entries → p.2.pl ≠ 3

/-- What reset leaves: 01 R16 no context; 01 R24 `cctl` 1; 15 R296 the queue registers 0; 17 R332 the fault queue registers 0; 19
R352, R357 lines whose zero marks are set read as zero; 20 R365 the error counts 0; 21 R370 `bstat` at stage 0 with no failure.
The memories are in their canonical form, and a step at reset goes on. At power-on the spec clears DRAM before it is granted; that
lines which nothing has written read as zero from the start (log 2), and the values of what the spec gives no reset value (log 1),
are the model's choices. -/
def Obligations.ResetState : Prop :=
  let s := State.reset
  s.memWf = true ∧ s.powered = true ∧ s.bstat = 0x38 ∧ s.rdy = false ∧ s.resets = 0 ∧
    (∀ x, tfind s.ctxs x = none) ∧ (∀ n, (s.cell n).cctl = 1 ∧ s.cslst n = 0 ∧ (s.cell n).spadSize = 0x4_0000) ∧
    (∀ p d, (s.pdie p d).qtail = 0 ∧ (s.pdie p d).qhead = 0 ∧ (s.pdie p d).qbase = 0 ∧ (s.part p).fqbase = 0 ∧ (s.part p).fqtail = 0 ∧
      (s.part p).fqhead = 0 ∧ (s.part p).fqlost = 0 ∧ (s.part p).ptvec = 0) ∧
    (∀ d, (s.die d).sce = 0 ∧ (s.die d).sue = 0 ∧ (s.die d).dce = 0 ∧ (s.die d).due = 0 ∧ (s.die d).errloc = 0 ∧ (s.die d).ptbusy = false) ∧
    (∀ d a k, mget (s.dramLine d a).bytes k = 0) ∧ (∀ p v, s.page p v = none) ∧ ∃ t, step s = .next t
end

