-- ==== Sys2Proof/Laws/Table.lean ====
section
/-! SUPPORT. Reading after writing in tables, byte memories and sets; every memory operation keeps the canonical form. -/

set_option Elab.async false

namespace Sys2Proof.Machine

/-! ## Tables -/

@[simp] theorem tfind_tset_self {α : Type} (t : Table α) (k : Nat) (v : α) : tfind (tset t k v) k = some v := by
  induction t with
  | nil => simp [tset, tfind]
  | cons p t ih =>
    obtain ⟨j, w⟩ := p
    simp only [tset]
    split
    · simp [tfind]
    · split
      · simp [tfind]
      · rename_i h; simp [tfind, Ne.symm h, ih]

theorem tfind_tset_ne {α : Type} (t : Table α) {k j : Nat} (v : α) (h : j ≠ k) : tfind (tset t k v) j = tfind t j := by
  induction t with
  | nil => simp [tset, tfind, Ne.symm h]
  | cons p t ih =>
    obtain ⟨i, w⟩ := p
    simp only [tset]
    split
    · simp [tfind, Ne.symm h]
    · split
      · rename_i e; subst e; simp [tfind, Ne.symm h]
      · simp [tfind, ih]

theorem tfind_tset {α : Type} (t : Table α) (k j : Nat) (v : α) :
    tfind (tset t k v) j = if j = k then some v else tfind t j := by
  split
  · subst_vars; simp
  · exact tfind_tset_ne t v ‹_›

@[simp] theorem tget_tset_self {α : Type} (d : α) (t : Table α) (k : Nat) (v : α) : tget d (tset t k v) k = v := by
  simp [tget]

theorem tget_tset_ne {α : Type} (d : α) (t : Table α) {k j : Nat} (v : α) (h : j ≠ k) :
    tget d (tset t k v) j = tget d t j := by simp [tget, tfind_tset_ne t v h]

theorem tget_tset {α : Type} (d : α) (t : Table α) (k j : Nat) (v : α) :
    tget d (tset t k v) j = if j = k then v else tget d t j := by
  simp only [tget, tfind_tset]; split <;> simp

/-- Writing twice at one key keeps the second value alone. -/
@[simp] theorem tset_tset {α : Type} (t : Table α) (k : Nat) (v w : α) : tset (tset t k v) k w = tset t k w := by
  induction t with
  | nil => simp [tset]
  | cons p t ih =>
    obtain ⟨i, u⟩ := p
    simp only [tset]
    split
    · simp [tset]
    · split
      · simp [tset]
      · rename_i h1 h2; simp [tset, h1, h2, ih]

theorem tfind_lt {α : Type} {t : Table α} {lo k : Nat} (h : risesFrom lo t = true) (hk : k < lo) : tfind t k = none := by
  induction t generalizing lo with
  | nil => rfl
  | cons p t ih =>
    obtain ⟨j, w⟩ := p
    simp only [risesFrom, Bool.and_eq_true, decide_eq_true_eq] at h
    simp only [tfind, show ¬ j = k by omega, if_false]
    exact ih h.2 (by omega)

/-- What is left after a removal, in a table whose keys rise. -/
theorem tfind_tdel {α : Type} {t : Table α} {lo : Nat} (h : risesFrom lo t = true) (k j : Nat) :
    tfind (tdel t k) j = if j = k then none else tfind t j := by
  induction t generalizing lo with
  | nil => simp [tdel, tfind]
  | cons p t ih =>
    obtain ⟨i, w⟩ := p
    simp only [risesFrom, Bool.and_eq_true, decide_eq_true_eq] at h
    simp only [tdel]
    by_cases hi : i = k
    · subst hi
      by_cases hj : j = i
      · subst hj; simp [tfind_lt h.2 (Nat.lt_succ_self j)]
      · simp [tfind, hj, Ne.symm hj]
    · simp only [hi, if_false, tfind, ih h.2]
      by_cases hj : j = k
      · subst hj; simp [hi]
      · simp [hj]

/-! ## Rising keys -/

theorem risesFrom_mono {α : Type} {t : Table α} {lo lo' : Nat} (h : risesFrom lo t = true) (hl : lo' ≤ lo) :
    risesFrom lo' t = true := by
  cases t with
  | nil => rfl
  | cons p t =>
    obtain ⟨j, w⟩ := p
    simp only [risesFrom, Bool.and_eq_true, decide_eq_true_eq] at *
    exact ⟨by omega, h.2⟩

theorem risesFrom_tset {α : Type} {t : Table α} {lo k : Nat} (v : α) (h : risesFrom lo t = true) (hk : lo ≤ k) :
    risesFrom lo (tset t k v) = true := by
  induction t generalizing lo with
  | nil => simp [tset, risesFrom, hk]
  | cons p t ih =>
    obtain ⟨j, w⟩ := p
    simp only [risesFrom, Bool.and_eq_true, decide_eq_true_eq] at h
    simp only [tset]
    split
    · simp only [risesFrom, Bool.and_eq_true, decide_eq_true_eq]
      exact ⟨hk, by omega, h.2⟩
    · split
      · subst_vars; simpa [risesFrom] using ⟨hk, h.2⟩
      · simp only [risesFrom, Bool.and_eq_true, decide_eq_true_eq]
        exact ⟨h.1, ih h.2 (by omega)⟩

theorem risesFrom_tdel {α : Type} {t : Table α} {lo : Nat} (k : Nat) (h : risesFrom lo t = true) :
    risesFrom lo (tdel t k) = true := by
  induction t generalizing lo with
  | nil => rfl
  | cons p t ih =>
    obtain ⟨j, w⟩ := p
    simp only [risesFrom, Bool.and_eq_true, decide_eq_true_eq] at h
    simp only [tdel]
    split
    · exact risesFrom_mono h.2 (by omega)
    · simp only [risesFrom, Bool.and_eq_true, decide_eq_true_eq]
      exact ⟨h.1, ih h.2⟩

theorem all_tset {α : Type} {t : Table α} {q : Nat × α → Bool} {k : Nat} {v : α} (h : t.all q = true) (hv : q (k, v) = true) :
    (tset t k v).all q = true := by
  induction t with
  | nil => simpa [tset] using hv
  | cons p t ih =>
    obtain ⟨j, w⟩ := p
    simp only [List.all_cons, Bool.and_eq_true] at h
    simp only [tset]
    split
    · simp [hv, h]
    · split
      · simp [hv, h]
      · simp [h.1, ih h.2]

theorem all_tdel {α : Type} {t : Table α} {q : Nat × α → Bool} (k : Nat) (h : t.all q = true) : (tdel t k).all q = true := by
  induction t with
  | nil => rfl
  | cons p t ih =>
    obtain ⟨j, w⟩ := p
    simp only [List.all_cons, Bool.and_eq_true] at h
    simp only [tdel]
    split
    · exact h.2
    · simp [h.1, ih h.2]

theorem all_tget {α : Type} {t : Table α} {q : α → Bool} {d : α} (h : (t.all fun p => q p.2) = true) (hd : q d = true) (k : Nat) :
    q (tget d t k) = true := by
  induction t with
  | nil => simpa [tget, tfind] using hd
  | cons p t ih =>
    obtain ⟨j, w⟩ := p
    simp only [List.all_cons, Bool.and_eq_true] at h
    simp only [tget, tfind]
    split
    · simpa using h.1
    · exact ih h.2

theorem all_tfind {α : Type} {t : Table α} {q : α → Bool} {k : Nat} {v : α} (h : (t.all fun p => q p.2) = true)
    (hv : tfind t k = some v) : q v = true := by
  have := all_tget (d := v) h
  induction t with
  | nil => simp [tfind] at hv
  | cons p t ih =>
    obtain ⟨j, w⟩ := p
    simp only [List.all_cons, Bool.and_eq_true] at h
    simp only [tfind] at hv
    split at hv
    · simp only [Option.some.injEq] at hv; subst hv; exact h.1
    · exact ih h.2 hv (fun hd k => all_tget h.2 hd k)

/-! ## Byte memories -/

theorem memory_wf_nil : Memory.wf [] = true := rfl

theorem memory_wf_mset {m : Memory} (a : Nat) (b : Byte) (h : m.wf = true) : (mset m a b).wf = true := by
  simp only [Memory.wf, Bool.and_eq_true, mset] at *
  split
  · exact ⟨risesFrom_tdel a h.1, all_tdel a h.2⟩
  · exact ⟨risesFrom_tset b h.1 (Nat.zero_le a), all_tset h.2 (by simpa using ‹_›)⟩

theorem memory_wf_msetBytes {m : Memory} (a : Nat) (bs : List Byte) (h : m.wf = true) : (msetBytes m a bs).wf = true := by
  induction bs generalizing m a with
  | nil => exact h
  | cons b bs ih => exact ih (a + 1) (memory_wf_mset a b h)

/-- A fold of writes keeps the form. -/
theorem memory_wf_foldl {α : Type} (l : List α) (f : Memory → α → Memory) (hf : ∀ m x, m.wf = true → (f m x).wf = true)
    {m : Memory} (h : m.wf = true) : (l.foldl f m).wf = true := by
  induction l generalizing m with
  | nil => exact h
  | cons x l ih => exact ih (hf m x h)

theorem mget_mset {m : Memory} (h : m.wf = true) (a c : Nat) (b : Byte) : mget (mset m a b) c = if c = a then b else mget m c := by
  simp only [Memory.wf, Bool.and_eq_true] at h
  simp only [mget, mset, tget]
  split
  · rw [tfind_tdel h.1]; split <;> simp_all
  · rw [tfind_tset]; split <;> simp

/-- One byte after a write of bytes. -/
theorem mget_msetBytes {m : Memory} (h : m.wf = true) (a c : Nat) (bs : List Byte) :
    mget (msetBytes m a bs) c = if a ≤ c ∧ c < a + bs.length then bs.getD (c - a) 0 else mget m c := by
  induction bs generalizing m a with
  | nil => simp [msetBytes]
  | cons b bs ih =>
    rw [msetBytes, ih (memory_wf_mset a b h), mget_mset h]
    by_cases hc : c = a
    · subst hc; simp
    · by_cases hr : a + 1 ≤ c ∧ c < a + 1 + bs.length
      · obtain ⟨k, rfl⟩ : ∃ k, c = a + 1 + k := ⟨c - (a + 1), by omega⟩
        have e1 : a + 1 + k - (a + 1) = k := by omega
        have e2 : a + 1 + k - a = k + 1 := by omega
        simp [hr, e1, e2, show a ≤ a + 1 + k ∧ a + 1 + k < a + (bs.length + 1) by omega]
      · rw [if_neg hr, if_neg hc, if_neg (by simp only [List.length_cons]; omega)]

theorem leBytes_length (v n : Nat) : (leBytes v n).length = n := by
  induction n generalizing v with
  | zero => rfl
  | succ n ih => simp [leBytes, ih]

theorem mgetBytes_length (m : Memory) (a n : Nat) : (mgetBytes m a n).length = n := by
  induction n generalizing a with
  | zero => rfl
  | succ n ih => simp [mgetBytes, ih]

end Sys2Proof.Machine
end

