-- ==== Sys2Proof/Laws/State.lean ====
section
/-! SUPPORT. What each update of the state changes and leaves: one lemma per field and update of units, and the shared
operations on registers and completion said once. -/

set_option Elab.async false

namespace Sys2Proof.Machine

/-! ## Fields -/

/-! ### setCtx -/

@[simp] theorem State.setCtx_powered (s : State) (i : Nat) (c : Ctx) : (s.setCtx i c).powered = s.powered := rfl
@[simp] theorem State.setCtx_cur (s : State) (i : Nat) (c : Ctx) : (s.setCtx i c).cur = s.cur := rfl
@[simp] theorem State.setCtx_sched (s : State) (i : Nat) (c : Ctx) : (s.setCtx i c).sched = s.sched := rfl
@[simp] theorem State.setCtx_holds (s : State) (i : Nat) (c : Ctx) : (s.setCtx i c).holds = s.holds := rfl
@[simp] theorem State.setCtx_stamp (s : State) (i : Nat) (c : Ctx) : (s.setCtx i c).stamp = s.stamp := rfl
@[simp] theorem State.setCtx_free (s : State) (i : Nat) (c : Ctx) : (s.setCtx i c).free = s.free := rfl
@[simp] theorem State.setCtx_cells (s : State) (i : Nat) (c : Ctx) : (s.setCtx i c).cells = s.cells := rfl
@[simp] theorem State.setCtx_dies (s : State) (i : Nat) (c : Ctx) : (s.setCtx i c).dies = s.dies := rfl
@[simp] theorem State.setCtx_parts (s : State) (i : Nat) (c : Ctx) : (s.setCtx i c).parts = s.parts := rfl
@[simp] theorem State.setCtx_leases (s : State) (i : Nat) (c : Ctx) : (s.setCtx i c).leases = s.leases := rfl
@[simp] theorem State.setCtx_entries (s : State) (i : Nat) (c : Ctx) : (s.setCtx i c).entries = s.entries := rfl
@[simp] theorem State.setCtx_groups (s : State) (i : Nat) (c : Ctx) : (s.setCtx i c).groups = s.groups := rfl
@[simp] theorem State.setCtx_pages (s : State) (i : Nat) (c : Ctx) : (s.setCtx i c).pages = s.pages := rfl
@[simp] theorem State.setCtx_versions (s : State) (i : Nat) (c : Ctx) : (s.setCtx i c).versions = s.versions := rfl
@[simp] theorem State.setCtx_waiters (s : State) (i : Nat) (c : Ctx) : (s.setCtx i c).waiters = s.waiters := rfl
@[simp] theorem State.setCtx_lreqs (s : State) (i : Nat) (c : Ctx) : (s.setCtx i c).lreqs = s.lreqs := rfl
@[simp] theorem State.setCtx_kept (s : State) (i : Nat) (c : Ctx) : (s.setCtx i c).kept = s.kept := rfl
@[simp] theorem State.setCtx_breqs (s : State) (i : Nat) (c : Ctx) : (s.setCtx i c).breqs = s.breqs := rfl
@[simp] theorem State.setCtx_notices (s : State) (i : Nat) (c : Ctx) : (s.setCtx i c).notices = s.notices := rfl
@[simp] theorem State.setCtx_extensions (s : State) (i : Nat) (c : Ctx) : (s.setCtx i c).extensions = s.extensions := rfl
@[simp] theorem State.setCtx_jobs (s : State) (i : Nat) (c : Ctx) : (s.setCtx i c).jobs = s.jobs := rfl
@[simp] theorem State.setCtx_packets (s : State) (i : Nat) (c : Ctx) : (s.setCtx i c).packets = s.packets := rfl
@[simp] theorem State.setCtx_flights (s : State) (i : Nat) (c : Ctx) : (s.setCtx i c).flights = s.flights := rfl
@[simp] theorem State.setCtx_reports (s : State) (i : Nat) (c : Ctx) : (s.setCtx i c).reports = s.reports := rfl
@[simp] theorem State.setCtx_refreshes (s : State) (i : Nat) (c : Ctx) : (s.setCtx i c).refreshes = s.refreshes := rfl
@[simp] theorem State.setCtx_ends (s : State) (i : Nat) (c : Ctx) : (s.setCtx i c).ends = s.ends := rfl
@[simp] theorem State.setCtx_grants (s : State) (i : Nat) (c : Ctx) : (s.setCtx i c).grants = s.grants := rfl
@[simp] theorem State.setCtx_fresh (s : State) (i : Nat) (c : Ctx) : (s.setCtx i c).fresh = s.fresh := rfl
@[simp] theorem State.setCtx_stage (s : State) (i : Nat) (c : Ctx) : (s.setCtx i c).stage = s.stage := rfl
@[simp] theorem State.setCtx_fail (s : State) (i : Nat) (c : Ctx) : (s.setCtx i c).fail = s.fail := rfl
@[simp] theorem State.setCtx_img (s : State) (i : Nat) (c : Ctx) : (s.setCtx i c).img = s.img := rfl
@[simp] theorem State.setCtx_pcw (s : State) (i : Nat) (c : Ctx) : (s.setCtx i c).pcw = s.pcw := rfl
@[simp] theorem State.setCtx_pcr (s : State) (i : Nat) (c : Ctx) : (s.setCtx i c).pcr = s.pcr := rfl
@[simp] theorem State.setCtx_cxl (s : State) (i : Nat) (c : Ctx) : (s.setCtx i c).cxl = s.cxl := rfl
@[simp] theorem State.setCtx_pup (s : State) (i : Nat) (c : Ctx) : (s.setCtx i c).pup = s.pup := rfl
@[simp] theorem State.setCtx_rdy (s : State) (i : Nat) (c : Ctx) : (s.setCtx i c).rdy = s.rdy := rfl
@[simp] theorem State.setCtx_resets (s : State) (i : Nat) (c : Ctx) : (s.setCtx i c).resets = s.resets := rfl
@[simp] theorem State.setCtx_slotA (s : State) (i : Nat) (c : Ctx) : (s.setCtx i c).slotA = s.slotA := rfl
@[simp] theorem State.setCtx_slotB (s : State) (i : Nat) (c : Ctx) : (s.setCtx i c).slotB = s.slotB := rfl
@[simp] theorem State.setCtx_rollback (s : State) (i : Nat) (c : Ctx) : (s.setCtx i c).rollback = s.rollback := rfl
@[simp] theorem State.setCtx_failedGroups (s : State) (i : Nat) (c : Ctx) : (s.setCtx i c).failedGroups = s.failedGroups := rfl
@[simp] theorem State.setCtx_retryAt (s : State) (i : Nat) (c : Ctx) : (s.setCtx i c).retryAt = s.retryAt := rfl
@[simp] theorem State.setCtx_house (s : State) (i : Nat) (c : Ctx) : (s.setCtx i c).house = s.house := rfl
@[simp] theorem State.setCtx_hostOut (s : State) (i : Nat) (c : Ctx) : (s.setCtx i c).hostOut = s.hostOut := rfl

/-! ### modCtx -/

@[simp] theorem State.modCtx_powered (s : State) (i : Nat) (f : Ctx → Ctx) : (s.modCtx i f).powered = s.powered := rfl
@[simp] theorem State.modCtx_cur (s : State) (i : Nat) (f : Ctx → Ctx) : (s.modCtx i f).cur = s.cur := rfl
@[simp] theorem State.modCtx_sched (s : State) (i : Nat) (f : Ctx → Ctx) : (s.modCtx i f).sched = s.sched := rfl
@[simp] theorem State.modCtx_holds (s : State) (i : Nat) (f : Ctx → Ctx) : (s.modCtx i f).holds = s.holds := rfl
@[simp] theorem State.modCtx_stamp (s : State) (i : Nat) (f : Ctx → Ctx) : (s.modCtx i f).stamp = s.stamp := rfl
@[simp] theorem State.modCtx_free (s : State) (i : Nat) (f : Ctx → Ctx) : (s.modCtx i f).free = s.free := rfl
@[simp] theorem State.modCtx_cells (s : State) (i : Nat) (f : Ctx → Ctx) : (s.modCtx i f).cells = s.cells := rfl
@[simp] theorem State.modCtx_dies (s : State) (i : Nat) (f : Ctx → Ctx) : (s.modCtx i f).dies = s.dies := rfl
@[simp] theorem State.modCtx_parts (s : State) (i : Nat) (f : Ctx → Ctx) : (s.modCtx i f).parts = s.parts := rfl
@[simp] theorem State.modCtx_leases (s : State) (i : Nat) (f : Ctx → Ctx) : (s.modCtx i f).leases = s.leases := rfl
@[simp] theorem State.modCtx_entries (s : State) (i : Nat) (f : Ctx → Ctx) : (s.modCtx i f).entries = s.entries := rfl
@[simp] theorem State.modCtx_groups (s : State) (i : Nat) (f : Ctx → Ctx) : (s.modCtx i f).groups = s.groups := rfl
@[simp] theorem State.modCtx_pages (s : State) (i : Nat) (f : Ctx → Ctx) : (s.modCtx i f).pages = s.pages := rfl
@[simp] theorem State.modCtx_versions (s : State) (i : Nat) (f : Ctx → Ctx) : (s.modCtx i f).versions = s.versions := rfl
@[simp] theorem State.modCtx_waiters (s : State) (i : Nat) (f : Ctx → Ctx) : (s.modCtx i f).waiters = s.waiters := rfl
@[simp] theorem State.modCtx_lreqs (s : State) (i : Nat) (f : Ctx → Ctx) : (s.modCtx i f).lreqs = s.lreqs := rfl
@[simp] theorem State.modCtx_kept (s : State) (i : Nat) (f : Ctx → Ctx) : (s.modCtx i f).kept = s.kept := rfl
@[simp] theorem State.modCtx_breqs (s : State) (i : Nat) (f : Ctx → Ctx) : (s.modCtx i f).breqs = s.breqs := rfl
@[simp] theorem State.modCtx_notices (s : State) (i : Nat) (f : Ctx → Ctx) : (s.modCtx i f).notices = s.notices := rfl
@[simp] theorem State.modCtx_extensions (s : State) (i : Nat) (f : Ctx → Ctx) : (s.modCtx i f).extensions = s.extensions := rfl
@[simp] theorem State.modCtx_jobs (s : State) (i : Nat) (f : Ctx → Ctx) : (s.modCtx i f).jobs = s.jobs := rfl
@[simp] theorem State.modCtx_packets (s : State) (i : Nat) (f : Ctx → Ctx) : (s.modCtx i f).packets = s.packets := rfl
@[simp] theorem State.modCtx_flights (s : State) (i : Nat) (f : Ctx → Ctx) : (s.modCtx i f).flights = s.flights := rfl
@[simp] theorem State.modCtx_reports (s : State) (i : Nat) (f : Ctx → Ctx) : (s.modCtx i f).reports = s.reports := rfl
@[simp] theorem State.modCtx_refreshes (s : State) (i : Nat) (f : Ctx → Ctx) : (s.modCtx i f).refreshes = s.refreshes := rfl
@[simp] theorem State.modCtx_ends (s : State) (i : Nat) (f : Ctx → Ctx) : (s.modCtx i f).ends = s.ends := rfl
@[simp] theorem State.modCtx_grants (s : State) (i : Nat) (f : Ctx → Ctx) : (s.modCtx i f).grants = s.grants := rfl
@[simp] theorem State.modCtx_fresh (s : State) (i : Nat) (f : Ctx → Ctx) : (s.modCtx i f).fresh = s.fresh := rfl
@[simp] theorem State.modCtx_stage (s : State) (i : Nat) (f : Ctx → Ctx) : (s.modCtx i f).stage = s.stage := rfl
@[simp] theorem State.modCtx_fail (s : State) (i : Nat) (f : Ctx → Ctx) : (s.modCtx i f).fail = s.fail := rfl
@[simp] theorem State.modCtx_img (s : State) (i : Nat) (f : Ctx → Ctx) : (s.modCtx i f).img = s.img := rfl
@[simp] theorem State.modCtx_pcw (s : State) (i : Nat) (f : Ctx → Ctx) : (s.modCtx i f).pcw = s.pcw := rfl
@[simp] theorem State.modCtx_pcr (s : State) (i : Nat) (f : Ctx → Ctx) : (s.modCtx i f).pcr = s.pcr := rfl
@[simp] theorem State.modCtx_cxl (s : State) (i : Nat) (f : Ctx → Ctx) : (s.modCtx i f).cxl = s.cxl := rfl
@[simp] theorem State.modCtx_pup (s : State) (i : Nat) (f : Ctx → Ctx) : (s.modCtx i f).pup = s.pup := rfl
@[simp] theorem State.modCtx_rdy (s : State) (i : Nat) (f : Ctx → Ctx) : (s.modCtx i f).rdy = s.rdy := rfl
@[simp] theorem State.modCtx_resets (s : State) (i : Nat) (f : Ctx → Ctx) : (s.modCtx i f).resets = s.resets := rfl
@[simp] theorem State.modCtx_slotA (s : State) (i : Nat) (f : Ctx → Ctx) : (s.modCtx i f).slotA = s.slotA := rfl
@[simp] theorem State.modCtx_slotB (s : State) (i : Nat) (f : Ctx → Ctx) : (s.modCtx i f).slotB = s.slotB := rfl
@[simp] theorem State.modCtx_rollback (s : State) (i : Nat) (f : Ctx → Ctx) : (s.modCtx i f).rollback = s.rollback := rfl
@[simp] theorem State.modCtx_failedGroups (s : State) (i : Nat) (f : Ctx → Ctx) : (s.modCtx i f).failedGroups = s.failedGroups := rfl
@[simp] theorem State.modCtx_retryAt (s : State) (i : Nat) (f : Ctx → Ctx) : (s.modCtx i f).retryAt = s.retryAt := rfl
@[simp] theorem State.modCtx_house (s : State) (i : Nat) (f : Ctx → Ctx) : (s.modCtx i f).house = s.house := rfl
@[simp] theorem State.modCtx_hostOut (s : State) (i : Nat) (f : Ctx → Ctx) : (s.modCtx i f).hostOut = s.hostOut := rfl

/-! ### mod -/

@[simp] theorem State.mod_powered (s : State) (f : Ctx → Ctx) : (s.mod f).powered = s.powered := rfl
@[simp] theorem State.mod_cur (s : State) (f : Ctx → Ctx) : (s.mod f).cur = s.cur := rfl
@[simp] theorem State.mod_sched (s : State) (f : Ctx → Ctx) : (s.mod f).sched = s.sched := rfl
@[simp] theorem State.mod_holds (s : State) (f : Ctx → Ctx) : (s.mod f).holds = s.holds := rfl
@[simp] theorem State.mod_stamp (s : State) (f : Ctx → Ctx) : (s.mod f).stamp = s.stamp := rfl
@[simp] theorem State.mod_free (s : State) (f : Ctx → Ctx) : (s.mod f).free = s.free := rfl
@[simp] theorem State.mod_cells (s : State) (f : Ctx → Ctx) : (s.mod f).cells = s.cells := rfl
@[simp] theorem State.mod_dies (s : State) (f : Ctx → Ctx) : (s.mod f).dies = s.dies := rfl
@[simp] theorem State.mod_parts (s : State) (f : Ctx → Ctx) : (s.mod f).parts = s.parts := rfl
@[simp] theorem State.mod_leases (s : State) (f : Ctx → Ctx) : (s.mod f).leases = s.leases := rfl
@[simp] theorem State.mod_entries (s : State) (f : Ctx → Ctx) : (s.mod f).entries = s.entries := rfl
@[simp] theorem State.mod_groups (s : State) (f : Ctx → Ctx) : (s.mod f).groups = s.groups := rfl
@[simp] theorem State.mod_pages (s : State) (f : Ctx → Ctx) : (s.mod f).pages = s.pages := rfl
@[simp] theorem State.mod_versions (s : State) (f : Ctx → Ctx) : (s.mod f).versions = s.versions := rfl
@[simp] theorem State.mod_waiters (s : State) (f : Ctx → Ctx) : (s.mod f).waiters = s.waiters := rfl
@[simp] theorem State.mod_lreqs (s : State) (f : Ctx → Ctx) : (s.mod f).lreqs = s.lreqs := rfl
@[simp] theorem State.mod_kept (s : State) (f : Ctx → Ctx) : (s.mod f).kept = s.kept := rfl
@[simp] theorem State.mod_breqs (s : State) (f : Ctx → Ctx) : (s.mod f).breqs = s.breqs := rfl
@[simp] theorem State.mod_notices (s : State) (f : Ctx → Ctx) : (s.mod f).notices = s.notices := rfl
@[simp] theorem State.mod_extensions (s : State) (f : Ctx → Ctx) : (s.mod f).extensions = s.extensions := rfl
@[simp] theorem State.mod_jobs (s : State) (f : Ctx → Ctx) : (s.mod f).jobs = s.jobs := rfl
@[simp] theorem State.mod_packets (s : State) (f : Ctx → Ctx) : (s.mod f).packets = s.packets := rfl
@[simp] theorem State.mod_flights (s : State) (f : Ctx → Ctx) : (s.mod f).flights = s.flights := rfl
@[simp] theorem State.mod_reports (s : State) (f : Ctx → Ctx) : (s.mod f).reports = s.reports := rfl
@[simp] theorem State.mod_refreshes (s : State) (f : Ctx → Ctx) : (s.mod f).refreshes = s.refreshes := rfl
@[simp] theorem State.mod_ends (s : State) (f : Ctx → Ctx) : (s.mod f).ends = s.ends := rfl
@[simp] theorem State.mod_grants (s : State) (f : Ctx → Ctx) : (s.mod f).grants = s.grants := rfl
@[simp] theorem State.mod_fresh (s : State) (f : Ctx → Ctx) : (s.mod f).fresh = s.fresh := rfl
@[simp] theorem State.mod_stage (s : State) (f : Ctx → Ctx) : (s.mod f).stage = s.stage := rfl
@[simp] theorem State.mod_fail (s : State) (f : Ctx → Ctx) : (s.mod f).fail = s.fail := rfl
@[simp] theorem State.mod_img (s : State) (f : Ctx → Ctx) : (s.mod f).img = s.img := rfl
@[simp] theorem State.mod_pcw (s : State) (f : Ctx → Ctx) : (s.mod f).pcw = s.pcw := rfl
@[simp] theorem State.mod_pcr (s : State) (f : Ctx → Ctx) : (s.mod f).pcr = s.pcr := rfl
@[simp] theorem State.mod_cxl (s : State) (f : Ctx → Ctx) : (s.mod f).cxl = s.cxl := rfl
@[simp] theorem State.mod_pup (s : State) (f : Ctx → Ctx) : (s.mod f).pup = s.pup := rfl
@[simp] theorem State.mod_rdy (s : State) (f : Ctx → Ctx) : (s.mod f).rdy = s.rdy := rfl
@[simp] theorem State.mod_resets (s : State) (f : Ctx → Ctx) : (s.mod f).resets = s.resets := rfl
@[simp] theorem State.mod_slotA (s : State) (f : Ctx → Ctx) : (s.mod f).slotA = s.slotA := rfl
@[simp] theorem State.mod_slotB (s : State) (f : Ctx → Ctx) : (s.mod f).slotB = s.slotB := rfl
@[simp] theorem State.mod_rollback (s : State) (f : Ctx → Ctx) : (s.mod f).rollback = s.rollback := rfl
@[simp] theorem State.mod_failedGroups (s : State) (f : Ctx → Ctx) : (s.mod f).failedGroups = s.failedGroups := rfl
@[simp] theorem State.mod_retryAt (s : State) (f : Ctx → Ctx) : (s.mod f).retryAt = s.retryAt := rfl
@[simp] theorem State.mod_house (s : State) (f : Ctx → Ctx) : (s.mod f).house = s.house := rfl
@[simp] theorem State.mod_hostOut (s : State) (f : Ctx → Ctx) : (s.mod f).hostOut = s.hostOut := rfl

/-! ### modCell -/

@[simp] theorem State.modCell_powered (s : State) (n : Nat) (f : Cell → Cell) : (s.modCell n f).powered = s.powered := rfl
@[simp] theorem State.modCell_cur (s : State) (n : Nat) (f : Cell → Cell) : (s.modCell n f).cur = s.cur := rfl
@[simp] theorem State.modCell_sched (s : State) (n : Nat) (f : Cell → Cell) : (s.modCell n f).sched = s.sched := rfl
@[simp] theorem State.modCell_holds (s : State) (n : Nat) (f : Cell → Cell) : (s.modCell n f).holds = s.holds := rfl
@[simp] theorem State.modCell_stamp (s : State) (n : Nat) (f : Cell → Cell) : (s.modCell n f).stamp = s.stamp := rfl
@[simp] theorem State.modCell_free (s : State) (n : Nat) (f : Cell → Cell) : (s.modCell n f).free = s.free := rfl
@[simp] theorem State.modCell_dies (s : State) (n : Nat) (f : Cell → Cell) : (s.modCell n f).dies = s.dies := rfl
@[simp] theorem State.modCell_parts (s : State) (n : Nat) (f : Cell → Cell) : (s.modCell n f).parts = s.parts := rfl
@[simp] theorem State.modCell_leases (s : State) (n : Nat) (f : Cell → Cell) : (s.modCell n f).leases = s.leases := rfl
@[simp] theorem State.modCell_entries (s : State) (n : Nat) (f : Cell → Cell) : (s.modCell n f).entries = s.entries := rfl
@[simp] theorem State.modCell_groups (s : State) (n : Nat) (f : Cell → Cell) : (s.modCell n f).groups = s.groups := rfl
@[simp] theorem State.modCell_pages (s : State) (n : Nat) (f : Cell → Cell) : (s.modCell n f).pages = s.pages := rfl
@[simp] theorem State.modCell_versions (s : State) (n : Nat) (f : Cell → Cell) : (s.modCell n f).versions = s.versions := rfl
@[simp] theorem State.modCell_waiters (s : State) (n : Nat) (f : Cell → Cell) : (s.modCell n f).waiters = s.waiters := rfl
@[simp] theorem State.modCell_lreqs (s : State) (n : Nat) (f : Cell → Cell) : (s.modCell n f).lreqs = s.lreqs := rfl
@[simp] theorem State.modCell_kept (s : State) (n : Nat) (f : Cell → Cell) : (s.modCell n f).kept = s.kept := rfl
@[simp] theorem State.modCell_breqs (s : State) (n : Nat) (f : Cell → Cell) : (s.modCell n f).breqs = s.breqs := rfl
@[simp] theorem State.modCell_notices (s : State) (n : Nat) (f : Cell → Cell) : (s.modCell n f).notices = s.notices := rfl
@[simp] theorem State.modCell_extensions (s : State) (n : Nat) (f : Cell → Cell) : (s.modCell n f).extensions = s.extensions := rfl
@[simp] theorem State.modCell_jobs (s : State) (n : Nat) (f : Cell → Cell) : (s.modCell n f).jobs = s.jobs := rfl
@[simp] theorem State.modCell_packets (s : State) (n : Nat) (f : Cell → Cell) : (s.modCell n f).packets = s.packets := rfl
@[simp] theorem State.modCell_flights (s : State) (n : Nat) (f : Cell → Cell) : (s.modCell n f).flights = s.flights := rfl
@[simp] theorem State.modCell_reports (s : State) (n : Nat) (f : Cell → Cell) : (s.modCell n f).reports = s.reports := rfl
@[simp] theorem State.modCell_refreshes (s : State) (n : Nat) (f : Cell → Cell) : (s.modCell n f).refreshes = s.refreshes := rfl
@[simp] theorem State.modCell_ends (s : State) (n : Nat) (f : Cell → Cell) : (s.modCell n f).ends = s.ends := rfl
@[simp] theorem State.modCell_grants (s : State) (n : Nat) (f : Cell → Cell) : (s.modCell n f).grants = s.grants := rfl
@[simp] theorem State.modCell_fresh (s : State) (n : Nat) (f : Cell → Cell) : (s.modCell n f).fresh = s.fresh := rfl
@[simp] theorem State.modCell_stage (s : State) (n : Nat) (f : Cell → Cell) : (s.modCell n f).stage = s.stage := rfl
@[simp] theorem State.modCell_fail (s : State) (n : Nat) (f : Cell → Cell) : (s.modCell n f).fail = s.fail := rfl
@[simp] theorem State.modCell_img (s : State) (n : Nat) (f : Cell → Cell) : (s.modCell n f).img = s.img := rfl
@[simp] theorem State.modCell_pcw (s : State) (n : Nat) (f : Cell → Cell) : (s.modCell n f).pcw = s.pcw := rfl
@[simp] theorem State.modCell_pcr (s : State) (n : Nat) (f : Cell → Cell) : (s.modCell n f).pcr = s.pcr := rfl
@[simp] theorem State.modCell_cxl (s : State) (n : Nat) (f : Cell → Cell) : (s.modCell n f).cxl = s.cxl := rfl
@[simp] theorem State.modCell_pup (s : State) (n : Nat) (f : Cell → Cell) : (s.modCell n f).pup = s.pup := rfl
@[simp] theorem State.modCell_rdy (s : State) (n : Nat) (f : Cell → Cell) : (s.modCell n f).rdy = s.rdy := rfl
@[simp] theorem State.modCell_resets (s : State) (n : Nat) (f : Cell → Cell) : (s.modCell n f).resets = s.resets := rfl
@[simp] theorem State.modCell_slotA (s : State) (n : Nat) (f : Cell → Cell) : (s.modCell n f).slotA = s.slotA := rfl
@[simp] theorem State.modCell_slotB (s : State) (n : Nat) (f : Cell → Cell) : (s.modCell n f).slotB = s.slotB := rfl
@[simp] theorem State.modCell_rollback (s : State) (n : Nat) (f : Cell → Cell) : (s.modCell n f).rollback = s.rollback := rfl
@[simp] theorem State.modCell_failedGroups (s : State) (n : Nat) (f : Cell → Cell) : (s.modCell n f).failedGroups = s.failedGroups := rfl
@[simp] theorem State.modCell_retryAt (s : State) (n : Nat) (f : Cell → Cell) : (s.modCell n f).retryAt = s.retryAt := rfl
@[simp] theorem State.modCell_house (s : State) (n : Nat) (f : Cell → Cell) : (s.modCell n f).house = s.house := rfl
@[simp] theorem State.modCell_hostOut (s : State) (n : Nat) (f : Cell → Cell) : (s.modCell n f).hostOut = s.hostOut := rfl
@[simp] theorem State.modCell_ctxs (s : State) (n : Nat) (f : Cell → Cell) : (s.modCell n f).ctxs = s.ctxs := rfl

/-! ### modDie -/

@[simp] theorem State.modDie_powered (s : State) (n : Nat) (f : Die → Die) : (s.modDie n f).powered = s.powered := rfl
@[simp] theorem State.modDie_cur (s : State) (n : Nat) (f : Die → Die) : (s.modDie n f).cur = s.cur := rfl
@[simp] theorem State.modDie_sched (s : State) (n : Nat) (f : Die → Die) : (s.modDie n f).sched = s.sched := rfl
@[simp] theorem State.modDie_holds (s : State) (n : Nat) (f : Die → Die) : (s.modDie n f).holds = s.holds := rfl
@[simp] theorem State.modDie_stamp (s : State) (n : Nat) (f : Die → Die) : (s.modDie n f).stamp = s.stamp := rfl
@[simp] theorem State.modDie_free (s : State) (n : Nat) (f : Die → Die) : (s.modDie n f).free = s.free := rfl
@[simp] theorem State.modDie_cells (s : State) (n : Nat) (f : Die → Die) : (s.modDie n f).cells = s.cells := rfl
@[simp] theorem State.modDie_parts (s : State) (n : Nat) (f : Die → Die) : (s.modDie n f).parts = s.parts := rfl
@[simp] theorem State.modDie_leases (s : State) (n : Nat) (f : Die → Die) : (s.modDie n f).leases = s.leases := rfl
@[simp] theorem State.modDie_entries (s : State) (n : Nat) (f : Die → Die) : (s.modDie n f).entries = s.entries := rfl
@[simp] theorem State.modDie_groups (s : State) (n : Nat) (f : Die → Die) : (s.modDie n f).groups = s.groups := rfl
@[simp] theorem State.modDie_pages (s : State) (n : Nat) (f : Die → Die) : (s.modDie n f).pages = s.pages := rfl
@[simp] theorem State.modDie_versions (s : State) (n : Nat) (f : Die → Die) : (s.modDie n f).versions = s.versions := rfl
@[simp] theorem State.modDie_waiters (s : State) (n : Nat) (f : Die → Die) : (s.modDie n f).waiters = s.waiters := rfl
@[simp] theorem State.modDie_lreqs (s : State) (n : Nat) (f : Die → Die) : (s.modDie n f).lreqs = s.lreqs := rfl
@[simp] theorem State.modDie_kept (s : State) (n : Nat) (f : Die → Die) : (s.modDie n f).kept = s.kept := rfl
@[simp] theorem State.modDie_breqs (s : State) (n : Nat) (f : Die → Die) : (s.modDie n f).breqs = s.breqs := rfl
@[simp] theorem State.modDie_notices (s : State) (n : Nat) (f : Die → Die) : (s.modDie n f).notices = s.notices := rfl
@[simp] theorem State.modDie_extensions (s : State) (n : Nat) (f : Die → Die) : (s.modDie n f).extensions = s.extensions := rfl
@[simp] theorem State.modDie_jobs (s : State) (n : Nat) (f : Die → Die) : (s.modDie n f).jobs = s.jobs := rfl
@[simp] theorem State.modDie_packets (s : State) (n : Nat) (f : Die → Die) : (s.modDie n f).packets = s.packets := rfl
@[simp] theorem State.modDie_flights (s : State) (n : Nat) (f : Die → Die) : (s.modDie n f).flights = s.flights := rfl
@[simp] theorem State.modDie_reports (s : State) (n : Nat) (f : Die → Die) : (s.modDie n f).reports = s.reports := rfl
@[simp] theorem State.modDie_refreshes (s : State) (n : Nat) (f : Die → Die) : (s.modDie n f).refreshes = s.refreshes := rfl
@[simp] theorem State.modDie_ends (s : State) (n : Nat) (f : Die → Die) : (s.modDie n f).ends = s.ends := rfl
@[simp] theorem State.modDie_grants (s : State) (n : Nat) (f : Die → Die) : (s.modDie n f).grants = s.grants := rfl
@[simp] theorem State.modDie_fresh (s : State) (n : Nat) (f : Die → Die) : (s.modDie n f).fresh = s.fresh := rfl
@[simp] theorem State.modDie_stage (s : State) (n : Nat) (f : Die → Die) : (s.modDie n f).stage = s.stage := rfl
@[simp] theorem State.modDie_fail (s : State) (n : Nat) (f : Die → Die) : (s.modDie n f).fail = s.fail := rfl
@[simp] theorem State.modDie_img (s : State) (n : Nat) (f : Die → Die) : (s.modDie n f).img = s.img := rfl
@[simp] theorem State.modDie_pcw (s : State) (n : Nat) (f : Die → Die) : (s.modDie n f).pcw = s.pcw := rfl
@[simp] theorem State.modDie_pcr (s : State) (n : Nat) (f : Die → Die) : (s.modDie n f).pcr = s.pcr := rfl
@[simp] theorem State.modDie_cxl (s : State) (n : Nat) (f : Die → Die) : (s.modDie n f).cxl = s.cxl := rfl
@[simp] theorem State.modDie_pup (s : State) (n : Nat) (f : Die → Die) : (s.modDie n f).pup = s.pup := rfl
@[simp] theorem State.modDie_rdy (s : State) (n : Nat) (f : Die → Die) : (s.modDie n f).rdy = s.rdy := rfl
@[simp] theorem State.modDie_resets (s : State) (n : Nat) (f : Die → Die) : (s.modDie n f).resets = s.resets := rfl
@[simp] theorem State.modDie_slotA (s : State) (n : Nat) (f : Die → Die) : (s.modDie n f).slotA = s.slotA := rfl
@[simp] theorem State.modDie_slotB (s : State) (n : Nat) (f : Die → Die) : (s.modDie n f).slotB = s.slotB := rfl
@[simp] theorem State.modDie_rollback (s : State) (n : Nat) (f : Die → Die) : (s.modDie n f).rollback = s.rollback := rfl
@[simp] theorem State.modDie_failedGroups (s : State) (n : Nat) (f : Die → Die) : (s.modDie n f).failedGroups = s.failedGroups := rfl
@[simp] theorem State.modDie_retryAt (s : State) (n : Nat) (f : Die → Die) : (s.modDie n f).retryAt = s.retryAt := rfl
@[simp] theorem State.modDie_house (s : State) (n : Nat) (f : Die → Die) : (s.modDie n f).house = s.house := rfl
@[simp] theorem State.modDie_hostOut (s : State) (n : Nat) (f : Die → Die) : (s.modDie n f).hostOut = s.hostOut := rfl
@[simp] theorem State.modDie_ctxs (s : State) (n : Nat) (f : Die → Die) : (s.modDie n f).ctxs = s.ctxs := rfl

/-! ### modPart -/

@[simp] theorem State.modPart_powered (s : State) (n : Nat) (f : Part → Part) : (s.modPart n f).powered = s.powered := rfl
@[simp] theorem State.modPart_cur (s : State) (n : Nat) (f : Part → Part) : (s.modPart n f).cur = s.cur := rfl
@[simp] theorem State.modPart_sched (s : State) (n : Nat) (f : Part → Part) : (s.modPart n f).sched = s.sched := rfl
@[simp] theorem State.modPart_holds (s : State) (n : Nat) (f : Part → Part) : (s.modPart n f).holds = s.holds := rfl
@[simp] theorem State.modPart_stamp (s : State) (n : Nat) (f : Part → Part) : (s.modPart n f).stamp = s.stamp := rfl
@[simp] theorem State.modPart_free (s : State) (n : Nat) (f : Part → Part) : (s.modPart n f).free = s.free := rfl
@[simp] theorem State.modPart_cells (s : State) (n : Nat) (f : Part → Part) : (s.modPart n f).cells = s.cells := rfl
@[simp] theorem State.modPart_dies (s : State) (n : Nat) (f : Part → Part) : (s.modPart n f).dies = s.dies := rfl
@[simp] theorem State.modPart_leases (s : State) (n : Nat) (f : Part → Part) : (s.modPart n f).leases = s.leases := rfl
@[simp] theorem State.modPart_entries (s : State) (n : Nat) (f : Part → Part) : (s.modPart n f).entries = s.entries := rfl
@[simp] theorem State.modPart_groups (s : State) (n : Nat) (f : Part → Part) : (s.modPart n f).groups = s.groups := rfl
@[simp] theorem State.modPart_pages (s : State) (n : Nat) (f : Part → Part) : (s.modPart n f).pages = s.pages := rfl
@[simp] theorem State.modPart_versions (s : State) (n : Nat) (f : Part → Part) : (s.modPart n f).versions = s.versions := rfl
@[simp] theorem State.modPart_waiters (s : State) (n : Nat) (f : Part → Part) : (s.modPart n f).waiters = s.waiters := rfl
@[simp] theorem State.modPart_lreqs (s : State) (n : Nat) (f : Part → Part) : (s.modPart n f).lreqs = s.lreqs := rfl
@[simp] theorem State.modPart_kept (s : State) (n : Nat) (f : Part → Part) : (s.modPart n f).kept = s.kept := rfl
@[simp] theorem State.modPart_breqs (s : State) (n : Nat) (f : Part → Part) : (s.modPart n f).breqs = s.breqs := rfl
@[simp] theorem State.modPart_notices (s : State) (n : Nat) (f : Part → Part) : (s.modPart n f).notices = s.notices := rfl
@[simp] theorem State.modPart_extensions (s : State) (n : Nat) (f : Part → Part) : (s.modPart n f).extensions = s.extensions := rfl
@[simp] theorem State.modPart_jobs (s : State) (n : Nat) (f : Part → Part) : (s.modPart n f).jobs = s.jobs := rfl
@[simp] theorem State.modPart_packets (s : State) (n : Nat) (f : Part → Part) : (s.modPart n f).packets = s.packets := rfl
@[simp] theorem State.modPart_flights (s : State) (n : Nat) (f : Part → Part) : (s.modPart n f).flights = s.flights := rfl
@[simp] theorem State.modPart_reports (s : State) (n : Nat) (f : Part → Part) : (s.modPart n f).reports = s.reports := rfl
@[simp] theorem State.modPart_refreshes (s : State) (n : Nat) (f : Part → Part) : (s.modPart n f).refreshes = s.refreshes := rfl
@[simp] theorem State.modPart_ends (s : State) (n : Nat) (f : Part → Part) : (s.modPart n f).ends = s.ends := rfl
@[simp] theorem State.modPart_grants (s : State) (n : Nat) (f : Part → Part) : (s.modPart n f).grants = s.grants := rfl
@[simp] theorem State.modPart_fresh (s : State) (n : Nat) (f : Part → Part) : (s.modPart n f).fresh = s.fresh := rfl
@[simp] theorem State.modPart_stage (s : State) (n : Nat) (f : Part → Part) : (s.modPart n f).stage = s.stage := rfl
@[simp] theorem State.modPart_fail (s : State) (n : Nat) (f : Part → Part) : (s.modPart n f).fail = s.fail := rfl
@[simp] theorem State.modPart_img (s : State) (n : Nat) (f : Part → Part) : (s.modPart n f).img = s.img := rfl
@[simp] theorem State.modPart_pcw (s : State) (n : Nat) (f : Part → Part) : (s.modPart n f).pcw = s.pcw := rfl
@[simp] theorem State.modPart_pcr (s : State) (n : Nat) (f : Part → Part) : (s.modPart n f).pcr = s.pcr := rfl
@[simp] theorem State.modPart_cxl (s : State) (n : Nat) (f : Part → Part) : (s.modPart n f).cxl = s.cxl := rfl
@[simp] theorem State.modPart_pup (s : State) (n : Nat) (f : Part → Part) : (s.modPart n f).pup = s.pup := rfl
@[simp] theorem State.modPart_rdy (s : State) (n : Nat) (f : Part → Part) : (s.modPart n f).rdy = s.rdy := rfl
@[simp] theorem State.modPart_resets (s : State) (n : Nat) (f : Part → Part) : (s.modPart n f).resets = s.resets := rfl
@[simp] theorem State.modPart_slotA (s : State) (n : Nat) (f : Part → Part) : (s.modPart n f).slotA = s.slotA := rfl
@[simp] theorem State.modPart_slotB (s : State) (n : Nat) (f : Part → Part) : (s.modPart n f).slotB = s.slotB := rfl
@[simp] theorem State.modPart_rollback (s : State) (n : Nat) (f : Part → Part) : (s.modPart n f).rollback = s.rollback := rfl
@[simp] theorem State.modPart_failedGroups (s : State) (n : Nat) (f : Part → Part) : (s.modPart n f).failedGroups = s.failedGroups := rfl
@[simp] theorem State.modPart_retryAt (s : State) (n : Nat) (f : Part → Part) : (s.modPart n f).retryAt = s.retryAt := rfl
@[simp] theorem State.modPart_house (s : State) (n : Nat) (f : Part → Part) : (s.modPart n f).house = s.house := rfl
@[simp] theorem State.modPart_hostOut (s : State) (n : Nat) (f : Part → Part) : (s.modPart n f).hostOut = s.hostOut := rfl
@[simp] theorem State.modPart_ctxs (s : State) (n : Nat) (f : Part → Part) : (s.modPart n f).ctxs = s.ctxs := rfl

/-! ### finish -/

@[simp] theorem State.finish_powered (s : State) : (s.finish).powered = s.powered := rfl
@[simp] theorem State.finish_cur (s : State) : (s.finish).cur = s.cur := rfl
@[simp] theorem State.finish_sched (s : State) : (s.finish).sched = s.sched := rfl
@[simp] theorem State.finish_holds (s : State) : (s.finish).holds = s.holds := rfl
@[simp] theorem State.finish_stamp (s : State) : (s.finish).stamp = s.stamp := rfl
@[simp] theorem State.finish_free (s : State) : (s.finish).free = s.free := rfl
@[simp] theorem State.finish_cells (s : State) : (s.finish).cells = s.cells := rfl
@[simp] theorem State.finish_dies (s : State) : (s.finish).dies = s.dies := rfl
@[simp] theorem State.finish_parts (s : State) : (s.finish).parts = s.parts := rfl
@[simp] theorem State.finish_leases (s : State) : (s.finish).leases = s.leases := rfl
@[simp] theorem State.finish_entries (s : State) : (s.finish).entries = s.entries := rfl
@[simp] theorem State.finish_groups (s : State) : (s.finish).groups = s.groups := rfl
@[simp] theorem State.finish_pages (s : State) : (s.finish).pages = s.pages := rfl
@[simp] theorem State.finish_versions (s : State) : (s.finish).versions = s.versions := rfl
@[simp] theorem State.finish_waiters (s : State) : (s.finish).waiters = s.waiters := rfl
@[simp] theorem State.finish_lreqs (s : State) : (s.finish).lreqs = s.lreqs := rfl
@[simp] theorem State.finish_kept (s : State) : (s.finish).kept = s.kept := rfl
@[simp] theorem State.finish_breqs (s : State) : (s.finish).breqs = s.breqs := rfl
@[simp] theorem State.finish_notices (s : State) : (s.finish).notices = s.notices := rfl
@[simp] theorem State.finish_extensions (s : State) : (s.finish).extensions = s.extensions := rfl
@[simp] theorem State.finish_jobs (s : State) : (s.finish).jobs = s.jobs := rfl
@[simp] theorem State.finish_packets (s : State) : (s.finish).packets = s.packets := rfl
@[simp] theorem State.finish_flights (s : State) : (s.finish).flights = s.flights := rfl
@[simp] theorem State.finish_reports (s : State) : (s.finish).reports = s.reports := rfl
@[simp] theorem State.finish_refreshes (s : State) : (s.finish).refreshes = s.refreshes := rfl
@[simp] theorem State.finish_ends (s : State) : (s.finish).ends = s.ends := rfl
@[simp] theorem State.finish_grants (s : State) : (s.finish).grants = s.grants := rfl
@[simp] theorem State.finish_fresh (s : State) : (s.finish).fresh = s.fresh := rfl
@[simp] theorem State.finish_stage (s : State) : (s.finish).stage = s.stage := rfl
@[simp] theorem State.finish_fail (s : State) : (s.finish).fail = s.fail := rfl
@[simp] theorem State.finish_img (s : State) : (s.finish).img = s.img := rfl
@[simp] theorem State.finish_pcw (s : State) : (s.finish).pcw = s.pcw := rfl
@[simp] theorem State.finish_pcr (s : State) : (s.finish).pcr = s.pcr := rfl
@[simp] theorem State.finish_cxl (s : State) : (s.finish).cxl = s.cxl := rfl
@[simp] theorem State.finish_pup (s : State) : (s.finish).pup = s.pup := rfl
@[simp] theorem State.finish_rdy (s : State) : (s.finish).rdy = s.rdy := rfl
@[simp] theorem State.finish_resets (s : State) : (s.finish).resets = s.resets := rfl
@[simp] theorem State.finish_slotA (s : State) : (s.finish).slotA = s.slotA := rfl
@[simp] theorem State.finish_slotB (s : State) : (s.finish).slotB = s.slotB := rfl
@[simp] theorem State.finish_rollback (s : State) : (s.finish).rollback = s.rollback := rfl
@[simp] theorem State.finish_failedGroups (s : State) : (s.finish).failedGroups = s.failedGroups := rfl
@[simp] theorem State.finish_retryAt (s : State) : (s.finish).retryAt = s.retryAt := rfl
@[simp] theorem State.finish_house (s : State) : (s.finish).house = s.house := rfl
@[simp] theorem State.finish_hostOut (s : State) : (s.finish).hostOut = s.hostOut := rfl

/-! ### finishAt -/

@[simp] theorem State.finishAt_powered (s : State) (t : Word) : (s.finishAt t).powered = s.powered := rfl
@[simp] theorem State.finishAt_cur (s : State) (t : Word) : (s.finishAt t).cur = s.cur := rfl
@[simp] theorem State.finishAt_sched (s : State) (t : Word) : (s.finishAt t).sched = s.sched := rfl
@[simp] theorem State.finishAt_holds (s : State) (t : Word) : (s.finishAt t).holds = s.holds := rfl
@[simp] theorem State.finishAt_stamp (s : State) (t : Word) : (s.finishAt t).stamp = s.stamp := rfl
@[simp] theorem State.finishAt_free (s : State) (t : Word) : (s.finishAt t).free = s.free := rfl
@[simp] theorem State.finishAt_cells (s : State) (t : Word) : (s.finishAt t).cells = s.cells := rfl
@[simp] theorem State.finishAt_dies (s : State) (t : Word) : (s.finishAt t).dies = s.dies := rfl
@[simp] theorem State.finishAt_parts (s : State) (t : Word) : (s.finishAt t).parts = s.parts := rfl
@[simp] theorem State.finishAt_leases (s : State) (t : Word) : (s.finishAt t).leases = s.leases := rfl
@[simp] theorem State.finishAt_entries (s : State) (t : Word) : (s.finishAt t).entries = s.entries := rfl
@[simp] theorem State.finishAt_groups (s : State) (t : Word) : (s.finishAt t).groups = s.groups := rfl
@[simp] theorem State.finishAt_pages (s : State) (t : Word) : (s.finishAt t).pages = s.pages := rfl
@[simp] theorem State.finishAt_versions (s : State) (t : Word) : (s.finishAt t).versions = s.versions := rfl
@[simp] theorem State.finishAt_waiters (s : State) (t : Word) : (s.finishAt t).waiters = s.waiters := rfl
@[simp] theorem State.finishAt_lreqs (s : State) (t : Word) : (s.finishAt t).lreqs = s.lreqs := rfl
@[simp] theorem State.finishAt_kept (s : State) (t : Word) : (s.finishAt t).kept = s.kept := rfl
@[simp] theorem State.finishAt_breqs (s : State) (t : Word) : (s.finishAt t).breqs = s.breqs := rfl
@[simp] theorem State.finishAt_notices (s : State) (t : Word) : (s.finishAt t).notices = s.notices := rfl
@[simp] theorem State.finishAt_extensions (s : State) (t : Word) : (s.finishAt t).extensions = s.extensions := rfl
@[simp] theorem State.finishAt_jobs (s : State) (t : Word) : (s.finishAt t).jobs = s.jobs := rfl
@[simp] theorem State.finishAt_packets (s : State) (t : Word) : (s.finishAt t).packets = s.packets := rfl
@[simp] theorem State.finishAt_flights (s : State) (t : Word) : (s.finishAt t).flights = s.flights := rfl
@[simp] theorem State.finishAt_reports (s : State) (t : Word) : (s.finishAt t).reports = s.reports := rfl
@[simp] theorem State.finishAt_refreshes (s : State) (t : Word) : (s.finishAt t).refreshes = s.refreshes := rfl
@[simp] theorem State.finishAt_ends (s : State) (t : Word) : (s.finishAt t).ends = s.ends := rfl
@[simp] theorem State.finishAt_grants (s : State) (t : Word) : (s.finishAt t).grants = s.grants := rfl
@[simp] theorem State.finishAt_fresh (s : State) (t : Word) : (s.finishAt t).fresh = s.fresh := rfl
@[simp] theorem State.finishAt_stage (s : State) (t : Word) : (s.finishAt t).stage = s.stage := rfl
@[simp] theorem State.finishAt_fail (s : State) (t : Word) : (s.finishAt t).fail = s.fail := rfl
@[simp] theorem State.finishAt_img (s : State) (t : Word) : (s.finishAt t).img = s.img := rfl
@[simp] theorem State.finishAt_pcw (s : State) (t : Word) : (s.finishAt t).pcw = s.pcw := rfl
@[simp] theorem State.finishAt_pcr (s : State) (t : Word) : (s.finishAt t).pcr = s.pcr := rfl
@[simp] theorem State.finishAt_cxl (s : State) (t : Word) : (s.finishAt t).cxl = s.cxl := rfl
@[simp] theorem State.finishAt_pup (s : State) (t : Word) : (s.finishAt t).pup = s.pup := rfl
@[simp] theorem State.finishAt_rdy (s : State) (t : Word) : (s.finishAt t).rdy = s.rdy := rfl
@[simp] theorem State.finishAt_resets (s : State) (t : Word) : (s.finishAt t).resets = s.resets := rfl
@[simp] theorem State.finishAt_slotA (s : State) (t : Word) : (s.finishAt t).slotA = s.slotA := rfl
@[simp] theorem State.finishAt_slotB (s : State) (t : Word) : (s.finishAt t).slotB = s.slotB := rfl
@[simp] theorem State.finishAt_rollback (s : State) (t : Word) : (s.finishAt t).rollback = s.rollback := rfl
@[simp] theorem State.finishAt_failedGroups (s : State) (t : Word) : (s.finishAt t).failedGroups = s.failedGroups := rfl
@[simp] theorem State.finishAt_retryAt (s : State) (t : Word) : (s.finishAt t).retryAt = s.retryAt := rfl
@[simp] theorem State.finishAt_house (s : State) (t : Word) : (s.finishAt t).house = s.house := rfl
@[simp] theorem State.finishAt_hostOut (s : State) (t : Word) : (s.finishAt t).hostOut = s.hostOut := rfl

/-! ### stall -/

@[simp] theorem State.stall_powered (s : State) (w : Wait) : (s.stall w).powered = s.powered := rfl
@[simp] theorem State.stall_cur (s : State) (w : Wait) : (s.stall w).cur = s.cur := rfl
@[simp] theorem State.stall_sched (s : State) (w : Wait) : (s.stall w).sched = s.sched := rfl
@[simp] theorem State.stall_holds (s : State) (w : Wait) : (s.stall w).holds = s.holds := rfl
@[simp] theorem State.stall_stamp (s : State) (w : Wait) : (s.stall w).stamp = s.stamp := rfl
@[simp] theorem State.stall_free (s : State) (w : Wait) : (s.stall w).free = s.free := rfl
@[simp] theorem State.stall_cells (s : State) (w : Wait) : (s.stall w).cells = s.cells := rfl
@[simp] theorem State.stall_dies (s : State) (w : Wait) : (s.stall w).dies = s.dies := rfl
@[simp] theorem State.stall_parts (s : State) (w : Wait) : (s.stall w).parts = s.parts := rfl
@[simp] theorem State.stall_leases (s : State) (w : Wait) : (s.stall w).leases = s.leases := rfl
@[simp] theorem State.stall_entries (s : State) (w : Wait) : (s.stall w).entries = s.entries := rfl
@[simp] theorem State.stall_groups (s : State) (w : Wait) : (s.stall w).groups = s.groups := rfl
@[simp] theorem State.stall_pages (s : State) (w : Wait) : (s.stall w).pages = s.pages := rfl
@[simp] theorem State.stall_versions (s : State) (w : Wait) : (s.stall w).versions = s.versions := rfl
@[simp] theorem State.stall_waiters (s : State) (w : Wait) : (s.stall w).waiters = s.waiters := rfl
@[simp] theorem State.stall_lreqs (s : State) (w : Wait) : (s.stall w).lreqs = s.lreqs := rfl
@[simp] theorem State.stall_kept (s : State) (w : Wait) : (s.stall w).kept = s.kept := rfl
@[simp] theorem State.stall_breqs (s : State) (w : Wait) : (s.stall w).breqs = s.breqs := rfl
@[simp] theorem State.stall_notices (s : State) (w : Wait) : (s.stall w).notices = s.notices := rfl
@[simp] theorem State.stall_extensions (s : State) (w : Wait) : (s.stall w).extensions = s.extensions := rfl
@[simp] theorem State.stall_jobs (s : State) (w : Wait) : (s.stall w).jobs = s.jobs := rfl
@[simp] theorem State.stall_packets (s : State) (w : Wait) : (s.stall w).packets = s.packets := rfl
@[simp] theorem State.stall_flights (s : State) (w : Wait) : (s.stall w).flights = s.flights := rfl
@[simp] theorem State.stall_reports (s : State) (w : Wait) : (s.stall w).reports = s.reports := rfl
@[simp] theorem State.stall_refreshes (s : State) (w : Wait) : (s.stall w).refreshes = s.refreshes := rfl
@[simp] theorem State.stall_ends (s : State) (w : Wait) : (s.stall w).ends = s.ends := rfl
@[simp] theorem State.stall_grants (s : State) (w : Wait) : (s.stall w).grants = s.grants := rfl
@[simp] theorem State.stall_fresh (s : State) (w : Wait) : (s.stall w).fresh = s.fresh := rfl
@[simp] theorem State.stall_stage (s : State) (w : Wait) : (s.stall w).stage = s.stage := rfl
@[simp] theorem State.stall_fail (s : State) (w : Wait) : (s.stall w).fail = s.fail := rfl
@[simp] theorem State.stall_img (s : State) (w : Wait) : (s.stall w).img = s.img := rfl
@[simp] theorem State.stall_pcw (s : State) (w : Wait) : (s.stall w).pcw = s.pcw := rfl
@[simp] theorem State.stall_pcr (s : State) (w : Wait) : (s.stall w).pcr = s.pcr := rfl
@[simp] theorem State.stall_cxl (s : State) (w : Wait) : (s.stall w).cxl = s.cxl := rfl
@[simp] theorem State.stall_pup (s : State) (w : Wait) : (s.stall w).pup = s.pup := rfl
@[simp] theorem State.stall_rdy (s : State) (w : Wait) : (s.stall w).rdy = s.rdy := rfl
@[simp] theorem State.stall_resets (s : State) (w : Wait) : (s.stall w).resets = s.resets := rfl
@[simp] theorem State.stall_slotA (s : State) (w : Wait) : (s.stall w).slotA = s.slotA := rfl
@[simp] theorem State.stall_slotB (s : State) (w : Wait) : (s.stall w).slotB = s.slotB := rfl
@[simp] theorem State.stall_rollback (s : State) (w : Wait) : (s.stall w).rollback = s.rollback := rfl
@[simp] theorem State.stall_failedGroups (s : State) (w : Wait) : (s.stall w).failedGroups = s.failedGroups := rfl
@[simp] theorem State.stall_retryAt (s : State) (w : Wait) : (s.stall w).retryAt = s.retryAt := rfl
@[simp] theorem State.stall_house (s : State) (w : Wait) : (s.stall w).house = s.house := rfl
@[simp] theorem State.stall_hostOut (s : State) (w : Wait) : (s.stall w).hostOut = s.hostOut := rfl

/-! ### park -/

@[simp] theorem State.park_powered (s : State) (w : Wait) : (s.park w).powered = s.powered := rfl
@[simp] theorem State.park_cur (s : State) (w : Wait) : (s.park w).cur = s.cur := rfl
@[simp] theorem State.park_sched (s : State) (w : Wait) : (s.park w).sched = s.sched := rfl
@[simp] theorem State.park_holds (s : State) (w : Wait) : (s.park w).holds = s.holds := rfl
@[simp] theorem State.park_stamp (s : State) (w : Wait) : (s.park w).stamp = s.stamp := rfl
@[simp] theorem State.park_free (s : State) (w : Wait) : (s.park w).free = s.free := rfl
@[simp] theorem State.park_cells (s : State) (w : Wait) : (s.park w).cells = s.cells := rfl
@[simp] theorem State.park_dies (s : State) (w : Wait) : (s.park w).dies = s.dies := rfl
@[simp] theorem State.park_parts (s : State) (w : Wait) : (s.park w).parts = s.parts := rfl
@[simp] theorem State.park_leases (s : State) (w : Wait) : (s.park w).leases = s.leases := rfl
@[simp] theorem State.park_entries (s : State) (w : Wait) : (s.park w).entries = s.entries := rfl
@[simp] theorem State.park_groups (s : State) (w : Wait) : (s.park w).groups = s.groups := rfl
@[simp] theorem State.park_pages (s : State) (w : Wait) : (s.park w).pages = s.pages := rfl
@[simp] theorem State.park_versions (s : State) (w : Wait) : (s.park w).versions = s.versions := rfl
@[simp] theorem State.park_waiters (s : State) (w : Wait) : (s.park w).waiters = s.waiters := rfl
@[simp] theorem State.park_lreqs (s : State) (w : Wait) : (s.park w).lreqs = s.lreqs := rfl
@[simp] theorem State.park_kept (s : State) (w : Wait) : (s.park w).kept = s.kept := rfl
@[simp] theorem State.park_breqs (s : State) (w : Wait) : (s.park w).breqs = s.breqs := rfl
@[simp] theorem State.park_notices (s : State) (w : Wait) : (s.park w).notices = s.notices := rfl
@[simp] theorem State.park_extensions (s : State) (w : Wait) : (s.park w).extensions = s.extensions := rfl
@[simp] theorem State.park_jobs (s : State) (w : Wait) : (s.park w).jobs = s.jobs := rfl
@[simp] theorem State.park_packets (s : State) (w : Wait) : (s.park w).packets = s.packets := rfl
@[simp] theorem State.park_flights (s : State) (w : Wait) : (s.park w).flights = s.flights := rfl
@[simp] theorem State.park_reports (s : State) (w : Wait) : (s.park w).reports = s.reports := rfl
@[simp] theorem State.park_refreshes (s : State) (w : Wait) : (s.park w).refreshes = s.refreshes := rfl
@[simp] theorem State.park_ends (s : State) (w : Wait) : (s.park w).ends = s.ends := rfl
@[simp] theorem State.park_grants (s : State) (w : Wait) : (s.park w).grants = s.grants := rfl
@[simp] theorem State.park_fresh (s : State) (w : Wait) : (s.park w).fresh = s.fresh := rfl
@[simp] theorem State.park_stage (s : State) (w : Wait) : (s.park w).stage = s.stage := rfl
@[simp] theorem State.park_fail (s : State) (w : Wait) : (s.park w).fail = s.fail := rfl
@[simp] theorem State.park_img (s : State) (w : Wait) : (s.park w).img = s.img := rfl
@[simp] theorem State.park_pcw (s : State) (w : Wait) : (s.park w).pcw = s.pcw := rfl
@[simp] theorem State.park_pcr (s : State) (w : Wait) : (s.park w).pcr = s.pcr := rfl
@[simp] theorem State.park_cxl (s : State) (w : Wait) : (s.park w).cxl = s.cxl := rfl
@[simp] theorem State.park_pup (s : State) (w : Wait) : (s.park w).pup = s.pup := rfl
@[simp] theorem State.park_rdy (s : State) (w : Wait) : (s.park w).rdy = s.rdy := rfl
@[simp] theorem State.park_resets (s : State) (w : Wait) : (s.park w).resets = s.resets := rfl
@[simp] theorem State.park_slotA (s : State) (w : Wait) : (s.park w).slotA = s.slotA := rfl
@[simp] theorem State.park_slotB (s : State) (w : Wait) : (s.park w).slotB = s.slotB := rfl
@[simp] theorem State.park_rollback (s : State) (w : Wait) : (s.park w).rollback = s.rollback := rfl
@[simp] theorem State.park_failedGroups (s : State) (w : Wait) : (s.park w).failedGroups = s.failedGroups := rfl
@[simp] theorem State.park_retryAt (s : State) (w : Wait) : (s.park w).retryAt = s.retryAt := rfl
@[simp] theorem State.park_house (s : State) (w : Wait) : (s.park w).house = s.house := rfl
@[simp] theorem State.park_hostOut (s : State) (w : Wait) : (s.park w).hostOut = s.hostOut := rfl

/-! ### wx -/

@[simp] theorem State.wx_powered {n : Nat} (s : State) (r : BitVec n) (v : Word) : (s.wx r v).powered = s.powered := rfl
@[simp] theorem State.wx_cur {n : Nat} (s : State) (r : BitVec n) (v : Word) : (s.wx r v).cur = s.cur := rfl
@[simp] theorem State.wx_sched {n : Nat} (s : State) (r : BitVec n) (v : Word) : (s.wx r v).sched = s.sched := rfl
@[simp] theorem State.wx_holds {n : Nat} (s : State) (r : BitVec n) (v : Word) : (s.wx r v).holds = s.holds := rfl
@[simp] theorem State.wx_stamp {n : Nat} (s : State) (r : BitVec n) (v : Word) : (s.wx r v).stamp = s.stamp := rfl
@[simp] theorem State.wx_free {n : Nat} (s : State) (r : BitVec n) (v : Word) : (s.wx r v).free = s.free := rfl
@[simp] theorem State.wx_cells {n : Nat} (s : State) (r : BitVec n) (v : Word) : (s.wx r v).cells = s.cells := rfl
@[simp] theorem State.wx_dies {n : Nat} (s : State) (r : BitVec n) (v : Word) : (s.wx r v).dies = s.dies := rfl
@[simp] theorem State.wx_parts {n : Nat} (s : State) (r : BitVec n) (v : Word) : (s.wx r v).parts = s.parts := rfl
@[simp] theorem State.wx_leases {n : Nat} (s : State) (r : BitVec n) (v : Word) : (s.wx r v).leases = s.leases := rfl
@[simp] theorem State.wx_entries {n : Nat} (s : State) (r : BitVec n) (v : Word) : (s.wx r v).entries = s.entries := rfl
@[simp] theorem State.wx_groups {n : Nat} (s : State) (r : BitVec n) (v : Word) : (s.wx r v).groups = s.groups := rfl
@[simp] theorem State.wx_pages {n : Nat} (s : State) (r : BitVec n) (v : Word) : (s.wx r v).pages = s.pages := rfl
@[simp] theorem State.wx_versions {n : Nat} (s : State) (r : BitVec n) (v : Word) : (s.wx r v).versions = s.versions := rfl
@[simp] theorem State.wx_waiters {n : Nat} (s : State) (r : BitVec n) (v : Word) : (s.wx r v).waiters = s.waiters := rfl
@[simp] theorem State.wx_lreqs {n : Nat} (s : State) (r : BitVec n) (v : Word) : (s.wx r v).lreqs = s.lreqs := rfl
@[simp] theorem State.wx_kept {n : Nat} (s : State) (r : BitVec n) (v : Word) : (s.wx r v).kept = s.kept := rfl
@[simp] theorem State.wx_breqs {n : Nat} (s : State) (r : BitVec n) (v : Word) : (s.wx r v).breqs = s.breqs := rfl
@[simp] theorem State.wx_notices {n : Nat} (s : State) (r : BitVec n) (v : Word) : (s.wx r v).notices = s.notices := rfl
@[simp] theorem State.wx_extensions {n : Nat} (s : State) (r : BitVec n) (v : Word) : (s.wx r v).extensions = s.extensions := rfl
@[simp] theorem State.wx_jobs {n : Nat} (s : State) (r : BitVec n) (v : Word) : (s.wx r v).jobs = s.jobs := rfl
@[simp] theorem State.wx_packets {n : Nat} (s : State) (r : BitVec n) (v : Word) : (s.wx r v).packets = s.packets := rfl
@[simp] theorem State.wx_flights {n : Nat} (s : State) (r : BitVec n) (v : Word) : (s.wx r v).flights = s.flights := rfl
@[simp] theorem State.wx_reports {n : Nat} (s : State) (r : BitVec n) (v : Word) : (s.wx r v).reports = s.reports := rfl
@[simp] theorem State.wx_refreshes {n : Nat} (s : State) (r : BitVec n) (v : Word) : (s.wx r v).refreshes = s.refreshes := rfl
@[simp] theorem State.wx_ends {n : Nat} (s : State) (r : BitVec n) (v : Word) : (s.wx r v).ends = s.ends := rfl
@[simp] theorem State.wx_grants {n : Nat} (s : State) (r : BitVec n) (v : Word) : (s.wx r v).grants = s.grants := rfl
@[simp] theorem State.wx_fresh {n : Nat} (s : State) (r : BitVec n) (v : Word) : (s.wx r v).fresh = s.fresh := rfl
@[simp] theorem State.wx_stage {n : Nat} (s : State) (r : BitVec n) (v : Word) : (s.wx r v).stage = s.stage := rfl
@[simp] theorem State.wx_fail {n : Nat} (s : State) (r : BitVec n) (v : Word) : (s.wx r v).fail = s.fail := rfl
@[simp] theorem State.wx_img {n : Nat} (s : State) (r : BitVec n) (v : Word) : (s.wx r v).img = s.img := rfl
@[simp] theorem State.wx_pcw {n : Nat} (s : State) (r : BitVec n) (v : Word) : (s.wx r v).pcw = s.pcw := rfl
@[simp] theorem State.wx_pcr {n : Nat} (s : State) (r : BitVec n) (v : Word) : (s.wx r v).pcr = s.pcr := rfl
@[simp] theorem State.wx_cxl {n : Nat} (s : State) (r : BitVec n) (v : Word) : (s.wx r v).cxl = s.cxl := rfl
@[simp] theorem State.wx_pup {n : Nat} (s : State) (r : BitVec n) (v : Word) : (s.wx r v).pup = s.pup := rfl
@[simp] theorem State.wx_rdy {n : Nat} (s : State) (r : BitVec n) (v : Word) : (s.wx r v).rdy = s.rdy := rfl
@[simp] theorem State.wx_resets {n : Nat} (s : State) (r : BitVec n) (v : Word) : (s.wx r v).resets = s.resets := rfl
@[simp] theorem State.wx_slotA {n : Nat} (s : State) (r : BitVec n) (v : Word) : (s.wx r v).slotA = s.slotA := rfl
@[simp] theorem State.wx_slotB {n : Nat} (s : State) (r : BitVec n) (v : Word) : (s.wx r v).slotB = s.slotB := rfl
@[simp] theorem State.wx_rollback {n : Nat} (s : State) (r : BitVec n) (v : Word) : (s.wx r v).rollback = s.rollback := rfl
@[simp] theorem State.wx_failedGroups {n : Nat} (s : State) (r : BitVec n) (v : Word) : (s.wx r v).failedGroups = s.failedGroups := rfl
@[simp] theorem State.wx_retryAt {n : Nat} (s : State) (r : BitVec n) (v : Word) : (s.wx r v).retryAt = s.retryAt := rfl
@[simp] theorem State.wx_house {n : Nat} (s : State) (r : BitVec n) (v : Word) : (s.wx r v).house = s.house := rfl
@[simp] theorem State.wx_hostOut {n : Nat} (s : State) (r : BitVec n) (v : Word) : (s.wx r v).hostOut = s.hostOut := rfl

/-! ### wv -/

@[simp] theorem State.wv_powered {n : Nat} (s : State) (r : BitVec n) (v : VWord) : (s.wv r v).powered = s.powered := rfl
@[simp] theorem State.wv_cur {n : Nat} (s : State) (r : BitVec n) (v : VWord) : (s.wv r v).cur = s.cur := rfl
@[simp] theorem State.wv_sched {n : Nat} (s : State) (r : BitVec n) (v : VWord) : (s.wv r v).sched = s.sched := rfl
@[simp] theorem State.wv_holds {n : Nat} (s : State) (r : BitVec n) (v : VWord) : (s.wv r v).holds = s.holds := rfl
@[simp] theorem State.wv_stamp {n : Nat} (s : State) (r : BitVec n) (v : VWord) : (s.wv r v).stamp = s.stamp := rfl
@[simp] theorem State.wv_free {n : Nat} (s : State) (r : BitVec n) (v : VWord) : (s.wv r v).free = s.free := rfl
@[simp] theorem State.wv_cells {n : Nat} (s : State) (r : BitVec n) (v : VWord) : (s.wv r v).cells = s.cells := rfl
@[simp] theorem State.wv_dies {n : Nat} (s : State) (r : BitVec n) (v : VWord) : (s.wv r v).dies = s.dies := rfl
@[simp] theorem State.wv_parts {n : Nat} (s : State) (r : BitVec n) (v : VWord) : (s.wv r v).parts = s.parts := rfl
@[simp] theorem State.wv_leases {n : Nat} (s : State) (r : BitVec n) (v : VWord) : (s.wv r v).leases = s.leases := rfl
@[simp] theorem State.wv_entries {n : Nat} (s : State) (r : BitVec n) (v : VWord) : (s.wv r v).entries = s.entries := rfl
@[simp] theorem State.wv_groups {n : Nat} (s : State) (r : BitVec n) (v : VWord) : (s.wv r v).groups = s.groups := rfl
@[simp] theorem State.wv_pages {n : Nat} (s : State) (r : BitVec n) (v : VWord) : (s.wv r v).pages = s.pages := rfl
@[simp] theorem State.wv_versions {n : Nat} (s : State) (r : BitVec n) (v : VWord) : (s.wv r v).versions = s.versions := rfl
@[simp] theorem State.wv_waiters {n : Nat} (s : State) (r : BitVec n) (v : VWord) : (s.wv r v).waiters = s.waiters := rfl
@[simp] theorem State.wv_lreqs {n : Nat} (s : State) (r : BitVec n) (v : VWord) : (s.wv r v).lreqs = s.lreqs := rfl
@[simp] theorem State.wv_kept {n : Nat} (s : State) (r : BitVec n) (v : VWord) : (s.wv r v).kept = s.kept := rfl
@[simp] theorem State.wv_breqs {n : Nat} (s : State) (r : BitVec n) (v : VWord) : (s.wv r v).breqs = s.breqs := rfl
@[simp] theorem State.wv_notices {n : Nat} (s : State) (r : BitVec n) (v : VWord) : (s.wv r v).notices = s.notices := rfl
@[simp] theorem State.wv_extensions {n : Nat} (s : State) (r : BitVec n) (v : VWord) : (s.wv r v).extensions = s.extensions := rfl
@[simp] theorem State.wv_jobs {n : Nat} (s : State) (r : BitVec n) (v : VWord) : (s.wv r v).jobs = s.jobs := rfl
@[simp] theorem State.wv_packets {n : Nat} (s : State) (r : BitVec n) (v : VWord) : (s.wv r v).packets = s.packets := rfl
@[simp] theorem State.wv_flights {n : Nat} (s : State) (r : BitVec n) (v : VWord) : (s.wv r v).flights = s.flights := rfl
@[simp] theorem State.wv_reports {n : Nat} (s : State) (r : BitVec n) (v : VWord) : (s.wv r v).reports = s.reports := rfl
@[simp] theorem State.wv_refreshes {n : Nat} (s : State) (r : BitVec n) (v : VWord) : (s.wv r v).refreshes = s.refreshes := rfl
@[simp] theorem State.wv_ends {n : Nat} (s : State) (r : BitVec n) (v : VWord) : (s.wv r v).ends = s.ends := rfl
@[simp] theorem State.wv_grants {n : Nat} (s : State) (r : BitVec n) (v : VWord) : (s.wv r v).grants = s.grants := rfl
@[simp] theorem State.wv_fresh {n : Nat} (s : State) (r : BitVec n) (v : VWord) : (s.wv r v).fresh = s.fresh := rfl
@[simp] theorem State.wv_stage {n : Nat} (s : State) (r : BitVec n) (v : VWord) : (s.wv r v).stage = s.stage := rfl
@[simp] theorem State.wv_fail {n : Nat} (s : State) (r : BitVec n) (v : VWord) : (s.wv r v).fail = s.fail := rfl
@[simp] theorem State.wv_img {n : Nat} (s : State) (r : BitVec n) (v : VWord) : (s.wv r v).img = s.img := rfl
@[simp] theorem State.wv_pcw {n : Nat} (s : State) (r : BitVec n) (v : VWord) : (s.wv r v).pcw = s.pcw := rfl
@[simp] theorem State.wv_pcr {n : Nat} (s : State) (r : BitVec n) (v : VWord) : (s.wv r v).pcr = s.pcr := rfl
@[simp] theorem State.wv_cxl {n : Nat} (s : State) (r : BitVec n) (v : VWord) : (s.wv r v).cxl = s.cxl := rfl
@[simp] theorem State.wv_pup {n : Nat} (s : State) (r : BitVec n) (v : VWord) : (s.wv r v).pup = s.pup := rfl
@[simp] theorem State.wv_rdy {n : Nat} (s : State) (r : BitVec n) (v : VWord) : (s.wv r v).rdy = s.rdy := rfl
@[simp] theorem State.wv_resets {n : Nat} (s : State) (r : BitVec n) (v : VWord) : (s.wv r v).resets = s.resets := rfl
@[simp] theorem State.wv_slotA {n : Nat} (s : State) (r : BitVec n) (v : VWord) : (s.wv r v).slotA = s.slotA := rfl
@[simp] theorem State.wv_slotB {n : Nat} (s : State) (r : BitVec n) (v : VWord) : (s.wv r v).slotB = s.slotB := rfl
@[simp] theorem State.wv_rollback {n : Nat} (s : State) (r : BitVec n) (v : VWord) : (s.wv r v).rollback = s.rollback := rfl
@[simp] theorem State.wv_failedGroups {n : Nat} (s : State) (r : BitVec n) (v : VWord) : (s.wv r v).failedGroups = s.failedGroups := rfl
@[simp] theorem State.wv_retryAt {n : Nat} (s : State) (r : BitVec n) (v : VWord) : (s.wv r v).retryAt = s.retryAt := rfl
@[simp] theorem State.wv_house {n : Nat} (s : State) (r : BitVec n) (v : VWord) : (s.wv r v).house = s.house := rfl
@[simp] theorem State.wv_hostOut {n : Nat} (s : State) (r : BitVec n) (v : VWord) : (s.wv r v).hostOut = s.hostOut := rfl

/-! ### wp -/

@[simp] theorem State.wp_powered {n : Nat} (s : State) (r : BitVec n) (v : Word) : (s.wp r v).powered = s.powered := rfl
@[simp] theorem State.wp_cur {n : Nat} (s : State) (r : BitVec n) (v : Word) : (s.wp r v).cur = s.cur := rfl
@[simp] theorem State.wp_sched {n : Nat} (s : State) (r : BitVec n) (v : Word) : (s.wp r v).sched = s.sched := rfl
@[simp] theorem State.wp_holds {n : Nat} (s : State) (r : BitVec n) (v : Word) : (s.wp r v).holds = s.holds := rfl
@[simp] theorem State.wp_stamp {n : Nat} (s : State) (r : BitVec n) (v : Word) : (s.wp r v).stamp = s.stamp := rfl
@[simp] theorem State.wp_free {n : Nat} (s : State) (r : BitVec n) (v : Word) : (s.wp r v).free = s.free := rfl
@[simp] theorem State.wp_cells {n : Nat} (s : State) (r : BitVec n) (v : Word) : (s.wp r v).cells = s.cells := rfl
@[simp] theorem State.wp_dies {n : Nat} (s : State) (r : BitVec n) (v : Word) : (s.wp r v).dies = s.dies := rfl
@[simp] theorem State.wp_parts {n : Nat} (s : State) (r : BitVec n) (v : Word) : (s.wp r v).parts = s.parts := rfl
@[simp] theorem State.wp_leases {n : Nat} (s : State) (r : BitVec n) (v : Word) : (s.wp r v).leases = s.leases := rfl
@[simp] theorem State.wp_entries {n : Nat} (s : State) (r : BitVec n) (v : Word) : (s.wp r v).entries = s.entries := rfl
@[simp] theorem State.wp_groups {n : Nat} (s : State) (r : BitVec n) (v : Word) : (s.wp r v).groups = s.groups := rfl
@[simp] theorem State.wp_pages {n : Nat} (s : State) (r : BitVec n) (v : Word) : (s.wp r v).pages = s.pages := rfl
@[simp] theorem State.wp_versions {n : Nat} (s : State) (r : BitVec n) (v : Word) : (s.wp r v).versions = s.versions := rfl
@[simp] theorem State.wp_waiters {n : Nat} (s : State) (r : BitVec n) (v : Word) : (s.wp r v).waiters = s.waiters := rfl
@[simp] theorem State.wp_lreqs {n : Nat} (s : State) (r : BitVec n) (v : Word) : (s.wp r v).lreqs = s.lreqs := rfl
@[simp] theorem State.wp_kept {n : Nat} (s : State) (r : BitVec n) (v : Word) : (s.wp r v).kept = s.kept := rfl
@[simp] theorem State.wp_breqs {n : Nat} (s : State) (r : BitVec n) (v : Word) : (s.wp r v).breqs = s.breqs := rfl
@[simp] theorem State.wp_notices {n : Nat} (s : State) (r : BitVec n) (v : Word) : (s.wp r v).notices = s.notices := rfl
@[simp] theorem State.wp_extensions {n : Nat} (s : State) (r : BitVec n) (v : Word) : (s.wp r v).extensions = s.extensions := rfl
@[simp] theorem State.wp_jobs {n : Nat} (s : State) (r : BitVec n) (v : Word) : (s.wp r v).jobs = s.jobs := rfl
@[simp] theorem State.wp_packets {n : Nat} (s : State) (r : BitVec n) (v : Word) : (s.wp r v).packets = s.packets := rfl
@[simp] theorem State.wp_flights {n : Nat} (s : State) (r : BitVec n) (v : Word) : (s.wp r v).flights = s.flights := rfl
@[simp] theorem State.wp_reports {n : Nat} (s : State) (r : BitVec n) (v : Word) : (s.wp r v).reports = s.reports := rfl
@[simp] theorem State.wp_refreshes {n : Nat} (s : State) (r : BitVec n) (v : Word) : (s.wp r v).refreshes = s.refreshes := rfl
@[simp] theorem State.wp_ends {n : Nat} (s : State) (r : BitVec n) (v : Word) : (s.wp r v).ends = s.ends := rfl
@[simp] theorem State.wp_grants {n : Nat} (s : State) (r : BitVec n) (v : Word) : (s.wp r v).grants = s.grants := rfl
@[simp] theorem State.wp_fresh {n : Nat} (s : State) (r : BitVec n) (v : Word) : (s.wp r v).fresh = s.fresh := rfl
@[simp] theorem State.wp_stage {n : Nat} (s : State) (r : BitVec n) (v : Word) : (s.wp r v).stage = s.stage := rfl
@[simp] theorem State.wp_fail {n : Nat} (s : State) (r : BitVec n) (v : Word) : (s.wp r v).fail = s.fail := rfl
@[simp] theorem State.wp_img {n : Nat} (s : State) (r : BitVec n) (v : Word) : (s.wp r v).img = s.img := rfl
@[simp] theorem State.wp_pcw {n : Nat} (s : State) (r : BitVec n) (v : Word) : (s.wp r v).pcw = s.pcw := rfl
@[simp] theorem State.wp_pcr {n : Nat} (s : State) (r : BitVec n) (v : Word) : (s.wp r v).pcr = s.pcr := rfl
@[simp] theorem State.wp_cxl {n : Nat} (s : State) (r : BitVec n) (v : Word) : (s.wp r v).cxl = s.cxl := rfl
@[simp] theorem State.wp_pup {n : Nat} (s : State) (r : BitVec n) (v : Word) : (s.wp r v).pup = s.pup := rfl
@[simp] theorem State.wp_rdy {n : Nat} (s : State) (r : BitVec n) (v : Word) : (s.wp r v).rdy = s.rdy := rfl
@[simp] theorem State.wp_resets {n : Nat} (s : State) (r : BitVec n) (v : Word) : (s.wp r v).resets = s.resets := rfl
@[simp] theorem State.wp_slotA {n : Nat} (s : State) (r : BitVec n) (v : Word) : (s.wp r v).slotA = s.slotA := rfl
@[simp] theorem State.wp_slotB {n : Nat} (s : State) (r : BitVec n) (v : Word) : (s.wp r v).slotB = s.slotB := rfl
@[simp] theorem State.wp_rollback {n : Nat} (s : State) (r : BitVec n) (v : Word) : (s.wp r v).rollback = s.rollback := rfl
@[simp] theorem State.wp_failedGroups {n : Nat} (s : State) (r : BitVec n) (v : Word) : (s.wp r v).failedGroups = s.failedGroups := rfl
@[simp] theorem State.wp_retryAt {n : Nat} (s : State) (r : BitVec n) (v : Word) : (s.wp r v).retryAt = s.retryAt := rfl
@[simp] theorem State.wp_house {n : Nat} (s : State) (r : BitVec n) (v : Word) : (s.wp r v).house = s.house := rfl
@[simp] theorem State.wp_hostOut {n : Nat} (s : State) (r : BitVec n) (v : Word) : (s.wp r v).hostOut = s.hostOut := rfl

/-! ### wc -/

@[simp] theorem State.wc_powered {n : Nat} (s : State) (r : BitVec n) (v : Capa) : (s.wc r v).powered = s.powered := rfl
@[simp] theorem State.wc_cur {n : Nat} (s : State) (r : BitVec n) (v : Capa) : (s.wc r v).cur = s.cur := rfl
@[simp] theorem State.wc_sched {n : Nat} (s : State) (r : BitVec n) (v : Capa) : (s.wc r v).sched = s.sched := rfl
@[simp] theorem State.wc_holds {n : Nat} (s : State) (r : BitVec n) (v : Capa) : (s.wc r v).holds = s.holds := rfl
@[simp] theorem State.wc_stamp {n : Nat} (s : State) (r : BitVec n) (v : Capa) : (s.wc r v).stamp = s.stamp := rfl
@[simp] theorem State.wc_free {n : Nat} (s : State) (r : BitVec n) (v : Capa) : (s.wc r v).free = s.free := rfl
@[simp] theorem State.wc_cells {n : Nat} (s : State) (r : BitVec n) (v : Capa) : (s.wc r v).cells = s.cells := rfl
@[simp] theorem State.wc_dies {n : Nat} (s : State) (r : BitVec n) (v : Capa) : (s.wc r v).dies = s.dies := rfl
@[simp] theorem State.wc_parts {n : Nat} (s : State) (r : BitVec n) (v : Capa) : (s.wc r v).parts = s.parts := rfl
@[simp] theorem State.wc_leases {n : Nat} (s : State) (r : BitVec n) (v : Capa) : (s.wc r v).leases = s.leases := rfl
@[simp] theorem State.wc_entries {n : Nat} (s : State) (r : BitVec n) (v : Capa) : (s.wc r v).entries = s.entries := rfl
@[simp] theorem State.wc_groups {n : Nat} (s : State) (r : BitVec n) (v : Capa) : (s.wc r v).groups = s.groups := rfl
@[simp] theorem State.wc_pages {n : Nat} (s : State) (r : BitVec n) (v : Capa) : (s.wc r v).pages = s.pages := rfl
@[simp] theorem State.wc_versions {n : Nat} (s : State) (r : BitVec n) (v : Capa) : (s.wc r v).versions = s.versions := rfl
@[simp] theorem State.wc_waiters {n : Nat} (s : State) (r : BitVec n) (v : Capa) : (s.wc r v).waiters = s.waiters := rfl
@[simp] theorem State.wc_lreqs {n : Nat} (s : State) (r : BitVec n) (v : Capa) : (s.wc r v).lreqs = s.lreqs := rfl
@[simp] theorem State.wc_kept {n : Nat} (s : State) (r : BitVec n) (v : Capa) : (s.wc r v).kept = s.kept := rfl
@[simp] theorem State.wc_breqs {n : Nat} (s : State) (r : BitVec n) (v : Capa) : (s.wc r v).breqs = s.breqs := rfl
@[simp] theorem State.wc_notices {n : Nat} (s : State) (r : BitVec n) (v : Capa) : (s.wc r v).notices = s.notices := rfl
@[simp] theorem State.wc_extensions {n : Nat} (s : State) (r : BitVec n) (v : Capa) : (s.wc r v).extensions = s.extensions := rfl
@[simp] theorem State.wc_jobs {n : Nat} (s : State) (r : BitVec n) (v : Capa) : (s.wc r v).jobs = s.jobs := rfl
@[simp] theorem State.wc_packets {n : Nat} (s : State) (r : BitVec n) (v : Capa) : (s.wc r v).packets = s.packets := rfl
@[simp] theorem State.wc_flights {n : Nat} (s : State) (r : BitVec n) (v : Capa) : (s.wc r v).flights = s.flights := rfl
@[simp] theorem State.wc_reports {n : Nat} (s : State) (r : BitVec n) (v : Capa) : (s.wc r v).reports = s.reports := rfl
@[simp] theorem State.wc_refreshes {n : Nat} (s : State) (r : BitVec n) (v : Capa) : (s.wc r v).refreshes = s.refreshes := rfl
@[simp] theorem State.wc_ends {n : Nat} (s : State) (r : BitVec n) (v : Capa) : (s.wc r v).ends = s.ends := rfl
@[simp] theorem State.wc_grants {n : Nat} (s : State) (r : BitVec n) (v : Capa) : (s.wc r v).grants = s.grants := rfl
@[simp] theorem State.wc_fresh {n : Nat} (s : State) (r : BitVec n) (v : Capa) : (s.wc r v).fresh = s.fresh := rfl
@[simp] theorem State.wc_stage {n : Nat} (s : State) (r : BitVec n) (v : Capa) : (s.wc r v).stage = s.stage := rfl
@[simp] theorem State.wc_fail {n : Nat} (s : State) (r : BitVec n) (v : Capa) : (s.wc r v).fail = s.fail := rfl
@[simp] theorem State.wc_img {n : Nat} (s : State) (r : BitVec n) (v : Capa) : (s.wc r v).img = s.img := rfl
@[simp] theorem State.wc_pcw {n : Nat} (s : State) (r : BitVec n) (v : Capa) : (s.wc r v).pcw = s.pcw := rfl
@[simp] theorem State.wc_pcr {n : Nat} (s : State) (r : BitVec n) (v : Capa) : (s.wc r v).pcr = s.pcr := rfl
@[simp] theorem State.wc_cxl {n : Nat} (s : State) (r : BitVec n) (v : Capa) : (s.wc r v).cxl = s.cxl := rfl
@[simp] theorem State.wc_pup {n : Nat} (s : State) (r : BitVec n) (v : Capa) : (s.wc r v).pup = s.pup := rfl
@[simp] theorem State.wc_rdy {n : Nat} (s : State) (r : BitVec n) (v : Capa) : (s.wc r v).rdy = s.rdy := rfl
@[simp] theorem State.wc_resets {n : Nat} (s : State) (r : BitVec n) (v : Capa) : (s.wc r v).resets = s.resets := rfl
@[simp] theorem State.wc_slotA {n : Nat} (s : State) (r : BitVec n) (v : Capa) : (s.wc r v).slotA = s.slotA := rfl
@[simp] theorem State.wc_slotB {n : Nat} (s : State) (r : BitVec n) (v : Capa) : (s.wc r v).slotB = s.slotB := rfl
@[simp] theorem State.wc_rollback {n : Nat} (s : State) (r : BitVec n) (v : Capa) : (s.wc r v).rollback = s.rollback := rfl
@[simp] theorem State.wc_failedGroups {n : Nat} (s : State) (r : BitVec n) (v : Capa) : (s.wc r v).failedGroups = s.failedGroups := rfl
@[simp] theorem State.wc_retryAt {n : Nat} (s : State) (r : BitVec n) (v : Capa) : (s.wc r v).retryAt = s.retryAt := rfl
@[simp] theorem State.wc_house {n : Nat} (s : State) (r : BitVec n) (v : Capa) : (s.wc r v).house = s.house := rfl
@[simp] theorem State.wc_hostOut {n : Nat} (s : State) (r : BitVec n) (v : Capa) : (s.wc r v).hostOut = s.hostOut := rfl

/-! ## Units -/

@[simp] theorem State.ctx_setCtx_self (s : State) (i : Nat) (c : Ctx) : (s.setCtx i c).ctx i = c := by
  simp [State.setCtx, State.ctx]

theorem State.ctx_setCtx (s : State) (i j : Nat) (c : Ctx) : (s.setCtx i c).ctx j = if j = i then c else s.ctx j := by
  simp [State.setCtx, State.ctx, tget_tset]

@[simp] theorem State.ctx_modCtx_self (s : State) (i : Nat) (f : Ctx → Ctx) : (s.modCtx i f).ctx i = f (s.ctx i) := by
  simp [State.modCtx]

@[simp] theorem State.self_mod (s : State) (f : Ctx → Ctx) : (s.mod f).self = f s.self := by
  simp [State.mod, State.self]

/-- Two changes of the acting context are one. -/
@[simp] theorem State.mod_mod (s : State) (f g : Ctx → Ctx) : (s.mod f).mod g = s.mod fun c => g (f c) := by
  simp [State.mod, State.modCtx, State.setCtx, State.ctx]

theorem State.cell_modCell (s : State) (n m : Nat) (f : Cell → Cell) :
    (s.modCell n f).cell m = if m = n then f (s.cell n) else s.cell m := by
  simp [State.modCell, State.cell, tget_tset]

@[simp] theorem State.cell_modCell_self (s : State) (n : Nat) (f : Cell → Cell) : (s.modCell n f).cell n = f (s.cell n) := by
  simp [State.cell_modCell]

theorem State.die_modDie (s : State) (n m : Nat) (f : Die → Die) :
    (s.modDie n f).die m = if m = n then f (s.die n) else s.die m := by
  simp [State.modDie, State.die, tget_tset]

@[simp] theorem State.die_modDie_self (s : State) (n : Nat) (f : Die → Die) : (s.modDie n f).die n = f (s.die n) := by
  simp [State.die_modDie]

theorem State.part_modPart (s : State) (n m : Nat) (f : Part → Part) :
    (s.modPart n f).part m = if m = n then f (s.part n) else s.part m := by
  simp [State.modPart, State.part, tget_tset]

@[simp] theorem State.self_modCell (s : State) (n : Nat) (f : Cell → Cell) : (s.modCell n f).self = s.self := rfl
@[simp] theorem State.self_modDie (s : State) (n : Nat) (f : Die → Die) : (s.modDie n f).self = s.self := rfl
@[simp] theorem State.cell_mod (s : State) (f : Ctx → Ctx) (n : Nat) : (s.mod f).cell n = s.cell n := rfl
@[simp] theorem State.die_mod (s : State) (f : Ctx → Ctx) (n : Nat) : (s.mod f).die n = s.die n := rfl
@[simp] theorem State.cell_wx {n : Nat} (s : State) (r : BitVec n) (v : Word) (k : Nat) : (s.wx r v).cell k = s.cell k := rfl
@[simp] theorem State.cell_finish (s : State) (k : Nat) : (s.finish).cell k = s.cell k := rfl

/-! ## The acting context -/

theorem State.slotOnly_mod (s : State) (f : Ctx → Ctx) : SlotOnly s (s.mod f) :=
  ⟨rfl, fun _ h => tfind_tset_ne _ _ h⟩

/-- A change of the acting context that leaves its cell leaves the cycle. -/
theorem State.now_mod (s : State) (f : Ctx → Ctx) (h : (f s.self).cell = s.self.cell) : (s.mod f).now = s.now := by
  rw [State.now, State.now, State.self_mod, h]
  rfl

theorem SlotOnly.refl (s : State) : SlotOnly s s := ⟨rfl, fun _ _ => rfl⟩

theorem Ctx.doneAt_eq (c : Ctx) (pc : Word) (now : Nat) :
    c.doneAt pc now = { c.settle now with pc := pc } := by
  unfold Ctx.doneAt Ctx.settle
  cases c.sst <;> simp

@[simp] theorem Ctx.setX_cell (c : Ctx) (r : Nat) (v : Word) : (c.setX r v).cell = c.cell := by unfold Ctx.setX; split <;> rfl
@[simp] theorem Ctx.setX_pc (c : Ctx) (r : Nat) (v : Word) : (c.setX r v).pc = c.pc := by unfold Ctx.setX; split <;> rfl
@[simp] theorem Ctx.setX_sst (c : Ctx) (r : Nat) (v : Word) : (c.setX r v).sst = c.sst := by unfold Ctx.setX; split <;> rfl

theorem Ctx.x?_setX (c : Ctx) (r k : Nat) (v : Word) : (c.setX r v).x? k = if k = r ∧ k ≠ 0 then v else c.x? k := by
  unfold Ctx.setX Ctx.x?
  by_cases hr : r = 0
  · subst hr; by_cases hk : k = 0 <;> simp [hk]
  · by_cases hk : k = 0
    · simp [hk]
    · simp only [hr, hk, if_false, tget_tset, not_false_eq_true, and_true, ne_eq]

/-- Completing with a value in xd is what `WroteX` says, and nothing else (01 R15). -/
theorem State.wroteX_result (s : State) (d : BitVec 5) (v : Word) : WroteX s ((s.wx d v).finish) d v := by
  have e : (s.wx d v).finish = s.mod fun c => { (c.setX d.toNat v).settle s.now with pc := c.pc + 4 } := by
    simp [State.finish, State.wx, State.now, State.cyc]
  refine ⟨e ▸ s.slotOnly_mod _, ?_, ?_⟩
  · rw [e, State.self_mod]
    simp only [Ctx.doneAt_eq, Ctx.settle, Ctx.setX]
    split <;> rfl
  · intro r
    rw [e]
    simp only [State.rx, State.self_mod]
    have h : ∀ c : Ctx, ({ c.settle s.now with pc := s.self.pc + 4 } : Ctx).x? r.toNat = c.x? r.toNat := fun _ => rfl
    rw [h, Ctx.x?_setX]
    have e1 : (r.toNat = d.toNat) ↔ r = d := BitVec.toNat_inj
    have e2 : (r.toNat = 0) ↔ r = 0 := by rw [← BitVec.toNat_inj]; rfl
    simp [e1, e2]

/-- An instruction that ends in `result` gives its value. -/
theorem givesX_of_result {i : Instr} {s : State} {d : BitVec 5} {v : Word} (h : exec i s = s.result d v) : GivesX i s d v :=
  ⟨_, h, s.wroteX_result d v⟩

theorem State.goesOn_finishAt (s : State) (pc : Word) : GoesOn s (s.finishAt pc) pc := by
  refine ⟨s.slotOnly_mod _, ?_⟩
  rw [State.finishAt, State.self_mod, Ctx.doneAt_eq]

theorem State.goesOn_finish (s : State) : GoesOn s s.finish (s.self.pc + 4) := by
  refine ⟨s.slotOnly_mod _, ?_⟩
  rw [State.finish, State.self_mod, Ctx.doneAt_eq]

end Sys2Proof.Machine
end

