-- ==== Sys2Proof/Laws/Memory.lean ====
section
/-! SUPPORT. Every operation on a bank keeps its canonical form, and so do the operations on the memories of cells and dies
that the meanings use; what a store to a bank leaves alone. -/

set_option Elab.async false

namespace Sys2Proof.Machine

/-! ## Sets of numbers -/

theorem risesSet_mono {t : NSet} {lo lo' : Nat} (h : risesSet lo t = true) (hl : lo' ≤ lo) : risesSet lo' t = true := by
  cases t with
  | nil => rfl
  | cons j t =>
    simp only [risesSet, Bool.and_eq_true, decide_eq_true_eq] at *
    exact ⟨by omega, h.2⟩

theorem risesSet_nins {t : NSet} {lo k : Nat} (h : risesSet lo t = true) (hk : lo ≤ k) : risesSet lo (nins t k) = true := by
  induction t generalizing lo with
  | nil => simp [nins, risesSet, hk]
  | cons j t ih =>
    have h' := h
    simp only [risesSet, Bool.and_eq_true, decide_eq_true_eq] at h
    simp only [nins]
    split
    · simp only [risesSet, Bool.and_eq_true, decide_eq_true_eq]
      exact ⟨hk, by omega, h.2⟩
    · split
      · exact h'
      · simp only [risesSet, Bool.and_eq_true, decide_eq_true_eq]
        exact ⟨h.1, ih h.2 (by omega)⟩

theorem risesSet_ndel {t : NSet} {lo : Nat} (k : Nat) (h : risesSet lo t = true) : risesSet lo (ndel t k) = true := by
  induction t generalizing lo with
  | nil => rfl
  | cons j t ih =>
    simp only [risesSet, Bool.and_eq_true, decide_eq_true_eq] at h
    simp only [ndel]
    split
    · exact risesSet_mono h.2 (by omega)
    · simp only [risesSet, Bool.and_eq_true, decide_eq_true_eq]
      exact ⟨h.1, ih h.2⟩

theorem risesSet_nput {t : NSet} (k : Nat) (b : Bool) (h : risesSet 0 t = true) : risesSet 0 (nput t k b) = true := by
  unfold nput
  split
  · exact risesSet_nins h (Nat.zero_le k)
  · exact risesSet_ndel k h

theorem risesSet_foldl {α : Type} (l : List α) (f : NSet → α → NSet) (hf : ∀ t x, risesSet 0 t = true → risesSet 0 (f t x) = true)
    {t : NSet} (h : risesSet 0 t = true) : risesSet 0 (l.foldl f t) = true := by
  induction l generalizing t with
  | nil => exact h
  | cons x l ih => exact ih (hf t x h)

theorem risesSet_filter {t : NSet} {lo : Nat} (f : Nat → Bool) (h : risesSet lo t = true) : risesSet lo (t.filter f) = true := by
  induction t generalizing lo with
  | nil => rfl
  | cons j t ih =>
    simp only [risesSet, Bool.and_eq_true, decide_eq_true_eq] at h
    simp only [List.filter_cons]
    split
    · simp only [risesSet, Bool.and_eq_true, decide_eq_true_eq]
      exact ⟨h.1, ih h.2⟩
    · exact risesSet_mono (ih h.2) (by omega)

theorem risesSet_shift {t : NSet} {lo a : Nat} (h : risesSet lo t = true) (hl : a ≤ lo) :
    risesSet (lo - a) (t.map (· - a)) = true := by
  induction t generalizing lo with
  | nil => rfl
  | cons j t ih =>
    simp only [risesSet, Bool.and_eq_true, decide_eq_true_eq, List.map_cons] at *
    refine ⟨by omega, ?_⟩
    have := ih h.2 (by omega)
    rwa [show j - a + 1 = j + 1 - a by omega]

/-- A set in its form keeps it when it is bounded from below and counted from the bound. -/
theorem risesSet_rebase {t : NSet} (a : Nat) (f : Nat → Bool) (h : risesSet 0 t = true) (hf : ∀ k, f k = true → a ≤ k) :
    risesSet 0 ((t.filter f).map (· - a)) = true := by
  have key : ∀ lo, risesSet lo t = true → risesSet (max lo a) (t.filter f) = true := by
    intro lo hlo
    clear h
    induction t generalizing lo with
    | nil => rfl
    | cons j t ih =>
      simp only [risesSet, Bool.and_eq_true, decide_eq_true_eq] at hlo
      simp only [List.filter_cons]
      split
      · rename_i hj
        have := hf j hj
        have hr := ih (j + 1) hlo.2
        simp only [risesSet, Bool.and_eq_true, decide_eq_true_eq]
        exact ⟨by omega, risesSet_mono hr (by omega)⟩
      · exact risesSet_mono (ih (j + 1) hlo.2) (by omega)
  have h0 := key 0 h
  have := risesSet_shift h0 (a := a) (by omega)
  exact risesSet_mono this (by omega)

/-! ## Filtered memories -/

theorem risesFrom_filter {α : Type} {t : Table α} {lo : Nat} (f : Nat × α → Bool) (h : risesFrom lo t = true) :
    risesFrom lo (t.filter f) = true := by
  induction t generalizing lo with
  | nil => rfl
  | cons p t ih =>
    obtain ⟨j, w⟩ := p
    simp only [risesFrom, Bool.and_eq_true, decide_eq_true_eq] at h
    simp only [List.filter_cons]
    split
    · simp only [risesFrom, Bool.and_eq_true, decide_eq_true_eq]
      exact ⟨h.1, ih h.2⟩
    · exact risesFrom_mono (ih h.2) (by omega)

theorem all_filter {α : Type} {l : List α} {q : α → Bool} (f : α → Bool) (h : l.all q = true) : (l.filter f).all q = true := by
  simp only [List.all_eq_true, List.mem_filter] at *
  exact fun x hx => h x hx.1

theorem memory_wf_filter {m : Memory} (f : Nat × Byte → Bool) (h : m.wf = true) : Memory.wf (m.filter f) = true := by
  simp only [Memory.wf, Bool.and_eq_true] at *
  exact ⟨risesFrom_filter f h.1, all_filter f h.2⟩

/-- A memory bounded from below keeps its form when it is counted from the bound. -/
theorem memory_wf_rebase {m : Memory} (a : Nat) (f : Nat × Byte → Bool) (h : m.wf = true) (hf : ∀ p, f p = true → a ≤ p.1) :
    Memory.wf ((m.filter f).map fun p => (p.1 - a, p.2)) = true := by
  simp only [Memory.wf, Bool.and_eq_true] at *
  refine ⟨?_, ?_⟩
  · have key : ∀ lo, risesFrom lo m = true → risesFrom (lo - a) ((m.filter f).map fun p => (p.1 - a, p.2)) = true := by
      intro lo hlo
      clear h
      induction m generalizing lo with
      | nil => rfl
      | cons p m ih =>
        obtain ⟨j, w⟩ := p
        simp only [risesFrom, Bool.and_eq_true, decide_eq_true_eq] at hlo
        have hr := ih (j + 1) hlo.2
        simp only [List.filter_cons]
        split
        · rename_i hj
          have := hf _ hj
          simp only [List.map_cons, risesFrom, Bool.and_eq_true, decide_eq_true_eq]
          exact ⟨by omega, risesFrom_mono hr (by simp only at this; omega)⟩
        · exact risesFrom_mono hr (by omega)
    exact risesFrom_mono (key 0 h.1) (by omega)
  · have := all_filter f h.2
    simpa [List.all_map, Function.comp_def] using this

/-! ## Banks -/

theorem Bank.wf_iff (b : Bank) : b.wf = true ↔
    Memory.wf b.bytes = true ∧ risesSet 0 b.full = true ∧ risesSet 0 b.tags = true ∧ risesSet 0 b.poison = true := by
  simp only [Bank.wf, Bool.and_eq_true, and_assoc]

theorem bank_wf_empty : ({} : Bank).wf = true := rfl

theorem bank_wf_write {b : Bank} (a : Nat) (bs : List Byte) (h : b.wf = true) : (b.write a bs).wf = true := by
  rw [Bank.wf_iff] at *
  obtain ⟨h1, h2, h3, h4⟩ := h
  refine ⟨memory_wf_msetBytes a bs h1, risesSet_foldl _ _ (fun _ _ ht => risesSet_nins ht (Nat.zero_le _)) h2,
    risesSet_foldl _ _ (fun _ _ ht => risesSet_ndel _ ht) h3, risesSet_foldl _ _ (fun _ _ ht => ?_) h4⟩
  split
  · exact risesSet_ndel _ ht
  · exact ht

theorem bank_wf_writeCap {b : Bank} (a : Nat) (c : Capa) (h : b.wf = true) : (b.writeCap a c).wf = true := by
  have := bank_wf_write a (leBytes c.bits.toNat 16) h
  rw [Bank.wf_iff] at *
  exact ⟨this.1, this.2.1, risesSet_nput _ _ this.2.2.1, this.2.2.2⟩

theorem bank_wf_clear {b : Bank} (a n : Nat) (h : b.wf = true) : (b.clear a n).wf = true := by
  rw [Bank.wf_iff] at *
  exact ⟨memory_wf_filter _ h.1, risesSet_filter _ h.2.1, risesSet_filter _ h.2.2.1, risesSet_filter _ h.2.2.2⟩

theorem bank_wf_line {b : Bank} (a : Nat) (h : b.wf = true) : (b.line a).wf = true := by
  rw [Bank.wf_iff] at *
  refine ⟨memory_wf_rebase a _ h.1 ?_, risesSet_rebase (a / 8) _ h.2.1 ?_, risesSet_rebase (a / 16) _ h.2.2.1 ?_,
    risesSet_rebase (a / 8) _ h.2.2.2 ?_⟩
  all_goals (intro k hk; simp only [decide_eq_true_eq] at hk; exact hk.1)

theorem bank_wf_setLine {b : Bank} (a : Nat) (l : Bank) (h : b.wf = true) : (b.setLine a l).wf = true := by
  have := bank_wf_clear a 128 h
  rw [Bank.wf_iff] at *
  exact ⟨memory_wf_foldl _ _ (fun _ _ hm => memory_wf_mset _ _ hm) this.1,
    risesSet_foldl _ _ (fun _ _ ht => risesSet_nins ht (Nat.zero_le _)) this.2.1,
    risesSet_foldl _ _ (fun _ _ ht => risesSet_nins ht (Nat.zero_le _)) this.2.2.1,
    risesSet_foldl _ _ (fun _ _ ht => risesSet_nins ht (Nat.zero_le _)) this.2.2.2⟩

theorem bank_wf_merge {b : Bank} (src : Bank) (mask : BitVec 128) (h : b.wf = true) : (b.merge src mask).wf = true := by
  rw [Bank.wf_iff] at *
  refine ⟨memory_wf_foldl _ _ (fun _ _ hm => memory_wf_mset _ _ hm) h.1,
    risesSet_foldl _ _ (fun _ _ ht => risesSet_nput _ _ ht) h.2.1,
    risesSet_foldl _ _ (fun _ _ ht => risesSet_ndel _ ht) h.2.2.1, risesSet_foldl _ _ (fun _ _ ht => ?_) h.2.2.2⟩
  dsimp only
  split
  · exact risesSet_nins ht (Nat.zero_le _)
  · split
    · exact risesSet_ndel _ ht
    · exact ht

/-- One byte of a bank after a store: the stored bytes, and every other byte as before. -/
theorem Bank.mget_write {b : Bank} (h : b.wf = true) (a c : Nat) (bs : List Byte) :
    mget (b.write a bs).bytes c = if a ≤ c ∧ c < a + bs.length then bs.getD (c - a) 0 else mget b.bytes c :=
  mget_msetBytes ((Bank.wf_iff b).1 h).1 a c bs

theorem nestedPut_wf {b : Memory} (base e w : Nat) (v : Int) (h : Memory.wf b = true) : Memory.wf (nestedPut b base e w v) = true :=
  memory_wf_foldl _ _ (fun _ _ hm => memory_wf_mset _ _ hm) h

/-! ## The memories of the module -/

theorem State.memWf_iff (s : State) : s.memWf = true ↔
    (s.cells.all fun p => p.2.wf) = true ∧ (s.dies.all fun p => p.2.wf) = true := by
  simp only [State.memWf, Bool.and_eq_true]

theorem cell_wf_empty : ({} : Cell).wf = true := rfl
theorem die_wf_empty : ({} : Die).wf = true := rfl

theorem State.cell_wf {s : State} (h : s.memWf = true) (n : Nat) : (s.cell n).wf = true :=
  all_tget ((State.memWf_iff s).1 h).1 cell_wf_empty n

theorem State.die_wf {s : State} (h : s.memWf = true) (n : Nat) : (s.die n).wf = true :=
  all_tget ((State.memWf_iff s).1 h).2 die_wf_empty n

/-- A change of one cell that keeps its memories' form keeps the module's. -/
theorem State.memWf_modCell {s : State} (n : Nat) (f : Cell → Cell) (h : s.memWf = true) (hf : (f (s.cell n)).wf = true) :
    (s.modCell n f).memWf = true := by
  rw [State.memWf_iff] at *
  exact ⟨all_tset h.1 hf, h.2⟩

theorem State.memWf_modDie {s : State} (n : Nat) (f : Die → Die) (h : s.memWf = true) (hf : (f (s.die n)).wf = true) :
    (s.modDie n f).memWf = true := by
  rw [State.memWf_iff] at *
  exact ⟨h.1, all_tset h.2 hf⟩

/-- A step that touches neither cells nor dies keeps the memories. -/
theorem State.memWf_of_eq {s t : State} (hc : t.cells = s.cells) (hd : t.dies = s.dies) (h : s.memWf = true) : t.memWf = true := by
  simpa only [State.memWf, hc, hd] using h

theorem State.memWf_mod {s : State} (f : Ctx → Ctx) (h : s.memWf = true) : (s.mod f).memWf = true := State.memWf_of_eq rfl rfl h
theorem State.memWf_modCtx {s : State} (i : Nat) (f : Ctx → Ctx) (h : s.memWf = true) : (s.modCtx i f).memWf = true :=
  State.memWf_of_eq rfl rfl h

theorem State.memWf_report {s : State} (part : Nat) (d0 addr info : Word) (die : Nat) (m : Option Msg) (h : s.memWf = true) :
    (s.report part d0 addr info die m).memWf = true := State.memWf_of_eq rfl rfl h

theorem Cell.wf_iff (c : Cell) : c.wf = true ↔
    c.spad.wf = true ∧ Memory.wf c.latch.f = true ∧ Memory.wf c.latch.k = true ∧ (c.l1.all fun p => p.2.wf) = true := by
  simp only [Cell.wf, Bool.and_eq_true, and_assoc]

theorem Die.wf_iff (d : Die) : d.wf = true ↔ d.dram.wf = true ∧ (d.l2.all fun p => p.2.wf) = true := by
  simp only [Die.wf, Bool.and_eq_true]

/-- A store to a scratchpad keeps the form. -/
theorem State.memWf_spad {s : State} (n : Nat) (f : Bank → Bank) (hf : ∀ b, b.wf = true → (f b).wf = true) (h : s.memWf = true) :
    (s.modCell n fun c => { c with spad := f c.spad }).memWf = true := by
  refine State.memWf_modCell n _ h ?_
  have := (Cell.wf_iff _).1 (State.cell_wf h n)
  exact (Cell.wf_iff _).2 ⟨hf _ this.1, this.2⟩

/-- Dropping a line from L1 keeps the form. -/
theorem State.memWf_l1Drop {s : State} (n id : Nat) (h : s.memWf = true) : (s.l1Drop n id).memWf = true := by
  refine State.memWf_modCell n _ h ?_
  have := (Cell.wf_iff _).1 (State.cell_wf h n)
  exact (Cell.wf_iff _).2 ⟨this.1, this.2.1, this.2.2.1, all_tdel id this.2.2.2⟩

theorem State.dramLine_wf {s : State} (die pa : Nat) (h : s.memWf = true) : (s.dramLine die pa).wf = true := by
  have hd := ((Die.wf_iff _).1 (State.die_wf h die)).1
  unfold State.dramLine
  dsimp only
  split
  · rfl
  · split
    · split
      · have := (Bank.wf_iff _).1 (bank_wf_line pa hd)
        exact (Bank.wf_iff _).2 ⟨this.1, this.2.1, this.2.2.1, (by decide : risesSet 0 (List.range 16) = true)⟩
      · unfold State.decipher
        dsimp only
        split
        · exact bank_wf_line pa hd
        · have := (Bank.wf_iff _).1 (bank_wf_line pa hd)
          exact (Bank.wf_iff _).2 ⟨memory_wf_msetBytes 0 _ rfl, this.2⟩
    · exact bank_wf_line pa hd

/-- A change of one die, reported or not, keeps the form when both changes keep the die's. -/
theorem State.memWf_modDie_if {s : State} (n : Nat) (f g : Die → Die) (c : Bool) (part : Nat) (d0 addr info : Word) (die : Nat)
    (m : Option Msg) (h : s.memWf = true) (hf : (f (s.die n)).wf = true) (hg : (g (s.die n)).wf = true) :
    (if c = true then (s.modDie n f).report part d0 addr info die m else s.modDie n g).memWf = true := by
  split
  · exact State.memWf_report _ _ _ _ _ _ (State.memWf_modDie n f h hf)
  · exact State.memWf_modDie n g h hg

theorem State.memWf_dramWrite {s : State} (die pa : Nat) (l : L2Line) (h : s.memWf = true) : (s.dramWrite die pa l).memWf = true := by
  have hd := (Die.wf_iff _).1 (State.die_wf h die)
  have hb := (Bank.wf_iff _).1 hd.1
  have hm : risesSet 0 ((List.range 16).foldl (fun t k => nins t (k + pa / 8)) (s.die die).dram.poison) = true :=
    risesSet_foldl (List.range 16) _ (fun _ _ ht => risesSet_nins ht (Nat.zero_le _)) hb.2.2.2
  refine State.memWf_modDie_if die _ _ _ _ _ _ _ _ _ h ?_ ?_
  · rw [Die.wf_iff]
    refine ⟨?_, hd.2⟩
    dsimp only
    split
    · rw [Bank.wf_iff]
      refine ⟨hb.1, hb.2.1, hb.2.2.1, ?_⟩
      dsimp only
      exact hm
    · exact hd.1
  · rw [Die.wf_iff]
    exact ⟨bank_wf_setLine pa l.data hd.1, hd.2⟩

theorem State.memWf_l2Evict {s : State} (die pa : Nat) (h : s.memWf = true) : (s.l2Evict die pa).memWf = true := by
  unfold State.l2Evict
  split
  · exact h
  · rename_i l _
    have h' : (if l.dirty then s.dramWrite die pa l else s).memWf = true := by
      split
      · exact State.memWf_dramWrite die pa l h
      · exact h
    have hd := (Die.wf_iff _).1 (State.die_wf h' die)
    exact State.memWf_modDie die _ h' ((Die.wf_iff _).2 ⟨hd.1, all_tdel pa hd.2⟩)

theorem State.memWf_l2MakeRoom {s : State} (die slice k : Nat) (h : s.memWf = true) : (s.l2MakeRoom die slice k).memWf = true := by
  have fold : ∀ (l : List (Nat × L2Line)) (u : State), u.memWf = true → (l.foldl (fun s p => s.l2Evict die p.1) u).memWf = true := by
    intro l
    induction l with
    | nil => exact fun _ hu => hu
    | cons p t ih => exact fun u hu => ih _ (State.memWf_l2Evict _ _ hu)
  exact fold _ _ h

/-- A fill of L2 keeps the form, and the line it gives is in the form. -/
theorem State.memWf_l2Fill {s : State} (p : Page) (va : Nat) (h : s.memWf = true) :
    (s.l2Fill p va).1.memWf = true ∧ (s.l2Fill p va).2.wf = true := by
  have fresh : ∀ u : State, u.memWf = true → ∀ (n : Nat) (l : L2Line), l.data = u.dramLine p.die (p.phys (va / 128 * 128)) →
      ((u.l2MakeRoom p.die n 1).modDie p.die fun d => { d with l2 := tset d.l2 (p.phys (va / 128 * 128)) l }).memWf = true ∧
        l.wf = true := by
    intro u hu n l hl
    have hw : l.wf = true := (congrArg Bank.wf hl).trans (State.dramLine_wf p.die (p.phys (va / 128 * 128)) hu)
    have hm := State.memWf_l2MakeRoom p.die n 1 hu
    generalize u.l2MakeRoom p.die n 1 = w at hm ⊢
    have hd := (Die.wf_iff _).1 (State.die_wf hm p.die)
    exact ⟨State.memWf_modDie _ _ hm ((Die.wf_iff _).2 ⟨hd.1, all_tset hd.2 hw⟩), hw⟩
  unfold State.l2Fill
  dsimp only
  split
  · rename_i l hl
    split
    · exact ⟨h, all_tfind (q := L2Line.wf) ((Die.wf_iff _).1 (State.die_wf h p.die)).2 hl⟩
    · exact fresh (s.l2Evict _ _) (State.memWf_l2Evict _ _ h) _ _ rfl
  · exact fresh s h _ _ rfl

theorem State.memWf_l2Put {s : State} (p : Page) (va : Nat) (b : Bank) (hb : b.wf = true) (h : s.memWf = true) :
    (s.l2Put p va b).memWf = true := by
  have hd := (Die.wf_iff _).1 (State.die_wf h p.die)
  exact State.memWf_modDie _ _ h ((Die.wf_iff _).2 ⟨hd.1, all_tset hd.2 hb⟩)

/-- A home line that is found is in the form, and finding it keeps the memories' form. -/
theorem State.memWf_homeLine {s u : State} {part va : Nat} {p : Page} {b : Bank} (e : s.homeLine part va = .ok (u, p, b))
    (h : s.memWf = true) : u.memWf = true ∧ b.wf = true := by
  unfold State.homeLine at e
  split at e
  · cases e
  · rename_i q _
    have := State.memWf_l2Fill q va h
    simp only [Except.ok.injEq, Prod.mk.injEq] at e
    obtain ⟨rfl, _, rfl⟩ := e
    exact this

/-- Reading a home keeps the form. -/
theorem State.memWf_homeRead {s u : State} {l : Loc} {n : Nat} {bs : List Byte} (e : s.homeRead l n = .ok (u, bs))
    (h : s.memWf = true) : u.memWf = true := by
  unfold State.homeRead at e
  split at e
  · dsimp only at e
    split at e
    · cases e
    · simp only [Except.ok.injEq, Prod.mk.injEq] at e; rw [← e.1]; exact h
  · split at e
    · cases e
    · rename_i v p b hv
      split at e
      · cases e
      · simp only [Except.ok.injEq, Prod.mk.injEq] at e; rw [← e.1]; exact (State.memWf_homeLine hv h).1

/-- A change of one line that keeps banks in their form keeps the memories' form. -/
theorem State.memWf_lineModify {s u : State} {space va : Nat} {f : Bank → Nat → Bank}
    (hf : ∀ b o, b.wf = true → (f b o).wf = true) (e : s.lineModify space va f = .ok u) (h : s.memWf = true) : u.memWf = true := by
  unfold State.lineModify at e
  split at e
  · cases e
  · rename_i v p b hv
    simp only [Except.ok.injEq] at e
    rw [← e]
    have := State.memWf_homeLine hv h
    exact State.memWf_l2Put _ _ _ (hf _ _ this.2) this.1

/-- A change at a home that keeps banks in their form keeps the memories' form. -/
theorem State.memWf_homeModify {s u : State} {l : Loc} {n : Nat} {f : Bank → Nat → Bank}
    (hf : ∀ b o, b.wf = true → (f b o).wf = true) (e : s.homeModify l n f = .ok u) (h : s.memWf = true) : u.memWf = true := by
  unfold State.homeModify at e
  split at e
  · simp only [Except.ok.injEq] at e; rw [← e]; exact State.memWf_spad _ _ (fun b hb => hf b _ hb) h
  · split at e
    · cases e
    · exact State.memWf_lineModify hf e h

/-- A store at a home keeps the form. -/
theorem State.memWf_homeWrite {s u : State} {l : Loc} {bs : List Byte} (e : s.homeWrite l bs = .ok u) (h : s.memWf = true) :
    u.memWf = true := State.memWf_homeModify (fun _ _ hb => bank_wf_write _ _ hb) e h

theorem State.memWf_homeSetFull {s u : State} {l : Loc} {b : Bool} (e : s.homeSetFull l b = .ok u) (h : s.memWf = true) :
    u.memWf = true := by
  refine State.memWf_homeModify (fun k o hk => ?_) e h
  have := (Bank.wf_iff _).1 hk
  exact (Bank.wf_iff _).2 ⟨this.1, risesSet_nput _ _ this.2.1, this.2.2⟩

theorem State.memWf_deviceWrite {s u : State} {part va : Nat} {bs : List Byte} (e : s.deviceWrite part va bs = .ok u)
    (h : s.memWf = true) : u.memWf = true := by
  unfold State.deviceWrite at e
  split at e
  · cases e
  · rename_i p _
    simp only [Except.ok.injEq] at e
    rw [← e]
    have := State.memWf_l2Fill p va h
    exact State.memWf_l2Put _ _ _ (bank_wf_write _ _ this.2) this.1

/-- The memories at reset are in their form. -/
theorem State.memWf_reset : State.reset.memWf = true := by decide

end Sys2Proof.Machine
end

