-- ==== Sys2Proof/Laws/Ops.lean ====
section
/-! SUPPORT. What the shared operations of every meaning can do: taking a trap, halting without a handler, waiting, reporting,
and the common course of a vector instruction, each said once. -/

set_option Elab.async false

namespace Sys2Proof.Machine

/-! ## Ending an instruction -/

@[simp] theorem conclude_ok (s : State) : conclude (.ok s) = .next s := rfl
@[simp] theorem conclude_error (s : State) : conclude (.error s) = .next s := rfl

/-- Whatever ends a meaning is a next state. -/
theorem conclude_safe (r : Attempt State) : Safe (conclude r) := by
  cases r <;> exact ⟨_, rfl⟩

@[simp] theorem State.require_true (s : State) (code : Byte) (addr : Word) : s.require true code addr = .ok () := rfl
@[simp] theorem State.require_false (s : State) (code : Byte) (addr : Word) : s.require false code addr = .error (s.trap code addr) := rfl

/-! ## Tables mapped over -/

theorem tfind_map {α β : Type} (t : Table α) (g : α → β) (k : Nat) :
    tfind (t.map fun d => (d.1, g d.2)) k = (tfind t k).map g := by
  induction t with
  | nil => rfl
  | cons p t ih =>
    obtain ⟨j, w⟩ := p
    simp only [List.map_cons, tfind]
    split
    · rfl
    · exact ih

/-! ## Leaving a guest slot -/

@[simp] theorem State.leaveGuest_ctxs (s : State) (x : Nat) : (s.leaveGuest x).ctxs = s.ctxs := rfl
@[simp] theorem State.leaveGuest_cells (s : State) (x : Nat) : (s.leaveGuest x).cells = s.cells := rfl
@[simp] theorem State.leaveGuest_reports (s : State) (x : Nat) : (s.leaveGuest x).reports = s.reports := rfl

/-- Leaving a guest slot changes of a die its guests alone. -/
theorem State.die_leaveGuest (s : State) (x n : Nat) :
    (s.leaveGuest x).die n = { s.die n with guests := (s.die n).guests.filter fun g => g.2 ≠ x } := by
  have e : tfind (s.leaveGuest x).dies n
      = (tfind s.dies n).map fun d : Die => { d with guests := d.guests.filter fun g => decide (g.2 ≠ x) } := by
    unfold State.leaveGuest
    dsimp only
    induction s.dies with
    | nil => rfl
    | cons p t ih =>
      obtain ⟨j, w⟩ := p
      simp only [List.map_cons, tfind]
      split
      · rfl
      · exact ih
  unfold State.die tget
  rw [e]
  cases tfind s.dies n <;> rfl

@[simp] theorem State.cyc_leaveGuest (s : State) (x n : Nat) : (s.leaveGuest x).cyc n = s.cyc n := by
  simp only [State.cyc, State.die_leaveGuest]

/-! ## Back home -/

/-- A generated message that enters a queue, or is reported as refused, leaves contexts and dies as they are (09 R206, R207). -/
theorem State.enqueueGen_frame (s : State) (cell cls part : Nat) (m : Msg) :
    (s.enqueueGen cell cls part m).ctxs = s.ctxs ∧ (s.enqueueGen cell cls part m).dies = s.dies ∧
      (s.enqueueGen cell cls part m).cur = s.cur := by
  unfold State.enqueueGen
  split
  · exact ⟨rfl, rfl, rfl⟩
  · unfold State.reportQFull
    split
    all_goals exact ⟨rfl, rfl, rfl⟩

/-- Messages stored for a context that is back at its cell leave contexts and dies as they are (09 R378). -/
theorem State.deliverStore_frame (s : State) (cell part x : Nat) :
    (s.deliverStore cell part x).ctxs = s.ctxs ∧ (s.deliverStore cell part x).dies = s.dies ∧
      (s.deliverStore cell part x).cur = s.cur := by
  have fold : ∀ (l : List Flight) (u : State),
      let v := l.foldl (fun s f => s.enqueueGen cell (f.msg.hdr.toNat % 16) part f.msg) u
      v.ctxs = u.ctxs ∧ v.dies = u.dies ∧ v.cur = u.cur := by
    intro l
    induction l with
    | nil => exact fun u => ⟨rfl, rfl, rfl⟩
    | cons f l ih =>
      intro u
      have h := u.enqueueGen_frame cell (f.msg.hdr.toNat % 16) part f.msg
      have k := ih (u.enqueueGen cell (f.msg.hdr.toNat % 16) part f.msg)
      exact ⟨k.1.trans h.1, k.2.1.trans h.2.1, k.2.2.trans h.2.2⟩
  unfold State.deliverStore
  dsimp only
  split
  · exact ⟨rfl, rfl, rfl⟩
  · exact fold _ _

theorem State.backHome_frame (s : State) (x : Nat) :
    (s.backHome x).ctxs = s.ctxs ∧ (s.backHome x).dies = s.dies ∧ (s.backHome x).cur = s.cur := by
  unfold State.backHome
  dsimp only
  split
  · exact s.deliverStore_frame _ _ _
  · exact ⟨rfl, rfl, rfl⟩

/-! ## Traps (17 R325) -/

theorem Ctx.enterTrap_eq (c : Ctx) (k : TrapCause) (hc : k.code ≠ cBUDGET) :
    c.enterTrap k = { c.setTrapRegs (trapLevel c.pl)
        { c.trapRegs (trapLevel c.pl) with epc := k.epc, pl := c.pl, cause := k.cause, word := k.word, addr := k.addr } with
      pl := trapLevel c.pl, pc := (c.trapRegs (trapLevel c.pl)).tvec } := by
  unfold Ctx.enterTrap
  simp only [if_neg hc]

theorem State.setCtx_modCtx (s : State) (i : Nat) (c : Ctx) (f : Ctx → Ctx) : (s.setCtx i c).modCtx i f = s.setCtx i (f c) := by
  rw [State.modCtx, State.ctx_setCtx_self, State.setCtx, State.setCtx, State.setCtx, tset_tset]

/-- With a handler, `takeTrap` writes the context that enters it into the state in which it is back in its slot. -/
theorem State.takeTrap_eq (s : State) (i : Nat) (k : TrapCause) (h : ((s.ctx i).trapRegs (trapLevel (s.ctx i).pl)).tvec ≠ 0) :
    s.takeTrap i k = ((s.leaveUnits i).backHome i).setCtx i
      (((s.ctx i).settle (s.cyc (dieOfCell (s.ctx i).cell))).enterTrap k).toSlot := by
  rw [State.takeTrap]
  exact if_neg h

/-- The context that has entered its handler. -/
theorem Ctx.entered_eq (c : Ctx) (k : TrapCause) (now : Nat) (hw : k.word = c.word) (hc : k.code ≠ cBUDGET) :
    ((c.settle now).enterTrap k).toSlot.dropLanes c.pc =
      (let p := trapLevel c.pl
       let v := (c.trapRegs p).tvec
       { (c.doneAt v now).setTrapRegs p ⟨k.epc, c.pl, k.cause, c.word, k.addr, v⟩ with
         pl := p, vsctDone := (c.dropLanes c.pc).vsctDone, place := if c.migrated then .slot else c.place }) := by
  have hs : trapLevel (c.settle now).pl = trapLevel c.pl := rfl
  rw [Ctx.enterTrap_eq _ _ hc, hs, hw]
  dsimp only
  rw [Ctx.doneAt_eq]
  by_cases hl : trapLevel c.pl = 2
  · rw [hl]; rfl
  · unfold Ctx.setTrapRegs Ctx.trapRegs
    rw [if_neg hl, if_neg hl, if_neg hl, if_neg hl]
    rfl

/-- With a handler, a trap that ends the acting context's instruction is what `Trapped` says, for every cause but the BUDGET trap. -/
theorem State.trapped_endInTrap (s : State) (k : TrapCause) (h : s.hasHandler) (hw : k.word = s.self.word) (hc : k.code ≠ cBUDGET) :
    Trapped s (s.endInTrap k) k.cause k.epc k.addr := by
  have fr := (s.leaveUnits s.cur).backHome_frame s.cur
  have e : s.endInTrap k = ((s.leaveUnits s.cur).backHome s.cur).setCtx s.cur
      (((s.self.settle s.now).enterTrap k).toSlot.dropLanes s.self.pc) := by
    rw [State.endInTrap, State.takeTrap_eq s s.cur k h, State.mod, State.setCtx_cur, fr.2.2]
    exact State.setCtx_modCtx _ _ _ _
  refine ⟨?_, ?_, ?_⟩
  · rw [e]; rfl
  · intro x hx
    rw [e]
    show tfind (tset _ s.cur _) x = _
    rw [tfind_tset_ne _ _ hx, fr.1]
    rfl
  · rw [e]
    show (State.setCtx _ s.cur _).ctx (State.cur _) = _
    rw [State.setCtx_cur, fr.2.2]
    show (State.setCtx _ s.cur _).ctx s.cur = _
    rw [State.ctx_setCtx_self]
    exact Ctx.entered_eq _ _ _ hw hc

/-- A precise fault with a handler, other than POISON and BUDGET, is a precise trap and nothing else. -/
theorem State.trapped_trap (s : State) (code : Byte) (addr : Word) (h : s.hasHandler) (hp : code ≠ cPOISON) (hb : code ≠ cBUDGET) :
    Trapped s (s.trap code addr) (code.zeroExtend 13) s.self.pc addr := by
  unfold State.trap
  simp only [hp, false_and, if_false]
  exact s.trapped_endInTrap { cause := code.zeroExtend 13, code := code, epc := s.self.pc, word := s.word, addr := addr, info := s.word.zeroExtend 64 } h rfl hb

/-- A meaning that ends in such a fault traps. -/
theorem traps_of_trap {i : Instr} {s : State} {code : Byte} {addr : Word} (e : exec i s = .next (s.trap code addr)) (h : s.hasHandler)
    (hp : code ≠ cPOISON) (hb : code ≠ cBUDGET) : Traps i s code addr :=
  ⟨_, e, s.trapped_trap code addr h hp hb⟩

/-! ## Waiting (04 R63, 05 R92) -/

theorem State.retries_again {i : Instr} {s : State} (e : exec i s = .next (s.stall .again)) : Retries i s :=
  ⟨_, e, s.slotOnly_mod _, by rw [State.stall, State.self_mod]⟩

theorem State.stall_self (s : State) (w : Wait) :
    (s.stall w).self = { s.self with sst := .stalled, wait := w, charged := true, lastTry := s.now } := by
  rw [State.stall, State.self_mod]

theorem State.park_self (s : State) (w : Wait) :
    (s.park w).self = { s.self with sst := .parked, wait := w, charged := true, lastTry := s.now } := by
  rw [State.park, State.self_mod]

theorem State.stall_slotOnly (s : State) (w : Wait) : SlotOnly s (s.stall w) := s.slotOnly_mod _
theorem State.park_slotOnly (s : State) (w : Wait) : SlotOnly s (s.park w) := s.slotOnly_mod _

/-! ## Reports -/

theorem State.report_reports (s : State) (part : Nat) (d0 addr info : Word) (die : Nat) (m : Option Msg) :
    (s.report part d0 addr info die m).reports = tset s.reports s.fresh { part := part, d0 := d0, addr := addr, info := info, payload := m } :=
  rfl

theorem State.report_rest (s : State) (part : Nat) (d0 addr info : Word) (die : Nat) (m : Option Msg) :
    s.report part d0 addr info die m =
      { s with reports := (s.report part d0 addr info die m).reports, fresh := s.fresh + 1 } := rfl

/-! ## Registers of the other classes -/

theorem Ctx.v?_setV (c : Ctx) (r k : Nat) (v : VWord) : (c.setV r v).v? k = if k = r then v else c.v? k := by
  simp only [Ctx.setV, Ctx.v?, tget_tset]

theorem Ctx.p?_setP (c : Ctx) (r k : Nat) (v : Word) : (c.setP r v).p? k = if k = r ∧ k ≠ 0 then v else c.p? k := by
  unfold Ctx.setP Ctx.p?
  by_cases hr : r = 0
  · subst hr; by_cases hk : k = 0 <;> simp [hk]
  · by_cases hk : k = 0
    · simp [hk]
    · simp only [hr, hk, if_false, tget_tset, not_false_eq_true, and_true, ne_eq]

theorem Ctx.c?_setC (c : Ctx) (r k : Nat) (v : Capa) : (c.setC r v).c? k = if k = r then v else c.c? k := by
  simp only [Ctx.setC, Ctx.c?, tget_tset]

/-- x0 and p0 hold nothing of their own after any write (01 R15). -/
theorem Ctx.hardWired_setX (c : Ctx) (r : Nat) (v : Word) (h : c.hardWired = true) : (c.setX r v).hardWired = true := by
  unfold Ctx.setX
  split
  · exact h
  · rename_i hr
    simp only [Ctx.hardWired, Bool.and_eq_true] at *
    exact ⟨by rw [tfind_tset_ne _ _ (Ne.symm hr)]; exact h.1, h.2⟩

theorem Ctx.hardWired_setP (c : Ctx) (r : Nat) (v : Word) (h : c.hardWired = true) : (c.setP r v).hardWired = true := by
  unfold Ctx.setP
  split
  · exact h
  · rename_i hr
    simp only [Ctx.hardWired, Bool.and_eq_true] at *
    exact ⟨h.1, by rw [tfind_tset_ne _ _ (Ne.symm hr)]; exact h.2⟩

/-- Trap entry and return leave no privilege level at 0b11 (01 R17). -/
theorem Ctx.plOk_enterTrap (c : Ctx) (k : TrapCause) (h : c.plOk = true) : (c.enterTrap k).plOk = true := by
  have hl : trapLevel c.pl ≠ 3 := by unfold trapLevel; split <;> decide
  have key : (c.enterTrap k).pl = trapLevel c.pl ∧ ((c.enterTrap k).t1.pl = c.t1.pl ∨ (c.enterTrap k).t1.pl = c.pl) ∧
      ((c.enterTrap k).t2.pl = c.t2.pl ∨ (c.enterTrap k).t2.pl = c.pl) := by
    unfold Ctx.enterTrap Ctx.setTrapRegs
    dsimp only
    split <;> simp
  simp only [Ctx.plOk, Bool.and_eq_true, bne_iff_ne, ne_eq] at *
  obtain ⟨⟨h1, h2⟩, h3⟩ := h
  obtain ⟨k1, k2, k3⟩ := key
  refine ⟨⟨k1 ▸ hl, ?_⟩, ?_⟩
  · rcases k2 with e | e <;> rw [e] <;> assumption
  · rcases k3 with e | e <;> rw [e] <;> assumption

/-! ## Vector lanes (06 R133, R134) -/

theorem State.writeV_slotOnly {n : Nat} (s : State) (d : BitVec n) (v : VWord) (whole : Nat → Bool) : SlotOnly s (s.writeV d v whole) := by
  unfold State.writeV
  dsimp only
  rw [State.wv, State.mod_mod]; exact s.slotOnly_mod _

theorem SlotOnly.trans {s t u : State} (h : SlotOnly s t) (k : SlotOnly t u) : SlotOnly s u := by
  have hc : t.cur = s.cur := by rw [h.1]
  refine ⟨?_, fun x hx => ?_⟩
  · rw [k.1, h.1]
  · rw [k.2 x (by rw [hc]; exact hx), h.2 x hx]

/-- The common course of a vector instruction touches the acting context alone. -/
theorem State.lanes_slotOnly (s : State) (d : BitVec 4) (p t : BitVec 3) (f : Nat → Nat × FFlags) :
    ∃ u, s.lanes d p t f = .next u ∧ SlotOnly s u :=
  ⟨_, rfl, ((s.slotOnly_mod _).trans (State.writeV_slotOnly _ _ _ _)).trans (State.slotOnly_mod _ _)⟩

end Sys2Proof.Machine
end

