-- ==== Sys2Proof/Laws/Lanes.lean ====
section
/-! SUPPORT. Lanes of a vector register: a register made from lanes gives each of them back, and the common course of a vector
instruction is what `LanesDone` says (06 R133, R134, R136). -/

set_option Elab.async false

namespace Sys2Proof.Machine

/-- The number that lanes make. -/
def laneSum (w : Nat) (l : List Nat) : Nat := l.foldr (fun x acc => x % 2 ^ w + 2 ^ w * acc) 0

theorem laneSum_lt (w : Nat) (l : List Nat) : laneSum w l < 2 ^ (w * l.length) := by
  induction l with
  | nil => simp [laneSum]
  | cons x l ih =>
    have e : laneSum w (x :: l) = x % 2 ^ w + 2 ^ w * laneSum w l := rfl
    rw [e, List.length_cons, Nat.mul_add, Nat.pow_add, Nat.mul_one, Nat.mul_comm (2 ^ (w * l.length))]
    have hx : x % 2 ^ w < 2 ^ w := Nat.mod_lt _ (Nat.two_pow_pos w)
    calc x % 2 ^ w + 2 ^ w * laneSum w l < 2 ^ w + 2 ^ w * laneSum w l := Nat.add_lt_add_right hx _
      _ = 2 ^ w * (laneSum w l + 1) := by rw [Nat.mul_add, Nat.mul_one, Nat.add_comm]
      _ ≤ 2 ^ w * 2 ^ (w * l.length) := Nat.mul_le_mul_left _ ih

theorem laneSum_get (w : Nat) (l : List Nat) (i : Nat) : laneSum w l / 2 ^ (w * i) % 2 ^ w = l.getD i 0 % 2 ^ w := by
  induction l generalizing i with
  | nil => simp [laneSum]
  | cons x l ih =>
    have e : laneSum w (x :: l) = x % 2 ^ w + 2 ^ w * laneSum w l := rfl
    have hx : x % 2 ^ w < 2 ^ w := Nat.mod_lt _ (Nat.two_pow_pos w)
    cases i with
    | zero => rw [e]; simp
    | succ i =>
      rw [e, Nat.mul_add, Nat.mul_one, Nat.add_comm (w * i), Nat.pow_add, ← Nat.div_div_eq_div_mul,
        Nat.add_mul_div_left _ _ (Nat.two_pow_pos w), Nat.div_eq_of_lt hx, Nat.zero_add, ih]
      rfl

theorem ofLanes_toNat {w : Nat} {l : List Nat} (h : w * l.length ≤ 512) : (ofLanes w l).toNat = laneSum w l := by
  show (BitVec.ofNat 512 (laneSum w l)).toNat = _
  rw [BitVec.toNat_ofNat, Nat.mod_eq_of_lt]
  exact lt_of_lt_of_le (laneSum_lt w l) (Nat.pow_le_pow_right (by decide) h)

/-- A lane read as bits is the lane read as a number. -/
theorem lane_eq (v : VWord) (w i : Nat) : lane v w i = BitVec.ofNat w (laneGet v w i) := by
  apply BitVec.eq_of_toNat_eq
  simp [lane, laneGet, BitVec.extractLsb'_toNat, Nat.shiftRight_eq_div_pow]

/-- A register made from lanes gives each of them back. -/
theorem lane_ofLanes {w : Nat} {l : List Nat} (h : w * l.length ≤ 512) (i : Nat) :
    lane (ofLanes w l) w i = BitVec.ofNat w (l.getD i 0) := by
  rw [lane_eq]
  apply BitVec.eq_of_toNat_eq
  simp only [BitVec.toNat_ofNat, laneGet, ofLanes_toNat h, laneSum_get, Nat.mod_mod]

/-- The bits above the lanes are zero. -/
theorem ofLanes_above {w : Nat} {l : List Nat} (h : w * l.length ≤ 512) {k : Nat} (hk : w * l.length ≤ k) :
    (ofLanes w l).getLsbD k = false := by
  rw [BitVec.getLsbD, ofLanes_toNat h]
  exact Nat.testBit_lt_two_pow (lt_of_lt_of_le (laneSum_lt w l) (Nat.pow_le_pow_right (by decide) hk))

/-- Flags gathered from a list of results, bit by bit. -/
theorem flags_foldl (l : List (Nat × FFlags)) (g : FFlags) (k : Nat) :
    (l.foldl (fun g r => g ||| r.2) g).getLsbD k = (g.getLsbD k || l.any fun r => r.2.getLsbD k) := by
  induction l generalizing g with
  | nil => simp
  | cons r l ih => simp [ih, Bool.or_assoc]

theorem laneW_mul (t : BitVec 3) : laneW t * laneN t = 512 := by
  unfold laneN laneW
  have := t.isLt
  rcases h : t.toNat with _ | _ | _ | _ | _ | _ | _ | _ | n <;> first | rfl | omega

/-- Ending the instruction of a context whose v and undefined marks were written. -/
theorem Ctx.settle_v (c : Ctx) (v : List (Nat × VWord)) (B : List Nat) (now : Nat) :
    ({ ({ c with v := v, badRegs := B } : Ctx).settle now with pc := c.pc + 4 } : Ctx)
      = { c.settle now with pc := c.pc + 4, v := v, badRegs := B } := by
  cases c
  rfl

/-- The acting context after `writeV` and the end of its instruction: v, its undefined marks and nothing else of its own. -/
theorem State.self_writeV_finish {n : Nat} (s : State) (d : BitVec n) (v : VWord) (whole : Nat → Bool) :
    ∃ B, (s.writeV d v whole).finish.self
      = { s.self.doneAt (s.self.pc + 4) s.now with v := tset s.self.v d.toNat v, badRegs := B } := by
  rw [Ctx.doneAt_eq]
  unfold State.writeV State.wv
  dsimp only
  refine ⟨((List.range 8).filter fun k => !whole k && s.self.badRegs.contains (128 + 8 * d.toNat + k)).foldl
    (fun b k => nins b (128 + 8 * d.toNat + k)) (s.self.setV d.toNat v).badRegs, ?_⟩
  rw [State.mod_mod, State.finish, State.self_mod, State.self_mod, State.now_mod _ _ rfl]
  exact Ctx.settle_v _ _ _ _

/-- The acting context after the common course of a vector instruction. -/
theorem State.lanes_self (s : State) (d : BitVec 4) (p t : BitVec 3) (f : Nat → Nat × FFlags) (u : State)
    (h : s.lanes d p t f = .next u) :
    ∃ B, u.self = { s.self.doneAt (s.self.pc + 4) s.now with
      v := tset s.self.v d.toNat (ofLanes (laneW t) ((maskLanes (laneW t) (laneN t) (s.rp p) (s.rv d) f).map (·.1)))
      badRegs := B
      fflags := s.self.fflags ||| (maskLanes (laneW t) (laneN t) (s.rp p) (s.rv d) f).foldl (fun g r => g ||| r.2) 0 } := by
  unfold State.lanes at h
  dsimp only at h
  rw [← Host.Outcome.next.inj h]
  obtain ⟨B, hB⟩ := (s.orFlags ((maskLanes (laneW t) (laneN t) (s.rp p) (s.rv d) f).foldl (fun g r => g ||| r.2) 0)).self_writeV_finish d
    (ofLanes (laneW t) ((maskLanes (laneW t) (laneN t) (s.rp p) (s.rv d) f).map (·.1))) (wholeWord (laneW t) (laneN t) (s.rp p))
  refine ⟨B, hB.trans ?_⟩
  rw [State.orFlags, State.self_mod, State.now_mod _ _ rfl, Ctx.doneAt_eq, Ctx.doneAt_eq]
  rfl

/-- The common course of a vector instruction (06 R134, R136): `LanesDone` of its lanes and their flags. -/
theorem State.lanesDone_lanes (s : State) (d : BitVec 4) (p t : BitVec 3) (f : Nat → Nat × FFlags) :
    ∃ u, s.lanes d p t f = .next u ∧
      LanesDone s u d (laneW t) (laneN t) (fun k => (s.rp p).getLsbD k) (fun k => BitVec.ofNat _ (f k).1) fun k => (f k).2 := by
  obtain ⟨u, hu, hs⟩ := s.lanes_slotOnly d p t f
  obtain ⟨B, hB⟩ := s.lanes_self d p t f u hu
  refine ⟨u, hu, ?_⟩
  have hlen : (maskLanes (laneW t) (laneN t) (s.rp p) (s.rv d) f).length = laneN t := by simp [maskLanes]
  have hl : laneW t * ((maskLanes (laneW t) (laneN t) (s.rp p) (s.rv d) f).map (·.1)).length ≤ 512 := by
    rw [List.length_map, hlen, laneW_mul]
  have h1 : u.self = { s.self.doneAt (s.self.pc + 4) s.now with v := u.self.v, badRegs := u.self.badRegs, fflags := u.self.fflags } := by
    rw [hB]
  have h2 : ∀ r, u.self.v? r = if r = d.toNat then ofLanes (laneW t) ((maskLanes (laneW t) (laneN t) (s.rp p) (s.rv d) f).map (·.1))
      else s.self.v? r := by
    intro r
    rw [hB, Ctx.v?, Ctx.v?, tget_tset]
  have h3 : u.self.fflags = s.self.fflags ||| (maskLanes (laneW t) (laneN t) (s.rp p) (s.rv d) f).foldl (fun g r => g ||| r.2) 0 := by
    rw [hB]
  have hd : u.rv d = ofLanes (laneW t) ((maskLanes (laneW t) (laneN t) (s.rp p) (s.rv d) f).map (·.1)) := by
    rw [State.rv, h2, if_pos rfl]
  refine ⟨hs, h1, fun r hr => ?_, fun i hi => ?_, fun k hk => ?_, fun k => ?_⟩
  · have : r.toNat ≠ d.toNat := fun e => hr (BitVec.eq_of_toNat_eq e)
    rw [State.rv, h2, if_neg this, State.rv]
  · rw [hd, lane_ofLanes hl]
    simp only [maskLanes, active, List.map_map, List.getD_eq_getElem?_getD, List.getElem?_map, List.getElem?_range hi,
      Option.map_some, Option.getD_some, Function.comp]
    by_cases hb : (s.rp p).getLsbD i = true
    · simp [hb]
    · simp [hb, lane_eq]
  · rw [hd]
    exact ofLanes_above hl (by rw [List.length_map, hlen]; exact hk)
  · rw [h3, BitVec.getLsbD_or, flags_foldl, show BitVec.getLsbD (0 : FFlags) k = false from BitVec.getLsbD_zero, Bool.false_or,
      maskLanes, List.any_map]
    have e : ((fun r : Nat × FFlags => r.2.getLsbD k) ∘ fun i => if active (s.rp p) i then f i else (laneGet (s.rv d) (laneW t) i, 0))
        = fun i => (s.rp p).getLsbD i && (f i).2.getLsbD k := by
      funext i
      simp only [Function.comp, active]
      by_cases hb : (s.rp p).getLsbD i = true
      · simp [hb]
      · simp [hb]
    rw [e]

end Sys2Proof.Machine
end

