-- ==== Sys2Proof/Laws/PerInstr.lean ====
section
/-! SUPPORT. Per instruction: the words of the encoder, read back by the decoder's tables (03 R46-R48). -/

set_option Elab.async false

namespace Sys2Proof.Laws.WordReadsBack

/-- The decoder's tables read the word of a well-formed instruction as that instruction, every operand bit included. -/
def Statement (i : Instr) : Prop := ∀ w, encode i = some w → i.wf = true → rawDecode w = some i

theorem low {m n lo k : Nat} {x : BitVec m} {y : BitVec n} {v : BitVec k} (e : y.extractLsb' lo k = v)
    (h : lo + k ≤ n := by decide) : (x ++ y).extractLsb' lo k = v :=
  (BitVec.extractLsb'_append_eq_of_add_le h).trans e

theorem hi {m n lo k : Nat} {x : BitVec m} {y : BitVec n} {v : BitVec k} (e : x.extractLsb' (lo - n) k = v)
    (h : n ≤ lo := by decide) : (x ++ y).extractLsb' lo k = v :=
  (BitVec.extractLsb'_append_eq_of_le h).trans e

theorem own {m n : Nat} {x : BitVec m} {y : BitVec n} : (x ++ y).extractLsb' 0 n = y :=
  low BitVec.extractLsb'_eq_self (Nat.le_of_eq (Nat.zero_add n))

/-- A step of another unit has no word. -/
theorem noWord {i : Instr} (h : encode i = none) : Statement i := fun _ k => absurd (h.symm.trans k) (by simp)

theorem add (a0 a1 a2) : Statement (.add a0 a1 a2) := by
  intro w h _
  have k := (Option.some.inj h).symm
  have e26_6 : fld w 26 6 = 0x1#6 := by rw [k]; exact hi (hi (hi (hi BitVec.extractLsb'_eq_self)))
  have e0_5 : fld w 0 5 = 0x0#5 := by rw [k]; exact low rfl
  have e21_5 : fld w 21 5 = a0 := by rw [k]; exact hi (hi (hi own))
  have e16_5 : fld w 16 5 = a1 := by rw [k]; exact hi (hi own)
  have e11_5 : fld w 11 5 = a2 := by rw [k]; exact hi own
  unfold rawDecode
  rw [e26_6]
  change raw01 w = _
  unfold raw01
  rw [e0_5]
  change (some (Instr.add (fld w 21 5) (fld w 16 5) (fld w 11 5))) = _
  rw [e21_5, e16_5, e11_5]

theorem sub (a0 a1 a2) : Statement (.sub a0 a1 a2) := by
  intro w h _
  have k := (Option.some.inj h).symm
  have e26_6 : fld w 26 6 = 0x1#6 := by rw [k]; exact hi (hi (hi (hi BitVec.extractLsb'_eq_self)))
  have e0_5 : fld w 0 5 = 0x1#5 := by rw [k]; exact low rfl
  have e21_5 : fld w 21 5 = a0 := by rw [k]; exact hi (hi (hi own))
  have e16_5 : fld w 16 5 = a1 := by rw [k]; exact hi (hi own)
  have e11_5 : fld w 11 5 = a2 := by rw [k]; exact hi own
  unfold rawDecode
  rw [e26_6]
  change raw01 w = _
  unfold raw01
  rw [e0_5]
  change (some (Instr.sub (fld w 21 5) (fld w 16 5) (fld w 11 5))) = _
  rw [e21_5, e16_5, e11_5]

theorem and (a0 a1 a2) : Statement (.and a0 a1 a2) := by
  intro w h _
  have k := (Option.some.inj h).symm
  have e26_6 : fld w 26 6 = 0x1#6 := by rw [k]; exact hi (hi (hi (hi BitVec.extractLsb'_eq_self)))
  have e0_5 : fld w 0 5 = 0x2#5 := by rw [k]; exact low rfl
  have e21_5 : fld w 21 5 = a0 := by rw [k]; exact hi (hi (hi own))
  have e16_5 : fld w 16 5 = a1 := by rw [k]; exact hi (hi own)
  have e11_5 : fld w 11 5 = a2 := by rw [k]; exact hi own
  unfold rawDecode
  rw [e26_6]
  change raw01 w = _
  unfold raw01
  rw [e0_5]
  change (some (Instr.and (fld w 21 5) (fld w 16 5) (fld w 11 5))) = _
  rw [e21_5, e16_5, e11_5]

theorem or (a0 a1 a2) : Statement (.or a0 a1 a2) := by
  intro w h _
  have k := (Option.some.inj h).symm
  have e26_6 : fld w 26 6 = 0x1#6 := by rw [k]; exact hi (hi (hi (hi BitVec.extractLsb'_eq_self)))
  have e0_5 : fld w 0 5 = 0x3#5 := by rw [k]; exact low rfl
  have e21_5 : fld w 21 5 = a0 := by rw [k]; exact hi (hi (hi own))
  have e16_5 : fld w 16 5 = a1 := by rw [k]; exact hi (hi own)
  have e11_5 : fld w 11 5 = a2 := by rw [k]; exact hi own
  unfold rawDecode
  rw [e26_6]
  change raw01 w = _
  unfold raw01
  rw [e0_5]
  change (some (Instr.or (fld w 21 5) (fld w 16 5) (fld w 11 5))) = _
  rw [e21_5, e16_5, e11_5]

theorem xor (a0 a1 a2) : Statement (.xor a0 a1 a2) := by
  intro w h _
  have k := (Option.some.inj h).symm
  have e26_6 : fld w 26 6 = 0x1#6 := by rw [k]; exact hi (hi (hi (hi BitVec.extractLsb'_eq_self)))
  have e0_5 : fld w 0 5 = 0x4#5 := by rw [k]; exact low rfl
  have e21_5 : fld w 21 5 = a0 := by rw [k]; exact hi (hi (hi own))
  have e16_5 : fld w 16 5 = a1 := by rw [k]; exact hi (hi own)
  have e11_5 : fld w 11 5 = a2 := by rw [k]; exact hi own
  unfold rawDecode
  rw [e26_6]
  change raw01 w = _
  unfold raw01
  rw [e0_5]
  change (some (Instr.xor (fld w 21 5) (fld w 16 5) (fld w 11 5))) = _
  rw [e21_5, e16_5, e11_5]

theorem shl (a0 a1 a2) : Statement (.shl a0 a1 a2) := by
  intro w h _
  have k := (Option.some.inj h).symm
  have e26_6 : fld w 26 6 = 0x1#6 := by rw [k]; exact hi (hi (hi (hi BitVec.extractLsb'_eq_self)))
  have e0_5 : fld w 0 5 = 0x5#5 := by rw [k]; exact low rfl
  have e21_5 : fld w 21 5 = a0 := by rw [k]; exact hi (hi (hi own))
  have e16_5 : fld w 16 5 = a1 := by rw [k]; exact hi (hi own)
  have e11_5 : fld w 11 5 = a2 := by rw [k]; exact hi own
  unfold rawDecode
  rw [e26_6]
  change raw01 w = _
  unfold raw01
  rw [e0_5]
  change (some (Instr.shl (fld w 21 5) (fld w 16 5) (fld w 11 5))) = _
  rw [e21_5, e16_5, e11_5]

theorem shr (a0 a1 a2) : Statement (.shr a0 a1 a2) := by
  intro w h _
  have k := (Option.some.inj h).symm
  have e26_6 : fld w 26 6 = 0x1#6 := by rw [k]; exact hi (hi (hi (hi BitVec.extractLsb'_eq_self)))
  have e0_5 : fld w 0 5 = 0x6#5 := by rw [k]; exact low rfl
  have e21_5 : fld w 21 5 = a0 := by rw [k]; exact hi (hi (hi own))
  have e16_5 : fld w 16 5 = a1 := by rw [k]; exact hi (hi own)
  have e11_5 : fld w 11 5 = a2 := by rw [k]; exact hi own
  unfold rawDecode
  rw [e26_6]
  change raw01 w = _
  unfold raw01
  rw [e0_5]
  change (some (Instr.shr (fld w 21 5) (fld w 16 5) (fld w 11 5))) = _
  rw [e21_5, e16_5, e11_5]

theorem sra (a0 a1 a2) : Statement (.sra a0 a1 a2) := by
  intro w h _
  have k := (Option.some.inj h).symm
  have e26_6 : fld w 26 6 = 0x1#6 := by rw [k]; exact hi (hi (hi (hi BitVec.extractLsb'_eq_self)))
  have e0_5 : fld w 0 5 = 0x7#5 := by rw [k]; exact low rfl
  have e21_5 : fld w 21 5 = a0 := by rw [k]; exact hi (hi (hi own))
  have e16_5 : fld w 16 5 = a1 := by rw [k]; exact hi (hi own)
  have e11_5 : fld w 11 5 = a2 := by rw [k]; exact hi own
  unfold rawDecode
  rw [e26_6]
  change raw01 w = _
  unfold raw01
  rw [e0_5]
  change (some (Instr.sra (fld w 21 5) (fld w 16 5) (fld w 11 5))) = _
  rw [e21_5, e16_5, e11_5]

theorem slt (a0 a1 a2) : Statement (.slt a0 a1 a2) := by
  intro w h _
  have k := (Option.some.inj h).symm
  have e26_6 : fld w 26 6 = 0x1#6 := by rw [k]; exact hi (hi (hi (hi BitVec.extractLsb'_eq_self)))
  have e0_5 : fld w 0 5 = 0x8#5 := by rw [k]; exact low rfl
  have e21_5 : fld w 21 5 = a0 := by rw [k]; exact hi (hi (hi own))
  have e16_5 : fld w 16 5 = a1 := by rw [k]; exact hi (hi own)
  have e11_5 : fld w 11 5 = a2 := by rw [k]; exact hi own
  unfold rawDecode
  rw [e26_6]
  change raw01 w = _
  unfold raw01
  rw [e0_5]
  change (some (Instr.slt (fld w 21 5) (fld w 16 5) (fld w 11 5))) = _
  rw [e21_5, e16_5, e11_5]

theorem sltu (a0 a1 a2) : Statement (.sltu a0 a1 a2) := by
  intro w h _
  have k := (Option.some.inj h).symm
  have e26_6 : fld w 26 6 = 0x1#6 := by rw [k]; exact hi (hi (hi (hi BitVec.extractLsb'_eq_self)))
  have e0_5 : fld w 0 5 = 0x9#5 := by rw [k]; exact low rfl
  have e21_5 : fld w 21 5 = a0 := by rw [k]; exact hi (hi (hi own))
  have e16_5 : fld w 16 5 = a1 := by rw [k]; exact hi (hi own)
  have e11_5 : fld w 11 5 = a2 := by rw [k]; exact hi own
  unfold rawDecode
  rw [e26_6]
  change raw01 w = _
  unfold raw01
  rw [e0_5]
  change (some (Instr.sltu (fld w 21 5) (fld w 16 5) (fld w 11 5))) = _
  rw [e21_5, e16_5, e11_5]

theorem min (a0 a1 a2) : Statement (.min a0 a1 a2) := by
  intro w h _
  have k := (Option.some.inj h).symm
  have e26_6 : fld w 26 6 = 0x1#6 := by rw [k]; exact hi (hi (hi (hi BitVec.extractLsb'_eq_self)))
  have e0_5 : fld w 0 5 = 0xa#5 := by rw [k]; exact low rfl
  have e21_5 : fld w 21 5 = a0 := by rw [k]; exact hi (hi (hi own))
  have e16_5 : fld w 16 5 = a1 := by rw [k]; exact hi (hi own)
  have e11_5 : fld w 11 5 = a2 := by rw [k]; exact hi own
  unfold rawDecode
  rw [e26_6]
  change raw01 w = _
  unfold raw01
  rw [e0_5]
  change (some (Instr.min (fld w 21 5) (fld w 16 5) (fld w 11 5))) = _
  rw [e21_5, e16_5, e11_5]

theorem max (a0 a1 a2) : Statement (.max a0 a1 a2) := by
  intro w h _
  have k := (Option.some.inj h).symm
  have e26_6 : fld w 26 6 = 0x1#6 := by rw [k]; exact hi (hi (hi (hi BitVec.extractLsb'_eq_self)))
  have e0_5 : fld w 0 5 = 0xb#5 := by rw [k]; exact low rfl
  have e21_5 : fld w 21 5 = a0 := by rw [k]; exact hi (hi (hi own))
  have e16_5 : fld w 16 5 = a1 := by rw [k]; exact hi (hi own)
  have e11_5 : fld w 11 5 = a2 := by rw [k]; exact hi own
  unfold rawDecode
  rw [e26_6]
  change raw01 w = _
  unfold raw01
  rw [e0_5]
  change (some (Instr.max (fld w 21 5) (fld w 16 5) (fld w 11 5))) = _
  rw [e21_5, e16_5, e11_5]

theorem minu (a0 a1 a2) : Statement (.minu a0 a1 a2) := by
  intro w h _
  have k := (Option.some.inj h).symm
  have e26_6 : fld w 26 6 = 0x1#6 := by rw [k]; exact hi (hi (hi (hi BitVec.extractLsb'_eq_self)))
  have e0_5 : fld w 0 5 = 0xc#5 := by rw [k]; exact low rfl
  have e21_5 : fld w 21 5 = a0 := by rw [k]; exact hi (hi (hi own))
  have e16_5 : fld w 16 5 = a1 := by rw [k]; exact hi (hi own)
  have e11_5 : fld w 11 5 = a2 := by rw [k]; exact hi own
  unfold rawDecode
  rw [e26_6]
  change raw01 w = _
  unfold raw01
  rw [e0_5]
  change (some (Instr.minu (fld w 21 5) (fld w 16 5) (fld w 11 5))) = _
  rw [e21_5, e16_5, e11_5]

theorem maxu (a0 a1 a2) : Statement (.maxu a0 a1 a2) := by
  intro w h _
  have k := (Option.some.inj h).symm
  have e26_6 : fld w 26 6 = 0x1#6 := by rw [k]; exact hi (hi (hi (hi BitVec.extractLsb'_eq_self)))
  have e0_5 : fld w 0 5 = 0xd#5 := by rw [k]; exact low rfl
  have e21_5 : fld w 21 5 = a0 := by rw [k]; exact hi (hi (hi own))
  have e16_5 : fld w 16 5 = a1 := by rw [k]; exact hi (hi own)
  have e11_5 : fld w 11 5 = a2 := by rw [k]; exact hi own
  unfold rawDecode
  rw [e26_6]
  change raw01 w = _
  unfold raw01
  rw [e0_5]
  change (some (Instr.maxu (fld w 21 5) (fld w 16 5) (fld w 11 5))) = _
  rw [e21_5, e16_5, e11_5]

theorem mul (a0 a1 a2) : Statement (.mul a0 a1 a2) := by
  intro w h _
  have k := (Option.some.inj h).symm
  have e26_6 : fld w 26 6 = 0x1#6 := by rw [k]; exact hi (hi (hi (hi BitVec.extractLsb'_eq_self)))
  have e0_5 : fld w 0 5 = 0xe#5 := by rw [k]; exact low rfl
  have e21_5 : fld w 21 5 = a0 := by rw [k]; exact hi (hi (hi own))
  have e16_5 : fld w 16 5 = a1 := by rw [k]; exact hi (hi own)
  have e11_5 : fld w 11 5 = a2 := by rw [k]; exact hi own
  unfold rawDecode
  rw [e26_6]
  change raw01 w = _
  unfold raw01
  rw [e0_5]
  change (some (Instr.mul (fld w 21 5) (fld w 16 5) (fld w 11 5))) = _
  rw [e21_5, e16_5, e11_5]

theorem mulh (a0 a1 a2) : Statement (.mulh a0 a1 a2) := by
  intro w h _
  have k := (Option.some.inj h).symm
  have e26_6 : fld w 26 6 = 0x1#6 := by rw [k]; exact hi (hi (hi (hi BitVec.extractLsb'_eq_self)))
  have e0_5 : fld w 0 5 = 0xf#5 := by rw [k]; exact low rfl
  have e21_5 : fld w 21 5 = a0 := by rw [k]; exact hi (hi (hi own))
  have e16_5 : fld w 16 5 = a1 := by rw [k]; exact hi (hi own)
  have e11_5 : fld w 11 5 = a2 := by rw [k]; exact hi own
  unfold rawDecode
  rw [e26_6]
  change raw01 w = _
  unfold raw01
  rw [e0_5]
  change (some (Instr.mulh (fld w 21 5) (fld w 16 5) (fld w 11 5))) = _
  rw [e21_5, e16_5, e11_5]

theorem mulhu (a0 a1 a2) : Statement (.mulhu a0 a1 a2) := by
  intro w h _
  have k := (Option.some.inj h).symm
  have e26_6 : fld w 26 6 = 0x1#6 := by rw [k]; exact hi (hi (hi (hi BitVec.extractLsb'_eq_self)))
  have e0_5 : fld w 0 5 = 0x10#5 := by rw [k]; exact low rfl
  have e21_5 : fld w 21 5 = a0 := by rw [k]; exact hi (hi (hi own))
  have e16_5 : fld w 16 5 = a1 := by rw [k]; exact hi (hi own)
  have e11_5 : fld w 11 5 = a2 := by rw [k]; exact hi own
  unfold rawDecode
  rw [e26_6]
  change raw01 w = _
  unfold raw01
  rw [e0_5]
  change (some (Instr.mulhu (fld w 21 5) (fld w 16 5) (fld w 11 5))) = _
  rw [e21_5, e16_5, e11_5]

theorem div (a0 a1 a2) : Statement (.div a0 a1 a2) := by
  intro w h _
  have k := (Option.some.inj h).symm
  have e26_6 : fld w 26 6 = 0x1#6 := by rw [k]; exact hi (hi (hi (hi BitVec.extractLsb'_eq_self)))
  have e0_5 : fld w 0 5 = 0x11#5 := by rw [k]; exact low rfl
  have e21_5 : fld w 21 5 = a0 := by rw [k]; exact hi (hi (hi own))
  have e16_5 : fld w 16 5 = a1 := by rw [k]; exact hi (hi own)
  have e11_5 : fld w 11 5 = a2 := by rw [k]; exact hi own
  unfold rawDecode
  rw [e26_6]
  change raw01 w = _
  unfold raw01
  rw [e0_5]
  change (some (Instr.div (fld w 21 5) (fld w 16 5) (fld w 11 5))) = _
  rw [e21_5, e16_5, e11_5]

theorem divu (a0 a1 a2) : Statement (.divu a0 a1 a2) := by
  intro w h _
  have k := (Option.some.inj h).symm
  have e26_6 : fld w 26 6 = 0x1#6 := by rw [k]; exact hi (hi (hi (hi BitVec.extractLsb'_eq_self)))
  have e0_5 : fld w 0 5 = 0x12#5 := by rw [k]; exact low rfl
  have e21_5 : fld w 21 5 = a0 := by rw [k]; exact hi (hi (hi own))
  have e16_5 : fld w 16 5 = a1 := by rw [k]; exact hi (hi own)
  have e11_5 : fld w 11 5 = a2 := by rw [k]; exact hi own
  unfold rawDecode
  rw [e26_6]
  change raw01 w = _
  unfold raw01
  rw [e0_5]
  change (some (Instr.divu (fld w 21 5) (fld w 16 5) (fld w 11 5))) = _
  rw [e21_5, e16_5, e11_5]

theorem rem (a0 a1 a2) : Statement (.rem a0 a1 a2) := by
  intro w h _
  have k := (Option.some.inj h).symm
  have e26_6 : fld w 26 6 = 0x1#6 := by rw [k]; exact hi (hi (hi (hi BitVec.extractLsb'_eq_self)))
  have e0_5 : fld w 0 5 = 0x13#5 := by rw [k]; exact low rfl
  have e21_5 : fld w 21 5 = a0 := by rw [k]; exact hi (hi (hi own))
  have e16_5 : fld w 16 5 = a1 := by rw [k]; exact hi (hi own)
  have e11_5 : fld w 11 5 = a2 := by rw [k]; exact hi own
  unfold rawDecode
  rw [e26_6]
  change raw01 w = _
  unfold raw01
  rw [e0_5]
  change (some (Instr.rem (fld w 21 5) (fld w 16 5) (fld w 11 5))) = _
  rw [e21_5, e16_5, e11_5]

theorem remu (a0 a1 a2) : Statement (.remu a0 a1 a2) := by
  intro w h _
  have k := (Option.some.inj h).symm
  have e26_6 : fld w 26 6 = 0x1#6 := by rw [k]; exact hi (hi (hi (hi BitVec.extractLsb'_eq_self)))
  have e0_5 : fld w 0 5 = 0x14#5 := by rw [k]; exact low rfl
  have e21_5 : fld w 21 5 = a0 := by rw [k]; exact hi (hi (hi own))
  have e16_5 : fld w 16 5 = a1 := by rw [k]; exact hi (hi own)
  have e11_5 : fld w 11 5 = a2 := by rw [k]; exact hi own
  unfold rawDecode
  rw [e26_6]
  change raw01 w = _
  unfold raw01
  rw [e0_5]
  change (some (Instr.remu (fld w 21 5) (fld w 16 5) (fld w 11 5))) = _
  rw [e21_5, e16_5, e11_5]

theorem clz (a0 a1) : Statement (.clz a0 a1) := by
  intro w h _
  have k := (Option.some.inj h).symm
  have e26_6 : fld w 26 6 = 0x1#6 := by rw [k]; exact hi (hi (hi BitVec.extractLsb'_eq_self))
  have e0_5 : fld w 0 5 = 0x15#5 := by rw [k]; exact low rfl
  have e21_5 : fld w 21 5 = a0 := by rw [k]; exact hi (hi own)
  have e16_5 : fld w 16 5 = a1 := by rw [k]; exact hi own
  unfold rawDecode
  rw [e26_6]
  change raw01 w = _
  unfold raw01
  rw [e0_5]
  change (some (Instr.clz (fld w 21 5) (fld w 16 5))) = _
  rw [e21_5, e16_5]

theorem ctz (a0 a1) : Statement (.ctz a0 a1) := by
  intro w h _
  have k := (Option.some.inj h).symm
  have e26_6 : fld w 26 6 = 0x1#6 := by rw [k]; exact hi (hi (hi BitVec.extractLsb'_eq_self))
  have e0_5 : fld w 0 5 = 0x16#5 := by rw [k]; exact low rfl
  have e21_5 : fld w 21 5 = a0 := by rw [k]; exact hi (hi own)
  have e16_5 : fld w 16 5 = a1 := by rw [k]; exact hi own
  unfold rawDecode
  rw [e26_6]
  change raw01 w = _
  unfold raw01
  rw [e0_5]
  change (some (Instr.ctz (fld w 21 5) (fld w 16 5))) = _
  rw [e21_5, e16_5]

theorem popc (a0 a1) : Statement (.popc a0 a1) := by
  intro w h _
  have k := (Option.some.inj h).symm
  have e26_6 : fld w 26 6 = 0x1#6 := by rw [k]; exact hi (hi (hi BitVec.extractLsb'_eq_self))
  have e0_5 : fld w 0 5 = 0x17#5 := by rw [k]; exact low rfl
  have e21_5 : fld w 21 5 = a0 := by rw [k]; exact hi (hi own)
  have e16_5 : fld w 16 5 = a1 := by rw [k]; exact hi own
  unfold rawDecode
  rw [e26_6]
  change raw01 w = _
  unfold raw01
  rw [e0_5]
  change (some (Instr.popc (fld w 21 5) (fld w 16 5))) = _
  rw [e21_5, e16_5]

theorem bfx (a0 a1 a2) : Statement (.bfx a0 a1 a2) := by
  intro w h _
  have k := (Option.some.inj h).symm
  have e26_6 : fld w 26 6 = 0x1#6 := by rw [k]; exact hi (hi (hi (hi BitVec.extractLsb'_eq_self)))
  have e0_5 : fld w 0 5 = 0x18#5 := by rw [k]; exact low rfl
  have e21_5 : fld w 21 5 = a0 := by rw [k]; exact hi (hi (hi own))
  have e16_5 : fld w 16 5 = a1 := by rw [k]; exact hi (hi own)
  have e11_5 : fld w 11 5 = a2 := by rw [k]; exact hi own
  unfold rawDecode
  rw [e26_6]
  change raw01 w = _
  unfold raw01
  rw [e0_5]
  change (some (Instr.bfx (fld w 21 5) (fld w 16 5) (fld w 11 5))) = _
  rw [e21_5, e16_5, e11_5]

theorem bfi (a0 a1 a2) : Statement (.bfi a0 a1 a2) := by
  intro w h _
  have k := (Option.some.inj h).symm
  have e26_6 : fld w 26 6 = 0x1#6 := by rw [k]; exact hi (hi (hi (hi BitVec.extractLsb'_eq_self)))
  have e0_5 : fld w 0 5 = 0x19#5 := by rw [k]; exact low rfl
  have e21_5 : fld w 21 5 = a0 := by rw [k]; exact hi (hi (hi own))
  have e16_5 : fld w 16 5 = a1 := by rw [k]; exact hi (hi own)
  have e11_5 : fld w 11 5 = a2 := by rw [k]; exact hi own
  unfold rawDecode
  rw [e26_6]
  change raw01 w = _
  unfold raw01
  rw [e0_5]
  change (some (Instr.bfi (fld w 21 5) (fld w 16 5) (fld w 11 5))) = _
  rw [e21_5, e16_5, e11_5]

theorem sext (a0 a1 a2) : Statement (.sext a0 a1 a2) := by
  intro w h _
  have k := (Option.some.inj h).symm
  have e26_6 : fld w 26 6 = 0x1#6 := by rw [k]; exact hi (hi (hi (hi (hi BitVec.extractLsb'_eq_self))))
  have e0_5 : fld w 0 5 = 0x1a#5 := by rw [k]; exact own
  have e21_5 : fld w 21 5 = a0 := by rw [k]; exact hi (hi (hi (hi own)))
  have e16_5 : fld w 16 5 = a1 := by rw [k]; exact hi (hi (hi own))
  have e5_2 : fld w 5 2 = a2 := by rw [k]; exact hi own
  unfold rawDecode
  rw [e26_6]
  change raw01 w = _
  unfold raw01
  rw [e0_5]
  change (some (Instr.sext (fld w 21 5) (fld w 16 5) (fld w 5 2))) = _
  rw [e21_5, e16_5, e5_2]

theorem zext (a0 a1 a2) : Statement (.zext a0 a1 a2) := by
  intro w h _
  have k := (Option.some.inj h).symm
  have e26_6 : fld w 26 6 = 0x1#6 := by rw [k]; exact hi (hi (hi (hi (hi BitVec.extractLsb'_eq_self))))
  have e0_5 : fld w 0 5 = 0x1b#5 := by rw [k]; exact own
  have e21_5 : fld w 21 5 = a0 := by rw [k]; exact hi (hi (hi (hi own)))
  have e16_5 : fld w 16 5 = a1 := by rw [k]; exact hi (hi (hi own))
  have e5_2 : fld w 5 2 = a2 := by rw [k]; exact hi own
  unfold rawDecode
  rw [e26_6]
  change raw01 w = _
  unfold raw01
  rw [e0_5]
  change (some (Instr.zext (fld w 21 5) (fld w 16 5) (fld w 5 2))) = _
  rw [e21_5, e16_5, e5_2]

theorem addi (a0 a1 a2) : Statement (.addi a0 a1 a2) := by
  intro w h _
  have k := (Option.some.inj h).symm
  have e26_6 : fld w 26 6 = 0x2#6 := by rw [k]; exact hi (hi (hi BitVec.extractLsb'_eq_self))
  have e21_5 : fld w 21 5 = a0 := by rw [k]; exact hi (hi own)
  have e16_5 : fld w 16 5 = a1 := by rw [k]; exact hi own
  have e0_16 : fld w 0 16 = a2 := by rw [k]; exact own
  unfold rawDecode
  rw [e26_6]
  change (some (Instr.addi (fld w 21 5) (fld w 16 5) (fld w 0 16))) = _
  rw [e21_5, e16_5, e0_16]

theorem andi (a0 a1 a2) : Statement (.andi a0 a1 a2) := by
  intro w h _
  have k := (Option.some.inj h).symm
  have e26_6 : fld w 26 6 = 0x3#6 := by rw [k]; exact hi (hi (hi BitVec.extractLsb'_eq_self))
  have e21_5 : fld w 21 5 = a0 := by rw [k]; exact hi (hi own)
  have e16_5 : fld w 16 5 = a1 := by rw [k]; exact hi own
  have e0_16 : fld w 0 16 = a2 := by rw [k]; exact own
  unfold rawDecode
  rw [e26_6]
  change (some (Instr.andi (fld w 21 5) (fld w 16 5) (fld w 0 16))) = _
  rw [e21_5, e16_5, e0_16]

theorem ori (a0 a1 a2) : Statement (.ori a0 a1 a2) := by
  intro w h _
  have k := (Option.some.inj h).symm
  have e26_6 : fld w 26 6 = 0x4#6 := by rw [k]; exact hi (hi (hi BitVec.extractLsb'_eq_self))
  have e21_5 : fld w 21 5 = a0 := by rw [k]; exact hi (hi own)
  have e16_5 : fld w 16 5 = a1 := by rw [k]; exact hi own
  have e0_16 : fld w 0 16 = a2 := by rw [k]; exact own
  unfold rawDecode
  rw [e26_6]
  change (some (Instr.ori (fld w 21 5) (fld w 16 5) (fld w 0 16))) = _
  rw [e21_5, e16_5, e0_16]

theorem xori (a0 a1 a2) : Statement (.xori a0 a1 a2) := by
  intro w h _
  have k := (Option.some.inj h).symm
  have e26_6 : fld w 26 6 = 0x5#6 := by rw [k]; exact hi (hi (hi BitVec.extractLsb'_eq_self))
  have e21_5 : fld w 21 5 = a0 := by rw [k]; exact hi (hi own)
  have e16_5 : fld w 16 5 = a1 := by rw [k]; exact hi own
  have e0_16 : fld w 0 16 = a2 := by rw [k]; exact own
  unfold rawDecode
  rw [e26_6]
  change (some (Instr.xori (fld w 21 5) (fld w 16 5) (fld w 0 16))) = _
  rw [e21_5, e16_5, e0_16]

theorem slti (a0 a1 a2) : Statement (.slti a0 a1 a2) := by
  intro w h _
  have k := (Option.some.inj h).symm
  have e26_6 : fld w 26 6 = 0x6#6 := by rw [k]; exact hi (hi (hi BitVec.extractLsb'_eq_self))
  have e21_5 : fld w 21 5 = a0 := by rw [k]; exact hi (hi own)
  have e16_5 : fld w 16 5 = a1 := by rw [k]; exact hi own
  have e0_16 : fld w 0 16 = a2 := by rw [k]; exact own
  unfold rawDecode
  rw [e26_6]
  change (some (Instr.slti (fld w 21 5) (fld w 16 5) (fld w 0 16))) = _
  rw [e21_5, e16_5, e0_16]

theorem shli (a0 a1 a2) : Statement (.shli a0 a1 a2) := by
  intro w h _
  have k := (Option.some.inj h).symm
  have e26_6 : fld w 26 6 = 0x7#6 := by rw [k]; exact hi (hi (hi (hi BitVec.extractLsb'_eq_self)))
  have e14_2 : fld w 14 2 = 0x0#2 := by rw [k]; exact hi (low rfl)
  have e21_5 : fld w 21 5 = a0 := by rw [k]; exact hi (hi (hi own))
  have e16_5 : fld w 16 5 = a1 := by rw [k]; exact hi (hi own)
  have e0_6 : fld w 0 6 = a2 := by rw [k]; exact own
  unfold rawDecode
  rw [e26_6]
  change raw07 w = _
  unfold raw07
  rw [e14_2]
  change (some (Instr.shli (fld w 21 5) (fld w 16 5) (fld w 0 6))) = _
  rw [e21_5, e16_5, e0_6]

theorem shri (a0 a1 a2) : Statement (.shri a0 a1 a2) := by
  intro w h _
  have k := (Option.some.inj h).symm
  have e26_6 : fld w 26 6 = 0x7#6 := by rw [k]; exact hi (hi (hi (hi BitVec.extractLsb'_eq_self)))
  have e14_2 : fld w 14 2 = 0x1#2 := by rw [k]; exact hi (low rfl)
  have e21_5 : fld w 21 5 = a0 := by rw [k]; exact hi (hi (hi own))
  have e16_5 : fld w 16 5 = a1 := by rw [k]; exact hi (hi own)
  have e0_6 : fld w 0 6 = a2 := by rw [k]; exact own
  unfold rawDecode
  rw [e26_6]
  change raw07 w = _
  unfold raw07
  rw [e14_2]
  change (some (Instr.shri (fld w 21 5) (fld w 16 5) (fld w 0 6))) = _
  rw [e21_5, e16_5, e0_6]

theorem srai (a0 a1 a2) : Statement (.srai a0 a1 a2) := by
  intro w h _
  have k := (Option.some.inj h).symm
  have e26_6 : fld w 26 6 = 0x7#6 := by rw [k]; exact hi (hi (hi (hi BitVec.extractLsb'_eq_self)))
  have e14_2 : fld w 14 2 = 0x2#2 := by rw [k]; exact hi (low rfl)
  have e21_5 : fld w 21 5 = a0 := by rw [k]; exact hi (hi (hi own))
  have e16_5 : fld w 16 5 = a1 := by rw [k]; exact hi (hi own)
  have e0_6 : fld w 0 6 = a2 := by rw [k]; exact own
  unfold rawDecode
  rw [e26_6]
  change raw07 w = _
  unfold raw07
  rw [e14_2]
  change (some (Instr.srai (fld w 21 5) (fld w 16 5) (fld w 0 6))) = _
  rw [e21_5, e16_5, e0_6]

theorem lui (a0 a1) : Statement (.lui a0 a1) := by
  intro w h _
  have k := (Option.some.inj h).symm
  have e26_6 : fld w 26 6 = 0x8#6 := by rw [k]; exact hi (hi (hi BitVec.extractLsb'_eq_self))
  have e21_5 : fld w 21 5 = a0 := by rw [k]; exact hi (hi own)
  have e0_16 : fld w 0 16 = a1 := by rw [k]; exact own
  unfold rawDecode
  rw [e26_6]
  change (some (Instr.lui (fld w 21 5) (fld w 0 16))) = _
  rw [e21_5, e0_16]

theorem addpc (a0 a1) : Statement (.addpc a0 a1) := by
  intro w h _
  have k := (Option.some.inj h).symm
  have e26_6 : fld w 26 6 = 0x9#6 := by rw [k]; exact hi (hi (hi BitVec.extractLsb'_eq_self))
  have e21_5 : fld w 21 5 = a0 := by rw [k]; exact hi (hi own)
  have e0_16 : fld w 0 16 = a1 := by rw [k]; exact own
  unfold rawDecode
  rw [e26_6]
  change (some (Instr.addpc (fld w 21 5) (fld w 0 16))) = _
  rw [e21_5, e0_16]

theorem beq (a0 a1 a2) : Statement (.beq a0 a1 a2) := by
  intro w h _
  have k := (Option.some.inj h).symm
  have e26_6 : fld w 26 6 = 0xa#6 := by rw [k]; exact hi (hi (hi BitVec.extractLsb'_eq_self))
  have e21_5 : fld w 21 5 = a0 := by rw [k]; exact hi (hi own)
  have e16_5 : fld w 16 5 = a1 := by rw [k]; exact hi own
  have e0_16 : fld w 0 16 = a2 := by rw [k]; exact own
  unfold rawDecode
  rw [e26_6]
  change (some (Instr.beq (fld w 21 5) (fld w 16 5) (fld w 0 16))) = _
  rw [e21_5, e16_5, e0_16]

theorem bne (a0 a1 a2) : Statement (.bne a0 a1 a2) := by
  intro w h _
  have k := (Option.some.inj h).symm
  have e26_6 : fld w 26 6 = 0xb#6 := by rw [k]; exact hi (hi (hi BitVec.extractLsb'_eq_self))
  have e21_5 : fld w 21 5 = a0 := by rw [k]; exact hi (hi own)
  have e16_5 : fld w 16 5 = a1 := by rw [k]; exact hi own
  have e0_16 : fld w 0 16 = a2 := by rw [k]; exact own
  unfold rawDecode
  rw [e26_6]
  change (some (Instr.bne (fld w 21 5) (fld w 16 5) (fld w 0 16))) = _
  rw [e21_5, e16_5, e0_16]

theorem blt (a0 a1 a2) : Statement (.blt a0 a1 a2) := by
  intro w h _
  have k := (Option.some.inj h).symm
  have e26_6 : fld w 26 6 = 0xc#6 := by rw [k]; exact hi (hi (hi BitVec.extractLsb'_eq_self))
  have e21_5 : fld w 21 5 = a0 := by rw [k]; exact hi (hi own)
  have e16_5 : fld w 16 5 = a1 := by rw [k]; exact hi own
  have e0_16 : fld w 0 16 = a2 := by rw [k]; exact own
  unfold rawDecode
  rw [e26_6]
  change (some (Instr.blt (fld w 21 5) (fld w 16 5) (fld w 0 16))) = _
  rw [e21_5, e16_5, e0_16]

theorem bge (a0 a1 a2) : Statement (.bge a0 a1 a2) := by
  intro w h _
  have k := (Option.some.inj h).symm
  have e26_6 : fld w 26 6 = 0xd#6 := by rw [k]; exact hi (hi (hi BitVec.extractLsb'_eq_self))
  have e21_5 : fld w 21 5 = a0 := by rw [k]; exact hi (hi own)
  have e16_5 : fld w 16 5 = a1 := by rw [k]; exact hi own
  have e0_16 : fld w 0 16 = a2 := by rw [k]; exact own
  unfold rawDecode
  rw [e26_6]
  change (some (Instr.bge (fld w 21 5) (fld w 16 5) (fld w 0 16))) = _
  rw [e21_5, e16_5, e0_16]

theorem bltu (a0 a1 a2) : Statement (.bltu a0 a1 a2) := by
  intro w h _
  have k := (Option.some.inj h).symm
  have e26_6 : fld w 26 6 = 0xe#6 := by rw [k]; exact hi (hi (hi BitVec.extractLsb'_eq_self))
  have e21_5 : fld w 21 5 = a0 := by rw [k]; exact hi (hi own)
  have e16_5 : fld w 16 5 = a1 := by rw [k]; exact hi own
  have e0_16 : fld w 0 16 = a2 := by rw [k]; exact own
  unfold rawDecode
  rw [e26_6]
  change (some (Instr.bltu (fld w 21 5) (fld w 16 5) (fld w 0 16))) = _
  rw [e21_5, e16_5, e0_16]

theorem bgeu (a0 a1 a2) : Statement (.bgeu a0 a1 a2) := by
  intro w h _
  have k := (Option.some.inj h).symm
  have e26_6 : fld w 26 6 = 0xf#6 := by rw [k]; exact hi (hi (hi BitVec.extractLsb'_eq_self))
  have e21_5 : fld w 21 5 = a0 := by rw [k]; exact hi (hi own)
  have e16_5 : fld w 16 5 = a1 := by rw [k]; exact hi own
  have e0_16 : fld w 0 16 = a2 := by rw [k]; exact own
  unfold rawDecode
  rw [e26_6]
  change (some (Instr.bgeu (fld w 21 5) (fld w 16 5) (fld w 0 16))) = _
  rw [e21_5, e16_5, e0_16]

theorem jal (a0 a1) : Statement (.jal a0 a1) := by
  intro w h _
  have k := (Option.some.inj h).symm
  have e26_6 : fld w 26 6 = 0x10#6 := by rw [k]; exact hi (hi BitVec.extractLsb'_eq_self)
  have e21_5 : fld w 21 5 = a0 := by rw [k]; exact hi own
  have e0_21 : fld w 0 21 = a1 := by rw [k]; exact own
  unfold rawDecode
  rw [e26_6]
  change (some (Instr.jal (fld w 21 5) (fld w 0 21))) = _
  rw [e21_5, e0_21]

theorem jalr (a0 a1 a2) : Statement (.jalr a0 a1 a2) := by
  intro w h _
  have k := (Option.some.inj h).symm
  have e26_6 : fld w 26 6 = 0x11#6 := by rw [k]; exact hi (hi (hi BitVec.extractLsb'_eq_self))
  have e21_5 : fld w 21 5 = a0 := by rw [k]; exact hi (hi own)
  have e16_5 : fld w 16 5 = a1 := by rw [k]; exact hi own
  have e0_16 : fld w 0 16 = a2 := by rw [k]; exact own
  unfold rawDecode
  rw [e26_6]
  change (some (Instr.jalr (fld w 21 5) (fld w 16 5) (fld w 0 16))) = _
  rw [e21_5, e16_5, e0_16]

theorem ldB (a0 a1 a2 a3 a4) : Statement (.ldB a0 a1 a2 a3 a4) := by
  intro w h _
  have k := (Option.some.inj h).symm
  have e26_6 : fld w 26 6 = 0x12#6 := by rw [k]; exact hi (hi (hi (hi (hi BitVec.extractLsb'_eq_self))))
  have e21_5 : fld w 21 5 = a0 := by rw [k]; exact hi (hi (hi (hi own)))
  have e16_5 : fld w 16 5 = a1 := by rw [k]; exact hi (hi (hi own))
  have e14_2 : fld w 14 2 = a2 := by rw [k]; exact hi (hi own)
  have e12_2 : fld w 12 2 = a3 := by rw [k]; exact hi own
  have e0_12 : fld w 0 12 = a4 := by rw [k]; exact own
  unfold rawDecode
  rw [e26_6]
  change (some (Instr.ldB (fld w 21 5) (fld w 16 5) (fld w 14 2) (fld w 12 2) (fld w 0 12))) = _
  rw [e21_5, e16_5, e14_2, e12_2, e0_12]

theorem ldH (a0 a1 a2 a3 a4) : Statement (.ldH a0 a1 a2 a3 a4) := by
  intro w h _
  have k := (Option.some.inj h).symm
  have e26_6 : fld w 26 6 = 0x13#6 := by rw [k]; exact hi (hi (hi (hi (hi BitVec.extractLsb'_eq_self))))
  have e21_5 : fld w 21 5 = a0 := by rw [k]; exact hi (hi (hi (hi own)))
  have e16_5 : fld w 16 5 = a1 := by rw [k]; exact hi (hi (hi own))
  have e14_2 : fld w 14 2 = a2 := by rw [k]; exact hi (hi own)
  have e12_2 : fld w 12 2 = a3 := by rw [k]; exact hi own
  have e0_12 : fld w 0 12 = a4 := by rw [k]; exact own
  unfold rawDecode
  rw [e26_6]
  change (some (Instr.ldH (fld w 21 5) (fld w 16 5) (fld w 14 2) (fld w 12 2) (fld w 0 12))) = _
  rw [e21_5, e16_5, e14_2, e12_2, e0_12]

theorem ldW (a0 a1 a2 a3 a4) : Statement (.ldW a0 a1 a2 a3 a4) := by
  intro w h _
  have k := (Option.some.inj h).symm
  have e26_6 : fld w 26 6 = 0x14#6 := by rw [k]; exact hi (hi (hi (hi (hi BitVec.extractLsb'_eq_self))))
  have e21_5 : fld w 21 5 = a0 := by rw [k]; exact hi (hi (hi (hi own)))
  have e16_5 : fld w 16 5 = a1 := by rw [k]; exact hi (hi (hi own))
  have e14_2 : fld w 14 2 = a2 := by rw [k]; exact hi (hi own)
  have e12_2 : fld w 12 2 = a3 := by rw [k]; exact hi own
  have e0_12 : fld w 0 12 = a4 := by rw [k]; exact own
  unfold rawDecode
  rw [e26_6]
  change (some (Instr.ldW (fld w 21 5) (fld w 16 5) (fld w 14 2) (fld w 12 2) (fld w 0 12))) = _
  rw [e21_5, e16_5, e14_2, e12_2, e0_12]

theorem ldD (a0 a1 a2 a3 a4) : Statement (.ldD a0 a1 a2 a3 a4) := by
  intro w h hw
  have k := (Option.some.inj h).symm
  have e26_6 : fld w 26 6 = 0x15#6 := by rw [k]; exact hi (hi (hi (hi (hi BitVec.extractLsb'_eq_self))))
  have e14_2 : fld w 14 2 = a2 := by rw [k]; exact hi (hi own)
  have e21_5 : fld w 21 5 = a0 := by rw [k]; exact hi (hi (hi (hi own)))
  have e16_5 : fld w 16 5 = a1 := by rw [k]; exact hi (hi (hi own))
  have e12_2 : fld w 12 2 = a3 := by rw [k]; exact hi own
  have e0_12 : fld w 0 12 = a4 := by rw [k]; exact own
  unfold rawDecode
  rw [e26_6]
  change (if fld w 14 2 = 3#2 then some (Instr.ldDTake (fld w 21 5) (fld w 16 5) (fld w 12 2) (fld w 0 12)) else some (Instr.ldD (fld w 21 5) (fld w 16 5) (fld w 14 2) (fld w 12 2) (fld w 0 12))) = _
  rw [e14_2]
  rw [if_neg (fun k => by subst k; exact absurd hw (by simp [Instr.wf]))]
  rw [e21_5, e16_5, e12_2, e0_12]

theorem ldDTake (a0 a1 a2 a3) : Statement (.ldDTake a0 a1 a2 a3) := by
  intro w h _
  have k := (Option.some.inj h).symm
  have e26_6 : fld w 26 6 = 0x15#6 := by rw [k]; exact hi (hi (hi (hi (hi BitVec.extractLsb'_eq_self))))
  have e14_2 : fld w 14 2 = 0x3#2 := by rw [k]; exact hi (hi own)
  have e21_5 : fld w 21 5 = a0 := by rw [k]; exact hi (hi (hi (hi own)))
  have e16_5 : fld w 16 5 = a1 := by rw [k]; exact hi (hi (hi own))
  have e12_2 : fld w 12 2 = a2 := by rw [k]; exact hi own
  have e0_12 : fld w 0 12 = a3 := by rw [k]; exact own
  unfold rawDecode
  rw [e26_6]
  change (if fld w 14 2 = 3#2 then some (Instr.ldDTake (fld w 21 5) (fld w 16 5) (fld w 12 2) (fld w 0 12)) else some (Instr.ldD (fld w 21 5) (fld w 16 5) (fld w 14 2) (fld w 12 2) (fld w 0 12))) = _
  rw [e14_2]
  rw [if_pos (by decide)]
  rw [e21_5, e16_5, e12_2, e0_12]

theorem ldBu (a0 a1 a2 a3 a4) : Statement (.ldBu a0 a1 a2 a3 a4) := by
  intro w h _
  have k := (Option.some.inj h).symm
  have e26_6 : fld w 26 6 = 0x16#6 := by rw [k]; exact hi (hi (hi (hi (hi BitVec.extractLsb'_eq_self))))
  have e21_5 : fld w 21 5 = a0 := by rw [k]; exact hi (hi (hi (hi own)))
  have e16_5 : fld w 16 5 = a1 := by rw [k]; exact hi (hi (hi own))
  have e14_2 : fld w 14 2 = a2 := by rw [k]; exact hi (hi own)
  have e12_2 : fld w 12 2 = a3 := by rw [k]; exact hi own
  have e0_12 : fld w 0 12 = a4 := by rw [k]; exact own
  unfold rawDecode
  rw [e26_6]
  change (some (Instr.ldBu (fld w 21 5) (fld w 16 5) (fld w 14 2) (fld w 12 2) (fld w 0 12))) = _
  rw [e21_5, e16_5, e14_2, e12_2, e0_12]

theorem ldHu (a0 a1 a2 a3 a4) : Statement (.ldHu a0 a1 a2 a3 a4) := by
  intro w h _
  have k := (Option.some.inj h).symm
  have e26_6 : fld w 26 6 = 0x17#6 := by rw [k]; exact hi (hi (hi (hi (hi BitVec.extractLsb'_eq_self))))
  have e21_5 : fld w 21 5 = a0 := by rw [k]; exact hi (hi (hi (hi own)))
  have e16_5 : fld w 16 5 = a1 := by rw [k]; exact hi (hi (hi own))
  have e14_2 : fld w 14 2 = a2 := by rw [k]; exact hi (hi own)
  have e12_2 : fld w 12 2 = a3 := by rw [k]; exact hi own
  have e0_12 : fld w 0 12 = a4 := by rw [k]; exact own
  unfold rawDecode
  rw [e26_6]
  change (some (Instr.ldHu (fld w 21 5) (fld w 16 5) (fld w 14 2) (fld w 12 2) (fld w 0 12))) = _
  rw [e21_5, e16_5, e14_2, e12_2, e0_12]

theorem ldWu (a0 a1 a2 a3 a4) : Statement (.ldWu a0 a1 a2 a3 a4) := by
  intro w h _
  have k := (Option.some.inj h).symm
  have e26_6 : fld w 26 6 = 0x18#6 := by rw [k]; exact hi (hi (hi (hi (hi BitVec.extractLsb'_eq_self))))
  have e21_5 : fld w 21 5 = a0 := by rw [k]; exact hi (hi (hi (hi own)))
  have e16_5 : fld w 16 5 = a1 := by rw [k]; exact hi (hi (hi own))
  have e14_2 : fld w 14 2 = a2 := by rw [k]; exact hi (hi own)
  have e12_2 : fld w 12 2 = a3 := by rw [k]; exact hi own
  have e0_12 : fld w 0 12 = a4 := by rw [k]; exact own
  unfold rawDecode
  rw [e26_6]
  change (some (Instr.ldWu (fld w 21 5) (fld w 16 5) (fld w 14 2) (fld w 12 2) (fld w 0 12))) = _
  rw [e21_5, e16_5, e14_2, e12_2, e0_12]

theorem stB (a0 a1 a2 a3 a4) : Statement (.stB a0 a1 a2 a3 a4) := by
  intro w h _
  have k := (Option.some.inj h).symm
  have e26_6 : fld w 26 6 = 0x19#6 := by rw [k]; exact hi (hi (hi (hi (hi BitVec.extractLsb'_eq_self))))
  have e21_5 : fld w 21 5 = a0 := by rw [k]; exact hi (hi (hi (hi own)))
  have e16_5 : fld w 16 5 = a1 := by rw [k]; exact hi (hi (hi own))
  have e14_2 : fld w 14 2 = a2 := by rw [k]; exact hi (hi own)
  have e12_2 : fld w 12 2 = a3 := by rw [k]; exact hi own
  have e0_12 : fld w 0 12 = a4 := by rw [k]; exact own
  unfold rawDecode
  rw [e26_6]
  change (some (Instr.stB (fld w 21 5) (fld w 16 5) (fld w 14 2) (fld w 12 2) (fld w 0 12))) = _
  rw [e21_5, e16_5, e14_2, e12_2, e0_12]

theorem stH (a0 a1 a2 a3 a4) : Statement (.stH a0 a1 a2 a3 a4) := by
  intro w h _
  have k := (Option.some.inj h).symm
  have e26_6 : fld w 26 6 = 0x1a#6 := by rw [k]; exact hi (hi (hi (hi (hi BitVec.extractLsb'_eq_self))))
  have e21_5 : fld w 21 5 = a0 := by rw [k]; exact hi (hi (hi (hi own)))
  have e16_5 : fld w 16 5 = a1 := by rw [k]; exact hi (hi (hi own))
  have e14_2 : fld w 14 2 = a2 := by rw [k]; exact hi (hi own)
  have e12_2 : fld w 12 2 = a3 := by rw [k]; exact hi own
  have e0_12 : fld w 0 12 = a4 := by rw [k]; exact own
  unfold rawDecode
  rw [e26_6]
  change (some (Instr.stH (fld w 21 5) (fld w 16 5) (fld w 14 2) (fld w 12 2) (fld w 0 12))) = _
  rw [e21_5, e16_5, e14_2, e12_2, e0_12]

theorem stW (a0 a1 a2 a3 a4) : Statement (.stW a0 a1 a2 a3 a4) := by
  intro w h _
  have k := (Option.some.inj h).symm
  have e26_6 : fld w 26 6 = 0x1b#6 := by rw [k]; exact hi (hi (hi (hi (hi BitVec.extractLsb'_eq_self))))
  have e21_5 : fld w 21 5 = a0 := by rw [k]; exact hi (hi (hi (hi own)))
  have e16_5 : fld w 16 5 = a1 := by rw [k]; exact hi (hi (hi own))
  have e14_2 : fld w 14 2 = a2 := by rw [k]; exact hi (hi own)
  have e12_2 : fld w 12 2 = a3 := by rw [k]; exact hi own
  have e0_12 : fld w 0 12 = a4 := by rw [k]; exact own
  unfold rawDecode
  rw [e26_6]
  change (some (Instr.stW (fld w 21 5) (fld w 16 5) (fld w 14 2) (fld w 12 2) (fld w 0 12))) = _
  rw [e21_5, e16_5, e14_2, e12_2, e0_12]

theorem stD (a0 a1 a2 a3 a4) : Statement (.stD a0 a1 a2 a3 a4) := by
  intro w h hw
  have k := (Option.some.inj h).symm
  have e26_6 : fld w 26 6 = 0x1c#6 := by rw [k]; exact hi (hi (hi (hi (hi BitVec.extractLsb'_eq_self))))
  have e14_2 : fld w 14 2 = a2 := by rw [k]; exact hi (hi own)
  have e21_5 : fld w 21 5 = a0 := by rw [k]; exact hi (hi (hi (hi own)))
  have e16_5 : fld w 16 5 = a1 := by rw [k]; exact hi (hi (hi own))
  have e12_2 : fld w 12 2 = a3 := by rw [k]; exact hi own
  have e0_12 : fld w 0 12 = a4 := by rw [k]; exact own
  unfold rawDecode
  rw [e26_6]
  change (if fld w 14 2 = 3#2 then some (Instr.stDGive (fld w 21 5) (fld w 16 5) (fld w 12 2) (fld w 0 12)) else some (Instr.stD (fld w 21 5) (fld w 16 5) (fld w 14 2) (fld w 12 2) (fld w 0 12))) = _
  rw [e14_2]
  rw [if_neg (fun k => by subst k; exact absurd hw (by simp [Instr.wf]))]
  rw [e21_5, e16_5, e12_2, e0_12]

theorem stDGive (a0 a1 a2 a3) : Statement (.stDGive a0 a1 a2 a3) := by
  intro w h _
  have k := (Option.some.inj h).symm
  have e26_6 : fld w 26 6 = 0x1c#6 := by rw [k]; exact hi (hi (hi (hi (hi BitVec.extractLsb'_eq_self))))
  have e14_2 : fld w 14 2 = 0x3#2 := by rw [k]; exact hi (hi own)
  have e21_5 : fld w 21 5 = a0 := by rw [k]; exact hi (hi (hi (hi own)))
  have e16_5 : fld w 16 5 = a1 := by rw [k]; exact hi (hi (hi own))
  have e12_2 : fld w 12 2 = a2 := by rw [k]; exact hi own
  have e0_12 : fld w 0 12 = a3 := by rw [k]; exact own
  unfold rawDecode
  rw [e26_6]
  change (if fld w 14 2 = 3#2 then some (Instr.stDGive (fld w 21 5) (fld w 16 5) (fld w 12 2) (fld w 0 12)) else some (Instr.stD (fld w 21 5) (fld w 16 5) (fld w 14 2) (fld w 12 2) (fld w 0 12))) = _
  rw [e14_2]
  rw [if_pos (by decide)]
  rw [e21_5, e16_5, e12_2, e0_12]

theorem ldvEq (a0 a1 a2) : Statement (.ldvEq a0 a1 a2) := by
  intro w h _
  have k := (Option.some.inj h).symm
  have e26_6 : fld w 26 6 = 0x1d#6 := by rw [k]; exact hi (hi (hi (hi BitVec.extractLsb'_eq_self)))
  have e0_1 : fld w 0 1 = 0x0#1 := by rw [k]; exact low rfl
  have e21_5 : fld w 21 5 = a0 := by rw [k]; exact hi (hi (hi own))
  have e16_5 : fld w 16 5 = a1 := by rw [k]; exact hi (hi own)
  have e11_5 : fld w 11 5 = a2 := by rw [k]; exact hi own
  unfold rawDecode
  rw [e26_6]
  change raw1D w = _
  unfold raw1D
  rw [e0_1]
  change (some (Instr.ldvEq (fld w 21 5) (fld w 16 5) (fld w 11 5))) = _
  rw [e21_5, e16_5, e11_5]

theorem ldvLe (a0 a1 a2) : Statement (.ldvLe a0 a1 a2) := by
  intro w h _
  have k := (Option.some.inj h).symm
  have e26_6 : fld w 26 6 = 0x1d#6 := by rw [k]; exact hi (hi (hi (hi BitVec.extractLsb'_eq_self)))
  have e0_1 : fld w 0 1 = 0x1#1 := by rw [k]; exact low rfl
  have e21_5 : fld w 21 5 = a0 := by rw [k]; exact hi (hi (hi own))
  have e16_5 : fld w 16 5 = a1 := by rw [k]; exact hi (hi own)
  have e11_5 : fld w 11 5 = a2 := by rw [k]; exact hi own
  unfold rawDecode
  rw [e26_6]
  change raw1D w = _
  unfold raw1D
  rw [e0_1]
  change (some (Instr.ldvLe (fld w 21 5) (fld w 16 5) (fld w 11 5))) = _
  rw [e21_5, e16_5, e11_5]

theorem stv (a0 a1 a2) : Statement (.stv a0 a1 a2) := by
  intro w h _
  have k := (Option.some.inj h).symm
  have e26_6 : fld w 26 6 = 0x1e#6 := by rw [k]; exact hi (hi (hi (hi BitVec.extractLsb'_eq_self)))
  have e21_5 : fld w 21 5 = a0 := by rw [k]; exact hi (hi (hi own))
  have e16_5 : fld w 16 5 = a1 := by rw [k]; exact hi (hi own)
  have e11_5 : fld w 11 5 = a2 := by rw [k]; exact hi own
  unfold rawDecode
  rw [e26_6]
  change (some (Instr.stv (fld w 21 5) (fld w 16 5) (fld w 11 5))) = _
  rw [e21_5, e16_5, e11_5]

theorem amoAdd (a0 a1 a2 a3 a4 a5) : Statement (.amoAdd a0 a1 a2 a3 a4 a5) := by
  intro w h _
  have k := (Option.some.inj h).symm
  have e26_6 : fld w 26 6 = 0x1f#6 := by rw [k]; exact hi (hi (hi (hi (hi (hi (hi (hi BitVec.extractLsb'_eq_self)))))))
  have e0_3 : fld w 0 3 = 0x0#3 := by rw [k]; exact own
  have e21_5 : fld w 21 5 = a0 := by rw [k]; exact hi (hi (hi (hi (hi (hi (hi own))))))
  have e16_5 : fld w 16 5 = a1 := by rw [k]; exact hi (hi (hi (hi (hi (hi own)))))
  have e11_5 : fld w 11 5 = a2 := by rw [k]; exact hi (hi (hi (hi (hi own))))
  have e6_2 : fld w 6 2 = a3 := by rw [k]; exact hi (hi (hi own))
  have e5_1 : fld w 5 1 = a4 := by rw [k]; exact hi (hi own)
  have e3_2 : fld w 3 2 = a5 := by rw [k]; exact hi own
  unfold rawDecode
  rw [e26_6]
  change raw1F w = _
  unfold raw1F
  rw [e0_3]
  change (some (Instr.amoAdd (fld w 21 5) (fld w 16 5) (fld w 11 5) (fld w 6 2) (fld w 5 1) (fld w 3 2))) = _
  rw [e21_5, e16_5, e11_5, e6_2, e5_1, e3_2]

theorem amoMin (a0 a1 a2 a3 a4 a5) : Statement (.amoMin a0 a1 a2 a3 a4 a5) := by
  intro w h _
  have k := (Option.some.inj h).symm
  have e26_6 : fld w 26 6 = 0x1f#6 := by rw [k]; exact hi (hi (hi (hi (hi (hi (hi (hi BitVec.extractLsb'_eq_self)))))))
  have e0_3 : fld w 0 3 = 0x1#3 := by rw [k]; exact own
  have e21_5 : fld w 21 5 = a0 := by rw [k]; exact hi (hi (hi (hi (hi (hi (hi own))))))
  have e16_5 : fld w 16 5 = a1 := by rw [k]; exact hi (hi (hi (hi (hi (hi own)))))
  have e11_5 : fld w 11 5 = a2 := by rw [k]; exact hi (hi (hi (hi (hi own))))
  have e6_2 : fld w 6 2 = a3 := by rw [k]; exact hi (hi (hi own))
  have e5_1 : fld w 5 1 = a4 := by rw [k]; exact hi (hi own)
  have e3_2 : fld w 3 2 = a5 := by rw [k]; exact hi own
  unfold rawDecode
  rw [e26_6]
  change raw1F w = _
  unfold raw1F
  rw [e0_3]
  change (some (Instr.amoMin (fld w 21 5) (fld w 16 5) (fld w 11 5) (fld w 6 2) (fld w 5 1) (fld w 3 2))) = _
  rw [e21_5, e16_5, e11_5, e6_2, e5_1, e3_2]

theorem amoMax (a0 a1 a2 a3 a4 a5) : Statement (.amoMax a0 a1 a2 a3 a4 a5) := by
  intro w h _
  have k := (Option.some.inj h).symm
  have e26_6 : fld w 26 6 = 0x1f#6 := by rw [k]; exact hi (hi (hi (hi (hi (hi (hi (hi BitVec.extractLsb'_eq_self)))))))
  have e0_3 : fld w 0 3 = 0x2#3 := by rw [k]; exact own
  have e21_5 : fld w 21 5 = a0 := by rw [k]; exact hi (hi (hi (hi (hi (hi (hi own))))))
  have e16_5 : fld w 16 5 = a1 := by rw [k]; exact hi (hi (hi (hi (hi (hi own)))))
  have e11_5 : fld w 11 5 = a2 := by rw [k]; exact hi (hi (hi (hi (hi own))))
  have e6_2 : fld w 6 2 = a3 := by rw [k]; exact hi (hi (hi own))
  have e5_1 : fld w 5 1 = a4 := by rw [k]; exact hi (hi own)
  have e3_2 : fld w 3 2 = a5 := by rw [k]; exact hi own
  unfold rawDecode
  rw [e26_6]
  change raw1F w = _
  unfold raw1F
  rw [e0_3]
  change (some (Instr.amoMax (fld w 21 5) (fld w 16 5) (fld w 11 5) (fld w 6 2) (fld w 5 1) (fld w 3 2))) = _
  rw [e21_5, e16_5, e11_5, e6_2, e5_1, e3_2]

theorem amoAnd (a0 a1 a2 a3 a4 a5) : Statement (.amoAnd a0 a1 a2 a3 a4 a5) := by
  intro w h _
  have k := (Option.some.inj h).symm
  have e26_6 : fld w 26 6 = 0x1f#6 := by rw [k]; exact hi (hi (hi (hi (hi (hi (hi (hi BitVec.extractLsb'_eq_self)))))))
  have e0_3 : fld w 0 3 = 0x3#3 := by rw [k]; exact own
  have e21_5 : fld w 21 5 = a0 := by rw [k]; exact hi (hi (hi (hi (hi (hi (hi own))))))
  have e16_5 : fld w 16 5 = a1 := by rw [k]; exact hi (hi (hi (hi (hi (hi own)))))
  have e11_5 : fld w 11 5 = a2 := by rw [k]; exact hi (hi (hi (hi (hi own))))
  have e6_2 : fld w 6 2 = a3 := by rw [k]; exact hi (hi (hi own))
  have e5_1 : fld w 5 1 = a4 := by rw [k]; exact hi (hi own)
  have e3_2 : fld w 3 2 = a5 := by rw [k]; exact hi own
  unfold rawDecode
  rw [e26_6]
  change raw1F w = _
  unfold raw1F
  rw [e0_3]
  change (some (Instr.amoAnd (fld w 21 5) (fld w 16 5) (fld w 11 5) (fld w 6 2) (fld w 5 1) (fld w 3 2))) = _
  rw [e21_5, e16_5, e11_5, e6_2, e5_1, e3_2]

theorem amoOr (a0 a1 a2 a3 a4 a5) : Statement (.amoOr a0 a1 a2 a3 a4 a5) := by
  intro w h _
  have k := (Option.some.inj h).symm
  have e26_6 : fld w 26 6 = 0x1f#6 := by rw [k]; exact hi (hi (hi (hi (hi (hi (hi (hi BitVec.extractLsb'_eq_self)))))))
  have e0_3 : fld w 0 3 = 0x4#3 := by rw [k]; exact own
  have e21_5 : fld w 21 5 = a0 := by rw [k]; exact hi (hi (hi (hi (hi (hi (hi own))))))
  have e16_5 : fld w 16 5 = a1 := by rw [k]; exact hi (hi (hi (hi (hi (hi own)))))
  have e11_5 : fld w 11 5 = a2 := by rw [k]; exact hi (hi (hi (hi (hi own))))
  have e6_2 : fld w 6 2 = a3 := by rw [k]; exact hi (hi (hi own))
  have e5_1 : fld w 5 1 = a4 := by rw [k]; exact hi (hi own)
  have e3_2 : fld w 3 2 = a5 := by rw [k]; exact hi own
  unfold rawDecode
  rw [e26_6]
  change raw1F w = _
  unfold raw1F
  rw [e0_3]
  change (some (Instr.amoOr (fld w 21 5) (fld w 16 5) (fld w 11 5) (fld w 6 2) (fld w 5 1) (fld w 3 2))) = _
  rw [e21_5, e16_5, e11_5, e6_2, e5_1, e3_2]

theorem amoXor (a0 a1 a2 a3 a4 a5) : Statement (.amoXor a0 a1 a2 a3 a4 a5) := by
  intro w h _
  have k := (Option.some.inj h).symm
  have e26_6 : fld w 26 6 = 0x1f#6 := by rw [k]; exact hi (hi (hi (hi (hi (hi (hi (hi BitVec.extractLsb'_eq_self)))))))
  have e0_3 : fld w 0 3 = 0x5#3 := by rw [k]; exact own
  have e21_5 : fld w 21 5 = a0 := by rw [k]; exact hi (hi (hi (hi (hi (hi (hi own))))))
  have e16_5 : fld w 16 5 = a1 := by rw [k]; exact hi (hi (hi (hi (hi (hi own)))))
  have e11_5 : fld w 11 5 = a2 := by rw [k]; exact hi (hi (hi (hi (hi own))))
  have e6_2 : fld w 6 2 = a3 := by rw [k]; exact hi (hi (hi own))
  have e5_1 : fld w 5 1 = a4 := by rw [k]; exact hi (hi own)
  have e3_2 : fld w 3 2 = a5 := by rw [k]; exact hi own
  unfold rawDecode
  rw [e26_6]
  change raw1F w = _
  unfold raw1F
  rw [e0_3]
  change (some (Instr.amoXor (fld w 21 5) (fld w 16 5) (fld w 11 5) (fld w 6 2) (fld w 5 1) (fld w 3 2))) = _
  rw [e21_5, e16_5, e11_5, e6_2, e5_1, e3_2]

theorem amoSwp (a0 a1 a2 a3 a4) : Statement (.amoSwp a0 a1 a2 a3 a4) := by
  intro w h _
  have k := (Option.some.inj h).symm
  have e26_6 : fld w 26 6 = 0x1f#6 := by rw [k]; exact hi (hi (hi (hi (hi (hi (hi (hi BitVec.extractLsb'_eq_self)))))))
  have e0_3 : fld w 0 3 = 0x6#3 := by rw [k]; exact own
  have e21_5 : fld w 21 5 = a0 := by rw [k]; exact hi (hi (hi (hi (hi (hi (hi own))))))
  have e16_5 : fld w 16 5 = a1 := by rw [k]; exact hi (hi (hi (hi (hi (hi own)))))
  have e11_5 : fld w 11 5 = a2 := by rw [k]; exact hi (hi (hi (hi (hi own))))
  have e6_2 : fld w 6 2 = a3 := by rw [k]; exact hi (hi (hi own))
  have e3_2 : fld w 3 2 = a4 := by rw [k]; exact hi own
  unfold rawDecode
  rw [e26_6]
  change raw1F w = _
  unfold raw1F
  rw [e0_3]
  change (some (Instr.amoSwp (fld w 21 5) (fld w 16 5) (fld w 11 5) (fld w 6 2) (fld w 3 2))) = _
  rw [e21_5, e16_5, e11_5, e6_2, e3_2]

theorem amoCas (a0 a1 a2 a3 a4) : Statement (.amoCas a0 a1 a2 a3 a4) := by
  intro w h _
  have k := (Option.some.inj h).symm
  have e26_6 : fld w 26 6 = 0x1f#6 := by rw [k]; exact hi (hi (hi (hi (hi (hi (hi (hi BitVec.extractLsb'_eq_self)))))))
  have e0_3 : fld w 0 3 = 0x7#3 := by rw [k]; exact own
  have e21_5 : fld w 21 5 = a0 := by rw [k]; exact hi (hi (hi (hi (hi (hi (hi own))))))
  have e16_5 : fld w 16 5 = a1 := by rw [k]; exact hi (hi (hi (hi (hi (hi own)))))
  have e11_5 : fld w 11 5 = a2 := by rw [k]; exact hi (hi (hi (hi (hi own))))
  have e6_2 : fld w 6 2 = a3 := by rw [k]; exact hi (hi (hi own))
  have e3_2 : fld w 3 2 = a4 := by rw [k]; exact hi own
  unfold rawDecode
  rw [e26_6]
  change raw1F w = _
  unfold raw1F
  rw [e0_3]
  change (some (Instr.amoCas (fld w 21 5) (fld w 16 5) (fld w 11 5) (fld w 6 2) (fld w 3 2))) = _
  rw [e21_5, e16_5, e11_5, e6_2, e3_2]

theorem fenceCell : Statement (.fenceCell) := by
  intro w h _
  have k := (Option.some.inj h).symm
  have e26_6 : fld w 26 6 = 0x20#6 := by rw [k]; exact hi BitVec.extractLsb'_eq_self
  have e0_6 : fld w 0 6 = 0x0#6 := by rw [k]; exact low rfl
  unfold rawDecode
  rw [e26_6]
  change raw20 w = _
  unfold raw20
  rw [e0_6]
  change (some (Instr.fenceCell)) = _
  rfl

theorem fenceDom : Statement (.fenceDom) := by
  intro w h _
  have k := (Option.some.inj h).symm
  have e26_6 : fld w 26 6 = 0x20#6 := by rw [k]; exact hi BitVec.extractLsb'_eq_self
  have e0_6 : fld w 0 6 = 0x1#6 := by rw [k]; exact low rfl
  unfold rawDecode
  rw [e26_6]
  change raw20 w = _
  unfold raw20
  rw [e0_6]
  change (some (Instr.fenceDom)) = _
  rfl

theorem fenceDie : Statement (.fenceDie) := by
  intro w h _
  have k := (Option.some.inj h).symm
  have e26_6 : fld w 26 6 = 0x20#6 := by rw [k]; exact hi BitVec.extractLsb'_eq_self
  have e0_6 : fld w 0 6 = 0x2#6 := by rw [k]; exact low rfl
  unfold rawDecode
  rw [e26_6]
  change raw20 w = _
  unfold raw20
  rw [e0_6]
  change (some (Instr.fenceDie)) = _
  rfl

theorem fenceMod : Statement (.fenceMod) := by
  intro w h _
  have k := (Option.some.inj h).symm
  have e26_6 : fld w 26 6 = 0x20#6 := by rw [k]; exact hi BitVec.extractLsb'_eq_self
  have e0_6 : fld w 0 6 = 0x3#6 := by rw [k]; exact low rfl
  unfold rawDecode
  rw [e26_6]
  change raw20 w = _
  unfold raw20
  rw [e0_6]
  change (some (Instr.fenceMod)) = _
  rfl

theorem fenceSys : Statement (.fenceSys) := by
  intro w h _
  have k := (Option.some.inj h).symm
  have e26_6 : fld w 26 6 = 0x20#6 := by rw [k]; exact hi BitVec.extractLsb'_eq_self
  have e0_6 : fld w 0 6 = 0x4#6 := by rw [k]; exact low rfl
  unfold rawDecode
  rw [e26_6]
  change raw20 w = _
  unfold raw20
  rw [e0_6]
  change (some (Instr.fenceSys)) = _
  rfl

theorem fenceX : Statement (.fenceX) := by
  intro w h _
  have k := (Option.some.inj h).symm
  have e26_6 : fld w 26 6 = 0x20#6 := by rw [k]; exact hi BitVec.extractLsb'_eq_self
  have e0_6 : fld w 0 6 = 0x10#6 := by rw [k]; exact low rfl
  unfold rawDecode
  rw [e26_6]
  change raw20 w = _
  unfold raw20
  rw [e0_6]
  change (some (Instr.fenceX)) = _
  rfl

theorem flagf (a0 a1) : Statement (.flagf a0 a1) := by
  intro w h _
  have k := (Option.some.inj h).symm
  have e26_6 : fld w 26 6 = 0x20#6 := by rw [k]; exact hi (hi (hi (hi BitVec.extractLsb'_eq_self)))
  have e0_6 : fld w 0 6 = 0x20#6 := by rw [k]; exact low rfl
  have e21_3 : fld w 21 3 = a0 := by rw [k]; exact hi (hi own)
  have e16_5 : fld w 16 5 = a1 := by rw [k]; exact hi own
  unfold rawDecode
  rw [e26_6]
  change raw20 w = _
  unfold raw20
  rw [e0_6]
  change (some (Instr.flagf (fld w 21 3) (fld w 16 5))) = _
  rw [e21_3, e16_5]

theorem barArv (a0 a1) : Statement (.barArv a0 a1) := by
  intro w h _
  have k := (Option.some.inj h).symm
  have e26_6 : fld w 26 6 = 0x21#6 := by rw [k]; exact hi (hi (hi BitVec.extractLsb'_eq_self))
  have e0_2 : fld w 0 2 = 0x0#2 := by rw [k]; exact low rfl
  have e21_5 : fld w 21 5 = a0 := by rw [k]; exact hi (hi own)
  have e16_5 : fld w 16 5 = a1 := by rw [k]; exact hi own
  unfold rawDecode
  rw [e26_6]
  change raw21 w = _
  unfold raw21
  rw [e0_2]
  change (some (Instr.barArv (fld w 21 5) (fld w 16 5))) = _
  rw [e21_5, e16_5]

theorem barWt (a0 a1) : Statement (.barWt a0 a1) := by
  intro w h _
  have k := (Option.some.inj h).symm
  have e26_6 : fld w 26 6 = 0x21#6 := by rw [k]; exact hi (hi (hi (hi BitVec.extractLsb'_eq_self)))
  have e0_2 : fld w 0 2 = 0x1#2 := by rw [k]; exact low rfl
  have e16_5 : fld w 16 5 = a0 := by rw [k]; exact hi (hi own)
  have e11_5 : fld w 11 5 = a1 := by rw [k]; exact hi own
  unfold rawDecode
  rw [e26_6]
  change raw21 w = _
  unfold raw21
  rw [e0_2]
  change (some (Instr.barWt (fld w 16 5) (fld w 11 5))) = _
  rw [e16_5, e11_5]

theorem barAw (a0 a1) : Statement (.barAw a0 a1) := by
  intro w h _
  have k := (Option.some.inj h).symm
  have e26_6 : fld w 26 6 = 0x21#6 := by rw [k]; exact hi (hi (hi BitVec.extractLsb'_eq_self))
  have e0_2 : fld w 0 2 = 0x2#2 := by rw [k]; exact low rfl
  have e21_5 : fld w 21 5 = a0 := by rw [k]; exact hi (hi own)
  have e16_5 : fld w 16 5 = a1 := by rw [k]; exact hi own
  unfold rawDecode
  rw [e26_6]
  change raw21 w = _
  unfold raw21
  rw [e0_2]
  change (some (Instr.barAw (fld w 21 5) (fld w 16 5))) = _
  rw [e21_5, e16_5]

theorem barExp (a0 a1) : Statement (.barExp a0 a1) := by
  intro w h _
  have k := (Option.some.inj h).symm
  have e26_6 : fld w 26 6 = 0x21#6 := by rw [k]; exact hi (hi (hi (hi BitVec.extractLsb'_eq_self)))
  have e0_2 : fld w 0 2 = 0x3#2 := by rw [k]; exact low rfl
  have e16_5 : fld w 16 5 = a0 := by rw [k]; exact hi (hi own)
  have e11_5 : fld w 11 5 = a1 := by rw [k]; exact hi own
  unfold rawDecode
  rw [e26_6]
  change raw21 w = _
  unfold raw21
  rw [e0_2]
  change (some (Instr.barExp (fld w 16 5) (fld w 11 5))) = _
  rw [e16_5, e11_5]

theorem inv (a0 a1 a2) : Statement (.inv a0 a1 a2) := by
  intro w h _
  have k := (Option.some.inj h).symm
  have e26_6 : fld w 26 6 = 0x22#6 := by rw [k]; exact hi (hi (hi (hi (hi (hi BitVec.extractLsb'_eq_self)))))
  have e0_2 : fld w 0 2 = 0x0#2 := by rw [k]; exact own
  have e16_5 : fld w 16 5 = a0 := by rw [k]; exact hi (hi (hi (hi own)))
  have e11_5 : fld w 11 5 = a1 := by rw [k]; exact hi (hi (hi own))
  have e2_1 : fld w 2 1 = a2 := by rw [k]; exact hi own
  unfold rawDecode
  rw [e26_6]
  change raw22 w = _
  unfold raw22
  rw [e0_2]
  change (some (Instr.inv (fld w 16 5) (fld w 11 5) (fld w 2 1))) = _
  rw [e16_5, e11_5, e2_1]

theorem wb (a0 a1 a2) : Statement (.wb a0 a1 a2) := by
  intro w h _
  have k := (Option.some.inj h).symm
  have e26_6 : fld w 26 6 = 0x22#6 := by rw [k]; exact hi (hi (hi (hi (hi (hi BitVec.extractLsb'_eq_self)))))
  have e0_2 : fld w 0 2 = 0x1#2 := by rw [k]; exact own
  have e16_5 : fld w 16 5 = a0 := by rw [k]; exact hi (hi (hi (hi own)))
  have e11_5 : fld w 11 5 = a1 := by rw [k]; exact hi (hi (hi own))
  have e2_1 : fld w 2 1 = a2 := by rw [k]; exact hi own
  unfold rawDecode
  rw [e26_6]
  change raw22 w = _
  unfold raw22
  rw [e0_2]
  change (some (Instr.wb (fld w 16 5) (fld w 11 5) (fld w 2 1))) = _
  rw [e16_5, e11_5, e2_1]

theorem wbinv (a0 a1 a2) : Statement (.wbinv a0 a1 a2) := by
  intro w h _
  have k := (Option.some.inj h).symm
  have e26_6 : fld w 26 6 = 0x22#6 := by rw [k]; exact hi (hi (hi (hi (hi (hi BitVec.extractLsb'_eq_self)))))
  have e0_2 : fld w 0 2 = 0x2#2 := by rw [k]; exact own
  have e16_5 : fld w 16 5 = a0 := by rw [k]; exact hi (hi (hi (hi own)))
  have e11_5 : fld w 11 5 = a1 := by rw [k]; exact hi (hi (hi own))
  have e2_1 : fld w 2 1 = a2 := by rw [k]; exact hi own
  unfold rawDecode
  rw [e26_6]
  change raw22 w = _
  unfold raw22
  rw [e0_2]
  change (some (Instr.wbinv (fld w 16 5) (fld w 11 5) (fld w 2 1))) = _
  rw [e16_5, e11_5, e2_1]

theorem pf (a0 a1 a2) : Statement (.pf a0 a1 a2) := by
  intro w h _
  have k := (Option.some.inj h).symm
  have e26_6 : fld w 26 6 = 0x22#6 := by rw [k]; exact hi (hi (hi (hi (hi (hi BitVec.extractLsb'_eq_self)))))
  have e0_2 : fld w 0 2 = 0x3#2 := by rw [k]; exact own
  have e16_5 : fld w 16 5 = a0 := by rw [k]; exact hi (hi (hi (hi own)))
  have e11_5 : fld w 11 5 = a1 := by rw [k]; exact hi (hi (hi own))
  have e2_1 : fld w 2 1 = a2 := by rw [k]; exact hi own
  unfold rawDecode
  rw [e26_6]
  change raw22 w = _
  unfold raw22
  rw [e0_2]
  change (some (Instr.pf (fld w 16 5) (fld w 11 5) (fld w 2 1))) = _
  rw [e16_5, e11_5, e2_1]

theorem vadd (a0 a1 a2 a3 a4 a5 a6) : Statement (.vadd a0 a1 a2 a3 a4 a5 a6) := by
  intro w h _
  have k := (Option.some.inj h).symm
  have e26_6 : fld w 26 6 = 0x23#6 := by rw [k]; exact hi (hi (hi (hi (hi (hi (hi (hi BitVec.extractLsb'_eq_self)))))))
  have e0_5 : fld w 0 5 = 0x0#5 := by rw [k]; exact own
  have e22_4 : fld w 22 4 = a0 := by rw [k]; exact hi (hi (hi (hi (hi (hi (hi own))))))
  have e18_4 : fld w 18 4 = a1 := by rw [k]; exact hi (hi (hi (hi (hi (hi own)))))
  have e14_4 : fld w 14 4 = a2 := by rw [k]; exact hi (hi (hi (hi (hi own))))
  have e11_3 : fld w 11 3 = a3 := by rw [k]; exact hi (hi (hi (hi own)))
  have e9_2 : fld w 9 2 = a4 := by rw [k]; exact hi (hi (hi own))
  have e8_1 : fld w 8 1 = a5 := by rw [k]; exact hi (hi own)
  have e5_3 : fld w 5 3 = a6 := by rw [k]; exact hi own
  unfold rawDecode
  rw [e26_6]
  change raw23 w = _
  unfold raw23
  rw [e0_5]
  change (some (Instr.vadd (fld w 22 4) (fld w 18 4) (fld w 14 4) (fld w 11 3) (fld w 9 2) (fld w 8 1) (fld w 5 3))) = _
  rw [e22_4, e18_4, e14_4, e11_3, e9_2, e8_1, e5_3]

theorem vsub (a0 a1 a2 a3 a4 a5 a6) : Statement (.vsub a0 a1 a2 a3 a4 a5 a6) := by
  intro w h _
  have k := (Option.some.inj h).symm
  have e26_6 : fld w 26 6 = 0x23#6 := by rw [k]; exact hi (hi (hi (hi (hi (hi (hi (hi BitVec.extractLsb'_eq_self)))))))
  have e0_5 : fld w 0 5 = 0x1#5 := by rw [k]; exact own
  have e22_4 : fld w 22 4 = a0 := by rw [k]; exact hi (hi (hi (hi (hi (hi (hi own))))))
  have e18_4 : fld w 18 4 = a1 := by rw [k]; exact hi (hi (hi (hi (hi (hi own)))))
  have e14_4 : fld w 14 4 = a2 := by rw [k]; exact hi (hi (hi (hi (hi own))))
  have e11_3 : fld w 11 3 = a3 := by rw [k]; exact hi (hi (hi (hi own)))
  have e9_2 : fld w 9 2 = a4 := by rw [k]; exact hi (hi (hi own))
  have e8_1 : fld w 8 1 = a5 := by rw [k]; exact hi (hi own)
  have e5_3 : fld w 5 3 = a6 := by rw [k]; exact hi own
  unfold rawDecode
  rw [e26_6]
  change raw23 w = _
  unfold raw23
  rw [e0_5]
  change (some (Instr.vsub (fld w 22 4) (fld w 18 4) (fld w 14 4) (fld w 11 3) (fld w 9 2) (fld w 8 1) (fld w 5 3))) = _
  rw [e22_4, e18_4, e14_4, e11_3, e9_2, e8_1, e5_3]

theorem vmul (a0 a1 a2 a3 a4 a5 a6) : Statement (.vmul a0 a1 a2 a3 a4 a5 a6) := by
  intro w h _
  have k := (Option.some.inj h).symm
  have e26_6 : fld w 26 6 = 0x23#6 := by rw [k]; exact hi (hi (hi (hi (hi (hi (hi (hi BitVec.extractLsb'_eq_self)))))))
  have e0_5 : fld w 0 5 = 0x2#5 := by rw [k]; exact own
  have e22_4 : fld w 22 4 = a0 := by rw [k]; exact hi (hi (hi (hi (hi (hi (hi own))))))
  have e18_4 : fld w 18 4 = a1 := by rw [k]; exact hi (hi (hi (hi (hi (hi own)))))
  have e14_4 : fld w 14 4 = a2 := by rw [k]; exact hi (hi (hi (hi (hi own))))
  have e11_3 : fld w 11 3 = a3 := by rw [k]; exact hi (hi (hi (hi own)))
  have e9_2 : fld w 9 2 = a4 := by rw [k]; exact hi (hi (hi own))
  have e8_1 : fld w 8 1 = a5 := by rw [k]; exact hi (hi own)
  have e5_3 : fld w 5 3 = a6 := by rw [k]; exact hi own
  unfold rawDecode
  rw [e26_6]
  change raw23 w = _
  unfold raw23
  rw [e0_5]
  change (some (Instr.vmul (fld w 22 4) (fld w 18 4) (fld w 14 4) (fld w 11 3) (fld w 9 2) (fld w 8 1) (fld w 5 3))) = _
  rw [e22_4, e18_4, e14_4, e11_3, e9_2, e8_1, e5_3]

theorem vfma (a0 a1 a2 a3 a4 a5) : Statement (.vfma a0 a1 a2 a3 a4 a5) := by
  intro w h _
  have k := (Option.some.inj h).symm
  have e26_6 : fld w 26 6 = 0x23#6 := by rw [k]; exact hi (hi (hi (hi (hi (hi (hi (hi BitVec.extractLsb'_eq_self)))))))
  have e0_5 : fld w 0 5 = 0x3#5 := by rw [k]; exact own
  have e22_4 : fld w 22 4 = a0 := by rw [k]; exact hi (hi (hi (hi (hi (hi (hi own))))))
  have e18_4 : fld w 18 4 = a1 := by rw [k]; exact hi (hi (hi (hi (hi (hi own)))))
  have e14_4 : fld w 14 4 = a2 := by rw [k]; exact hi (hi (hi (hi (hi own))))
  have e11_3 : fld w 11 3 = a3 := by rw [k]; exact hi (hi (hi (hi own)))
  have e8_1 : fld w 8 1 = a4 := by rw [k]; exact hi (hi own)
  have e5_3 : fld w 5 3 = a5 := by rw [k]; exact hi own
  unfold rawDecode
  rw [e26_6]
  change raw23 w = _
  unfold raw23
  rw [e0_5]
  change (some (Instr.vfma (fld w 22 4) (fld w 18 4) (fld w 14 4) (fld w 11 3) (fld w 8 1) (fld w 5 3))) = _
  rw [e22_4, e18_4, e14_4, e11_3, e8_1, e5_3]

theorem vmin (a0 a1 a2 a3 a4 a5) : Statement (.vmin a0 a1 a2 a3 a4 a5) := by
  intro w h _
  have k := (Option.some.inj h).symm
  have e26_6 : fld w 26 6 = 0x23#6 := by rw [k]; exact hi (hi (hi (hi (hi (hi (hi (hi BitVec.extractLsb'_eq_self)))))))
  have e0_5 : fld w 0 5 = 0x4#5 := by rw [k]; exact own
  have e22_4 : fld w 22 4 = a0 := by rw [k]; exact hi (hi (hi (hi (hi (hi (hi own))))))
  have e18_4 : fld w 18 4 = a1 := by rw [k]; exact hi (hi (hi (hi (hi (hi own)))))
  have e14_4 : fld w 14 4 = a2 := by rw [k]; exact hi (hi (hi (hi (hi own))))
  have e11_3 : fld w 11 3 = a3 := by rw [k]; exact hi (hi (hi (hi own)))
  have e9_2 : fld w 9 2 = a4 := by rw [k]; exact hi (hi (hi own))
  have e5_3 : fld w 5 3 = a5 := by rw [k]; exact hi own
  unfold rawDecode
  rw [e26_6]
  change raw23 w = _
  unfold raw23
  rw [e0_5]
  change (some (Instr.vmin (fld w 22 4) (fld w 18 4) (fld w 14 4) (fld w 11 3) (fld w 9 2) (fld w 5 3))) = _
  rw [e22_4, e18_4, e14_4, e11_3, e9_2, e5_3]

theorem vmax (a0 a1 a2 a3 a4 a5) : Statement (.vmax a0 a1 a2 a3 a4 a5) := by
  intro w h _
  have k := (Option.some.inj h).symm
  have e26_6 : fld w 26 6 = 0x23#6 := by rw [k]; exact hi (hi (hi (hi (hi (hi (hi (hi BitVec.extractLsb'_eq_self)))))))
  have e0_5 : fld w 0 5 = 0x5#5 := by rw [k]; exact own
  have e22_4 : fld w 22 4 = a0 := by rw [k]; exact hi (hi (hi (hi (hi (hi (hi own))))))
  have e18_4 : fld w 18 4 = a1 := by rw [k]; exact hi (hi (hi (hi (hi (hi own)))))
  have e14_4 : fld w 14 4 = a2 := by rw [k]; exact hi (hi (hi (hi (hi own))))
  have e11_3 : fld w 11 3 = a3 := by rw [k]; exact hi (hi (hi (hi own)))
  have e9_2 : fld w 9 2 = a4 := by rw [k]; exact hi (hi (hi own))
  have e5_3 : fld w 5 3 = a5 := by rw [k]; exact hi own
  unfold rawDecode
  rw [e26_6]
  change raw23 w = _
  unfold raw23
  rw [e0_5]
  change (some (Instr.vmax (fld w 22 4) (fld w 18 4) (fld w 14 4) (fld w 11 3) (fld w 9 2) (fld w 5 3))) = _
  rw [e22_4, e18_4, e14_4, e11_3, e9_2, e5_3]

theorem vand (a0 a1 a2 a3) : Statement (.vand a0 a1 a2 a3) := by
  intro w h _
  have k := (Option.some.inj h).symm
  have e26_6 : fld w 26 6 = 0x23#6 := by rw [k]; exact hi (hi (hi (hi (hi BitVec.extractLsb'_eq_self))))
  have e0_5 : fld w 0 5 = 0x6#5 := by rw [k]; exact low rfl
  have e22_4 : fld w 22 4 = a0 := by rw [k]; exact hi (hi (hi (hi own)))
  have e18_4 : fld w 18 4 = a1 := by rw [k]; exact hi (hi (hi own))
  have e14_4 : fld w 14 4 = a2 := by rw [k]; exact hi (hi own)
  have e11_3 : fld w 11 3 = a3 := by rw [k]; exact hi own
  unfold rawDecode
  rw [e26_6]
  change raw23 w = _
  unfold raw23
  rw [e0_5]
  change (some (Instr.vand (fld w 22 4) (fld w 18 4) (fld w 14 4) (fld w 11 3))) = _
  rw [e22_4, e18_4, e14_4, e11_3]

theorem vor (a0 a1 a2 a3) : Statement (.vor a0 a1 a2 a3) := by
  intro w h _
  have k := (Option.some.inj h).symm
  have e26_6 : fld w 26 6 = 0x23#6 := by rw [k]; exact hi (hi (hi (hi (hi BitVec.extractLsb'_eq_self))))
  have e0_5 : fld w 0 5 = 0x7#5 := by rw [k]; exact low rfl
  have e22_4 : fld w 22 4 = a0 := by rw [k]; exact hi (hi (hi (hi own)))
  have e18_4 : fld w 18 4 = a1 := by rw [k]; exact hi (hi (hi own))
  have e14_4 : fld w 14 4 = a2 := by rw [k]; exact hi (hi own)
  have e11_3 : fld w 11 3 = a3 := by rw [k]; exact hi own
  unfold rawDecode
  rw [e26_6]
  change raw23 w = _
  unfold raw23
  rw [e0_5]
  change (some (Instr.vor (fld w 22 4) (fld w 18 4) (fld w 14 4) (fld w 11 3))) = _
  rw [e22_4, e18_4, e14_4, e11_3]

theorem vxor (a0 a1 a2 a3) : Statement (.vxor a0 a1 a2 a3) := by
  intro w h _
  have k := (Option.some.inj h).symm
  have e26_6 : fld w 26 6 = 0x23#6 := by rw [k]; exact hi (hi (hi (hi (hi BitVec.extractLsb'_eq_self))))
  have e0_5 : fld w 0 5 = 0x8#5 := by rw [k]; exact low rfl
  have e22_4 : fld w 22 4 = a0 := by rw [k]; exact hi (hi (hi (hi own)))
  have e18_4 : fld w 18 4 = a1 := by rw [k]; exact hi (hi (hi own))
  have e14_4 : fld w 14 4 = a2 := by rw [k]; exact hi (hi own)
  have e11_3 : fld w 11 3 = a3 := by rw [k]; exact hi own
  unfold rawDecode
  rw [e26_6]
  change raw23 w = _
  unfold raw23
  rw [e0_5]
  change (some (Instr.vxor (fld w 22 4) (fld w 18 4) (fld w 14 4) (fld w 11 3))) = _
  rw [e22_4, e18_4, e14_4, e11_3]

theorem vshl (a0 a1 a2 a3 a4) : Statement (.vshl a0 a1 a2 a3 a4) := by
  intro w h _
  have k := (Option.some.inj h).symm
  have e26_6 : fld w 26 6 = 0x23#6 := by rw [k]; exact hi (hi (hi (hi (hi (hi (hi BitVec.extractLsb'_eq_self))))))
  have e0_5 : fld w 0 5 = 0x9#5 := by rw [k]; exact own
  have e22_4 : fld w 22 4 = a0 := by rw [k]; exact hi (hi (hi (hi (hi (hi own)))))
  have e18_4 : fld w 18 4 = a1 := by rw [k]; exact hi (hi (hi (hi (hi own))))
  have e14_4 : fld w 14 4 = a2 := by rw [k]; exact hi (hi (hi (hi own)))
  have e11_3 : fld w 11 3 = a3 := by rw [k]; exact hi (hi (hi own))
  have e5_3 : fld w 5 3 = a4 := by rw [k]; exact hi own
  unfold rawDecode
  rw [e26_6]
  change raw23 w = _
  unfold raw23
  rw [e0_5]
  change (some (Instr.vshl (fld w 22 4) (fld w 18 4) (fld w 14 4) (fld w 11 3) (fld w 5 3))) = _
  rw [e22_4, e18_4, e14_4, e11_3, e5_3]

theorem vshr (a0 a1 a2 a3 a4) : Statement (.vshr a0 a1 a2 a3 a4) := by
  intro w h _
  have k := (Option.some.inj h).symm
  have e26_6 : fld w 26 6 = 0x23#6 := by rw [k]; exact hi (hi (hi (hi (hi (hi (hi BitVec.extractLsb'_eq_self))))))
  have e0_5 : fld w 0 5 = 0xa#5 := by rw [k]; exact own
  have e22_4 : fld w 22 4 = a0 := by rw [k]; exact hi (hi (hi (hi (hi (hi own)))))
  have e18_4 : fld w 18 4 = a1 := by rw [k]; exact hi (hi (hi (hi (hi own))))
  have e14_4 : fld w 14 4 = a2 := by rw [k]; exact hi (hi (hi (hi own)))
  have e11_3 : fld w 11 3 = a3 := by rw [k]; exact hi (hi (hi own))
  have e5_3 : fld w 5 3 = a4 := by rw [k]; exact hi own
  unfold rawDecode
  rw [e26_6]
  change raw23 w = _
  unfold raw23
  rw [e0_5]
  change (some (Instr.vshr (fld w 22 4) (fld w 18 4) (fld w 14 4) (fld w 11 3) (fld w 5 3))) = _
  rw [e22_4, e18_4, e14_4, e11_3, e5_3]

theorem vsra (a0 a1 a2 a3 a4) : Statement (.vsra a0 a1 a2 a3 a4) := by
  intro w h _
  have k := (Option.some.inj h).symm
  have e26_6 : fld w 26 6 = 0x23#6 := by rw [k]; exact hi (hi (hi (hi (hi (hi (hi BitVec.extractLsb'_eq_self))))))
  have e0_5 : fld w 0 5 = 0xb#5 := by rw [k]; exact own
  have e22_4 : fld w 22 4 = a0 := by rw [k]; exact hi (hi (hi (hi (hi (hi own)))))
  have e18_4 : fld w 18 4 = a1 := by rw [k]; exact hi (hi (hi (hi (hi own))))
  have e14_4 : fld w 14 4 = a2 := by rw [k]; exact hi (hi (hi (hi own)))
  have e11_3 : fld w 11 3 = a3 := by rw [k]; exact hi (hi (hi own))
  have e5_3 : fld w 5 3 = a4 := by rw [k]; exact hi own
  unfold rawDecode
  rw [e26_6]
  change raw23 w = _
  unfold raw23
  rw [e0_5]
  change (some (Instr.vsra (fld w 22 4) (fld w 18 4) (fld w 14 4) (fld w 11 3) (fld w 5 3))) = _
  rw [e22_4, e18_4, e14_4, e11_3, e5_3]

theorem vcmp (a0 a1 a2 a3 a4 a5) : Statement (.vcmp a0 a1 a2 a3 a4 a5) := by
  intro w h _
  have k := (Option.some.inj h).symm
  have e26_6 : fld w 26 6 = 0x23#6 := by rw [k]; exact hi (hi (hi (hi (hi (hi (hi BitVec.extractLsb'_eq_self))))))
  have e0_5 : fld w 0 5 = 0xc#5 := by rw [k]; exact own
  have e22_4 : fld w 22 4 = a0 := by rw [k]; exact hi (hi (hi (hi (hi (hi own)))))
  have e18_4 : fld w 18 4 = a1 := by rw [k]; exact hi (hi (hi (hi (hi own))))
  have e14_4 : fld w 14 4 = a2 := by rw [k]; exact hi (hi (hi (hi own)))
  have e11_3 : fld w 11 3 = a3 := by rw [k]; exact hi (hi (hi own))
  have e8_3 : fld w 8 3 = a4 := by rw [k]; exact hi (hi own)
  have e5_3 : fld w 5 3 = a5 := by rw [k]; exact hi own
  unfold rawDecode
  rw [e26_6]
  change raw23 w = _
  unfold raw23
  rw [e0_5]
  change (some (Instr.vcmp (fld w 22 4) (fld w 18 4) (fld w 14 4) (fld w 11 3) (fld w 8 3) (fld w 5 3))) = _
  rw [e22_4, e18_4, e14_4, e11_3, e8_3, e5_3]

theorem vsel (a0 a1 a2 a3 a4) : Statement (.vsel a0 a1 a2 a3 a4) := by
  intro w h _
  have k := (Option.some.inj h).symm
  have e26_6 : fld w 26 6 = 0x23#6 := by rw [k]; exact hi (hi (hi (hi (hi (hi (hi BitVec.extractLsb'_eq_self))))))
  have e0_5 : fld w 0 5 = 0xd#5 := by rw [k]; exact own
  have e22_4 : fld w 22 4 = a0 := by rw [k]; exact hi (hi (hi (hi (hi (hi own)))))
  have e18_4 : fld w 18 4 = a1 := by rw [k]; exact hi (hi (hi (hi (hi own))))
  have e14_4 : fld w 14 4 = a2 := by rw [k]; exact hi (hi (hi (hi own)))
  have e11_3 : fld w 11 3 = a3 := by rw [k]; exact hi (hi (hi own))
  have e5_3 : fld w 5 3 = a4 := by rw [k]; exact hi own
  unfold rawDecode
  rw [e26_6]
  change raw23 w = _
  unfold raw23
  rw [e0_5]
  change (some (Instr.vsel (fld w 22 4) (fld w 18 4) (fld w 14 4) (fld w 11 3) (fld w 5 3))) = _
  rw [e22_4, e18_4, e14_4, e11_3, e5_3]

theorem vabs (a0 a1 a2 a3 a4) : Statement (.vabs a0 a1 a2 a3 a4) := by
  intro w h _
  have k := (Option.some.inj h).symm
  have e26_6 : fld w 26 6 = 0x23#6 := by rw [k]; exact hi (hi (hi (hi (hi (hi (hi (hi BitVec.extractLsb'_eq_self)))))))
  have e0_5 : fld w 0 5 = 0xe#5 := by rw [k]; exact own
  have e22_4 : fld w 22 4 = a0 := by rw [k]; exact hi (hi (hi (hi (hi (hi (hi own))))))
  have e18_4 : fld w 18 4 = a1 := by rw [k]; exact hi (hi (hi (hi (hi (hi own)))))
  have e11_3 : fld w 11 3 = a2 := by rw [k]; exact hi (hi (hi (hi own)))
  have e9_2 : fld w 9 2 = a3 := by rw [k]; exact hi (hi (hi own))
  have e5_3 : fld w 5 3 = a4 := by rw [k]; exact hi own
  unfold rawDecode
  rw [e26_6]
  change raw23 w = _
  unfold raw23
  rw [e0_5]
  change (some (Instr.vabs (fld w 22 4) (fld w 18 4) (fld w 11 3) (fld w 9 2) (fld w 5 3))) = _
  rw [e22_4, e18_4, e11_3, e9_2, e5_3]

theorem vneg (a0 a1 a2 a3 a4) : Statement (.vneg a0 a1 a2 a3 a4) := by
  intro w h _
  have k := (Option.some.inj h).symm
  have e26_6 : fld w 26 6 = 0x23#6 := by rw [k]; exact hi (hi (hi (hi (hi (hi (hi (hi BitVec.extractLsb'_eq_self)))))))
  have e0_5 : fld w 0 5 = 0xf#5 := by rw [k]; exact own
  have e22_4 : fld w 22 4 = a0 := by rw [k]; exact hi (hi (hi (hi (hi (hi (hi own))))))
  have e18_4 : fld w 18 4 = a1 := by rw [k]; exact hi (hi (hi (hi (hi (hi own)))))
  have e11_3 : fld w 11 3 = a2 := by rw [k]; exact hi (hi (hi (hi own)))
  have e9_2 : fld w 9 2 = a3 := by rw [k]; exact hi (hi (hi own))
  have e5_3 : fld w 5 3 = a4 := by rw [k]; exact hi own
  unfold rawDecode
  rw [e26_6]
  change raw23 w = _
  unfold raw23
  rw [e0_5]
  change (some (Instr.vneg (fld w 22 4) (fld w 18 4) (fld w 11 3) (fld w 9 2) (fld w 5 3))) = _
  rw [e22_4, e18_4, e11_3, e9_2, e5_3]

theorem vcvt (a0 a1 a2 a3 a4) : Statement (.vcvt a0 a1 a2 a3 a4) := by
  intro w h _
  have k := (Option.some.inj h).symm
  have e26_6 : fld w 26 6 = 0x23#6 := by rw [k]; exact hi (hi (hi (hi (hi (hi (hi BitVec.extractLsb'_eq_self))))))
  have e0_5 : fld w 0 5 = 0x10#5 := by rw [k]; exact own
  have e22_4 : fld w 22 4 = a0 := by rw [k]; exact hi (hi (hi (hi (hi (hi own)))))
  have e18_4 : fld w 18 4 = a1 := by rw [k]; exact hi (hi (hi (hi (hi own))))
  have e11_3 : fld w 11 3 = a2 := by rw [k]; exact hi (hi (hi own))
  have e8_3 : fld w 8 3 = a3 := by rw [k]; exact hi (hi own)
  have e5_3 : fld w 5 3 = a4 := by rw [k]; exact hi own
  unfold rawDecode
  rw [e26_6]
  change raw23 w = _
  unfold raw23
  rw [e0_5]
  change (some (Instr.vcvt (fld w 22 4) (fld w 18 4) (fld w 11 3) (fld w 8 3) (fld w 5 3))) = _
  rw [e22_4, e18_4, e11_3, e8_3, e5_3]

theorem vcvtRtz (a0 a1 a2 a3 a4) : Statement (.vcvtRtz a0 a1 a2 a3 a4) := by
  intro w h _
  have k := (Option.some.inj h).symm
  have e26_6 : fld w 26 6 = 0x23#6 := by rw [k]; exact hi (hi (hi (hi (hi (hi (hi BitVec.extractLsb'_eq_self))))))
  have e0_5 : fld w 0 5 = 0x15#5 := by rw [k]; exact own
  have e22_4 : fld w 22 4 = a0 := by rw [k]; exact hi (hi (hi (hi (hi (hi own)))))
  have e18_4 : fld w 18 4 = a1 := by rw [k]; exact hi (hi (hi (hi (hi own))))
  have e11_3 : fld w 11 3 = a2 := by rw [k]; exact hi (hi (hi own))
  have e8_3 : fld w 8 3 = a3 := by rw [k]; exact hi (hi own)
  have e5_3 : fld w 5 3 = a4 := by rw [k]; exact hi own
  unfold rawDecode
  rw [e26_6]
  change raw23 w = _
  unfold raw23
  rw [e0_5]
  change (some (Instr.vcvtRtz (fld w 22 4) (fld w 18 4) (fld w 11 3) (fld w 8 3) (fld w 5 3))) = _
  rw [e22_4, e18_4, e11_3, e8_3, e5_3]

theorem vrcp (a0 a1 a2 a3 a4) : Statement (.vrcp a0 a1 a2 a3 a4) := by
  intro w h _
  have k := (Option.some.inj h).symm
  have e26_6 : fld w 26 6 = 0x23#6 := by rw [k]; exact hi (hi (hi (hi (hi (hi (hi (hi BitVec.extractLsb'_eq_self)))))))
  have e0_5 : fld w 0 5 = 0x11#5 := by rw [k]; exact own
  have e22_4 : fld w 22 4 = a0 := by rw [k]; exact hi (hi (hi (hi (hi (hi (hi own))))))
  have e18_4 : fld w 18 4 = a1 := by rw [k]; exact hi (hi (hi (hi (hi (hi own)))))
  have e11_3 : fld w 11 3 = a2 := by rw [k]; exact hi (hi (hi (hi own)))
  have e8_1 : fld w 8 1 = a3 := by rw [k]; exact hi (hi own)
  have e5_3 : fld w 5 3 = a4 := by rw [k]; exact hi own
  unfold rawDecode
  rw [e26_6]
  change raw23 w = _
  unfold raw23
  rw [e0_5]
  change (some (Instr.vrcp (fld w 22 4) (fld w 18 4) (fld w 11 3) (fld w 8 1) (fld w 5 3))) = _
  rw [e22_4, e18_4, e11_3, e8_1, e5_3]

theorem vrsq (a0 a1 a2 a3 a4) : Statement (.vrsq a0 a1 a2 a3 a4) := by
  intro w h _
  have k := (Option.some.inj h).symm
  have e26_6 : fld w 26 6 = 0x23#6 := by rw [k]; exact hi (hi (hi (hi (hi (hi (hi (hi BitVec.extractLsb'_eq_self)))))))
  have e0_5 : fld w 0 5 = 0x12#5 := by rw [k]; exact own
  have e22_4 : fld w 22 4 = a0 := by rw [k]; exact hi (hi (hi (hi (hi (hi (hi own))))))
  have e18_4 : fld w 18 4 = a1 := by rw [k]; exact hi (hi (hi (hi (hi (hi own)))))
  have e11_3 : fld w 11 3 = a2 := by rw [k]; exact hi (hi (hi (hi own)))
  have e8_1 : fld w 8 1 = a3 := by rw [k]; exact hi (hi own)
  have e5_3 : fld w 5 3 = a4 := by rw [k]; exact hi own
  unfold rawDecode
  rw [e26_6]
  change raw23 w = _
  unfold raw23
  rw [e0_5]
  change (some (Instr.vrsq (fld w 22 4) (fld w 18 4) (fld w 11 3) (fld w 8 1) (fld w 5 3))) = _
  rw [e22_4, e18_4, e11_3, e8_1, e5_3]

theorem vexp (a0 a1 a2 a3 a4) : Statement (.vexp a0 a1 a2 a3 a4) := by
  intro w h _
  have k := (Option.some.inj h).symm
  have e26_6 : fld w 26 6 = 0x23#6 := by rw [k]; exact hi (hi (hi (hi (hi (hi (hi (hi BitVec.extractLsb'_eq_self)))))))
  have e0_5 : fld w 0 5 = 0x13#5 := by rw [k]; exact own
  have e22_4 : fld w 22 4 = a0 := by rw [k]; exact hi (hi (hi (hi (hi (hi (hi own))))))
  have e18_4 : fld w 18 4 = a1 := by rw [k]; exact hi (hi (hi (hi (hi (hi own)))))
  have e11_3 : fld w 11 3 = a2 := by rw [k]; exact hi (hi (hi (hi own)))
  have e8_1 : fld w 8 1 = a3 := by rw [k]; exact hi (hi own)
  have e5_3 : fld w 5 3 = a4 := by rw [k]; exact hi own
  unfold rawDecode
  rw [e26_6]
  change raw23 w = _
  unfold raw23
  rw [e0_5]
  change (some (Instr.vexp (fld w 22 4) (fld w 18 4) (fld w 11 3) (fld w 8 1) (fld w 5 3))) = _
  rw [e22_4, e18_4, e11_3, e8_1, e5_3]

theorem vlog (a0 a1 a2 a3 a4) : Statement (.vlog a0 a1 a2 a3 a4) := by
  intro w h _
  have k := (Option.some.inj h).symm
  have e26_6 : fld w 26 6 = 0x23#6 := by rw [k]; exact hi (hi (hi (hi (hi (hi (hi (hi BitVec.extractLsb'_eq_self)))))))
  have e0_5 : fld w 0 5 = 0x14#5 := by rw [k]; exact own
  have e22_4 : fld w 22 4 = a0 := by rw [k]; exact hi (hi (hi (hi (hi (hi (hi own))))))
  have e18_4 : fld w 18 4 = a1 := by rw [k]; exact hi (hi (hi (hi (hi (hi own)))))
  have e11_3 : fld w 11 3 = a2 := by rw [k]; exact hi (hi (hi (hi own)))
  have e8_1 : fld w 8 1 = a3 := by rw [k]; exact hi (hi own)
  have e5_3 : fld w 5 3 = a4 := by rw [k]; exact hi own
  unfold rawDecode
  rw [e26_6]
  change raw23 w = _
  unfold raw23
  rw [e0_5]
  change (some (Instr.vlog (fld w 22 4) (fld w 18 4) (fld w 11 3) (fld w 8 1) (fld w 5 3))) = _
  rw [e22_4, e18_4, e11_3, e8_1, e5_3]

theorem vbcast (a0 a1 a2 a3) : Statement (.vbcast a0 a1 a2 a3) := by
  intro w h _
  have k := (Option.some.inj h).symm
  have e26_6 : fld w 26 6 = 0x24#6 := by rw [k]; exact hi (hi (hi (hi (hi (hi (hi BitVec.extractLsb'_eq_self))))))
  have e0_3 : fld w 0 3 = 0x0#3 := by rw [k]; exact own
  have e22_4 : fld w 22 4 = a0 := by rw [k]; exact hi (hi (hi (hi (hi (hi own)))))
  have e18_4 : fld w 18 4 = a1 := by rw [k]; exact hi (hi (hi (hi (hi own))))
  have e11_3 : fld w 11 3 = a2 := by rw [k]; exact hi (hi (hi own))
  have e3_3 : fld w 3 3 = a3 := by rw [k]; exact hi own
  unfold rawDecode
  rw [e26_6]
  change raw24 w = _
  unfold raw24
  rw [e0_3]
  change (some (Instr.vbcast (fld w 22 4) (fld w 18 4) (fld w 11 3) (fld w 3 3))) = _
  rw [e22_4, e18_4, e11_3, e3_3]

theorem vext (a0 a1 a2 a3) : Statement (.vext a0 a1 a2 a3) := by
  intro w h _
  have k := (Option.some.inj h).symm
  have e26_6 : fld w 26 6 = 0x24#6 := by rw [k]; exact hi (hi (hi (hi (hi (hi BitVec.extractLsb'_eq_self)))))
  have e0_3 : fld w 0 3 = 0x1#3 := by rw [k]; exact own
  have e22_4 : fld w 22 4 = a0 := by rw [k]; exact hi (hi (hi (hi (hi own))))
  have e18_4 : fld w 18 4 = a1 := by rw [k]; exact hi (hi (hi (hi own)))
  have e14_4 : fld w 14 4 = a2 := by rw [k]; exact hi (hi (hi own))
  have e3_3 : fld w 3 3 = a3 := by rw [k]; exact hi own
  unfold rawDecode
  rw [e26_6]
  change raw24 w = _
  unfold raw24
  rw [e0_3]
  change (some (Instr.vext (fld w 22 4) (fld w 18 4) (fld w 14 4) (fld w 3 3))) = _
  rw [e22_4, e18_4, e14_4, e3_3]

theorem vins (a0 a1 a2 a3) : Statement (.vins a0 a1 a2 a3) := by
  intro w h _
  have k := (Option.some.inj h).symm
  have e26_6 : fld w 26 6 = 0x24#6 := by rw [k]; exact hi (hi (hi (hi (hi (hi BitVec.extractLsb'_eq_self)))))
  have e0_3 : fld w 0 3 = 0x2#3 := by rw [k]; exact own
  have e22_4 : fld w 22 4 = a0 := by rw [k]; exact hi (hi (hi (hi (hi own))))
  have e18_4 : fld w 18 4 = a1 := by rw [k]; exact hi (hi (hi (hi own)))
  have e14_4 : fld w 14 4 = a2 := by rw [k]; exact hi (hi (hi own))
  have e3_3 : fld w 3 3 = a3 := by rw [k]; exact hi own
  unfold rawDecode
  rw [e26_6]
  change raw24 w = _
  unfold raw24
  rw [e0_3]
  change (some (Instr.vins (fld w 22 4) (fld w 18 4) (fld w 14 4) (fld w 3 3))) = _
  rw [e22_4, e18_4, e14_4, e3_3]

theorem vperm (a0 a1 a2 a3 a4) : Statement (.vperm a0 a1 a2 a3 a4) := by
  intro w h _
  have k := (Option.some.inj h).symm
  have e26_6 : fld w 26 6 = 0x24#6 := by rw [k]; exact hi (hi (hi (hi (hi (hi (hi BitVec.extractLsb'_eq_self))))))
  have e0_3 : fld w 0 3 = 0x3#3 := by rw [k]; exact own
  have e22_4 : fld w 22 4 = a0 := by rw [k]; exact hi (hi (hi (hi (hi (hi own)))))
  have e18_4 : fld w 18 4 = a1 := by rw [k]; exact hi (hi (hi (hi (hi own))))
  have e14_4 : fld w 14 4 = a2 := by rw [k]; exact hi (hi (hi (hi own)))
  have e11_3 : fld w 11 3 = a3 := by rw [k]; exact hi (hi (hi own))
  have e3_3 : fld w 3 3 = a4 := by rw [k]; exact hi own
  unfold rawDecode
  rw [e26_6]
  change raw24 w = _
  unfold raw24
  rw [e0_3]
  change (some (Instr.vperm (fld w 22 4) (fld w 18 4) (fld w 14 4) (fld w 11 3) (fld w 3 3))) = _
  rw [e22_4, e18_4, e14_4, e11_3, e3_3]

theorem vred (a0 a1 a2 a3 a4 a5) : Statement (.vred a0 a1 a2 a3 a4 a5) := by
  intro w h _
  have k := (Option.some.inj h).symm
  have e26_6 : fld w 26 6 = 0x24#6 := by rw [k]; exact hi (hi (hi (hi (hi (hi (hi (hi (hi BitVec.extractLsb'_eq_self))))))))
  have e0_3 : fld w 0 3 = 0x4#3 := by rw [k]; exact own
  have e22_4 : fld w 22 4 = a0 := by rw [k]; exact hi (hi (hi (hi (hi (hi (hi (hi own)))))))
  have e18_4 : fld w 18 4 = a1 := by rw [k]; exact hi (hi (hi (hi (hi (hi (hi own))))))
  have e11_3 : fld w 11 3 = a2 := by rw [k]; exact hi (hi (hi (hi (hi own))))
  have e9_1 : fld w 9 1 = a3 := by rw [k]; exact hi (hi (hi own))
  have e6_3 : fld w 6 3 = a4 := by rw [k]; exact hi (hi own)
  have e3_3 : fld w 3 3 = a5 := by rw [k]; exact hi own
  unfold rawDecode
  rw [e26_6]
  change raw24 w = _
  unfold raw24
  rw [e0_3]
  change (some (Instr.vred (fld w 22 4) (fld w 18 4) (fld w 11 3) (fld w 9 1) (fld w 6 3) (fld w 3 3))) = _
  rw [e22_4, e18_4, e11_3, e9_1, e6_3, e3_3]

theorem vld (a0 a1 a2 a3 a4) : Statement (.vld a0 a1 a2 a3 a4) := by
  intro w h _
  have k := (Option.some.inj h).symm
  have e26_6 : fld w 26 6 = 0x25#6 := by rw [k]; exact hi (hi (hi (hi (hi (hi BitVec.extractLsb'_eq_self)))))
  have e21_4 : fld w 21 4 = a0 := by rw [k]; exact hi (hi (hi (hi own)))
  have e16_5 : fld w 16 5 = a1 := by rw [k]; exact hi (hi (hi own))
  have e14_2 : fld w 14 2 = a2 := by rw [k]; exact hi (hi own)
  have e12_2 : fld w 12 2 = a3 := by rw [k]; exact hi own
  have e0_12 : fld w 0 12 = a4 := by rw [k]; exact own
  unfold rawDecode
  rw [e26_6]
  change (some (Instr.vld (fld w 21 4) (fld w 16 5) (fld w 14 2) (fld w 12 2) (fld w 0 12))) = _
  rw [e21_4, e16_5, e14_2, e12_2, e0_12]

theorem vst (a0 a1 a2 a3 a4) : Statement (.vst a0 a1 a2 a3 a4) := by
  intro w h _
  have k := (Option.some.inj h).symm
  have e26_6 : fld w 26 6 = 0x26#6 := by rw [k]; exact hi (hi (hi (hi (hi (hi BitVec.extractLsb'_eq_self)))))
  have e21_4 : fld w 21 4 = a0 := by rw [k]; exact hi (hi (hi (hi own)))
  have e16_5 : fld w 16 5 = a1 := by rw [k]; exact hi (hi (hi own))
  have e14_2 : fld w 14 2 = a2 := by rw [k]; exact hi (hi own)
  have e12_2 : fld w 12 2 = a3 := by rw [k]; exact hi own
  have e0_12 : fld w 0 12 = a4 := by rw [k]; exact own
  unfold rawDecode
  rw [e26_6]
  change (some (Instr.vst (fld w 21 4) (fld w 16 5) (fld w 14 2) (fld w 12 2) (fld w 0 12))) = _
  rw [e21_4, e16_5, e14_2, e12_2, e0_12]

theorem vgth (a0 a1 a2 a3 a4 a5) : Statement (.vgth a0 a1 a2 a3 a4 a5) := by
  intro w h _
  have k := (Option.some.inj h).symm
  have e26_6 : fld w 26 6 = 0x27#6 := by rw [k]; exact hi (hi (hi (hi (hi (hi (hi (hi BitVec.extractLsb'_eq_self)))))))
  have e0_1 : fld w 0 1 = 0x0#1 := by rw [k]; exact own
  have e22_4 : fld w 22 4 = a0 := by rw [k]; exact hi (hi (hi (hi (hi (hi (hi own))))))
  have e18_4 : fld w 18 4 = a1 := by rw [k]; exact hi (hi (hi (hi (hi (hi own)))))
  have e14_4 : fld w 14 4 = a2 := by rw [k]; exact hi (hi (hi (hi (hi own))))
  have e11_3 : fld w 11 3 = a3 := by rw [k]; exact hi (hi (hi (hi own)))
  have e3_2 : fld w 3 2 = a4 := by rw [k]; exact hi (hi own)
  have e1_2 : fld w 1 2 = a5 := by rw [k]; exact hi own
  unfold rawDecode
  rw [e26_6]
  change raw27 w = _
  unfold raw27
  rw [e0_1]
  change (some (Instr.vgth (fld w 22 4) (fld w 18 4) (fld w 14 4) (fld w 11 3) (fld w 3 2) (fld w 1 2))) = _
  rw [e22_4, e18_4, e14_4, e11_3, e3_2, e1_2]

theorem vsct (a0 a1 a2 a3 a4 a5) : Statement (.vsct a0 a1 a2 a3 a4 a5) := by
  intro w h _
  have k := (Option.some.inj h).symm
  have e26_6 : fld w 26 6 = 0x27#6 := by rw [k]; exact hi (hi (hi (hi (hi (hi (hi (hi BitVec.extractLsb'_eq_self)))))))
  have e0_1 : fld w 0 1 = 0x1#1 := by rw [k]; exact own
  have e22_4 : fld w 22 4 = a0 := by rw [k]; exact hi (hi (hi (hi (hi (hi (hi own))))))
  have e18_4 : fld w 18 4 = a1 := by rw [k]; exact hi (hi (hi (hi (hi (hi own)))))
  have e14_4 : fld w 14 4 = a2 := by rw [k]; exact hi (hi (hi (hi (hi own))))
  have e11_3 : fld w 11 3 = a3 := by rw [k]; exact hi (hi (hi (hi own)))
  have e3_2 : fld w 3 2 = a4 := by rw [k]; exact hi (hi own)
  have e1_2 : fld w 1 2 = a5 := by rw [k]; exact hi own
  unfold rawDecode
  rw [e26_6]
  change raw27 w = _
  unfold raw27
  rw [e0_1]
  change (some (Instr.vsct (fld w 22 4) (fld w 18 4) (fld w 14 4) (fld w 11 3) (fld w 3 2) (fld w 1 2))) = _
  rw [e22_4, e18_4, e14_4, e11_3, e3_2, e1_2]

theorem pand (a0 a1 a2) : Statement (.pand a0 a1 a2) := by
  intro w h _
  have k := (Option.some.inj h).symm
  have e26_6 : fld w 26 6 = 0x28#6 := by rw [k]; exact hi (hi (hi (hi BitVec.extractLsb'_eq_self)))
  have e0_3 : fld w 0 3 = 0x0#3 := by rw [k]; exact low rfl
  have e22_4 : fld w 22 4 = a0 := by rw [k]; exact hi (hi (hi own))
  have e18_4 : fld w 18 4 = a1 := by rw [k]; exact hi (hi own)
  have e14_4 : fld w 14 4 = a2 := by rw [k]; exact hi own
  unfold rawDecode
  rw [e26_6]
  change raw28 w = _
  unfold raw28
  rw [e0_3]
  change (some (Instr.pand (fld w 22 4) (fld w 18 4) (fld w 14 4))) = _
  rw [e22_4, e18_4, e14_4]

theorem por (a0 a1 a2) : Statement (.por a0 a1 a2) := by
  intro w h _
  have k := (Option.some.inj h).symm
  have e26_6 : fld w 26 6 = 0x28#6 := by rw [k]; exact hi (hi (hi (hi BitVec.extractLsb'_eq_self)))
  have e0_3 : fld w 0 3 = 0x1#3 := by rw [k]; exact low rfl
  have e22_4 : fld w 22 4 = a0 := by rw [k]; exact hi (hi (hi own))
  have e18_4 : fld w 18 4 = a1 := by rw [k]; exact hi (hi own)
  have e14_4 : fld w 14 4 = a2 := by rw [k]; exact hi own
  unfold rawDecode
  rw [e26_6]
  change raw28 w = _
  unfold raw28
  rw [e0_3]
  change (some (Instr.por (fld w 22 4) (fld w 18 4) (fld w 14 4))) = _
  rw [e22_4, e18_4, e14_4]

theorem pxor (a0 a1 a2) : Statement (.pxor a0 a1 a2) := by
  intro w h _
  have k := (Option.some.inj h).symm
  have e26_6 : fld w 26 6 = 0x28#6 := by rw [k]; exact hi (hi (hi (hi BitVec.extractLsb'_eq_self)))
  have e0_3 : fld w 0 3 = 0x2#3 := by rw [k]; exact low rfl
  have e22_4 : fld w 22 4 = a0 := by rw [k]; exact hi (hi (hi own))
  have e18_4 : fld w 18 4 = a1 := by rw [k]; exact hi (hi own)
  have e14_4 : fld w 14 4 = a2 := by rw [k]; exact hi own
  unfold rawDecode
  rw [e26_6]
  change raw28 w = _
  unfold raw28
  rw [e0_3]
  change (some (Instr.pxor (fld w 22 4) (fld w 18 4) (fld w 14 4))) = _
  rw [e22_4, e18_4, e14_4]

theorem pnot (a0 a1) : Statement (.pnot a0 a1) := by
  intro w h _
  have k := (Option.some.inj h).symm
  have e26_6 : fld w 26 6 = 0x28#6 := by rw [k]; exact hi (hi (hi BitVec.extractLsb'_eq_self))
  have e0_3 : fld w 0 3 = 0x3#3 := by rw [k]; exact low rfl
  have e22_4 : fld w 22 4 = a0 := by rw [k]; exact hi (hi own)
  have e18_4 : fld w 18 4 = a1 := by rw [k]; exact hi own
  unfold rawDecode
  rw [e26_6]
  change raw28 w = _
  unfold raw28
  rw [e0_3]
  change (some (Instr.pnot (fld w 22 4) (fld w 18 4))) = _
  rw [e22_4, e18_4]

theorem pset (a0 a1) : Statement (.pset a0 a1) := by
  intro w h _
  have k := (Option.some.inj h).symm
  have e26_6 : fld w 26 6 = 0x28#6 := by rw [k]; exact hi (hi (hi (hi BitVec.extractLsb'_eq_self)))
  have e0_3 : fld w 0 3 = 0x4#3 := by rw [k]; exact own
  have e10_1 : fld w 10 1 = 0x0#1 := by rw [k]; exact hi (hi (low rfl))
  have e22_4 : fld w 22 4 = a0 := by rw [k]; exact hi (hi (hi own))
  have e3_7 : fld w 3 7 = a1 := by rw [k]; exact hi own
  unfold rawDecode
  rw [e26_6]
  change raw28 w = _
  unfold raw28
  rw [e0_3]
  change (if fld w 10 1 = 1#1 then some (Instr.psetX (fld w 22 4) (fld w 18 4)) else some (Instr.pset (fld w 22 4) (fld w 3 7))) = _
  rw [e10_1]
  rw [if_neg (by decide)]
  rw [e22_4, e3_7]

theorem psetX (a0 a1) : Statement (.psetX a0 a1) := by
  intro w h _
  have k := (Option.some.inj h).symm
  have e26_6 : fld w 26 6 = 0x28#6 := by rw [k]; exact hi (hi (hi BitVec.extractLsb'_eq_self))
  have e0_3 : fld w 0 3 = 0x4#3 := by rw [k]; exact low rfl
  have e10_1 : fld w 10 1 = 0x1#1 := by rw [k]; exact low rfl
  have e22_4 : fld w 22 4 = a0 := by rw [k]; exact hi (hi own)
  have e18_4 : fld w 18 4 = a1 := by rw [k]; exact hi own
  unfold rawDecode
  rw [e26_6]
  change raw28 w = _
  unfold raw28
  rw [e0_3]
  change (if fld w 10 1 = 1#1 then some (Instr.psetX (fld w 22 4) (fld w 18 4)) else some (Instr.pset (fld w 22 4) (fld w 3 7))) = _
  rw [e10_1]
  rw [if_pos (by decide)]
  rw [e22_4, e18_4]

theorem pcnt (a0 a1 a2) : Statement (.pcnt a0 a1 a2) := by
  intro w h _
  have k := (Option.some.inj h).symm
  have e26_6 : fld w 26 6 = 0x28#6 := by rw [k]; exact hi (hi (hi (hi (hi BitVec.extractLsb'_eq_self))))
  have e0_3 : fld w 0 3 = 0x5#3 := by rw [k]; exact own
  have e22_4 : fld w 22 4 = a0 := by rw [k]; exact hi (hi (hi (hi own)))
  have e18_4 : fld w 18 4 = a1 := by rw [k]; exact hi (hi (hi own))
  have e3_7 : fld w 3 7 = a2 := by rw [k]; exact hi own
  unfold rawDecode
  rw [e26_6]
  change raw28 w = _
  unfold raw28
  rw [e0_3]
  change (some (Instr.pcnt (fld w 22 4) (fld w 18 4) (fld w 3 7))) = _
  rw [e22_4, e18_4, e3_7]

theorem mma (a0 a1 a2) : Statement (.mma a0 a1 a2) := by
  intro w h _
  have k := (Option.some.inj h).symm
  have e26_6 : fld w 26 6 = 0x29#6 := by rw [k]; exact hi (hi (hi (hi (hi (hi BitVec.extractLsb'_eq_self)))))
  have e0_3 : fld w 0 3 = 0x0#3 := by rw [k]; exact low rfl
  have e18_5 : fld w 18 5 = a0 := by rw [k]; exact hi (hi (hi (hi own)))
  have e13_5 : fld w 13 5 = a1 := by rw [k]; exact hi (hi (hi own))
  have e8_2 : fld w 8 2 = a2 := by rw [k]; exact hi own
  unfold rawDecode
  rw [e26_6]
  change raw29 w = _
  unfold raw29
  rw [e0_3]
  change (some (Instr.mma (fld w 18 5) (fld w 13 5) (fld w 8 2))) = _
  rw [e18_5, e13_5, e8_2]

theorem mzero (a0) : Statement (.mzero a0) := by
  intro w h _
  have k := (Option.some.inj h).symm
  have e26_6 : fld w 26 6 = 0x29#6 := by rw [k]; exact hi (hi (hi BitVec.extractLsb'_eq_self))
  have e0_3 : fld w 0 3 = 0x1#3 := by rw [k]; exact low rfl
  have e8_2 : fld w 8 2 = a0 := by rw [k]; exact hi own
  unfold rawDecode
  rw [e26_6]
  change raw29 w = _
  unfold raw29
  rw [e0_3]
  change (some (Instr.mzero (fld w 8 2))) = _
  rw [e8_2]

theorem mldb (a0 a1) : Statement (.mldb a0 a1) := by
  intro w h _
  have k := (Option.some.inj h).symm
  have e26_6 : fld w 26 6 = 0x29#6 := by rw [k]; exact hi (hi (hi (hi BitVec.extractLsb'_eq_self)))
  have e0_3 : fld w 0 3 = 0x2#3 := by rw [k]; exact low rfl
  have e18_5 : fld w 18 5 = a0 := by rw [k]; exact hi (hi own)
  have e13_5 : fld w 13 5 = a1 := by rw [k]; exact hi own
  unfold rawDecode
  rw [e26_6]
  change raw29 w = _
  unfold raw29
  rw [e0_3]
  change (some (Instr.mldb (fld w 18 5) (fld w 13 5))) = _
  rw [e18_5, e13_5]

theorem mrot : Statement (.mrot) := by
  intro w h _
  have k := (Option.some.inj h).symm
  have e26_6 : fld w 26 6 = 0x29#6 := by rw [k]; exact hi BitVec.extractLsb'_eq_self
  have e0_3 : fld w 0 3 = 0x3#3 := by rw [k]; exact low rfl
  unfold rawDecode
  rw [e26_6]
  change raw29 w = _
  unfold raw29
  rw [e0_3]
  change (some (Instr.mrot)) = _
  rfl

theorem mlda (a0 a1) : Statement (.mlda a0 a1) := by
  intro w h _
  have k := (Option.some.inj h).symm
  have e26_6 : fld w 26 6 = 0x29#6 := by rw [k]; exact hi (hi (hi (hi (hi BitVec.extractLsb'_eq_self))))
  have e0_3 : fld w 0 3 = 0x4#3 := by rw [k]; exact low rfl
  have e18_5 : fld w 18 5 = a0 := by rw [k]; exact hi (hi (hi own))
  have e8_2 : fld w 8 2 = a1 := by rw [k]; exact hi own
  unfold rawDecode
  rw [e26_6]
  change raw29 w = _
  unfold raw29
  rw [e0_3]
  change (some (Instr.mlda (fld w 18 5) (fld w 8 2))) = _
  rw [e18_5, e8_2]

theorem msta (a0 a1) : Statement (.msta a0 a1) := by
  intro w h _
  have k := (Option.some.inj h).symm
  have e26_6 : fld w 26 6 = 0x29#6 := by rw [k]; exact hi (hi (hi (hi (hi BitVec.extractLsb'_eq_self))))
  have e0_3 : fld w 0 3 = 0x5#3 := by rw [k]; exact low rfl
  have e18_5 : fld w 18 5 = a0 := by rw [k]; exact hi (hi (hi own))
  have e8_2 : fld w 8 2 = a1 := by rw [k]; exact hi own
  unfold rawDecode
  rw [e26_6]
  change raw29 w = _
  unfold raw29
  rw [e0_3]
  change (some (Instr.msta (fld w 18 5) (fld w 8 2))) = _
  rw [e18_5, e8_2]

theorem mset (a0 a1) : Statement (.mset a0 a1) := by
  intro w h _
  have k := (Option.some.inj h).symm
  have e26_6 : fld w 26 6 = 0x29#6 := by rw [k]; exact hi (hi (hi (hi (hi BitVec.extractLsb'_eq_self))))
  have e0_3 : fld w 0 3 = 0x6#3 := by rw [k]; exact low rfl
  have e18_5 : fld w 18 5 = a0 := by rw [k]; exact hi (hi (hi own))
  have e8_5 : fld w 8 5 = a1 := by rw [k]; exact hi own
  unfold rawDecode
  rw [e26_6]
  change raw29 w = _
  unfold raw29
  rw [e0_3]
  change (some (Instr.mset (fld w 18 5) (fld w 8 5))) = _
  rw [e18_5, e8_5]

theorem mget (a0 a1) : Statement (.mget a0 a1) := by
  intro w h _
  have k := (Option.some.inj h).symm
  have e26_6 : fld w 26 6 = 0x29#6 := by rw [k]; exact hi (hi (hi (hi BitVec.extractLsb'_eq_self)))
  have e0_3 : fld w 0 3 = 0x7#3 := by rw [k]; exact low rfl
  have e13_5 : fld w 13 5 = a0 := by rw [k]; exact hi (hi own)
  have e8_5 : fld w 8 5 = a1 := by rw [k]; exact hi own
  unfold rawDecode
  rw [e26_6]
  change raw29 w = _
  unfold raw29
  rw [e0_3]
  change (some (Instr.mget (fld w 13 5) (fld w 8 5))) = _
  rw [e13_5, e8_5]

theorem qcvt (a0 a1 a2) : Statement (.qcvt a0 a1 a2) := by
  intro w h _
  have k := (Option.some.inj h).symm
  have e26_6 : fld w 26 6 = 0x2a#6 := by rw [k]; exact hi (hi (hi (hi (hi BitVec.extractLsb'_eq_self))))
  have e0_2 : fld w 0 2 = 0x0#2 := by rw [k]; exact low rfl
  have e18_5 : fld w 18 5 = a0 := by rw [k]; exact hi (hi (hi own))
  have e13_5 : fld w 13 5 = a1 := by rw [k]; exact hi (hi own)
  have e8_5 : fld w 8 5 = a2 := by rw [k]; exact hi own
  unfold rawDecode
  rw [e26_6]
  change raw2A w = _
  unfold raw2A
  rw [e0_2]
  change (some (Instr.qcvt (fld w 18 5) (fld w 13 5) (fld w 8 5))) = _
  rw [e18_5, e13_5, e8_5]

theorem qchk (a0 a1 a2) : Statement (.qchk a0 a1 a2) := by
  intro w h _
  have k := (Option.some.inj h).symm
  have e26_6 : fld w 26 6 = 0x2a#6 := by rw [k]; exact hi (hi (hi (hi (hi BitVec.extractLsb'_eq_self))))
  have e0_2 : fld w 0 2 = 0x1#2 := by rw [k]; exact low rfl
  have e18_5 : fld w 18 5 = a0 := by rw [k]; exact hi (hi (hi own))
  have e13_5 : fld w 13 5 = a1 := by rw [k]; exact hi (hi own)
  have e8_5 : fld w 8 5 = a2 := by rw [k]; exact hi own
  unfold rawDecode
  rw [e26_6]
  change raw2A w = _
  unfold raw2A
  rw [e0_2]
  change (some (Instr.qchk (fld w 18 5) (fld w 13 5) (fld w 8 5))) = _
  rw [e18_5, e13_5, e8_5]

theorem qchkW (a0 a1) : Statement (.qchkW a0 a1) := by
  intro w h _
  have k := (Option.some.inj h).symm
  have e26_6 : fld w 26 6 = 0x2a#6 := by rw [k]; exact hi (hi (hi (hi BitVec.extractLsb'_eq_self)))
  have e0_2 : fld w 0 2 = 0x2#2 := by rw [k]; exact low rfl
  have e18_5 : fld w 18 5 = a0 := by rw [k]; exact hi (hi own)
  have e13_5 : fld w 13 5 = a1 := by rw [k]; exact hi own
  unfold rawDecode
  rw [e26_6]
  change raw2A w = _
  unfold raw2A
  rw [e0_2]
  change (some (Instr.qchkW (fld w 18 5) (fld w 13 5))) = _
  rw [e18_5, e13_5]

theorem qstat (a0 a1) : Statement (.qstat a0 a1) := by
  intro w h _
  have k := (Option.some.inj h).symm
  have e26_6 : fld w 26 6 = 0x2a#6 := by rw [k]; exact hi (hi (hi (hi (hi BitVec.extractLsb'_eq_self))))
  have e0_2 : fld w 0 2 = 0x3#2 := by rw [k]; exact low rfl
  have e18_5 : fld w 18 5 = a0 := by rw [k]; exact hi (hi (hi own))
  have e8_5 : fld w 8 5 = a1 := by rw [k]; exact hi own
  unfold rawDecode
  rw [e26_6]
  change raw2A w = _
  unfold raw2A
  rw [e0_2]
  change (some (Instr.qstat (fld w 18 5) (fld w 8 5))) = _
  rw [e18_5, e8_5]

theorem cpy (a0 a1 a2 a3) : Statement (.cpy a0 a1 a2 a3) := by
  intro w h _
  have k := (Option.some.inj h).symm
  have e26_6 : fld w 26 6 = 0x2b#6 := by rw [k]; exact hi (hi (hi (hi (hi BitVec.extractLsb'_eq_self))))
  have e0_3 : fld w 0 3 = 0x0#3 := by rw [k]; exact low rfl
  have e23_3 : fld w 23 3 = a0 := by rw [k]; exact hi (hi (hi (hi own)))
  have e18_5 : fld w 18 5 = a1 := by rw [k]; exact hi (hi (hi own))
  have e13_5 : fld w 13 5 = a2 := by rw [k]; exact hi (hi own)
  have e8_5 : fld w 8 5 = a3 := by rw [k]; exact hi own
  unfold rawDecode
  rw [e26_6]
  change raw2B w = _
  unfold raw2B
  rw [e0_3]
  change (some (Instr.cpy (fld w 23 3) (fld w 18 5) (fld w 13 5) (fld w 8 5))) = _
  rw [e23_3, e18_5, e13_5, e8_5]

theorem cpg (a0 a1 a2 a3) : Statement (.cpg a0 a1 a2 a3) := by
  intro w h _
  have k := (Option.some.inj h).symm
  have e26_6 : fld w 26 6 = 0x2b#6 := by rw [k]; exact hi (hi (hi (hi (hi BitVec.extractLsb'_eq_self))))
  have e0_3 : fld w 0 3 = 0x1#3 := by rw [k]; exact low rfl
  have e23_3 : fld w 23 3 = a0 := by rw [k]; exact hi (hi (hi (hi own)))
  have e18_5 : fld w 18 5 = a1 := by rw [k]; exact hi (hi (hi own))
  have e13_5 : fld w 13 5 = a2 := by rw [k]; exact hi (hi own)
  have e8_5 : fld w 8 5 = a3 := by rw [k]; exact hi own
  unfold rawDecode
  rw [e26_6]
  change raw2B w = _
  unfold raw2B
  rw [e0_3]
  change (some (Instr.cpg (fld w 23 3) (fld w 18 5) (fld w 13 5) (fld w 8 5))) = _
  rw [e23_3, e18_5, e13_5, e8_5]

theorem cps (a0 a1 a2 a3) : Statement (.cps a0 a1 a2 a3) := by
  intro w h _
  have k := (Option.some.inj h).symm
  have e26_6 : fld w 26 6 = 0x2b#6 := by rw [k]; exact hi (hi (hi (hi (hi BitVec.extractLsb'_eq_self))))
  have e0_3 : fld w 0 3 = 0x2#3 := by rw [k]; exact low rfl
  have e23_3 : fld w 23 3 = a0 := by rw [k]; exact hi (hi (hi (hi own)))
  have e18_5 : fld w 18 5 = a1 := by rw [k]; exact hi (hi (hi own))
  have e13_5 : fld w 13 5 = a2 := by rw [k]; exact hi (hi own)
  have e8_5 : fld w 8 5 = a3 := by rw [k]; exact hi own
  unfold rawDecode
  rw [e26_6]
  change raw2B w = _
  unfold raw2B
  rw [e0_3]
  change (some (Instr.cps (fld w 23 3) (fld w 18 5) (fld w 13 5) (fld w 8 5))) = _
  rw [e23_3, e18_5, e13_5, e8_5]

theorem cpr (a0 a1 a2 a3) : Statement (.cpr a0 a1 a2 a3) := by
  intro w h _
  have k := (Option.some.inj h).symm
  have e26_6 : fld w 26 6 = 0x2b#6 := by rw [k]; exact hi (hi (hi (hi (hi BitVec.extractLsb'_eq_self))))
  have e0_3 : fld w 0 3 = 0x3#3 := by rw [k]; exact low rfl
  have e23_3 : fld w 23 3 = a0 := by rw [k]; exact hi (hi (hi (hi own)))
  have e18_5 : fld w 18 5 = a1 := by rw [k]; exact hi (hi (hi own))
  have e13_5 : fld w 13 5 = a2 := by rw [k]; exact hi (hi own)
  have e8_5 : fld w 8 5 = a3 := by rw [k]; exact hi own
  unfold rawDecode
  rw [e26_6]
  change raw2B w = _
  unfold raw2B
  rw [e0_3]
  change (some (Instr.cpr (fld w 23 3) (fld w 18 5) (fld w 13 5) (fld w 8 5))) = _
  rw [e23_3, e18_5, e13_5, e8_5]

theorem cpq (a0) : Statement (.cpq a0) := by
  intro w h _
  have k := (Option.some.inj h).symm
  have e26_6 : fld w 26 6 = 0x2b#6 := by rw [k]; exact hi (hi (hi BitVec.extractLsb'_eq_self))
  have e0_3 : fld w 0 3 = 0x4#3 := by rw [k]; exact low rfl
  have e8_5 : fld w 8 5 = a0 := by rw [k]; exact hi own
  unfold rawDecode
  rw [e26_6]
  change raw2B w = _
  unfold raw2B
  rw [e0_3]
  change (some (Instr.cpq (fld w 8 5))) = _
  rw [e8_5]

theorem snd (a0) : Statement (.snd a0) := by
  intro w h _
  have k := (Option.some.inj h).symm
  have e26_6 : fld w 26 6 = 0x2c#6 := by rw [k]; exact hi (hi (hi BitVec.extractLsb'_eq_self))
  have e0_2 : fld w 0 2 = 0x0#2 := by rw [k]; exact low rfl
  have e16_5 : fld w 16 5 = a0 := by rw [k]; exact hi own
  unfold rawDecode
  rw [e26_6]
  change raw2C w = _
  unfold raw2C
  rw [e0_2]
  change (some (Instr.snd (fld w 16 5))) = _
  rw [e16_5]

theorem rcv (a0 a1) : Statement (.rcv a0 a1) := by
  intro w h _
  have k := (Option.some.inj h).symm
  have e26_6 : fld w 26 6 = 0x2c#6 := by rw [k]; exact hi (hi (hi (hi BitVec.extractLsb'_eq_self)))
  have e0_2 : fld w 0 2 = 0x1#2 := by rw [k]; exact low rfl
  have e21_5 : fld w 21 5 = a0 := by rw [k]; exact hi (hi (hi own))
  have e11_5 : fld w 11 5 = a1 := by rw [k]; exact hi own
  unfold rawDecode
  rw [e26_6]
  change raw2C w = _
  unfold raw2C
  rw [e0_2]
  change (some (Instr.rcv (fld w 21 5) (fld w 11 5))) = _
  rw [e21_5, e11_5]

theorem wmsg (a0 a1) : Statement (.wmsg a0 a1) := by
  intro w h _
  have k := (Option.some.inj h).symm
  have e26_6 : fld w 26 6 = 0x2c#6 := by rw [k]; exact hi (hi (hi BitVec.extractLsb'_eq_self))
  have e0_2 : fld w 0 2 = 0x2#2 := by rw [k]; exact low rfl
  have e21_5 : fld w 21 5 = a0 := by rw [k]; exact hi (hi own)
  have e16_5 : fld w 16 5 = a1 := by rw [k]; exact hi own
  unfold rawDecode
  rw [e26_6]
  change raw2C w = _
  unfold raw2C
  rw [e0_2]
  change (some (Instr.wmsg (fld w 21 5) (fld w 16 5))) = _
  rw [e21_5, e16_5]

theorem pkmsg (a0 a1) : Statement (.pkmsg a0 a1) := by
  intro w h _
  have k := (Option.some.inj h).symm
  have e26_6 : fld w 26 6 = 0x2c#6 := by rw [k]; exact hi (hi (hi (hi BitVec.extractLsb'_eq_self)))
  have e0_2 : fld w 0 2 = 0x3#2 := by rw [k]; exact low rfl
  have e21_5 : fld w 21 5 = a0 := by rw [k]; exact hi (hi (hi own))
  have e11_5 : fld w 11 5 = a1 := by rw [k]; exact hi own
  unfold rawDecode
  rw [e26_6]
  change raw2C w = _
  unfold raw2C
  rw [e0_2]
  change (some (Instr.pkmsg (fld w 21 5) (fld w 11 5))) = _
  rw [e21_5, e11_5]

theorem lacqSp (a0 a1 a2) : Statement (.lacqSp a0 a1 a2) := by
  intro w h _
  have k := (Option.some.inj h).symm
  have e26_6 : fld w 26 6 = 0x2d#6 := by rw [k]; exact hi (hi (hi (hi BitVec.extractLsb'_eq_self)))
  have e0_8 : fld w 0 8 = 0x20#8 := by rw [k]; exact low rfl
  have e21_5 : fld w 21 5 = a0 := by rw [k]; exact hi (hi (hi own))
  have e16_5 : fld w 16 5 = a1 := by rw [k]; exact hi (hi own)
  have e11_5 : fld w 11 5 = a2 := by rw [k]; exact hi own
  unfold rawDecode
  rw [e26_6]
  change raw2D w = _
  unfold raw2D
  rw [e0_8]
  change (some (Instr.lacqSp (fld w 21 5) (fld w 16 5) (fld w 11 5))) = _
  rw [e21_5, e16_5, e11_5]

theorem lacqAcc (a0 a1 a2) : Statement (.lacqAcc a0 a1 a2) := by
  intro w h _
  have k := (Option.some.inj h).symm
  have e26_6 : fld w 26 6 = 0x2d#6 := by rw [k]; exact hi (hi (hi (hi BitVec.extractLsb'_eq_self)))
  have e0_8 : fld w 0 8 = 0x30#8 := by rw [k]; exact low rfl
  have e21_5 : fld w 21 5 = a0 := by rw [k]; exact hi (hi (hi own))
  have e16_5 : fld w 16 5 = a1 := by rw [k]; exact hi (hi own)
  have e11_5 : fld w 11 5 = a2 := by rw [k]; exact hi own
  unfold rawDecode
  rw [e26_6]
  change raw2D w = _
  unfold raw2D
  rw [e0_8]
  change (some (Instr.lacqAcc (fld w 21 5) (fld w 16 5) (fld w 11 5))) = _
  rw [e21_5, e16_5, e11_5]

theorem lacqCls (a0 a1 a2) : Statement (.lacqCls a0 a1 a2) := by
  intro w h _
  have k := (Option.some.inj h).symm
  have e26_6 : fld w 26 6 = 0x2d#6 := by rw [k]; exact hi (hi (hi (hi BitVec.extractLsb'_eq_self)))
  have e0_8 : fld w 0 8 = 0x40#8 := by rw [k]; exact low rfl
  have e21_5 : fld w 21 5 = a0 := by rw [k]; exact hi (hi (hi own))
  have e16_5 : fld w 16 5 = a1 := by rw [k]; exact hi (hi own)
  have e11_5 : fld w 11 5 = a2 := by rw [k]; exact hi own
  unfold rawDecode
  rw [e26_6]
  change raw2D w = _
  unfold raw2D
  rw [e0_8]
  change (some (Instr.lacqCls (fld w 21 5) (fld w 16 5) (fld w 11 5))) = _
  rw [e21_5, e16_5, e11_5]

theorem lacqL2 (a0 a1 a2) : Statement (.lacqL2 a0 a1 a2) := by
  intro w h _
  have k := (Option.some.inj h).symm
  have e26_6 : fld w 26 6 = 0x2d#6 := by rw [k]; exact hi (hi (hi (hi BitVec.extractLsb'_eq_self)))
  have e0_8 : fld w 0 8 = 0x50#8 := by rw [k]; exact low rfl
  have e21_5 : fld w 21 5 = a0 := by rw [k]; exact hi (hi (hi own))
  have e16_5 : fld w 16 5 = a1 := by rw [k]; exact hi (hi own)
  have e11_5 : fld w 11 5 = a2 := by rw [k]; exact hi own
  unfold rawDecode
  rw [e26_6]
  change raw2D w = _
  unfold raw2D
  rw [e0_8]
  change (some (Instr.lacqL2 (fld w 21 5) (fld w 16 5) (fld w 11 5))) = _
  rw [e21_5, e16_5, e11_5]

theorem lacqPage (a0 a1 a2) : Statement (.lacqPage a0 a1 a2) := by
  intro w h _
  have k := (Option.some.inj h).symm
  have e26_6 : fld w 26 6 = 0x2d#6 := by rw [k]; exact hi (hi (hi (hi BitVec.extractLsb'_eq_self)))
  have e0_8 : fld w 0 8 = 0x60#8 := by rw [k]; exact low rfl
  have e21_5 : fld w 21 5 = a0 := by rw [k]; exact hi (hi (hi own))
  have e16_5 : fld w 16 5 = a1 := by rw [k]; exact hi (hi own)
  have e11_5 : fld w 11 5 = a2 := by rw [k]; exact hi own
  unfold rawDecode
  rw [e26_6]
  change raw2D w = _
  unfold raw2D
  rw [e0_8]
  change (some (Instr.lacqPage (fld w 21 5) (fld w 16 5) (fld w 11 5))) = _
  rw [e21_5, e16_5, e11_5]

theorem lacqPath (a0 a1 a2) : Statement (.lacqPath a0 a1 a2) := by
  intro w h _
  have k := (Option.some.inj h).symm
  have e26_6 : fld w 26 6 = 0x2d#6 := by rw [k]; exact hi (hi (hi (hi BitVec.extractLsb'_eq_self)))
  have e0_8 : fld w 0 8 = 0x80#8 := by rw [k]; exact low rfl
  have e21_5 : fld w 21 5 = a0 := by rw [k]; exact hi (hi (hi own))
  have e16_5 : fld w 16 5 = a1 := by rw [k]; exact hi (hi own)
  have e11_5 : fld w 11 5 = a2 := by rw [k]; exact hi own
  unfold rawDecode
  rw [e26_6]
  change raw2D w = _
  unfold raw2D
  rw [e0_8]
  change (some (Instr.lacqPath (fld w 21 5) (fld w 16 5) (fld w 11 5))) = _
  rw [e21_5, e16_5, e11_5]

theorem lacqGrp (a0 a1 a2) : Statement (.lacqGrp a0 a1 a2) := by
  intro w h _
  have k := (Option.some.inj h).symm
  have e26_6 : fld w 26 6 = 0x2d#6 := by rw [k]; exact hi (hi (hi (hi BitVec.extractLsb'_eq_self)))
  have e0_8 : fld w 0 8 = 0x90#8 := by rw [k]; exact low rfl
  have e21_5 : fld w 21 5 = a0 := by rw [k]; exact hi (hi (hi own))
  have e16_5 : fld w 16 5 = a1 := by rw [k]; exact hi (hi own)
  have e11_5 : fld w 11 5 = a2 := by rw [k]; exact hi own
  unfold rawDecode
  rw [e26_6]
  change raw2D w = _
  unfold raw2D
  rw [e0_8]
  change (some (Instr.lacqGrp (fld w 21 5) (fld w 16 5) (fld w 11 5))) = _
  rw [e21_5, e16_5, e11_5]

theorem renew (a0 a1) : Statement (.renew a0 a1) := by
  intro w h _
  have k := (Option.some.inj h).symm
  have e26_6 : fld w 26 6 = 0x2d#6 := by rw [k]; exact hi (hi (hi (hi BitVec.extractLsb'_eq_self)))
  have e0_8 : fld w 0 8 = 0x1#8 := by rw [k]; exact low rfl
  have e16_5 : fld w 16 5 = a0 := by rw [k]; exact hi (hi own)
  have e11_5 : fld w 11 5 = a1 := by rw [k]; exact hi own
  unfold rawDecode
  rw [e26_6]
  change raw2D w = _
  unfold raw2D
  rw [e0_8]
  change (some (Instr.renew (fld w 16 5) (fld w 11 5))) = _
  rw [e16_5, e11_5]

theorem life (a0 a1) : Statement (.life a0 a1) := by
  intro w h _
  have k := (Option.some.inj h).symm
  have e26_6 : fld w 26 6 = 0x2d#6 := by rw [k]; exact hi (hi (hi BitVec.extractLsb'_eq_self))
  have e0_8 : fld w 0 8 = 0x2#8 := by rw [k]; exact low rfl
  have e21_5 : fld w 21 5 = a0 := by rw [k]; exact hi (hi own)
  have e16_5 : fld w 16 5 = a1 := by rw [k]; exact hi own
  unfold rawDecode
  rw [e26_6]
  change raw2D w = _
  unfold raw2D
  rw [e0_8]
  change (some (Instr.life (fld w 21 5) (fld w 16 5))) = _
  rw [e21_5, e16_5]

theorem llk (a0 a1 a2) : Statement (.llk a0 a1 a2) := by
  intro w h _
  have k := (Option.some.inj h).symm
  have e26_6 : fld w 26 6 = 0x2d#6 := by rw [k]; exact hi (hi (hi (hi BitVec.extractLsb'_eq_self)))
  have e0_8 : fld w 0 8 = 0x3#8 := by rw [k]; exact low rfl
  have e21_5 : fld w 21 5 = a0 := by rw [k]; exact hi (hi (hi own))
  have e16_5 : fld w 16 5 = a1 := by rw [k]; exact hi (hi own)
  have e11_5 : fld w 11 5 = a2 := by rw [k]; exact hi own
  unfold rawDecode
  rw [e26_6]
  change raw2D w = _
  unfold raw2D
  rw [e0_8]
  change (some (Instr.llk (fld w 21 5) (fld w 16 5) (fld w 11 5))) = _
  rw [e21_5, e16_5, e11_5]

theorem lgen (a0 a1) : Statement (.lgen a0 a1) := by
  intro w h _
  have k := (Option.some.inj h).symm
  have e26_6 : fld w 26 6 = 0x2d#6 := by rw [k]; exact hi (hi (hi BitVec.extractLsb'_eq_self))
  have e0_8 : fld w 0 8 = 0x4#8 := by rw [k]; exact low rfl
  have e21_5 : fld w 21 5 = a0 := by rw [k]; exact hi (hi own)
  have e16_5 : fld w 16 5 = a1 := by rw [k]; exact hi own
  unfold rawDecode
  rw [e26_6]
  change raw2D w = _
  unfold raw2D
  rw [e0_8]
  change (some (Instr.lgen (fld w 21 5) (fld w 16 5))) = _
  rw [e21_5, e16_5]

theorem lpar (a0 a1 a2) : Statement (.lpar a0 a1 a2) := by
  intro w h _
  have k := (Option.some.inj h).symm
  have e26_6 : fld w 26 6 = 0x2d#6 := by rw [k]; exact hi (hi (hi (hi BitVec.extractLsb'_eq_self)))
  have e0_8 : fld w 0 8 = 0x5#8 := by rw [k]; exact low rfl
  have e21_5 : fld w 21 5 = a0 := by rw [k]; exact hi (hi (hi own))
  have e16_5 : fld w 16 5 = a1 := by rw [k]; exact hi (hi own)
  have e11_5 : fld w 11 5 = a2 := by rw [k]; exact hi own
  unfold rawDecode
  rw [e26_6]
  change raw2D w = _
  unfold raw2D
  rw [e0_8]
  change (some (Instr.lpar (fld w 21 5) (fld w 16 5) (fld w 11 5))) = _
  rw [e21_5, e16_5, e11_5]

theorem optOn (a0 a1) : Statement (.optOn a0 a1) := by
  intro w h _
  have k := (Option.some.inj h).symm
  have e26_6 : fld w 26 6 = 0x2e#6 := by rw [k]; exact hi (hi (hi BitVec.extractLsb'_eq_self))
  have e12_2 : fld w 12 2 = 0x0#2 := by rw [k]; exact low rfl
  have e21_5 : fld w 21 5 = a0 := by rw [k]; exact hi (hi own)
  have e16_5 : fld w 16 5 = a1 := by rw [k]; exact hi own
  unfold rawDecode
  rw [e26_6]
  change raw2E w = _
  unfold raw2E
  rw [e12_2]
  change (some (Instr.optOn (fld w 21 5) (fld w 16 5))) = _
  rw [e21_5, e16_5]

theorem optOff (a0) : Statement (.optOff a0) := by
  intro w h _
  have k := (Option.some.inj h).symm
  have e26_6 : fld w 26 6 = 0x2e#6 := by rw [k]; exact hi (hi BitVec.extractLsb'_eq_self)
  have e12_2 : fld w 12 2 = 0x1#2 := by rw [k]; exact low rfl
  have e21_5 : fld w 21 5 = a0 := by rw [k]; exact hi own
  unfold rawDecode
  rw [e26_6]
  change raw2E w = _
  unfold raw2E
  rw [e12_2]
  change (some (Instr.optOff (fld w 21 5))) = _
  rw [e21_5]

theorem ckpt (a0 a1 a2) : Statement (.ckpt a0 a1 a2) := by
  intro w h _
  have k := (Option.some.inj h).symm
  have e26_6 : fld w 26 6 = 0x2e#6 := by rw [k]; exact hi (hi (hi (hi BitVec.extractLsb'_eq_self)))
  have e12_2 : fld w 12 2 = 0x2#2 := by rw [k]; exact hi (low rfl)
  have e21_5 : fld w 21 5 = a0 := by rw [k]; exact hi (hi (hi own))
  have e16_5 : fld w 16 5 = a1 := by rw [k]; exact hi (hi own)
  have e0_6 : fld w 0 6 = a2 := by rw [k]; exact own
  unfold rawDecode
  rw [e26_6]
  change raw2E w = _
  unfold raw2E
  rw [e12_2]
  change (some (Instr.ckpt (fld w 21 5) (fld w 16 5) (fld w 0 6))) = _
  rw [e21_5, e16_5, e0_6]

theorem rbret : Statement (.rbret) := by
  intro w h _
  have k := (Option.some.inj h).symm
  have e26_6 : fld w 26 6 = 0x2e#6 := by rw [k]; exact hi BitVec.extractLsb'_eq_self
  have e12_2 : fld w 12 2 = 0x3#2 := by rw [k]; exact low rfl
  unfold rawDecode
  rw [e26_6]
  change raw2E w = _
  unfold raw2E
  rw [e12_2]
  change (some (Instr.rbret)) = _
  rfl

theorem capld (a0 a1) : Statement (.capld a0 a1) := by
  intro w h _
  have k := (Option.some.inj h).symm
  have e26_6 : fld w 26 6 = 0x2f#6 := by rw [k]; exact hi (hi (hi (hi BitVec.extractLsb'_eq_self)))
  have e0_7 : fld w 0 7 = 0x0#7 := by rw [k]; exact low rfl
  have e21_3 : fld w 21 3 = a0 := by rw [k]; exact hi (hi own)
  have e16_5 : fld w 16 5 = a1 := by rw [k]; exact hi own
  unfold rawDecode
  rw [e26_6]
  change raw2F w = _
  unfold raw2F
  rw [e0_7]
  change (some (Instr.capld (fld w 21 3) (fld w 16 5))) = _
  rw [e21_3, e16_5]

theorem capst (a0 a1) : Statement (.capst a0 a1) := by
  intro w h _
  have k := (Option.some.inj h).symm
  have e26_6 : fld w 26 6 = 0x2f#6 := by rw [k]; exact hi (hi (hi (hi BitVec.extractLsb'_eq_self)))
  have e0_7 : fld w 0 7 = 0x1#7 := by rw [k]; exact low rfl
  have e21_3 : fld w 21 3 = a0 := by rw [k]; exact hi (hi own)
  have e16_5 : fld w 16 5 = a1 := by rw [k]; exact hi own
  unfold rawDecode
  rw [e26_6]
  change raw2F w = _
  unfold raw2F
  rw [e0_7]
  change (some (Instr.capst (fld w 21 3) (fld w 16 5))) = _
  rw [e21_3, e16_5]

theorem capnar (a0 a1 a2) : Statement (.capnar a0 a1 a2) := by
  intro w h _
  have k := (Option.some.inj h).symm
  have e26_6 : fld w 26 6 = 0x2f#6 := by rw [k]; exact hi (hi (hi (hi (hi (hi BitVec.extractLsb'_eq_self)))))
  have e0_7 : fld w 0 7 = 0x2#7 := by rw [k]; exact low rfl
  have e21_3 : fld w 21 3 = a0 := by rw [k]; exact hi (hi (hi (hi own)))
  have e16_3 : fld w 16 3 = a1 := by rw [k]; exact hi (hi own)
  have e11_5 : fld w 11 5 = a2 := by rw [k]; exact hi own
  unfold rawDecode
  rw [e26_6]
  change raw2F w = _
  unfold raw2F
  rw [e0_7]
  change (some (Instr.capnar (fld w 21 3) (fld w 16 3) (fld w 11 5))) = _
  rw [e21_3, e16_3, e11_5]

theorem capsetCur (a0 a1 a2) : Statement (.capsetCur a0 a1 a2) := by
  intro w h _
  have k := (Option.some.inj h).symm
  have e26_6 : fld w 26 6 = 0x2f#6 := by rw [k]; exact hi (hi (hi (hi (hi (hi BitVec.extractLsb'_eq_self)))))
  have e0_7 : fld w 0 7 = 0x3#7 := by rw [k]; exact low rfl
  have e21_3 : fld w 21 3 = a0 := by rw [k]; exact hi (hi (hi (hi own)))
  have e16_3 : fld w 16 3 = a1 := by rw [k]; exact hi (hi own)
  have e11_5 : fld w 11 5 = a2 := by rw [k]; exact hi own
  unfold rawDecode
  rw [e26_6]
  change raw2F w = _
  unfold raw2F
  rw [e0_7]
  change (some (Instr.capsetCur (fld w 21 3) (fld w 16 3) (fld w 11 5))) = _
  rw [e21_3, e16_3, e11_5]

theorem capsetPerm (a0 a1 a2) : Statement (.capsetPerm a0 a1 a2) := by
  intro w h _
  have k := (Option.some.inj h).symm
  have e26_6 : fld w 26 6 = 0x2f#6 := by rw [k]; exact hi (hi (hi (hi (hi (hi BitVec.extractLsb'_eq_self)))))
  have e0_7 : fld w 0 7 = 0x13#7 := by rw [k]; exact low rfl
  have e21_3 : fld w 21 3 = a0 := by rw [k]; exact hi (hi (hi (hi own)))
  have e16_3 : fld w 16 3 = a1 := by rw [k]; exact hi (hi own)
  have e11_5 : fld w 11 5 = a2 := by rw [k]; exact hi own
  unfold rawDecode
  rw [e26_6]
  change raw2F w = _
  unfold raw2F
  rw [e0_7]
  change (some (Instr.capsetPerm (fld w 21 3) (fld w 16 3) (fld w 11 5))) = _
  rw [e21_3, e16_3, e11_5]

theorem capsetMint (a0 a1 a2) : Statement (.capsetMint a0 a1 a2) := by
  intro w h _
  have k := (Option.some.inj h).symm
  have e26_6 : fld w 26 6 = 0x2f#6 := by rw [k]; exact hi (hi (hi (hi (hi BitVec.extractLsb'_eq_self))))
  have e0_7 : fld w 0 7 = 0x23#7 := by rw [k]; exact low rfl
  have e21_3 : fld w 21 3 = a0 := by rw [k]; exact hi (hi (hi own))
  have e16_5 : fld w 16 5 = a1 := by rw [k]; exact hi (hi own)
  have e11_5 : fld w 11 5 = a2 := by rw [k]; exact hi own
  unfold rawDecode
  rw [e26_6]
  change raw2F w = _
  unfold raw2F
  rw [e0_7]
  change (some (Instr.capsetMint (fld w 21 3) (fld w 16 5) (fld w 11 5))) = _
  rw [e21_3, e16_5, e11_5]

theorem capget (a0 a1 a2) : Statement (.capget a0 a1 a2) := by
  intro w h _
  have k := (Option.some.inj h).symm
  have e26_6 : fld w 26 6 = 0x2f#6 := by rw [k]; exact hi (hi (hi (hi (hi (hi BitVec.extractLsb'_eq_self)))))
  have e0_4 : fld w 0 4 = 0x4#4 := by rw [k]; exact own
  have e4_3 : fld w 4 3 = a2 := by rw [k]; exact hi own
  have e0_7 : fld w 0 7 = a2 ++ 0x4#4 := by
    rw [← e4_3, ← e0_4]
    exact (BitVec.extractLsb'_append_extractLsb'_eq_extractLsb' (start₁ := 0) (start₂ := 4) (len₁ := 4) (len₂ := 3) rfl).symm
  have e21_5 : fld w 21 5 = a0 := by rw [k]; exact hi (hi (hi (hi (hi own))))
  have e16_3 : fld w 16 3 = a1 := by rw [k]; exact hi (hi (hi own))
  unfold rawDecode
  rw [e26_6]
  change raw2F w = _
  unfold raw2F
  rw [e0_7, e0_4, e4_3, e21_5, e16_3]
  have all : ∀ k : BitVec 3, k = 0 ∨ k = 1 ∨ k = 2 ∨ k = 3 ∨ k = 4 ∨ k = 5 ∨ k = 6 ∨ k = 7 := by decide
  rcases all a2 with rfl | rfl | rfl | rfl | rfl | rfl | rfl | rfl <;> rfl

theorem go (a0 a1) : Statement (.go a0 a1) := by
  intro w h _
  have k := (Option.some.inj h).symm
  have e26_6 : fld w 26 6 = 0x2f#6 := by rw [k]; exact hi (hi (hi BitVec.extractLsb'_eq_self))
  have e0_7 : fld w 0 7 = 0x5#7 := by rw [k]; exact low rfl
  have e21_5 : fld w 21 5 = a0 := by rw [k]; exact hi (hi own)
  have e16_5 : fld w 16 5 = a1 := by rw [k]; exact hi own
  unfold rawDecode
  rw [e26_6]
  change raw2F w = _
  unfold raw2F
  rw [e0_7]
  change (some (Instr.go (fld w 21 5) (fld w 16 5))) = _
  rw [e21_5, e16_5]

theorem home : Statement (.home) := by
  intro w h _
  have k := (Option.some.inj h).symm
  have e26_6 : fld w 26 6 = 0x2f#6 := by rw [k]; exact hi BitVec.extractLsb'_eq_self
  have e0_7 : fld w 0 7 = 0x6#7 := by rw [k]; exact low rfl
  unfold rawDecode
  rw [e26_6]
  change raw2F w = _
  unfold raw2F
  rw [e0_7]
  change (some (Instr.home)) = _
  rfl

theorem rld (a0 a1 a2 a3 a4 a5) : Statement (.rld a0 a1 a2 a3 a4 a5) := by
  intro w h _
  have k := (Option.some.inj h).symm
  have e26_6 : fld w 26 6 = 0x30#6 := by rw [k]; exact hi (hi (hi (hi (hi (hi BitVec.extractLsb'_eq_self)))))
  have e21_5 : fld w 21 5 = a0 := by rw [k]; exact hi (hi (hi (hi (hi own))))
  have e18_3 : fld w 18 3 = a1 := by rw [k]; exact hi (hi (hi (hi own)))
  have e16_2 : fld w 16 2 = a2 := by rw [k]; exact hi (hi (hi own))
  have e14_2 : fld w 14 2 = a3 := by rw [k]; exact hi (hi own)
  have e12_2 : fld w 12 2 = a4 := by rw [k]; exact hi own
  have e0_12 : fld w 0 12 = a5 := by rw [k]; exact own
  unfold rawDecode
  rw [e26_6]
  change (some (Instr.rld (fld w 21 5) (fld w 18 3) (fld w 16 2) (fld w 14 2) (fld w 12 2) (fld w 0 12))) = _
  rw [e21_5, e18_3, e16_2, e14_2, e12_2, e0_12]

theorem rst (a0 a1 a2 a3 a4 a5) : Statement (.rst a0 a1 a2 a3 a4 a5) := by
  intro w h _
  have k := (Option.some.inj h).symm
  have e26_6 : fld w 26 6 = 0x31#6 := by rw [k]; exact hi (hi (hi (hi (hi (hi BitVec.extractLsb'_eq_self)))))
  have e21_5 : fld w 21 5 = a0 := by rw [k]; exact hi (hi (hi (hi (hi own))))
  have e18_3 : fld w 18 3 = a1 := by rw [k]; exact hi (hi (hi (hi own)))
  have e16_2 : fld w 16 2 = a2 := by rw [k]; exact hi (hi (hi own))
  have e14_2 : fld w 14 2 = a3 := by rw [k]; exact hi (hi own)
  have e12_2 : fld w 12 2 = a4 := by rw [k]; exact hi own
  have e0_12 : fld w 0 12 = a5 := by rw [k]; exact own
  unfold rawDecode
  rw [e26_6]
  change (some (Instr.rst (fld w 21 5) (fld w 18 3) (fld w 16 2) (fld w 14 2) (fld w 12 2) (fld w 0 12))) = _
  rw [e21_5, e18_3, e16_2, e14_2, e12_2, e0_12]

theorem ramoAdd (a0 a1 a2 a3 a4 a5) : Statement (.ramoAdd a0 a1 a2 a3 a4 a5) := by
  intro w h _
  have k := (Option.some.inj h).symm
  have e26_6 : fld w 26 6 = 0x32#6 := by rw [k]; exact hi (hi (hi (hi (hi (hi (hi (hi (hi BitVec.extractLsb'_eq_self))))))))
  have e0_3 : fld w 0 3 = 0x0#3 := by rw [k]; exact own
  have e21_5 : fld w 21 5 = a0 := by rw [k]; exact hi (hi (hi (hi (hi (hi (hi (hi own)))))))
  have e16_3 : fld w 16 3 = a1 := by rw [k]; exact hi (hi (hi (hi (hi (hi own)))))
  have e11_5 : fld w 11 5 = a2 := by rw [k]; exact hi (hi (hi (hi (hi own))))
  have e6_2 : fld w 6 2 = a3 := by rw [k]; exact hi (hi (hi own))
  have e5_1 : fld w 5 1 = a4 := by rw [k]; exact hi (hi own)
  have e3_2 : fld w 3 2 = a5 := by rw [k]; exact hi own
  unfold rawDecode
  rw [e26_6]
  change raw32 w = _
  unfold raw32
  rw [e0_3]
  change (some (Instr.ramoAdd (fld w 21 5) (fld w 16 3) (fld w 11 5) (fld w 6 2) (fld w 5 1) (fld w 3 2))) = _
  rw [e21_5, e16_3, e11_5, e6_2, e5_1, e3_2]

theorem ramoMin (a0 a1 a2 a3 a4 a5) : Statement (.ramoMin a0 a1 a2 a3 a4 a5) := by
  intro w h _
  have k := (Option.some.inj h).symm
  have e26_6 : fld w 26 6 = 0x32#6 := by rw [k]; exact hi (hi (hi (hi (hi (hi (hi (hi (hi BitVec.extractLsb'_eq_self))))))))
  have e0_3 : fld w 0 3 = 0x1#3 := by rw [k]; exact own
  have e21_5 : fld w 21 5 = a0 := by rw [k]; exact hi (hi (hi (hi (hi (hi (hi (hi own)))))))
  have e16_3 : fld w 16 3 = a1 := by rw [k]; exact hi (hi (hi (hi (hi (hi own)))))
  have e11_5 : fld w 11 5 = a2 := by rw [k]; exact hi (hi (hi (hi (hi own))))
  have e6_2 : fld w 6 2 = a3 := by rw [k]; exact hi (hi (hi own))
  have e5_1 : fld w 5 1 = a4 := by rw [k]; exact hi (hi own)
  have e3_2 : fld w 3 2 = a5 := by rw [k]; exact hi own
  unfold rawDecode
  rw [e26_6]
  change raw32 w = _
  unfold raw32
  rw [e0_3]
  change (some (Instr.ramoMin (fld w 21 5) (fld w 16 3) (fld w 11 5) (fld w 6 2) (fld w 5 1) (fld w 3 2))) = _
  rw [e21_5, e16_3, e11_5, e6_2, e5_1, e3_2]

theorem ramoMax (a0 a1 a2 a3 a4 a5) : Statement (.ramoMax a0 a1 a2 a3 a4 a5) := by
  intro w h _
  have k := (Option.some.inj h).symm
  have e26_6 : fld w 26 6 = 0x32#6 := by rw [k]; exact hi (hi (hi (hi (hi (hi (hi (hi (hi BitVec.extractLsb'_eq_self))))))))
  have e0_3 : fld w 0 3 = 0x2#3 := by rw [k]; exact own
  have e21_5 : fld w 21 5 = a0 := by rw [k]; exact hi (hi (hi (hi (hi (hi (hi (hi own)))))))
  have e16_3 : fld w 16 3 = a1 := by rw [k]; exact hi (hi (hi (hi (hi (hi own)))))
  have e11_5 : fld w 11 5 = a2 := by rw [k]; exact hi (hi (hi (hi (hi own))))
  have e6_2 : fld w 6 2 = a3 := by rw [k]; exact hi (hi (hi own))
  have e5_1 : fld w 5 1 = a4 := by rw [k]; exact hi (hi own)
  have e3_2 : fld w 3 2 = a5 := by rw [k]; exact hi own
  unfold rawDecode
  rw [e26_6]
  change raw32 w = _
  unfold raw32
  rw [e0_3]
  change (some (Instr.ramoMax (fld w 21 5) (fld w 16 3) (fld w 11 5) (fld w 6 2) (fld w 5 1) (fld w 3 2))) = _
  rw [e21_5, e16_3, e11_5, e6_2, e5_1, e3_2]

theorem ramoAnd (a0 a1 a2 a3 a4 a5) : Statement (.ramoAnd a0 a1 a2 a3 a4 a5) := by
  intro w h _
  have k := (Option.some.inj h).symm
  have e26_6 : fld w 26 6 = 0x32#6 := by rw [k]; exact hi (hi (hi (hi (hi (hi (hi (hi (hi BitVec.extractLsb'_eq_self))))))))
  have e0_3 : fld w 0 3 = 0x3#3 := by rw [k]; exact own
  have e21_5 : fld w 21 5 = a0 := by rw [k]; exact hi (hi (hi (hi (hi (hi (hi (hi own)))))))
  have e16_3 : fld w 16 3 = a1 := by rw [k]; exact hi (hi (hi (hi (hi (hi own)))))
  have e11_5 : fld w 11 5 = a2 := by rw [k]; exact hi (hi (hi (hi (hi own))))
  have e6_2 : fld w 6 2 = a3 := by rw [k]; exact hi (hi (hi own))
  have e5_1 : fld w 5 1 = a4 := by rw [k]; exact hi (hi own)
  have e3_2 : fld w 3 2 = a5 := by rw [k]; exact hi own
  unfold rawDecode
  rw [e26_6]
  change raw32 w = _
  unfold raw32
  rw [e0_3]
  change (some (Instr.ramoAnd (fld w 21 5) (fld w 16 3) (fld w 11 5) (fld w 6 2) (fld w 5 1) (fld w 3 2))) = _
  rw [e21_5, e16_3, e11_5, e6_2, e5_1, e3_2]

theorem ramoOr (a0 a1 a2 a3 a4 a5) : Statement (.ramoOr a0 a1 a2 a3 a4 a5) := by
  intro w h _
  have k := (Option.some.inj h).symm
  have e26_6 : fld w 26 6 = 0x32#6 := by rw [k]; exact hi (hi (hi (hi (hi (hi (hi (hi (hi BitVec.extractLsb'_eq_self))))))))
  have e0_3 : fld w 0 3 = 0x4#3 := by rw [k]; exact own
  have e21_5 : fld w 21 5 = a0 := by rw [k]; exact hi (hi (hi (hi (hi (hi (hi (hi own)))))))
  have e16_3 : fld w 16 3 = a1 := by rw [k]; exact hi (hi (hi (hi (hi (hi own)))))
  have e11_5 : fld w 11 5 = a2 := by rw [k]; exact hi (hi (hi (hi (hi own))))
  have e6_2 : fld w 6 2 = a3 := by rw [k]; exact hi (hi (hi own))
  have e5_1 : fld w 5 1 = a4 := by rw [k]; exact hi (hi own)
  have e3_2 : fld w 3 2 = a5 := by rw [k]; exact hi own
  unfold rawDecode
  rw [e26_6]
  change raw32 w = _
  unfold raw32
  rw [e0_3]
  change (some (Instr.ramoOr (fld w 21 5) (fld w 16 3) (fld w 11 5) (fld w 6 2) (fld w 5 1) (fld w 3 2))) = _
  rw [e21_5, e16_3, e11_5, e6_2, e5_1, e3_2]

theorem ramoXor (a0 a1 a2 a3 a4 a5) : Statement (.ramoXor a0 a1 a2 a3 a4 a5) := by
  intro w h _
  have k := (Option.some.inj h).symm
  have e26_6 : fld w 26 6 = 0x32#6 := by rw [k]; exact hi (hi (hi (hi (hi (hi (hi (hi (hi BitVec.extractLsb'_eq_self))))))))
  have e0_3 : fld w 0 3 = 0x5#3 := by rw [k]; exact own
  have e21_5 : fld w 21 5 = a0 := by rw [k]; exact hi (hi (hi (hi (hi (hi (hi (hi own)))))))
  have e16_3 : fld w 16 3 = a1 := by rw [k]; exact hi (hi (hi (hi (hi (hi own)))))
  have e11_5 : fld w 11 5 = a2 := by rw [k]; exact hi (hi (hi (hi (hi own))))
  have e6_2 : fld w 6 2 = a3 := by rw [k]; exact hi (hi (hi own))
  have e5_1 : fld w 5 1 = a4 := by rw [k]; exact hi (hi own)
  have e3_2 : fld w 3 2 = a5 := by rw [k]; exact hi own
  unfold rawDecode
  rw [e26_6]
  change raw32 w = _
  unfold raw32
  rw [e0_3]
  change (some (Instr.ramoXor (fld w 21 5) (fld w 16 3) (fld w 11 5) (fld w 6 2) (fld w 5 1) (fld w 3 2))) = _
  rw [e21_5, e16_3, e11_5, e6_2, e5_1, e3_2]

theorem ramoSwp (a0 a1 a2 a3 a4) : Statement (.ramoSwp a0 a1 a2 a3 a4) := by
  intro w h _
  have k := (Option.some.inj h).symm
  have e26_6 : fld w 26 6 = 0x32#6 := by rw [k]; exact hi (hi (hi (hi (hi (hi (hi (hi (hi BitVec.extractLsb'_eq_self))))))))
  have e0_3 : fld w 0 3 = 0x6#3 := by rw [k]; exact own
  have e21_5 : fld w 21 5 = a0 := by rw [k]; exact hi (hi (hi (hi (hi (hi (hi (hi own)))))))
  have e16_3 : fld w 16 3 = a1 := by rw [k]; exact hi (hi (hi (hi (hi (hi own)))))
  have e11_5 : fld w 11 5 = a2 := by rw [k]; exact hi (hi (hi (hi (hi own))))
  have e6_2 : fld w 6 2 = a3 := by rw [k]; exact hi (hi (hi own))
  have e3_2 : fld w 3 2 = a4 := by rw [k]; exact hi own
  unfold rawDecode
  rw [e26_6]
  change raw32 w = _
  unfold raw32
  rw [e0_3]
  change (some (Instr.ramoSwp (fld w 21 5) (fld w 16 3) (fld w 11 5) (fld w 6 2) (fld w 3 2))) = _
  rw [e21_5, e16_3, e11_5, e6_2, e3_2]

theorem ramoCas (a0 a1 a2 a3 a4) : Statement (.ramoCas a0 a1 a2 a3 a4) := by
  intro w h _
  have k := (Option.some.inj h).symm
  have e26_6 : fld w 26 6 = 0x32#6 := by rw [k]; exact hi (hi (hi (hi (hi (hi (hi (hi (hi BitVec.extractLsb'_eq_self))))))))
  have e0_3 : fld w 0 3 = 0x7#3 := by rw [k]; exact own
  have e21_5 : fld w 21 5 = a0 := by rw [k]; exact hi (hi (hi (hi (hi (hi (hi (hi own)))))))
  have e16_3 : fld w 16 3 = a1 := by rw [k]; exact hi (hi (hi (hi (hi (hi own)))))
  have e11_5 : fld w 11 5 = a2 := by rw [k]; exact hi (hi (hi (hi (hi own))))
  have e6_2 : fld w 6 2 = a3 := by rw [k]; exact hi (hi (hi own))
  have e3_2 : fld w 3 2 = a4 := by rw [k]; exact hi own
  unfold rawDecode
  rw [e26_6]
  change raw32 w = _
  unfold raw32
  rw [e0_3]
  change (some (Instr.ramoCas (fld w 21 5) (fld w 16 3) (fld w 11 5) (fld w 6 2) (fld w 3 2))) = _
  rw [e21_5, e16_3, e11_5, e6_2, e3_2]

theorem csrr (a0 a1) : Statement (.csrr a0 a1) := by
  intro w h _
  have k := (Option.some.inj h).symm
  have e26_6 : fld w 26 6 = 0x38#6 := by rw [k]; exact hi (hi (hi BitVec.extractLsb'_eq_self))
  have e12_4 : fld w 12 4 = 0x0#4 := by rw [k]; exact hi (low rfl)
  have e21_5 : fld w 21 5 = a0 := by rw [k]; exact hi (hi own)
  have e0_12 : fld w 0 12 = a1 := by rw [k]; exact own
  unfold rawDecode
  rw [e26_6]
  change raw38 w = _
  unfold raw38
  rw [e12_4]
  change (some (Instr.csrr (fld w 21 5) (fld w 0 12))) = _
  rw [e21_5, e0_12]

theorem csrw (a0 a1 a2) : Statement (.csrw a0 a1 a2) := by
  intro w h _
  have k := (Option.some.inj h).symm
  have e26_6 : fld w 26 6 = 0x38#6 := by rw [k]; exact hi (hi (hi (hi BitVec.extractLsb'_eq_self)))
  have e12_4 : fld w 12 4 = 0x1#4 := by rw [k]; exact hi own
  have e21_5 : fld w 21 5 = a0 := by rw [k]; exact hi (hi (hi own))
  have e16_5 : fld w 16 5 = a1 := by rw [k]; exact hi (hi own)
  have e0_12 : fld w 0 12 = a2 := by rw [k]; exact own
  unfold rawDecode
  rw [e26_6]
  change raw38 w = _
  unfold raw38
  rw [e12_4]
  change (some (Instr.csrw (fld w 21 5) (fld w 16 5) (fld w 0 12))) = _
  rw [e21_5, e16_5, e0_12]

theorem csrs (a0 a1 a2) : Statement (.csrs a0 a1 a2) := by
  intro w h _
  have k := (Option.some.inj h).symm
  have e26_6 : fld w 26 6 = 0x38#6 := by rw [k]; exact hi (hi (hi (hi BitVec.extractLsb'_eq_self)))
  have e12_4 : fld w 12 4 = 0x2#4 := by rw [k]; exact hi own
  have e21_5 : fld w 21 5 = a0 := by rw [k]; exact hi (hi (hi own))
  have e16_5 : fld w 16 5 = a1 := by rw [k]; exact hi (hi own)
  have e0_12 : fld w 0 12 = a2 := by rw [k]; exact own
  unfold rawDecode
  rw [e26_6]
  change raw38 w = _
  unfold raw38
  rw [e12_4]
  change (some (Instr.csrs (fld w 21 5) (fld w 16 5) (fld w 0 12))) = _
  rw [e21_5, e16_5, e0_12]

theorem csrc (a0 a1 a2) : Statement (.csrc a0 a1 a2) := by
  intro w h _
  have k := (Option.some.inj h).symm
  have e26_6 : fld w 26 6 = 0x38#6 := by rw [k]; exact hi (hi (hi (hi BitVec.extractLsb'_eq_self)))
  have e12_4 : fld w 12 4 = 0x3#4 := by rw [k]; exact hi own
  have e21_5 : fld w 21 5 = a0 := by rw [k]; exact hi (hi (hi own))
  have e16_5 : fld w 16 5 = a1 := by rw [k]; exact hi (hi own)
  have e0_12 : fld w 0 12 = a2 := by rw [k]; exact own
  unfold rawDecode
  rw [e26_6]
  change raw38 w = _
  unfold raw38
  rw [e12_4]
  change (some (Instr.csrc (fld w 21 5) (fld w 16 5) (fld w 0 12))) = _
  rw [e21_5, e16_5, e0_12]

theorem trap (a0) : Statement (.trap a0) := by
  intro w h _
  have k := (Option.some.inj h).symm
  have e26_6 : fld w 26 6 = 0x38#6 := by rw [k]; exact hi (hi BitVec.extractLsb'_eq_self)
  have e12_4 : fld w 12 4 = 0x4#4 := by rw [k]; exact hi (low rfl)
  have e0_12 : fld w 0 12 = a0 := by rw [k]; exact own
  unfold rawDecode
  rw [e26_6]
  change raw38 w = _
  unfold raw38
  rw [e12_4]
  change (some (Instr.trap (fld w 0 12))) = _
  rw [e0_12]

theorem eret : Statement (.eret) := by
  intro w h _
  have k := (Option.some.inj h).symm
  have e26_6 : fld w 26 6 = 0x38#6 := by rw [k]; exact hi BitVec.extractLsb'_eq_self
  have e12_4 : fld w 12 4 = 0x5#4 := by rw [k]; exact low rfl
  unfold rawDecode
  rw [e26_6]
  change raw38 w = _
  unfold raw38
  rw [e12_4]
  change (some (Instr.eret)) = _
  rfl

theorem halt : Statement (.halt) := by
  intro w h _
  have k := (Option.some.inj h).symm
  have e26_6 : fld w 26 6 = 0x38#6 := by rw [k]; exact hi BitVec.extractLsb'_eq_self
  have e12_4 : fld w 12 4 = 0x6#4 := by rw [k]; exact low rfl
  unfold rawDecode
  rw [e26_6]
  change raw38 w = _
  unfold raw38
  rw [e12_4]
  change (some (Instr.halt)) = _
  rfl

theorem yield : Statement (.yield) := by
  intro w h _
  have k := (Option.some.inj h).symm
  have e26_6 : fld w 26 6 = 0x38#6 := by rw [k]; exact hi BitVec.extractLsb'_eq_self
  have e12_4 : fld w 12 4 = 0x7#4 := by rw [k]; exact low rfl
  unfold rawDecode
  rw [e26_6]
  change raw38 w = _
  unfold raw38
  rw [e12_4]
  change (some (Instr.yield)) = _
  rfl

theorem idle (a0 a1) : Statement (.idle a0 a1) := by
  intro w h _
  have k := (Option.some.inj h).symm
  have e26_6 : fld w 26 6 = 0x38#6 := by rw [k]; exact hi (hi (hi BitVec.extractLsb'_eq_self))
  have e12_4 : fld w 12 4 = 0x8#4 := by rw [k]; exact low rfl
  have e21_5 : fld w 21 5 = a0 := by rw [k]; exact hi (hi own)
  have e16_5 : fld w 16 5 = a1 := by rw [k]; exact hi own
  unfold rawDecode
  rw [e26_6]
  change raw38 w = _
  unfold raw38
  rw [e12_4]
  change (some (Instr.idle (fld w 21 5) (fld w 16 5))) = _
  rw [e21_5, e16_5]

theorem spawn (a0 a1 a2) : Statement (.spawn a0 a1 a2) := by
  intro w h _
  have k := (Option.some.inj h).symm
  have e26_6 : fld w 26 6 = 0x38#6 := by rw [k]; exact hi (hi (hi (hi BitVec.extractLsb'_eq_self)))
  have e12_4 : fld w 12 4 = 0x9#4 := by rw [k]; exact hi (low rfl)
  have e21_5 : fld w 21 5 = a0 := by rw [k]; exact hi (hi (hi own))
  have e16_5 : fld w 16 5 = a1 := by rw [k]; exact hi (hi own)
  have e0_5 : fld w 0 5 = a2 := by rw [k]; exact own
  unfold rawDecode
  rw [e26_6]
  change raw38 w = _
  unfold raw38
  rw [e12_4]
  change (some (Instr.spawn (fld w 21 5) (fld w 16 5) (fld w 0 5))) = _
  rw [e21_5, e16_5, e0_5]

theorem brk (a0) : Statement (.brk a0) := by
  intro w h _
  have k := (Option.some.inj h).symm
  have e26_6 : fld w 26 6 = 0x38#6 := by rw [k]; exact hi (hi BitVec.extractLsb'_eq_self)
  have e12_4 : fld w 12 4 = 0xa#4 := by rw [k]; exact hi (low rfl)
  have e0_12 : fld w 0 12 = a0 := by rw [k]; exact own
  unfold rawDecode
  rw [e26_6]
  change raw38 w = _
  unfold raw38
  rw [e12_4]
  change (some (Instr.brk (fld w 0 12))) = _
  rw [e0_12]

theorem budx (a0 a1) : Statement (.budx a0 a1) := by
  intro w h _
  have k := (Option.some.inj h).symm
  have e26_6 : fld w 26 6 = 0x39#6 := by rw [k]; exact hi (hi (hi BitVec.extractLsb'_eq_self))
  have e12_1 : fld w 12 1 = 0x0#1 := by rw [k]; exact low rfl
  have e21_5 : fld w 21 5 = a0 := by rw [k]; exact hi (hi own)
  have e16_5 : fld w 16 5 = a1 := by rw [k]; exact hi own
  unfold rawDecode
  rw [e26_6]
  change raw39 w = _
  unfold raw39
  rw [e12_1]
  change (some (Instr.budx (fld w 21 5) (fld w 16 5))) = _
  rw [e21_5, e16_5]

theorem bget (a0 a1) : Statement (.bget a0 a1) := by
  intro w h _
  have k := (Option.some.inj h).symm
  have e26_6 : fld w 26 6 = 0x39#6 := by rw [k]; exact hi (hi (hi BitVec.extractLsb'_eq_self))
  have e12_1 : fld w 12 1 = 0x1#1 := by rw [k]; exact hi (low rfl)
  have e21_5 : fld w 21 5 = a0 := by rw [k]; exact hi (hi own)
  have e0_2 : fld w 0 2 = a1 := by rw [k]; exact own
  unfold rawDecode
  rw [e26_6]
  change raw39 w = _
  unfold raw39
  rw [e12_1]
  change (some (Instr.bget (fld w 21 5) (fld w 0 2))) = _
  rw [e21_5, e0_2]

theorem rotationChangeWrite (a0 a1) : Statement (.rotationChangeWrite a0 a1) := noWord rfl

theorem rotationBoundary (a0) : Statement (.rotationBoundary a0) := noWord rfl

theorem splitChangeWrite (a0 a1) : Statement (.splitChangeWrite a0 a1) := noWord rfl

theorem splitChangeDone (a0) : Statement (.splitChangeDone a0) := noWord rfl

theorem sprfClear (a0) : Statement (.sprfClear a0) := noWord rfl

theorem registerWrite (a0 a1 a2) : Statement (.registerWrite a0 a1 a2) := noWord rfl

theorem homeTickStep (a0) : Statement (.homeTickStep a0) := noWord rfl

theorem leaseExpiry (a0) : Statement (.leaseExpiry a0) := noWord rfl

theorem lapseNotice (a0) : Statement (.lapseNotice a0) := noWord rfl

theorem leaseRequestArrival (a0) : Statement (.leaseRequestArrival a0) := noWord rfl

theorem grantReplyDelivery (a0) : Statement (.grantReplyDelivery a0) := noWord rfl

theorem llkTimeout (a0) : Statement (.llkTimeout a0) := noWord rfl

theorem lockDrain (a0) : Statement (.lockDrain a0) := noWord rfl

theorem lockGrant (a0) : Statement (.lockGrant a0) := noWord rfl

theorem guardNotice (a0) : Statement (.guardNotice a0) := noWord rfl

theorem lapsingEnd (a0) : Statement (.lapsingEnd a0) := noWord rfl

theorem scrubJobComplete (a0) : Statement (.scrubJobComplete a0) := noWord rfl

theorem cacheSweep (a0 a1) : Statement (.cacheSweep a0 a1) := noWord rfl

theorem homeAccessArrival (a0) : Statement (.homeAccessArrival a0) := noWord rfl

theorem accessReply (a0) : Statement (.accessReply a0) := noWord rfl

theorem postedAck (a0) : Statement (.postedAck a0) := noWord rfl

theorem postedRefusalReport (a0) : Statement (.postedRefusalReport a0) := noWord rfl

theorem feBackoffRetry (a0) : Statement (.feBackoffRetry a0) := noWord rfl

theorem parkedWake (a0) : Statement (.parkedWake a0) := noWord rfl

theorem idleWake (a0) : Statement (.idleWake a0) := noWord rfl

theorem barrierArrival (a0) : Statement (.barrierArrival a0) := noWord rfl

theorem barrierDeclaration (a0) : Statement (.barrierDeclaration a0) := noWord rfl

theorem barrierByteReport (a0) : Statement (.barrierByteReport a0) := noWord rfl

theorem l1ReadLeaseEnd (a0 a1) : Statement (.l1ReadLeaseEnd a0 a1) := noWord rfl

theorem dirtyLineTimeout (a0 a1) : Statement (.dirtyLineTimeout a0 a1) := noWord rfl

theorem l1Eviction (a0 a1) : Statement (.l1Eviction a0 a1) := noWord rfl

theorem l1Writeback (a0 a1) : Statement (.l1Writeback a0 a1) := noWord rfl

theorem l2Eviction (a0 a1) : Statement (.l2Eviction a0 a1) := noWord rfl

theorem l2Fill (a0 a1) : Statement (.l2Fill a0 a1) := noWord rfl

theorem dramWriteback (a0 a1) : Statement (.dramWriteback a0 a1) := noWord rfl

theorem stagehandTakeRequest (a0) : Statement (.stagehandTakeRequest a0) := noWord rfl

theorem copyStep (a0 a1) : Statement (.copyStep a0 a1) := noWord rfl

theorem copyStepLanded (a0 a1 a2) : Statement (.copyStepLanded a0 a1 a2) := noWord rfl

theorem copyStepRefusal (a0 a1 a2 a3 a4) : Statement (.copyStepRefusal a0 a1 a2 a3 a4) := noWord rfl

theorem copyPassEnd (a0 a1) : Statement (.copyPassEnd a0 a1) := noWord rfl

theorem copyReplayTimer (a0 a1) : Statement (.copyReplayTimer a0 a1) := noWord rfl

theorem copyRetire (a0 a1) : Statement (.copyRetire a0 a1) := noWord rfl

theorem cprChunkRead (a0 a1) : Statement (.cprChunkRead a0 a1) := noWord rfl

theorem cprElementAck (a0 a1 a2) : Statement (.cprElementAck a0 a1 a2) := noWord rfl

theorem engineOpStart (a0 a1) : Statement (.engineOpStart a0 a1) := noWord rfl

theorem engineOpRetire (a0 a1) : Statement (.engineOpRetire a0 a1) := noWord rfl

theorem matrixCommand (a0) : Statement (.matrixCommand a0) := noWord rfl

theorem mrotSendBegin (a0) : Statement (.mrotSendBegin a0) := noWord rfl

theorem latchTransferEnd (a0) : Statement (.latchTransferEnd a0) := noWord rfl

theorem latchSwap (a0) : Statement (.latchSwap a0) := noWord rfl

theorem messageArrival (a0) : Statement (.messageArrival a0) := noWord rfl

theorem antiMessageArrival (a0) : Statement (.antiMessageArrival a0) := noWord rfl

theorem fabricHeldMessageAccept (a0) : Statement (.fabricHeldMessageAccept a0) := noWord rfl

theorem rollbackSequence (a0) : Statement (.rollbackSequence a0) := noWord rfl

theorem rollbackRequeueResume (a0) : Statement (.rollbackRequeueResume a0) := noWord rfl

theorem gvtRoundStart (a0) : Statement (.gvtRoundStart a0) := noWord rfl

theorem gvtCut (a0 a1) : Statement (.gvtCut a0 a1) := noWord rfl

theorem gvtReport (a0 a1) : Statement (.gvtReport a0 a1) := noWord rfl

theorem gvtReportResult (a0) : Statement (.gvtReportResult a0) := noWord rfl

theorem gvtReportRetry (a0) : Statement (.gvtReportRetry a0) := noWord rfl

theorem gvtPublication (a0 a1) : Statement (.gvtPublication a0 a1) := noWord rfl

theorem deferredEntryPerform (a0 a1) : Statement (.deferredEntryPerform a0 a1) := noWord rfl

theorem groupLapseTrap (a0) : Statement (.groupLapseTrap a0) := noWord rfl

theorem budgetTrap (a0) : Statement (.budgetTrap a0) := noWord rfl

theorem chargeBatchSend (a0 a1) : Statement (.chargeBatchSend a0 a1) := noWord rfl

theorem chargeApply (a0) : Statement (.chargeApply a0) := noWord rfl

theorem graceCountExhausted (a0) : Statement (.graceCountExhausted a0) := noWord rfl

theorem budRefresh (a0 a1) : Statement (.budRefresh a0 a1) := noWord rfl

theorem budxRequest (a0) : Statement (.budxRequest a0) := noWord rfl

theorem bgetRequest (a0) : Statement (.bgetRequest a0) := noWord rfl

theorem qtailWrite (a0 a1 a2) : Statement (.qtailWrite a0 a1 a2) := noWord rfl

theorem qbaseWrite (a0 a1 a2) : Statement (.qbaseWrite a0 a1 a2) := noWord rfl

theorem queueEntryTest (a0 a1) : Statement (.queueEntryTest a0 a1) := noWord rfl

theorem slotAssignment (a0) : Statement (.slotAssignment a0) := noWord rfl

theorem cellPlacement (a0 a1) : Statement (.cellPlacement a0 a1) := noWord rfl

theorem preemptionRequest (a0) : Statement (.preemptionRequest a0) := noWord rfl

theorem vacatePoint (a0) : Statement (.vacatePoint a0) := noWord rfl

theorem contextRestore (a0) : Statement (.contextRestore a0) := noWord rfl

theorem savedContextEvent (a0 a1) : Statement (.savedContextEvent a0 a1) := noWord rfl

theorem sabaseWrite (a0 a1 a2) : Statement (.sabaseWrite a0 a1 a2) := noWord rfl

theorem faultReport (a0) : Statement (.faultReport a0) := noWord rfl

theorem fqbaseWrite (a0 a1) : Statement (.fqbaseWrite a0 a1) := noWord rfl

theorem fqlostRead (a0) : Statement (.fqlostRead a0) := noWord rfl

theorem statisticsBlockRead (a0 a1) : Statement (.statisticsBlockRead a0 a1) := noWord rfl

theorem errcntRead (a0) : Statement (.errcntRead a0) := noWord rfl

theorem pmoveWrite (a0 a1) : Statement (.pmoveWrite a0 a1) := noWord rfl

theorem quiescePoint (a0) : Statement (.quiescePoint a0) := noWord rfl

theorem fabricRequestAtSwitch (a0) : Statement (.fabricRequestAtSwitch a0) := noWord rfl

theorem combinedReplySplit (a0) : Statement (.combinedReplySplit a0) := noWord rfl

theorem remoteUpdateThread (a0) : Statement (.remoteUpdateThread a0) := noWord rfl

theorem migrationReturn (a0) : Statement (.migrationReturn a0) := noWord rfl

theorem deliveryFrameArrival (a0 a1) : Statement (.deliveryFrameArrival a0 a1) := noWord rfl

theorem deliveryReplyArrival (a0 a1 a2 a3) : Statement (.deliveryReplyArrival a0 a1 a2 a3) := noWord rfl

theorem retransmitTimer (a0 a1) : Statement (.retransmitTimer a0 a1) := noWord rfl

theorem retransmitExhausted (a0 a1) : Statement (.retransmitExhausted a0 a1) := noWord rfl

theorem deliveryContextQuiet (a0) : Statement (.deliveryContextQuiet a0) := noWord rfl

theorem ptcmdRoot (a0 a1) : Statement (.ptcmdRoot a0 a1) := noWord rfl

theorem ptcmdRing (a0 a1 a2) : Statement (.ptcmdRing a0 a1 a2) := noWord rfl

theorem ptcmdSlice (a0 a1 a2) : Statement (.ptcmdSlice a0 a1 a2) := noWord rfl

theorem ptcmdChannelGroup (a0 a1 a2) : Statement (.ptcmdChannelGroup a0 a1 a2) := noWord rfl

theorem ptcmdShare (a0 a1 a2) : Statement (.ptcmdShare a0 a1 a2) := noWord rfl

theorem ptcmdKeySlot (a0 a1 a2) : Statement (.ptcmdKeySlot a0 a1 a2) := noWord rfl

theorem ptcmdReservedOp (a0 a1) : Statement (.ptcmdReservedOp a0 a1) := noWord rfl

theorem ptcmdApplied (a0) : Statement (.ptcmdApplied a0) := noWord rfl

theorem mqpolWrite (a0 a1 a2) : Statement (.mqpolWrite a0 a1 a2) := noWord rfl

theorem debugResume (a0 a1 a2) : Statement (.debugResume a0 a1 a2) := noWord rfl

theorem debugCommandIgnored (a0 a1) : Statement (.debugCommandIgnored a0 a1) := noWord rfl

theorem retireDramRow (a0 a1 a2 a3) : Statement (.retireDramRow a0 a1 a2 a3) := noWord rfl

theorem retireRing (a0 a1) : Statement (.retireRing a0 a1) := noWord rfl

theorem retirementDone (a0) : Statement (.retirementDone a0) := noWord rfl

theorem functionLevelReset (a0) : Statement (.functionLevelReset a0) := noWord rfl

theorem flrHoldEnd (a0) : Statement (.flrHoldEnd a0) := noWord rfl

theorem moduleReset : Statement (.moduleReset) := noWord rfl

theorem powerOn : Statement (.powerOn) := noWord rfl

theorem imageCheck : Statement (.imageCheck) := noWord rfl

theorem dramCalibration (a0) : Statement (.dramCalibration a0) := noWord rfl

theorem dieLinkTraining (a0) : Statement (.dieLinkTraining a0) := noWord rfl

theorem pcieTraining (a0 a1 a2) : Statement (.pcieTraining a0 a1 a2) := noWord rfl

theorem cxlNegotiation (a0) : Statement (.cxlNegotiation a0) := noWord rfl

theorem ethernetAutoneg (a0) : Statement (.ethernetAutoneg a0) := noWord rfl

theorem hostConfigRequest (a0) : Statement (.hostConfigRequest a0) := noWord rfl

theorem hostMemoryAccess (a0 a1 a2) : Statement (.hostMemoryAccess a0 a1 a2) := noWord rfl

theorem smbusReadBstat : Statement (.smbusReadBstat) := noWord rfl

theorem smbusReadResetCount : Statement (.smbusReadResetCount) := noWord rfl

theorem smbusOtherCommand (a0) : Statement (.smbusOtherCommand a0) := noWord rfl

theorem attestationRequest (a0) : Statement (.attestationRequest a0) := noWord rfl

theorem illegalInstructionWord (a0) : Statement (.illegalInstructionWord a0) := noWord rfl

theorem instructionFetchFault (a0) : Statement (.instructionFetchFault a0) := noWord rfl

theorem llkRequestArrival (a0) : Statement (.llkRequestArrival a0) := noWord rfl

theorem leaseReplyArrival (a0) : Statement (.leaseReplyArrival a0) := noWord rfl

theorem budgetReplyArrival (a0) : Statement (.budgetReplyArrival a0) := noWord rfl

theorem softError (a0 a1) : Statement (.softError a0 a1) := noWord rfl

theorem powerLoss : Statement (.powerLoss) := noWord rfl

theorem portLinkDown (a0) : Statement (.portLinkDown a0) := noWord rfl

theorem portLinkUp (a0) : Statement (.portLinkUp a0) := noWord rfl

theorem frameSecondMapping (a0 a1 a2 a3) : Statement (.frameSecondMapping a0 a1 a2 a3) := noWord rfl

end Sys2Proof.Laws.WordReadsBack
end

