-- ==== Sys2Proof/Tests/Slice0.lean ====
section
/-! SUPPORT. Small tests: ill-formed terms that the check refuses, words that the decoder reads, steps whose results the manual
states, and a state and operands that meet the hypotheses of each statement. -/

set_option Elab.async false

namespace Sys2Proof.Tests

open Sys2Proof Sys2Proof.Machine

/-! ## States -/

/-- A thread of partition 0 in slot 0 of cell 0: x5 names the scratchpad, x6 a page, x7 is 7. -/
def thread : Ctx :=
  { entry := some 0, pc := 0x1_0000_0000, t1 := { tvec := 0x1_0000_4000 }
    x := [(5, 0x0100_0000), (6, 0x1_0000_0080), (7, 7)] }

/-- A cell's scratchpad leased whole, and nothing else. -/
def spadLease : Lease := { obj := .sp 0 0 64, st := .held, pop := some 0, expiry := 100 }

/-- A page of 64 KiB at the lowest address of partition memory. -/
def page0 : Page := { va := 0x1_0000_0000, lease := 9 }

/-- The lease of that page. -/
def pageLease : Lease := { obj := .page 0 0x1_0000_0000 false false, st := .held, expiry := 100 }

/-- One thread, its scratchpad, a page, its background entry with its context lease, the page's lease, and a share of the die. -/
def world (c : Ctx) : State :=
  { ctxs := [(0, c)], leases := [(0, spadLease), (5, { obj := .context 0, st := .held, expiry := 100 }), (9, pageLease)], pages := [page0]
    entries := [(0, { remain := 100, q := 2, bg := true, lease := 5 })], parts := [(0, { dies := [(0, { share := 1 })] })] }

theorem open_of {s : State} {ea : Word} {n : Nat} {store : Bool} {o w : BitVec 2}
    (h1 : s.checkAddr ea n store = none) (h2 : s.versioned s.self.space ea.toNat = false)
    (h9 : ((s.cell s.self.cell).l1Line s.self.sid ea.toNat).all (fun p => !s.readLeaseOver s.self.cell p.2) = true) (h3 : w = 0)
    (h4 : s.localWaits ea n store = .ok ()) (h5 : s.releaseLines s.cur = s) (h6 : coverAll.pending s.self = false)
    (h7 : s.self.drops = []) (h8 : s.self.member = none) (h10 : s.packets = [] := by rfl) : s.Open ea n store o w :=
  ⟨h1, fun _ => h2, fun _ id k h => by rw [h] at h9; simpa using h9, .inl h3, h4, by simp [State.fabricWaits, State.wayBlocked, h10],
    fun _ => ⟨h5, h6, h7⟩, fun _ => h8⟩

/-- A load or store of the thread at an address that its checks accept meets nothing on its way. -/
theorem world_open {c : Ctx} {ea : Word} {n : Nat} {store : Bool} {o : BitVec 2}
    (h1 : (world c).checkAddr ea n store = none) (h2 : (world c).versioned c.space ea.toNat = false)
    (h4 : (world c).localWaits ea n store = .ok ()) (h6 : coverAll.pending c = false)
    (h7 : c.drops = []) (h8 : c.member = none) : (world c).Open ea n store o 0 :=
  open_of h1 h2 rfl rfl h4 rfl h6 h7 h8 rfl


/-! ## Ill-formed terms: one for each check -/

theorem test_wf_widths : (Instr.sext 1 2 3).wf = false ∧ (Instr.zext 1 2 3).wf = false ∧ (Instr.sext 1 2 2).wf = true := by decide

theorem test_wf_ord : [Instr.ldB 1 2 3 0 0, .ldH 1 2 3 0 0, .ldW 1 2 3 0 0, .ldD 1 2 3 0 0, .ldBu 1 2 3 0 0, .ldHu 1 2 3 0 0, .ldWu 1 2 3 0 0,
    .stB 1 2 3 0 0, .stH 1 2 3 0 0, .stW 1 2 3 0 0, .stD 1 2 3 0 0, .vld 1 2 3 0 0, .vst 1 2 3 0 0, .rld 1 2 2 3 0 0, .rst 1 2 2 3 0 0].map
    Instr.wf = List.replicate 15 false := by decide

/-- ord 0b11, type 0b11, `.nf` with `.sc`, and `.nf` with a destination, in each family of atomics. -/
theorem test_wf_atomics : [Instr.amoAdd 1 2 3 3 0 0, .amoMin 1 2 3 0 0 3, .amoMax 0 2 3 2 1 0, .amoAdd 1 2 3 0 1 0, .amoAnd 1 2 3 3 0 0, .amoOr 1 2 3 0 0 2,
    .amoXor 0 2 3 2 1 0, .amoXor 1 2 3 0 1 0, .amoSwp 1 2 3 3 0, .amoCas 1 2 3 0 2, .ramoAdd 1 2 3 3 0 0, .ramoMin 1 2 3 0 0 3, .ramoMax 0 2 3 2 1 0,
    .ramoAnd 1 2 3 0 1 0, .ramoOr 1 2 3 0 0 2, .ramoXor 1 2 3 3 0 0, .ramoSwp 1 2 3 0 2, .ramoCas 1 2 3 3 1].map Instr.wf = List.replicate 18 false := by
  decide

theorem test_wf_vectors : [Instr.vadd 1 2 3 0 3 0 0, .vsub 1 2 3 0 0 1 0, .vmul 1 2 3 0 1 0 4, .vadd 1 2 3 0 0 0 6, .vfma 1 2 3 0 1 3, .vfma 1 2 3 0 0 7,
    .vmin 1 2 3 0 2 0, .vmax 1 2 3 0 1 4, .vabs 1 2 0 2 1, .vneg 1 2 0 1 5, .vshl 1 2 3 0 4, .vshr 1 2 3 0 5, .vsra 1 2 3 0 6, .vcmp 8 2 3 0 0 0,
    .vcmp 1 2 3 0 6 0, .vcmp 1 2 3 0 4 4, .vsel 1 2 3 0 6, .vcvt 1 2 0 4 4, .vcvt 1 2 0 6 1, .vcvtRtz 1 2 0 0 1, .vrcp 1 2 0 0 3, .vrsq 1 2 0 0 0,
    .vexp 1 2 0 0 6, .vlog 1 2 0 0 1, .vbcast 1 2 0 7, .vext 1 2 3 6, .vins 1 2 3 7, .vperm 1 2 3 0 6, .vred 1 2 0 1 0 0, .vred 1 2 0 0 3 4,
    .vred 1 2 0 1 1 4, .vgth 1 2 3 0 3 2, .vsct 1 2 3 0 0 1].map Instr.wf = List.replicate 33 false := by decide

theorem test_wf_predicates_engines_and_groups : [Instr.pand 8 1 2, .por 1 8 2, .pxor 1 2 8, .pnot 1 9, .pset 1 65, .pset 8 1, .psetX 15 0, .pcnt 1 2 0,
    .pcnt 1 2 65, .pcnt 1 8 64, .mset 1 8, .mget 31 1, .snd 29, .rcv 29 0, .pkmsg 30 0, .barAw 0 1, .csrr 1 0x003, .csrw 1 2 0x105, .csrs 1 2 0x205,
    .csrc 1 2 0xFFF].map Instr.wf = List.replicate 20 false := by decide

/-- The decoder refuses by name: an unused field, a major of no instruction, a sub-map value of none, and a program of three bytes. -/
theorem test_decode_refusals : decodeWord 0x966A0002#32 = .error (.unusedField 0x966A0002#32) ∧
    decodeWord 0xFFFFFFFF#32 = .error (.unassigned 0xFFFFFFFF#32) ∧ decodeTableWord 32 0 = none ∧ decodeTableWord 24 0x642800 = none ∧
    (match decode [0, 0x28, 0x64] with | .ok _ => false | .error _ => true) = true := by
  refine ⟨?_, ?_, ?_, ?_, ?_⟩ <;> decide +kernel

/-! ## Words -/

/-- The words of 28 instructions, 4 of them the manual's own examples and the others put together from the fields
of the opcode table. -/
theorem test_decode_register_operations :
    [0x04642800, 0x05664801, 0x05664802, 0x05664803, 0x05664804, 0x05664805, 0x05664806, 0x05664807, 0x05664808, 0x05664809,
     0x0566480A, 0x0566480B, 0x0566480C, 0x0566480D, 0x0566480E, 0x0566480F, 0x05664810, 0x04A63811, 0x05664812, 0x05664813,
     0x05664814, 0x05660015, 0x05660016, 0x05660017, 0x05095018, 0x05664819, 0x0464003A, 0x0566005B].map (decodeTableWord 32) =
    [some (.add 3 4 5), some (.sub 11 6 9), some (.and 11 6 9), some (.or 11 6 9), some (.xor 11 6 9), some (.shl 11 6 9),
     some (.shr 11 6 9), some (.sra 11 6 9), some (.slt 11 6 9), some (.sltu 11 6 9), some (.min 11 6 9), some (.max 11 6 9),
     some (.minu 11 6 9), some (.maxu 11 6 9), some (.mul 11 6 9), some (.mulh 11 6 9), some (.mulhu 11 6 9),
     some (.div 5 6 7), some (.divu 11 6 9), some (.rem 11 6 9), some (.remu 11 6 9), some (.clz 11 6), some (.ctz 11 6),
     some (.popc 11 6), some (.bfx 8 9 10), some (.bfi 11 6 9), some (.sext 3 4 1), some (.zext 11 6 2)] := by rfl

/-- The words of 18 instructions, 6 of them the manual's own examples and the others put together from the fields
of the opcode table. -/
theorem test_decode_immediates_branches_and_jumps :
    [0x08E7FFFC, 0x0D669ABC, 0x11669ABC, 0x15669ABC, 0x19669ABC, 0x1D660025, 0x1D664025, 0x1C848003, 0x21600004, 0x25609ABC,
     0x28C99ABC, 0x2CC0FFFD, 0x30C99ABC, 0x34C99ABC, 0x38C99ABC, 0x3CC99ABC, 0x40200010, 0x44010000].map (decodeTableWord 32) =
    [some (.addi 7 7 0xfffc), some (.andi 11 6 0x9abc), some (.ori 11 6 0x9abc), some (.xori 11 6 0x9abc),
     some (.slti 11 6 0x9abc), some (.shli 11 6 37), some (.shri 11 6 37), some (.srai 4 4 3), some (.lui 11 4),
     some (.addpc 11 0x9abc), some (.beq 6 9 0x9abc), some (.bne 6 0 0xfffd), some (.blt 6 9 0x9abc), some (.bge 6 9 0x9abc),
     some (.bltu 6 9 0x9abc), some (.bgeu 6 9 0x9abc), some (.jal 1 16), some (.jalr 0 1 0)] := by rfl

/-- The words of 16 instructions, 4 of them the manual's own examples and the others put together from the fields
of the opcode table. -/
theorem test_decode_loads_and_stores :
    [0x49666ABC, 0x4D666ABC, 0x51666ABC, 0x55666ABC, 0x5488C000, 0x59666ABC, 0x5D666ABC, 0x61666ABC, 0x65A66ABC, 0x69A66ABC,
     0x6DA66ABC, 0x71226FFF, 0x71A6EABC, 0x748A5800, 0x75664801, 0x788A5800].map (decodeTableWord 32) =
    [some (.ldB 11 6 1 2 0xabc), some (.ldH 11 6 1 2 0xabc), some (.ldW 11 6 1 2 0xabc), some (.ldD 11 6 1 2 0xabc),
     some (.ldDTake 4 8 0 0), some (.ldBu 11 6 1 2 0xabc), some (.ldHu 11 6 1 2 0xabc), some (.ldWu 11 6 1 2 0xabc),
     some (.stB 13 6 1 2 0xabc), some (.stH 13 6 1 2 0xabc), some (.stW 13 6 1 2 0xabc), some (.stD 9 2 1 2 0xfff),
     some (.stDGive 13 6 2 0xabc), some (.ldvEq 4 10 11), some (.ldvLe 11 6 9), some (.stv 4 10 11)] := by rfl

/-- The words of 8 instructions, 2 of them the manual's own examples and the others put together from the fields
of the opcode table. -/
theorem test_decode_atomics :
    [0x7C084830, 0x7D664849, 0x7D66484A, 0x7D66484B, 0x7D66484C, 0x7D66484D, 0x7D66484E, 0x7CA6384F].map (decodeTableWord 32) =
    [some (.amoAdd 0 8 9 0 1 2), some (.amoMin 11 6 9 1 0 1), some (.amoMax 11 6 9 1 0 1), some (.amoAnd 11 6 9 1 0 1),
     some (.amoOr 11 6 9 1 0 1), some (.amoXor 11 6 9 1 0 1), some (.amoSwp 11 6 9 1 1), some (.amoCas 5 6 7 1 1)] := by rfl

/-- The words of 15 instructions, 5 of them the manual's own examples and the others put together from the fields
of the opcode table. -/
theorem test_decode_fences_barriers_and_ranges :
    [0x80000000, 0x80000001, 0x80000002, 0x80000003, 0x80000004, 0x80000010, 0x80460020, 0x85660000, 0x84064801, 0x84740002,
     0x84064803, 0x88064804, 0x880A5805, 0x88064806, 0x88064807].map (decodeTableWord 32) =
    [some .fenceCell, some .fenceDom, some .fenceDie, some .fenceMod, some .fenceSys, some .fenceX, some (.flagf 2 6),
     some (.barArv 11 6), some (.barWt 6 9), some (.barAw 3 20), some (.barExp 6 9), some (.inv 6 9 1), some (.wb 10 11 1),
     some (.wbinv 6 9 1), some (.pf 6 9 1)] := by rfl

/-- The words of 22 instructions, 2 of them the manual's own examples and the others put together from the fields
of the opcode table. -/
theorem test_decode_vector_lanes :
    [0x8EDA7240, 0x8EDA7421, 0x8EDA7182, 0x8C8D0883, 0x8EDA7264, 0x8EDA7085, 0x8EDA7066, 0x8EDA7067, 0x8EDA7068, 0x8EDA7029,
     0x8EDA704A, 0x8EDA706B, 0x8CC4828C, 0x8EDA70AD, 0x8ED8320E, 0x8ED830AF, 0x8ED83090, 0x8ED832B5, 0x8ED83191, 0x8ED830B2,
     0x8ED831B3, 0x8ED83094].map (decodeTableWord 32) =
    [some (.vadd 11 6 9 6 1 0 2), some (.vsub 11 6 9 6 2 0 1), some (.vmul 11 6 9 6 0 1 4), some (.vfma 2 3 4 1 0 4),
     some (.vmin 11 6 9 6 1 3), some (.vmax 11 6 9 6 0 4), some (.vand 11 6 9 6), some (.vor 11 6 9 6),
     some (.vxor 11 6 9 6), some (.vshl 11 6 9 6 1), some (.vshr 11 6 9 6 2), some (.vsra 11 6 9 6 3),
     some (.vcmp 3 1 2 0 2 4), some (.vsel 11 6 9 6 5), some (.vabs 11 6 6 1 0), some (.vneg 11 6 6 0 5),
     some (.vcvt 11 6 6 0 4), some (.vcvtRtz 11 6 6 2 5), some (.vrcp 11 6 6 1 4), some (.vrsq 11 6 6 0 5),
     some (.vexp 11 6 6 1 5), some (.vlog 11 6 6 0 4)] := by rfl

/-- The words of 16 instructions, 5 of them the manual's own examples and the others put together from the fields
of the opcode table. -/
theorem test_decode_vector_moves_memory_and_predicates :
    [0x92D83018, 0x92DA4011, 0x92DA4022, 0x92DA700B, 0x915C0024, 0x946A0002, 0x986A4000, 0x9C518006, 0x9EDA7015, 0xA0C90000,
     0xA0C90001, 0xA0C90002, 0xA0C80003, 0xA080002C, 0xA0D80404, 0xA2C80085].map (decodeTableWord 32) =
    [some (.vbcast 11 6 6 3), some (.vext 11 6 9 2), some (.vins 11 6 9 4), some (.vperm 11 6 9 6 1),
     some (.vred 5 7 0 0 0 4), some (.vld 3 10 0 0 2), some (.vst 3 10 1 0 0), some (.vgth 1 4 6 0 0 3),
     some (.vsct 11 6 9 6 2 2), some (.pand 3 2 4), some (.por 3 2 4), some (.pxor 3 2 4), some (.pnot 3 2),
     some (.pset 2 5), some (.psetX 3 6), some (.pcnt 11 2 16)] := by rfl

/-- The words of 26 instructions, 15 of them the manual's own examples and the others put together from the fields
of the opcode table. -/
theorem test_decode_engines_copies_messages_and_optimistic :
    [0xA431A200, 0xA4000001, 0xA439E002, 0xA4000003, 0xA4180104, 0xA4400105, 0xA4180506, 0xA400CB07, 0xA8212400, 0xA8192B01,
     0xA8192002, 0xA8200503, 0xADA12500, 0xAC992B01, 0xAC992B02, 0xAC992B03, 0xAC000604, 0xB0140000, 0xB1800001, 0xB0A00002,
     0xB3004803, 0xB8A60000, 0xB8A01000, 0xB9272003, 0xB8003000, 0xBCA14802].map (decodeTableWord 32) =
    [some (.mma 12 13 2), some (.mzero 0), some (.mldb 14 15), some .mrot, some (.mlda 6 1), some (.msta 16 1),
     some (.mset 6 5), some (.mget 6 11), some (.qcvt 8 9 4), some (.qchk 6 9 11), some (.qchkW 6 9), some (.qstat 8 5),
     some (.cpy 3 8 9 5), some (.cpg 1 6 9 11), some (.cps 1 6 9 11), some (.cpr 1 6 9 11), some (.cpq 6), some (.snd 20),
     some (.rcv 12 0), some (.wmsg 5 0), some (.pkmsg 24 9), some (.optOn 5 6), some (.optOff 5), some (.ckpt 9 7 3),
     some .rbret, some (.capnar 5 1 9)] := by rfl

/-- The words of 12 instructions, 9 of them the manual's own examples and the others put together from the fields
of the opcode table. -/
theorem test_decode_leases_and_locks :
    [0xB4A39020, 0xB4E84830, 0xB5664840, 0xB5664850, 0xB4C46060, 0xB4F06080, 0xB4806890, 0xB4074801, 0xB7470002, 0xB4E84803,
     0xB5660004, 0xB5053805].map (decodeTableWord 32) =
    [some (.lacqSp 5 3 18), some (.lacqAcc 7 8 9), some (.lacqCls 11 6 9), some (.lacqL2 11 6 9), some (.lacqPage 6 4 12),
     some (.lacqPath 7 16 12), some (.lacqGrp 4 0 13), some (.renew 7 9), some (.life 26 7), some (.llk 7 8 9),
     some (.lgen 11 6), some (.lpar 8 5 7)] := by rfl

/-- The words of 8 instructions, 5 of them the manual's own examples and the others put together from the fields
of the opcode table. -/
theorem test_decode_capabilities_and_migration :
    [0xBC4C0000, 0xBCA60001, 0xBC418803, 0xBCA14813, 0xBC042823, 0xBD650024, 0xBCA60005, 0xBC000006].map (decodeTableWord 32) =
    [some (.capld 2 12), some (.capst 5 6), some (.capsetCur 2 1 17), some (.capsetPerm 5 1 9), some (.capsetMint 0 4 5),
     some (.capget 11 5 2), some (.go 5 6), some .home] := by rfl

/-- The words of 10 instructions, 3 of them the manual's own examples and the others put together from the fields
of the opcode table. -/
theorem test_decode_remote_accesses :
    [0xC0AE0003, 0xC5274001, 0xC8A33008, 0xC9654849, 0xC965484A, 0xC965484B, 0xC965484C, 0xC965484D, 0xC965484E, 0xC965484F].map (decodeTableWord 32) =
    [some (.rld 5 3 2 0 0 3), some (.rst 9 1 3 1 0 1), some (.ramoAdd 5 3 6 0 0 1), some (.ramoMin 11 5 9 1 0 1),
     some (.ramoMax 11 5 9 1 0 1), some (.ramoAnd 11 5 9 1 0 1), some (.ramoOr 11 5 9 1 0 1), some (.ramoXor 11 5 9 1 0 1),
     some (.ramoSwp 11 5 9 1 1), some (.ramoCas 11 5 9 1 1)] := by rfl

/-- The words of 13 instructions, 6 of them the manual's own examples and the others put together from the fields
of the opcode table. -/
theorem test_decode_system_and_budget :
    [0xE0A00001, 0xE0021108, 0xE1662001, 0xE1663200, 0xE0004ABC, 0xE0005000, 0xE0006000, 0xE0007000, 0xE1668000, 0xE0649005,
     0xE000AABC, 0xE4C70000, 0xE5001002].map (decodeTableWord 32) =
    [some (.csrr 5 1), some (.csrw 0 2 0x108), some (.csrs 11 6 1), some (.csrc 11 6 0x200), some (.trap 0xabc), some .eret,
     some .halt, some .yield, some (.idle 11 6), some (.spawn 3 4 5), some (.brk 0xabc), some (.budx 6 7),
     some (.bget 8 2)] := by rfl

/-! ## Witnesses of hypotheses: chapter 04 -/

theorem witness_handler : (world thread).hasHandler ∧ ¬ (world {}).hasHandler ∧ (world {}).self.sst ≠ .switching ∧
    (world {}).self.place = .slot := by
  unfold State.hasHandler; decide +kernel

theorem witness_BranchesAndJumps : (wrap ((world thread).rx (6 : BitVec 5)).toInt).toNat % 4 = 0 ∧
    (wrap (((world thread).rx (7 : BitVec 5)).toInt)).toNat % 4 ≠ 0 := by decide +kernel

/-- A CSR of the lowest level and `fflags` with nothing owed; a CSR above the level. -/
theorem witness_CsrOperations : (0x001#12).toNat / 256 % 4 ≤ (world thread).self.pl.toNat ∧ (world thread).flagsOwed 0 = false ∧
    (world thread).self.pl.toNat < (0x108#12).toNat / 256 % 4 := by decide +kernel

/-- A handler's thread at level `p`, that came from level `q` and would return to `a`. -/
def inTrap (p q : BitVec 2) (a : Word) : State :=
  world { thread with pl := p, t1 := { pl := q, epc := a, tvec := 4 }, t2 := { pl := q, epc := a, tvec := 4 } }

/-- Returns to a lower and to the same level, an upward one, one to 0b11, a misaligned one, and one at level 0. -/
theorem witness_ReturnFromTrap :
    ((inTrap 1 0 8).self.trapRegs 1).pl ≤ 1 ∧ ((inTrap 2 2 0).self.trapRegs 2).pl ≤ 2 ∧ (1 : BitVec 2) < ((inTrap 1 2 8).self.trapRegs 1).pl ∧
      ((inTrap 1 3 8).self.trapRegs 1).pl = 3 ∧ ((inTrap 1 0 6).self.trapRegs 1).epc.toNat % 4 ≠ 0 ∧ (inTrap 0 0 0).self.pl = 0 := by
  decide +kernel

theorem witness_YieldIdleAndHalt : ((world thread).rx (0 : BitVec 5)).toNat ≤ (world thread).tick ∧
    (world thread).tick < ((world thread).rx (7 : BitVec 5)).toNat ∧ (world thread).self.opt = false ∧
    (world thread).releaseLines 0 = world thread ∧ (world thread).engineWork 0 = false ∧ risesFrom 0 (world thread).ctxs = true ∧
    thread.pst0 = 0 ∧ thread.pst1 = 0 ∧ thread.pst2 = 0 ∧ thread.ownPosted = 0 ∧ thread.place = .slot ∧
    (world { thread with opt := true }).self.opt = true := by decide +kernel

/-- Each answer of a spawn, in the order of its tests, and a placed sibling. -/
theorem witness_SpawnPlacesASibling : (world { thread with opt := true }).self.opt = true ∧
    ((world thread).rx (7 : BitVec 5)).toNat % 4 ≠ 0 ∧
    { world thread with entries := [(0, { q := 1 })] }.quota (some 0) ≤ { world thread with entries := [(0, { q := 1 })] }.threadsOf (some 0) 0 ∧
    (world thread).threadsOf (some 0) 0 < (world thread).quota (some 0) ∧
    { world thread with ctxs := (0, thread) :: (List.range 14).map fun k => (k + 1, { slot := k + 1 }) }.freeSlot 0 = none ∧
    (world thread).freeSlot 0 = some 1 ∧ (world thread).fresh ≠ (world thread).cur := by decide +kernel

/-- The thread's world with D0 listed, so that applying no charge changes nothing. -/
def charged0 : State := { world thread with dies := [(0, {})] }

/-- A grant, and a request for nothing. -/
theorem witness_BudgetInstructions : charged0.self.entry = some 0 ∧ charged0.engineWork 0 = false ∧
    charged0.bringCharges = charged0 ∧ charged0.holds = [] ∧ charged0.self.budxKept = none ∧
    (∀ e, tfind charged0.entries 0 = some e → charged0.budxCode 0 e 7 = 0 ∧ charged0.budxCode 0 e 0 = 3) := by
  refine ⟨by decide +kernel, by decide +kernel, by decide +kernel, rfl, by decide +kernel, fun e h => ?_⟩
  cases h
  decide +kernel

/-! ## Chapter 05: loads and stores -/

theorem witness_LoadsFromTheScratchpad : ((world thread).rx (5 : BitVec 5)).toNat = 0x0100_0000 + 0 ∧
    (world thread).Open ((world thread).rx (5 : BitVec 5)) 8 false 2 0 ∧ (world thread).Open ((world thread).rx (5 : BitVec 5)) 64 false 1 0 ∧
    (world thread).Open 0x0103_FFFF 1 false 0 0 ∧ (world thread).Open 0x0103_FFF8 8 true 0 0 := by
  refine ⟨by decide, world_open ?_ ?_ ?_ ?_ ?_ ?_, world_open ?_ ?_ ?_ ?_ ?_ ?_, world_open ?_ ?_ ?_ ?_ ?_ ?_, world_open ?_ ?_ ?_ ?_ ?_ ?_⟩ <;>
    decide +kernel

/-- A page of the world's that L2 holds no line of lies in a slice with room. -/
theorem takes_of {s : State} {space va : Nat} (p : Page) (h1 : s.judge space va = .ok p)
    (h2 : (match tfind (s.die p.die).l2 (p.phys (va / 128 * 128)) with
      | some l => decide (l.sid = p.sid ∧ l.va = va / 128 * 128)
      | none => decide (((s.die p.die).l2.filter fun q => q.2.slice = s.homeSlice p.part p.dom (va / 128 * 128)).length +
          s.versionLines (s.homeSlice p.part p.dom (va / 128 * 128)) + 2 ≤ sliceLines)) = true) : s.HomeTakes space va := by
  refine ⟨p, h1, ?_⟩
  split
  · rename_i l h
    rw [h] at h2
    exact of_decide_eq_true h2
  · rename_i h
    rw [h] at h2
    unfold State.L2Room
    exact of_decide_eq_true h2

theorem world_takes : (world thread).HomeTakes 0 0x1_0000_0080 := takes_of page0 (by decide +kernel) (by decide +kernel)

/-- A load that misses in L1, one that a line of L1 serves, and one that finds a line older than an acquire. -/
def cached (mark : Nat) : State :=
  { world { thread with acqMark := mark } with
    cells := [(0, { l1 := [(0, { va := 0x1_0000_0080, valid := BitVec.allOnes 128, fill := 1, leaseEnd := 9 })] })] }

theorem witness_LoadsFromPartitionMemory : (world thread).Open 0x1_0000_0080 8 false 2 0 ∧
    (∀ j, j < 8 → (world thread).homeByte 0 (0x1_0000_0080 + j) = some 0) ∧ (world thread).HomeTakes 0 0x1_0000_0080 ∧
    ((world thread).cell 0).l1Line 0 0x1_0000_0080 = none ∧ freePlace 0 ((world thread).cell 0).l1 < ((world thread).cell 0).l1Places ∧
    risesFrom 0 ((world thread).cell 0).l1 = true ∧
    (cached 0).Open 0x1_0000_0080 8 false 0 0 ∧ (cached 0).inSaveArea 0 0x1_0000_0080 = false ∧ (cached 0).self.migrated = false ∧
    (∃ id l, ((cached 0).cell 0).l1Line 0 0x1_0000_0080 = some (id, l) ∧ l.hits (cached 0).self 0 8 = true ∧ l.data.bad 0 8 = false ∧
      ∀ j, j < 8 → mget l.data.bytes (0 + j) = 0) ∧
    (∃ id l, ((cached 2).cell 0).l1Line 0 0x1_0000_0080 = some (id, l) ∧ l.dirty = 0 ∧ l.guarded = false ∧ l.fill < (cached 2).self.acqMark) := by
  refine ⟨world_open ?_ ?_ ?_ ?_ ?_ ?_, ?_, world_takes, ?_, ?_, ?_, open_of ?_ ?_ ?_ rfl ?_ ?_ ?_ ?_ ?_, ?_, ?_,
    ⟨_, _, rfl, ?_, ?_, ?_⟩, _, _, rfl, ?_, ?_, ?_⟩ <;> decide +kernel

/-- A store that L1 takes new, and a release store with nothing of its own dirty. -/
theorem witness_StoresToPartitionMemory : (world thread).Open 0x1_0000_0080 8 true 0 0 ∧ (world thread).Open 0x1_0000_0080 8 true 1 0 ∧
    (world thread).inFaultRing 0 0x1_0000_0080 8 = false ∧ (world thread).memWf = true ∧
    (∀ id l, ((world thread).cell 0).l1Line 0 0x1_0000_0080 = some (id, l) → l.dirty = 0) := by
  refine ⟨world_open ?_ ?_ ?_ ?_ ?_ ?_, world_open ?_ ?_ ?_ ?_ ?_ ?_, ?_, ?_, fun id l h => by cases h⟩ <;> decide +kernel


/-! ## Chapter 06: vectors -/

/-- Types, tests and counts of the vector statements; the rounding of 3 by one half, and of an overflow. -/
theorem witness_vectors : (0 : BitVec 3).toNat < 4 ∧ (3 : BitVec 3).toNat < 4 ∧ (5 : BitVec 3).toNat < 6 ∧ (6 : BitVec 3) = 6 ∧
    (3 : BitVec 3).toNat < 4 ∧ (4 : BitVec 3) ≠ (5 : BitVec 3) ∧ (64 : BitVec 7).toNat ≤ 64 ∧ (2 : BitVec 3).toNat < 3 ∧
    (roundPack Fmt.b32 false false 3 (-1) false).1 % Fmt.b32.signBit < Fmt.b32.inf ∧ (roundPack Fmt.b32 false false 3 200 false).1 % Fmt.b32.signBit = Fmt.b32.inf ∧
    Fmt.b32.signBit < Fmt.b32.signBit + 1 ∧ Fmt.b32.signBit + 1 < Fmt.b32.signBit + Fmt.b32.inf ∧ Fmt.b32.inf < (Fmt.b32.inf + 1) % Fmt.b32.signBit := by decide +kernel
/-! ## Chapters 01, 02, 05 and 06: addresses, atomics, words, fences -/

/-- The thread with x5 at an address. -/
def pointing (a : Word) : State := world { thread with x := [(5, a), (7, 7)] }

/-- The thread in optimistic mode with a prompt book at the start of its scratchpad. -/
def withBook : State := world { thread with member := some { size := 0x1000 } }

/-- The thread with tile 3 leased. -/
def withTile : State := { world thread with leases := [(1, { obj := .acc 0 3, st := .held, pop := some 0 })] }

/-- Each check of an access fails somewhere, at the edges of the regions. -/
theorem witness_AddressChecks :
    region 0xFF_FFFF = .unused ∧ region 0x0202_0000 = .unused ∧ region 0x0300_1000 = .unused ∧ region 0x1_0000_0000_0000 = .unused ∧
    ((pointing 0x0104_0000).cell 0).spadSize < 0x4_0000 + 1 ∧ { world thread with leases := [] }.holdsGranule (some 0) 0 0 = false ∧
    (world thread).holdsGranule (some 0) 0 63 = true ∧ withBook.inBook 0 0xFF8 8 = true ∧ (world thread).inBook 0 0xFF8 8 = false ∧
    withTile.holdsTile (some 0) 0 3 = true ∧ withTile.holdsTile (some 0) 0 0 = false ∧ region 0x0201_FFFF = .acc 3 0x7FFF ∧
    region 0x0300_0FF8 = .page 0xFF8 ∧ (world thread).self.pl = 0 ∧ (world { thread with pl := 1 }).self.pl ≠ 0 ∧
    (0x1_0000_0081 : Word).toNat % 2 ≠ 0 ∧ { world thread with pages := [{ page0 with ver := true }] }.versioned 0 0x1_0000_0080 = true := by
  decide +kernel

/-- View 8 and view 2, at the first and the last element of the leased scratchpad. -/
theorem witness_NestedViews : (pointing 0x0180_0000).Open 0x0180_0000 1 true 0 0 ∧ (pointing 0x0123_FFFF).Open 0x0123_FFFF 1 false 2 0 ∧
    ({} : Bank).viewBad 0 8 0 1 = false ∧ (pointing 0x0180_0000).memWf = true ∧ (pointing 0x0190_0000).Open 0x0190_0000 4 false 0 0 ∧
    (pointing 0x0190_0000).self.badRegs.contains 67 = false := by
  refine ⟨open_of ?_ ?_ ?_ rfl ?_ ?_ ?_ ?_ ?_, open_of ?_ ?_ ?_ rfl ?_ ?_ ?_ ?_ ?_, ?_, ?_, open_of ?_ ?_ ?_ rfl ?_ ?_ ?_ ?_ ?_, ?_⟩ <;> decide +kernel

/-- The last word of tile 3 and the first of the cell control page are open to loads. -/
theorem witness_LoadsFromTheScratchpad_windows : withTile.Open 0x0201_FFFC 4 false 0 0 ∧ (withTile.cell 0).accBad 3 0x7FFC 4 = false ∧
    (world { thread with pl := 1 }).Open 0x0300_0000 8 false 0 0 ∧ (world { thread with pl := 1 }).Open 0x0300_0008 8 false 0 0 := by
  refine ⟨open_of ?_ ?_ ?_ rfl ?_ ?_ ?_ ?_ ?_, ?_, open_of ?_ ?_ ?_ rfl ?_ ?_ ?_ ?_ ?_, open_of ?_ ?_ ?_ rfl ?_ ?_ ?_ ?_ ?_⟩ <;> decide +kernel

theorem plain_of {s : State} {ea : Word} {n : Nat} {store : Bool} (h1 : s.checkHome ea n store = .ok ())
    (h2 : s.versioned s.self.space ea.toNat = false) (h3 : s.localWaits ea n store = .ok ()) (h4 : s.self.opt = false)
    (h5 : s.self.member = none) : s.Plain ea n store := ⟨h1, fun _ => h2, h3, h4, h5⟩

theorem clear_of {s : State} {v : Cover} (h1 : s.releaseLines s.cur = s) (h2 : v.pending s.self = false)
    (h3 : s.self.drops.find? v.covers = none) : s.Clear v := ⟨h1, h2, h3⟩

theorem no_packets {s : State} (h : s.packets = []) : s.SwitchesEmpty := fun p hp => by simp [h] at hp

theorem world_ready : (world thread).HomeReady (.mem 0 0x1_0000_0080) 16 :=
  ⟨world_takes, by decide +kernel, fun _ h => by cases h⟩

/-- An atomic in the scratchpad, and one in partition memory with room in its pantry core. -/
theorem witness_AtomicOperations : (world thread).Plain 0x0100_0000 8 true ∧ (world thread).Plain 0x1_0000_0080 4 true ∧
    (world thread).Clear coverAll ∧ (world thread).holds = [] ∧ (world thread).SwitchesEmpty ∧ (world thread).numAt (.spad 0 0) 8 = some 0 ∧
    region 0x0100_0000 ≠ .mem ∧ region 0x1_0000_0080 = .mem ∧ (∀ q, (world thread).page 0 0x1_0000_0080 = some q →
      (world thread).coreRoom q.core = true) ∧ (world thread).HomeReady (.mem 0 0x1_0000_0080) 16 := by
  refine ⟨plain_of ?_ ?_ ?_ ?_ ?_, plain_of ?_ ?_ ?_ ?_ ?_, clear_of ?_ ?_ ?_, ?_, no_packets rfl, ?_, ?_, ?_, fun q h => ?_, world_ready⟩
  all_goals first | (cases h; decide +kernel) | decide +kernel

/-- A full word and an empty one in the scratchpad, with nobody in front. -/
def fullWord : State := { world thread with cells := [(0, { spad := { bytes := [(0, 9)], full := [0] } })] }

theorem witness_FullEmptyWords : fullWord.Open 0x0100_0000 8 false 0 0 ∧ fullWord.fullAt (.spad 0 0) = some true ∧
    fullWord.numAt (.spad 0 0) 8 = some 9 ∧ fullWord.ahead (.spad 0 0) (.fe (.spad 0 0) true) = false ∧ fullWord.memWf = true ∧
    (world thread).Open 0x0100_0000 8 true 1 0 ∧ (world thread).fullAt (.spad 0 0) = some false ∧
    (world thread).ahead (.spad 0 0) (.fe (.spad 0 0) false) = false ∧ fullWord.HomeReady (.spad 0 0) 8 ∧
    ((world thread).waiters.all fun p => p.1 ≠ (world thread).cur) = true ∧ (world thread).listFull (.mem 0 0x1_0000_0080) = false ∧
    region 0x0100_0000 = .view 0 0 := by
  refine ⟨open_of ?_ ?_ ?_ rfl ?_ ?_ ?_ ?_ ?_, ?_, ?_, ?_, ?_, open_of ?_ ?_ ?_ rfl ?_ ?_ ?_ ?_ ?_, ?_, ?_, trivial, ?_, ?_, ?_⟩ <;> decide +kernel

/-- A versioned word with version 3 live. -/
def versionedWord : State :=
  { world thread with
    pages := [{ page0 with ver := true }], versions := [(0x1_0000_0080, [{ num := 3, val := 30 }])] }

/-- Version 3 can be read and replaced; none at or below 2 is live; version 3 lies 8 above none, and 11 lies 8 above 3. -/
theorem witness_VersionedWords : versionedWord.versioned 0 0x1_0000_0080 = true ∧ (∃ p, versionedWord.judge 0 0x1_0000_0080 = .ok p) ∧
    versionedWord.liveVersions 0 0x1_0000_0080 = [{ num := 3, val := 30 }] ∧ versionedWord.listFull (.mem 0 0x1_0000_0080) = false ∧
    versionedWord.storeFull 0 0x1_0000_0080 = false ∧ versionedWord.Clear coverAll ∧
    { versionedWord with versions := [(0x1_0000_0080, [{ num := 11 }])] }.liveVersions 0 0x1_0000_0080 = [{ num := 11 }] ∧
    (versionedWord.waiters.all fun p => p.1 ≠ versionedWord.cur) = true ∧
    { versionedWord with versions := [(0x1_0000_0080, [{ num := 3, bad := true }])] }.liveVersions 0 0x1_0000_0080 =
      [{ num := 3, bad := true }] := by
  refine ⟨?_, ⟨_, rfl⟩, ?_, ?_, ?_, clear_of ?_ ?_ ?_, ?_, ?_, ?_⟩ <;> decide +kernel

/-- The thread with p1 naming lanes 0 and 1, and v1 the offsets 0 and 1 of lanes of eight bytes. -/
def twoLanes : State := world { thread with p := [(1, 3)], v := [(1, 1 <<< 64)] }

theorem witness_GathersAndScatters : twoLanes.Open 0x0100_0000 8 false 0 0 ∧ twoLanes.Open 0x0100_0008 8 true 0 0 ∧
    twoLanes.readBytes 0x0100_0008 8 false = .ok (twoLanes, List.replicate 8 0) ∧ twoLanes.Clear coverAll ∧ twoLanes.memWf = true ∧
    region 0x0100_0008 = .view 0 8 ∧ lane (twoLanes.rv (1 : BitVec 4)) 64 1 = 1 ∧ (twoLanes.rp (1 : BitVec 3)).getLsbD 2 = false ∧
    twoLanes.checkAddr 7 8 false = some 0x04 := by
  refine ⟨open_of ?_ ?_ ?_ rfl ?_ ?_ ?_ ?_ ?_, open_of ?_ ?_ ?_ rfl ?_ ?_ ?_ ?_ ?_, ?_, clear_of ?_ ?_ ?_, ?_, ?_, ?_, ?_, ?_⟩ <;>
    decide +kernel

/-- A capability for 256 bytes of the thread's page, with every permission. -/
def pageCap : Capa :=
  { bits := BitVec.ofNat 128 (0x1_0000_0080 + 0x80 * 2 ^ 69 + 0x100 * 2 ^ 82 + 0xFF * 2 ^ 112 + 6 * 2 ^ 120), tag := true }

def holdingCap : State := world { thread with c := [(1, pageCap)] }

/-- A fence that waits, one that meets a drop, and one that completes; a `flagf` that posts, and one whose check fails. -/
theorem witness_Fences : coverAll.pending (world { thread with pst2 := 1 }).self = true ∧
    ((world { thread with drops := [⟨0x08, 0, 4⟩] }).self.drops.find? coverX.covers) = some ⟨0x08, 0, 4⟩ ∧ (world thread).Clear coverAll ∧
    holdingCap.checkCap pageCap 3 0x1_0000_0080 8 = none ∧ holdingCap.self.inHandler = false ∧ holdingCap.Clear coverAll ∧
    holdingCap.capTarget pageCap 0x1_0000_0080 = .home (.mem 0 0x1_0000_0080) ∧ (world thread).checkCap {} 3 0 8 = some 0x05 ∧
    (∀ q, holdingCap.page 0 0x1_0000_0080 = some q → holdingCap.coreRoom q.core = true) ∧
    (holdingCap.cell 0).l1Line 0 0x1_0000_0080 = none ∧ risesFrom 0 (holdingCap.cell 0).l1 = true := by
  refine ⟨?_, ?_, clear_of ?_ ?_ ?_, ?_, ?_, clear_of ?_ ?_ ?_, ?_, ?_, fun q h => ?_, ?_, ?_⟩
  all_goals first | (cases h; decide +kernel) | decide +kernel

/-- Barrier blocks of two doublewords in the scratchpad: two expected, the last arrival, none expected, and bytes to come. -/
def barrier (d0 d1 : Nat) (c : Ctx) : State :=
  { world c with cells := [(0, { spad := Bank.write {} 0 (leBytes d0 8 ++ leBytes d1 8) })] }

theorem witness_Barriers : (barrier (2 + 2 * 2 ^ 32) 0 thread).numAt (.spad 0 0) 8 = some (2 + 2 * 2 ^ 32) ∧
    (barrier (1 + 2 * 2 ^ 32 + 0x7FFF * 2 ^ 48) 0 thread).numAt (.spad 0 0) 8 = some (1 + 2 * 2 ^ 32 + 0x7FFF * 2 ^ 48) ∧
    (barrier 0 64 thread).numAt (.spad 0 8) 8 = some 64 ∧ (barrier 0 0 thread).Plain 0x0100_0000 16 true ∧
    (barrier 0 0 thread).Clear coverAll ∧ (barrier 0 0 thread).memWf = true ∧ (barrier 0 0 thread).self.ap = false ∧
    (barrier 0 0 thread).holds = [] ∧ (barrier 0 0 thread).SwitchesEmpty ∧ (barrier 0 0 thread).HomeReady (.spad 0 0) 16 ∧
    (barrier 0 0 { thread with ap := true, wait := .phase (.spad 0 0) 0 }).self.wait = .phase (.spad 0 0) 0 := by
  refine ⟨?_, ?_, ?_, plain_of ?_ ?_ ?_ ?_ ?_, clear_of ?_ ?_ ?_, ?_, ?_, ?_, no_packets rfl, trivial, ?_⟩ <;> decide +kernel

/-! ## Chapters 05, 07, 10 and 14: ranges, capabilities, migration, engines -/

/-- A range of one line held dirty by the cell's L1, an empty range, and a range below partition memory. -/
def dirtyLine : State :=
  { world { thread with x := [(6, 0x1_0000_0080), (7, 1)] } with
    cells := [(0, { l1 := [(0, { va := 0x1_0000_0080, valid := BitVec.allOnes 128, dirty := 1, stores := [({}, 0x1_0000_0080)] })] })]
    dies := [(0, {})] }

theorem witness_RangeOperations : (dirtyLine.rx (7 : BitVec 5)).toNat ≠ 0 ∧ 0x1_0000_0000 ≤ (dirtyLine.rx (6 : BitVec 5)).toNat / 128 * 128 ∧
    risesFrom 0 (dirtyLine.cell 0).l1 = true ∧ risesFrom 0 dirtyLine.dies = true ∧ (∀ d, d ∈ dirtyLine.dies → risesFrom 0 d.2.l2 = true) ∧
    (dirtyLine.rx (0 : BitVec 5)).toNat = 0 ∧ ((world thread).rx (5 : BitVec 5)).toNat / 128 * 128 < 0x1_0000_0000 ∧
    (dirtyLine.cell 0).spx = false := by decide +kernel

/-- A prefetch of one line that nobody holds, of a page with one die; a cell whose split changes; a line in a range that another
context's lock guards. -/
def guardedLine : State :=
  { dirtyLine with leases := dirtyLine.leases ++ [(12, { obj := .lock 0 0x1_0000_0000, st := .held, expiry := 100
                                                         holder := some { ctx := 9, ranges := [(0x1_0000_0080, 128)] } })] }

theorem witness_RangesPrefetched : (world thread).page 0 0x1_0000_0080 = some page0 ∧ page0.second = false ∧ page0.va % 128 = 0 ∧
    (world thread).HomeTakes 0 0x1_0000_0080 ∧ ((world thread).cell 0).l1Room ∧
    ({ dirtyLine with cells := [(0, { spx := true })] }.cell 0).spx = true ∧
    guardedLine.guardedByOther 0 0x1_0000_0080 = true := by
  refine ⟨?_, ?_, ?_, world_takes, ⟨?_, ?_⟩, ?_, ?_⟩ <;> decide +kernel

/-- A capability that can be narrowed to 8 bytes at its cursor, one without its tag, and a handler's level that mints. -/
theorem witness_CapabilityRegisters : pageCap.tag = true ∧ ({} : Capa).tag = false ∧ pageCap.cursor = 0x1_0000_0080 ∧
    pageCap.base = 0x1_0000_0080 ∧ pageCap.len = 0x100 ∧ smallestEx 0x1_0000_0080 8 = some 0 ∧ smallestEx 0x1_0000_0080 (2 ^ 50) = none ∧
    smallestEx 0x1_0000_0080 0x2000 = some 1 ∧ (world { thread with pl := 2 }).self.pl ≠ 0 ∧ (world thread).capAt (.spad 0 0) = some {} ∧
    (world thread).Plain 0x0100_0000 16 true ∧ (world thread).Plain 0x1_0000_0080 16 false ∧
    ((world thread).cell 0).l1Line 0 0x1_0000_0080 = none ∧ ((world thread).cell 0).l1Room ∧ (world thread).Clear coverAll := by
  refine ⟨?_, ?_, ?_, ?_, ?_, ?_, ?_, ?_, ?_, ?_, plain_of ?_ ?_ ?_ ?_ ?_, plain_of ?_ ?_ ?_ ?_ ?_, ?_, ⟨?_, ?_⟩, clear_of ?_ ?_ ?_⟩ <;>
    decide +kernel

theorem holdingCap_ready : holdingCap.HomeReady (.mem 0 0x1_0000_0080) 8 :=
  ⟨takes_of page0 (by decide +kernel) (by decide +kernel), by decide +kernel, fun _ h => by cases h⟩

/-- The same with the page's first word marked full. -/
def holdingFull : State := { holdingCap with dies := [(0, { l2 := [(0x80, { va := 0x1_0000_0080, data := { full := [0] } })] })] }

/-- A checked capability whose home judges the request good; and one that fails each check: no tag, no permission, out of
bounds, misaligned, and of an id that no unit has. -/
theorem witness_RemoteAccesses : holdingCap.checkCap pageCap 0 0x1_0000_0080 8 = none ∧ holdingCap.checkCap pageCap 1 0x1_0000_017F 1 = none ∧
    holdingCap.judgePacket { gen := some pageCap.gen, capKind := pageCap.kind, capId := pageCap.id } (.mem 0 0x1_0000_0080) = none ∧
    holdingCap.numAt (.mem 0 0x1_0000_0080) 8 = some 0 ∧ holdingCap.postedOn (.mem 0 0x1_0000_0080) 8 = false ∧ holdingCap.holds = [] ∧
    (∀ q, holdingCap.page 0 0x1_0000_0080 = some q → holdingCap.coreRoom q.core = true) ∧
    holdingCap.SwitchesEmpty ∧ (holdingCap.cell 0).l1Line 0 0x1_0000_0080 = none ∧
    holdingCap.fullAt (.mem 0 0x1_0000_0080) = some false ∧ holdingFull.fullAt (.mem 0 0x1_0000_0080) = some true ∧
    holdingFull.ahead (.mem 0 0x1_0000_0080) (.fe (.mem 0 0x1_0000_0080) true) = false ∧ holdingFull.checkCap pageCap 0 0x1_0000_0080 8 = none ∧
    holdingCap.ahead (.mem 0 0x1_0000_0080) (.fe (.mem 0 0x1_0000_0080) false) = false ∧ holdingCap.listFull (.mem 0 0x1_0000_0080) = false ∧
    holdingCap.checkCap { pageCap with tag := false } 0 0x1_0000_0080 8 = some 0x05 ∧
    holdingCap.checkCap { pageCap with bits := setField pageCap.bits 112 8 0xFE } 0 0x1_0000_0080 8 = some 0x07 ∧
    holdingCap.checkCap pageCap 0 0x1_0000_0179 8 = some 0x06 ∧ holdingCap.checkCap pageCap 0 0x1_0000_0081 8 = some 0x03 ∧
    holdingCap.checkEgress { pageCap with bits := setField pageCap.bits 48 16 8 } 0x1_0000_0080 8 = some 0x04 := by
  refine ⟨?_, ?_, ?_, ?_, ?_, ?_, fun q h => ?_, no_packets rfl, ?_, ?_, ?_, ?_, ?_, ?_, ?_, ?_, ?_, ?_, ?_, ?_⟩
  all_goals first | (cases h; decide +kernel) | decide +kernel

/-- The thread at pantry core 0, with an instruction that needs its cell. -/
def migrant : State :=
  { world { thread with place := .pantry 0, word := 0xE0000000#32, charged := true } with dies := [(0, { guests := [(0, 0)] })] }

theorem witness_ThreadMigration : (world { thread with opt := true }).self.opt = true ∧ ((world thread).rx (5 : BitVec 5)).toNat < 0x1_0000_0000 ∧
    (world thread).page 0 0x1_0000_0080 = some page0 ∧ (world thread).guestsOf page0.core < 32 ∧
    32 ≤ { world thread with dies := [(0, { guests := List.replicate 32 (0, 9) })] }.guestsOf page0.core ∧
    migrant.self.migrated = true ∧ (world thread).self.migrated = false := by decide +kernel

/-- The thread with both leases that engine work needs, at level engine registers of zero. -/
def engineer (c : Ctx) : State :=
  { world c with leases := [(0, spadLease), (1, { obj := .acc 0 1, st := .held, pop := some 0 })] }

/-- Accepted, full, unleased; a B tile begun and over. -/
theorem witness_EngineInstructions : (engineer thread).holdsTile (some 0) 0 1 = true ∧ (engineer thread).holdsTile (some 0) 0 0 = false ∧
    (engineer thread).holdsRange (some 0) 0 0 0x8000 = true ∧ (engineer thread).inBook 0 0 0x8000 = false ∧
    ((engineer thread).cell 0).spx = false ∧ ((engineer thread).cell 0).canAccept (.mzero 1) = true ∧
    ({ mq := List.replicate 9 { kind := .mzero 1 } } : Cell).canAccept (.mzero 1) = false ∧
    (engineer thread).canLoad 0 = true ∧ (engineer thread).askedBefore false = false ∧ (engineer thread).askedBefore true = false ∧
    (engineer thread).loadAhead = false ∧ (engineer thread).accepts (.mzero 1) = true ∧
    { engineer thread with cells := [(0, { mq := List.replicate 9 { kind := .mzero 1 } })] }.accepts (.mzero 1) = false ∧ (engineer thread).boardStalls 0 0 0x0100_0000 0x0100_1000 false = false ∧
    ({ latch := { loadBy := some 0 } } : Cell).canAccept .swapLoad = true ∧ (engineer thread).self.me.elements = 64 ∧
    overlaps 0 256 256 64 = false ∧ overlaps 0 256 255 64 = true ∧
    (∀ p, p ∈ (engineer thread).cells → ∀ o, o ∈ p.2.cq → o.ctx ≠ 0) := by decide +kernel

/-- The head of a queue may start; it is over; a matrix command joins; a latch is sent, has arrived and is swapped in. -/
theorem witness_EngineOperations : (engineer thread).mustWait 0 0 [(0, 2048)] = false ∧
    firstUnsent [{ kind := .swapRot }] = some { kind := .swapRot } ∧
    { engineer thread with leases := [(1, { obj := .acc 1 1, st := .held, pop := some 0 })] }.anyTile 1 = true ∧
    ((engineer thread).cell 1).latch.kst = .free ∧ ({} : Bank).bad 0 2048 = false ∧ ({} : Cell).tileBad 1 = false ∧
    risesFrom 0 ({} : Cell).tiles = true ∧ ((engineer thread).cell 0).canAccept (.mzero 1) = true := by decide +kernel

/-- A command for tile 1 of cell 0, through a capability for its scratchpad. -/
def tileCap : Capa := { bits := BitVec.ofNat 128 (0x0100_0000 + 20 * 2 ^ 64 + 16 * 2 ^ 69 + 2 ^ 82 + 2 * 2 ^ 120), tag := true }

theorem witness_MatrixCommand : ((engineer thread).checkCommand 0 0 (BitVec.ofNat 64 (1 + 1 * 4)) tileCap).toBool = true := by decide +kernel

/-! ## Chapters 07, 09 and 10: copies and messages -/

/-- A copy of one row of 64 bytes from the page to the scratchpad at 0x1000, its descriptor at 0 and with `ctl` as its last word. -/
def copying (rows : Nat) : State :=
  { world thread with
    cells := [(0, { spad := Bank.write {} 0 (leBytes 0x1_0000_0080 8 ++ leBytes 0x0100_1000 8 ++ leBytes (64 + rows * 2 ^ 32) 8 ++ leBytes 0 40) })] }

/-- Good, malformed, and with its mailbox full. -/
theorem witness_CopyRequests : inView0 0x0100_0000 = true ∧ inView0 0x1_0000_0000 = false ∧
    (copying 1).holdsRange (some 0) 0 0 64 = true ∧ (copying 1).localWaits 0x0100_0000 64 false = .ok () ∧
    ((copying 1).cell 0).spad.bad 0 64 = false ∧ (copying 1).self.inHandler = false ∧
    leNat ((((copying 1).cell 0).spad.read 0 64).drop 16 |>.take 8) = 64 + 2 ^ 32 ∧
    leNat ((((copying 0).cell 0).spad.read 0 64).drop 16 |>.take 8) / 2 ^ 32 = 0 ∧
    (copying 1).checkCopy ((copying 1).rebaseCopy (copyOf 0 0 (((copying 1).cell 0).spad.read 0 64))) = .ok () ∧
    (copying 1).mailboxFree 0 0 {} = true ∧ { world thread with cells := [(0, { mboxes := [(0, {})] })] }.mailboxFree 0 0 {} = false := by
  refine ⟨?_, ?_, ?_, ?_, ?_, ?_, ?_, ?_, ?_, ?_, ?_⟩ <;> decide +kernel

/-- A copy of 64 bytes within the scratchpad, from 0 to 0x1000, in mailbox 2. -/
def req0 : CopyReq := { src := 0x0100_0000, dst := 0x0100_1000, len := 64, rows := 1 }
def running (c : CopyRun) : State := { world thread with cells := [(0, { runs := [c] })] }

/-- A request taken, a step that may run, one that lands, one refused; the end of a pass, its replay, and both retirements. -/
theorem witness_StagehandCopies : tfind ({ mboxes := [(2, req0)], rr := 3 } : Cell).mboxes ((3 + 7) % 8) = some req0 ∧
    ((running { req := req0, started := true }).cell 0).run 0 = some { req := req0, started := true } ∧
    (running { req := req0, started := true }).copyReady 0 { req := req0, started := true } = true ∧
    ({ req := req0, started := true } : CopyRun).step 0 = (0x0100_0000, 0x0100_1000, 64) ∧ req0.steps = 1 ∧
    ((running { req := req0 }).cell 0).stageIssue ≤ 0 ∧ ({} : Cell).mode = true ∧
    tfind ({ req := req0, flying := [(0, List.replicate 64 1)] } : CopyRun).flying 0 = some (List.replicate 64 1) ∧
    ({ req := { req0 with dcap := some { bits := 0x100 <<< 48 } } } : CopyRun).outside = true ∧ (running { req := req0 }).memWf = true ∧
    ({ req := req0, failed := some (4, 0) } : CopyRun).failed.isSome = true ∧
    ({ req := req0, resumeAt := some 0 } : CopyRun).resumeAt = some 0 ∧ ({ req := req0, started := true, next := 1 } : CopyRun).failed = none ∧
    (running { req := { req0 with kind := 3 } }).numAt (.spad 0 0x1000) 4 = some 0 := by
  refine ⟨?_, ?_, ?_, ?_, ?_, ?_, ?_, ?_, ?_, ?_, ?_, ?_, ?_, ?_⟩ <;> decide +kernel

/-- A mailbox whose copy is not running, a step alone in its granules, a pass that ended without a step in flight, and the chunks
and elements of a `cpr`. -/
theorem witness_StagehandSteps : (∀ r, r ∈ ((running { req := req0, mailbox := 1 }).cell 0).runs → r.mailbox ≠ 3) ∧
    tfind ({ req := req0, flying := [(0, List.replicate 64 1)] } : CopyRun).sent 0 = none ∧
    (∀ g, ({ req := req0, flying := [(0, List.replicate 64 1)] } : CopyRun).shared 0 g = false) ∧
    ({ req := req0, failed := some (4, 0) } : CopyRun).flying = [] ∧ ({ req := req0, failed := some (4, 0) } : CopyRun).done = false ∧
    ({ req := req0, done := true } : CopyRun).applying = false ∧ ({ req := req0, started := true, next := 1 } : CopyRun).sent = [] ∧
    ({ req := { req0 with kind := 3 }, started := true } : CopyRun).chunk < ({ req0 with kind := 3 } : CopyReq).steps ∧
    (running { req := { req0 with kind := 3 }, started := true }).copyReady 0 { req := { req0 with kind := 3 }, started := true } = true ∧
    (3 : Nat) % 256 < (({ req := { req0 with kind := 3 } } : CopyRun).step (3 / 256)).2.2 / ({ req0 with kind := 3 } : CopyReq).elem ∧
    ({ req := { req0 with kind := 3 } } : CopyRun).acked.contains 3 = false := by
  refine ⟨?_, ?_, fun g => ?_, ?_, ?_, ?_, ?_, ?_, ?_, ?_, ?_⟩ <;> first | decide +kernel | simp [CopyRun.shared, show req0.steps = 1 by decide +kernel]

/-- The thread's cell with class 3 bound to it and these messages in the queue. -/
def bound3 (q : List Queued) (c : Ctx) : State :=
  { world c with
    leases := [(0, spadLease), (1, { obj := .root 0, st := .held }), (2, { obj := .ring 0 0, st := .held }), (3, { obj := .cls 0 3 0 0, st := .held })]
    cells := [(0, { queue := q })] }

theorem witness_MessageInstructions : (bound3 [] thread).ownsCell 0 0 = true ∧ (bound3 [] thread).ownsCell 0 511 = false ∧
    (bound3 [] thread).bound 0 3 = some 0 ∧ (bound3 [] thread).inFlight 0 0 = 0 ∧
    { bound3 [] thread with flights := (List.range 4).map fun k => (k + 1, { msg := { hdr := 3 } }) }.inFlight 0 0 = 4 ∧
    ({ msg := { hdr := 3 }, cls := 3 } : Queued).msg.kind = 0 ∧ (bound3 [] thread).self.pl = 0 ∧ (bound3 [] thread).self.opt = false := by
  decide +kernel

/-- A message that enters, one for a context away from its cell, one unbound; an anti-message whose twin is queued. -/
theorem witness_MessageArrivals : (bound3 [] thread).residentCtx 0 = true ∧ (bound3 [] { thread with place := .saveArea }).residentCtx 0 = false ∧
    thread.requeues = none ∧ ({ msg := { hdr := 3 } } : Flight).msg.cls = 3 ∧ ({ msg := { hdr := 3 } } : Flight).msg.kind = 0 ∧
    (bound3 [] thread).overtakes 1 { msg := { hdr := 3 } } = false ∧ (bound3 [] thread).bound 0 4 = none ∧
    (∀ p, p ∈ { bound3 [] thread with flights := [(1, { msg := { hdr := 3 } })] }.flights → ¬ p.1 ≠ 1) ∧
    ({ msg := { hdr := 3 }, held := true, arrived := 2 } : Flight).arrived ≤ ({ msg := { hdr := 3 }, held := true, arrived := 4 } : Flight).arrived ∧
    (antiOf { hdr := 3 + 5 * 2 ^ 32 }).kind = 1 ∧
    ({ hdr := 3 + 5 * 2 ^ 32 } : Msg).isTwin (antiOf { hdr := 3 + 5 * 2 ^ 32 }).scell (antiOf { hdr := 3 + 5 * 2 ^ 32 }).seq = true ∧
    (bound3 [] thread).twinPending 0 (antiOf { hdr := 3 + 5 * 2 ^ 32 }) = false := by decide +kernel

/-! ## Chapters 05, 08, 18 and 19: leases -/

/-- The asker of the thread's requests. -/
def asker0 : Asker := (world thread).self.asker 0

/-- A request of each kind finds no kept answer and nothing at its end; a tile free, held by another population, and in its scrub;
frames to place a page in; a domain with a share; no group in use. -/
theorem witness_LeaseAcquisition : (world thread).keptAnswer 0 0 = none ∧ (world thread).heldOver asker0 2 0x0100_0000 = false ∧
    (world thread).heldOver asker0 3 3 = false ∧ (world thread).heldOver asker0 9 0 = false ∧ (world thread).holds = [] ∧
    0 < ((world thread).rx (7 : BitVec 5)).toNat ∧ ((world thread).rx (7 : BitVec 5)).toNat < 2 ^ 32 ∧
    (∀ p, p ∈ (world thread).over (homeCell 0) (.acc 0 3) → p.2.st ≠ .scrubbing ∧ p.2.alive = false) ∧
    { world thread with leases := [(4, { home := homeCell 0, obj := .acc 0 3, st := .scrubbing })] }.over (homeCell 0) (.acc 0 3)
      = [(4, { home := homeCell 0, obj := .acc 0 3, st := .scrubbing })] ∧
    (world thread).used (homeCell 0) (fun k => k = 2 || k = 3 || k = 4) < 64 ∧ (world thread).used (homePrompter 0) (fun k => k = 9) < 64 ∧
    (world thread).placeFrame 0 0 0x800 false = none ∧
    ({ world thread with leases := [(4, { obj := .slice 0 0, st := .held }), (6, { obj := .chan 0 0 0 false, st := .held })]
                         dies := [(0, { owned := [] })] }.placeFrame 0 0 0x800 false).isSome = true := by
  refine ⟨?_, ?_, ?_, ?_, ?_, ?_, ?_, ?_, ?_, ?_, ?_, ?_, ?_⟩ <;> decide +kernel

/-- A tile lease of the thread, and its handle. -/
def tileLease : Lease := { home := homeCell 0, obj := .acc 0 1, st := .held, pop := some 0, gen := 5, expiry := 100 }
def holdingTile (x : Word) (c : Ctx) : State := { world { c with x := [(5, x), (6, x), (7, 7)] } with leases := [(1, tileLease)] }

/-- A good handle and two bad ones, of a lease that its home holds and of one it does not; a lock descriptor good and bad. -/
theorem witness_LeaseInstructions : badHandle tileLease.handle = false ∧ badHandle 0 = true ∧ badHandle (1 <<< 63) = true ∧
    (holdingTile tileLease.handle thread).leaseOf tileLease.handle 0 = some (1, tileLease) ∧
    (holdingTile 0 thread).leaseOf (tileLease.handle + 1) 0 = none ∧ (holdingTile 0 thread).entryOf (tileLease.handle + 1) 0 = some (1, tileLease) ∧
    (holdingTile 0 thread).isUnder 1 8 2 = false ∧ (holdingTile 0 thread).depthOf 8 1 + (holdingTile 0 thread).heightOf 8 1 ≤ 4 ∧
    tileLease.alive = true ∧ handleKind tileLease.handle = 3 ∧
    handleKind ({ tileLease with obj := .root 0 } : Lease).handle = 10 ∧
    badLock (leBytes 0x1_0000_0080 8 ++ List.replicate 56 0) = false ∧ badLock (leBytes 0x1_0000_0081 8 ++ List.replicate 56 0) = true ∧
    (0x1_0000_0080 : Word).toNat % 64 = 0 ∧ (world thread).localWaits 0x1_0000_0080 64 false = .ok () ∧
    (world thread).checkAccess 0x1_0000_0080 64 false false = .ok () := by
  refine ⟨?_, ?_, ?_, ?_, ?_, ?_, ?_, ?_, ?_, ?_, ?_, ?_, ?_, ?_, ?_, ?_⟩ <;> decide +kernel

/-- The last cycle of a tick, with a renewal of the thread's tile lease that has arrived. -/
def renewing : State :=
  { holdingTile 0 thread with
    dies := [(0, { cyc := 31 })]
    lreqs := [(3, { op := .renew, xa := tileLease.handle, xb := 50, arrived := some 0 })] }

/-- A tile lease at its expiry tick; a scratchpad lease LAPSING with nothing left to do, and its scrub done; a lock that drains. -/
theorem witness_LeaseEvents : renewing.tickEnds 0 = true ∧ renewing.dieOfReq { op := .renew, xa := tileLease.handle } = 0 ∧
    renewing.entryOf tileLease.handle 0 = some (1, tileLease) ∧ renewing.notices = [] ∧ risesFrom 0 renewing.leases = true ∧
    tileLease.gen = handleGen tileLease.handle ∧ tileLease.gen ≠ handleGen (tileLease.handle + 1) ∧ renewing.tickOf tileLease.home ≤ tileLease.expiry ∧
    renewing.ticked 0 = false ∧ renewing.endWaits tileLease.obj = false ∧ { tileLease with expiry := 0 }.expiry ≤ renewing.ref 0 ∧
    (world thread).itemsDone { spadLease with st := .lapsing } = true ∧ renewing.memWf = true ∧
    { renewing with lreqs := [] }.renewalsAt 0 = [] ∧ (world thread).locksToServe 0 = [] ∧
    { renewing with leases := [(1, { tileLease with obj := .lock 0 0x1_0000_0000 })] }.waitOver
      (3, { op := .llk, xb := 1, arrived := some 0, parked := true, lock := 1 }) = true ∧
    risesFrom 0 ((world thread).cell 0).l1 = true := by
  refine ⟨?_, ?_, ?_, ?_, ?_, ?_, ?_, ?_, ?_, ?_, ?_, ?_, ?_, ?_, ?_, ?_⟩ <;> decide +kernel

/-- A renewal at another copy of a replicated lease; a page lease and its translation as LAPSING ends; a clearing and a sweep
that are over; a lock that drains, has drained, and sends its guard notice; each request and reply of LeaseEvents. -/
def leasing : State :=
  { world { thread with wait := .lease 20 } with
    dies := [(0, { cyc := 31 })]
    leases := [(1, { obj := .key 0 1, st := .lapsing }), (2, { home := homeCell 0, obj := .sp 0 1 2, st := .scrubbing }),
               (3, { home := 1, obj := .root 0, st := .held, expiry := 9, gen := 2 }),
               (4, { obj := .lock 0 0x1_0000_0000, st := .lapsed, draining := some 20, last := some { ranges := [(0x1_0000_0080, 128)] } }),
               (5, { obj := .lock 0 0x1_0000_0080, st := .lapsed, draining := some 20, drained := true }),
               (6, { obj := .lock 0 0x1_0000_0100, st := .held, expiry := 9 }), (9, { pageLease with st := .lapsing })]
    jobs := [(1, { lease := some 2, endAt := some 31 }), (2, { lease := some 1, row := rowSweep, endAt := some 31 })]
    extensions := [{ lease := 3, gen := 2, life := 7 }]
    notices := [(1, { guard := some (0, 4) }), (2, { lease := 3 })]
    lreqs := [(20, { op := .llk, xb := 5 + 2 ^ 32, lock := 0x1_0000_0100 })] }

theorem witness_LeaseEventsMore :
    leasing.extensionsAt 1 = leasing.extensions ∧ (∃ g, g ∈ leasing.pages ∧ g.lease = 9 ∧ g.second = false) ∧
    leasing.itemsDone { pageLease with st := .lapsing } = true ∧ risesFrom 0 leasing.jobs = true ∧
    (leasing.jobs.find? fun p => p.2.lease = some 1 && p.2.row = rowSweep && p.2.die = 0) =
      some (2, { lease := some 1, row := rowSweep, endAt := some 31 }) ∧
    (leasing.jobs.filter fun p => p.2.lease = some 1).length = 1 ∧ (∃ at_, (31 : Nat) = at_ ∧ at_ ≤ leasing.cyc 0) ∧
    (tfind leasing.leases 4).any (fun l => l.last.isSome && !l.drained) = true ∧ ((tfind leasing.leases 5).map (·.drained)) = some true ∧
    (tfind leasing.notices 1).any (fun z => z.guard == some (0, 4) && z.gen == 0) = true ∧ (tfind leasing.leases 4).any (fun l => l.gen == 0 && !l.alive) = true ∧
    (leasing.leases.find? fun p => p.2.obj = .lock 0 0x1_0000_0100) = some (6, { obj := .lock 0 0x1_0000_0100, st := .held, expiry := 9 }) ∧
    leasing.keptAnswer 0 0 = none ∧ (tfind leasing.lreqs 20).isSome = true ∧ (leasing.ctx 0).wait = .lease 20 ∧
    (leasing.ctx 0).trapRegs (trapLevel 0) = { tvec := 0x1_0000_4000 } ∧ leasing.locksFull 0 = false ∧
    (tfind leasing.ends 0).isNone = true ∧ risesFrom 0 leasing.notices = true ∧ leasing.notices.all (fun z => decide (z.1 < 30)) = true := by
  refine ⟨?_, ⟨page0, ?_, ?_, ?_⟩, ?_, ?_, ?_, ?_, ⟨31, ?_, ?_⟩, ?_, ?_, ?_, ?_, ?_, ?_, ?_, ?_, ?_, ?_, ?_, ?_, ?_⟩ <;>
    decide +kernel

/-- A path of the population that still lapses, one that it holds, and none; a lock with an entry that nobody has held; a tile entry that
a new grant reuses. -/
theorem witness_PathsAndLocks :
    { world thread with leases := [(1, { home := homeEgress 0, obj := .path 0 3 5, st := .lapsing, pop := some 0 })] }.leases.any
      (fun p => p.2.pop == some 0 && p.2.st == LeaseSt.lapsing && p.2.obj == LeaseObj.path 0 3 5) = true ∧
    { world thread with leases := [(1, { home := homeCell 0, obj := .acc 0 1, st := .held, pop := some 0 })] }.reuses (homeCell 0) (.acc 0 1) (some 0) = true ∧
    (world thread).residentLimit 0 0 < (world thread).residentUnits 0 0 + 1000000 ∧
    (world thread).locksFull 0 = false ∧
    { world thread with leases := (List.range 256).map fun k => (k, { obj := .lock 0 (64 * k), st := .held }) }.locksFull 0 = true ∧
    ((world thread).leases.all fun p => p.2.obj ≠ .lock 0 0x1_0000_0080) = true ∧
    (let s := { world thread with leases := [(3, { obj := .lock 0 64 })] }
     (s.leases.find? fun p => p.2.obj = .lock 0 64) = some (3, { obj := .lock 0 64 }) ∧ ({ obj := .lock 0 64 } : Lease).last = none ∧ s.locksFull 0 = false) := by
  refine ⟨?_, ?_, ?_, ?_, ?_, ?_, ?_⟩ <;> decide +kernel

/-- No die holds a resident unit of any partition, whatever its number. -/
theorem witness_LeaseEvents_allowance (o : Nat) : renewing.overAllowance o = [] := by
  have h : ∀ p, renewing.residentUnits p o = 0 := by
    intro p
    simp [State.residentUnits, renewing, holdingTile, tileLease, world]
  simp [State.overAllowance, State.tooResident, h]

/-! ## Chapter 13: optimistic mode -/

/-- The lease of group 0, a descriptor of it at the start of the scratchpad, and a book of `pages` times 4 KiB at offset 4,096. -/
def groupLease : Lease := { home := 0, obj := .group 0, st := .held, gen := 3, expiry := 100 }
def joining (h : Word) (pages : Nat) (c : Ctx) : State :=
  { world c with
    leases := [(0, spadLease), (1, groupLease)]
    groups := [(0, { lease := 1, gvt := 4 })]
    cells := [(0, { spad := Bank.write {} 0 (leBytes h.toNat 8 ++ leBytes (0x0100_1000 + pages * 2 ^ 32) 8) })] }

/-- A member between events, in an event, in its handler; a record of an event, sound and undone; a message of class 3. -/
def quietM : Member := { pbase := 4096, size := 4096, rbh := 0x1_0000_6000 }
def key7 : Key := { vrt := 7 }
def rec7 : Record := { key := key7, q := { msg := { hdr := 3, d1 := 7 }, cls := 3 } }
def joined (m : Member) : Ctx := { thread with opt := true, member := some m, lvt := 5 }
def msg3 : Queued := { msg := { hdr := 3 + 7 * 2 ^ 16 }, cls := 3 }

theorem witness_OptimisticMode_on : thread.opt = false ∧ (joined quietM).opt = true ∧ inView0 7 = false ∧
    inView0 0x0100_0008 = true ∧ (0x0100_0008 : Word).toNat % 32 ≠ 0 ∧ inView0 0x0100_0000 = true ∧ (0x0100_0000 : Word).toNat % 32 = 0 ∧
    (joining groupLease.handle 1 thread).checkHome 0x0100_0000 32 false = .ok () ∧
    (joining groupLease.handle 1 thread).engineWork 0 = false ∧ thread.pst0 = 0 ∧ thread.pst1 = 0 ∧ thread.pst2 = 0 ∧
    ({ thread with pst1 := 1 } : Ctx).pst1 ≠ 0 ∧ (joining groupLease.handle 1 thread).localWaits 0x0100_0000 32 false = .ok () ∧
    ((joining groupLease.handle 1 thread).cell 0).spad.bad 0 32 = false ∧ badHandle groupLease.handle = false ∧ badHandle 0 = true ∧
    (joining groupLease.handle 1 thread).leaseOf groupLease.handle 0 = some (1, groupLease) ∧ groupLease.alive = true ∧
    leNat ((((joining groupLease.handle 1 thread).cell 0).spad.read 0 32).take 8) = groupLease.handle.toNat ∧
    leNat (((((joining groupLease.handle 1 thread).cell 0).spad.read 0 32).drop 8).take 4) = 0x0100_1000 ∧
    leNat (((((joining groupLease.handle 1 thread).cell 0).spad.read 0 32).drop 12).take 2) = 1 ∧
    leNat (((((joining groupLease.handle 0 thread).cell 0).spad.read 0 32).drop 12).take 2) = 0 ∧
    (joining groupLease.handle 1 thread).holdsRange (some 0) 0 0x1000 4096 = true ∧
    ((joining groupLease.handle 1 thread).membersOf 0).length < 1024 := by
  refine ⟨?_, ?_, ?_, ?_, ?_, ?_, ?_, ?_, ?_, ?_, ?_, ?_, ?_, ?_, ?_, ?_, ?_, ?_, ?_, ?_, ?_, ?_, ?_, ?_, ?_⟩ <;> decide +kernel

/-- A full group. -/
theorem witness_OptimisticMode_full :
    1024 ≤ ({ joining groupLease.handle 1 thread with ctxs := (List.range 1025).map fun k => (k, joined quietM) }.membersOf 0).length := by
  decide +kernel

theorem witness_OptimisticMode : thread.member = none ∧ (joined quietM).member = some quietM ∧
    ({ quietM with handler := true } : Member).handler = true ∧ (({} : Cell).group 0).busy = none ∧
    ({ quietM with records := [rec7] } : Member).records ≠ [] ∧ ({ quietM with inEvent := true } : Member).inEvent = true ∧
    (0x0100_0040 : Word).toNat % 64 = 0 ∧ (0x0100_0041 : Word).toNat % 64 ≠ 0 ∧
    (world (joined quietM)).checkHome 0x0100_0040 64 false = .ok () ∧ (world (joined quietM)).localWaits 0x0100_0040 64 false = .ok () ∧
    ({ rec7 with entries := [.ckpt 0 {} 4096] } : Record).ckptBytes + 64 > 4096 ∧ rec7.ckptBytes + 64 ≤ 4096 ∧
    ({ quietM with records := [rec7] } : Member).used + 64 + 64 ≤ quietM.size ∧ quietM.used + 384 ≤ quietM.size ∧
    ({ rec7 with undone := true } : Record).undone = true ∧ (joined quietM).resident = true ∧
    (bound3 [msg3] (joined quietM)).bound 0 3 = some 0 ∧ msg3.msg.kind = 0 ∧ msg3.poison = [] ∧ msg3.msg.key.below msg3.msg.key = false ∧
    (∀ p, p ∈ ((bound3 [msg3] (joined quietM)).cell 0).queue → p = msg3) ∧
    rec7.event = true ∧ rec7.key = key7 ∧ rec7.undone = false ∧ ([] : List Key).contains key7 = false ∧
    (((bound3 [] thread).cell 0).room 3).isSome = true ∧
    ({ quietM with records := [{ rec7 with undone := true }] } : Member).firstUndone = some 0 ∧
    (thread.trapRegs (trapLevel thread.pl)).tvec ≠ 0 ∧ quietM.rolling = false ∧ ({ joined quietM with rbp := true } : Ctx).rbp = true ∧
    ({ quietM with target := some key7 } : Member).target = some key7 ∧ ({ quietM with rolling := true } : Member).rolling = true ∧
    ({ quietM with undoAreas := [.ckpt 0 {} 64] } : Member).undoAreas = [.ckpt 0 {} 64] ∧ (world (joined quietM)).memWf = true ∧
    ({ quietM with unversion := [5] } : Member).unversion = [5] ∧ quietM.undoAreas = [] ∧ quietM.unversion = [] ∧
    ({ quietM with requeue := [msg3] } : Member).requeue = [msg3] ∧ quietM.requeue = [] ∧ quietM.pendAnti = [] ∧
    ({ queue := List.replicate 8 { cls := 3, reserved := true } ++ List.replicate 384 { cls := 3, reserved := false } } : Cell).room 3 = none ∧
    ({ quietM with pendAnti := [(0, {})] } : Member).pendAnti = [(0, {})] ∧ (world (joined quietM)).versions = [] ∧
    ({ joined quietM with rbp := true } : Ctx).takesTurn = true ∧ ({ joined quietM with grpLapsed := true } : Ctx).grpLapsed = true ∧
    rec7.ckptBytes + 64 ≤ 4096 ∧ quietM.antiHit.contains key7 = false ∧ (antiOf msg3.msg).kind = 1 := by
  refine ⟨?_, ?_, ?_, ?_, ?_, ?_, ?_, ?_, ?_, ?_, ?_, ?_, ?_, ?_, ?_, ?_, ?_, ?_, ?_, ?_, ?_, ?_, ?_, ?_, ?_, ?_, ?_, ?_, ?_, ?_, ?_, ?_, ?_, ?_, ?_, ?_, ?_, ?_, ?_, ?_, ?_, ?_, ?_, ?_, ?_, ?_, ?_⟩ <;> decide +kernel

/-- Group 0 with its lease alive and one member in cell 0, whose record at 7 is below a published 9 and holds a deferred store. -/
def later : Packet := { op := .store [1, 2], target := .home (.spad 0 0x2000) }
def grouped (q : Group) (k : GCell) : State :=
  { world (joined { quietM with records := [{ rec7 with stamp := 7 * 2 ^ 16, entries := [.deferred (.op 0 0 later)] }] }) with
    leases := [(0, spadLease), (1, groupLease)], groups := [(0, q)], cells := [(0, { groups := [(0, k)] })] }
def g0 : Group := { lease := 1 }
def in0 : GCell := { inMask := true }

theorem witness_GvtRounds : (grouped g0 in0).groupAlive g0 = true ∧ (grouped g0 in0).membersOf 0 ≠ [] ∧ g0.phase = .idle ∧
    ({ g0 with cut := [0] } : Group).cut.contains 0 = true ∧ ({ g0 with phase := .cutting } : Group).cut.contains 0 = false ∧
    (((grouped g0 in0).cell 0).group 0).inMask = true ∧
    (grouped g0 in0).allAnswered 0 { g0 with phase := .reporting, answers := [⟨0, 0, 7, 7⟩] } = true ∧
    (grouped g0 in0).oldSum 0 { g0 with phase := .reporting, answers := [⟨0, 0, 7, 7⟩] } = 0 ∧
    (grouped g0 in0).oldSum 0 { g0 with phase := .reporting, answers := [⟨0, 1, 7, 7⟩] } ≠ 0 ∧
    ({ g0 with phase := .retry 0 } : Group).phase = .retry 0 ∧ ({ g0 with pubTo := [0] } : Group).pubTo.contains 0 = true ∧
    in0.pub = none ∧ in0.busy = none ∧ (grouped g0 in0).nextDue 0 0 7 = none ∧ risesFrom 0 (grouped g0 in0).ctxs = true ∧
    ({ in0 with pub := some 9 } : GCell).pub = some 9 ∧ (grouped g0 in0).entryBusy in0 = false ∧
    ((grouped g0 in0).nextDue 0 0 9).map (fun e => e.act) = some (.op 0 0 later) ∧ later.gen = none ∧ (grouped g0 in0).memWf = true ∧
    ((grouped g0 in0).ctx 0).entry = some 0 := by
  refine ⟨?_, ?_, ?_, ?_, ?_, ?_, ?_, ?_, ?_, ?_, ?_, ?_, ?_, ?_, ?_, ?_, ?_, ?_, ?_, ?_, ?_⟩ <;> decide +kernel

/-! ## Chapters 15 and 16: budgets, queues and slots -/

/-- Entry 0 with these fields; a cell with unsent units of it; and a charge that has arrived. -/
def spending (e : Entry) (u : Unsent) (c : List Charge) : State :=
  { world thread with
    entries := [(0, { e with lease := 5 })], cells := [(0, { unsent := [(0, u)] })]
    dies := [(0, { charges := c })], refreshes := [(0, 0, 7, 9)] }

theorem witness_BudgetEvents :
    tfind ((spending {} { units := 256 } []).cell 0).unsent 0 = some { units := 256 } ∧
    (spending {} { units := 9, since := 1 } []).cyc 0 < 1 + 256 ∧
    risesFrom 0 ((spending {} { units := 256 } []).cell 0).unsent = true ∧
    ((spending { remain := 5 } {} [{ units := 5 }]).die 0).charges = [{ units := 5 }] ∧
    tfind (spending { remain := 5 } {} []).entries 0 = some { remain := 5, lease := 5 } ∧
    ({ remain := 5 } : Entry).bst = .funded ∧ ({} : Entry).ended = false ∧ (5 : Int) - (5 : Nat) ≤ 0 ∧ 0 < (5 : Int) - (4 : Nat) ∧
    ({ bst := .overrun, grace := 65536 } : Entry).bst = .overrun ∧ 65536 ≤ ({ bst := .overrun, grace := 65536 } : Entry).grace ∧
    ((spending {} {} []).refreshes.find? fun r => r.1 = 0 && r.2.1 = 0) = some (0, 0, 7, 9) ∧
    ({ budx := false } : BudgetReq).answer = none ∧ (∀ v, thread.budxKept ≠ some (0, v)) ∧
    ({ thread with budxKept := some (0, 5) } : Ctx).budxKept = some (0, 5) ∧ ({ answer := some 5 } : BudgetReq).answer = some 5 ∧
    ({ thread with wait := .budget 3 } : Ctx).wait = .budget 3 ∧ ({ thread with bp := true } : Ctx).budgetTurn = true ∧ thread.budgetTurn = false ∧ (thread.trapRegs (trapLevel thread.pl)).tvec ≠ 0 ∧ thread.rbp = false ∧
    thread.sst = .ready ∧ thread.wait = .none ∧ thread.charged = false ∧ thread.vacating = none := by
  refine ⟨?_, ?_, ?_, ?_, ?_, ?_, ?_, ?_, ?_, ?_, ?_, ?_, ?_, fun v h => ?_, ?_, ?_, ?_, ?_, ?_, ?_, ?_, ?_, ?_, ?_, ?_⟩
  case refine_14 => cases h
  all_goals decide +kernel

/-- Bytes of partition 0 at an address. -/
def holding (va : Nat) (bs : List Byte) (s : State) : State :=
  match s.deviceWrite 0 va bs with
  | .ok t => t
  | .error _ => s

/-- A queue entry for cell 0 with two threads a cell, a budget of 1,000 units and a life of 500 ticks, in the background. -/
def entryBytes (bud : Nat) : List Byte :=
  leBytes (2 + 32) 8 ++ leBytes 0x1_0000_2000 8 ++ leBytes 1 8 ++ leBytes 0 8 ++ leBytes (500 * 2 ^ 32) 8 ++ leBytes bud 8 ++ leBytes 0 80

/-- A partition with its root, a ring, a share of the die, and one entry in its queue. -/
def queued (bud : Nat) : State :=
  holding 0x1_0000_0000 (entryBytes bud)
    { leases := [(0, { obj := .root 0, st := .held, expiry := 100 }), (1, { obj := .ring 0 0, st := .held, expiry := 100 }), (9, pageLease)]
      pages := [page0], rdy := true
      parts := [(0, { dies := [(0, { qbase := 0x1_0000_0000, qtail := 1, share := 1, slotcap := 32 })] })] }

/-- A queue with something in it and one without; an entry that is admitted and one that is not. -/
theorem witness_QueueEntryTest : ((queued 1000).part 0).flr = none ∧ (queued 1000).rdy = true ∧
    ((queued 1000).pdie 0 0).qtail ≠ ((queued 1000).pdie 0 0).qhead ∧ (queued 1000).memWf = true ∧
    (match ((queued 1000).applyCharges 0).homeRead (.mem 0 0x1_0000_0000) 128 with
      | .ok (u, bs) => bs == entryBytes 1000 && u.admitCode 0 0 (QEntry.ofBytes 0 bs) == 0
      | .error _ => false) = true ∧
    (match ((queued 0).applyCharges 0).homeRead (.mem 0 0x1_0000_0000) 128 with
      | .ok (u, bs) => u.admitCode 0 0 (QEntry.ofBytes 0 bs) == 3
      | .error _ => false) = true ∧
    (match (queued 1000).backed 0 (0x1_0000_0000 + 0x8000) with | .ok _ => true | .error _ => false) = true := by
  refine ⟨?_, ?_, ?_, ?_, ?_, ?_, ?_⟩ <;> decide +kernel

/-- Entry 3 with two threads for cell 0, where the thread of entry 0 is, or fourteen of them are. -/
def dispatching (n : Nat) (e : Entry) : State :=
  { entries := [(0, { bg := true }), (3, e)], ctxs := (List.range n).map fun k => (k, { thread with slot := k }) }

theorem witness_QueuesAndSlots :
    (dispatching 1 { q := 2, cells := [0] }).assign 0 = .place 3 ∧ (dispatching 1 { q := 2, cells := [0] }).slotsFor 0 3 = (List.range 14).map (· + 1) ∧
    ({ q := 2, cells := [0] } : Entry).llc = 0 ∧ ({ q := 2, cells := [0] } : Entry).dlc = 0 ∧ ({ q := 2, cells := [0] } : Entry).seeds = [] ∧
    (dispatching 14 { q := 2, cells := [0] }).assign 0 = .preempt 3 [13] ∧
    (let s := { dispatching 1 { q := 1 } with ctxs := [(7, { entry := some 3, place := .understudy, slot := 2 })], cells := [(0, { understudy := [7] })] }
     s.assign 0 = .restore 7 ∧ (s.slotsFor 0 3).head? = some 0 ∧ s.inSlot 0 0 = none) ∧
    thread.place = .slot ∧ thread.sst ≠ .switching ∧ (world thread).mustFinish { thread with vacating := some 3 } = false ∧
    ((world thread).cell 0).understudy.length < 48 ∧ thread.resident = true ∧ ({ thread with place := .saveArea } : Ctx).resident = false ∧
    (world { thread with sst := .halted }).inSlot 0 0 = some 0 ∧ ({ saved := [] } : PartDie).saved = [] ∧
    256 < ((300 : Word).toNat % 512 + 512 - (0 : BitVec 9).toNat) % 512 := by
  refine ⟨?_, ?_, ?_, ?_, ?_, ?_, ?_, ?_, ?_, ?_, ?_, ?_, ?_, ?_, ?_, ?_⟩ <;> decide +kernel

/-! ## Chapters 05, 09, 10, 14 and 17: packets, caches, cell control, peers -/

/-- A packet on its way, packet 1; and packets 1 and 2. -/
def sending (p : Packet) : State := { world thread with packets := [(1, p)], fresh := 9 }
def sending2 (p q : Packet) : State := { sending p with packets := [(1, p), (2, q)] }

def toSpad (o : PktOp) : Packet := { op := o, target := .home (.spad 0 0x40) }
def toPage (o : PktOp) : Packet := { op := o, target := .home (.mem 0 0x1_0000_0080) }
def add1 : PktOp := .amo 0 1 1 0

/-- A request from domain 0 to cell 64 of domain 1, before the fabric and in the first switch of its way. -/
def toFar (n : Nat) : Packet := { op := .amo 0 1 (BitVec.ofNat 64 n) 0, target := .home (.spad 64 0x40) }
def hop1 : Nat × Nat × Nat := (1, 0, middleOf 0 0)
def queuedAt (input cyc : Nat) : SwitchPlace := { stage := 1, die := 0, out := middleOf 0 0, input := input, cyc := cyc }

/-- Two requests meet in one switch output: the one that was there is first, unless the other comes in the same cycle from a lower port. -/
theorem witness_Switches : (toFar 1).toPeer = false ∧ (sending (toFar 1)).nextHop (toFar 1) = some hop1 ∧ (sending (toFar 1)).mayMove 1 (toFar 1) = true ∧
    (sending (toFar 1)).atHome 1 (toFar 1) = false ∧ (sending (toFar 1)).partnerOf 1 (toFar 1) hop1 = none ∧ (sending (toFar 1)).waitBuffers hop1 < 256 ∧
    (let a := { toFar 3 with place := some (queuedAt 4 0), port := 2, ctx := 7 }
     (sending2 a (toFar 1)).partnerOf 2 (toFar 1) hop1 = some (1, a, queuedAt 4 0) ∧ (queuedAt 4 0).cyc = (sending2 a (toFar 1)).cyc 0 ∧
       inputOf (toFar 1) < (queuedAt 4 0).input ∧ ¬ (queuedAt 0 0).cyc < (sending2 a (toFar 1)).cyc 0 ∧ (sending2 a (toFar 1)).mayMove 2 (toFar 1) = true) := by
  refine ⟨?_, ?_, ?_, ?_, ?_, ?_, ?_⟩ <;> decide +kernel

/-- A load, a store and an atomic at a scratchpad, posted or not, and one refused; a remote update at its page; barrier events; combining
packets; replies. -/
theorem witness_PacketEvents : tfind (sending (toSpad (.load 8 false))).packets 1 = some (toSpad (.load 8 false)) ∧ (sending (toSpad add1)).memWf = true ∧
    risesFrom 0 (sending2 (toSpad add1) (toSpad add1)).packets = true ∧ (sending (toSpad add1)).behind 1 = false ∧
    (toSpad (.load 8 false)).op.isBarrier = false ∧ (toSpad add1).isUpdate = false ∧ (toPage add1).isUpdate = true ∧
    (sending (toSpad add1)).judgePacket (toSpad add1) (.spad 0 0x40) = none ∧
    (sending (toSpad add1)).judgePacket { toSpad add1 with gen := some 0 } (.spad 0 0x40) = some cLAPSED ∧
    (sending (toSpad add1)).numAt (.spad 0 0x40) 8 = some 0 ∧
    (sending (toPage add1)).inFaultRing 0 0x1_0000_0080 8 = false ∧ 0x1_0000_0080 % 128 + 8 ≤ 128 ∧
    (sending (toPage add1)).numAt (.mem 0 0x1_0000_0080) 8 = some 0 ∧ (sending (toPage add1)).page 0 0x1_0000_0080 = some page0 ∧
    (sending (toPage add1)).guestsOf page0.core < 32 ∧
    32 ≤ { sending (toPage add1) with dies := [(0, { guests := List.replicate 32 (0, 7) })] }.guestsOf page0.core ∧
    (sending (toPage (.arrive true))).judge 0 (0x1_0000_0080 + 8) = (sending (toPage (.arrive true))).judge 0 0x1_0000_0080 ∧
    (sending (toPage (.arrive true))).numAt (.mem 0 0x1_0000_0080) 8 = some (0 + 0 * 2 ^ 32 + 0 * 2 ^ 48 + 0 * 2 ^ 63) ∧
    (toPage (.arrive true)).copy = none ∧ ({ toPage (.bytes 64) with copy := some 7 } : Packet).copy = some 7 ∧
    (sending (toSpad add1)).atHome 1 (toSpad add1) = true ∧ (sending (toPage add1)).coreBusy page0.core = false ∧
    { sending (toPage add1) with dies := [(0, { coreIssued := [(page0.core, 0)] })] }.coreBusy page0.core = true ∧
    ({ toSpad add1 with mates := [⟨2, 5, 1, 0, 0, 3, 0⟩] } : Packet).mates = [⟨2, 5, 1, 0, 0, 3, 0⟩] ∧ (1 : Nat) < 3 ∧
    ({ toSpad add1 with st := .performed 5 0 } : Packet).st = .performed 5 0 ∧ ({ thread with wait := .access 1 } : Ctx).wait = .access 1 ∧
    (toSpad add1).posted = true ∧ thread.part = (toSpad add1).part ∧ risesFrom 0 (sending (toSpad add1)).reports = true ∧
    (thread.trapRegs (trapLevel thread.pl)).tvec ≠ 0 := by
  refine ⟨?_, ?_, ?_, ?_, ?_, ?_, ?_, ?_, ?_, ?_, ?_, ?_, ?_, ?_, ?_, ?_, ?_, ?_, ?_, ?_, ?_, ?_, ?_, ?_, ?_, ?_, ?_, ?_, ?_, ?_⟩ <;>
    decide +kernel

/-- A dirty line of the page in L1 of cell 0, and in L2 of die 0. -/
def line1 : L1Line := { va := 0x1_0000_0080, valid := 255, dirty := 255, data := { bytes := [(0, 7)] } }
def line2 : L2Line := { va := 0x1_0000_0080, dirty := true, data := { bytes := [(0, 7)] } }
def caching (k : Ctx) : State :=
  { world k with cells := [(0, { l1 := [(3, line1)] })], dies := [(0, { l2 := [(128, line2)], cyc := 5000 })] }

theorem caching_takes : (caching thread).HomeTakes 0 0x1_0000_0080 := takes_of page0 (by decide +kernel) (by decide +kernel)

/-- A dirty line of an address that no page has, with the context of its store; a slice full of lines. -/
def orphan : L1Line := { va := 0x2_0000_0000, valid := 255, dirty := 255, stores := [({ word := 9 }, 0x2_0000_0004)] }
def crowded : State :=
  { world thread with dies := [(0, { l2 := (List.range sliceLines).map fun k =>
      (0x2_0000_0000 + 128 * k, {}) })] }

theorem witness_RefusedWritebackAndFullSlice : orphan.dirty ≠ 0 ∧ orphan.stores = [({ word := 9 }, 0x2_0000_0004)] ∧
    (match (caching thread).judge orphan.sid.toNat orphan.va with | .ok _ => none | .error e => some e) = some cXLATE ∧
    tfind (caching thread).ctxs ({ word := 9 } : Issuer).ctx = some thread ∧ (caching thread).inFaultRing 0 orphan.va 128 = false ∧
    tfind (crowded.die 0).l2 (page0.phys 0x1_0000_0080) = none ∧ risesFrom 0 (crowded.die 0).l2 = true ∧
    crowded.homeSlice 0 0 0x1_0000_0080 = 0 ∧ 1 ≤ ((crowded.die 0).l2.filter fun y => y.2.slice = 0).length - (12288 - (crowded.versionLines 0 + 1)) ∧
    ((crowded.die 0).l2.find? fun y => y.2.slice = 0 && !crowded.residentLine y.2).isSome = true ∧
    ((world { thread with wait := .fe (.spad 0 64) true, sst := .parked, charged := true }).ctx 0).running = true ∧
    ((world { thread with place := .saveArea }).ctx 0).running = false := by
  refine ⟨?_, ?_, ?_, ?_, ?_, ?_, ?_, ?_, ?_, ?_, ?_, ?_⟩ <;> decide +kernel

theorem witness_CacheEventsAndReleases : (caching thread).memWf = true ∧ tfind ((caching thread).cell 0).l1 3 = some line1 ∧
    risesFrom 0 ((caching thread).cell 0).l1 = true ∧ line1.va % 128 = 0 ∧ line1.data.poison = [] ∧
    (caching thread).inFaultRing 0 line1.va 128 = false ∧
    (∀ k, k < 128 → (caching thread).judge 0 (line1.va + k) = (caching thread).judge 0 line1.va) ∧
    (∀ k, k < 128 → (caching thread).homeByte 0 (line1.va + k) ≠ none) ∧
    line1.guarded = false ∧ line1.leaseEnd ≤ (caching thread).cyc 0 ∧ line1.dirty ≠ 0 ∧ line1.dirtySince + 4096 ≤ (caching thread).cyc 0 ∧
    tfind ((caching thread).die 0).l2 128 = some line2 ∧ risesFrom 0 ((caching thread).die 0).l2 = true ∧
    (caching thread).groupOfFrame 0 (128 / 0x1_0000) ≠ none ∧ (∀ p, (caching thread).groupOfFrame 0 (128 / 0x1_0000) = some p → (caching thread).keyless 0 p.cg = false) ∧
    (caching thread).residentLine line2 = false ∧
    { caching thread with leases := [(1, { obj := .l2 0 0x1_0000_0000 1 0, st := .held, expiry := 100 })] }.residentLine line2 = true ∧
    (caching thread).page ((0 : BitVec 16).toNat / 1024) (0x1_0000_0080 : Word).toNat = some page0 ∧
    thread.resident = true ∧ (world { thread with wait := .fe (.spad 0 64) true }).fullAt (.spad 0 64) = some false ∧
    (world thread).numAt (.spad 0 64) 8 = some 0 ∧ (world thread).judge 0 0x1_0000_0080 = .ok page0 ∧
    ({ thread with wait := .backoff 5 8 } : Ctx).wait = .backoff 5 8 ∧ ({ thread with wait := .tick 0 } : Ctx).wait = .tick 0 := by
  refine ⟨?_, ?_, ?_, ?_, ?_, ?_, ?_, ?_, ?_, ?_, ?_, ?_, ?_, ?_, ?_, ?_, ?_, ?_, ?_, ?_, ?_, ?_, ?_, ?_, ?_⟩
  case refine_16 =>
    intro p h
    have e : (caching thread).groupOfFrame 0 (128 / 0x1_0000) = some page0 := by decide +kernel
    rw [e] at h; cases h; decide +kernel
  all_goals decide +kernel

/-- A report for a fault queue at the page, and a queue with an unmapped place. -/
def reporting (p : Part) : State := { world thread with parts := [(0, p)], reports := [(4, { d0 := 3, addr := 5, info := 6 })] }

theorem witness_CellControlAndFaultQueue : (reporting {}).memWf = true ∧
    tfind (reporting {}).reports 4 = some { d0 := 3, addr := 5, info := 6 } ∧ (∀ q, q ∈ (reporting {}).reports → ¬ q.1 < 4) ∧
    ({} : Part).fqbase = 0 ∧ ((0 : Nat) + 2 * 64 - 0 % (2 * 64)) % (2 * 64) < 64 ∧
    (match (reporting { fqbase := 0x2_0000_0000 }).backed 0 0x2_0000_0000 with | .ok _ => false | .error _ => true) = true ∧
    0x1_0000_0080 % 32 = 0 ∧ (∀ j, j < 32 → (reporting { fqbase := 0x1_0000_0000, fqtail := 4 }).judge 0 (0x1_0000_0080 + j) =
      (reporting { fqbase := 0x1_0000_0000, fqtail := 4 }).judge 0 0x1_0000_0080) ∧
    (reporting { fqbase := 0x1_0000_0000, fqtail := 4 }).page 0 0x1_0000_0080 = some page0 ∧
    ((world thread).cell 0).spx = false ∧ (1 : BitVec 2) ≠ ((world thread).cell 0).spsz ∧ risesFrom 0 ((world thread).cell 0).l1 = true ∧
    (¬ ∃ l, l ∈ (world thread).leases ∧ l.2.st ≠ .lapsed ∧ ∃ b k, l.2.obj = .sp 0 b k ∧ (1 + 1) * 0x4_0000 < (b + k) * 4096) ∧
    (let l : Lease := { obj := .sp 0 0 65, st := .held }
     l.st ≠ .lapsed ∧ ∃ b k, l.obj = .sp 0 b k ∧ (0 + 1) * 0x4_0000 < (b + k) * 4096) ∧
    (dispatching 1 {}).cellsOfPart 0 = [] ∧ { dispatching 1 {} with leases := [(1, { obj := .ring 0 0, st := .held, expiry := 100 })] }.cellsOfPart 0 ≠ [] := by
  refine ⟨?_, ?_, ?_, ?_, ?_, ?_, ?_, ?_, ?_, ?_, ?_, ?_, ?_, ?_, ?_, ?_⟩
  case refine_3 => intro q h; simp [reporting] at h; subst h; decide
  case refine_13 =>
    rintro ⟨l, h, -, b, k, e, lt⟩
    simp only [world, List.mem_cons, List.not_mem_nil, or_false] at h
    rcases h with rfl | rfl | rfl <;> cases e
    exact absurd lt (by decide)
  case refine_14 => exact ⟨by decide, 0, 65, rfl, by decide⟩
  all_goals decide +kernel

/-- A sender's end with one unanswered request, packet 1, sent `tries` times; a receiver's end at 5. -/
def talking (tries : Nat) : State :=
  { sending { target := .peer 0x100 0 } with
    dies := [(0, { cyc := 400000 })], pup := 255, rdy := true
    ends := [(2, { num := 3, peer := 0x100, unanswered := [(0, 1, tries, 0)] }), (6, { sender := false, peer := 0x100, num := 4, seq := 5 })] }

theorem witness_PeersAndPorts : ((talking 0).senderEnd 3).map (·.1) = some 2 ∧
    tfind ({ num := 3, peer := 0x100, unanswered := [(0, 1, 8, 0)] } : DEnd).unanswered 0 = some (1, 8, 0) ∧
    0 + 8192 ≤ (talking 8).ref 0 ∧ 0 + 64 ≤ (talking 0).ref 0 ∧
    ((talking 0).ends.find? fun p => !p.2.sender && p.2.peer = 0x100 && p.2.num = 4).map (·.1) = some 6 ∧
    ((talking 0).ends.find? fun p => !p.2.sender && p.2.peer = 0x100 && p.2.num = 9) = none ∧
    0 + 4096 ≤ (talking 0).ref 0 ∧ risesFrom 0 (talking 0).ends = true ∧ (talking 0).rdy = true ∧
    (0x1_0000_0080 : Word).toNat % 8 = 0 ∧ (0x1_0000_0081 : Word).toNat % 8 ≠ 0 ∧ (talking 0).numAt (.mem 0 0x1_0000_0080) 8 = some 0 ∧
    (talking 0).memWf = true ∧ (talking 0).inFaultRing 0 0x1_0000_0080 8 = false := by
  refine ⟨?_, ?_, ?_, ?_, ?_, ?_, ?_, ?_, ?_, ?_, ?_, ?_, ?_, ?_⟩ <;> decide +kernel

/-- The ends with their leases, a frame at its number, and a partition at a quiesce point. -/
def answering (q : Bool) : State :=
  { talking 0 with
    parts := [(0, { quiescing := q })]
    leases := (talking 0).leases ++ [(20, { home := homePort 0, obj := .delivery 2, st := .held }), (21, { home := homePort 0, obj := .delivery 6, st := .held })] }

theorem witness_PeersAndLeases : ((answering false).receiverEnd 0x100 4).map (·.1) = some 6 ∧ (answering false).receiverEnd 0x100 9 = none ∧
    ((answering false).leaseOfEnd 6).map (·.1) = some 21 ∧ (answering false).endHeld 6 = true ∧ (answering false).childrenOf 21 = [] ∧
    (∀ l : Lease, (answering false).copiesOf 21 { l with home := homePort 0 } = []) ∧ ((answering true).part 0).quiescing = true ∧
    ((answering false).part 0).quiescing = false ∧ (∀ g, g ∈ ({ sender := false } : DEnd).kept → g.seq ≤ 5) ∧
    (0x1_0000_0080 : Nat) % 8 + 4 ≤ 8 ∧ ¬ (0x1_0000_0086 : Nat) % 8 + 4 ≤ 8 ∧ (answering false).HomeTakes 0 0x1_0000_0080 := by
  refine ⟨?_, ?_, ?_, ?_, ?_, fun l => ?_, ?_, ?_, fun g h => ?_, ?_, ?_, takes_of page0 ?_ ?_⟩
  case refine_6 => simp [State.copiesOf, homePort]
  case refine_9 => cases h
  all_goals decide +kernel

/-- A peer is up where every port is, and down where none is, whichever port it lies behind. -/
theorem witness_PeersAndPorts_up (id : Nat) : (talking 0).peerUp id = true ∧ (world thread).peerUp id = false := by
  have h : ∀ i, i < 8 → (255 : BitVec 8).getLsbD i = true := by decide
  exact ⟨h _ (Nat.mod_lt _ (by decide)), by simp [State.peerUp, world]⟩

/-! ## Chapters 17 to 21: partitions, resets, errors; chapter 03 and the step -/

/-- Partition 0 with its root at die 0, a slice held by it, another held by partition 1, and one in its scrub. -/
def ruling (a : Word) : State :=
  { world thread with
    rdy := true, dies := [(0, { ptarg := a })]
    leases := [(0, { index := (LeaseObj.root 0).treeIndex, obj := .root 0, st := .held, expiry := 100 }),
      (1, { index := (LeaseObj.slice 0 5).treeIndex, obj := .slice 0 5, st := .held, expiry := 100 }),
      (2, { index := (LeaseObj.slice 1 6).treeIndex, obj := .slice 1 6, st := .held, expiry := 100, part := 1 }),
      (3, { index := (LeaseObj.slice 0 7).treeIndex, obj := .slice 0 7, st := .scrubbing }),
      (4, { home := 1, index := (LeaseObj.slice 0 5).treeIndex, obj := .slice 0 5, st := .held, expiry := 100 }),
      (5, { home := 2, index := (LeaseObj.slice 0 5).treeIndex, obj := .slice 0 5, st := .held, expiry := 100 }),
      (6, { home := 3, index := (LeaseObj.slice 0 5).treeIndex, obj := .slice 0 5, st := .held, expiry := 100 })] }

/-- A partition at rest with a page move to domain 1 and without groups there; one with a slice not yet in its set; one not at rest. -/
def moving (ls : Table Lease) : State := { parts := [(0, { moves := [(2048, 1)], regions := [(2048, 0)] })], leases := ls }

theorem witness_PartitionCommands : ((ruling 50).part 0).flr = none ∧ ({ flr := some [] } : Part).flr ≠ none ∧
    (moving []).quiet 0 = true ∧ { moving [] with ctxs := [(0, { pst1 := 1 })] }.quiet 0 = false ∧
    (moving []).regionHome 0 2048 = some 0 ∧ (moving []).regionHome 0 2049 = none ∧ (moving []).groupsOf 0 (dieOfDom 1) = [] ∧
    (let s := moving [(1, { obj := .slice 0 32, st := .held, expiry := 100 }), (2, { obj := .chan 0 3 0 false, st := .held, expiry := 100 })]
     s.groupsOf 0 (dieOfDom 1) ≠ [] ∧ s.slicesOf 0 1 ≠ [] ∧ s.pagesOf 0 2048 = [] ∧
       ∀ l, l ∈ s.leases → l.2.st ≠ .lapsing ∧ (l.2.alive = true → l.2.pinned = true)) ∧
    (ruling 50).rdy = true ∧ ((ruling 50).die 0).ptbusy = false ∧ ((ruling 50).die 0).ptarg.toNat % 2 ^ 32 ≠ 0 ∧
    ((ruling 0).die 0).ptarg.toNat % 2 ^ 32 = 0 ∧ ((ruling 50).rootLease 0 0).isSome = true ∧
    ((ruling 50).copyOf 0 (.slice 0 5)).map (·.1) = some 1 ∧ (ruling 50).beingScrubbed (.slice 0 7) = true ∧
    (ruling 50).beingScrubbed (.slice 0 6) = false ∧ ((ruling 50).copyOf 0 (.slice 0 6)).map (fun p => p.2.part) = some 1 ∧
    (ruling 50).beingScrubbed (.slice 0 8) = false ∧ (ruling 50).copyOf 0 (.slice 0 8) = none ∧ risesFrom 0 (ruling 50).leases = true ∧
    (∀ e, e < 4 → ((ruling 50).copyOf e (.slice 0 5)).isSome = true) ∧ (ruling 50).failedGroups.contains 3 = false ∧
    { ruling 50 with failedGroups := [3] }.failedGroups.contains 3 = true ∧ ((ruling 50).die 0).rtbusy = false ∧ ({ rtbusy := true } : Die).rtbusy = true ∧
    (ruling 50).beingScrubbed (.ring 0 9) = false ∧ (∀ l, l ∈ (ruling 50).leases → ∀ q, l.2.obj ≠ .ring q 9) := by
  refine ⟨?_, ?_, ?_, ?_, ?_, ?_, ?_, ?_, ?_, ?_, ?_, ?_, ?_, ?_, ?_, ?_, ?_, ?_, ?_, ?_, ?_, ?_, ?_, ?_, ?_, ?_, ?_⟩
  case refine_27 => intro l h q; simp [ruling] at h; rcases h with rfl | rfl | rfl | rfl | rfl | rfl | rfl <;> simp
  all_goals decide +kernel

/-- A partition whose quiesce point has something to do, and work under way; one that holds back a host's access; a renewal that its
command port waits for; a page that moves to a domain with a slice and a group. -/
def quiescing (p : Part) : State := { parts := [(0, p)] }
def movable : State :=
  { moving [(1, { obj := .slice 0 32, st := .held, expiry := 100 }), (2, { obj := .chan 0 3 0 false, st := .held, expiry := 100 })] with
    pages := [{ va := 0x1_0000_0000 }] }

theorem witness_QuiescePoints : (quiescing { moves := [(2048, 1)] }).quiesceDue 0 = true ∧ (quiescing {}).quiesceDue 0 = false ∧
    (quiescing { moves := [(2048, 1)] }).partResident 0 = false ∧ (world thread).partResident 0 = true ∧ (quiescing {}).partWork 0 = false ∧
    { quiescing { moves := [(2048, 1)] } with packets := [(1, {})] }.partWork 0 = true ∧
    ({ quiescing := true, heldHost := [(0, .load 8)] } : Part).heldHost = [(0, .load 8)] ∧ (quiescing {}).ends = [] ∧
    movable.pagesOf 0 2048 = [{ va := 0x1_0000_0000 }] ∧
    (((movable.modPart 0 fun q => { q with moves := [] }).flushPages 0 (movable.pagesOf 0 2048)).placeFrame 0 1 (0x1_0000_0000 / 0x20_0000) false).isSome = true ∧
    (∀ x, x ∈ (ruling 50).extensions → x.port ≠ some 0) ∧
    ({ ptbusy := true } : Die).ptbusy = true ∧ (0 : BitVec 4).toNat < 6 ∧ 6 ≤ (9 : BitVec 4).toNat := by
  refine ⟨?_, ?_, ?_, ?_, ?_, ?_, ?_, ?_, ?_, ?_, (fun x h => by cases h), ?_, ?_, ?_⟩ <;> decide +kernel

/-- A slice that waits for its first quiesce point; a full table of spare rows, a ring mapped out. -/
theorem witness_MembersAndSpares : (let l : Lease := { obj := .slice 0 5, st := .held, pinned := false, expiry := 100 }
     l.alive = true ∧ l.pinned = false ∧ { quiescing {} with leases := [(7, l)] }.quiesceDue 0 = true) ∧
    64 ≤ (({ rowMap := (List.range 64).map fun k => (3, 0, k) } : Die).rowMap.filter fun r => r.1 = 3).length ∧
    (({} : Die).rowMap.filter fun r => r.1 = 3).length < 64 ∧ (∃ r, r ∈ ({ ringMap := [9] } : Die).ringMap ∧ r / 8 = 10 / 8) := by
  refine ⟨?_, ?_, ?_, 9, ?_, ?_⟩ <;> decide +kernel

/-- A partition in its reset, held by job 5; slot A of the flash without its magic number. -/
theorem witness_ResetsAndBringUp : ({ flr := some [5] } : Part).flr = some [5] ∧ (tfind ({ jobs := [(5, {})] } : State).jobs 5).isSome = true ∧
    tfind State.reset.jobs 5 = none ∧ State.reset.powered = true ∧ ({ powered := false } : State).powered = false ∧
    State.reset.stage = 0 ∧ State.reset.fail = 7 ∧ State.reset.slotA.magic ≠ 0x58475833 ∧ State.reset.slotB.magic ≠ 0x58475833 ∧
    ({ stage := 3 } : State).retryAt ≤ ({ stage := 3 } : State).ref 0 ∧ 0 ∉ (State.reset.die 0).clean ∧
    (7 : BitVec 3).toNat = 7 ∧ (State.reset.part 0).flr = none ∧
    (∃ e, ({ part := some 0, endAt := some 9 } : Job).endAt = some e ∧ 0 < (5 : Nat) ∧ 5 < e) := by
  refine ⟨?_, ?_, ?_, ?_, ?_, ?_, ?_, ?_, ?_, ?_, ?_, ?_, ?_, ⟨9, ?_, ?_, ?_⟩⟩ <;> decide +kernel

/-- An image slot that meets every condition but the signature, whose function no part of the model gives (log 6). -/
theorem witness_ResetsAndBringUp_image : ∃ f : FlashSlot, f.magic = 0x58475833 ∧ f.len ≤ 0x80_0000 - 128 ∧
    Config.sm3 (leBytes f.magic.toNat 4 ++ leBytes f.len 4 ++ leBytes f.svn.toNat 4 ++ [0, 0, 0, 0] ++ f.image.take f.len) = f.dig ∧
    State.reset.rollback.toNat ≤ f.svn.toNat :=
  ⟨{ magic := 0x58475833, dig := Config.sm3 (leBytes (0x58475833 : BitVec 32).toNat 4 ++ leBytes 0 4 ++ leBytes 0 4 ++ [0, 0, 0, 0] ++ []) },
    rfl, by decide, rfl, by decide⟩

theorem witness_SoftErrorsAndSecondNames : 64 < ((world thread).cell 0).spadSize ∧ tfind ((caching thread).die 0).l2 (130 / 128 * 128) = some line2 ∧
    (2 : Nat) ∈ ({ written := [2] } : Die).written ∧ (2 : Nat) ∉ ((world thread).die 0).written ∧ tfind (world thread).ctxs 0 = some thread ∧
    ({ thread with place := .understudy } : Ctx).place = .understudy ∧ 0 < ((bound3 [msg3] thread).cell 0).queue.length ∧
    ((world thread).groupOfFrame 0 0) = some page0 ∧ (world thread).groupOfFrame 0 1 = none ∧ 0x1_0000_0000 ≤ 0x1_0001_0000 / 0x1_0000 * 0x1_0000 ∧
    (tfind ({ l1 := [(3, {})] } : Cell).l1 3).isSome = true ∧ versionedWord.page 0 0x1_0000_0080 ≠ none ∧
    (versionedWord.sliceOf 0 0x1_0000_0080).map (·.1) = some 0 := by
  refine ⟨?_, ?_, ?_, ?_, ?_, ?_, ?_, ?_, ?_, ?_, ?_, ?_, ?_⟩ <;> decide +kernel

theorem witness_DecodeOfEncode : encode (.addi 7 7 0xFFFC) = some 0x08E7FFFC#32 ∧ (Instr.addi 7 7 0xFFFC).wf = true ∧
    decode (encodeBytes (.addi 7 7 0xFFFC) ++ [1]) = .ok (.addi 7 7 0xFFFC, [1]) := by
  refine ⟨?_, ?_, ?_⟩ <;> rfl

/-- The thread at its page with a word there, in the order of a schedule. -/
def stepping (w : Nat) (c : Ctx) : State := { holding 0x1_0000_0000 (leBytes w 4) (world c) with sched := [.issue 0] }

/-- What the issue of a step begins from. -/
def issued (s : State) : State := { ({ s with sched := [] }.chargeIssue 0).noteIssue 0 with cur := 0 }

theorem witness_StepRunsTheDecodedInstruction : (stepping 0x08E7FFFC thread).powered = true ∧ (stepping 0x08E7FFFC thread).mayRun 0 = true ∧
    thread.charged = false ∧ thread.taken = none ∧ thread.migrated = false ∧ ({ thread with place := .pantry 0, wait := .guest } : Ctx).migrated = true ∧
    ((issued (stepping 0x08E7FFFC thread)).fetchWord 0).map (·.2) = .ok 0x08E7FFFC#32 ∧
    ((issued (stepping 0 thread)).fetchWord 0).map (·.2) = .ok 0#32 ∧
    (match (issued (stepping 0 { thread with pc := 0x2_0000_0000 })).fetchWord 0 with | .ok _ => false | .error _ => true) = true ∧
    decodeWord 0x08E7FFFC#32 = .ok (.addi 7 7 0xFFFC) ∧ decodeWord 0#32 = .error (.unassigned 0#32) ∧
    thread.readsBad (.addi 7 7 0xFFFC) = false ∧ ({ thread with badRegs := [7] } : Ctx).readsBad (.addi 7 7 0xFFFC) = true ∧
    thread.pc.toNat % 4 = 0 ∧ 0x1_0000_0000 ≤ thread.pc.toNat ∧ thread.pc.toNat < 2 ^ 48 ∧
    ((world thread).cell 0).l1Line 0 thread.pc.toNat = none ∧ (stepping 0x08E7FFFC thread).numAt (.mem 0 0x1_0000_0000) 4 = some 0x08E7FFFC ∧
    (tfind (world thread).ctxs (world thread).cur).isSome = true := by
  refine ⟨?_, ?_, ?_, ?_, ?_, ?_, ?_, ?_, ?_, ?_, ?_, ?_, ?_, ?_, ?_, ?_, ?_, ?_, ?_⟩ <;> decide +kernel

/-- The fetch of that step: its home takes it, the cell has room for the line, the context fetches, and a trap of it has a handler. -/
theorem witness_Fetches : (stepping 0x08E7FFFC thread).HomeTakes 0 0x1_0000_0000 ∧ ((stepping 0x08E7FFFC thread).cell 0).l1Room ∧
    (stepping 0x08E7FFFC thread).self.fetches = true ∧ ((stepping 0x08E7FFFC thread).issueWord 0 0).hasHandler ∧
    thread.rbp = false := by
  refine ⟨takes_of page0 ?_ ?_, ⟨?_, ?_⟩, ?_, ?_, ?_⟩
  case refine_6 => unfold State.hasHandler; decide +kernel
  all_goals decide +kernel

/-- A step that has a next state, from a state whose memories are canonical and whose privilege levels are legal. -/
theorem witness_invariants : (stepping 0x08E7FFFC thread).memWf = true ∧ (∀ p, p ∈ (stepping 0x08E7FFFC thread).ctxs → p.2.plOk = true) ∧
    (∀ p, p ∈ (stepping 0x08E7FFFC thread).entries → p.2.pl ≠ 3) ∧ (match step (stepping 0x08E7FFFC thread) with | .next _ => true | _ => false) = true := by
  refine ⟨?_, ?_, ?_, ?_⟩ <;> decide +kernel

/-! ## Further clauses: what each premise of them meets -/

/-- Nothing stands in a switch on the way of an access; a slice has room for versions. -/
theorem witness_NothingOnTheWay : fullWord.fabricWaits 0x0100_0000 8 false true = .ok () ∧
    versionedWord.fabricWaits 0x1_0000_0080 8 false true = .ok () ∧ (world thread).fabricWaits 0x0100_0000 16 false true = .ok () ∧
    (world thread).fabricWaits 0x1_0000_0080 64 false false = .ok () ∧ versionedWord.sliceOf 0 0x1_0000_0080 = some (0, 0) ∧
    versionedWord.L2Room 0 0 := by
  refine ⟨?_, ?_, ?_, ?_, ?_, ?_⟩
  case refine_6 => unfold State.L2Room; decide +kernel
  all_goals decide +kernel

/-- Two lanes of eight bytes in a line of the page that L2 holds, and that the cell's L1 holds whole, clean and new enough. -/
def memLanes : State :=
  { world { thread with x := [(5, 0x1_0000_0080)], p := [(1, 3)], v := [(1, 1 <<< 64)] } with
    cells := [(0, { l1 := [(0, { va := 0x1_0000_0080, valid := BitVec.allOnes 128, fill := 1, leaseEnd := 9 })] })]
    dies := [(0, { l2 := [(128, { va := 0x1_0000_0080 })] })] }

theorem witness_GathersAndScatters_memory : memLanes.Open 0x1_0000_0080 8 true 0 0 ∧ memLanes.Open 0x1_0000_0088 8 true 0 0 ∧
    memLanes.Open 0x1_0000_0088 8 false 0 0 ∧ (let s := { memLanes with cells := [] }
     s.readBytes 0x1_0000_0088 8 true = .ok (s, List.replicate 8 0)) ∧
    memLanes.fabricWaits 0x1_0000_0088 8 false true = .ok () ∧ memLanes.fabricWaits 0x1_0000_0088 8 true true = .ok () ∧
    memLanes.Clear coverAll ∧ memLanes.memWf = true ∧ memLanes.inFaultRing 0 0x1_0000_0088 8 = false ∧
    memLanes.judge 0 0x1_0000_0088 = .ok page0 ∧ page0.phys (0x1_0000_0088 / 128 * 128) = 128 ∧
    ((memLanes.cell 0).l1Line 0 0x1_0000_0088).map (fun p => (p.2.valid, p.2.dirty, p.2.fill)) = some (BitVec.allOnes 128, 0, 1) ∧
    risesFrom 0 (memLanes.cell 0).l1 = true := by
  refine ⟨open_of ?_ ?_ ?_ rfl ?_ ?_ ?_ ?_ ?_, open_of ?_ ?_ ?_ rfl ?_ ?_ ?_ ?_ ?_, open_of ?_ ?_ ?_ rfl ?_ ?_ ?_ ?_ ?_, ?_, ?_, ?_,
    clear_of ?_ ?_ ?_, ?_, ?_, ?_, ?_, ?_, ?_⟩ <;> decide +kernel

/-- A program message behind a held one of its context; no requeue waits for its entry. -/
theorem witness_MessageArrivals_order :
    (let f : Flight := { msg := { hdr := 3 }, held := true, arrived := 2 }
     f.held = true ∧ f.cap = none ∧ f.cell = 0 ∧ f.msg.kind = 0 ∧ (bound3 [] thread).bound 0 f.msg.cls = (bound3 [] thread).bound 0 3) ∧
    (∀ p, p ∈ (bound3 [] thread).ctxs → p.2.requeues = none) ∧
    ({ joined { quietM with rolling := true, requeue := [msg3] } with place := .slot } : Ctx).requeues = some msg3 ∧
    (bound3 [] thread).waitsForEntry { msg := { hdr := 3 }, held := true } = true := by
  refine ⟨⟨?_, ?_, ?_, ?_, ?_⟩, ?_, ?_, ?_⟩ <;> decide +kernel

/-- A capability register that names a peer behind a port that is up; the share of the domain admits one GB/s. -/
def peering : State :=
  { world { thread with x := [(6, 0x1_0001), (7, 7)], c := [(1, { bits := BitVec.ofNat 128 (0x100 <<< 48), tag := true })] } with
    pup := 255
    leases := [(1, { obj := .root 0, st := .held }), (2, { obj := .share 0 0 100, st := .held, expiry := 100 })] }

theorem witness_LeaseAcquisition_peer : (peering.rc (1 : BitVec 3)).id = 0x100 ∧ (peering.rc (1 : BitVec 3)).tag = true ∧
    peering.peerUp 0x100 = true ∧ (peering.rx (6 : BitVec 5)).toNat / 2 ^ 32 = 0 ∧ (peering.rx (6 : BitVec 5)).toNat % 2 ^ 16 / 8 = 0 ∧
    1 ≤ peering.shareIn 0 0 ∧ peering.used (homeEgress 0) (fun k => k = 8) < 64 ∧ (∀ f, peering.reserved f = 0) ∧
    peering.keptAnswer 0 0 = none ∧ peering.heldOver { asker0 with capId := some 0x100 } 8 0x1_0001 = false := by
  refine ⟨?_, ?_, (by
    have h : ∀ i, i < 8 → (255 : BitVec 8).getLsbD i = true := by decide
    exact h _ (Nat.mod_lt _ (by decide))), ?_, ?_, ?_, ?_, (fun f => ?_), ?_, ?_⟩
  case refine_7 => simp [State.reserved, peering, world]
  all_goals decide +kernel

/-- A root lease with a copy at another Prompter, asked for at privilege 2. -/
def rootCopies : State :=
  { world { thread with pl := 2 } with
    leases := [(3, { home := 0, obj := .root 0, st := .held, expiry := 9 }), (4, { home := 1, obj := .root 0, st := .held, expiry := 9 })] }

theorem witness_LeaseInstructions_copies :
    (let h := ({ home := 0, obj := .root 0 } : Lease).handle
     badHandle h = false ∧ handleKind h = 10 ∧ (rootCopies.leaseOf h 0).map (·.1) = some 3) ∧ ¬ rootCopies.self.pl.toNat < 2 ∧
    (holdingTile tileLease.handle thread).self.pl = 0 ∧ ¬ (handleKind tileLease.handle = 10 ∨ handleKind tileLease.handle = 11) := by
  refine ⟨⟨?_, ?_, ?_⟩, ?_, ?_, ?_⟩ <;> decide +kernel

/-- A `rcv` after an earlier event of the same time, with a mask that names the class. -/
theorem witness_OptimisticMode_later : ({ quietM with records := [rec7] } : Member).used + 384 ≤ quietM.size ∧
    (8 : Word).toNat % 2 ^ 16 ≠ 0 ∧ (8 : Word).getLsbD 3 = true ∧ rec7.event = true ∧ rec7.undone = false ∧
    [rec7].countP (fun r => r.event && !r.undone && r.key.vrt = rec7.q.msg.vrt) = 1 := by
  refine ⟨?_, ?_, ?_, ?_, ?_, ?_⟩ <;> decide +kernel

/-- A slot with as many events of one time as a stamp can number. -/
theorem witness_OptimisticMode_crowded : ∃ m : Member, 65536 ≤ m.records.countP (fun r => r.event && !r.undone && r.key.vrt = 7) ∧
    m.used + 384 ≤ m.size := by
  refine ⟨{ records := List.replicate 65536 rec7, size := ({ records := List.replicate 65536 rec7 } : Member).used + 384 }, ?_, Nat.le_refl _⟩
  rw [List.countP_replicate]
  decide

/-- A Prompter that has made its test of the cycle, and one that has not. -/
theorem witness_tests : (spending {} {} []).hasTested 0 = false ∧ { world thread with dies := [(0, { tested := some 0 })] }.hasTested 0 = true := by
  decide +kernel

/-- An entry that waits in the order of its deadline before one in the background, and whose threads are placed or need a victim. -/
def inOrder (n : Nat) : State := dispatching n { q := 2, cells := [0], order := 1 }

theorem witness_QueuesAndSlots_order : risesFrom 0 (inOrder 1).entries = true ∧
    (∀ e, e ∈ (inOrder 14).entries → ∀ f, f ∈ (inOrder 14).entries → e.2.order = f.2.order → e = f) ∧
    (∀ y, y ∈ (inOrder 14).inCell 0 → ∀ z, z ∈ (inOrder 14).inCell 0 → y.2.slot = z.2.slot → y = z) ∧
    ((inOrder 1).entries.filter fun e => !e.2.bg).length = 1 ∧ (inOrder 1).oldestSaved 0 3 = none ∧ ((inOrder 1).part 0).quiescing = false ∧
    (inOrder 1).assign 0 = .place 3 ∧ (inOrder 14).assign 0 = .preempt 3 [13] ∧ 1 ≤ (inOrder 14).imagePlaces 0 ∧
    (inOrder 1).returnSlots 0 = inOrder 1 := by
  refine ⟨?_, ?_, ?_, ?_, ?_, ?_, ?_, ?_, ?_, ?_⟩ <;> decide +kernel

/-- The state that a test reads its entry in is sound: it lists leases and entries in order, and one root lease at its Prompter. -/
theorem witness_QueueEntryTest_sound : (match ((queued 1000).applyCharges 0).homeRead (.mem 0 0x1_0000_0000) 128 with
    | .ok (u, _) => risesFrom 0 u.leases && risesFrom 0 u.entries && u.entries.isEmpty &&
        (u.leases.filter fun l => l.2.obj = .root 0 && l.2.home = 0).length == 1
    | .error _ => false) = true ∧ (queued 1000).hasTested 0 = false ∧ (0 : Nat) < 4 := by
  refine ⟨?_, ?_, ?_⟩ <;> decide +kernel

/-- A `cpr` that has read its one step, before and after it turns to its elements. -/
def reducing (b : Bool) : CopyRun :=
  { req := { req0 with kind := 3 }, started := true, applying := b, staged := [(0, List.replicate 64 1)] }

theorem witness_StagehandCopies_chunks : (running (reducing true)).copyReady 0 (reducing true) = true ∧
    (reducing true).next < min ((reducing true).chunk + 64) (reducing true).req.steps ∧ peerOf (reducing true).req.dcap = false ∧
    (∃ e, e < ((reducing true).step 0).2.2 / (reducing true).req.elem ∧ (reducing true).acked.contains (256 * 0 + e) = false) ∧
    (∀ j, j < min (0 + 64) (reducing false).req.steps → (tfind (reducing false).staged j).isSome) ∧ (reducing false).failed = none := by
  refine ⟨?_, ?_, ?_, ⟨0, ?_, ?_⟩, ?_, ?_⟩
  case refine_6 =>
    intro j h
    have e : min (0 + 64) (reducing false).req.steps = 1 := by decide +kernel
    rw [e] at h
    have : j = 0 := by omega
    subst this
    decide
  all_goals decide +kernel

/-- A request that joins one in whose wait buffer another from a higher port of the same cycle stands. -/
theorem witness_PacketEvents_mates :
    (let d : Mate := { pkt := 3, v := 4, stage := 1, die := 0, out := middleOf 0 0, input := 5, cyc := 0 }
     let a : Packet := { toFar 3 with place := some (queuedAt 0 0), port := 2, ctx := 7, mates := [d] }
     (sending2 a (toFar 1)).partnerOf 2 (toFar 1) hop1 = some (1, a, queuedAt 0 0) ∧ ¬ inputOf (toFar 1) < (queuedAt 0 0).input ∧
       d.cyc = (sending2 a (toFar 1)).cyc 0 ∧ inputOf (toFar 1) < d.input) := by
  refine ⟨?_, ?_, ?_, ?_⟩ <;> decide +kernel

/-- A refused posted operation whose report class 14's context, away from its cell, is to get; and one whose report is stored. -/
def storing : State :=
  { sending { toSpad add1 with st := .refused 8 } with
    ctxs := [(0, thread), (1, { thread with slot := 1, place := .saveArea })], leases := [(3, { obj := .cls 0 14 1 1, st := .held })] }

theorem witness_PacketEvents_stored : storing.binding 0 14 = some (3, 1) ∧ storing.residentCtx 1 = false ∧ (storing.cell 0).gstore.length < 64 ∧
    (sending { toSpad add1 with st := .refused 8 }).reportStored 1 = false ∧
    { sending { toSpad add1 with st := .reported } with cells := [(0, { gstore := [{ pkt := some 1 }] })] }.reportStored 1 = true := by
  refine ⟨?_, ?_, ?_, ?_, ?_⟩ <;> decide +kernel

/-- A peer's take of an empty word waits, and its give to a full one; sixteen bytes of the host lie over two lines of L2. -/
def twoLines : State :=
  { world thread with dies := [(0, { l2 := [(128, { va := 0x1_0000_0080 }), (256, { va := 0x1_0000_0100 })] })] }

theorem witness_PeersAndPorts_words : (talking 0).fullAt (.mem 0 0x1_0000_0080) = some false ∧ holdingFull.fullAt (.mem 0 0x1_0000_0080) = some true ∧
    twoLines.memWf = true ∧ ((twoLines.part 0).quiescing = false) ∧
    (∀ k, k < 16 → ∃ x, twoLines.judge 0 (0x1_0000_00F8 + k) = .ok page0 ∧
      twoLines.judge 0 (max 0x1_0000_00F8 ((0x1_0000_00F8 + k) / 128 * 128)) = .ok page0 ∧
      tfind (twoLines.die page0.die).l2 (page0.phys ((0x1_0000_00F8 + k) / 128 * 128)) = some x ∧ x.va = (0x1_0000_00F8 + k) / 128 * 128) ∧
    (∀ k, k < 16 → twoLines.homeByte 0 (0x1_0000_00F8 + k) ≠ none) := by
  have h : ∀ k, k < 16 → twoLines.judge 0 (0x1_0000_00F8 + k) = .ok page0 ∧
      twoLines.judge 0 (max 0x1_0000_00F8 ((0x1_0000_00F8 + k) / 128 * 128)) = .ok page0 ∧
      (tfind (twoLines.die page0.die).l2 (page0.phys ((0x1_0000_00F8 + k) / 128 * 128))).map (·.va) = some ((0x1_0000_00F8 + k) / 128 * 128) := by
    decide +kernel
  refine ⟨?_, ?_, ?_, ?_, fun k hk => ?_, ?_⟩
  case refine_5 =>
    obtain ⟨a, b, c⟩ := h k hk
    obtain ⟨x, e, f⟩ := Option.map_eq_some_iff.mp c
    exact ⟨x, a, b, e, f⟩
  all_goals decide +kernel

/-- The port as house cores reach it; a slice whose copy on this die has lapsed while another die's is held; a root's number that is
not zero in a word of `ptcmd`. -/
theorem witness_PartitionCommands_port : ({ ruling 50 with house := 255 }).house ≠ 0 ∧ (ruling 50).house.toNat < 256 ∧
    (let s : State := { leases := [(1, { obj := .slice 0 9, st := .lapsed, index := (LeaseObj.slice 0 9).treeIndex }),
        (2, { home := 1, obj := .slice 0 9, st := .held, expiry := 100, index := (LeaseObj.slice 0 9).treeIndex })] }
     (s.copyOf 0 (.slice 0 9)).map (fun p => p.2.alive) = some false ∧ s.beingScrubbed (.slice 0 9) = false ∧
       ∃ l, l ∈ s.leases ∧ l.2.home < 4 ∧ l.2.obj.kind = (LeaseObj.slice 0 9).kind ∧ l.2.alive = true) ∧
    (0x400 : Word).toNat / 2 ^ 0 % 2 ^ 4 = 0 ∧ (0x400 : Word).toNat / 2 ^ 10 % 2 ^ 8 ≠ 0 := by
  refine ⟨?_, ?_, ⟨?_, ?_, _, .tail _ (.head _), ?_, ?_, ?_⟩, ?_, ?_⟩ <;> decide +kernel

/-- Two jobs of one row: the second waits for the first, with the cycle of its own end, and a function-level reset waits for both. -/
def twoJobs : State :=
  let j : Job := { part := some 0, bytes := 4096 }
  let s := (({ rdy := true } : State).startJob j 64).startJob j 64
  { s with dies := [(0, { cyc := 5 })] }

theorem witness_ResetsAndBringUp_jobs : twoJobs.jobs.map (fun p => p.2.endAt) = [some 64, some 128] ∧
    (∀ p, p ∈ twoJobs.jobs → p.2.part = some 0 ∧ p.2.since < twoJobs.cyc p.2.die ∧ ∃ e, p.2.endAt = some e ∧ twoJobs.cyc p.2.die + 1 < e) ∧
    (twoJobs.jobsOf 0).length = 2 ∧ twoJobs.rdy = true ∧ (twoJobs.part 0).flr = none ∧
    ({} : FlashSlot).len ≤ ({} : FlashSlot).image.length ∧ (0xFF : Byte) = 0xFF ∧ ({ stage := 5 } : State).retryAt ≤ ({ stage := 5 } : State).ref 0 := by
  refine ⟨?_, fun p h => ?_, ?_, ?_, ?_, ?_, ?_, ?_⟩
  case refine_2 =>
    have e : ∀ p, p ∈ twoJobs.jobs → p.2.part = some 0 ∧ p.2.since < twoJobs.cyc p.2.die ∧
        (p.2.endAt.any fun e => decide (twoJobs.cyc p.2.die + 1 < e)) = true := by decide +kernel
    obtain ⟨a, b, c⟩ := e p h
    obtain ⟨x, m, y⟩ := (Option.any_eq_true _ _).mp c
    exact ⟨a, b, x, m, of_decide_eq_true y⟩
  all_goals decide +kernel

/-- The protected doublewords of registers, an image and an entry at their bounds; finite values of both formats. -/
theorem witness_SoftErrors_units : registerWord 1 = true ∧ registerWord 31 = true ∧ registerWord 49 = true ∧ registerWord 70 = true ∧
    registerWord 128 = true ∧ registerWord 271 = true ∧ registerWord 0 = false ∧ registerWord 48 = false ∧ registerWord 272 = false ∧
    (world { thread with place := .saveArea }).errExists (.image 0 255) = true ∧ (bound3 [msg3] thread).errExists (.queue 0 0 3) = true ∧
    (world { thread with place := .saveArea }).errExists (.image 0 256) = false ∧
    (∃ m e, unpack .b32 0x3F80_0000 = .fin false m e ∧ m ≠ 0) ∧ unpack .b32 0x7F80_0001 = .nan true := by
  refine ⟨?_, ?_, ?_, ?_, ?_, ?_, ?_, ?_, ?_, ?_, ?_, ?_, ⟨_, _, rfl, ?_⟩, ?_⟩ <;> decide +kernel

/-! ## Steps whose results the manual states -/

/-- The thread with x6, x7 and x5 as given. -/
def with3 (a b d : Word) : State := world { thread with x := [(5, d), (6, a), (7, b)] }

/-- The acting context after an instruction that goes on. -/
def after (i : Instr) (s : State) : Ctx :=
  match exec i s with
  | .next t => t.self
  | _ => {}

/-- x5 after it. -/
def x5 (i : Instr) (s : State) : Word := (after i s).x? 5

/-- 04 R67, its example. -/
theorem test_division_of_minus_seven : x5 (.div 5 6 7) (with3 (-7) 2 0) = -3 ∧ x5 (.rem 5 6 7) (with3 (-7) 2 0) = -1 ∧
    x5 (.divu 5 6 7) (with3 0xFFFF_FFFF_FFFF_FFF9 2 0) = 0x7FFF_FFFF_FFFF_FFFC ∧ x5 (.remu 5 6 7) (with3 0xFFFF_FFFF_FFFF_FFF9 2 0) = 1 := by
  refine ⟨?_, ?_, ?_, ?_⟩ <;> decide +kernel

/-- 04 R67, its table of borderline cases. -/
theorem test_division_borders : x5 (.div 5 6 7) (with3 9 0 0) = -1 ∧ x5 (.divu 5 6 7) (with3 9 0 0) = -1 ∧ x5 (.rem 5 6 7) (with3 9 0 0) = 9 ∧
    x5 (.remu 5 6 7) (with3 9 0 0) = 9 ∧ x5 (.div 5 6 7) (with3 0x8000_0000_0000_0000 (-1) 0) = 0x8000_0000_0000_0000 ∧
    x5 (.divu 5 6 7) (with3 0x8000_0000_0000_0000 (-1) 0) = 0 ∧ x5 (.rem 5 6 7) (with3 0x8000_0000_0000_0000 (-1) 0) = 0 ∧
    x5 (.remu 5 6 7) (with3 0x8000_0000_0000_0000 (-1) 0) = 0x8000_0000_0000_0000 := by
  refine ⟨?_, ?_, ?_, ?_, ?_, ?_, ?_, ?_⟩ <;> decide +kernel

/-- 04 R68, its examples. -/
theorem test_bit_fields : x5 (.bfx 5 6 7) (with3 0x1234_5678 0x0C08 0) = 0x456 ∧
    x5 (.bfi 5 6 7) (with3 5 0x0804 0xFFFF_FFFF_FFFF_FFFF) = 0xFFFF_FFFF_FFFF_F05F ∧
    x5 (.bfx 5 6 7) (with3 0xA234_5678_0000_0000 (8 * 256 + 60) 0) = 0xA := by
  refine ⟨?_, ?_, ?_⟩ <;> decide +kernel

/-- 06 R142, its example: lanes 2.5, -3.5, 300.0 and a quiet NaN; NX and NV are bits 0 and 4 of the flags. -/
def floats : State :=
  world { thread with v := [(6, 0x4020_0000 + 0xC060_0000 * 2 ^ 32 + 0x4396_0000 * 2 ^ 64 + 0x7FC0_0000 * 2 ^ 96)] }
theorem test_convert_floats_to_bytes : ((after (.vcvt 5 6 0 0 4) floats).v? 5 = 2 + 0xFC * 256 + 127 * 65536) ∧
    (after (.vcvt 5 6 0 0 4) floats).fflags = flagNX ||| flagNV ∧
    ((after (.vcvtRtz 5 6 0 0 4) floats).v? 5 = 2 + 0xFD * 256 + 127 * 65536) := by
  refine ⟨?_, ?_, ?_⟩ <;> decide +kernel

/-- 02 R40, R41, their example: the planes of the worked block at raw offset 0, its scale byte 0x81 at 0x200. -/
def planes : List Byte := leBytes 2 8 ++ leBytes 10 8 ++ leBytes 11 8 ++ leBytes 3 8 ++ leBytes 0 16 ++ leBytes 2 8 ++ leBytes 2 8
def block : State :=
  { world { thread with x := [(6, 0x0190_0004), (7, 0x0140_0001)], me := { vsb := 0x200 } } with
    cells := [(0, { spad := Bank.write (Bank.write {} 0 planes) 0x200 [0x81] })] }
theorem test_nested_views : x5 (.ldW 5 6 0 0 0) block = 0xFFFF_FFFF_BED0_0000 ∧ x5 (.ldB 5 7 0 0 0) block = -1 := by
  refine ⟨?_, ?_⟩ <;> decide +kernel

/-- 09 R204, its example. -/
theorem test_placement_word : placementWord 74 1 2 1 8 2 = 0x0000_0008_1C40_424A := by decide +kernel

/-- 05 R93: a doubleword stored and the byte of it that little-endian order puts at offset 1, sign-extended. -/
theorem test_store_then_load : (match exec (.stD 7 5 0 0 3) (world { thread with x := [(5, 0x0100_0000), (7, 0x8182_8384)] }) with
    | .next t => x5 (.ldB 5 5 0 0 25) t
    | _ => 0) = 0xFFFF_FFFF_FFFF_FF83 := by decide +kernel

/-- 03 R45; 04 R74: `jal x1, 0x10` at 0x1_0000_0000, through a step. -/
theorem test_step_jal : (match step (stepping 0x40200010 thread) with | .next t => (t.self.pc, t.self.x? 1) | _ => (0, 0))
    = (0x1_0000_0040, 0x1_0000_0004) := by decide +kernel

/-- 04 R80; 17 R327: `trap 5` saves the pc after it and its level, and goes to the vector at level 1. -/
theorem test_trap : (after (.trap 5) (world thread)).t1 = { epc := 0x1_0000_0004, pl := 0, cause := 0x1005, word := 0, addr := 0, tvec := 0x1_0000_4000 } ∧
    (after (.trap 5) (world thread)).pc = 0x1_0000_4000 ∧ (after (.trap 5) (world thread)).pl = 1 := by
  refine ⟨?_, ?_, ?_⟩ <;> decide +kernel

/-- The fetch of a placed word right after reset runs it. -/
theorem test_placed_word_runs : (match step (State.reset.withFetchWord 32 0x08E7FFFC) with | .next t => (t.self.x? 7, t.self.pc) | _ => (0, 0))
    = (0xFFFF_FFFF_FFFF_FFFC, (State.reset.withFetchWord 32 0x08E7FFFC).self.pc + 4) := by decide +kernel

/-- 02 R39, its worked conversion: the block (1.5, -0.40625, 0.0078125, 3.0), rounded RNE, for eight planes and for four. -/
theorem test_quantise :
    let l := [0x3FC0_0000, 0xBED0_0000, 0x3C00_0000, 0x4040_0000].map (unpack .b32)
    quantBlock false 8 l = (0x81, [48, -13, 0, 96], 0) ∧ quantBlock false 4 l = (0x81, [48, -16, 0, 96], 0) := by
  refine ⟨?_, ?_⟩ <;> decide +kernel

/-- 05 R111, the counts of its example of excess: 2,048 bytes declared and 1,024 + 1,024 reported complete the phase; 512 more set `over`. -/
theorem test_barrier_excess :
    let s := { sending { toSpad (.bytes 1024) with copy := some 1 } with
      cells := [(0, { spad := Bank.write {} 0x40 (leBytes (2 ^ 32) 8 ++ leBytes 1024 8) })] }
    (match exec (.barrierByteReport 1) s with | .next t => t.numAt (.spad 0 0x40) 8 | _ => none) = some (1 + 2 ^ 32 + 2 ^ 48) ∧
    (match exec (.barrierByteReport 1) { s with cells := [] } with | .next t => t.numAt (.spad 0 0x40) 8 | _ => none) = some (2 ^ 63) := by
  refine ⟨?_, ?_⟩ <;> decide +kernel

end Sys2Proof.Tests
end

section
/-! PROOFS. One unit changes; the registers of functions and of the management space (00 R3, R4; 15 R296; 16 R319; 17 R332, R338; 18 R345;
20 R365; 21 R374). -/

namespace Sys2Proof.Machine

/-! ## One unit changes -/

/-- The instruction sets one die to `k`; nothing else of the module differs. -/
def SetsDie (i : Instr) (s : State) (die : Nat) (k : Die) : Prop :=
  ∃ t, exec i s = .next t ∧ t = { s with dies := t.dies } ∧ ∀ m, t.die m = if m = die then k else s.die m

/-- The instruction sets one partition to `q`; nothing else of the module differs. -/
def SetsPart (i : Instr) (s : State) (part : Nat) (q : Part) : Prop :=
  ∃ t, exec i s = .next t ∧ t = { s with parts := t.parts } ∧ ∀ m, t.part m = if m = part then q else s.part m

/-- The instruction changes one die's registers of one partition by `g`; nothing else of the module differs. -/
def SetsPdie (i : Instr) (s : State) (part die : Nat) (g : PartDie → PartDie) : Prop :=
  ∃ t, exec i s = .next t ∧ t = { s with parts := t.parts } ∧
    ∀ a b, t.pdie a b = if a = part ∧ b = die then g (s.pdie part die) else s.pdie a b

theorem setsDie_of_modDie {i : Instr} {s : State} {die : Nat} {f : Die → Die} {k : Die} (e : exec i s = .next (s.modDie die f))
    (h : f (s.die die) = k) : SetsDie i s die k :=
  ⟨_, e, rfl, fun m => h ▸ s.die_modDie die m f⟩

theorem setsPart_of_modPart {i : Instr} {s : State} {part : Nat} {f : Part → Part} {q : Part}
    (e : exec i s = .next (s.modPart part f)) (h : f (s.part part) = q) : SetsPart i s part q :=
  ⟨_, e, rfl, fun m => h ▸ s.part_modPart part m f⟩

@[simp] theorem State.part_modPart_self (s : State) (n : Nat) (f : Part → Part) : (s.modPart n f).part n = f (s.part n) := by
  simp [State.part_modPart]

@[simp] theorem State.modPart_modPart (s : State) (n : Nat) (f g : Part → Part) :
    (s.modPart n f).modPart n g = s.modPart n fun q => g (f q) := by
  simp [State.modPart, State.part]

theorem State.pdie_modPdie (s : State) (part die a b : Nat) (g : PartDie → PartDie) :
    (s.modPdie part die g).pdie a b = if a = part ∧ b = die then g (s.pdie part die) else s.pdie a b := by
  by_cases ha : a = part
  · subst ha
    simp [State.pdie, State.modPdie, tget_tset]
  · simp [State.pdie, State.modPdie, State.part_modPart, ha]

theorem setsPdie_of_modPdie {i : Instr} {s : State} {part die : Nat} {g : PartDie → PartDie}
    (e : exec i s = .next (s.modPdie part die g)) : SetsPdie i s part die g :=
  ⟨_, e, rfl, fun a b => s.pdie_modPdie part die a b g⟩

theorem State.die_congr {s t : State} (h : t.dies = s.dies) (n : Nat) : t.die n = s.die n := by
  rw [State.die, State.die, h]

theorem State.part_congr {s t : State} (h : t.parts = s.parts) (n : Nat) : t.part n = s.part n := by
  rw [State.part, State.part, h]

/-! ## Who reaches a register (00 R3, R4; 21 R367, R374) -/

theorem State.firmware_iff (s : State) (die : Nat) : s.firmware die = true ↔ s.house ≠ 0 ∧ die < 4 := by
  rw [State.firmware, Bool.and_eq_true, bne_iff_ne, decide_eq_true_iff, Config.dies]

/-- A function held in reset takes no write (19 R356). -/
theorem exec_registerWrite_flr {s : State} {part : Nat} (off : Nat) (v : Word) (h : (s.part part).flr ≠ none) :
    exec (.registerWrite (.function (part + 1)) off v) s = .next s :=
  if_pos (.inr (.inr (Option.isSome_iff_ne_none.2 h)))

theorem exec_registerWrite_function {s : State} {part : Nat} (off : Nat) (v : Word) (hp : part < 64) (h : (s.part part).flr = none) :
    exec (.registerWrite (.function (part + 1)) off v) s = .next (s.writeFunction part off v) := by
  have hn : ¬ (part + 1 = 0 ∨ 64 < part + 1 ∨ (s.part (part + 1 - 1)).flr.isSome = true) := by
    simp [h]; omega
  exact if_neg hn

theorem exec_registerWrite_noFirmware {s : State} {die : Nat} (off : Nat) (v : Word) (h : s.firmware die = false) :
    exec (.registerWrite (.management die) off v) s = .next s :=
  if_neg (by simp [h])

theorem exec_registerWrite_management {s : State} {die : Nat} (off : Nat) (v : Word) (h : s.firmware die = true) :
    exec (.registerWrite (.management die) off v) s = .next (s.writeManagement die off v) :=
  if_pos h

/-! ## A function's registers (15 R296; 16 R319; 17 R332, R338) -/

section
variable (s : State) (part : Nat) (v : Word)

theorem State.writeFunction_queue {r : Nat} (hr : r < 4) :
    s.writeFunction part (0x100 * r + 0x10) v = s.modPdie part r fun q => { q with ovf := q.ovf && !v.getLsbD 9 } := by
  have e : (0x100 * r + 0x10) / 0x100 = r := by omega
  rw [State.writeFunction, if_pos ⟨by omega, by omega⟩, e]
  simp [PartDie.clearFlags]

theorem State.writeFunction_save {r : Nat} (hr : r < 4) :
    s.writeFunction part (0x408 + 0x20 * r) v = s.modPdie part r fun q => { q with safl := q.safl && !v.getLsbD 16 } := by
  have e : (0x408 + 0x20 * r - 0x400) / 0x20 = r := by omega
  rw [State.writeFunction, if_neg (by omega), if_pos ⟨by omega, by omega, by omega⟩, e]
  simp [PartDie.clearFlags]

theorem State.writeFunction_fqhead : s.writeFunction part 0x490 v = s.modPart part fun p => { p with fqhead := v.toNat % 2 ^ 17 } := rfl

theorem State.writeFunction_pmst : s.writeFunction part 0x4A8 v =
    s.modPart part fun p => { p with moveFull := p.moveFull && !v.getLsbD 7, moveRefd := p.moveRefd && !v.getLsbD 8 } := rfl

theorem State.writeFunction_window : s.writeFunction part 0x900 v = s.modPart part fun p =>
    { p with hwbase := v.toNat % 2 ^ 48 / 4096 * 4096, hwlen := v.toNat / 2 ^ 48 % 2 ^ 12 } := rfl

/-- The two low bits of `ptvec` and those above the address are zero. -/
theorem ofNat_vector (v : Word) : BitVec.ofNat 64 (v.toNat % 2 ^ 48 / 4 * 4) = v &&& 0xFFFFFFFFFFFC := by
  have mask : ∀ i < 64, (0xFFFFFFFFFFFC : Word).getLsbD i = (decide (2 ≤ i) && decide (i < 48)) := by decide
  refine BitVec.eq_of_getLsbD_eq fun i hi => ?_
  rw [BitVec.getLsbD_and, mask i hi, BitVec.getLsbD_ofNat, show (4 : Nat) = 2 ^ 2 from rfl, Nat.testBit_mul_two_pow,
    Nat.testBit_div_two_pow, Nat.testBit_mod_two_pow]
  by_cases h2 : 2 ≤ i
  · simp [hi, h2, Nat.sub_add_cancel h2, BitVec.getLsbD, Bool.and_comm]
  · simp [h2]

theorem State.writeFunction_ptvec :
    s.writeFunction part 0x4B0 v = s.modPart part fun p => { p with ptvec := v &&& 0xFFFFFFFFFFFC } := by
  rw [← ofNat_vector]
  rfl

theorem State.readFunction_queue {r off : Nat} (hr : r < 4) (ho : off < 0x100) :
    s.readFunction part (0x100 * r + off) = (s.pdie part r).readQueue off := by
  have e : (0x100 * r + off) / 0x100 = r := by omega
  have k : (0x100 * r + off) % 0x100 = off := by omega
  rw [State.readFunction, if_pos (by omega), e, k]

theorem State.readFunction_save {r off : Nat} (hr : r < 4) (ho : off < 0x20) :
    s.readFunction part (0x400 + 0x20 * r + off) = (s.pdie part r).readSave off := by
  have e : (0x400 + 0x20 * r + off - 0x400) / 0x20 = r := by omega
  have k : (0x400 + 0x20 * r + off - 0x400) % 0x20 = off := by omega
  rw [State.readFunction, if_neg (by omega), if_pos (by omega), e, k]

end

/-- A write of `pmove`: at most 64 requests wait (17 R338). -/
theorem exec_pmoveWrite {s : State} {part : Nat} (v : Word) (hp : part < 64) (hf : (s.part part).flr = none) :
    SetsPart (.pmoveWrite part v) s part (if (s.part part).moves.length < 64 then
      { s.part part with moves := (s.part part).moves ++ [(v.toNat / 2 ^ 21 % 2 ^ 27, v.toNat / 2 ^ 48 % 8)] }
      else { s.part part with moveFull := true }) := by
  have taken : ¬ (64 ≤ part ∨ (s.part part).flr.isSome = true) := by
    rw [hf]; simpa using hp
  refine setsPart_of_modPart (if_neg taken) ?_
  by_cases hm : (s.part part).moves.length < 64
  · rw [if_pos hm, if_neg (Nat.not_le.2 hm)]
  · rw [if_neg hm, if_pos (Nat.not_lt.1 hm)]

/-! ## A die's management space (18 R345; 20 R365; 21 R374) -/

section
variable (s : State) (die : Nat) (v : Word)

theorem State.writeManagement_ptarg :
    s.writeManagement die 0x108 v = s.modDie die fun d => { d with ptarg := v &&& 0x0001_FFFF_FFFF_FFFF } := rfl

theorem State.writeManagement_key {k : Nat} (hk : k < 8) :
    s.writeManagement die (0x110 + 8 * k) v = s.modDie die fun d => { d with ptkey := tset d.ptkey k v } := by
  have e : (0x110 + 8 * k - 0x110) / 8 = k := by omega
  simp only [State.writeManagement]
  rw [if_neg (by omega), if_neg (by omega), if_pos ⟨by omega, by omega, by omega⟩, e]

theorem State.writeManagement_policy {part : Nat} (hp : part < 64) :
    s.writeManagement die (0x300 + 8 * part) v = s.modPdie part die fun p => p.setPolicy v := by
  have e : (0x300 + 8 * part - 0x300) / 8 = part := by omega
  have key : ¬ (0x110 ≤ 0x300 + 8 * part ∧ 0x300 + 8 * part ≤ 0x148 ∧ (0x300 + 8 * part) % 8 = 0) := by omega
  have policy : 0x300 ≤ 0x300 + 8 * part ∧ 0x300 + 8 * part < 0x500 ∧ (0x300 + 8 * part) % 8 = 0 := by omega
  simp only [State.writeManagement]
  rw [if_neg (by omega), if_neg (by omega), if_neg key, if_neg (by omega), if_pos policy, e]

theorem State.readManagement_key {k : Nat} (hk : k < 8) : s.readManagement die (0x110 + 8 * k) = 0 := by
  simp only [State.readManagement]
  rw [if_neg (by omega), if_neg (by omega), if_neg (by omega)]

theorem State.readPhysical_errors (h : die < 4) :
    s.readPhysical false (0x800 + 0x10 * die) = (s.die die).errcnt ∧ s.readPhysical false (0x808 + 0x10 * die) = (s.die die).errloc := by
  have counts : (0x800 + 0x10 * die - 0x800) / 0x10 = die := by omega
  have place : (0x808 + 0x10 * die - 0x800) / 0x10 = die := by
    rw [show 0x808 + 0x10 * die - 0x800 = 8 + 0x10 * die by omega]
    omega
  simp only [State.readPhysical, Bool.false_eq_true, if_false]
  constructor
  · rw [if_neg (by omega), if_pos (by omega), counts]
  · rw [if_neg (by omega), if_neg (by omega), if_pos (by omega), place]

theorem exec_mqpolWrite {s : State} {die part : Nat} (v : Word) (hf : s.firmware die = true) (hp : part < 64) :
    exec (.mqpolWrite die part v) s = .next (s.modPdie part die fun p => p.setPolicy v) :=
  if_pos (by rw [hf, decide_eq_true hp]; rfl)

/-- The word of a resume holds op 0, and gives back the cell and slot (21 R374). -/
theorem resumeWord_fields (cell slot : Nat) : (resumeWord cell slot).toNat = cell % 512 + slot % 16 * 2 ^ 9 := by
  simp only [resumeWord, BitVec.toNat_ofNat]
  omega

/-- `dbgcmd` with op 0 resumes the slot that it names (21 R374). -/
theorem State.debugCommand_resumeWord (h : v.toNat / 2 ^ 13 % 8 = 0) :
    s.debugCommand (resumeWord (v.toNat % 2 ^ 9) (v.toNat / 2 ^ 9 % 2 ^ 4)) = s.debugCommand v := by
  have w := resumeWord_fields (v.toNat % 2 ^ 9) (v.toNat / 2 ^ 9 % 2 ^ 4)
  have op : (resumeWord (v.toNat % 2 ^ 9) (v.toNat / 2 ^ 9 % 2 ^ 4)).toNat / 2 ^ 13 % 8 = 0 := by omega
  have cell : (resumeWord (v.toNat % 2 ^ 9) (v.toNat / 2 ^ 9 % 2 ^ 4)).toNat % 512 = v.toNat % 512 := by omega
  have slot : (resumeWord (v.toNat % 2 ^ 9) (v.toNat / 2 ^ 9 % 2 ^ 4)).toNat / 2 ^ 9 % 16 = v.toNat / 2 ^ 9 % 16 := by omega
  simp only [State.debugCommand, if_pos h, if_pos op, cell, slot]

/-- A write of `dbgcmd`: op 0 resumes, and ops 1-7 are ignored (21 R374). -/
theorem State.exec_registerWrite_debug (h : s.firmware die = true) :
    exec (.registerWrite (.management die) 0x600 v) s = if v.toNat / 2 ^ 13 % 8 = 0 then
      exec (.debugResume die (v.toNat % 2 ^ 9) (v.toNat / 2 ^ 9 % 2 ^ 4)) s else .next s := by
  have e : exec (.debugResume die (v.toNat % 2 ^ 9) (v.toNat / 2 ^ 9 % 2 ^ 4)) s =
      .next (s.debugCommand (resumeWord (v.toNat % 2 ^ 9) (v.toNat / 2 ^ 9 % 2 ^ 4))) := if_pos h
  have w : s.writeManagement die 0x600 v = s.debugCommand v := rfl
  rw [exec_registerWrite_management _ _ h, w, e]
  split
  · rw [s.debugCommand_resumeWord v ‹_›]
  · rw [State.debugCommand, if_neg ‹_›]

end

end Sys2Proof.Machine
end

section
/-! PROOFS. The partition command port: what a command finds, its code, and what it does (18 R344, R345; 19 R353). -/

namespace Sys2Proof.Machine

/-! ## What a command finds -/

/-- The port takes a command: the module is ready, house cores run, and no command is under way. -/
def State.PortFree (s : State) (die : Nat) : Prop := s.rdy = true ∧ s.house ≠ 0 ∧ die < 4 ∧ (s.die die).ptbusy = false

/-- The command needs no root, or this die holds the partition's. -/
def State.Rooted (s : State) (part die : Nat) (o : LeaseObj) : Prop :=
  (∃ r, o = .root r) ∨ ∃ l, s.rootLease part die = some l ∧ l.alive = true

/-- This die's copy is held by the partition: the command renews. -/
def State.Ours (s : State) (die part : Nat) (o : LeaseObj) : Prop := ∃ n l, s.copyOf die o = some (n, l) ∧ l.alive = true ∧ l.part = part

/-- Some die's copy is held, by a lease of which `P` holds. -/
def State.CopyHeld (s : State) (o : LeaseObj) (P : Lease → Prop) : Prop :=
  ∃ l, l ∈ s.leases ∧ l.2.home < 4 ∧ l.2.obj.kind = o.kind ∧ l.2.index = o.treeIndex ∧ l.2.alive = true ∧ P l.2

/-- A copy that is found lies on the die and is of the object. -/
theorem State.copyOf_some {s : State} {die n : Nat} {o : LeaseObj} {l : Lease} (h : s.copyOf die o = some (n, l)) :
    (n, l) ∈ s.leases ∧ l.home = die ∧ l.obj.kind = o.kind ∧ l.index = o.treeIndex := by
  have hm := List.mem_of_find?_eq_some h
  have hp := List.find?_some h
  simp only [Bool.and_eq_true, decide_eq_true_eq] at hp
  exact ⟨hm, hp.1.1, hp.1.2, hp.2⟩

theorem State.copyHeld_of_ours {s : State} {die part : Nat} {o : LeaseObj} (hd : die < 4) (h : s.Ours die part o) :
    s.CopyHeld o fun _ => True := by
  obtain ⟨n, l, hc, ha, -⟩ := h
  obtain ⟨hm, rfl, hk, hi⟩ := State.copyOf_some hc
  exact ⟨(n, l), hm, hd, hk, hi, ha, trivial⟩

theorem State.copyHeld_any {s : State} {o : LeaseObj} {P : Lease → Prop} (h : s.CopyHeld o P) : s.CopyHeld o fun _ => True := by
  obtain ⟨l, hm, hh, hk, hi, ha, -⟩ := h
  exact ⟨l, hm, hh, hk, hi, ha, trivial⟩

theorem State.mem_copiesHeld {s : State} {o : LeaseObj} {p : Nat × Lease} : p ∈ s.copiesHeld o ↔
    p ∈ s.leases ∧ p.2.home < 4 ∧ p.2.obj.kind = o.kind ∧ p.2.index = o.treeIndex ∧ p.2.alive = true := by
  simp [State.copiesHeld, and_assoc]

theorem State.copiesHeld_any_iff (s : State) (o : LeaseObj) (part : Nat) :
    ((s.copiesHeld o).any fun p => p.2.part = part) = true ↔ s.CopyHeld o fun l => l.part = part := by
  simp only [List.any_eq_true, State.mem_copiesHeld, decide_eq_true_eq, State.CopyHeld, and_assoc]

theorem State.copiesHeld_isEmpty_iff (s : State) (o : LeaseObj) :
    (!(s.copiesHeld o).isEmpty) = true ↔ s.CopyHeld o fun _ => True := by
  simp only [Bool.not_eq_true', List.isEmpty_eq_false_iff_exists_mem, State.mem_copiesHeld, State.CopyHeld, and_true]

/-! ## The code of a command (R345) -/

/-- `State.Rooted`, as the port computes it. -/
def State.hasRoot (s : State) (part die : Nat) : LeaseObj → Bool
  | .root _ => true
  | _ => match s.rootLease part die with
    | some l => l.alive
    | none => false

/-- `State.Ours`, as the port computes it. -/
def State.renews (s : State) (die part : Nat) (o : LeaseObj) : Bool :=
  match s.copyOf die o with
  | some (_, l) => l.alive && decide (l.part = part)
  | none => false

/-- Is the object a channel group that failed calibration? -/
def State.uncalibrated (s : State) : LeaseObj → Bool
  | .chan _ g _ _ => s.failedGroups.contains g
  | _ => false

theorem State.hasRoot_iff (s : State) (part die : Nat) (o : LeaseObj) : s.hasRoot part die o = true ↔ s.Rooted part die o := by
  unfold State.Rooted State.hasRoot
  cases o <;> cases s.rootLease part die <;> simp

theorem State.renews_iff (s : State) (die part : Nat) (o : LeaseObj) : s.renews die part o = true ↔ s.Ours die part o := by
  unfold State.Ours State.renews
  rcases s.copyOf die o with _ | ⟨n, l⟩ <;> simp

theorem State.uncalibrated_iff (s : State) {part : Nat} {o : LeaseObj} (ho : ∀ q g k e, o = .chan q g k e → q = part) :
    s.uncalibrated o = true ↔ ∃ g k e, o = .chan part g k e ∧ s.failedGroups.contains g = true := by
  refine ⟨fun h => ?_, fun ⟨g, k, e, h, hg⟩ => h ▸ hg⟩
  cases o with
  | chan q g k e => exact ⟨g, k, e, ho q g k e rfl ▸ rfl, h⟩
  | _ => cases h

theorem State.ptcode_eq (s : State) (die part : Nat) (o : LeaseObj) (bad badArg : Bool) :
    s.ptcode die part o bad badArg =
      if (s.die die).life = 0 then (lsLife, false)
      else if bad ∨ 64 ≤ part ∨ !s.hasRoot part die o ∨ (badArg ∧ !s.renews die part o) then (lsBadObj, false)
      else if (!s.renews die part o || o.kind = 11) && s.beingScrubbed o then (lsScrub, false)
      else if s.renews die part o then (0, true)
      else if (s.copiesHeld o).any fun p => p.2.part = part then (lsScrub, false)
      else if !(s.copiesHeld o).isEmpty then (lsBusy, false)
      else if s.uncalibrated o then (lsNoRes, false)
      else (0, false) := by
  rfl

section
variable {s : State} {die part : Nat} {o : LeaseObj} {bad badArg : Bool}

theorem State.ptcode_life (h : (s.die die).life = 0) : s.ptcode die part o bad badArg = (lsLife, false) := by
  rw [State.ptcode_eq, if_pos h]

theorem State.ptcode_malformed (hl : (s.die die).life ≠ 0)
    (h : bad = true ∨ 64 ≤ part ∨ ¬ s.Rooted part die o ∨ (badArg = true ∧ ¬ s.Ours die part o)) :
    s.ptcode die part o bad badArg = (lsBadObj, false) := by
  simp only [← State.hasRoot_iff, ← State.renews_iff, Bool.not_eq_true] at h
  rw [State.ptcode_eq, if_neg hl, if_pos (by simpa using h)]

/-- The command passes the checks of life, fields and root, and its argument is in range. -/
structure State.WellFormed (s : State) (die part : Nat) (o : LeaseObj) (bad badArg : Bool) : Prop where
  life   : (s.die die).life ≠ 0
  fields : bad = false
  number : part < 64
  rooted : s.Rooted part die o
  arg    : badArg = false ∨ s.Ours die part o

/-- What is left of the code for such a command. -/
theorem State.WellFormed.ptcode (h : s.WellFormed die part o bad badArg) : s.ptcode die part o bad badArg =
      if (!s.renews die part o || o.kind = 11) && s.beingScrubbed o then (lsScrub, false)
      else if s.renews die part o then (0, true)
      else if (s.copiesHeld o).any fun p => p.2.part = part then (lsScrub, false)
      else if !(s.copiesHeld o).isEmpty then (lsBusy, false)
      else if s.uncalibrated o then (lsNoRes, false)
      else (0, false) := by
  obtain ⟨hl, hb, hp, hr, ha⟩ := h
  rw [← State.hasRoot_iff] at hr
  rw [← State.renews_iff] at ha
  rw [State.ptcode_eq, if_neg hl, if_neg]
  rcases ha with ha | ha <;> simp [hb, hr, ha, hp]

theorem State.ptcode_scrub (h : s.WellFormed die part o bad badArg) (ho : ¬ s.Ours die part o ∨ o.kind = 11)
    (hs : s.beingScrubbed o = true) : s.ptcode die part o bad badArg = (lsScrub, false) := by
  rw [← State.renews_iff, Bool.not_eq_true] at ho
  rw [h.ptcode, if_pos]
  rcases ho with ho | ho <;> simp [ho, hs]

/-- The code of a command that does not renew and meets no scrub. -/
theorem State.ptcode_new (h : s.WellFormed die part o bad badArg) (ho : ¬ s.Ours die part o) (hs : s.beingScrubbed o = false) :
    s.ptcode die part o bad badArg =
      if (s.copiesHeld o).any fun p => p.2.part = part then (lsScrub, false)
      else if !(s.copiesHeld o).isEmpty then (lsBusy, false)
      else if s.uncalibrated o then (lsNoRes, false)
      else (0, false) := by
  rw [← State.renews_iff] at ho
  rw [h.ptcode, if_neg (by simp [hs]), if_neg ho]

/-- A copy held elsewhere when this die's has lapsed counts as being scrubbed: the model's reading of R345 (log 54). -/
theorem State.ptcode_elsewhere (h : s.WellFormed die part o bad badArg) (ho : ¬ s.Ours die part o) (hs : s.beingScrubbed o = false)
    (hc : s.CopyHeld o fun l => l.part = part) : s.ptcode die part o bad badArg = (lsScrub, false) := by
  rw [State.ptcode_new h ho hs, if_pos ((s.copiesHeld_any_iff o part).2 hc)]

theorem State.ptcode_taken (h : s.WellFormed die part o bad badArg) (ho : ¬ s.Ours die part o) (hs : s.beingScrubbed o = false)
    (hc : s.CopyHeld o fun _ => True) (hn : ¬ s.CopyHeld o fun l => l.part = part) :
    s.ptcode die part o bad badArg = (lsBusy, false) := by
  rw [State.ptcode_new h ho hs, if_neg (mt (s.copiesHeld_any_iff o part).1 hn), if_pos ((s.copiesHeld_isEmpty_iff o).2 hc)]

/-- The code of a command for an object of which no copy is held and none ends. -/
theorem State.ptcode_unheld (h : s.WellFormed die part o bad badArg) (hd : die < 4) (hs : s.beingScrubbed o = false)
    (hc : ¬ s.CopyHeld o fun _ => True) :
    s.ptcode die part o bad badArg = if s.uncalibrated o then (lsNoRes, false) else (0, false) := by
  have ours : ¬ s.Ours die part o := fun h => hc (State.copyHeld_of_ours hd h)
  have mine : ¬ s.CopyHeld o fun l => l.part = part := fun h => hc (State.copyHeld_any h)
  rw [State.ptcode_new h ours hs, if_neg (mt (s.copiesHeld_any_iff o part).1 mine), if_neg (mt (s.copiesHeld_isEmpty_iff o).1 hc)]

theorem State.ptcode_renews (h : s.WellFormed die part o bad badArg) (ho : s.Ours die part o)
    (hs : o.kind ≠ 11 ∨ s.beingScrubbed o = false) : s.ptcode die part o bad badArg = (0, true) := by
  rw [← State.renews_iff] at ho
  rw [h.ptcode, if_neg, if_pos ho]
  rcases hs with hs | hs <;> simp [ho, hs]

end

/-! ## What a command does -/

/-- The port after a command of code `k`. -/
def Die.answered (d : Die) (k : Byte) : Die := { d with ptbusy := true, ptcode := k }

theorem State.not_portFree_iff (s : State) (die : Nat) :
    ((!s.rdy) = true ∨ (!s.firmware die) = true ∨ (s.die die).ptbusy = true) ↔ ¬ s.PortFree die := by
  rw [State.PortFree, ← and_assoc (a := s.house ≠ 0), ← State.firmware_iff, not_and_or, not_and_or]
  simp only [Bool.not_eq_true', Bool.not_eq_true, Bool.not_eq_false]

theorem State.ptcmd_busy {s : State} {die : Nat} (part : Nat) (o : LeaseObj) (bad badArg : Bool) (h : ¬ s.PortFree die) :
    s.ptcmd die part o bad badArg = (s, false) :=
  if_pos ((s.not_portFree_iff die).2 h)

theorem State.ptcmd_free {s : State} {die : Nat} (part : Nat) (o : LeaseObj) (bad badArg : Bool) (h : s.PortFree die) :
    s.ptcmd die part o bad badArg =
      if (s.ptcode die part o bad badArg).1 ≠ 0 then
        (s.modDie die fun d => d.answered (BitVec.ofNat 8 (s.ptcode die part o bad badArg).1), false)
      else if (s.ptcode die part o bad badArg).2 then ((s.renewCopies die o (s.die die).life).modDie die fun d => d.answered 0, false)
      else (((List.range Config.dies).foldl (fun u d => u.putCopy part o (s.die die).life d) s).modDie die fun d => d.answered 0, true) := by
  rw [State.ptcmd, if_neg (mt (s.not_portFree_iff die).1 (not_not_intro h))]
  rfl

/-- The XTS key pair that the port's key registers hold. -/
def Die.keyPair (d : Die) : BitVec 512 :=
  BitVec.ofNat 512 (((List.range 8).map fun k => (tget (0 : Word) d.ptkey k).toNat * 2 ^ (64 * k)).sum)

/-- A key slot that is granted takes the key pair at every die. -/
def State.takeKey (s : State) (key : BitVec 512) : LeaseObj → State
  | .key part k =>
    s.modPart part fun q => { q with keys := (List.range Config.dies).foldl (fun t d => tset t (d * 16 + k) key) q.keys }
  | _ => s

/-- The instruction is the command of a die's port for the object. -/
def IsCommand (i : Instr) (s : State) (die part : Nat) (o : LeaseObj) (bad badArg : Bool) : Prop :=
  exec i s = .next (if (s.ptcmd die part o bad badArg).2 then (s.ptcmd die part o bad badArg).1.takeKey (s.die die).keyPair o
    else (s.ptcmd die part o bad badArg).1)

/-- A command for an object that takes no key. -/
theorem isCommand_of_exec {i : Instr} {s : State} {die part : Nat} {o : LeaseObj} {bad badArg : Bool}
    (e : exec i s = .next (s.ptcmd die part o bad badArg).1) (ho : ∀ u : State, u.takeKey (s.die die).keyPair o = u) :
    IsCommand i s die part o bad badArg := by
  rw [IsCommand, ho, ite_self, e]

theorem isCommand_key (s : State) (die part res : Nat) :
    IsCommand (.ptcmdKeySlot die part res) s die part (.key part res) (decide (16 ≤ res)) false := rfl

/-- The six commands (R345): instruction, object, and what makes the member's number and the argument malformed. -/
noncomputable def State.commands (s : State) (die part res : Nat) : List (Instr × LeaseObj × Prop × Prop) :=
  let a := (s.die die).ptarg.toNat
  [(.ptcmdRoot die part, .root part, False, False), (.ptcmdRing die part res, .ring part res, 64 ≤ res, False),
   (.ptcmdSlice die part res, .slice part res, 256 ≤ res, False),
   (.ptcmdChannelGroup die part res, .chan part res (a / 2 ^ 44 % 16) ((s.die die).ptarg.getLsbD 48), 64 ≤ res, False),
   (.ptcmdShare die part res, .share part res (a / 2 ^ 32 % 2 ^ 12), 8 ≤ res, a / 2 ^ 32 % 2 ^ 12 = 0 ∨ 3000 < a / 2 ^ 32 % 2 ^ 12),
   (.ptcmdKeySlot die part res, .key part res, 16 ≤ res, False)]

theorem State.isCommand_of_mem {s : State} {die part res : Nat} {c : Instr × LeaseObj × Prop × Prop} (hc : c ∈ s.commands die part res) :
    ∃ bad badArg, IsCommand c.1 s die part c.2.1 bad badArg ∧ (bad = true ↔ c.2.2.1) ∧ (badArg = true ↔ c.2.2.2) ∧
      ∀ q g k e, c.2.1 = .chan q g k e → q = part := by
  have never : false = true ↔ False := ⟨Bool.false_ne_true, False.elim⟩
  simp only [State.commands, List.mem_cons, List.not_mem_nil, or_false] at hc
  rcases hc with rfl | rfl | rfl | rfl | rfl | rfl
  case inl => exact ⟨_, _, isCommand_of_exec rfl fun _ => rfl, never, never, by simp⟩
  case inr.inl => exact ⟨_, _, isCommand_of_exec rfl fun _ => rfl, decide_eq_true_iff, never, by simp⟩
  case inr.inr.inl => exact ⟨_, _, isCommand_of_exec rfl fun _ => rfl, decide_eq_true_iff, never, by simp⟩
  case inr.inr.inr.inl =>
    exact ⟨_, _, isCommand_of_exec rfl fun _ => rfl, decide_eq_true_iff, never, fun q g k e h => by cases h; rfl⟩
  case inr.inr.inr.inr.inl => exact ⟨_, _, isCommand_of_exec rfl fun _ => rfl, decide_eq_true_iff, decide_eq_true_iff, by simp⟩
  case inr.inr.inr.inr.inr => exact ⟨_, _, isCommand_key s die part res, decide_eq_true_iff, never, by simp⟩

section
variable {i : Instr} {s : State} {die part : Nat} {o : LeaseObj} {bad badArg : Bool}

theorem IsCommand.ignored (h : IsCommand i s die part o bad badArg) (hf : ¬ s.PortFree die) : exec i s = .next s := by
  rw [h, State.ptcmd_busy part o bad badArg hf]
  rfl

theorem IsCommand.refuses (h : IsCommand i s die part o bad badArg) (hf : s.PortFree die) {k : Nat}
    (hc : s.ptcode die part o bad badArg = (k, false)) (hk : k ≠ 0) : SetsDie i s die ((s.die die).answered (BitVec.ofNat 8 k)) := by
  refine setsDie_of_modDie (f := fun d => d.answered (BitVec.ofNat 8 k)) ?_ rfl
  rw [h, State.ptcmd_free part o bad badArg hf, hc, if_pos hk]
  rfl

theorem IsCommand.renews (h : IsCommand i s die part o bad badArg) (hf : s.PortFree die)
    (hc : s.ptcode die part o bad badArg = (0, true)) :
    exec i s = .next ((s.renewCopies die o (s.die die).life).modDie die fun d => d.answered 0) := by
  rw [h, State.ptcmd_free part o bad badArg hf, hc]
  rfl

theorem IsCommand.grants (h : IsCommand i s die part o bad badArg) (hf : s.PortFree die)
    (hc : s.ptcode die part o bad badArg = (0, false)) :
    exec i s = .next ((((List.range Config.dies).foldl (fun u d => u.putCopy part o (s.die die).life d) s).modDie die
      fun d => d.answered 0).takeKey (s.die die).keyPair o) := by
  rw [h, State.ptcmd_free part o bad badArg hf, hc]
  rfl

end

end Sys2Proof.Machine
end

section
/-! PROOFS. A grant of the four copies of a lease, and a renewal that asks them to extend (18 R345; 08 R191, R196, R198). -/

namespace Sys2Proof.Machine

/-! ## Tables searched and extended -/

theorem mem_of_tfind {α : Type} {t : Table α} {k : Nat} {v : α} (h : tfind t k = some v) : (k, v) ∈ t := by
  induction t with
  | nil => simp [tfind] at h
  | cons p t ih =>
    obtain ⟨j, w⟩ := p
    simp only [tfind] at h
    split at h
    · simp_all
    · exact .tail _ (ih h)

theorem le_of_mem {α : Type} {t : Table α} {lo k : Nat} {v : α} (h : risesFrom lo t = true) (hm : (k, v) ∈ t) : lo ≤ k := by
  induction t generalizing lo with
  | nil => cases hm
  | cons p t ih =>
    obtain ⟨j, w⟩ := p
    simp only [risesFrom, Bool.and_eq_true, decide_eq_true_eq] at h
    rcases List.mem_cons.1 hm with e | hm
    · cases e; exact h.1
    · have := ih h.2 hm; omega

/-- In a table whose keys rise, a listed entry is the one found at its key. -/
theorem tfind_of_mem {α : Type} {t : Table α} {lo k : Nat} {v : α} (h : risesFrom lo t = true) (hm : (k, v) ∈ t) :
    tfind t k = some v := by
  induction t generalizing lo with
  | nil => cases hm
  | cons p t ih =>
    obtain ⟨j, w⟩ := p
    simp only [risesFrom, Bool.and_eq_true, decide_eq_true_eq] at h
    rcases List.mem_cons.1 hm with e | hm
    · cases e; simp [tfind]
    · have := le_of_mem h.2 hm
      rw [tfind, if_neg (by omega), ih h.2 hm]

/-- The fresh number is above every listed key. -/
theorem lt_tnext {α : Type} {t : Table α} {k : Nat} {v : α} (hm : (k, v) ∈ t) : k < tnext t := by
  have grows : ∀ (t : Table α) (m : Nat), m ≤ t.foldl (fun m p => max m (p.1 + 1)) m := by
    intro t
    induction t with
    | nil => exact fun m => le_rfl
    | cons p t ih => exact fun m => le_trans (le_max_left ..) (ih _)
  have key : ∀ m, k < t.foldl (fun m p => max m (p.1 + 1)) m := by
    induction t with
    | nil => cases hm
    | cons p t ih =>
      intro m
      rcases List.mem_cons.1 hm with rfl | hm
      · exact lt_of_lt_of_le (Nat.lt_of_succ_le (le_max_right ..)) (grows t _)
      · exact ih hm _
  exact key 0

theorem tfind_tnext {α : Type} (t : Table α) : tfind t (tnext t) = none := by
  cases h : tfind t (tnext t) with
  | none => rfl
  | some v => exact absurd (lt_tnext (mem_of_tfind h)) (lt_irrefl _)

/-- A search meets neither the entry that a write puts into a table nor the one that it replaces. -/
theorem find?_tset {α : Type} {t : Table α} {q : Nat × α → Bool} {k : Nat} {v : α} (hv : q (k, v) = false)
    (hw : ∀ w, tfind t k = some w → q (k, w) = false) : (tset t k v).find? q = t.find? q := by
  induction t with
  | nil => simp [tset, hv]
  | cons p t ih =>
    obtain ⟨j, w⟩ := p
    simp only [tset]
    split
    · simp [List.find?_cons, hv]
    · split
      · rename_i e
        subst e
        simp [hv, hw w (by simp [tfind])]
      · rename_i e
        rw [List.find?_cons, List.find?_cons, ih]
        simpa [tfind, Ne.symm e] using hw

/-- Writing one value at several keys of a table. -/
theorem tget_foldl_tset {α : Type} {d v : α} {f : Nat → Nat} {l : List Nat} {e : Nat} (he : e ∈ l) (t : Table α) :
    tget d (l.foldl (fun t x => tset t (f x) v) t) (f e) = v := by
  have key : ∀ (l : List Nat) (t : Table α), e ∈ l ∨ tget d t (f e) = v → tget d (l.foldl (fun t x => tset t (f x) v) t) (f e) = v := by
    intro l
    induction l with
    | nil => simp
    | cons x l ih =>
      intro t h
      refine ih _ ?_
      rw [tget_tset]
      rcases h with h | h
      · rcases List.mem_cons.1 h with rfl | h
        · simp
        · exact .inl h
      · by_cases e : f e = f x <;> simp [h, e]
  exact key l t (.inl he)

/-! ## A key pair and its doublewords (18 R345) -/

/-- A number written in digits of base `B`: it has no more digits, and gives each back. -/
theorem digits_sum {B : Nat} (w : Nat → Nat) (hw : ∀ k, w k < B) (n : Nat) :
    ((List.range n).map fun k => w k * B ^ k).sum < B ^ n ∧
      ∀ b, b < n → ((List.range n).map fun k => w k * B ^ k).sum / B ^ b % B = w b := by
  have hB : 0 < B := lt_of_le_of_lt (Nat.zero_le _) (hw 0)
  induction n with
  | zero => simp
  | succ n ih =>
    obtain ⟨hlt, hdig⟩ := ih
    rw [List.range_succ, List.map_append, List.sum_append]
    simp only [List.map_cons, List.map_nil, List.sum_cons, List.sum_nil, Nat.add_zero]
    generalize ((List.range n).map fun k => w k * B ^ k).sum = S at hlt hdig
    refine ⟨?_, fun b hb => ?_⟩
    · calc S + w n * B ^ n < B ^ n + w n * B ^ n := by omega
        _ = (w n + 1) * B ^ n := by ring
        _ ≤ B * B ^ n := Nat.mul_le_mul_right _ (hw n)
        _ = B ^ (n + 1) := by ring
    · rcases Nat.lt_succ_iff_lt_or_eq.1 hb with hb | rfl
      · have e : w n * B ^ n = B ^ b * (B * (w n * B ^ (n - b - 1))) := by
          rw [show B ^ n = B ^ b * (B * B ^ (n - b - 1)) by rw [← pow_succ', ← pow_add]; congr 1; omega]
          ring
        rw [e, Nat.add_mul_div_left _ _ (Nat.pow_pos hB), Nat.add_mul_mod_self_left, hdig b hb]
      · rw [Nat.add_mul_div_right _ _ (Nat.pow_pos hB), Nat.div_eq_of_lt hlt, Nat.zero_add, Nat.mod_eq_of_lt (hw b)]

theorem Die.keyPair_dword (d : Die) {b : Nat} (hb : b < 8) : (d.keyPair >>> (64 * b)).truncate 64 = tget (0 : Word) d.ptkey b := by
  obtain ⟨hlt, hdig⟩ := digits_sum (B := 2 ^ 64) (fun k => (tget (0 : Word) d.ptkey k).toNat) (fun k => (tget (0 : Word) d.ptkey k).isLt) 8
  refine BitVec.eq_of_toNat_eq ?_
  simp only [← Nat.pow_mul] at hlt hdig
  rw [show 64 * 8 = 512 from rfl] at hlt
  rw [BitVec.truncate_eq_setWidth, BitVec.toNat_setWidth, BitVec.toNat_ushiftRight, Die.keyPair, BitVec.toNat_ofNat,
    Nat.mod_eq_of_lt hlt, Nat.shiftRight_eq_div_pow, hdig b hb]

theorem State.takeKey_leases (s : State) (key : BitVec 512) (o : LeaseObj) : (s.takeKey key o).leases = s.leases := by
  cases o <;> rfl

theorem State.die_takeKey (s : State) (key : BitVec 512) (o : LeaseObj) (n : Nat) : (s.takeKey key o).die n = s.die n := by
  cases o <;> rfl

/-- After the grant of a key slot its pair stands at every die. -/
theorem State.takeKey_key (s : State) (key : BitVec 512) (part k : Nat) {e : Nat} (he : e < 4) :
    tget 0 ((s.takeKey key (.key part k)).part part).keys (e * 16 + k) = key := by
  rw [State.takeKey, State.part_modPart_self]
  exact tget_foldl_tset (f := fun d => d * 16 + k) (List.mem_range.2 he) _

/-! ## The four copies of a grant (R345; 08 R196, R198) -/

/-- Entry `n` with lease `l` is the copy that a grant gives die `e`: held for `life` ticks, of the next generation. -/
structure State.CopyGranted (s : State) (part : Nat) (o : LeaseObj) (life e n : Nat) (l : Lease) : Prop where
  home   : l.home = e
  obj    : l.obj = o
  alive  : l.alive = true
  expiry : l.expiry = s.ref e + life
  part   : l.part = part
  gen    : l.gen = BitVec.ofNat 24 l.count
  first  : s.copyOf e o = none → l.count = 1
  again  : ∀ m k, s.copyOf e o = some (m, k) → n = m ∧ l.count = k.count + 1

/-- A copy is written at the entry of the die's earlier one, or at a fresh one; leases on other dies stay. -/
theorem State.putCopy_spec {s : State} (part : Nat) (o : LeaseObj) (life d : Nat) (hr : risesFrom 0 s.leases = true) :
    ∃ n l g, s.putCopy part o life d = { s with leases := tset s.leases n l, grants := g } ∧ s.CopyGranted part o life d n l ∧
      ∀ w, tfind s.leases n = some w → w.home = d := by
  unfold State.putCopy
  cases h : s.copyOf d o with
  | none =>
    refine ⟨_, _, _, rfl, ⟨rfl, rfl, rfl, rfl, rfl, rfl, fun _ => rfl, fun m k hk => ?_⟩, fun w hw => ?_⟩
    · rw [h] at hk; cases hk
    · rw [tfind_tnext] at hw; cases hw
  | some p =>
    obtain ⟨n, k⟩ := p
    obtain ⟨hm, hh, -, -⟩ := State.copyOf_some h
    refine ⟨n, _, _, rfl, ⟨rfl, rfl, rfl, rfl, rfl, rfl, fun hn => ?_, fun m q hq => ?_⟩, fun w hw => ?_⟩
    · rw [h] at hn; cases hn
    · rw [h] at hq; cases hq; exact ⟨rfl, rfl⟩
    · rw [tfind_of_mem hr hm] at hw; cases hw; exact hh

/-- A copy on one die does not move those of the others. -/
theorem State.copyOf_tset {s : State} {o : LeaseObj} {e n g : Nat} {l : Lease} (hl : l.home ≠ e)
    (hw : ∀ w, tfind s.leases n = some w → w.home ≠ e) :
    ({ s with leases := tset s.leases n l, grants := g } : State).copyOf e o = s.copyOf e o :=
  find?_tset (by simp [hl]) fun w h => by simp [hw w h]

theorem State.copiesGranted (part : Nat) (o : LeaseObj) (life : Nat) (ds : List Nat) (hd : ds.Nodup) (s : State)
    (hr : risesFrom 0 s.leases = true) :
    let t := ds.foldl (fun s d => s.putCopy part o life d) s
    t = { s with leases := t.leases, grants := t.grants } ∧
      (∀ e, e ∈ ds → ∃ n l, tfind t.leases n = some l ∧ s.CopyGranted part o life e n l) ∧
      ∀ m w, tfind s.leases m = some w → w.home ∉ ds → tfind t.leases m = some w := by
  induction ds generalizing s with
  | nil => exact ⟨rfl, by simp, fun m w h _ => h⟩
  | cons d ds ih =>
    obtain ⟨hnew, hd⟩ := List.nodup_cons.1 hd
    obtain ⟨n, l, g, hput, hl, hn⟩ := s.putCopy_spec part o life d hr
    obtain ⟨hrest, hcopies, hkeep⟩ := ih hd (s.putCopy part o life d) (by rw [hput]; exact risesFrom_tset l hr (Nat.zero_le n))
    simp only [List.foldl_cons]
    refine ⟨?_, fun e he => ?_, fun m w hm hw => ?_⟩
    · rw [hrest, hput]
    · rcases List.mem_cons.1 he with rfl | he
      · refine ⟨n, l, hkeep n l ?_ ?_, hl⟩
        · rw [hput]; exact tfind_tset_self ..
        · rw [hl.home]; exact hnew
      · have hne : d ≠ e := fun h => hnew (h ▸ he)
        obtain ⟨m, k, hm, hk⟩ := hcopies e he
        have same : (s.putCopy part o life d).copyOf e o = s.copyOf e o := by
          rw [hput]
          exact State.copyOf_tset (hl.home ▸ hne) fun w hw => hn w hw ▸ hne
        have tick : (s.putCopy part o life d).ref e = s.ref e := by rw [hput]; rfl
        obtain ⟨h1, h2, h3, h4, h5, h6, h7, h8⟩ := hk
        rw [same] at h7 h8
        exact ⟨m, k, hm, h1, h2, h3, tick ▸ h4, h5, h6, h7, h8⟩
    · have hwd : w.home ≠ d := fun h => hw (h ▸ List.mem_cons_self ..)
      refine hkeep m w ?_ fun h => hw (List.mem_cons_of_mem _ h)
      rw [hput]
      exact (tfind_tset_ne _ _ fun h : m = n => hwd (hn w (by rw [← h, hm]))).trans hm

/-- What a grant leaves: the port answers, each die holds its copy, and a key slot its pair. -/
theorem IsCommand.granted {i : Instr} {s : State} {die part : Nat} {o : LeaseObj} {bad badArg : Bool}
    (h : IsCommand i s die part o bad badArg) (hf : s.PortFree die) (hc : s.ptcode die part o bad badArg = (0, false))
    (hr : risesFrom 0 s.leases = true) :
    ∃ t, exec i s = .next t ∧ t.die die = (s.die die).answered 0 ∧
      (∀ e, e < 4 → ∃ n l, tfind t.leases n = some l ∧ s.CopyGranted part o (s.die die).life e n l) ∧
      ∀ k, o = .key part k → ∀ e, e < 4 → tget 0 (t.part part).keys (e * 16 + k) = (s.die die).keyPair := by
  obtain ⟨hrest, hcopies, -⟩ := s.copiesGranted part o (s.die die).life (List.range Config.dies) List.nodup_range hr
  refine ⟨_, h.grants hf hc, ?_, fun e he => ?_, fun k hk e he => ?_⟩
  · rw [State.die_takeKey, State.die_modDie_self]
    exact (congrArg (fun t : State => (t.die die).answered 0) hrest :)
  · rw [State.takeKey_leases]
    exact hcopies e (List.mem_range.2 he)
  · subst hk
    exact State.takeKey_key _ _ part k he

/-! ## A renewal asks the four copies (R345; 08 R191, R198) -/

/-- Each other die's copy of the lease is asked to extend. -/
theorem State.mem_spreadRenewal {s : State} {l k : Lease} {m : Nat} (life order : Nat) (port : Option Nat) (hm : (m, k) ∈ s.leases)
    (hh : k.home < 4) (hne : k.home ≠ l.home) (ho : k.obj = l.obj) :
    { lease := m, gen := k.gen, life := life, order := order, port := port } ∈ (s.spreadRenewal l life order port).extensions := by
  refine List.mem_append_right _ (List.mem_map.2 ⟨(m, k), ?_, rfl⟩)
  simp [hm, hh, hne, ho]

theorem IsCommand.renewed {i : Instr} {s : State} {die part n : Nat} {o : LeaseObj} {l : Lease} {bad badArg : Bool}
    (h : IsCommand i s die part o bad badArg) (hf : s.PortFree die) (hc : s.ptcode die part o bad badArg = (0, true))
    (hl : s.copyOf die o = some (n, l)) :
    ∃ t, exec i s = .next t ∧ t.die die = (s.die die).answered 0 ∧ t.leases = s.leases ∧
      ∀ e m k, e < 4 → s.copyOf e o = some (m, k) → k.obj = l.obj →
        ∃ x, x ∈ t.extensions ∧ x.lease = m ∧ x.gen = k.gen ∧ x.life = (s.die die).life ∧ x.port = some die := by
  have e := h.renews hf hc
  rw [State.renewCopies, hl] at e
  refine ⟨_, e, State.die_modDie_self .., rfl, fun e m k he hk ho => ?_⟩
  obtain ⟨hm, hh, -, -⟩ := State.copyOf_some hk
  by_cases hd : e = die
  · subst hd
    rw [hl] at hk
    cases hk
    exact ⟨_, List.mem_append_right _ (List.mem_singleton.2 rfl), rfl, rfl, rfl, rfl⟩
  · have hne : k.home ≠ l.home := by rw [hh, (State.copyOf_some hl).2.1]; exact hd
    exact ⟨_, List.mem_append_left _ (State.mem_spreadRenewal _ _ _ hm (by rw [hh]; exact he) hne ho), rfl, rfl, rfl, rfl⟩

end Sys2Proof.Machine
end

section
/-! PROOFS. The words of `ptcmd` and `rtcmd`, the end of a command, and retirement (18 R345; 20 R366). -/

namespace Sys2Proof.Machine

/-! ## The words of `ptcmd` (R345) -/

/-- Ops 6-15 end with LS_BADOBJ, whatever their fields. -/
theorem State.portCommand_reserved {s : State} {die op : Nat} (part res : Nat) (ho : 6 ≤ op) (h : s.PortFree die) :
    s.portCommand die op part res = s.modDie die fun d => d.answered 3 := by
  obtain ⟨k, rfl⟩ := Nat.exists_eq_add_of_le' ho
  exact if_neg (mt (s.not_portFree_iff die).1 (not_not_intro h))

/-- A port that takes no command leaves the module as it is. -/
theorem State.portCommand_busy {s : State} {die : Nat} (op part res : Nat) (h : ¬ s.PortFree die) : s.portCommand die op part res = s := by
  unfold State.portCommand
  split
  case h_6 => rw [State.ptcmd_busy _ _ _ _ h]; rfl
  case h_7 => exact if_pos ((s.not_portFree_iff die).2 h)
  all_goals exact congrArg Prod.fst (State.ptcmd_busy _ _ _ _ h)

/-- A write of `ptcmd` gives the command of its fields, with firmware or without. -/
theorem exec_registerWrite_ptcmd (s : State) (die : Nat) {v : Word} {op : Nat} (h : v.toNat / 2 ^ 0 % 2 ^ 4 = op) :
    exec (.registerWrite (.management die) 0x100 v) s =
      .next (s.portCommand die op (v.toNat / 2 ^ 4 % 2 ^ 6) (v.toNat / 2 ^ 10 % 2 ^ 8)) := by
  subst h
  by_cases hf : s.firmware die = true
  · exact exec_registerWrite_management _ _ hf
  · have busy : ¬ s.PortFree die := fun h => hf ((s.firmware_iff die).2 ⟨h.2.1, h.2.2.1⟩)
    rw [exec_registerWrite_noFirmware _ _ (Bool.not_eq_true _ ▸ hf), State.portCommand_busy _ _ _ busy]

/-- A root that is given a member number is malformed. -/
theorem exec_registerWrite_ptcmd_root {s : State} {die : Nat} {v : Word} (h : v.toNat / 2 ^ 0 % 2 ^ 4 = 0)
    (hr : v.toNat / 2 ^ 10 % 2 ^ 8 ≠ 0) (hf : s.PortFree die) : SetsDie (.registerWrite (.management die) 0x100 v) s die
      ((s.die die).answered (if (s.die die).ptarg.toNat % 2 ^ 32 = 0 then 0x04 else 0x03)) := by
  have cmd : IsCommand (.registerWrite (.management die) 0x100 v) s die (v.toNat / 2 ^ 4 % 2 ^ 6) (.root (v.toNat / 2 ^ 4 % 2 ^ 6))
      (v.toNat / 2 ^ 10 % 2 ^ 8 != 0) false := isCommand_of_exec (exec_registerWrite_ptcmd s die h) fun _ => rfl
  split
  · rename_i hl
    exact cmd.refuses hf (State.ptcode_life hl) (by decide)
  · rename_i hl
    exact cmd.refuses hf (State.ptcode_malformed hl (.inl (bne_iff_ne.2 hr))) (by decide)

/-- A reserved op as its own event. -/
theorem exec_ptcmdReservedOp {s : State} {die : Nat} {op : BitVec 4} (part res : Nat) (ho : 6 ≤ op.toNat) :
    exec (.ptcmdReservedOp die op) s = .next (s.portCommand die op.toNat part res) := by
  have same : s.portCommand die op.toNat 0 0 = s.portCommand die op.toNat part res := by
    by_cases h : s.PortFree die
    · rw [State.portCommand_reserved _ _ ho h, State.portCommand_reserved _ _ ho h]
    · rw [State.portCommand_busy _ _ _ h, State.portCommand_busy _ _ _ h]
  rw [← same]
  exact if_neg (Nat.not_lt.2 ho)

/-- A reserved op that the port does not take, or an op that is not reserved, changes nothing. -/
theorem exec_ptcmdReservedOp_busy {s : State} {die : Nat} (op : BitVec 4) (h : ¬ s.PortFree die) :
    exec (.ptcmdReservedOp die op) s = .next s := by
  show execPtcmdReservedOp die op s = _
  rw [execPtcmdReservedOp]
  split
  · rfl
  · rw [State.portCommand_busy _ _ _ h]

/-! ## The end of a command (R345) -/

theorem State.extension_port_iff (s : State) (die : Nat) :
    (s.extensions.any fun e => e.port = some die) = true ↔ ∃ x, x ∈ s.extensions ∧ x.port = some die := by
  simp only [List.any_eq_true, decide_eq_true_eq]

theorem exec_ptcmdApplied_done {s : State} {die : Nat} (hb : (s.die die).ptbusy = true)
    (hx : ∀ x, x ∈ s.extensions → x.port ≠ some die) :
    exec (.ptcmdApplied die) s = .next (s.modDie die fun d => { d with ptbusy := false }) := by
  have applied : ¬ (s.extensions.any fun e => e.port = some die) = true := fun h => by
    obtain ⟨x, hm, hp⟩ := (s.extension_port_iff die).1 h
    exact hx x hm hp
  exact if_pos (by rw [hb, Bool.eq_false_of_not_eq_true applied]; rfl)

theorem exec_ptcmdApplied_waits {s : State} {die : Nat}
    (h : (s.die die).ptbusy = false ∨ ∃ x, x ∈ s.extensions ∧ x.port = some die) : exec (.ptcmdApplied die) s = .next s := by
  rw [← State.extension_port_iff] at h
  refine if_neg ?_
  rcases h with h | h <;> simp only [h] <;> simp

/-! ## Retirement (20 R366) -/

/-- A write of `rtcmd` gives the command of its fields, with firmware or without. -/
theorem exec_registerWrite_rtcmd (s : State) (die : Nat) (v : Word) :
    exec (.registerWrite (.management die) 0x200 v) s = exec (if v.toNat / 2 ^ 0 % 2 ^ 1 = 0 then
      .retireDramRow die (v.toNat / 2 ^ 1 % 2 ^ 6) (v.toNat / 2 ^ 7 % 2 ^ 4) (v.toNat / 2 ^ 11 % 2 ^ 17)
      else .retireRing die (v.toNat / 2 ^ 28 % 2 ^ 6)) s := by
  by_cases hf : s.firmware die = true
  · rw [exec_registerWrite_management _ _ hf]
    have w : s.writeManagement die 0x200 v = if v.toNat / 2 ^ 0 % 2 ^ 1 = 0 then
      s.retireRow die (v.toNat / 2 ^ 1 % 2 ^ 6) (v.toNat / 2 ^ 7 % 2 ^ 4) (v.toNat / 2 ^ 11 % 2 ^ 17)
      else s.retireRing die (v.toNat / 2 ^ 28 % 2 ^ 6) := rfl
    rw [w]
    split <;> rfl
  · rw [exec_registerWrite_noFirmware _ _ (Bool.not_eq_true _ ▸ hf)]
    have off : (!s.firmware die) = true := by rw [Bool.eq_false_of_not_eq_true hf]; rfl
    split
    · exact congrArg _ (if_pos (.inl off)).symm
    · exact congrArg _ (if_pos (.inl off)).symm

section
variable {s : State} {die : Nat}

/-- The die takes a retirement command: house cores run, and none is under way. -/
def State.RetireFree (s : State) (die : Nat) : Prop := s.firmware die = true ∧ (s.die die).rtbusy = false

theorem State.not_retireFree_iff (s : State) (die : Nat) :
    ((!s.firmware die) = true ∨ (s.die die).rtbusy = true) ↔ ¬ s.RetireFree die := by
  rw [State.RetireFree, not_and_or, Bool.not_eq_true', Bool.not_eq_true, Bool.not_eq_false]

theorem exec_retire_busy (chan bank row : Nat) (h : ¬ s.RetireFree die) :
    exec (.retireDramRow die chan bank row) s = .next s ∧ exec (.retireRing die row) s = .next s :=
  ⟨congrArg _ (if_pos ((s.not_retireFree_iff die).2 h)), congrArg _ (if_pos ((s.not_retireFree_iff die).2 h))⟩

/-- A row's outcome: a malformed field, no spare row of the channel left, or the row mapped. -/
theorem exec_retireDramRow (chan bank row : Nat) (h : s.RetireFree die) : exec (.retireDramRow die chan bank row) s =
    .next (if 64 ≤ chan ∨ 16 ≤ bank ∨ 2 ^ 17 ≤ row then s.rtRefuse die 3
    else if 64 ≤ ((s.die die).rowMap.filter fun r => r.1 = chan).length then s.rtRefuse die 1
    else s.modDie die fun d => { d with rtbusy := true, rtcode := 0, rtEnd := d.cyc + 1024, rowMap := (chan, bank, row) :: d.rowMap }) :=
  congrArg _ (if_neg (mt (s.not_retireFree_iff die).1 (not_not_intro h)))

/-- A die whose retired ring takes its domain's spare. -/
def Die.ringMapped (d : Die) (ring : Nat) : Die :=
  { d with rtbusy := true, rtcode := 0, rtEnd := d.cyc + 36864, ringMap := ring :: d.ringMap }

/-- A ring's outcome: a ring of another die, one in use, no spare ring of the domain left, or the ring mapped. -/
theorem exec_retireRing (ring : Nat) (h : s.RetireFree die) : exec (.retireRing die ring) s =
    .next (if 64 ≤ ring ∨ ring / 16 ≠ die then s.rtRefuse die 3
    else if s.ringTaken ring then s.rtRefuse die 2
    else if (s.die die).ringMap.any fun r => r / 8 = ring / 8 then s.rtRefuse die 1
    else (List.range 8).foldl
      (fun s k => s.startJob { die := die, cell := some (8 * ring + k), bytes := 0x24_0000, row := rowOfRing (8 * ring + k) } 36864)
      (s.modDie die fun d => d.ringMapped ring)) :=
  congrArg _ (if_neg (mt (s.not_retireFree_iff die).1 (not_not_intro h)))

theorem State.ringTaken_iff (s : State) (r : Nat) : s.ringTaken r = true ↔
    (∃ l, l ∈ s.leases ∧ l.2.alive = true ∧ ∃ q, l.2.obj = .ring q r) ∨ s.beingScrubbed (.ring 0 r) = true := by
  unfold State.ringTaken
  rw [Bool.or_eq_true, List.any_eq_true]
  refine or_congr (exists_congr fun l => and_congr_right fun _ => ?_) Iff.rfl
  cases l.2.obj <;> simp [and_comm]

end

/-! ## Scrub jobs begun one after another (19 R350) -/

theorem State.startJob_rest (s : State) (j : Job) (cycles : Nat) :
    s.startJob j cycles = { s with jobs := (s.startJob j cycles).jobs, fresh := s.fresh + 1 } := rfl

/-- The new job stands under the fresh number, with what it clears. -/
theorem State.startJob_self (s : State) (j : Job) (cycles : Nat) :
    ∃ x, tfind (s.startJob j cycles).jobs s.fresh = some x ∧ x.cell = j.cell ∧ x.bytes = j.bytes :=
  ⟨_, tfind_tset_self .., rfl, rfl⟩

/-- A job as a new one leaves it: one that comes after it ends later. -/
def State.delayed (s : State) (j : Job) (cycles : Nat) (x : Job) : Job :=
  if s.jobAfter j x then { x with endAt := x.endAt.map (· + cycles) } else x

/-- A job taken before keeps what it clears. -/
theorem State.startJob_keeps {s : State} (j : Job) (cycles : Nat) {n : Nat} {x : Job} (hn : n ≠ s.fresh) (hx : tfind s.jobs n = some x) :
    ∃ y, tfind (s.startJob j cycles).jobs n = some y ∧ y.cell = x.cell ∧ y.bytes = x.bytes := by
  have moved : (fun p : Nat × Job => if s.takeFresh.2.jobAfter j p.2 then (p.1, { p.2 with endAt := p.2.endAt.map (· + cycles) }) else p)
      = fun p => (p.1, s.takeFresh.2.delayed j cycles p.2) := by
    funext p
    unfold State.delayed
    split <;> rfl
  refine ⟨s.takeFresh.2.delayed j cycles x, ?_, ?_⟩
  · refine (tfind_tset_ne _ _ hn).trans ((congrArg (fun f => tfind (s.jobs.map f) n) moved).trans ?_)
    rw [tfind_map, hx]
    rfl
  · unfold State.delayed
    split <;> exact ⟨rfl, rfl⟩

theorem State.startJobs_spec (s : State) (f : Nat → Job) (cycles n : Nat) :
    let t := (List.range n).foldl (fun u k => u.startJob (f k) cycles) s
    t = { s with jobs := t.jobs, fresh := s.fresh + n } ∧ t.dies = s.dies ∧
      ∀ k, k < n → ∃ x, tfind t.jobs (s.fresh + k) = some x ∧ x.cell = (f k).cell ∧ x.bytes = (f k).bytes := by
  induction n with
  | zero => exact ⟨rfl, rfl, fun k hk => absurd hk (Nat.not_lt_zero k)⟩
  | succ n ih =>
    obtain ⟨hrest, hdies, hjobs⟩ := ih
    have hfresh := congrArg State.fresh hrest
    simp only [List.range_succ, List.foldl_append, List.foldl_cons, List.foldl_nil]
    generalize (List.range n).foldl (fun u k => u.startJob (f k) cycles) s = u at hrest hdies hjobs hfresh
    replace hfresh : u.fresh = s.fresh + n := hfresh
    refine ⟨?_, hdies, fun k hk => ?_⟩
    · rw [State.startJob_rest, hfresh, hrest]
      rfl
    · rcases Nat.lt_succ_iff_lt_or_eq.1 hk with hk | rfl
      · obtain ⟨x, hx, hc, hb⟩ := hjobs k hk
        obtain ⟨y, hy, hyc, hyb⟩ := u.startJob_keeps (f n) cycles (by omega) hx
        exact ⟨y, hy, hyc.trans hc, hyb.trans hb⟩
      · rw [← hfresh]
        exact u.startJob_self (f k) cycles

/-- Retiring a ring: its domain's spare takes its number and is scrubbed, a job for each of its eight cells. -/
theorem exec_retireRing_maps {s : State} {die ring : Nat} (h : s.RetireFree die) (hd : die < 4) (hr : ring / 16 = die)
    (ht : s.ringTaken ring = false) (hm : ∀ r, r ∈ (s.die die).ringMap → r / 8 ≠ ring / 8) :
    ∃ t, exec (.retireRing die ring) s = .next t ∧ t = { s with dies := t.dies, jobs := t.jobs, fresh := s.fresh + 8 } ∧
      t.die die = (s.die die).ringMapped ring ∧
      ∀ k, k < 8 → ∃ j, tfind t.jobs (s.fresh + k) = some j ∧ j.cell = some (8 * ring + k) ∧ j.bytes = 0x24_0000 := by
  have spare : ¬ ((s.die die).ringMap.any fun r => r / 8 = ring / 8) = true := by
    simpa only [List.any_eq_true, decide_eq_true_eq, not_exists, not_and] using hm
  have e := exec_retireRing ring h
  rw [if_neg (by omega), if_neg (by rw [ht]; exact Bool.false_ne_true), if_neg spare] at e
  obtain ⟨hrest, hdies, hjobs⟩ := (s.modDie die fun d => d.ringMapped ring).startJobs_spec
    (fun k => { die := die, cell := some (8 * ring + k), bytes := 0x24_0000, row := rowOfRing (8 * ring + k) }) 36864 8
  refine ⟨_, e, ?_, ?_, hjobs⟩
  · rw [hrest]; rfl
  · rw [State.die_congr hdies, State.die_modDie_self]

/-- The command ends at its cycle; before, and without one, nothing changes. -/
theorem exec_retirementDone (s : State) (die : Nat) : SetsDie (.retirementDone die) s die
    (if (s.die die).rtbusy = true ∧ (s.die die).rtEnd ≤ (s.die die).cyc then { s.die die with rtbusy := false } else s.die die) := by
  have ready : ((s.die die).rtbusy && decide ((s.die die).rtEnd ≤ (s.die die).cyc)) = true ↔
      (s.die die).rtbusy = true ∧ (s.die die).rtEnd ≤ (s.die die).cyc := by rw [Bool.and_eq_true, decide_eq_true_iff]
  split
  · rename_i h
    exact setsDie_of_modDie (if_pos (ready.2 h)) rfl
  · rename_i h
    refine ⟨s, if_neg (mt ready.1 h), rfl, fun m => ?_⟩
    split
    · subst_vars; rfl
    · rfl

end Sys2Proof.Machine
end

section
/-! PROOFS. What the operations of L2, DRAM and a cell's L1 leave unchanged (10 R213-R218; 19 R352). -/

namespace Sys2Proof.Machine

/-- A relation of states that every step of a fold keeps holds from its start to its end. -/
theorem foldl_related {α : Type} {R : State → State → Prop} (refl : ∀ s, R s s) (trans : ∀ {s t u}, R s t → R t u → R s u)
    {f : State → α → State} (step : ∀ s x, R s (f s x)) (l : List α) (s : State) : R s (l.foldl f s) := by
  induction l generalizing s with
  | nil => exact refl s
  | cons x l ih => exact trans (step s x) (ih (f s x))

/-! ## L2 and DRAM (10 R218; 19 R352) -/

/-- Nothing differs but what the dies hold and the reports on their way. -/
def HomesOnly (s t : State) : Prop := t = { s with dies := t.dies, reports := t.reports, fresh := t.fresh }

theorem HomesOnly.refl (s : State) : HomesOnly s s := rfl

theorem HomesOnly.trans {s t u : State} (h : HomesOnly s t) (k : HomesOnly t u) : HomesOnly s u := by
  rw [HomesOnly] at *
  rw [k, h]

theorem State.homesOnly_modDie (s : State) (n : Nat) (f : Die → Die) : HomesOnly s (s.modDie n f) := rfl

theorem State.homesOnly_dramWrite (s : State) (die pa : Nat) (l : L2Line) : HomesOnly s (s.dramWrite die pa l) := by
  unfold State.dramWrite
  dsimp only
  split <;> rfl

theorem State.homesOnly_l2Evict (s : State) (die pa : Nat) : HomesOnly s (s.l2Evict die pa) := by
  unfold State.l2Evict
  split
  · exact .refl s
  · dsimp only
    refine .trans ?_ (State.homesOnly_modDie _ _ _)
    split
    · exact s.homesOnly_dramWrite _ _ _
    · exact .refl s

theorem State.homesOnly_l2MakeRoom (s : State) (die slice k : Nat) : HomesOnly s (s.l2MakeRoom die slice k) :=
  foldl_related HomesOnly.refl HomesOnly.trans (fun u (p : Nat × L2Line) => u.homesOnly_l2Evict die p.1) _ s

theorem State.homesOnly_l2Fill (s : State) (p : Page) (va : Nat) : HomesOnly s (s.l2Fill p va).1 := by
  unfold State.l2Fill
  dsimp only
  split
  · split
    · exact .refl s
    · exact (s.homesOnly_l2Evict _ _).trans ((State.homesOnly_l2MakeRoom _ _ _ _).trans rfl)
  · exact (s.homesOnly_l2MakeRoom _ _ _).trans rfl

theorem State.homesOnly_homeLine {s t : State} {space va : Nat} {p : Page} {b : Bank} (e : s.homeLine space va = .ok (t, p, b)) :
    HomesOnly s t := by
  unfold State.homeLine at e
  split at e
  · cases e
  · cases e; exact s.homesOnly_l2Fill _ va

theorem State.homesOnly_lineModify {s t : State} {space va : Nat} {f : Bank → Nat → Bank} (e : s.lineModify space va f = .ok t) :
    HomesOnly s t := by
  unfold State.lineModify at e
  split at e
  · cases e
  · rename_i h; cases e; exact (State.homesOnly_homeLine h).trans rfl

theorem State.homesOnly_homeRead {s t : State} {space va n : Nat} {bs : List Byte} (e : s.homeRead (.mem space va) n = .ok (t, bs)) :
    HomesOnly s t := by
  unfold State.homeRead at e
  dsimp only at e
  split at e
  · cases e
  · rename_i h
    split at e
    · cases e
    · cases e; exact State.homesOnly_homeLine h

/-! ## Requests from outside (10 R218; 21 R373) -/

/-- Of a computation that may fail and another after it, both have succeeded. -/
theorem except_bind_ok {ε α β : Type} {x : Except ε α} {f : α → Except ε β} {b : β} (h : (x >>= f) = .ok b) :
    ∃ a, x = .ok a ∧ f a = .ok b := by
  cases x with
  | error e => cases h
  | ok a => exact ⟨a, rfl, h⟩

theorem State.homesOnly_readOutside {part : Nat} (l : List (Nat × Nat)) {s t : State} {bs : List Byte}
    (e : s.readOutside part l = .ok (t, bs)) : HomesOnly s t := by
  induction l generalizing s t bs with
  | nil => cases e; exact .refl s
  | cons p l ih =>
    obtain ⟨⟨u, b⟩, h, e⟩ := except_bind_ok e
    obtain ⟨⟨w, c⟩, k, e⟩ := except_bind_ok e
    cases e
    exact (State.homesOnly_homeRead h).trans (ih k)

theorem State.homesOnly_writeOutside {part va : Nat} {data : List Byte} (l : List (Nat × Nat)) {s t : State}
    (e : s.writeOutside part va data l = .ok t) : HomesOnly s t := by
  induction l generalizing s with
  | nil => cases e; exact .refl _
  | cons p l ih =>
    obtain ⟨u, h, e⟩ := except_bind_ok e
    exact (State.homesOnly_lineModify h).trans (ih e)

theorem State.homesOnly_serveOutside {s t : State} {part va : Nat} {op : OutsideOp} {r : HostOut}
    (e : s.serveOutside part va op = .ok (t, r)) : HomesOnly s t := by
  cases op with
  | load n =>
    obtain ⟨⟨u, bs⟩, h, e⟩ := except_bind_ok e
    cases e
    exact State.homesOnly_readOutside _ h
  | store data =>
    obtain ⟨u, h, e⟩ := except_bind_ok e
    cases e
    exact State.homesOnly_writeOutside _ h
  | give v =>
    obtain ⟨u, h, e⟩ := except_bind_ok e
    cases e
    exact State.homesOnly_lineModify h
  | take =>
    obtain ⟨⟨u, bs⟩, h, e⟩ := except_bind_ok e
    obtain ⟨w, k, e⟩ := except_bind_ok e
    cases e
    exact (State.homesOnly_homeRead h).trans (State.homesOnly_lineModify k)
  | amo op ty v exp =>
    obtain ⟨⟨u, bs⟩, h, e⟩ := except_bind_ok e
    obtain ⟨w, k, e⟩ := except_bind_ok e
    cases e
    exact (State.homesOnly_homeRead h).trans (State.homesOnly_lineModify k)

theorem State.homesOnly_serve (s : State) (part : Nat) (va : Word) (op : OutsideOp) : HomesOnly s (s.serve part va op).1 := by
  unfold State.serve
  split
  · split
    · rename_i h; exact State.homesOnly_serveOutside h
    · exact .refl s
  · exact .refl s

/-! ## Write-backs of a cell's L1 (10 R213-R215) -/

/-- Nothing differs but contexts, cells, what the dies hold and the reports on their way. -/
def CachesOnly (s t : State) : Prop :=
  t = { s with ctxs := t.ctxs, cells := t.cells, dies := t.dies, stamp := t.stamp, reports := t.reports, fresh := t.fresh }

theorem CachesOnly.refl (s : State) : CachesOnly s s := rfl

theorem CachesOnly.trans {s t u : State} (h : CachesOnly s t) (k : CachesOnly t u) : CachesOnly s u := by
  rw [CachesOnly] at *
  rw [k, h]

theorem HomesOnly.caches {s t : State} (h : HomesOnly s t) : CachesOnly s t := by
  rw [HomesOnly] at h
  rw [CachesOnly, h]

theorem State.cachesOnly_reportQFull (s : State) (part cell cls : Nat) (m : Msg) : CachesOnly s (s.reportQFull part cell cls m) := by
  unfold State.reportQFull
  split
  rfl

theorem State.cachesOnly_enqueueGen (s : State) (cell cls part : Nat) (m : Msg) : CachesOnly s (s.enqueueGen cell cls part m) := by
  unfold State.enqueueGen
  split
  · rfl
  · exact s.cachesOnly_reportQFull part cell cls m

theorem State.cachesOnly_wakeMsg (s : State) (ctx cls : Nat) : CachesOnly s (s.wakeMsg ctx cls) := by
  unfold State.wakeMsg
  dsimp only
  split
  · split <;> rfl
  · rfl

theorem State.cachesOnly_deliverGen (s : State) (cell cls part : Nat) (m : Msg) (pkt : Option Nat) :
    CachesOnly s (s.deliverGen cell cls part m pkt) := by
  unfold State.deliverGen
  split
  · exact s.cachesOnly_reportQFull part cell cls m
  · split
    · exact (s.cachesOnly_enqueueGen cell cls part m).trans (State.cachesOnly_wakeMsg _ _ _)
    · split
      · rfl
      · exact s.cachesOnly_reportQFull part cell cls m

theorem State.cachesOnly_reportDrop (s : State) (o : Issuer) (code : Byte) (src : Nat) (mark : Option Nat) (always : Bool)
    (addr info : Word) (pkt : Option Nat) : CachesOnly s (s.reportDrop o code src mark always addr info pkt) := by
  unfold State.reportDrop
  split
  · rfl
  · dsimp only
    split
    · refine .trans ?_ (State.cachesOnly_deliverGen _ _ _ _ _ _)
      cases mark <;> rfl
    · cases mark <;> rfl

theorem State.cachesOnly_homeModify {s t : State} {l : Loc} {n : Nat} {f : Bank → Nat → Bank} (e : s.homeModify l n f = .ok t) :
    CachesOnly s t := by
  unfold State.homeModify at e
  split at e
  · cases e; rfl
  · split at e
    · cases e
    · exact (State.homesOnly_lineModify e).caches

theorem State.cachesOnly_l1WriteBack (s : State) (cell id : Nat) : CachesOnly s (s.l1WriteBack cell id) := by
  unfold State.l1WriteBack
  split
  · exact .refl s
  · split
    · exact .refl s
    · split
      · rename_i h
        refine (State.cachesOnly_homeModify h).trans ?_
        split
        · rename_i k; exact (State.homesOnly_homeLine k).caches.trans rfl
        · rfl
      · refine CachesOnly.trans (t := s.l1Drop cell id) rfl ?_
        exact foldl_related CachesOnly.refl CachesOnly.trans (fun u o => u.cachesOnly_reportDrop _ _ _ _ _ _ _ _) _ _

theorem State.cachesOnly_l1Flush (s : State) (cell id : Nat) : CachesOnly s (s.l1Flush cell id) :=
  (s.cachesOnly_l1WriteBack cell id).trans rfl

theorem State.cachesOnly_flushPages (s : State) (part : Nat) (ps : List Page) : CachesOnly s (s.flushPages part ps) :=
  .trans (foldl_related CachesOnly.refl CachesOnly.trans (fun u (x : Nat × Nat) => u.cachesOnly_l1Flush x.1 x.2) _ s)
    (foldl_related CachesOnly.refl CachesOnly.trans (fun u p =>
      foldl_related CachesOnly.refl CachesOnly.trans (fun w (x : Nat × L2Line) => (w.homesOnly_l2Evict p.die x.1).caches) _ u) ps _)

end Sys2Proof.Machine
end

section
/-! PROOFS. Quiesce points, page moves, and members that join (17 R334, R337, R338; 18 R347). -/

namespace Sys2Proof.Machine

theorem HomesOnly.frame {s t : State} (h : HomesOnly s t) :
    t.parts = s.parts ∧ t.leases = s.leases ∧ t.pages = s.pages ∧ t.ends = s.ends := by
  rw [h]; exact ⟨rfl, rfl, rfl, rfl⟩

theorem CachesOnly.frame {s t : State} (h : CachesOnly s t) :
    t.parts = s.parts ∧ t.leases = s.leases ∧ t.pages = s.pages ∧ t.ends = s.ends := by
  rw [h]; exact ⟨rfl, rfl, rfl, rfl⟩

/-! ## What goes on after a quiesce point (R337) -/

/-- No end keeps a request back. -/
def State.NothingKept (s : State) : Prop := ∀ e, e ∈ s.ends → e.2.kept = []

theorem State.applyKept_nothing (s : State) (k : Nat) {e : DEnd} (h : e.kept = []) (n : Nat) : s.applyKept k e n = s := by
  cases n with
  | zero => rfl
  | succ n => rw [State.applyKept, State.nextKept, h]; rfl

theorem State.endsGoOn_nothing {s : State} (h : s.NothingKept) :
    s.ends.foldl (fun s e => if e.2.sender then s else s.applyKept e.1 e.2 64) s = s := by
  unfold State.NothingKept at h
  generalize s.ends = l at h
  induction l generalizing s with
  | nil => rfl
  | cons e l ih =>
    have first : (if e.2.sender then s else s.applyKept e.1 e.2 64) = s := by
      rw [State.applyKept_nothing _ _ (h e (List.mem_cons_self ..)), ite_self]
    rw [List.foldl_cons, first]
    exact ih fun x hx => h x (List.mem_cons_of_mem _ hx)

/-- A partition whose quiesce point is over. -/
def Part.released (q : Part) : Part := { q with quiescing := false, heldHost := [] }

theorem Part.released_eq {q : Part} (h : q.heldHost = []) : q.released = { q with quiescing := false } := by
  rw [Part.released, ← h]

theorem State.releaseHeld_nothing {s : State} {part : Nat} (hh : (s.part part).heldHost = []) (hk : s.NothingKept) :
    s.releaseHeld part = s.modPart part Part.released := by
  rw [State.releaseHeld, hh]
  exact State.endsGoOn_nothing (s := s.modPart part Part.released) hk

/-- One held access is served after the quiesce point, and nothing else is done. -/
theorem State.releaseHeld_one {s : State} {part : Nat} {x : Word} {o : OutsideOp} (hh : (s.part part).heldHost = [(x, o)])
    (hk : s.NothingKept) : s.releaseHeld part =
      { ((s.modPart part Part.released).serve part x o).1 with hostOut := ((s.modPart part Part.released).serve part x o).2 } := by
  rw [State.releaseHeld, hh]
  refine State.endsGoOn_nothing (s := { ((s.modPart part Part.released).serve part x o).1 with
    hostOut := ((s.modPart part Part.released).serve part x o).2 }) ?_
  have h := ((s.modPart part Part.released).homesOnly_serve part x o).frame.2.2.2
  intro e he
  exact hk e (h ▸ he)

/-! ## Members that wait for a quiesce point (R334; 18 R347) -/

theorem State.waitingMembers_eq_nil {s : State} (part : Nat) {f : Lease → Bool} (h : ∀ l, l ∈ s.leases → f l.2 = false) :
    s.waitingMembers part f = [] := by
  refine List.filter_eq_nil_iff.2 fun p hp => ?_
  rw [h p hp, Bool.and_false]
  exact Bool.false_ne_true

theorem State.waitingMembers_mono {s : State} {part : Nat} {f g : Lease → Bool} (hfg : ∀ l, f l = true → g l = true)
    (h : s.waitingMembers part g = []) : s.waitingMembers part f = [] := by
  refine List.filter_eq_nil_iff.2 fun p hp hf => List.filter_eq_nil_iff.1 h p hp ?_
  simp only [Bool.and_eq_true] at hf ⊢
  exact ⟨hf.1, hfg _ hf.2⟩

/-- Members that join S or G at the next quiesce point. -/
def State.joins (s : State) (part : Nat) : List (Nat × Lease) := s.waitingMembers part fun l => l.alive && !l.pinned

/-- Members that leave S or G there. -/
def State.leaves (s : State) (part : Nat) : List (Nat × Lease) :=
  s.waitingMembers part fun l => l.st = .lapsing && l.pinned && l.obj.ownDie = some l.home

theorem State.leaves_eq_nil {s : State} (part : Nat) (h : ∀ l, l ∈ s.leases → l.2.st ≠ .lapsing) : s.leaves part = [] :=
  State.waitingMembers_eq_nil part fun l hl => by simp [h l hl]

theorem State.joins_eq_nil {s : State} (part : Nat) (h : ∀ l, l ∈ s.leases → l.2.alive = true → l.2.pinned = true) :
    s.joins part = [] :=
  State.waitingMembers_eq_nil part fun l hl => by
    cases ha : l.2.alive
    · rfl
    · rw [h l hl ha]; rfl

/-- Without anything due, no page moves and no member joins or leaves. -/
theorem State.notDue {s : State} {part : Nat} (h : s.quiesceDue part = false) :
    (s.part part).moves = [] ∧ s.joins part = [] ∧ s.leaves part = [] := by
  simp only [State.quiesceDue, Bool.or_eq_false_iff, Bool.not_eq_false', List.isEmpty_iff] at h
  exact ⟨h.1, State.waitingMembers_mono (fun l hl => by rw [hl, Bool.true_or]) h.2,
    State.waitingMembers_mono (fun l hl => by rw [hl, Bool.or_true]) h.2⟩

/-- A slice or group member in use. -/
def Lease.pin (l : Lease) : Lease := { l with pinned := true }

/-- A member leaves S or G. -/
def State.leaveMember (part : Nat) (s : State) (p : Nat × Lease) : State :=
  match p.2.obj with
  | .slice _ k => s.leaveSlice p.1 k
  | .chan _ g _ _ => s.leaveChan p.1 part g
  | _ => s

/-- The members that join and leave. -/
def State.changeMembers (s : State) (part : Nat) : State :=
  (s.leaves part).foldl (State.leaveMember part) ((s.joins part).foldl (fun u p => u.modLease p.1 Lease.pin)
    (if (s.joins part).isEmpty && (s.leaves part).isEmpty then s else s.flushSlices part))

/-- A quiesce point: members join and leave, and then the pages move. -/
theorem State.quiesce_eq (s : State) (part : Nat) : s.quiesce part =
    ((s.changeMembers part).part part).moves.foldl (fun u m => u.moveRegion part m.1 m.2)
      ((s.changeMembers part).modPart part fun q => { q with moves := [] }) := rfl

theorem State.changeMembers_none {s : State} {part : Nat} (hj : s.joins part = []) (hl : s.leaves part = []) :
    s.changeMembers part = s := by
  rw [State.changeMembers, hj, hl]
  rfl

theorem State.changeMembers_joins {s : State} {part : Nat} (hj : s.joins part ≠ []) (hl : s.leaves part = []) :
    s.changeMembers part = (s.joins part).foldl (fun u p => u.modLease p.1 Lease.pin) (s.flushSlices part) := by
  rw [State.changeMembers, hl, List.isEmpty_eq_false_iff.2 hj, Bool.false_and, if_neg Bool.false_ne_true, List.foldl_nil]

/-- A quiesce point at which no member joins or leaves makes the moves alone. -/
theorem State.quiesce_moves {s : State} {part : Nat} (hj : s.joins part = []) (hl : s.leaves part = []) :
    s.quiesce part = (s.part part).moves.foldl (fun u m => u.moveRegion part m.1 m.2) (s.modPart part fun q => { q with moves := [] }) := by
  rw [State.quiesce_eq, State.changeMembers_none hj hl]

/-! ## The event (R337) -/

section
variable {s : State} {part : Nat}

theorem exec_quiescePoint_idle (h : s.partResident part = true ∨ s.quiesceDue part = false ∧ (s.part part).quiescing = false) :
    exec (.quiescePoint part) s = .next s := by
  refine if_pos ?_
  rcases h with h | ⟨h, k⟩
  · rw [h]; rfl
  · rw [h, k, Bool.or_self, Bool.not_false, Bool.or_true]

theorem exec_quiescePoint_enabled (hr : s.partResident part = false) (hd : s.quiesceDue part = true ∨ (s.part part).quiescing = true) :
    exec (.quiescePoint part) s = if s.partWork part then .next (s.modPart part fun p => { p with quiescing := true })
      else .next ((s.quiesce part).releaseHeld part) := by
  refine if_neg ?_
  rw [hr, (Bool.or_eq_true ..).mpr hd]
  exact Bool.false_ne_true

theorem exec_quiescePoint_waits (hr : s.partResident part = false) (hd : s.quiesceDue part = true ∨ (s.part part).quiescing = true)
    (hw : s.partWork part = true) : exec (.quiescePoint part) s = .next (s.modPart part fun p => { p with quiescing := true }) := by
  rw [exec_quiescePoint_enabled hr hd, if_pos hw]

theorem exec_quiescePoint_ends (hr : s.partResident part = false) (hd : s.quiesceDue part = true ∨ (s.part part).quiescing = true)
    (hw : s.partWork part = false) : exec (.quiescePoint part) s = .next ((s.quiesce part).releaseHeld part) := by
  rw [exec_quiescePoint_enabled hr hd, hw, if_neg Bool.false_ne_true]

/-- One access that the host made meanwhile is served when nothing is due any more. -/
theorem exec_quiescePoint_serves {x : Word} {o : OutsideOp} (hr : s.partResident part = false) (hw : s.partWork part = false)
    (hk : s.NothingKept) (hq : (s.part part).quiescing = true) (hd : s.quiesceDue part = false) (hh : (s.part part).heldHost = [(x, o)]) :
    let r := (s.modPart part Part.released).serve part x o
    exec (.quiescePoint part) s = .next { r.1 with hostOut := r.2 } ∧ r.1.part part = (s.part part).released := by
  obtain ⟨hm, hj, hl⟩ := State.notDue hd
  have same : (s.modPart part fun q => { q with moves := [] }).modPart part Part.released = s.modPart part Part.released := by
    rw [State.modPart_modPart, State.modPart, State.modPart, ← hm]
  have held : ((s.modPart part fun q => { q with moves := [] }).part part).heldHost = [(x, o)] := by
    rw [State.part_modPart_self]; exact hh
  refine ⟨?_, ?_⟩
  · rw [exec_quiescePoint_ends hr (.inr hq) hw, State.quiesce_moves hj hl, hm, List.foldl_nil, State.releaseHeld_one held hk, same]
  · rw [State.part_congr ((s.modPart part Part.released).homesOnly_serve part x o).frame.1, State.part_modPart_self]

/-- One page move is made when no member joins or leaves. -/
theorem exec_quiescePoint_move {r dom : Nat} (hr : s.partResident part = false) (hw : s.partWork part = false)
    (hl : ∀ l, l ∈ s.leases → l.2.st ≠ .lapsing ∧ (l.2.alive = true → l.2.pinned = true)) (hm : (s.part part).moves = [(r, dom)]) :
    exec (.quiescePoint part) s =
      .next (((s.modPart part fun q => { q with moves := [] }).moveRegion part r dom).releaseHeld part) := by
  have due : s.quiesceDue part = true := by rw [State.quiesceDue, hm]; rfl
  rw [exec_quiescePoint_ends hr (.inl due) hw, State.quiesce_moves (State.joins_eq_nil part fun l h => (hl l h).2)
    (State.leaves_eq_nil part fun l h => (hl l h).1), hm, List.foldl_cons, List.foldl_nil]

end

/-! ## One page move (R337, R338) -/

/-- A request that cannot be made. -/
def State.refuseMove (s : State) (part : Nat) : State := s.modPart part fun q => { q with moveRefd := true }

section
variable {s : State} {part r dom : Nat}

theorem State.moveRegion_unmapped (h : s.regionHome part r = none) : s.moveRegion part r dom = s.refuseMove part := by
  rw [State.moveRegion, h]
  rfl

theorem State.moveRegion_same (h : s.regionHome part r = some dom) : s.moveRegion part r dom = s := by
  rw [State.moveRegion, h]
  exact if_pos rfl

/-- A region with another home: the domain's group, slice and frames decide. -/
theorem State.moveRegion_other {h : Nat} (hh : s.regionHome part r = some h) (hne : h ≠ dom) : s.moveRegion part r dom =
    if ((s.flushPages part (s.pagesOf part r)).movePages dom (s.pagesOf part r)).2 = true then
      if (s.groupsOf part (dieOfDom dom)).isEmpty || (s.slicesOf part dom).isEmpty then s.refuseMove part
      else ((s.flushPages part (s.pagesOf part r)).movePages dom (s.pagesOf part r)).1.modPart part fun q =>
        { q with regions := tset q.regions r dom }
    else s.refuseMove part := by
  rw [State.moveRegion, hh]
  refine (if_neg hne).trans ?_
  rcases (s.flushPages part (s.pagesOf part r)).movePages dom (s.pagesOf part r) with ⟨t, _ | _⟩ <;> rfl

theorem State.moveRegion_refused {h : Nat} (hh : s.regionHome part r = some h) (hne : h ≠ dom)
    (hr : s.groupsOf part (dieOfDom dom) = [] ∨ s.slicesOf part dom = [] ∨
      ((s.flushPages part (s.pagesOf part r)).movePages dom (s.pagesOf part r)).2 = false) :
    s.moveRegion part r dom = s.refuseMove part := by
  rw [State.moveRegion_other hh hne]
  rcases hr with h | h | h
  · rw [h, List.isEmpty_nil, Bool.true_or, if_pos rfl, ite_self]
  · rw [h, List.isEmpty_nil, Bool.or_true, if_pos rfl, ite_self]
  · rw [h, if_neg Bool.false_ne_true]

theorem State.moveRegion_made {h : Nat} (hh : s.regionHome part r = some h) (hne : h ≠ dom) (hg : s.groupsOf part (dieOfDom dom) ≠ [])
    (hs : s.slicesOf part dom ≠ []) {t : State}
    (ht : (s.flushPages part (s.pagesOf part r)).movePages dom (s.pagesOf part r) = (t, true)) :
    s.moveRegion part r dom = t.modPart part fun q => { q with regions := tset q.regions r dom } := by
  rw [State.moveRegion_other hh hne, ht, if_pos rfl, if_neg]
  rw [← List.isEmpty_eq_false_iff] at hg hs
  rw [hg, hs]
  exact Bool.false_ne_true

/-- After a move that has been made, the region's home is the new domain, and the quiesce point is over. -/
theorem State.releaseHeld_moved {t : State} (hp : t.parts = s.parts) (he : t.ends = s.ends) (hh : (s.part part).heldHost = [])
    (hk : s.NothingKept) :
    let w := (t.modPart part fun q => { q with regions := tset q.regions r dom }).releaseHeld part
    w.part part = { s.part part with regions := tset (s.part part).regions r dom, quiescing := false, heldHost := [] } ∧
      w.pages = t.pages := by
  have held : ((t.modPart part fun q => { q with regions := tset q.regions r dom }).part part).heldHost = [] := by
    rw [State.part_modPart_self, State.part_congr hp]; exact hh
  have kept : (t.modPart part fun q => { q with regions := tset q.regions r dom }).NothingKept := fun e h => hk e (he ▸ h)
  rw [State.releaseHeld_nothing held kept]
  refine ⟨?_, rfl⟩
  rw [State.part_modPart_self, State.part_modPart_self, State.part_congr hp]
  rfl

end

theorem State.homesOnly_writeFrames (s : State) (p : Page) (die frame : Nat) (l : List (Nat × Bank)) :
    HomesOnly s (s.writeFrames p die frame l) :=
  foldl_related HomesOnly.refl HomesOnly.trans (fun u _ => u.homesOnly_dramWrite _ _ _) l s

/-- A page, or a second mapping of its frames, after its move to frames from `f` of a domain's group. -/
def Page.movedWith (q p : Page) (dom g f : Nat) : Page :=
  if q.die = p.die && decide (p.frame ≤ q.frame ∧ q.frame < p.frame + p.size / 0x1_0000) then
    { q with dom := dom, cg := g, die := dieOfDom dom, frame := f + (q.frame - p.frame) }
  else q

theorem Page.movedWith_self (p : Page) (dom g f : Nat) :
    p.movedWith p dom g f = { p with dom := dom, cg := g, die := dieOfDom dom, frame := f } := by
  have frames : 0 < p.size / 0x1_0000 := by unfold Page.size; split <;> decide
  rw [Page.movedWith, if_pos (by simp [frames]), Nat.sub_self, Nat.add_zero]

theorem State.movePage_frame (s : State) (p : Page) (dom g f : Nat) :
    (s.movePage p dom g f).parts = s.parts ∧ (s.movePage p dom g f).ends = s.ends ∧
      (s.movePage p dom g f).pages = s.pages.map fun q => q.movedWith p dom g f := by
  obtain ⟨hp, -, hg, he⟩ := (State.homesOnly_writeFrames
    (({ s with pages := s.pages.map fun q => q.movedWith p dom g f } : State).modDie (dieOfDom dom) fun d =>
      { d with owned := (List.range (p.size / 0x1_0000)).foldl (fun o i => nins o (f + i)) d.owned }) p (dieOfDom dom) f (s.readFrames p)).frame
  exact ⟨hp, he, hg⟩

/-- One page that finds a frame moves there. -/
theorem State.movePages_one {s : State} {dom g f : Nat} {a : Page}
    (h : s.placeFrame a.part dom (a.va / 0x20_0000) a.big = some (g, f)) : s.movePages dom [a] = (s.movePage a dom g f, true) := by
  rw [State.movePages, h]
  rfl

/-! ## A slice joins S (R334; 18 R347) -/

theorem mem_of_mem_tdel {α : Type} {t : Table α} {k : Nat} {x : Nat × α} (h : x ∈ tdel t k) : x ∈ t := by
  induction t with
  | nil => exact h
  | cons p t ih =>
    obtain ⟨j, w⟩ := p
    simp only [tdel] at h
    split at h
    · exact .tail _ h
    · rcases List.mem_cons.1 h with rfl | h
      · exact .head _
      · exact .tail _ (ih h)

/-- In a table whose keys rise, a removal leaves nothing at its key. -/
theorem ne_of_mem_tdel {α : Type} {t : Table α} {lo k : Nat} {x : Nat × α} (hr : risesFrom lo t = true) (h : x ∈ tdel t k) :
    x.1 ≠ k := fun e => by
  have found := tfind_of_mem (risesFrom_tdel k hr) h
  rw [tfind_tdel hr, if_pos e] at found
  cases found

/-- Every L2 of `t` holds lines that it held in `s`, in order. -/
def L2Shrinks (s t : State) : Prop :=
  ∀ e, (risesFrom 0 (s.die e).l2 = true → risesFrom 0 (t.die e).l2 = true) ∧ ∀ x, x ∈ (t.die e).l2 → x ∈ (s.die e).l2

theorem L2Shrinks.refl (s : State) : L2Shrinks s s := fun _ => ⟨id, fun _ => id⟩

theorem L2Shrinks.trans {s t u : State} (h : L2Shrinks s t) (k : L2Shrinks t u) : L2Shrinks s u :=
  fun e => ⟨(k e).1 ∘ (h e).1, fun x hx => (h e).2 x ((k e).2 x hx)⟩

@[simp] theorem State.report_dies (s : State) (part : Nat) (d0 addr info : Word) (die : Nat) (m : Option Msg) :
    (s.report part d0 addr info die m).dies = s.dies := rfl

theorem State.l2_dramWrite (s : State) (die pa e : Nat) (l : L2Line) : ((s.dramWrite die pa l).die e).l2 = (s.die e).l2 := by
  have changed : ∀ f : Die → Die, (∀ d, (f d).l2 = d.l2) → ((s.modDie die f).die e).l2 = (s.die e).l2 := by
    intro f hf
    rw [State.die_modDie]
    split
    · subst_vars; exact hf _
    · rfl
  unfold State.dramWrite
  dsimp only
  split
  · rw [State.die_congr (State.report_dies ..)]
    exact changed _ fun d => rfl
  · exact changed _ fun d => rfl

/-- An eviction takes the line at its address out of its die's L2, and no other. -/
theorem State.l2_l2Evict (s : State) (die pa e : Nat) {l : L2Line} (h : tfind (s.die die).l2 pa = some l) :
    ((s.l2Evict die pa).die e).l2 = if e = die then tdel (s.die die).l2 pa else (s.die e).l2 := by
  have written : ∀ n, ((if l.dirty then s.dramWrite die pa l else s).die n).l2 = (s.die n).l2 := by
    intro n
    split
    · exact s.l2_dramWrite die pa n l
    · rfl
  rw [State.l2Evict, h]
  dsimp only
  rw [State.die_modDie]
  split
  · rw [written]
  · exact written e

theorem State.l2Shrinks_l2Evict (s : State) (die pa : Nat) : L2Shrinks s (s.l2Evict die pa) := fun e => by
  cases h : tfind (s.die die).l2 pa with
  | none => rw [State.l2Evict, h]; exact ⟨id, fun _ => id⟩
  | some l =>
    rw [s.l2_l2Evict die pa e h]
    split
    · subst_vars; exact ⟨risesFrom_tdel pa, fun x => mem_of_mem_tdel⟩
    · exact ⟨id, fun _ => id⟩

theorem State.l2Evict_gone {s : State} {die pa : Nat} (hr : risesFrom 0 (s.die die).l2 = true) :
    ∀ x, x ∈ ((s.l2Evict die pa).die die).l2 → x.1 ≠ pa := by
  cases h : tfind (s.die die).l2 pa with
  | none =>
    rw [State.l2Evict, h]
    rintro ⟨k, v⟩ hx rfl
    rw [tfind_of_mem hr hx] at h
    cases h
  | some l =>
    rw [s.l2_l2Evict die pa die h, if_pos rfl]
    exact fun x => ne_of_mem_tdel hr

/-- Evictions of a list of lines leave none of them. -/
theorem State.l2Evict_foldl {die : Nat} (l : List (Nat × L2Line)) (s : State) (hr : risesFrom 0 (s.die die).l2 = true) :
    let t := l.foldl (fun s x => s.l2Evict die x.1) s
    L2Shrinks s t ∧ ∀ p, p ∈ l → ∀ x, x ∈ (t.die die).l2 → x.1 ≠ p.1 := by
  induction l generalizing s with
  | nil => exact ⟨.refl s, fun p hp => by cases hp⟩
  | cons q l ih =>
    have first := s.l2Shrinks_l2Evict die q.1
    obtain ⟨hs, hg⟩ := ih (s.l2Evict die q.1) ((first die).1 hr)
    refine ⟨first.trans hs, fun p hp x hx => ?_⟩
    rcases List.mem_cons.1 hp with rfl | hp
    · exact State.l2Evict_gone hr x ((hs die).2 x hx)
    · exact hg p hp x hx

/-- The partition's lines in one die's L2 go. -/
theorem State.flushDie_gone {s : State} {part d : Nat} (hr : risesFrom 0 (s.die d).l2 = true) :
    let t := ((s.die d).l2.filter fun l => l.2.part = part).foldl (fun s l => s.l2Evict d l.1) s
    L2Shrinks s t ∧ ∀ x, x ∈ (t.die d).l2 → x.2.part ≠ part := by
  obtain ⟨hs, hg⟩ := State.l2Evict_foldl ((s.die d).l2.filter fun l => l.2.part = part) s hr
  exact ⟨hs, fun x hx hp => hg x (List.mem_filter.2 ⟨(hs d).2 x hx, decide_eq_true hp⟩) x hx rfl⟩

theorem State.flushSlices_gone {part : Nat} (ds : List Nat) (s : State) (hr : ∀ e, e ∈ ds → risesFrom 0 (s.die e).l2 = true) :
    let t := ds.foldl (fun s d => ((s.die d).l2.filter fun l => l.2.part = part).foldl (fun s l => s.l2Evict d l.1) s) s
    L2Shrinks s t ∧ ∀ e, e ∈ ds → ∀ x, x ∈ (t.die e).l2 → x.2.part ≠ part := by
  induction ds generalizing s with
  | nil => exact ⟨.refl s, fun e he => by cases he⟩
  | cons d ds ih =>
    obtain ⟨first, gone⟩ := State.flushDie_gone (part := part) (hr d (List.mem_cons_self ..))
    obtain ⟨hs, hg⟩ := ih _ fun e he => (first e).1 (hr e (List.mem_cons_of_mem _ he))
    refine ⟨first.trans hs, fun e he x hx => ?_⟩
    rcases List.mem_cons.1 he with rfl | he
    · exact gone x ((hs e).2 x hx)
    · exact hg e he x hx

theorem State.homesOnly_flushSlices (s : State) (part : Nat) : HomesOnly s (s.flushSlices part) :=
  foldl_related HomesOnly.refl HomesOnly.trans (fun u d =>
    foldl_related HomesOnly.refl HomesOnly.trans (fun w (l : Nat × L2Line) => w.homesOnly_l2Evict d l.1) _ u) _ s

theorem State.modLease_eq {s : State} {n : Nat} {l : Lease} (f : Lease → Lease) (h : tfind s.leases n = some l) :
    s.modLease n f = { s with leases := tset s.leases n (f l) } := by
  rw [State.modLease, h]

theorem State.modLease_frame (s : State) (n : Nat) (f : Lease → Lease) :
    (s.modLease n f).parts = s.parts ∧ (s.modLease n f).dies = s.dies ∧ (s.modLease n f).ends = s.ends := by
  unfold State.modLease
  split <;> exact ⟨rfl, rfl, rfl⟩

/-- Entries of one number that join leave its lease pinned. -/
theorem State.join_foldl {n : Nat} {l : Lease} (js : List (Nat × Lease)) (hn : ∀ j, j ∈ js → j.1 = n) (s : State)
    (h : tfind s.leases n = some l.pin) : tfind (js.foldl (fun s p => s.modLease p.1 Lease.pin) s).leases n = some l.pin := by
  induction js generalizing s with
  | nil => exact h
  | cons j js ih =>
    refine ih (fun k hk => hn k (List.mem_cons_of_mem _ hk)) _ ?_
    have same := hn j (List.mem_cons_self ..)
    dsimp only
    rw [same, State.modLease_eq _ h]
    exact tfind_tset_self ..

/-- A lease that joins is pinned. -/
theorem State.join_pins {n : Nat} {l : Lease} {js : List (Nat × Lease)} (hne : js ≠ []) (hn : ∀ j, j ∈ js → j.1 = n) (s : State)
    (h : tfind s.leases n = some l) : tfind (js.foldl (fun s p => s.modLease p.1 Lease.pin) s).leases n = some l.pin := by
  cases js with
  | nil => exact absurd rfl hne
  | cons j js =>
    refine State.join_foldl js (fun k hk => hn k (List.mem_cons_of_mem _ hk)) _ ?_
    have same := hn j (List.mem_cons_self ..)
    dsimp only
    rw [same, State.modLease_eq _ h]
    exact tfind_tset_self ..

theorem State.join_frame (js : List (Nat × Lease)) (s : State) :
    (js.foldl (fun s p => s.modLease p.1 Lease.pin) s).parts = s.parts ∧ (js.foldl (fun s p => s.modLease p.1 Lease.pin) s).dies = s.dies ∧
      (js.foldl (fun s p => s.modLease p.1 Lease.pin) s).ends = s.ends := by
  induction js generalizing s with
  | nil => exact ⟨rfl, rfl, rfl⟩
  | cons j js ih =>
    obtain ⟨hp, hd, he⟩ := s.modLease_frame j.1 Lease.pin
    obtain ⟨kp, kd, ke⟩ := ih (s.modLease j.1 Lease.pin)
    exact ⟨kp.trans hp, kd.trans hd, ke.trans he⟩

/-- A slice that waits joins S, and the partition's lines leave every L2. -/
theorem exec_quiescePoint_joins {s : State} {part n k : Nat} {l : Lease} (hr : s.partResident part = false) (hw : s.partWork part = false)
    (hk : s.NothingKept) (hm : (s.part part).moves = []) (hh : (s.part part).heldHost = []) (hf : tfind s.leases n = some l)
    (ho : l.obj = .slice part k) (ha : l.alive = true) (hp : l.pinned = false)
    (hl : ∀ m, m ∈ s.leases → m.2.st ≠ .lapsing ∧ (m.1 ≠ n → m.2.pinned = true))
    (h2 : ∀ e, e < 4 → risesFrom 0 (s.die e).l2 = true) :
    ∃ t, exec (.quiescePoint part) s = .next t ∧ tfind t.leases n = some l.pin ∧
      ∀ e, e < 4 → ∀ x, x ∈ (t.die e).l2 → x.2.part ≠ part := by
  have mine : (n, l) ∈ s.joins part := List.mem_filter.2 ⟨mem_of_tfind hf, by simp [ho, ha, hp]⟩
  have only : ∀ j, j ∈ s.joins part → j.1 = n := by
    intro j hj
    obtain ⟨hjm, hjw⟩ := List.mem_filter.1 hj
    by_contra hne
    simp [(hl j hjm).2 hne] at hjw
  have staying := State.leaves_eq_nil part fun m h => (hl m h).1
  have due : s.quiesceDue part = true := by
    by_contra h
    rw [(State.notDue (Bool.eq_false_of_not_eq_true h)).2.1] at mine
    cases mine
  have joining : s.joins part ≠ [] := List.ne_nil_of_mem mine
  have change := State.changeMembers_joins joining staying
  obtain ⟨fp, fl, -, fe⟩ := (s.homesOnly_flushSlices part).frame
  obtain ⟨jp, jd, je⟩ := State.join_frame (s.joins part) (s.flushSlices part)
  have parts : (s.changeMembers part).parts = s.parts := by rw [change, jp, fp]
  have ends : (s.changeMembers part).ends = s.ends := by rw [change, je, fe]
  have dies : (s.changeMembers part).dies = (s.flushSlices part).dies := by rw [change, jd]
  have stays : ((s.changeMembers part).part part).moves = [] := by rw [State.part_congr parts, hm]
  have held : (((s.changeMembers part).modPart part fun q => { q with moves := [] }).part part).heldHost = [] := by
    rw [State.part_modPart_self, State.part_congr parts]; exact hh
  have kept : ((s.changeMembers part).modPart part fun q => { q with moves := [] }).NothingKept := fun e h => hk e (ends ▸ h)
  refine ⟨_, exec_quiescePoint_ends hr (.inl due) hw, ?_, ?_⟩
  · rw [State.quiesce_eq, stays, List.foldl_nil, State.releaseHeld_nothing held kept, State.modPart_leases, State.modPart_leases, change]
    exact State.join_pins joining only _ ((congrArg (tfind · n) fl).trans hf)
  · intro e he
    rw [State.quiesce_eq, stays, List.foldl_nil, State.releaseHeld_nothing held kept, State.die_congr (State.modPart_dies ..),
      State.die_congr (State.modPart_dies ..), State.die_congr dies]
    exact (State.flushSlices_gone (List.range Config.dies) s fun d hd => h2 d (List.mem_range.1 hd)).2 e (List.mem_range.2 he)

/-! ## A quiesce point with one page move (R337, R338) -/

/-- A quiesce point at which one page move is all there is to do. -/
structure State.MovesOne (s : State) (part r dom : Nat) : Prop where
  away    : s.partResident part = false
  retired : s.partWork part = false
  kept    : s.NothingKept
  held    : (s.part part).heldHost = []
  members : ∀ l, l ∈ s.leases → l.2.st ≠ .lapsing ∧ (l.2.alive = true → l.2.pinned = true)
  moves   : (s.part part).moves = [(r, dom)]

/-- The state in which the move is made: the request is taken off the queue. -/
def State.moving (s : State) (part : Nat) : State := s.modPart part fun q => { q with moves := [] }

theorem State.regionHome_moving (s : State) (part r : Nat) : (s.moving part).regionHome part r = s.regionHome part r := by
  rw [State.regionHome, State.moving, State.part_modPart_self]
  rfl

section
variable {s : State} {part r dom : Nat} (m : s.MovesOne part r dom)
include m

theorem State.MovesOne.exec_eq : exec (.quiescePoint part) s = .next (((s.moving part).moveRegion part r dom).releaseHeld part) :=
  exec_quiescePoint_move m.away m.retired m.members m.moves

theorem State.MovesOne.held_moving : ((s.moving part).part part).heldHost = [] := by
  rw [State.moving, State.part_modPart_self]
  exact m.held

/-- A move that asks for the home that the region has. -/
theorem State.MovesOne.same (h : s.regionHome part r = some dom) :
    SetsPart (.quiescePoint part) s part { s.part part with moves := [], quiescing := false } := by
  have e := m.exec_eq
  rw [State.moveRegion_same ((s.regionHome_moving part r).trans h), State.releaseHeld_nothing m.held_moving m.kept, State.moving, State.modPart_modPart] at e
  exact setsPart_of_modPart e (Part.released_eq (q := { s.part part with moves := [] }) m.held)

/-- A move that is refused. -/
theorem State.MovesOne.refused (h : (s.moving part).moveRegion part r dom = (s.moving part).refuseMove part) :
    SetsPart (.quiescePoint part) s part { s.part part with moves := [], quiescing := false, moveRefd := true } := by
  have e := m.exec_eq
  have held : (((s.moving part).refuseMove part).part part).heldHost = [] := by
    rw [State.refuseMove, State.part_modPart_self]
    exact m.held_moving
  rw [h, State.releaseHeld_nothing held m.kept, State.refuseMove, State.modPart_modPart, State.moving, State.modPart_modPart] at e
  exact setsPart_of_modPart e (Part.released_eq (q := { s.part part with moves := [], moveRefd := true }) m.held)

/-- A move that is made: the pages are where the walk has put them, and the region has its new home. -/
theorem State.MovesOne.made {h : Nat} (hh : s.regionHome part r = some h) (hne : h ≠ dom) (hg : s.groupsOf part (dieOfDom dom) ≠ [])
    (hs : s.slicesOf part dom ≠ []) {t : State}
    (ht : ((s.moving part).flushPages part (s.pagesOf part r)).movePages dom (s.pagesOf part r) = (t, true))
    (hp : t.parts = (s.moving part).parts) (he : t.ends = s.ends) :
    ∃ w, exec (.quiescePoint part) s = .next w ∧ tfind (w.part part).regions r = some dom ∧ (w.part part).moves = [] ∧
      (w.part part).moveRefd = (s.part part).moveRefd ∧ w.pages = t.pages := by
  have made := State.moveRegion_made (s := s.moving part) ((s.regionHome_moving part r).trans hh) hne hg hs ht
  obtain ⟨after, pages⟩ := State.releaseHeld_moved (r := r) (dom := dom) (t := t) hp he m.held_moving m.kept
  refine ⟨_, m.exec_eq, ?_, ?_, ?_, ?_⟩
  · rw [made, after]
    exact tfind_tset_self ..
  · rw [made, after, State.moving, State.part_modPart_self]
  · rw [made, after, State.moving, State.part_modPart_self]
  · rw [made, pages]

/-- A region without pages moves. -/
theorem State.MovesOne.made_empty {h : Nat} (hh : s.regionHome part r = some h) (hne : h ≠ dom) (hg : s.groupsOf part (dieOfDom dom) ≠ [])
    (hs : s.slicesOf part dom ≠ []) (ha : s.pagesOf part r = []) :
    ∃ w, exec (.quiescePoint part) s = .next w ∧ tfind (w.part part).regions r = some dom ∧ (w.part part).moves = [] ∧
      (w.part part).moveRefd = (s.part part).moveRefd ∧ w.pages = s.pages := by
  obtain ⟨fp, -, fg, fe⟩ := ((s.moving part).cachesOnly_flushPages part []).frame
  obtain ⟨w, e, regions, moves, refd, pages⟩ := m.made hh hne hg hs (t := (s.moving part).flushPages part []) (by rw [ha]; rfl) fp fe
  exact ⟨w, e, regions, moves, refd, pages.trans fg⟩

/-- A region of one page moves with it. -/
theorem State.MovesOne.made_page {h g f : Nat} {a : Page} (hh : s.regionHome part r = some h) (hne : h ≠ dom)
    (hg : s.groupsOf part (dieOfDom dom) ≠ []) (hs : s.slicesOf part dom ≠ []) (ha : s.pagesOf part r = [a])
    (hf : ((s.moving part).flushPages part [a]).placeFrame part dom (a.va / 0x20_0000) a.big = some (g, f)) :
    ∃ w, exec (.quiescePoint part) s = .next w ∧ tfind (w.part part).regions r = some dom ∧ (w.part part).moves = [] ∧
      (w.part part).moveRefd = (s.part part).moveRefd ∧
      { a with dom := dom, cg := g, die := dieOfDom dom, frame := f } ∈ w.pages := by
  have mem : a ∈ s.pagesOf part r := ha ▸ List.mem_singleton_self a
  obtain ⟨listed, mine⟩ := List.mem_filter.1 mem
  simp only [Bool.and_eq_true, decide_eq_true_eq] at mine
  obtain ⟨⟨rfl, -⟩, -⟩ := mine
  obtain ⟨fp, -, fg, fe⟩ := ((s.moving a.part).cachesOnly_flushPages a.part [a]).frame
  obtain ⟨mp, me, mg⟩ := ((s.moving a.part).flushPages a.part [a]).movePage_frame a dom g f
  obtain ⟨w, e, regions, moves, refd, pages⟩ := m.made hh hne hg hs (by rw [ha, State.movePages_one hf]) (mp.trans fp) (me.trans fe)
  refine ⟨w, e, regions, moves, refd, ?_⟩
  rw [pages, mg, fg]
  exact List.mem_map.2 ⟨a, listed, a.movedWith_self dom g f⟩

end

end Sys2Proof.Machine
end

section
open Sys2Proof Sys2Proof.Machine

/-- Settles O52, clause by clause from the rules on registers, quiesce points, the command port and retirement. -/
theorem partitionCommands : Obligations.PartitionCommands := by
  unfold Obligations.PartitionCommands
  intro die part res off chan bank row op v s d p nat dieSet partSet
  refine ⟨?registers, ?heldInReset, ?noHouse, ?management, ?idle, ?waits, ?ends, ?commands, ?words, ?reserved, ?reservedBusy,
    ?applied, ?appliedWaits, ?retirement⟩
  case registers =>
    intro hp hf w w1
    have write (k : Nat) : exec (w k) s = .next (s.writeFunction part k v) := exec_registerWrite_function k v hp hf
    have queue (r o : Nat) (hr : r < 4) (ho : o < 0x100) := s.readFunction_queue part hr ho
    have save (r o : Nat) (hr : r < 4) (ho : o < 0x20) := s.readFunction_save part hr ho
    refine ⟨fun r hr => ⟨?_, ?_⟩, ?_, ?_, ?_, ?_, rfl, rfl, rfl, rfl, rfl, rfl, rfl, fun r hr => ?_, ?_⟩
    · exact setsPdie_of_modPdie ((write _).trans (congrArg _ (s.writeFunction_queue part v hr)))
    · exact setsPdie_of_modPdie ((write _).trans (congrArg _ (s.writeFunction_save part v hr)))
    · exact setsPart_of_modPart ((write _).trans (congrArg _ (s.writeFunction_fqhead part v))) rfl
    · exact setsPart_of_modPart ((write _).trans (congrArg _ (s.writeFunction_pmst part v))) rfl
    · exact setsPart_of_modPart ((write _).trans (congrArg _ (s.writeFunction_ptvec part v))) rfl
    · exact setsPart_of_modPart ((write _).trans (congrArg _ (s.writeFunction_window part v))) rfl
    · refine ⟨queue r 0 hr (by omega), queue r 8 hr (by omega), queue r 0x10 hr (by omega), queue r 0x18 hr (by omega),
        save r 0 hr (by omega), ?_⟩
      rw [show 0x408 + 0x20 * r = 0x400 + 0x20 * r + 8 by omega]
      exact save r 8 hr (by omega)
    · exact exec_pmoveWrite v hp hf
  case heldInReset =>
    exact fun hf => ⟨exec_registerWrite_flr off v hf, if_pos (.inr (Option.isSome_iff_ne_none.2 hf))⟩
  case noHouse =>
    intro hh
    refine exec_registerWrite_noFirmware off v (Bool.eq_false_of_not_eq_true fun hf => ?_)
    exact ((s.firmware_iff die).1 hf).1 hh
  case management =>
    intro hd
    refine ⟨fun hh => ?_, fun k hk => s.readManagement_key die hk, rfl, rfl, rfl, s.readPhysical_errors die hd⟩
    have hf : s.firmware die = true := (s.firmware_iff die).2 ⟨hh, hd⟩
    have write (k : Nat) := exec_registerWrite_management k v hf
    refine ⟨?_, fun k hk => ?_, fun hp => ?_, s.exec_registerWrite_debug die v hf⟩
    · exact setsDie_of_modDie ((write _).trans (congrArg _ (s.writeManagement_ptarg die v))) rfl
    · exact setsDie_of_modDie ((write _).trans (congrArg _ (s.writeManagement_key die v hk))) rfl
    · rw [write, s.writeManagement_policy die v hp, exec_mqpolWrite v hf hp]
  case idle => exact exec_quiescePoint_idle
  case waits => exact fun hr hd hw => setsPart_of_modPart (exec_quiescePoint_waits hr hd hw) rfl
  case ends =>
    intro hr hw hk
    refine ⟨?_, ?_, fun hm hh n l k hf ho ha hp hl h2 => ?_⟩
    · intro x o hq hd hh u
      obtain ⟨e, hrel⟩ := exec_quiescePoint_serves hr hw hk hq hd hh
      exact ⟨_, e, rfl, rfl, congrArg Part.quiescing hrel, congrArg Part.heldHost hrel⟩
    · intro hh hl r dom hm u w after
      have one : s.MovesOne part r dom := ⟨hr, hw, hk, hh, hl, hm⟩
      have home := s.regionHome_moving part r
      refine ⟨fun h => one.refused (State.moveRegion_unmapped (home.trans h)), fun h => one.same h,
        fun h hh hne href => one.refused (State.moveRegion_refused (home.trans hh) hne href), fun h hh hne hg hs => ⟨fun ha => ?_, ?_⟩⟩
      · obtain ⟨t, e, regions, moves, refd, pages⟩ := one.made_empty hh hne hg hs ha
        exact ⟨t, e, regions, moves, refd, pages⟩
      · intro a g f ha hf
        obtain ⟨t, e, regions, moves, refd, pages⟩ := one.made_page hh hne hg hs ha (by rw [← ha]; exact hf)
        exact ⟨t, e, moves, refd, regions, pages⟩
    · exact exec_quiescePoint_joins hr hw hk hm hh hf ho ha hp hl h2
  case commands =>
    intro a cmds free code c hc o rooted mine copies held ours failed
    obtain ⟨bad, badArg, cmd, hbad, hbadArg, hchan⟩ := State.isCommand_of_mem hc
    have uncal := s.uncalibrated_iff hchan
    refine ⟨cmd.ignored, fun hf hl => cmd.refuses hf (State.ptcode_life hl) (by decide), fun hf hl h => ?_, fun hf hl hb hp hr => ?_⟩
    · rw [← hbad, ← hbadArg] at h
      exact cmd.refuses hf (State.ptcode_malformed hl h) (by decide)
    have inRange (h : ¬ c.2.2.2) : badArg = false := Bool.eq_false_of_not_eq_true (mt hbadArg.1 h)
    have well (h : badArg = false ∨ s.Ours die part o) : s.WellFormed die part o bad badArg :=
      ⟨hl, Bool.eq_false_of_not_eq_true (mt hbad.1 hb), hp, hr, h⟩
    refine ⟨fun hg ho hs => ?_, fun hg ho hs hc => ?_, fun hg ho hs hc hn => ?_, fun hg hc hs hx => ?_, fun hg hc hs hx hrise => ?_,
      fun n l hm hal hpart hs => ?_⟩
    · exact cmd.refuses hf (State.ptcode_scrub (well (.inl (inRange hg))) ho hs) (by decide)
    · exact cmd.refuses hf (State.ptcode_elsewhere (well (.inl (inRange hg))) ho hs hc) (by decide)
    · exact cmd.refuses hf (State.ptcode_taken (well (.inl (inRange hg))) ho hs hc hn) (by decide)
    · have e := State.ptcode_unheld (well (.inl (inRange hg))) hf.2.2.1 hs hc
      rw [if_pos (uncal.2 hx)] at e
      exact cmd.refuses hf e (by decide)
    · have e := State.ptcode_unheld (well (.inl (inRange hg))) hf.2.2.1 hs hc
      rw [if_neg (mt uncal.1 hx)] at e
      obtain ⟨t, ht, hd, hcopies, hkeys⟩ := cmd.granted hf e hrise
      refine ⟨t, ht, congrArg Die.ptbusy hd, congrArg Die.ptcode hd, fun e he => ?_, fun k hk e b he hb => ?_⟩
      · obtain ⟨n, l, hn, g⟩ := hcopies e he
        exact ⟨n, l, hn, g.home, g.obj, g.alive, g.expiry, g.part, g.gen, g.first, g.again⟩
      · rw [hkeys k hk e he]
        exact (s.die die).keyPair_dword hb
    · have mine : s.Ours die part o := ⟨n, l, hm, hal, hpart⟩
      obtain ⟨t, ht, hd, hleases, hext⟩ := cmd.renewed hf (State.ptcode_renews (well (.inr mine)) mine hs) hm
      exact ⟨t, ht, congrArg Die.ptbusy hd, congrArg Die.ptcode hd, hleases, hext⟩
  case words =>
    intro f q r writes
    have fits : f 0 4 < 16 := Nat.mod_lt _ (by decide)
    have op : (BitVec.ofNat 4 (f 0 4)).toNat = f 0 4 := by rw [BitVec.toNat_ofNat]; exact Nat.mod_eq_of_lt fits
    refine ⟨fun h hr => ?_, fun h hr hrdy hh hd hb => ?_, fun k i hki h => ?_, fun h => ?_, exec_registerWrite_rtcmd s die v⟩
    · exact (exec_registerWrite_ptcmd s die h).trans (congrArg (fun m => Host.Outcome.next (s.portCommand die 0 q m)) hr)
    · exact exec_registerWrite_ptcmd_root h hr ⟨hrdy, hh, hd, hb⟩
    · simp only [List.mem_cons, Prod.mk.injEq, List.not_mem_nil, or_false] at hki
      obtain ⟨rfl, rfl⟩ | ⟨rfl, rfl⟩ | ⟨rfl, rfl⟩ | ⟨rfl, rfl⟩ | ⟨rfl, rfl⟩ := hki <;> exact exec_registerWrite_ptcmd s die h
    · exact (exec_registerWrite_ptcmd s die op.symm).trans (exec_ptcmdReservedOp q r (by rw [op]; exact h)).symm
  case reserved =>
    intro ho hr hh hd hb
    refine setsDie_of_modDie ((exec_ptcmdReservedOp 0 0 ho).trans (congrArg _ (State.portCommand_reserved 0 0 ho ⟨hr, hh, hd, hb⟩))) rfl
  case reservedBusy =>
    intro h
    refine exec_ptcmdReservedOp_busy op fun ⟨hr, hh, _, hb⟩ => ?_
    rcases h with h | h | h
    · exact Bool.false_ne_true (h.symm.trans hr)
    · exact hh h
    · exact Bool.false_ne_true (hb.symm.trans h)
  case applied => exact fun hb hx => setsDie_of_modDie (exec_ptcmdApplied_done hb hx) rfl
  case appliedWaits => exact exec_ptcmdApplied_waits
  case retirement =>
    intro hd taken
    have free (hh : s.house ≠ 0) (hb : d.rtbusy = false) : s.RetireFree die := ⟨(s.firmware_iff die).2 ⟨hh, hd⟩, hb⟩
    have ring : s.ringTaken row = true ↔ taken := s.ringTaken_iff row
    refine ⟨fun h => exec_retire_busy chan bank row fun hf => ?_, fun hh hb => ⟨fun hm => ?_, fun hc hk hr => ⟨fun hu => ?_, fun hu => ?_⟩,
      fun hr => ?_, fun hr => ⟨fun ht => ?_, fun ht hm => ?_, fun ht hm => ?_⟩⟩, ?_⟩
    · rcases h with h | h
      · exact ((s.firmware_iff die).1 hf.1).1 h
      · exact Bool.false_ne_true (hf.2.symm.trans h)
    · have e := exec_retireDramRow chan bank row (free hh hb)
      rw [if_pos hm] at e
      exact setsDie_of_modDie e rfl
    · have e := exec_retireDramRow chan bank row (free hh hb)
      rw [if_neg (by omega), if_pos hu] at e
      exact setsDie_of_modDie e rfl
    · have e := exec_retireDramRow chan bank row (free hh hb)
      rw [if_neg (by omega), if_neg (Nat.not_le.2 hu)] at e
      exact setsDie_of_modDie e rfl
    · have e := exec_retireRing row (free hh hb)
      rw [if_pos (.inr hr)] at e
      exact setsDie_of_modDie e rfl
    · have e := exec_retireRing row (free hh hb)
      rw [if_neg (by omega), if_pos (ring.2 ht)] at e
      exact setsDie_of_modDie e rfl
    · have e := exec_retireRing row (free hh hb)
      rw [if_neg (by omega), if_neg (mt ring.1 ht), if_pos] at e
      · exact setsDie_of_modDie e rfl
      · simpa only [List.any_eq_true, decide_eq_true_eq] using hm
    · exact exec_retireRing_maps (free hh hb) hd hr (Bool.eq_false_of_not_eq_true (mt ring.1 ht)) hm
    · exact exec_retirementDone s die
end

section
/-! PROOFS. Privilege levels: what an invariant of every step says, and its rules for contexts, queue entries and the ways a
computation ends. -/

set_option Elab.async false

namespace Sys2Proof.Machine

/-! ## What is kept -/

/-- The levels of a context, and of its trap registers, are legal. -/
def Ctx.PlLegal (c : Ctx) : Prop := c.plOk = true

/-- The level of a queue entry is legal. -/
def Entry.PlLegal (e : Entry) : Prop := e.pl ≠ 3

/-- Every level of a context, of its trap registers or of a queue entry is legal. -/
def State.PlLegal (s : State) : Prop := (∀ p, p ∈ s.ctxs → p.2.PlLegal) ∧ ∀ p, p ∈ s.entries → p.2.PlLegal

/-- The next state of a meaning, where there is one, is legal. -/
def PlNext : Host.Outcome State Fault Refusal → Prop
  | .next t => t.PlLegal
  | _ => True

/-- A computation that may end early gives a value that satisfies `P`, or ends in one that satisfies `E`. -/
def Ends {ε α : Type} (E : ε → Prop) (P : α → Prop) : Except ε α → Prop
  | .ok a => P a
  | .error e => E e

/-- An attempt goes on with what satisfies `P`, or ends in a legal state. -/
abbrev PlTries {α : Type} (P : α → Prop) (r : Attempt α) : Prop := Ends State.PlLegal P r

/-- An access that is not refused gives what satisfies `P`. -/
abbrev PlGives {α : Type} (P : α → Prop) (r : Except Byte α) : Prop := Ends (fun _ => True) P r

/-- The state of an optional result, where there is one, is legal. -/
def PlSome : Option State → Prop
  | some t => t.PlLegal
  | none => True

section
variable {s t : State} {c d : Ctx} {ε α β : Type} {E : ε → Prop} {P : α → Prop} {Q : β → Prop}

theorem Ctx.plLegal_iff : c.PlLegal ↔ c.pl ≠ 3 ∧ c.t1.pl ≠ 3 ∧ c.t2.pl ≠ 3 := by
  simp [Ctx.PlLegal, Ctx.plOk, and_assoc]

theorem Ctx.PlLegal.same (h : c.PlLegal) (hp : d.pl = c.pl := by rfl) (h1 : d.t1 = c.t1 := by rfl) (h2 : d.t2 = c.t2 := by rfl) :
    d.PlLegal := by
  rw [Ctx.plLegal_iff] at *
  rwa [hp, h1, h2]

theorem Ctx.PlLegal.ite {p : Prop} [Decidable p] (h : c.PlLegal) (k : d.PlLegal) : (if p then c else d).PlLegal := by
  split
  · exact h
  · exact k

theorem Entry.PlLegal.same {e f : Entry} (h : e.PlLegal) (hp : f.pl = e.pl := by rfl) : f.PlLegal := by
  rwa [Entry.PlLegal, hp]

theorem Ctx.PlLegal.default : ({} : Ctx).PlLegal := rfl

/-- The same contexts and entries. -/
theorem State.PlLegal.same (h : s.PlLegal) (hc : t.ctxs = s.ctxs := by rfl) (he : t.entries = s.entries := by rfl) : t.PlLegal := by
  rw [State.PlLegal, hc, he]
  exact h

theorem State.PlLegal.ite {p : Prop} [Decidable p] (h : s.PlLegal) (k : t.PlLegal) : (if p then s else t).PlLegal := by
  split
  · exact h
  · exact k

theorem State.PlLegal.foldl {f : State → α → State} (h : s.PlLegal) (hf : ∀ t x, t.PlLegal → (f t x).PlLegal) (l : List α) :
    (l.foldl f s).PlLegal := by
  induction l generalizing s with
  | nil => exact h
  | cons x l ih => exact ih (hf s x h)

theorem State.PlLegal.fst {x : α} {p : State × α} (h : p.1.PlLegal) (e : p = (t, x)) : t.PlLegal := by rwa [e] at h
theorem State.PlLegal.snd {x : α} {p : α × State} (h : p.2.PlLegal) (e : p = (x, t)) : t.PlLegal := by rwa [e] at h
theorem State.PlLegal.next (h : s.PlLegal) : PlNext (.next s) := h

theorem PlSome.some {o : Option State} (h : PlSome o) (e : o = .some t) : t.PlLegal := by rwa [e] at h

theorem PlNext.ite {a b : Host.Outcome State Fault Refusal} {p : Prop} [Decidable p] (h : PlNext a) (k : PlNext b) :
    PlNext (if p then a else b) := by
  split
  · exact h
  · exact k

theorem Ends.ite {a b : Except ε α} {p : Prop} [Decidable p] (h : Ends E P a) (k : Ends E P b) : Ends E P (if p then a else b) := by
  split
  · exact h
  · exact k

theorem Ends.any (r : Except Byte α) : PlGives (fun _ => True) r := by
  cases r <;> trivial

theorem Ends.pure {a : α} (h : P a) : Ends E P (.ok a) := h
theorem Ends.ok {r : Except ε α} {a : α} (h : Ends E P r) (e : r = .ok a) : P a := by rwa [e] at h
theorem Ends.stop {e : ε} (h : E e) : Ends E P (.error e) := h
theorem Ends.of_ok {r : Except ε α} {a : α} (e : r = .ok a) (h : Ends E P r) : P a := h.ok e
theorem Ends.error {r : Except ε α} {a : ε} (h : Ends E P r) (e : r = .error a) : E a := by rwa [e] at h

theorem Ends.bind {r : Except ε α} {f : α → Except ε β} (h : Ends E P r) (hf : ∀ a, P a → Ends E Q (f a)) : Ends E Q (r >>= f) := by
  cases r with
  | ok a => exact hf a h
  | error e => exact h

theorem Ends.map {r : Except ε α} {g : α → β} (h : Ends E P r) (hg : ∀ a, P a → Q (g a)) : Ends E Q (r.map g) := by
  cases r with
  | ok a => exact hg a h
  | error e => exact h

/-- A computation that never goes on. -/
theorem Ends.halt {r : Except ε α} {f : α → Except ε β} (h : Ends E (fun _ => False) r) : Ends E Q (r >>= f) :=
  h.bind fun _ => False.elim

theorem Ends.conclude {r : Attempt State} (h : PlTries State.PlLegal r) : PlNext (conclude r) := by
  cases r with
  | ok a => exact h
  | error a => exact h

/-! ## Contexts and entries of a legal state -/

theorem mem_tset {t : Table α} {k : Nat} {v : α} {p : Nat × α} (h : p ∈ tset t k v) : p = (k, v) ∨ p ∈ t := by
  induction t with
  | nil => simpa [tset] using h
  | cons q t ih =>
    obtain ⟨j, w⟩ := q
    simp only [tset] at h
    split at h
    · simpa using h
    · split at h <;> grind

theorem State.PlLegal.find {k : Nat} (h : s.PlLegal) (e : tfind s.ctxs k = some c) : c.PlLegal := by
  exact h.1 _ (mem_of_tfind e)

theorem State.PlLegal.entry {k : Nat} {e : Entry} (h : s.PlLegal) (he : tfind s.entries k = some e) : e.PlLegal := by
  exact h.2 _ (mem_of_tfind he)

theorem State.PlLegal.ctx (h : s.PlLegal) (i : Nat) : (s.ctx i).PlLegal := by
  unfold State.ctx tget
  cases e : tfind s.ctxs i with
  | none => exact Ctx.PlLegal.default
  | some c => exact h.find e

theorem State.PlLegal.self (h : s.PlLegal) : s.self.PlLegal := h.ctx _

/-! ## Changes of contexts and entries -/

theorem State.PlLegal.setCtx (h : s.PlLegal) (hc : c.PlLegal) {i} : (s.setCtx i c).PlLegal := by
  refine ⟨fun p hp => ?_, h.2⟩
  rcases mem_tset hp with e | hp
  · rw [e]; exact hc
  · exact h.1 p hp

theorem State.PlLegal.modCtx (h : s.PlLegal) {i f} (hf : ∀ c : Ctx, c.PlLegal → (f c).PlLegal) : (s.modCtx i f).PlLegal :=
  h.setCtx (hf _ (h.ctx i))

theorem State.PlLegal.mod (h : s.PlLegal) {f} (hf : ∀ c : Ctx, c.PlLegal → (f c).PlLegal) : (s.mod f).PlLegal := h.modCtx hf

/-- The contexts are changed one by one. -/
theorem State.PlLegal.mapCtxs (h : s.PlLegal) {f : Nat × Ctx → Nat × Ctx} (hc : t.ctxs = s.ctxs.map f) (he : t.entries = s.entries)
    (hf : ∀ p, p.2.PlLegal → (f p).2.PlLegal) : t.PlLegal := by
  rw [State.PlLegal, hc, he]
  refine ⟨fun p hp => ?_, h.2⟩
  obtain ⟨q, hq, rfl⟩ := List.mem_map.1 hp
  exact hf q (h.1 q hq)

/-- The entries are changed one by one. -/
theorem State.PlLegal.mapEntries (h : s.PlLegal) {f : Nat × Entry → Nat × Entry} (hc : t.ctxs = s.ctxs)
    (he : t.entries = s.entries.map f)
    (hf : ∀ p, p.2.PlLegal → (f p).2.PlLegal) : t.PlLegal := by
  rw [State.PlLegal, hc, he]
  refine ⟨h.1, fun p hp => ?_⟩
  obtain ⟨q, hq, rfl⟩ := List.mem_map.1 hp
  exact hf q (h.2 q hq)

theorem State.PlLegal.setEntry (h : s.PlLegal) {n : Nat} {e : Entry} (k : e.PlLegal) :
    ({ s with entries := tset s.entries n e } : State).PlLegal := by
  refine ⟨h.1, fun p hp => ?_⟩
  rcases mem_tset hp with e' | hp
  · rw [e']; exact k
  · exact h.2 p hp

theorem State.PlLegal.delCtx (h : s.PlLegal) {n : Nat} (hc : t.ctxs = tdel s.ctxs n := by rfl) (he : t.entries = s.entries := by rfl) :
    t.PlLegal := by
  rw [State.PlLegal, hc, he]
  exact ⟨fun p hp => h.1 p (mem_of_mem_tdel hp), h.2⟩

theorem State.PlLegal.modEntry (h : s.PlLegal) {n f} (hf : ∀ e : Entry, e.PlLegal → (f e).PlLegal) : (s.modEntry n f).PlLegal := by
  unfold State.modEntry
  split
  · exact h.setEntry (hf _ (h.entry ‹_›))
  · exact h

/-! ## What changes of a context's registers and state leave its levels -/

theorem Ctx.PlLegal.setX (k : c.PlLegal) {r v} : (c.setX r v).PlLegal := by
  unfold Ctx.setX
  split
  · exact k
  · exact k.same

theorem Ctx.PlLegal.setP (k : c.PlLegal) {r v} : (c.setP r v).PlLegal := by
  unfold Ctx.setP
  split
  · exact k
  · exact k.same

theorem Ctx.PlLegal.setV (k : c.PlLegal) {r v} : (c.setV r v).PlLegal := k.same
theorem Ctx.PlLegal.setC (k : c.PlLegal) {r v} : (c.setC r v).PlLegal := k.same
theorem Ctx.PlLegal.settle (k : c.PlLegal) {now} : (c.settle now).PlLegal := k.same
theorem Ctx.PlLegal.toSlot (k : c.PlLegal) : c.toSlot.PlLegal := k.same
theorem Ctx.PlLegal.dropLanes (k : c.PlLegal) {pc} : (c.dropLanes pc).PlLegal := k.same
theorem Ctx.PlLegal.enterTrap (k : c.PlLegal) {t} : (c.enterTrap t).PlLegal := c.plOk_enterTrap t k

theorem Ctx.PlLegal.countIssue (k : c.PlLegal) {n} : (c.countIssue n).PlLegal := by
  unfold Ctx.countIssue
  split
  · exact k.ite k.same
  · exact k

theorem Ctx.PlLegal.bumpPst (k : c.PlLegal) {cls up} : (c.bumpPst cls up).PlLegal := by
  unfold Ctx.bumpPst
  dsimp only
  split <;> exact k.same

theorem zero_ne_three : (0 : BitVec 2) ≠ 3 := by decide

/-- A sibling has the level of the thread that spawns it, and trap registers at level 0 (01 R16; 04 R85). -/
theorem Ctx.PlLegal.sibling (k : c.PlLegal) {slot pc arg bud dl now} : (c.sibling slot pc arg bud dl now).PlLegal := by
  rw [Ctx.plLegal_iff] at *
  exact ⟨k.1, zero_ne_three, zero_ne_three⟩

/-- A write of `etsw.pl` with 0b11 keeps the field (17 R327). -/
theorem TrapRegs.write_pl {t : TrapRegs} (h : t.pl ≠ 3) (k : Nat) (v : Word) : (t.write k v).pl ≠ 3 := by
  unfold TrapRegs.write
  split
  · exact h
  · split
    · exact h
    · rename_i hv
      intro e
      have low : v.toNat % 2 ^ 2 = 3 := congrArg BitVec.toNat e
      exact hv (BitVec.eq_of_toNat_eq ((Nat.and_two_pow_sub_one_eq_mod v.toNat 2).trans low))
  · exact h
  · exact h

theorem Ctx.PlLegal.writeT1 (k : c.PlLegal) {n v} : ({ c with t1 := c.t1.write n v } : Ctx).PlLegal := by
  rw [Ctx.plLegal_iff] at *
  exact ⟨k.1, TrapRegs.write_pl k.2.1 _ _, k.2.2⟩

theorem Ctx.PlLegal.writeT2 (k : c.PlLegal) {n v} : ({ c with t2 := c.t2.write n v } : Ctx).PlLegal := by
  rw [Ctx.plLegal_iff] at *
  exact ⟨k.1, k.2.1, TrapRegs.write_pl k.2.2 _ _⟩

theorem Ctx.PlLegal.writeCsr (k : c.PlLegal) {n v} : (c.writeCsr n v).PlLegal := by
  unfold Ctx.writeCsr
  split
  exacts [k.same, k.same, k.writeT1, k.writeT1, k.writeT1, k.writeT2, k.writeT2, k.writeT2, k]

/-- A new context of an entry has the entry's level (17 R326). -/
theorem Entry.PlLegal.freshCtx {e : Entry} (k : e.PlLegal) {n cell slot tix} : (s.freshCtx n e cell slot tix).PlLegal := by
  rw [Ctx.plLegal_iff]
  exact ⟨k, zero_ne_three, zero_ne_three⟩

end

end Sys2Proof.Machine
end

section
/-! PROOFS. Privilege levels: the operations on the state keep the levels legal (Sys2Proof/Machine/Ops.lean). -/

set_option Elab.async false

namespace Sys2Proof.Machine

section
variable {s t : State} {c : Ctx}

theorem State.PlLegal.modCell (h : s.PlLegal) {n f} : (s.modCell n f).PlLegal := h.same

theorem State.PlLegal.modDie (h : s.PlLegal) {n f} : (s.modDie n f).PlLegal := h.same

theorem State.PlLegal.modPart (h : s.PlLegal) {n f} : (s.modPart n f).PlLegal := h.same

theorem State.PlLegal.modPdie (h : s.PlLegal) {p d f} : (s.modPdie p d f).PlLegal := h.modPart

theorem State.PlLegal.modLease (h : s.PlLegal) {n f} : (s.modLease n f).PlLegal := by
  unfold State.modLease
  split
  · exact h.same
  · exact h

theorem State.PlLegal.modGroup (h : s.PlLegal) {n f} : (s.modGroup n f).PlLegal := by
  unfold State.modGroup
  split
  · exact h.same
  · exact h

theorem State.PlLegal.takeFresh (h : s.PlLegal) : s.takeFresh.2.PlLegal := h.same

theorem State.PlLegal.wx (h : s.PlLegal) {n} {r : BitVec n} {v} : (s.wx r v).PlLegal := h.mod fun _ k => k.setX

theorem State.PlLegal.wv (h : s.PlLegal) {n} {r : BitVec n} {v} : (s.wv r v).PlLegal := h.mod fun _ k => k.setV

theorem State.PlLegal.wp (h : s.PlLegal) {n} {r : BitVec n} {v} : (s.wp r v).PlLegal := h.mod fun _ k => k.setP

theorem State.PlLegal.wc (h : s.PlLegal) {n} {r : BitVec n} {v} : (s.wc r v).PlLegal := h.mod fun _ k => k.setC

theorem State.PlLegal.orFlags (h : s.PlLegal) {f} : (s.orFlags f).PlLegal := h.mod (fun _ k => k.same)

theorem State.PlLegal.finish (h : s.PlLegal) : s.finish.PlLegal := h.mod (fun _ k => k.same)

theorem State.PlLegal.finishAt (h : s.PlLegal) {t} : (s.finishAt t).PlLegal := h.mod (fun _ k => k.same)

theorem State.PlLegal.stall (h : s.PlLegal) {w} : (s.stall w).PlLegal := h.mod (fun _ k => k.same)

theorem State.PlLegal.park (h : s.PlLegal) {w} : (s.park w).PlLegal := h.mod (fun _ k => k.same)

theorem State.PlLegal.takeHold (h : s.PlLegal) : s.takeHold.2.PlLegal := by
  unfold State.takeHold
  split
  · exact h
  · exact h.same

theorem State.PlLegal.chargeRolled (h : s.PlLegal) {cell entry units rolled} : (s.chargeRolled cell entry units rolled).PlLegal := by
  unfold State.chargeRolled
  dsimp only
  split
  · exact h
  · exact h.modCell

theorem State.PlLegal.chargeCell (h : s.PlLegal) {cell entry units} : (s.chargeCell cell entry units).PlLegal := h.chargeRolled

theorem State.PlLegal.sendCharges (h : s.PlLegal) {cell entry} : (s.sendCharges cell entry).PlLegal := by
  unfold State.sendCharges
  dsimp only
  split
  · exact h.modCell.modDie
  · exact h

theorem State.PlLegal.chargeNow (h : s.PlLegal) {cell entry units rolled} : (s.chargeNow cell entry units rolled).PlLegal := by
  unfold State.chargeNow
  split
  · exact h
  · split
    · exact h.modDie
    · exact h

theorem State.PlLegal.report (h : s.PlLegal) {part d0 addr info _die' payload} : (s.report part d0 addr info _die' payload).PlLegal :=
  h.same

theorem State.PlLegal.reportCtx (h : s.PlLegal) {i code prec src addr info} : (s.reportCtx i code prec src addr info).PlLegal := by
  unfold State.reportCtx
  exact h.report

theorem State.PlLegal.wakeMsg (h : s.PlLegal) {ctx cls} : (s.wakeMsg ctx cls).PlLegal := by
  unfold State.wakeMsg
  dsimp only
  split
  · exact (h.setCtx (h.ctx _).same).ite h
  · exact h

theorem State.PlLegal.reportQFull (h : s.PlLegal) {part cell cls m} : (s.reportQFull part cell cls m).PlLegal := by
  unfold State.reportQFull
  exact h.report

theorem State.PlLegal.enqueueGen (h : s.PlLegal) {cell cls part m} : (s.enqueueGen cell cls part m).PlLegal := by
  unfold State.enqueueGen
  split
  · exact h.modCell
  · exact h.reportQFull

theorem State.PlLegal.deliverGen (h : s.PlLegal) {cell cls part m pkt} : (s.deliverGen cell cls part m pkt).PlLegal := by
  unfold State.deliverGen
  split
  · exact h.reportQFull
  · exact h.enqueueGen.wakeMsg.ite (h.modCell.ite h.reportQFull)

theorem State.PlLegal.deliverStore (h : s.PlLegal) {cell part x} : (s.deliverStore cell part x).PlLegal :=
  h.ite (h.modCell.foldl (fun _ _ h1 => h1.enqueueGen) _)

theorem State.PlLegal.reportDrop (h : s.PlLegal) {o code src mark always addr info pkt} :
    (s.reportDrop o code src mark always addr info pkt).PlLegal := by
  unfold State.reportDrop
  dsimp only
  split
  · exact h.report
  · split
    · split
      · exact (h.report.modCtx (fun _ k => k.same)).modCell.deliverGen
      · exact h.report.modCell.deliverGen
    · split
      · exact h.report.modCtx (fun _ k => k.same)
      · exact h.report

theorem State.PlLegal.leaveGuest (h : s.PlLegal) {x} : (s.leaveGuest x).PlLegal := h.same

theorem State.PlLegal.leaveUnits (h : s.PlLegal) {x} : (s.leaveUnits x).PlLegal := h.same

theorem State.PlLegal.backHome (h : s.PlLegal) {x} : (s.backHome x).PlLegal := h.deliverStore.ite h

theorem State.PlLegal.takeTrap (h : s.PlLegal) {i t} : (s.takeTrap i t).PlLegal :=
  (h.leaveUnits.backHome.setCtx (h.ctx _).same).reportCtx.ite (h.leaveUnits.backHome.setCtx (h.ctx _).settle.enterTrap.toSlot)

theorem State.PlLegal.endInTrap (h : s.PlLegal) {t} : (s.endInTrap t).PlLegal := h.takeTrap.mod (fun _ k => k.dropLanes)

theorem State.PlLegal.trapAlone (h : s.PlLegal) {code addr} : (s.trapAlone code addr).PlLegal := h.endInTrap

theorem State.PlLegal.trap (h : s.PlLegal) {code addr} : (s.trap code addr).PlLegal := (h.reportCtx.ite h).trapAlone

theorem State.PlLegal.faultOut (h : s.PlLegal) {code addr} : PlNext (faultOut s code addr) := h.trap.next

/-- A return takes the level of the trap registers, where it is legal (04 R81). -/
theorem State.PlLegal.eret (h : s.PlLegal) : s.eret.PlLegal := by
  have key (hl : (s.self.trapRegs s.self.pl).pl ≠ 3) :
      (s.mod fun c => { c.settle s.now with pl := (s.self.trapRegs s.self.pl).pl, pc := (s.self.trapRegs s.self.pl).epc }).PlLegal := by
    refine h.mod fun c k => ?_
    rw [Ctx.plLegal_iff] at *
    exact ⟨hl, k.2⟩
  unfold State.eret
  dsimp only
  split
  · exact h.trap
  · split
    · exact h.trap
    · split
      · exact h.trap
      · exact key fun e => ‹¬(_ ∨ _)› (.inr e)

theorem State.PlLegal.noteTurn (h : s.PlLegal) {x} : (s.noteTurn x).PlLegal := by
  unfold State.noteTurn
  dsimp only
  split
  · exact (h.modCtx (fun _ k => k.same)).modDie
  · exact (h.modCtx (fun _ k => k.same)).modCell

end

end Sys2Proof.Machine
end

section
/-! PROOFS. Privilege levels: accesses of memory and of the L1 keep the levels legal (Sys2Proof/Machine/Memory.lean). -/

set_option Elab.async false

namespace Sys2Proof.Machine

section
variable {s t : State} {c : Ctx}

theorem State.PlLegal.dramWrite (h : s.PlLegal) {die pa l} : (s.dramWrite die pa l).PlLegal := h.modDie.report.ite h.modDie

theorem State.PlLegal.l2Evict (h : s.PlLegal) {die pa} : (s.l2Evict die pa).PlLegal := by
  unfold State.l2Evict
  dsimp only
  split
  · exact h
  · exact (h.dramWrite.ite h).modDie

theorem State.PlLegal.l2MakeRoom (h : s.PlLegal) {die slice k} : (s.l2MakeRoom die slice k).PlLegal :=
  h.foldl (fun _ _ h1 => h1.l2Evict) _

theorem State.PlLegal.l2Fill (h : s.PlLegal) {p va} : (s.l2Fill p va).1.PlLegal := by
  unfold State.l2Fill
  dsimp only
  split
  · split
    · exact h
    · exact h.l2Evict.l2MakeRoom.modDie
  · exact h.l2MakeRoom.modDie

theorem State.PlLegal.l2Put (h : s.PlLegal) {p va b} : (s.l2Put p va b).PlLegal := h.modDie

theorem State.PlLegal.homeLine (h : s.PlLegal) {space va} : PlGives (fun r => r.1.PlLegal) (s.homeLine space va) := by
  unfold State.homeLine
  dsimp only
  split
  · exact .stop trivial
  · exact .pure h.l2Fill

theorem State.PlLegal.deviceWrite (h : s.PlLegal) {space va bs} : PlGives State.PlLegal (s.deviceWrite space va bs) := by
  unfold State.deviceWrite
  dsimp only
  split
  · exact .stop trivial
  · exact .pure h.l2Fill.l2Put

theorem State.PlLegal.homeRead (h : s.PlLegal) {l n} : PlGives (fun r => r.1.PlLegal) (s.homeRead l n) := by
  unfold State.homeRead
  dsimp only
  split
  · exact .ite (.stop trivial) (.pure h)
  · split
    · exact .stop trivial
    · exact .ite (.stop trivial) (.pure (h.homeLine.ok ‹_›))

theorem State.PlLegal.homeCap (h : s.PlLegal) {l} : PlGives (fun r => r.1.PlLegal) (s.homeCap l) := by
  unfold State.homeCap
  dsimp only
  split
  · exact .ite (.stop trivial) (.pure h)
  · split
    · exact .stop trivial
    · exact .ite (.stop trivial) (.pure (h.homeLine.ok ‹_›))

theorem State.PlLegal.lineModify (h : s.PlLegal) {space va f} : PlGives State.PlLegal (s.lineModify space va f) := by
  unfold State.lineModify
  split
  · exact .stop trivial
  · exact .pure (h.homeLine.ok ‹_›).l2Put

theorem State.PlLegal.homeModify (h : s.PlLegal) {l n f} : PlGives State.PlLegal (s.homeModify l n f) := by
  unfold State.homeModify
  split
  · exact .pure h.modCell
  · exact .ite (.stop trivial) h.lineModify

theorem State.PlLegal.homeWrite (h : s.PlLegal) {l bs} : PlGives State.PlLegal (s.homeWrite l bs) := h.homeModify

theorem State.PlLegal.homeFull (h : s.PlLegal) {l} : PlGives (fun r => r.1.PlLegal) (s.homeFull l) := by
  unfold State.homeFull
  split
  · exact .pure h
  · split
    · exact .stop trivial
    · exact .pure (h.homeLine.ok ‹_›)

theorem State.PlLegal.homeSetFull (h : s.PlLegal) {l full} : PlGives State.PlLegal (s.homeSetFull l full) := h.homeModify

theorem State.PlLegal.l1Drop (h : s.PlLegal) {cell id} : (s.l1Drop cell id).PlLegal := h.modCell

theorem State.PlLegal.l1WriteBack (h : s.PlLegal) {cell id} : (s.l1WriteBack cell id).PlLegal := by
  unfold State.l1WriteBack
  dsimp only
  split
  · exact h
  · split
    · exact h
    · split
      · split
        · exact ((h.homeModify.ok ‹_›).homeLine.ok ‹_›).same.modCell
        · exact (h.homeModify.ok ‹_›).l1Drop
      · exact h.l1Drop.foldl (fun _ _ h1 => h1.reportDrop) _

theorem State.PlLegal.l1Flush (h : s.PlLegal) {cell id} : (s.l1Flush cell id).PlLegal := h.l1WriteBack.l1Drop

theorem State.PlLegal.l1EvictAll (h : s.PlLegal) {cell f} : (s.l1EvictAll cell f).PlLegal := h.foldl (fun _ _ h1 => h1.l1Flush) _

theorem State.PlLegal.l1WriteBackAll (h : s.PlLegal) {cell f} : (s.l1WriteBackAll cell f).PlLegal :=
  h.foldl (fun _ _ h1 => h1.l1WriteBack) _

theorem State.PlLegal.releaseLines (h : s.PlLegal) {i} : (s.releaseLines i).PlLegal := h.l1WriteBackAll

theorem State.PlLegal.l1Place (h : s.PlLegal) {cell} : (s.l1Place cell).1.PlLegal := by
  unfold State.l1Place
  dsimp only
  split
  · exact h
  · exact h.l1Flush

theorem State.PlLegal.l1Fill (h : s.PlLegal) {cell c va} : PlGives (fun r => r.1.PlLegal) (s.l1Fill cell c va) := by
  unfold State.l1Fill
  dsimp only
  split
  · exact .stop trivial
  · split
    · exact .pure (h.homeLine.ok ‹_›).same.modCell
    · exact .pure (h.homeLine.ok ‹_›).l1Place.same.modCell

theorem State.PlLegal.l1Live (h : s.PlLegal) {cell sid va} : (s.l1Live cell sid va).PlLegal := by
  unfold State.l1Live
  split
  · exact h.l1Flush.ite h
  · exact h

theorem State.PlLegal.l1Read (h : s.PlLegal) {cell c va n} : PlGives (fun r => r.1.PlLegal) (s.l1Read cell c va n) := by
  have filled := (h.l1Live (cell := cell) (sid := c.sid) (va := va)).l1Fill (cell := cell) (c := c) (va := va) |>.map
    (g := fun r => (r.1, r.2.2.data)) (Q := fun r => r.1.PlLegal) fun _ h => h
  unfold State.l1Read
  dsimp only
  split
  · trivial
  · split
    · exact .ite (.pure h.l1Live) filled
    · exact filled

theorem State.PlLegal.l1Write (h : s.PlLegal) {i cell c va bs} : PlGives State.PlLegal (s.l1Write i cell c va bs) := by
  unfold State.l1Write
  dsimp only
  split
  · exact .stop trivial
  · split
    · exact .pure h.l1Live.modCell
    · split
      · exact .stop trivial
      · exact .pure (h.l1Live.l1Fill.ok ‹_›).modCell

theorem State.PlLegal.l1Sync (h : s.PlLegal) {cell sid va} : (s.l1Sync cell sid va).PlLegal := by
  unfold State.l1Sync
  split
  · exact h.l1Drop.ite h.l1Flush
  · exact h

theorem State.PlLegal.acquire (h : s.PlLegal) {i} : (s.acquire i).PlLegal := h.same.modCtx (fun _ k => k.same)

end

end Sys2Proof.Machine
end

section
/-! PROOFS. Privilege levels: operands, traps and checks keep the levels legal (Sys2Proof/Machine/Operands.lean). -/

set_option Elab.async false

namespace Sys2Proof.Machine

section
variable {s t : State} {c : Ctx}

theorem State.PlLegal.raise (h : s.PlLegal) {α} {P : α → Prop} {code addr} : PlTries P (s.raise code addr) := .stop h.trap

theorem State.PlLegal.raiseRegister (h : s.PlLegal) {α} {P : α → Prop} : PlTries P (s.raiseRegister (α := α)) := .stop h.trapAlone

theorem State.PlLegal.again (h : s.PlLegal) {α} {P : α → Prop} : PlTries P (s.again (α := α)) := .stop h.stall

theorem State.PlLegal.require (h : s.PlLegal) {ok code addr} : PlTries (fun _ => True) (s.require ok code addr) :=
  .ite (.pure trivial) h.raise

/-- A refusal of a home is a trap; what the home gives goes on. -/
theorem State.PlLegal.precise (h : s.PlLegal) {α} {P : α → Prop} {addr} {r : Except Byte α} (hr : PlGives P r) :
    PlTries P (s.precise addr r) := by
  unfold State.precise
  split
  · exact hr
  · exact h.raise

theorem State.PlLegal.checkAccess (h : s.PlLegal) {ea n store fe} : PlTries (fun _ => True) (s.checkAccess ea n store fe) := by
  unfold State.checkAccess
  split
  · exact h.raise
  · split <;> exact h.require

theorem State.PlLegal.checkHome (h : s.PlLegal) {ea n store} : PlTries (fun _ => True) (s.checkHome ea n store) := by
  unfold State.checkHome
  dsimp only
  split
  · exact .pure trivial
  · exact .ite h.raise (.ite h.raise (.ite h.raise (.pure trivial)))
  · exact h.raise

theorem State.PlLegal.localWaits (h : s.PlLegal) {ea n store} : PlTries (fun _ => True) (s.localWaits ea n store) := by
  unfold State.localWaits
  dsimp only
  split
  · exact .ite h.again (.pure trivial)
  · exact .ite (.stop h.stall) (.pure trivial)
  · exact .ite h.again (.pure trivial)
  · exact .pure trivial

theorem State.PlLegal.waitWc (h : s.PlLegal) {w} : PlTries (fun _ => True) (s.waitWc w) := .ite h.again (.pure trivial)

theorem State.PlLegal.takeDrop (h : s.PlLegal) {v} : PlTries State.PlLegal (s.takeDrop v) := by
  unfold State.takeDrop
  dsimp only
  split
  · exact .pure h
  · exact (h.mod (fun _ k => k.same)).raise

theorem State.PlLegal.waitCovered (h : s.PlLegal) {v} : PlTries State.PlLegal (s.waitCovered v) :=
  .ite h.releaseLines.again h.releaseLines.takeDrop

theorem State.PlLegal.illInOpt (h : s.PlLegal) : PlTries (fun _ => True) s.illInOpt := h.require

theorem State.PlLegal.illInHandler (h : s.PlLegal) : PlTries (fun _ => True) s.illInHandler := h.require

theorem State.PlLegal.capRead (h : s.PlLegal) {r} : PlTries (fun _ => True) (s.capRead r) := .ite h.raiseRegister (.pure trivial)

end

end Sys2Proof.Machine
end

section
/-! PROOFS. Privilege levels: charges keep the levels legal (Sys2Proof/Machine/Budget.lean). -/

set_option Elab.async false

namespace Sys2Proof.Machine

section
variable {s t : State} {c : Ctx}

theorem State.PlLegal.eachThread (h : s.PlLegal) {entry f} (hf : ∀ c : Ctx, c.PlLegal → (f c).PlLegal) :
    (s.eachThread entry f).PlLegal := by
  refine h.mapCtxs rfl rfl fun p k => ?_
  split
  · exact hf _ k
  · exact k

theorem State.PlLegal.sendRefresh (h : s.PlLegal) {n cell} : (s.sendRefresh n cell).PlLegal := by
  unfold State.sendRefresh
  split
  · exact h
  · exact State.PlLegal.setEntry (h.same (t := { s with refreshes := _ })) (h.entry ‹_›).same

theorem State.PlLegal.refreshAll (h : s.PlLegal) {n} : (s.refreshAll n).PlLegal := h.foldl (fun _ _ h1 => h1.sendRefresh) _

theorem State.PlLegal.setBp (h : s.PlLegal) {n b} : (s.setBp n b).PlLegal := h.eachThread (fun _ k => k.same)

theorem State.PlLegal.demote (h : s.PlLegal) {n} : (s.demote n).PlLegal := (h.modEntry (fun _ h1 => h1.same)).refreshAll

theorem State.PlLegal.signal (h : s.PlLegal) {part v} : (s.signal part v).PlLegal := h.modPart

theorem State.PlLegal.spend (h : s.PlLegal) {n code} : (s.spend n code).PlLegal := by
  unfold State.spend
  dsimp only
  split
  · exact h
  · exact ((h.modEntry (fun _ h1 => h1.same)).refreshAll.ite (h.modEntry (fun _ h1 => h1.same)).demote).report.signal

theorem State.PlLegal.exhaust (h : s.PlLegal) {n} : (s.exhaust n).PlLegal := by
  unfold State.exhaust
  split
  · exact h.spend.ite h
  · exact h

theorem State.PlLegal.answerCharge (h : s.PlLegal) {e ch} : (s.answerCharge e ch).PlLegal := by
  unfold State.answerCharge
  split
  · exact h
  · split
    · exact h.sendRefresh.ite h
    · exact h.sendRefresh

theorem State.PlLegal.applyCharge (h : s.PlLegal) {ch} : (s.applyCharge ch).PlLegal := by
  unfold State.applyCharge
  split
  · exact h
  · dsimp only
    split
    · exact h.setEntry (h.entry ‹_›).same
    · split
      · exact ((h.setEntry (h.entry ‹_›).same).modEntry fun _ k => k.same).setBp.refreshAll
      · exact (h.setEntry (h.entry ‹_›).same).answerCharge.exhaust

theorem State.PlLegal.applyCharges (h : s.PlLegal) {die} : (s.applyCharges die).PlLegal :=
  h.modDie.foldl (fun _ _ h1 => h1.applyCharge) _

theorem State.PlLegal.performBudx_test (h : s.PlLegal) {n ctx num xa e} : (State.performBudx.test n ctx num xa s e).1.PlLegal := by
  unfold State.performBudx.test
  dsimp only
  split
  · split
    · exact (((h.modCtx fun _ k => k.same).modEntry fun _ k => k.same).modEntry fun _ k => k.same).setBp.refreshAll
    · exact (h.modCtx fun _ k => k.same).modEntry fun _ k => k.same
  · split
    · exact (h.modCtx fun _ k => k.same).spend
    · exact h.modCtx fun _ k => k.same

theorem State.PlLegal.performBudx (h : s.PlLegal) {n ctx num xa} : (s.performBudx n ctx num xa).1.PlLegal := by
  unfold State.performBudx
  split
  · exact h
  · split
    · split
      · exact h
      · exact h.performBudx_test
    · exact h.performBudx_test

end

end Sys2Proof.Machine
end

section
/-! PROOFS. Privilege levels: threads and their slots keep the levels legal (Sys2Proof/Machine/Threads.lean). -/

set_option Elab.async false

namespace Sys2Proof.Machine

section
variable {s t : State} {c : Ctx}

theorem State.PlLegal.inheritBindings (h : s.PlLegal) {x} : (s.inheritBindings x).PlLegal := h.same

theorem State.PlLegal.newCtx (h : s.PlLegal) {d : Ctx} (k : d.PlLegal) : (s.newCtx d).1.PlLegal :=
  (h.same.setCtx k).inheritBindings.deliverStore

theorem State.PlLegal.checkEnd (h : s.PlLegal) {entry} : (s.checkEnd entry).PlLegal := by
  unfold State.checkEnd
  split
  · exact h
  · split
    · exact h
    · exact (h.modEntry (fun _ h1 => h1.same)).ite h

theorem State.PlLegal.abandonLoad (h : s.PlLegal) {x} : (s.abandonLoad x).PlLegal := h.same

theorem State.PlLegal.forget (h : s.PlLegal) {x} : (s.forget x).PlLegal := h.same

theorem State.PlLegal.emptySlot (h : s.PlLegal) {x t} : (s.emptySlot x t).PlLegal := by
  unfold State.emptySlot
  dsimp only
  split
  · exact h.modCell
  · exact h.modCell
  · exact h

theorem State.PlLegal.endCtxAt (h : s.PlLegal) {x t} : (s.endCtxAt x t).PlLegal := h.emptySlot.forget.delCtx.checkEnd

theorem State.PlLegal.endCtx (h : s.PlLegal) {x} : (s.endCtx x).PlLegal := h.endCtxAt

end

end Sys2Proof.Machine
end

section
/-! PROOFS. Privilege levels: transactions with a home keep the levels legal (Sys2Proof/Machine/Transact.lean). -/

set_option Elab.async false

namespace Sys2Proof.Machine

section
variable {s t : State} {c : Ctx}

theorem State.PlLegal.homeAmo (h : s.PlLegal) {l op ty v exp} : PlGives (fun r => r.1.PlLegal) (s.homeAmo l op ty v exp) := by
  unfold State.homeAmo
  dsimp only
  exact h.homeRead.bind fun ⟨_, _⟩ h1 => h1.homeWrite.bind fun _ h2 => .pure h2

theorem State.PlLegal.homeBarrier (h : s.PlLegal) {l e} : PlGives (fun r => r.1.PlLegal) (s.homeBarrier l e) := by
  unfold State.homeBarrier
  dsimp only
  exact h.homeRead.bind fun ⟨_, _⟩ h1 => h1.homeRead.bind fun ⟨_, _⟩ h2 => .ite
    (.ite (.pure h2) (h2.homeWrite.bind fun _ h3 => .pure h3)) (h2.homeWrite.bind fun _ h3 => .ite (.pure h3)
      (h3.homeWrite.bind fun _ h4 => .pure h4))

theorem State.PlLegal.phaseAt (h : s.PlLegal) {l} : PlGives (fun r => r.1.PlLegal) (s.phaseAt l) := by
  unfold State.phaseAt
  dsimp only
  exact h.homeRead.bind fun ⟨_, _⟩ h1 => .pure h1

theorem State.PlLegal.reportOver (h : s.PlLegal) {p l} : (s.reportOver p l).PlLegal := by
  unfold State.reportOver
  split <;> exact h.report

theorem State.PlLegal.doOp (h : s.PlLegal) {p l} : PlGives (fun r => r.1.PlLegal) (s.doOp p l) := by
  unfold State.doOp
  dsimp only
  split
  · exact h.homeRead.bind fun ⟨_, _⟩ h1 => .pure h1
  · exact h.homeWrite.bind fun _ h1 => .pure h1
  · exact h.homeModify.bind fun _ h1 => .pure h1
  · exact h.homeAmo.bind fun ⟨_, _, _⟩ h1 => .pure h1
  · exact h.homeBarrier.bind fun ⟨_, _, _⟩ h1 => .pure (h1.reportOver.ite h1)
  · exact h.homeBarrier.bind fun ⟨_, _, _⟩ h1 => .pure (h1.reportOver.ite h1)
  · exact h.homeBarrier.bind fun ⟨_, _, _⟩ h1 => .pure (h1.reportOver.ite h1)
  · exact h.homeRead.bind fun ⟨_, _⟩ h1 => h1.homeSetFull.bind fun _ h2 => .pure h2
  · exact h.homeWrite.bind fun _ h1 => .pure h1

theorem State.PlLegal.perform (h : s.PlLegal) {p} : (s.perform p).1.PlLegal := by
  unfold State.perform
  dsimp only
  split
  · split
    · exact h
    · split
      · exact h.doOp.ok ‹_›
      · exact h
  · exact h.same
  · exact h

theorem State.PlLegal.syncTarget (h : s.PlLegal) {p} : (s.syncTarget p).PlLegal := by
  unfold State.syncTarget
  split
  · exact h.l1Sync.ite h
  · exact h

theorem State.PlLegal.replyTo (h : s.PlLegal) {p st} : (s.replyTo p st).PlLegal := by
  unfold State.replyTo
  dsimp only
  split
  · split
    · split
      · split
        · exact (h.syncTarget.same.wx.orFlags.acquire.mod (fun _ k => k.same)).park
        · exact (h.syncTarget.same.orFlags.acquire.mod (fun _ k => k.same)).park
      · split
        · exact (h.syncTarget.same.wx.orFlags.mod (fun _ k => k.same)).park
        · exact (h.syncTarget.same.orFlags.mod (fun _ k => k.same)).park
    · split
      · split
        · exact h.syncTarget.same.wx.orFlags.acquire.finish
        · exact h.syncTarget.same.orFlags.acquire.finish
      · split
        · exact h.syncTarget.same.wx.orFlags.finish
        · exact h.syncTarget.same.orFlags.finish
  · exact h.syncTarget.same.trap
  · exact h.syncTarget.same

theorem State.PlLegal.answer (h : s.PlLegal) {p} : (s.answer p).PlLegal := by
  unfold State.answer
  dsimp only
  exact h.perform.replyTo

theorem State.PlLegal.fabricWaits (h : s.PlLegal) {ea n store home} : PlTries (fun _ => True) (s.fabricWaits ea n store home) :=
  .ite h.again (.pure trivial)

theorem State.PlLegal.touchEnd (h : s.PlLegal) {k e} : (s.touchEnd k e).PlLegal := h.same

theorem State.PlLegal.addEnd (h : s.PlLegal) {sender peer num part} : (s.addEnd sender peer num part).1.PlLegal := by
  unfold State.addEnd
  dsimp only
  exact h.same

theorem State.PlLegal.senderFor (h : s.PlLegal) {peer part} : (s.senderFor peer part).1.PlLegal := by
  unfold State.senderFor
  split
  · exact h
  · exact h.addEnd

theorem State.PlLegal.sendPeer (h : s.PlLegal) {n p} : (s.sendPeer n p).PlLegal := by
  unfold State.sendPeer
  dsimp only
  split
  · exact h.senderFor.same.touchEnd
  · exact h

theorem State.PlLegal.launch (h : s.PlLegal) {p held} : (s.launch p held).1.PlLegal := by
  unfold State.launch
  dsimp only
  exact h.same.sendPeer.ite h.same

theorem State.PlLegal.submit (h : s.PlLegal) {p} : (s.submit p).PlLegal := by
  unfold State.submit
  dsimp only
  exact h.answer.ite (h.takeHold.launch.stall.ite h.takeHold.answer)

theorem State.PlLegal.post (h : s.PlLegal) {p} : (s.post p).PlLegal := h.launch.modCtx (fun _ k => k.bumpPst)

theorem State.PlLegal.ackPosted (h : s.PlLegal) {n p fl} : (s.ackPosted n p fl).PlLegal := by
  unfold State.ackPosted
  dsimp only
  split
  · exact h.syncTarget.same.modCtx (fun _ k => (k.ite k.bumpPst).same)
  · exact h.syncTarget.same

theorem State.PlLegal.endRefused (h : s.PlLegal) {n p} : (s.endRefused n p).PlLegal := by
  unfold State.endRefused
  dsimp only
  split
  · exact h.same.ite (h.same.modCtx (fun _ k => k.bumpPst))
  · exact h.same

theorem State.PlLegal.refusePosted (h : s.PlLegal) {n p code} : (s.refusePosted n p code).PlLegal := h.same.reportDrop

end

end Sys2Proof.Machine
end

section
/-! PROOFS. Privilege levels: optimistic books keep the levels legal (Sys2Proof/Machine/Book.lean). -/

set_option Elab.async false

namespace Sys2Proof.Machine

section
variable {s t : State} {c : Ctx}

theorem State.PlLegal.bookWrite (h : s.PlLegal) {cell m pos bs} : (s.bookWrite cell m pos bs).PlLegal := h.modCell

theorem State.PlLegal.freeBytes (h : s.PlLegal) {n} : (s.freeBytes n).1.PlLegal := h.same

theorem State.PlLegal.entryBytes (h : s.PlLegal) {e} : (s.entryBytes e).1.PlLegal := by
  unfold State.entryBytes
  split
  · exact h
  · exact h
  · exact h.freeBytes
  · exact h

theorem State.PlLegal.noRoom (h : s.PlLegal) {α} {P : α → Prop} : PlTries P (s.noRoom (α := α)) := .ite h.raise h.again

theorem State.PlLegal.addRecord (h : s.PlLegal) {m r} : (s.addRecord m r).PlLegal := h.bookWrite.mod (fun _ k => k.same)

theorem State.PlLegal.addEntry (h : s.PlLegal) {m e} : (s.addEntry m e).PlLegal := by
  unfold State.addEntry
  dsimp only
  split
  · exact h
  · exact h.entryBytes.bookWrite.bookWrite.mod (fun _ k => k.same)

theorem State.PlLegal.logEntry (h : s.PlLegal) {e} : PlTries State.PlLegal (s.logEntry e) := by
  unfold State.logEntry
  split
  · exact .pure h
  · exact .ite (.pure h.addEntry) h.noRoom

theorem State.PlLegal.deferAction (h : s.PlLegal) {d} : PlTries State.PlLegal (s.deferAction d) := by
  unfold State.deferAction
  dsimp only
  split
  · exact .pure h
  · exact .ite h.logEntry (.ite h.logEntry (.ite h.addRecord.logEntry h.noRoom))

theorem State.PlLegal.writeNow (h : s.PlLegal) {ea n} : PlTries (fun _ => True) (s.writeNow ea n) := by
  unfold State.writeNow
  dsimp only
  split
  · exact .pure trivial
  · split
    · exact .pure trivial
    · exact .ite h.raise (.pure trivial)
    · exact .pure trivial

end

end Sys2Proof.Machine
end

section
/-! PROOFS. Privilege levels: the cell control page keep the levels legal (Sys2Proof/Machine/CellPage.lean). -/

set_option Elab.async false

namespace Sys2Proof.Machine

section
variable {s t : State} {c : Ctx}

theorem State.PlLegal.writeRot (h : s.PlLegal) {cell rot} : (s.writeRot cell rot).PlLegal := h.modCell

theorem State.PlLegal.rotBoundary (h : s.PlLegal) {cell} : (s.rotBoundary cell).PlLegal := h.modCell

theorem State.PlLegal.retryData (h : s.PlLegal) {cell} : (s.retryData cell).PlLegal :=
  h.mapEntries rfl rfl fun _ k => k.same

theorem State.PlLegal.writeSplit (h : s.PlLegal) {cell spsz} : (s.writeSplit cell spsz).PlLegal :=
  h.modCell.ite (h.ite (h.modCell.ite (h.foldl (fun _ _ h1 => h1.l1Flush) _).modCell.retryData))

theorem State.PlLegal.splitDone (h : s.PlLegal) {cell} : (s.splitDone cell).PlLegal := h.modCell

theorem State.PlLegal.clearSprf (h : s.PlLegal) {cell} : (s.clearSprf cell).PlLegal := h.modCell

theorem State.PlLegal.writePage (h : s.PlLegal) {cell off v} : (s.writePage cell off v).PlLegal :=
  ((h.clearSprf.ite h).writeRot.ite (h.clearSprf.ite h)).writeSplit.ite h

end

end Sys2Proof.Machine
end

section
/-! PROOFS. Privilege levels: scalar instructions keep the levels legal (Sys2Proof/Machine/Scalar.lean). -/

set_option Elab.async false

namespace Sys2Proof.Machine

section
variable {s t : State} {c : Ctx}

theorem State.PlLegal.result (h : s.PlLegal) {n : Nat} {d : BitVec n} {v} : PlNext (s.result d v) := h.wx.finish.next

theorem State.PlLegal.branchIf (h : s.PlLegal) {c o} : PlNext (s.branchIf c o) := h.finishAt.next

theorem State.PlLegal.next_execAdd (h : s.PlLegal) {d a b} : PlNext (execAdd d a b s) := h.result

theorem State.PlLegal.next_execSub (h : s.PlLegal) {d a b} : PlNext (execSub d a b s) := h.result

theorem State.PlLegal.next_execAnd (h : s.PlLegal) {d a b} : PlNext (execAnd d a b s) := h.result

theorem State.PlLegal.next_execOr (h : s.PlLegal) {d a b} : PlNext (execOr d a b s) := h.result

theorem State.PlLegal.next_execXor (h : s.PlLegal) {d a b} : PlNext (execXor d a b s) := h.result

theorem State.PlLegal.next_execShl (h : s.PlLegal) {d a b} : PlNext (execShl d a b s) := h.result

theorem State.PlLegal.next_execShr (h : s.PlLegal) {d a b} : PlNext (execShr d a b s) := h.result

theorem State.PlLegal.next_execSra (h : s.PlLegal) {d a b} : PlNext (execSra d a b s) := h.result

theorem State.PlLegal.next_execSlt (h : s.PlLegal) {d a b} : PlNext (execSlt d a b s) := h.result

theorem State.PlLegal.next_execSltu (h : s.PlLegal) {d a b} : PlNext (execSltu d a b s) := h.result

theorem State.PlLegal.next_execMin (h : s.PlLegal) {d a b} : PlNext (execMin d a b s) := h.result

theorem State.PlLegal.next_execMax (h : s.PlLegal) {d a b} : PlNext (execMax d a b s) := h.result

theorem State.PlLegal.next_execMinu (h : s.PlLegal) {d a b} : PlNext (execMinu d a b s) := h.result

theorem State.PlLegal.next_execMaxu (h : s.PlLegal) {d a b} : PlNext (execMaxu d a b s) := h.result

theorem State.PlLegal.next_execMul (h : s.PlLegal) {d a b} : PlNext (execMul d a b s) := h.result

theorem State.PlLegal.next_execMulh (h : s.PlLegal) {d a b} : PlNext (execMulh d a b s) := h.result

theorem State.PlLegal.next_execMulhu (h : s.PlLegal) {d a b} : PlNext (execMulhu d a b s) := h.result

theorem State.PlLegal.next_execDiv (h : s.PlLegal) {d a b} : PlNext (execDiv d a b s) := h.result

theorem State.PlLegal.next_execDivu (h : s.PlLegal) {d a b} : PlNext (execDivu d a b s) := h.result

theorem State.PlLegal.next_execRem (h : s.PlLegal) {d a b} : PlNext (execRem d a b s) := h.result

theorem State.PlLegal.next_execRemu (h : s.PlLegal) {d a b} : PlNext (execRemu d a b s) := h.result

theorem State.PlLegal.next_execBfx (h : s.PlLegal) {d a b} : PlNext (execBfx d a b s) := h.result

theorem State.PlLegal.next_execBfi (h : s.PlLegal) {d a b} : PlNext (execBfi d a b s) := h.result

theorem State.PlLegal.next_execClz (h : s.PlLegal) {d a} : PlNext (execClz d a s) := h.result

theorem State.PlLegal.next_execCtz (h : s.PlLegal) {d a} : PlNext (execCtz d a s) := h.result

theorem State.PlLegal.next_execPopc (h : s.PlLegal) {d a} : PlNext (execPopc d a s) := h.result

theorem State.PlLegal.next_execSext (h : s.PlLegal) {d a w} : PlNext (execSext d a w s) := h.result

theorem State.PlLegal.next_execZext (h : s.PlLegal) {d a w} : PlNext (execZext d a w s) := h.result

theorem State.PlLegal.next_execAddi (h : s.PlLegal) {d a i} : PlNext (execAddi d a i s) := h.result

theorem State.PlLegal.next_execAndi (h : s.PlLegal) {d a i} : PlNext (execAndi d a i s) := h.result

theorem State.PlLegal.next_execOri (h : s.PlLegal) {d a i} : PlNext (execOri d a i s) := h.result

theorem State.PlLegal.next_execXori (h : s.PlLegal) {d a i} : PlNext (execXori d a i s) := h.result

theorem State.PlLegal.next_execSlti (h : s.PlLegal) {d a i} : PlNext (execSlti d a i s) := h.result

theorem State.PlLegal.next_execShli (h : s.PlLegal) {d a n} : PlNext (execShli d a n s) := h.result

theorem State.PlLegal.next_execShri (h : s.PlLegal) {d a n} : PlNext (execShri d a n s) := h.result

theorem State.PlLegal.next_execSrai (h : s.PlLegal) {d a n} : PlNext (execSrai d a n s) := h.result

theorem State.PlLegal.next_execLui (h : s.PlLegal) {d i} : PlNext (execLui d i s) := h.result

theorem State.PlLegal.next_execAddpc (h : s.PlLegal) {d i} : PlNext (execAddpc d i s) := h.result

theorem State.PlLegal.next_execBeq (h : s.PlLegal) {a b o} : PlNext (execBeq a b o s) := h.branchIf

theorem State.PlLegal.next_execBne (h : s.PlLegal) {a b o} : PlNext (execBne a b o s) := h.branchIf

theorem State.PlLegal.next_execBlt (h : s.PlLegal) {a b o} : PlNext (execBlt a b o s) := h.branchIf

theorem State.PlLegal.next_execBge (h : s.PlLegal) {a b o} : PlNext (execBge a b o s) := h.branchIf

theorem State.PlLegal.next_execBltu (h : s.PlLegal) {a b o} : PlNext (execBltu a b o s) := h.branchIf

theorem State.PlLegal.next_execBgeu (h : s.PlLegal) {a b o} : PlNext (execBgeu a b o s) := h.branchIf

theorem State.PlLegal.next_execJal (h : s.PlLegal) {d o} : PlNext (execJal d o s) := h.wx.finishAt.next

theorem State.PlLegal.next_execJalr (h : s.PlLegal) {d a i} : PlNext (execJalr d a i s) := PlNext.ite h.faultOut h.wx.finishAt.next

end

end Sys2Proof.Machine
end

section
/-! PROOFS. Privilege levels: vector instructions keep the levels legal (Sys2Proof/Machine/Vector.lean). -/

set_option Elab.async false

namespace Sys2Proof.Machine

section
variable {s t : State} {c : Ctx}

theorem State.PlLegal.writeV (h : s.PlLegal) {n : Nat} {d : BitVec n} {v whole} : (s.writeV d v whole).PlLegal :=
  h.wv.mod (fun _ k => k.same)

theorem State.PlLegal.lanes (h : s.PlLegal) {d p t f} : PlNext (s.lanes d p t f) := h.orFlags.writeV.finish.next

theorem State.PlLegal.lanes2 (h : s.PlLegal) {d a b p t f} : PlNext (s.lanes2 d a b p t f) := h.lanes

theorem State.PlLegal.lanes1 (h : s.PlLegal) {d a p t f} : PlNext (s.lanes1 d a p t f) := h.lanes

theorem State.PlLegal.next_execVadd (h : s.PlLegal) {d a b p w r t} : PlNext (execVadd d a b p w r t s) := h.lanes2

theorem State.PlLegal.next_execVsub (h : s.PlLegal) {d a b p w r t} : PlNext (execVsub d a b p w r t s) := h.lanes2

theorem State.PlLegal.next_execVmul (h : s.PlLegal) {d a b p w r t} : PlNext (execVmul d a b p w r t s) := h.lanes2

theorem State.PlLegal.next_execVfma (h : s.PlLegal) {d a b p r t} : PlNext (execVfma d a b p r t s) := h.lanes

theorem State.PlLegal.next_execVmin (h : s.PlLegal) {d a b p w t} : PlNext (execVmin d a b p w t s) := h.lanes2

theorem State.PlLegal.next_execVmax (h : s.PlLegal) {d a b p w t} : PlNext (execVmax d a b p w t s) := h.lanes2

theorem State.PlLegal.next_execVand (h : s.PlLegal) {d a b p} : PlNext (execVand d a b p s) := h.lanes2

theorem State.PlLegal.next_execVor (h : s.PlLegal) {d a b p} : PlNext (execVor d a b p s) := h.lanes2

theorem State.PlLegal.next_execVxor (h : s.PlLegal) {d a b p} : PlNext (execVxor d a b p s) := h.lanes2

theorem State.PlLegal.next_execVshl (h : s.PlLegal) {d a b p t} : PlNext (execVshl d a b p t s) := h.lanes2

theorem State.PlLegal.next_execVshr (h : s.PlLegal) {d a b p t} : PlNext (execVshr d a b p t s) := h.lanes2

theorem State.PlLegal.next_execVsra (h : s.PlLegal) {d a b p t} : PlNext (execVsra d a b p t s) := h.lanes2

theorem State.PlLegal.next_execVcmp (h : s.PlLegal) {d a b p c t} : PlNext (execVcmp d a b p c t s) := h.orFlags.wp.finish.next

theorem State.PlLegal.next_execVsel (h : s.PlLegal) {d a b p t} : PlNext (execVsel d a b p t s) := h.lanes

theorem State.PlLegal.next_execVabs (h : s.PlLegal) {d a p w t} : PlNext (execVabs d a p w t s) := h.lanes1

theorem State.PlLegal.next_execVneg (h : s.PlLegal) {d a p w t} : PlNext (execVneg d a p w t s) := h.lanes1

theorem State.PlLegal.convert (h : s.PlLegal) {d a p dst src rtz} : PlNext (s.convert d a p dst src rtz) := h.orFlags.writeV.finish.next

theorem State.PlLegal.next_execVcvt (h : s.PlLegal) {d a p e f} : PlNext (execVcvt d a p e f s) := h.convert

theorem State.PlLegal.next_execVcvtRtz (h : s.PlLegal) {d a p e f} : PlNext (execVcvtRtz d a p e f s) := h.convert

theorem State.PlLegal.next_execVrcp (h : s.PlLegal) {d a p r t} : PlNext (execVrcp d a p r t s) := h.lanes1

theorem State.PlLegal.next_execVrsq (h : s.PlLegal) {d a p r t} : PlNext (execVrsq d a p r t s) := h.lanes1

theorem State.PlLegal.next_execVexp (h : s.PlLegal) {d a p r t} : PlNext (execVexp d a p r t s) := h.lanes1

theorem State.PlLegal.next_execVlog (h : s.PlLegal) {d a p r t} : PlNext (execVlog d a p r t s) := h.lanes1

theorem State.PlLegal.next_execVbcast (h : s.PlLegal) {d a p t} : PlNext (execVbcast d a p t s) := h.lanes

theorem State.PlLegal.next_execVext (h : s.PlLegal) {d a b t} : PlNext (execVext d a b t s) := h.result

theorem State.PlLegal.next_execVins (h : s.PlLegal) {d a b t} : PlNext (execVins d a b t s) := h.lanes

theorem State.PlLegal.next_execVperm (h : s.PlLegal) {d a b p t} : PlNext (execVperm d a b p t s) := by
  unfold execVperm
  exact h.lanes2

theorem State.PlLegal.next_execVred (h : s.PlLegal) {d a p r sub t} : PlNext (execVred d a p r sub t s) := h.orFlags.result

theorem State.PlLegal.next_execPand (h : s.PlLegal) {d a b} : PlNext (execPand d a b s) := h.wp.finish.next

theorem State.PlLegal.next_execPor (h : s.PlLegal) {d a b} : PlNext (execPor d a b s) := h.wp.finish.next

theorem State.PlLegal.next_execPxor (h : s.PlLegal) {d a b} : PlNext (execPxor d a b s) := h.wp.finish.next

theorem State.PlLegal.next_execPnot (h : s.PlLegal) {d a} : PlNext (execPnot d a s) := h.wp.finish.next

theorem State.PlLegal.next_execPset (h : s.PlLegal) {d n} : PlNext (execPset d n s) := h.wp.finish.next

theorem State.PlLegal.next_execPsetX (h : s.PlLegal) {d a} : PlNext (execPsetX d a s) := h.wp.finish.next

theorem State.PlLegal.next_execPcnt (h : s.PlLegal) {d a k} : PlNext (execPcnt d a k s) := h.result

end

end Sys2Proof.Machine
end

section
/-! PROOFS. Privilege levels: loads and stores keep the levels legal (Sys2Proof/Machine/LoadStore.lean). -/

set_option Elab.async false

namespace Sys2Proof.Machine

section
variable {s t : State} {c : Ctx}

theorem State.PlLegal.lineFor (h : s.PlLegal) {ea n atHome} : PlTries (fun r => r.1.PlLegal) (s.lineFor ea n atHome) :=
  .ite ((h.precise h.l1Sync.homeLine).map fun _ h => h) (h.precise h.l1Read)

theorem State.PlLegal.memBank (h : s.PlLegal) {ea n atHome} : PlTries (fun r => r.1.PlLegal) (s.memBank ea n atHome) := by
  unfold State.memBank
  dsimp only
  exact h.lineFor.bind fun ⟨_, _⟩ h1 => .ite h1.raise (.pure h1)

theorem State.PlLegal.readBytes (h : s.PlLegal) {ea n strong} : PlTries (fun r => r.1.PlLegal) (s.readBytes ea n strong) := by
  unfold State.readBytes
  dsimp only
  split
  · exact .ite h.raiseRegister (.ite h.raise (.pure h))
  · exact .ite h.raiseRegister (.pure h)
  · exact .pure h
  · exact h.memBank.bind fun ⟨_, _⟩ h1 => .pure h1

theorem State.PlLegal.load (h : s.PlLegal) {ea n o w} : PlTries (fun r => r.1.PlLegal) (s.load ea n o w) := by
  unfold State.load
  dsimp only
  exact h.checkAccess.bind fun _ _ => h.waitWc.bind fun _ _ => h.localWaits.bind fun _ _ => h.fabricWaits.bind fun _ _ => .ite
    (h.waitCovered.bind fun _ h5 => h5.readBytes.bind fun ⟨_, _⟩ h6 => .pure (h6.acquire.ite h6))
      (h.readBytes.bind fun ⟨_, _⟩ h5 => .pure (h5.acquire.ite h5))

theorem State.PlLegal.loadX (h : s.PlLegal) {d a o w i n signed} : PlNext (s.loadX d a o w i n signed) := by
  unfold State.loadX
  dsimp only
  exact Ends.conclude (h.load.bind fun ⟨_, _⟩ h1 => .pure h1.wx.finish)

theorem State.PlLegal.next_execLdB (h : s.PlLegal) {d a o w i} : PlNext (execLdB d a o w i s) := h.loadX

theorem State.PlLegal.next_execLdH (h : s.PlLegal) {d a o w i} : PlNext (execLdH d a o w i s) := h.loadX

theorem State.PlLegal.next_execLdW (h : s.PlLegal) {d a o w i} : PlNext (execLdW d a o w i s) := h.loadX

theorem State.PlLegal.next_execLdD (h : s.PlLegal) {d a o w i} : PlNext (execLdD d a o w i s) := h.loadX

theorem State.PlLegal.next_execLdBu (h : s.PlLegal) {d a o w i} : PlNext (execLdBu d a o w i s) := h.loadX

theorem State.PlLegal.next_execLdHu (h : s.PlLegal) {d a o w i} : PlNext (execLdHu d a o w i s) := h.loadX

theorem State.PlLegal.next_execLdWu (h : s.PlLegal) {d a o w i} : PlNext (execLdWu d a o w i s) := h.loadX

theorem State.PlLegal.writeMem (h : s.PlLegal) {ea bs o} : PlTries State.PlLegal (s.writeMem ea bs o) := by
  unfold State.writeMem
  dsimp only
  split
  · split
    · exact .pure (h.l1Write.ok ‹_›)
    · exact .pure h.reportDrop
  · split
    · exact .pure (h.l1Sync.homeWrite.ok ‹_›)
    · exact .ite h.l1Sync.raise (.pure h.l1Sync.reportDrop)

theorem State.PlLegal.writeBytes (h : s.PlLegal) {ea bs o} : PlTries State.PlLegal (s.writeBytes ea bs o) := by
  unfold State.writeBytes
  split
  · exact .pure h.modCell
  · exact .pure h.writePage
  · exact h.writeMem

theorem State.PlLegal.store (h : s.PlLegal) {ea bs o w} : PlTries State.PlLegal (s.store ea bs o w) :=
  h.writeNow.bind fun _ _ => h.checkAccess.bind fun _ _ => .ite (h.waitWc.bind fun _ _ => h.localWaits.bind fun _ _ =>
    h.fabricWaits.bind fun _ _ => .ite (h.waitCovered.bind fun _ h6 => h6.writeBytes.bind fun _ h7 => .pure (h7.acquire.ite h7))
      (h.writeBytes.bind fun _ h6 => .pure (h6.acquire.ite h6))) h.deferAction

theorem State.PlLegal.storeX (h : s.PlLegal) {t a o w i n} : PlNext (s.storeX t a o w i n) :=
  Ends.conclude (h.store.bind fun _ h1 => .pure h1.finish)

theorem State.PlLegal.next_execStB (h : s.PlLegal) {t a o w i} : PlNext (execStB t a o w i s) := h.storeX

theorem State.PlLegal.next_execStH (h : s.PlLegal) {t a o w i} : PlNext (execStH t a o w i s) := h.storeX

theorem State.PlLegal.next_execStW (h : s.PlLegal) {t a o w i} : PlNext (execStW t a o w i s) := h.storeX

theorem State.PlLegal.next_execStD (h : s.PlLegal) {t a o w i} : PlNext (execStD t a o w i s) := h.storeX

theorem State.PlLegal.leaveList (h : s.PlLegal) : s.leaveList.PlLegal := h.same

theorem State.PlLegal.parkAt (h : s.PlLegal) {l w} : (s.parkAt l w).PlLegal := h.park.ite (h.stall.ite h.same.park)

theorem State.PlLegal.syncLoc (h : s.PlLegal) {l} : (s.syncLoc l).PlLegal := by
  unfold State.syncLoc
  split
  · exact h.l1Sync.ite h
  · exact h

theorem State.PlLegal.take (h : s.PlLegal) {l ea d} : PlTries State.PlLegal (s.take l ea d) := by
  unfold State.take
  dsimp only
  exact (h.syncLoc.precise h.syncLoc.homeFull).bind fun ⟨_, _⟩ h1 => .ite ((h1.precise h1.homeRead).bind fun ⟨_, _⟩ h2 =>
    (h2.precise h2.homeSetFull).bind fun _ h3 => .pure h3.leaveList.acquire.wx.finish) (.stop h1.parkAt)

theorem State.PlLegal.give (h : s.PlLegal) {l ea v} : PlTries State.PlLegal (s.give l ea v) := by
  unfold State.give
  dsimp only
  exact (h.syncLoc.precise h.syncLoc.homeFull).bind fun ⟨_, _⟩ h1 => .ite ((h1.precise h1.homeWrite).bind fun _ h2 => .pure
    h2.leaveList.finish) (.stop h1.parkAt)

theorem State.PlLegal.next_execLdDTake (h : s.PlLegal) {d a w i} : PlNext (execLdDTake d a w i s) :=
  Ends.conclude (h.illInOpt.bind fun _ _ => h.checkAccess.bind fun _ _ => h.waitWc.bind fun _ _ => h.localWaits.bind fun _ _ =>
    h.fabricWaits.bind fun _ _ => h.take)

theorem State.PlLegal.next_execStDGive (h : s.PlLegal) {t a w i} : PlNext (execStDGive t a w i s) :=
  Ends.conclude (h.illInOpt.bind fun _ _ => h.checkAccess.bind fun _ _ => h.waitWc.bind fun _ _ => h.localWaits.bind fun _ _ =>
    h.fabricWaits.bind fun _ _ => h.waitCovered.bind fun _ h6 => h6.give)

theorem State.PlLegal.setVersions (h : s.PlLegal) {space va l} : (s.setVersions space va l).PlLegal := by
  unfold State.setVersions
  dsimp only
  split
  · exact h.same.l2MakeRoom
  · exact h.same

theorem State.PlLegal.checkVersion (h : s.PlLegal) {ea} : PlTries (fun _ => True) (s.checkVersion ea) :=
  h.require.bind fun _ _ => h.require.bind fun _ _ => (h.precise (Ends.any _)).bind fun _ _ => .pure trivial

theorem State.PlLegal.ldvOpt (h : s.PlLegal) {space va} : (s.ldvOpt space va).1.PlLegal := by
  unfold State.ldvOpt
  dsimp only
  split
  · exact h
  · split
    · exact h
    · exact h.same

theorem State.PlLegal.ldv (h : s.PlLegal) {d a b eq} : PlTries State.PlLegal (s.ldv d a b eq) := by
  unfold State.ldv
  refine h.checkVersion.bind fun _ _ => h.fabricWaits.bind fun _ _ => ?_
  dsimp only
  split
  · exact .ite h.ldvOpt.raise (.pure h.ldvOpt.wx.finish)
  · split
    · exact .ite h.leaveList.raise (.pure h.leaveList.acquire.wx.finish)
    · exact .stop h.parkAt

theorem State.PlLegal.next_execLdvEq (h : s.PlLegal) {d a b} : PlNext (execLdvEq d a b s) := Ends.conclude h.ldv

theorem State.PlLegal.next_execLdvLe (h : s.PlLegal) {d a b} : PlNext (execLdvLe d a b s) := Ends.conclude h.ldv

theorem State.PlLegal.next_execStv (h : s.PlLegal) {t a b} : PlNext (execStv t a b s) :=
  Ends.conclude (h.illInHandler.bind fun _ _ => h.checkVersion.bind fun _ _ => h.fabricWaits.bind fun _ _ => .ite
    (.ite h.noRoom (.pure h.setVersions.finish)) (h.waitCovered.bind fun _ h4 => .ite h4.raise
      (.ite h4.again (.pure h4.setVersions.finish))))

theorem State.PlLegal.next_execVld (h : s.PlLegal) {d a o w i} : PlNext (execVld d a o w i s) := by
  unfold execVld
  dsimp only
  exact Ends.conclude (h.load.bind fun ⟨_, _⟩ h1 => .pure h1.wv.finish)

theorem State.PlLegal.next_execVst (h : s.PlLegal) {t a o w i} : PlNext (execVst t a o w i s) :=
  Ends.conclude (h.store.bind fun _ h1 => .pure h1.finish)

theorem State.PlLegal.checkLanes (h : s.PlLegal) {base idx n store} (l : List Nat) :
    PlTries (fun _ => True) (s.checkLanes base idx n store l) := by
  induction l with
  | nil => exact .pure trivial
  | cons i l ih => exact h.checkAccess.bind fun _ _ => ih

theorem State.PlLegal.waitLanes (h : s.PlLegal) {base idx n store home} (l : List Nat) :
    PlTries (fun _ => True) (s.waitLanes base idx n store home l) := by
  induction l with
  | nil => exact .pure trivial
  | cons i l ih => exact h.localWaits.bind fun _ _ => h.fabricWaits.bind fun _ _ => ih

theorem State.PlLegal.readLanes (h : s.PlLegal) {base idx n strong} (l : List Nat) :
    PlTries (fun r => r.1.PlLegal) (s.readLanes base idx n strong l) := by
  induction l generalizing s with
  | nil => exact .pure h
  | cons i l ih => exact h.readBytes.bind fun ⟨_, _⟩ h1 => (ih h1).bind fun ⟨_, _⟩ h2 => .pure h2

theorem State.PlLegal.next_execVgth (h : s.PlLegal) {d a b p o z} : PlNext (execVgth d a b p o z s) := by
  unfold execVgth
  dsimp only
  exact Ends.conclude ((h.checkLanes _).bind fun _ _ => (h.waitLanes _).bind fun _ _ => .ite
    (h.waitCovered.bind fun _ h3 => (h3.readLanes _).bind fun ⟨_, _⟩ h4 => .pure (h4.acquire.ite h4).writeV.finish)
      ((h.readLanes _).bind fun ⟨_, _⟩ h3 => .pure (h3.acquire.ite h3).writeV.finish))

theorem State.PlLegal.writeLanes (h : s.PlLegal) {base idx data n o} (l : List Nat) :
    PlTries State.PlLegal (s.writeLanes base idx data n o l) := by
  induction l generalizing s with
  | nil => exact .pure h
  | cons i l ih => exact h.writeBytes.bind fun _ h1 => ih h1

theorem State.PlLegal.splitLanes (h : s.PlLegal) {base idx n} (l : List Nat) :
    PlTries (fun _ => True) (s.splitLanes base idx n l) := by
  induction l with
  | nil => exact .pure trivial
  | cons i l ih => exact h.writeNow.bind fun _ _ => ih.bind fun ⟨_, _⟩ _ => .pure trivial

theorem State.PlLegal.endScatter (h : s.PlLegal) : s.endScatter.PlLegal := (h.acquire.mod (fun _ k => k.same)).finish

theorem State.PlLegal.next_execVsct (h : s.PlLegal) {d a b p o z} : PlNext (execVsct d a b p o z s) := by
  unfold execVsct
  refine Ends.conclude ((h.splitLanes _).bind fun ⟨_, _⟩ h1 => (h.checkLanes _).bind fun _ _ => .ite
    ((h.waitLanes _).bind fun _ _ => h.waitCovered.bind fun _ h4 => ?_) ((h.waitLanes _).bind fun _ _ => .ite
      (h.waitCovered.bind fun _ h4 => .ite ((h4.writeLanes _).bind fun _ h5 => .pure h5.finish)
        (h4.deferAction.bind fun _ h5 => (h5.writeLanes _).bind fun _ h6 => .pure h6.finish))
          (.ite ((h.writeLanes _).bind fun _ h4 => .pure h4.finish) (h.deferAction.bind fun _ h4 => (h4.writeLanes _).bind fun _ h5 =>
            .pure h5.finish))))
  split
  · exact .pure h4.endScatter
  · exact (h4.writeLanes _).bind fun _ h5 => .ite (.pure h5.endScatter) (h5.mod (fun _ k => k.same)).again

theorem State.PlLegal.fetchWord (h : s.PlLegal) {x} : PlGives (fun r => r.1.PlLegal) (s.fetchWord x) := by
  unfold State.fetchWord
  dsimp only
  split
  · trivial
  · split
    · trivial
    · rename_i e
      refine .ite (.stop trivial) (.pure ?_)
      split at e
      · split at e
        · cases e
          exact h.homeLine.ok ‹_›
        · cases e
      · exact h.l1Read.ok e

theorem State.PlLegal.wordAt (h : s.PlLegal) {x} : (s.wordAt x).1.PlLegal := by
  unfold State.wordAt
  split
  · exact h.fetchWord.ok ‹_›
  · exact h

end

end Sys2Proof.Machine
end

section
/-! PROOFS. Privilege levels: remote accesses keep the levels legal (Sys2Proof/Machine/Remote.lean). -/

set_option Elab.async false

namespace Sys2Proof.Machine

section
variable {s t : State} {c : Ctx}

theorem State.PlLegal.needCap (h : s.PlLegal) {c perm ea n} : PlTries (fun _ => True) (s.needCap c perm ea n) := by
  unfold State.needCap
  split
  · exact h.raise
  · exact .pure trivial

theorem State.PlLegal.next_execCapld (h : s.PlLegal) {c a} : PlNext (execCapld c a s) := by
  unfold execCapld
  refine Ends.conclude (h.require.bind fun _ _ => h.checkHome.bind fun _ _ => h.require.bind fun _ _ => h.localWaits.bind fun _ _ =>
    h.fabricWaits.bind fun _ _ => ?_)
  dsimp only
  split
  · exact h.memBank.bind fun ⟨_, _⟩ h6 => .pure h6.wc.finish
  · exact (h.precise h.homeCap).bind fun ⟨_, _⟩ h6 => .pure h6.wc.finish

theorem State.PlLegal.next_execCapst (h : s.PlLegal) {c a} : PlNext (execCapst c a s) :=
  Ends.conclude (h.writeNow.bind fun _ _ => h.require.bind fun _ _ => h.checkHome.bind fun _ _ => h.require.bind fun _ _ => .ite
    (h.localWaits.bind fun _ _ => h.fabricWaits.bind fun _ _ => h.waitCovered.bind fun _ h7 =>
      (h7.syncLoc.precise h7.syncLoc.homeModify).bind fun _ h8 => .pure h8.acquire.finish)
        (h.deferAction.bind fun _ h5 => .pure h5.finish))

theorem State.PlLegal.next_execCapnar (h : s.PlLegal) {c e b} : PlNext (execCapnar c e b s) := by
  unfold execCapnar
  refine Ends.conclude (h.require.bind fun _ _ => ?_)
  split
  · exact h.raise
  · exact h.require.bind fun _ _ => .pure h.wc.finish

theorem State.PlLegal.next_execCapsetCur (h : s.PlLegal) {c e b} : PlNext (execCapsetCur c e b s) := h.wc.finish.next

theorem State.PlLegal.next_execCapsetPerm (h : s.PlLegal) {c e b} : PlNext (execCapsetPerm c e b s) := h.wc.finish.next

theorem State.PlLegal.next_execCapsetMint (h : s.PlLegal) {c a b} : PlNext (execCapsetMint c a b s) :=
  PlNext.ite h.faultOut h.wc.finish.next

theorem State.PlLegal.next_execCapget (h : s.PlLegal) {d c k} : PlNext (execCapget d c k s) := h.result

theorem State.PlLegal.waitPosted (h : s.PlLegal) {p} : PlTries State.PlLegal (s.waitPosted p) := by
  unfold State.waitPosted
  split
  · exact .ite h.again (.pure h.syncTarget)
  · exact .pure h

theorem State.PlLegal.remoteFe (h : s.PlLegal) {p k op} (hk : ∀ l, PlTries State.PlLegal (k l)) : PlTries State.PlLegal
    (s.remoteFe p k op) := by
  unfold State.remoteFe
  split
  · split
    · exact h.raise
    · exact hk _
  · exact .pure h.submit

theorem State.PlLegal.next_execRld (h : s.PlLegal) {d c z o w i} : PlNext (execRld d c z o w i s) :=
  Ends.conclude (.ite (h.illInOpt.bind fun _ _ => h.needCap.bind fun _ _ => h.waitWc.bind fun _ _ => .ite
    (h.waitCovered.bind fun _ h4 => h4.waitPosted.bind fun _ h5 => .ite (h5.remoteFe (fun _ => h5.take)) (.pure h5.submit))
      (h.waitPosted.bind fun _ h4 => .ite (h4.remoteFe (fun _ => h4.take)) (.pure h4.submit)))
        (h.needCap.bind fun _ _ => h.waitWc.bind fun _ _ => .ite (h.waitCovered.bind fun _ h3 => h3.waitPosted.bind fun _ h4 => .ite
          (h4.remoteFe (fun _ => h4.take)) (.pure h4.submit)) (h.waitPosted.bind fun _ h3 => .ite (h3.remoteFe (fun _ => h3.take))
            (.pure h3.submit))))

theorem State.PlLegal.next_execRst (h : s.PlLegal) {t c z o w i} : PlNext (execRst t c z o w i s) :=
  Ends.conclude (h.illInHandler.bind fun _ _ => .ite (h.illInOpt.bind fun _ _ => h.needCap.bind fun _ _ => .ite
    (h.deferAction.bind fun _ h4 => .pure h4.finish) (h.waitWc.bind fun _ _ => .ite
      (h.waitCovered.bind fun _ h5 => .ite (h5.remoteFe (fun _ => h5.give))
        (.ite (.pure h5.syncTarget.submit) (.pure h5.syncTarget.post.finish)))
          (.ite (h.remoteFe (fun _ => h.give)) (.ite (.pure h.syncTarget.submit) (.pure h.syncTarget.post.finish)))))
            (h.needCap.bind fun _ _ => .ite (h.deferAction.bind fun _ h3 => .pure h3.finish)
              (h.waitWc.bind fun _ _ => .ite (h.waitCovered.bind fun _ h4 => .ite (h4.remoteFe (fun _ => h4.give))
                (.ite (.pure h4.syncTarget.submit) (.pure h4.syncTarget.post.finish)))
                  (.ite (h.remoteFe (fun _ => h.give)) (.ite (.pure h.syncTarget.submit) (.pure h.syncTarget.post.finish))))))

theorem State.PlLegal.next_execGo (h : s.PlLegal) {d a} : PlNext (execGo d a s) := by
  unfold execGo
  dsimp only
  split
  · exact h.result
  · split
    · exact h.faultOut
    · split
      · exact h.faultOut
      · exact PlNext.ite (PlNext.ite h.result (h.forget.modDie.mod (fun _ k => k.same)).wx.finish.next)
          (PlNext.ite h.result (h.modDie.mod (fun _ k => k.same)).wx.finish.next)

theorem State.PlLegal.comeHome (h : s.PlLegal) {x} : (s.comeHome x).PlLegal := h.leaveGuest.backHome.modCtx (fun _ k => k.same)

theorem State.PlLegal.next_execHome (h : s.PlLegal) : PlNext (execHome s) := (h.comeHome.finish.ite h.finish).next

end

end Sys2Proof.Machine
end

section
/-! PROOFS. Privilege levels: fences, barriers and capabilities keep the levels legal (Sys2Proof/Machine/Sync.lean). -/

set_option Elab.async false

namespace Sys2Proof.Machine

section
variable {s t : State} {c : Ctx}

theorem State.PlLegal.postAmo (h : s.PlLegal) {p} : PlTries State.PlLegal (s.postAmo p) := .ite (.pure h.syncTarget.post.finish) h.again

theorem State.PlLegal.amo (h : s.PlLegal) {op d a b o nf ty} : PlNext (s.amo op d a b o nf ty) := by
  unfold State.amo
  refine Ends.conclude (.ite (h.illInHandler.bind fun _ _ => h.require.bind fun _ _ => h.checkHome.bind fun _ _ => h.require.bind fun _
    _ => .ite (h.deferAction.bind fun _ h5 => .pure h5.finish) (h.localWaits.bind fun _ h5 => ?_))
      (h.illInOpt.bind fun _ _ => h.require.bind fun _ _ => h.checkHome.bind fun _ _ => h.require.bind fun _ _ => .ite
        (h.deferAction.bind fun _ h5 => .pure h5.finish) (h.localWaits.bind fun _ h5 => ?_)))
  · dsimp only
    split
    · refine h.waitCovered.bind fun _ h6 => ?_
      split
      · exact .ite h6.postAmo (.pure h6.syncTarget.submit)
      · exact (h6.precise h6.homeAmo).bind fun ⟨_, _, _⟩ h7 => .ite (.pure (h7.mod (fun _ k => k.same)).finish)
          (.pure h7.orFlags.wx.acquire.finish)
    · split
      · exact .ite h.postAmo (.pure h.syncTarget.submit)
      · exact (h.precise h.homeAmo).bind fun ⟨_, _, _⟩ h6 => .ite (.pure (h6.mod (fun _ k => k.same)).finish)
          (.pure h6.orFlags.wx.finish)
  · dsimp only
    split
    · refine h.waitCovered.bind fun _ h6 => ?_
      split
      · exact .ite h6.postAmo (.pure h6.syncTarget.submit)
      · exact (h6.precise h6.homeAmo).bind fun ⟨_, _, _⟩ h7 => .ite (.pure (h7.mod (fun _ k => k.same)).finish)
          (.pure h7.orFlags.wx.acquire.finish)
    · split
      · exact .ite h.postAmo (.pure h.syncTarget.submit)
      · exact (h.precise h.homeAmo).bind fun ⟨_, _, _⟩ h6 => .ite (.pure (h6.mod (fun _ k => k.same)).finish)
          (.pure h6.orFlags.wx.finish)

theorem State.PlLegal.next_execAmoAdd (h : s.PlLegal) {d a b o n t} : PlNext (execAmoAdd d a b o n t s) := h.amo

theorem State.PlLegal.next_execAmoMin (h : s.PlLegal) {d a b o n t} : PlNext (execAmoMin d a b o n t s) := h.amo

theorem State.PlLegal.next_execAmoMax (h : s.PlLegal) {d a b o n t} : PlNext (execAmoMax d a b o n t s) := h.amo

theorem State.PlLegal.next_execAmoAnd (h : s.PlLegal) {d a b o n t} : PlNext (execAmoAnd d a b o n t s) := h.amo

theorem State.PlLegal.next_execAmoOr (h : s.PlLegal) {d a b o n t} : PlNext (execAmoOr d a b o n t s) := h.amo

theorem State.PlLegal.next_execAmoXor (h : s.PlLegal) {d a b o n t} : PlNext (execAmoXor d a b o n t s) := h.amo

theorem State.PlLegal.next_execAmoSwp (h : s.PlLegal) {d a b o t} : PlNext (execAmoSwp d a b o t s) := h.amo

theorem State.PlLegal.next_execAmoCas (h : s.PlLegal) {d a b o t} : PlNext (execAmoCas d a b o t s) := h.amo

theorem State.PlLegal.ramo (h : s.PlLegal) {op d c b o nf ty} : PlNext (s.ramo op d c b o nf ty) :=
  Ends.conclude (.ite (h.illInHandler.bind fun _ _ => h.needCap.bind fun _ _ => .ite (h.deferAction.bind fun _ h3 => .pure h3.finish)
    (.ite (h.waitCovered.bind fun _ h3 => .ite h3.postAmo (h3.waitPosted.bind fun _ h4 => .pure h4.submit))
      (.ite h.postAmo (h.waitPosted.bind fun _ h3 => .pure h3.submit)))) (h.illInOpt.bind fun _ _ => h.needCap.bind fun _ _ => .ite
        (h.deferAction.bind fun _ h3 => .pure h3.finish) (.ite (h.waitCovered.bind fun _ h3 => .ite h3.postAmo
          (h3.waitPosted.bind fun _ h4 => .pure h4.submit)) (.ite h.postAmo (h.waitPosted.bind fun _ h3 => .pure h3.submit)))))

theorem State.PlLegal.next_execRamoAdd (h : s.PlLegal) {d c b o n t} : PlNext (execRamoAdd d c b o n t s) := h.ramo

theorem State.PlLegal.next_execRamoMin (h : s.PlLegal) {d c b o n t} : PlNext (execRamoMin d c b o n t s) := h.ramo

theorem State.PlLegal.next_execRamoMax (h : s.PlLegal) {d c b o n t} : PlNext (execRamoMax d c b o n t s) := h.ramo

theorem State.PlLegal.next_execRamoAnd (h : s.PlLegal) {d c b o n t} : PlNext (execRamoAnd d c b o n t s) := h.ramo

theorem State.PlLegal.next_execRamoOr (h : s.PlLegal) {d c b o n t} : PlNext (execRamoOr d c b o n t s) := h.ramo

theorem State.PlLegal.next_execRamoXor (h : s.PlLegal) {d c b o n t} : PlNext (execRamoXor d c b o n t s) := h.ramo

theorem State.PlLegal.next_execRamoSwp (h : s.PlLegal) {d c b o t} : PlNext (execRamoSwp d c b o t s) := h.ramo

theorem State.PlLegal.next_execRamoCas (h : s.PlLegal) {d c b o t} : PlNext (execRamoCas d c b o t s) := h.ramo

theorem State.PlLegal.fence (h : s.PlLegal) {v} : PlNext (s.fence v) :=
  Ends.conclude (h.waitCovered.bind fun _ h1 => .pure h1.acquire.finish)

theorem State.PlLegal.next_execFenceCell (h : s.PlLegal) : PlNext (execFenceCell s) := h.l1EvictAll.finish.next

theorem State.PlLegal.next_execFenceDom (h : s.PlLegal) : PlNext (execFenceDom s) := h.fence

theorem State.PlLegal.next_execFenceDie (h : s.PlLegal) : PlNext (execFenceDie s) := h.fence

theorem State.PlLegal.next_execFenceMod (h : s.PlLegal) : PlNext (execFenceMod s) := h.fence

theorem State.PlLegal.next_execFenceSys (h : s.PlLegal) : PlNext (execFenceSys s) := h.fence

theorem State.PlLegal.next_execFenceX (h : s.PlLegal) : PlNext (execFenceX s) :=
  Ends.conclude (h.l1WriteBackAll.takeDrop.bind fun _ h1 => .pure h1.finish)

theorem State.PlLegal.next_execFlagf (h : s.PlLegal) {c a} : PlNext (execFlagf c a s) :=
  Ends.conclude (h.illInHandler.bind fun _ _ => h.needCap.bind fun _ _ => .ite (h.deferAction.bind fun _ h3 => .pure h3.finish)
    (h.waitCovered.bind fun _ h3 => h3.acquire.postAmo))

theorem State.PlLegal.checkBarrier (h : s.PlLegal) {ea store} : PlTries (fun _ => True) (s.checkBarrier ea store) :=
  h.require.bind fun _ _ => h.checkHome.bind fun _ _ => h.require

theorem State.PlLegal.next_execBarArv (h : s.PlLegal) {d a} : PlNext (execBarArv d a s) :=
  Ends.conclude (h.illInOpt.bind fun _ _ => h.checkBarrier.bind fun _ _ => h.localWaits.bind fun _ _ => h.waitCovered.bind fun _ h4 =>
    .pure h4.syncTarget.submit)

theorem State.PlLegal.next_execBarExp (h : s.PlLegal) {a b} : PlNext (execBarExp a b s) :=
  Ends.conclude (h.illInOpt.bind fun _ _ => h.checkBarrier.bind fun _ _ => h.localWaits.bind fun _ _ => h.waitCovered.bind fun _ h4 =>
    .pure h4.syncTarget.submit)

theorem State.PlLegal.waitPhase (h : s.PlLegal) {l ea ph} : PlTries State.PlLegal (s.waitPhase l ea ph) := by
  unfold State.waitPhase
  dsimp only
  exact h.fabricWaits.bind fun _ _ => (h.syncLoc.precise h.syncLoc.phaseAt).bind fun ⟨_, _⟩ h2 => .ite (.stop h2.park)
    (.pure h2.acquire)

theorem State.PlLegal.next_execBarWt (h : s.PlLegal) {a b} : PlNext (execBarWt a b s) :=
  Ends.conclude (h.illInOpt.bind fun _ _ => h.checkBarrier.bind fun _ _ => h.localWaits.bind fun _ _ => h.waitPhase.bind fun _ h4 =>
    .pure h4.finish)

theorem State.PlLegal.endAw (h : s.PlLegal) {l ea ph} : PlTries State.PlLegal (s.endAw l ea ph) :=
  h.waitPhase.bind fun _ h1 => .pure (h1.mod (fun _ k => k.same)).finish

theorem State.PlLegal.next_execBarAw (h : s.PlLegal) {d a} : PlNext (execBarAw d a s) := by
  unfold execBarAw
  refine Ends.conclude (h.illInOpt.bind fun _ _ => ?_)
  dsimp only
  split
  · exact h.endAw
  · exact h.checkBarrier.bind fun _ _ => h.localWaits.bind fun _ _ => h.endAw
  · exact h.checkBarrier.bind fun _ _ => h.localWaits.bind fun _ _ => h.waitCovered.bind fun _ h4 => .pure h4.syncTarget.submit

theorem State.PlLegal.countDiscard (h : s.PlLegal) {cell} : (s.countDiscard cell).PlLegal := h.modCell

theorem State.PlLegal.invL1 (h : s.PlLegal) {lo hi} : (s.invL1 lo hi).PlLegal :=
  h.foldl (fun _ _ h1 => h1.ite (h1.countDiscard.ite h1).l1Drop) _

theorem State.PlLegal.invL2 (h : s.PlLegal) {lo hi} : (s.invL2 lo hi).PlLegal :=
  h.foldl (fun _ _ h1 => h1.ite (h1.countDiscard.ite h1).modDie) _

theorem State.PlLegal.wbL1 (h : s.PlLegal) {lo hi} : (s.wbL1 lo hi).PlLegal := h.foldl (fun _ _ h1 => h1.l1WriteBack) _

theorem State.PlLegal.wbL2 (h : s.PlLegal) {lo hi} : (s.wbL2 lo hi).PlLegal := h.foldl (fun _ _ h1 => h1.dramWrite.modDie.ite h1) _

theorem State.PlLegal.rangeOp (h : s.PlLegal) {a b f} (hf : ∀ t lo hi, t.PlLegal → (f t lo hi).PlLegal) : PlNext (s.rangeOp a b f) := by
  unfold State.rangeOp
  split
  · exact h.finish.next
  · exact PlNext.ite h.faultOut (PlNext.ite h.stall.next (hf _ _ _ h).finish.next)

theorem State.PlLegal.next_execInv (h : s.PlLegal) {a b l} : PlNext (execInv a b l s) :=
  h.rangeOp (fun _ _ _ h1 => h1.invL1.invL2.ite h1.invL1)

theorem State.PlLegal.next_execWb (h : s.PlLegal) {a b l} : PlNext (execWb a b l s) :=
  h.rangeOp (fun _ _ _ h1 => h1.wbL1.wbL2.ite h1.wbL1)

theorem State.PlLegal.next_execWbinv (h : s.PlLegal) {a b l} : PlNext (execWbinv a b l s) :=
  h.rangeOp (fun _ _ _ h1 => h1.wbL1.wbL2.invL1.invL2.ite h1.wbL1.invL1)

theorem State.PlLegal.next_execPf (h : s.PlLegal) {a b l} : PlNext (execPf a b l s) := by
  unfold execPf
  dsimp only
  split
  · exact h.finish.next
  · refine (h.foldl (fun _ _ h1 => ?_) _).finish.next
    split
    · split
      · exact h1.homeLine.ok ‹_›
      · exact h1
    · split
      · exact h1
      · split
        · exact h1.l1Fill.ok ‹_›
        · exact h1

end

end Sys2Proof.Machine
end

section
/-! PROOFS. Privilege levels: engine requests keep the levels legal (Sys2Proof/Machine/Engine.lean). -/

set_option Elab.async false

namespace Sys2Proof.Machine

section
variable {s t : State} {c : Ctx}

theorem State.PlLegal.next_execMset (h : s.PlLegal) {a e} : PlNext (execMset a e s) := (h.mod (fun _ k => k.same)).finish.next

theorem State.PlLegal.next_execMget (h : s.PlLegal) {e d} : PlNext (execMget e d s) := h.result

theorem State.PlLegal.eachOperand (h : s.PlLegal) {l bad code} : PlTries (fun _ => True) (s.eachOperand l bad code) := by
  unfold State.eachOperand
  split
  · exact h.raise
  · exact .pure trivial

theorem State.PlLegal.checkOperands (h : s.PlLegal) {l} : PlTries (fun _ => True) (s.checkOperands l) :=
  h.eachOperand.bind fun _ _ => h.eachOperand.bind fun _ _ => h.eachOperand.bind fun _ _ => h.eachOperand.bind fun _ _ => h.eachOperand

theorem State.PlLegal.needTile (h : s.PlLegal) {tile} : PlTries (fun _ => True) (s.needTile tile) := h.require

theorem State.PlLegal.needAnyTile (h : s.PlLegal) : PlTries (fun _ => True) s.needAnyTile := h.require

theorem State.PlLegal.enqueue (h : s.PlLegal) {cell op} : (s.enqueue cell op).PlLegal := h.modCell

theorem State.PlLegal.acceptOp (h : s.PlLegal) {kind reads writes cycles} : PlTries State.PlLegal (s.acceptOp kind reads writes cycles)
    := by
  unfold State.acceptOp
  dsimp only
  split
  · exact .pure h.enqueue
  · split
    · exact .stop h.stall
    · exact h.again

theorem State.PlLegal.timed (h : s.PlLegal) {n} : PlTries (fun _ => True) (s.timed n) := by
  unfold State.timed
  split
  · exact .ite (.pure trivial) (.stop h.stall)
  · exact .stop h.stall

theorem State.PlLegal.next_execMma (h : s.PlLegal) {a b d} : PlNext (execMma a b d s) :=
  Ends.conclude (h.needTile.bind fun _ _ => h.checkOperands.bind fun _ _ => .ite
    (h.timed.bind fun _ _ => h.require.bind fun _ _ => h.acceptOp.bind fun _ h5 => .pure h5.finish)
      (h.acceptOp.bind fun _ h3 => .pure h3.finish))

theorem State.PlLegal.next_execMzero (h : s.PlLegal) {d} : PlNext (execMzero d s) :=
  Ends.conclude (h.needTile.bind fun _ _ => h.acceptOp.bind fun _ h2 => .pure h2.finish)

theorem State.PlLegal.next_execMlda (h : s.PlLegal) {a d} : PlNext (execMlda a d s) :=
  Ends.conclude (h.needTile.bind fun _ _ => h.checkOperands.bind fun _ _ => h.acceptOp.bind fun _ h3 => .pure h3.finish)

theorem State.PlLegal.next_execMsta (h : s.PlLegal) {a d} : PlNext (execMsta a d s) :=
  Ends.conclude (h.needTile.bind fun _ _ => h.checkOperands.bind fun _ _ => h.acceptOp.bind fun _ h3 => .pure h3.finish)

theorem State.PlLegal.freeLatch (h : s.PlLegal) {cell} : (s.freeLatch cell).PlLegal := h.modCell

theorem State.PlLegal.next_execMldb (h : s.PlLegal) {a b} : PlNext (execMldb a b s) :=
  Ends.conclude ((h.freeLatch.ite h).needAnyTile.bind fun _ _ => (h.freeLatch.ite h).checkOperands.bind fun _ _ => .ite
    (h.timed.bind fun _ _ => .ite (h.freeLatch.ite h).raise (h.acceptOp.bind fun _ h4 => .pure
      (h4.modCell.reportCtx.ite h4.modCell).finish)) (.ite (.stop h.modCell.stall) h.again))

theorem State.PlLegal.next_execMrot (h : s.PlLegal) : PlNext (execMrot s) :=
  Ends.conclude (h.needAnyTile.bind fun _ _ => h.acceptOp.bind fun _ h2 => .pure h2.finish)

theorem State.PlLegal.next_execQcvt (h : s.PlLegal) {a b d} : PlNext (execQcvt a b d s) :=
  Ends.conclude (h.checkOperands.bind fun _ _ => .ite (.pure h.wx.finish) (h.acceptOp.bind fun _ h2 => .pure h2.wx.finish))

theorem State.PlLegal.next_execQchk (h : s.PlLegal) {a b d} : PlNext (execQchk a b d s) :=
  Ends.conclude (h.checkOperands.bind fun _ _ => .ite (.halt h.again) (h.timed.bind fun _ _ => .ite (.halt h.raise)
    (.pure h.chargeNow.wx.finish)))

theorem State.PlLegal.next_execQchkW (h : s.PlLegal) {a b} : PlNext (execQchkW a b s) :=
  Ends.conclude (h.checkOperands.bind fun _ _ => h.acceptOp.bind fun _ h2 => .pure h2.finish)

theorem State.PlLegal.next_execQstat (h : s.PlLegal) {a d} : PlNext (execQstat a d s) :=
  Ends.conclude (h.checkOperands.bind fun _ _ => .ite (.halt h.again) (.ite (.halt h.again) (.ite (.halt h.raise) (.pure h.wx.finish))))

end

end Sys2Proof.Machine
end

section
/-! PROOFS. Privilege levels: the engines keep the levels legal (Sys2Proof/Machine/EngineRun.lean). -/

set_option Elab.async false

namespace Sys2Proof.Machine

section
variable {s t : State} {c : Ctx}

theorem State.PlLegal.next_execEngineOpStart (h : s.PlLegal) {cell conv} : PlNext (execEngineOpStart cell conv s) :=
  PlNext.ite h.modCell.next h.next

theorem State.PlLegal.takeSeq (h : s.PlLegal) {cell} : (s.takeSeq cell).2.PlLegal := h.modCell

theorem State.PlLegal.reportOp (h : s.PlLegal) {cell o code src info} : (s.reportOp cell o code src info).PlLegal := by
  unfold State.reportOp
  exact h.report

theorem State.PlLegal.mergeFlags (h : s.PlLegal) {x f} : (s.mergeFlags x f).PlLegal := by
  unfold State.mergeFlags
  split
  · exact h.modCtx (fun _ k => k.same)
  · exact h

theorem State.PlLegal.matrixDone (h : s.PlLegal) {cell o fl} : (s.matrixDone cell o fl).PlLegal := by
  unfold State.matrixDone
  dsimp only
  split
  · exact h
  · exact h.takeSeq.deliverGen

theorem State.PlLegal.wakeTile (h : s.PlLegal) {cell} : (s.wakeTile cell).PlLegal := by
  refine h.mapCtxs rfl rfl fun p k => ?_
  split
  · split
    · exact k.same
    · exact k
  · exact k

theorem State.PlLegal.next_execEngineOpRetire (h : s.PlLegal) {cell conv} : PlNext (execEngineOpRetire cell conv s) := by
  unfold execEngineOpRetire
  dsimp only
  split
  · exact h.next
  · split
    · exact h.next
    · exact PlNext.ite h.next ((h.modCell.mergeFlags.ite h.modCell).reportOp.ite
        (h.modCell.mergeFlags.ite h.modCell)).chargeNow.matrixDone.wakeTile.next

theorem State.PlLegal.classReport (h : s.PlLegal) {c cls kind d0 addr info} : (s.classReport c cls kind d0 addr info).PlLegal :=
  h.modCell.deliverGen

theorem State.PlLegal.refuseCommand (h : s.PlLegal) {f code} : (s.refuseCommand f code).PlLegal := by
  unfold State.refuseCommand
  dsimp only
  split
  · exact h.report
  · exact h.report.classReport

theorem State.PlLegal.commandAt (h : s.PlLegal) {n f cap} : (s.commandAt n f cap).PlLegal := by
  unfold State.commandAt
  dsimp only
  split
  · exact h.same.refuseCommand
  · exact h.same.ite h.same.enqueue

theorem State.PlLegal.next_execMatrixCommand (h : s.PlLegal) {msg} : PlNext (execMatrixCommand msg s) := by
  unfold execMatrixCommand
  split
  · exact h.next
  · split
    · exact h.next
    · exact PlNext.ite h.next h.commandAt.next

theorem State.PlLegal.reportSend (h : s.PlLegal) {cell o} : (s.reportSend cell o).PlLegal := h.reportOp

theorem State.PlLegal.next_execMrotSendBegin (h : s.PlLegal) {cell} : PlNext (execMrotSendBegin cell s) := by
  unfold execMrotSendBegin
  dsimp only
  split
  · exact h.next
  · exact PlNext.ite h.next (PlNext.ite h.modCell.reportSend.next (PlNext.ite h.next h.modCell.modCell.next))

theorem State.PlLegal.next_execLatchTransferEnd (h : s.PlLegal) {cell} : PlNext (execLatchTransferEnd cell s) := by
  unfold execLatchTransferEnd
  dsimp only
  split
  · exact h.next
  · exact PlNext.ite h.next h.modCell.modCell.next

theorem State.PlLegal.next_execLatchSwap (h : s.PlLegal) {cell} : PlNext (execLatchSwap cell s) := by
  unfold execLatchSwap
  dsimp only
  split
  · split
    · exact h.modCell.chargeNow.next
    · exact h.next
  · exact h.next

theorem State.PlLegal.latchReset (h : s.PlLegal) {cell} : (s.latchReset cell).PlLegal := by
  unfold State.latchReset
  dsimp only
  split
  · split
    · split
      · exact (h.foldl (fun _ _ h1 => h1.chargeNow) _).modCell.modCell.reportSend.modCell.reportSend
      · exact (h.foldl (fun _ _ h1 => h1.chargeNow) _).modCell.modCell.modCell.reportSend
    · exact (h.foldl (fun _ _ h1 => h1.chargeNow) _).modCell.modCell.reportSend
  · split
    · split
      · exact (h.foldl (fun _ _ h1 => h1.chargeNow) _).modCell.modCell.reportSend
      · exact (h.foldl (fun _ _ h1 => h1.chargeNow) _).modCell.modCell
    · exact (h.foldl (fun _ _ h1 => h1.chargeNow) _).modCell

end

end Sys2Proof.Machine
end

section
/-! PROOFS. Privilege levels: copies keep the levels legal (Sys2Proof/Machine/Copy.lean). -/

set_option Elab.async false

namespace Sys2Proof.Machine

section
variable {s t : State} {c : Ctx}

theorem State.PlLegal.eachRow (h : s.PlLegal) {rows bad} : PlTries (fun _ => True) (s.eachRow rows bad) := by
  unfold State.eachRow
  split
  · exact h.raise
  · exact .pure trivial

theorem State.PlLegal.checkCapRows (h : s.PlLegal) {cap perm first rows len} : PlTries (fun _ => True)
    (s.checkCapRows cap perm first rows len) := by
  unfold State.checkCapRows
  split
  · exact .pure trivial
  · exact h.require.bind fun _ _ => h.require.bind fun _ _ => h.eachRow.bind fun _ _ => h.eachRow

theorem State.PlLegal.checkCopy (h : s.PlLegal) {r} : PlTries (fun _ => True) (s.checkCopy r) := by
  unfold State.checkCopy
  refine .ite (h.capRead.bind fun _ _ => h.checkCapRows.bind fun _ _ => .ite
    (h.capRead.bind fun _ _ => h.checkCapRows.bind fun _ _ => h.eachRow.bind fun _ _ => h.require.bind fun _ _ => h.eachRow.bind fun _ _
      => ?_) (h.checkCapRows.bind fun _ _ => h.eachRow.bind fun _ _ => h.require.bind fun _ _ => h.eachRow.bind fun _ _ => ?_))
        (h.checkCapRows.bind fun _ _ => .ite (h.capRead.bind fun _ _ => h.checkCapRows.bind fun _ _ => h.eachRow.bind fun _ _ =>
          h.require.bind fun _ _ => h.eachRow.bind fun _ _ => ?_) (h.checkCapRows.bind fun _ _ => h.eachRow.bind fun _ _ =>
            h.require.bind fun _ _ => h.eachRow.bind fun _ _ => ?_))
  · dsimp only
    split
    · exact h.require.bind fun _ _ => h.eachRow.bind fun _ _ => h.eachRow
    · exact h.eachRow.bind fun _ _ => h.eachRow
  · dsimp only
    split
    · exact h.require.bind fun _ _ => h.eachRow.bind fun _ _ => h.eachRow
    · exact h.eachRow.bind fun _ _ => h.eachRow
  · dsimp only
    split
    · exact h.require.bind fun _ _ => h.eachRow.bind fun _ _ => h.eachRow
    · exact h.eachRow.bind fun _ _ => h.eachRow
  · dsimp only
    split
    · exact h.require.bind fun _ _ => h.eachRow.bind fun _ _ => h.eachRow
    · exact h.eachRow.bind fun _ _ => h.eachRow

theorem State.PlLegal.fillMailbox (h : s.PlLegal) {cell m r} : (s.fillMailbox cell m r).PlLegal := by
  unfold State.fillMailbox
  dsimp only
  split
  · exact h.same.modCell.modCtx (fun _ k => k.same)
  · exact h.same.modCell

theorem State.PlLegal.copyReq (h : s.PlLegal) {kind m a b d} : PlNext (s.copyReq kind m a b d) := by
  unfold State.copyReq
  refine Ends.conclude (h.illInHandler.bind fun _ _ => h.require.bind fun _ _ => h.require.bind fun _ _ => h.require.bind fun _ _ =>
    h.require.bind fun _ _ => h.localWaits.bind fun _ _ => h.require.bind fun _ _ => ?_)
  dsimp only
  generalize dwordAt _ 7 = ctl
  split
  · exact h.require.bind fun _ _ => .ite (.pure h.wx.finish) (h.checkCopy.bind fun _ _ =>
      .ite (h.deferAction.bind fun _ h1 => .pure h1.wx.finish) (.ite (.halt h.again) (.pure h.fillMailbox.wx.finish)))
  · exact (Ends.pure (P := fun _ => True) trivial).bind fun _ _ => .ite (.pure h.wx.finish) (h.checkCopy.bind fun _ _ =>
      .ite (h.deferAction.bind fun _ h1 => .pure h1.wx.finish) (.ite (.halt h.again) (.pure h.fillMailbox.wx.finish)))

theorem State.PlLegal.next_execCpy (h : s.PlLegal) {m a b d} : PlNext (execCpy m a b d s) := h.copyReq

theorem State.PlLegal.next_execCpg (h : s.PlLegal) {m a b d} : PlNext (execCpg m a b d s) := h.copyReq

theorem State.PlLegal.next_execCps (h : s.PlLegal) {m a b d} : PlNext (execCps m a b d s) := h.copyReq

theorem State.PlLegal.next_execCpr (h : s.PlLegal) {m a b d} : PlNext (execCpr m a b d s) := h.copyReq

theorem State.PlLegal.next_execCpq (h : s.PlLegal) {d} : PlNext (execCpq d s) := h.result

theorem State.PlLegal.modRun (h : s.PlLegal) {cell id f} : (s.modRun cell id f).PlLegal := h.modCell

theorem State.PlLegal.readSide (h : s.PlLegal) {cell r} (l : List (Nat × Nat)) : PlGives (fun r => r.1.PlLegal) (s.readSide cell r l) :=
    by
  induction l generalizing s with
  | nil => exact .pure h
  | cons p l ih =>
    obtain ⟨a, n⟩ := p
    unfold State.readSide
    split
    · trivial
    · split
      · exact h.homeRead.bind fun ⟨_, _⟩ h1 => (ih h1).bind fun ⟨_, _⟩ h2 => .pure h2
      · exact (ih h.freeBytes).bind fun ⟨_, _⟩ h1 => .pure h1

theorem State.PlLegal.dropOwn (h : s.PlLegal) {cell r l} : (s.dropOwn cell r l).PlLegal := by
  unfold State.dropOwn
  split
  · exact h.l1Sync.ite h
  · exact h

theorem State.PlLegal.writePieces (h : s.PlLegal) {cell r} (l : List (Nat × List Byte)) :
    PlGives State.PlLegal (s.writePieces cell r l) := by
  induction l generalizing s with
  | nil => exact .pure h
  | cons p l ih =>
    obtain ⟨a, bs⟩ := p
    unfold State.writePieces
    split
    · split
      · trivial
      · exact h.dropOwn.homeWrite.bind fun _ h1 => ih h1
    · exact ih h

theorem State.PlLegal.landReport (h : s.PlLegal) {p} : (s.landReport p).PlLegal := by
  unfold State.landReport
  split
  · exact (h.perform.fst ‹_›).report
  · exact h.perform.fst ‹_›

theorem State.PlLegal.reportBytes (h : s.PlLegal) {cell c n} : (s.reportBytes cell c n).PlLegal := by
  unfold State.reportBytes
  dsimp only
  exact h.ite (h.dropOwn.takeHold.same.ite h.dropOwn.takeHold.landReport)

theorem State.PlLegal.failStep (h : s.PlLegal) {cell id code addr} : (s.failStep cell id code addr).PlLegal := by
  unfold State.failStep
  dsimp only
  split
  · exact h
  · exact h.ite h.modRun.modCell.report

theorem State.PlLegal.next_execStagehandTakeRequest (h : s.PlLegal) {cell} : PlNext (execStagehandTakeRequest cell s) := by
  unfold execStagehandTakeRequest
  dsimp only
  split
  · exact h.next
  · split
    · exact h.next
    · exact h.modCell.next

theorem State.PlLegal.startCopy (h : s.PlLegal) {cell c} : (s.startCopy cell c).PlLegal := by
  unfold State.startCopy
  dsimp only
  split
  · exact h.ite (h.failStep.ite h.modRun)
  · exact h.modRun

theorem State.PlLegal.stepPacket (h : s.PlLegal) {cell c k cap a op} : (s.stepPacket cell c k cap a op).PlLegal :=
  (h.same.sendPeer.ite h.same).modRun

theorem State.PlLegal.takeOff (h : s.PlLegal) {cell c k bs} : (s.takeOff cell c k bs).PlLegal := h.same.modRun

theorem State.PlLegal.flyStep (h : s.PlLegal) {cell c k bs} : (s.flyStep cell c k bs).PlLegal := by
  unfold State.flyStep
  dsimp only
  split
  · exact h.failStep
  · exact (h.stepPacket.ite h).takeOff

theorem State.PlLegal.sourceRead (h : s.PlLegal) {cell c k bs} : (s.sourceRead cell c k bs).PlLegal := h.modRun.ite h.flyStep

theorem State.PlLegal.turnElement (h : s.PlLegal) {cell c e code} : (s.turnElement cell c e code).PlLegal := h.modRun.failStep

theorem State.PlLegal.sendElement (h : s.PlLegal) {cell c bs e} : (s.sendElement cell c bs e).PlLegal := by
  unfold State.sendElement
  split
  · exact h.turnElement
  · exact h.stepPacket

theorem State.PlLegal.stepOut (h : s.PlLegal) {cell c} : (s.stepOut cell c).PlLegal := by
  unfold State.stepOut
  dsimp only
  split
  · split
    · exact h.modRun
    · split
      · exact State.PlLegal.foldl h.modRun.takeOff (fun _ _ h1 => h1.sendElement) _
      · exact h.modRun.takeOff
  · split
    · split
      · exact h.modRun.modRun.failStep
      · exact h.modRun.modRun.stepPacket
    · split
      · exact h.modRun.modRun.failStep
      · rename_i e
        exact (Ends.of_ok e (h.modRun.modRun.readSide _)).sourceRead

theorem State.PlLegal.next_execCopyStep (h : s.PlLegal) {cell copy} : PlNext (execCopyStep cell copy s) := by
  unfold execCopyStep
  dsimp only
  split
  · exact h.next
  · split
    · split
      · exact PlNext.ite (h.modCell.ite h.modCell.startCopy).stepOut.next (h.modCell.ite h.modCell.startCopy).next
      · exact (h.modCell.ite h.modCell.startCopy).next
    · exact h.next

theorem State.PlLegal.next_execCprChunkRead (h : s.PlLegal) {cell copy} : PlNext (execCprChunkRead cell copy s) := by
  unfold execCprChunkRead
  split
  · exact h.next
  · exact PlNext.ite h.modRun.next h.next

theorem State.PlLegal.landStep (h : s.PlLegal) {cell c k n} : (s.landStep cell c k n).PlLegal := (h.ite h.reportBytes).modRun

theorem State.PlLegal.settleStep (h : s.PlLegal) {cell c k bs} : (s.settleStep cell c k bs).PlLegal := by
  unfold State.settleStep
  split
  · exact h.modRun.failStep
  · refine ((h.writePieces _).ok ‹_›).modRun.foldl (fun _ _ h1 => ?_) _
    split
    · exact h1.landStep
    · exact h1

theorem State.PlLegal.dropStepPacket (h : s.PlLegal) {cell c k n} : (s.dropStepPacket cell c k n).PlLegal := h.same.modRun

theorem State.PlLegal.peerStep (h : s.PlLegal) {cell c k n} : (s.peerStep cell c k n).PlLegal := by
  unfold State.peerStep
  dsimp only
  split
  · exact h.dropStepPacket.settleStep
  · exact h.dropStepPacket.freeBytes.sourceRead
  · exact h.dropStepPacket.modRun.failStep
  · exact h

theorem State.PlLegal.next_execCopyStepLanded (h : s.PlLegal) {cell copy idx} : PlNext (execCopyStepLanded cell copy idx s) := by
  unfold execCopyStepLanded
  split
  · exact h.next
  · split
    · exact h.next
    · split
      · exact h.peerStep.next
      · exact PlNext.ite h.next h.settleStep.next
      · exact h.next

theorem State.PlLegal.next_execCopyStepRefusal (h : s.PlLegal) {cell copy idx code addr} : PlNext
    (execCopyStepRefusal cell copy idx code addr s) := by
  unfold execCopyStepRefusal
  dsimp only
  split
  · exact h.next
  · split
    · exact h.next
    · split
      · exact h.next
      · split
        · split
          · split
            · exact h.dropStepPacket.modRun.failStep.next
            · exact h.modRun.failStep.next
          · exact h.next
        · split
          · exact h.next
          · exact h.settleStep.next

theorem State.PlLegal.doElement (h : s.PlLegal) {cell r a v} : PlGives (fun r => r.1.PlLegal) (s.doElement cell r a v) := by
  unfold State.doElement
  dsimp only
  split
  · exact .stop trivial
  · split
    · exact .stop trivial
    · split
      · exact h.dropOwn.homeAmo.bind fun ⟨_, _, _⟩ h1 => .pure h1
      · exact .pure h

theorem State.PlLegal.settleElements (h : s.PlLegal) {cell copy k} : (s.settleElements cell copy k).PlLegal := by
  unfold State.settleElements
  split
  · exact h
  · exact h.landStep.ite (h.modRun.ite h)

theorem State.PlLegal.endElement (h : s.PlLegal) {cell c e r} : (s.endElement cell c e r).PlLegal := by
  unfold State.endElement
  dsimp only
  split
  · exact h.modRun.settleElements
  · exact h.turnElement.settleElements

theorem State.PlLegal.peerElement (h : s.PlLegal) {cell c e n} : (s.peerElement cell c e n).PlLegal := by
  unfold State.peerElement
  split
  · exact h.dropStepPacket.endElement
  · exact h.dropStepPacket.endElement
  · exact h

theorem State.PlLegal.next_execCprElementAck (h : s.PlLegal) {cell copy elt} : PlNext (execCprElementAck cell copy elt s) := by
  unfold execCprElementAck
  split
  · exact h.next
  · split
    · exact h.next
    · split
      · split
        · exact h.peerElement.next
        · split
          · exact h.next
          · split
            · exact (h.doElement.ok ‹_›).endElement.next
            · exact h.endElement.next
      · exact h.next

theorem State.PlLegal.chargePass (h : s.PlLegal) {cell c} : (s.chargePass cell c).PlLegal := h.chargeNow.modRun

theorem State.PlLegal.next_execCopyPassEnd (h : s.PlLegal) {cell copy} : PlNext (execCopyPassEnd cell copy s) := by
  unfold execCopyPassEnd
  dsimp only
  split
  · exact h.next
  · exact PlNext.ite h.chargePass.modRun.next h.next

theorem State.PlLegal.next_execCopyReplayTimer (h : s.PlLegal) {cell copy} : PlNext (execCopyReplayTimer cell copy s) := by
  unfold execCopyReplayTimer
  split
  · exact h.next
  · split
    · exact h.next
    · exact PlNext.ite h.next h.modRun.next

theorem State.PlLegal.copyMessage (h : s.PlLegal) {cell c} : (s.copyMessage cell c).PlLegal := h.modCell.deliverGen.ite h

theorem State.PlLegal.endCopy (h : s.PlLegal) {cell c} : (s.endCopy cell c).PlLegal := by
  unfold State.endCopy
  dsimp only
  split
  · exact h.modCell.modCtx (fun _ k => k.same)
  · exact h.modCell

theorem State.PlLegal.nextChunk (h : s.PlLegal) {cell c} : (s.nextChunk cell c).PlLegal := h.modRun.ite h

theorem State.PlLegal.next_execCopyRetire (h : s.PlLegal) {cell copy} : PlNext (execCopyRetire cell copy s) := by
  unfold execCopyRetire
  dsimp only
  split
  · exact h.next
  · split
    · exact h.nextChunk.next
    · exact PlNext.ite h.nextChunk.modCell.endCopy.copyMessage.next (PlNext.ite h.nextChunk.chargePass.endCopy.copyMessage.next
        h.nextChunk.next)

end

end Sys2Proof.Machine
end

section
/-! PROOFS. Privilege levels: leases keep the levels legal (Sys2Proof/Machine/Lease.lean). -/

set_option Elab.async false

namespace Sys2Proof.Machine

section
variable {s t : State} {c : Ctx}

theorem State.PlLegal.grant (h : s.PlLegal) {home o w life} : (s.grant home o w life).1.PlLegal := by
  unfold State.grant
  dsimp only
  exact h.same

theorem State.PlLegal.settleLacq (h : s.PlLegal) {home o w life busy full} : (s.settleLacq home o w life busy full).1.PlLegal := by
  unfold State.settleLacq
  dsimp only
  split
  · exact h
  · split
    · exact h
    · split
      · exact h
      · exact h.grant

theorem State.PlLegal.mapPage (h : s.PlLegal) {w sid va big ver dom g f lease} : (s.mapPage w sid va big ver dom g f lease).PlLegal :=
  h.same.modDie.modPart

theorem State.PlLegal.lacqPage (h : s.PlLegal) {w xa life} : (s.lacqPage w xa life).1.PlLegal := by
  unfold State.lacqPage
  dsimp only
  split
  · split
    · exact h
    · split
      · exact h
      · split
        · exact h
        · split
          · exact h
          · exact h.grant.mapPage
  · split
    · exact h
    · split
      · exact h
      · split
        · exact h
        · split
          · exact h
          · exact h.grant.mapPage

theorem State.PlLegal.lacqSp (h : s.PlLegal) {w xa life} : (s.lacqSp w xa life).1.PlLegal := by
  unfold State.lacqSp
  dsimp only
  split
  · exact h
  · exact h.settleLacq

theorem State.PlLegal.lacqAcc (h : s.PlLegal) {w xa life} : (s.lacqAcc w xa life).1.PlLegal := by
  unfold State.lacqAcc
  dsimp only
  split
  · exact h
  · exact h.settleLacq

theorem State.PlLegal.lacqCls (h : s.PlLegal) {w xa life} : (s.lacqCls w xa life).1.PlLegal := by
  unfold State.lacqCls
  dsimp only
  split
  · exact h
  · exact h.settleLacq

theorem State.PlLegal.lacqL2 (h : s.PlLegal) {w xa life} : (s.lacqL2 w xa life).1.PlLegal := by
  unfold State.lacqL2
  dsimp only
  split
  · exact h
  · split
    · exact h
    · exact h.settleLacq

theorem State.PlLegal.lacqPath (h : s.PlLegal) {w xa life} : (s.lacqPath w xa life).1.PlLegal := by
  unfold State.lacqPath
  dsimp only
  split
  · exact h
  · split
    · exact h
    · split
      · exact h
      · split
        · exact h
        · split
          · exact h
          · split
            · exact h
            · split
              · exact h
              · exact h.grant

theorem State.PlLegal.lacqGrp (h : s.PlLegal) {w xa life} : (s.lacqGrp w xa life).1.PlLegal := by
  unfold State.lacqGrp
  dsimp only
  split
  · exact h
  · split
    · exact h
    · exact h.same

theorem State.PlLegal.lacqAt (h : s.PlLegal) {w kind xa xb} : (s.lacqAt w kind xa xb).1.PlLegal := by
  unfold State.lacqAt
  dsimp only
  split
  · exact h
  · split
    · exact h.lacqSp
    · exact h.lacqAcc
    · exact h.lacqCls
    · exact h.lacqL2
    · exact h.lacqPage
    · exact h.lacqPath
    · exact h.lacqGrp
    · exact h

theorem State.PlLegal.keepAnswer (h : s.PlLegal) {ctx num v n} : (s.keepAnswer ctx num v n).PlLegal := h.same

theorem State.PlLegal.setParent (h : s.PlLegal) {n p} : (s.setParent n p).PlLegal := by
  unfold State.setParent
  dsimp only
  split
  · exact h.same.ite h.modLease
  · exact h

theorem State.PlLegal.lparAt (h : s.PlLegal) {c xa xb} : (s.lparAt c xa xb).1.PlLegal := by
  unfold State.lparAt
  dsimp only
  split
  · exact h
  · split
    · exact h
    · split
      · split
        · exact h
        · split
          · exact h
          · split
            · exact h
            · exact h.setParent
      · exact h

theorem State.PlLegal.drainHolder (h : s.PlLegal) {n h'} : (s.drainHolder n h').PlLegal := by
  unfold State.drainHolder
  refine (h.foldl (fun _ _ h1 => ?_) _).modCell
  split
  · exact h1.l1Flush.ite h1.l1WriteBack
  · exact h1

theorem State.PlLegal.grantLock (h : s.PlLegal) {n req} : (s.grantLock n req).PlLegal := by
  unfold State.grantLock
  dsimp only
  split
  · split
    · exact h.modLease
    · exact (h.foldl (fun _ _ h1 => h1.l1Flush) _).same.keepAnswer
  · exact h.modLease

theorem State.PlLegal.answerLock (h : s.PlLegal) {req r code} : (s.answerLock req r code).PlLegal := h.same.keepAnswer

theorem State.PlLegal.serveLock (h : s.PlLegal) {n req} : (s.serveLock n req).PlLegal := by
  unfold State.serveLock
  split
  · exact h.answerLock.ite (h.modLease.ite h.grantLock)
  · exact h

theorem State.PlLegal.lockEntry (h : s.PlLegal) {c va} : (s.lockEntry c va).1.PlLegal := by
  unfold State.lockEntry
  dsimp only
  split
  · exact h
  · exact h.same

theorem State.PlLegal.llkAt (h : s.PlLegal) {req r c bad} : (s.llkAt req r c bad).PlLegal := by
  unfold State.llkAt
  dsimp only
  split
  · exact h.answerLock
  · split
    · exact h.answerLock
    · split
      · exact h.lockEntry
      · exact h.lockEntry.answerLock.ite (h.lockEntry.same.serveLock.ite h.lockEntry.same)

theorem State.PlLegal.spreadRenewal (h : s.PlLegal) {l life order port} : (s.spreadRenewal l life order port).PlLegal := h.same

theorem State.PlLegal.leaseArrives (h : s.PlLegal) {req} : (s.leaseArrives req).PlLegal := by
  unfold State.leaseArrives
  split
  · exact h
  split
  · exact h.same
  dsimp only
  split
  · split
    · exact h.same
    · split
      · exact h.same
      · split
        · have h1 := (h.takeFresh.lacqAt).fst ‹_›
          split
          · exact State.PlLegal.keepAnswer h1.same
          · exact h1
        · exact State.PlLegal.keepAnswer ((h.takeFresh.lacqAt).fst ‹_›).same
  · split
    · exact h.same
    · exact h.takeFresh.llkAt
  · split
    · exact (h.takeFresh.spreadRenewal.ite h.takeFresh).same
    · exact h.same
  · exact h.same
  · exact h.same
  · exact h.takeFresh.lparAt.same

theorem State.PlLegal.enterGuards (h : s.PlLegal) {n v} : (s.enterGuards n v).PlLegal := by
  unfold State.enterGuards
  dsimp only
  split
  · split
    · exact h.ite h.modCell
    · exact h
  · exact h

theorem State.PlLegal.rewritePath (h : s.PlLegal) {r n} : (s.rewritePath r n).PlLegal := by
  unfold State.rewritePath
  dsimp only
  split
  · split
    · exact (h.modCtx (fun _ k => k.setC)).ite h
    · exact h
  · exact h

theorem State.PlLegal.leaseReply (h : s.PlLegal) {req} : (s.leaseReply req).PlLegal := by
  unfold State.leaseReply
  dsimp only
  split
  · exact h
  · split
    · exact h
    · split
      · exact h.same
      · split
        · exact h.same.trap
        · split
          · split
            · exact ((h.same.modLease.enterGuards.rewritePath.acquire.ite h.same.modLease.enterGuards.rewritePath).mod
                (fun _ k => k.same)).wx.finish
            · exact (h.same.mod (fun _ k => k.same)).wx.finish
          · split
            · exact ((h.same.modLease.enterGuards.rewritePath.acquire.ite h.same.modLease.enterGuards.rewritePath).mod
                (fun _ k => k.same)).wx.finish
            · exact (h.same.mod (fun _ k => k.same)).wx.finish
          · split
            · exact (h.same.modLease.enterGuards.rewritePath.acquire.ite h.same.modLease.enterGuards.rewritePath).wx.finish
            · exact h.same.wx.finish

theorem State.PlLegal.sendLease (h : s.PlLegal) {r own parked} : (s.sendLease r own parked).PlLegal := by
  unfold State.sendLease
  dsimp only
  split
  · exact (h.same.park.ite h.same.stall).ite (h.same.park.ite h.same.stall).leaseArrives.leaseReply
  · exact (h.takeHold.same.park.ite h.takeHold.same.stall).ite (h.takeHold.same.park.ite h.takeHold.same.stall).leaseArrives.leaseReply

theorem State.PlLegal.lacq (h : s.PlLegal) {kind d a b} : PlNext (s.lacq kind d a b) := PlNext.ite h.faultOut h.sendLease.next

theorem State.PlLegal.next_execLacqSp (h : s.PlLegal) {d a b} : PlNext (execLacqSp d a b s) := h.lacq

theorem State.PlLegal.next_execLacqAcc (h : s.PlLegal) {d a b} : PlNext (execLacqAcc d a b s) := h.lacq

theorem State.PlLegal.next_execLacqCls (h : s.PlLegal) {d a b} : PlNext (execLacqCls d a b s) := h.lacq

theorem State.PlLegal.next_execLacqL2 (h : s.PlLegal) {d a b} : PlNext (execLacqL2 d a b s) := h.lacq

theorem State.PlLegal.next_execLacqPage (h : s.PlLegal) {d a b} : PlNext (execLacqPage d a b s) := h.lacq

theorem State.PlLegal.next_execLacqPath (h : s.PlLegal) {d a b} : PlNext (execLacqPath d a b s) := h.lacq

theorem State.PlLegal.next_execLacqGrp (h : s.PlLegal) {d a b} : PlNext (execLacqGrp d a b s) := h.lacq

theorem State.PlLegal.next_execRenew (h : s.PlLegal) {a b} : PlNext (execRenew a b s) :=
  PlNext.ite h.faultOut (PlNext.ite h.faultOut (PlNext.ite h.finish.next h.sendLease.next))

theorem State.PlLegal.next_execLife (h : s.PlLegal) {d a} : PlNext (execLife d a s) := h.sendLease.next

theorem State.PlLegal.next_execLlk (h : s.PlLegal) {d a b} : PlNext (execLlk d a b s) := by
  unfold execLlk
  dsimp only
  exact Ends.conclude (h.illInOpt.bind fun _ _ => h.require.bind fun _ _ => h.require.bind fun _ _ => h.checkAccess.bind fun _ _ =>
    h.localWaits.bind fun _ _ => h.fabricWaits.bind fun _ _ => h.readBytes.bind fun ⟨_, _⟩ h7 => .pure h7.sendLease)

theorem State.PlLegal.next_execLgen (h : s.PlLegal) {d a} : PlNext (execLgen d a s) := h.sendLease.next

theorem State.PlLegal.next_execLpar (h : s.PlLegal) {d a b} : PlNext (execLpar d a b s) := h.sendLease.next

end

end Sys2Proof.Machine
end

section
/-! PROOFS. Privilege levels: messages keep the levels legal (Sys2Proof/Machine/Messages.lean). -/

set_option Elab.async false

namespace Sys2Proof.Machine

section
variable {s t : State} {c : Ctx}

theorem State.PlLegal.modGCell (h : s.PlLegal) {cell g f} : (s.modGCell cell g f).PlLegal := h.modCell

theorem State.PlLegal.received (h : s.PlLegal) {f} : (s.received f).PlLegal := by
  unfold State.received
  split
  · exact h.modGCell.ite h
  · exact h

theorem State.PlLegal.sendFlight (h : s.PlLegal) {x dest m grp cap} : (s.sendFlight x dest m grp cap).PlLegal := by
  unfold State.sendFlight
  dsimp only
  split
  · exact h.same
  · exact (h.same.modGCell.modCtx (fun _ k => k.same)).ite h.same

theorem State.PlLegal.buildMsg (h : s.PlLegal) {x cls kind dest d1 d2 d3} : (s.buildMsg x cls kind dest d1 d2 d3).2.PlLegal := by
  unfold State.buildMsg
  dsimp only
  exact h.takeSeq

theorem State.PlLegal.checkSnd (h : s.PlLegal) {w} : PlTries (fun _ => True) (s.checkSnd w) :=
  h.require.bind fun _ _ => .ite (h.capRead.bind fun _ _ => h.require.bind fun _ _ => h.require) h.require

theorem State.PlLegal.next_execSnd (h : s.PlLegal) {a} : PlNext (execSnd a s) := by
  unfold execSnd
  refine Ends.conclude (h.illInHandler.bind fun _ _ => h.checkSnd.bind fun _ _ => ?_)
  dsimp only
  split
  · exact .ite (.ite (.halt h.again) (.ite (.halt h.noRoom) (.ite (h.buildMsg.logEntry.bind fun _ h3 => .pure h3.sendFlight.finish)
      (.pure h.buildMsg.sendFlight.finish)))) (h.deferAction.bind fun _ h3 => .pure h3.finish)
  · exact .ite (.halt h.again) (.pure h.buildMsg.sendFlight.finish)

theorem State.PlLegal.refuseMsg (h : s.PlLegal) {cell part o m} : (s.refuseMsg cell part o m).PlLegal := by
  unfold State.refuseMsg
  dsimp only
  split
  · split
    · exact h.report.classReport
    · exact h.report
  · exact h.reportQFull

theorem State.PlLegal.aimRollback (h : s.PlLegal) {x k} : (s.aimRollback x k).PlLegal := by
  unfold State.aimRollback
  refine h.modCtx (fun _ k1 => ?_)
  dsimp only
  split
  · exact k1
  · exact (k1.settle.ite k1).same

theorem State.PlLegal.straggler (h : s.PlLegal) {x k} : (s.straggler x k).PlLegal := by
  unfold State.straggler
  split
  · split
    · split
      · split
        · exact h.aimRollback
        · exact h
      · exact h
    · exact h
  · exact h

theorem State.PlLegal.holdFlight (h : s.PlLegal) {n f} : (s.holdFlight n f).PlLegal := h.ite h.same

theorem State.PlLegal.acceptMsg (h : s.PlLegal) {n f x} : (s.acceptMsg n f x).PlLegal := by
  unfold State.acceptMsg
  dsimp only
  split
  · exact h.same.modCell.received
  · split
    · exact h.holdFlight
    · exact (h.same.modCell.received.straggler.ite h.same.modCell.received).wakeMsg

theorem State.PlLegal.next_execMessageArrival (h : s.PlLegal) {msg} : PlNext (execMessageArrival msg s) := by
  unfold execMessageArrival
  split
  · exact h.next
  · split
    · exact h.next
    · split
      · exact h.same.received.refuseMsg.next
      · exact PlNext.ite h.holdFlight.next h.acceptMsg.next

theorem State.PlLegal.holdAnti (h : s.PlLegal) {n f} : (s.holdAnti n f).PlLegal := by
  unfold State.holdAnti
  dsimp only
  split
  · exact h.same.received.refuseMsg
  · split
    · exact h.holdFlight
    · exact h.same.received.modCell

theorem State.PlLegal.antiAt (h : s.PlLegal) {n f} : (s.antiAt n f).PlLegal := by
  unfold State.antiAt
  dsimp only
  split
  · exact h.same.received.modCell
  · split
    · exact h.same.received.aimRollback.modCtx (fun _ k => k.same)
    · exact h.same.received.modCell.report.ite h.holdAnti

theorem State.PlLegal.next_execAntiMessageArrival (h : s.PlLegal) {msg} : PlNext (execAntiMessageArrival msg s) := by
  unfold execAntiMessageArrival
  split
  · exact h.next
  · exact PlNext.ite h.next (PlNext.ite h.holdFlight.next h.antiAt.next)

theorem State.PlLegal.next_execFabricHeldMessageAccept (h : s.PlLegal) {msg} : PlNext (execFabricHeldMessageAccept msg s) := by
  unfold execFabricHeldMessageAccept
  split
  · exact h.next
  · split
    · exact h.next
    · split
      · exact PlNext.ite h.next h.antiAt.next
      · split
        · exact h.same.received.refuseMsg.next
        · exact PlNext.ite h.acceptMsg.next h.next

theorem State.PlLegal.wx4 (h : s.PlLegal) {d m} : (s.wx4 d m).PlLegal := h.wx.wx.wx.wx

theorem State.PlLegal.poisonEntry (h : s.PlLegal) {q} : (s.poisonEntry q).PlLegal := by
  unfold State.poisonEntry
  exact (h.reportCtx.ite h).takeTrap

theorem State.PlLegal.noteTaken (h : s.PlLegal) {q} : (s.noteTaken q).PlLegal := by
  unfold State.noteTaken
  split
  · exact h.ite h.modCell
  · exact h

theorem State.PlLegal.rcvOpt (h : s.PlLegal) {m q} : PlTries State.PlLegal (s.rcvOpt m q) :=
  .ite (.halt h.noRoom) (h.require.bind fun _ _ => .pure (h.addRecord.modCell.mod (fun _ k => k.same)))

theorem State.PlLegal.next_execRcv (h : s.PlLegal) {d b} : PlNext (execRcv d b s) := by
  unfold execRcv
  refine Ends.conclude (h.illInHandler.bind fun _ _ => ?_)
  dsimp only
  split
  · exact .pure (h.mod (fun _ k => k.same)).wx.finish
  · split
    · exact .pure h.modCell.poisonEntry
    · split
      · exact h.rcvOpt.bind fun _ h2 => .pure h2.noteTaken.acquire.wx4.finish
      · exact .pure h.modCell.noteTaken.acquire.wx4.finish

theorem State.PlLegal.next_execPkmsg (h : s.PlLegal) {d b} : PlNext (execPkmsg d b s) := by
  unfold execPkmsg
  refine Ends.conclude (h.illInHandler.bind fun _ _ => ?_)
  split
  · exact .pure h.wx.finish
  · exact .ite (.pure h.poisonEntry) (.pure h.wx4.finish)

theorem State.PlLegal.next_execWmsg (h : s.PlLegal) {d a} : PlNext (execWmsg d a s) :=
  Ends.conclude (h.illInHandler.bind fun _ _ => .ite (.pure h.wx.finish) (.pure (h.mod (fun _ k => k.same)).park))

end

end Sys2Proof.Machine
end

section
/-! PROOFS. Privilege levels: optimistic groups keep the levels legal (Sys2Proof/Machine/Optimistic.lean). -/

set_option Elab.async false

namespace Sys2Proof.Machine

section
variable {s t : State} {c : Ctx}

theorem State.PlLegal.leaveGroup (h : s.PlLegal) {x} : (s.leaveGroup x).PlLegal := by
  unfold State.leaveGroup
  dsimp only
  split
  · exact h
  · exact (h.modCtx (fun _ k => k.same)).modGCell.ite (h.modCtx (fun _ k => k.same))

theorem State.PlLegal.joinGroup (h : s.PlLegal) {g b} : (s.joinGroup g b).PlLegal := (h.mod (fun _ k => k.same)).modGCell.modGroup

theorem State.PlLegal.next_execOptOn (h : s.PlLegal) {d a} : PlNext (execOptOn d a s) := by
  unfold execOptOn
  refine PlNext.ite h.result (Ends.conclude (h.require.bind fun _ _ => h.require.bind fun _ _ => h.checkHome.bind fun _ _ => .ite
    (.halt h.again) (h.localWaits.bind fun _ _ => h.require.bind fun _ _ => ?_)))
  dsimp only
  split
  · exact .pure h.wx.finish
  · exact .pure h.joinGroup.wx.finish

theorem State.PlLegal.next_execOptOff (h : s.PlLegal) {d} : PlNext (execOptOff d s) := by
  unfold execOptOff
  refine Ends.conclude (h.illInHandler.bind fun _ _ => ?_)
  dsimp only
  split
  · exact .pure h.wx.finish
  · exact .ite (.pure h.leaveGroup.wx.finish) (h.mod (fun _ k => k.same)).again

theorem State.PlLegal.next_execCkpt (h : s.PlLegal) {d a n} : PlNext (execCkpt d a n s) := by
  unfold execCkpt
  refine Ends.conclude (h.illInHandler.bind fun _ _ => ?_)
  dsimp only
  split
  · exact h.raise
  · exact .ite (.pure h.wx.finish) (h.require.bind fun _ _ => h.require.bind fun _ _ => h.checkHome.bind fun _ _ => h.localWaits.bind
      fun _ _ => .ite (.pure h.wx.finish) (h.logEntry.bind fun _ h6 => .pure h6.wx.finish))

theorem State.PlLegal.next_execRbret (h : s.PlLegal) : PlNext (execRbret s) := by
  unfold execRbret
  dsimp only
  split
  · exact Ends.conclude h.raise
  · refine Ends.conclude (h.require.bind fun _ _ => ?_)
    split
    · exact h.raise
    · split
      · exact h.raise
      · exact .pure (h.mod (fun _ k => k.same)).finishAt

theorem State.PlLegal.filterVersions (h : s.PlLegal) {f} : (s.filterVersions f).PlLegal := h.same

theorem State.PlLegal.discardVersions (h : s.PlLegal) {x w from_} : (s.discardVersions x w from_).PlLegal := h.same

theorem State.PlLegal.restoreArea (h : s.PlLegal) {cell e} : (s.restoreArea cell e).PlLegal := by
  unfold State.restoreArea
  dsimp only
  split
  · exact h.modCell
  · exact h

theorem Ctx.PlLegal.enterBook (k : c.PlLegal) {xs ps bad a b v l r pc m} :
    Ctx.PlLegal { ((({ c with x := xs, p := ps, badRegs := bad } : Ctx).setX 10 a).setX 11 b).setX 12 v with
      lvt := l, rbp := r, pc := pc, member := m } := by
  have k0 : ({ c with x := xs, p := ps, badRegs := bad } : Ctx).PlLegal := k.same
  exact (((k0.setX (r := 10) (v := a)).setX (r := 11) (v := b)).setX (r := 12) (v := v)).same

theorem State.PlLegal.enterHandler (h : s.PlLegal) {x} : (s.enterHandler x).PlLegal := by
  unfold State.enterHandler
  split
  · exact h
  split
  · exact h
  dsimp only
  exact h.modCtx fun _ k => k.enterBook

theorem State.PlLegal.rollItem (h : s.PlLegal) {x} : (s.rollItem x).PlLegal := by
  unfold State.rollItem
  dsimp only
  split
  · exact h
  · split
    · exact h.restoreArea.modCtx (fun _ k => k.same)
    · exact h.discardVersions.modCtx (fun _ k => k.same)
    · split
      · split
        · exact (h.modCell.modCtx (fun _ k => k.same)).wakeMsg
        · exact h.modCell.modCtx (fun _ k => k.same)
      · exact h
    · exact h.sendFlight.modCtx (fun _ k => k.same)
    · exact h.enterHandler

theorem State.PlLegal.startRollback (h : s.PlLegal) {x m t} : (s.startRollback x m t).PlLegal :=
  h.chargeRolled.modCtx (fun _ k => k.same)

theorem State.PlLegal.next_execRollbackSequence (h : s.PlLegal) {ctx} : PlNext (execRollbackSequence ctx s) := by
  unfold execRollbackSequence
  dsimp only
  split
  · exact h.next
  · split
    · exact h.next
    · split
      · exact h.next
      · split
        · exact h.noteTurn.rollItem.next
        · split
          · exact h.noteTurn.next
          · exact h.noteTurn.startRollback.next

theorem State.PlLegal.next_execRollbackRequeueResume (h : s.PlLegal) {ctx} : PlNext (execRollbackRequeueResume ctx s) := by
  unfold execRollbackRequeueResume
  split
  · exact h.next
  · exact PlNext.ite h.next h.rollItem.next

theorem State.PlLegal.next_execGvtRoundStart (h : s.PlLegal) {grp} : PlNext (execGvtRoundStart grp s) := by
  unfold execGvtRoundStart
  dsimp only
  split
  · exact h.next
  · exact PlNext.ite h.modGroup.next h.next

theorem State.PlLegal.next_execGvtCut (h : s.PlLegal) {grp cell} : PlNext (execGvtCut grp cell s) := by
  unfold execGvtCut
  dsimp only
  split
  · exact h.next
  · exact PlNext.ite h.next (h.modGroup.modGCell.foldl (fun _ _ h1 => h1.modCtx (fun _ k => k.same)) _).next

theorem State.PlLegal.next_execGvtReport (h : s.PlLegal) {grp cell} : PlNext (execGvtReport grp cell s) := by
  unfold execGvtReport
  dsimp only
  split
  · exact h.next
  · exact PlNext.ite h.modGroup.next h.next

theorem State.PlLegal.next_execGvtReportResult (h : s.PlLegal) {grp} : PlNext (execGvtReportResult grp s) := by
  unfold execGvtReportResult
  dsimp only
  split
  · exact h.next
  · exact PlNext.ite h.next (PlNext.ite h.modGroup.next h.modGroup.next)

theorem State.PlLegal.next_execGvtReportRetry (h : s.PlLegal) {grp} : PlNext (execGvtReportRetry grp s) := by
  unfold execGvtReportRetry
  split
  · exact h.next
  · split
    · exact PlNext.ite h.modGroup.next h.next
    · exact h.next

theorem State.PlLegal.markDone (h : s.PlLegal) {d} : (s.markDone d).PlLegal := h.modCtx (fun _ k => k.same)

theorem State.PlLegal.performDeferred (h : s.PlLegal) {grp d ord view p} : (s.performDeferred grp d ord view p).PlLegal := by
  unfold State.performDeferred
  dsimp only
  split
  · exact (h.ite h.releaseLines).reportDrop
  · split
    · exact (h.ite h.releaseLines).launch.modGCell
    · split
      · exact (h.ite h.releaseLines).syncTarget.modCell
      · split
        · split
          · exact ((h.ite h.releaseLines).syncTarget.perform.fst ‹_›).modCtx (fun _ k => k.same)
          · exact (h.ite h.releaseLines).syncTarget.perform.fst ‹_›
        · exact ((h.ite h.releaseLines).syncTarget.perform.fst ‹_›).reportDrop
        · exact (h.ite h.releaseLines).syncTarget.perform.fst ‹_›

theorem State.PlLegal.performDue (h : s.PlLegal) {grp cell d} : PlSome (s.performDue grp cell d) := by
  unfold State.performDue
  dsimp only
  split
  · exact h.performDeferred
  · exact h.foldl (fun _ _ h1 => h1.performDeferred) _
  · split
    · exact trivial
    · exact h.buildMsg.sendFlight
  · split
    · exact h.fillMailbox
    · exact trivial

theorem State.PlLegal.finishPub (h : s.PlLegal) {grp cell g} : (s.finishPub grp cell g).PlLegal := by
  unfold State.finishPub
  refine (h.same.foldl (fun _ _ h1 => h1.modCtx (fun _ k => ?_)) _).modGCell
  split
  · exact k.same
  · exact k

theorem State.PlLegal.settlePub (h : s.PlLegal) {grp cell} : (s.settlePub grp cell).PlLegal := by
  unfold State.settlePub
  dsimp only
  split
  · exact h
  · exact h.ite (h.modGCell.finishPub.ite h.modGCell)

theorem State.PlLegal.next_execGvtPublication (h : s.PlLegal) {grp cell} : PlNext (execGvtPublication grp cell s) := by
  unfold execGvtPublication
  dsimp only
  split
  · exact h.next
  · exact PlNext.ite h.modGroup.modGCell.settlePub.next h.next

theorem State.PlLegal.next_execDeferredEntryPerform (h : s.PlLegal) {grp cell} : PlNext (execDeferredEntryPerform grp cell s) := by
  unfold execDeferredEntryPerform
  dsimp only
  split
  · exact h.next
  · split
    · exact h.next
    · split
      · exact h.settlePub.next
      · split
        · exact h.next
        · exact (h.performDue.some ‹_›).markDone.chargeCell.settlePub.next

theorem State.PlLegal.withWaiters (h : s.PlLegal) {w} : ({ s with waiters := w } : State).PlLegal := h.same

theorem State.PlLegal.lapseMember (h : s.PlLegal) {x} : (s.lapseMember x).PlLegal := by
  unfold State.lapseMember
  dsimp only
  split
  · exact h
  · exact h.filterVersions.reportCtx.withWaiters.leaveGroup.modCtx fun _ k => k.same

theorem State.PlLegal.next_execGroupLapseTrap (h : s.PlLegal) {ctx} : PlNext (execGroupLapseTrap ctx s) := by
  unfold execGroupLapseTrap
  dsimp only
  split
  · exact h.next
  · exact PlNext.ite (h.wordAt.noteTurn.modCtx (fun _ k => k.same)).takeTrap.next h.next

end

end Sys2Proof.Machine
end

section
/-! PROOFS. Privilege levels: the end of leases keep the levels legal (Sys2Proof/Machine/Lapse.lean). -/

set_option Elab.async false

namespace Sys2Proof.Machine

section
variable {s t : State} {c : Ctx}

theorem State.PlLegal.startJob (h : s.PlLegal) {j cycles} : (s.startJob j cycles).PlLegal := h.same

theorem State.PlLegal.jobsOver (h : s.PlLegal) {part} : (s.jobsOver part).PlLegal := by
  unfold State.jobsOver
  split
  · exact h.ite h.signal
  · exact h

theorem State.PlLegal.withEntries (h : s.PlLegal) {f : Nat × Entry → Nat × Entry} (hf : ∀ p, p.2.PlLegal → (f p).2.PlLegal) :
    ({ s with entries := s.entries.map f } : State).PlLegal := h.mapEntries rfl rfl hf

theorem State.PlLegal.retryCell (h : s.PlLegal) {cell} : (s.retryCell cell).PlLegal := h.withEntries fun _ k => k.same

theorem State.PlLegal.regionEnds (h : s.PlLegal) {part region} : (s.regionEnds part region).PlLegal := h.ite h.modPart

theorem State.PlLegal.toLapsed (h : s.PlLegal) {n} : (s.toLapsed n).PlLegal := by
  unfold State.toLapsed
  dsimp only
  split
  · exact h
  · split
    · split
      · exact (h.modLease.ite h.modLease.latchReset).retryCell
      · exact h.modLease.regionEnds.retryCell
      · exact h.modLease.retryCell
    · split
      · exact h.modLease.ite h.modLease.latchReset
      · exact h.modLease.regionEnds
      · exact h.modLease

theorem State.PlLegal.clearBook (h : s.PlLegal) {n cell part m} : (s.clearBook n cell part m).PlLegal := h.startJob

theorem State.PlLegal.lapseBook (h : s.PlLegal) {n x c} : (s.lapseBook n x c).PlLegal := by
  unfold State.lapseBook
  dsimp only
  split
  · exact h.lapseMember.clearBook
  · exact h.lapseMember

theorem State.PlLegal.endThreads (h : s.PlLegal) {n f} : (s.endThreads n f).PlLegal :=
  (h.foldl (fun _ _ h1 => h1.ite h1.same) _).foldl (fun _ _ h1 => h1.lapseBook.endCtxAt) _

theorem State.PlLegal.unbindClass (h : s.PlLegal) {cell k part} : (s.unbindClass cell k part).PlLegal :=
  (h.modCell.foldl (fun _ _ h1 => h1.refuseMsg) _).foldl (fun _ _ h1 => h1.refuseMsg) _

theorem State.PlLegal.lapseGroup (h : s.PlLegal) {n g} : (s.lapseGroup n g).PlLegal := h.foldl (fun _ _ h1 => h1.lapseBook) _

theorem State.PlLegal.lapseBooksIn (h : s.PlLegal) {cell base count} : (s.lapseBooksIn cell base count).PlLegal :=
  h.foldl (fun _ _ h1 => h1.lapseBook) _

theorem State.PlLegal.zeroise (h : s.PlLegal) {n die part k} : (s.zeroise n die part k).PlLegal := h.modPart.startJob

theorem State.PlLegal.lapseLock (h : s.PlLegal) {n} : (s.lapseLock n).PlLegal := by
  unfold State.lapseLock
  dsimp only
  split
  · exact h
  · split
    · exact h.modLease
    · exact h.modLease.same

theorem State.PlLegal.lapseRing (h : s.PlLegal) {n part r} : (s.lapseRing n part r).PlLegal := by
  have h1 : ((s.endThreads n fun c => c.part = part && ((List.range 8).map (· + 8 * r)).contains c.cell)).PlLegal := h.endThreads
  have h2 := State.PlLegal.foldl h1 (f := fun s c => s.latchReset c) (fun _ _ h => h.latchReset) ((List.range 8).map (· + 8 * r))
  unfold State.lapseRing
  refine State.PlLegal.foldl (h2.withEntries fun p k => ?_) (fun _ _ h => h.checkEnd.ite h) _
  split
  · exact k.same
  · exact k

theorem State.PlLegal.endQueue (h : s.PlLegal) {part die} : (s.endQueue part die).PlLegal := h.modPdie

theorem State.PlLegal.atPassage (h : s.PlLegal) {n l} : (s.atPassage n l).PlLegal := by
  unfold State.atPassage
  dsimp only
  split
  · exact (h.modEntry (fun _ h1 => h1.same)).endThreads
  · exact h.lapseBooksIn
  · exact h.unbindClass.toLapsed
  · exact h.toLapsed
  · exact h.lapseLock
  · exact h.lapseGroup
  · exact h.endQueue.toLapsed
  · exact h.toLapsed
  · exact h.toLapsed.ite h
  · exact h.lapseRing.ite h.toLapsed
  · exact h.ite h.toLapsed
  · exact h.ite h.toLapsed
  · exact h.zeroise.modLease
  · exact h

theorem State.PlLegal.notify (h : s.PlLegal) {n} : (s.notify n).PlLegal := by
  unfold State.notify
  dsimp only
  split
  · exact h
  · exact h.ite h.same

theorem State.PlLegal.memberLapses (h : s.PlLegal) {n l} : (s.memberLapses n l).PlLegal := by
  unfold State.memberLapses
  split
  · exact h.signal.ite h
  · exact h.signal.ite h
  · exact h.signal.ite h
  · exact h.signal.ite h
  · exact h.signal.ite h
  · exact h

/-- A lapse takes the leases below with it (08 R191). -/
theorem State.PlLegal.lapse {k : Nat} : ∀ {s : State}, s.PlLegal → ∀ {n}, (s.lapse k n).PlLegal := by
  induction k with
  | zero => exact fun h _ => h
  | succ k ih =>
    intro s h n
    unfold State.lapse
    split
    · exact h
    split
    · exact h
    · refine State.PlLegal.foldl (State.PlLegal.foldl (State.PlLegal.foldl h.memberLapses.modLease.atPassage
        (fun _ _ h1 => ih h1) _) (fun _ _ h1 => ?_) _) (fun _ _ h1 => h1.notify) _
      split
      · exact (ih h1).ite h1.notify
      · exact h1

theorem State.PlLegal.endPage (h : s.PlLegal) {n} : (s.endPage n).PlLegal := (h.foldl (fun _ _ h1 => h1.modDie) _).same

theorem State.PlLegal.startImages (h : s.PlLegal) {n} : (s.startImages n).PlLegal := h.foldl (fun _ _ h1 => h1.same.startJob) _

theorem State.PlLegal.endLapsing (h : s.PlLegal) {n l} : (s.endLapsing n l).PlLegal := by
  unfold State.endLapsing
  dsimp only
  split
  · exact h.startImages.startJob.modLease.ite h.startImages.startJob.toLapsed
  · exact h.startImages.startJob.modLease.ite h.startImages.startJob.toLapsed
  · split
    · exact h.startImages.endPage.startJob.modLease.ite h.startImages.endPage.startJob.toLapsed
    · exact h.startImages.modLease.ite h.startImages.toLapsed
  · exact (h.startImages.foldl (fun _ _ h1 => h1.startJob) _).modLease.ite (h.startImages.foldl (fun _ _ h1 => h1.startJob) _).toLapsed
  · exact h.startImages.startJob.modLease.ite h.startImages.startJob.toLapsed
  · exact (h.startImages.ite h.startImages.startJob).modLease.ite (h.startImages.ite h.startImages.startJob).toLapsed
  · exact h.startImages.same.modLease.ite h.startImages.same.toLapsed
  · exact h.startImages.modLease.ite h.startImages.toLapsed

theorem State.PlLegal.next_execLapsingEnd (h : s.PlLegal) {lease} : PlNext (execLapsingEnd lease s) := by
  unfold execLapsingEnd
  split
  · exact h.next
  · exact PlNext.ite h.endLapsing.next h.next

theorem State.PlLegal.clearFrames (h : s.PlLegal) {die fs} : (s.clearFrames die fs).PlLegal := h.modDie

theorem State.PlLegal.clearImage (h : s.PlLegal) {part a} : (s.clearImage part a).PlLegal := by
  unfold State.clearImage
  dsimp only
  split
  · exact h
  · exact h.modDie

theorem State.PlLegal.clearJob (h : s.PlLegal) {j} : (s.clearJob j).PlLegal := by
  unfold State.clearJob
  dsimp only
  split
  · exact h.modCell
  · split
    · exact (h.clearFrames.foldl (fun _ _ h1 => h1.clearImage) _).modCell
    · exact (h.clearFrames.foldl (fun _ _ h1 => h1.clearImage) _).modCell
    · split
      · exact (h.clearFrames.foldl (fun _ _ h1 => h1.clearImage) _).modCell
      · exact h.clearFrames.foldl (fun _ _ h1 => h1.clearImage) _
    · exact (h.clearFrames.foldl (fun _ _ h1 => h1.clearImage) _).modDie
    · exact h.clearFrames.foldl (fun _ _ h1 => h1.clearImage) _
    · split
      · split
        · exact (h.clearFrames.foldl (fun _ _ h1 => h1.clearImage) _).modCell.modDie
        · exact (h.clearFrames.foldl (fun _ _ h1 => h1.clearImage) _).modDie
      · split
        · exact (h.clearFrames.foldl (fun _ _ h1 => h1.clearImage) _).modCell
        · exact h.clearFrames.foldl (fun _ _ h1 => h1.clearImage) _

theorem State.PlLegal.jobDone (h : s.PlLegal) {n j} : (s.jobDone n j).PlLegal := by
  unfold State.jobDone
  dsimp only
  split
  · exact (h.clearJob.same.ite h.clearJob.same.toLapsed).jobsOver
  · exact h.clearJob.same.jobsOver

theorem State.PlLegal.next_execScrubJobComplete (h : s.PlLegal) {job} : PlNext (execScrubJobComplete job s) := by
  unfold execScrubJobComplete
  split
  · exact h.next
  · exact PlNext.ite h.jobDone.next h.next

theorem State.PlLegal.sweep (h : s.PlLegal) {die part k} : (s.sweep die part k).PlLegal := h.same.modDie

theorem State.PlLegal.next_execCacheSweep (h : s.PlLegal) {die lease} : PlNext (execCacheSweep die lease s) := by
  unfold execCacheSweep
  split
  · split
    · exact PlNext.ite h.sweep.jobDone.next h.next
    · exact h.next
  · exact h.next

theorem State.PlLegal.endJob (h : s.PlLegal) {n j} : (s.endJob n j).PlLegal := by
  unfold State.endJob
  dsimp only
  split
  · exact h.jobDone
  · split
    · exact h.sweep.jobDone
    · exact h.jobDone

theorem State.PlLegal.endJobs (h : s.PlLegal) : s.endJobs.PlLegal := h.foldl (fun _ _ h1 => h1.endJob) _

theorem State.PlLegal.repin (h : s.PlLegal) {n} : (s.repin n).PlLegal := by
  unfold State.repin
  dsimp only
  split
  · split
    · exact h.modLease.ite h
    · exact h
  · exact h

theorem State.PlLegal.extend (h : s.PlLegal) {n life} : (s.extend n life).PlLegal := h.modLease.repin

theorem State.PlLegal.applyRenewal (h : s.PlLegal) {req r} : (s.applyRenewal req r).PlLegal := by
  unfold State.applyRenewal
  dsimp only
  split
  · exact h.same
  · exact h.same.ite (h.same.ite h.extend.same)

theorem State.PlLegal.applyExtension (h : s.PlLegal) {e} : (s.applyExtension e).PlLegal := by
  unfold State.applyExtension
  split
  · exact h
  · split
    · exact h.extend
    · split
      · exact h.modDie
      · exact h

theorem State.PlLegal.applyExtensions (h : s.PlLegal) {die} : (s.applyExtensions die).PlLegal :=
  h.same.foldl (fun _ _ h1 => h1.applyExtension) _

theorem State.PlLegal.applyNotice (h : s.PlLegal) {n k} : (s.applyNotice n k).PlLegal := by
  unfold State.applyNotice
  dsimp only
  split
  · exact h.same.lapse.ite h.same
  · exact h.same

theorem State.PlLegal.timeOut (h : s.PlLegal) {n r} : (s.timeOut n r).PlLegal := h.answerLock

theorem State.PlLegal.demoteOne (h : s.PlLegal) {part die} : (s.demoteOne part die).PlLegal := by
  unfold State.demoteOne
  dsimp only
  split
  · exact h
  · split
    · exact h.modLease.classReport
    · exact h.modLease

theorem State.PlLegal.demoteAll {part die k : Nat} : ∀ {s : State}, s.PlLegal → (s.demoteAll part die k).PlLegal := by
  induction k with
  | zero => exact fun h => h
  | succ k ih =>
    intro s h
    unfold State.demoteAll
    split
    · exact ih h.demoteOne
    · exact h

theorem State.PlLegal.next_execHomeTickStep (h : s.PlLegal) {die} : PlNext (execHomeTickStep die s) :=
  PlNext.ite h.next (((((((h.modDie.foldl (fun _ _ h1 => h1.applyRenewal) _).applyExtensions.foldl (fun _ _ h1 => h1.lapse) _).foldl
    (fun _ _ h1 => h1.applyNotice) _).foldl (fun _ _ h1 => h1.leaseArrives) _).foldl (fun _ _ h1 => h1.serveLock) _).foldl
      (fun _ _ h1 => h1.timeOut) _).foldl (fun _ _ h1 => h1.demoteAll) _).next

theorem State.PlLegal.next_execLeaseExpiry (h : s.PlLegal) {lease} : PlNext (execLeaseExpiry lease s) := by
  unfold execLeaseExpiry
  dsimp only
  split
  · exact h.next
  · exact PlNext.ite h.lapse.next h.next

theorem State.PlLegal.next_execLapseNotice (h : s.PlLegal) {notice} : PlNext (execLapseNotice notice s) := by
  unfold execLapseNotice
  dsimp only
  split
  · exact h.next
  · exact PlNext.ite h.next h.same.next

theorem State.PlLegal.next_execLeaseRequestArrival (h : s.PlLegal) {req} : PlNext (execLeaseRequestArrival req s) := by
  unfold execLeaseRequestArrival
  split
  · exact h.next
  · exact PlNext.ite h.next h.leaseArrives.next

theorem State.PlLegal.next_execLlkRequestArrival (h : s.PlLegal) {req} : PlNext (execLlkRequestArrival req s) := by
  unfold execLlkRequestArrival
  split
  · exact h.next
  · exact PlNext.ite h.next h.leaseArrives.next

theorem State.PlLegal.next_execGrantReplyDelivery (h : s.PlLegal) {req} : PlNext (execGrantReplyDelivery req s) := by
  unfold execGrantReplyDelivery
  split
  · exact h.next
  · exact PlNext.ite h.leaseReply.next h.next

theorem State.PlLegal.next_execLeaseReplyArrival (h : s.PlLegal) {req} : PlNext (execLeaseReplyArrival req s) := by
  unfold execLeaseReplyArrival
  split
  · exact h.next
  · exact PlNext.ite h.leaseReply.next h.next

theorem State.PlLegal.next_execLlkTimeout (h : s.PlLegal) {req} : PlNext (execLlkTimeout req s) := by
  unfold execLlkTimeout
  dsimp only
  split
  · exact h.next
  · exact PlNext.ite h.timeOut.next h.next

theorem State.PlLegal.next_execLockDrain (h : s.PlLegal) {lease} : PlNext (execLockDrain lease s) := by
  unfold execLockDrain
  split
  · exact h.next
  · split
    · exact PlNext.ite h.next h.drainHolder.modLease.next
    · exact h.next

theorem State.PlLegal.next_execLockGrant (h : s.PlLegal) {lease} : PlNext (execLockGrant lease s) := by
  unfold execLockGrant
  split
  · exact h.next
  · split
    · exact PlNext.ite h.grantLock.next h.next
    · exact h.next

theorem State.PlLegal.next_execGuardNotice (h : s.PlLegal) {notice} : PlNext (execGuardNotice notice s) := by
  unfold execGuardNotice
  dsimp only
  split
  · exact h.next
  · split
    · exact h.next
    · exact PlNext.ite h.same.next h.same.modCell.next

end

end Sys2Proof.Machine
end

section
/-! PROOFS. Privilege levels: fault reports keep the levels legal (Sys2Proof/Machine/Faults.lean). -/

set_option Elab.async false

namespace Sys2Proof.Machine

section
variable {s t : State} {c : Ctx}

theorem State.PlLegal.ringWrite {part base size : Nat} (l : List (List Byte)) : ∀ {s : State}, s.PlLegal → ∀ {i},
    PlGives State.PlLegal (s.ringWrite part base size i l) := by
  induction l with
  | nil => exact fun h _ => .pure h
  | cons b l ih => exact fun h _ => h.deviceWrite.bind fun _ h1 => ih h1

theorem State.PlLegal.writeReport (h : s.PlLegal) {n} : (s.writeReport n).PlLegal := by
  unfold State.writeReport
  split
  · exact h
  dsimp only
  generalize (_ :: _ : List (List Byte)) = pieces
  refine State.PlLegal.ite h.same.modPart ?_
  split
  · exact h.same.modPart
  · rename_i e
    exact (Ends.of_ok e (State.PlLegal.ringWrite _ h.same)).modPart.signal

theorem State.PlLegal.next_execFaultReport (h : s.PlLegal) {report} : PlNext (execFaultReport report s) := by
  unfold execFaultReport
  split
  · exact h.next
  · exact PlNext.ite h.next h.writeReport.next

theorem State.PlLegal.flushReports (h : s.PlLegal) {part} : (s.flushReports part).PlLegal := h.foldl (fun _ _ h1 => h1.writeReport) _

theorem State.PlLegal.next_execFqbaseWrite (h : s.PlLegal) {part v} : PlNext (execFqbaseWrite part v s) :=
  PlNext.ite h.next h.modPart.next

theorem State.PlLegal.next_execFqlostRead (h : s.PlLegal) {part} : PlNext (execFqlostRead part s) := h.same.next

end

end Sys2Proof.Machine
end

section
/-! PROOFS. Privilege levels: packets keep the levels legal (Sys2Proof/Machine/Packets.lean). -/

set_option Elab.async false

namespace Sys2Proof.Machine

section
variable {s t : State} {c : Ctx}

theorem State.PlLegal.setPkt (h : s.PlLegal) {n p} : (s.setPkt n p).PlLegal := h.same

theorem State.PlLegal.performPkt (h : s.PlLegal) {n p} : (s.performPkt n p).PlLegal := by
  unfold State.performPkt
  dsimp only
  exact h.perform.setPkt

theorem State.PlLegal.next_execHomeAccessArrival (h : s.PlLegal) {pkt} : PlNext (execHomeAccessArrival pkt s) := by
  unfold execHomeAccessArrival
  split
  · exact h.next
  · exact PlNext.ite h.next (PlNext.ite h.setPkt.next h.performPkt.next)

theorem State.PlLegal.barrierPkt (h : s.PlLegal) {pkt is} : (s.barrierPkt pkt is).PlLegal := by
  unfold State.barrierPkt
  split
  · exact h
  · exact h.ite (h.same.landReport.ite h.performPkt)

theorem State.PlLegal.next_execBarrierArrival (h : s.PlLegal) {pkt} : PlNext (execBarrierArrival pkt s) := h.barrierPkt.next

theorem State.PlLegal.next_execBarrierDeclaration (h : s.PlLegal) {pkt} : PlNext (execBarrierDeclaration pkt s) := h.barrierPkt.next

theorem State.PlLegal.next_execBarrierByteReport (h : s.PlLegal) {pkt} : PlNext (execBarrierByteReport pkt s) := h.barrierPkt.next

theorem State.PlLegal.next_execRemoteUpdateThread (h : s.PlLegal) {pkt} : PlNext (execRemoteUpdateThread pkt s) := by
  unfold execRemoteUpdateThread
  dsimp only
  split
  · exact h.next
  · split
    · exact h.next
    · split
      · exact h.performPkt.next
      · exact PlNext.ite h.next h.modDie.performPkt.chargeNow.next

theorem State.PlLegal.next_execFabricRequestAtSwitch (h : s.PlLegal) {pkt} : PlNext (execFabricRequestAtSwitch pkt s) := by
  unfold execFabricRequestAtSwitch
  dsimp only
  split
  · exact h.next
  · split
    · exact PlNext.ite h.sendPeer.next h.next
    · split
      · exact h.next
      · split
        · exact h.same.setPkt.next
        · exact PlNext.ite h.same.setPkt.next (PlNext.ite h.setPkt.setPkt.next h.setPkt.setPkt.next)

theorem State.PlLegal.splitOne (h : s.PlLegal) {a m} : (s.splitOne a m).PlLegal := by
  unfold State.splitOne
  split
  · exact h.setPkt
  · exact h.setPkt
  · exact h

theorem State.PlLegal.next_execCombinedReplySplit (h : s.PlLegal) {pkt} : PlNext (execCombinedReplySplit pkt s) := by
  unfold execCombinedReplySplit
  split
  · exact h.next
  · split
    · exact (h.foldl (fun _ _ h1 => h1.splitOne) _).setPkt.next
    · exact (h.foldl (fun _ _ h1 => h1.splitOne) _).setPkt.next
    · exact h.next

theorem State.PlLegal.next_execAccessReply (h : s.PlLegal) {pkt} : PlNext (execAccessReply pkt s) := by
  unfold execAccessReply
  dsimp only
  split
  · exact h.next
  · split
    · exact h.next
    · split
      · split
        · exact PlNext.ite h.same.replyTo.next h.same.next
        · exact h.same.next
      · split
        · exact PlNext.ite h.same.replyTo.next h.same.next
        · exact h.same.next
      · exact h.next

theorem State.PlLegal.next_execPostedAck (h : s.PlLegal) {pkt} : PlNext (execPostedAck pkt s) := by
  unfold execPostedAck
  split
  · exact h.next
  · split
    · exact PlNext.ite h.ackPosted.next h.next
    · exact h.next

theorem State.PlLegal.settleRefused (h : s.PlLegal) {n p} : (s.settleRefused n p).PlLegal := h.ite h.flushReports.endRefused

theorem State.PlLegal.next_execPostedRefusalReport (h : s.PlLegal) {pkt} : PlNext (execPostedRefusalReport pkt s) := by
  unfold execPostedRefusalReport
  split
  · exact h.next
  · split
    · exact PlNext.ite h.refusePosted.settleRefused.next h.next
    · exact h.settleRefused.next
    · exact h.next

theorem State.PlLegal.retry (h : s.PlLegal) {x} : (s.retry x).PlLegal := h.same

theorem State.PlLegal.next_execParkedWake (h : s.PlLegal) {ctx} : PlNext (execParkedWake ctx s) := PlNext.ite h.retry.next h.next

theorem State.PlLegal.next_execFeBackoffRetry (h : s.PlLegal) {ctx} : PlNext (execFeBackoffRetry ctx s) := by
  unfold execFeBackoffRetry
  dsimp only
  split
  · exact PlNext.ite h.retry.next h.next
  · exact h.next

theorem State.PlLegal.next_execIdleWake (h : s.PlLegal) {ctx} : PlNext (execIdleWake ctx s) := by
  unfold execIdleWake
  dsimp only
  split
  · exact PlNext.ite h.retry.next h.next
  · exact h.next

theorem State.PlLegal.next_execL1ReadLeaseEnd (h : s.PlLegal) {cell line} : PlNext (execL1ReadLeaseEnd cell line s) := by
  unfold execL1ReadLeaseEnd
  split
  · exact PlNext.ite h.l1Flush.next h.next
  · exact h.next

theorem State.PlLegal.next_execDirtyLineTimeout (h : s.PlLegal) {cell line} : PlNext (execDirtyLineTimeout cell line s) := by
  unfold execDirtyLineTimeout
  split
  · exact PlNext.ite h.l1WriteBack.next h.next
  · exact h.next

theorem State.PlLegal.next_execL1Eviction (h : s.PlLegal) {cell line} : PlNext (execL1Eviction cell line s) := h.l1Flush.next

theorem State.PlLegal.next_execL1Writeback (h : s.PlLegal) {cell line} : PlNext (execL1Writeback cell line s) := h.l1WriteBack.next

theorem State.PlLegal.next_execL2Eviction (h : s.PlLegal) {die pa} : PlNext (execL2Eviction die pa s) := by
  unfold execL2Eviction
  split
  · exact PlNext.ite h.next h.l2Evict.next
  · exact h.next

theorem State.PlLegal.next_execL2Fill (h : s.PlLegal) {sid va} : PlNext (execL2Fill sid va s) := by
  unfold execL2Fill
  split
  · exact h.l2Fill.next
  · exact h.next

theorem State.PlLegal.next_execDramWriteback (h : s.PlLegal) {die pa} : PlNext (execDramWriteback die pa s) := by
  unfold execDramWriteback
  split
  · exact PlNext.ite h.dramWrite.modDie.next h.next
  · exact h.next

end

end Sys2Proof.Machine
end

section
/-! PROOFS. Privilege levels: delivery contexts keep the levels legal (Sys2Proof/Machine/Peers.lean). -/

set_option Elab.async false

namespace Sys2Proof.Machine

section
variable {s t : State} {c : Ctx}

theorem State.PlLegal.setEnd (h : s.PlLegal) {k e} : (s.setEnd k e).PlLegal := h.same

theorem State.PlLegal.answerPeer (h : s.PlLegal) {k e seq v} : (s.answerPeer k e seq v).PlLegal := by
  unfold State.answerPeer
  dsimp only
  split
  · exact h
  · split
    · exact h.touchEnd.setPkt
    · exact h.touchEnd.setPkt
    · exact h.touchEnd

theorem State.PlLegal.next_execDeliveryReplyArrival (h : s.PlLegal) {ctxnum seq stale v} : PlNext
    (execDeliveryReplyArrival ctxnum seq stale v s) := by
  unfold execDeliveryReplyArrival
  split
  · exact h.next
  · exact h.answerPeer.next

theorem State.PlLegal.next_execRetransmitTimer (h : s.PlLegal) {ctxnum seq} : PlNext (execRetransmitTimer ctxnum seq s) := by
  unfold execRetransmitTimer
  split
  · exact h.next
  · split
    · exact h.next
    · exact PlNext.ite h.touchEnd.next h.next

theorem State.PlLegal.next_execRetransmitExhausted (h : s.PlLegal) {ctxnum seq} : PlNext (execRetransmitExhausted ctxnum seq s) := by
  unfold execRetransmitExhausted
  split
  · exact h.next
  · split
    · exact h.next
    · exact PlNext.ite h.answerPeer.next h.next

theorem State.PlLegal.readOutside (h : s.PlLegal) {part} (l : List (Nat × Nat)) : PlGives (fun r => r.1.PlLegal) (s.readOutside part l)
    := by
  induction l generalizing s with
  | nil => exact .pure h
  | cons p l ih => exact h.homeRead.bind fun ⟨_, _⟩ h1 => (ih h1).bind fun ⟨_, _⟩ h2 => .pure h2

theorem State.PlLegal.writeOutside (h : s.PlLegal) {part va data} (l : List (Nat × Nat)) :
    PlGives State.PlLegal (s.writeOutside part va data l) := by
  induction l generalizing s with
  | nil => exact .pure h
  | cons p l ih => exact h.lineModify.bind fun _ h1 => ih h1

theorem State.PlLegal.serveOutside (h : s.PlLegal) {part va op} : PlGives (fun r => r.1.PlLegal) (s.serveOutside part va op) := by
  unfold State.serveOutside
  split
  · exact (h.readOutside _).bind fun ⟨_, _⟩ h1 => .pure h1
  · exact (h.writeOutside _).bind fun _ h1 => .pure h1
  · exact h.homeRead.bind fun ⟨_, _⟩ h1 => h1.lineModify.bind fun _ h2 => .pure h2
  · exact h.lineModify.bind fun _ h1 => .pure h1
  · exact h.homeRead.bind fun ⟨_, _⟩ h1 => h1.lineModify.bind fun _ h2 => .pure h2

theorem State.PlLegal.serve (h : s.PlLegal) {part va op} : (s.serve part va op).1.PlLegal := by
  unfold State.serve
  split
  · split
    · exact h.serveOutside.ok ‹_›
    · exact h
  · exact h

theorem State.PlLegal.applyFrame (h : s.PlLegal) {k e f} : (s.applyFrame k e f).1.PlLegal := by
  unfold State.applyFrame
  dsimp only
  exact h.serve.same

theorem State.PlLegal.applyKept {k n : Nat} : ∀ {s : State}, s.PlLegal → ∀ {e}, (s.applyKept k e n).PlLegal := by
  induction n with
  | zero => exact fun h _ => h
  | succ n ih =>
    intro s h e
    unfold State.applyKept
    split
    · exact ih h.applyFrame
    · exact h

theorem State.PlLegal.endGoesOn (h : s.PlLegal) {k} : PlNext (s.endGoesOn k) := by
  unfold State.endGoesOn
  split
  · exact PlNext.ite h.next h.applyKept.next
  · exact h.next

theorem State.PlLegal.next_execDeliveryFrameArrival (h : s.PlLegal) {peer frame} : PlNext (execDeliveryFrameArrival peer frame s) := by
  unfold execDeliveryFrameArrival
  dsimp only
  split
  · exact h.next
  · split
    · exact PlNext.ite h.same.next (h.addEnd.touchEnd.ite h.addEnd.applyFrame.applyKept).next
    · exact PlNext.ite h.same.next (PlNext.ite (h.touchEnd.ite h.applyFrame.applyKept).next
        (PlNext.ite h.touchEnd.next h.touchEnd.next))

theorem State.PlLegal.next_execDeliveryContextQuiet (h : s.PlLegal) {endId} : PlNext (execDeliveryContextQuiet endId s) := by
  unfold execDeliveryContextQuiet
  split
  · exact PlNext.ite h.lapse.next h.next
  · exact h.next

theorem State.PlLegal.next_execPortLinkDown (h : s.PlLegal) {port} : PlNext (execPortLinkDown port s) := PlNext.ite h.same.next h.next

theorem State.PlLegal.next_execPortLinkUp (h : s.PlLegal) {port} : PlNext (execPortLinkUp port s) := PlNext.ite h.same.next h.next

theorem State.PlLegal.next_execHostMemoryAccess (h : s.PlLegal) {part va op} : PlNext (execHostMemoryAccess part va op s) := by
  unfold execHostMemoryAccess
  dsimp only
  exact PlNext.ite h.next (PlNext.ite h.modPart.next h.serve.same.next)

theorem State.PlLegal.releaseHeld (h : s.PlLegal) {part} : (s.releaseHeld part).PlLegal := by
  unfold State.releaseHeld
  refine (h.modPart.foldl (fun _ _ h1 => ?_) _).foldl (fun _ _ h1 => h1.ite h1.applyKept) _
  dsimp only
  exact h1.serve.same

end

end Sys2Proof.Machine
end

section
/-! PROOFS. Privilege levels: system instructions keep the levels legal (Sys2Proof/Machine/System.lean). -/

set_option Elab.async false

namespace Sys2Proof.Machine

section
variable {s t : State} {c : Ctx}

theorem State.PlLegal.csrOp (h : s.PlLegal) {d n f} : PlNext (s.csrOp d n f) := by
  unfold State.csrOp
  refine Ends.conclude (h.require.bind fun _ _ => ?_)
  dsimp only
  split
  · exact .halt h.again
  · split
    · split
      · exact .pure (h.mod (fun _ k => k.writeCsr)).acquire.wx.finish
      · exact .pure h.acquire.wx.finish
    · split
      · exact .pure (h.mod (fun _ k => k.writeCsr)).wx.finish
      · exact .pure h.wx.finish

theorem State.PlLegal.next_execCsrr (h : s.PlLegal) {d n} : PlNext (execCsrr d n s) := h.csrOp

theorem State.PlLegal.next_execCsrw (h : s.PlLegal) {d a n} : PlNext (execCsrw d a n s) := h.csrOp

theorem State.PlLegal.next_execCsrs (h : s.PlLegal) {d a n} : PlNext (execCsrs d a n s) := h.csrOp

theorem State.PlLegal.next_execCsrc (h : s.PlLegal) {d a n} : PlNext (execCsrc d a n s) := h.csrOp

theorem State.PlLegal.next_execTrap (h : s.PlLegal) {n} : PlNext (execTrap n s) := h.endInTrap.next

theorem State.PlLegal.next_execEret (h : s.PlLegal) : PlNext (execEret s) := h.eret.next

theorem State.PlLegal.next_execHalt (h : s.PlLegal) : PlNext (execHalt s) :=
  Ends.conclude (h.illInOpt.bind fun _ _ => .ite (.halt h.releaseLines.again) (.pure h.releaseLines.endCtxAt))

theorem State.PlLegal.next_execYield (h : s.PlLegal) : PlNext (execYield s) := (h.mod (fun _ k => k.same)).finish.next

theorem State.PlLegal.next_execIdle (h : s.PlLegal) {d a} : PlNext (execIdle d a s) := PlNext.ite h.stall.next h.wx.finish.next

theorem State.PlLegal.next_execSpawn (h : s.PlLegal) {d a b} : PlNext (execSpawn d a b s) := by
  unfold execSpawn
  dsimp only
  split
  · exact h.result
  · split
    · exact h.result
    · split
      · exact h.result
      · split
        · exact h.result
        · exact (h.newCtx h.self.sibling).wx.finish.next

theorem State.PlLegal.next_execBrk (h : s.PlLegal) {n} : PlNext (execBrk n s) := (h.finish.mod fun _ k => k.same).reportCtx.next

theorem State.PlLegal.bringCharges (h : s.PlLegal) : s.bringCharges.PlLegal := by
  unfold State.bringCharges
  dsimp only
  split
  · exact h
  · split
    · exact h
    · exact (h.foldl (fun _ _ h1 => h1.sendCharges) _).applyCharges

theorem State.PlLegal.budgetAnswer (h : s.PlLegal) {r} : (s.budgetAnswer r).1.PlLegal := by
  unfold State.budgetAnswer
  split
  · exact h
  · split
    · exact h.performBudx
    · split <;> exact h

theorem State.PlLegal.budgetDone (h : s.PlLegal) {r v} : (s.budgetDone r v).PlLegal :=
  ((h.same.mod (fun _ k => k.same)).ite h.same).wx.finish

theorem State.PlLegal.noteTest (h : s.PlLegal) {die} : (s.noteTest die).PlLegal := h.modDie

theorem State.PlLegal.answerBudget (h : s.PlLegal) {r} : (s.answerBudget r).1.PlLegal := by
  unfold State.answerBudget
  dsimp only
  split
  · exact (h.noteTest.ite h).budgetAnswer
  · exact h.budgetAnswer

theorem State.PlLegal.sendBudget (h : s.PlLegal) {r} : (s.sendBudget r).PlLegal := by
  unfold State.sendBudget
  dsimp only
  exact h.takeHold.same.stall.ite h.takeHold.answerBudget.budgetDone

theorem State.PlLegal.next_execBudx (h : s.PlLegal) {d a} : PlNext (execBudx d a s) :=
  Ends.conclude (.ite (.halt h.bringCharges.again) (.pure h.bringCharges.sendBudget))

theorem State.PlLegal.next_execBget (h : s.PlLegal) {d k} : PlNext (execBget d k s) :=
  Ends.conclude (.ite (.halt h.bringCharges.again) (.pure h.bringCharges.sendBudget))

end

end Sys2Proof.Machine
end

section
/-! PROOFS. Privilege levels: the Prompter keep the levels legal (Sys2Proof/Machine/Prompter.lean). -/

set_option Elab.async false

namespace Sys2Proof.Machine

section
variable {s t : State} {c : Ctx}

theorem State.PlLegal.next_execChargeBatchSend (h : s.PlLegal) {cell entry} : PlNext (execChargeBatchSend cell entry s) :=
  PlNext.ite h.sendCharges.next h.next

theorem State.PlLegal.next_execChargeApply (h : s.PlLegal) {die} : PlNext (execChargeApply die s) := h.applyCharges.next

theorem State.PlLegal.next_execGraceCountExhausted (h : s.PlLegal) {entry} : PlNext (execGraceCountExhausted entry s) := by
  unfold execGraceCountExhausted
  split
  · exact h.exhaust.next
  · exact h.next

theorem State.PlLegal.withCtxs (h : s.PlLegal) {f : Nat × Ctx → Nat × Ctx} (hf : ∀ p, p.2.PlLegal → (f p).2.PlLegal) :
    ({ s with ctxs := s.ctxs.map f } : State).PlLegal := h.mapCtxs rfl rfl hf

theorem State.PlLegal.next_execBudRefresh (h : s.PlLegal) {cell entry} : PlNext (execBudRefresh cell entry s) := by
  unfold execBudRefresh
  split
  · exact h
  · refine State.PlLegal.next (State.PlLegal.withCtxs h.same fun p k => ?_)
    split
    · exact k.same
    · exact k

theorem State.PlLegal.serveBudget (h : s.PlLegal) {req budx} : (s.serveBudget req budx).PlLegal := by
  unfold State.serveBudget
  dsimp only
  split
  · exact h
  · split
    · exact h
    · split
      · exact h.applyCharges.answerBudget.same
      · exact h.answerBudget.same

theorem State.PlLegal.next_execBudxRequest (h : s.PlLegal) {req} : PlNext (execBudxRequest req s) := h.serveBudget.next

theorem State.PlLegal.next_execBgetRequest (h : s.PlLegal) {req} : PlNext (execBgetRequest req s) := h.serveBudget.next

theorem State.PlLegal.next_execBudgetReplyArrival (h : s.PlLegal) {req} : PlNext (execBudgetReplyArrival req s) := by
  unfold execBudgetReplyArrival
  dsimp only
  split
  · exact h.next
  · split
    · exact h.next
    · exact PlNext.ite h.same.budgetDone.next h.same.next

theorem State.PlLegal.next_execBudgetTrap (h : s.PlLegal) {ctx} : PlNext (execBudgetTrap ctx s) := by
  unfold execBudgetTrap
  split
  · exact h.next
  · exact PlNext.ite h.noteTurn.takeTrap.next h.next

theorem State.PlLegal.next_execQtailWrite (h : s.PlLegal) {part die v} : PlNext (execQtailWrite part die v s) :=
  PlNext.ite h.next h.modPdie.next

theorem State.PlLegal.next_execQbaseWrite (h : s.PlLegal) {part die v} : PlNext (execQbaseWrite part die v s) :=
  PlNext.ite h.next h.modPdie.next

theorem State.PlLegal.next_execMqpolWrite (h : s.PlLegal) {die part v} : PlNext (execMqpolWrite die part v s) :=
  PlNext.ite h.modPdie.next h.next

theorem State.PlLegal.grantContext (h : s.PlLegal) {part die n e} : (s.grantContext part die n e).1.PlLegal := by
  unfold State.grantContext
  dsimp only
  exact h.same

theorem State.PlLegal.enterEntry (h : s.PlLegal) {part die e} (k : e.pl ≠ 3) : (s.enterEntry part die e).1.PlLegal :=
  h.takeFresh.grantContext.modDie.setEntry k

/-- The level of a queue entry is one bit of its bytes, so 0 or 1 (15 R298). -/
theorem QEntry.ofBytes_pl {die bs} : (QEntry.ofBytes die bs).pl ≠ 3 := by
  have low : fieldOf bs 4 1 < 2 := Nat.mod_lt _ (by decide)
  intro e
  have h3 : fieldOf bs 4 1 % 2 ^ 2 = 3 := congrArg BitVec.toNat e
  omega

/-- The answer of a queue entry, at its place in the ring. -/
theorem State.PlLegal.answered (h : s.PlLegal) {space va bs} :
    (match s.deviceWrite space va bs with | .ok t => t | .error _ => s).PlLegal := by
  split
  · exact Ends.of_ok ‹_› h.deviceWrite
  · exact h

theorem State.PlLegal.next_execQueueEntryTest (h : s.PlLegal) {part die} : PlNext (execQueueEntryTest part die s) := by
  unfold execQueueEntryTest
  dsimp only
  refine PlNext.ite h ?_
  split
  · exact h.applyCharges
  · rename_i e
    have h1 := (Ends.of_ok e h.applyCharges.homeRead).noteTest (die := die)
    refine State.PlLegal.next (State.PlLegal.signal (State.PlLegal.modPdie (State.PlLegal.answered ?_)))
    split
    · exact h1.enterEntry QEntry.ofBytes_pl
    · exact h1

theorem State.PlLegal.stopSlot (h : s.PlLegal) {n x} : (s.stopSlot n x).PlLegal := h.modCtx (fun _ k => k.same)

theorem State.PlLegal.next_execPreemptionRequest (h : s.PlLegal) {ctx} : PlNext (execPreemptionRequest ctx s) := by
  unfold execPreemptionRequest
  split
  · exact h.next
  · split
    · exact PlNext.ite h.stopSlot.next h.next
    · exact h.next

theorem State.PlLegal.withdraw (h : s.PlLegal) {x} : (s.withdraw x).PlLegal := by
  unfold State.withdraw
  dsimp only
  split <;> exact h.same.modCtx (fun _ k => k.same)

theorem State.PlLegal.writeImage {part n : Nat} : ∀ {s : State}, s.PlLegal → ∀ {a}, PlGives State.PlLegal (s.writeImage part a n) := by
  induction n with
  | zero => exact fun h _ => .pure h
  | succ n ih => exact fun h _ => h.freeBytes.deviceWrite.bind fun _ h1 => ih h1

theorem State.PlLegal.evictImage (h : s.PlLegal) {cell} : (s.evictImage cell).1.PlLegal := by
  unfold State.evictImage
  dsimp only
  split
  · split
    · exact h
    · split
      · exact ((Ends.of_ok ‹_› h.writeImage).modCell.modCtx fun _ k => k.same).modPdie
      · exact h.modPdie.report (_die' := 0)
  · exact h

theorem State.PlLegal.vacate (h : s.PlLegal) {x c} : (s.vacate x c).PlLegal := by
  unfold State.vacate
  dsimp only
  split
  · exact (h.evictImage.modCtx (fun _ k => k.same)).ite ((h.evictImage.ite h.evictImage.withdraw).leaveGuest.modCell.modCtx
      (fun _ k => k.same))
  · exact (h.modCtx (fun _ k => k.same)).ite ((h.ite h.withdraw).leaveGuest.modCell.modCtx (fun _ k => k.same))

theorem State.PlLegal.next_execVacatePoint (h : s.PlLegal) {ctx} : PlNext (execVacatePoint ctx s) := by
  unfold execVacatePoint
  dsimp only
  split
  · exact h.next
  · exact PlNext.ite h.vacate.next h.next

theorem State.PlLegal.releaseSlot (h : s.PlLegal) {x} : (s.releaseSlot x).PlLegal := h.modCtx (fun _ k => k.same)

theorem State.PlLegal.clearSlot (h : s.PlLegal) {cell k} : (s.clearSlot cell k).PlLegal := by
  unfold State.clearSlot
  split
  · exact h.releaseSlot
  · exact h

theorem State.PlLegal.moveBindings (h : s.PlLegal) {x slot} : (s.moveBindings x slot).PlLegal := h.same

theorem State.PlLegal.readArea (h : s.PlLegal) {x c} : (s.readArea x c).PlLegal := by
  unfold State.readArea
  dsimp only
  split
  · exact h.modCtx (fun _ k => k.same)
  · exact h

theorem State.PlLegal.restoreInto (h : s.PlLegal) {x c k} : (s.restoreInto x c k).PlLegal :=
  (h.readArea.clearSlot.forget.modCtx (fun _ k1 => k1.same)).moveBindings

theorem State.PlLegal.next_execContextRestore (h : s.PlLegal) {ctx} : PlNext (execContextRestore ctx s) := by
  unfold execContextRestore
  split
  · exact h.next
  · split
    · split
      · split
        · exact h.restoreInto.next
        · exact h.next
      · exact h.next
    · exact h.next

theorem State.PlLegal.endSwitch (h : s.PlLegal) {x} : (s.endSwitch x).PlLegal :=
  (h.modCtx (fun _ k => k.same)).ite (h.modCtx (fun _ k => k.same)).deliverStore

theorem State.PlLegal.holdBack (h : s.PlLegal) {n e cell code data} : (s.holdBack n e cell code data).PlLegal :=
  h.report.modEntry (fun _ h1 => h1.same)

theorem State.PlLegal.placeLeases {n e cell slots ids} (l : List LEntry) : ∀ {s : State}, s.PlLegal →
    (s.placeLeases n e cell slots ids l).1.PlLegal := by
  induction l with
  | nil => exact fun h => h
  | cons r l ih =>
    intro s h
    unfold State.placeLeases
    dsimp only
    split
    · exact h.lacqAt.fst ‹_›
    · exact ih (h.lacqAt.fst ‹_›).modLease

theorem State.PlLegal.placeClasses {n e cell slot x} (l : List Nat) : ∀ {s : State}, s.PlLegal →
    (s.placeClasses n e cell slot x l).PlLegal := by
  induction l with
  | nil => exact fun h => h
  | cons r l ih =>
    intro s h
    unfold State.placeClasses
    dsimp only
    refine State.PlLegal.ite (ih h) ?_
    split
    · exact ih (h.lacqAt.fst ‹_›).modLease
    · exact ih (h.lacqAt.fst ‹_›)

theorem State.PlLegal.readPieces (h : s.PlLegal) {part} (l : List (Nat × Nat)) : PlGives (fun r => r.1.PlLegal) (s.readPieces part l) :=
    by
  induction l generalizing s with
  | nil => exact .pure h
  | cons p l ih => exact h.homeRead.bind fun ⟨_, _⟩ h1 => (ih h1).bind fun ⟨_, _⟩ h2 => .pure h2

theorem State.PlLegal.placeData (h : s.PlLegal) {part cell} (l : List DEntry) : PlGives State.PlLegal (s.placeData part cell l) := by
  induction l generalizing s with
  | nil => exact .pure h
  | cons p l ih => exact (h.readPieces _).bind fun ⟨_, _⟩ h1 => ih h1.modCell

theorem State.PlLegal.clearUncovered (h : s.PlLegal) {n cell} : (s.clearUncovered n cell).PlLegal := h.modCell

theorem State.PlLegal.of_fst {α : Type} {x : α} {p : State × α} (e : p = (t, x)) (h : p.1.PlLegal) : t.PlLegal := h.fst e

theorem State.PlLegal.placeThreads {n e cell} (k : e.PlLegal) (l : List ((Nat × Nat) × Nat)) (h : s.PlLegal) :
    (l.foldl (fun (t : State) p => t.setCtx p.1.2 (t.freshCtx n e cell p.1.1 p.2)) s).PlLegal :=
  h.foldl (fun _ _ h1 => h1.setCtx k.freshCtx) l

theorem State.PlLegal.placeCell (h : s.PlLegal) {n e cell} (k : e.PlLegal) : (s.placeCell n e cell).PlLegal := by
  unfold State.placeCell
  dsimp only
  split
  · exact h.holdBack
  refine State.PlLegal.ite h ?_
  split
  · rename_i e
    have h1 := State.PlLegal.of_fst e (State.PlLegal.placeLeases _ h.same)
    split
    · exact h1.holdBack
    split
    · exact h1.holdBack
    · have h2 := Ends.of_ok ‹_› (h1.clearUncovered.placeData _)
      exact (State.PlLegal.placeClasses _ (State.PlLegal.placeThreads k _ (h2.foldl (fun _ _ h3 => h3.clearSlot) _))).modEntry
        fun _ k => k.same
  · rename_i e
    exact (State.PlLegal.of_fst e (State.PlLegal.placeLeases _ h.same)).holdBack

theorem State.PlLegal.next_execCellPlacement (h : s.PlLegal) {entry cell} : PlNext (execCellPlacement entry cell s) := by
  unfold execCellPlacement
  split
  · exact PlNext.ite (h.placeCell (h.entry ‹_›)).next h.next
  · exact h.next

theorem State.PlLegal.returnSlots (h : s.PlLegal) {cell} : (s.returnSlots cell).PlLegal :=
  h.foldl (fun _ _ h1 => h1.emptySlot.releaseSlot) _

theorem State.PlLegal.next_execSlotAssignment (h : s.PlLegal) {cell} : PlNext (execSlotAssignment cell s) := by
  unfold execSlotAssignment
  dsimp only
  split
  · exact h.returnSlots.next
  · split
    · split
      · exact h.returnSlots.restoreInto.next
      · exact h.returnSlots.next
    · exact h.returnSlots.next
  · split
    · exact (h.returnSlots.placeCell (h.returnSlots.entry ‹_›)).next
    · exact h.returnSlots.next
  · exact (h.returnSlots.foldl (fun _ _ h1 => h1.stopSlot) _).next

theorem State.PlLegal.posted (h : s.PlLegal) {x} : ∀ f ∈ s.packets.flatMap fun (p : Nat × Packet) =>
    if p.2.ctx = x && p.2.posted then [execPostedAck p.1, execPostedRefusalReport p.1] else [], PlNext (f s) := by
  intro f hf
  obtain ⟨_, _, hf⟩ := List.mem_flatMap.1 hf
  split at hf
  · simp only [List.mem_cons, List.not_mem_nil, or_false] at hf
    rcases hf with rfl | rfl
    · exact h.next_execPostedAck
    · exact h.next_execPostedRefusalReport
  · cases hf

theorem State.PlLegal.refreshed (h : s.PlLegal) : ∀ f ∈ (match c.entry with | some n => [execBudRefresh c.cell n] | none => []),
    PlNext (f s) := by
  intro f hf
  split at hf
  · rw [List.mem_singleton.1 hf]
    exact h.next_execBudRefresh
  · cases hf

/-- What can bring an event of a saved context keeps the levels legal. -/
theorem State.PlLegal.bringers (h : s.PlLegal) {x c ev} : ∀ f ∈ s.bringers x c ev, PlNext (f s) := by
  intro f hf
  cases ev with
  | flags _ =>
    simp only [State.bringers, List.mem_cons, List.not_mem_nil, or_false] at hf
    rcases hf with rfl | rfl
    · exact h.next_execEngineOpRetire
    · exact h.next_execEngineOpRetire
  | memFlags _ => exact h.posted f hf
  | ack _ => exact h.posted f hf
  | setBp _ =>
    rcases List.mem_append.1 hf with hf | hf
    · split at hf
      · rw [List.mem_singleton.1 hf]
        exact h.next_execChargeApply
      · cases hf
    · obtain ⟨_, _, rfl⟩ := List.mem_map.1 hf
      exact h.next_execBudxRequest
  | setRbp =>
    obtain ⟨_, _, hf⟩ := List.mem_flatMap.1 hf
    simp only [List.mem_cons, List.not_mem_nil, or_false] at hf
    rcases hf with rfl | rfl
    · exact h.next_execMessageArrival
    · exact h.next_execAntiMessageArrival
  | gvt _ =>
    simp only [State.bringers] at hf
    split at hf
    · simp only [List.mem_cons, List.not_mem_nil, or_false] at hf
      rcases hf with rfl | rfl
      · exact h.next_execGvtPublication
      · exact h.next_execDeferredEntryPerform
    · cases hf
  | bud _ => exact h.refreshed f hf
  | dl _ => exact h.refreshed f hf

theorem State.plSome_brought {x ev} (l : List (State → Host.Outcome State Fault Refusal)) (hl : ∀ f ∈ l, PlNext (f s)) :
    PlSome (s.brought x ev l) := by
  induction l with
  | nil => trivial
  | cons f l ih =>
    have h1 := ih fun g hg => hl g (List.mem_cons_of_mem _ hg)
    have h2 := hl f List.mem_cons_self
    unfold State.brought
    split
    · rename_i e
      rw [e] at h2
      split
      · exact h2
      · exact h1
    · exact h1

theorem State.PlLegal.next_execSavedContextEvent (h : s.PlLegal) {ctx ev} : PlNext (execSavedContextEvent ctx ev s) := by
  unfold execSavedContextEvent
  split
  · exact h
  refine PlNext.ite h ?_
  rename_i c _
  have h1 := s.plSome_brought (x := ctx) (ev := ev) (s.bringers ctx c ev) h.bringers
  cases e : s.brought ctx ev (s.bringers ctx c ev) with
  | none => exact h
  | some t => exact h1.some e

theorem State.PlLegal.next_execSabaseWrite (h : s.PlLegal) {part die v} : PlNext (execSabaseWrite part die v s) :=
  PlNext.ite h.next h.modPdie.next

theorem State.PlLegal.resumeSlot (h : s.PlLegal) {cell slot} : (s.resumeSlot cell slot).PlLegal := by
  unfold State.resumeSlot
  split
  · exact h
  · exact (h.modCtx (fun _ k => k.same)).ite h

theorem State.PlLegal.debugCommand (h : s.PlLegal) {v} : (s.debugCommand v).PlLegal := h.resumeSlot.ite h

theorem State.PlLegal.next_execDebugResume (h : s.PlLegal) {die cell slot} : PlNext (execDebugResume die cell slot s) :=
  PlNext.ite h.debugCommand.next h.next

theorem State.PlLegal.next_execDebugCommandIgnored (h : s.PlLegal) {die op} : PlNext (execDebugCommandIgnored die op s) :=
  PlNext.ite h.debugCommand.next h.next

end

end Sys2Proof.Machine
end

section
/-! PROOFS. Privilege levels: the partition page keep the levels legal (Sys2Proof/Machine/Partition.lean). -/

set_option Elab.async false

namespace Sys2Proof.Machine

section
variable {s t : State} {c : Ctx}

theorem State.PlLegal.writeFunction (h : s.PlLegal) {part off v} : (s.writeFunction part off v).PlLegal :=
  h.modPdie.ite (h.modPdie.ite (h.modPart.ite (h.modPart.ite (h.modPart.ite (h.modPart.ite h)))))

theorem State.PlLegal.withHostOut (h : s.PlLegal) {o} : ({ s with hostOut := o } : State).PlLegal := h.same

theorem State.PlLegal.execStatisticsBlockRead (h : s.PlLegal) {part n} (e : execStatisticsBlockRead part n s = .next t) : t.PlLegal :=
    by
  unfold Machine.execStatisticsBlockRead at e
  split at e
  · cases e; exact h.withHostOut
  · cases e; exact h.modCell.withHostOut

theorem State.PlLegal.next_execErrcntRead (h : s.PlLegal) {die} : PlNext (execErrcntRead die s) := PlNext.ite h.next h.same.next

theorem State.PlLegal.next_execPmoveWrite (h : s.PlLegal) {part v} : PlNext (execPmoveWrite part v s) :=
  PlNext.ite h.next h.modPart.next

theorem State.PlLegal.flushPages (h : s.PlLegal) {part ps} : (s.flushPages part ps).PlLegal :=
  (h.foldl (fun _ _ h1 => h1.l1Flush) _).foldl (fun _ _ h1 => h1.foldl (fun _ _ h2 => h2.l2Evict) _) _

theorem State.PlLegal.writeFrames (h : s.PlLegal) {p die frame l} : (s.writeFrames p die frame l).PlLegal :=
  h.foldl (fun _ _ h1 => h1.dramWrite) _

theorem State.PlLegal.movePage (h : s.PlLegal) {p dom g f} : (s.movePage p dom g f).PlLegal := h.same.modDie.writeFrames.startJob

theorem State.PlLegal.movePages {dom} (l : List Page) : ∀ {s : State}, s.PlLegal → (s.movePages dom l).1.PlLegal := by
  induction l with
  | nil => exact fun h => h
  | cons p l ih =>
    intro s h
    unfold State.movePages
    split
    · exact h
    · exact ih h.movePage

theorem State.PlLegal.moveRegion (h : s.PlLegal) {part region dom} : (s.moveRegion part region dom).PlLegal := by
  unfold State.moveRegion
  dsimp only
  split
  · exact h.modPart
  refine State.PlLegal.ite h ?_
  split
  · rename_i e
    exact h.modPart.ite (State.PlLegal.of_fst e (State.PlLegal.movePages _ h.flushPages)).modPart
  · exact h.modPart

theorem State.PlLegal.leaveSlice (h : s.PlLegal) {n k} : (s.leaveSlice n k).PlLegal := h.modLease.foldl (fun _ _ h1 => h1.lapse) _

theorem State.PlLegal.leaveChan (h : s.PlLegal) {n part g} : (s.leaveChan n part g).PlLegal := by
  unfold State.leaveChan
  refine h.modLease.foldl (fun _ _ h1 => ?_) _
  split
  · exact h1.flushPages.movePage
  · exact h1.lapse

theorem State.PlLegal.flushSlices (h : s.PlLegal) {part} : (s.flushSlices part).PlLegal :=
  h.foldl (fun _ _ h1 => h1.foldl (fun _ _ h2 => h2.l2Evict) _) _

theorem State.PlLegal.quiesce (h : s.PlLegal) {part} : (s.quiesce part).PlLegal := by
  unfold State.quiesce
  refine (((h.ite h.flushSlices).foldl (fun _ _ h1 => h1.modLease) _).foldl (fun _ _ h1 => ?_) _).modPart.foldl
    (fun _ _ h1 => h1.moveRegion) _
  split
  · exact h1.leaveSlice
  · exact h1.leaveChan
  · exact h1

theorem State.PlLegal.next_execQuiescePoint (h : s.PlLegal) {part} : PlNext (execQuiescePoint part s) :=
  PlNext.ite h.next (PlNext.ite h.modPart.next h.quiesce.releaseHeld.next)

theorem State.PlLegal.putCopy (h : s.PlLegal) {part o life die} : (s.putCopy part o life die).PlLegal := h.same

theorem State.PlLegal.renewCopies (h : s.PlLegal) {die o life} : (s.renewCopies die o life).PlLegal := by
  unfold State.renewCopies
  dsimp only
  split
  · exact h.same
  · exact h

theorem State.PlLegal.ptcmd (h : s.PlLegal) {die part o bad badArg} : (s.ptcmd die part o bad badArg).1.PlLegal := by
  unfold State.ptcmd
  dsimp only
  split
  · exact h
  · split
    · exact h.modDie
    · split
      · exact h.renewCopies.modDie
      · exact (h.foldl (fun _ _ h1 => h1.putCopy) _).modDie

theorem State.PlLegal.portCommand (h : s.PlLegal) {die op part res} : (s.portCommand die op part res).PlLegal := by
  unfold State.portCommand
  dsimp only
  split
  · exact h.ptcmd
  · exact h.ptcmd
  · exact h.ptcmd
  · exact h.ptcmd
  · exact h.ptcmd
  · exact h.ptcmd.modPart.ite h.ptcmd
  · exact h.ite h.modDie

theorem State.PlLegal.next_execPtcmdRoot (h : s.PlLegal) {die part} : PlNext (execPtcmdRoot die part s) := h.portCommand.next

theorem State.PlLegal.next_execPtcmdRing (h : s.PlLegal) {die part res} : PlNext (execPtcmdRing die part res s) := h.portCommand.next

theorem State.PlLegal.next_execPtcmdSlice (h : s.PlLegal) {die part res} : PlNext (execPtcmdSlice die part res s) := h.portCommand.next

theorem State.PlLegal.next_execPtcmdChannelGroup (h : s.PlLegal) {die part res} : PlNext (execPtcmdChannelGroup die part res s) :=
  h.portCommand.next

theorem State.PlLegal.next_execPtcmdShare (h : s.PlLegal) {die part res} : PlNext (execPtcmdShare die part res s) := h.portCommand.next

theorem State.PlLegal.next_execPtcmdKeySlot (h : s.PlLegal) {die part res} : PlNext (execPtcmdKeySlot die part res s) :=
  h.portCommand.next

theorem State.PlLegal.next_execPtcmdReservedOp (h : s.PlLegal) {die op} : PlNext (execPtcmdReservedOp die op s) :=
  PlNext.ite h.next h.portCommand.next

theorem State.PlLegal.next_execPtcmdApplied (h : s.PlLegal) {die} : PlNext (execPtcmdApplied die s) := PlNext.ite h.modDie.next h.next

theorem State.PlLegal.rtRefuse (h : s.PlLegal) {die code} : (s.rtRefuse die code).PlLegal := h.modDie

theorem State.PlLegal.retireRow (h : s.PlLegal) {die chan bank row} : (s.retireRow die chan bank row).PlLegal :=
  h.ite (h.rtRefuse.ite (h.rtRefuse.ite h.modDie))

theorem State.PlLegal.retireRing (h : s.PlLegal) {die ring} : (s.retireRing die ring).PlLegal :=
  h.ite (h.rtRefuse.ite (h.rtRefuse.ite (h.rtRefuse.ite (h.modDie.foldl (fun _ _ h1 => h1.startJob) _))))

theorem State.PlLegal.next_execRetireDramRow (h : s.PlLegal) {die chan bank row} : PlNext (execRetireDramRow die chan bank row s) :=
  h.retireRow.next

theorem State.PlLegal.next_execRetireRing (h : s.PlLegal) {die ring} : PlNext (execRetireRing die ring s) := h.retireRing.next

theorem State.PlLegal.next_execRetirementDone (h : s.PlLegal) {die} : PlNext (execRetirementDone die s) :=
  PlNext.ite h.modDie.next h.next

theorem State.PlLegal.writeManagement (h : s.PlLegal) {die off v} : (s.writeManagement die off v).PlLegal :=
  h.portCommand.ite (h.modDie.ite (h.modDie.ite ((h.retireRow.ite h.retireRing).ite (h.modPdie.ite (h.debugCommand.ite h)))))

theorem State.PlLegal.next_execRegisterWrite (h : s.PlLegal) {port off v} : PlNext (execRegisterWrite port off v s) := by
  unfold execRegisterWrite
  split
  · exact PlNext.ite h.next h.writeFunction.next
  · exact PlNext.ite h.writeManagement.next h.next

end

end Sys2Proof.Machine
end

section
/-! PROOFS. Privilege levels: reset and bring-up keep the levels legal (Sys2Proof/Machine/Boot.lean). -/

set_option Elab.async false

namespace Sys2Proof.Machine

section
variable {s t : State} {c : Ctx}

theorem State.PlLegal.next_execRotationChangeWrite (h : s.PlLegal) {cell rot} : PlNext (execRotationChangeWrite cell rot s) :=
  PlNext.ite h.writeRot.next h.next

theorem State.PlLegal.next_execRotationBoundary (h : s.PlLegal) {cell} : PlNext (execRotationBoundary cell s) :=
  PlNext.ite h.rotBoundary.next h.next

theorem State.PlLegal.next_execSplitChangeWrite (h : s.PlLegal) {cell spsz} : PlNext (execSplitChangeWrite cell spsz s) :=
  PlNext.ite h.writeSplit.next h.next

theorem State.PlLegal.next_execSplitChangeDone (h : s.PlLegal) {cell} : PlNext (execSplitChangeDone cell s) :=
  PlNext.ite h.splitDone.next h.next

theorem State.PlLegal.next_execSprfClear (h : s.PlLegal) {cell} : PlNext (execSprfClear cell s) := PlNext.ite h.clearSprf.next h.next

theorem State.PlLegal.next_execFunctionLevelReset (h : s.PlLegal) {part} : PlNext (execFunctionLevelReset part s) :=
  PlNext.ite h.next h.modPart.next

theorem State.PlLegal.next_execFlrHoldEnd (h : s.PlLegal) {part} : PlNext (execFlrHoldEnd part s) := PlNext.ite h.modPart.next h.next

/-- No context and no entry is left after power-on (21 R370). -/
theorem State.PlLegal.cold {on} : (s.cold on).PlLegal := ⟨fun _ h => (nomatch h), fun _ h => (nomatch h)⟩

theorem State.PlLegal.next_execModuleReset (h : s.PlLegal) : PlNext (execModuleReset s) :=
  PlNext.ite h.next ((State.PlLegal.cold (s := s) (on := true)).same.next)

theorem State.PlLegal.next_execPowerOn (h : s.PlLegal) : PlNext (execPowerOn s) := PlNext.ite h.next State.PlLegal.cold.next

theorem State.PlLegal.next_execPowerLoss : PlNext (execPowerLoss s) := State.PlLegal.cold.next

theorem State.PlLegal.loadImage (h : s.PlLegal) {img} : (s.loadImage img).PlLegal :=
  (h.foldl (fun _ _ h1 => h1.modDie) _).foldl (fun _ _ h1 => h1.foldl (fun _ _ h2 => h2.modPdie) _) _

theorem State.PlLegal.withStage (h : s.PlLegal) {b k n} : ({ s with img := b, stage := k, house := n } : State).PlLegal := h.same

theorem State.PlLegal.boot (h : s.PlLegal) {b} : (s.boot b).PlLegal := h.loadImage.withStage

theorem State.PlLegal.next_execImageCheck (h : s.PlLegal) : PlNext (execImageCheck s) :=
  PlNext.ite h.next (PlNext.ite h.boot.next (PlNext.ite h.boot.next h.same.next))

theorem State.PlLegal.rescrub (h : s.PlLegal) {die} : (s.rescrub die).PlLegal :=
  (h.foldl (fun _ _ h1 => h1.startJob) _).foldl (fun _ _ h1 => h1.startJob) _

theorem State.PlLegal.next_execDramCalibration (h : s.PlLegal) {failed} : PlNext (execDramCalibration failed s) := by
  have h1 := h.foldl (f := fun s d => s.rescrub d) (fun _ _ h1 => h1.rescrub) (List.range Config.dies)
  exact PlNext.ite h.next h1.same.next

theorem State.PlLegal.next_execDieLinkTraining (h : s.PlLegal) {pass} : PlNext (execDieLinkTraining pass s) :=
  PlNext.ite h.next (PlNext.ite h.same.next h.same.next)

theorem State.PlLegal.next_execPcieTraining (h : s.PlLegal) {up width rate} : PlNext (execPcieTraining up width rate s) :=
  PlNext.ite h.next (PlNext.ite h.same.next h.same.next)

theorem State.PlLegal.next_execCxlNegotiation (h : s.PlLegal) {accepted} : PlNext (execCxlNegotiation accepted s) :=
  PlNext.ite h.same.next h.next

theorem State.PlLegal.next_execEthernetAutoneg (h : s.PlLegal) {up} : PlNext (execEthernetAutoneg up s) := PlNext.ite h.same.next h.next

theorem State.PlLegal.next_execHostConfigRequest (h : s.PlLegal) {fn} : PlNext (execHostConfigRequest fn s) := h.same.next

theorem State.PlLegal.next_execSmbusReadBstat (h : s.PlLegal) : PlNext (execSmbusReadBstat s) := h.same.next

theorem State.PlLegal.next_execSmbusReadResetCount (h : s.PlLegal) : PlNext (execSmbusReadResetCount s) := h.same.next

theorem State.PlLegal.next_execSmbusOtherCommand (h : s.PlLegal) {cmd} : PlNext (execSmbusOtherCommand cmd s) :=
  PlNext.ite h.next h.same.next

theorem State.PlLegal.next_execAttestationRequest (h : s.PlLegal) {nonce} : PlNext (execAttestationRequest nonce s) :=
  PlNext.ite h.same.next h.same.next

theorem State.PlLegal.poisonAt (h : s.PlLegal) {e} : (s.poisonAt e).PlLegal := by
  unfold State.poisonAt
  dsimp only
  split
  · exact h.modCell
  · exact h.modDie
  · exact h.modDie
  · exact h.modCell
  · exact h.modCtx (fun _ k => k.same)
  · exact h.modCtx (fun _ k => k.same)
  · exact h.modCell
  · exact h.modCell
  · exact h.modCell
  · exact h.same

theorem State.PlLegal.next_execSoftError (h : s.PlLegal) {at_ double} : PlNext (execSoftError at_ double s) := by
  unfold execSoftError
  dsimp only
  split
  · exact h.next
  · split
    · split
      · exact h.poisonAt.modDie.next
      · exact h.same.poisonAt.modDie.next
    · exact h.modDie.next

theorem State.PlLegal.next_execFrameSecondMapping (h : s.PlLegal) {die frame sid va} : PlNext
    (execFrameSecondMapping die frame sid va s) := by
  unfold execFrameSecondMapping
  dsimp only
  split
  · exact h.next
  · exact PlNext.ite h.next h.same.next

end

end Sys2Proof.Machine
end

section
/-! PROOFS. Privilege levels: the issue of an instruction keep the levels legal (Sys2Proof/Machine/Issue.lean). -/

set_option Elab.async false

namespace Sys2Proof.Machine

section
variable {s t : State} {c : Ctx}

theorem State.PlLegal.next_execMigrationReturn (h : s.PlLegal) {ctx} : PlNext (execMigrationReturn ctx s) := by
  unfold execMigrationReturn
  split
  · exact h.next
  · exact PlNext.ite h.comeHome.next h.next

theorem State.PlLegal.chargeIssue (h : s.PlLegal) {x} : (s.chargeIssue x).PlLegal := h.chargeRolled.modCtx (fun _ k => k.countIssue)

theorem State.PlLegal.noteIssue (h : s.PlLegal) {x} : (s.noteIssue x).PlLegal := h.noteTurn.ite h.noteTurn.modCell

theorem State.PlLegal.issueWord (h : s.PlLegal) {x w} : (s.issueWord x w).PlLegal := h.chargeIssue.noteIssue.modCtx (fun _ k => k.same)

theorem State.PlLegal.next_execIllegalInstructionWord (h : s.PlLegal) {w} : PlNext (execIllegalInstructionWord w s) := by
  unfold execIllegalInstructionWord
  split
  · rename_i e _
    have h1 := Ends.of_ok e h.fetchWord
    exact PlNext.ite h1.issueWord.trap.next h.next
  · exact h.next

theorem State.PlLegal.next_execInstructionFetchFault (h : s.PlLegal) {code} : PlNext (execInstructionFetchFault code s) := by
  unfold execInstructionFetchFault
  split
  · exact PlNext.ite h.issueWord.trap.next h.next
  · exact h.next

theorem State.PlLegal.withCur (h : s.PlLegal) {x} : ({ s with cur := x } : State).PlLegal := h.same

theorem State.PlLegal.freshIssue (h : s.PlLegal) {x} : (s.freshIssue x).1.PlLegal := by
  unfold State.freshIssue
  dsimp only
  split
  · exact h.withCur
  · rename_i e
    have h1 := Ends.of_ok e h.withCur.fetchWord
    split
    · exact h.withCur
    · split
      · exact h1.issueWord
      · exact h1.issueWord

theorem State.PlLegal.poisonImage (h : s.PlLegal) {x} : (s.poisonImage x).PlLegal := by
  unfold State.poisonImage
  dsimp only
  exact (h.same.wordAt.modCtx (fun _ k => k.same)).noteIssue.trapAlone

theorem State.PlLegal.issueOf (h : s.PlLegal) {x} : (s.issueOf x).1.PlLegal := by
  unfold State.issueOf
  dsimp only
  split
  · split <;> exact h.same.noteIssue.ite h.same
  · split
    · exact h.same
    · exact h.freshIssue

theorem State.PlLegal.passCycle (h : s.PlLegal) : s.passCycle.PlLegal :=
  (h.foldl (fun _ _ h1 => h1.modDie) _).endJobs.foldl (fun _ _ h1 => h1.endSwitch) _

end

end Sys2Proof.Machine
end

section
/-! PROOFS. Privilege levels: every meaning, every step of a unit and every move keep the levels legal. -/

set_option Elab.async false

namespace Sys2Proof.Machine

section
variable {s t : State} {c : Ctx}

theorem exec_statisticsBlockRead {part n} : exec (.statisticsBlockRead part n) s = execStatisticsBlockRead part n s := rfl

theorem State.PlLegal.next_exec (h : s.PlLegal) (i : Instr) : PlNext (exec i s) := by
  cases i with
  | add => exact h.next_execAdd
  | sub => exact h.next_execSub
  | and => exact h.next_execAnd
  | or => exact h.next_execOr
  | xor => exact h.next_execXor
  | shl => exact h.next_execShl
  | shr => exact h.next_execShr
  | sra => exact h.next_execSra
  | slt => exact h.next_execSlt
  | sltu => exact h.next_execSltu
  | min => exact h.next_execMin
  | max => exact h.next_execMax
  | minu => exact h.next_execMinu
  | maxu => exact h.next_execMaxu
  | mul => exact h.next_execMul
  | mulh => exact h.next_execMulh
  | mulhu => exact h.next_execMulhu
  | div => exact h.next_execDiv
  | divu => exact h.next_execDivu
  | rem => exact h.next_execRem
  | remu => exact h.next_execRemu
  | clz => exact h.next_execClz
  | ctz => exact h.next_execCtz
  | popc => exact h.next_execPopc
  | bfx => exact h.next_execBfx
  | bfi => exact h.next_execBfi
  | sext => exact h.next_execSext
  | zext => exact h.next_execZext
  | addi => exact h.next_execAddi
  | andi => exact h.next_execAndi
  | ori => exact h.next_execOri
  | xori => exact h.next_execXori
  | slti => exact h.next_execSlti
  | shli => exact h.next_execShli
  | shri => exact h.next_execShri
  | srai => exact h.next_execSrai
  | lui => exact h.next_execLui
  | addpc => exact h.next_execAddpc
  | beq => exact h.next_execBeq
  | bne => exact h.next_execBne
  | blt => exact h.next_execBlt
  | bge => exact h.next_execBge
  | bltu => exact h.next_execBltu
  | bgeu => exact h.next_execBgeu
  | jal => exact h.next_execJal
  | jalr => exact h.next_execJalr
  | ldB => exact h.next_execLdB
  | ldH => exact h.next_execLdH
  | ldW => exact h.next_execLdW
  | ldD => exact h.next_execLdD
  | ldDTake => exact h.next_execLdDTake
  | ldBu => exact h.next_execLdBu
  | ldHu => exact h.next_execLdHu
  | ldWu => exact h.next_execLdWu
  | stB => exact h.next_execStB
  | stH => exact h.next_execStH
  | stW => exact h.next_execStW
  | stD => exact h.next_execStD
  | stDGive => exact h.next_execStDGive
  | ldvEq => exact h.next_execLdvEq
  | ldvLe => exact h.next_execLdvLe
  | stv => exact h.next_execStv
  | amoAdd => exact h.next_execAmoAdd
  | amoMin => exact h.next_execAmoMin
  | amoMax => exact h.next_execAmoMax
  | amoAnd => exact h.next_execAmoAnd
  | amoOr => exact h.next_execAmoOr
  | amoXor => exact h.next_execAmoXor
  | amoSwp => exact h.next_execAmoSwp
  | amoCas => exact h.next_execAmoCas
  | fenceCell => exact h.next_execFenceCell
  | fenceDom => exact h.next_execFenceDom
  | fenceDie => exact h.next_execFenceDie
  | fenceMod => exact h.next_execFenceMod
  | fenceSys => exact h.next_execFenceSys
  | fenceX => exact h.next_execFenceX
  | flagf => exact h.next_execFlagf
  | barArv => exact h.next_execBarArv
  | barWt => exact h.next_execBarWt
  | barAw => exact h.next_execBarAw
  | barExp => exact h.next_execBarExp
  | inv => exact h.next_execInv
  | wb => exact h.next_execWb
  | wbinv => exact h.next_execWbinv
  | pf => exact h.next_execPf
  | vadd => exact h.next_execVadd
  | vsub => exact h.next_execVsub
  | vmul => exact h.next_execVmul
  | vfma => exact h.next_execVfma
  | vmin => exact h.next_execVmin
  | vmax => exact h.next_execVmax
  | vand => exact h.next_execVand
  | vor => exact h.next_execVor
  | vxor => exact h.next_execVxor
  | vshl => exact h.next_execVshl
  | vshr => exact h.next_execVshr
  | vsra => exact h.next_execVsra
  | vcmp => exact h.next_execVcmp
  | vsel => exact h.next_execVsel
  | vabs => exact h.next_execVabs
  | vneg => exact h.next_execVneg
  | vcvt => exact h.next_execVcvt
  | vcvtRtz => exact h.next_execVcvtRtz
  | vrcp => exact h.next_execVrcp
  | vrsq => exact h.next_execVrsq
  | vexp => exact h.next_execVexp
  | vlog => exact h.next_execVlog
  | vbcast => exact h.next_execVbcast
  | vext => exact h.next_execVext
  | vins => exact h.next_execVins
  | vperm => exact h.next_execVperm
  | vred => exact h.next_execVred
  | vld => exact h.next_execVld
  | vst => exact h.next_execVst
  | vgth => exact h.next_execVgth
  | vsct => exact h.next_execVsct
  | pand => exact h.next_execPand
  | por => exact h.next_execPor
  | pxor => exact h.next_execPxor
  | pnot => exact h.next_execPnot
  | pset => exact h.next_execPset
  | psetX => exact h.next_execPsetX
  | pcnt => exact h.next_execPcnt
  | mma => exact h.next_execMma
  | mzero => exact h.next_execMzero
  | mldb => exact h.next_execMldb
  | mrot => exact h.next_execMrot
  | mlda => exact h.next_execMlda
  | msta => exact h.next_execMsta
  | mset => exact h.next_execMset
  | mget => exact h.next_execMget
  | qcvt => exact h.next_execQcvt
  | qchk => exact h.next_execQchk
  | qchkW => exact h.next_execQchkW
  | qstat => exact h.next_execQstat
  | cpy => exact h.next_execCpy
  | cpg => exact h.next_execCpg
  | cps => exact h.next_execCps
  | cpr => exact h.next_execCpr
  | cpq => exact h.next_execCpq
  | snd => exact h.next_execSnd
  | rcv => exact h.next_execRcv
  | wmsg => exact h.next_execWmsg
  | pkmsg => exact h.next_execPkmsg
  | lacqSp => exact h.next_execLacqSp
  | lacqAcc => exact h.next_execLacqAcc
  | lacqCls => exact h.next_execLacqCls
  | lacqL2 => exact h.next_execLacqL2
  | lacqPage => exact h.next_execLacqPage
  | lacqPath => exact h.next_execLacqPath
  | lacqGrp => exact h.next_execLacqGrp
  | renew => exact h.next_execRenew
  | life => exact h.next_execLife
  | llk => exact h.next_execLlk
  | lgen => exact h.next_execLgen
  | lpar => exact h.next_execLpar
  | optOn => exact h.next_execOptOn
  | optOff => exact h.next_execOptOff
  | ckpt => exact h.next_execCkpt
  | rbret => exact h.next_execRbret
  | capld => exact h.next_execCapld
  | capst => exact h.next_execCapst
  | capnar => exact h.next_execCapnar
  | capsetCur => exact h.next_execCapsetCur
  | capsetPerm => exact h.next_execCapsetPerm
  | capsetMint => exact h.next_execCapsetMint
  | capget => exact h.next_execCapget
  | go => exact h.next_execGo
  | home => exact h.next_execHome
  | rld => exact h.next_execRld
  | rst => exact h.next_execRst
  | ramoAdd => exact h.next_execRamoAdd
  | ramoMin => exact h.next_execRamoMin
  | ramoMax => exact h.next_execRamoMax
  | ramoAnd => exact h.next_execRamoAnd
  | ramoOr => exact h.next_execRamoOr
  | ramoXor => exact h.next_execRamoXor
  | ramoSwp => exact h.next_execRamoSwp
  | ramoCas => exact h.next_execRamoCas
  | csrr => exact h.next_execCsrr
  | csrw => exact h.next_execCsrw
  | csrs => exact h.next_execCsrs
  | csrc => exact h.next_execCsrc
  | trap => exact h.next_execTrap
  | eret => exact h.next_execEret
  | halt => exact h.next_execHalt
  | yield => exact h.next_execYield
  | idle => exact h.next_execIdle
  | spawn => exact h.next_execSpawn
  | brk n => exact h.next_execBrk (n := n)
  | budx => exact h.next_execBudx
  | bget => exact h.next_execBget
  | rotationChangeWrite => exact h.next_execRotationChangeWrite
  | rotationBoundary => exact h.next_execRotationBoundary
  | splitChangeWrite => exact h.next_execSplitChangeWrite
  | splitChangeDone => exact h.next_execSplitChangeDone
  | sprfClear => exact h.next_execSprfClear
  | registerWrite => exact h.next_execRegisterWrite
  | homeTickStep => exact h.next_execHomeTickStep
  | leaseExpiry => exact h.next_execLeaseExpiry
  | lapseNotice => exact h.next_execLapseNotice
  | leaseRequestArrival => exact h.next_execLeaseRequestArrival
  | grantReplyDelivery => exact h.next_execGrantReplyDelivery
  | llkTimeout => exact h.next_execLlkTimeout
  | lockDrain => exact h.next_execLockDrain
  | lockGrant => exact h.next_execLockGrant
  | guardNotice => exact h.next_execGuardNotice
  | lapsingEnd => exact h.next_execLapsingEnd
  | scrubJobComplete => exact h.next_execScrubJobComplete
  | cacheSweep => exact h.next_execCacheSweep
  | homeAccessArrival => exact h.next_execHomeAccessArrival
  | accessReply => exact h.next_execAccessReply
  | postedAck => exact h.next_execPostedAck
  | postedRefusalReport => exact h.next_execPostedRefusalReport
  | feBackoffRetry => exact h.next_execFeBackoffRetry
  | parkedWake => exact h.next_execParkedWake
  | idleWake => exact h.next_execIdleWake
  | barrierArrival => exact h.next_execBarrierArrival
  | barrierDeclaration => exact h.next_execBarrierDeclaration
  | barrierByteReport => exact h.next_execBarrierByteReport
  | l1ReadLeaseEnd => exact h.next_execL1ReadLeaseEnd
  | dirtyLineTimeout => exact h.next_execDirtyLineTimeout
  | l1Eviction => exact h.next_execL1Eviction
  | l1Writeback => exact h.next_execL1Writeback
  | l2Eviction => exact h.next_execL2Eviction
  | l2Fill => exact h.next_execL2Fill
  | dramWriteback => exact h.next_execDramWriteback
  | stagehandTakeRequest => exact h.next_execStagehandTakeRequest
  | copyStep => exact h.next_execCopyStep
  | copyStepLanded => exact h.next_execCopyStepLanded
  | copyStepRefusal => exact h.next_execCopyStepRefusal
  | copyPassEnd => exact h.next_execCopyPassEnd
  | copyReplayTimer => exact h.next_execCopyReplayTimer
  | copyRetire => exact h.next_execCopyRetire
  | cprChunkRead => exact h.next_execCprChunkRead
  | cprElementAck => exact h.next_execCprElementAck
  | engineOpStart => exact h.next_execEngineOpStart
  | engineOpRetire => exact h.next_execEngineOpRetire
  | matrixCommand => exact h.next_execMatrixCommand
  | mrotSendBegin => exact h.next_execMrotSendBegin
  | latchTransferEnd => exact h.next_execLatchTransferEnd
  | latchSwap => exact h.next_execLatchSwap
  | messageArrival => exact h.next_execMessageArrival
  | antiMessageArrival => exact h.next_execAntiMessageArrival
  | fabricHeldMessageAccept => exact h.next_execFabricHeldMessageAccept
  | rollbackSequence => exact h.next_execRollbackSequence
  | rollbackRequeueResume => exact h.next_execRollbackRequeueResume
  | gvtRoundStart => exact h.next_execGvtRoundStart
  | gvtCut => exact h.next_execGvtCut
  | gvtReport => exact h.next_execGvtReport
  | gvtReportResult => exact h.next_execGvtReportResult
  | gvtReportRetry => exact h.next_execGvtReportRetry
  | gvtPublication => exact h.next_execGvtPublication
  | deferredEntryPerform => exact h.next_execDeferredEntryPerform
  | groupLapseTrap => exact h.next_execGroupLapseTrap
  | budgetTrap => exact h.next_execBudgetTrap
  | chargeBatchSend => exact h.next_execChargeBatchSend
  | chargeApply => exact h.next_execChargeApply
  | graceCountExhausted => exact h.next_execGraceCountExhausted
  | budRefresh => exact h.next_execBudRefresh
  | budxRequest => exact h.next_execBudxRequest
  | bgetRequest => exact h.next_execBgetRequest
  | qtailWrite => exact h.next_execQtailWrite
  | qbaseWrite => exact h.next_execQbaseWrite
  | queueEntryTest => exact h.next_execQueueEntryTest
  | slotAssignment => exact h.next_execSlotAssignment
  | cellPlacement => exact h.next_execCellPlacement
  | preemptionRequest => exact h.next_execPreemptionRequest
  | vacatePoint => exact h.next_execVacatePoint
  | contextRestore => exact h.next_execContextRestore
  | savedContextEvent => exact h.next_execSavedContextEvent
  | sabaseWrite => exact h.next_execSabaseWrite
  | faultReport => exact h.next_execFaultReport
  | fqbaseWrite => exact h.next_execFqbaseWrite
  | fqlostRead => exact h.next_execFqlostRead
  | statisticsBlockRead part n =>
    rw [exec_statisticsBlockRead]
    generalize e : Machine.execStatisticsBlockRead part n s = o
    cases o with
    | next t => exact h.execStatisticsBlockRead e
    | fault _ => trivial
    | refused _ => trivial
  | errcntRead => exact h.next_execErrcntRead
  | pmoveWrite => exact h.next_execPmoveWrite
  | quiescePoint => exact h.next_execQuiescePoint
  | fabricRequestAtSwitch => exact h.next_execFabricRequestAtSwitch
  | combinedReplySplit => exact h.next_execCombinedReplySplit
  | remoteUpdateThread => exact h.next_execRemoteUpdateThread
  | migrationReturn => exact h.next_execMigrationReturn
  | deliveryFrameArrival => exact h.next_execDeliveryFrameArrival
  | deliveryReplyArrival => exact h.next_execDeliveryReplyArrival
  | retransmitTimer => exact h.next_execRetransmitTimer
  | retransmitExhausted => exact h.next_execRetransmitExhausted
  | deliveryContextQuiet => exact h.next_execDeliveryContextQuiet
  | ptcmdRoot => exact h.next_execPtcmdRoot
  | ptcmdRing => exact h.next_execPtcmdRing
  | ptcmdSlice => exact h.next_execPtcmdSlice
  | ptcmdChannelGroup => exact h.next_execPtcmdChannelGroup
  | ptcmdShare => exact h.next_execPtcmdShare
  | ptcmdKeySlot => exact h.next_execPtcmdKeySlot
  | ptcmdReservedOp => exact h.next_execPtcmdReservedOp
  | ptcmdApplied => exact h.next_execPtcmdApplied
  | mqpolWrite => exact h.next_execMqpolWrite
  | debugResume => exact h.next_execDebugResume
  | debugCommandIgnored => exact h.next_execDebugCommandIgnored
  | retireDramRow => exact h.next_execRetireDramRow
  | retireRing => exact h.next_execRetireRing
  | retirementDone => exact h.next_execRetirementDone
  | functionLevelReset => exact h.next_execFunctionLevelReset
  | flrHoldEnd => exact h.next_execFlrHoldEnd
  | moduleReset => exact h.next_execModuleReset
  | powerOn => exact h.next_execPowerOn
  | imageCheck => exact h.next_execImageCheck
  | dramCalibration => exact h.next_execDramCalibration
  | dieLinkTraining => exact h.next_execDieLinkTraining
  | pcieTraining => exact h.next_execPcieTraining
  | cxlNegotiation => exact h.next_execCxlNegotiation
  | ethernetAutoneg => exact h.next_execEthernetAutoneg
  | hostConfigRequest => exact h.next_execHostConfigRequest
  | hostMemoryAccess => exact h.next_execHostMemoryAccess
  | smbusReadBstat => exact h.next_execSmbusReadBstat
  | smbusReadResetCount => exact h.next_execSmbusReadResetCount
  | smbusOtherCommand => exact h.next_execSmbusOtherCommand
  | attestationRequest => exact h.next_execAttestationRequest
  | illegalInstructionWord => exact h.next_execIllegalInstructionWord
  | instructionFetchFault => exact h.next_execInstructionFetchFault
  | llkRequestArrival => exact h.next_execLlkRequestArrival
  | leaseReplyArrival => exact h.next_execLeaseReplyArrival
  | budgetReplyArrival => exact h.next_execBudgetReplyArrival
  | softError => exact h.next_execSoftError
  | powerLoss => exact State.PlLegal.next_execPowerLoss
  | portLinkDown => exact h.next_execPortLinkDown
  | portLinkUp => exact h.next_execPortLinkUp
  | frameSecondMapping => exact h.next_execFrameSecondMapping

/-! ## The steps of the units -/

/-- The event keeps the levels legal. -/
def PlEvent (f : Event) : Prop := ∀ s, s.PlLegal → PlNext (f s)

/-- Every event of the list keeps the levels legal. -/
def PlEvents (l : List Event) : Prop := ∀ f ∈ l, PlEvent f

theorem PlEvents.nil : PlEvents [] := fun _ h => nomatch h

theorem PlEvents.cons {f : Event} {l : List Event} (h : PlEvent f) (hl : PlEvents l) : PlEvents (f :: l) := by
  intro g hg
  rcases List.mem_cons.1 hg with rfl | hg
  · exact h
  · exact hl g hg

theorem PlEvents.one {f : Event} (h : PlEvent f) : PlEvents [f] := .cons h .nil

theorem PlEvents.append {l m : List Event} (hl : PlEvents l) (hm : PlEvents m) : PlEvents (l ++ m) :=
  fun f hf => (List.mem_append.1 hf).elim (hl f) (hm f)

theorem PlEvents.flatMap {α : Type} {l : List α} {f : α → List Event} (hf : ∀ x, PlEvents (f x)) : PlEvents (l.flatMap f) := by
  intro g hg
  obtain ⟨x, _, hx⟩ := List.mem_flatMap.1 hg
  exact hf x g hx

theorem PlEvents.map {α : Type} {l : List α} {f : α → Event} (hf : ∀ x, PlEvent (f x)) : PlEvents (l.map f) := by
  intro g hg
  obtain ⟨x, _, rfl⟩ := List.mem_map.1 hg
  exact hf x

theorem PlEvents.filterMap {α : Type} {l : List α} {f : α → Option Event} (hf : ∀ x g, f x = some g → PlEvent g) :
    PlEvents (l.filterMap f) := by
  intro g hg
  obtain ⟨x, _, hx⟩ := List.mem_filterMap.1 hg
  exact hf x g hx

theorem PlEvents.ite {p : Prop} [Decidable p] {l m : List Event} (hl : PlEvents l) (hm : PlEvents m) : PlEvents (if p then l else m) :=
    by
  split
  · exact hl
  · exact hm

/-- An event that a condition adds. -/
theorem PlEvent.of_ite {p : Prop} [Decidable p] {f g : Event} (hf : PlEvent f) (e : (if p then some f else none) = some g) : PlEvent g
    := by
  split at e
  · cases e; exact hf
  · cases e

theorem PlEvent.of_ite_not {p : Prop} [Decidable p] {f g : Event} (hf : PlEvent f) (e : (if p then none else some f) = some g) :
    PlEvent g := by
  split at e
  · cases e
  · cases e; exact hf

theorem plEvents_packetEvents : PlEvents s.packetEvents := by
  refine .flatMap fun p => ?_
  dsimp only
  split
  · exact .cons (fun _ h => h.next_execFabricRequestAtSwitch) <| .cons (fun _ h => h.next_execHomeAccessArrival) <|
      .cons (fun _ h => h.next_execBarrierArrival) <| .cons (fun _ h => h.next_execBarrierDeclaration) <|
      .one fun _ h => h.next_execBarrierByteReport
  · exact .one fun _ h => h.next_execRemoteUpdateThread
  · exact .nil
  · exact .ite (.cons (fun _ h => h.next_execPostedAck) <| .one fun _ h => h.next_execAccessReply)
      (.one fun _ h => h.next_execCombinedReplySplit)
  · exact .ite (.cons (fun _ h => h.next_execPostedRefusalReport) <| .one fun _ h => h.next_execAccessReply)
      (.one fun _ h => h.next_execCombinedReplySplit)
  · exact .one fun _ h => h.next_execPostedRefusalReport

theorem plEvents_requestEvents : PlEvents s.requestEvents :=
  .append (.append (.append
    (.flatMap fun _ => .cons (fun _ h => h.next_execLeaseRequestArrival) <| .cons (fun _ h => h.next_execLlkRequestArrival) <|
      .cons (fun _ h => h.next_execGrantReplyDelivery) <| .one fun _ h => h.next_execLeaseReplyArrival)
    (.flatMap fun _ => .cons (fun _ h => h.next_execBudxRequest) <| .cons (fun _ h => h.next_execBgetRequest) <|
      .one fun _ h => h.next_execBudgetReplyArrival))
    (.flatMap fun _ => .cons (fun _ h => h.next_execLapseNotice) <| .one fun _ h => h.next_execGuardNotice))
    (.map fun _ _ h => h.next_execFaultReport)

theorem plEvents_tickEvents : PlEvents tickEvents := .map fun _ _ h => h.next_execHomeTickStep

theorem plEvents_leaseEvents : PlEvents s.leaseEvents :=
  .flatMap fun _ => .ite (.one fun _ h => h.next_execLapsingEnd)
    (.ite (.cons (fun _ h => h.next_execLockDrain) <| .one fun _ h => h.next_execLockGrant) .nil)

theorem plEvents_messageEvents : PlEvents s.messageEvents :=
  .flatMap fun _ => .ite (.cons (fun _ h => h.next_execFabricHeldMessageAccept) <| .one fun _ h => h.next_execMatrixCommand)
    (.cons (fun _ h => h.next_execMessageArrival) <| .cons (fun _ h => h.next_execAntiMessageArrival) <|
      .one fun _ h => h.next_execMatrixCommand)

theorem plEvents_cellEvents : PlEvents s.cellEvents :=
  .flatMap fun _ => .append (.append (.append
    (.cons (fun _ h => h.next_execEngineOpRetire) <| .cons (fun _ h => h.next_execEngineOpRetire) <|
      .cons (fun _ h => h.next_execLatchTransferEnd) <| .cons (fun _ h => h.next_execLatchSwap) <|
      .cons (fun _ h => h.next_execMrotSendBegin) <| .cons (fun _ h => h.next_execEngineOpStart) <|
      .cons (fun _ h => h.next_execEngineOpStart) <| .cons (fun _ h => h.next_execStagehandTakeRequest) <|
      .cons (fun _ h => h.next_execRotationBoundary) <| .one fun _ h => h.next_execSplitChangeDone)
    (.flatMap fun _ => .append (.append (.append
      (.map fun _ _ h => h.next_execCopyStepLanded)
      (.map fun _ _ h => h.next_execCopyStepLanded))
      (.flatMap fun _ => .ite (.map fun _ _ h => h.next_execCprElementAck) .nil))
      (.cons (fun _ h => h.next_execCopyPassEnd) <| .cons (fun _ h => h.next_execCopyReplayTimer) <|
        .cons (fun _ h => h.next_execCprChunkRead) <| .one fun _ h => h.next_execCopyRetire)))
    (.flatMap fun _ => .cons (fun _ h => h.next_execL1ReadLeaseEnd) <| .one fun _ h => h.next_execDirtyLineTimeout))
    (.map fun _ _ h => h.next_execChargeBatchSend)

theorem plEvents_prompterEvents : PlEvents s.prompterEvents :=
  .append (.append (.append (.append (.append
    (.filterMap fun _ _ => PlEvent.of_ite_not fun _ h => h.next_execChargeApply)
    (.flatMap fun _ => .ite .nil (.one fun _ h => h.next_execGraceCountExhausted)))
    (.map fun _ _ h => h.next_execBudRefresh))
    (.flatMap fun _ => .append (.filterMap fun _ _ => PlEvent.of_ite_not fun _ h => h.next_execQueueEntryTest)
      (.cons (fun _ h => h.next_execQuiescePoint) <| .one fun _ h => h.next_execFlrHoldEnd)))
    (.filterMap fun _ _ => PlEvent.of_ite fun _ h => h.next_execVacatePoint))
    (.map fun _ _ h => h.next_execSlotAssignment)

theorem plEvents_groupEvents : PlEvents s.groupEvents :=
  .append
    (.flatMap fun _ => .append (.append
      (.cons (fun _ h => h.next_execGvtRoundStart) <| .cons (fun _ h => h.next_execGvtReportResult) <|
        .one fun _ h => h.next_execGvtReportRetry)
      (.map fun _ _ h => h.next_execGvtCut))
      (.flatMap fun _ => .ite (.cons (fun _ h => h.next_execGvtReport) <| .cons (fun _ h => h.next_execGvtPublication) <|
        .one fun _ h => h.next_execDeferredEntryPerform) .nil))
    (.filterMap fun _ _ => PlEvent.of_ite fun _ h => h.next_execRollbackRequeueResume)

theorem plEvents_portEvents : PlEvents s.portEvents :=
  .append
    (.flatMap fun _ => .append
      (.flatMap fun _ => .ite (.cons (fun _ h => h.next_execRetransmitTimer) <| .one fun _ h => h.next_execRetransmitExhausted) .nil)
      (.cons (fun _ h => h.endGoesOn) <| .one fun _ h => h.next_execDeliveryContextQuiet))
    (.flatMap fun _ => .cons (fun _ h => h.next_execPtcmdApplied) <| .one fun _ h => h.next_execRetirementDone)

theorem plEvents_wakeEvents : PlEvents s.wakeEvents := by
  refine .flatMap fun _ => .ite ?_ .nil
  split
  · exact .one fun _ h => h.next_execParkedWake
  · exact .one fun _ h => h.next_execParkedWake
  · exact .one fun _ h => h.next_execParkedWake
  · exact .one fun _ h => h.next_execFeBackoffRetry
  · exact .one fun _ h => h.next_execIdleWake
  · exact .nil

theorem plEvents_jobEvents : PlEvents s.jobEvents := by
  refine .flatMap fun _ => ?_
  split
  · exact .cons (fun _ h => h.next_execScrubJobComplete) <| .one fun _ h => h.next_execCacheSweep
  · exact .one fun _ h => h.next_execScrubJobComplete

theorem plEvents_events : PlEvents s.events :=
  .append (.append (.append (.append (.append (.append (.append (.append (.append plEvents_jobEvents plEvents_requestEvents)
    plEvents_packetEvents) plEvents_messageEvents) plEvents_cellEvents) plEvents_leaseEvents) plEvents_prompterEvents)
    plEvents_groupEvents) plEvents_portEvents) plEvents_wakeEvents

/-! ## A move -/

/-- What the first event that changes anything leaves. -/
theorem State.PlLegal.findMoved (h : s.PlLegal) {l : List Event} (hl : PlEvents l) (e : l.findSome? (moved s) = some t) : t.PlLegal :=
    by
  obtain ⟨f, hf, e⟩ := List.exists_of_findSome?_eq_some e
  have h1 := hl f hf s h
  unfold moved at e
  split at e
  · rename_i e1
    rw [e1] at h1
    split at e
    · cases e
    · cases e; exact h1
  · cases e

theorem State.PlLegal.runInstr (h : s.PlLegal) {x i} : PlNext (s.runInstr x i) := PlNext.ite h.trapAlone.next (h.next_exec i)

theorem State.PlLegal.doIssue (h : s.PlLegal) {x} : PlNext (s.doIssue x) := by
  unfold State.doIssue
  refine PlNext.ite h ?_
  have h1 := h.issueOf (x := x)
  split
  all_goals (rename_i e; replace h1 := h1.fst e)
  · exact h1.runInstr
  · exact h1.next_execRollbackSequence
  · exact h1.next_execGroupLapseTrap
  · exact h1.poisonImage.next
  · exact h1.next_execBudgetTrap
  · exact h1.next_execInstructionFetchFault
  · exact h1.next_execIllegalInstructionWord
  · exact h1.next_execMigrationReturn

theorem State.PlLegal.ownMove (h : s.PlLegal) : PlNext s.ownMove := by
  unfold State.ownMove
  split
  · exact h.findMoved plEvents_events ‹_›
  split
  · exact h.doIssue
  split
  · exact h.doIssue
  · exact h.next_execCopyStep
  split
  · exact h.doIssue
  split
  · exact h.findMoved plEvents_tickEvents ‹_›
  · exact h.passCycle.next

theorem State.PlLegal.runEvent (h : s.PlLegal) {i} : PlNext (s.runEvent i) := by
  unfold State.runEvent
  split
  · exact h.next_exec i
  · trivial

theorem State.PlLegal.step (h : s.PlLegal) : PlNext (step s) := by
  unfold Machine.step State.move
  split
  · exact State.PlLegal.runEvent h.same
  · split
    · exact State.PlLegal.doIssue h.same
    · trivial
  · split
    · exact h.ownMove
    · trivial

end

/-- Settles O59: every rule of the state keeps the levels legal, and so does every meaning, every step of a unit, and one move. -/
theorem stepKeepsPrivilegeLegal : Obligations.StepKeepsPrivilegeLegal := by
  intro s t hc he hs
  have h := State.PlLegal.step (s := s) ⟨hc, he⟩
  rw [hs] at h
  exact h

end Sys2Proof.Machine
end

section
/-! PROOFS. The predicate operations (01 R15; 06 R153). -/

set_option Elab.async false

namespace Sys2Proof.Machine

section
variable {s : State} {d : BitVec 4}

/-! ## Writing a predicate -/

theorem Ctx.setP_fflags (c : Ctx) (r : Nat) (v : Word) : (c.setP r v).fflags = c.fflags := by
  unfold Ctx.setP
  split <;> rfl

theorem State.wp_finish (s : State) (d : BitVec 4) (v : Word) :
    (s.wp d v).finish = s.mod fun c => { (c.setP d.toNat v).settle s.now with pc := c.pc + 4 } := by
  have cell (c : Ctx) : (c.setP d.toNat v).cell = c.cell := by unfold Ctx.setP; split <;> rfl
  have pc (c : Ctx) : (c.setP d.toNat v).pc = c.pc := by unfold Ctx.setP; split <;> rfl
  have now : (s.mod fun c => c.setP d.toNat v).now = s.now := s.now_mod _ (cell _)
  rw [State.finish, State.wp, now, State.mod_mod]
  simp only [pc]

/-- Completing with a predicate in pd gives its bits, and p0 discards it (01 R15). -/
theorem State.predDone_wp (s : State) (d : BitVec 4) (v : Word) : PredDone s (s.wp d v).finish d fun k => v.getLsbD k := by
  have rp (r : BitVec 4) : (s.wp d v).finish.rp r = if r = d ∧ r ≠ 0 then v else s.rp r := by
    have e : (r.toNat = d.toNat ∧ r.toNat ≠ 0) ↔ (r = d ∧ r ≠ 0) := 
      and_congr BitVec.toNat_inj (not_congr (BitVec.toNat_inj (y := 0#4)))
    rw [State.rp, State.wp_finish, State.self_mod]
    exact (Ctx.p?_setP _ _ _ _).trans (if_congr e rfl rfl)
  refine ⟨State.wp_finish s d v ▸ s.slotOnly_mod _, ?_, fun r hr => ?_, fun hd k _ => ?_⟩
  · rw [State.wp_finish, State.self_mod, Ctx.doneAt_eq]
    unfold Ctx.setP
    split <;> rfl
  · rw [rp, if_neg fun h => hr.elim (absurd h.1) h.2]
  · rw [rp, if_pos ⟨rfl, hd⟩]

/-- An instruction that completes with a predicate gives its bits and raises no flag. -/
theorem givesP_of_wp {i : Instr} {v : Word} {on : Nat → Bool} (h : exec i s = .next (s.wp d v).finish)
    (hv : ∀ k, k < 64 → v.getLsbD k = on k) : GivesP i s d on := by
  obtain ⟨slot, keeps, ps, bits⟩ := s.predDone_wp d v
  refine ⟨_, h, ⟨slot, keeps, ps, fun hd k hk => (bits hd k hk).trans (hv k hk)⟩, ?_⟩
  rw [State.wp_finish, State.self_mod]
  exact Ctx.setP_fflags _ _ _

/-! ## Counting -/

theorem countOnes_eq_countP (a : Word) (n : Nat) : countOnes a n = (List.range n).countP fun i => a.getLsbD i := by
  induction n with
  | zero => rfl
  | succ n ih =>
    rw [countOnes, ih, List.range_succ, List.countP_append, List.countP_singleton]
    cases a.getLsbD n <;> rfl

end

/-- Settles O18: each operation writes the bits that it names, and the count goes to xd. -/
theorem predicateOperations : Obligations.PredicateOperations := by
  intro d a b n k s _ _
  refine ⟨rfl, givesP_of_wp rfl fun i _ => BitVec.getLsbD_and, givesP_of_wp rfl fun i _ => BitVec.getLsbD_or,
    givesP_of_wp rfl fun i _ => BitVec.getLsbD_xor, givesP_of_wp rfl fun i hi => ?_, givesP_of_wp rfl fun i hi => ?_,
    givesP_of_wp rfl fun i _ => rfl, givesX_of_result ?_⟩
  · rw [BitVec.getLsbD_not, decide_eq_true hi, Bool.true_and]
  · rw [BitVec.getLsbD_ofNat, Nat.testBit_two_pow_sub_one, decide_eq_true hi, Bool.true_and]
  · have e : (d.zeroExtend 5).toNat = d.toNat := BitVec.toNat_setWidth_of_le (by decide)
    rw [← countOnes_eq_countP]
    show s.result d _ = s.result (d.zeroExtend 5) _
    unfold State.result State.wx
    rw [e]

end Sys2Proof.Machine
end

section
/-! PROOFS. `spawn` (01 R16; 04 R85). -/

set_option Elab.async false

namespace Sys2Proof.Machine

section
variable {s : State} {d a b : BitVec 5} {c : Ctx}

/-! ## A new context -/

theorem State.newCtx_frame (s : State) (c : Ctx) :
    (s.newCtx c).1.ctxs = tset s.ctxs s.fresh c ∧ (s.newCtx c).1.dies = s.dies ∧ (s.newCtx c).1.cur = s.cur :=
  State.deliverStore_frame _ _ _ _

/-- Where no message is stored for the cell, a new context leaves the cells alone. -/
theorem State.newCtx_cells (h : (s.cell c.cell).gstore = []) : (s.newCtx c).1.cells = s.cells := by
  have none_stored (u : State) (hu : u.cells = s.cells) (x : Nat) : (u.deliverStore c.cell c.part x).cells = s.cells := by
    have hg : (u.cell c.cell).gstore = [] := by
      unfold State.cell at *
      rwa [hu]
    unfold State.deliverStore
    simp only [hg, List.filter_nil, List.isEmpty_nil, if_true]
    exact hu
  exact none_stored ((s.takeFresh.2.setCtx s.fresh c).inheritBindings s.fresh) rfl s.fresh

/-- The acting context is not the new one. -/
theorem State.newCtx_self (h : s.fresh ≠ s.cur) : (s.newCtx c).1.self = s.self := by
  obtain ⟨ctxs, _, cur⟩ := s.newCtx_frame c
  unfold State.self State.ctx
  rw [ctxs, cur, tget_tset_ne _ _ _ (Ne.symm h)]

/-! ## `spawn` -/

/-- The low bits of an entry address (04 R85). -/
theorem and_three_ne_zero_iff (w : Word) : w &&& 3 ≠ 0 ↔ w.toNat % 4 ≠ 0 := by
  have low : (w &&& 3).toNat = w.toNat % 4 := Nat.and_two_pow_sub_one_eq_mod w.toNat 2
  rw [← low, ne_eq, ne_eq, ← BitVec.toNat_inj]
  rfl

theorem exec_spawn_opt (h : s.self.opt = true) : exec (.spawn d a b) s = s.result d (status 4) := if_pos h

theorem exec_spawn_align (ho : s.self.opt = false) (ha : (s.rx a).toNat % 4 ≠ 0) : exec (.spawn d a b) s = s.result d (status 3) := by
  show execSpawn d a b s = _
  unfold execSpawn
  rw [if_neg (by rw [ho]; exact Bool.false_ne_true), if_pos ((and_three_ne_zero_iff _).2 ha)]

section
variable (ho : s.self.opt = false) (ha : (s.rx a).toNat % 4 = 0)
include ho ha

theorem exec_spawn_quota (hq : s.quota s.self.entry ≤ s.threadsOf s.self.entry s.self.cell) :
    exec (.spawn d a b) s = s.result d (status 2) := by
  show execSpawn d a b s = _
  unfold execSpawn
  rw [if_neg (by rw [ho]; exact Bool.false_ne_true), if_neg (mt (and_three_ne_zero_iff _).1 (not_not.2 ha)), if_pos hq]

theorem exec_spawn_full (hq : s.threadsOf s.self.entry s.self.cell < s.quota s.self.entry) (hf : s.freeSlot s.self.cell = none) :
    exec (.spawn d a b) s = s.result d (status 1) := by
  show execSpawn d a b s = _
  unfold execSpawn
  rw [if_neg (by rw [ho]; exact Bool.false_ne_true), if_neg (mt (and_three_ne_zero_iff _).1 (not_not.2 ha)), if_neg (Nat.not_le.2 hq)]
  simp only [hf]

theorem exec_spawn_free {k : Nat} (hq : s.threadsOf s.self.entry s.self.cell < s.quota s.self.entry)
    (hf : s.freeSlot s.self.cell = some k) : ∃ bud dl, exec (.spawn d a b) s =
      (s.newCtx (s.self.sibling k (s.rx a) (s.rx b) bud dl s.now)).1.result d (BitVec.ofNat 64 k) := by
  have e : exec (.spawn d a b) s = execSpawn d a b s := rfl
  rw [e]
  unfold execSpawn
  rw [if_neg (by rw [ho]; exact Bool.false_ne_true), if_neg (mt (and_three_ne_zero_iff _).1 (not_not.2 ha)), if_neg (Nat.not_le.2 hq)]
  simp only [hf]
  exact ⟨_, _, rfl⟩

end

/-- A sibling's registers: its argument in x10, and zero in every other (01 R16). -/
theorem Ctx.x?_sibling (c : Ctx) (k : Nat) (pc arg bud dl : Word) (now r : Nat) :
    (c.sibling k pc arg bud dl now).x? r = if r = 10 then arg else 0 := by
  unfold Ctx.x? Ctx.sibling
  by_cases h : r = 10
  · subst h; rfl
  · simp only [tget_tset, h, if_false]
    split <;> rfl

end

/-- Settles O9: the four statuses in the order of the rule, and the context that a `spawn` sets up. -/
theorem spawnPlacesASibling : Obligations.SpawnPlacesASibling := by
  intro d a b s
  refine ⟨fun h => givesX_of_result (exec_spawn_opt h), fun ho ha => givesX_of_result (exec_spawn_align ho ha),
    fun ho ha hq => givesX_of_result (exec_spawn_quota ho ha hq), fun ho ha hq hf => givesX_of_result (exec_spawn_full ho ha hq hf),
    fun k ho ha hq hf hx => ?_⟩
  obtain ⟨bud, dl, e⟩ := exec_spawn_free (d := d) (b := b) ho ha hq hf
  let n := s.self.sibling k (s.rx a) (s.rx b) bud dl s.now
  obtain ⟨ctxs, dies, cur⟩ := s.newCtx_frame n
  have self := State.newCtx_self (s := s) (c := n) hx
  obtain ⟨⟨_, others⟩, keeps, xs⟩ := (s.newCtx n).1.wroteX_result d (BitVec.ofNat 64 k)
  refine ⟨_, n, e, ?_, rfl, fun r => Ctx.x?_sibling _ _ _ _ _ _ _ r, fun _ => rfl, fun _ => rfl, rfl, rfl, rfl, rfl, rfl, rfl, rfl,
    fun r => ?_, ?_, fun hg => State.newCtx_cells hg, dies⟩
  · rw [others s.fresh (by rw [cur]; exact hx), ctxs, tfind_tset_self]
  · rw [xs r, State.rx, self]; rfl
  · rw [keeps, self, Ctx.doneAt_eq]

end Sys2Proof.Machine
end

section
/-! PROOFS. The reset state and the step that follows it. -/

set_option Elab.async false

namespace Sys2Proof.Machine

/-! ## Reset -/

section
variable {s : State}

/-- Without contexts nothing is tried again. -/
theorem State.nextRetry_of_no_ctx (h : s.ctxs = []) (late : Bool) : s.nextRetry late = none := by
  rw [State.nextRetry, h]
  rfl

/-- Without contexts and cells nothing issues. -/
theorem State.nextIssue_of_no_ctx (h : s.ctxs = []) (hc : s.cells = []) : s.nextIssue = none := by
  have cells : s.activeCells = [] := by rw [State.activeCells, h, hc]; rfl
  have cores : s.activeCores = [] := by rw [State.activeCores, h]; rfl
  unfold State.nextIssue
  rw [cells, cores]
  rfl

/-- A module without contexts and cells goes on: a step that is due, or the next cycle. -/
theorem step_of_no_ctx (hp : s.powered = true) (hs : s.sched = []) (h : s.ctxs = []) (hc : s.cells = []) : ∃ t, step s = .next t := by
  have own : step s = s.ownMove := by
    unfold step State.move
    rw [hs]
    exact if_pos hp
  rw [own]
  unfold State.ownMove
  simp only [State.nextRetry_of_no_ctx h, State.nextIssue_of_no_ctx h hc]
  cases s.due with
  | some t => exact ⟨t, rfl⟩
  | none =>
    cases s.tickDue with
    | some t => exact ⟨t, rfl⟩
    | none => exact ⟨s.passCycle, rfl⟩

end

theorem State.cslst_reset (n : Nat) : State.reset.cslst n = 0 := by
  have empty (k : Nat) : State.reset.slotCode n k = 0 := by
    unfold State.slotCode
    split
    · rfl
    · rfl
  unfold State.cslst
  simp only [empty, Nat.zero_mul]
  rfl

theorem spadSize_default : ({} : Cell).spadSize = 0x4_0000 := by decide

theorem cctl_default : ({} : Cell).cctl = 1 := by decide

/-- Settles O60: the registers and tables of the reset state, and the step that follows it. -/
theorem resetState : Obligations.ResetState := 
  ⟨State.memWf_reset, rfl, rfl, rfl, rfl, fun _ => rfl, fun n => ⟨cctl_default, State.cslst_reset n, spadSize_default⟩,
    fun _ _ => ⟨rfl, rfl, rfl, rfl, rfl, rfl, rfl, rfl⟩,
    fun _ => ⟨rfl, rfl, rfl, rfl, rfl, rfl⟩, fun _ _ _ => rfl, fun _ _ => rfl, step_of_no_ctx rfl rfl rfl rfl⟩

end Sys2Proof.Machine
end

section
/-! PROOFS. One step: a line whose home takes it, the fetch, what an issue changes, and what the schedule names (01 R8, R18;
03 R45, R53, R54; 16 R311; 17 R330; 20 R361). -/

set_option Elab.async false

namespace Sys2Proof.Machine

section
variable {s t : State} {c : Ctx} {space va x : Nat} {w : IWord}

/-! ## A line whose home takes it -/

/-- The bytes and marks of a line in its home's L2, or in DRAM where L2 does not hold it. -/
def State.takenLine (s : State) (p : Page) (va : Nat) : Bank :=
  match tfind (s.die p.die).l2 (p.phys (va / 128 * 128)) with
  | some l => l.data
  | none => s.dramLine p.die (p.phys (va / 128 * 128))

theorem State.l2Victims_length (die slice : Nat) :
    (s.l2Victims die slice).length = ((s.die die).l2.filter fun p => p.2.slice = slice).length := by
  rw [State.l2Victims, List.length_append, Nat.add_comm]
  exact (List.length_eq_length_filter_add _).symm

theorem State.l2MakeRoom_of_room {die slice : Nat} (h : s.L2Room die slice) : s.l2MakeRoom die slice 1 = s := by
  have none_over : s.l2Over die slice 1 = 0 := by
    rw [State.l2Over, State.l2Victims_length]
    unfold State.L2Room at h
    omega
  rw [State.l2MakeRoom, none_over]
  rfl

/-- A home that takes a line gives what it holds of it, and only dies differ. -/
theorem State.homeLine_of_takes (h : s.HomeTakes space va) :
    ∃ p ds, s.judge space va = .ok p ∧ s.homeLine space va = .ok ({ s with dies := ds }, p, s.takenLine p va) := by
  obtain ⟨p, hp, hl⟩ := h
  refine ⟨p, (s.l2Fill p va).1.dies, hp, ?_⟩
  unfold State.homeLine State.takenLine
  rw [hp]
  unfold State.l2Fill
  dsimp only
  cases e : tfind (s.die p.die).l2 (p.phys (va / 128 * 128)) with
  | some l =>
    rw [e] at hl
    simp only [if_pos hl]
  | none =>
    rw [e] at hl
    simp only [State.l2MakeRoom_of_room hl]
    rfl

theorem State.backed_error {e : Byte} (h : s.backed space va = .error e) : e = cXLATE ∨ e = cLAPSED := by
  unfold State.backed at h
  split at h
  · cases h; exact .inl rfl
  · split at h
    · split at h
      · cases h
      · cases h; exact .inr rfl
    · cases h

/-- A home refuses with XLATE or LAPSED (08 R195; 16 R319; 17 R334). -/
theorem State.homeLine_error {e : Byte} (h : s.homeLine space va = .error e) : e = cXLATE ∨ e = cLAPSED := by
  unfold State.homeLine at h
  split at h
  · rename_i d hd
    cases h
    unfold State.judge at hd
    split at hd
    · cases hd; exact .inl rfl
    · exact State.backed_error hd
  · cases h

theorem Bank.merge_zero (b k : Bank) : b.merge k 0 = b := by
  have none_named : ((List.range 128).filter fun k => (0 : BitVec 128).getLsbD k) = [] := by simp
  have no_words : ((List.range 16).filter fun d => ([] : List Nat).any fun k => decide (k / 8 = d)) = [] := by simp
  unfold Bank.merge
  simp only [none_named, no_words, List.foldl_nil]

/-- A judged address lies in no save area. -/
theorem State.not_inSaveArea_of_takes (h : s.HomeTakes space va) : s.inSaveArea space va = false := by
  obtain ⟨p, hp, _⟩ := h
  unfold State.judge at hp
  split at hp
  · cases hp
  · exact Bool.eq_false_of_not_eq_true ‹_›

/-! ## The fetch -/

theorem region_mem {a : Word} (h : 0x1_0000_0000 ≤ a.toNat) (k : a.toNat < 2 ^ 48) : region a = .mem := by
  unfold region
  simp only
  rw [if_neg (by omega), if_neg (by omega), if_neg (by omega), if_neg (by omega), if_neg (by omega), if_neg (by omega), if_pos (by omega)]

theorem State.l1Place_of_room {cell : Nat} (h : (s.cell cell).l1Room) : s.l1Place cell = (s, freePlace 0 (s.cell cell).l1) := if_pos h.2

/-- A fill of a line that the L1 does not hold, where it has a free place, gives the home's bytes. -/
theorem State.l1Fill_of_takes {cell : Nat} (h : s.HomeTakes c.space va) (hl : (s.cell cell).l1Line c.sid va = none)
    (hr : (s.cell cell).l1Room) : ∃ p t id l, s.judge c.space va = .ok p ∧ s.l1Fill cell c va = .ok (t, id, l) ∧
      l.data = s.takenLine p va ∧ t.ctxs = s.ctxs := by
  obtain ⟨p, ds, hp, e⟩ := State.homeLine_of_takes h
  have miss : (({ s with dies := ds } : State).cell cell).l1Line c.sid va = none := hl
  have place := State.l1Place_of_room (s := { s with dies := ds }) hr
  unfold State.l1Fill
  simp only [e, miss, place]
  exact ⟨p, _, _, _, hp, rfl, Bank.merge_zero _ _, rfl⟩

/-- What a fetch reads, where the home of the pc takes its line and, for a thread in its cell, the L1 has room for it. -/
theorem State.fetchWord_of_takes {p : Page} (hr : region (s.ctx x).pc = .mem) (h : s.HomeTakes (s.ctx x).space (s.ctx x).pc.toNat)
    (hl : (s.ctx x).migrated = false → (s.cell (s.ctx x).cell).l1Line (s.ctx x).sid (s.ctx x).pc.toNat = none ∧
      (s.cell (s.ctx x).cell).l1Room)
    (hp : s.judge (s.ctx x).space (s.ctx x).pc.toNat = .ok p)
    (hb : (s.takenLine p (s.ctx x).pc.toNat).bad ((s.ctx x).pc.toNat % 128) 4 = false) :
    ∃ v, s.fetchWord x = .ok (v, BitVec.ofNat 32 (leNat ((s.takenLine p (s.ctx x).pc.toNat).read ((s.ctx x).pc.toNat % 128) 4))) ∧
      v.ctxs = s.ctxs := by
  unfold State.fetchWord
  simp only [hr, ne_eq, not_true_eq_false, if_false]
  cases m : (s.ctx x).migrated with
  | true =>
    obtain ⟨q, ds, hq, e⟩ := State.homeLine_of_takes h
    cases hp.symm.trans hq
    simp [e, hb]
  | false =>
    obtain ⟨miss, room⟩ := hl m
    obtain ⟨q, t, id, l, hq, e, hd, ht⟩ := State.l1Fill_of_takes h miss room
    cases hp.symm.trans hq
    have read : s.l1Read (s.ctx x).cell (s.ctx x) (s.ctx x).pc.toNat 4 = .ok (t, s.takenLine p (s.ctx x).pc.toNat) := by
      unfold State.l1Read State.l1Live
      simp only [miss, State.not_inSaveArea_of_takes h, e, ← hd]
      rfl
    simp [read, hb, ht]

/-- What is read at the home is what the line holds. -/
theorem State.numAt_of_takes {p : Page} {k n : Nat} (h : s.HomeTakes space va) (hp : s.judge space va = .ok p)
    (hn : s.numAt (.mem space va) k = some n) :
    (s.takenLine p va).bad (va % 128) k = false ∧ n = leNat ((s.takenLine p va).read (va % 128) k) := by
  obtain ⟨q, ds, hq, e⟩ := State.homeLine_of_takes h
  cases hp.symm.trans hq
  unfold State.numAt State.homeRead at hn
  simp only [e] at hn
  cases hb : (s.takenLine p va).bad (va % 128) k with
  | true => simp [hb] at hn
  | false => simpa [hb, eq_comm] using hn

theorem State.l1Fill_error {cell : Nat} {e : Byte} (h : s.l1Fill cell c va = .error e) : e = cXLATE ∨ e = cLAPSED := by
  unfold State.l1Fill at h
  split at h
  · cases h; exact State.homeLine_error ‹_›
  · cases h

theorem State.l1Read_error {cell n : Nat} {e : Byte} (h : s.l1Read cell c va n = .error e) : e = cXLATE ∨ e = cLAPSED := by
  have filled {u : State} (k : (u.l1Fill cell c va).map (fun r => (r.1, r.2.2.data)) = .error e) : e = cXLATE ∨ e = cLAPSED := by
    cases f : u.l1Fill cell c va with
    | ok r => rw [f] at k; cases k
    | error d => rw [f] at k; cases k; exact State.l1Fill_error f
  unfold State.l1Read at h
  dsimp only at h
  split at h
  · cases h; exact .inl rfl
  · split at h
    · split at h
      · cases h
      · exact filled h
    · exact filled h

/-- A fetch faults with XLATE, LAPSED or POISON (17 R330). -/
theorem State.fetchWord_error {e : Byte} (h : s.fetchWord x = .error e) : e = cXLATE ∨ e = cLAPSED ∨ e = cPOISON := by
  unfold State.fetchWord at h
  dsimp only at h
  split at h
  · cases h; exact .inl rfl
  split at h
  · rename_i d hd
    cases h
    have : e = cXLATE ∨ e = cLAPSED := by
      split at hd
      · split at hd
        · cases hd
        · cases hd; exact State.homeLine_error ‹_›
      · exact State.l1Read_error hd
    exact this.imp_right .inl
  · split at h
    · cases h; exact .inr (.inr rfl)
    · cases h

/-! ## The issue -/

theorem Ctx.countIssue_eq (c : Ctx) (n : Nat) : ∃ m, c.countIssue n = { c with member := m } := by
  unfold Ctx.countIssue
  split
  · split
    · exact ⟨_, rfl⟩
    · exact ⟨_, rfl⟩
  · exact ⟨_, rfl⟩

@[simp] theorem State.ctx_chargeRolled (cell : Nat) (e : Option Nat) (u r : Nat) : (s.chargeRolled cell e u r).ctx x = s.ctx x := by
  unfold State.chargeRolled
  split <;> rfl

@[simp] theorem State.cyc_chargeRolled (cell : Nat) (e : Option Nat) (u r n : Nat) : (s.chargeRolled cell e u r).cyc n = s.cyc n := by
  unfold State.chargeRolled
  split <;> rfl

@[simp] theorem State.cur_chargeRolled (cell : Nat) (e : Option Nat) (u r : Nat) : (s.chargeRolled cell e u r).cur = s.cur := by
  unfold State.chargeRolled
  split <;> rfl

theorem State.ctx_chargeIssue : ∃ m, (s.chargeIssue x).ctx x = { s.ctx x with member := m } := by
  unfold State.chargeIssue
  rw [State.ctx_modCtx_self, State.ctx_chargeRolled]
  exact (s.ctx x).countIssue_eq 1

@[simp] theorem State.cyc_chargeIssue (n : Nat) : (s.chargeIssue x).cyc n = s.cyc n := State.cyc_chargeRolled _ _ _ _ _
@[simp] theorem State.cur_chargeIssue : (s.chargeIssue x).cur = s.cur := State.cur_chargeRolled _ _ _ _

theorem State.ctx_noteTurn : (s.noteTurn x).ctx x = { s.ctx x with lastIssue := some (s.cyc (dieOfCell (s.ctx x).cell)), gap := 8 } := by
  unfold State.noteTurn
  dsimp only
  split
  all_goals exact State.ctx_modCtx_self s x fun k => { k with lastIssue := some (s.cyc (dieOfCell (s.ctx x).cell)), gap := 8 }

theorem State.ctx_noteIssue : (s.noteIssue x).ctx x = { s.ctx x with lastIssue := some (s.cyc (dieOfCell (s.ctx x).cell)), gap := 8 } := by
  unfold State.noteIssue
  dsimp only
  split <;> exact State.ctx_noteTurn

@[simp] theorem State.cur_noteIssue : (s.noteIssue x).cur = s.cur := by
  unfold State.noteIssue State.noteTurn
  dsimp only
  split <;> split <;> rfl

@[simp] theorem State.cur_issueWord : (s.issueWord x w).cur = s.cur :=
  (State.cur_noteIssue (s := s.chargeIssue x)).trans State.cur_chargeIssue

/-- The context after an issue. -/
theorem State.ctx_issueWord : ∃ m, (s.issueWord x w).ctx x =
    { s.ctx x with word := w, lastIssue := some (s.cyc (dieOfCell (s.ctx x).cell)), gap := 8, member := m } := by
  obtain ⟨m, e⟩ := s.ctx_chargeIssue (x := x)
  refine ⟨m, ?_⟩
  unfold State.issueWord
  rw [State.ctx_modCtx_self, State.ctx_noteIssue, e, State.cyc_chargeIssue]

theorem State.tfind_issueWord : tfind (s.issueWord x w).ctxs x = some ((s.issueWord x w).ctx x) := by
  unfold State.issueWord
  rw [State.ctx_modCtx_self]
  exact tfind_tset_self _ _ _

theorem State.unsent_noteTurn (n : Nat) : ((s.noteTurn x).cell n).unsent = (s.cell n).unsent := by
  unfold State.noteTurn
  dsimp only
  split
  · rfl
  · rw [State.cell_modCell]
    split
    · rename_i e; rw [e]; rfl
    · rfl

theorem State.unsent_noteIssue (n : Nat) : ((s.noteIssue x).cell n).unsent = (s.cell n).unsent := by
  unfold State.noteIssue
  dsimp only
  split
  · exact State.unsent_noteTurn n
  · rw [State.cell_modCell]
    split
    · rename_i e; rw [e]; exact State.unsent_noteTurn _
    · exact State.unsent_noteTurn n

theorem State.units_chargeRolled (n e u r : Nat) :
    (tget {} ((s.chargeRolled n (some e) u r).cell n).unsent e).units = (tget {} (s.cell n).unsent e).units + u := by
  simp only [State.chargeRolled, State.cell_modCell_self, tget_tset_self]

theorem State.chargeIssue_in_cell (hm : (s.ctx x).migrated = false) :
    s.chargeIssue x = (s.chargeRolled (s.ctx x).cell (s.ctx x).entry 1 (if (s.ctx x).inHandler then 1 else 0)).modCtx x fun c =>
      c.countIssue 1 := by
  unfold Ctx.migrated at hm
  unfold State.chargeIssue
  dsimp only
  split
  · rename_i p; simp [p] at hm
  · rfl

/-- A thread in its cell is charged one unit in that cell's batch (16 R311). -/
theorem State.units_issueWord {e : Nat} (he : (s.ctx x).entry = some e) (hm : (s.ctx x).migrated = false) :
    (tget {} ((s.issueWord x w).cell (s.ctx x).cell).unsent e).units = (tget {} (s.cell (s.ctx x).cell).unsent e).units + 1 := by
  have noted := State.unsent_noteIssue (s := s.chargeIssue x) (x := x) (s.ctx x).cell
  refine (congrArg (fun u => (tget {} u e).units) noted).trans ?_
  rw [State.chargeIssue_in_cell hm, he]
  exact State.units_chargeRolled _ _ _ _

/-! ## What an issue does -/

theorem State.hasHandler_of_self {s t : State} (h : s.hasHandler) (h1 : t.self.t1 = s.self.t1) (h2 : t.self.t2 = s.self.t2)
    (hp : t.self.pl = s.self.pl) : t.hasHandler := by
  unfold State.hasHandler Ctx.trapRegs at *
  rwa [h1, h2, hp]

theorem Ctx.readsBad_of_same {c d : Ctx} (hb : d.badRegs = c.badRegs) (hp : d.pl = c.pl) (i : Instr) : d.readsBad i = c.readsBad i := by
  have first : privFirst d i = privFirst c i := by
    unfold privFirst
    rw [hp]
  rw [Ctx.readsBad, Ctx.readsBad, first, hb]

/-- A poisoned source register traps, with nothing reported (20 R361). -/
theorem State.trapped_trapAlone (s : State) (code : Byte) (addr : Word) (h : s.hasHandler) (hb : code ≠ cBUDGET) :
    Trapped s (s.trapAlone code addr) (code.zeroExtend 13) s.self.pc addr :=
  s.trapped_endInTrap ⟨code.zeroExtend 13, code, s.self.pc, s.word, addr, s.word.zeroExtend 64⟩ h rfl hb

/-- A POISON fault with a handler is reported and then taken (20 R361). -/
theorem State.trapped_poison (s : State) (addr : Word) (h : s.hasHandler) :
    Trapped (s.reportCtx s.cur cPOISON true 0 addr (s.word.zeroExtend 64)) (s.trap cPOISON addr) (cPOISON.zeroExtend 13) s.self.pc
      addr := by
  unfold State.trap
  dsimp only
  rw [if_pos ⟨rfl, h⟩]
  exact State.trapped_trapAlone _ cPOISON addr h (by decide)

/-- Where the pc is after a trap. -/
theorem Trapped.pc {s t : State} {k : BitVec 13} {epc addr : Word} (h : Trapped s t k epc addr) :
    t.self.pc = (s.self.trapRegs (trapLevel s.self.pl)).tvec := by
  have keeps (c : Ctx) (p : BitVec 2) (k : TrapRegs) : (c.setTrapRegs p k).pc = c.pc := by
    unfold Ctx.setTrapRegs
    split <;> rfl
  rw [h.entry]
  refine (keeps _ _ _).trans ?_
  unfold Ctx.doneAt
  dsimp only
  split <;> rfl

theorem State.self_of_tfind (h : tfind s.ctxs s.cur = some c) : s.self = c := by
  unfold State.self State.ctx tget
  rw [h]
  rfl

theorem State.self_issueWord : ∃ m, (s.issueWord s.cur w).self =
    { s.self with word := w, lastIssue := some (s.cyc (dieOfCell s.self.cell)), gap := 8, member := m } := by
  unfold State.self
  rw [State.cur_issueWord]
  exact State.ctx_issueWord

/-- The word that the acting context fetches is charged and traps where it names no instruction (03 R52, R54). -/
theorem exec_illegalInstructionWord_fetched {e : DecodeError} (hx : (tfind s.ctxs s.cur).isSome = true) (hf : s.self.fetches = true)
    (h : s.fetchWord s.cur = .ok (t, w)) (hd : decodeWord w = .error e) :
    exec (.illegalInstructionWord w) s = .next ((t.issueWord s.cur w).trap cILL 0) := by
  obtain ⟨c, hc⟩ := Option.isSome_iff_exists.1 hx
  rw [State.self_of_tfind hc] at hf
  show execIllegalInstructionWord w s = _
  unfold execIllegalInstructionWord
  simp only [hc, h, hd, hf, beq_self_eq_true, Bool.and_self, if_true]

/-- A fetch that faults is charged and traps with the pc (17 R330). -/
theorem exec_instructionFetchFault_fetched {code : Byte} (hx : (tfind s.ctxs s.cur).isSome = true) (hf : s.self.fetches = true)
    (h : s.fetchWord s.cur = .error code) :
    exec (.instructionFetchFault code) s = .next ((s.issueWord s.cur 0).trap code s.self.pc) := by
  obtain ⟨c, hc⟩ := Option.isSome_iff_exists.1 hx
  rw [State.self_of_tfind hc] at hf ⊢
  show execInstructionFetchFault code s = _
  unfold execInstructionFetchFault
  simp only [hc, h, hf, beq_self_eq_true, Bool.and_self, if_true]

/-! ## One step -/

section
variable {u : State} {later : List Move} {i : Instr}

theorem step_issue (hp : s.powered = true) (hs : s.sched = .issue x :: later) : step s = { s with sched := later }.doIssue x := by
  unfold step State.move
  rw [hs]
  exact if_pos hp

theorem step_event (hp : s.powered = true) (hs : s.sched = .event i :: later) : step s = exec i { s with sched := later } := by
  unfold step State.move State.runEvent
  rw [hs]
  exact if_pos (by rw [show ({ s with sched := later } : State).powered = true from hp]; rfl)

theorem State.doIssue_fetchFault {e : Byte} (hr : s.mayRun x = true) (hi : s.issueOf x = (t, .fetchFault e)) :
    s.doIssue x = execInstructionFetchFault e t := by
  unfold State.doIssue
  simp only [hr, hi, Bool.not_true, Bool.false_eq_true, if_false]

theorem State.doIssue_illegal (hr : s.mayRun x = true) (hi : s.issueOf x = (t, .illegal w)) :
    s.doIssue x = execIllegalInstructionWord w t := by
  unfold State.doIssue
  simp only [hr, hi, Bool.not_true, Bool.false_eq_true, if_false]

theorem State.doIssue_comeBack (hr : s.mayRun x = true) (hi : s.issueOf x = (t, .comeBack)) :
    s.doIssue x = execMigrationReturn x t := by
  unfold State.doIssue
  simp only [hr, hi, Bool.not_true, Bool.false_eq_true, if_false]

theorem State.doIssue_run (hr : s.mayRun x = true) (hi : s.issueOf x = (t, .run i)) : s.doIssue x = t.runInstr x i := by
  unfold State.doIssue
  simp only [hr, hi, Bool.not_true, Bool.false_eq_true, if_false]

theorem State.runInstr_of_good (h : (s.ctx x).readsBad i = false) : s.runInstr x i = exec i s := by
  rw [State.runInstr, h, if_neg Bool.false_ne_true]

theorem State.runInstr_of_bad (h : (s.ctx x).readsBad i = true) : s.runInstr x i = .next (s.trapAlone cPOISON 0) := by
  rw [State.runInstr, h, if_pos rfl]

theorem State.issueOf_fresh (hc : (s.ctx x).charged = false) (ht : (s.ctx x).taken = none) : s.issueOf x = s.freshIssue x := by
  unfold State.issueOf
  simp only [hc, ht, Bool.false_eq_true, if_false]

theorem State.freshIssue_fetchFault {e : Byte} (h : { s with cur := x }.fetchWord x = .error e) :
    s.freshIssue x = ({ s with cur := x }, .fetchFault e) := by
  unfold State.freshIssue
  simp only [h]

theorem State.freshIssue_illegal {e : DecodeError} (h : { s with cur := x }.fetchWord x = .ok (t, w)) (hd : decodeWord w = .error e) :
    s.freshIssue x = ({ s with cur := x }, .illegal w) := by
  unfold State.freshIssue
  simp only [h, hd]

theorem State.freshIssue_decoded (h : { s with cur := x }.fetchWord x = .ok (t, w)) (hd : decodeWord w = .ok i) :
    s.freshIssue x =
      (t.issueWord x w, if ((t.issueWord x w).ctx x).migrated && mustReturn ((t.issueWord x w).ctx x) w i then .comeBack else .run i) := by
  unfold State.freshIssue
  simp only [h, hd]
  split <;> rfl

/-- An instruction in flight is tried again without a fetch (01 R18). -/
theorem State.issueOf_charged (hc : (s.ctx x).charged = true) (hd : decodeWord (s.ctx x).word = .ok i) :
    s.issueOf x = (if (s.ctx x).reissues then { s with cur := x }.noteIssue x else { s with cur := x }, .run i) := by
  unfold State.issueOf
  simp only [hc, hd, if_true]

end

end

/-- Settles O57: a step is the issue, the retry or the event that the schedule names; an issue fetches, charges and decodes. -/
theorem stepRunsTheDecodedInstruction : Obligations.StepRunsTheDecodedInstruction := by
  intro s x later hp
  refine ⟨fun hs hr hc ht => ?_, ?_, ?_, ?_, fun i hs => step_event hp hs, ?_⟩
  · have fresh := State.issueOf_fresh (s := { s with sched := later }) hc ht
    refine ⟨fun e h => ?_, fun v w h => ⟨fun e hd => ?_, fun i hd => ⟨fun hm hb => ?_, fun hm => ?_⟩⟩⟩
    · exact (step_issue hp hs).trans (State.doIssue_fetchFault hr (fresh.trans (State.freshIssue_fetchFault h)))
    · exact (step_issue hp hs).trans (State.doIssue_illegal hr (fresh.trans (State.freshIssue_illegal h hd)))
    · refine (step_issue hp hs).trans (State.doIssue_comeBack hr (fresh.trans ((State.freshIssue_decoded h hd).trans ?_)))
      rw [hm, hb]; rfl
    · have run : step s = (v.issueWord x w).runInstr x i := by
        refine (step_issue hp hs).trans (State.doIssue_run hr (fresh.trans ((State.freshIssue_decoded h hd).trans ?_)))
        rcases hm with hm | hm
        · rw [hm]; rfl
        · rw [hm, Bool.and_false]; rfl
      refine ⟨fun hg => run.trans (State.runInstr_of_good hg), fun hb => ⟨_, run.trans (State.runInstr_of_bad hb), fun hh => ?_⟩⟩
      exact State.trapped_trapAlone _ cPOISON 0 hh (by decide)
  · intro h1 h2 _ ht hl n hn
    obtain ⟨p, _, hj, _⟩ := State.homeLine_of_takes ht
    obtain ⟨hb, rfl⟩ := State.numAt_of_takes ht hj hn
    exact State.fetchWord_of_takes (s := { s with sched := later, cur := x }) (region_mem h1 h2) ht hl hj hb
  · intro hx w
    obtain ⟨m, e⟩ := s.ctx_issueWord (x := x) (w := w)
    refine ⟨⟨_, State.tfind_issueWord, ?_⟩, fun e he hm => State.units_issueWord he hm⟩
    rw [e]
  · intro hs hr hc i hd hb
    have tried := (step_issue hp hs).trans
      (State.doIssue_run (s := { s with sched := later }) hr (State.issueOf_charged (s := { s with sched := later }) hc hd))
    refine tried.trans (State.runInstr_of_good ((Ctx.readsBad_of_same ?_ ?_ i).trans hb))
    all_goals split
    · rw [State.ctx_noteIssue]; rfl
    · rfl
    · rw [State.ctx_noteIssue]; rfl
    · rfl
  · intro hx hf
    refine ⟨fun v w e h hd hh => ⟨_, exec_illegalInstructionWord_fetched hx hf h hd,
      (v.issueWord s.cur w).trapped_trap cILL 0 hh (by decide) (by decide)⟩,
      fun code h hh => ⟨_, exec_instructionFetchFault_fetched hx hf h, ?_⟩⟩
    obtain ⟨m, e⟩ := s.self_issueWord (w := 0)
    have hr : (s.issueWord s.cur 0).hasHandler := State.hasHandler_of_self hh (by rw [e]) (by rw [e]) (by rw [e])
    have pc : (s.issueWord s.cur 0).self.pc = s.self.pc := by rw [e]
    have regs : ((s.issueWord s.cur 0).self.trapRegs (trapLevel (s.issueWord s.cur 0).self.pl)).tvec =
        (s.self.trapRegs (trapLevel s.self.pl)).tvec := by rw [e]; rfl
    by_cases hb : code = cPOISON
    · subst hb
      have word : (s.issueWord s.cur 0).word = 0 := by rw [State.word, e]
      have trapped := State.trapped_poison (s.issueWord s.cur 0) s.self.pc hr
      rw [word, pc, State.cur_issueWord] at trapped
      exact ⟨trapped.pc.trans regs, fun n => absurd rfl n, fun _ => trapped⟩
    · have trapped := State.trapped_trap (s.issueWord s.cur 0) code s.self.pc hr hb (by
        rcases State.fetchWord_error h with rfl | rfl | rfl <;> decide)
      rw [pc] at trapped
      exact ⟨trapped.pc.trans regs, fun _ => trapped, fun n => absurd n hb⟩

end Sys2Proof.Machine
end

section
/-! PROOFS. The local address map and the checks of loads and stores (01 R21, R22; 05 R94; 06 R147). -/

set_option Elab.async false

namespace Sys2Proof.Machine

/-! ## The regions of the local address map (01 R21) -/

theorem region_unused {a : Word} (h : a.toNat < 0x0100_0000 ∨ (0x0202_0000 ≤ a.toNat ∧ a.toNat < 0x0300_0000) ∨
    (0x0300_1000 ≤ a.toNat ∧ a.toNat < 0x1_0000_0000) ∨ 2 ^ 48 ≤ a.toNat) : region a = .unused := by
  unfold region
  grind

theorem region_view {a : Word} {v off : Nat} (h : a.toNat = 0x0100_0000 + v * 0x10_0000 + off) (hv : v < 16) (ho : off < 0x10_0000) :
    region a = .view v off := by
  have window : (a.toNat - 0x0100_0000) / 0x10_0000 = v := by omega
  have rest : a.toNat % 0x10_0000 = off := by omega
  unfold region
  simp only
  rw [if_neg (by omega), if_pos (by omega), window, rest]

theorem region_acc {a : Word} {tile off : Nat} (h : a.toNat = 0x0200_0000 + tile * 0x8000 + off) (ht : tile < 4) (ho : off < 0x8000) :
    region a = .acc tile off := by
  have window : (a.toNat - 0x0200_0000) / 0x8000 = tile := by omega
  have rest : a.toNat % 0x8000 = off := by omega
  unfold region
  simp only
  rw [if_neg (by omega), if_neg (by omega), if_pos (by omega), window, rest]

theorem region_page {a : Word} (h : 0x0300_0000 ≤ a.toNat) (k : a.toNat < 0x0300_1000) : region a = .page (a.toNat - 0x0300_0000) := by
  unfold region
  simp only
  rw [if_neg (by omega), if_neg (by omega), if_neg (by omega), if_neg (by omega), if_pos k]

section
variable {s : State} {ea : Word} {n v off tile : Nat} {store fe : Bool}

/-! ## The checks of an address, in their order (01 R22; 05 R94) -/

theorem State.checkAddr_unused (h : region ea = .unused) : s.checkAddr ea n store = some cXLATE := by
  unfold State.checkAddr
  rw [h]

theorem State.checkAddr_closed_view (h : region ea = .view v off) (hv : v = 1 ∨ 10 ≤ v ∨ (v = 9 ∧ store = true)) :
    s.checkAddr ea n store = some cXLATE := by
  unfold State.checkAddr
  simp only [h]
  rcases hv with hv | hv | hv
  · rw [if_pos (.inl hv)]
  · rw [if_pos (.inr hv)]
  · rw [if_neg (by omega), if_pos hv]

/-- The checks of view 0, once its window is known. -/
theorem State.checkAddr_view0 (h : region ea = .view 0 off) : s.checkAddr ea n store =
    if 0x10_0000 < off + n ∨ (s.cell s.self.cell).spadSize < off + n then some cXLATE
    else if s.holdsRange s.self.entry s.self.cell off n = false then some cLAPSED
    else if store = true ∧ s.inBook s.self.cell off n = true then some cXLATE
    else if ea.toNat % n ≠ 0 then some cALIGN
    else none := by
  unfold State.checkAddr
  simp [h, viewSpan]

theorem State.checkAddr_acc (h : region ea = .acc tile off) : s.checkAddr ea n store =
    if store = true then some cXLATE
    else if s.holdsTile s.self.entry s.self.cell tile = false then some cLAPSED
    else if ea.toNat % n ≠ 0 then some cALIGN
    else none := by
  unfold State.checkAddr
  simp [h]

theorem State.checkAddr_page (h : region ea = .page off) : s.checkAddr ea n store =
    if s.self.pl = 0 then some cPRIV else if n ≠ 8 ∨ off % 8 ≠ 0 then some cALIGN else none := by
  unfold State.checkAddr
  simp only [h]

theorem State.checkAddr_mem (h : region ea = .mem) : s.checkAddr ea n store = if ea.toNat % n ≠ 0 then some cALIGN else none := by
  unfold State.checkAddr
  simp [h]

/-- The scratchpad lies within its view. -/
theorem Cell.spadSize_le (c : Cell) : c.spadSize ≤ 0x10_0000 := by
  have := c.spsz.isLt
  unfold Cell.spadSize
  omega

theorem mem_unitsOf {g a n k : Nat} (hn : 0 < n) : k ∈ unitsOf g a n ↔ a / g ≤ k ∧ k ≤ (a + n - 1) / g := by
  have up : a / g ≤ (a + n - 1) / g := Nat.div_le_div_right (by omega)
  simp only [unitsOf, if_neg hn.ne', List.mem_map, List.mem_range]
  constructor
  · rintro ⟨j, hj, rfl⟩
    omega
  · exact fun h => ⟨k - a / g, by omega, by omega⟩

theorem State.holdsRange_iff {e : Option Nat} {cell : Nat} (hn : 0 < n) : s.holdsRange e cell off n = true ↔
    ∀ g, off / 4096 ≤ g → g ≤ (off + n - 1) / 4096 → s.holdsGranule e cell g = true := by
  simp only [State.holdsRange, List.all_eq_true, mem_unitsOf hn, and_imp]

/-! ## What a refused access says -/

theorem State.checkAccess_refused {code : Byte} (h : s.checkAddr ea n store = some code) :
    s.checkAccess ea n store fe = .error (s.trap code ea) := by
  unfold State.checkAccess
  rw [h]
  rfl

theorem State.checkAccess_versioned (h : region ea = .mem) (ha : ea.toNat % n = 0) (hv : s.versioned s.self.space ea.toNat = true) :
    s.checkAccess ea n store fe = .error (s.trap cXLATE ea) := by
  have ok : s.checkAddr ea n store = none := by rw [State.checkAddr_mem h, if_neg (not_not.2 ha)]
  unfold State.checkAccess
  simp only [ok, h, hv]
  rfl


/-- What the checks refuse, in their order, of an access that the instruction makes. -/
def State.Refused (s : State) (ea : Word) (n : Nat) (store : Bool) (ins : Instr) : Prop :=
  let c := s.self
  let k := s.cell c.cell
  let held (off : Nat) : Prop := ∀ g, off / 4096 ≤ g → g ≤ (off + n - 1) / 4096 → s.holdsGranule c.entry c.cell g = true
  let e := ea.toNat
  (e < 0x0100_0000 ∨ (0x0202_0000 ≤ e ∧ e < 0x0300_0000) ∨ (0x0300_1000 ≤ e ∧ e < 0x1_0000_0000) ∨ 2 ^ 48 ≤ e →
    Traps ins s 0x04 ea) ∧
  (∀ v off, e = 0x0100_0000 + v * 0x10_0000 + off → off < 0x10_0000 → v < 16 →
    (v = 1 ∨ 10 ≤ v ∨ (v = 9 ∧ store = true) → Traps ins s 0x04 ea) ∧
    (v = 0 → k.spadSize < off + n → Traps ins s 0x04 ea) ∧
    (v = 0 → off + n ≤ k.spadSize → ¬ held off → Traps ins s 0x08 ea) ∧
    (v = 0 → off + n ≤ k.spadSize → held off → (store = true → s.inBook c.cell off n = false) → off % n ≠ 0 →
      Traps ins s 0x03 ea) ∧
    (v = 0 → off + n ≤ k.spadSize → held off → store = true → s.inBook c.cell off n = true → Traps ins s 0x04 ea)) ∧
  (∀ tile off, e = 0x0200_0000 + tile * 0x8000 + off → off < 0x8000 → tile < 4 →
    (store = true → Traps ins s 0x04 ea) ∧
    (store = false → s.holdsTile c.entry c.cell tile = false → Traps ins s 0x08 ea) ∧
    (store = false → s.holdsTile c.entry c.cell tile = true → e % n ≠ 0 → Traps ins s 0x03 ea)) ∧
  (0x0300_0000 ≤ e → e < 0x0300_1000 →
    (c.pl = 0 → Traps ins s 0x02 ea) ∧ (c.pl ≠ 0 → n ≠ 8 ∨ e % 8 ≠ 0 → Traps ins s 0x03 ea)) ∧
  (0x1_0000_0000 ≤ e → e < 2 ^ 48 →
    (e % n ≠ 0 → Traps ins s 0x03 ea) ∧ (e % n = 0 → s.versioned c.space e = true → Traps ins s 0x04 ea))

section
variable {ins : Instr}

theorem State.refused_view0 (hn : 0 < n) (hd : n ∣ 64) (he : ea.toNat = 0x0100_0000 + off) (ho : off < 0x10_0000)
    (trap : ∀ code, s.checkAddr ea n store = some code → code ≠ cPOISON → code ≠ cBUDGET → Traps ins s code ea) :
    let c := s.self
    let held : Prop := ∀ g, off / 4096 ≤ g → g ≤ (off + n - 1) / 4096 → s.holdsGranule c.entry c.cell g = true
    ((s.cell c.cell).spadSize < off + n → Traps ins s 0x04 ea) ∧
    (off + n ≤ (s.cell c.cell).spadSize → ¬ held → Traps ins s 0x08 ea) ∧
    (off + n ≤ (s.cell c.cell).spadSize → held → (store = true → s.inBook c.cell off n = false) → off % n ≠ 0 →
      Traps ins s 0x03 ea) ∧
    (off + n ≤ (s.cell c.cell).spadSize → held → store = true → s.inBook c.cell off n = true → Traps ins s 0x04 ea) := by
  have size := (s.cell s.self.cell).spadSize_le
  have checks : s.checkAddr ea n store = _ := State.checkAddr_view0 (region_view (v := 0) (by omega) (by decide) ho)
  have window (hk : off + n ≤ (s.cell s.self.cell).spadSize) :
      ¬ (0x10_0000 < off + n ∨ (s.cell s.self.cell).spadSize < off + n) := by omega
  have aligned : ea.toNat % n = off % n := by
    obtain ⟨k, hk⟩ := hd
    have : 0x0100_0000 = n * (k * 0x4_0000) := by rw [← Nat.mul_assoc, ← hk]
    rw [he, this, Nat.mul_add_mod]
  intro c held
  refine ⟨fun hk => ?_, fun hk hh => ?_, fun hk hh hb ha => ?_, fun hk hh hs hb => ?_⟩
  · exact trap cXLATE (by rw [checks, if_pos (.inr hk)]) (by decide) (by decide)
  · have lapsed := Bool.eq_false_of_not_eq_true (mt (State.holdsRange_iff hn).1 hh)
    exact trap cLAPSED (by rw [checks, if_neg (window hk), if_pos lapsed]) (by decide) (by decide)
  · have live := (State.holdsRange_iff hn).2 hh
    have free : ¬ (store = true ∧ s.inBook s.self.cell off n = true) := fun h => Bool.false_ne_true ((hb h.1).symm.trans h.2)
    rw [← aligned] at ha
    exact trap cALIGN (by rw [checks, if_neg (window hk), if_neg (by rw [live]; decide), if_neg free, if_pos ha]) (by decide) (by decide)
  · have live := (State.holdsRange_iff hn).2 hh
    exact trap cXLATE (by rw [checks, if_neg (window hk), if_neg (by rw [live]; decide), if_pos ⟨hs, hb⟩]) (by decide) (by decide)

/-- An instruction that traps where the checks of its access do is refused as they say. -/
theorem State.refused_of (hn : 0 < n) (hd : n ∣ 64)
    (stop : ∀ t, s.checkAccess ea n store false = .error t → exec ins s = .next t) (hh : s.hasHandler) : s.Refused ea n store ins := by
  have trap (code : Byte) (h : s.checkAddr ea n store = some code) (hp : code ≠ cPOISON) (hb : code ≠ cBUDGET) : Traps ins s code ea :=
    traps_of_trap (stop _ (State.checkAccess_refused h)) hh hp hb
  refine ⟨fun h => ?_, fun v off he ho hv => ⟨fun h => ?_, ?_⟩, fun tile off he ho ht => ?_, fun h1 h2 => ?_, fun h1 h2 => ?_⟩
  · exact trap cXLATE (State.checkAddr_unused (region_unused h)) (by decide) (by decide)
  · exact trap cXLATE (State.checkAddr_closed_view (region_view he hv ho) h) (by decide) (by decide)
  · by_cases h0 : v = 0
    · subst h0
      obtain ⟨k1, k2, k3, k4⟩ := State.refused_view0 hn hd (by omega) ho trap
      exact ⟨fun _ => k1, fun _ => k2, fun _ => k3, fun _ => k4⟩
    · exact ⟨fun h => absurd h h0, fun h => absurd h h0, fun h => absurd h h0, fun h => absurd h h0⟩
  · have checks : s.checkAddr ea n store = _ := State.checkAddr_acc (region_acc he ht ho)
    refine ⟨fun hs => trap cXLATE ?_ (by decide) (by decide), fun hs hl => trap cLAPSED ?_ (by decide) (by decide),
      fun hs hl ha => trap cALIGN ?_ (by decide) (by decide)⟩
    · rw [checks, if_pos hs]
    · rw [checks, hs, if_neg Bool.false_ne_true, if_pos hl]
    · rw [checks, hs, if_neg Bool.false_ne_true, hl, if_neg Bool.false_ne_true.symm, if_pos ha]
  · have checks : s.checkAddr ea n store = _ := State.checkAddr_page (region_page h1 h2)
    refine ⟨fun hp => trap cPRIV ?_ (by decide) (by decide), fun hp ha => trap cALIGN ?_ (by decide) (by decide)⟩
    · rw [checks, if_pos hp]
    · rw [checks, if_neg hp, if_pos (ha.imp_right fun k => by omega)]
  · have mem := region_mem h1 h2
    refine ⟨fun ha => trap cALIGN ?_ (by decide) (by decide), fun ha hv => ?_⟩
    · rw [State.checkAddr_mem mem, if_pos ha]
    · exact traps_of_trap (stop _ (State.checkAccess_versioned mem ha hv)) hh (by decide) (by decide)

/-! ## The loads and the stores -/

theorem State.load_stops {t : State} {o w : BitVec 2} (h : s.checkAccess ea n false false = .error t) : s.load ea n o w = .error t := by
  unfold State.load
  rw [h]
  rfl

theorem State.loadX_stops {t : State} {d a : BitVec 5} {o w : BitVec 2} {i : BitVec 12} {signed : Bool}
    (h : s.checkAccess (effAddr (s.rx a) i n) n false false = .error t) : s.loadX d a o w i n signed = .next t := by
  unfold State.loadX
  rw [State.load_stops h]
  rfl

theorem exec_vld_stops {t : State} {d : BitVec 4} {a : BitVec 5} {o w : BitVec 2} {i : BitVec 12}
    (h : s.checkAccess (effAddr (s.rx a) i 64) 64 false false = .error t) : exec (.vld d a o w i) s = .next t := by
  show execVld d a o w i s = _
  unfold execVld
  rw [State.load_stops h]
  rfl

theorem State.store_stops {t : State} {o w : BitVec 2} {bs : List Byte} (hm : s.self.member = none) (hl : bs.length = n)
    (h : s.checkAccess ea n true false = .error t) : s.store ea bs o w = .error t := by
  have now : s.writeNow ea n = .ok true := by
    unfold State.writeNow
    rw [hm]
  unfold State.store
  dsimp only
  rw [hl, now]
  show (s.checkAccess ea n true false >>= _) = _
  rw [h]
  rfl

theorem State.storeX_stops {t : State} {x a : BitVec 5} {o w : BitVec 2} {i : BitVec 12} (hm : s.self.member = none)
    (h : s.checkAccess (effAddr (s.rx a) i n) n true false = .error t) : s.storeX x a o w i n = .next t := by
  unfold State.storeX
  rw [State.store_stops hm (leBytes_length _ _) h]
  rfl

theorem exec_vst_stops {t : State} {x : BitVec 4} {a : BitVec 5} {o w : BitVec 2} {i : BitVec 12} (hm : s.self.member = none)
    (h : s.checkAccess (effAddr (s.rx a) i 64) 64 true false = .error t) : exec (.vst x a o w i) s = .next t := by
  show execVst x a o w i s = _
  unfold execVst
  rw [State.store_stops hm (leBytes_length _ _) h]
  rfl

end
end

/-- Settles O23: every load and store ends where its checks do, and the checks stop in their order. -/
theorem addressChecks : Obligations.AddressChecks := by
  intro x a vs o w i s hh
  refine ⟨⟨?_, ?_, ?_, ?_, ?_, ?_, ?_, ?_⟩, fun hm => ⟨?_, ?_, ?_, ?_, ?_⟩⟩
  · exact State.refused_of (by decide) (by decide) (fun _ h => State.loadX_stops h) hh
  · exact State.refused_of (by decide) (by decide) (fun _ h => State.loadX_stops h) hh
  · exact State.refused_of (by decide) (by decide) (fun _ h => State.loadX_stops h) hh
  · exact State.refused_of (by decide) (by decide) (fun _ h => State.loadX_stops h) hh
  · exact State.refused_of (by decide) (by decide) (fun _ h => State.loadX_stops h) hh
  · exact State.refused_of (by decide) (by decide) (fun _ h => State.loadX_stops h) hh
  · exact State.refused_of (by decide) (by decide) (fun _ h => State.loadX_stops h) hh
  · exact State.refused_of (by decide) (by decide) (fun _ h => exec_vld_stops h) hh
  · exact State.refused_of (by decide) (by decide) (fun _ h => State.storeX_stops hm h) hh
  · exact State.refused_of (by decide) (by decide) (fun _ h => State.storeX_stops hm h) hh
  · exact State.refused_of (by decide) (by decide) (fun _ h => State.storeX_stops hm h) hh
  · exact State.refused_of (by decide) (by decide) (fun _ h => State.storeX_stops hm h) hh
  · exact State.refused_of (by decide) (by decide) (fun _ h => exec_vst_stops hm h) hh

end Sys2Proof.Machine
end

section
/-! PROOFS. What the homes hold and answer, alike in two states (17 R333-R336). -/

set_option Elab.async false

namespace Sys2Proof.Machine

section
variable {s t : State} {space va d pa slice q dom n : Nat} {p : Page} {l : L2Line}

/-! ## Homes (17 R333-R336) -/

/-- Two states in which every home holds and answers the same. -/
structure SameHomes (s t : State) : Prop where
  dies     : t.dies = s.dies
  parts    : t.parts = s.parts
  leases   : t.leases = s.leases
  pages    : t.pages = s.pages
  versions : t.versions = s.versions

theorem SameHomes.refl (s : State) : SameHomes s s := ⟨rfl, rfl, rfl, rfl, rfl⟩

theorem SameHomes.die (h : SameHomes s t) : t.die n = s.die n := by rw [State.die, State.die, h.dies]
theorem SameHomes.part (h : SameHomes s t) : t.part n = s.part n := by rw [State.part, State.part, h.parts]

theorem SameHomes.page (h : SameHomes s t) : t.page space va = s.page space va := by rw [State.page, State.page, h.pages]

theorem SameHomes.judge (h : SameHomes s t) : t.judge space va = s.judge space va := by
  unfold State.judge State.inSaveArea State.backed
  rw [h.part, h.page, h.leases]

theorem SameHomes.inFaultRing (h : SameHomes s t) : t.inFaultRing space va n = s.inFaultRing space va n := by
  unfold State.inFaultRing
  rw [h.part]

theorem SameHomes.keyless (h : SameHomes s t) {cg : Nat} : t.keyless d cg = s.keyless d cg := by
  unfold State.keyless
  rw [h.leases]

theorem SameHomes.groupOfFrame (h : SameHomes s t) {frame : Nat} : t.groupOfFrame d frame = s.groupOfFrame d frame := by
  unfold State.groupOfFrame
  rw [h.pages]

theorem SameHomes.keyOf (h : SameHomes s t) {cg : Nat} : t.keyOf d cg = s.keyOf d cg := by
  unfold State.keyOf State.part
  rw [h.leases, h.parts]

theorem SameHomes.decipher (h : SameHomes s t) {key : Option (BitVec 512)} {b : Bank} :
    t.decipher d pa key b = s.decipher d pa key b := by
  unfold State.decipher
  rw [h.die]

theorem SameHomes.dramLine (h : SameHomes s t) : t.dramLine d pa = s.dramLine d pa := by
  unfold State.dramLine
  simp only [h.die, h.groupOfFrame, h.keyless, h.keyOf, h.decipher]

theorem SameHomes.homeSlice (h : SameHomes s t) : t.homeSlice q dom va = s.homeSlice q dom va := by
  unfold State.homeSlice State.slicesOf
  rw [h.leases]

theorem SameHomes.sliceOf (h : SameHomes s t) : t.sliceOf space va = s.sliceOf space va := by
  unfold State.sliceOf
  simp only [h.page, h.homeSlice]

theorem SameHomes.versionLines (h : SameHomes s t) : t.versionLines slice = s.versionLines slice := by
  unfold State.versionLines State.versionsIn
  simp only [h.versions, h.sliceOf]

theorem SameHomes.l2Victims (h : SameHomes s t) : t.l2Victims d slice = s.l2Victims d slice := by
  unfold State.l2Victims State.residentLine
  simp only [h.die, h.leases]

/-! ### What they do alike -/

theorem SameHomes.modDie (h : SameHomes s t) {f : Die → Die} : SameHomes (s.modDie n f) (t.modDie n f) :=
  ⟨by unfold State.modDie; rw [h.die, h.dies], h.parts, h.leases, h.pages, h.versions⟩

theorem SameHomes.report (h : SameHomes s t) {r r2 : Nat} {d0 d0' a a' i i' : Word} {e f : Nat} {m m' : Option Msg} :
    SameHomes (s.report r d0 a i e m) (t.report r2 d0' a' i' f m') := ⟨h.dies, h.parts, h.leases, h.pages, h.versions⟩

theorem SameHomes.dramWrite (h : SameHomes s t) : SameHomes (s.dramWrite d pa l) (t.dramWrite d pa l) := by
  unfold State.dramWrite
  simp only [h.groupOfFrame, h.keyless, h.keyOf]
  split
  · exact h.modDie.report
  · exact h.modDie

theorem SameHomes.l2Evict (h : SameHomes s t) : SameHomes (s.l2Evict d pa) (t.l2Evict d pa) := by
  unfold State.l2Evict
  rw [h.die]
  split
  · exact h
  · dsimp only
    split
    · exact h.dramWrite.modDie
    · exact h.modDie

theorem SameHomes.l2MakeRoom (h : SameHomes s t) {k : Nat} : SameHomes (s.l2MakeRoom d slice k) (t.l2MakeRoom d slice k) := by
  have evicted (l : List (Nat × L2Line)) : ∀ {u v : State}, SameHomes u v →
      SameHomes (l.foldl (fun s p => s.l2Evict d p.1) u) (l.foldl (fun s p => s.l2Evict d p.1) v) := by
    induction l with
    | nil => exact id
    | cons p l ih => exact fun k => ih k.l2Evict
  unfold State.l2MakeRoom State.l2Over
  rw [h.l2Victims, h.versionLines]
  exact evicted _ h

theorem SameHomes.l2Fill (h : SameHomes s t) :
    SameHomes (s.l2Fill p va).1 (t.l2Fill p va).1 ∧ (t.l2Fill p va).2 = (s.l2Fill p va).2 := by
  unfold State.l2Fill
  simp only [h.die, h.homeSlice]
  split
  · split
    · exact ⟨h, rfl⟩
    · simp only [h.l2Evict.dramLine]
      exact ⟨h.l2Evict.l2MakeRoom.modDie, trivial⟩
  · simp only [h.dramLine]
    exact ⟨h.l2MakeRoom.modDie, trivial⟩

theorem SameHomes.l2Put (h : SameHomes s t) {b : Bank} : SameHomes (s.l2Put p va b) (t.l2Put p va b) := by
  unfold State.l2Put
  exact h.modDie

/-- Two accesses that are refused alike, or give states in relation and the same value. -/
def SameResult {α : Type} (R : State → State → Prop) (a b : Except Byte (State × α)) : Prop :=
  match a, b with
  | .ok x, .ok y => R x.1 y.1 ∧ y.2 = x.2
  | .error d, .error e => e = d
  | _, _ => False

theorem SameHomes.homeLine (h : SameHomes s t) : SameResult SameHomes (s.homeLine space va) (t.homeLine space va) := by
  unfold State.homeLine
  rw [h.judge]
  split
  · rfl
  · obtain ⟨homes, line⟩ := h.l2Fill
    exact ⟨homes, Prod.ext rfl (congrArg L2Line.data line)⟩

/-- A byte at its home. -/
theorem SameHomes.homeByte (h : SameHomes s t) : t.homeByte space va = s.homeByte space va := by
  have line := h.homeLine (space := space) (va := va)
  unfold State.homeByte State.homeRead
  unfold SameResult at line
  split at line
  · rename_i x y ex ey
    simp only [ex, ey, line.2]
    cases x.2.2.bad (va % 128) 1 <;> rfl
  · rename_i d e ed ee
    simp only [ed, ee]
  · exact line.elim

/-- A change of a line at its home. -/
theorem SameHomes.homeModify (h : SameHomes s t) {f : Bank → Nat → Bank} :
    match s.homeModify (.mem space va) n f, t.homeModify (.mem space va) n f with
    | .ok u, .ok v => SameHomes u v
    | .error d, .error e => e = d
    | _, _ => False := by
  have line := h.homeLine (space := space) (va := va)
  unfold State.homeModify State.lineModify
  unfold SameResult at line
  simp only [h.inFaultRing]
  split at line
  · rename_i x y ex ey
    simp only [ex, ey, line.2]
    cases s.inFaultRing space va n
    · exact line.1.l2Put
    · rfl
  · rename_i d e ed ee
    simp only [ed, ee, line]
    cases s.inFaultRing space va n <;> rfl
  · exact line.elim

end

end Sys2Proof.Machine
end

section
/-! PROOFS. What the cells' L1 hold and answer, alike in two states (10 R212-R217). -/

set_option Elab.async false

namespace Sys2Proof.Machine

section
variable {s t u v : State} {cell id va n : Nat} {sid : BitVec 16}

/-! ## The cells' L1 (10 R212-R217) -/

/-- Two states in which, besides the homes, every cell's L1 holds and answers the same. -/
structure SameCaches (s t : State) : Prop extends SameHomes s t where
  stamp  : t.stamp = s.stamp
  l1     : ∀ n, (t.cell n).l1 = (s.cell n).l1
  guards : ∀ n, (t.cell n).guards = (s.cell n).guards
  spsz   : ∀ n, (t.cell n).spsz = (s.cell n).spsz

theorem SameCaches.refl (s : State) : SameCaches s s := ⟨.refl s, rfl, fun _ => rfl, fun _ => rfl, fun _ => rfl⟩

theorem SameCaches.trans (h : SameCaches s t) (k : SameCaches t u) : SameCaches s u :=
  ⟨⟨k.dies.trans h.dies, k.parts.trans h.parts, k.leases.trans h.leases, k.pages.trans h.pages, k.versions.trans h.versions⟩,
    k.stamp.trans h.stamp, fun n => (k.l1 n).trans (h.l1 n), fun n => (k.guards n).trans (h.guards n),
    fun n => (k.spsz n).trans (h.spsz n)⟩

theorem SameCaches.symm (h : SameCaches s t) : SameCaches t s :=
  ⟨⟨h.dies.symm, h.parts.symm, h.leases.symm, h.pages.symm, h.versions.symm⟩, h.stamp.symm, fun n => (h.l1 n).symm,
    fun n => (h.guards n).symm, fun n => (h.spsz n).symm⟩

/-- Homes that are alike, and cells and a stamp that have not changed on either side. -/
theorem SameCaches.of_homes (h : SameCaches s t) (k : SameHomes u v) (hu : HomesOnly s u) (hv : HomesOnly t v) : SameCaches u v := by
  have cu (n : Nat) : u.cell n = s.cell n := by rw [hu]; rfl
  have cv (n : Nat) : v.cell n = t.cell n := by rw [hv]; rfl
  have su : u.stamp = s.stamp := by rw [hu]
  have sv : v.stamp = t.stamp := by rw [hv]
  refine ⟨k, by rw [su, sv, h.stamp], fun n => ?_, fun n => ?_, fun n => ?_⟩
  · rw [cu, cv, h.l1]
  · rw [cu, cv, h.guards]
  · rw [cu, cv, h.spsz]

/-- States that differ in nothing that the homes or L1 depend on. -/
theorem SameCaches.of_eq (k : SameHomes s t) (hs : t.stamp = s.stamp) (hc : t.cells = s.cells) : SameCaches s t := by
  have cell (n : Nat) : t.cell n = s.cell n := by rw [State.cell, State.cell, hc]
  exact ⟨k, hs, fun n => by rw [cell], fun n => by rw [cell], fun n => by rw [cell]⟩

/-! ### What a dropped store leaves (17 R329) -/

/-- Nothing differs that a memory depends on: of the cells, only the messages that wait in them do. -/
structure QueuesOnly (s t : State) : Prop where
  homes : SameHomes s t
  stamp : t.stamp = s.stamp
  cells : ∀ n, t.cell n = { s.cell n with queue := (t.cell n).queue, gstore := (t.cell n).gstore, seq := (t.cell n).seq }

theorem QueuesOnly.trans (h : QueuesOnly s t) (k : QueuesOnly t u) : QueuesOnly s u :=
  ⟨⟨k.homes.dies.trans h.homes.dies, k.homes.parts.trans h.homes.parts, k.homes.leases.trans h.homes.leases,
    k.homes.pages.trans h.homes.pages, k.homes.versions.trans h.homes.versions⟩, k.stamp.trans h.stamp,
    fun n => by rw [k.cells, h.cells]⟩

theorem QueuesOnly.of_cells (h : SameHomes s t) (hs : t.stamp = s.stamp) (hc : t.cells = s.cells) : QueuesOnly s t :=
  ⟨h, hs, fun n => by rw [State.cell, State.cell, hc]⟩

theorem QueuesOnly.refl (s : State) : QueuesOnly s s := .of_cells (.refl s) rfl rfl

theorem QueuesOnly.sameCaches (h : QueuesOnly s t) : SameCaches s t :=
  ⟨h.homes, h.stamp, fun n => by rw [h.cells], fun n => by rw [h.cells], fun n => by rw [h.cells]⟩

/-- A change of what waits in a cell. -/
theorem QueuesOnly.modCell {f : Cell → Cell} (h : f (s.cell cell) = { s.cell cell with
    queue := (f (s.cell cell)).queue, gstore := (f (s.cell cell)).gstore, seq := (f (s.cell cell)).seq }) :
    QueuesOnly s (s.modCell cell f) := by
  refine ⟨⟨rfl, rfl, rfl, rfl, rfl⟩, rfl, fun n => ?_⟩
  rw [State.cell_modCell]
  split
  · next e => rw [e]; exact h
  · rfl

theorem QueuesOnly.report (s : State) (part : Nat) (d0 addr info : Word) (die : Nat) (m : Option Msg) :
    QueuesOnly s (s.report part d0 addr info die m) := .of_cells ⟨rfl, rfl, rfl, rfl, rfl⟩ rfl rfl

theorem QueuesOnly.modCtx (s : State) (x : Nat) (f : Ctx → Ctx) : QueuesOnly s (s.modCtx x f) :=
  .of_cells ⟨rfl, rfl, rfl, rfl, rfl⟩ rfl rfl

theorem QueuesOnly.reportQFull (s : State) (part cell cls : Nat) (m : Msg) : QueuesOnly s (s.reportQFull part cell cls m) :=
  .of_cells ⟨rfl, rfl, rfl, rfl, rfl⟩ rfl rfl

theorem QueuesOnly.enqueueGen (s : State) (cell cls part : Nat) (m : Msg) : QueuesOnly s (s.enqueueGen cell cls part m) := by
  unfold State.enqueueGen
  split
  · exact .modCell rfl
  · exact .reportQFull ..

theorem QueuesOnly.wakeMsg (s : State) (x cls : Nat) : QueuesOnly s (s.wakeMsg x cls) := by
  unfold State.wakeMsg
  dsimp only
  split
  · split
    · exact .of_cells ⟨rfl, rfl, rfl, rfl, rfl⟩ rfl rfl
    · exact .refl s
  · exact .refl s

theorem QueuesOnly.deliverGen (s : State) (cell cls part : Nat) (m : Msg) (pkt : Option Nat) :
    QueuesOnly s (s.deliverGen cell cls part m pkt) := by
  unfold State.deliverGen
  split
  · exact .reportQFull ..
  · split
    · exact (QueuesOnly.enqueueGen ..).trans (.wakeMsg ..)
    · split
      · exact .modCell rfl
      · exact .reportQFull ..

theorem QueuesOnly.reportDrop (s : State) (o : Issuer) (code : Byte) (src : Nat) (mark : Option Nat) (always : Bool) (addr info : Word)
    (pkt : Option Nat) : QueuesOnly s (s.reportDrop o code src mark always addr info pkt) := by
  unfold State.reportDrop
  split
  · exact .report ..
  · dsimp only
    split
    · split
      · exact ((QueuesOnly.report ..).trans (.modCtx ..)).trans ((QueuesOnly.modCell rfl).trans (.deliverGen ..))
      · exact (QueuesOnly.report ..).trans ((QueuesOnly.modCell rfl).trans (.deliverGen ..))
    · split
      · exact (QueuesOnly.report ..).trans (.modCtx ..)
      · exact .report ..

theorem SameHomes.inSaveArea (h : SameHomes s t) {space : Nat} : t.inSaveArea space va = s.inSaveArea space va := by
  rw [State.inSaveArea, State.inSaveArea, h.part]

/-! ### What L1 does alike -/

theorem SameCaches.cyc (h : SameCaches s t) : t.cyc n = s.cyc n := by rw [State.cyc, State.cyc, h.die]

theorem SameCaches.guarded (h : SameCaches s t) {part : Nat} : (t.cell n).guarded sid part va = (s.cell n).guarded sid part va := by
  rw [Cell.guarded, Cell.guarded, h.guards]

theorem SameCaches.l1Line (h : SameCaches s t) : (t.cell n).l1Line sid va = (s.cell n).l1Line sid va := by
  rw [Cell.l1Line, Cell.l1Line, h.l1]

theorem SameCaches.l1Places (h : SameCaches s t) : (t.cell n).l1Places = (s.cell n).l1Places := by
  rw [Cell.l1Places, Cell.l1Places, Cell.spadSize, Cell.spadSize, h.spsz]

/-- The same change of a cell's L1. -/
theorem SameCaches.setL1 (h : SameCaches s t) (f : Table L1Line → Table L1Line) :
    SameCaches (s.modCell cell fun c => { c with l1 := f c.l1 }) (t.modCell cell fun c => { c with l1 := f c.l1 }) := by
  have changed (r : State) (n : Nat) : (r.modCell cell fun c => { c with l1 := f c.l1 }).cell n =
      { r.cell n with l1 := if n = cell then f (r.cell n).l1 else (r.cell n).l1 } := by
    rw [State.cell_modCell]
    split
    · next e => rw [e]
    · rfl
  refine ⟨⟨h.dies, h.parts, h.leases, h.pages, h.versions⟩, h.stamp, fun n => ?_, fun n => ?_, fun n => ?_⟩
  · rw [changed, changed, h.l1]
  · rw [changed, changed]
    exact h.guards n
  · rw [changed, changed]
    exact h.spsz n

theorem SameCaches.l1Drop (h : SameCaches s t) : SameCaches (s.l1Drop cell id) (t.l1Drop cell id) := h.setL1 (tdel · id)

theorem SameCaches.stamped (h : SameCaches s t) : SameCaches { s with stamp := s.stamp + 1 } { t with stamp := s.stamp + 1 } :=
  ⟨⟨h.dies, h.parts, h.leases, h.pages, h.versions⟩, rfl, h.l1, h.guards, h.spsz⟩

theorem SameCaches.l1Set (h : SameCaches s t) {l : L1Line} :
    SameCaches (s.modCell cell fun c => { c with l1 := tset c.l1 id l }) (t.modCell cell fun c => { c with l1 := tset c.l1 id l }) :=
  h.setL1 (tset · id l)

theorem SameCaches.homeLine (h : SameCaches s t) {space : Nat} :
    SameResult SameCaches (s.homeLine space va) (t.homeLine space va) := by
  have line := h.toSameHomes.homeLine (space := space) (va := va)
  unfold SameResult at *
  split at line
  · next ex ey => exact ⟨h.of_homes line.1 (State.homesOnly_homeLine ex) (State.homesOnly_homeLine ey), line.2⟩
  · exact line
  · exact line

theorem State.homesOnly_homeModify {space : Nat} {f : Bank → Nat → Bank} (e : s.homeModify (.mem space va) n f = .ok u) :
    HomesOnly s u := by
  simp only [State.homeModify] at e
  split at e
  · cases e
  · exact State.homesOnly_lineModify e

/-- The drops of a line's stores, which its home has refused. -/
theorem QueuesOnly.dropped (s : State) {code : Byte} (l : List (Issuer × Word)) :
    QueuesOnly s (l.foldl (fun s o => s.reportDrop o.1 code 0 (some 4) true o.2 (o.1.word.zeroExtend 64)) s) :=
  foldl_related QueuesOnly.refl QueuesOnly.trans (fun _ _ => .reportDrop ..) l s

theorem SameCaches.l1WriteBack (h : SameCaches s t) : SameCaches (s.l1WriteBack cell id) (t.l1WriteBack cell id) := by
  unfold State.l1WriteBack
  rw [h.l1]
  split
  · exact h
  · next l _ =>
    split
    · exact h
    · have written := h.toSameHomes.homeModify (space := l.sid.toNat) (va := l.va) (n := 128) (f := fun b _ => b.merge l.data l.dirty)
      split at written
      · next u v eu ev =>
        have both := h.of_homes written (State.homesOnly_homeModify eu) (State.homesOnly_homeModify ev)
        have read := both.homeLine (space := l.sid.toNat) (va := l.va)
        rw [eu, ev]
        dsimp only
        unfold SameResult at read
        split at read
        · next x y ex ey =>
          obtain ⟨u, p, b⟩ := x
          obtain ⟨v, q, b'⟩ := y
          obtain ⟨same, line⟩ := read
          cases line
          rw [ex, ey]
          dsimp only at same ⊢
          rw [same.guarded, same.cyc, same.stamp]
          exact same.stamped.l1Set
        · next ex ey =>
          rw [ex, ey]
          exact both.l1Drop
        · exact read.elim
      · next e1 e2 =>
        rw [e1, e2, written]
        exact (QueuesOnly.dropped _ _).sameCaches.symm.trans (h.l1Drop.trans (QueuesOnly.dropped _ _).sameCaches)
      · exact written.elim

theorem SameCaches.l1Flush (h : SameCaches s t) : SameCaches (s.l1Flush cell id) (t.l1Flush cell id) := h.l1WriteBack.l1Drop

theorem SameCaches.l1Live (h : SameCaches s t) : SameCaches (s.l1Live cell sid va) (t.l1Live cell sid va) := by
  unfold State.l1Live State.readLeaseOver
  rw [h.l1Line]
  split
  · rw [h.cyc]
    split
    · exact h.l1Flush
    · exact h
  · exact h

theorem SameCaches.l1Sync (h : SameCaches s t) : SameCaches (s.l1Sync cell sid va) (t.l1Sync cell sid va) := by
  unfold State.l1Sync
  rw [h.l1Line]
  split
  · split
    · exact h.l1Drop
    · exact h.l1Flush
  · exact h

theorem SameCaches.l1Place (h : SameCaches s t) :
    SameCaches (s.l1Place cell).1 (t.l1Place cell).1 ∧ (t.l1Place cell).2 = (s.l1Place cell).2 := by
  unfold State.l1Place
  rw [h.l1, h.l1Places]
  dsimp only
  split
  · exact ⟨h, rfl⟩
  · exact ⟨h.l1Flush, rfl⟩

/-- A context asks as another does for lines of L1. -/
structure AsksAlike (c d : Ctx) : Prop where
  sid     : d.sid = c.sid
  part    : d.part = c.part
  acqMark : d.acqMark = c.acqMark

theorem AsksAlike.space {c d : Ctx} (k : AsksAlike c d) : d.space = c.space := by rw [Ctx.space, Ctx.space, k.sid]

theorem SameCaches.l1Fill (h : SameCaches s t) {c d : Ctx} (k : AsksAlike c d) :
    SameResult SameCaches (s.l1Fill cell c va) (t.l1Fill cell d va) := by
  have line := h.homeLine (space := c.space) (va := va)
  unfold State.l1Fill
  rw [k.space]
  unfold SameResult at line
  split at line
  · next x y ex ey =>
    obtain ⟨u, p, b⟩ := x
    obtain ⟨v, q, b'⟩ := y
    obtain ⟨same, eq⟩ := line
    cases eq
    rw [ex, ey]
    dsimp only at same ⊢
    rw [k.sid, k.part, same.l1Line, same.cyc, same.guarded]
    cases (u.cell cell).l1Line c.sid va with
    | some o =>
      dsimp only
      rw [same.stamp]
      exact ⟨same.stamped.l1Set, rfl⟩
    | none =>
      obtain ⟨placed, place⟩ := same.l1Place (cell := cell)
      dsimp only
      rw [place, placed.stamp]
      exact ⟨placed.stamped.l1Set, rfl⟩
  · next ex ey =>
    rw [ex, ey]
    exact line
  · exact line.elim

theorem SameResult.map {α β : Type} {R : State → State → Prop} {a b : Except Byte (State × α)} (h : SameResult R a b)
    (f : α → β) : SameResult R (a.map fun r => (r.1, f r.2)) (b.map fun r => (r.1, f r.2)) := by
  unfold SameResult at h
  split at h
  · exact ⟨h.1, congrArg f h.2⟩
  · exact h
  · exact h.elim

theorem SameCaches.l1Read (h : SameCaches s t) {c d : Ctx} (k : AsksAlike c d) :
    SameResult SameCaches (s.l1Read cell c va n) (t.l1Read cell d va n) := by
  have live := h.l1Live (cell := cell) (sid := c.sid) (va := va)
  have filled := (live.l1Fill (cell := cell) (va := va) k).map fun r => r.2.data
  have hits (l : L1Line) : l.hits d (va % 128) n = l.hits c (va % 128) n := by rw [L1Line.hits, L1Line.hits, k.acqMark]
  unfold State.l1Read
  simp only [k.sid, k.space, live.inSaveArea, live.l1Line, hits]
  split
  · rfl
  · split
    · split
      · exact ⟨live, rfl⟩
      · exact filled
    · exact filled

/-! ### What a context sees (05 R94-R96) -/

/-- A context sees what another does: it stands in the same cell, asks alike for lines, and has the engine registers that the views
depend on. -/
structure SeesAlike (c d : Ctx) : Prop extends AsksAlike c d where
  cell   : d.cell = c.cell
  away   : d.migrated = c.migrated
  me     : d.me = c.me
  engine : d.badRegs.contains (ek 3) = c.badRegs.contains (ek 3)

/-- Two attempts that give the same value, or both end early. -/
def SameGain {α : Type} (x y : Attempt (State × α)) : Prop :=
  (∃ u v b, x = .ok (u, b) ∧ y = .ok (v, b)) ∨ ∃ u v, x = .error u ∧ y = .error v

theorem SameGain.map {α β : Type} {x y : Attempt (State × α)} (h : SameGain x y) (f : α → β) :
    SameGain (x.map fun r => (r.1, f r.2)) (y.map fun r => (r.1, f r.2)) := by
  obtain ⟨u, v, b, rfl, rfl⟩ | ⟨u, v, rfl, rfl⟩ := h
  · exact .inl ⟨u, v, f b, rfl, rfl⟩
  · exact .inr ⟨u, v, rfl, rfl⟩

theorem SameResult.precise {α : Type} {R : State → State → Prop} {x y : Except Byte (State × α)} (e : SameResult R x y) {ea : Word} :
    SameGain (s.precise ea x) (t.precise ea y) := by
  unfold SameResult at e
  split at e
  · next x y => exact .inl ⟨x.1, y.1, x.2, rfl, congrArg Except.ok (Prod.ext rfl e.2)⟩
  · exact .inr ⟨_, _, rfl, rfl⟩
  · exact e.elim

theorem SameCaches.lineFor (h : SameCaches s t) (k : SeesAlike s.self t.self) {ea : Word} {atHome : Bool} :
    SameGain (s.lineFor ea n atHome) (t.lineFor ea n atHome) := by
  unfold State.lineFor
  simp only [k.away, k.cell, k.sid, k.space]
  split
  · exact h.l1Sync.homeLine.precise.map Prod.snd
  · exact (h.l1Read k.toAsksAlike).precise

theorem SameCaches.memBank (h : SameCaches s t) (k : SeesAlike s.self t.self) {ea : Word} {atHome : Bool} :
    SameGain (s.memBank ea n atHome) (t.memBank ea n atHome) := by
  unfold State.memBank
  obtain ⟨u, v, b, eu, ev⟩ | ⟨u, v, eu, ev⟩ := h.lineFor (n := n) (atHome := atHome) k (ea := ea)
  · rw [eu, ev]
    show SameGain (if b.bad (ea.toNat % 128) n then u.raise cPOISON ea else .ok (u, b))
      (if b.bad (ea.toNat % 128) n then v.raise cPOISON ea else .ok (v, b))
    split
    · exact .inr ⟨_, _, rfl, rfl⟩
    · exact .inl ⟨u, v, b, rfl, rfl⟩
  · rw [eu, ev]
    exact .inr ⟨u, v, rfl, rfl⟩

theorem SameCaches.readBytes (h : SameCaches s t) (hc : t.cells = s.cells) (k : SeesAlike s.self t.self) {ea : Word}
    (hp : ∀ off, region ea ≠ .page off) : SameGain (s.readBytes ea n false) (t.readBytes ea n false) := by
  have cell (n : Nat) : t.cell n = s.cell n := by rw [State.cell, State.cell, hc]
  unfold State.readBytes
  simp only [k.cell, k.me, k.engine, cell]
  split
  · split
    · exact .inr ⟨_, _, rfl, rfl⟩
    · split
      · exact .inr ⟨_, _, rfl, rfl⟩
      · exact .inl ⟨s, t, _, rfl, rfl⟩
  · split
    · exact .inr ⟨_, _, rfl, rfl⟩
    · exact .inl ⟨s, t, _, rfl, rfl⟩
  · next off e => exact (hp off e).elim
  · exact (h.memBank k).map fun b => b.read (ea.toNat % 128) n

theorem SameCaches.byteSeen (h : SameCaches s t) (hc : t.cells = s.cells) (k : SeesAlike s.self t.self) {ea : Word}
    (hp : ∀ off, region ea ≠ .page off) : t.byteSeen ea = s.byteSeen ea := by
  unfold State.byteSeen
  obtain ⟨u, v, b, eu, ev⟩ | ⟨u, v, eu, ev⟩ := h.readBytes (n := 1) hc k hp
  · rw [eu, ev]
  · rw [eu, ev]

end

end Sys2Proof.Machine
end

section
/-! PROOFS. Loaded bytes as numbers (01 R21, R24; 02 R37; 05 R93). -/

set_option Elab.async false

namespace Sys2Proof.Machine

/-! ## Little-endian numbers -/

theorem leNat_lt (bs : List Byte) : leNat bs < 256 ^ bs.length := by
  induction bs with
  | nil => decide
  | cons b bs ih =>
    have := b.isLt
    rw [leNat, List.length_cons, Nat.pow_succ]
    omega

theorem leNat_append (a b : List Byte) : leNat (a ++ b) = leNat a + 256 ^ a.length * leNat b := by
  induction a with
  | nil => simp [leNat]
  | cons x a ih =>
    rw [List.cons_append, leNat, leNat, ih, List.length_cons, Nat.pow_succ]
    ring

theorem leNat_leBytes (v n : Nat) : leNat (leBytes v n) = v % 256 ^ n := by
  induction n generalizing v with
  | zero => rw [leBytes, leNat, Nat.pow_zero, Nat.mod_one]
  | succ n ih => rw [leBytes, leNat, ih, Nat.pow_succ', Nat.mod_mul, BitVec.toNat_ofNat]

theorem leBytes_eq_map (v n : Nat) : leBytes v n = (List.range n).map fun k => BitVec.ofNat 8 (v / 256 ^ k) := by
  induction n generalizing v with
  | zero => rfl
  | succ n ih =>
    rw [leBytes, ih, List.range_succ_eq_map, List.map_cons, List.map_map, Nat.pow_zero, Nat.div_one]
    refine congrArg _ (List.map_congr_left fun k _ => ?_)
    rw [Function.comp, Nat.div_div_eq_div_mul, Nat.pow_succ']

/-! ## Extension of a loaded value (05 R93) -/

theorem extend_unsigned {n : Nat} (bs : List Byte) : extend false n bs = BitVec.ofNat 64 (leNat bs) := rfl

theorem extend_signed {n : Nat} {bs : List Byte} (hl : bs.length = n) (hn : 0 < n) (h8 : n ≤ 8) :
    extend true n bs = (BitVec.ofNat (8 * n) (leNat bs)).signExtend 64 := by
  have bound : leNat bs < 2 ^ (8 * n) := by
    have := leNat_lt bs
    rwa [hl, show 256 = 2 ^ 8 from rfl, ← Nat.pow_mul] at this
  have wide : 2 ^ (8 * n) ≤ 2 ^ 64 := Nat.pow_le_pow_right (by decide) (by omega)
  have value : (BitVec.ofNat (8 * n) (leNat bs)).toNat = leNat bs := by rw [BitVec.toNat_ofNat, Nat.mod_eq_of_lt bound]
  have sign : (BitVec.ofNat (8 * n) (leNat bs)).msb = decide (2 ^ (8 * n - 1) ≤ leNat bs) := by
    rw [BitVec.msb_eq_decide, value]
  apply BitVec.eq_of_toNat_eq
  rw [BitVec.toNat_signExtend, BitVec.toNat_setWidth, value, sign]
  unfold extend
  generalize 2 ^ (8 * n - 1) = half
  generalize 2 ^ (8 * n) = whole at *
  by_cases h : half ≤ leNat bs
  · simp only [h, decide_true, Bool.and_true, if_true, BitVec.toNat_ofNat]
    omega
  · simp only [h, decide_false, Bool.and_false, if_false, Bool.false_eq_true, BitVec.toNat_ofNat, Nat.add_zero]

/-! ## The accumulator window (01 R21; 02 R37) -/

section
variable {t : Table (BitVec 32)} {off n : Nat}

/-- An element of the tiles, numbered through. -/
theorem tileWord_div_mod (t : Table (BitVec 32)) (j : Nat) : tileWord t (j / 8192) (j % 8192) = tget 0 t j := by
  rw [tileWord, Nat.mul_comm, Nat.div_add_mod]

/-- The bytes of the window, numbered through the tiles. -/
theorem accLoad_div_mod (t : Table (BitVec 32)) (off n : Nat) : accLoad t (off / 0x8000) (off % 0x8000) n =
    (List.range n).map fun k => BitVec.ofNat 8 ((tget 0 t ((off + k) / 4)).toNat / 256 ^ ((off + k) % 4)) := by
  refine List.map_congr_left fun k _ => ?_
  have place : off / 0x8000 * 8192 + (off % 0x8000 + k) / 4 = (off + k) / 4 := by omega
  have byte : (off % 0x8000 + k) % 4 = (off + k) % 4 := by omega
  rw [tileWord, place, byte]

/-- Bytes within one element. -/
theorem leNat_accLoad_within (h : off % 4 + n ≤ 4) : leNat (accLoad t (off / 0x8000) (off % 0x8000) n) =
    (tget 0 t (off / 4)).toNat / 256 ^ (off % 4) % 256 ^ n := by
  rw [← leNat_leBytes, leBytes_eq_map, accLoad_div_mod]
  refine congrArg leNat (List.map_congr_left fun k hk => ?_)
  have := List.mem_range.1 hk
  have place : (off + k) / 4 = off / 4 := by omega
  have byte : (off + k) % 4 = off % 4 + k := by omega
  rw [place, byte, Nat.pow_add, Nat.div_div_eq_div_mul]

/-- Whole elements. -/
theorem leNat_accLoad_whole (h : off % 4 = 0) (m : Nat) : leNat (accLoad t (off / 0x8000) (off % 0x8000) (4 * m)) =
    ((List.range m).map fun j => (tget 0 t (off / 4 + j)).toNat * 2 ^ (32 * j)).sum := by
  induction m with
  | zero => rfl
  | succ m ih =>
    have parts : accLoad t (off / 0x8000) (off % 0x8000) (4 * (m + 1)) =
        accLoad t (off / 0x8000) (off % 0x8000) (4 * m) ++ accLoad t ((off + 4 * m) / 0x8000) ((off + 4 * m) % 0x8000) 4 := by
      rw [accLoad_div_mod, accLoad_div_mod, accLoad_div_mod, Nat.mul_succ, List.range_add, List.map_append, List.map_map]
      simp only [Function.comp_def, Nat.add_assoc]
    have last : leNat (accLoad t ((off + 4 * m) / 0x8000) ((off + 4 * m) % 0x8000) 4) = (tget 0 t (off / 4 + m)).toNat := by
      have aligned : (off + 4 * m) % 4 = 0 := by omega
      have place : (off + 4 * m) / 4 = off / 4 + m := by omega
      rw [leNat_accLoad_within (by omega), aligned, place, Nat.pow_zero, Nat.div_one]
      exact Nat.mod_eq_of_lt (tget 0 t (off / 4 + m)).isLt
    have len : (accLoad t (off / 0x8000) (off % 0x8000) (4 * m)).length = 4 * m := by rw [accLoad, List.length_map, List.length_range]
    have weight : 256 ^ (4 * m) = 2 ^ (32 * m) := by rw [show 256 = 2 ^ 8 from rfl, ← Nat.pow_mul]; congr 1; omega
    rw [parts, leNat_append, ih, last, len, weight, List.range_succ, List.map_append, List.sum_append, List.map_singleton,
      List.sum_singleton, Nat.mul_comm (2 ^ (32 * m))]

end

/-! ## The cell control page (01 R24) -/

theorem Cell.cctl_eq (k : Cell) : k.cctl = BitVec.ofNat 64 ((if k.rot then 1 else 0) + k.spsz.toNat * 2 + (if k.spx then 8 else 0) +
    (if k.sprf then 16 else 0) + (if k.rotp then 32 else 0)) := by
  have bits : ∀ (rot spx sprf rotp : Bool) (z : BitVec 2),
      bit rot 0 ||| BitVec.ofNat 64 (z.toNat * 2) ||| bit spx 3 ||| bit sprf 4 ||| bit rotp 5 = BitVec.ofNat 64
        ((if rot then 1 else 0) + z.toNat * 2 + (if spx then 8 else 0) + (if sprf then 16 else 0) + (if rotp then 32 else 0)) := by
    decide
  exact bits k.rot k.spx k.sprf k.rotp k.spsz

end Sys2Proof.Machine
end

section
/-! PROOFS. Loads that go ahead at once, and the loads of the scratchpad, the window and the control page (01 R21, R24, R26;
05 R93-R96). -/

set_option Elab.async false

namespace Sys2Proof.Machine

section
variable {s t u : State} {ea : Word} {n off : Nat} {o w : BitVec 2} {bs : List Byte} {i : BitVec 12}

/-! ## A load that goes ahead at once (05 R93-R96) -/

/-- The state in which a load's value is there: an acquire has moved the mark (11 R233). -/
def State.loaded (s : State) (ea : Word) (o : BitVec 2) : State := if o ≠ 0 ∧ ordered ea then s.acquire s.cur else s

theorem State.checkAccess_of_open {store : Bool} (h : s.Open ea n store o w) : s.checkAccess ea n store false = .ok () := by
  unfold State.checkAccess
  rw [h.addr]
  dsimp only
  split
  · next e => rw [h.plain e]; rfl
  · rfl
  · rfl

theorem State.waitWc_of_open {store : Bool} (h : s.Open ea n store o w) : s.waitWc w = .ok () := by
  have count : ¬ (w.toNat ≠ 0 ∧ s.self.pst (w.toNat - 1) ≠ 0) := by
    rintro ⟨hw, hc⟩
    rcases h.count with rfl | h
    · exact hw rfl
    · exact hc h
  rw [State.waitWc, if_neg count]

theorem State.waitCovered_of (h1 : s.releaseLines s.cur = s) (h2 : coverAll.pending s.self = false) (h3 : s.self.drops = []) :
    s.waitCovered coverAll = .ok s := by
  simp only [State.waitCovered, h1, h2, Bool.false_eq_true, if_false, State.takeDrop, h3, List.find?_nil]

/-- A load of bytes that can be read at once. -/
theorem State.load_of_open (h : s.Open ea n false o w) (hb : s.readBytes ea n (o == 2) = .ok (s, bs)) :
    s.load ea n o w = .ok (s.loaded ea o, bs) := by
  have way : s.fabricWaits ea n false (o == 2) = .ok () := by
    have := h.way
    rwa [Bool.false_and, Bool.or_false] at this
  have read : (do
      let r ← s.readBytes ea n (o == 2)
      return (if o ≠ 0 ∧ ordered ea then r.1.acquire r.1.cur else r.1, r.2) : Attempt (State × List Byte)) =
        .ok (s.loaded ea o, bs) := by
    rw [hb]
    rfl
  unfold State.load
  rw [State.checkAccess_of_open h, State.waitWc_of_open h, h.free, way]
  by_cases hc : o = 2 ∧ ordered ea
  · obtain ⟨h1, h2, h3⟩ := h.covered (.inl hc.1)
    show (if o = 2 ∧ ordered ea then s.waitCovered coverAll >>= _ else _) = _
    rw [if_pos hc, State.waitCovered_of h1 h2 h3]
    exact read
  · show (if o = 2 ∧ ordered ea then _ else _) = _
    rw [if_neg hc]
    exact read

theorem State.loadX_of_open {d a : BitVec 5} {signed : Bool} (h : s.Open (effAddr (s.rx a) i n) n false o w)
    (hb : s.readBytes (effAddr (s.rx a) i n) n (o == 2) = .ok (s, bs)) : s.loadX d a o w i n signed =
      .next (((s.loaded (effAddr (s.rx a) i n) o).wx d (Machine.extend signed n bs)).finish) := by
  unfold State.loadX
  rw [State.load_of_open h hb]
  rfl

theorem exec_vld_of_open {d : BitVec 4} {a : BitVec 5} (h : s.Open (effAddr (s.rx a) i 64) 64 false o w)
    (hb : s.readBytes (effAddr (s.rx a) i 64) 64 (o == 2) = .ok (s, bs)) : exec (.vld d a o w i) s =
      .next (((s.loaded (effAddr (s.rx a) i 64) o).wv d (bytesToV bs)).finish) := by
  show execVld d a o w i s = _
  unfold execVld
  rw [State.load_of_open h hb]
  rfl

/-! ## What it leaves as it was -/

/-- The load has ended in the acting context: registers and an acquire's mark are all that it changes. -/
structure LoadEnds (s t : State) (o : BitVec 2) : Prop where
  rest   : t = { s with ctxs := t.ctxs, stamp := t.stamp }
  other  : ∀ x, x ≠ s.cur → tfind t.ctxs x = tfind s.ctxs x
  keeps  : t.self = { s.self.doneAt (s.self.pc + 4) s.now with
    x := t.self.x, v := t.self.v, badRegs := t.self.badRegs, acqMark := t.self.acqMark }
  engine : t.self.badRegs.contains (ek 3) = s.self.badRegs.contains (ek 3)
  stamp  : o = 0 → t.stamp = s.stamp
  mark   : o = 0 → t.self.acqMark = s.self.acqMark

theorem LoadEnds.readOnly (h : LoadEnds s t o) : ReadOnly s t o := by
  have dies : t.dies = s.dies := by rw [h.rest]
  have cells : t.cells = s.cells := by rw [h.rest]
  have homes : SameHomes s t := ⟨dies, by rw [h.rest], by rw [h.rest], by rw [h.rest], by rw [h.rest]⟩
  have cell (n : Nat) : t.cell n = s.cell n := by rw [State.cell, State.cell, cells]
  refine ⟨?_, h.other, h.keeps, fun n => by rw [cell], fun n => by rw [homes.die], fun _ _ => homes.homeByte,
    fun ho ea hp => ?_, h.mark⟩
  · rw [cells, dies]
    exact h.rest
  · have same : SeesAlike s.self t.self := by
      refine ⟨⟨?_, ?_, h.mark ho⟩, ?_, ?_, ?_, h.engine⟩
      all_goals rw [h.keeps, Ctx.doneAt_eq]; rfl
    exact (SameCaches.of_eq homes (h.stamp ho) cells).byteSeen cells same hp

theorem State.self_acquire : (s.acquire s.cur).self = { s.self with acqMark := s.stamp + 1 } := State.self_mod _ _

theorem State.loaded_cases (s : State) (ea : Word) (o : BitVec 2) :
    s.loaded ea o = s ∨ (o ≠ 0 ∧ s.loaded ea o = s.acquire s.cur) := by
  unfold State.loaded
  split
  · next h => exact .inr ⟨h.1, rfl⟩
  · exact .inl rfl

/-- Where the value is there, a change of registers that completes the instruction ends the load. -/
theorem LoadEnds.of_loaded (slot : SlotOnly (s.loaded ea o) t)
    (keeps : t.self = { (s.loaded ea o).self.doneAt ((s.loaded ea o).self.pc + 4) (s.loaded ea o).now with
      x := t.self.x, v := t.self.v, badRegs := t.self.badRegs })
    (engine : t.self.badRegs.contains (ek 3) = (s.loaded ea o).self.badRegs.contains (ek 3)) : LoadEnds s t o := by
  obtain ⟨rest, other⟩ := slot
  rcases s.loaded_cases ea o with e | ⟨ho, e⟩
  · rw [e] at rest other keeps engine
    have mark : t.self.acqMark = s.self.acqMark := by rw [keeps, Ctx.doneAt_eq]; rfl
    refine ⟨?_, other, ?_, engine, fun _ => by rw [rest], fun _ => mark⟩
    · rw [rest]
    · rw [Ctx.doneAt_eq] at keeps ⊢
      rw [mark]
      exact keeps
  · rw [e] at rest other keeps engine
    have now : (s.acquire s.cur).now = s.now := by rw [State.now, State.self_acquire]; rfl
    rw [State.self_acquire] at engine
    refine ⟨?_, fun x hx => ?_, ?_, engine, fun h => absurd h ho, fun h => absurd h ho⟩
    · rw [rest]; rfl
    · rw [other x hx]
      exact tfind_tset_ne _ _ hx
    · rw [keeps, now, State.self_acquire, Ctx.doneAt_eq, Ctx.doneAt_eq]
      rfl

theorem contains_ndel {l : NSet} {a b : Nat} (h : a ≠ b) : (ndel l b).contains a = l.contains a := by
  induction l with
  | nil => rfl
  | cons j l ih =>
    unfold ndel
    split
    · next e =>
      have : (a == j) = false := by rw [e]; exact beq_false_of_ne h
      rw [List.contains_cons, this, Bool.false_or]
    · rw [List.contains_cons, List.contains_cons, ih]

theorem Ctx.setX_engine (c : Ctx) {r : Nat} (v : Word) (hr : r < 32) :
    (c.setX r v).badRegs.contains (ek 3) = c.badRegs.contains (ek 3) := by
  unfold Ctx.setX
  split
  · rfl
  · exact contains_ndel (by unfold ek; omega)

theorem Ctx.setV_engine (c : Ctx) {r : Nat} (v : VWord) (hr : r < 16) :
    (c.setV r v).badRegs.contains (ek 3) = c.badRegs.contains (ek 3) := by
  have deleted (l : List Nat) (hl : ∀ k ∈ l, ek 3 ≠ k) (b : NSet) : (l.foldl ndel b).contains (ek 3) = b.contains (ek 3) := by
    induction l generalizing b with
    | nil => rfl
    | cons k l ih => rw [List.foldl_cons, ih fun j hj => hl j (.tail _ hj), contains_ndel (hl k (.head _))]
  refine deleted (regWords (32 + r)) (fun k hk => ?_) c.badRegs
  rw [regWords, if_pos ⟨by omega, by omega⟩] at hk
  obtain ⟨j, -, rfl⟩ := List.mem_map.1 hk
  unfold ek
  omega

theorem State.rx_loaded (a : BitVec 5) : (s.loaded ea o).rx a = s.rx a := by
  rcases s.loaded_cases ea o with e | ⟨-, e⟩
  · rw [e]
  · rw [e, State.rx, State.self_acquire]
    rfl

theorem State.rv_loaded (a : BitVec 4) : (s.loaded ea o).rv a = s.rv a := by
  rcases s.loaded_cases ea o with e | ⟨-, e⟩
  · rw [e]
  · rw [e, State.rv, State.self_acquire]
    rfl

/-- A scalar load of bytes that can be read at once. -/
theorem givesLoad_of_readBytes {ins : Instr} {d a : BitVec 5} {signed : Bool} {v : Word}
    (hx : exec ins s = s.loadX d a o w i n signed) (h : s.Open (effAddr (s.rx a) i n) n false o w)
    (hb : s.readBytes (effAddr (s.rx a) i n) n (o == 2) = .ok (s, bs)) (hv : extend signed n bs = v) : GivesLoad ins s o d v := by
  have ends := hx.trans (State.loadX_of_open (d := d) (signed := signed) h hb)
  rw [hv] at ends
  generalize effAddr (s.rx a) i n = ea at ends
  obtain ⟨slot, keeps, xs⟩ := (s.loaded ea o).wroteX_result d v
  have self : (((s.loaded ea o).wx d v).finish).self =
      { ((s.loaded ea o).self.setX d.toNat v).settle ((s.loaded ea o).wx d v).now with
        pc := ((s.loaded ea o).self.setX d.toNat v).pc + 4 } := by
    rw [State.finish, State.self_mod, State.wx, State.self_mod]
  have vs : (((s.loaded ea o).wx d v).finish).self.v = (s.loaded ea o).self.v := by
    rw [keeps, Ctx.doneAt_eq]; rfl
  refine ⟨_, ends, (LoadEnds.of_loaded slot ?_ ?_).readOnly, fun r => ?_, fun r => ?_⟩
  · rw [Ctx.doneAt_eq] at keeps ⊢
    rw [vs]
    exact keeps
  · rw [self]
    exact Ctx.setX_engine _ v d.isLt
  · rw [xs, State.rx_loaded]
  · exact (congrArg (tget 0 · r.toNat) vs).trans (State.rv_loaded r)

/-- A vector load of bytes that can be read at once. -/
theorem givesLoadV_of_readBytes {d : BitVec 4} {a : BitVec 5} (h : s.Open (effAddr (s.rx a) i 64) 64 false o w)
    (hb : s.readBytes (effAddr (s.rx a) i 64) 64 (o == 2) = .ok (s, bs)) :
    GivesLoadV (.vld d a o w i) s o d (BitVec.ofNat 512 (leNat bs)) := by
  have ends := exec_vld_of_open (d := d) h hb
  generalize effAddr (s.rx a) i 64 = ea at ends
  have self : (((s.loaded ea o).wv d (bytesToV bs)).finish).self =
      { ((s.loaded ea o).self.setV d.toNat (bytesToV bs)).settle (s.loaded ea o).now with pc := (s.loaded ea o).self.pc + 4 } := by
    rw [State.finish, State.self_mod, State.wv, State.self_mod, State.now_mod _ _ rfl]
    rfl
  refine ⟨_, ends, (LoadEnds.of_loaded (ea := ea) ?_ ?_ ?_).readOnly, fun r => ?_, fun r => ?_⟩
  · rw [State.finish, State.wv, State.mod_mod]
    exact State.slotOnly_mod _ _
  · rw [self, Ctx.doneAt_eq]
    rfl
  · rw [self]
    exact Ctx.setV_engine _ (bytesToV bs) d.isLt
  · rw [State.rx, self]
    exact State.rx_loaded r
  · rw [State.rv, self, ← State.rv_loaded (ea := ea) (o := o)]
    refine (Ctx.v?_setV _ _ _ _).trans ?_
    simp only [BitVec.toNat_inj]
    rfl

/-! ## The bytes (01 R21, R24, R26; 02 R37) -/

theorem State.readBytes_view0 {strong : Bool} (he : ea.toNat = 0x0100_0000 + off) (ho : off < 0x10_0000)
    (hb : (s.cell s.self.cell).spad.bad off n = false) :
    s.readBytes ea n strong = .ok (s, mgetBytes (s.cell s.self.cell).spad.bytes off n) := by
  have place : region ea = .view 0 off := region_view (v := 0) (by omega) (by decide) ho
  have good : (s.cell s.self.cell).spad.viewBad s.self.me.vsb.toNat 0 off n = false := by
    simp only [Bank.viewBad, if_true, hb]
  unfold State.readBytes
  simp only [place, good]
  rfl

theorem State.readBytes_acc {strong : Bool} (he : ea.toNat = 0x0200_0000 + off) (ho : off < 0x2_0000)
    (hb : (s.cell s.self.cell).accBad (off / 0x8000) (off % 0x8000) n = false) :
    s.readBytes ea n strong = .ok (s, accLoad (s.cell s.self.cell).tiles (off / 0x8000) (off % 0x8000) n) := by
  have place : region ea = .acc (off / 0x8000) (off % 0x8000) := region_acc (by omega) (by omega) (by omega)
  unfold State.readBytes
  simp only [place, hb]
  rfl

theorem State.readBytes_page {strong : Bool} (he : ea.toNat = 0x0300_0000 + off) (ho : off < 0x1000) :
    s.readBytes ea n strong = .ok (s, leBytes (s.readPage s.self.cell off).toNat n) := by
  have place : region ea = .page off := (region_page (by omega) (by omega)).trans (by rw [he, Nat.add_sub_cancel_left])
  unfold State.readBytes
  simp only [place]

/-- An access to the window that may go on is aligned. -/
theorem State.acc_aligned {store : Bool} (he : ea.toNat = 0x0200_0000 + off) (ho : off < 0x2_0000) (hn : n ∣ 64)
    (h : s.Open ea n store o w) : off % n = 0 := by
  have place : region ea = .acc (off / 0x8000) (off % 0x8000) := region_acc (by omega) (by omega) (by omega)
  have checks := (State.checkAddr_acc (s := s) (n := n) (store := store) place).symm.trans h.addr
  have aligned : ea.toNat % n = 0 := by
    by_contra ha
    split at checks
    · cases checks
    · split at checks
      · cases checks
      · cases checks
  obtain ⟨k, hk⟩ := hn
  have base : 0x0200_0000 = n * (k * 0x8_0000) := by rw [← Nat.mul_assoc, ← hk]
  rwa [he, base, Nat.mul_add_mod] at aligned

theorem extend_leBytes (v : Word) : extend false 8 (leBytes v.toNat 8) = v := by
  rw [extend_unsigned, leNat_leBytes, Nat.mod_eq_of_lt (show v.toNat < 256 ^ 8 from v.isLt), BitVec.ofNat_toNat, BitVec.setWidth_eq]

/-- A load of view 0: its bytes, extended. -/
theorem givesLoad_view0 {ins : Instr} {d a : BitVec 5} {signed : Bool} {v : Word} (hx : exec ins s = s.loadX d a o w i n signed)
    (he : (effAddr (s.rx a) i n).toNat = 0x0100_0000 + off ∧ s.Open (effAddr (s.rx a) i n) n false o w ∧
      (s.cell s.self.cell).spad.bad off n = false) (ho : off < 0x10_0000)
    (hv : extend signed n (mgetBytes (s.cell s.self.cell).spad.bytes off n) = v) : GivesLoad ins s o d v :=
  givesLoad_of_readBytes hx he.2.1 (State.readBytes_view0 he.1 ho he.2.2) hv

/-- A load of the accumulator window: its bytes, extended. -/
theorem givesLoad_acc {ins : Instr} {d a : BitVec 5} {signed : Bool} {v : Word} (hx : exec ins s = s.loadX d a o w i n signed)
    (he : (effAddr (s.rx a) i n).toNat = 0x0200_0000 + off ∧ off < 0x2_0000 ∧ s.Open (effAddr (s.rx a) i n) n false o w ∧
      (s.cell s.self.cell).accBad (off / 0x8000) (off % 0x8000) n = false)
    (hv : off % n = 0 → extend signed n (accLoad (s.cell s.self.cell).tiles (off / 0x8000) (off % 0x8000) n) = v) (hn : n ∣ 64) :
    GivesLoad ins s o d v := by
  obtain ⟨at_, window, free, good⟩ := he
  exact givesLoad_of_readBytes hx free (State.readBytes_acc at_ window good) (hv (State.acc_aligned at_ window hn free))

/-- A doubleword of the cell control page. -/
theorem givesLoad_page {d a : BitVec 5} {v : Word} (he : (effAddr (s.rx a) i 8).toNat = 0x0300_0000 + off) (ho : off < 0x1000)
    (free : s.Open (effAddr (s.rx a) i 8) 8 false o w) (hv : s.readPage s.self.cell off = v) : GivesLoad (.ldD d a o w i) s o d v :=
  givesLoad_of_readBytes rfl free (State.readBytes_page he ho) (hv ▸ extend_leBytes _)

/-! ### The values of the window's elements -/

theorem extend_signed_acc {t : Table (BitVec 32)} (hn : 0 < n) (h4 : n ≤ 4) (h : off % 4 + n ≤ 4) :
    extend true n (accLoad t (off / 0x8000) (off % 0x8000) n) =
      (BitVec.ofNat (8 * n) ((tileWord t (off / 4 / 8192) (off / 4 % 8192)).toNat / 256 ^ (off % 4) % 256 ^ n)).signExtend 64 := by
  rw [extend_signed (by rw [accLoad, List.length_map, List.length_range]) hn (by omega), leNat_accLoad_within h, tileWord_div_mod]

theorem extend_unsigned_acc {t : Table (BitVec 32)} (h : off % 4 + n ≤ 4) :
    extend false n (accLoad t (off / 0x8000) (off % 0x8000) n) =
      BitVec.ofNat 64 ((tileWord t (off / 4 / 8192) (off / 4 % 8192)).toNat / 256 ^ (off % 4) % 256 ^ n) := by
  rw [extend_unsigned, leNat_accLoad_within h, tileWord_div_mod]

theorem leNat_acc_whole {t : Table (BitVec 32)} (h : off % 4 = 0) (m : Nat) :
    leNat (accLoad t (off / 0x8000) (off % 0x8000) (4 * m)) =
      ((List.range m).map fun j => (tileWord t ((off / 4 + j) / 8192) ((off / 4 + j) % 8192)).toNat * 2 ^ (32 * j)).sum := by
  simp only [leNat_accLoad_whole h, tileWord_div_mod]

theorem leNat_acc_pair {t : Table (BitVec 32)} (h : off % 4 = 0) : leNat (accLoad t (off / 0x8000) (off % 0x8000) 8) =
    (tileWord t (off / 4 / 8192) (off / 4 % 8192)).toNat + (tileWord t ((off / 4 + 1) / 8192) ((off / 4 + 1) % 8192)).toNat * 2 ^ 32 := by
  have pair (f : Nat → Nat) : ((List.range 2).map fun j => f (off / 4 + j) * 2 ^ (32 * j)).sum =
      f (off / 4) + f (off / 4 + 1) * 2 ^ 32 := by
    rw [List.range_succ, List.range_succ, List.range_zero, List.nil_append, List.singleton_append, List.map_cons, List.map_singleton,
      List.sum_cons, List.sum_singleton, Nat.add_zero, Nat.mul_zero, Nat.pow_zero, Nat.mul_one, Nat.mul_one]
  exact (leNat_acc_whole h 2).trans (pair fun j => (tileWord t (j / 8192) (j % 8192)).toNat)

end

/-- Settles O19: each load reads bytes at once, and the little-endian number that they make is the value it gives. -/
theorem loadsFromTheScratchpad : Obligations.LoadsFromTheScratchpad := by
  intro d a vd o w i off s _ ho
  refine ⟨fun h => ?_, fun h => ?_, fun h => ?_, fun h => ?_, fun h => ?_, fun h => ?_, fun h => ?_, fun h => ?_,
    fun h => ?_, fun h => ?_, fun h => ?_, fun h => ?_, fun h => ?_, fun h => ?_, fun h => ?_, fun h => ?_,
    fun free => ⟨fun h => ?_, fun h => ?_⟩⟩
  · exact givesLoad_view0 rfl h ho (extend_signed (mgetBytes_length _ _ _) (by decide) (by decide))
  · exact givesLoad_view0 rfl h ho (extend_signed (mgetBytes_length _ _ _) (by decide) (by decide))
  · exact givesLoad_view0 rfl h ho (extend_signed (mgetBytes_length _ _ _) (by decide) (by decide))
  · exact givesLoad_view0 rfl h ho (extend_unsigned _)
  · exact givesLoad_view0 rfl h ho (extend_unsigned _)
  · exact givesLoad_view0 rfl h ho (extend_unsigned _)
  · exact givesLoad_view0 rfl h ho (extend_unsigned _)
  · exact givesLoadV_of_readBytes h.2.1 (State.readBytes_view0 h.1 ho h.2.2)
  · exact givesLoad_acc rfl h (fun k => extend_signed_acc (by decide) (by decide) (by omega)) (by decide)
  · exact givesLoad_acc rfl h (fun k => extend_signed_acc (by decide) (by decide) (by omega)) (by decide)
  · exact givesLoad_acc rfl h (fun k => extend_signed_acc (by decide) (by decide) (by omega)) (by decide)
  · refine givesLoad_acc rfl h (fun k => ?_) (by decide)
    exact congrArg (BitVec.ofNat 64) (leNat_acc_pair (by omega))
  · exact givesLoad_acc rfl h (fun k => extend_unsigned_acc (by omega)) (by decide)
  · exact givesLoad_acc rfl h (fun k => extend_unsigned_acc (by omega)) (by decide)
  · exact givesLoad_acc rfl h (fun k => extend_unsigned_acc (by omega)) (by decide)
  · obtain ⟨at_, window, free, good⟩ := h
    have aligned := State.acc_aligned at_ window (by decide) free
    have value := givesLoadV_of_readBytes (d := vd) free (State.readBytes_acc at_ window good)
    rwa [leNat_acc_whole (by omega) 16] at value
  · exact givesLoad_page (off := 0) h (by decide) free (Cell.cctl_eq _)
  · exact givesLoad_page (off := 8) h (by decide) free rfl

end Sys2Proof.Machine
end

section
/-! PROOFS. Writes of whole doublewords and their read-back at a home (17 R331; 20 R361). -/

set_option Elab.async false

namespace Sys2Proof.Machine

/-! ## A write to a bank of whole doublewords, read back (20 R361) -/

section
variable {b : Bank} {a d j n u : Nat} {bs : List Byte}

theorem mgetBytes_eq_map (m : Memory) (a n : Nat) : mgetBytes m a n = (List.range n).map fun k => mget m (a + k) := by
  induction n generalizing a with
  | zero => rfl
  | succ n ih =>
    rw [mgetBytes, ih, List.range_succ_eq_map, List.map_cons, List.map_map, Nat.add_zero]
    refine congrArg _ (List.map_congr_left fun k _ => ?_)
    rw [Function.comp, Nat.add_assoc, Nat.add_comm 1]

theorem Bank.read_write (h : b.wf = true) (hj : j + n ≤ bs.length) : (b.write a bs).read (a + j) n = (bs.drop j).take n := by
  rw [Bank.read, mgetBytes_eq_map]
  refine List.ext_getElem (by simp; omega) fun k hk _ => ?_
  have hk : k < n := by simpa using hk
  have place : a + j + k - a = j + k := by omega
  rw [List.getElem_map, List.getElem_range, Bank.mget_write h, if_pos (by omega), place, List.getElem_take, List.getElem_drop,
    List.getD_eq_getElem _ _ (by omega)]

/-- An access within one doubleword finds that doubleword's mark. -/
theorem Bank.bad_within (hn : 0 < n) (h : u % 8 + n ≤ 8) : b.bad u n = b.poison.contains (u / 8) := by
  have last : (u + n - 1) / 8 = u / 8 := by omega
  rw [Bank.bad, unitsOf, if_neg hn.ne', last, Nat.sub_self]
  simp

theorem contains_ndel_self {t : NSet} {lo k : Nat} (h : risesSet lo t = true) : (ndel t k).contains k = false := by
  have above {t : NSet} {lo : Nat} (h : risesSet lo t = true) : ∀ j ∈ t, lo ≤ j := by
    induction t generalizing lo with
    | nil => exact fun _ hj => nomatch hj
    | cons i t ih =>
      simp only [risesSet, Bool.and_eq_true, decide_eq_true_eq] at h
      intro j hj
      rcases List.mem_cons.1 hj with rfl | hj
      · exact h.1
      · have := ih h.2 j hj
        omega
  induction t generalizing lo with
  | nil => rfl
  | cons i t ih =>
    simp only [risesSet, Bool.and_eq_true, decide_eq_true_eq] at h
    unfold ndel
    split
    · next e =>
      subst e
      rw [Bool.eq_false_iff, ne_eq, List.contains_iff_mem]
      intro hi
      have := above h.2 i hi
      omega
    · next e =>
      rw [List.contains_cons, ih h.2, Bool.or_false]
      exact beq_false_of_ne (Ne.symm e)

/-- The marks of doublewords that a write covers go, and no other. -/
theorem contains_foldl_ndel {w : Nat → Bool} (l : List Nat) (t : NSet) (h : risesSet 0 t = true) (d : Nat) :
    (l.foldl (fun p e => if w e then ndel p e else p) t).contains d = (t.contains d && !(w d && l.contains d)) := by
  induction l generalizing t with
  | nil => simp
  | cons e l ih =>
    rw [List.foldl_cons, List.contains_cons]
    by_cases he : w e = true
    · rw [if_pos he, ih _ (risesSet_ndel e h)]
      by_cases hd : d = e
      · subst hd
        rw [contains_ndel_self h, he]
        simp
      · rw [contains_ndel hd, beq_false_of_ne hd, Bool.false_or]
    · rw [if_neg he, ih _ h]
      by_cases hd : d = e
      · subst hd
        simp [he]
      · rw [beq_false_of_ne hd, Bool.false_or]

theorem Bank.poison_write (h : b.wf = true) : (b.write a bs).poison.contains d =
    (b.poison.contains d && !(wholeDword a bs.length d && (unitsOf 8 a bs.length).contains d)) :=
  contains_foldl_ndel _ _ ((Bank.wf_iff b).1 h).2.2.2 d

theorem Bank.good_write (h : b.wf = true) (h1 : a ≤ 8 * d) (h2 : 8 * d + 8 ≤ a + bs.length) :
    (b.write a bs).poison.contains d = false := by
  have whole : wholeDword a bs.length d = true := decide_eq_true ⟨h1, h2⟩
  have unit : (unitsOf 8 a bs.length).contains d = true := by
    rw [List.contains_iff_mem, mem_unitsOf (by omega)]
    omega
  rw [Bank.poison_write h, whole, unit]
  simp

theorem Bank.poison_write_outside (h : b.wf = true) (hd : 8 * d < a ∨ a + bs.length < 8 * d + 8) :
    (b.write a bs).poison.contains d = b.poison.contains d := by
  have part : wholeDword a bs.length d = false := decide_eq_false (by omega)
  rw [Bank.poison_write h, part]
  simp

end

/-! ## A write at a home, read back (17 R331; 21 R367) -/

section
variable {s t : State} {p : Page} {b : Bank} {space a va : Nat} {bs : List Byte}

/-- The L2 of a page's die holds the line of an address under its own name. -/
def State.Holds (s : State) (p : Page) (va : Nat) (b : Bank) : Prop :=
  ∃ l, tfind (s.die p.die).l2 (p.phys (va / 128 * 128)) = some l ∧ l.sid = p.sid ∧ l.va = va / 128 * 128 ∧ l.data = b

theorem State.homeLine_of_holds (hp : s.judge space va = .ok p) (h : s.Holds p va b) : s.homeLine space va = .ok (s, p, b) := by
  obtain ⟨l, hl, sid, line, rfl⟩ := h
  unfold State.homeLine State.l2Fill
  rw [hp]
  simp only [hl, sid, line, and_self, if_true]

/-- The judgement of an address depends on pages, leases and save areas. -/
theorem State.judge_congr (hd : ∀ n, (t.part n).dies = (s.part n).dies) (hp : t.pages = s.pages) (hl : t.leases = s.leases) :
    t.judge space va = s.judge space va := by
  unfold State.judge State.inSaveArea State.backed State.page
  rw [hd, hp, hl]

/-- A write of the module's own to a line that its home takes. -/
theorem State.deviceWrite_of_takes (h : s.HomeTakes space a) (hp : s.judge space a = .ok p) :
    ∃ ds, s.deviceWrite space a bs = .ok { s with dies := ds } ∧
      ∀ t : State, t.dies = ds → t.Holds p a ((s.takenLine p a).write (a % 128) bs) := by
  have backed : s.backed space a = .ok p := by
    unfold State.judge at hp
    rwa [if_neg (by rw [State.not_inSaveArea_of_takes h]; decide)] at hp
  obtain ⟨q, hq, room⟩ := h
  cases hp.symm.trans hq
  unfold State.deviceWrite State.takenLine
  rw [backed]
  unfold State.l2Fill
  dsimp only
  cases e : tfind (s.die p.die).l2 (p.phys (a / 128 * 128)) with
  | some l =>
    rw [e] at room
    simp only [if_pos room]
    refine ⟨_, rfl, fun t ht => ⟨{ l with data := l.data.write (a % 128) bs, dirty := true }, ?_, room.1, room.2, rfl⟩⟩
    rw [State.die, ht]
    show tfind ((s.l2Put p a _).die p.die).l2 _ = _
    rw [State.l2Put, State.die_modDie_self]
    simp only [tmod, tfind_tset_self, tget, e, Option.getD_some]
  | none =>
    rw [e] at room
    simp only [State.l2MakeRoom_of_room room]
    refine ⟨_, rfl, fun t ht => ⟨{ sid := p.sid, va := a / 128 * 128, part := p.part, slice := s.homeSlice p.part p.dom (a / 128 * 128)
                                   data := (s.dramLine p.die (p.phys (a / 128 * 128))).write (a % 128) bs, dirty := true },
      ?_, rfl, rfl, rfl⟩⟩
    rw [State.die, ht]
    show tfind ((State.l2Put (s.modDie p.die _) p a _).die p.die).l2 _ = _
    rw [State.l2Put, State.die_modDie_self, State.die_modDie_self]
    simp only [tmod, tfind_tset_self, tget, Option.getD_some]

theorem State.takenLine_wf (hm : s.memWf = true) (h : s.HomeTakes space a) (hp : s.judge space a = .ok p) :
    (s.takenLine p a).wf = true := by
  obtain ⟨q, ds, hq, e⟩ := State.homeLine_of_takes h
  cases hp.symm.trans hq
  exact (State.memWf_homeLine e hm).2

/-- A doubleword of the written bytes, read at its home. -/
theorem State.numAt_written {j : Nat} (hw : b.wf = true) (hp : t.judge space (a + j) = .ok p)
    (h : t.Holds p a (b.write (a % 128) bs)) (ha : a % 8 = 0) (hj : j % 8 = 0) (hn : j + 8 ≤ bs.length)
    (hl : a % 128 + bs.length ≤ 128) : t.numAt (.mem space (a + j)) 8 = some (leNat ((bs.drop j).take 8)) := by
  have line : (a + j) / 128 * 128 = a / 128 * 128 := by omega
  have place : (a + j) % 128 = a % 128 + j := by omega
  have held : t.Holds p (a + j) (b.write (a % 128) bs) := by
    unfold State.Holds at h ⊢
    rwa [line]
  have good : (b.write (a % 128) bs).bad (a % 128 + j) 8 = false := by
    rw [Bank.bad_within (by decide) (by omega)]
    exact Bank.good_write hw (by omega) (by omega)
  unfold State.numAt State.homeRead
  simp only [State.homeLine_of_holds hp held, place, good, Bank.read_write hw hn, Bool.false_eq_true, if_false]

/-- A byte of the same line beside the written ones. -/
theorem State.homeByte_beside {u : Nat} (hw : (s.takenLine p a).wf = true) (htk : s.HomeTakes space a) (hp : s.judge space a = .ok p)
    (hu : s.judge space u = .ok p) (hj : t.judge space u = .ok p)
    (h : t.Holds p a ((s.takenLine p a).write (a % 128) bs)) (line : u / 128 = a / 128) (ha : a % 8 = 0) (hn : bs.length % 8 = 0)
    (out : u < a ∨ a + bs.length ≤ u) : t.homeByte space u = s.homeByte space u := by
  have base : u / 128 * 128 = a / 128 * 128 := by rw [line]
  have held : t.Holds p u ((s.takenLine p a).write (a % 128) bs) := by
    unfold State.Holds at h ⊢
    rwa [base]
  have takes : s.HomeTakes space u := by
    obtain ⟨q, hq, room⟩ := htk
    cases hp.symm.trans hq
    refine ⟨p, hu, ?_⟩
    rwa [base]
  have same : s.takenLine p u = s.takenLine p a := by rw [State.takenLine, State.takenLine, base]
  obtain ⟨q, ds, hq, e⟩ := State.homeLine_of_takes takes
  cases hu.symm.trans hq
  have mark : ((s.takenLine p a).write (a % 128) bs).bad (u % 128) 1 = (s.takenLine p a).bad (u % 128) 1 := by
    rw [Bank.bad_within (by decide) (by omega), Bank.bad_within (by decide) (by omega)]
    exact Bank.poison_write_outside hw (by omega)
  have byte : ((s.takenLine p a).write (a % 128) bs).read (u % 128) 1 = (s.takenLine p a).read (u % 128) 1 := by
    simp only [Bank.read, mgetBytes]
    rw [Bank.mget_write hw, if_neg (by omega)]
  unfold State.homeByte State.homeRead
  simp only [State.homeLine_of_holds hj held, e, same, mark, byte]
  cases (s.takenLine p a).bad (u % 128) 1 <;> rfl

end

end Sys2Proof.Machine
end

section
/-! PROOFS. The cycles that no memory changes, and the lines of L1 that go (01 R19; 10 R213). -/

set_option Elab.async false

namespace Sys2Proof.Machine

section
variable {s t u : State} {cell id n : Nat}

/-! ## The cycle of a die, which no memory changes (01 R19) -/

theorem State.cyc_modDie {f : Die → Die} {die : Nat} (h : (f (s.die die)).cyc = (s.die die).cyc) : (s.modDie die f).cyc n = s.cyc n := by
  rw [State.cyc, State.cyc, State.die_modDie]
  split
  · next e => rw [e, h]
  · rfl

theorem State.cyc_report (s : State) (part : Nat) (d0 addr info : Word) (die : Nat) (m : Option Msg) :
    (s.report part d0 addr info die m).cyc n = s.cyc n := rfl

theorem State.cyc_dramWrite (s : State) (die pa : Nat) (l : L2Line) : (s.dramWrite die pa l).cyc n = s.cyc n := by
  unfold State.dramWrite
  dsimp only
  split
  · exact (State.cyc_report ..).trans (State.cyc_modDie rfl)
  · exact State.cyc_modDie rfl

theorem State.cyc_l2Evict (s : State) (die pa : Nat) : (s.l2Evict die pa).cyc n = s.cyc n := by
  unfold State.l2Evict
  split
  · rfl
  · dsimp only
    rw [State.cyc_modDie (by rfl)]
    split
    · exact s.cyc_dramWrite _ _ _
    · rfl

theorem State.cyc_l2MakeRoom (s : State) (die slice k : Nat) : (s.l2MakeRoom die slice k).cyc n = s.cyc n :=
  foldl_related (R := fun s t => t.cyc n = s.cyc n) (fun _ => rfl) (fun h k => k.trans h)
    (fun u (p : Nat × L2Line) => u.cyc_l2Evict die p.1) _ s

theorem State.cyc_l2Fill (s : State) (p : Page) (va : Nat) : (s.l2Fill p va).1.cyc n = s.cyc n := by
  unfold State.l2Fill
  dsimp only
  split
  · split
    · rfl
    · exact (State.cyc_modDie rfl).trans ((State.cyc_l2MakeRoom _ _ _ _).trans (s.cyc_l2Evict _ _))
  · exact (State.cyc_modDie rfl).trans (s.cyc_l2MakeRoom _ _ _)

theorem State.cyc_homeLine {space va : Nat} {r : Page × Bank} (e : s.homeLine space va = .ok (t, r)) : t.cyc n = s.cyc n := by
  unfold State.homeLine at e
  split at e
  · cases e
  · cases e
    exact s.cyc_l2Fill _ va

theorem State.cyc_homeModify {space va k : Nat} {f : Bank → Nat → Bank} (e : s.homeModify (.mem space va) k f = .ok t) :
    t.cyc n = s.cyc n := by
  simp only [State.homeModify, State.lineModify] at e
  split at e
  · cases e
  · split at e
    · cases e
    · next h =>
      cases e
      exact (State.cyc_modDie rfl).trans (State.cyc_homeLine h)

/-! ## A line of L1 that goes (10 R213) -/

/-- Of a cell, only the messages that wait in it and one place of its L1 differ, and no cycle has passed. -/
structure LineOnly (s t : State) (cell id : Nat) : Prop where
  cyc    : ∀ n, t.cyc n = s.cyc n
  frame  : t.cell cell = { s.cell cell with
    l1 := (t.cell cell).l1, queue := (t.cell cell).queue, gstore := (t.cell cell).gstore, seq := (t.cell cell).seq }
  rises  : risesFrom 0 (s.cell cell).l1 = true → risesFrom 0 (t.cell cell).l1 = true
  others : risesFrom 0 (s.cell cell).l1 = true → ∀ k, k ≠ id → tfind (t.cell cell).l1 k = tfind (s.cell cell).l1 k

theorem LineOnly.trans (h : LineOnly s t cell id) (k : LineOnly t u cell id) : LineOnly s u cell id :=
  ⟨fun n => (k.cyc n).trans (h.cyc n), by rw [k.frame, h.frame], fun r => k.rises (h.rises r),
    fun r j hj => (k.others (h.rises r) j hj).trans (h.others r j hj)⟩

theorem LineOnly.of_cells (hc : t.cells = s.cells) (hn : ∀ n, t.cyc n = s.cyc n) : LineOnly s t cell id := by
  have same : t.cell cell = s.cell cell := by rw [State.cell, State.cell, hc]
  exact ⟨hn, by rw [same], fun r => by rwa [same], fun _ _ _ => by rw [same]⟩

theorem LineOnly.l1Drop (s : State) (cell id : Nat) : LineOnly s (s.l1Drop cell id) cell id := by
  refine ⟨fun _ => rfl, ?_, fun r => ?_, fun r k hk => ?_⟩
  all_goals rw [State.l1Drop, State.cell_modCell_self]
  · exact risesFrom_tdel id r
  · exact (tfind_tdel r id k).trans (if_neg hk)

theorem LineOnly.l1Set (s : State) (cell id : Nat) (l : L1Line) :
    LineOnly s (s.modCell cell fun c => { c with l1 := tset c.l1 id l }) cell id := by
  refine ⟨fun _ => rfl, ?_, fun r => ?_, fun _ k hk => ?_⟩
  all_goals rw [State.cell_modCell_self]
  · exact risesFrom_tset l r (Nat.zero_le _)
  · exact tfind_tset_ne _ _ hk

theorem QueuesOnly.lineOnly (h : QueuesOnly s t) : LineOnly s t cell id := by
  have l1 : (t.cell cell).l1 = (s.cell cell).l1 := by rw [h.cells]
  exact ⟨fun n => by rw [State.cyc, State.cyc, h.homes.die], by rw [h.cells], fun r => by rwa [l1], fun _ _ _ => by rw [l1]⟩

theorem HomesOnly.cells (h : HomesOnly s t) : t.cells = s.cells := by rw [h]

theorem LineOnly.l1WriteBack (s : State) (cell id : Nat) : LineOnly s (s.l1WriteBack cell id) cell id := by
  unfold State.l1WriteBack
  split
  · exact .of_cells rfl fun _ => rfl
  · split
    · exact .of_cells rfl fun _ => rfl
    · split
      · next t e =>
        have written : LineOnly s t cell id := .of_cells (State.homesOnly_homeModify e).cells fun _ => State.cyc_homeModify e
        refine written.trans ?_
        split
        · next u p b e =>
          have read : LineOnly t u cell id := .of_cells (State.homesOnly_homeLine e).cells fun _ => State.cyc_homeLine e
          exact (read.trans (.of_cells (t := { u with stamp := u.stamp + 1 }) rfl fun _ => rfl)).trans (.l1Set ..)
        · exact .l1Drop ..
      · exact (LineOnly.l1Drop ..).trans (QueuesOnly.dropped _ _).lineOnly

theorem LineOnly.l1Flush (s : State) (cell id : Nat) : LineOnly s (s.l1Flush cell id) cell id :=
  (LineOnly.l1WriteBack s cell id).trans (.l1Drop ..)

theorem State.tfind_l1Flush (hr : risesFrom 0 (s.cell cell).l1 = true) : tfind ((s.l1Flush cell id).cell cell).l1 id = none := by
  rw [State.l1Flush, State.l1Drop, State.cell_modCell_self]
  exact (tfind_tdel ((LineOnly.l1WriteBack s cell id).rises hr) id id).trans (if_pos rfl)

/-- The lines of a list of places go, and no other. -/
structure LinesGone (s t : State) (cell : Nat) (places : List Nat) : Prop where
  cyc   : ∀ n, t.cyc n = s.cyc n
  frame : t.cell cell = { s.cell cell with
    l1 := (t.cell cell).l1, queue := (t.cell cell).queue, gstore := (t.cell cell).gstore, seq := (t.cell cell).seq }
  l1    : ∀ k, tfind (t.cell cell).l1 k = if k ∈ places then none else tfind (s.cell cell).l1 k

theorem LinesGone.flushed (l : List (Nat × L1Line)) (hr : risesFrom 0 (s.cell cell).l1 = true) :
    LinesGone s (l.foldl (fun s p => s.l1Flush cell p.1) s) cell (l.map Prod.fst) := by
  induction l generalizing s with
  | nil => exact ⟨fun _ => rfl, rfl, fun _ => rfl⟩
  | cons p l ih =>
    have first := LineOnly.l1Flush s cell p.1
    have rest := ih (first.rises hr)
    refine ⟨fun n => (rest.cyc n).trans (first.cyc n), ?_, fun k => ?_⟩
    · rw [List.foldl_cons, rest.frame, first.frame]
    · rw [List.foldl_cons, rest.l1]
      simp only [List.map_cons, List.mem_cons]
      by_cases hk : k = p.1
      · subst hk
        rw [State.tfind_l1Flush hr]
        simp
      · rw [first.others hr k hk]
        simp only [hk, false_or]

end

end Sys2Proof.Machine
end

section
/-! PROOFS. The cell control page, the fault queue and the counts (01 R13, R24, R25; 10 R228; 17 R331, R332; 20 R365). -/

set_option Elab.async false

namespace Sys2Proof.Machine

section
variable {s t : State} {i : Instr} {cell part n die : Nat} {z : BitVec 2} {r : Report} {p : Page} {v : Word}

/-! ## The cell control page (01 R13, R24, R25) -/

/-- An instruction that changes one cell sets that cell. -/
theorem setsCell_of_modCell {f : Cell → Cell} {k : Cell} (e : exec i s = .next (s.modCell cell f)) (h : f (s.cell cell) = k) :
    ∃ t, exec i s = .next t ∧ t = { s with cells := t.cells } ∧ ∀ m, t.cell m = if m = cell then k else s.cell m :=
  ⟨_, e, rfl, fun m => h ▸ s.cell_modCell cell m f⟩

theorem exec_rotationChangeWrite {rot : Bool} (h : cell < 512) : exec (.rotationChangeWrite cell rot) s =
    .next (s.modCell cell fun c =>
      if rot = c.mode then { c with rot := rot, rotp := false }
      else if c.rotp then { c with rot := rot }
      else { c with rot := rot, rotp := true, rotAt := (s.cyc (dieOfCell cell) / 16 + 1) * 16 }) := by
  have boundary : (s.cyc (dieOfCell cell) / 16 + 1) * 16 = (s.cyc (dieOfCell cell) + 16) / 16 * 16 := by omega
  rw [boundary]
  exact if_pos h

theorem exec_rotationBoundary (h : cell < 512) : exec (.rotationBoundary cell) s = .next (s.rotBoundary cell) := if_pos h

theorem exec_splitChangeDone (h : cell < 512) : exec (.splitChangeDone cell) s = .next (s.splitDone cell) := if_pos h

theorem exec_sprfClear (h : cell < 512) : exec (.sprfClear cell) s = .next (s.clearSprf cell) := if_pos h

theorem exec_splitChangeWrite (h : cell < 512) : exec (.splitChangeWrite cell z) s = .next (s.writeSplit cell z) := if_pos h

/-- Does a scratchpad range lease cover bytes beyond a size? -/
theorem State.spBeyond_iff {size : Nat} : s.spBeyond cell size = true ↔
    ∃ l, l ∈ s.leases ∧ l.2.st ≠ .lapsed ∧ ∃ b k, l.2.obj = .sp cell b k ∧ size < (b + k) * 4096 := by
  unfold State.spBeyond
  rw [List.any_eq_true]
  refine exists_congr fun l => and_congr_right fun _ => ?_
  split
  · next c b k e =>
    simp only [e, Bool.and_eq_true, decide_eq_true_eq, LeaseObj.sp.injEq]
    constructor
    · rintro ⟨⟨rfl, hs⟩, hb⟩
      exact ⟨hs, b, k, ⟨rfl, rfl, rfl⟩, hb⟩
    · rintro ⟨hs, _, _, ⟨rfl, rfl, rfl⟩, hb⟩
      exact ⟨⟨rfl, hs⟩, hb⟩
  · next h =>
    constructor
    · exact fun k => nomatch k
    · rintro ⟨_, b, k, e, _⟩
      exact (h _ _ _ e).elim

theorem State.writeSplit_busy (h : (s.cell cell).spx = true) : s.writeSplit cell z = s.modCell cell fun c => { c with sprf := true } :=
  if_pos h

theorem State.writeSplit_same (h : (s.cell cell).spx = false) (hz : z = (s.cell cell).spsz) : s.writeSplit cell z = s := by
  unfold State.writeSplit
  simp only [h, hz, Bool.false_eq_true, if_false, if_true]

theorem State.writeSplit_cut (h : (s.cell cell).spx = false) (hz : z ≠ (s.cell cell).spsz)
    (hc : s.spBeyond cell ((z.toNat + 1) * 0x4_0000) = true) :
    s.writeSplit cell z = s.modCell cell fun c => { c with sprf := true } := by
  unfold State.writeSplit
  simp only [h, hz, hc, Bool.false_eq_true, if_false, if_true]

/-- The lines of a cell's L1 that a split of `new` scratchpad bytes takes (log 12). -/
def Cell.passing (c : Cell) (new : Nat) : List (Nat × L1Line) := c.l1.filter fun p => decide ((0x24_0000 - new) / 128 ≤ p.1)

/-- The state in which those lines have gone back to their homes. -/
def State.flushPassing (s : State) (cell new : Nat) : State :=
  ((s.cell cell).passing new).foldl (fun s p => s.l1Flush cell p.1) s

theorem State.cell_retryData (s : State) (cell n : Nat) : (s.retryData cell).cell n = s.cell n := rfl

theorem State.writeSplit_moves (h : (s.cell cell).spx = false) (hz : z ≠ (s.cell cell).spsz)
    (hc : s.spBeyond cell ((z.toNat + 1) * 0x4_0000) = false) : s.writeSplit cell z =
      let c := s.cell cell
      let new := (z.toNat + 1) * 0x4_0000
      let t := s.flushPassing cell new
      let moved := if c.spadSize < new then new - c.spadSize else c.spadSize - new
      (t.modCell cell fun c' =>
        { c' with
          spsz := z, spx := true
          spxEnd := t.cyc (dieOfCell cell) + (moved + 63) / 64 + 2 * ((c.passing new).filter fun p => p.2.dirty ≠ 0).length
          spad := c'.spad.clear (min c.spadSize new) moved }).retryData cell := by
  unfold State.writeSplit
  simp only [h, hz, hc, Bool.false_eq_true, if_false]
  rfl

theorem tfind_filter_key {α : Type} (t : Table α) (f : Nat → Bool) (k : Nat) :
    tfind (t.filter fun p => f p.1) k = if f k then tfind t k else none := by
  induction t with
  | nil => simp [tfind]
  | cons p t ih =>
    obtain ⟨j, v⟩ := p
    rw [List.filter_cons]
    by_cases hj : f j
    · simp only [hj, if_true, tfind, ih]
      by_cases e : j = k
      · subst e
        simp [hj]
      · simp only [e, if_false]
    · simp only [hj, Bool.false_eq_true, if_false, tfind, ih]
      by_cases e : j = k
      · subst e
        simp [hj]
      · simp only [e, if_false]

theorem Bank.mget_clear (b : Bank) (a n k : Nat) : mget (b.clear a n).bytes k = if a ≤ k ∧ k < a + n then 0 else mget b.bytes k := by
  rw [Bank.clear, mget, tget, tfind_filter_key b.bytes fun k => !decide (a ≤ k ∧ k < a + n)]
  by_cases h : a ≤ k ∧ k < a + n
  · simp only [h, and_self, decide_true, Bool.not_true, Bool.false_eq_true, if_false, if_true]
    rfl
  · simp only [h, decide_false, Bool.not_false, if_true, if_false]
    rfl

theorem tfind_isSome_of_mem {α : Type} {t : Table α} {k : Nat} (h : (tfind t k).isSome = true) : ∃ v, (k, v) ∈ t := by
  induction t with
  | nil => cases h
  | cons p t ih =>
    obtain ⟨j, v⟩ := p
    rw [tfind] at h
    split at h
    · next e => exact ⟨v, e ▸ .head _⟩
    · obtain ⟨w, hw⟩ := ih h
      exact ⟨w, .tail _ hw⟩

/-- What a split change does to the cell. -/
theorem State.writeSplit_cell (h : (s.cell cell).spx = false) (hz : z ≠ (s.cell cell).spsz)
    (hc : s.spBeyond cell ((z.toNat + 1) * 0x4_0000) = false) (hr : risesFrom 0 (s.cell cell).l1 = true) :
    let c := s.cell cell
    let t := s.writeSplit cell z
    let old := c.spadSize
    let new := (z.toNat + 1) * 0x4_0000
    (t.cell cell).spsz = z ∧ (t.cell cell).spx = true ∧ (t.cell cell).sprf = c.sprf ∧
      (t.cell cell).spxEnd = s.cyc (dieOfCell cell) + (max old new - min old new + 63) / 64 +
        2 * ((c.passing new).filter fun l => l.2.dirty ≠ 0).length ∧
      (∀ k, ((0x24_0000 - new) / 128 ≤ k → tfind (t.cell cell).l1 k = none) ∧
        (¬ (0x24_0000 - new) / 128 ≤ k → tfind (t.cell cell).l1 k = tfind c.l1 k)) ∧
      ∀ k, mget (t.cell cell).spad.bytes k = if min old new ≤ k ∧ k < max old new then 0 else mget c.spad.bytes k := by
  intro c t old new
  have gone : LinesGone s (s.flushPassing cell new) cell _ := LinesGone.flushed (c.passing new) hr
  have moves := State.writeSplit_moves h hz hc
  have moved : (if old < new then new - old else old - new) = max old new - min old new := by
    split <;> omega
  have after : t.cell cell = { (s.flushPassing cell new).cell cell with
      spsz := z, spx := true
      spxEnd := (s.flushPassing cell new).cyc (dieOfCell cell) + (max old new - min old new + 63) / 64 +
        2 * ((c.passing new).filter fun p => p.2.dirty ≠ 0).length
      spad := ((s.flushPassing cell new).cell cell).spad.clear (min old new) (max old new - min old new) } := by
    rw [← moved]
    refine (congrArg (State.cell · cell) moves).trans ?_
    dsimp only
    rw [State.cell_retryData, State.cell_modCell_self]
  have sprf : ((s.flushPassing cell new).cell cell).sprf = c.sprf := by rw [gone.frame]
  have spad : ((s.flushPassing cell new).cell cell).spad = c.spad := by rw [gone.frame]
  have l1 : (t.cell cell).l1 = ((s.flushPassing cell new).cell cell).l1 := by rw [after]
  refine ⟨by rw [after], by rw [after], by rw [after]; exact sprf, by rw [after, gone.cyc],
    fun k => ⟨fun hk => ?_, fun hk => ?_⟩, fun k => ?_⟩
  · rw [l1, gone.l1]
    split
    · rfl
    · next out =>
      by_contra held
      obtain ⟨l, hl⟩ := tfind_isSome_of_mem (Option.isSome_iff_ne_none.2 held)
      exact out (List.mem_map.2 ⟨(k, l), List.mem_filter.2 ⟨hl, decide_eq_true hk⟩, rfl⟩)
  · rw [l1, gone.l1]
    split
    · next ins =>
      obtain ⟨l, hl, rfl⟩ := List.mem_map.1 ins
      exact (hk (of_decide_eq_true (List.mem_filter.1 hl).2)).elim
    · rfl
  · have span : min old new + (max old new - min old new) = max old new := by omega
    have bytes : (t.cell cell).spad.bytes = (c.spad.clear (min old new) (max old new - min old new)).bytes := by rw [after, ← spad]
    rw [bytes, Bank.mget_clear, span]

/-! ## The fault writer (17 R331, R332) -/

theorem exec_faultReport (h : tfind s.reports n = some r) : exec (.faultReport n) s =
    if s.reports.any fun p => decide (p.1 < n) && p.2.part = r.part && p.2.source = r.source then .next s
    else .next (s.writeReport n) := by
  show execFaultReport n s = _
  unfold execFaultReport
  rw [h]

/-- The entries that a report takes. -/
def Report.entries (r : Report) : Nat := if r.payload.isSome then 2 else 1

theorem State.writeReport_full (h : tfind s.reports n = some r)
    (hf : (s.part r.part).fqbase = 0 ∨ (s.part r.part).ringSize < (s.part r.part).unread + r.entries) :
    s.writeReport n = { s with reports := tdel s.reports n }.modPart r.part fun p => p.lose r.entries := by
  unfold State.writeReport
  rw [h]
  unfold Report.entries at *
  cases hp : r.payload with
  | none =>
    rw [hp] at hf
    simp only [hp]
    exact if_pos hf
  | some m =>
    rw [hp] at hf
    simp only [hp]
    exact if_pos hf

theorem State.ringWrite_single (s : State) (part base size k : Nat) (bs : List Byte) :
    s.ringWrite part base size k [bs] = s.deviceWrite (spaceOf part) (base + 32 * (k % size)) bs := by
  unfold State.ringWrite
  generalize s.deviceWrite (spaceOf part) (base + 32 * (k % size)) bs = d
  cases d with
  | error _ => rfl
  | ok t => rfl

/-- A report without a message, for which the ring has room: its write decides. -/
theorem State.writeReport_room (h : tfind s.reports n = some r) (hb : (s.part r.part).fqbase ≠ 0)
    (hw : (s.part r.part).unread < (s.part r.part).ringSize) (hp : r.payload = none) : s.writeReport n =
      let u : State := { s with reports := tdel s.reports n }
      let p := s.part r.part
      match u.deviceWrite (spaceOf r.part) (p.fqbase + 32 * (p.fqtail % p.ringSize)) (u.reportBytesOf r) with
      | .error _ => u.modPart r.part fun p => p.lose 1
      | .ok t => (t.modPart r.part fun p => { p with fqtail := (p.fqtail + 1) % (2 * p.ringSize) }).signal r.part 0 := by
  have room : ¬ ((s.part r.part).fqbase = 0 ∨ (s.part r.part).ringSize < (s.part r.part).unread + 1) := by omega
  unfold State.writeReport
  rw [h]
  simp only [hp]
  refine (if_neg room).trans ?_
  simp only [State.ringWrite_single, Nat.mod_mod]
  rfl

/-! ### The entry in the ring -/

theorem word8_length (w : Word) : (word8 w).length = 8 := leBytes_length _ _

theorem leNat_word8 (w : Word) : leNat (word8 w) = w.toNat := by
  rw [word8, leNat_leBytes]
  exact Nat.mod_eq_of_lt w.isLt

theorem State.reportBytesOf_length (s : State) (r : Report) : (s.reportBytesOf r).length = 32 := by
  simp only [State.reportBytesOf, List.length_append, word8_length]

/-- The doublewords of four. -/
theorem dword_of_four (a b c d : Word) :
    ((word8 a ++ word8 b ++ word8 c ++ word8 d).drop 0).take 8 = word8 a ∧
    ((word8 a ++ word8 b ++ word8 c ++ word8 d).drop 8).take 8 = word8 b ∧
    ((word8 a ++ word8 b ++ word8 c ++ word8 d).drop 16).take 8 = word8 c ∧
    ((word8 a ++ word8 b ++ word8 c ++ word8 d).drop 24).take 8 = word8 d := by
  simp [List.drop_append, word8_length, List.take_of_length_le, List.drop_eq_nil_of_le]

/-- The doublewords of a written entry, read at the ring's home. -/
theorem State.numAt_entry {space a : Nat} {b : Bank} (hw : b.wf = true) (hp : ∀ j, j < 32 → t.judge space (a + j) = .ok p)
    (h : t.Holds p a (b.write (a % 128) (s.reportBytesOf r))) (ha : a % 32 = 0) :
    t.numAt (.mem space a) 8 = some r.d0.toNat ∧ t.numAt (.mem space (a + 8)) 8 = some r.addr.toNat ∧
      t.numAt (.mem space (a + 16)) 8 = some r.info.toNat ∧
      t.numAt (.mem space (a + 24)) 8 = some (s.ref (r.d0.toNat / 2 ^ 25 % 4) % 2 ^ 64) := by
  have len := s.reportBytesOf_length r
  have dword (j : Nat) (h8 : j % 8 = 0) (hj : j + 8 ≤ 32) :=
    State.numAt_written hw (hp j (by omega)) h (by omega) h8 (by omega) (by omega)
  obtain ⟨d0, d1, d2, d3⟩ := dword_of_four r.d0 r.addr r.info (BitVec.ofNat 64 (s.ref (r.d0.toNat / 2 ^ 25 % 4)))
  refine ⟨?_, ?_, ?_, ?_⟩
  · exact (dword 0 rfl (by decide)).trans (congrArg some ((congrArg leNat d0).trans (leNat_word8 _)))
  · exact (dword 8 rfl (by decide)).trans (congrArg some ((congrArg leNat d1).trans (leNat_word8 _)))
  · exact (dword 16 rfl (by decide)).trans (congrArg some ((congrArg leNat d2).trans (leNat_word8 _)))
  · refine (dword 24 rfl (by decide)).trans (congrArg some ((congrArg leNat d3).trans ?_))
    rw [leNat_word8, BitVec.toNat_ofNat]

/-- A report that the ring takes. -/
theorem State.writeReport_written (h : tfind s.reports n = some r) (hb : (s.part r.part).fqbase ≠ 0)
    (hw : (s.part r.part).unread < (s.part r.part).ringSize) (hp : r.payload = none) (hm : s.memWf = true) :
    let space := spaceOf r.part
    let q := s.part r.part
    let a := q.fqbase + 32 * (q.fqtail % q.ringSize)
    let t := s.writeReport n
    a % 32 = 0 → s.HomeTakes space a → (∀ j, j < 32 → s.judge space (a + j) = s.judge space a) →
      t.reports = tdel s.reports n ∧
      t.part r.part = { q with fqtail := (q.fqtail + 1) % (2 * q.ringSize), vectors := 0 :: q.vectors } ∧
      t.numAt (.mem space a) 8 = some r.d0.toNat ∧ t.numAt (.mem space (a + 8)) 8 = some r.addr.toNat ∧
      t.numAt (.mem space (a + 16)) 8 = some r.info.toNat ∧
      t.numAt (.mem space (a + 24)) 8 = some (s.ref (r.d0.toNat / 2 ^ 25 % 4) % 2 ^ 64) ∧
      ∀ u, u < a ∨ a + 32 ≤ u → s.judge space u = s.judge space a → u / 128 = a / 128 →
        t.homeByte space u = s.homeByte space u := by
  intro space q a t aligned takes judged
  have ⟨p, hj, _⟩ := takes
  have written : ∃ ds, State.deviceWrite { s with reports := tdel s.reports n } space a (s.reportBytesOf r) =
      .ok { s with reports := tdel s.reports n, dies := ds } ∧
      ∀ t : State, t.dies = ds → t.Holds p a ((s.takenLine p a).write (a % 128) (s.reportBytesOf r)) :=
    State.deviceWrite_of_takes (s := { s with reports := tdel s.reports n }) takes hj
  obtain ⟨ds, write, holds⟩ := written
  have result : t = ({ s with reports := tdel s.reports n, dies := ds }.modPart r.part fun p =>
      { p with fqtail := (p.fqtail + 1) % (2 * p.ringSize) }).signal r.part 0 := by
    refine (State.writeReport_room h hb hw hp).trans ?_
    dsimp only
    rw [show State.deviceWrite { s with reports := tdel s.reports n } (spaceOf r.part)
      ((s.part r.part).fqbase + 32 * ((s.part r.part).fqtail % (s.part r.part).ringSize))
      (State.reportBytesOf { s with reports := tdel s.reports n } r) = _ from write]
  have part : t.part r.part = { q with fqtail := (q.fqtail + 1) % (2 * q.ringSize), vectors := 0 :: q.vectors } := by
    rw [result, State.signal, State.part_modPart_self, State.part_modPart_self]
    rfl
  have areas (m : Nat) : (t.part m).dies = (s.part m).dies := by
    by_cases hm : m = r.part
    · rw [hm, part]
    · rw [result, State.signal, State.part_modPart, if_neg hm, State.part_modPart, if_neg hm]
      rfl
  have judge (u : Nat) : t.judge space u = s.judge space u := State.judge_congr areas (by rw [result]; rfl) (by rw [result]; rfl)
  have held := holds t (by rw [result]; rfl)
  have wf := State.takenLine_wf hm takes hj
  obtain ⟨n0, n1, n2, n3⟩ := State.numAt_entry wf (fun j hj' => (judge _).trans ((judged j hj').trans hj)) held aligned
  refine ⟨by rw [result]; rfl, part, n0, n1, n2, n3, fun u out same line => ?_⟩
  have len := s.reportBytesOf_length r
  exact State.homeByte_beside wf takes hj (same.trans hj) ((judge u).trans (same.trans hj)) held line (by omega) (by omega) (by omega)

/-- A report whose entry the ring's home refuses is lost. -/
theorem State.writeReport_refused {e : Byte} (h : tfind s.reports n = some r) (hb : (s.part r.part).fqbase ≠ 0)
    (hw : (s.part r.part).unread < (s.part r.part).ringSize) (hp : r.payload = none)
    (he : s.backed (spaceOf r.part) ((s.part r.part).fqbase + 32 * ((s.part r.part).fqtail % (s.part r.part).ringSize)) = .error e) :
    s.writeReport n = { s with reports := tdel s.reports n }.modPart r.part fun p => p.lose 1 := by
  have refused (bs : List Byte) : State.deviceWrite { s with reports := tdel s.reports n } (spaceOf r.part)
      ((s.part r.part).fqbase + 32 * ((s.part r.part).fqtail % (s.part r.part).ringSize)) bs = .error e := by
    unfold State.deviceWrite
    rw [show State.backed { s with reports := tdel s.reports n } (spaceOf r.part) _ = _ from he]
  refine (State.writeReport_room h hb hw hp).trans ?_
  dsimp only
  rw [refused]

end

/-! ## The registers of the fault queue, and the counts (10 R228; 17 R332; 20 R365) -/

section
variable {s : State} {part n die : Nat} {v : Word}

theorem exec_fqbaseWrite_kept (h : (s.part part).fqtail ≠ (s.part part).fqhead ∨ (s.part part).flr ≠ none) :
    exec (.fqbaseWrite part v) s = .next s :=
  if_pos (h.imp_right Option.isSome_iff_ne_none.2)

theorem exec_fqbaseWrite (h1 : (s.part part).fqtail = (s.part part).fqhead) (h2 : (s.part part).flr = none) :
    exec (.fqbaseWrite part v) s = .next (s.modPart part fun p =>
      { p with
        fqbase := v.toNat / 2 ^ 16 % 2 ^ 32 * 2 ^ 16
        fqlg := if v.toNat / 2 ^ 48 % 16 ≤ 10 then v.toNat / 2 ^ 48 % 16 else p.fqlg }) := by
  have open_ : ¬ ((s.part part).fqtail ≠ (s.part part).fqhead ∨ (s.part part).flr.isSome = true) := by
    rw [h1, h2]
    simp
  exact if_neg open_

theorem toNat_append {k m : Nat} (x : BitVec k) (y : BitVec m) : (x ++ y).toNat = x.toNat * 2 ^ m + y.toNat := by
  rw [BitVec.toNat_append, ← Nat.shiftLeft_add_eq_or_of_lt y.isLt, Nat.shiftLeft_eq]

theorem Cell.statistics_eq (c : Cell) : c.statistics = c.cfail ++ c.aband ++ c.disc := by
  apply BitVec.eq_of_toNat_eq
  have h1 := c.cfail.isLt
  have h2 := c.aband.isLt
  have h3 := c.disc.isLt
  rw [Cell.statistics, BitVec.toNat_ofNat, toNat_append, toNat_append]
  omega

theorem Die.errcnt_eq (d : Die) : d.errcnt = d.due ++ d.dce ++ d.sue ++ d.sce := by
  apply BitVec.eq_of_toNat_eq
  have h1 := d.due.isLt
  have h2 := d.dce.isLt
  have h3 := d.sue.isLt
  have h4 := d.sce.isLt
  rw [Die.errcnt, BitVec.toNat_ofNat, toNat_append, toNat_append, toNat_append]
  omega

theorem exec_statisticsBlockRead_cell (m : Nat) (h : (s.cellsOfPart part)[n]? = some m) : exec (.statisticsBlockRead part n) s =
    .next { s.modCell m fun k => { k with disc := 0, aband := 0, cfail := 0 } with hostOut := .value (s.cell m).statistics } := by
  show execStatisticsBlockRead part n s = _
  unfold execStatisticsBlockRead
  rw [h]

theorem exec_statisticsBlockRead_beyond (h : (s.cellsOfPart part)[n]? = none) :
    exec (.statisticsBlockRead part n) s = .next { s with hostOut := .value 0 } := by
  show execStatisticsBlockRead part n s = _
  unfold execStatisticsBlockRead
  rw [h]

theorem exec_errcntRead (h : die < 4) : exec (.errcntRead die) s =
    .next { s.modDie die fun d => { d with sce := 0, sue := 0, dce := 0, due := 0 } with hostOut := .value (s.die die).errcnt } :=
  if_neg (Nat.not_le.2 h)

end

/-- Settles O50: a register's change is one change of its cell or partition, a split moves as the flush of the lines that pass leaves
it, and a report is written where the ring's home takes its line. -/
theorem cellControlAndFaultQueue : Obligations.CellControlAndFaultQueue := by
  intro cell part n die rot z v s c now sets p partSet
  refine ⟨fun hc => ⟨?_, ?_, ?_, ?_, ?_, ?_, ?_, ?_⟩, fun r hr hp hm => ?_, ⟨?_, ?_⟩, ?_, ?_, ?_, ?_, ?_⟩
  · exact setsCell_of_modCell (exec_rotationChangeWrite hc) rfl
  · refine setsCell_of_modCell (exec_rotationBoundary hc) ?_
    simp only [Bool.and_eq_true, decide_eq_true_eq]
    rfl
  · refine setsCell_of_modCell (exec_splitChangeDone hc) ?_
    simp only [Bool.and_eq_true, decide_eq_true_eq]
    rfl
  · exact setsCell_of_modCell (exec_sprfClear hc) rfl
  · exact fun busy => setsCell_of_modCell ((exec_splitChangeWrite hc).trans (congrArg _ (State.writeSplit_busy busy))) rfl
  · exact fun free same => (exec_splitChangeWrite hc).trans (congrArg _ (State.writeSplit_same free same))
  · exact fun free moves cut => setsCell_of_modCell ((exec_splitChangeWrite hc).trans
      (congrArg _ (State.writeSplit_cut free moves (State.spBeyond_iff.2 cut)))) rfl
  · intro free moves whole rises
    exact ⟨_, exec_splitChangeWrite hc,
      State.writeSplit_cell free moves (Bool.eq_false_of_not_eq_true (mt State.spBeyond_iff.1 whole)) rises⟩
  · subst hp
    have step := exec_faultReport hr
    have ahead : (s.reports.any fun p => decide (p.1 < n) && p.2.part = r.part && p.2.source = r.source) = true ↔
        ∃ q, q ∈ s.reports ∧ q.1 < n ∧ q.2.part = r.part ∧ q.2.source = r.source := by
      simp only [List.any_eq_true, Bool.and_eq_true, decide_eq_true_eq, and_assoc]
    refine ⟨fun behind => ?_, fun first full => ?_, fun first base room alone e refused => ?_,
      fun first base room alone aligned takes judged => ?_⟩
    · rw [step, if_pos (ahead.2 behind)]
    · rw [if_neg (mt ahead.1 first), State.writeReport_full hr full] at step
      exact ⟨_, step, rfl, State.part_modPart_self _ _ _, rfl⟩
    · rw [if_neg (mt ahead.1 first), State.writeReport_refused hr base room alone refused] at step
      exact ⟨_, step, State.part_modPart_self _ _ _, rfl⟩
    · rw [if_neg (mt ahead.1 first)] at step
      exact ⟨_, step, State.writeReport_written hr base room alone hm aligned takes judged⟩
  · exact exec_fqbaseWrite_kept
  · intro empty quiet
    have field : v.toNat % 2 ^ 48 / 2 ^ 16 * 2 ^ 16 = v.toNat / 2 ^ 16 % 2 ^ 32 * 2 ^ 16 := by omega
    refine ⟨_, exec_fqbaseWrite empty quiet, rfl, fun m => ?_⟩
    rw [State.part_modPart, field]
  · exact ⟨_, rfl, rfl, fun m => s.part_modPart part m fun p => { p with fqlost := 0 }⟩
  · exact ⟨_, rfl, rfl⟩
  · intro m hm
    refine ⟨_, exec_statisticsBlockRead_cell m hm, ?_,
      fun k => s.cell_modCell m k fun c => { c with disc := 0, aband := 0, cfail := 0 }⟩
    rw [Cell.statistics_eq]
    rfl
  · exact exec_statisticsBlockRead_beyond
  · intro hd
    refine ⟨_, exec_errcntRead hd, ?_,
      fun k => s.die_modDie die k fun d => { d with sce := 0, sue := 0, dce := 0, due := 0 }⟩
    rw [Die.errcnt_eq]
    rfl

end Sys2Proof.Machine
end

section
/-! PROOFS. The control and status registers: one value of an unchanged context, one written value, and the four operations
(04 R77-R79; 17 R327). -/

namespace Sys2Proof.Machine

section
variable {s t : State}

/-! ## What a CSR reads -/

/-- A CSR reads alike in two states whose acting contexts have the same CSRs and the same clock. -/
theorem State.csr_congr (h : t.self = { s.self with
      x := t.self.x, badRegs := t.self.badRegs, acqMark := t.self.acqMark, pc := t.self.pc, sst := t.self.sst, wait := t.self.wait
      charged := t.self.charged, shown := t.self.shown, readySince := t.self.readySince })
    (hd : t.dies = s.dies) (m : BitVec 12) : t.csr m = s.csr m := by
  have cell : t.self.cell = s.self.cell := by rw [h]
  have now : t.now = s.now := by rw [State.now, State.now, State.cyc, State.cyc, State.die_congr hd, cell]
  have tick : t.tick = s.tick := by
    rw [State.tick, State.tick, State.ref, State.ref, State.cyc, State.cyc, State.die_congr hd, cell]
  unfold State.csr
  rw [now, tick, h]
  rfl

theorem State.csr_mod_id {f : Ctx → Ctx} (h : f s.self = s.self) (m : BitVec 12) : (s.mod f).csr m = s.csr m := by
  have same : (s.mod f).self = s.self := by rw [State.self_mod, h]
  exact State.csr_congr (s := s) (t := s.mod f) (by rw [same]) rfl m

/-- The numbers of the CSRs that have writable fields (17 R327). -/
theorem writableCsr_cases (n : BitVec 12) :
    (n = 0x001 ∨ n = 0x002 ∨ n = 0x100 ∨ n = 0x101 ∨ n = 0x108 ∨ n = 0x200 ∨ n = 0x201 ∨ n = 0x208) ∨
      (∀ v old, csrAfter n old v = old) ∧ ∀ (c : Ctx) v, c.writeCsr n v = c := by
  by_cases h : n = 0x001 ∨ n = 0x002 ∨ n = 0x100 ∨ n = 0x101 ∨ n = 0x108 ∨ n = 0x200 ∨ n = 0x201 ∨ n = 0x208
  · exact .inl h
  · right
    simp only [not_or] at h
    obtain ⟨h1, h2, h3, h4, h5, h6, h7, h8⟩ := h
    refine ⟨fun v old => by simp only [csrAfter, h1, h2, h3, h4, h5, h6, h7, h8, or_self, if_false], fun c v => ?_⟩
    unfold Ctx.writeCsr
    split
    · exact absurd (BitVec.eq_of_toNat_eq ‹_›) h1
    · exact absurd (BitVec.eq_of_toNat_eq ‹_›) h2
    · exact absurd (BitVec.eq_of_toNat_eq ‹_›) h3
    · exact absurd (BitVec.eq_of_toNat_eq ‹_›) h4
    · exact absurd (BitVec.eq_of_toNat_eq ‹_›) h5
    · exact absurd (BitVec.eq_of_toNat_eq ‹_›) h6
    · exact absurd (BitVec.eq_of_toNat_eq ‹_›) h7
    · exact absurd (BitVec.eq_of_toNat_eq ‹_›) h8
    · rfl


theorem State.tick_mod (s : State) (f : Ctx → Ctx) (h : (f s.self).cell = s.self.cell) : (s.mod f).tick = s.tick := by
  rw [State.tick, State.tick, State.self_mod, h]
  rfl

/-- The five writable bits of a flag register (04 R77). -/
theorem zeroExtend_truncate_five (v : Word) : (v.truncate 5).zeroExtend 64 = v &&& 0x1F := by
  apply BitVec.eq_of_toNat_eq
  rw [BitVec.truncate, BitVec.zeroExtend, BitVec.toNat_setWidth, BitVec.toNat_setWidth, BitVec.toNat_and]
  show _ = v.toNat &&& (2 ^ 5 - 1)
  rw [Nat.and_two_pow_sub_one_eq_mod]
  omega

theorem zeroExtend_truncate_two (v : Word) : (v.truncate 2).zeroExtend 64 = v &&& 3 := by
  apply BitVec.eq_of_toNat_eq
  rw [BitVec.truncate, BitVec.zeroExtend, BitVec.toNat_setWidth, BitVec.toNat_setWidth, BitVec.toNat_and]
  show _ = v.toNat &&& (2 ^ 2 - 1)
  rw [Nat.and_two_pow_sub_one_eq_mod]
  omega

theorem Ctx.writeCsr_cell (c : Ctx) (n : BitVec 12) (v : Word) : (c.writeCsr n v).cell = c.cell := by
  rcases writableCsr_cases n with (rfl | rfl | rfl | rfl | rfl | rfl | rfl | rfl) | ⟨-, h⟩
  case inr => rw [h]
  all_goals rfl

/-- A written CSR holds its writable fields' new values (04 R77, R79). -/
theorem State.csr_writeCsr_self (s : State) (n : BitVec 12) (v : Word) :
    (s.mod fun c => c.writeCsr n v).csr n = csrAfter n (s.csr n) v := by
  rcases writableCsr_cases n with (rfl | rfl | rfl | rfl | rfl | rfl | rfl | rfl) | ⟨h1, h2⟩
  case inr =>
    rw [h1]
    exact State.csr_mod_id (h2 _ v) n
  all_goals
    unfold State.csr
    rw [State.self_mod]
  · exact zeroExtend_truncate_five v
  · exact zeroExtend_truncate_five v
  · rfl
  · show (TrapRegs.write _ 1 v).pl.zeroExtend 64 = if v &&& 3 = 3 then _ else v &&& 3
    simp only [TrapRegs.write]
    split
    · rfl
    · exact zeroExtend_truncate_two v
  · rfl
  · rfl
  · show (TrapRegs.write _ 1 v).pl.zeroExtend 64 = if v &&& 3 = 3 then _ else v &&& 3
    simp only [TrapRegs.write]
    split
    · rfl
    · exact zeroExtend_truncate_two v
  · rfl

/-- A write of a saved privilege level changes that field alone, or nothing (17 R327). -/
theorem TrapRegs.write_level (r : TrapRegs) (v : Word) : ∃ q, r.write 1 v = { r with pl := q } := by
  simp only [TrapRegs.write]
  split
  · exact ⟨_, rfl⟩
  · exact ⟨_, rfl⟩

/-- No other CSR changes (04 R79). -/
theorem State.csr_writeCsr_ne (s : State) {n m : BitVec 12} (v : Word) (hm : m ≠ n) :
    (s.mod fun c => c.writeCsr n v).csr m = s.csr m := by
  have hn := fun e => hm (BitVec.eq_of_toNat_eq e)
  rcases writableCsr_cases n with (rfl | rfl | rfl | rfl | rfl | rfl | rfl | rfl) | ⟨h1, h2⟩
  case inr => exact State.csr_mod_id (h2 _ v) m
  all_goals
    unfold State.csr
    rw [State.self_mod, State.now_mod s _ (Ctx.writeCsr_cell _ _ _), State.tick_mod s _ (Ctx.writeCsr_cell _ _ _)]
  · split
    case h_2 e => exact absurd e hn
    all_goals rfl
  · split
    case h_3 e => exact absurd e hn
    all_goals rfl
  · split
    case h_14 e => exact absurd e hn
    all_goals rfl
  · obtain ⟨q, hq⟩ := s.self.t1.write_level v
    rw [show s.self.writeCsr _ v = { s.self with t1 := { s.self.t1 with pl := q } } from congrArg (fun r => { s.self with t1 := r }) hq]
    split
    case h_15 e => exact absurd e hn
    all_goals rfl
  · split
    case h_19 e => exact absurd e hn
    all_goals rfl
  · split
    case h_20 e => exact absurd e hn
    all_goals rfl
  · obtain ⟨q, hq⟩ := s.self.t2.write_level v
    rw [show s.self.writeCsr _ v = { s.self with t2 := { s.self.t2 with pl := q } } from congrArg (fun r => { s.self with t2 := r }) hq]
    split
    case h_21 e => exact absurd e hn
    all_goals rfl
  · split
    case h_25 e => exact absurd e hn
    all_goals rfl

/-! ## The four operations (04 R78, R79) -/

/-- The state in which the CSR of an operation has its new value. -/
def State.csrSet (s : State) (n : BitVec 12) : Option Word → State
  | some v => s.mod fun c => c.writeCsr n v
  | none => s

/-- A read of `gvt` is an acquire (11 R231). -/
def State.acquireBy (s : State) (n : BitVec 12) : State := if n.toNat = 0x031 then s.acquire s.cur else s

/-- The value of the CSR of an operation when it is over. -/
def csrFinal (n : BitVec 12) (old : Word) : Option Word → Word
  | some v => csrAfter n old v
  | none => old

theorem State.csrOp_priv {d : BitVec 5} {n : BitVec 12} {f : Word → Option Word} (h : s.self.pl.toNat < n.toNat / 256 % 4) :
    s.csrOp d n f = .next (s.trap cPRIV 0) := by
  unfold State.csrOp
  rw [decide_eq_false (Nat.not_le.2 h), State.require_false]
  rfl

theorem State.csrOp_done {d : BitVec 5} {n : BitVec 12} {f : Word → Option Word} (h : n.toNat / 256 % 4 ≤ s.self.pl.toNat)
    (hf : n = 0x001 → s.flagsOwed s.cur = false) :
    s.csrOp d n f = .next ((((s.csrSet n (f (s.csr n))).acquireBy n).wx d (s.csr n)).finish) := by
  have free : ¬ (n.toNat = 1 ∧ s.flagsOwed s.cur = true) := fun ⟨e, owed⟩ => by
    rw [hf (BitVec.eq_of_toNat_eq e)] at owed
    cases owed
  unfold State.csrOp
  rw [decide_eq_true h, State.require_true]
  simp only [if_neg free]
  cases f (s.csr n) <;> rfl

/-- What an operation has done before xd receives the old value: of the module, the acting context's CSR `n` alone has changed, and
the mark of its last acquire. -/
structure CsrChanged (s u : State) (n : BitVec 12) (final : Word) : Prop where
  rest   : u = { s with ctxs := u.ctxs, stamp := u.stamp }
  others : ∀ x, x ≠ s.cur → tfind u.ctxs x = tfind s.ctxs x
  self   : u.self = { s.self with
    fflags := u.self.fflags, mfl := u.self.mfl, t1 := u.self.t1, t2 := u.self.t2, acqMark := u.self.acqMark }
  csrs   : ∀ m, u.csr m = if m = n then final else s.csr m

/-- A write of a CSR touches the fields of the CSRs alone. -/
theorem Ctx.writeCsr_keeps (c : Ctx) (n : BitVec 12) (v : Word) : c.writeCsr n v =
    { c with fflags := (c.writeCsr n v).fflags, mfl := (c.writeCsr n v).mfl, t1 := (c.writeCsr n v).t1, t2 := (c.writeCsr n v).t2
             acqMark := (c.writeCsr n v).acqMark } := by
  rcases writableCsr_cases n with (rfl | rfl | rfl | rfl | rfl | rfl | rfl | rfl) | ⟨-, h⟩
  case inr => rw [h]
  all_goals rfl

theorem State.csrChanged_csrSet (s : State) (n : BitVec 12) (new : Option Word) :
    CsrChanged s (s.csrSet n new) n (csrFinal n (s.csr n) new) := by
  cases new with
  | none =>
    refine ⟨rfl, fun _ _ => rfl, rfl, fun m => ?_⟩
    show s.csr m = if m = n then s.csr n else s.csr m
    split
    · subst_vars; rfl
    · rfl
  | some v =>
    refine ⟨rfl, fun x hx => tfind_tset_ne _ _ hx, ?_, fun m => ?_⟩
    · rw [State.csrSet, State.self_mod]
      exact s.self.writeCsr_keeps n v
    · show State.csr (s.mod _) m = if m = n then csrAfter n (s.csr n) v else s.csr m
      split
      · subst_vars; exact s.csr_writeCsr_self _ v
      · exact s.csr_writeCsr_ne v ‹_›

theorem CsrChanged.acquireBy {u : State} {n : BitVec 12} {final : Word} (h : CsrChanged s u n final) :
    CsrChanged s (u.acquireBy n) n final := by
  unfold State.acquireBy
  split
  · have cur : u.cur = s.cur := by rw [h.rest]
    have self := State.self_acquire (s := u)
    refine ⟨?_, fun x hx => ?_, ?_, fun m => ?_⟩
    · rw [State.acquire, h.rest]; rfl
    · rw [← h.others x hx]
      exact tfind_tset_ne _ _ (cur ▸ hx)
    · rw [self, h.self]
    · rw [← h.csrs m]
      exact State.csr_congr (s := u) (t := u.acquire u.cur) (by rw [self]) rfl m
  · exact h

/-- xd receives the old value, and the operation is over. -/
theorem CsrChanged.done {u : State} {n : BitVec 12} {final : Word} (h : CsrChanged s u n final) (d : BitVec 5) :
    CsrDone s (u.wx d (s.csr n)).finish d n final := by
  obtain ⟨⟨slot, slots⟩, keeps, xs⟩ := u.wroteX_result d (s.csr n)
  generalize (u.wx d (s.csr n)).finish = t at slot slots keeps xs
  have cur : u.cur = s.cur := by rw [h.rest]
  have dies : u.dies = s.dies := by rw [h.rest]
  have now : u.now = s.now := by rw [State.now, State.now, State.cyc, State.cyc, State.die_congr dies, h.self]
  have csrs : ∀ m, t.csr m = u.csr m := State.csr_congr (by rw [keeps, Ctx.doneAt_eq]; rfl) (by rw [slot])
  refine ⟨fun r => ?_, ?_, fun m hm => ?_, ?_, fun x hx => ?_, ?_⟩
  · rw [xs, show u.rx r = s.rx r from (congrArg (fun c => c.x? r.toNat) h.self)]
  · rw [csrs, h.csrs, if_pos rfl]
  · rw [csrs, h.csrs, if_neg hm]
  · rw [slot, h.rest]
  · rw [slots x (cur ▸ hx), h.others x hx]
  · rw [keeps, Ctx.doneAt_eq, Ctx.doneAt_eq, now, h.self]
    rfl

theorem State.csrOp_csrDone {d : BitVec 5} {n : BitVec 12} {f : Word → Option Word} (h : n.toNat / 256 % 4 ≤ s.self.pl.toNat)
    (hf : n = 0x001 → s.flagsOwed s.cur = false) :
    ∃ t, s.csrOp d n f = .next t ∧ CsrDone s t d n (csrFinal n (s.csr n) (f (s.csr n))) :=
  ⟨_, State.csrOp_done h hf, (s.csrChanged_csrSet n _).acquireBy.done d⟩

end

/-- Settles O5: the four operations are one course, whose new value is the operation's, and whose fault is the level's. -/
theorem csrOperations : Obligations.CsrOperations := by
  refine ⟨fun d a n s hl hf => ⟨?_, ?_, ?_, ?_⟩, fun d a n s hl hh => ?_⟩
  · exact State.csrOp_csrDone (f := fun _ => none) hl hf
  · exact State.csrOp_csrDone (f := fun _ => some (s.rx a)) hl hf
  · exact State.csrOp_csrDone (f := fun old => some (old ||| s.rx a)) hl hf
  · exact State.csrOp_csrDone (f := fun old => some (old &&& ~~~(s.rx a))) hl hf
  · have priv : ∀ {i} f, exec i s = s.csrOp d n f → Traps i s 0x02 0 := fun f e =>
      traps_of_trap (e.trans (State.csrOp_priv hl)) hh (by decide) (by decide)
    exact ⟨priv (fun _ => none) rfl, priv (fun _ => some (s.rx a)) rfl, priv (fun old => some (old ||| s.rx a)) rfl,
      priv (fun old => some (old &&& ~~~(s.rx a))) rfl⟩

end Sys2Proof.Machine
end

section
/-! PROOFS. Floating-point formats as numbers of their smallest unit, and the one rounding (02 R28, R30). -/

set_option Elab.async false

namespace Sys2Proof.Machine

/-! ## The values of a format, in units of its smallest one -/

/-- The smallest normal mantissa: the weight of the exponent field in a bit pattern. -/
def Fmt.lead (f : Fmt) : Nat := 2 ^ (f.p - 1)

section
variable {f : Fmt}

theorem Fmt.lead_even (f : Fmt) : ∃ h, f.lead = 2 * h ∧ f.lead = 2 ^ (f.p - 1) ∧ h = 2 ^ (f.p - 2) := by
  cases f
  · exact ⟨2 ^ 22, rfl, rfl, rfl⟩
  · exact ⟨2 ^ 6, rfl, rfl, rfl⟩

theorem Fmt.lead_pos (f : Fmt) : 0 < f.lead := Nat.two_pow_pos _

theorem Fmt.two_pow_p (f : Fmt) : 2 ^ f.p = 2 * f.lead := by cases f <;> rfl

theorem Fmt.signBit_eq (f : Fmt) : f.signBit = 256 * f.lead := by cases f <;> rfl

theorem Fmt.inf_eq (f : Fmt) : f.inf = 255 * f.lead := rfl

/-- The magnitude of a bit pattern without its sign, in units of the smallest subnormal value; infinity counts as the power of two
that would follow. -/
def Fmt.units (f : Fmt) (k : Nat) : Nat :=
  if k / f.lead = 0 then k % f.lead else (k % f.lead + f.lead) * 2 ^ (k / f.lead - 1)

/-- A mantissa `t` at the weight `2 ^ j`, packed; one that has grown to the next power of two is packed as that. -/
theorem Fmt.units_pack {j t : Nat} (ht : t ≤ 2 * f.lead) (h : j = 0 ∨ f.lead ≤ t) : f.units (j * f.lead + t) = t * 2 ^ j := by
  have hL := f.lead_pos
  unfold Fmt.units
  rcases Nat.lt_or_ge t f.lead with small | big
  · obtain rfl : j = 0 := h.resolve_right (Nat.not_le.2 small)
    rw [Nat.zero_mul, Nat.zero_add, Nat.div_eq_of_lt small, if_pos rfl, Nat.mod_eq_of_lt small, Nat.pow_zero, Nat.mul_one]
  · rcases Nat.lt_or_ge t (2 * f.lead) with normal | carry
    · obtain ⟨r, rfl⟩ := Nat.exists_eq_add_of_le big
      have hr : r < f.lead := by omega
      have e : j * f.lead + (f.lead + r) = r + f.lead * (j + 1) := by ring
      rw [e, Nat.add_mul_div_left _ _ hL, Nat.div_eq_of_lt hr, Nat.add_mul_mod_self_left, Nat.mod_eq_of_lt hr, Nat.zero_add,
        if_neg (Nat.succ_ne_zero j), Nat.add_sub_cancel, Nat.add_comm r]
    · obtain rfl : t = 2 * f.lead := by omega
      have e : j * f.lead + 2 * f.lead = 0 + f.lead * (j + 2) := by ring
      rw [e, Nat.add_mul_div_left _ _ hL, Nat.zero_div, Nat.add_mul_mod_self_left, Nat.zero_mod, Nat.zero_add,
        if_neg (Nat.succ_ne_zero _), Nat.zero_add, Nat.add_sub_assoc (by decide)]
      ring

/-- Every bit pattern is a mantissa at a weight. -/
theorem Fmt.exists_pack (f : Fmt) (k : Nat) : ∃ j t, k = j * f.lead + t ∧ t < 2 * f.lead ∧ (j = 0 ∨ f.lead ≤ t) := by
  have hr := Nat.mod_lt k f.lead_pos
  have hk := Nat.div_add_mod k f.lead
  rcases hq : k / f.lead with _ | j
  · rw [hq, Nat.mul_zero, Nat.zero_add] at hk
    exact ⟨0, k, by omega, by omega, .inl rfl⟩
  · rw [hq] at hk
    refine ⟨j, f.lead + k % f.lead, ?_, by omega, .inr (Nat.le_add_right _ _)⟩
    rw [← hk]
    simp only [Nat.mul_add_mod_self_left, Nat.mod_mod]
    ring

theorem Fmt.units_lt {k l : Nat} (h : k < l) : f.units k < f.units l := by
  obtain ⟨i, s, rfl, hs, hi⟩ := f.exists_pack k
  obtain ⟨j, t, rfl, ht, hj⟩ := f.exists_pack l
  rw [Fmt.units_pack hs.le hi, Fmt.units_pack ht.le hj]
  rcases Nat.lt_trichotomy i j with lt | rfl | gt
  · have top : f.lead ≤ t := hj.resolve_left (by omega)
    obtain ⟨d, rfl⟩ : ∃ d, j = i + 1 + d := ⟨j - (i + 1), by omega⟩
    calc s * 2 ^ i < 2 * f.lead * 2 ^ i := Nat.mul_lt_mul_of_pos_right hs (Nat.two_pow_pos i)
      _ = f.lead * 2 ^ (i + 1) := by ring
      _ ≤ t * 2 ^ (i + 1 + d) := Nat.mul_le_mul top (Nat.pow_le_pow_right (by decide) (Nat.le_add_right _ _))
  · exact Nat.mul_lt_mul_of_pos_right (by omega) (Nat.two_pow_pos i)
  · have top : f.lead ≤ s := hi.resolve_left (by omega)
    obtain ⟨d, rfl⟩ : ∃ d, i = j + 1 + d := ⟨i - (j + 1), by omega⟩
    exfalso
    have : (j + 1 + d) * f.lead = j * f.lead + f.lead + d * f.lead := by ring
    omega

theorem Fmt.units_le {k l : Nat} (h : k ≤ l) : f.units k ≤ f.units l := by
  rcases h.lt_or_eq with h | rfl
  · exact (Fmt.units_lt h).le
  · exact Nat.le_refl _

theorem Fmt.units_inj {k l : Nat} (h : f.units k = f.units l) : k = l := by
  rcases Nat.lt_trichotomy k l with lt | rfl | gt
  · exact absurd h (Fmt.units_lt lt).ne
  · rfl
  · exact absurd h (Fmt.units_lt gt).ne'

/-- What is not a mantissa at the weight `2 ^ j` or above is below the smallest normal mantissa there. -/
theorem Fmt.units_cases (f : Fmt) (j k : Nat) : (∃ n, f.units k = n * 2 ^ j) ∨ (j ≠ 0 ∧ f.units k < f.lead * 2 ^ j) := by
  obtain ⟨i, s, rfl, hs, hi⟩ := f.exists_pack k
  rw [Fmt.units_pack hs.le hi]
  rcases Nat.lt_or_ge i j with lt | ge
  · obtain ⟨d, rfl⟩ : ∃ d, j = i + 1 + d := ⟨j - (i + 1), by omega⟩
    refine .inr ⟨by omega, ?_⟩
    calc s * 2 ^ i < 2 * f.lead * 2 ^ i := Nat.mul_lt_mul_of_pos_right hs (Nat.two_pow_pos i)
      _ = f.lead * 2 ^ (i + 1) := by ring
      _ ≤ f.lead * 2 ^ (i + 1 + d) := Nat.mul_le_mul_left _ (Nat.pow_le_pow_right (by decide) (Nat.le_add_right _ _))
  · obtain ⟨d, rfl⟩ : ∃ d, i = j + d := ⟨i - j, by omega⟩
    exact .inl ⟨s * 2 ^ d, by ring⟩

end

/-! ## Dropping low bits (02 R28) -/

/-- `r` is the split of the number `T`: its whole part, how the rest compares with one half, and whether there is a rest. -/
structure Splits (T : ℝ) (r : Nat × Ordering × Bool) : Prop where
  floor : (r.1 : ℝ) ≤ T
  ceil  : T < r.1 + 1
  lt    : r.2.1 = .lt ↔ T < r.1 + 1 / 2
  eq    : r.2.1 = .eq ↔ T = r.1 + 1 / 2
  exact : r.2.2 = false ↔ T = r.1

theorem Splits.of_nat {T : ℝ} {n : Nat} (h : T = n) : Splits T (n, .lt, false) := by
  subst h
  refine ⟨le_refl _, by norm_num, ?_, ?_, ?_⟩
  · exact iff_of_true rfl (by norm_num)
  · exact iff_of_false Ordering.noConfusion (by norm_num)
  · exact iff_of_true rfl rfl

/-- `y` is the number that a mantissa and its sticky bit stand for. -/
structure Stands (m : Nat) (sticky : Bool) (y : ℝ) : Prop where
  floor : (m : ℝ) ≤ y
  ceil  : y < m + 1
  exact : sticky = false ↔ y = m

theorem splits_shift {m : Nat} {sticky : Bool} {y : ℝ} (h : Stands m sticky y) (s : Nat) :
    Splits (y / 2 ^ (Int.ofNat (s + 1))) (m / 2 ^ (s + 1),
      if m % 2 ^ (s + 1) < 2 ^ s then .lt else if 2 ^ s < m % 2 ^ (s + 1) then .gt else if sticky then .gt else .eq,
      decide (m % 2 ^ (s + 1) ≠ 0) || sticky) := by
  have hH := Nat.two_pow_pos s
  have parts := Nat.div_add_mod m (2 ^ (s + 1))
  have rest := Nat.mod_lt m (Nat.two_pow_pos (s + 1))
  have unit : (2 : ℝ) ^ Int.ofNat (s + 1) = 2 * ((2 ^ s : Nat) : ℝ) := by
    show (2 : ℝ) ^ ((s + 1 : Nat) : Int) = _
    rw [zpow_natCast]; push_cast; ring
  rw [unit]
  rw [Nat.pow_succ] at *
  generalize 2 ^ s = H at *
  generalize m / (H * 2) = q at *
  generalize m % (H * 2) = r at *
  obtain ⟨floor, ceil, exact⟩ := h
  have hm : (m : ℝ) = q * (2 * H) + r := by exact_mod_cast (by rw [← parts]; ring : m = q * (2 * H) + r)
  have hpos : (0 : ℝ) < 2 * H := by exact_mod_cast (by omega : 0 < 2 * H)
  have cast_lt {a b : Nat} (h : a < b) : (a : ℝ) + 1 ≤ b := by exact_mod_cast h
  have less (c : ℝ) : y / (2 * H) < q + c ↔ y < q * (2 * H) + c * (2 * H) := by rw [div_lt_iff₀ hpos, add_mul]
  have same (c : ℝ) : y / (2 * H) = q + c ↔ y = q * (2 * H) + c * (2 * H) := by rw [div_eq_iff hpos.ne', add_mul]
  have r0 : (0 : ℝ) ≤ r := Nat.cast_nonneg r
  have hr := cast_lt rest
  push_cast at hr
  refine ⟨?_, ?_, ?_, ?_, ?_⟩
  · rw [le_div_iff₀ hpos]; linarith
  · rw [less]; linarith
  · rw [less]
    rcases Nat.lt_trichotomy r H with lt | rfl | gt
    · have := cast_lt lt
      rw [if_pos lt]
      exact iff_of_true rfl (by linarith)
    · rw [if_neg (lt_irrefl r), if_neg (lt_irrefl r)]
      refine iff_of_false ?_ (by linarith)
      split
      · exact Ordering.noConfusion
      · exact Ordering.noConfusion
    · have := cast_lt gt
      rw [if_neg gt.not_gt, if_pos gt]
      exact iff_of_false Ordering.noConfusion (by linarith)
  · rw [same]
    rcases Nat.lt_trichotomy r H with lt | rfl | gt
    · have := cast_lt lt
      rw [if_pos lt]
      exact iff_of_false Ordering.noConfusion (by linarith)
    · rw [if_neg (lt_irrefl r), if_neg (lt_irrefl r)]
      cases sticky
      · exact iff_of_true rfl (by linarith [exact.1 rfl])
      · refine iff_of_false Ordering.noConfusion fun e => ?_
        exact Bool.noConfusion (exact.2 (by linarith))
    · have := cast_lt gt
      rw [if_neg gt.not_gt, if_pos gt]
      exact iff_of_false Ordering.noConfusion (by linarith)
  · rw [div_eq_iff hpos.ne', Bool.or_eq_false_iff, decide_eq_false_iff_not, not_not]
    constructor
    · rintro ⟨rfl, whole⟩
      rw [exact.1 whole, hm]; simp
    · intro e
      have zero : (r : ℝ) = 0 := by linarith
      exact ⟨by exact_mod_cast zero, exact.2 (by linarith)⟩

theorem splits_splitAt {m : Nat} {k : Int} {sticky : Bool} {y : ℝ} (h : Stands m sticky y) (hk : k ≤ 0 → sticky = false) :
    Splits (y / 2 ^ k) (splitAt m k sticky) := by
  unfold splitAt
  split
  · next s =>
    split
    · next hs =>
      subst hs
      have whole := hk (le_refl _)
      subst whole
      exact Splits.of_nat (by rw [h.exact.1 rfl]; simp)
    · next hs =>
      obtain ⟨s, rfl⟩ : ∃ n, s = n + 1 := ⟨s - 1, by omega⟩
      exact splits_shift h s
  · next s =>
    have whole := hk (by omega)
    subst whole
    refine Splits.of_nat ?_
    rw [h.exact.1 rfl, zpow_negSucc]
    push_cast
    rw [div_inv_eq_mul]

/-! ## The rounded mantissa (02 R28) -/

/-- The mantissa that a split rounds to: to the nearest, to the even one in a tie, or towards zero. -/
def roundSplit (rtz : Bool) (r : Nat × Ordering × Bool) : Nat :=
  if (!rtz && (r.2.1 == .gt || (r.2.1 == .eq && r.1 % 2 = 1))) = true then r.1 + 1 else r.1

section
variable {T : ℝ} {r : Nat × Ordering × Bool}

theorem roundSplit_rtz (r : Nat × Ordering × Bool) : roundSplit true r = r.1 := rfl

theorem Splits.rne_cases (h : Splits T r) :
    (roundSplit false r = r.1 ∧ T < r.1 + 1 / 2) ∨ (roundSplit false r = r.1 + 1 ∧ r.1 + 1 / 2 < T) ∨
      (T = r.1 + 1 / 2 ∧ roundSplit false r % 2 = 0 ∧ (roundSplit false r = r.1 ∨ roundSplit false r = r.1 + 1)) := by
  obtain ⟨t, half, rest⟩ := r
  obtain ⟨-, -, lt, eq, -⟩ := h
  cases half with
  | lt => exact .inl ⟨rfl, lt.1 rfl⟩
  | gt =>
    have above : ¬ T < (t : ℝ) + 1 / 2 := fun e => Ordering.noConfusion (lt.2 e)
    have apart : T ≠ (t : ℝ) + 1 / 2 := fun e => Ordering.noConfusion (eq.2 e)
    exact .inr (.inl ⟨rfl, lt_of_le_of_ne (not_lt.1 above) apart.symm⟩)
  | eq =>
    refine .inr (.inr ⟨eq.1 rfl, ?_⟩)
    unfold roundSplit
    rcases Nat.mod_two_eq_zero_or_one t with even | odd
    · simp [even]
    · simp [odd]; omega

theorem Splits.rne_cases' (h : Splits T r) : roundSplit false r = r.1 ∨ roundSplit false r = r.1 + 1 := by
  rcases h.rne_cases with ⟨e, -⟩ | ⟨e, -⟩ | ⟨-, -, e⟩
  · exact .inl e
  · exact .inr e
  · exact e

theorem Splits.round_le (h : Splits T r) (rtz : Bool) : r.1 ≤ roundSplit rtz r ∧ roundSplit rtz r ≤ r.1 + 1 := by
  cases rtz
  · rcases h.rne_cases' with e | e <;> omega
  · exact ⟨Nat.le_refl _, Nat.le_succ _⟩

/-- Nothing is lost exactly where the rounded mantissa is the number itself. -/
theorem Splits.exact_iff (h : Splits T r) (rtz : Bool) : r.2.2 = false ↔ (roundSplit rtz r : ℝ) = T := by
  rw [h.exact]
  have floor := h.floor
  have ceil := h.ceil
  cases rtz
  · rcases h.rne_cases with ⟨e, lt⟩ | ⟨e, gt⟩ | ⟨tie, -, e | e⟩
    · rw [e]; exact eq_comm
    · rw [e]; push_cast
      exact iff_of_false (by linarith) (by linarith)
    · rw [e]; exact eq_comm
    · rw [e]; push_cast
      exact iff_of_false (by linarith) (by linarith)
  · exact eq_comm

/-- No whole number is nearer, and another one as near leaves an even mantissa. -/
theorem Splits.nearest (h : Splits T r) (n : Nat) : |(roundSplit false r : ℝ) - T| ≤ |(n : ℝ) - T| ∧
    (n ≠ roundSplit false r → |(roundSplit false r : ℝ) - T| = |(n : ℝ) - T| → roundSplit false r % 2 = 0) := by
  have floor := h.floor
  have ceil := h.ceil
  -- a whole number lies at or below the whole part, or above it
  have sides : ((n : ℝ) ≤ r.1 ∧ |(n : ℝ) - T| = T - n) ∨ ((r.1 : ℝ) + 1 ≤ n ∧ |(n : ℝ) - T| = n - T) := by
    rcases Nat.lt_or_ge r.1 n with up | down
    · have : (r.1 : ℝ) + 1 ≤ n := by exact_mod_cast up
      exact .inr ⟨this, abs_of_nonneg (by linarith)⟩
    · have : (n : ℝ) ≤ r.1 := by exact_mod_cast down
      exact .inl ⟨this, by rw [abs_of_nonpos (by linarith)]; ring⟩
  rcases h.rne_cases with ⟨e, lt⟩ | ⟨e, gt⟩ | ⟨tie, even, e | e⟩
  · have dist : |(roundSplit false r : ℝ) - T| = T - r.1 := by rw [e, abs_of_nonpos (by linarith)]; ring
    rw [dist]
    rcases sides with ⟨le, d⟩ | ⟨ge, d⟩
    · rw [d]
      refine ⟨by linarith, fun ne same => absurd ?_ ne⟩
      have : (n : ℝ) = r.1 := by linarith
      rw [e]; exact_mod_cast this
    · rw [d]
      exact ⟨by linarith, fun _ same => absurd same (by linarith)⟩
  · have dist : |(roundSplit false r : ℝ) - T| = r.1 + 1 - T := by rw [e, abs_of_nonneg (by push_cast; linarith)]; push_cast; ring
    rw [dist]
    rcases sides with ⟨le, d⟩ | ⟨ge, d⟩
    · rw [d]
      exact ⟨by linarith, fun _ same => absurd same (by linarith)⟩
    · rw [d]
      refine ⟨by linarith, fun ne same => absurd ?_ ne⟩
      have : (n : ℝ) = r.1 + 1 := by linarith
      rw [e]; exact_mod_cast this
  all_goals
    have dist : |(roundSplit false r : ℝ) - T| = 1 / 2 := by
      rw [e, tie]; push_cast; rw [abs_eq (by norm_num)]; ring_nf; simp
    refine ⟨?_, fun _ _ => even⟩
    rw [dist]
    rcases sides with ⟨le, d⟩ | ⟨ge, d⟩
    · rw [d]; linarith
    · rw [d]; linarith

end

/-! ## Packing the rounded mantissa (02 R28, R30) -/

section
variable {f : Fmt} {T : ℝ} {r : Nat × Ordering × Bool} {j : Nat}

/-- The magnitude that a split at the weight `2 ^ j` is rounded to. -/
def Fmt.packed (f : Fmt) (rtz : Bool) (j : Nat) (r : Nat × Ordering × Bool) : Nat := j * f.lead + roundSplit rtz r

/-- A split of a number with a mantissa of the format's width, or a shorter one at the lowest weight. -/
structure Fits (f : Fmt) (j : Nat) (T : ℝ) (r : Nat × Ordering × Bool) : Prop extends Splits T r where
  width : r.1 < 2 * f.lead
  lead  : j = 0 ∨ f.lead ≤ r.1

theorem Fits.units (h : Fits f j T r) (rtz : Bool) : f.units (f.packed rtz j r) = roundSplit rtz r * 2 ^ j := by
  obtain ⟨low, high⟩ := h.round_le rtz
  have width := h.width
  exact Fmt.units_pack (by omega) (h.lead.imp_right fun e => e.trans low)

theorem Fits.exact_units (h : Fits f j T r) (rtz : Bool) : r.2.2 = false ↔ (f.units (f.packed rtz j r) : ℝ) = T * 2 ^ j := by
  rw [h.exact_iff rtz, h.units rtz]
  push_cast
  exact (mul_left_inj' (by positivity)).symm

/-- Rounding to nearest delivers the nearest of all values, and an even pattern in a tie. -/
theorem Fits.nearest_units (h : Fits f j T r) (k : Nat) :
    |(f.units (f.packed false j r) : ℝ) - T * 2 ^ j| ≤ |(f.units k : ℝ) - T * 2 ^ j| ∧
      (k ≠ f.packed false j r → |(f.units (f.packed false j r) : ℝ) - T * 2 ^ j| = |(f.units k : ℝ) - T * 2 ^ j| →
        f.packed false j r % 2 = 0) := by
  have hpow : (0 : ℝ) < 2 ^ j := by positivity
  have scaled (n : Nat) : |((n * 2 ^ j : Nat) : ℝ) - T * 2 ^ j| = |(n : ℝ) - T| * 2 ^ j := by
    push_cast
    rw [← sub_mul, abs_mul, abs_of_pos hpow]
  rw [h.units, scaled]
  rcases f.units_cases j k with ⟨n, hn⟩ | ⟨hj, below⟩
  · obtain ⟨near, tie⟩ := h.nearest n
    rw [hn, scaled]
    refine ⟨mul_le_mul_of_nonneg_right near hpow.le, fun ne same => ?_⟩
    have apart : n ≠ roundSplit false r := fun e => ne (Fmt.units_inj (by rw [hn, h.units, e]))
    have even := tie apart (mul_right_cancel₀ hpow.ne' same)
    obtain ⟨half, two, -⟩ := f.lead_even
    have twice : j * (2 * half) = 2 * (j * half) := by ring
    rw [Fmt.packed, two, twice, Nat.mul_add_mod, even]
  · have leads : (f.lead : ℝ) ≤ r.1 := by exact_mod_cast h.lead.resolve_left hj
    have floor := h.floor
    have low : (f.units k : ℝ) < f.lead * 2 ^ j := by exact_mod_cast below
    have high : (f.lead : ℝ) * 2 ^ j ≤ T * 2 ^ j := mul_le_mul_of_nonneg_right (by linarith) hpow.le
    have near := mul_le_mul_of_nonneg_right (h.nearest f.lead).1 hpow.le
    have lead : |(f.lead : ℝ) - T| * 2 ^ j = T * 2 ^ j - f.lead * 2 ^ j := by
      rw [abs_of_nonpos (by linarith)]; ring
    rw [abs_of_nonpos (by linarith : (f.units k : ℝ) - T * 2 ^ j ≤ 0)]
    exact ⟨by linarith, fun _ same => absurd same (by linarith)⟩

/-- Rounding towards zero delivers the largest value not above the number. -/
theorem Fits.largest_units (h : Fits f j T r) : (f.units (f.packed true j r) : ℝ) ≤ T * 2 ^ j ∧
    ∀ k, (f.units k : ℝ) ≤ T * 2 ^ j → f.units k ≤ f.units (f.packed true j r) := by
  have hpow : (0 : ℝ) < 2 ^ j := by positivity
  rw [h.units, roundSplit_rtz]
  refine ⟨by push_cast; exact mul_le_mul_of_nonneg_right h.floor hpow.le, fun k hk => ?_⟩
  rcases f.units_cases j k with ⟨n, hn⟩ | ⟨hj, below⟩
  · rw [hn] at hk ⊢
    push_cast at hk
    have : (n : ℝ) < r.1 + 1 := lt_of_le_of_lt (le_of_mul_le_mul_right hk hpow) h.ceil
    exact Nat.mul_le_mul_right _ (Nat.lt_succ_iff.1 (by exact_mod_cast this))
  · exact below.le.trans (Nat.mul_le_mul_right _ (h.lead.resolve_left hj))

/-- The least number that rounds beyond the format's values, in its units (02 R28). -/
noncomputable def Fmt.topUnits (f : Fmt) (rtz : Bool) : ℝ := if rtz then f.lead * 2 ^ 254 else f.lead * 2 ^ 254 - 2 ^ 252

/-- The magnitude leaves the format exactly where the number is that large. -/
theorem Fits.overflow_iff (h : Fits f j T r) (rtz : Bool) : f.inf ≤ f.packed rtz j r ↔ f.topUnits rtz ≤ T * 2 ^ j := by
  have hL := f.lead_pos
  obtain ⟨low, high⟩ := h.round_le rtz
  have width := h.width
  have floor := h.floor
  have ceil := h.ceil
  have hL1 : (1 : ℝ) ≤ f.lead := by exact_mod_cast hL
  have hpow : (0 : ℝ) < 2 ^ j := by positivity
  have top_le : f.topUnits rtz ≤ f.lead * 2 ^ 254 := by
    cases rtz
    · exact sub_le_self _ (by positivity)
    · exact le_refl _
  have le_top : f.lead * 2 ^ 254 - 2 ^ 252 ≤ f.topUnits rtz := by
    cases rtz
    · exact le_refl _
    · exact sub_le_self _ (by positivity)
  have wide : (r.1 : ℝ) + 1 ≤ 2 * f.lead := by exact_mod_cast width
  rw [Fmt.inf_eq, Fmt.packed]
  rcases Nat.lt_trichotomy j 253 with small | rfl | large
  · -- the next power of two is still a value
    refine iff_of_false (fun leaves => ?_) (not_le.2 ?_)
    · have : j * f.lead ≤ 252 * f.lead := Nat.mul_le_mul_right _ (by omega)
      omega
    · have step : (2 : ℝ) ^ j ≤ 2 ^ 252 := pow_le_pow_right₀ (by norm_num) (by omega)
      calc T * 2 ^ j < 2 * f.lead * 2 ^ j := mul_lt_mul_of_pos_right (by linarith) hpow
        _ ≤ 2 * f.lead * 2 ^ 252 := mul_le_mul_of_nonneg_left step (by linarith)
        _ ≤ f.lead * 2 ^ 254 - 2 ^ 252 := by nlinarith [hL1, (by positivity : (0 : ℝ) < 2 ^ 252)]
        _ ≤ _ := le_top
  · have whole : 255 * f.lead ≤ 253 * f.lead + roundSplit rtz r ↔ 2 * f.lead ≤ roundSplit rtz r := by omega
    rw [whole]
    cases rtz
    · have half : f.topUnits false ≤ T * 2 ^ 253 ↔ 2 * (f.lead : ℝ) - 1 / 2 ≤ T := by
        rw [show f.topUnits false = (2 * (f.lead : ℝ) - 1 / 2) * 2 ^ 253 by unfold Fmt.topUnits; norm_num; ring]
        exact mul_le_mul_iff_of_pos_right hpow
      rw [half]
      by_cases last : r.1 + 1 = 2 * f.lead
      · -- the largest mantissa is odd: a tie goes up
        have value : (r.1 : ℝ) = 2 * f.lead - 1 := by rw [eq_sub_iff_add_eq]; exact_mod_cast last
        rcases h.rne_cases with ⟨e, lt⟩ | ⟨e, gt⟩ | ⟨tie, even, e | e⟩
        · exact iff_of_false (by omega) (by linarith)
        · exact iff_of_true (by omega) (by linarith)
        · omega
        · exact iff_of_true (by omega) (by linarith)
      · have : (r.1 : ℝ) + 2 ≤ 2 * f.lead := by exact_mod_cast (by omega : r.1 + 2 ≤ 2 * f.lead)
        exact iff_of_false (by omega) (by linarith)
    · rw [roundSplit_rtz]
      refine iff_of_false (by omega) (not_le.2 ?_)
      show T * 2 ^ 253 < f.lead * 2 ^ 254
      nlinarith [(by positivity : (0 : ℝ) < 2 ^ 253)]
  · have leads : f.lead ≤ r.1 := h.lead.resolve_left (by omega)
    have : 254 * f.lead ≤ j * f.lead := Nat.mul_le_mul_right _ (by omega)
    refine iff_of_true (by omega) (top_le.trans ?_)
    have step : (2 : ℝ) ^ 254 ≤ 2 ^ j := pow_le_pow_right₀ (by norm_num) (by omega)
    have : (f.lead : ℝ) ≤ T := le_trans (by exact_mod_cast leads) floor
    exact mul_le_mul this step (by positivity) (by linarith)

end

/-! ## The one rounding, in numbers (02 R28, R30) -/

/-- The weight of a mantissa's last bit once it is as short as the format's. -/
def Fmt.weight (f : Fmt) (m : Nat) (e : Int) : Int := max (e + (bitLen m : Int) - (f.p : Int)) (2 - 127 - (f.p : Int))

/-- That weight, counted from the lowest one. -/
def Fmt.shift (f : Fmt) (m : Nat) (e : Int) : Nat := (f.weight m e + (f.p : Int) + 125).toNat

/-- The smallest subnormal value of a format. -/
noncomputable def Fmt.unit (f : Fmt) : ℝ := (2 : ℝ) ^ (-(f.p : Int) - 125)

/-- The value of a bit pattern without its sign; 0 where it is no finite number. -/
noncomputable def Fmt.value (f : Fmt) (k : Nat) : ℝ :=
  match unpack f k with
  | .fin _ n q => (n : ℝ) * (2 : ℝ) ^ q
  | _ => 0

/-- The result `o` is the number `x` rounded in the mode, negative as `neg` says, with its flags. -/
def Rounds (f : Fmt) (rtz : Bool) (neg : Prop) (x : ℝ) (o : Nat × FFlags) : Prop :=
  let k := o.1 % f.signBit
  let top : ℝ := if rtz then (2 : ℝ) ^ (128 : Int) else (2 : ℝ) ^ (128 : Int) - (2 : ℝ) ^ (127 - (f.p : Int))
  o.1 < 2 * f.signBit ∧ (f.signBit ≤ o.1 ↔ neg) ∧
    (rtz = false → (k = f.inf ↔ top ≤ x) ∧ k ≤ f.inf ∧ (k < f.inf → ∀ j, j < f.inf →
      |f.value k - x| ≤ |f.value j - x| ∧ (j ≠ k → |f.value k - x| = |f.value j - x| → k % 2 = 0))) ∧
    (rtz = true → k < f.inf ∧ f.value k ≤ x ∧ ∀ j, j < f.inf → f.value j ≤ x → f.value j ≤ f.value k) ∧
    (top ≤ x → o.2 = flagOF ||| flagNX) ∧ (x < top → f.value k = x → o.2 = 0) ∧
    (x < top → f.value k ≠ x → o.2 = if k < 2 ^ (f.p - 1) then flagUF ||| flagNX else flagNX)

section
variable {f : Fmt} {m : Nat} {e : Int} {sticky : Bool} {y : ℝ}

theorem roundPack_eq (rtz neg : Bool) (hm : m ≠ 0) : roundPack f rtz neg m e sticky =
    (let r := splitAt m (f.weight m e - e) sticky
     let mag := f.packed rtz (f.shift m e) r
     if f.inf ≤ mag then (withSign f neg (if rtz then f.inf - 1 else f.inf), flagOF ||| flagNX)
     else (withSign f neg mag, if r.2.2 then (if mag < f.lead then flagUF ||| flagNX else flagNX) else 0)) := by
  unfold roundPack
  rw [if_neg fun h => hm h.1]
  rfl

theorem bitLen_bounds (hm : m ≠ 0) : 2 ^ (bitLen m - 1) ≤ m ∧ m < 2 ^ bitLen m ∧ 0 < bitLen m := by
  rw [bitLen, if_neg hm, Nat.add_sub_cancel]
  exact ⟨Nat.log2_self_le hm, Nat.lt_log2_self, Nat.succ_pos _⟩

theorem Fmt.unit_pos (f : Fmt) : 0 < f.unit := by unfold Fmt.unit; positivity

theorem unpack_finite {k : Nat} (hk : k < f.inf) : unpack f k =
    if k / f.lead = 0 then .fin false (k % f.lead) (-(f.p : Int) - 125)
    else .fin false (k % f.lead + f.lead) (((k / f.lead : Nat) : Int) - 126 - (f.p : Int)) := by
  have hL := f.lead_pos
  rw [Fmt.inf_eq] at hk
  have sign : f.signBit = 256 * f.lead := f.signBit_eq
  have small : k < f.signBit := by omega
  have ex : ¬ k / f.lead = 255 := fun h => by
    have := Nat.div_mul_le_self k f.lead
    rw [h] at this
    omega
  have pos : decide (f.signBit ≤ k % (2 * f.signBit)) = false := by
    rw [Nat.mod_eq_of_lt (by omega)]
    exact decide_eq_false (by omega)
  unfold unpack
  rw [Nat.mod_eq_of_lt small, pos]
  simp only [← show f.lead = 2 ^ (f.p - 1) from rfl, if_neg ex]
  rw [show (2 : Int) - 127 - f.p = -(f.p : Int) - 125 by ring]

theorem Fmt.value_eq {k : Nat} (hk : k < f.inf) : f.value k = f.units k * f.unit := by
  unfold Fmt.value Fmt.units Fmt.unit
  rw [unpack_finite hk]
  by_cases h0 : k / f.lead = 0
  · rw [if_pos h0, if_pos h0]
  · rw [if_neg h0, if_neg h0]
    obtain ⟨n, hn⟩ := Nat.exists_eq_succ_of_ne_zero h0
    rw [hn, Nat.succ_sub_one]
    show ((k % f.lead + f.lead : Nat) : ℝ) * 2 ^ (((n + 1 : Nat) : Int) - 126 - f.p) = _
    push_cast
    rw [mul_assoc, ← zpow_natCast (2 : ℝ) n, ← zpow_add₀ (by norm_num)]
    congr 2
    ring

theorem Fmt.topUnits_unit (f : Fmt) (rtz : Bool) : f.topUnits rtz * f.unit =
    if rtz then (2 : ℝ) ^ (128 : Int) else (2 : ℝ) ^ (128 : Int) - (2 : ℝ) ^ (127 - (f.p : Int)) := by
  have lead : (f.lead : ℝ) = 2 ^ ((f.p : Int) - 1) := by cases f <;> norm_num [Fmt.lead, Fmt.p]
  have two : (2 : ℝ) ≠ 0 := by norm_num
  have e1 : (f.lead : ℝ) * 2 ^ 254 * f.unit = 2 ^ (128 : Int) := by
    rw [lead, Fmt.unit, ← zpow_natCast (2 : ℝ) 254, ← zpow_add₀ two, ← zpow_add₀ two]
    congr 1; push_cast; ring
  have e2 : (2 : ℝ) ^ 252 * f.unit = 2 ^ (127 - (f.p : Int)) := by
    rw [Fmt.unit, ← zpow_natCast (2 : ℝ) 252, ← zpow_add₀ two]
    congr 1; push_cast; ring
  cases rtz
  · show (f.lead * 2 ^ 254 - 2 ^ 252) * f.unit = _
    rw [sub_mul, e1, e2]; rfl
  · exact e1

/-- The split that the rounding makes fits the format. -/
theorem fits_splitAt (h : Stands m sticky y) (hm : m ≠ 0) (wide : sticky = true → f.p < bitLen m) :
    Fits f (f.shift m e) (y / 2 ^ (f.weight m e - e)) (splitAt m (f.weight m e - e) sticky) := by
  obtain ⟨low, high, len⟩ := bitLen_bounds hm
  have weight_ge : (bitLen m : Int) - f.p ≤ f.weight m e - e := by unfold Fmt.weight; omega
  have splits : Splits (y / 2 ^ (f.weight m e - e)) (splitAt m (f.weight m e - e) sticky) := by
    refine splits_splitAt h fun hk => ?_
    by_contra hs
    have := wide (Bool.eq_true_of_not_eq_false hs)
    omega
  have two : (1 : ℝ) ≤ 2 := by norm_num
  have pos : (0 : ℝ) < 2 ^ (f.weight m e - e) := by positivity
  refine ⟨splits, ?_, ?_⟩
  · have bound : y < 2 ^ (bitLen m : Int) := lt_of_lt_of_le h.ceil (by rw [zpow_natCast]; exact_mod_cast high)
    have : y / 2 ^ (f.weight m e - e) < 2 * f.lead := by
      rw [div_lt_iff₀ pos, ← Nat.cast_two, ← Nat.cast_mul, ← f.two_pow_p, Nat.cast_pow, Nat.cast_two, ← zpow_natCast,
        ← zpow_add₀ (by norm_num)]
      exact lt_of_lt_of_le bound (zpow_le_zpow_right₀ two (by omega))
    exact_mod_cast lt_of_le_of_lt splits.floor this
  · by_cases lowest : f.shift m e = 0
    · exact .inl lowest
    · right
      have weight : f.weight m e - e = (bitLen m : Int) - f.p := by
        unfold Fmt.shift at lowest
        unfold Fmt.weight at lowest ⊢
        omega
      have bound : (2 : ℝ) ^ ((bitLen m : Int) - 1) ≤ y := by
        refine le_trans ?_ h.floor
        rw [show (bitLen m : Int) - 1 = ((bitLen m - 1 : Nat) : Int) by omega, zpow_natCast]
        exact_mod_cast low
      have lead : (f.lead : ℝ) ≤ y / 2 ^ (f.weight m e - e) := by
        rw [le_div_iff₀ pos, weight, show (f.lead : ℝ) = 2 ^ ((f.p : Int) - 1) by cases f <;> norm_num [Fmt.lead, Fmt.p],
          ← zpow_add₀ (by norm_num)]
        exact (zpow_le_zpow_right₀ two (by omega)).trans bound
      have := lt_of_le_of_lt lead splits.ceil
      exact Nat.lt_succ_iff.1 (by exact_mod_cast this)

/-- What the split counts is the number, in units. -/
theorem Fmt.shift_units (f : Fmt) (m : Nat) (e : Int) (y : ℝ) :
    y / 2 ^ (f.weight m e - e) * 2 ^ f.shift m e * f.unit = y * 2 ^ e := by
  have shift : ((f.shift m e : Nat) : Int) = f.weight m e + f.p + 125 := by
    unfold Fmt.shift Fmt.weight
    omega
  rw [div_eq_mul_inv, ← zpow_neg, Fmt.unit, ← zpow_natCast (2 : ℝ) (f.shift m e), shift, mul_assoc, mul_assoc, ← zpow_add₀ (by norm_num),
    ← zpow_add₀ (by norm_num)]
  congr 2
  ring

end

section
variable {f : Fmt} {T x : ℝ} {r : Nat × Ordering × Bool} {j : Nat}

theorem withSign_lt {f : Fmt} {k : Nat} (hk : k < f.signBit) (neg : Bool) : withSign f neg k < 2 * f.signBit ∧
    (f.signBit ≤ withSign f neg k ↔ neg = true) ∧ withSign f neg k % f.signBit = k := by
  unfold withSign
  cases neg
  · exact ⟨by simp; omega, by simp; omega, Nat.mod_eq_of_lt hk⟩
  · refine ⟨by simp; omega, by simp, ?_⟩
    rw [if_pos rfl, Nat.add_mod_right, Nat.mod_eq_of_lt hk]

/-- The magnitude leaves the format exactly where the number is beyond it. -/
theorem Fits.beyond_iff (h : Fits f j T r) (rtz : Bool) (number : T * 2 ^ j * f.unit = x) :
    f.inf ≤ f.packed rtz j r ↔ f.topUnits rtz * f.unit ≤ x := by
  rw [h.overflow_iff rtz, ← number]
  exact (mul_le_mul_iff_of_pos_right f.unit_pos).symm

/-- A number beyond the format is delivered as infinity, or as the largest value towards zero. -/
theorem Fits.rounds_beyond (h : Fits f j T r) (rtz neg : Bool) (number : T * 2 ^ j * f.unit = x) (beyond : f.inf ≤ f.packed rtz j r) :
    Rounds f rtz (neg = true) x (withSign f neg (if rtz then f.inf - 1 else f.inf), flagOF ||| flagNX) := by
  have reached := (h.beyond_iff rtz number).1 beyond
  have lead := f.lead_pos
  have inf := f.inf_eq
  have last : f.inf - 1 < f.inf := by omega
  have sign : f.inf < f.signBit := by rw [f.signBit_eq]; omega
  obtain ⟨lt, sgn, mag⟩ := withSign_lt (f := f) (k := if rtz then f.inf - 1 else f.inf) (by split <;> omega) neg
  unfold Rounds
  rw [← f.topUnits_unit rtz]
  dsimp only
  rw [mag]
  refine ⟨lt, sgn, ?_, ?_, fun _ => rfl, fun less => absurd less (not_lt.2 reached), fun less => absurd less (not_lt.2 reached)⟩
  · rintro rfl
    exact ⟨iff_of_true rfl reached, le_refl _, fun less => absurd less (lt_irrefl _)⟩
  · rintro rfl
    rw [if_pos rfl]
    refine ⟨last, ?_, fun k hk _ => ?_⟩
    · refine le_trans ?_ reached
      rw [Fmt.value_eq last]
      have below : f.units (f.inf - 1) < f.lead * 2 ^ 254 := lt_of_lt_of_eq (Fmt.units_lt last) (by
        rw [show f.inf = 254 * f.lead + f.lead by omega]
        exact Fmt.units_pack (by omega) (.inr (le_refl _)))
      exact mul_le_mul_of_nonneg_right (show (f.units (f.inf - 1) : ℝ) ≤ f.lead * 2 ^ 254 by exact_mod_cast below.le) f.unit_pos.le
    · rw [Fmt.value_eq hk, Fmt.value_eq last]
      exact mul_le_mul_of_nonneg_right (by exact_mod_cast Fmt.units_le (by omega)) f.unit_pos.le

/-- A number within the format is delivered as its rounded magnitude. -/
theorem Fits.rounds_within (h : Fits f j T r) (rtz neg : Bool) (number : T * 2 ^ j * f.unit = x) (short : f.packed rtz j r < f.inf) :
    Rounds f rtz (neg = true) x (withSign f neg (f.packed rtz j r),
      if r.2.2 then (if f.packed rtz j r < f.lead then flagUF ||| flagNX else flagNX) else 0) := by
  have below : ¬ f.topUnits rtz * f.unit ≤ x := mt (h.beyond_iff rtz number).2 (not_le.2 short)
  have unit := f.unit_pos
  have exact_iff : r.2.2 = false ↔ f.value (f.packed rtz j r) = x := by
    rw [h.exact_units rtz, Fmt.value_eq short, ← number]
    exact (mul_left_inj' unit.ne').symm
  have dist {k : Nat} (hk : k < f.inf) : |f.value k - x| = |(f.units k : ℝ) - T * 2 ^ j| * f.unit := by
    rw [Fmt.value_eq hk, ← number, ← sub_mul, abs_mul, abs_of_pos unit]
  have sign : f.inf < f.signBit := by rw [f.signBit_eq, f.inf_eq]; have := f.lead_pos; omega
  obtain ⟨lt, sgn, mag⟩ := withSign_lt (f := f) (k := f.packed rtz j r) (short.trans sign) neg
  unfold Rounds
  rw [← f.topUnits_unit rtz]
  dsimp only
  rw [mag]
  refine ⟨lt, sgn, ?_, ?_, fun top => absurd top below, fun _ exact => ?_, fun _ inexact => ?_⟩
  · rintro rfl
    refine ⟨iff_of_false short.ne below, short.le, fun _ k hk => ?_⟩
    obtain ⟨near, tie⟩ := h.nearest_units k
    rw [dist hk, dist short]
    exact ⟨mul_le_mul_of_nonneg_right near unit.le, fun ne same => tie ne (mul_right_cancel₀ unit.ne' same)⟩
  · rintro rfl
    obtain ⟨le, largest⟩ := h.largest_units
    refine ⟨short, ?_, fun k hk hle => ?_⟩
    · rw [Fmt.value_eq short, ← number]
      exact mul_le_mul_of_nonneg_right le unit.le
    · rw [Fmt.value_eq hk, ← number] at hle
      rw [Fmt.value_eq hk, Fmt.value_eq short]
      exact mul_le_mul_of_nonneg_right (by exact_mod_cast largest k (le_of_mul_le_mul_right hle unit)) unit.le
  · rw [exact_iff.2 exact]
    rfl
  · rw [Bool.eq_true_of_not_eq_false (mt exact_iff.1 inexact)]
    rfl

end

/-- The rounding delivers the number that a mantissa stands for, rounded in the mode, with its flags. -/
theorem rounds_roundPack {f : Fmt} {m : Nat} {e : Int} {sticky : Bool} {y : ℝ} (rtz neg : Bool) (h : Stands m sticky y) (hm : m ≠ 0)
    (wide : sticky = true → f.p < bitLen m) : Rounds f rtz (neg = true) (y * 2 ^ e) (roundPack f rtz neg m e sticky) := by
  have fits := fits_splitAt (f := f) (e := e) h hm wide
  have number := f.shift_units m e y
  rw [roundPack_eq rtz neg hm]
  dsimp only
  split
  · exact fits.rounds_beyond rtz neg number ‹_›
  · exact fits.rounds_within rtz neg number (Nat.lt_of_not_le ‹_›)

end Sys2Proof.Machine
end

section
/-! PROOFS. Rounded sums, products, reciprocals and square roots, and the special inputs (02 R28, R29; 06 R139, R140). -/

set_option Elab.async false

namespace Sys2Proof.Machine

/-! ## Finite operands as real numbers -/

/-- The number that a sign, a mantissa and an exponent stand for. -/
noncomputable def realOf (n : Bool) (m : Nat) (e : Int) : ℝ := (if n then -1 else 1) * (m : ℝ) * (2 : ℝ) ^ e

theorem realOf_eq_signedM (n : Bool) (m : Nat) (e : Int) : realOf n m e = (signedM n m : ℝ) * 2 ^ e := by
  unfold realOf signedM
  cases n <;> simp

theorem realOf_eq_zero {n : Bool} {m : Nat} {e : Int} : realOf n m e = 0 ↔ m = 0 := by
  unfold realOf
  have : (2 : ℝ) ^ e ≠ 0 := by positivity
  cases n <;> simp [this]

theorem abs_realOf (n : Bool) (m : Nat) (e : Int) : |realOf n m e| = (m : ℝ) * 2 ^ e := by
  unfold realOf
  have : (0 : ℝ) ≤ (m : ℝ) * 2 ^ e := by positivity
  cases n
  · simp
  · simp [abs_of_nonneg this]

theorem realOf_neg_iff {n : Bool} {m : Nat} (hm : m ≠ 0) (e : Int) : realOf n m e < 0 ↔ n = true := by
  unfold realOf
  have : (0 : ℝ) < (m : ℝ) * 2 ^ e := by positivity
  cases n
  · simpa using this.le
  · simpa using this

theorem realOf_mul (n k : Bool) (m l : Nat) (e g : Int) : realOf n m e * realOf k l g = realOf (n != k) (m * l) (e + g) := by
  unfold realOf
  rw [zpow_add₀ (by norm_num)]
  push_cast
  cases n <;> cases k <;> simp <;> ring

theorem signedM_natAbs (s : Int) : signedM (decide (s < 0)) s.natAbs = s := by
  unfold signedM
  split
  · next h => have := of_decide_eq_true h; omega
  · next h => exact Int.natAbs_of_nonneg (by simpa using h)

/-- The exact sum stands for the sum of its operands (02 R28). -/
theorem realOf_sumExact (n k : Bool) (m l : Nat) (e g : Int) :
    let r := sumExact n m e k l g
    realOf r.1 r.2.1 r.2.2 = realOf n m e + realOf k l g := by
  have align (x : Bool) (a : Nat) (b c : Int) (h : c ≤ b) : realOf x a b = (signedM x (a * 2 ^ (b - c).toNat) : ℝ) * 2 ^ c := by
    rw [realOf_eq_signedM]
    have : (2 : ℝ) ^ b = 2 ^ (b - c).toNat * 2 ^ c := by
      rw [← zpow_natCast, Int.toNat_of_nonneg (by omega), ← zpow_add₀ (by norm_num)]
      congr 1; ring
    rw [this]
    unfold signedM
    cases x <;> (simp; ring)
  dsimp only
  rw [align n m e (min e g) (min_le_left _ _), align k l g (min e g) (min_le_right _ _), ← add_mul, ← Int.cast_add]
  unfold sumExact
  dsimp only
  generalize signedM n (m * 2 ^ (e - min e g).toNat) + signedM k (l * 2 ^ (g - min e g).toNat) = s
  split
  · next h => rw [h, realOf]; simp
  · rw [realOf_eq_signedM, signedM_natAbs]

theorem sumExact_zero_sign {n k : Bool} {m l : Nat} {e g : Int} (h : (sumExact n m e k l g).2.1 = 0) :
    (sumExact n m e k l g).1 = (n && k) := by
  unfold sumExact at h ⊢
  dsimp only at h ⊢
  split
  · rfl
  · next hs =>
    rw [if_neg hs] at h
    exact absurd (Int.natAbs_eq_zero.1 h) hs

/-! ## Rounded once (02 R28; 06 R139) -/

section
variable {f : Fmt} {rtz : Bool}

theorem Rounds.congr {p q : Prop} {x : ℝ} {o : Nat × FFlags} (h : Rounds f rtz p x o) (e : p ↔ q) : Rounds f rtz q x o :=
  propext e ▸ h

theorem stands_self (m : Nat) : Stands m false (m : ℝ) := ⟨le_refl _, by linarith, iff_of_true rfl rfl⟩

theorem rounds_realOf {n : Bool} {m : Nat} {e : Int} (h : realOf n m e ≠ 0) :
    Rounds f rtz (realOf n m e < 0) |realOf n m e| (roundPack f rtz n m e false) := by
  have hm : m ≠ 0 := mt realOf_eq_zero.2 h
  rw [abs_realOf]
  exact (rounds_roundPack rtz n (stands_self m) hm fun h => absurd h (by decide)).congr (realOf_neg_iff hm e).symm

theorem roundPack_zero (n : Bool) (e : Int) : roundPack f rtz n 0 e false = (if n then f.signBit else 0, 0) := by
  unfold roundPack withSign
  rw [if_pos ⟨rfl, rfl⟩, Nat.zero_add]

theorem fAdd_rounds (n k : Bool) (m l : Nat) (e g : Int) :
    (realOf n m e + realOf k l g ≠ 0 → Rounds f rtz (realOf n m e + realOf k l g < 0) |realOf n m e + realOf k l g|
      (fAdd f rtz (.fin n m e) (.fin k l g))) ∧
    (realOf n m e + realOf k l g = 0 → fAdd f rtz (.fin n m e) (.fin k l g) = (if n && k then f.signBit else 0, 0)) := by
  have sum := realOf_sumExact n k m l e g
  have sign := sumExact_zero_sign (n := n) (k := k) (m := m) (l := l) (e := e) (g := g)
  show (_ → Rounds f rtz _ _ (roundPack f rtz (sumExact n m e k l g).1 (sumExact n m e k l g).2.1 (sumExact n m e k l g).2.2 false)) ∧
    (_ → roundPack f rtz (sumExact n m e k l g).1 (sumExact n m e k l g).2.1 (sumExact n m e k l g).2.2 false = _)
  dsimp only at sum
  rw [← sum]
  refine ⟨rounds_realOf, fun h => ?_⟩
  have hm := realOf_eq_zero.1 h
  rw [sign hm, hm]
  exact roundPack_zero _ _

theorem fMul_rounds (n k : Bool) (m l : Nat) (e g : Int) :
    (realOf n m e * realOf k l g ≠ 0 → Rounds f rtz (n ≠ k) |realOf n m e * realOf k l g| (fMul f rtz (.fin n m e) (.fin k l g))) ∧
    (realOf n m e * realOf k l g = 0 → fMul f rtz (.fin n m e) (.fin k l g) = (if n != k then f.signBit else 0, 0)) := by
  rw [realOf_mul]
  refine ⟨fun h => ?_, fun h => ?_⟩
  · refine (rounds_realOf h).congr ((realOf_neg_iff (mt realOf_eq_zero.2 h) _).trans ?_)
    exact bne_iff_ne
  · show roundPack f rtz (n != k) (m * l) (e + g) false = _
    rw [realOf_eq_zero.1 h]
    exact roundPack_zero _ _

theorem fFma_fin (c n k : Bool) (j m l : Nat) (h e g : Int) : fFma f rtz (.fin c j h) (.fin n m e) (.fin k l g) =
    fAdd f rtz (.fin c j h) (.fin (n != k) (m * l) (e + g)) := rfl

/-! ## Reciprocals (06 R140) -/

theorem lt_bitLen {a n : Nat} (h : 2 ^ a ≤ n) : a < bitLen n := by
  have hn : n ≠ 0 := fun e => by rw [e] at h; exact absurd h (Nat.not_le.2 (Nat.two_pow_pos a))
  rw [bitLen, if_neg hn]
  exact Nat.lt_succ_of_le ((Nat.le_log2 hn).2 h)

theorem Fmt.p_le (f : Fmt) : f.p ≤ 24 := by cases f <;> decide

/-- A quotient with its remainder as the sticky bit. -/
theorem stands_div (a m : Nat) (hm : m ≠ 0) : Stands (a / m) (decide (a % m ≠ 0)) ((a : ℝ) / m) := by
  have parts := Nat.div_add_mod a m
  have rest := Nat.mod_lt a (Nat.pos_of_ne_zero hm)
  have pos : (0 : ℝ) < m := by exact_mod_cast Nat.pos_of_ne_zero hm
  have ha : (a : ℝ) = m * (a / m : Nat) + (a % m : Nat) := by exact_mod_cast parts.symm
  have hr : ((a % m : Nat) : ℝ) < m := by exact_mod_cast rest
  have r0 : (0 : ℝ) ≤ (a % m : Nat) := Nat.cast_nonneg _
  refine ⟨?_, ?_, ?_⟩
  · rw [le_div_iff₀ pos]; linarith
  · rw [div_lt_iff₀ pos]; linarith
  · rw [decide_eq_false_iff_not, not_not, div_eq_iff pos.ne']
    constructor
    · intro e; rw [ha, e]; simp; ring
    · intro e
      have : ((a % m : Nat) : ℝ) = 0 := by linarith
      exact_mod_cast this

theorem fRcp_rounds (n : Bool) {m : Nat} (e : Int) (hm : m ≠ 0) :
    Rounds f rtz (n = true) |(realOf n m e)⁻¹| (fRcp f rtz (.fin n m e)) := by
  have pos : (0 : ℝ) < m := by exact_mod_cast Nat.pos_of_ne_zero hm
  have high := (bitLen_bounds hm).2.1
  have big : 2 ^ 40 ≤ 2 ^ (bitLen m + 40) / m := by
    rw [Nat.le_div_iff_mul_le (Nat.pos_of_ne_zero hm), Nat.pow_add, Nat.mul_comm]
    exact Nat.mul_le_mul_right _ high.le
  have number : |(realOf n m e)⁻¹| = ((2 ^ (bitLen m + 40) : Nat) : ℝ) / m * 2 ^ (-((bitLen m + 40 : Nat) : Int) - e) := by
    rw [abs_inv, abs_realOf, mul_inv, ← zpow_neg, Nat.cast_pow, Nat.cast_two, ← zpow_natCast, div_mul_eq_mul_div, ← zpow_add₀ (by norm_num),
      inv_mul_eq_div]
    congr 2
    ring
  show Rounds f rtz (n = true) _ (if m = 0 then _ else _)
  rw [if_neg hm, number]
  exact rounds_roundPack rtz n (stands_div _ m hm) (by omega) fun _ => lt_of_le_of_lt f.p_le ((by decide : 24 < 40).trans (lt_bitLen big))

/-! ## Reciprocal square roots (06 R140) -/

theorem isqrtBits_eq {n : Nat} : ∀ (b r : Nat), r * r ≤ n → n < (r + 2 ^ b) * (r + 2 ^ b) → isqrtBits n b r = Nat.sqrt n
  | 0, r, low, high => Nat.eq_sqrt.2 ⟨low, high⟩
  | b + 1, r, low, high => by
    rw [isqrtBits]
    split
    · next fits => exact isqrtBits_eq b _ fits (by rwa [Nat.add_assoc, ← Nat.two_mul, ← Nat.pow_succ'])
    · next beyond => exact isqrtBits_eq b r low (Nat.lt_of_not_le beyond)

/-- The root of a quotient of a square with its remainder as the sticky bit. -/
theorem stands_sqrt (m : Nat) (hm : m ≠ 0) :
    Stands (Nat.sqrt (2 ^ 128 / m)) (decide (Nat.sqrt (2 ^ 128 / m) * Nat.sqrt (2 ^ 128 / m) * m ≠ 2 ^ 128)) (2 ^ 64 / Real.sqrt m) := by
  have pos : (0 : ℝ) < m := by exact_mod_cast Nat.pos_of_ne_zero hm
  have low := Nat.sqrt_le (2 ^ 128 / m)
  have high := Nat.lt_succ_sqrt (2 ^ 128 / m)
  generalize Nat.sqrt (2 ^ 128 / m) = r at *
  rw [Nat.le_div_iff_mul_le (Nat.pos_of_ne_zero hm)] at low
  rw [Nat.div_lt_iff_lt_mul (Nat.pos_of_ne_zero hm)] at high
  have root : (0 : ℝ) < Real.sqrt m := Real.sqrt_pos.2 pos
  have square : Real.sqrt m * Real.sqrt m = m := Real.mul_self_sqrt pos.le
  have squared (a : ℝ) : (a * Real.sqrt m) ^ 2 = a * a * m := by rw [mul_pow, sq (Real.sqrt m), square, sq]
  have two : ((2 : ℝ) ^ 64) ^ 2 = 2 ^ 128 := by rw [← pow_mul]
  have compare (a : ℝ) (ha : 0 ≤ a) : a * Real.sqrt m ≤ 2 ^ 64 ↔ a * a * m ≤ 2 ^ 128 := by
    rw [← pow_le_pow_iff_left₀ (by positivity) (by positivity) two_ne_zero, squared, two]
  refine ⟨?_, ?_, ?_⟩
  · rw [le_div_iff₀ root, compare _ (Nat.cast_nonneg r)]
    exact_mod_cast low
  · rw [div_lt_iff₀ root, ← not_le, compare _ (by positivity), not_le]
    exact_mod_cast high
  · rw [decide_eq_false_iff_not, not_not, div_eq_iff root.ne',
      ← pow_left_inj₀ (a := (2 : ℝ) ^ 64) (by positivity) (by positivity) two_ne_zero, two, squared]
    constructor
    · intro e; exact_mod_cast e.symm
    · intro e; exact_mod_cast e.symm

/-- An even power of two leaves a square root as half its exponent. -/
theorem inv_sqrt_scaled (m : Nat) (h : Int) : (Real.sqrt ((m : ℝ) * 2 ^ (2 * h)))⁻¹ = 2 ^ 64 / Real.sqrt m * 2 ^ (-64 - h) := by
  have root : Real.sqrt ((2 : ℝ) ^ (2 * h)) = 2 ^ h := by
    rw [mul_comm, zpow_mul]
    exact Real.sqrt_sq (by positivity)
  rw [Real.sqrt_mul (Nat.cast_nonneg m), root, mul_inv, ← zpow_neg, ← zpow_natCast, div_mul_eq_mul_div, ← zpow_add₀ (by norm_num),
    inv_mul_eq_div]
  congr 2
  push_cast
  ring

theorem fRsq_rounds {m : Nat} (e : Int) (hm : m ≠ 0) (hb : m < 2 ^ 24) :
    Rounds f rtz False (Real.sqrt (realOf false m e))⁻¹ (fRsq f rtz (.fin false m e)) := by
  have course (m' : Nat) (e' : Int) (hm' : m' ≠ 0) (hb' : m' < 2 ^ 25) (he' : e' % 2 = 0) (same : realOf false m e = m' * 2 ^ e') :
      Rounds f rtz False (Real.sqrt (realOf false m e))⁻¹ (roundPack f rtz false (isqrtBits (2 ^ 128 / m') 65 0) (-64 - e' / 2)
        (decide (isqrtBits (2 ^ 128 / m') 65 0 * isqrtBits (2 ^ 128 / m') 65 0 * m' ≠ 2 ^ 128))) := by
    have range : 2 ^ 128 / m' < (0 + 2 ^ 65) * (0 + 2 ^ 65) := lt_of_le_of_lt (Nat.div_le_self _ _) (by decide)
    have big : 2 ^ 30 ≤ Nat.sqrt (2 ^ 128 / m') := by
      rw [Nat.le_sqrt, Nat.le_div_iff_mul_le (Nat.pos_of_ne_zero hm')]
      omega
    rw [isqrtBits_eq 65 0 (Nat.zero_le _) range, same, show e' = 2 * (e' / 2) by omega, inv_sqrt_scaled,
      show 2 * (e' / 2) / 2 = e' / 2 by omega]
    exact (rounds_roundPack rtz false (stands_sqrt m' hm') (by omega) fun _ =>
      lt_of_le_of_lt f.p_le ((by decide : 24 < 30).trans (lt_bitLen big))).congr (iff_of_false Bool.noConfusion id)
  show Rounds f rtz False _ (if m = 0 then _ else if false = true then _ else _)
  rw [if_neg hm, if_neg Bool.false_ne_true]
  by_cases odd : e % 2 = 0
  · simp only [odd, ne_eq, not_true_eq_false, if_false]
    exact course m e hm (by omega) odd (by unfold realOf; simp)
  · simp only [odd, ne_eq, not_false_eq_true, if_true]
    refine course (2 * m) (e - 1) (by omega) (by omega) (by omega) ?_
    unfold realOf
    rw [zpow_sub_one₀ (by norm_num)]
    push_cast
    simp
    ring

/-! ## Bit patterns of zeros, infinities and NaNs (02 R29) -/

theorem unpack_mantissa {b m : Nat} {n : Bool} {e : Int} (h : unpack f b = .fin n m e) : m < 2 ^ 24 := by
  have rest := Nat.mod_lt (b % f.signBit) f.lead_pos
  have wide : 2 * f.lead ≤ 2 ^ 24 := by cases f <;> decide
  unfold unpack at h
  simp only [← show f.lead = 2 ^ (f.p - 1) from rfl] at h
  split at h
  · split at h
    · cases h
    · cases h
  · split at h
    · simp only [FVal.fin.injEq] at h
      omega
    · simp only [FVal.fin.injEq] at h
      omega

/-- A bit pattern by its fields: the sign, the exponent field and the fraction. -/
theorem unpack_fields {b : Nat} (hb : b < 2 * f.signBit) : unpack f b =
    (let neg := decide (f.signBit ≤ b)
     let mag := b % f.signBit
     if f.inf < mag then .nan (decide (b % f.lead < 2 ^ (f.p - 2)))
     else if mag = f.inf then .inf neg
     else .fin neg (if mag / f.lead = 0 then mag % f.lead else mag % f.lead + f.lead)
       (if mag / f.lead = 0 then 2 - 127 - (f.p : Int) else ((mag / f.lead : Nat) : Int) - 126 - (f.p : Int))) := by
  have hL := f.lead_pos
  have fraction : b % f.lead = b % f.signBit % f.lead := by
    rw [f.signBit_eq, Nat.mod_mul_left_mod]
  have mag := Nat.mod_lt b (by rw [f.signBit_eq]; omega : 0 < f.signBit)
  rw [f.signBit_eq] at mag
  unfold unpack
  rw [Nat.mod_eq_of_lt hb, fraction, f.inf_eq]
  simp only [← show f.lead = 2 ^ (f.p - 1) from rfl]
  rw [← f.signBit_eq] at *
  generalize b % f.signBit = k at *
  have parts := Nat.div_add_mod k f.lead
  have rest := Nat.mod_lt k hL
  have top : k / f.lead < 256 := by
    rw [Nat.div_lt_iff_lt_mul hL, ← f.signBit_eq]; exact mag
  by_cases ex : k / f.lead = 255
  · rw [ex] at parts
    rw [if_pos ex]
    by_cases zero : k % f.lead = 0
    · rw [if_pos zero, if_neg (by omega), if_pos (by omega)]
    · rw [if_neg zero, if_pos (by omega)]
  · have small : k < 255 * f.lead := by
      rw [← Nat.div_lt_iff_lt_mul hL]
      exact lt_of_le_of_ne (Nat.lt_succ_iff.1 top) ex
    rw [if_neg ex, if_neg (show ¬ 255 * f.lead < k by omega), if_neg (show ¬ k = 255 * f.lead by omega)]
    by_cases zero : k / f.lead = 0
    · rw [if_pos zero, if_pos zero, if_pos zero]
    · rw [if_neg zero, if_neg zero, if_neg zero]

theorem unpack_nan {b : Nat} (hb : b < 2 * f.signBit) (h : f.inf < b % f.signBit) :
    unpack f b = .nan (decide (b % f.lead < 2 ^ (f.p - 2))) := by
  rw [unpack_fields hb]
  exact if_pos h

theorem unpack_negative {b : Nat} (h : f.signBit < b) (hb : b < f.signBit + f.inf) : ∃ m e, m ≠ 0 ∧ unpack f b = .fin true m e := by
  have hL := f.lead_pos
  have sign := f.signBit_eq
  have inf := f.inf_eq
  have mag : b % f.signBit = b - f.signBit := by
    rw [Nat.mod_eq_sub_mod h.le, Nat.mod_eq_of_lt (by omega)]
  have fields := unpack_fields (f := f) (b := b) (by omega)
  dsimp only at fields
  rw [mag, if_neg (by omega), if_neg (by omega), decide_eq_true h.le] at fields
  refine ⟨_, _, ?_, fields⟩
  have parts := Nat.div_add_mod (b - f.signBit) f.lead
  split
  · next zero => rw [zero] at parts; omega
  · omega

/-! ## NaNs and infinities (02 R29; 06 R139) -/

/-- NV where a signalling NaN is among the operands. -/
def nvOf (l : List FVal) : FFlags := if FVal.nan true ∈ l then flagNV else 0

theorem FVal.isSnan_iff (v : FVal) : v.isSnan = true ↔ FVal.nan true = v := by
  cases v with
  | nan s => cases s <;> simp [FVal.isSnan]
  | inf n => simp [FVal.isSnan]
  | fin n m e => simp [FVal.isSnan]

theorem nvOf_eq (l : List FVal) : nvOf l = nanFlags (l.any FVal.isSnan) := by
  unfold nvOf nanFlags
  have : l.any FVal.isSnan = true ↔ FVal.nan true ∈ l := by
    simp only [List.any_eq_true, FVal.isSnan_iff]
    constructor
    · rintro ⟨v, hv, rfl⟩; exact hv
    · exact fun h => ⟨_, h, rfl⟩
  simp only [this]

theorem fAdd_nan {a b : FVal} (h : (∃ s, a = .nan s) ∨ ∃ s, b = .nan s) : fAdd f rtz a b = (f.qnan, nvOf [a, b]) := by
  rw [nvOf_eq, List.any_cons, List.any_cons, List.any_nil, Bool.or_false]
  rcases h with ⟨s, rfl⟩ | ⟨s, rfl⟩
  · rfl
  · rw [Bool.or_comm]
    cases a with
    | nan x => rw [Bool.or_comm]; rfl
    | inf n => rfl
    | fin n m e => rfl

theorem fMul_nan {a b : FVal} (h : (∃ s, a = .nan s) ∨ ∃ s, b = .nan s) : fMul f rtz a b = (f.qnan, nvOf [a, b]) := by
  rw [nvOf_eq, List.any_cons, List.any_cons, List.any_nil, Bool.or_false]
  rcases h with ⟨s, rfl⟩ | ⟨s, rfl⟩
  · rfl
  · rw [Bool.or_comm]
    cases a with
    | nan x => rw [Bool.or_comm]; rfl
    | inf n => rfl
    | fin n m e => rfl

theorem fFma_nan {d a b : FVal} (h : (∃ s, a = .nan s) ∨ ∃ s, b = .nan s) : fFma f rtz d a b = (f.qnan, nvOf [d, a, b]) := by
  rw [nvOf_eq, List.any_cons, List.any_cons, List.any_cons, List.any_nil, Bool.or_false, Bool.or_comm]
  rcases h with ⟨s, rfl⟩ | ⟨s, rfl⟩
  · rfl
  · rw [Bool.or_comm a.isSnan]
    cases a with
    | nan x => rw [Bool.or_comm (FVal.isSnan _) (FVal.isSnan _)]; rfl
    | inf n => rfl
    | fin n m e => rfl

/-! ## The special inputs of the elementary functions (06 R140) -/

/-- The bit pattern of 1. -/
theorem roundPack_one : roundPack f rtz false 1 0 false = (127 * 2 ^ (f.p - 1), 0) := by
  cases f <;> cases rtz <;> decide

theorem fExp_zero (n : Bool) {e : Int} (he : e ≤ 9) : fExp f rtz (.fin n 0 e) = (127 * 2 ^ (f.p - 1), 0) := by
  have fixed : signedM n (if 0 ≤ e then 0 * 2 ^ (e.toNat + fixBits) else 0 * 2 ^ (fixBits - (-e).toNat)) = 0 := by
    unfold signedM
    simp
  unfold fExp
  dsimp only
  rw [if_neg (by rw [bitLen, if_pos rfl]; push_cast; omega), fixed, Int.zero_emod, Int.zero_ediv]
  exact roundPack_one

theorem unpack_special (f : Fmt) :
    unpack f 0 = .fin false 0 (2 - 127 - (f.p : Int)) ∧ unpack f f.signBit = .fin true 0 (2 - 127 - (f.p : Int)) ∧
      unpack f f.inf = .inf false ∧ unpack f (f.signBit + f.inf) = .inf true := by
  cases f <;> decide

/-- An infinity as a result, without flags. -/
theorem infinity_withSign (f : Fmt) (n : Bool) : (withSign f n f.inf, (0 : FFlags)) = (f.inf + if n then f.signBit else 0, 0) := by
  cases n <;> rfl

/-- Results of NaNs and infinities (02 R29; 06 R139). -/
theorem nans_and_infinities (f : Fmt) (rtz n k : Bool) (m : Nat) (e : Int) (a b d : FVal) :
    let nan (v : FVal) : Prop := ∃ s, v = .nan s
    let inf (neg : Bool) : Nat × FFlags := (f.inf + if neg then f.signBit else 0, 0)
    let x : FVal := .fin k m e
    (nan a ∨ nan b → fAdd f rtz a b = (f.qnan, nvOf [a, b]) ∧ fMul f rtz a b = (f.qnan, nvOf [a, b])) ∧
    (fAdd f rtz (.inf n) (.inf k) = if n = k then inf n else (f.qnan, flagNV)) ∧
    fAdd f rtz (.inf n) x = inf n ∧ fAdd f rtz x (.inf n) = inf n ∧ fMul f rtz (.inf n) (.inf k) = inf (n != k) ∧
    (fMul f rtz (.inf n) x = if m = 0 then (f.qnan, flagNV) else inf (n != k)) ∧
    (fMul f rtz x (.inf n) = if m = 0 then (f.qnan, flagNV) else inf (n != k)) ∧
    (m = 0 → fFma f rtz d (.inf n) x = (f.qnan, flagNV) ∧ fFma f rtz d x (.inf n) = (f.qnan, flagNV)) ∧
    (m ≠ 0 → fFma f rtz d (.inf n) x = fAdd f rtz d (.inf (n != k)) ∧ fFma f rtz d x (.inf n) = fAdd f rtz d (.inf (n != k))) ∧
    fFma f rtz d (.inf n) (.inf k) = fAdd f rtz d (.inf (n != k)) ∧
    (∀ c l g, fFma f rtz (.inf c) x (.fin n l g) = inf c ∧ (nan d → fFma f rtz d x (.fin n l g) = (f.qnan, nvOf [d]))) ∧
    (nan a ∨ nan b → fFma f rtz d a b = (f.qnan, nvOf [d, a, b])) := by
  dsimp only
  refine ⟨fun h => ⟨fAdd_nan h, fMul_nan h⟩, ?_, ?_, ?_, ?_, ?_, ?_, ?_, ?_, rfl, fun c l g => ⟨?_, ?_⟩, fFma_nan⟩
  · rw [← infinity_withSign]; rfl
  · rw [← infinity_withSign]; rfl
  · rw [← infinity_withSign]; rfl
  · rw [← infinity_withSign]; rfl
  · rw [← infinity_withSign]; rfl
  · rw [← infinity_withSign, bne_comm]; rfl
  · rintro rfl
    exact ⟨rfl, rfl⟩
  · intro hm
    have finite : ¬ decide (m = 0) = true := by simpa using hm
    refine ⟨if_neg finite, ?_⟩
    rw [bne_comm]
    exact if_neg finite
  · rw [← infinity_withSign]; rfl
  · rintro ⟨s, rfl⟩
    rw [nvOf_eq, List.any_cons, List.any_nil]
    rfl

/-- The exact real result of finite operands, rounded once, and the zeros (06 R139, R140). -/
theorem finite_operands_round (f : Fmt) (rtz n k c : Bool) (m l j : Nat) (e g h : Int) :
    let x := realOf n m e
    let y := realOf k l g
    let z := realOf c j h
    let sum := fAdd f rtz (.fin n m e) (.fin k l g)
    let fma := fFma f rtz (.fin c j h) (.fin n m e) (.fin k l g)
    let zero (neg : Bool) : Nat := if neg then f.signBit else 0
    (x + y ≠ 0 → Rounds f rtz (x + y < 0) |x + y| sum) ∧ (x + y = 0 → sum = (zero (n && k), 0)) ∧
      (x * y ≠ 0 → Rounds f rtz (n ≠ k) |x * y| (fMul f rtz (.fin n m e) (.fin k l g))) ∧
      (x * y = 0 → fMul f rtz (.fin n m e) (.fin k l g) = (zero (n != k), 0)) ∧
      (z + x * y ≠ 0 → Rounds f rtz (z + x * y < 0) |z + x * y| fma) ∧ (z + x * y = 0 → fma = (zero (c && (n != k)), 0)) ∧
      (m ≠ 0 → Rounds f rtz (n = true) |x⁻¹| (fRcp f rtz (.fin n m e))) := by
  dsimp only
  rw [fFma_fin, realOf_mul]
  obtain ⟨sum, sumZero⟩ := fAdd_rounds (f := f) (rtz := rtz) n k m l e g
  obtain ⟨product, productZero⟩ := fMul_rounds (f := f) (rtz := rtz) n k m l e g
  obtain ⟨fused, fusedZero⟩ := fAdd_rounds (f := f) (rtz := rtz) c (n != k) j (m * l) h (e + g)
  rw [realOf_mul] at product productZero
  exact ⟨sum, sumZero, product, productZero, fused, fusedZero, fRcp_rounds n e⟩

/-- The special inputs of the elementary functions in one format and mode (06 R140). -/
theorem special_inputs (f : Fmt) (rtz : Bool) :
    let q (o : FVal → Nat × FFlags) (n : Nat) := o (unpack f n)
    let pinf := f.inf
    let ninf := f.signBit + f.inf
    let one := 127 * 2 ^ (f.p - 1)
    (q (fRcp f rtz) 0 = (pinf, flagDZ) ∧ q (fRsq f rtz) 0 = (pinf, flagDZ) ∧ q (fExp f rtz) 0 = (one, 0) ∧
      q (fLog f rtz) 0 = (ninf, flagDZ)) ∧
    (q (fRcp f rtz) f.signBit = (ninf, flagDZ) ∧ q (fRsq f rtz) f.signBit = (ninf, flagDZ) ∧
      q (fExp f rtz) f.signBit = (one, 0) ∧ q (fLog f rtz) f.signBit = (ninf, flagDZ)) ∧
    (q (fRcp f rtz) pinf = (0, 0) ∧ q (fRsq f rtz) pinf = (0, 0) ∧ q (fExp f rtz) pinf = (pinf, 0) ∧
      q (fLog f rtz) pinf = (pinf, 0)) ∧
    (q (fRcp f rtz) ninf = (f.signBit, 0) ∧ q (fRsq f rtz) ninf = (f.qnan, flagNV) ∧ q (fExp f rtz) ninf = (0, 0) ∧
      q (fLog f rtz) ninf = (f.qnan, flagNV)) ∧
    (∀ k, f.signBit < k → k < ninf → q (fRsq f rtz) k = (f.qnan, flagNV) ∧ q (fLog f rtz) k = (f.qnan, flagNV)) ∧
    (∀ k, k < 2 * f.signBit → pinf < k % f.signBit →
      let fl := if k % 2 ^ (f.p - 1) < 2 ^ (f.p - 2) then flagNV else 0
      q (fRcp f rtz) k = (f.qnan, fl) ∧ q (fRsq f rtz) k = (f.qnan, fl) ∧ q (fExp f rtz) k = (f.qnan, fl) ∧
        q (fLog f rtz) k = (f.qnan, fl)) := by
  obtain ⟨zero, negZero, inf, negInf⟩ := unpack_special f
  have minusInf : withSign f true f.inf = f.signBit + f.inf := Nat.add_comm _ _
  have minusZero : withSign f true 0 = f.signBit := Nat.zero_add _
  have low : (2 : Int) - 127 - f.p ≤ 9 := by omega
  dsimp only
  rw [zero, negZero, inf, negInf, fExp_zero false low, fExp_zero true low, ← minusInf]
  refine ⟨⟨rfl, rfl, rfl, rfl⟩, ⟨rfl, rfl, rfl, rfl⟩, ⟨rfl, rfl, rfl, rfl⟩, ⟨?_, rfl, rfl, rfl⟩, fun k low high => ?_, fun k hk hn => ?_⟩
  · exact congrArg (·, 0) minusZero
  · rw [minusInf] at high
    obtain ⟨m, e, hm, value⟩ := unpack_negative low high
    rw [value]
    exact ⟨(if_neg hm).trans (if_pos rfl), (if_neg hm).trans (if_pos rfl)⟩
  · rw [unpack_nan hk hn, ← show f.lead = 2 ^ (f.p - 1) from rfl]
    have flags : (if k % f.lead < 2 ^ (f.p - 2) then flagNV else 0) = nanFlags (decide (k % f.lead < 2 ^ (f.p - 2))) := by
      simp only [nanFlags, decide_eq_true_eq]
    rw [flags]
    exact ⟨rfl, rfl, rfl, rfl⟩

end

/-- Settles O13: the rounding delivers what its mantissa stands for, and each operation hands it the exact result. -/
theorem roundingAndSpecialInputs : Obligations.RoundingAndSpecialInputs := by
  refine ⟨⟨fun f rtz neg m e hm => ?_, finite_operands_round, fun f rtz b m e value hm => ?_, nans_and_infinities⟩, special_inputs⟩
  · exact rounds_roundPack rtz neg (stands_self m) hm fun h => absurd h Bool.false_ne_true
  · rw [value]
    exact fRsq_rounds e hm (unpack_mantissa value)

end Sys2Proof.Machine
end

section
/-! PROOFS. Nested views of the scratchpad: the planes of an element, its mantissa, and the word of view 9 (02 R33, R34, R40, R41). -/

set_option Elab.async false

namespace Sys2Proof.Machine

/-! ## Planes (02 R33) -/

/-- The byte that holds plane `p` of element `e` of the nested array at `base`. -/
def nestedAt (base p e : Nat) : Nat := base + 64 * (e / 64) + 8 * p + e % 64 / 8

/-- Plane `p` of element `e`. -/
def nestedPlane (m : Memory) (base p e : Nat) : Bool := (mget m (nestedAt base p e)).getLsbD (e % 8)

theorem nestedAt_inj {base p q e f : Nat} (hp : p < 8) (hq : q < 8) (h : nestedAt base p f = nestedAt base q e) (hb : f % 8 = e % 8) :
    p = q ∧ f = e := by
  unfold nestedAt at h
  omega

theorem toNat_getLsbD (b : Byte) (k : Nat) : b.toNat / 2 ^ k % 2 = (b.getLsbD k).toNat := by
  rw [BitVec.getLsbD, Nat.testBit_eq_decide_div_mod_eq]
  rcases Nat.mod_two_eq_zero_or_one (b.toNat / 2 ^ k) with h | h <;> rw [h] <;> rfl

/-- The mantissa of `w` planes in two's complement, plane 0 the sign. -/
def planesValue (b : Nat → Bool) (w : Nat) : Int :=
  ((List.range w).map fun p => if b p then (if p = 0 then -1 else 1) * (2 : Int) ^ (w - 1 - p) else 0).sum

theorem planesValue_one (b : Nat → Bool) : planesValue b 1 = -(b 0).toNat := by
  unfold planesValue
  cases h : b 0 <;> simp [h]

/-- One plane more doubles the mantissa and adds the plane. -/
theorem planesValue_succ (b : Nat → Bool) {w : Nat} (hw : 1 ≤ w) : planesValue b (w + 1) = 2 * planesValue b w + (b w).toNat := by
  unfold planesValue
  rw [List.range_succ, List.map_append, List.sum_append, ← List.sum_map_mul_left]
  congr 1
  · refine congrArg List.sum (List.map_congr_left fun p hp => ?_)
    have : p < w := List.mem_range.1 hp
    rw [show w + 1 - 1 - p = w - 1 - p + 1 by omega, pow_succ]
    split
    · ring
    · rfl
  · have : w ≠ 0 := by omega
    cases h : b w <;> simp [h, this]

theorem nestedGet_eq (m : Memory) (base e : Nat) {w : Nat} (hw : 1 ≤ w) :
    nestedGet m base e w = planesValue (nestedPlane m base · e) w := by
  have bit (p : Nat) : (mget m (base + 64 * (e / 64) + 8 * p + e % 64 / 8)).toNat / 2 ^ (e % 8) % 2 = (nestedPlane m base p e).toNat :=
    toNat_getLsbD _ _
  unfold nestedGet
  simp only [bit]
  induction w, hw using Nat.le_induction with
  | base => rw [planesValue_one]; simp
  | succ w hw ih =>
    have : w ≠ 0 := by omega
    rw [planesValue_succ _ hw, ← ih, List.range_succ, List.foldl_append, List.foldl_cons, List.foldl_nil, if_neg this, Nat.add_sub_cancel]
    rw [show (2 : Int) ^ w = 2 * 2 ^ (w - 1) by rw [← pow_succ']; congr 1; omega]
    push_cast
    ring

theorem planesValue_bounds (b : Nat → Bool) {w : Nat} (hw : 1 ≤ w) : -(2 ^ (w - 1)) ≤ planesValue b w ∧ planesValue b w < 2 ^ (w - 1) := by
  induction w, hw using Nat.le_induction with
  | base =>
    rw [planesValue_one]
    cases b 0 <;> decide
  | succ w hw ih =>
    rw [planesValue_succ b hw, Nat.add_sub_cancel, show (2 : Int) ^ w = 2 * 2 ^ (w - 1) by rw [← pow_succ']; congr 1; omega]
    cases b w <;> simp <;> omega

/-- The bits of a number that fits give it back. -/
theorem planesValue_bits {v : Nat} {r : Int} (h1 : -(2 ^ (v - 1)) ≤ r) (h2 : r < 2 ^ (v - 1)) (b : Nat → Bool)
    (hb : ∀ p, p < v → ((b p).toNat : Int) = r / 2 ^ (v - 1 - p) % 2) (hv : 1 ≤ v) : planesValue b v = r := by
  have key (w : Nat) (hw : 1 ≤ w) : w ≤ v → planesValue b w = r / 2 ^ (v - w) := by
    induction w, hw using Nat.le_induction with
    | base =>
      intro _
      have pos : (0 : Int) < 2 ^ (v - 1) := by positivity
      rw [planesValue_one, hb 0 (by omega), Nat.sub_zero]
      rcases lt_or_ge r 0 with neg | nonneg
      · rw [show r / 2 ^ (v - 1) = -1 from Int.ediv_eq_neg_one_of_neg_of_le neg (by linarith)]
        rfl
      · rw [Int.ediv_eq_zero_of_lt nonneg h2]
        rfl
    | succ w hw ih =>
      intro hle
      rw [planesValue_succ b hw, ih (by omega), hb w (by omega), show v - w = v - (w + 1) + 1 by omega, pow_succ,
        ← Int.ediv_ediv_of_nonneg (by positivity), show v - 1 - w = v - (w + 1) by omega]
      omega
  rw [key v hv (le_refl _), Nat.sub_self, pow_zero, Int.ediv_one]

/-! ## A write of a mantissa (02 R34) -/

/-- A byte with bit `k` replaced. -/
def withBit (b : Byte) (k : Nat) (on : Nat) : Byte := BitVec.ofNat 8 (b.toNat + on * 2 ^ k - b.toNat / 2 ^ k % 2 * 2 ^ k)

theorem getLsbD_withBit (b : Byte) {k i on : Nat} (hi : i < 8) (hon : on < 2) :
    (withBit b k on).getLsbD i = if i = k then decide (on = 1) else b.getLsbD i := by
  -- the byte as its bits above k, bit k, and its bits below
  have low := Nat.mod_lt b.toNat (Nat.two_pow_pos k)
  have parts : b.toNat = 2 ^ k * (2 * (b.toNat / 2 ^ k / 2) + b.toNat / 2 ^ k % 2) + b.toNat % 2 ^ k := by
    rw [Nat.div_add_mod, Nat.div_add_mod]
  have bit := Nat.mod_two_eq_zero_or_one (b.toNat / 2 ^ k)
  have new : b.toNat + on * 2 ^ k - b.toNat / 2 ^ k % 2 * 2 ^ k =
      2 ^ k * (2 * (b.toNat / 2 ^ k / 2) + on) + b.toNat % 2 ^ k := by
    refine Nat.sub_eq_of_eq_add ?_
    conv_lhs => rw [parts]
    ring
  rw [withBit, new, BitVec.getLsbD_ofNat, decide_eq_true hi, Bool.true_and, Nat.testBit_two_pow_mul_add _ low, BitVec.getLsbD]
  conv_rhs => rw [parts, Nat.testBit_two_pow_mul_add _ low]
  rcases Nat.lt_trichotomy i k with lt | rfl | gt
  · rw [if_pos lt, if_neg lt.ne, if_pos lt]
  · rw [if_neg (lt_irrefl _), if_pos rfl, Nat.sub_self, Nat.testBit_zero]
    congr 1
    rw [eq_iff_iff]
    omega
  · obtain ⟨d, rfl⟩ := Nat.exists_eq_add_of_lt gt
    rw [if_neg (by omega), if_neg (by omega), if_neg (by omega), show k + d + 1 - k = d + 1 by omega, Nat.testBit_succ, Nat.testBit_succ]
    congr 1
    omega

/-- The bits that a mantissa's planes receive. -/
def mantissaBit (w : Nat) (v : Int) (p : Nat) : Nat := if p < w then (v % (2 ^ w : Int)).toNat / 2 ^ (w - 1 - p) % 2 else 0

theorem nestedPut_eq (m : Memory) (base e w : Nat) (v : Int) : nestedPut m base e w v =
    (List.range 8).foldl (fun m p => mset m (nestedAt base p e) (withBit (mget m (nestedAt base p e)) (e % 8) (mantissaBit w v p))) m := rfl

theorem mantissaBit_lt (w : Nat) (v : Int) (p : Nat) : mantissaBit w v p < 2 := by
  unfold mantissaBit
  split
  · exact Nat.mod_lt _ (by decide)
  · decide

/-- A plane after a mantissa is written: the element's planes hold its bits, and every other bit is as it was. -/
theorem nestedPlane_nestedPut {m : Memory} (hm : Memory.wf m = true) (base e w : Nat) (v : Int) {p f : Nat} (hp : p < 8) :
    nestedPlane (nestedPut m base e w v) base p f = if f = e then decide (mantissaBit w v p = 1) else nestedPlane m base p f := by
  have course (l : List Nat) (hl : ∀ q ∈ l, q < 8) : ∀ (m : Memory), Memory.wf m = true →
      nestedPlane (l.foldl (fun m p => mset m (nestedAt base p e) (withBit (mget m (nestedAt base p e)) (e % 8) (mantissaBit w v p))) m)
        base p f = if f = e ∧ p ∈ l then decide (mantissaBit w v p = 1) else nestedPlane m base p f := by
    induction l with
    | nil => intro m _; simp
    | cons q l ih =>
      intro m hm
      have step : nestedPlane (mset m (nestedAt base q e) (withBit (mget m (nestedAt base q e)) (e % 8) (mantissaBit w v q))) base p f =
          if f = e ∧ p = q then decide (mantissaBit w v p = 1) else nestedPlane m base p f := by
        unfold nestedPlane
        rw [mget_mset hm]
        by_cases same : nestedAt base p f = nestedAt base q e
        · rw [if_pos same, getLsbD_withBit _ (Nat.mod_lt _ (by decide)) (mantissaBit_lt w v q), same]
          by_cases bit : f % 8 = e % 8
          · obtain ⟨rfl, rfl⟩ := nestedAt_inj hp (hl q (.head _)) same bit
            rw [if_pos rfl, if_pos ⟨rfl, rfl⟩]
          · rw [if_neg bit, if_neg fun h => bit (by rw [h.1])]
        · rw [if_neg same, if_neg fun h => same (by rw [h.1, h.2])]
      rw [List.foldl_cons, ih (fun q hq => hl q (.tail _ hq)) _ (memory_wf_mset _ _ hm), step]
      by_cases later : f = e ∧ p ∈ l
      · rw [if_pos later, if_pos ⟨later.1, .tail _ later.2⟩]
      · rw [if_neg later]
        refine if_congr ?_ rfl rfl
        rw [List.mem_cons]
        exact ⟨fun h => ⟨h.1, .inl h.2⟩, fun h => ⟨h.1, h.2.resolve_right fun hl => later ⟨h.1, hl⟩⟩⟩
  rw [nestedPut_eq, course _ (fun q hq => List.mem_range.1 hq) m hm]
  have : p ∈ List.range 8 := List.mem_range.2 hp
  simp [this]

/-- The bits of a mantissa are those of its two's complement. -/
theorem mantissaBit_eq {w p : Nat} (hp : p < w) (v : Int) : (mantissaBit w v p : Int) = v / 2 ^ (w - 1 - p) % 2 := by
  have pos : (0 : Int) < 2 ^ w := by positivity
  have unit : (0 : Int) < 2 ^ (w - 1 - p) := by positivity
  have high : (2 : Int) ^ w = 2 ^ (w - 1 - p) * (2 * 2 ^ p) := by
    rw [← pow_succ', ← pow_add]; congr 1; omega
  have parts := Int.emod_add_mul_ediv v (2 ^ w)
  rw [mantissaBit, if_pos hp, Int.natCast_mod, Int.natCast_div, Int.toNat_of_nonneg (Int.emod_nonneg _ pos.ne')]
  push_cast
  have split : v / 2 ^ (w - 1 - p) = v % 2 ^ w / 2 ^ (w - 1 - p) + 2 * (2 ^ p * (v / 2 ^ w)) := by
    conv_lhs => rw [← parts, high, mul_assoc, Int.add_mul_ediv_left _ _ unit.ne']
    rw [← high, mul_assoc]
  rw [split, Int.add_mul_emod_self_left]

/-- The mantissa of an element after a write of one that fits (02 R34). -/
theorem planesValue_nestedPut {m : Memory} (hm : Memory.wf m = true) (base e : Nat) {w : Nat} {v : Int} (hw : 1 ≤ w) (h8 : w ≤ 8)
    (h1 : -(2 ^ (w - 1)) ≤ v) (h2 : v < 2 ^ (w - 1)) : planesValue (nestedPlane (nestedPut m base e w v) base · e) w = v := by
  refine planesValue_bits h1 h2 _ (fun p hp => ?_) hw
  rw [nestedPlane_nestedPut hm base e w v (by omega : p < 8), if_pos rfl, ← mantissaBit_eq hp]
  have := mantissaBit_lt w v p
  interval_cases mantissaBit w v p <;> rfl

/-! ## Loads of a view (02 R33, R40) -/

section
variable {s u : State} {ea : Word} {n v e : Nat} {o w : BitVec 2} {i : BitVec 12} {bs : List Byte}

theorem Bank.viewBad_scaleless (b : Bank) (vsb : Nat) {v : Nat} (hv : v ≠ 9) (off n : Nat) : b.viewBad vsb v off n = b.viewBad 0 v off n := by
  unfold Bank.viewBad
  simp only [decide_eq_false hv, Bool.false_and]

theorem State.readBytes_view {strong : Bool} (he : ea.toNat = 0x0100_0000 + v * 0x10_0000 + e) (hv : v < 9) (ho : e < 0x10_0000)
    (hb : (s.cell s.self.cell).spad.viewBad 0 v e n = false) : s.readBytes ea n strong =
      .ok (s, viewLoad (s.cell s.self.cell).spad.bytes s.self.me.vsb.toNat v e n) := by
  have place : region ea = .view v e := region_view he (by omega) ho
  have nine : ¬ (v = 9 ∧ s.self.badRegs.contains (ek 3) = true) := fun h => by omega
  unfold State.readBytes
  simp only [place]
  rw [if_neg nine, Bank.viewBad_scaleless _ _ (by omega), hb, if_neg Bool.false_ne_true]

/-- A byte of a view that extends to a mantissa of at most eight planes. -/
theorem extend_ofInt {x : Int} (h1 : -128 ≤ x) (h2 : x < 128) : Machine.extend true 1 [BitVec.ofInt 8 x] = wrap x := by
  rw [extend_signed (List.length_singleton) (by decide) (by decide)]
  apply BitVec.eq_of_toInt_eq
  have byte : leNat [BitVec.ofInt 8 x] = (BitVec.ofInt 8 x).toNat := by
    unfold leNat leNat
    omega
  rw [byte, show BitVec.ofNat (8 * 1) (BitVec.ofInt 8 x).toNat = BitVec.ofInt 8 x from
      (BitVec.ofNat_toNat _ _).trans (BitVec.setWidth_eq _),
    BitVec.toInt_signExtend_of_le (by decide), wrap, BitVec.toInt_ofInt, BitVec.toInt_ofInt, Int.bmod_eq_of_le (by omega) (by omega),
    Int.bmod_eq_of_le (by omega) (by omega)]

theorem viewLoad_byte (h0 : v ≠ 0) (h9 : v ≠ 9) (m : Memory) (vsb e : Nat) : viewLoad m vsb v e 1 = [BitVec.ofInt 8 (nestedGet m 0 e v)] := by
  rw [viewLoad, if_neg h0, if_neg h9]
  rfl

theorem two_pow_le_128 {v : Nat} (hv : v ≤ 8) : (2 : Int) ^ (v - 1) ≤ 128 := by
  calc (2 : Int) ^ (v - 1) ≤ 2 ^ 7 := pow_le_pow_right₀ (by norm_num) (by omega)
    _ = 128 := by norm_num

/-- A byte of view `v` is the mantissa of the element's first `v` planes. -/
theorem givesLoad_view {x a : BitVec 5} (he : (effAddr (s.rx a) i 1).toNat = 0x0100_0000 + v * 0x10_0000 + e) (h2 : 2 ≤ v) (h8 : v ≤ 8)
    (ho : e < 0x10_0000) (free : s.Open (effAddr (s.rx a) i 1) 1 false o w) (hb : (s.cell s.self.cell).spad.viewBad 0 v e 1 = false) :
    GivesLoad (.ldB x a o w i) s o x (wrap (planesValue (nestedPlane (s.cell s.self.cell).spad.bytes 0 · e) v)) := by
  obtain ⟨low, high⟩ := planesValue_bounds (nestedPlane (s.cell s.self.cell).spad.bytes 0 · e) (by omega : 1 ≤ v)
  have small := two_pow_le_128 h8
  refine givesLoad_of_readBytes rfl free (State.readBytes_view he (by omega) ho hb) ?_
  rw [viewLoad_byte (by omega) (by omega), nestedGet_eq _ _ _ (by omega)]
  exact extend_ofInt (by linarith) (by linarith)

/-! ## Stores that go ahead at once (05 R94-R96) -/

/-- The state after a store's bytes are written: a strong one is an acquire too (11 R233). -/
def State.stored (u : State) (ea : Word) (o : BitVec 2) : State := if o = 2 ∧ ordered ea then u.acquire u.cur else u

/-- A store whose bytes can be written at once. -/
theorem State.store_of_open (ho : o ≠ 3) (h : s.Open ea bs.length true o w) (hb : s.writeBytes ea bs o = .ok u) :
    s.store ea bs o w = .ok (u.stored ea o) := by
  have now : s.writeNow ea bs.length = .ok true := by
    unfold State.writeNow
    rw [h.now rfl]
  have way : s.fabricWaits ea bs.length true (o != 0) = .ok () := by
    have same : (o == 2 || (true && o != 0)) = (o != 0) := by generalize o = p; revert p; decide
    rw [← same]
    exact h.way
  have write : (s.writeBytes ea bs o >>= fun s => (pure (if o = 2 ∧ ordered ea then s.acquire s.cur else s) : Attempt State)) =
      .ok (u.stored ea o) := by
    rw [hb]
    rfl
  unfold State.store
  dsimp only
  rw [now]
  show (s.checkAccess ea bs.length true false >>= _) = _
  rw [State.checkAccess_of_open h]
  show (s.waitWc w >>= _) = _
  rw [State.waitWc_of_open h]
  show (s.localWaits ea bs.length true >>= _) = _
  rw [h.free]
  show (s.fabricWaits ea bs.length true (o != 0) >>= _) = _
  rw [way]
  by_cases hc : o ≠ 0 ∧ ordered ea
  · have covers : o = 2 ∨ (true = true ∧ o = 1) := by
      have := hc.1
      generalize o = p at this ho
      revert p; decide
    obtain ⟨h1, h2, h3⟩ := h.covered covers
    show (if o ≠ 0 ∧ ordered ea then s.waitCovered coverAll >>= _ else _) = _
    rw [if_pos hc, State.waitCovered_of h1 h2 h3]
    exact write
  · show (if o ≠ 0 ∧ ordered ea then _ else _) = _
    rw [if_neg hc]
    exact write

theorem State.storeX_of_open {x a : BitVec 5} (ho : o ≠ 3) (h : s.Open (effAddr (s.rx a) i n) n true o w)
    (hb : s.writeBytes (effAddr (s.rx a) i n) (leBytes (s.rx x).toNat n) o = .ok u) :
    s.storeX x a o w i n = .next (u.stored (effAddr (s.rx a) i n) o).finish := by
  unfold State.storeX
  rw [State.store_of_open ho (by rwa [leBytes_length]) hb]
  rfl

/-- A store that changes memories alone completes as `Stored` says. -/
theorem State.stored_finish (hu : u = { s with cells := u.cells, dies := u.dies }) (hn : u.now = s.now) (ea : Word) (o : BitVec 2) :
    Stored s (u.stored ea o).finish o := by
  have cur : u.cur = s.cur := by rw [hu]
  have ctxs : u.ctxs = s.ctxs := by rw [hu]
  have self : u.self = s.self := by rw [hu]; rfl
  have stored : u.stored ea o = u ∨ (o = 2 ∧ u.stored ea o = u.acquire u.cur) := by
    unfold State.stored
    split
    · next h => exact .inr ⟨h.1, rfl⟩
    · exact .inl rfl
  obtain ⟨⟨rest, other⟩, keeps⟩ := (u.stored ea o).goesOn_finish
  rcases stored with e | ⟨h2, e⟩
  · rw [e] at rest other keeps ⊢
    have done : u.finish.self = s.self.doneAt (s.self.pc + 4) s.now := by rw [keeps, self, hn]
    have mark : u.finish.self.acqMark = s.self.acqMark := by rw [done, Ctx.doneAt_eq]; rfl
    refine ⟨?_, fun y hy => ?_, ?_, fun _ => mark⟩
    · rw [rest, hu]
    · rw [other y (cur ▸ hy), ctxs]
    · rw [mark, done, Ctx.doneAt_eq]; rfl
  · rw [e] at rest other keeps ⊢
    have now : (u.acquire u.cur).now = s.now := by rw [← hn, State.now, State.self_acquire]; rfl
    refine ⟨?_, fun y hy => ?_, ?_, fun h => absurd h2 h⟩
    · rw [rest, hu]; rfl
    · rw [other y (cur ▸ hy), ← ctxs]
      exact tfind_tset_ne _ _ (cur ▸ hy)
    · rw [keeps, now, State.self_acquire, self, Ctx.doneAt_eq, Ctx.doneAt_eq]
      rfl

/-! ## A byte stored through a view (02 R34) -/

theorem State.stored_cells (u : State) (ea : Word) (o : BitVec 2) : (u.stored ea o).finish.cells = u.cells := by
  unfold State.stored
  split
  · rfl
  · rfl

/-- The state in which a byte has been stored through view `v`. -/
def State.viewStored (s : State) (v e : Nat) (b : Byte) : State :=
  s.modCell s.self.cell fun c => { c with spad := c.spad.viewStore v e [b] }

theorem State.viewStored_bytes (hv : v ≠ 0) (b : Byte) : ((s.viewStored v e b).cell s.self.cell).spad.bytes =
    nestedPut (s.cell s.self.cell).spad.bytes 0 e v (clampNested v b.toInt) := by
  rw [State.viewStored, State.cell_modCell_self]
  unfold Bank.viewStore
  rw [if_neg hv]
  rfl

theorem State.writeBytes_view (he : ea.toNat = 0x0100_0000 + v * 0x10_0000 + e) (hv : v < 16) (ho : e < 0x10_0000) (b : Byte) :
    s.writeBytes ea [b] o = .ok (s.viewStored v e b) := by
  unfold State.writeBytes
  simp only [region_view he hv ho]
  rfl

theorem clampNested_bounds {v : Nat} (y : Int) : -(2 ^ (v - 1)) ≤ clampNested v y ∧ clampNested v y < 2 ^ (v - 1) := by
  have : (0 : Int) < 2 ^ (v - 1) := by positivity
  unfold clampNested
  omega

/-- A byte stored through view `v` clamps, clears the planes above, and leaves every other bit of the scratchpad. -/
theorem exec_stB_view {x a : BitVec 5} (hw : o ≠ 3) (he : (effAddr (s.rx a) i 1).toNat = 0x0100_0000 + v * 0x10_0000 + e) (h2 : 2 ≤ v)
    (h8 : v ≤ 8) (ho : e < 0x10_0000) (free : s.Open (effAddr (s.rx a) i 1) 1 true o w) (hm : s.memWf = true) :
    ∃ t, exec (.stB x a o w i) s = .next t ∧ Stored s t o ∧
      planesValue (nestedPlane (t.cell s.self.cell).spad.bytes 0 · e) v = clampNested v ((s.rx x).truncate 8).toInt ∧
      (∀ p, v ≤ p → p < 8 → nestedPlane (t.cell s.self.cell).spad.bytes 0 p e = false) ∧
      ∀ f p, f ≠ e → p < 8 →
        nestedPlane (t.cell s.self.cell).spad.bytes 0 p f = nestedPlane (s.cell s.self.cell).spad.bytes 0 p f := by
  have wf := ((Bank.wf_iff _).1 ((Cell.wf_iff _).1 (State.cell_wf hm s.self.cell)).1).1
  have byte : leBytes (s.rx x).toNat 1 = [(s.rx x).truncate 8] :=
    congrArg (fun b : Byte => [b]) (BitVec.ofNat_toNat 8 (s.rx x))
  have write := State.writeBytes_view (s := s) (o := o) he (by omega) ho ((s.rx x).truncate 8)
  rw [← byte] at write
  have bytes (u : State) (hc : u.cells = (s.viewStored v e ((s.rx x).truncate 8)).cells) : (u.cell s.self.cell).spad.bytes =
      nestedPut (s.cell s.self.cell).spad.bytes 0 e v (clampNested v ((s.rx x).truncate 8).toInt) := by
    rw [State.cell, hc]
    exact State.viewStored_bytes (by omega) _
  obtain ⟨low, high⟩ := clampNested_bounds (v := v) ((s.rx x).truncate 8).toInt
  refine ⟨_, State.storeX_of_open hw free write, State.stored_finish (u := s.viewStored v e _) rfl rfl _ _, ?_⟩
  rw [bytes _ (State.stored_cells _ _ _)]
  refine ⟨planesValue_nestedPut wf 0 e (by omega) h8 low high, fun p hp h => ?_, fun f p hf h => ?_⟩
  · rw [nestedPlane_nestedPut wf 0 e v _ h, if_pos rfl, mantissaBit, if_neg (by omega)]
    rfl
  · rw [nestedPlane_nestedPut wf 0 e v _ h, if_neg hf]

end

/-! ## The word of view 9 (02 R41) -/

section
variable {f : Fmt} {m : Nat} {e : Int}

theorem splitAt_left {k : Int} (hk : k ≤ 0) : splitAt m k false = (m * 2 ^ (-k).toNat, .lt, false) := by
  unfold splitAt
  split
  · next s =>
    obtain rfl : s = 0 := by
      have : ((s : Nat) : Int) ≤ 0 := hk
      omega
    simp
  · next s =>
    have : (-Int.negSucc s).toNat = s + 1 := rfl
    rw [this]

/-- A number that the format holds is delivered as it is. -/
theorem roundPack_exact (rtz neg : Bool) (hm : m ≠ 0) (hw : f.weight m e ≤ e)
    (hx : m * 2 ^ (e + f.p + 125).toNat < f.lead * 2 ^ 254) :
    ∃ k, k < f.inf ∧ f.units k = m * 2 ^ (e + f.p + 125).toNat ∧ roundPack f rtz neg m e false = (withSign f neg k, 0) := by
  have fits := fits_splitAt (f := f) (e := e) (stands_self m) hm fun h => absurd h Bool.false_ne_true
  have left := splitAt_left (m := m) (k := f.weight m e - e) (by omega)
  rw [left] at fits
  have mantissa : roundSplit rtz (m * 2 ^ (-(f.weight m e - e)).toNat, Ordering.lt, false) = m * 2 ^ (-(f.weight m e - e)).toNat := by
    cases rtz <;> rfl
  have units := fits.units rtz
  rw [mantissa, Nat.mul_assoc, ← Nat.pow_add] at units
  have power : (-(f.weight m e - e)).toNat + f.shift m e = (e + f.p + 125).toNat := by
    have : -(f.p : Int) - 125 ≤ f.weight m e := by unfold Fmt.weight; omega
    unfold Fmt.shift
    omega
  rw [power] at units
  have top : f.units f.inf = f.lead * 2 ^ 254 := by
    rw [show f.inf = 254 * f.lead + f.lead by rw [f.inf_eq]; ring]
    exact Fmt.units_pack (by omega) (.inr (le_refl _))
  have short : f.packed rtz (f.shift m e) (m * 2 ^ (-(f.weight m e - e)).toNat, Ordering.lt, false) < f.inf := by
    by_contra h
    have := Fmt.units_le (f := f) (Nat.le_of_not_lt h)
    omega
  refine ⟨_, short, units, ?_⟩
  rw [roundPack_eq rtz neg hm, left]
  exact if_neg (Nat.not_le.2 short)

end

/-- The magnitude of an element of view 9 and its sign (02 R41). -/
theorem view9Word_eq {b : Memory} {vsb e : Nat} (h0 : (mget b (vsb + e / 4)).toNat ≠ 0) (h255 : (mget b (vsb + e / 4)).toNat ≠ 255) :
    ∃ k, k < Fmt.b32.inf ∧ Fmt.b32.units k = (nestedGet b 0 e 8).natAbs * 2 ^ ((mget b (vsb + e / 4)).toNat + 15) ∧
      view9Word b vsb e = withSign .b32 (decide (nestedGet b 0 e 8 < 0)) k := by
  obtain ⟨low, high⟩ := planesValue_bounds (nestedPlane b 0 · e) (by decide : 1 ≤ 8)
  rw [← nestedGet_eq b 0 e (by decide)] at low high
  have byte := (mget b (vsb + e / 4)).isLt
  unfold view9Word
  dsimp only
  rw [if_neg h0, if_neg h255]
  generalize (mget b (vsb + e / 4)).toNat = E at *
  generalize nestedGet b 0 e 8 = m at *
  show ∃ k, _ ∧ _ ∧ (roundPack .b32 false (decide (m < 0)) m.natAbs ((E : Int) - 134) false).1 = _
  by_cases zero : m = 0
  · subst zero
    exact ⟨0, by decide, by rw [Int.natAbs_zero, Nat.zero_mul]; decide, rfl⟩
  · have hm : m.natAbs ≠ 0 := by omega
    have small : m.natAbs ≤ 128 := by
      norm_num at low high
      omega
    have len : bitLen m.natAbs ≤ 8 := by
      obtain ⟨le, -, pos⟩ := bitLen_bounds hm
      by_contra long
      have : 2 ^ 8 ≤ 2 ^ (bitLen m.natAbs - 1) := Nat.pow_le_pow_right (by decide) (by omega)
      omega
    have place : ((E : Int) - 134 + (Fmt.b32.p : Int) + 125).toNat = E + 15 := by
      show ((E : Int) - 134 + (24 : Nat) + 125).toNat = E + 15
      omega
    have fits : m.natAbs * 2 ^ (E + 15) < Fmt.b32.lead * 2 ^ 254 := by
      have power : 2 ^ (E + 15) ≤ 2 ^ 15 * 2 ^ 254 := by
        rw [Nat.add_comm, Nat.pow_add]
        exact Nat.mul_le_mul_left _ (Nat.pow_le_pow_right (by decide) (by omega))
      have product := Nat.mul_le_mul small power
      have pos := Nat.two_pow_pos 254
      show _ < 2 ^ 23 * 2 ^ 254
      generalize 2 ^ 254 = Q at *
      omega
    have weight : Fmt.b32.weight m.natAbs ((E : Int) - 134) ≤ (E : Int) - 134 := by
      unfold Fmt.weight
      show max ((E : Int) - 134 + (bitLen m.natAbs : Int) - (24 : Nat)) (2 - 127 - (24 : Nat)) ≤ _
      omega
    obtain ⟨k, hk, units, word⟩ := roundPack_exact (f := .b32) false (decide (m < 0)) hm weight (by rw [place]; exact fits)
    rw [place] at units
    exact ⟨k, hk, units, by rw [word]⟩

section
variable {s : State} {ea : Word} {e : Nat} {o w : BitVec 2} {i : BitVec 12}

/-- The marks that a byte of view 8 meets: those of its group. -/
theorem Bank.viewBad_eight (b : Bank) (e : Nat) : b.viewBad 0 8 e 1 = b.bad (64 * (e / 64)) 64 := by
  show (b.bad (64 * (e / 64)) (64 * ((e + 1 - 1) / 64) + 64 - 64 * (e / 64)) || false) = _
  rw [Bool.or_false, Nat.add_sub_cancel, Nat.add_sub_cancel_left]

/-- The marks that a word of view 9 meets: those of its group and of its scale byte. -/
theorem Bank.viewBad_nine (b : Bank) (vsb e : Nat) :
    b.viewBad vsb 9 (4 * e) 4 = (b.bad (64 * (e / 64)) 64 || b.bad (vsb + e / 4) 1) := by
  have first : 4 * e / 4 = e := by omega
  have last : (4 * e + 4 - 1) / 4 = e := by omega
  show (b.bad (64 * (4 * e / 4 / 64)) (64 * ((4 * e + 4 - 1) / 4 / 64) + 64 - 64 * (4 * e / 4 / 64)) ||
    b.bad (vsb + 4 * e / 4 / 4) ((4 * e + 4 - 1) / 4 / 4 - 4 * e / 4 / 4 + 1)) = _
  rw [first, last, Nat.add_sub_cancel_left, Nat.sub_self]

theorem State.readBytes_view9 {strong : Bool} (he : ea.toNat = 0x0190_0000 + 4 * e) (ho : e < 0x4_0000)
    (hs : (s.cell s.self.cell).spad.bad (s.self.me.vsb.toNat + e / 4) 1 = false) (hb : (s.cell s.self.cell).spad.viewBad 0 8 e 1 = false)
    (hr : s.self.badRegs.contains (ek 3) = false) :
    s.readBytes ea 4 strong = .ok (s, leBytes (view9Word (s.cell s.self.cell).spad.bytes s.self.me.vsb.toNat e) 4) := by
  have place : region ea = .view 9 (4 * e) := region_view (by omega) (by decide) (by omega)
  have planes : (s.cell s.self.cell).spad.viewBad s.self.me.vsb.toNat 9 (4 * e) 4 = false := by
    rw [Bank.viewBad_nine, hs, Bool.or_false, ← Bank.viewBad_eight, hb]
  have load : viewLoad (s.cell s.self.cell).spad.bytes s.self.me.vsb.toNat 9 (4 * e) 4 =
      leBytes (view9Word (s.cell s.self.cell).spad.bytes s.self.me.vsb.toNat e) 4 := by
    rw [viewLoad, if_neg (by decide), if_pos rfl, leBytes_eq_map]
    refine List.map_congr_left fun k hk => ?_
    have : k < 4 := List.mem_range.1 hk
    dsimp only
    rw [show (4 * e + k) / 4 = e by omega, show (4 * e + k) % 4 = k by omega]
  unfold State.readBytes
  simp only [place]
  rw [if_neg (fun h => by rw [hr] at h; exact Bool.false_ne_true h.2), planes, if_neg Bool.false_ne_true, load]

/-- A word of view 9 loads its binary32 number. -/
theorem givesLoad_view9 {x a : BitVec 5} (he : (effAddr (s.rx a) i 4).toNat = 0x0190_0000 + 4 * e) (ho : e < 0x4_0000)
    (free : s.Open (effAddr (s.rx a) i 4) 4 false o w) (hs : (s.cell s.self.cell).spad.bad (s.self.me.vsb.toNat + e / 4) 1 = false)
    (hb : (s.cell s.self.cell).spad.viewBad 0 8 e 1 = false) (hr : s.self.badRegs.contains (ek 3) = false) :
    GivesLoad (.ldW x a o w i) s o x
      ((BitVec.ofNat 32 (view9Word (s.cell s.self.cell).spad.bytes s.self.me.vsb.toNat e)).signExtend 64) := by
  refine givesLoad_of_readBytes rfl free (State.readBytes_view9 he ho hs hb hr) ?_
  rw [extend_signed (leBytes_length _ _) (by decide) (by decide), leNat_leBytes]
  congr 1
  apply BitVec.eq_of_toNat_eq
  rw [BitVec.toNat_ofNat, BitVec.toNat_ofNat]
  exact Nat.mod_mod _ _

end

/-- The fields of a binary32 word, read as R41 says, are the magnitude in units and its sign. -/
theorem binary32_fields {k : Nat} (hk : k < Fmt.b32.inf) {z : Int} {d : Nat} (hu : Fmt.b32.units k = z.natAbs * 2 ^ d) :
    let u := BitVec.ofNat 32 (withSign .b32 (decide (z < 0)) k)
    let ex := u.toNat / 2 ^ 23 % 256
    let fr : Nat := u.toNat % 2 ^ 23
    ex < 255 ∧ (if 2 ^ 31 ≤ u.toNat then (-1 : Int) else 1) * (if ex = 0 then (fr : Int) else ((2 ^ 23 + fr : Nat) : Int) * 2 ^ (ex - 1)) =
      z * 2 ^ d ∧ (z = 0 → u = 0) := by
  have field : k / 2 ^ 23 < 255 := by
    rw [Nat.div_lt_iff_lt_mul (by decide)]
    exact hk
  have word : (BitVec.ofNat 32 (withSign .b32 (decide (z < 0)) k)).toNat = if z < 0 then k + 2 ^ 31 else k := by
    have : k < 255 * 2 ^ 23 := hk
    rw [BitVec.toNat_ofNat, Nat.mod_eq_of_lt (by unfold withSign; split <;> simp [Fmt.signBit, Fmt.p] <;> omega)]
    unfold withSign
    simp only [decide_eq_true_eq]
    rfl
  have magnitude : ((if k / 2 ^ 23 = 0 then ((k % 2 ^ 23 : Nat) : Int) else ((2 ^ 23 + k % 2 ^ 23 : Nat) : Int) * 2 ^ (k / 2 ^ 23 - 1)) : Int) =
      z.natAbs * 2 ^ d := by
    rw [show (z.natAbs : Int) * 2 ^ d = (Fmt.b32.units k : Nat) by rw [hu]; push_cast; rfl]
    unfold Fmt.units
    show _ = ((if k / 2 ^ 23 = 0 then k % 2 ^ 23 else (k % 2 ^ 23 + 2 ^ 23) * 2 ^ (k / 2 ^ 23 - 1) : Nat) : Int)
    split
    · rfl
    · push_cast; ring
  have small : k < 2 ^ 31 := hk.trans (by decide)
  dsimp only
  rw [word]
  have ex : (if z < 0 then k + 2 ^ 31 else k) / 2 ^ 23 % 256 = k / 2 ^ 23 := by split <;> omega
  have fr : (if z < 0 then k + 2 ^ 31 else k) % 2 ^ 23 = k % 2 ^ 23 := by split <;> omega
  have sign : (2 ^ 31 ≤ if z < 0 then k + 2 ^ 31 else k) ↔ z < 0 := by split <;> omega
  rw [ex, fr, magnitude]
  simp only [sign]
  refine ⟨field, ?_, ?_⟩
  · split
    · next neg => rw [Int.ofNat_natAbs_of_nonpos neg.le]; ring
    · next nonneg => rw [Int.natAbs_of_nonneg (by omega)]; ring
  · rintro rfl
    have zero : k = 0 := Fmt.units_inj (f := .b32) (by rw [hu, Int.natAbs_zero, Nat.zero_mul]; decide)
    subst zero
    rfl

theorem nestedPlane_zero (m : Memory) (p f : Nat) :
    nestedPlane m 0 p f = (mget m (64 * (f / 64) + 8 * p + f % 64 / 8)).getLsbD (f % 8) := by
  unfold nestedPlane nestedAt
  rw [Nat.zero_add]

/-- Settles O24: a byte of a view reads and writes the planes of its element, and a word of view 9 is its exact number. -/
theorem nestedViews : Obligations.NestedViews := by
  intro x a o w i v e s ho h2 h8 he ea b at_ plane value
  have planes (m : Memory) (p f : Nat) : nestedPlane m 0 p f = plane m p f := nestedPlane_zero m p f
  have values (v : Nat) (m : Memory) (f : Nat) : planesValue (nestedPlane m 0 · f) v = value v m f := by
    unfold planesValue
    simp only [planes]
    rfl
  refine ⟨fun place => ⟨fun free good => ?_, fun free wf => ?_⟩, fun place small free scale good reg => ?_⟩
  · rw [← values]
    exact givesLoad_view place h2 h8 he free good
  · obtain ⟨t, step, stored, mantissa, above, others⟩ := exec_stB_view (x := x) ho place h2 h8 he free wf
    simp only [planes] at mantissa above others
    exact ⟨t, step, stored, mantissa, above, others⟩
  · refine ⟨_, givesLoad_view9 place small free scale good reg, fun zero => ?_, fun nan => ?_, fun h0 h255 => ?_⟩
    · unfold view9Word
      dsimp only
      rw [if_pos zero]
      rfl
    · unfold view9Word
      dsimp only
      rw [if_neg (by rw [nan]; decide), if_pos nan]
      rfl
    · obtain ⟨k, hk, units, word⟩ := view9Word_eq (b := b.bytes) (vsb := s.self.me.vsb.toNat) (e := e) (by omega) (by omega)
      rw [word, ← values, ← nestedGet_eq _ _ _ (by decide)]
      exact binary32_fields hk units

end Sys2Proof.Machine
end

section
/-! PROOFS. The end of a matrix operation that meets poison: it files a report (07 R163; 12 R260; 20 R361). -/

namespace Sys2Proof.Machine

/-! ## The next identity after the steps of a retirement -/

theorem State.fresh_mergeFlags (s : State) (x : Nat) (f : FFlags) : (s.mergeFlags x f).fresh = s.fresh := by
  unfold State.mergeFlags
  split <;> rfl

theorem State.fresh_chargeNow (s : State) (cell : Nat) (entry : Option Nat) (units rolled : Nat) :
    (s.chargeNow cell entry units rolled).fresh = s.fresh := by
  unfold State.chargeNow
  split
  · rfl
  · split <;> rfl

/-- A report takes one identity. -/
theorem State.fresh_reportOp (s : State) (cell : Nat) (o : EngOp) (code : Byte) (src : Nat) (info : Word) :
    (s.reportOp cell o code src info).fresh = s.fresh + 1 := by
  unfold State.reportOp
  split
  rw [State.report_rest]

theorem State.matrixDone_of_no_command (s : State) (cell : Nat) {o : EngOp} (fl : FFlags) (h : o.command = none) :
    s.matrixDone cell o fl = s := by
  simp [State.matrixDone, h]

theorem State.fresh_wakeTile (s : State) (cell : Nat) : (s.wakeTile cell).fresh = s.fresh := rfl

/-- An operation that ends after it met poison takes an identity for its report. -/
theorem execEngineOpRetire_fresh_of_bad {cell : Nat} {conv : Bool} {s t : State} {o : EngOp} {z : Nat}
    (hd : (s.cell cell).head conv = some o) (hz : o.endAt = some z) (hnow : z ≤ s.cyc (dieOfCell cell))
    (hl : o.kind ≠ .swapLoad) (hr : o.kind ≠ .swapRot) (hc : o.command = none)
    (hb : ((s.cell cell).runOp o.kind).2.2 = true) (ht : exec (.engineOpRetire cell conv) s = .next t) : t.fresh = s.fresh + 1 := by
  change execEngineOpRetire cell conv s = .next t at ht
  simp only [execEngineOpRetire, hd, hz, hl, hr, hb, or_false, Nat.not_lt.2 hnow, if_false, if_true,
    State.matrixDone_of_no_command _ _ _ hc, Host.Outcome.next.injEq] at ht
  subst ht
  rw [State.fresh_wakeTile, State.fresh_chargeNow, State.fresh_reportOp]
  split
  · rw [State.fresh_mergeFlags]; rfl
  · rfl

/-- A store of a tile meets poison when a pair of the tile is marked (20 R361). -/
theorem Cell.runOp_msta_bad {c : Cell} {tile off p : Nat} (hp : p ∈ c.tilePoison) (ht : p / 4096 = tile) :
    (c.runOp (.msta tile off)).2.2 = true := by
  have : ∃ q ∈ c.tilePoison, q / 4096 = tile := ⟨p, hp, ht⟩
  simpa [Cell.runOp, Cell.runMsta, List.filter_eq_nil_iff] using this

/-! ## Where the statement fails -/

/-- Cell 0 at the end of an `msta` of tile 0, whose first pair of elements is poisoned. -/
def poisonedStore : State :=
  { State.reset with cells := [(0, { mq := [{ kind := .msta 0 0, endAt := some 0 }], tilePoison := [0] })] }

/-- Refutes O36: the tile's poison mark goes to the scratchpad with its pair and the operation is reported, so the reports change
too, which the clause of `msta` excludes (the clauses of `mma` and `mlda` ask for operands without poison, this one does not). -/
theorem not_engineOperations : ¬ Obligations.EngineOperations := by
  intro h
  obtain ⟨-, hend, -⟩ := h 0 0 false poisonedStore
  obtain ⟨-, -, -, hmsta⟩ := hend { kind := .msta 0 0, endAt := some 0 } [] 0 rfl rfl rfl (Nat.zero_le _) rfl
  obtain ⟨t, ht, hframe, -⟩ := hmsta 0 0 rfl (by decide)
  have hreported : t.fresh = poisonedStore.fresh + 1 :=
    execEngineOpRetire_fresh_of_bad (o := { kind := .msta 0 0, endAt := some 0 }) rfl rfl (Nat.zero_le _) (by decide) (by decide) rfl
      (Cell.runOp_msta_bad (List.mem_singleton_self 0) rfl) ht
  have hkept : t.fresh = poisonedStore.fresh := by rw [hframe]
  omega

end Sys2Proof.Machine
end

section
/-! PROOFS. The decoder and the encoder are inverse on the words of well-formed instructions (03 R45-R48, R51, R52). -/

namespace Sys2Proof

open Laws

/-! ## Words and their bytes (R45) -/

theorem wordOfBytes_fld (w : IWord) : wordOfBytes (fld w 0 8) (fld w 8 8) (fld w 16 8) (fld w 24 8) = w := by
  unfold wordOfBytes fld
  rw [BitVec.extractLsb'_append_extractLsb'_eq_extractLsb' (by rfl), BitVec.extractLsb'_append_extractLsb'_eq_extractLsb' (by rfl),
    BitVec.extractLsb'_append_extractLsb'_eq_extractLsb' (by rfl)]
  exact BitVec.extractLsb'_eq_self

open WordReadsBack in
theorem bytesOfWord_wordOfBytes (b0 b1 b2 b3 : Byte) : bytesOfWord (wordOfBytes b0 b1 b2 b3) = [b0, b1, b2, b3] := by
  have h0 : fld (wordOfBytes b0 b1 b2 b3) 0 8 = b0 := own
  have h1 : fld (wordOfBytes b0 b1 b2 b3) 8 8 = b1 := hi own
  have h2 : fld (wordOfBytes b0 b1 b2 b3) 16 8 = b2 := hi (hi own)
  have h3 : fld (wordOfBytes b0 b1 b2 b3) 24 8 = b3 := hi (hi (hi BitVec.extractLsb'_eq_self))
  rw [bytesOfWord, h0, h1, h2, h3]

/-- What `decode` makes of the bytes of a word is what `decodeWord` makes of the word. -/
theorem decode_bytesOfWord_append (w : IWord) (rest : List Byte) :
    decode (bytesOfWord w ++ rest) = (decodeWord w).map (·, rest) := by
  change decode (fld w 0 8 :: fld w 8 8 :: fld w 16 8 :: fld w 24 8 :: rest) = _
  rw [decode, wordOfBytes_fld]
  cases decodeWord w <;> rfl

/-- Bytes that decode are a word that decodes and what follows it. -/
theorem decode_eq_ok_iff {bytes rest : List Byte} {i : Instr} :
    decode bytes = .ok (i, rest) ↔ ∃ w, decodeWord w = .ok i ∧ bytes = bytesOfWord w ++ rest := by
  constructor
  · intro h
    match bytes with
    | b0 :: b1 :: b2 :: b3 :: tail =>
      have e : b0 :: b1 :: b2 :: b3 :: tail = bytesOfWord (wordOfBytes b0 b1 b2 b3) ++ tail := by
        rw [bytesOfWord_wordOfBytes]; rfl
      rw [e, decode_bytesOfWord_append] at h
      cases hd : decodeWord (wordOfBytes b0 b1 b2 b3) with
      | error r => simp [hd, Except.map] at h
      | ok j =>
        obtain ⟨rfl, rfl⟩ : j = i ∧ tail = rest := by simpa [hd, Except.map] using h
        exact ⟨_, hd, e⟩
  · rintro ⟨w, hw, rfl⟩
    rw [decode_bytesOfWord_append, hw]
    rfl

theorem encodeBytes_of_encode {i : Instr} {w : IWord} (h : encode i = some w) : encodeBytes i = bytesOfWord w := by
  simp [encodeBytes, h]

/-! ## The tables of the decoder (R46-R48, R51) -/

/-- The tables of the decoder read every instruction's own word: the law of each instruction with a word, and nothing to show
for the steps of other units, which have none. -/
theorem rawDecode_of_encode (i : Instr) : WordReadsBack.Statement i := by
  cases i with
  | add => exact WordReadsBack.add _ _ _
  | sub => exact WordReadsBack.sub _ _ _
  | and => exact WordReadsBack.and _ _ _
  | or => exact WordReadsBack.or _ _ _
  | xor => exact WordReadsBack.xor _ _ _
  | shl => exact WordReadsBack.shl _ _ _
  | shr => exact WordReadsBack.shr _ _ _
  | sra => exact WordReadsBack.sra _ _ _
  | slt => exact WordReadsBack.slt _ _ _
  | sltu => exact WordReadsBack.sltu _ _ _
  | min => exact WordReadsBack.min _ _ _
  | max => exact WordReadsBack.max _ _ _
  | minu => exact WordReadsBack.minu _ _ _
  | maxu => exact WordReadsBack.maxu _ _ _
  | mul => exact WordReadsBack.mul _ _ _
  | mulh => exact WordReadsBack.mulh _ _ _
  | mulhu => exact WordReadsBack.mulhu _ _ _
  | div => exact WordReadsBack.div _ _ _
  | divu => exact WordReadsBack.divu _ _ _
  | rem => exact WordReadsBack.rem _ _ _
  | remu => exact WordReadsBack.remu _ _ _
  | clz => exact WordReadsBack.clz _ _
  | ctz => exact WordReadsBack.ctz _ _
  | popc => exact WordReadsBack.popc _ _
  | bfx => exact WordReadsBack.bfx _ _ _
  | bfi => exact WordReadsBack.bfi _ _ _
  | sext => exact WordReadsBack.sext _ _ _
  | zext => exact WordReadsBack.zext _ _ _
  | addi => exact WordReadsBack.addi _ _ _
  | andi => exact WordReadsBack.andi _ _ _
  | ori => exact WordReadsBack.ori _ _ _
  | xori => exact WordReadsBack.xori _ _ _
  | slti => exact WordReadsBack.slti _ _ _
  | shli => exact WordReadsBack.shli _ _ _
  | shri => exact WordReadsBack.shri _ _ _
  | srai => exact WordReadsBack.srai _ _ _
  | lui => exact WordReadsBack.lui _ _
  | addpc => exact WordReadsBack.addpc _ _
  | beq => exact WordReadsBack.beq _ _ _
  | bne => exact WordReadsBack.bne _ _ _
  | blt => exact WordReadsBack.blt _ _ _
  | bge => exact WordReadsBack.bge _ _ _
  | bltu => exact WordReadsBack.bltu _ _ _
  | bgeu => exact WordReadsBack.bgeu _ _ _
  | jal => exact WordReadsBack.jal _ _
  | jalr => exact WordReadsBack.jalr _ _ _
  | ldB => exact WordReadsBack.ldB _ _ _ _ _
  | ldH => exact WordReadsBack.ldH _ _ _ _ _
  | ldW => exact WordReadsBack.ldW _ _ _ _ _
  | ldD => exact WordReadsBack.ldD _ _ _ _ _
  | ldDTake => exact WordReadsBack.ldDTake _ _ _ _
  | ldBu => exact WordReadsBack.ldBu _ _ _ _ _
  | ldHu => exact WordReadsBack.ldHu _ _ _ _ _
  | ldWu => exact WordReadsBack.ldWu _ _ _ _ _
  | stB => exact WordReadsBack.stB _ _ _ _ _
  | stH => exact WordReadsBack.stH _ _ _ _ _
  | stW => exact WordReadsBack.stW _ _ _ _ _
  | stD => exact WordReadsBack.stD _ _ _ _ _
  | stDGive => exact WordReadsBack.stDGive _ _ _ _
  | ldvEq => exact WordReadsBack.ldvEq _ _ _
  | ldvLe => exact WordReadsBack.ldvLe _ _ _
  | stv => exact WordReadsBack.stv _ _ _
  | amoAdd => exact WordReadsBack.amoAdd _ _ _ _ _ _
  | amoMin => exact WordReadsBack.amoMin _ _ _ _ _ _
  | amoMax => exact WordReadsBack.amoMax _ _ _ _ _ _
  | amoAnd => exact WordReadsBack.amoAnd _ _ _ _ _ _
  | amoOr => exact WordReadsBack.amoOr _ _ _ _ _ _
  | amoXor => exact WordReadsBack.amoXor _ _ _ _ _ _
  | amoSwp => exact WordReadsBack.amoSwp _ _ _ _ _
  | amoCas => exact WordReadsBack.amoCas _ _ _ _ _
  | fenceCell => exact WordReadsBack.fenceCell
  | fenceDom => exact WordReadsBack.fenceDom
  | fenceDie => exact WordReadsBack.fenceDie
  | fenceMod => exact WordReadsBack.fenceMod
  | fenceSys => exact WordReadsBack.fenceSys
  | fenceX => exact WordReadsBack.fenceX
  | flagf => exact WordReadsBack.flagf _ _
  | barArv => exact WordReadsBack.barArv _ _
  | barWt => exact WordReadsBack.barWt _ _
  | barAw => exact WordReadsBack.barAw _ _
  | barExp => exact WordReadsBack.barExp _ _
  | inv => exact WordReadsBack.inv _ _ _
  | wb => exact WordReadsBack.wb _ _ _
  | wbinv => exact WordReadsBack.wbinv _ _ _
  | pf => exact WordReadsBack.pf _ _ _
  | vadd => exact WordReadsBack.vadd _ _ _ _ _ _ _
  | vsub => exact WordReadsBack.vsub _ _ _ _ _ _ _
  | vmul => exact WordReadsBack.vmul _ _ _ _ _ _ _
  | vfma => exact WordReadsBack.vfma _ _ _ _ _ _
  | vmin => exact WordReadsBack.vmin _ _ _ _ _ _
  | vmax => exact WordReadsBack.vmax _ _ _ _ _ _
  | vand => exact WordReadsBack.vand _ _ _ _
  | vor => exact WordReadsBack.vor _ _ _ _
  | vxor => exact WordReadsBack.vxor _ _ _ _
  | vshl => exact WordReadsBack.vshl _ _ _ _ _
  | vshr => exact WordReadsBack.vshr _ _ _ _ _
  | vsra => exact WordReadsBack.vsra _ _ _ _ _
  | vcmp => exact WordReadsBack.vcmp _ _ _ _ _ _
  | vsel => exact WordReadsBack.vsel _ _ _ _ _
  | vabs => exact WordReadsBack.vabs _ _ _ _ _
  | vneg => exact WordReadsBack.vneg _ _ _ _ _
  | vcvt => exact WordReadsBack.vcvt _ _ _ _ _
  | vcvtRtz => exact WordReadsBack.vcvtRtz _ _ _ _ _
  | vrcp => exact WordReadsBack.vrcp _ _ _ _ _
  | vrsq => exact WordReadsBack.vrsq _ _ _ _ _
  | vexp => exact WordReadsBack.vexp _ _ _ _ _
  | vlog => exact WordReadsBack.vlog _ _ _ _ _
  | vbcast => exact WordReadsBack.vbcast _ _ _ _
  | vext => exact WordReadsBack.vext _ _ _ _
  | vins => exact WordReadsBack.vins _ _ _ _
  | vperm => exact WordReadsBack.vperm _ _ _ _ _
  | vred => exact WordReadsBack.vred _ _ _ _ _ _
  | vld => exact WordReadsBack.vld _ _ _ _ _
  | vst => exact WordReadsBack.vst _ _ _ _ _
  | vgth => exact WordReadsBack.vgth _ _ _ _ _ _
  | vsct => exact WordReadsBack.vsct _ _ _ _ _ _
  | pand => exact WordReadsBack.pand _ _ _
  | por => exact WordReadsBack.por _ _ _
  | pxor => exact WordReadsBack.pxor _ _ _
  | pnot => exact WordReadsBack.pnot _ _
  | pset => exact WordReadsBack.pset _ _
  | psetX => exact WordReadsBack.psetX _ _
  | pcnt => exact WordReadsBack.pcnt _ _ _
  | mma => exact WordReadsBack.mma _ _ _
  | mzero => exact WordReadsBack.mzero _
  | mldb => exact WordReadsBack.mldb _ _
  | mrot => exact WordReadsBack.mrot
  | mlda => exact WordReadsBack.mlda _ _
  | msta => exact WordReadsBack.msta _ _
  | mset => exact WordReadsBack.mset _ _
  | mget => exact WordReadsBack.mget _ _
  | qcvt => exact WordReadsBack.qcvt _ _ _
  | qchk => exact WordReadsBack.qchk _ _ _
  | qchkW => exact WordReadsBack.qchkW _ _
  | qstat => exact WordReadsBack.qstat _ _
  | cpy => exact WordReadsBack.cpy _ _ _ _
  | cpg => exact WordReadsBack.cpg _ _ _ _
  | cps => exact WordReadsBack.cps _ _ _ _
  | cpr => exact WordReadsBack.cpr _ _ _ _
  | cpq => exact WordReadsBack.cpq _
  | snd => exact WordReadsBack.snd _
  | rcv => exact WordReadsBack.rcv _ _
  | wmsg => exact WordReadsBack.wmsg _ _
  | pkmsg => exact WordReadsBack.pkmsg _ _
  | lacqSp => exact WordReadsBack.lacqSp _ _ _
  | lacqAcc => exact WordReadsBack.lacqAcc _ _ _
  | lacqCls => exact WordReadsBack.lacqCls _ _ _
  | lacqL2 => exact WordReadsBack.lacqL2 _ _ _
  | lacqPage => exact WordReadsBack.lacqPage _ _ _
  | lacqPath => exact WordReadsBack.lacqPath _ _ _
  | lacqGrp => exact WordReadsBack.lacqGrp _ _ _
  | renew => exact WordReadsBack.renew _ _
  | life => exact WordReadsBack.life _ _
  | llk => exact WordReadsBack.llk _ _ _
  | lgen => exact WordReadsBack.lgen _ _
  | lpar => exact WordReadsBack.lpar _ _ _
  | optOn => exact WordReadsBack.optOn _ _
  | optOff => exact WordReadsBack.optOff _
  | ckpt => exact WordReadsBack.ckpt _ _ _
  | rbret => exact WordReadsBack.rbret
  | capld => exact WordReadsBack.capld _ _
  | capst => exact WordReadsBack.capst _ _
  | capnar => exact WordReadsBack.capnar _ _ _
  | capsetCur => exact WordReadsBack.capsetCur _ _ _
  | capsetPerm => exact WordReadsBack.capsetPerm _ _ _
  | capsetMint => exact WordReadsBack.capsetMint _ _ _
  | capget => exact WordReadsBack.capget _ _ _
  | go => exact WordReadsBack.go _ _
  | home => exact WordReadsBack.home
  | rld => exact WordReadsBack.rld _ _ _ _ _ _
  | rst => exact WordReadsBack.rst _ _ _ _ _ _
  | ramoAdd => exact WordReadsBack.ramoAdd _ _ _ _ _ _
  | ramoMin => exact WordReadsBack.ramoMin _ _ _ _ _ _
  | ramoMax => exact WordReadsBack.ramoMax _ _ _ _ _ _
  | ramoAnd => exact WordReadsBack.ramoAnd _ _ _ _ _ _
  | ramoOr => exact WordReadsBack.ramoOr _ _ _ _ _ _
  | ramoXor => exact WordReadsBack.ramoXor _ _ _ _ _ _
  | ramoSwp => exact WordReadsBack.ramoSwp _ _ _ _ _
  | ramoCas => exact WordReadsBack.ramoCas _ _ _ _ _
  | csrr => exact WordReadsBack.csrr _ _
  | csrw => exact WordReadsBack.csrw _ _ _
  | csrs => exact WordReadsBack.csrs _ _ _
  | csrc => exact WordReadsBack.csrc _ _ _
  | trap => exact WordReadsBack.trap _
  | eret => exact WordReadsBack.eret
  | halt => exact WordReadsBack.halt
  | yield => exact WordReadsBack.yield
  | idle => exact WordReadsBack.idle _ _
  | spawn => exact WordReadsBack.spawn _ _ _
  | brk => exact WordReadsBack.brk _
  | budx => exact WordReadsBack.budx _ _
  | bget => exact WordReadsBack.bget _ _
  | _ => exact WordReadsBack.noWord rfl

/-- A word decodes to an instruction exactly when it is the word of that instruction, well formed. -/
theorem decodeWord_eq_ok_iff {w : IWord} {i : Instr} : decodeWord w = .ok i ↔ encode i = some w ∧ i.wf = true := by
  constructor
  · intro h
    unfold decodeWord at h
    split at h
    · cases h
    · split_ifs at h with unused wf
      obtain rfl := Except.ok.inj h
      exact ⟨not_not.1 unused, wf⟩
  · rintro ⟨own, wf⟩
    simp [decodeWord, rawDecode_of_encode i w own wf, own, wf]

/-- Of two words that differ, each names another instruction. -/
theorem decodeWord_injective {w v : IWord} {i : Instr} (hw : decodeWord w = .ok i) (hv : decodeWord v = .ok i) : w = v :=
  have ownW : encode i = some w := (decodeWord_eq_ok_iff.1 hw).1
  have ownV : encode i = some v := (decodeWord_eq_ok_iff.1 hv).1
  Option.some.inj (ownW.symm.trans ownV)

/-- The majors that R51 reserves name no instruction (R52). -/
theorem decodeWord_of_reserved_major {w : IWord}
    (h : w.toNat / 2 ^ 26 = 0 ∨ (0x33 ≤ w.toNat / 2 ^ 26 ∧ w.toNat / 2 ^ 26 ≤ 0x37) ∨ 0x3A ≤ w.toNat / 2 ^ 26) :
    decodeWord w = .error (.unassigned w) := by
  have major : (fld w 26 6).toNat = w.toNat / 2 ^ 26 := by
    rw [fld, BitVec.extractLsb'_toNat, Nat.shiftRight_eq_div_pow]
    omega
  have bound := (fld w 26 6).isLt
  rw [← major] at h
  have raw : rawDecode w = none := by
    unfold rawDecode
    generalize (fld w 26 6).toNat = m at h bound
    obtain rfl | h | h := h
    · rfl
    · obtain ⟨_, _⟩ := h
      interval_cases m <;> rfl
    · interval_cases m <;> rfl
  simp [decodeWord, raw]

/-! ## The statements -/

/-- Settles O55: `decodeWord` answers an instruction exactly for its own word (`decodeWord_eq_ok_iff`), and bytes that decode are the bytes
of a word that does (`decode_eq_ok_iff`). -/
theorem decodeOfEncode : Obligations.DecodeOfEncode := by
  refine ⟨fun i w rest own wf => ?_, fun i bytes rest h => ?_⟩
  · have word : decodeWord w = .ok i := decodeWord_eq_ok_iff.2 ⟨own, wf⟩
    exact ⟨word, decode_eq_ok_iff.2 ⟨w, word, by rw [encodeBytes_of_encode own]⟩⟩
  · obtain ⟨w, word, rfl⟩ := decode_eq_ok_iff.1 h
    obtain ⟨own, wf⟩ := decodeWord_eq_ok_iff.1 word
    exact ⟨wf, by simp [own], by rw [encodeBytes_of_encode own]⟩

/-- Refutes O56, in one of its words: the spec's example `mma a2, x12, x13` writes the accumulator first (03, the ENG line), where the
model's `mma` takes xa, xb and the accumulator in the order of their fields. So the word stands for `.mma 12 13 2`, and the statement's
`.mma 2 12 13` is another instruction. The clauses on reserved majors and on two words of one instruction hold
(`decodeWord_of_reserved_major`, `decodeWord_injective`). -/
theorem not_wordsOfTheSpec : ¬ Obligations.WordsOfTheSpec := by
  rintro ⟨⟨-, -, -, -, -, -, -, -, -, claimed, -⟩, -⟩
  have decoded : decodeWord 0xA431A200#32 = .ok (.mma 12 13 2) := rfl
  obtain ⟨xa, -, -⟩ := Instr.mma.inj (Except.ok.inj (decoded.symm.trans claimed))
  exact absurd xa (by decide)

end Sys2Proof
end

section
/-! PROOFS. The integer operations, the branches and the jumps: the model's values as the numbers of the tables (04 R64-R75). -/

set_option Elab.async false

namespace Sys2Proof.Machine

/-! ## Words as numbers modulo 2^64 (02 R27) -/

theorem wrap_toInt (x : Word) : wrap x.toInt = x := BitVec.ofInt_toInt

theorem wrap_add (m n : Int) : wrap (m + n) = wrap m + wrap n := BitVec.ofInt_add m n

theorem wrap_mul (m n : Int) : wrap (m * n) = wrap m * wrap n := BitVec.ofInt_mul m n

theorem wrap_sub (m n : Int) : wrap (m - n) = wrap m - wrap n := by
  rw [eq_sub_iff_add_eq, ← wrap_add, Int.sub_add_cancel]

theorem eq_ofNat_of_toNat_eq {x : Word} {n : Nat} (h : x.toNat = n) : x = BitVec.ofNat 64 n := by
  rw [← h, BitVec.ofNat_toNat, BitVec.setWidth_eq]

/-! ## Sums, products and shifts (R65, R66) -/

theorem add_eq_wrap (x y : Word) : x + y = wrap (x.toInt + y.toInt) := by rw [wrap_add, wrap_toInt, wrap_toInt]

theorem sub_eq_wrap (x y : Word) : x - y = wrap (x.toInt - y.toInt) := by rw [wrap_sub, wrap_toInt, wrap_toInt]

theorem mul_eq_wrap (x y : Word) : x * y = wrap (x.toInt * y.toInt) := by rw [wrap_mul, wrap_toInt, wrap_toInt]

theorem shiftLeft_eq_ofNat (x : Word) (n : Nat) : x <<< n = BitVec.ofNat 64 (x.toNat * 2 ^ n) := by
  apply BitVec.eq_of_toNat_eq
  rw [BitVec.toNat_shiftLeft, BitVec.toNat_ofNat, Nat.shiftLeft_eq]

theorem ushiftRight_eq_ofNat (x : Word) (n : Nat) : x >>> n = BitVec.ofNat 64 (x.toNat / 2 ^ n) :=
  eq_ofNat_of_toNat_eq (by rw [BitVec.toNat_ushiftRight, Nat.shiftRight_eq_div_pow])

theorem sshiftRight_eq_wrap (x : Word) (n : Nat) : x.sshiftRight n = wrap (x.toInt / 2 ^ n) := by
  have e : x.sshiftRight n = wrap (x.toInt >>> n) := rfl
  rw [e, Int.shiftRight_eq_div_pow, Nat.cast_pow, Nat.cast_ofNat]

/-! ## Comparisons (R65) -/

theorem ite_slt {α : Type} (x y : Word) (u v : α) : (if x.slt y then u else v) = if x.toInt < y.toInt then u else v :=
  if_congr BitVec.slt_iff_toInt_lt rfl rfl

theorem ite_ult {α : Type} (x y : Word) (u v : α) : (if x.ult y then u else v) = if x.toNat < y.toNat then u else v :=
  if_congr BitVec.ult_iff_lt rfl rfl

/-- A choice between two words by the order of two numbers that they stand for is a minimum or maximum of the numbers. -/
theorem ite_lt_eq_min {α : Type} [LinearOrder α] {f : α → Word} {x y : Word} {m n : α} (hx : f m = x) (hy : f n = y) :
    (if m < n then x else y) = f (min m n) := by
  rw [min_def_lt, apply_ite f, hx, hy]

theorem ite_lt_eq_max {α : Type} [LinearOrder α] {f : α → Word} {x y : Word} {m n : α} (hx : f m = x) (hy : f n = y) :
    (if m < n then y else x) = f (max m n) := by
  rw [max_def_lt, apply_ite f, hx, hy]

/-! ## Quotients (R67) -/

theorem divU_eq (x y : Word) : divU x y = if y = 0 then wrap (-1) else BitVec.ofNat 64 (x.toNat / y.toNat) :=
  if_congr Iff.rfl rfl (eq_ofNat_of_toNat_eq BitVec.toNat_udiv)

theorem remU_eq (x y : Word) : remU x y = if y = 0 then x else BitVec.ofNat 64 (x.toNat % y.toNat) :=
  if_congr Iff.rfl rfl (eq_ofNat_of_toNat_eq BitVec.toNat_umod)

/-! ## Giving a value that another expression names -/

theorem givesX_of_eq {i : Instr} {s : State} {d : BitVec 5} {u v : Word} (h : exec i s = s.result d u) (e : u = v) : GivesX i s d v :=
  givesX_of_result (e ▸ h)

/-- Settles O1: the model's value of each operation is the table's number. -/
theorem registerOperations : Obligations.RegisterOperations := by
  intro d a b s
  have toNat (w : Word) : BitVec.ofNat 64 w.toNat = w := (eq_ofNat_of_toNat_eq rfl).symm
  refine ⟨?add, ?sub, ?and, ?or, ?xor, ?shl, ?shr, ?sra, ?slt, ?sltu, ?min, ?max, ?minu, ?maxu, ?mul, ?mulh, ?mulhu, ?div, ?divu,
    ?rem, ?remu⟩
  case add => exact givesX_of_eq rfl (add_eq_wrap _ _)
  case sub => exact givesX_of_eq rfl (sub_eq_wrap _ _)
  case and => exact givesX_of_result rfl
  case or => exact givesX_of_result rfl
  case xor => exact givesX_of_result rfl
  case shl => exact givesX_of_eq rfl (shiftLeft_eq_ofNat _ _)
  case shr => exact givesX_of_eq rfl (ushiftRight_eq_ofNat _ _)
  case sra => exact givesX_of_eq rfl (sshiftRight_eq_wrap _ _)
  case slt => exact givesX_of_eq rfl (ite_slt _ _ _ _)
  case sltu => exact givesX_of_eq rfl (ite_ult _ _ _ _)
  case min => exact givesX_of_eq rfl ((ite_slt _ _ _ _).trans (ite_lt_eq_min (wrap_toInt _) (wrap_toInt _)))
  case max => exact givesX_of_eq rfl ((ite_slt _ _ _ _).trans (ite_lt_eq_max (wrap_toInt _) (wrap_toInt _)))
  case minu => exact givesX_of_eq rfl ((ite_ult _ _ _ _).trans (ite_lt_eq_min (toNat _) (toNat _)))
  case maxu => exact givesX_of_eq rfl ((ite_ult _ _ _ _).trans (ite_lt_eq_max (toNat _) (toNat _)))
  case mul => exact givesX_of_eq rfl (mul_eq_wrap _ _)
  case mulh => exact givesX_of_result rfl
  case mulhu => exact givesX_of_result rfl
  case div => exact givesX_of_result rfl
  case divu => exact givesX_of_eq rfl (divU_eq _ _)
  case rem => exact givesX_of_result rfl
  case remu => exact givesX_of_eq rfl (remU_eq _ _)

/-! ## Counting (R65) -/

theorem countLead_le (x : Word) : countLead x ≤ 64 := Nat.sub_le _ _

theorem bitLen_le {x : Word} : bitLen x.toNat ≤ 64 := by
  unfold bitLen
  split
  · omega
  · exact (Nat.log2_lt ‹_›).2 x.isLt

/-- The bits that `clz` passes over from the top are zero. -/
theorem countLead_zeros (x : Word) {k : Nat} (h : k < countLead x) : x.getLsbD (63 - k) = false := by
  unfold countLead bitLen at h
  apply Nat.testBit_lt_two_pow
  by_cases hx : x.toNat = 0
  · rw [hx]; exact Nat.two_pow_pos _
  · rw [if_neg hx] at h
    exact (Nat.log2_lt hx).1 (by omega)

/-- The bit at which `clz` stops is one. -/
theorem countLead_one (x : Word) (h : countLead x < 64) : x.getLsbD (63 - countLead x) = true := by
  have small := bitLen_le (x := x)
  unfold countLead at *
  by_cases hx : x.toNat = 0
  · rw [bitLen, if_pos hx] at h
    omega
  · have len : bitLen x.toNat = x.toNat.log2 + 1 := if_neg hx
    have place : 63 - (64 - bitLen x.toNat) = x.toNat.log2 := by omega
    rw [place]
    exact Nat.testBit_log2 hx

/-- The search for the lowest one bit from bit `k` on, over `n` bits. -/
theorem trailFrom_spec (x : Word) (n k : Nat) : k ≤ trailFrom x n k ∧ trailFrom x n k ≤ k + n ∧
    (∀ i, k ≤ i → i < trailFrom x n k → x.getLsbD i = false) ∧ (trailFrom x n k < k + n → x.getLsbD (trailFrom x n k) = true) := by
  induction n generalizing k with
  | zero => exact ⟨Nat.le_refl k, Nat.le_refl k, fun i h1 h2 => absurd h1 (Nat.not_le.2 h2), fun h => absurd h (Nat.lt_irrefl k)⟩
  | succ n ih =>
    unfold trailFrom
    split
    · exact ⟨Nat.le_refl k, by omega, fun i h1 h2 => absurd h1 (Nat.not_le.2 h2), fun _ => ‹_›⟩
    · rename_i zero
      obtain ⟨low, high, zeros, one⟩ := ih (k + 1)
      refine ⟨by omega, by omega, fun i h1 h2 => ?_, fun h => one (by omega)⟩
      by_cases hi : i = k
      · rw [hi]; exact Bool.not_eq_true _ ▸ zero
      · exact zeros i (by omega) h2

/-! ## Bit fields (R68) -/

theorem getLsbD_fieldMask (y : Word) {k : Nat} (hk : k < 64) : (fieldMask y).getLsbD k = decide (k < fieldLen y) := by
  rw [fieldMask, BitVec.getLsbD_ofNat, Nat.testBit_two_pow_sub_one, decide_eq_true hk, Bool.true_and]

theorem getLsbD_bfxVal (x y : Word) {k : Nat} (hk : k < 64) :
    (bfxVal x y).getLsbD k = (decide (k < fieldLen y) && x.getLsbD (fieldPos y + k)) := by
  rw [bfxVal, BitVec.getLsbD_and, BitVec.getLsbD_ushiftRight, getLsbD_fieldMask y hk, Bool.and_comm]

theorem getLsbD_bfiVal (z x y : Word) {k : Nat} (hk : k < 64) : (bfiVal z x y).getLsbD k =
    if fieldPos y ≤ k ∧ k < fieldPos y + fieldLen y then x.getLsbD (k - fieldPos y) else z.getLsbD k := by
  rw [bfiVal, BitVec.getLsbD_or, BitVec.getLsbD_and, BitVec.getLsbD_not, BitVec.getLsbD_shiftLeft, BitVec.getLsbD_shiftLeft,
    BitVec.getLsbD_and, getLsbD_fieldMask y (by omega : k - fieldPos y < 64), decide_eq_true hk]
  by_cases below : k < fieldPos y
  · rw [if_neg (by omega), decide_eq_true below]
    simp
  · rw [decide_eq_false below]
    by_cases inside : k - fieldPos y < fieldLen y
    · rw [if_pos (by omega), decide_eq_true inside]
      simp
    · rw [if_neg (by omega), decide_eq_false inside]
      simp

/-! ## Extensions (R69) -/

theorem sextVal_eq (x : Word) (w : Nat) : sextVal x w = (x.truncate w).signExtend 64 := by
  unfold sextVal
  rw [BitVec.ofNat_toNat]
  rfl

theorem zextVal_eq (x : Word) (w : Nat) : zextVal x w = (x.truncate w).zeroExtend 64 := by
  apply BitVec.eq_of_toNat_eq
  rw [zextVal, BitVec.toNat_ofNat, BitVec.zeroExtend, BitVec.truncate, BitVec.toNat_setWidth, BitVec.toNat_setWidth]

/-- Settles O2: counts by the bits that they pass over, fields bit by bit, extensions from the low bits. -/
theorem bitOperations : Obligations.BitOperations := by
  intro d a b s
  obtain ⟨-, trail, zeros, one⟩ := trailFrom_spec (s.rx a) 64 0
  refine ⟨⟨countLead (s.rx a), countLead_le _, givesX_of_result rfl, fun k => countLead_zeros _, countLead_one _⟩,
    ⟨countTrail (s.rx a), trail.trans_eq (Nat.zero_add 64), givesX_of_result rfl, fun k => zeros k (Nat.zero_le k),
      fun h => one (h.trans_eq (Nat.zero_add 64).symm)⟩,
    givesX_of_eq rfl (congrArg _ (countOnes_eq_countP _ 64)),
    ⟨_, givesX_of_result rfl, fun k hk => getLsbD_bfxVal _ _ hk⟩, ⟨_, givesX_of_result rfl, fun k hk => getLsbD_bfiVal _ _ _ hk⟩,
    givesX_of_eq rfl (sextVal_eq _ 8), givesX_of_eq rfl (sextVal_eq _ 16), givesX_of_eq rfl (sextVal_eq _ 32),
    givesX_of_eq rfl (zextVal_eq _ 8), givesX_of_eq rfl (zextVal_eq _ 16), givesX_of_eq rfl (zextVal_eq _ 32)⟩

/-! ## Immediates (R70-R72) -/

/-- A sign-extended immediate stands for the number of its bits (03 R48). -/
theorem signExtend_eq_wrap {n : Nat} (i : BitVec n) : i.signExtend 64 = wrap i.toInt := rfl

theorem toInt_imm64 (i : BitVec 16) : (imm64 i).toInt = i.toInt := BitVec.toInt_signExtend_of_le (by decide)

/-- An address some words from the instruction's own (03 R48). -/
theorem pcOffset_eq {n : Nat} (pc : Word) (o : BitVec n) : pcOffset pc o = wrap (pc.toInt + 4 * o.toInt) := by
  rw [wrap_add, wrap_mul, wrap_toInt]
  rfl

/-- Settles O3: the immediate stands for its number, and the rest is as for the register operations. -/
theorem immediateOperations : Obligations.ImmediateOperations := by
  intro d a i n s
  refine ⟨givesX_of_eq rfl ((add_eq_wrap _ _).trans ?addi), givesX_of_result rfl, givesX_of_result rfl, givesX_of_result rfl,
    givesX_of_eq rfl ((ite_slt _ _ _ _).trans ?slti), givesX_of_eq rfl (shiftLeft_eq_ofNat _ _),
    givesX_of_eq rfl (ushiftRight_eq_ofNat _ _), givesX_of_eq rfl (sshiftRight_eq_wrap _ _), givesX_of_eq rfl ?lui,
    givesX_of_eq rfl (pcOffset_eq _ _)⟩
  case addi => rw [toInt_imm64]
  case slti => rw [toInt_imm64]
  case lui =>
    rw [wrap_mul, imm64, signExtend_eq_wrap, BitVec.shiftLeft_eq_mul_twoPow]
    rfl

/-! ## Branches and jumps (R73-R75) -/

/-- A branch goes on at its target when its condition holds, and at the next word when not (R73). -/
theorem goesOn_branchIf {i : Instr} {s : State} {c : Bool} {p : Prop} [Decidable p] {o : BitVec 16} (h : exec i s = s.branchIf c o)
    (hp : c = true ↔ p) :
    ∃ t, exec i s = .next t ∧ GoesOn s t (if p then wrap (s.self.pc.toInt + 4 * o.toInt) else s.self.pc + 4) :=
  ⟨_, h, by
    rw [← pcOffset_eq, ← if_congr hp rfl rfl]
    exact s.goesOn_finishAt _⟩

/-- What a jump that links does: xd holds the address of the next word, and the context goes on at `u` (R74, R75). -/
theorem State.linked_finishAt (s : State) (d : BitVec 5) (v u : Word) : SlotOnly s ((s.wx d v).finishAt u) ∧
    (∀ r : BitVec 5, ((s.wx d v).finishAt u).rx r = if r = d ∧ r ≠ 0 then v else s.rx r) ∧
    ((s.wx d v).finishAt u).self = { s.self.doneAt u s.now with
      x := ((s.wx d v).finishAt u).self.x, badRegs := ((s.wx d v).finishAt u).self.badRegs } := by
  have now : (s.wx d v).now = s.now := s.now_mod _ (Ctx.setX_cell _ _ _)
  have self : ((s.wx d v).finishAt u).self = { (s.self.setX d.toNat v).settle s.now with pc := u } := by
    rw [State.finishAt, State.self_mod, now, State.wx, State.self_mod]
  refine ⟨(s.slotOnly_mod _).trans (State.slotOnly_mod _ _), fun r => ?_, ?_⟩
  · rw [← (s.wroteX_result d v).xs r]
    unfold State.rx
    rw [self, State.finish, State.self_mod, now, State.wx, State.self_mod]
    rfl
  · rw [self, Ctx.doneAt_eq]
    unfold Ctx.setX
    split <;> rfl

theorem exec_jalr_aligned {s : State} {d a : BitVec 5} {i : BitVec 16} (h : (s.rx a + imm64 i).toNat % 4 = 0) :
    exec (.jalr d a i) s = .next ((s.wx d (s.self.pc + 4)).finishAt (s.rx a + imm64 i)) :=
  if_neg (mt (and_three_ne_zero_iff _).1 (not_not.2 h))

theorem exec_jalr_misaligned {s : State} {d a : BitVec 5} {i : BitVec 16} (h : (s.rx a + imm64 i).toNat % 4 ≠ 0) :
    exec (.jalr d a i) s = .next (s.trap cALIGN (s.rx a + imm64 i)) :=
  if_pos ((and_three_ne_zero_iff _).2 h)

/-- Settles O4: each branch by its condition; a jump links, or traps before it has written anything. -/
theorem branchesAndJumps : Obligations.BranchesAndJumps := by
  intro d a b o i j s
  have target : wrap ((s.rx a).toInt + i.toInt) = s.rx a + imm64 i := by rw [add_eq_wrap, toInt_imm64]
  refine ⟨goesOn_branchIf rfl beq_iff_eq, goesOn_branchIf rfl bne_iff_ne, goesOn_branchIf rfl BitVec.slt_iff_toInt_lt,
    goesOn_branchIf rfl ?bge, goesOn_branchIf rfl BitVec.ult_iff_lt, goesOn_branchIf rfl ?bgeu,
    ⟨_, rfl, ?jal⟩, fun h => ⟨_, exec_jalr_aligned ?_, ?jalr⟩, fun h hh => ?trap⟩
  case bge => rw [Bool.not_eq_true', ← Bool.not_eq_true, BitVec.slt_iff_toInt_lt, not_lt]
  case bgeu => rw [Bool.not_eq_true', ← Bool.not_eq_true, BitVec.ult_iff_lt, BitVec.lt_def, not_lt]
  case jal =>
    rw [← pcOffset_eq]
    exact s.linked_finishAt _ _ _
  case jalr =>
    rw [target]
    exact s.linked_finishAt _ _ _
  case trap =>
    rw [target] at h ⊢
    exact traps_of_trap (exec_jalr_misaligned h) hh (by decide) (by decide)
  · rwa [← target]

end Sys2Proof.Machine
end

section
/-! PROOFS. Software traps, halts and breaks; the return from a trap; yield, idle and the end of a context (04 R80-R84, R87; 17 R325). -/

set_option Elab.async false

namespace Sys2Proof.Machine

section
variable {s : State} {x : Nat} {k : TrapCause}

/-! ## Back home (05 R132; 09 R378) -/

theorem State.cachesOnly_deliverStore (s : State) (cell part x : Nat) : CachesOnly s (s.deliverStore cell part x) := by
  unfold State.deliverStore
  dsimp only
  split
  · exact .refl s
  · exact .trans (t := s.modCell cell _) rfl
      (foldl_related CachesOnly.refl CachesOnly.trans (fun u _ => u.cachesOnly_enqueueGen _ _ _ _) _ _)

theorem State.cachesOnly_backHome (s : State) (x : Nat) : CachesOnly s (s.backHome x) := by
  unfold State.backHome
  dsimp only
  split
  · exact s.cachesOnly_deliverStore ..
  · exact .refl s

/-- A thread that has not migrated is at home already. -/
theorem State.backHome_of_not_migrated (h : (s.ctx x).migrated = false) : s.backHome x = s := by
  unfold State.backHome
  dsimp only
  rw [h]
  rfl

/-! ## A trap without a handler (17 R325) -/

/-- A context in its slot, or at a pantry core, that a trap without a handler has halted. -/
def Ctx.trapHalted (c : Ctx) (now : Nat) : Ctx := { (c.settle now).toSlot with sst := .halted, savedHalted := false }

/-- Without a handler, the context is halted in its slot, and a report is sent. -/
theorem State.takeTrap_halts (h : ((s.ctx x).trapRegs (trapLevel (s.ctx x).pl)).tvec = 0) (hs : (s.ctx x).sst ≠ .switching)
    (hp : (s.ctx x).place = .slot ∨ (s.ctx x).migrated = true) :
    s.takeTrap x k = (((s.leaveUnits x).backHome x).setCtx x ((s.ctx x).trapHalted (s.cyc (dieOfCell (s.ctx x).cell)))).reportCtx
      x k.code true 0 k.addr k.info := by
  have here : ((s.ctx x).sst == .switching || !((s.ctx x).place == .slot || (s.ctx x).migrated)) = false := by
    rw [Bool.or_eq_false_iff, Bool.not_eq_false', Bool.or_eq_true, beq_eq_false_iff_ne, beq_iff_eq]
    exact ⟨hs, hp⟩
  unfold State.takeTrap
  dsimp only
  rw [if_pos h, here]
  rfl

/-- What a trap without a handler leaves of the acting context, and the report that it sends. -/
theorem State.endInTrap_halts (hh : ¬ s.hasHandler) (hs : s.self.sst ≠ .switching)
    (hp : s.self.place = .slot ∨ s.self.migrated = true) :
    let h := (s.leaveUnits s.cur).backHome s.cur
    (s.endInTrap k).self = (s.self.trapHalted s.now).dropLanes s.self.pc ∧ (s.endInTrap k).cells = h.cells ∧
      (s.endInTrap k).parts = h.parts ∧ (s.endInTrap k).reports = tset h.reports h.fresh
        { part := s.self.part, d0 := reportHead k.code true 0 s.self.cell s.self.slot (dieOfCell s.self.cell) false s.self.tag
          addr := k.addr, info := k.info } := by
  have cur : ((s.leaveUnits s.cur).backHome s.cur).cur = s.cur := (State.backHome_frame _ _).2.2
  have e : s.endInTrap k = _ := congrArg (fun u : State => u.mod fun c => c.dropLanes s.self.pc)
    (State.takeTrap_halts (k := k) (not_not.1 hh) hs hp)
  rw [e]
  unfold State.reportCtx
  rw [State.ctx_setCtx_self]
  refine ⟨?_, rfl, rfl, rfl⟩
  rw [State.self_mod]
  show Ctx.dropLanes (State.ctx (State.setCtx _ _ _) ((s.leaveUnits s.cur).backHome s.cur).cur) _ = _
  rw [cur, State.ctx_setCtx_self]
  rfl

end

/-! ## A break (04 R87) -/

/-- The slot is HALTED once the instruction is over. -/
theorem State.self_finish_halted (s : State) :
    (s.finish.mod fun c => { c with sst := .halted }).self = { s.self.doneAt (s.self.pc + 4) s.now with sst := .halted } := by
  rw [State.self_mod, s.goesOn_finish.2]

/-- Settles O6: with a handler, the trap's own lemma; without one, the slot halts and reports; a break halts after it is over. -/
theorem trapsAndBreaks : Obligations.TrapsAndBreaks := by
  refine ⟨fun n s hh => ⟨_, rfl, s.trapped_endInTrap _ hh rfl (show cSWTRAP ≠ cBUDGET by decide)⟩, fun n s hh hs hp => ?_,
    fun n s => ?_⟩
  · obtain ⟨self, cells, parts, reports⟩ := State.endInTrap_halts
      (k := { cause := n.zeroExtend 13 ||| 0x1000, code := cSWTRAP, epc := s.self.pc + 4, word := s.word, addr := 0
              info := s.word.zeroExtend 64 }) hh hs hp
    refine ⟨_, rfl, ?sst, ?pc, ?pl, fun r => ?xs, ?t1, ?t2, cells, ?parts, reports⟩
    case parts =>
      rw [parts, (State.cachesOnly_backHome _ _).frame.1]
      rfl
    case xs =>
      rw [State.rx, self]
      rfl
    all_goals
      rw [self]
      rfl
  · have self := s.self_finish_halted
    refine ⟨_, rfl, self, rfl, ?_⟩
    have word : (s.finish.mod fun c => { c with sst := .halted }).word = s.word := by
      rw [State.word, self, Ctx.doneAt_eq]
      rfl
    rw [word]
    unfold State.reportCtx
    show tset _ _ _ = _
    change State.ctx _ _ = _ at self
    rw [self, Ctx.doneAt_eq]
    rfl

/-! ## The return from a trap (04 R81) -/

section
variable {s : State}

theorem exec_eret_priv (h : s.self.pl = 0 ∨ s.self.pl < (s.self.trapRegs s.self.pl).pl ∨ (s.self.trapRegs s.self.pl).pl = 3) :
    exec .eret s = .next (s.trap cPRIV 0) := by
  show Host.Outcome.next s.eret = _
  unfold State.eret
  dsimp only
  by_cases h0 : s.self.pl = 0
  · rw [if_pos h0]
  · rw [if_neg h0, if_pos (h.resolve_left h0)]

section
variable (h0 : s.self.pl ≠ 0) (hl : (s.self.trapRegs s.self.pl).pl ≤ s.self.pl) (h3 : (s.self.trapRegs s.self.pl).pl ≠ 3)
include h0 hl h3

theorem State.eret_legal : s.eret =
    if (s.self.trapRegs s.self.pl).epc &&& 3 ≠ 0 then s.trap cALIGN (s.self.trapRegs s.self.pl).epc
    else s.mod fun c => { c.settle s.now with pl := (s.self.trapRegs s.self.pl).pl, pc := (s.self.trapRegs s.self.pl).epc } := by
  unfold State.eret
  dsimp only
  rw [if_neg h0, if_neg (not_or.2 ⟨BitVec.not_lt.2 hl, h3⟩)]

theorem exec_eret_align (ha : (s.self.trapRegs s.self.pl).epc.toNat % 4 ≠ 0) :
    exec .eret s = .next (s.trap cALIGN (s.self.trapRegs s.self.pl).epc) := by
  show Host.Outcome.next s.eret = _
  rw [State.eret_legal h0 hl h3, if_pos ((and_three_ne_zero_iff _).2 ha)]

theorem exec_eret_returns (ha : (s.self.trapRegs s.self.pl).epc.toNat % 4 = 0) : exec .eret s =
    .next (s.mod fun c => { c.settle s.now with pl := (s.self.trapRegs s.self.pl).pl, pc := (s.self.trapRegs s.self.pl).epc }) := by
  show Host.Outcome.next s.eret = _
  rw [State.eret_legal h0 hl h3, if_neg (mt (and_three_ne_zero_iff _).1 (not_not.2 ha))]

end
end

/-- Settles O7: the three courses of a return. -/
theorem returnFromTrap : Obligations.ReturnFromTrap := by
  intro s
  refine ⟨fun h0 hl h3 ha => ⟨_, exec_eret_returns h0 hl h3 ha, s.slotOnly_mod _, ?_⟩,
    fun h hh => traps_of_trap (exec_eret_priv h) hh (by decide) (by decide),
    fun h0 hl h3 ha hh => traps_of_trap (exec_eret_align h0 hl h3 ha) hh (by decide) (by decide)⟩
  rw [State.self_mod, Ctx.doneAt_eq]

/-! ## The end of a context (04 R82) -/

/-- Reading a table in which some values have been changed. -/
theorem tfind_map_ite {α : Type} (t : Table α) (c : α → Prop) [DecidablePred c] (f : α → α) (k : Nat) :
    tfind (t.map fun p => if c p.2 then (p.1, f p.2) else p) k = (tfind t k).map fun v => if c v then f v else v := by
  rw [← tfind_map]
  congr 1
  apply List.map_congr_left
  intro p _
  split <;> rfl

section
variable {s : State} {x n : Nat}

theorem State.ctxs_forget : (s.forget x).ctxs = s.ctxs := rfl

/-- A change of some cells that keeps what their slots keep for their last contexts. -/
theorem State.emptying_map_ite {t : State} {c : Cell → Prop} [DecidablePred c] {f : Cell → Cell}
    (hf : ∀ k, (f k).emptying = k.emptying) (h : t.cells = s.cells.map fun p => if c p.2 then (p.1, f p.2) else p) (n : Nat) :
    (t.cell n).emptying = (s.cell n).emptying := by
  unfold State.cell tget
  rw [h, tfind_map_ite]
  cases tfind s.cells n with
  | none => rfl
  | some k =>
    show (if c k then f k else k).emptying = k.emptying
    split
    · exact hf k
    · rfl

/-- A context that is forgotten leaves what its slot keeps for it. -/
theorem State.emptying_forget (s : State) (x n : Nat) : ((s.forget x).cell n).emptying = (s.cell n).emptying := by
  have load : ((s.abandonLoad x).cell n).emptying = (s.cell n).emptying :=
    State.emptying_map_ite (c := fun k => k.latch.loadBy = some x)
      (f := fun k => { k with latch := { k.latch with kst := .free, loadBy := none } }) (fun _ => rfl) rfl n
  rw [← load]
  exact State.emptying_map_ite (c := fun k => k.understudy.contains x = true)
    (f := fun k => { k with understudy := k.understudy.filter (· ≠ x) }) (fun _ => rfl) rfl n

theorem State.emptySlot_ctxs (t : Nat) : (s.emptySlot x t).ctxs = s.ctxs := by
  unfold State.emptySlot
  dsimp only
  split <;> rfl

/-- The end of an entry changes entries alone. -/
theorem State.checkEnd_eq (e : Option Nat) : s.checkEnd e = { s with entries := (s.checkEnd e).entries } := by
  unfold State.checkEnd
  split
  · rfl
  · split
    · rfl
    · split
      · unfold State.modEntry
        split <;> rfl
      · rfl

theorem State.endCtxAt_eq (t : Nat) : s.endCtxAt x t =
    { (s.emptySlot x t).forget x with ctxs := tdel s.ctxs x, entries := (s.endCtxAt x t).entries } := by
  unfold State.endCtxAt
  dsimp only
  rw [State.checkEnd_eq, State.ctxs_forget, State.emptySlot_ctxs]

/-- The slot of a context that ends is EMPTY from cycle `t` on (01 R9). -/
theorem State.emptying_endCtxAt (t : Nat) (h : (s.ctx x).place = .slot) :
    tfind ((s.endCtxAt x t).cell (s.ctx x).cell).emptying (s.ctx x).slot = some (t, (s.ctx x).sst.code) := by
  rw [State.endCtxAt_eq]
  show tfind (((s.emptySlot x t).forget x).cell _).emptying _ = _
  rw [State.emptying_forget]
  unfold State.emptySlot
  simp only [h]
  rw [State.cell_modCell_self]
  exact tfind_tset_self _ _ _

theorem State.endCtxAt_rest (t : Nat) :
    (s.endCtxAt x t).leases = s.leases ∧ (s.endCtxAt x t).pages = s.pages ∧ (s.endCtxAt x t).packets = s.packets := by
  rw [State.endCtxAt_eq]
  unfold State.emptySlot
  dsimp only
  split <;> exact ⟨rfl, rfl, rfl⟩

/-- `halt` ends the context where nothing of it is outstanding. -/
theorem exec_halt_done (ho : s.self.opt = false) (hr : s.releaseLines s.cur = s) (hp : coverAll.pending s.self = false)
    (he : s.engineWork s.cur = false) : exec .halt s = .next (s.endCtxAt s.cur (s.now + 1)) := by
  show execHalt s = _
  unfold execHalt State.illInOpt
  rw [ho, hr]
  dsimp only
  rw [hp, he]
  rfl

theorem exec_halt_opt (ho : s.self.opt = true) : exec .halt s = .next (s.trap cILL 0) := by
  show execHalt s = _
  unfold execHalt State.illInOpt
  rw [ho]
  rfl

end

/-! ## Yield and idle (04 R83, R84) -/

/-- An instruction that changes the acting context otherwise and completes. -/
theorem State.self_mod_finish (s : State) (f : Ctx → Ctx) (h : (f s.self).cell = s.self.cell) :
    (s.mod f).finish.self = (f s.self).doneAt ((f s.self).pc + 4) s.now := by
  rw [(State.goesOn_finish _).2, State.self_mod, s.now_mod f h]

/-- Settles O8: a change of the next issue; a wait for the tick or its value; the end of the context, or ILL. -/
theorem yieldIdleAndHalt : Obligations.YieldIdleAndHalt := by
  refine ⟨fun d a s => ⟨⟨_, rfl, ?_, ?_⟩, fun h => givesX_of_result (if_neg (Nat.not_lt.2 h)),
    fun h => ⟨_, if_pos h, s.stall_slotOnly _, s.stall_self _⟩⟩,
    fun s => ⟨fun ho hr h0 h1 h2 h3 he rises => ?_, fun ho hh => traps_of_trap (exec_halt_opt ho) hh (by decide) (by decide)⟩⟩
  · exact (s.slotOnly_mod _).trans (State.slotOnly_mod _ _)
  · rw [State.self_mod_finish s _ rfl, Ctx.doneAt_eq, Ctx.doneAt_eq]
    rfl
  · have quiet : coverAll.pending s.self = false := by simp [Cover.pending, coverAll, h0, h1, h2, h3]
    obtain ⟨leases, pages, packets⟩ := State.endCtxAt_rest (s := s) (x := s.cur) (s.now + 1)
    have ctxs : (s.endCtxAt s.cur (s.now + 1)).ctxs = tdel s.ctxs s.cur := by rw [State.endCtxAt_eq]
    refine ⟨_, exec_halt_done ho hr quiet he, ?_, fun x hx => ?_, fun hp => State.emptying_endCtxAt _ hp, leases, pages, packets⟩
    · rw [ctxs, tfind_tdel rises, if_pos rfl]
    · rw [ctxs, tfind_tdel rises, if_neg hx]

end Sys2Proof.Machine
end

section
/-! PROOFS. What the Prompter does with the figures and states of an entry (16 R312-R317). -/

set_option Elab.async false

namespace Sys2Proof.Machine

section
variable {s t u : State} {n : Nat} {e : Entry}

/-! ## Entries and threads -/

theorem State.modEntry_eq (f : Entry → Entry) (h : tfind s.entries n = some e) :
    s.modEntry n f = { s with entries := tset s.entries n (f e) } := by
  rw [State.modEntry, h]

theorem State.tfind_eachThread (f : Ctx → Ctx) (i : Nat) : tfind (s.eachThread n f).ctxs i =
    (tfind s.ctxs i).map fun c => if c.entry = some n then f c else c :=
  tfind_map_ite s.ctxs (fun c => c.entry = some n) f i

/-- A context that is not listed belongs to no entry. -/
theorem State.ctx_eachThread (f : Ctx → Ctx) (i : Nat) :
    (s.eachThread n f).ctx i = if (s.ctx i).entry = some n then f (s.ctx i) else s.ctx i := by
  unfold State.ctx tget
  rw [State.tfind_eachThread]
  cases tfind s.ctxs i <;> rfl

/-- Setting or clearing `tsw.bp` in the threads of an entry changes of a context that bit at most (R315). -/
theorem State.ctx_setBp (b : Bool) (i : Nat) : ∃ b', (s.setBp n b).ctx i = { s.ctx i with bp := b' } := by
  rw [State.setBp, State.ctx_eachThread]
  split
  · exact ⟨b, rfl⟩
  · exact ⟨_, rfl⟩

theorem State.ctx_of_tfind {i : Nat} {c : Ctx} (h : tfind s.ctxs i = some c) : s.ctx i = c := by
  rw [State.ctx, tget, h]
  rfl

/-! ## Refreshes (R313) -/

/-- Refreshes have been sent: of an entry, only the cycles of its refreshes differ. -/
structure RefreshOnly (s t : State) : Prop where
  rest  : t = { s with entries := t.entries, refreshes := t.refreshes }
  entry : ∀ n e, tfind s.entries n = some e → ∃ r, tfind t.entries n = some { e with refreshed := r }

theorem RefreshOnly.refl (s : State) : RefreshOnly s s := ⟨rfl, fun _ e h => ⟨e.refreshed, h⟩⟩

theorem RefreshOnly.trans (h : RefreshOnly s t) (k : RefreshOnly t u) : RefreshOnly s u := by
  refine ⟨by rw [k.rest, h.rest], fun n e he => ?_⟩
  obtain ⟨r, hr⟩ := h.entry n e he
  exact k.entry n { e with refreshed := r } hr

theorem RefreshOnly.ctxs (h : RefreshOnly s t) : t.ctxs = s.ctxs := by rw [h.rest]

theorem RefreshOnly.ctx (h : RefreshOnly s t) (i : Nat) : t.ctx i = s.ctx i := by rw [State.ctx, State.ctx, h.ctxs]

theorem State.refreshOnly_sendRefresh (s : State) (n cell : Nat) : RefreshOnly s (s.sendRefresh n cell) := by
  unfold State.sendRefresh
  split
  · exact .refl s
  · rename_i e he
    refine ⟨rfl, fun m f hf => ?_⟩
    dsimp only
    rw [tfind_tset]
    split
    · rename_i same
      rw [same, he, Option.some.injEq] at hf
      exact ⟨_, by rw [hf]⟩
    · exact ⟨f.refreshed, hf⟩

theorem State.refreshOnly_refreshAll (s : State) (n : Nat) : RefreshOnly s (s.refreshAll n) :=
  foldl_related RefreshOnly.refl RefreshOnly.trans (fun u c => u.refreshOnly_sendRefresh n c) _ s

theorem State.refreshOnly_answerCharge (s : State) (e : Entry) (c : Charge) : RefreshOnly s (s.answerCharge e c) := by
  unfold State.answerCharge
  split
  · exact .refl s
  · split
    · split
      · exact s.refreshOnly_sendRefresh ..
      · exact .refl s
    · exact s.refreshOnly_sendRefresh ..

/-! ## Passage to SPENT (R317) -/

/-- An entry that has passed to SPENT is in the background, from its start or by demotion. -/
def Entry.toSpent (e : Entry) : Entry := { e with bst := .spent, demoted := e.demoted || !e.bg }

/-- The entry is SPENT and refreshed, and a report and a vector follow. -/
theorem State.spend_spec (code : Byte) (he : tfind s.entries n = some e) :
    ∃ u, RefreshOnly { s with entries := tset s.entries n e.toSpent } u ∧
      s.spend n code = (u.report e.part (reportHead cBUDGET false 3 0 0 e.die false e.tag) (code.zeroExtend 64) e.figure e.die).signal
        e.part 0 := by
  unfold State.spend
  rw [he]
  dsimp only
  rw [State.modEntry_eq _ he]
  refine ⟨_, ?_, rfl⟩
  split
  · rename_i back
    have same : e.toSpent = { e with bst := .spent } := by
      unfold Entry.toSpent
      rcases back with bg | demoted
      · rw [bg, Bool.not_true, Bool.or_false]
      · rw [demoted, Bool.true_or]
    rw [same]
    exact State.refreshOnly_refreshAll _ _
  · rename_i front
    rw [not_or, Bool.not_eq_true, Bool.not_eq_true] at front
    unfold State.demote
    rw [State.modEntry_eq (e := { e with bst := .spent }) _ (tfind_tset_self _ _ _), tset_tset]
    have same : e.toSpent = { e with bst := .spent, demoted := true } := by
      unfold Entry.toSpent
      rw [front.1, front.2]
      rfl
    rw [same]
    exact State.refreshOnly_refreshAll _ _

theorem State.exhaust_eq (he : tfind s.entries n = some e) :
    s.exhaust n = if e.bst = .overrun ∧ 65536 ≤ e.grace ∧ e.ended = false then s.spend n 0 else s := by
  unfold State.exhaust
  rw [he]
  simp only [Bool.not_eq_true']

/-! ## What judgements of entries leave alone -/

/-- The Prompter has judged entries: of an entry, only its state, grace count, demotion and refreshes differ. -/
structure JudgedOnly (s t : State) : Prop where
  rest  : t = { s with ctxs := t.ctxs, entries := t.entries, refreshes := t.refreshes, parts := t.parts, reports := t.reports
                       fresh := t.fresh }
  entry : ∀ n e, tfind s.entries n = some e → ∃ f, tfind t.entries n = some f ∧
    f = { e with bst := f.bst, grace := f.grace, demoted := f.demoted, refreshed := f.refreshed }

theorem JudgedOnly.refl (s : State) : JudgedOnly s s := ⟨rfl, fun _ e h => ⟨e, h, rfl⟩⟩

theorem JudgedOnly.trans (h : JudgedOnly s t) (k : JudgedOnly t u) : JudgedOnly s u := by
  refine ⟨by rw [k.rest, h.rest], fun n e he => ?_⟩
  obtain ⟨f, hf, same⟩ := h.entry n e he
  obtain ⟨g, hg, same'⟩ := k.entry n f hf
  exact ⟨g, hg, by rw [same', same]⟩

theorem RefreshOnly.judged (h : RefreshOnly s t) : JudgedOnly s t :=
  ⟨by rw [h.rest], fun n e he => by
    obtain ⟨r, hr⟩ := h.entry n e he
    exact ⟨_, hr, rfl⟩⟩

/-- One entry has another state, grace count or demotion. -/
theorem State.judgedOnly_set {f : Entry} (he : tfind s.entries n = some e)
    (hf : f = { e with bst := f.bst, grace := f.grace, demoted := f.demoted, refreshed := f.refreshed }) :
    JudgedOnly s { s with entries := tset s.entries n f } := by
  refine ⟨rfl, fun m g hg => ?_⟩
  dsimp only
  rw [tfind_tset]
  split
  · rename_i same
    rw [same, he, Option.some.injEq] at hg
    exact ⟨f, rfl, by rw [← hg]; exact hf⟩
  · exact ⟨g, hg, rfl⟩

/-- The same entries, in a state in which threads, reports or vectors differ. -/
theorem JudgedOnly.of_entries (h : t = { s with ctxs := t.ctxs, parts := t.parts, reports := t.reports, fresh := t.fresh }) :
    JudgedOnly s t := ⟨by rw [h], fun n e he => ⟨e, by rw [h]; exact he, rfl⟩⟩

theorem State.judgedOnly_spend (s : State) (n : Nat) (code : Byte) : JudgedOnly s (s.spend n code) := by
  cases he : tfind s.entries n with
  | none =>
    rw [State.spend, he]
    exact .refl s
  | some e =>
    obtain ⟨u, refresh, spent⟩ := State.spend_spec code he
    rw [spent]
    exact ((State.judgedOnly_set he rfl).trans refresh.judged).trans (.of_entries rfl)

theorem State.judgedOnly_exhaust (s : State) (n : Nat) : JudgedOnly s (s.exhaust n) := by
  unfold State.exhaust
  split
  · split
    · exact s.judgedOnly_spend n 0
    · exact .refl s
  · exact .refl s

/-! ## One charge (R312, R314, R317) -/

/-- An entry with a charge counted. -/
def Entry.charged (e : Entry) (c : Charge) : Entry :=
  { e with remain := e.remain - c.units, total := e.total + c.units, rolled := e.rolled + c.rolled
           grace := if e.bst = .overrun then e.grace + c.units else e.grace }

/-- The state in which the charge has been counted, and its entry not yet judged. -/
def State.counted (s : State) (e : Entry) (c : Charge) : State := { s with entries := tset s.entries c.entry (e.charged c) }

/-- The state in which an entry without units has passed to OVERRUN, with a trap due in each of its threads. -/
def State.overrunBy (s : State) (n : Nat) (e : Entry) : State :=
  { s with entries := tset s.entries n { e with bst := .overrun, grace := 0 } }.setBp n true

theorem State.applyCharge_eq {c : Charge} (he : tfind s.entries c.entry = some e) :
    s.applyCharge c =
      if e.ended then s.counted e c
      else if e.bst = .funded ∧ e.remain - c.units ≤ 0 then ((s.counted e c).overrunBy c.entry (e.charged c)).refreshAll c.entry
      else ((s.counted e c).answerCharge e c).exhaust c.entry := by
  have found : tfind (s.counted e c).entries c.entry = some (e.charged c) := tfind_tset_self _ _ _
  rw [State.overrunBy, ← State.modEntry_eq (fun e => { e with bst := .overrun, grace := 0 }) found]
  unfold State.applyCharge
  rw [he]
  rfl

theorem State.tfind_counted {c : Charge} (m : Nat) :
    tfind (s.counted e c).entries m = if m = c.entry then some (e.charged c) else tfind s.entries m := tfind_tset _ _ _ _

/-- After a charge has been counted, the Prompter judges entries and does no more. -/
theorem State.applyCharge_judges {c : Charge} (he : tfind s.entries c.entry = some e) : JudgedOnly (s.counted e c) (s.applyCharge c) := by
  have found : tfind (s.counted e c).entries c.entry = some (e.charged c) := tfind_tset_self _ _ _
  rw [State.applyCharge_eq he]
  split
  · exact .refl _
  · split
    · have overrun : JudgedOnly (s.counted e c) ((s.counted e c).overrunBy c.entry (e.charged c)) :=
        (State.judgedOnly_set (f := { e.charged c with bst := .overrun, grace := 0 }) found rfl).trans (.of_entries rfl)
      exact overrun.trans (State.refreshOnly_refreshAll _ _).judged
    · exact (State.refreshOnly_answerCharge _ _ _).judged.trans (State.judgedOnly_exhaust _ _)

/-- The figures of `f` are those of `e` with units charged, and among them units that count as rolled back (13 R271). -/
structure Entry.Charged (e f : Entry) (units rolled : Nat) : Prop where
  remain : f.remain = e.remain - units
  total  : f.total = e.total + units
  rolled : f.rolled = e.rolled + rolled

theorem State.applyCharge_figures (c : Charge) (he : tfind s.entries n = some e) :
    ∃ f, tfind (s.applyCharge c).entries n = some f ∧
      e.Charged f (if c.entry = n then c.units else 0) (if c.entry = n then c.rolled else 0) := by
  cases hc : tfind s.entries c.entry with
  | none =>
    have other : c.entry ≠ n := by rintro rfl; rw [he] at hc; cases hc
    rw [State.applyCharge, hc, if_neg other, if_neg other]
    exact ⟨e, he, by rw [Nat.cast_zero, Int.sub_zero], rfl, rfl⟩
  | some g =>
    have found := State.tfind_counted (s := s) (e := g) (c := c) n
    split at found
    · rename_i same
      rw [same, hc, Option.some.injEq] at he
      obtain ⟨f, hf, keeps⟩ := (State.applyCharge_judges hc).entry n _ found
      rw [if_pos same.symm, if_pos same.symm]
      exact ⟨f, hf, by rw [keeps, ← he]; rfl, by rw [keeps, ← he]; rfl, by rw [keeps, ← he]; rfl⟩
    · rename_i other
      obtain ⟨f, hf, keeps⟩ := (State.applyCharge_judges hc).entry n e (found.trans he)
      rw [if_neg (Ne.symm other), if_neg (Ne.symm other)]
      exact ⟨f, hf, by rw [keeps, Nat.cast_zero, Int.sub_zero], by rw [keeps]; rfl, by rw [keeps]; rfl⟩

/-- A charge changes no die. -/
theorem State.applyCharge_dies (s : State) (c : Charge) : (s.applyCharge c).dies = s.dies := by
  cases hc : tfind s.entries c.entry with
  | none => rw [State.applyCharge, hc]
  | some e =>
    rw [(State.applyCharge_judges hc).rest]
    rfl

/-! ## Every charge that has arrived (R312) -/

/-- The state in which the charges that have arrived at a die have been taken up, and none counted yet. -/
def State.chargesTaken (s : State) (die : Nat) : State := s.modDie die fun d => { d with charges := [] }

theorem State.applyCharges_eq (s : State) (die : Nat) :
    s.applyCharges die = (s.die die).charges.foldl (fun s c => s.applyCharge c) (s.chargesTaken die) := rfl

theorem State.charges_applyCharges (s : State) (die : Nat) : ((s.applyCharges die).die die).charges = [] := by
  have dies : (s.applyCharges die).dies = (s.chargesTaken die).dies :=
    foldl_related (R := fun s t : State => t.dies = s.dies) (fun _ => rfl) (fun h k => k.trans h) State.applyCharge_dies _ _
  rw [State.die_congr dies, State.chargesTaken, State.die_modDie_self]

/-- A fold of charges takes the units of those of an entry off its remainder, and adds them to its total. -/
theorem State.foldl_applyCharge (l : List Charge) (he : tfind s.entries n = some e) :
    ∃ f, tfind (l.foldl (fun s c => s.applyCharge c) s).entries n = some f ∧
      e.Charged f ((l.filter fun c => c.entry = n).map fun c => c.units).sum ((l.filter fun c => c.entry = n).map fun c => c.rolled).sum := by
  induction l generalizing s e with
  | nil => exact ⟨e, he, (Int.sub_zero _).symm, rfl, rfl⟩
  | cons c l ih =>
    obtain ⟨f, hf, first⟩ := State.applyCharge_figures c he
    obtain ⟨g, hg, others⟩ := ih hf
    refine ⟨g, hg, ?_⟩
    obtain ⟨r1, t1, o1⟩ := first
    obtain ⟨r2, t2, o2⟩ := others
    by_cases own : c.entry = n
    · simp only [List.filter_cons, own, decide_true, if_true, List.map_cons, List.sum_cons]
      rw [if_pos own] at r1 t1 o1
      exact ⟨by rw [r2, r1]; push_cast; omega, by omega, by omega⟩
    · simp only [List.filter_cons, own, decide_false, Bool.false_eq_true, if_false]
      rw [if_neg own] at r1 t1 o1
      exact ⟨by rw [r2, r1]; push_cast; omega, by omega, by omega⟩

end

end Sys2Proof.Machine
end

section
/-! PROOFS. Budget requests at their Prompter and their replies (04 R90, R91; 16 R312, R314, R317). -/

set_option Elab.async false

namespace Sys2Proof.Machine

section
variable {s t u : State} {n x q die : Nat} {e : Entry} {r : BudgetReq} {c : Charge}

/-! ## One charge alone (R312, R314, R317) -/

theorem State.applyCharges_single (h : (s.die die).charges = [c]) : s.applyCharges die = (s.chargesTaken die).applyCharge c := by
  rw [State.applyCharges_eq, h]
  rfl

theorem State.spend_entry (code : Byte) (he : tfind s.entries n = some e) :
    ∃ r, tfind (s.spend n code).entries n = some { e.toSpent with refreshed := r } := by
  obtain ⟨u, refresh, spent⟩ := State.spend_spec code he
  rw [spent]
  exact refresh.entry n e.toSpent (tfind_tset_self _ _ _)

section
variable (he : tfind s.entries c.entry = some e) (hn : e.ended = false)
include he hn

/-- A charge that does not take a FUNDED entry's last unit is counted, perhaps answered by a refresh, and followed by the test of the
grace count alone. -/
theorem State.applyCharge_graced (h : ¬ (e.bst = .funded ∧ e.remain - c.units ≤ 0)) :
    ∃ u : State, ∃ r, tfind u.entries c.entry = some { e.charged c with refreshed := r } ∧ s.applyCharge c = u.exhaust c.entry := by
  obtain ⟨r, hr⟩ := ((s.counted e c).refreshOnly_answerCharge e c).entry c.entry (e.charged c) (tfind_tset_self _ _ _)
  refine ⟨_, r, hr, ?_⟩
  rw [State.applyCharge_eq he, hn, if_neg Bool.false_ne_true, if_neg h]

theorem State.applyCharge_funded (hb : e.bst = .funded) (hr : 0 < e.remain - c.units) :
    ∃ f, tfind (s.applyCharge c).entries c.entry = some f ∧ f.bst = .funded := by
  obtain ⟨u, r, found, applied⟩ := State.applyCharge_graced he hn fun ⟨_, h⟩ => absurd hr (not_lt.2 h)
  have funded : ({ e.charged c with refreshed := r } : Entry).bst = .funded := hb
  rw [applied, State.exhaust_eq found, if_neg (by rw [funded]; exact fun ⟨h, _⟩ => by cases h)]
  exact ⟨_, found, funded⟩

theorem State.applyCharge_overrun (hb : e.bst = .overrun) : ∃ f, tfind (s.applyCharge c).entries c.entry = some f ∧
    f.grace = e.grace + c.units ∧ f.bst = if 65536 ≤ e.grace + c.units then .spent else .overrun := by
  obtain ⟨u, r, found, applied⟩ := State.applyCharge_graced he hn fun ⟨h, _⟩ => by rw [hb] at h; cases h
  have grace : (e.charged c).grace = e.grace + c.units := if_pos hb
  rw [applied, State.exhaust_eq found]
  by_cases full : 65536 ≤ e.grace + c.units
  · obtain ⟨r', spent⟩ := State.spend_entry (code := 0) found
    rw [if_pos ⟨hb, full.trans_eq grace.symm, hn⟩, if_pos full]
    exact ⟨_, spent, grace, rfl⟩
  · rw [if_neg fun ⟨_, h, _⟩ => full (h.trans_eq grace), if_neg full]
    exact ⟨_, found, grace, hb⟩

/-- The charge that takes the remainder of a FUNDED entry to zero or below. -/
theorem State.applyCharge_overruns (hb : e.bst = .funded) (hr : e.remain - c.units ≤ 0) :
    ∃ f, tfind (s.applyCharge c).entries c.entry = some f ∧ f.bst = .overrun ∧ f.grace = 0 ∧
      ∀ i y, tfind s.ctxs i = some y → y.entry = some c.entry → ∃ z, tfind (s.applyCharge c).ctxs i = some z ∧ z.bp = true := by
  have refresh := ((s.counted e c).overrunBy c.entry (e.charged c)).refreshOnly_refreshAll c.entry
  obtain ⟨r, found⟩ := refresh.entry c.entry { e.charged c with bst := .overrun, grace := 0 } (tfind_tset_self _ _ _)
  rw [State.applyCharge_eq he, hn, if_neg Bool.false_ne_true, if_pos ⟨hb, hr⟩]
  refine ⟨_, found, rfl, rfl, fun i y hy own => ⟨{ y with bp := true }, ?_, rfl⟩⟩
  rw [refresh.ctxs]
  show tfind (State.eachThread _ _ _).ctxs i = _
  rw [State.tfind_eachThread]
  show Option.map _ (tfind s.ctxs i) = _
  rw [hy, Option.map_some, if_pos own]

end

/-! ## The code of a `budx` (R90) -/

/-- Nothing differs but the charges and tests that the dies' Prompters keep. -/
structure PrompterOnly (s t : State) : Prop where
  rest : t = { s with dies := t.dies }
  cyc  : ∀ n, t.cyc n = s.cyc n

theorem PrompterOnly.trans (h : PrompterOnly s t) (k : PrompterOnly t u) : PrompterOnly s u :=
  ⟨by rw [k.rest, h.rest], fun n => (k.cyc n).trans (h.cyc n)⟩

theorem PrompterOnly.modDie {f : Die → Die} (hf : ∀ d, (f d).cyc = d.cyc) : PrompterOnly s (s.modDie die f) := by
  refine ⟨rfl, fun n => ?_⟩
  rw [State.cyc, State.die_modDie]
  split
  · rename_i h
    rw [hf, h]
    rfl
  · rfl

theorem State.prompterOnly_chargesTaken (s : State) (die : Nat) : PrompterOnly s (s.chargesTaken die) := .modDie fun _ => rfl

theorem State.prompterOnly_noteTest (s : State) (die : Nat) : PrompterOnly s (s.noteTest die) := .modDie fun _ => rfl

theorem PrompterOnly.budxCode (h : PrompterOnly s t) (v : Word) : t.budxCode n e v = s.budxCode n e v := by
  have ref (d : Nat) : t.ref d = s.ref d := by rw [State.ref, State.ref, h.cyc]
  have pdie (p d : Nat) : t.pdie p d = s.pdie p d := by rw [h.rest]; rfl
  have demand : t.demandOk e.part e.die n e.dline e.order (e.remain + v.toNat).toNat
      = s.demandOk e.part e.die n e.dline e.order (e.remain + v.toNat).toNat := by
    have set : t.demandSet e.part e.die = s.demandSet e.part e.die := by rw [h.rest]; rfl
    have cells : t.ringCells e.part e.die = s.ringCells e.part e.die := by rw [h.rest]; rfl
    rw [State.demandOk, State.demandOk, pdie, set, cells, ref]
  have leases : t.leases = s.leases := by rw [h.rest]
  rw [State.budxCode, State.budxCode, ref, pdie, demand, leases]

theorem State.budxCode_le (s : State) (n : Nat) (e : Entry) (v : Word) : s.budxCode n e v ≤ 7 := by
  unfold State.budxCode
  dsimp only
  repeat' split
  all_goals decide

/-- A status word as a number (05 R92). -/
theorem status_eq {code : Nat} (h : code < 2 ^ 63) : status code = BitVec.ofNat 64 (2 ^ 63 + code) := by
  apply BitVec.eq_of_toNat_eq
  have top : ((1#64 <<< 63 : Word)).toNat = 2 ^ 63 * 1 := rfl
  rw [status, BitVec.toNat_or, top, BitVec.toNat_ofNat, BitVec.toNat_ofNat, Nat.mod_eq_of_lt (by omega), Nat.mod_eq_of_lt (by omega),
    ← Nat.two_pow_add_eq_or_of_lt h, Nat.mul_one]

/-- What a `budx` is answered (R90). -/
def budxAnswer (code : Nat) : Word := if code = 0 then 0 else status code

theorem budxAnswer_budxCode (s : State) (n : Nat) (e : Entry) (v : Word) : budxAnswer (s.budxCode n e v) =
    if s.budxCode n e v = 0 then 0 else BitVec.ofNat 64 (2 ^ 63 + s.budxCode n e v) := by
  rw [budxAnswer, status_eq ((s.budxCode_le n e v).trans_lt (by decide))]

/-! ## The test of a `budx` (R90; 16 R314, R317) -/

/-- Where an entry stands after a test that has given the code. -/
structure Entry.Tested (e f : Entry) (code : Nat) (units : Word) : Prop where
  remain  : f.remain = e.remain + if code = 0 then units.toNat else 0
  granted : code = 0 → 0 < f.remain → f.bst = .funded
  refused : code ≠ 0 → f.bst = if e.bst = .overrun then .spent else e.bst

/-- A context that keeps the answer of a test, with `tsw.bp` as it then is. -/
def Ctx.answered (c : Ctx) (num : Nat) (v : Word) (bp : Bool) : Ctx := { c with budxKept := some (num, v), bp := bp }

/-- A test has been made: of the context `x`, the kept answer differs and perhaps `tsw.bp`, and the entry has been judged. -/
structure BudxTested (s t : State) (n x num : Nat) (e : Entry) (units : Word) : Prop where
  rest  : t = { s with ctxs := t.ctxs, entries := t.entries, refreshes := t.refreshes, parts := t.parts, reports := t.reports
                       fresh := t.fresh }
  ctx   : ∃ b, t.ctx x = (s.ctx x).answered num (budxAnswer (s.budxCode n e units)) b
  entry : ∃ f, tfind t.entries n = some f ∧ e.Tested f (s.budxCode n e units) units

/-- The context keeps the answer of its test. -/
def State.keepBudx (s : State) (x num : Nat) (v : Word) : State := s.modCtx x fun c => { c with budxKept := some (num, v) }

theorem State.ctx_keepBudx (s : State) (x num : Nat) (v : Word) :
    (s.keepBudx x num v).ctx x = (s.ctx x).answered num v (s.ctx x).bp := State.ctx_modCtx_self ..

section
variable {num : Nat} {v : Word} (he : tfind s.entries n = some e)
include he

/-- A test that grants: the units are added, and an entry with units left is FUNDED. -/
theorem State.budxTested_granted (hc : s.budxCode n e v = 0) : ∃ t, State.performBudx.test n x num v s e = (t, 0) ∧
    BudxTested s t n x num e v := by
  let k := s.keepBudx x num (budxAnswer (s.budxCode n e v))
  let f : Entry := { e with remain := e.remain + v.toNat }
  have kept := s.ctx_keepBudx x num (budxAnswer (s.budxCode n e v))
  have more : f.remain = e.remain + if s.budxCode n e v = 0 then v.toNat else 0 := by rw [if_pos hc]
  have added : k.modEntry n (fun e => { e with remain := e.remain + v.toNat }) = { k with entries := tset s.entries n f } :=
    State.modEntry_eq _ he
  have test : State.performBudx.test n x num v s e =
      if e.bst ≠ .funded ∧ 0 < f.remain then
        (((({ k with entries := tset s.entries n f } : State).modEntry n fun e => { e with bst := .funded }).setBp n false).refreshAll n, 0)
      else ({ k with entries := tset s.entries n f }, 0) := by
    rw [← added]
    unfold State.performBudx.test
    dsimp only [k, State.keepBudx, budxAnswer]
    rw [if_pos hc, if_pos hc]
  rw [test, State.modEntry_eq (e := f) _ (tfind_tset_self _ _ _)]
  split
  · refine ⟨_, rfl, ?_⟩
    let w : State := { k with entries := tset (tset s.entries n f) n { f with bst := .funded } }
    have refresh := (w.setBp n false).refreshOnly_refreshAll n
    obtain ⟨r, found⟩ := refresh.entry n { f with bst := .funded } (tfind_tset_self _ _ _)
    obtain ⟨b, cleared⟩ := w.ctx_setBp (n := n) false x
    have ctx := (refresh.ctx x).trans (cleared.trans (congrArg (fun c : Ctx => { c with bp := b }) kept))
    exact ⟨by rw [refresh.rest]; rfl, ⟨b, ctx⟩, _, found, more, fun _ _ => rfl, fun h => absurd hc h⟩
  · rename_i funded
    exact ⟨_, rfl, rfl, ⟨_, kept⟩, f, tfind_tset_self _ _ _, more, fun _ left => not_not.1 fun h => funded ⟨h, left⟩,
      fun h => absurd hc h⟩

/-- A test that refuses: an OVERRUN entry is SPENT, and another one stays as it is. -/
theorem State.budxTested_refused (hc : s.budxCode n e v ≠ 0) : ∃ t,
    State.performBudx.test n x num v s e = (t, status (s.budxCode n e v)) ∧ BudxTested s t n x num e v := by
  let k := s.keepBudx x num (budxAnswer (s.budxCode n e v))
  have kept := s.ctx_keepBudx x num (budxAnswer (s.budxCode n e v))
  have same : e.remain = e.remain + if s.budxCode n e v = 0 then v.toNat else 0 := by rw [if_neg hc, Nat.cast_zero, Int.add_zero]
  have test : State.performBudx.test n x num v s e =
      if e.bst = .overrun then (k.spend n (BitVec.ofNat 8 (s.budxCode n e v)), status (s.budxCode n e v))
      else (k, status (s.budxCode n e v)) := by
    unfold State.performBudx.test
    dsimp only [k, State.keepBudx, budxAnswer]
    rw [if_neg hc, if_neg hc]
  rw [test]
  split
  · rename_i overrun
    refine ⟨_, rfl, ?_⟩
    obtain ⟨u, refresh, spent⟩ := State.spend_spec (s := k) (BitVec.ofNat 8 (s.budxCode n e v)) he
    obtain ⟨r, found⟩ := refresh.entry n e.toSpent (tfind_tset_self _ _ _)
    rw [spent]
    exact ⟨by rw [refresh.rest]; rfl, ⟨_, (refresh.ctx x).trans kept⟩, { e.toSpent with refreshed := r }, found, same,
      fun h => absurd h hc, fun _ => by rw [if_pos overrun]; rfl⟩
  · rename_i other
    exact ⟨_, rfl, rfl, ⟨_, kept⟩, e, he, same, fun h => absurd h hc, fun _ => by rw [if_neg other]⟩

/-- A test that has not been made under its number is made. -/
theorem State.performBudx_tests (hk : ∀ w, (s.ctx x).budxKept ≠ some (num, w)) :
    ∃ t, s.performBudx n x num v = (t, budxAnswer (s.budxCode n e v)) ∧ BudxTested s t n x num e v := by
  have test : s.performBudx n x num v = State.performBudx.test n x num v s e := by
    unfold State.performBudx
    rw [he]
    dsimp only
    split
    · rename_i q w kept
      have other : q ≠ num := fun h => hk w (h ▸ kept)
      exact if_neg other
    · rfl
  rw [test, budxAnswer]
  split
  · exact State.budxTested_granted he ‹_›
  · exact State.budxTested_refused he ‹_›

/-- A test that has been made is answered from what the context keeps. -/
theorem State.performBudx_kept (hk : (s.ctx x).budxKept = some (num, v)) (w : Word) : s.performBudx n x num w = (s, v) := by
  unfold State.performBudx
  rw [he]
  dsimp only
  rw [hk]
  exact if_pos rfl

end

/-! ## Requests at their Prompter (R90, R91; 16 R312) -/

section
variable (hx : (s.ctx r.ctx).entry = some n) (he : tfind s.entries n = some e)
include hx he

theorem State.prompterOf_eq : s.prompterOf r.ctx = some e.die := by
  rw [State.prompterOf, hx, Option.bind_some, he, Option.map_some]

/-- A `bget` waits for no test, and a `budx` for that of the cycle. -/
theorem State.testWaits_eq : s.testWaits r = (r.budx && s.hasTested e.die) := by
  rw [State.testWaits, State.prompterOf_eq hx he]

theorem State.answerBudget_bget (hb : r.budx = false) : s.answerBudget r = (s, e.bget r.k) := by
  unfold State.answerBudget State.budgetAnswer
  rw [State.prompterOf_eq hx he]
  dsimp only
  rw [hb, if_neg Bool.false_ne_true, hx]
  dsimp only
  rw [if_neg Bool.false_ne_true, he]

theorem State.answerBudget_budx (hb : r.budx = true) :
    s.answerBudget r = (s.noteTest e.die).performBudx n r.ctx r.num r.units := by
  unfold State.answerBudget State.budgetAnswer
  rw [State.prompterOf_eq hx he]
  dsimp only
  rw [hb, if_pos rfl, show ((s.noteTest e.die).ctx r.ctx).entry = some n from hx]
  dsimp only
  rw [if_pos rfl]

end

/-- The figure that a `bget` names (R91). -/
theorem Entry.bget_eq (e : Entry) (k : BitVec 2) : e.bget k =
    if k = 0 then wrap e.remain else if k = 1 then BitVec.ofNat 64 e.total else if k = 2 then BitVec.ofNat 64 e.rolled
      else if e.bg ∨ e.demoted then wrap (-1) else BitVec.ofNat 64 e.dline := by
  have deadline : e.deadline = if e.bg ∨ e.demoted then wrap (-1) else BitVec.ofNat 64 e.dline :=
    if_congr (by rw [Bool.or_eq_true]) rfl rfl
  rw [← deadline]
  match k with
  | 0#2 => rfl
  | 1#2 => rfl
  | 2#2 => rfl
  | 3#2 => rfl

/-! ## The reply (R90, R91) -/

/-- The state in which a reply completes its instruction: the asking context acts, and its `budx` has been counted. -/
def State.atReply (s : State) (r : BudgetReq) : State :=
  let s := { s with cur := r.ctx }
  if r.budx then s.mod fun c => { c with budxNum := c.budxNum + 1 } else s

theorem State.budgetDone_eq (v : Word) : s.budgetDone r v = ((s.atReply r).wx r.xd v).finish := rfl

theorem State.self_atReply : (s.atReply r).self =
    { s.ctx r.ctx with budxNum := if r.budx then (s.ctx r.ctx).budxNum + 1 else (s.ctx r.ctx).budxNum } := by
  unfold State.atReply
  dsimp only
  split
  · rw [State.self_mod]
    rfl
  · rfl

/-- A reply changes no entry. -/
theorem State.budgetDone_entries (v : Word) : (s.budgetDone r v).entries = s.entries := by
  rw [State.budgetDone_eq, State.finish_entries, State.wx_entries]
  unfold State.atReply
  dsimp only
  split <;> rfl

/-- The asking context after the reply. -/
theorem State.budgetDone_self (v : Word) : ∃ z, tfind (s.budgetDone r v).ctxs r.ctx = some z ∧ (s.budgetDone r v).self = z ∧
    z.pc = (s.ctx r.ctx).pc + 4 ∧ z.wait = .none ∧
    z.budxNum = (if r.budx then (s.ctx r.ctx).budxNum + 1 else (s.ctx r.ctx).budxNum) ∧
    ∀ k : BitVec 5, z.x? k.toNat = if k = r.xd ∧ k ≠ 0 then v else (s.ctx r.ctx).x? k.toNat := by
  have cur : (s.atReply r).cur = r.ctx := by
    unfold State.atReply
    dsimp only
    split <;> rfl
  obtain ⟨-, keeps, xs⟩ := (s.atReply r).wroteX_result r.xd v
  have listed (w : State) : tfind w.finish.ctxs w.cur = some w.finish.self := by
    rw [State.finish, State.self_mod]
    exact tfind_tset_self _ _ _
  rw [State.budgetDone_eq]
  refine ⟨_, ?_, rfl, ?_, ?_, ?_, fun k => ?_⟩
  · rw [← listed, State.wx_cur, cur]
  · rw [keeps, Ctx.doneAt_eq, State.self_atReply]
  · rw [keeps, Ctx.doneAt_eq]
    rfl
  · rw [keeps, Ctx.doneAt_eq]
    exact congrArg Ctx.budxNum State.self_atReply
  · rw [← State.rx, xs k, State.rx, State.self_atReply]
    rfl

end

end Sys2Proof.Machine
end

section
/-! PROOFS. The budget instructions, and the events of budgets (04 R90, R91; 16 R312-R317). -/

set_option Elab.async false

namespace Sys2Proof.Machine

section
variable {s : State} {n x q cell die : Nat} {e : Entry} {r : BudgetReq} {c y : Ctx} {d a : BitVec 5} {k : BitVec 2}

/-! ## The budget instructions (R90, R91) -/

section
variable (hb : s.bringCharges = s)
include hb

theorem exec_budx_waits (hw : s.engineWork s.cur = true) : exec (.budx d a) s = .next (s.stall .again) := by
  show execBudx d a s = _
  unfold execBudx
  dsimp only
  rw [hb, hw]
  rfl

theorem exec_bget_waits (hw : s.engineWork s.cur = true ∨ s.updatesOf s.cur = true) : exec (.bget d k) s = .next (s.stall .again) := by
  show execBget d k s = _
  unfold execBget
  dsimp only
  rw [hb, (Bool.or_eq_true _ _).mpr hw]
  rfl

theorem exec_budx_sends (hw : s.engineWork s.cur = false) : exec (.budx d a) s =
    .next (s.sendBudget { ctx := s.cur, budx := true, units := s.rx a, num := s.self.budxNum, xd := d }) := by
  show execBudx d a s = _
  unfold execBudx
  dsimp only
  rw [hb, hw]
  rfl

theorem exec_bget_sends (hw : s.engineWork s.cur = false) (hu : s.updatesOf s.cur = false) : exec (.bget d k) s =
    .next (s.sendBudget { ctx := s.cur, budx := false, k := k, num := s.self.budxNum, xd := d }) := by
  show execBget d k s = _
  unfold execBget
  dsimp only
  rw [hb, hw, hu]
  rfl

end

/-- A request that nothing holds up is answered and completes its instruction at once (log 10). -/
theorem State.sendBudget_answered (hh : s.holds = []) (hw : s.testWaits r = false) :
    s.sendBudget r = (s.answerBudget r).1.budgetDone r (s.answerBudget r).2 := by
  unfold State.sendBudget State.takeHold
  rw [hh]
  dsimp only
  rw [hw]
  rfl

section
variable (hn : s.self.entry = some n) (he : tfind s.entries n = some e) (hb : s.bringCharges = s) (hh : s.holds = [])
  (hw : s.engineWork s.cur = false)
include hn he hb hh hw

theorem exec_bget_result (hu : s.updatesOf s.cur = false) : exec (.bget d k) s = s.result d (e.bget k) := by
  let r : BudgetReq := { ctx := s.cur, budx := false, k := k, num := s.self.budxNum, xd := d }
  have quiet : s.testWaits r = false := (State.testWaits_eq (r := r) hn he).trans (Bool.false_and _)
  rw [exec_bget_sends hb hw hu, State.sendBudget_answered hh quiet, State.answerBudget_bget (r := r) hn he rfl]
  rfl

/-- A `budx` whose test is made at once gives its answer, and its entry stands as the code says. -/
theorem exec_budx_tested (hk : ∀ p v, s.self.budxKept = some (p, v) → p ≠ s.self.budxNum) (ht : s.hasTested e.die = false) :
    ∃ t f, exec (.budx d a) s = .next t ∧ tfind t.entries n = some f ∧ e.Tested f (s.budxCode n e (s.rx a)) (s.rx a) ∧
      (∀ r : BitVec 5, t.rx r = if r = d ∧ r ≠ 0 then budxAnswer (s.budxCode n e (s.rx a)) else s.rx r) ∧
      t.self.pc = s.self.pc + 4 := by
  let r : BudgetReq := { ctx := s.cur, budx := true, units := s.rx a, num := s.self.budxNum, xd := d }
  have quiet : s.testWaits r = false := (State.testWaits_eq (r := r) hn he).trans ht
  obtain ⟨t, answered, -, ⟨b, ctx⟩, f, found, tested⟩ := State.performBudx_tests (s := s.noteTest e.die) (x := s.cur)
    (num := s.self.budxNum) (v := s.rx a) he fun w kept => hk _ w kept rfl
  rw [(s.prompterOnly_noteTest e.die).budxCode] at answered ctx tested
  obtain ⟨z, -, self, pc, -, -, xs⟩ := t.budgetDone_self (r := r) (budxAnswer (s.budxCode n e (s.rx a)))
  rw [show t.ctx r.ctx = _ from ctx] at pc xs
  refine ⟨t.budgetDone r (budxAnswer (s.budxCode n e (s.rx a))), f, ?_, ?_, tested, fun p => ?_, ?_⟩
  · rw [exec_budx_sends hb hw, State.sendBudget_answered hh quiet, State.answerBudget_budx (r := r) hn he rfl, answered]
  · rw [State.budgetDone_entries, found]
  · rw [State.rx, self]
    exact xs p
  · rw [self]
    exact pc

end

/-! ## Charges on their way, grace and refreshes (16 R312, R313, R317) -/

theorem exec_chargeBatchSend {u : Unsent} (hu : tfind (s.cell cell).unsent n = some u) : exec (.chargeBatchSend cell n) s =
    if 256 ≤ u.units ∨ u.since + 256 ≤ s.cyc (dieOfCell cell) then .next (s.sendCharges cell n) else .next s := by
  show execChargeBatchSend cell n s = _
  unfold execChargeBatchSend State.batchDue
  rw [hu]
  dsimp only
  simp only [Bool.or_eq_true, decide_eq_true_eq]

section
variable {u : Unsent} (hu : tfind (s.cell cell).unsent n = some u) (he : tfind s.entries n = some e)
include hu he

theorem State.sendCharges_eq :
    s.sendCharges cell n = (s.modCell cell fun c => { c with unsent := tdel c.unsent n }).modDie e.die fun d =>
      { d with charges := d.charges ++ [{ entry := n, units := u.units, rolled := u.rolled, cell := cell }] } := by
  unfold State.sendCharges
  rw [hu, he]

theorem State.unsent_sendCharges : ((s.sendCharges cell n).cell cell).unsent = tdel (s.cell cell).unsent n := by
  rw [State.sendCharges_eq hu he]
  exact congrArg Cell.unsent (s.cell_modCell_self cell fun c => { c with unsent := tdel c.unsent n })

theorem State.charges_sendCharges : ((s.sendCharges cell n).die e.die).charges =
    (s.die e.die).charges ++ [{ entry := n, units := u.units, rolled := u.rolled, cell := cell }] := by
  rw [State.sendCharges_eq hu he, State.die_modDie_self]
  rfl

end

theorem cast_sum_units (l : List Charge) : (((l.map fun c => c.units).sum : Nat) : Int) = (l.map fun c => (c.units : Int)).sum := by
  rw [Nat.cast_list_sum, List.map_map]
  rfl

theorem exec_graceCountExhausted (he : tfind s.entries n = some e) : exec (.graceCountExhausted n) s = .next (s.exhaust n) := by
  show execGraceCountExhausted n s = _
  unfold execGraceCountExhausted
  rw [he]

theorem exec_budRefresh {w : Nat × Nat × Word × Word} (h : (s.refreshes.find? fun w => w.1 = cell && w.2.1 = n) = some w) :
    exec (.budRefresh cell n) s = .next { s with
      refreshes := s.refreshes.erase w
      ctxs := s.ctxs.map fun p => if p.2.entry = some n ∧ p.2.cell = cell then (p.1, { p.2 with bud := w.2.2.1, dl := w.2.2.2 }) else p } := by
  show execBudRefresh cell n s = _
  unfold execBudRefresh
  rw [h]

/-! ## Requests on their way, and replies (04 R90, R91) -/

/-- A test that must wait for the next cycle leaves its request on its way (16 R312). -/
theorem State.serveBudget_waits {b : Bool} (hr : tfind s.breqs q = some r) (hw : s.testWaits r = true) : s.serveBudget q b = s := by
  unfold State.serveBudget
  rw [hr]
  exact if_pos (.inr (.inr hw))

section
variable (hr : tfind s.breqs q = some r) (ha : r.answer = none) (hx : (s.ctx r.ctx).entry = some n) (he : tfind s.entries n = some e)
  (hc : (s.die e.die).charges = [])
include hr ha hx he hc

/-- A request that does not wait is answered, where no charge has to be applied first. -/
theorem State.serveBudget_answers {b : Bool} (hb : r.budx = b) (hw : s.testWaits r = false) : s.serveBudget q b =
    { ((s.chargesTaken e.die).answerBudget r).1 with
      breqs := tset ((s.chargesTaken e.die).answerBudget r).1.breqs q
        { r with answer := some ((s.chargesTaken e.die).answerBudget r).2 } } := by
  have none_due : s.applyCharges e.die = s.chargesTaken e.die := by
    rw [State.applyCharges_eq, hc]
    rfl
  have goes : ¬ (r.budx ≠ b ∨ r.answer.isSome = true ∨ s.testWaits r = true) := by
    rw [ha, hw]
    rintro (h | h | h)
    · exact h hb
    · cases h
    · cases h
  unfold State.serveBudget
  rw [hr]
  dsimp only
  rw [if_neg goes, hx, Option.bind_some, he]
  dsimp only
  rw [none_due]

theorem exec_bgetRequest_answers (hb : r.budx = false) : ∃ t, exec (.bgetRequest q) s = .next t ∧
    tfind t.breqs q = some { r with answer := some (e.bget r.k) } ∧ t.entries = s.entries := by
  have quiet : s.testWaits r = false := by rw [State.testWaits_eq hx he, hb, Bool.false_and]
  have served := State.serveBudget_answers hr ha hx he hc hb quiet
  rw [State.answerBudget_bget (s := s.chargesTaken e.die) hx he hb] at served
  exact ⟨_, congrArg Host.Outcome.next served, tfind_tset_self _ _ _, rfl⟩

section
variable (hb : r.budx = true) (ht : s.hasTested e.die = false)
include hb ht

/-- A `budx` whose answer the context keeps is answered alike. -/
theorem exec_budxRequest_kept {v : Word} (hk : (s.ctx r.ctx).budxKept = some (r.num, v)) : ∃ t, exec (.budxRequest q) s = .next t ∧
    tfind t.breqs q = some { r with answer := some v } ∧ t.entries = s.entries := by
  have quiet : s.testWaits r = false := by rw [State.testWaits_eq hx he, hb, ht, Bool.true_and]
  have served := State.serveBudget_answers hr ha hx he hc hb quiet
  rw [State.answerBudget_budx (s := s.chargesTaken e.die) hx he hb,
    State.performBudx_kept (s := (s.chargesTaken e.die).noteTest e.die) he hk] at served
  exact ⟨_, congrArg Host.Outcome.next served, tfind_tset_self _ _ _, rfl⟩

theorem exec_budxRequest_tests (hk : ∀ v, (s.ctx r.ctx).budxKept ≠ some (r.num, v)) : ∃ t f, exec (.budxRequest q) s = .next t ∧
    tfind t.entries n = some f ∧ tfind t.breqs q = some { r with answer := some (budxAnswer (s.budxCode n e r.units)) } ∧
    e.Tested f (s.budxCode n e r.units) r.units := by
  have quiet : s.testWaits r = false := by rw [State.testWaits_eq hx he, hb, ht, Bool.true_and]
  have only := (s.prompterOnly_chargesTaken e.die).trans (State.prompterOnly_noteTest _ e.die)
  have served := State.serveBudget_answers hr ha hx he hc hb quiet
  obtain ⟨t, answered, -, -, f, found, tested⟩ :=
    State.performBudx_tests (s := (s.chargesTaken e.die).noteTest e.die) (v := r.units) he hk
  rw [only.budxCode] at answered tested
  rw [State.answerBudget_budx (s := s.chargesTaken e.die) hx he hb, answered] at served
  exact ⟨_, f, congrArg Host.Outcome.next served, found, tfind_tset_self _ _ _, tested⟩

end
end

theorem exec_budgetReplyArrival {v : Word} (hr : tfind s.breqs q = some r) (ha : r.answer = some v)
    (hw : (s.ctx r.ctx).wait = .budget q) :
    exec (.budgetReplyArrival q) s = .next (({ s with breqs := tdel s.breqs q } : State).budgetDone r v) := by
  show execBudgetReplyArrival q s = _
  unfold execBudgetReplyArrival
  rw [hr]
  dsimp only
  rw [ha]
  exact if_pos hw

/-! ## The BUDGET trap (16 R316) -/

/-- What a BUDGET trap records. -/
def Ctx.budgetCause (c : Ctx) : TrapCause :=
  { cause := cBUDGET.zeroExtend 13, code := cBUDGET, epc := c.pc, word := 0, addr := c.bud, info := c.bud }

theorem exec_budgetTrap (hy : tfind s.ctxs x = some y) : exec (.budgetTrap x) s =
    if y.budgetTurn then .next ((s.noteTurn x).takeTrap x y.budgetCause) else .next s := by
  show execBudgetTrap x s = _
  unfold execBudgetTrap
  rw [hy]
  rfl

/-- A context that takes the trap is in its slot or at a pantry core. -/
theorem Ctx.place_toSlot_of_budgetTurn (h : c.budgetTurn = true) : c.toSlot.place = .slot := by
  simp only [Ctx.budgetTurn, Ctx.running, Bool.and_eq_true, Bool.or_eq_true] at h
  obtain ⟨⟨⟨⟨_, here⟩, _⟩, _⟩, _⟩ := h
  unfold Ctx.toSlot
  dsimp only
  split
  · rfl
  · rename_i home
    have resident := here.resolve_right home
    unfold Ctx.resident at resident
    split at resident
    · assumption
    · cases resident

/-- A context that has entered the handler of a BUDGET trap. -/
structure BudgetTrapped (c z : Ctx) : Prop where
  bp       : z.bp = false
  pl       : z.pl = trapLevel c.pl
  pc       : z.pc = (c.trapRegs (trapLevel c.pl)).tvec
  place    : z.place = c.toSlot.place
  vsctDone : z.vsctDone = c.vsctDone
  trapRegs : z.trapRegs z.pl = { epc := c.pc, pl := c.pl, cause := 0x0C, word := 0, addr := c.bud, tvec := z.pc }
  xs       : ∀ k, z.x? k = c.x? k

theorem Ctx.budgetTrapped (c : Ctx) (now : Nat) : BudgetTrapped c ((c.settle now).enterTrap c.budgetCause).toSlot := by
  by_cases machine : trapLevel c.pl = 2
  · have entered : (c.settle now).enterTrap c.budgetCause = { c.settle now with
        t2 := { c.t2 with epc := c.pc, pl := c.pl, cause := 0x0C, word := 0, addr := c.bud }, pl := 2, pc := c.t2.tvec, bp := false } := by
      unfold Ctx.enterTrap
      rw [show trapLevel (c.settle now).pl = 2 from machine]
      rfl
    rw [entered]
    refine ⟨rfl, machine.symm, ?_, rfl, rfl, rfl, fun _ => rfl⟩
    rw [machine]
    rfl
  · have entered : (c.settle now).enterTrap c.budgetCause = { c.settle now with
        t1 := { c.t1 with epc := c.pc, pl := c.pl, cause := 0x0C, word := 0, addr := c.bud }, pl := trapLevel c.pl, pc := c.t1.tvec
        bp := false } := by
      unfold Ctx.enterTrap Ctx.setTrapRegs Ctx.trapRegs
      dsimp only
      rw [if_neg (show ¬ trapLevel (c.settle now).pl = 2 from machine), if_neg (show ¬ trapLevel (c.settle now).pl = 2 from machine)]
      rfl
    rw [entered]
    exact ⟨rfl, rfl, (congrArg TrapRegs.tvec (if_neg machine)).symm, rfl, rfl, if_neg machine, fun _ => rfl⟩

theorem State.entries_noteTurn : (s.noteTurn x).entries = s.entries := by
  unfold State.noteTurn
  dsimp only
  split <;> rfl

/-- A turn of a context in its slot is noted in its cell alone. -/
theorem State.cell_noteTurn (hp : (s.ctx x).place = .slot) (n : Nat) : (s.noteTurn x).cell n =
    if n = (s.ctx x).cell then { s.cell n with issued := tset (s.cell n).issued (s.ctx x).slot (s.cyc (dieOfCell n)) } else s.cell n := by
  unfold State.noteTurn
  dsimp only
  rw [hp]
  dsimp only
  rw [State.cell_modCell]
  split
  · rename_i own
    rw [own]
    rfl
  · rfl

section
variable (hy : s.ctx x = y) (hv : (y.trapRegs (trapLevel y.pl)).tvec ≠ 0)
include hy hv

/-- The context that takes the trap in its turn, and what the trap leaves of the module. -/
theorem State.budgetTrap_spec : ∃ z, tfind ((s.noteTurn x).takeTrap x y.budgetCause).ctxs x = some z ∧ BudgetTrapped y z ∧
    ((s.noteTurn x).takeTrap x y.budgetCause).entries = s.entries ∧
    (y.place = .slot → ∀ n, ((s.noteTurn x).takeTrap x y.budgetCause).cell n =
      if n = y.cell then { s.cell n with issued := tset (s.cell n).issued y.slot (s.cyc (dieOfCell n)) } else s.cell n) := by
  have turned := s.ctx_noteTurn (x := x)
  rw [hy] at turned
  have taken := (s.noteTurn x).takeTrap_eq x y.budgetCause (by rw [turned]; exact hv)
  rw [turned] at taken
  rw [taken]
  refine ⟨_, tfind_tset_self _ _ _, ?_, ?_, fun hp n => ?_⟩
  · obtain ⟨bp, pl, pc, place, lanes, regs, xs⟩ :=
      Ctx.budgetTrapped { y with lastIssue := some (s.cyc (dieOfCell y.cell)), gap := 8 } ((s.noteTurn x).cyc (dieOfCell y.cell))
    exact ⟨bp, pl, pc, place, lanes, regs, xs⟩
  · rw [State.setCtx_entries, State.cachesOnly_backHome]
    exact State.entries_noteTurn
  · rw [State.backHome_of_not_migrated (by
      show ((s.noteTurn x).ctx x).migrated = false
      rw [turned]
      unfold Ctx.migrated
      dsimp only
      rw [hp])]
    subst hy
    exact State.cell_noteTurn hp n

end

end

/-- Settles O10: a request that nothing holds up is answered at once; the answer and the entry are those of its test. -/
theorem budgetInstructions : Obligations.BudgetInstructions := by
  intro d a k n e s hn he hb hh u code
  refine ⟨fun hw => ⟨State.retries_again (exec_budx_waits hb hw), State.retries_again (exec_bget_waits hb (.inl hw))⟩,
    fun hu => State.retries_again (exec_bget_waits hb (.inr hu)),
    fun hw hu => givesX_of_eq (exec_bget_result hn he hb hh hw hu) (e.bget_eq k), fun hw hk ht => ?_⟩
  obtain ⟨t, f, done, found, ⟨remain, granted, _⟩, xs, pc⟩ := exec_budx_tested (d := d) (a := a) hn he hb hh hw hk ht
  rw [budxAnswer_budxCode] at xs
  refine ⟨fun hc => ⟨t, f, done, found, ?_, granted hc, fun r => ?_, pc⟩, fun hc => ⟨t, f, done, found, ?_, fun r => ?_, pc⟩⟩
  · rw [remain, if_pos hc]
  · rw [xs r, if_pos hc]
  · rw [remain, if_neg hc, Nat.cast_zero, Int.add_zero]
  · rw [xs r, if_neg hc]

/-- Settles O46: each event by the lemma that says what it does. -/
theorem budgetEvents : Obligations.BudgetEvents := by
  intro cell die n q x s
  refine ⟨fun u e hu he rises => ⟨fun due => ?send, fun few soon => ?keep⟩, ⟨_, rfl, s.charges_applyCharges die, fun e he => ?apply⟩,
    fun e he hb hn => ⟨fun room => ?grace, fun full => ?spend⟩, fun r hr => ⟨_, exec_budRefresh hr, rfl, fun i y hy => ?refresh⟩,
    fun r y e hr ha hy hx he hc => ?ask, fun r v y hr ha hy hw => ?reply, fun y hy => ?trap⟩
  case send =>
    refine ⟨_, (exec_chargeBatchSend hu).trans (if_pos due), ?_, State.charges_sendCharges hu he⟩
    rw [State.unsent_sendCharges hu he, tfind_tdel rises, if_pos rfl]
  case keep => exact (exec_chargeBatchSend hu).trans (if_neg (by omega))
  case apply =>
    obtain ⟨f, found, remain, total, rolled⟩ :=
      State.foldl_applyCharge (s := s.chargesTaken die) (s.die die).charges he
    have sum := cast_sum_units ((s.die die).charges.filter fun c => c.entry = n)
    refine ⟨f, found, by rw [remain, sum], by rw [total, Nat.cast_add, sum], rolled, fun hb hn c hc own => ?_, fun hb hn c hc own => ?_⟩
    all_goals
      have single := State.applyCharges_single hc
      rw [← State.applyCharges_eq, single] at found
      subst own
    · refine ⟨fun left => ?_, fun gone => ?_⟩
      · obtain ⟨g, hg, funded⟩ := State.applyCharge_funded (s := s.chargesTaken die) he hn hb left
        rw [found, Option.some.injEq] at hg
        rw [hg, funded]
      · obtain ⟨g, hg, overrun, grace, threads⟩ := State.applyCharge_overruns (s := s.chargesTaken die) he hn hb gone
        rw [found, Option.some.injEq] at hg
        rw [hg, single]
        exact ⟨overrun, grace, threads⟩
    · obtain ⟨g, hg, grace, state⟩ := State.applyCharge_overrun (s := s.chargesTaken die) he hn hb
      rw [found, Option.some.injEq] at hg
      rw [hg]
      exact ⟨grace, state⟩
  case grace =>
    rw [exec_graceCountExhausted he, State.exhaust_eq he, if_neg fun ⟨_, h, _⟩ => absurd room (not_lt.2 h)]
  case spend =>
    obtain ⟨u, refresh, spent⟩ := State.spend_spec 0 he
    obtain ⟨w, found⟩ := refresh.entry n e.toSpent (tfind_tset_self _ _ _)
    refine ⟨_, _, (exec_graceCountExhausted he).trans (congrArg Host.Outcome.next
      ((State.exhaust_eq he).trans ((if_pos ⟨hb, full, hn⟩).trans spent))), found, rfl, fun front => ?_, rfl, ?_, ?_⟩
    · show (e.demoted || !e.bg) = true
      rw [front, Bool.not_false, Bool.or_true]
    · rw [State.signal, State.part_modPart_self]
      rfl
    · show tset u.reports u.fresh _ = _
      rw [refresh.rest]
      rfl
  case refresh =>
    exact ⟨_, (tfind_map_ite s.ctxs (fun c => c.entry = some n ∧ c.cell = cell)
      (fun c => { c with bud := r.2.2.1, dl := r.2.2.2 }) i).trans (by rw [hy]; rfl), rfl⟩
  case ask =>
    rw [← State.ctx_of_tfind hy] at hx ⊢
    refine ⟨fun hb => ?_, fun hb ht => ?_, fun hb ht hk => ?_, fun hb ht v hk => ?_⟩
    · obtain ⟨t, answered, breq, entries⟩ := exec_bgetRequest_answers hr ha hx he hc hb
      rw [e.bget_eq r.k] at breq
      exact ⟨t, answered, breq, entries⟩
    · have waits : s.testWaits r = true := by rw [State.testWaits_eq hx he, hb, ht, Bool.true_and]
      exact congrArg Host.Outcome.next (State.serveBudget_waits hr waits)
    · obtain ⟨t, f, answered, found, breq, remain, _, refused⟩ := exec_budxRequest_tests hr ha hx he hc hb ht hk
      rw [budxAnswer_budxCode] at breq
      exact ⟨t, f, answered, found, breq, remain, refused⟩
    · exact exec_budxRequest_kept hr ha hx he hc hb ht hk
  case reply =>
    rw [← State.ctx_of_tfind hy] at hw ⊢
    obtain ⟨z, found, _, pc, wait, num, xs⟩ := State.budgetDone_self (s := { s with breqs := tdel s.breqs q }) (r := r) v
    exact ⟨_, z, exec_budgetReplyArrival hr ha hw, found, pc, wait, num, xs⟩
  case trap =>
    refine ⟨fun idle => (exec_budgetTrap hy).trans (by rw [idle]; rfl), fun turn hv => ?_⟩
    obtain ⟨z, found, ⟨bp, pl, pc, place, lanes, regs, xs⟩, entries, cells⟩ := State.budgetTrap_spec (State.ctx_of_tfind hy) hv
    exact ⟨_, z, (exec_budgetTrap hy).trans (if_pos turn), found, bp, pl, pc,
      place.trans (Ctx.place_toSlot_of_budgetTurn turn), lanes, regs, xs, entries, cells⟩

end Sys2Proof.Machine
end

section
/-! PROOFS. Memories in canonical form: what every step keeps (05 R97, R127; 20 R359; 21 R368, R369), and its rules for the ways a
computation ends. -/

set_option Elab.async false

namespace Sys2Proof.Machine

/-! ## What is kept -/

/-- The flash and the fuses of `t` are those of `s₀`, and the memories of `t` are canonical if those of `s₀` are. -/
structure State.MemKept (s₀ t : State) : Prop where
  fixed : t.fixed = s₀.fixed
  memWf : s₀.memWf = true → t.memWf = true

/-- A bank read where the memories of `s₀` were kept is canonical. -/
def State.BankKept (s₀ : State) (b : Bank) : Prop := s₀.memWf = true → b.wf = true

/-- The next state of a meaning, where there is one, keeps the memories of `s₀`. -/
def MemNext (s₀ : State) : Host.Outcome State Fault Refusal → Prop
  | .next t => s₀.MemKept t
  | _ => True

/-- An attempt goes on with what satisfies `P`, or ends in a state that keeps the memories of `s₀`. -/
abbrev MemTries (s₀ : State) {α : Type} (P : α → Prop) (r : Attempt α) : Prop := Ends s₀.MemKept P r

/-- An access that is not refused gives what satisfies `P`. -/
abbrev MemGives {α : Type} (P : α → Prop) (r : Except Byte α) : Prop := Ends (fun _ => True) P r

/-- The state of an optional result, where there is one, keeps the memories of `s₀`. -/
def MemSome (s₀ : State) : Option State → Prop
  | some t => s₀.MemKept t
  | none => True

section
variable {s₀ s t : State} {α β : Type} {P : α → Prop} {Q : β → Prop}

theorem State.MemKept.refl (s : State) : s.MemKept s := ⟨rfl, id⟩

/-- The same memories, flash and fuses. -/
theorem State.MemKept.same (h : s₀.MemKept s) (hc : t.cells = s.cells := by rfl) (hd : t.dies = s.dies := by rfl)
    (hf : t.fixed = s.fixed := by rfl) : s₀.MemKept t :=
  ⟨hf.trans h.fixed, fun w => State.memWf_of_eq hc hd (h.memWf w)⟩

theorem State.MemKept.ite {p : Prop} [Decidable p] (h : s₀.MemKept s) (k : s₀.MemKept t) : s₀.MemKept (if p then s else t) := by
  split
  · exact h
  · exact k

theorem State.MemKept.foldl {f : State → α → State} (h : s₀.MemKept s) (hf : ∀ t x, s₀.MemKept t → s₀.MemKept (f t x))
    (l : List α) : s₀.MemKept (l.foldl f s) := by
  induction l generalizing s with
  | nil => exact h
  | cons x l ih => exact ih (hf s x h)

theorem State.MemKept.fst {x : α} {p : State × α} (h : s₀.MemKept p.1) (e : p = (t, x)) : s₀.MemKept t := by rwa [e] at h
theorem State.MemKept.snd {x : α} {p : α × State} (h : s₀.MemKept p.2) (e : p = (x, t)) : s₀.MemKept t := by rwa [e] at h
theorem State.MemKept.next (h : s₀.MemKept s) : MemNext s₀ (.next s) := h

theorem MemSome.some {o : Option State} (h : MemSome s₀ o) (e : o = .some t) : s₀.MemKept t := by rwa [e] at h

theorem MemNext.ite {a b : Host.Outcome State Fault Refusal} {p : Prop} [Decidable p] (h : MemNext s₀ a) (k : MemNext s₀ b) :
    MemNext s₀ (if p then a else b) := by
  split
  · exact h
  · exact k

theorem MemTries.conclude {r : Attempt State} (h : MemTries s₀ s₀.MemKept r) : MemNext s₀ (conclude r) := by
  cases r with
  | ok a => exact h
  | error a => exact h

/-! ## Cells and dies -/

/-- One cell changes, and keeps its memories. -/
theorem State.MemKept.modCell {n f} (h : s₀.MemKept s)
    (hf : ∀ c : Cell, s₀.memWf = true → c.wf = true → (f c).wf = true := by exact fun _ _ h => h) : s₀.MemKept (s.modCell n f) :=
  ⟨h.fixed, fun w => State.memWf_modCell n f (h.memWf w) (hf _ w (State.cell_wf (h.memWf w) n))⟩

/-- One die changes, and keeps its memories. -/
theorem State.MemKept.modDie {n f} (h : s₀.MemKept s)
    (hf : ∀ d : Die, s₀.memWf = true → d.wf = true → (f d).wf = true := by exact fun _ _ h => h) : s₀.MemKept (s.modDie n f) :=
  ⟨h.fixed, fun w => State.memWf_modDie n f (h.memWf w) (hf _ w (State.die_wf (h.memWf w) n))⟩

/-- The cells are changed one by one, and each keeps its memories. -/
theorem State.MemKept.mapCells (h : s₀.MemKept s) {f : Nat × Cell → Nat × Cell} (hc : t.cells = s.cells.map f := by rfl)
    (hd : t.dies = s.dies := by rfl) (hx : t.fixed = s.fixed := by rfl)
    (hf : ∀ p, p.2.wf = true → (f p).2.wf = true := by exact fun _ h => h) : s₀.MemKept t := by
  refine ⟨hx.trans h.fixed, fun w => ?_⟩
  obtain ⟨hcells, hdies⟩ := (State.memWf_iff s).1 (h.memWf w)
  rw [State.memWf_iff, hc, hd]
  refine ⟨?_, hdies⟩
  simp only [List.all_map, List.all_eq_true, Function.comp] at *
  exact fun p hp => hf p (hcells p hp)

/-- The dies are changed one by one, and each keeps its memories. -/
theorem State.MemKept.mapDies (h : s₀.MemKept s) {f : Nat × Die → Nat × Die} (hd : t.dies = s.dies.map f := by rfl)
    (hc : t.cells = s.cells := by rfl) (hx : t.fixed = s.fixed := by rfl)
    (hf : ∀ p, p.2.wf = true → (f p).2.wf = true := by exact fun _ h => h) : s₀.MemKept t := by
  refine ⟨hx.trans h.fixed, fun w => ?_⟩
  obtain ⟨hcells, hdies⟩ := (State.memWf_iff s).1 (h.memWf w)
  rw [State.memWf_iff, hc, hd]
  refine ⟨hcells, ?_⟩
  simp only [List.all_map, List.all_eq_true, Function.comp] at *
  exact fun p hp => hf p (hdies p hp)

/-! ## Cells and dies whose memories change -/

/-- A cell whose scratchpad alone of its memories changes. -/
theorem Cell.wf_withSpad {c d : Cell} (h : c.wf = true) (hs : d.spad.wf = true) (ha : d.latch = c.latch := by rfl)
    (hl : d.l1 = c.l1 := by rfl) : d.wf = true := by
  rw [Cell.wf_iff] at *
  rw [ha, hl]
  exact ⟨hs, h.2⟩

/-- A cell whose L1 alone of its memories changes. -/
theorem Cell.wf_withL1 {c d : Cell} (h : c.wf = true) (hl : (d.l1.all fun p => p.2.wf) = true) (hs : d.spad = c.spad := by rfl)
    (ha : d.latch = c.latch := by rfl) : d.wf = true := by
  rw [Cell.wf_iff] at *
  rw [ha, hs]
  exact ⟨h.1, h.2.1, h.2.2.1, hl⟩

/-- A cell whose latch alone of its memories changes. -/
theorem Cell.wf_withLatch {c d : Cell} (h : c.wf = true) (hf : Memory.wf d.latch.f = true) (hk : Memory.wf d.latch.k = true)
    (hs : d.spad = c.spad := by rfl) (hl : d.l1 = c.l1 := by rfl) : d.wf = true := by
  rw [Cell.wf_iff] at *
  rw [hl, hs]
  exact ⟨h.1, hf, hk, h.2.2.2⟩

theorem Cell.spad_wf {c : Cell} (h : c.wf = true) : c.spad.wf = true := ((Cell.wf_iff c).1 h).1
theorem Cell.front_wf {c : Cell} (h : c.wf = true) : Memory.wf c.latch.f = true := ((Cell.wf_iff c).1 h).2.1
theorem Cell.back_wf {c : Cell} (h : c.wf = true) : Memory.wf c.latch.k = true := ((Cell.wf_iff c).1 h).2.2.1
theorem Cell.l1_wf {c : Cell} (h : c.wf = true) : (c.l1.all fun p => p.2.wf) = true := ((Cell.wf_iff c).1 h).2.2.2

/-- A cell that changes in one of two ways. -/
theorem Cell.wf_ite {c d : Cell} {p : Prop} [Decidable p] (h : c.wf = true) (k : d.wf = true) :
    (if p then c else d).wf = true := by
  split
  · exact h
  · exact k

/-- A die whose L2 alone of its memories changes. -/
theorem Die.wf_withL2 {c d : Die} (h : c.wf = true) (hl : (d.l2.all fun p => p.2.wf) = true) (hm : d.dram = c.dram := by rfl) :
    d.wf = true := by
  rw [Die.wf_iff] at *
  rw [hm]
  exact ⟨h.1, hl⟩

/-- A die whose DRAM alone of its memories changes. -/
theorem Die.wf_withDram {c d : Die} (h : c.wf = true) (hm : d.dram.wf = true) (hl : d.l2 = c.l2 := by rfl) : d.wf = true := by
  rw [Die.wf_iff] at *
  rw [hl]
  exact ⟨hm, h.2⟩

theorem Die.dram_wf {d : Die} (h : d.wf = true) : d.dram.wf = true := ((Die.wf_iff d).1 h).1
theorem Die.l2_wf {d : Die} (h : d.wf = true) : (d.l2.all fun p => p.2.wf) = true := ((Die.wf_iff d).1 h).2

/-- A bank whose poison marks alone change. -/
theorem Bank.wf_withPoison {b : Bank} (h : b.wf = true) {p : NSet} (hp : risesSet 0 p = true) : ({ b with poison := p } : Bank).wf = true := by
  rw [Bank.wf_iff] at *
  exact ⟨h.1, h.2.1, h.2.2.1, hp⟩

/-- A bank that takes poison marks. -/
theorem Bank.wf_poisoned {b : Bank} (h : b.wf = true) (l : List Nat) : ({ b with poison := l.foldl nins b.poison } : Bank).wf = true :=
  Bank.wf_withPoison h (risesSet_foldl l _ (fun _ _ ht => risesSet_nins ht (Nat.zero_le _)) ((Bank.wf_iff b).1 h).2.2.2)

/-- A store through a view keeps the form of its bank. -/
theorem bank_wf_viewStore {b : Bank} (w off : Nat) (bs : List Byte) (h : b.wf = true) : (b.viewStore w off bs).wf = true := by
  have planes (l : List Byte) (t : Memory × Nat) (ht : Memory.wf t.1 = true) :
      Memory.wf (l.foldl (fun (t : Memory × Nat) v => (nestedPut t.1 0 (off + t.2) w (clampNested w (byteInt v)), t.2 + 1)) t).1 = true := by
    induction l generalizing t with
    | nil => exact ht
    | cons v l ih => exact ih _ (nestedPut_wf _ _ _ _ ht)
  unfold Bank.viewStore
  split
  · exact bank_wf_write off bs h
  · obtain ⟨hb, hf, ht, hp⟩ := (Bank.wf_iff b).1 h
    exact (Bank.wf_iff _).2 ⟨planes bs _ hb, risesSet_foldl _ _ (fun _ _ h => risesSet_nins h (Nat.zero_le _)) hf,
      risesSet_foldl _ _ (fun _ _ h => risesSet_ndel _ h) ht, risesSet_foldl _ _ (fun _ _ h => risesSet_ndel _ h) hp⟩

/-! ## Changes of the other units -/

theorem State.MemKept.setCtx {i c} (h : s₀.MemKept s) : s₀.MemKept (s.setCtx i c) := h.same
theorem State.MemKept.modCtx {i f} (h : s₀.MemKept s) : s₀.MemKept (s.modCtx i f) := h.same
theorem State.MemKept.mod {f} (h : s₀.MemKept s) : s₀.MemKept (s.mod f) := h.same
theorem State.MemKept.modPart {n f} (h : s₀.MemKept s) : s₀.MemKept (s.modPart n f) := h.same
theorem State.MemKept.modPdie {p d f} (h : s₀.MemKept s) : s₀.MemKept (s.modPdie p d f) := h.same

theorem State.MemKept.setEntry {n : Nat} {e : Entry} (h : s₀.MemKept s) :
    s₀.MemKept ({ s with entries := tset s.entries n e } : State) := h.same

theorem State.MemKept.withEntries {l : Table Entry} (h : s₀.MemKept s) : s₀.MemKept ({ s with entries := l } : State) := h.same

theorem State.MemKept.modEntry {n f} (h : s₀.MemKept s) : s₀.MemKept (s.modEntry n f) := by
  unfold State.modEntry
  split
  · exact h.same
  · exact h

end

end Sys2Proof.Machine
end

section
/-! PROOFS. Memories stay in canonical form: the operations on the state (Sys2Proof/Machine/Ops.lean). -/

set_option Elab.async false

namespace Sys2Proof.Machine

section
variable {s₀ s t : State} {c : Ctx}

theorem State.MemKept.modLease (h : s₀.MemKept s) {n f} : s₀.MemKept (s.modLease n f) := by
  unfold State.modLease
  split
  · exact h.same
  · exact h

theorem State.MemKept.modGroup (h : s₀.MemKept s) {n f} : s₀.MemKept (s.modGroup n f) := by
  unfold State.modGroup
  split
  · exact h.same
  · exact h

theorem State.MemKept.takeFresh (h : s₀.MemKept s) : s₀.MemKept s.takeFresh.2 := h.same

theorem State.MemKept.wx (h : s₀.MemKept s) {n} {r : BitVec n} {v} : s₀.MemKept (s.wx r v) := h.mod

theorem State.MemKept.wv (h : s₀.MemKept s) {n} {r : BitVec n} {v} : s₀.MemKept (s.wv r v) := h.mod

theorem State.MemKept.wp (h : s₀.MemKept s) {n} {r : BitVec n} {v} : s₀.MemKept (s.wp r v) := h.mod

theorem State.MemKept.wc (h : s₀.MemKept s) {n} {r : BitVec n} {v} : s₀.MemKept (s.wc r v) := h.mod

theorem State.MemKept.orFlags (h : s₀.MemKept s) {f} : s₀.MemKept (s.orFlags f) := h.mod

theorem State.MemKept.finish (h : s₀.MemKept s) : s₀.MemKept s.finish := h.mod

theorem State.MemKept.finishAt (h : s₀.MemKept s) {t} : s₀.MemKept (s.finishAt t) := h.mod

theorem State.MemKept.stall (h : s₀.MemKept s) {w} : s₀.MemKept (s.stall w) := h.mod

theorem State.MemKept.park (h : s₀.MemKept s) {w} : s₀.MemKept (s.park w) := h.mod

theorem State.MemKept.takeHold (h : s₀.MemKept s) : s₀.MemKept s.takeHold.2 := by
  unfold State.takeHold
  split
  · exact h
  · exact h.same

theorem State.MemKept.chargeRolled (h : s₀.MemKept s) {cell entry units rolled} : s₀.MemKept (s.chargeRolled cell entry units rolled) := by
  unfold State.chargeRolled
  dsimp only
  split
  · exact h
  · exact h.modCell

theorem State.MemKept.chargeCell (h : s₀.MemKept s) {cell entry units} : s₀.MemKept (s.chargeCell cell entry units) := h.chargeRolled

theorem State.MemKept.sendCharges (h : s₀.MemKept s) {cell entry} : s₀.MemKept (s.sendCharges cell entry) := by
  unfold State.sendCharges
  dsimp only
  split
  · exact h.modCell.modDie
  · exact h

theorem State.MemKept.chargeNow (h : s₀.MemKept s) {cell entry units rolled} : s₀.MemKept (s.chargeNow cell entry units rolled) := by
  unfold State.chargeNow
  split
  · exact h
  · split
    · exact h.modDie
    · exact h

theorem State.MemKept.report (h : s₀.MemKept s) {part d0 addr info _die' payload} : s₀.MemKept (s.report part d0 addr info _die' payload) :=
  h.same

theorem State.MemKept.reportCtx (h : s₀.MemKept s) {i code prec src addr info} : s₀.MemKept (s.reportCtx i code prec src addr info) := by
  unfold State.reportCtx
  exact h.report

theorem State.MemKept.wakeMsg (h : s₀.MemKept s) {ctx cls} : s₀.MemKept (s.wakeMsg ctx cls) := by
  unfold State.wakeMsg
  dsimp only
  split
  · exact (h.setCtx.same).ite h
  · exact h

theorem State.MemKept.reportQFull (h : s₀.MemKept s) {part cell cls m} : s₀.MemKept (s.reportQFull part cell cls m) := by
  unfold State.reportQFull
  exact h.report

theorem State.MemKept.enqueueGen (h : s₀.MemKept s) {cell cls part m} : s₀.MemKept (s.enqueueGen cell cls part m) := by
  unfold State.enqueueGen
  split
  · exact h.modCell
  · exact h.reportQFull

theorem State.MemKept.deliverGen (h : s₀.MemKept s) {cell cls part m pkt} : s₀.MemKept (s.deliverGen cell cls part m pkt) := by
  unfold State.deliverGen
  split
  · exact h.reportQFull
  · exact h.enqueueGen.wakeMsg.ite (h.modCell.ite h.reportQFull)

theorem State.MemKept.deliverStore (h : s₀.MemKept s) {cell part x} : s₀.MemKept (s.deliverStore cell part x) :=
  h.ite (h.modCell.foldl (fun _ _ h1 => h1.enqueueGen) _)

theorem State.MemKept.reportDrop (h : s₀.MemKept s) {o code src mark always addr info pkt} :
    s₀.MemKept (s.reportDrop o code src mark always addr info pkt) := by
  unfold State.reportDrop
  dsimp only
  split
  · exact h.report
  · split
    · split
      · exact (h.report.modCtx).modCell.deliverGen
      · exact h.report.modCell.deliverGen
    · split
      · exact h.report.modCtx
      · exact h.report

theorem State.MemKept.leaveGuest (h : s₀.MemKept s) {x} : s₀.MemKept (s.leaveGuest x) := h.mapDies

theorem State.MemKept.leaveUnits (h : s₀.MemKept s) {x} : s₀.MemKept (s.leaveUnits x) := (h.leaveGuest (x := x)).same

theorem State.MemKept.backHome (h : s₀.MemKept s) {x} : s₀.MemKept (s.backHome x) := h.deliverStore.ite h

theorem State.MemKept.takeTrap (h : s₀.MemKept s) {i t} : s₀.MemKept (s.takeTrap i t) :=
  (h.leaveUnits.backHome.setCtx).reportCtx.ite h.leaveUnits.backHome.setCtx

theorem State.MemKept.endInTrap (h : s₀.MemKept s) {t} : s₀.MemKept (s.endInTrap t) := h.takeTrap.mod

theorem State.MemKept.trapAlone (h : s₀.MemKept s) {code addr} : s₀.MemKept (s.trapAlone code addr) := h.endInTrap

theorem State.MemKept.trap (h : s₀.MemKept s) {code addr} : s₀.MemKept (s.trap code addr) := (h.reportCtx.ite h).trapAlone

theorem State.MemKept.faultOut (h : s₀.MemKept s) {code addr} : MemNext s₀ (faultOut s code addr) := h.trap.next

theorem State.MemKept.eret (h : s₀.MemKept s) : s₀.MemKept s.eret :=
  h.trap.ite (h.trap.ite (h.trap.ite h.mod))

theorem State.MemKept.noteTurn (h : s₀.MemKept s) {x} : s₀.MemKept (s.noteTurn x) := by
  unfold State.noteTurn
  dsimp only
  split
  · exact (h.modCtx).modDie
  · exact (h.modCtx).modCell

end

end Sys2Proof.Machine
end

section
/-! PROOFS. Memories stay in canonical form: accesses of memory and of the L1 (Sys2Proof/Machine/Memory.lean). -/

set_option Elab.async false

namespace Sys2Proof.Machine

section
variable {s₀ s t : State} {c : Ctx}

/-- What only the homes and reports differ in, with canonical memories. -/
theorem State.MemKept.homes (h : s₀.MemKept s) (k : HomesOnly s t) (w : s.memWf = true → t.memWf = true) : s₀.MemKept t :=
  ⟨(congrArg State.fixed k).trans h.fixed, fun w₀ => w (h.memWf w₀)⟩

theorem State.MemKept.dramWrite (h : s₀.MemKept s) {die pa l} : s₀.MemKept (s.dramWrite die pa l) :=
  h.homes (s.homesOnly_dramWrite die pa l) (State.memWf_dramWrite die pa l)

theorem State.MemKept.l2Evict (h : s₀.MemKept s) {die pa} : s₀.MemKept (s.l2Evict die pa) :=
  h.homes (s.homesOnly_l2Evict die pa) (State.memWf_l2Evict die pa)

theorem State.MemKept.l2MakeRoom (h : s₀.MemKept s) {die slice k} : s₀.MemKept (s.l2MakeRoom die slice k) :=
  h.foldl (fun _ _ h1 => h1.l2Evict) _

theorem State.MemKept.l2Fill (h : s₀.MemKept s) {p va} : s₀.MemKept (s.l2Fill p va).1 :=
  h.homes (s.homesOnly_l2Fill p va) fun w => (State.memWf_l2Fill p va w).1

theorem State.MemKept.l2Put (h : s₀.MemKept s) {p va b} (hb : s₀.memWf = true → b.wf = true) : s₀.MemKept (s.l2Put p va b) := by
  unfold State.l2Put
  exact h.modDie fun _ w k => Die.wf_withL2 k (all_tset (Die.l2_wf k) (hb w))

theorem State.MemKept.homeLine (h : s₀.MemKept s) {space va} : MemGives (fun r => s₀.MemKept r.1) (s.homeLine space va) := by
  unfold State.homeLine
  dsimp only
  split
  · exact .stop trivial
  · exact .pure h.l2Fill

/-- A line that its home gives is canonical. -/
theorem State.MemKept.homeLine_wf (h : s₀.MemKept s) {space va} {r : State × Page × Bank} (e : s.homeLine space va = .ok r)
    (w : s₀.memWf = true) : r.2.2.wf = true :=
  (State.memWf_homeLine e (h.memWf w)).2

theorem State.MemKept.deviceWrite (h : s₀.MemKept s) {space va bs} : MemGives s₀.MemKept (s.deviceWrite space va bs) := by
  unfold State.deviceWrite
  dsimp only
  split
  · exact .stop trivial
  · exact .pure (h.l2Fill.l2Put fun w => bank_wf_write _ _ (State.memWf_l2Fill _ _ (h.memWf w)).2)

theorem State.MemKept.homeRead (h : s₀.MemKept s) {l n} : MemGives (fun r => s₀.MemKept r.1) (s.homeRead l n) := by
  unfold State.homeRead
  dsimp only
  split
  · exact .ite (.stop trivial) (.pure h)
  · split
    · exact .stop trivial
    · exact .ite (.stop trivial) (.pure (h.homeLine.ok ‹_›))

theorem State.MemKept.homeCap (h : s₀.MemKept s) {l} : MemGives (fun r => s₀.MemKept r.1) (s.homeCap l) := by
  unfold State.homeCap
  dsimp only
  split
  · exact .ite (.stop trivial) (.pure h)
  · split
    · exact .stop trivial
    · exact .ite (.stop trivial) (.pure (h.homeLine.ok ‹_›))

theorem State.MemKept.lineModify (h : s₀.MemKept s) {space va f} (hf : ∀ b o, b.wf = true → (f b o).wf = true) :
    MemGives s₀.MemKept (s.lineModify space va f) := by
  unfold State.lineModify
  split
  · exact .stop trivial
  · exact .pure ((h.homeLine.ok ‹_›).l2Put fun w => hf _ _ (h.homeLine_wf ‹_› w))

theorem State.MemKept.homeModify (h : s₀.MemKept s) {l n f} (hf : ∀ b o, b.wf = true → (f b o).wf = true) :
    MemGives s₀.MemKept (s.homeModify l n f) := by
  unfold State.homeModify
  split
  · exact .pure (h.modCell fun _ _ k => Cell.wf_withSpad k (hf _ _ (Cell.spad_wf k)))
  · exact .ite (.stop trivial) (h.lineModify hf)

theorem State.MemKept.homeWrite (h : s₀.MemKept s) {l bs} : MemGives s₀.MemKept (s.homeWrite l bs) :=
  h.homeModify fun _ _ k => bank_wf_write _ _ k

theorem State.MemKept.homeFull (h : s₀.MemKept s) {l} : MemGives (fun r => s₀.MemKept r.1) (s.homeFull l) := by
  unfold State.homeFull
  split
  · exact .pure h
  · split
    · exact .stop trivial
    · exact .pure (h.homeLine.ok ‹_›)

/-- A bank whose full/empty bits alone change. -/
theorem Bank.wf_withFull {b : Bank} (h : b.wf = true) {f : NSet} (hf : risesSet 0 f = true) : ({ b with full := f } : Bank).wf = true := by
  rw [Bank.wf_iff] at *
  exact ⟨h.1, hf, h.2.2⟩

theorem State.MemKept.homeSetFull (h : s₀.MemKept s) {l full} : MemGives s₀.MemKept (s.homeSetFull l full) :=
  h.homeModify fun b _ k => Bank.wf_withFull k (risesSet_nput _ _ ((Bank.wf_iff b).1 k).2.1)

theorem State.MemKept.l1Drop (h : s₀.MemKept s) {cell id} : s₀.MemKept (s.l1Drop cell id) :=
  h.modCell fun _ _ k => Cell.wf_withL1 k (all_tdel _ (Cell.l1_wf k))

/-- A cell takes a canonical line into its L1. -/
theorem State.MemKept.setLine (h : s₀.MemKept s) {n id l} (hl : s₀.memWf = true → l.wf = true) :
    s₀.MemKept (s.modCell n fun c => { c with l1 := tset c.l1 id l }) :=
  h.modCell fun _ w k => Cell.wf_withL1 k (all_tset (Cell.l1_wf k) (hl w))

/-- A line of a cell's L1 is canonical. -/
theorem State.MemKept.line_wf (h : s₀.MemKept s) {cell sid va id l} (e : (s.cell cell).l1Line sid va = some (id, l))
    (w : s₀.memWf = true) : l.wf = true :=
  List.all_eq_true.1 (Cell.l1_wf (State.cell_wf (h.memWf w) cell)) _ (List.mem_of_find?_eq_some e)

theorem State.MemKept.l1WriteBack (h : s₀.MemKept s) {cell id} : s₀.MemKept (s.l1WriteBack cell id) := by
  unfold State.l1WriteBack
  dsimp only
  split
  · exact h
  · split
    · exact h
    · split
      · have h1 := (h.homeModify fun _ _ k => bank_wf_merge _ _ k).ok ‹_›
        split
        · rename_i home
          exact State.MemKept.setLine (h1.homeLine.ok home).same fun w => h1.homeLine_wf home w
        · exact h1.l1Drop
      · exact h.l1Drop.foldl (fun _ _ h1 => h1.reportDrop) _

theorem State.MemKept.l1Flush (h : s₀.MemKept s) {cell id} : s₀.MemKept (s.l1Flush cell id) := h.l1WriteBack.l1Drop

theorem State.MemKept.l1EvictAll (h : s₀.MemKept s) {cell f} : s₀.MemKept (s.l1EvictAll cell f) := h.foldl (fun _ _ h1 => h1.l1Flush) _

theorem State.MemKept.l1WriteBackAll (h : s₀.MemKept s) {cell f} : s₀.MemKept (s.l1WriteBackAll cell f) :=
  h.foldl (fun _ _ h1 => h1.l1WriteBack) _

theorem State.MemKept.releaseLines (h : s₀.MemKept s) {i} : s₀.MemKept (s.releaseLines i) := h.l1WriteBackAll

theorem State.MemKept.l1Place (h : s₀.MemKept s) {cell} : s₀.MemKept (s.l1Place cell).1 := by
  unfold State.l1Place
  dsimp only
  split
  · exact h
  · exact h.l1Flush

/-- A line that L1 fills is canonical. -/
theorem State.MemKept.l1Fill (h : s₀.MemKept s) {cell c va} :
    MemGives (fun r => s₀.MemKept r.1 ∧ (s₀.memWf = true → r.2.2.wf = true)) (s.l1Fill cell c va) := by
  unfold State.l1Fill
  dsimp only
  split
  · exact .stop trivial
  · have hw := fun w => h.homeLine_wf ‹_› w
    split
    · exact .pure ⟨State.MemKept.setLine (h.homeLine.ok ‹_›).same fun w => bank_wf_merge _ _ (hw w), fun w => bank_wf_merge _ _ (hw w)⟩
    · exact .pure ⟨State.MemKept.setLine (h.homeLine.ok ‹_›).l1Place.same fun w => bank_wf_merge _ _ (hw w),
        fun w => bank_wf_merge _ _ (hw w)⟩

theorem State.MemKept.l1Live (h : s₀.MemKept s) {cell sid va} : s₀.MemKept (s.l1Live cell sid va) := by
  unfold State.l1Live
  split
  · exact h.l1Flush.ite h
  · exact h

theorem State.MemKept.l1Read (h : s₀.MemKept s) {cell c va n} : MemGives (fun r => s₀.MemKept r.1) (s.l1Read cell c va n) := by
  have filled := (h.l1Live (cell := cell) (sid := c.sid) (va := va)).l1Fill (cell := cell) (c := c) (va := va) |>.map
    (g := fun r => (r.1, r.2.2.data)) (Q := fun r => s₀.MemKept r.1) fun _ h => h.1
  unfold State.l1Read
  dsimp only
  split
  · trivial
  · split
    · exact .ite (.pure h.l1Live) filled
    · exact filled

theorem State.MemKept.l1Write (h : s₀.MemKept s) {i cell c va bs} : MemGives s₀.MemKept (s.l1Write i cell c va bs) := by
  unfold State.l1Write
  dsimp only
  split
  · exact .stop trivial
  · split
    · exact .pure (h.l1Live.setLine fun w => bank_wf_write _ _ (h.l1Live.line_wf ‹_› w))
    · split
      · exact .stop trivial
      · obtain ⟨h1, hw⟩ := h.l1Live.l1Fill.ok ‹_›
        exact .pure (h1.setLine fun w => bank_wf_write _ _ (hw w))

theorem State.MemKept.l1Sync (h : s₀.MemKept s) {cell sid va} : s₀.MemKept (s.l1Sync cell sid va) := by
  unfold State.l1Sync
  split
  · exact h.l1Drop.ite h.l1Flush
  · exact h

theorem State.MemKept.acquire (h : s₀.MemKept s) {i} : s₀.MemKept (s.acquire i) := h.same.modCtx

end

end Sys2Proof.Machine
end

section
/-! PROOFS. Memories stay in canonical form: operands, traps and checks (Sys2Proof/Machine/Operands.lean). -/

set_option Elab.async false

namespace Sys2Proof.Machine

section
variable {s₀ s t : State} {c : Ctx}

theorem State.MemKept.raise (h : s₀.MemKept s) {α} {P : α → Prop} {code addr} : MemTries s₀ P (s.raise code addr) := .stop h.trap

theorem State.MemKept.raiseRegister (h : s₀.MemKept s) {α} {P : α → Prop} : MemTries s₀ P (s.raiseRegister (α := α)) := .stop h.trapAlone

theorem State.MemKept.again (h : s₀.MemKept s) {α} {P : α → Prop} : MemTries s₀ P (s.again (α := α)) := .stop h.stall

theorem State.MemKept.require (h : s₀.MemKept s) {ok code addr} : MemTries s₀ (fun _ => True) (s.require ok code addr) :=
  .ite (.pure trivial) h.raise

/-- A refusal of a home is a trap; what the home gives goes on. -/
theorem State.MemKept.precise (h : s₀.MemKept s) {α} {P : α → Prop} {addr} {r : Except Byte α} (hr : MemGives P r) :
    MemTries s₀ P (s.precise addr r) := by
  unfold State.precise
  split
  · exact hr
  · exact h.raise

theorem State.MemKept.checkAccess (h : s₀.MemKept s) {ea n store fe} : MemTries s₀ (fun _ => True) (s.checkAccess ea n store fe) := by
  unfold State.checkAccess
  split
  · exact h.raise
  · split <;> exact h.require

theorem State.MemKept.checkHome (h : s₀.MemKept s) {ea n store} : MemTries s₀ (fun _ => True) (s.checkHome ea n store) := by
  unfold State.checkHome
  dsimp only
  split
  · exact .pure trivial
  · exact .ite h.raise (.ite h.raise (.ite h.raise (.pure trivial)))
  · exact h.raise

theorem State.MemKept.localWaits (h : s₀.MemKept s) {ea n store} : MemTries s₀ (fun _ => True) (s.localWaits ea n store) := by
  unfold State.localWaits
  dsimp only
  split
  · exact .ite h.again (.pure trivial)
  · exact .ite (.stop h.stall) (.pure trivial)
  · exact .ite h.again (.pure trivial)
  · exact .pure trivial

theorem State.MemKept.waitWc (h : s₀.MemKept s) {w} : MemTries s₀ (fun _ => True) (s.waitWc w) := .ite h.again (.pure trivial)

theorem State.MemKept.takeDrop (h : s₀.MemKept s) {v} : MemTries s₀ s₀.MemKept (s.takeDrop v) := by
  unfold State.takeDrop
  dsimp only
  split
  · exact .pure h
  · exact (h.mod).raise

theorem State.MemKept.waitCovered (h : s₀.MemKept s) {v} : MemTries s₀ s₀.MemKept (s.waitCovered v) :=
  .ite h.releaseLines.again h.releaseLines.takeDrop

theorem State.MemKept.illInOpt (h : s₀.MemKept s) : MemTries s₀ (fun _ => True) s.illInOpt := h.require

theorem State.MemKept.illInHandler (h : s₀.MemKept s) : MemTries s₀ (fun _ => True) s.illInHandler := h.require

theorem State.MemKept.capRead (h : s₀.MemKept s) {r} : MemTries s₀ (fun _ => True) (s.capRead r) := .ite h.raiseRegister (.pure trivial)

end

end Sys2Proof.Machine
end

section
/-! PROOFS. Memories stay in canonical form: charges (Sys2Proof/Machine/Budget.lean). -/

set_option Elab.async false

namespace Sys2Proof.Machine

section
variable {s₀ s t : State} {c : Ctx}

theorem State.MemKept.eachThread (h : s₀.MemKept s) {entry f} : s₀.MemKept (s.eachThread entry f) := h.same

theorem State.MemKept.sendRefresh (h : s₀.MemKept s) {n cell} : s₀.MemKept (s.sendRefresh n cell) := by
  unfold State.sendRefresh
  split
  · exact h
  · exact h.same

theorem State.MemKept.refreshAll (h : s₀.MemKept s) {n} : s₀.MemKept (s.refreshAll n) := h.foldl (fun _ _ h1 => h1.sendRefresh) _

theorem State.MemKept.setBp (h : s₀.MemKept s) {n b} : s₀.MemKept (s.setBp n b) := h.eachThread

theorem State.MemKept.demote (h : s₀.MemKept s) {n} : s₀.MemKept (s.demote n) := (h.modEntry).refreshAll

theorem State.MemKept.signal (h : s₀.MemKept s) {part v} : s₀.MemKept (s.signal part v) := h.modPart

theorem State.MemKept.spend (h : s₀.MemKept s) {n code} : s₀.MemKept (s.spend n code) := by
  unfold State.spend
  dsimp only
  split
  · exact h
  · exact ((h.modEntry).refreshAll.ite (h.modEntry).demote).report.signal

theorem State.MemKept.exhaust (h : s₀.MemKept s) {n} : s₀.MemKept (s.exhaust n) := by
  unfold State.exhaust
  split
  · exact h.spend.ite h
  · exact h

theorem State.MemKept.answerCharge (h : s₀.MemKept s) {e ch} : s₀.MemKept (s.answerCharge e ch) := by
  unfold State.answerCharge
  split
  · exact h
  · split
    · exact h.sendRefresh.ite h
    · exact h.sendRefresh

theorem State.MemKept.applyCharge (h : s₀.MemKept s) {ch} : s₀.MemKept (s.applyCharge ch) := by
  unfold State.applyCharge
  split
  · exact h
  · dsimp only
    split
    · exact h.setEntry.same
    · split
      · exact ((h.setEntry.same).modEntry).setBp.refreshAll
      · exact (h.setEntry.same).answerCharge.exhaust

theorem State.MemKept.applyCharges (h : s₀.MemKept s) {die} : s₀.MemKept (s.applyCharges die) :=
  h.modDie.foldl (fun _ _ h1 => h1.applyCharge) _

theorem State.MemKept.performBudx_test (h : s₀.MemKept s) {n ctx num xa e} : s₀.MemKept (State.performBudx.test n ctx num xa s e).1 := by
  unfold State.performBudx.test
  dsimp only
  split
  · split
    · exact h.modCtx.modEntry.modEntry.setBp.refreshAll
    · exact State.MemKept.modEntry h.same
  · split
    · exact h.modCtx.spend
    · exact h.same

theorem State.MemKept.performBudx (h : s₀.MemKept s) {n ctx num xa} : s₀.MemKept (s.performBudx n ctx num xa).1 := by
  unfold State.performBudx
  split
  · exact h
  · split
    · split
      · exact h
      · exact h.performBudx_test
    · exact h.performBudx_test

end

end Sys2Proof.Machine
end

section
/-! PROOFS. Memories stay in canonical form: threads and their slots (Sys2Proof/Machine/Threads.lean). -/

set_option Elab.async false

namespace Sys2Proof.Machine

section
variable {s₀ s t : State} {c : Ctx}

theorem State.MemKept.inheritBindings (h : s₀.MemKept s) {x} : s₀.MemKept (s.inheritBindings x) := h.same

theorem State.MemKept.newCtx (h : s₀.MemKept s) {d : Ctx} : s₀.MemKept (s.newCtx d).1 :=
  (State.MemKept.setCtx (h.same (t := { s with fresh := _ }))).inheritBindings.deliverStore

theorem State.MemKept.checkEnd (h : s₀.MemKept s) {entry} : s₀.MemKept (s.checkEnd entry) := by
  unfold State.checkEnd
  split
  · exact h
  · split
    · exact h
    · exact (h.modEntry).ite h

theorem State.MemKept.abandonLoad (h : s₀.MemKept s) {x} : s₀.MemKept (s.abandonLoad x) := by
  refine h.mapCells (hf := fun p k => ?_)
  split
  · exact k
  · exact k

theorem State.MemKept.forget (h : s₀.MemKept s) {x} : s₀.MemKept (s.forget x) := by
  have dies : s₀.MemKept { s.abandonLoad x with dies := _ } :=
    h.abandonLoad.mapDies (f := fun d => (d.1, { d.2 with guests := d.2.guests.filter fun g => g.2 ≠ x }))
  refine State.MemKept.mapCells dies (hf := fun p k => ?_)
  split
  · exact k
  · exact k

theorem State.MemKept.emptySlot (h : s₀.MemKept s) {x t} : s₀.MemKept (s.emptySlot x t) := by
  unfold State.emptySlot
  dsimp only
  split
  · exact h.modCell
  · exact h.modCell
  · exact h

theorem State.MemKept.endCtxAt (h : s₀.MemKept s) {x t} : s₀.MemKept (s.endCtxAt x t) := State.MemKept.checkEnd h.emptySlot.forget.same

theorem State.MemKept.endCtx (h : s₀.MemKept s) {x} : s₀.MemKept (s.endCtx x) := h.endCtxAt

end

end Sys2Proof.Machine
end

section
/-! PROOFS. Memories stay in canonical form: transactions with a home (Sys2Proof/Machine/Transact.lean). -/

set_option Elab.async false

namespace Sys2Proof.Machine

section
variable {s₀ s t : State} {c : Ctx}

theorem State.MemKept.homeAmo (h : s₀.MemKept s) {l op ty v exp} : MemGives (fun r => s₀.MemKept r.1) (s.homeAmo l op ty v exp) := by
  unfold State.homeAmo
  dsimp only
  exact h.homeRead.bind fun ⟨_, _⟩ h1 => h1.homeWrite.bind fun _ h2 => .pure h2

theorem State.MemKept.homeBarrier (h : s₀.MemKept s) {l e} : MemGives (fun r => s₀.MemKept r.1) (s.homeBarrier l e) := by
  unfold State.homeBarrier
  dsimp only
  exact h.homeRead.bind fun ⟨_, _⟩ h1 => h1.homeRead.bind fun ⟨_, _⟩ h2 => .ite
    (.ite (.pure h2) (h2.homeWrite.bind fun _ h3 => .pure h3)) (h2.homeWrite.bind fun _ h3 => .ite (.pure h3)
      (h3.homeWrite.bind fun _ h4 => .pure h4))

theorem State.MemKept.phaseAt (h : s₀.MemKept s) {l} : MemGives (fun r => s₀.MemKept r.1) (s.phaseAt l) := by
  unfold State.phaseAt
  dsimp only
  exact h.homeRead.bind fun ⟨_, _⟩ h1 => .pure h1

theorem State.MemKept.reportOver (h : s₀.MemKept s) {p l} : s₀.MemKept (s.reportOver p l) := by
  unfold State.reportOver
  split <;> exact h.report

theorem State.MemKept.doOp (h : s₀.MemKept s) {p l} : MemGives (fun r => s₀.MemKept r.1) (s.doOp p l) := by
  unfold State.doOp
  dsimp only
  split
  · exact h.homeRead.bind fun ⟨_, _⟩ h1 => .pure h1
  · exact h.homeWrite.bind fun _ h1 => .pure h1
  · exact (h.homeModify fun _ _ k => bank_wf_writeCap _ _ k).bind fun _ h1 => .pure h1
  · exact h.homeAmo.bind fun ⟨_, _, _⟩ h1 => .pure h1
  · exact h.homeBarrier.bind fun ⟨_, _, _⟩ h1 => .pure (h1.reportOver.ite h1)
  · exact h.homeBarrier.bind fun ⟨_, _, _⟩ h1 => .pure (h1.reportOver.ite h1)
  · exact h.homeBarrier.bind fun ⟨_, _, _⟩ h1 => .pure (h1.reportOver.ite h1)
  · exact h.homeRead.bind fun ⟨_, _⟩ h1 => h1.homeSetFull.bind fun _ h2 => .pure h2
  · exact h.homeWrite.bind fun _ h1 => .pure h1

theorem State.MemKept.perform (h : s₀.MemKept s) {p} : s₀.MemKept (s.perform p).1 := by
  unfold State.perform
  dsimp only
  split
  · split
    · exact h
    · split
      · exact h.doOp.ok ‹_›
      · exact h
  · exact h.same
  · exact h

theorem State.MemKept.syncTarget (h : s₀.MemKept s) {p} : s₀.MemKept (s.syncTarget p) := by
  unfold State.syncTarget
  split
  · exact h.l1Sync.ite h
  · exact h

theorem State.MemKept.replyTo (h : s₀.MemKept s) {p st} : s₀.MemKept (s.replyTo p st) := by
  unfold State.replyTo
  dsimp only
  split
  · split
    · split
      · split
        · exact (h.syncTarget.same.wx.orFlags.acquire.mod).park
        · exact (h.syncTarget.same.orFlags.acquire.mod).park
      · split
        · exact (h.syncTarget.same.wx.orFlags.mod).park
        · exact (h.syncTarget.same.orFlags.mod).park
    · split
      · split
        · exact h.syncTarget.same.wx.orFlags.acquire.finish
        · exact h.syncTarget.same.orFlags.acquire.finish
      · split
        · exact h.syncTarget.same.wx.orFlags.finish
        · exact h.syncTarget.same.orFlags.finish
  · exact h.syncTarget.same.trap
  · exact h.syncTarget.same

theorem State.MemKept.answer (h : s₀.MemKept s) {p} : s₀.MemKept (s.answer p) := by
  unfold State.answer
  dsimp only
  exact h.perform.replyTo

theorem State.MemKept.fabricWaits (h : s₀.MemKept s) {ea n store home} : MemTries s₀ (fun _ => True) (s.fabricWaits ea n store home) :=
  .ite h.again (.pure trivial)

theorem State.MemKept.touchEnd (h : s₀.MemKept s) {k e} : s₀.MemKept (s.touchEnd k e) := h.same

theorem State.MemKept.addEnd (h : s₀.MemKept s) {sender peer num part} : s₀.MemKept (s.addEnd sender peer num part).1 := by
  unfold State.addEnd
  dsimp only
  exact h.same

theorem State.MemKept.senderFor (h : s₀.MemKept s) {peer part} : s₀.MemKept (s.senderFor peer part).1 := by
  unfold State.senderFor
  split
  · exact h
  · exact h.addEnd

theorem State.MemKept.sendPeer (h : s₀.MemKept s) {n p} : s₀.MemKept (s.sendPeer n p) := by
  unfold State.sendPeer
  dsimp only
  split
  · exact h.senderFor.same.touchEnd
  · exact h

theorem State.MemKept.launch (h : s₀.MemKept s) {p held} : s₀.MemKept (s.launch p held).1 := by
  unfold State.launch
  dsimp only
  exact h.same.sendPeer.ite h.same

theorem State.MemKept.submit (h : s₀.MemKept s) {p} : s₀.MemKept (s.submit p) := by
  unfold State.submit
  dsimp only
  exact h.answer.ite (h.takeHold.launch.stall.ite h.takeHold.answer)

theorem State.MemKept.post (h : s₀.MemKept s) {p} : s₀.MemKept (s.post p) := h.launch.modCtx

theorem State.MemKept.ackPosted (h : s₀.MemKept s) {n p fl} : s₀.MemKept (s.ackPosted n p fl) := by
  unfold State.ackPosted
  dsimp only
  split
  · exact h.syncTarget.same.modCtx
  · exact h.syncTarget.same

theorem State.MemKept.endRefused (h : s₀.MemKept s) {n p} : s₀.MemKept (s.endRefused n p) := by
  unfold State.endRefused
  dsimp only
  split
  · exact h.same.ite (h.same.modCtx)
  · exact h.same

theorem State.MemKept.refusePosted (h : s₀.MemKept s) {n p code} : s₀.MemKept (s.refusePosted n p code) := h.same.reportDrop

end

end Sys2Proof.Machine
end

section
/-! PROOFS. Memories stay in canonical form: optimistic books (Sys2Proof/Machine/Book.lean). -/

set_option Elab.async false

namespace Sys2Proof.Machine

section
variable {s₀ s t : State} {c : Ctx}

theorem State.MemKept.bookWrite (h : s₀.MemKept s) {cell m pos bs} : s₀.MemKept (s.bookWrite cell m pos bs) := by
  unfold State.bookWrite
  exact h.modCell fun _ _ k => Cell.wf_withSpad k (bank_wf_write _ _ (bank_wf_write _ _ (Cell.spad_wf k)))

theorem State.MemKept.freeBytes (h : s₀.MemKept s) {n} : s₀.MemKept (s.freeBytes n).1 := h.same

theorem State.MemKept.entryBytes (h : s₀.MemKept s) {e} : s₀.MemKept (s.entryBytes e).1 := by
  unfold State.entryBytes
  split
  · exact h
  · exact h
  · exact h.freeBytes
  · exact h

theorem State.MemKept.noRoom (h : s₀.MemKept s) {α} {P : α → Prop} : MemTries s₀ P (s.noRoom (α := α)) := .ite h.raise h.again

theorem State.MemKept.addRecord (h : s₀.MemKept s) {m r} : s₀.MemKept (s.addRecord m r) := h.bookWrite.mod

theorem State.MemKept.addEntry (h : s₀.MemKept s) {m e} : s₀.MemKept (s.addEntry m e) := by
  unfold State.addEntry
  dsimp only
  split
  · exact h
  · exact h.entryBytes.bookWrite.bookWrite.mod

theorem State.MemKept.logEntry (h : s₀.MemKept s) {e} : MemTries s₀ s₀.MemKept (s.logEntry e) := by
  unfold State.logEntry
  split
  · exact .pure h
  · exact .ite (.pure h.addEntry) h.noRoom

theorem State.MemKept.deferAction (h : s₀.MemKept s) {d} : MemTries s₀ s₀.MemKept (s.deferAction d) := by
  unfold State.deferAction
  dsimp only
  split
  · exact .pure h
  · exact .ite h.logEntry (.ite h.logEntry (.ite h.addRecord.logEntry h.noRoom))

theorem State.MemKept.writeNow (h : s₀.MemKept s) {ea n} : MemTries s₀ (fun _ => True) (s.writeNow ea n) := by
  unfold State.writeNow
  dsimp only
  split
  · exact .pure trivial
  · split
    · exact .pure trivial
    · exact .ite h.raise (.pure trivial)
    · exact .pure trivial

end

end Sys2Proof.Machine
end

section
/-! PROOFS. Memories stay in canonical form: the cell control page (Sys2Proof/Machine/CellPage.lean). -/

set_option Elab.async false

namespace Sys2Proof.Machine

section
variable {s₀ s t : State} {c : Ctx}

theorem State.MemKept.writeRot (h : s₀.MemKept s) {cell rot} : s₀.MemKept (s.writeRot cell rot) := by
  unfold State.writeRot
  exact h.modCell fun _ _ k => Cell.wf_ite k (Cell.wf_ite k k)

theorem State.MemKept.rotBoundary (h : s₀.MemKept s) {cell} : s₀.MemKept (s.rotBoundary cell) := by
  unfold State.rotBoundary
  exact h.modCell fun _ _ k => Cell.wf_ite k k

theorem State.MemKept.retryData (h : s₀.MemKept s) {cell} : s₀.MemKept (s.retryData cell) :=
  h.same

theorem State.MemKept.writeSplit (h : s₀.MemKept s) {cell spsz} : s₀.MemKept (s.writeSplit cell spsz) :=
  h.modCell.ite (h.ite (h.modCell.ite ((h.foldl (fun _ _ h1 => h1.l1Flush) _).modCell fun _ _ k =>
    Cell.wf_withSpad k (bank_wf_clear _ _ (Cell.spad_wf k))).retryData))

theorem State.MemKept.splitDone (h : s₀.MemKept s) {cell} : s₀.MemKept (s.splitDone cell) := by
  unfold State.splitDone
  exact h.modCell fun _ _ k => Cell.wf_ite k k

theorem State.MemKept.clearSprf (h : s₀.MemKept s) {cell} : s₀.MemKept (s.clearSprf cell) := h.modCell

theorem State.MemKept.writePage (h : s₀.MemKept s) {cell off v} : s₀.MemKept (s.writePage cell off v) :=
  ((h.clearSprf.ite h).writeRot.ite (h.clearSprf.ite h)).writeSplit.ite h

end

end Sys2Proof.Machine
end

section
/-! PROOFS. Memories stay in canonical form: scalar instructions (Sys2Proof/Machine/Scalar.lean). -/

set_option Elab.async false

namespace Sys2Proof.Machine

section
variable {s₀ s t : State} {c : Ctx}

theorem State.MemKept.result (h : s₀.MemKept s) {n : Nat} {d : BitVec n} {v} : MemNext s₀ (s.result d v) := h.wx.finish.next

theorem State.MemKept.branchIf (h : s₀.MemKept s) {c o} : MemNext s₀ (s.branchIf c o) := h.finishAt.next

theorem State.MemKept.next_execAdd (h : s₀.MemKept s) {d a b} : MemNext s₀ (execAdd d a b s) := h.result

theorem State.MemKept.next_execSub (h : s₀.MemKept s) {d a b} : MemNext s₀ (execSub d a b s) := h.result

theorem State.MemKept.next_execAnd (h : s₀.MemKept s) {d a b} : MemNext s₀ (execAnd d a b s) := h.result

theorem State.MemKept.next_execOr (h : s₀.MemKept s) {d a b} : MemNext s₀ (execOr d a b s) := h.result

theorem State.MemKept.next_execXor (h : s₀.MemKept s) {d a b} : MemNext s₀ (execXor d a b s) := h.result

theorem State.MemKept.next_execShl (h : s₀.MemKept s) {d a b} : MemNext s₀ (execShl d a b s) := h.result

theorem State.MemKept.next_execShr (h : s₀.MemKept s) {d a b} : MemNext s₀ (execShr d a b s) := h.result

theorem State.MemKept.next_execSra (h : s₀.MemKept s) {d a b} : MemNext s₀ (execSra d a b s) := h.result

theorem State.MemKept.next_execSlt (h : s₀.MemKept s) {d a b} : MemNext s₀ (execSlt d a b s) := h.result

theorem State.MemKept.next_execSltu (h : s₀.MemKept s) {d a b} : MemNext s₀ (execSltu d a b s) := h.result

theorem State.MemKept.next_execMin (h : s₀.MemKept s) {d a b} : MemNext s₀ (execMin d a b s) := h.result

theorem State.MemKept.next_execMax (h : s₀.MemKept s) {d a b} : MemNext s₀ (execMax d a b s) := h.result

theorem State.MemKept.next_execMinu (h : s₀.MemKept s) {d a b} : MemNext s₀ (execMinu d a b s) := h.result

theorem State.MemKept.next_execMaxu (h : s₀.MemKept s) {d a b} : MemNext s₀ (execMaxu d a b s) := h.result

theorem State.MemKept.next_execMul (h : s₀.MemKept s) {d a b} : MemNext s₀ (execMul d a b s) := h.result

theorem State.MemKept.next_execMulh (h : s₀.MemKept s) {d a b} : MemNext s₀ (execMulh d a b s) := h.result

theorem State.MemKept.next_execMulhu (h : s₀.MemKept s) {d a b} : MemNext s₀ (execMulhu d a b s) := h.result

theorem State.MemKept.next_execDiv (h : s₀.MemKept s) {d a b} : MemNext s₀ (execDiv d a b s) := h.result

theorem State.MemKept.next_execDivu (h : s₀.MemKept s) {d a b} : MemNext s₀ (execDivu d a b s) := h.result

theorem State.MemKept.next_execRem (h : s₀.MemKept s) {d a b} : MemNext s₀ (execRem d a b s) := h.result

theorem State.MemKept.next_execRemu (h : s₀.MemKept s) {d a b} : MemNext s₀ (execRemu d a b s) := h.result

theorem State.MemKept.next_execBfx (h : s₀.MemKept s) {d a b} : MemNext s₀ (execBfx d a b s) := h.result

theorem State.MemKept.next_execBfi (h : s₀.MemKept s) {d a b} : MemNext s₀ (execBfi d a b s) := h.result

theorem State.MemKept.next_execClz (h : s₀.MemKept s) {d a} : MemNext s₀ (execClz d a s) := h.result

theorem State.MemKept.next_execCtz (h : s₀.MemKept s) {d a} : MemNext s₀ (execCtz d a s) := h.result

theorem State.MemKept.next_execPopc (h : s₀.MemKept s) {d a} : MemNext s₀ (execPopc d a s) := h.result

theorem State.MemKept.next_execSext (h : s₀.MemKept s) {d a w} : MemNext s₀ (execSext d a w s) := h.result

theorem State.MemKept.next_execZext (h : s₀.MemKept s) {d a w} : MemNext s₀ (execZext d a w s) := h.result

theorem State.MemKept.next_execAddi (h : s₀.MemKept s) {d a i} : MemNext s₀ (execAddi d a i s) := h.result

theorem State.MemKept.next_execAndi (h : s₀.MemKept s) {d a i} : MemNext s₀ (execAndi d a i s) := h.result

theorem State.MemKept.next_execOri (h : s₀.MemKept s) {d a i} : MemNext s₀ (execOri d a i s) := h.result

theorem State.MemKept.next_execXori (h : s₀.MemKept s) {d a i} : MemNext s₀ (execXori d a i s) := h.result

theorem State.MemKept.next_execSlti (h : s₀.MemKept s) {d a i} : MemNext s₀ (execSlti d a i s) := h.result

theorem State.MemKept.next_execShli (h : s₀.MemKept s) {d a n} : MemNext s₀ (execShli d a n s) := h.result

theorem State.MemKept.next_execShri (h : s₀.MemKept s) {d a n} : MemNext s₀ (execShri d a n s) := h.result

theorem State.MemKept.next_execSrai (h : s₀.MemKept s) {d a n} : MemNext s₀ (execSrai d a n s) := h.result

theorem State.MemKept.next_execLui (h : s₀.MemKept s) {d i} : MemNext s₀ (execLui d i s) := h.result

theorem State.MemKept.next_execAddpc (h : s₀.MemKept s) {d i} : MemNext s₀ (execAddpc d i s) := h.result

theorem State.MemKept.next_execBeq (h : s₀.MemKept s) {a b o} : MemNext s₀ (execBeq a b o s) := h.branchIf

theorem State.MemKept.next_execBne (h : s₀.MemKept s) {a b o} : MemNext s₀ (execBne a b o s) := h.branchIf

theorem State.MemKept.next_execBlt (h : s₀.MemKept s) {a b o} : MemNext s₀ (execBlt a b o s) := h.branchIf

theorem State.MemKept.next_execBge (h : s₀.MemKept s) {a b o} : MemNext s₀ (execBge a b o s) := h.branchIf

theorem State.MemKept.next_execBltu (h : s₀.MemKept s) {a b o} : MemNext s₀ (execBltu a b o s) := h.branchIf

theorem State.MemKept.next_execBgeu (h : s₀.MemKept s) {a b o} : MemNext s₀ (execBgeu a b o s) := h.branchIf

theorem State.MemKept.next_execJal (h : s₀.MemKept s) {d o} : MemNext s₀ (execJal d o s) := h.wx.finishAt.next

theorem State.MemKept.next_execJalr (h : s₀.MemKept s) {d a i} : MemNext s₀ (execJalr d a i s) := MemNext.ite h.faultOut h.wx.finishAt.next

end

end Sys2Proof.Machine
end

section
/-! PROOFS. Memories stay in canonical form: vector instructions (Sys2Proof/Machine/Vector.lean). -/

set_option Elab.async false

namespace Sys2Proof.Machine

section
variable {s₀ s t : State} {c : Ctx}

theorem State.MemKept.writeV (h : s₀.MemKept s) {n : Nat} {d : BitVec n} {v whole} : s₀.MemKept (s.writeV d v whole) :=
  h.wv.mod

theorem State.MemKept.lanes (h : s₀.MemKept s) {d p t f} : MemNext s₀ (s.lanes d p t f) := h.orFlags.writeV.finish.next

theorem State.MemKept.lanes2 (h : s₀.MemKept s) {d a b p t f} : MemNext s₀ (s.lanes2 d a b p t f) := h.lanes

theorem State.MemKept.lanes1 (h : s₀.MemKept s) {d a p t f} : MemNext s₀ (s.lanes1 d a p t f) := h.lanes

theorem State.MemKept.next_execVadd (h : s₀.MemKept s) {d a b p w r t} : MemNext s₀ (execVadd d a b p w r t s) := h.lanes2

theorem State.MemKept.next_execVsub (h : s₀.MemKept s) {d a b p w r t} : MemNext s₀ (execVsub d a b p w r t s) := h.lanes2

theorem State.MemKept.next_execVmul (h : s₀.MemKept s) {d a b p w r t} : MemNext s₀ (execVmul d a b p w r t s) := h.lanes2

theorem State.MemKept.next_execVfma (h : s₀.MemKept s) {d a b p r t} : MemNext s₀ (execVfma d a b p r t s) := h.lanes

theorem State.MemKept.next_execVmin (h : s₀.MemKept s) {d a b p w t} : MemNext s₀ (execVmin d a b p w t s) := h.lanes2

theorem State.MemKept.next_execVmax (h : s₀.MemKept s) {d a b p w t} : MemNext s₀ (execVmax d a b p w t s) := h.lanes2

theorem State.MemKept.next_execVand (h : s₀.MemKept s) {d a b p} : MemNext s₀ (execVand d a b p s) := h.lanes2

theorem State.MemKept.next_execVor (h : s₀.MemKept s) {d a b p} : MemNext s₀ (execVor d a b p s) := h.lanes2

theorem State.MemKept.next_execVxor (h : s₀.MemKept s) {d a b p} : MemNext s₀ (execVxor d a b p s) := h.lanes2

theorem State.MemKept.next_execVshl (h : s₀.MemKept s) {d a b p t} : MemNext s₀ (execVshl d a b p t s) := h.lanes2

theorem State.MemKept.next_execVshr (h : s₀.MemKept s) {d a b p t} : MemNext s₀ (execVshr d a b p t s) := h.lanes2

theorem State.MemKept.next_execVsra (h : s₀.MemKept s) {d a b p t} : MemNext s₀ (execVsra d a b p t s) := h.lanes2

theorem State.MemKept.next_execVcmp (h : s₀.MemKept s) {d a b p c t} : MemNext s₀ (execVcmp d a b p c t s) := h.orFlags.wp.finish.next

theorem State.MemKept.next_execVsel (h : s₀.MemKept s) {d a b p t} : MemNext s₀ (execVsel d a b p t s) := h.lanes

theorem State.MemKept.next_execVabs (h : s₀.MemKept s) {d a p w t} : MemNext s₀ (execVabs d a p w t s) := h.lanes1

theorem State.MemKept.next_execVneg (h : s₀.MemKept s) {d a p w t} : MemNext s₀ (execVneg d a p w t s) := h.lanes1

theorem State.MemKept.convert (h : s₀.MemKept s) {d a p dst src rtz} : MemNext s₀ (s.convert d a p dst src rtz) := h.orFlags.writeV.finish.next

theorem State.MemKept.next_execVcvt (h : s₀.MemKept s) {d a p e f} : MemNext s₀ (execVcvt d a p e f s) := h.convert

theorem State.MemKept.next_execVcvtRtz (h : s₀.MemKept s) {d a p e f} : MemNext s₀ (execVcvtRtz d a p e f s) := h.convert

theorem State.MemKept.next_execVrcp (h : s₀.MemKept s) {d a p r t} : MemNext s₀ (execVrcp d a p r t s) := h.lanes1

theorem State.MemKept.next_execVrsq (h : s₀.MemKept s) {d a p r t} : MemNext s₀ (execVrsq d a p r t s) := h.lanes1

theorem State.MemKept.next_execVexp (h : s₀.MemKept s) {d a p r t} : MemNext s₀ (execVexp d a p r t s) := h.lanes1

theorem State.MemKept.next_execVlog (h : s₀.MemKept s) {d a p r t} : MemNext s₀ (execVlog d a p r t s) := h.lanes1

theorem State.MemKept.next_execVbcast (h : s₀.MemKept s) {d a p t} : MemNext s₀ (execVbcast d a p t s) := h.lanes

theorem State.MemKept.next_execVext (h : s₀.MemKept s) {d a b t} : MemNext s₀ (execVext d a b t s) := h.result

theorem State.MemKept.next_execVins (h : s₀.MemKept s) {d a b t} : MemNext s₀ (execVins d a b t s) := h.lanes

theorem State.MemKept.next_execVperm (h : s₀.MemKept s) {d a b p t} : MemNext s₀ (execVperm d a b p t s) := by
  unfold execVperm
  exact h.lanes2

theorem State.MemKept.next_execVred (h : s₀.MemKept s) {d a p r sub t} : MemNext s₀ (execVred d a p r sub t s) := h.orFlags.result

theorem State.MemKept.next_execPand (h : s₀.MemKept s) {d a b} : MemNext s₀ (execPand d a b s) := h.wp.finish.next

theorem State.MemKept.next_execPor (h : s₀.MemKept s) {d a b} : MemNext s₀ (execPor d a b s) := h.wp.finish.next

theorem State.MemKept.next_execPxor (h : s₀.MemKept s) {d a b} : MemNext s₀ (execPxor d a b s) := h.wp.finish.next

theorem State.MemKept.next_execPnot (h : s₀.MemKept s) {d a} : MemNext s₀ (execPnot d a s) := h.wp.finish.next

theorem State.MemKept.next_execPset (h : s₀.MemKept s) {d n} : MemNext s₀ (execPset d n s) := h.wp.finish.next

theorem State.MemKept.next_execPsetX (h : s₀.MemKept s) {d a} : MemNext s₀ (execPsetX d a s) := h.wp.finish.next

theorem State.MemKept.next_execPcnt (h : s₀.MemKept s) {d a k} : MemNext s₀ (execPcnt d a k s) := h.result

end

end Sys2Proof.Machine
end

section
/-! PROOFS. Memories stay in canonical form: loads and stores (Sys2Proof/Machine/LoadStore.lean). -/

set_option Elab.async false

namespace Sys2Proof.Machine

section
variable {s₀ s t : State} {c : Ctx}

theorem State.MemKept.lineFor (h : s₀.MemKept s) {ea n atHome} : MemTries s₀ (fun r => s₀.MemKept r.1) (s.lineFor ea n atHome) :=
  .ite ((h.precise h.l1Sync.homeLine).map fun _ h => h) (h.precise h.l1Read)

theorem State.MemKept.memBank (h : s₀.MemKept s) {ea n atHome} : MemTries s₀ (fun r => s₀.MemKept r.1) (s.memBank ea n atHome) := by
  unfold State.memBank
  dsimp only
  exact h.lineFor.bind fun ⟨_, _⟩ h1 => .ite h1.raise (.pure h1)

theorem State.MemKept.readBytes (h : s₀.MemKept s) {ea n strong} : MemTries s₀ (fun r => s₀.MemKept r.1) (s.readBytes ea n strong) := by
  unfold State.readBytes
  dsimp only
  split
  · exact .ite h.raiseRegister (.ite h.raise (.pure h))
  · exact .ite h.raiseRegister (.pure h)
  · exact .pure h
  · exact h.memBank.bind fun ⟨_, _⟩ h1 => .pure h1

theorem State.MemKept.load (h : s₀.MemKept s) {ea n o w} : MemTries s₀ (fun r => s₀.MemKept r.1) (s.load ea n o w) := by
  unfold State.load
  dsimp only
  exact h.checkAccess.bind fun _ _ => h.waitWc.bind fun _ _ => h.localWaits.bind fun _ _ => h.fabricWaits.bind fun _ _ => .ite
    (h.waitCovered.bind fun _ h5 => h5.readBytes.bind fun ⟨_, _⟩ h6 => .pure (h6.acquire.ite h6))
      (h.readBytes.bind fun ⟨_, _⟩ h5 => .pure (h5.acquire.ite h5))

theorem State.MemKept.loadX (h : s₀.MemKept s) {d a o w i n signed} : MemNext s₀ (s.loadX d a o w i n signed) := by
  unfold State.loadX
  dsimp only
  exact MemTries.conclude (h.load.bind fun ⟨_, _⟩ h1 => .pure h1.wx.finish)

theorem State.MemKept.next_execLdB (h : s₀.MemKept s) {d a o w i} : MemNext s₀ (execLdB d a o w i s) := h.loadX

theorem State.MemKept.next_execLdH (h : s₀.MemKept s) {d a o w i} : MemNext s₀ (execLdH d a o w i s) := h.loadX

theorem State.MemKept.next_execLdW (h : s₀.MemKept s) {d a o w i} : MemNext s₀ (execLdW d a o w i s) := h.loadX

theorem State.MemKept.next_execLdD (h : s₀.MemKept s) {d a o w i} : MemNext s₀ (execLdD d a o w i s) := h.loadX

theorem State.MemKept.next_execLdBu (h : s₀.MemKept s) {d a o w i} : MemNext s₀ (execLdBu d a o w i s) := h.loadX

theorem State.MemKept.next_execLdHu (h : s₀.MemKept s) {d a o w i} : MemNext s₀ (execLdHu d a o w i s) := h.loadX

theorem State.MemKept.next_execLdWu (h : s₀.MemKept s) {d a o w i} : MemNext s₀ (execLdWu d a o w i s) := h.loadX

theorem State.MemKept.writeMem (h : s₀.MemKept s) {ea bs o} : MemTries s₀ s₀.MemKept (s.writeMem ea bs o) := by
  unfold State.writeMem
  dsimp only
  split
  · split
    · exact .pure (h.l1Write.ok ‹_›)
    · exact .pure h.reportDrop
  · split
    · exact .pure (h.l1Sync.homeWrite.ok ‹_›)
    · exact .ite h.l1Sync.raise (.pure h.l1Sync.reportDrop)

theorem State.MemKept.writeBytes (h : s₀.MemKept s) {ea bs o} : MemTries s₀ s₀.MemKept (s.writeBytes ea bs o) := by
  unfold State.writeBytes
  split
  · exact .pure (h.modCell fun _ _ k => Cell.wf_withSpad k (bank_wf_viewStore _ _ _ (Cell.spad_wf k)))
  · exact .pure h.writePage
  · exact h.writeMem

theorem State.MemKept.store (h : s₀.MemKept s) {ea bs o w} : MemTries s₀ s₀.MemKept (s.store ea bs o w) :=
  h.writeNow.bind fun _ _ => h.checkAccess.bind fun _ _ => .ite (h.waitWc.bind fun _ _ => h.localWaits.bind fun _ _ =>
    h.fabricWaits.bind fun _ _ => .ite (h.waitCovered.bind fun _ h6 => h6.writeBytes.bind fun _ h7 => .pure (h7.acquire.ite h7))
      (h.writeBytes.bind fun _ h6 => .pure (h6.acquire.ite h6))) h.deferAction

theorem State.MemKept.storeX (h : s₀.MemKept s) {t a o w i n} : MemNext s₀ (s.storeX t a o w i n) :=
  MemTries.conclude (h.store.bind fun _ h1 => .pure h1.finish)

theorem State.MemKept.next_execStB (h : s₀.MemKept s) {t a o w i} : MemNext s₀ (execStB t a o w i s) := h.storeX

theorem State.MemKept.next_execStH (h : s₀.MemKept s) {t a o w i} : MemNext s₀ (execStH t a o w i s) := h.storeX

theorem State.MemKept.next_execStW (h : s₀.MemKept s) {t a o w i} : MemNext s₀ (execStW t a o w i s) := h.storeX

theorem State.MemKept.next_execStD (h : s₀.MemKept s) {t a o w i} : MemNext s₀ (execStD t a o w i s) := h.storeX

theorem State.MemKept.leaveList (h : s₀.MemKept s) : s₀.MemKept s.leaveList := h.same

theorem State.MemKept.parkAt (h : s₀.MemKept s) {l w} : s₀.MemKept (s.parkAt l w) := h.park.ite (h.stall.ite h.same.park)

theorem State.MemKept.syncLoc (h : s₀.MemKept s) {l} : s₀.MemKept (s.syncLoc l) := by
  unfold State.syncLoc
  split
  · exact h.l1Sync.ite h
  · exact h

theorem State.MemKept.take (h : s₀.MemKept s) {l ea d} : MemTries s₀ s₀.MemKept (s.take l ea d) := by
  unfold State.take
  dsimp only
  exact (h.syncLoc.precise h.syncLoc.homeFull).bind fun ⟨_, _⟩ h1 => .ite ((h1.precise h1.homeRead).bind fun ⟨_, _⟩ h2 =>
    (h2.precise h2.homeSetFull).bind fun _ h3 => .pure h3.leaveList.acquire.wx.finish) (.stop h1.parkAt)

theorem State.MemKept.give (h : s₀.MemKept s) {l ea v} : MemTries s₀ s₀.MemKept (s.give l ea v) := by
  unfold State.give
  dsimp only
  exact (h.syncLoc.precise h.syncLoc.homeFull).bind fun ⟨_, _⟩ h1 => .ite ((h1.precise h1.homeWrite).bind fun _ h2 => .pure
    h2.leaveList.finish) (.stop h1.parkAt)

theorem State.MemKept.next_execLdDTake (h : s₀.MemKept s) {d a w i} : MemNext s₀ (execLdDTake d a w i s) :=
  MemTries.conclude (h.illInOpt.bind fun _ _ => h.checkAccess.bind fun _ _ => h.waitWc.bind fun _ _ => h.localWaits.bind fun _ _ =>
    h.fabricWaits.bind fun _ _ => h.take)

theorem State.MemKept.next_execStDGive (h : s₀.MemKept s) {t a w i} : MemNext s₀ (execStDGive t a w i s) :=
  MemTries.conclude (h.illInOpt.bind fun _ _ => h.checkAccess.bind fun _ _ => h.waitWc.bind fun _ _ => h.localWaits.bind fun _ _ =>
    h.fabricWaits.bind fun _ _ => h.waitCovered.bind fun _ h6 => h6.give)

theorem State.MemKept.setVersions (h : s₀.MemKept s) {space va l} : s₀.MemKept (s.setVersions space va l) := by
  unfold State.setVersions
  dsimp only
  split
  · exact h.same.l2MakeRoom
  · exact h.same

theorem State.MemKept.checkVersion (h : s₀.MemKept s) {ea} : MemTries s₀ (fun _ => True) (s.checkVersion ea) :=
  h.require.bind fun _ _ => h.require.bind fun _ _ => (h.precise (Ends.any _)).bind fun _ _ => .pure trivial

theorem State.MemKept.ldvOpt (h : s₀.MemKept s) {space va} : s₀.MemKept (s.ldvOpt space va).1 := by
  unfold State.ldvOpt
  dsimp only
  split
  · exact h
  · split
    · exact h
    · exact h.same

theorem State.MemKept.ldv (h : s₀.MemKept s) {d a b eq} : MemTries s₀ s₀.MemKept (s.ldv d a b eq) := by
  unfold State.ldv
  refine h.checkVersion.bind fun _ _ => h.fabricWaits.bind fun _ _ => ?_
  dsimp only
  split
  · exact .ite h.ldvOpt.raise (.pure h.ldvOpt.wx.finish)
  · split
    · exact .ite h.leaveList.raise (.pure h.leaveList.acquire.wx.finish)
    · exact .stop h.parkAt

theorem State.MemKept.next_execLdvEq (h : s₀.MemKept s) {d a b} : MemNext s₀ (execLdvEq d a b s) := MemTries.conclude h.ldv

theorem State.MemKept.next_execLdvLe (h : s₀.MemKept s) {d a b} : MemNext s₀ (execLdvLe d a b s) := MemTries.conclude h.ldv

theorem State.MemKept.next_execStv (h : s₀.MemKept s) {t a b} : MemNext s₀ (execStv t a b s) :=
  MemTries.conclude (h.illInHandler.bind fun _ _ => h.checkVersion.bind fun _ _ => h.fabricWaits.bind fun _ _ => .ite
    (.ite h.noRoom (.pure h.setVersions.finish)) (h.waitCovered.bind fun _ h4 => .ite h4.raise
      (.ite h4.again (.pure h4.setVersions.finish))))

theorem State.MemKept.next_execVld (h : s₀.MemKept s) {d a o w i} : MemNext s₀ (execVld d a o w i s) := by
  unfold execVld
  dsimp only
  exact MemTries.conclude (h.load.bind fun ⟨_, _⟩ h1 => .pure h1.wv.finish)

theorem State.MemKept.next_execVst (h : s₀.MemKept s) {t a o w i} : MemNext s₀ (execVst t a o w i s) :=
  MemTries.conclude (h.store.bind fun _ h1 => .pure h1.finish)

theorem State.MemKept.checkLanes (h : s₀.MemKept s) {base idx n store} (l : List Nat) :
    MemTries s₀ (fun _ => True) (s.checkLanes base idx n store l) := by
  induction l with
  | nil => exact .pure trivial
  | cons i l ih => exact h.checkAccess.bind fun _ _ => ih

theorem State.MemKept.waitLanes (h : s₀.MemKept s) {base idx n store home} (l : List Nat) :
    MemTries s₀ (fun _ => True) (s.waitLanes base idx n store home l) := by
  induction l with
  | nil => exact .pure trivial
  | cons i l ih => exact h.localWaits.bind fun _ _ => h.fabricWaits.bind fun _ _ => ih

theorem State.MemKept.readLanes (h : s₀.MemKept s) {base idx n strong} (l : List Nat) :
    MemTries s₀ (fun r => s₀.MemKept r.1) (s.readLanes base idx n strong l) := by
  induction l generalizing s with
  | nil => exact .pure h
  | cons i l ih => exact h.readBytes.bind fun ⟨_, _⟩ h1 => (ih h1).bind fun ⟨_, _⟩ h2 => .pure h2

theorem State.MemKept.next_execVgth (h : s₀.MemKept s) {d a b p o z} : MemNext s₀ (execVgth d a b p o z s) := by
  unfold execVgth
  dsimp only
  exact MemTries.conclude ((h.checkLanes _).bind fun _ _ => (h.waitLanes _).bind fun _ _ => .ite
    (h.waitCovered.bind fun _ h3 => (h3.readLanes _).bind fun ⟨_, _⟩ h4 => .pure (h4.acquire.ite h4).writeV.finish)
      ((h.readLanes _).bind fun ⟨_, _⟩ h3 => .pure (h3.acquire.ite h3).writeV.finish))

theorem State.MemKept.writeLanes (h : s₀.MemKept s) {base idx data n o} (l : List Nat) :
    MemTries s₀ s₀.MemKept (s.writeLanes base idx data n o l) := by
  induction l generalizing s with
  | nil => exact .pure h
  | cons i l ih => exact h.writeBytes.bind fun _ h1 => ih h1

theorem State.MemKept.splitLanes (h : s₀.MemKept s) {base idx n} (l : List Nat) :
    MemTries s₀ (fun _ => True) (s.splitLanes base idx n l) := by
  induction l with
  | nil => exact .pure trivial
  | cons i l ih => exact h.writeNow.bind fun _ _ => ih.bind fun ⟨_, _⟩ _ => .pure trivial

theorem State.MemKept.endScatter (h : s₀.MemKept s) : s₀.MemKept s.endScatter := (h.acquire.mod).finish

theorem State.MemKept.next_execVsct (h : s₀.MemKept s) {d a b p o z} : MemNext s₀ (execVsct d a b p o z s) := by
  unfold execVsct
  refine MemTries.conclude ((h.splitLanes _).bind fun ⟨_, _⟩ h1 => (h.checkLanes _).bind fun _ _ => .ite
    ((h.waitLanes _).bind fun _ _ => h.waitCovered.bind fun _ h4 => ?_) ((h.waitLanes _).bind fun _ _ => .ite
      (h.waitCovered.bind fun _ h4 => .ite ((h4.writeLanes _).bind fun _ h5 => .pure h5.finish)
        (h4.deferAction.bind fun _ h5 => (h5.writeLanes _).bind fun _ h6 => .pure h6.finish))
          (.ite ((h.writeLanes _).bind fun _ h4 => .pure h4.finish) (h.deferAction.bind fun _ h4 => (h4.writeLanes _).bind fun _ h5 =>
            .pure h5.finish))))
  split
  · exact .pure h4.endScatter
  · exact (h4.writeLanes _).bind fun _ h5 => .ite (.pure h5.endScatter) (h5.mod).again

theorem State.MemKept.fetchWord (h : s₀.MemKept s) {x} : MemGives (fun r => s₀.MemKept r.1) (s.fetchWord x) := by
  unfold State.fetchWord
  dsimp only
  split
  · trivial
  · split
    · trivial
    · rename_i e
      refine .ite (.stop trivial) (.pure ?_)
      split at e
      · split at e
        · cases e
          exact h.homeLine.ok ‹_›
        · cases e
      · exact h.l1Read.ok e

theorem State.MemKept.wordAt (h : s₀.MemKept s) {x} : s₀.MemKept (s.wordAt x).1 := by
  unfold State.wordAt
  split
  · exact h.fetchWord.ok ‹_›
  · exact h

end

end Sys2Proof.Machine
end

section
/-! PROOFS. Memories stay in canonical form: remote accesses (Sys2Proof/Machine/Remote.lean). -/

set_option Elab.async false

namespace Sys2Proof.Machine

section
variable {s₀ s t : State} {c : Ctx}

theorem State.MemKept.needCap (h : s₀.MemKept s) {c perm ea n} : MemTries s₀ (fun _ => True) (s.needCap c perm ea n) := by
  unfold State.needCap
  split
  · exact h.raise
  · exact .pure trivial

theorem State.MemKept.next_execCapld (h : s₀.MemKept s) {c a} : MemNext s₀ (execCapld c a s) := by
  unfold execCapld
  refine MemTries.conclude (h.require.bind fun _ _ => h.checkHome.bind fun _ _ => h.require.bind fun _ _ => h.localWaits.bind fun _ _ =>
    h.fabricWaits.bind fun _ _ => ?_)
  dsimp only
  split
  · exact h.memBank.bind fun ⟨_, _⟩ h6 => .pure h6.wc.finish
  · exact (h.precise h.homeCap).bind fun ⟨_, _⟩ h6 => .pure h6.wc.finish

theorem State.MemKept.next_execCapst (h : s₀.MemKept s) {c a} : MemNext s₀ (execCapst c a s) :=
  MemTries.conclude (h.writeNow.bind fun _ _ => h.require.bind fun _ _ => h.checkHome.bind fun _ _ => h.require.bind fun _ _ => .ite
    (h.localWaits.bind fun _ _ => h.fabricWaits.bind fun _ _ => h.waitCovered.bind fun _ h7 =>
      (h7.syncLoc.precise (h7.syncLoc.homeModify fun _ _ k => bank_wf_writeCap _ _ k)).bind fun _ h8 => .pure h8.acquire.finish)
        (h.deferAction.bind fun _ h5 => .pure h5.finish))

theorem State.MemKept.next_execCapnar (h : s₀.MemKept s) {c e b} : MemNext s₀ (execCapnar c e b s) := by
  unfold execCapnar
  refine MemTries.conclude (h.require.bind fun _ _ => ?_)
  split
  · exact h.raise
  · exact h.require.bind fun _ _ => .pure h.wc.finish

theorem State.MemKept.next_execCapsetCur (h : s₀.MemKept s) {c e b} : MemNext s₀ (execCapsetCur c e b s) := h.wc.finish.next

theorem State.MemKept.next_execCapsetPerm (h : s₀.MemKept s) {c e b} : MemNext s₀ (execCapsetPerm c e b s) := h.wc.finish.next

theorem State.MemKept.next_execCapsetMint (h : s₀.MemKept s) {c a b} : MemNext s₀ (execCapsetMint c a b s) :=
  MemNext.ite h.faultOut h.wc.finish.next

theorem State.MemKept.next_execCapget (h : s₀.MemKept s) {d c k} : MemNext s₀ (execCapget d c k s) := h.result

theorem State.MemKept.waitPosted (h : s₀.MemKept s) {p} : MemTries s₀ s₀.MemKept (s.waitPosted p) := by
  unfold State.waitPosted
  split
  · exact .ite h.again (.pure h.syncTarget)
  · exact .pure h

theorem State.MemKept.remoteFe (h : s₀.MemKept s) {p k op} (hk : ∀ l, MemTries s₀ s₀.MemKept (k l)) : MemTries s₀ s₀.MemKept
    (s.remoteFe p k op) := by
  unfold State.remoteFe
  split
  · split
    · exact h.raise
    · exact hk _
  · exact .pure h.submit

theorem State.MemKept.next_execRld (h : s₀.MemKept s) {d c z o w i} : MemNext s₀ (execRld d c z o w i s) :=
  MemTries.conclude (.ite (h.illInOpt.bind fun _ _ => h.needCap.bind fun _ _ => h.waitWc.bind fun _ _ => .ite
    (h.waitCovered.bind fun _ h4 => h4.waitPosted.bind fun _ h5 => .ite (h5.remoteFe (fun _ => h5.take)) (.pure h5.submit))
      (h.waitPosted.bind fun _ h4 => .ite (h4.remoteFe (fun _ => h4.take)) (.pure h4.submit)))
        (h.needCap.bind fun _ _ => h.waitWc.bind fun _ _ => .ite (h.waitCovered.bind fun _ h3 => h3.waitPosted.bind fun _ h4 => .ite
          (h4.remoteFe (fun _ => h4.take)) (.pure h4.submit)) (h.waitPosted.bind fun _ h3 => .ite (h3.remoteFe (fun _ => h3.take))
            (.pure h3.submit))))

theorem State.MemKept.next_execRst (h : s₀.MemKept s) {t c z o w i} : MemNext s₀ (execRst t c z o w i s) :=
  MemTries.conclude (h.illInHandler.bind fun _ _ => .ite (h.illInOpt.bind fun _ _ => h.needCap.bind fun _ _ => .ite
    (h.deferAction.bind fun _ h4 => .pure h4.finish) (h.waitWc.bind fun _ _ => .ite
      (h.waitCovered.bind fun _ h5 => .ite (h5.remoteFe (fun _ => h5.give))
        (.ite (.pure h5.syncTarget.submit) (.pure h5.syncTarget.post.finish)))
          (.ite (h.remoteFe (fun _ => h.give)) (.ite (.pure h.syncTarget.submit) (.pure h.syncTarget.post.finish)))))
            (h.needCap.bind fun _ _ => .ite (h.deferAction.bind fun _ h3 => .pure h3.finish)
              (h.waitWc.bind fun _ _ => .ite (h.waitCovered.bind fun _ h4 => .ite (h4.remoteFe (fun _ => h4.give))
                (.ite (.pure h4.syncTarget.submit) (.pure h4.syncTarget.post.finish)))
                  (.ite (h.remoteFe (fun _ => h.give)) (.ite (.pure h.syncTarget.submit) (.pure h.syncTarget.post.finish))))))

theorem State.MemKept.next_execGo (h : s₀.MemKept s) {d a} : MemNext s₀ (execGo d a s) := by
  unfold execGo
  dsimp only
  split
  · exact h.result
  · split
    · exact h.faultOut
    · split
      · exact h.faultOut
      · exact MemNext.ite (MemNext.ite h.result (h.forget.modDie.mod).wx.finish.next)
          (MemNext.ite h.result (h.modDie.mod).wx.finish.next)

theorem State.MemKept.comeHome (h : s₀.MemKept s) {x} : s₀.MemKept (s.comeHome x) := h.leaveGuest.backHome.modCtx

theorem State.MemKept.next_execHome (h : s₀.MemKept s) : MemNext s₀ (execHome s) := (h.comeHome.finish.ite h.finish).next

end

end Sys2Proof.Machine
end

section
/-! PROOFS. Memories stay in canonical form: fences, barriers and capabilities (Sys2Proof/Machine/Sync.lean). -/

set_option Elab.async false

namespace Sys2Proof.Machine

section
variable {s₀ s t : State} {c : Ctx}

theorem State.MemKept.postAmo (h : s₀.MemKept s) {p} : MemTries s₀ s₀.MemKept (s.postAmo p) := .ite (.pure h.syncTarget.post.finish) h.again

theorem State.MemKept.amo (h : s₀.MemKept s) {op d a b o nf ty} : MemNext s₀ (s.amo op d a b o nf ty) := by
  unfold State.amo
  refine MemTries.conclude (.ite (h.illInHandler.bind fun _ _ => h.require.bind fun _ _ => h.checkHome.bind fun _ _ => h.require.bind fun _
    _ => .ite (h.deferAction.bind fun _ h5 => .pure h5.finish) (h.localWaits.bind fun _ h5 => ?_))
      (h.illInOpt.bind fun _ _ => h.require.bind fun _ _ => h.checkHome.bind fun _ _ => h.require.bind fun _ _ => .ite
        (h.deferAction.bind fun _ h5 => .pure h5.finish) (h.localWaits.bind fun _ h5 => ?_)))
  · dsimp only
    split
    · refine h.waitCovered.bind fun _ h6 => ?_
      split
      · exact .ite h6.postAmo (.pure h6.syncTarget.submit)
      · exact (h6.precise h6.homeAmo).bind fun ⟨_, _, _⟩ h7 => .ite (.pure (h7.mod).finish)
          (.pure h7.orFlags.wx.acquire.finish)
    · split
      · exact .ite h.postAmo (.pure h.syncTarget.submit)
      · exact (h.precise h.homeAmo).bind fun ⟨_, _, _⟩ h6 => .ite (.pure (h6.mod).finish)
          (.pure h6.orFlags.wx.finish)
  · dsimp only
    split
    · refine h.waitCovered.bind fun _ h6 => ?_
      split
      · exact .ite h6.postAmo (.pure h6.syncTarget.submit)
      · exact (h6.precise h6.homeAmo).bind fun ⟨_, _, _⟩ h7 => .ite (.pure (h7.mod).finish)
          (.pure h7.orFlags.wx.acquire.finish)
    · split
      · exact .ite h.postAmo (.pure h.syncTarget.submit)
      · exact (h.precise h.homeAmo).bind fun ⟨_, _, _⟩ h6 => .ite (.pure (h6.mod).finish)
          (.pure h6.orFlags.wx.finish)

theorem State.MemKept.next_execAmoAdd (h : s₀.MemKept s) {d a b o n t} : MemNext s₀ (execAmoAdd d a b o n t s) := h.amo

theorem State.MemKept.next_execAmoMin (h : s₀.MemKept s) {d a b o n t} : MemNext s₀ (execAmoMin d a b o n t s) := h.amo

theorem State.MemKept.next_execAmoMax (h : s₀.MemKept s) {d a b o n t} : MemNext s₀ (execAmoMax d a b o n t s) := h.amo

theorem State.MemKept.next_execAmoAnd (h : s₀.MemKept s) {d a b o n t} : MemNext s₀ (execAmoAnd d a b o n t s) := h.amo

theorem State.MemKept.next_execAmoOr (h : s₀.MemKept s) {d a b o n t} : MemNext s₀ (execAmoOr d a b o n t s) := h.amo

theorem State.MemKept.next_execAmoXor (h : s₀.MemKept s) {d a b o n t} : MemNext s₀ (execAmoXor d a b o n t s) := h.amo

theorem State.MemKept.next_execAmoSwp (h : s₀.MemKept s) {d a b o t} : MemNext s₀ (execAmoSwp d a b o t s) := h.amo

theorem State.MemKept.next_execAmoCas (h : s₀.MemKept s) {d a b o t} : MemNext s₀ (execAmoCas d a b o t s) := h.amo

theorem State.MemKept.ramo (h : s₀.MemKept s) {op d c b o nf ty} : MemNext s₀ (s.ramo op d c b o nf ty) :=
  MemTries.conclude (.ite (h.illInHandler.bind fun _ _ => h.needCap.bind fun _ _ => .ite (h.deferAction.bind fun _ h3 => .pure h3.finish)
    (.ite (h.waitCovered.bind fun _ h3 => .ite h3.postAmo (h3.waitPosted.bind fun _ h4 => .pure h4.submit))
      (.ite h.postAmo (h.waitPosted.bind fun _ h3 => .pure h3.submit)))) (h.illInOpt.bind fun _ _ => h.needCap.bind fun _ _ => .ite
        (h.deferAction.bind fun _ h3 => .pure h3.finish) (.ite (h.waitCovered.bind fun _ h3 => .ite h3.postAmo
          (h3.waitPosted.bind fun _ h4 => .pure h4.submit)) (.ite h.postAmo (h.waitPosted.bind fun _ h3 => .pure h3.submit)))))

theorem State.MemKept.next_execRamoAdd (h : s₀.MemKept s) {d c b o n t} : MemNext s₀ (execRamoAdd d c b o n t s) := h.ramo

theorem State.MemKept.next_execRamoMin (h : s₀.MemKept s) {d c b o n t} : MemNext s₀ (execRamoMin d c b o n t s) := h.ramo

theorem State.MemKept.next_execRamoMax (h : s₀.MemKept s) {d c b o n t} : MemNext s₀ (execRamoMax d c b o n t s) := h.ramo

theorem State.MemKept.next_execRamoAnd (h : s₀.MemKept s) {d c b o n t} : MemNext s₀ (execRamoAnd d c b o n t s) := h.ramo

theorem State.MemKept.next_execRamoOr (h : s₀.MemKept s) {d c b o n t} : MemNext s₀ (execRamoOr d c b o n t s) := h.ramo

theorem State.MemKept.next_execRamoXor (h : s₀.MemKept s) {d c b o n t} : MemNext s₀ (execRamoXor d c b o n t s) := h.ramo

theorem State.MemKept.next_execRamoSwp (h : s₀.MemKept s) {d c b o t} : MemNext s₀ (execRamoSwp d c b o t s) := h.ramo

theorem State.MemKept.next_execRamoCas (h : s₀.MemKept s) {d c b o t} : MemNext s₀ (execRamoCas d c b o t s) := h.ramo

theorem State.MemKept.fence (h : s₀.MemKept s) {v} : MemNext s₀ (s.fence v) :=
  MemTries.conclude (h.waitCovered.bind fun _ h1 => .pure h1.acquire.finish)

theorem State.MemKept.next_execFenceCell (h : s₀.MemKept s) : MemNext s₀ (execFenceCell s) := h.l1EvictAll.finish.next

theorem State.MemKept.next_execFenceDom (h : s₀.MemKept s) : MemNext s₀ (execFenceDom s) := h.fence

theorem State.MemKept.next_execFenceDie (h : s₀.MemKept s) : MemNext s₀ (execFenceDie s) := h.fence

theorem State.MemKept.next_execFenceMod (h : s₀.MemKept s) : MemNext s₀ (execFenceMod s) := h.fence

theorem State.MemKept.next_execFenceSys (h : s₀.MemKept s) : MemNext s₀ (execFenceSys s) := h.fence

theorem State.MemKept.next_execFenceX (h : s₀.MemKept s) : MemNext s₀ (execFenceX s) :=
  MemTries.conclude (h.l1WriteBackAll.takeDrop.bind fun _ h1 => .pure h1.finish)

theorem State.MemKept.next_execFlagf (h : s₀.MemKept s) {c a} : MemNext s₀ (execFlagf c a s) :=
  MemTries.conclude (h.illInHandler.bind fun _ _ => h.needCap.bind fun _ _ => .ite (h.deferAction.bind fun _ h3 => .pure h3.finish)
    (h.waitCovered.bind fun _ h3 => h3.acquire.postAmo))

theorem State.MemKept.checkBarrier (h : s₀.MemKept s) {ea store} : MemTries s₀ (fun _ => True) (s.checkBarrier ea store) :=
  h.require.bind fun _ _ => h.checkHome.bind fun _ _ => h.require

theorem State.MemKept.next_execBarArv (h : s₀.MemKept s) {d a} : MemNext s₀ (execBarArv d a s) :=
  MemTries.conclude (h.illInOpt.bind fun _ _ => h.checkBarrier.bind fun _ _ => h.localWaits.bind fun _ _ => h.waitCovered.bind fun _ h4 =>
    .pure h4.syncTarget.submit)

theorem State.MemKept.next_execBarExp (h : s₀.MemKept s) {a b} : MemNext s₀ (execBarExp a b s) :=
  MemTries.conclude (h.illInOpt.bind fun _ _ => h.checkBarrier.bind fun _ _ => h.localWaits.bind fun _ _ => h.waitCovered.bind fun _ h4 =>
    .pure h4.syncTarget.submit)

theorem State.MemKept.waitPhase (h : s₀.MemKept s) {l ea ph} : MemTries s₀ s₀.MemKept (s.waitPhase l ea ph) := by
  unfold State.waitPhase
  dsimp only
  exact h.fabricWaits.bind fun _ _ => (h.syncLoc.precise h.syncLoc.phaseAt).bind fun ⟨_, _⟩ h2 => .ite (.stop h2.park)
    (.pure h2.acquire)

theorem State.MemKept.next_execBarWt (h : s₀.MemKept s) {a b} : MemNext s₀ (execBarWt a b s) :=
  MemTries.conclude (h.illInOpt.bind fun _ _ => h.checkBarrier.bind fun _ _ => h.localWaits.bind fun _ _ => h.waitPhase.bind fun _ h4 =>
    .pure h4.finish)

theorem State.MemKept.endAw (h : s₀.MemKept s) {l ea ph} : MemTries s₀ s₀.MemKept (s.endAw l ea ph) :=
  h.waitPhase.bind fun _ h1 => .pure (h1.mod).finish

theorem State.MemKept.next_execBarAw (h : s₀.MemKept s) {d a} : MemNext s₀ (execBarAw d a s) := by
  unfold execBarAw
  refine MemTries.conclude (h.illInOpt.bind fun _ _ => ?_)
  dsimp only
  split
  · exact h.endAw
  · exact h.checkBarrier.bind fun _ _ => h.localWaits.bind fun _ _ => h.endAw
  · exact h.checkBarrier.bind fun _ _ => h.localWaits.bind fun _ _ => h.waitCovered.bind fun _ h4 => .pure h4.syncTarget.submit

theorem State.MemKept.countDiscard (h : s₀.MemKept s) {cell} : s₀.MemKept (s.countDiscard cell) := h.modCell

theorem State.MemKept.invL1 (h : s₀.MemKept s) {lo hi} : s₀.MemKept (s.invL1 lo hi) :=
  h.foldl (fun _ _ h1 => h1.ite (h1.countDiscard.ite h1).l1Drop) _

theorem State.MemKept.invL2 (h : s₀.MemKept s) {lo hi} : s₀.MemKept (s.invL2 lo hi) :=
  h.foldl (fun _ _ h1 => h1.ite ((h1.countDiscard.ite h1).modDie fun _ _ k => Die.wf_withL2 k (all_tdel _ (Die.l2_wf k)))) _

theorem State.MemKept.wbL1 (h : s₀.MemKept s) {lo hi} : s₀.MemKept (s.wbL1 lo hi) := h.foldl (fun _ _ h1 => h1.l1WriteBack) _

/-- A line of L2 with canonical bytes stays so when it becomes clean. -/
theorem Die.wf_cleaned {d : Die} (h : d.wf = true) (pa : Nat) :
    ({ d with l2 := tmod {} d.l2 pa fun l => { l with dirty := false } } : Die).wf = true :=
  Die.wf_withL2 h (all_tset (Die.l2_wf h) (all_tget (q := L2Line.wf) (Die.l2_wf h) rfl pa))

theorem State.MemKept.wbL2 (h : s₀.MemKept s) {lo hi} : s₀.MemKept (s.wbL2 lo hi) :=
  h.foldl (fun _ _ h1 => (h1.dramWrite.modDie fun _ _ k => Die.wf_cleaned k _).ite h1) _

theorem State.MemKept.rangeOp (h : s₀.MemKept s) {a b f} (hf : ∀ t lo hi, s₀.MemKept t → s₀.MemKept (f t lo hi)) : MemNext s₀ (s.rangeOp a b f) := by
  unfold State.rangeOp
  split
  · exact h.finish.next
  · exact MemNext.ite h.faultOut (MemNext.ite h.stall.next (hf _ _ _ h).finish.next)

theorem State.MemKept.next_execInv (h : s₀.MemKept s) {a b l} : MemNext s₀ (execInv a b l s) :=
  h.rangeOp (fun _ _ _ h1 => h1.invL1.invL2.ite h1.invL1)

theorem State.MemKept.next_execWb (h : s₀.MemKept s) {a b l} : MemNext s₀ (execWb a b l s) :=
  h.rangeOp (fun _ _ _ h1 => h1.wbL1.wbL2.ite h1.wbL1)

theorem State.MemKept.next_execWbinv (h : s₀.MemKept s) {a b l} : MemNext s₀ (execWbinv a b l s) :=
  h.rangeOp (fun _ _ _ h1 => h1.wbL1.wbL2.invL1.invL2.ite h1.wbL1.invL1)

theorem State.MemKept.next_execPf (h : s₀.MemKept s) {a b l} : MemNext s₀ (execPf a b l s) := by
  unfold execPf
  dsimp only
  split
  · exact h.finish.next
  · refine (h.foldl (fun _ _ h1 => ?_) _).finish.next
    split
    · split
      · exact h1.homeLine.ok ‹_›
      · exact h1
    · split
      · exact h1
      · split
        · exact (h1.l1Fill.ok ‹_›).1
        · exact h1

end

end Sys2Proof.Machine
end

section
/-! PROOFS. Memories stay in canonical form: engine requests (Sys2Proof/Machine/Engine.lean). -/

set_option Elab.async false

namespace Sys2Proof.Machine

section
variable {s₀ s t : State} {c : Ctx}

theorem State.MemKept.next_execMset (h : s₀.MemKept s) {a e} : MemNext s₀ (execMset a e s) := (h.mod).finish.next

theorem State.MemKept.next_execMget (h : s₀.MemKept s) {e d} : MemNext s₀ (execMget e d s) := h.result

theorem State.MemKept.eachOperand (h : s₀.MemKept s) {l bad code} : MemTries s₀ (fun _ => True) (s.eachOperand l bad code) := by
  unfold State.eachOperand
  split
  · exact h.raise
  · exact .pure trivial

theorem State.MemKept.checkOperands (h : s₀.MemKept s) {l} : MemTries s₀ (fun _ => True) (s.checkOperands l) :=
  h.eachOperand.bind fun _ _ => h.eachOperand.bind fun _ _ => h.eachOperand.bind fun _ _ => h.eachOperand.bind fun _ _ => h.eachOperand

theorem State.MemKept.needTile (h : s₀.MemKept s) {tile} : MemTries s₀ (fun _ => True) (s.needTile tile) := h.require

theorem State.MemKept.needAnyTile (h : s₀.MemKept s) : MemTries s₀ (fun _ => True) s.needAnyTile := h.require

theorem State.MemKept.enqueue (h : s₀.MemKept s) {cell op} : s₀.MemKept (s.enqueue cell op) := by
  unfold State.enqueue
  exact h.modCell fun _ _ k => Cell.wf_ite k k

theorem State.MemKept.acceptOp (h : s₀.MemKept s) {kind reads writes cycles} : MemTries s₀ s₀.MemKept (s.acceptOp kind reads writes cycles)
    := by
  unfold State.acceptOp
  dsimp only
  split
  · exact .pure h.enqueue
  · split
    · exact .stop h.stall
    · exact h.again

theorem State.MemKept.timed (h : s₀.MemKept s) {n} : MemTries s₀ (fun _ => True) (s.timed n) := by
  unfold State.timed
  split
  · exact .ite (.pure trivial) (.stop h.stall)
  · exact .stop h.stall

theorem State.MemKept.next_execMma (h : s₀.MemKept s) {a b d} : MemNext s₀ (execMma a b d s) :=
  MemTries.conclude (h.needTile.bind fun _ _ => h.checkOperands.bind fun _ _ => .ite
    (h.timed.bind fun _ _ => h.require.bind fun _ _ => h.acceptOp.bind fun _ h5 => .pure h5.finish)
      (h.acceptOp.bind fun _ h3 => .pure h3.finish))

theorem State.MemKept.next_execMzero (h : s₀.MemKept s) {d} : MemNext s₀ (execMzero d s) :=
  MemTries.conclude (h.needTile.bind fun _ _ => h.acceptOp.bind fun _ h2 => .pure h2.finish)

theorem State.MemKept.next_execMlda (h : s₀.MemKept s) {a d} : MemNext s₀ (execMlda a d s) :=
  MemTries.conclude (h.needTile.bind fun _ _ => h.checkOperands.bind fun _ _ => h.acceptOp.bind fun _ h3 => .pure h3.finish)

theorem State.MemKept.next_execMsta (h : s₀.MemKept s) {a d} : MemNext s₀ (execMsta a d s) :=
  MemTries.conclude (h.needTile.bind fun _ _ => h.checkOperands.bind fun _ _ => h.acceptOp.bind fun _ h3 => .pure h3.finish)

theorem State.MemKept.freeLatch (h : s₀.MemKept s) {cell} : s₀.MemKept (s.freeLatch cell) := h.modCell

/-- A piece of a memory, numbered from a new offset, still rises. -/
theorem risesFrom_rebase {m : Memory} {lo : Nat} (h : risesFrom lo m = true) (off n at_ : Nat) :
    risesFrom (lo - off + at_) (rebase m off n at_) = true := by
  unfold rebase
  induction m generalizing lo with
  | nil => rfl
  | cons p m ih =>
    obtain ⟨j, v⟩ := p
    simp only [risesFrom, Bool.and_eq_true, decide_eq_true_eq] at h
    have tail := ih h.2
    rw [List.filter_cons]
    split
    · next hj =>
      simp only [decide_eq_true_eq] at hj
      simp only [List.map_cons, risesFrom, Bool.and_eq_true, decide_eq_true_eq]
      exact ⟨by omega, risesFrom_mono tail (by omega)⟩
    · exact risesFrom_mono tail (by omega)

theorem risesFrom_append {α : Type} {a b : Table α} {lo mid : Nat} (ha : risesFrom lo a = true) (hb : risesFrom mid b = true)
    (below : ∀ p ∈ a, p.1 < mid) (hl : lo ≤ mid) : risesFrom lo (a ++ b) = true := by
  induction a generalizing lo with
  | nil => exact risesFrom_mono hb hl
  | cons p a ih =>
    obtain ⟨j, v⟩ := p
    simp only [risesFrom, List.cons_append, Bool.and_eq_true, decide_eq_true_eq] at *
    exact ⟨ha.1, ih ha.2 (fun q hq => below q (List.mem_cons_of_mem _ hq)) (below _ List.mem_cons_self)⟩

/-- The two parts of a B tile make one canonical buffer (07 R166). -/
theorem memory_wf_tile {m : Memory} (h : m.wf = true) (p q : Nat) :
    Memory.wf (rebase m p 4096 0 ++ rebase m q 1024 4096) = true := by
  simp only [Memory.wf, Bool.and_eq_true] at *
  have listed (off n at_ : Nat) : ((rebase m off n at_).all fun p => decide (p.2 ≠ unlistedByte)) = true := by
    have := all_filter (fun p : Nat × Byte => decide (off ≤ p.1 ∧ p.1 < off + n)) h.2
    simpa [rebase, List.all_map, Function.comp_def] using this
  have below : ∀ x ∈ rebase m p 4096 0, x.1 < 4096 := by
    intro x hx
    simp only [rebase, List.mem_map, List.mem_filter, decide_eq_true_eq] at hx
    obtain ⟨y, ⟨-, hy⟩, rfl⟩ := hx
    simp only
    omega
  refine ⟨risesFrom_append (risesFrom_mono (risesFrom_rebase h.1 p 4096 0) (by omega))
    (risesFrom_mono (risesFrom_rebase h.1 q 1024 4096) (by omega)) below (by omega), ?_⟩
  rw [List.all_append, Bool.and_eq_true]
  exact ⟨listed _ _ _, listed _ _ _⟩

/-- The back buffer takes the tile that a cell loads (07 R166). -/
theorem Cell.wf_loaded {c : Cell} (h : c.wf = true) (p q : Nat) (bad : Bool) :
    ({ c with latch := { c.latch with
        k := rebase c.spad.bytes p 4096 0 ++ rebase c.spad.bytes q 1024 4096
        kBad := bad, kst := .loaded, loadBy := none } } : Cell).wf = true :=
  Cell.wf_withLatch h (Cell.front_wf (c := c) h) (memory_wf_tile ((Bank.wf_iff _).1 (Cell.spad_wf h)).1 p q)

theorem State.MemKept.next_execMldb (h : s₀.MemKept s) {a b} : MemNext s₀ (execMldb a b s) :=
  MemTries.conclude ((h.freeLatch.ite h).needAnyTile.bind fun _ _ => (h.freeLatch.ite h).checkOperands.bind fun _ _ => .ite
    (h.timed.bind fun _ _ => .ite (h.freeLatch.ite h).raise (h.acceptOp.bind fun _ h4 => .pure
      ((h4.modCell fun _ _ k => Cell.wf_loaded k _ _ _).reportCtx.ite (h4.modCell fun _ _ k => Cell.wf_loaded k _ _ _)).finish))
      (.ite (.stop h.modCell.stall) h.again))

theorem State.MemKept.next_execMrot (h : s₀.MemKept s) : MemNext s₀ (execMrot s) :=
  MemTries.conclude (h.needAnyTile.bind fun _ _ => h.acceptOp.bind fun _ h2 => .pure h2.finish)

theorem State.MemKept.next_execQcvt (h : s₀.MemKept s) {a b d} : MemNext s₀ (execQcvt a b d s) :=
  MemTries.conclude (h.checkOperands.bind fun _ _ => .ite (.pure h.wx.finish) (h.acceptOp.bind fun _ h2 => .pure h2.wx.finish))

theorem State.MemKept.next_execQchk (h : s₀.MemKept s) {a b d} : MemNext s₀ (execQchk a b d s) :=
  MemTries.conclude (h.checkOperands.bind fun _ _ => .ite (.halt h.again) (h.timed.bind fun _ _ => .ite (.halt h.raise)
    (.pure h.chargeNow.wx.finish)))

theorem State.MemKept.next_execQchkW (h : s₀.MemKept s) {a b} : MemNext s₀ (execQchkW a b s) :=
  MemTries.conclude (h.checkOperands.bind fun _ _ => h.acceptOp.bind fun _ h2 => .pure h2.finish)

theorem State.MemKept.next_execQstat (h : s₀.MemKept s) {a d} : MemNext s₀ (execQstat a d s) :=
  MemTries.conclude (h.checkOperands.bind fun _ _ => .ite (.halt h.again) (.ite (.halt h.again) (.ite (.halt h.raise) (.pure h.wx.finish))))

end

end Sys2Proof.Machine
end

section
/-! PROOFS. Memories stay in canonical form: the engines (Sys2Proof/Machine/EngineRun.lean). -/

set_option Elab.async false

namespace Sys2Proof.Machine

section
variable {s₀ s t : State} {c : Ctx}

theorem Cell.wf_setHead {c : Cell} (h : c.wf = true) (conv : Bool) (o : Option EngOp) : (c.setHead conv o).wf = true :=
  Cell.wf_ite h h

theorem State.MemKept.next_execEngineOpStart (h : s₀.MemKept s) {cell conv} : MemNext s₀ (execEngineOpStart cell conv s) := by
  refine MemNext.ite (State.MemKept.next (h.modCell fun c _ k => ?_)) h.next
  split
  · exact Cell.wf_setHead k _ _
  · exact k

theorem State.MemKept.takeSeq (h : s₀.MemKept s) {cell} : s₀.MemKept (s.takeSeq cell).2 :=
  h.modCell (f := fun c => { c with seq := c.seq + 1 })

theorem State.MemKept.reportOp (h : s₀.MemKept s) {cell o code src info} : s₀.MemKept (s.reportOp cell o code src info) := by
  unfold State.reportOp
  exact h.report

theorem State.MemKept.mergeFlags (h : s₀.MemKept s) {x f} : s₀.MemKept (s.mergeFlags x f) := by
  unfold State.mergeFlags
  split
  · exact h.modCtx
  · exact h

theorem State.MemKept.matrixDone (h : s₀.MemKept s) {cell o fl} : s₀.MemKept (s.matrixDone cell o fl) := by
  unfold State.matrixDone
  dsimp only
  split
  · exact h
  · exact h.takeSeq.deliverGen

theorem State.MemKept.wakeTile (h : s₀.MemKept s) {cell} : s₀.MemKept (s.wakeTile cell) := h.same

/-- A conversion keeps its bank canonical, block by block (07 R171). -/
theorem Quant.wf_block {q : Quant} (h : q.b.wf = true) (src dst scl k : Nat) (rtz : Bool) (blk : Nat) :
    (q.block src dst scl k rtz blk).b.wf = true := by
  have bytes (l : List (Nat × Int)) : Memory.wf (l.foldl (fun m p => nestedPut m dst (4 * blk + p.1) 8 p.2) q.b.bytes) = true :=
    memory_wf_foldl l _ (fun _ _ hm => nestedPut_wf _ _ _ _ hm) ((Bank.wf_iff _).1 h).1
  refine bank_wf_write _ _ ((Bank.wf_iff _).2 ?_)
  exact ⟨bytes _, ((Bank.wf_iff _).1 h).2⟩

theorem Quant.wf_blocks (l : List Nat) {q : Quant} (h : q.b.wf = true) (src dst scl k : Nat) (rtz : Bool) :
    (l.foldl (fun q i => q.block src dst scl k rtz i) q).b.wf = true := by
  induction l generalizing q with
  | nil => exact h
  | cons i l ih => exact ih (Quant.wf_block h src dst scl k rtz i)

/-- The tiles and their marks are no part of the memories of a cell. -/
theorem Cell.wf_withTiles {c : Cell} (h : c.wf = true) (ts : Table (BitVec 32)) (p : NSet) :
    ({ c with tiles := ts, tilePoison := p } : Cell).wf = true := h

theorem Cell.wf_runMma {c : Cell} (h : c.wf = true) (tile aoff soff ka kb : Nat) : (c.runMma tile aoff soff ka kb).1.wf = true := by
  unfold Cell.runMma Cell.clearTilePoison
  dsimp only
  split
  · exact Cell.wf_withTiles h _ _
  · exact Cell.wf_withTiles h _ _

theorem Cell.wf_runMlda {c : Cell} (h : c.wf = true) (tile off : Nat) : (c.runMlda tile off).1.wf = true := by
  unfold Cell.runMlda Cell.clearTilePoison
  split
  · exact Cell.wf_withTiles h _ _
  · exact Cell.wf_withTiles h _ _

theorem Cell.wf_runMzero {c : Cell} (h : c.wf = true) (tile : Nat) :
    ({ c.clearTilePoison tile with tiles := setTile c.tiles tile fun _ => 0 } : Cell).wf = true := by
  unfold Cell.clearTilePoison
  exact Cell.wf_withTiles h _ _

/-- A store that brings poison marks with it. -/
theorem Cell.wf_storePoisoned {c : Cell} (h : c.wf = true) (off : Nat) (bs : List Byte) (marks : List Nat) :
    ({ c with spad := { c.spad.write off bs with poison := marks.foldl nins (c.spad.write off bs).poison } } : Cell).wf = true :=
  Cell.wf_withSpad h (Bank.wf_poisoned (bank_wf_write _ _ (Cell.spad_wf h)) _)

theorem Cell.wf_runMsta {c : Cell} (h : c.wf = true) (tile off : Nat) : (c.runMsta tile off).1.wf = true := by
  unfold Cell.runMsta
  dsimp only
  exact Cell.wf_storePoisoned h _ _ _

theorem Cell.wf_runQcvt {c : Cell} (h : c.wf = true) (src dst scl elems k : Nat) (rtz : Bool) (shape : Nat) :
    (c.runQcvt src dst scl elems k rtz shape).1.wf = true := by
  unfold Cell.runQcvt
  exact Cell.wf_withSpad h (bank_wf_write _ _ (bank_wf_write _ _ (Quant.wf_blocks _ (Cell.spad_wf h) _ _ _ _ _)))

theorem Cell.wf_runQchkw {c : Cell} (h : c.wf = true) (pl scl elems shape : Nat) : (c.runQchkw pl scl elems shape).1.wf = true := by
  unfold Cell.runQchkw
  exact Cell.wf_withSpad h (bank_wf_write _ _ (Cell.spad_wf h))

/-- An engine operation keeps the memories of its cell canonical (07 R161-R172). -/
theorem Cell.wf_runOp {c : Cell} (h : c.wf = true) (k : EngKind) : (c.runOp k).1.wf = true := by
  unfold Cell.runOp
  split
  · exact Cell.wf_runMma h _ _ _ _ _
  · exact Cell.wf_runMzero h _
  · exact Cell.wf_runMlda h _ _
  · exact Cell.wf_runMsta h _ _
  · exact Cell.wf_runQcvt h _ _ _ _ _ _ _
  · exact Cell.wf_runQchkw h _ _ _ _
  · exact h
  · exact h

theorem State.MemKept.next_execEngineOpRetire (h : s₀.MemKept s) {cell conv} : MemNext s₀ (execEngineOpRetire cell conv s) := by
  unfold execEngineOpRetire
  dsimp only
  split
  · exact h.next
  · split
    · exact h.next
    · refine MemNext.ite h.next ?_
      have ran (k : EngKind) : s₀.MemKept (s.modCell cell fun _ => (((s.cell cell).runOp k).1).setHead conv none) :=
        h.modCell fun _ w _ => Cell.wf_setHead (Cell.wf_runOp (State.cell_wf (h.memWf w) cell) k) _ _
      exact (((ran _).mergeFlags.ite (ran _)).reportOp.ite ((ran _).mergeFlags.ite (ran _))).chargeNow.matrixDone.wakeTile.next

theorem State.MemKept.classReport (h : s₀.MemKept s) {c cls kind d0 addr info} : s₀.MemKept (s.classReport c cls kind d0 addr info) :=
  h.modCell.deliverGen

theorem State.MemKept.refuseCommand (h : s₀.MemKept s) {f code} : s₀.MemKept (s.refuseCommand f code) := by
  unfold State.refuseCommand
  dsimp only
  split
  · exact h.report
  · exact h.report.classReport

theorem State.MemKept.commandAt (h : s₀.MemKept s) {n f cap} : s₀.MemKept (s.commandAt n f cap) := by
  unfold State.commandAt
  dsimp only
  split
  · exact h.same.refuseCommand
  · exact h.same.ite h.same.enqueue

theorem State.MemKept.next_execMatrixCommand (h : s₀.MemKept s) {msg} : MemNext s₀ (execMatrixCommand msg s) := by
  unfold execMatrixCommand
  split
  · exact h.next
  · split
    · exact h.next
    · exact MemNext.ite h.next h.commandAt.next

theorem State.MemKept.reportSend (h : s₀.MemKept s) {cell o} : s₀.MemKept (s.reportSend cell o) := h.reportOp

theorem State.MemKept.next_execMrotSendBegin (h : s₀.MemKept s) {cell} : MemNext s₀ (execMrotSendBegin cell s) := by
  unfold execMrotSendBegin
  dsimp only
  split
  · exact h.next
  · refine MemNext.ite h.next (MemNext.ite h.modCell.reportSend.next (MemNext.ite h.next (State.MemKept.next ?_)))
    refine State.MemKept.modCell h.modCell fun d w k => ?_
    exact Cell.wf_withLatch k (Cell.front_wf (c := d) k) (Cell.front_wf (State.cell_wf (h.memWf w) cell))

theorem State.MemKept.next_execLatchTransferEnd (h : s₀.MemKept s) {cell} : MemNext s₀ (execLatchTransferEnd cell s) := by
  unfold execLatchTransferEnd
  dsimp only
  split
  · exact h.next
  · refine MemNext.ite h.next (State.MemKept.next (State.MemKept.modCell h.modCell fun _ _ k => ?_))
    split
    · exact k
    · exact k

theorem State.MemKept.next_execLatchSwap (h : s₀.MemKept s) {cell} : MemNext s₀ (execLatchSwap cell s) := by
  unfold execLatchSwap
  dsimp only
  split
  · split
    · exact (h.modCell fun _ _ k => Cell.wf_withLatch k (Cell.back_wf k) rfl).chargeNow.next
    · exact h.next
  · exact h.next

theorem State.MemKept.latchReset (h : s₀.MemKept s) {cell} : s₀.MemKept (s.latchReset cell) := by
  have charged : s₀.MemKept (((s.cell cell).mq.filter fun o => o.kind = .swapRot || o.kind = .swapLoad).foldl
      (fun s o => s.chargeNow cell o.entry o.cycles 0) s) := h.foldl (fun _ _ h1 => h1.chargeNow) _
  have emptied {u : State} (h : s₀.MemKept u) : s₀.MemKept (u.modCell cell fun c =>
      { c with mq := c.mq.filter fun o => o.kind ≠ .swapRot && o.kind ≠ .swapLoad, latch := {} }) :=
    h.modCell fun _ _ k => Cell.wf_withLatch k rfl rfl
  have freed {u : State} (h : s₀.MemKept u) (nx : Nat) : s₀.MemKept (u.modCell nx fun d =>
      { d with latch := { d.latch with kst := .free, k := [], kBad := false } }) :=
    h.modCell fun d _ k => Cell.wf_withLatch k (Cell.front_wf (c := d) k) rfl
  unfold State.latchReset
  dsimp only
  split
  · split
    · split
      · exact (emptied (freed charged _)).reportSend.modCell.reportSend
      · exact (emptied (freed charged _)).modCell.reportSend
    · exact (emptied charged).modCell.reportSend
  · split
    · split
      · exact (emptied (freed charged _)).reportSend
      · exact emptied (freed charged _)
    · exact emptied charged

end

end Sys2Proof.Machine
end

section
/-! PROOFS. Memories stay in canonical form: copies (Sys2Proof/Machine/Copy.lean). -/

set_option Elab.async false

namespace Sys2Proof.Machine

section
variable {s₀ s t : State} {c : Ctx}

theorem State.MemKept.eachRow (h : s₀.MemKept s) {rows bad} : MemTries s₀ (fun _ => True) (s.eachRow rows bad) := by
  unfold State.eachRow
  split
  · exact h.raise
  · exact .pure trivial

theorem State.MemKept.checkCapRows (h : s₀.MemKept s) {cap perm first rows len} : MemTries s₀ (fun _ => True)
    (s.checkCapRows cap perm first rows len) := by
  unfold State.checkCapRows
  split
  · exact .pure trivial
  · exact h.require.bind fun _ _ => h.require.bind fun _ _ => h.eachRow.bind fun _ _ => h.eachRow

theorem State.MemKept.checkCopy (h : s₀.MemKept s) {r} : MemTries s₀ (fun _ => True) (s.checkCopy r) := by
  unfold State.checkCopy
  refine .ite (h.capRead.bind fun _ _ => h.checkCapRows.bind fun _ _ => .ite
    (h.capRead.bind fun _ _ => h.checkCapRows.bind fun _ _ => h.eachRow.bind fun _ _ => h.require.bind fun _ _ => h.eachRow.bind fun _ _
      => ?_) (h.checkCapRows.bind fun _ _ => h.eachRow.bind fun _ _ => h.require.bind fun _ _ => h.eachRow.bind fun _ _ => ?_))
        (h.checkCapRows.bind fun _ _ => .ite (h.capRead.bind fun _ _ => h.checkCapRows.bind fun _ _ => h.eachRow.bind fun _ _ =>
          h.require.bind fun _ _ => h.eachRow.bind fun _ _ => ?_) (h.checkCapRows.bind fun _ _ => h.eachRow.bind fun _ _ =>
            h.require.bind fun _ _ => h.eachRow.bind fun _ _ => ?_))
  · dsimp only
    split
    · exact h.require.bind fun _ _ => h.eachRow.bind fun _ _ => h.eachRow
    · exact h.eachRow.bind fun _ _ => h.eachRow
  · dsimp only
    split
    · exact h.require.bind fun _ _ => h.eachRow.bind fun _ _ => h.eachRow
    · exact h.eachRow.bind fun _ _ => h.eachRow
  · dsimp only
    split
    · exact h.require.bind fun _ _ => h.eachRow.bind fun _ _ => h.eachRow
    · exact h.eachRow.bind fun _ _ => h.eachRow
  · dsimp only
    split
    · exact h.require.bind fun _ _ => h.eachRow.bind fun _ _ => h.eachRow
    · exact h.eachRow.bind fun _ _ => h.eachRow

theorem State.MemKept.fillMailbox (h : s₀.MemKept s) {cell m r} : s₀.MemKept (s.fillMailbox cell m r) := by
  unfold State.fillMailbox
  dsimp only
  split
  · exact h.same.modCell.modCtx
  · exact h.same.modCell

theorem State.MemKept.copyReq (h : s₀.MemKept s) {kind m a b d} : MemNext s₀ (s.copyReq kind m a b d) := by
  unfold State.copyReq
  refine MemTries.conclude (h.illInHandler.bind fun _ _ => h.require.bind fun _ _ => h.require.bind fun _ _ => h.require.bind fun _ _ =>
    h.require.bind fun _ _ => h.localWaits.bind fun _ _ => h.require.bind fun _ _ => ?_)
  dsimp only
  generalize dwordAt _ 7 = ctl
  split
  · exact h.require.bind fun _ _ => .ite (.pure h.wx.finish) (h.checkCopy.bind fun _ _ =>
      .ite (h.deferAction.bind fun _ h1 => .pure h1.wx.finish) (.ite (.halt h.again) (.pure h.fillMailbox.wx.finish)))
  · exact (Ends.pure (P := fun _ => True) trivial).bind fun _ _ => .ite (.pure h.wx.finish) (h.checkCopy.bind fun _ _ =>
      .ite (h.deferAction.bind fun _ h1 => .pure h1.wx.finish) (.ite (.halt h.again) (.pure h.fillMailbox.wx.finish)))

theorem State.MemKept.next_execCpy (h : s₀.MemKept s) {m a b d} : MemNext s₀ (execCpy m a b d s) := h.copyReq

theorem State.MemKept.next_execCpg (h : s₀.MemKept s) {m a b d} : MemNext s₀ (execCpg m a b d s) := h.copyReq

theorem State.MemKept.next_execCps (h : s₀.MemKept s) {m a b d} : MemNext s₀ (execCps m a b d s) := h.copyReq

theorem State.MemKept.next_execCpr (h : s₀.MemKept s) {m a b d} : MemNext s₀ (execCpr m a b d s) := h.copyReq

theorem State.MemKept.next_execCpq (h : s₀.MemKept s) {d} : MemNext s₀ (execCpq d s) := h.result

theorem State.MemKept.modRun (h : s₀.MemKept s) {cell id f} : s₀.MemKept (s.modRun cell id f) := h.modCell

theorem State.MemKept.readSide (h : s₀.MemKept s) {cell r} (l : List (Nat × Nat)) : MemGives (fun r => s₀.MemKept r.1) (s.readSide cell r l) :=
    by
  induction l generalizing s with
  | nil => exact .pure h
  | cons p l ih =>
    obtain ⟨a, n⟩ := p
    unfold State.readSide
    split
    · trivial
    · split
      · exact h.homeRead.bind fun ⟨_, _⟩ h1 => (ih h1).bind fun ⟨_, _⟩ h2 => .pure h2
      · exact (ih h.freeBytes).bind fun ⟨_, _⟩ h1 => .pure h1

theorem State.MemKept.dropOwn (h : s₀.MemKept s) {cell r l} : s₀.MemKept (s.dropOwn cell r l) := by
  unfold State.dropOwn
  split
  · exact h.l1Sync.ite h
  · exact h

theorem State.MemKept.writePieces (h : s₀.MemKept s) {cell r} (l : List (Nat × List Byte)) :
    MemGives s₀.MemKept (s.writePieces cell r l) := by
  induction l generalizing s with
  | nil => exact .pure h
  | cons p l ih =>
    obtain ⟨a, bs⟩ := p
    unfold State.writePieces
    split
    · split
      · trivial
      · exact h.dropOwn.homeWrite.bind fun _ h1 => ih h1
    · exact ih h

theorem State.MemKept.landReport (h : s₀.MemKept s) {p} : s₀.MemKept (s.landReport p) := by
  unfold State.landReport
  split
  · exact (h.perform.fst ‹_›).report
  · exact h.perform.fst ‹_›

theorem State.MemKept.reportBytes (h : s₀.MemKept s) {cell c n} : s₀.MemKept (s.reportBytes cell c n) := by
  unfold State.reportBytes
  dsimp only
  exact h.ite (h.dropOwn.takeHold.same.ite h.dropOwn.takeHold.landReport)

theorem State.MemKept.failStep (h : s₀.MemKept s) {cell id code addr} : s₀.MemKept (s.failStep cell id code addr) := by
  unfold State.failStep
  dsimp only
  split
  · exact h
  · exact h.ite h.modRun.modCell.report

theorem State.MemKept.next_execStagehandTakeRequest (h : s₀.MemKept s) {cell} : MemNext s₀ (execStagehandTakeRequest cell s) := by
  unfold execStagehandTakeRequest
  dsimp only
  split
  · exact h.next
  · split
    · exact h.next
    · exact h.modCell.next

theorem State.MemKept.startCopy (h : s₀.MemKept s) {cell c} : s₀.MemKept (s.startCopy cell c) := by
  unfold State.startCopy
  dsimp only
  split
  · exact h.ite (h.failStep.ite h.modRun)
  · exact h.modRun

theorem State.MemKept.stepPacket (h : s₀.MemKept s) {cell c k cap a op} : s₀.MemKept (s.stepPacket cell c k cap a op) :=
  (h.same.sendPeer.ite h.same).modRun

theorem State.MemKept.takeOff (h : s₀.MemKept s) {cell c k bs} : s₀.MemKept (s.takeOff cell c k bs) := h.same.modRun

theorem State.MemKept.flyStep (h : s₀.MemKept s) {cell c k bs} : s₀.MemKept (s.flyStep cell c k bs) := by
  unfold State.flyStep
  dsimp only
  split
  · exact h.failStep
  · exact (h.stepPacket.ite h).takeOff

theorem State.MemKept.sourceRead (h : s₀.MemKept s) {cell c k bs} : s₀.MemKept (s.sourceRead cell c k bs) := h.modRun.ite h.flyStep

theorem State.MemKept.turnElement (h : s₀.MemKept s) {cell c e code} : s₀.MemKept (s.turnElement cell c e code) := h.modRun.failStep

theorem State.MemKept.sendElement (h : s₀.MemKept s) {cell c bs e} : s₀.MemKept (s.sendElement cell c bs e) := by
  unfold State.sendElement
  split
  · exact h.turnElement
  · exact h.stepPacket

theorem State.MemKept.stepOut (h : s₀.MemKept s) {cell c} : s₀.MemKept (s.stepOut cell c) := by
  unfold State.stepOut
  dsimp only
  split
  · split
    · exact h.modRun
    · split
      · exact State.MemKept.foldl h.modRun.takeOff (fun _ _ h1 => h1.sendElement) _
      · exact h.modRun.takeOff
  · split
    · split
      · exact h.modRun.modRun.failStep
      · exact h.modRun.modRun.stepPacket
    · split
      · exact h.modRun.modRun.failStep
      · rename_i e
        exact (Ends.of_ok e (h.modRun.modRun.readSide _)).sourceRead

theorem State.MemKept.next_execCopyStep (h : s₀.MemKept s) {cell copy} : MemNext s₀ (execCopyStep cell copy s) := by
  unfold execCopyStep
  dsimp only
  split
  · exact h.next
  · split
    · split
      · exact MemNext.ite (h.modCell.ite h.modCell.startCopy).stepOut.next (h.modCell.ite h.modCell.startCopy).next
      · exact (h.modCell.ite h.modCell.startCopy).next
    · exact h.next

theorem State.MemKept.next_execCprChunkRead (h : s₀.MemKept s) {cell copy} : MemNext s₀ (execCprChunkRead cell copy s) := by
  unfold execCprChunkRead
  split
  · exact h.next
  · exact MemNext.ite h.modRun.next h.next

theorem State.MemKept.landStep (h : s₀.MemKept s) {cell c k n} : s₀.MemKept (s.landStep cell c k n) := (h.ite h.reportBytes).modRun

theorem State.MemKept.settleStep (h : s₀.MemKept s) {cell c k bs} : s₀.MemKept (s.settleStep cell c k bs) := by
  unfold State.settleStep
  split
  · exact h.modRun.failStep
  · refine ((h.writePieces _).ok ‹_›).modRun.foldl (fun _ _ h1 => ?_) _
    split
    · exact h1.landStep
    · exact h1

theorem State.MemKept.dropStepPacket (h : s₀.MemKept s) {cell c k n} : s₀.MemKept (s.dropStepPacket cell c k n) := h.same.modRun

theorem State.MemKept.peerStep (h : s₀.MemKept s) {cell c k n} : s₀.MemKept (s.peerStep cell c k n) := by
  unfold State.peerStep
  dsimp only
  split
  · exact h.dropStepPacket.settleStep
  · exact h.dropStepPacket.freeBytes.sourceRead
  · exact h.dropStepPacket.modRun.failStep
  · exact h

theorem State.MemKept.next_execCopyStepLanded (h : s₀.MemKept s) {cell copy idx} : MemNext s₀ (execCopyStepLanded cell copy idx s) := by
  unfold execCopyStepLanded
  split
  · exact h.next
  · split
    · exact h.next
    · split
      · exact h.peerStep.next
      · exact MemNext.ite h.next h.settleStep.next
      · exact h.next

theorem State.MemKept.next_execCopyStepRefusal (h : s₀.MemKept s) {cell copy idx code addr} : MemNext s₀
    (execCopyStepRefusal cell copy idx code addr s) := by
  unfold execCopyStepRefusal
  dsimp only
  split
  · exact h.next
  · split
    · exact h.next
    · split
      · exact h.next
      · split
        · split
          · split
            · exact h.dropStepPacket.modRun.failStep.next
            · exact h.modRun.failStep.next
          · exact h.next
        · split
          · exact h.next
          · exact h.settleStep.next

theorem State.MemKept.doElement (h : s₀.MemKept s) {cell r a v} : MemGives (fun r => s₀.MemKept r.1) (s.doElement cell r a v) := by
  unfold State.doElement
  dsimp only
  split
  · exact .stop trivial
  · split
    · exact .stop trivial
    · split
      · exact h.dropOwn.homeAmo.bind fun ⟨_, _, _⟩ h1 => .pure h1
      · exact .pure h

theorem State.MemKept.settleElements (h : s₀.MemKept s) {cell copy k} : s₀.MemKept (s.settleElements cell copy k) := by
  unfold State.settleElements
  split
  · exact h
  · exact h.landStep.ite (h.modRun.ite h)

theorem State.MemKept.endElement (h : s₀.MemKept s) {cell c e r} : s₀.MemKept (s.endElement cell c e r) := by
  unfold State.endElement
  dsimp only
  split
  · exact h.modRun.settleElements
  · exact h.turnElement.settleElements

theorem State.MemKept.peerElement (h : s₀.MemKept s) {cell c e n} : s₀.MemKept (s.peerElement cell c e n) := by
  unfold State.peerElement
  split
  · exact h.dropStepPacket.endElement
  · exact h.dropStepPacket.endElement
  · exact h

theorem State.MemKept.next_execCprElementAck (h : s₀.MemKept s) {cell copy elt} : MemNext s₀ (execCprElementAck cell copy elt s) := by
  unfold execCprElementAck
  split
  · exact h.next
  · split
    · exact h.next
    · split
      · split
        · exact h.peerElement.next
        · split
          · exact h.next
          · split
            · exact (h.doElement.ok ‹_›).endElement.next
            · exact h.endElement.next
      · exact h.next

theorem State.MemKept.chargePass (h : s₀.MemKept s) {cell c} : s₀.MemKept (s.chargePass cell c) := h.chargeNow.modRun

theorem State.MemKept.next_execCopyPassEnd (h : s₀.MemKept s) {cell copy} : MemNext s₀ (execCopyPassEnd cell copy s) := by
  unfold execCopyPassEnd
  dsimp only
  split
  · exact h.next
  · exact MemNext.ite h.chargePass.modRun.next h.next

theorem State.MemKept.next_execCopyReplayTimer (h : s₀.MemKept s) {cell copy} : MemNext s₀ (execCopyReplayTimer cell copy s) := by
  unfold execCopyReplayTimer
  split
  · exact h.next
  · split
    · exact h.next
    · exact MemNext.ite h.next h.modRun.next

theorem State.MemKept.copyMessage (h : s₀.MemKept s) {cell c} : s₀.MemKept (s.copyMessage cell c) := h.modCell.deliverGen.ite h

theorem State.MemKept.endCopy (h : s₀.MemKept s) {cell c} : s₀.MemKept (s.endCopy cell c) := by
  unfold State.endCopy
  dsimp only
  split
  · exact h.modCell.modCtx
  · exact h.modCell

theorem State.MemKept.nextChunk (h : s₀.MemKept s) {cell c} : s₀.MemKept (s.nextChunk cell c) := h.modRun.ite h

theorem State.MemKept.next_execCopyRetire (h : s₀.MemKept s) {cell copy} : MemNext s₀ (execCopyRetire cell copy s) := by
  unfold execCopyRetire
  dsimp only
  split
  · exact h.next
  · split
    · exact h.nextChunk.next
    · exact MemNext.ite h.nextChunk.modCell.endCopy.copyMessage.next (MemNext.ite h.nextChunk.chargePass.endCopy.copyMessage.next
        h.nextChunk.next)

end

end Sys2Proof.Machine
end

section
/-! PROOFS. Memories stay in canonical form: leases (Sys2Proof/Machine/Lease.lean). -/

set_option Elab.async false

namespace Sys2Proof.Machine

section
variable {s₀ s t : State} {c : Ctx}

theorem State.MemKept.grant (h : s₀.MemKept s) {home o w life} : s₀.MemKept (s.grant home o w life).1 := by
  unfold State.grant
  dsimp only
  exact h.same

theorem State.MemKept.settleLacq (h : s₀.MemKept s) {home o w life busy full} : s₀.MemKept (s.settleLacq home o w life busy full).1 := by
  unfold State.settleLacq
  dsimp only
  split
  · exact h
  · split
    · exact h
    · split
      · exact h
      · exact h.grant

theorem State.MemKept.mapPage (h : s₀.MemKept s) {w sid va big ver dom g f lease} : s₀.MemKept (s.mapPage w sid va big ver dom g f lease) := by
  unfold State.mapPage
  exact ((h.same (t := { s with pages := _ })).modDie).modPart

theorem State.MemKept.lacqPage (h : s₀.MemKept s) {w xa life} : s₀.MemKept (s.lacqPage w xa life).1 := by
  unfold State.lacqPage
  dsimp only
  split
  · split
    · exact h
    · split
      · exact h
      · split
        · exact h
        · split
          · exact h
          · exact h.grant.mapPage
  · split
    · exact h
    · split
      · exact h
      · split
        · exact h
        · split
          · exact h
          · exact h.grant.mapPage

theorem State.MemKept.lacqSp (h : s₀.MemKept s) {w xa life} : s₀.MemKept (s.lacqSp w xa life).1 := by
  unfold State.lacqSp
  dsimp only
  split
  · exact h
  · exact h.settleLacq

theorem State.MemKept.lacqAcc (h : s₀.MemKept s) {w xa life} : s₀.MemKept (s.lacqAcc w xa life).1 := by
  unfold State.lacqAcc
  dsimp only
  split
  · exact h
  · exact h.settleLacq

theorem State.MemKept.lacqCls (h : s₀.MemKept s) {w xa life} : s₀.MemKept (s.lacqCls w xa life).1 := by
  unfold State.lacqCls
  dsimp only
  split
  · exact h
  · exact h.settleLacq

theorem State.MemKept.lacqL2 (h : s₀.MemKept s) {w xa life} : s₀.MemKept (s.lacqL2 w xa life).1 := by
  unfold State.lacqL2
  dsimp only
  split
  · exact h
  · split
    · exact h
    · exact h.settleLacq

theorem State.MemKept.lacqPath (h : s₀.MemKept s) {w xa life} : s₀.MemKept (s.lacqPath w xa life).1 := by
  unfold State.lacqPath
  dsimp only
  split
  · exact h
  · split
    · exact h
    · split
      · exact h
      · split
        · exact h
        · split
          · exact h
          · split
            · exact h
            · split
              · exact h
              · exact h.grant

theorem State.MemKept.lacqGrp (h : s₀.MemKept s) {w xa life} : s₀.MemKept (s.lacqGrp w xa life).1 := by
  unfold State.lacqGrp
  dsimp only
  split
  · exact h
  · split
    · exact h
    · exact h.same

theorem State.MemKept.lacqAt (h : s₀.MemKept s) {w kind xa xb} : s₀.MemKept (s.lacqAt w kind xa xb).1 := by
  unfold State.lacqAt
  dsimp only
  split
  · exact h
  · split
    · exact h.lacqSp
    · exact h.lacqAcc
    · exact h.lacqCls
    · exact h.lacqL2
    · exact h.lacqPage
    · exact h.lacqPath
    · exact h.lacqGrp
    · exact h

theorem State.MemKept.keepAnswer (h : s₀.MemKept s) {ctx num v n} : s₀.MemKept (s.keepAnswer ctx num v n) := h.same

theorem State.MemKept.setParent (h : s₀.MemKept s) {n p} : s₀.MemKept (s.setParent n p) := by
  unfold State.setParent
  dsimp only
  split
  · exact h.same.ite h.modLease
  · exact h

theorem State.MemKept.lparAt (h : s₀.MemKept s) {c xa xb} : s₀.MemKept (s.lparAt c xa xb).1 := by
  unfold State.lparAt
  dsimp only
  split
  · exact h
  · split
    · exact h
    · split
      · split
        · exact h
        · split
          · exact h
          · split
            · exact h
            · exact h.setParent
      · exact h

theorem State.MemKept.drainHolder (h : s₀.MemKept s) {n h'} : s₀.MemKept (s.drainHolder n h') := by
  unfold State.drainHolder
  refine (h.foldl (fun _ _ h1 => ?_) _).modCell
  split
  · exact h1.l1Flush.ite h1.l1WriteBack
  · exact h1

theorem State.MemKept.grantLock (h : s₀.MemKept s) {n req} : s₀.MemKept (s.grantLock n req) := by
  unfold State.grantLock
  dsimp only
  split
  · split
    · exact h.modLease
    · exact (h.foldl (fun _ _ h1 => h1.l1Flush) _).same.keepAnswer
  · exact h.modLease

theorem State.MemKept.answerLock (h : s₀.MemKept s) {req r code} : s₀.MemKept (s.answerLock req r code) := h.same.keepAnswer

theorem State.MemKept.serveLock (h : s₀.MemKept s) {n req} : s₀.MemKept (s.serveLock n req) := by
  unfold State.serveLock
  split
  · exact h.answerLock.ite (h.modLease.ite h.grantLock)
  · exact h

theorem State.MemKept.lockEntry (h : s₀.MemKept s) {c va} : s₀.MemKept (s.lockEntry c va).1 := by
  unfold State.lockEntry
  dsimp only
  split
  · exact h
  · exact h.same

theorem State.MemKept.llkAt (h : s₀.MemKept s) {req r c bad} : s₀.MemKept (s.llkAt req r c bad) := by
  unfold State.llkAt
  dsimp only
  split
  · exact h.answerLock
  · split
    · exact h.answerLock
    · split
      · exact h.lockEntry
      · exact h.lockEntry.answerLock.ite (h.lockEntry.same.serveLock.ite h.lockEntry.same)

theorem State.MemKept.spreadRenewal (h : s₀.MemKept s) {l life order port} : s₀.MemKept (s.spreadRenewal l life order port) := h.same

theorem State.MemKept.leaseArrives (h : s₀.MemKept s) {req} : s₀.MemKept (s.leaseArrives req) := by
  unfold State.leaseArrives
  split
  · exact h
  split
  · exact h.same
  dsimp only
  split
  · split
    · exact h.same
    · split
      · exact h.same
      · split
        · have h1 := (h.takeFresh.lacqAt).fst ‹_›
          split
          · exact State.MemKept.keepAnswer h1.same
          · exact h1
        · exact State.MemKept.keepAnswer ((h.takeFresh.lacqAt).fst ‹_›).same
  · split
    · exact h.same
    · exact h.takeFresh.llkAt
  · split
    · exact (h.takeFresh.spreadRenewal.ite h.takeFresh).same
    · exact h.same
  · exact h.same
  · exact h.same
  · exact h.takeFresh.lparAt.same

theorem State.MemKept.enterGuards (h : s₀.MemKept s) {n v} : s₀.MemKept (s.enterGuards n v) := by
  unfold State.enterGuards
  dsimp only
  split
  · split
    · exact h.ite h.modCell
    · exact h
  · exact h

theorem State.MemKept.rewritePath (h : s₀.MemKept s) {r n} : s₀.MemKept (s.rewritePath r n) := by
  unfold State.rewritePath
  dsimp only
  split
  · split
    · exact (h.modCtx).ite h
    · exact h
  · exact h

theorem State.MemKept.leaseReply (h : s₀.MemKept s) {req} : s₀.MemKept (s.leaseReply req) := by
  unfold State.leaseReply
  dsimp only
  split
  · exact h
  · split
    · exact h
    · split
      · exact h.same
      · split
        · exact h.same.trap
        · split
          · split
            · exact ((h.same.modLease.enterGuards.rewritePath.acquire.ite h.same.modLease.enterGuards.rewritePath).mod).wx.finish
            · exact (h.same.mod).wx.finish
          · split
            · exact ((h.same.modLease.enterGuards.rewritePath.acquire.ite h.same.modLease.enterGuards.rewritePath).mod).wx.finish
            · exact (h.same.mod).wx.finish
          · split
            · exact (h.same.modLease.enterGuards.rewritePath.acquire.ite h.same.modLease.enterGuards.rewritePath).wx.finish
            · exact h.same.wx.finish

theorem State.MemKept.sendLease (h : s₀.MemKept s) {r own parked} : s₀.MemKept (s.sendLease r own parked) := by
  unfold State.sendLease
  dsimp only
  split
  · exact (h.same.park.ite h.same.stall).ite (h.same.park.ite h.same.stall).leaseArrives.leaseReply
  · exact (h.takeHold.same.park.ite h.takeHold.same.stall).ite (h.takeHold.same.park.ite h.takeHold.same.stall).leaseArrives.leaseReply

theorem State.MemKept.lacq (h : s₀.MemKept s) {kind d a b} : MemNext s₀ (s.lacq kind d a b) := MemNext.ite h.faultOut h.sendLease.next

theorem State.MemKept.next_execLacqSp (h : s₀.MemKept s) {d a b} : MemNext s₀ (execLacqSp d a b s) := h.lacq

theorem State.MemKept.next_execLacqAcc (h : s₀.MemKept s) {d a b} : MemNext s₀ (execLacqAcc d a b s) := h.lacq

theorem State.MemKept.next_execLacqCls (h : s₀.MemKept s) {d a b} : MemNext s₀ (execLacqCls d a b s) := h.lacq

theorem State.MemKept.next_execLacqL2 (h : s₀.MemKept s) {d a b} : MemNext s₀ (execLacqL2 d a b s) := h.lacq

theorem State.MemKept.next_execLacqPage (h : s₀.MemKept s) {d a b} : MemNext s₀ (execLacqPage d a b s) := h.lacq

theorem State.MemKept.next_execLacqPath (h : s₀.MemKept s) {d a b} : MemNext s₀ (execLacqPath d a b s) := h.lacq

theorem State.MemKept.next_execLacqGrp (h : s₀.MemKept s) {d a b} : MemNext s₀ (execLacqGrp d a b s) := h.lacq

theorem State.MemKept.next_execRenew (h : s₀.MemKept s) {a b} : MemNext s₀ (execRenew a b s) :=
  MemNext.ite h.faultOut (MemNext.ite h.faultOut (MemNext.ite h.finish.next h.sendLease.next))

theorem State.MemKept.next_execLife (h : s₀.MemKept s) {d a} : MemNext s₀ (execLife d a s) := h.sendLease.next

theorem State.MemKept.next_execLlk (h : s₀.MemKept s) {d a b} : MemNext s₀ (execLlk d a b s) := by
  unfold execLlk
  dsimp only
  exact MemTries.conclude (h.illInOpt.bind fun _ _ => h.require.bind fun _ _ => h.require.bind fun _ _ => h.checkAccess.bind fun _ _ =>
    h.localWaits.bind fun _ _ => h.fabricWaits.bind fun _ _ => h.readBytes.bind fun ⟨_, _⟩ h7 => .pure h7.sendLease)

theorem State.MemKept.next_execLgen (h : s₀.MemKept s) {d a} : MemNext s₀ (execLgen d a s) := h.sendLease.next

theorem State.MemKept.next_execLpar (h : s₀.MemKept s) {d a b} : MemNext s₀ (execLpar d a b s) := h.sendLease.next

end

end Sys2Proof.Machine
end

section
/-! PROOFS. Memories stay in canonical form: messages (Sys2Proof/Machine/Messages.lean). -/

set_option Elab.async false

namespace Sys2Proof.Machine

section
variable {s₀ s t : State} {c : Ctx}

theorem State.MemKept.modGCell (h : s₀.MemKept s) {cell g f} : s₀.MemKept (s.modGCell cell g f) := h.modCell

theorem State.MemKept.received (h : s₀.MemKept s) {f} : s₀.MemKept (s.received f) := by
  unfold State.received
  split
  · exact h.modGCell.ite h
  · exact h

theorem State.MemKept.sendFlight (h : s₀.MemKept s) {x dest m grp cap} : s₀.MemKept (s.sendFlight x dest m grp cap) := by
  unfold State.sendFlight
  dsimp only
  split
  · exact h.same
  · exact (h.same.modGCell.modCtx).ite h.same

theorem State.MemKept.buildMsg (h : s₀.MemKept s) {x cls kind dest d1 d2 d3} : s₀.MemKept (s.buildMsg x cls kind dest d1 d2 d3).2 := by
  unfold State.buildMsg
  dsimp only
  exact h.takeSeq

theorem State.MemKept.checkSnd (h : s₀.MemKept s) {w} : MemTries s₀ (fun _ => True) (s.checkSnd w) :=
  h.require.bind fun _ _ => .ite (h.capRead.bind fun _ _ => h.require.bind fun _ _ => h.require) h.require

theorem State.MemKept.next_execSnd (h : s₀.MemKept s) {a} : MemNext s₀ (execSnd a s) := by
  unfold execSnd
  refine MemTries.conclude (h.illInHandler.bind fun _ _ => h.checkSnd.bind fun _ _ => ?_)
  dsimp only
  split
  · exact .ite (.ite (.halt h.again) (.ite (.halt h.noRoom) (.ite (h.buildMsg.logEntry.bind fun _ h3 => .pure h3.sendFlight.finish)
      (.pure h.buildMsg.sendFlight.finish)))) (h.deferAction.bind fun _ h3 => .pure h3.finish)
  · exact .ite (.halt h.again) (.pure h.buildMsg.sendFlight.finish)

theorem State.MemKept.refuseMsg (h : s₀.MemKept s) {cell part o m} : s₀.MemKept (s.refuseMsg cell part o m) := by
  unfold State.refuseMsg
  dsimp only
  split
  · split
    · exact h.report.classReport
    · exact h.report
  · exact h.reportQFull

theorem State.MemKept.aimRollback (h : s₀.MemKept s) {x k} : s₀.MemKept (s.aimRollback x k) := h.same

theorem State.MemKept.straggler (h : s₀.MemKept s) {x k} : s₀.MemKept (s.straggler x k) := by
  unfold State.straggler
  split
  · split
    · split
      · split
        · exact h.aimRollback
        · exact h
      · exact h
    · exact h
  · exact h

theorem State.MemKept.holdFlight (h : s₀.MemKept s) {n f} : s₀.MemKept (s.holdFlight n f) := h.ite h.same

/-- A cell that takes an entry into its queue keeps its memories. -/
theorem State.MemKept.entered (h : s₀.MemKept s) {cell q k} (e : s.entered cell q = some k) (w : s₀.memWf = true) : k.wf = true := by
  have hw := State.cell_wf (h.memWf w) cell
  unfold State.entered at e
  dsimp only at e
  split at e
  · cases e
  · split at e
    · cases e
    · cases e; exact hw

theorem State.MemKept.acceptMsg (h : s₀.MemKept s) {n f x} : s₀.MemKept (s.acceptMsg n f x) := by
  unfold State.acceptMsg
  dsimp only
  split
  · exact h.same.modCell.received
  · split
    · exact h.holdFlight
    · rename_i e
      have took : s₀.MemKept (({ s with flights := tdel s.flights n } : State).modCell f.cell fun _ => _) :=
        State.MemKept.modCell h.same fun _ w _ => h.entered e w
      exact (took.received.straggler.ite took.received).wakeMsg

theorem State.MemKept.next_execMessageArrival (h : s₀.MemKept s) {msg} : MemNext s₀ (execMessageArrival msg s) := by
  unfold execMessageArrival
  split
  · exact h.next
  · split
    · exact h.next
    · split
      · exact h.same.received.refuseMsg.next
      · exact MemNext.ite h.holdFlight.next h.acceptMsg.next

theorem State.MemKept.holdAnti (h : s₀.MemKept s) {n f} : s₀.MemKept (s.holdAnti n f) := by
  unfold State.holdAnti
  dsimp only
  split
  · exact h.same.received.refuseMsg
  · split
    · exact h.holdFlight
    · rename_i e
      exact State.MemKept.modCell h.same.received fun _ w _ => h.entered e w

theorem State.MemKept.antiAt (h : s₀.MemKept s) {n f} : s₀.MemKept (s.antiAt n f) := by
  unfold State.antiAt
  dsimp only
  split
  · exact h.same.received.modCell
  · split
    · exact h.same.received.aimRollback.modCtx
    · exact h.same.received.modCell.report.ite h.holdAnti

theorem State.MemKept.next_execAntiMessageArrival (h : s₀.MemKept s) {msg} : MemNext s₀ (execAntiMessageArrival msg s) := by
  unfold execAntiMessageArrival
  split
  · exact h.next
  · exact MemNext.ite h.next (MemNext.ite h.holdFlight.next h.antiAt.next)

theorem State.MemKept.next_execFabricHeldMessageAccept (h : s₀.MemKept s) {msg} : MemNext s₀ (execFabricHeldMessageAccept msg s) := by
  unfold execFabricHeldMessageAccept
  split
  · exact h.next
  · split
    · exact h.next
    · split
      · exact MemNext.ite h.next h.antiAt.next
      · split
        · exact h.same.received.refuseMsg.next
        · exact MemNext.ite h.acceptMsg.next h.next

theorem State.MemKept.wx4 (h : s₀.MemKept s) {d m} : s₀.MemKept (s.wx4 d m) := h.wx.wx.wx.wx

theorem State.MemKept.poisonEntry (h : s₀.MemKept s) {q} : s₀.MemKept (s.poisonEntry q) := by
  unfold State.poisonEntry
  exact (h.reportCtx.ite h).takeTrap

theorem State.MemKept.noteTaken (h : s₀.MemKept s) {q} : s₀.MemKept (s.noteTaken q) := by
  unfold State.noteTaken
  split
  · exact h.ite h.modCell
  · exact h

theorem State.MemKept.rcvOpt (h : s₀.MemKept s) {m q} : MemTries s₀ s₀.MemKept (s.rcvOpt m q) :=
  .ite (.halt h.noRoom) (h.require.bind fun _ _ => .pure (h.addRecord.modCell.mod))

theorem State.MemKept.next_execRcv (h : s₀.MemKept s) {d b} : MemNext s₀ (execRcv d b s) := by
  unfold execRcv
  refine MemTries.conclude (h.illInHandler.bind fun _ _ => ?_)
  dsimp only
  split
  · exact .pure (h.mod).wx.finish
  · split
    · exact .pure h.modCell.poisonEntry
    · split
      · exact h.rcvOpt.bind fun _ h2 => .pure h2.noteTaken.acquire.wx4.finish
      · exact .pure h.modCell.noteTaken.acquire.wx4.finish

theorem State.MemKept.next_execPkmsg (h : s₀.MemKept s) {d b} : MemNext s₀ (execPkmsg d b s) := by
  unfold execPkmsg
  refine MemTries.conclude (h.illInHandler.bind fun _ _ => ?_)
  split
  · exact .pure h.wx.finish
  · exact .ite (.pure h.poisonEntry) (.pure h.wx4.finish)

theorem State.MemKept.next_execWmsg (h : s₀.MemKept s) {d a} : MemNext s₀ (execWmsg d a s) :=
  MemTries.conclude (h.illInHandler.bind fun _ _ => .ite (.pure h.wx.finish) (.pure (h.mod).park))

end

end Sys2Proof.Machine
end

section
/-! PROOFS. Memories stay in canonical form: optimistic groups (Sys2Proof/Machine/Optimistic.lean). -/

set_option Elab.async false

namespace Sys2Proof.Machine

section
variable {s₀ s t : State} {c : Ctx}

theorem State.MemKept.leaveGroup (h : s₀.MemKept s) {x} : s₀.MemKept (s.leaveGroup x) := by
  unfold State.leaveGroup
  dsimp only
  split
  · exact h
  · exact (h.modCtx).modGCell.ite (h.modCtx)

theorem State.MemKept.joinGroup (h : s₀.MemKept s) {g b} : s₀.MemKept (s.joinGroup g b) := (h.mod).modGCell.modGroup

theorem State.MemKept.next_execOptOn (h : s₀.MemKept s) {d a} : MemNext s₀ (execOptOn d a s) := by
  unfold execOptOn
  refine MemNext.ite h.result (MemTries.conclude (h.require.bind fun _ _ => h.require.bind fun _ _ => h.checkHome.bind fun _ _ => .ite
    (.halt h.again) (h.localWaits.bind fun _ _ => h.require.bind fun _ _ => ?_)))
  dsimp only
  split
  · exact .pure h.wx.finish
  · exact .pure h.joinGroup.wx.finish

theorem State.MemKept.next_execOptOff (h : s₀.MemKept s) {d} : MemNext s₀ (execOptOff d s) := by
  unfold execOptOff
  refine MemTries.conclude (h.illInHandler.bind fun _ _ => ?_)
  dsimp only
  split
  · exact .pure h.wx.finish
  · exact .ite (.pure h.leaveGroup.wx.finish) (h.mod).again

theorem State.MemKept.next_execCkpt (h : s₀.MemKept s) {d a n} : MemNext s₀ (execCkpt d a n s) := by
  unfold execCkpt
  refine MemTries.conclude (h.illInHandler.bind fun _ _ => ?_)
  dsimp only
  split
  · exact h.raise
  · exact .ite (.pure h.wx.finish) (h.require.bind fun _ _ => h.require.bind fun _ _ => h.checkHome.bind fun _ _ => h.localWaits.bind
      fun _ _ => .ite (.pure h.wx.finish) (h.logEntry.bind fun _ h6 => .pure h6.wx.finish))

theorem State.MemKept.next_execRbret (h : s₀.MemKept s) : MemNext s₀ (execRbret s) := by
  unfold execRbret
  dsimp only
  split
  · exact MemTries.conclude h.raise
  · refine MemTries.conclude (h.require.bind fun _ _ => ?_)
    split
    · exact h.raise
    · split
      · exact h.raise
      · exact .pure (h.mod).finishAt

theorem State.MemKept.filterVersions (h : s₀.MemKept s) {f} : s₀.MemKept (s.filterVersions f) := h.same

theorem State.MemKept.discardVersions (h : s₀.MemKept s) {x w from_} : s₀.MemKept (s.discardVersions x w from_) := h.same

theorem State.MemKept.restoreArea (h : s₀.MemKept s) {cell e} : s₀.MemKept (s.restoreArea cell e) := by
  unfold State.restoreArea
  dsimp only
  split
  · exact h.modCell fun _ _ k => Cell.wf_withSpad k (Bank.wf_poisoned (bank_wf_write _ _ (Cell.spad_wf k)) _)
  · exact h

theorem State.MemKept.enterHandler (h : s₀.MemKept s) {x} : s₀.MemKept (s.enterHandler x) := by
  unfold State.enterHandler
  split
  · exact h
  split
  · exact h
  dsimp only
  exact h.modCtx

theorem State.MemKept.rollItem (h : s₀.MemKept s) {x} : s₀.MemKept (s.rollItem x) := by
  unfold State.rollItem
  dsimp only
  split
  · exact h
  · split
    · exact h.restoreArea.modCtx
    · exact h.discardVersions.modCtx
    · split
      · split
        · exact (h.modCell.modCtx).wakeMsg
        · exact h.modCell.modCtx
      · exact h
    · exact h.sendFlight.modCtx
    · exact h.enterHandler

theorem State.MemKept.startRollback (h : s₀.MemKept s) {x m t} : s₀.MemKept (s.startRollback x m t) :=
  (h.chargeRolled (cell := (s.ctx x).cell)).same

theorem State.MemKept.next_execRollbackSequence (h : s₀.MemKept s) {ctx} : MemNext s₀ (execRollbackSequence ctx s) := by
  unfold execRollbackSequence
  dsimp only
  split
  · exact h.next
  · split
    · exact h.next
    · split
      · exact h.next
      · split
        · exact h.noteTurn.rollItem.next
        · split
          · exact h.noteTurn.next
          · exact h.noteTurn.startRollback.next

theorem State.MemKept.next_execRollbackRequeueResume (h : s₀.MemKept s) {ctx} : MemNext s₀ (execRollbackRequeueResume ctx s) := by
  unfold execRollbackRequeueResume
  split
  · exact h.next
  · exact MemNext.ite h.next h.rollItem.next

theorem State.MemKept.next_execGvtRoundStart (h : s₀.MemKept s) {grp} : MemNext s₀ (execGvtRoundStart grp s) := by
  unfold execGvtRoundStart
  dsimp only
  split
  · exact h.next
  · exact MemNext.ite h.modGroup.next h.next

theorem State.MemKept.next_execGvtCut (h : s₀.MemKept s) {grp cell} : MemNext s₀ (execGvtCut grp cell s) := by
  unfold execGvtCut
  dsimp only
  split
  · exact h.next
  · exact MemNext.ite h.next (h.modGroup.modGCell.foldl (fun _ _ h1 => h1.modCtx) _).next

theorem State.MemKept.next_execGvtReport (h : s₀.MemKept s) {grp cell} : MemNext s₀ (execGvtReport grp cell s) := by
  unfold execGvtReport
  dsimp only
  split
  · exact h.next
  · exact MemNext.ite h.modGroup.next h.next

theorem State.MemKept.next_execGvtReportResult (h : s₀.MemKept s) {grp} : MemNext s₀ (execGvtReportResult grp s) := by
  unfold execGvtReportResult
  dsimp only
  split
  · exact h.next
  · exact MemNext.ite h.next (MemNext.ite h.modGroup.next h.modGroup.next)

theorem State.MemKept.next_execGvtReportRetry (h : s₀.MemKept s) {grp} : MemNext s₀ (execGvtReportRetry grp s) := by
  unfold execGvtReportRetry
  split
  · exact h.next
  · split
    · exact MemNext.ite h.modGroup.next h.next
    · exact h.next

theorem State.MemKept.markDone (h : s₀.MemKept s) {d} : s₀.MemKept (s.markDone d) := h.modCtx

theorem State.MemKept.performDeferred (h : s₀.MemKept s) {grp d ord view p} : s₀.MemKept (s.performDeferred grp d ord view p) := by
  unfold State.performDeferred
  dsimp only
  split
  · exact (h.ite h.releaseLines).reportDrop
  · split
    · exact (h.ite h.releaseLines).launch.modGCell
    · split
      · exact (h.ite h.releaseLines).syncTarget.modCell fun _ _ k =>
          Cell.wf_withSpad k (bank_wf_viewStore _ _ _ (Cell.spad_wf k))
      · split
        · split
          · exact ((h.ite h.releaseLines).syncTarget.perform.fst ‹_›).modCtx
          · exact (h.ite h.releaseLines).syncTarget.perform.fst ‹_›
        · exact ((h.ite h.releaseLines).syncTarget.perform.fst ‹_›).reportDrop
        · exact (h.ite h.releaseLines).syncTarget.perform.fst ‹_›

theorem State.MemKept.performDue (h : s₀.MemKept s) {grp cell d} : MemSome s₀ (s.performDue grp cell d) := by
  unfold State.performDue
  dsimp only
  split
  · exact h.performDeferred
  · exact h.foldl (fun _ _ h1 => h1.performDeferred) _
  · split
    · exact trivial
    · exact h.buildMsg.sendFlight
  · split
    · exact h.fillMailbox
    · exact trivial

theorem State.MemKept.finishPub (h : s₀.MemKept s) {grp cell g} : s₀.MemKept (s.finishPub grp cell g) := by
  unfold State.finishPub
  exact (h.same.foldl (fun _ _ h1 => h1.modCtx) _).modGCell

theorem State.MemKept.settlePub (h : s₀.MemKept s) {grp cell} : s₀.MemKept (s.settlePub grp cell) := by
  unfold State.settlePub
  dsimp only
  split
  · exact h
  · exact h.ite (h.modGCell.finishPub.ite h.modGCell)

theorem State.MemKept.next_execGvtPublication (h : s₀.MemKept s) {grp cell} : MemNext s₀ (execGvtPublication grp cell s) := by
  unfold execGvtPublication
  dsimp only
  split
  · exact h.next
  · exact MemNext.ite h.modGroup.modGCell.settlePub.next h.next

theorem State.MemKept.next_execDeferredEntryPerform (h : s₀.MemKept s) {grp cell} : MemNext s₀ (execDeferredEntryPerform grp cell s) := by
  unfold execDeferredEntryPerform
  dsimp only
  split
  · exact h.next
  · split
    · exact h.next
    · split
      · exact h.settlePub.next
      · split
        · exact h.next
        · exact (h.performDue.some ‹_›).markDone.chargeCell.settlePub.next

theorem State.MemKept.withWaiters (h : s₀.MemKept s) {w} : s₀.MemKept ({ s with waiters := w } : State) := h.same

theorem State.MemKept.lapseMember (h : s₀.MemKept s) {x} : s₀.MemKept (s.lapseMember x) := by
  unfold State.lapseMember
  dsimp only
  split
  · exact h
  · exact h.filterVersions.reportCtx.withWaiters.leaveGroup.modCtx

theorem State.MemKept.next_execGroupLapseTrap (h : s₀.MemKept s) {ctx} : MemNext s₀ (execGroupLapseTrap ctx s) := by
  unfold execGroupLapseTrap
  dsimp only
  split
  · exact h.next
  · exact MemNext.ite (h.wordAt.noteTurn.modCtx).takeTrap.next h.next

end

end Sys2Proof.Machine
end

section
/-! PROOFS. Memories stay in canonical form: the end of leases (Sys2Proof/Machine/Lapse.lean). -/

set_option Elab.async false

namespace Sys2Proof.Machine

section
variable {s₀ s t : State} {c : Ctx}

theorem State.MemKept.startJob (h : s₀.MemKept s) {j cycles} : s₀.MemKept (s.startJob j cycles) := h.same

theorem State.MemKept.jobsOver (h : s₀.MemKept s) {part} : s₀.MemKept (s.jobsOver part) := by
  unfold State.jobsOver
  split
  · exact h.ite h.signal
  · exact h

theorem State.MemKept.retryCell (h : s₀.MemKept s) {cell} : s₀.MemKept (s.retryCell cell) := h.same

theorem State.MemKept.regionEnds (h : s₀.MemKept s) {part region} : s₀.MemKept (s.regionEnds part region) := h.ite h.modPart

theorem State.MemKept.toLapsed (h : s₀.MemKept s) {n} : s₀.MemKept (s.toLapsed n) := by
  unfold State.toLapsed
  dsimp only
  split
  · exact h
  · split
    · split
      · exact (h.modLease.ite h.modLease.latchReset).retryCell
      · exact h.modLease.regionEnds.retryCell
      · exact h.modLease.retryCell
    · split
      · exact h.modLease.ite h.modLease.latchReset
      · exact h.modLease.regionEnds
      · exact h.modLease

theorem State.MemKept.clearBook (h : s₀.MemKept s) {n cell part m} : s₀.MemKept (s.clearBook n cell part m) := h.startJob

theorem State.MemKept.lapseBook (h : s₀.MemKept s) {n x c} : s₀.MemKept (s.lapseBook n x c) := by
  unfold State.lapseBook
  dsimp only
  split
  · exact h.lapseMember.clearBook
  · exact h.lapseMember

theorem State.MemKept.endThreads (h : s₀.MemKept s) {n f} : s₀.MemKept (s.endThreads n f) :=
  (h.foldl (fun _ _ h1 => h1.ite h1.same) _).foldl (fun _ _ h1 => h1.lapseBook.endCtxAt) _

theorem State.MemKept.unbindClass (h : s₀.MemKept s) {cell k part} : s₀.MemKept (s.unbindClass cell k part) :=
  (h.modCell.foldl (fun _ _ h1 => h1.refuseMsg) _).foldl (fun _ _ h1 => h1.refuseMsg) _

theorem State.MemKept.lapseGroup (h : s₀.MemKept s) {n g} : s₀.MemKept (s.lapseGroup n g) := h.foldl (fun _ _ h1 => h1.lapseBook) _

theorem State.MemKept.lapseBooksIn (h : s₀.MemKept s) {cell base count} : s₀.MemKept (s.lapseBooksIn cell base count) :=
  h.foldl (fun _ _ h1 => h1.lapseBook) _

theorem State.MemKept.zeroise (h : s₀.MemKept s) {n die part k} : s₀.MemKept (s.zeroise n die part k) := h.modPart.startJob

theorem State.MemKept.lapseLock (h : s₀.MemKept s) {n} : s₀.MemKept (s.lapseLock n) := by
  unfold State.lapseLock
  dsimp only
  split
  · exact h
  · split
    · exact h.modLease
    · exact h.modLease.same

theorem State.MemKept.lapseRing (h : s₀.MemKept s) {n part r} : s₀.MemKept (s.lapseRing n part r) := by
  have h1 : s₀.MemKept ((s.endThreads n fun c => c.part = part && ((List.range 8).map (· + 8 * r)).contains c.cell)) := h.endThreads
  have h2 := State.MemKept.foldl h1 (f := fun s c => s.latchReset c) (fun _ _ h => h.latchReset) ((List.range 8).map (· + 8 * r))
  unfold State.lapseRing
  exact State.MemKept.foldl h2.withEntries (fun _ _ h => h.checkEnd.ite h) _

theorem State.MemKept.endQueue (h : s₀.MemKept s) {part die} : s₀.MemKept (s.endQueue part die) := h.modPdie

theorem State.MemKept.atPassage (h : s₀.MemKept s) {n l} : s₀.MemKept (s.atPassage n l) := by
  unfold State.atPassage
  dsimp only
  split
  · exact (h.modEntry).endThreads
  · exact h.lapseBooksIn
  · exact h.unbindClass.toLapsed
  · exact h.toLapsed
  · exact h.lapseLock
  · exact h.lapseGroup
  · exact h.endQueue.toLapsed
  · exact h.toLapsed
  · exact h.toLapsed.ite h
  · exact h.lapseRing.ite h.toLapsed
  · exact h.ite h.toLapsed
  · exact h.ite h.toLapsed
  · exact h.zeroise.modLease
  · exact h

theorem State.MemKept.notify (h : s₀.MemKept s) {n} : s₀.MemKept (s.notify n) := by
  unfold State.notify
  dsimp only
  split
  · exact h
  · exact h.ite h.same

theorem State.MemKept.memberLapses (h : s₀.MemKept s) {n l} : s₀.MemKept (s.memberLapses n l) := by
  unfold State.memberLapses
  split
  · exact h.signal.ite h
  · exact h.signal.ite h
  · exact h.signal.ite h
  · exact h.signal.ite h
  · exact h.signal.ite h
  · exact h

/-- A lapse takes the leases below with it (08 R191). -/
theorem State.MemKept.lapse {k : Nat} : ∀ {s : State}, s₀.MemKept s → ∀ {n}, s₀.MemKept (s.lapse k n) := by
  induction k with
  | zero => exact fun h _ => h
  | succ k ih =>
    intro s h n
    unfold State.lapse
    split
    · exact h
    split
    · exact h
    · refine State.MemKept.foldl (State.MemKept.foldl (State.MemKept.foldl h.memberLapses.modLease.atPassage
        (fun _ _ h1 => ih h1) _) (fun _ _ h1 => ?_) _) (fun _ _ h1 => h1.notify) _
      split
      · exact (ih h1).ite h1.notify
      · exact h1

/-- A die that drops lines from its L2 keeps its memories. -/
theorem Die.wf_filterL2 {d : Die} (h : d.wf = true) (f : Nat × L2Line → Bool) : ({ d with l2 := d.l2.filter f } : Die).wf = true :=
  Die.wf_withL2 h (all_filter f (Die.l2_wf h))

/-- A cell that drops lines from its L1 keeps its memories. -/
theorem Cell.wf_filterL1 {c : Cell} (h : c.wf = true) (f : Nat × L1Line → Bool) : ({ c with l1 := c.l1.filter f } : Cell).wf = true :=
  Cell.wf_withL1 h (all_filter f (Cell.l1_wf h))

theorem State.MemKept.endPage (h : s₀.MemKept s) {n} : s₀.MemKept (s.endPage n) :=
  State.MemKept.mapCells (h.foldl (fun _ _ h1 => h1.modDie fun _ _ k => Die.wf_filterL2 k _) _) (hf := fun _ k => Cell.wf_filterL1 k _)

theorem State.MemKept.startImages (h : s₀.MemKept s) {n} : s₀.MemKept (s.startImages n) := h.foldl (fun _ _ h1 => h1.same.startJob) _

theorem State.MemKept.endLapsing (h : s₀.MemKept s) {n l} : s₀.MemKept (s.endLapsing n l) := by
  unfold State.endLapsing
  dsimp only
  split
  · exact h.startImages.startJob.modLease.ite h.startImages.startJob.toLapsed
  · exact h.startImages.startJob.modLease.ite h.startImages.startJob.toLapsed
  · split
    · exact h.startImages.endPage.startJob.modLease.ite h.startImages.endPage.startJob.toLapsed
    · exact h.startImages.modLease.ite h.startImages.toLapsed
  · exact (h.startImages.foldl (fun _ _ h1 => h1.startJob) _).modLease.ite (h.startImages.foldl (fun _ _ h1 => h1.startJob) _).toLapsed
  · exact h.startImages.startJob.modLease.ite h.startImages.startJob.toLapsed
  · exact (h.startImages.ite h.startImages.startJob).modLease.ite (h.startImages.ite h.startImages.startJob).toLapsed
  · exact h.startImages.same.modLease.ite h.startImages.same.toLapsed
  · exact h.startImages.modLease.ite h.startImages.toLapsed

theorem State.MemKept.next_execLapsingEnd (h : s₀.MemKept s) {lease} : MemNext s₀ (execLapsingEnd lease s) := by
  unfold execLapsingEnd
  split
  · exact h.next
  · exact MemNext.ite h.endLapsing.next h.next

theorem bank_wf_clears {α : Type} (l : List α) (a n : α → Nat) {b : Bank} (h : b.wf = true) :
    (l.foldl (fun b f => b.clear (a f) (n f)) b).wf = true := by
  induction l generalizing b with
  | nil => exact h
  | cons f l ih => exact ih (bank_wf_clear _ _ h)

theorem State.MemKept.clearFrames (h : s₀.MemKept s) {die fs} : s₀.MemKept (s.clearFrames die fs) :=
  h.modDie fun d _ k => Die.wf_withDram (c := d) k (bank_wf_clears fs (· * 0x1_0000) (fun _ => 0x1_0000) (Die.dram_wf k))

theorem State.MemKept.clearImage (h : s₀.MemKept s) {part a} : s₀.MemKept (s.clearImage part a) := by
  unfold State.clearImage
  dsimp only
  split
  · exact h
  · exact h.modDie fun _ _ k => (Die.wf_iff _).2 ⟨bank_wf_clear _ _ (Die.dram_wf k), all_filter _ (Die.l2_wf k)⟩

/-- A cell that a ring scrub has cleared is canonical. -/
theorem Cell.wf_scrubbed (c : Cell) : c.scrubbed.wf = true := rfl

theorem State.MemKept.scrubbed (h : s₀.MemKept s) {n} : s₀.MemKept (s.modCell n Cell.scrubbed) := h.modCell fun c _ _ => c.wf_scrubbed

/-- A scrub clears a range of a cell's scratchpad. -/
theorem State.MemKept.clearSpad (h : s₀.MemKept s) {n a k} : s₀.MemKept (s.modCell n fun c => { c with spad := c.spad.clear a k }) :=
  h.modCell fun _ _ w => Cell.wf_withSpad w (bank_wf_clear _ _ (Cell.spad_wf w))

theorem State.MemKept.clearJob (h : s₀.MemKept s) {j} : s₀.MemKept (s.clearJob j) := by
  have frames : s₀.MemKept (j.areas.foldl (fun s a => s.clearImage (j.part.getD 0) a) (s.clearFrames j.die j.frames)) :=
    h.clearFrames.foldl (fun _ _ h1 => h1.clearImage) _
  unfold State.clearJob
  dsimp only
  split
  · exact h.clearSpad
  · split
    · exact frames.clearSpad
    · exact frames.modCell
    · split
      · exact frames.scrubbed
      · exact frames
    · exact frames.modDie fun _ _ k => Die.wf_filterL2 k _
    · exact frames
    · have cells : s₀.MemKept (match j.cell with
          | some c => (j.areas.foldl (fun s a => s.clearImage (j.part.getD 0) a) (s.clearFrames j.die j.frames)).modCell c Cell.scrubbed
          | none => j.areas.foldl (fun s a => s.clearImage (j.part.getD 0) a) (s.clearFrames j.die j.frames)) := by
        split
        · exact frames.scrubbed
        · exact frames
      split
      · exact cells.modDie fun _ _ k => Die.wf_withDram k (bank_wf_clear _ _ (Die.dram_wf k))
      · exact cells

theorem State.MemKept.jobDone (h : s₀.MemKept s) {n j} : s₀.MemKept (s.jobDone n j) := by
  unfold State.jobDone
  dsimp only
  split
  · exact (h.clearJob.same.ite h.clearJob.same.toLapsed).jobsOver
  · exact h.clearJob.same.jobsOver

theorem State.MemKept.next_execScrubJobComplete (h : s₀.MemKept s) {job} : MemNext s₀ (execScrubJobComplete job s) := by
  unfold execScrubJobComplete
  split
  · exact h.next
  · exact MemNext.ite h.jobDone.next h.next

theorem State.MemKept.sweep (h : s₀.MemKept s) {die part k} : s₀.MemKept (s.sweep die part k) := by
  unfold State.sweep
  dsimp only
  refine State.MemKept.modDie ?_ fun d _ w => ?_
  · refine State.MemKept.mapCells h (hc := rfl) (hf := fun p w => ?_)
    dsimp only
    split
    · exact Cell.wf_filterL1 w _
    · exact w
  · refine (Die.wf_iff _).2 ⟨Bank.wf_withPoison (Die.dram_wf w) ?_, all_filter _ (Die.l2_wf w)⟩
    exact risesSet_foldl _ _ (fun _ _ ht => risesSet_foldl _ _ (fun _ _ ht => risesSet_nins ht (Nat.zero_le _)) ht)
      ((Bank.wf_iff _).1 (Die.dram_wf w)).2.2.2

theorem State.MemKept.next_execCacheSweep (h : s₀.MemKept s) {die lease} : MemNext s₀ (execCacheSweep die lease s) := by
  unfold execCacheSweep
  split
  · split
    · exact MemNext.ite h.sweep.jobDone.next h.next
    · exact h.next
  · exact h.next

theorem State.MemKept.endJob (h : s₀.MemKept s) {n j} : s₀.MemKept (s.endJob n j) := by
  unfold State.endJob
  dsimp only
  split
  · exact h.jobDone
  · split
    · exact h.sweep.jobDone
    · exact h.jobDone

theorem State.MemKept.endJobs (h : s₀.MemKept s) : s₀.MemKept s.endJobs := h.foldl (fun _ _ h1 => h1.endJob) _

theorem State.MemKept.repin (h : s₀.MemKept s) {n} : s₀.MemKept (s.repin n) := by
  unfold State.repin
  dsimp only
  split
  · split
    · exact h.modLease.ite h
    · exact h
  · exact h

theorem State.MemKept.extend (h : s₀.MemKept s) {n life} : s₀.MemKept (s.extend n life) := h.modLease.repin

theorem State.MemKept.applyRenewal (h : s₀.MemKept s) {req r} : s₀.MemKept (s.applyRenewal req r) := by
  unfold State.applyRenewal
  dsimp only
  split
  · exact h.same
  · exact h.same.ite (h.same.ite h.extend.same)

theorem State.MemKept.applyExtension (h : s₀.MemKept s) {e} : s₀.MemKept (s.applyExtension e) := by
  unfold State.applyExtension
  split
  · exact h
  · split
    · exact h.extend
    · split
      · exact h.modDie
      · exact h

theorem State.MemKept.applyExtensions (h : s₀.MemKept s) {die} : s₀.MemKept (s.applyExtensions die) :=
  h.same.foldl (fun _ _ h1 => h1.applyExtension) _

theorem State.MemKept.applyNotice (h : s₀.MemKept s) {n k} : s₀.MemKept (s.applyNotice n k) := by
  unfold State.applyNotice
  dsimp only
  split
  · exact h.same.lapse.ite h.same
  · exact h.same

theorem State.MemKept.timeOut (h : s₀.MemKept s) {n r} : s₀.MemKept (s.timeOut n r) := h.answerLock

theorem State.MemKept.demoteOne (h : s₀.MemKept s) {part die} : s₀.MemKept (s.demoteOne part die) := by
  unfold State.demoteOne
  dsimp only
  split
  · exact h
  · split
    · exact h.modLease.classReport
    · exact h.modLease

theorem State.MemKept.demoteAll {part die k : Nat} : ∀ {s : State}, s₀.MemKept s → s₀.MemKept (s.demoteAll part die k) := by
  induction k with
  | zero => exact fun h => h
  | succ k ih =>
    intro s h
    unfold State.demoteAll
    split
    · exact ih h.demoteOne
    · exact h

theorem State.MemKept.next_execHomeTickStep (h : s₀.MemKept s) {die} : MemNext s₀ (execHomeTickStep die s) :=
  MemNext.ite h.next (((((((h.modDie.foldl (fun _ _ h1 => h1.applyRenewal) _).applyExtensions.foldl (fun _ _ h1 => h1.lapse) _).foldl
    (fun _ _ h1 => h1.applyNotice) _).foldl (fun _ _ h1 => h1.leaseArrives) _).foldl (fun _ _ h1 => h1.serveLock) _).foldl
      (fun _ _ h1 => h1.timeOut) _).foldl (fun _ _ h1 => h1.demoteAll) _).next

theorem State.MemKept.next_execLeaseExpiry (h : s₀.MemKept s) {lease} : MemNext s₀ (execLeaseExpiry lease s) := by
  unfold execLeaseExpiry
  dsimp only
  split
  · exact h.next
  · exact MemNext.ite h.lapse.next h.next

theorem State.MemKept.next_execLapseNotice (h : s₀.MemKept s) {notice} : MemNext s₀ (execLapseNotice notice s) := by
  unfold execLapseNotice
  dsimp only
  split
  · exact h.next
  · exact MemNext.ite h.next h.same.next

theorem State.MemKept.next_execLeaseRequestArrival (h : s₀.MemKept s) {req} : MemNext s₀ (execLeaseRequestArrival req s) := by
  unfold execLeaseRequestArrival
  split
  · exact h.next
  · exact MemNext.ite h.next h.leaseArrives.next

theorem State.MemKept.next_execLlkRequestArrival (h : s₀.MemKept s) {req} : MemNext s₀ (execLlkRequestArrival req s) := by
  unfold execLlkRequestArrival
  split
  · exact h.next
  · exact MemNext.ite h.next h.leaseArrives.next

theorem State.MemKept.next_execGrantReplyDelivery (h : s₀.MemKept s) {req} : MemNext s₀ (execGrantReplyDelivery req s) := by
  unfold execGrantReplyDelivery
  split
  · exact h.next
  · exact MemNext.ite h.leaseReply.next h.next

theorem State.MemKept.next_execLeaseReplyArrival (h : s₀.MemKept s) {req} : MemNext s₀ (execLeaseReplyArrival req s) := by
  unfold execLeaseReplyArrival
  split
  · exact h.next
  · exact MemNext.ite h.leaseReply.next h.next

theorem State.MemKept.next_execLlkTimeout (h : s₀.MemKept s) {req} : MemNext s₀ (execLlkTimeout req s) := by
  unfold execLlkTimeout
  dsimp only
  split
  · exact h.next
  · exact MemNext.ite h.timeOut.next h.next

theorem State.MemKept.next_execLockDrain (h : s₀.MemKept s) {lease} : MemNext s₀ (execLockDrain lease s) := by
  unfold execLockDrain
  split
  · exact h.next
  · split
    · exact MemNext.ite h.next h.drainHolder.modLease.next
    · exact h.next

theorem State.MemKept.next_execLockGrant (h : s₀.MemKept s) {lease} : MemNext s₀ (execLockGrant lease s) := by
  unfold execLockGrant
  split
  · exact h.next
  · split
    · exact MemNext.ite h.grantLock.next h.next
    · exact h.next

theorem State.MemKept.next_execGuardNotice (h : s₀.MemKept s) {notice} : MemNext s₀ (execGuardNotice notice s) := by
  unfold execGuardNotice
  dsimp only
  split
  · exact h.next
  · split
    · exact h.next
    · exact MemNext.ite h.same.next (State.MemKept.next (State.MemKept.modCell h.same fun _ _ k => Cell.wf_withL1 k (all_filter _ (Cell.l1_wf k))))

end

end Sys2Proof.Machine
end

section
/-! PROOFS. Memories stay in canonical form: fault reports (Sys2Proof/Machine/Faults.lean). -/

set_option Elab.async false

namespace Sys2Proof.Machine

section
variable {s₀ s t : State} {c : Ctx}

theorem State.MemKept.ringWrite {part base size : Nat} (l : List (List Byte)) : ∀ {s : State}, s₀.MemKept s → ∀ {i},
    MemGives s₀.MemKept (s.ringWrite part base size i l) := by
  induction l with
  | nil => exact fun h _ => .pure h
  | cons b l ih => exact fun h _ => h.deviceWrite.bind fun _ h1 => ih h1

theorem State.MemKept.writeReport (h : s₀.MemKept s) {n} : s₀.MemKept (s.writeReport n) := by
  unfold State.writeReport
  split
  · exact h
  dsimp only
  generalize (_ :: _ : List (List Byte)) = pieces
  refine State.MemKept.ite h.same.modPart ?_
  split
  · exact h.same.modPart
  · rename_i e
    exact (Ends.of_ok e (State.MemKept.ringWrite _ h.same)).modPart.signal

theorem State.MemKept.next_execFaultReport (h : s₀.MemKept s) {report} : MemNext s₀ (execFaultReport report s) := by
  unfold execFaultReport
  split
  · exact h.next
  · exact MemNext.ite h.next h.writeReport.next

theorem State.MemKept.flushReports (h : s₀.MemKept s) {part} : s₀.MemKept (s.flushReports part) := h.foldl (fun _ _ h1 => h1.writeReport) _

theorem State.MemKept.next_execFqbaseWrite (h : s₀.MemKept s) {part v} : MemNext s₀ (execFqbaseWrite part v s) :=
  MemNext.ite h.next h.modPart.next

theorem State.MemKept.next_execFqlostRead (h : s₀.MemKept s) {part} : MemNext s₀ (execFqlostRead part s) := h.same.next

end

end Sys2Proof.Machine
end

section
/-! PROOFS. Memories stay in canonical form: packets (Sys2Proof/Machine/Packets.lean). -/

set_option Elab.async false

namespace Sys2Proof.Machine

section
variable {s₀ s t : State} {c : Ctx}

theorem State.MemKept.setPkt (h : s₀.MemKept s) {n p} : s₀.MemKept (s.setPkt n p) := h.same

theorem State.MemKept.performPkt (h : s₀.MemKept s) {n p} : s₀.MemKept (s.performPkt n p) := by
  unfold State.performPkt
  dsimp only
  exact h.perform.setPkt

theorem State.MemKept.next_execHomeAccessArrival (h : s₀.MemKept s) {pkt} : MemNext s₀ (execHomeAccessArrival pkt s) := by
  unfold execHomeAccessArrival
  split
  · exact h.next
  · exact MemNext.ite h.next (MemNext.ite h.setPkt.next h.performPkt.next)

theorem State.MemKept.barrierPkt (h : s₀.MemKept s) {pkt is} : s₀.MemKept (s.barrierPkt pkt is) := by
  unfold State.barrierPkt
  split
  · exact h
  · exact h.ite (h.same.landReport.ite h.performPkt)

theorem State.MemKept.next_execBarrierArrival (h : s₀.MemKept s) {pkt} : MemNext s₀ (execBarrierArrival pkt s) := h.barrierPkt.next

theorem State.MemKept.next_execBarrierDeclaration (h : s₀.MemKept s) {pkt} : MemNext s₀ (execBarrierDeclaration pkt s) := h.barrierPkt.next

theorem State.MemKept.next_execBarrierByteReport (h : s₀.MemKept s) {pkt} : MemNext s₀ (execBarrierByteReport pkt s) := h.barrierPkt.next

theorem State.MemKept.next_execRemoteUpdateThread (h : s₀.MemKept s) {pkt} : MemNext s₀ (execRemoteUpdateThread pkt s) := by
  unfold execRemoteUpdateThread
  dsimp only
  split
  · exact h.next
  · split
    · exact h.next
    · split
      · exact h.performPkt.next
      · exact MemNext.ite h.next h.modDie.performPkt.chargeNow.next

theorem State.MemKept.next_execFabricRequestAtSwitch (h : s₀.MemKept s) {pkt} : MemNext s₀ (execFabricRequestAtSwitch pkt s) := by
  unfold execFabricRequestAtSwitch
  dsimp only
  split
  · exact h.next
  · split
    · exact MemNext.ite h.sendPeer.next h.next
    · split
      · exact h.next
      · split
        · exact h.same.setPkt.next
        · exact MemNext.ite h.same.setPkt.next (MemNext.ite h.setPkt.setPkt.next h.setPkt.setPkt.next)

theorem State.MemKept.splitOne (h : s₀.MemKept s) {a m} : s₀.MemKept (s.splitOne a m) := by
  unfold State.splitOne
  split
  · exact h.setPkt
  · exact h.setPkt
  · exact h

theorem State.MemKept.next_execCombinedReplySplit (h : s₀.MemKept s) {pkt} : MemNext s₀ (execCombinedReplySplit pkt s) := by
  unfold execCombinedReplySplit
  split
  · exact h.next
  · split
    · exact (h.foldl (fun _ _ h1 => h1.splitOne) _).setPkt.next
    · exact (h.foldl (fun _ _ h1 => h1.splitOne) _).setPkt.next
    · exact h.next

theorem State.MemKept.next_execAccessReply (h : s₀.MemKept s) {pkt} : MemNext s₀ (execAccessReply pkt s) := by
  unfold execAccessReply
  dsimp only
  split
  · exact h.next
  · split
    · exact h.next
    · split
      · split
        · exact MemNext.ite h.same.replyTo.next h.same.next
        · exact h.same.next
      · split
        · exact MemNext.ite h.same.replyTo.next h.same.next
        · exact h.same.next
      · exact h.next

theorem State.MemKept.next_execPostedAck (h : s₀.MemKept s) {pkt} : MemNext s₀ (execPostedAck pkt s) := by
  unfold execPostedAck
  split
  · exact h.next
  · split
    · exact MemNext.ite h.ackPosted.next h.next
    · exact h.next

theorem State.MemKept.settleRefused (h : s₀.MemKept s) {n p} : s₀.MemKept (s.settleRefused n p) := h.ite h.flushReports.endRefused

theorem State.MemKept.next_execPostedRefusalReport (h : s₀.MemKept s) {pkt} : MemNext s₀ (execPostedRefusalReport pkt s) := by
  unfold execPostedRefusalReport
  split
  · exact h.next
  · split
    · exact MemNext.ite h.refusePosted.settleRefused.next h.next
    · exact h.settleRefused.next
    · exact h.next

theorem State.MemKept.retry (h : s₀.MemKept s) {x} : s₀.MemKept (s.retry x) := h.same

theorem State.MemKept.next_execParkedWake (h : s₀.MemKept s) {ctx} : MemNext s₀ (execParkedWake ctx s) := MemNext.ite h.retry.next h.next

theorem State.MemKept.next_execFeBackoffRetry (h : s₀.MemKept s) {ctx} : MemNext s₀ (execFeBackoffRetry ctx s) := by
  unfold execFeBackoffRetry
  dsimp only
  split
  · exact MemNext.ite h.retry.next h.next
  · exact h.next

theorem State.MemKept.next_execIdleWake (h : s₀.MemKept s) {ctx} : MemNext s₀ (execIdleWake ctx s) := by
  unfold execIdleWake
  dsimp only
  split
  · exact MemNext.ite h.retry.next h.next
  · exact h.next

theorem State.MemKept.next_execL1ReadLeaseEnd (h : s₀.MemKept s) {cell line} : MemNext s₀ (execL1ReadLeaseEnd cell line s) := by
  unfold execL1ReadLeaseEnd
  split
  · exact MemNext.ite h.l1Flush.next h.next
  · exact h.next

theorem State.MemKept.next_execDirtyLineTimeout (h : s₀.MemKept s) {cell line} : MemNext s₀ (execDirtyLineTimeout cell line s) := by
  unfold execDirtyLineTimeout
  split
  · exact MemNext.ite h.l1WriteBack.next h.next
  · exact h.next

theorem State.MemKept.next_execL1Eviction (h : s₀.MemKept s) {cell line} : MemNext s₀ (execL1Eviction cell line s) := h.l1Flush.next

theorem State.MemKept.next_execL1Writeback (h : s₀.MemKept s) {cell line} : MemNext s₀ (execL1Writeback cell line s) := h.l1WriteBack.next

theorem State.MemKept.next_execL2Eviction (h : s₀.MemKept s) {die pa} : MemNext s₀ (execL2Eviction die pa s) := by
  unfold execL2Eviction
  split
  · exact MemNext.ite h.next h.l2Evict.next
  · exact h.next

theorem State.MemKept.next_execL2Fill (h : s₀.MemKept s) {sid va} : MemNext s₀ (execL2Fill sid va s) := by
  unfold execL2Fill
  split
  · exact h.l2Fill.next
  · exact h.next

theorem State.MemKept.next_execDramWriteback (h : s₀.MemKept s) {die pa} : MemNext s₀ (execDramWriteback die pa s) := by
  unfold execDramWriteback
  split
  · next l line =>
    refine MemNext.ite (State.MemKept.next (h.dramWrite.modDie fun _ w k => ?_)) h.next
    have canonical : l.wf = true := all_tfind (q := fun l => l.wf) (Die.l2_wf (State.die_wf (h.memWf w) die)) line
    exact Die.wf_withL2 k (all_tset (q := fun p => L2Line.wf p.2) (Die.l2_wf k) canonical)
  · exact h.next

end

end Sys2Proof.Machine
end

section
/-! PROOFS. Memories stay in canonical form: delivery contexts (Sys2Proof/Machine/Peers.lean). -/

set_option Elab.async false

namespace Sys2Proof.Machine

section
variable {s₀ s t : State} {c : Ctx}

theorem State.MemKept.setEnd (h : s₀.MemKept s) {k e} : s₀.MemKept (s.setEnd k e) := h.same

theorem State.MemKept.answerPeer (h : s₀.MemKept s) {k e seq v} : s₀.MemKept (s.answerPeer k e seq v) := by
  unfold State.answerPeer
  dsimp only
  split
  · exact h
  · split
    · exact h.touchEnd.setPkt
    · exact h.touchEnd.setPkt
    · exact h.touchEnd

theorem State.MemKept.next_execDeliveryReplyArrival (h : s₀.MemKept s) {ctxnum seq stale v} : MemNext s₀
    (execDeliveryReplyArrival ctxnum seq stale v s) := by
  unfold execDeliveryReplyArrival
  split
  · exact h.next
  · exact h.answerPeer.next

theorem State.MemKept.next_execRetransmitTimer (h : s₀.MemKept s) {ctxnum seq} : MemNext s₀ (execRetransmitTimer ctxnum seq s) := by
  unfold execRetransmitTimer
  split
  · exact h.next
  · split
    · exact h.next
    · exact MemNext.ite h.touchEnd.next h.next

theorem State.MemKept.next_execRetransmitExhausted (h : s₀.MemKept s) {ctxnum seq} : MemNext s₀ (execRetransmitExhausted ctxnum seq s) := by
  unfold execRetransmitExhausted
  split
  · exact h.next
  · split
    · exact h.next
    · exact MemNext.ite h.answerPeer.next h.next

theorem State.MemKept.readOutside (h : s₀.MemKept s) {part} (l : List (Nat × Nat)) : MemGives (fun r => s₀.MemKept r.1) (s.readOutside part l)
    := by
  induction l generalizing s with
  | nil => exact .pure h
  | cons p l ih => exact h.homeRead.bind fun ⟨_, _⟩ h1 => (ih h1).bind fun ⟨_, _⟩ h2 => .pure h2

theorem State.MemKept.writeOutside (h : s₀.MemKept s) {part va data} (l : List (Nat × Nat)) :
    MemGives s₀.MemKept (s.writeOutside part va data l) := by
  induction l generalizing s with
  | nil => exact .pure h
  | cons p l ih => exact (h.lineModify fun _ _ k => bank_wf_write _ _ k).bind fun _ h1 => ih h1

theorem State.MemKept.serveOutside (h : s₀.MemKept s) {part va op} : MemGives (fun r => s₀.MemKept r.1) (s.serveOutside part va op) := by
  unfold State.serveOutside
  split
  · exact (h.readOutside _).bind fun ⟨_, _⟩ h1 => .pure h1
  · exact (h.writeOutside _).bind fun _ h1 => .pure h1
  · exact h.homeRead.bind fun ⟨_, _⟩ h1 => (h1.lineModify fun b _ k => Bank.wf_withFull k
      (risesSet_ndel _ ((Bank.wf_iff b).1 k).2.1)).bind fun _ h2 => .pure h2
  · exact (h.lineModify fun _ _ k => bank_wf_write _ _ k).bind fun _ h1 => .pure h1
  · exact h.homeRead.bind fun ⟨_, _⟩ h1 => (h1.lineModify fun _ _ k => bank_wf_write _ _ k).bind fun _ h2 => .pure h2

theorem State.MemKept.serve (h : s₀.MemKept s) {part va op} : s₀.MemKept (s.serve part va op).1 := by
  unfold State.serve
  split
  · split
    · exact h.serveOutside.ok ‹_›
    · exact h
  · exact h

theorem State.MemKept.applyFrame (h : s₀.MemKept s) {k e f} : s₀.MemKept (s.applyFrame k e f).1 := by
  unfold State.applyFrame
  dsimp only
  exact h.serve.same

theorem State.MemKept.applyKept {k n : Nat} : ∀ {s : State}, s₀.MemKept s → ∀ {e}, s₀.MemKept (s.applyKept k e n) := by
  induction n with
  | zero => exact fun h _ => h
  | succ n ih =>
    intro s h e
    unfold State.applyKept
    split
    · exact ih h.applyFrame
    · exact h

theorem State.MemKept.endGoesOn (h : s₀.MemKept s) {k} : MemNext s₀ (s.endGoesOn k) := by
  unfold State.endGoesOn
  split
  · exact MemNext.ite h.next h.applyKept.next
  · exact h.next

theorem State.MemKept.next_execDeliveryFrameArrival (h : s₀.MemKept s) {peer frame} : MemNext s₀ (execDeliveryFrameArrival peer frame s) := by
  unfold execDeliveryFrameArrival
  dsimp only
  split
  · exact h.next
  · split
    · exact MemNext.ite h.same.next (h.addEnd.touchEnd.ite h.addEnd.applyFrame.applyKept).next
    · exact MemNext.ite h.same.next (MemNext.ite (h.touchEnd.ite h.applyFrame.applyKept).next
        (MemNext.ite h.touchEnd.next h.touchEnd.next))

theorem State.MemKept.next_execDeliveryContextQuiet (h : s₀.MemKept s) {endId} : MemNext s₀ (execDeliveryContextQuiet endId s) := by
  unfold execDeliveryContextQuiet
  split
  · exact MemNext.ite h.lapse.next h.next
  · exact h.next

theorem State.MemKept.next_execPortLinkDown (h : s₀.MemKept s) {port} : MemNext s₀ (execPortLinkDown port s) := MemNext.ite h.same.next h.next

theorem State.MemKept.next_execPortLinkUp (h : s₀.MemKept s) {port} : MemNext s₀ (execPortLinkUp port s) := MemNext.ite h.same.next h.next

theorem State.MemKept.next_execHostMemoryAccess (h : s₀.MemKept s) {part va op} : MemNext s₀ (execHostMemoryAccess part va op s) := by
  unfold execHostMemoryAccess
  dsimp only
  exact MemNext.ite h.next (MemNext.ite h.modPart.next h.serve.same.next)

theorem State.MemKept.releaseHeld (h : s₀.MemKept s) {part} : s₀.MemKept (s.releaseHeld part) := by
  unfold State.releaseHeld
  refine (h.modPart.foldl (fun _ _ h1 => ?_) _).foldl (fun _ _ h1 => h1.ite h1.applyKept) _
  dsimp only
  exact h1.serve.same

end

end Sys2Proof.Machine
end

section
/-! PROOFS. Memories stay in canonical form: system instructions (Sys2Proof/Machine/System.lean). -/

set_option Elab.async false

namespace Sys2Proof.Machine

section
variable {s₀ s t : State} {c : Ctx}

theorem State.MemKept.csrOp (h : s₀.MemKept s) {d n f} : MemNext s₀ (s.csrOp d n f) := by
  unfold State.csrOp
  refine MemTries.conclude (h.require.bind fun _ _ => ?_)
  dsimp only
  split
  · exact .halt h.again
  · split
    · split
      · exact .pure (h.mod).acquire.wx.finish
      · exact .pure h.acquire.wx.finish
    · split
      · exact .pure (h.mod).wx.finish
      · exact .pure h.wx.finish

theorem State.MemKept.next_execCsrr (h : s₀.MemKept s) {d n} : MemNext s₀ (execCsrr d n s) := h.csrOp

theorem State.MemKept.next_execCsrw (h : s₀.MemKept s) {d a n} : MemNext s₀ (execCsrw d a n s) := h.csrOp

theorem State.MemKept.next_execCsrs (h : s₀.MemKept s) {d a n} : MemNext s₀ (execCsrs d a n s) := h.csrOp

theorem State.MemKept.next_execCsrc (h : s₀.MemKept s) {d a n} : MemNext s₀ (execCsrc d a n s) := h.csrOp

theorem State.MemKept.next_execTrap (h : s₀.MemKept s) {n} : MemNext s₀ (execTrap n s) := h.endInTrap.next

theorem State.MemKept.next_execEret (h : s₀.MemKept s) : MemNext s₀ (execEret s) := h.eret.next

theorem State.MemKept.next_execHalt (h : s₀.MemKept s) : MemNext s₀ (execHalt s) :=
  MemTries.conclude (h.illInOpt.bind fun _ _ => .ite (.halt h.releaseLines.again) (.pure h.releaseLines.endCtxAt))

theorem State.MemKept.next_execYield (h : s₀.MemKept s) : MemNext s₀ (execYield s) := (h.mod).finish.next

theorem State.MemKept.next_execIdle (h : s₀.MemKept s) {d a} : MemNext s₀ (execIdle d a s) := MemNext.ite h.stall.next h.wx.finish.next

theorem State.MemKept.next_execSpawn (h : s₀.MemKept s) {d a b} : MemNext s₀ (execSpawn d a b s) := by
  unfold execSpawn
  dsimp only
  split
  · exact h.result
  · split
    · exact h.result
    · split
      · exact h.result
      · split
        · exact h.result
        · exact (h.newCtx).wx.finish.next

theorem State.MemKept.next_execBrk (h : s₀.MemKept s) {n} : MemNext s₀ (execBrk n s) := (h.finish.mod).reportCtx.next

theorem State.MemKept.bringCharges (h : s₀.MemKept s) : s₀.MemKept s.bringCharges := by
  unfold State.bringCharges
  dsimp only
  split
  · exact h
  · split
    · exact h
    · exact (h.foldl (fun _ _ h1 => h1.sendCharges) _).applyCharges

theorem State.MemKept.budgetAnswer (h : s₀.MemKept s) {r} : s₀.MemKept (s.budgetAnswer r).1 := by
  unfold State.budgetAnswer
  split
  · exact h
  · split
    · exact h.performBudx
    · split <;> exact h

theorem State.MemKept.budgetDone (h : s₀.MemKept s) {r v} : s₀.MemKept (s.budgetDone r v) :=
  ((h.same.mod).ite h.same).wx.finish

theorem State.MemKept.noteTest (h : s₀.MemKept s) {die} : s₀.MemKept (s.noteTest die) := h.modDie

theorem State.MemKept.answerBudget (h : s₀.MemKept s) {r} : s₀.MemKept (s.answerBudget r).1 := by
  unfold State.answerBudget
  dsimp only
  split
  · exact (h.noteTest.ite h).budgetAnswer
  · exact h.budgetAnswer

theorem State.MemKept.sendBudget (h : s₀.MemKept s) {r} : s₀.MemKept (s.sendBudget r) := by
  unfold State.sendBudget
  dsimp only
  exact h.takeHold.same.stall.ite h.takeHold.answerBudget.budgetDone

theorem State.MemKept.next_execBudx (h : s₀.MemKept s) {d a} : MemNext s₀ (execBudx d a s) :=
  MemTries.conclude (.ite (.halt h.bringCharges.again) (.pure h.bringCharges.sendBudget))

theorem State.MemKept.next_execBget (h : s₀.MemKept s) {d k} : MemNext s₀ (execBget d k s) :=
  MemTries.conclude (.ite (.halt h.bringCharges.again) (.pure h.bringCharges.sendBudget))

end

end Sys2Proof.Machine
end

section
/-! PROOFS. Memories stay in canonical form: the Prompter (Sys2Proof/Machine/Prompter.lean). -/

set_option Elab.async false

namespace Sys2Proof.Machine

section
variable {s₀ s t : State} {c : Ctx}

theorem State.MemKept.next_execChargeBatchSend (h : s₀.MemKept s) {cell entry} : MemNext s₀ (execChargeBatchSend cell entry s) :=
  MemNext.ite h.sendCharges.next h.next

theorem State.MemKept.next_execChargeApply (h : s₀.MemKept s) {die} : MemNext s₀ (execChargeApply die s) := h.applyCharges.next

theorem State.MemKept.next_execGraceCountExhausted (h : s₀.MemKept s) {entry} : MemNext s₀ (execGraceCountExhausted entry s) := by
  unfold execGraceCountExhausted
  split
  · exact h.exhaust.next
  · exact h.next

theorem State.MemKept.next_execBudRefresh (h : s₀.MemKept s) {cell entry} : MemNext s₀ (execBudRefresh cell entry s) := by
  unfold execBudRefresh
  split
  · exact h
  · exact State.MemKept.next h.same

theorem State.MemKept.serveBudget (h : s₀.MemKept s) {req budx} : s₀.MemKept (s.serveBudget req budx) := by
  unfold State.serveBudget
  dsimp only
  split
  · exact h
  · split
    · exact h
    · split
      · exact h.applyCharges.answerBudget.same
      · exact h.answerBudget.same

theorem State.MemKept.next_execBudxRequest (h : s₀.MemKept s) {req} : MemNext s₀ (execBudxRequest req s) := h.serveBudget.next

theorem State.MemKept.next_execBgetRequest (h : s₀.MemKept s) {req} : MemNext s₀ (execBgetRequest req s) := h.serveBudget.next

theorem State.MemKept.next_execBudgetReplyArrival (h : s₀.MemKept s) {req} : MemNext s₀ (execBudgetReplyArrival req s) := by
  unfold execBudgetReplyArrival
  dsimp only
  split
  · exact h.next
  · split
    · exact h.next
    · exact MemNext.ite h.same.budgetDone.next h.same.next

theorem State.MemKept.next_execBudgetTrap (h : s₀.MemKept s) {ctx} : MemNext s₀ (execBudgetTrap ctx s) := by
  unfold execBudgetTrap
  split
  · exact h.next
  · exact MemNext.ite h.noteTurn.takeTrap.next h.next

theorem State.MemKept.next_execQtailWrite (h : s₀.MemKept s) {part die v} : MemNext s₀ (execQtailWrite part die v s) :=
  MemNext.ite h.next h.modPdie.next

theorem State.MemKept.next_execQbaseWrite (h : s₀.MemKept s) {part die v} : MemNext s₀ (execQbaseWrite part die v s) :=
  MemNext.ite h.next h.modPdie.next

theorem State.MemKept.next_execMqpolWrite (h : s₀.MemKept s) {die part v} : MemNext s₀ (execMqpolWrite die part v s) :=
  MemNext.ite h.modPdie.next h.next

theorem State.MemKept.grantContext (h : s₀.MemKept s) {part die n e} : s₀.MemKept (s.grantContext part die n e).1 := by
  unfold State.grantContext
  dsimp only
  exact h.same

theorem State.MemKept.enterEntry (h : s₀.MemKept s) {part die e} : s₀.MemKept (s.enterEntry part die e).1 :=
  State.MemKept.setEntry (State.MemKept.modDie h.takeFresh.grantContext)

/-- The answer of a queue entry, at its place in the ring. -/
theorem State.MemKept.answered (h : s₀.MemKept s) {space va bs} :
    s₀.MemKept (match s.deviceWrite space va bs with | .ok t => t | .error _ => s) := by
  split
  · exact Ends.of_ok ‹_› h.deviceWrite
  · exact h

theorem State.MemKept.next_execQueueEntryTest (h : s₀.MemKept s) {part die} : MemNext s₀ (execQueueEntryTest part die s) := by
  unfold execQueueEntryTest
  dsimp only
  refine MemNext.ite h ?_
  split
  · exact h.applyCharges
  · rename_i e
    have h1 := (Ends.of_ok e h.applyCharges.homeRead).noteTest (die := die)
    refine State.MemKept.next (State.MemKept.signal (State.MemKept.modPdie (State.MemKept.answered ?_)))
    split
    · exact h1.enterEntry
    · exact h1

theorem State.MemKept.stopSlot (h : s₀.MemKept s) {n x} : s₀.MemKept (s.stopSlot n x) := h.modCtx

theorem State.MemKept.next_execPreemptionRequest (h : s₀.MemKept s) {ctx} : MemNext s₀ (execPreemptionRequest ctx s) := by
  unfold execPreemptionRequest
  split
  · exact h.next
  · split
    · exact MemNext.ite h.stopSlot.next h.next
    · exact h.next

theorem State.MemKept.withdraw (h : s₀.MemKept s) {x} : s₀.MemKept (s.withdraw x) := by
  unfold State.withdraw
  dsimp only
  split <;> exact (h.abandonLoad (x := x)).same

theorem State.MemKept.writeImage {part n : Nat} : ∀ {s : State}, s₀.MemKept s → ∀ {a}, MemGives s₀.MemKept (s.writeImage part a n) := by
  induction n with
  | zero => exact fun h _ => .pure h
  | succ n ih => exact fun h _ => h.freeBytes.deviceWrite.bind fun _ h1 => ih h1

theorem State.MemKept.evictImage (h : s₀.MemKept s) {cell} : s₀.MemKept (s.evictImage cell).1 := by
  have shrunk {u : State} (hu : s₀.MemKept u) (x : Nat) :
      s₀.MemKept (u.modCell cell fun c => { c with understudy := c.understudy.filter fun y => y ≠ x }) := hu.modCell
  unfold State.evictImage
  dsimp only
  split
  · split
    · exact h
    · split
      · next u wrote =>
        exact (shrunk (Ends.of_ok wrote h.writeImage) _).same
      · exact h.modPdie.report (_die' := 0)
  · exact h

theorem State.MemKept.vacate (h : s₀.MemKept s) {x c} : s₀.MemKept (s.vacate x c) := by
  unfold State.vacate
  dsimp only
  split
  · exact h.evictImage.modCtx.ite (h.evictImage.ite h.evictImage.withdraw).leaveGuest.modCell.modCtx
  · exact (h.modCtx).ite ((h.ite h.withdraw).leaveGuest.modCell.modCtx)

theorem State.MemKept.next_execVacatePoint (h : s₀.MemKept s) {ctx} : MemNext s₀ (execVacatePoint ctx s) := by
  unfold execVacatePoint
  dsimp only
  split
  · exact h.next
  · exact MemNext.ite h.vacate.next h.next

theorem State.MemKept.releaseSlot (h : s₀.MemKept s) {x} : s₀.MemKept (s.releaseSlot x) := h.modCtx

theorem State.MemKept.clearSlot (h : s₀.MemKept s) {cell k} : s₀.MemKept (s.clearSlot cell k) := by
  unfold State.clearSlot
  split
  · exact h.releaseSlot
  · exact h

theorem State.MemKept.moveBindings (h : s₀.MemKept s) {x slot} : s₀.MemKept (s.moveBindings x slot) := h.same

theorem State.MemKept.readArea (h : s₀.MemKept s) {x c} : s₀.MemKept (s.readArea x c) := by
  unfold State.readArea
  dsimp only
  split
  · exact h.modCtx
  · exact h

theorem State.MemKept.restoreInto (h : s₀.MemKept s) {x c k} : s₀.MemKept (s.restoreInto x c k) :=
  (h.readArea.clearSlot.forget.modCtx).moveBindings

theorem State.MemKept.next_execContextRestore (h : s₀.MemKept s) {ctx} : MemNext s₀ (execContextRestore ctx s) := by
  unfold execContextRestore
  split
  · exact h.next
  · split
    · split
      · split
        · exact h.restoreInto.next
        · exact h.next
      · exact h.next
    · exact h.next

theorem State.MemKept.endSwitch (h : s₀.MemKept s) {x} : s₀.MemKept (s.endSwitch x) :=
  (h.modCtx).ite (h.modCtx).deliverStore

theorem State.MemKept.holdBack (h : s₀.MemKept s) {n e cell code data} : s₀.MemKept (s.holdBack n e cell code data) :=
  h.report.modEntry

theorem State.MemKept.placeLeases {n e cell slots ids} (l : List LEntry) : ∀ {s : State}, s₀.MemKept s →
    s₀.MemKept (s.placeLeases n e cell slots ids l).1 := by
  induction l with
  | nil => exact fun h => h
  | cons r l ih =>
    intro s h
    unfold State.placeLeases
    dsimp only
    split
    · exact h.lacqAt.fst ‹_›
    · exact ih (h.lacqAt.fst ‹_›).modLease

theorem State.MemKept.placeClasses {n e cell slot x} (l : List Nat) : ∀ {s : State}, s₀.MemKept s →
    s₀.MemKept (s.placeClasses n e cell slot x l) := by
  induction l with
  | nil => exact fun h => h
  | cons r l ih =>
    intro s h
    unfold State.placeClasses
    dsimp only
    refine State.MemKept.ite (ih h) ?_
    split
    · exact ih (h.lacqAt.fst ‹_›).modLease
    · exact ih (h.lacqAt.fst ‹_›)

theorem State.MemKept.readPieces (h : s₀.MemKept s) {part} (l : List (Nat × Nat)) : MemGives (fun r => s₀.MemKept r.1) (s.readPieces part l) :=
    by
  induction l generalizing s with
  | nil => exact .pure h
  | cons p l ih => exact h.homeRead.bind fun ⟨_, _⟩ h1 => (ih h1).bind fun ⟨_, _⟩ h2 => .pure h2

theorem State.MemKept.placeData (h : s₀.MemKept s) {part cell} (l : List DEntry) : MemGives s₀.MemKept (s.placeData part cell l) := by
  induction l generalizing s with
  | nil => exact .pure h
  | cons p l ih =>
    exact (h.readPieces _).bind fun ⟨_, _⟩ h1 => ih (h1.modCell fun _ _ k => Cell.wf_withSpad k (bank_wf_write _ _ (Cell.spad_wf k)))

theorem State.MemKept.clearUncovered (h : s₀.MemKept s) {n cell} : s₀.MemKept (s.clearUncovered n cell) := by
  unfold State.clearUncovered
  exact h.modCell fun _ _ k => Cell.wf_withSpad k (bank_wf_clears _ (· * 4096) (fun _ => 4096) (Cell.spad_wf k))

theorem State.MemKept.of_fst {α : Type} {x : α} {p : State × α} (e : p = (t, x)) (h : s₀.MemKept p.1) : s₀.MemKept t := h.fst e

theorem State.MemKept.placeThreads {n e cell} (l : List ((Nat × Nat) × Nat)) (h : s₀.MemKept s) :
    s₀.MemKept (l.foldl (fun (t : State) p => t.setCtx p.1.2 (t.freshCtx n e cell p.1.1 p.2)) s) :=
  h.foldl (fun _ _ h1 => h1.setCtx) l

theorem State.MemKept.placeCell (h : s₀.MemKept s) {n e cell} : s₀.MemKept (s.placeCell n e cell) := by
  unfold State.placeCell
  dsimp only
  split
  · exact h.holdBack
  refine State.MemKept.ite h ?_
  split
  · rename_i e
    have h1 := State.MemKept.of_fst e (State.MemKept.placeLeases _ h.same)
    split
    · exact h1.holdBack
    split
    · exact h1.holdBack
    · have h2 := Ends.of_ok ‹_› (h1.clearUncovered.placeData _)
      exact (State.MemKept.placeClasses _ (State.MemKept.placeThreads _ (h2.foldl (fun _ _ h3 => h3.clearSlot) _))).modEntry
  · rename_i e
    exact (State.MemKept.of_fst e (State.MemKept.placeLeases _ h.same)).holdBack

theorem State.MemKept.next_execCellPlacement (h : s₀.MemKept s) {entry cell} : MemNext s₀ (execCellPlacement entry cell s) := by
  unfold execCellPlacement
  split
  · exact MemNext.ite h.placeCell.next h.next
  · exact h.next

theorem State.MemKept.returnSlots (h : s₀.MemKept s) {cell} : s₀.MemKept (s.returnSlots cell) :=
  h.foldl (fun _ _ h1 => h1.emptySlot.releaseSlot) _

theorem State.MemKept.next_execSlotAssignment (h : s₀.MemKept s) {cell} : MemNext s₀ (execSlotAssignment cell s) := by
  unfold execSlotAssignment
  dsimp only
  split
  · exact h.returnSlots.next
  · split
    · split
      · exact h.returnSlots.restoreInto.next
      · exact h.returnSlots.next
    · exact h.returnSlots.next
  · split
    · exact h.returnSlots.placeCell.next
    · exact h.returnSlots.next
  · exact (h.returnSlots.foldl (fun _ _ h1 => h1.stopSlot) _).next

theorem State.MemKept.posted (h : s₀.MemKept s) {x} : ∀ f ∈ s.packets.flatMap fun (p : Nat × Packet) =>
    if p.2.ctx = x && p.2.posted then [execPostedAck p.1, execPostedRefusalReport p.1] else [], MemNext s₀ (f s) := by
  intro f hf
  obtain ⟨_, _, hf⟩ := List.mem_flatMap.1 hf
  split at hf
  · simp only [List.mem_cons, List.not_mem_nil, or_false] at hf
    rcases hf with rfl | rfl
    · exact h.next_execPostedAck
    · exact h.next_execPostedRefusalReport
  · cases hf

theorem State.MemKept.refreshed (h : s₀.MemKept s) : ∀ f ∈ (match c.entry with | some n => [execBudRefresh c.cell n] | none => []),
    MemNext s₀ (f s) := by
  intro f hf
  split at hf
  · rw [List.mem_singleton.1 hf]
    exact h.next_execBudRefresh
  · cases hf

/-- What can bring an event of a saved context keeps the memories. -/
theorem State.MemKept.bringers (h : s₀.MemKept s) {x c ev} : ∀ f ∈ s.bringers x c ev, MemNext s₀ (f s) := by
  intro f hf
  cases ev with
  | flags _ =>
    simp only [State.bringers, List.mem_cons, List.not_mem_nil, or_false] at hf
    rcases hf with rfl | rfl
    · exact h.next_execEngineOpRetire
    · exact h.next_execEngineOpRetire
  | memFlags _ => exact h.posted f hf
  | ack _ => exact h.posted f hf
  | setBp _ =>
    rcases List.mem_append.1 hf with hf | hf
    · split at hf
      · rw [List.mem_singleton.1 hf]
        exact h.next_execChargeApply
      · cases hf
    · obtain ⟨_, _, rfl⟩ := List.mem_map.1 hf
      exact h.next_execBudxRequest
  | setRbp =>
    obtain ⟨_, _, hf⟩ := List.mem_flatMap.1 hf
    simp only [List.mem_cons, List.not_mem_nil, or_false] at hf
    rcases hf with rfl | rfl
    · exact h.next_execMessageArrival
    · exact h.next_execAntiMessageArrival
  | gvt _ =>
    simp only [State.bringers] at hf
    split at hf
    · simp only [List.mem_cons, List.not_mem_nil, or_false] at hf
      rcases hf with rfl | rfl
      · exact h.next_execGvtPublication
      · exact h.next_execDeferredEntryPerform
    · cases hf
  | bud _ => exact h.refreshed f hf
  | dl _ => exact h.refreshed f hf

theorem State.memSome_brought {x ev} (l : List (State → Host.Outcome State Fault Refusal)) (hl : ∀ f ∈ l, MemNext s₀ (f s)) :
    MemSome s₀ (s.brought x ev l) := by
  induction l with
  | nil => trivial
  | cons f l ih =>
    have h1 := ih fun g hg => hl g (List.mem_cons_of_mem _ hg)
    have h2 := hl f List.mem_cons_self
    unfold State.brought
    split
    · rename_i e
      rw [e] at h2
      split
      · exact h2
      · exact h1
    · exact h1

theorem State.MemKept.next_execSavedContextEvent (h : s₀.MemKept s) {ctx ev} : MemNext s₀ (execSavedContextEvent ctx ev s) := by
  unfold execSavedContextEvent
  split
  · exact h
  refine MemNext.ite h ?_
  rename_i c _
  have h1 := State.memSome_brought (s₀ := s₀) (s := s) (x := ctx) (ev := ev) (s.bringers ctx c ev) h.bringers
  cases e : s.brought ctx ev (s.bringers ctx c ev) with
  | none => exact h
  | some t => exact h1.some e

theorem State.MemKept.next_execSabaseWrite (h : s₀.MemKept s) {part die v} : MemNext s₀ (execSabaseWrite part die v s) :=
  MemNext.ite h.next h.modPdie.next

theorem State.MemKept.resumeSlot (h : s₀.MemKept s) {cell slot} : s₀.MemKept (s.resumeSlot cell slot) := by
  unfold State.resumeSlot
  split
  · exact h
  · exact (h.modCtx).ite h

theorem State.MemKept.debugCommand (h : s₀.MemKept s) {v} : s₀.MemKept (s.debugCommand v) := h.resumeSlot.ite h

theorem State.MemKept.next_execDebugResume (h : s₀.MemKept s) {die cell slot} : MemNext s₀ (execDebugResume die cell slot s) :=
  MemNext.ite h.debugCommand.next h.next

theorem State.MemKept.next_execDebugCommandIgnored (h : s₀.MemKept s) {die op} : MemNext s₀ (execDebugCommandIgnored die op s) :=
  MemNext.ite h.debugCommand.next h.next

end

end Sys2Proof.Machine
end

section
/-! PROOFS. Memories stay in canonical form: the partition page (Sys2Proof/Machine/Partition.lean). -/

set_option Elab.async false

namespace Sys2Proof.Machine

section
variable {s₀ s t : State} {c : Ctx}

theorem State.MemKept.writeFunction (h : s₀.MemKept s) {part off v} : s₀.MemKept (s.writeFunction part off v) :=
  h.modPdie.ite (h.modPdie.ite (h.modPart.ite (h.modPart.ite (h.modPart.ite (h.modPart.ite h)))))

theorem State.MemKept.withHostOut (h : s₀.MemKept s) {o} : s₀.MemKept ({ s with hostOut := o } : State) := h.same

theorem State.MemKept.execStatisticsBlockRead (h : s₀.MemKept s) {part n} (e : execStatisticsBlockRead part n s = .next t) : s₀.MemKept t :=
    by
  unfold Machine.execStatisticsBlockRead at e
  split at e
  · cases e; exact h.withHostOut
  · cases e; exact h.modCell.withHostOut

theorem State.MemKept.next_execErrcntRead (h : s₀.MemKept s) {die} : MemNext s₀ (execErrcntRead die s) :=
  MemNext.ite h.next (State.MemKept.same (s := s.modDie die fun d => { d with sce := 0, sue := 0, dce := 0, due := 0 }) h.modDie).next

theorem State.MemKept.next_execPmoveWrite (h : s₀.MemKept s) {part v} : MemNext s₀ (execPmoveWrite part v s) :=
  MemNext.ite h.next h.modPart.next

theorem State.MemKept.flushPages (h : s₀.MemKept s) {part ps} : s₀.MemKept (s.flushPages part ps) :=
  (h.foldl (fun _ _ h1 => h1.l1Flush) _).foldl (fun _ _ h1 => h1.foldl (fun _ _ h2 => h2.l2Evict) _) _

theorem State.MemKept.writeFrames (h : s₀.MemKept s) {p die frame l} : s₀.MemKept (s.writeFrames p die frame l) :=
  h.foldl (fun _ _ h1 => h1.dramWrite) _

theorem State.MemKept.movePage (h : s₀.MemKept s) {p dom g f} : s₀.MemKept (s.movePage p dom g f) := h.same.modDie.writeFrames.startJob

theorem State.MemKept.movePages {dom} (l : List Page) : ∀ {s : State}, s₀.MemKept s → s₀.MemKept (s.movePages dom l).1 := by
  induction l with
  | nil => exact fun h => h
  | cons p l ih =>
    intro s h
    unfold State.movePages
    split
    · exact h
    · exact ih h.movePage

theorem State.MemKept.moveRegion (h : s₀.MemKept s) {part region dom} : s₀.MemKept (s.moveRegion part region dom) := by
  unfold State.moveRegion
  dsimp only
  split
  · exact h.modPart
  refine State.MemKept.ite h ?_
  split
  · rename_i e
    exact h.modPart.ite (State.MemKept.of_fst e (State.MemKept.movePages _ h.flushPages)).modPart
  · exact h.modPart

theorem State.MemKept.leaveSlice (h : s₀.MemKept s) {n k} : s₀.MemKept (s.leaveSlice n k) := h.modLease.foldl (fun _ _ h1 => h1.lapse) _

theorem State.MemKept.leaveChan (h : s₀.MemKept s) {n part g} : s₀.MemKept (s.leaveChan n part g) := by
  unfold State.leaveChan
  refine h.modLease.foldl (fun _ _ h1 => ?_) _
  split
  · exact h1.flushPages.movePage
  · exact h1.lapse

theorem State.MemKept.flushSlices (h : s₀.MemKept s) {part} : s₀.MemKept (s.flushSlices part) :=
  h.foldl (fun _ _ h1 => h1.foldl (fun _ _ h2 => h2.l2Evict) _) _

theorem State.MemKept.quiesce (h : s₀.MemKept s) {part} : s₀.MemKept (s.quiesce part) := by
  unfold State.quiesce
  refine (((h.ite h.flushSlices).foldl (fun _ _ h1 => h1.modLease) _).foldl (fun _ _ h1 => ?_) _).modPart.foldl
    (fun _ _ h1 => h1.moveRegion) _
  split
  · exact h1.leaveSlice
  · exact h1.leaveChan
  · exact h1

theorem State.MemKept.next_execQuiescePoint (h : s₀.MemKept s) {part} : MemNext s₀ (execQuiescePoint part s) :=
  MemNext.ite h.next (MemNext.ite h.modPart.next h.quiesce.releaseHeld.next)

theorem State.MemKept.putCopy (h : s₀.MemKept s) {part o life die} : s₀.MemKept (s.putCopy part o life die) := h.same

theorem State.MemKept.renewCopies (h : s₀.MemKept s) {die o life} : s₀.MemKept (s.renewCopies die o life) := by
  unfold State.renewCopies
  dsimp only
  split
  · exact h.same
  · exact h

theorem State.MemKept.ptcmd (h : s₀.MemKept s) {die part o bad badArg} : s₀.MemKept (s.ptcmd die part o bad badArg).1 := by
  have ended {u : State} (hu : s₀.MemKept u) (code : Byte) :
      s₀.MemKept (u.modDie die fun d => { d with ptbusy := true, ptcode := code }) := hu.modDie
  unfold State.ptcmd
  dsimp only
  split
  · exact h
  · split
    · exact ended h _
    · split
      · exact ended h.renewCopies _
      · exact ended (h.foldl (fun _ _ h1 => h1.putCopy) _) _

theorem State.MemKept.portCommand (h : s₀.MemKept s) {die op part res} : s₀.MemKept (s.portCommand die op part res) := by
  unfold State.portCommand
  dsimp only
  split
  · exact h.ptcmd
  · exact h.ptcmd
  · exact h.ptcmd
  · exact h.ptcmd
  · exact h.ptcmd
  · exact h.ptcmd.modPart.ite h.ptcmd
  · exact h.ite h.modDie

theorem State.MemKept.next_execPtcmdRoot (h : s₀.MemKept s) {die part} : MemNext s₀ (execPtcmdRoot die part s) := h.portCommand.next

theorem State.MemKept.next_execPtcmdRing (h : s₀.MemKept s) {die part res} : MemNext s₀ (execPtcmdRing die part res s) := h.portCommand.next

theorem State.MemKept.next_execPtcmdSlice (h : s₀.MemKept s) {die part res} : MemNext s₀ (execPtcmdSlice die part res s) := h.portCommand.next

theorem State.MemKept.next_execPtcmdChannelGroup (h : s₀.MemKept s) {die part res} : MemNext s₀ (execPtcmdChannelGroup die part res s) :=
  h.portCommand.next

theorem State.MemKept.next_execPtcmdShare (h : s₀.MemKept s) {die part res} : MemNext s₀ (execPtcmdShare die part res s) := h.portCommand.next

theorem State.MemKept.next_execPtcmdKeySlot (h : s₀.MemKept s) {die part res} : MemNext s₀ (execPtcmdKeySlot die part res s) :=
  h.portCommand.next

theorem State.MemKept.next_execPtcmdReservedOp (h : s₀.MemKept s) {die op} : MemNext s₀ (execPtcmdReservedOp die op s) :=
  MemNext.ite h.next h.portCommand.next

theorem State.MemKept.next_execPtcmdApplied (h : s₀.MemKept s) {die} : MemNext s₀ (execPtcmdApplied die s) := MemNext.ite h.modDie.next h.next

theorem State.MemKept.rtRefuse (h : s₀.MemKept s) {die code} : s₀.MemKept (s.rtRefuse die code) := h.modDie

theorem State.MemKept.retireRow (h : s₀.MemKept s) {die chan bank row} : s₀.MemKept (s.retireRow die chan bank row) :=
  h.ite (h.rtRefuse.ite (h.rtRefuse.ite h.modDie))

theorem State.MemKept.retireRing (h : s₀.MemKept s) {die ring} : s₀.MemKept (s.retireRing die ring) :=
  h.ite (h.rtRefuse.ite (h.rtRefuse.ite (h.rtRefuse.ite (h.modDie.foldl (fun _ _ h1 => h1.startJob) _))))

theorem State.MemKept.next_execRetireDramRow (h : s₀.MemKept s) {die chan bank row} : MemNext s₀ (execRetireDramRow die chan bank row s) :=
  h.retireRow.next

theorem State.MemKept.next_execRetireRing (h : s₀.MemKept s) {die ring} : MemNext s₀ (execRetireRing die ring s) := h.retireRing.next

theorem State.MemKept.next_execRetirementDone (h : s₀.MemKept s) {die} : MemNext s₀ (execRetirementDone die s) :=
  MemNext.ite h.modDie.next h.next

theorem State.MemKept.writeManagement (h : s₀.MemKept s) {die off v} : s₀.MemKept (s.writeManagement die off v) :=
  h.portCommand.ite (h.modDie.ite (h.modDie.ite ((h.retireRow.ite h.retireRing).ite (h.modPdie.ite (h.debugCommand.ite h)))))

theorem State.MemKept.next_execRegisterWrite (h : s₀.MemKept s) {port off v} : MemNext s₀ (execRegisterWrite port off v s) := by
  unfold execRegisterWrite
  split
  · exact MemNext.ite h.next h.writeFunction.next
  · exact MemNext.ite h.writeManagement.next h.next

end

end Sys2Proof.Machine
end

section
/-! PROOFS. Memories stay in canonical form: reset and bring-up (Sys2Proof/Machine/Boot.lean). -/

set_option Elab.async false

namespace Sys2Proof.Machine

section
variable {s₀ s t : State} {c : Ctx}

theorem State.MemKept.next_execRotationChangeWrite (h : s₀.MemKept s) {cell rot} : MemNext s₀ (execRotationChangeWrite cell rot s) :=
  MemNext.ite h.writeRot.next h.next

theorem State.MemKept.next_execRotationBoundary (h : s₀.MemKept s) {cell} : MemNext s₀ (execRotationBoundary cell s) :=
  MemNext.ite h.rotBoundary.next h.next

theorem State.MemKept.next_execSplitChangeWrite (h : s₀.MemKept s) {cell spsz} : MemNext s₀ (execSplitChangeWrite cell spsz s) :=
  MemNext.ite h.writeSplit.next h.next

theorem State.MemKept.next_execSplitChangeDone (h : s₀.MemKept s) {cell} : MemNext s₀ (execSplitChangeDone cell s) :=
  MemNext.ite h.splitDone.next h.next

theorem State.MemKept.next_execSprfClear (h : s₀.MemKept s) {cell} : MemNext s₀ (execSprfClear cell s) := MemNext.ite h.clearSprf.next h.next

theorem State.MemKept.next_execFunctionLevelReset (h : s₀.MemKept s) {part} : MemNext s₀ (execFunctionLevelReset part s) :=
  MemNext.ite h.next h.modPart.next

theorem State.MemKept.next_execFlrHoldEnd (h : s₀.MemKept s) {part} : MemNext s₀ (execFlrHoldEnd part s) := MemNext.ite h.modPart.next h.next

/-- Without supply the flash and the fuses stay, and no memory holds anything (19 R357). -/
theorem State.MemKept.cold (h : s₀.MemKept s) {on} : s₀.MemKept (s.cold on) := ⟨h.fixed, fun _ => rfl⟩

/-- A module reset keeps the DRAM of each die and nothing of its L2 (19 R357). -/
theorem State.MemKept.next_execModuleReset (h : s₀.MemKept s) : MemNext s₀ (execModuleReset s) := by
  refine MemNext.ite h.next (State.MemKept.next ⟨h.fixed, fun w => ?_⟩)
  refine (State.memWf_iff _).2 ⟨rfl, ?_⟩
  have dies := ((State.memWf_iff s).1 (h.memWf w)).2
  simp only [List.all_map, List.all_eq_true, Function.comp] at *
  exact fun p hp => (Die.wf_iff p.2.kept).2 ⟨Die.dram_wf (d := p.2) (dies p hp), rfl⟩

theorem State.MemKept.next_execPowerOn (h : s₀.MemKept s) : MemNext s₀ (execPowerOn s) := MemNext.ite h.next h.cold.next

theorem State.MemKept.next_execPowerLoss (h : s₀.MemKept s) : MemNext s₀ (execPowerLoss s) := h.cold.next

theorem State.MemKept.loadImage (h : s₀.MemKept s) {img} : s₀.MemKept (s.loadImage img) :=
  (h.foldl (fun _ _ h1 => h1.modDie) _).foldl (fun _ _ h1 => h1.foldl (fun _ _ h2 => h2.modPdie) _) _

theorem State.MemKept.withStage (h : s₀.MemKept s) {b k n} : s₀.MemKept ({ s with img := b, stage := k, house := n } : State) := h.same

theorem State.MemKept.boot (h : s₀.MemKept s) {b} : s₀.MemKept (s.boot b) := h.loadImage.withStage

theorem State.MemKept.next_execImageCheck (h : s₀.MemKept s) : MemNext s₀ (execImageCheck s) :=
  MemNext.ite h.next (MemNext.ite h.boot.next (MemNext.ite h.boot.next h.same.next))

theorem State.MemKept.rescrub (h : s₀.MemKept s) {die} : s₀.MemKept (s.rescrub die) :=
  (h.foldl (fun _ _ h1 => h1.startJob) _).foldl (fun _ _ h1 => h1.startJob) _

theorem State.MemKept.next_execDramCalibration (h : s₀.MemKept s) {failed} : MemNext s₀ (execDramCalibration failed s) := by
  have calibrated {u : State} (h : s₀.MemKept u) : s₀.MemKept { u with failedGroups := failed, stage := 2 } := h.same
  exact MemNext.ite h.next (calibrated (h.foldl (fun _ _ h1 => h1.rescrub) _)).next

theorem State.MemKept.next_execDieLinkTraining (h : s₀.MemKept s) {pass} : MemNext s₀ (execDieLinkTraining pass s) :=
  MemNext.ite h.next (MemNext.ite h.same.next h.same.next)

theorem State.MemKept.next_execPcieTraining (h : s₀.MemKept s) {up width rate} : MemNext s₀ (execPcieTraining up width rate s) :=
  MemNext.ite h.next (MemNext.ite h.same.next h.same.next)

theorem State.MemKept.next_execCxlNegotiation (h : s₀.MemKept s) {accepted} : MemNext s₀ (execCxlNegotiation accepted s) :=
  MemNext.ite h.same.next h.next

theorem State.MemKept.next_execEthernetAutoneg (h : s₀.MemKept s) {up} : MemNext s₀ (execEthernetAutoneg up s) := MemNext.ite h.same.next h.next

theorem State.MemKept.next_execHostConfigRequest (h : s₀.MemKept s) {fn} : MemNext s₀ (execHostConfigRequest fn s) := h.same.next

theorem State.MemKept.next_execSmbusReadBstat (h : s₀.MemKept s) : MemNext s₀ (execSmbusReadBstat s) := h.same.next

theorem State.MemKept.next_execSmbusReadResetCount (h : s₀.MemKept s) : MemNext s₀ (execSmbusReadResetCount s) := h.same.next

theorem State.MemKept.next_execSmbusOtherCommand (h : s₀.MemKept s) {cmd} : MemNext s₀ (execSmbusOtherCommand cmd s) :=
  MemNext.ite h.next h.same.next

theorem State.MemKept.next_execAttestationRequest (h : s₀.MemKept s) {nonce} : MemNext s₀ (execAttestationRequest nonce s) :=
  MemNext.ite h.same.next h.same.next

/-- A bank that takes one poison mark. -/
theorem Bank.wf_marked {b : Bank} (h : b.wf = true) (k : Nat) : ({ b with poison := nins b.poison k } : Bank).wf = true :=
  Bank.wf_poisoned h [k]

theorem State.MemKept.poisonAt (h : s₀.MemKept s) {e} : s₀.MemKept (s.poisonAt e) := by
  unfold State.poisonAt
  split
  · exact h.modCell fun _ _ k => Cell.wf_withSpad k (Bank.wf_marked (Cell.spad_wf k) _)
  · exact h.modDie fun _ _ k => Die.wf_withL2 k
      (all_tset (Die.l2_wf k) (Bank.wf_marked (all_tget (q := L2Line.wf) (Die.l2_wf k) rfl _) _))
  · exact h.modDie fun _ _ k => Die.wf_withDram k (Bank.wf_marked (Die.dram_wf k) _)
  · refine h.modCell fun _ _ k => ?_
    dsimp only
    split
    · exact k
    · exact k
  · exact h.modCtx
  · exact h.modCtx
  · exact h.modCell
  · exact h.modCell
  · exact h.modCell fun _ _ k => Cell.wf_withL1 k
      (all_tset (Cell.l1_wf k) (Bank.wf_marked (all_tget (q := L1Line.wf) (Cell.l1_wf k) rfl _) _))
  · exact h.same

theorem State.MemKept.next_execSoftError (h : s₀.MemKept s) {at_ double} : MemNext s₀ (execSoftError at_ double s) := by
  unfold execSoftError
  dsimp only
  split
  · exact h.next
  · split
    · split
      · exact h.poisonAt.modDie.next
      · exact h.same.poisonAt.modDie.next
    · exact h.modDie.next

theorem State.MemKept.next_execFrameSecondMapping (h : s₀.MemKept s) {die frame sid va} : MemNext s₀
    (execFrameSecondMapping die frame sid va s) := by
  unfold execFrameSecondMapping
  dsimp only
  split
  · exact h.next
  · exact MemNext.ite h.next h.same.next

end

end Sys2Proof.Machine
end

section
/-! PROOFS. Memories stay in canonical form: the issue of an instruction (Sys2Proof/Machine/Issue.lean). -/

set_option Elab.async false

namespace Sys2Proof.Machine

section
variable {s₀ s t : State} {c : Ctx}

theorem State.MemKept.next_execMigrationReturn (h : s₀.MemKept s) {ctx} : MemNext s₀ (execMigrationReturn ctx s) := by
  unfold execMigrationReturn
  split
  · exact h.next
  · exact MemNext.ite h.comeHome.next h.next

theorem State.MemKept.chargeIssue (h : s₀.MemKept s) {x} : s₀.MemKept (s.chargeIssue x) := by
  unfold State.chargeIssue
  exact h.chargeRolled.modCtx

theorem State.MemKept.noteIssue (h : s₀.MemKept s) {x} : s₀.MemKept (s.noteIssue x) := h.noteTurn.ite h.noteTurn.modCell

theorem State.MemKept.issueWord (h : s₀.MemKept s) {x w} : s₀.MemKept (s.issueWord x w) := h.chargeIssue.noteIssue.modCtx

theorem State.MemKept.next_execIllegalInstructionWord (h : s₀.MemKept s) {w} : MemNext s₀ (execIllegalInstructionWord w s) := by
  unfold execIllegalInstructionWord
  split
  · rename_i e _
    have h1 := Ends.of_ok e h.fetchWord
    exact MemNext.ite h1.issueWord.trap.next h.next
  · exact h.next

theorem State.MemKept.next_execInstructionFetchFault (h : s₀.MemKept s) {code} : MemNext s₀ (execInstructionFetchFault code s) := by
  unfold execInstructionFetchFault
  split
  · exact MemNext.ite h.issueWord.trap.next h.next
  · exact h.next

theorem State.MemKept.withCur (h : s₀.MemKept s) {x} : s₀.MemKept ({ s with cur := x } : State) := h.same

theorem State.MemKept.freshIssue (h : s₀.MemKept s) {x} : s₀.MemKept (s.freshIssue x).1 := by
  unfold State.freshIssue
  dsimp only
  split
  · exact h.withCur
  · rename_i e
    have h1 := Ends.of_ok e h.withCur.fetchWord
    split
    · exact h.withCur
    · split
      · exact h1.issueWord
      · exact h1.issueWord

theorem State.MemKept.poisonImage (h : s₀.MemKept s) {x} : s₀.MemKept (s.poisonImage x) := by
  unfold State.poisonImage
  dsimp only
  exact (h.same.wordAt.modCtx).noteIssue.trapAlone

theorem State.MemKept.issueOf (h : s₀.MemKept s) {x} : s₀.MemKept (s.issueOf x).1 := by
  unfold State.issueOf
  dsimp only
  split
  · split <;> exact h.same.noteIssue.ite h.same
  · split
    · exact h.same
    · exact h.freshIssue

theorem State.MemKept.passCycle (h : s₀.MemKept s) : s₀.MemKept s.passCycle :=
  (h.foldl (fun _ _ h1 => h1.modDie) _).endJobs.foldl (fun _ _ h1 => h1.endSwitch) _

end

end Sys2Proof.Machine
end

section
/-! PROOFS. Memories stay in canonical form: every meaning, every step of a unit and every move. -/

set_option Elab.async false

namespace Sys2Proof.Machine

section
variable {s₀ s t : State} {c : Ctx}

theorem State.MemKept.next_exec (h : s₀.MemKept s) (i : Instr) : MemNext s₀ (exec i s) := by
  cases i with
  | add => exact h.next_execAdd
  | sub => exact h.next_execSub
  | and => exact h.next_execAnd
  | or => exact h.next_execOr
  | xor => exact h.next_execXor
  | shl => exact h.next_execShl
  | shr => exact h.next_execShr
  | sra => exact h.next_execSra
  | slt => exact h.next_execSlt
  | sltu => exact h.next_execSltu
  | min => exact h.next_execMin
  | max => exact h.next_execMax
  | minu => exact h.next_execMinu
  | maxu => exact h.next_execMaxu
  | mul => exact h.next_execMul
  | mulh => exact h.next_execMulh
  | mulhu => exact h.next_execMulhu
  | div => exact h.next_execDiv
  | divu => exact h.next_execDivu
  | rem => exact h.next_execRem
  | remu => exact h.next_execRemu
  | clz => exact h.next_execClz
  | ctz => exact h.next_execCtz
  | popc => exact h.next_execPopc
  | bfx => exact h.next_execBfx
  | bfi => exact h.next_execBfi
  | sext => exact h.next_execSext
  | zext => exact h.next_execZext
  | addi => exact h.next_execAddi
  | andi => exact h.next_execAndi
  | ori => exact h.next_execOri
  | xori => exact h.next_execXori
  | slti => exact h.next_execSlti
  | shli => exact h.next_execShli
  | shri => exact h.next_execShri
  | srai => exact h.next_execSrai
  | lui => exact h.next_execLui
  | addpc => exact h.next_execAddpc
  | beq => exact h.next_execBeq
  | bne => exact h.next_execBne
  | blt => exact h.next_execBlt
  | bge => exact h.next_execBge
  | bltu => exact h.next_execBltu
  | bgeu => exact h.next_execBgeu
  | jal => exact h.next_execJal
  | jalr => exact h.next_execJalr
  | ldB => exact h.next_execLdB
  | ldH => exact h.next_execLdH
  | ldW => exact h.next_execLdW
  | ldD => exact h.next_execLdD
  | ldDTake => exact h.next_execLdDTake
  | ldBu => exact h.next_execLdBu
  | ldHu => exact h.next_execLdHu
  | ldWu => exact h.next_execLdWu
  | stB => exact h.next_execStB
  | stH => exact h.next_execStH
  | stW => exact h.next_execStW
  | stD => exact h.next_execStD
  | stDGive => exact h.next_execStDGive
  | ldvEq => exact h.next_execLdvEq
  | ldvLe => exact h.next_execLdvLe
  | stv => exact h.next_execStv
  | amoAdd => exact h.next_execAmoAdd
  | amoMin => exact h.next_execAmoMin
  | amoMax => exact h.next_execAmoMax
  | amoAnd => exact h.next_execAmoAnd
  | amoOr => exact h.next_execAmoOr
  | amoXor => exact h.next_execAmoXor
  | amoSwp => exact h.next_execAmoSwp
  | amoCas => exact h.next_execAmoCas
  | fenceCell => exact h.next_execFenceCell
  | fenceDom => exact h.next_execFenceDom
  | fenceDie => exact h.next_execFenceDie
  | fenceMod => exact h.next_execFenceMod
  | fenceSys => exact h.next_execFenceSys
  | fenceX => exact h.next_execFenceX
  | flagf => exact h.next_execFlagf
  | barArv => exact h.next_execBarArv
  | barWt => exact h.next_execBarWt
  | barAw => exact h.next_execBarAw
  | barExp => exact h.next_execBarExp
  | inv => exact h.next_execInv
  | wb => exact h.next_execWb
  | wbinv => exact h.next_execWbinv
  | pf => exact h.next_execPf
  | vadd => exact h.next_execVadd
  | vsub => exact h.next_execVsub
  | vmul => exact h.next_execVmul
  | vfma => exact h.next_execVfma
  | vmin => exact h.next_execVmin
  | vmax => exact h.next_execVmax
  | vand => exact h.next_execVand
  | vor => exact h.next_execVor
  | vxor => exact h.next_execVxor
  | vshl => exact h.next_execVshl
  | vshr => exact h.next_execVshr
  | vsra => exact h.next_execVsra
  | vcmp => exact h.next_execVcmp
  | vsel => exact h.next_execVsel
  | vabs => exact h.next_execVabs
  | vneg => exact h.next_execVneg
  | vcvt => exact h.next_execVcvt
  | vcvtRtz => exact h.next_execVcvtRtz
  | vrcp => exact h.next_execVrcp
  | vrsq => exact h.next_execVrsq
  | vexp => exact h.next_execVexp
  | vlog => exact h.next_execVlog
  | vbcast => exact h.next_execVbcast
  | vext => exact h.next_execVext
  | vins => exact h.next_execVins
  | vperm => exact h.next_execVperm
  | vred => exact h.next_execVred
  | vld => exact h.next_execVld
  | vst => exact h.next_execVst
  | vgth => exact h.next_execVgth
  | vsct => exact h.next_execVsct
  | pand => exact h.next_execPand
  | por => exact h.next_execPor
  | pxor => exact h.next_execPxor
  | pnot => exact h.next_execPnot
  | pset => exact h.next_execPset
  | psetX => exact h.next_execPsetX
  | pcnt => exact h.next_execPcnt
  | mma => exact h.next_execMma
  | mzero => exact h.next_execMzero
  | mldb => exact h.next_execMldb
  | mrot => exact h.next_execMrot
  | mlda => exact h.next_execMlda
  | msta => exact h.next_execMsta
  | mset => exact h.next_execMset
  | mget => exact h.next_execMget
  | qcvt => exact h.next_execQcvt
  | qchk => exact h.next_execQchk
  | qchkW => exact h.next_execQchkW
  | qstat => exact h.next_execQstat
  | cpy => exact h.next_execCpy
  | cpg => exact h.next_execCpg
  | cps => exact h.next_execCps
  | cpr => exact h.next_execCpr
  | cpq => exact h.next_execCpq
  | snd => exact h.next_execSnd
  | rcv => exact h.next_execRcv
  | wmsg => exact h.next_execWmsg
  | pkmsg => exact h.next_execPkmsg
  | lacqSp => exact h.next_execLacqSp
  | lacqAcc => exact h.next_execLacqAcc
  | lacqCls => exact h.next_execLacqCls
  | lacqL2 => exact h.next_execLacqL2
  | lacqPage => exact h.next_execLacqPage
  | lacqPath => exact h.next_execLacqPath
  | lacqGrp => exact h.next_execLacqGrp
  | renew => exact h.next_execRenew
  | life => exact h.next_execLife
  | llk => exact h.next_execLlk
  | lgen => exact h.next_execLgen
  | lpar => exact h.next_execLpar
  | optOn => exact h.next_execOptOn
  | optOff => exact h.next_execOptOff
  | ckpt => exact h.next_execCkpt
  | rbret => exact h.next_execRbret
  | capld => exact h.next_execCapld
  | capst => exact h.next_execCapst
  | capnar => exact h.next_execCapnar
  | capsetCur => exact h.next_execCapsetCur
  | capsetPerm => exact h.next_execCapsetPerm
  | capsetMint => exact h.next_execCapsetMint
  | capget => exact h.next_execCapget
  | go => exact h.next_execGo
  | home => exact h.next_execHome
  | rld => exact h.next_execRld
  | rst => exact h.next_execRst
  | ramoAdd => exact h.next_execRamoAdd
  | ramoMin => exact h.next_execRamoMin
  | ramoMax => exact h.next_execRamoMax
  | ramoAnd => exact h.next_execRamoAnd
  | ramoOr => exact h.next_execRamoOr
  | ramoXor => exact h.next_execRamoXor
  | ramoSwp => exact h.next_execRamoSwp
  | ramoCas => exact h.next_execRamoCas
  | csrr => exact h.next_execCsrr
  | csrw => exact h.next_execCsrw
  | csrs => exact h.next_execCsrs
  | csrc => exact h.next_execCsrc
  | trap => exact h.next_execTrap
  | eret => exact h.next_execEret
  | halt => exact h.next_execHalt
  | yield => exact h.next_execYield
  | idle => exact h.next_execIdle
  | spawn => exact h.next_execSpawn
  | brk n => exact h.next_execBrk (n := n)
  | budx => exact h.next_execBudx
  | bget => exact h.next_execBget
  | rotationChangeWrite => exact h.next_execRotationChangeWrite
  | rotationBoundary => exact h.next_execRotationBoundary
  | splitChangeWrite => exact h.next_execSplitChangeWrite
  | splitChangeDone => exact h.next_execSplitChangeDone
  | sprfClear => exact h.next_execSprfClear
  | registerWrite => exact h.next_execRegisterWrite
  | homeTickStep => exact h.next_execHomeTickStep
  | leaseExpiry => exact h.next_execLeaseExpiry
  | lapseNotice => exact h.next_execLapseNotice
  | leaseRequestArrival => exact h.next_execLeaseRequestArrival
  | grantReplyDelivery => exact h.next_execGrantReplyDelivery
  | llkTimeout => exact h.next_execLlkTimeout
  | lockDrain => exact h.next_execLockDrain
  | lockGrant => exact h.next_execLockGrant
  | guardNotice => exact h.next_execGuardNotice
  | lapsingEnd => exact h.next_execLapsingEnd
  | scrubJobComplete => exact h.next_execScrubJobComplete
  | cacheSweep => exact h.next_execCacheSweep
  | homeAccessArrival => exact h.next_execHomeAccessArrival
  | accessReply => exact h.next_execAccessReply
  | postedAck => exact h.next_execPostedAck
  | postedRefusalReport => exact h.next_execPostedRefusalReport
  | feBackoffRetry => exact h.next_execFeBackoffRetry
  | parkedWake => exact h.next_execParkedWake
  | idleWake => exact h.next_execIdleWake
  | barrierArrival => exact h.next_execBarrierArrival
  | barrierDeclaration => exact h.next_execBarrierDeclaration
  | barrierByteReport => exact h.next_execBarrierByteReport
  | l1ReadLeaseEnd => exact h.next_execL1ReadLeaseEnd
  | dirtyLineTimeout => exact h.next_execDirtyLineTimeout
  | l1Eviction => exact h.next_execL1Eviction
  | l1Writeback => exact h.next_execL1Writeback
  | l2Eviction => exact h.next_execL2Eviction
  | l2Fill => exact h.next_execL2Fill
  | dramWriteback => exact h.next_execDramWriteback
  | stagehandTakeRequest => exact h.next_execStagehandTakeRequest
  | copyStep => exact h.next_execCopyStep
  | copyStepLanded => exact h.next_execCopyStepLanded
  | copyStepRefusal => exact h.next_execCopyStepRefusal
  | copyPassEnd => exact h.next_execCopyPassEnd
  | copyReplayTimer => exact h.next_execCopyReplayTimer
  | copyRetire => exact h.next_execCopyRetire
  | cprChunkRead => exact h.next_execCprChunkRead
  | cprElementAck => exact h.next_execCprElementAck
  | engineOpStart => exact h.next_execEngineOpStart
  | engineOpRetire => exact h.next_execEngineOpRetire
  | matrixCommand => exact h.next_execMatrixCommand
  | mrotSendBegin => exact h.next_execMrotSendBegin
  | latchTransferEnd => exact h.next_execLatchTransferEnd
  | latchSwap => exact h.next_execLatchSwap
  | messageArrival => exact h.next_execMessageArrival
  | antiMessageArrival => exact h.next_execAntiMessageArrival
  | fabricHeldMessageAccept => exact h.next_execFabricHeldMessageAccept
  | rollbackSequence => exact h.next_execRollbackSequence
  | rollbackRequeueResume => exact h.next_execRollbackRequeueResume
  | gvtRoundStart => exact h.next_execGvtRoundStart
  | gvtCut => exact h.next_execGvtCut
  | gvtReport => exact h.next_execGvtReport
  | gvtReportResult => exact h.next_execGvtReportResult
  | gvtReportRetry => exact h.next_execGvtReportRetry
  | gvtPublication => exact h.next_execGvtPublication
  | deferredEntryPerform => exact h.next_execDeferredEntryPerform
  | groupLapseTrap => exact h.next_execGroupLapseTrap
  | budgetTrap => exact h.next_execBudgetTrap
  | chargeBatchSend => exact h.next_execChargeBatchSend
  | chargeApply => exact h.next_execChargeApply
  | graceCountExhausted => exact h.next_execGraceCountExhausted
  | budRefresh => exact h.next_execBudRefresh
  | budxRequest => exact h.next_execBudxRequest
  | bgetRequest => exact h.next_execBgetRequest
  | qtailWrite => exact h.next_execQtailWrite
  | qbaseWrite => exact h.next_execQbaseWrite
  | queueEntryTest => exact h.next_execQueueEntryTest
  | slotAssignment => exact h.next_execSlotAssignment
  | cellPlacement => exact h.next_execCellPlacement
  | preemptionRequest => exact h.next_execPreemptionRequest
  | vacatePoint => exact h.next_execVacatePoint
  | contextRestore => exact h.next_execContextRestore
  | savedContextEvent => exact h.next_execSavedContextEvent
  | sabaseWrite => exact h.next_execSabaseWrite
  | faultReport => exact h.next_execFaultReport
  | fqbaseWrite => exact h.next_execFqbaseWrite
  | fqlostRead => exact h.next_execFqlostRead
  | statisticsBlockRead part n =>
    rw [exec_statisticsBlockRead]
    generalize e : Machine.execStatisticsBlockRead part n s = o
    cases o with
    | next t => exact h.execStatisticsBlockRead e
    | fault _ => trivial
    | refused _ => trivial
  | errcntRead => exact h.next_execErrcntRead
  | pmoveWrite => exact h.next_execPmoveWrite
  | quiescePoint => exact h.next_execQuiescePoint
  | fabricRequestAtSwitch => exact h.next_execFabricRequestAtSwitch
  | combinedReplySplit => exact h.next_execCombinedReplySplit
  | remoteUpdateThread => exact h.next_execRemoteUpdateThread
  | migrationReturn => exact h.next_execMigrationReturn
  | deliveryFrameArrival => exact h.next_execDeliveryFrameArrival
  | deliveryReplyArrival => exact h.next_execDeliveryReplyArrival
  | retransmitTimer => exact h.next_execRetransmitTimer
  | retransmitExhausted => exact h.next_execRetransmitExhausted
  | deliveryContextQuiet => exact h.next_execDeliveryContextQuiet
  | ptcmdRoot => exact h.next_execPtcmdRoot
  | ptcmdRing => exact h.next_execPtcmdRing
  | ptcmdSlice => exact h.next_execPtcmdSlice
  | ptcmdChannelGroup => exact h.next_execPtcmdChannelGroup
  | ptcmdShare => exact h.next_execPtcmdShare
  | ptcmdKeySlot => exact h.next_execPtcmdKeySlot
  | ptcmdReservedOp => exact h.next_execPtcmdReservedOp
  | ptcmdApplied => exact h.next_execPtcmdApplied
  | mqpolWrite => exact h.next_execMqpolWrite
  | debugResume => exact h.next_execDebugResume
  | debugCommandIgnored => exact h.next_execDebugCommandIgnored
  | retireDramRow => exact h.next_execRetireDramRow
  | retireRing => exact h.next_execRetireRing
  | retirementDone => exact h.next_execRetirementDone
  | functionLevelReset => exact h.next_execFunctionLevelReset
  | flrHoldEnd => exact h.next_execFlrHoldEnd
  | moduleReset => exact h.next_execModuleReset
  | powerOn => exact h.next_execPowerOn
  | imageCheck => exact h.next_execImageCheck
  | dramCalibration => exact h.next_execDramCalibration
  | dieLinkTraining => exact h.next_execDieLinkTraining
  | pcieTraining => exact h.next_execPcieTraining
  | cxlNegotiation => exact h.next_execCxlNegotiation
  | ethernetAutoneg => exact h.next_execEthernetAutoneg
  | hostConfigRequest => exact h.next_execHostConfigRequest
  | hostMemoryAccess => exact h.next_execHostMemoryAccess
  | smbusReadBstat => exact h.next_execSmbusReadBstat
  | smbusReadResetCount => exact h.next_execSmbusReadResetCount
  | smbusOtherCommand => exact h.next_execSmbusOtherCommand
  | attestationRequest => exact h.next_execAttestationRequest
  | illegalInstructionWord => exact h.next_execIllegalInstructionWord
  | instructionFetchFault => exact h.next_execInstructionFetchFault
  | llkRequestArrival => exact h.next_execLlkRequestArrival
  | leaseReplyArrival => exact h.next_execLeaseReplyArrival
  | budgetReplyArrival => exact h.next_execBudgetReplyArrival
  | softError => exact h.next_execSoftError
  | powerLoss => exact h.next_execPowerLoss
  | portLinkDown => exact h.next_execPortLinkDown
  | portLinkUp => exact h.next_execPortLinkUp
  | frameSecondMapping => exact h.next_execFrameSecondMapping

/-! ## The steps of the units -/

/-- The event keeps the memories of `s₀`. -/
def MemEvent (s₀ : State) (f : Event) : Prop := ∀ s, s₀.MemKept s → MemNext s₀ (f s)

/-- Every event of the list keeps the memories of `s₀`. -/
def MemEvents (s₀ : State) (l : List Event) : Prop := ∀ f ∈ l, MemEvent s₀ f

theorem MemEvents.nil : MemEvents s₀ [] := fun _ h => nomatch h

theorem MemEvents.cons {f : Event} {l : List Event} (h : MemEvent s₀ f) (hl : MemEvents s₀ l) : MemEvents s₀ (f :: l) := by
  intro g hg
  rcases List.mem_cons.1 hg with rfl | hg
  · exact h
  · exact hl g hg

theorem MemEvents.one {f : Event} (h : MemEvent s₀ f) : MemEvents s₀ [f] := .cons h .nil

theorem MemEvents.append {l m : List Event} (hl : MemEvents s₀ l) (hm : MemEvents s₀ m) : MemEvents s₀ (l ++ m) :=
  fun f hf => (List.mem_append.1 hf).elim (hl f) (hm f)

theorem MemEvents.flatMap {α : Type} {l : List α} {f : α → List Event} (hf : ∀ x, MemEvents s₀ (f x)) : MemEvents s₀ (l.flatMap f) := by
  intro g hg
  obtain ⟨x, _, hx⟩ := List.mem_flatMap.1 hg
  exact hf x g hx

theorem MemEvents.map {α : Type} {l : List α} {f : α → Event} (hf : ∀ x, MemEvent s₀ (f x)) : MemEvents s₀ (l.map f) := by
  intro g hg
  obtain ⟨x, _, rfl⟩ := List.mem_map.1 hg
  exact hf x

theorem MemEvents.filterMap {α : Type} {l : List α} {f : α → Option Event} (hf : ∀ x g, f x = some g → MemEvent s₀ g) :
    MemEvents s₀ (l.filterMap f) := by
  intro g hg
  obtain ⟨x, _, hx⟩ := List.mem_filterMap.1 hg
  exact hf x g hx

theorem MemEvents.ite {p : Prop} [Decidable p] {l m : List Event} (hl : MemEvents s₀ l) (hm : MemEvents s₀ m) : MemEvents s₀ (if p then l else m) :=
    by
  split
  · exact hl
  · exact hm

/-- An event that a condition adds. -/
theorem MemEvent.of_ite {p : Prop} [Decidable p] {f g : Event} (hf : MemEvent s₀ f) (e : (if p then some f else none) = some g) : MemEvent s₀ g
    := by
  split at e
  · cases e; exact hf
  · cases e

theorem MemEvent.of_ite_not {p : Prop} [Decidable p] {f g : Event} (hf : MemEvent s₀ f) (e : (if p then none else some f) = some g) :
    MemEvent s₀ g := by
  split at e
  · cases e
  · cases e; exact hf

theorem memEvents_packetEvents : MemEvents s₀ s.packetEvents := by
  refine .flatMap fun p => ?_
  dsimp only
  split
  · exact .cons (fun _ h => h.next_execFabricRequestAtSwitch) <| .cons (fun _ h => h.next_execHomeAccessArrival) <|
      .cons (fun _ h => h.next_execBarrierArrival) <| .cons (fun _ h => h.next_execBarrierDeclaration) <|
      .one fun _ h => h.next_execBarrierByteReport
  · exact .one fun _ h => h.next_execRemoteUpdateThread
  · exact .nil
  · exact .ite (.cons (fun _ h => h.next_execPostedAck) <| .one fun _ h => h.next_execAccessReply)
      (.one fun _ h => h.next_execCombinedReplySplit)
  · exact .ite (.cons (fun _ h => h.next_execPostedRefusalReport) <| .one fun _ h => h.next_execAccessReply)
      (.one fun _ h => h.next_execCombinedReplySplit)
  · exact .one fun _ h => h.next_execPostedRefusalReport

theorem memEvents_requestEvents : MemEvents s₀ s.requestEvents :=
  .append (.append (.append
    (.flatMap fun _ => .cons (fun _ h => h.next_execLeaseRequestArrival) <| .cons (fun _ h => h.next_execLlkRequestArrival) <|
      .cons (fun _ h => h.next_execGrantReplyDelivery) <| .one fun _ h => h.next_execLeaseReplyArrival)
    (.flatMap fun _ => .cons (fun _ h => h.next_execBudxRequest) <| .cons (fun _ h => h.next_execBgetRequest) <|
      .one fun _ h => h.next_execBudgetReplyArrival))
    (.flatMap fun _ => .cons (fun _ h => h.next_execLapseNotice) <| .one fun _ h => h.next_execGuardNotice))
    (.map fun _ _ h => h.next_execFaultReport)

theorem memEvents_tickEvents : MemEvents s₀ tickEvents := .map fun _ _ h => h.next_execHomeTickStep

theorem memEvents_leaseEvents : MemEvents s₀ s.leaseEvents :=
  .flatMap fun _ => .ite (.one fun _ h => h.next_execLapsingEnd)
    (.ite (.cons (fun _ h => h.next_execLockDrain) <| .one fun _ h => h.next_execLockGrant) .nil)

theorem memEvents_messageEvents : MemEvents s₀ s.messageEvents :=
  .flatMap fun _ => .ite (.cons (fun _ h => h.next_execFabricHeldMessageAccept) <| .one fun _ h => h.next_execMatrixCommand)
    (.cons (fun _ h => h.next_execMessageArrival) <| .cons (fun _ h => h.next_execAntiMessageArrival) <|
      .one fun _ h => h.next_execMatrixCommand)

theorem memEvents_cellEvents : MemEvents s₀ s.cellEvents :=
  .flatMap fun _ => .append (.append (.append
    (.cons (fun _ h => h.next_execEngineOpRetire) <| .cons (fun _ h => h.next_execEngineOpRetire) <|
      .cons (fun _ h => h.next_execLatchTransferEnd) <| .cons (fun _ h => h.next_execLatchSwap) <|
      .cons (fun _ h => h.next_execMrotSendBegin) <| .cons (fun _ h => h.next_execEngineOpStart) <|
      .cons (fun _ h => h.next_execEngineOpStart) <| .cons (fun _ h => h.next_execStagehandTakeRequest) <|
      .cons (fun _ h => h.next_execRotationBoundary) <| .one fun _ h => h.next_execSplitChangeDone)
    (.flatMap fun _ => .append (.append (.append
      (.map fun _ _ h => h.next_execCopyStepLanded)
      (.map fun _ _ h => h.next_execCopyStepLanded))
      (.flatMap fun _ => .ite (.map fun _ _ h => h.next_execCprElementAck) .nil))
      (.cons (fun _ h => h.next_execCopyPassEnd) <| .cons (fun _ h => h.next_execCopyReplayTimer) <|
        .cons (fun _ h => h.next_execCprChunkRead) <| .one fun _ h => h.next_execCopyRetire)))
    (.flatMap fun _ => .cons (fun _ h => h.next_execL1ReadLeaseEnd) <| .one fun _ h => h.next_execDirtyLineTimeout))
    (.map fun _ _ h => h.next_execChargeBatchSend)

theorem memEvents_prompterEvents : MemEvents s₀ s.prompterEvents :=
  .append (.append (.append (.append (.append
    (.filterMap fun _ _ => MemEvent.of_ite_not fun _ h => h.next_execChargeApply)
    (.flatMap fun _ => .ite .nil (.one fun _ h => h.next_execGraceCountExhausted)))
    (.map fun _ _ h => h.next_execBudRefresh))
    (.flatMap fun _ => .append (.filterMap fun _ _ => MemEvent.of_ite_not fun _ h => h.next_execQueueEntryTest)
      (.cons (fun _ h => h.next_execQuiescePoint) <| .one fun _ h => h.next_execFlrHoldEnd)))
    (.filterMap fun _ _ => MemEvent.of_ite fun _ h => h.next_execVacatePoint))
    (.map fun _ _ h => h.next_execSlotAssignment)

theorem memEvents_groupEvents : MemEvents s₀ s.groupEvents :=
  .append
    (.flatMap fun _ => .append (.append
      (.cons (fun _ h => h.next_execGvtRoundStart) <| .cons (fun _ h => h.next_execGvtReportResult) <|
        .one fun _ h => h.next_execGvtReportRetry)
      (.map fun _ _ h => h.next_execGvtCut))
      (.flatMap fun _ => .ite (.cons (fun _ h => h.next_execGvtReport) <| .cons (fun _ h => h.next_execGvtPublication) <|
        .one fun _ h => h.next_execDeferredEntryPerform) .nil))
    (.filterMap fun _ _ => MemEvent.of_ite fun _ h => h.next_execRollbackRequeueResume)

theorem memEvents_portEvents : MemEvents s₀ s.portEvents :=
  .append
    (.flatMap fun _ => .append
      (.flatMap fun _ => .ite (.cons (fun _ h => h.next_execRetransmitTimer) <| .one fun _ h => h.next_execRetransmitExhausted) .nil)
      (.cons (fun _ h => h.endGoesOn) <| .one fun _ h => h.next_execDeliveryContextQuiet))
    (.flatMap fun _ => .cons (fun _ h => h.next_execPtcmdApplied) <| .one fun _ h => h.next_execRetirementDone)

theorem memEvents_wakeEvents : MemEvents s₀ s.wakeEvents := by
  refine .flatMap fun _ => .ite ?_ .nil
  split
  · exact .one fun _ h => h.next_execParkedWake
  · exact .one fun _ h => h.next_execParkedWake
  · exact .one fun _ h => h.next_execParkedWake
  · exact .one fun _ h => h.next_execFeBackoffRetry
  · exact .one fun _ h => h.next_execIdleWake
  · exact .nil

theorem memEvents_jobEvents : MemEvents s₀ s.jobEvents := by
  refine .flatMap fun _ => ?_
  split
  · exact .cons (fun _ h => h.next_execScrubJobComplete) <| .one fun _ h => h.next_execCacheSweep
  · exact .one fun _ h => h.next_execScrubJobComplete

theorem memEvents_events : MemEvents s₀ s.events :=
  .append (.append (.append (.append (.append (.append (.append (.append (.append memEvents_jobEvents memEvents_requestEvents)
    memEvents_packetEvents) memEvents_messageEvents) memEvents_cellEvents) memEvents_leaseEvents) memEvents_prompterEvents)
    memEvents_groupEvents) memEvents_portEvents) memEvents_wakeEvents

/-! ## A move -/

/-- What the first event that changes anything leaves. -/
theorem State.MemKept.findMoved (h : s₀.MemKept s) {l : List Event} (hl : MemEvents s₀ l) (e : l.findSome? (moved s) = some t) : s₀.MemKept t :=
    by
  obtain ⟨f, hf, e⟩ := List.exists_of_findSome?_eq_some e
  have h1 := hl f hf s h
  unfold moved at e
  split at e
  · rename_i e1
    rw [e1] at h1
    split at e
    · cases e
    · cases e; exact h1
  · cases e

theorem State.MemKept.runInstr (h : s₀.MemKept s) {x i} : MemNext s₀ (s.runInstr x i) := MemNext.ite h.trapAlone.next (h.next_exec i)

theorem State.MemKept.doIssue (h : s₀.MemKept s) {x} : MemNext s₀ (s.doIssue x) := by
  unfold State.doIssue
  refine MemNext.ite h ?_
  have h1 := h.issueOf (x := x)
  split
  all_goals (rename_i e; replace h1 := h1.fst e)
  · exact h1.runInstr
  · exact h1.next_execRollbackSequence
  · exact h1.next_execGroupLapseTrap
  · exact h1.poisonImage.next
  · exact h1.next_execBudgetTrap
  · exact h1.next_execInstructionFetchFault
  · exact h1.next_execIllegalInstructionWord
  · exact h1.next_execMigrationReturn

theorem State.MemKept.ownMove (h : s₀.MemKept s) : MemNext s₀ s.ownMove := by
  unfold State.ownMove
  split
  · exact h.findMoved memEvents_events ‹_›
  split
  · exact h.doIssue
  split
  · exact h.doIssue
  · exact h.next_execCopyStep
  split
  · exact h.doIssue
  split
  · exact h.findMoved memEvents_tickEvents ‹_›
  · exact h.passCycle.next

theorem State.MemKept.runEvent (h : s₀.MemKept s) {i} : MemNext s₀ (s.runEvent i) := by
  unfold State.runEvent
  split
  · exact h.next_exec i
  · trivial

theorem State.MemKept.step (h : s₀.MemKept s) : MemNext s₀ (step s) := by
  unfold Machine.step State.move
  split
  · exact State.MemKept.runEvent h.same
  · split
    · exact State.MemKept.doIssue h.same
    · trivial
  · split
    · exact h.ownMove
    · trivial

end

/-- Settles O58: every rule of the state keeps the memories canonical and the flash and fuses as they are, and so does every meaning,
every step of a unit, and one move. -/
theorem stepKeepsMemoryCanonical : Obligations.StepKeepsMemoryCanonical := by
  intro s t hs
  have h := (State.MemKept.refl s).step
  rw [hs] at h
  exact ⟨h.fixed, h.memWf⟩

end Sys2Proof.Machine
end

section
/-! PROOFS. The marks of a written bank, and the stores to the scratchpad (05 R93, R97, R127; 06 R147; 20 R361). -/

set_option Elab.async false

namespace Sys2Proof.Machine

/-! ## The marks of a written bank (05 R97, R127) -/

section
variable {b : Bank} {a q : Nat} {bs : List Byte}

theorem contains_nins (t : NSet) (k d : Nat) : (nins t k).contains d = (t.contains d || d == k) := by
  induction t with
  | nil => rw [nins, List.contains_cons, Bool.or_comm]
  | cons j t ih =>
    unfold nins
    split
    · rw [List.contains_cons, List.contains_cons, Bool.or_comm]
    · split
      · next e =>
        rw [List.contains_cons, e]
        cases d == j <;> simp
      · rw [List.contains_cons, List.contains_cons, ih, Bool.or_assoc]

theorem contains_foldl_nins (l : List Nat) (t : NSet) (d : Nat) : (l.foldl nins t).contains d = (t.contains d || l.contains d) := by
  induction l generalizing t with
  | nil => simp
  | cons e l ih => rw [List.foldl_cons, ih, contains_nins, List.contains_cons, Bool.or_assoc]

theorem contains_unitsOf {g n : Nat} (hn : 0 < n) : (unitsOf g a n).contains q = decide (a / g ≤ q ∧ q ≤ (a + n - 1) / g) := by
  rw [Bool.eq_iff_iff, List.contains_iff_mem, mem_unitsOf hn, decide_eq_true_iff]

theorem Bank.full_write (hn : 0 < bs.length) : (b.write a bs).full.contains q =
    (b.full.contains q || decide (a / 8 ≤ q ∧ q ≤ (a + bs.length - 1) / 8)) := by
  rw [← contains_unitsOf hn]
  exact contains_foldl_nins _ _ _

theorem Bank.tags_write (h : b.wf = true) (hn : 0 < bs.length) : (b.write a bs).tags.contains q =
    (b.tags.contains q && decide (q < a / 16 ∨ (a + bs.length - 1) / 16 < q)) := by
  have gone : (b.write a bs).tags.contains q = (b.tags.contains q && !(true && (unitsOf 16 a bs.length).contains q)) :=
    contains_foldl_ndel (w := fun _ => true) _ _ ((Bank.wf_iff b).1 h).2.2.1 q
  rw [gone, contains_unitsOf hn, Bool.true_and, ← decide_not]
  congr 2
  exact propext (by omega)

theorem Bank.poison_write_whole (h : b.wf = true) : (b.write a bs).poison.contains q =
    (b.poison.contains q && !decide (a ≤ 8 * q ∧ 8 * q + 8 ≤ a + bs.length)) := by
  by_cases whole : a ≤ 8 * q ∧ 8 * q + 8 ≤ a + bs.length
  · rw [Bank.good_write h whole.1 whole.2, decide_eq_true whole]
    simp
  · rw [Bank.poison_write_outside h (by omega), decide_eq_false whole]
    simp

theorem getD_leBytes {v n k : Nat} (h : k < n) : (leBytes v n).getD k 0 = BitVec.ofNat 8 (v / 256 ^ k) := by
  rw [leBytes_eq_map, List.getD_eq_getElem _ _ (by simpa using h), List.getElem_map, List.getElem_range]

/-- A byte of a bank after a store of the low bytes of a value. -/
theorem Bank.mget_write_leBytes {v n k : Nat} (h : b.wf = true) : mget (b.write a (leBytes v n)).bytes k =
    if a ≤ k ∧ k < a + n then BitVec.ofNat 8 (v / 256 ^ (k - a)) else mget b.bytes k := by
  rw [Bank.mget_write h, leBytes_length]
  split
  · exact getD_leBytes (by omega)
  · rfl

end

/-! ## Stores to the scratchpad (05 R93) -/

/-- The scratchpad of the acting context's cell takes bytes at an offset. -/
def State.spadStored (s : State) (off : Nat) (bs : List Byte) : State :=
  s.modCell s.self.cell fun c => { c with spad := c.spad.write off bs }

/-- The scratchpad `b'` is `b` after a store of the low `n` bytes of `v`: bytes, full bits, tags and poison marks. -/
def Bank.TookBytes (b b' : Bank) (off n v : Nat) : Prop :=
  (∀ k, mget b'.bytes k = if off ≤ k ∧ k < off + n then BitVec.ofNat 8 (v / 256 ^ (k - off)) else mget b.bytes k) ∧
  (∀ q, b'.full.contains q = (b.full.contains q || decide (off / 8 ≤ q ∧ q ≤ (off + n - 1) / 8))) ∧
  (∀ q, b'.tags.contains q = (b.tags.contains q && decide (q < off / 16 ∨ (off + n - 1) / 16 < q))) ∧
  ∀ q, b'.poison.contains q = (b.poison.contains q && !decide (off ≤ 8 * q ∧ 8 * q + 8 ≤ off + n))

theorem Bank.tookBytes_write {b : Bank} {off n v : Nat} (h : b.wf = true) (hn : 0 < n) : b.TookBytes (b.write off (leBytes v n)) off n v := by
  have len : (leBytes v n).length = n := leBytes_length v n
  refine ⟨fun k => Bank.mget_write_leBytes h, fun q => ?_, fun q => ?_, fun q => ?_⟩
  · rw [Bank.full_write (by omega), len]
  · rw [Bank.tags_write h (by omega), len]
  · rw [Bank.poison_write_whole h, len]

section
variable {s u : State} {ea : Word} {n off v : Nat} {o w : BitVec 2} {i : BitVec 12}

theorem State.writeBytes_view0 (he : ea.toNat = 0x0100_0000 + off) (ho : off < 0x10_0000) (bs : List Byte) :
    s.writeBytes ea bs o = .ok (s.spadStored off bs) := by
  have place : region ea = .view 0 off := region_view (v := 0) (by omega) (by decide) ho
  unfold State.writeBytes
  simp only [place]
  rfl

theorem State.wf_spad (hm : s.memWf = true) (n : Nat) : (s.cell n).spad.wf = true := ((Cell.wf_iff _).1 (State.cell_wf hm n)).1

/-- A store to view 0 that completes once its bytes are written. -/
theorem stores_view0 {ins : Instr} (hm : s.memWf = true) (hn : 0 < n)
    (hx : exec ins s = .next ((s.spadStored off (leBytes v n)).stored ea o).finish) :
    ∃ t, exec ins s = .next t ∧ Stored s t o ∧ t.dies = s.dies ∧
      (∀ m, t.cell m = if m = s.self.cell then { s.cell m with spad := (t.cell m).spad } else s.cell m) ∧
      (s.cell s.self.cell).spad.TookBytes (t.cell s.self.cell).spad off n v := by
  have done := State.stored_finish (s := s) (u := s.spadStored off (leBytes v n)) rfl rfl ea o
  have cell (m : Nat) : ((s.spadStored off (leBytes v n)).stored ea o).finish.cell m =
      if m = s.self.cell then { s.cell m with spad := (s.cell m).spad.write off (leBytes v n) } else s.cell m := by
    rw [State.cell, State.stored_cells]
    refine (State.cell_modCell s _ m _).trans ?_
    split
    · next e => rw [e]
    · rfl
  have dies : ((s.spadStored off (leBytes v n)).stored ea o).finish.dies = s.dies := by
    unfold State.stored
    split <;> rfl
  refine ⟨_, hx, done, dies, fun m => ?_, ?_⟩
  · rw [cell]
    split <;> rfl
  · rw [cell, if_pos rfl]
    exact Bank.tookBytes_write (State.wf_spad hm _) hn

theorem exec_vst_of_open {x : BitVec 4} {a : BitVec 5} (ho : o ≠ 3) (h : s.Open (effAddr (s.rx a) i 64) 64 true o w)
    (hb : s.writeBytes (effAddr (s.rx a) i 64) (leBytes (s.rv x).toNat 64) o = .ok u) :
    exec (.vst x a o w i) s = .next (u.stored (effAddr (s.rx a) i 64) o).finish := by
  show execVst x a o w i s = _
  rw [execVst, State.store_of_open ho (by rwa [leBytes_length]) hb]
  rfl

end

/-- Settles O21: each store writes the low bytes of its register to the scratchpad at once, and the marks of a written bank are as
`Bank.tookBytes_write` says. -/
theorem storesToTheScratchpad : Obligations.StoresToTheScratchpad := by
  intro x a vs o w i off s hw ho
  refine ⟨fun he free hm => ?_, fun he free hm => ?_, fun he free hm => ?_, fun he free hm => ?_, fun he free hm => ?_⟩
  · exact stores_view0 hm (by decide) (State.storeX_of_open hw free (State.writeBytes_view0 he ho _))
  · exact stores_view0 hm (by decide) (State.storeX_of_open hw free (State.writeBytes_view0 he ho _))
  · exact stores_view0 hm (by decide) (State.storeX_of_open hw free (State.writeBytes_view0 he ho _))
  · exact stores_view0 hm (by decide) (State.storeX_of_open hw free (State.writeBytes_view0 he ho _))
  · exact stores_view0 hm (by decide) (exec_vst_of_open hw free (State.writeBytes_view0 he ho _))

end Sys2Proof.Machine
end

section
/-! PROOFS. A load of a migrated thread whose cell holds the line twice in its L1 (05 R95, R131; 10 R212; 11 R234). -/

set_option Elab.async false

namespace Sys2Proof.Machine

/-- A thread at a pantry core, and in its cell's L1 two lines of one address: a clean one of zeros, and a dirty one whose first byte
is 7. -/
def lineTwice : State :=
  { State.reset with
    ctxs := [(0, { place := .pantry 0, x := [(1, 0x1_0000_0000)], acqMark := 1 })]
    pages := [{ va := 0x1_0000_0000 }]
    cells := [(0, { l1 := [(0, { va := 0x1_0000_0000, valid := BitVec.allOnes 128, leaseEnd := 1 }),
      (1, { va := 0x1_0000_0000, valid := 1, dirty := 1, leaseEnd := 1, data := { bytes := [(0, 7)] } })] })] }

theorem lineTwice_open : lineTwice.Open 0x1_0000_0000 1 false 0 0 :=
  ⟨by decide, fun _ => by decide, fun _ id k h => by cases h; decide, .inl rfl, rfl, rfl, fun h => by simp at h, fun h => nomatch h⟩

theorem lineTwice_takes : lineTwice.HomeTakes 0 0x1_0000_0000 := ⟨_, rfl, (by decide : 0 + 0 + 2 ≤ sliceLines)⟩

/-- Refutes O20: the load of a migrated thread drops the first line alone. The second is dirty, so the thread's next load takes its
byte to the home and sees 7 where it saw 0, and the statement says that every byte is seen as before. -/
theorem not_loadsFromPartitionMemory : ¬ Obligations.LoadsFromPartitionMemory := by
  intro h
  obtain ⟨-, -, -, -, hbyte, -⟩ := h 2 1 0 0 0 0 (fun _ => 0) lineTwice (by decide)
  have home : ∀ j, j < 1 → lineTwice.homeByte 0 (0x1_0000_0000 + j) = some 0 := by decide
  obtain ⟨t, ht, hread, -, -⟩ := hbyte ⟨by decide, by decide, lineTwice_open, by decide,
    .inr ⟨home, lineTwice_takes, .inr ⟨_, _, rfl, by decide, by decide, by decide⟩⟩⟩
  have before : lineTwice.byteSeen 0x1_0000_0000 = some 0 := by decide
  have after : (match exec (.ldBu 2 1 0 0 0) lineTwice with | .next u => u.byteSeen 0x1_0000_0000 | _ => none) = some 7 := by decide
  have seen := hread.sees rfl 0x1_0000_0000 fun off e => by cases e
  rw [ht] at after
  rw [before] at seen
  exact absurd (seen.symm.trans after) (by decide)

end Sys2Proof.Machine
end

section
/-! PROOFS. A thread that goes to a pantry core and comes home (05 R131, R132; 09 R378). -/

set_option Elab.async false

namespace Sys2Proof.Machine

section
variable {s t : State} {d a : BitVec 5} {x : Nat} {k : Ctx} {q : Page}

/-! ## The ways of `go` -/

/-- A guest slot of a pantry core is given to a context. -/
def State.seated (s : State) (core y : Nat) : State :=
  s.modDie (core / 16) fun x => { x with guests := x.guests ++ [(core, y)] }

theorem State.die_seated (s : State) (core y m : Nat) : (s.seated core y).die m =
    if m = core / 16 then { s.die m with guests := (s.die m).guests ++ [(core, y)] } else s.die m := by
  rw [State.seated, State.die_modDie]
  split
  · next e => rw [e]
  · rfl

theorem State.self_seated (s : State) (core y : Nat) : (s.seated core y).self = s.self := rfl

theorem State.now_seated (s : State) (core y : Nat) : (s.seated core y).now = s.now := by
  rw [State.now, State.now, State.self_seated, State.cyc, State.cyc, State.die_seated]
  split <;> rfl

theorem exec_go_in_opt (h : s.self.opt = true) : exec (.go d a) s = s.result d (status 2) := if_pos h

theorem exec_go_outside (h : s.self.opt = false) (hr : region (s.rx a) ≠ .mem) : exec (.go d a) s = faultOut s cXLATE (s.rx a) := by
  show execGo d a s = _
  unfold execGo
  simp only [h, Bool.false_eq_true, if_false, if_pos hr]

theorem exec_go_mem (h : s.self.opt = false) (lo : 0x1_0000_0000 ≤ (s.rx a).toNat) (hi : (s.rx a).toNat < 2 ^ 48) :
    exec (.go d a) s = match s.page s.self.space (s.rx a).toNat with
      | none => faultOut s cXLATE (s.rx a)
      | some q =>
        if 32 ≤ s.guestsOf q.core then s.result d (status 1)
        else
          let u := (if s.self.migrated then s.forget s.cur else s).seated q.core s.cur
          .next ((u.mod fun c => { c with place := .pantry q.core }).wx d 0).finish := by
  show execGo d a s = _
  unfold execGo
  simp only [h, Bool.false_eq_true, if_false, region_mem lo hi, ne_eq, not_true_eq_false]
  cases s.page s.self.space (s.rx a).toNat with
  | none => rfl
  | some q => cases s.self.migrated <;> rfl

/-! ## What the move leaves -/

/-- The registers of a context that has moved to another place, with a value written, and gone on. -/
theorem State.self_moved (s : State) (p : Place) (d : BitVec 5) (v : Word) :
    let t := ((s.mod fun c => { c with place := p }).wx d v).finish
    t.self = { s.self.doneAt (s.self.pc + 4) s.now with x := t.self.x, badRegs := t.self.badRegs, place := p } ∧
      ∀ r : BitVec 5, t.rx r = if r = d ∧ r ≠ 0 then v else s.rx r := by
  obtain ⟨-, keeps, xs⟩ := (s.mod fun c => { c with place := p }).wroteX_result d v
  have now : (s.mod fun c => { c with place := p }).now = s.now := s.now_mod _ rfl
  rw [now, State.self_mod, Ctx.doneAt_eq] at keeps
  refine ⟨?_, fun r => ?_⟩
  · rw [Ctx.doneAt_eq]
    exact keeps
  · rw [xs, State.rx, State.self_mod]
    rfl

theorem State.self_forget (s : State) (x : Nat) : (s.forget x).self = s.self := rfl

/-- No guest slot of a die holds the context. -/
def State.Gone (t : State) (y : Nat) : Prop := ∀ p, p ∈ t.dies → ∀ g, g ∈ p.2.guests → g.2 ≠ y

theorem State.gone_leaveGuest (s : State) (x : Nat) : (s.leaveGuest x).Gone x := by
  intro p hp g hg
  obtain ⟨d, -, rfl⟩ := List.mem_map.1 hp
  exact of_decide_eq_true (List.mem_filter.1 hg).2

theorem State.gone_forget (s : State) (x : Nat) : (s.forget x).Gone x := by
  intro p hp g hg
  obtain ⟨d, -, rfl⟩ := List.mem_map.1 hp
  exact of_decide_eq_true (List.mem_filter.1 hg).2

/-- A die that a table does not list holds no guest. -/
theorem State.guests_gone {y n : Nat} (h : s.Gone y) : ∀ g, g ∈ (s.die n).guests → g.2 ≠ y := by
  unfold State.die tget
  cases e : tfind s.dies n with
  | none => exact fun g hg => nomatch hg
  | some d => exact h _ (mem_of_tfind e)

/-- Once a guest slot of one die is given to a context that holds none, it holds that slot alone. -/
theorem State.guest_alone {core y : Nat} (h : s.Gone y) :
    ∀ p, p ∈ (s.seated core y).dies → ∀ g, g ∈ p.2.guests → g.2 = y →
      g = (core, y) := by
  intro p hp g hg hy
  rcases mem_tset hp with rfl | hp
  · rcases List.mem_append.1 hg with hg | hg
    · exact absurd hy (State.guests_gone h g hg)
    · exact List.mem_singleton.1 hg
  · exact absurd hy (h p hp g hg)

/-! ## Home -/

/-- What the return of a migrated thread leaves: it holds no guest slot, and has its slot again. -/
theorem State.comeHome_spec (h : (s.ctx x).migrated = true) : (s.comeHome x).Gone x ∧
    ((s.cell (s.ctx x).cell).gstore = [] → (s.comeHome x).cells = s.cells) ∧ (s.comeHome x).cur = s.cur ∧
    tfind (s.comeHome x).ctxs x = some { s.ctx x with place := .slot, readySince := s.cyc (dieOfCell (s.ctx x).cell) } := by
  obtain ⟨ctxs, dies, cur⟩ := (s.leaveGuest x).backHome_frame x
  have same : ((s.leaveGuest x).backHome x).ctx x = s.ctx x := by rw [State.ctx, ctxs]; rfl
  refine ⟨fun p hp => ?_, fun empty => ?_, cur, ?_⟩
  · exact State.gone_leaveGuest s x p (by rwa [← dies])
  · show ((s.leaveGuest x).backHome x).cells = s.cells
    have stored : ((s.leaveGuest x).cell ((s.leaveGuest x).ctx x).cell).gstore = [] := empty
    have away : ((s.leaveGuest x).ctx x).migrated = true := h
    rw [State.backHome, if_pos away, State.deliverStore]
    simp only [stored, List.filter_nil, List.isEmpty_nil, if_true]
    rfl
  · refine (tfind_tset_self _ x _).trans ?_
    rw [same]

theorem mem_bounds {a : Word} (h : region a = .mem) : 0x1_0000_0000 ≤ a.toNat ∧ a.toNat < 0x1_0000_0000_0000 := by
  simp only [region] at h
  split_ifs at h
  omega

theorem exec_home_away (h : s.self.migrated = true) : exec .home s = .next (s.comeHome s.cur).finish := by
  show Host.Outcome.next (if _ then _ else _) = _
  rw [if_pos h]

theorem exec_home_here (h : s.self.migrated = false) : exec .home s = .next s.finish := by
  show Host.Outcome.next (if _ then _ else _) = _
  rw [if_neg (by rw [h]; exact Bool.false_ne_true)]

theorem exec_migrationReturn (hk : tfind s.ctxs x = some k) (hm : k.migrated = true) (hr : s.returns x = true) :
    exec (.migrationReturn x) s = .next (s.comeHome x) := by
  show execMigrationReturn x s = _
  unfold execMigrationReturn
  simp only [hk, hm, hr, Bool.and_self, if_true]

end

/-- Settles O34: `go` takes one of the ways of `exec_go_mem`, and both returns are `State.comeHome`. -/
theorem threadMigration : Obligations.ThreadMigration := by
  intro d a x s
  refine ⟨fun opt => ?_, fun opt out handler => ?_, fun q opt lo hi hq => ⟨fun full => ?_, fun room home => ?_, fun room away => ?_⟩,
    fun opt lo hi hq handler => ?_, fun home => ?_, fun away => ?_, fun k hk away hr => ?_⟩
  · exact givesX_of_result (exec_go_in_opt opt)
  · refine traps_of_trap (exec_go_outside opt fun h => ?_) handler (by decide) (by decide)
    have := mem_bounds h
    omega
  · have way := exec_go_mem (d := d) opt lo hi
    simp only [hq, if_pos full] at way
    exact givesX_of_result way
  · have way := exec_go_mem (d := d) opt lo hi
    simp only [hq, if_neg (Nat.not_le.2 room), home, Bool.false_eq_true, if_false] at way
    obtain ⟨keeps, xs⟩ := State.self_moved (s.seated q.core s.cur) (.pantry q.core) d 0
    refine ⟨_, way, rfl, ?_, xs, fun m => ?_⟩
    · rwa [State.now_seated] at keeps
    · exact s.die_seated _ _ m
  · have way := exec_go_mem (d := d) opt lo hi
    simp only [hq, if_neg (Nat.not_le.2 room), away, if_true] at way
    obtain ⟨keeps, xs⟩ := State.self_moved ((s.forget s.cur).seated q.core s.cur) (.pantry q.core) d 0
    refine ⟨_, way, ?_, ?_, xs, ?_⟩
    · rw [keeps]
    · rw [keeps, Ctx.doneAt_eq]; rfl
    · exact State.guest_alone (s.gone_forget s.cur)
  · have way := exec_go_mem (d := d) opt lo hi
    simp only [hq] at way
    exact traps_of_trap way handler (by decide) (by decide)
  · exact ⟨_, exec_home_here home, s.goesOn_finish⟩
  · obtain ⟨gone, cells, cur, found⟩ := State.comeHome_spec (x := s.cur) away
    have self := State.self_of_tfind ((congrArg (tfind (s.comeHome s.cur).ctxs) cur).trans found)
    obtain ⟨-, done⟩ := (s.comeHome s.cur).goesOn_finish
    refine ⟨_, exec_home_away away, gone, ?_, ?_, cells, fun r => ?_⟩
    · rw [done, self, Ctx.doneAt_eq]; rfl
    · rw [done, self, Ctx.doneAt_eq]; rfl
    · rw [State.rx, done, self, Ctx.doneAt_eq]; rfl
  · have same := State.ctx_of_tfind hk
    obtain ⟨gone, cells, -, found⟩ := State.comeHome_spec (s := s) (x := x) (by rwa [same])
    rw [same] at cells found
    exact ⟨_, exec_migrationReturn hk away hr, gone, cells, found⟩

end Sys2Proof.Machine
end

section
/-! PROOFS. A version store whose table names one word twice (05 R98; 10 R218). -/

set_option Elab.async false

namespace Sys2Proof.Machine

/-- A versioned page; its home slice holds one line. -/
def versionPage : State :=
  { State.reset with
    ctxs := [(0, { x := [(1, 0x1_0000_0000), (2, 6)] })]
    pages := [{ va := 0x1_0000_0000, ver := true }]
    dies := [(0, { l2 := [(1, { va := 0x1_0000_0080 })] })] }

theorem versionPage_sliceOf (v : List (Nat × List Version)) (q va : Nat) :
    ({ versionPage with versions := v } : State).sliceOf q va = versionPage.sliceOf q va := rfl

theorem versionPage_versionsIn (v : List (Nat × List Version)) (h : ∀ p ∈ v, p.1 = 0x1_0000_0000 ∨ p.1 = 0x1_0000_0008) :
    ({ versionPage with versions := v } : State).versionsIn 0 = (v.map fun p => p.2.length).sum := by
  unfold State.versionsIn
  rw [List.filter_eq_self.2]
  intro p hp
  simp only [versionPage_sliceOf]
  obtain e | e := h p hp
  · rw [e]; exact decide_eq_true rfl
  · rw [e]; exact decide_eq_true rfl

/-- A store of a version that is not live, outside optimistic mode, where there is room. -/
theorem exec_stv_creates {s : State} {d a b : BitVec 5} (hh : s.self.inHandler = false) (hv : s.checkVersion (s.rx a) = .ok ())
    (hf : s.fabricWaits (s.rx a) 8 true true = .ok ()) (ho : s.self.opt = false) (hc : s.waitCovered coverAll = .ok s)
    (hold : ((s.liveVersions s.self.space (s.rx a).toNat).any fun y => decide ((s.rx b).toNat + 8 ≤ y.num.toNat)) = false)
    (hroom : s.storeFull s.self.space (s.rx a).toNat = false) :
    exec (.stv d a b) s = .next (s.setVersions s.self.space (s.rx a).toNat
      ((putVersion (s.liveVersions s.self.space (s.rx a).toNat) (s.rx b) (s.rx d) none).filter fun y =>
        !(decide (y.num.toNat + 8 ≤ (s.rx b).toNat)))).finish := by
  show execStv d a b s = _
  have hi : s.illInHandler = .ok () := by rw [State.illInHandler, hh]; rfl
  simp only [execStv, hi, hv, hf, ho, hc, hold, hroom, Bool.false_eq_true, if_false, Bool.and_false, bind, Except.bind]
  rfl

/-- Versions of the word at address 8 of the page, before 32 versions 5 of the word at its address 0: the table is not in order, and
the home slice has room for one line more. -/
def unsorted : State :=
  { versionPage with
    versions := [(0x1_0000_0008, List.replicate 98248 { num := 5 }), (0x1_0000_0000, List.replicate 32 { num := 5 })] }

theorem unsorted_versionsIn : unsorted.versionsIn 0 = 98280 := by
  refine (versionPage_versionsIn _ (List.forall_mem_cons.2 ⟨.inr rfl, List.forall_mem_cons.2 ⟨.inl rfl, List.forall_mem_nil _⟩⟩)).trans ?_
  simp only [List.map_cons, List.map_nil, List.sum_cons, List.sum_nil, List.length_replicate]
  rfl

theorem unsorted_storeFull : unsorted.storeFull 0 0x1_0000_0000 = false := by
  have far : ((unsorted.versions.filter fun p =>
      (unsorted.page (p.1 / 2 ^ 48) (p.1 % 2 ^ 48)).map (·.dom) = (unsorted.page 0 0x1_0000_0000).map (·.dom)).map
      fun p => p.2.length).sum < 2 ^ 20 := by
    refine Nat.lt_of_le_of_lt (List.Sublist.sum_le_sum ((List.filter_sublist).map _) fun _ _ => Nat.zero_le _) ?_
    show ([(0x1_0000_0008, List.replicate 98248 _), (0x1_0000_0000, List.replicate 32 _)].map fun p : Nat × List Version => p.2.length).sum < _
    simp only [List.map_cons, List.map_nil, List.sum_cons, List.sum_nil, List.length_replicate]
    decide
  have slice : unsorted.sliceOf 0 0x1_0000_0000 = some (0, 0) := rfl
  simp only [State.storeFull, slice, unsorted_versionsIn, sliceLines, Bool.or_eq_false_iff, decide_eq_false_iff_not]
  exact ⟨Nat.not_le.2 far, by decide⟩

/-- The versions of the word after version 6 is stored in it. -/
def sixStored : List Version := List.replicate 32 { num := 5 } ++ [{ num := 6 }]

theorem exec_stv_unsorted : exec (.stv 3 1 2) unsorted = .next (unsorted.setVersions 0 0x1_0000_0000 sixStored).finish :=
  exec_stv_creates rfl rfl rfl rfl rfl rfl unsorted_storeFull

theorem unsorted_stored_over : { unsorted with versions := tset unsorted.versions 0x1_0000_0000 sixStored }.l2Over 0 0 0 = 1 := by
  have more : { unsorted with versions := tset unsorted.versions 0x1_0000_0000 sixStored }.versionsIn 0 = 98313 := by
    refine (versionPage_versionsIn _ (List.forall_mem_cons.2 ⟨.inl rfl, List.forall_mem_cons.2 ⟨.inr rfl,
      List.forall_mem_cons.2 ⟨.inl rfl, List.forall_mem_nil _⟩⟩⟩)).trans ?_
    simp only [List.map_cons, List.map_nil, List.sum_cons, List.sum_nil, List.length_replicate]
    rfl
  rw [State.l2Over, State.versionLines, more]
  rfl

theorem unsorted_room : unsorted.L2Room 0 0 := by
  unfold State.L2Room State.versionLines
  rw [unsorted_versionsIn]
  exact (by decide : ((versionPage.die 0).l2.filter fun p => p.2.slice = 0).length + (98280 + 7) / 8 + 2 ≤ sliceLines)

theorem State.setVersions_of_some {s : State} {space va dom slice : Nat} {l : List Version} (hl : l.isEmpty = false)
    (h : ({ s with versions := tset s.versions (space * 2 ^ 48 + va) l } : State).sliceOf space va = some (dom, slice)) :
    s.setVersions space va l = ({ s with versions := tset s.versions (space * 2 ^ 48 + va) l } : State).l2MakeRoom (dom / 2) slice 0 := by
  simp only [State.setVersions, hl, Bool.false_eq_true, if_false, h]

/-- The store takes the only line of the slice. -/
theorem unsorted_stored_evicts : ((unsorted.setVersions 0 0x1_0000_0000 sixStored).die 0).l2 = [] := by
  rw [State.setVersions_of_some (dom := 0) (slice := 0) rfl rfl, State.l2MakeRoom]
  simp only [Nat.zero_mul, Nat.zero_add, Nat.zero_div, unsorted_stored_over]
  rfl

theorem State.die_finish (s : State) (m : Nat) : s.finish.die m = s.die m := rfl

theorem State.die_of_versions {s t : State} (h : t = { s with ctxs := t.ctxs, versions := t.versions }) (m : Nat) : t.die m = s.die m := by
  rw [h]
  rfl

/-- Refutes O27: the new versions of the word stand beside its old ones in the table, so the slice keeps no room for its line,
though it had room for two more. -/
theorem not_versionedWords : ¬ Obligations.VersionedWords := by
  intro h
  obtain ⟨-, -, stores⟩ := h 3 1 2 unsorted rfl rfl rfl (by decide) (by decide) rfl rfl ⟨_, rfl⟩
  obtain ⟨creates, -⟩ := stores ⟨rfl, rfl, rfl⟩
  have live : unsorted.liveVersions 0 0x1_0000_0000 = List.replicate 32 { num := 5 } := rfl
  obtain ⟨t, exec_t, -, room, -, -, -⟩ := creates (fun y hy => by
    rw [show y = { num := 5 } from List.eq_of_mem_replicate (live ▸ hy)]; decide) unsorted_storeFull
  have same := room fun dom sl e => by
    obtain ⟨rfl, rfl⟩ : (0, 0) = (dom, sl) := Option.some.inj e
    exact unsorted_room
  rw [exec_stv_unsorted] at exec_t
  obtain rfl := Host.Outcome.next.inj exec_t
  have kept : (unsorted.die 0).l2 = [] := (congrArg Die.l2 (State.die_of_versions same 0)).symm.trans
    ((congrArg Die.l2 (State.die_finish _ 0)).trans unsorted_stored_evicts)
  cases kept

end Sys2Proof.Machine
end

section
/-! PROOFS. Accesses performed at their home from a cell whose L1 table names one place twice (05 R97, R101, R109, R127, R129; 10
R213; 11 R234). -/

set_option Elab.async false

namespace Sys2Proof.Machine

/-- Two lines of L1 at one place: a dirty one, whose first byte is 7, and after it a clean one of another address. What is looked for
as the second is found at its place, so writing it back writes the first. The thread holds a capability for the page. -/
def onePlace : State :=
  { State.reset with
    ctxs := [(0, { entry := some 0, x := [(5, 0x1_0000_0000), (7, 7)], pc := 0x1_0000_0000, c := [(1,
      { bits := BitVec.ofNat 128 (0x1_0000_0000 + 0x100 * 2 ^ 82 + 0xFF * 2 ^ 112 + 6 * 2 ^ 120), tag := true })] })]
    leases := [(5, { obj := .context 0, st := .held, expiry := 100 }),
      (9, { obj := .page 0 0x1_0000_0000 false false, st := .held, expiry := 100 })]
    pages := [{ va := 0x1_0000_0000, lease := 9 }]
    entries := [(0, { remain := 100, q := 2, bg := true, lease := 5 })]
    parts := [(0, { dies := [(0, { share := 1 })] })]
    cells := [(0, { l1 := [(0, { va := 0x1_0000_0080, valid := 1, dirty := 1, leaseEnd := 99, data := { bytes := [(0, 7)] } }),
      (0, { va := 0x1_0000_0000, valid := BitVec.allOnes 128, leaseEnd := 99 })] })] }

theorem onePlace_ready {n : Nat} (h : onePlace.inFaultRing 0 0x1_0000_0000 n = false) : onePlace.HomeReady (.mem 0 0x1_0000_0000) n :=
  ⟨⟨_, rfl, (by decide : 0 + 0 + 2 ≤ sliceLines)⟩, h, by decide⟩

/-- The byte that the dirty line writes to its home is no part of the line at `l`. -/
theorem onePlace_byte_kept {t : State} {n : Nat} (h : OnlyAt onePlace t (.mem 0 0x1_0000_0000) n) :
    t.homeByte 0 0x1_0000_0080 = some 0 := by
  have judged : onePlace.judge 0 0x1_0000_0000 = .ok { va := 0x1_0000_0000, lease := 9 } := rfl
  have paged : onePlace.page 0 0x1_0000_0080 = some { va := 0x1_0000_0000, lease := 9 } := rfl
  rw [h.homes 0 0x1_0000_0080 fun space va p q e hp hq => .inl ?_]
  · rfl
  · cases e
    obtain rfl := Except.ok.inj (judged.symm.trans hp)
    obtain rfl := Option.some.inj (paged.symm.trans hq)
    decide

/-- No outcome of an instruction that performs its access at that line keeps the byte. -/
theorem not_onlyAt_of_written {i : Instr} {n : Nat}
    (written : (match exec i onePlace with | .next u => u.homeByte 0 0x1_0000_0080 | _ => none) = some 7)
    {t : State} (ht : exec i onePlace = .next t) : ¬ OnlyAt onePlace t (.mem 0 0x1_0000_0000) n := by
  intro only
  rw [ht] at written
  exact absurd ((onePlace_byte_kept only).symm.trans written) (by decide)

/-- Refutes O26: the take parks, and the other line's dirty byte is at its home. -/
theorem not_fullEmptyWords : ¬ Obligations.FullEmptyWords := by
  intro h
  obtain ⟨take, -⟩ := h 1 5 0 0 onePlace (by decide) (by decide) (.inl (by decide)) (onePlace_ready (by decide))
  obtain ⟨-, parks⟩ := take rfl ⟨by decide, fun _ => by decide, fun _ id k e => by cases e; decide, .inl rfl, rfl, rfl,
    fun e => by simp at e, fun e => nomatch e⟩ rfl
  obtain ⟨t, ht, -, -, homes, -⟩ := parks (by decide) (by decide) (by decide)
  have written : (match exec (.ldDTake 1 5 0 0) onePlace with | .next u => u.homeByte 0 0x1_0000_0080 | _ => none) = some 7 := by decide
  rw [ht] at written
  exact absurd ((homes 0 0x1_0000_0080).symm.trans written) (by decide)

theorem onePlace_plain {n : Nat} {store : Bool} (h : onePlace.checkHome 0x1_0000_0000 n store = .ok ())
    (free : onePlace.localWaits 0x1_0000_0000 n store = .ok ()) : onePlace.Plain 0x1_0000_0000 n store :=
  ⟨h, fun _ => by decide, free, rfl, rfl⟩

theorem onePlace_switches : onePlace.SwitchesEmpty := fun _ h => nomatch h

/-- Refutes O25: the fetching add is performed at the home, and what goes back to L2 before it is the dirty line of another address. -/
theorem not_atomicOperations : ¬ Obligations.AtomicOperations := by
  intro h
  obtain ⟨add, -⟩ := h 1 5 7 0 1 0 onePlace (by decide) (by decide) (by decide)
  obtain ⟨fetches, -⟩ := add (by decide) (onePlace_plain rfl rfl) (fun e => absurd rfl e) (onePlace_ready (by decide)) rfl onePlace_switches
  obtain ⟨t, ht, -, only, -⟩ := fetches (.inl rfl) 0 (by decide)
  exact not_onlyAt_of_written (by decide) ht only

/-- Refutes O30: the arrival is performed at the home, and what goes back to L2 before it is the dirty line of another address. -/
theorem not_barriers : ¬ Obligations.Barriers := by
  intro h
  obtain ⟨arrive, -⟩ := h 1 5 0 onePlace (by decide) 0 0 0 0 0 0 (by decide) (by decide) (by decide) (by decide) (by decide) (by decide)
    (by decide) (by decide)
  obtain ⟨⟨t, ht, -, block, -⟩, -⟩ := arrive ⟨by decide, onePlace_plain rfl rfl, onePlace_ready (by decide), rfl, onePlace_switches⟩
    ⟨rfl, rfl, rfl⟩
  obtain ⟨only, -⟩ := block rfl rfl
  exact not_onlyAt_of_written (by decide) ht only

/-- Refutes O32: `capst` writes at the home, and what goes back to L2 before it is the dirty line of another address. -/
theorem not_capabilityRegisters : ¬ Obligations.CapabilityRegisters := by
  intro h
  obtain ⟨-, -, -, -, -, -, -, -, moves⟩ := h 0 1 0 5 0 onePlace
  obtain ⟨-, store⟩ := moves (by decide) (by decide) (onePlace_ready (by decide)) rfl
  obtain ⟨t, ht, -, only, -⟩ := store (onePlace_plain rfl rfl) ⟨rfl, rfl, rfl⟩
  exact not_onlyAt_of_written (by decide) ht only

/-- Refutes O33: the load is performed at the home, and what goes back to L2 before it is the dirty line of another address. -/
theorem not_remoteAccesses : ¬ Obligations.RemoteAccesses := by
  intro h
  obtain ⟨-, load, -⟩ := h 3 0 1 3 0 0 0 0 0 onePlace (by decide) (by decide) rfl rfl (by decide)
  obtain ⟨t, ht, -, only⟩ := load (by decide) (.mem 0 0x1_0000_0000) 0 (by decide)
    ⟨onePlace_ready (by decide), rfl, .inl rfl, by decide, onePlace_switches, rfl, rfl, rfl⟩ (by decide) (by decide)
  exact not_onlyAt_of_written (by decide) ht only

/-- Refutes O29: `flagf` gives up the line of its target in L1, and what goes back to L2 is the dirty line of another address. -/
theorem not_fences : ¬ Obligations.Fences := by
  intro h
  obtain ⟨-, flagf⟩ := h
  obtain ⟨posts, -⟩ := flagf 1 7 onePlace rfl
  obtain ⟨t, p, ht, -, -, -, -, -, -, -, homes, -⟩ := posts (by decide) rfl ⟨rfl, rfl, rfl⟩
    (fun r va q e hq => by
      cases e
      cases hq
      decide)
    (fun r va id k e hk => by
      cases e
      cases hk
      rfl)
  have written : (match exec (.flagf 1 7) onePlace with | .next u => u.homeByte 0 0x1_0000_0080 | _ => none) = some 7 := by decide
  rw [ht] at written
  exact absurd ((homes 0 0x1_0000_0080).symm.trans written) (by decide)

end Sys2Proof.Machine
end

section
/-! PROOFS. A lease request of the acting context that nothing holds up on its way, and its reply (05 R118-R120; 08 R194). -/

set_option Elab.async false

namespace Sys2Proof.Machine

section
variable {s u : State} {r : LeaseReq} {q n : Nat} {v : Word}

/-! ## Sending -/

/-- The acting context waits for request number `s.fresh`. -/
def State.sentOff (s : State) (r : LeaseReq) : State :=
  { s with
    ctxs := tset s.ctxs s.cur { s.self with sst := .stalled, wait := .lease s.fresh, charged := true, lastTry := s.now }
    lreqs := tset s.lreqs s.fresh r, fresh := s.fresh + 1 }

/-- The request is at its home, which has taken the next number for its order of arrival. -/
def State.asked (s : State) (r : LeaseReq) : State := { s.sentOff r with fresh := s.fresh + 2 }

theorem State.self_asked : (s.asked r).self =
    { s.self with sst := .stalled, wait := .lease s.fresh, charged := true, lastTry := s.now } :=
  State.ctx_setCtx_self s s.cur _

theorem State.ctx_sentOff_found (hx : r.ctx = s.cur) : tfind (s.sentOff r).ctxs r.ctx =
    some { s.self with sst := .stalled, wait := .lease s.fresh, charged := true, lastTry := s.now } :=
  hx ▸ tfind_tset_self _ _ _

theorem State.now_asked : (s.asked r).now = s.now := by
  rw [State.now, State.self_asked]
  rfl

theorem State.sendLease_eq {own : Bool} (h : own = true ∨ s.holds = []) :
    s.sendLease r own false = ((s.sentOff r).leaseArrives s.fresh).leaseReply s.fresh := by
  have unheld : (if own then (false, s) else s.takeHold) = (false, s) := by
    obtain rfl | h := h
    · rfl
    · cases own
      · simp only [State.takeHold, h, Bool.false_eq_true, if_false]
      · rfl
  unfold State.sendLease
  rw [unheld]
  rfl

/-! ## At the home -/

/-- The request as its home has answered it. -/
def LeaseReq.answered (r : LeaseReq) (order : Nat) (v : Word) (n : Option Nat) : LeaseReq :=
  { r with order := order, answer := some v, granted := n, held := false }

/-- The home answers the request and keeps the answer (05 R119). -/
def State.answeredAt (u : State) (q : Nat) (r : LeaseReq) (order : Nat) (v : Word) (n : Option Nat) : State :=
  ({ u with lreqs := tset u.lreqs q (r.answered order v n) } : State).keepAnswer r.ctx r.num v n

/-- Whom a context's request asks for. -/
def LeaseReq.asker (r : LeaseReq) (c : Ctx) : Asker := { c.asker r.ctx with capId := r.capId }

section
variable {c : Ctx} {kind : Nat} (hq : tfind u.lreqs q = some r) (hc : tfind u.ctxs r.ctx = some c) (hop : r.op = .lacq kind)
include hq hc hop

theorem State.leaseArrives_kept {m : Option Nat} (hk : u.keptAnswer r.ctx r.num = some (v, m)) :
    u.leaseArrives q = { u with fresh := u.fresh + 1, lreqs := tset u.lreqs q (r.answered u.fresh v m) } := by
  have kept : ({ u with fresh := u.fresh + 1 } : State).keptAnswer r.ctx r.num = some (v, m) := hk
  simp only [State.leaseArrives, hq, hc, hop, State.takeFresh, kept, LeaseReq.answered]

variable (hk : u.keptAnswer r.ctx r.num = none) (hh : r.held = true ∨ u.heldOver (r.asker c) kind r.xa = false)
include hk hh

/-- The home tests a new request (05 R120). -/
theorem State.leaseArrives_tested :
    u.leaseArrives q = match ({ u with fresh := u.fresh + 1 } : State).lacqAt (r.asker c) kind r.xa r.xb with
      | (t, .ok n) => match tfind t.leases n with
        | some l => t.answeredAt q r u.fresh l.handle (some n)
        | none => t
      | (t, .error code) => t.answeredAt q r u.fresh (status code) none := by
  have kept : ({ u with fresh := u.fresh + 1 } : State).keptAnswer r.ctx r.num = none := hk
  have early : (!r.held && ({ u with fresh := u.fresh + 1 } : State).heldOver (r.asker c) kind r.xa) = false := by
    obtain h | h := hh
    · rw [h]; rfl
    · exact (congrArg (!r.held && ·) h).trans (Bool.and_false _)
  simp only [LeaseReq.asker] at early
  simp only [State.leaseArrives, hq, hc, hop, State.takeFresh, kept, early, Bool.false_eq_true, if_false, State.answeredAt,
    LeaseReq.answered]
  rfl

theorem State.leaseArrives_refused {code : Nat}
    (hat : ({ u with fresh := u.fresh + 1 } : State).lacqAt (r.asker c) kind r.xa r.xb = ({ u with fresh := u.fresh + 1 }, .error code)) :
    u.leaseArrives q = ({ u with fresh := u.fresh + 1 } : State).answeredAt q r u.fresh (status code) none := by
  rw [State.leaseArrives_tested hq hc hop hk hh, hat]

theorem State.leaseArrives_granted {t : State} {l : Lease}
    (hat : ({ u with fresh := u.fresh + 1 } : State).lacqAt (r.asker c) kind r.xa r.xb = (t, .ok n)) (hn : tfind t.leases n = some l) :
    u.leaseArrives q = t.answeredAt q r u.fresh l.handle (some n) := by
  rw [State.leaseArrives_tested hq hc hop hk hh, hat]
  simp only [hn]

end

section
variable {kind : Nat} (hx : r.ctx = s.cur) (hop : r.op = .lacq kind)
include hx hop

theorem State.arrives_kept {m : Option Nat} (hk : s.keptAnswer s.cur r.num = some (v, m)) :
    (s.sentOff r).leaseArrives s.fresh = { s.asked r with lreqs := tset (s.asked r).lreqs s.fresh (r.answered (s.fresh + 1) v m) } :=
  State.leaseArrives_kept (u := s.sentOff r) (tfind_tset_self _ _ _) (State.ctx_sentOff_found hx) hop (hx ▸ hk)

variable (hk : s.keptAnswer s.cur r.num = none) (hh : s.heldOver (r.asker s.self) kind r.xa = false)
include hk hh

theorem State.arrives_refused {code : Nat} (hat : (s.asked r).lacqAt (r.asker s.self) kind r.xa r.xb = (s.asked r, .error code)) :
    (s.sentOff r).leaseArrives s.fresh = (s.asked r).answeredAt s.fresh r (s.fresh + 1) (status code) none :=
  State.leaseArrives_refused (u := s.sentOff r) (tfind_tset_self _ _ _) (State.ctx_sentOff_found hx) hop (hx ▸ hk) (.inr hh) hat

theorem State.arrives_granted {l : Lease} (hat : (s.asked r).lacqAt (r.asker s.self) kind r.xa r.xb = (u, .ok n)) (hn : tfind u.leases n = some l) :
    (s.sentOff r).leaseArrives s.fresh = u.answeredAt s.fresh r (s.fresh + 1) l.handle (some n) :=
  State.leaseArrives_granted (u := s.sentOff r) (tfind_tset_self _ _ _) (State.ctx_sentOff_found hx) hop (hx ▸ hk) (.inr hh) hat hn

end

/-! ## The reply -/

/-- The reply of a request is in its cell: the request is over, and its context acts. -/
def State.replied (u : State) (q : Nat) (r : LeaseReq) : State := { u with lreqs := tdel u.lreqs q, cur := r.ctx }

/-- A reply to `lacq` or `llk` advances the context's request number (05 R119). -/
def State.numbered (u : State) (op : LeaseOp) : State :=
  match op with
  | .lacq _ | .llk => u.mod fun c => { c with leaseNum := c.leaseNum + 1 }
  | _ => u

theorem State.leaseReply_ungranted (hq : tfind u.lreqs q = some r) (ha : r.answer = some v) (hg : r.granted = none)
    (hw : (u.ctx r.ctx).wait = .lease q) : u.leaseReply q = (((u.replied q r).numbered r.op).wx r.xd v).finish := by
  have waits : (({ u with lreqs := tdel u.lreqs q } : State).ctx r.ctx).wait = .lease q := hw
  simp only [State.leaseReply, hq, ha, hg, waits, ne_eq, not_true_eq_false, if_false]
  rfl

theorem State.leaseReply_granted (hq : tfind u.lreqs q = some r) (ha : r.answer = some v) (hg : r.granted = some n)
    (hw : (u.ctx r.ctx).wait = .lease q) {kind : Nat} (hop : r.op = .lacq kind) :
    u.leaseReply q =
      (((((u.replied q r).modLease n fun l : Lease => { l with st := if l.st = LeaseSt.granted then LeaseSt.held else l.st }).enterGuards n v).rewritePath r n
        |>.numbered r.op).wx r.xd v).finish := by
  have waits : (({ u with lreqs := tdel u.lreqs q } : State).ctx r.ctx).wait = .lease q := hw
  simp only [State.leaseReply, hq, ha, hg, waits, hop, ne_eq, not_true_eq_false, if_false]
  rfl

theorem State.answeredAt_found (u : State) (q : Nat) (r : LeaseReq) (k : Nat) (v : Word) (m : Option Nat) :
    tfind (u.answeredAt q r k v m).lreqs q = some (r.answered k v m) := tfind_tset_self _ _ _

/-- The reply to a request that its home refused. -/
theorem State.reply_refused {k : Nat} (hw : (u.ctx r.ctx).wait = .lease q) :
    (u.answeredAt q r k v none).leaseReply q = ((((u.answeredAt q r k v none).replied q r).numbered r.op).wx r.xd v).finish :=
  State.leaseReply_ungranted (r := r.answered k v none) (u.answeredAt_found q r k v none) rfl rfl hw

/-- A grant whose reply has come is HELD (08 R194). -/
def State.heldNow (u : State) (n : Nat) : State := u.modLease n fun l => { l with st := if l.st = LeaseSt.granted then LeaseSt.held else l.st }

/-- The reply to a request that its home granted. -/
theorem State.reply_granted {k kind : Nat} (hw : (u.ctx r.ctx).wait = .lease q) (hop : r.op = .lacq kind) :
    (u.answeredAt q r k v (some n)).leaseReply q =
      ((((((u.answeredAt q r k v (some n)).replied q r).heldNow n).enterGuards n v).rewritePath r n |>.numbered r.op).wx r.xd v).finish :=
  State.leaseReply_granted (r := r.answered k v (some n)) (u.answeredAt_found q r k v (some n)) rfl rfl hw hop

theorem State.enterGuards_of_unlocked {l : Lease} (hn : tfind u.leases n = some l) (h : ∀ a b, l.obj ≠ .lock a b) : u.enterGuards n v = u := by
  unfold State.enterGuards
  rw [hn]
  dsimp only
  split
  · exact absurd ‹_› (h _ _)
  · rfl

/-- What the grant of a path to a peer does to its capability register (18 R340). -/
def Lease.rewrites (l : Lease) (k : Nat) (c : Ctx) : Ctx :=
  match l.obj with
  | .path _ id _ =>
    if isPeer id then c.setC k { c.c? k with bits := setField (setField (c.c? k).bits 120 8 8) 96 16 (l.gen.toNat % 2 ^ 16) } else c
  | _ => c

theorem Lease.rewrites_eq (l : Lease) (k : Nat) (c : Ctx) :
    l.rewrites k c = { c with c := (l.rewrites k c).c, badRegs := (l.rewrites k c).badRegs } := by
  unfold Lease.rewrites
  split
  · split <;> rfl
  · rfl

theorem Lease.rewrites_path {l : Lease} {x id y k : Nat} (h : l.obj = .path x id y) (c : Ctx) : l.rewrites k c =
    if isPeer id then c.setC k { c.c? k with bits := setField (setField (c.c? k).bits 120 8 8) 96 16 (l.gen.toNat % 2 ^ 16) } else c := by
  simp only [Lease.rewrites, h]

theorem Lease.rewrites_other {l : Lease} {k : Nat} (h : ∀ x id y, l.obj ≠ .path x id y) (c : Ctx) : l.rewrites k c = c := by
  unfold Lease.rewrites
  split
  · exact absurd ‹_› (h _ _ _)
  · rfl

theorem Lease.rewrites_c (l : Lease) (k : Nat) {c e : Ctx} (h : c.c = e.c) : (l.rewrites k c).c = (l.rewrites k e).c := by
  unfold Lease.rewrites
  split
  · split
    · simp only [Ctx.setC, Ctx.c?, h]
    · exact h
  · exact h

/-- Only the context that asked is changed, as `Lease.rewrites` says. -/
theorem State.rewritePath_spec {l : Lease} (hn : tfind u.leases n = some l) (hx : r.ctx = u.cur) :
    u.rewritePath r n = { u with ctxs := (u.rewritePath r n).ctxs } ∧
      (u.rewritePath r n).self = l.rewrites (r.xa.toNat % 8) u.self := by
  unfold State.rewritePath
  rw [hn]
  dsimp only
  split
  · rw [Lease.rewrites_path ‹_›]
    split
    · rw [hx]
      exact ⟨rfl, State.ctx_modCtx_self u u.cur fun c => c.setC _ _⟩
    · exact ⟨rfl, rfl⟩
  · rw [Lease.rewrites_other ‹_›]
    exact ⟨rfl, rfl⟩

end

end Sys2Proof.Machine
end

section
/-! PROOFS. `lacq`: each kind's tests at the home, and what its answer leaves (05 R115-R120; 10 R219; 13 R261; 18 R339, R340). -/

set_option Elab.async false

namespace Sys2Proof.Machine

section
variable {s u t : State} {r : LeaseReq} {q n kind code : Nat} {v : Word} {d a b : BitVec 5} {l : Lease} {o : LeaseObj}

/-! ## The answer's effect on the context -/

/-- The answer `v` of a `lacq` is in xd, and the context goes on; it waited for its home in between. -/
def LacqDone (s t : State) (d : BitVec 5) (v : Word) : Prop :=
  (∀ r : BitVec 5, t.rx r = if r = d ∧ r ≠ 0 then v else s.rx r) ∧
    t.self = { s.self with
      pc := s.self.pc + 4, charged := false, wait := .none, sst := .ready, readySince := s.now, lastTry := s.now
      leaseNum := s.self.leaseNum + 1, x := t.self.x, badRegs := t.self.badRegs, c := t.self.c }

theorem Ctx.doneAt_stalled {c : Ctx} (h : c.sst = .stalled) (pc : Word) (now : Nat) :
    c.doneAt pc now = { c with pc := pc, charged := false, wait := .none, sst := .ready, readySince := now } := by
  simp only [Ctx.doneAt, h]

/-- The context as a reply finds it: its capability registers apart, as it asked. -/
def State.AwaitsReply (s u : State) (r : LeaseReq) : Prop :=
  u.now = s.now ∧ u.self = { (s.asked r).self with c := u.self.c, badRegs := u.self.badRegs }

theorem State.AwaitsReply.asked : s.AwaitsReply (s.asked r) r := ⟨State.now_asked, rfl⟩

theorem State.self_replied (hx : r.ctx = u.cur) {k : Nat} {m : Option Nat} : ((u.answeredAt q r k v m).replied q r).self = u.self :=
  congrArg u.ctx hx

theorem State.AwaitsReply.replied (h : s.AwaitsReply u r) (hx : r.ctx = u.cur) {k : Nat} {m : Option Nat} :
    s.AwaitsReply ((u.answeredAt q r k v m).replied q r) r := by
  have same : ((u.answeredAt q r k v m).replied q r).self = u.self := State.self_replied hx
  obtain ⟨now, ctx⟩ := h
  refine ⟨?_, by rw [same]; exact ctx⟩
  rw [State.now, same]
  exact now

theorem State.AwaitsReply.done (h : s.AwaitsReply u r) :
    LacqDone s (((u.numbered (.lacq kind)).wx d v).finish) d v ∧
      (((u.numbered (.lacq kind)).wx d v).finish).self.c = u.self.c := by
  obtain ⟨now, ctx⟩ := h
  have num : (u.numbered (.lacq kind)).self = { u.self with leaseNum := u.self.leaseNum + 1 } := State.self_mod _ _
  obtain ⟨-, keeps, xs⟩ := (u.numbered (.lacq kind)).wroteX_result d v
  have time : (u.numbered (.lacq kind)).now = u.now := State.now_mod _ _ rfl
  rw [time, now, num] at keeps
  have stalled : ({ u.self with leaseNum := u.self.leaseNum + 1 } : Ctx).sst = .stalled := by rw [ctx, State.self_asked]
  rw [Ctx.doneAt_stalled stalled] at keeps
  refine ⟨⟨fun k => (xs k).trans ?_, ?_⟩, ?_⟩
  · have same : (u.numbered (.lacq kind)).rx k = s.rx k := by
      show Ctx.x? _ _ = Ctx.x? _ _
      rw [num, ctx, State.self_asked]
      rfl
    rw [same]
  · rw [keeps, ctx, State.self_asked]
  · rw [keeps]

/-! ## A request refused -/

/-- The request of a `lacq`. -/
def State.lacqReq (s : State) (kind : Nat) (d a b : BitVec 5) : LeaseReq :=
  { ctx := s.cur, op := .lacq kind, xa := s.rx a, xb := s.rx b, num := s.self.leaseNum, xd := d
    capId := if kind = 8 ∧ (s.rc ((s.rx a).truncate 3 : BitVec 3)).tag then
      some (BitVec.ofNat 16 (s.rc ((s.rx a).truncate 3 : BitVec 3)).id) else none }

/-- Nothing holds the request up, and no answer to it is kept. -/
structure State.SendsNew (s : State) (kind : Nat) (d a b : BitVec 5) : Prop where
  allowed : ¬ (kind = 4 ∧ 12 ≤ (s.rx a).toNat ∧ s.self.pl = 0)
  moves : kind = 2 ∨ kind = 3 ∨ kind = 4 ∨ s.holds = []
  unanswered : s.keptAnswer s.cur s.self.leaseNum = none
  timely : s.heldOver ((s.lacqReq kind d a b).asker s.self) kind (s.rx a) = false

theorem State.lacq_eq (ha : ¬ (kind = 4 ∧ 12 ≤ (s.rx a).toNat ∧ s.self.pl = 0)) (hm : kind = 2 ∨ kind = 3 ∨ kind = 4 ∨ s.holds = []) :
    s.lacq kind d a b = .next (((s.sentOff (s.lacqReq kind d a b)).leaseArrives s.fresh).leaseReply s.fresh) := by
  unfold State.lacq
  dsimp only
  rw [if_neg ha]
  refine congrArg _ (State.sendLease_eq ?_)
  rw [decide_eq_true_eq]
  tauto

theorem status_eq_ofNat {k : Nat} (h : k < 2 ^ 63) : status k = BitVec.ofNat 64 (2 ^ 63 + k) := by
  apply BitVec.eq_of_toNat_eq
  rw [status, BitVec.toNat_or, BitVec.toNat_ofNat, BitVec.toNat_ofNat, Nat.mod_eq_of_lt (by omega : k < 2 ^ 64),
    Nat.mod_eq_of_lt (by omega : 2 ^ 63 + k < 2 ^ 64)]
  have top : (1#64 <<< 63).toNat = 2 ^ 63 * 1 := by decide
  rw [top, ← Nat.two_pow_add_eq_or_of_lt h, Nat.mul_one]

theorem State.wait_asked : ((s.asked r).ctx s.cur).wait = .lease s.fresh := congrArg Ctx.wait (State.self_asked (s := s) (r := r))

theorem State.replied_eq (hx : r.ctx = u.cur) : u.replied q r = { u with lreqs := tdel u.lreqs q } := by
  rw [State.replied, hx]

theorem State.finished_frame : ((u.numbered (.lacq kind)).wx d v).finish =
    { u with ctxs := (((u.numbered (.lacq kind)).wx d v).finish).ctxs } := rfl

theorem State.reply_frame (hx : r.ctx = u.cur) {k : Nat} {m : Option Nat} (ht : t = ((((u.answeredAt q r k v m).replied q r).numbered
    (.lacq kind)).wx d v).finish) : t = { u with ctxs := t.ctxs, lreqs := t.lreqs, kept := t.kept } := by
  rw [ht, State.replied_eq (u := u.answeredAt q r k v m) hx]
  exact State.finished_frame

theorem State.asked_frame (h : t = { s.asked r with ctxs := t.ctxs, lreqs := t.lreqs, kept := t.kept }) :
    t = { s with ctxs := t.ctxs, lreqs := t.lreqs, kept := t.kept, fresh := s.fresh + 2 } := h

theorem State.lacq_refused (hs : s.SendsNew kind d a b) (hcode : code < 2 ^ 63)
    (hat : (s.asked (s.lacqReq kind d a b)).lacqAt ((s.lacqReq kind d a b).asker s.self) kind (s.rx a) (s.rx b) =
      (s.asked (s.lacqReq kind d a b), .error code)) :
    ∃ t, s.lacq kind d a b = .next t ∧ LacqDone s t d (BitVec.ofNat 64 (2 ^ 63 + code)) ∧
      t = { s with ctxs := t.ctxs, lreqs := t.lreqs, kept := t.kept, fresh := s.fresh + 2 } ∧ t.self.c = s.self.c := by
  obtain ⟨allowed, moves, unanswered, timely⟩ := hs
  have replies := State.lacq_eq (d := d) (b := b) allowed moves
  rw [State.arrives_refused rfl rfl unanswered timely hat, State.reply_refused State.wait_asked, status_eq_ofNat hcode] at replies
  have awaits := (State.AwaitsReply.asked (s := s) (r := s.lacqReq kind d a b)).replied rfl (q := s.fresh) (k := s.fresh + 1)
    (v := BitVec.ofNat 64 (2 ^ 63 + code)) (m := none)
  obtain ⟨done, caps⟩ := awaits.done (kind := kind) (d := d) (v := BitVec.ofNat 64 (2 ^ 63 + code))
  refine ⟨_, replies, done, ?_, caps.trans ?_⟩
  · exact State.asked_frame (State.reply_frame rfl rfl)
  · rw [State.self_replied rfl, State.self_asked]

/-! ## A request granted -/

/-- The granted lease is HELD. -/
def State.withHeld (u : State) (n : Nat) (l : Lease) : State := { u with leases := tset u.leases n { l with st := .held } }

theorem State.AwaitsReply.withHeld (h : s.AwaitsReply u r) : s.AwaitsReply (u.withHeld n l) r := h

theorem State.withHeld_found : tfind (u.withHeld n l).leases n = some { l with st := .held } := tfind_tset_self _ _ _

theorem State.heldNow_of_granted (hn : tfind u.leases n = some l) (hl : l.st = .granted) :
    u.heldNow n = u.withHeld n l := by
  rw [State.heldNow, State.modLease, hn]
  simp only [hl, if_true]
  rfl

theorem State.AwaitsReply.rewritePath (h : s.AwaitsReply u r) (hn : tfind u.leases n = some l) (hx : r.ctx = u.cur) :
    s.AwaitsReply (u.rewritePath r n) r := by
  obtain ⟨frame, self⟩ := State.rewritePath_spec hn hx
  obtain ⟨now, ctx⟩ := h
  have new : (u.rewritePath r n).self = { u.self with c := (u.rewritePath r n).self.c, badRegs := (u.rewritePath r n).self.badRegs } := by
    rw [self]
    exact l.rewrites_eq _ _
  refine ⟨?_, ?_⟩
  · rw [← now, State.now, new, frame]
    rfl
  · rw [new, ctx]

theorem State.held_frame (hx : r.ctx = u.cur) {k : Nat} {m : Option Nat}
    (ht : t = ((((((u.answeredAt q r k v m).replied q r).withHeld n l).rewritePath r n).numbered (.lacq kind)).wx d v).finish) :
    t = { u with ctxs := t.ctxs, leases := tset u.leases n { l with st := .held }, lreqs := t.lreqs, kept := t.kept } := by
  obtain ⟨frame, -⟩ := State.rewritePath_spec (r := r) (u := ((u.answeredAt q r k v m).replied q r).withHeld n l) State.withHeld_found rfl
  rw [ht, frame, State.replied_eq (u := u.answeredAt q r k v m) hx]
  exact State.finished_frame

theorem State.self_rewritten {k : Nat} {m : Option Nat} :
    ((((u.answeredAt q r k v m).replied q r).withHeld n l).rewritePath r n).self = l.rewrites (r.xa.toNat % 8) (u.ctx r.ctx) :=
  (State.rewritePath_spec (r := r) (u := ((u.answeredAt q r k v m).replied q r).withHeld n l) State.withHeld_found rfl).2

theorem State.lacq_granted (hs : s.SendsNew kind d a b)
    (hat : (s.asked (s.lacqReq kind d a b)).lacqAt ((s.lacqReq kind d a b).asker s.self) kind (s.rx a) (s.rx b) = (u, .ok n))
    (hu : s.AwaitsReply u (s.lacqReq kind d a b)) (hcur : s.cur = u.cur) (hctx : u.ctxs = (s.asked (s.lacqReq kind d a b)).ctxs)
    (hn : tfind u.leases n = some l) (hl : l.st = .granted) (hlock : ∀ x y, l.obj ≠ .lock x y) :
    ∃ t, s.lacq kind d a b = .next t ∧ LacqDone s t d l.handle ∧
      t = { u with ctxs := t.ctxs, leases := tset u.leases n { l with st := .held }, lreqs := t.lreqs, kept := t.kept } ∧
      t.self.c = (l.rewrites ((s.rx a).toNat % 8) s.self).c := by
  obtain ⟨allowed, moves, unanswered, timely⟩ := hs
  have same : u.ctx s.cur = (s.asked (s.lacqReq kind d a b)).self := by rw [State.ctx, hctx]; rfl
  have waits : (u.ctx s.cur).wait = .lease s.fresh := by rw [same, State.self_asked]
  have found : tfind (((u.answeredAt s.fresh (s.lacqReq kind d a b) (s.fresh + 1) l.handle (some n)).replied s.fresh
    (s.lacqReq kind d a b)).leases) n = some l := hn
  have replies := State.lacq_eq (d := d) (b := b) allowed moves
  rw [State.arrives_granted rfl rfl unanswered timely hat hn, State.reply_granted waits rfl, State.heldNow_of_granted found hl,
    State.enterGuards_of_unlocked State.withHeld_found hlock] at replies
  have awaits := ((hu.replied hcur (q := s.fresh) (k := s.fresh + 1) (v := l.handle) (m := some n)).withHeld (n := n) (l := l)).rewritePath
    State.withHeld_found rfl
  obtain ⟨done, caps⟩ := awaits.done (kind := kind) (d := d) (v := l.handle)
  refine ⟨_, replies, done, State.held_frame hcur rfl, caps.trans ?_⟩
  rw [State.self_rewritten]
  refine l.rewrites_c _ ?_
  rw [show (s.lacqReq kind d a b).ctx = s.cur from rfl, same, State.self_asked]

end
end Sys2Proof.Machine
end

section
/-! PROOFS. `lacq` of a cell's objects and of L2 residency, and what any kind's grant is (05 R115-R120; 10 R219). -/

set_option Elab.async false

namespace Sys2Proof.Machine

section
variable {s u t : State} {r : LeaseReq} {q n kind code home life : Nat} {v : Word} {d a b : BitVec 5} {l : Lease} {o : LeaseObj}
  {w : Asker} {busy : Lease → Bool} {full : Bool} {i : Instr}

/-! ## The last tests of R120 -/

/-- An object over which a lease lapses or is scrubbed. -/
def State.Scrubbed (s : State) (home : Nat) (o : LeaseObj) : Prop := ∃ p, p ∈ s.over home o ∧ (p.2.st = .lapsing ∨ p.2.st = .scrubbing)

/-- An object that a present lease holds against the asker. -/
def State.HeldAgainst (s : State) (home : Nat) (o : LeaseObj) (busy : Lease → Prop) : Prop :=
  ∃ p, p ∈ s.over home o ∧ p.2.alive = true ∧ busy p.2

theorem State.any_scrubbed : ((s.over home o).any fun p => p.2.st = .lapsing || p.2.st = .scrubbing) = true ↔ s.Scrubbed home o := by
  simp only [List.any_eq_true, State.Scrubbed, Bool.or_eq_true, decide_eq_true_eq]

theorem State.any_heldAgainst :
    ((s.over home o).any fun p => p.2.alive && busy p.2) = true ↔ s.HeldAgainst home o fun l => busy l = true := by
  simp only [List.any_eq_true, State.HeldAgainst, Bool.and_eq_true]

theorem State.settleLacq_scrubbed (h : s.Scrubbed home o) : s.settleLacq home o w life busy full = (s, .error lsScrub) :=
  if_pos (State.any_scrubbed.2 h)

theorem State.settleLacq_held (h : ¬ s.Scrubbed home o) (hb : s.HeldAgainst home o fun l => busy l = true) :
    s.settleLacq home o w life busy full = (s, .error lsBusy) :=
  (if_neg (mt State.any_scrubbed.1 h)).trans (if_pos (State.any_heldAgainst.2 hb))

theorem State.settleLacq_full (h : ¬ s.Scrubbed home o) (hb : ¬ s.HeldAgainst home o fun l => busy l = true) (hf : full = true) :
    s.settleLacq home o w life busy full = (s, .error lsNoRes) :=
  (if_neg (mt State.any_scrubbed.1 h)).trans ((if_neg (mt State.any_heldAgainst.1 hb)).trans (if_pos hf))

theorem State.settleLacq_grants (h : ¬ s.Scrubbed home o) (hb : ¬ s.HeldAgainst home o fun l => busy l = true) (hf : full = false) :
    s.settleLacq home o w life busy full = ((s.grant home o w life).1, .ok (s.grant home o w life).2) :=
  (if_neg (mt State.any_scrubbed.1 h)).trans ((if_neg (mt State.any_heldAgainst.1 hb)).trans (if_neg (by rw [hf]; exact Bool.false_ne_true)))

/-! ## What the kinds' answers and grants are -/

/-- The request is answered with a status (05 R117), and no lease is granted. -/
def LacqAnswers (s : State) (d : BitVec 5) (i : Instr) (code : Nat) : Prop :=
  ∃ t, exec i s = .next t ∧ LacqDone s t d (BitVec.ofNat 64 (2 ^ 63 + code)) ∧
    t = { s with ctxs := t.ctxs, lreqs := t.lreqs, kept := t.kept, fresh := s.fresh + 2 } ∧ t.self.c = s.self.c

/-- The request is answered with the handle of a lease over `o`. -/
def LacqGrants (s : State) (d : BitVec 5) (i : Instr) (o : LeaseObj) (home life : Nat) (gen : BitVec 24) (also : State → Nat → Prop) : Prop :=
  ∃ t n l, exec i s = .next t ∧ LacqDone s t d l.handle ∧ tfind t.leases n = some l ∧
    (∀ m, m ≠ n → tfind t.leases m = tfind s.leases m) ∧ l.obj = o ∧ l.home = home ∧ l.st = .held ∧ l.gen = gen ∧
    l.expiry = s.tickOf home + life ∧ l.parent = s.contextLease s.self.entry ∧ l.pop = s.self.entry ∧ t.cells = s.cells ∧ also t n

/-- A grant changes the tables of leases and requests, and the acting context. -/
def LacqPlain (s t : State) (_ : Nat) : Prop :=
  t = { s with ctxs := t.ctxs, leases := t.leases, grants := t.grants, lreqs := t.lreqs, kept := t.kept, fresh := s.fresh + 2 }

/-- The next generation of an object. -/
def State.nextGen (s : State) (o : LeaseObj) : BitVec 24 := BitVec.ofNat 24 (s.grantsOf o + 1)

/-- The lease that a grant writes. -/
def State.granting (s : State) (home : Nat) (o : LeaseObj) (w : Asker) (life : Nat) : Lease :=
  { home := home, index := (s.slotFor home o w.pop).2, obj := o, gen := s.nextGen o, count := s.grantsOf o + 1, st := .granted
    expiry := s.tickOf home + life, parent := s.contextLease w.pop, pop := w.pop, part := w.part, order := s.grants
    holder := some { ctx := w.ctx, cell := w.cell } }

/-- The state after a grant. -/
def State.withGrant (s : State) (n : Nat) (l : Lease) : State := { s with leases := tset s.leases n l, grants := s.grants + 1 }

theorem State.AwaitsReply.withGrant (h : s.AwaitsReply u r) : s.AwaitsReply (u.withGrant n l) r := h

theorem State.withGrant_found : tfind (u.withGrant n l).leases n = some l := tfind_tset_self _ _ _

theorem State.grant_eq : s.grant home o w life =
    (s.withGrant (s.slotFor home o w.pop).1 (s.granting home o w life), (s.slotFor home o w.pop).1) := rfl

theorem lacqAnswers_of_refused (hi : exec i s = s.lacq kind d a b) (hs : s.SendsNew kind d a b) (hcode : code < 2 ^ 63)
    (hat : (s.asked (s.lacqReq kind d a b)).lacqAt ((s.lacqReq kind d a b).asker s.self) kind (s.rx a) (s.rx b) =
      (s.asked (s.lacqReq kind d a b), .error code)) : LacqAnswers s d i code := by
  obtain ⟨t, ht, rest⟩ := State.lacq_refused hs hcode hat
  exact ⟨t, hi.trans ht, rest⟩

theorem State.withGrant_frame (h : t = { (s.asked r).withGrant n l with
      ctxs := t.ctxs, leases := tset ((s.asked r).withGrant n l).leases n { l with st := .held }, lreqs := t.lreqs, kept := t.kept }) :
    tfind t.leases n = some { l with st := .held } ∧ (∀ m, m ≠ n → tfind t.leases m = tfind s.leases m) ∧ t.cells = s.cells ∧
      LacqPlain s t n := by
  have leases : t.leases = tset (tset s.leases n l) n { l with st := .held } := by rw [h]; rfl
  have grants : t.grants = s.grants + 1 := by rw [h]; rfl
  refine ⟨by rw [leases]; exact tfind_tset_self _ _ _, fun m hm => ?_, by rw [h]; rfl, ?_⟩
  · rw [leases, tfind_tset_ne _ _ hm, tfind_tset_ne _ _ hm]
  · rw [LacqPlain, grants, leases]
    exact h

/-- A request whose home wrote the lease `l` as number `n`. -/
theorem State.lacq_wrote (hi : exec i s = s.lacq kind d a b) (hs : s.SendsNew kind d a b) (ho : ∀ x y, l.obj ≠ .lock x y) (hl : l.st = .granted)
    (hat : (s.asked (s.lacqReq kind d a b)).lacqAt ((s.lacqReq kind d a b).asker s.self) kind (s.rx a) (s.rx b) =
      ((s.asked (s.lacqReq kind d a b)).withGrant n l, .ok n)) :
    ∃ t, exec i s = .next t ∧ LacqDone s t d l.handle ∧ tfind t.leases n = some { l with st := .held } ∧
      (∀ m, m ≠ n → tfind t.leases m = tfind s.leases m) ∧ t.cells = s.cells ∧ LacqPlain s t n ∧
      t.self.c = (l.rewrites ((s.rx a).toNat % 8) s.self).c := by
  obtain ⟨t, ht, done, frame, caps⟩ :=
    State.lacq_granted hs hat State.AwaitsReply.asked.withGrant rfl rfl State.withGrant_found hl ho
  obtain ⟨found, others, cells, plain⟩ := State.withGrant_frame frame
  exact ⟨t, hi.trans ht, done, found, others, cells, plain, caps⟩

theorem lacqGrants_of_grant (hi : exec i s = s.lacq kind d a b) (hs : s.SendsNew kind d a b) (ho : ∀ x y, o ≠ .lock x y)
    (hat : (s.asked (s.lacqReq kind d a b)).lacqAt ((s.lacqReq kind d a b).asker s.self) kind (s.rx a) (s.rx b) =
      (((s.asked (s.lacqReq kind d a b)).grant home o ((s.lacqReq kind d a b).asker s.self) life).1,
        .ok ((s.asked (s.lacqReq kind d a b)).grant home o ((s.lacqReq kind d a b).asker s.self) life).2)) :
    LacqGrants s d i o home life (s.nextGen o) fun t n => LacqPlain s t n ∧
      ∃ l : Lease, l.obj = o ∧ l.gen = s.nextGen o ∧ t.self.c = (l.rewrites ((s.rx a).toNat % 8) s.self).c := by
  rw [State.grant_eq] at hat
  obtain ⟨t, ht, done, found, others, cells, plain, caps⟩ := State.lacq_wrote hi hs (l := State.granting _ home o _ life) ho rfl hat
  refine ⟨t, _, _, ht, ?_, found, others, rfl, rfl, rfl, rfl, rfl, rfl, rfl, cells, plain, _, rfl, rfl, caps⟩
  exact done

theorem LacqGrants.imp {gen : BitVec 24} {P Q : State → Nat → Prop} (h : LacqGrants s d i o home life gen P) (hPQ : ∀ t n, P t n → Q t n) :
    LacqGrants s d i o home life gen Q := by
  obtain ⟨t, n, l, ht, done, found, others, obj, at_, st, g, expiry, parent, pop, cells, also⟩ := h
  exact ⟨t, n, l, ht, done, found, others, obj, at_, st, g, expiry, parent, pop, cells, hPQ t n also⟩

/-- The answers of R120's last tests, in their order, and the grant. -/
def LacqSettles (s : State) (d : BitVec 5) (i : Instr) (o : LeaseObj) (home life : Nat) (busy : Lease → Prop) (full : Prop) : Prop :=
  (s.Scrubbed home o → LacqAnswers s d i 6) ∧ (¬ s.Scrubbed home o → s.HeldAgainst home o busy → LacqAnswers s d i 1) ∧
    (¬ s.Scrubbed home o → ¬ s.HeldAgainst home o busy → full → LacqAnswers s d i 2) ∧
    (¬ s.Scrubbed home o → ¬ s.HeldAgainst home o busy → ¬ full → LacqGrants s d i o home life (s.nextGen o) (LacqPlain s))

theorem lacqSettles_of_settleLacq (hi : exec i s = s.lacq kind d a b) (hs : s.SendsNew kind d a b) (ho : ∀ x y, o ≠ .lock x y)
    (hat : (s.asked (s.lacqReq kind d a b)).lacqAt ((s.lacqReq kind d a b).asker s.self) kind (s.rx a) (s.rx b) =
      (s.asked (s.lacqReq kind d a b)).settleLacq home o ((s.lacqReq kind d a b).asker s.self) life busy full) :
    LacqSettles s d i o home life (fun l => busy l = true) (full = true) := by
  refine ⟨fun h => ?_, fun h hb => ?_, fun h hb hf => ?_, fun h hb hf => ?_⟩
  · exact lacqAnswers_of_refused hi hs (by decide) (hat.trans (State.settleLacq_scrubbed h))
  · exact lacqAnswers_of_refused hi hs (by decide) (hat.trans (State.settleLacq_held h hb))
  · exact lacqAnswers_of_refused hi hs (by decide) (hat.trans (State.settleLacq_full h hb hf))
  · exact (lacqGrants_of_grant hi hs ho (hat.trans (State.settleLacq_grants h hb (Bool.not_eq_true _ ▸ hf)))).imp fun _ _ h => h.1

end
end Sys2Proof.Machine
end

section
/-! PROOFS. `lacq`, kind by kind (05 R115-R120; 10 R219; 13 R261; 17 R334; 18 R339). -/

set_option Elab.async false

namespace Sys2Proof.Machine

section
variable {s u t : State} {r : LeaseReq} {q n kind code home life : Nat} {v : Word} {d a b : BitVec 5} {l : Lease} {o : LeaseObj}
  {w : Asker} {busy : Lease → Bool} {full : Bool} {i : Instr} {B C : Lease → Prop} {F G : Prop} {xa xb : Word}

theorem LacqSettles.congr (h : LacqSettles s d i o home life B F) (hb : ∀ l, B l ↔ C l) (hf : F ↔ G) : LacqSettles s d i o home life C G := by
  obtain rfl : B = C := funext fun l => propext (hb l)
  obtain rfl : F = G := propext hf
  exact h

/-! ## Lives -/

theorem State.lacqAt_life (h : xb.toNat = 0 ∨ 2 ^ 32 ≤ xb.toNat) : s.lacqAt w kind xa xb = (s, .error lsLife) := if_pos h

section
variable (h : ¬ (xb.toNat = 0 ∨ 2 ^ 32 ≤ xb.toNat))
include h

theorem State.lacqAt_sp : s.lacqAt w 2 xa xb = s.lacqSp w xa xb.toNat := if_neg h
theorem State.lacqAt_acc : s.lacqAt w 3 xa xb = s.lacqAcc w xa xb.toNat := if_neg h
theorem State.lacqAt_cls : s.lacqAt w 4 xa xb = s.lacqCls w xa xb.toNat := if_neg h
theorem State.lacqAt_l2 : s.lacqAt w 5 xa xb = s.lacqL2 w xa xb.toNat := if_neg h
theorem State.lacqAt_page : s.lacqAt w 6 xa xb = s.lacqPage w xa xb.toNat := if_neg h
theorem State.lacqAt_path : s.lacqAt w 8 xa xb = s.lacqPath w xa xb.toNat := if_neg h
theorem State.lacqAt_grp : s.lacqAt w 9 xa xb = s.lacqGrp w xa xb.toNat := if_neg h

end

/-- A life outside its range is refused whatever the object (05 R120). -/
theorem lacqAnswers_life (hi : exec i s = s.lacq kind d a b) (hs : s.SendsNew kind d a b) (h : (s.rx b).toNat = 0 ∨ 2 ^ 32 ≤ (s.rx b).toNat) :
    LacqAnswers s d i 4 :=
  lacqAnswers_of_refused hi hs (by decide) (State.lacqAt_life h)

/-! ## Objects of the cell -/

/-- A lease of another population. -/
def State.OtherPop (s : State) (l : Lease) : Prop := l.pop ≠ s.self.entry

/-- No entry of the cell is left for the object. -/
def State.NoEntry (s : State) (o : LeaseObj) : Prop :=
  64 ≤ s.used (homeCell s.self.cell) (fun k => k = 2 || k = 3 || k = 4) ∧ s.reuses (homeCell s.self.cell) o s.self.entry = false

theorem lacqSettles_inCell (hi : exec i s = s.lacq kind d a b) (hs : s.SendsNew kind d a b) (ho : ∀ x y, o ≠ .lock x y)
    (hat : (s.asked (s.lacqReq kind d a b)).lacqAt ((s.lacqReq kind d a b).asker s.self) kind (s.rx a) (s.rx b) =
      (s.asked (s.lacqReq kind d a b)).settleLacq (homeCell s.self.cell) o ((s.lacqReq kind d a b).asker s.self) life
        (fun l => l.pop ≠ s.self.entry) (s.cellFull s.self.cell && !s.reuses (homeCell s.self.cell) o s.self.entry)) :
    LacqSettles s d i o (homeCell s.self.cell) life s.OtherPop (s.NoEntry o) := by
  refine (lacqSettles_of_settleLacq hi hs ho hat).congr (fun l => decide_eq_true_iff) ?_
  rw [Bool.and_eq_true, State.cellFull, decide_eq_true_iff, Bool.not_eq_true', State.NoEntry]

/-- Another population holds a range that meets the object. -/
def State.OthersMeet (s : State) (o : LeaseObj) : Prop := ∃ p, p ∈ s.leases ∧ p.2.obj.meets o = true ∧ p.2.alive = true ∧ p.2.pop ≠ s.self.entry

theorem State.any_othersMeet : ((s.leases.filter fun p => p.2.obj.meets o).any fun p => p.2.alive && p.2.pop ≠ s.self.entry) = true ↔
    s.OthersMeet o := by
  simp only [List.any_eq_true, List.mem_filter, Bool.and_eq_true, decide_eq_true_eq, State.OthersMeet, and_assoc]

section
variable (hl : ¬ ((s.rx b).toNat = 0 ∨ 2 ^ 32 ≤ (s.rx b).toNat))
include hl

theorem lacqSp_bad (hs : s.SendsNew 2 d a b) (h : (s.rx a).toNat % 4096 / 256 ≠ 0 ∨ (s.rx a).toNat / 4096 * 4096 < Config.viewBase ∨
    Config.viewBase + (s.cell s.self.cell).spadSize < (s.rx a).toNat / 4096 * 4096 + ((s.rx a).toNat % 256 + 1) * 4096) :
    LacqAnswers s d (.lacqSp d a b) 3 :=
  lacqAnswers_of_refused rfl hs (by decide) ((State.lacqAt_sp hl).trans (if_pos h))

theorem lacqSp_good (hs : s.SendsNew 2 d a b) (h : ¬ ((s.rx a).toNat % 4096 / 256 ≠ 0 ∨ (s.rx a).toNat / 4096 * 4096 < Config.viewBase ∨
    Config.viewBase + (s.cell s.self.cell).spadSize < (s.rx a).toNat / 4096 * 4096 + ((s.rx a).toNat % 256 + 1) * 4096)) :
    let o := LeaseObj.sp s.self.cell (((s.rx a).toNat / 4096 * 4096 - Config.viewBase) / 4096) ((s.rx a).toNat % 256 + 1)
    LacqSettles s d (.lacqSp d a b) o (homeCell s.self.cell) (s.rx b).toNat s.OtherPop (s.NoEntry o) :=
  lacqSettles_inCell rfl hs (fun _ _ e => nomatch e) ((State.lacqAt_sp hl).trans (if_neg h))

theorem lacqAcc_bad (hs : s.SendsNew 3 d a b) (h : 4 ≤ (s.rx a).toNat) : LacqAnswers s d (.lacqAcc d a b) 3 :=
  lacqAnswers_of_refused rfl hs (by decide) ((State.lacqAt_acc hl).trans (if_pos h))

theorem lacqAcc_good (hs : s.SendsNew 3 d a b) (h : ¬ 4 ≤ (s.rx a).toNat) :
    LacqSettles s d (.lacqAcc d a b) (.acc s.self.cell (s.rx a).toNat) (homeCell s.self.cell) (s.rx b).toNat s.OtherPop
      (s.NoEntry (.acc s.self.cell (s.rx a).toNat)) :=
  lacqSettles_inCell rfl hs (fun _ _ e => nomatch e) ((State.lacqAt_acc hl).trans (if_neg h))

theorem lacqCls_bad (hs : s.SendsNew 4 d a b) (h : 16 ≤ (s.rx a).toNat) : LacqAnswers s d (.lacqCls d a b) 3 :=
  lacqAnswers_of_refused rfl hs (by decide) ((State.lacqAt_cls hl).trans (if_pos h))

theorem lacqCls_good (hs : s.SendsNew 4 d a b) (h : ¬ 16 ≤ (s.rx a).toNat) :
    let o := LeaseObj.cls s.self.cell (s.rx a).toNat s.self.slot s.cur
    LacqSettles s d (.lacqCls d a b) o (homeCell s.self.cell) (s.rx b).toNat s.OtherPop (s.NoEntry o) :=
  lacqSettles_inCell rfl hs (fun _ _ e => nomatch e) ((State.lacqAt_cls hl).trans (if_neg h))

/-! ## L2 residency -/

theorem lacqL2_bad (hs : s.SendsNew 5 d a b) (h : (s.rx a).toNat / 0x1_0000 * 0x1_0000 < Config.memBase ∨
    Config.memTop < (s.rx a).toNat / 0x1_0000 * 0x1_0000 + ((s.rx a).toNat % 2 ^ 13 + 1) * 0x1_0000) : LacqAnswers s d (.lacqL2 d a b) 3 :=
  lacqAnswers_of_refused rfl hs (by decide) ((State.lacqAt_l2 hl).trans (if_pos h))

/-- The residency that `lacq.l2` asks for, and its home. -/
def State.residency (s : State) (xa : Word) : LeaseObj :=
  .l2 s.self.space (xa.toNat / 0x1_0000 * 0x1_0000) (xa.toNat % 2 ^ 13 + 1) (xa.toNat / 2 ^ 13 % 8)
def State.residencyHome (s : State) (xa : Word) : Nat := homeOfSlice (s.sliceFor s.self.part s.self.cell (xa.toNat / 0x1_0000 * 0x1_0000))

variable (hs : s.SendsNew 5 d a b) (h : ¬ ((s.rx a).toNat / 0x1_0000 * 0x1_0000 < Config.memBase ∨
    Config.memTop < (s.rx a).toNat / 0x1_0000 * 0x1_0000 + ((s.rx a).toNat % 2 ^ 13 + 1) * 0x1_0000))
include hs h

theorem lacqL2_others (hm : s.OthersMeet (s.residency (s.rx a))) : LacqAnswers s d (.lacqL2 d a b) 1 :=
  lacqAnswers_of_refused rfl hs (by decide) ((State.lacqAt_l2 hl).trans ((if_neg h).trans (if_pos (State.any_othersMeet.2 hm))))

/-- The partition's allowance on the die, or the home's entries, are used up (10 R219). -/
def State.NoResidency (s : State) (xa : Word) : Prop :=
  let die := dieOfHome (s.residencyHome xa)
  s.residentLimit s.self.part die < s.residentUnits s.self.part die + (xa.toNat % 2 ^ 13 + 1) ∨
    (32 ≤ s.used (s.residencyHome xa) (fun k => k = 5) ∧ s.reuses (s.residencyHome xa) (s.residency xa) s.self.entry = false)

theorem lacqL2_settles (hm : ¬ s.OthersMeet (s.residency (s.rx a))) :
    LacqSettles s d (.lacqL2 d a b) (s.residency (s.rx a)) (s.residencyHome (s.rx a)) (s.rx b).toNat (fun _ => False) (s.NoResidency (s.rx a)) := by
  have unlocked : ∀ x y, s.residency (s.rx a) ≠ .lock x y := fun _ _ e => nomatch e
  have settles := lacqSettles_of_settleLacq (i := .lacqL2 d a b) (life := (s.rx b).toNat) rfl hs unlocked
    ((State.lacqAt_l2 hl).trans ((if_neg h).trans (if_neg (mt State.any_othersMeet.1 hm))))
  refine settles.congr (fun _ => by simp) ?_
  rw [Bool.or_eq_true, decide_eq_true_iff, Bool.and_eq_true, decide_eq_true_iff, Bool.not_eq_true']
  rfl

end

end
end Sys2Proof.Machine
end

section
/-! PROOFS. `lacq` of pages, paths and groups, and an answer that the home has kept (05 R119, R120; 13 R261; 17 R334; 18 R339). -/

set_option Elab.async false

namespace Sys2Proof.Machine

section
variable {s u t : State} {r : LeaseReq} {q n kind code home life : Nat} {v : Word} {d a b : BitVec 5} {l : Lease} {o : LeaseObj}
  {w : Asker} {i : Instr} {xa : Word}

/-! ## Pages -/

/-- The size of the page that `lacq.page` asks for, its address, and its home domain. -/
def pageSize (xa : Word) : Nat := if xa.getLsbD 0 then 0x20_0000 else 0x1_0000
def pageVa (xa : Word) : Nat := xa.toNat / pageSize xa * pageSize xa
def State.pageHome (s : State) (xa : Word) : Nat := (s.regionHome s.self.part (pageVa xa / 0x20_0000)).getD (domOfCell s.self.cell)
def State.pageObj (s : State) (xa : Word) : LeaseObj := .page s.self.space (pageVa xa) (xa.getLsbD 0) (xa.getLsbD 1)

def BadPage (xa : Word) : Prop :=
  xa.toNat % pageSize xa / 4 ≠ 0 ∨ pageVa xa < Config.memBase ∨ Config.memTop < pageVa xa + pageSize xa

/-- A lease over storage of the object satisfies a condition. -/
def State.Meets (s : State) (o : LeaseObj) (f : Lease → Prop) : Prop := ∃ p, p ∈ s.leases ∧ p.2.obj.meets o = true ∧ f p.2

theorem State.any_meets {f : Lease → Bool} :
    ((s.leases.filter fun p => p.2.obj.meets o).any fun p => f p.2) = true ↔ s.Meets o fun l => f l = true := by
  simp only [List.any_eq_true, List.mem_filter, State.Meets, and_assoc]

/-- The translation entry of the page. -/
def State.pageEntry (s : State) (xa : Word) (g f n : Nat) : Page :=
  { part := s.self.part, sid := s.self.sid, va := pageVa xa, big := xa.getLsbD 0, ver := xa.getLsbD 1, dom := s.pageHome xa, cg := g
    die := dieOfDom (s.pageHome xa), frame := f, lease := n }

theorem State.mapPage_frame {sid : BitVec 16} {va dom g f m : Nat} {big ver : Bool} : s.mapPage w sid va big ver dom g f m =
    { s with
      pages := s.pages ++ [{ part := w.part, sid := sid, va := va, big := big, ver := ver, dom := dom, cg := g, die := dieOfDom dom
                             frame := f, lease := m }]
      dies := (s.mapPage w sid va big ver dom g f m).dies, parts := (s.mapPage w sid va big ver dom g f m).parts } := rfl

theorem State.cyc_mapPage {sid : BitVec 16} {va dom g f m k : Nat} {big ver : Bool} : (s.mapPage w sid va big ver dom g f m).cyc k = s.cyc k := by
  show (tget {} (tset s.dies _ _) k).cyc = _
  rw [tget_tset]
  split
  · subst k
    rfl
  · rfl

theorem State.AwaitsReply.mapPage {sid : BitVec 16} {va dom g f m : Nat} {big ver : Bool} (h : s.AwaitsReply u r) :
    s.AwaitsReply (u.mapPage w sid va big ver dom g f m) r :=
  ⟨State.cyc_mapPage.trans h.1, h.2⟩

/-- The reply to a request whose home granted a page. -/
theorem State.mapPage_answer {sid : BitVec 16} {va dom g f m : Nat} {big ver : Bool}
    (h : t = { ((s.asked r).withGrant n l).mapPage w sid va big ver dom g f m with
      ctxs := t.ctxs, leases := tset (((s.asked r).withGrant n l).mapPage w sid va big ver dom g f m).leases n { l with st := .held }
      lreqs := t.lreqs, kept := t.kept }) :
    tfind t.leases n = some { l with st := .held } ∧ (∀ m, m ≠ n → tfind t.leases m = tfind s.leases m) ∧ t.cells = s.cells ∧
      t.pages = s.pages ++ [{ part := w.part, sid := sid, va := va, big := big, ver := ver, dom := dom, cg := g, die := dieOfDom dom
                              frame := f, lease := m }] := by
  have leases : t.leases = tset (tset s.leases n l) n { l with st := .held } := by rw [h]; rfl
  refine ⟨by rw [leases]; exact tfind_tset_self _ _ _, fun m hm => ?_, by rw [h]; rfl, by rw [h]; rfl⟩
  rw [leases, tfind_tset_ne _ _ hm, tfind_tset_ne _ _ hm]

section
variable (hl : ¬ ((s.rx b).toNat = 0 ∨ 2 ^ 32 ≤ (s.rx b).toNat)) (hs : s.SendsNew 6 d a b)
include hl hs

theorem lacqPage_bad (h : BadPage (s.rx a)) : LacqAnswers s d (.lacqPage d a b) 3 :=
  lacqAnswers_of_refused rfl hs (by decide) ((State.lacqAt_page hl).trans (if_pos h))

variable (h : ¬ BadPage (s.rx a))
include h

theorem lacqPage_scrubbed (hm : s.Meets (s.pageObj (s.rx a)) fun l => (l.st = .lapsing || l.st = .scrubbing) = true) :
    LacqAnswers s d (.lacqPage d a b) 6 :=
  lacqAnswers_of_refused rfl hs (by decide) ((State.lacqAt_page hl).trans ((if_neg h).trans (if_pos (State.any_meets.2 hm))))

variable (hm : ¬ s.Meets (s.pageObj (s.rx a)) fun l => (l.st = .lapsing || l.st = .scrubbing) = true)
include hm

theorem lacqPage_backed (hb : s.Meets (s.pageObj (s.rx a)) fun l => l.alive = true) : LacqAnswers s d (.lacqPage d a b) 1 :=
  lacqAnswers_of_refused rfl hs (by decide) ((State.lacqAt_page hl).trans ((if_neg h).trans ((if_neg (mt State.any_meets.1 hm)).trans
    (if_pos (State.any_meets.2 hb)))))

variable (hb : ¬ s.Meets (s.pageObj (s.rx a)) fun l => l.alive = true)
include hb

omit hs in
theorem State.lacqAt_page_placed {r : LeaseReq} : (s.asked r).lacqAt ((s.lacqReq 6 d a b).asker s.self) 6 (s.rx a) (s.rx b) =
    match s.placeFrame s.self.part (s.pageHome (s.rx a)) (pageVa (s.rx a) / 0x20_0000) ((s.rx a).getLsbD 0) with
    | none => (s.asked r, .error lsNoRes)
    | some (g, f) =>
      let t := (s.asked r).grant (homeCtl (dieOfDom (s.pageHome (s.rx a)) * 16 + g)) (s.pageObj (s.rx a)) ((s.lacqReq 6 d a b).asker s.self)
        (s.rx b).toNat
      (t.1.mapPage ((s.lacqReq 6 d a b).asker s.self) s.self.sid (pageVa (s.rx a)) ((s.rx a).getLsbD 0) ((s.rx a).getLsbD 1)
        (s.pageHome (s.rx a)) g f t.2, .ok t.2) :=
  (State.lacqAt_page hl).trans ((if_neg h).trans ((if_neg (mt State.any_meets.1 hm)).trans (if_neg (mt State.any_meets.1 hb))))

theorem lacqPage_unplaced
    (hp : s.placeFrame s.self.part (s.pageHome (s.rx a)) (pageVa (s.rx a) / 0x20_0000) ((s.rx a).getLsbD 0) = none) :
    LacqAnswers s d (.lacqPage d a b) 2 := by
  refine lacqAnswers_of_refused rfl hs (by decide) ((State.lacqAt_page_placed hl h hm hb).trans ?_)
  rw [hp]
  rfl

theorem lacqPage_grants {g f : Nat}
    (hp : s.placeFrame s.self.part (s.pageHome (s.rx a)) (pageVa (s.rx a) / 0x20_0000) ((s.rx a).getLsbD 0) = some (g, f)) :
    LacqGrants s d (.lacqPage d a b) (s.pageObj (s.rx a)) (homeCtl (dieOfDom (s.pageHome (s.rx a)) * 16 + g)) (s.rx b).toNat
      (s.nextGen (s.pageObj (s.rx a))) fun t n => t.pages = s.pages ++ [s.pageEntry (s.rx a) g f n] := by
  have hat := State.lacqAt_page_placed (d := d) (r := s.lacqReq 6 d a b) hl h hm hb
  rw [hp] at hat
  dsimp only at hat
  rw [State.grant_eq] at hat
  obtain ⟨t, ht, done, frame, -⟩ := State.lacq_granted hs hat (State.AwaitsReply.asked.withGrant.mapPage) rfl rfl State.withGrant_found rfl
    fun _ _ e => nomatch e
  obtain ⟨found, others, cells, pages⟩ := State.mapPage_answer frame
  refine ⟨t, _, _, ht, ?_, found, others, rfl, rfl, rfl, rfl, rfl, rfl, rfl, cells, pages⟩
  exact done

end
end
end Sys2Proof.Machine
end

section
/-! PROOFS. `lacq` of paths and groups, an answer that the home has kept, and all of `lacq` (05 R119, R120; 13 R261; 18 R339, R340). -/

set_option Elab.async false

namespace Sys2Proof.Machine

section
variable {s u t : State} {r : LeaseReq} {q n kind code home life : Nat} {v : Word} {d a b : BitVec 5} {l : Lease} {o : LeaseObj}
  {w : Asker} {i : Instr} {xa : Word}

/-! ## Paths -/

/-- The capability register that `lacq.path` names, the bandwidth and the asker's domain. -/
def State.pathCap (s : State) (xa : Word) : Capa := s.rc (xa.truncate 3 : BitVec 3)
def pathBw (xa : Word) : Nat := xa.toNat / 2 ^ 16 % 2 ^ 16
def State.pathDom (s : State) : Nat := domOfCell s.self.cell
def State.pathObj (s : State) (xa : Word) : LeaseObj := .path s.pathDom (s.pathCap xa).id (pathBw xa)

/-- The fields and the id that make a path's object malformed (18 R339). -/
def State.BadPath (s : State) (xa : Word) : Prop :=
  (xa.toNat / 2 ^ 32 ≠ 0 ∨ xa.toNat % 2 ^ 16 / 8 ≠ 0 ∨ pathBw xa = 0 ∨ 3000 < pathBw xa) ∨
    ((s.pathCap xa).id = s.pathDom ∨ !(decide ((s.pathCap xa).id < 8) || (isPeer (s.pathCap xa).id && s.peerUp (s.pathCap xa).id)))

/-- The population's own path to the id satisfies a condition. -/
def State.OwnPath (s : State) (xa : Word) (f : Lease → Prop) : Prop :=
  ∃ p, p ∈ s.leases ∧ p.2.pop = s.self.entry ∧ f p.2 ∧ ∃ m, p.2.obj = .path s.pathDom (s.pathCap xa).id m

/-- No bandwidth of the partition, the egress or the external port is left for the path, or no entry of the egress. -/
def State.NoPath (s : State) (xa : Word) : Prop :=
  s.shareIn s.self.part s.pathDom < s.reserved (fun l e _ => l.part = s.self.part && e = s.pathDom) + pathBw xa ∨
    64 ≤ s.used (homeEgress s.pathDom) (fun k => k = 8) ∨ 3000 < s.reserved (fun _ e _ => e = s.pathDom) + pathBw xa ∨
    (isPeer (s.pathCap xa).id = true ∧
      100 < s.reserved (fun _ _ e => isPeer e && Config.peerPort e % 8 = Config.peerPort (s.pathCap xa).id % 8) + pathBw xa)

theorem LeaseObj.isPath_iff {x y : Nat} : (match o with | .path e j _ => decide (e = x) && decide (j = y) | _ => false) = true ↔
    ∃ m, o = .path x y m := by
  cases o <;> simp

theorem State.any_ownPath {f : Lease → Bool} :
    (s.leases.any fun p => p.2.pop = s.self.entry && f p.2 &&
      match p.2.obj with | .path e j _ => decide (e = s.pathDom) && decide (j = (s.pathCap xa).id) | _ => false) = true ↔
      s.OwnPath xa fun l => f l = true := by
  simp only [List.any_eq_true, Bool.and_eq_true, decide_eq_true_eq, LeaseObj.isPath_iff, State.OwnPath, and_assoc]

theorem Capa.id_lt (c : Capa) : c.id < 2 ^ 16 := Nat.mod_lt _ (by decide)

/-- The tests of a path whose capability register holds a tag. -/
theorem State.lacqPath_of_tag (htag : (s.pathCap (s.rx a)).tag = true) :
    (s.asked (s.lacqReq 8 d a b)).lacqPath ((s.lacqReq 8 d a b).asker s.self) (s.rx a) life =
      let u := s.asked (s.lacqReq 8 d a b)
      let xa := s.rx a
      let own (st : Lease → Bool) : Bool := u.leases.any fun p =>
        p.2.pop = s.self.entry && st p.2 && match p.2.obj with | .path e j _ => decide (e = s.pathDom) && decide (j = (s.pathCap xa).id) | _ => false
      if xa.toNat / 2 ^ 32 ≠ 0 ∨ xa.toNat % 2 ^ 16 / 8 ≠ 0 ∨ pathBw xa = 0 ∨ 3000 < pathBw xa then (u, .error lsBadObj)
      else if (s.pathCap xa).id = s.pathDom ∨ !(decide ((s.pathCap xa).id < 8) || (isPeer (s.pathCap xa).id && u.peerUp (s.pathCap xa).id)) then
        (u, .error lsBadObj)
      else if own fun l => l.st = .lapsing then (u, .error lsScrub)
      else if own Lease.alive then (u, .error lsBusy)
      else if u.shareIn s.self.part s.pathDom < u.reserved (fun l e _ => l.part = s.self.part && e = s.pathDom) + pathBw xa then (u, .error lsNoRes)
      else if 64 ≤ u.used (homeEgress s.pathDom) (fun k => k = 8) ∨ 3000 < u.reserved (fun _ e _ => e = s.pathDom) + pathBw xa ∨
          (isPeer (s.pathCap xa).id ∧
            100 < u.reserved (fun _ _ e => isPeer e && Config.peerPort e % 8 = Config.peerPort (s.pathCap xa).id % 8) + pathBw xa)
      then (u, .error lsNoRes)
      else
        let g := u.grant (homeEgress s.pathDom) (s.pathObj xa) ((s.lacqReq 8 d a b).asker s.self) life
        (g.1, .ok g.2) := by
  have cap : ((s.lacqReq 8 d a b).asker s.self).capId = some (BitVec.ofNat 16 (s.pathCap (s.rx a)).id) := if_pos ⟨rfl, htag⟩
  have id : (BitVec.ofNat 16 (s.pathCap (s.rx a)).id).toNat = (s.pathCap (s.rx a)).id :=
    (BitVec.toNat_ofNat _ _).trans (Nat.mod_eq_of_lt (Capa.id_lt _))
  unfold State.lacqPath
  simp only [cap, id]
  rfl

section
variable (hl : ¬ ((s.rx b).toNat = 0 ∨ 2 ^ 32 ≤ (s.rx b).toNat)) (hs : s.SendsNew 8 d a b)
include hl hs

theorem lacqPath_untagged (htag : (s.pathCap (s.rx a)).tag = false) : LacqAnswers s d (.lacqPath d a b) 3 := by
  refine lacqAnswers_of_refused rfl hs (by decide) ((State.lacqAt_path hl).trans ?_)
  have cap : ((s.lacqReq 8 d a b).asker s.self).capId = none := if_neg fun h => absurd (h.2.symm.trans htag) (by decide)
  simp only [State.lacqPath, cap]
  rfl

variable (htag : (s.pathCap (s.rx a)).tag = true)
include htag

theorem lacqPath_bad (h : s.BadPath (s.rx a)) : LacqAnswers s d (.lacqPath d a b) 3 := by
  refine lacqAnswers_of_refused rfl hs (by decide) ((State.lacqAt_path hl).trans ((State.lacqPath_of_tag htag).trans ?_))
  by_cases h1 : (s.rx a).toNat / 2 ^ 32 ≠ 0 ∨ (s.rx a).toNat % 2 ^ 16 / 8 ≠ 0 ∨ pathBw (s.rx a) = 0 ∨ 3000 < pathBw (s.rx a)
  · exact if_pos h1
  · exact (if_neg h1).trans (if_pos (h.resolve_left h1))

variable (h : ¬ s.BadPath (s.rx a))
include h

theorem lacqPath_ending (hm : s.OwnPath (s.rx a) fun l => l.st = .lapsing) : LacqAnswers s d (.lacqPath d a b) 6 := by
  obtain ⟨fields, id⟩ := not_or.1 h
  have own := State.any_ownPath (f := fun l => l.st = .lapsing).2 (by simpa only [decide_eq_true_eq] using hm)
  exact lacqAnswers_of_refused rfl hs (by decide) ((State.lacqAt_path hl).trans ((State.lacqPath_of_tag htag).trans
    ((if_neg fields).trans ((if_neg id).trans (if_pos own)))))

variable (hm : ¬ s.OwnPath (s.rx a) fun l => l.st = .lapsing)
include hm

theorem lacqPath_mine (hb : s.OwnPath (s.rx a) fun l => l.alive = true) : LacqAnswers s d (.lacqPath d a b) 1 := by
  obtain ⟨fields, id⟩ := not_or.1 h
  have own := mt (State.any_ownPath (f := fun l => l.st = .lapsing)).1 (by simpa only [decide_eq_true_eq] using hm)
  exact lacqAnswers_of_refused rfl hs (by decide) ((State.lacqAt_path hl).trans ((State.lacqPath_of_tag htag).trans
    ((if_neg fields).trans ((if_neg id).trans ((if_neg own).trans (if_pos (State.any_ownPath.2 hb)))))))

variable (hb : ¬ s.OwnPath (s.rx a) fun l => l.alive = true)
include hb

theorem lacqPath_full (hf : s.NoPath (s.rx a)) : LacqAnswers s d (.lacqPath d a b) 2 := by
  obtain ⟨fields, id⟩ := not_or.1 h
  have own := mt (State.any_ownPath (f := fun l => l.st = .lapsing)).1 (by simpa only [decide_eq_true_eq] using hm)
  refine lacqAnswers_of_refused rfl hs (by decide) ((State.lacqAt_path hl).trans ((State.lacqPath_of_tag htag).trans
    ((if_neg fields).trans ((if_neg id).trans ((if_neg own).trans ((if_neg (mt State.any_ownPath.1 hb)).trans ?_))))))
  by_cases h1 : s.shareIn s.self.part s.pathDom < s.reserved (fun l e _ => l.part = s.self.part && e = s.pathDom) + pathBw (s.rx a)
  · exact if_pos h1
  · exact (if_neg h1).trans (if_pos (hf.resolve_left h1))

theorem lacqPath_grants (hf : ¬ s.NoPath (s.rx a)) :
    LacqGrants s d (.lacqPath d a b) (s.pathObj (s.rx a)) (homeEgress s.pathDom) (s.rx b).toNat (s.nextGen (s.pathObj (s.rx a))) fun t n =>
      LacqPlain s t n ∧ ∃ l : Lease, l.obj = s.pathObj (s.rx a) ∧ l.gen = s.nextGen (s.pathObj (s.rx a)) ∧
        t.self.c = (l.rewrites ((s.rx a).toNat % 8) s.self).c := by
  obtain ⟨fields, id⟩ := not_or.1 h
  obtain ⟨share, rest⟩ := not_or.1 hf
  have own := mt (State.any_ownPath (f := fun l => l.st = .lapsing)).1 (by simpa only [decide_eq_true_eq] using hm)
  exact lacqGrants_of_grant rfl hs (fun _ _ e => nomatch e) ((State.lacqAt_path hl).trans ((State.lacqPath_of_tag htag).trans
    ((if_neg fields).trans ((if_neg id).trans ((if_neg own).trans ((if_neg (mt State.any_ownPath.1 hb)).trans ((if_neg share).trans
      (if_neg rest))))))))

end

/-! ## The capability register of a path to a peer -/

theorem setField_toNat {x : BitVec 128} {lo m k : Nat} (h : lo + m ≤ 128) : (setField x lo m k).toNat =
    x.toNat % 2 ^ lo + k % 2 ^ m * 2 ^ lo + x.toNat / 2 ^ (lo + m) * 2 ^ (lo + m) := by
  rw [setField, BitVec.toNat_ofNat, Nat.mod_eq_of_lt]
  have low : x.toNat % 2 ^ lo + k % 2 ^ m * 2 ^ lo < 2 ^ (lo + m) := by
    have h1 : x.toNat % 2 ^ lo < 2 ^ lo := Nat.mod_lt _ (Nat.two_pow_pos _)
    have h2 : (k % 2 ^ m + 1) * 2 ^ lo ≤ 2 ^ m * 2 ^ lo := Nat.mul_le_mul_right _ (Nat.mod_lt _ (Nat.two_pow_pos _))
    rw [Nat.pow_add, Nat.mul_comm (2 ^ lo)]
    rw [Nat.add_mul] at h2
    omega
  have split : 2 ^ 128 = 2 ^ (128 - (lo + m)) * 2 ^ (lo + m) := by rw [← Nat.pow_add, Nat.sub_add_cancel h]
  have high : (x.toNat / 2 ^ (lo + m) + 1) * 2 ^ (lo + m) ≤ 2 ^ 128 := by
    rw [split]
    refine Nat.mul_le_mul_right _ (Nat.div_lt_of_lt_mul ?_)
    rw [Nat.mul_comm, ← split]
    exact x.isLt
  rw [Nat.add_mul] at high
  omega

theorem Capa.perm_toNat (c : Capa) : c.perm.toNat = c.bits.toNat / 2 ^ 112 % 2 ^ 8 := by
  rw [Capa.perm, BitVec.truncate_eq_setWidth, BitVec.toNat_setWidth, BitVec.toNat_ushiftRight, Nat.shiftRight_eq_div_pow]
theorem Capa.kind_toNat (c : Capa) : c.kind.toNat = c.bits.toNat / 2 ^ 120 % 2 ^ 8 := by
  rw [Capa.kind, BitVec.truncate_eq_setWidth, BitVec.toNat_setWidth, BitVec.toNat_ushiftRight, Nat.shiftRight_eq_div_pow]
theorem Capa.gen_toNat (c : Capa) : c.gen.toNat = c.bits.toNat / 2 ^ 96 % 2 ^ 16 := by
  rw [Capa.gen, BitVec.truncate_eq_setWidth, BitVec.toNat_setWidth, BitVec.toNat_ushiftRight, Nat.shiftRight_eq_div_pow]

/-- A path to a peer in the capability: kind 8, and the generation of its grant. -/
theorem peerPath_toNat (x : BitVec 128) (g : Nat) : (setField (setField x 120 8 8) 96 16 g).toNat =
    x.toNat % 2 ^ 96 + g % 2 ^ 16 * 2 ^ 96 + (x.toNat / 2 ^ 112 % 2 ^ 8 + 8 * 2 ^ 8) * 2 ^ 112 := by
  have lt := x.isLt
  rw [setField_toNat (by decide), setField_toNat (by decide)]
  omega

theorem Lease.rewrites_peer {id y k : Nat} (h : l.obj = .path n id y) (hp : isPeer id = true) (c : Ctx) :
    let z := (l.rewrites k c).c? k
    z.tag = (c.c? k).tag ∧ z.bits.toNat % 2 ^ 96 = (c.c? k).bits.toNat % 2 ^ 96 ∧ z.perm = (c.c? k).perm ∧ z.kind = 8 ∧
      z.gen = l.gen.truncate 16 := by
  have z : (l.rewrites k c).c? k =
      { c.c? k with bits := setField (setField (c.c? k).bits 120 8 8) 96 16 (l.gen.toNat % 2 ^ 16) } := by
    rw [Lease.rewrites_path h, if_pos hp]
    exact tget_tset_self _ _ _ _
  dsimp only
  rw [z]
  refine ⟨rfl, ?_, ?_, ?_, ?_⟩
  · rw [peerPath_toNat]; omega
  · apply BitVec.eq_of_toNat_eq
    rw [Capa.perm_toNat, Capa.perm_toNat, peerPath_toNat]
    omega
  · apply BitVec.eq_of_toNat_eq
    rw [Capa.kind_toNat, peerPath_toNat, show (8 : Byte).toNat = 8 by decide]
    omega
  · apply BitVec.eq_of_toNat_eq
    rw [Capa.gen_toNat, peerPath_toNat, BitVec.truncate_eq_setWidth, BitVec.toNat_setWidth]
    omega

/-! ## Groups -/

/-- The Prompter that homes the groups of the asker's die. -/
def State.groupHome (s : State) : Nat := homePrompter (dieOfCell s.self.cell)

section
variable (hl : ¬ ((s.rx b).toNat = 0 ∨ 2 ^ 32 ≤ (s.rx b).toNat)) (hs : s.SendsNew 9 d a b)
include hl hs

theorem lacqGrp_bad (h : s.rx a ≠ 0) : LacqAnswers s d (.lacqGrp d a b) 3 :=
  lacqAnswers_of_refused rfl hs (by decide) ((State.lacqAt_grp hl).trans (if_pos h))

theorem lacqGrp_full (h : s.rx a = 0) (hf : 64 ≤ s.used s.groupHome fun k => k = 9) : LacqAnswers s d (.lacqGrp d a b) 2 :=
  lacqAnswers_of_refused rfl hs (by decide) ((State.lacqAt_grp hl).trans ((if_neg (not_not.2 h)).trans (if_pos hf)))

end

end
end Sys2Proof.Machine
end

section
/-! PROOFS. `lacq` of groups, an answer that the home has kept, and all of `lacq` (05 R119, R120; 19 R352). -/

set_option Elab.async false

namespace Sys2Proof.Machine

section
variable {s u t : State} {r : LeaseReq} {q n kind code home life : Nat} {v : Word} {d a b : BitVec 5} {l : Lease} {i : Instr} {m : Option Nat}

/-! ## Groups -/

/-- A group's lease entry that a new group may take. -/
def State.groupSpare (s : State) : Option (Nat × Lease) :=
  s.leases.find? fun p => p.2.home = s.groupHome && p.2.obj.kind = 9 && p.2.st = .lapsed

/-- The lease number, its index and its count of grants, of a new group. -/
def State.groupEntry (s : State) : Nat × Nat × Nat :=
  match s.groupSpare with
  | some (n, l) => (n, l.index, l.count + 1)
  | none => (tnext s.leases, s.leases.foldl (fun m p => if p.2.home = s.groupHome ∧ p.2.obj.kind = 9 then max m (p.2.index + 1) else m) 0, 1)

/-- The lease of a new group whose number is `g`. -/
def State.groupLease (s : State) (g life : Nat) : Lease :=
  { home := s.groupHome, index := s.groupEntry.2.1, obj := .group g, gen := BitVec.ofNat 24 s.groupEntry.2.2, count := s.groupEntry.2.2
    st := .granted, expiry := s.tickOf s.groupHome + life, parent := s.contextLease s.self.entry, pop := s.self.entry, part := s.self.part
    order := s.grants }

/-- The group is made. -/
def State.withGroup (s : State) (g n : Nat) (l : Lease) (die : Nat) : State :=
  { s with leases := tset s.leases n l, grants := s.grants + 1, groups := tset s.groups g { lease := n, die := die }, fresh := g + 1 }

theorem State.AwaitsReply.withGroup {g die : Nat} (h : s.AwaitsReply u r) : s.AwaitsReply (u.withGroup g n l die) r := h

theorem State.withGroup_found {g die : Nat} : tfind (u.withGroup g n l die).leases n = some l := tfind_tset_self _ _ _

theorem State.lacqGrp_makes (h : s.rx a = 0) (hf : ¬ 64 ≤ s.used s.groupHome fun k => k = 9) :
    (s.asked r).lacqGrp ((s.lacqReq 9 d a b).asker s.self) (s.rx a) life =
      ((s.asked r).withGroup (s.fresh + 2) s.groupEntry.1 (s.groupLease (s.fresh + 2) life) (dieOfCell s.self.cell), .ok s.groupEntry.1) :=
  (if_neg (not_not.2 h)).trans (if_neg hf)

theorem State.groupEntry_spec : ∃ k, s.groupEntry.2.2 = k + 1 ∧ (k = 0 ∧ tfind s.leases s.groupEntry.1 = none ∨
    ∃ p, p ∈ s.leases ∧ p.1 = s.groupEntry.1 ∧ p.2.home = s.groupHome ∧ p.2.obj.kind = 9 ∧ p.2.st = .lapsed ∧ p.2.count = k) := by
  cases h : s.groupSpare with
  | none =>
    have count : s.groupEntry.2.2 = 0 + 1 := by rw [State.groupEntry, h]
    have number : s.groupEntry.1 = tnext s.leases := by rw [State.groupEntry, h]
    exact ⟨0, count, .inl ⟨rfl, number ▸ tfind_tnext _⟩⟩
  | some p =>
    have entry : s.groupEntry = (p.1, p.2.index, p.2.count + 1) := by rw [State.groupEntry, h]
    have spare := List.find?_some h
    rw [Bool.and_eq_true, Bool.and_eq_true, decide_eq_true_eq, decide_eq_true_eq, decide_eq_true_eq] at spare
    obtain ⟨⟨at_, kind⟩, lapsed⟩ := spare
    rw [entry]
    exact ⟨p.2.count, rfl, .inr ⟨p, List.mem_of_find?_eq_some h, rfl, at_, kind, lapsed, rfl⟩⟩

/-- The reply to a request whose home made a group. -/
theorem State.withGroup_answer {g die : Nat} (h : t = { (s.asked r).withGroup g n l die with
      ctxs := t.ctxs, leases := tset ((s.asked r).withGroup g n l die).leases n { l with st := .held }, lreqs := t.lreqs, kept := t.kept }) :
    tfind t.leases n = some { l with st := .held } ∧ (∀ m, m ≠ n → tfind t.leases m = tfind s.leases m) ∧ t.cells = s.cells ∧
      tfind t.groups g = some { lease := n, die := die } := by
  have leases : t.leases = tset (tset s.leases n l) n { l with st := .held } := by rw [h]; rfl
  have groups : t.groups = tset s.groups g { lease := n, die := die } := by rw [h]; rfl
  refine ⟨by rw [leases]; exact tfind_tset_self _ _ _, fun m hm => ?_, by rw [h]; rfl, by rw [groups]; exact tfind_tset_self _ _ _⟩
  rw [leases, tfind_tset_ne _ _ hm, tfind_tset_ne _ _ hm]

theorem lacqGrp_grants (hl : ¬ ((s.rx b).toNat = 0 ∨ 2 ^ 32 ≤ (s.rx b).toNat)) (hs : s.SendsNew 9 d a b) (h : s.rx a = 0)
    (hf : ¬ 64 ≤ s.used s.groupHome fun k => k = 9) :
    ∃ k, LacqGrants s d (.lacqGrp d a b) (.group (s.fresh + 2)) s.groupHome (s.rx b).toNat (BitVec.ofNat 24 (k + 1)) fun t n =>
      tfind t.groups (s.fresh + 2) = some { lease := n, die := dieOfCell s.self.cell } ∧
      (k = 0 ∧ tfind s.leases n = none ∨ ∃ p, p ∈ s.leases ∧ p.1 = n ∧ p.2.home = s.groupHome ∧ p.2.obj.kind = 9 ∧ p.2.st = .lapsed ∧
        p.2.count = k) := by
  obtain ⟨k, count, spec⟩ := s.groupEntry_spec
  obtain ⟨t, ht, done, frame, -⟩ := State.lacq_granted hs ((State.lacqAt_grp hl).trans (State.lacqGrp_makes h hf))
    State.AwaitsReply.asked.withGroup rfl rfl State.withGroup_found rfl fun _ _ e => nomatch e
  obtain ⟨found, others, cells, groups⟩ := State.withGroup_answer frame
  refine ⟨k, t, _, _, ht, ?_, found, others, rfl, rfl, rfl, congrArg (BitVec.ofNat 24) count, rfl, rfl, rfl, cells, groups, spec⟩
  exact done

/-! ## An answer that the home has kept (05 R119) -/

/-- The table of requests holds `r` as number `q`. -/
def State.withReq (u : State) (q : Nat) (r : LeaseReq) : State := { u with lreqs := tset u.lreqs q r }

theorem State.withReq_found : tfind (u.withReq q r).lreqs q = some r := tfind_tset_self _ _ _

theorem State.AwaitsReply.replied_again {p : LeaseReq} (h : s.AwaitsReply u r) (hx : p.ctx = u.cur) :
    s.AwaitsReply ((u.withReq q p).replied q p) r := by
  rw [State.replied_eq (u := u.withReq q p) hx]
  exact h

theorem State.AwaitsReply.heldNow (h : s.AwaitsReply u r) : s.AwaitsReply (u.heldNow n) r := by
  rw [State.heldNow, State.modLease]
  split <;> exact h

theorem State.enterGuards_frame : u.enterGuards n v = { u with cells := (u.enterGuards n v).cells } := by
  unfold State.enterGuards
  dsimp only
  split
  · split
    · split <;> rfl
    · rfl
  · rfl

theorem State.AwaitsReply.enterGuards (h : s.AwaitsReply u r) : s.AwaitsReply (u.enterGuards n v) r := by
  rw [State.enterGuards_frame]
  exact h

theorem State.AwaitsReply.rewritePath_again {p : LeaseReq} (h : s.AwaitsReply u r) (hx : p.ctx = u.cur) : s.AwaitsReply (u.rewritePath p n) r := by
  cases hn : tfind u.leases n with
  | none => rw [State.rewritePath, hn]; exact h
  | some l =>
    obtain ⟨frame, self⟩ := State.rewritePath_spec hn hx
    obtain ⟨now, ctx⟩ := h
    have new : (u.rewritePath p n).self = { u.self with c := (u.rewritePath p n).self.c, badRegs := (u.rewritePath p n).self.badRegs } := by
      rw [self]
      exact l.rewrites_eq _ _
    refine ⟨?_, ?_⟩
    · rw [← now, State.now, new, frame]
      rfl
    · rw [new, ctx]

theorem State.rewritePath_frame : u.rewritePath r n = { u with ctxs := (u.rewritePath r n).ctxs } := by
  unfold State.rewritePath
  split
  · split
    · split <;> rfl
    · rfl
  · rfl

theorem State.heldNow_frame : u.heldNow n = { u with leases := (u.heldNow n).leases } := by
  rw [State.heldNow, State.modLease]
  split <;> rfl

theorem State.heldNow_others {k : Nat} (h : k ≠ n) : tfind (u.heldNow n).leases k = tfind u.leases k := by
  rw [State.heldNow, State.modLease]
  split
  · exact tfind_tset_ne _ _ h
  · rfl

/-- Nothing that a grant writes has changed, but for the leases of number `m`. -/
def State.GrantedNothing (s t : State) (m : Option Nat) : Prop :=
  t.grants = s.grants ∧ t.pages = s.pages ∧ t.groups = s.groups ∧ ∀ k, m ≠ some k → tfind t.leases k = tfind s.leases k

theorem State.GrantedNothing.asked {p : LeaseReq} : s.GrantedNothing (((s.asked r).withReq q p).replied q p) m :=
  ⟨rfl, rfl, rfl, fun _ _ => rfl⟩

theorem State.GrantedNothing.reply {p : LeaseReq} (h : s.GrantedNothing u (some n)) :
    s.GrantedNothing (((u.heldNow n).enterGuards n v).rewritePath p n) (some n) := by
  rw [State.rewritePath_frame, State.enterGuards_frame, State.heldNow_frame]
  obtain ⟨grants, pages, groups, others⟩ := h
  refine ⟨grants, pages, groups, fun k hk => ?_⟩
  exact (State.heldNow_others fun e => hk (congrArg some e.symm)).trans (others k hk)

theorem State.GrantedNothing.finished (h : s.GrantedNothing u m) : s.GrantedNothing (((u.numbered (.lacq kind)).wx d v).finish) m := h

theorem State.lacq_again (ha : ¬ (kind = 4 ∧ 12 ≤ (s.rx a).toNat ∧ s.self.pl = 0)) (hm : kind = 2 ∨ kind = 3 ∨ kind = 4 ∨ s.holds = [])
    (hk : s.keptAnswer s.cur s.self.leaseNum = some (v, m)) :
    ∃ t, s.lacq kind d a b = .next t ∧ LacqDone s t d v ∧ s.GrantedNothing t m := by
  have replies := State.lacq_eq (d := d) (b := b) ha hm
  rw [State.arrives_kept (r := s.lacqReq kind d a b) rfl rfl hk] at replies
  have found : tfind ((s.asked (s.lacqReq kind d a b)).withReq s.fresh ((s.lacqReq kind d a b).answered (s.fresh + 1) v m)).lreqs s.fresh =
    some ((s.lacqReq kind d a b).answered (s.fresh + 1) v m) := State.withReq_found
  have awaits := (State.AwaitsReply.asked (s := s) (r := s.lacqReq kind d a b)).replied_again (q := s.fresh)
    (p := (s.lacqReq kind d a b).answered (s.fresh + 1) v m) rfl
  have nothing := State.GrantedNothing.asked (s := s) (r := s.lacqReq kind d a b) (m := m) (q := s.fresh)
    (p := (s.lacqReq kind d a b).answered (s.fresh + 1) v m)
  have waits := State.wait_asked (s := s) (r := s.lacqReq kind d a b)
  cases m with
  | none =>
    have reply := replies.trans (congrArg _ (State.leaseReply_ungranted found rfl rfl waits))
    exact ⟨_, reply, (awaits.done (kind := kind) (d := d) (v := v)).1, nothing.finished (kind := kind) (d := d) (v := v)⟩
  | some n =>
    have reply := replies.trans (congrArg _ (State.leaseReply_granted found rfl rfl waits rfl))
    have guarded := (awaits.heldNow (n := n)).enterGuards (n := n) (v := v)
    have rewritten := guarded.rewritePath_again (n := n) (p := (s.lacqReq kind d a b).answered (s.fresh + 1) v (some n))
      (by rw [State.enterGuards_frame, State.heldNow_frame]; rfl)
    exact ⟨_, reply, (rewritten.done (kind := kind) (d := d) (v := v)).1, nothing.reply.finished (kind := kind) (d := d) (v := v)⟩

theorem lacqCls_priv (h : 12 ≤ (s.rx a).toNat) (hp : s.self.pl = 0) (hh : s.hasHandler) : Traps (.lacqCls d a b) s 0x02 0 :=
  traps_of_trap (if_pos ⟨rfl, h, hp⟩) hh (by decide) (by decide)

end
end Sys2Proof.Machine
end

section
/-! PROOFS. A lease request is answered by the tests in their order or granted (05 R115-R120). -/

set_option Elab.async false

namespace Sys2Proof.Machine

section
variable {s : State} {d a b : BitVec 5} {kind : Nat}

theorem State.SendsNew.of_sent
    (h : s.keptAnswer s.cur s.self.leaseNum = none ∧ s.heldOver ((s.lacqReq kind d a b).asker s.self) kind (s.rx a) = false ∧
      (kind = 2 ∨ kind = 3 ∨ kind = 4 ∨ s.holds = []))
    (allowed : ¬ (kind = 4 ∧ 12 ≤ (s.rx a).toNat ∧ s.self.pl = 0)) : s.SendsNew kind d a b :=
  ⟨allowed, h.2.2, h.1, h.2.1⟩

/-! ## The objects' fields, as R120, R219, R334 and R339 name them -/

theorem spObject_good {x size : Nat} :
    (x / 256 % 16 = 0 ∧ Config.viewBase ≤ x / 4096 * 4096 ∧ x / 4096 * 4096 + (x % 256 + 1) * 4096 ≤ Config.viewBase + size) ↔
      ¬ (x % 4096 / 256 ≠ 0 ∨ x / 4096 * 4096 < Config.viewBase ∨ Config.viewBase + size < x / 4096 * 4096 + (x % 256 + 1) * 4096) := by
  omega

theorem residency_good {x : Nat} : (2 ^ 32 ≤ x / 2 ^ 16 * 2 ^ 16 ∧ x / 2 ^ 16 * 2 ^ 16 + (x % 2 ^ 13 + 1) * 2 ^ 16 ≤ 2 ^ 48) ↔
    ¬ (x / 0x1_0000 * 0x1_0000 < Config.memBase ∨ Config.memTop < x / 0x1_0000 * 0x1_0000 + (x % 2 ^ 13 + 1) * 0x1_0000) := by
  have base : Config.memBase = 2 ^ 32 := by decide
  have top : Config.memTop = 2 ^ 48 := by decide
  omega

theorem page_good {xa : Word} : (xa.toNat % pageSize xa / 4 = 0 ∧ 2 ^ 32 ≤ pageVa xa ∧ pageVa xa + pageSize xa ≤ 2 ^ 48) ↔ ¬ BadPage xa := by
  have base : Config.memBase = 2 ^ 32 := by decide
  have top : Config.memTop = 2 ^ 48 := by decide
  rw [BadPage, base, top]
  omega

theorem State.meets_scrub {o : LeaseObj} : (s.Meets o fun l => (l.st = .lapsing || l.st = .scrubbing) = true) ↔
    s.Meets o fun l => l.st = .lapsing ∨ l.st = .scrubbing := by
  simp only [State.Meets, Bool.or_eq_true, decide_eq_true_eq]

theorem isPeer_iff {id : Nat} : isPeer id = true ↔ 0x100 ≤ id ∧ id ≤ 0x1FF := by
  rw [isPeer, decide_eq_true_iff]

theorem State.path_good {xa : Word} :
    (xa.toNat / 2 ^ 32 = 0 ∧ xa.toNat % 2 ^ 16 / 8 = 0 ∧ 1 ≤ pathBw xa ∧ pathBw xa ≤ 3000 ∧ (s.pathCap xa).id ≠ s.pathDom ∧
      ((s.pathCap xa).id < 8 ∨ ((0x100 ≤ (s.pathCap xa).id ∧ (s.pathCap xa).id ≤ 0x1FF) ∧ s.peerUp (s.pathCap xa).id = true))) ↔
      ¬ s.BadPath xa := by
  have id : (!(decide ((s.pathCap xa).id < 8) || (isPeer (s.pathCap xa).id && s.peerUp (s.pathCap xa).id))) = true ↔
      ¬ ((s.pathCap xa).id < 8 ∨ ((0x100 ≤ (s.pathCap xa).id ∧ (s.pathCap xa).id ≤ 0x1FF) ∧ s.peerUp (s.pathCap xa).id = true)) := by
    rw [Bool.not_eq_true', ← Bool.not_eq_true, Bool.or_eq_true, Bool.and_eq_true, decide_eq_true_iff, isPeer_iff]
  rw [State.BadPath, id]
  generalize s.peerUp (s.pathCap xa).id = up
  cases up <;> simp <;> omega

theorem State.noPath_iff {xa : Word} : s.NoPath xa ↔
    s.shareIn s.self.part s.pathDom < s.reserved (fun l e _ => l.part = s.self.part && e = s.pathDom) + pathBw xa ∨
    64 ≤ s.used (homeEgress s.pathDom) (fun k => k = 8) ∨ 3000 < s.reserved (fun _ e _ => e = s.pathDom) + pathBw xa ∨
    ((0x100 ≤ (s.pathCap xa).id ∧ (s.pathCap xa).id ≤ 0x1FF) ∧
      100 < s.reserved (fun _ _ e => isPeer e && Config.peerPort e % 8 = Config.peerPort (s.pathCap xa).id % 8) + pathBw xa) := by
  rw [State.NoPath, isPeer_iff]

/-- Which capability registers the grant of a path leaves, and what it writes into the one it names (18 R340). -/
theorem pathCap_rewritten {t : State} {l : Lease} (hp : l.obj = s.pathObj (s.rx a)) (hg : l.gen = s.nextGen (s.pathObj (s.rx a)))
    (hc : t.self.c = (l.rewrites ((s.rx a).toNat % 8) s.self).c) (k : BitVec 3) :
    let peer : Prop := 0x100 ≤ (s.pathCap (s.rx a)).id ∧ (s.pathCap (s.rx a)).id ≤ 0x1FF
    (peer ∧ k = (s.rx a).truncate 3 → (t.rc k).tag = (s.pathCap (s.rx a)).tag ∧
      (t.rc k).bits.toNat % 2 ^ 96 = (s.pathCap (s.rx a)).bits.toNat % 2 ^ 96 ∧ (t.rc k).perm = (s.pathCap (s.rx a)).perm ∧
      (t.rc k).kind = 8 ∧ (t.rc k).gen = (s.nextGen (s.pathObj (s.rx a))).truncate 16) ∧
    (¬ (peer ∧ k = (s.rx a).truncate 3) → t.rc k = s.rc k) := by
  have number : ((s.rx a).truncate 3 : BitVec 3).toNat = (s.rx a).toNat % 8 := BitVec.toNat_setWidth _ _
  have read (k : BitVec 3) : t.rc k = (l.rewrites ((s.rx a).toNat % 8) s.self).c? k.toNat := congrArg (fun c => tget ({} : Capa) c k.toNat) hc
  intro peer
  constructor
  · rintro ⟨hpeer, rfl⟩
    have written := l.rewrites_peer (k := (s.rx a).toNat % 8) hp (isPeer_iff.2 hpeer) s.self
    have named : s.pathCap (s.rx a) = s.self.c? ((s.rx a).toNat % 8) := congrArg s.self.c? number
    rw [read, named, number, ← hg]
    exact written
  · intro h
    rw [read, Lease.rewrites_path hp]
    split
    · next hpeer =>
      refine tget_tset_ne _ _ _ fun e => h ⟨isPeer_iff.1 hpeer, BitVec.eq_of_toNat_eq ?_⟩
      exact e.trans number.symm
    · rfl

/-- The request of every kind whose life is out of range. -/
theorem lacqAnswers_lives {j : Nat × Instr} (hj : j ∈ [(2, Instr.lacqSp d a b), (3, .lacqAcc d a b), (4, .lacqCls d a b), (5, .lacqL2 d a b),
    (6, .lacqPage d a b), (8, .lacqPath d a b), (9, .lacqGrp d a b)]) (hs : s.SendsNew j.1 d a b)
    (hl : (s.rx b).toNat = 0 ∨ 2 ^ 32 ≤ (s.rx b).toNat) : LacqAnswers s d j.2 4 := by
  have meaning : exec j.2 s = s.lacq j.1 d a b := by
    simp only [List.mem_cons, List.not_mem_nil, or_false] at hj
    rcases hj with rfl | rfl | rfl | rfl | rfl | rfl | rfl <;> rfl
  exact lacqAnswers_life meaning hs hl

/-- The request of every kind but 4 whose answer is kept. -/
theorem lacq_kept {i : Instr} {v : Word} {m : Option Nat} (hi : i ∈ [Instr.lacqSp d a b, .lacqAcc d a b, .lacqL2 d a b, .lacqPage d a b,
    .lacqPath d a b, .lacqGrp d a b]) (hk : s.keptAnswer s.cur s.self.leaseNum = some (v, m)) (hh : s.holds = []) :
    ∃ t, exec i s = .next t ∧ LacqDone s t d v ∧ s.GrantedNothing t m := by
  have again (kind : Nat) (hkind : kind ≠ 4) := State.lacq_again (kind := kind) (d := d) (a := a) (b := b) (fun h => hkind h.1) (.inr (.inr (.inr hh))) hk
  simp only [List.mem_cons, List.not_mem_nil, or_false] at hi
  rcases hi with rfl | rfl | rfl | rfl | rfl | rfl
  · exact again 2 (by decide)
  · exact again 3 (by decide)
  · exact again 5 (by decide)
  · exact again 6 (by decide)
  · exact again 8 (by decide)
  · exact again 9 (by decide)

end

/-- Settles O41: each kind's request arrives at its home, which tests it, writes the lease or refuses, and replies. -/
theorem leaseAcquisition : Obligations.LeaseAcquisition := by
  unfold Obligations.LeaseAcquisition
  intro d a b s c xa life cap who sent done answers grants plain next settles inCell lives dom
  have new (kind : Nat) (h : sent kind) (allowed : ¬ (kind = 4 ∧ 12 ≤ (s.rx a).toNat ∧ s.self.pl = 0)) : s.SendsNew kind d a b :=
    .of_sent h allowed
  have short (h : lives) : ¬ ((s.rx b).toNat = 0 ∨ 2 ^ 32 ≤ (s.rx b).toNat) := by
    obtain ⟨h1, h2⟩ := h
    change 0 < (s.rx b).toNat at h1
    change (s.rx b).toNat < 2 ^ 32 at h2
    omega
  refine ⟨fun j hj hs hl allowed => ?_, fun h hp hh => lacqCls_priv h hp hh, fun v n hk hh i hi => lacq_kept hi hk hh, fun hl => ?_⟩
  · have long : (s.rx b).toNat = 0 ∨ 2 ^ 32 ≤ (s.rx b).toNat := by
      change ¬ (0 < (s.rx b).toNat ∧ (s.rx b).toNat < 2 ^ 32) at hl
      omega
    exact lacqAnswers_lives hj (new j.1 hs allowed) long
  · have lives := short hl
    refine ⟨fun hs => ?_, fun hs => ?_, fun hs hp => ?_, fun hs => ?_, fun hs => ?_, fun hs => ?_, fun hs => ?_⟩
    · have sends := new 2 hs (by omega)
      exact ⟨fun h => lacqSp_bad lives sends (not_not.1 (mt spObject_good.2 h)), fun h => lacqSp_good lives sends (spObject_good.1 h)⟩
    · have sends := new 3 hs (by omega)
      exact ⟨fun h => lacqAcc_bad lives sends h, fun h => lacqAcc_good lives sends (Nat.not_le.2 h)⟩
    · have sends := new 4 hs fun h => hp h.2.1 h.2.2
      exact ⟨fun h => lacqCls_bad lives sends h, fun h => lacqCls_good lives sends (Nat.not_le.2 h)⟩
    · have sends := new 5 hs (by omega)
      exact ⟨fun h => lacqL2_bad lives sends (not_not.1 (mt residency_good.2 h)), fun h hm => lacqL2_others lives sends (residency_good.1 h) hm,
        fun h hm => lacqL2_settles lives sends (residency_good.1 h) hm⟩
    · have sends := new 6 hs (by omega)
      refine ⟨fun h => lacqPage_bad lives sends (not_not.1 (mt page_good.2 h)),
        fun h hm => lacqPage_scrubbed lives sends (page_good.1 h) (State.meets_scrub.2 hm),
        fun h hm hb => lacqPage_backed lives sends (page_good.1 h) (mt State.meets_scrub.1 hm) hb,
        fun h hm hb hp => lacqPage_unplaced lives sends (page_good.1 h) (mt State.meets_scrub.1 hm) hb hp,
        fun h hm hb g f hp => lacqPage_grants lives sends (page_good.1 h) (mt State.meets_scrub.1 hm) hb hp⟩
    · have sends := new 8 hs (by omega)
      refine ⟨fun h => ?_, fun h hm => lacqPath_ending lives sends h.1 (State.path_good.1 h.2) hm,
        fun h hm => lacqPath_mine lives sends h.1 (State.path_good.1 h.2) hm.1 hm.2,
        fun h hm hb hf => lacqPath_full lives sends h.1 (State.path_good.1 h.2) hm (fun own => hb ⟨hm, own⟩) (State.noPath_iff.2 hf),
        fun h hm hb hf => ?_⟩
      · by_cases htag : (s.pathCap (s.rx a)).tag = true
        · exact lacqPath_bad lives sends htag (not_not.1 fun hb => h ⟨htag, State.path_good.2 hb⟩)
        · exact lacqPath_untagged lives sends (Bool.not_eq_true _ ▸ htag)
      · refine (lacqPath_grants lives sends h.1 (State.path_good.1 h.2) hm (fun own => hb ⟨hm, own⟩) (mt State.noPath_iff.1 hf)).imp ?_
        rintro t n ⟨plain, l, obj, gen, caps⟩
        exact ⟨plain, pathCap_rewritten obj gen caps⟩
    · have sends := new 9 hs (by omega)
      exact ⟨fun h => lacqGrp_bad lives sends h, fun h hf => lacqGrp_full lives sends h hf,
        fun h hf => lacqGrp_grants lives sends h (Nat.not_le.2 hf)⟩

end Sys2Proof.Machine
end

section
/-! PROOFS. A request about leases that its home answers at once: renew, life, lgen and lpar (05 R121-R124; 08 R193). -/

set_option Elab.async false

namespace Sys2Proof.Machine

section
variable {s u t : State} {r p : LeaseReq} {q n k kind : Nat} {v : Word} {d a b : BitVec 5} {l : Lease} {i : Instr}

/-! ## The answer's effect -/

/-- The answer `v` is in xd, and the context goes on; it waited for its home in between. -/
def PlainDone (s t : State) (d : BitVec 5) (v : Word) : Prop :=
  (∀ r : BitVec 5, t.rx r = if r = d ∧ r ≠ 0 then v else s.rx r) ∧
    t.self = { s.self with
      pc := s.self.pc + 4, charged := false, wait := .none, sst := .ready, readySince := s.now, lastTry := s.now
      x := t.self.x, badRegs := t.self.badRegs }

/-- The context as the reply of a request other than `lacq` and `llk` finds it. -/
def State.AwaitsPlain (s u : State) (r : LeaseReq) : Prop := u.now = s.now ∧ u.self = (s.asked r).self

theorem State.AwaitsPlain.asked : s.AwaitsPlain (s.asked r) r := ⟨State.now_asked, rfl⟩

theorem State.AwaitsPlain.replied (h : s.AwaitsPlain u r) (hx : p.ctx = u.cur) : s.AwaitsPlain ((u.withReq q p).replied q p) r := by
  rw [State.replied_eq (u := u.withReq q p) hx]
  exact h

theorem State.AwaitsPlain.done (h : s.AwaitsPlain u r) : PlainDone s ((u.wx d v).finish) d v := by
  obtain ⟨now, ctx⟩ := h
  obtain ⟨-, keeps, xs⟩ := u.wroteX_result d v
  have stalled : u.self.sst = .stalled := by rw [ctx, State.self_asked]
  rw [now, Ctx.doneAt_stalled stalled] at keeps
  refine ⟨fun k => (xs k).trans ?_, ?_⟩
  · have same : u.rx k = s.rx k := by
      show Ctx.x? _ _ = Ctx.x? _ _
      rw [ctx, State.self_asked]
      rfl
    rw [same]
  · rw [keeps, ctx, State.self_asked]

/-- An operation whose reply leaves the request number alone. -/
def LeaseOp.Unnumbered (op : LeaseOp) : Prop := ∀ u : State, u.numbered op = u

theorem LeaseOp.unnumbered_life : LeaseOp.life.Unnumbered := fun _ => rfl
theorem LeaseOp.unnumbered_lgen : LeaseOp.lgen.Unnumbered := fun _ => rfl
theorem LeaseOp.unnumbered_lpar : LeaseOp.lpar.Unnumbered := fun _ => rfl

theorem State.wx_frame : (u.wx d v).finish = { u with ctxs := ((u.wx d v).finish).ctxs } := rfl

theorem State.plain_frame (hx : p.ctx = u.cur) (ht : t = (((u.withReq q p).replied q p).wx d v).finish) :
    t = { u with ctxs := t.ctxs, lreqs := t.lreqs } := by
  rw [ht, State.replied_eq (u := u.withReq q p) hx]
  exact State.wx_frame

/-- The reply of a request that its home, in state `u`, answered at once. -/
theorem State.reply_plain (h : s.AwaitsPlain u r) (hx : r.ctx = s.cur) (hcur : s.cur = u.cur) (hop : r.op.Unnumbered) :
    ∃ t, (u.withReq s.fresh (r.answered k v none)).leaseReply s.fresh = t ∧ PlainDone s t r.xd v ∧
      t = { u with ctxs := t.ctxs, lreqs := t.lreqs } := by
  have same : u.ctx r.ctx = u.self := congrArg u.ctx (hx.trans hcur)
  have waits : (u.ctx r.ctx).wait = .lease s.fresh := by rw [same, h.2, State.self_asked]
  have reply := State.leaseReply_ungranted (u := u.withReq s.fresh (r.answered k v none)) State.withReq_found rfl rfl waits
  have plain : ((u.withReq s.fresh (r.answered k v none)).replied s.fresh (r.answered k v none)).numbered (r.answered k v none).op =
    (u.withReq s.fresh (r.answered k v none)).replied s.fresh (r.answered k v none) := hop _
  rw [plain] at reply
  exact ⟨_, reply, (h.replied (p := r.answered k v none) (hx.trans hcur)).done, State.plain_frame (p := r.answered k v none) (hx.trans hcur) rfl⟩

/-! ## What the home answers -/

section
variable (hx : r.ctx = s.cur)
include hx

theorem State.arrives_life (hop : r.op = .life) : (s.sentOff r).leaseArrives s.fresh =
    (s.asked r).withReq s.fresh (r.answered (s.fresh + 1) ((s.asked r).lifeAt (s.asked r).self r.xa) none) := by
  have sent : tfind (s.sentOff r).lreqs s.fresh = some r := tfind_tset_self _ _ _
  simp only [State.leaseArrives, sent, State.ctx_sentOff_found hx, hop, State.withReq, LeaseReq.answered]
  rw [State.self_asked]
  rfl

theorem State.arrives_lgen (hop : r.op = .lgen) : (s.sentOff r).leaseArrives s.fresh =
    (s.asked r).withReq s.fresh (r.answered (s.fresh + 1) ((s.asked r).lgenAt (s.asked r).self r.xa) none) := by
  have sent : tfind (s.sentOff r).lreqs s.fresh = some r := tfind_tset_self _ _ _
  simp only [State.leaseArrives, sent, State.ctx_sentOff_found hx, hop, State.withReq, LeaseReq.answered]
  rw [State.self_asked]
  rfl

theorem State.arrives_lpar (hop : r.op = .lpar) {w : State} (hat : (s.asked r).lparAt (s.asked r).self r.xa r.xb = (w, v)) :
    (s.sentOff r).leaseArrives s.fresh = w.withReq s.fresh (r.answered (s.fresh + 1) v none) := by
  have sent : tfind (s.sentOff r).lreqs s.fresh = some r := tfind_tset_self _ _ _
  rw [State.self_asked] at hat
  simp only [State.leaseArrives, sent, State.ctx_sentOff_found hx, hop, State.withReq, LeaseReq.answered]
  exact congrArg (fun y : State × Word => ({ y.1 with lreqs := tset y.1.lreqs s.fresh { r with
    op := .lpar, order := s.fresh + 1, answer := some y.2, granted := none, held := false } } : State)) hat

end

/-- An answer that changes the table of requests and the acting context alone. -/
def LeaseAnswers (s : State) (d : BitVec 5) (i : Instr) (v : Word) : Prop :=
  ∃ t, exec i s = .next t ∧ t = { s with ctxs := t.ctxs, lreqs := t.lreqs, fresh := s.fresh + 2 } ∧ PlainDone s t d v

theorem State.asked_plain_frame (h : t = { s.asked r with ctxs := t.ctxs, lreqs := t.lreqs }) :
    t = { s with ctxs := t.ctxs, lreqs := t.lreqs, fresh := s.fresh + 2 } := h

theorem leaseAnswers_of_arrives {own : Bool} (hi : exec i s = .next (s.sendLease r own false)) (hh : s.holds = []) (hx : r.ctx = s.cur)
    (hop : r.op.Unnumbered)
    (ha : (s.sentOff r).leaseArrives s.fresh = (s.asked r).withReq s.fresh (r.answered (s.fresh + 1) v none)) :
    LeaseAnswers s r.xd i v := by
  obtain ⟨t, reply, done, frame⟩ := State.reply_plain (k := s.fresh + 1) (v := v) (State.AwaitsPlain.asked (s := s) (r := r)) hx rfl hop
  rw [State.sendLease_eq (.inr hh), ha, reply] at hi
  exact ⟨t, hi, State.asked_plain_frame frame, done⟩

theorem lifeAnswers (hh : s.holds = []) (hv : s.lifeAt s.self (s.rx a) = v) : LeaseAnswers s d (.life d a) v := by
  have same (r : LeaseReq) : (s.asked r).lifeAt (s.asked r).self (s.rx a) = s.lifeAt s.self (s.rx a) := by rw [State.self_asked]; rfl
  rw [← hv, ← same]
  exact leaseAnswers_of_arrives rfl hh rfl LeaseOp.unnumbered_life (r := { ctx := s.cur, op := .life, xa := s.rx a, xd := d }) (State.arrives_life rfl rfl)

theorem lgenAnswers (hh : s.holds = []) (hv : s.lgenAt s.self (s.rx a) = v) : LeaseAnswers s d (.lgen d a) v := by
  have same (r : LeaseReq) : (s.asked r).lgenAt (s.asked r).self (s.rx a) = s.lgenAt s.self (s.rx a) := by rw [State.self_asked]; rfl
  rw [← hv, ← same]
  exact leaseAnswers_of_arrives rfl hh rfl LeaseOp.unnumbered_lgen (r := { ctx := s.cur, op := .lgen, xa := s.rx a, xd := d }) (State.arrives_lgen rfl rfl)

end
end Sys2Proof.Machine
end

section
/-! PROOFS. Renewals, and the parents of leases (05 R121, R124; 08 R198). -/

set_option Elab.async false

namespace Sys2Proof.Machine

section
variable {s u t : State} {r r' : LeaseReq} {c : Ctx} {n p k die : Nat} {v xa xb : Word} {d a b : BitVec 5} {l q : Lease} {i : Instr} {own : Bool}

/-! ## lpar: its tests in their order -/

/-- A handle of a lease that its population cannot move (18 R354). -/
def Sealed (h : Word) : Prop := handleKind h = 10 ∨ handleKind h = 11

theorem sealed_iff {h : Word} : (handleKind h = 10 || handleKind h = 11) = true ↔ Sealed h := by
  rw [Bool.or_eq_true, decide_eq_true_iff, decide_eq_true_iff, Sealed]

theorem State.lparAt_bad (h : badHandle xa = true ∨ badHandle xb = true) : u.lparAt c xa xb = (u, status lsBadObj) :=
  if_pos (Bool.or_eq_true _ _ |>.mpr h)

section
variable (ha : badHandle xa = false) (hb : badHandle xb = false)
include ha hb

theorem State.lparAt_sealed (hp : c.pl = 0) (h : Sealed xa ∨ Sealed xb) : u.lparAt c xa xb = (u, status lsBadObj) := by
  have fine : ¬ (badHandle xa || badHandle xb) = true := by rw [ha, hb]; decide
  exact (if_neg fine).trans <| if_pos ⟨hp, h.imp sealed_iff.2 sealed_iff.2⟩

variable (ho : c.pl ≠ 0 ∨ (¬ Sealed xa ∧ ¬ Sealed xb))
include ho

/-- What is tested of the two leases. -/
theorem State.lparAt_tested : u.lparAt c xa xb = match u.leaseOf xa (dieOfCell c.cell), u.leaseOf xb (dieOfCell c.cell) with
    | some (n, l), some (p, q) =>
      if !l.alive || !q.alive then (u, status lsStale)
      else if l.part ≠ c.part ∨ q.part ≠ c.part then (u, status lsBadObj)
      else if u.isUnder n 8 p || decide (4 < u.depthOf 8 p + u.heightOf 8 n) then (u, status lsDepth)
      else (u.setParent n p, 0)
    | _, _ => (u, status lsStale) := by
  have open_ : ¬ (c.pl = 0 ∧ ((handleKind xa = 10 || handleKind xa = 11) = true ∨ (handleKind xb = 10 || handleKind xb = 11) = true)) :=
    fun ⟨hp, h⟩ => ho.elim (· hp) fun ⟨h1, h2⟩ => h.elim (h1 ∘ sealed_iff.1) (h2 ∘ sealed_iff.1)
  have fine : ¬ (badHandle xa || badHandle xb) = true := by rw [ha, hb]; decide
  exact (if_neg fine).trans (if_neg open_)

theorem State.lparAt_none (h : u.leaseOf xa (dieOfCell c.cell) = none ∨ u.leaseOf xb (dieOfCell c.cell) = none) :
    u.lparAt c xa xb = (u, status lsStale) := by
  rw [State.lparAt_tested ha hb ho]
  obtain h | h := h
  · rw [h]
  · rw [h]
    cases u.leaseOf xa (dieOfCell c.cell) <;> rfl

variable (hl : u.leaseOf xa (dieOfCell c.cell) = some (n, l)) (hq : u.leaseOf xb (dieOfCell c.cell) = some (p, q))
include hl hq

theorem State.lparAt_found : u.lparAt c xa xb =
    if !l.alive || !q.alive then (u, status lsStale)
    else if l.part ≠ c.part ∨ q.part ≠ c.part then (u, status lsBadObj)
    else if u.isUnder n 8 p || decide (4 < u.depthOf 8 p + u.heightOf 8 n) then (u, status lsDepth)
    else (u.setParent n p, 0) := by
  rw [State.lparAt_tested ha hb ho, hl, hq]

theorem State.lparAt_dead (h : l.alive = false ∨ q.alive = false) : u.lparAt c xa xb = (u, status lsStale) := by
  rw [State.lparAt_found ha hb ho hl hq]
  refine if_pos ?_
  rw [Bool.or_eq_true, Bool.not_eq_true', Bool.not_eq_true']
  exact h

variable (la : l.alive = true) (qa : q.alive = true)
include la qa

theorem State.lparAt_foreign (h : l.part ≠ c.part ∨ q.part ≠ c.part) : u.lparAt c xa xb = (u, status lsBadObj) := by
  rw [State.lparAt_found ha hb ho hl hq, la, qa]
  exact if_pos h

variable (lp : l.part = c.part) (qp : q.part = c.part)
include lp qp

theorem State.lparAt_placed : u.lparAt c xa xb =
    if u.isUnder n 8 p || decide (4 < u.depthOf 8 p + u.heightOf 8 n) then (u, status lsDepth) else (u.setParent n p, 0) := by
  rw [State.lparAt_found ha hb ho hl hq, la, qa]
  exact if_neg (not_or.2 ⟨not_not.2 lp, not_not.2 qp⟩)

theorem State.lparAt_deep (h : u.isUnder n 8 p = true ∨ 4 < u.depthOf 8 p + u.heightOf 8 n) : u.lparAt c xa xb = (u, status lsDepth) := by
  rw [State.lparAt_placed ha hb ho hl hq la qa lp qp]
  refine if_pos ?_
  rw [Bool.or_eq_true, decide_eq_true_iff]
  exact h

theorem State.lparAt_links (hu : u.isUnder n 8 p = false) (hd : u.depthOf 8 p + u.heightOf 8 n ≤ 4) :
    u.lparAt c xa xb = (u.setParent n p, 0) := by
  rw [State.lparAt_placed ha hb ho hl hq la qa lp qp]
  refine if_neg ?_
  rw [Bool.or_eq_true, decide_eq_true_iff, hu]
  exact not_or.2 ⟨Bool.false_ne_true, Nat.not_lt.2 hd⟩

end

/-! ## lpar: the tree of leases, and its answer -/

theorem State.depthOf_congr (h : u.leases = s.leases) : u.depthOf k n = s.depthOf k n := by
  induction k generalizing n with
  | zero => rfl
  | succ k ih => simp only [State.depthOf, h, ih]

theorem State.isUnder_congr (h : u.leases = s.leases) : u.isUnder n k p = s.isUnder n k p := by
  induction k generalizing p with
  | zero => rfl
  | succ k ih => simp only [State.isUnder, h, ih]

theorem State.heightOf_congr (h : u.leases = s.leases) : u.heightOf k n = s.heightOf k n := by
  induction k generalizing n with
  | zero => rfl
  | succ k ih => simp only [State.heightOf, h, ih]

theorem State.lparAt_self : (s.asked r).lparAt (s.asked r).self xa xb = (s.asked r).lparAt s.self xa xb := by
  rw [State.self_asked]
  rfl

/-- The request of an `lpar`. -/
def State.lparReq (s : State) (d a b : BitVec 5) : LeaseReq := { ctx := s.cur, op := .lpar, xa := s.rx a, xb := s.rx b, xd := d }

theorem lparAnswers_of_refused (hh : s.holds = [])
    (hat : (s.asked (s.lparReq d a b)).lparAt s.self (s.rx a) (s.rx b) = (s.asked (s.lparReq d a b), v)) : LeaseAnswers s d (.lpar d a b) v :=
  leaseAnswers_of_arrives (r := s.lparReq d a b) rfl hh rfl LeaseOp.unnumbered_lpar
    (State.arrives_lpar rfl rfl (State.lparAt_self.trans hat))

theorem State.setParent_frame : u.setParent n p = { u with leases := (u.setParent n p).leases } := by
  unfold State.setParent
  split
  · split
    · rfl
    · rw [State.modLease]
      split <;> rfl
  · rfl

theorem State.AwaitsPlain.withLeases {ls : Table Lease} (h : s.AwaitsPlain u r) : s.AwaitsPlain { u with leases := ls } r := h

theorem lpar_linked (hh : s.holds = [])
    (hat : (s.asked (s.lparReq d a b)).lparAt s.self (s.rx a) (s.rx b) = ((s.asked (s.lparReq d a b)).setParent n p, 0)) :
    ∃ t, exec (.lpar d a b) s = .next t ∧ PlainDone s t d 0 ∧ t.leases = ((s.asked (s.lparReq d a b)).setParent n p).leases := by
  have frame := State.setParent_frame (u := s.asked (s.lparReq d a b)) (n := n) (p := p)
  have awaits : s.AwaitsPlain ((s.asked (s.lparReq d a b)).setParent n p) (s.lparReq d a b) := by
    rw [frame]
    exact State.AwaitsPlain.asked.withLeases
  have cur : s.cur = ((s.asked (s.lparReq d a b)).setParent n p).cur := by rw [frame]; rfl
  obtain ⟨t, reply, done, kept⟩ := State.reply_plain (k := s.fresh + 1) (v := 0) awaits rfl cur LeaseOp.unnumbered_lpar
  have meaning : exec (.lpar d a b) s = .next (s.sendLease (s.lparReq d a b) (s.ownHandle (s.rx a) || badHandle (s.rx a)) false) := rfl
  rw [State.sendLease_eq (.inr hh), State.arrives_lpar rfl rfl (State.lparAt_self.trans hat), reply] at meaning
  exact ⟨t, meaning, done, by rw [kept]⟩

theorem State.setParent_own (hl : tfind u.leases n = some l) (hp : (tfind u.leases p).isSome) (h : 4 ≤ l.home) :
    (u.setParent n p).leases = tset u.leases n { l with parent := some p } := by
  obtain ⟨q, hq⟩ := Option.isSome_iff_exists.1 hp
  simp only [State.setParent, hl, hq, if_neg (Nat.not_lt.2 h)]
  rw [State.modLease_eq _ hl]

/-- The parent of the copy `e` of a replicated lease. -/
def State.parentFor (u : State) (p : Nat) (q e : Lease) : Option Nat :=
  if q.home < 4 then (u.leases.find? fun f => f.2.obj = q.obj && f.2.home = e.home).map (·.1) else some p

theorem State.parentFor_spec (hk : u.parentFor p q l = some k) (hq : q.home < 4) :
    ∃ m, (k, m) ∈ u.leases ∧ m.obj = q.obj ∧ m.home = l.home := by
  rw [State.parentFor, if_pos hq, Option.map_eq_some_iff] at hk
  obtain ⟨⟨j, m⟩, found, rfl⟩ := hk
  have same := List.find?_some found
  rw [Bool.and_eq_true, decide_eq_true_iff, decide_eq_true_iff] at same
  exact ⟨m, List.mem_of_find?_eq_some found, same⟩

theorem State.setParent_replicated (hl : tfind u.leases n = some l) (hq : tfind u.leases p = some q) (h : l.home < 4) :
    tfind (u.setParent n p).leases n = some { l with parent := u.parentFor p q l } := by
  simp only [State.setParent, hl, hq, if_pos h]
  have copies := tfind_map_ite u.leases (fun e : Lease => e.home < 4 ∧ e.obj = l.obj) (fun e => { e with parent := u.parentFor p q e }) n
  rw [hl, Option.map_some, if_pos ⟨h, rfl⟩] at copies
  exact copies

/-! ## renew (05 R121; 08 R198) -/

/-- The request of a `renew`. -/
def State.renewReq (s : State) (a b : BitVec 5) : LeaseReq := { ctx := s.cur, op := .renew, xa := s.rx a, xb := s.rx b }

/-- The renewals that a request sends to the other copies of a replicated lease. -/
def State.spread (u : State) (c : Ctx) (xa : Word) (life order : Nat) : State :=
  match u.leaseOf xa (dieOfCell c.cell) with
  | some (_, l) => if l.home < 4 then u.spreadRenewal l life order none else u
  | none => u

/-- The home of a handle, for an asker on the die. -/
def homeFor (h : Word) (die : Nat) : Nat := if handleHome h = 0 then die else handleHome h

theorem State.spread_frame {life order : Nat} : u.spread c xa life order = { u with extensions := (u.spread c xa life order).extensions } := by
  unfold State.spread
  split
  · split <;> rfl
  · rfl

theorem State.leaseArrives_renew {m : Nat} (hq : tfind u.lreqs m = some r) (hc : tfind u.ctxs r.ctx = some c) (hop : r.op = .renew) :
    u.leaseArrives m = (({ u with fresh := u.fresh + 1 } : State).spread c r.xa r.xb.toNat u.fresh).withReq m
      { r with op := .renew, order := u.fresh, arrived := some (u.tickOf (homeFor r.xa (dieOfCell c.cell))) } := by
  have ticks : ∀ h, (({ u with fresh := u.fresh + 1 } : State).spread c r.xa r.xb.toNat u.fresh).tickOf h = u.tickOf h := by
    intro h
    rw [State.spread_frame]
    rfl
  rw [← ticks]
  simp only [State.leaseArrives, hq, hc, hop, State.takeFresh]
  rfl

theorem State.arrives_renew (hx : r.ctx = s.cur) (hop : r.op = .renew) : (s.sentOff r).leaseArrives s.fresh =
    ((s.asked r).spread s.self r.xa r.xb.toNat (s.fresh + 1)).withReq s.fresh
      { r with op := .renew, order := s.fresh + 1, arrived := some (s.tickOf (homeFor r.xa (dieOfCell s.self.cell))) } := by
  have arrives := State.leaseArrives_renew (u := s.sentOff r) (tfind_tset_self _ _ _) (State.ctx_sentOff_found hx) hop
  exact arrives

theorem State.leaseReply_unanswered (hq : tfind u.lreqs k = some r) (ha : r.answer = none) (hf : r.fault = none) : u.leaseReply k = u := by
  simp only [State.leaseReply, hq, ha, hf]

section
variable (hb : badHandle (s.rx a) = false) (hp : ¬ (Sealed (s.rx a) ∧ s.self.pl.toNat < 2))
include hb hp

theorem exec_renew_idle (h : s.rx b = 0 ∨ 2 ^ 32 ≤ (s.rx b).toNat) : exec (.renew a b) s = .next s.finish :=
  (if_neg (Bool.not_eq_true _ |>.mpr hb)).trans ((if_neg hp).trans (if_pos h))

theorem exec_renew_sends (h : ¬ (s.rx b = 0 ∨ 2 ^ 32 ≤ (s.rx b).toNat)) (hh : s.holds = []) :
    exec (.renew a b) s = .next (((s.asked (s.renewReq a b)).spread s.self (s.rx a) (s.rx b).toNat (s.fresh + 1)).withReq s.fresh
      { s.renewReq a b with order := s.fresh + 1, arrived := some (s.tickOf (homeFor (s.rx a) (dieOfCell s.self.cell))) }) := by
  have meaning : exec (.renew a b) s = .next (s.sendLease (s.renewReq a b) (s.ownHandle (s.rx a)) false) :=
    (if_neg (Bool.not_eq_true _ |>.mpr hb)).trans ((if_neg hp).trans (if_neg h))
  rw [meaning, State.sendLease_eq (.inr hh), State.arrives_renew rfl rfl, State.leaseReply_unanswered State.withReq_found rfl rfl]
  rfl

end

theorem State.renewed_frame (h : t = ((s.asked r).spread c xa k n).withReq s.fresh r') :
    t = { s with ctxs := t.ctxs, lreqs := t.lreqs, extensions := t.extensions, fresh := s.fresh + 2 } := by
  rw [h, State.spread_frame]
  rfl

theorem State.self_renewed : (((s.asked r).spread c xa k n).withReq p r').self = (s.asked r).self := by
  rw [State.spread_frame]
  rfl

theorem State.spread_single (hl : s.leaseOf xa (dieOfCell c.cell) = some (n, l)) (h : 4 ≤ l.home) :
    ((s.asked r).spread c xa k p).extensions = s.extensions := by
  have found : (s.asked r).leaseOf xa (dieOfCell c.cell) = some (n, l) := hl
  simp only [State.spread, found, if_neg (Nat.not_lt.2 h)]
  rfl

theorem State.spread_copies (hl : s.leaseOf xa (dieOfCell c.cell) = some (n, l)) (h : l.home < 4) {m : Nat} (hm : (m, q) ∈ s.leases)
    (hq : q.home < 4) (hn : q.home ≠ l.home) (ho : q.obj = l.obj) :
    { lease := m, gen := q.gen, life := k, order := p } ∈ ((s.asked r).spread c xa k p).extensions := by
  have found : (s.asked r).leaseOf xa (dieOfCell c.cell) = some (n, l) := hl
  simp only [State.spread, found, if_pos h, State.spreadRenewal]
  refine List.mem_append_right _ (List.mem_map_of_mem (f := fun e : Nat × Lease => ({ lease := e.1, gen := e.2.gen, life := k, order := p, port := none } : Extension))
    (List.mem_filter.2 ⟨hm, ?_⟩))
  simp only [Bool.and_eq_true, decide_eq_true_eq]
  exact ⟨⟨hq, hn⟩, ho⟩

end
end Sys2Proof.Machine
end

section
/-! PROOFS. What a write-back of a cell's L1 leaves of contexts, clocks and guards (10 R213, R215, R217). -/

set_option Elab.async false

namespace Sys2Proof.Machine

section
variable {s u t : State} {x cell id n : Nat} {c : Ctx}

/-! ## Contexts that do not wait for a message -/

/-- Of a context that does not wait for a message, nothing differs but its dropped stores; another may also wake. -/
structure DropsOnly (s t : State) : Prop where
  frame : ∀ x, t.ctx x =
    { s.ctx x with sst := (t.ctx x).sst, shown := (t.ctx x).shown, readySince := (t.ctx x).readySince, drops := (t.ctx x).drops }
  found : ∀ x c, tfind s.ctxs x = some c → (∀ m, c.wait ≠ .msg m) → ∃ d, tfind t.ctxs x = some { c with drops := d }
  here  : ∀ x, (tfind s.ctxs x).isSome = true → (tfind t.ctxs x).isSome = true

theorem DropsOnly.of_ctxs (h : t.ctxs = s.ctxs) : DropsOnly s t :=
  ⟨fun _ => by rw [State.ctx, State.ctx, h], fun _ c hc _ => ⟨c.drops, by rw [h]; exact hc⟩, fun _ => by rw [h]; exact id⟩

theorem DropsOnly.refl (s : State) : DropsOnly s s := .of_ctxs rfl

theorem DropsOnly.trans (h : DropsOnly s t) (k : DropsOnly t u) : DropsOnly s u := by
  refine ⟨fun x => by rw [k.frame x, h.frame x], fun x c hc hw => ?_, fun x hx => k.here x (h.here x hx)⟩
  obtain ⟨d, hd⟩ := h.found x c hc hw
  obtain ⟨e, he⟩ := k.found x { c with drops := d } hd hw
  exact ⟨e, he⟩

theorem State.here_setCtx (s : State) (x : Nat) (c : Ctx) {y : Nat} (h : (tfind s.ctxs y).isSome = true) :
    (tfind (s.setCtx x c).ctxs y).isSome = true := by
  by_cases e : y = x
  · rw [e, State.setCtx, tfind_tset_self]
    rfl
  · rwa [State.setCtx, tfind_tset_ne _ _ e]

theorem DropsOnly.dropped (s : State) (x : Nat) (l : List Drop) : DropsOnly s (s.modCtx x fun c => { c with drops := c.drops ++ l }) := by
  refine ⟨fun y => ?_, fun y c hc _ => ?_, fun y => s.here_setCtx x _⟩
  · rw [State.modCtx, State.ctx_setCtx]
    split
    · next e => rw [e]
    · rfl
  by_cases h : y = x
  · subst h
    refine ⟨c.drops ++ l, ?_⟩
    rw [State.modCtx, State.setCtx, tfind_tset_self, State.ctx, tget, hc]
    rfl
  · exact ⟨c.drops, (tfind_tset_ne _ _ h).trans hc⟩

theorem DropsOnly.wakeMsg (s : State) (x cls : Nat) : DropsOnly s (s.wakeMsg x cls) := by
  unfold State.wakeMsg
  dsimp only
  split
  · next mask hm =>
    split
    · refine ⟨fun y => ?_, fun y c hc hw => ?_, fun y => s.here_setCtx x _⟩
      · rw [State.ctx_setCtx]
        split
        · next e => rw [e]
        · rfl
      have other : y ≠ x := by
        rintro rfl
        have waits : (s.ctx y).wait = c.wait := by rw [State.ctx, tget, hc]; rfl
        exact hw mask (waits.symm.trans hm)
      exact ⟨c.drops, (tfind_tset_ne _ _ other).trans hc⟩
    · exact .refl s
  · exact .refl s

theorem DropsOnly.enqueueGen (s : State) (cell cls part : Nat) (m : Msg) : DropsOnly s (s.enqueueGen cell cls part m) := by
  unfold State.enqueueGen
  split
  · exact .of_ctxs rfl
  · exact .of_ctxs rfl

theorem DropsOnly.deliverGen (s : State) (cell cls part : Nat) (m : Msg) (pkt : Option Nat) : DropsOnly s (s.deliverGen cell cls part m pkt) := by
  unfold State.deliverGen
  split
  · exact .of_ctxs rfl
  · split
    · exact (DropsOnly.enqueueGen ..).trans (.wakeMsg ..)
    · split
      · exact .of_ctxs rfl
      · exact .of_ctxs rfl

theorem DropsOnly.reportDrop (s : State) (o : Issuer) (code : Byte) (src : Nat) (mark : Option Nat) (always : Bool) (addr info : Word)
    (pkt : Option Nat) : DropsOnly s (s.reportDrop o code src mark always addr info pkt) := by
  unfold State.reportDrop
  split
  · exact .of_ctxs rfl
  · dsimp only
    have marked (s : State) (m : Option Nat) : DropsOnly s (match m with
        | some cls => s.modCtx o.ctx fun c => { c with drops := c.drops ++ [⟨code, addr, cls⟩] }
        | none => s) := by
      cases m
      · exact .refl s
      · exact .dropped ..
    have reported (w : State) (part : Nat) (d0 : Word) (die : Nat) : DropsOnly w (w.report part d0 addr info die) := .of_ctxs rfl
    split
    · refine ((reported _ _ _ _).trans (marked _ mark)).trans (.trans (t := State.modCell _ _ _) (.of_ctxs rfl) (.deliverGen ..))
    · exact (reported _ _ _ _).trans (marked _ mark)

theorem HomesOnly.dropsOnly (h : HomesOnly s t) : DropsOnly s t := .of_ctxs (by rw [h])

/-! ## Write-backs -/

/-- What a write-back or a discard of cached lines leaves: all but caches and reports, and of the contexts those that do not wait
for a message. -/
structure Flushes (s t : State) : Prop where
  caches : CachesOnly s t
  ctxs   : DropsOnly s t
  cyc    : ∀ n, t.cyc n = s.cyc n
  cell   : ∀ n, t.cell n = { s.cell n with
    l1 := (t.cell n).l1, queue := (t.cell n).queue, gstore := (t.cell n).gstore, seq := (t.cell n).seq, disc := (t.cell n).disc }
  stamp  : s.stamp ≤ t.stamp

theorem Flushes.refl (s : State) : Flushes s s := ⟨.refl s, .refl s, fun _ => rfl, fun _ => rfl, Nat.le_refl _⟩

theorem Flushes.trans (h : Flushes s t) (k : Flushes t u) : Flushes s u :=
  ⟨h.caches.trans k.caches, h.ctxs.trans k.ctxs, fun n => (k.cyc n).trans (h.cyc n), fun n => by rw [k.cell n, h.cell n],
    Nat.le_trans h.stamp k.stamp⟩

theorem Flushes.home (h : HomesOnly s t) (hc : ∀ n, t.cyc n = s.cyc n) : Flushes s t :=
  ⟨h.caches, h.dropsOnly, hc, fun n => by rw [State.cell, State.cell, h.cells], Nat.le_of_eq (by rw [h])⟩

theorem Flushes.l1Set (s : State) (cell : Nat) (f : Cell → Table L1Line) : Flushes s (s.modCell cell fun c => { c with l1 := f c }) := by
  refine ⟨rfl, .of_ctxs rfl, fun _ => rfl, fun n => ?_, Nat.le_refl _⟩
  rw [State.cell_modCell]
  split
  · next e => rw [e]
  · rfl

theorem Flushes.guards (h : Flushes s t) (n : Nat) : (t.cell n).guards = (s.cell n).guards := by rw [h.cell]

theorem Flushes.reportDrop (s : State) (o : Issuer) (code : Byte) (src : Nat) (mark : Option Nat) (always : Bool) (addr info : Word)
    (pkt : Option Nat) : Flushes s (s.reportDrop o code src mark always addr info pkt) := by
  have queues := QueuesOnly.reportDrop s o code src mark always addr info pkt
  exact ⟨s.cachesOnly_reportDrop .., .reportDrop .., fun n => queues.sameCaches.cyc, fun n => by rw [queues.cells], Nat.le_of_eq queues.stamp.symm⟩

theorem Flushes.l1WriteBack (s : State) (cell id : Nat) : Flushes s (s.l1WriteBack cell id) := by
  unfold State.l1WriteBack
  split
  · exact .refl s
  · split
    · exact .refl s
    · split
      · next t e =>
        refine (Flushes.home (State.homesOnly_homeModify e) fun _ => State.cyc_homeModify e).trans ?_
        split
        · next u p b e =>
          refine (Flushes.home (State.homesOnly_homeLine e) fun _ => State.cyc_homeLine e).trans ?_
          have stamped : Flushes u { u with stamp := u.stamp + 1 } := ⟨rfl, .of_ctxs rfl, fun _ => rfl, fun _ => rfl, Nat.le_succ _⟩
          exact stamped.trans (.l1Set ..)
        · exact .l1Set ..
      · exact (Flushes.l1Set ..).trans (foldl_related Flushes.refl Flushes.trans (fun u o => .reportDrop ..) _ _)

theorem Flushes.l1Flush (s : State) (cell id : Nat) : Flushes s (s.l1Flush cell id) := (Flushes.l1WriteBack s cell id).trans (.l1Set _ cell fun c => tdel c.l1 id)

theorem Flushes.flushed (s : State) (cell : Nat) (l : List Nat) : Flushes s (l.foldl (fun s k => s.l1Flush cell k) s) :=
  foldl_related Flushes.refl Flushes.trans (fun u k => .l1Flush u cell k) _ s

theorem Flushes.l1Place (s : State) (cell : Nat) : Flushes s (s.l1Place cell).1 := by
  have h : s.l1Place cell = (s, freePlace 0 (s.cell cell).l1) ∨ s.l1Place cell = (s.l1Flush cell 0, 0) := by
    unfold State.l1Place
    exact ite_eq_or_eq _ _ _
  obtain h | h := h
  · rw [h]; exact .refl s
  · rw [h]; exact .l1Flush s cell 0

theorem Flushes.stamped (w : State) (cell : Nat) (f : Cell → Table L1Line) :
    Flushes w (({ w with stamp := w.stamp + 1 } : State).modCell cell fun c => { c with l1 := f c }) :=
  Flushes.trans (t := { w with stamp := w.stamp + 1 }) ⟨rfl, .of_ctxs rfl, fun _ => rfl, fun _ => rfl, Nat.le_succ _⟩ (.l1Set ..)

theorem Flushes.l1Fill {r : Nat × L1Line} {va : Nat} (e : s.l1Fill cell c va = .ok (t, r)) : Flushes s t := by
  unfold State.l1Fill at e
  split at e
  · cases e
  · next u p b read =>
    have read := Flushes.home (State.homesOnly_homeLine read) fun _ => State.cyc_homeLine read
    cases line : (u.cell cell).l1Line c.sid va with
    | none =>
      have placed := Flushes.l1Place u cell
      simp only [line] at e
      generalize u.l1Place cell = place at placed e
      cases e
      exact read.trans (placed.trans (.stamped ..))
    | some old =>
      simp only [line] at e
      cases e
      exact read.trans (.stamped ..)

theorem Flushes.l1Live (s : State) (cell : Nat) (sid : BitVec 16) (va : Nat) : Flushes s (s.l1Live cell sid va) := by
  unfold State.l1Live
  split
  · split
    · exact .l1Flush ..
    · exact .refl s
  · exact .refl s

theorem Flushes.l1Read {va n : Nat} {b : Bank} (e : s.l1Read cell c va n = .ok (t, b)) : Flushes s t := by
  have live := Flushes.l1Live s cell c.sid va
  have filled (h : ((s.l1Live cell c.sid va).l1Fill cell c va).map (fun r => (r.1, r.2.2.data)) = .ok (t, b)) : Flushes s t := by
    cases fill : (s.l1Live cell c.sid va).l1Fill cell c va with
    | error e => rw [fill] at h; cases h
    | ok r => rw [fill] at h; cases h; exact live.trans (.l1Fill fill)
  unfold State.l1Read at e
  dsimp only at e
  split at e
  · cases e
  · split at e
    · split at e
      · cases e; exact live
      · exact filled e
    · exact filled e

theorem Flushes.l1Sync (s : State) (cell : Nat) (sid : BitVec 16) (va : Nat) : Flushes s (s.l1Sync cell sid va) := by
  unfold State.l1Sync
  split
  · split
    · exact .l1Set _ cell fun c => tdel c.l1 _
    · exact .l1Flush ..
  · exact .refl s

theorem State.precise_ok {α : Type} {ea : Word} {r : Except Byte α} {v : α} (e : s.precise ea r = .ok v) : r = .ok v := by
  cases r with
  | error e' => cases e
  | ok w => cases e; rfl

theorem Flushes.lineFor {ea : Word} {n : Nat} {atHome : Bool} {b : Bank} (e : s.lineFor ea n atHome = .ok (t, b)) : Flushes s t := by
  unfold State.lineFor at e
  dsimp only at e
  split at e
  · cases home : s.precise ea ((s.l1Sync s.self.cell s.self.sid ea.toNat).homeLine s.self.space ea.toNat) with
    | error e' => rw [home] at e; cases e
    | ok r =>
      rw [home] at e
      cases e
      have line := State.precise_ok home
      exact (Flushes.l1Sync ..).trans (.home (State.homesOnly_homeLine line) fun _ => State.cyc_homeLine line)
  · exact .l1Read (State.precise_ok e)

/-- A load of partition memory. -/
theorem Flushes.readBytes {ea : Word} {n : Nat} {bs : List Byte} (hm : region ea = .mem) {strong : Bool} (e : s.readBytes ea n strong = .ok (t, bs)) :
    Flushes s t := by
  unfold State.readBytes at e
  rw [hm] at e
  obtain ⟨⟨u, b⟩, bank, e⟩ := except_bind_ok e
  cases e
  obtain ⟨⟨v, b'⟩, line, bank⟩ := except_bind_ok bank
  dsimp only at bank
  split at bank
  · cases bank
  · cases bank
    exact .lineFor line

end
end Sys2Proof.Machine
end

section
/-! PROOFS. `llk`: a lock's request at its home, its grant, and its answer (05 R125, R126; 10 R217; 11 R231). -/

set_option Elab.async false

namespace Sys2Proof.Machine

section
variable {s u t w : State} {r : LeaseReq} {c : Ctx} {n q k code va : Nat} {v ea xb : Word} {d a b : BitVec 5} {l : Lease} {bs : List Byte}

/-! ## Sending (05 R125) -/

/-- The acting context, parked for request number `s.fresh`. -/
def State.parkedSelf (s : State) : Ctx := { s.self with sst := .parked, wait := .lease s.fresh, charged := true, lastTry := s.now }

def State.parkedOff (s : State) (r : LeaseReq) : State :=
  { s with ctxs := tset s.ctxs s.cur s.parkedSelf, lreqs := tset s.lreqs s.fresh r, fresh := s.fresh + 1 }

/-- The request is at its home, which has taken the next number for its order of arrival. -/
def State.lockAsked (s : State) (r : LeaseReq) : State := { s.parkedOff r with fresh := s.fresh + 2 }

theorem State.self_lockAsked : (s.lockAsked r).self = s.parkedSelf := State.ctx_setCtx_self s s.cur _

theorem State.ctx_parkedOff_found (hx : r.ctx = s.cur) : tfind (s.parkedOff r).ctxs r.ctx = some s.parkedSelf := hx ▸ tfind_tset_self _ _ _

theorem State.sendLease_parked (h : s.holds = []) : s.sendLease r false true = ((s.parkedOff r).leaseArrives s.fresh).leaseReply s.fresh := by
  have unheld : s.takeHold = (false, s) := by rw [State.takeHold, h]
  unfold State.sendLease
  rw [if_neg Bool.false_ne_true, unheld]
  rfl

/-- The request of an `llk` whose descriptor is `bs`. -/
def State.lockReq (s : State) (d : BitVec 5) (ea xb : Word) (bs : List Byte) : LeaseReq :=
  { ctx := s.cur, op := .llk, xa := ea, xb := xb, num := s.self.leaseNum, xd := d, lock := leNat (bs.take 8), ranges := lockRanges bs
    bad := badLock bs }

theorem State.leaseArrives_llk (hq : tfind u.lreqs q = some r) (hc : tfind u.ctxs r.ctx = some c) (hop : r.op = .llk)
    (hk : u.keptAnswer r.ctx r.num = none) :
    u.leaseArrives q = ({ u with fresh := u.fresh + 1 } : State).llkAt q { r with op := .llk, order := u.fresh } c r.bad := by
  have kept : ({ u with fresh := u.fresh + 1 } : State).keptAnswer r.ctx r.num = none := hk
  simp only [State.leaseArrives, hq, hc, hop, State.takeFresh, kept]

/-- The request as its home takes it. -/
def State.lockOrder (s : State) (d : BitVec 5) (ea xb : Word) (bs : List Byte) : LeaseReq := { s.lockReq d ea xb bs with order := s.fresh + 1 }

theorem State.arrives_llk (hk : s.keptAnswer s.cur s.self.leaseNum = none) : (s.parkedOff (s.lockReq d ea xb bs)).leaseArrives s.fresh =
    (s.lockAsked (s.lockReq d ea xb bs)).llkAt s.fresh (s.lockOrder d ea xb bs) s.parkedSelf (badLock bs) := by
  have arrives := State.leaseArrives_llk (u := s.parkedOff (s.lockReq d ea xb bs)) (tfind_tset_self _ _ _) (State.ctx_parkedOff_found rfl) rfl hk
  exact arrives

theorem exec_llk (ho : s.self.opt = false) (ha : (s.rx a).toNat % 64 = 0) (hm : region (s.rx a) = .mem)
    (hc : s.checkAccess (s.rx a) 64 false false = .ok ()) (hl : s.localWaits (s.rx a) 64 false = .ok ())
    (hf : s.fabricWaits (s.rx a) 64 false false = .ok ()) (hb : s.readBytes (s.rx a) 64 false = .ok (u, bs))
    (hk : u.keptAnswer u.cur u.self.leaseNum = none) (hh : u.holds = []) :
    exec (.llk d a b) s = .next (((u.lockAsked (u.lockReq d (s.rx a) (u.rx b) bs)).llkAt u.fresh (u.lockOrder d (s.rx a) (u.rx b) bs) u.parkedSelf
      (badLock bs)).leaseReply u.fresh) := by
  have meaning : exec (.llk d a b) s = .next (u.sendLease (u.lockReq d (s.rx a) (u.rx b) bs) false true) := by
    show execLlk d a b s = _
    unfold execLlk
    dsimp only
    rw [State.illInOpt, ho, ha, hm, hc, hl, hf, hb]
    rfl
  rw [meaning, State.sendLease_parked hh, State.arrives_llk hk]

theorem exec_llk_misaligned (ho : s.self.opt = false) (ha : (s.rx a).toNat % 64 ≠ 0) :
    exec (.llk d a b) s = .next (s.trap cALIGN (s.rx a)) := by
  show execLlk d a b s = _
  unfold execLlk
  dsimp only
  rw [State.illInOpt, ho, decide_eq_false ha]
  rfl

theorem exec_llk_outside (ho : s.self.opt = false) (ha : (s.rx a).toNat % 64 = 0) (hm : region (s.rx a) ≠ .mem) :
    exec (.llk d a b) s = .next (s.trap cXLATE (s.rx a)) := by
  show execLlk d a b s = _
  unfold execLlk
  dsimp only
  rw [State.illInOpt, ho, ha, beq_eq_false_iff_ne.2 hm]
  rfl

/-! ## A request refused -/

/-- The context as the reply finds it. -/
structure State.AwaitsLock (s w : State) : Prop where
  x   : w.self.x = s.self.x
  pc  : w.self.pc = s.self.pc
  num : w.self.leaseNum = s.self.leaseNum

/-- The answer `v` of an `llk` is in xd, and the context goes on. -/
def LockDone (s t : State) (d : BitVec 5) (v : Word) : Prop :=
  (∀ r : BitVec 5, t.rx r = if r = d ∧ r ≠ 0 then v else s.rx r) ∧ t.self.pc = s.self.pc + 4 ∧ t.self.leaseNum = s.self.leaseNum + 1

theorem State.AwaitsLock.done (h : s.AwaitsLock w) : LockDone s (((w.numbered .llk).wx d v).finish) d v := by
  obtain ⟨hx, hpc, hnum⟩ := h
  have num : (w.numbered .llk).self = { w.self with leaseNum := w.self.leaseNum + 1 } := State.self_mod _ _
  obtain ⟨-, keeps, xs⟩ := (w.numbered .llk).wroteX_result d v
  rw [Ctx.doneAt_eq, num] at keeps
  refine ⟨fun k => (xs k).trans ?_, ?_, ?_⟩
  · have same : (w.numbered .llk).rx k = s.rx k := by
      show Ctx.x? _ _ = Ctx.x? _ _
      rw [num, Ctx.x?, Ctx.x?, hx]
    rw [same]
  · rw [keeps, hpc]
  · rw [keeps]
    exact congrArg (· + 1) hnum

theorem State.AwaitsLock.asked : s.AwaitsLock (s.lockAsked r) := by
  constructor <;> rw [State.self_lockAsked] <;> rfl

theorem State.AwaitsLock.of_self (h : s.AwaitsLock w) (hs : t.self = w.self) : s.AwaitsLock t := by
  obtain ⟨hx, hpc, hnum⟩ := h
  exact ⟨by rw [hs, hx], by rw [hs, hpc], by rw [hs, hnum]⟩

theorem State.reply_unlocked (h : s.AwaitsLock w) (hx : r.ctx = w.cur) (hop : r.op = .llk) (hg : r.granted = none) (hw : w.self.wait = .lease q) :
    LockDone s ((w.answerLock q r code).leaseReply q) r.xd (status code) := by
  have waits : ((w.answerLock q r code).ctx r.ctx).wait = .lease q := by
    rw [hx]
    exact hw
  have reply := State.leaseReply_ungranted (u := w.answerLock q r code) (r := { r with parked := false, answer := some (status code) })
    (tfind_tset_self _ _ _) rfl hg waits
  have op : ({ r with parked := false, answer := some (status code) } : LeaseReq).op = .llk := hop
  have same : ((w.answerLock q r code).replied q { r with parked := false, answer := some (status code) }).self = w.self := congrArg w.ctx hx
  rw [op] at reply
  rw [reply]
  exact State.AwaitsLock.done (.of_self h same)

/-! ## The lock's record, and whether its home has room (08 R200) -/

theorem filter_tset {α : Type} {t : Table α} {k : Nat} {x : α} {f : Nat × α → Bool} (hf : f (k, x) = false) (ht : tfind t k = none) :
    (tset t k x).filter f = t.filter f := by
  induction t with
  | nil => simp [tset, hf]
  | cons p t ih =>
    obtain ⟨j, y⟩ := p
    have other : j ≠ k := fun e => by simp [tfind, e] at ht
    rw [tfind, if_neg other] at ht
    rw [tset]
    split
    · rw [List.filter_cons, if_neg (by rw [hf]; exact Bool.false_ne_true)]
    · rw [if_neg other.symm, List.filter_cons, List.filter_cons, ih ht]

/-- A lock that no one has held, at the home of its word. -/
def State.newLock (u : State) (c : Ctx) (va : Nat) : Lease :=
  { home := homeOfSlice (u.sliceFor c.part c.cell va)
    index := u.leases.foldl (fun m p => if p.2.home = homeOfSlice (u.sliceFor c.part c.cell va) ∧ p.2.obj.kind = 7 then max m (p.2.index + 1) else m) 0
    obj := .lock c.space va, part := c.part }

theorem State.lockEntry_old (h : (u.leases.find? fun p => p.2.obj = .lock c.space va) = some (n, l)) : u.lockEntry c va = (u, n) := by
  rw [State.lockEntry, h]

theorem State.lockEntry_new (h : ∀ p, p ∈ u.leases → p.2.obj ≠ .lock c.space va) :
    u.lockEntry c va = ({ u with leases := tset u.leases (tnext u.leases) (u.newLock c va) }, tnext u.leases) := by
  have none_ : (u.leases.find? fun p => p.2.obj = .lock c.space va) = none :=
    List.find?_eq_none.2 fun p hp e => h p hp (of_decide_eq_true e)
  rw [State.lockEntry, none_]
  rfl

/-- A new lock takes no entry of its home. -/
theorem State.locksFull_new (home : Nat) : ({ u with leases := tset u.leases (tnext u.leases) (u.newLock c va) } : State).locksFull home =
    u.locksFull home := by
  have unoccupied : ((u.newLock c va).home = home && (u.newLock c va).obj.kind = 7 &&
    ((u.newLock c va).occupied || (u.newLock c va).draining.isSome)) = false := Bool.and_false _
  simp only [State.locksFull]
  rw [filter_tset unoccupied (tfind_tnext _)]

/-! ## What the home does with a request (05 R125) -/

/-- The request waits at its home for the lock. -/
def State.parkLock (u : State) (q : Nat) (r : LeaseReq) (n : Nat) (l : Lease) : State :=
  u.withReq q { r with parked := true, lock := n, arrived := some (u.tickOf l.home) }

theorem State.llkAt_life {bad : Bool} (h : r.xb.toNat % 2 ^ 32 = 0) : u.llkAt q r c bad = u.answerLock q r lsLife := if_pos h

theorem State.llkAt_bad (h : r.xb.toNat % 2 ^ 32 ≠ 0) : u.llkAt q r c true = u.answerLock q r lsBadObj := (if_neg h).trans (if_pos rfl)

section
variable (h : r.xb.toNat % 2 ^ 32 ≠ 0) (he : u.lockEntry c r.lock = (w, n)) (hn : tfind w.leases n = some l)
include h he hn

theorem State.llkAt_found : u.llkAt q r c false =
    if l.st = .lapsing then w.answerLock q r lsScrub
    else if l.st = .lapsed ∧ l.draining.isNone then (w.parkLock q r n l).serveLock n q else w.parkLock q r n l := by
  refine (if_neg h).trans ((if_neg Bool.false_ne_true).trans ?_)
  rw [he]
  dsimp only
  rw [hn]
  rfl

theorem State.llkAt_scrub (hs : l.st = .lapsing) : u.llkAt q r c false = w.answerLock q r lsScrub := by
  rw [State.llkAt_found h he hn, if_pos hs]

theorem State.llkAt_parks (hs : l.st ≠ .lapsing) (hf : ¬ (l.st = .lapsed ∧ l.draining.isNone)) : u.llkAt q r c false = w.parkLock q r n l := by
  rw [State.llkAt_found h he hn, if_neg hs, if_neg hf]

theorem State.llkAt_serves (hs : l.st = .lapsed) (hd : l.draining = none) : u.llkAt q r c false = (w.parkLock q r n l).serveLock n q := by
  rw [State.llkAt_found h he hn, if_neg (by rw [hs]; decide), if_pos ⟨hs, by rw [hd]; rfl⟩]

end

section
variable {p : LeaseReq} (hn : tfind u.leases n = some l) (hq : tfind u.lreqs q = some p)
include hn hq

theorem State.serveLock_full (h : u.locksFull l.home = true) : u.serveLock n q = u.answerLock q p lsNoRes := by
  simp only [State.serveLock, hn, hq, h, if_true]

theorem State.serveLock_drains (h : u.locksFull l.home = false) (hl : l.last ≠ none) :
    u.serveLock n q = { u with leases := tset u.leases n { l with draining := some q, drained := false } } := by
  have last : l.last.isSome = true := Option.isSome_iff_ne_none.2 hl
  simp only [State.serveLock, hn, hq, h, last, if_true, if_false, Bool.false_eq_true]
  exact State.modLease_eq _ hn

theorem State.serveLock_grants (h : u.locksFull l.home = false) (hl : l.last = none) : u.serveLock n q = u.grantLock n q := by
  simp only [State.serveLock, hn, hq, h, hl, Option.isSome_none, if_false, Bool.false_eq_true]

end

end
end Sys2Proof.Machine
end

section
/-! PROOFS. The grant of a lock, and its reply (05 R125, R126; 10 R217; 11 R231). -/

set_option Elab.async false

namespace Sys2Proof.Machine

section
variable {s u t w f : State} {r : LeaseReq} {c : Ctx} {n q k code va : Nat} {v ea xb : Word} {d a b : BitVec 5} {l : Lease} {bs : List Byte}

/-! ## The grant -/

/-- The new holder of a lock. -/
def LeaseReq.holder (r : LeaseReq) (c : Ctx) : Holder := { ctx := r.ctx, cell := c.cell, sid := c.sid, ranges := r.ranges }

/-- The state in which the new holder's lines in its ranges have ended. -/
def State.cleared (u : State) (h : Holder) : State := (u.linesOf h).foldl (fun s k => s.l1Flush h.cell k) u

/-- The lease that the grant writes. -/
def State.lockGrant (u : State) (l : Lease) (r : LeaseReq) (c : Ctx) : Lease :=
  { l with
    gen := BitVec.ofNat 24 (l.count + 1), count := l.count + 1, st := .granted, expiry := u.tickOf l.home + r.xb.toNat % 2 ^ 32
    parent := u.contextLease c.entry, pop := c.entry, part := c.part, order := u.grants, holder := some (r.holder c)
    last := none, draining := none, drained := false }

/-- The request as the grant answers it. -/
def LeaseReq.lockAnswered (r : LeaseReq) (v : Word) (n : Nat) : LeaseReq := { r with parked := false, answer := some v, granted := some n }

/-- The lock is granted, and the answer kept. -/
def State.lockGranted (u : State) (q n : Nat) (l : Lease) (r : LeaseReq) : State :=
  ((u.withGrant n l).withReq q (r.lockAnswered l.handle n)).keepAnswer r.ctx r.num l.handle (some n)

theorem State.grantLock_eq (hn : tfind u.leases n = some l) (hq : tfind u.lreqs q = some r) (hc : tfind u.ctxs r.ctx = some c) :
    u.grantLock n q = (u.cleared (r.holder c)).lockGranted q n ((u.cleared (r.holder c)).lockGrant l r c) r := by
  simp only [State.grantLock, hn, hq, hc]
  rfl

theorem Flushes.cleared (u : State) (h : Holder) : Flushes u (u.cleared h) := .flushed ..

/-- What the grant reads is as it was before the lines ended. -/
theorem Flushes.lockGrant (h : Flushes u f) : f.lockGrant l r c = u.lockGrant l r c := by
  have ticks (home : Nat) : f.tickOf home = u.tickOf home := by rw [State.tickOf, State.tickOf, State.ref, State.ref, h.cyc]
  have parent : f.contextLease c.entry = u.contextLease c.entry := by rw [State.contextLease, State.contextLease, h.caches]
  have order : f.grants = u.grants := by rw [h.caches]
  rw [State.lockGrant, State.lockGrant, ticks, parent, order]

/-! ## The reply -/

/-- The ranges of the grant in the guard table of the holder's cell. -/
def State.guarding (u : State) (h : Holder) (space n : Nat) : State :=
  u.modCell h.cell fun c => { c with guards := c.guards ++ (h.ranges.take (48 - c.guards.length)).map fun r =>
    { sid := h.sid, part := partOf space, base := r.1, len := r.2, lease := n } }

theorem State.enterGuards_of_lock {h : Holder} {space : Nat} (hn : tfind u.leases n = some l) (ho : l.obj = .lock space va) (hh : l.holder = some h)
    (hd : l.drained = false) (ha : l.alive = true) : u.enterGuards n l.handle = u.guarding h space n := by
  unfold State.enterGuards
  simp only [hn, ho, hh, hd, ha, Option.isSome_some, if_true, ne_eq, not_true_eq_false, Bool.false_eq_true, or_self, if_false, Bool.true_or]
  rfl

theorem State.rewritePath_of_lock {space : Nat} (hn : tfind u.leases n = some l) (ho : l.obj = .lock space va) : u.rewritePath r n = u := by
  simp only [State.rewritePath, hn, ho]

theorem State.leaseReply_lock (hq : tfind u.lreqs q = some r) (ha : r.answer = some v) (hg : r.granted = some n)
    (hw : (u.ctx r.ctx).wait = .lease q) (hop : r.op = .llk) : u.leaseReply q =
      (((((((u.replied q r).heldNow n).enterGuards n v).rewritePath r n).acquire r.ctx).numbered .llk).wx r.xd v).finish := by
  have waits : (({ u with lreqs := tdel u.lreqs q } : State).ctx r.ctx).wait = .lease q := hw
  simp only [State.leaseReply, hq, ha, hg, waits, hop, ne_eq, not_true_eq_false, if_false]
  rfl

/-- The state in which the answer of the grant is in the holder's cell. -/
def State.lockReplied (f : State) (q n : Nat) (l : Lease) (r : LeaseReq) (h : Holder) (space : Nat) : State :=
  (((f.lockGranted q n l r).replied q r).withHeld n l).guarding h space n

/-- The reply to a granted lock. -/
theorem State.reply_lock {h : Holder} {space : Nat} (hw : (u.ctx r.ctx).wait = .lease q) (hop : r.op = .llk) (ho : l.obj = .lock space va)
    (hh : l.holder = some h) (hl : l.st = .granted) (hd : l.drained = false) :
    (u.lockGranted q n l r).leaseReply q =
      ((((u.lockReplied q n l r h space).acquire r.ctx).numbered .llk).wx r.xd l.handle).finish := by
  have reply := State.leaseReply_lock (u := u.lockGranted q n l r) (r := r.lockAnswered l.handle n) (v := l.handle) (n := n) (q := q)
    (tfind_tset_self _ _ _) rfl rfl hw hop
  have found : tfind ((u.lockGranted q n l r).replied q (r.lockAnswered l.handle n)).leases n = some l := tfind_tset_self _ _ _
  have guards := State.enterGuards_of_lock (u := ((u.lockGranted q n l r).replied q (r.lockAnswered l.handle n)).withHeld n l)
    State.withHeld_found ho hh hd rfl
  have handle : ({ l with st := .held } : Lease).handle = l.handle := rfl
  rw [handle] at guards
  have path : ((((u.lockGranted q n l r).replied q (r.lockAnswered l.handle n)).withHeld n l).guarding h space n).rewritePath
      (r.lockAnswered l.handle n) n = ((((u.lockGranted q n l r).replied q (r.lockAnswered l.handle n)).withHeld n l).guarding h space n) :=
    State.rewritePath_of_lock (l := { l with st := .held }) (tfind_tset_self _ _ _) ho
  rw [State.heldNow_of_granted found hl, guards, path] at reply
  exact reply

/-! ## What the grant and its reply leave -/

theorem State.acqMark_finished : ((((w.numbered .llk).wx d v)).finish).self.acqMark = w.self.acqMark := by
  have num : (w.numbered .llk).self = { w.self with leaseNum := w.self.leaseNum + 1 } := State.self_mod _ _
  obtain ⟨-, keeps, -⟩ := (w.numbered .llk).wroteX_result d v
  rw [Ctx.doneAt_eq, num] at keeps
  rw [keeps]
  rfl

/-- An acquire of a context whose answer is there. -/
theorem State.AwaitsLock.acquire (h : s.AwaitsLock w) {x : Nat} (hx : x = w.cur) : s.AwaitsLock (w.acquire x) := by
  obtain ⟨hreg, hpc, hnum⟩ := h
  rw [hx]
  have same : (w.acquire w.cur).self = { w.self with acqMark := w.stamp + 1 } := State.self_acquire
  exact ⟨by rw [same, ← hreg], by rw [same, ← hpc], by rw [same, ← hnum]⟩

/-- What the answer of a granted lock leaves (05 R125; 10 R217; 11 R231). -/
structure LockGiven (s t : State) (r : LeaseReq) (n : Nat) (l : Lease) (h : Holder) (space : Nat) : Prop where
  done   : LockDone s t r.xd l.handle
  lease  : tfind t.leases n = some { l with st := .held }
  guards : (t.cell h.cell).guards = (s.cell h.cell).guards ++
    (h.ranges.take (48 - (s.cell h.cell).guards.length)).map fun r => { sid := h.sid, part := partOf space, base := r.1, len := r.2, lease := n }
  mark   : t.self.acqMark = t.stamp
  later  : s.stamp < t.stamp

theorem State.self_lockReplied {h : Holder} {space : Nat} : (f.lockReplied q n l r h space).self = f.ctx r.ctx := rfl
theorem State.cur_lockReplied {h : Holder} {space : Nat} : (f.lockReplied q n l r h space).cur = r.ctx := rfl

theorem State.guards_lockReplied {h : Holder} {space : Nat} : ((f.lockReplied q n l r h space).cell h.cell).guards =
    (f.cell h.cell).guards ++ (h.ranges.take (48 - (f.cell h.cell).guards.length)).map fun r =>
      { sid := h.sid, part := partOf space, base := r.1, len := r.2, lease := n } := by
  rw [State.lockReplied, State.guarding, State.cell_modCell_self]
  rfl

theorem State.lock_finished : ((((w.acquire n).numbered .llk).wx d v).finish).leases = w.leases ∧
    ((((w.acquire n).numbered .llk).wx d v).finish).cells = w.cells ∧ ((((w.acquire n).numbered .llk).wx d v).finish).stamp = w.stamp + 1 :=
  ⟨rfl, rfl, rfl⟩

theorem State.reply_given {h : Holder} {space : Nat} (flushes : Flushes w f) (hc : tfind w.ctxs r.ctx = some s.parkedSelf)
    (hcells : w.cells = s.cells) (hstamp : w.stamp = s.stamp) (hop : r.op = .llk) (ho : l.obj = .lock space va)
    (hh : l.holder = some h) (hl : l.st = .granted) (hd : l.drained = false) :
    ∃ t, (f.lockGranted s.fresh n l r).leaseReply s.fresh = t ∧ LockGiven s t r n l h space := by
  obtain ⟨drops, found⟩ := flushes.ctxs.found r.ctx s.parkedSelf hc fun m e => nomatch e
  have ctx : f.ctx r.ctx = { s.parkedSelf with drops := drops } := by rw [State.ctx, tget, found]; rfl
  have waits : (f.ctx r.ctx).wait = .lease s.fresh := by rw [ctx]; rfl
  have self : (f.lockReplied s.fresh n l r h space).self = { s.parkedSelf with drops := drops } := (State.self_lockReplied).trans ctx
  have awaits : s.AwaitsLock (f.lockReplied s.fresh n l r h space) := ⟨by rw [self]; rfl, by rw [self]; rfl, by rw [self]; rfl⟩
  have own : r.ctx = (f.lockReplied s.fresh n l r h space).cur := State.cur_lockReplied.symm
  obtain ⟨leases, cells, stamp⟩ := State.lock_finished (w := f.lockReplied s.fresh n l r h space) (n := r.ctx) (d := r.xd) (v := l.handle)
  have guards : (f.cell h.cell).guards = (s.cell h.cell).guards := by rw [flushes.guards, State.cell, State.cell, hcells]
  refine ⟨_, State.reply_lock waits hop ho hh hl hd, (awaits.acquire own).done, ?_, ?_, ?_, ?_⟩
  · rw [leases]
    exact tfind_tset_self _ _ _
  · rw [State.cell, cells, ← guards]
    exact State.guards_lockReplied
  · rw [State.acqMark_finished, stamp, own, State.self_acquire]
  · rw [stamp]
    exact Nat.lt_succ_of_le (hstamp ▸ flushes.stamp)

end
end Sys2Proof.Machine
end

section
/-! PROOFS. Renewals, lives, generations, parents and locks (05 R116, R121-R126; 08 R193, R195; 10 R217). -/

set_option Elab.async false

namespace Sys2Proof.Machine

section
variable {s u t w : State} {n k code va : Nat} {v ea xb : Word} {d a b : BitVec 5} {l : Lease} {bs : List Byte}

/-! ## The ends of an `llk` -/

/-- The home's state with the record of the lock: the table of leases alone may have changed since the request arrived. -/
def State.LockHome (u w : State) (d : BitVec 5) (ea xb : Word) (bs : List Byte) : Prop :=
  w = { u.lockAsked (u.lockReq d ea xb bs) with leases := w.leases }

theorem State.LockHome.asked : u.LockHome (u.lockAsked (u.lockReq d ea xb bs)) d ea xb bs := rfl

theorem State.LockHome.withLeases {ls : Table Lease} :
    u.LockHome { u.lockAsked (u.lockReq d ea xb bs) with leases := ls } d ea xb bs := rfl

section
variable (hw : u.LockHome w d ea xb bs)
include hw

theorem State.LockHome.self : w.self = u.parkedSelf := by
  rw [hw]
  exact State.self_lockAsked (r := u.lockReq d ea xb bs)

omit hw in
theorem State.reply_lockStatus {r : LeaseReq} (self : w.self = u.parkedSelf) (cur : w.cur = u.cur) (hx : r.ctx = u.cur) (hop : r.op = .llk)
    (hg : r.granted = none) (hcode : code < 2 ^ 63) :
    ∃ t, (w.answerLock u.fresh r code).leaseReply u.fresh = t ∧ LockDone u t r.xd (BitVec.ofNat 64 (2 ^ 63 + code)) := by
  have awaits : u.AwaitsLock w := ⟨by rw [self]; rfl, by rw [self]; rfl, by rw [self]; rfl⟩
  rw [← status_eq_ofNat hcode]
  exact ⟨_, rfl, State.reply_unlocked awaits (hx.trans cur.symm) hop hg (by rw [self]; rfl)⟩

theorem State.LockHome.cur : w.cur = u.cur := by rw [hw]; rfl

/-- The request is refused with a status (05 R117). -/
theorem State.LockHome.refused (hcode : code < 2 ^ 63) :
    ∃ t, (w.answerLock u.fresh (u.lockOrder d ea xb bs) code).leaseReply u.fresh = t ∧ LockDone u t d (BitVec.ofNat 64 (2 ^ 63 + code)) :=
  State.reply_lockStatus hw.self hw.cur rfl rfl rfl hcode

/-- The request as it waits at its home. -/
def State.lockParked (u w : State) (d : BitVec 5) (ea xb : Word) (bs : List Byte) (n : Nat) (l : Lease) : LeaseReq :=
  { u.lockOrder d ea xb bs with parked := true, lock := n, arrived := some (w.tickOf l.home) }

omit hw in
theorem State.parkLock_found : tfind (w.parkLock u.fresh (u.lockOrder d ea xb bs) n l).lreqs u.fresh = some (u.lockParked w d ea xb bs n l) :=
  tfind_tset_self _ _ _

/-- The request waits for the lock (05 R125). -/
structure LockWaits (u t : State) (n home : Nat) : Prop where
  sst  : t.self.sst = .parked
  wait : t.self.wait = .lease u.fresh
  req  : ∃ r, tfind t.lreqs u.fresh = some r ∧ r.parked = true ∧ r.lock = n ∧ r.order = u.fresh + 1 ∧ r.arrived = some (u.tickOf home)

theorem State.LockHome.ticks (home : Nat) : w.tickOf home = u.tickOf home := by rw [hw]; rfl

/-- A request that waits has no reply, whatever becomes of the lock's record. -/
theorem State.LockHome.waits {ls : Table Lease} :
    ∃ t, ({ w.parkLock u.fresh (u.lockOrder d ea xb bs) n l with leases := ls } : State).leaseReply u.fresh = t ∧ LockWaits u t n l.home ∧
      t.leases = ls := by
  have self := hw.self
  have ticks := hw.ticks l.home
  refine ⟨_, State.leaseReply_unanswered (r := u.lockParked w d ea xb bs n l) State.parkLock_found rfl rfl, ⟨?_, ?_, ?_⟩, rfl⟩
  · exact congrArg Ctx.sst self
  · exact congrArg Ctx.wait self
  · exact ⟨_, State.parkLock_found, rfl, rfl, rfl, congrArg some ticks⟩

/-- The request is refused for want of a lock entry (08 R200). -/
theorem State.LockHome.unplaced (hn : tfind w.leases n = some l) (hf : w.locksFull l.home = true) :
    ∃ t, ((w.parkLock u.fresh (u.lockOrder d ea xb bs) n l).serveLock n u.fresh).leaseReply u.fresh = t ∧
      LockDone u t d (BitVec.ofNat 64 (2 ^ 63 + 2)) := by
  have found : tfind (w.parkLock u.fresh (u.lockOrder d ea xb bs) n l).leases n = some l := hn
  rw [State.serveLock_full found State.parkLock_found hf]
  exact State.reply_lockStatus (w := w.parkLock u.fresh (u.lockOrder d ea xb bs) n l) hw.self hw.cur rfl rfl rfl (by decide)

/-- The request is granted (05 R125; 10 R217). -/
theorem State.LockHome.given (hn : tfind w.leases n = some l) (ho : l.obj = .lock u.self.space va) (hf : w.locksFull l.home = false)
    (hl : l.last = none) :
    ∃ t, ((w.parkLock u.fresh (u.lockOrder d ea xb bs) n l).serveLock n u.fresh).leaseReply u.fresh = t ∧
      LockGiven u t (u.lockParked w d ea xb bs n l) n ((w.parkLock u.fresh (u.lockOrder d ea xb bs) n l).lockGrant l
        (u.lockParked w d ea xb bs n l) u.parkedSelf) ((u.lockParked w d ea xb bs n l).holder u.parkedSelf) u.self.space := by
  have found : tfind (w.parkLock u.fresh (u.lockOrder d ea xb bs) n l).leases n = some l := hn
  have ctx : tfind (w.parkLock u.fresh (u.lockOrder d ea xb bs) n l).ctxs (u.lockParked w d ea xb bs n l).ctx = some u.parkedSelf := by
    have ctxs : w.ctxs = tset u.ctxs u.cur u.parkedSelf := by rw [hw]; rfl
    show tfind w.ctxs u.cur = _
    rw [ctxs]
    exact tfind_tset_self _ _ _
  have cells : w.cells = u.cells := by rw [hw]; rfl
  have stamp : w.stamp = u.stamp := by rw [hw]; rfl
  have flushes := Flushes.cleared (w.parkLock u.fresh (u.lockOrder d ea xb bs) n l) ((u.lockParked w d ea xb bs n l).holder u.parkedSelf)
  rw [State.serveLock_grants found State.parkLock_found hf hl, State.grantLock_eq found State.parkLock_found ctx, flushes.lockGrant]
  exact State.reply_given flushes ctx cells stamp rfl ho rfl rfl rfl

end

end
end Sys2Proof.Machine
end

section
/-! PROOFS. Renewals, lives, generations, parents and locks: the statement (05 R116, R121-R126; 08 R193, R195; 10 R217). -/

set_option Elab.async false

namespace Sys2Proof.Machine

section
variable {s u t w : State} {n k code va : Nat} {v ea xb : Word} {d a b : BitVec 5} {l : Lease} {bs : List Byte}

/-- The request was granted: the record, the guard table and the acquire (05 R125; 10 R217; 11 R231). -/
structure LlkGranted (u t : State) (d : BitVec 5) (bs : List Byte) (n at_ count life : Nat) (m : Lease) : Prop where
  done   : LockDone u t d m.handle
  lease  : tfind t.leases n = some m
  obj    : m.obj = .lock u.self.space (leNat (bs.take 8))
  home   : m.home = at_
  st     : m.st = .held
  gen    : m.gen = BitVec.ofNat 24 (count + 1)
  expiry : m.expiry = u.tickOf at_ + life
  parent : m.parent = u.contextLease u.self.entry
  holder : m.holder = some { ctx := u.cur, cell := u.self.cell, sid := u.self.sid, ranges := lockRanges bs }
  guards : (t.cell u.self.cell).guards = (u.cell u.self.cell).guards ++
    ((lockRanges bs).take (48 - (u.cell u.self.cell).guards.length)).map (fun r =>
      { sid := u.self.sid, part := partOf u.self.space, base := r.1, len := r.2, lease := n })
  mark   : t.self.acqMark = t.stamp
  later  : u.stamp < t.stamp

/-- The grant, written out as the statement has it. -/
theorem LlkGranted.spelled {at_ count life : Nat} {m : Lease} (h : LlkGranted u t d bs n at_ count life m) (e : exec (.llk d a b) s = .next t) :
    (exec (.llk d a b) s = .next t ∧ (∀ r : BitVec 5, t.rx r = if r = d ∧ r ≠ 0 then m.handle else u.rx r) ∧ t.self.pc = u.self.pc + 4 ∧
      t.self.leaseNum = u.self.leaseNum + 1) ∧ tfind t.leases n = some m ∧ m.obj = .lock u.self.space (leNat (bs.take 8)) ∧
    m.home = at_ ∧ m.st = .held ∧ m.gen = BitVec.ofNat 24 (count + 1) ∧ m.expiry = u.tickOf at_ + life ∧
    m.parent = u.contextLease u.self.entry ∧ m.holder = some { ctx := u.cur, cell := u.self.cell, sid := u.self.sid, ranges := lockRanges bs } ∧
    (t.cell u.self.cell).guards = (u.cell u.self.cell).guards ++
      ((lockRanges bs).take (48 - (u.cell u.self.cell).guards.length)).map (fun r =>
        { sid := u.self.sid, part := partOf u.self.space, base := r.1, len := r.2, lease := n }) ∧
    t.self.acqMark = t.stamp ∧ u.stamp < t.stamp :=
  ⟨⟨e, h.done⟩, h.lease, h.obj, h.home, h.st, h.gen, h.expiry, h.parent, h.holder, h.guards, h.mark, h.later⟩

theorem State.LockHome.granted (hw : u.LockHome w d ea xb bs) (hn : tfind w.leases n = some l)
    (ho : l.obj = .lock u.self.space (leNat (bs.take 8))) (hf : w.locksFull l.home = false) (hl : l.last = none) :
    ∃ t m, ((w.parkLock u.fresh (u.lockOrder d ea xb bs) n l).serveLock n u.fresh).leaseReply u.fresh = t ∧
      LlkGranted u t d bs n l.home l.count (xb.toNat % 2 ^ 32) m := by
  obtain ⟨t, reply, done, lease, guards, mark, later⟩ := hw.given hn ho hf hl
  have parent : w.contextLease u.self.entry = u.contextLease u.self.entry := by
    have entries : w.entries = u.entries := by rw [hw]; rfl
    rw [State.contextLease, State.contextLease, entries]
  exact ⟨t, { (w.parkLock u.fresh (u.lockOrder d ea xb bs) n l).lockGrant l (u.lockParked w d ea xb bs n l) u.parkedSelf with st := .held }, reply, done, lease, ho, rfl, rfl, rfl, congrArg (· + _) (hw.ticks l.home), parent, rfl, guards, mark, later⟩

/-! ## What the home finds -/

section
variable (hm : exec (.llk d a b) s = .next (((u.lockAsked (u.lockReq d ea xb bs)).llkAt u.fresh (u.lockOrder d ea xb bs) u.parkedSelf
  (badLock bs)).leaseReply u.fresh))
include hm

omit hm in
theorem exec_llk_of {r : LeaseReq} {c : Ctx} {q : Nat} {bad : Bool} (hm : exec (.llk d a b) s = .next ((u.llkAt q r c bad).leaseReply q))
    (at_ : u.llkAt q r c bad = w) (reply : w.leaseReply q = t) : exec (.llk d a b) s = .next t := by
  rw [hm, at_, reply]

theorem llk_life (h : xb.toNat % 2 ^ 32 = 0) : ∃ t, exec (.llk d a b) s = .next t ∧ LockDone u t d (BitVec.ofNat 64 (2 ^ 63 + 4)) := by
  obtain ⟨t, reply, done⟩ := State.LockHome.asked.refused (u := u) (d := d) (ea := ea) (xb := xb) (bs := bs) (code := lsLife) (by decide)
  rw [State.llkAt_life h, reply] at hm
  exact ⟨t, hm, done⟩

variable (h : xb.toNat % 2 ^ 32 ≠ 0)
include h

theorem llk_bad (hb : badLock bs = true) : ∃ t, exec (.llk d a b) s = .next t ∧ LockDone u t d (BitVec.ofNat 64 (2 ^ 63 + 3)) := by
  obtain ⟨t, reply, done⟩ := State.LockHome.asked.refused (u := u) (d := d) (ea := ea) (xb := xb) (bs := bs) (code := lsBadObj) (by decide)
  rw [hb, State.llkAt_bad h, reply] at hm
  exact ⟨t, hm, done⟩

variable (hb : badLock bs = false)
include hb

/-- A lock that no record names: its home makes one, and grants it or has no room. -/
theorem llk_new (hn : ∀ p, p ∈ u.leases → p.2.obj ≠ .lock u.self.space (leNat (bs.take 8))) :
    let home := homeOfSlice (u.sliceFor u.self.part u.self.cell (leNat (bs.take 8)))
    (u.locksFull home = true → ∃ t, exec (.llk d a b) s = .next t ∧ LockDone u t d (BitVec.ofNat 64 (2 ^ 63 + 2))) ∧
    (u.locksFull home = false → ∃ t m, exec (.llk d a b) s = .next t ∧ LlkGranted u t d bs (tnext u.leases) home 0 (xb.toNat % 2 ^ 32) m) := by
  have entry := State.lockEntry_new (u := u.lockAsked (u.lockReq d ea xb bs)) (c := u.parkedSelf) (va := leNat (bs.take 8)) hn
  have found := tfind_tset_self (u.lockAsked (u.lockReq d ea xb bs)).leases (tnext u.leases)
    ((u.lockAsked (u.lockReq d ea xb bs)).newLock u.parkedSelf (leNat (bs.take 8)))
  have room := State.locksFull_new (u := u.lockAsked (u.lockReq d ea xb bs)) (c := u.parkedSelf) (va := leNat (bs.take 8))
    (homeOfSlice (u.sliceFor u.self.part u.self.cell (leNat (bs.take 8))))
  have at_ := State.LockHome.withLeases (u := u) (d := d) (ea := ea) (xb := xb) (bs := bs) (ls := tset u.leases (tnext u.leases)
    ((u.lockAsked (u.lockReq d ea xb bs)).newLock u.parkedSelf (leNat (bs.take 8))))
  rw [hb, State.llkAt_serves h entry found rfl rfl] at hm
  constructor
  · intro full
    obtain ⟨t, reply, done⟩ := at_.unplaced found (room.trans full)
    exact ⟨t, hm.trans (congrArg _ reply), done⟩
  · intro full
    obtain ⟨t, m, reply, granted⟩ := at_.granted found rfl (room.trans full) rfl
    exact ⟨t, m, hm.trans (congrArg _ reply), granted⟩

/-- A lock that has a record. -/
theorem llk_old (hf : (u.leases.find? fun p => p.2.obj = .lock u.self.space (leNat (bs.take 8))) = some (n, l)) (hn : tfind u.leases n = some l) :
    (l.st = .lapsing → ∃ t, exec (.llk d a b) s = .next t ∧ LockDone u t d (BitVec.ofNat 64 (2 ^ 63 + 6))) ∧
    (l.st = .lapsed → l.draining = none → u.locksFull l.home = true →
      ∃ t, exec (.llk d a b) s = .next t ∧ LockDone u t d (BitVec.ofNat 64 (2 ^ 63 + 2))) ∧
    (l.st = .lapsed → l.draining = none → u.locksFull l.home = false →
      (l.last = none → ∃ t m, exec (.llk d a b) s = .next t ∧ LlkGranted u t d bs n l.home l.count (xb.toNat % 2 ^ 32) m) ∧
      (l.last ≠ none → ∃ t, exec (.llk d a b) s = .next t ∧ LockWaits u t n l.home ∧
        tfind t.leases n = some { l with draining := some u.fresh, drained := false })) ∧
    (l.st = .granted ∨ l.st = .held ∨ l.st = .lapsed ∧ l.draining ≠ none →
      ∃ t, exec (.llk d a b) s = .next t ∧ LockWaits u t n l.home ∧ t.leases = u.leases) := by
  have entry := State.lockEntry_old (u := u.lockAsked (u.lockReq d ea xb bs)) (c := u.parkedSelf) (va := leNat (bs.take 8)) hf
  have at_ := State.LockHome.asked (u := u) (d := d) (ea := ea) (xb := xb) (bs := bs)
  have found : tfind (u.lockAsked (u.lockReq d ea xb bs)).leases n = some l := hn
  have named := List.find?_some hf
  have obj : l.obj = .lock u.self.space (leNat (bs.take 8)) := of_decide_eq_true named
  rw [hb] at hm
  refine ⟨fun hs => ?_, fun hs hd full => ?_, fun hs hd full => ⟨fun hl => ?_, fun hl => ?_⟩, fun hs => ?_⟩
  · obtain ⟨t, reply, done⟩ := at_.refused (code := lsScrub) (by decide)
    exact ⟨t, exec_llk_of hm (State.llkAt_scrub h entry found hs) reply, done⟩
  · obtain ⟨t, reply, done⟩ := at_.unplaced found full
    exact ⟨t, exec_llk_of hm (State.llkAt_serves h entry found hs hd) reply, done⟩
  · obtain ⟨t, m, reply, granted⟩ := at_.granted found obj full hl
    exact ⟨t, m, exec_llk_of hm (State.llkAt_serves h entry found hs hd) reply, granted⟩
  · have drains := State.serveLock_drains (u := (u.lockAsked (u.lockReq d ea xb bs)).parkLock u.fresh (u.lockOrder d ea xb bs) n l) found
      State.parkLock_found full hl
    obtain ⟨t, reply, waits, leases⟩ := at_.waits (n := n) (l := l) (ls := tset u.leases n { l with draining := some u.fresh, drained := false })
    refine ⟨t, exec_llk_of hm ((State.llkAt_serves h entry found hs hd).trans drains) reply, waits, ?_⟩
    rw [leases]
    exact tfind_tset_self _ _ _
  · have held : l.st ≠ .lapsing := by rcases hs with e | e | ⟨e, -⟩ <;> rw [e] <;> decide
    have busy : ¬ (l.st = .lapsed ∧ l.draining.isNone) := by
      rintro ⟨e, hd⟩
      rcases hs with h | h | ⟨-, h⟩
      · rw [e] at h; exact absurd h (by decide)
      · rw [e] at h; exact absurd h (by decide)
      · exact h (Option.isNone_iff_eq_none.1 hd)
    obtain ⟨t, reply, waits, leases⟩ := at_.waits (n := n) (l := l) (ls := u.leases)
    exact ⟨t, exec_llk_of hm (State.llkAt_parks h entry found held busy) reply, waits, leases⟩

end

end

/-! ## The figures of life and lgen -/

section
variable {s : State} {c : Ctx} {n : Nat} {l : Lease} {xa : Word}

theorem State.lifeAt_bad (h : badHandle xa = true) : s.lifeAt c xa = BitVec.ofNat 64 (2 ^ 63 + 3) := by
  rw [State.lifeAt, if_pos h]
  exact status_eq_ofNat (by decide)

theorem State.lgenAt_bad (h : badHandle xa = true) : s.lgenAt c xa = BitVec.ofNat 64 (2 ^ 63 + 3) := by
  rw [State.lgenAt, if_pos h]
  exact status_eq_ofNat (by decide)

variable (h : badHandle xa = false)
include h

theorem State.lifeAt_none (hl : s.leaseOf xa (dieOfCell c.cell) = none) : s.lifeAt c xa = 0 := by
  rw [State.lifeAt, h, hl]
  rfl

theorem State.lifeAt_some (hl : s.leaseOf xa (dieOfCell c.cell) = some (n, l)) : s.lifeAt c xa =
    if l.alive then BitVec.ofNat 64 (l.expiry - s.tickOf l.home -
      (if 4 ≤ l.home ∧ l.home = homeCell c.cell then 0 else if l.home < 4 ∨ dieOfHome l.home = dieOfCell c.cell then 16 else 48)) else 0 := by
  have guard : guardTicks c.cell l.home =
      if 4 ≤ l.home ∧ l.home = homeCell c.cell then 0 else if l.home < 4 ∨ dieOfHome l.home = dieOfCell c.cell then 16 else 48 := by
    unfold guardTicks
    by_cases h4 : l.home < 4
    · rw [if_pos h4, if_neg fun e => absurd e.1 (Nat.not_le.2 h4), if_pos (.inl h4)]
    · rw [if_neg h4]
      simp only [Nat.not_lt.1 h4, h4, true_and, false_or]
  rw [State.lifeAt, h, hl, ← guard]
  rfl

theorem State.lgenAt_none (hl : s.entryOf xa (dieOfCell c.cell) = none) : s.lgenAt c xa = 0 := by
  rw [State.lgenAt, h, hl]
  rfl

theorem State.lgenAt_some (hl : s.entryOf xa (dieOfCell c.cell) = some (n, l)) :
    s.lgenAt c xa = BitVec.ofNat 64 (l.gen.toNat + if l.alive then 2 ^ 24 else 0) := by
  have figure : l.gen.zeroExtend 64 ||| bit l.alive 24 = BitVec.ofNat 64 (l.gen.toNat + if l.alive then 2 ^ 24 else 0) := by
    have small := l.gen.isLt
    have wide : (l.gen.zeroExtend 64 : Word).toNat = l.gen.toNat := BitVec.toNat_setWidth_of_le (by decide)
    apply BitVec.eq_of_toNat_eq
    cases l.alive
    · have zero : (bit false 24).toNat = 0 := by decide
      rw [BitVec.toNat_or, wide, zero, BitVec.toNat_ofNat, if_neg Bool.false_ne_true, Nat.or_zero]
      omega
    · have one : (bit true 24).toNat = 2 ^ 24 * 1 := by decide
      rw [BitVec.toNat_or, wide, one, BitVec.toNat_ofNat, if_pos rfl, Nat.or_comm, ← Nat.two_pow_add_eq_or_of_lt small]
      omega
  rw [State.lgenAt, h, hl, ← figure]
  rfl

end

/-- Settles O42: the requests other than `llk` are answered at their homes at once, or wait for a tick step; `llk` by the cases of
its lock's record. -/
theorem leaseInstructions : Obligations.LeaseInstructions := by
  unfold Obligations.LeaseInstructions
  intro d a b s hh c xa xb die answers fails
  have lpar_refused {v : Word} {k : Nat} (hv : v = status k) (hk : k < 2 ^ 63)
      (hat : (s.asked (s.lparReq d a b)).lparAt s.self (s.rx a) (s.rx b) = (s.asked (s.lparReq d a b), v)) :
      LeaseAnswers s d (.lpar d a b) (BitVec.ofNat 64 (2 ^ 63 + k)) := by
    rw [← status_eq_ofNat hk, ← hv]
    exact lparAnswers_of_refused hh hat
  refine ⟨fun bad => ⟨fun handler => ?_, ?_, ?_⟩, fun bad => lpar_refused rfl (by decide) (State.lparAt_bad bad), fun good => ?_, ?_⟩
  · exact traps_of_trap (if_pos bad) handler (by decide) (by decide)
  · exact lifeAnswers hh (State.lifeAt_bad (s := s) (c := s.self) bad)
  · exact lgenAnswers hh (State.lgenAt_bad (s := s) (c := s.self) bad)
  · intro kept
    refine ⟨fun hk hp handler => ?_, fun hk hb => ?_, fun hk h0 h32 => ?_, fun hl => ?_, fun n l hl => ?_, fun hl => ?_, fun n l hl => ?_⟩
    · exact traps_of_trap ((if_neg (Bool.not_eq_true _ |>.mpr good)).trans (if_pos ⟨hk, hp⟩)) handler (by decide) (by decide)
    · exact ⟨_, exec_renew_idle good hk hb, s.goesOn_finish⟩
    · have sends := exec_renew_sends good hk (fun h => h.elim h0 (Nat.not_le.2 h32)) hh
      refine ⟨_, sends, State.renewed_frame rfl, State.self_renewed.trans State.self_asked, State.withReq_found,
        fun n l hl => ⟨fun h4 => State.spread_single hl h4, fun h4 m q hm hq hn ho => State.spread_copies hl h4 hm hq hn ho⟩⟩
    · exact lifeAnswers hh (State.lifeAt_none (s := s) (c := s.self) good hl)
    · exact lifeAnswers hh (State.lifeAt_some (s := s) (c := s.self) good hl)
    · exact lgenAnswers hh (State.lgenAt_none (s := s) (c := s.self) good hl)
    · exact lgenAnswers hh (State.lgenAt_some (s := s) (c := s.self) good hl)
  · intro sealed
    refine ⟨fun ga gb hp hs => lpar_refused rfl (by decide) (State.lparAt_sealed ga gb hp hs), fun ga gb ho => ?_, ?_⟩
    · refine ⟨fun h => lpar_refused rfl (by decide) (State.lparAt_none ga gb ho h), fun n l p q hl hq =>
        ⟨fun dead => lpar_refused rfl (by decide) (State.lparAt_dead ga gb ho hl hq dead),
          fun la qa foreign => lpar_refused rfl (by decide) (State.lparAt_foreign ga gb ho hl hq la qa foreign), fun la qa lp qp => ?_⟩⟩
      have under := State.isUnder_congr (u := s.asked (s.lparReq d a b)) (s := s) (k := 8) (n := n) (p := p) rfl
      have depth := State.depthOf_congr (u := s.asked (s.lparReq d a b)) (s := s) (k := 8) (n := p) rfl
      have height := State.heightOf_congr (u := s.asked (s.lparReq d a b)) (s := s) (k := 8) (n := n) rfl
      refine ⟨fun deep => ?_, fun hu hd h4 hn hp => ?_, fun hu hd h4 hn hp => ?_⟩
      · rw [← under, ← depth, ← height] at deep
        exact lpar_refused rfl (by decide) (State.lparAt_deep ga gb ho hl hq la qa lp qp deep)
      all_goals rw [← depth, ← height] at hd
      all_goals rw [← under] at hu
      all_goals obtain ⟨t, meaning, done, leases⟩ := lpar_linked hh (State.lparAt_links ga gb ho hl hq la qa lp qp hu hd)
      all_goals refine ⟨t, meaning, done.1, congrArg Ctx.pc done.2, ?_⟩
      · intro m
        rw [leases, State.setParent_own (u := s.asked (s.lparReq d a b)) hn hp h4]
        exact tfind_tset _ _ _ _
      · refine ⟨_, (congrArg (tfind · n) leases).trans (State.setParent_replicated hn hp h4), fun hq4 => if_neg (Nat.not_lt.2 hq4), fun k hq4 hk => ?_⟩
        exact State.parentFor_spec hk hq4
    · intro plain
      refine ⟨fun odd handler => traps_of_trap (exec_llk_misaligned plain odd) handler (by decide) (by decide),
        fun aligned out handler => traps_of_trap (exec_llk_outside plain aligned out) handler (by decide) (by decide),
        fun u bs aligned mem check local_ fabric read unkept moves => ?_⟩
      have same : u.rx b = s.rx b := by
        have flushes := Flushes.readBytes mem read
        have cur : u.cur = s.cur := by rw [flushes.caches]
        have regs : u.self.x = s.self.x := by rw [State.self, State.self, cur, flushes.ctxs.frame]
        rw [State.rx, State.rx, Ctx.x?, Ctx.x?, regs]
      have meaning := exec_llk (d := d) (b := b) plain aligned mem check local_ fabric read unkept moves
      rw [same] at meaning
      refine ⟨fun h0 => llk_life meaning h0, fun h bad => llk_bad meaning h bad, fun h good new => ?_, fun h good n l hf hn => ?_⟩
      · obtain ⟨full, room⟩ := llk_new meaning h good new
        refine ⟨full, fun hf => ?_⟩
        obtain ⟨t, m, reply, granted⟩ := room hf
        exact ⟨t, m, granted.spelled reply⟩
      · obtain ⟨lapsing, full, free, busy⟩ := llk_old meaning h good hf hn
        refine ⟨lapsing, full, fun hs hd hroom => ⟨fun hl => ?_, fun hl => ?_⟩, fun hs => ?_⟩
        · obtain ⟨t, m, reply, granted⟩ := (free hs hd hroom).1 hl
          exact ⟨t, m, granted.spelled reply⟩
        · obtain ⟨t, reply, ⟨sst, wait, r, req⟩, drains⟩ := (free hs hd hroom).2 hl
          obtain ⟨found, parked, lock, order, arrived⟩ := req
          exact ⟨t, r, reply, sst, wait, found, parked, lock, order, arrived, drains⟩
        · obtain ⟨t, reply, ⟨sst, wait, r, req⟩, leases⟩ := busy hs
          obtain ⟨found, parked, lock, order, arrived⟩ := req
          exact ⟨t, r, reply, sst, wait, found, parked, lock, order, arrived, leases⟩

end Sys2Proof.Machine
end

section
/-! PROOFS. What the range operations keep, and the lines that `pf` fills (05 R113, R114; 10 R227). -/

set_option Elab.async false

namespace Sys2Proof.Machine

section
variable {s t u : State} {x cell id n lo hi va : Nat} {c : Ctx} {a b : BitVec 5} {sc : BitVec 1}

/-! ## Frames -/

theorem Flushes.modDie {die : Nat} {f : Die → Die} (h : (f (s.die die)).cyc = (s.die die).cyc) : Flushes s (s.modDie die f) :=
  .home (s.homesOnly_modDie die f) fun _ => State.cyc_modDie h

theorem Flushes.dramWrite (s : State) (die pa : Nat) (l : L2Line) : Flushes s (s.dramWrite die pa l) :=
  .home (s.homesOnly_dramWrite die pa l) fun _ => s.cyc_dramWrite die pa l

theorem Flushes.countDiscard (s : State) (cell : Nat) : Flushes s (s.countDiscard cell) := by
  refine ⟨rfl, .of_ctxs rfl, fun _ => rfl, fun n => ?_, Nat.le_refl _⟩
  rw [State.countDiscard, State.cell_modCell]
  split
  · next e => rw [e]
  · rfl

theorem Flushes.l1Drop (s : State) (cell id : Nat) : Flushes s (s.l1Drop cell id) := .l1Set ..

theorem Flushes.homeLine {r : Page × Bank} {space : Nat} (e : s.homeLine space va = .ok (t, r)) : Flushes s t :=
  .home (State.homesOnly_homeLine e) fun _ => State.cyc_homeLine e

theorem Flushes.wbL1 (s : State) (lo hi : Nat) : Flushes s (s.wbL1 lo hi) :=
  foldl_related Flushes.refl Flushes.trans (fun u (_ : Nat × L1Line) => .l1WriteBack u ..) _ s

theorem Flushes.invL1 (s : State) (lo hi : Nat) : Flushes s (s.invL1 lo hi) := by
  refine foldl_related Flushes.refl Flushes.trans (fun u p => ?_) _ s
  dsimp only
  split
  · exact .refl u
  · split
    · exact (Flushes.countDiscard ..).trans (.l1Drop ..)
    · exact .l1Drop ..

theorem Flushes.wbL2 (s : State) (lo hi : Nat) : Flushes s (s.wbL2 lo hi) := by
  refine foldl_related Flushes.refl Flushes.trans (fun u p => ?_) _ s
  split
  · exact (Flushes.dramWrite ..).trans (.modDie rfl)
  · exact .refl u

theorem Flushes.invL2 (s : State) (lo hi : Nat) : Flushes s (s.invL2 lo hi) := by
  refine foldl_related Flushes.refl Flushes.trans (fun u p => ?_) _ s
  dsimp only
  split
  · exact .refl u
  · split
    · exact (Flushes.countDiscard ..).trans (.modDie rfl)
    · exact .modDie rfl

theorem Flushes.cur (h : Flushes s t) : t.cur = s.cur := by rw [h.caches]
theorem Flushes.leases (h : Flushes s t) : t.leases = s.leases := by rw [h.caches]

theorem Flushes.self (h : Flushes s t) : t.self =
    { s.self with sst := t.self.sst, shown := t.self.shown, readySince := t.self.readySince, drops := t.self.drops } := by
  rw [State.self, State.self, h.cur, h.ctxs.frame]

theorem Flushes.guardedByOther (h : Flushes s t) (space va : Nat) : t.guardedByOther space va = s.guardedByOther space va := by
  rw [State.guardedByOther, State.guardedByOther, h.cur, h.leases]

/-- What every range operation keeps: the registers and the scratchpads. -/
def RangeKeeps (s t : State) : Prop :=
  t.self.pc = s.self.pc + 4 ∧ (∀ r : BitVec 5, t.rx r = s.rx r) ∧ (∀ r : BitVec 4, t.rv r = s.rv r) ∧
    ∀ m, (t.cell m).spad = (s.cell m).spad

theorem Flushes.finish (h : Flushes s t) : RangeKeeps s t.finish := by
  have self : t.finish.self = { t.self.settle t.now with pc := t.self.pc + 4 } := by rw [t.goesOn_finish.2, Ctx.doneAt_eq]
  refine ⟨?_, fun r => ?_, fun r => ?_, fun m => ?_⟩
  · rw [self, h.self]
  · have same : t.finish.self.x = s.self.x := by rw [self]; show t.self.x = _; rw [h.self]
    rw [State.rx, State.rx, Ctx.x?, Ctx.x?, same]
  · have same : t.finish.self.v = s.self.v := by rw [self]; show t.self.v = _; rw [h.self]
    rw [State.rv, State.rv, Ctx.v?, Ctx.v?, same]
  · show (t.cell m).spad = _
    rw [h.cell]

/-! ## The common course -/

theorem rangeOf_some (h : (s.rx b).toNat ≠ 0) : rangeOf (s.rx a) (s.rx b) =
    some ((s.rx a).toNat / 128 * 128, ((s.rx a).toNat + (s.rx b).toNat - 1) / 128 * 128) :=
  if_neg fun e => h (by rw [e]; rfl)

theorem rangeOf_none (h : (s.rx b).toNat = 0) : rangeOf (s.rx a) (s.rx b) = none :=
  if_pos (BitVec.eq_of_toNat_eq h)

section
variable {f : State → Nat → Nat → State}

theorem State.rangeOp_empty (h : (s.rx b).toNat = 0) : s.rangeOp a b f = .next s.finish := by
  rw [State.rangeOp, rangeOf_none h]

variable (h : (s.rx b).toNat ≠ 0)
include h

theorem State.rangeOp_below (hx : (s.rx a).toNat / 128 * 128 < 0x1_0000_0000) : s.rangeOp a b f = .next (s.trap cXLATE (s.rx a)) := by
  rw [State.rangeOp, rangeOf_some h]
  exact if_pos hx

variable (hx : 0x1_0000_0000 ≤ (s.rx a).toNat / 128 * 128)
include hx

theorem State.rangeOp_waits (hs : (s.cell s.self.cell).spx = true) : s.rangeOp a b f = .next (s.stall .again) := by
  rw [State.rangeOp, rangeOf_some h]
  exact (if_neg (Nat.not_lt.2 hx)).trans (if_pos hs)

theorem State.rangeOp_runs (hs : (s.cell s.self.cell).spx = false) : s.rangeOp a b f =
    .next (f s ((s.rx a).toNat / 128 * 128) (((s.rx a).toNat + (s.rx b).toNat - 1) / 128 * 128)).finish := by
  rw [State.rangeOp, rangeOf_some h]
  exact (if_neg (Nat.not_lt.2 hx)).trans (if_neg (Bool.not_eq_true _ |>.mpr hs))

end

/-- A range operation that does not wait runs over its lines, which an empty range does not have. -/
theorem State.rangeOp_ends {f : State → Nat → Nat → State} {P : State → Prop}
    (h : (s.rx b).toNat = 0 ∨ (0x1_0000_0000 ≤ (s.rx a).toNat / 128 * 128 ∧ (s.cell s.self.cell).spx = false))
    (keeps : ∀ lo hi, Flushes s (f s lo hi))
    (does : (s.rx b).toNat ≠ 0 → P (f s ((s.rx a).toNat / 128 * 128) (((s.rx a).toNat + (s.rx b).toNat - 1) / 128 * 128)).finish) :
    ∃ t, s.rangeOp a b f = .next t ∧ RangeKeeps s t ∧ ((s.rx b).toNat ≠ 0 → P t) := by
  by_cases empty : (s.rx b).toNat = 0
  · exact ⟨_, State.rangeOp_empty empty, (Flushes.refl s).finish, fun h => absurd empty h⟩
  · obtain ⟨hx, hs⟩ := h.resolve_left empty
    exact ⟨_, State.rangeOp_runs empty hx hs, (keeps _ _).finish, does⟩

/-! ## pf -/

/-- The request of one line into L1 or L2 (05 R114). -/
def prefetch (sc : BitVec 1) (c : Ctx) (s : State) (va : Nat) : State :=
  if sc = 1 then
    match s.homeLine c.space va with
    | .ok (s, _, _) => s
    | .error _ => s
  else if (s.cell c.cell).spx || ((s.cell c.cell).l1Line c.sid va).isSome then s
  else
    match s.l1Fill c.cell c va with
    | .ok (s, _, _) => s
    | .error _ => s

/-- The lines of a context's pages in a range. -/
def State.pfLines (s : State) (lo hi : Nat) : List Nat :=
  (s.pages.filter fun p => p.sid = s.self.sid && !p.second).flatMap fun p => p.linesIn lo hi

theorem exec_pf (h : (s.rx b).toNat ≠ 0) : exec (.pf a b sc) s = .next ((s.pfLines ((s.rx a).toNat / 128 * 128)
    (((s.rx a).toNat + (s.rx b).toNat - 1) / 128 * 128)).foldl (prefetch sc s.self) s).finish := by
  show execPf a b sc s = _
  rw [execPf, rangeOf_some h]
  rfl

theorem exec_pf_empty (h : (s.rx b).toNat = 0) : exec (.pf a b sc) s = .next s.finish := by
  show execPf a b sc s = _
  rw [execPf, rangeOf_none h]

theorem Flushes.prefetched (s : State) (va : Nat) : Flushes s (prefetch sc c s va) := by
  unfold prefetch
  split
  · split
    · exact .homeLine ‹_›
    · exact .refl s
  · split
    · exact .refl s
    · split
      · exact .l1Fill ‹_›
      · exact .refl s

theorem Flushes.pf (s : State) (c : Ctx) (l : List Nat) : Flushes s (l.foldl (prefetch sc c) s) :=
  foldl_related Flushes.refl Flushes.trans (fun u va => .prefetched u va) l s

theorem pf_keeps : ∃ t, exec (.pf a b sc) s = .next t ∧ RangeKeeps s t := by
  by_cases empty : (s.rx b).toNat = 0
  · exact ⟨_, exec_pf_empty empty, (Flushes.refl s).finish⟩
  · exact ⟨_, exec_pf empty, (Flushes.pf ..).finish⟩

end
end Sys2Proof.Machine
end

section
/-! PROOFS. The line that `pf` fills, and the tables after a clean or a discard (05 R113, R114; 10 R213, R227). -/

set_option Elab.async false

namespace Sys2Proof.Machine

section
variable {s t u : State} {x cell id n lo hi va space : Nat} {c : Ctx} {a b : BitVec 5} {sc : BitVec 1} {p q : Page}

/-! ## The lines of one line's range -/

theorem State.pfLines_single {v : Nat} (hv : v ∈ s.pfLines lo lo) : v = lo := by
  obtain ⟨p, -, hv⟩ := List.mem_flatMap.1 hv
  have range := (List.mem_filter.1 hv).2
  rw [decide_eq_true_iff] at range
  omega

theorem State.page_spec (h : s.page space va = some p) : p ∈ s.pages ∧ p.sid.toNat = space ∧ p.va ≤ va ∧ va < p.va + p.size := by
  have found := List.find?_some h
  rw [Bool.and_eq_true, decide_eq_true_iff, decide_eq_true_iff] at found
  exact ⟨List.mem_of_find?_eq_some h, found⟩

theorem Page.size_mod (p : Page) : p.size % 128 = 0 := by
  unfold Page.size
  split <;> rfl

/-- The line of a page of the context is one of those requested. -/
theorem State.mem_pfLines (h : s.page s.self.space lo = some p) (hs : p.second = false) (hp : p.va % 128 = 0) (hlo : lo % 128 = 0) :
    lo ∈ s.pfLines lo lo := by
  obtain ⟨mem, sid, low, high⟩ := State.page_spec h
  have size := p.size_mod
  refine List.mem_flatMap.2 ⟨p, List.mem_filter.2 ⟨mem, ?_⟩, List.mem_filter.2 ⟨List.mem_map.2 ⟨(lo - p.va) / 128, ?_, ?_⟩, ?_⟩⟩
  · have same : p.sid = s.self.sid := BitVec.eq_of_toNat_eq sid
    rw [same, hs, decide_eq_true rfl]
    rfl
  · rw [List.mem_range]
    omega
  · omega
  · rw [decide_eq_true_iff]
    omega

/-- A request repeated for its own line does what the first one does. -/
theorem foldl_same {α β : Type} {f : α → β → α} {y : β} {P : α → Prop} {l : List β} (hl : ∀ v, v ∈ l → v = y) (hne : l ≠ [])
    {x : α} (first : P (f x y)) (again : ∀ z, P z → P (f z y)) : P (l.foldl f x) := by
  have rest (l : List β) (hl : ∀ v, v ∈ l → v = y) (z : α) (hz : P z) : P (l.foldl f z) := by
    induction l generalizing z with
    | nil => exact hz
    | cons v l ih =>
      rw [List.foldl_cons, hl v (List.mem_cons_self ..)]
      exact ih (fun w hw => hl w (List.mem_cons_of_mem _ hw)) _ (again z hz)
  cases l with
  | nil => exact absurd rfl hne
  | cons v l =>
    rw [List.foldl_cons, hl v (List.mem_cons_self ..)]
    exact rest l (fun w hw => hl w (List.mem_cons_of_mem _ hw)) _ first

/-! ## A line filled into L1 -/

theorem mem_tset_self {α : Type} (t : Table α) (k : Nat) (v : α) : (k, v) ∈ tset t k v := mem_of_tfind (tfind_tset_self t k v)

theorem State.l1Set_line {sid : BitVec 16} {k : Nat} {l : L1Line} (hs : l.sid = sid) (hv : l.va = va / 128 * 128) :
    (((u.modCell cell fun c => { c with l1 := tset c.l1 k l }).cell cell).l1Line sid va).isSome = true := by
  rw [Cell.l1Line, List.find?_isSome, State.cell_modCell_self]
  refine ⟨(k, l), mem_tset_self _ _ _, ?_⟩
  rw [hs, hv, decide_eq_true rfl, decide_eq_true rfl]
  rfl

theorem State.l1Fill_line {r : Nat × L1Line} (e : s.l1Fill cell c va = .ok (t, r)) : ((t.cell cell).l1Line c.sid va).isSome = true := by
  unfold State.l1Fill at e
  split at e
  · cases e
  · cases e
    exact State.l1Set_line rfl rfl

theorem prefetch_l1_present (h : ((s.cell c.cell).l1Line c.sid va).isSome = true) : prefetch 0 c s va = s := by
  rw [prefetch, if_neg (by decide), h, Bool.or_true, if_pos rfl]

theorem prefetch_l1_fills (ht : s.HomeTakes c.space va) (hs : (s.cell c.cell).spx = false) (hr : (s.cell c.cell).l1Room) :
    (((prefetch 0 c s va).cell c.cell).l1Line c.sid va).isSome = true := by
  cases h : (s.cell c.cell).l1Line c.sid va with
  | some l =>
    have present : ((s.cell c.cell).l1Line c.sid va).isSome = true := by rw [h]; rfl
    rw [prefetch_l1_present present]
    exact present
  | none =>
    obtain ⟨q, t, id, l, -, e, -, -⟩ := State.l1Fill_of_takes ht h hr
    rw [prefetch, if_neg (by decide), hs, h, if_neg (by decide), e]
    exact State.l1Fill_line e

/-! ## A line filled into L2 -/

/-- L2 holds the line of a page's address under its name. -/
def State.L2Holds (s : State) (p : Page) (va : Nat) : Prop :=
  ∃ l, tfind (s.die p.die).l2 (p.phys (va / 128 * 128)) = some l ∧ l.sid = p.sid ∧ l.va = va / 128 * 128

theorem State.l2Fill_holds : (s.l2Fill p va).1.L2Holds p va := by
  unfold State.l2Fill
  dsimp only
  split
  · next l e =>
    split
    · next same => exact ⟨l, e, same⟩
    · exact ⟨_, by rw [State.die_modDie, if_pos rfl]; exact tfind_tset_self _ _ _, rfl, rfl⟩
  · exact ⟨_, by rw [State.die_modDie, if_pos rfl]; exact tfind_tset_self _ _ _, rfl, rfl⟩

theorem State.homeLine_holds {r : Page × Bank} (hp : s.judge space va = .ok p) (e : s.homeLine space va = .ok (t, r)) : t.L2Holds p va := by
  unfold State.homeLine at e
  rw [hp] at e
  cases e
  exact State.l2Fill_holds

theorem Flushes.judge (h : Flushes s t) : t.judge space va = s.judge space va := by
  have parts : t.parts = s.parts := by rw [h.caches]
  have pages : t.pages = s.pages := by rw [h.caches]
  exact State.judge_congr (fun n => by rw [State.part, State.part, parts]) pages h.leases

theorem prefetch_l2_fills (hp : s.judge c.space va = .ok p) : (prefetch 1 c s va).L2Holds p va := by
  cases e : s.homeLine c.space va with
  | error e' =>
    unfold State.homeLine at e
    rw [hp] at e
    cases e
  | ok r =>
    rw [prefetch, if_pos rfl, e]
    exact State.homeLine_holds hp e

theorem State.page_of_judge (h : s.judge space va = .ok q) : s.page space va = some q := by
  unfold State.judge at h
  split at h
  · cases h
  · unfold State.backed at h
    split at h
    · cases h
    · next p hp =>
      rw [hp]
      split at h
      · split at h
        · cases h; rfl
        · cases h
      · cases h; rfl

end
end Sys2Proof.Machine
end

section
/-! PROOFS. The cached lines of a range after a clean or a discard (05 R113, R114; 10 R213, R227). -/

set_option Elab.async false

namespace Sys2Proof.Machine

/-! ## Folds over entries of a table -/

section
variable {σ α κ β : Type} [DecidableEq κ] {f : σ → α → σ} {look : σ → κ → Option β} {key : α → κ} {val : α → β} {inv : σ → Prop}

/-- A fold whose every step brings its own entry into a state that further steps keep, and leaves the others. -/
theorem foldl_settles {good : Option β → Prop} (keeps : ∀ s x, inv s → inv (f s x))
    (others : ∀ s x k, inv s → k ≠ key x → look (f s x) k = look s k)
    (own : ∀ s x, inv s → look s (key x) = some (val x) ∨ good (look s (key x)) → good (look (f s x) (key x))) (l : List α) (s : σ) (hs : inv s)
    (hl : ∀ x, x ∈ l → look s (key x) = some (val x) ∨ good (look s (key x))) :
    (∀ x, x ∈ l → good (look (l.foldl f s) (key x))) ∧ ∀ k, (∀ x, x ∈ l → key x ≠ k) → look (l.foldl f s) k = look s k := by
  induction l generalizing s with
  | nil => exact ⟨fun _ h => (List.not_mem_nil h).elim, fun _ _ => rfl⟩
  | cons x l ih =>
    have first := own s x hs (hl x (List.mem_cons_self ..))
    obtain ⟨goods, same⟩ := ih (f s x) (keeps s x hs) fun y hy => by
      by_cases e : key y = key x
      · rw [e]; exact .inr first
      · rw [others s x _ hs e]; exact hl y (List.mem_cons_of_mem _ hy)
    refine ⟨fun y hy => ?_, fun k hk => ?_⟩
    · rcases List.mem_cons.1 hy with rfl | hy
      · by_cases later : ∃ z, z ∈ l ∧ key z = key y
        · obtain ⟨z, hz, e⟩ := later
          rw [← e]
          exact goods z hz
        · rw [List.foldl_cons, same (key y) fun z hz e => later ⟨z, hz, e⟩]
          exact first
      · exact goods y hy
    · rw [List.foldl_cons, same k fun y hy => hk y (List.mem_cons_of_mem _ hy), others s x k hs (Ne.symm (hk x (List.mem_cons_self ..)))]

/-- A fold whose steps delete their entries, where a condition says so. -/
theorem foldl_deletes {cond : α → Bool} (keeps : ∀ s x, inv s → inv (f s x))
    (step : ∀ s x k, inv s → look (f s x) k = if key x = k ∧ cond x = true then none else look s k) (l : List α) (s : σ) (hs : inv s) (k : κ) :
    look (l.foldl f s) k = if ∃ x, x ∈ l ∧ key x = k ∧ cond x = true then none else look s k := by
  induction l generalizing s with
  | nil => simp
  | cons x l ih =>
    rw [List.foldl_cons, ih (f s x) (keeps s x hs), step s x k hs]
    by_cases h : key x = k ∧ cond x = true
    · rw [if_pos h, ite_self, if_pos ⟨x, List.mem_cons_self .., h⟩]
    · rw [if_neg h]
      simp only [List.mem_cons, exists_eq_or_imp, h, false_or]

end

section
variable {s t u : State} {x cell id n lo hi va space : Nat}

/-! ## L1 cleaned (10 R213, R215) -/

/-- The lines of a range, by their places. -/
def L1Line.within (l : L1Line) (sid : BitVec 16) (lo hi : Nat) : Prop := l.sid = sid ∧ lo ≤ l.va ∧ l.va ≤ hi
def L2Line.within (l : L2Line) (sid : BitVec 16) (lo hi : Nat) : Prop := l.sid = sid ∧ lo ≤ l.va ∧ l.va ≤ hi

theorem State.mem_l1InRange {p : Nat × L1Line} : p ∈ s.l1InRange lo hi ↔ p ∈ (s.cell s.self.cell).l1 ∧ p.2.within s.self.sid lo hi := by
  rw [State.l1InRange, List.mem_filter, Bool.and_eq_true, decide_eq_true_iff, decide_eq_true_iff, L1Line.within]

theorem State.tfind_l1Drop (hr : risesFrom 0 (s.cell cell).l1 = true) (k : Nat) :
    tfind ((s.l1Drop cell id).cell cell).l1 k = if k = id then none else tfind (s.cell cell).l1 k := by
  rw [State.l1Drop, State.cell_modCell_self]
  exact tfind_tdel hr id k

/-- A line written back is clean, or gone. -/
theorem State.l1WriteBack_clean (hr : risesFrom 0 (s.cell cell).l1 = true) {l : L1Line}
    (h : tfind ((s.l1WriteBack cell id).cell cell).l1 id = some l) : l.dirty = 0 := by
  unfold State.l1WriteBack at h
  split at h
  · next e => rw [e] at h; cases h
  · next l' e =>
    split at h
    · next clean => rw [e] at h; cases h; exact clean
    · split at h
      · next t written =>
        have cells : t.cells = s.cells := (State.homesOnly_homeModify written).cells
        split at h
        · rw [State.cell_modCell_self, tfind_tset_self] at h
          cases h
          rfl
        · have rises : risesFrom 0 (t.cell cell).l1 = true := by rw [State.cell, cells]; exact hr
          rw [State.tfind_l1Drop rises, if_pos rfl] at h
          cases h
      · next code _ =>
        have queues := QueuesOnly.dropped (s.l1Drop cell id) (code := code) l'.stores
        rw [queues.cells] at h
        have gone : tfind ((s.l1Drop cell id).cell cell).l1 id = some l := h
        rw [State.tfind_l1Drop hr, if_pos rfl] at gone
        cases gone

theorem Flushes.self_cell (h : Flushes s t) : t.self.cell = s.self.cell := by rw [h.self]
theorem Flushes.self_sid (h : Flushes s t) : t.self.sid = s.self.sid := by rw [h.self]

/-- The acting context's L1, its places in order. -/
structure State.L1Sorted (s : State) (cell : Nat) : Prop where
  at_   : s.self.cell = cell
  rises : risesFrom 0 (s.cell cell).l1 = true

theorem State.L1Sorted.l1WriteBack (h : s.L1Sorted cell) (id : Nat) : (s.l1WriteBack s.self.cell id).L1Sorted cell := by
  refine ⟨(Flushes.l1WriteBack ..).self_cell.trans h.at_, ?_⟩
  rw [h.at_]
  exact (LineOnly.l1WriteBack s cell id).rises h.rises

theorem State.wbL1_settles (h : s.L1Sorted cell) :
    (∀ p, p ∈ s.l1InRange lo hi → ∀ l, tfind ((s.wbL1 lo hi).cell cell).l1 p.1 = some l → l.dirty = 0) ∧
      ∀ k, (∀ p, p ∈ s.l1InRange lo hi → p.1 ≠ k) → tfind ((s.wbL1 lo hi).cell cell).l1 k = tfind (s.cell cell).l1 k := by
  refine foldl_settles (f := fun (s : State) (p : Nat × L1Line) => s.l1WriteBack s.self.cell p.1) (look := fun s k => tfind (s.cell cell).l1 k)
    (key := Prod.fst) (val := Prod.snd) (inv := fun s => s.L1Sorted cell) (good := fun o => ∀ l, o = some l → l.dirty = 0)
    (fun s p hs => hs.l1WriteBack p.1) (fun s p k hs hk => ?_) (fun s p hs _ l hl => ?_) _ s h fun p hp => ?_
  · rw [hs.at_]
    exact (LineOnly.l1WriteBack s cell p.1).others hs.rises k hk
  · rw [hs.at_] at hl
    exact State.l1WriteBack_clean hs.rises hl
  · have member := (State.mem_l1InRange.1 hp).1
    rw [h.at_] at member
    exact .inl (tfind_of_mem h.rises member)

theorem State.L1Sorted.wbL1 (h : s.L1Sorted cell) : (s.wbL1 lo hi).L1Sorted cell := by
  have keeps (l : List (Nat × L1Line)) (s : State) (h : s.L1Sorted cell) : (l.foldl (fun s p => s.l1WriteBack s.self.cell p.1) s).L1Sorted cell := by
    induction l generalizing s with
    | nil => exact h
    | cons p l ih => exact ih _ (h.l1WriteBack p.1)
  exact keeps _ s h

theorem State.wbL1_clean (h : s.L1Sorted cell) {p : Nat × L1Line} (hp : p ∈ ((s.wbL1 lo hi).cell cell).l1)
    (hw : p.2.within s.self.sid lo hi) : p.2.dirty = 0 := by
  obtain ⟨clean, same⟩ := State.wbL1_settles (lo := lo) (hi := hi) h
  have found := tfind_of_mem h.wbL1.rises hp
  by_cases listed : ∃ q, q ∈ s.l1InRange lo hi ∧ q.1 = p.1
  · obtain ⟨q, hq, e⟩ := listed
    exact clean q hq p.2 (by rw [e]; exact found)
  · have kept := same p.1 fun q hq e => listed ⟨q, hq, e⟩
    rw [found] at kept
    refine absurd ⟨p, State.mem_l1InRange.2 ⟨?_, hw⟩, rfl⟩ listed
    rw [h.at_]
    exact mem_of_tfind kept.symm

/-! ## L1 discarded (05 R114) -/

/-- What `guardedByOther` answers throughout. -/
def State.GuardedAs (s : State) (g : Nat → Nat → Bool) : Prop := ∀ space va, s.guardedByOther space va = g space va

theorem Flushes.guardedAs {g : Nat → Nat → Bool} (h : Flushes s t) (hs : s.GuardedAs g) : t.GuardedAs g :=
  fun space va => (h.guardedByOther space va).trans (hs space va)

/-- The state that has counted a discarded line, if it was dirty (10 R227). -/
def State.tallied (s : State) (dirty : Bool) : State := if dirty then s.countDiscard s.self.cell else s

/-- One line of a discard. -/
def State.invLine (s : State) (p : Nat × L1Line) : State :=
  if s.guardedByOther p.2.sid.toNat p.2.va then s
  else (s.tallied (p.2.dirty ≠ 0)).l1Drop (s.tallied (p.2.dirty ≠ 0)).self.cell p.1

theorem State.invL1_eq : s.invL1 lo hi = (s.l1InRange lo hi).foldl State.invLine s := by
  have same : (fun (s : State) (p : Nat × L1Line) => if s.guardedByOther p.2.sid.toNat p.2.va then s
      else
        let s := if p.2.dirty ≠ 0 then s.countDiscard s.self.cell else s
        s.l1Drop s.self.cell p.1) = State.invLine := by
    funext s p
    simp only [State.invLine, State.tallied, decide_eq_true_eq]
  rw [State.invL1, same]

theorem Flushes.tallied (s : State) (dirty : Bool) : Flushes s (s.tallied dirty) := by
  cases dirty
  · exact .refl s
  · exact .countDiscard ..

theorem Flushes.invLine (s : State) (p : Nat × L1Line) : Flushes s (s.invLine p) := by
  unfold State.invLine
  split
  · exact .refl s
  · exact (Flushes.tallied s _).trans (.l1Drop ..)

theorem State.l1_tallied (dirty : Bool) : ((s.tallied dirty).cell n).l1 = (s.cell n).l1 := by
  cases dirty
  · rfl
  · rw [State.tallied, if_pos rfl, State.countDiscard, State.cell_modCell]
    split
    · next e => rw [e]
    · rfl

theorem State.tfind_invLine {g : Nat → Nat → Bool} (h : s.L1Sorted cell) (hg : s.GuardedAs g) (p : Nat × L1Line) (k : Nat) :
    tfind ((s.invLine p).cell cell).l1 k =
      if p.1 = k ∧ (!g p.2.sid.toNat p.2.va) = true then none else tfind (s.cell cell).l1 k := by
  unfold State.invLine
  rw [hg, (Flushes.tallied s _).self_cell, h.at_]
  cases g p.2.sid.toNat p.2.va with
  | true => simp
  | false =>
    have rises : risesFrom 0 ((s.tallied (p.2.dirty ≠ 0)).cell cell).l1 = true := by
      rw [State.l1_tallied]; exact h.rises
    rw [if_neg Bool.false_ne_true, State.tfind_l1Drop rises, State.l1_tallied]
    simp [eq_comm]

theorem State.L1Sorted.invLine (h : s.L1Sorted cell) (p : Nat × L1Line) : (s.invLine p).L1Sorted cell := by
  refine ⟨(Flushes.invLine s p).self_cell.trans h.at_, ?_⟩
  unfold State.invLine
  rw [(Flushes.tallied s _).self_cell, h.at_]
  split
  · exact h.rises
  · refine (LineOnly.l1Drop _ cell p.1).rises ?_
    rw [State.l1_tallied]
    exact h.rises

theorem State.tfind_invL1 {g : Nat → Nat → Bool} (h : s.L1Sorted cell) (hg : s.GuardedAs g) (k : Nat) :
    tfind ((s.invL1 lo hi).cell cell).l1 k =
      if ∃ p, p ∈ s.l1InRange lo hi ∧ p.1 = k ∧ (!g p.2.sid.toNat p.2.va) = true then none else tfind (s.cell cell).l1 k := by
  rw [State.invL1_eq]
  exact foldl_deletes (f := State.invLine) (look := fun s k => tfind (s.cell cell).l1 k) (key := Prod.fst)
    (inv := fun s => s.L1Sorted cell ∧ s.GuardedAs g) (cond := fun p => !g p.2.sid.toNat p.2.va)
    (fun s p hs => ⟨hs.1.invLine p, (Flushes.invLine s p).guardedAs hs.2⟩) (fun s p k hs => State.tfind_invLine hs.1 hs.2 p k) _ s ⟨h, hg⟩ k

theorem State.L1Sorted.invL1 (h : s.L1Sorted cell) : (s.invL1 lo hi).L1Sorted cell := by
  have keeps (l : List (Nat × L1Line)) (s : State) (h : s.L1Sorted cell) : (l.foldl State.invLine s).L1Sorted cell := by
    induction l generalizing s with
    | nil => exact h
    | cons p l ih => exact ih _ (h.invLine p)
  rw [State.invL1_eq]
  exact keeps _ s h

/-- Exactly the lines of the range go that no other context's lock guards. -/
theorem State.mem_invL1 (h : s.L1Sorted cell) (p : Nat × L1Line) : p ∈ ((s.invL1 lo hi).cell cell).l1 ↔
    p ∈ (s.cell cell).l1 ∧ ¬ (p.2.within s.self.sid lo hi ∧ s.guardedByOther p.2.sid.toNat p.2.va = false) := by
  have look := State.tfind_invL1 (lo := lo) (hi := hi) (g := s.guardedByOther) h (fun _ _ => rfl) p.1
  have member (t : Table L1Line) (ht : risesFrom 0 t = true) : p ∈ t ↔ tfind t p.1 = some p.2 := ⟨tfind_of_mem ht, mem_of_tfind⟩
  rw [member _ h.invL1.rises, member _ h.rises, look]
  constructor
  · intro found
    split at found
    · cases found
    · next unlisted =>
      refine ⟨found, fun ⟨within, free⟩ => unlisted ⟨p, State.mem_l1InRange.2 ⟨?_, within⟩, rfl, by rw [free]; rfl⟩⟩
      rw [h.at_]
      exact mem_of_tfind found
  · rintro ⟨found, kept⟩
    rw [if_neg, found]
    rintro ⟨q, hq, e, free⟩
    obtain ⟨mem, within⟩ := State.mem_l1InRange.1 hq
    rw [h.at_] at mem
    have same := tfind_of_mem h.rises mem
    rw [e, found] at same
    rw [← Option.some.inj same] at within free
    exact kept ⟨within, by simpa using free⟩

end
end Sys2Proof.Machine
end

section
/-! PROOFS. Discards counted, and the lines of L2 after a clean or a discard (05 R113, R114; 10 R227). -/

set_option Elab.async false

namespace Sys2Proof.Machine

section
variable {s t u : State} {x cell id n lo hi va space die pa j k : Nat} {g : Nat → Nat → Bool}

/-! ## Discards counted (10 R227) -/

/-- Of a discard, the lines that count. -/
def Counts (g : Nat → Nat → Bool) (p : Nat × L1Line) : Bool := !g p.2.sid.toNat p.2.va && p.2.dirty != 0

theorem State.disc_countDiscard : ((s.countDiscard cell).cell cell).disc.toNat = min (2 ^ 32 - 1) ((s.cell cell).disc.toNat + 1) := by
  have small := (s.cell cell).disc.isLt
  have top : (BitVec.allOnes 32).toNat = 2 ^ 32 - 1 := BitVec.toNat_allOnes
  rw [State.countDiscard, State.cell_modCell_self]
  dsimp only
  split
  · next full =>
    rw [full, top]
    omega
  · next short =>
    have less : (s.cell cell).disc.toNat ≠ 2 ^ 32 - 1 := fun e => short (BitVec.eq_of_toNat_eq (e.trans top.symm))
    have one : (1 : BitVec 32).toNat = 1 := rfl
    rw [BitVec.toNat_add, one]
    omega

theorem State.disc_l1Drop : ((s.l1Drop cell id).cell cell).disc = (s.cell cell).disc := by
  rw [State.l1Drop, State.cell_modCell_self]

theorem State.disc_invLine (h : s.L1Sorted cell) (hg : s.GuardedAs g) (p : Nat × L1Line) : ((s.invLine p).cell cell).disc.toNat =
    min (2 ^ 32 - 1) ((s.cell cell).disc.toNat + if Counts g p then 1 else 0) := by
  have small := (s.cell cell).disc.isLt
  unfold State.invLine Counts
  rw [hg, (Flushes.tallied s _).self_cell, h.at_]
  cases hgp : g p.2.sid.toNat p.2.va with
  | true =>
    rw [if_pos rfl, if_neg (by simp)]
    omega
  | false =>
    rw [if_neg Bool.false_ne_true, State.disc_l1Drop, State.tallied]
    by_cases dirty : p.2.dirty = 0
    · rw [if_neg (by simpa using dirty), if_neg (by simp [dirty])]
      omega
    · rw [if_pos (by simpa using dirty), if_pos (by simpa using dirty), h.at_]
      exact State.disc_countDiscard

theorem State.disc_invL1 (h : s.L1Sorted cell) (hg : s.GuardedAs g) : ((s.invL1 lo hi).cell cell).disc.toNat =
    min (2 ^ 32 - 1) ((s.cell cell).disc.toNat + ((s.l1InRange lo hi).filter (Counts g)).length) := by
  have count (l : List (Nat × L1Line)) (s : State) (h : s.L1Sorted cell) (hg : s.GuardedAs g) : ((l.foldl State.invLine s).cell cell).disc.toNat =
      min (2 ^ 32 - 1) ((s.cell cell).disc.toNat + (l.filter (Counts g)).length) := by
    induction l generalizing s with
    | nil =>
      have small := (s.cell cell).disc.isLt
      show _ = min _ (_ + 0)
      rw [List.foldl_nil]
      omega
    | cons p l ih =>
      rw [List.foldl_cons, ih _ (h.invLine p) ((Flushes.invLine s p).guardedAs hg), State.disc_invLine h hg, List.filter_cons]
      split
      · rw [List.length_cons]
        omega
      · omega
  rw [State.invL1_eq]
  exact count _ s h hg

/-! ## Tables of L2 in order -/

/-- The tables of the dies and of their L2 are in order. -/
structure State.L2Sorted (s : State) : Prop where
  dies : risesFrom 0 s.dies = true
  l2   : ∀ j, risesFrom 0 (s.die j).l2 = true

theorem State.L2Sorted.of_tables (hd : risesFrom 0 s.dies = true) (hl : ∀ d, d ∈ s.dies → risesFrom 0 d.2.l2 = true) : s.L2Sorted := by
  refine ⟨hd, fun j => ?_⟩
  rw [State.die, tget]
  cases e : tfind s.dies j with
  | none => rfl
  | some d => exact hl (j, d) (mem_of_tfind e)

theorem State.L2Sorted.modDie {f : Die → Die} (h : s.L2Sorted) (hf : risesFrom 0 (s.die die).l2 = true → risesFrom 0 (f (s.die die)).l2 = true) :
    (s.modDie die f).L2Sorted := by
  refine ⟨risesFrom_tset _ h.dies (Nat.zero_le _), fun j => ?_⟩
  rw [State.die_modDie]
  split
  · exact hf (h.l2 die)
  · exact h.l2 j

theorem State.L2Sorted.of_dies (h : s.L2Sorted) (hd : t.dies = s.dies) : t.L2Sorted :=
  ⟨by rw [hd]; exact h.dies, fun j => by rw [State.die, hd]; exact h.l2 j⟩

theorem State.L2Sorted.report (h : s.L2Sorted) {part : Nat} {d0 addr info : Word} {m : Option Msg} : (s.report part d0 addr info die m).L2Sorted :=
  h.of_dies rfl

theorem State.L2Sorted.l2Set (h : s.L2Sorted) {l : L2Line} : (s.modDie die fun d => { d with l2 := tset d.l2 pa l }).L2Sorted :=
  h.modDie fun hr => risesFrom_tset _ hr (Nat.zero_le _)

theorem State.L2Sorted.l2Put (h : s.L2Sorted) {p : Page} {b : Bank} : (s.l2Put p va b).L2Sorted :=
  State.L2Sorted.modDie (f := fun d => { d with l2 := tmod {} d.l2 _ fun l => { l with data := b, dirty := true } }) h
    fun hr => risesFrom_tset _ hr (Nat.zero_le _)

theorem State.L2Sorted.l2Del (h : s.L2Sorted) : (s.modDie die fun d => { d with l2 := tdel d.l2 pa }).L2Sorted :=
  h.modDie fun hr => risesFrom_tdel _ hr

theorem State.L2Sorted.dramWrite (h : s.L2Sorted) (die pa : Nat) (l : L2Line) : (s.dramWrite die pa l).L2Sorted := by
  unfold State.dramWrite
  dsimp only
  split
  · exact State.L2Sorted.report (h.modDie fun hr => hr)
  · exact h.modDie fun hr => hr

theorem State.L2Sorted.l2Evict (h : s.L2Sorted) (die pa : Nat) : (s.l2Evict die pa).L2Sorted := by
  unfold State.l2Evict
  split
  · exact h
  · dsimp only
    split
    · exact (h.dramWrite ..).l2Del
    · exact h.l2Del

theorem State.L2Sorted.foldl {α : Type} {f : State → α → State} (h : s.L2Sorted) (hf : ∀ s x, s.L2Sorted → (f s x).L2Sorted) (l : List α) :
    (l.foldl f s).L2Sorted := by
  induction l generalizing s with
  | nil => exact h
  | cons x l ih => exact ih (hf s x h)

theorem State.L2Sorted.l2MakeRoom (h : s.L2Sorted) (die slice k : Nat) : (s.l2MakeRoom die slice k).L2Sorted :=
  h.foldl (fun _ p hs => hs.l2Evict die p.1) _

theorem State.L2Sorted.l2Fill (h : s.L2Sorted) (p : Page) (va : Nat) : (s.l2Fill p va).1.L2Sorted := by
  unfold State.l2Fill
  dsimp only
  split
  · split
    · exact h
    · exact ((h.l2Evict ..).l2MakeRoom ..).l2Set
  · exact (h.l2MakeRoom ..).l2Set

theorem State.L2Sorted.homeLine (h : s.L2Sorted) {r : Page × Bank} (e : s.homeLine space va = .ok (t, r)) : t.L2Sorted := by
  unfold State.homeLine at e
  split at e
  · cases e
  · cases e
    exact h.l2Fill _ _

theorem State.L2Sorted.homeModify (h : s.L2Sorted) {f : Bank → Nat → Bank} (e : s.homeModify (.mem space va) n f = .ok t) : t.L2Sorted := by
  simp only [State.homeModify, State.lineModify] at e
  split at e
  · cases e
  · split at e
    · cases e
    · next line =>
      cases e
      exact (h.homeLine line).l2Put

theorem State.L2Sorted.l1WriteBack (h : s.L2Sorted) (cell id : Nat) : (s.l1WriteBack cell id).L2Sorted := by
  unfold State.l1WriteBack
  split
  · exact h
  · next l _ =>
    split
    · exact h
    · split
      · next t e =>
        split
        · next line => exact ((h.homeModify e).homeLine line).of_dies rfl
        · exact (h.homeModify e).of_dies rfl
      · next code _ => exact h.of_dies (QueuesOnly.dropped (s.l1Drop cell id) (code := code) l.stores).homes.dies

theorem State.L2Sorted.wbL1 (h : s.L2Sorted) : (s.wbL1 lo hi).L2Sorted := h.foldl (fun s p hs => hs.l1WriteBack s.self.cell p.1) _

end
end Sys2Proof.Machine
end

section
/-! PROOFS. The lines of L2 after a clean or a discard (05 R113, R114; 10 R227). -/

set_option Elab.async false

namespace Sys2Proof.Machine

section
variable {s t u : State} {x cell id n lo hi va space die pa j k : Nat} {g : Nat → Nat → Bool}

/-- The line that L2 of a die holds at a physical address. -/
def State.l2At (s : State) (k : Nat × Nat) : Option L2Line := tfind (s.die k.1).l2 k.2

theorem State.l2At_of_mem (h : s.L2Sorted) {d : Nat × Die} {p : Nat × L2Line} (hd : d ∈ s.dies) (hp : p ∈ d.2.l2) : s.l2At (d.1, p.1) = some p.2 := by
  have found := tfind_of_mem h.dies hd
  have same : s.die d.1 = d.2 := by rw [State.die, tget, found]; rfl
  have rises := h.l2 d.1
  rw [same] at rises
  rw [State.l2At, same]
  exact tfind_of_mem rises hp

theorem State.mem_of_l2At {q : Nat × Nat} {l : L2Line} (h : s.l2At q = some l) : ∃ d, (q.1, d) ∈ s.dies ∧ (q.2, l) ∈ d.l2 := by
  rw [State.l2At, State.die, tget] at h
  cases e : tfind s.dies q.1 with
  | none => rw [e] at h; cases h
  | some d => rw [e] at h; exact ⟨d, mem_of_tfind e, mem_of_tfind h⟩

/-- The entries of L2 in a range, under their places. -/
theorem State.l2At_of_inRange (h : s.L2Sorted) {y : Nat × Nat × L2Line} (hy : y ∈ s.l2InRange lo hi) :
    s.l2At (y.1, y.2.1) = some y.2.2 ∧ y.2.2.within s.self.sid lo hi := by
  obtain ⟨d, hd, hy⟩ := List.mem_flatMap.1 hy
  obtain ⟨p, hp, rfl⟩ := List.mem_map.1 hy
  obtain ⟨mem, within⟩ := List.mem_filter.1 hp
  rw [Bool.and_eq_true, decide_eq_true_iff, decide_eq_true_iff] at within
  exact ⟨State.l2At_of_mem h hd mem, within⟩

theorem State.inRange_of_l2At {q : Nat × Nat} {l : L2Line} (h : s.l2At q = some l) (hw : l.within s.self.sid lo hi) :
    (q.1, q.2, l) ∈ s.l2InRange lo hi := by
  obtain ⟨d, hd, hl⟩ := State.mem_of_l2At h
  refine List.mem_flatMap.2 ⟨(q.1, d), hd, List.mem_map.2 ⟨(q.2, l), List.mem_filter.2 ⟨hl, ?_⟩, rfl⟩⟩
  rw [Bool.and_eq_true, decide_eq_true_iff, decide_eq_true_iff]
  exact hw

theorem State.l2At_modDie {f : Die → Die} (q : Nat × Nat) :
    (s.modDie die f).l2At q = if q.1 = die then tfind (f (s.die die)).l2 q.2 else s.l2At q := by
  rw [State.l2At, State.die_modDie]
  split
  · rfl
  · rfl

theorem State.l2At_modDie_same {f : Die → Die} {q : Nat × Nat} (hf : (f (s.die die)).l2 = (s.die die).l2) : (s.modDie die f).l2At q = s.l2At q := by
  rw [State.l2At_modDie]
  split
  · next e => rw [hf, State.l2At, e]
  · rfl

theorem State.l2At_report {part : Nat} {d0 addr info : Word} {m : Option Msg} {q : Nat × Nat} :
    (s.report part d0 addr info die m).l2At q = s.l2At q := rfl

theorem State.l2At_dramWrite (s : State) (die pa : Nat) (l : L2Line) (q : Nat × Nat) : (s.dramWrite die pa l).l2At q = s.l2At q := by
  unfold State.dramWrite
  dsimp only
  split
  · rw [State.l2At_report]
    exact State.l2At_modDie_same rfl
  · exact State.l2At_modDie_same rfl

/-! ## Cleaned -/

/-- One line of a clean of L2. -/
def State.cleanLine (s : State) (p : Nat × Nat × L2Line) : State :=
  if p.2.2.dirty then
    (s.dramWrite p.1 p.2.1 p.2.2).modDie p.1 fun d => { d with l2 := tmod {} d.l2 p.2.1 fun l => { l with dirty := false } }
  else s

theorem State.L2Sorted.cleanLine (h : s.L2Sorted) (p : Nat × Nat × L2Line) : (s.cleanLine p).L2Sorted := by
  unfold State.cleanLine
  split
  · exact State.L2Sorted.modDie (h.dramWrite ..) fun hr => risesFrom_tset _ hr (Nat.zero_le _)
  · exact h

theorem State.cleanLine_others (p : Nat × Nat × L2Line) {q : Nat × Nat} (hq : q ≠ (p.1, p.2.1)) : (s.cleanLine p).l2At q = s.l2At q := by
  unfold State.cleanLine
  split
  · rw [State.l2At_modDie]
    split
    · next e =>
      have place : q.2 ≠ p.2.1 := fun e' => hq (Prod.ext e e')
      rw [tmod, tfind_tset_ne _ _ place, ← e]
      exact s.l2At_dramWrite ..
    · exact s.l2At_dramWrite ..
  · rfl

/-- No line, or a clean one. -/
def CleanAt (o : Option L2Line) : Prop := ∀ l, o = some l → l.dirty = false

theorem State.cleanLine_own (p : Nat × Nat × L2Line) (h : s.l2At (p.1, p.2.1) = some p.2.2 ∨ CleanAt (s.l2At (p.1, p.2.1))) :
    CleanAt ((s.cleanLine p).l2At (p.1, p.2.1)) := by
  unfold State.cleanLine
  split
  · intro l hl
    rw [State.l2At_modDie, if_pos rfl, tmod, tfind_tset_self] at hl
    cases hl
    rfl
  · next clean =>
    rcases h with h | h
    · intro l hl
      rw [h] at hl
      cases hl
      exact Bool.not_eq_true _ ▸ clean
    · exact h

theorem State.wbL2_clean (h : s.L2Sorted) {d : Nat × Die} {p : Nat × L2Line} (hd : d ∈ (s.wbL2 lo hi).dies) (hp : p ∈ d.2.l2)
    (hw : p.2.within s.self.sid lo hi) : p.2.dirty = false := by
  obtain ⟨clean, same⟩ := foldl_settles (f := State.cleanLine) (look := State.l2At) (key := fun p : Nat × Nat × L2Line => (p.1, p.2.1))
    (val := fun p => p.2.2) (inv := State.L2Sorted) (good := CleanAt) (fun s p hs => hs.cleanLine p) (fun s p q _ hq => State.cleanLine_others p hq)
    (fun s p _ hp => State.cleanLine_own p hp) (s.l2InRange lo hi) s h fun p hp => .inl (State.l2At_of_inRange h hp).1
  have sorted : (s.wbL2 lo hi).L2Sorted := h.foldl (fun s p hs => hs.cleanLine p) _
  have found := State.l2At_of_mem sorted hd hp
  by_cases listed : ∃ q, q ∈ s.l2InRange lo hi ∧ (q.1, q.2.1) = (d.1, p.1)
  · obtain ⟨q, hq, e⟩ := listed
    exact clean q hq p.2 (by rw [e]; exact found)
  · have kept := same (d.1, p.1) fun q hq e => listed ⟨q, hq, e⟩
    exact absurd ⟨_, State.inRange_of_l2At (kept.symm.trans found) hw, rfl⟩ listed

/-! ## Discarded -/

/-- One line of a discard of L2. -/
def State.dropLine (s : State) (p : Nat × Nat × L2Line) : State :=
  if s.guardedByOther p.2.2.sid.toNat p.2.2.va then s
  else (s.tallied p.2.2.dirty).modDie p.1 fun d => { d with l2 := tdel d.l2 p.2.1 }

theorem State.invL2_eq : s.invL2 lo hi = (s.l2InRange lo hi).foldl State.dropLine s := rfl

theorem Flushes.dropLine (s : State) (p : Nat × Nat × L2Line) : Flushes s (s.dropLine p) := by
  unfold State.dropLine
  split
  · exact .refl s
  · exact (Flushes.tallied s _).trans (.modDie rfl)

theorem State.dies_tallied (dirty : Bool) : (s.tallied dirty).dies = s.dies := by
  cases dirty <;> rfl

theorem State.L2Sorted.dropLine (h : s.L2Sorted) (p : Nat × Nat × L2Line) : (s.dropLine p).L2Sorted := by
  unfold State.dropLine
  split
  · exact h
  · exact (h.of_dies (State.dies_tallied _)).l2Del

theorem State.l2At_dropLine (h : s.L2Sorted) (hg : s.GuardedAs g) (p : Nat × Nat × L2Line) (q : Nat × Nat) :
    (s.dropLine p).l2At q = if (p.1, p.2.1) = q ∧ (!g p.2.2.sid.toNat p.2.2.va) = true then none else s.l2At q := by
  unfold State.dropLine
  rw [hg]
  cases g p.2.2.sid.toNat p.2.2.va with
  | true => simp
  | false =>
    have die (j : Nat) : (s.tallied p.2.2.dirty).die j = s.die j := by rw [State.die, State.die, State.dies_tallied]
    have at_ : (s.tallied p.2.2.dirty).l2At q = s.l2At q := by rw [State.l2At, State.l2At, die]
    rw [if_neg Bool.false_ne_true, State.l2At_modDie, die, at_]
    by_cases hj : q.1 = p.1
    · rw [if_pos hj]
      dsimp only
      rw [tfind_tdel (h.l2 p.1)]
      by_cases hk : q.2 = p.2.1
      · rw [if_pos hk, if_pos ⟨(Prod.ext hj hk).symm, rfl⟩]
      · rw [if_neg hk, if_neg (fun e => hk (congrArg Prod.snd e.1).symm), State.l2At, hj]
    · rw [if_neg hj, if_neg (fun e => hj (congrArg Prod.fst e.1).symm)]

/-- No line of the range stays but those that another context's lock guards. -/
theorem State.invL2_guarded (h : s.L2Sorted) {d : Nat × Die} {p : Nat × L2Line} (hd : d ∈ (s.invL2 lo hi).dies) (hp : p ∈ d.2.l2)
    (hw : p.2.within s.self.sid lo hi) : s.guardedByOther p.2.sid.toNat p.2.va = true := by
  have sorted : (s.invL2 lo hi).L2Sorted := h.foldl (fun s p hs => hs.dropLine p) _
  have found := State.l2At_of_mem sorted hd hp
  have look := foldl_deletes (f := State.dropLine) (look := State.l2At) (key := fun p : Nat × Nat × L2Line => (p.1, p.2.1))
    (inv := fun t => t.L2Sorted ∧ t.GuardedAs s.guardedByOther) (cond := fun p => !s.guardedByOther p.2.2.sid.toNat p.2.2.va)
    (fun t p ht => ⟨ht.1.dropLine p, (Flushes.dropLine t p).guardedAs ht.2⟩) (fun t p q ht => State.l2At_dropLine ht.1 ht.2 p q)
    (s.l2InRange lo hi) s ⟨h, fun _ _ => rfl⟩ (d.1, p.1)
  rw [← State.invL2_eq, found] at look
  split at look
  · cases look
  · next unlisted =>
    by_contra free
    exact unlisted ⟨_, State.inRange_of_l2At look.symm hw, rfl, by simpa using free⟩

end
end Sys2Proof.Machine
end

section
/-! PROOFS. The range operations clean and drop the lines of their range (05 R113, R114; 10 R213, R215, R227). -/

set_option Elab.async false

namespace Sys2Proof.Machine

section
variable {s t u : State} {cell n lo hi : Nat} {a b : BitVec 5} {sc : BitVec 1}

/-! ## What each part leaves of the other's tables -/

theorem State.dies_invLine (s : State) (p : Nat × L1Line) : (s.invLine p).dies = s.dies := by
  unfold State.invLine
  split
  · rfl
  · exact State.dies_tallied _

theorem State.dies_invL1 : (s.invL1 lo hi).dies = s.dies := by
  rw [State.invL1_eq]
  exact foldl_related (R := fun s t => t.dies = s.dies) (fun _ => rfl) (fun h k => k.trans h) State.dies_invLine _ s

theorem State.cells_wbL2 : (s.wbL2 lo hi).cells = s.cells := by
  refine foldl_related (R := fun s t => t.cells = s.cells) (fun _ => rfl) (fun h k => k.trans h) (fun u p => ?_) _ s
  split
  · exact (u.homesOnly_dramWrite _ _ _).cells
  · rfl

theorem State.l1_invL2 : ((s.invL2 lo hi).cell n).l1 = (s.cell n).l1 := by
  rw [State.invL2_eq]
  refine foldl_related (R := fun s t => (t.cell n).l1 = (s.cell n).l1) (fun _ => rfl) (fun h k => k.trans h) (fun u p => ?_) _ s
  unfold State.dropLine
  split
  · rfl
  · exact State.l1_tallied _

theorem State.L1Sorted.wbL2 (h : s.L1Sorted cell) : (s.wbL2 lo hi).L1Sorted cell :=
  ⟨(Flushes.wbL2 s lo hi).self_cell.trans h.at_, by rw [State.cell, State.cells_wbL2]; exact h.rises⟩

theorem State.L2Sorted.wbL2 (h : s.L2Sorted) : (s.wbL2 lo hi).L2Sorted := h.foldl (fun _ p hs => hs.cleanLine p) _
theorem State.L2Sorted.invL1 (h : s.L2Sorted) : (s.invL1 lo hi).L2Sorted := h.of_dies State.dies_invL1

/-! ## The line that pf fills -/

section
variable {x : Nat} {p : Page} (hp : s.page s.self.space (x / 128 * 128) = some p) (hs : p.second = false) (h128 : p.va % 128 = 0)
  (takes : s.HomeTakes s.self.space (x / 128 * 128))
include hp hs h128 takes

theorem pf_fills_l1 (spx : (s.cell s.self.cell).spx = false) (room : (s.cell s.self.cell).l1Room) :
    ((((s.pfLines (x / 128 * 128) (x / 128 * 128)).foldl (prefetch 0 s.self) s).cell s.self.cell).l1Line s.self.sid x).isSome = true := by
  have line (k : Cell) : k.l1Line s.self.sid x = k.l1Line s.self.sid (x / 128 * 128) := by
    rw [Cell.l1Line, Cell.l1Line, Nat.mul_div_cancel _ (by decide)]
  have listed := State.mem_pfLines hp hs h128 (by omega)
  rw [line]
  exact foldl_same (P := fun z : State => ((z.cell s.self.cell).l1Line s.self.sid (x / 128 * 128)).isSome = true)
    (fun v hv => State.pfLines_single hv) (List.ne_nil_of_mem listed) (prefetch_l1_fills takes spx room)
    fun z hz => by rw [prefetch_l1_present hz]; exact hz

theorem pf_fills_l2 : ∃ l, tfind (((s.pfLines (x / 128 * 128) (x / 128 * 128)).foldl (prefetch 1 s.self) s).die p.die).l2
    (p.phys (x / 128 * 128)) = some l ∧ l.sid = p.sid ∧ l.va = x / 128 * 128 := by
  obtain ⟨q, judged, -⟩ := takes
  obtain rfl : q = p := Option.some.inj ((State.page_of_judge judged).symm.trans hp)
  have listed := State.mem_pfLines hp hs h128 (by omega)
  have held := foldl_same (f := prefetch 1 s.self) (P := fun z : State => Flushes s z ∧ z.L2Holds q (x / 128 * 128))
    (fun v hv => State.pfLines_single hv) (List.ne_nil_of_mem listed) ⟨.prefetched s _, prefetch_l2_fills judged⟩
    fun z hz => ⟨hz.1.trans (.prefetched z _), prefetch_l2_fills (hz.1.judge.trans judged)⟩
  have same : x / 128 * 128 / 128 * 128 = x / 128 * 128 := by omega
  have result := held.2
  rw [State.L2Holds, same] at result
  exact result

end

/-! ## The three operations on their lines -/

/-- Every line of the cell's L1, or of L2, that lies in the range satisfies a condition. -/
def State.L1All (t : State) (cell : Nat) (sid : BitVec 16) (lo hi : Nat) (f : L1Line → Prop) : Prop :=
  ∀ p, p ∈ (t.cell cell).l1 → p.2.within sid lo hi → f p.2
def State.L2All (t : State) (sid : BitVec 16) (lo hi : Nat) (f : L2Line → Prop) : Prop :=
  ∀ d, d ∈ t.dies → ∀ p, p ∈ d.2.l2 → p.2.within sid lo hi → f p.2

theorem State.wbL1_all (h : s.L1Sorted cell) : (s.wbL1 lo hi).L1All cell s.self.sid lo hi fun l => l.dirty = 0 :=
  fun _ hp hw => State.wbL1_clean h hp hw

theorem State.wbL2_all (h : s.L2Sorted) : (s.wbL2 lo hi).L2All s.self.sid lo hi fun l => l.dirty = false :=
  fun _ hd _ hp hw => State.wbL2_clean h hd hp hw

theorem State.invL1_all (h : s.L1Sorted cell) : (s.invL1 lo hi).L1All cell s.self.sid lo hi fun l => s.guardedByOther l.sid.toNat l.va = true := by
  intro p hp hw
  have kept := ((State.mem_invL1 h p).1 hp).2
  by_contra free
  exact kept ⟨hw, by simpa using free⟩

theorem State.invL2_all (h : s.L2Sorted) : (s.invL2 lo hi).L2All s.self.sid lo hi fun l => s.guardedByOther l.sid.toNat l.va = true :=
  fun _ hd _ hp hw => State.invL2_guarded h hd hp hw

/-- The lines that `wb` writes back. -/
def wbLines (sc : BitVec 1) (s : State) (lo hi : Nat) : State := if sc = 1 then (s.wbL1 lo hi).wbL2 lo hi else s.wbL1 lo hi
/-- The lines that `inv` discards. -/
def invLines (sc : BitVec 1) (s : State) (lo hi : Nat) : State := if sc = 1 then (s.invL1 lo hi).invL2 lo hi else s.invL1 lo hi
/-- The lines that `wbinv` writes back and discards. -/
def wbinvLines (sc : BitVec 1) (s : State) (lo hi : Nat) : State :=
  if sc = 1 then (((s.wbL1 lo hi).wbL2 lo hi).invL1 lo hi).invL2 lo hi else (s.wbL1 lo hi).invL1 lo hi

theorem Flushes.wbLines (s : State) (lo hi : Nat) : Flushes s (wbLines sc s lo hi) := by
  unfold Machine.wbLines
  split
  · exact (Flushes.wbL1 s lo hi).trans (.wbL2 ..)
  · exact .wbL1 ..

theorem Flushes.invLines (s : State) (lo hi : Nat) : Flushes s (invLines sc s lo hi) := by
  unfold Machine.invLines
  split
  · exact (Flushes.invL1 s lo hi).trans (.invL2 ..)
  · exact .invL1 ..

theorem Flushes.wbinvLines (s : State) (lo hi : Nat) : Flushes s (wbinvLines sc s lo hi) := by
  unfold Machine.wbinvLines
  split
  · exact (((Flushes.wbL1 s lo hi).trans (.wbL2 ..)).trans (.invL1 ..)).trans (.invL2 ..)
  · exact (Flushes.wbL1 s lo hi).trans (.invL1 ..)

section
variable (h1 : s.L1Sorted cell) (h2 : s.L2Sorted)
include h1 h2

theorem wbLines_clean : (wbLines sc s lo hi).L1All cell s.self.sid lo hi (fun l => l.dirty = 0) ∧
    (sc = 1 → (wbLines sc s lo hi).L2All s.self.sid lo hi fun l => l.dirty = false) := by
  unfold wbLines
  split
  · refine ⟨fun p hp => State.wbL1_all h1 p ?_, fun _ => ?_⟩
    · rw [State.cell, State.cells_wbL2] at hp
      exact hp
    · rw [← (Flushes.wbL1 s lo hi).self_sid]
      exact State.wbL2_all h2.wbL1
  · next h0 => exact ⟨State.wbL1_all h1, fun h => absurd h h0⟩

theorem wbinvLines_guarded : (wbinvLines sc s lo hi).L1All cell s.self.sid lo hi (fun l => s.guardedByOther l.sid.toNat l.va = true) ∧
    (sc = 1 → (wbinvLines sc s lo hi).L2All s.self.sid lo hi fun l => s.guardedByOther l.sid.toNat l.va = true) := by
  have first := Flushes.wbL1 s lo hi
  unfold wbinvLines
  split
  · have both := first.trans (.wbL2 (s.wbL1 lo hi) lo hi)
    have three := both.trans (.invL1 ((s.wbL1 lo hi).wbL2 lo hi) lo hi)
    refine ⟨fun p hp hw => ?_, fun _ d hd p hp hw => ?_⟩
    · rw [State.l1_invL2] at hp
      rw [← both.self_sid] at hw
      exact (both.guardedByOther _ _).symm.trans (State.invL1_all h1.wbL1.wbL2 p hp hw)
    · rw [← three.self_sid] at hw
      exact (three.guardedByOther _ _).symm.trans (State.invL2_all h2.wbL1.wbL2.invL1 d hd p hp hw)
  · next h0 =>
    refine ⟨fun p hp hw => ?_, fun h => absurd h h0⟩
    rw [← first.self_sid] at hw
    exact (first.guardedByOther _ _).symm.trans (State.invL1_all h1.wbL1 p hp hw)

theorem invLines_gone : (∀ p, p ∈ ((invLines sc s lo hi).cell cell).l1 ↔
      p ∈ (s.cell cell).l1 ∧ ¬ (p.2.within s.self.sid lo hi ∧ s.guardedByOther p.2.sid.toNat p.2.va = false)) ∧
    (sc = 1 → (invLines sc s lo hi).L2All s.self.sid lo hi fun l => s.guardedByOther l.sid.toNat l.va = true) ∧
    (sc = 0 → (invLines sc s lo hi).dies = s.dies ∧ ((invLines sc s lo hi).cell cell).disc.toNat =
      min (2 ^ 32 - 1) ((s.cell cell).disc.toNat + ((s.l1InRange lo hi).filter (Counts s.guardedByOther)).length)) := by
  have first := Flushes.invL1 s lo hi
  unfold invLines
  split
  · next one =>
    refine ⟨fun p => ?_, fun _ d hd p hp hw => ?_, fun h0 => absurd (one.symm.trans h0) (by decide)⟩
    · rw [State.l1_invL2]
      exact State.mem_invL1 h1 p
    · rw [← first.self_sid] at hw
      exact (first.guardedByOther _ _).symm.trans (State.invL2_all h2.invL1 d hd p hp hw)
  · next h0 => exact ⟨State.mem_invL1 h1, fun h => absurd h h0, fun _ => ⟨State.dies_invL1, State.disc_invL1 h1 fun _ _ => rfl⟩⟩

end

/-- The counted lines, as one condition on the lines of L1. -/
theorem State.counted_lines : (s.l1InRange lo hi).filter (Counts s.guardedByOther) = (s.cell s.self.cell).l1.filter fun p =>
    p.2.sid = s.self.sid && decide (lo ≤ p.2.va ∧ p.2.va ≤ hi) && !s.guardedByOther p.2.sid.toNat p.2.va && p.2.dirty != 0 := by
  rw [State.l1InRange, List.filter_filter]
  refine List.filter_congr fun p _ => ?_
  rw [Counts]
  cases decide (p.2.sid = s.self.sid) <;> cases decide (lo ≤ p.2.va ∧ p.2.va ≤ hi) <;> simp

end

/-- Settles O31: each operation folds over the lines of its range; a clean leaves each clean or gone, a discard drops what no other
context's lock guards. -/
theorem rangeOperations : Obligations.RangeOperations := by
  unfold Obligations.RangeOperations
  intro a b sc s x n c within keeps runs tables
  have sorted (ht : tables) : s.L1Sorted c ∧ s.L2Sorted := ⟨⟨rfl, ht.1⟩, .of_tables ht.2.1 ht.2.2⟩
  have one_line (hn : n ≠ 0) (hx : x % 128 + n ≤ 128) : (x + n - 1) / 128 * 128 = x / 128 * 128 := by omega
  refine ⟨pf_keeps, fun p hn hx hp hs h128 takes => ⟨fun h0 spx room => ?_, fun h1 => ?_⟩, fun hr => ?_, fun hr => ?_, fun hr => ?_,
    fun h0 ins hi => ?_, fun hn hx hs => ?_, fun hn hx hh => ?_⟩
  · exact ⟨_, exec_pf hn, by rw [h0, one_line hn hx]; exact pf_fills_l1 hp hs h128 takes spx room⟩
  · obtain ⟨l, held⟩ := pf_fills_l2 hp hs h128 takes
    exact ⟨_, l, exec_pf hn, by rw [h1, one_line hn hx]; exact held⟩
  · exact State.rangeOp_ends (f := wbLines sc) hr (fun lo hi => .wbLines s lo hi) fun _ ht => by
      obtain ⟨h1, h2⟩ := sorted ht
      obtain ⟨l1, l2⟩ := wbLines_clean (sc := sc) (lo := x / 128 * 128) (hi := (x + n - 1) / 128 * 128) h1 h2
      exact ⟨fun p hp hsid hw => l1 p hp ⟨hsid, hw⟩, fun h d hd p hp hsid hw => l2 h d hd p hp ⟨hsid, hw⟩⟩
  · exact State.rangeOp_ends (f := wbinvLines sc) hr (fun lo hi => .wbinvLines s lo hi) fun _ ht => by
      obtain ⟨h1, h2⟩ := sorted ht
      obtain ⟨l1, l2⟩ := wbinvLines_guarded (sc := sc) (lo := x / 128 * 128) (hi := (x + n - 1) / 128 * 128) h1 h2
      exact ⟨fun p hp hsid hw => l1 p hp ⟨hsid, hw⟩, fun h d hd p hp hsid hw => l2 h d hd p hp ⟨hsid, hw⟩⟩
  · exact State.rangeOp_ends (f := invLines sc) hr (fun lo hi => .invLines s lo hi) fun _ ht => by
      obtain ⟨h1, h2⟩ := sorted ht
      obtain ⟨l1, l2, rest⟩ := invLines_gone (sc := sc) (lo := x / 128 * 128) (hi := (x + n - 1) / 128 * 128) h1 h2
      rw [State.counted_lines] at rest
      exact ⟨fun p => (l1 p).trans (and_congr_right fun _ => not_congr and_assoc), fun h d hd p hp hsid hw => l2 h d hd p hp ⟨hsid, hw⟩, rest⟩
  · have stops (f : State → Nat → Nat → State) : s.rangeOp a b f = .next s.finish := State.rangeOp_empty h0
    simp only [List.mem_cons, List.not_mem_nil, or_false] at hi
    refine ⟨s.finish, ?_, s.goesOn_finish⟩
    rcases hi with rfl | rfl | rfl | rfl
    · exact stops (invLines sc)
    · exact stops (wbLines sc)
    · exact stops (wbinvLines sc)
    · exact exec_pf_empty h0
  · have waits (f : State → Nat → Nat → State) : s.rangeOp a b f = .next (s.stall .again) := State.rangeOp_waits hn hx hs
    exact ⟨State.retries_again (waits (invLines sc)), State.retries_again (waits (wbLines sc)), State.retries_again (waits (wbinvLines sc))⟩
  · have traps (f : State → Nat → Nat → State) : s.rangeOp a b f = .next (s.trap cXLATE (s.rx a)) := State.rangeOp_below hn hx
    exact ⟨traps_of_trap (traps (invLines sc)) hh (by decide) (by decide), traps_of_trap (traps (wbLines sc)) hh (by decide) (by decide),
      traps_of_trap (traps (wbinvLines sc)) hh (by decide) (by decide)⟩

end Sys2Proof.Machine
end

section
/-! PROOFS. A weak store to a page that begins within a line (05 R95; 10 R213, R214). -/

set_option Elab.async false

namespace Sys2Proof.Machine

/-- A page that begins in the middle of a line, whose first byte the thread stores to. -/
def midLine : State :=
  { State.reset with
    ctxs := [(0, { entry := some 0, x := [(5, 0x1_0000_0040)], pc := 0x1_0000_0040 })]
    leases := [(5, { obj := .context 0, st := .held, expiry := 100 }),
      (9, { obj := .page 0 0x1_0000_0040 false false, st := .held, expiry := 100 })]
    pages := [{ va := 0x1_0000_0040, lease := 9 }]
    entries := [(0, { remain := 100, q := 2, bg := true, lease := 5 })]
    parts := [(0, { dies := [(0, { share := 1 })] })] }

theorem midLine_takes : midLine.HomeTakes 0 0x1_0000_0040 := ⟨_, rfl, (by decide : 0 + 0 + 2 ≤ sliceLines)⟩

theorem midLine_open : midLine.Open 0x1_0000_0040 1 true 0 0 :=
  ⟨by decide, fun _ => by decide, fun _ _ _ e => (nomatch e), .inl rfl, rfl, rfl, by decide, fun _ => rfl⟩

/-- The first byte of the line lies on no page. -/
theorem midLine_unseen : midLine.byteSeen 0x1_0000_0000 = none := by decide

/-- The line that the store fills gives a byte there. -/
theorem midLine_seen : (match exec (.stB 7 5 0 0 0) midLine with | .next u => u.byteSeen 0x1_0000_0000 | _ => none) = some 0 := by decide

/-- Refutes O22: the store fills the whole line into L1, and a byte of it that lies before the page is seen there. -/
theorem not_storesToPartitionMemory : ¬ Obligations.StoresToPartitionMemory := by
  intro h
  obtain ⟨byte, -⟩ := h 7 5 0 0 0 0 midLine (by decide)
  obtain ⟨weak, -⟩ := byte (by decide) (by decide) midLine_open (by decide) midLine_takes (by decide) (by decide)
  obtain ⟨t, ht, -, -, -, -, -, beside⟩ := weak rfl rfl (.inl ⟨rfl, by decide⟩)
  have seen := midLine_seen
  rw [ht] at seen
  have same := beside 0x1_0000_0000 (.inl (by decide)) fun p e => nomatch (region_mem (by decide) (by decide)).symm.trans e
  exact absurd (midLine_unseen.symm.trans (same.symm.trans seen)) (by decide)

end Sys2Proof.Machine
end

section
/-! PROOFS. What a home holds of a location, and what one access at the home changes (05 R93, R97; 17 R333-R336). -/

set_option Elab.async false

namespace Sys2Proof.Machine

section
variable {s t u : State} {l : Loc} {b b' : Bank} {p : Page} {space va d n k pa : Nat}

/-! ## Lines as DRAM and L2 give them -/

/-- Two states whose dies differ in L2 alone, with the same pages, leases and partitions. -/
structure SameDram (s t : State) : Prop where
  dies   : ∀ m, t.die m = { s.die m with l2 := (t.die m).l2 }
  pages  : t.pages = s.pages
  leases : t.leases = s.leases
  parts  : t.parts = s.parts

theorem SameDram.judge (h : SameDram s t) : t.judge space va = s.judge space va :=
  State.judge_congr (fun n => by rw [State.part, State.part, h.parts]) h.pages h.leases

theorem SameDram.page (h : SameDram s t) : t.page space va = s.page space va := by rw [State.page, State.page, h.pages]

theorem SameDram.groupOfFrame (h : SameDram s t) : t.groupOfFrame d n = s.groupOfFrame d n := by
  rw [State.groupOfFrame, State.groupOfFrame, h.pages]

theorem SameDram.keyless (h : SameDram s t) : t.keyless d n = s.keyless d n := by rw [State.keyless, State.keyless, h.leases]

theorem SameDram.keyOf (h : SameDram s t) : t.keyOf d n = s.keyOf d n := by
  unfold State.keyOf State.part
  rw [h.leases, h.parts]

theorem SameDram.dramLine (h : SameDram s t) : t.dramLine d pa = s.dramLine d pa := by
  have written : (t.die d).written = (s.die d).written := by rw [h.dies]
  have dram : (t.die d).dram = (s.die d).dram := by rw [h.dies]
  have cipher : (t.die d).cipher = (s.die d).cipher := by rw [h.dies]
  unfold State.dramLine State.decipher
  simp only [written, dram, cipher, h.groupOfFrame, h.keyless, h.keyOf]

/-- A change of dies that does not look at L2 keeps the two states alike. -/
theorem SameDram.modDie {f g : Die → Die} (h : SameDram s t)
    (hf : ∀ x l2, g { x with l2 := l2 } = { f x with l2 := (g { x with l2 := l2 }).l2 }) : SameDram (s.modDie d f) (t.modDie d g) := by
  refine ⟨fun m => ?_, h.pages, h.leases, h.parts⟩
  rw [State.die_modDie, State.die_modDie]
  split
  · next e => rw [h.dies, hf]
  · exact h.dies m

theorem SameDram.report {part : Nat} {d0 addr info : Word} {die : Nat} {m : Option Msg} (h : SameDram s t) :
    SameDram (s.report part d0 addr info die m) (t.report part d0 addr info die m) :=
  ⟨h.dies, h.pages, h.leases, h.parts⟩

theorem SameDram.dramWrite {l : L2Line} (h : SameDram s t) : SameDram (s.dramWrite d pa l) (t.dramWrite d pa l) := by
  unfold State.dramWrite
  simp only [h.groupOfFrame, h.keyless, h.keyOf]
  split
  · refine SameDram.report (h.modDie fun x l2 => ?_)
    rfl
  · exact h.modDie fun _ _ => rfl

/-- The bytes and marks that a line's home gives, whatever its L2 holds at the place. -/
def State.lineFound (s : State) (p : Page) (va : Nat) : Bank :=
  match tfind (s.die p.die).l2 (p.phys (va / 128 * 128)) with
  | some l =>
    if l.sid = p.sid ∧ l.va = va / 128 * 128 then l.data
    else (s.l2Evict p.die (p.phys (va / 128 * 128))).dramLine p.die (p.phys (va / 128 * 128))
  | none => s.dramLine p.die (p.phys (va / 128 * 128))

theorem State.l2Fill_data (s : State) (p : Page) (va : Nat) : (s.l2Fill p va).2.data = s.lineFound p va := by
  unfold State.l2Fill State.lineFound
  dsimp only
  cases tfind (s.die p.die).l2 (p.phys (va / 128 * 128)) with
  | some l =>
    dsimp only
    split <;> rfl
  | none => rfl

theorem SameDram.lineFound (h : SameDram s t)
    (hl : tfind (t.die p.die).l2 (p.phys (va / 128 * 128)) = tfind (s.die p.die).l2 (p.phys (va / 128 * 128))) :
    t.lineFound p va = s.lineFound p va := by
  unfold State.lineFound
  rw [hl]
  split
  · next l e =>
    split
    · rfl
    · refine SameDram.dramLine ?_
      unfold State.l2Evict
      rw [hl, e]
      dsimp only
      refine SameDram.modDie ?_ fun _ _ => rfl
      split
      · exact h.dramWrite
      · exact h
  · exact h.dramLine

theorem State.lineFound_of_takes (h : s.HomeTakes space va) (hp : s.judge space va = .ok p) : s.lineFound p va = s.takenLine p va := by
  obtain ⟨q, hq, room⟩ := h
  cases hp.symm.trans hq
  unfold State.lineFound State.takenLine
  cases e : tfind (s.die p.die).l2 (p.phys (va / 128 * 128)) with
  | some l =>
    rw [e] at room
    exact if_pos room
  | none => rfl

/-- One byte of a bank; none where it is poisoned. -/
def Bank.byteAt (b : Bank) (k : Nat) : Option Byte := if b.bad k 1 then none else some (mget b.bytes k)

theorem State.homeByte_of_judge (h : s.judge space va = .ok p) : s.homeByte space va = (s.lineFound p va).byteAt (va % 128) := by
  unfold State.homeByte State.homeRead State.homeLine Bank.byteAt
  simp only [h, State.l2Fill_data]
  cases (s.lineFound p va).bad (va % 128) 1 <;> rfl

theorem State.homeByte_of_refused {e : Byte} (h : s.judge space va = .error e) : s.homeByte space va = none := by
  unfold State.homeByte State.homeRead State.homeLine
  simp only [h]

end

end Sys2Proof.Machine
end

section
/-! PROOFS. One access at a home: what it reads, what it changes, and what it leaves (05 R93, R97; 08 R195). -/

set_option Elab.async false

namespace Sys2Proof.Machine

section
variable {s t u : State} {l : Loc} {b b' : Bank} {p : Page} {space va n : Nat} {f : Bank → Nat → Bank}

/-! ## The bank that holds a location -/

/-- The offset of a location in the bank that holds it. -/
def Loc.place : Loc → Nat
  | .spad _ off => off
  | .mem _ va => va % 128

/-- The scratchpad of a location, or the line of its home, which takes it, is `b`. -/
def State.Offers (s : State) (l : Loc) (b : Bank) : Prop :=
  match l with
  | .spad cell _ => (s.cell cell).spad = b
  | .mem space va => s.HomeTakes space va ∧ ∃ p, s.judge space va = .ok p ∧ s.takenLine p va = b

/-- The scratchpad of a location, or its line in the L2 of its home, is `b`. -/
def State.HomeHas (s : State) (l : Loc) (b : Bank) : Prop :=
  match l with
  | .spad cell _ => (s.cell cell).spad = b
  | .mem space va => ∃ p, s.judge space va = .ok p ∧ s.Holds p va b

theorem State.HomeHas.offers (h : s.HomeHas l b) : s.Offers l b := by
  cases l with
  | spad cell off => exact h
  | mem space va =>
    obtain ⟨p, hp, x, hx, sid, line, rfl⟩ := h
    refine ⟨⟨p, hp, ?_⟩, p, hp, ?_⟩
    · rw [hx]
      exact ⟨sid, line⟩
    · rw [State.takenLine, hx]

theorem State.Offers.wf (h : s.Offers l b) (hm : s.memWf = true) : b.wf = true := by
  cases l with
  | spad cell off =>
    obtain rfl := h
    exact ((Cell.wf_iff _).1 (State.cell_wf hm cell)).1
  | mem space va =>
    obtain ⟨takes, p, hp, rfl⟩ := h
    exact State.takenLine_wf hm takes hp

/-- The home of a location has the bank `b` in `t`, and otherwise the dies and cells of `t` are those of `s`. -/
structure HomeSet (s t : State) (l : Loc) (b : Bank) : Prop where
  rest  : t = { s with dies := t.dies, cells := t.cells }
  has   : t.HomeHas l b
  cells : ∀ m, t.cell m = { s.cell m with spad := (t.cell m).spad }
  spads : ∀ m, (∀ off, l ≠ .spad m off) → (t.cell m).spad = (s.cell m).spad
  apart : ∀ space va, l = .mem space va → t.cells = s.cells
  dies  : ∀ m, t.die m = { s.die m with l2 := (t.die m).l2 }
  lines : ∀ m k, (∀ space va p, l = .mem space va → s.judge space va = .ok p → (m, k) ≠ (p.die, p.phys (va / 128 * 128))) →
    tfind (t.die m).l2 k = tfind (s.die m).l2 k

theorem HomeSet.refl (h : s.HomeHas l b) : HomeSet s s l b :=
  ⟨rfl, h, fun _ => rfl, fun _ _ => rfl, fun _ _ _ => rfl, fun _ => rfl, fun _ _ _ => rfl⟩

theorem HomeSet.sameDram (h : HomeSet s t l b) : SameDram s t :=
  ⟨h.dies, by rw [h.rest], by rw [h.rest], by rw [h.rest]⟩

theorem HomeSet.trans (h : HomeSet s t l b) (k : HomeSet t u l b') : HomeSet s u l b' := by
  refine ⟨?_, k.has, fun m => ?_, fun m hm => (k.spads m hm).trans (h.spads m hm), fun _ _ e => (k.apart _ _ e).trans (h.apart _ _ e),
    fun m => ?_, fun m a hm => ?_⟩
  · rw [k.rest, h.rest]
  · rw [k.cells, h.cells]
  · rw [k.dies, h.dies]
  · rw [k.lines m a fun space va p e hp => hm space va p e (h.sameDram.judge.symm.trans hp), h.lines m a hm]

/-! ## Reads -/

/-- A line set in the L2 of its home under its own name. -/
theorem HomeSet.of_l2 {x : L2Line} (hx : x.sid = p.sid ∧ x.va = va / 128 * 128) (hp : s.judge space va = .ok p)
    (rest : t = { s with dies := t.dies })
    (dies : ∀ m, t.die m = if m = p.die then { s.die p.die with l2 := tset (s.die p.die).l2 (p.phys (va / 128 * 128)) x } else s.die m) :
    HomeSet s t (.mem space va) x.data := by
  have cells : t.cells = s.cells := by rw [rest]
  have cell (m : Nat) : t.cell m = s.cell m := by rw [State.cell, State.cell, cells]
  have judged : t.judge space va = .ok p := by rw [rest]; exact hp
  refine ⟨by rw [rest], ⟨p, judged, x, ?_, hx.1, hx.2, rfl⟩, fun m => by rw [cell], fun m _ => by rw [cell], fun _ _ _ => cells,
    fun m => ?_, fun m k hm => ?_⟩
  · rw [dies, if_pos rfl]
    exact tfind_tset_self _ _ _
  · rw [dies]
    split
    · next e => rw [e]
    · rfl
  · rw [dies]
    split
    · next e =>
      refine (tfind_tset_ne _ _ fun ek => hm space va p rfl hp ?_).trans (by rw [e])
      rw [e, ek]
    · rfl

theorem State.die_setL2 {g : Die → Table L2Line} {m : Nat} :
    (s.modDie p.die fun d => { d with l2 := g d }).die m = if m = p.die then { s.die p.die with l2 := g (s.die p.die) } else s.die m :=
  s.die_modDie ..

/-- The line of a home that takes it, as its L2 then holds it. -/
theorem State.Offers.homeLine (h : s.Offers (.mem space va) b) :
    ∃ t p, s.homeLine space va = .ok (t, p, b) ∧ s.judge space va = .ok p ∧ HomeSet s t (.mem space va) b := by
  obtain ⟨⟨p, hp, room⟩, q, hq, rfl⟩ := h
  cases hp.symm.trans hq
  unfold State.homeLine State.takenLine
  rw [hp]
  unfold State.l2Fill
  dsimp only
  cases e : tfind (s.die p.die).l2 (p.phys (va / 128 * 128)) with
  | some x =>
    rw [e] at room
    simp only [if_pos room]
    exact ⟨s, p, rfl, rfl, .refl ⟨p, hp, x, e, room.1, room.2, rfl⟩⟩
  | none =>
    rw [e] at room
    simp only [State.l2MakeRoom_of_room room]
    exact ⟨_, p, rfl, rfl, .of_l2 (x := { sid := p.sid, va := va / 128 * 128, part := p.part, slice := s.homeSlice p.part p.dom (va / 128 * 128)
                                          data := s.dramLine p.die (p.phys (va / 128 * 128)) }) ⟨rfl, rfl⟩ hp rfl fun _ => State.die_setL2⟩

/-- A read at a home that takes the location. -/
theorem State.Offers.homeRead (h : s.Offers l b) (n : Nat) : ∃ t, HomeSet s t l b ∧
    s.homeRead l n = if b.bad l.place n then .error cPOISON else .ok (t, b.read l.place n) := by
  cases l with
  | spad cell off =>
    obtain rfl := h
    exact ⟨s, .refl rfl, rfl⟩
  | mem space va =>
    obtain ⟨t, p, e, -, set⟩ := h.homeLine
    refine ⟨t, set, ?_⟩
    unfold State.homeRead
    simp only [e]
    rfl

theorem State.Offers.numAt (h : s.Offers l b) : s.numAt l n = if b.bad l.place n then none else some (leNat (b.read l.place n)) := by
  obtain ⟨t, -, e⟩ := h.homeRead n
  unfold State.numAt
  rw [e]
  cases b.bad l.place n <;> rfl

theorem State.Offers.good_of_numAt (h : s.Offers l b) (hn : s.numAt l n ≠ none) : b.bad l.place n = false := by
  rw [h.numAt] at hn
  cases e : b.bad l.place n with
  | true => rw [e] at hn; exact absurd rfl hn
  | false => rfl

theorem State.Offers.homeRead_good (h : s.Offers l b) (hb : b.bad l.place n = false) :
    ∃ t, s.homeRead l n = .ok (t, b.read l.place n) ∧ HomeSet s t l b := by
  obtain ⟨t, set, e⟩ := h.homeRead n
  exact ⟨t, by rw [e, hb]; rfl, set⟩

theorem State.Offers.fullAt (h : s.Offers l b) : s.fullAt l = some (b.full.contains (l.place / 8)) := by
  cases l with
  | spad cell off =>
    obtain rfl := h
    rfl
  | mem space va =>
    obtain ⟨t, p, e, -, -⟩ := h.homeLine
    unfold State.fullAt State.homeFull
    simp only [e]
    rfl

/-! ## Changes -/

/-- No fault ring covers the `n` bytes at a location. -/
def State.OffRing (s : State) (l : Loc) (n : Nat) : Prop := ∀ space va, l = .mem space va → s.inFaultRing space va n = false

theorem State.Offers.homeModify (h : s.Offers l b) (hr : s.OffRing l n) :
    ∃ t, s.homeModify l n f = .ok t ∧ HomeSet s t l (f b l.place) := by
  cases l with
  | spad cell off =>
    obtain rfl := h
    refine ⟨_, rfl, ⟨rfl, ?_, fun m => ?_, fun m hm => ?_, (fun _ _ e => nomatch e), fun _ => rfl, fun _ _ _ => rfl⟩⟩
    · show ((s.modCell cell _).cell cell).spad = _
      rw [State.cell_modCell_self]
      rfl
    · rw [State.cell_modCell]
      split
      · next e => rw [e]
      · rfl
    · rw [State.cell_modCell, if_neg fun e => hm off (by rw [e])]
  | mem space va =>
    obtain ⟨t, p, e, hp, set⟩ := h.homeLine
    obtain ⟨q, hq, x, hx, sid, line, hd⟩ := set.has
    cases (hp.symm.trans set.sameDram.judge.symm).trans hq
    unfold State.homeModify State.lineModify
    simp only [hr space va rfl, e, Bool.false_eq_true, if_false]
    refine ⟨_, rfl, set.trans ?_⟩
    refine .of_l2 (x := { x with data := f b (va % 128), dirty := true }) ⟨sid, line⟩ hq rfl fun m => ?_
    unfold State.l2Put
    rw [State.die_setL2, tmod, tget, hx]
    rfl

theorem HomeSet.offRing (h : HomeSet s t l b) (hr : s.OffRing l n) : t.OffRing l n := by
  intro space va e
  rw [← hr space va e, h.rest]
  rfl

end

end Sys2Proof.Machine
end

section
/-! PROOFS. What an access at a home leaves, and banks after a write (05 R93, R97, R127; 20 R361). -/

set_option Elab.async false

namespace Sys2Proof.Machine

section
variable {s t u : State} {l : Loc} {b b' c : Bank} {p : Page} {space va n m o k : Nat} {bs : List Byte}

/-! ## Bytes beside those of an access -/

/-- Beside the `n` bytes at an offset, each byte of the bank and its poison mark are as before. -/
def Bank.Beside (b b' : Bank) (o n : Nat) : Prop :=
  ∀ k, k < o ∨ o + n ≤ k → mget b'.bytes k = mget b.bytes k ∧ b'.bad k 1 = b.bad k 1

theorem Bank.Beside.refl (b : Bank) (o n : Nat) : b.Beside b o n := fun _ _ => ⟨rfl, rfl⟩

theorem Bank.Beside.trans (h : b.Beside b' o n) (h' : b'.Beside c o n) : b.Beside c o n := fun k hk =>
  ⟨(h' k hk).1.trans (h k hk).1, (h' k hk).2.trans (h k hk).2⟩

/-- A write within the bytes of an access. -/
theorem Bank.beside_write (h : b.wf = true) (hk : k + bs.length ≤ n) : b.Beside (b.write (o + k) bs) o n := by
  intro j hj
  refine ⟨by rw [Bank.mget_write h, if_neg (by omega)], ?_⟩
  rw [Bank.bad_within (by decide) (by omega), Bank.bad_within (by decide) (by omega)]
  exact Bank.poison_write_outside h (by omega)

theorem Bank.beside_full (full : NSet) : b.Beside { b with full := full } o n := fun _ _ => ⟨rfl, rfl⟩

/-- The bytes beside an access read at their homes as before. -/
theorem HomeSet.onlyAt (h : HomeSet s t l b') (hs : s.Offers l b) (beside : b.Beside b' l.place n) : OnlyAt s t l n := by
  refine ⟨fun m => by rw [h.cells], fun m => by rw [h.dies], fun m k hk => ?_, fun r u hu => ?_⟩
  · by_cases hm : ∃ off, l = .spad m off
    · obtain ⟨off, rfl⟩ := hm
      obtain rfl : _ = b := hs
      obtain has : _ = b' := h.has
      rw [has]
      exact (beside k (hk off rfl)).1
    · rw [h.spads m fun off e => hm ⟨off, e⟩]
  · have judged := h.sameDram.judge (space := r) (va := u)
    cases hj : s.judge r u with
    | error e => rw [State.homeByte_of_refused hj, State.homeByte_of_refused (judged.trans hj)]
    | ok q =>
      have paged : s.page r u = some q := State.page_of_judge hj
      rw [State.homeByte_of_judge hj, State.homeByte_of_judge (judged.trans hj)]
      by_cases other : ∀ space va p, l = .mem space va → s.judge space va = .ok p →
          (q.die, q.phys (u / 128 * 128)) ≠ (p.die, p.phys (va / 128 * 128))
      · rw [h.sameDram.lineFound (h.lines _ _ other)]
      · push Not at other
        obtain ⟨space, va, p, rfl, hp, place⟩ := other
        obtain ⟨sid, line, out⟩ := (hu space va p q rfl hp paged).resolve_left fun ne => ne place
        obtain ⟨die, phys⟩ := Prod.mk.inj place
        obtain ⟨takes, p', hp', rfl⟩ := hs
        obtain ⟨p'', hp'', x, hx, xsid, xva, rfl⟩ := h.has
        cases hp.symm.trans hp'
        cases (h.sameDram.judge.symm.trans hp'').symm.trans hp
        have found : t.lineFound q u = x.data := by
          unfold State.lineFound
          rw [die, phys, hx]
          exact if_pos ⟨xsid.trans sid.symm, by rw [xva, line]⟩
        have before : s.lineFound q u = s.takenLine p va := by
          rw [← State.lineFound_of_takes takes hp]
          unfold State.lineFound
          rw [die, phys, sid, line]
        rw [found, before, Bank.byteAt, Bank.byteAt]
        have same := beside (u % 128) (by simp only [Loc.place]; omega)
        rw [same.1, same.2]

theorem OnlyAt.congr (h : OnlyAt s t l n) (homes : SameHomes t u) (cells : u.cells = t.cells) : OnlyAt s u l n := by
  have cell (m : Nat) : u.cell m = t.cell m := by rw [State.cell, State.cell, cells]
  refine ⟨fun m => by rw [cell, h.cells], fun m => by rw [homes.die, h.dies], fun m k hk => by rw [cell, h.spads m k hk],
    fun r w hw => by rw [homes.homeByte, h.homes r w hw]⟩

theorem State.HomeHas.congr (h : t.HomeHas l b) (hj : ∀ space va, l = .mem space va → u.judge space va = t.judge space va)
    (hd : ∀ m, (u.die m).l2 = (t.die m).l2) (hc : ∀ m, (u.cell m).spad = (t.cell m).spad) : u.HomeHas l b := by
  cases l with
  | spad cell off => exact (hc cell).trans h
  | mem space va =>
    obtain ⟨p, hp, x, hx⟩ := h
    exact ⟨p, (hj _ _ rfl).trans hp, x, by rwa [hd]⟩

theorem State.HomeHas.of_homes (h : t.HomeHas l b) (homes : SameHomes t u) (cells : u.cells = t.cells) : u.HomeHas l b :=
  h.congr (fun _ _ _ => homes.judge) (fun m => by rw [homes.die]) fun m => by rw [State.cell, State.cell, cells]

/-! ## Written bytes, read back -/

theorem Bank.read_written (h : b.wf = true) : (b.write o bs).read o bs.length = bs := by
  have whole := Bank.read_write (a := o) (bs := bs) (j := 0) (n := bs.length) h (by omega)
  simpa using whole

/-- Bytes beside a write, read after it. -/
theorem Bank.read_beside (h : b.wf = true) (hk : k + n ≤ o ∨ o + bs.length ≤ k) : (b.write o bs).read k n = b.read k n := by
  rw [Bank.read, Bank.read, mgetBytes_eq_map, mgetBytes_eq_map]
  refine List.map_congr_left fun j hj => ?_
  have := List.mem_range.1 hj
  rw [Bank.mget_write h, if_neg (by omega)]

/-- A write poisons nothing. -/
theorem Bank.good_after (h : b.wf = true) (hb : b.bad k n = false) : (b.write o bs).bad k n = false := by
  rw [Bank.bad, List.any_eq_false] at hb ⊢
  intro d hd marked
  rw [Bank.poison_write_whole h, Bool.and_eq_true] at marked
  exact hb d hd marked.1

theorem State.HomeHas.numAt (h : s.HomeHas l b) (hb : b.bad l.place n = false) : s.numAt l n = some (leNat (b.read l.place n)) := by
  rw [h.offers.numAt, hb]
  rfl

/-! ## Reads and writes at a home -/

/-- A write at a home that takes the location. -/
theorem State.Offers.homeWrite (h : s.Offers l b) (hr : s.OffRing l bs.length) :
    ∃ t, s.homeWrite l bs = .ok t ∧ HomeSet s t l (b.write l.place bs) := h.homeModify (f := fun b o => b.write o bs) hr

/-- An access that reads a location and then writes it there. -/
theorem State.Offers.homeAmo {f : BitVec 3} {ty : BitVec 2} {v e : Word} {old : Nat} (h : s.Offers l b) (hr : s.OffRing l (amoSize ty))
    (hn : s.numAt l (amoSize ty) = some old) :
    ∃ t, s.homeAmo l f ty v e = .ok (t, old, (amoNew f ty old v.toNat e.toNat).2) ∧
      HomeSet s t l (b.write l.place (leBytes (amoNew f ty old v.toNat e.toNat).1 (amoSize ty))) := by
  have good := h.good_of_numAt (by rw [hn]; simp)
  obtain ⟨t, read, set⟩ := h.homeRead_good good
  have value : old = leNat (b.read l.place (amoSize ty)) := by
    rw [h.numAt, good] at hn
    simpa using hn.symm
  obtain ⟨u, write, set'⟩ := set.has.offers.homeWrite (bs := leBytes (amoNew f ty old v.toNat e.toNat).1 (amoSize ty))
    (by rw [leBytes_length]; exact set.offRing hr)
  subst value
  refine ⟨u, ?_, set.trans set'⟩
  unfold State.homeAmo
  simp only [read, write, bind, Except.bind, pure, Except.pure]

end

end Sys2Proof.Machine
end

section
/-! PROOFS. One event at a barrier's home (05 R109-R111). -/

set_option Elab.async false

namespace Sys2Proof.Machine

section
variable {s t u : State} {l : Loc} {b b' c : Bank} {space va n m o k v : Nat} {bs : List Byte}

/-! ## A bank after an access -/

/-- `b'` is `b` after an access to the `n` bytes at an offset that poisons nothing. -/
structure Bank.Took (b b' : Bank) (o n : Nat) : Prop where
  beside : b.Beside b' o n
  wf     : b'.wf = true
  good   : ∀ k m, b.bad k m = false → b'.bad k m = false

theorem Bank.Took.refl (h : b.wf = true) : b.Took b o n := ⟨Bank.Beside.refl b o n, h, fun _ _ k => k⟩

theorem Bank.Took.trans (h : b.Took b' o n) (h' : b'.Took c o n) : b.Took c o n :=
  ⟨h.beside.trans h'.beside, h'.wf, fun k m hk => h'.good k m (h.good k m hk)⟩

theorem Bank.took_write (h : b.wf = true) : b.Took (b.write o bs) o bs.length :=
  ⟨Bank.beside_write (k := 0) h (by omega), bank_wf_write _ _ h, fun _ _ => Bank.good_after h⟩

/-- An access within a wider one. -/
theorem Bank.Took.within (h : b.Took b' (o + k) m) (hk : k + m ≤ n) : b.Took b' o n :=
  ⟨fun j hj => h.beside j (by omega), h.wf, h.good⟩

theorem Bank.Took.read (h : b.Took b' o n) (hk : k + m ≤ o ∨ o + n ≤ k) : b'.read k m = b.read k m := by
  rw [Bank.read, Bank.read, mgetBytes_eq_map, mgetBytes_eq_map]
  refine List.map_congr_left fun j hj => ?_
  have := List.mem_range.1 hj
  rw [(h.beside _ (by omega)).1]

/-! ## The two doublewords of a block -/

/-- The 16 bytes at a location lie under one judgement. -/
def State.Paired (s : State) (l : Loc) : Prop := ∀ space va, l = .mem space va → va % 16 = 0 ∧ s.judge space (va + 8) = s.judge space va

theorem State.Paired.place (h : s.Paired l) : (l.plus 8).place = l.place + 8 := by
  cases l with
  | spad cell off => rfl
  | mem space va =>
    obtain ⟨aligned, -⟩ := h space va rfl
    simp only [Loc.plus, Loc.place]
    omega

theorem State.Paired.homeHas (h : s.Paired l) : s.HomeHas (l.plus 8) b ↔ s.HomeHas l b := by
  cases l with
  | spad cell off => rfl
  | mem space va =>
    obtain ⟨aligned, judged⟩ := h space va rfl
    have line : (va + 8) / 128 = va / 128 := by omega
    simp only [Loc.plus, State.HomeHas, State.Holds, judged, line]

theorem State.Paired.offRing (h : s.Paired l) (hr : s.OffRing l 16) : s.OffRing l 8 ∧ s.OffRing (l.plus 8) 8 := by
  refine ⟨fun space va e => ?_, fun space va e => ?_⟩
  · have off := hr space va e
    unfold State.inFaultRing at off ⊢
    simp only [Bool.and_eq_false_iff, decide_eq_false_iff_not] at off ⊢
    exact off.imp id (by omega)
  · cases l with
    | spad cell off => cases e
    | mem r w =>
      cases e
      have off := hr _ _ rfl
      unfold State.inFaultRing at off ⊢
      simp only [Bool.and_eq_false_iff, decide_eq_false_iff_not] at off ⊢
      exact off.imp id (by omega)

theorem HomeSet.paired (h : HomeSet s t l c) (hp : s.Paired l) : t.Paired l := fun space va e =>
  ⟨(hp space va e).1, by rw [h.sameDram.judge, h.sameDram.judge, (hp space va e).2]⟩

/-- A change of the second doubleword is a change at the block. -/
theorem HomeSet.of_plus (h : HomeSet s t (l.plus 8) b) (hp : s.Paired l) : HomeSet s t l b := by
  cases l with
  | spad cell off =>
    refine ⟨h.rest, h.has, h.cells, fun m hm => h.spads m fun o e => ?_, (fun _ _ e => nomatch e), h.dies,
      (fun m k _ => h.lines m k (fun _ _ _ e => nomatch e))⟩
    cases e
    exact hm off rfl
  | mem space va =>
    obtain ⟨aligned, judged⟩ := hp space va rfl
    have line : (va + 8) / 128 = va / 128 := by omega
    have after : t.Paired (.mem space va) := fun r w e => ⟨(hp r w e).1, by rw [h.sameDram.judge, h.sameDram.judge, (hp r w e).2]⟩
    refine ⟨h.rest, after.homeHas.1 h.has, h.cells, fun m _ => h.spads m (fun _ e => nomatch e), fun _ _ _ => h.apart space (va + 8) rfl, h.dies,
      fun m k hm => h.lines m k fun r w p e hj => ?_⟩
    cases e
    rw [line]
    exact hm space va p rfl (judged.symm.trans hj)

/-! ## A doubleword, written where it differs -/

theorem Bank.leNat_read_lt (b : Bank) (o : Nat) : leNat (b.read o 8) < 2 ^ 64 := by
  have := leNat_lt (b.read o 8)
  rwa [Bank.read, mgetBytes_length] at this

/-- A doubleword set at a home, or left where it has the value. -/
theorem State.HomeHas.putDword (h : s.HomeHas l b) (wf : b.wf = true) (hr : s.OffRing l 8) (same : Prop) [Decidable same]
    (hs : same → v = leNat (b.read l.place 8)) :
    ∃ t c, (if same then Except.ok s else s.homeWrite l (leBytes v 8)) = .ok t ∧ HomeSet s t l c ∧ b.Took c l.place 8 ∧
      leNat (c.read l.place 8) = v % 2 ^ 64 := by
  by_cases e : same
  · exact ⟨s, b, if_pos e, .refl h, .refl wf, by rw [hs e, Nat.mod_eq_of_lt (Bank.leNat_read_lt ..)]⟩
  · obtain ⟨t, write, set⟩ := h.offers.homeWrite (bs := leBytes v 8) (by rw [leBytes_length]; exact hr)
    have took := Bank.took_write (o := l.place) (bs := leBytes v 8) wf
    have read := Bank.read_written (o := l.place) (bs := leBytes v 8) wf
    rw [leBytes_length] at took read
    exact ⟨t, _, (if_neg e).trans write, set, took, by rw [read, leNat_leBytes]; rfl⟩

/-! ## The event -/

/-- A barrier block at a home that takes its location: what it reads as before the event, and as the event leaves it. -/
theorem State.Offers.homeBarrier {e : BarEvent} (h : s.Offers l b) (wf : b.wf = true) (hp : s.Paired l) (hr : s.OffRing l 16)
    (hb : b.bad l.place 8 = false) (hb' : b.bad (l.place + 8) 8 = false) :
    let x := leNat (b.read l.place 8)
    let y := leNat (b.read (l.place + 8) 8)
    let old := Barrier.ofDwords x y
    ∃ t c, s.homeBarrier l e = .ok (t, old, (old.event e).2) ∧ HomeSet s t l c ∧ b.Took c l.place 16 ∧
      leNat (c.read l.place 8) = (old.event e).1.dword0 % 2 ^ 64 ∧
      leNat (c.read (l.place + 8) 8) = ((old.event e).1.bytes + y / 2 ^ 32 * 2 ^ 32) % 2 ^ 64 := by
  intro x y old
  obtain ⟨t1, read1, set1⟩ := h.homeRead_good hb
  have pair1 := set1.paired hp
  obtain ⟨t2, read2, set2⟩ := (pair1.homeHas.2 set1.has).offers.homeRead_good (n := 8) (by rw [pair1.place]; exact hb')
  have set2 := set1.trans (set2.of_plus pair1)
  rw [pair1.place] at read2
  obtain ⟨t3, b3, put3, set3, took3, new3⟩ := set2.has.putDword (v := (old.event e).1.dword0) wf ((set2.paired hp).offRing (set2.offRing hr)).1
    ((old.event e).1.dword0 = x) id
  have set3 := set2.trans set3
  have pair3 := set3.paired hp
  obtain ⟨t4, b4, put4, set4, took4, new4⟩ := (pair3.homeHas.2 set3.has).putDword (v := (old.event e).1.bytes + y / 2 ^ 32 * 2 ^ 32) took3.wf
    (pair3.offRing (set3.offRing hr)).2 ((old.event e).1.bytes = old.bytes) fun same => by
      rw [same, pair3.place, took3.read (by omega)]
      exact Nat.mod_add_div' y (2 ^ 32)
  rw [pair3.place] at took4 new4
  refine ⟨t4, b4, ?_, set3.trans (set4.of_plus pair3), (took3.within (k := 0) (by omega)).trans (took4.within (by omega)), ?_, new4⟩
  · unfold State.homeBarrier
    simp only [read1, read2, bind, Except.bind]
    by_cases same3 : (old.event e).1.dword0 = x
    · cases (if_pos same3).symm.trans put3
      rw [if_pos same3]
      by_cases same4 : (old.event e).1.bytes = old.bytes
      · cases (if_pos same4).symm.trans put4
        rw [if_pos same4]
        rfl
      · rw [if_neg same4, (if_neg same4).symm.trans put4]
        rfl
    · rw [if_neg same3, (if_neg same3).symm.trans put3]
      dsimp only
      by_cases same4 : (old.event e).1.bytes = old.bytes
      · cases (if_pos same4).symm.trans put4
        rw [if_pos same4]
        rfl
      · rw [if_neg same4, (if_neg same4).symm.trans put4]
        rfl
  · rw [took4.read (by omega), new3]

end

end Sys2Proof.Machine
end

section
/-! PROOFS. Requests judged and performed at their homes, and remote-update threads (05 R97, R102, R104; 08 R195; 14 R289, R290). -/

set_option Elab.async false

namespace Sys2Proof.Machine

section
variable {s t : State} {l : Loc} {b b' : Bank} {n k : Nat} {p q : Packet} {v : Word} {fl : FFlags}

/-! ## A home that takes a request -/

/-- The home of a location takes an access: no fault ring covers it, and it does not cross a line. -/
def State.TakesAt (s : State) (l : Loc) (k : Nat) : Prop := ∀ space va, l = .mem space va →
  s.HomeTakes space va ∧ s.inFaultRing space va k = false ∧ va % 128 + k ≤ 128

theorem State.TakesAt.offers (h : s.TakesAt l k) : ∃ b, s.Offers l b := by
  cases l with
  | spad cell off => exact ⟨_, rfl⟩
  | mem space va =>
    obtain ⟨takes, -, -⟩ := h space va rfl
    obtain ⟨p, hp, room⟩ := takes
    exact ⟨_, ⟨p, hp, room⟩, p, hp, rfl⟩

theorem State.TakesAt.offRing (h : s.TakesAt l k) : s.OffRing l k := fun space va e => (h space va e).2.1

/-- Nothing differs but the dies, the cells and the requests in flight. -/
def State.MemOnly (s t : State) : Prop := t = { s with dies := t.dies, cells := t.cells, packets := t.packets }

theorem HomeSet.packets (h : HomeSet s t l b) : t.packets = s.packets := by rw [h.rest]

/-- What stands after an access at a home, its answer kept. -/
theorem HomeSet.performed (h : HomeSet s t l b') (hs : s.Offers l b) (beside : b.Beside b' l.place k) :
    (t.setPkt n q).packets = tset s.packets n q ∧ s.MemOnly (t.setPkt n q) ∧ OnlyAt s (t.setPkt n q) l k ∧ (t.setPkt n q).HomeHas l b' := by
  have homes : SameHomes t (t.setPkt n q) := ⟨rfl, rfl, rfl, rfl, rfl⟩
  refine ⟨?_, ?_, (h.onlyAt hs beside).congr homes rfl, h.has.of_homes homes rfl⟩
  · show tset t.packets n q = _
    rw [h.packets]
  · rw [State.MemOnly, State.setPkt, h.rest]

theorem State.Offers.value (h : s.Offers l b) {x : Nat} (hn : s.numAt l k = some x) : b.bad l.place k = false ∧ x = leNat (b.read l.place k) := by
  have good := h.good_of_numAt (by rw [hn]; simp)
  refine ⟨good, ?_⟩
  rw [h.numAt, good] at hn
  simpa using hn.symm

/-! ## What one operation gives -/

theorem State.doOp_load {sg : Bool} (hop : p.op = .load k sg) (h : s.Offers l b) (hb : b.bad l.place k = false) :
    ∃ t, s.doOp p l = .ok (t, Machine.extend sg k (b.read l.place k), 0) ∧ HomeSet s t l b := by
  obtain ⟨t, read, set⟩ := h.homeRead_good hb
  refine ⟨t, ?_, set⟩
  unfold State.doOp
  simp only [hop, read, bind, Except.bind, pure, Except.pure]

theorem State.doOp_store {bs : List Byte} (hop : p.op = .store bs) (h : s.Offers l b) (hr : s.OffRing l bs.length) :
    ∃ t, s.doOp p l = .ok (t, 0, 0) ∧ HomeSet s t l (b.write l.place bs) := by
  obtain ⟨t, write, set⟩ := h.homeWrite hr
  refine ⟨t, ?_, set⟩
  unfold State.doOp
  simp only [hop, write, bind, Except.bind, pure, Except.pure]

theorem State.doOp_give (hop : p.op = .give v) (h : s.Offers l b) (hr : s.OffRing l 8) :
    ∃ t, s.doOp p l = .ok (t, 0, 0) ∧ HomeSet s t l (b.write l.place (leBytes v.toNat 8)) := by
  obtain ⟨t, write, set⟩ := h.homeWrite (bs := leBytes v.toNat 8) (by rw [leBytes_length]; exact hr)
  refine ⟨t, ?_, set⟩
  unfold State.doOp
  simp only [hop, write, bind, Except.bind, pure, Except.pure]

/-- The bank after a take: the word at the offset is empty. -/
def Bank.emptied (b : Bank) (o : Nat) : Bank := { b with full := nput b.full (o / 8) false }

theorem State.doOp_take (hop : p.op = .take) (h : s.Offers l b) (hr : s.OffRing l 8) (hb : b.bad l.place 8 = false) :
    ∃ t, s.doOp p l = .ok (t, Machine.extend false 8 (b.read l.place 8), 0) ∧ HomeSet s t l (b.emptied l.place) := by
  obtain ⟨t, read, set⟩ := h.homeRead_good hb
  obtain ⟨u, write, set'⟩ := set.has.offers.homeModify (f := fun b o => b.emptied o) (set.offRing hr)
  refine ⟨u, ?_, set.trans set'⟩
  have emptied : t.homeSetFull l false = .ok u := write
  unfold State.doOp
  simp only [hop, read, emptied, bind, Except.bind, pure, Except.pure]

theorem State.doOp_amo {f : BitVec 3} {ty : BitVec 2} {e : Word} {old : Nat} (hop : p.op = .amo f ty v e) (h : s.Offers l b)
    (hr : s.OffRing l (amoSize ty)) (hn : s.numAt l (amoSize ty) = some old) :
    ∃ t, s.doOp p l = .ok (t, BitVec.ofNat 64 old, (amoNew f ty old v.toNat e.toNat).2) ∧
      HomeSet s t l (b.write l.place (leBytes (amoNew f ty old v.toNat e.toNat).1 (amoSize ty))) := by
  obtain ⟨t, amo, set⟩ := h.homeAmo (v := v) (e := e) (f := f) hr hn
  refine ⟨t, ?_, set⟩
  unfold State.doOp
  simp only [hop, amo, bind, Except.bind, pure, Except.pure]

/-! ## The new word of an atomic fits its size (05 R102, R103) -/

theorem withSign_b32_lt {neg : Bool} {x : Nat} (h : x ≤ Fmt.inf .b32) : withSign .b32 neg x < 2 ^ 32 := by
  have bound : Fmt.inf .b32 + Fmt.signBit .b32 < 2 ^ 32 := by decide
  unfold withSign
  split <;> omega

theorem fst_ite_lt {c : Prop} [Decidable c] {x y : Nat × FFlags} {m : Nat} (hx : x.1 < m) (hy : ¬ c → y.1 < m) : (if c then x else y).1 < m := by
  split
  · exact hx
  · exact hy ‹_›

theorem roundPack_lt (rtz neg : Bool) (m : Nat) (e : Int) : (roundPack .b32 rtz neg m e false).1 < 2 ^ 32 := by
  by_cases hm : m = 0
  · rw [hm, roundPack_zero]
    cases neg <;> decide
  · obtain ⟨small, -⟩ := rounds_roundPack rtz neg (stands_self m) hm fun h => absurd h Bool.false_ne_true
    exact small

theorem qnan_b32_lt : Fmt.qnan .b32 < 2 ^ 32 := by decide

theorem add32_lt (a b : Nat) : (add32 a b).1 < 2 ^ 32 := by
  unfold add32 fAdd
  split
  · exact qnan_b32_lt
  · exact qnan_b32_lt
  · exact fst_ite_lt (withSign_b32_lt (Nat.le_refl _)) fun _ => qnan_b32_lt
  · exact withSign_b32_lt (Nat.le_refl _)
  · exact withSign_b32_lt (Nat.le_refl _)
  · exact roundPack_lt ..

theorem fMinMax_lt {larger : Bool} {a b : Nat} (ha : a < 2 ^ 32) (hb : b < 2 ^ 32) : (fMinMax .b32 larger a b).1 < 2 ^ 32 := by
  unfold fMinMax
  exact fst_ite_lt qnan_b32_lt fun _ => fst_ite_lt ha fun _ => hb

theorem amoInt_lt (f : BitVec 3) (w old v e : Nat) : amoInt f w old v e < 2 ^ w := by
  unfold amoInt
  dsimp only
  split <;> (try split) <;> exact BitVec.isLt _

theorem amoNew_lt {f : BitVec 3} {ty : BitVec 2} {old v e : Nat} (h : old < 256 ^ amoSize ty) : (amoNew f ty old v e).1 < 256 ^ amoSize ty := by
  unfold amoNew
  split
  · next float =>
    subst float
    have small : v % 2 ^ 32 < 2 ^ 32 := Nat.mod_lt _ (by decide)
    dsimp only
    split
    · exact add32_lt ..
    · exact fMinMax_lt h small
    · exact fMinMax_lt h small
  · exact (Nat.pow_mul 2 8 (amoSize ty)) ▸ amoInt_lt ..

end

end Sys2Proof.Machine
end

section
/-! PROOFS. The arrival of a request at its home (05 R95, R97, R102; 08 R195). -/

set_option Elab.async false

namespace Sys2Proof.Machine

section
variable {s t : State} {l : Loc} {b b' : Bank} {n k x old : Nat} {p q : Packet} {v e : Word} {fl : FFlags} {f : BitVec 3} {ty : BitVec 2}
  {sg : Bool} {bs : List Byte}

theorem State.perform_of_doOp (hl : p.target = .home l) (judged : s.judgePacket p l = none) (done : s.doOp p l = .ok (t, v, fl)) :
    s.perform p = (t, .performed v fl) := by
  unfold State.perform
  simp only [hl, judged, done]

theorem Bank.took_leBytes {o m x : Nat} (h : b.wf = true) : b.Took (b.write o (leBytes x m)) o m := by
  have took := Bank.took_write (o := o) (bs := leBytes x m) h
  rwa [leBytes_length] at took

theorem Bank.read_leBytes {o m x : Nat} (h : b.wf = true) : (b.write o (leBytes x m)).read o m = leBytes x m := by
  have read := Bank.read_written (o := o) (bs := leBytes x m) h
  rwa [leBytes_length] at read

/-- A request that stands at its home, before no earlier posted one. -/
structure State.Arrived (s : State) (n : Nat) (p : Packet) : Prop where
  found : tfind s.packets n = some p
  st    : p.st = .travelling
  home  : s.atHome n p = true
  free  : s.behind n = false

theorem State.Arrived.exec_homeAccessArrival (h : s.Arrived n p) (hb : p.op.isBarrier = false) : exec (.homeAccessArrival n) s =
    .next (if p.isUpdate then s.setPkt n { p with st := .queued, place := none } else s.performPkt n p) := by
  show execHomeAccessArrival n s = _
  unfold execHomeAccessArrival
  simp only [h.found, h.st, h.home, h.free, hb, ne_eq, not_true_eq_false, decide_false, Bool.not_true, Bool.or_false, Bool.false_eq_true,
    if_false]
  exact (apply_ite _ _ _ _).symm

/-- A request at its home that the home does not judge yet: it waits. -/
theorem homeAccessArrival_waits (found : tfind s.packets n = some p)
    (h : p.st ≠ .travelling ∨ s.atHome n p = false ∨ s.behind n = true) : exec (.homeAccessArrival n) s = .next s := by
  show execHomeAccessArrival n s = _
  unfold execHomeAccessArrival
  simp only [found]
  refine if_pos ?_
  rcases h with h | h | h <;> simp [h]

/-- A request that is performed at its home, its answer kept. -/
theorem State.Arrived.performed (h : s.Arrived n p) (hl : p.target = .home l) (hb : p.op.isBarrier = false) (hu : p.isUpdate = false)
    (judged : s.judgePacket p l = none) (done : s.doOp p l = .ok (t, v, fl)) :
    exec (.homeAccessArrival n) s = .next (t.setPkt n { p with st := .performed v fl }) := by
  rw [h.exec_homeAccessArrival hb, hu, State.performPkt, State.perform_of_doOp hl judged done]
  rfl

theorem State.Arrived.refused {c : Byte} (h : s.Arrived n p) (hl : p.target = .home l) (hb : p.op.isBarrier = false) (hu : p.isUpdate = false)
    (judged : s.judgePacket p l = some c) :
    exec (.homeAccessArrival n) s = .next { s with packets := tset s.packets n { p with st := .refused c } } := by
  rw [h.exec_homeAccessArrival hb, hu, State.performPkt, State.perform]
  simp only [hl, judged]
  rfl

/-- A remote update joins its core's queue. -/
theorem State.Arrived.queued (h : s.Arrived n p) (hu : p.isUpdate = true) :
    exec (.homeAccessArrival n) s = .next { s with packets := tset s.packets n { p with st := .queued, place := none } } := by
  have plain : p.op.isBarrier = false := by
    unfold Packet.isUpdate at hu
    split at hu
    · next e _ => rw [e]; rfl
    · cases hu
  rw [h.exec_homeAccessArrival plain, hu]
  rfl

/-! ## The operations of a request -/

/-- What the request does at its home: its answer, with nothing but memory changed, and of memory the `k` bytes at the location alone. -/
def State.Goes (s : State) (i : Instr) (n : Nat) (q : Packet) (P : State → Prop) : Prop :=
  ∃ t, exec i s = .next t ∧ t.packets = tset s.packets n q ∧ P t

section
variable (h : s.Arrived n p) (hl : p.target = .home l) (hu : p.isUpdate = false) (judged : s.judgePacket p l = none)
include h hl hu judged

theorem State.Arrived.load (hop : p.op = .load k sg) (h8 : k ≤ 8) (hk : 0 < k) (takes : s.TakesAt l k) (hx : s.numAt l k = some x) :
    s.Goes (.homeAccessArrival n) n
      { p with st := .performed (if sg then (BitVec.ofNat (8 * k) x).signExtend 64 else BitVec.ofNat 64 x) 0 }
      fun t => s.MemOnly t ∧ OnlyAt s t l 0 := by
  obtain ⟨b, offers⟩ := takes.offers
  obtain ⟨good, rfl⟩ := offers.value hx
  obtain ⟨t, done, set⟩ := State.doOp_load hop offers good
  obtain ⟨packets, rest, only, -⟩ := set.performed (k := 0) (n := n) (q := { p with st := .performed (Machine.extend sg k (b.read l.place k)) 0 })
    offers (Bank.Beside.refl b l.place 0)
  have value : Machine.extend sg k (b.read l.place k) =
      if sg then (BitVec.ofNat (8 * k) (leNat (b.read l.place k))).signExtend 64 else BitVec.ofNat 64 (leNat (b.read l.place k)) := by
    cases sg with
    | true => exact extend_signed (mgetBytes_length ..) hk h8
    | false => exact extend_unsigned _
  rw [← value]
  exact ⟨_, h.performed hl (by rw [hop]; rfl) hu judged done, packets, rest, only⟩

theorem State.Arrived.store (hm : s.memWf = true) (hop : p.op = .store bs) (takes : s.TakesAt l bs.length) (hx : s.numAt l bs.length ≠ none) :
    s.Goes (.homeAccessArrival n) n { p with st := .performed 0 0 }
      fun t => s.MemOnly t ∧ OnlyAt s t l bs.length ∧ t.numAt l bs.length = some (leNat bs) := by
  obtain ⟨b, offers⟩ := takes.offers
  have wf := offers.wf hm
  obtain ⟨t, done, set⟩ := State.doOp_store hop offers takes.offRing
  obtain ⟨packets, rest, only, has⟩ := set.performed (k := bs.length) (n := n) (q := { p with st := .performed 0 0 })
    offers (Bank.took_write wf).beside
  refine ⟨_, h.performed hl (by rw [hop]; rfl) hu judged done, packets, rest, only, ?_⟩
  rw [has.numAt (Bank.good_after wf (offers.good_of_numAt hx)), Bank.read_written wf]

theorem State.Arrived.take (hm : s.memWf = true) (hop : p.op = .take) (takes : s.TakesAt l 8) (hx : s.numAt l 8 = some x) :
    s.Goes (.homeAccessArrival n) n { p with st := .performed (BitVec.ofNat 64 x) 0 }
      fun t => s.MemOnly t ∧ OnlyAt s t l 0 ∧ t.fullAt l = some false := by
  obtain ⟨b, offers⟩ := takes.offers
  obtain ⟨good, rfl⟩ := offers.value hx
  obtain ⟨t, done, set⟩ := State.doOp_take hop offers takes.offRing good
  rw [extend_unsigned] at done
  obtain ⟨packets, rest, only, has⟩ := set.performed (k := 0) (n := n)
    (q := { p with st := .performed (BitVec.ofNat 64 (leNat (b.read l.place 8))) 0 }) offers (Bank.beside_full _)
  refine ⟨_, h.performed hl (by rw [hop]; rfl) hu judged done, packets, rest, only, ?_⟩
  rw [has.offers.fullAt]
  exact congrArg some (contains_ndel_self ((Bank.wf_iff b).1 (offers.wf hm)).2.1)

theorem State.Arrived.give (hm : s.memWf = true) (hop : p.op = .give v) (takes : s.TakesAt l 8) (hx : s.numAt l 8 ≠ none) :
    s.Goes (.homeAccessArrival n) n { p with st := .performed 0 0 }
      fun t => s.MemOnly t ∧ OnlyAt s t l 8 ∧ t.fullAt l = some true ∧ t.numAt l 8 = some v.toNat := by
  obtain ⟨b, offers⟩ := takes.offers
  have wf := offers.wf hm
  obtain ⟨t, done, set⟩ := State.doOp_give hop offers takes.offRing
  obtain ⟨packets, rest, only, has⟩ := set.performed (k := 8) (n := n) (q := { p with st := .performed 0 0 }) offers
    (Bank.took_leBytes wf).beside
  refine ⟨_, h.performed hl (by rw [hop]; rfl) hu judged done, packets, rest, only, ?_, ?_⟩
  · rw [has.offers.fullAt, Bank.full_write (by rw [leBytes_length]; decide), leBytes_length, decide_eq_true (by omega), Bool.or_true]
  · rw [has.numAt (Bank.good_after wf (offers.good_of_numAt hx)), Bank.read_leBytes wf, leNat_leBytes, Nat.mod_eq_of_lt (show v.toNat < 256 ^ 8 from v.isLt)]

end

/-- A home after an atomic reads the new word. -/
theorem State.HomeHas.numAt_amo (has : t.HomeHas l (b.write l.place (leBytes (amoNew f ty old x k).1 (amoSize ty)))) (wf : b.wf = true)
    (good : b.bad l.place (amoSize ty) = false) (value : old = leNat (b.read l.place (amoSize ty))) :
    t.numAt l (amoSize ty) = some (amoNew f ty old x k).1 := by
  have small : old < 256 ^ amoSize ty := by
    have := leNat_lt (b.read l.place (amoSize ty))
    rwa [Bank.read, mgetBytes_length, ← Bank.read, ← value] at this
  rw [has.numAt (Bank.good_after wf good), Bank.read_leBytes wf, leNat_leBytes, Nat.mod_eq_of_lt (amoNew_lt small)]

theorem State.Arrived.amo (h : s.Arrived n p) (hl : p.target = .home l) (hu : p.isUpdate = false) (judged : s.judgePacket p l = none)
    (hm : s.memWf = true) (hop : p.op = .amo f ty v e) (takes : s.TakesAt l (amoSize ty)) (hx : s.numAt l (amoSize ty) = some old) :
    s.Goes (.homeAccessArrival n) n { p with st := .performed (BitVec.ofNat 64 old) (amoNew f ty old v.toNat e.toNat).2 }
      fun t => s.MemOnly t ∧ OnlyAt s t l (amoSize ty) ∧ t.numAt l (amoSize ty) = some (amoNew f ty old v.toNat e.toNat).1 := by
  obtain ⟨b, offers⟩ := takes.offers
  have wf := offers.wf hm
  obtain ⟨good, value⟩ := offers.value hx
  obtain ⟨t, done, set⟩ := State.doOp_amo hop offers takes.offRing hx
  obtain ⟨packets, rest, only, has⟩ := set.performed (k := amoSize ty) (n := n)
    (q := { p with st := .performed (BitVec.ofNat 64 old) (amoNew f ty old v.toNat e.toNat).2 }) offers
    (Bank.took_leBytes wf).beside
  exact ⟨_, h.performed hl (by rw [hop]; rfl) hu judged done, packets, rest, only, has.numAt_amo wf good value⟩

/-! ## Remote-update threads (14 R289, R290) -/

/-- No place in its core's guest slots, or an issue of the core in this cycle: the thread waits. -/
theorem remoteUpdateThread_waits {space va : Nat} {pg : Page} (found : tfind s.packets n = some p) (st : p.st = .queued) (free : s.behind n = false)
    (hl : p.target = .home (.mem space va)) (hpg : s.page space va = some pg) (busy : 32 ≤ s.guestsOf pg.core ∨ s.coreBusy pg.core = true) :
    exec (.remoteUpdateThread n) s = .next s := by
  show execRemoteUpdateThread n s = _
  unfold execRemoteUpdateThread State.coreOfTarget
  simp only [found, st, free, hl, hpg, ne_eq, not_true_eq_false, decide_false, Bool.or_false, Bool.false_eq_true, if_false, Option.map_some,
    Bool.or_eq_true, decide_eq_true_eq, busy, if_true]

end

end Sys2Proof.Machine
end

section
/-! PROOFS. A remote-update thread's one issue: the atomic, the core's turn and the charge (14 R289, R290; 16 R311). -/

set_option Elab.async false

namespace Sys2Proof.Machine

section
variable {s t u : State} {l : Loc} {b b' : Bank} {n m core old space va : Nat} {p : Packet} {q : Packet} {v e : Word} {f : BitVec 3}
  {ty : BitVec 2} {pg : Page}

/-- Two states whose dies hold the same lines hold the same at their homes. -/
theorem State.Offers.congr (h : s.Offers l b) (cells : t.cells = s.cells) (pages : t.pages = s.pages) (leases : t.leases = s.leases)
    (parts : t.parts = s.parts) (versions : t.versions = s.versions) (l2 : ∀ m, (t.die m).l2 = (s.die m).l2)
    (dram : ∀ m, (t.die m).dram = (s.die m).dram ∧ (t.die m).written = (s.die m).written ∧ (t.die m).cipher = (s.die m).cipher) :
    t.Offers l b := by
  cases l with
  | spad cell off =>
    rw [State.Offers, State.cell, cells]
    exact h
  | mem space va =>
    obtain ⟨⟨p, hp, room⟩, q, hq, rfl⟩ := h
    cases hp.symm.trans hq
    have judged : t.judge space va = .ok p := (State.judge_congr (fun n => by rw [State.part, State.part, parts]) pages leases).trans hp
    have slice (d a : Nat) : t.homeSlice p.part d a = s.homeSlice p.part d a := by
      unfold State.homeSlice State.slicesOf
      rw [leases]
    have sliceOf (r w : Nat) : t.sliceOf r w = s.sliceOf r w := by
      unfold State.sliceOf State.homeSlice State.slicesOf State.page
      rw [leases, pages]
    have lines (i : Nat) : t.versionLines i = s.versionLines i := by
      unfold State.versionLines State.versionsIn
      simp only [versions, sliceOf]
    have dramLine (d pa : Nat) : t.dramLine d pa = s.dramLine d pa := by
      unfold State.dramLine State.decipher State.groupOfFrame State.keyless State.keyOf State.part
      simp only [(dram d).1, (dram d).2.1, (dram d).2.2, pages, leases, parts]
    refine ⟨⟨p, judged, ?_⟩, p, judged, ?_⟩
    · unfold State.L2Room
      rw [l2, lines, slice]
      exact room
    · rw [State.takenLine, State.takenLine, l2, dramLine]

/-- A core issues in this cycle. -/
def State.coreIssues (s : State) (core : Nat) : State :=
  s.modDie (core / 16) fun d => { d with coreIssued := tset d.coreIssued core (s.cyc (core / 16)) }

theorem State.die_coreIssues : (s.coreIssues core).die m = { s.die m with coreIssued := ((s.coreIssues core).die m).coreIssued } := by
  unfold State.coreIssues
  rw [State.die_modDie]
  split
  · next e => rw [e]
  · rfl

theorem State.coreBusy_of_die (hd : (t.die (core / 16)).coreIssued = ((s.coreIssues core).die (core / 16)).coreIssued)
    (hc : t.cyc (core / 16) = s.cyc (core / 16)) : t.coreBusy core = true := by
  unfold State.coreBusy
  rw [hd, hc, State.coreIssues, State.die_modDie_self, tfind_tset_self]
  exact beq_self_eq_true _

theorem State.Offers.coreIssues (h : s.Offers l b) : (s.coreIssues core).Offers l b :=
  h.congr rfl rfl rfl rfl rfl (fun m => by rw [State.die_coreIssues]) fun m => by rw [State.die_coreIssues]; exact ⟨rfl, rfl, rfl⟩

/-- A charge changes the counts that wait at one die, and no other field of a die. -/
theorem State.die_chargeNow (s : State) (cell : Nat) (entry : Option Nat) (units rolled m : Nat) :
    (s.chargeNow cell entry units rolled).die m = { s.die m with charges := ((s.chargeNow cell entry units rolled).die m).charges } := by
  unfold State.chargeNow
  split
  · rfl
  · split
    · rw [State.die_modDie]
      split
      · next e => rw [e]
      · rfl
    · rfl

theorem State.chargeNow_rest (s : State) (cell : Nat) (entry : Option Nat) (units rolled : Nat) :
    s.chargeNow cell entry units rolled = { s with dies := (s.chargeNow cell entry units rolled).dies } := by
  unfold State.chargeNow
  split
  · rfl
  · split <;> rfl

/-- The issue of a remote-update thread. -/
theorem remoteUpdateThread_issues (found : tfind s.packets n = some p) (st : p.st = .queued) (free : s.behind n = false)
    (hl : p.target = .home (.mem space va)) (hpg : s.page space va = some pg) (room : s.guestsOf pg.core < 32) (idle : s.coreBusy pg.core = false) :
    exec (.remoteUpdateThread n) s = .next (((s.coreIssues pg.core).performPkt n p).chargeNow (512 + pg.core) p.entry 1 0) := by
  show execRemoteUpdateThread n s = _
  unfold execRemoteUpdateThread State.coreOfTarget
  simp only [found, st, free, hl, hpg, ne_eq, not_true_eq_false, decide_false, Bool.or_false, Bool.false_eq_true, if_false, Option.map_some,
    idle, Nat.not_le.2 room]
  rfl

theorem remoteUpdateThread_performs (hm : s.memWf = true) (found : tfind s.packets n = some p) (st : p.st = .queued) (free : s.behind n = false)
    (hl : p.target = .home (.mem space va)) (hpg : s.page space va = some pg) (room : s.guestsOf pg.core < 32) (idle : s.coreBusy pg.core = false)
    (hop : p.op = .amo f ty v e) (judged : s.judgePacket p (.mem space va) = none) (takes : s.TakesAt (.mem space va) (amoSize ty))
    (hx : s.numAt (.mem space va) (amoSize ty) = some old) :
    s.Goes (.remoteUpdateThread n) n { p with st := .performed (BitVec.ofNat 64 old) (amoNew f ty old v.toNat e.toNat).2 } fun t =>
      t.numAt (.mem space va) (amoSize ty) = some (amoNew f ty old v.toNat e.toNat).1 ∧ t.cells = s.cells ∧ t.coreBusy pg.core = true ∧
        ∀ y w, p.entry = some y → tfind s.entries y = some w →
          (t.die w.die).charges = (s.die w.die).charges ++ [{ entry := y, units := 1, cell := 512 + pg.core }] := by
  obtain ⟨b, offers⟩ := takes.offers
  have wf := offers.wf hm
  obtain ⟨good, value⟩ := offers.value hx
  have issued := offers.coreIssues (core := pg.core)
  have read : (s.coreIssues pg.core).numAt (.mem space va) (amoSize ty) = some old := by rw [issued.numAt, ← offers.numAt, hx]
  obtain ⟨u, done, set⟩ := State.doOp_amo (v := v) (e := e) hop issued takes.offRing read
  have performed : (s.coreIssues pg.core).performPkt n p =
      u.setPkt n { p with st := .performed (BitVec.ofNat 64 old) (amoNew f ty old v.toNat e.toNat).2 } := by
    rw [State.performPkt, State.perform_of_doOp hl (show (s.coreIssues pg.core).judgePacket p _ = none from judged) done]
  obtain ⟨packets, rest, -, has⟩ := set.performed (k := amoSize ty) (n := n)
    (q := { p with st := .performed (BitVec.ofNat 64 old) (amoNew f ty old v.toNat e.toNat).2 }) issued (Bank.took_leBytes wf).beside
  have cells : (u.setPkt n { p with st := .performed (BitVec.ofNat 64 old) (amoNew f ty old v.toNat e.toNat).2 }).cells = s.cells :=
    set.apart space va rfl
  have dies (m : Nat) : (u.setPkt n { p with st := .performed (BitVec.ofNat 64 old) (amoNew f ty old v.toNat e.toNat).2 }).die m =
      { (s.coreIssues pg.core).die m with l2 := (u.die m).l2 } := set.dies m
  rw [State.Goes, remoteUpdateThread_issues found st free hl hpg room idle, performed]
  generalize u.setPkt n _ = w at *
  have charged := w.chargeNow_rest (512 + pg.core) p.entry 1 0
  have chargedDie := w.die_chargeNow (512 + pg.core) p.entry 1 0
  refine ⟨_, rfl, by rw [charged, packets]; rfl, ?_, by rw [charged, cells], ?_, fun y x hy hw => ?_⟩
  · have kept : (w.chargeNow (512 + pg.core) p.entry 1 0).HomeHas (.mem space va) _ := has.congr
      (fun r a _ => State.judge_congr (fun n => by rw [charged]; rfl) (by rw [charged]) (by rw [charged])) (fun m => by rw [chargedDie])
      fun m => by rw [charged]; rfl
    exact kept.numAt_amo wf good value
  · refine State.coreBusy_of_die (s := s) ?_ ?_
    · rw [chargedDie, dies]
    · show ((w.chargeNow (512 + pg.core) p.entry 1 0).die _).cyc = (s.die _).cyc
      rw [chargedDie, dies, State.die_coreIssues]
  · have entry : tfind w.entries y = some x := by rw [rest]; exact hw
    have before : (w.die x.die).charges = (s.die x.die).charges := by rw [dies, State.die_coreIssues]
    unfold State.chargeNow
    rw [← before]
    simp only [hy, entry, State.die_modDie_self]

end

end Sys2Proof.Machine
end

section
/-! PROOFS. Barrier events as their homes perform them, in numbers (05 R109-R111). -/

set_option Elab.async false

namespace Sys2Proof.Machine

section
variable {s t u : State} {l : Loc} {n : Nat} {p : Packet} {x : Barrier} {e : BarEvent} {rem exp phase ov bytes rest k : Nat}

/-! ## Blocks as numbers -/

/-- The fields of a block lie in their widths. -/
structure Barrier.Fits (x : Barrier) : Prop where
  rem   : x.rem < 2 ^ 32
  exp   : x.exp < 2 ^ 16
  phase : x.phase < 2 ^ 15
  bytes : x.bytes < 2 ^ 32

theorem Barrier.Fits.dword0_lt (h : x.Fits) : x.dword0 < 2 ^ 64 := by
  obtain ⟨hr, he, hp, -⟩ := h
  unfold Barrier.dword0
  split <;> omega

/-- The completion check of an event (05 R111). -/
def Barrier.checked (x : Barrier) (before : Barrier) : Barrier :=
  if x.rem = 0 ∧ x.bytes = 0 ∧ (before.rem ≠ 0 ∨ before.bytes ≠ 0) then { x with phase := (x.phase + 1) % 2 ^ 15, rem := x.exp } else x

theorem Barrier.Fits.checked {y : Barrier} (h : x.Fits) : (x.checked y).Fits := by
  unfold Barrier.checked
  split
  · exact ⟨by have := h.exp; dsimp only; omega, h.exp, Nat.mod_lt _ (by decide), h.bytes⟩
  · exact h

/-- What an arrival does, before the completion check. -/
theorem Barrier.event_arrive (x : Barrier) : x.event .arrive =
    if x.rem = 0 then ({ x with ovr := true : Barrier }.checked x, true) else ({ x with rem := x.rem - 1 : Barrier }.checked x, false) := by
  unfold Barrier.event Barrier.checked
  by_cases h : x.rem = 0
  · simp only [if_pos h]
    exact (apply_ite (·, true) _ _ _).symm
  · simp only [if_neg h]
    exact (apply_ite (·, false) _ _ _).symm

theorem Barrier.event_declare (x : Barrier) (k : Nat) : x.event (.declare k) =
    if 0xFFFF_FFFF < x.bytes + k then ({ x with bytes := 0xFFFF_FFFF, ovr := true : Barrier }.checked x, true)
    else ({ x with bytes := x.bytes + k : Barrier }.checked x, false) := by
  unfold Barrier.event Barrier.checked
  by_cases h : 0xFFFF_FFFF < x.bytes + k
  · simp only [if_pos h]
    exact (apply_ite (·, true) _ _ _).symm
  · simp only [if_neg h]
    exact (apply_ite (·, false) _ _ _).symm

theorem Barrier.event_bytes (x : Barrier) (k : Nat) : x.event (.bytes k) =
    if x.bytes < k then ({ x with bytes := 0, ovr := true : Barrier }.checked x, true)
    else ({ x with bytes := x.bytes - k : Barrier }.checked x, false) := by
  unfold Barrier.event Barrier.checked
  by_cases h : x.bytes < k
  · simp only [if_pos h]
    exact (apply_ite (·, true) _ _ _).symm
  · simp only [if_neg h]
    exact (apply_ite (·, false) _ _ _).symm

theorem Barrier.Fits.event (h : x.Fits) (e : BarEvent) : (x.event e).1.Fits := by
  obtain ⟨hr, he, hp, hb⟩ := h
  cases e with
  | arrive =>
    rw [Barrier.event_arrive]
    split
    · exact Barrier.Fits.checked ⟨hr, he, hp, hb⟩
    · exact Barrier.Fits.checked ⟨by dsimp only; omega, he, hp, hb⟩
  | declare k =>
    rw [Barrier.event_declare]
    split
    · exact Barrier.Fits.checked ⟨hr, he, hp, by dsimp only; omega⟩
    · exact Barrier.Fits.checked ⟨hr, he, hp, by dsimp only; omega⟩
  | bytes k =>
    rw [Barrier.event_bytes]
    split
    · exact Barrier.Fits.checked ⟨hr, he, hp, by dsimp only; omega⟩
    · exact Barrier.Fits.checked ⟨hr, he, hp, by dsimp only; omega⟩

/-! ## A block at a home -/

theorem State.Paired.offers {b : Bank} (h : s.Paired l) (hs : s.Offers l b) : s.Offers (l.plus 8) b := by
  cases l with
  | spad cell off => exact hs
  | mem space va =>
    obtain ⟨aligned, judged⟩ := h space va rfl
    have line : (va + 8) / 128 = va / 128 := by omega
    simp only [Loc.plus, State.Offers, State.HomeTakes, State.takenLine, judged, line] at hs ⊢
    exact hs

/-- A barrier block whose home takes an event, with its fields as numbers. -/
structure State.BlockAt (s : State) (l : Loc) (rem exp phase ov bytes rest : Nat) : Prop where
  wf      : s.memWf = true
  paired  : s.Paired l
  takes   : s.TakesAt l 16
  hrem    : rem < 2 ^ 32
  hexp    : exp < 2 ^ 16
  hphase  : phase < 2 ^ 15
  hov     : ov < 2
  hbytes  : bytes < 2 ^ 32
  hrest   : rest < 2 ^ 32
  first   : s.numAt l 8 = some (rem + exp * 2 ^ 32 + phase * 2 ^ 48 + ov * 2 ^ 63)
  second  : s.numAt (l.plus 8) 8 = some (bytes + rest * 2 ^ 32)

/-- The block before an event. -/
def blockOf (rem exp phase ov bytes : Nat) : Barrier := { rem := rem, exp := exp, phase := phase, ovr := decide (ov = 1), bytes := bytes }

theorem State.BlockAt.fits (h : s.BlockAt l rem exp phase ov bytes rest) : (blockOf rem exp phase ov bytes).Fits :=
  ⟨h.hrem, h.hexp, h.hphase, h.hbytes⟩

theorem State.BlockAt.ofDwords (h : s.BlockAt l rem exp phase ov bytes rest) :
    Barrier.ofDwords (rem + exp * 2 ^ 32 + phase * 2 ^ 48 + ov * 2 ^ 63) (bytes + rest * 2 ^ 32) = blockOf rem exp phase ov bytes := by
  obtain ⟨-, -, -, hr, he, hp, ho, hb, hc, -, -⟩ := h
  unfold Barrier.ofDwords blockOf
  congr 1
  · omega
  · omega
  · omega
  · rw [decide_eq_decide]
    omega
  · omega

/-- The block of two doublewords at a home. -/
def State.BlockIs (t : State) (l : Loc) (x : Barrier) (rest : Nat) : Prop :=
  t.numAt l 8 = some x.dword0 ∧ t.numAt (l.plus 8) 8 = some (x.bytes + rest * 2 ^ 32)

/-- An event at a barrier's home. -/
theorem State.BlockAt.homeBarrier (h : s.BlockAt l rem exp phase ov bytes rest) (e : BarEvent) :
    ∃ t, s.homeBarrier l e = .ok (t, blockOf rem exp phase ov bytes, ((blockOf rem exp phase ov bytes).event e).2) ∧
      t = { s with dies := t.dies, cells := t.cells } ∧ ∀ u, SameHomes t u → u.cells = t.cells → OnlyAt s u l 16 ∧
        u.BlockIs l ((blockOf rem exp phase ov bytes).event e).1 rest := by
  obtain ⟨b, offers⟩ := h.takes.offers
  have wf := offers.wf h.wf
  obtain ⟨good, first⟩ := offers.value h.first
  have offers' := h.paired.offers offers
  obtain ⟨good', second⟩ := offers'.value h.second
  rw [h.paired.place] at good' second
  obtain ⟨t, c, event, set, took, new, new'⟩ := offers.homeBarrier (e := e) wf h.paired h.takes.offRing good good'
  rw [← first, ← second, h.ofDwords] at event new new'
  have fits := h.fits.event e
  rw [Nat.mod_eq_of_lt fits.dword0_lt] at new
  have upper : (bytes + rest * 2 ^ 32) / 2 ^ 32 = rest := by have := h.hbytes; omega
  rw [upper, Nat.mod_eq_of_lt (by have := fits.bytes; have := h.hrest; omega)] at new'
  refine ⟨t, event, set.rest, fun u homes cells => ⟨(set.onlyAt offers took.beside).congr homes cells, ?_, ?_⟩⟩
  · rw [(set.has.of_homes homes cells).numAt (took.good _ _ good), new]
  · have paired := set.paired h.paired
    have has := (paired.homeHas.2 set.has).of_homes homes cells
    rw [has.numAt (by rw [paired.place]; exact took.good _ _ good'), paired.place, new']

end

end Sys2Proof.Machine
end

section
/-! PROOFS. Barrier arrivals, declarations and byte reports as requests (05 R109-R111; 10 R223). -/

set_option Elab.async false

namespace Sys2Proof.Machine

section
variable {s t u : State} {l : Loc} {n : Nat} {p q : Packet} {rem exp phase ov bytes rest k : Nat} {o : Bool} {e : BarEvent}

/-! ## The events in numbers -/

theorem dword0_blockOf (h : ov < 2) : (blockOf rem exp phase ov bytes).dword0 = rem + exp * 2 ^ 32 + phase * 2 ^ 48 + ov * 2 ^ 63 := by
  simp only [blockOf, Barrier.dword0, decide_eq_true_eq]
  split <;> omega

theorem State.BlockIs.nums (h : t.BlockIs l (blockOf rem exp phase ov bytes) rest) (hov : ov < 2) :
    t.numAt l 8 = some (rem + exp * 2 ^ 32 + phase * 2 ^ 48 + ov * 2 ^ 63) ∧ t.numAt (l.plus 8) 8 = some (bytes + rest * 2 ^ 32) := by
  obtain ⟨first, second⟩ := h
  rw [dword0_blockOf hov] at first
  exact ⟨first, second⟩

theorem Barrier.checked_of_not {x y : Barrier} (h : ¬ (x.rem = 0 ∧ x.bytes = 0 ∧ (y.rem ≠ 0 ∨ y.bytes ≠ 0))) : x.checked y = x := if_neg h

theorem arrive_beyond : (blockOf 0 exp phase ov bytes).event .arrive = (blockOf 0 exp phase 1 bytes, true) := by
  rw [Barrier.event_arrive]
  refine (if_pos rfl).trans ?_
  rw [Barrier.checked_of_not (by simp only [blockOf]; omega)]
  rfl

theorem arrive_last : (blockOf 1 exp phase ov 0).event .arrive = (blockOf exp exp ((phase + 1) % 2 ^ 15) ov 0, false) := by
  rw [Barrier.event_arrive]
  refine (if_neg Nat.one_ne_zero).trans ?_
  rw [Barrier.checked, if_pos ⟨rfl, rfl, .inl Nat.one_ne_zero⟩]
  rfl

theorem arrive_more (h : rem ≠ 0) (h' : rem ≠ 1 ∨ bytes ≠ 0) :
    (blockOf rem exp phase ov bytes).event .arrive = (blockOf (rem - 1) exp phase ov bytes, false) := by
  rw [Barrier.event_arrive]
  refine (if_neg h).trans ?_
  rw [Barrier.checked_of_not (by simp only [blockOf]; omega)]
  rfl

theorem declare_beyond (h : 0xFFFF_FFFF < bytes + k) :
    (blockOf rem exp phase ov bytes).event (.declare k) = (blockOf rem exp phase 1 0xFFFF_FFFF, true) := by
  rw [Barrier.event_declare]
  refine (if_pos h).trans ?_
  rw [Barrier.checked_of_not (by simp only [blockOf]; omega)]
  rfl

theorem declare_within (h : ¬ 0xFFFF_FFFF < bytes + k) :
    (blockOf rem exp phase ov bytes).event (.declare k) = (blockOf rem exp phase ov (bytes + k), false) := by
  rw [Barrier.event_declare]
  refine (if_neg h).trans ?_
  rw [Barrier.checked_of_not (by simp only [blockOf]; omega)]
  rfl

/-- Reported bytes, those beyond the ones declared marked; the last ones that no arrival is behind complete the phase. -/
theorem bytes_event : (blockOf rem exp phase ov bytes).event (.bytes k) =
    (if rem = 0 ∧ bytes ≤ k ∧ bytes ≠ 0 then blockOf exp exp ((phase + 1) % 2 ^ 15) (if bytes < k then 1 else ov) 0
      else blockOf rem exp phase (if bytes < k then 1 else ov) (bytes - k), decide (bytes < k)) := by
  rw [Barrier.event_bytes]
  by_cases excess : bytes < k
  · have left : bytes - k = 0 := by omega
    rw [if_pos excess, decide_eq_true excess, left]
    refine (if_pos excess).trans ?_
    by_cases done : rem = 0 ∧ bytes ≤ k ∧ bytes ≠ 0
    · rw [if_pos done, Barrier.checked, if_pos ⟨done.1, rfl, .inr done.2.2⟩]
      rfl
    · rw [if_neg done, Barrier.checked_of_not (by simp only [blockOf]; omega)]
      rfl
  · rw [if_neg excess, decide_eq_false excess]
    refine (if_neg excess).trans ?_
    by_cases done : rem = 0 ∧ bytes ≤ k ∧ bytes ≠ 0
    · have left : bytes - k = 0 := by omega
      rw [if_pos done, Barrier.checked, if_pos (by simp only [blockOf]; omega)]
      simp only [blockOf, left]
    · rw [if_neg done, Barrier.checked_of_not (by simp only [blockOf]; omega)]
      rfl

/-! ## The report of an excess (05 R111) -/

/-- A report with code BAROVER is sent, or none. -/
def State.Over (s t : State) (o : Bool) : Prop :=
  if o then ∃ r, t.reports = tset s.reports s.fresh r ∧ r.d0.toNat % 2 ^ 8 = 0x0F else t.reports = s.reports

theorem reportHead_code (code : Byte) (prec : Bool) (src cell slot die : Nat) (cont : Bool) (tag : BitVec 16) :
    (reportHead code prec src cell slot die cont tag).toNat % 2 ^ 8 = code.toNat := by
  have small := code.isLt
  unfold reportHead
  rw [BitVec.toNat_ofNat]
  split <;> split <;> omega

/-- The state after an event, with the report of its excess. -/
def State.withOver (t : State) (p : Packet) (l : Loc) (o : Bool) : State := if o then t.reportOver p l else t

theorem State.withOver_spec (t : State) (p : Packet) (l : Loc) (o : Bool) :
    SameHomes t (t.withOver p l o) ∧ (t.withOver p l o).cells = t.cells ∧ (t.withOver p l o).packets = t.packets ∧ t.Over (t.withOver p l o) o := by
  cases o with
  | false => exact ⟨.refl t, rfl, rfl, rfl⟩
  | true =>
    unfold State.withOver State.reportOver
    simp only [if_true]
    split
    · exact ⟨⟨rfl, rfl, rfl, rfl, rfl⟩, rfl, rfl, _, rfl, reportHead_code ..⟩
    · exact ⟨⟨rfl, rfl, rfl, rfl, rfl⟩, rfl, rfl, _, rfl, reportHead_code ..⟩

/-! ## Events as requests -/

/-- The event of a request, and the value that it answers. -/
def PktOp.barEvent (op : PktOp) (phase : Nat) : Option (BarEvent × Word) :=
  match op with
  | .arrive _ => some (.arrive, BitVec.ofNat 64 phase)
  | .declare k => some (.declare k, 0)
  | .bytes k => some (.bytes k, 0)
  | _ => none

theorem State.doOp_event {v : Word} (hop : p.op.barEvent phase = some (e, v))
    (event : s.homeBarrier l e = .ok (t, blockOf rem exp phase ov bytes, o)) : s.doOp p l = .ok (t.withOver p l o, v, 0) := by
  unfold PktOp.barEvent at hop
  unfold State.doOp
  split at hop
  · cases hop
    simp only [*, bind, Except.bind, pure, Except.pure]
    rfl
  · cases hop
    simp only [*, bind, Except.bind, pure, Except.pure]
    rfl
  · cases hop
    simp only [*, bind, Except.bind, pure, Except.pure]
    rfl
  · cases hop

/-- A barrier event that is performed at its home, its answer kept. -/
theorem State.Arrived.event {v : Word} {is : PktOp → Bool} (h : s.Arrived n p) (his : is p.op = true) (hc : p.copy = none)
    (hl : p.target = .home l) (judged : s.judgePacket p l = none) (block : s.BlockAt l rem exp phase ov bytes rest)
    (hop : p.op.barEvent phase = some (e, v)) :
    let x := (blockOf rem exp phase ov bytes).event e
    ∃ t, s.barrierPkt n is = t ∧ t.packets = tset s.packets n { p with st := .performed v 0 } ∧ s.Over t x.2 ∧ OnlyAt s t l 16 ∧
      t.BlockIs l x.1 rest := by
  intro x
  obtain ⟨t, event, frame, after⟩ := block.homeBarrier e
  obtain ⟨homes, cells, packets, excess⟩ := t.withOver_spec p l x.2
  refine ⟨(t.withOver p l x.2).setPkt n { p with st := .performed v 0 }, ?_, ?_, ?_, after _ ⟨homes.1, homes.2, homes.3, homes.4, homes.5⟩ cells⟩
  · unfold State.barrierPkt
    have plain : p.copy.isSome = false := by rw [hc]; rfl
    simp only [h.found, h.st, h.home, h.free, his, plain, ne_eq, not_true_eq_false, decide_false, Bool.not_true, Bool.or_false,
      Bool.false_eq_true, if_false]
    rw [State.performPkt, State.perform_of_doOp hl judged (State.doOp_event hop event)]
  · show tset (t.withOver p l x.2).packets n _ = _
    rw [packets, frame]
  · unfold State.Over at excess ⊢
    have reports : t.reports = s.reports := by rw [frame]
    have fresh : t.fresh = s.fresh := by rw [frame]
    rw [reports, fresh] at excess
    exact excess

/-- A block lies at its home whatever requests are in flight. -/
theorem State.BlockAt.packets (h : s.BlockAt l rem exp phase ov bytes rest) (ps : Table Packet) :
    ({ s with packets := ps } : State).BlockAt l rem exp phase ov bytes rest := by
  obtain ⟨b, offers⟩ := h.takes.offers
  have same {l : Loc} (offers : s.Offers l b) : ({ s with packets := ps } : State).numAt l 8 = s.numAt l 8 := by
    have offers' : ({ s with packets := ps } : State).Offers l b := offers.congr rfl rfl rfl rfl rfl (fun _ => rfl) fun _ => ⟨rfl, rfl, rfl⟩
    rw [offers'.numAt, offers.numAt]
  exact { h with
    wf := State.memWf_of_eq rfl rfl h.wf
    paired := h.paired
    takes := h.takes
    first := (same offers).trans h.first
    second := (same (h.paired.offers offers)).trans h.second }

/-- A byte report that reaches its barrier's home. -/
theorem State.Arrived.byteReport {tag : Word} (h : s.Arrived n p) (hop : p.op = .bytes k) (hc : p.copy = some tag)
    (hl : p.target = .home l) (judged : s.judgePacket p l = none) (block : s.BlockAt l rem exp phase ov bytes rest) :
    let x := (blockOf rem exp phase ov bytes).event (.bytes k)
    ∃ t, exec (.barrierByteReport n) s = .next t ∧ t.packets = tdel s.packets n ∧ s.Over t x.2 ∧ OnlyAt s t l 16 ∧ t.BlockIs l x.1 rest := by
  intro x
  obtain ⟨t, event, frame, after⟩ := (block.packets (tdel s.packets n)).homeBarrier (.bytes k)
  obtain ⟨homes, cells, packets, excess⟩ := t.withOver_spec p l x.2
  obtain ⟨only, stands⟩ := after _ homes cells
  refine ⟨t.withOver p l x.2, ?_, ?_, ?_, ⟨only.cells, only.dies, only.spads, fun r w hw => (only.homes r w hw).trans ?_⟩, stands⟩
  · show Host.Outcome.next (s.barrierPkt n _) = _
    unfold State.barrierPkt
    simp only [h.found, h.st, h.home, h.free, hop, hc, ne_eq, not_true_eq_false, decide_false, Bool.not_true, Bool.or_false,
      Bool.false_eq_true, if_false, Option.isSome_some, if_true]
    have done := State.doOp_event (p := p) (phase := phase) (by rw [hop]; rfl) event
    unfold State.landReport
    rw [State.perform_of_doOp hl (show ({ s with packets := tdel s.packets n } : State).judgePacket p l = none from judged) done]
  · rw [packets, frame]
  · unfold State.Over at excess ⊢
    have reports : t.reports = s.reports := by rw [frame]
    have fresh : t.fresh = s.fresh := by rw [frame]
    rw [reports, fresh] at excess
    exact excess
  · exact SameHomes.homeByte ⟨rfl, rfl, rfl, rfl, rfl⟩

end

end Sys2Proof.Machine
end

section
/-! PROOFS. Requests at the switches of their way: queues, partners, and replies that are split (14 R279-R284). -/

set_option Elab.async false

namespace Sys2Proof.Machine

section
variable {s t : State} {n m : Nat} {p b a : Packet} {w at_ : SwitchPlace} {hop : Nat × Nat × Nat} {f : BitVec 3} {ty : BitVec 2}
  {x y e g v : Word} {fl : FFlags} {d : Mate}

/-! ## Values that combine (14 R283) -/

/-- The sum, or the smaller value, of two operands of an atomic's type. -/
def combinedWord (f : BitVec 3) (ty : BitVec 2) (x y : Word) : Word :=
  let k := if ty = 1 then 64 else 32
  let sum := BitVec.ofNat k (x.toNat + y.toNat)
  let small := if (BitVec.ofNat k x.toNat).slt (BitVec.ofNat k y.toNat) then BitVec.ofNat k x.toNat else BitVec.ofNat k y.toNat
  BitVec.ofNat 64 (if f = 0 then sum else small).toNat

theorem ofNat_mod_width (k z : Nat) : BitVec.ofNat k (z % 2 ^ k) = BitVec.ofNat k z := by
  apply BitVec.eq_of_toNat_eq
  simp

theorem amoInt_add (k z z' c : Nat) : amoInt 0 k z z' c = (BitVec.ofNat k z + BitVec.ofNat k z').toNat := rfl

theorem amoInt_min (k z z' c : Nat) : amoInt 1 k z z' c =
    if (BitVec.ofNat k z).slt (BitVec.ofNat k z') then (BitVec.ofNat k z).toNat else (BitVec.ofNat k z').toNat := rfl

theorem combineVal_eq (h : f = 0 ∨ f = 1) : combineVal f ty x y = combinedWord f ty x y := by
  have width : 8 * amoSize ty = if ty = 1 then 64 else 32 := by
    unfold amoSize
    split <;> rfl
  unfold combineVal combinedWord
  rw [width]
  generalize (if ty = 1 then 64 else 32) = k
  rcases h with rfl | rfl
  · rw [amoInt_add, ofNat_mod_width, ofNat_mod_width, ← BitVec.ofNat_add]
    rfl
  · rw [amoInt_min, ofNat_mod_width, ofNat_mod_width]
    exact congrArg (BitVec.ofNat 64) (apply_ite BitVec.toNat _ _ _).symm

theorem smaller_comm {k : Nat} (u v : BitVec k) : (if u.slt v then u else v) = if v.slt u then v else u := by
  simp only [BitVec.slt_iff_toInt_lt]
  rcases lt_trichotomy u.toInt v.toInt with h | h | h
  · rw [if_pos h, if_neg (not_lt_of_gt h)]
  · rw [BitVec.eq_of_toInt_eq h]
  · rw [if_neg (not_lt_of_gt h), if_pos h]

theorem combinedWord_comm (f : BitVec 3) (ty : BitVec 2) (x y : Word) : combinedWord f ty x y = combinedWord f ty y x := by
  simp only [combinedWord, Nat.add_comm x.toNat, smaller_comm (BitVec.ofNat _ x.toNat)]

/-! ## The partner at a switch (14 R282) -/

/-- What is picked out of a list by a running choice stands in it. -/
theorem mem_of_foldl_pick {α : Type} {step : Option α → α → Option α} (hs : ∀ m z, step m z = some z ∨ step m z = m) {l : List α} {q : Option α}
    {z : α} (h : l.foldl step q = some z) : q = some z ∨ z ∈ l := by
  induction l generalizing q with
  | nil => exact .inl h
  | cons p l ih =>
    rcases ih h with h | h
    · rcases hs q p with e | e
      · rw [e] at h
        exact .inr (Option.some.inj h ▸ List.mem_cons_self)
      · exact .inl (e.symm.trans h)
    · exact .inr (List.mem_cons_of_mem _ h)

theorem State.partnerOf_spec (h : s.partnerOf m b hop = some (n, p, w)) :
    n ≠ m ∧ (w.stage, w.die, w.out) = hop ∧ combines p b = true := by
  unfold State.partnerOf at h
  have mem := (mem_of_foldl_pick (fun c z => ?_) h).resolve_left (by simp)
  · obtain ⟨⟨i, q⟩, -, pick⟩ := List.mem_filterMap.1 mem
    dsimp only at pick
    split at pick
    · split at pick
      · next ok =>
        cases pick
        simp only [Bool.and_eq_true, decide_eq_true_eq] at ok
        obtain ⟨⟨⟨⟨ne, -⟩, place⟩, both⟩, -⟩ := ok
        exact ⟨ne, place, both⟩
      · cases pick
    · cases pick
  · split
    · split
      · exact .inl rfl
      · exact .inr rfl
    · exact .inl rfl

theorem combines_op (h : combines p b = true) (hp : p.op = .amo f ty x e) : f = 0 ∨ f = 1 := by
  unfold combines at h
  rw [hp] at h
  split at h
  · next e1 e2 =>
    cases e1
    simp only [Bool.and_eq_true, Bool.or_eq_true, decide_eq_true_eq] at h
    tauto
  · cases h

/-! ## Requests that join (14 R283) -/

/-- The mate of a request that joins another. -/
def mateAt (i : Nat) (v : Word) (at_ : SwitchPlace) : Mate :=
  { pkt := i, v := v, stage := at_.stage, die := at_.die, out := at_.out, input := at_.input, cyc := at_.cyc }

/-- A request that joins after all others that joined. -/
theorem joined_last (ha : a.op = .amo f ty x e) (hb : b.op = .amo f ty y g) (h : ∀ d, d ∈ a.mates → d.follows at_ = false) :
    joined a b n at_ = { a with op := .amo f ty (combineVal f ty x y) e, mates := a.mates ++ [mateAt n x at_] } := by
  have before : a.mates.takeWhile (fun m => !m.follows at_) = a.mates := List.takeWhile_eq_self_iff.2 fun d hd => by simp [h d hd]
  have after : a.mates.dropWhile (fun m => !m.follows at_) = [] := List.dropWhile_eq_nil_iff.2 fun d hd => by simp [h d hd]
  unfold joined
  simp only [ha, hb, before, after]
  rfl

/-- A request that joins before one that came in the same cycle from a higher input port. -/
theorem joined_before {l q : List Mate} (ha : a.op = .amo f ty x e) (hb : b.op = .amo f ty y g) (hm : a.mates = l ++ d :: q)
    (hl : ∀ k, k ∈ l → k.follows at_ = false) (hd : d.follows at_ = true) :
    joined a b n at_ = { a with
      op := .amo f ty (combineVal f ty x y) e
      mates := l ++ mateAt n d.v at_ :: { d with v := combineVal f ty d.v y } :: q.map fun m => { m with v := combineVal f ty m.v y } } := by
  have pass (k : Mate) (hk : k ∈ l) : (!k.follows at_) = true := by rw [hl k hk]; rfl
  have before : a.mates.takeWhile (fun m => !m.follows at_) = l := by
    rw [hm, List.takeWhile_append_of_pos pass, List.takeWhile_cons, hd]
    exact List.append_nil l
  have after : a.mates.dropWhile (fun m => !m.follows at_) = d :: q := by
    rw [hm, List.dropWhile_append_of_pos pass, List.dropWhile_cons, hd]
    rfl
  unfold joined
  simp only [ha, hb, before, after]
  rfl

/-! ## A request at a switch -/

/-- The place of a request that enters a switch output queue. -/
def State.entryAt (s : State) (b : Packet) (hop : Nat × Nat × Nat) : SwitchPlace :=
  { stage := hop.1, die := hop.2.1, out := hop.2.2, input := inputOf b, cyc := s.cyc hop.2.1, order := s.fresh }

/-- A request that may move on to the output `hop`. -/
structure State.AtSwitch (s : State) (m : Nat) (b : Packet) (hop : Nat × Nat × Nat) : Prop where
  found : tfind s.packets m = some b
  st    : b.st = .travelling
  may   : s.mayMove m b = true
  next  : s.nextHop b = some hop

theorem State.AtSwitch.outcome (h : s.AtSwitch m b hop) : exec (.fabricRequestAtSwitch m) s = .next (
    match s.partnerOf m b hop with
    | none => { s with fresh := s.fresh + 1, packets := tset s.packets m { b with place := some (s.entryAt b hop) } }
    | some (n, a, w) =>
      if 256 ≤ s.waitBuffers hop then
        { s with fresh := s.fresh + 1, packets := tset s.packets m { b with place := some (s.entryAt b hop) } }
      else if w.cyc = s.cyc hop.2.1 ∧ inputOf b < w.input then
        (s.setPkt m { joined b a n w with place := some { w with input := inputOf b } }).setPkt n { a with st := .combined, place := none }
      else (s.setPkt n (joined a b m (s.entryAt b hop))).setPkt m { b with st := .combined, place := none }) := by
  show execFabricRequestAtSwitch m s = _
  unfold execFabricRequestAtSwitch
  simp only [h.found, h.next, h.may, h.st, ne_eq, not_true_eq_false, Bool.not_true, Bool.false_eq_true, or_self, if_false]
  cases s.partnerOf m b hop with
  | none => rfl
  | some q =>
    obtain ⟨n, a, w⟩ := q
    dsimp only
    split
    · rfl
    · split <;> rfl

theorem State.AtSwitch.queues (h : s.AtSwitch m b hop) (alone : s.partnerOf m b hop = none ∨ 256 ≤ s.waitBuffers hop) :
    exec (.fabricRequestAtSwitch m) s =
      .next { s with fresh := s.fresh + 1, packets := tset s.packets m { b with place := some (s.entryAt b hop) } } := by
  rw [h.outcome]
  cases e : s.partnerOf m b hop with
  | none => rfl
  | some q => exact congrArg _ (if_pos (alone.resolve_left (by rw [e]; simp)))

/-- A request that finds a partner and a free wait buffer entry goes on as one request with it. -/
def State.Joins (s : State) (m : Nat) (a : Packet) (i : Nat) (q : Packet) (j : Nat) : Prop := ∃ t, exec (.fabricRequestAtSwitch m) s = .next t ∧
  t = { s with packets := t.packets } ∧ tfind t.packets i = some a ∧ tfind t.packets j = some { q with st := .combined, place := none }

theorem State.joins_of_setPkt {i j : Nat} {q : Packet} (ne : i ≠ j) (h : exec (.fabricRequestAtSwitch m) s =
    .next ((s.setPkt i a).setPkt j { q with st := .combined, place := none })) : s.Joins m a i q j :=
  ⟨_, h, rfl, (tfind_tset_ne _ _ ne).trans (tfind_tset_self ..), tfind_tset_self ..⟩

theorem State.AtSwitch.joins_after (h : s.AtSwitch m b hop) (partner : s.partnerOf m b hop = some (n, p, w)) (room : s.waitBuffers hop < 256)
    (last : ¬ (w.cyc = s.cyc hop.2.1 ∧ inputOf b < w.input)) : s.Joins m (joined p b m (s.entryAt b hop)) n b m := by
  obtain ⟨ne, -, -⟩ := State.partnerOf_spec partner
  refine State.joins_of_setPkt ne ?_
  rw [h.outcome, partner]
  dsimp only
  rw [if_neg (Nat.not_le.2 room), if_neg last]

theorem State.AtSwitch.joins_before (h : s.AtSwitch m b hop) (partner : s.partnerOf m b hop = some (n, p, w)) (room : s.waitBuffers hop < 256)
    (first : w.cyc = s.cyc hop.2.1 ∧ inputOf b < w.input) :
    s.Joins m { joined b p n w with place := some { w with input := inputOf b } } m p n := by
  obtain ⟨ne, -, -⟩ := State.partnerOf_spec partner
  refine State.joins_of_setPkt ne.symm ?_
  rw [h.outcome, partner]
  dsimp only
  rw [if_neg (Nat.not_le.2 room), if_pos first]

/-- A mate that came to an output in this cycle from a higher input port. -/
theorem State.follows_entryAt (d : Mate) : d.follows (s.entryAt b hop) =
    decide ((d.stage, d.die, d.out) = hop ∧ d.cyc = s.cyc hop.2.1 ∧ inputOf b < d.input) := by
  unfold Mate.follows State.entryAt
  rw [Bool.eq_iff_iff]
  simp only [Bool.and_eq_true, decide_eq_true_eq, and_assoc]

/-! ## A reply that is split (14 R283, R284) -/

theorem combinedReplySplit_pair {answer : PktState} (hn : tfind s.packets n = some p) (ne : n ≠ m) (mates : p.mates = [d])
    (answered : (∃ v fl, p.st = .performed v fl) ∨ ∃ e, p.st = .refused e)
    (split : s.splitOne p d = s.setPkt m { b with st := answer }) : ∃ t, exec (.combinedReplySplit n) s = .next t ∧
      tfind t.packets n = some { p with mates := [] } ∧ tfind t.packets m = some { b with st := answer } := by
  refine ⟨(s.setPkt m { b with st := answer }).setPkt n { p with mates := [] }, ?_, tfind_tset_self .., ?_⟩
  · show execCombinedReplySplit n s = _
    unfold execCombinedReplySplit
    simp only [hn]
    rcases answered with ⟨v, fl, e⟩ | ⟨c, e⟩
    · simp only [e, mates, List.foldl_cons, List.foldl_nil, split]
    · simp only [e, mates, List.foldl_cons, List.foldl_nil, split]
  · exact (tfind_tset_ne _ _ ne.symm).trans (tfind_tset_self ..)

theorem State.splitOne_performed {z : Word} (hm : tfind s.packets d.pkt = some b) (st : p.st = .performed v fl) (hop : p.op = .amo f ty z e) :
    s.splitOne p d = s.setPkt d.pkt { b with st := .performed (combineVal f ty v d.v) 0 } := by
  unfold State.splitOne
  simp only [hm, st, hop]

theorem State.splitOne_refused {c : Byte} (hm : tfind s.packets d.pkt = some b) (st : p.st = .refused c) :
    s.splitOne p d = s.setPkt d.pkt { b with st := .refused c } := by
  unfold State.splitOne
  simp only [hm, st]

end

end Sys2Proof.Machine
end

section
/-! PROOFS. Replies and acknowledgements that reach their contexts (05 R95, R103, R104; 18 R343). -/

set_option Elab.async false

namespace Sys2Proof.Machine

section
variable {s t u : State} {n : Nat} {p : Packet} {c z : Ctx} {v : Word} {fl : FFlags} {e : Byte}

/-! ## A reply that completes its instruction -/

/-- The context after its instruction is done with a result for xd, if there is one, and flags. -/
def Ctx.Replied (c z : Ctx) (d : BitVec 5) (r : Option Word) (fl : FFlags) : Prop :=
  z.pc = c.pc + 4 ∧ z.wait = .none ∧ z.fflags = c.fflags ||| fl ∧ (∀ k, z.v? k = c.v? k) ∧
    ∀ k : BitVec 5, z.x? k.toNat = match r with
      | some r => if k = d ∧ k ≠ 0 then r else c.x? k.toNat
      | none => c.x? k.toNat

theorem State.self_of_found (h : tfind s.ctxs s.cur = some c) : s.self = c := by
  rw [State.self, State.ctx, tget, h]
  rfl

theorem State.tfind_mod_self (s : State) (f : Ctx → Ctx) : tfind (s.mod f).ctxs s.cur = some (f s.self) := tfind_tset_self ..

/-- The result of a reply, in xd. -/
def Ctx.tookX (c : Ctx) (d : BitVec 5) (r : Option Word) : Ctx :=
  match r with
  | some r => c.setX d.toNat r
  | none => c

theorem Ctx.x?_tookX (c : Ctx) (d : BitVec 5) (r : Option Word) (k : BitVec 5) : (c.tookX d r).x? k.toNat = match r with
    | some r => if k = d ∧ k ≠ 0 then r else c.x? k.toNat
    | none => c.x? k.toNat := by
  cases r with
  | none => rfl
  | some r =>
    unfold Ctx.tookX
    rw [Ctx.x?_setX]
    refine if_congr (and_congr BitVec.toNat_inj (not_congr ?_)) rfl rfl
    exact BitVec.toNat_inj (y := 0#5)

theorem Ctx.tookX_keeps (c : Ctx) (d : BitVec 5) (r : Option Word) :
    (c.tookX d r).pc = c.pc ∧ (c.tookX d r).fflags = c.fflags ∧ (c.tookX d r).v = c.v := by
  cases r with
  | none => exact ⟨rfl, rfl, rfl⟩
  | some r =>
    unfold Ctx.tookX Ctx.setX
    dsimp only
    split <;> exact ⟨rfl, rfl, rfl⟩

/-- The acting context takes a reply's result and flags, and acquires where the instruction does. -/
def State.took (s : State) (p : Packet) (v : Word) (fl : FFlags) : State :=
  let s := (match p.op.resultOf v with
    | some r => s.wx p.xd r
    | none => s).orFlags fl
  if p.acq then s.acquire s.cur else s

theorem State.acquire_self (s : State) : (s.acquire s.cur).self = { s.self with acqMark := s.stamp + 1 } := State.ctx_setCtx_self ..

theorem State.took_spec (s : State) (p : Packet) (v : Word) (fl : FFlags) :
    (s.took p v fl).cur = s.cur ∧ (s.took p v fl).packets = s.packets ∧
      ∃ m, (s.took p v fl).self = { s.self.tookX p.xd (p.op.resultOf v) with
        fflags := (s.self.tookX p.xd (p.op.resultOf v)).fflags ||| fl, acqMark := m } := by
  unfold State.took
  cases p.op.resultOf v with
  | none =>
    dsimp only
    split
    · exact ⟨rfl, rfl, _, by rw [State.acquire_self, State.orFlags, State.self_mod]; rfl⟩
    · exact ⟨rfl, rfl, s.self.acqMark, by rw [State.orFlags, State.self_mod]; rfl⟩
  | some r =>
    have wrote : (s.wx p.xd r).self = s.self.setX p.xd.toNat r := State.self_mod ..
    dsimp only
    split
    · exact ⟨rfl, rfl, _, by rw [State.acquire_self, State.orFlags, State.self_mod, wrote]; rfl⟩
    · exact ⟨rfl, rfl, (s.self.setX p.xd.toNat r).acqMark, by rw [State.orFlags, State.self_mod, wrote]; rfl⟩

/-- A reply that no arrival waits behind completes the instruction. -/
theorem State.replyTo_performed (hop : p.op ≠ .arrive true) (hc : tfind (s.syncTarget p).ctxs p.ctx = some c) :
    (s.replyTo p (.performed v fl)).packets = (s.syncTarget p).packets ∧
      ∃ z, tfind (s.replyTo p (.performed v fl)).ctxs p.ctx = some z ∧ c.Replied z p.xd (p.op.resultOf v) fl := by
  have self := State.self_of_found (s := { s.syncTarget p with cur := p.ctx }) hc
  obtain ⟨cur, packets, m, took⟩ := State.took_spec { s.syncTarget p with cur := p.ctx } p v fl
  rw [self] at took
  have done : s.replyTo p (.performed v fl) = (State.took { s.syncTarget p with cur := p.ctx } p v fl).finish := by
    unfold State.replyTo State.took
    dsimp only
    split
    · next e _ => exact absurd e hop
    · rfl
  rw [done]
  generalize State.took { s.syncTarget p with cur := p.ctx } p v fl = w at *
  obtain ⟨pc, fflags, vs⟩ := c.tookX_keeps p.xd (p.op.resultOf v)
  refine ⟨packets, _, cur ▸ w.tfind_mod_self _, ?_⟩
  rw [took]
  exact ⟨congrArg (· + 4) pc, rfl, congrArg (· ||| fl) fflags, fun k => congrArg (tget 0 · k) vs, fun k => c.x?_tookX p.xd _ k⟩

/-! ## A reply that traps -/

/-- The context has entered its handler. -/
def Ctx.Entered (c z : Ctx) (code : Byte) (addr : Word) : Prop :=
  z.pl = trapLevel c.pl ∧ (∀ k, z.x? k = c.x? k) ∧ z.pc = (c.trapRegs z.pl).tvec ∧ (z.trapRegs z.pl).cause = code.zeroExtend 13 ∧
    (z.trapRegs z.pl).addr = addr ∧ (z.trapRegs z.pl).epc = c.pc

theorem Ctx.entered (c : Ctx) (k : TrapCause) (now : Nat) (code : Byte) (hk : k.cause = code.zeroExtend 13) (he : k.epc = c.pc) :
    c.Entered (((c.settle now).enterTrap k).toSlot.dropLanes c.pc) code k.addr := by
  have level : trapLevel c.pl = 2 ∨ trapLevel c.pl = 1 := by
    unfold trapLevel
    split
    · exact .inl rfl
    · exact .inr rfl
  have handler (p : BitVec 2) : (c.settle now).trapRegs p = c.trapRegs p := by unfold Ctx.trapRegs; split <;> rfl
  unfold Ctx.Entered Ctx.enterTrap
  simp only [show (c.settle now).pl = c.pl from rfl, handler]
  rcases level with h | h
  · rw [h]
    exact ⟨rfl, fun _ => rfl, rfl, hk, rfl, he⟩
  · rw [h]
    exact ⟨rfl, fun _ => rfl, rfl, hk, rfl, he⟩

theorem State.packets_backHome (s : State) (x : Nat) : (s.backHome x).packets = s.packets := by
  unfold State.backHome
  dsimp only
  split
  · rw [s.cachesOnly_deliverStore]
  · rfl

theorem State.endInTrap_entered (k : TrapCause) (h : s.hasHandler) (hk : k.cause = e.zeroExtend 13) (he : k.epc = s.self.pc) :
    (s.endInTrap k).packets = s.packets ∧ ∃ z, tfind (s.endInTrap k).ctxs s.cur = some z ∧ s.self.Entered z e k.addr := by
  have fr := (s.leaveUnits s.cur).backHome_frame s.cur
  have eq : s.endInTrap k = ((s.leaveUnits s.cur).backHome s.cur).setCtx s.cur
      (((s.self.settle s.now).enterTrap k).toSlot.dropLanes s.self.pc) := by
    rw [State.endInTrap, State.takeTrap_eq s s.cur k h, State.mod, State.setCtx_cur, fr.2.2]
    exact State.setCtx_modCtx _ _ _ _
  rw [eq]
  exact ⟨State.packets_backHome .., _, tfind_tset_self .., s.self.entered k s.now e hk he⟩

theorem State.trap_entered (s : State) (code : Byte) (addr : Word) (h : s.hasHandler) :
    (s.trap code addr).packets = s.packets ∧ ∃ z, tfind (s.trap code addr).ctxs s.cur = some z ∧ s.self.Entered z code addr := by
  unfold State.trap
  dsimp only
  split
  · exact State.endInTrap_entered (s := s.reportCtx s.cur code true 0 addr (s.word.zeroExtend 64)) _ h rfl rfl
  · exact State.endInTrap_entered _ h rfl rfl

/-! ## Replies and acknowledgements -/

theorem Flushes.syncTarget (s : State) (p : Packet) : Flushes s (s.syncTarget p) := by
  unfold State.syncTarget
  split
  · split
    · exact .l1Sync ..
    · exact .refl s
  · exact .refl s

theorem Flushes.packets (h : Flushes s t) : t.packets = s.packets := by rw [h.caches]

/-- A request that a context waits for, with no other combined into it. -/
structure State.Awaited (s : State) (n : Nat) (p : Packet) (c : Ctx) : Prop where
  found  : tfind s.packets n = some p
  rises  : risesFrom 0 s.packets = true
  ctx    : tfind s.ctxs p.ctx = some c
  mates  : p.mates = []
  posted : p.posted = false
  copy   : p.copy = none
  wait   : c.wait = .access n

theorem State.Awaited.outcome (h : s.Awaited n p c) (st : (∃ v fl, p.st = .performed v fl) ∨ ∃ e, p.st = .refused e) :
    exec (.accessReply n) s = .next (({ s with packets := tdel s.packets n } : State).replyTo p p.st) := by
  show execAccessReply n s = _
  unfold execAccessReply
  have copied : p.copy.isSome = false := by rw [h.copy]; rfl
  have alone : p.mates.isEmpty = true := by rw [h.mates]; rfl
  simp only [h.found, h.posted, copied, alone, Bool.not_true, Bool.false_eq_true, or_self, if_false, h.ctx, h.wait, if_true]
  rcases st with ⟨v, fl, e⟩ | ⟨c, e⟩
  · simp only [e]
  · simp only [e]

/-- The state in which a reply finds its context, the line of its target given up. -/
theorem State.Awaited.synced (h : s.Awaited n p c) : ∃ d, tfind (({ s with packets := tdel s.packets n } : State).syncTarget p).ctxs p.ctx =
    some { c with drops := d } :=
  (Flushes.syncTarget { s with packets := tdel s.packets n } p).ctxs.found p.ctx c h.ctx fun m e => by rw [h.wait] at e; cases e

theorem State.Awaited.gone (h : s.Awaited n p c) :
    tfind (({ s with packets := tdel s.packets n } : State).syncTarget p).packets n = none := by
  rw [(Flushes.syncTarget _ p).packets]
  exact (tfind_tdel h.rises n n).trans (if_pos rfl)

theorem State.Awaited.completes (h : s.Awaited n p c) (st : p.st = .performed v fl) (hop : p.op ≠ .arrive true) :
    ∃ t z, exec (.accessReply n) s = .next t ∧ tfind t.packets n = none ∧ tfind t.ctxs p.ctx = some z ∧ c.Replied z p.xd (p.op.resultOf v) fl := by
  obtain ⟨d, found⟩ := h.synced
  obtain ⟨packets, z, hz, done⟩ := State.replyTo_performed (v := v) (fl := fl) hop found
  refine ⟨_, z, h.outcome (.inl ⟨v, fl, st⟩), ?_, ?_, done⟩
  · rw [st, packets, h.gone]
  · rw [st, hz]

theorem State.Awaited.traps (h : s.Awaited n p c) (st : p.st = .refused e) (handler : (c.trapRegs (trapLevel c.pl)).tvec ≠ 0) :
    ∃ t z, exec (.accessReply n) s = .next t ∧ tfind t.packets n = none ∧ tfind t.ctxs p.ctx = some z ∧ c.Entered z e p.ea := by
  obtain ⟨d, found⟩ := h.synced
  have self := State.self_of_found (s := { ({ s with packets := tdel s.packets n } : State).syncTarget p with cur := p.ctx }) found
  obtain ⟨packets, z, hz, entered⟩ := State.trap_entered { ({ s with packets := tdel s.packets n } : State).syncTarget p with cur := p.ctx } e p.ea
    (by unfold State.hasHandler; rw [self]; exact handler)
  rw [self] at entered
  refine ⟨_, z, h.outcome (.inr ⟨e, st⟩), ?_, ?_, entered⟩
  · rw [st]
    exact (congrArg (tfind · n) packets).trans h.gone
  · rw [st]
    exact hz

end

end Sys2Proof.Machine
end

section
/-! PROOFS. Posted operations acknowledged, refused and reported (05 R96, R103, R104; 17 R332; 18 R343). -/

set_option Elab.async false

namespace Sys2Proof.Machine

section
variable {s t u : State} {n k part : Nat} {p : Packet} {c z : Ctx} {v : Word} {fl : FFlags} {e : Byte} {bs : List Byte} {space va : Nat}

/-! ## Reports on their way (17 R332) -/

/-- Reports are added under new numbers only: the one of number `k` is as before. -/
structure AddsReports (k : Nat) (s t : State) : Prop where
  rises : risesFrom 0 s.reports = true → risesFrom 0 t.reports = true
  fresh : s.fresh ≤ t.fresh
  found : k < s.fresh → tfind t.reports k = tfind s.reports k

theorem AddsReports.of_eq (hr : t.reports = s.reports) (hf : t.fresh = s.fresh) : AddsReports k s t :=
  ⟨fun h => by rw [hr, h], Nat.le_of_eq hf.symm, fun _ => by rw [hr]⟩

theorem AddsReports.refl (s : State) : AddsReports k s s := .of_eq rfl rfl

theorem AddsReports.trans (h : AddsReports k s t) (h' : AddsReports k t u) : AddsReports k s u :=
  ⟨fun r => h'.rises (h.rises r), Nat.le_trans h.fresh h'.fresh,
    fun hk => (h'.found (Nat.lt_of_lt_of_le hk h.fresh)).trans (h.found hk)⟩

theorem AddsReports.report (s : State) (part : Nat) (d0 addr info : Word) (die : Nat) (m : Option Msg) :
    AddsReports k s (s.report part d0 addr info die m) :=
  ⟨fun h => risesFrom_tset _ h (Nat.zero_le _), Nat.le_succ _, fun hk => tfind_tset_ne _ _ (Nat.ne_of_lt hk)⟩

theorem AddsReports.dramWrite (s : State) (die pa : Nat) (l : L2Line) : AddsReports k s (s.dramWrite die pa l) := by
  unfold State.dramWrite
  dsimp only
  split
  · exact AddsReports.trans (t := State.modDie s die _) (.of_eq rfl rfl) (.report ..)
  · exact .of_eq rfl rfl

theorem AddsReports.l2Evict (s : State) (die pa : Nat) : AddsReports k s (s.l2Evict die pa) := by
  unfold State.l2Evict
  split
  · exact .refl s
  · next l _ =>
    dsimp only
    split
    · exact (AddsReports.dramWrite s die pa l).trans (.of_eq rfl rfl)
    · exact .of_eq rfl rfl

theorem AddsReports.l2MakeRoom (s : State) (die slice m : Nat) : AddsReports k s (s.l2MakeRoom die slice m) :=
  foldl_related AddsReports.refl AddsReports.trans (fun u (p : Nat × L2Line) => .l2Evict u die p.1) _ s

theorem AddsReports.l2Fill (s : State) (q : Page) (va : Nat) : AddsReports k s (s.l2Fill q va).1 := by
  unfold State.l2Fill
  dsimp only
  split
  · split
    · exact .refl s
    · exact (AddsReports.l2Evict ..).trans ((AddsReports.l2MakeRoom ..).trans (.of_eq rfl rfl))
  · exact (AddsReports.l2MakeRoom ..).trans (.of_eq rfl rfl)

theorem AddsReports.deviceWrite (h : s.deviceWrite space va bs = .ok t) : AddsReports k s t := by
  unfold State.deviceWrite at h
  split at h
  · cases h
  · cases h
    exact (AddsReports.l2Fill ..).trans (.of_eq rfl rfl)

theorem State.homesOnly_deviceWrite (h : s.deviceWrite space va bs = .ok t) : HomesOnly s t := by
  unfold State.deviceWrite at h
  split at h
  · cases h
  · cases h
    exact (State.homesOnly_l2Fill ..).trans rfl

theorem ringWrite_spec {base size i : Nat} (l : List (List Byte)) (h : s.ringWrite part base size i l = .ok t) :
    AddsReports k s t ∧ HomesOnly s t := by
  induction l generalizing s i with
  | nil => cases h; exact ⟨.refl _, .refl _⟩
  | cons bs l ih =>
    obtain ⟨w, hw, rest⟩ := except_bind_ok h
    obtain ⟨adds, homes⟩ := ih rest
    exact ⟨(AddsReports.deviceWrite hw).trans adds, (State.homesOnly_deviceWrite hw).trans homes⟩

/-- What the fault writer changes of a state: memory, reports and its partition. -/
def ReportsOnly (s t : State) : Prop := t = { s with dies := t.dies, reports := t.reports, fresh := t.fresh, parts := t.parts }

theorem ReportsOnly.trans (h : ReportsOnly s t) (h' : ReportsOnly t u) : ReportsOnly s u := by
  rw [ReportsOnly] at *
  rw [h', h]

/-- The report that the writer takes is gone, and none but new ones are added. -/
structure Wrote (k i : Nat) (s t : State) : Prop where
  only  : ReportsOnly s t
  rises : risesFrom 0 s.reports = true → risesFrom 0 t.reports = true
  fresh : s.fresh ≤ t.fresh
  other : k ≠ i → k < s.fresh → risesFrom 0 s.reports = true → tfind t.reports k = tfind s.reports k
  gone  : k = i → k < s.fresh → risesFrom 0 s.reports = true → tfind t.reports k = none

theorem Wrote.of_adds {i : Nat} (h : AddsReports k { s with reports := tdel s.reports i } t) (only : ReportsOnly s t) : Wrote k i s t := by
  refine ⟨only, fun r => h.rises (risesFrom_tdel i r), h.fresh, fun ne hk r => ?_, fun eq hk r => ?_⟩
  · rw [h.found hk]
    exact (tfind_tdel r i k).trans (if_neg ne)
  · rw [h.found hk]
    exact (tfind_tdel r i k).trans (if_pos eq)

theorem Wrote.writeReport (s : State) (i : Nat) : Wrote k i s (s.writeReport i) := by
  unfold State.writeReport
  split
  · next none => exact ⟨rfl, id, Nat.le_refl _, fun _ _ _ => rfl, fun eq _ _ => eq ▸ none⟩
  · next r _ =>
    extract_lets w q pieces lost
    split
    · exact .of_adds (.of_eq rfl rfl) rfl
    · split
      · exact .of_adds (.of_eq rfl rfl) rfl
      · next w hw =>
        obtain ⟨adds, homes⟩ := ringWrite_spec (k := k) _ hw
        refine .of_adds (adds.trans (.of_eq rfl rfl)) ?_
        rw [ReportsOnly, homes]
        exact rfl

/-- The reports of a list of numbers are written; none of them is left. -/
theorem writeReports_spec (l : List (Nat × Report)) (s : State) (hs : risesFrom 0 s.reports = true) (hk : k < s.fresh) :
    ReportsOnly s (l.foldl (fun s p => s.writeReport p.1) s) ∧
      ((∃ r, (k, r) ∈ l) ∨ tfind s.reports k = none → tfind (l.foldl (fun s p => s.writeReport p.1) s).reports k = none) := by
  induction l generalizing s with
  | nil => exact ⟨rfl, fun h => h.resolve_left fun ⟨_, h⟩ => nomatch h⟩
  | cons p l ih =>
    have first := Wrote.writeReport (k := k) s p.1
    obtain ⟨only, gone⟩ := ih (s.writeReport p.1) (first.rises hs) (Nat.lt_of_lt_of_le hk first.fresh)
    refine ⟨first.only.trans only, fun h => gone ?_⟩
    by_cases eq : k = p.1
    · exact .inr (first.gone eq hk hs)
    · rw [first.other eq hk hs]
      exact h.imp (fun ⟨r, hr⟩ => ⟨r, (List.mem_cons.1 hr).resolve_left fun e => eq (by rw [← e])⟩) id

theorem flushReports_gone {r : Report} (hs : risesFrom 0 s.reports = true) (hk : k < s.fresh) (found : tfind s.reports k = some r)
    (hp : r.part = part) : tfind (s.flushReports part).reports k = none :=
  (writeReports_spec _ s hs hk).2 (.inl ⟨r, List.mem_filter.2 ⟨mem_of_tfind found, decide_eq_true hp⟩⟩)

theorem State.reportsOnly_flushReports (s : State) (part : Nat) : ReportsOnly s (s.flushReports part) :=
  foldl_related (R := ReportsOnly) (fun _ => rfl) ReportsOnly.trans (fun u (p : Nat × Report) => (Wrote.writeReport (k := 0) u p.1).only) _ s

end

end Sys2Proof.Machine
end

section
/-! PROOFS. A refused posted operation: its report, its mark and its count (05 R96; 09 R378; 18 R343). -/

set_option Elab.async false

namespace Sys2Proof.Machine

section
variable {s t u : State} {n k cell cls part : Nat} {p : Packet} {c z : Ctx} {v : Word} {fl : FFlags} {e : Byte} {m : Msg}

/-! ## Messages that a cell generates (09 R206-R208, R378) -/

/-- Contexts may wake, and nothing else of them differs. -/
def Wakes (s t : State) : Prop := ∀ x c, tfind s.ctxs x = some c → ∃ a b r, tfind t.ctxs x = some { c with sst := a, shown := b, readySince := r }

theorem Wakes.of_ctxs (h : t.ctxs = s.ctxs) : Wakes s t := fun _ c hc => ⟨c.sst, c.shown, c.readySince, by rw [h]; exact hc⟩

theorem Wakes.trans (h : Wakes s t) (h' : Wakes t u) : Wakes s u := fun x c hc => by
  obtain ⟨a, b, r, hd⟩ := h x c hc
  obtain ⟨a', b', r', he⟩ := h' x _ hd
  exact ⟨a', b', r', he⟩

theorem Wakes.wakeMsg (s : State) (x cls : Nat) : Wakes s (s.wakeMsg x cls) := by
  unfold State.wakeMsg
  dsimp only
  split
  · split
    · intro y c hc
      by_cases h : y = x
      · subst h
        have same : s.ctx y = c := by rw [State.ctx, tget, hc]; rfl
        refine ⟨.ready, .parked, s.cyc (dieOfCell c.cell) + 1, ?_⟩
        rw [State.setCtx, tfind_tset_self, same]
      · exact ⟨c.sst, c.shown, c.readySince, (tfind_tset_ne _ _ h).trans hc⟩
    · exact .of_ctxs rfl
  · exact .of_ctxs rfl

/-- What a generated message leaves: contexts that wake, reports that are added, and the stores of generated messages. -/
structure Sends (s t : State) : Prop where
  wakes   : Wakes s t
  packets : t.packets = s.packets
  adds    : ∀ k, AddsReports k s t

theorem Sends.trans (h : Sends s t) (h' : Sends t u) : Sends s u :=
  ⟨h.wakes.trans h'.wakes, h'.packets.trans h.packets, fun k => (h.adds k).trans (h'.adds k)⟩

theorem Sends.modCell (s : State) (cell : Nat) (f : Cell → Cell) : Sends s (s.modCell cell f) :=
  ⟨.of_ctxs rfl, rfl, fun _ => .of_eq rfl rfl⟩

theorem Sends.reportQFull (s : State) (part cell cls : Nat) (m : Msg) : Sends s (s.reportQFull part cell cls m) :=
  ⟨.of_ctxs rfl, rfl, fun _ => .report s part _ 0 _ (dieOfCell cell) _⟩

theorem Sends.enqueueGen (s : State) (cell cls part : Nat) (m : Msg) : Sends s (s.enqueueGen cell cls part m) := by
  unfold State.enqueueGen
  split
  · exact .modCell ..
  · exact .reportQFull ..

theorem State.wakeMsg_frame (s : State) (x cls : Nat) : s.wakeMsg x cls = { s with ctxs := (s.wakeMsg x cls).ctxs } := by
  unfold State.wakeMsg
  dsimp only
  split
  · split <;> rfl
  · rfl

theorem Sends.wakeMsg (s : State) (x cls : Nat) : Sends s (s.wakeMsg x cls) :=
  ⟨fun y c => Wakes.wakeMsg s x cls y c, by rw [s.wakeMsg_frame], fun _ => .of_eq (by rw [s.wakeMsg_frame]) (by rw [s.wakeMsg_frame])⟩

/-- No report of the request waits in a cell's store of generated messages. -/
theorem reportStored_iff : s.reportStored n = false ↔ ∀ c, c ∈ s.cells → ∀ f, f ∈ c.2.gstore → f.pkt ≠ some n := by
  unfold State.reportStored
  simp only [List.any_eq_false, decide_eq_true_eq, Bool.not_eq_true]

/-- A change of a cell that adds nothing to its store. -/
theorem reportStored_modCell {f : Cell → Cell} (h : s.reportStored n = false) (hf : (f (s.cell cell)).gstore = (s.cell cell).gstore) :
    (s.modCell cell f).reportStored n = false := by
  rw [reportStored_iff] at h ⊢
  intro q hq g hg
  rcases mem_tset hq with rfl | hq
  · rw [hf] at hg
    unfold State.cell tget at hg
    cases found : tfind s.cells cell with
    | none => rw [found] at hg; exact nomatch hg
    | some x =>
      rw [found] at hg
      exact h _ (mem_of_tfind found) g hg
  · exact h q hq g hg

/-- A message finds its class bound to a context that is away, and a place in the store for it. -/
def State.Storing (s : State) (cell cls : Nat) : Prop :=
  (∃ l y, s.binding cell cls = some (l, y) ∧ s.residentCtx y = false) ∧ (s.cell cell).gstore.length < 64

theorem State.deliverGen_sends (s : State) (cell cls part : Nat) (m : Msg) (pkt : Option Nat) : Sends s (s.deliverGen cell cls part m pkt) := by
  unfold State.deliverGen
  split
  · exact .reportQFull ..
  · split
    · exact (Sends.enqueueGen ..).trans (.wakeMsg ..)
    · split
      · exact .modCell ..
      · exact .reportQFull ..

theorem State.deliverGen_stored (h : s.Storing cell cls) : ∃ f, f.pkt = some n ∧
    ((s.deliverGen cell cls part m (some n)).cell cell).gstore = (s.cell cell).gstore ++ [f] := by
  obtain ⟨⟨l, y, bound, away⟩, room⟩ := h
  refine ⟨{ msg := m, cell := cell, from_ := cell, ctx := y, pkt := some n }, rfl, ?_⟩
  unfold State.deliverGen
  simp only [bound, away, Bool.false_eq_true, if_false, room, if_true, State.cell_modCell_self]

theorem State.deliverGen_unstored (h : ¬ s.Storing cell cls) (none : s.reportStored n = false) :
    (s.deliverGen cell cls part m (some n)).reportStored n = false := by
  unfold State.deliverGen
  split
  · exact none
  · next l y bound =>
    split
    · have queued : (s.enqueueGen cell cls part m).reportStored n = false := by
        unfold State.enqueueGen
        split
        · exact reportStored_modCell none rfl
        · exact none
      rw [reportStored_iff] at queued ⊢
      rwa [State.wakeMsg_frame]
    · next away =>
      have full : ¬ (s.cell cell).gstore.length < 64 := fun room => h ⟨⟨l, y, bound, Bool.eq_false_of_not_eq_true away⟩, room⟩
      rw [if_neg full]
      exact none

end

end Sys2Proof.Machine
end

section
/-! PROOFS. The ends of posted operations: acknowledged, refused and reported (05 R96, R104; 18 R343). -/

set_option Elab.async false

namespace Sys2Proof.Machine

section
variable {s t u : State} {n : Nat} {p : Packet} {c z : Ctx} {v : Word} {fl : FFlags} {e : Byte}

/-- The context with its count of posted operations lower by one; a deferred one was not counted. -/
def Ctx.counted (c : Ctx) (p : Packet) : Ctx := if p.stamp.isSome then c else c.bumpPst p.cls false

/-- Two contexts with the same counts of posted operations. -/
def Ctx.Counts (z y : Ctx) : Prop := z.pst0 = y.pst0 ∧ z.pst1 = y.pst1 ∧ z.pst2 = y.pst2 ∧ z.ownPosted = y.ownPosted

theorem Ctx.bumpPst_awake {a b : SlotSt} {r : Nat} {d : List Drop} {k : Nat} {up : Bool} :
    ({ c with sst := a, shown := b, readySince := r, drops := d } : Ctx).bumpPst k up =
      { c.bumpPst k up with sst := a, shown := b, readySince := r, drops := d } :=
  match k with
  | 0 => rfl
  | 1 => rfl
  | 2 => rfl
  | _ + 3 => rfl

theorem Ctx.counted_awake {a b : SlotSt} {r : Nat} {d : List Drop} :
    ({ c with sst := a, shown := b, readySince := r, drops := d } : Ctx).counted p =
      { c.counted p with sst := a, shown := b, readySince := r, drops := d } := by
  unfold Ctx.counted
  split
  · rfl
  · exact Ctx.bumpPst_awake

theorem Ctx.bumpPst_keeps (c : Ctx) (k : Nat) (up : Bool) : (c.bumpPst k up).mfl = c.mfl ∧ (c.bumpPst k up).drops = c.drops :=
  match k with
  | 0 => ⟨rfl, rfl⟩
  | 1 => ⟨rfl, rfl⟩
  | 2 => ⟨rfl, rfl⟩
  | _ + 3 => ⟨rfl, rfl⟩

theorem Ctx.counted_keeps (c : Ctx) (p : Packet) : (c.counted p).mfl = c.mfl ∧ (c.counted p).drops = c.drops := by
  unfold Ctx.counted
  split
  · exact ⟨rfl, rfl⟩
  · exact c.bumpPst_keeps _ _

theorem State.ctx_of_found {x : Nat} (h : tfind s.ctxs x = some c) : s.ctx x = c := by
  rw [State.ctx, tget, h]
  rfl

/-! ## Acknowledgements -/

/-- A posted operation of a context, with no other combined into it. -/
structure State.Posted (s : State) (n : Nat) (p : Packet) (c : Ctx) : Prop where
  found  : tfind s.packets n = some p
  rises  : risesFrom 0 s.packets = true
  ctx    : tfind s.ctxs p.ctx = some c
  mates  : p.mates = []
  posted : p.posted = true

theorem State.Posted.alone (h : s.Posted n p c) : p.mates.isEmpty = true := by rw [h.mates]; rfl

theorem State.ackPosted_eq (h : tfind (s.syncTarget p).ctxs p.ctx = some c) : s.ackPosted n p fl =
    ({ s.syncTarget p with packets := tdel s.packets n } : State).modCtx p.ctx
      fun c => { c.counted p with mfl := (c.counted p).mfl ||| fl } := by
  unfold State.ackPosted
  simp only [h]
  rfl

theorem State.tfind_modCtx_self {x : Nat} {f : Ctx → Ctx} (h : tfind s.ctxs x = some c) : tfind (s.modCtx x f).ctxs x = some (f c) := by
  rw [State.modCtx, State.setCtx, tfind_tset_self, State.ctx_of_found h]

theorem State.Posted.acknowledged (h : s.Posted n p c) (st : p.st = .performed v fl) :
    ∃ t z, exec (.postedAck n) s = .next t ∧ tfind t.packets n = none ∧ tfind t.ctxs p.ctx = some z ∧
      z = { c.counted p with mfl := c.mfl ||| fl, drops := z.drops, sst := z.sst, shown := z.shown, readySince := z.readySince } := by
  have synced := Flushes.syncTarget s p
  have run : exec (.postedAck n) s = .next (s.ackPosted n p fl) := by
    show execPostedAck n s = _
    unfold execPostedAck
    simp only [h.found, st, h.posted, h.alone, Bool.and_self, if_true]
  have here : (tfind (s.syncTarget p).ctxs p.ctx).isSome = true := synced.ctxs.here p.ctx (by rw [h.ctx]; rfl)
  obtain ⟨y, hy⟩ := Option.isSome_iff_exists.1 here
  have frame := synced.ctxs.frame p.ctx
  rw [State.ctx_of_found hy, State.ctx_of_found h.ctx] at frame
  refine ⟨_, { y.counted p with mfl := (y.counted p).mfl ||| fl }, run, ?_, ?_, ?_⟩
  · rw [State.ackPosted_eq hy]
    show tfind (tdel s.packets n) n = none
    exact (tfind_tdel h.rises n n).trans (if_pos rfl)
  · rw [State.ackPosted_eq hy]
    exact State.tfind_modCtx_self (s := { s.syncTarget p with packets := _ }) hy
  · rw [frame, Ctx.counted_awake]
    dsimp only
    rw [(c.counted_keeps p).1]

/-! ## Refusals -/

/-- The mark that a refused posted operation leaves. -/
def Ctx.marked (c : Ctx) (p : Packet) (e : Byte) : List Drop := if p.stamp.isSome then c.drops else c.drops ++ [⟨e, p.ea, p.cls⟩]

/-- The state with the report of a refusal on its way and the mark left. -/
def State.refusalMarked (s : State) (n : Nat) (p : Packet) (c : Ctx) (e : Byte) (d0 info : Word) : State :=
  let s := ({ s with packets := tset s.packets n { p with st := .reported } } : State).report c.part d0 p.ea info (dieOfCell c.cell)
  if p.stamp.isSome then s else s.modCtx p.ctx fun c => { c with drops := c.drops ++ [⟨e, p.ea, p.cls⟩] }

/-- A refusal is reported; one for a lapsed or stale lease by a class 14 message too. -/
theorem State.refusePosted_eq (hc : tfind s.ctxs p.ctx = some c) : ∃ d0 info m, s.refusePosted n p e =
    if e = cLAPSED ∨ e = cGENMIS then
      ((s.refusalMarked n p c e d0 info).modCell c.cell fun k => { k with seq := k.seq + 1 }).deliverGen c.cell 14 c.part m (some n)
    else s.refusalMarked n p c e d0 info := by
  let d0 := reportHead e false 0 c.cell c.slot (dieOfCell c.cell) false c.tag
  let info := p.stamp.getD (p.word.zeroExtend 64)
  refine ⟨d0, info, reportMsg c 14 3 ((s.refusalMarked n p c e d0 info).cell c.cell).seq d0 p.ea info, ?_⟩
  unfold State.refusePosted State.reportDrop State.refusalMarked
  have owner : p.issuer.ctx = p.ctx := rfl
  simp only [owner, hc, Bool.false_or, Bool.or_eq_true, decide_eq_true_eq]
  cases p.stamp.isSome with
  | true => rfl
  | false => rfl

/-- The refusal's report waits in the store of generated messages of the context's cell. -/
def State.RefusalStored (s : State) (c : Ctx) (e : Byte) : Prop := (e = cLAPSED ∨ e = cGENMIS) ∧ s.Storing c.cell 14

theorem State.refusalMarked_ctx (hc : tfind s.ctxs p.ctx = some c) (d0 info : Word) :
    tfind (s.refusalMarked n p c e d0 info).ctxs p.ctx = some { c with drops := c.marked p e } := by
  unfold State.refusalMarked Ctx.marked
  dsimp only
  split
  · exact hc
  · exact State.tfind_modCtx_self hc

theorem State.refusalMarked_resident (hc : tfind s.ctxs p.ctx = some c) (d0 info : Word) (y : Nat) :
    (s.refusalMarked n p c e d0 info).residentCtx y = s.residentCtx y := by
  unfold State.residentCtx
  by_cases h : y = p.ctx
  · rw [h, State.refusalMarked_ctx hc, hc]
    rfl
  · have same : tfind (s.refusalMarked n p c e d0 info).ctxs y = tfind s.ctxs y := by
      unfold State.refusalMarked
      dsimp only
      split
      · rfl
      · exact tfind_tset_ne _ _ h
    rw [same]

/-- Nothing but the refused request, its context and its report differs so far. -/
theorem State.refusalMarked_rest (s : State) (n : Nat) (p : Packet) (c : Ctx) (e : Byte) (d0 info : Word) :
    ∃ r : Report, r.part = c.part ∧ s.refusalMarked n p c e d0 info = { s with
      packets := tset s.packets n { p with st := .reported }, ctxs := (s.refusalMarked n p c e d0 info).ctxs
      reports := tset s.reports s.fresh r, fresh := s.fresh + 1 } := by
  refine ⟨{ part := c.part, d0 := d0, addr := p.ea, info := info, payload := none }, rfl, ?_⟩
  unfold State.refusalMarked
  dsimp only
  split <;> rfl

/-- A refusal before its count falls: the context with its mark, the request reported, and where its report is. -/
structure State.PostRefused (s t : State) (n : Nat) (p : Packet) (c : Ctx) (e : Byte) : Prop where
  ctx      : ∃ a b r, tfind t.ctxs p.ctx = some { c with sst := a, shown := b, readySince := r, drops := c.marked p e }
  packets  : t.packets = tset s.packets n { p with st := .reported }
  rises    : risesFrom 0 s.reports = true → risesFrom 0 t.reports = true
  fresh    : s.fresh < t.fresh
  report   : ∃ r, tfind t.reports s.fresh = some r ∧ r.part = c.part
  stored   : s.RefusalStored c e → ∃ f, f.pkt = some n ∧ (t.cell c.cell).gstore = (s.cell c.cell).gstore ++ [f]
  unstored : ¬ s.RefusalStored c e → s.reportStored n = false → t.reportStored n = false

theorem State.postRefused_refusePosted (hc : tfind s.ctxs p.ctx = some c) (e : Byte) : s.PostRefused (s.refusePosted n p e) n p c e := by
  obtain ⟨d0, info, m, eq⟩ := State.refusePosted_eq (n := n) (e := e) hc
  have ctx := State.refusalMarked_ctx (n := n) (e := e) hc d0 info
  have resident := State.refusalMarked_resident (n := n) (e := e) hc d0 info
  obtain ⟨r, part, rest⟩ := s.refusalMarked_rest n p c e d0 info
  rw [eq]
  generalize s.refusalMarked n p c e d0 info = w at *
  have packets : w.packets = tset s.packets n { p with st := .reported } := by rw [rest]
  have reports : w.reports = tset s.reports s.fresh r := by rw [rest]
  have fresh : w.fresh = s.fresh + 1 := by rw [rest]
  have cells : w.cells = s.cells := by rw [rest]
  have leases : w.leases = s.leases := by rw [rest]
  have rises (h : risesFrom 0 s.reports = true) : risesFrom 0 w.reports = true := by
    rw [reports]
    exact risesFrom_tset _ h (Nat.zero_le _)
  split
  · next lapsed =>
    have sends := (Sends.modCell w c.cell fun k => { k with seq := k.seq + 1 }).trans
      (State.deliverGen_sends (w.modCell c.cell fun k => { k with seq := k.seq + 1 }) c.cell 14 c.part m (some n))
    have gstore : ((w.modCell c.cell fun k => { k with seq := k.seq + 1 }).cell c.cell).gstore = (s.cell c.cell).gstore := by
      rw [State.cell_modCell_self, State.cell, State.cell, cells]
    have bound : (w.modCell c.cell fun k => { k with seq := k.seq + 1 }).binding c.cell 14 = s.binding c.cell 14 := by
      unfold State.binding
      rw [← leases]
      rfl
    have storing : (w.modCell c.cell fun k => { k with seq := k.seq + 1 }).Storing c.cell 14 ↔ s.Storing c.cell 14 := by
      unfold State.Storing
      rw [gstore, bound]
      exact and_congr_left fun _ => exists_congr fun l => exists_congr fun y => and_congr_right fun _ => by rw [← resident y]; rfl
    obtain ⟨a, b, z, hz⟩ := sends.wakes _ _ ctx
    refine ⟨⟨a, b, z, hz⟩, sends.packets.trans packets, fun h => (sends.adds 0).rises (rises h), ?_, ⟨r, ?_, part⟩, fun h => ?_, fun h none => ?_⟩
    · exact Nat.lt_of_lt_of_le (by rw [fresh]; exact Nat.lt_succ_self _) (sends.adds 0).fresh
    · rw [(sends.adds s.fresh).found (by rw [fresh]; exact Nat.lt_succ_self _), reports, tfind_tset_self]
    · obtain ⟨f, hf, store⟩ := State.deliverGen_stored (n := n) (m := m) (part := c.part) (storing.2 h.2)
      exact ⟨f, hf, store.trans (congrArg (· ++ [f]) gstore)⟩
    · refine State.deliverGen_unstored (fun k => h ⟨lapsed, storing.1 k⟩) (reportStored_modCell ?_ rfl)
      unfold State.reportStored at none ⊢
      rwa [cells]
  · next other =>
    refine ⟨⟨c.sst, c.shown, c.readySince, ctx⟩, packets, rises, by rw [fresh]; exact Nat.lt_succ_self _,
      ⟨r, by rw [reports, tfind_tset_self], part⟩, fun h => absurd h.1 other, fun _ none => ?_⟩
    unfold State.reportStored at none ⊢
    rwa [cells]

end

end Sys2Proof.Machine
end

section
/-! PROOFS. Requests on their way, as the obligation states them (05 R95, R104, R111; 08 R195; 14 R279-R290; 18 R343). -/

set_option Elab.async false

namespace Sys2Proof.Machine

section
variable {s t u : State} {n : Nat} {p : Packet} {c z : Ctx} {v : Word} {fl : FFlags} {e : Byte}

/-! ## The count of a refused operation falls -/

theorem State.settleRefused_waits (h : s.reportStored n = true) : s.settleRefused n p = s := if_pos h

/-- With no report of it in a store, the reports of its partition reach the writer, and its count falls. -/
theorem State.settleRefused_counts (h : s.reportStored n = false) (rises : risesFrom 0 s.packets = true) (hc : tfind s.ctxs p.ctx = some c) :
    tfind (s.settleRefused n p).packets n = none ∧ tfind (s.settleRefused n p).ctxs p.ctx = some (c.counted p) ∧
      (s.settleRefused n p).reports = (s.flushReports p.part).reports := by
  have only := s.reportsOnly_flushReports p.part
  have settled : s.settleRefused n p = (s.flushReports p.part).endRefused n p := if_neg (by rw [h]; exact Bool.false_ne_true)
  have found : tfind (s.flushReports p.part).ctxs p.ctx = some c := by rw [only]; exact hc
  have packets : (s.flushReports p.part).packets = s.packets := by rw [only]
  have gone : tfind (tdel (s.flushReports p.part).packets n) n = none := by
    rw [packets]
    exact (tfind_tdel rises n n).trans (if_pos rfl)
  rw [settled]
  unfold State.endRefused Ctx.counted
  simp only [found]
  split
  · exact ⟨gone, found, rfl⟩
  · exact ⟨gone, State.tfind_modCtx_self (s := { s.flushReports p.part with packets := _ }) found, rfl⟩

theorem Ctx.counts_counted {a b : SlotSt} {r : Nat} {d : List Drop} :
    (({ c with sst := a, shown := b, readySince := r, drops := d } : Ctx).counted p).Counts (c.counted p) := by
  rw [Ctx.counted_awake]
  exact ⟨rfl, rfl, rfl, rfl⟩

section
variable (h : s.Posted n p c)
include h

theorem State.Posted.refusal_outcome (st : p.st = .refused e) :
    exec (.postedRefusalReport n) s = .next ((s.refusePosted n p e).settleRefused n p) := by
  show execPostedRefusalReport n s = _
  unfold execPostedRefusalReport
  simp only [h.found, st, h.posted, h.alone, Bool.and_self, if_true]

theorem State.Posted.refusal_stored (st : p.st = .refused e) (stored : s.RefusalStored c e) : ∃ t z f,
    exec (.postedRefusalReport n) s = .next t ∧ tfind t.packets n = some { p with st := .reported } ∧ tfind t.ctxs p.ctx = some z ∧
      z.drops = c.marked p e ∧ z.Counts c ∧ (t.cell c.cell).gstore = (s.cell c.cell).gstore ++ [f] ∧ f.pkt = some n := by
  have refused := State.postRefused_refusePosted (n := n) h.ctx e
  obtain ⟨f, hf, gstore⟩ := refused.stored stored
  obtain ⟨a, b, r, ctx⟩ := refused.ctx
  have waits : (s.refusePosted n p e).reportStored n = true := by
    cases found : tfind (s.refusePosted n p e).cells c.cell with
    | none =>
      rw [State.cell, tget, found] at gstore
      exact absurd gstore.symm (by simp)
    | some x =>
      have cell : (s.refusePosted n p e).cell c.cell = x := by rw [State.cell, tget, found]; rfl
      rw [cell] at gstore
      refine List.any_eq_true.2 ⟨_, mem_of_tfind found, List.any_eq_true.2 ⟨f, ?_, decide_eq_true hf⟩⟩
      rw [gstore]
      exact List.mem_append_right _ List.mem_cons_self
  refine ⟨_, _, f, (h.refusal_outcome st).trans (congrArg _ (State.settleRefused_waits waits)), ?_, ctx, rfl, ⟨rfl, rfl, rfl, rfl⟩, gstore, hf⟩
  rw [refused.packets, tfind_tset_self]

theorem State.Posted.refusal_counted (st : p.st = .refused e) (plain : ¬ s.RefusalStored c e) (clear : s.reportStored n = false) : ∃ t z,
    exec (.postedRefusalReport n) s = .next t ∧ tfind t.packets n = none ∧ tfind t.ctxs p.ctx = some z ∧ z.drops = c.marked p e ∧
      z.Counts (c.counted p) ∧ (c.part = p.part → risesFrom 0 s.reports = true → tfind t.reports s.fresh = none) := by
  have refused := State.postRefused_refusePosted (n := n) h.ctx e
  obtain ⟨a, b, r, ctx⟩ := refused.ctx
  have rises : risesFrom 0 (s.refusePosted n p e).packets = true := by
    rw [refused.packets]
    exact risesFrom_tset _ h.rises (Nat.zero_le _)
  obtain ⟨packets, ctxs, reports⟩ := State.settleRefused_counts (refused.unstored plain clear) rises ctx
  refine ⟨_, _, h.refusal_outcome st, packets, ctxs, (Ctx.counted_keeps _ p).2, Ctx.counts_counted, fun part sorted => ?_⟩
  obtain ⟨r, found, owner⟩ := refused.report
  rw [reports]
  exact flushReports_gone (refused.rises sorted) refused.fresh found (owner.trans part)

theorem State.Posted.reported_outcome (st : p.st = .reported) : exec (.postedRefusalReport n) s = .next (s.settleRefused n p) := by
  show execPostedRefusalReport n s = _
  unfold execPostedRefusalReport
  simp only [h.found, st]

theorem State.Posted.reported_counted (st : p.st = .reported) (clear : s.reportStored n = false) : ∃ t z,
    exec (.postedRefusalReport n) s = .next t ∧ tfind t.packets n = none ∧ tfind t.ctxs p.ctx = some z ∧ z.Counts (c.counted p) ∧
      z.drops = c.drops := by
  obtain ⟨packets, ctxs, -⟩ := State.settleRefused_counts clear h.rises h.ctx
  exact ⟨_, _, h.reported_outcome st, packets, ctxs, ⟨rfl, rfl, rfl, rfl⟩, (c.counted_keeps p).2⟩

end

end

section
variable {s t : State} {n : Nat} {p : Packet} {v : Word} {l : Loc} {rem exp phase ov bytes rest k : Nat}
  {hop : Nat × Nat × Nat} {b : Packet} {w : SwitchPlace} {f : BitVec 3} {ty : BitVec 2} {x y g : Word} {m : Nat}

/-! ## Barrier events, each by its case (05 R109-R111) -/

/-- A barrier's block as an event leaves it, no other byte changed. -/
def State.BlockLeft (s t : State) (l : Loc) (rest exp rem phase ov bytes : Nat) : Prop := OnlyAt s t l 16 ∧
  t.numAt l 8 = some (rem + exp * 2 ^ 32 + phase * 2 ^ 48 + ov * 2 ^ 63) ∧ t.numAt (l.plus 8) 8 = some (bytes + rest * 2 ^ 32)

theorem State.BlockIs.left (h : t.BlockIs l (blockOf rem exp phase ov bytes) rest) (hov : ov < 2) (only : OnlyAt s t l 16) :
    s.BlockLeft t l rest exp rem phase ov bytes := ⟨only, h.nums hov⟩

section
variable (h : s.Arrived n p) (hl : p.target = .home l) (judged : s.judgePacket p l = none) (block : s.BlockAt l rem exp phase ov bytes rest)
include h hl judged block

theorem State.Arrived.arrives {aw : Bool} (hop : p.op = .arrive aw) (hc : p.copy = none) :
    s.Goes (.barrierArrival n) n { p with st := .performed (BitVec.ofNat 64 phase) 0 } fun t => s.Over t (rem = 0) ∧
      (rem = 0 → s.BlockLeft t l rest exp 0 phase 1 bytes) ∧
      (rem = 1 → bytes = 0 → s.BlockLeft t l rest exp exp ((phase + 1) % 2 ^ 15) ov 0) ∧
      (rem ≠ 0 → rem ≠ 1 ∨ bytes ≠ 0 → s.BlockLeft t l rest exp (rem - 1) phase ov bytes) := by
  obtain ⟨t, run, packets, excess, only, stands⟩ := h.event (is := fun op => match op with | .arrive _ => true | _ => false)
    (by rw [hop]) hc hl judged block (e := .arrive) (v := BitVec.ofNat 64 phase) (by rw [hop]; rfl)
  refine ⟨t, congrArg _ run, packets, ?_⟩
  by_cases none : rem = 0
  · subst none
    rw [arrive_beyond] at excess stands
    exact ⟨excess, fun _ => stands.left (by decide) only, fun e => absurd e (by decide), fun e => absurd rfl e⟩
  · by_cases last : rem = 1 ∧ bytes = 0
    · obtain ⟨rfl, rfl⟩ := last
      rw [arrive_last] at excess stands
      exact ⟨excess, fun e => absurd e none, fun _ _ => stands.left block.hov only, fun _ e => absurd e (by decide)⟩
    · rw [arrive_more none (by omega)] at excess stands
      exact ⟨by rw [decide_eq_false none]; exact excess, fun e => absurd e none, fun r b => absurd ⟨r, b⟩ last,
        fun _ _ => stands.left block.hov only⟩

theorem State.Arrived.declares (hop : p.op = .declare k) (hc : p.copy = none) :
    s.Goes (.barrierDeclaration n) n { p with st := .performed 0 0 } fun t => s.Over t (0xFFFF_FFFF < bytes + k) ∧
      if 0xFFFF_FFFF < bytes + k then s.BlockLeft t l rest exp rem phase 1 0xFFFF_FFFF
      else s.BlockLeft t l rest exp rem phase ov (bytes + k) := by
  obtain ⟨t, run, packets, excess, only, stands⟩ := h.event (is := fun op => match op with | .declare _ => true | _ => false)
    (by rw [hop]) hc hl judged block (e := .declare k) (v := 0) (by rw [hop]; rfl)
  refine ⟨t, congrArg _ run, packets, ?_⟩
  by_cases beyond : 0xFFFF_FFFF < bytes + k
  · rw [declare_beyond beyond] at excess stands
    rw [if_pos beyond, decide_eq_true beyond]
    exact ⟨excess, stands.left (by decide) only⟩
  · rw [declare_within beyond] at excess stands
    rw [if_neg beyond, decide_eq_false beyond]
    exact ⟨excess, stands.left block.hov only⟩

theorem State.Arrived.reports {tag : Word} (hop : p.op = .bytes k) (hc : p.copy = some tag) :
    ∃ t, exec (.barrierByteReport n) s = .next t ∧ t.packets = tdel s.packets n ∧ s.Over t (bytes < k) ∧
      let o := if bytes < k then 1 else ov
      if rem = 0 ∧ bytes ≤ k ∧ bytes ≠ 0 then s.BlockLeft t l rest exp exp ((phase + 1) % 2 ^ 15) o 0
      else s.BlockLeft t l rest exp rem phase o (bytes - k) := by
  obtain ⟨t, run, packets, excess, only, stands⟩ := h.byteReport hop hc hl judged block
  rw [bytes_event] at excess stands
  have bit : (if bytes < k then 1 else ov) < 2 := by
    split
    · decide
    · exact block.hov
  refine ⟨t, run, packets, excess, ?_⟩
  dsimp only at stands ⊢
  split at stands
  · next done =>
    rw [if_pos done]
    exact stands.left bit only
  · next more =>
    rw [if_neg more]
    exact stands.left bit only

end

/-! ## Requests that combine, in their values (14 R282, R283) -/

section
variable (h : s.AtSwitch m b hop) (partner : s.partnerOf m b hop = some (n, p, w)) (room : s.waitBuffers hop < 256)
  (hp : p.op = .amo f ty x g) (hb : b.op = .amo f ty y v)
include h partner room hp hb

/-- A mate that came to the output in this cycle from a higher input port. -/
def State.Later (s : State) (b : Packet) (hop : Nat × Nat × Nat) (d : Mate) : Prop :=
  (d.stage, d.die, d.out) = hop ∧ d.cyc = s.cyc hop.2.1 ∧ inputOf b < d.input

theorem State.AtSwitch.joins_last (last : ¬ (w.cyc = s.cyc hop.2.1 ∧ inputOf b < w.input)) (none : ∀ d, d ∈ p.mates → ¬ s.Later b hop d) :
    s.Joins m { p with op := .amo f ty (combinedWord f ty x y) g, mates := p.mates ++ [mateAt m x (s.entryAt b hop)] } n b m := by
  have joins := h.joins_after partner room last
  rwa [joined_last hp hb fun d hd => by rw [State.follows_entryAt]; exact decide_eq_false (none d hd),
    combineVal_eq (combines_op (State.partnerOf_spec partner).2.2 hp)] at joins

theorem State.AtSwitch.joins_between {d : Mate} {q r : List Mate} (last : ¬ (w.cyc = s.cyc hop.2.1 ∧ inputOf b < w.input))
    (mates : p.mates = q ++ d :: r) (sooner : ∀ k, k ∈ q → ¬ s.Later b hop k) (later : s.Later b hop d) :
    s.Joins m { p with
      op := .amo f ty (combinedWord f ty x y) g
      mates := q ++ mateAt m d.v (s.entryAt b hop) :: { d with v := combineVal f ty d.v y } ::
        r.map fun k => { k with v := combineVal f ty k.v y } } n b m := by
  have joins := h.joins_after partner room last
  rwa [joined_before hp hb mates (fun k hk => by rw [State.follows_entryAt]; exact decide_eq_false (sooner k hk))
    (by rw [State.follows_entryAt]; exact decide_eq_true later), combineVal_eq (combines_op (State.partnerOf_spec partner).2.2 hp)] at joins

theorem State.AtSwitch.joins_first (first : w.cyc = s.cyc hop.2.1 ∧ inputOf b < w.input)
    (elsewhere : ∀ d, d ∈ b.mates → (d.stage, d.die, d.out) ≠ hop) :
    s.Joins m { b with op := .amo f ty (combinedWord f ty x y) v, mates := b.mates ++ [mateAt n y w], place := some { w with input := inputOf b } }
      m p n := by
  obtain ⟨-, place, both⟩ := State.partnerOf_spec partner
  have joins := h.joins_before partner room first
  have apart (d : Mate) (hd : d ∈ b.mates) : d.follows w = false := by
    unfold Mate.follows
    rw [place, decide_eq_false (elsewhere d hd)]
    rfl
  rwa [joined_last hb hp apart, combineVal_eq (combines_op both hp), combinedWord_comm] at joins

end

end

/-- Settles O48: what each event of a request does, from its home back to its context. -/
theorem packetEvents : Obligations.PacketEvents := by
  intro n m p b s found memWf rises
  refine ⟨?home, ?waits, ?update, ?barrier, ?switch, ?split, ?replies⟩
  case home =>
    intro st home free
    have arrived : s.Arrived n p := ⟨found, st, home, free⟩
    refine ⟨fun l hl hb hu => ⟨fun e judged => arrived.refused hl hb hu judged, fun judged => ?_⟩, fun hu => arrived.queued hu⟩
    refine ⟨fun k sg x hop h8 hk takes hx => arrived.load hl hu judged hop h8 hk takes hx,
      fun bs hop takes hx => arrived.store hl hu judged memWf hop takes hx,
      fun x hop takes hx => arrived.take hl hu judged memWf hop takes hx,
      fun v hop takes hx => arrived.give hl hu judged memWf hop takes hx, ?_⟩
    intro f ty x e old hop k takes hx
    exact arrived.amo hl hu judged memWf hop takes hx
  case waits => exact fun h => homeAccessArrival_waits found h
  case update =>
    intro space va f ty x e pg st free hl hop hpg
    refine ⟨fun busy => remoteUpdateThread_waits found st free hl hpg busy, fun room idle judged old takes hx => ?_⟩
    exact remoteUpdateThread_performs memWf found st free hl hpg room idle hop judged takes hx
  case barrier =>
    intro rem exp phase ov bytes rest h st home free hl judged paired takes hr he hp ho hb hc first second
    have arrived : s.Arrived n p := ⟨found, st, home, free⟩
    have block : s.BlockAt h rem exp phase ov bytes rest := ⟨memWf, paired, takes, hr, he, hp, ho, hb, hc, first, second⟩
    exact ⟨fun aw hop copy => arrived.arrives hl judged block hop copy, fun k hop copy => arrived.declares hl judged block hop copy,
      fun k tag hop copy => arrived.reports hl judged block hop copy⟩
  case switch =>
    intro hop w hm st toPeer may next
    have here : s.AtSwitch m b hop := ⟨hm, st, may, next⟩
    refine ⟨here.queues, fun f ty x y e g partner room hp hb => ?_⟩
    refine ⟨fun last none => here.joins_last partner room hp hb last none,
      fun last l d q mates sooner later => here.joins_between partner room hp hb last mates sooner later,
      fun first elsewhere => ?_⟩
    obtain ⟨-, rfl, -⟩ := State.partnerOf_spec partner
    exact here.joins_first partner room hp hb first elsewhere
  case split =>
    intro f ty z e v x fl d hop hm ne mates pkt value
    subst pkt value
    refine ⟨fun st combinable _ => ?_, fun c st => ?_⟩
    · have answer := State.splitOne_performed (f := f) (ty := ty) hm st hop
      rw [combineVal_eq combinable] at answer
      exact combinedReplySplit_pair found ne mates (.inl ⟨v, fl, st⟩) answer
    · exact combinedReplySplit_pair found ne mates (.inr ⟨c, st⟩) (State.splitOne_refused hm st)
  case replies =>
    intro c hc mates
    refine ⟨fun posted copy wait => ?_, fun posted => ?_⟩
    · have awaited : s.Awaited n p c := ⟨found, rises, hc, mates, posted, copy, wait⟩
      exact ⟨fun v fl st hop => awaited.completes st hop, fun e st handler => awaited.traps st handler⟩
    · have ends : s.Posted n p c := ⟨found, rises, hc, mates, posted⟩
      refine ⟨fun v fl st => ends.acknowledged st, fun e st => ⟨fun stored => ?_, fun plain clear => ?_⟩, fun st => ⟨fun waits => ?_, ?_⟩⟩
      · exact ends.refusal_stored st stored
      · obtain ⟨t, z, run, gone, ctx, marked, counts, report⟩ := ends.refusal_counted st plain clear
        exact ⟨t, z, run, gone, ctx, marked, counts, fun part sorted _ => report part sorted⟩
      · exact (ends.reported_outcome st).trans (congrArg _ (State.settleRefused_waits waits))
      · exact ends.reported_counted st

end Sys2Proof.Machine
end

section
/-! PROOFS. What the ends of leases leave of the other leases, the requests and the notices: the parts that change none of them
(08 R197-R199; 13 R278; 18 R347). -/

set_option Elab.async false

namespace Sys2Proof.Machine

section
variable {s₀ s t : State} {c : Ctx} {α : Type}

/-- Leases, their requests, renewals and notices stay as they are, and so does what each die's last tick step was. -/
structure State.Outside (s t : State) : Prop where
  leases     : t.leases = s.leases
  lreqs      : t.lreqs = s.lreqs
  extensions : t.extensions = s.extensions
  notices    : t.notices = s.notices
  fresh      : s.fresh ≤ t.fresh
  stepped    : ∀ k, (t.die k).stepped = (s.die k).stepped

theorem State.Outside.refl (s : State) : s.Outside s := ⟨rfl, rfl, rfl, rfl, Nat.le_refl _, fun _ => rfl⟩

theorem State.Outside.trans {u : State} (h : s.Outside t) (h' : t.Outside u) : s.Outside u :=
  ⟨h'.leases.trans h.leases, h'.lreqs.trans h.lreqs, h'.extensions.trans h.extensions, h'.notices.trans h.notices,
    h.fresh.trans h'.fresh, fun k => (h'.stepped k).trans (h.stepped k)⟩

/-! ## Parts that write neither leases nor dies -/

theorem State.Outside.same (h : s₀.Outside s) (leases : t.leases = s.leases := by rfl) (lreqs : t.lreqs = s.lreqs := by rfl)
    (extensions : t.extensions = s.extensions := by rfl) (notices : t.notices = s.notices := by rfl) (dies : t.dies = s.dies := by rfl)
    (fresh : s.fresh ≤ t.fresh := by exact Nat.le_refl _) : s₀.Outside t :=
  h.trans ⟨leases, lreqs, extensions, notices, fresh, fun k => by rw [State.die, State.die, dies]⟩

theorem State.Outside.ite {p : Prop} [Decidable p] (h : s₀.Outside s) (h' : s₀.Outside t) : s₀.Outside (if p then s else t) := by
  split
  · exact h
  · exact h'

theorem State.Outside.foldl {f : State → α → State} (h : s₀.Outside s) (hf : ∀ t x, s₀.Outside t → s₀.Outside (f t x)) (l : List α) :
    s₀.Outside (l.foldl f s) := by
  induction l generalizing s with
  | nil => exact h
  | cons x l ih => exact ih (hf s x h)

section
variable (h : s₀.Outside s)
include h

theorem State.Outside.setCtx {x c} : s₀.Outside (s.setCtx x c) := h.same
theorem State.Outside.modCtx {x f} : s₀.Outside (s.modCtx x f) := h.same
theorem State.Outside.modCell {cell f} : s₀.Outside (s.modCell cell f) := h.same
theorem State.Outside.modPart {part f} : s₀.Outside (s.modPart part f) := h.same
theorem State.Outside.modPdie {part die f} : s₀.Outside (s.modPdie part die f) := h.same
theorem State.Outside.signal {part v} : s₀.Outside (s.signal part v) := h.same
theorem State.Outside.filterVersions {f} : s₀.Outside (s.filterVersions f) := h.same

theorem State.Outside.report {part d0 addr info die m} : s₀.Outside (s.report part d0 addr info die m) := h.same (fresh := Nat.le_succ _)
theorem State.Outside.reportCtx {x code prec src addr info} : s₀.Outside (s.reportCtx x code prec src addr info) := h.report (die := 0)
theorem State.Outside.reportQFull {part cell cls m} : s₀.Outside (s.reportQFull part cell cls m) := h.report (die := 0)
theorem State.Outside.reportSend {cell o} : s₀.Outside (s.reportSend cell o) := h.report (die := 0)
theorem State.Outside.startJob {j cycles} : s₀.Outside (s.startJob j cycles) := h.same (fresh := Nat.le_succ _)
theorem State.Outside.retryCell {cell} : s₀.Outside (s.retryCell cell) := h.same
theorem State.Outside.clearBook {n cell part m} : s₀.Outside (s.clearBook n cell part m) := h.startJob
theorem State.Outside.zeroise {n die part k} : s₀.Outside (s.zeroise n die part k) := h.modPart.startJob
theorem State.Outside.endQueue {part die} : s₀.Outside (s.endQueue part die) := h.modPdie

theorem State.Outside.withWaiters {w} : s₀.Outside { s with waiters := w } := h.same
theorem State.Outside.withEntries {es} : s₀.Outside { s with entries := es } := h.same

theorem State.Outside.modEntry {n f} : s₀.Outside (s.modEntry n f) := by
  unfold State.modEntry
  split
  · exact h.same
  · exact h

theorem State.Outside.regionEnds {part region} : s₀.Outside (s.regionEnds part region) := h.ite h.modPart

theorem State.Outside.modDie {die f} (hf : ∀ d : Die, (f d).stepped = d.stepped) : s₀.Outside (s.modDie die f) := by
  refine h.trans ⟨rfl, rfl, rfl, rfl, Nat.le_refl _, fun k => ?_⟩
  rw [State.die_modDie]
  split
  · next e => rw [hf, e]
  · rfl

theorem State.Outside.chargeNow {cell entry units rolled} : s₀.Outside (s.chargeNow cell entry units rolled) := by
  unfold State.chargeNow
  split
  · exact h
  · split
    · exact h.modDie fun _ => rfl
    · exact h

/-! ## Messages -/

theorem State.Outside.wakeMsg {x cls} : s₀.Outside (s.wakeMsg x cls) := by
  rw [s.wakeMsg_frame]
  exact h.same

theorem State.Outside.enqueueGen {cell cls part m} : s₀.Outside (s.enqueueGen cell cls part m) := by
  unfold State.enqueueGen
  split
  · exact h.modCell
  · exact h.reportQFull

theorem State.Outside.deliverGen {cell cls part m pkt} : s₀.Outside (s.deliverGen cell cls part m pkt) := by
  unfold State.deliverGen
  split
  · exact h.reportQFull
  · exact h.enqueueGen.wakeMsg.ite (h.modCell.ite h.reportQFull)

theorem State.Outside.classReport {c cls kind d0 addr info} : s₀.Outside (s.classReport c cls kind d0 addr info) := h.modCell.deliverGen

theorem State.Outside.refuseMsg {cell part o m} : s₀.Outside (s.refuseMsg cell part o m) := by
  unfold State.refuseMsg
  dsimp only
  split
  · split
    · exact h.report.classReport
    · exact h.report
  · exact h.reportQFull

theorem State.Outside.unbindClass {cell k part} : s₀.Outside (s.unbindClass cell k part) :=
  (h.modCell.foldl (fun _ _ h1 => h1.refuseMsg) _).foldl (fun _ _ h1 => h1.refuseMsg) _

/-! ## Contexts that end -/

theorem State.Outside.checkEnd {e} : s₀.Outside (s.checkEnd e) := by
  rw [State.checkEnd_eq]
  exact h.same

theorem State.Outside.forget {x} : s₀.Outside (s.forget x) := by
  refine h.trans ⟨rfl, rfl, rfl, rfl, Nat.le_refl _, fun k => ?_⟩
  have same := congrArg Die.stepped (s.die_leaveGuest x k)
  exact same

theorem State.Outside.endCtxAt {x t} : s₀.Outside (s.endCtxAt x t) := by
  have emptied : s₀.Outside (s.emptySlot x t) := by
    unfold State.emptySlot
    dsimp only
    split
    · exact h.modCell
    · exact h.modCell
    · exact h
  rw [State.endCtxAt_eq]
  exact emptied.forget.same

theorem State.Outside.leaveGroup {x} : s₀.Outside (s.leaveGroup x) := by
  unfold State.leaveGroup
  dsimp only
  split
  · exact h
  · exact h.modCtx.modCell.ite h.modCtx

theorem State.Outside.lapseMember {x} : s₀.Outside (s.lapseMember x) := by
  unfold State.lapseMember
  dsimp only
  split
  · exact h
  · exact h.filterVersions.reportCtx.withWaiters.leaveGroup.modCtx

theorem State.Outside.lapseBook {n x c} : s₀.Outside (s.lapseBook n x c) := by
  unfold State.lapseBook
  dsimp only
  split
  · exact h.lapseMember.clearBook
  · exact h.lapseMember

theorem State.Outside.endThreads {n f} : s₀.Outside (s.endThreads n f) :=
  (h.foldl (fun _ _ h1 => h1.ite (h1.same (fresh := Nat.le_succ _))) _).foldl (fun _ _ h1 => h1.lapseBook.endCtxAt) _

theorem State.Outside.lapseGroup {n g} : s₀.Outside (s.lapseGroup n g) := h.foldl (fun _ _ h1 => h1.lapseBook) _

theorem State.Outside.lapseBooksIn {cell base count} : s₀.Outside (s.lapseBooksIn cell base count) := h.foldl (fun _ _ h1 => h1.lapseBook) _

/-! ## Rings and their latches -/

theorem State.Outside.latchReset {cell} : s₀.Outside (s.latchReset cell) := by
  have charged : s₀.Outside (((s.cell cell).mq.filter fun o => o.kind = .swapRot || o.kind = .swapLoad).foldl
      (fun s o => s.chargeNow cell o.entry o.cycles 0) s) := h.foldl (fun _ _ h1 => h1.chargeNow) _
  unfold State.latchReset
  dsimp only
  split
  · split
    · split
      · exact charged.modCell.modCell.reportSend.modCell.reportSend
      · exact charged.modCell.modCell.modCell.reportSend
    · exact charged.modCell.modCell.reportSend
  · split
    · split
      · exact charged.modCell.modCell.reportSend
      · exact charged.modCell.modCell
    · exact charged.modCell

theorem State.Outside.lapseRing {n part r} : s₀.Outside (s.lapseRing n part r) := by
  have ended : s₀.Outside (s.endThreads n fun c => c.part = part && ((List.range 8).map (· + 8 * r)).contains c.cell) := h.endThreads
  have reset := ended.foldl (f := fun s c => s.latchReset c) (fun _ _ h1 => h1.latchReset) ((List.range 8).map (· + 8 * r))
  unfold State.lapseRing
  exact State.Outside.foldl reset.withEntries (fun _ _ h1 => h1.checkEnd.ite h1) _

theorem State.Outside.memberLapses {n l} : s₀.Outside (s.memberLapses n l) := by
  unfold State.memberLapses
  split
  · exact h.signal.ite h
  · exact h.signal.ite h
  · exact h.signal.ite h
  · exact h.signal.ite h
  · exact h.signal.ite h
  · exact h

end

end

end Sys2Proof.Machine
end

section
/-! PROOFS. A lapse and the leases below: which have passed, and who is told (08 R191 stages 2-4, R197-R199). -/

set_option Elab.async false

namespace Sys2Proof.Machine

section
variable {s₀ s t u : State} {R : Lease → Lease → Prop} {l m : Lease} {n k c : Nat} {g : BitVec 24} {α : Type}

/-! ## Notices -/

/-- Notices stand in their order, below the next number. -/
def State.NoticesSound (s : State) : Prop := risesFrom 0 s.notices = true ∧ ∀ p, p ∈ s.notices → p.1 < s.fresh

/-- A notice for one generation of a lease is on its way. -/
def State.Notified (s : State) (n : Nat) (g : BitVec 24) : Prop := ∃ p, p ∈ s.notices ∧ p.2.lease = n ∧ p.2.gen = g

/-- Leases change as `R` says, and notices are only added; requests, renewals and what each die's last tick step was stay. -/
structure LeasesGo (R : Lease → Lease → Prop) (s t : State) : Prop where
  lreqs      : t.lreqs = s.lreqs
  extensions : t.extensions = s.extensions
  stepped    : ∀ k, (t.die k).stepped = (s.die k).stepped
  found      : ∀ n l, tfind s.leases n = some l → ∃ m, tfind t.leases n = some m ∧ R l m
  objects    : ∀ p, p ∈ t.leases → ∃ q, q ∈ s.leases ∧ q.2.obj = p.2.obj
  unarrived  : ∀ p, p ∈ t.notices → p ∈ s.notices ∨ p.2.arrived = false
  sound      : s.NoticesSound → t.NoticesSound
  kept       : s.NoticesSound → ∀ p, p ∈ s.notices → p ∈ t.notices

theorem LeasesGo.outside (hR : ∀ l, R l l) (h : s.Outside t) : LeasesGo R s t where
  lreqs := h.lreqs
  extensions := h.extensions
  stepped := h.stepped
  found n l hn := ⟨l, by rw [h.leases]; exact hn, hR l⟩
  objects p hp := ⟨p, h.leases ▸ hp, rfl⟩
  unarrived p hp := .inl (h.notices ▸ hp)
  sound hs := ⟨by rw [h.notices]; exact hs.1, fun p hp => Nat.lt_of_lt_of_le (hs.2 p (h.notices ▸ hp)) h.fresh⟩
  kept _ p hp := h.notices ▸ hp

theorem LeasesGo.trans (hR : ∀ a b c, R a b → R b c → R a c) (h : LeasesGo R s t) (h' : LeasesGo R t u) : LeasesGo R s u where
  lreqs := h'.lreqs.trans h.lreqs
  extensions := h'.extensions.trans h.extensions
  stepped k := (h'.stepped k).trans (h.stepped k)
  found n l hn := by
    obtain ⟨m, hm, r⟩ := h.found n l hn
    obtain ⟨m', hm', r'⟩ := h'.found n m hm
    exact ⟨m', hm', hR _ _ _ r r'⟩
  objects p hp := by
    obtain ⟨q, hq, e⟩ := h'.objects p hp
    obtain ⟨q', hq', e'⟩ := h.objects q hq
    exact ⟨q', hq', e'.trans e⟩
  unarrived p hp := (h'.unarrived p hp).elim (fun hq => h.unarrived p hq) .inr
  sound hs := h'.sound (h.sound hs)
  kept hs p hp := h'.kept (h.sound hs) p (h.kept hs p hp)

theorem LeasesGo.modLease (hR : ∀ l, R l l) {f : Lease → Lease} (hf : ∀ l, tfind s.leases n = some l → R l (f l) ∧ (f l).obj = l.obj) :
    LeasesGo R s (s.modLease n f) := by
  unfold State.modLease
  split
  · next l hn =>
    obtain ⟨step, obj⟩ := hf l hn
    refine ⟨rfl, rfl, fun _ => rfl, fun i a ha => ?_, fun p hp => ?_, fun p hp => .inl hp, id, fun _ p hp => hp⟩
    · by_cases e : i = n
      · subst e
        obtain rfl := Option.some.inj (hn.symm.trans ha)
        exact ⟨_, tfind_tset_self .., step⟩
      · exact ⟨a, (tfind_tset_ne _ _ e).trans ha, hR a⟩
    · rcases mem_tset hp with rfl | hp
      · exact ⟨_, mem_of_tfind hn, obj.symm⟩
      · exact ⟨p, hp, rfl⟩
  · exact LeasesGo.outside hR (.refl s)

/-- A new notice leaves. -/
def State.addNotice (s : State) (z : Notice) : State := { s with notices := tset s.notices s.fresh z, fresh := s.fresh + 1 }

theorem LeasesGo.addNotice (hR : ∀ l, R l l) {z : Notice} (hz : z.arrived = false) : LeasesGo R s (s.addNotice z) where
  lreqs := rfl
  extensions := rfl
  stepped _ := rfl
  found _ l hn := ⟨l, hn, hR l⟩
  objects p hp := ⟨p, hp, rfl⟩
  unarrived p hp := (mem_tset hp).elim (fun e => .inr (by rw [e]; exact hz)) .inl
  sound hs := ⟨risesFrom_tset _ hs.1 (Nat.zero_le _), fun p hp => (mem_tset hp).elim
    (fun e => by rw [e]; exact Nat.lt_succ_self _) fun h => Nat.lt_succ_of_lt (hs.2 p h)⟩
  kept hs p hp := mem_of_tfind ((tfind_tset_ne _ _ (Nat.ne_of_lt (hs.2 p hp))).trans (tfind_of_mem hs.1 hp))

theorem LeasesGo.notified (h : LeasesGo R s t) (sound : s.NoticesSound) (hn : s.Notified n g) : t.Notified n g := by
  obtain ⟨p, hp, here⟩ := hn
  exact ⟨p, h.kept sound p hp, here⟩

/-! ## Leases that pass -/

/-- A lease that may have passed: of the same object, home, generation and parent, and not brought back. -/
structure Lease.Passed (l m : Lease) : Prop where
  home   : m.home = l.home
  gen    : m.gen = l.gen
  parent : m.parent = l.parent
  dead   : l.alive = false → m.alive = false

theorem Lease.Passed.refl (l : Lease) : l.Passed l := ⟨rfl, rfl, rfl, id⟩

theorem Lease.Passed.trans (a b c : Lease) (h : a.Passed b) (h' : b.Passed c) : a.Passed c :=
  ⟨h'.home.trans h.home, h'.gen.trans h.gen, h'.parent.trans h.parent, fun e => h'.dead (h.dead e)⟩

/-- Leases pass, and notices of it leave. -/
def Lapses (s t : State) : Prop := LeasesGo Lease.Passed s t

theorem Lapses.outside (h : s.Outside t) : Lapses s t := LeasesGo.outside .refl h
theorem Lapses.refl (s : State) : Lapses s s := .outside (.refl s)
theorem Lapses.trans (h : Lapses s t) (h' : Lapses t u) : Lapses s u := LeasesGo.trans Lease.Passed.trans h h'

theorem Lapses.modLease {f : Lease → Lease} (hf : ∀ l, (f l).home = l.home ∧ (f l).gen = l.gen ∧ (f l).parent = l.parent ∧ (f l).obj = l.obj ∧
    (f l).alive = false) : Lapses s (s.modLease n f) :=
  LeasesGo.modLease .refl fun l _ => by
    obtain ⟨home, gen, parent, obj, dead⟩ := hf l
    exact ⟨⟨home, gen, parent, fun _ => dead⟩, obj⟩

theorem Lapses.foldl {f : State → α → State} (h : Lapses s t) (hf : ∀ u x, Lapses s u → Lapses s (f u x)) (l : List α) :
    Lapses s (l.foldl f t) := by
  induction l generalizing t with
  | nil => exact h
  | cons x l ih => exact ih (hf t x h)

/-- A lease that is not held or granted. -/
def State.Dead (s : State) (n : Nat) : Prop := ∃ l, tfind s.leases n = some l ∧ l.alive = false

theorem Lapses.dead (h : Lapses s t) (hn : s.Dead n) : t.Dead n := by
  obtain ⟨l, hl, dead⟩ := hn
  obtain ⟨m, hm, passed⟩ := LeasesGo.found h n l hl
  exact ⟨m, hm, passed.dead dead⟩

/-! ## The parts of a lapse -/

theorem Lapses.notify (s : State) (n : Nat) : Lapses s (s.notify n) := by
  unfold State.notify
  split
  · exact .refl s
  · split
    · exact .refl s
    · exact LeasesGo.addNotice .refl rfl

/-- A lease's holders are told of its generation. -/
theorem State.notify_notified (hn : tfind s.leases n = some l) : (s.notify n).Notified n l.gen := by
  unfold State.notify
  simp only [hn]
  split
  · next told =>
    obtain ⟨p, hp, here⟩ := List.any_eq_true.1 told
    simp only [Bool.and_eq_true, decide_eq_true_eq] at here
    exact ⟨p, hp, here.1⟩
  · exact ⟨_, mem_of_tfind (tfind_tset_self ..), rfl, rfl⟩

theorem Lapses.lapseLock (s : State) (n : Nat) : Lapses s (s.lapseLock n) := by
  have passes : Lapses s (s.modLease n fun l => { l with st := .lapsed, last := l.holder, holder := none }) :=
    .modLease fun _ => ⟨rfl, rfl, rfl, rfl, rfl⟩
  unfold State.lapseLock
  split
  · exact .refl s
  · dsimp only
    split
    · exact passes
    · exact passes.trans (LeasesGo.addNotice .refl rfl)

/-- What the freeing of a lease's object ends beside it: a latch with its last tile, a region with its last page. -/
def State.objectFreed (s : State) (o : LeaseObj) : State :=
  match o with
  | .acc cell _ => if s.anyTile cell then s else s.latchReset cell
  | .page space va _ _ => s.regionEnds (partOf space) (va / 0x20_0000)
  | _ => s

theorem State.Outside.objectFreed (h : s₀.Outside s) {o : LeaseObj} : s₀.Outside (s.objectFreed o) := by
  unfold State.objectFreed
  split
  · exact h.ite h.latchReset
  · exact h.regionEnds
  · exact h

theorem State.toLapsed_eq (hn : tfind s.leases n = some l) : s.toLapsed n =
    if 16 ≤ l.home ∧ l.home < 528 then ((s.modLease n fun l => { l with st := .lapsed }).objectFreed l.obj).retryCell (l.home - 16)
    else (s.modLease n fun l => { l with st := .lapsed }).objectFreed l.obj := by
  unfold State.toLapsed
  rw [hn]
  rfl

theorem Lapses.toLapsed (s : State) (n : Nat) : Lapses s (s.toLapsed n) := by
  have passes : Lapses s (s.modLease n fun l => { l with st := .lapsed }) := .modLease fun _ => ⟨rfl, rfl, rfl, rfl, rfl⟩
  cases hn : tfind s.leases n with
  | none =>
    unfold State.toLapsed
    rw [hn]
    exact .refl s
  | some l =>
    have freed := (State.Outside.refl (s.modLease n fun l => { l with st := .lapsed })).objectFreed (o := l.obj)
    rw [State.toLapsed_eq hn]
    exact passes.trans (.outside (freed.retryCell.ite freed))

theorem Lapses.atPassage (s : State) (n : Nat) (l : Lease) : Lapses s (s.atPassage n l) := by
  have same := State.Outside.refl s
  unfold State.atPassage
  dsimp only
  split
  · exact .outside same.modEntry.endThreads
  · exact .outside same.lapseBooksIn
  · exact (Lapses.outside same.unbindClass).trans (.toLapsed ..)
  · exact .toLapsed ..
  · exact .lapseLock ..
  · exact .outside same.lapseGroup
  · exact (Lapses.outside same.endQueue).trans (.toLapsed ..)
  · exact .toLapsed ..
  · split
    · exact .toLapsed ..
    · exact .refl s
  · split
    · exact .outside same.lapseRing
    · exact .toLapsed ..
  · split
    · exact .refl s
    · exact .toLapsed ..
  · split
    · exact .refl s
    · exact .toLapsed ..
  · exact (Lapses.outside same.zeroise).trans (.modLease fun _ => ⟨rfl, rfl, rfl, rfl, rfl⟩)
  · exact .refl s

/-! ## The lapse -/

/-- A lease passes, before any other does because of it. -/
def State.passing (s : State) (n : Nat) (l : Lease) : State :=
  ((s.memberLapses n { l with since := s.fresh }).modLease n fun l => { l with st := .lapsing, since := s.fresh }).atPassage n
    { l with since := s.fresh }

/-- A child of a lease of the home unit `home` passes with it, or is told. -/
def State.lapseChild (k home : Nat) (s : State) (c : Nat) : State :=
  match tfind s.leases c with
  | some q => if homeUnit q.home = homeUnit home then s.lapse k c else s.notify c
  | none => s

/-- The leases below a lease that passes, and those of its ring, pass or are told. -/
def State.lapseBelow (s : State) (k n : Nat) (l : Lease) : State :=
  (s.childrenOf n).foldl (State.lapseChild k l.home)
    ((((s.memberLapses n { l with since := s.fresh }).modLease n fun l => { l with st := .lapsing, since := s.fresh }).homedInRing l.obj).foldl
      (fun s c => s.lapse k c) (s.passing n l))

theorem State.lapse_alive (hn : tfind s.leases n = some l) (ha : l.alive = true) : s.lapse (k + 1) n =
    ((s.lapseBelow k n l).copiesOf n { l with since := s.fresh }).foldl (fun s c => s.notify c) (s.lapseBelow k n l) := by
  rw [State.lapse]
  simp only [hn, ha, Bool.not_true, Bool.false_eq_true, if_false]
  rfl

theorem State.lapse_dead (hn : tfind s.leases n = some l) (ha : l.alive = false) : s.lapse (k + 1) n = s := by
  rw [State.lapse]
  simp only [hn, ha, Bool.not_false, if_true]

theorem State.lapse_none (hn : tfind s.leases n = none) : s.lapse k n = s := by
  cases k with
  | zero => rfl
  | succ k => rw [State.lapse, hn]

theorem Lapses.passing (s : State) (n : Nat) (l : Lease) : Lapses s (s.passing n l) := by
  have first : Lapses s (s.memberLapses n { l with since := s.fresh }) := .outside (State.Outside.refl s).memberLapses
  have passes : Lapses (s.memberLapses n { l with since := s.fresh })
    ((s.memberLapses n { l with since := s.fresh }).modLease n fun l => { l with st := .lapsing, since := s.fresh }) :=
    .modLease fun _ => ⟨rfl, rfl, rfl, rfl, rfl⟩
  exact (first.trans passes).trans (.atPassage ..)

theorem Lapses.lapseChild (hk : ∀ u c, Lapses u (u.lapse k c)) (s : State) (home c : Nat) : Lapses s (s.lapseChild k home c) := by
  unfold State.lapseChild
  split
  · split
    · exact hk ..
    · exact .notify ..
  · exact .refl s

theorem Lapses.lapse (k : Nat) : ∀ (s : State) (n : Nat), Lapses s (s.lapse k n) := by
  induction k with
  | zero => exact fun s _ => .refl s
  | succ k ih =>
    intro s n
    cases hn : tfind s.leases n with
    | none =>
      rw [State.lapse_none hn]
      exact .refl s
    | some l =>
      cases ha : l.alive with
      | false =>
        rw [State.lapse_dead hn ha]
        exact .refl s
      | true =>
        rw [State.lapse_alive hn ha]
        refine Lapses.foldl (.foldl (.foldl (.passing s n l) ?_ _) ?_ _) (fun u c h => h.trans (.notify u c)) _
        · exact fun u c h => h.trans (ih u c)
        · exact fun u c h => h.trans (.lapseChild ih u l.home c)

theorem State.passing_dead (hn : tfind s.leases n = some l) : (s.passing n l).Dead n := by
  have same := (State.Outside.refl s).memberLapses (n := n) (l := { l with since := s.fresh })
  refine (Lapses.atPassage _ n _).dead ⟨{ l with st := .lapsing, since := s.fresh }, ?_, rfl⟩
  rw [State.modLease, same.leases, hn]
  exact tfind_tset_self ..

/-- A lease that comes to its end has passed. -/
theorem State.dead_lapse (hn : tfind s.leases n = some l) : (s.lapse (k + 1) n).Dead n := by
  cases ha : l.alive with
  | false =>
    rw [State.lapse_dead hn ha]
    exact ⟨l, hn, ha⟩
  | true =>
    rw [State.lapse_alive hn ha]
    refine Lapses.dead (Lapses.foldl (Lapses.foldl (Lapses.foldl (.refl _) ?_ _) ?_ _) (fun u c h => h.trans (.notify u c)) _)
      (State.passing_dead hn)
    · exact fun u c h => h.trans (.lapse k u c)
    · exact fun u c h => h.trans (.lapseChild (Lapses.lapse k) u l.home c)

/-! ## The children of a lease that passes -/

/-- What a step of a fold brings about holds at its end, if later steps keep it. -/
theorem foldl_reaches {σ : Type} {f : σ → α → σ} {P Q : σ → Prop} {x : α} (hP : ∀ u y, P u → P (f u y)) (hit : ∀ u, P u → Q (f u x))
    (keep : ∀ u y, P u → Q u → Q (f u y)) {l : List α} {u : σ} (hx : x ∈ l) (h : P u) : Q (l.foldl f u) := by
  have stays (l : List α) : ∀ u, P u → Q u → Q (l.foldl f u) := by
    induction l with
    | nil => exact fun _ _ q => q
    | cons y l ih => exact fun u p q => ih _ (hP u y p) (keep u y p q)
  induction l generalizing u with
  | nil => cases hx
  | cons y l ih =>
    rcases List.mem_cons.1 hx with rfl | hx
    · exact stays l _ (hP u x h) (hit u h)
    · exact ih hx (hP u y h)

theorem State.mem_childrenOf {i : Nat} (hi : tfind s.leases i = some m) (parent : m.parent = some n) (alive : m.alive = true) :
    i ∈ s.childrenOf n :=
  List.mem_map.2 ⟨(i, m), List.mem_filter.2 ⟨mem_of_tfind hi, by simp [parent, alive]⟩, rfl⟩

section
variable {i : Nat} (hn : tfind s.leases n = some l) (ha : l.alive = true) (hi : tfind s.leases i = some m) (parent : m.parent = some n)
  (alive : m.alive = true)
include hn ha hi parent alive

/-- What the step for a child brings about holds after the lapse. -/
theorem State.lapse_child {Q : State → Prop} (hit : ∀ u q, Lapses s u → tfind u.leases i = some q → m.Passed q → Q (u.lapseChild (k + 1) l.home i))
    (keep : ∀ u v, Lapses s u → Lapses u v → Q u → Q v) : Q (s.lapse (k + 2) n) := by
  have above : Lapses s ((((s.memberLapses n { l with since := s.fresh }).modLease n fun l =>
      { l with st := .lapsing, since := s.fresh }).homedInRing l.obj).foldl (fun s c => s.lapse (k + 1) c) (s.passing n l)) :=
    Lapses.foldl (.passing s n l) (fun u c h => h.trans (.lapse _ u c)) _
  have step (u : State) (c : Nat) : Lapses u (u.lapseChild (k + 1) l.home c) := .lapseChild (Lapses.lapse _) u l.home c
  have below : Lapses s (s.lapseBelow (k + 1) n l) := Lapses.foldl above (fun u c h => h.trans (step u c)) _
  have reached : Q (s.lapseBelow (k + 1) n l) := by
    refine foldl_reaches (P := Lapses s) (fun u c h => h.trans (step u c)) (fun u h => ?_) (fun u c h q => keep _ _ h (step u c) q)
      (State.mem_childrenOf hi parent alive) above
    obtain ⟨q, hq, passed⟩ := LeasesGo.found h i m hi
    exact hit u q h hq passed
  rw [State.lapse_alive hn ha]
  exact keep _ _ below (Lapses.foldl (.refl _) (fun u c h => h.trans (.notify u c)) _) reached

/-- A child of the same home passes with the lease above it. -/
theorem State.lapse_child_near (near : homeUnit m.home = homeUnit l.home) : (s.lapse (k + 2) n).Dead i :=
  State.lapse_child (Q := fun t => t.Dead i) hn ha hi parent alive
    (fun u q _ hq passed => by
      rw [State.lapseChild, hq]
      dsimp only
      rw [if_pos (by rw [passed.home, near])]
      exact State.dead_lapse hq)
    fun u v _ h dead => h.dead dead

/-- A child of another home is told. -/
theorem State.lapse_child_far (sound : s.NoticesSound) (far : homeUnit m.home ≠ homeUnit l.home) : (s.lapse (k + 2) n).Notified i m.gen :=
  State.lapse_child (Q := fun t => t.Notified i m.gen) hn ha hi parent alive
    (fun u q _ hq passed => by
      rw [State.lapseChild, hq]
      dsimp only
      rw [if_neg (by rw [passed.home]; exact far), ← passed.gen]
      exact State.notify_notified hq)
    fun u v hu h told => LeasesGo.notified h (LeasesGo.sound hu sound) told

end

/-! ## A lease at its expiry tick (08 R191 stages 2 and 3) -/

theorem exec_leaseExpiry (hn : tfind s.leases n = some l) : exec (.leaseExpiry n) s = .next (
    if s.tickEnds (dieOfHome l.home) && (s.renewalsAt (dieOfHome l.home)).isEmpty && (s.extensionsAt (dieOfHome l.home)).isEmpty && l.alive &&
      decide (l.expiry ≤ s.ref (dieOfHome l.home)) && !s.endWaits l.obj then s.lapse 8 n else s) := by
  show execLeaseExpiry n s = _
  unfold execLeaseExpiry
  simp only [hn]
  exact (apply_ite _ _ _ _).symm

/-- A lease that has come to its expiry tick passes, its children with it or told. -/
theorem leaseExpiry_due (hn : tfind s.leases n = some l) (ends : s.tickEnds (dieOfHome l.home) = true)
    (renewed : s.renewalsAt (dieOfHome l.home) = []) (alive : l.alive = true) (extended : s.extensionsAt (dieOfHome l.home) = [])
    (waits : s.endWaits l.obj = false) (sound : s.NoticesSound) (due : l.expiry ≤ s.ref (dieOfHome l.home)) :
    ∃ t, exec (.leaseExpiry n) s = .next t ∧ t.Dead n ∧ ∀ i m, tfind s.leases i = some m → m.parent = some n → m.alive = true →
      (homeUnit m.home = homeUnit l.home → t.Dead i) ∧
      (homeUnit m.home ≠ homeUnit l.home → ∃ j z, tfind t.notices j = some z ∧ z.lease = i ∧ z.gen = m.gen) := by
  refine ⟨s.lapse 8 n, ?_, State.dead_lapse hn, fun i m hi parent live => ⟨fun near => ?_, fun far => ?_⟩⟩
  · rw [exec_leaseExpiry hn, ends, renewed, extended, alive, waits, decide_eq_true due]
    rfl
  · exact State.lapse_child_near hn alive hi parent live near
  · obtain ⟨⟨j, z⟩, hz, lease, gen⟩ := State.lapse_child_far (k := 6) hn alive hi parent live sound far
    exact ⟨j, z, tfind_of_mem (LeasesGo.sound (Lapses.lapse 8 s n) sound).1 hz, lease, gen⟩

theorem leaseExpiry_early (hn : tfind s.leases n = some l) (early : s.ref (dieOfHome l.home) < l.expiry) : exec (.leaseExpiry n) s = .next s := by
  rw [exec_leaseExpiry hn, decide_eq_false (Nat.not_le.2 early)]
  simp

end

end Sys2Proof.Machine
end

section
/-! PROOFS. The tick step of a die's homes, when at most one renewal has arrived (05 R121; 08 R191, R198; 10 R219). -/

set_option Elab.async false

namespace Sys2Proof.Machine

section
variable {s t u : State} {l m : Lease} {n q die part : Nat} {r : LeaseReq} {x : Extension} {k : Nat}

/-! ## Demotions change whether a range is pinned alone (10 R219) -/

/-- A lease whose range may have been demoted. -/
def Lease.Demoted (l m : Lease) : Prop := m = { l with pinned := m.pinned }

theorem Lease.Demoted.trans (a b c : Lease) (h : a.Demoted b) (h' : b.Demoted c) : a.Demoted c := by
  unfold Lease.Demoted at *
  rw [h', h]

theorem LeasesGo.mono {R Q : Lease → Lease → Prop} (h : LeasesGo R s t) (hR : ∀ l m, R l m → Q l m) : LeasesGo Q s t := by
  refine ⟨h.lreqs, h.extensions, h.stepped, fun n l hn => ?_, h.objects, h.unarrived, h.sound, h.kept⟩
  obtain ⟨m, hm, step⟩ := h.found n l hn
  exact ⟨m, hm, hR l m step⟩

theorem Lease.Demoted.passed (h : l.Demoted m) : l.Passed m := by
  rw [h]
  exact ⟨rfl, rfl, rfl, id⟩

/-- Ranges are demoted, and their holders told. -/
def Demotes (s t : State) : Prop := LeasesGo Lease.Demoted s t

theorem Demotes.outside (h : s.Outside t) : Demotes s t := LeasesGo.outside (fun _ => rfl) h
theorem Demotes.trans (h : Demotes s t) (h' : Demotes t u) : Demotes s u := LeasesGo.trans Lease.Demoted.trans h h'
theorem Demotes.lapses (h : Demotes s t) : Lapses s t := LeasesGo.mono h fun _ _ => Lease.Demoted.passed

theorem Demotes.demoteOne (s : State) (part die : Nat) : Demotes s (s.demoteOne part die) := by
  unfold State.demoteOne
  dsimp only
  split
  · exact .outside (.refl s)
  · next n l _ =>
    have demoted : Demotes s (s.modLease n fun l => { l with pinned := false }) := 
      LeasesGo.modLease (R := Lease.Demoted) (fun _ => rfl) fun _ _ => ⟨rfl, rfl⟩
    split
    · exact demoted.trans (.outside (State.Outside.refl _).classReport)
    · exact demoted

theorem Demotes.demoteAll (part die : Nat) (k : Nat) : ∀ s : State, Demotes s (s.demoteAll part die k) := by
  induction k with
  | zero => exact fun s => .outside (.refl s)
  | succ k ih =>
    intro s
    unfold State.demoteAll
    split
    · exact (Demotes.demoteOne ..).trans (ih _)
    · exact .outside (.refl s)

/-! ## The stages after the renewals (08 R191) -/

/-- The tick step has begun at a die. -/
def State.stepBegun (s : State) (die : Nat) : State := s.modDie die fun d => { d with stepped := some (s.ref die) }

/-- Stages 2 to 6 of the tick step. -/
def State.stepEnds (s : State) (die : Nat) : State :=
  let s := (s.expired die).foldl (fun s n => s.lapse 8 n) s
  let s := (s.noticesAt die).foldl (fun s p => s.applyNotice p.1 p.2) s
  let s := (s.heldAt die).foldl (fun s n => s.leaseArrives n) s
  let s := (s.locksToServe die).foldl (fun s p => s.serveLock p.1 p.2) s
  let s := (s.timeouts die).foldl (fun s p => s.timeOut p.1 p.2) s
  (s.overAllowance die).foldl (fun s p => s.demoteAll p die 64) s

theorem exec_homeTickStep (ends : s.tickEnds die = true) (unticked : s.ticked die = false) (hd : die < 4) : exec (.homeTickStep die) s = .next
    (((((s.stepBegun die).renewalsAt die).foldl (fun s p => s.applyRenewal p.1 p.2) (s.stepBegun die)).applyExtensions die).stepEnds die) := by
  show execHomeTickStep die s = _
  unfold execHomeTickStep
  have inside : decide (Config.dies ≤ die) = false := decide_eq_false (Nat.not_le.2 hd)
  simp only [ends, unticked, inside, Bool.not_true, Bool.or_self, Bool.false_eq_true, if_false]
  rfl

theorem exec_homeTickStep_waits (h : s.tickEnds die = false ∨ s.ticked die = true ∨ 4 ≤ die) : exec (.homeTickStep die) s = .next s := by
  show execHomeTickStep die s = _
  unfold execHomeTickStep
  refine if_pos ?_
  rcases h with h | h | h
  · rw [h]
    rfl
  · rw [h, Bool.or_true, Bool.true_or]
  · rw [decide_eq_true (show Config.dies ≤ die from h), Bool.or_true]

/-- No notice, no request that waits and no lock is there for the tick step. -/
structure State.NothingWaits (s : State) : Prop where
  notices  : s.notices = []
  requests : ∀ p, p ∈ s.lreqs → p.2.held = false ∧ p.2.parked = false
  unlocked : ∀ p, p ∈ s.leases → ∀ x y, p.2.obj ≠ .lock x y

section
variable (h : s.NothingWaits) (go : Lapses s t)
include h go

theorem State.NothingWaits.noticesAt : t.noticesAt die = [] := by
  refine List.filter_eq_nil_iff.2 fun p hp => ?_
  rcases LeasesGo.unarrived go p hp with old | new
  · rw [h.notices] at old
    cases old
  · rw [new]
    exact Bool.false_ne_true

theorem State.NothingWaits.requests' : ∀ p, p ∈ t.lreqs → p.2.held = false ∧ p.2.parked = false := by
  rw [LeasesGo.lreqs go]
  exact h.requests

theorem State.NothingWaits.heldAt : t.heldAt die = [] := by
  refine List.map_eq_nil_iff.2 (List.filter_eq_nil_iff.2 fun p hp => ?_)
  rw [(h.requests' go p hp).1]
  exact Bool.false_ne_true

theorem State.NothingWaits.locksToServe : t.locksToServe die = [] := by
  refine List.filterMap_eq_nil_iff.2 fun p hp => ?_
  split
  · next a b hobj =>
    obtain ⟨q, hq, same⟩ := LeasesGo.objects go p hp
    exact absurd (same.trans hobj) (h.unlocked q hq a b)
  · rfl

theorem State.NothingWaits.timeouts : t.timeouts die = [] := by
  refine List.filter_eq_nil_iff.2 fun p hp => ?_
  rw [State.waitOver, (h.requests' go p hp).2]
  exact Bool.false_ne_true

end

theorem State.NothingWaits.stepEnds (h : s.NothingWaits) : ∃ t, t = (s.expired die).foldl (fun s n => s.lapse 8 n) s ∧ Lapses s t ∧
    Demotes t (s.stepEnds die) := by
  have go : Lapses s ((s.expired die).foldl (fun s n => s.lapse 8 n) s) := Lapses.foldl (.refl s) (fun u n k => k.trans (.lapse 8 u n)) _
  refine ⟨_, rfl, go, ?_⟩
  unfold State.stepEnds
  generalize (s.expired die).foldl (fun s n => s.lapse 8 n) s = t at *
  simp only [h.noticesAt go, h.heldAt go, h.locksToServe go, h.timeouts go, List.foldl_nil]
  generalize t.overAllowance die = l
  have fold (l : List Nat) : ∀ u, Demotes u (l.foldl (fun s p => s.demoteAll p die 64) u) := by
    induction l with
    | nil => exact fun u => .outside (.refl u)
    | cons p l ih => exact fun u => (Demotes.demoteAll p die 64 u).trans (ih _)
  exact fold l t

/-- The stages after the renewals leave the requests, and lapse leases at most. -/
theorem State.NothingWaits.lapses (h : s.NothingWaits) : Lapses s (s.stepEnds die) := by
  obtain ⟨t, -, go, demotes⟩ := h.stepEnds (die := die)
  exact go.trans demotes.lapses

/-- With no lease at its end they demote ranges at most. -/
theorem State.NothingWaits.demotes (h : s.NothingWaits) (none : s.expired die = []) : Demotes s (s.stepEnds die) := by
  obtain ⟨t, rfl, -, demotes⟩ := h.stepEnds (die := die)
  rwa [none] at demotes

/-! ## A renewal applied (05 R121; 08 R198) -/

/-- A request that is answered or refused at the tick step. -/
def LeaseReq.settled (r : LeaseReq) (a : Option Word) (f : Option Byte) : LeaseReq := { r with arrived := none, answer := a, fault := f }

/-- A lease that runs on for `life` ticks from the home's tick. -/
def State.extended (s : State) (l : Lease) (life : Nat) : Lease := { l with expiry := max l.expiry (s.tickOf l.home + life) }

theorem State.extend_eq (hn : tfind s.leases n = some l) (life : Nat) : ∃ b, s.extend n life =
    { s with leases := tset s.leases n { s.extended l life with pinned := b } } := by
  have set : (s.modLease n fun l => s.extended l life) = { s with leases := tset s.leases n (s.extended l life) } := by
    rw [State.modLease, hn]
  have found : tfind ({ s with leases := tset s.leases n (s.extended l life) } : State).leases n = some (s.extended l life) := tfind_tset_self ..
  have ran : s.extend n life = ({ s with leases := tset s.leases n (s.extended l life) } : State).repin n := congrArg (State.repin · n) set
  rw [ran]
  have still : ∃ b, ({ s with leases := tset s.leases n (s.extended l life) } : State) =
      { s with leases := tset s.leases n { s.extended l life with pinned := b } } := ⟨l.pinned, rfl⟩
  unfold State.repin
  rw [found]
  dsimp only
  split
  · split
    · refine ⟨true, ?_⟩
      unfold State.modLease
      rw [found]
      dsimp only
      rw [tset_tset]
    · exact still
  · exact still

theorem State.renewalLate_iff (hs : s.notices = []) (order : Nat) : s.renewalLate n l order = true ↔ l.alive = false ∨ l.expiry < s.tickOf l.home := by
  unfold State.renewalLate State.noticed
  rw [hs]
  simp

theorem State.applyRenewal_eq (hn : s.entryOf r.xa (dieOfCell (s.ctx r.ctx).cell) = some (n, l)) : s.applyRenewal q r =
    if l.gen ≠ handleGen r.xa then { s with lreqs := tset s.lreqs q (r.settled none (some 0x09)) }
    else if s.renewalLate n l r.order then { s with lreqs := tset s.lreqs q (r.settled none (some 0x08)) }
    else { s.extend n r.xb.toNat with lreqs := tset (s.extend n r.xb.toNat).lreqs q (r.settled (some 0) none) } := by
  unfold State.applyRenewal
  simp only [hn]
  rfl

end

end Sys2Proof.Machine
end

section
/-! PROOFS. The tick step with one renewal, at its home or at a copy of its lease (05 R121; 08 R191, R198). -/

set_option Elab.async false

namespace Sys2Proof.Machine

section
variable {s t u : State} {l m : Lease} {n q die : Nat} {r : LeaseReq} {x : Extension}

/-! ## A die's tick step, begun -/

theorem State.cyc_stepBegun (k : Nat) : (s.stepBegun die).cyc k = s.cyc k := State.cyc_modDie rfl

theorem State.ref_stepBegun (k : Nat) : (s.stepBegun die).ref k = s.ref k := congrArg (· / 32) (State.cyc_stepBegun k)

theorem State.stepped_stepBegun : ((s.stepBegun die).die die).stepped = some (s.ref die) := by
  rw [State.stepBegun, State.die_modDie_self]

theorem State.applyExtensions_none (h : s.extensions = []) : s.applyExtensions die = s := by
  have none : s.extensionsAt die = [] := by rw [State.extensionsAt, h]; rfl
  unfold State.applyExtensions
  simp only [none, List.foldl_nil, h, List.filter_nil]
  rw [← h]

theorem State.renewalsAt_none (h : s.lreqs = []) : s.renewalsAt die = [] := by rw [State.renewalsAt, h]; rfl

theorem State.renewalsAt_one (h : s.lreqs = [(q, r)]) (hop : r.op = .renew) (arrived : r.arrived.isSome) (there : s.dieOfReq r = die) :
    s.renewalsAt die = [(q, r)] := by
  rw [State.renewalsAt, h]
  simp only [List.filter_cons, hop, arrived, there, decide_true, Bool.and_self, if_true, List.filter_nil, List.foldl_cons, List.foldl_nil]
  rfl

/-! ## One lease apart, none is at its end -/

/-- No other lease has come to its end at the tick of a die, and nothing waits for its tick step. -/
structure State.TickQuiet (s : State) (die n : Nat) : Prop where
  ends     : s.tickEnds die = true
  unticked : s.ticked die = false
  inside   : die < 4
  notices  : s.notices = []
  later    : ∀ p, p ∈ s.leases → p.1 ≠ n → p.2.alive = true → s.tickOf p.2.home < p.2.expiry
  unlocked : ∀ p, p ∈ s.leases → ∀ x y, p.2.obj ≠ .lock x y
  rises    : risesFrom 0 s.leases = true

section
variable (quiet : s.TickQuiet die n)
include quiet

/-- A lease that runs on leaves none at its end. -/
theorem State.TickQuiet.none_expired (leases : u.leases = tset s.leases n m) (tick : u.ref die = s.ref die) (runs : s.tickOf m.home < m.expiry) :
    u.expired die = [] := by
  refine List.map_eq_nil_iff.2 (List.filter_eq_nil_iff.2 fun p hp due => ?_)
  rw [leases] at hp
  have found := tfind_of_mem (risesFrom_tset m quiet.rises (Nat.zero_le n)) hp
  rw [tfind_tset] at found
  simp only [Bool.and_eq_true, decide_eq_true_eq, tick] at due
  obtain ⟨⟨⟨home, alive⟩, over_⟩, -⟩ := due
  have on : s.tickOf p.2.home < p.2.expiry := by
    split at found
    · cases found
      exact runs
    · next other => exact quiet.later p (mem_of_tfind found) other alive
  rw [State.tickOf, home] at on
  exact absurd over_ (Nat.not_le.2 on)

/-- A renewal changes one lease, and no object. -/
theorem State.TickQuiet.unlocked_tset (hn : tfind s.leases n = some l) (obj : m.obj = l.obj) (leases : u.leases = tset s.leases n m) :
    ∀ p, p ∈ u.leases → ∀ a b, p.2.obj ≠ .lock a b := by
  intro p hp
  rw [leases] at hp
  rcases mem_tset hp with rfl | hp
  · show ∀ a b, m.obj ≠ _
    rw [obj]
    exact quiet.unlocked _ (mem_of_tfind hn)
  · exact quiet.unlocked p hp

end

/-! ## A renewal at its home -/

/-- One renewal has arrived at the homes of a die, for a lease of the index that its handle names. -/
structure State.OneRenewal (s : State) (die q : Nat) (r : LeaseReq) (n : Nat) (l : Lease) : Prop where
  quiet      : s.TickQuiet die n
  extensions : s.extensions = []
  lreqs      : s.lreqs = [(q, r)]
  op         : r.op = .renew
  arrived    : r.arrived.isSome
  unheld     : r.held = false
  unparked   : r.parked = false
  there      : s.dieOfReq r = die
  entry      : s.entryOf r.xa (dieOfCell (s.ctx r.ctx).cell) = some (n, l)
  found      : tfind s.leases n = some l

section
variable (h : s.OneRenewal die q r n l)
include h

theorem State.OneRenewal.outcome (kept : ((s.stepBegun die).applyRenewal q r).extensions = []) :
    exec (.homeTickStep die) s = .next (((s.stepBegun die).applyRenewal q r).stepEnds die) := by
  have there' : (s.stepBegun die).dieOfReq r = die := by
    rw [← h.there]
    unfold State.dieOfReq
    simp only [h.op]
    rfl
  rw [exec_homeTickStep h.quiet.ends h.quiet.unticked h.quiet.inside, State.renewalsAt_one (s := s.stepBegun die) h.lreqs h.op h.arrived there']
  exact congrArg _ (congrArg (State.stepEnds · die) (State.applyExtensions_none kept))

/-- The request, answered or refused, waits no more. -/
theorem State.OneRenewal.settled {a : Option Word} {f : Option Byte} {p : Nat × LeaseReq} (hp : p ∈ tset s.lreqs q (r.settled a f)) :
    p.2.held = false ∧ p.2.parked = false := by
  rw [h.lreqs] at hp
  rcases mem_tset hp with rfl | hp
  · exact ⟨h.unheld, h.unparked⟩
  · rw [List.mem_singleton] at hp
    subst hp
    exact ⟨h.unheld, h.unparked⟩

/-- A renewal that is refused. -/
theorem State.OneRenewal.refuses {f : Byte} (applied : (s.stepBegun die).applyRenewal q r =
    { s.stepBegun die with lreqs := tset s.lreqs q (r.settled none (some f)) }) :
    ∃ t, exec (.homeTickStep die) s = .next t ∧ (t.die die).stepped = some (s.ref die) ∧ tfind t.lreqs q = some (r.settled none (some f)) := by
  have idle : ({ s.stepBegun die with lreqs := tset s.lreqs q (r.settled none (some f)) } : State).NothingWaits :=
    ⟨h.quiet.notices, fun p hp => h.settled hp, h.quiet.unlocked⟩
  have go := idle.lapses (die := die)
  refine ⟨_, h.outcome (by rw [applied]; exact h.extensions), ?_, ?_⟩
  · rw [applied]
    exact (LeasesGo.stepped go die).trans State.stepped_stepBegun
  · rw [applied, LeasesGo.lreqs go]
    exact tfind_tset_self ..

/-- A renewal of another generation. -/
theorem State.OneRenewal.refuses_stale (gen : l.gen ≠ handleGen r.xa) : ∃ t, exec (.homeTickStep die) s = .next t ∧
    (t.die die).stepped = some (s.ref die) ∧ tfind t.lreqs q = some (r.settled none (some 0x09)) :=
  h.refuses ((State.applyRenewal_eq (s := s.stepBegun die) h.entry).trans (if_pos gen))

/-- A renewal that comes too late. -/
theorem State.OneRenewal.refuses_late (gen : l.gen = handleGen r.xa) (late : l.alive = false ∨ l.expiry < s.tickOf l.home) :
    ∃ t, exec (.homeTickStep die) s = .next t ∧ (t.die die).stepped = some (s.ref die) ∧
      tfind t.lreqs q = some (r.settled none (some 0x08)) := by
  have late' : (s.stepBegun die).renewalLate n l r.order = true := by
    refine (State.renewalLate_iff (s := s.stepBegun die) h.quiet.notices r.order).2 (late.imp id fun k => ?_)
    rw [State.tickOf, State.ref_stepBegun]
    exact k
  exact h.refuses ((State.applyRenewal_eq (s := s.stepBegun die) h.entry).trans ((if_neg (not_not.2 gen)).trans (if_pos late')))

/-- A renewal that is granted. -/
theorem State.OneRenewal.renews (gen : l.gen = handleGen r.xa) (alive : l.alive = true) (due : s.tickOf l.home ≤ l.expiry)
    (life : 0 < r.xb.toNat) : ∃ t, exec (.homeTickStep die) s = .next t ∧ (t.die die).stepped = some (s.ref die) ∧
      (∃ m, tfind t.leases n = some m ∧ m.alive = true ∧ m.expiry = max l.expiry (s.tickOf l.home + r.xb.toNat)) ∧
      tfind t.lreqs q = some (r.settled (some 0) none) := by
  have tick (k : Nat) : (s.stepBegun die).tickOf k = s.tickOf k := State.ref_stepBegun _
  have punctual : (s.stepBegun die).renewalLate n l r.order = false := by
    refine Bool.eq_false_iff.2 fun late => ?_
    rcases (State.renewalLate_iff (s := s.stepBegun die) h.quiet.notices r.order).1 late with dead | late
    · rw [alive] at dead
      cases dead
    · rw [tick] at late
      exact absurd due (Nat.not_le.2 late)
  obtain ⟨b, extend⟩ := State.extend_eq (s := s.stepBegun die) h.found r.xb.toNat
  have applied : (s.stepBegun die).applyRenewal q r = { s.stepBegun die with
      leases := tset s.leases n { (s.stepBegun die).extended l r.xb.toNat with pinned := b }
      lreqs := tset s.lreqs q (r.settled (some 0) none) } := by
    rw [State.applyRenewal_eq (s := s.stepBegun die) h.entry, if_neg (not_not.2 gen), punctual, if_neg Bool.false_ne_true, extend]
    rfl
  have idle : ((s.stepBegun die).applyRenewal q r).NothingWaits := by
    rw [applied]
    exact ⟨h.quiet.notices, fun p hp => h.settled hp,
      h.quiet.unlocked_tset h.found (by rfl) rfl⟩
  have none : ((s.stepBegun die).applyRenewal q r).expired die = [] := by
    rw [applied]
    refine h.quiet.none_expired rfl (State.ref_stepBegun die) ?_
    show s.tickOf l.home < max l.expiry ((s.stepBegun die).tickOf l.home + r.xb.toNat)
    rw [tick]
    exact Nat.lt_of_lt_of_le (Nat.lt_add_of_pos_right life) (Nat.le_max_right ..)
  have go := idle.demotes none
  refine ⟨_, h.outcome (by rw [applied]; exact h.extensions), ?_, ?_, ?_⟩
  · exact (LeasesGo.stepped go die).trans (by rw [applied]; exact State.stepped_stepBegun)
  · obtain ⟨m, hm, demoted⟩ := LeasesGo.found go n _ (by rw [applied]; exact tfind_tset_self ..)
    refine ⟨m, hm, by rw [demoted]; exact alive, ?_⟩
    rw [demoted, ← tick]
    rfl
  · rw [LeasesGo.lreqs go, applied]
    exact tfind_tset_self ..

end

/-! ## A renewal at a copy -/

/-- A renewal that is granted at a copy. -/
theorem State.TickQuiet.extends (quiet : s.TickQuiet die n) (lreqs : s.lreqs = []) (extensions : s.extensions = [x]) (lease : x.lease = n)
    (hn : tfind s.leases n = some l) (home : l.home = die) (gen : x.gen = l.gen) (alive : l.alive = true) (due : s.tickOf l.home ≤ l.expiry) (life : 0 < x.life) :
    ∃ t m, exec (.homeTickStep die) s = .next t ∧ t.extensions = [] ∧ tfind t.leases n = some m ∧ m.alive = true ∧
      m.expiry = max l.expiry (s.tickOf l.home + x.life) := by
  have tick (k : Nat) : (s.stepBegun die).tickOf k = s.tickOf k := State.ref_stepBegun _
  let w : State := { s.stepBegun die with extensions := [] }
  have punctual : w.renewalLate n l x.order = false := by
    refine Bool.eq_false_iff.2 fun late => ?_
    rcases (State.renewalLate_iff (s := w) quiet.notices x.order).1 late with dead | late
    · rw [alive] at dead
      cases dead
    · exact absurd due (Nat.not_le.2 (by rw [← tick]; exact late))
  have mine : (s.stepBegun die).extensionsAt die = [x] := by
    have there : tfind (s.stepBegun die).leases x.lease = some l := lease ▸ hn
    rw [State.extensionsAt, show (s.stepBegun die).extensions = [x] from extensions]
    simp only [List.filter_cons, there, home, decide_true, if_true, List.filter_nil]
  obtain ⟨b, extend⟩ := State.extend_eq (s := w) hn x.life
  have applied : (s.stepBegun die).applyExtensions die = { w with leases := tset s.leases n { w.extended l x.life with pinned := b } } := by
    have gone : ((s.stepBegun die).extensions.filter fun e => !List.contains [x] e) = [] := by
      rw [show (s.stepBegun die).extensions = [x] from extensions]
      simp
    unfold State.applyExtensions
    simp only [mine, gone, List.foldl_cons, List.foldl_nil]
    show w.applyExtension x = _
    unfold State.applyExtension
    rw [lease, show tfind w.leases n = some l from hn]
    dsimp only
    rw [if_pos ⟨gen.symm, by rw [punctual]; rfl⟩, extend]
    rfl
  have idle : ((s.stepBegun die).applyExtensions die).NothingWaits := by
    rw [applied]
    refine ⟨quiet.notices, fun p hp => ?_, quiet.unlocked_tset hn (by rfl) rfl⟩
    exact absurd (show p ∈ s.lreqs from hp) (by rw [lreqs]; exact List.not_mem_nil)
  have none : ((s.stepBegun die).applyExtensions die).expired die = [] := by
    rw [applied]
    refine quiet.none_expired rfl (State.ref_stepBegun die) ?_
    show s.tickOf l.home < max l.expiry ((s.stepBegun die).tickOf l.home + x.life)
    rw [tick]
    exact Nat.lt_of_lt_of_le (Nat.lt_add_of_pos_right life) (Nat.le_max_right ..)
  have go := idle.demotes none
  obtain ⟨m, hm, demoted⟩ := LeasesGo.found go n _ (by rw [applied]; exact tfind_tset_self ..)
  refine ⟨_, m, ?_, ?_, hm, by rw [demoted]; exact alive, ?_⟩
  · rw [exec_homeTickStep quiet.ends quiet.unticked quiet.inside, State.renewalsAt_none (s := s.stepBegun die) lreqs]
    rfl
  · rw [LeasesGo.extensions go, applied]
  · rw [demoted, ← tick]
    rfl

end

end Sys2Proof.Machine
end

section
/-! PROOFS. The end of LAPSING, scrub jobs and cache sweeps (08 R199; 19 R350-R353). -/

set_option Elab.async false

namespace Sys2Proof.Machine

section
variable {s t u : State} {l m : Lease} {n e die cell part k : Nat} {j : Job} {z : Notice}

/-! ## Notices arrive (08 R197) -/

theorem exec_lapseNotice (h : tfind s.notices e = some z) (hg : z.guard = none) : exec (.lapseNotice e) s = .next (if z.arrived then s else
    { s with notices := tset s.notices e { z with arrived := true, order := s.fresh }, fresh := s.fresh + 1 }) := by
  show execLapseNotice e s = _
  unfold execLapseNotice
  simp only [h, hg, Option.isSome_none, Bool.false_or]
  split <;> rfl

/-! ## A lease passes to LAPSED -/

theorem State.toLapsed_found (h : tfind s.leases n = some l) : tfind (s.toLapsed n).leases n = some { l with st := .lapsed } := by
  have set : tfind (s.modLease n fun l => { l with st := .lapsed }).leases n = some { l with st := .lapsed } := by
    rw [State.modLease, h]
    exact tfind_tset_self ..
  have freed := (State.Outside.refl (s.modLease n fun l => { l with st := .lapsed })).objectFreed (o := l.obj)
  rw [State.toLapsed_eq h]
  exact (congrArg (tfind · n) (freed.retryCell.ite freed).leases).trans set

/-! ## The end of LAPSING (08 R199) -/

/-- What a lease's end leaves to be scrubbed: its save areas' images, then its object's job. -/
def State.finalJobs (s : State) (n : Nat) (l : Lease) : State :=
  let s := s.startImages n
  match l.obj with
  | .sp cell _ k =>
    s.startJob { lease := some n, die := dieOfCell cell, part := some l.part, cell := some cell, bytes := k * 4096, row := cell } (k * 64)
  | .acc cell _ =>
    s.startJob { lease := some n, die := dieOfCell cell, part := some l.part, cell := some cell, bytes := 0x8000, row := rowOfTiles cell } 8
  | .page _ _ big _ =>
    match s.pages.find? fun (p : Page) => p.lease = n && !p.second with
    | some p =>
      let size := if big then 0x20_0000 else 0x1_0000
      (s.endPage n).startJob
        { lease := some n, die := p.die, part := some l.part, bytes := size, row := rowDram
          frames := (List.range (size / 0x1_0000)).map (· + p.frame) } (size / 1024)
    | none => s
  | .ring part r =>
    (List.range 8).foldl
      (fun s k => s.startJob
        { lease := some n, die := l.home, part := some part, cell := some (8 * r + k), bytes := 0x24_0000, row := rowOfRing (8 * r + k) } 36864) s
  | .slice part k =>
    s.startJob { lease := some n, die := l.home, part := some part, bytes := sliceBytes, row := rowOfSlice k } (sliceBytes / 128)
  | .chan part g _ _ =>
    let fs := (s.die l.home).owned.filter fun f => f / groupFrames = g % 16
    if fs.isEmpty then s
    else s.startJob
      { lease := some n, die := l.home, part := some part, frames := fs, bytes := 0x1_0000 * fs.length, row := rowDram } (64 * fs.length)
  | .delivery k => { s with ends := tdel s.ends k }
  | _ => s

/-- A job of the lease waits or runs. -/
def State.jobOf (s : State) (n : Nat) : Bool := s.jobs.any fun p => p.2.lease = some n

theorem State.endLapsing_eq : s.endLapsing n l =
    if (s.finalJobs n l).jobOf n then (s.finalJobs n l).modLease n fun l => { l with st := .scrubbing } else (s.finalJobs n l).toLapsed n := rfl

theorem State.Outside.endPage {s₀ : State} (h : s₀.Outside s) : s₀.Outside (s.endPage n) := by
  have lines := h.foldl (f := fun s p => s.modDie p.die fun d =>
    { d with l2 := d.l2.filter fun x => !decide (p.frame * 0x1_0000 ≤ x.1 ∧ x.1 < p.frame * 0x1_0000 + p.size) })
    (fun _ _ h1 => h1.modDie fun _ => rfl) (s.pages.filter fun p => p.lease = n)
  unfold State.endPage
  exact lines.same

theorem State.Outside.delJob {s₀ : State} (h : s₀.Outside s) {js : Table Job} : s₀.Outside { s with jobs := js } := h.same

theorem State.Outside.startImages {s₀ : State} (h : s₀.Outside s) : s₀.Outside (s.startImages n) :=
  h.foldl (fun _ _ h1 => h1.delJob.startJob) _

theorem State.Outside.finalJobs (s : State) (n : Nat) (l : Lease) : s.Outside (s.finalJobs n l) := by
  have images : s.Outside (s.startImages n) := (State.Outside.refl s).startImages
  unfold State.finalJobs
  dsimp only
  split
  · exact images.startJob
  · exact images.startJob
  · split
    · exact images.endPage.startJob
    · exact images
  · exact images.foldl (fun _ _ h1 => h1.startJob) _
  · exact images.startJob
  · exact images.ite images.startJob
  · exact images.same
  · exact images

theorem State.startImages_pages (s : State) (n : Nat) : (s.startImages n).pages = s.pages := by
  unfold State.startImages
  generalize (s.jobs.filter fun p => p.2.lease = some n && p.2.endAt.isNone) = js
  induction js generalizing s with
  | nil => rfl
  | cons p js ih => exact ih _

theorem State.startJob_found (s : State) (j : Job) (cycles : Nat) :
    ∃ i w, tfind (s.startJob j cycles).jobs i = some w ∧ w.lease = j.lease ∧ w.bytes = j.bytes :=
  ⟨s.fresh, _, tfind_tset_self .., rfl, rfl⟩

/-- A job of the lease, of so many bytes. -/
def State.JobOf (s : State) (n bytes : Nat) : Prop := ∃ i w, tfind s.jobs i = some w ∧ w.lease = some n ∧ w.bytes = bytes

theorem State.JobOf.jobOf {b : Nat} (h : s.JobOf n b) : s.jobOf n = true := by
  obtain ⟨i, w, hw, lease, -⟩ := h
  exact List.any_eq_true.2 ⟨(i, w), mem_of_tfind hw, decide_eq_true lease⟩

theorem State.finalJobs_sp {b : Nat} (h : l.obj = .sp cell b k) : (s.finalJobs n l).JobOf n (k * 4096) := by
  rw [State.finalJobs, h]
  exact State.startJob_found ..

theorem State.finalJobs_acc (h : l.obj = .acc cell k) : (s.finalJobs n l).JobOf n 0x8000 := by
  rw [State.finalJobs, h]
  exact State.startJob_found ..

/-- The scrub of a page. -/
def pageJob (n part : Nat) (q : Page) (big : Bool) : Job :=
  { lease := some n, die := q.die, part := some part, bytes := if big then 0x20_0000 else 0x1_0000, row := rowDram
    frames := (List.range ((if big then 0x20_0000 else 0x1_0000) / 0x1_0000)).map (· + q.frame) }

theorem State.finalJobs_page {p va : Nat} {big ver : Bool} (h : l.obj = .page p va big ver)
    (backed : ∃ g, g ∈ s.pages ∧ g.lease = n ∧ g.second = false) :
    (s.finalJobs n l).jobOf n = true ∧ ∀ g, g ∈ (s.finalJobs n l).pages → g.lease ≠ n := by
  obtain ⟨g, hg, lease, first⟩ := backed
  have found : ((s.startImages n).pages.find? fun (p : Page) => p.lease = n && !p.second).isSome := by
    rw [State.startImages_pages]
    exact List.find?_isSome.2 ⟨g, hg, by simp [lease, first]⟩
  obtain ⟨q, hq⟩ := Option.isSome_iff_exists.1 found
  have jobs : s.finalJobs n l = ((s.startImages n).endPage n).startJob (pageJob n l.part q big) ((if big then 0x20_0000 else 0x1_0000) / 1024) := by
    rw [State.finalJobs, h]
    simp only [hq]
    rfl
  rw [jobs]
  refine ⟨State.JobOf.jobOf (State.startJob_found ..), fun x hx => ?_⟩
  exact of_decide_eq_true (List.mem_filter.1 hx).2

theorem exec_lapsingEnd (h : tfind s.leases n = some l) : exec (.lapsingEnd n) s =
    .next (if l.st = .lapsing && s.itemsDone l then s.endLapsing n l else s) := by
  show execLapsingEnd n s = _
  unfold execLapsingEnd
  simp only [h]
  exact (apply_ite _ _ _ _).symm

theorem State.endLapsing_scrubs (h : tfind s.leases n = some l) (job : (s.finalJobs n l).jobOf n = true) :
    tfind (s.endLapsing n l).leases n = some { l with st := .scrubbing } ∧ (s.endLapsing n l).jobs = (s.finalJobs n l).jobs ∧
      (s.endLapsing n l).pages = (s.finalJobs n l).pages := by
  have found : tfind (s.finalJobs n l).leases n = some l := by rw [(State.Outside.finalJobs s n l).leases, h]
  rw [State.endLapsing_eq, if_pos job, State.modLease, found]
  exact ⟨tfind_tset_self .., rfl, rfl⟩

theorem State.endLapsing_frees (h : tfind s.leases n = some l) (job : ¬ (s.finalJobs n l).jobOf n = true) :
    tfind (s.endLapsing n l).leases n = some { l with st := .lapsed } := by
  rw [State.endLapsing_eq, if_neg job]
  exact State.toLapsed_found (by rw [(State.Outside.finalJobs s n l).leases, h])

/-- LAPSING ends in a scrub of what the object holds, or at once. -/
theorem lapsingEnd_done (h : tfind s.leases n = some l) (hs : l.st = .lapsing) (done : s.itemsDone l = true) : ∃ t m,
    exec (.lapsingEnd n) s = .next t ∧ tfind t.leases n = some m ∧ (m.st = .scrubbing ∨ m.st = .lapsed) ∧
      (∀ c b k, l.obj = .sp c b k → m.st = .scrubbing ∧ t.JobOf n (k * 4096)) ∧
      (∀ c k, l.obj = .acc c k → m.st = .scrubbing ∧ t.JobOf n 0x8000) ∧
      (∀ p va big ver, l.obj = .page p va big ver → (∃ g, g ∈ s.pages ∧ g.lease = n ∧ g.second = false) →
        m.st = .scrubbing ∧ ∀ g, g ∈ t.pages → g.lease ≠ n) := by
  have run : exec (.lapsingEnd n) s = .next (s.endLapsing n l) := by
    rw [exec_lapsingEnd h, hs, done]
    rfl
  by_cases job : (s.finalJobs n l).jobOf n = true
  · obtain ⟨found, jobs, pages⟩ := State.endLapsing_scrubs h job
    have kept {b : Nat} (k : (s.finalJobs n l).JobOf n b) : (s.endLapsing n l).JobOf n b := by
      unfold State.JobOf at *
      rwa [jobs]
    refine ⟨_, _, run, found, .inl rfl, fun c b k obj => ⟨rfl, kept (State.finalJobs_sp obj)⟩, fun c k obj => ⟨rfl, kept (State.finalJobs_acc obj)⟩,
      fun p va big ver obj backed => ⟨rfl, ?_⟩⟩
    rw [pages]
    exact (State.finalJobs_page obj backed).2
  · exact ⟨_, _, run, State.endLapsing_frees h job, .inr rfl, fun c b k obj => absurd (State.finalJobs_sp obj).jobOf job,
      fun c k obj => absurd (State.finalJobs_acc obj).jobOf job, fun p va big ver obj backed => absurd (State.finalJobs_page obj backed).1 job⟩

end

end Sys2Proof.Machine
end

section
/-! PROOFS. The ends of scrub jobs and of cache sweeps (19 R350-R353). -/

set_option Elab.async false

namespace Sys2Proof.Machine

section
variable {s t u : State} {l m : Lease} {n e i die cell part k : Nat} {j : Job}

/-! ## A job's end -/

theorem State.toLapsed_plain (hn : tfind s.leases n = some l) (h : ∀ c k, l.obj ≠ .acc c k) :
    ∃ ls es ps, s.toLapsed n = { s with leases := ls, entries := es, parts := ps } := by
  have set : (s.modLease n fun l => { l with st := .lapsed }) = { s with leases := tset s.leases n { l with st := .lapsed } } := by
    rw [State.modLease, hn]
  have rest (u : State) : ∃ ps, u.objectFreed l.obj = { u with parts := ps } := by
    unfold State.objectFreed
    split
    · next obj => exact absurd obj (h _ _)
    · unfold State.regionEnds
      dsimp only
      split
      · exact ⟨_, rfl⟩
      · exact ⟨_, rfl⟩
    · exact ⟨_, rfl⟩
  obtain ⟨ps, rest⟩ := rest { s with leases := tset s.leases n { l with st := .lapsed } }
  rw [State.toLapsed_eq hn, set, rest]
  split
  · exact ⟨_, _, _, rfl⟩
  · exact ⟨_, _, _, rfl⟩

/-- The state with a job's objects cleared and the job gone. -/
def State.jobCleared (s : State) (e : Nat) (j : Job) : State := { s.clearJob j with jobs := tdel s.jobs e }

/-- The end of a job of a lease, none of a partition. -/
theorem State.jobDone_eq (lease : j.lease = some n) (part : j.part = none) : s.jobDone e j =
    if (s.jobCleared e j).jobOf n then s.jobCleared e j else (s.jobCleared e j).toLapsed n := by
  unfold State.jobDone
  simp only [lease, part, State.jobsOver]
  rfl

/-- The end of a lease's last job frees it. -/
theorem State.jobDone_last (lease : j.lease = some n) (part : j.part = none) (rises : risesFrom 0 s.jobs = true)
    (last : ∀ p, p ∈ s.jobs → p.1 ≠ e → p.2.lease ≠ some n) : s.jobDone e j = (s.jobCleared e j).toLapsed n := by
  rw [State.jobDone_eq lease part, if_neg]
  rw [State.jobOf, List.any_eq_true]
  rintro ⟨p, hp, mine⟩
  exact last p (mem_of_mem_tdel hp) (ne_of_mem_tdel rises hp) (of_decide_eq_true mine)

/-- What a job clears where it names no book, frames or areas: a scratchpad range, or nothing of a key. -/
theorem State.clearJob_sp {b c : Nat} (book : j.book = none) (frames : j.frames = []) (areas : j.areas = []) (lease : j.lease = some n)
    (hn : tfind s.leases n = some l) (obj : l.obj = .sp c b k) : s.clearJob j =
      (s.clearFrames j.die []).modCell c fun x => { x with spad := x.spad.clear (b * 4096) (k * 4096) } := by
  have found : tfind (s.clearFrames j.die []).leases n = some l := hn
  unfold State.clearJob
  simp only [book, frames, areas, lease, List.foldl_nil, Option.bind_some, found, Option.map_some, obj]

theorem State.clearJob_key {p : Nat} (book : j.book = none) (frames : j.frames = []) (areas : j.areas = []) (lease : j.lease = some n)
    (hn : tfind s.leases n = some l) (obj : l.obj = .key p k) : s.clearJob j = s.clearFrames j.die [] := by
  have found : tfind (s.clearFrames j.die []).leases n = some l := hn
  unfold State.clearJob
  simp only [book, frames, areas, lease, List.foldl_nil, Option.bind_some, found, Option.map_some, obj]

theorem State.jobOver_of (h : ∃ at_, j.endAt = some at_ ∧ at_ ≤ s.cyc j.die) : s.jobOver j = true := by
  obtain ⟨at_, set, due⟩ := h
  rw [State.jobOver, set]
  exact decide_eq_true due

/-! ## The scrub of a scratchpad range -/

/-- A scratchpad range as its scrub leaves it. -/
def State.SpScrubbed (s t : State) (c b k : Nat) : Prop :=
  (∀ i, mget (t.cell c).spad.bytes i = if b * 4096 ≤ i ∧ i < (b + k) * 4096 then 0 else mget (s.cell c).spad.bytes i) ∧
    (∀ i, b * 4096 ≤ 8 * i → 8 * i < (b + k) * 4096 → i ∉ (t.cell c).spad.full) ∧
    ∀ i, b * 4096 ≤ 16 * i → 16 * i < (b + k) * 4096 → i ∉ (t.cell c).spad.tags

theorem State.spScrubbed_of_clear {c b : Nat} (h : (t.cell c).spad = (s.cell c).spad.clear (b * 4096) (k * 4096)) : s.SpScrubbed t c b k := by
  unfold State.SpScrubbed
  rw [h, Nat.add_mul]
  refine ⟨fun i => Bank.mget_clear .., fun i lo hi hf => ?_, fun i lo hi hf => ?_⟩
  · have out := (List.mem_filter.1 hf).2
    rw [decide_eq_true ⟨lo, hi⟩] at out
    cases out
  · have out := (List.mem_filter.1 hf).2
    rw [decide_eq_true ⟨lo, hi⟩] at out
    cases out

theorem scrubJobComplete_sp {c b : Nat} (hj : tfind s.jobs e = some j) (lease : j.lease = some n) (hn : tfind s.leases n = some l)
    (obj : l.obj = .sp c b k) (book : j.book = none) (frames : j.frames = []) (areas : j.areas = []) (row : j.row ≠ rowSweep)
    (due : ∃ at_, j.endAt = some at_ ∧ at_ ≤ s.cyc j.die) (part : j.part = none) (rises : risesFrom 0 s.jobs = true) :
    ∃ t, exec (.scrubJobComplete e) s = .next t ∧ tfind t.jobs e = none ∧ s.SpScrubbed t c b k ∧
      ((∀ p, p ∈ s.jobs → p.1 ≠ e → p.2.lease ≠ some n) → ∃ m, tfind t.leases n = some m ∧ m.st = .lapsed) := by
  have run : exec (.scrubJobComplete e) s = .next (s.jobDone e j) := by
    show execScrubJobComplete e s = _
    unfold execScrubJobComplete
    simp only [hj, row, State.jobOver_of due, ne_eq, not_false_eq_true, decide_true, Bool.and_self, if_true]
  have cleared := State.clearJob_sp book frames areas lease hn obj
  have found : tfind (s.jobCleared e j).leases n = some l := by
    rw [State.jobCleared, cleared]
    exact hn
  obtain ⟨ls, es, ps, plain⟩ := State.toLapsed_plain (s := s.jobCleared e j) found (by rw [obj]; exact fun _ _ => nofun)
  have spad : ((s.jobCleared e j).cell c).spad = (s.cell c).spad.clear (b * 4096) (k * 4096) := by
    show ((s.clearJob j).cell c).spad = _
    rw [cleared, State.cell_modCell_self]
    rfl
  have gone : tfind (s.jobCleared e j).jobs e = none := (tfind_tdel rises e e).trans (if_pos rfl)
  refine ⟨_, run, ?_, State.spScrubbed_of_clear ?_, fun last => ⟨{ l with st := .lapsed }, ?_, rfl⟩⟩
  · rw [State.jobDone_eq lease part]
    split
    · exact gone
    · rw [plain]
      exact gone
  · rw [State.jobDone_eq lease part]
    split
    · exact spad
    · rw [plain]
      exact spad
  · rw [State.jobDone_last lease part rises last]
    exact State.toLapsed_found found

/-! ## A key slot's sweep (19 R353) -/

/-- The one job of a lease is its last. -/
theorem last_of_single (hj : (e, j) ∈ s.jobs) (lease : j.lease = some n) (single : (s.jobs.filter fun p => p.2.lease = some n).length = 1) :
    ∀ p, p ∈ s.jobs → p.1 ≠ e → p.2.lease ≠ some n := by
  obtain ⟨q, hq⟩ := List.length_eq_one_iff.1 single
  have only (p : Nat × Job) (hp : p ∈ s.jobs) (mine : p.2.lease = some n) : p = q := by
    have there : p ∈ s.jobs.filter fun p => p.2.lease = some n := List.mem_filter.2 ⟨hp, decide_eq_true mine⟩
    rw [hq] at there
    exact List.mem_singleton.1 there
  exact fun p hp ne mine => ne (congrArg Prod.fst ((only p hp mine).trans (only (e, j) hj lease).symm))

/-- The pages under a key. -/
def State.keyPages (s : State) (p k : Nat) : List Page := s.pages.filter fun g => s.underKey p k g

/-- Does an address of a die lie in one of the pages? -/
def inFrames (die : Nat) (mine : List Page) (pa : Nat) : Bool :=
  mine.any fun p => p.die = die && decide (p.frame * 0x1_0000 ≤ pa ∧ pa < p.frame * 0x1_0000 + p.size)

/-- A cell without the lines of the pages. -/
def Cell.swept (mine : List Page) (c : Cell) : Cell := { c with l1 := c.l1.filter fun l => !(mine.any fun p => p.backs l.2.sid.toNat l.2.va) }

/-- A die without the lines of the pages, those left in its DRAM poisoned. -/
def Die.swept (die : Nat) (mine : List Page) (d : Die) : Die :=
  let lines := d.written.filter fun w => inFrames die mine (128 * w)
  let marks := lines.foldl (fun t w => (List.range 16).foldl (fun t k => nins t (16 * w + k)) t) d.dram.poison
  { d with l2 := d.l2.filter fun l => !(inFrames die mine l.1), dram := { d.dram with poison := marks } }

theorem State.sweep_eq (s : State) (die p k : Nat) : s.sweep die p k =
    ({ s with cells := s.cells.map fun c => (c.1, if dieOfCell c.1 = die then c.2.swept (s.keyPages p k) else c.2) } : State).modDie die
      (Die.swept die (s.keyPages p k)) := rfl

theorem tfind_mapKey {α β : Type} (t : Table α) (g : Nat → α → β) (k : Nat) : tfind (t.map fun d => (d.1, g d.1 d.2)) k = (tfind t k).map (g k) := by
  induction t with
  | nil => rfl
  | cons p t ih =>
    obtain ⟨j, w⟩ := p
    simp only [List.map_cons, tfind]
    split
    · next e => rw [e]; rfl
    · exact ih

/-- No line of a page under the key is left in the caches of the die. -/
def State.Swept (s t : State) (die p k : Nat) : Prop := ∀ g, g ∈ s.pages → s.underKey p k g = true →
  (g.die = die → ∀ x, x ∈ (t.die die).l2 → ¬ (g.frame * 0x1_0000 ≤ x.1 ∧ x.1 < g.frame * 0x1_0000 + g.size)) ∧
  ∀ c, dieOfCell c = die → ∀ x, x ∈ (t.cell c).l1 → g.backs x.2.sid.toNat x.2.va = false

theorem State.swept_sweep (s : State) (die p k : Nat) : s.Swept (s.sweep die p k) die p k := by
  intro g hg under
  have mine : g ∈ s.keyPages p k := List.mem_filter.2 ⟨hg, under⟩
  refine ⟨fun home x hx inside => ?_, fun c hc x hx => ?_⟩
  · rw [State.sweep_eq, State.die_modDie_self] at hx
    have out := (List.mem_filter.1 hx).2
    rw [inFrames, List.any_eq_true.2 ⟨g, mine, by rw [decide_eq_true home, decide_eq_true inside]; rfl⟩] at out
    cases out
  · have here : tfind (s.sweep die p k).cells c = (tfind s.cells c).map (Cell.swept (s.keyPages p k)) :=
      (tfind_mapKey s.cells (fun i c => if dieOfCell i = die then c.swept (s.keyPages p k) else c) c).trans
        (congrArg (Option.map · _) (funext fun y => if_pos hc))
    rw [State.cell, tget, here] at hx
    cases found : tfind s.cells c with
    | none =>
      rw [found] at hx
      cases hx
    | some y =>
      rw [found] at hx
      have out := (List.mem_filter.1 hx).2
      rw [Bool.not_eq_true'] at out
      exact Bool.eq_false_iff.2 fun back => absurd (List.any_eq_true.2 ⟨g, mine, back⟩) (by rw [out]; exact Bool.false_ne_true)

/-- The end of the sweep of a key's copy frees it. -/
theorem cacheSweep_ends {p : Nat} (hf : (s.jobs.find? fun p => p.2.lease = some n && p.2.row = rowSweep && p.2.die = die) = some (i, j))
    (hn : tfind s.leases n = some l) (obj : l.obj = .key p k) (due : ∃ at_, j.endAt = some at_ ∧ at_ ≤ s.cyc die) (book : j.book = none)
    (frames : j.frames = []) (areas : j.areas = []) (part : j.part = none)
    (single : (s.jobs.filter fun p => p.2.lease = some n).length = 1) (rises : risesFrom 0 s.jobs = true) :
    ∃ t m, exec (.cacheSweep die n) s = .next t ∧ tfind t.leases n = some m ∧ m.st = .lapsed ∧ s.Swept t die p k := by
  have spec := List.find?_some hf
  simp only [Bool.and_eq_true, decide_eq_true_eq] at spec
  obtain ⟨⟨lease, -⟩, there⟩ := spec
  have run : exec (.cacheSweep die n) s = .next ((s.sweep die p k).jobDone i j) := by
    have ended : s.jobOver j = true := State.jobOver_of (by rw [there]; exact due)
    show execCacheSweep die n s = _
    unfold execCacheSweep
    simp only [hf, hn, obj, ended, if_true]
  have found : tfind (s.sweep die p k).leases n = some l := hn
  have cleared : (s.sweep die p k).jobCleared i j = { (s.sweep die p k).clearFrames j.die [] with jobs := tdel s.jobs i } := by
    rw [State.jobCleared, State.clearJob_key book frames areas lease found obj]
    rfl
  have kept : tfind ((s.sweep die p k).jobCleared i j).leases n = some l := by
    rw [cleared]
    exact hn
  obtain ⟨ls, es, ps, plain⟩ := State.toLapsed_plain kept (by rw [obj]; exact fun _ _ => nofun)
  have done : (s.sweep die p k).jobDone i j = ((s.sweep die p k).jobCleared i j).toLapsed n :=
    State.jobDone_last lease part (show risesFrom 0 (s.sweep die p k).jobs = true from rises)
      (last_of_single (List.mem_of_find?_eq_some hf) lease single)
  refine ⟨_, { l with st := .lapsed }, run, ?_, rfl, fun g hg under => ?_⟩
  · rw [done]
    exact State.toLapsed_found kept
  · obtain ⟨l2, l1⟩ := s.swept_sweep die p k g hg under
    rw [done, plain, cleared]
    refine ⟨fun home x hx => l2 home x ?_, l1⟩
    have same : (((s.sweep die p k).clearFrames j.die []).die die).l2 = ((s.sweep die p k).die die).l2 := by
      rw [State.clearFrames, State.die_modDie]
      split
      · next e => rw [e]
      · rfl
    rw [← same]
    exact hx

end

end Sys2Proof.Machine
end

section
/-! PROOFS. Lease requests at their homes, their replies, and the drain and grant of locks, as events (05 R120-R126; 08 R194; 10 R217). -/

set_option Elab.async false

namespace Sys2Proof.Machine

section
variable {s t u w : State} {l m : Lease} {n q e cell : Nat} {r : LeaseReq} {c x : Ctx} {v : Word} {h : Holder} {z : Notice}

/-! ## Requests at their homes (05 R120-R125) -/

theorem exec_leaseRequestArrival (hq : tfind s.lreqs q = some r) (hop : r.op ≠ .llk) (arrived : r.arrived = none) (answer : r.answer = none)
    (fault : r.fault = none) : exec (.leaseRequestArrival q) s = .next (s.leaseArrives q) := by
  show execLeaseRequestArrival q s = _
  unfold execLeaseRequestArrival
  simp only [hq, hop, arrived, answer, fault, Option.isSome_none, Bool.false_eq_true, or_self, if_false]

theorem exec_llkRequestArrival (hq : tfind s.lreqs q = some r) (hop : r.op = .llk) (arrived : r.arrived = none) (answer : r.answer = none) :
    exec (.llkRequestArrival q) s = .next (s.leaseArrives q) := by
  show execLlkRequestArrival q s = _
  unfold execLlkRequestArrival
  simp only [hq, hop, arrived, answer, Option.isSome_none, ne_eq, not_true_eq_false, Bool.false_eq_true, or_self, if_false]

section
variable (hq : tfind s.lreqs q = some r) (hc : tfind s.ctxs r.ctx = some c)
include hq hc

theorem State.leaseArrives_life (hop : r.op = .life) : s.leaseArrives q =
    { s with fresh := s.fresh + 1, lreqs := tset s.lreqs q (r.answered s.fresh (s.lifeAt c r.xa) none) } := by
  unfold State.leaseArrives
  simp only [hq, hc, hop]
  rw [LeaseReq.answered, hop]
  rfl

theorem State.leaseArrives_spreads (hop : r.op = .renew) : ∃ es, s.leaseArrives q = { s with
    lreqs := tset s.lreqs q { r with
      order := s.fresh, arrived := some (s.tickOf (if handleHome r.xa = 0 then dieOfCell c.cell else handleHome r.xa)) }
    extensions := es, fresh := s.fresh + 1 } := by
  rw [State.leaseArrives_renew hq hc hop, State.spread_frame, ← hop]
  exact ⟨_, rfl⟩

end

/-! ## Replies (05 R119-R125; 08 R194) -/

/-- The state in which a grant's reply is in its cell. -/
def State.grantHere (s : State) (q n : Nat) (r : LeaseReq) (v : Word) : State := (((s.replied q r).heldNow n).enterGuards n v).rewritePath r n

/-- A context that keeps its registers, its pc and its counts as it takes a grant. -/
structure Ctx.TakesGrant (c x : Ctx) : Prop where
  pc       : x.pc = c.pc
  leaseNum : x.leaseNum = c.leaseNum
  acqMark  : x.acqMark = c.acqMark
  regs     : ∀ k, x.x? k = c.x? k

theorem Ctx.TakesGrant.rewrites (l : Lease) (k : Nat) (c : Ctx) : c.TakesGrant (l.rewrites k c) := by
  rw [l.rewrites_eq k c]
  exact ⟨rfl, rfl, rfl, fun _ => rfl⟩

theorem State.grantHere_spec (hc : tfind s.ctxs r.ctx = some c) (hn : tfind s.leases n = some l) :
    (s.grantHere q n r v).cur = r.ctx ∧ (s.grantHere q n r v).stamp = s.stamp ∧ c.TakesGrant (s.grantHere q n r v).self ∧
      tfind (s.grantHere q n r v).leases n = some { l with st := if l.st = .granted then .held else l.st } := by
  have held : (s.replied q r).heldNow n = { s.replied q r with leases := tset s.leases n { l with st := if l.st = .granted then .held else l.st } } :=
    State.modLease_eq _ hn
  have frame := State.enterGuards_frame (u := (s.replied q r).heldNow n) (n := n) (v := v)
  have found : tfind (((s.replied q r).heldNow n).enterGuards n v).leases n = some { l with st := if l.st = .granted then .held else l.st } := by
    rw [frame, held]
    exact tfind_tset_self ..
  have cur : (((s.replied q r).heldNow n).enterGuards n v).cur = r.ctx := by rw [frame, held]; rfl
  have self : (((s.replied q r).heldNow n).enterGuards n v).self = c := by
    rw [frame, held]
    exact State.ctx_of_found hc
  obtain ⟨only, took⟩ := State.rewritePath_spec (r := r) found cur.symm
  refine ⟨?_, ?_, ?_, ?_⟩
  · rw [State.grantHere, only]
    exact cur
  · rw [State.grantHere, only, frame, held]
    rfl
  · rw [State.grantHere, took, self]
    exact .rewrites ..
  · rw [State.grantHere, only]
    exact found

/-- A lease reply completes its instruction. -/
def Ctx.LeaseDone (c x : Ctx) (d : BitVec 5) (v : Word) : Prop :=
  x.pc = c.pc + 4 ∧ x.wait = .none ∧ ∀ k : BitVec 5, x.x? k.toNat = if k = d ∧ k ≠ 0 then v else c.x? k.toNat

/-- The acting context writes xd and completes. -/
theorem State.finish_wx (w : State) (d : BitVec 5) (v : Word) : ∃ x, tfind ((w.wx d v).finish).ctxs w.cur = some x ∧ w.self.LeaseDone x d v ∧
    x.leaseNum = w.self.leaseNum ∧ x.acqMark = w.self.acqMark := by
  have self : (w.wx d v).self = w.self.setX d.toNat v := State.self_mod ..
  refine ⟨_, State.tfind_mod_self (w.wx d v) _, ⟨?_, rfl, fun k => ?_⟩, ?_, ?_⟩
  · rw [self]
    exact congrArg (· + 4) (w.self.tookX_keeps d (some v)).1
  · rw [self]
    exact w.self.x?_tookX d (some v) k
  · rw [self]
    unfold Ctx.setX
    split <;> rfl
  · rw [self]
    unfold Ctx.setX
    split <;> rfl

theorem State.numbered_spec {op : LeaseOp} (h : op = .llk ∨ ∃ k, op = .lacq k) :
    (w.numbered op).cur = w.cur ∧ (w.numbered op).leases = w.leases ∧ (w.numbered op).self = { w.self with leaseNum := w.self.leaseNum + 1 } := by
  rcases h with rfl | ⟨k, rfl⟩
  · exact ⟨rfl, rfl, State.self_mod ..⟩
  · exact ⟨rfl, rfl, State.self_mod ..⟩

/-- The state that takes a grant, an acquire where it is a lock's. -/
def State.grantTaken (w : State) (r : LeaseReq) : State := if r.op = .llk then w.acquire r.ctx else w

theorem State.leaseReply_grants (hq : tfind s.lreqs q = some r) (ha : r.answer = some v) (hg : r.granted = some n)
    (hw : (s.ctx r.ctx).wait = .lease q) (hop : r.op = .llk ∨ ∃ k, r.op = .lacq k) :
    s.leaseReply q = ((((s.grantHere q n r v).grantTaken r).numbered r.op).wx r.xd v).finish := by
  rcases hop with hop | ⟨k, hop⟩
  · rw [State.leaseReply_lock hq ha hg hw hop, State.grantTaken, if_pos hop, hop]
    rfl
  · rw [State.leaseReply_granted hq ha hg hw hop, State.grantTaken, if_neg (by rw [hop]; exact nofun)]
    rfl

theorem exec_grantReplyDelivery (hq : tfind s.lreqs q = some r) (ha : r.answer = some v) (hg : r.granted = some n) :
    exec (.grantReplyDelivery q) s = .next (s.leaseReply q) := by
  show execGrantReplyDelivery q s = _
  unfold execGrantReplyDelivery
  simp only [hq, ha, hg, Option.isSome_some, Bool.and_self, if_true]

theorem grantReply_taken (hq : tfind s.lreqs q = some r) (hc : tfind s.ctxs r.ctx = some c) (ha : r.answer = some v) (hw : c.wait = .lease q)
    (hg : r.granted = some n) (hop : r.op = .llk ∨ ∃ k, r.op = .lacq k) (hn : tfind s.leases n = some l) :
    ∃ t m x, exec (.grantReplyDelivery q) s = .next t ∧ tfind t.ctxs r.ctx = some x ∧ c.LeaseDone x r.xd v ∧ x.leaseNum = c.leaseNum + 1 ∧
      tfind t.leases n = some m ∧ m.st = (if l.st = .granted then .held else l.st) ∧
      x.acqMark = (if r.op = .llk then s.stamp + 1 else c.acqMark) := by
  have run := State.leaseReply_grants hq ha hg (by rw [State.ctx_of_found hc]; exact hw) hop
  obtain ⟨cur, stamp, took, lease⟩ := State.grantHere_spec (q := q) (v := v) hc hn
  generalize s.grantHere q n r v = w at *
  have taken : (w.grantTaken r).cur = r.ctx ∧ (w.grantTaken r).leases = w.leases ∧
      (w.grantTaken r).self = { w.self with acqMark := if r.op = .llk then s.stamp + 1 else c.acqMark } := by
    unfold State.grantTaken
    split
    · refine ⟨cur, rfl, ?_⟩
      rw [← cur, State.acquire_self, stamp]
    · exact ⟨cur, rfl, by rw [← took.acqMark]⟩
  obtain ⟨cur', leases', self'⟩ := taken
  obtain ⟨cur'', leases'', self''⟩ := State.numbered_spec (w := w.grantTaken r) hop
  obtain ⟨x, found, ⟨pc, wait, regs⟩, num, mark⟩ := ((w.grantTaken r).numbered r.op).finish_wx r.xd v
  rw [self'', self'] at pc num mark regs
  rw [cur'', cur'] at found
  refine ⟨_, { l with st := if l.st = .granted then .held else l.st }, x, (exec_grantReplyDelivery hq ha hg).trans (congrArg _ run), found,
    ⟨?_, wait, fun k => ?_⟩, ?_, ?_, rfl, mark⟩
  · rw [pc]
    exact congrArg (· + 4) took.pc
  · rw [regs k]
    exact if_congr Iff.rfl rfl (took.regs k.toNat)
  · rw [num]
    exact congrArg (· + 1) took.leaseNum
  · exact (congrArg (tfind · n) (leases''.trans leases')).trans lease

theorem exec_leaseReplyArrival (hq : tfind s.lreqs q = some r) (hg : r.granted = none) (h : r.answer.isSome = true ∨ r.fault.isSome = true) :
    exec (.leaseReplyArrival q) s = .next (s.leaseReply q) := by
  show execLeaseReplyArrival q s = _
  unfold execLeaseReplyArrival
  have there : (r.answer.isSome || r.fault.isSome) = true := Bool.or_eq_true_iff.2 h
  simp only [hq, hg, there, Option.isNone_none, Bool.and_self, if_true]

theorem leaseReply_taken (hq : tfind s.lreqs q = some r) (hc : tfind s.ctxs r.ctx = some c) (ha : r.answer = some v) (hw : c.wait = .lease q)
    (hg : r.granted = none) : ∃ t x, exec (.leaseReplyArrival q) s = .next t ∧ tfind t.ctxs r.ctx = some x ∧ c.LeaseDone x r.xd v ∧
      t.leases = s.leases := by
  have run := State.leaseReply_ungranted hq ha hg (by rw [State.ctx_of_found hc]; exact hw)
  have same : ((s.replied q r).numbered r.op).cur = r.ctx ∧ ((s.replied q r).numbered r.op).leases = s.leases ∧
      ∃ k, ((s.replied q r).numbered r.op).self = { c with leaseNum := k } := by
    have self : (s.replied q r).self = c := State.ctx_of_found hc
    unfold State.numbered
    split
    · exact ⟨rfl, rfl, _, by rw [State.self_mod, self]⟩
    · exact ⟨rfl, rfl, _, by rw [State.self_mod, self]⟩
    · exact ⟨rfl, rfl, c.leaseNum, self⟩
  obtain ⟨cur, leases, k, self⟩ := same
  obtain ⟨x, found, done, -, -⟩ := ((s.replied q r).numbered r.op).finish_wx r.xd v
  rw [self] at done
  rw [cur] at found
  exact ⟨_, x, (exec_leaseReplyArrival hq hg (.inl (by rw [ha]; rfl))).trans (congrArg _ run), found, done, leases⟩

/-- A refused renewal traps. -/
theorem leaseReply_traps {code : Byte} (hq : tfind s.lreqs q = some r) (hc : tfind s.ctxs r.ctx = some c) (ha : r.answer = none)
    (hg : r.granted = none) (hf : r.fault = some code) (hw : c.wait = .lease q) (handler : (c.trapRegs (trapLevel c.pl)).tvec ≠ 0)
    (hb : code ≠ 0x0C) (hp : code ≠ 0x0D) : ∃ t, exec (.leaseReplyArrival q) s = .next t ∧
      Trapped { s with cur := r.ctx, lreqs := tdel s.lreqs q } t (code.zeroExtend 13) c.pc 0 := by
  have self : ({ s with cur := r.ctx, lreqs := tdel s.lreqs q } : State).self = c := State.ctx_of_found hc
  have waits : (({ s with lreqs := tdel s.lreqs q } : State).ctx r.ctx).wait = .lease q := (congrArg Ctx.wait (State.ctx_of_found hc)).trans hw
  have run : s.leaseReply q = ({ s with cur := r.ctx, lreqs := tdel s.lreqs q } : State).trap code 0 := by
    unfold State.leaseReply
    simp only [hq, ha, hf, waits, ne_eq, not_true_eq_false, if_false, Option.getD_some]
  have trapped := State.trapped_trap { s with cur := r.ctx, lreqs := tdel s.lreqs q } code 0 (by unfold State.hasHandler; rw [self]; exact handler) hp hb
  rw [self] at trapped
  exact ⟨_, (exec_leaseReplyArrival hq hg (.inr (by rw [hf]; rfl))).trans (congrArg _ run), trapped⟩

end

end Sys2Proof.Machine
end

section
/-! PROOFS. Locks between instructions: requests that park or are granted, wait bounds, drains, grants and guard notices (05 R125, R126; 10 R217). -/

set_option Elab.async false

namespace Sys2Proof.Machine

section
variable {s t u w : State} {l m : Lease} {n q e cell : Nat} {r : LeaseReq} {c x : Ctx} {h : Holder} {z : Notice}

/-! ## The grant -/

/-- What a grant leaves in the lease and the request. -/
structure GrantsLock (s t : State) (q n : Nat) (l : Lease) (r : LeaseReq) (c : Ctx) (m : Lease) : Prop where
  lease    : tfind t.leases n = some m
  request  : tfind t.lreqs q = some (r.lockAnswered m.handle n)
  granted  : m = { s.lockGrant l r c with parent := m.parent, order := m.order }

theorem State.grantLock_grants (hn : tfind s.leases n = some l) (hq : tfind s.lreqs q = some r) (hc : tfind s.ctxs r.ctx = some c) :
    ∃ m, GrantsLock s (s.grantLock n q) q n l r c m := by
  refine ⟨s.lockGrant l r c, ?_, ?_, rfl⟩
  · rw [State.grantLock_eq hn hq hc, (Flushes.cleared s (r.holder c)).lockGrant]
    exact tfind_tset_self ..
  · rw [State.grantLock_eq hn hq hc, (Flushes.cleared s (r.holder c)).lockGrant]
    exact tfind_tset_self ..

theorem exec_lockGrant (hn : tfind s.leases n = some l) (draining : l.draining = some q) (ready : l.drained = true ∨ l.last = none) :
    exec (.lockGrant n) s = .next (s.grantLock n q) := by
  show execLockGrant n s = _
  unfold execLockGrant
  have due : (l.drained || l.last.isNone) = true := Bool.or_eq_true_iff.2 (ready.imp id fun e => by rw [e]; rfl)
  simp only [hn, draining, due, if_true]

/-! ## An `llk` at its home (05 R125) -/

section
variable (hq : tfind s.lreqs q = some r) (hc : tfind s.ctxs r.ctx = some c) (hop : r.op = .llk) (arrived : r.arrived = none)
  (answer : r.answer = none) (hk : s.keptAnswer r.ctx r.num = none) (life : r.xb.toNat % 2 ^ 32 ≠ 0) (good : r.bad = false)
  (hf : (s.leases.find? fun p => p.2.obj = .lock c.space r.lock) = some (n, l)) (hn : tfind s.leases n = some l)
include hq hc hop arrived answer hk life good hf hn

theorem llkArrival_parks (alive : l.alive = true) : exec (.llkRequestArrival q) s = .next { s with fresh := s.fresh + 1, lreqs := tset s.lreqs q { r with
    order := s.fresh, parked := true, lock := n, arrived := some (s.tickOf l.home) } } := by
  have up : l.st ≠ .lapsing ∧ l.st ≠ .lapsed := by
    constructor <;> intro st <;> rw [Lease.alive, st] at alive <;> cases alive
  have parks := State.llkAt_parks (u := { s with fresh := s.fresh + 1 }) (q := q) (r := { r with op := .llk, order := s.fresh }) (c := c) life
    (State.lockEntry_old hf) hn up.1 fun k => up.2 k.1
  rw [exec_llkRequestArrival hq hop arrived answer, State.leaseArrives_llk hq hc hop hk]
  refine congrArg _ ((congrArg (State.llkAt _ q _ c) good).trans (parks.trans ?_))
  rw [← hop]
  rfl

theorem llkArrival_grants (st : l.st = .lapsed) (draining : l.draining = none) (last : l.last = none) (room : s.locksFull l.home = false) :
    ∃ t m z, exec (.llkRequestArrival q) s = .next t ∧ tfind t.leases n = some m ∧ m.st = .granted ∧ m.obj = l.obj ∧
      m.gen = BitVec.ofNat 24 (l.count + 1) ∧ m.expiry = s.tickOf l.home + r.xb.toNat % 2 ^ 32 ∧ m.pop = c.entry ∧ tfind t.lreqs q = some z ∧
      z.answer = some m.handle ∧ z.granted = some n := by
  have serves := State.llkAt_serves (u := { s with fresh := s.fresh + 1 }) (q := q) (r := { r with op := .llk, order := s.fresh }) (c := c) life
    (State.lockEntry_old hf) hn st draining
  obtain ⟨m, lease, request, granted⟩ := State.grantLock_grants
    (s := ({ s with fresh := s.fresh + 1 } : State).parkLock q { r with op := .llk, order := s.fresh } n l) hn State.withReq_found hc
  have grants := State.serveLock_grants (u := ({ s with fresh := s.fresh + 1 } : State).parkLock q { r with op := .llk, order := s.fresh } n l)
    hn State.withReq_found room last
  refine ⟨_, m, _, ?_, lease, ?_, ?_, ?_, ?_, ?_, request, rfl, rfl⟩
  · rw [exec_llkRequestArrival hq hop arrived answer, State.leaseArrives_llk hq hc hop hk]
    exact congrArg _ ((congrArg (State.llkAt _ q _ c) good).trans (serves.trans grants))
  · rw [granted]; rfl
  · rw [granted]; rfl
  · rw [granted]; rfl
  · rw [granted]; rfl
  · rw [granted]; rfl

end

/-! ## The wait bound (05 R125) -/

theorem llkTimeout_answers (hq : tfind s.lreqs q = some r) (ends : s.tickEnds (s.dieOfReq r) = true)
    (served : s.locksToServe (s.dieOfReq r) = []) (over_ : s.waitOver (q, r) = true) : ∃ t, exec (.llkTimeout q) s = .next t ∧
      tfind t.lreqs q = some { r with parked := false, answer := some (BitVec.ofNat 64 (2 ^ 63 + 7)) } ∧ t.leases = s.leases := by
  refine ⟨s.timeOut q r, ?_, ?_, rfl⟩
  · show execLlkTimeout q s = _
    unfold execLlkTimeout
    simp only [hq, ends, served, over_, List.isEmpty_nil, Bool.and_self, if_true]
  · rw [← status_eq_ofNat (by decide)]
    exact tfind_tset_self ..

/-! ## The drain of the last holder (05 R126; 10 R217) -/

/-- A line of the last holder's ranges goes home, and stays only where it is not guarded. -/
def State.drainLine (h : Holder) (s : State) (k : Nat) : State :=
  match tfind (s.cell h.cell).l1 k with
  | some l => if l.guarded then s.l1Flush h.cell k else s.l1WriteBack h.cell k
  | none => s

theorem State.drainHolder_eq : s.drainHolder n h =
    ((s.linesOf h).foldl (State.drainLine h) s).modCell h.cell fun c => { c with guards := c.guards.filter fun g => g.lease ≠ n } := rfl

theorem Flushes.drainLine (s : State) (h : Holder) (k : Nat) : Flushes s (s.drainLine h k) := by
  unfold State.drainLine
  split
  · split
    · exact .l1Flush ..
    · exact .l1WriteBack ..
  · exact .refl s

theorem Flushes.drained (s : State) (h : Holder) (l : List Nat) : Flushes s (l.foldl (State.drainLine h) s) := by
  induction l generalizing s with
  | nil => exact .refl s
  | cons k l ih => exact (Flushes.drainLine s h k).trans (ih _)

theorem LineOnly.drainLine (s : State) (h : Holder) (k : Nat) : LineOnly s (s.drainLine h k) h.cell k := by
  unfold State.drainLine
  split
  · split
    · exact .l1Flush ..
    · exact .l1WriteBack ..
  · exact .of_cells rfl fun _ => rfl

theorem State.drainLine_clean (rises : risesFrom 0 (s.cell h.cell).l1 = true) {k : Nat} {y : L1Line}
    (hy : tfind ((s.drainLine h k).cell h.cell).l1 k = some y) : y.dirty = 0 := by
  unfold State.drainLine at hy
  split at hy
  · split at hy
    · rw [State.l1Flush, State.tfind_l1Drop ((LineOnly.l1WriteBack s h.cell k).rises rises), if_pos rfl] at hy
      cases hy
    · exact State.l1WriteBack_clean rises hy
  · next none =>
    rw [none] at hy
    cases hy

theorem State.drained_settles (rises : risesFrom 0 (s.cell h.cell).l1 = true) :
    (∀ k, k ∈ s.linesOf h → ∀ y, tfind (((s.linesOf h).foldl (State.drainLine h) s).cell h.cell).l1 k = some y → y.dirty = 0) ∧
      ∀ k, (∀ j, j ∈ s.linesOf h → j ≠ k) → tfind (((s.linesOf h).foldl (State.drainLine h) s).cell h.cell).l1 k = tfind (s.cell h.cell).l1 k := by
  refine foldl_settles (f := State.drainLine h) (look := fun s k => tfind (s.cell h.cell).l1 k) (key := id)
    (val := fun k => (tfind (s.cell h.cell).l1 k).getD {}) (inv := fun s => risesFrom 0 (s.cell h.cell).l1 = true)
    (good := fun o => ∀ y, o = some y → y.dirty = 0) (fun u k hu => (LineOnly.drainLine u h k).rises hu)
    (fun u k j hu hj => (LineOnly.drainLine u h k).others hu j hj) (fun u k hu _ y hy => State.drainLine_clean hu hy) _ s rises fun k hk => ?_
  obtain ⟨p, hp, rfl⟩ := List.mem_map.1 hk
  rw [id, tfind_of_mem rises (List.mem_filter.1 hp).1]
  exact .inl rfl

theorem State.drained_rises (rises : risesFrom 0 (s.cell h.cell).l1 = true) (l : List Nat) :
    risesFrom 0 ((l.foldl (State.drainLine h) s).cell h.cell).l1 = true := by
  induction l generalizing s with
  | nil => exact rises
  | cons k l ih => exact ih ((LineOnly.drainLine s h k).rises rises)

/-- A line lies in a holder's ranges. -/
def Holder.covers (h : Holder) (y : L1Line) : Prop := y.sid = h.sid ∧ ∃ g, g ∈ h.ranges ∧ g.1 ≤ y.va ∧ y.va < g.1 + g.2

theorem State.mem_linesOf {p : Nat × L1Line} (hp : p ∈ (s.cell h.cell).l1) (covered : h.covers p.2) : p.1 ∈ s.linesOf h := by
  obtain ⟨sid, g, hg, inside⟩ := covered
  refine List.mem_map.2 ⟨p, List.mem_filter.2 ⟨hp, ?_⟩, rfl⟩
  rw [decide_eq_true sid, Bool.true_and]
  exact List.any_eq_true.2 ⟨g, hg, decide_eq_true inside⟩

theorem lockDrain_done (hn : tfind s.leases n = some l) (draining : l.draining = some q) (last : l.last = some h) (undrained : l.drained = false)
    (rises : risesFrom 0 (s.cell h.cell).l1 = true) : ∃ t, exec (.lockDrain n) s = .next t ∧ tfind t.leases n = some { l with drained := true } ∧
      (∀ g, g ∈ (t.cell h.cell).guards → g.lease ≠ n) ∧
      ∀ p, p ∈ (t.cell h.cell).l1 → h.covers p.2 → p.2.dirty = 0 := by
  have run : exec (.lockDrain n) s = .next ((s.drainHolder n h).modLease n fun l => { l with drained := true }) := by
    show execLockDrain n s = _
    unfold execLockDrain
    simp only [hn, draining, last, undrained, Bool.false_eq_true, if_false]
  have found : tfind (s.drainHolder n h).leases n = some l := by
    rw [State.drainHolder_eq]
    exact (congrArg (tfind · n) (Flushes.drained s h _).leases).trans hn
  have set := State.modLease_eq (f := fun l => { l with drained := true }) found
  refine ⟨_, run, ?_, fun g hg => ?_, fun p hp covered => ?_⟩
  · rw [set]
    exact tfind_tset_self ..
  · rw [set] at hg
    change g ∈ ((s.drainHolder n h).cell h.cell).guards at hg
    rw [State.drainHolder_eq, State.cell_modCell_self] at hg
    exact of_decide_eq_true (List.mem_filter.1 hg).2
  · rw [set] at hp
    change p ∈ ((s.drainHolder n h).cell h.cell).l1 at hp
    rw [State.drainHolder_eq, State.cell_modCell_self] at hp
    obtain ⟨clean, same⟩ := State.drained_settles rises
    have here := tfind_of_mem (State.drained_rises rises _) hp
    by_cases listed : p.1 ∈ s.linesOf h
    · exact clean p.1 listed p.2 here
    · have kept := same p.1 fun j hj e => listed (e ▸ hj)
      rw [here] at kept
      exact absurd (State.mem_linesOf (mem_of_tfind kept.symm) covered) listed

/-! ## A cell learns of a lock's lapse (10 R217) -/

/-- A cell that has learned of a lock's lapse: no range of it is held, and its clean guarded lines are gone. -/
def Cell.unheld (n : Nat) (c : Cell) : Cell :=
  { c with
    guards := c.guards.map fun g => if g.lease = n then { g with held := false } else g
    l1 := c.l1.filter fun l => !(l.2.guarded && l.2.dirty = 0 && (c.guards.filter fun g => g.lease = n && g.held).any fun g =>
      g.sid = l.2.sid && decide (g.base ≤ l.2.va ∧ l.2.va < g.base + g.len)) }

theorem guardNotice_told (he : tfind s.notices e = some z) (guard : z.guard = some (cell, n)) (hn : tfind s.leases n = some l)
    (gen : l.gen = z.gen) (dead : l.alive = false) : ∃ t, exec (.guardNotice e) s = .next t ∧
      (∀ g, g ∈ (t.cell cell).guards → g.lease = n → g.held = false) ∧
      ∀ x, x ∈ (t.cell cell).l1 ↔ x ∈ (s.cell cell).l1 ∧ ¬ (x.2.guarded = true ∧ x.2.dirty = 0 ∧ ∃ g, g ∈ (s.cell cell).guards ∧
        g.lease = n ∧ g.held = true ∧ g.sid = x.2.sid ∧ g.base ≤ x.2.va ∧ x.2.va < g.base + g.len) := by
  refine ⟨({ s with notices := tdel s.notices e } : State).modCell cell (Cell.unheld n), ?_, fun g hg mine => ?_, fun x => ?_⟩
  · show execGuardNotice e s = _
    unfold execGuardNotice
    simp only [he, guard, hn, gen, dead, decide_true, Bool.not_false, Bool.and_self, Bool.not_true, Bool.false_eq_true, if_false]
    rfl
  · rw [State.cell_modCell_self] at hg
    obtain ⟨g', -, rfl⟩ := List.mem_map.1 hg
    split at mine
    · next e => rw [if_pos e]
    · next e => exact absurd mine e
  · rw [State.cell_modCell_self]
    have same : ({ s with notices := tdel s.notices e } : State).cell cell = s.cell cell := rfl
    rw [same, Cell.unheld, List.mem_filter]
    refine and_congr_right fun _ => ?_
    simp only [Bool.not_eq_true', Bool.eq_false_iff, ne_eq, Bool.and_eq_true, decide_eq_true_eq, List.any_eq_true, List.mem_filter, and_assoc]

end

end Sys2Proof.Machine
end

section
/-! PROOFS. What happens to leases between instructions, as the obligation states it (05 R121-R126; 08 R191-R201; 10 R217; 19 R350-R353). -/

set_option Elab.async false

namespace Sys2Proof.Machine

/-- Settles O43: what each event of a lease, of its requests and of its scrub does. -/
theorem leaseEvents : Obligations.LeaseEvents := by
  intro n q e die cell s
  refine ⟨?renewal, ?extension, exec_homeTickStep_waits, ?expiry, ?notice, ?lapsing, ?ended, ?scrub, ?sweep, ?requests, ?replies, ?fault, ?timeout,
    ?drain, ?grant, ?guard⟩
  case renewal =>
    intro r l quiet extensions lreqs op arrived held parked there entry found home life
    obtain ⟨ends, unticked, inside, notices, -, later, unlocked, rises⟩ := quiet
    have one : s.OneRenewal die q r n l :=
      ⟨⟨ends, unticked, inside, notices, later, unlocked, rises⟩, extensions, lreqs, op, arrived, held, parked, there, entry, found⟩
    by_cases gen : l.gen = handleGen r.xa
    · by_cases late : l.alive = false ∨ l.expiry < s.tickOf l.home
      · obtain ⟨t, run, stepped, lapsed⟩ := one.refuses_late gen late
        refine ⟨t, run, stepped, fun _ alive due => ?_, fun other => absurd gen other, fun _ _ => lapsed⟩
        exact (late.elim (fun dead => Bool.false_ne_true (dead.symm.trans alive)) (Nat.not_lt.2 due)).elim
      · have alive : l.alive = true := eq_true_of_ne_false fun dead => late (.inl dead)
        obtain ⟨t, run, stepped, runs, answered⟩ := one.renews gen alive (Nat.not_lt.1 fun k => late (.inr k)) life
        obtain ⟨m, lease, live, expiry⟩ := runs
        exact ⟨t, run, stepped, fun _ _ _ => ⟨m, lease, live, expiry, answered⟩, fun other => absurd gen other, fun _ k => absurd k late⟩
    · obtain ⟨t, run, stepped, stale⟩ := one.refuses_stale gen
      exact ⟨t, run, stepped, fun k => absurd k gen, fun _ => stale, fun k => absurd k gen⟩
  case extension =>
    intro x l quiet lreqs extensions lease found home gen alive due life
    obtain ⟨ends, unticked, inside, notices, -, later, unlocked, rises⟩ := quiet
    have calm : s.TickQuiet die n := ⟨ends, unticked, inside, notices, later, unlocked, rises⟩
    exact calm.extends lreqs extensions lease found home gen alive due life
  case expiry =>
    intro l found ends renewed alive extended waits rises below
    exact ⟨fun due => leaseExpiry_due found ends renewed alive extended waits ⟨rises, below⟩ due, fun early => leaseExpiry_early found early⟩
  case notice => exact fun z found guard => exec_lapseNotice found guard
  case lapsing =>
    intro l found st busy
    rw [exec_lapsingEnd found, busy, Bool.and_false]
    rfl
  case ended => exact fun l found st done => lapsingEnd_done found st done
  case scrub =>
    intro j c b k l hj lease found obj book frames areas row due part rises _
    obtain ⟨t, run, gone, ⟨bytes, full, tags⟩, freed⟩ := scrubJobComplete_sp hj lease found obj book frames areas row due part rises
    exact ⟨t, run, gone, bytes, full, tags, freed⟩
  case sweep =>
    intro i j l p k hf found obj due book frames areas part single rises
    exact cacheSweep_ends hf found obj due book frames areas part single rises
  case requests =>
    intro r c hq hc arrived answer fault
    refine ⟨fun op => ⟨_, exec_leaseRequestArrival hq (by rw [op]; decide) arrived answer fault, ?_⟩, fun op => ?_, fun k v g op kept => ?_, ?_, ?_⟩
    · rw [State.leaseArrives_life hq hc op]
      exact tfind_tset_self ..
    · obtain ⟨es, spread⟩ := State.leaseArrives_spreads hq hc op
      refine ⟨_, (exec_leaseRequestArrival hq (by rw [op]; decide) arrived answer fault), ?_⟩
      rw [spread]
    · rw [exec_leaseRequestArrival hq (by rw [op]; exact nofun) arrived answer fault, State.leaseArrives_kept hq hc op kept]
      rfl
    · exact fun op kept life good l hf found alive => llkArrival_parks hq hc op arrived answer kept life good hf found alive
    · exact fun op kept life good l hf found st draining last room =>
        llkArrival_grants hq hc op arrived answer kept life good hf found st draining last room
  case replies =>
    intro r c v hq hc answer wait
    refine ⟨fun l granted op found => ?_, fun granted => ?_⟩
    · obtain ⟨t, m, x, run, ctx, done, num, lease, st, mark⟩ := grantReply_taken hq hc answer wait granted op found
      exact ⟨t, m, x, run, ⟨x, ctx, done⟩, ctx, num, lease, st, mark⟩
    · obtain ⟨t, x, run, ctx, done, leases⟩ := leaseReply_taken hq hc answer wait granted
      exact ⟨t, run, ⟨x, ctx, done⟩, leases⟩
  case fault =>
    exact fun r c code hq hc answer granted fault wait handler hb hp => leaseReply_traps hq hc answer granted fault wait handler hb hp
  case timeout => exact fun r hq ends served over_ => llkTimeout_answers hq ends served over_
  case drain =>
    intro l r h found draining last undrained rises
    obtain ⟨t, run, lease, guards, lines⟩ := lockDrain_done found draining last undrained rises
    exact ⟨t, run, lease, guards, fun x hx sid covered => lines x hx ⟨sid, covered⟩⟩
  case grant =>
    intro l r c found draining ready hq hc
    obtain ⟨m, lease, request, granted⟩ := State.grantLock_grants found hq hc
    refine ⟨_, m, exec_lockGrant found draining ready, lease, ?_, ?_, ?_, ?_, ?_, request⟩
    · rw [granted]; rfl
    · rw [granted]; rfl
    · rw [granted]; rfl
    · rw [granted]; rfl
    · rw [granted]; rfl
  case guard => exact fun z l he guard found gen dead => guardNotice_told he guard found gen dead

end Sys2Proof.Machine
end
